-- ==== Sys2Proof/Word.lean ====
section
/-! DEFINITION. The block's data word (R4) and the address types of the model. -/

namespace Sys2Proof

/-- A data word is 48 bits (R4). -/
abbrev Word := BitVec 48

/-- The accumulator of a core and of a law slot is 112 bits wide (R55, R204). -/
abbrev Acc := BitVec 112

end Sys2Proof
end

