-- ==== Sys2Proof/Syntax.lean ====
section
/-! DEFINITION. The commands of the block with their operands. -/

namespace Sys2Proof

/-- Who makes an access to the register space, and the system type it carries: `who` numbers the
requesters as R317 and R450 do (R136: 0 to 9 the cores, 10 the host, 11 the debugger, 15 none),
`otype` is the OTYPE of the token of a store (R236), 0 where it carries none. -/
structure Req where
  who   : Fin 16
  otype : BitVec 8
deriving DecidableEq, Repr

/-- An upset of a stored word (R273): one bit of its 48 data and 8 check bits, two or more bits, or
disagreeing copies of its pair's tag. -/
inductive Upset where
  | none
  | bit (b : Fin 56)
  | multi
  | tag
deriving DecidableEq, Repr

/-- An upset that has struck a word, or the tag copies of its pair, in a way of a supervisor's I-cache (`inst`) or D-cache
(R299). A way of the I-cache counts modulo 4. -/
structure CacheUpset where
  inst : Bool
  way  : Fin 8
  set  : Fin 128
  word : Fin 8
  up   : Upset
deriving DecidableEq, Repr

/-- Where LINE_FILL acts (R286): the supervisor core, and what has struck its caches' words before (R299). -/
structure FillAt where
  core : Fin 2
  up   : List CacheUpset
deriving DecidableEq, Repr

/-- What the other port of an array does with the same word in the same cycle (R269). -/
inductive Meet where
  | none | read | write
deriving DecidableEq, Repr


/-- The commands of the block: one constructor for each row of spec/opcode_table.json, in its order. -/
inductive Instr where
  /-- SAMPLE_CAPTURE (R15): An ingress lane takes a sample in a PORT cycle in which RN_SMP_VLD is high, checks it, scales it and presents it to its destination. -/
  | sampleCapture (k : Fin 16) (sub : BitVec 4) (data : BitVec 24) (tsc : BitVec 16) (tsf : BitVec 7) (par : Bool)
  /-- EDGE_WORD_LEAVE (R26): The word at the head of a lane queue leaves on the egress lane, clamped or discarded if it must be. -/
  | edgeWordLeave (k : Fin 16)
  /-- APPLIED_REPORT (R31): A readback report from the host is received and CVP_APPLIED is updated. -/
  | appliedReport (k : Fin 16) (d : BitVec 32)
  /-- APPLIED_REPORT_TIMEOUT (R32): No report for an expected commutation arrives within the bound, and APPLIED_MISMATCH is set. -/
  | appliedReportTimeout (k : Fin 16)
  /-- TAG_ARM_CYCLE (R28): The arm cycle of a posted tag begins: the posting counts as armed, SSPARM fires, and a void tag is released. -/
  | tagArmCycle (tag : Fin 32)
  /-- TRIP_INPUT (R36): A trip input becomes active and forces the safe pattern on the pairs of its enabled groups. -/
  | tripInput (i : Fin 64)
  /-- TGLATCH_CLEAR (R37): A write of 1 to a bit of CVP_TGLATCH clears the latch only if the group input is inactive. -/
  | tglatchClear (q : Req) (v : BitVec 16)
  /-- DRIVE_GNT_RISE (R39): RN_DRIVE_GNT rises: with the request high, pairs are released at next updates and hand-overs are requested. -/
  | driveGntRise
  /-- DRIVE_GNT_FALL (R39): RN_DRIVE_GNT falls while the request is high: all pairs go safe and GNT_LOST is raised. -/
  | driveGntFall
  /-- SWNODE_HIGH (R38): The first high sample of a switch-node input after a turn-on commutation stores the delay in CVP_SWNDLY. -/
  | swnodeHigh (o : Fin 512) (fine : BitVec 7)
  /-- SWNODE_WINDOW_EXPIRY (R38): No high switch-node sample arrives within CVP_SWNWIN: the result is 0x1FFF and NO_ZVS is set. -/
  | swnodeWindowExpiry (o : Fin 512)
  /-- SLOT_ENABLE (R56): A write of AE_SLOTCTL.EN from 0 to 1 checks the law program and enables the slot or sets FORM. -/
  | slotEnable (q : Req) (n : Fin 128)
  /-- SLOT_DISABLE (R49): A write of 0 to AE_SLOTCTL.EN disables the slot at once if ARMED, else at its next prime point. -/
  | slotDisable (q : Req) (n : Fin 128)
  /-- PRIME_POINT (R45): A slot reaches its prime point and begins a new evaluation with its PRE section. -/
  | primePoint (n : Fin 128)
  /-- LAW_TRIGGER (R46): A trigger reaches a law slot and, after decimation, starts OUTPUT, is held, or is ignored by phase. -/
  | lawTrigger (n : Fin 128)
  /-- LAW_NOP (R55): Law step NOP does nothing. -/
  | lawNop (n : Fin 128)
  /-- LAW_CLR (R55): Law step CLR clears the accumulator. -/
  | lawClr (n : Fin 128)
  /-- LAW_LDA (R55): Law step LDA loads the aligned signal into the accumulator. -/
  | lawLda (n : Fin 128)
  /-- LAW_MAC (R55): Law step MAC adds a signal times a coefficient to the accumulator. -/
  | lawMac (n : Fin 128)
  /-- LAW_MSU (R55): Law step MSU subtracts a signal times a coefficient from the accumulator. -/
  | lawMsu (n : Fin 128)
  /-- LAW_MACS (R55): Law step MACS adds the product of two signals to the accumulator. -/
  | lawMacs (n : Fin 128)
  /-- LAW_ADDS (R55): Law step ADDS adds an aligned signal to the accumulator. -/
  | lawAdds (n : Fin 128)
  /-- LAW_SUBS (R55): Law step SUBS subtracts an aligned signal from the accumulator. -/
  | lawSubs (n : Fin 128)
  /-- LAW_MACC (R55): Law step MACC adds a coefficient to the accumulator. -/
  | lawMacc (n : Fin 128)
  /-- LAW_ASH (R55): Law step ASH shifts the accumulator arithmetically, saturating on left overflow. -/
  | lawAsh (n : Fin 128)
  /-- LAW_ST (R55): Law step ST stores the rounded, saturated accumulator into a signal. -/
  | lawSt (n : Fin 128)
  /-- LAW_STL (R55): Law step STL stores the rounded, saturated and limited accumulator into a signal. -/
  | lawStl (n : Fin 128)
  /-- LAW_OUT (R55): Law step OUT writes a limited output, ends the OUTPUT section and starts the edge former. -/
  | lawOut (n : Fin 128)
  /-- LAW_MOV (R55): Law step MOV copies one signal to another. -/
  | lawMov (n : Fin 128)
  /-- LAW_BAR (R55): Law step BAR ends PRE and waits for the trigger; a held trigger starts OUTPUT at once. -/
  | lawBar (n : Fin 128)
  /-- LAW_END (R55): Law step END ends the evaluation and starts the slot's image write. -/
  | lawEnd (n : Fin 128)
  /-- SLOT_ADOPT (R67): A write of 1 to AE_SLOTCTL.ADOPT requests adoption of the image at the next prime point. -/
  | slotAdopt (n : Fin 128)
  /-- BSWAP (R80): A write of 1 to BSWAP requests a bank toggle at the next prime point, or at once on a disabled slot. -/
  | bswap (n : Fin 128)
  /-- HOREQ (R71): A write of 1 to AE_HOCTL.HOREQ requests a hand-over at the slot's next prime point. -/
  | horeq (n : Fin 128)
  /-- MANUAL_MODE_WRITE (R75): A write to AE_HOCTL.MAN changes manual mode at the next prime point, with a hand-over on leaving manual. -/
  | manualModeWrite (q : Req) (n : Fin 128) (man : Bool)
  /-- CBMODE_WRITE (R81): A write to CBMODE of an enabled slot takes effect at the next prime point after committing its queue entries. -/
  | cbmodeWrite (q : Req) (n : Fin 128) (bank : Bool)
  /-- COEF_WRITE (R79): An interconnect write to a coefficient enters the queue in direct mode, or is discarded in bank mode, or goes to RAM. -/
  | coefWrite (n w : Fin 128) (v : Word)
  /-- TEMPLATE_WRITE (R70): A write to AE_TMPL applies at the next edge forming and resets the template's adaptive dead time. -/
  | templateWrite (q : Req) (n : Fin 128) (e : Fin 8) (v : Word)
  /-- POLICY_WINDOW_WRITE (R82): A write of a policy window computes the effective window against the floor and applies it at the next boundary. -/
  | policyWindowWrite (q : Req) (k : Fin 3) (i : Fin 128) (v : Word)
  /-- PHASE_GROUP_UPDATE (R86): A phase group's load source delivers a value and the group decides whether to park or unpark a member. -/
  | phaseGroupUpdate (g : Fin 4)
  /-- SSP_CELL_ENABLE (R105): A write of SSP_CCFG.EN from 0 to 1 checks the cell configuration and enables it or sets FORM. -/
  | sspCellEnable (q : Req) (c : Fin 8)
  /-- SSP_CELL_DISABLE (R106): Clearing SSP_CCFG.EN discards the queued evaluation and held trigger. -/
  | sspCellDisable (q : Req) (c : Fin 8)
  /-- SSP_TRIGGER (R95): A sample on a cell's trigger input queues, replaces or is held as an evaluation. -/
  | sspTrigger (c : Fin 8)
  /-- SSP_DISPATCH (R96): A queued evaluation is dispatched to a free lane, runs for E cycles and selects the winner. -/
  | sspDispatch
  /-- SSP_RTRQ (R104): A write of 1 to SSP_CCFG.RTRQ requests retraction of the earliest unarmed posting. -/
  | sspRtrq (c : Fin 8)
  /-- SSP_ARMRQ (R104): A write of 1 to SSP_CCFG.ARMRQ requests an early arm of the earliest unarmed posting. -/
  | sspArmrq (c : Fin 8)
  /-- JTNS_WRITE (R112): A write to PCTL_JTNS stages nanoseconds and STEP for the next journal time set. -/
  | jtnsWrite (q : Req) (v : Word)
  /-- JTSEC_WRITE (R112): A write to PCTL_JTSEC sets journal time from the staged values, or refuses a backward set. -/
  | jtsecWrite (q : Req) (v : Word)
  /-- JTSEC_READ (R113): A read of PCTL_JTSEC latches nanoseconds and block time for a consistent triple. -/
  | jtsecRead
  /-- CADENCE_TICK (R114): A cadence generator ticks, sets TICK, fires CADENCEg and starts TASK checks. -/
  | cadenceTick (g : Fin 16)
  /-- CG_ENABLE (R114): A write of PCTL_CGCTL.EN enables or disables a cadence generator. -/
  | cgEnable (q : Req) (g : Fin 16)
  /-- DEADLINE_MISS (R116): A check's deadline passes without its end event and the monitor reacts. -/
  | deadlineMiss (m : Fin 256)
  /-- DM_GAP (R118): No start arrives within GAP cycles and a GAP miss is recorded. -/
  | dmGap (m : Fin 256)
  /-- PCTL_DMDONE (R115): A write to PCTL_DMDONE by the owner ends a TASK check. -/
  | pctlDmdone (q : Req) (m : Fin 256)
  /-- DM_MISS_CLEAR (R123): A write of 1 to DM_STS.MISS clears it and releases the monitor's safe condition. -/
  | dmMissClear (m : Fin 256)
  /-- DM_ENABLE (R127): A write of DM_CFG.EN enables a monitor or disables it, discarding its checks. -/
  | dmEnable (q : Req) (m : Fin 256)
  /-- SEM_EVENT (R132): A producer fires and each enabled channel selecting it routes the event to its consumer. -/
  | semEvent (half : Bool)
  /-- SEM_CHCFG_WRITE (R136): A write to SEM_CHCFG is checked against token, owner, security and binding, and takes effect or is discarded. -/
  | semChcfgWrite (q : Req) (n : Fin 256) (v : Word)
  /-- SEM_SWEV (R128): A write to SEM_SWEV fires the named software producers. -/
  | semSwev (v : BitVec 32)
  /-- SEM_TGLOCK (R139): A write of 1 to SEM_TGLOCK freezes a trip group's matrix registers until power-on reset. -/
  | semTglock (q : Req) (v : BitVec 16)
  /-- SEM_TGMATRIX_WRITE (R139): A write to SEM_TGEN or SEM_TGPR changes a trip group's inputs at once, unless frozen. -/
  | semTgmatrixWrite (q : Req) (g : Fin 16) (w : Fin 3) (v : Word)
  /-- INTC_SOURCE_EVENT (R143): A source's level changes or its strobe fires and its state and CNT are updated. -/
  | intcSourceEvent (n : Fin 512)
  /-- INTC_SELECT (R149): In a FABRIC cycle the INTC selects a pending source for each core and presents it. -/
  | intcSelect (k : Fin 10)
  /-- INTC_CLAIM (R151): A read of INTC_CLAIM claims the presented source or returns the spurious number. -/
  | intcClaim (q : Req) (k : Fin 10)
  /-- INTC_EOI (R152): A write to INTC_EOI ends service of a source. -/
  | intcEoi (k : Fin 10) (n : Fin 512)
  /-- INTC_MSET (R146): A write to INTC_MSET fires one strobe of a message source. -/
  | intcMset (n : Fin 512)
  /-- HOLDOFF_EXPIRY (R153): A group's hold-off timer stops and its IL sources compete again. -/
  | holdoffExpiry (q : Fin 32)
  /-- INTC_SRC_WRITE (R156): A write to INTC_SRC changes PRIO, LVL or TGT with the timing of its kind. -/
  | intcSrcWrite (q : Req) (n : Fin 512) (v : Word)
  /-- INTC_PHOLD_WRITE (R147): A write of INTC_CTRL.PHOLD holds or releases plant IL sources. -/
  | intcPholdWrite (q : Req) (hold : Bool)
  /-- INTERRUPT_ENTRY (R250): A presentation reaches a core, the instruction in progress completes or is abandoned, and the core enters its handler. -/
  | interruptEntry (k : Fin 10)
  /-- ASYNC_FAULT (R251): An asynchronous fault reaches the core and is taken or held pending. -/
  | asyncFault (k : Fin 10)
  /-- LOAD_RESPONSE (R180): The data of a load from another target arrives and is pushed or fills a reserved entry. -/
  | loadResponse (k : Fin 10) (cycles : BitVec 16)
  /-- POSTED_STORE_RESPONSE (R210): The response to a posted store arrives; an error or DENIED raises an asynchronous fault. -/
  | postedStoreResponse (k : Fin 10)
  /-- WAIT_END (R220): A waiting WAIT ends when a flag in its mask is set. -/
  | waitEnd (k : Fin 10) (cycles : BitVec 16)
  /-- FENCE_COMPLETE (R221): A waiting FENCE completes once every posted store has completed. -/
  | fenceComplete (k : Fin 10) (cycles : BitVec 16)
  /-- NOP (R194): Instruction NOP does nothing. -/
  | nop (k : Fin 10)
  /-- DUP (R194): Instruction DUP duplicates TOS. -/
  | dup (k : Fin 10)
  /-- DROP (R194): Instruction DROP discards TOS. -/
  | drop (k : Fin 10)
  /-- SWAP (R194): Instruction SWAP exchanges TOS and NOS. -/
  | swap (k : Fin 10)
  /-- OVER (R194): Instruction OVER pushes a copy of NOS. -/
  | over (k : Fin 10)
  /-- ROT (R194): Instruction ROT rotates the top three entries. -/
  | rot (k : Fin 10)
  /-- NIP (R194): Instruction NIP discards NOS. -/
  | nip (k : Fin 10)
  /-- TUCK (R194): Instruction TUCK copies TOS below NOS. -/
  | tuck (k : Fin 10)
  /-- ADD (R195): Instruction ADD adds two words modulo 2^48. -/
  | add (k : Fin 10)
  /-- SUB (R195): Instruction SUB subtracts two words modulo 2^48. -/
  | sub (k : Fin 10)
  /-- NEG (R195): Instruction NEG negates TOS. -/
  | neg (k : Fin 10)
  /-- ABS (R195): Instruction ABS takes the absolute value of TOS. -/
  | abs (k : Fin 10)
  /-- AND (R195): Instruction AND forms the bitwise AND. -/
  | and (k : Fin 10)
  /-- OR (R195): Instruction OR forms the bitwise OR. -/
  | or (k : Fin 10)
  /-- XOR (R195): Instruction XOR forms the bitwise XOR. -/
  | xor (k : Fin 10)
  /-- NOT (R195): Instruction NOT inverts TOS. -/
  | not (k : Fin 10)
  /-- ANDN (R195): Instruction ANDN forms a AND NOT b. -/
  | andn (k : Fin 10)
  /-- MIN (R195): Instruction MIN forms the signed minimum. -/
  | min (k : Fin 10)
  /-- MAX (R195): Instruction MAX forms the signed maximum. -/
  | max (k : Fin 10)
  /-- MINU (R195): Instruction MINU forms the unsigned minimum. -/
  | minu (k : Fin 10)
  /-- MAXU (R195): Instruction MAXU forms the unsigned maximum. -/
  | maxu (k : Fin 10)
  /-- ADDSAT (R195): Instruction ADDSAT adds with saturation. -/
  | addsat (k : Fin 10)
  /-- SUBSAT (R195): Instruction SUBSAT subtracts with saturation. -/
  | subsat (k : Fin 10)
  /-- MUL (R204): Instruction MUL starts a signed multiply into PH:PL. -/
  | mul (k : Fin 10)
  /-- MULU (R204): Instruction MULU starts an unsigned multiply into PH:PL. -/
  | mulu (k : Fin 10)
  /-- MAC (R204): Instruction MAC adds a signed product into ACC. -/
  | mac (k : Fin 10)
  /-- MSU (R204): Instruction MSU subtracts a signed product from ACC. -/
  | msu (k : Fin 10)
  /-- CLRACC (R205): Instruction CLRACC clears ACC in program order with accumulations. -/
  | clracc (k : Fin 10)
  /-- RDPH (R204): Instruction RDPH pushes PH. -/
  | rdph (k : Fin 10)
  /-- RDPL (R204): Instruction RDPL pushes PL. -/
  | rdpl (k : Fin 10)
  /-- RDACC0 (R204): Instruction RDACC0 pushes ACC bits 47:0. -/
  | rdacc0 (k : Fin 10)
  /-- RDACC1 (R204): Instruction RDACC1 pushes ACC bits 95:48. -/
  | rdacc1 (k : Fin 10)
  /-- RDACC2 (R204): Instruction RDACC2 pushes ACC bits 111:96. -/
  | rdacc2 (k : Fin 10)
  /-- LDL (R199): Instruction LDL pushes a local. -/
  | ldl (k : Fin 10) (n : Fin 16)
  /-- PUTL (R199): Instruction PUTL pops into a local. -/
  | putl (k : Fin 10) (n : Fin 16)
  /-- TEEL (R199): Instruction TEEL copies TOS into a local. -/
  | teel (k : Fin 10) (n : Fin 16)
  /-- PICK (R199): Instruction PICK pushes a copy of a deeper entry. -/
  | pick (k : Fin 10) (n : Fin 32)
  /-- LIT (R198): Instruction LIT pushes a sign-extended 9-bit literal. -/
  | lit (k : Fin 10) (v : BitVec 9)
  /-- ADDI (R198): Instruction ADDI adds a 9-bit immediate. -/
  | addi (k : Fin 10) (v : BitVec 9)
  /-- LIT16 (R198): Instruction LIT16 pushes a sign-extended 16-bit literal. -/
  | lit16 (k : Fin 10) (ps : Fin 8) (sn : Bool) (v : BitVec 16)
  /-- LITX16 (R198): Instruction LITX16 shifts TOS left 16 and inserts 16 bits. -/
  | litx16 (k : Fin 10) (ps : Fin 8) (sn : Bool) (v : BitVec 16)
  /-- ADDI16 (R198): Instruction ADDI16 adds a 16-bit immediate. -/
  | addi16 (k : Fin 10) (ps : Fin 8) (sn : Bool) (v : BitVec 16)
  /-- ANDI16 (R198): Instruction ANDI16 ANDs with a zero-extended immediate. -/
  | andi16 (k : Fin 10) (ps : Fin 8) (sn : Bool) (v : BitVec 16)
  /-- ORI16 (R198): Instruction ORI16 ORs with a zero-extended immediate. -/
  | ori16 (k : Fin 10) (ps : Fin 8) (sn : Bool) (v : BitVec 16)
  /-- XORI16 (R198): Instruction XORI16 XORs with a zero-extended immediate. -/
  | xori16 (k : Fin 10) (ps : Fin 8) (sn : Bool) (v : BitVec 16)
  /-- SHL (R196): Instruction SHL shifts left by an immediate. -/
  | shl (k : Fin 10) (n : Fin 64)
  /-- SHR (R196): Instruction SHR shifts right logically by an immediate. -/
  | shr (k : Fin 10) (n : Fin 64)
  /-- SAR (R196): Instruction SAR shifts right arithmetically by an immediate. -/
  | sar (k : Fin 10) (n : Fin 64)
  /-- ROL (R196): Instruction ROL rotates left by an immediate. -/
  | rol (k : Fin 10) (n : Fin 64)
  /-- SHLV (R196): Instruction SHLV shifts left by a stack count. -/
  | shlv (k : Fin 10)
  /-- SHRV (R196): Instruction SHRV shifts right logically by a stack count. -/
  | shrv (k : Fin 10)
  /-- SARV (R196): Instruction SARV shifts right arithmetically by a stack count. -/
  | sarv (k : Fin 10)
  /-- ROLV (R196): Instruction ROLV rotates left by a stack count. -/
  | rolv (k : Fin 10)
  /-- EXTU (R200): Instruction EXTU extracts an unsigned bit field. -/
  | extu (k : Fin 10) (ps : Fin 8) (sn : Bool) (pos len1 : Fin 64)
  /-- EXTS (R200): Instruction EXTS extracts a signed bit field. -/
  | exts (k : Fin 10) (ps : Fin 8) (sn : Bool) (pos len1 : Fin 64)
  /-- INS (R200): Instruction INS inserts a bit field. -/
  | ins (k : Fin 10) (ps : Fin 8) (sn : Bool) (pos len1 : Fin 64)
  /-- RNDACC (R206): Instruction RNDACC pushes ACC scaled, rounded and saturated. -/
  | rndacc (k : Fin 10) (n : Fin 64)
  /-- RNDACCS (R206): Instruction RNDACCS does RNDACC and writes the saturation to a predicate. -/
  | rndaccs (k : Fin 10) (ps : Fin 8) (sn : Bool) (n : Fin 64) (d : Fin 8)
  /-- WRACC (R205): Instruction WRACC writes a scaled word into ACC. -/
  | wracc (k : Fin 10) (n : Fin 64)
  /-- CMP (R202): Instruction CMP compares two words into a predicate. -/
  | cmp (k : Fin 10) (cc : Fin 16) (d : Fin 8)
  /-- CMPI (R202): Instruction CMPI compares TOS with an immediate into a predicate. -/
  | cmpi (k : Fin 10) (ps : Fin 8) (sn : Bool) (cc : Fin 16) (d : Fin 8) (v : BitVec 16)
  /-- TSTP (R202): Instruction TSTP sets a predicate from TOS being non-zero. -/
  | tstp (k : Fin 10) (d : Fin 8)
  /-- PAND (R203): Instruction PAND ANDs two predicates. -/
  | pand (k : Fin 10) (d a b : Fin 8)
  /-- POR (R203): Instruction POR ORs two predicates. -/
  | por (k : Fin 10) (d a b : Fin 8)
  /-- PXOR (R203): Instruction PXOR XORs two predicates. -/
  | pxor (k : Fin 10) (d a b : Fin 8)
  /-- PNOT (R203): Instruction PNOT inverts a predicate. -/
  | pnot (k : Fin 10) (d a : Fin 8)
  /-- RDP (R203): Instruction RDP pushes a predicate as 0 or 1. -/
  | rdp (k : Fin 10) (n : Fin 8)
  /-- GRD (R189): Prefix GRD guards the next one to four instructions. -/
  | grd (k : Fin 10) (cnt : Fin 4) (sn : Bool) (ps : Fin 8)
  /-- LDW (R207): Instruction LDW loads a word through a token at an immediate offset. -/
  | ldw (k : Fin 10) (t : Fin 16) (d : Fin 32)
  /-- STW (R207): Instruction STW stores a word through a token at an immediate offset. -/
  | stw (k : Fin 10) (t : Fin 16) (d : Fin 32)
  /-- LDWX (R207): Instruction LDWX loads a word at an indexed offset. -/
  | ldwx (k : Fin 10) (t : Fin 16) (d : Fin 32)
  /-- STWX (R207): Instruction STWX stores a word at an indexed offset. -/
  | stwx (k : Fin 10) (t : Fin 16) (d : Fin 32)
  /-- LDWD (R207): Instruction LDWD loads a word at a 16-bit offset. -/
  | ldwd (k : Fin 10) (ps : Fin 8) (sn : Bool) (t : Fin 16) (d : BitVec 16)
  /-- STWD (R207): Instruction STWD stores a word at a 16-bit offset. -/
  | stwd (k : Fin 10) (ps : Fin 8) (sn : Bool) (t : Fin 16) (d : BitVec 16)
  /-- LDWXD (R207): Instruction LDWXD loads a word at an indexed 16-bit offset. -/
  | ldwxd (k : Fin 10) (ps : Fin 8) (sn : Bool) (t : Fin 16) (d : BitVec 16)
  /-- STWXD (R207): Instruction STWXD stores a word at an indexed 16-bit offset. -/
  | stwxd (k : Fin 10) (ps : Fin 8) (sn : Bool) (t : Fin 16) (d : BitVec 16)
  /-- BCHK (R211): Instruction BCHK checks a value against a token's length. -/
  | bchk (k : Fin 10) (t : Fin 16)
  /-- BCHKR (R211): Instruction BCHKR checks a value against a range. -/
  | bchkr (k : Fin 10)
  /-- BR (R214): Instruction BR branches relatively. -/
  | br (k : Fin 10) (off : BitVec 9)
  /-- BRL (R214): Instruction BRL branches relatively with a 16-bit offset. -/
  | brl (k : Fin 10) (ps : Fin 8) (sn : Bool) (off : BitVec 16)
  /-- CALL (R214): Instruction CALL pushes the return PC and branches. -/
  | call (k : Fin 10) (off : BitVec 9)
  /-- CALLL (R214): Instruction CALLL calls with a 16-bit offset. -/
  | calll (k : Fin 10) (ps : Fin 8) (sn : Bool) (off : BitVec 16)
  /-- CALLF (R214): Instruction CALLF calls and opens a frame. -/
  | callf (k : Fin 10) (off : BitVec 9)
  /-- CALLFL (R214): Instruction CALLFL calls with a 16-bit offset and opens a frame. -/
  | callfl (k : Fin 10) (ps : Fin 8) (sn : Bool) (off : BitVec 16)
  /-- RET (R214): Instruction RET pops the return PC. -/
  | ret (k : Fin 10)
  /-- RETF (R214): Instruction RETF returns and closes a frame. -/
  | retf (k : Fin 10)
  /-- JMPI (R214): Instruction JMPI jumps to a PC from the stack. -/
  | jmpi (k : Fin 10)
  /-- CALLI (R214): Instruction CALLI calls a PC from the stack. -/
  | calli (k : Fin 10)
  /-- CALLFI (R214): Instruction CALLFI calls a PC from the stack and opens a frame. -/
  | callfi (k : Fin 10)
  /-- LOOP (R216): Instruction LOOP starts a hardware loop or skips the body. -/
  | loop (k : Fin 10) (ps : Fin 8) (sn : Bool) (e : BitVec 16) (endLong : Bool)
  /-- LEXIT (R216): Instruction LEXIT ends the innermost active loop. -/
  | lexit (k : Fin 10)
  /-- TOR (R215): Instruction TOR moves TOS to the return stack. -/
  | tor (k : Fin 10)
  /-- FROMR (R215): Instruction FROMR pops the return stack onto the operand stack. -/
  | fromr (k : Fin 10)
  /-- RFETCH (R215): Instruction RFETCH copies the top of the return stack. -/
  | rfetch (k : Fin 10)
  /-- DIV (R219): Instruction DIV divides signed into quotient and remainder. -/
  | div (k : Fin 10)
  /-- DIVU (R219): Instruction DIVU divides unsigned into quotient and remainder. -/
  | divu (k : Fin 10)
  /-- SCALL (R247): Instruction SCALL enters through an entry register. -/
  | scall (k : Fin 10) (n : Fin 8)
  /-- SRET (R248): Instruction SRET returns from a system call. -/
  | sret (k : Fin 10)
  /-- ERET (R252): Instruction ERET returns from the level in use. -/
  | eret (k : Fin 10)
  /-- FENCE (R221): Instruction FENCE waits for every posted store to complete. -/
  | fence (k : Fin 10)
  /-- WAIT (R220): Instruction WAIT polls or waits for event flags. -/
  | wait (k : Fin 10) (m : Fin 16)
  /-- EVPOLL (R220): Instruction EVPOLL pushes and clears the masked event flags. -/
  | evpoll (k : Fin 10) (m : Fin 16)
  /-- RDSR (R218): Instruction RDSR reads a core system register. -/
  | rdsr (k : Fin 10) (ps : Fin 8) (sn : Bool) (t : Fin 16) (n : BitVec 9)
  /-- WRSR (R218): Instruction WRSR writes a core system register. -/
  | wrsr (k : Fin 10) (ps : Fin 8) (sn : Bool) (t : Fin 16) (n : BitVec 9)
  /-- BMOVE (R222): Instruction BMOVE copies words between tokens, one per step. -/
  | bmove (k : Fin 10) (ps : Fin 8) (sn : Bool) (q d : Fin 16) (steps : Nat)
  /-- SAVEL (R223): Instruction SAVEL saves the lower half of the bank. -/
  | savel (k : Fin 10) (ps : Fin 8) (sn : Bool) (t : Fin 16) (steps : Nat)
  /-- SAVEU (R223): Instruction SAVEU saves the upper half of the bank with tags. -/
  | saveu (k : Fin 10) (ps : Fin 8) (sn : Bool) (t : Fin 16) (steps : Nat)
  /-- RESTL (R225): Instruction RESTL restores the lower half of the bank. -/
  | restl (k : Fin 10) (ps : Fin 8) (sn : Bool) (t : Fin 16) (steps : Nat)
  /-- RESTU (R225): Instruction RESTU restores the upper half of the bank. -/
  | restu (k : Fin 10) (ps : Fin 8) (sn : Bool) (t : Fin 16) (steps : Nat)
  /-- TMOV (R243): Instruction TMOV copies a token register. -/
  | tmov (k : Fin 10) (d q : Fin 16)
  /-- TGET (R243): Instruction TGET pushes a field of a token. -/
  | tget (k : Fin 10) (t : Fin 16) (f : Fin 8)
  /-- TCLR (R243): Instruction TCLR clears a token register. -/
  | tclr (k : Fin 10) (t : Fin 16)
  /-- TNARROW (R239): Instruction TNARROW derives a narrower token. -/
  | tnarrow (k : Fin 10) (d q : Fin 16)
  /-- TLD (R240): Instruction TLD loads a token with its tag. -/
  | tld (k : Fin 10) (d a : Fin 16)
  /-- TST (R240): Instruction TST stores a token with its tag. -/
  | tst (k : Fin 10) (a q : Fin 16)
  /-- TGETE (R246): Instruction TGETE copies an entry code part. -/
  | tgete (k : Fin 10) (d n : Fin 16)
  /-- TGETCT (R244): Instruction TGETCT copies the code token of the level in use. -/
  | tgetct (k : Fin 10) (d : Fin 16)
  /-- TROOT (R237): Instruction TROOT mints a root token. -/
  | troot (k : Fin 10) (d : Fin 16) (kind : Fin 4)
  /-- TSEAL (R241): Instruction TSEAL seals a token with a key's type. -/
  | tseal (k : Fin 10) (ps : Fin 8) (sn : Bool) (d q key : Fin 16)
  /-- TUNSEAL (R241): Instruction TUNSEAL unseals a token with a key. -/
  | tunseal (k : Fin 10) (ps : Fin 8) (sn : Bool) (d q key : Fin 16)
  /-- TSETE (R246): Instruction TSETE sets an entry register. -/
  | tsete (k : Fin 10) (ps : Fin 8) (sn : Bool) (n q key : Fin 16)
  /-- TSETCT (R245): Instruction TSETCT sets the code token of a lower level. -/
  | tsetct (k : Fin 10) (ps : Fin 8) (sn : Bool) (l : Fin 4) (q key : Fin 16)
  /-- BKDAT_READ (R170): A read of BKDAT returns the bank item selected by BKWIN. -/
  | bkdatRead (k : Fin 10) (ps : Fin 8) (sn : Bool) (t : Fin 16)
  /-- BKDAT_WRITE (R170): A write of BKDAT writes the bank item selected by BKWIN. -/
  | bkdatWrite (k : Fin 10) (ps : Fin 8) (sn : Bool) (t : Fin 16)
  /-- DETM_WRITE (R181): A write of DMCTL.DETM selects or requests deterministic mode. -/
  | detmWrite (k : Fin 10) (ps : Fin 8) (sn : Bool) (t : Fin 16)
  /-- DETM_ACTIVE (R181): A supervisor's caches finish cleaning and DETMACT becomes 1. -/
  | detmActive (k : Fin 2)
  /-- ROOTLOCK_WRITE (R237): A write of 1 to TOKCTL.ROOTLOCK forbids minting roots until reset. -/
  | rootlockWrite (k : Fin 10) (ps : Fin 8) (sn : Bool) (t : Fin 16)
  /-- SCIN_ABANDON (R248): A write of 1 to a SCIN bit abandons the open system call of that level. -/
  | scinAbandon (k : Fin 10) (ps : Fin 8) (sn : Bool) (t : Fin 16)
  /-- MASK_WRITE (R255): A write to MASKLVL or MMASK reaches the INTC in the next FABRIC cycle. -/
  | maskWrite (k : Fin 10) (ps : Fin 8) (sn : Bool) (t : Fin 16) (master : Bool)
  /-- SVC_CLEAN (R294): Cache operation CLEAN writes home the dirty line holding VA. -/
  | svcClean (k : Fin 2) (ps : Fin 8) (sn : Bool) (t : Fin 16)
  /-- SVC_INV (R294): Cache operation INV discards the line holding VA everywhere. -/
  | svcInv (k : Fin 2) (ps : Fin 8) (sn : Bool) (t : Fin 16)
  /-- SVC_CLEANINV (R294): Cache operation CLEANINV cleans then discards the line holding VA. -/
  | svcCleaninv (k : Fin 2) (ps : Fin 8) (sn : Bool) (t : Fin 16)
  /-- SVC_ICINV (R294): Cache operation ICINV discards the line from the I-cache and side buffer. -/
  | svcIcinv (k : Fin 2) (ps : Fin 8) (sn : Bool) (t : Fin 16)
  /-- SVC_ALLCLEAN (R294): Cache operation ALLCLEAN starts cleaning the D-cache and L2 in the background. -/
  | svcAllclean (k : Fin 2) (ps : Fin 8) (sn : Bool) (t : Fin 16)
  /-- SVC_ALLCLEANINV (R294): Cache operation ALLCLEANINV starts cleaning and invalidating everything. -/
  | svcAllcleaninv (k : Fin 2) (ps : Fin 8) (sn : Bool) (t : Fin 16)
  /-- SVC_ALLINV (R294): Cache operation ALLINV starts invalidating everything without write-back. -/
  | svcAllinv (k : Fin 2) (ps : Fin 8) (sn : Bool) (t : Fin 16)
  /-- SVC_OP_DONE (R294): A background cache operation completes and OPBUSY clears. -/
  | svcOpDone (k : Fin 2)
  /-- TLB_READ (R305): TLB command READ loads an entry into the staging registers. -/
  | tlbRead (k : Fin 2) (ps : Fin 8) (sn : Bool) (t : Fin 16)
  /-- TLB_WRITE (R305): TLB command WRITE writes the staged entry, or is refused. -/
  | tlbWrite (k : Fin 2) (ps : Fin 8) (sn : Bool) (t : Fin 16)
  /-- TLB_PROBE (R305): TLB command PROBE looks up the staged VPN and ASID. -/
  | tlbProbe (k : Fin 2) (ps : Fin 8) (sn : Bool) (t : Fin 16)
  /-- TLB_INVALL (R305): TLB command INVALL invalidates every entry. -/
  | tlbInvall (k : Fin 2) (ps : Fin 8) (sn : Bool) (t : Fin 16)
  /-- TLB_INVASID (R305): TLB command INVASID invalidates the entries of one ASID. -/
  | tlbInvasid (k : Fin 2) (ps : Fin 8) (sn : Bool) (t : Fin 16)
  /-- CURASID_WRITE (R306): A write of SVC_TLBCTL.CURASID completes after accesses under the old translation. -/
  | curasidWrite (k : Fin 2) (ps : Fin 8) (sn : Bool) (t : Fin 16)
  /-- DCACHE_DISABLE (R296): The D-cache leaves use: it stops allocating and starts cleaning. -/
  | dcacheDisable (k : Fin 2) (ps : Fin 8) (sn : Bool) (t : Fin 16)
  /-- DCACHE_CLEAN_DONE (R296): The cleaning of a D-cache leaving use ends and DDIS becomes 1. -/
  | dcacheCleanDone (k : Fin 2)
  /-- L2_ENABLE (R291): A write of SVC_L2CFG.EN = 1 initialises the L2 region's tag words. -/
  | l2Enable (k : Fin 2) (ps : Fin 8) (sn : Bool) (t : Fin 16)
  /-- L2_DISABLE (R296): A write of SVC_L2CFG.EN = 0 writes the region's dirty entries home and stops it. -/
  | l2Disable (k : Fin 2) (ps : Fin 8) (sn : Bool) (t : Fin 16)
  /-- WAY_DISABLE (R297): Clearing a bit of SVC_WAYEN evicts and powers down a way. -/
  | wayDisable (k : Fin 2) (ps : Fin 8) (sn : Bool) (t : Fin 16)
  /-- LINE_FILL (R286): A line fill completes and the line is allocated, evicting a victim. -/
  | lineFill (k : FillAt)
  /-- WC_BUFFER_TIMEOUT (R289): 64 CORE cycles pass with no store and the write-combining buffer is emitted. -/
  | wcBufferTimeout (k : Fin 2)
  /-- MEM_ACCESS (R271): An access reaches its target and acts: a read samples, an RC field clears, a store takes effect. -/
  | memAccess (k : Fin 10) (m : Meet) (u : Upset) (waited : BitVec 16)
  /-- MEM_RETRY (R270): A requester that received BUSY retries the access in the next cycle of its port. -/
  | memRetry (k : Fin 10) (m : Meet) (u : Upset)
  /-- SCRUB (R274): The scrubber reads a word and writes back a corrected value. -/
  | scrub (i : Fin 88) (u : Upset) (busy : Bool)
  /-- FRAME_START (R278): A 64-cycle frame starts and active reservations reload their credits. -/
  | frameStart
  /-- RESV_COMMIT (R277): A write of 1 to MEM_RESVCTL.COMMIT starts admission of the pending table. -/
  | resvCommit
  /-- RESV_ADMISSION_DONE (R277): Admission completes with its result, and an OK table activates at the next frame. -/
  | resvAdmissionDone
  /-- BANK_RETIRE (R275): A write of 1 to MEM_RETIRE retires a shared-memory bank. -/
  | bankRetire (q : Req) (st : Fin 16) (v : BitVec 4)
  /-- PNE_READ (R317): A write of 1 to PNE_MBPNT.RD starts a read of a point. -/
  | pneRead (q : Req) (r : Fin 12) (n : BitVec 25)
  /-- PNE_WRITE (R317): Mailbox operation WRITE writes a new value to a point. -/
  | pneWrite (q : Req) (r : Fin 12) (n : BitVec 25)
  /-- PNE_DEFINE (R317): Mailbox operation DEFINE defines an undefined point. -/
  | pneDefine (q : Req) (r : Fin 12) (n : BitVec 25)
  /-- PNE_DELETE (R317): Mailbox operation DELETE makes a point UNDEF. -/
  | pneDelete (q : Req) (r : Fin 12) (n : BitVec 25)
  /-- PNE_PIN (R317): Mailbox operation PIN pins a point in the cache. -/
  | pnePin (q : Req) (r : Fin 12) (n : BitVec 25)
  /-- PNE_UNPIN (R317): Mailbox operation UNPIN unpins a point. -/
  | pneUnpin (q : Req) (r : Fin 12) (n : BitVec 25)
  /-- PNE_DECLARE (R322): Mailbox operation DECLARE declares a unit's state, model and serial. -/
  | pneDeclare (q : Req) (r : Fin 12) (n : BitVec 25)
  /-- PNE_WOP_RESERVED (R317): Mailbox operation 7 completes BADARG. -/
  | pneWopReserved (q : Req) (r : Fin 12) (n : BitVec 25)
  /-- PNE_ADMISSION (R319): The PNE admits one waiting operation per FABRIC cycle and applies or journals it. -/
  | pneAdmission
  /-- POINT_DELIVERY (R321): A queued change is delivered to every consumer that names the point. -/
  | pointDelivery
  /-- CACHE_FILL (R316): The image read for a cache miss completes and fills the entry. -/
  | cacheFill
  /-- AGE_TICK (R315): The common age timer ticks and AGE of every entry advances. -/
  | ageTick
  /-- POINT_SCAN (R534): A scan read completes and the found point is sent or queued. -/
  | pointScan (u : Fin 1024)
  /-- PNE_CACHE_ENABLE (R315): A write of PNE_CCFG.EN = 1 clears the point cache. -/
  | pneCacheEnable (q : Req) (size : BitVec 2) (base : BitVec 4)
  /-- PNE_CACHE_DISABLE (R315): A write of PNE_CCFG.EN = 0 drops READY and starts flushing the cache. -/
  | pneCacheDisable (q : Req)
  /-- PNE_DISABLE_DONE (R315): Pending changes have taken effect, volatile values are written, and the cache stops. -/
  | pneDisableDone
  /-- PNE_READY (R327): The PNE start-up sequence completes and READY rises. -/
  | pneReady
  /-- RESTORE_TIMEOUT (R326): Restoration exceeds RESTTO rack cycles and the unit enters CONFLICT RESTORE. -/
  | restoreTimeout (u : Fin 1024)
  /-- JNE_OPEN (R332): A write of JNE_CTRL.EN = 1 checks the layout and starts recovery. -/
  | jneOpen (q : Req) (mirmode ackmode : Bool)
  /-- JNE_CLOSE (R356): A write of JNE_CTRL.EN = 0 closes admission and the journal goes OFF when U is 0. -/
  | jneClose (q : Req)
  /-- RECOVERY_COMPLETE (R376): Recovery ends, the new superblock is written, and the journal enters OPEN. -/
  | recoveryComplete
  /-- JNE_FORMAT (R333): JNE_CMD operation FORMAT with its key starts formatting the journal. -/
  | jneFormat (q : Req) (key : BitVec 16)
  /-- FORMAT_COMPLETE (R377): The formatting writes complete and the journal enters OPEN. -/
  | formatComplete
  /-- JNE_ADMIT (R342): The JNE admits one commit per SLOW cycle and assigns its CSN and time. -/
  | jneAdmit
  /-- PACE_REFILL (R342): The admission bucket gains one admission every 5 µs. -/
  | paceRefill
  /-- HEAD_BURST_RESPONSE (R331): The host's response to a head-tier burst arrives; OKAY marks its words persisted. -/
  | headBurstResponse
  /-- HEAD_BURST_TIMEOUT (R331): A head-tier burst gets no response within 1 ms and is retried or the journal faults. -/
  | headBurstTimeout
  /-- JOURNAL_ACK (R344): A commit meets its acknowledgment conditions and is acknowledged with its status. -/
  | journalAck
  /-- PFAIL (R348): RN_PFAIL is registered: the journal closes and persists staged words first. -/
  | pfail
  /-- PFAIL_REARM (R350): RN_PFAIL has been low for 10 ms and a CLOSED journal writes POWER_EVENT records and reopens. -/
  | pfailRearm
  /-- HOLDUP_WRITE (R347): A write to JNE_HOLDUP changes the budget B from the next SLOW cycle. -/
  | holdupWrite (q : Req) (v : Word)
  /-- JNE_MB_GO (R354): A write of GO = 1 to JNE_MBCTL requests a one-record firmware commit. -/
  | jneMbGo (q : Req) (r : Fin 12) (kind : BitVec 8) (len : BitVec 10)
  /-- MB_BODY_READ (R354): The read of a mailbox record body completes after admission. -/
  | mbBodyRead (r : Fin 12)
  /-- MQHEAD_WRITE (R334): A write to JNE_MQHEAD prompts completion processing. -/
  | mqheadWrite (m : Fin 16)
  /-- MQ_POLL (R334): The 100 µs poll of the completion rings expires. -/
  | mqPoll
  /-- MQ_COMPLETION (R334): A storage completion entry whose PHASE matches is consumed. -/
  | mqCompletion (m : Fin 16)
  /-- MERR_READMIT (R375): A write of 1 to MERR readmits a medium unit at the next batch. -/
  | merrReadmit (m : Fin 16)
  /-- DRYDOWN_BATCH (R364): Drydown forms a batch of persisted commits and submits its pages. -/
  | drydownBatch
  /-- SEG_PIN (R372): JNE_SEGCMD operation PIN pins a segment. -/
  | segPin (q : Req) (seq : BitVec 36)
  /-- SEG_UNPIN (R372): JNE_SEGCMD operation UNPIN unpins a segment and frees it if outside the live range. -/
  | segUnpin (q : Req) (seq : BitVec 36)
  /-- INFO_POLL (R361): Every INFOPER seconds an INFO submission goes to every enabled unit. -/
  | infoPoll
  /-- WAC_ENABLE (R382): A write of WAC_CTRL.EN = 1 initialises the state records. -/
  | wacEnable (q : Req) (nsw : BitVec 15) (uper ckper : BitVec 16)
  /-- WAC_DISABLE (R393): A write of WAC_CTRL.EN = 0 finishes the round and runs a final checkpoint. -/
  | wacDisable (q : Req)
  /-- WAC_ROUND (R383): A round starts and updates every tracked switch. -/
  | wacRound
  /-- WAC_CHECKPOINT (R390): The checkpoint period expires and a checkpoint starts. -/
  | wacCheckpoint
  /-- WAC_CKPT (R390): WAC_CMD operation CKPT starts a checkpoint. -/
  | wacCkpt (q : Req)
  /-- WAC_RESET (R392): WAC_CMD operation RESET resets a switch's state and counters. -/
  | wacReset (q : Req) (t : Fin 16384)
  /-- COUNTER_WRITE_DONE (R389): A counter's PNE write completes and the slot is reduced or CKERR set. -/
  | counterWriteDone
  /-- RLK_ENABLE (R407): A write of RLK_CTRL.EN starts or stops rack cycles. -/
  | rlkEnable (q : Req) (v : Word)
  /-- RING_ENABLE (R408): A write of RLK_RING.EN = 1 checks the ring configuration. -/
  | ringEnable (q : Req) (k : Fin 4) (v : Word)
  /-- RLK_CYCLE_START (R407): A rack cycle starts: frames go out, RLK_CYCLE fires, configuration is latched. -/
  | rlkCycleStart (late : List (Fin 1024))
  /-- UPLINK_SLOT (R411): A returning uplink slot is checked and its items take effect. -/
  | uplinkSlot (k : Fin 4) (pos : BitVec 8) (ws : List Word)
  /-- REPORT_HANDOFF (R414): A queued report is handed to the PNE as a rack-link report. -/
  | reportHandoff
  /-- FRAME_RETURN (R410): A ring's frame returns and is checked against the header sent. -/
  | frameReturn (k : Fin 4) (hdr : List Word) (ends aborted : Bool)
  /-- RLK_CYCLE_END (R407): A rack cycle ends and validity, liveness and quorum are handed on. -/
  | rlkCycleEnd
  /-- LOCK_LOST (R421): A lane loses block lock and the frame in progress aborts. -/
  | lockLost (l : Fin 6)
  /-- HIBER (R421): A lane's hi_ber monitor asserts. -/
  | hiber (l : Fin 6) (n : BitVec 16)
  /-- MLK_ENABLE (R449): A write of MLK_CTRL.EN = 1 checks MIVL and the lane-0 load. -/
  | mlkEnable (q : Req) (v : Word)
  /-- MLK_ARMED_WRITE (R428): A write of MLK_CTRL.ARMED marks the block's own configuration complete. -/
  | mlkArmedWrite (q : Req) (v : Word)
  /-- MIRROR_INTERVAL_START (R427): A mirror interval starts: MSIL updates, a heartbeat is sent and the role is evaluated. -/
  | mirrorIntervalStart
  /-- HEARTBEAT (R434): A HEARTBEAT frame is received and compatibility is negotiated. -/
  | heartbeat (ws : List Word)
  /-- IMAGE (R437): An IMAGE frame is received and its slot entries become pending images. -/
  | image (ws : List Word)
  /-- COMMIT (R439): A COMMIT frame is received and admitted by the standby's journal. -/
  | commit (ws : List Word)
  /-- ACK (R433): An ACK frame is received and commits up to ACKCSN count as MIRRORED. -/
  | ack (ws : List Word)
  /-- REPORT (R442): A REPORT frame is received and its reports go to the standby's PNE. -/
  | report (ws : List Word)
  /-- BULK (R444): A BULK frame is received into the generation buffer. -/
  | bulk (ws : List Word)
  /-- BULKEND (R444): A BULKEND frame completes a generation and starts its installation. -/
  | bulkend (ws : List Word)
  /-- GEN_INSTALL_DONE (R444): Installation of a generation ends. -/
  | genInstallDone
  /-- RSTART (R441): An RSTART frame starts a full resynchronisation on the standby. -/
  | rstart (ws : List Word)
  /-- IMGPAGE (R441): An IMGPAGE frame is written into the standby's point image. -/
  | imgpage (ws : List Word)
  /-- RSDONE (R441): An RSDONE frame completes a full resynchronisation on the standby. -/
  | rsdone (ws : List Word)
  /-- BC_START (R443): MLK_BCCMD operation START starts sending a new generation. -/
  | bcStart (q : Req) (elig : Bool)
  /-- BC_ABORT (R443): MLK_BCCMD operation ABORT abandons the generation in progress. -/
  | bcAbort (q : Req) (elig : Bool)
  /-- ACK_TIMEOUT (R440): A commit goes unacknowledged for ACKTO intervals and the mirror becomes STALE. -/
  | ackTimeout
  /-- CPT_ALLOC (R452): A read of CPT_ALLOC requests a buffer. -/
  | cptAlloc (q : Req) (r : Fin 12)
  /-- CPT_SUBMIT (R453): A write of CPT_SUBMIT checks and queues a packet. -/
  | cptSubmit (q : Req) (r : Fin 12) (b : Fin 64)
  /-- CPT_FREE (R453): A write of CPT_FREE frees a buffer. -/
  | cptFree (q : Req) (r : Fin 12) (b : Fin 64)
  /-- CPT_HDB (R456): A host doorbell write requests a buffer for a host packet. -/
  | cptHdb (q : Req) (a : BitVec 40)
  /-- CPT_PDB (R456): A partner doorbell write requests a buffer for a partner packet. -/
  | cptPdb (q : Req) (a : BitVec 40)
  /-- CPT_PACKET_FETCH (R456): The read of a host or partner packet completes and the buffer is submitted. -/
  | cptPacketFetch
  /-- CPT_REPLY_COPY (R456): A reply or notice copied to the host area completes with word 0 written. -/
  | cptReplyCopy
  /-- CPT_TAKE (R462): A write of CPT_TAKE moves the head buffer to EXEC. -/
  | cptTake (q : Req) (b : Fin 64)
  /-- CPT_REPLY (R462): A write of CPT_REPLY writes a buffer's reply header. -/
  | cptReply (q : Req) (b : Fin 64) (status : BitVec 4) (detail len : BitVec 8)
  /-- CPT_DEADLINE (R462): A buffer's deadline passes and TIMEOUT is replied. -/
  | cptDeadline (b : Fin 64)
  /-- EVENT_RING_WRITE (R466): A queued event is written into the host event ring and PROD advances. -/
  | eventRingWrite
  /-- CPT_NOP (R459): Command NOP returns its body. -/
  | cptNop
  /-- VERSION (R459): Command VERSION returns the block and firmware versions and role. -/
  | version
  /-- PT_READ (R459): Command PT_READ reads points. -/
  | ptRead
  /-- PT_WRITE (R459): Command PT_WRITE writes points. -/
  | ptWrite
  /-- PT_DEFINE (R459): Command PT_DEFINE defines points. -/
  | ptDefine
  /-- PT_DELETE (R459): Command PT_DELETE deletes points. -/
  | ptDelete
  /-- PT_PIN (R459): Command PT_PIN pins points. -/
  | ptPin
  /-- PT_UNPIN (R459): Command PT_UNPIN unpins points. -/
  | ptUnpin
  /-- UNIT_DECLARE (R459): Command UNIT_DECLARE declares units. -/
  | unitDeclare
  /-- UNIT_READ (R459): Command UNIT_READ reads unit state registers. -/
  | unitRead
  /-- TIME_GET (R459): Command TIME_GET returns a consistent time triple. -/
  | timeGet
  /-- TIME_SET (R461): Command TIME_SET sets journal time and commits a TIME_SET record. -/
  | timeSet
  /-- JNL_STATUS (R459): Command JNL_STATUS returns journal status registers. -/
  | jnlStatus
  /-- JNL_APPEND (R461): Command JNL_APPEND commits a firmware record. -/
  | jnlAppend
  /-- ROLE_GET (R459): Command ROLE_GET returns pair role and authority registers. -/
  | roleGet
  /-- REG_READ (R459): Command REG_READ reads register-space words. -/
  | regRead
  /-- REG_WRITE (R459): Command REG_WRITE writes register-space words as SV0 with system tokens. -/
  | regWrite
  /-- PLL_LOCK (R470): The PLL holds lock for 64 AON cycles and the dividers are released. -/
  | pllLock
  /-- PLL_LOCK_TIMEOUT (R470): Lock is not held within 100 µs and the PLL is restarted. -/
  | pllLockTimeout
  /-- LOSS_OF_LOCK (R471): The PLL drops lock: clocks stop, all pairs go safe and PLLERR is set. -/
  | lossOfLock
  /-- PD_ON (R474): Domain operation ON powers, releases retention or releases hold. -/
  | pdOn (q : Req) (d : Fin 56)
  /-- PD_RETAIN (R474): Domain operation RETAIN drains a memory domain and retains it. -/
  | pdRetain (q : Req) (d : Fin 56)
  /-- PD_OFF (R474): Domain operation OFF drains and powers down a domain. -/
  | pdOff (q : Req) (d : Fin 56)
  /-- PD_RESET (R474): Domain operation RESET drains, resets and releases a domain. -/
  | pdReset (q : Req) (d : Fin 56)
  /-- PD_HOLD (R474): Domain operation HOLD drains a domain and holds it in reset. -/
  | pdHold (q : Req) (d : Fin 56)
  /-- PD_FRESET (R474): Domain operation FRESET resets a domain without a drain. -/
  | pdFreset (q : Req) (d : Fin 56)
  /-- PD_FOFF (R474): Domain operation FOFF powers down a domain without a drain. -/
  | pdFoff (q : Req) (d : Fin 56)
  /-- PDACK_RISE (R473): RN_PDACK rises and the domain is clocked, cleared and released to ON. -/
  | pdackRise (d : Fin 56)
  /-- PDACK_FALL (R473): RN_PDACK falls after power-down and the domain is OFF. -/
  | pdackFall (d : Fin 56)
  /-- PDACK_TIMEOUT (R473): An acknowledgment edge does not come within PDTO and the domain faults. -/
  | pdackTimeout (d : Fin 56)
  /-- SUPPLY_FAULT (R473): RN_PDACK falls while the request is high and the domain is forced off with its dependants. -/
  | supplyFault (d : Fin 56)
  /-- DRAIN_COMPLETE (R477): A unit reports drained and PCTL performs the operation. -/
  | drainComplete (d : Fin 56)
  /-- DRAIN_TIMEOUT (R477): A unit has not drained 10 µs after the fence and the outcome is forced. -/
  | drainTimeout (d : Fin 56)
  /-- CORE_RUN (R479): A write of RUN = 1 to PCTL_CORECTL releases a core from reset. -/
  | coreRun (q : Req) (k : Fin 10) (rootok lockact : Bool)
  /-- POWER_ON_RESET (R481): Deassertion of RN_PORST_N is registered and the power-on sequence runs. -/
  | powerOnReset
  /-- SYSRST (R481): Assertion of RN_SYSRST_N starts a warm reset. -/
  | sysrst
  /-- SWRST (R481): A write of 1 to PCTL_CTRL.SWRST starts a warm reset. -/
  | swrst (q : Req)
  /-- BOOT_FILL (R483): Once stripe 0 is ON the boot header is checked and the image fill and hash start. -/
  | bootFill
  /-- BOOT_FILL_DONE (R483): The boot fill ends and SV0 is released if the digest matches. -/
  | bootFillDone
  /-- MANIFEST_LOAD (R485): The Flacon firmware verifies the manifest, loads images and releases cores. -/
  | manifestLoad (ws : List Word)
  /-- BLEVEL_WRITE (R486): A write of PCTL_BLEVEL.SEL selects the behaviour level for the next reset. -/
  | blevelWrite (q : Req) (sel : BitVec 2)
  /-- STUX_TRANSACTION (R510): A Stux header is received and the transaction runs to status and data. -/
  | stuxTransaction (h : BitVec 12) (d : Word) (c : BitVec 8)
  /-- STUX_RESYNC (R511): 64 ones and 8 zeros on the line return the front end to idle. -/
  | stuxResync
  /-- DP_PWRREQ (R512): A write of DP_CTRL.PWRREQ requests ON for PD53. -/
  | dpPwrreq
  /-- DP_TRPWR (R512): A write of DP_CTRL.TRPWR requests ON for PD55. -/
  | dpTrpwr
  /-- DP_ABORT (R512): A write of DP_ABORT clears sticky DP_STAT bits. -/
  | dpAbort (v : Word)
  /-- DP_CHAL (R515): DP_AUTH operation CHAL generates a challenge. -/
  | dpChal
  /-- DP_CHECK (R515): DP_AUTH operation CHECK starts the HMAC check of the response. -/
  | dpCheck (req : BitVec 2)
  /-- AUTH_CHECK_DONE (R515): The HMAC check completes and raises the level or counts a failure. -/
  | authCheckDone
  /-- DP_DROP (R515): DP_AUTH operation DROP sets AUTHLVL to 0. -/
  | dpDrop
  /-- AUTH_LOCKOUT_EXPIRY (R515): The 2^20 AON-cycle lockout after a failed check ends. -/
  | authLockoutExpiry
  /-- DBGCAP_CHANGE (R514): A change of RN_DBGCAP changes the effective level and may resume halted cores and block. -/
  | dbgcapChange (v : BitVec 2)
  /-- DP_HALT (R518): DP_HALT operation HALT asserts debug-halt safe and waits for safe entry. -/
  | dpHalt
  /-- HALT_WAIT_END (R518): The safe reports arrive or 32 cycles pass and the clocks stop at an aligned cycle. -/
  | haltWaitEnd
  /-- DP_RESUME (R519): DP_HALT operation RESUME restarts the clocks and clears the debug-halt source. -/
  | dpResume
  /-- DP_STEP (R519): DP_HALT operation STEP runs the clocks for a number of PORT cycles. -/
  | dpStep (n : BitVec 16)
  /-- STEP_END (R519): A block step's cycle count expires and the clocks stop again. -/
  | stepEnd
  /-- DP_MADDR_WRITE (R517): A write of DP_MADDR sets the debug access address. -/
  | dpMaddrWrite (v : Word)
  /-- DP_MDATA_READ (R517): A read of DP_MDATA starts or returns a debug memory read. -/
  | dpMdataRead
  /-- DP_MDATA_WRITE (R517): A write of DP_MDATA posts a debug memory write. -/
  | dpMdataWrite (v : Word)
  /-- DP_ACCESS_DONE (R517): A debug memory access completes. -/
  | dpAccessDone (m : Meet) (u : Upset)
  /-- DP_VT_READ (R521): A debugger read of DP_VT takes the DBG_VTOUT word. -/
  | dpVtRead
  /-- DP_VT_WRITE (R521): A debugger write of DP_VT fills DBG_VTIN. -/
  | dpVtWrite (v : Word)
  /-- VTOUT_WRITE (R521): A firmware write of DBG_VTOUT fills it or sets VTOVF. -/
  | vtoutWrite (v : Word)
  /-- VTIN_READ (R521): A firmware read of DBG_VTIN takes and empties it. -/
  | vtinRead
  /-- DBG_KEY_WRITE (R516): A write of DBG_KEY loads a key word. -/
  | dbgKeyWrite (w : Fin 6) (v : Word)
  /-- KEYLOCK (R516): A write of 1 to KEYLOCK forbids further key writes. -/
  | keylock (q : Req)
  /-- DBG_STOP (R520): A write of DBG_CORECTL.STOP stops a core at its next issue boundary. -/
  | dbgStop (q : Req) (k : Fin 10)
  /-- DBG_CORE_STEP (R520): A write of DBG_CORECTL.STEP issues one instruction or pair and stops. -/
  | dbgCoreStep (q : Req) (k : Fin 10)
  /-- DBG_CORE_RESUME (R520): A write of DBG_CORECTL.RESUME resumes a stopped core. -/
  | dbgCoreResume (q : Req) (k : Fin 10)
  /-- BREAKPOINT (R520): A core reaches a breakpoint PC and stops before issuing it. -/
  | breakpoint (k : Fin 10)
  /-- TRACE_WRITE (R522): A queued trace event is written into the trace ring. -/
  | traceWrite
  /-- TRMARK_WRITE (R522): A write of DBG_TRMARK records a MARK. -/
  | trmarkWrite (v : Word)
  /-- HSP_REQUEST (R495): A host slave port transaction is accepted and answered beat by beat. -/
  | hspRequest (write : Bool) (addr : BitVec 28) (len : Fin 8) (data : List (BitVec 64)) (up : List (Meet × Upset))
  /-- HMP_RESPONSE (R496): A response beat arrives on the host master port. -/
  | hmpResponse (tag : Fin 32) (code : BitVec 3) (data : BitVec 64)
  /-- HMP_TIMEOUT (R498): A host master port beat is not answered within 1 ms and completes DECERR. -/
  | hmpTimeout (tag : Fin 32)
  /-- REGISTER_WRITE (R10): A write to a register without behaviour of its own sets its writable fields. -/
  | registerWrite (q : Req) (a : BitVec 40) (v : Word)
  /-- ILLEGAL_OPCODE (R187): A parcel that decodes to a reserved opcode, a non-zero zero field, an out-of-range field or a nested GRD raises ILLEGAL_OPCODE when it would issue. -/
  | illegalOpcode (k : Fin 10) (p0 p1 : BitVec 16)
  /-- TRIP_INPUT_INACTIVE (R36): A trip input returns to its inactive level, CVP_TRIPLIVE and the group inputs fall, and the latch becomes clearable. -/
  | tripInputInactive (i : Fin 64)
  /-- PFAIL_DEASSERT (R350): RN_PFAIL falls, the PFAIL term of the trip groups falls and the 10 ms rearm count starts. -/
  | pfailDeassert
  /-- SYSRST_RELEASE (R481): RN_SYSRST_N is deasserted and a warm reset waiting at step 3 continues with the boot set. -/
  | sysrstRelease
  /-- PORST_ASSERT (R482): RN_PORST_N is asserted, every sequence is abandoned and the block is held in power-on reset. -/
  | porstAssert
  /-- TEST_MODE (R508): RN_TEST_MODE goes high, RN_SAFE is all ones, the drive request and RN_PSAFE fall and all state is lost. -/
  | testMode
  /-- BLOCK_LOCK (R399): A rack-link or mirror-link lane's receive block-lock state machine gains lock and LOCK reads 1. -/
  | blockLock (l : Fin 6)
  /-- HIBER_CLEAR (R421): A lane's hi_ber monitor deasserts and HIBER and its ring source fall. -/
  | hiberClear (l : Fin 6)
  /-- L2_CLEANING_DONE (R296): The write-back of the L2 region's dirty entries ends, L2CLEANING clears and the region stops. -/
  | l2CleaningDone (k : Fin 2)
  /-- DBG_CDAT_WRITE (R520): A write of DBG_CDAT writes the selected bank item, system register or PC of a stopped core. -/
  | dbgCdatWrite (q : Req) (k : Fin 10) (v : Word)
  /-- DBG_GRANT_WRITE (R514): A write of DBG_CTRL.GRANT changes the effective level; a fall below FULL resumes stopped cores and ends a block halt. -/
  | dbgGrantWrite (q : Req) (g : BitVec 2)
deriving DecidableEq, Repr

end Sys2Proof
end

