-- ==== Sys2Proof/Machine/Bits.lean ====
section
/-! DEFINITION. Bit fields, sign extension, rounding and saturation, used by every unit. -/

namespace Sys2Proof.Machine

/-- A bit field [hi:lo] of a word (R8). -/
structure Fld where
  hi : Nat
  lo : Nat
deriving DecidableEq, Repr

/-- Number of values a field can hold. -/
def Fld.span (f : Fld) : Nat := 2 ^ (f.hi + 1 - f.lo)

/-- The value of a field. -/
def Fld.get (f : Fld) (w : Word) : Nat := (w.toNat >>> f.lo) % f.span

/-- `w` with the field set to `v` (its low bits). -/
def Fld.put (f : Fld) (w : Word) (v : Nat) : Word :=
  BitVec.ofNat 48 (w.toNat - (f.get w) <<< f.lo + (v % f.span) <<< f.lo)

/-- Bit `i` of a word as a Bool. -/
def bitOf (w : Word) (i : Nat) : Bool := w.getLsbD i

/-- `w` with bit `i` set to `b`. -/
def setBit (w : Word) (i : Nat) (b : Bool) : Word :=
  if b then w ||| BitVec.ofNat 48 (1 <<< i) else w &&& ~~~ (BitVec.ofNat 48 (1 <<< i))

/-- The mask of bits [hi:lo]. -/
def maskOf (hi lo : Nat) : Word := BitVec.ofNat 48 ((2 ^ (hi + 1 - lo) - 1) <<< lo)

/-- 1 for true, 0 for false. -/
def b2n (b : Bool) : Nat := if b then 1 else 0

/-- An integer narrowed to a word, two's complement. -/
def wordOfInt (i : Int) : Word := BitVec.ofInt 48 i

/-- Smallest and largest value of an n-bit two's complement format. -/
def intMin (n : Nat) : Int := - (2 ^ (n - 1) : Nat)
def intMax (n : Nat) : Int := (2 ^ (n - 1) : Nat) - 1

/-- Saturation to n-bit two's complement; the flag tells whether it changed the value. -/
def satInt (n : Nat) (i : Int) : Int × Bool :=
  if i < intMin n then (intMin n, true)
  else if intMax n < i then (intMax n, true)
  else (i, false)

/-- `i / 2^s` rounded to nearest, ties to even (R18, R57). -/
def rne (i : Int) (s : Nat) : Int :=
  let q := i / (2 ^ s : Nat)
  let r := i % (2 ^ s : Nat)
  if s = 0 then i
  else if 2 * r < (2 ^ s : Nat) then q
  else if (2 ^ s : Nat) < 2 * r then q + 1
  else if q % 2 = 0 then q else q + 1

/-- A counter that saturates at `top`. -/
def satAdd (top v n : Nat) : Nat := if top < v + n then top else v + n

/-- Wrapping subtraction of `w`-bit numbers, as an unsigned distance. -/
def dist (w a b : Nat) : Nat := (a + 2 ^ w - b % 2 ^ w) % 2 ^ w

end Sys2Proof.Machine
end

