-- ==== Sys2Proof/Machine/RegMap.lean ====
section
/-! DEFINITION. The word address of every register of the register space (R264 and the register
chapter of each subsystem) and the place of each of its fields, under the spec's own names. -/

namespace Sys2Proof.Machine

/-- PCTL_BTIME, R127 (05_cadence_deadlines.md). -/
def pctlBtime : Nat := 0x40000200
def pctlBtimeTIME : Fld := ⟨47, 0⟩
/-- PCTL_JTSEC, R127 (05_cadence_deadlines.md). -/
def pctlJtsec : Nat := 0x40000201
def pctlJtsecSEC : Fld := ⟨47, 0⟩
/-- PCTL_JTNS, R127 (05_cadence_deadlines.md). -/
def pctlJtns : Nat := 0x40000202
def pctlJtnsSTEP : Fld := ⟨47, 47⟩
def pctlJtnsJTBACK : Fld := ⟨46, 46⟩
def pctlJtnsNS : Fld := ⟨31, 0⟩
/-- PCTL_JTINC, R127 (05_cadence_deadlines.md). -/
def pctlJtinc : Nat := 0x40000203
def pctlJtincINC : Fld := ⟨39, 0⟩
/-- PCTL_JTCAP, R127 (05_cadence_deadlines.md). -/
def pctlJtcap : Nat := 0x40000204
def pctlJtcapBTIME : Fld := ⟨47, 0⟩
/-- PCTL_DMDONE, R127 (05_cadence_deadlines.md). -/
def pctlDmdone : Nat := 0x40000205
def pctlDmdoneMON : Fld := ⟨7, 0⟩
/-- PCTL_DMLOGPTR, R127 (05_cadence_deadlines.md). -/
def pctlDmlogptr : Nat := 0x40000206
def pctlDmlogptrLOST : Fld := ⟨19, 8⟩
def pctlDmlogptrWR : Fld := ⟨5, 0⟩
/-- PCTL_CGTIME[g], R127 (05_cadence_deadlines.md). -/
def pctlCgtime (g : Nat) : Nat := 0x40000210 + g
def pctlCgtimePHASE : Fld := ⟨47, 24⟩
def pctlCgtimePER : Fld := ⟨23, 0⟩
/-- PCTL_CGCTL[g], R127 (05_cadence_deadlines.md). -/
def pctlCgctl (g : Nat) : Nat := 0x40000220 + g
def pctlCgctlMISSED : Fld := ⟨11, 4⟩
def pctlCgctlCGLOCKV : Fld := ⟨2, 2⟩
def pctlCgctlTICK : Fld := ⟨1, 1⟩
def pctlCgctlEN : Fld := ⟨0, 0⟩
/-- PCTL_VERSION, R488 (21_platform_controller.md). -/
def pctlVersion : Nat := 0x40000000
def pctlVersionMAJOR : Fld := ⟨47, 40⟩
def pctlVersionMINOR : Fld := ⟨39, 32⟩
def pctlVersionPATCH : Fld := ⟨31, 24⟩
def pctlVersionLEVEL : Fld := ⟨19, 18⟩
def pctlVersionMAXLVL : Fld := ⟨17, 16⟩
/-- PCTL_BLEVEL, R488 (21_platform_controller.md). -/
def pctlBlevel : Nat := 0x40000001
def pctlBlevelBLVLV : Fld := ⟨2, 2⟩
def pctlBlevelSEL : Fld := ⟨1, 0⟩
/-- PCTL_CTRL, R488 (21_platform_controller.md). -/
def pctlCtrl : Nat := 0x40000002
def pctlCtrlSWRST : Fld := ⟨16, 16⟩
def pctlCtrlPDTO : Fld := ⟨15, 0⟩
/-- PCTL_STS, R488 (21_platform_controller.md). -/
def pctlSts : Nat := 0x40000003
def pctlStsPLLRETRY : Fld := ⟨15, 8⟩
def pctlStsPLLERR : Fld := ⟨5, 5⟩
def pctlStsCORELOCKED : Fld := ⟨4, 4⟩
def pctlStsPDFAULT : Fld := ⟨3, 3⟩
def pctlStsDRAINTO : Fld := ⟨2, 2⟩
def pctlStsPDREF : Fld := ⟨1, 1⟩
def pctlStsPDDONE : Fld := ⟨0, 0⟩
/-- PCTL_RSTSTS, R488 (21_platform_controller.md). -/
def pctlRststs : Nat := 0x40000004
def pctlRststsCAUSE : Fld := ⟨15, 13⟩
def pctlRststsBOOT : Fld := ⟨12, 11⟩
def pctlRststsIMG : Fld := ⟨10, 8⟩
def pctlRststsIMGIDX : Fld := ⟨4, 0⟩
/-- PCTL_BOOTSRC, R488 (21_platform_controller.md). -/
def pctlBootsrc : Nat := 0x40000005
def pctlBootsrcEN : Fld := ⟨47, 47⟩
def pctlBootsrcADDR : Fld := ⟨39, 0⟩
/-- PCTL_ANCHOR[w], R488 (21_platform_controller.md). -/
def pctlAnchor (w : Nat) : Nat := 0x40000008 + w
def pctlAnchorDIG : Fld := ⟨47, 0⟩
/-- PCTL_CORECTL[k], R488 (21_platform_controller.md). -/
def pctlCorectl (k : Nat) : Nat := 0x40000010 + k
def pctlCorectlLOCKED : Fld := ⟨3, 3⟩
def pctlCorectlLOCKACT : Fld := ⟨2, 2⟩
def pctlCorectlROOTOK : Fld := ⟨1, 1⟩
def pctlCorectlRUN : Fld := ⟨0, 0⟩
/-- PCTL_RSTVEC[k], R488 (21_platform_controller.md). -/
def pctlRstvec (k : Nat) : Nat := 0x40000020 + k
def pctlRstvecADDR : Fld := ⟨39, 0⟩
/-- PCTL_PD[d], R488 (21_platform_controller.md). -/
def pctlPd (d : Nat) : Nat := 0x40000080 + d
def pctlPdSTATE : Fld := ⟨47, 45⟩
def pctlPdACK : Fld := ⟨44, 44⟩
def pctlPdREQ : Fld := ⟨43, 43⟩
def pctlPdBUSY : Fld := ⟨42, 42⟩
def pctlPdLAST : Fld := ⟨41, 40⟩
def pctlPdDTO : Fld := ⟨39, 39⟩
def pctlPdFAULT : Fld := ⟨38, 38⟩
def pctlPdOP : Fld := ⟨2, 0⟩
/-- PCTL_DMLOG[i][w], R127 (05_cadence_deadlines.md). -/
def pctlDmlog (i w : Nat) : Nat := 0x40000700 + i * 4 + w
def pctlDmlogREC : Fld := ⟨47, 0⟩
/-- PCTL_DMLAST[m][w], R127 (05_cadence_deadlines.md). -/
def pctlDmlast (m w : Nat) : Nat := 0x40000800 + m * 4 + w
def pctlDmlastREC : Fld := ⟨47, 0⟩
/-- PCTL_LOCKREC0[k], R488 (21_platform_controller.md). -/
def pctlLockrec0 (k : Nat) : Nat := 0x40000030 + k * 4
def pctlLockrec0VALID : Fld := ⟨47, 47⟩
def pctlLockrec0LEVEL : Fld := ⟨45, 44⟩
def pctlLockrec0CODE : Fld := ⟨7, 0⟩
/-- PCTL_LOCKREC1[k], R488 (21_platform_controller.md). -/
def pctlLockrec1 (k : Nat) : Nat := 0x40000031 + k * 4
def pctlLockrec1PC : Fld := ⟨47, 0⟩
/-- PCTL_LOCKREC2[k], R488 (21_platform_controller.md). -/
def pctlLockrec2 (k : Nat) : Nat := 0x40000032 + k * 4
def pctlLockrec2CAUSEV : Fld := ⟨47, 0⟩
/-- DM_CFG[m], R127 (05_cadence_deadlines.md). -/
def dmCfg (m : Nat) : Nat := 0x40000400 + m
def dmCfgEN : Fld := ⟨47, 47⟩
def dmCfgKIND : Fld := ⟨46, 45⟩
def dmCfgSUBJ : Fld := ⟨44, 38⟩
def dmCfgENDSEL : Fld := ⟨37, 37⟩
def dmCfgREACT : Fld := ⟨36, 35⟩
def dmCfgOWNER : Fld := ⟨34, 31⟩
def dmCfgTGRP : Fld := ⟨30, 27⟩
def dmCfgHOLDMAX : Fld := ⟨26, 24⟩
def dmCfgRECOV : Fld := ⟨23, 16⟩
/-- DM_BUD[m], R127 (05_cadence_deadlines.md). -/
def dmBud (m : Nat) : Nat := 0x40000500 + m
def dmBudGAP : Fld := ⟨47, 24⟩
def dmBudBUDGET : Fld := ⟨23, 0⟩
/-- DM_STS[m], R127 (05_cadence_deadlines.md). -/
def dmSts (m : Nat) : Nat := 0x40000600 + m
def dmStsMISSES : Fld := ⟨47, 36⟩
def dmStsIEN : Fld := ⟨35, 35⟩
def dmStsSUSP : Fld := ⟨34, 34⟩
def dmStsSAFEACT : Fld := ⟨33, 33⟩
def dmStsMISS : Fld := ⟨32, 32⟩
def dmStsCFGV : Fld := ⟨31, 31⟩
def dmStsDONEV : Fld := ⟨30, 30⟩
def dmStsHOLDRUN : Fld := ⟨29, 27⟩
def dmStsMAXLATE : Fld := ⟨23, 0⟩
/-- INTC_CTRL, R161 (07_interrupt_controller.md). -/
def intcCtrl : Nat := 0x40010000
def intcCtrlPHOLD : Fld := ⟨0, 0⟩
/-- INTC_STS, R161 (07_interrupt_controller.md). -/
def intcSts : Nat := 0x40010001
def intcStsCFGV : Fld := ⟨2, 2⟩
def intcStsEOIV : Fld := ⟨1, 1⟩
def intcStsMSETV : Fld := ⟨0, 0⟩
/-- INTC_MSET, R161 (07_interrupt_controller.md). -/
def intcMset : Nat := 0x40010002
def intcMsetSRC : Fld := ⟨8, 0⟩
/-- INTC_PEND[w], R161 (07_interrupt_controller.md). -/
def intcPend (w : Nat) : Nat := 0x40010010 + w
def intcPendPEND : Fld := ⟨31, 0⟩
/-- INTC_GHOLD[q], R161 (07_interrupt_controller.md). -/
def intcGhold (q : Nat) : Nat := 0x40010040 + q
def intcGholdRUN : Fld := ⟨32, 32⟩
def intcGholdREMAIN : Fld := ⟨31, 16⟩
def intcGholdHOLDOFF : Fld := ⟨15, 0⟩
/-- INTC_CLAIM[k], R161 (07_interrupt_controller.md). -/
def intcClaim (k : Nat) : Nat := 0x40010080 + k
def intcClaimPRIO : Fld := ⟨13, 10⟩
def intcClaimSRC : Fld := ⟨9, 0⟩
/-- INTC_EOI[k], R161 (07_interrupt_controller.md). -/
def intcEoi (k : Nat) : Nat := 0x40010090 + k
def intcEoiSRC : Fld := ⟨8, 0⟩
/-- INTC_CORESTS[k], R161 (07_interrupt_controller.md). -/
def intcCorests (k : Nat) : Nat := 0x400100A0 + k
def intcCorestsSPUR : Fld := ⟨31, 24⟩
def intcCorestsCLSVC : Fld := ⟨23, 23⟩
def intcCorestsNEST : Fld := ⟨22, 18⟩
def intcCorestsRUNPRIO : Fld := ⟨17, 14⟩
def intcCorestsPVALID : Fld := ⟨10, 10⟩
def intcCorestsPRES : Fld := ⟨8, 0⟩
/-- INTC_SRC[n], R161 (07_interrupt_controller.md). -/
def intcSrc (n : Nat) : Nat := 0x40010200 + n
def intcSrcPEND : Fld := ⟨47, 47⟩
def intcSrcINSVC : Fld := ⟨46, 46⟩
def intcSrcSVCCORE : Fld := ⟨45, 42⟩
def intcSrcOVF : Fld := ⟨41, 41⟩
def intcSrcKIND : Fld := ⟨40, 40⟩
def intcSrcCNT : Fld := ⟨39, 32⟩
def intcSrcACTIVE : Fld := ⟨31, 31⟩
def intcSrcCLASS : Fld := ⟨30, 30⟩
def intcSrcLVL : Fld := ⟨29, 29⟩
def intcSrcPRIO : Fld := ⟨27, 24⟩
def intcSrcTGT : Fld := ⟨9, 0⟩
/-- MEM_CTRL, R284 (12_memory_system.md). -/
def memCtrl : Nat := 0x40020000
def memCtrlUETHR : Fld := ⟨23, 16⟩
def memCtrlCETHR : Fld := ⟨15, 8⟩
def memCtrlAUTORET : Fld := ⟨1, 1⟩
def memCtrlSCRUBEN : Fld := ⟨0, 0⟩
/-- MEM_STS, R284 (12_memory_system.md). -/
def memSts : Nat := 0x40020001
def memStsBANKRETIRED : Fld := ⟨6, 6⟩
def memStsFASTSCRUB : Fld := ⟨5, 5⟩
def memStsECCUE : Fld := ⟨4, 4⟩
def memStsECCCE : Fld := ⟨3, 3⟩
def memStsTORN : Fld := ⟨2, 2⟩
def memStsOVERCOMMIT : Fld := ⟨1, 1⟩
def memStsRESVDEMOTED : Fld := ⟨0, 0⟩
/-- MEM_RESVCTL, R284 (12_memory_system.md). -/
def memResvctl : Nat := 0x40020002
def memResvctlFENTRY : Fld := ⟨22, 17⟩
def memResvctlFPLANE : Fld := ⟨16, 16⟩
def memResvctlFSTRIPE : Fld := ⟨15, 12⟩
def memResvctlFBANK : Fld := ⟨11, 10⟩
def memResvctlRESULT : Fld := ⟨4, 2⟩
def memResvctlBUSY : Fld := ⟨1, 1⟩
def memResvctlCOMMIT : Fld := ⟨0, 0⟩
/-- MEM_LOGPTR, R284 (12_memory_system.md). -/
def memLogptr : Nat := 0x40020003
def memLogptrECCLOST : Fld := ⟨27, 20⟩
def memLogptrTBLOST : Fld := ⟨19, 12⟩
def memLogptrECCWR : Fld := ⟨6, 4⟩
def memLogptrTBWR : Fld := ⟨2, 0⟩
/-- MEM_ARB[p], R284 (12_memory_system.md). -/
def memArb (p : Nat) : Nat := 0x40020010 + p
def memArbBUSYCNT : Fld := ⟨47, 40⟩
def memArbWAITMAX : Fld := ⟨39, 24⟩
def memArbPLANE : Fld := ⟨3, 3⟩
def memArbPRIO : Fld := ⟨2, 0⟩
/-- MEM_RESV[e], R284 (12_memory_system.md). -/
def memResv (e : Nat) : Nat := 0x40020040 + e
def memResvEN : Fld := ⟨47, 47⟩
def memResvPORT : Fld := ⟨23, 19⟩
def memResvSTRIPE : Fld := ⟨15, 12⟩
def memResvAMT : Fld := ⟨6, 0⟩
/-- MEM_RESVACT[e], R284 (12_memory_system.md). -/
def memResvact (e : Nat) : Nat := 0x40020080 + e
def memResvactEN : Fld := ⟨47, 47⟩
def memResvactDEM : Fld := ⟨46, 46⟩
def memResvactPORT : Fld := ⟨23, 19⟩
def memResvactSTRIPE : Fld := ⟨15, 12⟩
def memResvactAMT : Fld := ⟨6, 0⟩
/-- MEM_BANK[s][b], R284 (12_memory_system.md). -/
def memBank (s b : Nat) : Nat := 0x40020100 + s * 4 + b
def memBankPSTATE : Fld := ⟨47, 46⟩
def memBankFAST : Fld := ⟨45, 45⟩
def memBankCAP1 : Fld := ⟨44, 38⟩
def memBankCAP0 : Fld := ⟨37, 31⟩
def memBankLOAD1 : Fld := ⟨30, 24⟩
def memBankLOAD0 : Fld := ⟨23, 17⟩
def memBankUECNT : Fld := ⟨16, 9⟩
def memBankCECNT : Fld := ⟨8, 0⟩
/-- MEM_RETIRE[s], R284 (12_memory_system.md). -/
def memRetire (s : Nat) : Nat := 0x40020140 + s
def memRetireRETIRED : Fld := ⟨3, 0⟩
/-- MEM_SPECC[n], R284 (12_memory_system.md). -/
def memSpecc (n : Nat) : Nat := 0x40020160 + n
def memSpeccUECNT : Fld := ⟨16, 9⟩
def memSpeccCECNT : Fld := ⟨8, 0⟩
/-- MEM_ECCLOG[i][w], R284 (12_memory_system.md). -/
def memEcclog (i w : Nat) : Nat := 0x40020200 + i * 2 + w
def memEcclogREC : Fld := ⟨47, 0⟩
/-- MEM_TBLOG[i][w], R284 (12_memory_system.md). -/
def memTblog (i w : Nat) : Nat := 0x40020220 + i * 2 + w
def memTblogREC : Fld := ⟨47, 0⟩
/-- SEM_STS, R140 (06_sillage_event_matrix.md). -/
def semSts : Nat := 0x40030000
def semStsTGLOCKV : Fld := ⟨4, 4⟩
def semStsCONSV : Fld := ⟨3, 3⟩
def semStsLOCKV : Fld := ⟨2, 2⟩
def semStsSECV : Fld := ⟨1, 1⟩
def semStsOWNV : Fld := ⟨0, 0⟩
/-- SEM_SWEV, R140 (06_sillage_event_matrix.md). -/
def semSwev : Nat := 0x40030001
def semSwevFIRE : Fld := ⟨31, 0⟩
/-- SEM_TGLOCK, R140 (06_sillage_event_matrix.md). -/
def semTglock : Nat := 0x40030002
def semTglockLOCK : Fld := ⟨15, 0⟩
/-- SEM_CHCFG[n], R140 (06_sillage_event_matrix.md). -/
def semChcfg (n : Nat) : Nat := 0x40030100 + n
def semChcfgEN : Fld := ⟨47, 47⟩
def semChcfgSEC : Fld := ⟨46, 45⟩
def semChcfgOWNER : Fld := ⟨44, 41⟩
def semChcfgPSEL : Fld := ⟨25, 16⟩
def semChcfgCONS : Fld := ⟨7, 0⟩
/-- SEM_CHSTS[n], R140 (06_sillage_event_matrix.md). -/
def semChsts (n : Nat) : Nat := 0x40030200 + n
def semChstsCNT : Fld := ⟨31, 16⟩
def semChstsMERGE : Fld := ⟨15, 8⟩
def semChstsDROP : Fld := ⟨7, 0⟩
/-- SEM_CONS[i], R140 (06_sillage_event_matrix.md). -/
def semCons (i : Nat) : Nat := 0x40030300 + i
def semConsVALID : Fld := ⟨8, 8⟩
def semConsCH : Fld := ⟨7, 0⟩
/-- SEM_TGEN[g][w], R140 (06_sillage_event_matrix.md). -/
def semTgen (g w : Nat) : Nat := 0x40030400 + g * 4 + w
def semTgenEN : Fld := ⟨31, 0⟩
/-- SEM_TGPR[g], R140 (06_sillage_event_matrix.md). -/
def semTgpr (g : Nat) : Nat := 0x40030402 + g * 4
def semTgprPFAIL : Fld := ⟨16, 16⟩
def semTgprDMMISS : Fld := ⟨15, 0⟩
/-- CVP_CTRL, R42 (01_converter_port.md). -/
def cvpCtrl : Nat := 0x40040000
def cvpCtrlLEAD : Fld := ⟨19, 16⟩
def cvpCtrlSTALE : Fld := ⟨14, 0⟩
/-- CVP_LANEEN, R42 (01_converter_port.md). -/
def cvpLaneen : Nat := 0x40040001
def cvpLaneenEGEN : Fld := ⟨31, 16⟩
def cvpLaneenINGEN : Fld := ⟨15, 0⟩
/-- CVP_EVSTS, R42 (01_converter_port.md). -/
def cvpEvsts : Nat := 0x40040002
def cvpEvstsNOZVS : Fld := ⟨10, 10⟩
def cvpEvstsGNTUNREQUESTED : Fld := ⟨9, 9⟩
def cvpEvstsGNTLOST : Fld := ⟨8, 8⟩
def cvpEvstsLATERETRACT : Fld := ⟨7, 7⟩
def cvpEvstsAPPLIEDMISMATCH : Fld := ⟨6, 6⟩
def cvpEvstsEDGEDROPPED : Fld := ⟨5, 5⟩
def cvpEvstsEDGECLAMPED : Fld := ⟨4, 4⟩
def cvpEvstsSAT : Fld := ⟨3, 3⟩
def cvpEvstsSMPUNCAL : Fld := ⟨2, 2⟩
def cvpEvstsSMPSTALE : Fld := ⟨1, 1⟩
def cvpEvstsSMPPARITY : Fld := ⟨0, 0⟩
/-- CVP_EVCNT, R42 (01_converter_port.md). -/
def cvpEvcnt : Nat := 0x40040003
def cvpEvcntLATE : Fld := ⟨47, 36⟩
def cvpEvcntDROP : Fld := ⟨35, 24⟩
def cvpEvcntSMPBAD : Fld := ⟨23, 12⟩
def cvpEvcntSMPOLD : Fld := ⟨11, 0⟩
/-- CVP_DRIVE, R42 (01_converter_port.md). -/
def cvpDrive : Nat := 0x40040004
def cvpDriveREQEN : Fld := ⟨3, 3⟩
def cvpDriveDRIVING : Fld := ⟨2, 2⟩
def cvpDriveGNT : Fld := ⟨1, 1⟩
def cvpDriveREQ : Fld := ⟨0, 0⟩
/-- CVP_LATEREC, R42 (01_converter_port.md). -/
def cvpLaterec : Nat := 0x40040005
def cvpLaterecTAG : Fld := ⟨36, 32⟩
def cvpLaterecREQCYC : Fld := ⟨31, 16⟩
def cvpLaterecARMCYC : Fld := ⟨15, 0⟩
/-- CVP_LNSTS, R42 (01_converter_port.md). -/
def cvpLnsts : Nat := 0x40040006
def cvpLnstsEGERR : Fld := ⟨31, 16⟩
def cvpLnstsINERR : Fld := ⟨15, 0⟩
/-- CVP_TRIPPOL0, R42 (01_converter_port.md). -/
def cvpTrippol0 : Nat := 0x40040008
def cvpTrippol0POL : Fld := ⟨31, 0⟩
/-- CVP_TRIPPOL1, R42 (01_converter_port.md). -/
def cvpTrippol1 : Nat := 0x40040009
def cvpTrippol1POL : Fld := ⟨31, 0⟩
/-- CVP_TRIPLIVE0, R42 (01_converter_port.md). -/
def cvpTriplive0 : Nat := 0x4004000A
def cvpTriplive0LIVE : Fld := ⟨31, 0⟩
/-- CVP_TRIPLIVE1, R42 (01_converter_port.md). -/
def cvpTriplive1 : Nat := 0x4004000B
def cvpTriplive1LIVE : Fld := ⟨31, 0⟩
/-- CVP_TRIPLAT0, R42 (01_converter_port.md). -/
def cvpTriplat0 : Nat := 0x4004000C
def cvpTriplat0LAT : Fld := ⟨31, 0⟩
/-- CVP_TRIPLAT1, R42 (01_converter_port.md). -/
def cvpTriplat1 : Nat := 0x4004000D
def cvpTriplat1LAT : Fld := ⟨31, 0⟩
/-- CVP_TRIPFLT, R42 (01_converter_port.md). -/
def cvpTripflt : Nat := 0x4004000E
def cvpTripfltN : Fld := ⟨3, 0⟩
/-- CVP_TGLATCH, R42 (01_converter_port.md). -/
def cvpTglatch : Nat := 0x4004000F
def cvpTglatchTGLIVE : Fld := ⟨31, 16⟩
def cvpTglatchTGLAT : Fld := ⟨15, 0⟩
/-- CVP_SWNWIN, R42 (01_converter_port.md). -/
def cvpSwnwin : Nat := 0x40040010
def cvpSwnwinWIN : Fld := ⟨12, 0⟩
/-- CVP_SAFEPAT[n], R42 (01_converter_port.md). -/
def cvpSafepat (n : Nat) : Nat := 0x40040080 + n
def cvpSafepatPAT : Fld := ⟨31, 0⟩
/-- CVP_SWSAFE[n], R42 (01_converter_port.md). -/
def cvpSwsafe (n : Nat) : Nat := 0x40040090 + n
def cvpSwsafeFORCE : Fld := ⟨31, 0⟩
/-- CVP_SAFESTS[n], R42 (01_converter_port.md). -/
def cvpSafests (n : Nat) : Nat := 0x40040098 + n
def cvpSafestsSAFE : Fld := ⟨31, 0⟩
/-- CVP_APPLIED[n], R42 (01_converter_port.md). -/
def cvpApplied (n : Nat) : Nat := 0x400400A0 + n
def cvpAppliedS : Fld := ⟨31, 0⟩
/-- CVP_TGMASK[g][w], R42 (01_converter_port.md). -/
def cvpTgmask (g w : Nat) : Nat := 0x40040100 + g * 8 + w
def cvpTgmaskMASK : Fld := ⟨31, 0⟩
/-- CVP_CHCFG[c], R42 (01_converter_port.md). -/
def cvpChcfg (c : Nat) : Nat := 0x40040200 + c
def cvpChcfgSAT : Fld := ⟨12, 12⟩
def cvpChcfgCALOK : Fld := ⟨11, 11⟩
def cvpChcfgEN : Fld := ⟨10, 10⟩
def cvpChcfgDKIND : Fld := ⟨9, 8⟩
def cvpChcfgDIDX : Fld := ⟨6, 0⟩
/-- CVP_CHVAL[c], R42 (01_converter_port.md). -/
def cvpChval (c : Nat) : Nat := 0x40040300 + c
def cvpChvalVALUE : Fld := ⟨47, 0⟩
/-- CVP_PAIRCFG[p], R42 (01_converter_port.md). -/
def cvpPaircfg (p : Nat) : Nat := 0x40040400 + p
def cvpPaircfgOWNER : Fld := ⟨9, 8⟩
def cvpPaircfgOIDX : Fld := ⟨6, 0⟩
/-- CVP_SWNDLY[o], R42 (01_converter_port.md). -/
def cvpSwndly (o : Nat) : Nat := 0x40040500 + o
def cvpSwndlyVALID : Fld := ⟨47, 47⟩
def cvpSwndlyDLY : Fld := ⟨12, 0⟩
/-- AE_CTRL[n], R70 (02_accord_laws.md). -/
def aeCtrl (n : Nat) : Nat := 0x40050000 + n * 0x1000
def aeCtrlSHADOW : Fld := ⟨0, 0⟩
/-- AE_FORMERR[n], R70 (02_accord_laws.md). -/
def aeFormerr (n : Nat) : Nat := 0x40050001 + n * 0x1000
def aeFormerrSLOT : Fld := ⟨15, 12⟩
def aeFormerrSTEP : Fld := ⟨9, 4⟩
def aeFormerrREASON : Fld := ⟨3, 0⟩
/-- AE_SLOTCTL[n][j], R70 (02_accord_laws.md). -/
def aeSlotctl (n j : Nat) : Nat := 0x40050010 + n * 0x1000 + j
def aeSlotctlDECIM : Fld := ⟨15, 8⟩
def aeSlotctlBSWAP : Fld := ⟨4, 4⟩
def aeSlotctlBANK : Fld := ⟨3, 3⟩
def aeSlotctlCBMODE : Fld := ⟨2, 2⟩
def aeSlotctlADOPT : Fld := ⟨1, 1⟩
def aeSlotctlEN : Fld := ⟨0, 0⟩
/-- AE_SLOTSRC[n][j], R70 (02_accord_laws.md). -/
def aeSlotsrc (n j : Nat) : Nat := 0x40050020 + n * 0x1000 + j
def aeSlotsrcTRIG : Fld := ⟨47, 46⟩
def aeSlotsrcSECH : Fld := ⟨45, 38⟩
def aeSlotsrcAUXEN : Fld := ⟨37, 35⟩
def aeSlotsrcXCH : Fld := ⟨31, 24⟩
def aeSlotsrcAUX3 : Fld := ⟨23, 16⟩
def aeSlotsrcAUX2 : Fld := ⟨15, 8⟩
def aeSlotsrcAUX1 : Fld := ⟨7, 0⟩
/-- AE_SLOTBASE[n][j], R70 (02_accord_laws.md). -/
def aeSlotbase (n j : Nat) : Nat := 0x40050030 + n * 0x1000 + j
def aeSlotbasePBASE : Fld := ⟨38, 26⟩
def aeSlotbaseCBASE : Fld := ⟨25, 13⟩
def aeSlotbaseSBASE : Fld := ⟨12, 0⟩
/-- AE_SLOTPER[n][j], R70 (02_accord_laws.md). -/
def aeSlotper (n j : Nat) : Nat := 0x40050040 + n * 0x1000 + j
def aeSlotperTGT : Fld := ⟨47, 47⟩
def aeSlotperPHASE : Fld := ⟨46, 24⟩
def aeSlotperPER : Fld := ⟨22, 0⟩
/-- AE_SLOTSTS[n][j], R70 (02_accord_laws.md). -/
def aeSlotsts (n j : Nat) : Nat := 0x40050050 + n * 0x1000 + j
def aeSlotstsIEN : Fld := ⟨26, 20⟩
def aeSlotstsPHASE : Fld := ⟨10, 8⟩
def aeSlotstsLOCKV : Fld := ⟨6, 6⟩
def aeSlotstsFORM : Fld := ⟨5, 5⟩
def aeSlotstsLATEPRE : Fld := ⟨4, 4⟩
def aeSlotstsOVERRUN : Fld := ⟨3, 3⟩
def aeSlotstsYCLIP : Fld := ⟨2, 2⟩
def aeSlotstsLIM : Fld := ⟨1, 1⟩
def aeSlotstsSAT : Fld := ⟨0, 0⟩
/-- AE_SLOTSEQ[n][j], R70 (02_accord_laws.md). -/
def aeSlotseq (n j : Nat) : Nat := 0x40050060 + n * 0x1000 + j
def aeSlotseqSEQ : Fld := ⟨46, 0⟩
/-- AE_SLOTLAT[n][j], R70 (02_accord_laws.md). -/
def aeSlotlat (n j : Nat) : Nat := 0x40050070 + n * 0x1000 + j
def aeSlotlatMAX : Fld := ⟨31, 16⟩
def aeSlotlatLAST : Fld := ⟨15, 0⟩
/-- AE_REFSRC[n][j][r], R70 (02_accord_laws.md). -/
def aeRefsrc (n j r : Nat) : Nat := 0x40050080 + n * 0x1000 + j * 4 + r
def aeRefsrcKIND : Fld := ⟨46, 45⟩
def aeRefsrcSRC : Fld := ⟨24, 0⟩
/-- AE_TMPL[n][j][e], R70 (02_accord_laws.md). -/
def aeTmpl (n j e : Nat) : Nat := 0x40050100 + n * 0x1000 + j * 8 + e
def aeTmplEN : Fld := ⟨47, 47⟩
def aeTmplMODE : Fld := ⟨46, 45⟩
def aeTmplYSEL : Fld := ⟨44, 42⟩
def aeTmplS : Fld := ⟨41, 40⟩
def aeTmplDT : Fld := ⟨39, 31⟩
def aeTmplPAIR : Fld := ⟨30, 23⟩
def aeTmplOFF : Fld := ⟨22, 0⟩
/-- AE_CQSTS[n], R90 (03_accord_transitions.md). -/
def aeCqsts (n : Nat) : Nat := 0x40050002 + n * 0x1000
def aeCqstsFULL : Fld := ⟨15, 8⟩
def aeCqstsUSED : Fld := ⟨4, 0⟩
/-- AE_HOCTL[n][j], R90 (03_accord_transitions.md). -/
def aeHoctl (n j : Nat) : Nat := 0x400500C0 + n * 0x1000 + j
def aeHoctlMAN : Fld := ⟨23, 23⟩
def aeHoctlMUTE : Fld := ⟨22, 22⟩
def aeHoctlTAKE : Fld := ⟨21, 21⟩
def aeHoctlTKIND : Fld := ⟨20, 19⟩
def aeHoctlHOSRC : Fld := ⟨18, 12⟩
def aeHoctlHOREQ : Fld := ⟨0, 0⟩
/-- AE_HOCFG[n][j], R90 (03_accord_transitions.md). -/
def aeHocfg (n j : Nat) : Nat := 0x400500D0 + n * 0x1000 + j
def aeHocfgHON : Fld := ⟨47, 40⟩
def aeHocfgHOY : Fld := ⟨39, 37⟩
def aeHocfgHOS : Fld := ⟨34, 30⟩
def aeHocfgHOLO : Fld := ⟨29, 25⟩
def aeHocfgHOHI : Fld := ⟨24, 20⟩
def aeHocfgHOG : Fld := ⟨17, 12⟩
def aeHocfgHOK : Fld := ⟨11, 6⟩
/-- AE_HOMAN[n][j], R90 (03_accord_transitions.md). -/
def aeHoman (n j : Nat) : Nat := 0x400500E0 + n * 0x1000 + j
def aeHomanVALUE : Fld := ⟨47, 0⟩
/-- AE_HORES[n][j], R90 (03_accord_transitions.md). -/
def aeHores (n j : Nat) : Nat := 0x400500F0 + n * 0x1000 + j
def aeHoresR0 : Fld := ⟨47, 0⟩
/-- AE_HOSTS[n][j], R90 (03_accord_transitions.md). -/
def aeHosts (n j : Nat) : Nat := 0x40050180 + n * 0x1000 + j
def aeHostsLEFT : Fld := ⟨15, 8⟩
def aeHostsMANACT : Fld := ⟨6, 6⟩
def aeHostsHOACT : Fld := ⟨5, 5⟩
def aeHostsHOBAD : Fld := ⟨4, 4⟩
def aeHostsHOCLAMP : Fld := ⟨3, 3⟩
def aeHostsHOTLIM : Fld := ⟨2, 2⟩
def aeHostsHODONE : Fld := ⟨1, 1⟩
/-- AE_ADTCFG[n][j], R90 (03_accord_transitions.md). -/
def aeAdtcfg (n j : Nat) : Nat := 0x40050190 + n * 0x1000 + j
def aeAdtcfgCLAMPS : Fld := ⟨47, 40⟩
def aeAdtcfgPOLICYCLAMPED : Fld := ⟨37, 37⟩
def aeAdtcfgWINDOWCLIPPED : Fld := ⟨36, 36⟩
def aeAdtcfgFREEZE : Fld := ⟨32, 32⟩
def aeAdtcfgADTEN : Fld := ⟨31, 24⟩
def aeAdtcfgSTEP : Fld := ⟨15, 8⟩
def aeAdtcfgMARGIN : Fld := ⟨7, 0⟩
/-- AE_ADTWIN[n][j], R90 (03_accord_transitions.md). -/
def aeAdtwin (n j : Nat) : Nat := 0x400501A0 + n * 0x1000 + j
def aeAdtwinFLOOR : Fld := ⟨44, 36⟩
def aeAdtwinEHI : Fld := ⟨35, 27⟩
def aeAdtwinELO : Fld := ⟨26, 18⟩
def aeAdtwinDTMAX : Fld := ⟨17, 9⟩
def aeAdtwinDTMIN : Fld := ⟨8, 0⟩
/-- AE_ADTVAL[n][j][e], R90 (03_accord_transitions.md). -/
def aeAdtval (n j e : Nat) : Nat := 0x400501B0 + n * 0x1000 + j * 8 + e
def aeAdtvalDT : Fld := ⟨8, 0⟩
/-- AE_SLOTPHS[n][j], R90 (03_accord_transitions.md). -/
def aeSlotphs (n j : Nat) : Nat := 0x40050230 + n * 0x1000 + j
def aeSlotphsPARKED : Fld := ⟨10, 10⟩
def aeSlotphsMEM : Fld := ⟨9, 9⟩
def aeSlotphsGRP : Fld := ⟨8, 7⟩
def aeSlotphsRANK : Fld := ⟨5, 0⟩
/-- AE_PHSCTL[g], R90 (03_accord_transitions.md). -/
def aePhsctl (g : Nat) : Nat := 0x40050240 + g * 8
def aePhsctlFREEZE : Fld := ⟨21, 21⟩
def aePhsctlEN : Fld := ⟨20, 20⟩
def aePhsctlSPARE : Fld := ⟨19, 16⟩
def aePhsctlDWELL : Fld := ⟨15, 0⟩
/-- AE_PHSSRC[g], R90 (03_accord_transitions.md). -/
def aePhssrc (g : Nat) : Nat := 0x40050241 + g * 8
def aePhssrcKIND : Fld := ⟨46, 45⟩
def aePhssrcSRC : Fld := ⟨24, 0⟩
/-- AE_PHSCAP[g], R90 (03_accord_transitions.md). -/
def aePhscap (g : Nat) : Nat := 0x40050242 + g * 8
def aePhscapVALUE : Fld := ⟨47, 0⟩
/-- AE_PHSPRE[g], R90 (03_accord_transitions.md). -/
def aePhspre (g : Nat) : Nat := 0x40050243 + g * 8
def aePhspreVALUE : Fld := ⟨47, 0⟩
/-- AE_PHSWIN[g], R90 (03_accord_transitions.md). -/
def aePhswin (g : Nat) : Nat := 0x40050244 + g * 8
def aePhswinFLOOR : Fld := ⟨34, 28⟩
def aePhswinEHI : Fld := ⟨27, 21⟩
def aePhswinELO : Fld := ⟨20, 14⟩
def aePhswinNMAX : Fld := ⟨13, 7⟩
def aePhswinNMIN : Fld := ⟨6, 0⟩
/-- AE_PHSSTS[g], R90 (03_accord_transitions.md). -/
def aePhssts (g : Nat) : Nat := 0x40050245 + g * 8
def aePhsstsCLAMPS : Fld := ⟨47, 40⟩
def aePhsstsWINDOWCLIPPED : Fld := ⟨17, 17⟩
def aePhsstsPOLICYCLAMPED : Fld := ⟨16, 16⟩
def aePhsstsMEMBERS : Fld := ⟨15, 8⟩
def aePhsstsACTIVE : Fld := ⟨7, 0⟩
/-- SSP_CTRL, R110 (04_switching_predictor.md). -/
def sspCtrl : Nat := 0x40060000
def sspCtrlNEXTTAG : Fld := ⟨12, 8⟩
def sspCtrlBUSY : Fld := ⟨7, 4⟩
def sspCtrlSHADOW : Fld := ⟨0, 0⟩
/-- SSP_CCFG[c], R110 (04_switching_predictor.md). -/
def sspCcfg (c : Nat) : Nat := 0x40060400 + c * 0x200
def sspCcfgEN : Fld := ⟨47, 47⟩
def sspCcfgENUM : Fld := ⟨46, 46⟩
def sspCcfgRTRQ : Fld := ⟨45, 45⟩
def sspCcfgARMRQ : Fld := ⟨44, 44⟩
def sspCcfgNX : Fld := ⟨43, 40⟩
def sspCcfgW : Fld := ⟨39, 36⟩
def sspCcfgNC : Fld := ⟨35, 29⟩
def sspCcfgMAXSW : Fld := ⟨28, 25⟩
def sspCcfgTRGI : Fld := ⟨24, 22⟩
def sspCcfgDECIM : Fld := ⟨21, 14⟩
/-- SSP_CPER[c], R110 (04_switching_predictor.md). -/
def sspCper (c : Nat) : Nat := 0x40060401 + c * 0x200
def sspCperPHASE : Fld := ⟨46, 24⟩
def sspCperPER : Fld := ⟨22, 0⟩
/-- SSP_CLEAD[c], R110 (04_switching_predictor.md). -/
def sspClead (c : Nat) : Nat := 0x40060402 + c * 0x200
def sspCleadGUARD : Fld := ⟨23, 8⟩
def sspCleadARMLEAD : Fld := ⟨7, 0⟩
/-- SSP_CSTS[c], R110 (04_switching_predictor.md). -/
def sspCsts (c : Nat) : Nat := 0x40060403 + c * 0x200
def sspCstsIEN : Fld := ⟨24, 16⟩
def sspCstsFORM : Fld := ⟨8, 8⟩
def sspCstsLOCKV : Fld := ⟨7, 7⟩
def sspCstsOVERRUN : Fld := ⟨6, 6⟩
def sspCstsREBASED : Fld := ⟨5, 5⟩
def sspCstsNOPOST : Fld := ⟨4, 4⟩
def sspCstsLATERETRACT : Fld := ⟨3, 3⟩
def sspCstsNOCAND : Fld := ⟨2, 2⟩
def sspCstsCOSTSAT : Fld := ⟨1, 1⟩
def sspCstsSAT : Fld := ⟨0, 0⟩
/-- SSP_CMASK[c][m], R110 (04_switching_predictor.md). -/
def sspCmask (c m : Nat) : Nat := 0x40060404 + c * 0x200 + m
def sspCmaskMASK : Fld := ⟨31, 0⟩
/-- SSP_CRES[c], R110 (04_switching_predictor.md). -/
def sspCres (c : Nat) : Nat := 0x40060406 + c * 0x200
def sspCresVALID : Fld := ⟨47, 47⟩
def sspCresWIN : Fld := ⟨46, 41⟩
def sspCresBASE : Fld := ⟨39, 32⟩
def sspCresTAG : Fld := ⟨20, 16⟩
def sspCresARMCYC : Fld := ⟨15, 0⟩
/-- SSP_CCOST[c][m], R110 (04_switching_predictor.md). -/
def sspCcost (c m : Nat) : Nat := 0x40060407 + c * 0x200 + m
def sspCcostJ : Fld := ⟨47, 0⟩
/-- SSP_CLAT[c], R110 (04_switching_predictor.md). -/
def sspClat (c : Nat) : Nat := 0x40060409 + c * 0x200
def sspClatMAX : Fld := ⟨31, 16⟩
def sspClatLAST : Fld := ⟨15, 0⟩
/-- SSP_CCNT[c], R110 (04_switching_predictor.md). -/
def sspCcnt (c : Nat) : Nat := 0x4006040A + c * 0x200
def sspCcntRETR : Fld := ⟨47, 36⟩
def sspCcntLATE : Fld := ⟨35, 24⟩
def sspCcntNOPOST : Fld := ⟨23, 12⟩
def sspCcntSAME : Fld := ⟨11, 0⟩
/-- SSP_PTMPL[c][j], R110 (04_switching_predictor.md). -/
def sspPtmpl (c j : Nat) : Nat := 0x40060410 + c * 0x200 + j
def sspPtmplDT : Fld := ⟨39, 31⟩
def sspPtmplPAIR : Fld := ⟨30, 23⟩
def sspPtmplOFF : Fld := ⟨22, 0⟩
/-- SSP_REFSRC[c][i], R110 (04_switching_predictor.md). -/
def sspRefsrc (c i : Nat) : Nat := 0x40060420 + c * 0x200 + i
def sspRefsrcKIND : Fld := ⟨46, 45⟩
def sspRefsrcSRC : Fld := ⟨24, 0⟩
/-- SSP_TIDX[c][t], R110 (04_switching_predictor.md). -/
def sspTidx (c t : Nat) : Nat := 0x400604C0 + c * 0x200 + t
def sspTidxEN : Fld := ⟨9, 9⟩
def sspTidxI : Fld := ⟨8, 6⟩
def sspTidxJ : Fld := ⟨5, 3⟩
def sspTidxK : Fld := ⟨2, 0⟩
/-- SSP_CLIST[c][k], R110 (04_switching_predictor.md). -/
def sspClist (c k : Nat) : Nat := 0x40060500 + c * 0x200 + k
def sspClistCAND : Fld := ⟨7, 0⟩
/-- SSP_LAMBDA[c], R110 (04_switching_predictor.md). -/
def sspLambda (c : Nat) : Nat := 0x4006040B + c * 0x200
def sspLambdaVALUE : Fld := ⟨47, 0⟩
/-- SSP_Q[c][i], R110 (04_switching_predictor.md). -/
def sspQ (c i : Nat) : Nat := 0x40060418 + c * 0x200 + i
def sspQVALUE : Fld := ⟨47, 0⟩
/-- SSP_E[c][i], R110 (04_switching_predictor.md). -/
def sspE (c i : Nat) : Nat := 0x40060428 + c * 0x200 + i
def sspEVALUE : Fld := ⟨47, 0⟩
/-- SSP_A[c][i][k], R110 (04_switching_predictor.md). -/
def sspA (c i k : Nat) : Nat := 0x40060440 + c * 0x200 + i * 8 + k
def sspAVALUE : Fld := ⟨47, 0⟩
/-- SSP_F[c][i][j], R110 (04_switching_predictor.md). -/
def sspF (c i j : Nat) : Nat := 0x40060480 + c * 0x200 + i * 8 + j
def sspFVALUE : Fld := ⟨47, 0⟩
/-- SSP_TCOEF[c][t], R110 (04_switching_predictor.md). -/
def sspTcoef (c t : Nat) : Nat := 0x400604E0 + c * 0x200 + t
def sspTcoefVALUE : Fld := ⟨47, 0⟩
/-- JNE_CTRL, R356 (15_journal_commit.md). -/
def jneCtrl : Nat := 0x40070000
def jneCtrlMIRMODE : Fld := ⟨2, 2⟩
def jneCtrlACKMODE : Fld := ⟨1, 1⟩
def jneCtrlEN : Fld := ⟨0, 0⟩
/-- JNE_STS, R356 (15_journal_commit.md). -/
def jneSts : Nat := 0x40070001
def jneStsSTATE : Fld := ⟨15, 13⟩
def jneStsREASON : Fld := ⟨12, 11⟩
def jneStsMIRLIVE : Fld := ⟨10, 10⟩
def jneStsOPENED : Fld := ⟨9, 9⟩
def jneStsCFGV : Fld := ⟨8, 8⟩
def jneStsFMTREF : Fld := ⟨7, 7⟩
def jneStsLAYOUT : Fld := ⟨6, 6⟩
def jneStsCSNEND : Fld := ⟨5, 5⟩
def jneStsMQERR : Fld := ⟨4, 4⟩
def jneStsHOSTERR : Fld := ⟨3, 3⟩
def jneStsDEGRADED : Fld := ⟨2, 2⟩
def jneStsPSAFE : Fld := ⟨1, 1⟩
def jneStsCMTSTALL : Fld := ⟨0, 0⟩
/-- JNE_CMD, R356 (15_journal_commit.md). -/
def jneCmd : Nat := 0x40070002
def jneCmdKEY : Fld := ⟨19, 4⟩
def jneCmdOP : Fld := ⟨3, 0⟩
/-- JNE_HEAD, R356 (15_journal_commit.md). -/
def jneHead : Nat := 0x40070003
def jneHeadHSIZE : Fld := ⟨6, 0⟩
/-- JNE_HLOG, R356 (15_journal_commit.md). -/
def jneHlog : Nat := 0x40070004
def jneHlogHLSIZE : Fld := ⟨29, 16⟩
def jneHlogHLBASE : Fld := ⟨13, 0⟩
/-- JNE_HOLDUP, R356 (15_journal_commit.md). -/
def jneHoldup : Nat := 0x40070005
def jneHoldupRATE : Fld := ⟨47, 32⟩
def jneHoldupTFIX : Fld := ⟨31, 16⟩
def jneHoldupTHOLD : Fld := ⟨15, 0⟩
/-- JNE_BUDGET, R356 (15_journal_commit.md). -/
def jneBudget : Nat := 0x40070006
def jneBudgetMAXU : Fld := ⟨39, 24⟩
def jneBudgetB : Fld := ⟨15, 0⟩
/-- JNE_U, R356 (15_journal_commit.md). -/
def jneU : Nat := 0x40070007
def jneUU : Fld := ⟨15, 0⟩
/-- JNE_NEXTCSN, R356 (15_journal_commit.md). -/
def jneNextcsn : Nat := 0x40070008
def jneNextcsnCSN : Fld := ⟨47, 0⟩
/-- JNE_ACKCSN, R356 (15_journal_commit.md). -/
def jneAckcsn : Nat := 0x40070009
def jneAckcsnCSN : Fld := ⟨47, 0⟩
/-- JNE_PERCSN, R356 (15_journal_commit.md). -/
def jnePercsn : Nat := 0x4007000A
def jnePercsnCSN : Fld := ⟨47, 0⟩
/-- JNE_CNT, R356 (15_journal_commit.md). -/
def jneCnt : Nat := 0x4007000B
def jneCntSTALLS : Fld := ⟨47, 36⟩
def jneCntDEGR : Fld := ⟨35, 24⟩
def jneCntDROPREC : Fld := ⟨23, 12⟩
def jneCntHRETRY : Fld := ⟨11, 0⟩
/-- JNE_MBCTL[r], R356 (15_journal_commit.md). -/
def jneMbctl (r : Nat) : Nat := 0x40070100 + r * 4
def jneMbctlGO : Fld := ⟨47, 47⟩
def jneMbctlKIND : Fld := ⟨17, 10⟩
def jneMbctlLEN : Fld := ⟨9, 0⟩
/-- JNE_MBADDR[r], R356 (15_journal_commit.md). -/
def jneMbaddr (r : Nat) : Nat := 0x40070101 + r * 4
def jneMbaddrADDR : Fld := ⟨39, 0⟩
/-- JNE_MBSTS[r], R356 (15_journal_commit.md). -/
def jneMbsts (r : Nat) : Nat := 0x40070102 + r * 4
def jneMbstsBUSY : Fld := ⟨47, 47⟩
def jneMbstsSTATUS : Fld := ⟨3, 0⟩
/-- JNE_MBCSN[r], R356 (15_journal_commit.md). -/
def jneMbcsn (r : Nat) : Nat := 0x40070103 + r * 4
def jneMbcsnCSN : Fld := ⟨47, 0⟩
/-- JNE_MQCFG[m], R356 (15_journal_commit.md). -/
def jneMqcfg (m : Nat) : Nat := 0x40070200 + m * 8
def jneMqcfgEN : Fld := ⟨47, 47⟩
def jneMqcfgQS : Fld := ⟨46, 43⟩
def jneMqcfgESTS : Fld := ⟨39, 32⟩
def jneMqcfgETAG : Fld := ⟨31, 16⟩
def jneMqcfgOUTST : Fld := ⟨15, 0⟩
/-- JNE_MQSQ[m], R356 (15_journal_commit.md). -/
def jneMqsq (m : Nat) : Nat := 0x40070201 + m * 8
def jneMqsqADDR : Fld := ⟨39, 0⟩
/-- JNE_MQCQ[m], R356 (15_journal_commit.md). -/
def jneMqcq (m : Nat) : Nat := 0x40070202 + m * 8
def jneMqcqADDR : Fld := ⟨39, 0⟩
/-- JNE_MQDB[m], R356 (15_journal_commit.md). -/
def jneMqdb (m : Nat) : Nat := 0x40070203 + m * 8
def jneMqdbADDR : Fld := ⟨39, 0⟩
/-- JNE_MQHEAD[m], R356 (15_journal_commit.md). -/
def jneMqhead (m : Nat) : Nat := 0x40070204 + m * 8
/-- JNE_DRY, R380 (16_journal_compaction_recovery.md). -/
def jneDry : Nat := 0x40070010
def jneDryDRYAGE : Fld := ⟨47, 32⟩
def jneDryRESERVE : Fld := ⟨31, 24⟩
def jneDryBATCHPG : Fld := ⟨22, 16⟩
def jneDryTHIN : Fld := ⟨1, 1⟩
def jneDryDISCARD : Fld := ⟨0, 0⟩
/-- JNE_DRYSTS, R380 (16_journal_compaction_recovery.md). -/
def jneDrysts : Nat := 0x40070011
def jneDrystsDISCARDED : Fld := ⟨4, 4⟩
def jneDrystsWEARHI : Fld := ⟨3, 3⟩
def jneDrystsPLCSHORT : Fld := ⟨2, 2⟩
def jneDrystsBASEFULL : Fld := ⟨1, 1⟩
def jneDrystsDRYERR : Fld := ⟨0, 0⟩
/-- JNE_APPCSN, R380 (16_journal_compaction_recovery.md). -/
def jneAppcsn : Nat := 0x40070012
def jneAppcsnVALUE : Fld := ⟨47, 0⟩
/-- JNE_SBGEN, R380 (16_journal_compaction_recovery.md). -/
def jneSbgen : Nat := 0x40070013
def jneSbgenVALUE : Fld := ⟨47, 0⟩
/-- JNE_RECSTS, R380 (16_journal_compaction_recovery.md). -/
def jneRecsts : Nat := 0x40070014
def jneRecstsCOPY : Fld := ⟨47, 47⟩
def jneRecstsFREASON : Fld := ⟨46, 44⟩
def jneRecstsRECN : Fld := ⟨31, 0⟩
/-- JNE_DRYBUF, R380 (16_journal_compaction_recovery.md). -/
def jneDrybuf : Nat := 0x40070015
def jneDrybufADDR : Fld := ⟨39, 0⟩
/-- JNE_SEGCMD, R380 (16_journal_compaction_recovery.md). -/
def jneSegcmd : Nat := 0x40070016
def jneSegcmdOP : Fld := ⟨47, 46⟩
def jneSegcmdSTATUS : Fld := ⟨45, 44⟩
def jneSegcmdBUSY : Fld := ⟨43, 43⟩
def jneSegcmdSEQ : Fld := ⟨35, 0⟩
/-- JNE_PLCCFG, R380 (16_journal_compaction_recovery.md). -/
def jnePlccfg : Nat := 0x40070018
def jnePlccfgWEARTHR : Fld := ⟨47, 40⟩
def jnePlccfgINFOPER : Fld := ⟨39, 24⟩
def jnePlccfgHIWAT : Fld := ⟨23, 18⟩
def jnePlccfgLOWAT : Fld := ⟨17, 12⟩
def jnePlccfgFREEZE : Fld := ⟨0, 0⟩
/-- JNE_PLCWIN, R380 (16_journal_compaction_recovery.md). -/
def jnePlcwin : Nat := 0x40070019
def jnePlcwinFLOOR : Fld := ⟨24, 20⟩
def jnePlcwinEHI : Fld := ⟨19, 15⟩
def jnePlcwinELO : Fld := ⟨14, 10⟩
def jnePlcwinNMAX : Fld := ⟨9, 5⟩
def jnePlcwinNMIN : Fld := ⟨4, 0⟩
/-- JNE_PLCSTS, R380 (16_journal_compaction_recovery.md). -/
def jnePlcsts : Nat := 0x4007001A
def jnePlcstsCLAMPS : Fld := ⟨47, 40⟩
def jnePlcstsWINDOWCLIPPED : Fld := ⟨17, 17⟩
def jnePlcstsPOLICYCLAMPED : Fld := ⟨16, 16⟩
def jnePlcstsELIG : Fld := ⟨12, 8⟩
def jnePlcstsACTIVE : Fld := ⟨4, 0⟩
/-- JNE_MWEAR[m], R380 (16_journal_compaction_recovery.md). -/
def jneMwear (m : Nat) : Nat := 0x40070300 + m
def jneMwearLIFE : Fld := ⟨47, 40⟩
def jneMwearSPARE : Fld := ⟨39, 32⟩
def jneMwearMERR : Fld := ⟨31, 31⟩
def jneMwearCAP : Fld := ⟨20, 0⟩
/-- JNE_MSLOT[m], R380 (16_journal_compaction_recovery.md). -/
def jneMslot (m : Nat) : Nat := 0x40070310 + m
def jneMslotHEAD : Fld := ⟨39, 20⟩
def jneMslotTAIL : Fld := ⟨19, 0⟩
/-- JNE_MLIVE[m], R380 (16_journal_compaction_recovery.md). -/
def jneMlive (m : Nat) : Nat := 0x40070320 + m
def jneMliveHEAD : Fld := ⟨39, 20⟩
def jneMliveTAIL : Fld := ⟨19, 0⟩
/-- PNE_CTRL, R329 (14_point_engine.md). -/
def pneCtrl : Nat := 0x40080000
def pneCtrlRESTTO : Fld := ⟨47, 32⟩
def pneCtrlSILENTN : Fld := ⟨31, 24⟩
def pneCtrlSTALEAGE : Fld := ⟨19, 16⟩
def pneCtrlAGEPER : Fld := ⟨15, 0⟩
/-- PNE_STS, R329 (14_point_engine.md). -/
def pneSts : Nat := 0x40080001
def pneStsNCONF : Fld := ⟨15, 5⟩
def pneStsREADY : Fld := ⟨4, 4⟩
def pneStsIMGERR : Fld := ⟨3, 3⟩
def pneStsREPLACED : Fld := ⟨2, 2⟩
def pneStsUSTATECHG : Fld := ⟨1, 1⟩
def pneStsCONFLICT : Fld := ⟨0, 0⟩
/-- PNE_CCFG, R329 (14_point_engine.md). -/
def pneCcfg : Nat := 0x40080002
def pneCcfgCLEARING : Fld := ⟨8, 8⟩
def pneCcfgEN : Fld := ⟨7, 7⟩
def pneCcfgSIZE : Fld := ⟨5, 4⟩
def pneCcfgBASE : Fld := ⟨3, 0⟩
/-- PNE_IMGBASE, R329 (14_point_engine.md). -/
def pneImgbase : Nat := 0x40080003
def pneImgbaseBASE : Fld := ⟨39, 26⟩
/-- PNE_CNT, R329 (14_point_engine.md). -/
def pneCnt : Nat := 0x40080004
def pneCntMISS : Fld := ⟨47, 36⟩
def pneCntSETWAIT : Fld := ⟨35, 24⟩
def pneCntPINS : Fld := ⟨12, 0⟩
/-- PNE_MBPNT[r], R329 (14_point_engine.md). -/
def pneMbpnt (r : Nat) : Nat := 0x40080100 + r * 8
def pneMbpntRD : Fld := ⟨47, 47⟩
def pneMbpntWOP : Fld := ⟨46, 44⟩
def pneMbpntPNUM : Fld := ⟨24, 0⟩
/-- PNE_MBVAL[r], R329 (14_point_engine.md). -/
def pneMbval (r : Nat) : Nat := 0x40080101 + r * 8
def pneMbvalDATA : Fld := ⟨47, 0⟩
/-- PNE_MBAUX[r], R329 (14_point_engine.md). -/
def pneMbaux (r : Nat) : Nat := 0x40080102 + r * 8
def pneMbauxDATA : Fld := ⟨47, 0⟩
/-- PNE_MBSTS[r], R329 (14_point_engine.md). -/
def pneMbsts (r : Nat) : Nat := 0x40080103 + r * 8
def pneMbstsBUSY : Fld := ⟨47, 47⟩
def pneMbstsSTATUS : Fld := ⟨3, 0⟩
/-- PNE_MBCSN[r], R329 (14_point_engine.md). -/
def pneMbcsn (r : Nat) : Nat := 0x40080104 + r * 8
def pneMbcsnCSN : Fld := ⟨47, 0⟩
/-- PNE_USTATE[u], R329 (14_point_engine.md). -/
def pneUstate (u : Nat) : Nat := 0x40081000 + u * 4
def pneUstateDSTATE : Fld := ⟨47, 46⟩
def pneUstateDMODEL : Fld := ⟨45, 30⟩
def pneUstateUSTATE : Fld := ⟨29, 27⟩
def pneUstateCAUSE : Fld := ⟨26, 24⟩
def pneUstateOSTATE : Fld := ⟨23, 21⟩
def pneUstateOMODEL : Fld := ⟨20, 5⟩
/-- PNE_UDSER[u], R329 (14_point_engine.md). -/
def pneUdser (u : Nat) : Nat := 0x40081001 + u * 4
def pneUdserSERIAL : Fld := ⟨39, 0⟩
/-- PNE_UOSER[u], R329 (14_point_engine.md). -/
def pneUoser (u : Nat) : Nat := 0x40081002 + u * 4
def pneUoserSERIAL : Fld := ⟨39, 0⟩
/-- PNE_UASER[u], R329 (14_point_engine.md). -/
def pneUaser (u : Nat) : Nat := 0x40081003 + u * 4
def pneUaserSERIAL : Fld := ⟨39, 0⟩
/-- WAC_CTRL, R396 (17_wear_accountant.md). -/
def wacCtrl : Nat := 0x40090000
def wacCtrlEN : Fld := ⟨47, 47⟩
def wacCtrlNSW : Fld := ⟨46, 32⟩
def wacCtrlUPER : Fld := ⟨31, 16⟩
def wacCtrlCKPER : Fld := ⟨15, 0⟩
/-- WAC_BASE, R396 (17_wear_accountant.md). -/
def wacBase : Nat := 0x40090001
def wacBaseCFGBASE : Fld := ⟨39, 20⟩
def wacBaseSTBASE : Fld := ⟨19, 0⟩
/-- WAC_STS, R396 (17_wear_accountant.md). -/
def wacSts : Nat := 0x40090002
def wacStsINIT : Fld := ⟨9, 9⟩
def wacStsACTIVE : Fld := ⟨8, 8⟩
def wacStsCKBUSY : Fld := ⟨7, 7⟩
def wacStsCFGV : Fld := ⟨6, 6⟩
def wacStsTJHI : Fld := ⟨5, 5⟩
def wacStsINQUAL : Fld := ⟨4, 4⟩
def wacStsFLUSH : Fld := ⟨3, 3⟩
def wacStsOVERRUN : Fld := ⟨2, 2⟩
def wacStsCKERR : Fld := ⟨1, 1⟩
def wacStsCKDONE : Fld := ⟨0, 0⟩
/-- WAC_CMD, R396 (17_wear_accountant.md). -/
def wacCmd : Nat := 0x40090003
def wacCmdOP : Fld := ⟨47, 46⟩
def wacCmdBUSY : Fld := ⟨45, 45⟩
def wacCmdT : Fld := ⟨13, 0⟩
/-- WAC_TJMAX, R396 (17_wear_accountant.md). -/
def wacTjmax : Nat := 0x40090004
def wacTjmaxLIMIT : Fld := ⟨47, 0⟩
/-- WAC_CNT, R396 (17_wear_accountant.md). -/
def wacCnt : Nat := 0x40090005
def wacCntCYCLES : Fld := ⟨47, 36⟩
def wacCntFLUSHES : Fld := ⟨35, 24⟩
def wacCntOVERRUNS : Fld := ⟨23, 12⟩
def wacCntQBAD : Fld := ⟨11, 0⟩
/-- WAC_LAST, R396 (17_wear_accountant.md). -/
def wacLast : Nat := 0x40090006
def wacLastTJT : Fld := ⟨43, 30⟩
def wacLastRTIME : Fld := ⟨29, 0⟩
/-- WAC_CKSTS, R396 (17_wear_accountant.md). -/
def wacCksts : Nat := 0x40090007
def wacCkstsCKNUM : Fld := ⟨47, 24⟩
def wacCkstsWRITTEN : Fld := ⟨23, 0⟩
/-- MLK_CTRL, R449 (19_mirror_pair.md). -/
def mlkCtrl : Nat := 0x400A0000
def mlkCtrlEN : Fld := ⟨47, 47⟩
def mlkCtrlARMED : Fld := ⟨46, 46⟩
def mlkCtrlMIVL : Fld := ⟨45, 30⟩
def mlkCtrlACKTO : Fld := ⟨29, 26⟩
/-- MLK_ROLE, R449 (19_mirror_pair.md). -/
def mlkRole : Nat := 0x400A0001
def mlkRoleROLE : Fld := ⟨47, 45⟩
def mlkRolePROLE : Fld := ⟨44, 42⟩
def mlkRoleHB : Fld := ⟨41, 41⟩
def mlkRoleLIVE : Fld := ⟨40, 40⟩
def mlkRoleRESYNC : Fld := ⟨39, 39⟩
def mlkRoleCOPYRX : Fld := ⟨38, 38⟩
def mlkRoleMSIL : Fld := ⟨37, 30⟩
def mlkRolePV : Fld := ⟨29, 26⟩
/-- MLK_STS, R449 (19_mirror_pair.md). -/
def mlkSts : Nat := 0x400A0002
def mlkStsCFGV : Fld := ⟨14, 14⟩
def mlkStsBCERR : Fld := ⟨13, 13⟩
def mlkStsCFGERR : Fld := ⟨12, 12⟩
def mlkStsLANEERR : Fld := ⟨11, 11⟩
def mlkStsRESYNCDONE : Fld := ⟨10, 10⟩
def mlkStsINSTREJ : Fld := ⟨9, 9⟩
def mlkStsGENDONE : Fld := ⟨8, 8⟩
def mlkStsINCOMPAT : Fld := ⟨7, 7⟩
def mlkStsCLAIMFAIL : Fld := ⟨6, 6⟩
def mlkStsFENCED : Fld := ⟨5, 5⟩
def mlkStsUNSYNCED : Fld := ⟨4, 4⟩
def mlkStsCONFIGBEHIND : Fld := ⟨3, 3⟩
def mlkStsTAKEOVER : Fld := ⟨2, 2⟩
def mlkStsMIRRORLINKLOST : Fld := ⟨1, 1⟩
def mlkStsROLECHG : Fld := ⟨0, 0⟩
/-- MLK_PEER, R449 (19_mirror_pair.md). -/
def mlkPeer : Nat := 0x400A0003
def mlkPeerHB0 : Fld := ⟨47, 0⟩
/-- MLK_GEN, R449 (19_mirror_pair.md). -/
def mlkGen : Nat := 0x400A0004
def mlkGenCURELIG : Fld := ⟨47, 47⟩
def mlkGenINSTALLING : Fld := ⟨46, 46⟩
def mlkGenCURGEN : Fld := ⟨31, 0⟩
/-- MLK_BCCMD, R449 (19_mirror_pair.md). -/
def mlkBccmd : Nat := 0x400A0005
def mlkBccmdOP : Fld := ⟨47, 46⟩
def mlkBccmdELIG : Fld := ⟨45, 45⟩
def mlkBccmdBUSY : Fld := ⟨44, 44⟩
def mlkBccmdGEN : Fld := ⟨31, 0⟩
/-- MLK_BCBUF, R449 (19_mirror_pair.md). -/
def mlkBcbuf : Nat := 0x400A0006
def mlkBcbufVALUE : Fld := ⟨39, 0⟩
/-- MLK_BCHALF, R449 (19_mirror_pair.md). -/
def mlkBchalf : Nat := 0x400A0007
def mlkBchalfVALUE : Fld := ⟨39, 0⟩
/-- MLK_IBUF, R449 (19_mirror_pair.md). -/
def mlkIbuf : Nat := 0x400A0008
def mlkIbufVALUE : Fld := ⟨39, 0⟩
/-- MLK_JSYNC, R449 (19_mirror_pair.md). -/
def mlkJsync : Nat := 0x400A0009
def mlkJsyncCSN : Fld := ⟨47, 0⟩
/-- MLK_CNT, R449 (19_mirror_pair.md). -/
def mlkCnt : Nat := 0x400A000A
def mlkCntIMGSKIP : Fld := ⟨47, 36⟩
def mlkCntFRERR : Fld := ⟨35, 24⟩
def mlkCntRSYNCS : Fld := ⟨23, 12⟩
def mlkCntINSTREJ : Fld := ⟨11, 0⟩
/-- MLK_LANE[j], R449 (19_mirror_pair.md). -/
def mlkLane (j : Nat) : Nat := 0x400A0010 + j
def mlkLaneLOCK : Fld := ⟨23, 23⟩
def mlkLaneHIBER : Fld := ⟨22, 22⟩
def mlkLaneLOCKLOST : Fld := ⟨21, 21⟩
def mlkLaneSHERR : Fld := ⟨15, 0⟩
/-- MLK_SLOTSEL[s], R449 (19_mirror_pair.md). -/
def mlkSlotsel (s : Nat) : Nat := 0x400A0200 + s
def mlkSlotselEN : Fld := ⟨47, 47⟩
def mlkSlotselNS : Fld := ⟨5, 0⟩
/-- MLK_BCTBL0[e], R449 (19_mirror_pair.md). -/
def mlkBctbl0 (e : Nat) : Nat := 0x400A0100 + e * 2
def mlkBctbl0EN : Fld := ⟨47, 47⟩
def mlkBctbl0KIND : Fld := ⟨46, 46⟩
def mlkBctbl0OTYPE : Fld := ⟨45, 38⟩
def mlkBctbl0LENM1 : Fld := ⟨15, 0⟩
/-- MLK_BCTBL1[e], R449 (19_mirror_pair.md). -/
def mlkBctbl1 (e : Nat) : Nat := 0x400A0101 + e * 2
def mlkBctbl1ADDR : Fld := ⟨39, 0⟩
/-- RLK_CTRL, R424 (18_rack_link.md). -/
def rlkCtrl : Nat := 0x400B0000
def rlkCtrlEN : Fld := ⟨47, 47⟩
def rlkCtrlSIDE : Fld := ⟨46, 46⟩
def rlkCtrlLIMPN : Fld := ⟨45, 38⟩
def rlkCtrlRTXN : Fld := ⟨37, 34⟩
def rlkCtrlPER : Fld := ⟨18, 0⟩
/-- RLK_PHASE, R424 (18_rack_link.md). -/
def rlkPhase : Nat := 0x400B0001
def rlkPhasePHASE : Fld := ⟨18, 0⟩
/-- RLK_STS, R424 (18_rack_link.md). -/
def rlkSts : Nat := 0x400B0002
def rlkStsPEERSILENT : Fld := ⟨7, 7⟩
def rlkStsQUORUM : Fld := ⟨6, 6⟩
def rlkStsITEMSHORT : Fld := ⟨5, 5⟩
def rlkStsREPDROP : Fld := ⟨4, 4⟩
def rlkStsREJECT : Fld := ⟨3, 3⟩
def rlkStsSLOTERR : Fld := ⟨2, 2⟩
def rlkStsCFGERR : Fld := ⟨1, 1⟩
def rlkStsCFGV : Fld := ⟨0, 0⟩
/-- RLK_EPOCH, R424 (18_rack_link.md). -/
def rlkEpoch : Nat := 0x400B0003
def rlkEpochHOLD : Fld := ⟨33, 33⟩
def rlkEpochCLAIM : Fld := ⟨32, 32⟩
def rlkEpochEPOCH : Fld := ⟨31, 0⟩
/-- RLK_AUTH, R424 (18_rack_link.md). -/
def rlkAuth : Nat := 0x400B0004
def rlkAuthNCFG : Fld := ⟨29, 20⟩
def rlkAuthACC : Fld := ⟨19, 10⟩
def rlkAuthLIVE : Fld := ⟨9, 0⟩
/-- RLK_MAXEP, R424 (18_rack_link.md). -/
def rlkMaxep : Nat := 0x400B0005
def rlkMaxepMAXSEEN : Fld := ⟨31, 0⟩
/-- RLK_PEER, R424 (18_rack_link.md). -/
def rlkPeer : Nat := 0x400B0006
def rlkPeerSILENT : Fld := ⟨47, 40⟩
def rlkPeerPLIVE : Fld := ⟨9, 0⟩
/-- RLK_TBL, R424 (18_rack_link.md). -/
def rlkTbl : Nat := 0x400B0007
def rlkTblSBASE : Fld := ⟨39, 20⟩
def rlkTblRBASE : Fld := ⟨19, 0⟩
/-- RLK_CNT, R424 (18_rack_link.md). -/
def rlkCnt : Nat := 0x400B0008
def rlkCntRETX : Fld := ⟨47, 36⟩
def rlkCntREPREJ : Fld := ⟨35, 24⟩
def rlkCntREPDROP : Fld := ⟨23, 12⟩
def rlkCntITEMSHORT : Fld := ⟨11, 0⟩
/-- RLK_RING[k], R424 (18_rack_link.md). -/
def rlkRing (k : Nat) : Nat := 0x400B0010 + k * 4
def rlkRingEN : Fld := ⟨47, 47⟩
def rlkRingNPOSM1 : Fld := ⟨22, 15⟩
def rlkRingDW : Fld := ⟨14, 8⟩
def rlkRingUW : Fld := ⟨6, 0⟩
/-- RLK_RSTS[k], R424 (18_rack_link.md). -/
def rlkRsts (k : Nat) : Nat := 0x400B0011 + k * 4
def rlkRstsLOCK : Fld := ⟨24, 24⟩
def rlkRstsHIBER : Fld := ⟨23, 23⟩
def rlkRstsLOCKLOST : Fld := ⟨22, 22⟩
def rlkRstsNOFRAME : Fld := ⟨21, 21⟩
def rlkRstsLATE : Fld := ⟨20, 20⟩
def rlkRstsFRAMEERR : Fld := ⟨19, 19⟩
def rlkRstsRTT : Fld := ⟨18, 0⟩
/-- RLK_RCNT[k], R424 (18_rack_link.md). -/
def rlkRcnt (k : Nat) : Nat := 0x400B0012 + k * 4
def rlkRcntSHERR : Fld := ⟨47, 32⟩
def rlkRcntBADCYC : Fld := ⟨31, 16⟩
def rlkRcntSLOTERR : Fld := ⟨15, 0⟩
/-- RLK_UMAP[u], R424 (18_rack_link.md). -/
def rlkUmap (u : Nat) : Nat := 0x400B0400 + u
def rlkUmapEN : Fld := ⟨47, 47⟩
def rlkUmapRING : Fld := ⟨9, 8⟩
def rlkUmapPOS : Fld := ⟨7, 0⟩
/-- RLK_USTS[u], R424 (18_rack_link.md). -/
def rlkUsts (u : Nat) : Nat := 0x400B0800 + u
def rlkUstsMISS : Fld := ⟨43, 36⟩
def rlkUstsVALID : Fld := ⟨35, 35⟩
def rlkUstsLIMP : Fld := ⟨34, 34⟩
def rlkUstsAHOLDER : Fld := ⟨33, 32⟩
def rlkUstsAEPOCH : Fld := ⟨31, 0⟩
/-- CPT_CTRL, R469 (20_command_port.md). -/
def cptCtrl : Nat := 0x400C0000
def cptCtrlEN : Fld := ⟨47, 47⟩
def cptCtrlEVEN : Fld := ⟨46, 46⟩
def cptCtrlSVEN : Fld := ⟨45, 45⟩
def cptCtrlDEFTMO : Fld := ⟨31, 16⟩
def cptCtrlRHINT : Fld := ⟨15, 0⟩
/-- CPT_STS, R469 (20_command_port.md). -/
def cptSts : Nat := 0x400C0001
def cptStsFREEG : Fld := ⟨22, 16⟩
def cptStsCFGV : Fld := ⟨6, 6⟩
def cptStsDBDROP : Fld := ⟨5, 5⟩
def cptStsEVLOST : Fld := ⟨4, 4⟩
def cptStsLATEREPLY : Fld := ⟨3, 3⟩
def cptStsNOBUF : Fld := ⟨2, 2⟩
def cptStsTIMEOUT : Fld := ⟨1, 1⟩
def cptStsBADPKT : Fld := ⟨0, 0⟩
/-- CPT_POOL, R469 (20_command_port.md). -/
def cptPool : Nat := 0x400C0002
def cptPoolBASE : Fld := ⟨39, 0⟩
/-- CPT_EVRING, R469 (20_command_port.md). -/
def cptEvring : Nat := 0x400C0003
def cptEvringESZ : Fld := ⟨47, 44⟩
def cptEvringADDR : Fld := ⟨39, 0⟩
/-- CPT_EVNOTE, R469 (20_command_port.md). -/
def cptEvnote : Nat := 0x400C0004
def cptEvnoteEN : Fld := ⟨47, 47⟩
def cptEvnoteADDR : Fld := ⟨39, 0⟩
/-- CPT_EVPTR, R469 (20_command_port.md). -/
def cptEvptr : Nat := 0x400C0005
def cptEvptrCONS : Fld := ⟨31, 16⟩
def cptEvptrPROD : Fld := ⟨15, 0⟩
/-- CPT_EVMASK, R469 (20_command_port.md). -/
def cptEvmask : Nat := 0x400C0006
def cptEvmaskEN : Fld := ⟨5, 1⟩
/-- CPT_HDB, R469 (20_command_port.md). -/
def cptHdb : Nat := 0x400C0008
def cptHdbADDR : Fld := ⟨39, 0⟩
/-- CPT_PDB, R469 (20_command_port.md). -/
def cptPdb : Nat := 0x400C0009
def cptPdbADDR : Fld := ⟨39, 0⟩
/-- CPT_QHEAD, R469 (20_command_port.md). -/
def cptQhead : Nat := 0x400C000A
def cptQheadVALID : Fld := ⟨47, 47⟩
def cptQheadREQ : Fld := ⟨43, 40⟩
def cptQheadBUF : Fld := ⟨5, 0⟩
/-- CPT_TAKE, R469 (20_command_port.md). -/
def cptTake : Nat := 0x400C000B
def cptTakeBUF : Fld := ⟨5, 0⟩
/-- CPT_REPLY, R469 (20_command_port.md). -/
def cptReply : Nat := 0x400C000C
def cptReplySTATUS : Fld := ⟨47, 44⟩
def cptReplyDETAIL : Fld := ⟨43, 36⟩
def cptReplyLEN : Fld := ⟨35, 28⟩
def cptReplyBUF : Fld := ⟨5, 0⟩
/-- CPT_CNT, R469 (20_command_port.md). -/
def cptCnt : Nat := 0x400C000D
def cptCntTIMEOUTS : Fld := ⟨47, 36⟩
def cptCntNOBUFS : Fld := ⟨35, 24⟩
def cptCntLATE : Fld := ⟨23, 12⟩
def cptCntEVDROP : Fld := ⟨11, 0⟩
/-- CPT_ALLOC[r], R469 (20_command_port.md). -/
def cptAlloc (r : Nat) : Nat := 0x400C0010 + r
def cptAllocGRANT : Fld := ⟨47, 47⟩
def cptAllocRES : Fld := ⟨46, 45⟩
def cptAllocBUF : Fld := ⟨5, 0⟩
/-- CPT_SUBMIT[r], R469 (20_command_port.md). -/
def cptSubmit (r : Nat) : Nat := 0x400C0020 + r
def cptSubmitBUF : Fld := ⟨5, 0⟩
/-- CPT_FREE[r], R469 (20_command_port.md). -/
def cptFree (r : Nat) : Nat := 0x400C0030 + r
def cptFreeBUF : Fld := ⟨5, 0⟩
/-- CPT_RQ[r], R469 (20_command_port.md). -/
def cptRq (r : Nat) : Nat := 0x400C0040 + r
def cptRqPERM : Fld := ⟨47, 40⟩
def cptRqLIMIT : Fld := ⟨39, 32⟩
def cptRqHELD : Fld := ⟨31, 26⟩
def cptRqSUBV : Fld := ⟨25, 25⟩
/-- CPT_BUF[b], R469 (20_command_port.md). -/
def cptBuf (b : Nat) : Nat := 0x400C0100 + b
def cptBufSTATE : Fld := ⟨47, 45⟩
def cptBufOWNER : Fld := ⟨44, 41⟩
def cptBufTAG : Fld := ⟨40, 25⟩
def cptBufREMAIN : Fld := ⟨15, 0⟩
/-- DBG_CTRL, R524 (23_debug_run_control.md). -/
def dbgCtrl : Nat := 0x400D0000
def dbgCtrlCONSENT : Fld := ⟨47, 47⟩
def dbgCtrlKEYLOCK : Fld := ⟨2, 2⟩
def dbgCtrlGRANT : Fld := ⟨1, 0⟩
/-- DBG_STS, R524 (23_debug_run_control.md). -/
def dbgSts : Nat := 0x400D0001
def dbgStsVTOVF : Fld := ⟨4, 4⟩
def dbgStsVTINF : Fld := ⟨3, 3⟩
def dbgStsVTOUTF : Fld := ⟨2, 2⟩
def dbgStsLEVEL : Fld := ⟨1, 0⟩
/-- DBG_KEY[w], R524 (23_debug_run_control.md). -/
def dbgKey (w : Nat) : Nat := 0x400D0008 + w
def dbgKeyKEY : Fld := ⟨47, 0⟩
/-- DBG_CORECTL[k], R524 (23_debug_run_control.md). -/
def dbgCorectl (k : Nat) : Nat := 0x400D0020 + k
def dbgCorectlREASON : Fld := ⟨15, 13⟩
def dbgCorectlSTOPPED : Fld := ⟨12, 12⟩
def dbgCorectlWPEN : Fld := ⟨11, 10⟩
def dbgCorectlBPEN : Fld := ⟨9, 6⟩
def dbgCorectlMASKSTEP : Fld := ⟨5, 5⟩
def dbgCorectlCSTOP : Fld := ⟨4, 4⟩
def dbgCorectlRESUME : Fld := ⟨2, 2⟩
def dbgCorectlSTEP : Fld := ⟨1, 1⟩
def dbgCorectlSTOP : Fld := ⟨0, 0⟩
/-- DBG_BP[k][i], R524 (23_debug_run_control.md). -/
def dbgBp (k i : Nat) : Nat := 0x400D0080 + k * 4 + i
def dbgBpPC : Fld := ⟨41, 0⟩
/-- DBG_TRCTL, R524 (23_debug_run_control.md). -/
def dbgTrctl : Nat := 0x400D0200
def dbgTrctlEN : Fld := ⟨47, 47⟩
def dbgTrctlRUN : Fld := ⟨46, 46⟩
def dbgTrctlMODE : Fld := ⟨45, 45⟩
def dbgTrctlSTART : Fld := ⟨44, 42⟩
def dbgTrctlSTOP : Fld := ⟨41, 39⟩
def dbgTrctlCLS : Fld := ⟨38, 34⟩
def dbgTrctlCORE : Fld := ⟨33, 30⟩
def dbgTrctlLANEMASK : Fld := ⟨15, 0⟩
/-- DBG_TRBUF[i][w], R524 (23_debug_run_control.md). -/
def dbgTrbuf (i w : Nat) : Nat := 0x400D1000 + i * 2 + w
def dbgTrbufREC : Fld := ⟨47, 0⟩
/-- DBG_VTOUT, R524 (23_debug_run_control.md). -/
def dbgVtout : Nat := 0x400D0010
def dbgVtoutDATA : Fld := ⟨47, 0⟩
/-- DBG_VTIN, R524 (23_debug_run_control.md). -/
def dbgVtin : Nat := 0x400D0011
def dbgVtinDATA : Fld := ⟨47, 0⟩
/-- DBG_CSEL[k], R524 (23_debug_run_control.md). -/
def dbgCsel (k : Nat) : Nat := 0x400D0030 + k
def dbgCselCSTEP : Fld := ⟨23, 16⟩
def dbgCselSPACE : Fld := ⟨15, 14⟩
def dbgCselSEL : Fld := ⟨10, 0⟩
/-- DBG_CDAT[k], R524 (23_debug_run_control.md). -/
def dbgCdat (k : Nat) : Nat := 0x400D0040 + k
def dbgCdatDATA : Fld := ⟨47, 0⟩
/-- DBG_TRPTR, R524 (23_debug_run_control.md). -/
def dbgTrptr : Nat := 0x400D0201
def dbgTrptrLOST : Fld := ⟨47, 24⟩
def dbgTrptrWR : Fld := ⟨11, 0⟩
/-- DBG_TRMARK, R524 (23_debug_run_control.md). -/
def dbgTrmark : Nat := 0x400D0202
def dbgTrmarkVALUE : Fld := ⟨35, 0⟩
/-- DBG_WP[k][j][w], R524 (23_debug_run_control.md). -/
def dbgWp (k j w : Nat) : Nat := 0x400D0100 + k * 4 + j * 2 + w
def dbgWpST : Fld := ⟨41, 41⟩
def dbgWpLD : Fld := ⟨40, 40⟩
def dbgWpADDR : Fld := ⟨39, 0⟩

end Sys2Proof.Machine
end

