-- ==== Sys2Proof/Config.lean ====
section
/-! DEFINITION. What an integration of the block fixes (R505) and the values the spec leaves open. -/

namespace Sys2Proof

/-- The integration parameters (R505): fixed when the block is synthesised, held in the state, changed by no
command. -/
structure Params where
  /-- P_ADT_FLOOR, the dead-time protection floor -/
  adtFloor : BitVec 9
  /-- P_PHS_FLOOR0 to P_PHS_FLOOR3, the phase-count protection floors -/
  phsFloor : List (BitVec 7)
  /-- P_PLC_FLOOR, the placement protection floor -/
  plcFloor : BitVec 5
  /-- P_BLEVEL, the behaviour level at power-on -/
  blevel : BitVec 2
  /-- P_ANCHOR, the anchor digest (R484), zero for none -/
  anchor : List Word
  /-- P_HSP_RWT: bit i lets the host write the RWT fields of system type i (R497) -/
  hspRwt : BitVec 16
deriving DecidableEq, Repr

/-- The default of every parameter (R505). -/
def Params.default : Params := ⟨8, [1, 1, 1, 1], 1, 3, [0, 0, 0, 0, 0, 0], 0⟩

/-- P_ADT_FLOOR as a number. -/
def Params.adt (p : Params) : Nat := p.adtFloor.toNat

/-- P_PHS_FLOORg as a number. -/
def Params.phs (p : Params) (g : Nat) : Nat := (p.phsFloor.getD g 0).toNat

/-- P_PLC_FLOOR as a number. -/
def Params.plc (p : Params) : Nat := p.plcFloor.toNat

/-- Word w of P_ANCHOR. -/
def Params.anchorW (p : Params) (w : Nat) : Word := p.anchor.getD w 0

/-- The values that the synthesis tools accept (R505). -/
def Params.accepted (p : Params) : Bool :=
  p.phsFloor.length == 4 && p.plcFloor.toNat ≤ 16 && 1 ≤ p.blevel.toNat && p.anchor.length == 6

namespace Config

/-- A value the spec leaves undefined (R9): free, nothing constrains it. State carries a counter
`free`; each use applies this constant to the counter and advances it. -/
opaque freeValue : Nat → BitVec 112

/-- What a unit's read of a word of the block's memories that gives no data leaves it with (R273, R275), by the same counter
and the word's address: free. -/
opaque noDataWord : Nat → Nat → Word

/-- The version of the Flacon firmware (R459), which the spec does not give: free. -/
opaque flaconVersion : BitVec 24

end Config

end Sys2Proof
end

