-- ==== Sys2Proof/Machine/RegTable.lean ====
section
/-! DEFINITION. The register table: for every register of the register space its address, its
array strides, its reset condition (R13), the area that holds it (R42, R264), the system type that
authorises its RWT fields (R234) and its fields with their access code (R11) and reset value. -/

namespace Sys2Proof.Machine

/-- The access codes of R11. -/
inductive Acc11 where
  | ro | rw | wo | w1c | w1s | rc | rwt
deriving DecidableEq, Repr

/-- Where a field's reset value comes from: a number of the register table, an integration
parameter (R505), the behaviour level (R527), or a rule on the register's index. -/
inductive RstVal where
  | val (n : Nat)
  | lead | hon | holdMax
  | adtFloor | phsFloor | plcFloor | level | anchor | pBlevel
  | intcKind | intcClass | escPrio | escLvl | escTgt
  | plane | perm | unit0
deriving DecidableEq, Repr

/-- The reset conditions of R13; `held` is the condition written as a dash. -/
inductive RstCond where
  | por | sys | wake | held
deriving DecidableEq, Repr

/-- What must be ON for a register to answer: the always-on area, a switched domain, or the domain
18 + n of engine n, n being the register's first index (R43). -/
inductive Area where
  | aon | pd (d : Nat) | ae
deriving DecidableEq, Repr

/-- One field of a register table. -/
structure FldDesc where
  hi  : Nat
  lo  : Nat
  acc : Acc11
  rst : RstVal
deriving DecidableEq, Repr

/-- One register, or one array of registers with (count, stride) for each index. -/
structure RegDesc where
  name   : String
  base   : Nat
  dims   : List (Nat × Nat)
  cond   : RstCond
  area   : Area
  otype  : Nat
  fields : List FldDesc
deriving DecidableEq, Repr

/-- The registers of PCTL. -/
def regTablePctl : List RegDesc := [
  ⟨"PCTL_BTIME", 0x40000200, [], .por, .aon, 13,
   [⟨47, 0, .ro, .val 0x0⟩]⟩,
  ⟨"PCTL_JTSEC", 0x40000201, [], .held, .aon, 13,
   [⟨47, 0, .rwt, .val 0x0⟩]⟩,
  ⟨"PCTL_JTNS", 0x40000202, [], .held, .aon, 13,
   [⟨47, 47, .wo, .val 0x0⟩, ⟨46, 46, .w1c, .val 0x0⟩, ⟨31, 0, .rwt, .val 0x0⟩]⟩,
  ⟨"PCTL_JTINC", 0x40000203, [], .held, .aon, 13,
   [⟨39, 0, .rwt, .val 0x355555555⟩]⟩,
  ⟨"PCTL_JTCAP", 0x40000204, [], .held, .aon, 13,
   [⟨47, 0, .ro, .val 0x0⟩]⟩,
  ⟨"PCTL_DMDONE", 0x40000205, [], .sys, .aon, 13,
   [⟨7, 0, .wo, .val 0x0⟩]⟩,
  ⟨"PCTL_DMLOGPTR", 0x40000206, [], .sys, .aon, 13,
   [⟨19, 8, .rc, .val 0x0⟩, ⟨5, 0, .ro, .val 0x0⟩]⟩,
  ⟨"PCTL_CGTIME", 0x40000210, [(16, 1)], .sys, .aon, 13,
   [⟨47, 24, .rwt, .val 0x0⟩, ⟨23, 0, .rwt, .val 0x0⟩]⟩,
  ⟨"PCTL_CGCTL", 0x40000220, [(16, 1)], .sys, .aon, 13,
   [⟨11, 4, .rc, .val 0x0⟩, ⟨2, 2, .w1c, .val 0x0⟩, ⟨1, 1, .w1c, .val 0x0⟩, ⟨0, 0, .rwt, .val 0x0⟩]⟩,
  ⟨"PCTL_VERSION", 0x40000000, [], .por, .aon, 13,
   [⟨47, 40, .ro, .val 0x3⟩, ⟨39, 32, .ro, .val 0x1⟩, ⟨31, 24, .ro, .val 0x0⟩, ⟨19, 18, .ro, .level⟩, ⟨17, 16, .ro, .val 0x3⟩]⟩,
  ⟨"PCTL_BLEVEL", 0x40000001, [], .held, .aon, 13,
   [⟨2, 2, .w1c, .val 0x0⟩, ⟨1, 0, .rwt, .pBlevel⟩]⟩,
  ⟨"PCTL_CTRL", 0x40000002, [], .held, .aon, 13,
   [⟨16, 16, .rwt, .val 0x0⟩, ⟨15, 0, .rwt, .val 0x1f4⟩]⟩,
  ⟨"PCTL_STS", 0x40000003, [], .held, .aon, 13,
   [⟨15, 8, .rc, .val 0x0⟩, ⟨5, 5, .w1c, .val 0x0⟩, ⟨4, 4, .w1c, .val 0x0⟩, ⟨3, 3, .w1c, .val 0x0⟩, ⟨2, 2, .w1c, .val 0x0⟩, ⟨1, 1, .w1c, .val 0x0⟩, ⟨0, 0, .w1c, .val 0x0⟩]⟩,
  ⟨"PCTL_RSTSTS", 0x40000004, [], .held, .aon, 13,
   [⟨15, 13, .ro, .val 0x0⟩, ⟨12, 11, .ro, .val 0x0⟩, ⟨10, 8, .rwt, .val 0x0⟩, ⟨4, 0, .rwt, .val 0x0⟩]⟩,
  ⟨"PCTL_BOOTSRC", 0x40000005, [], .held, .aon, 13,
   [⟨47, 47, .rw, .val 0x0⟩, ⟨39, 0, .rw, .val 0x0⟩]⟩,
  ⟨"PCTL_ANCHOR", 0x40000008, [(6, 1)], .por, .aon, 13,
   [⟨47, 0, .ro, .anchor⟩]⟩,
  ⟨"PCTL_CORECTL", 0x40000010, [(10, 1)], .sys, .aon, 13,
   [⟨3, 3, .ro, .val 0x0⟩, ⟨2, 2, .rwt, .val 0x0⟩, ⟨1, 1, .rwt, .val 0x0⟩, ⟨0, 0, .rwt, .val 0x0⟩]⟩,
  ⟨"PCTL_RSTVEC", 0x40000020, [(10, 1)], .sys, .aon, 13,
   [⟨39, 0, .rwt, .val 0x0⟩]⟩,
  ⟨"PCTL_PD", 0x40000080, [(56, 1)], .por, .aon, 13,
   [⟨47, 45, .ro, .val 0x0⟩, ⟨44, 44, .ro, .val 0x0⟩, ⟨43, 43, .ro, .val 0x0⟩, ⟨42, 42, .ro, .val 0x0⟩, ⟨41, 40, .ro, .val 0x0⟩, ⟨39, 39, .w1c, .val 0x0⟩, ⟨38, 38, .w1c, .val 0x0⟩, ⟨2, 0, .rwt, .val 0x0⟩]⟩,
  ⟨"PCTL_DMLOG", 0x40000700, [(64, 4), (4, 1)], .sys, .aon, 13,
   [⟨47, 0, .ro, .val 0x0⟩]⟩,
  ⟨"PCTL_DMLAST", 0x40000800, [(256, 4), (4, 1)], .sys, .aon, 13,
   [⟨47, 0, .ro, .val 0x0⟩]⟩,
  ⟨"PCTL_LOCKREC0", 0x40000030, [(10, 4)], .sys, .aon, 13,
   [⟨47, 47, .w1c, .val 0x0⟩, ⟨45, 44, .ro, .val 0x0⟩, ⟨7, 0, .ro, .val 0x0⟩]⟩,
  ⟨"PCTL_LOCKREC1", 0x40000031, [(10, 4)], .sys, .aon, 13,
   [⟨47, 0, .ro, .val 0x0⟩]⟩,
  ⟨"PCTL_LOCKREC2", 0x40000032, [(10, 4)], .sys, .aon, 13,
   [⟨47, 0, .ro, .val 0x0⟩]⟩]

/-- The registers of DM. -/
def regTableDm : List RegDesc := [
  ⟨"DM_CFG", 0x40000400, [(256, 1)], .sys, .aon, 13,
   [⟨47, 47, .rwt, .val 0x0⟩, ⟨46, 45, .rwt, .val 0x0⟩, ⟨44, 38, .rwt, .val 0x0⟩, ⟨37, 37, .rwt, .val 0x0⟩, ⟨36, 35, .rwt, .val 0x1⟩, ⟨34, 31, .rwt, .val 0x8⟩, ⟨30, 27, .rwt, .val 0x0⟩, ⟨26, 24, .rwt, .holdMax⟩, ⟨23, 16, .rwt, .val 0x0⟩]⟩,
  ⟨"DM_BUD", 0x40000500, [(256, 1)], .sys, .aon, 13,
   [⟨47, 24, .rwt, .val 0x0⟩, ⟨23, 0, .rwt, .val 0x10⟩]⟩,
  ⟨"DM_STS", 0x40000600, [(256, 1)], .sys, .aon, 13,
   [⟨47, 36, .rc, .val 0x0⟩, ⟨35, 35, .rw, .val 0x0⟩, ⟨34, 34, .ro, .val 0x0⟩, ⟨33, 33, .ro, .val 0x0⟩, ⟨32, 32, .w1c, .val 0x0⟩, ⟨31, 31, .w1c, .val 0x0⟩, ⟨30, 30, .w1c, .val 0x0⟩, ⟨29, 27, .ro, .val 0x0⟩, ⟨23, 0, .rc, .val 0x0⟩]⟩]

/-- The registers of INTC. -/
def regTableIntc : List RegDesc := [
  ⟨"INTC_CTRL", 0x40010000, [], .sys, .aon, 5,
   [⟨0, 0, .rwt, .val 0x0⟩]⟩,
  ⟨"INTC_STS", 0x40010001, [], .sys, .aon, 5,
   [⟨2, 2, .w1c, .val 0x0⟩, ⟨1, 1, .w1c, .val 0x0⟩, ⟨0, 0, .w1c, .val 0x0⟩]⟩,
  ⟨"INTC_MSET", 0x40010002, [], .sys, .aon, 5,
   [⟨8, 0, .wo, .val 0x0⟩]⟩,
  ⟨"INTC_PEND", 0x40010010, [(16, 1)], .sys, .aon, 5,
   [⟨31, 0, .ro, .val 0x0⟩]⟩,
  ⟨"INTC_GHOLD", 0x40010040, [(32, 1)], .sys, .aon, 5,
   [⟨32, 32, .ro, .val 0x0⟩, ⟨31, 16, .ro, .val 0x0⟩, ⟨15, 0, .rwt, .val 0x0⟩]⟩,
  ⟨"INTC_CLAIM", 0x40010080, [(10, 1)], .sys, .aon, 5,
   [⟨13, 10, .ro, .val 0x0⟩, ⟨9, 0, .ro, .val 0x200⟩]⟩,
  ⟨"INTC_EOI", 0x40010090, [(10, 1)], .sys, .aon, 5,
   [⟨8, 0, .wo, .val 0x0⟩]⟩,
  ⟨"INTC_CORESTS", 0x400100A0, [(10, 1)], .sys, .aon, 5,
   [⟨31, 24, .rc, .val 0x0⟩, ⟨23, 23, .ro, .val 0x0⟩, ⟨22, 18, .ro, .val 0x0⟩, ⟨17, 14, .ro, .val 0x0⟩, ⟨10, 10, .ro, .val 0x0⟩, ⟨8, 0, .ro, .val 0x0⟩]⟩,
  ⟨"INTC_SRC", 0x40010200, [(512, 1)], .sys, .aon, 5,
   [⟨47, 47, .ro, .val 0x0⟩, ⟨46, 46, .ro, .val 0x0⟩, ⟨45, 42, .ro, .val 0xf⟩, ⟨41, 41, .w1c, .val 0x0⟩, ⟨40, 40, .ro, .intcKind⟩, ⟨39, 32, .ro, .val 0x0⟩, ⟨31, 31, .ro, .val 0x0⟩, ⟨30, 30, .ro, .intcClass⟩, ⟨29, 29, .rwt, .escLvl⟩, ⟨27, 24, .rwt, .escPrio⟩, ⟨9, 0, .rwt, .escTgt⟩]⟩]

/-- The registers of MEM. -/
def regTableMem : List RegDesc := [
  ⟨"MEM_CTRL", 0x40020000, [], .sys, .aon, 6,
   [⟨23, 16, .rwt, .val 0x1⟩, ⟨15, 8, .rwt, .val 0x10⟩, ⟨1, 1, .rwt, .val 0x0⟩, ⟨0, 0, .rwt, .val 0x1⟩]⟩,
  ⟨"MEM_STS", 0x40020001, [], .sys, .aon, 6,
   [⟨6, 6, .w1c, .val 0x0⟩, ⟨5, 5, .w1c, .val 0x0⟩, ⟨4, 4, .w1c, .val 0x0⟩, ⟨3, 3, .w1c, .val 0x0⟩, ⟨2, 2, .w1c, .val 0x0⟩, ⟨1, 1, .w1c, .val 0x0⟩, ⟨0, 0, .w1c, .val 0x0⟩]⟩,
  ⟨"MEM_RESVCTL", 0x40020002, [], .sys, .aon, 6,
   [⟨22, 17, .ro, .val 0x0⟩, ⟨16, 16, .ro, .val 0x0⟩, ⟨15, 12, .ro, .val 0x0⟩, ⟨11, 10, .ro, .val 0x0⟩, ⟨4, 2, .ro, .val 0x0⟩, ⟨1, 1, .ro, .val 0x0⟩, ⟨0, 0, .w1s, .val 0x0⟩]⟩,
  ⟨"MEM_LOGPTR", 0x40020003, [], .sys, .aon, 6,
   [⟨27, 20, .rc, .val 0x0⟩, ⟨19, 12, .rc, .val 0x0⟩, ⟨6, 4, .ro, .val 0x0⟩, ⟨2, 0, .ro, .val 0x0⟩]⟩,
  ⟨"MEM_ARB", 0x40020010, [(28, 1)], .sys, .aon, 6,
   [⟨47, 40, .rc, .val 0x0⟩, ⟨39, 24, .rc, .val 0x0⟩, ⟨3, 3, .ro, .plane⟩, ⟨2, 0, .rwt, .val 0x0⟩]⟩,
  ⟨"MEM_RESV", 0x40020040, [(64, 1)], .sys, .aon, 6,
   [⟨47, 47, .rwt, .val 0x0⟩, ⟨23, 19, .rwt, .val 0x0⟩, ⟨15, 12, .rwt, .val 0x0⟩, ⟨6, 0, .rwt, .val 0x0⟩]⟩,
  ⟨"MEM_RESVACT", 0x40020080, [(64, 1)], .sys, .aon, 6,
   [⟨47, 47, .ro, .val 0x0⟩, ⟨46, 46, .ro, .val 0x0⟩, ⟨23, 19, .ro, .val 0x0⟩, ⟨15, 12, .ro, .val 0x0⟩, ⟨6, 0, .ro, .val 0x0⟩]⟩,
  ⟨"MEM_BANK", 0x40020100, [(16, 4), (4, 1)], .sys, .aon, 6,
   [⟨47, 46, .ro, .val 0x0⟩, ⟨45, 45, .ro, .val 0x0⟩, ⟨44, 38, .ro, .val 0x0⟩, ⟨37, 31, .ro, .val 0x0⟩, ⟨30, 24, .ro, .val 0x0⟩, ⟨23, 17, .ro, .val 0x0⟩, ⟨16, 9, .rc, .val 0x0⟩, ⟨8, 0, .rc, .val 0x0⟩]⟩,
  ⟨"MEM_RETIRE", 0x40020140, [(16, 1)], .held, .aon, 6,
   [⟨3, 0, .rwt, .val 0x0⟩]⟩,
  ⟨"MEM_SPECC", 0x40020160, [(24, 1)], .sys, .aon, 6,
   [⟨16, 9, .rc, .val 0x0⟩, ⟨8, 0, .rc, .val 0x0⟩]⟩,
  ⟨"MEM_ECCLOG", 0x40020200, [(8, 2), (2, 1)], .sys, .aon, 6,
   [⟨47, 0, .ro, .val 0x0⟩]⟩,
  ⟨"MEM_TBLOG", 0x40020220, [(8, 2), (2, 1)], .sys, .aon, 6,
   [⟨47, 0, .ro, .val 0x0⟩]⟩]

/-- The registers of SEM. -/
def regTableSem : List RegDesc := [
  ⟨"SEM_STS", 0x40030000, [], .wake, .pd 50, 4,
   [⟨4, 4, .w1c, .val 0x0⟩, ⟨3, 3, .w1c, .val 0x0⟩, ⟨2, 2, .w1c, .val 0x0⟩, ⟨1, 1, .w1c, .val 0x0⟩, ⟨0, 0, .w1c, .val 0x0⟩]⟩,
  ⟨"SEM_SWEV", 0x40030001, [], .wake, .pd 50, 4,
   [⟨31, 0, .wo, .val 0x0⟩]⟩,
  ⟨"SEM_TGLOCK", 0x40030002, [], .held, .aon, 4,
   [⟨15, 0, .w1s, .val 0x0⟩]⟩,
  ⟨"SEM_CHCFG", 0x40030100, [(256, 1)], .wake, .pd 50, 4,
   [⟨47, 47, .rwt, .val 0x0⟩, ⟨46, 45, .rwt, .val 0x0⟩, ⟨44, 41, .rwt, .val 0xf⟩, ⟨25, 16, .rwt, .val 0x0⟩, ⟨7, 0, .rwt, .val 0x0⟩]⟩,
  ⟨"SEM_CHSTS", 0x40030200, [(256, 1)], .wake, .pd 50, 4,
   [⟨31, 16, .rc, .val 0x0⟩, ⟨15, 8, .rc, .val 0x0⟩, ⟨7, 0, .rc, .val 0x0⟩]⟩,
  ⟨"SEM_CONS", 0x40030300, [(256, 1)], .wake, .pd 50, 4,
   [⟨8, 8, .ro, .val 0x0⟩, ⟨7, 0, .ro, .val 0x0⟩]⟩,
  ⟨"SEM_TGEN", 0x40030400, [(16, 4), (2, 1)], .held, .aon, 4,
   [⟨31, 0, .rwt, .val 0x0⟩]⟩,
  ⟨"SEM_TGPR", 0x40030402, [(16, 4)], .held, .aon, 4,
   [⟨16, 16, .rwt, .val 0x0⟩, ⟨15, 0, .rwt, .val 0x0⟩]⟩]

/-- The registers of CVP. -/
def regTableCvp : List RegDesc := [
  ⟨"CVP_CTRL", 0x40040000, [], .wake, .aon, 1,
   [⟨19, 16, .rw, .lead⟩, ⟨14, 0, .rw, .val 0x400⟩]⟩,
  ⟨"CVP_LANEEN", 0x40040001, [], .wake, .aon, 1,
   [⟨31, 16, .rwt, .val 0x0⟩, ⟨15, 0, .rw, .val 0x0⟩]⟩,
  ⟨"CVP_EVSTS", 0x40040002, [], .wake, .aon, 1,
   [⟨10, 10, .w1c, .val 0x0⟩, ⟨9, 9, .w1c, .val 0x0⟩, ⟨8, 8, .w1c, .val 0x0⟩, ⟨7, 7, .w1c, .val 0x0⟩, ⟨6, 6, .w1c, .val 0x0⟩, ⟨5, 5, .w1c, .val 0x0⟩, ⟨4, 4, .w1c, .val 0x0⟩, ⟨3, 3, .w1c, .val 0x0⟩, ⟨2, 2, .w1c, .val 0x0⟩, ⟨1, 1, .w1c, .val 0x0⟩, ⟨0, 0, .w1c, .val 0x0⟩]⟩,
  ⟨"CVP_EVCNT", 0x40040003, [], .wake, .aon, 1,
   [⟨47, 36, .rc, .val 0x0⟩, ⟨35, 24, .rc, .val 0x0⟩, ⟨23, 12, .rc, .val 0x0⟩, ⟨11, 0, .rc, .val 0x0⟩]⟩,
  ⟨"CVP_DRIVE", 0x40040004, [], .sys, .aon, 1,
   [⟨3, 3, .rwt, .val 0x0⟩, ⟨2, 2, .ro, .val 0x0⟩, ⟨1, 1, .ro, .val 0x0⟩, ⟨0, 0, .ro, .val 0x0⟩]⟩,
  ⟨"CVP_LATEREC", 0x40040005, [], .wake, .pd 52, 1,
   [⟨36, 32, .ro, .val 0x0⟩, ⟨31, 16, .ro, .val 0x0⟩, ⟨15, 0, .ro, .val 0x0⟩]⟩,
  ⟨"CVP_LNSTS", 0x40040006, [], .wake, .aon, 1,
   [⟨31, 16, .w1c, .val 0x0⟩, ⟨15, 0, .w1c, .val 0x0⟩]⟩,
  ⟨"CVP_TRIPPOL0", 0x40040008, [], .held, .aon, 1,
   [⟨31, 0, .rwt, .val 0x0⟩]⟩,
  ⟨"CVP_TRIPPOL1", 0x40040009, [], .held, .aon, 1,
   [⟨31, 0, .rwt, .val 0x0⟩]⟩,
  ⟨"CVP_TRIPLIVE0", 0x4004000A, [], .held, .aon, 1,
   [⟨31, 0, .ro, .val 0x0⟩]⟩,
  ⟨"CVP_TRIPLIVE1", 0x4004000B, [], .held, .aon, 1,
   [⟨31, 0, .ro, .val 0x0⟩]⟩,
  ⟨"CVP_TRIPLAT0", 0x4004000C, [], .held, .aon, 1,
   [⟨31, 0, .w1c, .val 0x0⟩]⟩,
  ⟨"CVP_TRIPLAT1", 0x4004000D, [], .held, .aon, 1,
   [⟨31, 0, .w1c, .val 0x0⟩]⟩,
  ⟨"CVP_TRIPFLT", 0x4004000E, [], .held, .aon, 1,
   [⟨3, 0, .rwt, .val 0x0⟩]⟩,
  ⟨"CVP_TGLATCH", 0x4004000F, [], .held, .aon, 1,
   [⟨31, 16, .ro, .val 0x0⟩, ⟨15, 0, .rwt, .val 0x0⟩]⟩,
  ⟨"CVP_SWNWIN", 0x40040010, [], .wake, .pd 52, 1,
   [⟨12, 0, .rw, .val 0x1e0⟩]⟩,
  ⟨"CVP_SAFEPAT", 0x40040080, [(16, 1)], .held, .aon, 1,
   [⟨31, 0, .rwt, .val 0x0⟩]⟩,
  ⟨"CVP_SWSAFE", 0x40040090, [(8, 1)], .held, .aon, 1,
   [⟨31, 0, .rwt, .val 0x0⟩]⟩,
  ⟨"CVP_SAFESTS", 0x40040098, [(8, 1)], .held, .aon, 1,
   [⟨31, 0, .ro, .val 0xffffffff⟩]⟩,
  ⟨"CVP_APPLIED", 0x400400A0, [(16, 1)], .wake, .pd 52, 1,
   [⟨31, 0, .ro, .val 0x0⟩]⟩,
  ⟨"CVP_TGMASK", 0x40040100, [(16, 8), (8, 1)], .held, .aon, 1,
   [⟨31, 0, .rwt, .val 0x0⟩]⟩,
  ⟨"CVP_CHCFG", 0x40040200, [(256, 1)], .wake, .pd 51, 1,
   [⟨12, 12, .w1c, .val 0x0⟩, ⟨11, 11, .ro, .val 0x0⟩, ⟨10, 10, .rw, .val 0x0⟩, ⟨9, 8, .rw, .val 0x0⟩, ⟨6, 0, .rw, .val 0x0⟩]⟩,
  ⟨"CVP_CHVAL", 0x40040300, [(256, 1)], .wake, .pd 51, 1,
   [⟨47, 0, .ro, .val 0x0⟩]⟩,
  ⟨"CVP_PAIRCFG", 0x40040400, [(256, 1)], .wake, .pd 52, 1,
   [⟨9, 8, .rwt, .val 0x0⟩, ⟨6, 0, .rwt, .val 0x0⟩]⟩,
  ⟨"CVP_SWNDLY", 0x40040500, [(512, 1)], .wake, .pd 52, 1,
   [⟨47, 47, .ro, .val 0x0⟩, ⟨12, 0, .ro, .val 0x0⟩]⟩]

/-- The registers of AE. -/
def regTableAe : List RegDesc := [
  ⟨"AE_CTRL", 0x40050000, [(8, 4096)], .wake, .ae, 2,
   [⟨0, 0, .rwt, .val 0x0⟩]⟩,
  ⟨"AE_FORMERR", 0x40050001, [(8, 4096)], .wake, .ae, 2,
   [⟨15, 12, .ro, .val 0x0⟩, ⟨9, 4, .ro, .val 0x0⟩, ⟨3, 0, .ro, .val 0x0⟩]⟩,
  ⟨"AE_SLOTCTL", 0x40050010, [(8, 4096), (16, 1)], .wake, .ae, 2,
   [⟨15, 8, .rw, .val 0x0⟩, ⟨4, 4, .w1s, .val 0x0⟩, ⟨3, 3, .ro, .val 0x0⟩, ⟨2, 2, .rwt, .val 0x0⟩, ⟨1, 1, .w1s, .val 0x0⟩, ⟨0, 0, .rwt, .val 0x0⟩]⟩,
  ⟨"AE_SLOTSRC", 0x40050020, [(8, 4096), (16, 1)], .wake, .ae, 2,
   [⟨47, 46, .rwt, .val 0x0⟩, ⟨45, 38, .rwt, .val 0x0⟩, ⟨37, 35, .rwt, .val 0x0⟩, ⟨31, 24, .rwt, .val 0x0⟩, ⟨23, 16, .rwt, .val 0x0⟩, ⟨15, 8, .rwt, .val 0x0⟩, ⟨7, 0, .rwt, .val 0x0⟩]⟩,
  ⟨"AE_SLOTBASE", 0x40050030, [(8, 4096), (16, 1)], .wake, .ae, 2,
   [⟨38, 26, .rwt, .val 0x0⟩, ⟨25, 13, .rwt, .val 0x0⟩, ⟨12, 0, .rwt, .val 0x0⟩]⟩,
  ⟨"AE_SLOTPER", 0x40050040, [(8, 4096), (16, 1)], .wake, .ae, 2,
   [⟨47, 47, .rwt, .val 0x0⟩, ⟨46, 24, .rwt, .val 0x0⟩, ⟨22, 0, .rwt, .val 0x0⟩]⟩,
  ⟨"AE_SLOTSTS", 0x40050050, [(8, 4096), (16, 1)], .wake, .ae, 2,
   [⟨26, 20, .rw, .val 0x0⟩, ⟨10, 8, .ro, .val 0x0⟩, ⟨6, 6, .w1c, .val 0x0⟩, ⟨5, 5, .w1c, .val 0x0⟩, ⟨4, 4, .w1c, .val 0x0⟩, ⟨3, 3, .w1c, .val 0x0⟩, ⟨2, 2, .w1c, .val 0x0⟩, ⟨1, 1, .w1c, .val 0x0⟩, ⟨0, 0, .w1c, .val 0x0⟩]⟩,
  ⟨"AE_SLOTSEQ", 0x40050060, [(8, 4096), (16, 1)], .wake, .ae, 2,
   [⟨46, 0, .ro, .val 0x0⟩]⟩,
  ⟨"AE_SLOTLAT", 0x40050070, [(8, 4096), (16, 1)], .wake, .ae, 2,
   [⟨31, 16, .rc, .val 0x0⟩, ⟨15, 0, .ro, .val 0x0⟩]⟩,
  ⟨"AE_REFSRC", 0x40050080, [(8, 4096), (16, 4), (4, 1)], .wake, .ae, 2,
   [⟨46, 45, .rwt, .val 0x0⟩, ⟨24, 0, .rwt, .val 0x0⟩]⟩,
  ⟨"AE_TMPL", 0x40050100, [(8, 4096), (16, 8), (8, 1)], .wake, .ae, 2,
   [⟨47, 47, .rwt, .val 0x0⟩, ⟨46, 45, .rwt, .val 0x0⟩, ⟨44, 42, .rwt, .val 0x0⟩, ⟨41, 40, .rwt, .val 0x0⟩, ⟨39, 31, .rwt, .val 0x0⟩, ⟨30, 23, .rwt, .val 0x0⟩, ⟨22, 0, .rwt, .val 0x0⟩]⟩,
  ⟨"AE_CQSTS", 0x40050002, [(8, 4096)], .wake, .ae, 2,
   [⟨15, 8, .rc, .val 0x0⟩, ⟨4, 0, .ro, .val 0x0⟩]⟩,
  ⟨"AE_HOCTL", 0x400500C0, [(8, 4096), (16, 1)], .wake, .ae, 2,
   [⟨23, 23, .rwt, .val 0x0⟩, ⟨22, 22, .rwt, .val 0x0⟩, ⟨21, 21, .rwt, .val 0x0⟩, ⟨20, 19, .rwt, .val 0x0⟩, ⟨18, 12, .rwt, .val 0x0⟩, ⟨0, 0, .w1s, .val 0x0⟩]⟩,
  ⟨"AE_HOCFG", 0x400500D0, [(8, 4096), (16, 1)], .wake, .ae, 2,
   [⟨47, 40, .rwt, .hon⟩, ⟨39, 37, .rwt, .val 0x0⟩, ⟨34, 30, .rwt, .val 0x0⟩, ⟨29, 25, .rwt, .val 0x0⟩, ⟨24, 20, .rwt, .val 0x0⟩, ⟨17, 12, .rwt, .val 0x0⟩, ⟨11, 6, .rwt, .val 0x0⟩]⟩,
  ⟨"AE_HOMAN", 0x400500E0, [(8, 4096), (16, 1)], .wake, .ae, 2,
   [⟨47, 0, .rw, .val 0x0⟩]⟩,
  ⟨"AE_HORES", 0x400500F0, [(8, 4096), (16, 1)], .wake, .ae, 2,
   [⟨47, 0, .ro, .val 0x0⟩]⟩,
  ⟨"AE_HOSTS", 0x40050180, [(8, 4096), (16, 1)], .wake, .ae, 2,
   [⟨15, 8, .ro, .val 0x0⟩, ⟨6, 6, .ro, .val 0x0⟩, ⟨5, 5, .ro, .val 0x0⟩, ⟨4, 4, .w1c, .val 0x0⟩, ⟨3, 3, .w1c, .val 0x0⟩, ⟨2, 2, .w1c, .val 0x0⟩, ⟨1, 1, .w1c, .val 0x0⟩]⟩,
  ⟨"AE_ADTCFG", 0x40050190, [(8, 4096), (16, 1)], .wake, .ae, 2,
   [⟨47, 40, .rc, .val 0x0⟩, ⟨37, 37, .w1c, .val 0x0⟩, ⟨36, 36, .w1c, .val 0x0⟩, ⟨32, 32, .rwt, .val 0x0⟩, ⟨31, 24, .rwt, .val 0x0⟩, ⟨15, 8, .rwt, .val 0x1⟩, ⟨7, 0, .rwt, .val 0x2⟩]⟩,
  ⟨"AE_ADTWIN", 0x400501A0, [(8, 4096), (16, 1)], .wake, .ae, 2,
   [⟨44, 36, .ro, .adtFloor⟩, ⟨35, 27, .ro, .val 0x1ff⟩, ⟨26, 18, .ro, .adtFloor⟩, ⟨17, 9, .rwt, .val 0x1ff⟩, ⟨8, 0, .rwt, .val 0x0⟩]⟩,
  ⟨"AE_ADTVAL", 0x400501B0, [(8, 4096), (16, 8), (8, 1)], .wake, .ae, 2,
   [⟨8, 0, .ro, .val 0x0⟩]⟩,
  ⟨"AE_SLOTPHS", 0x40050230, [(8, 4096), (16, 1)], .wake, .ae, 2,
   [⟨10, 10, .ro, .val 0x0⟩, ⟨9, 9, .rwt, .val 0x0⟩, ⟨8, 7, .rwt, .val 0x0⟩, ⟨5, 0, .rwt, .val 0x0⟩]⟩,
  ⟨"AE_PHSCTL", 0x40050240, [(4, 8)], .wake, .pd 18, 2,
   [⟨21, 21, .rwt, .val 0x0⟩, ⟨20, 20, .rwt, .val 0x0⟩, ⟨19, 16, .rwt, .val 0x0⟩, ⟨15, 0, .rwt, .val 0x10⟩]⟩,
  ⟨"AE_PHSSRC", 0x40050241, [(4, 8)], .wake, .pd 18, 2,
   [⟨46, 45, .rwt, .val 0x0⟩, ⟨24, 0, .rwt, .val 0x0⟩]⟩,
  ⟨"AE_PHSCAP", 0x40050242, [(4, 8)], .wake, .pd 18, 2,
   [⟨47, 0, .rwt, .val 0x0⟩]⟩,
  ⟨"AE_PHSPRE", 0x40050243, [(4, 8)], .wake, .pd 18, 2,
   [⟨47, 0, .rwt, .val 0x0⟩]⟩,
  ⟨"AE_PHSWIN", 0x40050244, [(4, 8)], .wake, .pd 18, 2,
   [⟨34, 28, .ro, .phsFloor⟩, ⟨27, 21, .ro, .val 0x7f⟩, ⟨20, 14, .ro, .phsFloor⟩, ⟨13, 7, .rwt, .val 0x7f⟩, ⟨6, 0, .rwt, .val 0x0⟩]⟩,
  ⟨"AE_PHSSTS", 0x40050245, [(4, 8)], .wake, .pd 18, 2,
   [⟨47, 40, .rc, .val 0x0⟩, ⟨17, 17, .w1c, .val 0x0⟩, ⟨16, 16, .w1c, .val 0x0⟩, ⟨15, 8, .ro, .val 0x0⟩, ⟨7, 0, .ro, .val 0x0⟩]⟩]

/-- The registers of SSP. -/
def regTableSsp : List RegDesc := [
  ⟨"SSP_CTRL", 0x40060000, [], .wake, .pd 26, 3,
   [⟨12, 8, .ro, .val 0x0⟩, ⟨7, 4, .ro, .val 0x0⟩, ⟨0, 0, .rwt, .val 0x0⟩]⟩,
  ⟨"SSP_CCFG", 0x40060400, [(8, 512)], .wake, .pd 26, 3,
   [⟨47, 47, .rwt, .val 0x0⟩, ⟨46, 46, .rwt, .val 0x0⟩, ⟨45, 45, .w1s, .val 0x0⟩, ⟨44, 44, .w1s, .val 0x0⟩, ⟨43, 40, .rwt, .val 0x0⟩, ⟨39, 36, .rwt, .val 0x0⟩, ⟨35, 29, .rwt, .val 0x0⟩, ⟨28, 25, .rwt, .val 0x0⟩, ⟨24, 22, .rwt, .val 0x0⟩, ⟨21, 14, .rw, .val 0x0⟩]⟩,
  ⟨"SSP_CPER", 0x40060401, [(8, 512)], .wake, .pd 26, 3,
   [⟨46, 24, .rwt, .val 0x0⟩, ⟨22, 0, .rwt, .val 0x0⟩]⟩,
  ⟨"SSP_CLEAD", 0x40060402, [(8, 512)], .wake, .pd 26, 3,
   [⟨23, 8, .rwt, .val 0xc8⟩, ⟨7, 0, .rwt, .val 0x8⟩]⟩,
  ⟨"SSP_CSTS", 0x40060403, [(8, 512)], .wake, .pd 26, 3,
   [⟨24, 16, .rw, .val 0x0⟩, ⟨8, 8, .w1c, .val 0x0⟩, ⟨7, 7, .w1c, .val 0x0⟩, ⟨6, 6, .w1c, .val 0x0⟩, ⟨5, 5, .w1c, .val 0x0⟩, ⟨4, 4, .w1c, .val 0x0⟩, ⟨3, 3, .w1c, .val 0x0⟩, ⟨2, 2, .w1c, .val 0x0⟩, ⟨1, 1, .w1c, .val 0x0⟩, ⟨0, 0, .w1c, .val 0x0⟩]⟩,
  ⟨"SSP_CMASK", 0x40060404, [(8, 512), (2, 1)], .wake, .pd 26, 3,
   [⟨31, 0, .rwt, .val 0x0⟩]⟩,
  ⟨"SSP_CRES", 0x40060406, [(8, 512)], .wake, .pd 26, 3,
   [⟨47, 47, .ro, .val 0x0⟩, ⟨46, 41, .ro, .val 0x0⟩, ⟨39, 32, .ro, .val 0x0⟩, ⟨20, 16, .ro, .val 0x0⟩, ⟨15, 0, .ro, .val 0x0⟩]⟩,
  ⟨"SSP_CCOST", 0x40060407, [(8, 512), (2, 1)], .wake, .pd 26, 3,
   [⟨47, 0, .ro, .val 0x0⟩]⟩,
  ⟨"SSP_CLAT", 0x40060409, [(8, 512)], .wake, .pd 26, 3,
   [⟨31, 16, .rc, .val 0x0⟩, ⟨15, 0, .ro, .val 0x0⟩]⟩,
  ⟨"SSP_CCNT", 0x4006040A, [(8, 512)], .wake, .pd 26, 3,
   [⟨47, 36, .rc, .val 0x0⟩, ⟨35, 24, .rc, .val 0x0⟩, ⟨23, 12, .rc, .val 0x0⟩, ⟨11, 0, .rc, .val 0x0⟩]⟩,
  ⟨"SSP_PTMPL", 0x40060410, [(8, 512), (8, 1)], .wake, .pd 26, 3,
   [⟨39, 31, .rwt, .val 0x0⟩, ⟨30, 23, .rwt, .val 0x0⟩, ⟨22, 0, .rwt, .val 0x0⟩]⟩,
  ⟨"SSP_REFSRC", 0x40060420, [(8, 512), (8, 1)], .wake, .pd 26, 3,
   [⟨46, 45, .rwt, .val 0x0⟩, ⟨24, 0, .rwt, .val 0x0⟩]⟩,
  ⟨"SSP_TIDX", 0x400604C0, [(8, 512), (32, 1)], .wake, .pd 26, 3,
   [⟨9, 9, .rwt, .val 0x0⟩, ⟨8, 6, .rwt, .val 0x0⟩, ⟨5, 3, .rwt, .val 0x0⟩, ⟨2, 0, .rwt, .val 0x0⟩]⟩,
  ⟨"SSP_CLIST", 0x40060500, [(8, 512), (64, 1)], .wake, .pd 26, 3,
   [⟨7, 0, .rwt, .val 0x0⟩]⟩,
  ⟨"SSP_LAMBDA", 0x4006040B, [(8, 512)], .wake, .pd 26, 3,
   [⟨47, 0, .rwt, .val 0x0⟩]⟩,
  ⟨"SSP_Q", 0x40060418, [(8, 512), (8, 1)], .wake, .pd 26, 3,
   [⟨47, 0, .rwt, .val 0x0⟩]⟩,
  ⟨"SSP_E", 0x40060428, [(8, 512), (8, 1)], .wake, .pd 26, 3,
   [⟨47, 0, .rwt, .val 0x0⟩]⟩,
  ⟨"SSP_A", 0x40060440, [(8, 512), (8, 8), (8, 1)], .wake, .pd 26, 3,
   [⟨47, 0, .rwt, .val 0x0⟩]⟩,
  ⟨"SSP_F", 0x40060480, [(8, 512), (8, 8), (8, 1)], .wake, .pd 26, 3,
   [⟨47, 0, .rwt, .val 0x0⟩]⟩,
  ⟨"SSP_TCOEF", 0x400604E0, [(8, 512), (32, 1)], .wake, .pd 26, 3,
   [⟨47, 0, .rwt, .val 0x0⟩]⟩]

/-- The registers of JNE. -/
def regTableJne : List RegDesc := [
  ⟨"JNE_CTRL", 0x40070000, [], .wake, .pd 44, 7,
   [⟨2, 2, .rwt, .val 0x0⟩, ⟨1, 1, .rwt, .val 0x0⟩, ⟨0, 0, .rwt, .val 0x0⟩]⟩,
  ⟨"JNE_STS", 0x40070001, [], .wake, .pd 44, 7,
   [⟨15, 13, .ro, .val 0x0⟩, ⟨12, 11, .ro, .val 0x0⟩, ⟨10, 10, .ro, .val 0x0⟩, ⟨9, 9, .w1c, .val 0x0⟩, ⟨8, 8, .w1c, .val 0x0⟩, ⟨7, 7, .w1c, .val 0x0⟩, ⟨6, 6, .w1c, .val 0x0⟩, ⟨5, 5, .w1c, .val 0x0⟩, ⟨4, 4, .w1c, .val 0x0⟩, ⟨3, 3, .w1c, .val 0x0⟩, ⟨2, 2, .w1c, .val 0x0⟩, ⟨1, 1, .ro, .val 0x1⟩, ⟨0, 0, .w1c, .val 0x0⟩]⟩,
  ⟨"JNE_CMD", 0x40070002, [], .wake, .pd 44, 7,
   [⟨19, 4, .wo, .val 0x0⟩, ⟨3, 0, .rwt, .val 0x0⟩]⟩,
  ⟨"JNE_HEAD", 0x40070003, [], .wake, .pd 44, 7,
   [⟨6, 0, .rwt, .val 0x0⟩]⟩,
  ⟨"JNE_HLOG", 0x40070004, [], .wake, .pd 44, 7,
   [⟨29, 16, .rwt, .val 0x0⟩, ⟨13, 0, .rwt, .val 0x0⟩]⟩,
  ⟨"JNE_HOLDUP", 0x40070005, [], .held, .aon, 7,
   [⟨47, 32, .rwt, .val 0x0⟩, ⟨31, 16, .rwt, .val 0x0⟩, ⟨15, 0, .rwt, .val 0x0⟩]⟩,
  ⟨"JNE_BUDGET", 0x40070006, [], .wake, .pd 44, 7,
   [⟨39, 24, .rc, .val 0x0⟩, ⟨15, 0, .ro, .val 0x0⟩]⟩,
  ⟨"JNE_U", 0x40070007, [], .wake, .pd 44, 7,
   [⟨15, 0, .ro, .val 0x0⟩]⟩,
  ⟨"JNE_NEXTCSN", 0x40070008, [], .wake, .pd 44, 7,
   [⟨47, 0, .ro, .val 0x0⟩]⟩,
  ⟨"JNE_ACKCSN", 0x40070009, [], .wake, .pd 44, 7,
   [⟨47, 0, .ro, .val 0x0⟩]⟩,
  ⟨"JNE_PERCSN", 0x4007000A, [], .wake, .pd 44, 7,
   [⟨47, 0, .ro, .val 0x0⟩]⟩,
  ⟨"JNE_CNT", 0x4007000B, [], .wake, .pd 44, 7,
   [⟨47, 36, .rc, .val 0x0⟩, ⟨35, 24, .rc, .val 0x0⟩, ⟨23, 12, .rc, .val 0x0⟩, ⟨11, 0, .rc, .val 0x0⟩]⟩,
  ⟨"JNE_MBCTL", 0x40070100, [(12, 4)], .wake, .pd 44, 7,
   [⟨47, 47, .rwt, .val 0x0⟩, ⟨17, 10, .rw, .val 0x0⟩, ⟨9, 0, .rw, .val 0x0⟩]⟩,
  ⟨"JNE_MBADDR", 0x40070101, [(12, 4)], .wake, .pd 44, 7,
   [⟨39, 0, .rw, .val 0x0⟩]⟩,
  ⟨"JNE_MBSTS", 0x40070102, [(12, 4)], .wake, .pd 44, 7,
   [⟨47, 47, .ro, .val 0x0⟩, ⟨3, 0, .ro, .val 0x0⟩]⟩,
  ⟨"JNE_MBCSN", 0x40070103, [(12, 4)], .wake, .pd 44, 7,
   [⟨47, 0, .ro, .val 0x0⟩]⟩,
  ⟨"JNE_MQCFG", 0x40070200, [(16, 8)], .wake, .pd 44, 7,
   [⟨47, 47, .rwt, .val 0x0⟩, ⟨46, 43, .rwt, .val 0x0⟩, ⟨39, 32, .ro, .val 0x0⟩, ⟨31, 16, .ro, .val 0x0⟩, ⟨15, 0, .ro, .val 0x0⟩]⟩,
  ⟨"JNE_MQSQ", 0x40070201, [(16, 8)], .wake, .pd 44, 7,
   [⟨39, 0, .rwt, .val 0x0⟩]⟩,
  ⟨"JNE_MQCQ", 0x40070202, [(16, 8)], .wake, .pd 44, 7,
   [⟨39, 0, .rwt, .val 0x0⟩]⟩,
  ⟨"JNE_MQDB", 0x40070203, [(16, 8)], .wake, .pd 44, 7,
   [⟨39, 0, .rwt, .val 0x0⟩]⟩,
  ⟨"JNE_MQHEAD", 0x40070204, [(16, 8)], .wake, .pd 44, 7,
   []⟩,
  ⟨"JNE_DRY", 0x40070010, [], .wake, .pd 44, 7,
   [⟨47, 32, .rwt, .val 0x3e8⟩, ⟨31, 24, .rwt, .val 0x4⟩, ⟨22, 16, .rwt, .val 0x8⟩, ⟨1, 1, .rwt, .val 0x1⟩, ⟨0, 0, .rwt, .val 0x0⟩]⟩,
  ⟨"JNE_DRYSTS", 0x40070011, [], .wake, .pd 44, 7,
   [⟨4, 4, .w1c, .val 0x0⟩, ⟨3, 3, .w1c, .val 0x0⟩, ⟨2, 2, .w1c, .val 0x0⟩, ⟨1, 1, .ro, .val 0x0⟩, ⟨0, 0, .w1c, .val 0x0⟩]⟩,
  ⟨"JNE_APPCSN", 0x40070012, [], .wake, .pd 44, 7,
   [⟨47, 0, .ro, .val 0x0⟩]⟩,
  ⟨"JNE_SBGEN", 0x40070013, [], .wake, .pd 44, 7,
   [⟨47, 0, .ro, .val 0x0⟩]⟩,
  ⟨"JNE_RECSTS", 0x40070014, [], .wake, .pd 44, 7,
   [⟨47, 47, .ro, .val 0x0⟩, ⟨46, 44, .ro, .val 0x0⟩, ⟨31, 0, .ro, .val 0x0⟩]⟩,
  ⟨"JNE_DRYBUF", 0x40070015, [], .wake, .pd 44, 7,
   [⟨39, 0, .rwt, .val 0x0⟩]⟩,
  ⟨"JNE_SEGCMD", 0x40070016, [], .wake, .pd 44, 7,
   [⟨47, 46, .rwt, .val 0x0⟩, ⟨45, 44, .ro, .val 0x0⟩, ⟨43, 43, .ro, .val 0x0⟩, ⟨35, 0, .rw, .val 0x0⟩]⟩,
  ⟨"JNE_PLCCFG", 0x40070018, [], .wake, .pd 44, 7,
   [⟨47, 40, .rwt, .val 0x5a⟩, ⟨39, 24, .rwt, .val 0xe10⟩, ⟨23, 18, .rwt, .val 0x20⟩, ⟨17, 12, .rwt, .val 0x8⟩, ⟨0, 0, .rwt, .val 0x0⟩]⟩,
  ⟨"JNE_PLCWIN", 0x40070019, [], .wake, .pd 44, 7,
   [⟨24, 20, .ro, .plcFloor⟩, ⟨19, 15, .ro, .val 0x10⟩, ⟨14, 10, .ro, .plcFloor⟩, ⟨9, 5, .rwt, .val 0x10⟩, ⟨4, 0, .rwt, .val 0x0⟩]⟩,
  ⟨"JNE_PLCSTS", 0x4007001A, [], .wake, .pd 44, 7,
   [⟨47, 40, .rc, .val 0x0⟩, ⟨17, 17, .w1c, .val 0x0⟩, ⟨16, 16, .w1c, .val 0x0⟩, ⟨12, 8, .ro, .val 0x0⟩, ⟨4, 0, .ro, .val 0x0⟩]⟩,
  ⟨"JNE_MWEAR", 0x40070300, [(16, 1)], .wake, .pd 44, 7,
   [⟨47, 40, .ro, .val 0x0⟩, ⟨39, 32, .ro, .val 0x0⟩, ⟨31, 31, .w1c, .val 0x0⟩, ⟨20, 0, .ro, .val 0x0⟩]⟩,
  ⟨"JNE_MSLOT", 0x40070310, [(16, 1)], .wake, .pd 44, 7,
   [⟨39, 20, .ro, .val 0x0⟩, ⟨19, 0, .ro, .val 0x0⟩]⟩,
  ⟨"JNE_MLIVE", 0x40070320, [(16, 1)], .wake, .pd 44, 7,
   [⟨39, 20, .ro, .val 0x0⟩, ⟨19, 0, .ro, .val 0x0⟩]⟩]

/-- The registers of PNE. -/
def regTablePne : List RegDesc := [
  ⟨"PNE_CTRL", 0x40080000, [], .wake, .pd 45, 8,
   [⟨47, 32, .rwt, .val 0x1f4⟩, ⟨31, 24, .rwt, .val 0x8⟩, ⟨19, 16, .rwt, .val 0x3⟩, ⟨15, 0, .rwt, .val 0x64⟩]⟩,
  ⟨"PNE_STS", 0x40080001, [], .wake, .pd 45, 8,
   [⟨15, 5, .ro, .val 0x0⟩, ⟨4, 4, .ro, .val 0x0⟩, ⟨3, 3, .w1c, .val 0x0⟩, ⟨2, 2, .w1c, .val 0x0⟩, ⟨1, 1, .w1c, .val 0x0⟩, ⟨0, 0, .w1c, .val 0x0⟩]⟩,
  ⟨"PNE_CCFG", 0x40080002, [], .wake, .pd 45, 8,
   [⟨8, 8, .ro, .val 0x0⟩, ⟨7, 7, .rwt, .val 0x0⟩, ⟨5, 4, .rwt, .val 0x0⟩, ⟨3, 0, .rwt, .val 0x0⟩]⟩,
  ⟨"PNE_IMGBASE", 0x40080003, [], .wake, .pd 45, 8,
   [⟨39, 26, .rwt, .val 0x0⟩]⟩,
  ⟨"PNE_CNT", 0x40080004, [], .wake, .pd 45, 8,
   [⟨47, 36, .rc, .val 0x0⟩, ⟨35, 24, .rc, .val 0x0⟩, ⟨12, 0, .ro, .val 0x0⟩]⟩,
  ⟨"PNE_MBPNT", 0x40080100, [(12, 8)], .wake, .pd 45, 8,
   [⟨47, 47, .w1s, .val 0x0⟩, ⟨46, 44, .rwt, .val 0x0⟩, ⟨24, 0, .rw, .val 0x0⟩]⟩,
  ⟨"PNE_MBVAL", 0x40080101, [(12, 8)], .wake, .pd 45, 8,
   [⟨47, 0, .rw, .val 0x0⟩]⟩,
  ⟨"PNE_MBAUX", 0x40080102, [(12, 8)], .wake, .pd 45, 8,
   [⟨47, 0, .rw, .val 0x0⟩]⟩,
  ⟨"PNE_MBSTS", 0x40080103, [(12, 8)], .wake, .pd 45, 8,
   [⟨47, 47, .ro, .val 0x0⟩, ⟨3, 0, .ro, .val 0x0⟩]⟩,
  ⟨"PNE_MBCSN", 0x40080104, [(12, 8)], .wake, .pd 45, 8,
   [⟨47, 0, .ro, .val 0x0⟩]⟩,
  ⟨"PNE_USTATE", 0x40081000, [(1024, 4)], .wake, .pd 45, 8,
   [⟨47, 46, .ro, .unit0⟩, ⟨45, 30, .ro, .val 0x0⟩, ⟨29, 27, .ro, .unit0⟩, ⟨26, 24, .ro, .val 0x0⟩, ⟨23, 21, .ro, .val 0x0⟩, ⟨20, 5, .ro, .val 0x0⟩]⟩,
  ⟨"PNE_UDSER", 0x40081001, [(1024, 4)], .wake, .pd 45, 8,
   [⟨39, 0, .ro, .val 0x0⟩]⟩,
  ⟨"PNE_UOSER", 0x40081002, [(1024, 4)], .wake, .pd 45, 8,
   [⟨39, 0, .ro, .val 0x0⟩]⟩,
  ⟨"PNE_UASER", 0x40081003, [(1024, 4)], .wake, .pd 45, 8,
   [⟨39, 0, .ro, .val 0x0⟩]⟩]

/-- The registers of WAC. -/
def regTableWac : List RegDesc := [
  ⟨"WAC_CTRL", 0x40090000, [], .wake, .pd 46, 9,
   [⟨47, 47, .rwt, .val 0x0⟩, ⟨46, 32, .rwt, .val 0x0⟩, ⟨31, 16, .rwt, .val 0x3e8⟩, ⟨15, 0, .rwt, .val 0x3c⟩]⟩,
  ⟨"WAC_BASE", 0x40090001, [], .wake, .pd 46, 9,
   [⟨39, 20, .rwt, .val 0x0⟩, ⟨19, 0, .rwt, .val 0x0⟩]⟩,
  ⟨"WAC_STS", 0x40090002, [], .wake, .pd 46, 9,
   [⟨9, 9, .ro, .val 0x0⟩, ⟨8, 8, .ro, .val 0x0⟩, ⟨7, 7, .ro, .val 0x0⟩, ⟨6, 6, .w1c, .val 0x0⟩, ⟨5, 5, .w1c, .val 0x0⟩, ⟨4, 4, .w1c, .val 0x0⟩, ⟨3, 3, .w1c, .val 0x0⟩, ⟨2, 2, .w1c, .val 0x0⟩, ⟨1, 1, .w1c, .val 0x0⟩, ⟨0, 0, .w1c, .val 0x0⟩]⟩,
  ⟨"WAC_CMD", 0x40090003, [], .wake, .pd 46, 9,
   [⟨47, 46, .rwt, .val 0x0⟩, ⟨45, 45, .ro, .val 0x0⟩, ⟨13, 0, .rw, .val 0x0⟩]⟩,
  ⟨"WAC_TJMAX", 0x40090004, [], .wake, .pd 46, 9,
   [⟨47, 0, .rwt, .val 0x0⟩]⟩,
  ⟨"WAC_CNT", 0x40090005, [], .wake, .pd 46, 9,
   [⟨47, 36, .rc, .val 0x0⟩, ⟨35, 24, .rc, .val 0x0⟩, ⟨23, 12, .rc, .val 0x0⟩, ⟨11, 0, .rc, .val 0x0⟩]⟩,
  ⟨"WAC_LAST", 0x40090006, [], .wake, .pd 46, 9,
   [⟨43, 30, .ro, .val 0x0⟩, ⟨29, 0, .ro, .val 0x0⟩]⟩,
  ⟨"WAC_CKSTS", 0x40090007, [], .wake, .pd 46, 9,
   [⟨47, 24, .ro, .val 0x0⟩, ⟨23, 0, .ro, .val 0x0⟩]⟩]

/-- The registers of MLK. -/
def regTableMlk : List RegDesc := [
  ⟨"MLK_CTRL", 0x400A0000, [], .wake, .pd 47, 10,
   [⟨47, 47, .rwt, .val 0x0⟩, ⟨46, 46, .rwt, .val 0x0⟩, ⟨45, 30, .rwt, .val 0xbb8⟩, ⟨29, 26, .rwt, .val 0x8⟩]⟩,
  ⟨"MLK_ROLE", 0x400A0001, [], .wake, .pd 47, 10,
   [⟨47, 45, .ro, .val 0x0⟩, ⟨44, 42, .ro, .val 0x0⟩, ⟨41, 41, .ro, .val 0x0⟩, ⟨40, 40, .ro, .val 0x0⟩, ⟨39, 39, .ro, .val 0x0⟩, ⟨38, 38, .ro, .val 0x0⟩, ⟨37, 30, .ro, .val 0x0⟩, ⟨29, 26, .ro, .val 0x0⟩]⟩,
  ⟨"MLK_STS", 0x400A0002, [], .wake, .pd 47, 10,
   [⟨14, 14, .w1c, .val 0x0⟩, ⟨13, 13, .w1c, .val 0x0⟩, ⟨12, 12, .w1c, .val 0x0⟩, ⟨11, 11, .w1c, .val 0x0⟩, ⟨10, 10, .w1c, .val 0x0⟩, ⟨9, 9, .w1c, .val 0x0⟩, ⟨8, 8, .w1c, .val 0x0⟩, ⟨7, 7, .ro, .val 0x0⟩, ⟨6, 6, .w1c, .val 0x0⟩, ⟨5, 5, .w1c, .val 0x0⟩, ⟨4, 4, .w1c, .val 0x0⟩, ⟨3, 3, .w1c, .val 0x0⟩, ⟨2, 2, .w1c, .val 0x0⟩, ⟨1, 1, .w1c, .val 0x0⟩, ⟨0, 0, .w1c, .val 0x0⟩]⟩,
  ⟨"MLK_PEER", 0x400A0003, [], .wake, .pd 47, 10,
   [⟨47, 0, .ro, .val 0x0⟩]⟩,
  ⟨"MLK_GEN", 0x400A0004, [], .wake, .pd 47, 10,
   [⟨47, 47, .ro, .val 0x0⟩, ⟨46, 46, .ro, .val 0x0⟩, ⟨31, 0, .ro, .val 0x0⟩]⟩,
  ⟨"MLK_BCCMD", 0x400A0005, [], .wake, .pd 47, 10,
   [⟨47, 46, .rwt, .val 0x0⟩, ⟨45, 45, .rw, .val 0x0⟩, ⟨44, 44, .ro, .val 0x0⟩, ⟨31, 0, .ro, .val 0x0⟩]⟩,
  ⟨"MLK_BCBUF", 0x400A0006, [], .wake, .pd 47, 10,
   [⟨39, 0, .rwt, .val 0x0⟩]⟩,
  ⟨"MLK_BCHALF", 0x400A0007, [], .wake, .pd 47, 10,
   [⟨39, 0, .rwt, .val 0x0⟩]⟩,
  ⟨"MLK_IBUF", 0x400A0008, [], .wake, .pd 47, 10,
   [⟨39, 0, .rwt, .val 0x0⟩]⟩,
  ⟨"MLK_JSYNC", 0x400A0009, [], .wake, .pd 47, 10,
   [⟨47, 0, .ro, .val 0x0⟩]⟩,
  ⟨"MLK_CNT", 0x400A000A, [], .wake, .pd 47, 10,
   [⟨47, 36, .rc, .val 0x0⟩, ⟨35, 24, .rc, .val 0x0⟩, ⟨23, 12, .rc, .val 0x0⟩, ⟨11, 0, .rc, .val 0x0⟩]⟩,
  ⟨"MLK_LANE", 0x400A0010, [(2, 1)], .wake, .pd 47, 10,
   [⟨23, 23, .ro, .val 0x0⟩, ⟨22, 22, .ro, .val 0x0⟩, ⟨21, 21, .w1c, .val 0x0⟩, ⟨15, 0, .rc, .val 0x0⟩]⟩,
  ⟨"MLK_SLOTSEL", 0x400A0200, [(128, 1)], .wake, .pd 47, 10,
   [⟨47, 47, .rwt, .val 0x0⟩, ⟨5, 0, .rwt, .val 0x0⟩]⟩,
  ⟨"MLK_BCTBL0", 0x400A0100, [(64, 2)], .wake, .pd 47, 10,
   [⟨47, 47, .rwt, .val 0x0⟩, ⟨46, 46, .rwt, .val 0x0⟩, ⟨45, 38, .rwt, .val 0x0⟩, ⟨15, 0, .rwt, .val 0x0⟩]⟩,
  ⟨"MLK_BCTBL1", 0x400A0101, [(64, 2)], .wake, .pd 47, 10,
   [⟨39, 0, .rwt, .val 0x0⟩]⟩]

/-- The registers of RLK. -/
def regTableRlk : List RegDesc := [
  ⟨"RLK_CTRL", 0x400B0000, [], .wake, .pd 48, 11,
   [⟨47, 47, .rwt, .val 0x0⟩, ⟨46, 46, .rwt, .val 0x0⟩, ⟨45, 38, .rwt, .val 0x10⟩, ⟨37, 34, .rwt, .val 0x3⟩, ⟨18, 0, .rwt, .val 0x1770⟩]⟩,
  ⟨"RLK_PHASE", 0x400B0001, [], .wake, .pd 48, 11,
   [⟨18, 0, .rwt, .val 0x0⟩]⟩,
  ⟨"RLK_STS", 0x400B0002, [], .wake, .pd 48, 11,
   [⟨7, 7, .ro, .val 0x0⟩, ⟨6, 6, .ro, .val 0x0⟩, ⟨5, 5, .w1c, .val 0x0⟩, ⟨4, 4, .w1c, .val 0x0⟩, ⟨3, 3, .w1c, .val 0x0⟩, ⟨2, 2, .w1c, .val 0x0⟩, ⟨1, 1, .w1c, .val 0x0⟩, ⟨0, 0, .w1c, .val 0x0⟩]⟩,
  ⟨"RLK_EPOCH", 0x400B0003, [], .wake, .pd 48, 11,
   [⟨33, 33, .ro, .val 0x0⟩, ⟨32, 32, .ro, .val 0x0⟩, ⟨31, 0, .ro, .val 0x0⟩]⟩,
  ⟨"RLK_AUTH", 0x400B0004, [], .wake, .pd 48, 11,
   [⟨29, 20, .ro, .val 0x0⟩, ⟨19, 10, .ro, .val 0x0⟩, ⟨9, 0, .ro, .val 0x0⟩]⟩,
  ⟨"RLK_MAXEP", 0x400B0005, [], .wake, .pd 48, 11,
   [⟨31, 0, .ro, .val 0x0⟩]⟩,
  ⟨"RLK_PEER", 0x400B0006, [], .wake, .pd 48, 11,
   [⟨47, 40, .ro, .val 0x0⟩, ⟨9, 0, .ro, .val 0x0⟩]⟩,
  ⟨"RLK_TBL", 0x400B0007, [], .wake, .pd 48, 11,
   [⟨39, 20, .rwt, .val 0x0⟩, ⟨19, 0, .rwt, .val 0x0⟩]⟩,
  ⟨"RLK_CNT", 0x400B0008, [], .wake, .pd 48, 11,
   [⟨47, 36, .rc, .val 0x0⟩, ⟨35, 24, .rc, .val 0x0⟩, ⟨23, 12, .rc, .val 0x0⟩, ⟨11, 0, .rc, .val 0x0⟩]⟩,
  ⟨"RLK_RING", 0x400B0010, [(4, 4)], .wake, .pd 48, 11,
   [⟨47, 47, .rwt, .val 0x0⟩, ⟨22, 15, .rwt, .val 0x0⟩, ⟨14, 8, .rwt, .val 0x0⟩, ⟨6, 0, .rwt, .val 0x0⟩]⟩,
  ⟨"RLK_RSTS", 0x400B0011, [(4, 4)], .wake, .pd 48, 11,
   [⟨24, 24, .ro, .val 0x0⟩, ⟨23, 23, .ro, .val 0x0⟩, ⟨22, 22, .w1c, .val 0x0⟩, ⟨21, 21, .w1c, .val 0x0⟩, ⟨20, 20, .w1c, .val 0x0⟩, ⟨19, 19, .w1c, .val 0x0⟩, ⟨18, 0, .ro, .val 0x0⟩]⟩,
  ⟨"RLK_RCNT", 0x400B0012, [(4, 4)], .wake, .pd 48, 11,
   [⟨47, 32, .rc, .val 0x0⟩, ⟨31, 16, .rc, .val 0x0⟩, ⟨15, 0, .rc, .val 0x0⟩]⟩,
  ⟨"RLK_UMAP", 0x400B0400, [(1024, 1)], .wake, .pd 48, 11,
   [⟨47, 47, .rwt, .val 0x0⟩, ⟨9, 8, .rwt, .val 0x0⟩, ⟨7, 0, .rwt, .val 0x0⟩]⟩,
  ⟨"RLK_USTS", 0x400B0800, [(1024, 1)], .wake, .pd 48, 11,
   [⟨43, 36, .ro, .val 0x0⟩, ⟨35, 35, .ro, .val 0x0⟩, ⟨34, 34, .ro, .val 0x0⟩, ⟨33, 32, .ro, .val 0x0⟩, ⟨31, 0, .ro, .val 0x0⟩]⟩]

/-- The registers of CPT. -/
def regTableCpt : List RegDesc := [
  ⟨"CPT_CTRL", 0x400C0000, [], .wake, .pd 49, 12,
   [⟨47, 47, .rwt, .val 0x0⟩, ⟨46, 46, .rwt, .val 0x0⟩, ⟨45, 45, .rwt, .val 0x0⟩, ⟨31, 16, .rwt, .val 0x2710⟩, ⟨15, 0, .rwt, .val 0x64⟩]⟩,
  ⟨"CPT_STS", 0x400C0001, [], .wake, .pd 49, 12,
   [⟨22, 16, .ro, .val 0x3d⟩, ⟨6, 6, .w1c, .val 0x0⟩, ⟨5, 5, .w1c, .val 0x0⟩, ⟨4, 4, .w1c, .val 0x0⟩, ⟨3, 3, .w1c, .val 0x0⟩, ⟨2, 2, .w1c, .val 0x0⟩, ⟨1, 1, .w1c, .val 0x0⟩, ⟨0, 0, .w1c, .val 0x0⟩]⟩,
  ⟨"CPT_POOL", 0x400C0002, [], .wake, .pd 49, 12,
   [⟨39, 0, .rwt, .val 0x0⟩]⟩,
  ⟨"CPT_EVRING", 0x400C0003, [], .wake, .pd 49, 12,
   [⟨47, 44, .rwt, .val 0x4⟩, ⟨39, 0, .rwt, .val 0x0⟩]⟩,
  ⟨"CPT_EVNOTE", 0x400C0004, [], .wake, .pd 49, 12,
   [⟨47, 47, .rwt, .val 0x0⟩, ⟨39, 0, .rwt, .val 0x0⟩]⟩,
  ⟨"CPT_EVPTR", 0x400C0005, [], .wake, .pd 49, 12,
   [⟨31, 16, .rw, .val 0x0⟩, ⟨15, 0, .ro, .val 0x0⟩]⟩,
  ⟨"CPT_EVMASK", 0x400C0006, [], .wake, .pd 49, 12,
   [⟨5, 1, .rwt, .val 0x1f⟩]⟩,
  ⟨"CPT_HDB", 0x400C0008, [], .wake, .pd 49, 12,
   [⟨39, 0, .wo, .val 0x0⟩]⟩,
  ⟨"CPT_PDB", 0x400C0009, [], .wake, .pd 49, 12,
   [⟨39, 0, .wo, .val 0x0⟩]⟩,
  ⟨"CPT_QHEAD", 0x400C000A, [], .wake, .pd 49, 12,
   [⟨47, 47, .ro, .val 0x0⟩, ⟨43, 40, .ro, .val 0x0⟩, ⟨5, 0, .ro, .val 0x0⟩]⟩,
  ⟨"CPT_TAKE", 0x400C000B, [], .wake, .pd 49, 12,
   [⟨5, 0, .rwt, .val 0x0⟩]⟩,
  ⟨"CPT_REPLY", 0x400C000C, [], .wake, .pd 49, 12,
   [⟨47, 44, .rwt, .val 0x0⟩, ⟨43, 36, .rwt, .val 0x0⟩, ⟨35, 28, .rwt, .val 0x0⟩, ⟨5, 0, .rwt, .val 0x0⟩]⟩,
  ⟨"CPT_CNT", 0x400C000D, [], .wake, .pd 49, 12,
   [⟨47, 36, .rc, .val 0x0⟩, ⟨35, 24, .rc, .val 0x0⟩, ⟨23, 12, .rc, .val 0x0⟩, ⟨11, 0, .rc, .val 0x0⟩]⟩,
  ⟨"CPT_ALLOC", 0x400C0010, [(12, 1)], .wake, .pd 49, 12,
   [⟨47, 47, .ro, .val 0x0⟩, ⟨46, 45, .ro, .val 0x0⟩, ⟨5, 0, .ro, .val 0x0⟩]⟩,
  ⟨"CPT_SUBMIT", 0x400C0020, [(12, 1)], .wake, .pd 49, 12,
   [⟨5, 0, .wo, .val 0x0⟩]⟩,
  ⟨"CPT_FREE", 0x400C0030, [(12, 1)], .wake, .pd 49, 12,
   [⟨5, 0, .wo, .val 0x0⟩]⟩,
  ⟨"CPT_RQ", 0x400C0040, [(13, 1)], .wake, .pd 49, 12,
   [⟨47, 40, .rwt, .perm⟩, ⟨39, 32, .rwt, .val 0x8⟩, ⟨31, 26, .ro, .val 0x0⟩, ⟨25, 25, .w1c, .val 0x0⟩]⟩,
  ⟨"CPT_BUF", 0x400C0100, [(64, 1)], .wake, .pd 49, 12,
   [⟨47, 45, .ro, .val 0x0⟩, ⟨44, 41, .ro, .val 0x0⟩, ⟨40, 25, .ro, .val 0x0⟩, ⟨15, 0, .ro, .val 0x0⟩]⟩]

/-- The registers of DBG. -/
def regTableDbg : List RegDesc := [
  ⟨"DBG_CTRL", 0x400D0000, [], .held, .aon, 14,
   [⟨47, 47, .rw, .val 0x0⟩, ⟨2, 2, .w1s, .val 0x0⟩, ⟨1, 0, .rwt, .val 0x0⟩]⟩,
  ⟨"DBG_STS", 0x400D0001, [], .wake, .pd 53, 14,
   [⟨4, 4, .w1c, .val 0x0⟩, ⟨3, 3, .ro, .val 0x0⟩, ⟨2, 2, .ro, .val 0x0⟩, ⟨1, 0, .ro, .val 0x0⟩]⟩,
  ⟨"DBG_KEY", 0x400D0008, [(6, 1)], .por, .aon, 14,
   [⟨47, 0, .wo, .val 0x0⟩]⟩,
  ⟨"DBG_CORECTL", 0x400D0020, [(10, 1)], .wake, .pd 53, 14,
   [⟨15, 13, .ro, .val 0x0⟩, ⟨12, 12, .ro, .val 0x0⟩, ⟨11, 10, .rwt, .val 0x0⟩, ⟨9, 6, .rwt, .val 0x0⟩, ⟨5, 5, .rwt, .val 0x0⟩, ⟨4, 4, .w1c, .val 0x0⟩, ⟨2, 2, .w1s, .val 0x0⟩, ⟨1, 1, .w1s, .val 0x0⟩, ⟨0, 0, .w1s, .val 0x0⟩]⟩,
  ⟨"DBG_BP", 0x400D0080, [(10, 4), (4, 1)], .wake, .pd 53, 14,
   [⟨41, 0, .rwt, .val 0x0⟩]⟩,
  ⟨"DBG_TRCTL", 0x400D0200, [], .wake, .pd 55, 14,
   [⟨47, 47, .rwt, .val 0x0⟩, ⟨46, 46, .ro, .val 0x0⟩, ⟨45, 45, .rwt, .val 0x0⟩, ⟨44, 42, .rwt, .val 0x0⟩, ⟨41, 39, .rwt, .val 0x0⟩, ⟨38, 34, .rwt, .val 0x0⟩, ⟨33, 30, .rwt, .val 0x0⟩, ⟨15, 0, .rwt, .val 0x0⟩]⟩,
  ⟨"DBG_TRBUF", 0x400D1000, [(4096, 2), (2, 1)], .wake, .pd 55, 14,
   [⟨47, 0, .ro, .val 0x0⟩]⟩,
  ⟨"DBG_VTOUT", 0x400D0010, [], .wake, .pd 53, 14,
   [⟨47, 0, .wo, .val 0x0⟩]⟩,
  ⟨"DBG_VTIN", 0x400D0011, [], .wake, .pd 53, 14,
   [⟨47, 0, .rc, .val 0x0⟩]⟩,
  ⟨"DBG_CSEL", 0x400D0030, [(10, 1)], .wake, .pd 53, 14,
   [⟨23, 16, .ro, .val 0x0⟩, ⟨15, 14, .rwt, .val 0x0⟩, ⟨10, 0, .rwt, .val 0x0⟩]⟩,
  ⟨"DBG_CDAT", 0x400D0040, [(10, 1)], .wake, .pd 53, 14,
   [⟨47, 0, .rwt, .val 0x0⟩]⟩,
  ⟨"DBG_TRPTR", 0x400D0201, [], .wake, .pd 55, 14,
   [⟨47, 24, .rc, .val 0x0⟩, ⟨11, 0, .ro, .val 0x0⟩]⟩,
  ⟨"DBG_TRMARK", 0x400D0202, [], .wake, .pd 55, 14,
   [⟨35, 0, .wo, .val 0x0⟩]⟩,
  ⟨"DBG_WP", 0x400D0100, [(10, 4), (2, 2), (2, 1)], .wake, .pd 53, 14,
   [⟨41, 41, .rwt, .val 0x0⟩, ⟨40, 40, .rwt, .val 0x0⟩, ⟨39, 0, .rwt, .val 0x0⟩]⟩]

/-- The table of the subsystem whose register range (R264) holds an address; none outside every range. -/
def regTableAt (a : Nat) : Option (List RegDesc) :=
  if a < 0x40000000 then none
  else if a < 0x40010000 then some (if a < 0x40000400 ∨ 0x40000700 ≤ a then regTablePctl else regTableDm)
  else if a < 0x40020000 then some regTableIntc
  else if a < 0x40030000 then some regTableMem
  else if a < 0x40040000 then some regTableSem
  else if a < 0x40050000 then some regTableCvp
  else if a < 0x40058000 then some regTableAe
  else if a < 0x40060000 then none
  else if a < 0x40070000 then some regTableSsp
  else if a < 0x40080000 then some regTableJne
  else if a < 0x40090000 then some regTablePne
  else if a < 0x400A0000 then some regTableWac
  else if a < 0x400B0000 then some regTableMlk
  else if a < 0x400C0000 then some regTableRlk
  else if a < 0x400D0000 then some regTableCpt
  else if a < 0x400E0000 then some regTableDbg
  else none

/-- The indexes that an offset spells over the (count, stride) pairs, none if it spells none. -/
def dimIndex : Nat → List (Nat × Nat) → Option (List Nat)
  | off, [] => if off = 0 then some [] else none
  | off, (c, st) :: r =>
    if off / st < c then (dimIndex (off % st) r).map (fun l => off / st :: l) else none

/-- The indexes that address `a` has in register `d`. -/
def RegDesc.index (d : RegDesc) (a : Nat) : Option (List Nat) :=
  if a < d.base then none else dimIndex (a - d.base) d.dims

/-- The register of a table that lies at an address, with its indexes. -/
def regFindIn : List RegDesc → Nat → Option (RegDesc × List Nat)
  | [], _ => none
  | d :: r, a =>
    match d.index a with
    | some ix => some (d, ix)
    | none => regFindIn r a

/-- Offsets that a subsystem's chapter excepts from an array: RLK_UMAP[0] and RLK_USTS[0] (R424)
and CPT_ALLOC[10] (R469) read zero and ignore writes. -/
def regExcepted (a : Nat) : Bool := a == 0x400B0400 || a == 0x400B0800 || a == 0x400C001A

/-- The register at an address, none where no register is listed. -/
def regFind (a : Nat) : Option (RegDesc × List Nat) :=
  if regExcepted a then none
  else match regTableAt a with
    | some t => regFindIn t a
    | none => none

/-- R142: sources 256 to 319 and 447 and every message source are COUNT. -/
def intcIsCount (n : Nat) : Bool := (256 ≤ n && n ≤ 319) || 447 ≤ n

/-- R142: sources from 448 up are message class. -/
def intcIsMessage (n : Nat) : Bool := 448 ≤ n

/-- R267: the plane of each interconnect port. -/
def portPlane (p : Nat) : Nat := if 20 ≤ p then 1 else 0

/-- R460: the reset value of CPT_RQ[r].PERM. -/
def rqPermReset (r : Nat) : Nat := if r ≤ 9 then 3 else if r = 10 then 15 else 1

/-- A field's reset value, for the parameters `p`, behaviour level `lvl` (R527) and the register's indexes. -/
def rstValue (p : Params) (lvl : Nat) (ix : List Nat) : RstVal → Nat
  | .val n => n
  | .lead => if lvl = 1 then 4 else 2
  | .hon => if lvl = 1 then 8 else 16
  | .holdMax => if lvl = 1 then 0 else 3
  | .adtFloor => p.adt
  | .phsFloor => p.phs (ix.getD 0 0)
  | .plcFloor => p.plc
  | .level => lvl
  | .anchor => (p.anchorW (ix.getD 0 0)).toNat
  | .pBlevel => p.blevel.toNat
  | .intcKind => b2n (intcIsCount (ix.getD 0 0))
  | .intcClass => b2n (intcIsMessage (ix.getD 0 0))
  | .escPrio => if ix.getD 0 0 = 447 then 15 else 0
  | .escLvl => if ix.getD 0 0 = 447 then 1 else 0
  | .escTgt => if ix.getD 0 0 = 447 then 0x100 else 0
  | .plane => portPlane (ix.getD 0 0)
  | .perm => rqPermReset (ix.getD 0 0)
  | .unit0 => if ix.getD 0 0 = 0 then 1 else 0

/-- The whole reset value of a register. -/
def RegDesc.reset (d : RegDesc) (p : Params) (lvl : Nat) (ix : List Nat) : Word :=
  BitVec.ofNat 48 (d.fields.foldl (fun n f => n + rstValue p lvl ix f.rst <<< f.lo) 0)

/-- What a register that has not been written since its reset reads as; zero where none is listed
(R264). -/
def regDefault (p : Params) (lvl a : Nat) : Word :=
  match regFind a with
  | some (d, ix) => d.reset p lvl ix
  | none => 0

end Sys2Proof.Machine
end

