-- ==== Sys2Proof/Machine/State.lean ====
section
/-! DEFINITION. The state of the block as plain data: every register, memory, queue and hidden item
that the spec gives it, the reasons a command can stop, and the state after reset. -/

namespace Sys2Proof.Machine

/-- A producer of commutation words (R25): a law slot or an SSP cell. -/
inductive Producer where
  | slot (n : Nat)
  | cell (c : Nat)
deriving DecidableEq, Repr

/-- The kinds of commutation word (R21). -/
inductive WordKind where
  | direct | posted | armdef
deriving DecidableEq, Repr

/-- A commutation word (R21). `cyc` is the whole PORT cycle whose low 16 bits are CNT; an ARMDEF
has a lane where the others have a pair. -/
structure EdgeWord where
  kind : WordKind
  pair : Nat
  s    : Nat
  dt   : Nat
  tag  : Nat
  cyc  : Nat
  fine : Nat
deriving DecidableEq, Repr

/-- An entry of an egress lane queue (R26): the word, its producer, the PORT cycle in which it was
handed over, and whether it may release RN_SAFE (no source became active since, R35). -/
structure QEntry where
  word : EdgeWord
  prod : Producer
  at_  : Nat
  rel  : Bool
deriving DecidableEq, Repr

/-- A posting tag on one lane from its ARMDEF until its release (R27): arm cycle, whether it was
armed (and early, R30), whether a retraction was sent (R29), whether the host reported it armed,
whether a word of it has left on the lane, and its POSTED words that have left and are not armed, each with the PORT
cycle in which it left. -/
structure LaneTag where
  lane   : Nat
  tag    : Nat
  arm    : Nat
  armed  : Bool
  early  : Bool
  gone   : Bool
  rep    : Bool
  left   : Bool
  words  : List (EdgeWord × Nat)
deriving DecidableEq, Repr

/-- A commutation whose report the CVP expects (R32): its pair, state, whole PORT cycle, the reports received
on its lane in the meantime, whether the bound has passed without its report, and the PORT cycle in which its word left. -/
structure Expect where
  pair  : Nat
  s     : Nat
  cyc   : Nat
  fine  : Nat
  extra : Nat
  tag   : Option Nat
  late  : Bool
  sent  : Nat
deriving DecidableEq, Repr

/-- A calibration pair (R19), Q16.32. -/
structure Cal where
  gain : Word
  offs : Word
deriving DecidableEq, Repr

/-- What a load of the calibration RAM replaced (R19): one more than its PORT cycle, the pair before it, and CALOK before it. -/
structure CalPrev where
  cyc : Nat
  cal : Cal
  ok  : Bool
deriving DecidableEq, Repr

/-- The converter port beside its registers. -/
structure Cvp where
  /-- calibration RAM, by channel (R19) -/
  cal      : List (Nat × Cal)
  /-- egress lane queues, by lane, oldest first (R26) -/
  queues   : List (Nat × List QEntry)
  /-- one more than the PORT cycle in which lane k last sent a word; 0 if it has sent none -/
  sentAt   : List (Nat × Nat)
  /-- RN_EDGE_D of the latest word of each lane (R21) -/
  edgeOut  : List (Nat × Word)
  /-- latest retract strobe of each lane: RN_RTAG, and one more than its PORT cycle (R29) -/
  retrOut  : List (Nat × (Nat × Nat))
  /-- latest early-arm strobe of each lane: RN_ATAG, and one more than its PORT cycle (R30) -/
  armOut   : List (Nat × (Nat × Nat))
  tags     : List LaneTag
  expects  : List Expect
  /-- outstanding switch-node measurements (output, commutation time in edge ticks) (R38) -/
  swn      : List (Nat × Nat)
  /-- RN_TRIP levels (R36) -/
  tripPin  : BitVec 64
  /-- inputs that count, after polarity and filter (R36); CVP_TRIPLIVE shows the level before the filter -/
  tripLive : BitVec 64
  /-- inputs whose active level runs through the filter, with the PORT cycle it began -/
  tripWait : List (Nat × Nat)
  /-- pin RN_DRIVE_GNT -/
  gnt      : Bool
  /-- measurements so far, and the number of each output's latest one (R83) -/
  swnNo    : Nat
  swnCnt   : List (Nat × Nat)
  /-- the latest word of each lane that released its pair (R35) -/
  released : List (Nat × EdgeWord)
  /-- the latest load of each channel's calibration pair (R19) -/
  calPrev  : List (Nat × CalPrev)
deriving DecidableEq, Repr

/-- A trigger of a law slot with the values latched when it arrived (R46, R47). `pres` is the PORT
cycle of its presentation (R63). -/
structure Trig where
  x    : Word
  x1   : Word
  x2   : Word
  x3   : Word
  cyc  : Nat
  fine : Nat
  pres : Nat
deriving DecidableEq, Repr

/-- A trigger on its way to a slot: a presented sample (R20), or an event of a Sillage channel. -/
inductive TrigSrc where
  | sample (x : Word) (cyc fine : Nat)
  | event (cyc : Nat)
deriving DecidableEq, Repr

/-- What a running evaluation does at OUT (R71 to R75): an ordinary evaluation, a hand-over whose target TKIND selects at
the trigger, `img` being the image's output at the prime point, or one with a target fixed at the prime point. -/
inductive HoEval where
  | ordinary
  | byKind (img : Word)
  | fixed (ya : Word)
  | manual
deriving DecidableEq, Repr

/-- A law slot beside its registers and its local RAM. -/
structure Slot where
  acc      : Acc
  /-- index of the next step from PBASE -/
  pc       : Nat
  /-- the trigger of the running evaluation -/
  trig     : Trig
  /-- the trigger held under R46 -/
  held     : Option Trig
  dts      : Word
  /-- REF0 to REF3 as latched at the prime point (R48) -/
  ref0     : Word
  ref1     : Word
  ref2     : Word
  ref3     : Word
  /-- triggers still to be ignored before one is taken (DECIM, R46) -/
  skip     : Nat
  /-- no trigger taken since enabling, so DTS is zero (R47) -/
  first    : Bool
  /-- the next event of the slot is its prime point (R45) -/
  atPrime  : Bool
  /-- EN was cleared and the slot waits to be disabled (R49) -/
  stopping : Bool
  /-- EN was written 1 during that wait (R49) -/
  again    : Bool
  /-- bank mode in effect (R81) -/
  cbMode   : Bool
  ho       : HoEval
  /-- target of the running hand-over evaluation -/
  hoYa     : Word
  /-- exact residual R0 of the latest hand-over (R73) -/
  r0       : Int
  /-- the pending hand-over request came from a grant rise and transfers no pairs (R77) -/
  noTake   : Bool
  /-- chosen for parking; and past the prime point at which it stops running evaluations (R87) -/
  parking  : Bool
  parkAt   : Bool
  /-- PHSPRE target of an unparking hand-over (R88) -/
  unpark   : Option Word
  /-- adaptive dead-time window in effect (R82) -/
  winLo    : Nat
  winHi    : Nat
  /-- number of the latest measurement of R38 at each template's last update (R83) -/
  meas     : List (Nat × Nat)
  /-- Y values and target of the last words handed to the CVP since enabling (R122) -/
  lastY    : Option (List Word)
  lastP    : Nat
  /-- trigger times in edge ticks of evaluations whose words are discarded (R122) -/
  drop     : List Nat
  /-- PORT cycle in which its OUTPUT section started, until an OUTPUT step of it has issued (R61) -/
  began    : Option Nat
  /-- index of the first step of its running OUTPUT section, while the section meets the conditions of R62 and R63 -/
  alone    : Option Nat
deriving DecidableEq, Repr

/-- What an evaluation hands over in a PORT cycle after its OUT (R62, R63): the presentation cycle and time in edge
ticks of its trigger, its words with their outputs and target, the slot whose pairs it takes (R76), whether the
slot forms no words at all since PER is 0, and the PORT cycle of its OUT. -/
structure SlotHand where
  slot : Nat
  at_  : Nat
  pres : Nat
  tau  : Nat
  ws   : List EdgeWord
  ys   : List Word
  p    : Nat
  take : Option Nat
  none : Bool
  out  : Nat
deriving DecidableEq, Repr

def Trig.zero : Trig := ⟨0, 0, 0, 0, 0, 0, 0⟩

/-- A slot as its engine's wake leaves it. -/
def Slot.off : Slot :=
  { acc := 0, pc := 0, trig := Trig.zero, held := none, dts := 0, ref0 := 0, ref1 := 0, ref2 := 0,
    ref3 := 0, skip := 0, first := true, atPrime := false, stopping := false, again := false,
    cbMode := false, ho := .ordinary, hoYa := 0, r0 := 0, noTake := false, parking := false, parkAt := false, unpark := none,
    winLo := 0, winHi := 0, meas := [], lastY := none, lastP := 0, drop := [], began := none,
    alone := none }

/-- A received image of a slot (R436, R437): the words of S0 to S(NS-1), Y0 to Y7, and the rest. -/
structure RxImg where
  s     : List Word
  y     : List Word
  lastX : Word
  lastT : Word
  sstat : Word
  seq   : Word
deriving DecidableEq, Repr

/-- The Accord engines beside their registers and local RAM. -/
structure Ae where
  slots  : List (Nat × Slot)
  /-- consecutive updates below target of each phase group (R86) -/
  lows   : List (Nat × Nat)
  /-- pending image of each slot that has one (R437) -/
  rxImg  : List (Nat × RxImg)
  /-- triggers that have reached a slot and wait to be taken, oldest first -/
  trigs  : List (Nat × TrigSrc)
  /-- slots of each engine whose OUTPUT section has started, first started first (R61) -/
  outq   : List (Nat × List Nat)
  /-- coefficient queue of each engine: (local RAM word, value), oldest first (R79) -/
  coefq  : List (Nat × List (Nat × Word))
  /-- output Yi of slot s as last delivered, at key 8 s + i (R48) -/
  yOut   : List (Nat × Word)
  /-- point value delivered to REFr of slot s, at key 4 s + r (R48) -/
  refPt  : List (Nat × Word)
  /-- load values delivered to the phase groups and not yet used (R86) -/
  loads  : List (Nat × Word)
  /-- words on their way from the edge former to the CVP (R62) -/
  hands  : List SlotHand
deriving DecidableEq, Repr

/-- A posting of a cell whose tag is held (R100, R101): its target in edge ticks, arm cycle and
candidate; whether a word of it has left the block, and whether its retraction was sent (R102, R104). -/
structure Posting where
  cell : Nat
  tag  : Nat
  p    : Nat
  arm  : Nat
  cand : Nat
  left : Bool
  gone : Bool
deriving DecidableEq, Repr

/-- A start event of a subject (R95, R115 to R117): its start time in PORT cycles, and the trigger time as a PORT cycle
and edge ticks. A cell's start time is the capture cycle of its sample. -/
structure DmStart where
  at_  : Nat
  cyc  : Nat
  fine : Nat
deriving DecidableEq, Repr

/-- The trigger time in edge ticks. -/
def DmStart.tau (t : DmStart) : Nat := t.cyc * 128 + t.fine

/-- A predictor cell beside its registers. -/
structure Cell where
  /-- the queued evaluation's trigger, and the PORT cycle of its presentation (R95) -/
  queued : Option (DmStart × Nat)
  /-- the trigger held while an evaluation runs (R95) -/
  held   : Option (DmStart × Nat)
  /-- triggers still to be ignored before one is taken -/
  skip   : Nat
  /-- the winner of the latest evaluation that targeted each boundary (R97) -/
  intent : List (Nat × Nat)
  /-- candidate of the latest posting since enabling (R122) -/
  last   : Option Nat
  /-- target of the latest evaluation since enabling -/
  lastP  : Nat
  /-- capture times in edge ticks of evaluations whose words are discarded (R122) -/
  drop   : List Nat
  /-- tags whose retraction and early arm RTRQ and ARMRQ request in the next PORT cycle (R104) -/
  rtrq   : Option Nat
  armrq  : Option Nat
  /-- the grant has risen since its latest dispatch, so the next takes its base from CVP_APPLIED (R107) -/
  regnt  : Bool
deriving DecidableEq, Repr

/-- A disabled cell. -/
def Cell.off : Cell := ⟨none, none, 0, [], none, 0, [], none, none, false⟩

/-- An evaluation running on a lane (R96, R98): its trigger, target, base candidate, winner (position
and candidate) and cost as its search gives them, the CORE cycle in which it ends and frees its lane, whether
its result is in the cell's registers, and the PORT cycle of its hand-over. `dead`: the cell was disabled or the
lane reset meanwhile, so it sends nothing (R106, R107). -/
structure SspRun where
  lane    : Nat
  cell    : Nat
  trig    : DmStart
  pres    : Nat
  p       : Nat
  base    : Nat
  win     : Option (Nat × Nat)
  cost    : Nat
  sat     : Bool
  costSat : Bool
  ends    : Nat
  known   : Bool
  done    : Nat
  dead    : Bool
deriving DecidableEq, Repr

/-- A replacement posting to be handed over once its retraction's reporting time has run out (R102). -/
structure SspRepl where
  cell : Nat
  p    : Nat
  cand : Nat
  trig : DmStart
  at_  : Nat
deriving DecidableEq, Repr

/-- A request of a cell to the CVP on a tag, made in a PORT cycle (R29, R30, R102, R104): to retract it, to arm it
early, and the replacement that follows a retraction. -/
structure SspReq where
  cell : Nat
  tag  : Nat
  cyc  : Nat
  retr : Bool
  arm  : Bool
  repl : Option SspRepl
deriving DecidableEq, Repr

/-- The words of a posting with the PORT cycle of their hand-over (R100, R122). -/
structure PostHand where
  cell : Nat
  tag  : Nat
  at_  : Nat
  ws   : List EdgeWord
deriving DecidableEq, Repr

/-- The predictor beside its registers. -/
structure Ssp where
  /-- samples presented on triggering inputs and not yet taken (R91, R95) -/
  ins   : List (Nat × DmStart)
  /-- latest value of each SSP input (R91) -/
  x     : List (Nat × Word)
  /-- point value delivered to reference i of cell c, at key 8 c + i (R93) -/
  refPt : List (Nat × Word)
  cells : List (Nat × Cell)
  /-- cells with a queued evaluation and the CORE cycle in which it was queued, first queued first (R96) -/
  queue : List (Nat × Nat)
  runs  : List SspRun
  repls : List SspRepl
  posts : List Posting
  /-- requests that the CVP acts on in the PORT cycle after theirs -/
  reqs  : List SspReq
  /-- words of a HOLD that wait for their hand-over (R122) -/
  outs  : List PostHand
deriving DecidableEq, Repr

/-- The predictor after a wake. -/
def Ssp.zero : Ssp :=
  { ins := [], x := [], refPt := [], cells := [], queue := [], runs := [], repls := [], posts := [], reqs := [], outs := [] }

/-- An outstanding check: its start, its deadline, whether its miss was detected, and the log entry
of that miss with the LOST-proof write number (R126). -/
structure DmCheck where
  start  : DmStart
  dl     : Nat
  missed : Bool
  logged : Option (Nat × Nat)
deriving DecidableEq, Repr

/-- One deadline monitor beside its registers. -/
structure Mon where
  chk     : Option DmCheck
  pend    : Option DmStart
  /-- BUDGET as it stood at the pending start (R127) -/
  pendBud : Nat
  /-- cycle from which the gap timer runs; none while it is stopped (R118); GAP as it stood then (R127) -/
  gapFrom : Option Nat
  gapLen  : Nat
  /-- consecutive on-time checks (R123) -/
  ontime  : Nat
  /-- number of the monitor's latest record, to tell which record PCTL_DMLAST holds -/
  lastNo  : Nat
  /-- one more than the PORT cycle of its latest miss, and of the latest release of its safe condition (R123) -/
  missAt  : Nat
  relAt   : Nat
deriving DecidableEq, Repr

/-- A monitor with nothing outstanding. -/
def Mon.idle : Mon := ⟨none, none, 0, none, 0, 0, 0, 0, 0⟩

/-- Words of a HOLD, formed in one cycle and handed over in the next (R122). -/
structure HoldHand where
  slot : Nat
  at_  : Nat
  ws   : List EdgeWord
  ys   : List Word
  p    : Nat
deriving DecidableEq, Repr

/-- Timebase and deadlines beside their registers. -/
structure Dm where
  mons    : List (Nat × Mon)
  /-- journal time: seconds, and nanoseconds in units of 2^-32 ns (R112) -/
  jtSec   : Nat
  jtNs    : Nat
  /-- a time that takes effect in the next PORT cycle: seconds and units of 2^-32 ns (R112) -/
  jtSet   : Option (Nat × Nat)
  /-- the hidden set register of R112 -/
  setNs   : Nat
  setStep : Bool
  /-- the read latch of R113 -/
  latchNs : Nat
  latchBt : Word
  /-- entries of PCTL_DMLOG not read since written (R126) -/
  unread  : List Nat
  /-- count of records written, to tell whether an entry was overwritten -/
  logNo   : Nat
  /-- one more than the block time of the last tick of each generator -/
  ticked  : List (Nat × Nat)
  /-- words of a HOLD that wait for their hand-over (R122) -/
  hand    : List HoldHand
deriving DecidableEq, Repr

/-- The Sillage event matrix beside its registers. -/
structure Sem where
  /-- producers that have fired and whose events the matrix has yet to route (R128) -/
  fired : List Nat
  /-- pin RN_PFAIL as registered (R348) -/
  pfail : Bool
  /-- one more than the FABRIC cycle of each routed channel's latest delivery (R134) -/
  last  : List (Nat × Nat)
  /-- one more than the PORT cycle in which each producer fired last (R128) -/
  when_ : List (Nat × Nat)
  /-- pulses of DMMISSq on the trip groups: monitor group, and one more than the PORT cycle of the pulse (R138) -/
  pulse : List (Nat × Nat)
  /-- bindings made in the present PORT cycle (R130): consumer input, channel, and SEM_CHCFG before the write -/
  binds : List (Nat × Nat × Word)
deriving DecidableEq, Repr

/-- INTC_SRC[n] as it stood before a write in a PORT cycle, for the writes that act on selection later (R156). -/
structure SrcOld where
  n   : Nat
  cyc : Nat
  w   : Word
deriving DecidableEq, Repr

/-- The interrupt controller beside its registers. -/
structure Intc where
  /-- strobes of COUNT sources on their way to the controller -/
  strobes  : List Nat
  /-- PRIO latched at claim, for each source in service (R151) -/
  latched  : List (Nat × Nat)
  /-- end of each group's hold-off, in FABRIC cycles, while its timer runs (R153) -/
  holdEnd  : List (Nat × Nat)
  /-- cores with a presentation whose entry is not yet committed (R149) -/
  offered  : List Nat
  /-- LVL of the source of each core's PRES at its selection: 1 CL (R149, R156) -/
  shown    : List (Nat × Nat)
  /-- PRIO of the source of core k's PRES before a write of 0 that left the presentation in place (R157); 0: none -/
  spared   : List (Nat × Nat)
  /-- writes of the last PORT cycles that may not act on selection yet (R156) -/
  late     : List SrcOld
deriving DecidableEq, Repr

/-- A token register, or a pair of words of a tagged memory (R230). -/
structure Tok where
  w0  : Word
  w1  : Word
  tag : Bool
deriving DecidableEq, Repr

/-- Two zero words with tag 0. -/
def Tok.zero : Tok := ⟨0, 0, false⟩

/-- One bank of a core (R168). Stacks, frame ring and loop registers by physical index; P0 is not
stored. `resv`: operand stack entries reserved for loads that an entry has passed (R180). -/
structure Bank where
  ost    : List (Nat × Word)
  rst    : List (Nat × Word)
  ring   : List (Nat × Word)
  osp    : Nat
  rsp    : Nat
  fd     : Nat
  ld     : Nat
  preds  : Nat
  lbeg   : List (Nat × Word)
  lend   : List (Nat × Word)
  lcnt   : List (Nat × Word)
  acc    : Acc
  accOvf : Bool
  ph     : Word
  pl     : Word
  toks   : List (Nat × Tok)
  resv   : List Nat
deriving DecidableEq, Repr

/-- A bank after reset: every word zero (R183). -/
def Bank.zero : Bank :=
  { ost := [], rst := [], ring := [], osp := 0, rsp := 0, fd := 0, ld := 0, preds := 0, lbeg := [],
    lend := [], lcnt := [], acc := 0, accOvf := false, ph := 0, pl := 0, toks := [], resv := [] }

/-- A multiplier result or ACC write in flight (R175, R205). -/
inductive LandOp where
  | product (ph pl : Word)
  | add (v : Acc)
  | set (v : Acc)
deriving DecidableEq, Repr

/-- An operation in flight: the bank it lands in and the first CORE cycle that sees it. -/
structure Land where
  bank : Nat
  due  : Nat
  op   : LandOp
deriving DecidableEq, Repr

/-- A core before the first instruction of a pair, as far as that instruction changes it (R178, R179). -/
structure Undo where
  bank  : Bank
  pc    : Word
  gps   : Nat
  gsn   : Bool
  grem  : Nat
  gpc   : Option Word
  lands : List Land
deriving DecidableEq, Repr

/-- What pairing needs to know of the instruction issued last (R176, R177): its issue cycle and cost,
class, parcels, entries produced, predicate written (0: none), and whether it may be a first. -/
structure Prev where
  cyc     : Nat
  cost    : Nat
  cls     : Nat
  parcels : Nat
  prod    : Nat
  pred    : Nat
  first   : Bool
  /-- target of the transfer that brought the core to it -/
  came    : Option Word
  /-- it transferred control itself -/
  jumped  : Bool
  /-- it stood at LEND of an active loop (R174) -/
  atLend  : Bool
  /-- the core before it, or before the pair that it ends, where that pair can be abandoned as one (R178) -/
  undo    : Option Undo
deriving DecidableEq, Repr

/-- What a core that issues nothing waits for: an event (R220), its posted stores (R221), or data. A load
of parcels `len` that consumes `pops` entries completes when its word comes; an instruction that
accesses several words is issued again then (`pops` none) (R180, R222, R225, R240). A fetch waits for the word at `w`, at
physical address `pa` (R251, R300); `pair`: for the second instruction of a pair. `acc`: the target has accepted the
request; `id`: the number of the request, which its response carries; `min`: the fewest cycles that the wait adds.
`skipped`: the guard of the WAIT or the FENCE failed, and it only takes its time (R171). -/
inductive CoreWait where
  | none
  | event (m : Nat) (len : Nat) (skipped : Bool)
  | fence (skipped : Bool)
  | load (pops : Option Nat) (len : Nat) (addr : Word) (acc : Bool) (id min : Nat)
  | fetch (w pa : Nat) (acc : Bool) (id min : Nat) (pair : Bool)
deriving DecidableEq, Repr

/-- An access of a core on its way to its target through the interconnect (R209, R210): a write or a
read of one word, or of an indivisible pair of words with their tag (R240). -/
structure MemReq where
  write : Bool
  addr  : Nat
  data  : Word
  pair  : Bool
  hi    : Word
  tag   : Bool
  otype : Nat
  /-- DEV of an access that goes to the host (R498) -/
  dev   : Bool
  /-- it was answered BUSY and retries (R270) -/
  busy  : Bool
  /-- number of a read, which its response carries (R180) -/
  id    : Nat
  /-- PORT cycle in which the core sent it, and the one since which the clearing of its target has stalled it (R276) -/
  at_   : Nat
  stall : Option Nat
deriving DecidableEq, Repr

/-- A response that has reached a core: the number of its read, its code (R266) and data. -/
structure Arrived where
  id   : Nat
  code : Nat
  w0   : Word
  w1   : Word
  tag  : Bool
deriving DecidableEq, Repr

/-- A load that an entry has passed (R180): bank and physical entry to fill, its address, and the number of its read. -/
structure Passed where
  bank : Nat
  idx  : Nat
  addr : Word
  id   : Nat
deriving DecidableEq, Repr

/-- A read that its target had accepted when a stop abandoned the instruction it is for (R179): level and PC of the instruction,
physical address, the number of the read, and its response once that has come. The instruction takes it when it is issued again. -/
structure Kept where
  lvl  : Nat
  pc   : Word
  addr : Word
  id   : Nat
  resp : Option Arrived
deriving DecidableEq, Repr

/-- A core (R162). -/
structure Core where
  /-- level in use: 0 TL, 1 IL, 2 FL, 3 CL -/
  lvl    : Nat
  /-- PC in the format of R163 -/
  pc     : Word
  banks  : List (Nat × Bank)
  /-- code token of each level (R244) -/
  ct     : List (Nat × Tok)
  /-- EC0 to EC8 and ED0 to ED7 (R246) -/
  ec     : List (Nat × Tok)
  ed     : List (Nat × Tok)
  /-- call state of each level (R247) -/
  scin   : Nat
  srpc   : List (Nat × Word)
  srct   : List (Nat × Tok)
  srt15  : List (Nat × Tok)
  /-- stored core system registers, by number (R184, R262, R308) -/
  sreg   : List (Nat × Word)
  rootLock : Bool
  /-- deterministic mode in effect (R181) -/
  detmAct : Bool
  /-- pending asynchronous faults: code and CAUSEV, at most one of each code; LOST (R257) -/
  asyncs : List (Nat × Word)
  lost   : Bool
  /-- event flags EF0 to EF3 (R220) -/
  ef     : Nat
  /-- remaining GRD coverage (R189, R190), and the PC of the GRD until its first covered instruction -/
  gps    : Nat
  gsn    : Bool
  grem   : Nat
  gpc    : Option Word
  /-- next word of the long instruction at PC (R225, R226), and word 1 once a restore has read it -/
  step   : Nat
  hdr    : Option Word
  /-- tokens that RESTU has read and not yet written (R225) -/
  hold   : List (Nat × Tok)
  wait   : CoreWait
  /-- word that came for the long instruction or token load at PC, with its physical address -/
  got    : Option (Word × Arrived)
  /-- accesses on their way, oldest first -/
  reqs   : List MemReq
  /-- posted stores that have acted: address and code, or none until the host has answered (R210) -/
  posted : List (Nat × Option Nat)
  passed : List Passed
  /-- accepted reads of instructions that a stop has abandoned (R179) -/
  kept   : List Kept
  /-- responses of reads that have reached the core, and the number of its next read -/
  arrived : List Arrived
  rid    : Nat
  /-- words that the core fetched through the interconnect or a fill and still issues from (R300) -/
  fbuf   : List Nat
  /-- the first fetch since the entry into the level is still to be made or to be answered (R249) -/
  efirst : Bool
  /-- a presentation reached the core behind an instruction that may be the first of a pair (R178) -/
  entry  : Bool
  lands  : List Land
  /-- CORE cycles counted by issue (R227), and the instruction issued last -/
  cyc    : Nat
  prev   : Option Prev
  /-- released from reset (R479), locked (R259), stopped by the debugger (R520) -/
  run     : Bool
  locked  : Bool
  stopped : Bool
  /-- a debugger's STEP runs one instruction or pair (R520) -/
  dbgStep : Bool
deriving DecidableEq, Repr

/-- A core held in reset. -/
def Core.held : Core :=
  { lvl := 3, pc := 0, banks := [], ct := [], ec := [], ed := [], scin := 0, srpc := [], srct := [],
    srt15 := [], sreg := [], rootLock := false, detmAct := false, asyncs := [], lost := false, ef := 0,
    gps := 0, gsn := false, grem := 0, gpc := none, step := 0, hdr := none, hold := [], wait := .none,
    got := none, reqs := [], posted := [], passed := [], kept := [], arrived := [], rid := 0, fbuf := [], efirst := false,
    entry := false, lands := [], cyc := 0, prev := none,
    run := false, locked := false, stopped := false, dbgStep := false }

/-- A line of a cache: its number PA[39:3], its 8 words and the tags of its 4 pairs (R286), and what has struck it: word i
at key i, the tag copies of pair j at key 8 + j (R299). -/
structure Line where
  line  : Nat
  dirty : Bool
  words : List Word
  tags  : List Bool
  ups   : List (Nat × Upset)
deriving DecidableEq, Repr

/-- What a line fill serves (R286, R288, R290); `drop`: a prefetch whose line an uncached store has changed since (R210). -/
inductive FillFor where
  | fetch | load | store | preI | preD | drop
deriving DecidableEq, Repr

/-- Where a line comes from: shared memory, an L2 entry, whose words have been taken with the code of each, or the host
(R285, R292). -/
inductive FillFrom where
  | shared
  | l2 (codes : List Nat) (x : Line)
  | host
deriving DecidableEq, Repr

/-- An outstanding line fill: the word it starts at (R286), the word and number of the read that waits for it, whether that reads the
pair that starts there, and the
stores that wait for it (R288): word of the line, value; and token pairs stored: pair of the line, tag. -/
structure Fill where
  use    : FillFor
  src    : FillFrom
  line   : Nat
  word   : Nat
  want   : Option (Nat × Nat)
  stores : List (Nat × Word)
  tags   : List (Nat × Bool)
  pair   : Bool
deriving DecidableEq, Repr

/-- The write-combining buffer (R289): its line, the words written, the pair tags written, and the
CORE cycle of its last store. -/
structure WcBuf where
  line  : Nat
  words : List (Nat × Word)
  tags  : List (Nat × Bool)
deriving DecidableEq, Repr

/-- A write-back to the host window that has not been answered (R288, R289, R295): its number, its line, the line as a
demand access takes it back, and whether a maintenance operation or a gathered store asked for it. -/
structure WbEnt where
  id    : Nat
  line  : Nat
  held  : Option Line
  maint : Bool
deriving DecidableEq, Repr

/-- The caches, second level and TLB of a supervisor core (R285 to R306). -/
structure Svc where
  /-- lines by way × 128 + set -/
  ic    : List (Nat × Line)
  dc    : List (Nat × Line)
  /-- tree pseudo-LRU bits of each set (R287) -/
  ipl   : List (Nat × Nat)
  dpl   : List (Nat × Nat)
  /-- side buffer, oldest line first (R290), and which cache each prefetch was for -/
  side  : List Line
  fills : List Fill
  /-- lines of the latest demand miss of each cache (R290) -/
  lastI : Option Nat
  lastD : Option Nat
  wcb   : Option WcBuf
  /-- store misses to ascending consecutive lines, and the last of them (R289) -/
  scnt  : Nat
  sline : Nat
  stream : Bool
  /-- TLB entries in the formats of SVC_TLBHI and SVC_TLBLO (R302) -/
  tlb   : List (Nat × (Word × Word))
  /-- background operation running: 5, 6 or 7; 0 none (R294); lines and L2 entries it covers -/
  bgop  : Nat
  bgl   : List Nat
  bge   : List Nat
  /-- write-backs that the host has yet to answer (R288, R295), and the number of the next -/
  wbq   : List WbEnt
  wbn   : Nat
  /-- evicted lines offered to L2, oldest first (R293) -/
  offers : List Line
  /-- prefetches that wait for a free fill: for the I-cache or not, and their lines (R286, R290) -/
  pfq   : List (Bool × Nat)
  /-- the L2 region is in use (R291); its first word and stripes; tag words still to be cleared before it is used -/
  l2on  : Bool
  l2reg : Nat × Nat
  l2left : Nat
  /-- D-cache, I-cache in use (R296) -/
  dUse  : Bool
  iUse  : Bool
  /-- the transfer beyond which the core speculates: its issue cycle, the PORT cycle in which that began, and the loads issued (R307) -/
  spec  : Option (Nat × Nat × Nat)
deriving DecidableEq, Repr

/-- The caches after a wake: everything invalid (R298). -/
def Svc.zero : Svc :=
  { ic := [], dc := [], ipl := [], dpl := [], side := [], fills := [], lastI := none, lastD := none,
    wcb := none, scnt := 0, sline := 0, stream := false, tlb := [], bgop := 0, bgl := [], bge := [], wbq := [], wbn := 0, offers := [], pfq := [],
    l2on := false, l2reg := (0, 1), l2left := 0,
    dUse := false, iUse := false, spec := none }

/-- What a transaction on the host master port is for, to route its response (R496). -/
inductive HmpUse where
  /-- a core's load or store of one word, or a token's pair -/
  | coreLoad (k : Nat) (pair : Bool) (id : Nat)
  | coreStore (k : Nat)
  /-- a supervisor's fill of a line; a write-back or emission with its number -/
  | fill (k line : Nat)
  | writeBack (k id : Nat)
  /-- an access of the named unit: 20 JNE, 21 PNE, 25 CPT, 18 MLK (ports of R267), and its own number -/
  | unit (port : Nat) (id : Nat)
deriving DecidableEq, Repr

/-- A transaction on the host master port (R493 to R496): `pers` and `dev` are its AATTR. `at_`: the
PORT cycle of its request; `beats`: the responses so far, oldest first. -/
structure HmpTx where
  tag   : Nat
  use   : HmpUse
  write : Bool
  addr  : Nat
  len   : Nat
  data  : List Word
  pers  : Bool
  dev   : Bool
  at_   : Nat
  beats : List (Nat × Word)
deriving DecidableEq, Repr

/-- A transaction on the host slave port (R495): direction, word index of its first beat (none: AADDR[2:0] is not
0), beats still to be performed with their write data and what each meets, the response beats so far, and whether
the port has accepted it. -/
structure HspTx where
  write : Bool
  at_   : Option Nat
  left  : List (Word × Meet × Upset)
  got   : List (Nat × Word)
  acc   : Bool
deriving DecidableEq, Repr

/-- The host ports beside their registers: HMP transactions waiting for a tag and outstanding, complete
responses not yet taken by their units, tags whose late responses are discarded (R498), and the
responses of the latest HSP transaction, beat by beat (R496, R497), and the HSP transactions not yet answered,
oldest first. -/
structure Ports where
  wait : List HmpTx
  out  : List HmpTx
  done : List HmpTx
  late : List (Nat × Nat)
  /-- outstanding transactions of units that a forced outcome has torn: tag, domain, PORT cycle of the request (R282) -/
  torn : List (Nat × (Nat × Nat))
  hsp  : List (Nat × BitVec 64)
  hspq : List HspTx
deriving DecidableEq, Repr

/-- A request that waits for a grant of its bank port (R278): its port, its address, and the FABRIC cycle from which it
waits. -/
structure Waiter where
  port : Nat
  addr : Nat
  at_  : Nat
  retry : Bool
deriving DecidableEq, Repr

/-- An access of the present PORT cycle to an array of two ports (R269): its word, whether it writes, and its port of
the array, 0 the earlier and 1 the later. -/
structure ArrayAct where
  addr  : Nat
  write : Bool
  side  : Nat
  /-- port of the interconnect (R267), 28 for the scrubber -/
  port  : Nat
deriving DecidableEq, Repr

/-- The memory system beside its registers and contents. -/
structure MemSys where
  /-- words in error as their arrays hold them (R273) -/
  upsets : List (Nat × Upset)
  /-- words queued for the scrubber (R273) -/
  queue  : List Nat
  /-- next word of the scrubber's pass in each array (R274) -/
  pos    : List (Nat × Nat)
  /-- corrected errors of each shared-memory bank in the current pass, and whether a complete FAST pass
      ended under CETHR (R274) -/
  passCe : List (Nat × Nat)
  calm   : List Nat
  /-- banks whose pass has ended with CETHR corrected errors since the latest frame boundary (R274) -/
  hot    : List Nat
  /-- log entries written and not read (R284) -/
  unreadEcc : List Nat
  unreadTb  : List Nat
  /-- result of the admission in progress (R277): code, stripe, bank, plane, entry -/
  adm    : Option (Nat × Nat × Nat × Nat × Nat)
  /-- the pending table as admitted, to become active at the next frame -/
  next   : Option (List (Nat × Word))
  /-- memory domains being cleared after a wake, with the FABRIC cycle in which that ends (R276) -/
  clearing : List (Nat × Nat)
  /-- credit of port p on bank 4s + b in this frame, at key 64 p + 4 s + b (R278) -/
  credit : List (Nat × Nat)
  /-- requests that wait for a grant, and the grants of each bank port in the present PORT cycle, at key
      2 (4s + b) + plane (R278) -/
  waiting : List Waiter
  grants : List (Nat × Nat)
  /-- accesses of the present PORT cycle (R269) -/
  acts   : List ArrayAct
  /-- the scrubber's slots of each array: the frame's number and the slots used in it (R274) -/
  slots  : List (Nat × (Nat × Nat))
deriving DecidableEq, Repr

/-- A request for a journal record that a unit has raised and the journal has yet to take (R342): its
producer (SRC of R338), its owner's number for it, its kind and body. -/
structure RecReq where
  prod : Nat
  id   : Nat
  typ  : Nat
  body : List Word
deriving DecidableEq, Repr

/-- An operation of the point engine (R317, R319): `src` 1 a rack-link report, 2 the WAC, 3 the
restoration queue, 4 a mailbox, 5 the command port; `id` tells its owner's requests apart; `kind` 0 READ,
1 to 7 WOP, 8 the sending of a queued point (R326). -/
structure PneOp where
  src  : Nat
  id   : Nat
  kind : Nat
  pnum : Nat
  val  : Word
  aux  : Word
  /-- QUAL that a report carries (R414) -/
  qual : Nat
  /-- FABRIC cycle of its arrival (R319) -/
  at_  : Nat
deriving DecidableEq, Repr

/-- A journaled operation on its way (R320): its number as a request, the operation (none for a record
of the unit states), and the point as its record leaves it. -/
structure PneJop where
  id   : Nat
  op   : Option PneOp
  pnum : Nat
  val  : Word
  meta_ : Nat
deriving DecidableEq, Repr

/-- A record that is acknowledged and has yet to take effect (R320, R321): its kind, body and CSN, and
the number of the local request, if any, and the acknowledgment's status (R344). -/
structure PneDue where
  kind : Nat
  body : List Word
  csn  : Nat
  jid  : Option Nat
  ack  : Nat
  /-- it has waited for a way, and was counted (R316) -/
  waited : Bool
deriving DecidableEq, Repr

/-- What a completed operation of the WAC or the command port reports to its owner: its status (R318), value,
metadata, CSN and the journal's answer (R344). -/
structure PneDone where
  src    : Nat
  id     : Nat
  status : Nat
  val    : Word
  meta_  : Nat
  csn    : Nat
  ack    : Nat
deriving DecidableEq, Repr

/-- What the PNE keeps of a subordinate unit beside its registers (R322 to R326, R534). -/
structure PUnit where
  /-- consecutive rack cycles without a valid frame, and whether an identity report has come (R323) -/
  miss    : Nat
  /-- its declaration took effect or its OSTATE changed in this rack cycle (R324) -/
  chg     : Bool
  /-- in CONFLICT after cause RESTORE (R325) -/
  stuck   : Bool
  /-- rack cycles since entry to REPLACING (R326) -/
  rest    : Nat
  /-- scan in progress: pass (0 SETPOINT for IN_SERVICE; 1 CALIB, 2 CONFIG, 3 SETPOINT of a restoration)
      and next local index; and whether its image read is outstanding -/
  scan    : Option (Nat × Nat)
  reading : Bool
  /-- local indices queued or sent and not echoed; and echoed ones (R326) -/
  open_   : List Nat
  echoed  : List Nat
  /-- a UNIT_ACCEPT record is on its way -/
  accept  : Bool
  /-- new state of its latest UNIT_STATE record in effect (R442) -/
  logged  : Nat
deriving DecidableEq, Repr

/-- A unit of which nothing is known. -/
def PUnit.zero : PUnit := ⟨0, false, false, 0, none, false, [], [], false, 0⟩

/-- A change to deliver (R321): the point, its value and metadata; and for a point of a calibration pair the value that the
other one had when the change took effect, once it is known (R19). -/
structure Deliv where
  pnum  : Nat
  val   : Word
  meta_ : Nat
  mate  : Option Word
deriving DecidableEq, Repr

/-- The point engine beside its registers. The entries of its cache stand in shared memory (R315). -/
structure Pne where
  /-- operations waiting for admission, oldest first -/
  ops    : List PneOp
  /-- operations admitted that have yet to run, oldest first: their point is being filled, an earlier one comes first, or
      the delivery queue is full (R316, R319, R321) -/
  cur    : List PneOp
  /-- points whose image words are being read, and whether the fill has waited for a way (R316) -/
  fills  : List (Nat × Bool)
  jops   : List PneJop
  /-- records not handed over yet, since the journal is CLOSED (R327) -/
  unsent : List RecReq
  due    : List PneDue
  /-- points with D = 1, with the CSN of the latest record in effect -/
  dirty  : List (Nat × Nat)
  deliv  : List Deliv
  /-- channels of a calibration reload in progress (R19) -/
  reload : List Nat
  /-- points named by a newly written source register, until their values have been delivered (R321) -/
  srcs   : List Nat
  /-- pin table in effect: pinned points -/
  pins   : List Nat
  done   : List PneDone
  /-- 0 not in use; 1 clearing; 2 waiting for the journal; 3 reading the tables; 4 entering commits;
      5 filling pinned points; 6 READY; 7 stopping (R315, R327) -/
  phase  : Nat
  /-- the region in use: first stripe and number of stripes, as BASE and SIZE stood when EN was written to 1 (R315) -/
  region : Nat × Nat
  /-- PORT cycle in which the clearing ends -/
  clrEnd : Nat
  /-- words of the tables read so far -/
  tbl    : Nat
  /-- commits of the ring still to be entered (R327) -/
  enter  : List PneDue
  /-- PORT cycle in which READY last rose, and of the latest age tick -/
  ageFrom : Nat
  ageLast : Nat
  units  : List (Nat × PUnit)
  /-- number of the next request -/
  seq    : Nat
  /-- units accepted, for the WAC: unit, old and new serial (R392) -/
  accepted : List (Nat × Nat × Nat)
deriving DecidableEq, Repr

/-- The point engine after a wake. -/
def Pne.zero : Pne :=
  { ops := [], cur := [], fills := [], jops := [], unsent := [], due := [], dirty := [], deliv := [],
    reload := [], srcs := [], pins := [], done := [], phase := 0, region := (0, 2), clrEnd := 0, tbl := 0, enter := [],
    ageFrom := 0, ageLast := 0, units := [], seq := 0, accepted := [] }

/-- An entry of the send table (R412): QUEUED while `sent` is none, else SENT in that rack cycle. -/
structure SendEnt where
  unit : Nat
  lidx : Nat
  val  : Word
  tag  : Nat
  sent : Option Nat
  /-- QUEUED again for want of an answer (R413) -/
  retx : Bool
deriving DecidableEq, Repr

/-- A valid uplink slot of the present rack cycle (R404, R411). -/
structure Uplink where
  unit   : Nat
  ring   : Nat
  model  : Nat
  serial : Nat
  aepoch : Nat
  aholder : Nat
  limp   : Bool
  echop  : Word
deriving DecidableEq, Repr

/-- A report on its way to the PNE (R414). -/
structure RlkReport where
  pnum : Nat
  val  : Word
  qual : Nat
deriving DecidableEq, Repr

/-- The rack link beside its registers. -/
structure Rlk where
  /-- send table, oldest queue position first -/
  send   : List SendEnt
  /-- TAG counter of each unit -/
  tags   : List (Nat × Nat)
  /-- report queue, oldest first -/
  reps   : List RlkReport
  /-- number of rack cycles started, and the PORT cycle of the present one's start -/
  cyc    : Nat
  start  : Option Nat
  /-- RLK_EPOCH and LIMPN as latched for the cycle (R407) -/
  lat    : Word
  latLimpn : Nat
  /-- a write of RLK_EPOCH in the PORT cycle of a start waits for the following one (R417) -/
  epAt   : Nat
  epOld  : Word
  /-- frame sent on each ring in this cycle, words 0 to W - 1 -/
  frames : List (Nat × List Word)
  /-- rings whose frame has started to return, has been aborted or wrong, has counted -/
  began  : List Nat
  bad    : List Nat
  counts : List Nat
  ups    : List Uplink
  /-- uplink slots seen in this cycle: ring and position -/
  seen   : List (Nat × Nat)
  /-- ECHOP of each unit's previous valid uplink (R416) -/
  echop  : List (Nat × Word)
  /-- configured units that reported AHOLDER = 1 - SIDE at the latest cycle end (R427) -/
  partner : Nat
  /-- rings enabled before the present cycle's start -/
  live   : List Nat
  /-- hi_ber monitor of each lane: the PORT cycle in which its window began, and the invalid sync headers in it (R399) -/
  ber    : List (Nat × Nat × Nat)
deriving DecidableEq, Repr

/-- The rack link after a wake. -/
def Rlk.zero : Rlk :=
  { send := [], tags := [], reps := [], cyc := 0, start := none, lat := 0, latLimpn := 0, epAt := 0, epOld := 0,
    frames := [], began := [], bad := [], counts := [], ups := [], seen := [], echop := [], partner := 0, live := [], ber := [] }

/-- A counter write of the WAC on its way (R389): switch, counter, amount, the slot it empties (none for
a write-through or a reset, which writes 0), and its step: 0 to be read, 1 being read, 2 being written. -/
structure WacWrite where
  t    : Nat
  k    : Nat
  d    : Nat
  slot : Option Nat
  zero : Bool
  step : Nat
deriving DecidableEq, Repr

/-- The wear accountant beside its registers. -/
structure Wac where
  /-- a round is to be updated from this switch on; its start in FABRIC cycles (R383) -/
  round  : Option (Nat × Nat)
  /-- the update in progress: words 0 and 1 of its switch's configuration and the value of its channel at its start (R384) -/
  upd    : Option (Word × Word × Word)
  /-- last good reference temperature of each switch (R384) -/
  tref   : List (Nat × Word)
  /-- counter writes in order; the first is the one outstanding (R389) -/
  writes : List WacWrite
  /-- checkpoint running, with counts written and refused, lowest and highest CSN (R390, R391) -/
  ck     : Bool
  ckOk   : Nat
  ckBad  : Nat
  ckLo   : Nat
  ckHi   : Nat
  ckNum  : Nat
  /-- EN has been written 0 and the disable is under way; its checkpoint runs (R393) -/
  ending : Bool
  lastCk : Bool
  /-- PORT cycle from which the checkpoint period counts -/
  ckFrom : Nat
  /-- last PORT cycle at which a round start was served or skipped, plus 1 -/
  rounded : Nat
  /-- switches whose reset is in progress, with cause and serials (R392); and whether WEAR_RESET of the
      first is with the journal -/
  resets : List (Nat × Nat × Nat × Nat)
  asked  : Bool
  /-- the first one's counters are being written 0 -/
  zeros  : Bool
  seq    : Nat
  /-- input points not resident whose read is with the PNE, and the results that have come: reported QUAL
      (15: the read failed) and value -/
  asking : List Nat
  reads  : List (Nat × Nat × Word)
  /-- the WEAR_CKPT record is with the journal -/
  ckSent : Bool
deriving DecidableEq, Repr

/-- The wear accountant after a wake. -/
def Wac.zero : Wac :=
  { round := none, upd := none, tref := [], writes := [], ck := false, ckOk := 0, ckBad := 0, ckLo := 0, ckHi := 0,
    ckNum := 0, ending := false, lastCk := false, ckFrom := 0, rounded := 0, resets := [], asked := false, zeros := false, seq := 0,
    asking := [], reads := [], ckSent := false }

/-- A commit in the journal's tracking (R335, R339, R343): admitted and not yet dried. -/
structure Commit where
  csn    : Nat
  src    : Nat
  /-- number of the local request; none for a mirrored commit -/
  req    : Option Nat
  sec    : Word
  ns     : Nat
  recs   : List (Nat × List Word)
  /-- record words, record by record; empty until STAGED -/
  words  : List (List Word)
  size   : Nat
  staged : Bool
  /-- head offset of its first word, and ring words it takes with the PAD before it -/
  pos    : Option Nat
  span   : Nat
  /-- words not yet persisted, and the PORT cycle in which the last one was -/
  left   : Nat
  perAt  : Nat
  /-- MIRMODE at admission, and MIRRORED -/
  mir    : Bool
  mirrored : Bool
  acked  : Bool
  /-- applied to the image and published, but not yet acknowledged -/
  dried  : Bool
deriving DecidableEq, Repr

/-- A burst to or from the host that the JNE waits for (R331): words still to go, its CSN (0: none), its
retries, and whether the running activity waits for it. -/
structure JBurst where
  id    : Nat
  write : Bool
  addr  : Nat
  len   : Nat
  data  : List Word
  csn   : Nat
  tries : Nat
  own   : Bool
deriving DecidableEq, Repr

/-- An open segment as the superblock lists it (R363). -/
structure SegOpen where
  o     : Nat
  carry : Bool
  unit  : Nat
  slot  : Nat
  cur   : Nat
  seq   : Nat
deriving DecidableEq, Repr

/-- A medium unit as the superblock lists it (R363). -/
structure SbUnit where
  m      : Nat
  cap    : Nat
  head   : Nat
  tail   : Nat
  pinout : Nat
  live   : Nat
deriving DecidableEq, Repr

/-- The contents of a superblock (R363). -/
structure Superblock where
  gen     : Nat
  jid     : Word
  applied : Nat
  rtail   : Nat
  nextseq : Nat
  nact    : Nat
  fmtsec  : Word
  fmtns   : Nat
  units   : List SbUnit
  opens   : List SegOpen
  /-- pinned segments: unit, slot, SEQ -/
  pinned  : List (Nat × Nat × Nat)
deriving DecidableEq, Repr

/-- A superblock of an empty journal. -/
def Superblock.zero : Superblock :=
  { gen := 0, jid := 0, applied := 0, rtail := 0, nextseq := 1, nact := 0, fmtsec := 0, fmtns := 0, units := [],
    opens := [], pinned := [] }

/-- A segment that holds history (R358 to R360): where it lies, its SEQ, its FIRSTCSN and its extent in
pages. -/
structure Segment where
  unit  : Nat
  slot  : Nat
  seq   : Nat
  first : Nat
  /-- 0: not known yet (R360) -/
  pages : Nat
deriving DecidableEq, Repr

/-- What a superblock write publishes (R366, R368, R369, R371, R372, R376). -/
inductive JPub where
  | formatted
  | recovered
  | batch
  | sealed (o : Nat)
  | opened (carry : Bool) (o unit slot : Nat)
  | reclaimed (unit : Nat)
  | discarded (unit : Nat)
  | pin (seq : Nat)
  | unpin (seq : Nat)
  | resynced (c0 : Nat)
deriving DecidableEq, Repr

/-- A decision point of the JNE's activities. -/
inductive JAct where
  | copyWord (c : Nat)
  | copyRest (c : Nat)
  | evalCopies
  | recHead
  | recLen
  | recBody
  | recEnd
  | pinMeta (n : Nat) (pin : Bool)
  | pinTable (n : Nat) (pin : Bool)
  | infoDone (m page : Nat)
  | fmtCsn
  | fmtSuper
  | publish (p : JPub)
  | published (p : JPub)
  | place
  | batch
  | batchPart
  | batchWrote (last : Bool)
  | seal (o pages : Nat)
  | openSeg (carry : Bool) (o : Nat)
  | reclaim
  | hdrGot (m slot page tries : Nat)
  | hdrRead (m slot page : Nat)
  | dirFill
  | scan (m i : Nat)
  | scanEnd (m i : Nat)
  | srcNext (page : Nat)
  | srcDone (page n tries : Nat)
  | srcWords (page n : Nat)
  | carry
  | carryPages
  | carryWrote
  | segCmd
  | zeroed
deriving DecidableEq, Repr

/-- A step of the JNE's running activity: words written to or read from the host, a submission that is
awaited (READ 1, WRITE 2, TRIM 3, INFO 4) or not, its doorbell once its entry is written, a commit of its own and the wait until its commits are
persisted, a decision. -/
inductive JOp where
  | wr (addr : Nat) (data : List Word)
  | zero (addr n : Nat)
  | rd (addr n : Nat)
  | sub (m op page npg buf : Nat)
  | info (m page : Nat)
  | ring (m tag op page : Nat)
  | await (m tag : Nat)
  | own (kind : Nat) (body : List Word)
  | settle
  | act (a : JAct)
deriving DecidableEq, Repr

/-- A submission outstanding on a medium unit (R334). -/
structure MqSub where
  m    : Nat
  tag  : Nat
  op   : Nat
  page : Nat
deriving DecidableEq, Repr

/-- The rings of a medium unit (R334): next entries, expected PHASE, whether the completion entry is being read, and
whether it is to be read again. -/
structure MqRing where
  sub   : Nat
  comp  : Nat
  phase : Bool
  asked : Bool
  again : Bool
deriving DecidableEq, Repr

/-- Rings at entry 0 with PHASE 1 expected. -/
def MqRing.zero : MqRing := ⟨0, 0, true, false, false⟩

/-- The journal engine beside its registers. -/
structure Jne where
  /-- commits admitted and not dried, oldest first -/
  log    : List Commit
  /-- the JNE's own records waiting for admission; mirrored commits waiting (R342, R352) -/
  ownq   : List (Nat × List Word)
  mirq   : List (List (List Word))
  /-- producers' requests that have waited for BUDGET, RING or MIRROR: producer and number (R342) -/
  stalled : List (Nat × Nat)
  /-- requests that wait, the one that has waited longest first (R342) -/
  waits  : List (Nat × Nat)
  bursts : List JBurst
  nextId : Nat
  /-- next ring word, and ring words that hold undried records -/
  wpos   : Nat
  used   : Nat
  /-- admissions in the bucket, and the PORT cycle of its latest gain (R342) -/
  bucket : Nat
  paced  : Nat
  /-- budget before the latest write of JNE_HOLDUP, and the SLOW cycle of that write (R347) -/
  oldB   : Nat
  bAt    : Nat
  /-- SLOW cycle of the latest admission, plus 1 -/
  lastAdm : Nat
  /-- EN has been written 0; a reset or power-down waits for U = 0 (R351, R356) -/
  closing : Bool
  shut   : Bool
  /-- block time of the registration of RN_PFAIL, and PORT cycle in which it fell (R350) -/
  pfAt   : Word
  pfLow  : Option Nat
  /-- mirror LIVE (R353) -/
  live   : Bool
  /-- SLOW cycle of the latest change to STALE, plus 1 (R353) -/
  staleAt : Nat
  /-- commit whose PADs in the ring have been written (R335, R345) -/
  padCsn : Nat
  /-- superblock in effect, and the one being written -/
  sb     : Superblock
  nsb    : Superblock
  /-- running activity, its words read, result of its latest submission -/
  script : List JOp
  buf    : List Word
  mqSt   : Nat
  mqVal  : Word
  /-- opening: the two copies; position, CSN and records of the commit being read, commits recovered -/
  copies : List (Nat × List Word)
  rpos   : Nat
  rstart : Nat
  rcsn   : Nat
  rrecs  : List (List Word)
  rcnt   : Nat
  /-- recovery or formatting has run to its end: 1, 2 -/
  ended  : Nat
  /-- batch: its commits' last CSN, records still to be written, segment, pages being
  written, next o -/
  bLast  : Nat
  bRecs  : List (List Word)
  bSeg   : Nat
  bPages : Nat
  bNext  : Nat
  /-- reclaim: source, its stream words (none: lost), records kept and dropped, pages to append,
  their cursor and the CARRY segment's SEQ -/
  src    : Option Segment
  srcWs  : List (Option Word)
  kept   : Nat
  dropped : Nat
  cPages : List (List Word)
  cBase  : Nat
  cSeq   : Nat
  /-- segment command under way: PIN 1, UNPIN 2 -/
  cmd    : Nat
  /-- the segments that hold history -/
  dir    : List Segment
  /-- SEG_SEAL records seen: SEQ, CSN and page count; and whether all history has been searched for them (R360) -/
  seals  : List (Nat × Nat × Nat)
  scanned : Bool
  /-- INFO submissions to be made: unit, page (R361) -/
  infoq  : List (Nat × Nat)
  rings  : List (Nat × MqRing)
  subs   : List MqSub
  nextTag : Nat
  /-- PORT cycles of the latest poll and of the latest periodic INFO -/
  polled : Nat
  infoAt : Nat
  /-- units to be readmitted at the next batch (R375) -/
  readmit : List Nat
  /-- results for the command port: number, status, CSN -/
  cptDone : List (Nat × Nat × Nat)
  /-- drydown is held, and ring words are kept for the partner above this CSN (R441) -/
  held   : Bool
  keep   : Option Nat
  /-- the ring is being zeroed for a resynchronisation: nothing is admitted (R441) -/
  zeroing : Bool
  /-- the newest dried commit, and the CRC field of its last record (R441) -/
  dryCsn : Nat
  dryCrc : Nat
deriving DecidableEq, Repr

/-- The journal engine after a wake. -/
def Jne.zero : Jne :=
  { log := [], ownq := [], mirq := [], stalled := [], waits := [], bursts := [], nextId := 0, wpos := 0, used := 0, bucket := 64,
    paced := 0, oldB := 0, bAt := 0, lastAdm := 0, closing := false, shut := false, pfAt := 0, pfLow := none, live := false, staleAt := 0, padCsn := 0,
    sb := Superblock.zero, nsb := Superblock.zero, script := [], buf := [], mqSt := 0, mqVal := 0, copies := [],
    rpos := 0, rstart := 0, rcsn := 0, rrecs := [], rcnt := 0, ended := 0, bLast := 0, bRecs := [], bSeg := 0,
    bPages := 0, bNext := 0, src := none, srcWs := [], kept := 0, dropped := 0, cPages := [], cBase := 0, cSeq := 0, cmd := 0, dir := [], seals := [], scanned := false,
    infoq := [],
    rings := [], subs := [], nextTag := 0, polled := 0, infoAt := 0, readmit := [], cptDone := [], held := false,
    keep := none, zeroing := false, dryCsn := 0, dryCrc := 0 }

/-- A mirror-link frame sent in the present interval: lane and words (R431, R432). -/
structure MlkFrame where
  lane  : Nat
  words : List Word
deriving DecidableEq, Repr

/-- A complete generation that waits for the end of an installation (R444): GEN, ELIG, copy table. -/
structure MlkDone where
  gen  : Nat
  elig : Bool
  tbl  : List Word
deriving DecidableEq, Repr

/-- The mirror link and the pair role logic beside their registers. -/
structure Mlk where
  /-- interval starts so far (ISEQ), PORT cycle of the latest one plus 1 -/
  iseq   : Nat
  last   : Nat
  /-- frames sent in the present interval, and the PORT cycle in which lane 1 is free again -/
  sent   : List MlkFrame
  lane1  : Nat
  /-- a valid heartbeat has arrived since the latest interval start, compatible or not (R434) -/
  heard  : Bool
  /-- interval starts since the latest heartbeat of a compatible partner arrived (R427), its body -/
  hbAge  : Option Nat
  hb     : List Word
  /-- cycle ends since entry to the present role, and one with QU since the clocks last stopped (R427,
  R428, R446) -/
  ends   : Nat
  quEnd  : Bool
  /-- ARMED written to 1 since entry to STRANDED -/
  armedSince : Bool
  /-- MS holds; a generation was being received when it first held (R445) -/
  msHeld : Bool
  behind : Bool
  /-- slots whose image-buffer record has been received, with their NS (R437) -/
  got    : List (Nat × Nat)
  /-- active: next CSN to send, first CSN admitted after sending began, highest CSN acknowledged by the
  partner; full resynchronisation: RSTART sent, next page, RSDONE sent (R439, R441) -/
  next   : Nat
  mark   : Nat
  ackd   : Nat
  full   : Bool
  begun  : Bool
  page   : Nat
  done   : Bool
  /-- unacknowledged commits sent: CSN and the interval in which it was (R440) -/
  sentAt : List (Nat × Nat)
  /-- standby: resynchronisation running, its c0, next page; RSREQ; ACKCSN last sent -/
  rs     : Bool
  rsC0   : Nat
  rsPage : Nat
  rsreq  : Bool
  ackSent : Nat
  /-- words read for the next IMGPAGE frame -/
  words  : List Word
  /-- active: bulk copy being sent: entry, its next word, buffer offset, CRC state (R443) -/
  bcEnt  : Nat
  bcWord : Nat
  bcOff  : Nat
  bcCrc  : Nat
  bcElig : Bool
  bcWords : List Word
  /-- standby: generation being received (0 none), contiguous words so far, CRC state (R444) -/
  rxGen  : Nat
  rxOff  : Nat
  rxCrc  : Nat
  rxDone : Option MlkDone
  /-- CURGEN lies in the half at MLK_BCBUF + MLK_BCHALF -/
  curHi  : Bool
  /-- installation: entries still to install, word of the first one, buffer offset -/
  inst   : List (Word × Word)
  instW  : Nat
  instOff : Nat
  /-- PORT cycle of the latest evaluation plus 1 (R427) -/
  evalAt : Nat
  /-- reports handed to the PNE and still to be forwarded (R442) -/
  fwd    : List RlkReport
  /-- active: the interval in which RSTART was sent (R441) -/
  rsAt   : Nat
  /-- hi_ber monitor of each lane, as in the rack link (R399) -/
  ber    : List (Nat × Nat × Nat)
deriving DecidableEq, Repr

/-- The mirror link after a wake. -/
def Mlk.zero : Mlk :=
  { iseq := 0, last := 0, sent := [], lane1 := 0, heard := false, hbAge := none, hb := [], ends := 0, quEnd := false,
    armedSince := false, msHeld := false, behind := false, got := [], next := 0, mark := 0, ackd := 0, full := false,
    begun := false, page := 0, done := false, sentAt := [], rs := false, rsC0 := 0, rsPage := 0, rsreq := false, ackSent := 0,
    words := [], bcEnt := 0, bcWord := 0, bcOff := 0, bcCrc := 0, bcElig := false, bcWords := [], rxGen := 0, rxOff := 0, rxCrc := 0,
    rxDone := none, curHi := false, inst := [], instW := 0, instOff := 0, evalAt := 0, fwd := [], rsAt := 0, ber := [] }

/-- A buffer of the command port beside its register (R451, R456, R462): its host-window area, the request's
word 0, its deadline in PORT cycles, and whether it becomes FREE when its reply has been copied. -/
structure CptBuf where
  area : Option Nat
  w0   : Word
  dl   : Nat
  drop : Bool
  /-- PORT cycle of its submission plus 1 (R462) -/
  sub  : Nat
deriving DecidableEq, Repr

/-- A buffer of which nothing is known. -/
def CptBuf.zero : CptBuf := ⟨none, 0, 0, false, 0⟩

/-- A request for a buffer (R452): requester, host-window area of a doorbell, and, for a read of CPT_ALLOC,
where its value goes: 0 the response, k + 1 core k. -/
structure CptAsk where
  req  : Nat
  area : Option Nat
  sink : Nat
deriving DecidableEq, Repr

/-- A packet being read from the host (R456): buffer, area, words of it there, words asked for. -/
structure CptFetch where
  buf  : Nat
  area : Nat
  got  : Nat
  want : Nat
deriving DecidableEq, Repr

/-- A reply or notice being written to the host (R456): buffer, if it has one, its words 0, 1 and on, words
after word 0 still to be written, and whether word 0 has been issued. -/
structure CptCopy where
  buf   : Option Nat
  area  : Nat
  words : List Word
  left  : Nat
  last  : Bool
deriving DecidableEq, Repr

/-- An event in the queue (R465): code, block time, journal time and body. -/
structure CptEvent where
  code : Nat
  at_  : Word
  sec  : Word
  ns   : Nat
  body : List Word
deriving DecidableEq, Repr

/-- The command that the interpreter carries out (R461, R462): buffer, opcode, items done, whether one is
outstanding, reply words so far, and whether an item has failed. -/
structure CptRun where
  buf   : Nat
  opc   : Nat
  item  : Nat
  busy  : Bool
  out   : List Word
  bad   : Bool
deriving DecidableEq, Repr

/-- The command port beside its registers. -/
structure Cpt where
  bufs  : List (Nat × CptBuf)
  /-- buffers QUEUED, oldest first -/
  queue : List Nat
  /-- requests registered in this cycle, and grants not complete: FABRIC cycle, request, buffer -/
  asks  : List CptAsk
  grants : List (Nat × CptAsk × Nat)
  fetch : List CptFetch
  copies : List CptCopy
  /-- buffer-less replies waiting, oldest first -/
  notices : List CptCopy
  /-- event queue; events lost since the last EVLOST; event being written, its stage: 1 words 1 to 7, 2
  word 0, 0 none -/
  evq   : List CptEvent
  lost  : Nat
  evNow : Option CptEvent
  evStage : Nat
  run   : Option CptRun
  /-- number of the interpreter's latest operation -/
  seq   : Nat
  /-- a drain has begun (R464) -/
  drain : Bool
deriving DecidableEq, Repr

/-- The command port after a wake. -/
def Cpt.zero : Cpt :=
  { bufs := [], queue := [], asks := [], grants := [], fetch := [], copies := [], notices := [], evq := [], lost := 0,
    evNow := none, evStage := 0, run := none, seq := 0, drain := false }

/-- What PCTL does with a switched domain beside its register (R473 to R477). -/
structure PdRun where
  /-- operation in progress, as OP numbers it; 0 none -/
  op  : Nat
  /-- 0 idle; 1 waits to raise its request; 2 waits for the acknowledgment; 3 is being cleared; 4 drains; 5 waits
      to lower its request; 6 waits for the acknowledgment to fall; 7 waits for U = 0 (R351); 8 drained ahead of
      step 3 of a warm reset; 9 waits for the host's responses to torn transactions (R282) -/
  ph  : Nat
  /-- PORT cycle of the request's edge or of the fence -/
  at_ : Nat
  /-- FRESET or FOFF that waits for power-up step 2 (R476) -/
  fop : Nat
deriving DecidableEq, Repr

/-- A domain with nothing under way. -/
def PdRun.idle : PdRun := ⟨0, 0, 0, 0⟩

/-- The Flacon firmware's load of a manifest (R485): the manifest's words, the entry at hand, and whether every
entry has passed, so that cores are being released. -/
structure Manifest where
  words : List Word
  i     : Nat
  go    : Bool
deriving DecidableEq, Repr

/-- The platform controller beside its registers. -/
structure Pctl where
  dom    : List (Nat × PdRun)
  /-- pins RN_PORST_N and RN_SYSRST_N asserted; RN_TEST_MODE high (R481, R508) -/
  porst  : Bool
  sysPin : Bool
  test   : Bool
  /-- the PLL is enabled (R470); lock was lost while the block ran (R471) -/
  pll    : Bool
  lol    : Bool
  /-- reset sequence: 0 none; 1 power-on, waits for lock; 2 step 2, domains other than memory drain; 3 step 3;
      4 boot set; 5 boot fill (R481) -/
  seq    : Nat
  /-- cause of the reset in progress, and of one that follows it (R482) -/
  cause  : Nat
  next   : Option Nat
  /-- contents of the boot ROM (R483); words beyond its end are zero -/
  rom    : List Word
  /-- FABRIC cycle in which the boot fill ends -/
  fill   : Option Nat
  /-- cores that leave reset in the next SLOW cycle (R479) -/
  go     : List Nat
  man    : Option Manifest
deriving DecidableEq, Repr

/-- The debug port beside its registers (R509 to R521). -/
structure Dbg where
  /-- pins RN_DBGCAP, and AUTHLVL (R514) -/
  cap    : Nat
  auth   : Nat
  /-- the front end is in step with the debugger (R511) -/
  sync   : Bool
  /-- status of the latest transaction as the debugger samples it, and its data (R510) -/
  sts    : Nat
  data   : Word
  /-- CHALCNT; CHAL0 to CHAL2; a challenge is valid (R515) -/
  chalCnt : Word
  chal   : List Word
  chalOk : Bool
  resp   : List (Nat × Word)
  /-- the check that runs: REQ and its PORT cycle; PORT cycle in which a lockout began; failures -/
  check  : Option (Nat × Nat)
  lock   : Option Nat
  fails  : Nat
  /-- DBG_KEY words written since power-on reset (R516) -/
  key    : List (Nat × Word)
  /-- HALT_REFUSED, HALTNOACK, WCHKERR, MEMERR (R512) -/
  hrefused : Bool
  hnoack : Bool
  wchk   : Bool
  memerr : Bool
  /-- DP_MADDR; memory access: 0 none, 1 read, 2 write, 3 read complete, 4 a read whose register answers later (R452); its data; RCODE of the last one (R517) -/
  maddr  : Word
  acc    : Nat
  accW   : Word
  rcode  : Nat
  /-- words of the virtual terminal (R521) -/
  vtOut  : Option Word
  vtIn   : Option Word
  /-- the debug-halt source of R33 is asserted; HALT registered in that PORT cycle, and the pairs whose safe-entry
      reports have not come (R518); end of a STEP (R519) -/
  src    : Bool
  wait   : Option (Nat × List Nat)
  stepTo : Option Nat
  /-- cores asked to STOP (R520) -/
  stops  : List Nat
  /-- cores that have resumed and whose next instruction no breakpoint stops -/
  skip   : List Nat
  /-- cores whose access has matched a watchpoint and that stop after it (R520) -/
  wps    : List Nat
deriving DecidableEq, Repr

/-- The debug port after a power-on reset; its pins read `cap`. -/
def Dbg.zero (cap : Nat) : Dbg :=
  { cap := cap, auth := 0, sync := true, sts := 0xF, data := 0, chalCnt := 0, chal := [], chalOk := false, resp := [],
    check := none, lock := none, fails := 0, key := [], hrefused := false, hnoack := false, wchk := false,
    memerr := false, maddr := 0, acc := 0, accW := 0, rcode := 0, vtOut := none, vtIn := none, src := false,
    wait := none, stepTo := none, stops := [], skip := [], wps := [] }

/-- An event packet that a unit has raised for the command port (R466). -/
structure EvReq where
  cause : Nat
  body  : List Word
deriving DecidableEq, Repr

/-- A trace event in the trace unit's queue (R522), with the block time of the event. -/
structure TraceEv where
  kind : Nat
  src  : Nat
  data : Nat
  at_  : Word
deriving DecidableEq, Repr

/-- What one unit has raised for another that has yet to take it. -/
structure Sig where
  /-- asynchronous faults: core, cause code, CAUSEV (R251) -/
  asyncs : List (Nat × Nat × Word)
  recs   : List RecReq
  evs    : List EvReq
  /-- the trace unit's queue, and events lost since the last LOST entry (R522) -/
  traces : List TraceEv
  tlost  : Nat
deriving DecidableEq, Repr

/-- How an access completed: the code of R266 and the data of a read. -/
structure Resp where
  code : Nat
  data : Word
deriving DecidableEq, Repr

/-- How the hardware changes a field that software clears (R12): bits set, a count added, a largest value raised. -/
inductive HwKind where
  | bits | count | largest
deriving DecidableEq, Repr

/-- A change of a register's field that the hardware has made in the present PORT cycle (R12). -/
structure HwSet where
  addr : Nat
  fld  : Fld
  kind : HwKind
  v    : Nat
deriving DecidableEq, Repr

/-- The state of the block. -/
structure State where
  /-- commands waiting, first in, first out -/
  pending : List Instr
  /-- PORT cycles since block time was last zero without wrap; block time is its low 48 bits (R3) -/
  port    : Nat
  /-- the PLL-derived clocks run (R470) -/
  running : Bool
  /-- the integration parameters (R505) -/
  par     : Params
  /-- behaviour level in effect (R486) -/
  lvl     : Nat
  /-- every register of the register space, by word address; unlisted: its reset value -/
  regs    : List (Nat × Word)
  /-- the block's memories by word address (R263); unlisted: zero, as a domain's wake clears them -/
  mem     : List (Nat × Word)
  /-- addresses whose token tag is 1, rising (R231) -/
  tags    : List (Nat × Bool)
  /-- number of the next free value (MODEL'S OWN; R9) -/
  free    : Nat
  /-- what the hardware has set in registers in the present PORT cycle (R12) -/
  sets    : List HwSet
  /-- completion of the latest access -/
  resp    : Resp
  sig     : Sig
  /-- the block is halted: HALTED of DP_STAT (R518) -/
  halted  : Bool
  /-- the pair role logic requests drive (R39, R430) -/
  drvWant : Bool
  ssp     : Ssp
  cores   : List (Nat × Core)
  /-- caches and TLB of the supervisor cores, by core number -/
  svc     : List (Nat × Svc)
  ports   : Ports
  msys    : MemSys
  cvp     : Cvp
  ae      : Ae
  dm      : Dm
  sem     : Sem
  intc    : Intc
  pne     : Pne
  rlk     : Rlk
  wac     : Wac
  jne     : Jne
  mlk     : Mlk
  cpt     : Cpt
  pctl    : Pctl
  dbg     : Dbg
deriving DecidableEq, Repr

/-- Why a command stops with a fault. -/
inductive Fault where
  /-- Raised by no meaning of this model: a command the spec gives an effect is run. Safe. -/
  | none_
deriving DecidableEq, Repr

/-- Why a command is refused. -/
inductive Refusal where
  /-- Raised by the dispatch for a row without a meaning yet. Safe: the run stops. -/
  | notModelled (mnemonic : String)
deriving DecidableEq, Repr

/-- The block while RN_PORST_N is asserted and nothing has been written: every domain OFF, the PLL
off, every register at its reset value (R13, R481). -/
def State.reset : State :=
  { pending := [], port := 0, running := false, par := Params.default, lvl := 3, regs := [], mem := [], tags := [],
    free := 0, sets := [], resp := ⟨0, 0⟩, sig := ⟨[], [], [], [], 0⟩, halted := false, drvWant := false, ssp := Ssp.zero,
    cores := [], svc := [], ports := ⟨[], [], [], [], [], [], []⟩,
    msys := ⟨[], [], [], [], [], [], [], [], none, none, [], [], [], [], [], []⟩,
    cvp := ⟨[], [], [], [], [], [], [], [], [], 0, 0, [], false, 0, [], [], []⟩,
    ae := ⟨[], [], [], [], [], [], [], [], [], []⟩,
    dm := ⟨[], 0, 0, none, 0, false, 0, 0, [], 0, [], []⟩,
    sem := ⟨[], false, [], [], [], []⟩,
    intc := ⟨[], [], [], [], [], [], []⟩,
    pne := Pne.zero, rlk := Rlk.zero, wac := Wac.zero, jne := Jne.zero, mlk := Mlk.zero, cpt := Cpt.zero,
    pctl := ⟨[], true, false, false, false, false, 0, 0, none, [], none, [], none⟩, dbg := Dbg.zero 0 }

end Sys2Proof.Machine
end

