-- ==== Sys2Proof/Machine/Table.lean ====
section
/-! DEFINITION. Sparse data in one canonical form: a list of (key, value) pairs with strictly rising
keys and no entry equal to what an unlisted key reads as. -/

namespace Sys2Proof.Machine

/-- The value at a key; `d` is what an unlisted key reads as. -/
def tget {α : Type} (d : α) : List (Nat × α) → Nat → α
  | [], _ => d
  | (k, v) :: r, a => if a = k then v else tget d r a

/-- The entries of other keys. -/
def terase {α : Type} (l : List (Nat × α)) (a : Nat) : List (Nat × α) := l.filter (fun p => p.1 != a)

/-- Set the value at a key; setting it to `d` removes the entry. -/
def tset {α : Type} [DecidableEq α] (d : α) : List (Nat × α) → Nat → α → List (Nat × α)
  | [], a, x => if x = d then [] else [(a, x)]
  | (k, v) :: r, a, x =>
    if a < k then (if x = d then terase ((k, v) :: r) a else (a, x) :: (k, v) :: r)
    else if a = k then (if x = d then terase r a else (a, x) :: r)
    else (k, v) :: tset d r a x

/-- The keys rise strictly, all above `lo` (a bound one above the last key seen), and no entry holds
its key's default. -/
def twfFrom {α : Type} [DecidableEq α] (dflt : Nat → α) : Nat → List (Nat × α) → Bool
  | _, [] => true
  | lo, (k, v) :: r => decide (lo ≤ k) && decide (v ≠ dflt k) && twfFrom dflt (k + 1) r

/-- The canonical form. -/
def twf {α : Type} [DecidableEq α] (dflt : Nat → α) (l : List (Nat × α)) : Bool := twfFrom dflt 0 l

end Sys2Proof.Machine
end

