-- ==== Sys2Proof/Machine/Ops.lean ====
section
/-! DEFINITION. The named operations over registers, memory, free values and the signals between
units, which every meaning uses. -/

namespace Sys2Proof.Machine

/-- The outcome of every command. -/
abbrev Out := Host.Outcome State Fault Refusal

/-- A command that always completes. -/
def ok (s : State) : Out := .next s

/-- A command whose event occurs only under its condition; otherwise nothing happens. -/
def onlyIf (c : Bool) (s t : State) : Out := .next (if c then t else s)

/-! Registers. -/

/-- The stored value of a register (no effect of a read). -/
def rd (s : State) (a : Nat) : Word := tget (regDefault s.par s.lvl a) s.regs a

/-- Store a register's value. -/
def wr (s : State) (a : Nat) (v : Word) : State :=
  { s with regs := tset (regDefault s.par s.lvl a) s.regs a v }

/-- The value of a field. -/
def rf (s : State) (a : Nat) (f : Fld) : Nat := f.get (rd s a)

/-- Set a field. -/
def wf (s : State) (a : Nat) (f : Fld) (v : Nat) : State := wr s a (f.put (rd s a) v)

/-- A one-bit field as a Bool. -/
def rb (s : State) (a : Nat) (f : Fld) : Bool := rf s a f != 0

/-- A change of a field by the hardware, for an access of software in the same FABRIC cycle (R12). -/
def hwNote (s : State) (x : HwSet) : State := { s with sets := s.sets ++ [x] }

/-- Set a one-bit field. -/
def wb (s : State) (a : Nat) (f : Fld) (b : Bool) : State :=
  { wf s a f (b2n b) with sets := if b then s.sets ++ [⟨a, f, .bits, 1⟩] else s.sets }

/-- Bit i of a field. -/
def rbit (s : State) (a : Nat) (f : Fld) (i : Nat) : Bool := (rf s a f).testBit i

/-- Set bit i of a field. -/
def wbit (s : State) (a : Nat) (f : Fld) (i : Nat) (b : Bool) : State :=
  { wr s a (setBit (rd s a) (f.lo + i) b) with sets := if b then s.sets ++ [⟨a, f, .bits, 2 ^ i⟩] else s.sets }

/-- Add to a counter that saturates at the field's largest value. -/
def inc (s : State) (a : Nat) (f : Fld) (n : Nat := 1) : State :=
  hwNote (wf s a f (satAdd (f.span - 1) (rf s a f) n)) ⟨a, f, .count, n⟩

/-- Raise a field to at least `v` (a maximum since last read), saturating. -/
def maxTo (s : State) (a : Nat) (f : Fld) (v : Nat) : State :=
  hwNote (wf s a f (max (rf s a f) (min v (f.span - 1)))) ⟨a, f, .largest, min v (f.span - 1)⟩

/-! Free values (R9). -/

/-- The next free value, and the state that has used it. -/
def fresh (s : State) : BitVec 112 × State := (Config.freeValue s.free, { s with free := s.free + 1 })

/-- A free word. -/
def freshWord (s : State) : Word × State := ((Config.freeValue s.free).setWidth 48, (fresh s).2)

/-- A free choice between two behaviours. -/
def freshBit (s : State) : Bool × State := ((Config.freeValue s.free).getLsbD 0, (fresh s).2)

/-! Clocks. -/

/-- The block's clocks stop: drive is requested again only after a new cycle end with QU (R446). -/
def clocksStop (s : State) : State :=
  { s with running := false, drvWant := false, mlk := { s.mlk with quEnd := false } }

/-! Writes through the access codes of R11. -/

/-- A field's value after a write of `y` over `x` (R11). -/
def accWrite (c : Acc11) (may : Bool) (x y : Nat) : Nat :=
  match c with
  | .ro | .rc | .wo => x
  | .rw => y
  | .w1c => x - (x &&& y)
  | .w1s => x ||| y
  | .rwt => if may then y else x

/-- A register's value after a write of `v` over `old`; `may`: the writer holds the system type. -/
def regMerge (d : RegDesc) (old v : Word) (may : Bool) : Word :=
  d.fields.foldl (fun w f =>
    let g : Fld := ⟨f.hi, f.lo⟩
    g.put w (accWrite f.acc may (g.get old) (g.get v))) old

/-- The bits of a word that a change of the hardware sets. -/
def HwSet.mask (x : HwSet) : Word := x.fld.put 0 x.v

/-- A word after a change of the hardware. -/
def HwSet.apply (w : Word) (x : HwSet) : Word :=
  let y := x.fld.get w
  x.fld.put w (match x.kind with
    | .bits => y ||| x.v
    | .count => satAdd (x.fld.span - 1) y x.v
    | .largest => max y x.v)

/-- Give a register the value `w`, in which software has cleared what the changes `mine` of this PORT cycle had set.
Where both lie in the same FABRIC cycle the changes stay (R12); commands do not say in which of a PORT cycle's two
FABRIC cycles they lie, so that is a free choice. -/
def clearTo (s : State) (a : Nat) (mine : List HwSet) (w : Word) : State :=
  if mine.isEmpty then wr s a w
  else if (freshBit s).1 then wr (freshBit s).2 a (mine.foldl HwSet.apply w)
  else { wr (freshBit s).2 a w with sets := s.sets.filter (fun x => !mine.contains x) }

/-- The changes of this PORT cycle at an address that touch bits of a mask. -/
def setsAt (s : State) (a : Nat) (m : Word) : List HwSet := s.sets.filter (fun x => x.addr == a && x.mask &&& m != 0)

/-- Software clears a one-bit W1C field (R11, R12). -/
def clearBit (s : State) (a : Nat) (f : Fld) : State :=
  clearTo s a (setsAt s a (f.put 0 1)) (f.put (rd s a) 0)

/-- The bits of a register that a write of `v` clears: the ones in its W1C fields (R11). -/
def RegDesc.clears (d : RegDesc) (v : Word) : Word :=
  d.fields.foldl (fun m f => if f.acc == .w1c then (⟨f.hi, f.lo⟩ : Fld).put m ((⟨f.hi, f.lo⟩ : Fld).get v) else m) 0

/-- Write the register at an address by its access codes. -/
def regPut (s : State) (a : Nat) (may : Bool) (v : Word) : State :=
  match regFind a with
  | some (d, _) => clearTo s a (setsAt s a (d.clears v)) (regMerge d (rd s a) v may)
  | none => s

/-- A register has a field that only a holder of its system type writes (R236). -/
def RegDesc.guarded (d : RegDesc) : Bool := d.fields.any (fun f => f.acc == .rwt)

/-! Time. -/

/-- Block time: the low 48 bits of the count of PORT cycles (R3, R111). -/
def btime (s : State) : Word := BitVec.ofNat 48 s.port

/-- The output RN_TBASE: bits 15:0 of the same counter in the same cycle (R15, R111). -/
def rnTbase (s : State) : BitVec 16 := BitVec.ofNat 16 s.port

/-! Memory. -/

/-- The word at an address of the block's memories. -/
def memRd (s : State) (a : Nat) : Word := tget 0 s.mem a

/-- Store a word. -/
def memWr (s : State) (a : Nat) (v : Word) : State := { s with mem := tset 0 s.mem a v }

/-- The tag of a word (R231). -/
def tagRd (s : State) (a : Nat) : Bool := tget false s.tags a

/-- Set the tag of a word. -/
def tagWr (s : State) (a : Nat) (b : Bool) : State := { s with tags := tset false s.tags a b }

/-- Store words at rising addresses. -/
def memWrList (s : State) (a : Nat) : List Word → State
  | [] => s
  | w :: r => memWrList (memWr s a w) (a + 1) r

/-- The words at `n` addresses from `a`. -/
def memRdList (s : State) (a n : Nat) : List Word := (List.range n).map (fun i => memRd s (a + i))

/-- The memory with every word of [lo, hi) cleared, its tags too (R276). -/
def memClear (s : State) (lo hi : Nat) : State :=
  { s with mem := s.mem.filter (fun p => !(lo ≤ p.1 && p.1 < hi)),
           tags := s.tags.filter (fun p => !(lo ≤ p.1 && p.1 < hi)) }

/-! Domains. -/

/-- Domain d is ON (R472). -/
def pdOn (s : State) (d : Nat) : Bool := rf s (pctlPd d) pctlPdSTATE == 2

/-- Domain d runs: it is ON, or it drains (R472, R477). -/
def pdLive (s : State) (d : Nat) : Bool := pdOn s d || rf s (pctlPd d) pctlPdSTATE == 3

/-- The command port has completed the requests, replies, notices and events already queued (R464). -/
def cptDrained (s : State) : Bool :=
  s.cpt.asks.isEmpty && s.cpt.copies.isEmpty && s.cpt.notices.isEmpty && s.cpt.evq.isEmpty && s.cpt.evStage == 0

/-- The command port answers: it is ON, or it drains and has not yet reported drained, so that new requests receive
NOSERVICE (R464). -/
def cptOpen (s : State) : Bool :=
  pdOn s 49 || (rf s (pctlPd 49) pctlPdSTATE == 3 && s.cpt.drain && !cptDrained s)

/-- Something holds in an area: the always-on area always answers (R264). -/
def areaOn (s : State) (ix : List Nat) : Area → Bool
  | .aon => true
  | .pd d => if d = 49 then cptOpen s else pdOn s d
  | .ae => pdOn s (18 + ix.getD 0 0)

/-- The block's pair role is ACTIVE (R425, R426). -/
def isActive (s : State) : Bool := rf s mlkRole mlkRoleROLE == 5

/-! Signals between units. -/

/-- A producer clocked at CORE (R128). -/
def coreClocked (p : Nat) : Bool := (0x080 ≤ p && p ≤ 0x08F) || (0x200 ≤ p && p ≤ 0x2FF)

/-- A software producer, clocked at FABRIC (R128). -/
def softProducer (p : Nat) : Bool := 0x0C0 ≤ p && p ≤ 0x0DF

/-- The switched domain of a producer (R128); the always-on ones have none. -/
def producerDomain (p : Nat) : Option Nat :=
  if p = 0x002 then some 48
  else if p = 0x003 || p = 0x004 then some 47
  else if 0x080 ≤ p && p ≤ 0x087 then some (18 + (p - 0x080))
  else if 0x088 ≤ p && p ≤ 0x097 then some 26
  else if p = 0x098 || p = 0x09B then some 52
  else if softProducer p then some 50
  else if 0x100 ≤ p && p ≤ 0x1FF then some 51
  else if 0x200 ≤ p && p ≤ 0x2FF then some (18 + p % 0x80 / 16)
  else none

/-- Producer `p` of the event matrix can fire now (R128, R134, R135): its domain and the matrix are ON, and, where it
is clocked at PORT, it has not fired in this PORT cycle: a producer fires for one cycle of its clock. -/
def canFire (s : State) (p : Nat) : Bool :=
  pdOn s 50 && (match producerDomain p with
    | some d => pdOn s d
    | none => true) &&
  (coreClocked p || softProducer p || tget 0 s.sem.when_ p != s.port + 1)

/-- Producer `p` of the event matrix fires (R128). -/
def semFire (s : State) (p : Nat) : State :=
  { s with sem := if canFire s p then
      { s.sem with fired := s.sem.fired ++ [p], when_ := tset 0 s.sem.when_ p (s.port + 1) } else s.sem }

/-- One event strobe of a COUNT source (R143). -/
def strobe (s : State) (n : Nat) : State :=
  { s with intc := { s.intc with strobes := s.intc.strobes ++ [n] } }

/-- An event strobe by the unit of domain d, of which the INTC receives none while d is not ON (R145). -/
def unitStrobe (s : State) (d n : Nat) : State := if pdOn s d then strobe s n else s

/-- An asynchronous fault for core k (R251). -/
def raiseAsync (s : State) (k code : Nat) (v : Word) : State :=
  { s with sig := { s.sig with asyncs := s.sig.asyncs ++ [(k, code, v)] } }

/-- A request for a journal record. Deadline records that find 8 of them waiting are discarded and
counted (R342). -/
def raiseRec (s : State) (r : RecReq) : State :=
  if r.prod = 3 && 8 ≤ (s.sig.recs.filter (fun x => x.prod == 3)).length then inc s jneCnt jneCntDROPREC
  else { s with sig := { s.sig with recs := s.sig.recs ++ [r] } }

/-- An event packet for the command port (R466). -/
def raiseEv (s : State) (cause : Nat) (body : List Word) : State :=
  { s with sig := { s.sig with evs := s.sig.evs ++ [⟨cause, body⟩] } }

/-- The trace unit records events of a kind from a source (R522). -/
def traceOn (s : State) (kind src : Nat) : Bool :=
  pdOn s 55 && rb s dbgTrctl dbgTrctlRUN && !s.halted && (rf s dbgTrctl dbgTrctlCLS).testBit kind &&
    (kind != 0 || (rf s dbgTrctl dbgTrctlLANEMASK).testBit src) &&
    ((kind != 1 && kind != 2) || rf s dbgTrctl dbgTrctlCORE == src)

/-- A trace event enters the queue of 16 entries, or is lost and counted (R522). -/
def raiseTrace (s : State) (kind src data : Nat) : State :=
  if !traceOn s kind src then s
  else if s.sig.traces.length < 16 then
    { s with sig := { s.sig with traces := s.sig.traces ++ [⟨kind, src, data, btime s⟩] } }
  else { inc s dbgTrptr dbgTrptrLOST with sig := { s.sig with tlost := s.sig.tlost + 1 } }

/-- A trace trigger t: it writes a MARK and sets or clears RUN as TRCTL names it (R522). -/
def traceTrigger (s : State) (t : Nat) : State :=
  if pdOn s 55 && rb s dbgTrctl dbgTrctlEN then
    let u := if rf s dbgTrctl dbgTrctlSTART == t + 1 then wb s dbgTrctl dbgTrctlRUN true else s
    let u := raiseTrace u 4 t 0
    if rf s dbgTrctl dbgTrctlSTOP == t + 1 then wb u dbgTrctl dbgTrctlRUN false else u
  else s

/-- Fold an operation over 0, 1, ..., n - 1. -/
def forN (n : Nat) (s : State) (f : State → Nat → State) : State := (List.range n).foldl f s

/-- The access completes with a code and no data. -/
def respond (s : State) (code : Nat) (data : Word := 0) : State := { s with resp := ⟨code, data⟩ }

/-- Signed value of a word. -/
def sint (w : Word) : Int := w.toInt

end Sys2Proof.Machine
end

