-- ==== Sys2Proof/Machine/CoreBase.lean ====
section
/-! DEFINITION. The cores' state: banks, stacks, frames, tokens, system registers and levels (R162 to
R184, R230 to R262). -/

namespace Sys2Proof.Machine

/-! Cores and banks. -/

/-- The power domain of core k (R162). -/
def coreDomain (k : Nat) : Nat := if k < 8 then k else 8 + k

/-- Core k is a supervisor core. -/
def isSv (k : Nat) : Bool := 8 ≤ k

/-- Core system registers that do not reset to zero: the home range of a loop core (R240), SVC_CTRL, SVC_STS and SVC_WAYEN of a
supervisor core (R308). -/
def wokenRegs (k : Nat) : List (Nat × Word) :=
  if isSv k then [(0x40, 0x420), (0x41, 0x00C), (0x42, BitVec.ofNat 48 0x0F0F_FFFF)]
  else [(0x26, BitVec.ofNat 48 (0x100000 + k * 0x10000)), (0x27, 0x10000)]

/-- A core after a WAKE or SYS reset, before its release (R183, R261): level CL, everything zero but those registers. -/
def Core.woken (k : Nat) : Core := { Core.held with sreg := wokenRegs k }

/-- Core k. -/
def coreOf (s : State) (k : Nat) : Core := tget (Core.woken k) s.cores k

/-- Store core k. -/
def setCore (s : State) (k : Nat) (c : Core) : State := { s with cores := tset (Core.woken k) s.cores k c }

/-- Count cycles of core k. -/
def spend (s : State) (k n : Nat) : State := setCore s k { coreOf s k with cyc := (coreOf s k).cyc + n }

/-- Cycles that core k has counted from one state to another. -/
def spentSince (s t : State) (k : Nat) : Nat := (coreOf t k).cyc - (coreOf s k).cyc

/-- Core k issues instructions: it is ON, clocked, released, not locked and not stopped. -/
def coreLive (s : State) (k : Nat) : Bool :=
  let c := coreOf s k
  s.running && pdOn s (coreDomain k) && c.run && !c.locked && !c.stopped

/-- The bank of level l. -/
def Core.bank (c : Core) (l : Nat) : Bank := tget Bank.zero c.banks l

/-- Store the bank of level l. -/
def Core.setBank (c : Core) (l : Nat) (b : Bank) : Core :=
  { c with banks := tset Bank.zero c.banks l b }

/-- The bank in use. -/
def Core.cur (c : Core) : Bank := c.bank c.lvl

/-- Replace the bank in use. -/
def Core.withCur (c : Core) (f : Bank → Bank) : Core := c.setBank c.lvl (f c.cur)

/-! Program counters (R163, R212). -/

/-- The word address of a PC. -/
def pcWord (pc : Word) : Nat := (pc.toNat / 4) % 2 ^ 40

/-- The slot of a PC. -/
def pcSlot (pc : Word) : Nat := pc.toNat % 4

/-- A PC from its word and slot. -/
def pcMk (w slot : Nat) : Word := BitVec.ofNat 48 (4 * (w % 2 ^ 40) + slot % 4)

/-- The parcel number of a PC. -/
def pcParcel (pc : Word) : Nat := 3 * pcWord pc + pcSlot pc

/-- The PC of a parcel number. -/
def pcOfParcel (n : Nat) : Word := let m := n % (3 * 2 ^ 40); pcMk (m / 3) (m % 3)

/-- The PC `n` parcels on. -/
def pcAdd (pc : Word) (n : Int) : Word :=
  pcOfParcel (((pcParcel pc : Int) + n) % (3 * 2 ^ 40 : Nat)).toNat

/-- A word taken as a PC: bits 47:42 are ignored (R163). -/
def pcOfWord (w : Word) : Word := BitVec.ofNat 48 (w.toNat % 2 ^ 42)

/-! Operand stack (R165). -/

/-- The entry `i` places below TOS. -/
def Bank.peek (b : Bank) (i : Nat) : Word := tget 0 b.ost (b.osp - 1 - i)

/-- Push a word. -/
def Bank.push (b : Bank) (w : Word) : Bank :=
  { b with ost := tset 0 b.ost b.osp w, osp := b.osp + 1 }

/-- Drop `n` entries. -/
def Bank.drop (b : Bank) (n : Nat) : Bank := { b with osp := b.osp - n }

/-- Push words, the first deepest. -/
def Bank.pushL (b : Bank) (ws : List Word) : Bank := ws.foldl Bank.push b

/-- Pop `n` entries and push words, the first deepest. -/
def Bank.pops (b : Bank) (n : Nat) (ws : List Word) : Bank := (b.drop n).pushL ws

/-- One of the top `n` entries is reserved for a load that an entry has passed (R180). -/
def Bank.waits (b : Bank) (n : Nat) : Bool := b.resv.any (fun i => b.osp ≤ i + n && i < b.osp)

/-! Return stack, locals, predicates, loops (R166, R167, R171, R172). -/

/-- Push on the return stack. -/
def Bank.rpush (b : Bank) (w : Word) : Bank :=
  { b with rst := tset 0 b.rst b.rsp w, rsp := b.rsp + 1 }

/-- The top of the return stack. -/
def Bank.rtop (b : Bank) : Word := tget 0 b.rst (b.rsp - 1)

/-- Drop the top of the return stack. -/
def Bank.rdrop (b : Bank) : Bank := { b with rsp := b.rsp - 1 }

/-- Local j of the frame in use (R167). -/
def Bank.loc (b : Bank) (j : Nat) : Word := tget 0 b.ring (12 * b.fd + j)

/-- Write local j. -/
def Bank.setLoc (b : Bank) (j : Nat) (w : Word) : Bank :=
  { b with ring := tset 0 b.ring (12 * b.fd + j) w }

/-- Predicate p; P0 reads true (R171). -/
def Bank.pred (b : Bank) (p : Nat) : Bool := p == 0 || b.preds.testBit p

/-- Write predicate p; a write of P0 is discarded. -/
def Bank.setPred (b : Bank) (p : Nat) (v : Bool) : Bank :=
  if p == 0 then b
  else { b with preds := b.preds - (if b.preds.testBit p then 2 ^ p else 0) + (if v then 2 ^ p else 0) }

/-- LBEG, LEND and LCNT of loop level i. -/
def Bank.lb (b : Bank) (i : Nat) : Word := tget 0 b.lbeg i
def Bank.le (b : Bank) (i : Nat) : Word := tget 0 b.lend i
def Bank.lc (b : Bank) (i : Nat) : Word := tget 0 b.lcnt i

/-- Write LBEG, LEND and LCNT of level i. -/
def Bank.setLoop (b : Bank) (i : Nat) (beg fin cnt : Word) : Bank :=
  { b with lbeg := tset 0 b.lbeg i beg, lend := tset 0 b.lend i fin, lcnt := tset 0 b.lcnt i cnt }

/-! Multiplier and accumulator in flight (R175, R205). -/

/-- One landing in its bank. A sum that overflows 112 bits wraps and sets ACCOVF (R175). -/
def Bank.land (b : Bank) : LandOp → Bank
  | .product h l => { b with ph := h, pl := l }
  | .set v => { b with acc := v }
  | .add v =>
    let t := b.acc.toInt + v.toInt
    { b with acc := BitVec.ofInt 112 t, accOvf := b.accOvf || t != (BitVec.ofInt 112 t).toInt }

/-- Apply the landings that an instruction issued in cycle `now` sees. -/
def Core.landUpTo (c : Core) (now : Nat) : Core :=
  let d := c.lands.foldl (fun x l => if l.due ≤ now then x.setBank l.bank ((x.bank l.bank).land l.op) else x) c
  { d with lands := c.lands.filter (fun l => now < l.due) }

/-- Apply every landing in flight. -/
def Core.landAll (c : Core) : Core :=
  { c.lands.foldl (fun x l => x.setBank l.bank ((x.bank l.bank).land l.op)) c with lands := [] }

/-! Tokens (R230 to R235). -/

/-- First word covered. -/
def Tok.base (t : Tok) : Nat := t.w0.toNat

/-- Object type. -/
def Tok.otype (t : Tok) : Nat := t.w1.toNat / 2 ^ 40

/-- Permission bits 39:32. -/
def Tok.perm (t : Tok) : Nat := (t.w1.toNat / 2 ^ 32) % 256

/-- Length in words: LEN 0 encodes 2^32. -/
def Tok.len (t : Tok) : Nat := let l := t.w1.toNat % 2 ^ 32; if l = 0 then 2 ^ 32 else l

/-- Sealed: OTYPE 0x40 to 0xFF (R233). -/
def Tok.sealed (t : Tok) : Bool := 0x40 ≤ t.otype

/-- The permission bit of R232 with number 32 + i. -/
def Tok.may (t : Tok) (i : Nat) : Bool := t.perm.testBit i

/-- The permission bit as memory instructions see it: a token of type 0x20, 0x21 or 0x22 counts as
lacking LD, ST, LDTOK and STTOK (R235). -/
def Tok.mayMem (t : Tok) (i : Nat) : Bool :=
  t.may i && !(t.otype == 0x20 || t.otype == 0x21 || t.otype == 0x22)

/-- A token from its fields, tag 1. -/
def Tok.mk4 (base len perm otype : Nat) : Tok :=
  ⟨BitVec.ofNat 48 base, BitVec.ofNat 48 (otype % 256 * 2 ^ 40 + perm % 256 * 2 ^ 32 + len % 2 ^ 32), true⟩

/-- The token with another object type. -/
def Tok.retype (t : Tok) (o : Nat) : Tok := { t with w1 := BitVec.ofNat 48 (t.w1.toNat % 2 ^ 40 + o % 256 * 2 ^ 40) }

/-- Offset of a word address from the token's base, modulo 2^48 (R230). -/
def Tok.offs (t : Tok) (a : Nat) : Nat := (a + 2 ^ 48 - t.base) % 2 ^ 48

/-- The token covers the word at an address. -/
def Tok.covers (t : Tok) (a : Nat) : Bool := t.offs a < t.len

/-- Token register n of the bank in use. -/
def Bank.tok (b : Bank) (n : Nat) : Tok := tget Tok.zero b.toks n

/-- Write token register n. -/
def Bank.setTok (b : Bank) (n : Nat) (t : Tok) : Bank := { b with toks := tset Tok.zero b.toks n t }

/-- Code token of level l (R244). -/
def Core.code (c : Core) (l : Nat) : Tok := tget Tok.zero c.ct l

/-- Write the code token of level l. -/
def Core.setCode (c : Core) (l : Nat) (t : Tok) : Core := { c with ct := tset Tok.zero c.ct l t }

/-- Code part of entry n; E8 is the handler entry EH (R246). -/
def Core.ecp (c : Core) (n : Nat) : Tok := tget Tok.zero c.ec n

/-- The fetch of a word at level l is allowed (R244). -/
def Core.fetchOk (c : Core) (w : Nat) : Bool :=
  let t := c.code c.lvl
  t.tag && t.may 2 && t.covers w

/-! System registers of a core (R184, R262, R308). -/

/-- Stored value of core system register n. -/
def Core.sr (c : Core) (n : Nat) : Word := tget 0 c.sreg n

/-- Store core system register n. -/
def Core.setSr (c : Core) (n : Nat) (v : Word) : Core := { c with sreg := tset 0 c.sreg n v }

/-- MASKLVL thresholds (R254). -/
def Core.thrP (c : Core) : Nat := (Fld.mk 3 0).get (c.sr 0x22)
def Core.thrM (c : Core) : Nat := (Fld.mk 7 4).get (c.sr 0x22)

/-- Master mask and nesting enable (R253, R254). -/
def Core.mmask (c : Core) : Bool := bitOf (c.sr 0x23) 0
def Core.ilnest (c : Core) : Bool := bitOf (c.sr 0x23) 1

/-- Store MMASK and ILNEST. -/
def Core.setMask (c : Core) (mmask ilnest : Bool) : Core :=
  c.setSr 0x23 (BitVec.ofNat 48 (b2n mmask + 2 * b2n ilnest))

/-- Numbers of the save registers of level l (R262). -/
def srSpc (l : Nat) : Nat := 0x28 + 4 * (l - 1)
def srSst (l : Nat) : Nat := 0x29 + 4 * (l - 1)
def srScause (l : Nat) : Nat := 0x2A + 4 * (l - 1)
def srScausev (l : Nat) : Nat := 0x2B + 4 * (l - 1)

/-- Deterministic mode requested (R181). -/
def Core.detm (c : Core) : Bool := bitOf (c.sr 0x02) 0

/-- A system call is open at level l (R247). -/
def Core.inCall (c : Core) (l : Nat) : Bool := c.scin.testBit l

/-- Set or clear a bit of a small bit set. -/
def natBit (v i : Nat) (b : Bool) : Nat :=
  v - (if v.testBit i then 2 ^ i else 0) + (if b then 2 ^ i else 0)

/-- The home range [HBASE, HBASE + HLEN) holds an address (R240). -/
def Core.home (c : Core) (a : Nat) : Bool :=
  let b := (c.sr 0x26).toNat % 2 ^ 40
  let l := (c.sr 0x27).toNat % 2 ^ 33
  b ≤ a && a < b + l

/-! Completion, and what stops an instruction in progress (R173, R179, R180, R190, R226). -/

/-- The PC is LEND of the innermost active loop (R173). -/
def Core.atLend (c : Core) : Bool := c.cur.ld != 0 && c.cur.le (c.cur.ld - 1) == c.pc

/-- LCNT lets the loop run once more (R173). -/
def Core.again (c : Core) : Bool := 1 < (c.cur.lc (c.cur.ld - 1)).toNat

/-- The innermost loop at its LEND (R173): one more turn, or its end. The wrap ends coverage (R190). `n`: the
PC after LEND. -/
def Core.wrap (c : Core) (n : Word) : Core :=
  let i := c.cur.ld - 1
  if c.again then
    { c.withCur (fun b => { b with lcnt := tset 0 b.lcnt i (b.lc i - 1) }) with pc := c.cur.lb i, grem := 0 }
  else { c.withCur (fun b => { b with lcnt := tset 0 b.lcnt i 0, ld := i }) with pc := n, grem := 0 }

/-- The instruction of `len` parcels at PC completes without transferring control. -/
def Core.advance (c : Core) (len : Nat) : Core :=
  let d := { c with grem := c.grem - 1, gpc := none }
  if c.atLend then d.wrap (pcAdd c.pc len) else { d with pc := pcAdd c.pc len }

/-- STEP as a stop between steps saves it (R226). -/
def Core.savedStep (c : Core) : Nat :=
  match c.wait, c.hdr with
  | .load none _ _ _ _ _, none => 0
  | _, some _ => if 0xC6 ≤ c.step then 0xC6 else c.step
  | _, _ => c.step

/-- The request of a read waits at the core's port. -/
def Core.readQueued (c : Core) : Bool := c.reqs.any (fun r => !r.write)

/-- Core k leaves an accepted access behind when it is stopped (R179, R180): a loop core, or a supervisor core in DETM. -/
def leavesBehind (s : State) (k : Nat) : Bool := !isSv k || (coreOf s k).detmAct

/-- Core k can be stopped now (R155, R178 to R180, R301): it has no access whose word it must take first, and no pair that must
complete, its second instruction waiting for its fetch. -/
def coreMayYield (s : State) (k : Nat) : Bool :=
  let c := coreOf s k
  match c.wait with
  | .load _ _ _ acc _ _ => c.readQueued || (acc && leavesBehind s k)
  | .fetch _ _ acc _ _ pair => (!acc || leavesBehind s k) && (!pair || (c.prev.bind (·.undo)).isSome)
  | _ => c.got.isNone || leavesBehind s k

/-- The instruction issued last may be the first of a pair. -/
def Prev.mayLead (p : Prev) : Bool :=
  p.first && !p.atLend && p.parcels ≤ 2 && (p.cls ≤ 3)

/-- The core waits for a fetch that is not for the second instruction of a pair, or is for one of a pair that can be abandoned. -/
def Core.parts (c : Core) : Bool :=
  match c.wait with
  | .fetch _ _ _ _ _ pair => !pair || (c.prev.bind (·.undo)).isSome
  | _ => false

/-- The next instruction may still issue with the one issued last, and neither can be abandoned (R178). -/
def Core.openPair (c : Core) : Bool := c.prev.any Prev.mayLead && !c.detmAct && !c.readQueued && !c.parts

/-- The core as an instruction found it. -/
def Core.snapshot (c : Core) : Undo := ⟨c.cur, c.pc, c.gps, c.gsn, c.grem, c.gpc, c.lands⟩

/-- The first instruction of a pair is abandoned with the second (R178). -/
def Core.undone (c : Core) : Core :=
  match c.prev.bind (·.undo) with
  | some u => { c.withCur (fun _ => u.bank) with pc := u.pc, gps := u.gps, gsn := u.gsn, grem := u.grem, gpc := u.gpc, lands := u.lands }
  | none => c

/-- The request of the read that the core waits for is withdrawn (R180), with the pair that it ends (R178). -/
def Core.withdrawn (c : Core) : Core := { c.undone with reqs := c.reqs.filter (·.write) }

/-- The core after the instruction in progress completed or was abandoned (R179, R180). -/
def Core.yielded (c : Core) : Core :=
  match c.wait with
  | .event _ len skipped => (if skipped then c else c.withCur (fun b => b.push 0)).advance len
  | .load p len a _ id _ =>
    if c.readQueued then c.withdrawn
    else match p with
      | none => c
      | some n =>
        let d := c.withCur (fun b =>
          let x := b.pops n [0]
          { x with resv := x.resv ++ [x.osp - 1] })
        ({ d with passed := d.passed ++ [⟨d.lvl, d.cur.osp - 1, a, id⟩] } : Core).advance len
  | .fetch _ _ _ _ _ pair => let d := if pair then c.undone else c; { d with reqs := c.reqs.filter (·.write) }
  | _ => c

/-- The accepted reads that stopping the instruction in progress leaves to it (R179): one that it waits for, or whose word it holds. -/
def Core.keeps (c : Core) : List Kept :=
  match c.wait, c.got with
  | .load none _ a _ id _, _ => if c.readQueued then c.kept else c.kept ++ [⟨c.lvl, c.pc, a, id, none⟩]
  | _, some x => c.kept ++ [⟨c.lvl, c.pc, x.1, x.2.id, some x.2⟩]
  | _, none => c.kept

/-- A presentation, an asynchronous fault or the debugger stops core k (R179, R520). A GRD whose first covered
instruction has not issued is issued again (R190). -/
def coreYield (s : State) (k : Nat) : State :=
  let c := coreOf s k
  let d := c.yielded
  let e := match d.gpc with
    | some p => { d with pc := p, grem := 0, gpc := none }
    | none => d
  setCore s k { e with kept := c.keeps, wait := .none, got := none, step := c.savedStep, hdr := none, hold := [], prev := none, efirst := false,
                       entry := false }

/-! BKWIN and BKDAT (R170). -/

/-- The pointer item of a bank. -/
def Bank.ptrs (b : Bank) : Word := BitVec.ofNat 48 (b.osp + b.rsp * 2 ^ 8 + b.fd * 2 ^ 16 + b.ld * 2 ^ 24)

/-- An item of a bank (R170). -/
def Bank.item (b : Bank) (i : Nat) : Word :=
  if i < 0x20 then tget 0 b.ost i
  else if i < 0x40 then tget 0 b.rst (i - 0x20)
  else if i < 0x104 then tget 0 b.ring (i - 0x40)
  else if i = 0x104 then b.ptrs
  else if i = 0x105 then BitVec.ofNat 48 (b.preds + 1)
  else if i < 0x109 then b.lb (i - 0x106)
  else if i < 0x10C then b.le (i - 0x109)
  else if i < 0x10F then b.lc (i - 0x10C)
  else if i = 0x10F then BitVec.ofNat 48 (b2n b.accOvf)
  else if i < 0x130 then
    let t := b.tok ((i - 0x110) / 2)
    if i % 2 = 0 then t.w0 else t.w1
  else if i = 0x130 then b.acc.setWidth 48
  else if i = 0x131 then (b.acc >>> 48).setWidth 48
  else if i = 0x132 then BitVec.ofNat 48 (b.acc.toNat / 2 ^ 96)
  else if i = 0x133 then b.ph
  else if i = 0x134 then b.pl
  else 0

/-- The accumulator with one of its three parts replaced (R170). -/
def accPart (a : Acc) (i : Nat) (v : Word) : Acc :=
  let n := a.toNat
  if i = 0 then BitVec.ofNat 112 (n / 2 ^ 48 * 2 ^ 48 + v.toNat)
  else if i = 1 then BitVec.ofNat 112 (n / 2 ^ 96 * 2 ^ 96 + v.toNat * 2 ^ 48 + n % 2 ^ 48)
  else BitVec.ofNat 112 (v.toNat % 2 ^ 16 * 2 ^ 96 + n % 2 ^ 96)

/-- A bank with an item written (R170). -/
def Bank.setItem (b : Bank) (i : Nat) (v : Word) : Bank :=
  if i < 0x20 then { b with ost := tset 0 b.ost i v }
  else if i < 0x40 then { b with rst := tset 0 b.rst (i - 0x20) v }
  else if i < 0x104 then { b with ring := tset 0 b.ring (i - 0x40) v }
  else if i = 0x104 then
    { b with osp := min 32 ((Fld.mk 5 0).get v), rsp := min 32 ((Fld.mk 13 8).get v), fd := (Fld.mk 19 16).get v,
             ld := (Fld.mk 25 24).get v }
  else if i = 0x105 then { b with preds := v.toNat % 256 / 2 * 2 }
  else if i < 0x109 then { b with lbeg := tset 0 b.lbeg (i - 0x106) (pcOfWord v) }
  else if i < 0x10C then { b with lend := tset 0 b.lend (i - 0x109) (pcOfWord v) }
  else if i < 0x10F then { b with lcnt := tset 0 b.lcnt (i - 0x10C) v }
  else if i = 0x10F then { b with accOvf := bitOf v 0 }
  else if i < 0x130 then
    let t := b.tok ((i - 0x110) / 2)
    b.setTok ((i - 0x110) / 2) (if i % 2 = 0 then ⟨v, t.w1, false⟩ else ⟨t.w0, v, false⟩)
  else if i < 0x133 then { b with acc := accPart b.acc (i - 0x130) v }
  else if i = 0x133 then { b with ph := v }
  else if i = 0x134 then { b with pl := v }
  else b

end Sys2Proof.Machine
end

