-- ==== Sys2Proof/Machine/Hmp.lean ====
section
/-! DEFINITION. The host master port: its transactions, their responses and their timeout (R493 to R498). -/

namespace Sys2Proof.Machine

/-- The word in a beat of a host port: the block ignores bits 63:48 (R5). -/
def beatWord (d : BitVec 64) : Word := d.setWidth 48

/-- A word as a beat of a host port, RN_HSP_RDATA or RN_HMP_WDATA: bits 63:48 are zero (R5, R493). -/
def beatOf (w : Word) : BitVec 64 := w.setWidth 64

/-- Beat i of the write data of a transaction on the host master port: RN_HMP_WDATA (R493). -/
def HmpTx.wdata (x : HmpTx) (i : Nat) : BitVec 64 := beatOf (x.data.getD i 0)

/-- The block word address of an index of the host's window (R265). -/
def hspWord (i : Nat) : Option Nat :=
  if i < 0x100000 then some i else if i < 0x1000000 then none else if i < 0x2000000 then some (0x40000000 + (i - 0x1000000)) else none

/-- The lowest tag not in use (R496). -/
def hmpFreeTag (p : Ports) : Option Nat :=
  (List.range 32).find? (fun t => !p.out.any (fun x => x.tag == t) && !p.late.any (fun x => x.1 == t))

/-- Issue the oldest waiting transaction if a tag is free. -/
def hmpIssueOne (s : State) : State :=
  match s.ports.wait, hmpFreeTag s.ports with
  | x :: r, some t => { s with ports := { s.ports with wait := r, out := s.ports.out ++ [{ x with tag := t, at_ := s.port }] } }
  | _, _ => s

/-- Issue waiting transactions in order while tags are free (R496, R498); none while PD54 is not ON. -/
def hmpIssue (s : State) : State := if pdLive s 54 then forN 32 s (fun t _ => hmpIssueOne t) else s

/-- U > 0 keeps resets and power-downs from the journal and the host ports, unless the journal is in FAULT (R351). -/
def uHeld (s : State) : Bool := pdLive s 44 && rf s jneU jneUU != 0 && rf s jneSts jneStsSTATE != 5

/-- The host ports take transactions: PD54 is ON, or its drain waits for U = 0 (R264, R351). -/
def hostOpen (s : State) : Bool := pdOn s 54 || (pdLive s 54 && uHeld s)

/-- Request a transaction on the HMP. While the host ports take none its target is gone (R264). -/
def hmpReq (s : State) (use : HmpUse) (write : Bool) (addr len : Nat) (data : List Word) (pers dev : Bool) : State :=
  let x : HmpTx := ⟨0, use, write, addr, len, data, pers, dev, s.port, []⟩
  if hostOpen s then hmpIssue { s with ports := { s.ports with wait := s.ports.wait ++ [x] } }
  else { s with ports := { s.ports with done := s.ports.done ++ [{ x with beats := List.replicate len (3, 0) }] } }

/-- A response code as the block takes it: any but OKAY, DECERR and ECC_UE counts as DECERR (R498). -/
def hmpCode (c : Nat) : Nat := if c = 0 || c = 5 then c else 4

/-- The transaction's worst code: the first beat that failed, 0 if none did. -/
def HmpTx.code (x : HmpTx) : Nat :=
  match x.beats.find? (fun b => b.1 != 0) with
  | some b => b.1
  | none => 0

/-- The data of beat i. -/
def HmpTx.word (x : HmpTx) (i : Nat) : Word := ((x.beats.getD i (0, 0)).2)

/-- A transaction's last beat has come: it leaves the port, its tag is free, and it waits for its unit. -/
def hmpComplete (s : State) (x : HmpTx) : State :=
  hmpIssue { s with ports := { s.ports with
    out := s.ports.out.filter (fun y => y.tag != x.tag), done := s.ports.done ++ [x] } }

/-- Take the oldest complete transaction of a use. -/
def hmpTake (s : State) (p : HmpUse → Bool) : Option (HmpTx × State) :=
  match s.ports.done.find? (fun x => p x.use) with
  | some x => some (x, { s with ports := { s.ports with done := s.ports.done.erase x } })
  | none => none

/-- Drop every transaction of a use that waits, is outstanding or is complete: its unit is reset. Tags of
outstanding ones stay in use until the host's late responses have come (R282, R496). -/
def hmpDrop (s : State) (p : HmpUse → Bool) : State :=
  let gone := s.ports.out.filter (fun x => p x.use)
  { s with ports := { s.ports with
      wait := s.ports.wait.filter (fun x => !p x.use), out := s.ports.out.filter (fun x => !p x.use),
      done := s.ports.done.filter (fun x => !p x.use),
      late := s.ports.late ++ gone.map (fun x => (x.tag, x.len - x.beats.length)) } }

end Sys2Proof.Machine
end

