-- ==== Sys2Proof/Machine/CvpSafe.lean ====
section
/-! DEFINITION. Safe sources, trip groups, drive request and grant of the converter port
(R33 to R39, R138). -/

namespace Sys2Proof.Machine

/-- Pair p is owned by `own` (1 a law slot, 2 an SSP cell) number `i` (R25). -/
def owns (s : State) (own i p : Nat) : Bool :=
  rf s (cvpPaircfg p) cvpPaircfgOWNER == own && rf s (cvpPaircfg p) cvpPaircfgOIDX == i

/-- The pairs owned by a producer, ascending. -/
def ownedPairs (s : State) (own i : Nat) : List Nat := (List.range 256).filter (owns s own i)

/-- Monitors that hold their safe condition (R123). -/
def heldMons (s : State) : List Nat :=
  (List.range 256).filter (fun m => rb s (dmSts m) dmStsSAFEACT)

/-- The subject number that a monitor's KIND reads from SUBJ (R115). -/
def monSubj (s : State) (m : Nat) : Nat :=
  match rf s (dmCfg m) dmCfgKIND with
  | 2 => rf s (dmCfg m) dmCfgSUBJ % 8
  | 3 => rf s (dmCfg m) dmCfgSUBJ % 16
  | _ => rf s (dmCfg m) dmCfgSUBJ

/-- Word w of the pairs that producer `i` of a kind owns. -/
def ownWord32 (s : State) (own i w : Nat) : Nat :=
  (List.range 32).foldl (fun acc j => if owns s own i (32 * w + j) then acc ||| (1 <<< j) else acc) 0

/-- Word w of the pairs that monitor m makes safe (R123): those its slot or cell owns, those in its trip group's mask
for a TASK monitor, none where KIND names no subject. -/
def monSafeWord (s : State) (w m : Nat) : Nat :=
  match rf s (dmCfg m) dmCfgKIND with
  | 1 => ownWord32 s 1 (monSubj s m) w
  | 2 => ownWord32 s 2 (monSubj s m) w
  | 3 => rf s (cvpTgmask (rf s (dmCfg m) dmCfgTGRP) w) cvpTgmaskMASK
  | _ => 0

/-- Word w of the pairs of disabled egress lanes. -/
def laneOffWord (s : State) : Nat :=
  let off := 0xFFFF - rf s cvpLaneen cvpLaneenEGEN
  off ||| (off <<< 16)

/-- A source of R33 that acts on every pair: debug halt, any reset, loss of lock (R471), no grant or no request,
PD52 not ON. -/
def allSafe (s : State) : Bool :=
  s.dbg.src || s.pctl.seq != 0 || s.pctl.porst || s.pctl.test || s.pctl.lol || !s.cvp.gnt || !rb s cvpDrive cvpDriveREQ || !pdOn s 52

/-- Word w (pairs 32 w to 32 w + 31) of the pairs with an active source of R33. -/
def safeWord (s : State) (w : Nat) : Nat :=
  if allSafe s then 0xFFFFFFFF
  else
    let tg := (List.range 16).foldl (fun acc g =>
      if rbit s cvpTglatch cvpTglatchTGLAT g then acc ||| rf s (cvpTgmask g w) cvpTgmaskMASK else acc) 0
    tg ||| rf s (cvpSwsafe w) cvpSwsafeFORCE ||| laneOffWord s
      ||| (heldMons s).foldl (fun acc m => acc ||| monSafeWord s w m) 0

/-- A source of R33 is active for pair p. -/
def pairSource (s : State) (p : Nat) : Bool := (safeWord s (p / 32)).testBit (p % 32)

/-- The safe pattern of pair p as it acts: 0b11 acts as 0b00 (R33). -/
def safePattern (s : State) (p : Nat) : Nat :=
  let v := rf s (cvpSafepat (p / 16)) ⟨2 * (p % 16) + 1, 2 * (p % 16)⟩
  if v = 3 then 0 else v

/-- The output level RN_SAFEPAT[o] (R33, R21): the high-side switch of a pair on bit 2p + 1, its low-side switch on
bit 2p. -/
def rnSafepat (s : State) (o : Nat) : Bool := (safePattern s (o / 2)).testBit (o % 2)

/-- RN_SAFE[p] (R33, R35): shown by CVP_SAFESTS. -/
def rnSafe (s : State) (p : Nat) : Bool := rbit s (cvpSafests (p / 32)) cvpSafestsSAFE (p % 32)

/-- A word that released its pair in this PORT cycle, in which a source has become active again, has not left (R35):
the pair stays safe, and the word is discarded at the head of its queue. -/
def unrelease (s : State) (k : Nat) (w : EdgeWord) : State :=
  let mine (t : Nat) : Bool := t == w.cyc * 128 + w.fine
  { s with
    cvp := { s.cvp with
      sentAt := tset 0 s.cvp.sentAt k 0
      released := s.cvp.released.filter (fun p => p.1 != k)
      expects := s.cvp.expects.filter (fun e => !(e.pair == w.pair && mine (e.cyc * 128 + e.fine)))
      swn := s.cvp.swn.filter (fun q => !(q.1 / 2 == w.pair && mine q.2))
      tags := s.cvp.tags.map (fun l => if l.lane == k then { l with words := l.words.erase (w, s.port) } else l) },
    sig := { s.sig with traces := s.sig.traces.filter (fun x => !(x.kind == 0 && x.src == k && x.at_ == btime s)) } }

/-- Assert RN_SAFE on every pair with an active source; a word queued before a source became active
can no longer release its pair (R33, R35). -/
def safeSync (s : State) : State :=
  let m := (List.range 8).map (safeWord s)
  let s := (s.cvp.released.filter (fun p => tget 0 s.cvp.sentAt p.1 == s.port + 1 &&
    (m.getD (p.2.pair / 32) 0).testBit (p.2.pair % 32))).foldl (fun t p => unrelease t p.1 p.2) s
  let t := (List.range 8).foldl (fun t w =>
    wf t (cvpSafests w) cvpSafestsSAFE (rf t (cvpSafests w) cvpSafestsSAFE ||| m.getD w 0)) s
  { t with cvp := { t.cvp with queues := t.cvp.queues.map (fun q => (q.1, q.2.map (fun e =>
      { e with rel := e.rel && !((m.getD (e.word.pair / 32) 0).testBit (e.word.pair % 32)) }))) } }

/-- Latch trip group g and fire its producer when the bit rises (R36, R128). -/
def tgLatch (s : State) (g : Nat) : State :=
  if rbit s cvpTglatch cvpTglatchTGLAT g then s
  else semFire (wbit s cvpTglatch cvpTglatchTGLAT g true) (0x030 + g)

/-- DMMISSq pulses on the trip groups in this PORT cycle (R138). -/
def dmPulse (s : State) (q : Nat) : Bool := s.sem.pulse.contains (q, s.port + 1)

/-- The input of trip group g (R138). -/
def groupInput (s : State) (g : Nat) : Bool :=
  let lo := rf s (semTgen g 0) semTgenEN &&& (s.cvp.tripLive.toNat % 2 ^ 32)
  let hi := rf s (semTgen g 1) semTgenEN &&& (s.cvp.tripLive.toNat / 2 ^ 32)
  lo != 0 || hi != 0 || (rb s (semTgpr g) semTgprPFAIL && s.sem.pfail) ||
    s.sem.pulse.any (fun p => rbit s (semTgpr g) semTgprDMMISS p.1 && dmPulse s p.1)

/-- Follow the group inputs: TGLIVE, the latches of active groups, and the safe pattern. -/
def tripSync (s : State) : State :=
  safeSync ((List.range 16).foldl (fun t g =>
    let t1 := wbit t cvpTglatch cvpTglatchTGLIVE g (groupInput s g)
    if groupInput s g then tgLatch t1 g else t1) s)

/-- A miss in monitor group q: DMMISSq pulses on the trip groups in the PORT cycle after its detection (R138). -/
def dmMissPulse (s : State) (q : Nat) : State :=
  { s with sem := { s.sem with
    pulse := if s.sem.pulse.contains (q, s.port + 2) then s.sem.pulse else s.sem.pulse ++ [(q, s.port + 2)] } }

/-- The trip groups follow the pulses that begin and end with this PORT cycle (R138). -/
def pulseTick (s : State) : State :=
  if s.sem.pulse.isEmpty then s
  else tripSync { s with sem := { s.sem with pulse := s.sem.pulse.filter (fun p => s.port + 1 ≤ p.2) } }

/-- Address of CVP_TRIPLIVEm and CVP_TRIPLATm. -/
def tripLiveAddr (i : Nat) : Nat := if i < 32 then cvpTriplive0 else cvpTriplive1
def tripLatAddr (i : Nat) : Nat := if i < 32 then cvpTriplat0 else cvpTriplat1
def tripPolAddr (i : Nat) : Nat := if i < 32 then cvpTrippol0 else cvpTrippol1

/-- RN_TRIP[i] stands at its active level (R36). -/
def tripActive (s : State) (i : Nat) : Bool :=
  s.cvp.tripPin.getLsbD i != bitOf (rd s (tripPolAddr i)) (i % 32)

/-- Input i counts from now on: the groups it feeds are active (R36, R138). -/
def tripCount (s : State) (i : Nat) : State :=
  if s.cvp.tripLive.getLsbD i then s
  else tripSync { s with cvp := { s.cvp with
      tripLive := s.cvp.tripLive ||| BitVec.ofNat 64 (1 <<< i),
      tripWait := s.cvp.tripWait.filter (fun p => p.1 != i) } }

/-- Input i is active: CVP_TRIPLIVE, CVP_TRIPLAT, and producer TRIPi as the bit rises (R36, R42, R128). -/
def tripShow (s : State) (i : Nat) : State :=
  if bitOf (rd s (tripLiveAddr i)) (i % 32) then s
  else
    let t := wbit s (tripLiveAddr i) cvpTriplive0LIVE (i % 32) true
    semFire (wbit t (tripLatAddr i) cvpTriplat0LAT (i % 32) true) (0x040 + i)

/-- Input i is active no longer. -/
def tripUncount (s : State) (i : Nat) : State :=
  let t := { s with cvp := { s.cvp with
    tripLive := s.cvp.tripLive &&& ~~~ (BitVec.ofNat 64 (1 <<< i)),
    tripWait := s.cvp.tripWait.filter (fun p => p.1 != i) } }
  tripSync (wbit t (tripLiveAddr i) cvpTriplive0LIVE (i % 32) false)

/-- Take the present level of input i through polarity and filter (R36): CVP_TRIPLIVE and CVP_TRIPLAT follow the level
after polarity (R42); an input that becomes active counts at once with the filter at 0 or PORT stopped, otherwise once
it has lasted. -/
def tripLevel (s : State) (i : Nat) : State :=
  if tripActive s i then
    let s := tripShow s i
    if s.cvp.tripLive.getLsbD i then s
    else if rf s cvpTripflt cvpTripfltN == 0 || !s.running then tripCount s i
    else if s.cvp.tripWait.any (fun p => p.1 == i) then s
    else { s with cvp := { s.cvp with tripWait := s.cvp.tripWait ++ [(i, s.port)] } }
  else tripUncount s i

/-- Inputs whose active level has lasted the filter's length count (R36). -/
def tripFilterTick (s : State) : State :=
  s.cvp.tripWait.foldl (fun t p =>
    if p.2 + rf s cvpTripflt cvpTripfltN ≤ s.port then tripCount t p.1 else t) s

/-- PORT has stopped: the filter is bypassed, so the inputs in it count (R36). -/
def tripBypass (s : State) : State := s.cvp.tripWait.foldl (fun t p => tripCount t p.1) s

/-- Follow RN_DRIVE_REQ (R39): it is high while REQEN, the role logic's request and PD52 are, but in a reset
or a debug halt (R481, R518); its fall makes every pair safe, and a grant that stands while it is low is reported. -/
def driveSync (s : State) : State :=
  let want := rb s cvpDrive cvpDriveREQEN && s.drvWant && pdOn s 52 && !s.dbg.src && s.pctl.seq == 0
  let was := rb s cvpDrive cvpDriveREQ
  let t := wb s cvpDrive cvpDriveREQ want
  let t := wb t cvpDrive cvpDriveDRIVING (want && rb t cvpDrive cvpDriveGNT)
  let t := if was && !want && rb t cvpDrive cvpDriveGNT then wb t cvpEvsts cvpEvstsGNTUNREQUESTED true else t
  safeSync t

end Sys2Proof.Machine
end

