-- ==== Sys2Proof/Machine/CvpEgress.lean ====
section
/-! DEFINITION. Commutation words on their way out: hand-over, lane queues, leaving, tags, and the
commutations whose reports are expected (R21 to R32). -/

namespace Sys2Proof.Machine

/-- The egress lane of a pair (R14). -/
def laneOf (p : Nat) : Nat := p % 16

/-- The lane a word goes to; an ARMDEF names its lane in place of a pair. -/
def EdgeWord.lane (w : EdgeWord) : Nat := w.pair % 16

/-- The 48 bits of a commutation word (R21). -/
def EdgeWord.bits (w : EdgeWord) : Word :=
  match w.kind with
  | .direct => BitVec.ofNat 48 ((w.pair / 16) <<< 44 + w.s <<< 40 + (w.dt % 512) <<< 31
      + (w.cyc % 65536) <<< 7 + w.fine % 128)
  | .posted => BitVec.ofNat 48 ((w.pair / 16) <<< 44 + 1 <<< 42 + w.s <<< 40 + (w.dt % 512) <<< 31
      + (w.tag % 32) <<< 26 + (w.cyc % 65536) <<< 7 + w.fine % 128)
  | .armdef => BitVec.ofNat 48 (2 <<< 42 + (w.tag % 32) <<< 26 + (w.cyc % 65536) <<< 7)

/-- Commutation time in edge ticks (R3). -/
def EdgeWord.time (w : EdgeWord) : Nat := w.cyc * 128 + w.fine

/-- Rank of a producer among words handed over in one cycle: slots in order, then cells (R26). -/
def Producer.rank : Producer → Nat
  | .slot n => n
  | .cell c => 128 + c

/-- The producer is the owner of pair p (R25). -/
def Producer.ownsPair (s : State) (p : Nat) : Producer → Bool
  | .slot n => owns s 1 n p
  | .cell c => owns s 2 c p

/-- The queue of a lane. -/
def laneQ (s : State) (k : Nat) : List QEntry := tget [] s.cvp.queues k

/-- Replace the queue of a lane. -/
def setLaneQ (s : State) (k : Nat) (q : List QEntry) : State :=
  { s with cvp := { s.cvp with queues := tset [] s.cvp.queues k q } }

/-- A word discarded or clamped is counted and its lane marked (R23, R25 to R27). -/
def edgeCount (s : State) (k : Nat) (f : Fld) : State :=
  wbit (wb (inc s cvpEvcnt cvpEvcntDROP) cvpEvsts f true) cvpLnsts cvpLnstsEGERR k true

/-- A word discarded with EDGE_DROPPED. -/
def edgeDrop (s : State) (k : Nat) : State := edgeCount s k cvpEvstsEDGEDROPPED

/-- Insert a word behind all earlier words, and among those of its own cycle by producer (R26). -/
def qInsert (e : QEntry) : List QEntry → List QEntry
  | [] => [e]
  | x :: r =>
    if x.at_ = e.at_ ∧ e.prod.rank < x.prod.rank then e :: x :: r else x :: qInsert e r

/-- The tag's entry on a lane. -/
def laneTag (s : State) (k tag : Nat) : Option LaneTag :=
  s.cvp.tags.find? (fun t => t.lane == k && t.tag == tag)

/-- The tag is in use on some lane (R27). -/
def tagInUse (s : State) (tag : Nat) : Bool := s.cvp.tags.any (fun t => t.tag == tag)

/-- A producer hands over a word, at PORT cycle `at_` (R25, R26, R27, R34): ownership, safe state,
tag, room. An ARMDEF names no pair: it is not checked for ownership (DEDUCED, log entry 156). -/
def cvpHandAt (s : State) (p : Producer) (at_ : Nat) (w : EdgeWord) : State :=
  let k := w.lane
  let e : QEntry := ⟨w, p, at_, true⟩
  if !pdOn s 52 then s
  else if w.kind != .armdef && !p.ownsPair s w.pair then edgeDrop s k
  else if w.kind != .armdef && pairSource s w.pair then s
  else if w.kind == .posted && (match laneTag s k w.tag with
      | some t => decide (w.cyc < t.arm)
      | none => true) then edgeDrop s k
  else if 16 ≤ (laneQ s k).length then edgeDrop s k
  else
    let t := setLaneQ s k (qInsert e (laneQ s k))
    if w.kind == .armdef then
      { t with cvp := { t.cvp with tags := t.cvp.tags ++ [⟨k, w.tag, w.cyc, false, false, false, false, false, []⟩] } }
    else t

/-- Hand over words in order in the present cycle. -/
def cvpHandAll (s : State) (p : Producer) (ws : List EdgeWord) : State :=
  ws.foldl (fun t w => cvpHandAt t p s.port w) s

/-- An ARMDEF goes with the POSTED words of its tag on its lane: it is discarded where all of these are discarded for safe
pairs (R34, R101; DEDUCED, log entry 156). -/
def armdefVoid (s : State) (w : EdgeWord) (ws : List EdgeWord) : Bool :=
  let mine := ws.filter (fun x => x.kind == .posted && x.tag == w.tag && x.lane == w.lane)
  w.kind == .armdef && !mine.isEmpty && mine.all (fun x => pairSource s x.pair)

/-- A posting is handed over whole: its ARMDEF and POSTED words, or, where its tag is in use, none
of them, each counted (R27). -/
def cvpPost (s : State) (c tag : Nat) (ws : List EdgeWord) : State :=
  if tagInUse s tag then ws.foldl (fun t w => edgeDrop t w.lane) s
  else
    let mine := ws.filter (fun x => (Producer.cell c).ownsPair s x.pair)
    (ws.filter (fun w => !armdefVoid s w mine)).foldl (fun t w => cvpHandAt t (.cell c) t.port w) s

/-- Last reported state of pair p (R32). -/
def appliedOf (s : State) (p : Nat) : Nat := rf s (cvpApplied (p / 16)) ⟨2 * (p % 16) + 1, 2 * (p % 16)⟩

/-- The state of a word's pair at its time, the word aside: that of the latest expected commutation before it, else
the last one reported (R22). -/
def stateBefore (s : State) (w : EdgeWord) : Nat :=
  match s.cvp.expects.foldl (fun (b : Option Expect) e =>
    if e.pair == w.pair && e.cyc * 128 + e.fine < w.time then
      (match b with
       | some x => if x.cyc * 128 + x.fine ≤ e.cyc * 128 + e.fine then some e else b
       | none => some e)
    else b) none with
  | some e => e.s
  | none => appliedOf s w.pair

/-- Commutations of the word's pair that the host still holds pending once it has received the word (R24). -/
def pendingBefore (s : State) (w : EdgeWord) : Nat :=
  (s.cvp.expects.filter (fun e => e.pair == w.pair && e.cyc * 128 + e.fine < w.time && s.port ≤ e.cyc)).length

/-- The host discards what is pending on the pair at or after a word's time, and adds the word
(R24): the commutations that the CVP expects, and the switch that one turns on: none where the pair has that
state already (R22, R38). `sent`: the PORT cycle in which the word left. -/
def expectWord (s : State) (w : EdgeWord) (tag : Option Nat) (sent : Nat) : State :=
  let keep := s.cvp.expects.filter (fun e => !(e.pair == w.pair && w.time ≤ e.cyc * 128 + e.fine))
  let swn := s.cvp.swn.filter (fun q => !(q.1 / 2 == w.pair && w.time ≤ q.2))
  let on := if w.s == stateBefore { s with cvp := { s.cvp with expects := keep } } w then []
    else if w.s == 1 then [(2 * w.pair, w.time)] else if w.s == 2 then [(2 * w.pair + 1, w.time)] else []
  { s with cvp := { s.cvp with
      expects := keep ++ [⟨w.pair, w.s, w.cyc, w.fine, 0, tag, false, sent⟩],
      swn := swn ++ on } }

/-- Forget postings of the predictor whose words have left and whose tag is out of use (R101). -/
def postsSync (s : State) : State :=
  { s with ssp := { s.ssp with posts := s.ssp.posts.filter (fun x => !x.left || tagInUse s x.tag) } }

/-- A word of a tag has left the block. -/
def postLeft (s : State) (tag : Nat) : State :=
  { s with ssp := { s.ssp with posts := s.ssp.posts.map (fun x =>
      if x.tag == tag then { x with left := true } else x) } }

/-- A tag's entries whose words have all been executed after the host reported it armed go out of
use (R27, R101). -/
def tagRelease (s : State) : State :=
  postsSync { s with cvp := { s.cvp with tags := s.cvp.tags.filter (fun t =>
      !(t.rep && t.words.isEmpty &&
        !(laneQ s t.lane).any (fun e => e.word.kind == .posted && e.word.tag == t.tag) &&
        !(s.cvp.expects.any (fun e => e.tag == some t.tag && laneOf e.pair == t.lane)))) } }

/-- The tag arms on every lane that declared it: each of its words takes effect as a DIRECT word
would on receipt (R24, R28). -/
def tagArm (s : State) (tag : Nat) (early : Bool) : State :=
  let go := s.cvp.tags.filter (fun t => t.tag == tag && !t.armed && !t.gone)
  let t := { s with cvp := { s.cvp with tags := s.cvp.tags.map (fun t =>
      if t.tag == tag && !t.armed && !t.gone then { t with armed := true, early := early, words := [] }
      else t) } }
  go.foldl (fun u l => l.words.foldl (fun v w => expectWord v w.1 (some tag) w.2) u) t

/-- The word leaves on its lane (R21, R26): what the host and the CVP then expect. A POSTED word of a tag that is armed
already is expected at once (R28, R32). -/
def wordLeaves (s : State) (k : Nat) (e : QEntry) (w : EdgeWord) : State :=
  let t := { s with cvp := { s.cvp with
    edgeOut := tset 0 s.cvp.edgeOut k w.bits,
    sentAt := tset 0 s.cvp.sentAt k (s.port + 1) } }
  let b := w.bits.toNat
  let t := raiseTrace t 0 k (b / 2 ^ 44 * 2 ^ 27 + b / 2 ^ 42 % 4 * 2 ^ 25 + b / 2 ^ 40 % 4 * 2 ^ 23 + b % 2 ^ 23)
  let t := if w.kind != .armdef && e.rel && rnSafe t w.pair && !pairSource t w.pair then
      { wbit t (cvpSafests (w.pair / 32)) cvpSafestsSAFE (w.pair % 32) false with
        cvp := { t.cvp with released := t.cvp.released.filter (fun p => p.1 != k) ++ [(k, w)] } }
    else { t with cvp := { t.cvp with released := t.cvp.released.filter (fun p => p.1 != k) } }
  match w.kind with
  | .direct => expectWord t w none t.port
  | .posted =>
    if t.cvp.tags.any (fun l => l.lane == k && l.tag == w.tag && l.armed) then postLeft (expectWord t w (some w.tag) t.port) w.tag
    else postLeft { t with cvp := { t.cvp with tags := t.cvp.tags.map (fun l =>
      if l.lane == k && l.tag == w.tag then { l with words := l.words ++ [(w, t.port)], left := true } else l) } } w.tag
  | .armdef => postLeft { t with cvp := { t.cvp with tags := t.cvp.tags.map (fun l =>
      if l.lane == k && l.tag == w.tag then { l with left := true } else l) } } w.tag

/-- Commutations of a POSTED word's pair that the host will hold pending before it once its tag, on the lane entry `l`, has
armed in its arm cycle (R24): those expected by then, and the words of tags that arm no later. -/
def pendingAtArm (s : State) (l : LaneTag) (w : EdgeWord) : Nat :=
  (s.cvp.expects.filter (fun e => e.pair == w.pair && e.cyc * 128 + e.fine < w.time && max s.port l.arm ≤ e.cyc)).length +
    ((s.cvp.tags.filter (fun t => t.lane == l.lane && !t.armed && !t.gone && t.arm ≤ l.arm)).map (fun t =>
      (t.words.filter (fun x => x.1.pair == w.pair && x.1.time < w.time && l.arm ≤ x.1.cyc)).length)).sum

/-- A word would be the fifth pending commutation of its pair (R24). -/
def fifthPending (s : State) (k : Nat) (w : EdgeWord) : Bool :=
  match w.kind, laneTag s k w.tag with
  | .direct, _ => 4 ≤ pendingBefore s w
  | .posted, some l => if l.armed then 4 ≤ pendingBefore s w else 4 ≤ pendingAtArm s l w
  | _, _ => false

/-- CVP_CTRL.LEAD; 0 and 1 act as 2. -/
def cvpLead (s : State) : Nat := max 2 (rf s cvpCtrl cvpCtrlLEAD)

/-- Take words from the head of a lane's queue until one leaves (R26): a word of a safe pair is
discarded (R34), one too far ahead is dropped (R23), an early DIRECT time is clamped (R23). The word behind a discarded
one leaves in the same PORT cycle, even one handed over less than two PORT cycles before (DESIGN CHOICE, log entry
157). A word that would be the fifth pending one of its pair is dropped (R24; DESIGN CHOICE, log entry 158). An ARMDEF
whose POSTED words are all discarded for safe pairs is discarded with them (R101). -/
def laneLeave : Nat → State → Nat → State
  | 0, s, _ => s
  | n + 1, s, k =>
    match laneQ s k with
    | [] => s
    | e :: r =>
      let w := e.word
      let t := setLaneQ s k r
      if w.kind != .armdef && pairSource s w.pair then laneLeave n t k
      else if armdefVoid s w (r.map (fun x => x.word)) then
        let t := setLaneQ t k (r.filter (fun x => !(x.word.kind == .posted && x.word.tag == w.tag)))
        laneLeave n { t with cvp := { t.cvp with tags := t.cvp.tags.filter (fun l => !(l.lane == k && l.tag == w.tag)) } } k
      else if s.port + 32767 < w.cyc then
        if w.kind == .armdef then
          let mine := r.filter (fun x => x.word.kind == .posted && x.word.tag == w.tag)
          let t := setLaneQ t k (r.filter (fun x => !(x.word.kind == .posted && x.word.tag == w.tag)))
          let t := { t with cvp := { t.cvp with
            tags := t.cvp.tags.filter (fun l => !(l.lane == k && l.tag == w.tag)) } }
          laneLeave n (mine.foldl (fun u _ => edgeDrop u k) (edgeDrop t k)) k
        else laneLeave n (edgeDrop t k) k
      else
        let early := w.kind == .direct && w.cyc < s.port + cvpLead s
        let x := if early then { w with cyc := s.port + cvpLead s, fine := 0 } else w
        if fifthPending s k x then laneLeave n (edgeDrop t k) k
        else wordLeaves (if early then edgeCount t k cvpEvstsEDGECLAMPED else t) k e x

/-- RN_RETRACT[k] and RN_RTAG[k] (R29): the strobe is high for one cycle. -/
def rnRetract (s : State) (k : Nat) : Bool := (tget (0, 0) s.cvp.retrOut k).2 == s.port + 1 && pdOn s 52
def rnRtag (s : State) (k : Nat) : Nat := (tget (0, 0) s.cvp.retrOut k).1

/-- RN_ARM[k] and RN_ATAG[k] (R30). -/
def rnArm (s : State) (k : Nat) : Bool := (tget (0, 0) s.cvp.armOut k).2 == s.port + 1 && pdOn s 52
def rnAtag (s : State) (k : Nat) : Nat := (tget (0, 0) s.cvp.armOut k).1

/-- RN_EDGE_VLD[k] and RN_EDGE_D[k] (R21, R40). -/
def rnEdgeVld (s : State) (k : Nat) : Bool := tget 0 s.cvp.sentAt k == s.port + 1 && pdOn s 52
def rnEdgeD (s : State) (k : Nat) : Word := tget 0 s.cvp.edgeOut k

/-- Retraction of a tag requested in PORT cycle `rq`, one before this one (R29): strobed on every lane that carries it,
or, too late or armed early, withheld and recorded. POSTED words of the tag that still wait in a lane's queue leave all
the same (DESIGN CHOICE, log entry 159). -/
def cvpRetract (s : State) (tag rq : Nat) : State :=
  let mine := s.cvp.tags.filter (fun t => t.tag == tag)
  let late := mine.any (fun t => t.early || t.armed || t.arm < rq + 4)
  if mine.isEmpty then s
  else if late then
    let arm := (mine.head?.map (fun t => t.arm)).getD 0
    let t := inc (wb s cvpEvsts cvpEvstsLATERETRACT true) cvpEvcnt cvpEvcntLATE
    let t := wf t cvpLaterec cvpLaterecTAG tag
    let t := wf t cvpLaterec cvpLaterecREQCYC (rq % 65536)
    let t := wf t cvpLaterec cvpLaterecARMCYC (arm % 65536)
    semFire t 0x098
  else
    { s with cvp := { s.cvp with
        tags := s.cvp.tags.map (fun t => if t.tag == tag then { t with gone := true } else t),
        retrOut := mine.foldl (fun o t => tset (0, 0) o t.lane (tag, s.port + 1)) s.cvp.retrOut } }

/-- The retraction of a tag would be withheld (R29). -/
def retractLate (s : State) (tag rq : Nat) : Bool :=
  (s.cvp.tags.filter (fun t => t.tag == tag)).any (fun t => t.early || t.armed || t.arm < rq + 4)

/-- Early arm of a tag (R30): strobed on every lane that carries it. The host samples the strobe in this cycle, and arms
the tag in the next. -/
def cvpArm (s : State) (tag : Nat) : State :=
  let mine := s.cvp.tags.filter (fun t => t.tag == tag && !t.armed && !t.gone)
  { s with cvp := { s.cvp with
    armOut := mine.foldl (fun o t => tset (0, 0) o t.lane (tag, s.port + 1)) s.cvp.armOut
    tags := s.cvp.tags.map (fun t => if t.tag == tag && !t.armed && !t.gone then { t with early := true } else t) } }

/-- The host arms the tags whose early-arm strobe it sampled in the cycle before (R30). -/
def earlyArmTick (s : State) : State :=
  ((s.cvp.tags.filter (fun t => t.early && !t.armed && !t.gone)).map (fun t => t.tag)).foldl
    (fun t g => tagArm t g true) s

end Sys2Proof.Machine
end

