-- ==== Sys2Proof/Machine/Ecc.lean ====
section
/-! DEFINITION. The address map, and the check bits and tag copies of the memories (R263, R267, R272, R273, R275, R276). -/

namespace Sys2Proof.Machine

/-! The address map (R263). -/

/-- A target of the interconnect. -/
inductive Target where
  | shared (stripe bank : Nat)
  | dataSp (n : Nat)
  | instSp (n : Nat)
  | aeRam (n : Nat)
  | regs
  | host
  | persist
  | none_
deriving DecidableEq, Repr

/-- The target of a block word address (R263). -/
def targetOf (a : Nat) : Target :=
  if a < 0x100000 then .shared (a / 0x10000) (a % 4)
  else if a < 0x180000 then .dataSp ((a - 0x100000) / 0x10000)
  else if a < 0x1C0000 then .instSp ((a - 0x180000) / 0x8000)
  else if a < 0x200000 then .none_
  else if a < 0x210000 then .aeRam ((a - 0x200000) / 0x2000)
  else if a < 0x40000000 then .none_
  else if a < 0x80000000 then .regs
  else if a < 0x100000000 then .none_
  else if a < 0x8000000000 then .host
  else if a < 0x10000000000 then .persist
  else .none_

/-- The target keeps token tags (R231). -/
def Target.tagged : Target → Bool
  | .shared _ _ | .dataSp _ | .instSp _ => true
  | _ => false

/-- The power domain of a memory target (R162, R276). -/
def Target.domain : Target → Option Nat
  | .shared s _ => some (28 + s)
  | .dataSp n | .instSp n => some (8 + n)
  | .aeRam n => some (18 + n)
  | _ => none

/-- Number of a memory array: shared-memory banks 4s + b, then data and instruction scratchpads and
local RAMs (the order of MEM_BANK and MEM_SPECC, R284). -/
def Target.array : Target → Option Nat
  | .shared s b => some (4 * s + b)
  | .dataSp n => some (64 + n)
  | .instSp n => some (72 + n)
  | .aeRam n => some (80 + n)
  | _ => none

/-- Words of an array. -/
def arraySize (i : Nat) : Nat :=
  if i < 64 then 0x4000 else if i < 72 then 0x10000 else if i < 80 then 0x8000 else 0x2000

/-- Address of word j of array i. -/
def arrayAddr (i j : Nat) : Nat :=
  if i < 64 then i / 4 * 0x10000 + 4 * j + i % 4
  else if i < 72 then 0x100000 + (i - 64) * 0x10000 + j
  else if i < 80 then 0x180000 + (i - 72) * 0x8000 + j
  else 0x200000 + (i - 80) * 0x2000 + j

/-- Class of a port; none for ports that hold no reservations (R267). -/
def portClass (p : Nat) : Option Nat :=
  if p < 10 then some 1 else if p < 18 then some 2 else if p = 18 then some 3 else if p = 19 then some 4
  else if p = 20 then some 5 else if p < 23 then some 6 else if p < 25 then some 7 else none

/-- Port of core k (R267). -/
def corePort (k : Nat) : Nat := if k < 8 then 10 + k else 15 + k

/-- Bank b of stripe s is retired (R275). -/
def retired (s : State) (st b : Nat) : Bool := (rf s (memRetire st) memRetireRETIRED).testBit b

/-- Bank b of stripe s scrubs FAST (R274). -/
def bankFast (s : State) (st b : Nat) : Bool := rb s (memBank st b) memBankFAST

/-! ECC (R272 to R275). -/

/-- Add an entry to the ECC log (R284). -/
def eccLog (s : State) (kind bit addr port : Nat) : State :=
  let i := rf s memLogptr memLogptrECCWR
  let t := if s.msys.unreadEcc.contains i then inc s memLogptr memLogptrECCLOST else s
  let t := wr t (memEcclog i 0) (BitVec.ofNat 48 (kind * 2 ^ 46 + bit * 2 ^ 40 + addr % 2 ^ 40))
  let t := wr t (memEcclog i 1) (BitVec.ofNat 48 (port * 2 ^ 43 + (btime s).toNat % 2 ^ 32))
  let t := wf t memLogptr memLogptrECCWR ((i + 1) % 8)
  { t with msys := { t.msys with unreadEcc := if t.msys.unreadEcc.contains i then t.msys.unreadEcc else i :: t.msys.unreadEcc } }

/-- Add a torn burst to its log and set TORN (R282, R284). -/
def tornLog (s : State) (port addr len done : Nat) (write : Bool) : State :=
  let i := rf s memLogptr memLogptrTBWR
  let t := if s.msys.unreadTb.contains i then inc s memLogptr memLogptrTBLOST else s
  let t := wr t (memTblog i 0) (BitVec.ofNat 48 (addr % 2 ^ 40))
  let t := wr t (memTblog i 1) (BitVec.ofNat 48 (port * 2 ^ 43 + b2n write * 2 ^ 42 + len % 16 * 2 ^ 38
    + done % 16 * 2 ^ 34 + (btime s).toNat % 2 ^ 32))
  let t := wb (wf t memLogptr memLogptrTBWR ((i + 1) % 8)) memSts memStsTORN true
  { t with msys := { t.msys with unreadTb := if t.msys.unreadTb.contains i then t.msys.unreadTb else i :: t.msys.unreadTb } }

/-- Retire bank b of stripe s (R275). -/
def retireBank (s : State) (st b : Nat) : State :=
  if retired s st b then s
  else wb (wf s (memRetire st) memRetireRETIRED (natBit (rf s (memRetire st) memRetireRETIRED) b true))
    memSts memStsBANKRETIRED true

/-- Count a corrected error of array i, tag errors included (R273, R284). -/
def countCe (s : State) (i : Nat) : State :=
  let t := if i < 64 then inc s (memBank (i / 4) (i % 4)) memBankCECNT else inc s (memSpecc (i - 64)) memSpeccCECNT
  let t := wb t memSts memStsECCCE true
  { t with msys := { t.msys with passCe := tset 0 t.msys.passCe i (tget 0 t.msys.passCe i + 1) } }

/-- Count an uncorrectable error of array i; with AUTORET its bank retires at UETHR (R273, R275). -/
def countUe (s : State) (i : Nat) : State :=
  if i < 64 then
    let t := wb (inc s (memBank (i / 4) (i % 4)) memBankUECNT) memSts memStsECCUE true
    if rb t memCtrl memCtrlAUTORET && rf t memCtrl memCtrlUETHR ≤ rf t (memBank (i / 4) (i % 4)) memBankUECNT then
      retireBank t (i / 4) (i % 4)
    else t
  else wb (inc s (memSpecc (i - 64)) memSpeccUECNT) memSts memStsECCUE true

/-- Key of a word's upset, and of its pair's tag upset. -/
def upsetKey (a : Nat) : Nat := a
def tagUpsetKey (a : Nat) : Nat := 2 ^ 40 + a / 2

/-- Upset recorded at a key. -/
def upsetAt (s : State) (k : Nat) : Upset := tget Upset.none s.msys.upsets k

/-- Record or clear an upset. -/
def setUpset (s : State) (k : Nat) (u : Upset) : State :=
  { s with msys := { s.msys with upsets := tset Upset.none s.msys.upsets k u } }

/-- An upset strikes the stored word (R272): a second bit makes it uncorrectable, and tag copies that
disagree read as 0. -/
def strike (s : State) (a : Nat) (u : Upset) : State :=
  match u with
  | .none => s
  | .tag => if (targetOf a).tagged then tagWr (setUpset s (tagUpsetKey a) .tag) (a / 2 * 2) false else s
  | .multi => setUpset s (upsetKey a) .multi
  | .bit b =>
    match upsetAt s (upsetKey a) with
    | .none => setUpset s (upsetKey a) (.bit b)
    | .bit c => if c = b then setUpset s (upsetKey a) .none else setUpset s (upsetKey a) .multi
    | _ => s

/-- Queue a word for the scrubber (R273). -/
def queueScrub (s : State) (a : Nat) : State :=
  if s.msys.queue.contains a then s else { s with msys := { s.msys with queue := s.msys.queue ++ [a] } }

/-- A read checks its word and its tag copies (R273): whether it is uncorrectable, and the state with
what was counted and logged. `tags`: the pair's copies are checked with this word. -/
def eccCheck (s : State) (i a port : Nat) (tags : Bool) : Bool × State :=
  let t := if tags && upsetAt s (tagUpsetKey a) = .tag && (targetOf a).tagged then
      queueScrub (eccLog (countCe s i) 1 0 a port) a else s
  match upsetAt t (upsetKey a) with
  | .bit b => (false, queueScrub (eccLog (countCe t i) 0 b.val a port) a)
  | .multi => (true, eccLog (countUe t i) 2 0 a port)
  | _ => (false, t)

/-! Access to the arrays (R264, R275, R276). -/

/-- The memory domain of an address is being cleared, or stripe 0 waits for its boot fill: accesses stall (R276,
R483). -/
def clearingAt (s : State) (a : Nat) : Bool :=
  match (targetOf a).domain with
  | some d => s.msys.clearing.any (fun p => p.1 == d) || (d == 28 && s.pctl.seq == 5 && s.pctl.fill.isNone)
  | none => false

/-- The memory domain of an address is being cleared after its wake (R276). -/
def beingCleared (s : State) (a : Nat) : Bool :=
  match (targetOf a).domain with
  | some d => s.msys.clearing.any (fun p => p.1 == d)
  | none => false

/-- The response an access to an array meets before it reaches its word, 0 where it does (R264, R275). -/
def arrayCode (s : State) (a : Nat) : Nat :=
  match targetOf a with
  | .shared st b => if !pdOn s (28 + st) then 3 else if retired s st b then 6 else 0
  | t => match t.domain with
    | some d => if pdOn s d then 0 else 3
    | none => 4

/-- The same for an access of a hardware master: one to a domain that is being cleared stalls, and completes afterwards as it does in
the cleared array, where it acts at once (R276). -/
def arrayAnswer (s : State) (a : Nat) : Nat := if beingCleared s a then 0 else arrayCode s a

/-- A store renews the check bits of its word and the tag copies of its pair (R272, R273). -/
def storeFresh (s : State) (a : Nat) : State :=
  setUpset (setUpset s (upsetKey a) .none) (tagUpsetKey a) .none

/-- A unit of the block reads this word without data: its domain is not ON, its bank is retired, or two of its bits are in
error (R264, R273, R275). -/
def noData (s : State) (a : Nat) : Bool := arrayAnswer s a != 0 || upsetAt s (upsetKey a) == .multi

/-- A word of the block's memories as a hardware unit obtains it: where the read gives no data, a free value. -/
def ownWord (s : State) (a : Nat) : Word := if noData s a then Config.noDataWord s.free a else memRd s a

end Sys2Proof.Machine
end

