-- ==== Sys2Proof/Machine/AeBase.lean ====
section
/-! DEFINITION. Law slots: their state, their local RAM areas, and the edge former
(R43, R44, R50, R54, R58, R59, R82 to R84). -/

namespace Sys2Proof.Machine

/-- Engine and local number of a slot (R43). -/
def engOf (n : Nat) : Nat := n / 16
def locOf (n : Nat) : Nat := n % 16

/-- The slot's hidden state. -/
def slotOf (s : State) (n : Nat) : Slot := tget Slot.off s.ae.slots n

/-- Replace the slot's hidden state. -/
def setSlot (s : State) (n : Nat) (x : Slot) : State :=
  { s with ae := { s.ae with slots := tset Slot.off s.ae.slots n x } }

/-- Registers of slot n. -/
def slotCtl (n : Nat) : Nat := aeSlotctl (engOf n) (locOf n)
def slotSts (n : Nat) : Nat := aeSlotsts (engOf n) (locOf n)
def slotSrc (n : Nat) : Nat := aeSlotsrc (engOf n) (locOf n)
def slotPer (n : Nat) : Nat := aeSlotper (engOf n) (locOf n)
def slotBase (n : Nat) : Nat := aeSlotbase (engOf n) (locOf n)
def slotHoctl (n : Nat) : Nat := aeHoctl (engOf n) (locOf n)
def slotHocfg (n : Nat) : Nat := aeHocfg (engOf n) (locOf n)
def slotHosts (n : Nat) : Nat := aeHosts (engOf n) (locOf n)
def slotHoman (n : Nat) : Nat := aeHoman (engOf n) (locOf n)
def slotPhs (n : Nat) : Nat := aeSlotphs (engOf n) (locOf n)
def slotAdtcfg (n : Nat) : Nat := aeAdtcfg (engOf n) (locOf n)
def slotAdtwin (n : Nat) : Nat := aeAdtwin (engOf n) (locOf n)

/-- The phases of R44. -/
def phDisabled : Nat := 0
def phPre : Nat := 1
def phArmed : Nat := 2
def phOutput : Nat := 3
def phPost : Nat := 4

/-- The slot's phase (R44). -/
def phaseOf (s : State) (n : Nat) : Nat := rf s (slotSts n) aeSlotstsPHASE

/-- Set the slot's phase. -/
def setPhase (s : State) (n p : Nat) : State := wf s (slotSts n) aeSlotstsPHASE p

/-- Set a status flag of the slot. -/
def slotFlag (s : State) (n : Nat) (f : Fld) (b : Bool) : State :=
  if b then wb s (slotSts n) f true else s

/-- Block word address of word `off` of engine e's local RAM (R50). -/
def ramAddr (e off : Nat) : Nat := 0x200000 + e * 0x2000 + off

/-- A word of the slot's local RAM as its engine reads it (R273). -/
def ramRd (s : State) (n off : Nat) : Word :=
  let a := ramAddr (engOf n) (off % 0x2000)
  if upsetAt s (upsetKey a) == .multi then Config.noDataWord s.free a else memRd s a

/-- The engine's read of a word checks it, and counts and logs what it finds (R273). -/
def ramCheck (s : State) (n off : Nat) : State :=
  let a := ramAddr (engOf n) (off % 0x2000)
  (eccCheck s (80 + engOf n) a (1 + engOf n) false).2

/-- The engine's reads of several words. -/
def ramChecks (s : State) (n : Nat) (l : List Nat) : State := l.foldl (fun t o => ramCheck t n o) s

/-- Write a word of the slot's local RAM, with fresh check bits (R272). -/
def ramWr (s : State) (n off : Nat) (v : Word) : State :=
  let a := ramAddr (engOf n) (off % 0x2000)
  let t := memWr s a v
  if upsetAt s (upsetKey a) = .none then t else setUpset t (upsetKey a) .none

/-- Bases of the slot's areas (R50). -/
def pBase (s : State) (n : Nat) : Nat := rf s (slotBase n) aeSlotbasePBASE
def cBase (s : State) (n : Nat) : Nat := rf s (slotBase n) aeSlotbaseCBASE
def sBase (s : State) (n : Nat) : Nat := rf s (slotBase n) aeSlotbaseSBASE
def imgBase (n : Nat) : Nat := 0x1C00 + 64 * locOf n

/-- A coefficient of the active bank (R50), Q8.40. -/
def coef (s : State) (n b : Nat) : Int :=
  sint (ramRd s n (cBase s n + 64 * rf s (slotCtl n) aeSlotctlBANK + b))

/-- Output Yi as the state area holds it. -/
def yVal (s : State) (n i : Nat) : Word := ramRd s n (sBase s n + 0x20 + i)

/-- lim(v, lo, hi): hi wins where lo lies above it (R57). -/
def limInt (v lo hi : Int) : Int := min (max v lo) hi

/-- Move `v` toward `t` by at most `st`. -/
def slewNat (v t st : Nat) : Nat := if v < t then min t (v + st) else max t (v - st)

/-- An ADAPT event fires when a flag of R89 goes from 0 to 1. -/
def adaptFlag (s : State) (e a : Nat) (f : Fld) : State :=
  if rb s a f then s else semFire (wb s a f true) (0x080 + e)

/-- A clamp of a slot's dead time is flagged and counted (R82, R84). -/
def adtClamp (s : State) (n : Nat) : State :=
  inc (adaptFlag s (engOf n) (slotAdtcfg n) aeAdtcfgPOLICYCLAMPED) (slotAdtcfg n) aeAdtcfgCLAMPS

/-- Address of template e of slot n. -/
def tmplAddr (n e : Nat) : Nat := aeTmpl (engOf n) (locOf n) e

/-- Address of ADT[e] of slot n. -/
def adtAddr (n e : Nat) : Nat := aeAdtval (engOf n) (locOf n) e

/-- Template e forms a word: enabled with MODE not 0b11 (R58). A word with S = 0b11 is never sent (R21): a template that
holds it counts as disabled too (DESIGN CHOICE, log entry 160). -/
def tmplOn (s : State) (n e : Nat) : Bool :=
  rb s (tmplAddr n e) aeTmplEN && rf s (tmplAddr n e) aeTmplMODE != 3 && rf s (tmplAddr n e) aeTmplS != 3

/-- Template e adapts its dead time (R83). -/
def tmplAdapts (s : State) (n e : Nat) : Bool :=
  rbit s (slotAdtcfg n) aeAdtcfgADTEN e &&
    (rf s (tmplAddr n e) aeTmplS == 1 || rf s (tmplAddr n e) aeTmplS == 2)

/-- The output whose switch the template's commutation turns on (R83). -/
def tmplOut (s : State) (n e : Nat) : Nat :=
  2 * rf s (tmplAddr n e) aeTmplPAIR + b2n (rf s (tmplAddr n e) aeTmplS == 2)

/-- ADT[e] becomes the template's DT clipped into the window in effect (R83), while FREEZE is 1 too (DESIGN CHOICE, log
entry 167). Clipping a DT below the floor here sets and counts nothing (R84; DESIGN CHOICE, log entry 181). -/
def adtPreset (s : State) (n e : Nat) : State :=
  let x := slotOf s n
  wf s (adtAddr n e) aeAdtvalDT (min (max (rf s (tmplAddr n e) aeTmplDT) x.winLo) x.winHi)

/-- The update of ADT[e] at an edge forming (R82, R83). -/
def adtUpdate (s : State) (n e : Nat) : State :=
  if rb s (slotAdtcfg n) aeAdtcfgFREEZE then s
  else
    let x := slotOf s n
    let o := tmplOut s n e
    let cur := rf s (adtAddr n e) aeAdtvalDT
    let m := rf s (cvpSwndly o) cvpSwndlyDLY
    let want := if tget 0 x.meas e < tget 0 s.cvp.swnCnt o && m != 0x1FFF then m + rf s (slotAdtcfg n) aeAdtcfgMARGIN else cur
    let tgt := min (max want x.winLo) x.winHi
    let t := if tgt != want then adtClamp s n else s
    let t := setSlot t n { x with meas := tset 0 x.meas e s.cvp.swnNo }
    wf t (adtAddr n e) aeAdtvalDT (slewNat cur tgt (max 1 (rf s (slotAdtcfg n) aeAdtcfgSTEP)))

/-- The update of every adaptive template before the words are assembled, whether or not it forms one (R83). -/
def adtAll (s : State) (n : Nat) : State := forN 8 s (fun t e => if tmplAdapts t n e then adtUpdate t n e else t)

/-- The dead time of template e's word after the updates (R58, R83, R84), and the state with a raise counted. -/
def tmplDt (s : State) (n e : Nat) : Nat × State :=
  let dt := if tmplAdapts s n e then rf s (adtAddr n e) aeAdtvalDT else rf s (tmplAddr n e) aeTmplDT
  if dt < s.par.adt then (s.par.adt, adtClamp s n) else (dt, s)

/-- The period boundary a trigger at tick `tau` targets (R58). -/
def periodStart (per phase tau : Nat) (later : Bool) : Nat :=
  let p := tau + per - ((tau + per - phase % per) % per)
  if later then p + per else p

/-- The same where `tau` counts on without wrap: boundaries stand by the 48-bit extended capture time (R17, R58). -/
def targetStart (per phase tau : Nat) (later : Bool) : Nat :=
  tau + (periodStart per phase (tau % 2 ^ 55) later - tau % 2 ^ 55)

/-- Target P of slot n for a trigger at tick `tau` (R58). -/
def slotTarget (s : State) (n tau : Nat) : Nat :=
  targetStart (rf s (slotPer n) aeSlotperPER) (rf s (slotPer n) aeSlotperPHASE) tau
    (rb s (slotPer n) aeSlotperTGT)

/-- 1.0 in Q16.32. -/
def oneQ : Int := 2 ^ 32

/-- The word of template e for output values `ys` and target P (R58), and YCLIP. A time below zero, near block time 0,
stands as 0 (DESIGN CHOICE, log entry 161). -/
def tmplWord (s : State) (n e : Nat) (ys : List Word) (p dt : Nat) : EdgeWord × Bool :=
  let a := tmplAddr n e
  let mode := rf s a aeTmplMODE
  let y := sint (ys.getD (rf s a aeTmplYSEL) 0)
  let yc := limInt y 0 oneQ
  let d := rne (yc * (rf s (slotPer n) aeSlotperPER : Int)) 32
  let base : Int := (p : Int) + rf s a aeTmplOFF
  let tm : Int := if mode = 0 then base else if mode = 1 then base + d else base - d
  (⟨.direct, rf s a aeTmplPAIR, rf s a aeTmplS, dt, 0, tm.toNat / 128, tm.toNat % 128⟩,
    mode != 0 && yc != y)

/-- Insert a word by ascending time, behind words of equal time (R59). -/
def insertWord (w : EdgeWord) : List EdgeWord → List EdgeWord
  | [] => [w]
  | x :: r => if w.time < x.time then w :: x :: r else x :: insertWord w r

/-- Edge forming (R58, R59): the words of the enabled templates in ascending time. -/
def formWords (s : State) (n : Nat) (ys : List Word) (p : Nat) : List EdgeWord × State :=
  (List.range 8).foldl (fun acc e =>
    if tmplOn acc.2 n e then
      let d := tmplDt acc.2 n e
      let w := tmplWord d.2 n e ys p d.1
      (insertWord w.1 acc.1, slotFlag d.2 n aeSlotstsYCLIP w.2)
    else acc) ([], adtAll s n)

/-- SHADOW or MUTE withholds the slot's words (R68, R76); in a role other than ACTIVE the engine acts
as if SHADOW were 1 (R426). -/
def slotMuted (s : State) (n : Nat) : Bool :=
  !isActive s || rb s (aeCtrl (engOf n)) aeCtrlSHADOW || rb s (slotHoctl n) aeHoctlMUTE

/-- Hand the slot's words to the CVP unless they are withheld; SLOTOUT fires when they are handed
over (R59, R68, R76, R128). -/
def slotHand (s : State) (n : Nat) (ws : List EdgeWord) : State :=
  if slotMuted s n then s
  else if ws.isEmpty then s
  else semFire (cvpHandAll s (.slot n) ws) (0x200 + n)

/-- Hand words formed for outputs `ys` and target P over; they are kept as the slot's last words (R59, R122). -/
def slotGive (s : State) (n : Nat) (ws : List EdgeWord) (ys : List Word) (p : Nat) : State :=
  let t := slotHand s n ws
  if slotMuted s n || ws.isEmpty then t
  else setSlot t n { slotOf t n with lastY := some ys, lastP := p }

end Sys2Proof.Machine
end

