-- ==== Sys2Proof/Machine/Cvp.lean ====
section
/-! DEFINITION. Commands of the converter port: samples in, words out, reports, trips, switch-node
feedback and drive grant. -/

namespace Sys2Proof.Machine

/-- Number of ones among the low n bits. -/
def onesBelow (n w : Nat) : Nat := (List.range n).foldl (fun c i => c + b2n (w.testBit i)) 0

/-- Odd parity over SUB, DATA, TSC and TSF with PAR (R15). -/
def smpParityOk (sub : BitVec 4) (data : BitVec 24) (tsc : BitVec 16) (tsf : BitVec 7) (par : Bool) : Bool :=
  (onesBelow 4 sub.toNat + onesBelow 24 data.toNat + onesBelow 16 tsc.toNat + onesBelow 7 tsf.toNat
    + b2n par) % 2 == 1

/-- The latest block time not after the capture whose low 16 bits equal TSC (R17). -/
def extendTsc (now tsc : Nat) : Option Nat :=
  let back := (now + 65536 - tsc) % 65536
  if now < back then none else some (now - back)

/-- The sample is stale (R17); STALE 0 acts as 1. -/
def smpStale (s : State) (tsc : Nat) : Bool :=
  match extendTsc s.port tsc with
  | none => true
  | some t => decide (max 1 (rf s cvpCtrl cvpCtrlSTALE) < s.port - t)

/-- e = g r + o, rounded once to Q16.32 with ties to even and saturated (R18). -/
def smpScale (c : Cal) (data : BitVec 24) : Int × Bool :=
  satInt 48 (rne (sint c.gain * data.toInt + sint c.offs * 2 ^ 23) 23)

/-- A failed check sets its flag, its counter and the lane's bit (R16). -/
def smpReject (s : State) (k : Nat) (flag cnt : Fld) : State :=
  wbit (inc (wb s cvpEvsts flag true) cvpEvcnt cnt) cvpLnsts cvpLnstsINERR k true

/-- The trigger input of slot n accepts samples (TRIG is not 0b01) and its engine is ON (R46). -/
def slotTakesSamples (s : State) (n : Nat) : Bool :=
  pdOn s (18 + n / 16) && rf s (aeSlotsrc (n / 16) (n % 16)) aeSlotsrcTRIG != 1

/-- A sample on SSP input i of an enabled cell: its latest value, and a trigger where the input is
the cell's TRGI (R91, R95). -/
def sspSample (s : State) (i : Nat) (v : Word) (cyc fine : Nat) : State :=
  { s with ssp := { s.ssp with
      x := tset 0 s.ssp.x i v,
      ins := if i % 8 = rf s (sspCcfg (i / 8)) sspCcfgTRGI then s.ssp.ins ++ [(i, ⟨s.port, cyc, fine⟩)]
        else s.ssp.ins } }

/-- An accepted sample is presented to its destination and written to CVP_CHVAL (R20). -/
def smpPresent (s : State) (c : Nat) (v : Word) (cyc fine : Nat) : State :=
  let t := semFire (wr s (cvpChval c) v) (0x100 + c)
  let i := rf t (cvpChcfg c) cvpChcfgDIDX
  match rf t (cvpChcfg c) cvpChcfgDKIND with
  | 1 => if slotTakesSamples t i then
      { t with ae := { t.ae with trigs := t.ae.trigs ++ [(i, .sample v cyc fine)] } } else t
  | 2 => if pdOn t 26 && i < 64 && rb t (sspCcfg (i / 8)) sspCcfgEN then sspSample t i v cyc fine else t
  | _ => t

/-- The calibration pair that a sample of channel c captured now uses, and whether there is one (R19): in the cycle of a
load, what was there before it. -/
def calNow (s : State) (c : Nat) : CalPrev :=
  let old := tget ⟨0, ⟨0, 0⟩, false⟩ s.cvp.calPrev c
  if old.cyc = s.port + 1 then old
  else ⟨0, tget ⟨0, 0⟩ s.cvp.cal c, rb s (cvpChcfg c) cvpChcfgCALOK⟩

/-- SAMPLE_CAPTURE (R15 to R20): the checks of R16 in order, scaling, presentation. -/
def execSampleCapture (k : Fin 16) (sub : BitVec 4) (data : BitVec 24) (tsc : BitVec 16)
    (tsf : BitVec 7) (par : Bool) (s : State) : Out :=
  let c := sub.toNat * 16 + k.val
  if !(pdOn s 51 && rbit s cvpLaneen cvpLaneenINGEN k.val && s.running) then ok s
  else if !smpParityOk sub data tsc tsf par then
    ok (smpReject s k.val cvpEvstsSMPPARITY cvpEvcntSMPBAD)
  else if !rb s (cvpChcfg c) cvpChcfgEN then ok s
  else if smpStale s tsc.toNat then ok (smpReject s k.val cvpEvstsSMPSTALE cvpEvcntSMPOLD)
  else if !(calNow s c).ok then
    ok (smpReject s k.val cvpEvstsSMPUNCAL cvpEvcntSMPBAD)
  else
    let r := smpScale (calNow s c).cal data
    let t := if r.2 then wb (wb s (cvpChcfg c) cvpChcfgSAT true) cvpEvsts cvpEvstsSAT true else s
    ok (smpPresent t c (wordOfInt r.1) ((extendTsc s.port tsc.toNat).getD 0) tsf.toNat)

/-- The head of lane k may leave now: two PORT cycles after its hand-over, one word a cycle (R26). -/
def laneReady (s : State) (k : Nat) : Bool :=
  s.running && pdOn s 52 && tget 0 s.cvp.sentAt k != s.port + 1 &&
    (match laneQ s k with
     | e :: _ => decide (e.at_ + 2 ≤ s.port)
     | [] => false)

/-- EDGE_WORD_LEAVE (R26). -/
def execEdgeWordLeave (k : Fin 16) (s : State) : Out :=
  onlyIf (laneReady s k.val) s (laneLeave (laneQ s k.val).length s k.val)

/-- Last reported state of a pair (R32). -/
def setApplied (s : State) (p v : Nat) : State :=
  wf s (cvpApplied (p / 16)) ⟨2 * (p % 16) + 1, 2 * (p % 16)⟩ v

/-- APPLIED_MISMATCH and the lane's bit (R32). -/
def mismatch (s : State) (k : Nat) : State :=
  wbit (wb s cvpEvsts cvpEvstsAPPLIEDMISMATCH true) cvpLnsts cvpLnstsEGERR k true

/-- Every commutation still expected on the lane, whose event lies before this cycle, gains a cycle (R31, R32). -/
def extendBounds (s : State) (k : Nat) : State :=
  { s with cvp := { s.cvp with expects := s.cvp.expects.map (fun e =>
      if laneOf e.pair == k && e.cyc < s.port then { e with extra := e.extra + 1 } else e) } }

/-- A report of KIND 0b00: an executed commutation (R32). -/
def reportExecuted (s : State) (k p v cnt : Nat) : State :=
  let hit := s.cvp.expects.find? (fun e => e.pair == p && e.cyc % 65536 == cnt && e.cyc ≤ s.port)
  let t := match hit with
    | some e =>
      let u := { s with cvp := { s.cvp with expects := s.cvp.expects.erase e } }
      if e.s == v then u else mismatch u k
    | none => mismatch s k
  tagRelease (setApplied t p v)

/-- A report of KIND 0b01: the tag is armed on the lane (R28, R101). -/
def reportArmed (s : State) (k tag : Nat) : State :=
  let t := match laneTag s k tag with
    | some l => if l.armed then s else tagArm s tag false
    | none => s
  tagRelease { t with cvp := { t.cvp with tags := t.cvp.tags.map (fun l =>
    if l.lane == k && l.tag == tag then { l with rep := true } else l) } }

/-- A report of KIND 0b10: the tag is retracted on the lane and out of use there (R101). -/
def reportRetracted (s : State) (k tag : Nat) : State :=
  postsSync { s with cvp := { s.cvp with tags := s.cvp.tags.filter (fun l => !(l.lane == k && l.tag == tag)) } }

/-- A report of KIND 0b11: the pair entered or left the safe state; on entry, in the cycle that `cnt` names, the host has
discarded what was pending or unarmed on the pair (R34): the words that had left the block by then. -/
def reportSafe (s : State) (p v cnt : Nat) (ent : Bool) : State :=
  let at_ := (extendTsc s.port cnt).getD 0
  let kept := s.cvp.expects.filter (fun e => !(e.pair == p && e.sent ≤ at_))
  let t := if ent then
      { s with cvp := { s.cvp with
        expects := kept,
        swn := s.cvp.swn.filter (fun q => q.1 / 2 != p || kept.any (fun e => e.pair == p && e.cyc * 128 + e.fine == q.2)),
        tags := s.cvp.tags.map (fun l => { l with words := l.words.filter (fun w => !(w.1.pair == p && w.2 ≤ at_)) }) } }
    else s
  let t := if ent then { t with dbg := { t.dbg with wait := t.dbg.wait.map (fun w => (w.1, w.2.filter (· != p))) } } else t
  tagRelease (setApplied t p v)

/-- APPLIED_REPORT (R31, R32, R101). -/
def execAppliedReport (k : Fin 16) (d : BitVec 32) (s : State) : Out :=
  let id := (d.toNat >>> 25) % 32
  let p := (id % 16) * 16 + k.val
  let v := (d.toNat >>> 23) % 4
  let t := match d.toNat >>> 30 with
    | 0 => reportExecuted s k.val p v (d.toNat % 65536)
    | 1 => reportArmed s k.val id
    | 2 => reportRetracted s k.val id
    | _ => reportSafe s p v (d.toNat % 65536) (d.toNat.testBit 22)
  onlyIf (pdOn s 52 && s.running) s (extendBounds t k.val)

/-- The expected commutation's report is overdue: 8 PORT cycles and one for each report since (R31). -/
def overdue (s : State) (k : Nat) (e : Expect) : Bool :=
  laneOf e.pair == k && !e.late && decide (e.cyc + 8 + e.extra < s.port)

/-- APPLIED_REPORT_TIMEOUT (R32): the mismatch is flagged. The commutation stays expected, so its tag stays in use until
the host has reported it (R27, R101). -/
def execAppliedReportTimeout (k : Fin 16) (s : State) : Out :=
  onlyIf (s.cvp.expects.any (overdue s k.val)) s
    (mismatch { s with cvp := { s.cvp with
      expects := s.cvp.expects.map (fun e => if overdue s k.val e then { e with late := true } else e) } } k.val)

/-- The level of RN_TRIP[i] that is active under its polarity. -/
def setTripPin (s : State) (i : Nat) (active : Bool) : State :=
  let hi := active != bitOf (rd s (tripPolAddr i)) (i % 32)
  { s with cvp := { s.cvp with tripPin :=
      if hi then s.cvp.tripPin ||| BitVec.ofNat 64 (1 <<< i)
      else s.cvp.tripPin &&& ~~~ (BitVec.ofNat 64 (1 <<< i)) } }

/-- TRIP_INPUT (R36). -/
def execTripInput (i : Fin 64) (s : State) : Out := ok (tripLevel (setTripPin s i.val true) i.val)

/-- TRIP_INPUT_INACTIVE (R36): latches stay. -/
def execTripInputInactive (i : Fin 64) (s : State) : Out :=
  ok (tripLevel (setTripPin s i.val false) i.val)

/-- The system type that lets a requester write RWT fields: the host holds no token and writes where
P_HSP_RWT has the type's bit (R497); every other requester by the OTYPE it carries (R236). -/
def holdsType (s : State) (q : Req) (t : Nat) : Bool :=
  if q.who == 10 then s.par.hspRwt.getLsbD t else q.otype.toNat == t

/-- Writing ones to CVP_TGLATCH clears the latches whose group input is inactive (R37). -/
def tgClear (s : State) (v : Nat) : State :=
  (List.range 16).foldl (fun t g =>
    if v.testBit g && !groupInput t g then wbit t cvpTglatch cvpTglatchTGLAT g false else t) s

/-- TGLATCH_CLEAR (R37): RN_SAFE itself is released only under R35. -/
def execTglatchClear (q : Req) (v : BitVec 16) (s : State) : Out :=
  if holdsType s q 1 then ok (respond (tgClear s v.toNat) 0) else ok (respond s 2)

/-- Request a hand-over on every enabled slot that owns a pair; it transfers no pairs (R77). -/
def grantHandovers (s : State) : State :=
  (List.range 128).foldl (fun t n =>
    if rb t (slotCtl n) aeSlotctlEN && !rb t (slotHoctl n) aeHoctlHOREQ && !(ownedPairs t 1 n).isEmpty then
      setSlot (wb t (slotHoctl n) aeHoctlHOREQ true) n { slotOf t n with noTake := true }
    else t) s

/-- The first evaluation of every cell after a grant rise takes its base from CVP_APPLIED (R107). -/
def grantRebase (s : State) : State :=
  (List.range 8).foldl (fun t c =>
    { t with ssp := { t.ssp with cells := tset Cell.off t.ssp.cells c { tget Cell.off t.ssp.cells c with regnt := true } } }) s

/-- DRIVE_GNT_RISE (R39, R77, R107). -/
def execDriveGntRise (s : State) : Out :=
  let t := wb { s with cvp := { s.cvp with gnt := true } } cvpDrive cvpDriveGNT true
  onlyIf (!s.cvp.gnt) s (
    if rb t cvpDrive cvpDriveREQ then
      safeSync (grantRebase (grantHandovers (semFire (wb t cvpDrive cvpDriveDRIVING true) 0x09A)))
    else safeSync (wb t cvpEvsts cvpEvstsGNTUNREQUESTED true))

/-- DRIVE_GNT_FALL (R39). -/
def execDriveGntFall (s : State) : Out :=
  let t := wb (wb { s with cvp := { s.cvp with gnt := false } } cvpDrive cvpDriveGNT false)
    cvpDrive cvpDriveDRIVING false
  onlyIf s.cvp.gnt s (safeSync (
    if rb t cvpDrive cvpDriveREQ then semFire (wb t cvpEvsts cvpEvstsGNTLOST true) 0x099 else t))

/-- A measurement for output o (R38): written to CVP_SWNDLY and counted for R83. -/
def swnResult (s : State) (o d : Nat) : State :=
  let t := wb (wf s (cvpSwndly o) cvpSwndlyDLY d) (cvpSwndly o) cvpSwndlyVALID true
  { t with cvp := { t.cvp with swnNo := t.cvp.swnNo + 1, swnCnt := tset 0 t.cvp.swnCnt o (t.cvp.swnNo + 1) } }

/-- No high sample within the window: 0x1FFF and NO_ZVS (R38). -/
def swnNone (s : State) (o : Nat) : State :=
  semFire (wb (swnResult s o 0x1FFF) cvpEvsts cvpEvstsNOZVS true) 0x09B

/-- The oldest outstanding measurement of output o. -/
def swnFirst (s : State) (o : Nat) : Option (Nat × Nat) := s.cvp.swn.find? (fun q => q.1 == o)

/-- The time from a commutation to the high sample in units of 16 edge ticks (R38): where it is no
whole number of units the spec does not say how it is rounded, so either neighbour is free. -/
def swnUnits (s : State) (d : Nat) : Nat × State :=
  if d % 16 = 0 then (d / 16, s) else (d / 16 + b2n (freshBit s).1, (freshBit s).2)

/-- SWNODE_HIGH (R38): the first high sample of output o, at edge tick `fine` of the present PORT
cycle. -/
def execSwnodeHigh (o : Fin 512) (fine : BitVec 7) (s : State) : Out :=
  match swnFirst s o.val with
  | none => ok s
  | some m =>
    let now := s.port * 128 + fine.toNat
    let r := swnUnits { s with cvp := { s.cvp with swn := s.cvp.swn.erase m } } (now - m.2)
    onlyIf (pdOn s 52 && s.running && decide (m.2 ≤ now)) s (
      if now - m.2 ≤ 16 * rf s cvpSwnwin cvpSwnwinWIN then swnResult r.2 o.val r.1
      else swnNone { s with cvp := { s.cvp with swn := s.cvp.swn.erase m } } o.val)

/-- SWNODE_WINDOW_EXPIRY (R38). -/
def execSwnodeWindowExpiry (o : Fin 512) (s : State) : Out :=
  match swnFirst s o.val with
  | none => ok s
  | some m =>
    onlyIf (pdOn s 52 && s.running
        && decide (m.2 + 16 * rf s cvpSwnwin cvpSwnwinWIN < s.port * 128 + 128)) s
      (swnNone { s with cvp := { s.cvp with swn := s.cvp.swn.erase m } } o.val)

end Sys2Proof.Machine
end

