-- ==== Sys2Proof/Machine/SspBase.lean ====
section
/-! DEFINITION. The predictor's cells, references and postings (R91, R95, R100, R101). -/

namespace Sys2Proof.Machine

/-- The cell's hidden state. -/
def cellOf (s : State) (c : Nat) : Cell := tget Cell.off s.ssp.cells c

/-- Replace the cell's hidden state. -/
def setCell (s : State) (c : Nat) (x : Cell) : State :=
  { s with ssp := { s.ssp with cells := tset Cell.off s.ssp.cells c x } }

/-- A status flag of the cell. -/
def cellFlag (s : State) (c : Nat) (f : Fld) (b : Bool) : State :=
  if b then wb s (sspCsts c) f true else s

/-- ARMLEAD; 0 acts as 1 (R95). -/
def armLead (s : State) (c : Nat) : Nat := max 1 (rf s (sspClead c) sspCleadARMLEAD)

/-- The arm cycle A(P) of a boundary (R95). -/
def armCycle (s : State) (c p : Nat) : Nat := p / 128 - armLead s c

/-- The earliest boundary P with A(P) at or after `lim`, searched from boundary `p` (R95). -/
def boundaryFrom (s : State) (c per lim p : Nat) : Nat :=
  if lim + armLead s c ≤ p / 128 then p
  else p + per * (((lim + armLead s c) * 128 - p + per - 1) / per)

/-- The target of an evaluation with trigger `t` (R95): boundaries are counted from the trigger time, GUARD from the
capture cycle. -/
def cellTarget (s : State) (c : Nat) (t : DmStart) : Nat :=
  let per := rf s (sspCper c) sspCperPER
  boundaryFrom s c per (t.at_ + rf s (sspClead c) sspCleadGUARD)
    (targetStart per (rf s (sspCper c) sspCperPHASE) t.tau false)

/-- Number of members. -/
def cellW (s : State) (c : Nat) : Nat := rf s (sspCcfg c) sspCcfgW

/-- Member j's pair. -/
def memberPair (s : State) (c j : Nat) : Nat := rf s (sspPtmpl c j) sspPtmplPAIR

/-- The POSTED word of member j for target P (R100). -/
def postedWord (s : State) (c tag p cand j : Nat) : EdgeWord :=
  let tm := p + rf s (sspPtmpl c j) sspPtmplOFF
  ⟨.posted, memberPair s c j, if cand.testBit j then 2 else 1,
    max (rf s (sspPtmpl c j) sspPtmplDT) s.par.adt, tag, tm / 128, tm % 128⟩

/-- Insert by ascending pair number, and for one pair by time (R24, R100). -/
def insertPair (w : EdgeWord) : List EdgeWord → List EdgeWord
  | [] => [w]
  | x :: r => if w.pair < x.pair || (w.pair == x.pair && w.time < x.time) then w :: x :: r else x :: insertPair w r

/-- The words of a posting (R100): an ARMDEF on every lane of a member, then the POSTED words, in
ascending pair number. -/
def postingWords (s : State) (c tag p cand : Nat) : List EdgeWord :=
  let js := List.range (cellW s c)
  let posted := js.foldl (fun l j => insertPair (postedWord s c tag p cand j) l) []
  let lanes := (List.range 16).filter (fun k => js.any (fun j => laneOf (memberPair s c j) == k))
  lanes.map (fun k => ⟨.armdef, k, 0, 0, tag, armCycle s c p, 0⟩) ++ posted

/-- The PORT cycle in which the last word that waits on lane k leaves, one a cycle and none before two cycles after its
hand-over (R26); with none waiting, the latest cycle in which one can have left. -/
def queueLeave (s : State) (k : Nat) : Nat :=
  (laneQ s k).foldl (fun t e => max (t + 1) (e.at_ + 2)) (if tget 0 s.cvp.sentAt k == s.port + 1 then s.port else s.port - 1)

/-- The PORT cycle in which the last word would leave if handed over at `h`: behind the words
already queued on its lane (R26, R101). Every word counts as leaving, those of safe pairs too (DEDUCED, log entry
29). -/
def lastLeave (s : State) (h : Nat) (ws : List EdgeWord) : Nat :=
  (List.range 16).foldl (fun m k =>
    let n := (ws.filter (fun w => w.lane == k)).length
    if n = 0 then m else max m (max (queueLeave s k + 1) (h + 2) + n - 1)) 0

/-- A posting counts as armed from the start of its arm cycle, or from the host's report of an early arm (R97). -/
def postArmed (s : State) (x : Posting) : Bool :=
  x.left && (x.arm ≤ s.port || s.cvp.tags.any (fun t => t.tag == x.tag && t.rep))

/-- A posting stands until its retraction is sent (R102, R104), and, where no word of it has left the block, until its
arm cycle, from which it is void (R101). -/
def postStands (s : State) (x : Posting) : Bool := !x.gone && (x.left || decide (s.port < x.arm))

/-- The postings of a cell that stand, oldest first. -/
def cellPosts (s : State) (c : Nat) : List Posting :=
  s.ssp.posts.filter (fun x => x.cell == c && postStands s x)

/-- The first free tag from NEXTTAG on, modulo 32 (R101). -/
def freeTag (s : State) : Option Nat :=
  ((List.range 32).map (fun i => (rf s sspCtrl sspCtrlNEXTTAG + i) % 32)).find? (fun t =>
    !(tagInUse s t || s.ssp.posts.any (fun x => x.tag == t)))

/-- NOPOST is set and counted (R94, R101, R102). -/
def cellNopost (s : State) (c : Nat) : State :=
  inc (wb s (sspCsts c) sspCstsNOPOST true) (sspCcnt c) sspCcntNOPOST

/-- A posting's words are handed over in the present cycle (R100, R128). -/
def postOut (s : State) (x : PostHand) : State := semFire (cvpPost s x.cell x.tag x.ws) (0x088 + x.cell)

/-- A posting of `cand` for target P handed over at cycle `h`, now or later, or nothing where R101 drops it. -/
def makePosting (s : State) (c p cand h : Nat) : Option State :=
  let mine := cellPosts s c
  match freeTag s with
  | none => none
  | some tag =>
    let ws := postingWords s c tag p cand
    if 2 ≤ (mine.filter (fun x => !postArmed s x)).length then none
    else if armCycle s c p ≤ lastLeave s h ws then none
    else if mine.any (fun x => x.p == p) then none
    else
      let t := wf s sspCtrl sspCtrlNEXTTAG ((tag + 1) % 32)
      let x : PostHand := ⟨c, tag, h, ws⟩
      let t := if h ≤ s.port then postOut t x else { t with ssp := { t.ssp with outs := t.ssp.outs ++ [x] } }
      let t := { t with ssp := { t.ssp with posts := t.ssp.posts ++ [⟨c, tag, p, armCycle s c p, cand, false, false⟩] } }
      let t := wf (wf t (sspCres c) sspCresTAG tag) (sspCres c) sspCresARMCYC (armCycle s c p % 65536)
      some (setCell t c { cellOf t c with last := some cand })

end Sys2Proof.Machine
end

