-- ==== Sys2Proof/Machine/Dm.lean ====
section
/-! DEFINITION. Timebase, cadence generators and deadline monitors (R111 to R127). -/

namespace Sys2Proof.Machine

/-- The monitor's hidden state. -/
def monOf (s : State) (m : Nat) : Mon := tget Mon.idle s.dm.mons m

/-- Replace the monitor's hidden state. -/
def setMon (s : State) (m : Nat) (x : Mon) : State :=
  { s with dm := { s.dm with mons := tset Mon.idle s.dm.mons m x } }

/-- The enabled monitors of a subject. -/
def monsOf (s : State) (kind subj : Nat) : List Nat :=
  (List.range 256).filter (fun m =>
    rb s (dmCfg m) dmCfgEN && rf s (dmCfg m) dmCfgKIND == kind && monSubj s m == subj)

/-- The cause code of the deadline-miss fault (R260). -/
def codeDeadlineMiss : Nat := 0x3B

/-- Event packet code DEADLINE_ESCALATED (R466). -/
def evDeadlineEscalated : Nat := 0x01

/-- Journal record type DEADLINE and source PCTL (R337, R338). -/
def recDeadline : Nat := 0x10
def srcPctl : Nat := 3

/-- Words 0 to 3 of a miss record as written at detection (R125). -/
def missRecord (s : State) (m reason react start : Nat) : List Word :=
  [btime s,
   BitVec.ofNat 48 (m <<< 40 + (rf s (dmCfg m) dmCfgKIND) <<< 38 + (rf s (dmCfg m) dmCfgSUBJ) <<< 31
     + reason <<< 28 + react <<< 26),
   BitVec.ofNat 48 start, 0]

/-- Write a miss record into PCTL_DMLOG and PCTL_DMLAST (R126). -/
def missLog (s : State) (m : Nat) (mr : List Word) : State :=
  let i := rf s pctlDmlogptr pctlDmlogptrWR
  let t := if s.dm.unread.contains i then inc s pctlDmlogptr pctlDmlogptrLOST else s
  let t := (List.range 4).foldl (fun t w =>
    wr (wr t (pctlDmlog i w) (mr.getD w 0)) (pctlDmlast m w) (mr.getD w 0)) t
  let t := wf t pctlDmlogptr pctlDmlogptrWR ((i + 1) % 64)
  let t := setMon t m { monOf t m with lastNo := t.dm.logNo + 1 }
  { t with dm := { t.dm with
      unread := if t.dm.unread.contains i then t.dm.unread else i :: t.dm.unread,
      logNo := t.dm.logNo + 1 } }

/-- The target of a missed trigger of a slot; a GAP miss has the one a period after the last (R122). -/
def holdTarget (last per : Nat) (tgt : Nat) (gap : Bool) : Nat := if gap then last + per else tgt

/-- HOLD on a slot (R122): form the last words again for the missed target; none where it acts as SAFE. -/
def holdSlot (s : State) (n : Nat) (st : DmStart) (gap : Bool) : Option State :=
  let x := slotOf s n
  let per := rf s (slotPer n) aeSlotperPER
  if !pdOn s (18 + engOf n) then none
  else if per = 0 then some s
  else match x.lastY with
    | none => none
    | some ys =>
      let p := holdTarget x.lastP per (slotTarget s n st.tau) gap
      let f := formWords s n ys p
      let t := { f.2 with dm := { f.2.dm with hand := f.2.dm.hand ++ [⟨n, s.port + 1, f.1, ys, p⟩] } }
      some (if gap then t
        else setSlot t n { slotOf t n with drop := st.tau :: (slotOf t n).drop })

/-- Words of a HOLD are handed over in the cycle after their forming (R122). -/
def holdGive (s : State) (h : HoldHand) : State :=
  if pdOn s (18 + engOf h.slot) then slotGive s h.slot h.ws h.ys h.p else s

/-- The evaluations and postings of the predictor act as if SHADOW were 1 (R107, R426). -/
def sspShadow (s : State) : Bool := rb s sspCtrl sspCtrlSHADOW || !isActive s

/-- HOLD on a cell (R122): post the latest posted candidate for the missed target, none where it acts as SAFE; under SHADOW
no words are handed over and no tag is taken (R107). Where a posting of the cell already stands for that target, it is
that candidate and nothing more is sent (DEDUCED, log entry 31). -/
def holdCell (s : State) (c : Nat) (st : DmStart) (gap : Bool) : Option State :=
  let x := cellOf s c
  let p := holdTarget x.lastP (rf s (sspCper c) sspCperPER) (cellTarget s c st) gap
  let mark := fun t : State => if gap then t
    else setCell t c { cellOf t c with drop := st.tau :: (cellOf t c).drop }
  if !pdOn s 26 then none
  else match x.last with
    | none => none
    | some cand =>
      if (cellPosts s c).any (fun q => q.p == p) then some (mark s)
      else (makePosting s c p cand (s.port + 1)).map (fun t => mark (if sspShadow s then s else t))

/-- The edge action of HOLD on the monitor's subject (R122). -/
def holdAction (s : State) (m : Nat) (st : DmStart) (gap : Bool) : Option State :=
  match rf s (dmCfg m) dmCfgKIND with
  | 1 => holdSlot s (monSubj s m) st gap
  | 2 => holdCell s (monSubj s m) st gap
  | _ => some s

/-- The reaction of a miss and the reaction applied, as the record shows it (R121, R122). -/
def missReact (s : State) (m : Nat) (st : DmStart) (gap : Bool) : Nat × State :=
  let hold := rf s (dmSts m) dmStsHOLDRUN
  match rf s (dmCfg m) dmCfgREACT with
  | 0 =>
    if rf s (dmCfg m) dmCfgHOLDMAX ≤ hold then (1, s)
    else match holdAction s m st gap with
      | some t => (0, wf t (dmSts m) dmStsHOLDRUN (min 7 (hold + 1)))
      | none => (1, wf s (dmSts m) dmStsHOLDRUN 0)
  | 1 => (1, s)
  | _ => (2, s)

/-- ESCALATE: the CL interrupt on SV0, the event packet and the journal record (R121, R160). -/
def escalate (s : State) (mr : List Word) : State :=
  raiseRec (raiseEv (strobe s 447) evDeadlineEscalated mr) ⟨srcPctl, 0, recDeadline, mr⟩

/-- A miss of monitor m with a reason of R125 (R121, R126): the record, counts, fault, producer
event, and the safe condition of SAFE and ESCALATE. A miss in the cycle in which the condition was released keeps it
(R123). -/
def dmMiss (s : State) (m reason : Nat) (st : DmStart) : State :=
  let r := missReact s m st (reason == 3)
  let mr := missRecord s m reason r.1 st.at_
  let q := m / 16
  let t := raiseTrace (missLog r.2 m mr) 3 m (8 * r.1 + reason)
  let t := wb (inc t (dmSts m) dmStsMISSES) (dmSts m) dmStsMISS true
  let back := (monOf t m).relAt == s.port + 1
  let t := setMon t m { monOf t m with ontime := 0, missAt := s.port + 1 }
  let t := if rf s (dmCfg m) dmCfgOWNER < 8 then
      raiseAsync t (rf s (dmCfg m) dmCfgOWNER) codeDeadlineMiss (mr.getD 1 0) else t
  let t := dmMissPulse (semFire t (0x020 + q)) q
  let t := if r.1 = 2 then escalate t mr else t
  if r.1 = 0 && !back then safeSync t else safeSync (wb t (dmSts m) dmStsSAFEACT true)

/-- BUDGET; 0 acts as 1. -/
def dmBudget (s : State) (m : Nat) : Nat := max 1 (rf s (dmBud m) dmBudBUDGET)

/-- The outstanding check's miss is detected (R116). -/
def dmDetect (s : State) (m : Nat) (c : DmCheck) : State :=
  let i := rf s pctlDmlogptr pctlDmlogptrWR
  let t := dmMiss s m 0 c.start
  setMon t m { monOf t m with chk := some { c with missed := true, logged := some (i, t.dm.logNo) } }

/-- A check begins, with the BUDGET that stood at its start event (R127); one whose deadline has already passed misses
at once (R117). -/
def dmBegin (s : State) (m : Nat) (st : DmStart) (bud : Nat) : State :=
  let c : DmCheck := ⟨st, st.at_ + bud, false, none⟩
  let t := setMon s m { monOf s m with chk := some c }
  if c.dl < s.port then dmDetect t m c else t

/-- The gap timer of monitor m runs from a cycle on, with GAP as it stands now (R118, R127). -/
def Mon.gapRun (x : Mon) (s : State) (m from_ : Nat) : Mon :=
  { x with gapFrom := some from_, gapLen := rf s (dmBud m) dmBudGAP }

/-- A start event for monitor m (R115, R117, R118). -/
def dmStart (s : State) (m : Nat) (st : DmStart) : State :=
  let x := (monOf s m).gapRun s m st.at_
  let t := setMon s m x
  let waits := { x with pend := some st, pendBud := dmBudget s m }
  if rb s (dmSts m) dmStsSUSP then s
  else match x.chk, x.pend with
    | none, _ => dmBegin t m st (dmBudget s m)
    | some _, none => setMon t m waits
    | some _, some old => dmMiss (setMon t m waits) m 1 old

/-- A start event of a subject, for each of its monitors. -/
def dmStartAll (s : State) (kind subj : Nat) (st : DmStart) : State :=
  (monsOf s kind subj).foldl (fun t m => dmStart t m st) s

/-- The check is on time (R116, R121, R123). -/
def dmOnTime (s : State) (m : Nat) : State :=
  let x := monOf s m
  let t := wf s (dmSts m) dmStsHOLDRUN 0
  let mr' := rf s (dmCfg m) dmCfgRECOV
  if rb s (dmSts m) dmStsSAFEACT && mr' != 0 then
    if mr' ≤ x.ontime + 1 then
      setMon (if x.missAt = s.port + 1 then t else wb t (dmSts m) dmStsSAFEACT false) m
        { x with ontime := 0, chk := none, relAt := s.port + 1 }
    else setMon t m { x with ontime := x.ontime + 1, chk := none }
  else setMon t m { x with chk := none }

/-- A late end: the lateness is stored, in the record too unless it was overwritten (R116, R126): in PCTL_DMLAST while that
holds the record, be the log entry overwritten or not (DESIGN CHOICE, log entry 188). -/
def dmLate (s : State) (m : Nat) (c : DmCheck) : State :=
  let late := min (s.port - c.dl) 0xFFFFFF
  let w3 := BitVec.ofNat 48 (1 <<< 47 + late)
  let t := maxTo s (dmSts m) dmStsMAXLATE late
  let t := match c.logged with
    | some (i, no) =>
      let t := if t.dm.logNo < no + 64 then wr t (pctlDmlog i 3) w3 else t
      if (monOf t m).lastNo == no then wr t (pctlDmlast m 3) w3 else t
    | none => t
  setMon t m { monOf t m with chk := none }

/-- The pending start begins once the outstanding check has ended (R117). -/
def dmNext (s : State) (m : Nat) : State :=
  match (monOf s m).pend with
  | some st => dmBegin (setMon s m { monOf s m with pend := none }) m st (monOf s m).pendBud
  | none => s

/-- An end event for monitor m (R115, R116): on time at or before the deadline, else late; a miss
not yet detected is detected first. With no check outstanding it is ignored (R117). -/
def dmEnd (s : State) (m : Nat) : State :=
  match (monOf s m).chk with
  | none => s
  | some c =>
    if !c.missed && s.port ≤ c.dl then dmNext (dmOnTime s m) m
    else
      let t := if c.missed then s else dmDetect s m c
      match (monOf t m).chk with
      | some c' => dmNext (dmLate t m c') m
      | none => t

/-- An end event of a slot: ENDSEL 0 the hand-over, 1 END (R115). -/
def dmEndSlot (s : State) (n endsel : Nat) : State :=
  ((monsOf s 1 n).filter (fun m => rf s (dmCfg m) dmCfgENDSEL == endsel)).foldl dmEnd s

/-- An end event of a cell (R115). -/
def dmEndCell (s : State) (c : Nat) : State := (monsOf s 2 c).foldl dmEnd s

/-- A cell evaluation that posted nothing (R120): a NOPOST miss for its outstanding check, unless a
posting of the cell stands for its target, which ends the check on time. A suspended monitor has no check (R119). -/
def dmNopost (s : State) (c : Nat) (st : DmStart) (stands : Bool) : State :=
  ((monsOf s 2 c).filter (fun m => !rb s (dmSts m) dmStsSUSP)).foldl (fun t m =>
    if stands then dmEnd t m
    else
      let u := dmMiss t m 2 st
      dmNext (setMon u m { monOf u m with chk := none }) m) s

/-- Suspension discards both checks and stops the gap timer (R119). -/
def dmSuspend (s : State) (m : Nat) : State :=
  wb (setMon s m { monOf s m with chk := none, pend := none, gapFrom := none })
    (dmSts m) dmStsSUSP true

/-- Suspend every monitor of a subject. -/
def dmSuspendAll (s : State) (kind subj : Nat) : State := (monsOf s kind subj).foldl dmSuspend s

/-- Resumption runs the gap timer from now, with HOLDRUN 0 (R119, R127). -/
def dmResume (s : State) (m : Nat) : State :=
  wf (wb (setMon s m ((monOf s m).gapRun s m s.port)) (dmSts m) dmStsSUSP false)
    (dmSts m) dmStsHOLDRUN 0

/-- Resume the suspended monitors of a subject; those of slots and cells only in role ACTIVE (R426). -/
def dmResumeAll (s : State) (kind subj : Nat) : State :=
  if kind < 3 && !isActive s then s else ((monsOf s kind subj).filter (fun m => rb s (dmSts m) dmStsSUSP)).foldl dmResume s

/-- The monitor's subject is disabled or parked (R119), or its kind is suspended with the role (R426). -/
def subjOff (s : State) (m : Nat) : Bool :=
  match rf s (dmCfg m) dmCfgKIND with
  | 1 => !isActive s || !rb s (slotCtl (monSubj s m)) aeSlotctlEN || rb s (slotPhs (monSubj s m)) aeSlotphsPARKED
  | 2 => !isActive s || !rb s (sspCcfg (monSubj s m)) sspCcfgEN
  | 3 => !rb s (pctlCgctl (monSubj s m)) pctlCgctlEN
  | _ => false

/-- Monitor m, whose subject was disabled with its power domain: its checks run out and are misses before it is suspended
(R119). A check that was missed waits no longer for an end that cannot come. -/
def dmLose (s : State) (m : Nat) : State :=
  let missed (t : State) : Bool := ((monOf t m).chk.map (fun c => c.missed)).getD true
  if !missed s then s
  else
    let t := dmNext (setMon s m { monOf s m with chk := none }) m
    if missed t then dmSuspend t m else t

/-- Monitors whose subjects a wake or reset has disabled are suspended, once their checks have run out (R119). -/
def dmSuspendOff (s : State) : State :=
  forN 256 s (fun t m => if rb t (dmCfg m) dmCfgEN && !rb t (dmSts m) dmStsSUSP && subjOff t m then dmLose t m else t)

/-- Monitor m is enabled: as a resumption, or suspended at once with its subject, with HOLDRUN 0 (R127, R119). -/
def dmEnable (s : State) (m : Nat) : State :=
  let t := wf (wb s (dmCfg m) dmCfgEN true) (dmSts m) dmStsHOLDRUN 0
  if subjOff t m then dmSuspend t m else dmResume t m

/-- Monitor m is disabled (R127): checks discarded, SUSP 0, a safe condition stays. -/
def dmDisable (s : State) (m : Nat) : State :=
  wb (dmSuspend (wb s (dmCfg m) dmCfgEN false) m) (dmSts m) dmStsSUSP false

/-- DEADLINE_MISS (R116): the deadline has passed without the end event. -/
def execDeadlineMiss (m : Fin 256) (s : State) : Out :=
  match (monOf s m.val).chk with
  | some c => onlyIf (s.running && !c.missed && c.dl < s.port) s (
      let t := dmDetect s m.val c
      if subjOff s m.val then dmLose t m.val else t)
  | none => ok s

/-- The gap timer of monitor m has run out (R118). -/
def gapDue (s : State) (m : Nat) : Bool :=
  match (monOf s m).gapFrom with
  | some f => (monOf s m).gapLen != 0 && decide (f + (monOf s m).gapLen < s.port)
  | none => false

/-- DM_GAP (R118): a GAP miss, and the gap timer runs again from its detection. -/
def execDmGap (m : Fin 256) (s : State) : Out :=
  let f := ((monOf s m.val).gapFrom).getD 0
  let t := setMon s m.val ((monOf s m.val).gapRun s m.val s.port)
  onlyIf (s.running && gapDue s m.val) s (dmMiss t m.val 3 ⟨f, f, 0⟩)

/-- A write of PCTL_DMDONE naming monitor m (R115). -/
def dmdoneWrite (s : State) (q : Req) (m : Nat) : State :=
  let good := rf s (dmCfg m) dmCfgKIND == 3 && rf s (dmCfg m) dmCfgOWNER < 8
    && rf s (dmCfg m) dmCfgOWNER == q.who.val && (monOf s m).chk.isSome
  respond (if good then dmEnd s m else wb s (dmSts m) dmStsDONEV true) 0

/-- PCTL_DMDONE (R115): the end event of a TASK check, by its OWNER. -/
def execPctlDmdone (q : Req) (m : Fin 256) (s : State) : Out := ok (dmdoneWrite s q m.val)

/-- Writing 1 to MISS releases a safe condition that is held, unless a miss lies in the same cycle (R123). -/
def dmRelease (s : State) (m : Nat) : State :=
  let x := monOf s m
  if rb s (dmSts m) dmStsSAFEACT then
    setMon (if x.missAt = s.port + 1 then s else wb s (dmSts m) dmStsSAFEACT false) m { x with relAt := s.port + 1 }
  else s

/-- DM_MISS_CLEAR (R123): writing 1 to MISS clears it and releases the safe condition. -/
def execDmMissClear (m : Fin 256) (s : State) : Out :=
  ok (respond (dmRelease (clearBit s (dmSts m.val) dmStsMISS) m.val) 0)

/-- DM_ENABLE (R127). -/
def execDmEnable (q : Req) (m : Fin 256) (s : State) : Out :=
  if !holdsType s q 13 then ok (respond s 2)
  else if rb s (dmCfg m.val) dmCfgEN then ok (respond s 0)
  else ok (respond (dmEnable s m.val) 0)

/-- PER of a generator; 0 acts as 1. -/
def cgPer (s : State) (g : Nat) : Nat := max 1 (rf s (pctlCgtime g) pctlCgtimePER)

/-- Generator g ticks in the present cycle (R114). -/
def cgDue (s : State) (g : Nat) : Bool :=
  s.running && rb s (pctlCgctl g) pctlCgctlEN &&
    ((btime s).toNat + cgPer s g - rf s (pctlCgtime g) pctlCgtimePHASE % cgPer s g) % cgPer s g == 0 &&
    tget 0 s.dm.ticked g != s.port + 1

/-- CADENCE_TICK (R114): TICK or MISSED, the producer event, the checks of TASK monitors. -/
def execCadenceTick (g : Fin 16) (s : State) : Out :=
  let t := { s with dm := { s.dm with ticked := tset 0 s.dm.ticked g.val (s.port + 1) } }
  let t := if rb t (pctlCgctl g.val) pctlCgctlTICK then inc t (pctlCgctl g.val) pctlCgctlMISSED else t
  let t := wb t (pctlCgctl g.val) pctlCgctlTICK true
  onlyIf (cgDue s g.val) s (dmStartAll (semFire t (0x010 + g.val)) 3 g.val ⟨s.port, s.port, 0⟩)

/-- A generator is enabled: its monitors resume (R114, R119). The first tick is the first qualifying
time after the write, so not the present cycle. -/
def cgEnable (s : State) (g : Nat) : State :=
  let t := wb s (pctlCgctl g) pctlCgctlEN true
  dmResumeAll { t with dm := { t.dm with ticked := tset 0 t.dm.ticked g (s.port + 1) } } 3 g

/-- A generator is disabled: its monitors are suspended (R119). -/
def cgDisable (s : State) (g : Nat) : State := dmSuspendAll (wb s (pctlCgctl g) pctlCgctlEN false) 3 g

/-- CG_ENABLE (R114). -/
def execCgEnable (q : Req) (g : Fin 16) (s : State) : Out :=
  if !holdsType s q 13 then ok (respond s 2)
  else if rb s (pctlCgctl g.val) pctlCgctlEN then ok (respond s 0)
  else ok (respond (cgEnable s g.val) 0)

/-! Journal time. -/

/-- 10^9 ns in units of 2^-32 ns. -/
def nsPerSec : Nat := 1000000000 * 2 ^ 32

/-- Journal time one PORT cycle later (R112): a time that was set takes effect, else it advances. -/
def jtAdvance (s : State) : State :=
  let n := s.dm.jtNs + (rd s pctlJtinc).toNat % 2 ^ 40
  match s.dm.jtSet with
  | some p => { s with dm := { s.dm with jtSec := p.1, jtNs := p.2, jtSet := none } }
  | none =>
  if n < nsPerSec then { s with dm := { s.dm with jtNs := n } }
  else { s with dm := { s.dm with jtNs := n - nsPerSec, jtSec := (s.dm.jtSec + 1) % 2 ^ 48 } }

/-- A write of PCTL_JTNS (R112): stages NS and STEP; a 1 in bit 46 clears JTBACK. -/
def jtnsWrite (s : State) (may : Bool) (v : Word) : State :=
  let t := { s with dm := { s.dm with
    setNs := if may then min (v.toNat % 2 ^ 32) 999999999 else s.dm.setNs,
    setStep := bitOf v 47 } }
  if bitOf v 46 then clearBit t pctlJtns pctlJtnsJTBACK else t

/-- A write of PCTL_JTSEC (R112): sets journal time to its seconds and the staged nanoseconds from the next PORT cycle
on, or refuses a backward set without STEP. -/
def jtsecWrite (s : State) (v : Word) : State :=
  let ns := s.dm.setNs * 2 ^ 32
  let back := v.toNat < s.dm.jtSec || (v.toNat == s.dm.jtSec && ns < s.dm.jtNs)
  let t := { s with dm := { s.dm with setStep := false } }
  if back && !s.dm.setStep then wb t pctlJtns pctlJtnsJTBACK true
  else { t with dm := { t.dm with jtSet := some (v.toNat, ns) } }

/-- A read of PCTL_JTSEC (R113): seconds, with nanoseconds and block time latched. -/
def jtsecRead (s : State) : Word × State :=
  (BitVec.ofNat 48 s.dm.jtSec,
   { s with dm := { s.dm with latchNs := s.dm.jtNs / 2 ^ 32, latchBt := btime s } })

/-- JTNS_WRITE (R112). -/
def execJtnsWrite (q : Req) (v : Word) (s : State) : Out :=
  ok (respond (jtnsWrite s (holdsType s q 13) v) (if holdsType s q 13 then 0 else 2))

/-- JTSEC_WRITE (R112). -/
def execJtsecWrite (q : Req) (v : Word) (s : State) : Out :=
  if holdsType s q 13 then ok (respond (jtsecWrite s v) 0) else ok (respond s 2)

/-- JTSEC_READ (R113). -/
def execJtsecRead (s : State) : Out :=
  ok (respond (jtsecRead s).2 0 (jtsecRead s).1)

end Sys2Proof.Machine
end

