-- ==== Sys2Proof/Machine/AeLaw.lean ====
section
/-! DEFINITION. Law programs: their check, signals, steps, evaluation phases and hand-over
(R44 to R66, R71 to R76). -/

namespace Sys2Proof.Machine

/-- Fields of a step word (R53). -/
def stOP : Fld := ⟨47, 42⟩
def stA  : Fld := ⟨41, 36⟩
def stB  : Fld := ⟨35, 30⟩
def stD  : Fld := ⟨29, 24⟩
def stL  : Fld := ⟨23, 18⟩
def stH  : Fld := ⟨17, 12⟩
def stSH : Fld := ⟨11, 6⟩
def stZ  : Fld := ⟨5, 0⟩

/-- A step of class A (R55). -/
def opClassA (op : Nat) : Bool := 1 ≤ op && op ≤ 9

/-- The opcode is one of R55. -/
def opKnown (op : Nat) : Bool := op ≤ 9 || (0x10 ≤ op && op ≤ 0x13) || op == 0x18 || op == 0x19

/-- The opcode reads a signal in A; a signal in B; a coefficient in B; limits in L and H; writes D. -/
def opUsesA (op : Nat) : Bool := (2 ≤ op && op ≤ 7) || op == 0x13
def opSigB (op : Nat) : Bool := op == 5
def opCoefB (op : Nat) : Bool := op == 3 || op == 4 || op == 8
def opLim (op : Nat) : Bool := op == 0x11 || op == 0x12
def opDest (op : Nat) : Bool := 0x10 ≤ op && op ≤ 0x13

/-- The signals that a step reads. -/
def stepReads (w : Word) : List Nat :=
  let op := stOP.get w
  (if opUsesA op then [stA.get w] else []) ++ (if opSigB op then [stB.get w] else []) ++
    (if opLim op then [stL.get w, stH.get w] else [])

/-- Fields that the opcode does not use are zero (R53). -/
def stepZeros (w : Word) : Bool :=
  let op := stOP.get w
  (opUsesA op || stA.get w == 0) && (opSigB op || opCoefB op || stB.get w == 0) &&
    (opDest op || stD.get w == 0) && (opLim op || (stL.get w == 0 && stH.get w == 0)) &&
    (op == 9 || stSH.get w == 0) && stZ.get w == 0

/-- What the scan of R56 has seen: a BAR, an OUT, and the class A steps since BAR. -/
structure ScanSt where
  bar  : Bool
  out  : Bool
  nA   : Nat

/-- The step tests of R56 in their order; none where the step passes. -/
def stepTest (w : Word) (c : ScanSt) : Option Nat :=
  let op := stOP.get w
  let rs := stepReads w
  if !opKnown op || !stepZeros w || rs.any (fun a => 0x3B ≤ a) then some 6
  else if (opDest op && op != 0x12 && 0x30 ≤ stD.get w) ||
      (op == 0x12 && !(0x20 ≤ stD.get w && stD.get w ≤ 0x27)) then some 5
  else if !c.bar && rs.any (fun a => (0x30 ≤ a && a ≤ 0x33) || a == 0x3A) then some 4
  else if op == 0x18 && c.bar then some 2
  else if op == 0x12 && (!c.bar || c.out || c.nA == 0) then some 3
  else if c.bar && !c.out && op != 0x12 && (!opClassA op || c.nA == 10) then some 3
  else none

/-- The scan of R56 over the steps from index `i`; `none` where the program passes. -/
def scanProg (word : Nat → Word) (pbase : Nat) : Nat → Nat → ScanSt → Option (Nat × Nat)
  | 0, i, _ => some (1, i - 1)
  | fuel + 1, i, c =>
    if 0x1C00 ≤ pbase + i then some (7, i)
    else
      let w := word (pbase + i)
      let op := stOP.get w
      match stepTest w c with
      | some r => some (r, i)
      | none =>
        if op == 0x19 then (if !c.bar then some (2, i) else if !c.out then some (3, i) else none)
        else scanProg word pbase fuel (i + 1)
          { bar := c.bar || op == 0x18, out := c.out || op == 0x12,
            nA := if c.bar && opClassA op then c.nA + 1 else c.nA }

/-- The check of R56: the reason and step index of the first failure. -/
def progCheck (s : State) (n : Nat) : Option (Nat × Nat) :=
  let cb := cBase s n
  let sb := sBase s n
  if cb % 128 != 0 || sb % 64 != 0 || 0x1C00 < cb + 128 || 0x1C00 < sb + 64 then some (7, 0)
  else scanProg (ramRd s n) (pBase s n) 64 0 ⟨false, false, 0⟩

/-- Number of program words up to END, at most 64 (R52). -/
def progLen (s : State) (n : Nat) : Nat :=
  match (List.range 64).find? (fun i => stOP.get (ramRd s n (pBase s n + i)) == 0x19) with
  | some i => i + 1
  | none => 64

/-! Coefficient queue (R79). -/

/-- The engine's coefficient queue. -/
def coefQ (s : State) (e : Nat) : List (Nat × Word) := tget [] s.ae.coefq e

/-- Replace the queue and show its length. -/
def setCoefQ (s : State) (e : Nat) (q : List (Nat × Word)) : State :=
  wf { s with ae := { s.ae with coefq := tset [] s.ae.coefq e q } } (aeCqsts e) aeCqstsUSED q.length

/-- The word lies in slot n's coefficient area. -/
def inCoefArea (s : State) (n off : Nat) : Bool := cBase s n ≤ off && off < cBase s n + 128

/-- At the slot's commit point its entries go to local RAM in entry order (R79). -/
def coefCommit (s : State) (n : Nat) : State :=
  let q := coefQ s (engOf n)
  let mine := q.filter (fun p => inCoefArea s n p.1)
  if mine.isEmpty then s
  else setCoefQ (mine.foldl (fun t p => ramWr t n p.1 p.2) s) (engOf n)
    (q.filter (fun p => !inCoefArea s n p.1))

/-! Enabling and disabling. -/

/-- The slot is enabled, or waits to be disabled (R49). -/
def slotLive (s : State) (n : Nat) : Bool := phaseOf s n != phDisabled

/-- The window in effect is read from AE_ADTWIN (R82). -/
def winLatch (s : State) (n : Nat) : State :=
  setSlot s n { slotOf s n with winLo := rf s (slotAdtwin n) aeAdtwinELO, winHi := rf s (slotAdtwin n) aeAdtwinEHI }

/-- A program that passed its check is enabled (R56, R65, R79, R83, R101). A parked member stays
parked, or chosen for parking: it shows ARMED (R87; DESIGN CHOICE, log entry 179). -/
def slotStart (s : State) (n : Nat) : State :=
  let parked := rb s (slotPhs n) aeSlotphsPARKED
  let t := coefCommit (wb s (slotCtl n) aeSlotctlEN true) n
  let x := slotOf t n
  let t := setSlot t n { Slot.off with
    acc := x.acc, atPrime := !parked, parking := x.parking, parkAt := x.parkAt, noTake := x.noTake, meas := x.meas,
    cbMode := rb t (slotCtl n) aeSlotctlCBMODE }
  let t := ramWr t n (sBase t n + 0x31) 0
  let t := winLatch (wf t (aeSlotseq (engOf n) (locOf n)) aeSlotseqSEQ 0) n
  let t := (List.range 8).foldl (fun t e => if tmplAdapts t n e then adtPreset t n e else t) t
  setPhase t n (if parked then phArmed else phPre)

/-- EN goes from 0 to 1 (R56): the check, and the slot enabled or the failure recorded. -/
def slotEnable (s : State) (n : Nat) : State :=
  match progCheck s n with
  | none => slotStart s n
  | some (r, i) =>
    let e := engOf n
    let t := wf (wf (wf s (aeFormerr e) aeFormerrSLOT (locOf n)) (aeFormerr e) aeFormerrSTEP i)
      (aeFormerr e) aeFormerrREASON r
    wb (wb t (slotCtl n) aeSlotctlEN false) (slotSts n) aeSlotstsFORM true

/-- The slot is disabled (R49, R78, R79): held trigger, residual and hand-over request discarded,
queued coefficients committed. -/
def slotStop (s : State) (n : Nat) : State :=
  let t := coefCommit (setPhase s n phDisabled) n
  let t := wb t (slotHoctl n) aeHoctlHOREQ false
  let t := wb (wf t (slotHosts n) aeHostsLEFT 0) (slotHosts n) aeHostsHOACT false
  let x := slotOf t n
  setSlot { t with ae := { t.ae with trigs := t.ae.trigs.filter (fun p => p.1 != n) } } n
    { x with held := none, stopping := false, again := false, atPrime := false, unpark := none, noTake := false }

/-- EN is cleared (R49, R119): at once while ARMED, otherwise at the next prime point. -/
def slotDisable (s : State) (n : Nat) : State :=
  let t := dmSuspendAll (wb s (slotCtl n) aeSlotctlEN false) 1 n
  if phaseOf s n = phDisabled then t
  else if phaseOf s n = phArmed then slotStop t n
  else setSlot t n { slotOf t n with stopping := true, again := false }

/-- A write of 1 to EN over 0: it enables a disabled slot, and does not cancel a disabling that
waits (R49). -/
def slotEnWrite (s : State) (n : Nat) : State :=
  if slotLive s n then
    setSlot (wb s (slotCtl n) aeSlotctlEN true) n { slotOf s n with again := true }
  else slotEnable s n

/-! Signals and steps. -/

/-- A signal of slot n (R54). -/
def sigRd (s : State) (n a : Nat) : Word :=
  let x := slotOf s n
  if a < 0x30 then ramRd s n (sBase s n + a)
  else match a with
    | 0x30 => x.trig.x
    | 0x31 => x.trig.x1
    | 0x32 => x.trig.x2
    | 0x33 => x.trig.x3
    | 0x34 => x.ref0
    | 0x35 => x.ref1
    | 0x36 => x.ref2
    | 0x37 => x.ref3
    | 0x39 => wordOfInt oneQ
    | 0x3A => x.dts
    | _ => 0

/-- An output of a slot is written: references and phase groups that name it receive it (R48, R86). -/
def yDeliver (s : State) (n i : Nat) (v : Word) : State :=
  let k := 8 * n + i
  let gs := (List.range 4).filter (fun g =>
    rf s (aePhssrc g) aePhssrcKIND == 2 && rf s (aePhssrc g) aePhssrcSRC % 1024 == k)
  { s with ae := { s.ae with
      yOut := tset 0 s.ae.yOut k v,
      loads := s.ae.loads ++ gs.map (fun g => (g, v)) } }

/-- Write a state, output or temporary (R54). -/
def sigWr (s : State) (n a : Nat) (v : Word) : State :=
  let t := ramWr s n (sBase s n + a) v
  if 0x20 ≤ a && a ≤ 0x27 then yDeliver t n (a - 0x20) v else t

/-- The step that slot n may issue now, if its opcode is `op`: its phase runs steps, and an OUTPUT
step waits for the OUTPUT sections that started before it (R61). -/
def lawStepWord (s : State) (n op : Nat) : Option Word :=
  let x := slotOf s n
  let ph := phaseOf s n
  let w := ramRd s n (pBase s n + x.pc)
  let may := (ph == phPre || ph == phPost ||
    (ph == phOutput && (tget [] s.ae.outq (engOf n)).head? == some n)) && !x.atPrime
  if pdLive s (18 + engOf n) && s.running && may && stOP.get w == op then some w else none

/-- The slot goes on to its next step. -/
def lawNext (s : State) (n : Nat) : State :=
  setSlot s n { slotOf s n with pc := (slotOf s n).pc + 1, began := none }

/-- The local RAM words that a step reads: itself, its signals and its coefficient. -/
def stepWords (s : State) (n : Nat) (w : Word) : List Nat :=
  (pBase s n + (slotOf s n).pc) :: ((stepReads w).filter (· < 0x30)).map (sBase s n + ·) ++
    (if opCoefB (stOP.get w) then [cBase s n + 64 * rf s (slotCtl n) aeSlotctlBANK + stB.get w] else [])

/-- Issue a step of opcode `op` with effect `f`. -/
def lawStep (s : State) (n op : Nat) (f : State → Word → State) : Out :=
  match lawStepWord s n op with
  | some w => ok (f (lawNext (ramChecks s n (stepWords s n w)) n) w)
  | none => ok s

/-- Set ACC to an exact result, limited to 112 bits with SAT (R57). -/
def setAcc (s : State) (n : Nat) (v : Int) : State :=
  let r := satInt 112 v
  setSlot (slotFlag s n aeSlotstsSAT r.2) n { slotOf s n with acc := BitVec.ofInt 112 r.1 }

/-- ACC as an integer, in units of 2^-72. -/
def accOf (s : State) (n : Nat) : Int := (slotOf s n).acc.toInt

/-- A signal as an integer, in units of 2^-32. -/
def sigInt (s : State) (n a : Nat) : Int := sint (sigRd s n a)

/-- al(v) (R57). -/
def alInt (v : Int) : Int := v * 2 ^ 40

/-- ACC × 2^SH, a right shift truncating (R55). -/
def ashInt (v : Int) (sh : Nat) : Int :=
  if sh < 32 then v * 2 ^ sh else v / (2 ^ (64 - sh) : Nat)

/-- sat(rnd(ACC)), with SAT (R57). -/
def accRnd (s : State) (n : Nat) : Int × Bool := satInt 48 (rne (accOf s n) 40)

/-- LAW_NOP (R55). -/
def execLawNop (n : Fin 128) (s : State) : Out := lawStep s n.val 0x00 (fun t _ => t)

/-- LAW_CLR (R55). -/
def execLawClr (n : Fin 128) (s : State) : Out :=
  lawStep s n.val 0x01 (fun t _ => setAcc t n.val 0)

/-- LAW_LDA (R55). -/
def execLawLda (n : Fin 128) (s : State) : Out :=
  lawStep s n.val 0x02 (fun t w => setAcc t n.val (alInt (sigInt t n.val (stA.get w))))

/-- LAW_MAC (R55). -/
def execLawMac (n : Fin 128) (s : State) : Out :=
  lawStep s n.val 0x03 (fun t w =>
    setAcc t n.val (accOf t n.val + sigInt t n.val (stA.get w) * coef t n.val (stB.get w)))

/-- LAW_MSU (R55). -/
def execLawMsu (n : Fin 128) (s : State) : Out :=
  lawStep s n.val 0x04 (fun t w =>
    setAcc t n.val (accOf t n.val - sigInt t n.val (stA.get w) * coef t n.val (stB.get w)))

/-- LAW_MACS (R55). -/
def execLawMacs (n : Fin 128) (s : State) : Out :=
  lawStep s n.val 0x05 (fun t w =>
    setAcc t n.val (accOf t n.val
      + sigInt t n.val (stA.get w) * sigInt t n.val (stB.get w) * 2 ^ 8))

/-- LAW_ADDS (R55). -/
def execLawAdds (n : Fin 128) (s : State) : Out :=
  lawStep s n.val 0x06 (fun t w => setAcc t n.val (accOf t n.val + alInt (sigInt t n.val (stA.get w))))

/-- LAW_SUBS (R55). -/
def execLawSubs (n : Fin 128) (s : State) : Out :=
  lawStep s n.val 0x07 (fun t w => setAcc t n.val (accOf t n.val - alInt (sigInt t n.val (stA.get w))))

/-- LAW_MACC (R55). -/
def execLawMacc (n : Fin 128) (s : State) : Out :=
  lawStep s n.val 0x08 (fun t w => setAcc t n.val (accOf t n.val + coef t n.val (stB.get w) * 2 ^ 32))

/-- LAW_ASH (R55). -/
def execLawAsh (n : Fin 128) (s : State) : Out :=
  lawStep s n.val 0x09 (fun t w => setAcc t n.val (ashInt (accOf t n.val) (stSH.get w)))

/-- LAW_ST (R55). -/
def execLawSt (n : Fin 128) (s : State) : Out :=
  lawStep s n.val 0x10 (fun t w =>
    let r := accRnd t n.val
    sigWr (slotFlag t n.val aeSlotstsSAT r.2) n.val (stD.get w) (wordOfInt r.1))

/-- lim(v, sig[L], sig[H]) of a step (R57). -/
def stepLim (s : State) (n : Nat) (w : Word) (v : Int) : Int :=
  limInt v (sigInt s n (stL.get w)) (sigInt s n (stH.get w))

/-- LAW_STL (R55). -/
def execLawStl (n : Fin 128) (s : State) : Out :=
  lawStep s n.val 0x11 (fun t w =>
    let r := accRnd t n.val
    let v := stepLim t n.val w r.1
    let t := slotFlag (slotFlag t n.val aeSlotstsSAT r.2) n.val aeSlotstsLIM (v != r.1)
    sigWr t n.val (stD.get w) (wordOfInt v))

/-- LAW_MOV (R55). -/
def execLawMov (n : Fin 128) (s : State) : Out :=
  lawStep s n.val 0x13 (fun t w => sigWr t n.val (stD.get w) (sigRd t n.val (stA.get w)))

/-! Triggers and phases. -/

/-- DTS for a trigger in PORT cycle `t` after one in `last` (R47): the distance in units of 2^-32 s,
ties to even; a distance that Q16.32 cannot hold has no stated value and is free. -/
def dtsOf (s : State) (t last : Word) : Word × State :=
  let num := sint (t - last) * 2 ^ 32
  let q := num / 300000000
  let r := num % 300000000
  let v := if 2 * r < 300000000 then q
    else if 300000000 < 2 * r then q + 1
    else if q % 2 = 0 then q else q + 1
  if intMin 48 ≤ v && v ≤ intMax 48 then (wordOfInt v, s) else freshWord s

/-- The target of a hand-over as TKIND selects it when its OUTPUT section starts (R72); `img`: the image's output at the
prime point. -/
def hoTarget (s : State) (n : Nat) (img : Word) : Word :=
  match rf s (slotHoctl n) aeHoctlTKIND with
  | 1 =>
    let a := rf s (slotHoctl n) aeHoctlHOSRC
    tget 0 s.ae.yOut (8 * a + rf s (slotHocfg a) aeHocfgHOY)
  | 2 => img
  | _ => rd s (slotHoman n)

/-- Slot n joins the OUTPUT sections that wait for another: those of one engine all start in the cycle after that one's
OUT, and of these the lowest number goes first (R61, R63). -/
def waitInsert (n : Nat) : List Nat → List Nat
  | [] => [n]
  | m :: r => if n < m then n :: m :: r else m :: waitInsert n r

/-- Slot n joins the OUTPUT sections of its engine: behind the one that has started, unless that one started in the same
PORT cycle, has issued nothing yet and has a higher number (R61). -/
def outInsert (s : State) (n : Nat) : List Nat → List Nat
  | [] => [n]
  | m :: r => if (slotOf s m).began = some s.port && n < m then n :: m :: r else m :: waitInsert n r

/-- The section of slot n, whose trigger found it ARMED, meets no other: none has started on its engine and not issued its
OUT, but one that started with this very trigger and goes after it (R61 to R63). An OUT of the present PORT cycle counts as
not yet issued when the sample was presented. -/
def meetsNone (s : State) (n : Nat) : Bool :=
  !s.ae.hands.any (fun h => engOf h.slot == engOf n && h.out == s.port) &&
    match tget [] s.ae.outq (engOf n) with
    | [] => true
    | m :: r => r.isEmpty && (slotOf s m).began == some s.port && (slotOf s m).alone.isSome && n < m

/-- The OUTPUT section starts with a trigger (R46, R47, R61). For a trigger held under R46 the target of a hand-over is
read now, not when the trigger arrived (DESIGN CHOICE, log entry 165). `armed`: the trigger found the slot ARMED. -/
def startOutput (s : State) (n : Nat) (armed : Bool) (tr : Trig) : State :=
  let cyc := BitVec.ofNat 48 tr.cyc
  let d := if (slotOf s n).first then (0, s)
    else dtsOf (ramCheck s n (sBase s n + 0x31)) cyc (ramRd s n (sBase s n + 0x31))
  let t := ramWr (ramWr d.2 n (sBase s n + 0x30) tr.x) n (sBase s n + 0x31) cyc
  let x := slotOf t n
  let ya := match x.ho with
    | .byKind img => hoTarget t n img
    | .fixed v => v
    | .manual => rd t (slotHoman n)
    | .ordinary => 0
  let alone := if armed && meetsNone t n then some x.pc else none
  let q := outInsert t n (tget [] t.ae.outq (engOf n))
  let t := setSlot t n { x with
    trig := tr, held := none, dts := d.1, first := false, hoYa := ya, began := some s.port, alone := alone }
  let t := match q with
    | _ :: m :: _ => setSlot t m { slotOf t m with alone := none }
    | _ => t
  setPhase { t with ae := { t.ae with outq := tset [] t.ae.outq (engOf n) q } } n phOutput

/-- A member past the prime point of its parking sends OFF words at its next trigger and is PARKED; that is no hand-over
of an OUT (R64, R87, R119). -/
def slotPark (s : State) (n : Nat) (tr : Trig) : State :=
  let p := slotTarget s n (tr.cyc * 128 + tr.fine)
  let ws := if rf s (slotPer n) aeSlotperPER = 0 then []
    else (ownedPairs s 1 n).map (fun q => (⟨.direct, q, 0, s.par.adt, 0, p / 128, p % 128⟩ : EdgeWord))
  let t := slotHand s n ws
  let t := setSlot t n { slotOf t n with parking := false, parkAt := false, held := none }
  dmSuspendAll (wb (setPhase t n phArmed) (slotPhs n) aeSlotphsPARKED true) 1 n

/-- A trigger that the slot takes, by its phase (R46). -/
def slotTake (s : State) (n : Nat) (tr : Trig) : State :=
  let x := slotOf s n
  let ph := phaseOf s n
  if ph = phArmed then (if x.parkAt then slotPark s n tr else startOutput s n true tr)
  else
    let t := slotFlag s n aeSlotstsOVERRUN (ph != phPre || x.held.isSome)
    setSlot (slotFlag t n aeSlotstsLATEPRE (ph == phPre)) n { x with held := some tr }

/-- The values latched when a trigger arrives (R46, R47). -/
def trigLatch (s : State) (n : Nat) (e : TrigSrc) : Trig :=
  let src := slotSrc n
  let aux := fun (i : Nat) (f : Fld) => if rbit s src aeSlotsrcAUXEN i then rd s (cvpChval (rf s src f)) else 0
  let xt := match e with
    | .sample x cyc fine => (x, cyc, fine)
    | .event cyc => (rd s (cvpChval (rf s src aeSlotsrcXCH)), cyc, 0)
  ⟨xt.1, aux 0 aeSlotsrcAUX1, aux 1 aeSlotsrcAUX2, aux 2 aeSlotsrcAUX3, xt.2.1, xt.2.2, s.port⟩

/-- The oldest trigger waiting at slot n reaches it (R46, R64, R87): ignored while disabled,
discarded while parked, counted against DECIM, else taken. -/
def slotTrigger (s : State) (n : Nat) (e : TrigSrc) : State :=
  let x := slotOf s n
  if !slotLive s n || rb s (slotPhs n) aeSlotphsPARKED then s
  else if x.skip = 0 then
    let tr := trigLatch s n e
    let t := setSlot s n { x with skip := rf s (slotCtl n) aeSlotctlDECIM }
    slotTake (dmStartAll t 1 n ⟨tr.cyc, tr.cyc, tr.fine⟩) n tr
  else setSlot s n { x with skip := x.skip - 1 }

/-- LAW_TRIGGER (R46). -/
def execLawTrigger (n : Fin 128) (s : State) : Out :=
  match s.ae.trigs.find? (fun p => p.1 == n.val) with
  | some (k, e) =>
    let t := { s with ae := { s.ae with trigs := s.ae.trigs.erase (k, e) } }
    onlyIf (pdOn s (18 + engOf n.val)) s (slotTrigger t n.val e)
  | none => ok s

/-- LAW_BAR (R55, R46): the slot waits for its trigger, or goes on with the one it holds. -/
def execLawBar (n : Fin 128) (s : State) : Out :=
  lawStep s n.val 0x18 (fun t _ =>
    match (slotOf t n.val).held with
    | some tr => startOutput t n.val false tr
    | none => setPhase t n.val phArmed)

/-! The OUT step: hand-over and edge forming. -/

/-- num / den rounded to nearest, ties to even. -/
def rneDiv (num : Int) (den : Nat) : Int :=
  let q := num / (den : Int)
  let r := num % (den : Int)
  if 2 * r < (den : Int) then q
  else if (den : Int) < 2 * r then q + 1
  else if q % 2 = 0 then q else q + 1

/-- HON; 0 acts as 1. -/
def honOf (s : State) (n : Nat) : Nat := max 1 (rf s (slotHocfg n) aeHocfgHON)

/-- A register that holds an exact value where Q16.32 can; the spec states no value otherwise. -/
def wrExact (s : State) (a : Nat) (v : Int) : State :=
  if intMin 48 ≤ v && v ≤ intMax 48 then wr s a (wordOfInt v)
  else wr (freshWord s).2 a (freshWord s).1

/-- The hand-over evaluation at OUT (R73): the target written, the integrator preset, the residual
left; the output value and the state after. sat and lim of the preset set HOCLAMP, as the rule's own line says, and not
SAT and LIM too (DESIGN CHOICE, log entry 166). -/
def outHandover (s : State) (n : Nat) (w : Word) : Int × State :=
  let x := slotOf s n
  let cfg := slotHocfg n
  let target := sint x.hoYa
  let ya := stepLim s n w target
  let yu := accRnd s n
  let t := slotFlag (slotFlag s n aeSlotstsSAT yu.2) n aeSlotstsLIM (ya != target)
  let t := if ya != target then wb t (slotHosts n) aeHostsHOTLIM true else t
  let e := ya - yu.1
  let t := ramChecks t n (([aeHocfgHOS, aeHocfgHOLO, aeHocfgHOHI].map (fun f => rf t cfg f)).filter (· < 0x30) |>.map (sBase t n + ·))
  let t := ramChecks t n ([aeHocfgHOK, aeHocfgHOG].map (fun f => cBase t n + 64 * rf t (slotCtl n) aeSlotctlBANK + rf t cfg f))
  let sold := sigInt t n (rf t cfg aeHocfgHOS)
  let pre := satInt 48 (sold + rne (e * coef t n (rf t cfg aeHocfgHOK)) 40)
  let snew := limInt pre.1 (sigInt t n (rf t cfg aeHocfgHOLO)) (sigInt t n (rf t cfg aeHocfgHOHI))
  let dy := rne ((snew - sold) * coef t n (rf t cfg aeHocfgHOG)) 40
  let r0 := e - dy
  let t := if pre.2 || snew != pre.1 then adaptFlag t (engOf n) (slotHosts n) aeHostsHOCLAMP else t
  let t := wrExact t (aeHores (engOf n) (locOf n)) r0
  let t := sigWr t n (rf t cfg aeHocfgHOS) (wordOfInt snew)
  let left := honOf t n - 1
  let t := wb (wf t (slotHosts n) aeHostsLEFT left) (slotHosts n) aeHostsHOACT (left != 0)
  let t := wb (wb t (slotHoctl n) aeHoctlHOREQ false) (slotHosts n) aeHostsHODONE true
  (ya, setSlot (wr t (slotHoman n) (wordOfInt ya)) n { slotOf t n with r0 := r0 })

/-- An evaluation of the slew after a hand-over (R74). -/
def outSlew (s : State) (n : Nat) (w : Word) : Int × State :=
  let left := rf s (slotHosts n) aeHostsLEFT
  let rk := rneDiv ((slotOf s n).r0 * left) (honOf s n)
  let y := satInt 48 (rne (accOf s n) 40 + rk)
  let v := stepLim s n w y.1
  let t := slotFlag (slotFlag s n aeSlotstsSAT y.2) n aeSlotstsLIM (v != y.1)
  let t := wb (wf t (slotHosts n) aeHostsLEFT (left - 1)) (slotHosts n) aeHostsHOACT (left != 1)
  (v, wr t (slotHoman n) (wordOfInt v))

/-- An ordinary OUT (R55); it copies the hand-over output into HOMAN outside manual mode (R75). -/
def outPlain (s : State) (n : Nat) (w : Word) (own : Bool) : Int × State :=
  let r := accRnd s n
  let v := stepLim s n w r.1
  let t := slotFlag (slotFlag s n aeSlotstsSAT r.2) n aeSlotstsLIM (v != r.1)
  (v, if own then wr t (slotHoman n) (wordOfInt v) else t)

/-- OUT in manual mode (R75). -/
def outManual (s : State) (n : Nat) (w : Word) : Int × State :=
  let m := sint (rd s (slotHoman n))
  let v := stepLim s n w m
  (v, slotFlag s n aeSlotstsLIM (v != m))

/-- The value that OUT writes, by the kind of evaluation (R73 to R75); a hand-over whose HOY is not
the destination of OUT runs as an ordinary evaluation with HOBAD. -/
def outValue (s : State) (n : Nat) (w : Word) : Int × State :=
  let own := stD.get w == 0x20 + rf s (slotHocfg n) aeHocfgHOY
  let man := rb s (slotHosts n) aeHostsMANACT
  if (slotOf s n).ho != .ordinary then
    if own then outHandover s n w
    else
      let t := adaptFlag (wb s (slotHoctl n) aeHoctlHOREQ false) (engOf n) (slotHosts n) aeHostsHOBAD
      outPlain t n w false
  else if man && own then outManual s n w
  else if own && rf s (slotHosts n) aeHostsLEFT != 0 then outSlew s n w
  else outPlain s n w (own && !man)

/-- A hand-over evaluation of slot n transfers the pairs of its source slot (R76, R77). TKIND, TAKE and HOSRC are those
held when OUT issues (DESIGN CHOICE, log entry 182). -/
def hoTakes (s : State) (n : Nat) (w : Word) : Bool :=
  let x := slotOf s n
  x.ho != .ordinary && stD.get w == 0x20 + rf s (slotHocfg n) aeHocfgHOY && !x.noTake &&
    rf s (slotHoctl n) aeHoctlTKIND == 1 && rb s (slotHoctl n) aeHoctlTAKE &&
    rf s (slotHoctl n) aeHoctlHOSRC != n

/-- The pairs of the source slot `a` become the slot's own, before any ownership check of the cycle; the
source's words of this cycle are discarded and not counted (R76). -/
def takePairs (s : State) (n a : Nat) : State :=
  let t := (ownedPairs s 1 a).foldl (fun t p => wf t (cvpPaircfg p) cvpPaircfgOIDX n) s
  let t := wb (wb t (slotHoctl n) aeHoctlMUTE false) (slotHoctl a) aeHoctlMUTE true
  { t with cvp := { t.cvp with queues := t.cvp.queues.filterMap (fun q =>
      let r := q.2.filter (fun e => !(e.prod == .slot a && e.at_ == s.port))
      if r.isEmpty then none else some (q.1, r)) } }

/-- The eight outputs of a slot. -/
def yAll (s : State) (n : Nat) : List Word := (List.range 8).map (yVal s n)

/-- The PORT cycle of R62 in which a section that met its conditions hands its words over: with k steps, ⌈(14 + k) / 4⌉
PORT cycles after a capture two PORT cycles before presentation. The step at OUT has already been counted in pc. -/
def handDue (x : Slot) : Option Nat := x.alone.map (fun i => x.trig.pres + (x.pc - 1 - i + 17) / 4 - 2)

/-- The slot's evaluation ends its OUTPUT section (R59, R62, R63): its words are formed, to be handed over at the PORT
edge of R62, and otherwise at the first PORT edge at least 3 CORE cycles after OUT issues. Commands do not say which of a
PORT cycle's four CORE cycles that is, so that hand-over lies in the next PORT cycle or the one after, as a free choice
(DESIGN CHOICE, log entry 171). A slot with PER 0 forms no words and fires SLOTOUT at OUT (R128). -/
def outEdges (s : State) (n : Nat) (take : Option Nat) : State :=
  let tr := (slotOf s n).trig
  let tau := tr.cyc * 128 + tr.fine
  let c := freshBit s
  let t := c.2
  let ys := yAll t n
  let p := slotTarget t n tau
  let quiet := rf t (slotPer n) aeSlotperPER == 0
  let f := if quiet then ([], semFire t (0x200 + n)) else formWords t n ys p
  let free := s.port + 1 + b2n c.1
  let at_ := match handDue (slotOf s n) with
    | some d => if s.port < d then d else free
    | none => free
  let h : SlotHand := ⟨n, at_, tr.pres, tau, f.1, ys, p, take, quiet, s.port⟩
  { f.2 with ae := { f.2.ae with hands := f.2.ae.hands ++ [h] } }

/-- An evaluation's words reach the CVP (R59, R63, R64, R122): handed over, or discarded after a HOLD; the latency and the
cadence unit's event. -/
def handOver (s : State) (h : SlotHand) : State :=
  let lat := min (4 * (s.port - h.pres)) 0xFFFF
  let la := aeSlotlat (engOf h.slot) (locOf h.slot)
  let t := maxTo (wf s la aeSlotlatLAST lat) la aeSlotlatMAX lat
  let x := slotOf t h.slot
  if h.none then t
  else dmEndSlot (if x.drop.contains h.tau then setSlot t h.slot { x with drop := x.drop.erase h.tau }
    else slotGive t h.slot h.ws h.ys h.p) h.slot 0

/-- The hand-overs of this PORT cycle: first the transfers of pairs, then the words (R76). Pairs are transferred where SHADOW
or the role withholds the slot's words too (DESIGN CHOICE, log entry 183). Words are handed over in ascending slot
number, those of a HOLD among them (R26, R122). -/
def handTick (s : State) : State :=
  if s.ae.hands.isEmpty && s.dm.hand.isEmpty then s
  else
    let due := s.ae.hands.filter (fun h => h.at_ ≤ s.port)
    let holds := s.dm.hand.filter (fun h => h.at_ ≤ s.port)
    let t := { s with
      ae := { s.ae with hands := s.ae.hands.filter (fun h => !(h.at_ ≤ s.port)) }
      dm := { s.dm with hand := s.dm.hand.filter (fun h => !(h.at_ ≤ s.port)) } }
    let t := due.foldl (fun t h => match h.take with
      | some a => takePairs t h.slot a
      | none => t) t
    let give (t : State) (n : Nat) : State :=
      (due.filter (fun h => h.slot == n)).foldl handOver ((holds.filter (fun h => h.slot == n)).foldl holdGive t)
    ((List.range 128).filter (fun n => due.any (fun h => h.slot == n) || holds.any (fun h => h.slot == n))).foldl give t

/-- LAW_OUT (R55, R58, R59, R73 to R76). The sections that waited for this one start in the next cycle (R63): one of lower
number triggered in the same PORT cycle is among them (DESIGN CHOICE, log entry 171). -/
def execLawOut (n : Fin 128) (s : State) : Out :=
  lawStep s n.val 0x12 (fun t w =>
    let n := n.val
    let r := outValue t n w
    let u := sigWr r.2 n (stD.get w) (wordOfInt r.1)
    let take := if hoTakes t n w then some (rf t (slotHoctl n) aeHoctlHOSRC) else none
    let u := setSlot u n { slotOf u n with
      ho := .ordinary, unpark := none, noTake := (slotOf u n).noTake && (slotOf t n).ho == .ordinary }
    let q := (tget [] u.ae.outq (engOf n)).filter (fun k => k != n)
    let u := match q with
      | m :: _ => setSlot u m { slotOf u m with began := some s.port }
      | [] => u
    let u := setPhase { u with ae := { u.ae with outq := tset [] u.ae.outq (engOf n) q } } n phPost
    outEdges u n take)

/-! END and the prime point. -/

/-- Write a word of the slot's image (R66). -/
def imgWr (s : State) (n off : Nat) (v : Word) : State := ramWr s n (imgBase n + off) v

/-- The image write of R66, or of a received image in place of the slot's own (R437). -/
def imageWrite (s : State) (n : Nat) : State :=
  let own := fun i => ramRd s n (sBase s n + i)
  let sq := aeSlotseq (engOf n) (locOf n)
  let rx := (s.ae.rxImg.find? (fun p => p.1 == n)).map (fun p => p.2)
  let sstat : Word := BitVec.ofNat 48 (rf s (slotCtl n) aeSlotctlBANK * 128 + rf s (slotSts n) ⟨6, 0⟩)
  let seq : Word := match rx with
    | some r => setBit r.seq 47 false
    | none => BitVec.ofNat 48 ((rf s sq aeSlotseqSEQ + 1) % 2 ^ 47)
  let word := fun (i : Nat) => match rx with
    | some r => if i < 0x20 then r.s.getD i (own i) else if i < 0x28 then r.y.getD (i - 0x20) 0
        else if i = 0x28 then r.lastX else if i = 0x29 then r.lastT else r.sstat
    | none => if i < 0x28 then own i else if i = 0x28 then own 0x30 else if i = 0x29 then own 0x31
        else sstat
  let t := if rx.isSome then s
    else ramChecks s n (((List.range 0x28).map (sBase s n + ·)) ++ [sBase s n + 0x30, sBase s n + 0x31])
  let t := forN 0x2B t (fun t i => imgWr t n i (word i))
  let t := wf (imgWr t n 0x2B seq) sq aeSlotseqSEQ seq.toNat
  match rx with
  | some _ => wb { t with ae := { t.ae with rxImg := t.ae.rxImg.filter (fun p => p.1 != n) } }
      (slotCtl n) aeSlotctlADOPT true
  | none => t

/-- LAW_END (R55, R64, R66, R79): the evaluation ends, the image is written, the slot's queued
coefficients are committed, and its prime point is next. -/
def execLawEnd (n : Fin 128) (s : State) : Out :=
  lawStep s n.val 0x19 (fun t _ =>
    let u := dmEndSlot (semFire t (0x280 + n.val)) n.val 1
    let u := coefCommit (imageWrite u n.val) n.val
    setSlot u n.val { slotOf u n.val with atPrime := true })

/-- A pending adoption copies the image into the state (R67). -/
def adoptApply (s : State) (n : Nat) : State :=
  if rb s (slotCtl n) aeSlotctlADOPT then
    let img := fun i => ramRd s n (imgBase n + i)
    let t := ramChecks s n (((List.range 0x2A).map (imgBase n + ·)) ++ [imgBase n + 0x2B])
    let t := forN 0x28 t (fun t i => ramWr t n (sBase s n + i) (img i))
    let t := ramWr (ramWr t n (sBase s n + 0x30) (img 0x28)) n (sBase s n + 0x31) (img 0x29)
    let t := wf t (aeSlotseq (engOf n) (locOf n)) aeSlotseqSEQ ((img 0x2B).toNat % 2 ^ 47)
    wb t (slotCtl n) aeSlotctlADOPT false
  else s

/-- BANK toggles and BSWAP clears (R80). -/
def bankToggle (s : State) (n : Nat) : State :=
  wb (wb s (slotCtl n) aeSlotctlBANK (!rb s (slotCtl n) aeSlotctlBANK)) (slotCtl n) aeSlotctlBSWAP false

/-- The source value of REFr of slot n (R48): the last value delivered. A REF newly pointed at a slot output reads that
slot's last past one until the slot writes it again (DESIGN CHOICE, log entry 164). -/
def refVal (s : State) (n r : Nat) : Word :=
  let a := aeRefsrc (engOf n) (locOf n) r
  match rf s a aeRefsrcKIND with
  | 1 => tget 0 s.ae.refPt (4 * n + r)
  | 2 => tget 0 s.ae.yOut (rf s a aeRefsrcSRC % 1024)
  | _ => 0

/-- The mode of R75 and the kind of the evaluation that begins (R71, R72, R75, R88). Where a slot leaves manual mode at
the prime point of its unparking, its target is HOMAN and not AE_PHSPRE (DESIGN CHOICE, log entry 178). -/
def primeMode (s : State) (n : Nat) : State :=
  let old := rb s (slotHosts n) aeHostsMANACT
  let man := rb s (slotHoctl n) aeHoctlMAN
  let t := wb s (slotHosts n) aeHostsMANACT man
  let t := if man && !old then wb (wf t (slotHosts n) aeHostsLEFT 0) (slotHosts n) aeHostsHOACT false else t
  let x := slotOf t n
  let req := fun (u : State) => wb u (slotHoctl n) aeHoctlHOREQ true
  if man then setSlot t n { x with ho := .ordinary, unpark := none }
  else if old then setSlot (req t) n { x with ho := .manual, unpark := none }
  else match x.unpark with
    | some ya => setSlot (req t) n { x with ho := .fixed ya }
    | none =>
      let img := ramRd t n (imgBase n + 0x20 + rf t (slotHocfg n) aeHocfgHOY)
      if rb t (slotHoctl n) aeHoctlHOREQ then setSlot t n { x with ho := if x.ho == .manual then .manual else .byKind img }
      else setSlot t n { x with ho := .ordinary }

/-- Temporaries and working storage are undefined at the prime point (R65): free values. -/
def primeFree (s : State) (n : Nat) : State :=
  ((List.range 8).map (fun i => 0x28 + i) ++ (List.range 14).map (fun i => 0x32 + i)).foldl
    (fun t i => let f := freshWord t; ramWr f.2 n (sBase s n + i) f.1) s

/-- The prime point of an evaluation (R45, R48, R49, R67, R71, R75, R80 to R82, R87, R119). -/
def primePoint (s : State) (n : Nat) : State :=
  let t := dmResumeAll s 1 n
  let t := if rb t (slotCtl n) aeSlotctlBSWAP then bankToggle t n else t
  let t := adoptApply t n
  let t := if rb t (slotCtl n) aeSlotctlCBMODE != (slotOf t n).cbMode then
      let u := coefCommit t n
      setSlot u n { slotOf u n with cbMode := rb u (slotCtl n) aeSlotctlCBMODE }
    else t
  let t := primeFree (winLatch t n) n
  let t := setSlot t n { slotOf t n with
    pc := 0, atPrime := false
    ref0 := refVal t n 0, ref1 := refVal t n 1, ref2 := refVal t n 2, ref3 := refVal t n 3 }
  if (slotOf t n).parking then
    let u := setPhase (primeMode t n) n phArmed
    let u := setSlot u n { slotOf u n with parkAt := true }
    match (slotOf u n).held with
    | some tr => slotPark u n tr
    | none => u
  else primeMode (setPhase t n phPre) n

/-- PRIME_POINT (R45, R49). -/
def execPrimePoint (n : Fin 128) (s : State) : Out :=
  let x := slotOf s n.val
  onlyIf (pdOn s (18 + engOf n.val) && s.running && slotLive s n.val && x.atPrime) s (
    if x.stopping then
      let t := slotStop s n.val
      if x.again then slotEnable t n.val else t
    else primePoint s n.val)

end Sys2Proof.Machine
end

