-- ==== Sys2Proof/Machine/Ae.lean ====
section
/-! DEFINITION. Writes to the Accord engines: slot control, coefficients, templates, windows, phase
groups and local RAM (R49 to R52, R67, R70, R71, R75, R79 to R90). -/

namespace Sys2Proof.Machine

/-- The system type of the Accord engines (R234). -/
def otAccord : Nat := 2

/-- LOCKV of a slot. -/
def slotLockv (s : State) (n : Nat) : State := wb s (slotSts n) aeSlotstsLOCKV true

/-- ADOPT is set (R67). -/
def adoptWrite (s : State) (n : Nat) : State := wb s (slotCtl n) aeSlotctlADOPT true

/-- A write of 1 to BSWAP (R80): at once on a disabled slot, else at the next prime point. One still pending when its slot
becomes disabled stays pending, and the next write of 1 toggles at once (DESIGN CHOICE, log entry 168). -/
def bswapWrite (s : State) (n : Nat) : State :=
  if slotLive s n then wb s (slotCtl n) aeSlotctlBSWAP true else bankToggle s n

/-- A write of 1 to HOREQ (R71): without effect where it reads 1. -/
def horeqWrite (s : State) (n : Nat) : State :=
  if rb s (slotHoctl n) aeHoctlHOREQ then s
  else setSlot (wb s (slotHoctl n) aeHoctlHOREQ true) n { slotOf s n with noTake := false }

/-- A write of AE_SLOTCTL. -/
def slotctlWrite (s : State) (n : Nat) (may : Bool) (v : Word) : State :=
  let t := wf s (slotCtl n) aeSlotctlDECIM (aeSlotctlDECIM.get v)
  let t := if may then wf t (slotCtl n) aeSlotctlCBMODE (aeSlotctlCBMODE.get v) else t
  let t := if aeSlotctlADOPT.get v == 1 then adoptWrite t n else t
  let t := if aeSlotctlBSWAP.get v == 1 then bswapWrite t n else t
  if !may then t
  else if aeSlotctlEN.get v == 1 then (if rb t (slotCtl n) aeSlotctlEN then t else slotEnWrite t n)
  else if rb t (slotCtl n) aeSlotctlEN then slotDisable t n else t

/-- A write of AE_HOCTL. -/
def hoctlWrite (s : State) (n : Nat) (may : Bool) (v : Word) : State :=
  let t := wr s (slotHoctl n) (aeHoctlHOREQ.put
    ((regFind (slotHoctl n)).elim (rd s (slotHoctl n)) (fun d => regMerge d.1 (rd s (slotHoctl n)) v may))
    (rf s (slotHoctl n) aeHoctlHOREQ))
  if aeHoctlHOREQ.get v == 1 then horeqWrite t n else t

/-- A write that is discarded with LOCKV while the slot is enabled (R70, R90). One without the Accord token is denied and
sets no LOCKV (DESIGN CHOICE, log entry 162). -/
def slotLocked (s : State) (n a : Nat) (may : Bool) (v : Word) : State :=
  if slotLive s n then (if may then slotLockv s n else s) else regPut s a may v

/-- A template is written whole; its adaptive value is set anew (R70, R83). -/
def tmplWrite (s : State) (n e : Nat) (may : Bool) (v : Word) : State :=
  let t := regPut s (tmplAddr n e) may v
  if may && slotLive t n && tmplAdapts t n e then adtPreset t n e else t

/-- A write of AE_ADTCFG: ADTEN[e] going from 0 to 1 sets ADT[e] anew (R83). -/
def adtcfgWrite (s : State) (n : Nat) (may : Bool) (v : Word) : State :=
  let t := regPut s (slotAdtcfg n) may v
  if slotLive t n then
    (List.range 8).foldl (fun t e =>
      if !rbit s (slotAdtcfg n) aeAdtcfgADTEN e && tmplAdapts t n e then adtPreset t n e else t) t
  else t

/-- The effective window of R82 for bounds and floor. -/
def effWindow (mn mx fl : Nat) : Nat × Nat :=
  let lo := max mn fl
  let hi := max mx fl
  (if hi < lo then hi else lo, hi)

/-- A write of the dead-time window (R82): lo and hi are shown; it takes effect at the slot's next
prime point. -/
def adtWindowWrite (s : State) (n : Nat) (v : Word) : State :=
  let mn := aeAdtwinDTMIN.get v
  let mx := aeAdtwinDTMAX.get v
  let w := effWindow mn mx s.par.adt
  let a := slotAdtwin n
  let t := wf (wf (wf (wf s a aeAdtwinDTMIN mn) a aeAdtwinDTMAX mx) a aeAdtwinELO w.1) a aeAdtwinEHI w.2
  if mn < s.par.adt || mx < s.par.adt then
    adaptFlag t (engOf n) (slotAdtcfg n) aeAdtcfgWINDOWCLIPPED else t

/-- A write of a phase group's window (R82). -/
def phsWindowWrite (s : State) (g : Nat) (v : Word) : State :=
  let mn := aePhswinNMIN.get v
  let mx := aePhswinNMAX.get v
  let fl := s.par.phs g
  let w := effWindow mn mx fl
  let a := aePhswin g
  let t := wf (wf (wf (wf s a aePhswinNMIN mn) a aePhswinNMAX mx) a aePhswinELO w.1) a aePhswinEHI w.2
  if mn < fl || mx < fl then adaptFlag t 0 (aePhssts g) aePhsstsWINDOWCLIPPED else t

/-! Phase groups. -/

/-- Slot n is a member of group g (R85). -/
def phsMember (s : State) (g n : Nat) : Bool :=
  rb s (slotPhs n) aeSlotphsMEM && rf s (slotPhs n) aeSlotphsGRP == g

/-- The members of a group. -/
def phsMembers (s : State) (g : Nat) : List Nat := (List.range 128).filter (phsMember s g)

/-- A member that is parked or chosen for parking (R86, R87). -/
def slotShed (s : State) (n : Nat) : Bool := rb s (slotPhs n) aeSlotphsPARKED || (slotOf s n).parking

/-- MEMBERS and ACTIVE shown (R86). -/
def phsSync (s : State) (g : Nat) : State :=
  let ms := phsMembers s g
  wf (wf s (aePhssts g) aePhsstsMEMBERS ms.length) (aePhssts g) aePhsstsACTIVE
    (ms.filter (fun n => !slotShed s n)).length

/-- RANK of a slot. -/
def rankOf (s : State) (n : Nat) : Nat := rf s (slotPhs n) aeSlotphsRANK

/-- The last slot of highest rank: equal ranks are parked from the highest slot number down (R86). -/
def highestRank (s : State) : List Nat → Option Nat
  | [] => none
  | n :: r => match highestRank s r with
    | some m => if rankOf s m < rankOf s n then some n else some m
    | none => some n

/-- The first slot of lowest rank: equal ranks are unparked from the lowest slot number up (R86). -/
def lowestRank (s : State) : List Nat → Option Nat
  | [] => none
  | n :: r => match lowestRank s r with
    | some m => if rankOf s n ≤ rankOf s m then some n else some m
    | none => some n

/-- The member passes a prime point in the cycle after the decision and makes a hand-over to
AE_PHSPRE (R88); one not yet parked goes on with its evaluations and makes that
hand-over at its next prime point (DESIGN CHOICE, log entry 180). -/
def slotUnpark (s : State) (g n : Nat) : State :=
  let x := slotOf s n
  let was := rb s (slotPhs n) aeSlotphsPARKED || (phaseOf s n == phArmed && x.parkAt)
  let t := wb s (slotPhs n) aeSlotphsPARKED false
  let t := setSlot t n { x with
    parking := false, parkAt := false, unpark := some (rd s (aePhspre g)), atPrime := x.atPrime || (was && slotLive s n) }
  if was && slotLive s n then setPhase t n phPre else t

/-- One update of a phase group (R86). -/
def phsUpdate (s : State) (g : Nat) (load : Word) : State :=
  let ctl := aePhsctl g
  let ms := phsMembers s g
  let m := ms.length
  let act := ms.filter (fun n => !slotShed s n)
  let n := act.length
  let cap := sint (rd s (aePhscap g))
  let l := sint load
  let spare := rf s ctl aePhsctlSPARE
  let need : Nat := if l ≤ 0 then spare else if cap ≤ 0 then m
    else ((l + cap - 1) / cap).toNat + spare
  let lo := rf s (aePhswin g) aePhswinELO
  let hi := rf s (aePhswin g) aePhswinEHI
  let lim := min (max need lo) hi
  let t := if lim != need then
      inc (adaptFlag s 0 (aePhssts g) aePhsstsPOLICYCLAMPED) (aePhssts g) aePhsstsCLAMPS else s
  let target := min lim m
  let low := tget 0 s.ae.lows g
  let setLow := fun (u : State) (v : Nat) => { u with ae := { u.ae with lows := tset 0 u.ae.lows g v } }
  let t := if n < target then
      match lowestRank s (ms.filter (slotShed s)) with
      | some k => setLow (slotUnpark t g k) 0
      | none => setLow t 0
    else if target < n then
      if max 1 (rf s ctl aePhsctlDWELL) ≤ low + 1 then
        match highestRank s act with
        | some k => setLow (setSlot t k { slotOf t k with parking := true }) 0
        | none => setLow t 0
      else setLow t (low + 1)
    else setLow t 0
  phsSync t g

/-- PHASE_GROUP_UPDATE (R86): the oldest value that the group's load source delivered. -/
def execPhaseGroupUpdate (g : Fin 4) (s : State) : Out :=
  match s.ae.loads.find? (fun p => p.1 == g.val) with
  | some (k, v) =>
    let t := { s with ae := { s.ae with loads := s.ae.loads.erase (k, v) } }
    let on := rb s (aePhsctl g.val) aePhsctlEN && !rb s (aePhsctl g.val) aePhsctlFREEZE
    onlyIf (pdOn s 18) s (if on then phsUpdate t g.val v else t)
  | none => ok s

/-- A member is active again without a hand-over: its group was enabled, or it left the group. -/
def slotActivate (s : State) (n : Nat) : State :=
  let x := slotOf s n
  let back := (rb s (slotPhs n) aeSlotphsPARKED || x.parkAt) && phaseOf s n == phArmed
  let t := wb s (slotPhs n) aeSlotphsPARKED false
  let t := setSlot t n { x with parking := false, parkAt := false, atPrime := x.atPrime || back }
  if back then setPhase t n phPre else t

/-- A group is enabled: every member is active (R85). -/
def phsEnable (s : State) (g : Nat) : State :=
  let t := (phsMembers s g).foldl slotActivate s
  phsSync { t with ae := { t.ae with lows := tset 0 t.ae.lows g 0 } } g

/-- A write of AE_SLOTPHS (R85): locked while the slot and its group are enabled. -/
def slotphsWrite (s : State) (n : Nat) (may : Bool) (v : Word) : State :=
  let g := rf s (slotPhs n) aeSlotphsGRP
  if !may then s
  else if slotLive s n && rb s (slotPhs n) aeSlotphsMEM && rb s (aePhsctl g) aePhsctlEN then slotLockv s n
  else
    let t := if aeSlotphsMEM.get v == 1 && aeSlotphsGRP.get v == g then s else slotActivate s n
    let t := regPut t (slotPhs n) true v
    phsSync (phsSync t g) (aeSlotphsGRP.get v)

/-- A write that a group's EN locks is discarded and sets LOCKV (R90). The group's registers have no LOCKV bit and the rule
names no slot: it is set in the status of every member whose engine is ON (DESIGN CHOICE, log entry 163). -/
def phsLockv (s : State) (g : Nat) : State :=
  ((phsMembers s g).filter (fun n => pdOn s (18 + engOf n))).foldl slotLockv s

/-- A write of AE_PHSCTL (R90): while EN is 1 it may change only FREEZE and EN. -/
def phsctlWrite (s : State) (g : Nat) (may : Bool) (v : Word) : State :=
  let a := aePhsctl g
  let other := aePhsctlSPARE.get v != rf s a aePhsctlSPARE || aePhsctlDWELL.get v != rf s a aePhsctlDWELL
  if !may then s
  else if rb s a aePhsctlEN && other then phsLockv s g
  else
    let t := regPut s a true v
    if !rb s a aePhsctlEN && rb t a aePhsctlEN then phsEnable t g else t

/-- A write of another group register, described by `d`: one that is not denied is discarded and sets LOCKV while the
group's EN is 1 (R90). -/
def phsRegWrite (s : State) (d : RegDesc) (g a : Nat) (may : Bool) (v : Word) : State :=
  if rb s (aePhsctl g) aePhsctlEN then (if d.guarded && !may then s else phsLockv s g) else regPut s a may v

/-! Local RAM. -/

/-- The enabled slots of an engine. -/
def liveSlots (s : State) (e : Nat) : List Nat :=
  ((List.range 16).map (fun j => 16 * e + j)).filter (slotLive s)

/-- The word is a program word of slot n (R52). -/
def inProgram (s : State) (n off : Nat) : Bool := pBase s n ≤ off && off < pBase s n + progLen s n

/-- The word is a coefficient of the active bank of slot n. -/
def inActiveBank (s : State) (n off : Nat) : Bool :=
  let b := cBase s n + 64 * rf s (slotCtl n) aeSlotctlBANK
  b ≤ off && off < b + 64

/-- A write to the active bank of an enabled slot in direct mode enters the queue (R79). -/
def coefEnter (s : State) (e off : Nat) (v : Word) : Nat × State :=
  let q := coefQ s e
  if q.any (fun p => p.1 == off) then
    (0, setCoefQ s e (q.map (fun p => if p.1 == off then (off, v) else p)))
  else if 16 ≤ q.length then (1, inc s (aeCqsts e) aeCqstsFULL)
  else (0, setCoefQ s e (q ++ [(off, v)]))

/-- An interconnect write to word `off` of engine e's local RAM (R50, R52, R79, R80): the completion
code and the state. A word of a bank that has become inactive is written directly although an entry of it still waits, and
that entry overwrites it at its commit (DESIGN CHOICE, log entry 184). -/
def aeRamWrite (s : State) (e off : Nat) (v : Word) : Nat × State :=
  if 0x1C00 ≤ off then (0, slotLockv s (16 * e + (off - 0x1C00) / 64 % 16))
  else match (liveSlots s e).filter (fun n => inProgram s n off) with
    | n :: l => (0, (n :: l).foldl slotLockv s)
    | [] =>
      match (liveSlots s e).find? (fun n => inActiveBank s n off) with
      | some n => if (slotOf s n).cbMode then (0, slotLockv s n) else coefEnter s e off v
      | none => (0, ramWr s (16 * e) off v)

/-- An interconnect read of a local RAM word: a word with a queue entry returns the entry's value (R79). -/
def aeRamRead (s : State) (e off : Nat) : Word :=
  match (coefQ s e).find? (fun p => p.1 == off) with
  | some p => p.2
  | none => memRd s (ramAddr e off)

/-! The rows. -/

/-- A write to a register of slot n's engine: the unit must be ON, and the writer hold its type. -/
def aeWrite (q : Req) (n : Nat) (s : State) (f : State → State) : Out :=
  if !pdOn s (18 + engOf n) then ok (respond s 3)
  else if !holdsType s q otAccord then ok (respond s 2)
  else ok (respond (f s) 0)

/-- The same for a write that needs no token. -/
def aeWriteOpen (n : Nat) (s : State) (f : State → State) : Out :=
  if !pdOn s (18 + engOf n) then ok (respond s 3) else ok (respond (f s) 0)

/-- SLOT_ENABLE (R56): a write of 1 to AE_SLOTCTL.EN. -/
def execSlotEnable (q : Req) (n : Fin 128) (s : State) : Out :=
  aeWrite q n.val s (fun s => if rb s (slotCtl n.val) aeSlotctlEN then s else slotEnWrite s n.val)

/-- SLOT_DISABLE (R49): a write of 0 to AE_SLOTCTL.EN. -/
def execSlotDisable (q : Req) (n : Fin 128) (s : State) : Out :=
  aeWrite q n.val s (fun s => if rb s (slotCtl n.val) aeSlotctlEN then slotDisable s n.val else s)

/-- SLOT_ADOPT (R67). -/
def execSlotAdopt (n : Fin 128) (s : State) : Out := aeWriteOpen n.val s (fun s => adoptWrite s n.val)

/-- BSWAP (R80). -/
def execBswap (n : Fin 128) (s : State) : Out := aeWriteOpen n.val s (fun s => bswapWrite s n.val)

/-- HOREQ (R71). -/
def execHoreq (n : Fin 128) (s : State) : Out := aeWriteOpen n.val s (fun s => horeqWrite s n.val)

/-- MANUAL_MODE_WRITE (R75): MAN, taking effect at the next prime point. -/
def execManualModeWrite (q : Req) (n : Fin 128) (man : Bool) (s : State) : Out :=
  aeWrite q n.val s (fun s => wb s (slotHoctl n.val) aeHoctlMAN man)

/-- CBMODE_WRITE (R81): CBMODE, taking effect at the next prime point of an enabled slot. -/
def execCbmodeWrite (q : Req) (n : Fin 128) (bank : Bool) (s : State) : Out :=
  aeWrite q n.val s (fun s => wb s (slotCtl n.val) aeSlotctlCBMODE bank)

/-- COEF_WRITE (R79, R80): an interconnect write to word `w` of slot n's coefficient area. -/
def execCoefWrite (n w : Fin 128) (v : Word) (s : State) : Out :=
  if !pdOn s (18 + engOf n.val) then ok (respond s 3)
  else
    let r := aeRamWrite s (engOf n.val) ((cBase s n.val + w.val) % 0x2000) v
    ok (respond r.2 r.1)

/-- TEMPLATE_WRITE (R70). -/
def execTemplateWrite (q : Req) (n : Fin 128) (e : Fin 8) (v : Word) (s : State) : Out :=
  aeWrite q n.val s (fun s => tmplWrite s n.val e.val true v)

end Sys2Proof.Machine
end

