-- ==== Sys2Proof/Machine/Mem.lean ====
section
/-! DEFINITION. The memory system: the address map, ECC and tags, the scrubber, retirement,
reservations and torn bursts (R263 to R284). -/

namespace Sys2Proof.Machine

/-! Reads and writes of the arrays (R263, R273, R275, R276). -/

/-- The L2 region of supervisor core k in use holds the address (R291). -/
def inL2 (s : State) (k a : Nat) : Bool :=
  let v := tget Svc.zero s.svc k
  v.l2on && v.l2reg.1 ≤ a && a < v.l2reg.1 + v.l2reg.2 * 0x10000

/-- The requester number of a port (R136, R450): none for a hardware master. -/
def portReq (p : Nat) : Option Nat :=
  if 10 ≤ p && p < 18 then some (p - 10) else if p = 23 || p = 24 then some (p - 15)
  else if p = 26 || p = 27 then some (p - 16) else none

/-- The region of the point engine's cache, in use, holds the address (R315). -/
def inPneRegion (s : State) (a : Nat) : Bool :=
  let r := s.pne.region
  pdOn s 45 && s.pne.phase != 0 && r.1 * 0x10000 ≤ a && a < (r.1 + r.2) * 0x10000

/-- The rack link's send table or report queue, in use, holds the address (R412, R414). -/
def inRlkTable (s : State) (a : Nat) : Bool :=
  let sb := rf s rlkTbl rlkTblSBASE
  let rb' := rf s rlkTbl rlkTblRBASE
  pdOn s 48 && rb s rlkCtrl rlkCtrlEN && ((sb ≤ a && a < sb + 32768) || (rb' ≤ a && a < rb' + 8192))

/-- A word of a command buffer whose contents are undefined to the port's requester (R451, R462): the buffer is FREE, the
requester is neither its owner nor the interpreter while it executes, or it is a body word of an orphaned one. -/
def cptHidden (s : State) (a port : Nat) : Bool :=
  let base := rf s cptPool cptPoolBASE / 16384 * 16384
  if !(pdOn s 49 && rb s cptCtrl cptCtrlEN && base ≤ a && a < base + 16384) || port = 25 then false
  else
    let b := (a - base) / 256
    let st := rf s (cptBuf b) cptBufSTATE
    if (st == 3 || st == 5) && port = 23 then false
    else match portReq port with
      | some r => st == 0 || rf s (cptBuf b) cptBufOWNER != r || (st == 5 && 2 ≤ (a - base) % 256)
      | none => true

/-! Grants of the bank ports (R267, R270, R274, R278, R279, R281). -/

/-- Number of the present frame of 64 FABRIC cycles (R278). -/
def frameNo (s : State) : Nat := s.port / 32

/-- The scrubber's slots in array i in the present frame that are used (R274). -/
def slotsUsed (s : State) (i : Nat) : Nat :=
  let p := tget (0, 0) s.msys.slots i
  if p.1 = frameNo s then p.2 else 0

/-- The scrubber's slots in array i in a frame (R274). -/
def slotShare (s : State) (i : Nat) : Nat := if i < 64 && bankFast s (i / 4) (i % 4) then 8 else 1

/-- `n` grants of bank port `b`, numbered as MemSys.grants. -/
def grantNote (s : State) (b n : Nat) : State :=
  { s with msys := { s.msys with grants := tset 0 s.msys.grants b (tget 0 s.msys.grants b + n) } }

/-- The bank port that an access of `port` to a shared-memory word uses. -/
def bankPort (port a : Nat) : Option Nat :=
  match targetOf a with
  | .shared st b => some (2 * (4 * st + b) + portPlane port)
  | _ => none

/-- The order of R278 among requests for one bank port, a larger number first: a retry; a port with credit left by PRIO,
then class, then the lower port; any other, first one that has waited 64 FABRIC cycles, then by PRIO, then the lower
port. -/
def grantRank (s : State) (port a : Nat) (retry : Bool) (since : Nat) : Nat :=
  let prio := rf s (memArb port) memArbPRIO
  let low := 63 - port
  match targetOf a with
  | .shared st b =>
    if retry then 3 * 2 ^ 16 + low
    else if tget 0 s.msys.credit (64 * port + 4 * st + b) ≠ 0 then
      2 * 2 ^ 16 + prio * 2 ^ 10 + (7 - (portClass port).getD 7) * 2 ^ 6 + low
    else b2n (decide (since + 64 ≤ 2 * s.port)) * 2 ^ 16 + prio * 2 ^ 10 + low
  | _ => 0

/-- The waiting request still stands, and is a retry (R270, R278): a core's oldest access, the host slave port's burst or
the debug port's access. -/
def waiterStands (s : State) (w : Waiter) : Option Bool :=
  match (if 10 ≤ w.port && w.port < 18 then some (w.port - 10) else if w.port = 23 || w.port = 24 then some (w.port - 15) else none) with
  | some k => match (coreOf s k).reqs with
    | r :: _ => if r.addr = w.addr then some r.busy else none
    | [] => none
  | none =>
    if w.port = 26 then (if s.ports.hspq.isEmpty then none else some false)
    else if (s.dbg.acc == 1 || s.dbg.acc == 2) && s.dbg.maddr.toNat % 2 ^ 40 == w.addr then some w.retry
    else none

/-- The FABRIC cycle from which a request of `port` to the word waits. -/
def waitsSince (s : State) (port a : Nat) : Nat :=
  match s.msys.waiting.find? (fun w => w.port == port && w.addr == a) with
  | some w => w.at_
  | none => 2 * s.port

/-- The requests before the arbiters, and whether each is a retry (R270, R278): those that wait, and the oldest access of each core
once a PORT cycle has passed since it was sent, or where it was answered BUSY. -/
def rivals (s : State) : List (Waiter × Bool) :=
  s.msys.waiting.filterMap (fun w => (waiterStands s w).map (fun r => (w, r))) ++
  (List.range 10).filterMap (fun k => match (coreOf s k).reqs with
    | r :: _ =>
      if r.busy || decide (r.at_ < s.port) then
        some (⟨corePort k, r.addr, waitsSince s (corePort k) r.addr, false⟩, r.busy)
      else none
    | [] => none)

/-- The scrubber's slots in bank port b come before new requests of its plane, from the frame's first cycles on (R274, R278). -/
def scrubFirst (s : State) (b : Nat) : Bool :=
  let i := b / 2
  b % 2 == 1 && rb s memCtrl memCtrlSCRUBEN && arrayCode s (arrayAddr i 0) == 0 && decide (slotsUsed s i < slotShare s i) &&
    decide (s.port % 32 < slotShare s i)

/-- The request is granted now: its bank port has an access of this PORT cycle left (R267), and neither the scrubber nor another
request comes before it (R278). -/
def grantable (s : State) (port a : Nat) (retry : Bool) : Bool :=
  match bankPort port a with
  | none => true
  | some b => decide (tget 0 s.msys.grants b < 2) && (retry || !scrubFirst s b) && (rivals s).all (fun x =>
      x.1.port == port || bankPort x.1.port x.1.addr != some b ||
        decide (grantRank s x.1.port x.1.addr x.2 x.1.at_ < grantRank s port a retry (waitsSince s port a)))

/-- A retry of another port waits for a bank port (R270). -/
def retryWaits (s : State) (b port : Nat) : Bool :=
  (rivals s).any (fun x => x.2 && x.1.port != port && bankPort x.1.port x.1.addr == some b)

/-- A request that is not granted waits from its first FABRIC cycle on. -/
def waitMark (s : State) (port a : Nat) : State :=
  if s.msys.waiting.any (fun w => w.port == port && w.addr == a) then s
  else { s with msys := { s.msys with waiting := s.msys.waiting.filter (fun w => w.port != port) ++ [⟨port, a, 2 * s.port, false⟩] } }

/-- An access was answered BUSY, and its retry waits (R270). -/
def retryMark (s : State) (port a : Nat) : State :=
  { s with msys := { s.msys with waiting := s.msys.waiting.filter (fun w => w.port != port) ++ [⟨port, a, 2 * s.port, true⟩] } }

/-- A request is granted: its wait is recorded, `waited` FABRIC cycles or as long as it is known to have waited (R284). -/
def icGrant (s : State) (port a waited : Nat) : State :=
  let t := maxTo s (memArb port) memArbWAITMAX (max waited (2 * s.port - waitsSince s port a))
  { t with msys := { t.msys with waiting := t.msys.waiting.filter (fun w => w.port != port) } }

/-- A beat granted to a port at a shared-memory bank takes one of its bank port's accesses of this PORT cycle, and one credit, when
the port has any (R267, R278). -/
def takeGrant (s : State) (port a : Nat) : State :=
  match targetOf a, bankPort port a with
  | .shared st b, some g =>
    let k := 64 * port + 4 * st + b
    let t := if tget 0 s.msys.grants g < 2 then grantNote s g 1 else s
    { t with msys := { t.msys with credit := tset 0 t.msys.credit k (tget 0 t.msys.credit k - 1) } }
  | _, _ => s

/-- A hardware master's beat has to wait at its bank port: another port has used it in this PORT cycle, or a request stands before it
(R278). -/
def contested (s : State) (port a : Nat) : Bool :=
  match bankPort port a with
  | none => false
  | some b =>
    s.msys.acts.any (fun x => x.port != port && bankPort x.port x.addr == some b) ||
      (rivals s).any (fun x => x.1.port != port && bankPort x.1.port x.1.addr == some b &&
        decide (grantRank s port a false (2 * s.port) < grantRank s x.1.port x.1.addr x.2 x.1.at_))

/-- The wait of a hardware master's beat is recorded (R284). Commands do not say in which FABRIC cycle such a beat is presented, so
how long it waits is a free value; see log entry 190. -/
def unitWait (s : State) (port a : Nat) : State :=
  if (portReq port).isNone && contested s port a then
    maxTo (freshWord s).2 (memArb port) memArbWAITMAX ((freshWord s).1.toNat % memArbWAITMAX.span)
  else s

/-- The port of its array on which an access of interconnect port `port` acts: 0 the earlier, 1 the later (R269). A core
reads its own scratchpads through its own port, and writes its data scratchpad through it. -/
def sideOf (a port : Nat) (write : Bool) : Nat :=
  match targetOf a with
  | .shared _ _ => portPlane port
  | .dataSp n => b2n (port != 10 + n)
  | .instSp n => b2n (port != 10 + n || write)
  | _ => 1

/-- A retry at a core's own port of a scratchpad costs it a CORE cycle (R181). -/
def ownRetry (s : State) (a port : Nat) : State :=
  match targetOf a with
  | .dataSp n | .instSp n => if port = 10 + n then spend s n 1 else s
  | _ => s

/-- The access may meet one that acted on the word in this PORT cycle on the array's other port (R269, R270): as the second
of the two it receives BUSY, is counted and retried, and then acts. Commands do not say in which cycle of the array an
access lies, so whether they meet is a free choice. -/
def meetOne (s : State) (a port : Nat) (write : Bool) : State :=
  let side := sideOf a port write
  if s.msys.acts.any (fun x => x.addr == a && x.side != side && x.write && (!write || side == 1)) && port < 28 then
    if (freshBit s).1 then ownRetry (inc (freshBit s).2 (memArb port) memArbBUSYCNT) a port else (freshBit s).2
  else s

/-- A beat of a port reaches its word (R267 to R270, R278). `auto`: no operand says what it meets. -/
def beat (s : State) (a port : Nat) (write auto : Bool) : State :=
  let t := takeGrant (unitWait s port a) port a
  let t := if auto then meetOne t a port write else t
  { t with msys := { t.msys with acts := t.msys.acts ++ [⟨a, write, sideOf a port write, port⟩] } }

/-- The word as a port sees it: a region in use by a unit is undefined to every other reader (R291, R315,
R451); the layout of the rack link's tables is not given. -/
def arrayWord (s : State) (a port : Nat) : Word × State :=
  match targetOf a with
  | .aeRam e => (aeRamRead s e (a % 0x2000), s)
  | .shared _ _ =>
    if inL2 s 8 a || inL2 s 9 a || inPneRegion s a || inRlkTable s a || cptHidden s a port then freshWord s
    else (memRd s a, s)
  | _ => (memRd s a, s)

/-- A read of an array's word by its owner: code, word as it stands there, and state. -/
def arrayOwn (s : State) (a port : Nat) (auto : Bool := true) (tags : Bool := true) : Nat × Word × State :=
  let c := arrayAnswer s a
  if c ≠ 0 then (c, 0, s)
  else
    let e := eccCheck (beat s a port false auto) ((targetOf a).array.getD 0) a port tags
    if e.1 then (5, 0, e.2) else (0, memRd e.2 a, e.2)

/-- A read of an array by a port: code, word and state. -/
def arrayRead (s : State) (a port : Nat) (auto : Bool := true) (tags : Bool := true) : Nat × Word × State :=
  let r := arrayOwn s a port auto tags
  if r.1 ≠ 0 then r
  else
    let w := arrayWord r.2.2 a port
    (0, w.1, w.2)

/-- A read by a hardware unit is checked, counted and logged (R273): see `ownWord` for its word. Where it gives no data, the
free value that stands for the word is used up. -/
def ownCheck (s : State) (a port : Nat) : State :=
  let t := (arrayOwn s a port).2.2
  if noData s a then (fresh t).2 else t

/-- A store to an array by a port: code and state. It clears the tag of its pair (R210). -/
def arrayWrite (s : State) (a port : Nat) (v : Word) (auto : Bool := true) : Nat × State :=
  let c := arrayAnswer s a
  if c ≠ 0 then (c, s)
  else
    let t := beat s a port true auto
    match targetOf a with
    | .aeRam e => aeRamWrite t e (a % 0x2000) v
    | _ => (0, tagWr (memWr (storeFresh t a) a v) (a / 2 * 2) false)

/-- A store by a hardware unit: a word that does not answer takes nothing. -/
def ownStore (s : State) (a port : Nat) (v : Word) : State := (arrayWrite s a port v).2

/-- A word changes as a hardware unit's store leaves it, its beat being counted elsewhere. -/
def ownPut (s : State) (a : Nat) (v : Word) : State :=
  if arrayAnswer s a = 0 then tagWr (memWr (storeFresh s a) a v) (a / 2 * 2) false else s

/-- A hardware unit clears the words at even addresses lo to hi - 1, with fresh check bits and tag copies (R272). -/
def clearWords (s : State) (lo hi : Nat) : State :=
  let t := memClear s lo hi
  { t with msys := { t.msys with upsets := t.msys.upsets.filter (fun p =>
      !(upsetKey lo ≤ p.1 && p.1 < upsetKey hi) && !(tagUpsetKey lo ≤ p.1 && p.1 < tagUpsetKey hi)) } }

/-- A hardware unit reads `n` words from `a`. -/
def ownChecks (s : State) (a n port : Nat) : State := forN n s (fun t i => ownCheck t (a + i) port)

/-- Stores by a hardware unit at rising addresses. -/
def ownStoreList (s : State) (a port : Nat) : List Word → State
  | [] => s
  | w :: r => ownStoreList (ownStore s a port w) (a + 1) port r

/-- The words at `n` addresses from `a` as a hardware unit obtains them. -/
def ownWords (s : State) (a n : Nat) : List Word := (List.range n).map (fun i => ownWord s (a + i))

/-- A read of an aligned pair of words and its tag, indivisibly (R240): code, the words and the tag. -/
def arrayReadPair (s : State) (a port : Nat) : Nat × Tok × State :=
  let r := arrayRead s a port
  if r.1 ≠ 0 then (r.1, Tok.zero, r.2.2)
  else
    let q := arrayRead r.2.2 (a + 1) port true false
    if q.1 ≠ 0 then (q.1, Tok.zero, q.2.2)
    else (0, ⟨r.2.1, q.2.1, (targetOf a).tagged && tagRd q.2.2 a⟩, q.2.2)

/-- A store of an aligned pair of words with its tag (R240): a target without tags loses it. -/
def arrayWritePair (s : State) (a port : Nat) (t : Tok) : Nat × State :=
  let r := arrayWrite s a port t.w0
  if r.1 ≠ 0 then r
  else
    let q := arrayWrite r.2 (a + 1) port t.w1
    if q.1 ≠ 0 then q
    else (0, if t.tag && (targetOf a).tagged then tagWr q.2 a true else q.2)

/-! The scrubber (R274). -/

/-- A shared-memory bank's pass ends: a FAST pass under CETHR ends FAST at the next frame, and another one that reached CETHR starts
it (R274). -/
def passEnd (s : State) (i : Nat) : State :=
  let few := tget 0 s.msys.passCe i < rf s memCtrl memCtrlCETHR
  let put (b : Bool) (l : List Nat) : List Nat := if b && i < 64 && !l.contains i then i :: l else l
  let fast := bankFast s (i / 4) (i % 4)
  { s with msys := { s.msys with
    passCe := tset 0 s.msys.passCe i 0, calm := put (fast && few) s.msys.calm, hot := put (!fast && !few && rf s memCtrl memCtrlCETHR != 0) s.msys.hot } }

/-- The scrubber's next word in array i: one queued for it, else the next of its pass. -/
def scrubNext (s : State) (i : Nat) : Nat :=
  match s.msys.queue.find? (fun a => (targetOf a).array == some i) with
  | some a => a
  | none => arrayAddr i (tget 0 s.msys.pos i)

/-- Move the scrubber of array i past a word. -/
def scrubAdvance (s : State) (i a : Nat) : State :=
  if s.msys.queue.contains a then { s with msys := { s.msys with queue := s.msys.queue.erase a } }
  else
    let p := tget 0 s.msys.pos i + 1
    if p < arraySize i then { s with msys := { s.msys with pos := tset 0 s.msys.pos i p } }
    else passEnd { s with msys := { s.msys with pos := tset 0 s.msys.pos i 0 } } i

/-- The scrubber reads a word and writes back what it corrects (R273, R274). -/
def scrubWord (s : State) (i a : Nat) : State :=
  let t := if upsetAt s (tagUpsetKey a) = .tag && (targetOf a).tagged then
      setUpset (tagWr (eccLog (countCe s i) 1 0 a 0x1F) (a / 2 * 2) false) (tagUpsetKey a) .none else s
  match upsetAt t (upsetKey a) with
  | .bit b => setUpset (eccLog (countCe t i) 0 b.val a 0x1F) (upsetKey a) .none
  | .multi => eccLog (countUe t i) 2 0 a 0x1F
  | _ => t

/-- The scrubber takes a slot in array i; at a bank it holds the plane-1 port for two cycles (R274). -/
def scrubTake (s : State) (i : Nat) : State :=
  let t := { s with msys := { s.msys with slots := tset (0, 0) s.msys.slots i (frameNo s, slotsUsed s i + 1) } }
  if i < 64 then grantNote t (2 * i + 1) 2 else t

/-- The scrubber corrects something at the word, and so writes it back (R274). -/
def scrubFixes (s : State) (a : Nat) : Bool :=
  (match upsetAt s (upsetKey a) with
    | .bit _ => true
    | _ => false) || (upsetAt s (tagUpsetKey a) == .tag && (targetOf a).tagged)

/-- The scrubber visits a word, which another port's access may meet in the same PORT cycle (R269). -/
def scrubVisit (s : State) (i a : Nat) : State :=
  let t := scrubWord s i a
  { t with msys := { t.msys with acts := t.msys.acts ++ [⟨a, scrubFixes s a, 1, 28⟩] } }

/-- The scrubber's port is free to it: its bank port has an access of this PORT cycle left, and no retry waits for it (R270, R278). -/
def scrubFree (s : State) (i : Nat) : Bool :=
  64 ≤ i || (decide (tget 0 s.msys.grants (2 * i + 1) < 2) && !retryWaits s (2 * i + 1) 28)

/-- SCRUB (R274): the scrubber's slot in array i, while it has one left in this frame and its port is free. `u`: an upset that has
struck the word; `busy`: the word met another access, so it is left to the next pass. -/
def execScrub (i : Fin 88) (u : Upset) (busy : Bool) (s : State) : Out :=
  let a := scrubNext s i
  let t := scrubTake (strike s a u) i
  onlyIf (s.running && rb s memCtrl memCtrlSCRUBEN && arrayCode s a == 0 && decide (slotsUsed s i < slotShare s i) && scrubFree s i) s
    (scrubAdvance (if busy then t else scrubVisit t i a) i a)

/-! Reservations (R277 to R280). -/

/-- An entry of a reservation table. -/
structure Resv where
  e      : Nat
  port   : Nat
  stripe : Nat
  amt    : Nat
deriving DecidableEq, Repr

/-- AMT as it acts (R284). -/
def amtActs (n : Nat) : Nat := min n 64

/-- The entries of a table whose words are given, enabled ones only. -/
def resvOf (l : List (Nat × Word)) : List Resv :=
  (l.filter (fun p => memResvEN.get p.2 == 1)).map (fun p =>
    ⟨p.1, memResvPORT.get p.2, memResvSTRIPE.get p.2, amtActs (memResvAMT.get p.2)⟩)

/-- The pending table (R277). -/
def pendingResv (s : State) : List (Nat × Word) := (List.range 64).map (fun e => (e, rd s (memResv e)))

/-- The active entries that are not demoted. -/
def activeResv (s : State) : List Resv :=
  resvOf (((List.range 64).map (fun e => (e, rd s (memResvact e)))).filter (fun p => memResvactDEM.get p.2 == 0))

/-- Capacity of a bank port (R277, R280). -/
def bankCap (s : State) (st b plane : Nat) : Nat :=
  if !pdOn s (28 + st) || retired s st b then 0
  else if plane = 1 && bankFast s st b then 48 else 56

/-- Load of a table on a stripe's plane. -/
def stripeLoad (l : List Resv) (st plane : Nat) : Nat :=
  (l.filter (fun r => r.stripe == st && portPlane r.port == plane)).foldl (fun n r => n + r.amt) 0

/-- The first bank port that a table overcommits: stripe, bank, plane (R277). -/
def firstOver (s : State) (l : List Resv) : Option (Nat × Nat × Nat) :=
  ((List.range 128).map (fun i => (i / 8, i / 2 % 4, i % 2))).find? (fun p =>
    bankCap s p.1 p.2.1 p.2.2 < stripeLoad l p.1 p.2.2)

/-- Admission (R277): RESULT, and the failing stripe, bank, plane and entry of an overcommit. -/
def resvAdmission (s : State) (l : List Resv) : Nat × Nat × Nat × Nat × Nat :=
  if l.any (fun r => (portClass r.port).isNone) then (3, 0, 0, 0, 0)
  else if l.any (fun r => l.any (fun x => x.e != r.e && x.port == r.port && x.stripe == r.stripe)) then
    (2, 0, 0, 0, 0)
  else match firstOver s l with
    | none => (0, 0, 0, 0, 0)
    | some (st, b, p) =>
      (1, st, b, p, (l.filter (fun r => r.stripe == st && portPlane r.port == p)).foldl (fun m r => max m r.e) 0)

/-- A write of 1 to COMMIT: ignored while BUSY (R277). -/
def resvCommit (s : State) : State :=
  if rb s memResvctl memResvctlBUSY then s
  else
    let t := wb (wb s memResvctl memResvctlBUSY true) memResvctl memResvctlCOMMIT true
    let l := pendingResv s
    { t with msys := { t.msys with adm := some (resvAdmission s (resvOf l)), next := if (resvAdmission s (resvOf l)).1 = 0 then some l else s.msys.next } }

/-- RESV_COMMIT (R277). -/
def execResvCommit (s : State) : Out := ok (respond (resvCommit s) 0)

/-- RESV_ADMISSION_DONE (R277): RESULT is reported; a refused commit leaves the active table unchanged. -/
def execResvAdmissionDone (s : State) : Out :=
  match s.msys.adm with
  | none => ok s
  | some (r, st, b, p, e) =>
    let t := wb (wb s memResvctl memResvctlBUSY false) memResvctl memResvctlCOMMIT false
    let t := wf t memResvctl memResvctlRESULT r
    let t := if r = 1 then
        wb (wf (wf (wf (wf t memResvctl memResvctlFSTRIPE st) memResvctl memResvctlFBANK b)
          memResvctl memResvctlFPLANE p) memResvctl memResvctlFENTRY e) memSts memStsOVERCOMMIT true
      else t
    ok { t with msys := { t.msys with adm := none } }

/-- The admitted table becomes active (R277). -/
def activate (s : State) : State :=
  if s.msys.adm.isSome then s
  else match s.msys.next with
    | none => s
    | some l =>
      let t := l.foldl (fun t p =>
        wr t (memResvact p.1) (if memResvEN.get p.2 == 1 then memResvAMT.put p.2 (amtActs (memResvAMT.get p.2)) else 0)) s
      { t with msys := { t.msys with next := none } }

/-- The entry that demotion takes next on a stripe's plane: lowest class (7 first), highest port, highest
entry (R280). -/
def demoteNext (l : List Resv) (st plane : Nat) : Option Resv :=
  let key (r : Resv) : Nat := ((portClass r.port).getD 0 * 64 + r.port) * 64 + r.e
  (l.filter (fun r => r.stripe == st && portPlane r.port == plane)).foldl (fun b r =>
    match b with
    | none => some r
    | some x => if key x < key r then some r else b) none

/-- Demote one entry if a bank port of the stripe's plane is over its capacity (R280). -/
def demoteStep (st plane : Nat) (s : State) : State :=
  let l := activeResv s
  if (List.range 4).any (fun b => bankCap s st b plane < stripeLoad l st plane) then
    match demoteNext l st plane with
    | some r => wb (wb s (memResvact r.e) memResvactDEM true) memSts memStsRESVDEMOTED true
    | none => s
  else s

/-- Demote on every stripe until each load fits (R280). -/
def demoteAll (s : State) : State :=
  (List.range 32).foldl (fun t i => forN 64 t (fun u _ => demoteStep (i / 2) (i % 2) u)) s

/-- FAST scrubbing of the shared-memory banks (R274). -/
def scrubFastAll (s : State) : State :=
  forN 64 s (fun t i =>
    let th := rf t memCtrl memCtrlCETHR
    let fast := bankFast t (i / 4) (i % 4)
    if !fast && th != 0 && (t.msys.hot.contains i || th ≤ tget 0 t.msys.passCe i) then
      let u := wb (wb t (memBank (i / 4) (i % 4)) memBankFAST true) memSts memStsFASTSCRUB true
      { u with msys := { u.msys with passCe := tset 0 u.msys.passCe i 0, pos := tset 0 u.msys.pos i 0,
                                     calm := u.msys.calm.erase i } }
    else if fast && (t.msys.calm.contains i || th == 0) then
      let u := wb t (memBank (i / 4) (i % 4)) memBankFAST false
      { u with msys := { u.msys with calm := u.msys.calm.erase i } }
    else t)

/-- The same at a frame boundary, after which no pass has ended. -/
def scrubFast (s : State) : State :=
  let t := scrubFastAll s
  { t with msys := { t.msys with hot := [] } }

/-- Load the credits of the active entries for a frame (R278). -/
def loadCredits (s : State) : State :=
  let l := activeResv s
  let c := l.foldl (fun m r => (List.range 4).foldl (fun m b =>
    tset 0 m (64 * r.port + 4 * r.stripe + b) r.amt) m) ([] : List (Nat × Nat))
  { s with msys := { s.msys with credit := c } }

/-- A frame starts (R274, R277, R278, R280). -/
def frameStart (s : State) : State := loadCredits (demoteAll (activate (scrubFast s)))

/-- FRAME_START (R278): in a FABRIC cycle that is a multiple of 64. -/
def execFrameStart (s : State) : Out := onlyIf (s.running && s.port % 32 == 0) s (frameStart s)

/-- A write of MEM_RETIRE[s]: ones retire their banks (R275). -/
def retireWrite (s : State) (q : Req) (st v : Nat) : State :=
  if holdsType s q 6 then respond (forN 4 s (fun t b => if v.testBit b then retireBank t st b else t)) 0
  else respond s 2

/-- BANK_RETIRE (R275). -/
def execBankRetire (q : Req) (st : Fin 16) (v : BitVec 4) (s : State) : Out :=
  ok (retireWrite s q st.val v.toNat)

/-- PSTATE of a stripe: OFF, RETAIN, clearing or ON (R276, R284). -/
def stripePstate (s : State) (st : Nat) : Nat :=
  if clearingAt s (st * 0x10000) then 2
  else match rf s (pctlPd (28 + st)) pctlPdSTATE with
    | 2 => 3
    | 5 => 1
    | _ => 0

/-- MEM_BANK[s][b] as a read returns it, before its counts clear (R284). -/
def bankRead (s : State) (st b : Nat) : Word :=
  let w := rd s (memBank st b)
  let l := activeResv s
  let w := memBankPSTATE.put w (stripePstate s st)
  let w := memBankCAP0.put (memBankCAP1.put w (bankCap s st b 1)) (bankCap s st b 0)
  memBankLOAD0.put (memBankLOAD1.put w (stripeLoad l st 1)) (stripeLoad l st 0)

end Sys2Proof.Machine
end

