-- ==== Sys2Proof/Machine/SvcBase.lean ====
section
/-! DEFINITION. The supervisor cores' translation, lines, replacement, write-backs and second level (R285 to R288, R291 to R293,
R297, R299, R302 to R304). -/

namespace Sys2Proof.Machine

/-- Caches and TLB of core k. -/
def svcOf (s : State) (k : Nat) : Svc := tget Svc.zero s.svc k

/-- Replace them. -/
def setSvc (s : State) (k : Nat) (v : Svc) : State := { s with svc := tset Svc.zero s.svc k v }

/-- Change them. -/
def onSvc (s : State) (k : Nat) (f : Svc → Svc) : State := setSvc s k (f (svcOf s k))

/-! System registers of R308, by number. -/
def srCtrl : Nat := 0x40
def srSts : Nat := 0x41
def srWayen : Nat := 0x42
def srCmaddr : Nat := 0x43
def srCmop : Nat := 0x44
def srL2cfg : Nat := 0x45
def srCnt0 : Nat := 0x46
def srCnt1 : Nat := 0x47
def srErr : Nat := 0x48
def srTlbhi : Nat := 0x50
def srTlblo : Nat := 0x51
def srTlbcmd : Nat := 0x52
def srTlbctl : Nat := 0x53

/-- A field of a core system register. -/
def srf (s : State) (k n : Nat) (f : Fld) : Nat := f.get ((coreOf s k).sr n)

/-- Set a field of a core system register. -/
def srw (s : State) (k n : Nat) (f : Fld) (v : Nat) : State :=
  let c := coreOf s k
  setCore s k (c.setSr n (f.put (c.sr n) v))

/-- Count in a 12-bit field of SVC_CNT0 or SVC_CNT1 (R308); `i` counts from bit 0 in fields. -/
def svcCount (s : State) (k n i : Nat) : State :=
  let f : Fld := ⟨12 * i + 11, 12 * i⟩
  srw s k n f (satAdd 0xFFF (srf s k n f) 1)

def cntDmiss (s : State) (k : Nat) : State := svcCount s k srCnt0 3
def cntImiss (s : State) (k : Nat) : State := svcCount s k srCnt0 2
def cntL2hit (s : State) (k : Nat) : State := svcCount s k srCnt0 1
def cntDecline (s : State) (k : Nat) : State := svcCount s k srCnt0 0
def cntPfused (s : State) (k : Nat) : State := svcCount s k srCnt1 3
def cntPfdrop (s : State) (k : Nat) : State := svcCount s k srCnt1 2
def cntCe (s : State) (k : Nat) : State := svcCount s k srCnt1 1
def cntUe (s : State) (k : Nat) : State := svcCount s k srCnt1 0

/-! Translation (R302 to R304). -/

/-- Fields of a staged or stored entry (R308). -/
def tlbSize (hi : Word) : Nat := (Fld.mk 11 9).get hi
def tlbV (hi : Word) : Bool := bitOf hi 7
def tlbG (hi : Word) : Bool := bitOf hi 8
def tlbAsid (hi : Word) : Nat := (Fld.mk 5 0).get hi

/-- p of R302: bits below it are the offset in the page. -/
def tlbP (hi : Word) : Nat := 12 + 2 * tlbSize hi

/-- Entry `hi` maps the page of virtual address va in an address space (R302). -/
def tlbHits (hi : Word) (asid va : Nat) : Bool :=
  tlbV hi && va / 2 ^ tlbP hi == hi.toNat / 2 ^ 12 * 2 ^ 12 / 2 ^ tlbP hi && (tlbG hi || tlbAsid hi == asid)

/-- Entry e of core k's TLB. -/
def tlbEntry (s : State) (k e : Nat) : Word × Word := tget (0, 0) (svcOf s k).tlb e

/-- The entry that maps a virtual address, if any (R302). -/
def tlbFind (s : State) (k asid va : Nat) : Option Nat :=
  (List.range 64).find? (fun e => tlbHits (tlbEntry s k e).1 asid va)

/-- A translated access: physical address, whether it goes through L1, and whether it is treated as SE
(R285, R303, R304), with the page's size in address bits (48 where it is not translated). -/
structure Trans where
  pa     : Nat
  cached : Bool
  se     : Bool
  page   : Nat
deriving DecidableEq, Repr

/-- How the target and the attributes C and SE serve an access (R285). -/
def served (pa : Nat) (c se : Bool) (page : Nat) : Trans :=
  match targetOf pa with
  | .shared _ _ | .host => ⟨pa, c && !se, se, page⟩
  | .regs | .persist => ⟨pa, false, true, page⟩
  | _ => ⟨pa, false, se, page⟩

/-- Translate a virtual address for permission bit `perm` (0 R, 1 W, 2 X): a fault code and CAUSEV, or the
translation (R303, R304). -/
def translate (s : State) (k va perm : Nat) : Except (Nat × Word) Trans :=
  let xl := (srf s k srTlbctl ⟨11, 8⟩).testBit (coreOf s k).lvl
  if !xl then
    if 2 ^ 40 ≤ va then .error (0x38, BitVec.ofNat 48 va)
    else
      let sh := va < 0x100000
      .ok (served va sh (!sh) 48)
  else match tlbFind s k (srf s k srTlbctl ⟨5, 0⟩) va with
    | none => .error (0x30, BitVec.ofNat 48 va)
    | some e =>
      let hi := (tlbEntry s k e).1
      let lo := (tlbEntry s k e).2
      if !bitOf lo perm then .error (0x31, BitVec.ofNat 48 va)
      else
        let p := tlbP hi
        let pa := (lo.toNat % 2 ^ 40) / 2 ^ p * 2 ^ p + va % 2 ^ p
        .ok (served pa (bitOf lo 3) (bitOf lo 4) p)

/-! Lines, sets and pseudo-LRU (R286, R287). -/

/-- Key of a way's line in a set. -/
def wayKey (line way : Nat) : Nat := way * 128 + line % 128

/-- An empty way. -/
def Line.none_ : Line := ⟨0, false, [], [], []⟩

/-- The way that holds a line. -/
def findWay (l : List (Nat × Line)) (ways line : Nat) : Option Nat :=
  (List.range ways).find? (fun w =>
    let x := tget Line.none_ l (wayKey line w)
    x.words != [] && x.line == line)

/-- The nodes of the tree on the path to way w, from the root: node number and whether it goes right.
`d`: depth, 2 for the I-cache and 3 for the D-cache. -/
def plruPath : Nat → Nat → Nat → List (Nat × Bool)
  | 0, _, _ => []
  | d + 1, node, w =>
    let right := w.testBit d
    (node, right) :: plruPath d (2 * node + b2n right) w

/-- The tree after way w is used: every node on its path points away from it (R287). -/
def plruTouch (d bits w : Nat) : Nat := (plruPath d 1 w).foldl (fun b n => natBit b n.1 (!n.2)) bits

/-- The way that the tree points to among the enabled ones: a node whose subtree has none takes the other
(R287). `lo`: the lowest way of the node's subtree. -/
def plruVictim (bits : Nat) (en : Nat → Bool) : Nat → Nat → Nat → Nat
  | 0, _, lo => lo
  | d + 1, node, lo =>
    let half := 2 ^ d
    let any (b : Nat) : Bool := (List.range half).any (fun i => en (b + i))
    let right := if bits.testBit node then any (lo + half) else !any lo
    if right then plruVictim bits en d (2 * node + 1) (lo + half) else plruVictim bits en d (2 * node) lo

/-- D-cache and I-cache ways that are powered and enabled (R297). -/
def dWayOn (s : State) (k w : Nat) : Bool :=
  (srf s k srWayen ⟨7, 0⟩).testBit w && (srf s k srWayen ⟨15, 8⟩).testBit w
def iWayOn (s : State) (k w : Nat) : Bool :=
  (srf s k srWayen ⟨19, 16⟩).testBit w && (srf s k srWayen ⟨27, 24⟩).testBit w

/-- The D-cache serves hits while it is in use and a way is powered; it allocates while it is not cleaning and a way is
enabled (R296, R297). -/
def dServes (s : State) (k : Nat) : Bool := (svcOf s k).dUse && srf s k srWayen ⟨15, 8⟩ != 0
def dCleaning (s : State) (k : Nat) : Bool := srf s k srSts ⟨0, 0⟩ == 1
def dAllocates (s : State) (k : Nat) : Bool := dServes s k && !dCleaning s k && (List.range 8).any (dWayOn s k)
def iServes (s : State) (k : Nat) : Bool := (svcOf s k).iUse && (List.range 4).any (iWayOn s k)

/-- Mark a D-cache way used. -/
def dTouch (s : State) (k line w : Nat) : State :=
  let v := svcOf s k
  setSvc s k { v with dpl := tset 0 v.dpl (line % 128) (plruTouch 3 (tget 0 v.dpl (line % 128)) w) }

/-- Mark an I-cache way used. -/
def iTouch (s : State) (k line w : Nat) : State :=
  let v := svcOf s k
  setSvc s k { v with ipl := tset 0 v.ipl (line % 128) (plruTouch 2 (tget 0 v.ipl (line % 128)) w) }

/-- The line of a D-cache way. -/
def dLine (s : State) (k line w : Nat) : Line := tget Line.none_ (svcOf s k).dc (wayKey line w)

/-- Store or clear a D-cache way. -/
def setDLine (s : State) (k line w : Nat) (x : Line) : State :=
  let v := svcOf s k
  setSvc s k { v with dc := tset Line.none_ v.dc (wayKey line w) x }

/-- Store or clear an I-cache way. -/
def setILine (s : State) (k line w : Nat) (x : Line) : State :=
  let v := svcOf s k
  setSvc s k { v with ic := tset Line.none_ v.ic (wayKey line w) x }

/-- Word i of a line. -/
def Line.word (l : Line) (i : Nat) : Word := l.words.getD i 0

/-- Tag of pair i of a line. -/
def Line.tag (l : Line) (i : Nat) : Bool := l.tags.getD i false

/-- A line with a word stored: its pair's tag clears (R210), and check bits and tag copies are renewed (R272). -/
def Line.put (l : Line) (i : Nat) (v : Word) : Line :=
  { l with words := l.words.set i v, tags := l.tags.set (i / 2) false, dirty := true,
           ups := tset Upset.none (tset Upset.none l.ups i .none) (8 + i / 2) .none }

/-- A line with a token pair stored. -/
def Line.putPair (l : Line) (i : Nat) (v w : Word) (t : Bool) : Line :=
  let x := (l.put i v).put (i + 1) w
  { x with tags := x.tags.set (i / 2) t }

/-! Errors in the caches (R299). -/

/-- An upset strikes word i of a line, or the tag copies of its pair: copies that disagree read as 0 (R273). -/
def Line.strike (l : Line) (i : Nat) (u : Upset) : Line :=
  match u with
  | .none => l
  | .tag => { l with tags := l.tags.set (i / 2) false, ups := tset Upset.none l.ups (8 + i / 2) .tag }
  | .multi => { l with ups := tset Upset.none l.ups i .multi }
  | .bit b => { l with ups := tset Upset.none l.ups i (match tget Upset.none l.ups i with
      | .none => .bit b
      | .bit c => if b = c then .none else .multi
      | x => x) }

/-- What a read of word i, or of the pair that starts there, checks: the keys of `Line.ups`. -/
def readKeys (i : Nat) (pair : Bool) : List Nat := (if pair then [i, i + 1] else [i]) ++ [8 + i / 2]

/-- What writing a whole line out checks. -/
def lineKeys : List Nat := List.range 12

/-- An uncorrectable error is among the keys. -/
def Line.bad (l : Line) (ks : List Nat) : Bool := ks.any (fun i => tget Upset.none l.ups i == .multi)

/-- The keys with an error that is corrected, or tag copies that disagree. -/
def Line.fixes (l : Line) (ks : List Nat) : List Nat := ks.filter (fun i => match tget Upset.none l.ups i with
  | .bit _ | .tag => true
  | _ => false)

/-- The line with those errors corrected. -/
def Line.fixed (l : Line) (ks : List Nat) : Line :=
  { l with ups := (l.fixes ks).foldl (fun u i => tset Upset.none u i .none) l.ups }

/-- The corrected errors among the keys are counted in CECNT. -/
def countFixes (s : State) (k : Nat) (l : Line) (ks : List Nat) : State := (l.fixes ks).foldl (fun t _ => cntCe t k) s

/-- A line leaves its cache: the line as it is written on, or none where an uncorrectable error loses its data, which is
counted in UECNT. -/
def lineOut (s : State) (k : Nat) (x : Line) : Option Line × State :=
  if x.bad lineKeys then (none, cntUe s k) else (some (x.fixed lineKeys), countFixes s k x lineKeys)

/-! Write-backs (R288, R299). -/

/-- A write-back failed: WBERR, its address, and an asynchronous BUS_ERROR (R299). -/
def wbError (s : State) (k pa : Nat) : State :=
  raiseAsync (srw (srw s k srSts ⟨8, 8⟩ 1) k srErr ⟨39, 0⟩ pa) k 0x38 (BitVec.ofNat 48 pa)

/-- Words go to the host window as one burst, which is kept until it is answered (R288, R289). -/
def hostWrite (s : State) (k a : Nat) (ws : List Word) (held : Option Line) (maint : Bool) : State :=
  let v := svcOf s k
  let t := setSvc s k { v with wbq := v.wbq ++ [⟨v.wbn, a / 8, held, maint⟩], wbn := v.wbn + 1 }
  hmpReq t (.writeBack k v.wbn) true a ws.length ws false false

/-- The four pairs of a line are written at address a: the address that failed first, if any. -/
def putPairs (s : State) (k a : Nat) (x : Line) : Option Nat × State :=
  (List.range 4).foldl (fun (acc : Option Nat × State) i =>
    let r := arrayWritePair acc.2 (a + 2 * i) (corePort k) ⟨x.word (2 * i), x.word (2 * i + 1), x.tag i⟩
    (if acc.1.isNone && r.1 != 0 then some (a + 2 * i) else acc.1, r.2)) (none, s)

/-- Write a line to its home: shared memory with its tags, or the host window (R288, R299). `maint`: a maintenance operation
asks for it. -/
def writeHome (s : State) (k : Nat) (x : Line) (maint : Bool := false) : State :=
  match lineOut s k x with
  | (none, s) => s
  | (some x, s) =>
    let a := 8 * x.line
    match targetOf a with
    | .host => hostWrite s k a x.words (some { x with dirty := !maint }) maint
    | _ => match putPairs s k a x with
      | (some e, t) => wbError t k e
      | (none, t) => t

/-! The L2 region (R291 to R293). -/

/-- Stripes, first word, data word and tag word of an entry of the region in use. -/
def l2Stripes (s : State) (k : Nat) : Nat := (svcOf s k).l2reg.2
def l2Base (s : State) (k : Nat) : Nat := (svcOf s k).l2reg.1
def l2Entry (s : State) (k line : Nat) : Nat := line % (7168 * l2Stripes s k)
def l2Data (s : State) (k i : Nat) : Nat := l2Base s k + 8 * i
def l2Tag (s : State) (k i : Nat) : Nat := l2Base s k + 57344 * l2Stripes s k + i

/-- A tag word (R291). -/
def l2TagWord (v d : Bool) (line : Nat) : Word :=
  BitVec.ofNat 48 (b2n v * 2 ^ 47 + b2n d * 2 ^ 46 + line % 2 ^ 37)

/-- The region has been initialised and has not stopped (R291, R296). -/
def l2Live (s : State) (k : Nat) : Bool := (svcOf s k).l2on && (svcOf s k).l2left == 0

/-- L2 serves misses: while the D-cache does not behave as out of use (R296, R297). -/
def l2Serves (s : State) (k : Nat) : Bool := l2Live s k && dServes s k

/-- L2 takes offers: while neither it nor the D-cache is being cleaned (R296). -/
def l2Takes (s : State) (k : Nat) : Bool := l2Serves s k && !dCleaning s k && srf s k srSts ⟨6, 6⟩ == 0

/-- The tag word of entry i as the L2 logic reads it: with no data, no valid entry. -/
def l2Look (s : State) (k i : Nat) : Word × State :=
  let r := arrayOwn s (l2Tag s k i) (corePort k)
  (if r.1 = 0 then r.2.1 else 0, r.2.2)

/-- A tag word holds a line. -/
def tagHolds (t : Word) (line : Nat) : Bool := bitOf t 47 && t.toNat % 2 ^ 37 == line

/-- A tag word holds a dirty line. -/
def tagDirty (t : Word) : Bool := bitOf t 47 && bitOf t 46

/-- Eight words are read from a in wrapped order from word `i`, by the L2 logic (`own`) or as every reader sees them: the code
of each, and the line (R286). -/
def readLine (s : State) (k a i line : Nat) (own dirty : Bool) : List Nat × Line × State :=
  let r := (List.range 8).foldl (fun (acc : List (Nat × (Nat × Word)) × State) j =>
    let n := (i + j) % 8
    let q := if own then arrayOwn acc.2 (a + n) (corePort k) true (n % 2 == 0)
      else arrayRead acc.2 (a + n) (corePort k) true (n % 2 == 0)
    (acc.1 ++ [(n, (q.1, q.2.1))], q.2.2)) ([], s)
  let at' (n : Nat) : Nat × Word := tget (0, 0) r.1 n
  ((List.range 8).map (fun n => (at' n).1),
    ⟨line, dirty, (List.range 8).map (fun n => (at' n).2), (List.range 4).map (fun n => tagRd r.2 (a + 2 * n)), []⟩, r.2)

/-- Write a tag word; a failure is a failed write-back (R299). -/
def l2TagPut (s : State) (k i : Nat) (w : Word) : State :=
  let r := arrayWrite s (l2Tag s k i) (corePort k) w
  if r.1 = 0 then r.2 else wbError r.2 k (l2Tag s k i)

/-- Write a line into its entry, the tag word last (R293). -/
def l2Put (s : State) (k : Nat) (x : Line) (d : Bool) : State :=
  let i := l2Entry s k x.line
  match putPairs s k (l2Data s k i) x with
  | (some e, t) => l2TagPut (wbError t k e) k i (l2TagWord false d x.line)
  | (none, t) => l2TagPut t k i (l2TagWord true d x.line)

/-- The line of entry i, whose tag word is t, goes home; one that cannot be read is a failed write-back (R293, R299). -/
def l2Home (s : State) (k i : Nat) (t : Word) (maint : Bool := false) : State :=
  let r := readLine s k (l2Data s k i) 0 (t.toNat % 2 ^ 37) true true
  match r.1.findIdx? (· != 0) with
  | some j => wbError r.2.2 k (l2Data s k i + j)
  | none => writeHome r.2.2 k r.2.1 maint

/-- An offered line meets its entry: written, the dirty line there going home first, or declined and counted (R293). -/
def l2Accept (s : State) (k : Nat) (x : Line) : State :=
  let i := l2Entry s k x.line
  let (w, t) := l2Look s k i
  let other := tagDirty w && !tagHolds w x.line
  if x.dirty then l2Put (if other then l2Home t k i w else t) k x true
  else if other then cntDecline t k
  else l2Put t k x false

/-- The oldest offer meets its entry (R293). -/
def offerStep (s : State) (k : Nat) : State :=
  match (svcOf s k).offers with
  | [] => s
  | x :: r => l2Accept (onSvc s k (fun v => { v with offers := r })) k x

/-- Every queued offer ends without L2: dirty lines go home (R296). -/
def offersHome (s : State) (k : Nat) : State :=
  (svcOf s k).offers.foldl (fun t x => if x.dirty then writeHome t k x else t) (onSvc s k (fun v => { v with offers := [] }))

/-- The line's eviction is an offer to L2. -/
def offered (s : State) (k : Nat) (x : Line) : Bool := targetOf (8 * x.line) == .host && l2Takes s k

/-- The line can be evicted now: a dirty one waits for a place in the offer queue of four (R293). -/
def mayEvict (s : State) (k : Nat) (x : Line) : Bool :=
  !(x.words != [] && x.dirty && offered s k x && 4 ≤ (svcOf s k).offers.length)

/-- A line leaves a cache: offered to L2, written home when dirty, or dropped (R288, R293, R299). A clean one that finds the
offer queue full is declined. -/
def evictLine (s : State) (k : Nat) (x : Line) : State :=
  if x.words == [] then s
  else if offered s k x then
    match lineOut s k x with
    | (none, t) => t
    | (some y, t) =>
      if 4 ≤ (svcOf t k).offers.length && !y.dirty then cntDecline t k
      else onSvc t k (fun v => { v with offers := v.offers ++ [y] })
  else if x.dirty then writeHome s k x
  else s

/-! Allocation (R287). -/

/-- The D-cache way for a new line: the lowest invalid enabled way, else the tree's. -/
def dVictim (s : State) (k line : Nat) : Nat :=
  match (List.range 8).find? (fun w => dWayOn s k w && (dLine s k line w).words == []) with
  | some w => w
  | none => plruVictim (tget 0 (svcOf s k).dpl (line % 128)) (dWayOn s k) 3 1 0

/-- The I-cache way for a new line. -/
def iVictim (s : State) (k line : Nat) : Nat :=
  let free (w : Nat) : Bool := iWayOn s k w && (tget Line.none_ (svcOf s k).ic (wayKey line w)).words == []
  match (List.range 4).find? free with
  | some w => w
  | none => plruVictim (tget 0 (svcOf s k).ipl (line % 128)) (iWayOn s k) 2 1 0

/-- The D-cache can allocate the line now: its victim can be evicted (R293). -/
def dRoom (s : State) (k line : Nat) : Bool := mayEvict s k (dLine s k line (dVictim s k line))

/-- Allocate a line in the D-cache, evicting a victim. -/
def dAlloc (s : State) (k : Nat) (x : Line) : State :=
  let w := dVictim s k x.line
  let t := evictLine (setDLine s k x.line w x) k (dLine s k x.line w)
  dTouch t k x.line w

/-- Allocate a line in the I-cache; a clean host-window victim may go to L2 (R288, R293), one with a parity error does not
(R299). -/
def iAlloc (s : State) (k : Nat) (x : Line) : State :=
  let w := iVictim s k x.line
  let old := tget Line.none_ (svcOf s k).ic (wayKey x.line w)
  let t := setILine s k x.line w x
  iTouch (if old.ups.isEmpty then evictLine t k old else cntCe t k) k x.line w

end Sys2Proof.Machine
end

