-- ==== Sys2Proof/Machine/SvcFill.lean ====
section
/-! DEFINITION. The supervisor cores' accesses through their caches: hits, misses, fills, prefetches and the write-combining
buffer (R286 to R290, R292, R299 to R301, R307). -/

namespace Sys2Proof.Machine

/-! What stands before an access (R210, R288). -/

/-- An uncached store of core k to a line has not acted yet (R210). -/
def storeAhead (s : State) (k line : Nat) : Bool :=
  let c := coreOf s k
  c.reqs.any (fun r => r.write && r.addr / 8 == line) || c.posted.any (fun p => p.2.isNone && p.1 / 8 == line)

/-- The line waits in the offer queue, or its write-back has not been answered (R288). -/
def leaving (s : State) (k line : Nat) : Bool :=
  (svcOf s k).offers.any (fun x => x.line == line) || (svcOf s k).wbq.any (fun e => e.line == line)

/-- A fill for a line is outstanding. -/
def fillOf (s : State) (k line : Nat) : Option Fill := (svcOf s k).fills.find? (fun f => f.line == line)

/-- The line is held by the write-combining buffer. -/
def inWcb (s : State) (k line : Nat) : Bool := (svcOf s k).wcb.any (fun b => b.line == line)

/-- The line is held somewhere or on its way. -/
def linePresent (s : State) (k line : Nat) : Bool :=
  let v := svcOf s k
  (findWay v.dc 8 line).isSome || (findWay v.ic 4 line).isSome || v.side.any (fun x => x.line == line)
    || (fillOf s k line).isSome || leaving s k line || inWcb s k line

/-- A line that waits in the offer queue, or whose write-back is outstanding, is taken back as it was (R288). The write-back
goes on. -/
def takeBack (s : State) (k line : Nat) : Option (Line × State) :=
  let v := svcOf s k
  match v.offers.find? (fun x => x.line == line) with
  | some x => some (x, setSvc s k { v with offers := v.offers.erase x })
  | none => match v.wbq.find? (fun e => e.line == line && e.held.isSome) with
    | some e => some (e.held.getD Line.none_,
        setSvc s k { v with wbq := v.wbq.map (fun x => if x.line == line then { x with held := none } else x) })
    | none => none

/-- Take a line out of the side buffer. -/
def takeSide (s : State) (k line : Nat) : Option (Line × State) :=
  match (svcOf s k).side.find? (fun x => x.line == line) with
  | none => none
  | some x => some (x, cntPfused (onSvc s k (fun v => { v with side := v.side.erase x })) k)

/-! Fills and prefetches (R286, R290, R292). -/

/-- Fewest cycles of a load that a fill serves (R300). -/
def missCycles : FillFrom → Nat
  | .shared => 3 + 8
  | .l2 _ _ => 3 + 2 * 8
  | .host => 3 + 8 + 14

/-- Where a host-window line comes from: an L2 hit gives its words and D bit, and its entry is emptied (R292). -/
def hostFrom (s : State) (k line : Nat) (word : Nat) : FillFrom × State :=
  if !l2Serves s k then (.host, s)
  else
    let i := l2Entry s k line
    let (w, t) := l2Look s k i
    if tagHolds w line then
      let r := readLine t k (l2Data s k i) word line true (tagDirty w)
      (.l2 r.1 r.2.1, cntL2hit (l2TagPut r.2.2 k i (l2TagWord false (tagDirty w) line)) k)
    else (.host, t)

/-- Start a line fill: from shared memory, from L2, or from the host window, one burst in wrapped order from the demanded word
(R286, R292). -/
def startFill (s : State) (k : Nat) (f : Fill) : State :=
  let host := targetOf (8 * f.line) == .host
  let (src, t) := if host then hostFrom s k f.line f.word else (.shared, s)
  let t := onSvc t k (fun v => { v with fills := v.fills ++ [{ f with src := src }] })
  if src == .host then hmpReq t (.fill k f.line) false (8 * f.line + f.word) 8 [] false false else t

/-- A prefetch of a line for a cache that nothing forbids any more (R290). -/
def prefetchStart (s : State) (k : Nat) (inst : Bool) (line : Nat) : State :=
  if linePresent s k line then s
  else startFill s k ⟨if inst then .preI else .preD, .shared, line, 0, none, [], [], false⟩

/-- A prefetch must wait: four fills are outstanding (R286), or an uncached store to its line is to come first (R210). -/
def prefetchHeld (s : State) (k line : Nat) : Bool := 4 ≤ (svcOf s k).fills.length || storeAhead s k line

/-- Prefetch one line for a cache, unless R290 forbids it, or it must wait. -/
def prefetchOne (s : State) (k : Nat) (inst : Bool) (tr : Trans) (line : Nat) : State :=
  if linePresent s k line || 8 * line / 2 ^ tr.page != tr.pa / 2 ^ tr.page
      || !(served (8 * line) true false tr.page).cached then s
  else if prefetchHeld s k line then
    onSvc s k (fun v => if v.pfq.any (fun p => p.2 == line) then v else { v with pfq := v.pfq ++ [(inst, line)] })
  else prefetchStart s k inst line

/-- The oldest waiting prefetch is issued, unless it must wait longer. -/
def prefetchNext (s : State) (k : Nat) : State :=
  match (svcOf s k).pfq with
  | [] => s
  | p :: r => if prefetchHeld s k p.2 then s
    else prefetchStart (onSvc s k (fun v => { v with pfq := r })) k p.1 p.2

/-- The prefetches of a demand miss to line L that follows one to L - 1 (R290). -/
def prefetch (s : State) (k : Nat) (inst : Bool) (tr : Trans) : State :=
  let line := tr.pa / 8
  let v := svcOf s k
  let last := if inst then v.lastI else v.lastD
  let t := setSvc s k (if inst then { v with lastI := some line } else { v with lastD := some line })
  if srf s k srCtrl ⟨3, 3⟩ == 1 && last == some (line - 1) && line != 0 then
    forN (srf s k srCtrl ⟨5, 4⟩ + 1) t (fun t i => prefetchOne t k inst tr (line + 1 + i))
  else t

/-! The write-combining buffer (R289). -/

/-- The words of a write-combining buffer as runs of consecutive words (R289). -/
def wcRuns (l : List (Nat × Word)) : List (Nat × List Word) :=
  ((List.range 8).foldl (fun (acc : List (Nat × List Word) × Bool) i =>
    match l.find? (fun p => p.1 == i) with
    | none => (acc.1, false)
    | some p =>
      if acc.2 then
        match acc.1.reverse with
        | r :: rest => ((((r.1, r.2 ++ [p.2]) :: rest)).reverse, true)
        | [] => ([(i, [p.2])], true)
      else (acc.1 ++ [(i, [p.2])], true)) ([], false)).1

/-- Emit the write-combining buffer: each run of consecutive written words is one burst (R289). -/
def wcEmit (s : State) (k : Nat) : State :=
  match (svcOf s k).wcb with
  | none => s
  | some b =>
    let t := onSvc s k (fun v => { v with wcb := none })
    let a := 8 * b.line
    if targetOf a == .host then
      (wcRuns b.words).foldl (fun t r => hostWrite t k (a + r.1) r.2 none true) t
    else
      let t := b.words.foldl (fun t p =>
        let r := arrayWrite t (a + p.1) (corePort k) p.2
        if r.1 = 0 then r.2 else wbError r.2 k (a + p.1)) t
      b.tags.foldl (fun t p =>
        if p.2 && (targetOf a).tagged && arrayCode t (a + 2 * p.1) == 0 then tagWr t (a + 2 * p.1) true else t) t

/-- A store to another line emits the buffer (R289). -/
def wcOther (s : State) (k line : Nat) : State := if inWcb s k line then s else wcEmit s k

/-- A load to the buffered line, or an uncached access to it, emits the buffer first (R210, R289). -/
def wcSame (s : State) (k line : Nat) : State := if inWcb s k line then wcEmit s k else s

/-- STREAM ends (R289). -/
def streamEnd (s : State) (k : Nat) : State :=
  srw (onSvc (wcEmit s k) k (fun v => { v with stream := false })) k srSts ⟨4, 4⟩ 0

/-- A load miss ends STREAM (R289). -/
def missEnds (s : State) (k : Nat) : State := if (svcOf s k).stream then streamEnd s k else s

/-! Loads (R286 to R292, R299, R300). -/

/-- What a demand access of a supervisor finds: its word, with its cost; a fill, with the number of the read that waits for it and
the fewest cycles; nothing yet, the access being made again; or an error. -/
inductive Found where
  | word (w hi : Word) (tag : Bool) (s : State) (cost : Nat)
  | pend (s : State) (id min : Nat)
  | full (s : State)
  | fault (s : State) (code : Nat) (v : Word)

/-- The word, and the pair that starts there when i is even, of a line. -/
def foundIn (x : Line) (i : Nat) (s : State) (cost : Nat) : Found := .word (x.word i) (x.word (i + 1)) (x.tag (i / 2)) s cost

/-- A store that waits in a fill buffer gives its word to a load (R288). -/
def fillWord (f : Fill) (i : Nat) (pair : Bool) : Option Word :=
  if pair then none
  else (f.stores.reverse.find? (fun p => p.1 == i)).map (fun p => p.2)

/-- A new number for a read of core k. -/
def newRead (s : State) (k : Nat) : Nat × State :=
  let c := coreOf s k
  (c.rid, setCore s k { c with rid := c.rid + 1 })

/-- A demand read that misses joins an outstanding fill of its line; it is a miss as any other (R290, R308). -/
def wantFill (s : State) (k : Nat) (f : Fill) (inst pair : Bool) (tr : Trans) : Found :=
  let (id, t) := newRead s k
  let t := onSvc t k (fun v => { v with fills := v.fills.map (fun x =>
    if x == f then { x with use := if inst then .fetch else .load, want := some (id, tr.pa % 8), pair := pair } else x) })
  .pend (prefetch (if inst then cntImiss t k else cntDmiss t k) k inst tr) id (missCycles f.src)

/-- A demand read starts a fill. -/
def missFill (s : State) (k : Nat) (inst pair : Bool) (tr : Trans) : Found :=
  let line := tr.pa / 8
  let (id, t) := newRead s k
  let t := startFill t k ⟨if inst then .fetch else .load, .shared, line, tr.pa % 8, some (id, tr.pa % 8), [], [], pair⟩
  let n := ((fillOf t k line).map (fun f => missCycles f.src)).getD 1
  .pend (prefetch t k inst tr) id n

/-- A load that the D-cache does not hold (R286, R288 to R290). -/
def loadMiss (s : State) (k : Nat) (tr : Trans) (pair : Bool) : Found :=
  let line := tr.pa / 8
  let i := tr.pa % 8
  match fillOf s k line with
  | some f => match fillWord f i pair with
    | some w => .word w 0 false s 1
    | none => if f.use == .drop then .full s else wantFill (missEnds s k) k f false pair tr
  | none =>
    if dAllocates s k && !dRoom s k line then .full s
    else match takeBack s k line with
      | some (x, t) => if dAllocates s k then foundIn x i (dAlloc t k x) 1 else foundIn x i s 1
      | none => match (if dAllocates s k then takeSide s k line else none) with
        | some (x, t) => foundIn x i (dAlloc t k x) 2
        | none =>
          if 4 ≤ (svcOf s k).fills.length || leaving s k line || storeAhead s k line then .full s
          else missFill (cntDmiss (missEnds s k) k) k false pair tr

/-- A cached load (R286 to R292, R299). -/
def cachedLoad (s : State) (k : Nat) (tr : Trans) (pair : Bool) : Found :=
  let line := tr.pa / 8
  let i := tr.pa % 8
  let s := wcSame s k line
  match findWay (svcOf s k).dc 8 line with
  | none => loadMiss s k tr pair
  | some w =>
    let x := dLine s k line w
    let ks := readKeys i pair
    if x.bad ks then
      let t := cntUe (setDLine s k line w Line.none_) k
      if x.dirty then .fault t 0x39 (BitVec.ofNat 48 tr.pa) else loadMiss t k tr pair
    else
      let t := if (x.fixes ks).isEmpty then s else setDLine (countFixes s k x ks) k line w (x.fixed ks)
      foundIn x i (dTouch t k line w) 1

/-! Stores (R288, R289). -/

/-- Write a store into a way's line. -/
def storeHit (s : State) (k line w i : Nat) (v : Word) (pair : Option (Word × Bool)) : State :=
  let x := dLine s k line w
  let y := match pair with
    | some p => x.putPair i v p.1 p.2
    | none => x.put i v
  dTouch (setDLine s k line w y) k line w

/-- A store is done at a cost of 1. -/
def stored (s : State) : Found := .word 0 0 false s 1

/-- The words and pair tags of a store. -/
def storeWords (i : Nat) (v : Word) (pair : Option (Word × Bool)) : List (Nat × Word) × List (Nat × Bool) :=
  match pair with
  | some p => ([(i, v), (i + 1, p.1)], [(i / 2, p.2)])
  | none => ([(i, v)], [(i / 2, false)])

/-- Add a store to an outstanding fill (R288): one that no read waits for becomes the store's. -/
def fillStore (s : State) (k : Nat) (f : Fill) (i : Nat) (v : Word) (pair : Option (Word × Bool)) : State :=
  let r := storeWords i v pair
  onSvc s k (fun x => { x with fills := x.fills.map (fun g =>
    if g == f then { g with use := if g.use == .load then .load else .store, stores := g.stores ++ r.1, tags := g.tags ++ r.2 }
    else g) })

/-- Gather a store in the write-combining buffer; a full line is emitted (R289). -/
def wcGather (s : State) (k line i : Nat) (v : Word) (pair : Option (Word × Bool)) : State :=
  let r := storeWords i v pair
  let s := wcOther s k line
  let x := svcOf s k
  let b : WcBuf := (x.wcb).getD ⟨line, [], []⟩
  let ws := b.words.filter (fun p => !r.1.any (fun q => q.1 == p.1)) ++ r.1
  let ts := b.tags.filter (fun p => !r.2.any (fun q => q.1 == p.1)) ++ r.2
  let t := setSvc s k { x with wcb := some ⟨line, ws, ts⟩ }
  if 8 ≤ ws.length then wcEmit t k else t

/-- The streaming-store detector sees a store miss (R289). -/
def streamCount (s : State) (k line : Nat) : State :=
  let v := svcOf s k
  let n := if line == v.sline + 1 && v.scnt != 0 then v.scnt + 1 else 1
  let th := srf s k srCtrl ⟨11, 8⟩
  let go := th != 0 && th ≤ n
  let t := setSvc s k { v with scnt := n, sline := line, stream := go || v.stream }
  if go then srw t k srSts ⟨4, 4⟩ 1 else t

/-- A store miss to a line leaves STREAM as it is: the line is the buffered one or that of the latest store miss (R289). -/
def sameStream (s : State) (k line : Nat) : Bool := inWcb s k line || (line == (svcOf s k).sline && (svcOf s k).scnt != 0)

/-- The detector and STREAM at a store miss (R289): one that is neither to the buffered line nor to the next ends STREAM, and counts
anew. -/
def streamMiss (s : State) (k line : Nat) : State :=
  let v := svcOf s k
  if sameStream s k line then s
  else if v.stream && line != v.sline + 1 then streamCount (onSvc (streamEnd s k) k (fun x => { x with scnt := 0 })) k line
  else streamCount s k line

/-- A store miss: gathered in STREAM, else it waits for a line fill (R288, R289). -/
def storeMiss (s : State) (k : Nat) (tr : Trans) (v : Word) (pair : Option (Word × Bool)) : Found :=
  let line := tr.pa / 8
  let i := tr.pa % 8
  let x := svcOf s k
  let t := streamMiss s k line
  if (svcOf t k).stream then stored (wcGather (cntDmiss t k) k line i v pair)
  else if 4 ≤ x.fills.length || leaving s k line then .full s
  else
    let r := storeWords i v pair
    stored (prefetch (startFill (cntDmiss t k) k ⟨.store, .shared, line, i, none, r.1, r.2, false⟩) k false tr)

/-- A store puts a line that it takes back, or promotes, into the D-cache and writes it there. -/
def storeInto (s : State) (k : Nat) (tr : Trans) (v : Word) (pair : Option (Word × Bool)) (x : Line) : Found :=
  let t := dAlloc s k x
  match findWay (svcOf t k).dc 8 x.line with
  | some w => stored (storeHit t k x.line w (tr.pa % 8) v pair)
  | none => .full s

/-- A cached store (R288 to R290); a pair stores a token. A store to a line that is being filled misses as well. While the cache allocates
nothing, one to a line of the side buffer frees its entry and goes home. -/
def cachedStore (s : State) (k : Nat) (tr : Trans) (v : Word) (pair : Option (Word × Bool)) : Found :=
  let line := tr.pa / 8
  let i := tr.pa % 8
  let s := wcOther s k line
  match findWay (svcOf s k).dc 8 line with
  | some w => stored (storeHit s k line w i v pair)
  | none =>
    match fillOf s k line with
    | some f =>
      if f.use == .drop then .full s
      else stored (prefetch (fillStore (streamMiss (cntDmiss s k) k line) k f i v pair) k false tr)
    | none =>
      if storeAhead s k line || (dAllocates s k && !dRoom s k line) then .full s
      else if !dAllocates s k then
        (if (svcOf s k).offers.any (fun x => x.line == line) then .full s
         else storeMiss (onSvc s k (fun x => { x with side := x.side.filter (fun l => l.line != line) })) k tr v pair)
      else match takeBack s k line with
        | some (x, t) => storeInto t k tr v pair x
        | none => match takeSide s k line with
          | some (x, t) => storeInto t k tr v pair x
          | none => storeMiss s k tr v pair

/-! Instruction fetch through the I-cache (R286 to R290, R299, R300). -/

/-- The word at a physical address is fetched through the I-cache: at hand, with what it adds to the cost; on its way; not yet to be
had. A parity error makes a hit a miss (R299). -/
def iFetch (s : State) (k : Nat) (tr : Trans) : Found :=
  let line := tr.pa / 8
  let i := tr.pa % 8
  let hit := findWay (svcOf s k).ic 4 line
  let bad := match hit with
    | some w => (tget Line.none_ (svcOf s k).ic (wayKey line w)).ups.any (fun p => p.1 == i)
    | none => false
  match hit, bad with
  | some w, false => .word 0 0 false (iTouch s k line w) 0
  | _, _ =>
    let s := match hit with
      | some w => cntCe (setILine s k line w Line.none_) k
      | none => s
    match fillOf s k line with
    | some f => if f.want.isNone && f.stores.isEmpty && f.use != .drop then wantFill s k f true false tr else .full s
    | none =>
      if dAllocates s k && !dRoom s k line then .full s
      else match (if dAllocates s k then takeBack s k line else none) with
        | some (x, t) => .word 0 0 false (dAlloc t k x) 0
        | none => match takeSide s k line with
          | some (x, t) => .word 0 0 false (iAlloc t k x) 1
          | none =>
            if 4 ≤ (svcOf s k).fills.length || leaving s k line || storeAhead s k line then .full s
            else missFill (cntImiss s k) k true false tr

/-! Completion of a fill (R286, R288, R290, R293, R299). -/

/-- A line with the stores of its fill merged (R288). -/
def mergeFill (f : Fill) (x : Line) : Line :=
  let y := f.stores.foldl (fun x p => x.put p.1 p.2) x
  f.tags.foldl (fun x p => { x with tags := x.tags.set p.1 p.2 }) y

/-- The words of a fill: the code of each and the line. `none`: they have not come; a stripe that is being cleared stalls it
(R276), and beats of the host come in wrapped order (R286). -/
def fillData (s : State) (k : Nat) (f : Fill) : Option (List Nat × Line × State) :=
  match f.src with
  | .shared => if clearingAt s (8 * f.line) then none else some (readLine s k (8 * f.line) f.word f.line false false)
  | .l2 codes x => some (codes, x, s)
  | .host =>
    match hmpTake s (fun u => u == .fill k f.line) with
    | none => none
    | some (x, t) =>
      let at' (n : Nat) : Nat × Word := x.beats.getD ((n + 8 - f.word) % 8) (0, 0)
      some ((List.range 8).map (fun n => (at' n).1),
        ⟨f.line, false, (List.range 8).map (fun n => (at' n).2), List.replicate 4 false, []⟩, t)

/-- The read that waits for the fill gets its word; an error reaches it only on its own beat, or the beats of its pair (R240, R299). -/
def fillToRead (s : State) (k : Nat) (f : Fill) (codes : List Nat) (x : Line) : State :=
  match f.want with
  | some (id, i) =>
    let c := coreOf s k
    let code := if codes.getD i 0 = 0 && f.pair then codes.getD (i + 1) 0 else codes.getD i 0
    setCore s k { c with arrived := c.arrived ++ [⟨id, code, x.word i, x.word (i + 1), x.tag (i / 2)⟩] }
  | none => s

/-- Put a prefetched line in the side buffer of 16 lines, replacing the oldest (R290): it is clean. -/
def sidePut (s : State) (k : Nat) (x : Line) : State :=
  onSvc (if x.dirty then writeHome s k x else s) k (fun v =>
    { v with side := (if 16 ≤ v.side.length then v.side.drop 1 else v.side) ++ [{ x with dirty := false }] })

/-- A line fill completes (R286, R288, R290, R293, R299). -/
def fillComplete (s : State) (k : Nat) (f : Fill) (codes : List Nat) (x : Line) : State :=
  let s := onSvc s k (fun v => { v with fills := v.fills.erase f })
  let bad := codes.any (· != 0)
  let y := mergeFill f x
  let s := fillToRead s k f codes y
  match f.use with
  | .preI | .preD => if bad then cntPfdrop s k else sidePut s k x
  | .drop => if bad then cntPfdrop s k else if x.dirty then writeHome s k x else s
  | .fetch =>
    if bad then s
    else
      let t := if x.dirty then writeHome s k x else s
      if iServes t k then iAlloc t k { x with dirty := false } else t
  | _ =>
    if bad then
      match f.stores with
      | [] => s
      | p :: _ => raiseAsync s k 0x38 (BitVec.ofNat 48 (8 * f.line + p.1))
    else if dAllocates s k then dAlloc s k y
    else if y.dirty then writeHome s k y
    else s

/-- The line of a fill has room where it goes (R293). -/
def fillRoom (s : State) (k : Nat) (f : Fill) : Bool :=
  match f.use with
  | .load | .store => !dAllocates s k || dRoom s k f.line
  | _ => true

/-- What has struck a cache's words is recorded where the way holds a line (R299). -/
def cacheStrike (s : State) (k : Nat) (u : CacheUpset) : State :=
  let key := (if u.inst then u.way.val % 4 else u.way.val) * 128 + u.set.val
  let hit (l : List (Nat × Line)) : List (Nat × Line) :=
    let x := tget Line.none_ l key
    if x.words == [] then l else tset Line.none_ l key (x.strike u.word.val u.up)
  onSvc s k (fun v => if u.inst then { v with ic := hit v.ic } else { v with dc := hit v.dc })

/-- LINE_FILL (R286): the oldest fill of a core whose words have come, and whose line has room, completes; a prefetch that waited may
follow it. What has struck the core's caches before is recorded first (R299). -/
def execLineFill (k : FillAt) (s : State) : Out :=
  let c := 8 + k.core.val
  let s := k.up.foldl (fun t u => cacheStrike t c u) s
  let r := (svcOf s c).fills.foldl (fun (acc : Bool × State) f =>
    if acc.1 || !fillRoom acc.2 c f then acc
    else match fillData acc.2 c f with
      | none => acc
      | some (codes, x, t) => (true, fillComplete t c f codes x)) (false, s)
  ok (if r.1 then prefetchNext r.2 c else r.2)

/-- WC_BUFFER_TIMEOUT (R289): 64 CORE cycles have passed with no store. -/
def execWcBufferTimeout (k : Fin 2) (s : State) : Out :=
  onlyIf ((svcOf s (8 + k.val)).wcb.isSome) s (wcEmit s (8 + k.val))

/-! Speculation (R307). -/

/-- The checks of R208 on a load through token register t at offset o: the fault, or the address. -/
def tokenCheckAt (s : State) (k t : Nat) (o : Word) : Except (Nat × Word) Nat :=
  let T := (coreOf s k).cur.tok t
  if T.tag && !T.sealed && T.mayMem 0 && 0 ≤ o.toInt && o.toInt + 1 ≤ (T.len : Int) then .ok ((T.base + o.toInt.toNat) % 2 ^ 48)
  else .error (0, 0)

/-- A free choice, and a free virtual address. -/
def freeAccess (s : State) : Bool × Nat × State :=
  let b := freshBit s
  let a := freshWord b.2
  (b.1, a.1.toNat, a.2)

/-- A speculative load beyond a transfer that has not resolved (R307): through a free token register at a free offset, where it would
fault in R208 or in its translation, and where it is not cacheable, it does nothing; else it uses its way, or a free fill brings its
line. -/
def specLoad (s : State) (k : Nat) : State :=
  let (go, r, t) := freeAccess s
  let (o, t) := freshWord t
  match (if go then (tokenCheckAt t k (r % 16) o).bind (fun a => translate t k a 0) else .error (0, 0)) with
  | .error _ => t
  | .ok tr =>
    let line := tr.pa / 8
    if !tr.cached || !dServes t k then t
    else match findWay (svcOf t k).dc 8 line with
      | some w => dTouch t k line w
      | none =>
        if linePresent t k line || 4 ≤ (svcOf t k).fills.length || storeAhead t k line || clearingAt t (8 * line) then t
        else startFill (cntDmiss t k) k ⟨.load, .shared, line, tr.pa % 8, none, [], [], false⟩

/-- A speculative fetch past a predicted transfer (R307). -/
def specFetch (s : State) (k : Nat) : State :=
  let (go, va, t) := freeAccess s
  match (if go && (coreOf t k).fetchOk va then translate t k va 2 else .error (0, 0)) with
  | .error _ => t
  | .ok tr =>
    let line := tr.pa / 8
    if !tr.cached || !iServes t k then t
    else match findWay (svcOf t k).ic 4 line with
      | some w => iTouch t k line w
      | none =>
        if linePresent t k line || 4 ≤ (svcOf t k).fills.length || storeAhead t k line || clearingAt t (8 * line) then t
        else startFill (cntImiss t k) k ⟨.fetch, .shared, line, tr.pa % 8, none, [], [], false⟩

/-- Core k speculates past the transfer that it issued last, in the two PORT cycles at most until that has resolved (R307): a fetch in
each and two loads altogether, which of them and where being free. A transfer has resolved 5 CORE cycles after its issue (R229), and with
the issue of another instruction. -/
def speculate (s : State) (k : Nat) : State :=
  let c := coreOf s k
  let v := svcOf s k
  match c.prev with
  | some p =>
    if !(coreLive s k && !c.detmAct && p.cls == 4 && (v.dUse || v.iUse)) then s
    else match (match v.spec with
        | some (cyc, from_, n) => if cyc = p.cyc then (from_, n) else (s.port, 0)
        | none => (s.port, 0)) with
      | (from_, n) =>
        if from_ + 1 < s.port then s
        else
          let b := freshBit s
          let m := min 2 (n + 1 + b2n b.1)
          let t := onSvc (specFetch b.2 k) k (fun x => { x with spec := some (p.cyc, from_, m) })
          forN (m - n) t (fun t _ => specLoad t k)
  | none => s

end Sys2Proof.Machine
end

