-- ==== Sys2Proof/Machine/Svc.lean ====
section
/-! DEFINITION. The supervisor cores' cache maintenance, enables, ways, drain and TLB commands, and what their caches do by
themselves (R291, R293 to R298, R305 to R307). -/

namespace Sys2Proof.Machine

/-! Maintenance (R294). -/

/-- CLEAN of a line: the copy in the D-cache or the offer queue, or the L2 entry, is written home and marked clean. -/
def cleanLine (s : State) (k line : Nat) : State :=
  let t := match findWay (svcOf s k).dc 8 line with
    | some w =>
      let x := dLine s k line w
      if x.dirty then
        setDLine (writeHome s k x true) k line w (if x.bad lineKeys then Line.none_ else { x.fixed lineKeys with dirty := false })
      else s
    | none => s
  let t := match (svcOf t k).offers.find? (fun x => x.line == line && x.dirty) with
    | some x => onSvc (writeHome t k x true) k (fun v => { v with offers := v.offers.map (fun y =>
        if y == x then { y with dirty := false } else y) })
    | none => t
  if l2Live t k then
    let i := l2Entry t k line
    let (w, u) := l2Look t k i
    if tagHolds w line && tagDirty w then l2TagPut (l2Home u k i w true) k i (l2TagWord true false line) else u
  else t

/-- ICINV of a line: the I-cache and the side buffer drop it. -/
def icInvLine (s : State) (k line : Nat) : State :=
  let t := match findWay (svcOf s k).ic 4 line with
    | some w => setILine s k line w Line.none_
    | none => s
  onSvc t k (fun v => { v with side := v.side.filter (fun x => x.line != line) })

/-- INV of a line: every copy is discarded, nothing is written back, and a write-back under way gives nothing back. -/
def invLine (s : State) (k line : Nat) : State :=
  let t := match findWay (svcOf s k).dc 8 line with
    | some w => setDLine s k line w Line.none_
    | none => s
  let t := onSvc (icInvLine t k line) k (fun v => { v with
    offers := v.offers.filter (fun x => x.line != line),
    wbq := v.wbq.map (fun e => if e.line == line then { e with held := none } else e) })
  if l2Live t k then
    let (w, u) := l2Look t k (l2Entry t k line)
    if tagHolds w line then l2TagPut u k (l2Entry t k line) (l2TagWord false false line) else u
  else t

/-- Lines in the D-cache, the I-cache, the side buffer and the offer queue, and those on their way. -/
def heldLines (s : State) (k : Nat) : List Nat :=
  let v := svcOf s k
  v.dc.map (·.2.line) ++ v.ic.map (·.2.line) ++ v.side.map (·.line) ++ v.offers.map (·.line) ++ v.fills.map (·.line)

/-- Valid entries of the L2 region, by the lines they hold. -/
def l2Lines (s : State) (k : Nat) : List Nat :=
  if !l2Live s k then []
  else
    let lo := l2Tag s k 0
    (s.mem.filter (fun p => lo ≤ p.1 && p.1 < lo + 7168 * l2Stripes s k && bitOf p.2 47)).map (fun p => p.2.toNat % 2 ^ 37)

/-- Start a background operation on what the caches hold now: 5 ALLCLEAN, 6 ALLCLEANINV, 7 ALLINV. -/
def bgStart (s : State) (k op : Nat) : State :=
  srw (onSvc s k (fun v => { v with bgop := op, bgl := heldLines s k, bge := l2Lines s k })) k srSts ⟨5, 5⟩ 1

/-- What the running background operation does to a line. -/
def bgLine (s : State) (k op line : Nat) : State :=
  if op = 5 then cleanLine s k line
  else if op = 6 then invLine (cleanLine s k line) k line
  else invLine s k line

/-- SVC_OP_DONE (R294): the background operation completes, once the fills that were under way at its start have, and OPBUSY
clears. -/
def execSvcOpDone (k : Fin 2) (s : State) : Out :=
  let c := 8 + k.val
  let v := svcOf s c
  let t := (v.bgl ++ v.bge).foldl (fun t l => bgLine t c v.bgop l) s
  onlyIf (v.bgop != 0 && v.fills.all (fun f => !v.bgl.contains f.line)) s
    (srw (onSvc t c (fun v => { v with bgop := 0, bgl := [], bge := [] })) c srSts ⟨5, 5⟩ 0)

/-! Enable and disable (R181, R291, R296). -/

/-- Every dirty line of the D-cache goes home, never to L2 (R296). -/
def dWriteAll (s : State) (k : Nat) : State :=
  (svcOf s k).dc.foldl (fun t p => if p.2.dirty then writeHome t k p.2 else t) s

/-- Every dirty entry of the L2 region goes home, and every entry becomes invalid (R296). -/
def l2WriteAll (s : State) (k : Nat) : State :=
  (l2Lines s k).foldl (fun t line =>
    let i := l2Entry t k line
    let (w, u) := l2Look t k i
    l2TagPut (if tagDirty w then l2Home u k i w else u) k i (l2TagWord false false line)) s

/-- Bring the D-cache and I-cache into or out of use as DEN, IEN and DETM ask (R181, R296). -/
def cacheSync (s : State) (k : Nat) : State :=
  let detm := (coreOf s k).detm
  let den := srf s k srCtrl ⟨0, 0⟩ == 1 && !detm
  let ien := srf s k srCtrl ⟨1, 1⟩ == 1 && !detm
  let v := svcOf s k
  let t := if den then srw (srw (setSvc s k { v with dUse := true }) k srSts ⟨2, 2⟩ 0) k srSts ⟨0, 0⟩ 0
    else if v.dUse then srw s k srSts ⟨0, 0⟩ 1 else s
  let w := svcOf t k
  if ien then srw (setSvc t k { w with iUse := true }) k srSts ⟨3, 3⟩ 0
  else srw (setSvc t k { w with iUse := false, ic := [] }) k srSts ⟨3, 3⟩ 1

/-- DCACHE_CLEAN_DONE (R296): every dirty line and L2 entry is home, the cache is invalid and stops. What has been prefetched is
dropped with it. -/
def dcacheStop (s : State) (k : Nat) : State :=
  let t := offersHome (dWriteAll (wcEmit s k) k) k
  let t := if l2Live t k then l2WriteAll t k else t
  srw (srw (onSvc t k (fun v => { v with dc := [], side := [], pfq := [], dUse := false })) k srSts ⟨2, 2⟩ 1) k srSts ⟨0, 0⟩ 0

/-- The fills under way come first, with the stores that wait in them and the dirty lines that they take out of L2 (R210, R292). -/
def execDcacheCleanDone (k : Fin 2) (s : State) : Out :=
  onlyIf (dCleaning s (8 + k.val) && (svcOf s (8 + k.val)).fills.isEmpty) s (dcacheStop s (8 + k.val))

/-- DETM_ACTIVE (R181): both caches of a supervisor are clean and disabled, so DETMACT becomes 1. -/
def execDetmActive (k : Fin 2) (s : State) : Out :=
  let c := coreOf s (8 + k.val)
  let v := svcOf s (8 + k.val)
  onlyIf (c.detm && !c.detmAct && !v.dUse && !v.iUse) s (setCore s (8 + k.val) { c with detmAct := true })

/-- The region stops. -/
def l2Stop (s : State) (k : Nat) : State :=
  srw (srw (onSvc s k (fun v => { v with l2on := false, l2left := 0 })) k srSts ⟨6, 6⟩ 0) k srSts ⟨7, 7⟩ 0

/-- L2_CLEANING_DONE (R296): the region's dirty entries are home and it stops. -/
def execL2CleaningDone (k : Fin 2) (s : State) : Out :=
  let c := 8 + k.val
  onlyIf (srf s c srSts ⟨6, 6⟩ == 1) s (l2Stop (l2WriteAll (offersHome s c) c) c)

/-- The region is enabled as SVC_L2CFG has it: every tag word is to be written with V = 0 before it is used, and L2INIT reads 1
meanwhile (R291). -/
def l2Start (s : State) (k : Nat) : State :=
  let n := 2 ^ srf s k srL2cfg ⟨5, 4⟩
  srw (onSvc s k (fun v => { v with l2on := true, l2reg := (srf s k srL2cfg ⟨3, 0⟩ * 0x10000, n), l2left := 7168 * n }))
    k srSts ⟨7, 7⟩ 1

/-- The next tag word of a region being initialised is written (R291). -/
def l2InitStep (s : State) (k : Nat) : State :=
  let n := (svcOf s k).l2left
  if n = 0 then s
  else
    let t := onSvc (l2TagPut s k (7168 * l2Stripes s k - n) (l2TagWord false false 0)) k (fun v => { v with l2left := n - 1 })
    if n = 1 then srw t k srSts ⟨7, 7⟩ 0 else t

/-- SVC_L2CFG written (R291, R296, R308): SIZE only while EN is 0; a misaligned BASE leaves EN at 0; a rise of EN initialises the
region, or cancels its cleaning; a fall of EN starts that. -/
def l2cfgWrite (s : State) (k : Nat) (v : Word) : State :=
  let en := srf s k srL2cfg ⟨8, 8⟩ == 1
  let t := srw s k srL2cfg ⟨3, 0⟩ ((Fld.mk 3 0).get v)
  let t := if en then t else srw t k srL2cfg ⟨5, 4⟩ ((Fld.mk 5 4).get v)
  let n := 2 ^ srf t k srL2cfg ⟨5, 4⟩
  let fits := srf t k srL2cfg ⟨3, 0⟩ % n = 0 && srf t k srL2cfg ⟨3, 0⟩ + n ≤ 16
  let want := bitOf v 8
  if want && !en then
    if !fits then t
    else if srf t k srSts ⟨6, 6⟩ == 1 then srw (srw t k srL2cfg ⟨8, 8⟩ 1) k srSts ⟨6, 6⟩ 0
    else l2Start (srw t k srL2cfg ⟨8, 8⟩ 1) k
  else if !want && en then srw (srw t k srL2cfg ⟨8, 8⟩ 0) k srSts ⟨6, 6⟩ 1
  else t

/-! Ways (R297). -/

/-- Ways whose enables were cleared stop allocating; those of the I-cache are invalidated and powered down at once, and ways whose
enables were set are powered up invalid, or are kept. -/
def waySync (s : State) (k : Nat) : State :=
  let d := srf s k srWayen ⟨7, 0⟩
  let i := srf s k srWayen ⟨19, 16⟩
  let t := onSvc s k (fun v => { v with ic := v.ic.filter (fun p => i.testBit (p.1 / 128)) })
  srw (srw t k srWayen ⟨15, 8⟩ (srf s k srWayen ⟨15, 8⟩ ||| d)) k srWayen ⟨27, 24⟩ i

/-- A powered way of the D-cache is to go. -/
def wayGoes (s : State) (k w : Nat) : Bool :=
  (srf s k srWayen ⟨15, 8⟩).testBit w && !(srf s k srWayen ⟨7, 0⟩).testBit w

/-- A D-cache way that is powered down evicts its next dirty line; with none left it is invalidated and goes (R297). -/
def wayStep (s : State) (k : Nat) : State :=
  match (List.range 8).find? (wayGoes s k) with
  | none => s
  | some w =>
    match (svcOf s k).dc.find? (fun p => p.1 / 128 == w && p.2.dirty) with
    | some p =>
      if mayEvict s k p.2 then
        evictLine (onSvc s k (fun v => { v with dc := v.dc.filter (fun q => q.1 != p.1) })) k p.2
      else s
    | none =>
      srw (onSvc s k (fun v => { v with dc := v.dc.filter (fun q => q.1 / 128 != w) })) k srWayen ⟨15, 8⟩
        (natBit (srf s k srWayen ⟨15, 8⟩) w false)

/-! Drain (R298). -/

/-- Dirty entries of the L2 region, by the lines they hold, whose tag words can be read. -/
def l2Dirty (s : State) (k : Nat) : List Nat :=
  (l2Lines s k).filter (fun line => let a := l2Tag s k (l2Entry s k line); !noData s a && tagDirty (memRd s a))

/-- Every dirty entry of the L2 region goes home and is clean (R294, R298). -/
def l2CleanAll (s : State) (k : Nat) : State :=
  (l2Dirty s k).foldl (fun t line =>
    let i := l2Entry t k line
    let (w, u) := l2Look t k i
    if tagDirty w then l2TagPut (l2Home u k i w true) k i (l2TagWord true false (w.toNat % 2 ^ 37)) else u) s

/-- The drain of a supervisor's domain: its D-cache and L2 are cleaned, and the write-combining buffer is emitted. -/
def svcDrain (s : State) (k : Nat) : State :=
  let t := offersHome (dWriteAll (wcEmit s k) k) k
  let t := onSvc t k (fun v => { v with pfq := [], dc := v.dc.map (fun p => (p.1, { p.2 with dirty := false })) })
  l2CleanAll t k

/-- Nothing of a supervisor's caches is left to be written (R298). -/
def svcClean (s : State) (k : Nat) : Bool :=
  let v := svcOf s k
  v.fills.isEmpty && v.offers.isEmpty && v.wbq.isEmpty && v.wcb.isNone && v.pfq.isEmpty && v.dc.all (fun p => !p.2.dirty) && (l2Dirty s k).isEmpty

/-! What the caches do by themselves in a PORT cycle. -/

/-- Initialisation of L2, one tag word in a FABRIC cycle; an offer; a way that goes; a prefetch that waited; and speculation. -/
def svcStep (s : State) (k : Nat) : State :=
  if svcOf s k == Svc.zero then s
  else
    let t := offerStep (l2InitStep (l2InitStep s k) k) k
    let t := prefetchNext (wayStep t k) k
    if rf t (pctlPd (coreDomain k)) pctlPdSTATE = 3 && !svcClean t k then svcDrain t k else speculate t k

/-- The caches of both supervisors. -/
def svcTick (s : State) : State := svcStep (svcStep s 8) 9

/-! TLB commands (R305). -/

/-- Two entries' pages intersect in a common address space (R305). -/
def tlbOverlap (a b : Word) : Bool :=
  let p := max (tlbP a) (tlbP b)
  a.toNat / 2 ^ 12 * 2 ^ 12 / 2 ^ p == b.toNat / 2 ^ 12 * 2 ^ 12 / 2 ^ p && (tlbG a || tlbG b || tlbAsid a == tlbAsid b)

/-- Why a WRITE with V = 1 is refused: STATUS, 0 where it is not (R305). -/
def tlbRefusal (s : State) (k i : Nat) (hi lo : Word) : Nat :=
  let p := tlbP hi
  if tlbV (tlbEntry s k i).1 then 2
  else if (List.range 64).any (fun e => e != i && tlbV (tlbEntry s k e).1 && tlbOverlap (tlbEntry s k e).1 hi) then 1
  else if tlbSize hi != 7 && (hi.toNat / 2 ^ 12 % 2 ^ (p - 12) != 0 || lo.toNat / 2 ^ 12 % 2 ^ (p - 12) != 0) then 3
  else if tlbSize hi == 7 then 4
  else 0

/-- Store a TLB entry. -/
def setTlb (s : State) (k i : Nat) (hi lo : Word) : State :=
  let v := svcOf s k
  setSvc s k { v with tlb := tset (0, 0) v.tlb i (hi, lo) }

/-- V cleared in every entry that a test selects. -/
def tlbInv (s : State) (k : Nat) (p : Word → Bool) : State :=
  forN 64 s (fun t e =>
    let x := tlbEntry t k e
    if p x.1 then setTlb t k e (setBit x.1 7 false) x.2 else t)

/-- A command of SVC_TLBCMD on entry i with the staging registers (R305): STATUS and, for PROBE, IDX. -/
def tlbCommand (s : State) (k op i : Nat) : State :=
  let hi := (coreOf s k).sr srTlbhi
  let lo := (coreOf s k).sr srTlblo
  let st (t : State) (v : Nat) : State := srw (srw t k srTlbcmd ⟨19, 16⟩ v) k srTlbcmd ⟨13, 8⟩ i
  match op with
  | 1 =>
    let e := tlbEntry s k i
    let c := (coreOf s k).setSr srTlbhi e.1
    st (setCore s k (c.setSr srTlblo e.2)) 0
  | 2 =>
    let r := if tlbV hi then tlbRefusal s k i hi lo else 0
    st (if r = 0 then setTlb s k i hi lo else s) r
  | 3 =>
    match tlbFind s k (tlbAsid hi) (hi.toNat / 2 ^ 12 * 2 ^ 12) with
    | some e => srw (st s 0) k srTlbcmd ⟨13, 8⟩ e
    | none => st s 5
  | 4 => st (tlbInv s k (fun _ => true)) 0
  | 5 => st (tlbInv s k (fun w => !tlbG w && tlbAsid w == tlbAsid hi)) 0
  | _ => st s (srf s k srTlbcmd ⟨19, 16⟩)

end Sys2Proof.Machine
end

