-- ==== Sys2Proof/Machine/CoreIsa.lean ====
section
/-! DEFINITION. What a core's instruction does: its encoding, checks and effect. Data operations,
predicates, the multiplier and token-relative accesses (R185 to R211). -/

namespace Sys2Proof.Machine

/-- How an instruction ends: it completes with a cost in CORE cycles, transfers control, returns from a level with the PC and
coverage set (R252), faults with a cause and its value (R256), waits with the core's wait set, cannot issue yet, or completes and
then raises a fault (R236). -/
inductive IRes where
  | done (s : State) (cost : Nat)
  | jump (s : State) (pc : Word) (cost : Nat)
  | back (s : State) (cost : Nat)
  | fault (s : State) (code : Nat) (v : Word)
  | wait (s : State)
  | hold (s : State)
  | trail (s : State) (code : Nat) (v : Word) (cost : Nat)

/-- The issue classes of R176. -/
inductive IClass where
  | p | a | m | x | b | s
deriving DecidableEq, Repr

/-- The cost of an instruction that ends so on core k (R227): of one that waits for data, the fewest cycles. -/
def IRes.cost (k : Nat) : IRes → Nat
  | .done _ c | .jump _ _ c | .back _ c | .trail _ _ _ c => c
  | .wait s => match (coreOf s k).wait with
    | .load _ _ _ _ _ n => n
    | _ => 1
  | _ => 1

/-- An instruction: its parcels, own guard, whether its fields are out of range (R187), stack effect
(R165), class, the predicate it writes and the one it branches on, whether it is a save or restore, and
its effect on core k when it issues in CORE cycle `now`. -/
structure Ins where
  parcels : List Nat
  guard   : Option (Nat × Bool) := none
  illegal : Bool := false
  c       : Nat := 0
  p       : Nat := 0
  cls     : IClass := .a
  wpred   : Nat := 0
  long    : Bool := false
  body    : State → Nat → Nat → IRes
  /-- how it ends when its guard fails: it has no effect, and costs what it costs when it passes (R171) -/
  skip    : State → Nat → IRes := fun s k => .done s ((body s k (coreOf s k).cyc).cost k)

/-- A short form (R185, R193). -/
def sh (opc opd : Nat) : List Nat := [opc * 0x200 + opd]

/-- A long form (R186, R197). -/
def lg (opc : Nat) (ps : Fin 8) (sn : Bool) (ext : Nat) : List Nat :=
  [0x8000 + ps.val * 0x1000 + b2n sn * 0x800 + opc, ext]

/-- The guard of a long form (R186). -/
def lgGuard (ps : Fin 8) (sn : Bool) : Option (Nat × Bool) := some (ps.val, sn)

/-- PS = 0 with SN = 1 is illegal (R187). -/
def badGuard (ps : Fin 8) (sn : Bool) : Bool := ps.val == 0 && sn

/-- Change the bank in use of core k. -/
def onBank (s : State) (k : Nat) (f : Bank → Bank) : State := setCore s k ((coreOf s k).withCur f)

/-- The bank in use of core k. -/
def bankOf (s : State) (k : Nat) : Bank := (coreOf s k).cur

/-- One cycle, next instruction. -/
def fin1 (s : State) : IRes := .done s 1

/-- A short form of class A that replaces its operands by results. -/
def stackIns (parcels : List Nat) (c p : Nat) (cls : IClass) (f : Bank → List Word) : Ins :=
  { parcels, c, p, cls, body := fun s k _ => fin1 (onBank s k (fun b => b.pops c (f b))) }

/-- A long form of the same shape. -/
def stackInsL (opc : Nat) (ps : Fin 8) (sn : Bool) (ext c p : Nat) (cls : IClass) (bad : Bool)
    (f : Bank → List Word) : Ins :=
  { parcels := lg opc ps sn ext, guard := lgGuard ps sn, illegal := bad || badGuard ps sn, c, p, cls,
    body := fun s k _ => fin1 (onBank s k (fun b => b.pops c (f b))) }

/-! Stack group (R194). -/

def insNop : Ins := stackIns (sh 0 0) 0 0 .a (fun _ => [])
def insDup : Ins := stackIns (sh 0 1) 1 2 .p (fun b => [b.peek 0, b.peek 0])
def insDrop : Ins := stackIns (sh 0 2) 1 0 .a (fun _ => [])
def insSwap : Ins := stackIns (sh 0 3) 2 2 .a (fun b => [b.peek 0, b.peek 1])
def insOver : Ins := stackIns (sh 0 4) 2 3 .p (fun b => [b.peek 1, b.peek 0, b.peek 1])
def insRot : Ins := stackIns (sh 0 5) 3 3 .a (fun b => [b.peek 1, b.peek 0, b.peek 2])
def insNip : Ins := stackIns (sh 0 6) 2 1 .a (fun b => [b.peek 0])
def insTuck : Ins := stackIns (sh 0 7) 2 3 .a (fun b => [b.peek 0, b.peek 1, b.peek 0])

/-! ALU group (R195). -/

/-- A binary operation on NOS (a) and TOS (b). -/
def binIns (f : Nat) (op : Word → Word → Word) : Ins :=
  stackIns (sh 1 f) 2 1 .a (fun b => [op (b.peek 1) (b.peek 0)])

/-- A unary operation on TOS. -/
def unIns (f : Nat) (op : Word → Word) : Ins := stackIns (sh 1 f) 1 1 .a (fun b => [op (b.peek 0)])

/-- The value saturated to one word. -/
def satWord (i : Int) : Word := wordOfInt (satInt 48 i).1

def insAdd : Ins := binIns 0x0 (· + ·)
def insSub : Ins := binIns 0x1 (· - ·)
def insNeg : Ins := unIns 0x2 (fun a => -a)
def insAbs : Ins := unIns 0x3 (fun a => if a.toInt < 0 then -a else a)
def insAnd : Ins := binIns 0x4 (· &&& ·)
def insOr : Ins := binIns 0x5 (· ||| ·)
def insXor : Ins := binIns 0x6 (· ^^^ ·)
def insNot : Ins := unIns 0x7 (fun a => ~~~a)
def insAndn : Ins := binIns 0x8 (fun a b => a &&& ~~~b)
def insMin : Ins := binIns 0x9 (fun a b => if a.toInt < b.toInt then a else b)
def insMax : Ins := binIns 0xA (fun a b => if a.toInt < b.toInt then b else a)
def insMinu : Ins := binIns 0xB (fun a b => if a.toNat < b.toNat then a else b)
def insMaxu : Ins := binIns 0xC (fun a b => if a.toNat < b.toNat then b else a)
def insAddsat : Ins := binIns 0xD (fun a b => satWord (a.toInt + b.toInt))
def insSubsat : Ins := binIns 0xE (fun a b => satWord (a.toInt - b.toInt))

/-! Shifts (R196). -/

def shlW (a : Word) (n : Nat) : Word := a <<< n
def shrW (a : Word) (n : Nat) : Word := a >>> n
def sarW (a : Word) (n : Nat) : Word := a.sshiftRight n
def rolW (a : Word) (n : Nat) : Word := a.rotateLeft (n % 48)

/-- A shift by an immediate from 0 to 47. -/
def shiftIns (opc : Nat) (n : Fin 64) (f : Word → Nat → Word) : Ins :=
  { stackIns (sh opc n.val) 1 1 .a (fun b => [f (b.peek 0) n.val]) with illegal := 48 ≤ n.val }

def insShl (n : Fin 64) : Ins := shiftIns 0x0A n shlW
def insShr (n : Fin 64) : Ins := shiftIns 0x0B n shrW
def insSar (n : Fin 64) : Ins := shiftIns 0x0C n sarW
def insRol (n : Fin 64) : Ins := shiftIns 0x0D n rolW

/-- A shift by the unsigned count in TOS. -/
def vshiftIns (f : Nat) (op : Word → Nat → Word) : Ins :=
  stackIns (sh 0x0E f) 2 1 .a (fun b => [op (b.peek 1) (b.peek 0).toNat])

def insShlv : Ins := vshiftIns 0 (fun a n => if n < 48 then shlW a n else 0)
def insShrv : Ins := vshiftIns 1 (fun a n => if n < 48 then shrW a n else 0)
def insSarv : Ins := vshiftIns 2 (fun a n => if n < 48 then sarW a n else if a.toInt < 0 then -1 else 0)
def insRolv : Ins := vshiftIns 3 rolW

/-! Literals, locals, stack access and bit fields (R198 to R200). -/

def insLdl (n : Fin 16) : Ins := stackIns (sh 0x04 n.val) 0 1 .p (fun b => [b.loc n.val])

def insPutl (n : Fin 16) : Ins :=
  { parcels := sh 0x05 n.val, c := 1, p := 0, cls := .a,
    body := fun s k _ => fin1 (onBank s k (fun b => (b.setLoc n.val (b.peek 0)).drop 1)) }

def insTeel (n : Fin 16) : Ins :=
  { parcels := sh 0x06 n.val, c := 1, p := 1, cls := .a,
    body := fun s k _ => fin1 (onBank s k (fun b => b.setLoc n.val (b.peek 0))) }

def insPick (n : Fin 32) : Ins :=
  { parcels := sh 0x07 n.val, illegal := n.val == 31, c := n.val + 1, p := n.val + 2, cls := .a,
    body := fun s k _ => fin1 (onBank s k (fun b => b.push (b.peek n.val))) }

def insLit (v : BitVec 9) : Ins := stackIns (sh 0x08 v.toNat) 0 1 .p (fun _ => [v.signExtend 48])
def insAddi (v : BitVec 9) : Ins := stackIns (sh 0x09 v.toNat) 1 1 .a (fun b => [b.peek 0 + v.signExtend 48])

def insLit16 (ps : Fin 8) (sn : Bool) (v : BitVec 16) : Ins :=
  stackInsL 0x000 ps sn v.toNat 0 1 .a false (fun _ => [v.signExtend 48])
def insLitx16 (ps : Fin 8) (sn : Bool) (v : BitVec 16) : Ins :=
  stackInsL 0x001 ps sn v.toNat 1 1 .a false (fun b => [(b.peek 0 <<< 16) + v.zeroExtend 48])
def insAddi16 (ps : Fin 8) (sn : Bool) (v : BitVec 16) : Ins :=
  stackInsL 0x002 ps sn v.toNat 1 1 .a false (fun b => [b.peek 0 + v.signExtend 48])
def insAndi16 (ps : Fin 8) (sn : Bool) (v : BitVec 16) : Ins :=
  stackInsL 0x003 ps sn v.toNat 1 1 .a false (fun b => [b.peek 0 &&& v.zeroExtend 48])
def insOri16 (ps : Fin 8) (sn : Bool) (v : BitVec 16) : Ins :=
  stackInsL 0x004 ps sn v.toNat 1 1 .a false (fun b => [b.peek 0 ||| v.zeroExtend 48])
def insXori16 (ps : Fin 8) (sn : Bool) (v : BitVec 16) : Ins :=
  stackInsL 0x005 ps sn v.toNat 1 1 .a false (fun b => [b.peek 0 ^^^ v.zeroExtend 48])

/-- EXT of a bit-field instruction, and whether its field leaves the word (R197). -/
def bfExt (pos len1 : Fin 64) : Nat := pos.val + 64 * len1.val
def bfBad (pos len1 : Fin 64) : Bool := 48 < pos.val + len1.val + 1

/-- Bits [pos + len - 1 : pos] of a word. -/
def bits (a : Word) (pos len : Nat) : Nat := a.toNat / 2 ^ pos % 2 ^ len

/-- An n-bit number as a two's complement integer. -/
def sgnOf (n v : Nat) : Int := if v < 2 ^ (n - 1) then (v : Int) else (v : Int) - (2 ^ n : Nat)

def insExtu (ps : Fin 8) (sn : Bool) (pos len1 : Fin 64) : Ins :=
  stackInsL 0x008 ps sn (bfExt pos len1) 1 1 .a (bfBad pos len1) (fun b =>
    [BitVec.ofNat 48 (bits (b.peek 0) pos.val (len1.val + 1))])
def insExts (ps : Fin 8) (sn : Bool) (pos len1 : Fin 64) : Ins :=
  stackInsL 0x009 ps sn (bfExt pos len1) 1 1 .a (bfBad pos len1) (fun b =>
    [wordOfInt (sgnOf (len1.val + 1) (bits (b.peek 0) pos.val (len1.val + 1)))])
def insIns (ps : Fin 8) (sn : Bool) (pos len1 : Fin 64) : Ins :=
  stackInsL 0x00A ps sn (bfExt pos len1) 2 1 .a (bfBad pos len1) (fun b =>
    [(Fld.mk (pos.val + len1.val) pos.val).put (b.peek 1) (b.peek 0).toNat])

/-! Compare and predicates (R201 to R203). -/

/-- Condition code cc on a and b (R201). -/
def condition (cc : Nat) (a b : Word) : Bool :=
  match cc with
  | 0 => a == b
  | 1 => a != b
  | 2 => a.toInt < b.toInt
  | 3 => b.toInt ≤ a.toInt
  | 4 => a.toInt ≤ b.toInt
  | 5 => b.toInt < a.toInt
  | 6 => a.toNat < b.toNat
  | 7 => b.toNat ≤ a.toNat
  | 8 => a.toNat ≤ b.toNat
  | 9 => b.toNat < a.toNat
  | 10 => a &&& b == 0
  | _ => a &&& b != 0

/-- An instruction that pops c operands into predicate d. -/
def predIns (parcels : List Nat) (c d : Nat) (f : Bank → Bool) : Ins :=
  { parcels, c, p := 0, cls := .a, wpred := d,
    body := fun s k _ => fin1 (onBank s k (fun b => (b.drop c).setPred d (f b))) }

def insCmp (cc : Fin 16) (d : Fin 8) : Ins :=
  { predIns (sh 0x11 (8 * cc.val + d.val)) 2 d.val (fun b => condition cc.val (b.peek 1) (b.peek 0)) with
    illegal := 12 ≤ cc.val }
def insCmpi (ps : Fin 8) (sn : Bool) (cc : Fin 16) (d : Fin 8) (v : BitVec 16) : Ins :=
  { predIns (lg (0x080 + 8 * cc.val + d.val) ps sn v.toNat) 1 d.val
      (fun b => condition cc.val (b.peek 0) (v.signExtend 48)) with
    guard := lgGuard ps sn, illegal := 12 ≤ cc.val || badGuard ps sn }
def insTstp (d : Fin 8) : Ins := predIns (sh 0x12 d.val) 1 d.val (fun b => b.peek 0 != 0)
def insPand (d a b : Fin 8) : Ins :=
  predIns (sh 0x13 (d.val + 8 * a.val + 64 * b.val)) 0 d.val (fun x => x.pred a.val && x.pred b.val)
def insPor (d a b : Fin 8) : Ins :=
  predIns (sh 0x14 (d.val + 8 * a.val + 64 * b.val)) 0 d.val (fun x => x.pred a.val || x.pred b.val)
def insPxor (d a b : Fin 8) : Ins :=
  predIns (sh 0x15 (d.val + 8 * a.val + 64 * b.val)) 0 d.val (fun x => xor (x.pred a.val) (x.pred b.val))
def insPnot (d a : Fin 8) : Ins := predIns (sh 0x16 (d.val + 8 * a.val)) 0 d.val (fun x => !x.pred a.val)
def insRdp (n : Fin 8) : Ins := stackIns (sh 0x17 n.val) 0 1 .p (fun b => [BitVec.ofNat 48 (b2n (b.pred n.val))])

/-! Multiplier and accumulator (R175, R204 to R206). -/

/-- Start an operation that lands `d` cycles after its issue. -/
def launch (s : State) (k now d : Nat) (op : LandOp) : State :=
  let c := coreOf s k
  setCore s k { c with lands := c.lands ++ [⟨c.lvl, now + d, op⟩] }

/-- A multiply: its product as an integer goes where `f` says, seen `d` cycles after issue. -/
def mulIns (fn d : Nat) (mul : Word → Word → Int) (f : Int → LandOp) : Ins :=
  { parcels := sh 2 fn, c := 2, p := 0, cls := .x,
    body := fun s k now =>
      let b := bankOf s k
      fin1 (launch (onBank s k (fun b => b.drop 2)) k now d (f (mul (b.peek 1) (b.peek 0)))) }

/-- A 96-bit product for PH:PL. -/
def product (i : Int) : LandOp :=
  let w := BitVec.ofInt 96 i
  .product ((w >>> 48).setWidth 48) (w.setWidth 48)

def smul (a b : Word) : Int := a.toInt * b.toInt
def umul (a b : Word) : Int := (a.toNat * b.toNat : Nat)

def insMul : Ins := mulIns 0 3 smul product
def insMulu : Ins := mulIns 1 3 umul product
def insMac : Ins := mulIns 2 4 smul (fun i => .add (BitVec.ofInt 112 i))
def insMsu : Ins := mulIns 3 4 smul (fun i => .add (BitVec.ofInt 112 (-i)))

def insClracc : Ins :=
  { parcels := sh 2 4, cls := .a, body := fun s k now => fin1 (launch s k now 4 (.set 0)) }
def insWracc (n : Fin 64) : Ins :=
  { parcels := sh 0x10 n.val, c := 1, p := 0, cls := .a,
    body := fun s k now => fin1 (launch (onBank s k (fun b => b.drop 1)) k now 4
      (.set (BitVec.ofInt 112 (((bankOf s k).peek 0).toInt * (2 ^ n.val : Nat))))) }

def insRdph : Ins := stackIns (sh 2 5) 0 1 .p (fun b => [b.ph])
def insRdpl : Ins := stackIns (sh 2 6) 0 1 .p (fun b => [b.pl])
def insRdacc0 : Ins := stackIns (sh 2 7) 0 1 .p (fun b => [b.acc.setWidth 48])
def insRdacc1 : Ins := stackIns (sh 2 8) 0 1 .p (fun b => [(b.acc >>> 48).setWidth 48])
def insRdacc2 : Ins := stackIns (sh 2 9) 0 1 .p (fun b => [(b.acc >>> 96).setWidth 48])

/-- ACC scaled by 2^-n, rounded to nearest even and saturated to one word (R206). -/
def rndAcc (a : Acc) (n : Nat) : Word × Bool :=
  let r := satInt 48 (rne a.toInt n)
  (wordOfInt r.1, r.2)

def insRndacc (n : Fin 64) : Ins := stackIns (sh 0x0F n.val) 0 1 .p (fun b => [(rndAcc b.acc n.val).1])
def insRndaccs (ps : Fin 8) (sn : Bool) (n : Fin 64) (d : Fin 8) : Ins :=
  { parcels := lg 0x00B ps sn (n.val + 64 * d.val), guard := lgGuard ps sn, illegal := badGuard ps sn,
    c := 0, p := 1, cls := .p, wpred := d.val,
    body := fun s k _ => fin1 (onBank s k (fun b =>
      (b.push (rndAcc b.acc n.val).1).setPred d.val (rndAcc b.acc n.val).2)) }

/-! Watchpoints (R520). -/

/-- An enabled watchpoint matches a physical address (R520). -/
def wpHit (s : State) (k a : Nat) (store : Bool) : Bool :=
  pdOn s 53 && (List.range 2).any (fun j =>
    let w := rd s (dbgWp k j 0)
    let m := (rd s (dbgWp k j 1)).toNat % 2 ^ 40
    (rf s (dbgCorectl k) dbgCorectlWPEN).testBit j && (if store then dbgWpST else dbgWpLD).get w == 1 &&
      dbgWpADDR.get w &&& m == a &&& m)

/-- An access of core k at physical address `a` (and at `a` + 1 for a pair) has matched a watchpoint. -/
def wpMark (s : State) (k a : Nat) (store pair : Bool) : State :=
  if wpHit s k a store || (pair && wpHit s k (a + 1) store) then
    { s with dbg := { s.dbg with wps := k :: s.dbg.wps.erase k } }
  else s

/-- A watchpoint of core k has matched and the core has not stopped yet. -/
def wpSeen (s : State) (k : Nat) : Bool := s.dbg.wps.contains k

/-! Accesses of a core (R207 to R210, R240). -/

/-- Fixed access latency Lm of a target, in CORE cycles (R271). -/
def latency (a : Nat) : Nat :=
  match targetOf a with
  | .shared _ _ => 8
  | .dataSp _ | .instSp _ | .aeRam _ => 10
  | .regs =>
    match regFind a with
    | some (d, _) => match d.area with
      | .aon => 16
      | _ => 12
    | none => 12
  | .host | .persist => 14
  | .none_ => 0

/-- What an access does: it has its word (and, for a pair, the second word and the tag) at a cost, it is on its way as the read of
a number that takes at least `min` cycles, it cannot start yet, or it faults. -/
inductive MemRes where
  | now (w hi : Word) (tag : Bool) (s : State) (cost : Nat)
  | wait (s : State) (id min : Nat)
  | hold (s : State)
  | fault (s : State) (code : Nat) (v : Word)

/-- The fault of a response code (R209, R266). -/
def codeFault (c : Nat) : Nat := if c = 5 then 0x39 else 0x38

/-- The address is in core k's own data scratchpad. -/
def ownSp (k a : Nat) : Bool := k < 8 && targetOf a == .dataSp k

/-- Queue an access at the interconnect. -/
def sendReq (s : State) (k : Nat) (r : MemReq) : State :=
  let c := coreOf s k
  setCore s k { c with reqs := c.reqs ++ [{ r with at_ := s.port }] }

/-- A read request with its number. -/
def readReq (a : Nat) (pair : Bool) (dev : Bool) (id : Nat) : MemReq := ⟨false, a, 0, pair, 0, false, 0, dev, false, id, 0, none⟩

/-- A write request. -/
def writeReq (a : Nat) (v : Word) (pair : Option (Word × Bool)) (otype : Nat) (dev : Bool) : MemReq :=
  ⟨true, a, v, pair.isSome, (pair.getD (0, false)).1, (pair.getD (0, false)).2, otype, dev, false, 0, 0, none⟩

/-- A read of core k goes out to the interconnect: its number, and the state. -/
def sendRead (s : State) (k a : Nat) (pair dev : Bool) : Nat × State :=
  let (id, t) := newRead s k
  (id, sendReq t k (readReq a pair dev id))

/-- A result of the cache path. -/
def ofFound : Found → MemRes
  | .word w h t s n => .now w h t s n
  | .pend s id n => .wait s id n
  | .full s => .hold s
  | .fault s c v => .fault s c v

/-- Change the state that an access leaves, where it has been made. -/
def MemRes.map (f : State → State) : MemRes → MemRes
  | .now w h t s n => .now w h t (f s) n
  | .wait s id n => .wait (f s) id n
  | r => r

/-- The physical address of an access with permission bit `perm`, as far as it is known before it (R240). -/
def physOf (s : State) (k a perm : Nat) : Nat :=
  if isSv k then
    match translate s k a perm with
    | .ok tr => tr.pa
    | .error _ => a
  else a

/-- DEV of an uncached supervisor access (R498). -/
def Trans.dev (tr : Trans) : Bool := !(targetOf tr.pa == .host && !tr.se)

/-- An uncached access of a supervisor: it emits a buffer with its line, and waits for a write-back of its line (R210, R288, R289). -/
def uncached (s : State) (k : Nat) (tr : Trans) (go : State → MemRes) : MemRes :=
  let t := wcSame s k (tr.pa / 8)
  if leaving t k (tr.pa / 8) then .hold t else go t

/-- An uncached store has passed the prefetches of its line: the side buffer drops it, and a fill under way for it brings nothing
(R210, R290). -/
def dropPrefetched (s : State) (k line : Nat) : State :=
  onSvc s k (fun x => { x with
    side := x.side.filter (fun l => l.line != line),
    fills := x.fills.map (fun f => if f.line == line && (f.use == .preI || f.use == .preD) then { f with use := .drop } else f) })

/-- A load of core k at address a after its token checks (R209, R285), but for watchpoints. A retry at its own scratchpad's port adds to
its cost (R181). -/
def loadAt (s : State) (k a : Nat) (pair : Bool) : MemRes :=
  let ask (s : State) (pa : Nat) (dev : Bool) : MemRes :=
    let (id, t) := sendRead s k pa pair dev
    .wait t id (1 + latency pa)
  if isSv k then
    match translate s k a 0 with
    | .error e => .fault s e.1 e.2
    | .ok tr =>
      if tr.cached && dServes s k then ofFound (cachedLoad s k tr pair)
      else uncached s k tr (fun t => ask t tr.pa tr.dev)
  else if 2 ^ 40 ≤ a then .fault s 0x38 (BitVec.ofNat 48 a)
  else if ownSp k a then
    if clearingAt s a then .hold s
    else if pair then
      let r := arrayReadPair s a (corePort k)
      if r.1 = 0 then .now r.2.1.w0 r.2.1.w1 r.2.1.tag r.2.2 (1 + spentSince s r.2.2 k) else .fault r.2.2 (codeFault r.1) (BitVec.ofNat 48 a)
    else
      let r := arrayRead s a (corePort k)
      if r.1 = 0 then .now r.2.1 0 false r.2.2 (1 + spentSince s r.2.2 k) else .fault r.2.2 (codeFault r.1) (BitVec.ofNat 48 a)
  else ask s a true

/-- A load of core k at address a after its token checks, watched (R520). -/
def coreLoad (s : State) (k a : Nat) (pair : Bool) : MemRes :=
  (loadAt s k a pair).map (fun t => wpMark t k (physOf s k a 0) false pair)

/-- A store of core k of a word, or of a token pair with its tag, through a token of type `otype`
(R181, R209, R210, R236, R285), but for watchpoints. -/
def storeAt (s : State) (k a : Nat) (v : Word) (pair : Option (Word × Bool)) (otype : Nat) : MemRes :=
  if isSv k then
    match translate s k a 1 with
    | .error e => .fault s e.1 e.2
    | .ok tr =>
      if tr.cached && dServes s k then ofFound (cachedStore s k tr v pair)
      else uncached (wcEmit s k) k tr (fun t =>
        .now 0 0 false (sendReq (dropPrefetched t k (tr.pa / 8)) k
          (writeReq tr.pa v pair otype tr.dev)) 1)
  else if 2 ^ 40 ≤ a then .fault s 0x38 (BitVec.ofNat 48 a)
  else if ownSp k a then
    if clearingAt s a then .hold s
    else
      let r := match pair with
        | some p => arrayWritePair s a (corePort k) ⟨v, p.1, p.2⟩
        | none => arrayWrite s a (corePort k) v
      if r.1 = 0 then .now 0 0 false r.2 (1 + spentSince s r.2 k) else .fault r.2 (codeFault r.1) (BitVec.ofNat 48 a)
  else .now 0 0 false (sendReq s k (writeReq a v pair otype true)) 1

/-- A store of core k, watched (R520). -/
def coreStore (s : State) (k a : Nat) (v : Word) (pair : Option (Word × Bool)) (otype : Nat) : MemRes :=
  (storeAt s k a v pair otype).map (fun t => wpMark t k (physOf s k a 1) true pair.isSome)

/-- The checks of R208 on token register t for permission bits, and the bounds of n words from offset o:
the fault, or the address of the first word. -/
def tokenCheck (T : Tok) (t : Nat) (need : List Nat) (o : Int) (n : Nat) : Except (Nat × Word) Nat :=
  if !T.tag then .error (0x20, BitVec.ofNat 48 t)
  else if T.sealed then .error (0x21, BitVec.ofNat 48 t)
  else if !need.all T.mayMem then .error (0x22, BitVec.ofNat 48 t)
  else if o < 0 || (T.len : Int) < o + n then .error (0x23, wordOfInt o)
  else .ok ((T.base + o.toNat) % 2 ^ 48)

/-- The wait of a load whose instruction completes with it; `a` is its physical address. -/
def loadWait (s : State) (k pops len a id min : Nat) : IRes :=
  .wait (setCore s k { coreOf s k with wait := .load (some pops) len (BitVec.ofNat 48 a) false id min })

/-- A load through token register t at offset o, popping `pops` operands (R207, R208). -/
def loadBody (t pops len : Nat) (o : Bank → Int) (s : State) (k _now : Nat) : IRes :=
  let b := bankOf s k
  match tokenCheck (b.tok t) t [0] (o b) 1 with
  | .error e => .fault s e.1 e.2
  | .ok a =>
    match coreLoad s k a false with
    | .fault s c v => .fault s c v
    | .hold s => .hold s
    | .wait u id n => loadWait u k pops len (physOf s k a 0) id n
    | .now w _ _ s n => .done (onBank s k (fun b => b.pops pops [w])) n

/-- A store of the value `v` through token register t at offset o, popping `pops` operands. -/
def storeBody (t pops : Nat) (o : Bank → Int) (v : Bank → Word) (s : State) (k _now : Nat) : IRes :=
  let b := bankOf s k
  match tokenCheck (b.tok t) t [1] (o b) 1 with
  | .error e => .fault s e.1 e.2
  | .ok a =>
    match coreStore s k a (v b) none (b.tok t).otype with
    | .fault s c v => .fault s c v
    | .hold s => .hold s
    | .wait s _ _ => .wait s
    | .now _ _ _ s n => .done (onBank s k (fun b => b.drop pops)) n

/-- The index in TOS, signed. -/
def topIndex (b : Bank) : Int := (b.peek 0).toInt

def insLdw (t : Fin 16) (d : Fin 32) : Ins :=
  { parcels := sh 0x18 (t.val + 16 * d.val), c := 0, p := 1, cls := .m,
    body := loadBody t.val 0 1 (fun _ => (d.val : Int)) }
def insStw (t : Fin 16) (d : Fin 32) : Ins :=
  { parcels := sh 0x19 (t.val + 16 * d.val), c := 1, p := 0, cls := .m,
    body := storeBody t.val 1 (fun _ => (d.val : Int)) (fun b => b.peek 0) }
def insLdwx (t : Fin 16) (d : Fin 32) : Ins :=
  { parcels := sh 0x1A (t.val + 16 * d.val), c := 1, p := 1, cls := .m,
    body := loadBody t.val 1 1 (fun b => topIndex b + d.val) }
def insStwx (t : Fin 16) (d : Fin 32) : Ins :=
  { parcels := sh 0x1B (t.val + 16 * d.val), c := 2, p := 0, cls := .m,
    body := storeBody t.val 2 (fun b => topIndex b + d.val) (fun b => b.peek 1) }
def insLdwd (ps : Fin 8) (sn : Bool) (t : Fin 16) (d : BitVec 16) : Ins :=
  { parcels := lg (0x020 + t.val) ps sn d.toNat, guard := lgGuard ps sn, illegal := badGuard ps sn,
    c := 0, p := 1, cls := .m, body := loadBody t.val 0 2 (fun _ => (d.toNat : Int)) }
def insStwd (ps : Fin 8) (sn : Bool) (t : Fin 16) (d : BitVec 16) : Ins :=
  { parcels := lg (0x030 + t.val) ps sn d.toNat, guard := lgGuard ps sn, illegal := badGuard ps sn,
    c := 1, p := 0, cls := .m, body := storeBody t.val 1 (fun _ => (d.toNat : Int)) (fun b => b.peek 0) }
def insLdwxd (ps : Fin 8) (sn : Bool) (t : Fin 16) (d : BitVec 16) : Ins :=
  { parcels := lg (0x040 + t.val) ps sn d.toNat, guard := lgGuard ps sn, illegal := badGuard ps sn,
    c := 1, p := 1, cls := .m, body := loadBody t.val 1 2 (fun b => topIndex b + d.toNat) }
def insStwxd (ps : Fin 8) (sn : Bool) (t : Fin 16) (d : BitVec 16) : Ins :=
  { parcels := lg (0x050 + t.val) ps sn d.toNat, guard := lgGuard ps sn, illegal := badGuard ps sn,
    c := 2, p := 0, cls := .m, body := storeBody t.val 2 (fun b => topIndex b + d.toNat) (fun b => b.peek 1) }

/-- BCHK (R211): neither sealing nor permissions are checked. -/
def insBchk (t : Fin 16) : Ins :=
  { parcels := sh 0x1C t.val, c := 1, p := 1, cls := .m,
    body := fun s k _ =>
      let T := (bankOf s k).tok t.val
      let v := (bankOf s k).peek 0
      if !T.tag then .fault s 0x20 (BitVec.ofNat 48 t.val)
      else if v.toInt < 0 || (T.len : Int) ≤ v.toInt then .fault s 0x28 v
      else fin1 s }

/-- BCHKR (R211): (v lo hi -- v). -/
def insBchkr : Ins :=
  { parcels := sh 0x1D 0, c := 3, p := 1, cls := .m,
    body := fun s k _ =>
      let b := bankOf s k
      let v := (b.peek 2).toInt
      if (b.peek 1).toInt ≤ v && v ≤ (b.peek 0).toInt then fin1 (onBank s k (fun b => b.drop 2))
      else .fault s 0x28 (b.peek 2) }

end Sys2Proof.Machine
end

