-- ==== Sys2Proof/Machine/CoreSys.lean ====
section
/-! DEFINITION. Control transfers, system registers, tokens and long instructions of a core (R212 to R229,
R237 to R255). -/

namespace Sys2Proof.Machine

/-! Control transfers (R212 to R216, R227 to R229). -/

/-- The instruction's transfer is conditional: its own guard is not P0, or a GRD covers it (R214). -/
def conditional (c : Core) (g : Option (Nat × Bool)) : Bool :=
  c.grem != 0 || (match g with
    | some (0, _) => false
    | some _ => true
    | none => false)

/-- Prediction decides on a supervisor outside DETM, and the spec leaves it open: 1 or 5 (R229). -/
def predicted (s : State) : Nat × State :=
  let b := freshBit s
  (if b.1 then 1 else 5, b.2)

/-- Cost of a transfer that is taken (R227 to R229). `fixed`: it is 3. -/
def takenCost (s : State) (k : Nat) (fixed cond back : Bool) : Nat × State :=
  let c := coreOf s k
  if isSv k && !c.detmAct then predicted s
  else if fixed || c.detmAct || (cond && !back) then (3, s) else (2, s)

/-- A conditional transfer is not taken (R228, R229). -/
def notTaken (fixed back : Bool) (s : State) (k : Nat) : IRes :=
  let c := coreOf s k
  if isSv k && !c.detmAct then .done (predicted s).2 (predicted s).1
  else .done s (if fixed then 3 else if c.detmAct || back then 2 else 1)

/-- What a call or return does to the return stack and the frame (R166, R167). -/
inductive Frames where
  | plain | call | callF | ret | retF
deriving DecidableEq, Repr

/-- The fault of the return-stack and frame checks, if any (R166, R167, R214). -/
def framesFault (b : Bank) : Frames → Option (Nat × Word)
  | .plain => none
  | .call => if 32 ≤ b.rsp then some (0x15, BitVec.ofNat 48 b.rsp) else none
  | .callF =>
    if 32 ≤ b.rsp then some (0x15, BitVec.ofNat 48 b.rsp)
    else if 15 ≤ b.fd then some (0x17, BitVec.ofNat 48 b.fd) else none
  | .ret => if b.rsp = 0 then some (0x14, BitVec.ofNat 48 b.rsp) else none
  | .retF =>
    if b.rsp = 0 then some (0x14, BitVec.ofNat 48 b.rsp)
    else if b.fd = 0 then some (0x16, BitVec.ofNat 48 b.fd) else none

/-- The bank after a call that returns to `ret`, or after a return. -/
def framesDo (b : Bank) (ret : Word) : Frames → Bank
  | .plain => b
  | .call => b.rpush ret
  | .callF => { b.rpush ret with fd := b.fd + 1 }
  | .ret => b.rdrop
  | .retF => { b.rdrop with fd := b.fd - 1 }

/-- The direction of a return: that of its target. -/
def backTo (tgt : Core → Word) (c : Core) : Bool := pcParcel (tgt c) ≤ pcParcel c.pc

/-- A transfer of `len` parcels to `tgt`, popping `c` operands (R163, R214). `fixed`: its cost is 3; `back`: it goes
backward (R212). -/
def transfer (len c : Nat) (g : Option (Nat × Bool)) (fixed : Bool) (fr : Frames) (tgt : Core → Word) (back : Core → Bool)
    (s : State) (k _now : Nat) : IRes :=
  let co := coreOf s k
  match framesFault co.cur fr with
  | some f => .fault s f.1 f.2
  | none =>
    let dst := tgt co
    if pcSlot dst = 3 then .fault s 0x10 dst
    else
      let r := takenCost s k fixed (conditional co g) (back co)
      .jump (onBank r.2 k (fun b => framesDo (b.drop c) (pcAdd co.pc len) fr)) dst r.1

/-- A relative transfer in short form. -/
def brIns (opc : Nat) (off : BitVec 9) (fr : Frames) : Ins :=
  { parcels := sh opc off.toNat, cls := .b, skip := notTaken false (off.toInt ≤ 0),
    body := transfer 1 0 none false fr (fun c => pcAdd c.pc off.toInt) (fun _ => off.toInt ≤ 0) }

/-- A relative transfer in long form. -/
def brlIns (opc : Nat) (ps : Fin 8) (sn : Bool) (off : BitVec 16) (fr : Frames) : Ins :=
  { parcels := lg opc ps sn off.toNat, guard := lgGuard ps sn, illegal := badGuard ps sn, cls := .b,
    skip := notTaken false (off.toInt ≤ 0),
    body := transfer 2 0 (lgGuard ps sn) false fr (fun c => pcAdd c.pc off.toInt) (fun _ => off.toInt ≤ 0) }

def insBr (off : BitVec 9) : Ins := brIns 0x20 off .plain
def insCall (off : BitVec 9) : Ins := brIns 0x21 off .call
def insCallf (off : BitVec 9) : Ins := brIns 0x22 off .callF
def insBrl (ps : Fin 8) (sn : Bool) (off : BitVec 16) : Ins := brlIns 0x100 ps sn off .plain
def insCalll (ps : Fin 8) (sn : Bool) (off : BitVec 16) : Ins := brlIns 0x101 ps sn off .call
def insCallfl (ps : Fin 8) (sn : Bool) (off : BitVec 16) : Ins := brlIns 0x102 ps sn off .callF

/-- A return: its direction is that of the PC on the return stack. -/
def retIns (f : Nat) (fr : Frames) : Ins :=
  { parcels := sh 0x23 f, cls := .b,
    skip := fun s k => notTaken false (backTo (fun c => pcOfWord c.cur.rtop) (coreOf s k)) s k,
    body := transfer 1 0 none false fr (fun c => pcOfWord c.cur.rtop) (backTo (fun c => pcOfWord c.cur.rtop)) }

def insRet : Ins := retIns 0 .ret
def insRetf : Ins := retIns 1 .retF

/-- A transfer to a PC from the operand stack. -/
def jmpIns (f : Nat) (fr : Frames) : Ins :=
  { parcels := sh 0x23 f, c := 1, p := 0, cls := .b, skip := notTaken true false,
    body := transfer 1 1 none true fr (fun c => pcOfWord (c.cur.peek 0)) (fun _ => false) }

def insJmpi : Ins := jmpIns 2 .plain
def insCalli : Ins := jmpIns 3 .call
def insCallfi : Ins := jmpIns 4 .callF

/-- LOOP (R172, R216): `endLong` is the L bit of the first parcel of the instruction at LEND. -/
def insLoop (ps : Fin 8) (sn : Bool) (e : BitVec 16) (endLong : Bool) : Ins :=
  { parcels := lg 0x103 ps sn e.toNat, guard := lgGuard ps sn, illegal := badGuard ps sn || e.toNat < 2,
    c := 1, p := 0, cls := .b,
    body := fun s k _ =>
      let c := coreOf s k
      let b := c.cur
      let n := b.peek 0
      let fin := pcAdd c.pc e.toNat
      if n == 0 then .jump (onBank s k (fun b => b.drop 1)) (pcAdd fin (1 + b2n endLong : Nat)) 3
      else if 3 ≤ b.ld then .fault s 0x18 n
      else .done (onBank s k (fun b => { (b.drop 1).setLoop b.ld (pcAdd c.pc 2) fin n with ld := b.ld + 1 })) 1 }

/-- LEXIT (R216). -/
def insLexit : Ins :=
  { parcels := sh 0x23 5, cls := .b,
    body := fun s k _ => fin1 (onBank s k (fun b =>
      if b.ld = 0 then b else { b with lcnt := tset 0 b.lcnt (b.ld - 1) 0, ld := b.ld - 1 })) }

/-! Return-stack data (R215), division (R219). -/

def insTor : Ins :=
  { parcels := sh 0x23 9, c := 1, p := 0, cls := .a,
    body := fun s k _ =>
      let b := bankOf s k
      match framesFault b .call with
      | some f => .fault s f.1 f.2
      | none => fin1 (onBank s k (fun b => (b.drop 1).rpush (b.peek 0))) }

/-- FROMR and RFETCH: push the top of the return stack. -/
def rstkIns (f : Nat) (pop : Bool) : Ins :=
  { parcels := sh 0x23 f, c := 0, p := 1, cls := .p,
    body := fun s k _ =>
      let b := bankOf s k
      match framesFault b .ret with
      | some e => .fault s e.1 e.2
      | none => fin1 (onBank s k (fun b => if pop then (b.push b.rtop).rdrop else b.push b.rtop)) }

def insFromr : Ins := rstkIns 0xA true
def insRfetch : Ins := rstkIns 0xB false

/-- Quotient and remainder of DIV (R219). -/
def divS (a b : Word) : Word × Word :=
  if b == 0 then (-1, a)
  else if a.toInt == intMin 48 && b == -1 then (a, 0)
  else (wordOfInt (a.toInt.tdiv b.toInt), wordOfInt (a.toInt.tmod b.toInt))

/-- Quotient and remainder of DIVU. -/
def divU (a b : Word) : Word × Word :=
  if b == 0 then (-1, a) else (BitVec.ofNat 48 (a.toNat / b.toNat), BitVec.ofNat 48 (a.toNat % b.toNat))

/-- A division takes 26 cycles for all operands. -/
def divIns (f : Nat) (op : Word → Word → Word × Word) : Ins :=
  { parcels := sh 0x23 f, c := 2, p := 2, cls := .s, skip := fun s _ => .done s 26,
    body := fun s k _ =>
      let b := bankOf s k
      let r := op (b.peek 1) (b.peek 0)
      .done (onBank s k (fun b => b.pops 2 [r.1, r.2])) 26 }

def insDiv : Ins := divIns 0xC divS
def insDivu : Ins := divIns 0xD divU

/-! System calls and the return from a level (R247, R248, R252). -/

def insScall (n : Fin 8) : Ins :=
  { parcels := sh 0x24 n.val, cls := .s, skip := fun s _ => .done s 4,
    body := fun s k _ =>
      let c := coreOf s k
      let e := c.ecp n.val
      let d := tget Tok.zero c.ed n.val
      if !e.tag then .fault s 0x27 (BitVec.ofNat 48 n.val)
      else if c.inCall c.lvl then .fault s 0x2A (BitVec.ofNat 48 n.val)
      else
        let c := { c with srpc := tset 0 c.srpc c.lvl (pcAdd c.pc 1), srct := tset Tok.zero c.srct c.lvl (c.code c.lvl),
                          srt15 := tset Tok.zero c.srt15 c.lvl (c.cur.tok 15), scin := natBit c.scin c.lvl true }
        let c := (c.setCode c.lvl (e.retype 0)).withCur (fun b => b.setTok 15 (if d.tag then d.retype 0 else Tok.zero))
        .jump (setCore s k c) (pcMk e.base 0) 4 }

def insSret : Ins :=
  { parcels := sh 0x23 6, cls := .s, skip := fun s _ => .done s 4,
    body := fun s k _ =>
      let c := coreOf s k
      if !c.inCall c.lvl then .fault s 0x2B 0
      else
        let c := { c with scin := natBit c.scin c.lvl false }
        let c := (c.setCode c.lvl (tget Tok.zero c.srct c.lvl)).withCur (fun b => b.setTok 15 (tget Tok.zero c.srt15 c.lvl))
        .jump (setCore s k c) (tget 0 c.srpc c.lvl) 4 }

/-- The core after ERET at its level with saved status `t` (R252). The accepted reads of instructions that it does not go back to are
given up. -/
def eretCore (c : Core) (t : Word) : Core :=
  let d := c.setMask (bitOf t 31) (bitOf t 30)
  let j := (Fld.mk 33 32).get t
  let pc := pcOfWord (c.sr (srSpc c.lvl))
  { d with lvl := j, pc := pc, step := (Fld.mk 47 40).get t,
           gps := (Fld.mk 39 37).get t, gsn := bitOf t 36, grem := (Fld.mk 35 34).get t, gpc := none, hdr := none,
           hold := [], got := none, kept := c.kept.filter (fun x => x.lvl < j || (x.lvl == j && x.pc == pc)) }

def insEret : Ins :=
  { parcels := sh 0x23 7, cls := .s, skip := fun s _ => .done s 5,
    body := fun s k _ =>
      let c := coreOf s k
      let t := c.sr (srSst c.lvl)
      let j := (Fld.mk 33 32).get t
      if c.lvl = 0 then .fault s 0x10 (BitVec.ofNat 48 0x4607)
      else if c.lvl < j || (j = c.lvl && c.lvl ≠ 1) then .fault s 0x10 t
      else if pcSlot (pcOfWord (c.sr (srSpc c.lvl))) = 3 then .fault s 0x10 (pcOfWord (c.sr (srSpc c.lvl)))
      else .back (setCore s k (eretCore c t)) 5 }

/-! Events and FENCE (R220, R221, R295). -/

/-- EVPOLL: push EF AND m and clear those flags. -/
def evpoll (s : State) (k m : Nat) : State :=
  let c := coreOf s k
  let f := c.ef &&& m
  setCore s k ({ c with ef := c.ef - f }.withCur (fun b => b.push (BitVec.ofNat 48 f)))

def insEvpoll (m : Fin 16) : Ins :=
  { parcels := sh 0x26 m.val, c := 0, p := 1, cls := .s, body := fun s k _ => fin1 (evpoll s k m.val) }

def insWait (m : Fin 16) : Ins :=
  { parcels := sh 0x25 m.val, c := 0, p := 1, cls := .s,
    skip := fun s k =>
      if (coreOf s k).ef &&& m.val != 0 then .done s 1
      else .wait (setCore s k { coreOf s k with wait := .event m.val 1 true }),
    body := fun s k _ =>
      let c := coreOf s k
      if c.ef &&& m.val != 0 then fin1 (evpoll s k m.val)
      else .wait (setCore s k { c with wait := .event m.val 1 false }) }

/-- Every posted store of core k has completed (R221). -/
def postedDone (s : State) (k : Nat) : Bool := (coreOf s k).posted.isEmpty && !(coreOf s k).reqs.any (·.write)

/-- Nothing that FENCE waits for is left on core k (R221, R295): posted stores, the write-combining buffer, write-backs that an
operation of R294 or the buffer has posted, and OPBUSY. -/
def fenceClear (s : State) (k : Nat) : Bool :=
  let v := svcOf s k
  postedDone s k && v.wcb.isNone && !v.wbq.any (·.maint) && v.bgop == 0

/-- An asynchronous fault of core k is pending, or has reached it, that it takes at its level (R257). -/
def asyncWaits (s : State) (k : Nat) : Bool :=
  let c := coreOf s k
  c.lvl != 3 && (!c.asyncs.isEmpty || s.sig.asyncs.any (fun x => x.1 == k))

/-- FENCE (R221, R295). A fault of a store that it waited for comes before it completes. One whose guard fails takes the time of
its posted stores and has no effect (R171). -/
def insFence : Ins :=
  { parcels := sh 0x23 8, cls := .s,
    skip := fun s k => if postedDone s k then .done s 1 else .wait (setCore s k { coreOf s k with wait := .fence true }),
    body := fun s k _ =>
      let t := wcEmit s k
      if fenceClear t k && !asyncWaits t k then fin1 t else .wait (setCore t k { coreOf t k with wait := .fence false }) }

/-! System registers (R184, R218, R236, R262, R308). -/

/-- A token authorises RWT fields of the core's registers (R234). -/
def coreControl (t : Tok) : Bool := t.tag && t.otype == 0x20

/-- CSTAT (R184). -/
def cstat (c : Core) : Word :=
  let b := c.cur
  BitVec.ofNat 48 (c.lvl * 2 ^ 46 + b.osp * 2 ^ 40 + b.rsp * 2 ^ 34 + b.fd * 2 ^ 30 + b.ld * 2 ^ 28
    + b2n b.accOvf * 2 ^ 9 + b2n c.detmAct * 2 ^ 8 + b.preds + 1)

/-- ASYNCP (R262). -/
def asyncp (c : Core) : Word :=
  let has (n : Nat) : Nat := b2n (c.asyncs.any (fun p => p.1 == n))
  BitVec.ofNat 48 (has 0x39 * 16 + b2n c.lost * 8 + has 0x3B * 4 + has 0x3A * 2 + has 0x38)

/-- A read of core system register n (but BKDAT): the value and the state after RC fields clear. -/
def readSr (s : State) (k n : Nat) : Word × State :=
  let c := coreOf s k
  let b := c.cur
  if n = 0 then (cstat c, s)
  else if n = 1 then (BitVec.ofNat 48 (k + 16 * b2n (isSv k)), s)
  else if n = 2 then (setBit (c.sr 2) 1 (isSv k && dCleaning s k), s)
  else if 0x08 ≤ n && n < 0x0B then (b.lb (n - 0x08), s)
  else if 0x0C ≤ n && n < 0x0F then (b.le (n - 0x0C), s)
  else if 0x10 ≤ n && n < 0x13 then (b.lc (n - 0x10), s)
  else if n = 0x20 then (if c.lvl = 0 then 0 else c.sr (srScause c.lvl), s)
  else if n = 0x21 then (if c.lvl = 0 then 0 else c.sr (srScausev c.lvl), s)
  else if n = 0x24 then (BitVec.ofNat 48 (c.scin * 16 + b2n c.rootLock), s)
  else if n = 0x25 then (asyncp c, setCore s k { c with lost := false })
  else if 0x34 ≤ n && n < 0x38 then (tget 0 c.srpc (n - 0x34), s)
  else if n = srCnt0 || n = srCnt1 then (c.sr n, setCore s k (c.setSr n 0))
  else (c.sr n, s)

/-- Bits that a write of core system register n may set, and those of them that need the core-control
token (R184, R262, R308). -/
def srWritable (k n : Nat) : Word × Word :=
  let full : Word := maskOf 47 0
  if n = 0x02 then (1, 1)
  else if n = 0x03 then (maskOf 10 0, 0)
  else if n = 0x22 then (maskOf 7 0, maskOf 7 0)
  else if n = 0x23 then (maskOf 1 0, maskOf 1 0)
  else if n = 0x26 then (maskOf 39 0, maskOf 39 0)
  else if n = 0x27 then (maskOf 32 0, maskOf 32 0)
  else if 0x28 ≤ n && n < 0x34 then
    let m := match (n - 0x28) % 4 with
      | 0 => maskOf 41 0
      | 1 => maskOf 47 30
      | 2 => maskOf 11 0
      | _ => full
    (m, m)
  else if !isSv k then (0, 0)
  else if n = srCtrl then (0xF3B, 0xF3B)
  else if n = srWayen then (0xF00FF, 0xF00FF)
  else if n = srCmaddr then (full, 0)
  else if n = srCmop then (7, 7)
  else if n = srL2cfg then (0x13F, 0x13F)
  else if n = srTlbhi then (maskOf 47 7 ||| maskOf 5 0, 0)
  else if n = srTlblo then (maskOf 39 12 ||| maskOf 4 0, 0)
  else if n = srTlbcmd then (maskOf 13 8 ||| 7, maskOf 13 8 ||| 7)
  else if n = srTlbctl then (maskOf 11 8 ||| maskOf 5 0, maskOf 11 8 ||| maskOf 5 0)
  else (0, 0)

/-- How a write of a system register ends: done, done but for its RWT fields, a fault, or not yet. -/
inductive SrRes where
  | ok (s : State)
  | denied (s : State)
  | fault (code : Nat) (v : Word)
  | hold

/-- Registers with RWT fields. -/
def srGuarded (k n : Nat) : Bool := n = 0x24 || (srWritable k n).2 != 0

/-- The value stored by a write of v over the stored value. -/
def srMerge (old v mask : Word) : Word := (old &&& ~~~mask) ||| (v &&& mask)

/-- DMCTL written (R181). -/
def detmWrite (s : State) (k : Nat) (b : Bool) : State :=
  let c := (coreOf s k).setSr 2 (BitVec.ofNat 48 (b2n b))
  if isSv k then cacheSync (setCore s k (if b then c else { c with detmAct := false })) k
  else setCore s k { c with detmAct := b }

/-- TOKCTL written: ones abandon calls and set ROOTLOCK (R237, R248, R262). -/
def tokctlWrite (s : State) (k : Nat) (v : Word) : State :=
  let c := coreOf s k
  let ab := (Fld.mk 7 4).get v
  setCore s k { c with scin := c.scin - (c.scin &&& ab), rootLock := c.rootLock || bitOf v 0 }

/-- SVC_CMOP written (R294). An operation on a line waits for its fill; its look-ups and write-backs act at once. -/
def cmopWrite (s : State) (k op : Nat) : SrRes :=
  let t := srw s k srCmop ⟨2, 0⟩ op
  if srf s k srSts ⟨5, 5⟩ == 1 then .hold
  else if op = 0 then .ok t
  else if op < 5 then
    let va := ((coreOf s k).sr srCmaddr).toNat
    match translate s k va (if op = 1 then 0 else if op = 4 then 2 else 1) with
    | .error e => .fault e.1 e.2
    | .ok tr =>
      let line := tr.pa / 8
      if (fillOf s k line).isSome then .hold
      else .ok (if op = 1 then cleanLine t k line else if op = 2 then invLine t k line
        else if op = 3 then invLine (cleanLine t k line) k line else icInvLine t k line)
  else .ok (bgStart t k op)

/-- The prefetches that wait are discarded: they were translated by an entry that goes (R306). -/
def dropPrefetches (s : State) (k : Nat) : State := onSvc s k (fun v => { v with pfq := [] })

/-- SVC_TLBCMD written: a command that clears V waits for the accesses of the old translation (R305, R306). -/
def tlbcmdWrite (s : State) (k : Nat) (v : Word) : SrRes :=
  let op := (Fld.mk 2 0).get v
  let i := (Fld.mk 13 8).get v
  let clears := op = 4 || op = 5 || (op = 2 && !tlbV ((coreOf s k).sr srTlbhi))
  if clears && !(coreOf s k).reqs.isEmpty then .hold
  else
    let t := if clears then dropPrefetches s k else s
    .ok (if op = 0 || 6 ≤ op then srw t k srTlbcmd ⟨13, 8⟩ i else tlbCommand t k op i)

/-- A write of core system register n (but BKDAT) under a token (R218, R236). -/
def writeSr (s : State) (k n : Nat) (T : Tok) (v : Word) : SrRes :=
  let c := coreOf s k
  let may := coreControl T
  if n = 0 then .ok (onBank s k (fun b => { b with accOvf := b.accOvf && !bitOf v 9 }))
  else if 0x08 ≤ n && n < 0x0B then .ok (onBank s k (fun b => { b with lbeg := tset 0 b.lbeg (n - 0x08) (pcOfWord v) }))
  else if 0x0C ≤ n && n < 0x0F then .ok (onBank s k (fun b => { b with lend := tset 0 b.lend (n - 0x0C) (pcOfWord v) }))
  else if 0x10 ≤ n && n < 0x13 then .ok (onBank s k (fun b => { b with lcnt := tset 0 b.lcnt (n - 0x10) v }))
  else if n = srSts && isSv k then .ok (if bitOf v 8 then srw s k srSts ⟨8, 8⟩ 0 else s)
  else if srGuarded k n && !may then .denied s
  else if n = 0x02 then .ok (detmWrite s k (bitOf v 0))
  else if n = 0x24 then .ok (tokctlWrite s k v)
  else if isSv k && n = srL2cfg then .ok (l2cfgWrite s k v)
  else if isSv k && n = srCmop then cmopWrite s k ((Fld.mk 2 0).get v)
  else if isSv k && n = srTlbcmd then tlbcmdWrite s k v
  else if isSv k && n = srTlbctl && !c.reqs.isEmpty then .hold
  else
    let t := setCore s k (c.setSr n (srMerge (c.sr n) v (srWritable k n).1))
    if isSv k && n = srCtrl then .ok (cacheSync (if (svcOf t k).stream then streamEnd t k else t) k)
    else if isSv k && n = srTlbctl then .ok (dropPrefetches t k)
    else if isSv k && n = srWayen then .ok (waySync t k)
    else .ok t

/-- The check of BKDAT's naming token for a permission bit (R170, R218). -/
def bkTokenFault (T : Tok) (t bit : Nat) : Option (Nat × Word) :=
  if !T.tag then some (0x20, BitVec.ofNat 48 t)
  else if T.sealed then some (0x21, BitVec.ofNat 48 t)
  else if T.otype != 0x21 || !T.may bit then some (0x22, BitVec.ofNat 48 t)
  else none

/-- Bank and item that BKWIN selects. -/
def bkBank (c : Core) : Nat := (Fld.mk 10 9).get (c.sr 3)
def bkItem (c : Core) : Nat := (Fld.mk 8 0).get (c.sr 3)

/-- The selected item waits for a load that an entry has passed (R180). -/
def bkWaits (c : Core) : Bool := bkItem c < 0x20 && (c.bank (bkBank c)).resv.contains (bkItem c)

/-- RDSR of BKDAT through token register t (R170). -/
def bkdatRead (t : Nat) (s : State) (k _now : Nat) : IRes :=
  let c := coreOf s k
  match bkTokenFault (c.cur.tok t) t 0 with
  | some e => .fault s e.1 e.2
  | none =>
    if bkBank c = c.lvl then
      let r := freshWord s
      fin1 (onBank r.2 k (fun b => b.push r.1))
    else if bkWaits c then .hold s
    else fin1 (onBank s k (fun b => b.push ((c.bank (bkBank c)).item (bkItem c))))

/-- WRSR of BKDAT through token register t (R170). -/
def bkdatWrite (t : Nat) (s : State) (k _now : Nat) : IRes :=
  let c := coreOf s k
  match bkTokenFault (c.cur.tok t) t 1 with
  | some e => .fault s e.1 e.2
  | none =>
    let d := c.withCur (fun b => b.drop 1)
    if bkBank c = c.lvl then .done (setCore s k d) 2
    else .done (setCore s k (d.setBank (bkBank c) ((d.bank (bkBank c)).setItem (bkItem c) (c.cur.peek 0)))) 2

/-- RDSR of register n (R218). -/
def rdsrBody (t n : Nat) (s : State) (k now : Nat) : IRes :=
  if n = 4 then bkdatRead t s k now
  else
    let r := readSr s k n
    fin1 (onBank r.2 k (fun b => b.push r.1))

/-- WRSR of register n (R218, R236). -/
def wrsrBody (t n : Nat) (s : State) (k now : Nat) : IRes :=
  if n = 4 then bkdatWrite t s k now
  else
    let b := bankOf s k
    match writeSr s k n (b.tok t) (b.peek 0) with
    | .ok s => .done (onBank s k (fun b => b.drop 1)) 2
    | .denied s => .trail (onBank s k (fun b => b.drop 1)) 0x3A (BitVec.ofNat 48 n) 2
    | .fault c v => .fault s c v
    | .hold => .hold s

/-- EXT of RDSR and WRSR. -/
def srExt (t : Fin 16) (n : BitVec 9) : Nat := t.val * 2 ^ 12 + n.toNat

def insRdsr (ps : Fin 8) (sn : Bool) (t : Fin 16) (n : BitVec 9) : Ins :=
  { parcels := lg 0x104 ps sn (srExt t n), guard := lgGuard ps sn, illegal := badGuard ps sn,
    c := 0, p := 1, cls := .s, body := rdsrBody t.val n.toNat }
def insWrsr (ps : Fin 8) (sn : Bool) (t : Fin 16) (n : BitVec 9) : Ins :=
  { parcels := lg 0x105 ps sn (srExt t n), guard := lgGuard ps sn, illegal := badGuard ps sn,
    c := 1, p := 0, cls := .s, skip := fun s _ => .done s 2, body := wrsrBody t.val n.toNat }

end Sys2Proof.Machine
end

