-- ==== Sys2Proof/Machine/CoreTok.lean ====
section
/-! DEFINITION. Token management and the long instructions of a core (R222 to R226, R237 to R247). -/

namespace Sys2Proof.Machine

/-- Write token register d of the bank in use. -/
def setTokR (s : State) (k d : Nat) (t : Tok) : State := onBank s k (fun b => b.setTok d t)

/-- A token register number as a cause value. -/
def tv (t : Nat) : Word := BitVec.ofNat 48 t

/-! Copies and fields (R243, R244, R246). -/

def insTmov (d q : Fin 16) : Ins :=
  { parcels := sh 0x30 (q.val + 16 * d.val), cls := .s,
    body := fun s k _ => fin1 (setTokR s k d.val ((bankOf s k).tok q.val)) }

/-- Field f of a token (R243). -/
def tokField (t : Tok) (f : Nat) : Word :=
  match f with
  | 0 => t.w0
  | 1 => BitVec.ofNat 48 t.len
  | 2 => BitVec.ofNat 48 t.perm
  | 3 => BitVec.ofNat 48 t.otype
  | _ => BitVec.ofNat 48 (b2n t.tag)

def insTget (t : Fin 16) (f : Fin 8) : Ins :=
  { stackIns (sh 0x31 (t.val + 16 * f.val)) 0 1 .s (fun b => [tokField (b.tok t.val) f.val]) with illegal := 5 ≤ f.val }

def insTclr (t : Fin 16) : Ins :=
  { parcels := sh 0x32 t.val, cls := .s, body := fun s k _ => fin1 (setTokR s k t.val Tok.zero) }

def insTgete (d n : Fin 16) : Ins :=
  { parcels := sh 0x36 (d.val + 16 * n.val), illegal := 9 ≤ n.val, cls := .s,
    body := fun s k _ => fin1 (setTokR s k d.val ((coreOf s k).ecp n.val)) }

def insTgetct (d : Fin 16) : Ins :=
  { parcels := sh 0x37 d.val, cls := .s,
    body := fun s k _ => fin1 (setTokR s k d.val ((coreOf s k).code (coreOf s k).lvl)) }

/-! Derivation (R237, R239). -/

/-- TNARROW (R239): (off len m -- ). -/
def narrowBody (d q : Nat) (s : State) (k _now : Nat) : IRes :=
  let b := bankOf s k
  let T := b.tok q
  let off := (b.peek 2).toInt
  let len := (b.peek 1).toNat
  let m := (b.peek 0).toNat
  let keep := m.testBit 8
  if !T.tag then .fault s 0x20 (tv q)
  else if T.sealed then .fault s 0x21 (tv q)
  else if off < 0 || len = 0 || 2 ^ 32 < len || (T.len : Int) < off + len
      || (T.otype = 0x22 && keep && !(off = 0 && len = T.len)) then .fault s 0x24 (b.peek 2)
  else
    let t := Tok.mk4 ((T.base + off.toNat) % 2 ^ 48) len (T.perm &&& (m % 256)) (if keep then T.otype else 0)
    fin1 (onBank s k (fun b => (b.drop 3).setTok d t))

def insTnarrow (d q : Fin 16) : Ins :=
  { parcels := sh 0x33 (q.val + 16 * d.val), c := 3, p := 0, cls := .s, body := narrowBody d.val q.val }

/-- First word and length of a subsystem's register range, by its system type (R234, R264). -/
def sysRange (i : Nat) : Nat × Nat :=
  match i with
  | 1 => (0x40040000, 0x10000)
  | 2 => (0x40050000, 0x8000)
  | 3 => (0x40060000, 0x10000)
  | 4 => (0x40030000, 0x10000)
  | 5 => (0x40010000, 0x10000)
  | 6 => (0x40020000, 0x10000)
  | 7 => (0x40070000, 0x10000)
  | 8 => (0x40080000, 0x10000)
  | 9 => (0x40090000, 0x10000)
  | 10 => (0x400A0000, 0x10000)
  | 11 => (0x400B0000, 0x10000)
  | 12 => (0x400C0000, 0x10000)
  | 13 => (0x40000000, 0x10000)
  | 14 => (0x400D0000, 0x10000)
  | _ => (0, 1)

/-- The root that TROOT mints, if i meets its kind's requirement (R237). -/
def rootTok (kind i : Nat) : Option Tok :=
  match kind with
  | 0 => if i ≤ 255 then some (Tok.mk4 (i * 2 ^ 32) 0 0x9F 0) else none
  | 1 =>
    if (1 ≤ i && i ≤ 0x0E) || i = 0x20 || i = 0x21 then
      some (Tok.mk4 (sysRange i).1 (sysRange i).2 0x83 i)
    else none
  | _ => if 0x40 ≤ i && i ≤ 0xFF then some (Tok.mk4 i 1 0xE0 0x22) else none

def insTroot (d : Fin 16) (kind : Fin 4) : Ins :=
  { parcels := sh 0x38 (d.val + 16 * kind.val), illegal := kind.val == 3, c := 1, p := 0, cls := .s,
    body := fun s k _ =>
      let c := coreOf s k
      let i := c.cur.peek 0
      match (if c.rootLock then none else rootTok kind.val i.toNat) with
      | none => .fault s 0x26 i
      | some t => fin1 (onBank s k (fun b => (b.drop 1).setTok d.val t)) }

/-! Sealing (R241, R242). -/

/-- TSEAL (bit 5) and TUNSEAL (bit 6): the checks on the key and the token in order (R241). -/
def sealBody (d q key bit : Nat) (s : State) (k _now : Nat) : IRes :=
  let b := bankOf s k
  let T := b.tok q
  let K := b.tok key
  let kt := K.base % 256
  if !T.tag then .fault s 0x20 (tv q)
  else if !K.tag then .fault s 0x20 (tv key)
  else if K.sealed then .fault s 0x21 (tv key)
  else if K.otype != 0x22 then .fault s 0x25 (tv K.otype)
  else if !K.may bit then .fault s 0x22 (tv key)
  else if T.otype != (if bit = 5 then 0 else kt) then .fault s 0x25 (tv T.otype)
  else fin1 (setTokR s k d (T.retype (if bit = 5 then kt else 0)))

/-- EXT of TSEAL and TUNSEAL. -/
def sealExt (d q key : Fin 16) : Nat := d.val + 16 * q.val + 256 * key.val

def insTseal (ps : Fin 8) (sn : Bool) (d q key : Fin 16) : Ins :=
  { parcels := lg 0x200 ps sn (sealExt d q key), guard := lgGuard ps sn, illegal := badGuard ps sn, cls := .s,
    body := sealBody d.val q.val key.val 5 }
def insTunseal (ps : Fin 8) (sn : Bool) (d q key : Fin 16) : Ins :=
  { parcels := lg 0x201 ps sn (sealExt d q key), guard := lgGuard ps sn, illegal := badGuard ps sn, cls := .s,
    body := sealBody d.val q.val key.val 6 }

/-! Entry and code tokens (R245, R246). -/

/-- The parcels of an instruction as a cause value (R187). -/
def parcelsV (l : List Nat) : Word := BitVec.ofNat 48 (l.getD 0 0 + 2 ^ 16 * l.getD 1 0)

/-- A core-control key is named: the fault where it is not (R245, R246). -/
def keyFault (K : Tok) (key : Nat) : Option (Nat × Word) :=
  if !K.tag then some (0x20, tv key) else if K.otype != 0x20 then some (0x22, tv key) else none

/-- TSETE (R246). -/
def seteBody (n q key : Nat) (par : List Nat) (s : State) (k _now : Nat) : IRes :=
  let c := coreOf s k
  let b := c.cur
  let T := b.tok q
  let D := b.tok (q + 1)
  match keyFault (b.tok key) key with
  | some e => .fault s e.1 e.2
  | none =>
    if n < 8 && 14 < q then .fault s 0x10 (parcelsV par)
    else if !(T.tag && T.otype == 0xFF) then .fault s 0x25 (tv q)
    else if n < 8 && D.tag && D.otype != 0xFF then .fault s 0x25 (tv (q + 1))
    else
      let c := { c with ec := tset Tok.zero c.ec n T }
      fin1 (setCore s k (if n < 8 then { c with ed := tset Tok.zero c.ed n D } else c))

def insTsete (ps : Fin 8) (sn : Bool) (n q key : Fin 16) : Ins :=
  let par := lg 0x202 ps sn (q.val + 16 * n.val + 256 * key.val)
  { parcels := par, guard := lgGuard ps sn, illegal := badGuard ps sn || 9 ≤ n.val, cls := .s,
    body := seteBody n.val q.val key.val par }

/-- TSETCT (R245). -/
def setctBody (l q key : Nat) (par : List Nat) (s : State) (k _now : Nat) : IRes :=
  let c := coreOf s k
  let T := c.cur.tok q
  if c.lvl ≤ l then .fault s 0x10 (parcelsV par)
  else match keyFault (c.cur.tok key) key with
    | some e => .fault s e.1 e.2
    | none =>
      if !T.tag then .fault s 0x20 (tv q)
      else if T.sealed then .fault s 0x21 (tv q)
      else fin1 (setCore s k (c.setCode l T))

def insTsetct (ps : Fin 8) (sn : Bool) (l : Fin 4) (q key : Fin 16) : Ins :=
  let par := lg 0x203 ps sn (q.val + 16 * l.val + 256 * key.val)
  { parcels := par, guard := lgGuard ps sn, illegal := badGuard ps sn, cls := .s,
    body := setctBody l.val q.val key.val par }

/-! Token loads and stores (R240). -/

/-- The checks of TLD and TST on Ta for two words at offset o. -/
def pairCheck (T : Tok) (a : Nat) (need : List Nat) (o : Word) : Except (Nat × Word) Nat :=
  match tokenCheck T a need o.toInt 2 with
  | .error e => .error e
  | .ok x => if x % 2 = 1 then .error (0x23, o) else .ok x

/-- A word that came for the instruction at PC, taken from the core. -/
def takeGot (s : State) (k : Nat) : Option (Arrived × State) :=
  match (coreOf s k).got with
  | some g => some (g.2, setCore s k { coreOf s k with got := none })
  | none => none

/-- The accepted read of address `a` that a stop left to the instruction at PC (R179). -/
def keptFor (s : State) (k : Nat) (a : Word) : Option Kept :=
  let c := coreOf s k
  c.kept.find? (fun x => x.lvl == c.lvl && x.pc == c.pc && x.addr == a)

/-- The accepted reads that a stop left to the instruction at PC are given up. -/
def keptOver (s : State) (k : Nat) : State :=
  let c := coreOf s k
  if c.kept.isEmpty then s else setCore s k { c with kept := c.kept.filter (fun x => !(x.lvl == c.lvl && x.pc == c.pc)) }

/-- The access is served through the D-cache of a supervisor (R285, R300). -/
def viaCache (s : State) (k a perm : Nat) : Bool :=
  isSv k && (match translate s k a perm with
    | .ok tr => tr.cached && dServes s k
    | .error _ => false)

/-- Cycles of a load step (r of R227) that waits for nothing. -/
def loadStep (s : State) (k a : Nat) : Nat := if ownSp k a || viaCache s k a 0 then 1 else 1 + latency (physOf s k a 0)

/-- Cycles of a store step (s of R227). -/
def storeStep (s : State) (k a : Nat) : Nat := if ownSp k a || viaCache s k a 1 then 1 else 2

/-- An instruction of several steps completes: its cost is what its steps have spent since cycle `now`, and 2 more. -/
def spent (s : State) (k now : Nat) : Nat := (coreOf s k).cyc - now + 2

/-- A load step of an instruction that is issued again when its word comes: the word or words, their cycles spent, or how the
instruction ends meanwhile. A read that was accepted before a stop is not repeated (R179). -/
def stepLoad (s : State) (k a : Nat) (pair : Bool) : MemRes :=
  match takeGot s k with
  | some (g, t) =>
    if g.code = 0 then .now g.w0 g.w1 g.tag t 0 else .fault t (codeFault g.code) (BitVec.ofNat 48 (physOf s k a 0))
  | none =>
    let pa := BitVec.ofNat 48 (physOf s k a 0)
    match keptFor s k pa with
    | some x =>
      let t := setCore s k { coreOf s k with kept := (coreOf s k).kept.erase x }
      match x.resp with
      | some g => .now g.w0 g.w1 g.tag (spend t k 1) 0
      | none => .wait (setCore t k { coreOf t k with wait := .load none 0 pa true x.id 1 }) x.id 1
    | none =>
      match coreLoad s k a pair with
      | .now w h g t n => .now w h g (spend t k n) 0
      | .wait t id n => .wait (setCore t k { coreOf t k with wait := .load none 0 pa false id n }) id n
      | r => r

/-- The tag that storing a token keeps (R240). -/
def storedTag (s : State) (k : Nat) (t : Tok) (pa : Nat) : Bool :=
  t.tag && (t.may 7 || (coreOf s k).home pa) && (targetOf pa).tagged

/-- The first word that TLD or TST names through token register a, before its checks. -/
def pairAt (b : Bank) (a : Nat) : Nat := ((b.tok a).base + (b.peek 0).toNat) % 2 ^ 48

def insTld (d a : Fin 16) : Ins :=
  { parcels := sh 0x34 (a.val + 16 * d.val), c := 1, p := 0, cls := .s,
    skip := fun s k => .done s (2 + 2 * loadStep s k (pairAt (bankOf s k) a.val)),
    body := fun s k now =>
      let T := (bankOf s k).tok a.val
      match pairCheck T a.val [0] ((bankOf s k).peek 0) with
      | .error e => .fault s e.1 e.2
      | .ok x =>
        match stepLoad s k x true with
        | .fault s c v => .fault s c v
        | .hold s => .hold s
        | .wait s _ _ => .wait s
        | .now w h t s _ =>
          .done (onBank (keptOver s k) k (fun b => (b.drop 1).setTok d.val ⟨w, h, t && T.mayMem 3⟩)) (spent s k now + loadStep s k x) }

def insTst (a q : Fin 16) : Ins :=
  { parcels := sh 0x35 (a.val + 16 * q.val), c := 1, p := 0, cls := .s,
    skip := fun s k => .done s (2 + 2 * loadStep s k (pairAt (bankOf s k) a.val)),
    body := fun s k _ =>
      let b := bankOf s k
      let T := b.tok a.val
      let v := b.tok q.val
      match pairCheck T a.val [1, 4] (b.peek 0) with
      | .error e => .fault s e.1 e.2
      | .ok x =>
        match coreStore s k x v.w0 (some (v.w1, storedTag s k v (physOf s k x 1))) T.otype with
        | .fault s c v => .fault s c v
        | .hold s => .hold s
        | .wait s _ _ => .wait s
        | .now _ _ _ s _ => .done (onBank s k (fun b => b.drop 1)) (2 + 2 * loadStep s k x) }

/-! BMOVE (R222). -/

/-- The lowest offset of [o, o + n) that lies outside a token, if any. -/
def rangeFault (T : Tok) (o : Int) (n : Nat) : Option Int :=
  if o < 0 then some o
  else if (T.len : Int) < o + n then some (max o T.len)
  else none

/-- The checks of BMOVE on its operands (R222). -/
def bmoveCheck (S D : Tok) (sr dr : Nat) (so d : Int) (n : Nat) : Option (Nat × Word) :=
  if !S.tag then some (0x20, tv sr)
  else if !D.tag then some (0x20, tv dr)
  else if S.sealed then some (0x21, tv sr)
  else if D.sealed then some (0x21, tv dr)
  else if !S.mayMem 0 then some (0x22, tv sr)
  else if !D.mayMem 1 then some (0x22, tv dr)
  else match rangeFault S so n with
    | some o => some (0x23, wordOfInt o)
    | none =>
      match rangeFault D d n with
      | some o => some (0x23, wordOfInt o)
      | none => none

/-- The operands after a word: (so + 1, do + 1, n - 1), gone with the last. -/
def bmoveNext (b : Bank) : Bank :=
  if b.peek 0 == 1 then b.drop 3
  else b.pops 3 [b.peek 2 + 1, b.peek 1 + 1, b.peek 0 - 1]

/-- Addresses of the word that a BMOVE reads next and of the one it writes. -/
def bmoveFrom (b : Bank) (sr : Nat) : Nat := ((b.tok sr).base + (b.peek 2).toNat) % 2 ^ 48
def bmoveTo (b : Bank) (dr : Nat) : Nat := ((b.tok dr).base + (b.peek 1).toNat) % 2 ^ 48

/-- Up to `fuel` words of a BMOVE (R222): one word a step. A word read whose store cannot start yet is kept. -/
def bmoveSteps (sr dr : Nat) : Nat → State → Nat → Nat → IRes
  | 0, s, _, _ => .wait s
  | fuel + 1, s, k, now =>
    let b := bankOf s k
    let da := bmoveTo b dr
    match stepLoad s k (bmoveFrom b sr) false with
    | .fault s c v => .fault s c v
    | .hold s => .wait s
    | .wait s _ _ => .wait s
    | .now w _ _ s _ =>
      match coreStore s k da w none (b.tok dr).otype with
      | .fault s c v => .fault s c v
      | .hold s => .wait (setCore s k { coreOf s k with got := some (BitVec.ofNat 48 (physOf s k (bmoveFrom b sr) 0), ⟨0, 0, w, 0, false⟩) })
      | .wait s _ _ => .wait s
      | .now _ _ _ s _ =>
        let t := onBank (spend s k (storeStep s k da)) k bmoveNext
        if b.peek 0 == 1 then .done (keptOver t k) (spent t k now + 1)
        else if wpSeen t k then .wait t else bmoveSteps sr dr fuel t k now

/-- BMOVE Ts, Td: the word steps of this command, `steps` more than the first. -/
def bmoveBody (sr dr steps : Nat) (s : State) (k now : Nat) : IRes :=
  let b := bankOf s k
  let n := (b.peek 0).toNat
  if n = 0 then .done (onBank s k (fun b => b.drop 3)) 3
  else match bmoveCheck (b.tok sr) (b.tok dr) sr dr (b.peek 2).toInt (b.peek 1).toInt n with
    | some e => .fault s e.1 e.2
    | none => bmoveSteps sr dr (steps + 1) s k now

/-- The cost of a BMOVE whose guard fails (R171, R227). -/
def bmoveSkip (sr dr : Nat) (s : State) (k : Nat) : IRes :=
  let b := bankOf s k
  .done s (3 + (b.peek 0).toNat * (loadStep s k (bmoveFrom b sr) + storeStep s k (bmoveTo b dr)))

def insBmove (ps : Fin 8) (sn : Bool) (q d : Fin 16) (steps : Nat) : Ins :=
  { parcels := lg 0x108 ps sn (q.val + 16 * d.val), guard := lgGuard ps sn, illegal := badGuard ps sn,
    c := 3, p := 0, cls := .s, skip := bmoveSkip q.val d.val, body := bmoveBody q.val d.val steps }

/-! Save and restore (R223 to R226). -/

/-- Words of the lower and of the upper save area. -/
def saveWords (upper : Bool) : Nat := if upper then 230 else 80

/-- The header word of a save of bank b at level l, SAVLNK not counted (R223). -/
def saveHeader (upper : Bool) (b : Bank) (l : Nat) : Word :=
  if upper then BitVec.ofNat 48 (2 * 2 ^ 40 + 2 ^ 32 + l * 2 ^ 30)
  else BitVec.ofNat 48 (2 ^ 40 + 2 ^ 32 + l * 2 ^ 30 + (b.osp - 1) * 2 ^ 24 + b.rsp * 2 ^ 18 + b.fd * 2 ^ 14
    + b.ld * 2 ^ 12 + b2n b.accOvf * 2 ^ 11 + b.preds % 256)

/-- Word j of a save area but for tokens (R223). -/
def saveWord (upper : Bool) (b : Bank) (l j : Nat) : Word :=
  if j = 0 then b.peek 0
  else if j = 1 then saveHeader upper b l
  else if upper then tget 0 b.ring (j - 2)
  else if j < 0x05 then b.lb (j - 2)
  else if j < 0x08 then b.le (j - 5)
  else if j < 0x0B then b.lc (j - 8)
  else if j < 0x0E then b.item (0x130 + (j - 0x0B))
  else if j = 0x0E then b.ph
  else if j = 0x0F then b.pl
  else if j < 0x30 then tget 0 b.ost (j - 0x10)
  else tget 0 b.rst (j - 0x30)

/-- The checks of R224. -/
def saveCheck (T : Tok) (t : Nat) (upper : Bool) (need : List Nat) : Option (Nat × Word) :=
  if !T.tag then some (0x20, tv t)
  else if T.sealed then some (0x21, tv t)
  else if !need.all T.mayMem then some (0x22, tv t)
  else if T.len < saveWords upper then some (0x23, BitVec.ofNat 48 (saveWords upper - 1))
  else if upper && T.base % 2 = 1 then some (0x23, 0)
  else none

/-- Up to `fuel` steps of SAVEL or SAVEU from word `step` (R225). A token's two words and tag go together with
the first of them. -/
def saveSteps (upper : Bool) (t : Nat) : Nat → State → Nat → Nat → IRes
  | 0, s, _, _ => .wait s
  | fuel + 1, s, k, now =>
    let c := coreOf s k
    let b := c.cur
    let T := b.tok t
    let j := c.step
    let a := (T.base + j) % 2 ^ 48
    let tokn := upper && 0xC6 ≤ j
    let v := b.tok ((j - 0xC6) / 2)
    let r := if tokn then
        if j % 2 = 0 then coreStore s k a v.w0 (some (v.w1, storedTag s k v (physOf s k a 1))) T.otype
        else .now 0 0 false s 0
      else coreStore s k a (saveWord upper b c.lvl j) none T.otype
    match r with
    | .fault s c v => .fault s c v
    | .hold s => .wait s
    | .wait s _ _ => .wait s
    | .now _ _ _ s _ =>
      let s := spend s k (storeStep s k a)
      if j + 1 = saveWords upper then
        .done (setCore s k ({ coreOf s k with step := 0 }.withCur (fun b => b.drop 1))) (spent s k now)
      else
        let n := setCore s k { coreOf s k with step := j + 1 }
        if wpSeen n k then .wait n else saveSteps upper t fuel n k now

/-- SAVEL and SAVEU (R223 to R226): operations in flight land before their words are read. -/
def saveBody (upper : Bool) (t steps : Nat) (s : State) (k now : Nat) : IRes :=
  let b := bankOf s k
  match saveCheck (b.tok t) t upper (if upper then [1, 4] else [1]) with
  | some e => .fault s e.1 e.2
  | none =>
    if !upper && !b.resv.isEmpty then .hold s
    else saveSteps upper t (steps + 1) (setCore s k (coreOf s k).landAll) k now

/-- The cost of SAVEL or SAVEU whose guard fails (R171, R227). -/
def saveSkip (upper : Bool) (t : Nat) (s : State) (k : Nat) : IRes :=
  let c := coreOf s k
  .done s (2 + (saveWords upper - c.step) * storeStep s k (((c.cur.tok t).base + c.step) % 2 ^ 48))

/-- The cost of RESTL or RESTU whose guard fails (R171, R227). -/
def restSkip (upper : Bool) (t : Nat) (s : State) (k : Nat) : IRes :=
  let c := coreOf s k
  let r := loadStep s k (((c.cur.tok t).base + 1) % 2 ^ 48)
  .done s (2 + (if c.step = 0 then saveWords upper - 1 else saveWords upper - c.step + 1) * r)

def insSavel (ps : Fin 8) (sn : Bool) (t : Fin 16) (steps : Nat) : Ins :=
  { parcels := lg 0x109 ps sn t.val, guard := lgGuard ps sn, illegal := badGuard ps sn, c := 1, p := 0, cls := .s,
    long := true, skip := saveSkip false t.val, body := saveBody false t.val steps }
def insSaveu (ps : Fin 8) (sn : Bool) (t : Fin 16) (steps : Nat) : Ins :=
  { parcels := lg 0x10A ps sn t.val, guard := lgGuard ps sn, illegal := badGuard ps sn, c := 1, p := 0, cls := .s,
    long := true, skip := saveSkip true t.val, body := saveBody true t.val steps }

/-- Word 1 of a save area is rejected (R225). -/
def headerBad (upper : Bool) (w : Word) : Bool :=
  (Fld.mk 47 40).get w != (if upper then 2 else 1) || (Fld.mk 39 32).get w != 1 ||
    32 < (Fld.mk 29 24).get w || 32 < (Fld.mk 23 18).get w

/-- The bank with word j of a lower area read back, but for word 1 (R225). -/
def restWord (b : Bank) (j : Nat) (w : Word) : Bank :=
  if j < 0x05 then { b with lbeg := tset 0 b.lbeg (j - 2) (pcOfWord w) }
  else if j < 0x08 then { b with lend := tset 0 b.lend (j - 5) (pcOfWord w) }
  else if j < 0x0B then { b with lcnt := tset 0 b.lcnt (j - 8) w }
  else if j < 0x0E then { b with acc := accPart b.acc (j - 0x0B) w }
  else if j = 0x0E then { b with ph := w }
  else if j = 0x0F then { b with pl := w }
  else if j < 0x30 then { b with ost := tset 0 b.ost (j - 0x10) w }
  else { b with rst := tset 0 b.rst (j - 0x30) w }

/-- The bank when RESTL completes with header w: pointers, predicates, ACCOVF (R225). -/
def restLower (b : Bank) (w : Word) : Bank :=
  { b with osp := (Fld.mk 29 24).get w, rsp := (Fld.mk 23 18).get w, fd := (Fld.mk 17 14).get w,
           ld := (Fld.mk 13 12).get w, accOvf := bitOf w 11, preds := w.toNat % 256 / 2 * 2 }

/-- The bank when RESTU completes: T0 to T15 from the holding buffer (R225). -/
def restUpper (b : Bank) (h : List (Nat × Tok)) : Bank := h.foldl (fun b p => b.setTok p.1 p.2) b

/-- Up to `fuel` steps of RESTL or RESTU (R225, R226): word 1 first, then from word `step`. -/
def restSteps (upper : Bool) (t : Nat) : Nat → State → Nat → Nat → IRes
  | 0, s, _, _ => .wait s
  | fuel + 1, s, k, now =>
    let c := coreOf s k
    let T := c.cur.tok t
    let j := match c.hdr with
      | none => 1
      | some _ => max 2 c.step
    let tokn := upper && 0xC6 ≤ j
    let a := (T.base + j) % 2 ^ 48
    let r := if tokn && j % 2 = 1 then .now 0 0 false (spend s k (loadStep s k a)) 0 else stepLoad s k a tokn
    match r with
    | .fault s c v => .fault (if j = 1 then setCore s k { coreOf s k with step := 0 } else s) c v
    | .hold s => .wait s
    | .wait s _ _ => .wait s
    | .now w h g s _ =>
      let c := coreOf s k
      if j = 1 then
        if headerBad upper w then .fault (setCore s k { c with step := 0 }) 0x29 w
        else
          let n := setCore s k { c with hdr := some w, step := max 2 c.step }
          if wpSeen n k then .wait n else restSteps upper t fuel n k now
      else
        let c := if tokn then
            (if j % 2 = 0 then { c with hold := tset Tok.zero c.hold ((j - 0xC6) / 2) ⟨w, h, g && T.mayMem 3⟩ } else c)
          else c.withCur (fun b => if upper then { b with ring := tset 0 b.ring (j - 2) w } else restWord b j w)
        if j + 1 = saveWords upper then
          let c := c.withCur (fun b => if upper then
              restUpper ((List.range 16).foldl (fun b i => b.setTok i Tok.zero) b) c.hold
            else restLower b (c.hdr.getD 0))
          .done (keptOver (setCore s k { c with step := 0, hdr := none, hold := [] }) k) (spent s k now)
        else
          let n := setCore s k { c with step := j + 1 }
          if wpSeen n k then .wait n else restSteps upper t fuel n k now

/-- RESTL and RESTU: landings in flight come first (R225). -/
def restBody (upper : Bool) (t steps : Nat) (s : State) (k now : Nat) : IRes :=
  match saveCheck ((bankOf s k).tok t) t upper (if upper then [0, 3] else [0]) with
  | some e => .fault s e.1 e.2
  | none => restSteps upper t (steps + 1) (setCore s k (coreOf s k).landAll) k now

def insRestl (ps : Fin 8) (sn : Bool) (t : Fin 16) (steps : Nat) : Ins :=
  { parcels := lg 0x10B ps sn t.val, guard := lgGuard ps sn, illegal := badGuard ps sn, cls := .s, long := true,
    skip := restSkip false t.val, body := restBody false t.val steps }
def insRestu (ps : Fin 8) (sn : Bool) (t : Fin 16) (steps : Nat) : Ins :=
  { parcels := lg 0x10C ps sn t.val, guard := lgGuard ps sn, illegal := badGuard ps sn, cls := .s, long := true,
    skip := restSkip true t.val, body := restBody true t.val steps }

end Sys2Proof.Machine
end

