-- ==== Sys2Proof/Machine/Crc.lean ====
section
/-! DEFINITION. CRC-32C over words (R336). -/

namespace Sys2Proof.Machine

/-- One bit of CRC-32C in reflected form (R336): the polynomial 0x1EDC6F41 reversed. -/
def crcBit (c : Nat) : Nat := if c % 2 = 1 then (c / 2) ^^^ 0x82F63B78 else c / 2

/-- CRC state after one word: its 6 bytes, least significant first, so its bits from bit 0 up. -/
def crcWord (c : Nat) (w : Word) : Nat :=
  (List.range 48).foldl (fun c i => crcBit (c ^^^ (w.toNat >>> i) % 2)) c

/-- CRC-32C of words (R336). -/
def crc32c (ws : List Word) : Nat := (ws.foldl crcWord 0xFFFFFFFF) ^^^ 0xFFFFFFFF

/-- The last word of a record, slot or frame: a 16-bit number above the CRC of the words before it. -/
def sealWord (hi : Nat) (ws : List Word) : Word :=
  BitVec.ofNat 48 (hi % 2 ^ 16 * 2 ^ 32 + crc32c ws)

/-- Words followed by their seal. -/
def sealed (hi : Nat) (ws : List Word) : List Word := ws ++ [sealWord hi ws]

/-- The words end in their seal. -/
def sealOk (hi : Nat) (ws : List Word) : Bool :=
  ws.getLast? == some (sealWord hi ws.dropLast)

end Sys2Proof.Machine
end

