-- ==== Sys2Proof/Machine/RlkBase.lean ====
section
/-! DEFINITION. The rack link's send table (R412, R413). -/

namespace Sys2Proof.Machine

/-- RLK_EPOCH in effect (R417): as latched at the latest cycle start. While no cycles run, a write is in effect at once
(log entry 204). -/
def epochNow (s : State) : Word := if rb s rlkCtrl rlkCtrlEN then s.rlk.lat else rd s rlkEpoch

/-- The rack link is in use and HOLD is 1 in effect (R412, R414, R417). -/
def rlkHolds (s : State) : Bool := pdOn s 48 && rlkEpochHOLD.get (epochNow s) == 1

/-- HOLD has been written 1 and takes effect at the next cycle start (R417): a delivery waits for it (log entry
204). -/
def rlkComing (s : State) : Bool := pdOn s 48 && rb s rlkEpoch rlkEpochHOLD && !rlkHolds s

/-- Set the send table. -/
def setSend (s : State) (l : List SendEnt) : State := { s with rlk := { s.rlk with send := l } }

/-- Unit u's next TAG (R412): the counter skips 0. -/
def takeTag (s : State) (u : Nat) : Nat × State :=
  let t := (tget 0 s.rlk.tags u + 1) % 2 ^ 16
  let t := if t = 0 then 1 else t
  (t, { s with rlk := { s.rlk with tags := tset 0 s.rlk.tags u t } })

/-- The entry of a point in the send table. -/
def sendOf (s : State) (u lidx : Nat) : Option SendEnt :=
  s.rlk.send.find? (fun e => e.unit == u && e.lidx == lidx)

/-- A delivery of the PNE for a unit (R412); none where it waits for its share, the table, or a written HOLD. While HOLD
is 0 it is discarded. -/
def rlkDeliver (s : State) (u lidx : Nat) (v : Word) : Option State :=
  if rlkComing s then none
  else if !rlkHolds s then some s
  else match sendOf s u lidx with
    | some e =>
      let t := takeTag s u
      let x : SendEnt := ⟨u, lidx, v, t.1, none, e.sent.isNone && e.retx⟩
      if e.sent.isNone then
        some (setSend t.2 (s.rlk.send.map (fun y => if y == e then x else y)))
      else some (setSend t.2 (s.rlk.send.filter (fun y => y != e) ++ [x]))
    | none =>
      if (s.rlk.send.filter (fun e => e.unit == u)).length < 256 && s.rlk.send.length < 8192 then
        let t := takeTag s u
        some (setSend t.2 (s.rlk.send ++ [⟨u, lidx, v, t.1, none, false⟩]))
      else none

/-- Discard the entries of a unit (R412). -/
def rlkDropUnit (s : State) (u : Nat) : State := setSend s (s.rlk.send.filter (fun e => e.unit != u))

end Sys2Proof.Machine
end

