-- ==== Sys2Proof/Machine/PneCache.lean ====
section
/-! DEFINITION. The point engine: point numbers, metadata, the image and the cache (R309 to R316). -/

namespace Sys2Proof.Machine

/-! Points and metadata (R309 to R313). -/

/-- Unit and local index of a point number (R309). -/
def unitOf (n : Nat) : Nat := n / 2 ^ 15 % 1024
def lidxOf (n : Nat) : Nat := n % 2 ^ 15

/-- Fields of the metadata (R311). -/
def metaType (m : Nat) : Nat := m / 4096 % 16
def metaClass (m : Nat) : Nat := m / 512 % 8
def metaPin (m : Nat) : Bool := m / 256 % 2 == 1
def metaQual (m : Nat) : Nat := m / 16 % 16

/-- Metadata with another PIN, another QUAL (R311). -/
def withPin (m : Nat) (b : Bool) : Nat := m - m / 256 % 2 * 256 + b2n b * 256
def withQual (m q : Nat) : Nat := m - m / 16 % 16 * 16 + q * 16

/-- VOLATILE and MEASURE points are not journaled (R312, R320). -/
def metaLoose (m : Nat) : Bool := metaClass m ≤ 1

/-- The value that a consumer receives: an UNDEF or UNINIT point delivers 0 (R321). -/
def delivered (m : Nat) (v : Word) : Word := if metaType m = 0 || metaQual m = 2 then 0 else v

/-! Units. -/

/-- What the PNE keeps of unit u. -/
def unitSt (s : State) (u : Nat) : PUnit := tget PUnit.zero s.pne.units u

/-- Set it. -/
def setUnit (s : State) (u : Nat) (x : PUnit) : State :=
  { s with pne := { s.pne with units := tset PUnit.zero s.pne.units u x } }

/-- USTATE and OSTATE of unit u (R323, R324): unit 0 is always IN_SERVICE. -/
def ustateOf (s : State) (u : Nat) : Nat := if u = 0 then 1 else rf s (pneUstate u) pneUstateUSTATE
def ostateOf (s : State) (u : Nat) : Nat := rf s (pneUstate u) pneUstateOSTATE

/-! The image (R314). -/

/-- Word address of the image. -/
def imgAddr (s : State) : Nat := rf s pneImgbase pneImgbaseBASE * 2 ^ 26

/-- Words of the head tier (R330). -/
def headWords (s : State) : Nat :=
  let h := rf s jneHead jneHeadHSIZE
  if h ≤ 64 then h * 2 ^ 23 else 0

/-- First word of the persistent window (R263). -/
def persBase : Nat := 0x8000000000

/-- The image lies within the populated persistent window (R314). -/
def imgOk (s : State) : Bool :=
  persBase ≤ imgAddr s && imgAddr s - persBase + 2 ^ 26 + 8192 ≤ headWords s

/-- Use of an HMP transaction of the PNE: the fill of a point, the read of a scan, a read of the tables,
a write. -/
def useFill (n : Nat) : HmpUse := .unit 21 (4 * n)
def useScan (n : Nat) : HmpUse := .unit 21 (4 * n + 1)
def useTable : HmpUse := .unit 21 2
def useEvict : HmpUse := .unit 21 3

/-- IMGERR is set (R314, R316). -/
def imgErr (s : State) : State := wb s pneSts pneStsIMGERR true

/-! The cache (R315, R316). -/

/-- Stripes of a cache of SIZE n: 3 acts as 0. -/
def pneSizeOf (n : Nat) : Nat :=
  match n with
  | 1 => 4
  | 2 => 8
  | _ => 2

/-- Stripes of the cache in use. -/
def pneStripes (s : State) : Nat := s.pne.region.2

/-- First word of the region, sets, and the address of a way. -/
def pneBase (s : State) : Nat := s.pne.region.1 * 0x10000
def pneSets (s : State) : Nat := 4096 * pneStripes s
def pneSet (s : State) (n : Nat) : Nat := (lidxOf n + 97 * unitOf n) % pneSets s
def wayAt (s : State) (set w : Nat) : Nat := pneBase s + 16 * set + 2 * w

/-- Fields of word 1 of an entry (R315). -/
def enV : Fld := ⟨47, 47⟩
def enW : Fld := ⟨46, 46⟩
def enD : Fld := ⟨45, 45⟩
def enPnum : Fld := ⟨44, 20⟩
def enAge : Fld := ⟨19, 16⟩
def enMeta : Fld := ⟨15, 0⟩

/-- The words of the entry at an address, as the PNE obtains them (R272 to R275). -/
def entVal (s : State) (a : Nat) : Word := ownWord s a
def entWord (s : State) (a : Nat) : Word := ownWord s (a + 1)
def entMeta (s : State) (a : Nat) : Nat := enMeta.get (entWord s a)

/-- Store a word of an entry through port 21 (R267, R272). -/
def entStore (s : State) (a : Nat) (v : Word) : State := ownStore s a 21 v

/-- Change word 1 of an entry. -/
def entPut (s : State) (a : Nat) (f : Fld) (v : Nat) : State := entStore s (a + 1) (f.put (entWord s a) v)

/-- The PNE reads both words of an entry: they are checked (R273). -/
def entCheck (s : State) (a : Nat) : State := ownCheck (ownCheck s a 21) (a + 1) 21

/-- The entry that holds a point. -/
def findEntry (s : State) (n : Nat) : Option Nat :=
  ((List.range 8).map (wayAt s (pneSet s n))).find? (fun a =>
    enV.get (entWord s a) == 1 && enPnum.get (entWord s a) == n)

/-- A way may be overwritten (R316). -/
def evictable (w : Word) : Bool :=
  enW.get w == 0 && enD.get w == 0 && !metaPin (enMeta.get w)

/-- The way that a point takes: the lowest invalid one, else the evictable one of the highest AGE, the
lower of equals (R316). -/
def victimWay (s : State) (n : Nat) : Option Nat :=
  let ways := (List.range 8).map (wayAt s (pneSet s n))
  match ways.find? (fun a => enV.get (entWord s a) == 0) with
  | some a => some a
  | none => (ways.filter (fun a => evictable (entWord s a))).foldl (fun b a =>
      match b with
      | none => some a
      | some x => if enAge.get (entWord s x) < enAge.get (entWord s a) then some a else b) none

/-- Write an entry's value word to the image (R314, R316). -/
def writeImage (s : State) (a : Nat) : State :=
  hmpReq (entCheck s a) useEvict true (imgAddr s + 2 * enPnum.get (entWord s a)) 1 [entVal s a] true true

/-- Before a VOLATILE or MEASURE entry is overwritten, its value goes to the image (R316). -/
def evictEntry (s : State) (a : Nat) : State :=
  if enV.get (entWord s a) == 1 && metaLoose (entMeta s a) && metaType (entMeta s a) != 0 then
    writeImage s a else s

/-- Enter a point into a way. -/
def putEntry (s : State) (a n : Nat) (v : Word) (m age : Nat) : State :=
  let t := evictEntry s a
  let w := enV.put (enPnum.put (enAge.put (enMeta.put 0 m) age) n) 1
  entStore (entStore t a v) (a + 1) w

/-- The words of the region are cleared: V = 0 in every entry (R315). -/
def clearCache (s : State) : State := clearWords s (pneBase s) (pneBase s + pneStripes s * 0x10000)

/-- Addresses of the valid entries. -/
def validEntries (s : State) : List Nat :=
  ((s.mem.filter (fun p => pneBase s ≤ p.1 && p.1 < pneBase s + pneStripes s * 0x10000 && p.1 % 2 == 1
    && enV.get (ownWord s p.1) == 1)).map (fun p => p.1 - 1))

/-- Start the fill of a point unless it is under way (R316). -/
def startPneFill (s : State) (n : Nat) : State :=
  if s.pne.fills.any (fun p => p.1 == n) then s
  else
    let t := inc s pneCnt pneCntMISS
    let t := { t with pne := { t.pne with fills := t.pne.fills ++ [(n, false)] } }
    hmpReq t (useFill n) false (imgAddr t + 2 * n) 2 [] false true

/-- AGE_TICK (R315): every AGEPER µs from the cycle in which READY rose. -/
def execAgeTick (s : State) : Out :=
  let per := 300 * max 1 (rf s pneCtrl pneCtrlAGEPER)
  onlyIf (pdOn s 45 && rb s pneSts pneStsREADY && s.pne.ageLast + per ≤ s.port) s
    (let t := (validEntries s).foldl (fun t a =>
        entPut (ownCheck t (a + 1) 21) a enAge (min 15 (enAge.get (entWord t a) + 1))) s
     { t with pne := { t.pne with ageLast := s.pne.ageLast + per } })

end Sys2Proof.Machine
end

