-- ==== Sys2Proof/Machine/Pne.lean ====
section
/-! DEFINITION. The point engine: checks, admission, effects and deliveries (R317 to R321). -/

namespace Sys2Proof.Machine

/-! Statuses (R318). -/
def psOk : Nat := 0
def psNoPoint : Nat := 1
def psExists : Nat := 2
def psSourced : Nat := 3
def psFrozen : Nat := 4
def psPinFull : Nat := 5
def psNoJournal : Nat := 6
def psBadArg : Nat := 7
def psNotReady : Nat := 8
def psStandby : Nat := 9
def psImgErr : Nat := 10

/-- The journal's state (R341). -/
def jneState (s : State) : Nat := rf s jneSts jneStsSTATE

/-- The state of the PNE, changed. -/
def onPne (s : State) (f : Pne → Pne) : State := { s with pne := f s.pne }

/-! Reported quality (R313). -/

/-- A point of unit u that a restoration has not yet restored. -/
def restoring (s : State) (u lidx : Nat) : Bool :=
  ustateOf s u == 3 && !(unitSt s u).echoed.contains lidx

/-- QUAL as a read reports it (R313). -/
def reportedQual (s : State) (n m age : Nat) : Nat :=
  let u := unitOf n
  let c := metaClass m
  let st := rf s pneCtrl pneCtrlSTALEAGE
  if metaQual m = 2 then 2
  else if u ≠ 0 && c = 2 && ustateOf s u = 4 then 5
  else if u ≠ 0 && 2 ≤ c && c ≤ 4 && restoring s u (lidxOf n) then 6
  else if u ≠ 0 && (c = 1 || c = 5) && ostateOf s u = 1 then 4
  else if c = 1 && st ≠ 0 && st ≤ age then 3
  else metaQual m

/-- The metadata of an entry with its reported QUAL. -/
def reportedMeta (s : State) (a : Nat) : Nat :=
  let w := entWord s a
  withQual (enMeta.get w) (reportedQual s (enPnum.get w) (enMeta.get w) (enAge.get w))

/-! Completion. -/

/-- Results of operations of the WAC and the command port (for R389, R459). -/
def pneReport (s : State) (d : PneDone) : State := onPne s (fun p => { p with done := p.done ++ [d] })

/-- An operation completes with a status, and with value, metadata and CSN where it has them (R317,
R318, R320); a refused report is counted (R414). -/
def pneFinish (s : State) (op : PneOp) (st : Nat) (v : Word) (m csn : Nat) (ack : Nat := 0) : State :=
  match op.src with
  | 4 =>
    let r := op.id
    let t := wf (wb s (pneMbsts r) pneMbstsBUSY false) (pneMbsts r) pneMbstsSTATUS st
    let t := if st = psOk && op.kind = 0 then
        wr (wr t (pneMbval r) v) (pneMbaux r) (BitVec.ofNat 48 m) else t
    if st = psOk && csn ≠ 0 then wr t (pneMbcsn r) (BitVec.ofNat 48 csn) else t
  | 1 => if st = psOk then s else inc s rlkCnt rlkCntREPREJ
  | 3 => s
  | _ => pneReport s ⟨op.src, op.id, st, v, m, csn, ack⟩

/-! Records (R320, R337). -/

/-- Hand over what has waited, unless the journal is CLOSED: one that is not OPEN refuses it (R327). -/
def pneFlushUnsent (s : State) : State :=
  if jneState s = 4 then s
  else (s.pne.unsent).foldl raiseRec (onPne s (fun p => { p with unsent := [] }))

/-- Hand a record to the journal, behind those that have waited; while the journal is CLOSED it waits (R319, R327). -/
def pneHand (s : State) (r : RecReq) : State := pneFlushUnsent (onPne s (fun p => { p with unsent := p.unsent ++ [r] }))

/-- A journaled change is admitted: its record is handed over and W is set (R320). -/
def pneJournal (s : State) (op : Option PneOp) (kind : Nat) (body : List Word) (n : Nat) (v : Word) (m : Nat) :
    State :=
  let id := s.pne.seq
  let t := onPne s (fun p => { p with seq := id + 1, jops := p.jops ++ [⟨id, op, n, v, m⟩] })
  let t := match (if 1 ≤ kind && kind ≤ 5 then findEntry t n else none) with
    | some a => entPut t a enW 1
    | none => t
  pneHand t ⟨1, id, kind, body⟩

/-- Value and metadata of a point as the records admitted for it leave it: an operation builds on those
(R317, R319). A point whose deletion is on its way counts as it stands, unpinned. -/
def pneAhead (s : State) (n a : Nat) : Word × Nat :=
  match (s.pne.jops.filter (fun j => j.pnum == n && j.op.isSome)).getLast? with
  | some j => if metaType j.meta_ = 0 then (entVal s a, withPin (entMeta s a) false) else (j.val, j.meta_)
  | none => (entVal s a, entMeta s a)

/-! Pins (R316). -/

/-- Points pinned, or with a PIN on its way, that fall in a set; and all of them. -/
def pinsAhead (s : State) : List Nat :=
  s.pne.pins ++ ((s.pne.jops.filter (fun j => metaPin j.meta_)).map (fun j => j.pnum))

/-- A PIN of the point is refused (R316). -/
def pinFull (s : State) (n : Nat) : Bool :=
  let l := (pinsAhead s).eraseDups.filter (fun k => k != n)
  6 ≤ (l.filter (fun k => pneSet s k == pneSet s n)).length || 4096 ≤ l.length

/-- Record the pinned points. -/
def setPins (s : State) (l : List Nat) : State :=
  wf (onPne s (fun p => { p with pins := l })) pneCnt pneCntPINS l.length

/-- A point's pin as its metadata says. -/
def syncPin (s : State) (n m : Nat) : State :=
  let l := s.pne.pins.filter (fun k => k != n)
  setPins s (if metaPin m then l ++ [n] else l)

/-! Unit records (R322, R323). -/

/-- Classification of a live unit by its model and serial (R323). -/
def classify (s : State) (u : Nat) : Nat :=
  let mdl := rf s (pneUstate u) pneUstateOMODEL == rf s (pneUstate u) pneUstateDMODEL
  let ser := rf s (pneUoser u) pneUoserSERIAL
  let d := rf s (pneUdser u) pneUdserSERIAL
  if mdl && ser == rf s (pneUaser u) pneUaserSERIAL then 2
  else if mdl && (d == 0 || d == ser) then 3
  else 4

/-- The observed state changes (R323, R324). -/
def setOstate (s : State) (u o : Nat) : State :=
  if ostateOf s u = o then s
  else setUnit (wf s (pneUstate u) pneUstateOSTATE o) u { unitSt s u with chg := true, stuck := false }

/-- Classification is repeated (R323). -/
def reclassify (s : State) (u : Nat) : State := if 2 ≤ ostateOf s u then setOstate s u (classify s u) else s

/-- A declaration takes effect (R322). -/
def declareUnit (s : State) (u ds dm ser : Nat) : State :=
  let t := wf (wf s (pneUstate u) pneUstateDSTATE ds) (pneUstate u) pneUstateDMODEL dm
  let t := wf t (pneUdser u) pneUdserSERIAL ser
  reclassify (setUnit t u { unitSt t u with chg := true, stuck := false }) u

/-! Unit states (R324, R325). -/

/-- USTATE and CAUSE by declared and observed state (R324). -/
def ustateTable (ds os : Nat) : Nat × Nat :=
  match ds with
  | 0 => if os ≤ 1 then (0, 0) else (4, 3)
  | 1 => match os with
    | 0 => (0, 0)
    | 1 => (4, 1)
    | 2 => (1, 0)
    | 3 => (3, 0)
    | _ => (4, 2)
  | 2 => (2, 0)
  | _ => if os ≤ 1 then (0, 0) else (4, 4)

/-- NCONF: units in CONFLICT (R329). -/
def countConf (s : State) (was is_ : Bool) : State :=
  let n := rf s pneSts pneStsNCONF
  wf s pneSts pneStsNCONF (n + b2n is_ - b2n was)

/-- The UNIT_STATE record of unit u (R324, R337). -/
def unitRecord (s : State) (u old : Nat) : State :=
  let w := rf s (pneUstate u) pneUstateOSTATE * 2 ^ 22 + rf s (pneUstate u) pneUstateCAUSE * 2 ^ 19
    + ustateOf s u * 2 ^ 16 + old * 2 ^ 12 + u
  pneJournal s none 7 [BitVec.ofNat 48 w] 0 0 0

/-- The scan and the restoration of unit u end (R326, R534). -/
def endRestore (s : State) (u : Nat) : State :=
  let x := unitSt s u
  let t := match x.scan with
    | some (_, i) => if x.reading then hmpDrop s (fun h => h == useScan (u * 2 ^ 15 + i)) else s
    | none => s
  setUnit t u { x with scan := none, reading := false, open_ := [], echoed := [], rest := 0, accept := false }

/-- They end without the points that are still queued, or wait for their fills (R325, R326). -/
def dropRestore (s : State) (u : Nat) : State :=
  let other := fun (o : PneOp) => !(o.src == 3 && unitOf o.pnum == u)
  endRestore (onPne s (fun p => { p with ops := p.ops.filter other, cur := p.cur.filter other })) u

/-- What unit u is sent on entry to IN_SERVICE, and on entry to REPLACING (R324, R326, R442). -/
def beginScan (s : State) (u : Nat) : State :=
  if !isActive s then s
  else if ustateOf s u = 1 then setUnit s u { unitSt s u with scan := some (0, 0), reading := false }
  else if ustateOf s u = 3 then
    let t := dropRestore s u
    setUnit t u { unitSt t u with scan := some (1, 0) }
  else s

/-- Unit u takes a state and cause (R324). A new cause within CONFLICT is no change of USTATE. A point written again while
UNIT_ACCEPT was on its way stays queued, and is sent (R326). -/
def setUstate (s : State) (u st cause : Nat) : State :=
  let old := ustateOf s u
  let t := wf s (pneUstate u) pneUstateCAUSE (if st = 4 then cause else 0)
  if st = old then t
  else
    let t := countConf (wf t (pneUstate u) pneUstateUSTATE st) (old == 4) (st == 4)
    let t := wb t pneSts pneStsUSTATECHG true
    let t := if st = 4 then wb t pneSts pneStsCONFLICT true else t
    let t := if old = 3 && st = 1 then endRestore t u else dropRestore t u
    let t := if st = 1 || st = 3 then t else rlkDropUnit t u
    if !isActive t then t
    else
      let t := unitRecord t u old
      let t := if st = 4 then raiseEv t 0x02 [rd t (pneUstate u), rd t (pneUoser u), BitVec.ofNat 48 u] else t
      if old = 3 && st = 1 then t else beginScan t u

/-- The restoration of unit u is complete once every point found has been echoed (R326). -/
def checkRestored (s : State) (u : Nat) : State :=
  let x := unitSt s u
  if ustateOf s u = 3 && isActive s && x.scan.isNone && x.open_.isEmpty && !x.accept then
    let t := setUnit s u { x with accept := true }
    pneJournal t none 8 [BitVec.ofNat 48 u, rd t (pneUaser u), rd t (pneUoser u)] 0 0 0
  else s

/-- UNIT_ACCEPT takes effect (R326): the unit takes the new serial. -/
def acceptUnit (s : State) (u new : Nat) (mine : Bool) : State :=
  let old := rf s (pneUaser u) pneUaserSERIAL
  let t := reclassify (wf s (pneUaser u) pneUaserSERIAL new) u
  if mine && ustateOf t u = 3 && ostateOf t u = 2 then
    let t := setUnit t u { unitSt t u with chg := false, accept := false }
    let t := setUstate (wb t pneSts pneStsREPLACED true) u 1 0
    onPne t (fun p => { p with accepted := p.accepted ++ [(u, old, new)] })
  else setUnit t u { unitSt t u with accept := false }

/-! Deliveries (R321). -/

/-- Sources that name a point: REFr of slots, references of cells, phase groups (R48, R86, R93). -/
def slotsNaming (s : State) (n : Nat) : List Nat :=
  (List.range 512).filter (fun k =>
    let a := aeRefsrc (k / 64) (k / 4 % 16) (k % 4)
    rf s a aeRefsrcKIND == 1 && rf s a aeRefsrcSRC == n)
def cellsNaming (s : State) (n : Nat) : List Nat :=
  (List.range 64).filter (fun k =>
    rf s (sspRefsrc (k / 8) (k % 8)) sspRefsrcKIND == 1 && rf s (sspRefsrc (k / 8) (k % 8)) sspRefsrcSRC == n)
def groupsNaming (s : State) (n : Nat) : List Nat :=
  (List.range 4).filter (fun g => rf s (aePhssrc g) aePhssrcKIND == 1 && rf s (aePhssrc g) aePhssrcSRC == n)

/-- Deliver a value to every reference source that names the point (R48). -/
def deliverRefs (s : State) (n : Nat) (v : Word) : State :=
  let t := (slotsNaming s n).foldl (fun t k =>
    if pdOn t (18 + k / 64) then { t with ae := { t.ae with refPt := tset 0 t.ae.refPt k v } } else t) s
  let t := (cellsNaming s n).foldl (fun t k =>
    if pdOn t 26 then { t with ssp := { t.ssp with refPt := tset 0 t.ssp.refPt k v } } else t) t
  (groupsNaming s n).foldl (fun t g => { t with ae := { t.ae with loads := t.ae.loads ++ [(g, v)] } }) t

/-- A calibration point (R19, R310), and its channel. -/
def isCal (n : Nat) : Bool := 0x100 ≤ n && n < 0x300
def calChannel (n : Nat) : Nat := (n - 0x100) / 2

/-- A point the rack link is sent (R321): of a unit that is IN_SERVICE or REPLACING, on the active. -/
def toRack (s : State) (n m : Nat) : Bool :=
  let c := metaClass m
  unitOf n != 0 && 2 ≤ c && c ≤ 4 && isActive s && (ustateOf s (unitOf n) == 1 || ustateOf s (unitOf n) == 3)

/-- Some consumer names the point. -/
def hasConsumer (s : State) (n m : Nat) : Bool :=
  isCal n || toRack s n m || !(slotsNaming s n).isEmpty || !(cellsNaming s n).isEmpty || !(groupsNaming s n).isEmpty

/-- The delivery queue takes no further change (R321). -/
def delivFull (s : State) : Bool := 64 ≤ s.pne.deliv.length

/-- The value of a resident point as consumers receive it. -/
def resident (s : State) (n : Nat) : Option Word := (findEntry s n).map (fun a => delivered (entMeta s a) (entVal s a))

/-- The other point of a calibration pair (R19). -/
def calMate (n : Nat) : Nat := if n % 2 = 0 then n + 1 else n - 1

/-- The change waits for the value of point n, the other one of its pair. -/
def Deliv.lacks (d : Deliv) (n : Nat) : Bool := isCal d.pnum && d.mate.isNone && calMate d.pnum == n

/-- The changes that lacked the value of point n have it. -/
def mated (l : List Deliv) (n : Nat) (w : Word) : List Deliv :=
  l.map (fun d => if d.lacks n then { d with mate := some w } else d)

/-- Queue the delivery of a change (R321). -/
def queueDelivery (s : State) (n : Nat) (v : Word) (m : Nat) : State :=
  let w := if isCal n then resident s (calMate n) else none
  if hasConsumer s n m then onPne s (fun p => { p with deliv := p.deliv ++ [⟨n, v, m, w⟩] }) else s

/-- The value that point n has in the image is still needed: an operation admitted before, or a delivery of the other point
of its pair, is to take it (R319, R321). -/
def imageWanted (s : State) (n : Nat) : Bool :=
  (findEntry s n).isNone && (s.pne.cur.any (fun o => o.pnum == n) || s.pne.deliv.any (fun d => d.lacks n))

/-- A source register has been written so that it names a point (R321). -/
def pneSourceNamed (s : State) (n : Nat) : State :=
  if pdOn s 45 then onPne s (fun p => { p with srcs := p.srcs ++ [n] }) else s

/-- Reload the calibration of every channel (R19, R321). -/
def pneReload (s : State) : State :=
  if pdOn s 51 && pdOn s 45 && rb s pneSts pneStsREADY then onPne s (fun p => { p with reload := List.range 256 })
  else s

/-- Load a channel's pair into the calibration RAM: CALOK is 1 from its first load. A sample captured in the same PORT
cycle still uses what was there before (R19). -/
def calLoad (s : State) (c : Nat) (g o : Word) : State :=
  let t := wb s (cvpChcfg c) cvpChcfgCALOK true
  let was : CalPrev :=
    let old := tget ⟨0, ⟨0, 0⟩, false⟩ s.cvp.calPrev c
    if old.cyc = s.port + 1 then old
    else ⟨s.port + 1, tget ⟨0, 0⟩ s.cvp.cal c, rb s (cvpChcfg c) cvpChcfgCALOK⟩
  if pdOn s 51 then { t with cvp := { t.cvp with
    cal := tset ⟨0, 0⟩ t.cvp.cal c ⟨g, o⟩, calPrev := tset ⟨0, ⟨0, 0⟩, false⟩ t.cvp.calPrev c was } } else s

/-- The pair of channel c, if both points are resident; else their fills are started. -/
def pairOf (s : State) (c : Nat) : Option (Word × Word) × State :=
  let g := 0x100 + 2 * c
  match resident s g, resident s (g + 1) with
  | some a, some b => (some (a, b), s)
  | some _, none => (none, startPneFill s (g + 1))
  | none, some _ => (none, startPneFill s g)
  | none, none => (none, startPneFill (startPneFill s g) (g + 1))

/-- Queue a point of a restoring unit again (R326). -/
def requeue (s : State) (n : Nat) : State :=
  let u := unitOf n
  let i := lidxOf n
  let x := unitSt s u
  if s.pne.ops.any (fun o => o.src == 3 && o.pnum == n) then s
  else
    let t := setUnit s u { x with open_ := if x.open_.contains i then x.open_ else x.open_ ++ [i],
                                  echoed := x.echoed.erase i }
    onPne t (fun p => { p with ops := p.ops ++ [⟨3, 0, 8, n, 0, 0, 0, 2 * s.port⟩] })

/-- The rack link's part of a delivery (R321, R326, R412); none where it waits. -/
def deliverRack (s : State) (n : Nat) (v : Word) (m : Nat) : Option State :=
  if !toRack s n m then some s
  else
    let x := unitSt s (unitOf n)
    if ustateOf s (unitOf n) = 3 && (x.open_.contains (lidxOf n) || x.echoed.contains (lidxOf n)) then
      some (requeue s n)
    else rlkDeliver s (unitOf n) (lidxOf n) (delivered m v)

/-- The pair that a change of a calibration point delivers, as it stood when the change took effect; else the fill of the
other point is started (R19, R321). -/
def changedPair (s : State) (d : Deliv) : Option (Word × Word) × State :=
  let own := delivered d.meta_ d.val
  if !isCal d.pnum then (some (0, 0), s)
  else match d.mate with
    | some w => (some (if d.pnum % 2 = 0 then (own, w) else (w, own)), s)
    | none => (none, startPneFill s (calMate d.pnum))

/-- What a written source register or a reload asks for is delivered next, once READY (R19, R321). -/
def deliverAsked (s : State) : State :=
  match s.pne.srcs, s.pne.reload with
  | n :: r, _ =>
    match resident s n with
    | some v => onPne (deliverRefs s n v) (fun p => { p with srcs := r })
    | none => startPneFill s n
  | [], c :: r =>
    match pairOf s c with
    | (some pr, t) => onPne (calLoad t c pr.1 pr.2) (fun p => { p with reload := r })
    | (none, t) => t
  | [], [] => s

/-- The delivery at the head leaves, unless it waits for the rack link or for the other point of a
calibration pair (R321). -/
def deliverHead (s : State) : State :=
  match s.pne.deliv with
  | d :: r =>
    match changedPair s d with
    | (none, t) => t
    | (some pr, t) =>
      match deliverRack t d.pnum d.val d.meta_ with
      | none => t
      | some t =>
        let t := deliverRefs t d.pnum (delivered d.meta_ d.val)
        let t := if isCal d.pnum then calLoad t (calChannel d.pnum) pr.1 pr.2 else t
        onPne t (fun p => { p with deliv := r })
  | [] => if rb s pneSts pneStsREADY then deliverAsked s else s

/-! Effects (R320). -/

/-- A change of a point takes effect in its entry: value, metadata, D, and a fresh AGE where the value
was written. -/
def entEffect (s : State) (a n : Nat) (v : Word) (m csn : Nat) (value : Bool) : State :=
  let age := if value then 0 else enAge.get (entWord s a)
  let t := putEntry (entStore s (a + 1) 0) a n v m age
  let w := s.pne.jops.any (fun j => j.pnum == n && j.op.isSome)
  let t := entPut (entPut t a enW (b2n w)) a enD 1
  syncPin (onPne t (fun p => { p with dirty := (n, csn) :: p.dirty.filter (fun d => d.1 != n) })) n m

/-- The way for a point that is not resident and whose words a record gives whole. -/
def wayFor (s : State) (n : Nat) : Option (Nat × State) :=
  match findEntry s n with
  | some a => some (a, s)
  | none => (victimWay s n).map (fun a => (a, putEntry s a n 0 0 0))

/-- The metadata that a record's word 0 carries, and its point. -/
def recMeta (w : Word) : Nat := w.toNat / 2 ^ 25 % 2 ^ 16
def recPnum (w : Word) : Nat := w.toNat % 2 ^ 25

/-- A record takes effect in the PNE (R320, R322, R326, R439); none where it waits for a way, for room in
the delivery queue or for the fill of what the image holds, with the state in which it waits. `quiet`: entered at start-up, with no delivery
(R327). -/
def pneEffect (s : State) (d : PneDue) (quiet : Bool) : Bool × State :=
  let w0 := d.body.getD 0 0
  let w1 := d.body.getD 1 0
  let n := recPnum w0
  let mine := d.jid.isSome
  match d.kind with
  | 1 | 2 | 3 =>
    let m := if d.kind = 3 then 0 else recMeta w0
    let v := if d.kind = 3 then 0 else w1
    if !quiet && (delivFull s || imageWanted s n) then (false, s)
    else match wayFor s n with
      | none => (false, s)
      | some (a, t) =>
        let t := entEffect t a n v m d.csn true
        (true, if quiet then t else queueDelivery t n v m)
  | 4 | 5 =>
    match findEntry s n with
    | some a =>
      let m := withPin (entMeta s a) (d.kind == 4)
      if !quiet && delivFull s then (false, s)
      else
        let t := entEffect s a n (entVal s a) m d.csn false
        (true, if quiet then t else queueDelivery t n (entVal s a) m)
    | none => (false, startPneFill s n)
  | 6 =>
    let v := w0.toNat
    (true, declareUnit s (v % 1024) (v / 2 ^ 16 % 4) (v / 2 ^ 18 % 2 ^ 16) (w1.toNat % 2 ^ 40))
  | 7 =>
    let u := w0.toNat % 1024
    (true, setUnit s u { unitSt s u with logged := w0.toNat / 2 ^ 16 % 8 })
  | 8 => (true, acceptUnit s (w0.toNat % 1024) ((d.body.getD 2 0).toNat % 2 ^ 40) (mine && !quiet))
  | _ => (true, s)

/-- No way is free for the point that the record enters (R316). -/
def PneDue.noWay (s : State) (d : PneDue) : Bool :=
  let n := recPnum (d.body.getD 0 0)
  1 ≤ d.kind && d.kind ≤ 3 && (findEntry s n).isNone && (victimWay s n).isNone

/-- The record waits: an access that waits for a way is counted once (R316). -/
def waitCount (s : State) (d : PneDue) : State := if d.noWay s && !d.waited then inc s pneCnt pneCntSETWAIT else s

/-- The record as it waits on. -/
def PneDue.wait (s : State) (d : PneDue) : PneDue := { d with waited := d.waited || d.noWay s }

/-- Take a journaled operation off the list. -/
def dropJop (s : State) (id : Nat) : State :=
  onPne s (fun p => { p with jops := p.jops.filter (fun j => j.id != id) })

/-- The acknowledged changes take effect in order, as far as they can (R320, R321). -/
def drainDue : Nat → State → State
  | 0, s => s
  | f + 1, s =>
    match s.pne.due with
    | [] => s
    | d :: r =>
      let op := (s.pne.jops.find? (fun j => d.jid == some j.id)).bind (fun j => j.op)
      let t := match d.jid with
        | some i => dropJop s i
        | none => s
      match pneEffect t d false with
      | (false, u) => waitCount { u with pne := { u.pne with jops := s.pne.jops, due := d.wait u :: r } } d
      | (true, u) =>
        let u := onPne u (fun p => { p with due := r })
        drainDue f (match op with
          | some o => pneFinish u o psOk 0 0 d.csn d.ack
          | none => u)

/-- An acknowledged operation of which the cache being started holds nothing yet completes: the start-up enters its commit
(R315, R320, R327). -/
def ackEarly (s : State) (d : PneDue) : State :=
  match d.jid with
  | none => s
  | some i =>
    let op := (s.pne.jops.find? (fun j => j.id == i)).bind (fun j => j.op)
    match op with
    | some o => pneFinish (dropJop s i) o psOk 0 0 d.csn d.ack
    | none => dropJop s i

/-- The journal has acknowledged a record: it is due to take effect (R320, R439); before the commits of
the ring are entered at start-up it will be one of them (R327). -/
def pneAcked (s : State) (kind : Nat) (body : List Word) (csn : Nat) (jid : Option Nat) (ack : Nat) : State :=
  let d : PneDue := ⟨kind, body, csn, jid, ack, false⟩
  if pdLive s 45 && 5 ≤ s.pne.phase then drainDue 80 (onPne s (fun p => { p with due := p.due ++ [d] }))
  else if pdLive s 45 then
    let t := ackEarly s d
    if s.pne.phase = 4 then onPne t (fun p => { p with enter := p.enter ++ [{ d with jid := none }] }) else t
  else s

/-- The journal has refused a record (R318, R344): its operation completes NOJOURNAL. -/
def pneRefused (s : State) (jid ack : Nat) : State :=
  match s.pne.jops.find? (fun j => j.id == jid) with
  | none => s
  | some j =>
    let t := dropJop s jid
    let t := match j.op, findEntry t j.pnum with
      | some _, some a => entPut t a enW (b2n (t.pne.jops.any (fun i => i.pnum == j.pnum && i.op.isSome)))
      | _, _ => t
    match j.op with
    | some o => pneFinish t o psNoJournal 0 0 0 ack
    | none => t

/-- Drydown has applied every commit up to a CSN: the D bits of its points clear (R316, R366). -/
def pneApplied (s : State) (csn : Nat) : State :=
  let gone := s.pne.dirty.filter (fun d => d.2 ≤ csn)
  let t := gone.foldl (fun t d => match findEntry t d.1 with
    | some a => entPut t a enD 0
    | none => t) s
  onPne t (fun p => { p with dirty := p.dirty.filter (fun d => csn < d.2) })

/-! Admission (R317 to R320). -/

/-- Checks 2 and 3 of R318: standby, arguments. -/
def checkArgs (s : State) (op : PneOp) : Option Nat :=
  let u := unitOf op.pnum
  let i := lidxOf op.pnum
  let m := op.aux.toNat % 2 ^ 16
  if (op.src = 4 || op.src = 5) && op.kind ≠ 0 && !isActive s then some psStandby
  else match op.kind with
    | 7 => some psBadArg
    | 6 => if u = 0 || i ≠ 0 then some psBadArg else none
    | 2 =>
      if metaType m = 0 || 7 < metaType m || metaClass m = 7 || (metaClass m == 6) != (decide (0x6000 ≤ i))
        || (u = 0 && 0x100 ≤ i && i ≤ 0x2FF && metaClass m ≠ 4) then some psBadArg else none
    | _ => none

/-- R312 permits the writer: `src` as in `PneOp`. -/
def permitted (op : PneOp) (c : Nat) : Bool :=
  let u := unitOf op.pnum
  if c = 6 then op.src = 2
  else if op.kind ≠ 1 then op.src = 4 || op.src = 5
  else if c = 1 || c = 5 then if u = 0 then op.src = 4 || op.src = 5 else op.src = 1
  else op.src = 4 || op.src = 5

/-- Checks 4 to 7 of R318 on a resident point, the new value and metadata of an operation. -/
def checkPoint (s : State) (op : PneOp) (a : Nat) : Except Nat (Word × Nat) :=
  let n := op.pnum
  let m := entMeta s a
  let x := op.aux.toNat % 2 ^ 16
  let c := if op.kind = 2 then metaClass x else metaClass m
  let src := unitOf n ≠ 0 && (c = 1 || c = 5)
  let ah := pneAhead s n a
  let r : Word × Nat := match op.kind with
    | 1 => (op.val, withQual ah.2 op.qual)
    | 2 => (if src then 0 else op.val, withQual x (if src then 2 else 0))
    | 3 => (0, 0)
    | 4 => (ah.1, withPin ah.2 true)
    | 5 => (ah.1, withPin ah.2 false)
    | _ => (entVal s a, m)
  if op.kind = 2 then
    if metaType m ≠ 0 then .error psExists
    else if !permitted op c then .error psSourced
    else if c = 2 && ustateOf s (unitOf n) = 4 then .error psFrozen
    else if metaPin x && pinFull s n then .error psPinFull
    else .ok r
  else if metaType m = 0 then .error psNoPoint
  else if op.kind = 0 then .ok r
  else if !permitted op c then .error psSourced
  else if c = 2 && ustateOf s (unitOf n) = 4 then .error psFrozen
  else if op.kind = 4 && pinFull s n then .error psPinFull
  else .ok r

/-- Body of the record of an operation (R337). -/
def opBody (op : PneOp) (v : Word) (m : Nat) : List Word :=
  if op.kind ≤ 2 then [BitVec.ofNat 48 (m * 2 ^ 25 + op.pnum), v] else [BitVec.ofNat 48 op.pnum]

/-- DECLARE's record (R317, R337). -/
def declareBody (op : PneOp) : List Word :=
  let a := op.aux.toNat
  [BitVec.ofNat 48 (a % 2 ^ 16 * 2 ^ 18 + a / 2 ^ 16 % 4 * 2 ^ 16 + unitOf op.pnum),
   BitVec.ofNat 48 (op.val.toNat % 2 ^ 40)]

/-- An operation on a VOLATILE or MEASURE point takes effect in its admission cycle (R320). -/
def looseEffect (s : State) (op : PneOp) (a : Nat) (v : Word) (m : Nat) : State :=
  let n := op.pnum
  let age := if op.kind ≤ 2 then 0 else enAge.get (entWord s a)
  let t := syncPin (entStore (entPut (entPut s a enMeta m) a enAge age) a v) n m
  pneFinish (queueDelivery t n v m) op psOk 0 0 0

/-- A queued point of a restoration is sent (R326); a point deleted meanwhile is not. -/
def sendQueued (s : State) (n a : Nat) : Option State :=
  let u := unitOf n
  if metaType (entMeta s a) = 0 then
    let x := unitSt s u
    some (checkRestored (setUnit s u { x with open_ := x.open_.erase (lidxOf n) }) u)
  else rlkDeliver s u (lidxOf n) (delivered (entMeta s a) (entVal s a))

/-- Run an admitted operation whose point is resident at `a` (R318 checks 4 to 8, R320). A CLOSED journal makes it wait,
but refuses the WAC's (R327, R393). -/
def pneRun (s : State) (op : PneOp) (a : Nat) : State :=
  let r := checkPoint s op a
  let v := entVal s a
  let m := reportedMeta s a
  let t := entCheck s a
  if op.kind = 8 then (sendQueued s op.pnum a).getD s
  else match r with
    | .error st => pneFinish t op st 0 0 0
    | .ok (v', m') =>
      let c := if op.kind = 2 then m' else entMeta s a
      if op.kind = 0 then pneFinish t op psOk v m 0
      else if metaLoose c then looseEffect t op a v' m'
      else if jneState s ≠ 3 && (jneState s ≠ 4 || op.src = 2) then pneFinish t op psNoJournal 0 0 0
      else pneJournal t (some op) op.kind (opBody op v' m') op.pnum v' m'

/-- DECLARE of an admitted operation (R318, R322). -/
def runDeclare (s : State) (op : PneOp) : State :=
  if jneState s ≠ 3 && jneState s ≠ 4 then pneFinish s op psNoJournal 0 0 0
  else pneJournal s (some op) 6 (declareBody op) (2 ^ 25) 0 0

/-- The operation would change a VOLATILE or MEASURE point at `a` (R320). -/
def looseChange (s : State) (op : PneOp) (a : Nat) : Bool :=
  1 ≤ op.kind && op.kind ≤ 5 && metaLoose (if op.kind = 2 then op.aux.toNat % 2 ^ 16 else entMeta s a)

/-- Its change would not find room in the delivery queue, so it cannot take effect (R321). -/
def looseFull (s : State) (op : PneOp) (a : Nat) : Bool :=
  looseChange s op a && delivFull s

/-- An admitted operation waits behind one that was admitted before it: one on its point, a journaled one, so that CSNs
follow the order of admission, or the sending of a point queued before it (R319, R326). -/
def behindOp (op : PneOp) (loose : Bool) (o : PneOp) : Bool :=
  o.pnum == op.pnum || (o.kind == 8 && op.kind == 8) ||
    (1 ≤ o.kind && o.kind ≤ 6 && 1 ≤ op.kind && op.kind ≤ 6 && !loose)

/-- An admitted operation cannot run yet; `before`: those admitted earlier that wait. A read of a resident point returns
the value in effect now (R319). -/
def opWaits (s : State) (before : List PneOp) (op : PneOp) : Bool :=
  if op.kind = 6 then before.any (behindOp op false)
  else match findEntry s op.pnum with
    | none => true
    | some a =>
      op.kind != 0 && (before.any (behindOp op (looseChange s op a)) || looseFull s op a ||
        (op.kind == 8 && (sendQueued s op.pnum a).isNone))

/-- Run an admitted operation that can run. -/
def runOp (s : State) (op : PneOp) : State :=
  if op.kind = 6 then runDeclare s op
  else match findEntry s op.pnum with
    | some a => pneRun s op a
    | none => s

/-- A miss starts a fill (R316). -/
def opFill (s : State) (op : PneOp) : State :=
  if op.kind = 6 || (findEntry s op.pnum).isSome then s else startPneFill s op.pnum

/-- Admitted operations run in order, as far as they can: `before` waits. -/
def drainCur (s : State) (before : List PneOp) : List PneOp → State
  | [] => onPne s (fun p => { p with cur := before })
  | op :: r =>
    if opWaits s before op then drainCur (opFill s op) (before ++ [op]) r else drainCur (runOp s op) before r

/-- Admitted operations run while the cache serves them (R315, R327). -/
def runCur (s : State) : State := if 6 ≤ s.pne.phase then drainCur s [] s.pne.cur else s

/-- An operation is admitted (R318, R319): a miss starts a fill and the operation completes with it. -/
def pneAdmit (s : State) (op : PneOp) : State :=
  if !rb s pneSts pneStsREADY then (if op.src = 3 then s else pneFinish s op psNotReady 0 0 0)
  else match checkArgs s op with
    | some st => pneFinish s op st 0 0 0
    | none =>
      if opWaits s s.pne.cur op then onPne (opFill s op) (fun p => { p with cur := p.cur ++ [op] }) else runOp s op

/-- An operation that would take effect at once waits for room in the delivery queue (R321); a queued point may be sent
once the send table takes it. -/
def mayAdmit (s : State) (op : PneOp) : Bool :=
  if op.kind ≠ 8 then (match findEntry s op.pnum with
    | some a => !looseFull s op a
    | none => true)
  else (sendOf s (unitOf op.pnum) (lidxOf op.pnum)).isSome || !rlkHolds s ||
    ((s.rlk.send.filter (fun e => e.unit == unitOf op.pnum)).length < 256 && s.rlk.send.length < 8192)

/-- Rank of an operation (R319): reports, the WAC, restoration, mailboxes in ascending r, the command
port. -/
def opRank (op : PneOp) : Nat := op.src * 16 + (if op.src = 4 then op.id else 0)

/-- The first of the lowest rank. -/
def bestOp : List PneOp → Option PneOp
  | [] => none
  | o :: r => match bestOp r with
    | some x => if opRank x < opRank o then some x else some o
    | none => some o

/-- The operation that R319 admits next. -/
def nextOp (s : State) : Option PneOp :=
  let l := s.pne.ops.filter (mayAdmit s)
  match l.find? (fun o => o.at_ + 32 ≤ 2 * s.port) with
  | some o => some o
  | none => bestOp l

/-- Hand an operation to the PNE (R319). -/
def pneSubmit (s : State) (op : PneOp) : State := onPne s (fun p => { p with ops := p.ops ++ [op] })

/-- PNE_ADMISSION (R319). -/
def execPneAdmission (s : State) : Out :=
  let t := pneFlushUnsent s
  match nextOp t with
  | none => ok t
  | some op =>
    if pdLive s 45 && s.running then
      ok (pneAdmit (onPne t (fun p => { p with ops := p.ops.erase op })) op)
    else ok t

/-- POINT_DELIVERY (R321). -/
def execPointDelivery (s : State) : Out :=
  onlyIf (pdLive s 45 && s.running) s (runCur (drainDue 80 (deliverHead s)))

/-- The consequences of a fill that has failed (R19, R316). -/
def fillFailed (s : State) (n : Nat) : State :=
  let t := imgErr s
  let t := match t.pne.deliv with
    | d :: r =>
      if d.lacks n then
        onPne (deliverRefs t d.pnum (delivered d.meta_ d.val)) (fun p => { p with deliv := r }) else t
    | [] => t
  let t := onPne t (fun p => { p with srcs := p.srcs.filter (fun k => k != n),
                                      reload := if isCal n then p.reload.filter (fun c => c != calChannel n) else p.reload })
  let gone := t.pne.cur.filter (fun o => o.pnum == n)
  gone.foldl (fun u op => pneFinish u op psImgErr 0 0 0) (onPne t (fun p => { p with cur := p.cur.filter (fun o => o.pnum != n) }))

/-- A fill's words are there: the point is entered, and the operations that waited for it run. -/
def fillArrived (s : State) (n a : Nat) (v : Word) (m : Nat) : State :=
  let t := putEntry s a n v m (if metaLoose m then 15 else 0)
  drainDue 80 (runCur (onPne t (fun p => { p with deliv := mated p.deliv n (delivered m v) })))

/-- CACHE_FILL (R316): the oldest image read that has completed. In a full set it waits, and SETWAIT
counts the access once. -/
def execCacheFill (s : State) : Out :=
  match s.ports.done.find? (fun x => s.pne.fills.any (fun p => x.use == useFill p.1)) with
  | none => ok s
  | some x =>
    match s.pne.fills.find? (fun p => x.use == useFill p.1) with
    | none => ok s
    | some (n, waited) =>
      let u := { s with ports := { s.ports with done := s.ports.done.erase x } }
      let u := onPne u (fun p => { p with fills := p.fills.filter (fun q => q.1 != n) })
      if x.code ≠ 0 then ok (fillFailed u n)
      else match findEntry s n, victimWay s n with
        | some _, _ => ok u
        | none, some a => ok (fillArrived u n a (x.word 0) ((x.word 1).toNat % 2 ^ 16))
        | none, none =>
          if waited then ok s
          else ok (onPne (inc s pneCnt pneCntSETWAIT) (fun p => { p with
            fills := p.fills.map (fun q => if q.1 = n then (n, true) else q) }))

/-! Mailboxes (R317). -/

/-- A write of PNE_MBPNT[r] by a requester. -/
def pneMbpntWrite (s : State) (q : Req) (r : Nat) (v : Word) : State :=
  let wop := pneMbpntWOP.get v
  let may := holdsType s q 8
  let n := pneMbpntPNUM.get v
  let code := if may then 0 else 2
  if q.who.val ≠ r then respond s 0
  else if rb s (pneMbsts r) pneMbstsBUSY then respond s code
  else
    let t := wf s (pneMbpnt r) pneMbpntPNUM n
    let kind := if wop ≠ 0 && may then wop else 0
    if kind = 0 && pneMbpntRD.get v = 0 then respond t code
    else
      let op : PneOp := ⟨4, r, kind, n, rd t (pneMbval r), rd t (pneMbaux r), 0, 2 * s.port⟩
      respond (pneSubmit (wb t (pneMbsts r) pneMbstsBUSY true) op) code

/-- The mailbox command that writes RD or WOP and the point number. -/
def pneMailbox (q : Req) (r n kind : Nat) (s : State) : Out :=
  if pdOn s 45 then
    ok (pneMbpntWrite s q r (if kind = 0 then pneMbpntRD.put (BitVec.ofNat 48 n) 1 else pneMbpntWOP.put (BitVec.ofNat 48 n) kind))
  else ok (respond s 3)

/-- PNE_READ (R317). -/
def execPneRead (q : Req) (r : Fin 12) (n : BitVec 25) (s : State) : Out := pneMailbox q r.val n.toNat 0 s

/-- PNE_WRITE (R317). -/
def execPneWrite (q : Req) (r : Fin 12) (n : BitVec 25) (s : State) : Out := pneMailbox q r.val n.toNat 1 s

/-- PNE_DEFINE (R317). -/
def execPneDefine (q : Req) (r : Fin 12) (n : BitVec 25) (s : State) : Out := pneMailbox q r.val n.toNat 2 s

/-- PNE_DELETE (R317). -/
def execPneDelete (q : Req) (r : Fin 12) (n : BitVec 25) (s : State) : Out := pneMailbox q r.val n.toNat 3 s

/-- PNE_PIN (R317). -/
def execPnePin (q : Req) (r : Fin 12) (n : BitVec 25) (s : State) : Out := pneMailbox q r.val n.toNat 4 s

/-- PNE_UNPIN (R317). -/
def execPneUnpin (q : Req) (r : Fin 12) (n : BitVec 25) (s : State) : Out := pneMailbox q r.val n.toNat 5 s

/-- PNE_DECLARE (R317, R322). -/
def execPneDeclare (q : Req) (r : Fin 12) (n : BitVec 25) (s : State) : Out := pneMailbox q r.val n.toNat 6 s

/-- PNE_WOP_RESERVED (R317). -/
def execPneWopReserved (q : Req) (r : Fin 12) (n : BitVec 25) (s : State) : Out := pneMailbox q r.val n.toNat 7 s

end Sys2Proof.Machine
end

