-- ==== Sys2Proof/Machine/PneUnit.lean ====
section
/-! DEFINITION. The point engine's unit states over rack cycles, restoration, scans, start-up, power and
the pair (R322 to R327, R442, R534). -/

namespace Sys2Proof.Machine

/-! Rack cycles (R323, R324, R326). -/

/-- What the rack link reports of a configured unit at a cycle end (R411): a valid frame with model and
serial, or none. -/
def unitReport (s : State) (u : Nat) (r : Option (Nat × Nat)) : State :=
  let x := unitSt s u
  match r with
  | some (model, serial) =>
    let t := setUnit s u { x with miss := 0 }
    let t := wf (wf t (pneUstate u) pneUstateOMODEL model) (pneUoser u) pneUoserSERIAL serial
    setOstate t u (classify t u)
  | none =>
    let t := setUnit s u { x with miss := x.miss + 1 }
    if max 1 (rf s pneCtrl pneCtrlSILENTN) ≤ x.miss + 1 then setOstate t u 1 else t

/-- A unit whose declaration took effect or whose OSTATE changed is evaluated (R324). -/
def evalUnit (s : State) (u : Nat) : State :=
  if u ≠ 0 && (unitSt s u).chg then
    let e := ustateTable (rf s (pneUstate u) pneUstateDSTATE) (ostateOf s u)
    setUstate (setUnit s u { unitSt s u with chg := false }) u e.1 e.2
  else s

/-- One more rack cycle of a restoration (R326). -/
def restoreCycle (s : State) (u : Nat) : State :=
  if ustateOf s u = 3 && isActive s then setUnit s u { unitSt s u with rest := (unitSt s u).rest + 1 } else s

/-- Units of which something is known. -/
def knownUnits (s : State) : List Nat := s.pne.units.map (fun p => p.1)

/-- The PNE's part of a rack cycle end (R323 to R326). -/
def pneCycleEnd (s : State) (rs : List (Nat × Option (Nat × Nat))) : State :=
  if pdLive s 45 && rb s pneSts pneStsREADY then
    let t := (knownUnits s).foldl restoreCycle s
    let t := rs.foldl (fun t p => unitReport t p.1 p.2) t
    (knownUnits t).foldl evalUnit t
  else s

/-- An echo has matched: the unit has echoed the point, whether the restoration queued it or a delivery sent it, unless it
is queued again (R313, R326, R413). -/
def pneEchoed (s : State) (u lidx : Nat) : State :=
  let x := unitSt s u
  let queued := fun (o : PneOp) => o.src == 3 && o.pnum == u * 2 ^ 15 + lidx
  if ustateOf s u = 3 && !s.pne.ops.any queued && !s.pne.cur.any queued then
    checkRestored (setUnit s u { x with open_ := x.open_.erase lidx, echoed := lidx :: x.echoed.erase lidx }) u
  else s

/-- RESTORE_TIMEOUT (R326): the restoration of unit u has exceeded RESTTO rack cycles. -/
def execRestoreTimeout (u : Fin 1024) (s : State) : Out :=
  let x := unitSt s u.val
  onlyIf (pdLive s 45 && ustateOf s u.val == 3 && isActive s && max 1 (rf s pneCtrl pneCtrlRESTTO) < x.rest) s
    (let t := setUstate s u.val 4 5
     setUnit t u.val { unitSt t u.val with stuck := true })

/-! Scans (R534). -/

/-- Class that a pass of a scan looks for. -/
def passClass (pass : Nat) : Nat := if pass = 1 then 4 else if pass = 2 then 3 else 2

/-- The scan goes on to the next index, or pass, or ends (R534). -/
def scanNext (s : State) (u pass i : Nat) : State :=
  let x := unitSt s u
  let sc := if i + 1 < 0x6000 then some (pass, i + 1) else if pass = 1 || pass = 2 then some (pass + 1, 0) else none
  let t := setUnit s u { x with scan := sc, reading := false }
  if sc.isNone && pass ≠ 0 then checkRestored t u else t

/-- A point found by a scan: a SETPOINT of a unit in service is sent, a point of a restoration is queued
(R324, R326); none while the send table has no room. -/
def scanFound (s : State) (u pass i : Nat) (v : Word) (m : Nat) : Option State :=
  let n := u * 2 ^ 15 + i
  if metaType m = 0 || metaClass m ≠ passClass pass then some s
  else if pass = 0 then rlkDeliver s u i (delivered m v)
  else if (unitSt s u).open_.contains i then some s
  else some (requeue s n)

/-- POINT_SCAN (R534): the next index of unit u's scan, from its cache entry or from the image. An image
read that fails sets IMGERR and the index is passed over. -/
def execPointScan (u : Fin 1024) (s : State) : Out :=
  let x := unitSt s u.val
  match x.scan with
  | none => ok s
  | some (pass, i) =>
    let n := u.val * 2 ^ 15 + i
    if !pdLive s 45 || !rb s pneSts pneStsREADY then ok s
    else match findEntry s n with
      | some a =>
        ok (match scanFound (entCheck s a) u.val pass i (entVal s a) (entMeta s a) with
          | some t => scanNext (if x.reading then hmpDrop t (fun h => h == useScan n) else t) u.val pass i
          | none => s)
      | none =>
        if !x.reading then
          ok (hmpReq (setUnit s u.val { x with reading := true }) (useScan n) false (imgAddr s + 2 * n) 2 [] false true)
        else match hmpTake s (fun h => h == useScan n) with
          | none => ok s
          | some (r, t) =>
            if r.code ≠ 0 then ok (scanNext (imgErr t) u.val pass i)
            else ok (match scanFound t u.val pass i (r.word 0) ((r.word 1).toNat % 2 ^ 16) with
              | some t => scanNext t u.val pass i
              | none => s)

/-! Enabling, start-up and disabling (R314, R315, R327). -/

/-- Clearing of the cache begins; its pace is one entry in each FABRIC cycle (DESIGN CHOICE, log entry 71). -/
def pneClear (s : State) : State :=
  let t := wb (clearCache s) pneCcfg pneCcfgCLEARING true
  setPins (onPne t (fun p => { p with phase := 1, clrEnd := s.port + pneStripes s * 16384, dirty := [],
                                      fills := [], reload := [], due := [], enter := [], tbl := 0,
                                      units := p.units.map (fun x => (x.1, { x.2 with reading := false })) })) []

/-- The PNE gives up the image reads that it has asked for; its writes go on (R315). -/
def pneReadsDrop (s : State) : State :=
  hmpDrop s (fun h => match h with
    | .unit 21 i => i != 3
    | _ => false)

/-- The VOLATILE and MEASURE values of the cache go to the image (R315). -/
def saveLoose (s : State) : State :=
  (validEntries s).foldl (fun t a =>
    if metaLoose (entMeta t a) && metaType (entMeta t a) != 0 then writeImage t a else t) s

/-- EN is written to 1, BASE being a multiple of the stripe count: the region is taken and cleared (R315). -/
def pneEnable (s : State) : State :=
  pneClear (onPne (wb s pneCcfg pneCcfgEN true) (fun p => { p with
    region := (rf s pneCcfg pneCcfgBASE, pneSizeOf (rf s pneCcfg pneCcfgSIZE)) }))

/-- EN is written to 1 while a disable runs (R315): the values in the cache go to the image, operations whose change was
acknowledged complete, the start-up entering their commits, and the cache starts anew. -/
def pneReenable (s : State) (v : Word) : State :=
  let t := pneReadsDrop (saveLoose s)
  let t := t.pne.due.foldl ackEarly t
  pneEnable (wf (wf t pneCcfg pneCcfgBASE (pneCcfgBASE.get v)) pneCcfg pneCcfgSIZE (pneCcfgSIZE.get v))

/-- READY falls and the start-up runs again from its beginning (R327, R441): operations on their way
through the journal complete NOJOURNAL. -/
def pneRestart (s : State) : State :=
  if pdOn s 45 && rb s pneCcfg pneCcfgEN && 1 < s.pne.phase then
    let t := wb s pneSts pneStsREADY false
    let t := pneReadsDrop t
    let t := t.pne.cur.foldl (fun t op => pneFinish t op psNotReady 0 0 0) (onPne t (fun p => { p with cur := [], deliv := [] }))
    let t := t.pne.jops.foldl (fun t j => match j.op with
      | some o => pneFinish t o psNoJournal 0 0 0
      | none => t) t
    pneClear (onPne t (fun p => { p with jops := [], unsent := [] }))
  else s

/-- A write of PNE_CCFG (R315, R329). -/
def pneCcfgWrite (s : State) (q : Req) (v : Word) : State :=
  if !holdsType s q 8 then respond s 2
  else
    let en := pneCcfgEN.get v == 1
    let was := rb s pneCcfg pneCcfgEN
    if was && en then respond s 0
    else if was then
      let t := wf (wf s pneCcfg pneCcfgBASE (pneCcfgBASE.get v)) pneCcfg pneCcfgSIZE (pneCcfgSIZE.get v)
      let t := wb (wb (wb t pneCcfg pneCcfgEN false) pneSts pneStsREADY false) pneCcfg pneCcfgCLEARING false
      respond (onPne t (fun p => { p with phase := 7 })) 0
    else
      let t := wf (wf s pneCcfg pneCcfgBASE (pneCcfgBASE.get v)) pneCcfg pneCcfgSIZE (pneCcfgSIZE.get v)
      if en && pneCcfgBASE.get v % pneSizeOf (pneCcfgSIZE.get v) = 0 then
        respond (if s.pne.phase = 7 then pneReenable s v else pneEnable t) 0
      else respond t 0

/-- PNE_CACHE_ENABLE (R315). -/
def execPneCacheEnable (q : Req) (size : BitVec 2) (base : BitVec 4) (s : State) : Out :=
  if pdOn s 45 then ok (pneCcfgWrite s q (BitVec.ofNat 48 (0x80 + size.toNat * 16 + base.toNat)))
  else ok (respond s 3)

/-- PNE_CACHE_DISABLE (R315). -/
def execPneCacheDisable (q : Req) (s : State) : Out :=
  if pdOn s 45 then ok (pneCcfgWrite s q (pneCcfgEN.put (rd s pneCcfg) 0)) else ok (respond s 3)

/-- Everything admitted has taken effect and has been delivered (R315). -/
def pneQuiet (s : State) : Bool :=
  s.pne.jops.isEmpty && s.pne.due.isEmpty && s.pne.deliv.isEmpty && s.pne.cur.isEmpty

/-- PNE_DISABLE_DONE (R315): the VOLATILE and MEASURE values go to the image and the region is left. -/
def execPneDisableDone (s : State) : Out :=
  onlyIf (pdLive s 45 && s.pne.phase == 7 && pneQuiet s) s
    (let t := setPins (clearCache (pneReadsDrop (saveLoose s))) []
     onPne t (fun p => { p with phase := 0, dirty := [], fills := [], reload := [],
                                  units := p.units.map (fun x => (x.1, { x.2 with reading := false })) }))

/-- A word of the pin table or of the unit records is taken (R314, R327). -/
def tableWord (s : State) (i : Nat) (w : Word) : State :=
  if i < 4096 then (if bitOf w 47 then onPne s (fun p => { p with pins := p.pins ++ [w.toNat % 2 ^ 25] }) else s)
  else
    let u := (i - 4096) / 4
    if u = 0 then s
    else match (i - 4096) % 4 with
      | 0 =>
        let t := wf (wf s (pneUstate u) pneUstateDSTATE (pneUstateDSTATE.get w)) (pneUstate u) pneUstateDMODEL
          (pneUstateDMODEL.get w)
        if w = 0 then t else setUnit t u { unitSt t u with chg := true }
      | 1 => wf s (pneUdser u) pneUdserSERIAL (pneUdserSERIAL.get w)
      | 2 => wf s (pneUaser u) pneUaserSERIAL (pneUaserSERIAL.get w)
      | _ => s

/-- The records of the ring above APPLIED that are acknowledged, in CSN order (R327). -/
def ringRecords (s : State) : List PneDue :=
  ((s.jne.log.filter (fun c => c.acked && !c.dried)).map (fun c =>
    c.recs.map (fun r => (⟨r.1, r.2, c.csn, none, 0, false⟩ : PneDue)))).flatten

/-- Reading the tables (R327 step 4), 8 words at a time. A read that fails sets IMGERR and is repeated. -/
def tableStep (s : State) : State :=
  let ask := fun (t : State) => hmpReq t useTable false (imgAddr t + 2 ^ 26 + t.pne.tbl) 8 [] false true
  match hmpTake s (fun h => h == useTable) with
  | none => s
  | some (x, t) =>
    if x.code ≠ 0 then ask (imgErr t)
    else
      let t := (List.range 8).foldl (fun t j => tableWord t (s.pne.tbl + j) (x.word j)) t
      let t := onPne t (fun p => { p with tbl := p.tbl + 8 })
      if t.pne.tbl < 8192 then ask t
      else onPne t (fun p => { p with phase := 4, enter := ringRecords t })

/-- Entering the commits of the ring (R327 step 5). -/
def enterStep : Nat → State → State
  | 0, s => s
  | f + 1, s =>
    match s.pne.enter with
    | [] => (s.pne.pins.foldl (fun t n => if (findEntry t n).isSome then t else startPneFill t n)
        (onPne (setPins s s.pne.pins) (fun p => { p with phase := 5 })))
    | d :: r =>
      match pneEffect s d true with
      | (false, t) => waitCount (onPne t (fun p => { p with enter := d.wait t :: r })) d
      | (true, t) => enterStep f (onPne t (fun p => { p with enter := r }))

/-- What the PNE does by itself in a PORT cycle: the steps of its start-up (R327). -/
def pneTick (s : State) : State :=
  if !pdLive s 45 then s
  else match s.pne.phase with
    | 1 =>
      if s.pne.clrEnd ≤ s.port then
        onPne (wb s pneCcfg pneCcfgCLEARING false) (fun p => { p with phase := 2 })
      else s
    | 2 =>
      if jneState s ≠ 3 then s
      else if !imgOk s then imgErr s
      else hmpReq (onPne s (fun p => { p with phase := 3, tbl := 0 })) useTable false (imgAddr s + 2 ^ 26) 8 [] false true
    | 3 => tableStep s
    | 4 => enterStep 64 s
    | 5 => s.pne.pins.foldl (fun t n => if (findEntry t n).isSome then t else startPneFill t n) s
    | _ => pneFlushUnsent s

/-- PNE_READY (R327): every step of the start-up is complete. -/
def execPneReady (s : State) : Out :=
  onlyIf (pdOn s 45 && s.pne.phase == 5 && jneState s == 3 &&
      s.pne.pins.all (fun n => (findEntry s n).isSome)) s
    (let t := wb s pneSts pneStsREADY true
     let t := onPne t (fun p => { p with phase := 6, ageFrom := s.port, ageLast := s.port,
                                         units := p.units.map (fun x => (x.1, { x.2 with miss := 0 })) })
     let t := (List.range 1024).foldl (fun t u => setOstate t u 0) t
     pneReload (runCur (drainDue 80 t)))

/-! Loss of the domain, and the pair (R327, R442). -/

/-- The PNE's WAKE reset: nothing of it remains; its registers reset with the domain. -/
def pneLost (s : State) : State :=
  hmpDrop { s with pne := Pne.zero } (fun h => match h with
    | .unit 21 _ => true
    | _ => false)

/-- A unit at entry to ACTIVE (R442): evaluated again, its difference from its latest record journaled,
its restoration or its setpoints begun. -/
def activateUnit (s : State) (u : Nat) : State :=
  let e := if (unitSt s u).stuck then (4, 5) else ustateTable (rf s (pneUstate u) pneUstateDSTATE) (ostateOf s u)
  let old := ustateOf s u
  let t := wf (wf s (pneUstate u) pneUstateUSTATE e.1) (pneUstate u) pneUstateCAUSE (if e.1 = 4 then e.2 else 0)
  let t := countConf t (old == 4) (e.1 == 4)
  let t := setUnit t u { unitSt t u with chg := false }
  let t := if e.1 = (unitSt t u).logged then t else unitRecord t u (unitSt t u).logged
  beginScan t u

/-- Units that are declared, observed or otherwise known. -/
def liveUnits (s : State) : List Nat :=
  (List.range 1024).filter (fun u => u != 0 && (rd s (pneUstate u) != 0 || (knownUnits s).contains u))

/-- Entry to ACTIVE (R442). -/
def pneEnterActive (s : State) : State :=
  if pdOn s 45 && rb s pneSts pneStsREADY then (liveUnits s).foldl activateUnit s else s

/-- Leaving ACTIVE: a standby neither sends nor restores anything (R442). -/
def pneLeaveActive (s : State) : State := (knownUnits s).foldl dropRestore s

end Sys2Proof.Machine
end

