-- ==== Sys2Proof/Machine/Wac.lean ====
section
/-! DEFINITION. The wear accountant (R381 to R396). -/

namespace Sys2Proof.Machine

/-- Change the WAC's state. -/
def onWac (s : State) (f : Wac → Wac) : State := { s with wac := f s.wac }

/-- NSW and UPER as they act (R396). -/
def wacNsw (s : State) : Nat := min 16384 (rf s wacCtrl wacCtrlNSW)
def wacUper (s : State) : Nat := max 1 (rf s wacCtrl wacCtrlUPER)

/-- Words of a switch's configuration and state record (R382). -/
def wacCfg (s : State) (t i : Nat) : Word := ownWord s (rf s wacBase wacBaseCFGBASE + 16 * t + i)
def wacStAddr (s : State) (t i : Nat) : Nat := rf s wacBase wacBaseSTBASE + 16 * t + i
def wacSt (s : State) (t i : Nat) : Word := ownWord s (wacStAddr s t i)
def setWacSt (s : State) (t i : Nat) (w : Word) : State := ownPut s (wacStAddr s t i) w

/-- The point of counter k of switch t (R310, R381). -/
def counterPoint (t k : Nat) : Nat := t / 16 * 2 ^ 15 + 0x6000 + 512 * (t % 16) + k

/-! Inputs (R384). -/

/-- A point as the WAC reads it: reported QUAL and value. It asks the PNE, which admits the read (R319), and the update
waits (none). -/
def wacRead (s : State) (n : Nat) : Option (Nat × Word) × State :=
  match s.wac.reads.find? (fun r => r.1 == n) with
  | some (_, q, v) => (some (q, v), s)
  | none =>
    if s.wac.asking.contains n then (none, s)
    else
      let t := pneSubmit s ⟨2, 2 ^ 32 + n, 0, n, 0, 0, 0, 2 * s.port⟩
      (none, onWac t (fun w => { w with asking := n :: w.asking }))

/-- Collect the results of input reads. -/
def wacCollect (s : State) : State :=
  let l := s.pne.done.filter (fun d => d.src == 2 && 2 ^ 32 ≤ d.id)
  let t := onPne s (fun p => { p with done := p.done.filter (fun d => !(d.src == 2 && 2 ^ 32 ≤ d.id)) })
  onWac t (fun w => { w with
    asking := w.asking.filter (fun n => !l.any (fun d => d.id == 2 ^ 32 + n)),
    reads := l.map (fun d => (d.id - 2 ^ 32, if d.status = 0 then metaQual d.meta_ else 15, d.val)) ++ w.reads })

/-! Rainflow counting (R386 to R388). -/

/-- Slot i of switch t: its K and D (R382). -/
def slotWord (i : Nat) : Nat := 13 + i / 2
def slotKD (s : State) (t i : Nat) : Nat × Nat :=
  let v := (wacSt s t (slotWord i)).toNat / 2 ^ (24 * (i % 2)) % 2 ^ 24
  (v / 2 ^ 15, v % 2 ^ 15)

/-- Set slot i; an empty slot is zero. -/
def setSlotKD (s : State) (t i k d : Nat) : State :=
  let f : Fld := if i % 2 = 0 then ⟨23, 0⟩ else ⟨47, 24⟩
  setWacSt s t (slotWord i) (f.put (wacSt s t (slotWord i)) (if d = 0 then 0 else k * 2 ^ 15 + d))

/-- The first counter write's next request to the PNE (R389). -/
def wacPump (s : State) : State :=
  match s.wac.writes with
  | [] => s
  | x :: r =>
    if x.step ≠ 0 then s
    else
      let d := match x.slot with
        | some i => (slotKD s x.t i).2
        | none => x.d
      let u := pneSubmit s ⟨2, s.wac.seq, 0, counterPoint x.t x.k, 0, 0, 0, 2 * s.port⟩
      onWac u (fun w => { w with writes := { x with d := d, step := 1 } :: r })

/-- A count that finds no slot is written through at once (R388). -/
def wacFlush (s : State) (t k n : Nat) : State :=
  let u := inc (wb s wacSts wacStsFLUSH true) wacCnt wacCntFLUSHES
  wacPump (onWac u (fun w => { w with writes := w.writes ++ [⟨t, k, n, none, false, 0⟩] }))

/-- n half cycles are added to counter k of switch t (R388). -/
def wacAdd (s : State) (t k n : Nat) : State :=
  match (List.range 4).find? (fun i => (slotKD s t i).2 != 0 && (slotKD s t i).1 == k) with
  | some i =>
    if (slotKD s t i).2 + n ≤ 32767 then setSlotKD s t i k ((slotKD s t i).2 + n) else wacFlush s t k n
  | none =>
    match (List.range 4).find? (fun i => (slotKD s t i).2 == 0) with
    | some i => setSlotKD s t i k n
    | none => wacFlush s t k n

/-- Counter index of a pair of reversals (R387). With a width that is not positive, which the switch's
configuration must not give, the bin is a free value. -/
def wacIndex (s : State) (t : Nat) (u w : Int) : Nat × State :=
  let dtw := sint (wacCfg s t 13)
  let base := sint (wacCfg s t 14)
  let wid := sint (wacCfg s t 15)
  let b : Nat × State :=
    if 0 < dtw then (min 63 ((Int.natAbs (u - w)) / dtw.toNat), s)
    else let f := freshWord s; (f.1.toNat % 64, f.2)
  let m : Nat × State :=
    if 0 < wid then (min 7 ((max 0 ((u + w - 2 * base) / (2 * wid))).toNat), b.2)
    else let f := freshWord b.2; (f.1.toNat % 8, f.2)
  (64 * m.1 + b.1, m.2)

/-- count(u, w, n) of R387. -/
def wacCount (s : State) (t : Nat) (u w : Int) (n : Nat) : State :=
  let k := wacIndex s t u w
  let r := wacAdd k.2 t k.1 n
  if n = 2 then inc r wacCnt wacCntCYCLES else r

/-- Reduction of the reversals by the four-point rule, newest first (R387). -/
def fourPoint (t : Nat) : Nat → List Int → State → List Int × State
  | f + 1, d :: c :: b :: a :: r, s =>
    if Int.natAbs (b - c) ≤ Int.natAbs (a - b) && Int.natAbs (b - c) ≤ Int.natAbs (c - d) then
      fourPoint t f (d :: a :: r) (wacCount s t b c 2)
    else (d :: c :: b :: a :: r, s)
  | _, l, s => (l, s)

/-- Fields of CTL (R382). -/
def ctlDepth : Fld := ⟨2, 0⟩
def ctlDir : Fld := ⟨5, 4⟩
def ctlQbad : Fld := ⟨8, 8⟩
def ctlStarted : Fld := ⟨9, 9⟩

/-- Set a field of CTL. -/
def setCtl (s : State) (t : Nat) (f : Fld) (v : Nat) : State := setWacSt s t 11 (f.put (wacSt s t 11) v)

/-- The reversal stack, newest first. -/
def wacStack (s : State) (t : Nat) : List Int :=
  ((List.range (min 6 (ctlDepth.get (wacSt s t 11)))).map (fun i => sint (wacSt s t (4 + i)))).reverse

/-- Store it. -/
def setStack (s : State) (t : Nat) (l : List Int) : State :=
  let o := l.reverse
  let u := (List.range o.length).foldl (fun u i => setWacSt u t (4 + i) (wordOfInt (o.getD i 0))) s
  setCtl u t ctlDepth o.length

/-- A reversal is pushed (R387). -/
def wacPush (s : State) (t : Nat) (v : Int) : State :=
  let l := wacStack s t
  let r : List Int × State :=
    if l.length = 6 then (l.dropLast, wacCount s t (l.getD 5 0) (l.getD 4 0) 1) else (l, s)
  let r := fourPoint t 8 (v :: r.1) r.2
  setStack r.2 t r.1

/-- Search for reversals with hysteresis DTW/2 (R386). -/
def wacReversal (s : State) (t : Nat) (x : Int) : State :=
  let e := sint (wacSt s t 10)
  let dtw := sint (wacCfg s t 13)
  let ctl := wacSt s t 11
  let setE := fun (u : State) => setWacSt u t 10 (wordOfInt x)
  let up := decide (dtw ≤ 2 * (x - e))
  let down := decide (dtw ≤ 2 * (e - x))
  match ctlDir.get ctl with
  | 0 =>
    if ctlStarted.get ctl = 0 then setCtl (setE s) t ctlStarted 1
    else if up then setE (setCtl (wacPush s t e) t ctlDir 1)
    else if down then setE (setCtl (wacPush s t e) t ctlDir 2)
    else s
  | 1 =>
    if e < x then setE s
    else if down then setE (setCtl (wacPush s t e) t ctlDir 2)
    else s
  | _ =>
    if x < e then setE s
    else if up then setE (setCtl (wacPush s t e) t ctlDir 1)
    else s

/-! The update (R384, R385). -/

/-- The loss of a current or power input (R384). -/
def wacLoss (s : State) (t : Nat) (i : Word) : Int :=
  let x : Int := Int.natAbs (sint i)
  let k2 := sint (wacCfg s t 2)
  let k1 := sint (wacCfg s t 3)
  let k0 := sint (wacCfg s t 4)
  let v := (satInt 48 (rne (k2 * x) 40)).1
  let p := (satInt 48 (rne (v * x * 2 ^ 8 + k1 * x + k0 * 2 ^ 40) 40)).1
  max p 0

/-- One step of pole i of the Foster model (R385). -/
def wacPole (s : State) (t i : Nat) (p : Int) : State :=
  let g := sint (wacCfg s t (5 + i))
  let a := sint (wacCfg s t (9 + i))
  setWacSt s t i (wordOfInt (satInt 48 (rne (a * sint (wacSt s t i) + g * p) 40)).1)

/-- An update reads its switch's 32 words on port 22 (R394). -/
def wacReads (s : State) (t : Nat) : State :=
  ownChecks (ownChecks s (rf s wacBase wacBaseCFGBASE + 16 * t) 16 22) (wacStAddr s t 0) 16 22

/-- And writes its state record, 16 words (R394). -/
def wacBeats (s : State) (t : Nat) : State := forN 16 s (fun u i => beat u (wacStAddr s t i) 22 true true)

/-- The update of switch t with its inputs: reported QUAL and value of the loss input (none: P = 0), and
of the reference (R384, R385). -/
def wacUpdate (s : State) (t : Nat) (src : Option (Nat × Word)) (tr : Nat × Word) : State :=
  let u := setCtl (wacReads s t) t ctlQbad 0
  let q : Int × Bool × State := match src with
    | none => (0, false, u)
    | some (0, i) => let p := wacLoss u t i; (p, false, setWacSt u t 12 (wordOfInt p))
    | some (4, _) => (0, true, setCtl u t ctlQbad 1)
    | some _ => (sint (wacSt u t 12), true, setCtl u t ctlQbad 1)
  let u := q.2.2
  let tref : Word := if tr.1 = 0 then tr.2 else tget 0 u.wac.tref t
  let u := if tr.1 = 0 then onWac u (fun w => { w with tref := tset 0 w.tref t tref }) else u
  let u := if q.2.1 || tr.1 ≠ 0 then inc (wb u wacSts wacStsINQUAL true) wacCnt wacCntQBAD else u
  let u := forN 4 u (fun u i => wacPole u t i q.1)
  let th := (List.range 4).foldl (fun n i => n + sint (wacSt u t i)) (sint tref)
  let tj := (satInt 48 th).1
  let u := setWacSt u t 15 (wordOfInt tj)
  let lim := sint (rd u wacTjmax)
  let u := if lim ≠ 0 && decide (lim < tj) then wf (wb u wacSts wacStsTJHI true) wacLast wacLastTJT t else u
  wacBeats (wacReversal u t tj) t

/-- Source kind of a configuration's word 0 (R382). -/
def wacSrck (c : Word) : Nat := (Fld.mk 46 45).get c

/-- The update of switch t starts: its inputs are read, once (R384). -/
def wacStart (s : State) (t : Nat) : State :=
  let c := wacCfg s t 0
  let n := c.toNat % 2 ^ 25
  let r := wacCfg s t 1
  let u := if wacSrck c = 2 then (wacRead s n).2 else s
  let u := (wacRead u (r.toNat % 2 ^ 25)).2
  onWac u (fun w => { w with upd := some (c, r, rd s (cvpChval (n % 256))) })

/-- A point that has been read. -/
def wacGot (s : State) (n : Nat) : Option (Nat × Word) := (s.wac.reads.find? (fun r => r.1 == n)).map (fun r => r.2)

/-- The loss input of an update: none where P is 0; the outer none where it has yet to come. -/
def wacSource (s : State) (c ch : Word) : Option (Option (Nat × Word)) :=
  match wacSrck c with
  | 1 => some (some (0, ch))
  | 2 => (wacGot s (c.toNat % 2 ^ 25)).map some
  | _ => some none

/-- The round updates its switches from t on, as far as their inputs are there (R383). -/
def wacRun : Nat → State → State
  | 0, s => s
  | f + 1, s =>
    match s.wac.round with
    | none => s
    | some (t, at_) =>
      if wacNsw s ≤ t then
        let d := min (2 ^ 30 - 1) (2 * s.port - at_)
        onWac (wf s wacLast wacLastRTIME d) (fun w => { w with round := none, reads := [] })
      else match s.wac.upd with
        | none =>
          if !bitOf (wacCfg s t 0) 47 then wacRun f (onWac s (fun w => { w with round := some (t + 1, at_) }))
          else wacStart s t
        | some (c, r, ch) =>
          match wacSource s c ch, wacGot s (r.toNat % 2 ^ 25) with
          | some src, some tr =>
            wacRun f (onWac (wacUpdate s t src tr) (fun w => { w with round := some (t + 1, at_), upd := none, reads := [] }))
          | _, _ => s

/-- Rounds of the WAC (R383, R393): ACTIVE from the time all of R393 holds; a journal that is not OPEN does not stop them, a
PNE that is not READY beside an OPEN one does. -/
def wacRuns (s : State) : Bool :=
  pdOn s 46 && rb s wacSts wacStsACTIVE && rb s wacCtrl wacCtrlEN && isActive s && (rb s pneSts pneStsREADY || jneState s != 3)

/-- WAC_ROUND (R383): at its block times a round starts, or is skipped while one runs; at others the
running round goes on. -/
def execWacRound (s : State) : Out :=
  let t := wacCollect s
  if s.running && wacRuns s && (btime s).toNat % (300 * wacUper s) = 0 && s.wac.rounded ≠ s.port + 1 then
    let t := onWac t (fun w => { w with rounded := s.port + 1 })
    if t.wac.round.isSome then
      ok (wacRun (wacNsw t + 1) (inc (wb t wacSts wacStsOVERRUN true) wacCnt wacCntOVERRUNS))
    else ok (wacRun (wacNsw t + 1) (onWac t (fun w => { w with round := some (0, 2 * s.port) })))
  else onlyIf (pdLive s 46) s (wacRun (wacNsw t + 1) t)

/-! Counter writes and checkpoints (R389, R390). -/

/-- The first reset's state record is zeroed and WEAR_RESET is committed (R392). -/
def resetBegin (s : State) : State :=
  match s.wac.resets with
  | (t, cause, old, new) :: _ =>
    if s.wac.asked then s
    else
      let u := forN 16 s (fun u i => setWacSt u t i 0)
      let u := onWac u (fun w => { w with
        asked := true, writes := w.writes.filter (fun x => x.t != t || x.step != 0 || x.slot.isNone) })
      raiseRec u ⟨2, 1, 0x21, [BitVec.ofNat 48 (cause * 2 ^ 16 + t), BitVec.ofNat 48 old, BitVec.ofNat 48 new]⟩
  | [] => s

/-- A reset is over when its counters are written; the next one begins (R392, R396). -/
def resetEnd (s : State) : State :=
  match s.wac.resets with
  | (_, cause, _, _) :: r =>
    if s.wac.zeros && !s.wac.writes.any (fun x => x.zero) then
      let u := onWac s (fun w => { w with resets := r, asked := false, zeros := false })
      resetBegin (if cause = 0 then wb u wacCmd wacCmdBUSY false else u)
    else s
  | [] => s

/-- The first counter write is over; what follows starts. -/
def wacDrop (s : State) : State :=
  resetEnd (wacPump (onWac s (fun w => { w with writes := w.writes.drop 1, seq := w.seq + 1 })))

/-- TYPE COUNT, CLASS WEAR, DIM none (R381). -/
def counterMeta : Nat := 5 * 4096 + 6 * 512

/-- The second request of a counter write (R389): DEFINE where the point is not defined, else WRITE. A
reset writes 0 to the defined counters that are not 0 (R392). -/
def wacSecond (s : State) (x : WacWrite) (d : PneDone) : State :=
  let n := counterPoint x.t x.k
  let go := fun (kind : Nat) (v : Nat) =>
    let u := pneSubmit s ⟨2, s.wac.seq + 1, kind, n, BitVec.ofNat 48 v, BitVec.ofNat 48 counterMeta, 0, 2 * s.port⟩
    onWac u (fun w => { w with seq := w.seq + 1, writes := { x with step := 2 } :: w.writes.drop 1 })
  if x.zero then (if d.status = 0 && d.val ≠ 0 then go 1 0 else wacDrop s)
  else if d.status = 1 then go 2 x.d
  else go 1 (min (2 ^ 48 - 1) (d.val.toNat + x.d))

/-- A counter write has failed (R389). -/
def wacFailed (s : State) (x : WacWrite) : State :=
  let u := wb s wacSts wacStsCKERR true
  wacDrop (if x.slot.isSome then onWac u (fun w => { w with ckBad := w.ckBad + 1 }) else u)

/-- A counter write is OK: its slot is reduced (R389). -/
def wacWritten (s : State) (x : WacWrite) (csn : Nat) : State :=
  match x.slot with
  | none => wacDrop s
  | some i =>
    let kd := slotKD s x.t i
    let u := if kd.1 = x.k then setSlotKD s x.t i x.k (kd.2 - x.d) else s
    let lo := if s.wac.ckLo = 0 then csn else min s.wac.ckLo csn
    wacDrop (onWac u (fun w => { w with ckOk := w.ckOk + 1, ckLo := lo, ckHi := max w.ckHi csn }))

/-- When every write of the checkpoint has completed its record is committed (R390). -/
def ckClose (s : State) : State :=
  let w := s.wac
  if w.ck && !w.ckSent && !w.writes.any (fun x => x.slot.isSome) then
    let u := onWac s (fun w => { w with ckSent := true, ckNum := w.ckNum + 1 })
    raiseRec u ⟨2, 0, 0x20, [BitVec.ofNat 48 (w.ckNum + 1), BitVec.ofNat 48 w.ckOk, BitVec.ofNat 48 w.ckBad,
      BitVec.ofNat 48 w.ckLo, BitVec.ofNat 48 w.ckHi]⟩
  else s

/-- COUNTER_WRITE_DONE (R389): the PNE has answered the outstanding request. -/
def execCounterWriteDone (s : State) : Out :=
  match s.pne.done.find? (fun d => d.src == 2 && d.id == s.wac.seq), s.wac.writes with
  | some d, x :: _ =>
    let u := onPne s (fun p => { p with done := p.done.erase d })
    ok (ckClose (if x.step = 1 then
        (if d.status ≤ 1 then wacSecond u x d else wacFailed u x)
      else if d.status = 0 then wacWritten u x d.csn
      else wacFailed u x))
  | _, _ => ok s

/-- A checkpoint starts (R390). -/
def ckStart (s : State) : State :=
  if s.wac.ck then s
  else
    let l := ((List.range (wacNsw s)).map (fun t => (List.range 4).filterMap (fun i =>
      let kd := slotKD s t i
      if kd.2 = 0 then none else some (⟨t, kd.1, kd.2, some i, false, 0⟩ : WacWrite)))).flatten
    let u := onWac (wb s wacSts wacStsCKBUSY true) (fun w => { w with
      ck := true, ckSent := false, ckOk := 0, ckBad := 0, ckLo := 0, ckHi := 0, writes := w.writes ++ l })
    ckClose (wacPump u)

/-- The disable is complete with its own checkpoint (R393). -/
def wacEnded (s : State) : State :=
  if s.wac.lastCk then onWac (wb s wacSts wacStsACTIVE false) (fun w => { w with ending := false, lastCk := false }) else s

/-- The checkpoint is over (R390). -/
def ckDone (s : State) (good : Bool) : State :=
  let u := wb (wb s wacSts wacStsCKBUSY false) wacSts (if good then wacStsCKDONE else wacStsCKERR) true
  let u := wf (wf u wacCksts wacCkstsCKNUM s.wac.ckNum) wacCksts wacCkstsWRITTEN (min (2 ^ 24 - 1) s.wac.ckOk)
  wacEnded (onWac u (fun w => { w with ck := false, ckSent := false }))

/-- WAC_CHECKPOINT (R390): every CKPER seconds. -/
def execWacCheckpoint (s : State) : Out :=
  let per := rf s wacCtrl wacCtrlCKPER * 300000000
  onlyIf (wacRuns s && per != 0 && s.wac.ckFrom + per ≤ s.port) s
    (ckStart (onWac s (fun w => { w with ckFrom := w.ckFrom + per * ((s.port - w.ckFrom) / per) })))

/-! Resets (R391, R392). -/

/-- WEAR_RESET is acknowledged: every counter of the switch is written 0 (R392). -/
def resetWrites (s : State) : State :=
  match s.wac.resets with
  | (t, _, _, _) :: _ =>
    let l := (List.range 512).map (fun k => (⟨t, k, 0, none, true, 0⟩ : WacWrite))
    wacPump (onWac s (fun w => { w with zeros := true, writes := w.writes ++ l }))
  | [] => s

/-- The journal has answered a record of the WAC: WEAR_CKPT (0) or WEAR_RESET (1) (R390, R392). -/
def wacAck (s : State) (id status : Nat) : State :=
  let good := decide (status ≤ 2)
  if id = 0 then (if s.wac.ck then ckDone s good else s) else resetWrites s

/-- A unit has been accepted: its switches with RREPL are reset, whether or not they are tracked (R392). -/
def wacReplaced (s : State) (u old new : Nat) : State :=
  if pdOn s 46 then
    let l := (List.range (wacNsw s)).filter (fun t =>
      let c := wacCfg s t 0
      bitOf c 44 && wacSrck c == 2 && unitOf (c.toNat % 2 ^ 25) == u)
    resetBegin (onWac s (fun w => { w with resets := w.resets ++ l.map (fun t => (t, 1, old, new)) }))
  else s

/-- The units accepted since the last look (R392). -/
def wacTakeReplaced (s : State) : State :=
  s.pne.accepted.foldl (fun t a => wacReplaced t a.1 a.2.1 a.2.2) (onPne s (fun p => { p with accepted := [] }))

/-! Registers, power and the pair (R382, R393, R396). -/

/-- A write of WAC_CTRL (R382, R383, R393). The checkpoint period counts from its latest change (R390). -/
def wacCtrlWrite (s : State) (q : Req) (v : Word) : State :=
  if !holdsType s q 9 then respond s 2
  else
    let en := wacCtrlEN.get v == 1
    let was := rb s wacCtrl wacCtrlEN
    let same := wacCtrlNSW.get v == rf s wacCtrl wacCtrlNSW && wacCtrlUPER.get v == rf s wacCtrl wacCtrlUPER
    let t := if wacCtrlCKPER.get v = rf s wacCtrl wacCtrlCKPER then s
      else onWac (wf s wacCtrl wacCtrlCKPER (wacCtrlCKPER.get v)) (fun w => { w with ckFrom := s.port })
    let t := if was then (if same then t else wb t wacSts wacStsCFGV true)
      else wf (wf t wacCtrl wacCtrlNSW (wacCtrlNSW.get v)) wacCtrl wacCtrlUPER (wacCtrlUPER.get v)
    let t := wb t wacCtrl wacCtrlEN en
    respond (if en && !was then
        let u := clearWords t (wacStAddr t 0 0) (wacStAddr t (wacNsw t) 0)
        onWac (wb u wacSts wacStsINIT true) (fun w => { w with tref := [], ckNum := 0, ending := false, lastCk := false, ckFrom := s.port })
      else if was && !en then
        (if rb t wacSts wacStsACTIVE then onWac t (fun w => { w with ending := true }) else t)
      else t) 0

/-- A write of WAC_BASE: discarded while EN is 1 (R383). -/
def wacBaseWrite (s : State) (q : Req) (v : Word) : State :=
  if !holdsType s q 9 then respond s 2
  else if rb s wacCtrl wacCtrlEN then respond (wb s wacSts wacStsCFGV true) 0
  else respond (wr s wacBase (v &&& maskOf 39 0)) 0

/-- WAC_ENABLE (R382). -/
def execWacEnable (q : Req) (nsw : BitVec 15) (uper ckper : BitVec 16) (s : State) : Out :=
  if pdOn s 46 then
    ok (wacCtrlWrite s q (BitVec.ofNat 48 (2 ^ 47 + nsw.toNat * 2 ^ 32 + uper.toNat * 2 ^ 16 + ckper.toNat)))
  else ok (respond s 3)

/-- WAC_DISABLE (R393). -/
def execWacDisable (q : Req) (s : State) : Out :=
  if pdOn s 46 then ok (wacCtrlWrite s q (rd s wacCtrl &&& maskOf 46 0)) else ok (respond s 3)

/-- A write of WAC_CMD (R390, R392): ignored while a reset runs. -/
def wacCmdWrite (s : State) (q : Req) (v : Word) : State :=
  let may := holdsType s q 9
  let op := wacCmdOP.get v
  let code := if may then 0 else 2
  if rb s wacCmd wacCmdBUSY then respond s code
  else
    let t := wf s wacCmd wacCmdT (wacCmdT.get v)
    respond (if !may then t
      else if op = 1 then (if wacRuns t then ckStart t else t)
      else if op = 2 && wacRuns t then
        resetBegin (onWac (wb t wacCmd wacCmdBUSY true) (fun w => { w with resets := w.resets ++ [(wacCmdT.get v, 0, 0, 0)] }))
      else t) code

/-- WAC_CKPT (R390). -/
def execWacCkpt (q : Req) (s : State) : Out :=
  if pdOn s 46 then ok (wacCmdWrite s q (wacCmdOP.put (rd s wacCmd) 1)) else ok (respond s 3)

/-- WAC_RESET (R392). -/
def execWacReset (q : Req) (t : Fin 16384) (s : State) : Out :=
  if pdOn s 46 then ok (wacCmdWrite s q (wacCmdOP.put (BitVec.ofNat 48 t.val) 2)) else ok (respond s 3)

/-- The block has left ACTIVE: rounds stop and the slots are discarded; the model of a new spell starts from θ = 0
(R393). -/
def wacLeaveActive (s : State) : State :=
  if pdOn s 46 && rb s wacSts wacStsACTIVE then
    let u := forN (wacNsw s) s (fun u t => [0, 1, 2, 3, 13, 14].foldl (fun u i => setWacSt u t i 0) u)
    let u := wb (wb (wb u wacSts wacStsACTIVE false) wacSts wacStsCKBUSY false) wacCmd wacCmdBUSY false
    let u := onPne u (fun p => { p with ops := p.ops.filter (fun o => o.src != 2), done := p.done.filter (fun d => d.src != 2) })
    onWac u (fun w => { w with
      round := none, upd := none, writes := [], ck := false, ckSent := false, ending := false, lastCk := false, resets := [],
      asked := false, zeros := false,
      asking := [], reads := [], seq := w.seq + 2 })
  else s

/-- What the WAC does by itself: INIT ends, the WAC becomes ACTIVE, a round and a disable go on (R382,
R383, R393). -/
def wacTick (s : State) : State :=
  if !pdOn s 46 then s
  else if rb s wacSts wacStsINIT then wb s wacSts wacStsINIT false
  else
    let starts := rb s wacCtrl wacCtrlEN && jneState s = 3 && rb s pneSts pneStsREADY && isActive s
    let t := if starts && !rb s wacSts wacStsACTIVE then
        onWac (wb s wacSts wacStsACTIVE true) (fun w => { w with ckFrom := s.port })
      else if rb s wacSts wacStsACTIVE && !wacRuns s && !s.wac.ending then wb s wacSts wacStsACTIVE false
      else s
    let t := wacRun (wacNsw t + 1) (wacCollect t)
    if t.wac.ending && !t.wac.lastCk && t.wac.round.isNone && !t.wac.ck then
      ckStart (onWac t (fun w => { w with lastCk := true })) else t

/-- The WAC's WAKE reset. -/
def wacLost (s : State) : State :=
  onPne { s with wac := Wac.zero } (fun p => { p with ops := p.ops.filter (fun o => o.src != 2),
                                                      done := p.done.filter (fun d => d.src != 2) })

end Sys2Proof.Machine
end

