-- ==== Sys2Proof/Machine/JneBase.lean ====
section
/-! DEFINITION. The journal engine: records, the ring, admission, persistence, acknowledgment, budget
and states (R330, R331, R335 to R349, R354). -/

namespace Sys2Proof.Machine

/-- Change the JNE's state. -/
def onJne (s : State) (f : Jne → Jne) : State := { s with jne := f s.jne }

/-! Records and the ring (R335 to R339). -/

/-- The words of a record (R335). -/
def recordWords (kind idx src csn : Nat) (last : Bool) (sec : Word) (ns : Nat) (body : List Word) : List Word :=
  let w0 := 0xC7 * 2 ^ 40 + kind * 2 ^ 32 + b2n last * 2 ^ 31 + idx * 2 ^ 27 + src * 2 ^ 22 + 2 ^ 18 + body.length
  sealed csn ([BitVec.ofNat 48 w0, BitVec.ofNat 48 csn, sec, BitVec.ofNat 48 ns] ++ body)

/-- A PAD record of n words, 5 ≤ n ≤ 1,024 (R335, R337): contents zero. -/
def padRecord (n : Nat) : List Word := recordWords 0 0 0 0 false 0 0 (List.replicate (n - 5) 0)

/-- n words of PAD, n ≥ 5: more than a record may have are two PADs (R335; DEDUCED, log entry 83). -/
def padWords (n : Nat) : List Word := if n ≤ 1024 then padRecord n else padRecord 5 ++ padRecord (n - 5)

/-- Fields of a record's words (R335). -/
def recKind (w : List Word) : Nat := (w.getD 0 0).toNat / 2 ^ 32 % 256
def recLast (w : List Word) : Bool := bitOf (w.getD 0 0) 31
def recIdx (w : List Word) : Nat := (w.getD 0 0).toNat / 2 ^ 27 % 16
def recSrc (w : List Word) : Nat := (w.getD 0 0).toNat / 2 ^ 22 % 32
def recLen (w : List Word) : Nat := (w.getD 0 0).toNat % 1024
def recCsn (w : List Word) : Nat := (w.getD 1 0).toNat
def recBody (w : List Word) : List Word := (w.drop 4).dropLast

/-- The kind is one of R337. -/
def kindKnown (k : Nat) : Bool :=
  k ≤ 8 || (0x10 ≤ k && k ≤ 0x14) || (0x20 ≤ k && k ≤ 0x21) || (0x30 ≤ k && k ≤ 0x37) || 0x80 ≤ k

/-- A record is valid (R336, R337): MAGIC, VER, length, CSNLO and CRC. -/
def recordOk (w : List Word) : Bool :=
  (w.getD 0 0).toNat / 2 ^ 40 == 0xC7 && (w.getD 0 0).toNat / 2 ^ 18 % 16 == 1 &&
    w.length == recLen w + 5 && sealOk (recCsn w) w && kindKnown (recKind w)

/-- Ring base and size in words (R335, R356). -/
def ringBase (s : State) : Nat := rf s jneHlog jneHlogHLBASE * 0x10000
def ringSize (s : State) : Nat := rf s jneHlog jneHlogHLSIZE * 0x10000
def ringEnd (s : State) : Nat := ringBase s + ringSize s

/-- The ring offset after a word range that ends at `p`. -/
def ringWrap (s : State) (p : Nat) : Nat := if ringEnd s ≤ p then ringBase s else p

/-- Where a record of n words goes from position p: words of PAD before it, and its position. One that
would leave a remainder too small for a PAD is moved too (R335). -/
def recordPlace (s : State) (p n : Nat) : Nat × Nat :=
  let left := ringEnd s - p
  if n = left || n + 5 ≤ left then (0, p) else (left, ringBase s)

/-- Position and ring words used after records of the given sizes. -/
def placeSizes (s : State) (p : Nat) (l : List Nat) : Nat × Nat :=
  l.foldl (fun a n =>
    let q := recordPlace s a.1 n
    (ringWrap s (q.2 + n), a.2 + q.1 + n)) (p, 0)

/-! States, U and the budget (R341, R346, R347, R349). -/

/-- U, and the budget B as it acts in this SLOW cycle (R347). -/
def jneUnp (s : State) : Nat := rf s jneU jneUU
def budgetOf (w : Word) : Nat :=
  min 32768 (jneHoldupRATE.get w * (jneHoldupTHOLD.get w - jneHoldupTFIX.get w) / 8)
def jneB (s : State) : Nat := if s.jne.bAt = s.port / 4 + 1 then s.jne.oldB else budgetOf (rd s jneHoldup)

/-- RN_PSAFE: U is 0 and the state is not FAULT (R349). -/
def psafeSync (s : State) : State :=
  wb s jneSts jneStsPSAFE (jneUnp s == 0 && jneState s != 5)

/-- Set U. -/
def setU (s : State) (n : Nat) : State := psafeSync (maxTo (wf s jneU jneUU n) jneBudget jneBudgetMAXU n)

/-- Enter a state (R341, R465). -/
def jneEnter (s : State) (st : Nat) : State :=
  let old := jneState s
  if old = st then s
  else
    let t := psafeSync (wf s jneSts jneStsSTATE st)
    let t := if st = 3 then wb t jneSts jneStsOPENED true else t
    let t := raiseEv t 0x05 [BitVec.ofNat 48 (old + 8 * st), rd t jneNextcsn]
    if st = 0 || st = 1 || st = 2 || st = 6 then pneRestart t else t

/-- Words of a commit's records. -/
def recsSize (l : List (Nat × List Word)) : Nat := l.foldl (fun n r => n + r.2.length + 5) 0

/-! Answers to producers (R344). -/

/-- A request of a producer is answered with a status of R344 (R318, R344, R354). -/
def jneAnswer (s : State) (prod id status csn : Nat) : State :=
  if 4 ≤ prod && prod < 16 then
    let r := prod - 4
    let t := wf (wb s (jneMbsts r) jneMbstsBUSY false) (jneMbsts r) jneMbstsSTATUS status
    if status ≤ 2 then wf t (jneMbcsn r) jneMbcsnCSN csn else t
  else match prod with
    | 1 => if status ≤ 2 then s else pneRefused s id status
    | 2 => wacAck s id status
    | 16 => onJne s (fun j => { j with cptDone := j.cptDone ++ [(id, status, csn)] })
    | _ => s

/-- Refuse every waiting request, the JNE's own and the partner's commits among them. Deadline records are discarded
(R342, R348). -/
def refuseAll (s : State) (status : Nat) : State :=
  s.sig.recs.foldl (fun t r => jneAnswer t r.prod r.id status 0)
    (onJne { s with sig := { s.sig with recs := [] } } (fun j => { j with ownq := [], mirq := [], stalled := [], waits := [] }))

/-- A segment command under way ends without effect: NOSEG (R372). -/
def cmdEnd (s : State) : State :=
  if rb s jneSegcmd jneSegcmdBUSY then
    onJne (wb (wf s jneSegcmd jneSegcmdSTATUS 1) jneSegcmd jneSegcmdBUSY false) (fun j => { j with cmd := 0 })
  else s

/-- A doorbell write of a storage queue that the host has yet to answer (R334). -/
def JBurst.bell (b : JBurst) : Bool := !b.own && b.csn == 0 && b.addr < persBase

/-- Every burst but the doorbells, and the running activity, are given up. -/
def dropBursts (s : State) : State :=
  let kept := s.jne.bursts.filter (fun b => b.bell)
  let t := hmpDrop s (fun h => match h with
    | .unit 20 i => decide (32 ≤ i) && !kept.any (fun b => i == 32 + b.id)
    | _ => false)
  onJne t (fun j => { j with script := [], bursts := kept })

/-- A head-tier error that stands, or a recovery that fails (R331, R341): admission closes and commits not
yet acknowledged are refused with NOJOURNAL. -/
def jneFault (s : State) : State :=
  let un := s.jne.log.filter (fun c => !c.acked)
  let t := onJne (dropBursts (cmdEnd s)) (fun j => { j with ended := 0, log := j.log.map (fun c => { c with acked := true }) })
  let t := un.foldl (fun t c => match c.req with
    | some i => jneAnswer t c.src i 3 c.csn
    | none => t) t
  refuseAll (jneEnter t 5) 3

/-! Bursts (R331). -/

/-- The JNE's other transactions that wait go behind its ring writes (R348). -/
def stagedFirst (s : State) : State :=
  let ring := fun (x : HmpTx) => s.jne.bursts.any (fun b => !b.own && !b.bell && x.use == HmpUse.unit 20 (32 + b.id))
  let mine := fun (x : HmpTx) => match x.use with
    | .unit 20 _ => !ring x
    | _ => false
  { s with ports := { s.ports with wait := s.ports.wait.filter (fun x => !mine x) ++ s.ports.wait.filter mine } }

/-- Start a burst of at most 8 words. While the journal is CLOSED ring writes go ahead (R348). -/
def startBurst (s : State) (b : JBurst) : State :=
  let i := s.jne.nextId
  let t := onJne s (fun j => { j with nextId := i + 1, bursts := j.bursts ++ [{ b with id := i }] })
  let t := hmpReq t (.unit 20 (32 + i)) b.write b.addr b.len b.data (b.write && persBase ≤ b.addr) true
  if jneState t = 4 then stagedFirst t else t

/-- Words in pieces of at most n. -/
def chunks (n : Nat) : Nat → List Word → List (List Word)
  | 0, _ => []
  | f + 1, l => if l.isEmpty then [] else l.take n :: chunks n f (l.drop n)

/-- Write words to the head tier as bursts of a commit (csn 0: of no commit). -/
def ringWrite (s : State) (off csn : Nat) (ws : List Word) : State :=
  ((chunks 8 (ws.length + 1) ws).foldl (fun a c =>
    (a.1 + c.length, startBurst a.2 ⟨0, true, persBase + a.1, c.length, c, csn, 0, false⟩)) (off, s)).2

/-- PADs before records of the given sizes from position p: position and words (R335). -/
def padPlaces (s : State) (p : Nat) : List Nat → List (Nat × Nat)
  | [] => []
  | n :: l =>
    let q := recordPlace s p n
    (if q.1 = 0 then [] else [(p, q.1)]) ++ padPlaces s (ringWrap s (q.2 + n)) l

/-- The PADs that a commit needs in the ring. -/
def commitPads (s : State) (c : Commit) : List (Nat × Nat) := padPlaces s s.jne.wpos (c.words.map (fun w => w.length))

/-- Write the PADs of a commit. Its records follow once the PADs are persisted, so that recovery finds them (R345; DEDUCED,
log entry 193). -/
def padsWrite (s : State) (c : Commit) : State :=
  (commitPads s c).foldl (fun t x => ringWrite t x.1 0 (padWords x.2)) (onJne s (fun j => { j with padCsn := c.csn }))

/-- PADs of the ring are not persisted yet. -/
def padsOut (s : State) : Bool := s.jne.bursts.any (fun b => !b.own && b.csn == 0 && !b.bell)

/-- Ring words that the commits of the log take. -/
def spanSum (l : List Commit) : Nat := l.foldl (fun n c => if c.pos.isSome && !c.dried then n + c.span else n) 0

/-- Write a commit's records to the ring. Its span takes in the PADs since the commit before it (R366). -/
def commitWrite (s : State) (c : Commit) : State :=
  let start := (recordPlace s s.jne.wpos (c.words.headD []).length).2
  let t := c.words.foldl (fun t w =>
    let q := recordPlace t t.jne.wpos w.length
    let u := ringWrite t q.2 c.csn w
    onJne u (fun j => { j with wpos := ringWrap u (q.2 + w.length), used := j.used + q.1 + w.length })) s
  let span := t.jne.used - spanSum t.jne.log
  onJne t (fun j => { j with
    log := j.log.map (fun x => if x.csn = c.csn then { x with pos := some start, span := span } else x) })

/-- Staged commits are written to the ring in CSN order while the journal is OPEN or CLOSED (R343, R376). -/
def persistNext : Nat → State → State
  | 0, s => s
  | f + 1, s =>
    match s.jne.log.find? (fun c => c.pos.isNone) with
    | some c =>
      if !c.staged || (jneState s ≠ 3 && jneState s ≠ 4) then s
      else if !(commitPads s c).isEmpty && s.jne.padCsn ≠ c.csn then padsWrite s c
      else if padsOut s then s
      else persistNext f (commitWrite s c)
    | none => s

/-- JNE_PERCSN: every commit up to it is persisted. -/
def percsnSync (s : State) : State :=
  let n := match s.jne.log.find? (fun c => c.left != 0) with
    | some c => c.csn - 1
    | none => rf s jneNextcsn jneNextcsnCSN - 1
  wf s jnePercsn jnePercsnCSN n

/-- The journal goes OFF (R356): unacknowledged requests are refused, the rings are left. -/
def jneGoOff (s : State) : State :=
  let un := s.jne.log.filter (fun c => !c.acked)
  let t := un.foldl (fun t c => match c.req with
    | some i => jneAnswer t c.src i 3 c.csn
    | none => t) (cmdEnd s)
  let t := refuseAll t 3
  let t := hmpDrop t (fun h => match h with
    | .unit 20 _ => true
    | _ => false)
  let t := onJne t (fun j => { Jne.zero with
    dir := j.dir, seals := j.seals, scanned := j.scanned, sb := j.sb, live := j.live, bucket := j.bucket, paced := j.paced, oldB := j.oldB, bAt := j.bAt,
    lastAdm := j.lastAdm, nextId := j.nextId, shut := j.shut, pfAt := j.pfAt, pfLow := j.pfLow, cptDone := j.cptDone })
  jneEnter t 0

/-- EN has been written 0 and nothing is unpersisted (R356). -/
def jneCheckOff (s : State) : State := if s.jne.closing && jneUnp s = 0 then jneGoOff s else s

/-- n more words of commit csn are persisted, or of the PADs of the commit that comes next (R331, R343). -/
def wordsPersisted (s : State) (csn n : Nat) : State :=
  if csn = 0 then persistNext 300 s
  else
    let t := onJne s (fun j => { j with
      log := j.log.map (fun c => if c.csn = csn then { c with left := c.left - n, perAt := s.port } else c) })
    jneCheckOff (percsnSync (setU t (jneUnp t - n)))

/-! Admission (R339, R340, R342, R347). -/

/-- Journal time as records take it (R113). -/
def jneTime (s : State) : Word × Nat := (BitVec.ofNat 48 s.dm.jtSec, s.dm.jtNs / 2 ^ 32)

/-- Admit a commit of records given by kind and body: the next CSN and journal time (R342). -/
def admitLocal (s : State) (src : Nat) (req : Option Nat) (recs : List (Nat × List Word)) (staged : Bool) : State :=
  let csn := rf s jneNextcsn jneNextcsnCSN
  let tm := jneTime s
  let n := recsSize recs
  let last := recs.length - 1
  let ws := recs.zipIdx.map (fun p => recordWords p.1.1 p.2 src csn (p.2 == last) tm.1 tm.2 p.1.2)
  let c : Commit := ⟨csn, src, req, tm.1, tm.2, recs, if staged then ws else [], n, staged, none, 0, n, 0,
    rb s jneCtrl jneCtrlMIRMODE, false, false, false⟩
  let t := wf s jneNextcsn jneNextcsnCSN (csn + 1)
  let t := onJne t (fun j => { j with log := j.log ++ [c], lastAdm := s.port / 4 + 1 })
  persistNext 300 (percsnSync (setU t (jneUnp t + n)))

/-- Admit a mirrored commit, word for word (R352). -/
def admitMirrored (s : State) (ws : List (List Word)) : State :=
  let w0 := ws.headD []
  let csn := recCsn w0
  let n := ws.foldl (fun n w => n + w.length) 0
  let c : Commit := ⟨csn, recSrc w0, none, w0.getD 2 0, (w0.getD 3 0).toNat % 2 ^ 32, ws.map (fun w => (recKind w, recBody w)), ws, n,
    true, none, 0, n, 0, false, false, false, false⟩
  let t := wf s jneNextcsn jneNextcsnCSN (csn + 1)
  let t := onJne t (fun j => { j with log := j.log ++ [c], lastAdm := s.port / 4 + 1 })
  persistNext 300 (percsnSync (setU t (jneUnp t + n)))

/-- Sizes of the records of commits not yet placed in the ring. -/
def unplaced (s : State) : List Nat :=
  ((s.jne.log.filter (fun c => c.pos.isNone)).map (fun c => c.recs.map (fun r => r.2.length + 5))).flatten

/-- The reason a commit waits (R342): 0 PACE, 1 BUDGET, 2 RING, 3 MIRROR. -/
def stallReason (s : State) (own : Bool) (sizes : List Nat) : Option Nat :=
  let n := sizes.foldl (· + ·) 0
  if !own && s.jne.bucket = 0 then some 0
  else if jneB s < jneUnp s + n then some 1
  else if ringSize s < s.jne.used + (placeSizes s s.jne.wpos (unplaced s ++ sizes)).2 then some 2
  else if s.jne.live && 256 ≤ (s.jne.log.filter (fun c => c.mir && !c.mirrored && !c.acked)).length then some 3
  else none

/-- Every CSN but the last, which is never assigned, has been used (R340). -/
def csnSpent (s : State) : Bool := rf s jneNextcsn jneNextcsnCSN == 2 ^ 48 - 1

/-- The status a request is refused with, if it is (R344). -/
def refusal (s : State) (r : RecReq) : Option Nat :=
  if !pdOn s 44 then some 3
  else if !isActive s then some 7
  else if s.sem.pfail || jneState s = 4 then some 4
  else if jneState s ≠ 3 || s.jne.closing then some 3
  else if 1019 < r.body.length || !kindKnown r.typ then some 6
  else if min 16384 (jneB s) < r.body.length + 5 then some 5
  else if csnSpent s then some 8
  else none

/-- Refuse the requests that cannot be admitted; a standby counts the deadline records it discards (R352),
and CSNEND is set where the CSNs are used up (R340). -/
def purgeRequests (s : State) : State :=
  let bad := s.sig.recs.filter (fun r => (refusal s r).isSome)
  let t := { s with sig := { s.sig with recs := s.sig.recs.filter (fun r => (refusal s r).isNone) } }
  bad.foldl (fun t r =>
    let st := (refusal s r).getD 3
    let t := if r.prod = 3 && st = 7 then inc t jneCnt jneCntDROPREC else t
    let t := if st = 8 then wb t jneSts jneStsCSNEND true else t
    jneAnswer (onJne t (fun j => { j with stalled := j.stalled.erase (r.prod, r.id) })) r.prod r.id st 0) t

/-- Refuse the JNE's own commits that cannot be admitted: a standby, a journal that is not OPEN or that closes, a commit
larger than the budget, no CSN left (R340, R344, R347, R351, R352). -/
def purgeOwn (s : State) : State :=
  if s.jne.ownq.isEmpty then s
  else if !isActive s || s.sem.pfail || jneState s ≠ 3 || s.jne.closing then onJne s (fun j => { j with ownq := [] })
  else
    let t := if csnSpent s then wb s jneSts jneStsCSNEND true else s
    onJne t (fun j => { j with ownq := j.ownq.filter (fun r => !csnSpent s && r.2.length + 5 ≤ min 16384 (jneB s)) })

/-- Refuse the partner's commits that cannot be admitted, and those behind them: the gap is handled as a resynchronisation
(R340, R347, R352). -/
def purgeMirrored (s : State) : State :=
  let fits := fun (w : List (List Word)) => !csnSpent s && w.foldl (fun n x => n + x.length) 0 ≤ jneB s
  if s.jne.mirq.all fits then s
  else
    let t := if csnSpent s then wb s jneSts jneStsCSNEND true else s
    onJne { t with mlk := { t.mlk with rsreq := true } } (fun j => { j with mirq := j.mirq.takeWhile fits })

/-- Rank of a producer (R342). -/
def prodRank (p : Nat) : Nat :=
  match p with
  | 3 => 0
  | 1 => 1
  | 2 => 2
  | 16 => 3
  | _ => p

/-- Each producer's oldest request, by rank. -/
def headRequests (s : State) : List RecReq :=
  let heads := s.sig.recs.filter (fun r => (s.sig.recs.find? (fun x => x.prod == r.prod)) == some r)
  (List.range 17).flatMap (fun k => heads.filter (fun r => prodRank r.prod == k))

/-- A commit that waits for BUDGET, RING or MIRROR is counted once (R342). -/
def countStall (s : State) (key : Nat × Nat) (r : Nat) : State :=
  if r = 0 || s.jne.stalled.contains key then s
  else
    let t := inc (wb s jneSts jneStsCMTSTALL true) jneCnt jneCntSTALLS
    onJne t (fun j => { j with stalled := key :: j.stalled })

/-- MIRROR_STALE is not appended before the end of the SLOW cycle of the change, in which the partner's acknowledgments
still count (R353). -/
def staleHeld (s : State) (k : Nat) : Bool := k == 0x13 && s.jne.staleAt == s.port / 4 + 1

/-- The oldest commit of the partner, the JNE's own and each producer's, that waits, with its reason: keyed by producer and
number, 0 1 for the partner and 0 0 for the JNE (R342). -/
def waiting (s : State) : List ((Nat × Nat) × Nat) :=
  let key := fun (k : Nat × Nat) (r : Option Nat) => r.map (fun x => (k, x))
  ((s.jne.mirq.take 1).filterMap (fun w => key (0, 1) (stallReason s true (w.map (fun x => x.length))))) ++
    ((s.jne.ownq.take 1).filterMap (fun r => key (0, 0) (if staleHeld s r.1 then none else stallReason s true [r.2.length + 5]))) ++
    ((headRequests s).filterMap (fun r => key (r.prod, r.id) (stallReason s false [r.body.length + 5])))

/-- Stalls are counted, and REASON shows why the one that has waited longest waits (R342; DEDUCED, log entry
194). -/
def flagStalls (s : State) : State :=
  let l := waiting s
  let keys := l.map (fun p => p.1)
  let order := s.jne.waits.filter (fun k => keys.contains k) ++ keys.filter (fun k => !s.jne.waits.contains k)
  let t := onJne (l.foldl (fun t p => countStall t p.1 p.2) s) (fun j => { j with waits := order })
  match l.find? (fun p => order.head? == some p.1) with
  | some p => wf t jneSts jneStsREASON p.2
  | none => t

/-- Admit a request. -/
def admitRequest (s : State) (r : RecReq) : State :=
  let mb := 4 ≤ r.prod && r.prod < 16
  let t := { s with sig := { s.sig with recs := s.sig.recs.erase r } }
  let t := onJne t (fun j => { j with bucket := j.bucket - 1, stalled := j.stalled.erase (r.prod, r.id) })
  admitLocal t r.prod (some r.id) [(r.typ, r.body)] (!mb)

/-- Admit the first of the producers' requests that need not wait. -/
def admitProducer (s : State) : State :=
  match (headRequests s).find? (fun r => (stallReason s false [r.body.length + 5]).isNone) with
  | some r => admitRequest s r
  | none => s

/-- Admit at most one commit in a SLOW cycle (R342): a mirrored one, the JNE's own, then the producers in
order; a request that waits holds up no other producer's. -/
def jneAdmitOne (s : State) : State :=
  let t := flagStalls s
  match s.jne.mirq, s.jne.ownq with
  | w :: r, _ =>
    if (stallReason s true (w.map (fun x => x.length))).isNone then
      admitMirrored (onJne t (fun j => { j with mirq := r, stalled := j.stalled.erase (0, 1) })) w
    else t
  | [], (k, b) :: r =>
    if !staleHeld s k && (stallReason s true [b.length + 5]).isNone then
      admitLocal (onJne t (fun j => { j with ownq := r, stalled := j.stalled.erase (0, 0) })) 0 none [(k, b)] true
    else admitProducer t
  | [], [] => admitProducer t

/-! Acknowledgment (R343, R344, R353). -/

/-- The commit meets its conditions (R344). One that the change to STALE releases waits for the end of the SLOW cycle, in
which an acknowledgment of the partner still counts (R353). -/
def ackReady (s : State) (c : Commit) : Bool :=
  (if !rb s jneCtrl jneCtrlACKMODE && jneState s == 3 then c.staged else c.staged && c.pos.isSome && c.left == 0) &&
    (!(c.mir && (s.jne.live || s.jne.staleAt = s.port / 4 + 1)) || c.mirrored)

/-- Status of an acknowledgment (R344). -/
def ackStatus (c : Commit) : Nat := if !c.mir then 1 else if c.mirrored then 0 else 2

/-- The oldest unacknowledged commit is acknowledged if it meets its conditions: its producer is answered
and its records take effect in the PNE (R320, R344). -/
def ackOldest (s : State) : State :=
  match s.jne.log.find? (fun c => !c.acked) with
  | none => s
  | some c =>
    if !ackReady s c || jneState s = 5 then s
    else
      let st := ackStatus c
      let t := onJne s (fun j => { j with
        log := (j.log.map (fun x => if x.csn = c.csn then { x with acked := true } else x)).filter (fun x =>
          !(x.acked && x.dried)) })
      let t := wf t jneAckcsn jneAckcsnCSN c.csn
      let t := if st = 2 then inc t jneCnt jneCntDEGR else t
      let t := match c.req with
        | some i => if c.src = 1 then t else jneAnswer t c.src i st c.csn
        | none => t
      let jid := if c.src = 1 then c.req else none
      wacTakeReplaced (c.recs.foldl (fun t r => if r.1 ≤ 8 then pneAcked t r.1 r.2 c.csn jid st else t) t)

/-- JOURNAL_ACK (R344). -/
def execJournalAck (s : State) : Out := onlyIf (pdLive s 44) s (ackOldest s)

/-- JNE_ADMIT (R342): once in a SLOW cycle. -/
def execJneAdmit (s : State) : Out :=
  let t := purgeMirrored (purgeOwn (purgeRequests s))
  onlyIf (s.running && pdOn s 44 && jneState t == 3 && !t.jne.closing && !t.jne.zeroing && t.jne.lastAdm != s.port / 4 + 1) t (jneAdmitOne t)

/-- PACE_REFILL (R342): every 5 µs. -/
def execPaceRefill (s : State) : Out :=
  onlyIf (pdLive s 44 && s.running && s.jne.paced + 1500 ≤ s.port) s
    (onJne s (fun j => { j with bucket := min 64 (j.bucket + 1), paced := s.port }))

/-- A write of JNE_HOLDUP (R346, R347): admissions of its SLOW cycle use the previous B. -/
def holdupWrite (s : State) (v : Word) : State :=
  wr (onJne s (fun j => { j with oldB := jneB s, bAt := s.port / 4 + 1 })) jneHoldup v

/-- JNE_BUDGET as a read returns it: B follows JNE_HOLDUP (R346). -/
def budgetRead (s : State) : Word := jneBudgetB.put (rd s jneBudget) (budgetOf (rd s jneHoldup))

/-- HOLDUP_WRITE (R347): the register is held in the always-on area and always answers (R264, R356). -/
def execHoldupWrite (q : Req) (v : Word) (s : State) : Out :=
  if holdsType s q 7 then ok (respond (holdupWrite s v) 0) else ok (respond s 2)

/-! Mailboxes (R354). -/

/-- A write of JNE_MBCTL[r]. -/
def jneMbctlWrite (s : State) (q : Req) (r : Nat) (v : Word) : State :=
  let go := jneMbctlGO.get v == 1
  let may := holdsType s q 7
  let code := if may then 0 else 2
  let kind := jneMbctlKIND.get v
  let len := jneMbctlLEN.get v
  if q.who.val ≠ r then respond s 0
  else if rb s (jneMbsts r) jneMbstsBUSY then respond s code
  else
    let t := wf (wf s (jneMbctl r) jneMbctlKIND kind) (jneMbctl r) jneMbctlLEN len
    let a := rf t (jneMbaddr r) jneMbaddrADDR
    respond (if !(go && may) then t
      else if kind < 0x80 || 1019 < len || 0x100000 < a + max 1 len then wf t (jneMbsts r) jneMbstsSTATUS 6
      else raiseRec (wb t (jneMbsts r) jneMbstsBUSY true) ⟨4 + r, 0, kind, List.replicate len 0⟩) code

/-- JNE_MB_GO (R354). -/
def execJneMbGo (q : Req) (r : Fin 12) (kind : BitVec 8) (len : BitVec 10) (s : State) : Out :=
  if pdOn s 44 then
    ok (jneMbctlWrite s q r.val (BitVec.ofNat 48 (2 ^ 47 + kind.toNat * 2 ^ 10 + len.toNat)))
  else ok (respond s 3)

/-- Read n words through port 20: none if one of them fails. -/
def readBody (s : State) (a : Nat) : Nat → List Word → Option (List Word) × State
  | 0, l => (some l.reverse, s)
  | n + 1, l =>
    let r := arrayRead s a 20
    if r.1 = 0 then readBody r.2.2 (a + 1) n (r.2.1 :: l) else (none, r.2.2)

/-- The body of a mailbox's commit is there, or has failed: then the CSN goes to a record of KIND 0x80 and
LEN 0, and the mailbox completes BADARG (R354). -/
def bodyRead (s : State) (r : Nat) (c : Commit) : State :=
  let len := (c.recs.headD (0, [])).2.length
  let kind := (c.recs.headD (0, [])).1
  let b := readBody s (rf s (jneMbaddr r) jneMbaddrADDR) len []
  match b with
  | (some l, t) =>
    let w := recordWords kind 0 c.src c.csn true c.sec c.ns l
    let x := { c with recs := [(kind, l)], words := [w], staged := true }
    persistNext 300 (onJne t (fun j => { j with log := j.log.map (fun y => if y.csn = c.csn then x else y) }))
  | (none, t) =>
    let w := recordWords 0x80 0 c.src c.csn true c.sec c.ns []
    let x := { c with recs := [(0x80, [])], words := [w], staged := true, size := 5, left := 5, req := none }
    let t := jneAnswer t c.src 0 6 0
    let t := setU t (jneUnp t - len)
    persistNext 300 (onJne t (fun j => { j with log := j.log.map (fun y => if y.csn = c.csn then x else y) }))

/-- The body of mailbox r's commit lies in a domain that is being cleared: its reads stall (R276). -/
def bodyStalls (s : State) (r : Nat) (c : Commit) : Bool :=
  (List.range (c.recs.headD (0, [])).2.length).any (fun i => clearingAt s (rf s (jneMbaddr r) jneMbaddrADDR + i))

/-- MB_BODY_READ (R354). -/
def execMbBodyRead (r : Fin 12) (s : State) : Out :=
  match s.jne.log.find? (fun c => c.src == 4 + r.val && !c.staged) with
  | some c => onlyIf (pdLive s 44 && s.running && !bodyStalls s r.val c) s (bodyRead s r.val c)
  | none => ok s

end Sys2Proof.Machine
end

