-- ==== Sys2Proof/Machine/JneScript.lean ====
section
/-! DEFINITION. The journal engine's activities beside admission: superblocks, applying commits, the
storage queues, recovery, drydown, placement, sealing, reclaim and discard (R334, R357 to R377). An
activity is a list of steps; each step that a host answer ends waits for it. -/

namespace Sys2Proof.Machine

/-- Put steps before those that remain. -/
def pushOps (s : State) (l : List JOp) : State := onJne s (fun j => { j with script := l ++ j.script })

/-- The running activity is given up. -/
def endScript (s : State) : State := onJne s (fun j => { j with script := [] })

/-- Halves of JNE_DRYBUF: write and read (R380). -/
def dryWrite (s : State) : Nat := rf s jneDrybuf jneDrybufADDR
def dryRead (s : State) : Nat := dryWrite s + 32768

/-! Medium units (R357, R361, R363, R374). -/

/-- Entry of medium unit m; a unit that no superblock lists yet has its reported capacity. -/
def sbUnit (s : State) (m : Nat) : SbUnit :=
  match s.jne.sb.units.find? (fun u => u.m == m) with
  | some u => if u.cap = 0 then { u with cap := rf s (jneMwear m) jneMwearCAP } else u
  | none => ⟨m, rf s (jneMwear m) jneMwearCAP, 0, 0, 0, 0⟩

/-- A superblock with a unit's entry replaced. -/
def putUnit (b : Superblock) (u : SbUnit) : Superblock :=
  { b with units := b.units.filter (fun x => x.m != u.m) ++ [u] }

/-- Free slots of a unit (R363). -/
def freeSlots (u : SbUnit) : Nat := u.cap - u.live - u.pinout

/-- A slot lies in the unit's live range (R363). -/
def inLive (u : SbUnit) (slot : Nat) : Bool := u.cap != 0 && (slot + u.cap - u.tail) % u.cap < u.live

/-- Medium unit m is served, and is not failed (R334, R375). -/
def mqOn (s : State) (m : Nat) : Bool := rb s (jneMqcfg m) jneMqcfgEN
def mqFailed (s : State) (m : Nat) : Bool := rb s (jneMwear m) jneMwearMERR || s.jne.readmit.contains m

/-- Eligible units (R374). -/
def eligible (s : State) : List Nat :=
  (List.range 16).filter (fun m => mqOn s m && !mqFailed s m && freeSlots (sbUnit s m) != 0)

/-- The unit of lowest LIFE, then most free slots, then lowest number (R374). -/
def bestUnit (s : State) : List Nat → Option Nat
  | [] => none
  | m :: r => match bestUnit s r with
    | none => some m
    | some x =>
      let lm := rf s (jneMwear m) jneMwearLIFE
      let lx := rf s (jneMwear x) jneMwearLIFE
      if lx < lm || (lx = lm && freeSlots (sbUnit s m) < freeSlots (sbUnit s x)) then some x else some m

/-- Open LOG segments, and the open CARRY segment. -/
def openLogs (b : Superblock) : List SegOpen := b.opens.filter (fun x => !x.carry)
def openCarry (b : Superblock) : Option SegOpen := b.opens.find? (fun x => x.carry)
def openAt (b : Superblock) (o : Nat) : Option SegOpen := b.opens.find? (fun x => x.o == o)

/-- The eligible unit without an open segment on which a step up opens a LOG segment (R374). -/
def stepUnit (s : State) : Option Nat := bestUnit s ((eligible s).filter (fun m => !s.jne.sb.opens.any (fun x => x.unit == m)))

/-- The unit on which a segment is opened (R374): a CARRY segment on any eligible one; a LOG segment on one without an open
segment, or where there is none and it must be opened, without an open LOG segment (DESIGN CHOICE, log entry 197). -/
def unitFor (s : State) (carry : Bool) : Option Nat :=
  if carry then bestUnit s (eligible s)
  else match stepUnit s with
    | some m => some m
    | none => bestUnit s ((eligible s).filter (fun m => !(openLogs s.jne.sb).any (fun x => x.unit == m)))

/-- The lowest open-segment entry not in use. -/
def freeOpen (b : Superblock) : Option Nat := (List.range 16).find? (fun o => (openAt b o).isNone)

/-- A slot holds a pinned segment. -/
def slotPinned (b : Superblock) (m slot : Nat) : Bool := b.pinned.any (fun p => p.1 == m && p.2.1 == slot)

/-- The slot to open: HEAD, past pinned slots (R368). -/
def headSlot (b : Superblock) (u : SbUnit) : Nat → Nat → Nat
  | 0, h => h
  | f + 1, h => if slotPinned b u.m h then headSlot b u f ((h + 1) % u.cap) else h

/-- TAIL moved past the pinned slots that follow it; these move to PINOUT (R369). -/
def skipTail (b : Superblock) : Nat → SbUnit → SbUnit
  | 0, u => u
  | f + 1, u =>
    if u.live != 0 && slotPinned b u.m u.tail then
      skipTail b f { u with tail := (u.tail + 1) % u.cap, live := u.live - 1, pinout := u.pinout + 1 }
    else u

/-- TAIL moved past the source of a reclaim or discard. -/
def dropTail (b : Superblock) (u : SbUnit) : SbUnit :=
  skipTail b 33 { u with tail := (u.tail + 1) % u.cap, live := u.live - 1 }

/-! Superblocks (R362, R363). -/

/-- Bits of a number placed at a position. -/
def at2 (v p : Nat) : Nat := v * 2 ^ p

/-- The words of a superblock (R363). -/
def sbWords (s : State) (b : Superblock) : List Word :=
  let h := [at2 0xC75B 32 + at2 1 24 + at2 1 16 + 177, b.gen, b.jid.toNat, b.applied, b.rtail, b.nextseq,
    at2 (rf s jneHead jneHeadHSIZE) 40 + at2 (rf s jneHlog jneHlogHLSIZE) 16 + rf s jneHlog jneHlogHLBASE,
    imgAddr s, (openLogs b).length, b.fmtsec.toNat, b.fmtns, 0, 0, 0, 0, 0]
  let us := (List.range 16).flatMap (fun m =>
    let u := (b.units.find? (fun x => x.m == m)).getD ⟨m, 0, 0, 0, 0, 0⟩
    [at2 (b2n (mqOn s m)) 47 + at2 (b2n (mqFailed s m)) 46 + u.cap, at2 u.head 20 + u.tail, at2 u.pinout 20 + u.live, 0])
  let os := (List.range 16).flatMap (fun o => match openAt b o with
    | some x => [at2 1 47 + at2 (b2n x.carry) 46 + at2 x.unit 40 + at2 x.slot 20 + x.cur % 4096, x.seq]
    | none => [0, 0])
  let ps := (List.range 32).flatMap (fun k => match b.pinned[k]? with
    | some p => [at2 1 47 + at2 p.1 40 + at2 p.2.1 20, p.2.2]
    | none => [0, 0])
  sealed 0 ((h ++ us ++ os ++ ps).map (BitVec.ofNat 48))

/-- Bits [hi:lo] of a word of a list. -/
def sbBits (w : List Word) (i hi lo : Nat) : Nat := (⟨hi, lo⟩ : Fld).get (w.getD i 0)

/-- A copy is valid (R362). -/
def copyOk (c : Nat) (w : List Word) : Bool :=
  sbBits w 0 47 32 == 0xC75B && sbBits w 0 15 0 == w.length && 177 ≤ w.length &&
    sbBits w (w.length - 1) 31 0 == crc32c w.dropLast && sbBits w 1 0 0 == c

/-- The contents of a superblock's words. -/
def sbRead (w : List Word) : Superblock :=
  { gen := (w.getD 1 0).toNat, jid := w.getD 2 0, applied := (w.getD 3 0).toNat, rtail := sbBits w 4 28 0,
    nextseq := sbBits w 5 35 0, nact := sbBits w 8 4 0, fmtsec := w.getD 9 0, fmtns := sbBits w 10 31 0,
    units := (List.range 16).map (fun m => ⟨m, sbBits w (16 + 4 * m) 20 0, sbBits w (17 + 4 * m) 39 20,
      sbBits w (17 + 4 * m) 19 0, sbBits w (18 + 4 * m) 39 20, sbBits w (18 + 4 * m) 19 0⟩),
    opens := ((List.range 16).filter (fun o => sbBits w (80 + 2 * o) 47 47 == 1)).map (fun o =>
      ⟨o, sbBits w (80 + 2 * o) 46 46 == 1, sbBits w (80 + 2 * o) 43 40, sbBits w (80 + 2 * o) 39 20,
        sbBits w (80 + 2 * o) 11 0, sbBits w (81 + 2 * o) 35 0⟩),
    pinned := ((List.range 32).filter (fun k => sbBits w (112 + 2 * k) 47 47 == 1)).map (fun k =>
      (sbBits w (112 + 2 * k) 43 40, sbBits w (112 + 2 * k) 39 20, sbBits w (113 + 2 * k) 35 0)) }

/-- JNE_PLCSTS as a read returns it: ELIG is the number of eligible units (R380). -/
def plcstsRead (s : State) : Word := jnePlcstsELIG.put (rd s jnePlcsts) (eligible s).length

/-- A superblock takes effect: the registers that show it (R363, R380). -/
def sbShow (s : State) (b : Superblock) : State :=
  let t := onJne s (fun j => { j with sb := b })
  let t := forN 16 t (fun t m =>
    let u := sbUnit t m
    let t := wf (wf t (jneMslot m) jneMslotHEAD u.head) (jneMslot m) jneMslotTAIL u.tail
    let t := wf (wf t (jneMlive m) jneMliveHEAD u.pinout) (jneMlive m) jneMliveTAIL u.live
    wf t (jneMwear m) jneMwearCAP u.cap)
  let t := wf t jnePlcsts jnePlcstsACTIVE (openLogs b).length
  if (eligible t).isEmpty then t else wb t jneDrysts jneDrystsBASEFULL false

/-- The steps that write a superblock to its copy and wait for every OKAY (R362). -/
def sbWriteOps (s : State) (b : Superblock) (p : JPub) : List JOp :=
  [.wr (persBase + 0x8000 * (b.gen % 2)) (sbWords s b), .act (.published p)]

/-- Head offset after a commit's last word. -/
def commitEnd (s : State) (c : Commit) : Nat :=
  (placeSizes s (c.pos.getD 0) (c.words.map (fun w => w.length))).1

/-- RTAIL once every commit through CSN n is dried (R366). -/
def tailAfter (s : State) (n : Nat) : Nat :=
  match (s.jne.log.filter (fun c => c.csn ≤ n)).getLast? with
  | some c => commitEnd s c
  | none => s.jne.sb.rtail

/-- Unit and slot of the open or live segment of a SEQ, where it is known (R372). -/
def segPlace (s : State) (seq : Nat) : Option (Nat × Nat) :=
  match s.jne.sb.opens.find? (fun x => x.seq == seq) with
  | some x => some (x.unit, x.slot)
  | none => (s.jne.dir.find? (fun g => g.seq == seq && inLive (sbUnit s g.unit) g.slot)).map (fun g => (g.unit, g.slot))

/-- The superblock that publishes a change (R366, R368, R369, R371, R372, R376, R377, R441). -/
def nextSb (s : State) (p : JPub) : Superblock :=
  let b := { s.jne.sb with gen := s.jne.sb.gen + 1, units := (List.range 16).map (sbUnit s) }
  let setCur := fun (o cur : Nat) => b.opens.map (fun x => if x.o = o then { x with cur := cur } else x)
  match p with
  | .formatted => { b with gen := 1 }
  | .recovered => b
  | .batch =>
    { b with
      applied := s.jne.bLast, rtail := tailAfter s s.jne.bLast,
      opens := setCur s.jne.bSeg (((openAt b s.jne.bSeg).map (fun x => x.cur)).getD 0 + s.jne.bPages) }
  | .sealed o => { b with opens := b.opens.filter (fun x => x.o != o) }
  | .opened carry o m slot =>
    let u := sbUnit s m
    let k := (slot + u.cap - u.head) % u.cap
    putUnit { b with opens := b.opens ++ [⟨o, carry, m, slot, 1, b.nextseq⟩], nextseq := b.nextseq + 1 }
      { u with head := (slot + 1) % u.cap, live := u.live + 1 + k, pinout := u.pinout - k }
  | .reclaimed m =>
    let o := ((openCarry b).map (fun x => x.o)).getD 0
    putUnit { b with opens := setCur o s.jne.cBase } (dropTail b (sbUnit s m))
  | .discarded m => putUnit b (dropTail b (sbUnit s m))
  | .pin seq =>
    match segPlace s seq with
    | some p => { b with pinned := b.pinned ++ [(p.1, p.2, seq)] }
    | none => b
  | .unpin seq =>
    match b.pinned.find? (fun x => x.2.2 == seq) with
    | some x =>
      let u := sbUnit s x.1
      let c := { b with pinned := b.pinned.filter (fun y => y != x) }
      if inLive u x.2.1 then c else putUnit c { u with pinout := u.pinout - 1 }
    | none => b
  | .resynced c0 => { b with applied := c0, rtail := ringBase s }

/-! Applying a commit (R365). -/

/-- The steps that apply a record. -/
def applyRecord (s : State) (kind : Nat) (b : List Word) : List JOp :=
  let img := imgAddr s
  let n := (b.getD 0 0).toNat % 2 ^ 25
  let u := img + 2 ^ 26 + 4096 + 4 * ((b.getD 0 0).toNat % 1024)
  match kind with
  | 1 | 2 => [.wr (img + 2 * n) [b.getD 1 0, BitVec.ofNat 48 ((b.getD 0 0).toNat / 2 ^ 25 % 2 ^ 16)]]
  | 3 => [.wr (img + 2 * n) [0, 0], .rd (img + 2 ^ 26) 4096, .act (.pinTable n false)]
  | 4 => [.rd (img + 2 * n + 1) 1, .act (.pinMeta n true), .rd (img + 2 ^ 26) 4096, .act (.pinTable n true)]
  | 5 => [.rd (img + 2 * n + 1) 1, .act (.pinMeta n false), .rd (img + 2 ^ 26) 4096, .act (.pinTable n false)]
  | 6 =>
    let w := pneUstateDSTATE.put (pneUstateDMODEL.put 0 ((b.getD 0 0).toNat / 2 ^ 18 % 2 ^ 16))
      ((b.getD 0 0).toNat / 2 ^ 16 % 4)
    [.wr u [w, BitVec.ofNat 48 ((b.getD 1 0).toNat % 2 ^ 40)]]
  | 8 => [.wr (u + 2) [b.getD 2 0]]
  | _ => []

/-- The steps that apply records in order. -/
def applyAll (s : State) (l : List (Nat × List Word)) : List JOp := l.flatMap (fun r => applyRecord s r.1 r.2)

/-- The pin table has been read: the entry that holds the point, or else the lowest invalid one, is set, or
the point's entry cleared. With no invalid entry left no entry is written. -/
def pinTableDone (s : State) (n : Nat) (pin : Bool) : State :=
  let l := s.jne.buf
  let held := l.findIdx? (fun w => bitOf w 47 && w.toNat % 2 ^ 25 == n)
  let i := if held.isSome || !pin then held else l.findIdx? (fun w => !bitOf w 47)
  match i with
  | some k => pushOps s [.wr (imgAddr s + 2 ^ 26 + k) [if pin then BitVec.ofNat 48 (2 ^ 47 + n) else 0]]
  | none => s

/-! Pages (R358, R359, R364). -/

/-- Pages of a segment that hold stream words from page p on: tag, then 511 words. -/
def pagesOf (seq : Nat) : Nat → Nat → List Word → List (List Word)
  | 0, _, _ => []
  | f + 1, p, l =>
    if l.isEmpty then []
    else (BitVec.ofNat 48 (seq * 4096 + p) :: l.take 511) :: pagesOf seq f (p + 1) (l.drop 511)

/-- Words of PAD after w stream words, to the end of the last page, or of the following one (R364). -/
def padFor (w : Nat) : Nat :=
  let r := w % 511
  if r = 0 then 0 else if 511 - r < 5 then 511 - r + 511 else 511 - r

/-- Pages that w stream words and their padding take. -/
def pagesFor (w : Nat) : Nat := (w + padFor w) / 511

/-- Words padded to the end of a page. -/
def padded (l : List Word) : List Word := if padFor l.length = 0 then l else l ++ padWords (padFor l.length)

/-- Words of several records. -/
def totalWords (l : List (List Word)) : Nat := l.foldl (fun n w => n + w.length) 0

/-- The records that fill a segment's last `room` stream words, and the rest (R360). -/
def fillTo (room : Nat) : List (List Word) → List (List Word) × List (List Word)
  | [] => ([], [])
  | w :: r =>
    if w.length = room then ([w], r)
    else if w.length + 5 ≤ room then
      let q := fillTo (room - w.length) r
      (w :: q.1, q.2)
    else ([], w :: r)

/-- The header page of a segment (R359). -/
def headerPage (s : State) (carry : Bool) (seq first : Nat) : List Word :=
  let ws := [BitVec.ofNat 48 (0x5E6C * 2 ^ 32 + 2 ^ 24 + b2n carry * 2 ^ 16), BitVec.ofNat 48 seq, s.jne.sb.jid,
    BitVec.ofNat 48 first, (jneTime s).1, BitVec.ofNat 48 (jneTime s).2]
  BitVec.ofNat 48 (seq * 4096) :: (ws ++ [BitVec.ofNat 48 (crc32c ws)] ++ List.replicate 504 0)

/-! Reading a source's stream (R369, R370). -/

/-- The record that begins a stream, if one whole and valid does. -/
def streamRecord (l : List (Option Word)) : Option (List Word) :=
  match l.head? with
  | some (some w0) =>
    let n := w0.toNat % 1024 + 5
    let ws := (l.take n).filterMap id
    if ws.length = n && recordOk ws then some ws else none
  | _ => none

/-- The valid records of a stream, and for each stretch that holds none the place of its first word. -/
def streamRecords : Nat → Nat → Bool → List (Option Word) → List (List Word) × List Nat
  | 0, _, _, _ => ([], [])
  | f + 1, i, bad, l =>
    if l.isEmpty then ([], [])
    else match streamRecord l with
      | some ws =>
        let q := streamRecords f (i + ws.length) false (l.drop ws.length)
        (ws :: q.1, q.2)
      | none =>
        let q := streamRecords f (i + 1) true (l.drop 1)
        (q.1, if bad then q.2 else i :: q.2)

/-- A record writes, defines or deletes a point. -/
def changesPoint (w : List Word) (del : Bool) : Option Nat :=
  if recKind w = 1 || recKind w = 2 || (del && recKind w = 3) then some (((recBody w).getD 0 0).toNat % 2 ^ 25) else none

/-- The records that a reclaim keeps (R370). -/
def keptRecords : List (List Word) → List (List Word)
  | [] => []
  | w :: r =>
    let later := match changesPoint w false with
      | some n => r.any (fun x => changesPoint x true == some n)
      | none => false
    if recKind w = 0 || later then keptRecords r else w :: keptRecords r

/-! Storage queues (R334). -/

/-- Ring of medium unit m. -/
def mqRing (s : State) (m : Nat) : MqRing := tget MqRing.zero s.jne.rings m
def setMqRing (s : State) (m : Nat) (r : MqRing) : State :=
  onJne s (fun j => { j with rings := tset MqRing.zero j.rings m r })
def mqEntries (s : State) (m : Nat) : Nat := 2 ^ rf s (jneMqcfg m) jneMqcfgQS

/-- Submissions outstanding on unit m. -/
def mqOutst (s : State) (m : Nat) : Nat := (s.jne.subs.filter (fun x => x.m == m)).length
def mqSync (s : State) (m : Nat) : State := wf s (jneMqcfg m) jneMqcfgOUTST (mqOutst s m)

/-- Make a submission: its entry, then the doorbell. The running activity waits for it where `wait` says so. -/
def mqSubmit (s : State) (m op page npg buf : Nat) (wait : Bool) : State :=
  let tag := s.jne.nextTag % 2 ^ 16
  let e := [BitVec.ofNat 48 (op * 2 ^ 40 + tag), BitVec.ofNat 48 page, BitVec.ofNat 48 buf, BitVec.ofNat 48 npg]
  let l := [JOp.wr (rf s (jneMqsq m) jneMqsqADDR + 4 * (mqRing s m).sub) e, .ring m tag op page]
  pushOps (onJne s (fun j => { j with nextTag := j.nextTag + 1 })) (if wait then l ++ [.await m tag] else l)

/-- The doorbell of a submission whose entry is written: the new tail. From here on it is outstanding. -/
def mqDoorbell (s : State) (m tag op page : Nat) : State :=
  let r := mqRing s m
  let tail := (r.sub + 1) % mqEntries s m
  let t := onJne (setMqRing s m { r with sub := tail }) (fun j => { j with subs := j.subs ++ [⟨m, tag, op, page⟩] })
  startBurst (mqSync t m) ⟨0, true, rf s (jneMqdb m) jneMqdbADDR, 1, [BitVec.ofNat 48 tail], 0, 0, false⟩

/-- The journal leaves OFF: the rings of every unit start at entry 0, PHASE 1 expected, no earlier submission is
outstanding, and INFO of both pages goes to every served unit (R334, R361). -/
def ringsStart (s : State) : State :=
  forN 16 (onJne s (fun j => { j with
    rings := [], subs := [], infoq := ((List.range 16).filter (mqOn s)).flatMap (fun m => [(m, 0), (m, 1)]) })) mqSync

/-- A commit of the JNE's own (R373). -/
def ownRecord (s : State) (kind : Nat) (body : List Nat) : State :=
  onJne s (fun j => { j with ownq := j.ownq ++ [(kind, body.map (BitVec.ofNat 48))] })

/-- MEDIUM_ERR (R373). -/
def mediumErr (s : State) (m status op page : Nat) : State :=
  ownRecord s 0x36 [m * 2 ^ 40 + status * 2 ^ 32 + op, page]

/-! Recovery (R376). -/

/-- A failure of an opening that leaves both tiers untouched. -/
def recFault (s : State) (reason : Nat) : State := jneFault (wf s jneRecsts jneRecstsFREASON reason)

/-- The superblock copies have been read. -/
def evalCopies (s : State) : State :=
  let good := s.jne.copies.filter (fun c => copyOk c.1 c.2)
  match good.find? (fun c => good.all (fun d => sbBits d.2 1 47 0 ≤ sbBits c.2 1 47 0)) with
  | none => ringsStart (jneEnter (endScript s) 1)
  | some (c, w) =>
    let s := ringsStart (jneEnter s 2)
    let w6 := [rf s jneHead jneHeadHSIZE, rf s jneHlog jneHlogHLSIZE, rf s jneHlog jneHlogHLBASE, imgAddr s]
    if good.any (fun d => d.2.getD 2 0 != w.getD 2 0) then recFault s 3
    else if 1 < sbBits w 0 23 16 || 1 < sbBits w 0 31 24 then recFault s 2
    else if w6 ≠ [sbBits w 6 46 40, sbBits w 6 29 16, sbBits w 6 13 0, sbBits w 7 39 26 * 2 ^ 26] then recFault s 1
    else
      let b := sbRead w
      let t := sbShow (wf (wf s jneRecsts jneRecstsRECN 0) jneRecsts jneRecstsCOPY c) b
      let t := forN 16 t (fun t m =>
        if sbBits w (16 + 4 * m) 46 46 = 1 then wb t (jneMwear m) jneMwearMERR true else t)
      pushOps (onJne t (fun j => { j with
        rpos := b.rtail, rstart := b.rtail, rcsn := b.applied + 1, rrecs := [], rcnt := 0, used := 0, log := [], padCsn := 0 }))
        [.act .recHead]

/-- The SEG_SEAL records among some records are noted: the latest of a SEQ gives its extent (R360, R373). -/
def noteSeals (s : State) (ws : List (List Word)) : State :=
  ws.foldl (fun t w =>
    let q := ((recBody w).getD 0 0).toNat % 2 ^ 36
    if recKind w ≠ 0x31 || t.jne.seals.any (fun x => x.1 == q && decide (recCsn w < x.2.1)) then t
    else onJne t (fun j => { j with
      seals := (q, recCsn w, ((recBody w).getD 1 0).toNat) :: j.seals.filter (fun x => x.1 != q) })) s

/-- The page count that the latest SEG_SEAL of a SEQ carries. -/
def sealPages (s : State) (seq : Nat) : Option Nat := (s.jne.seals.find? (fun x => x.1 == seq)).map (fun x => x.2.2)

/-- A record of the ring has been read: it continues the commit being read, is a PAD, or ends the run. -/
def recBodyDone (s : State) : State :=
  let w := s.jne.buf
  let j := s.jne
  let pos := ringWrap s (j.rpos + w.length)
  if !recordOk w then pushOps s [.act .recEnd]
  else if recKind w = 0 then
    pushOps (onJne s (fun j => { j with
      rpos := pos, rstart := if j.rrecs.isEmpty then pos else j.rstart, used := j.used + w.length })) [.act .recHead]
  else if recCsn w ≠ j.rcsn || recIdx w ≠ j.rrecs.length then pushOps s [.act .recEnd]
  else if recLast w then
    let ws := j.rrecs ++ [w]
    let w0 := ws.headD []
    let n := totalWords ws
    let recs := ws.map (fun x => (recKind x, recBody x))
    let c : Commit := ⟨j.rcsn, recSrc w0, none, w0.getD 2 0, (w0.getD 3 0).toNat % 2 ^ 32, recs, ws, n, true,
      some j.rstart, j.used + w.length - spanSum j.log, 0, s.port, false, false, true, false⟩
    let t := onJne (noteSeals s ws) (fun j => { j with
      rpos := pos, rstart := pos, rcsn := j.rcsn + 1, rrecs := [], rcnt := j.rcnt + 1, used := j.used + w.length,
      log := j.log ++ [c] })
    pushOps (wf t jneRecsts jneRecstsRECN t.jne.rcnt) (applyAll s recs ++ [.act .recHead])
  else if 15 ≤ j.rrecs.length then pushOps s [.act .recEnd]
  else
    pushOps (onJne s (fun j => { j with rpos := pos, rrecs := j.rrecs ++ [w], used := j.used + w.length }))
      [.act .recHead]

/-- Ring words to zero from a position: the ring in two pieces where it wraps. -/
def zeroRing (s : State) (pos n : Nat) : List JOp :=
  let a := min n (ringEnd s - pos)
  [.zero (persBase + pos) a, .zero (persBase + ringBase s) (n - a)]

/-- The run has ended: words from the beginning of a commit that is not complete do not count, its PADs among them. -/
def recEndDone (s : State) : State :=
  let u := s.jne.used - (s.jne.rpos + ringSize s - s.jne.rstart) % max 1 (ringSize s)
  let t := onJne s (fun j => { j with used := u, wpos := j.rstart, rrecs := [] })
  pushOps t (zeroRing t t.jne.rstart (min 33792 (ringSize t - u)) ++ [.act (.publish .recovered)])

/-! Drydown (R364, R366 to R371, R374). -/

/-- Undried commits that a batch may take, oldest first (R364, R441). -/
def dryable (s : State) : List Commit :=
  s.jne.log.filter (fun c => !c.dried && c.csn ≤ rf s jnePercsn jnePercsnCSN &&
    (match s.jne.keep with
     | some k => c.csn ≤ k
     | none => true))

/-- BATCHPG as it acts (R380). -/
def batchPg (s : State) : Nat := max 1 (min 64 (rf s jneDry jneDryBATCHPG))

/-- The commits of the next batch: as many as fit, at least one. -/
def takeBatch (pg : Nat) : Nat → List Commit → List Commit
  | _, [] => []
  | w, c :: r => if w = 0 || pagesFor (w + c.size) ≤ pg then c :: takeBatch pg (w + c.size) r else []

/-- Drydown may take a step (R367, R441). -/
def dryRuns (s : State) : Bool :=
  pdOn s 44 && s.running && jneState s == 3 && !s.sem.pfail && !s.jne.held

/-- A batch is due (R364). -/
def batchDue (s : State) : Bool :=
  let l := dryable s
  511 * batchPg s ≤ l.foldl (fun n c => n + c.size) 0 ||
    (match l with
     | c :: _ => c.perAt + 300 * max 1 (rf s jneDry jneDryDRYAGE) ≤ s.port
     | [] => false)

/-- Placement at a batch (R374): at most one segment opened or sealed. None is opened while another one has yet to take its
first batch, whose first commit its header names (R359; DESIGN CHOICE, log entry 198). -/
def placeStep (s : State) : State :=
  let t := onJne s (fun j => { j with readmit := [] })
  let el := (eligible t).length
  if rb t jnePlccfg jnePlccfgFREEZE then t
  else
    let b := t.jne.sb
    let nact := (openLogs b).length
    let occ := if ringSize t = 0 then 0 else t.jne.used * 64 / ringSize t
    let lo := rf t jnePlcwin jnePlcwinELO
    let hi := rf t jnePlcwin jnePlcwinEHI
    let prop : Int := if rf t jnePlccfg jnePlccfgHIWAT ≤ occ then nact + 1
      else if occ ≤ rf t jnePlccfg jnePlccfgLOWAT then (nact : Int) - 1 else nact
    let c := (max (lo : Int) (min hi prop)).toNat
    let t := if (c : Int) = prop then t else inc (wb t jnePlcsts jnePlcstsPOLICYCLAMPED true) jnePlcsts jnePlcstsCLAMPS
    let target := min c (min el (16 - b2n (openCarry b).isSome))
    let t := if el < lo then wb t jneDrysts jneDrystsPLCSHORT true else t
    if nact < target then
      match freeOpen b with
      | some o =>
        if (stepUnit t).isSome && !(openLogs b).any (fun x => x.cur == 1) then pushOps t [.act (.openSeg false o)] else t
      | none => t
    else if target < nact then
      match (openLogs b).foldl (fun (a : Option SegOpen) x => match a with
          | some y => if y.o < x.o then some x else some y
          | none => some x) none with
      | some x => pushOps t [.act (.seal x.o x.cur)]
      | none => t
    else t

/-- The next open LOG segment in ascending o, cyclically (R364). -/
def nextLog (s : State) : Option SegOpen :=
  let l := (List.range 16).filterMap (fun o => (openLogs s.jne.sb).find? (fun x => x.o == o))
  match l.find? (fun x => s.jne.bNext ≤ x.o) with
  | some x => some x
  | none => l.head?

/-- The tail segment of a unit, if drydown may free it (R369). -/
def tailFree (s : State) (m : Nat) : Bool :=
  let u := sbUnit s m
  u.live != 0 && !slotPinned s.jne.sb m u.tail && !s.jne.sb.opens.any (fun x => x.unit == m && x.slot == u.tail)

/-- Units whose tail segment could be the source (R369). -/
def sourceUnits (s : State) : List Nat := (List.range 16).filter (fun m => tailFree s m)

/-- The segment that holds a slot. -/
def dirAt (s : State) (m slot : Nat) : Option Segment := s.jne.dir.find? (fun g => g.unit == m && g.slot == slot)

/-- The source: the tail segment of lowest SEQ (R369). -/
def sourceSeg (s : State) : Option Segment :=
  ((sourceUnits s).filterMap (fun m => dirAt s m (sbUnit s m).tail)).foldl (fun a g => match a with
    | some x => if g.seq < x.seq then some g else some x
    | none => some g) none

/-- A served unit whose tail segment could be the source and is not known yet. -/
def unknownTail (s : State) : Option Nat :=
  (sourceUnits s).find? (fun m => mqOn s m && (dirAt s m (sbUnit s m).tail).isNone)

/-- An open CARRY segment has room for a source, or one can be opened. -/
def carryRoom (s : State) (g : Segment) : Bool :=
  match openCarry s.jne.sb with
  | some c => g.pages ≤ 4096 - c.cur || (unitFor s true).isSome
  | none => (freeOpen s.jne.sb).isSome && (unitFor s true).isSome

/-- The source can be reclaimed (R369, R371): its unit is served, and its records have room. -/
def canReclaim (s : State) (g : Segment) : Bool := rb s jneDry jneDryTHIN && mqOn s g.unit && carryRoom s g

/-- Drydown could free a slot (R371). -/
def canFree (s : State) : Bool :=
  match sourceSeg s with
  | some g => rb s jneDry jneDryDISCARD || canReclaim s g
  | none => false

/-- Free slots of all eligible units total no more than RESERVE (R369). -/
def shortOfSlots (s : State) : Bool :=
  (eligible s).foldl (fun n m => n + freeSlots (sbUnit s m)) 0 ≤ rf s jneDry jneDryRESERVE

/-- Read one page of a slot whose segment is not known, from its header on: the `tries`th time. -/
def readHeader (s : State) (m slot page tries : Nat) : List JOp :=
  [.sub m 1 (4096 * slot + page) 1 (dryRead s), .act (.hdrGot m slot page tries)]

/-- The extent of a known segment. -/
def setPages (s : State) (g : Segment) (n : Nat) : State :=
  onJne s (fun j => { j with dir := j.dir.map (fun x => if x == g then { x with pages := n } else x) })

/-- Begin a reclaim, or a discard where reclaim is off or impossible (R369, R371). A tail segment that is
not known is read first; where its extent is not known, history is searched for its SEG_SEAL (R360). -/
def reclaimBegin (s : State) : State :=
  match unknownTail s with
  | some m => pushOps s (readHeader s m (sbUnit s m).tail 0 1 ++ [.act .reclaim])
  | none =>
    match sourceSeg s with
    | none => s
    | some g =>
      if rb s jneDry jneDryTHIN && mqOn s g.unit && g.pages = 0 then
        match sealPages s g.seq with
        | some n => pushOps (setPages s g n) [.act .reclaim]
        | none => if s.jne.scanned then pushOps (setPages s g 4096) [.act .reclaim]
          else pushOps s [.act (.scan 0 0), .act .reclaim]
      else if canReclaim s g then
        let t := onJne s (fun j => { j with src := some g, srcWs := [] })
        let pre := match openCarry s.jne.sb with
          | some c => if g.pages ≤ 4096 - c.cur then [] else [JOp.act (.seal c.o c.cur), .act (.openSeg true c.o)]
          | none => [JOp.act (.openSeg true ((freeOpen s.jne.sb).getD 0))]
        pushOps t (pre ++ [.act (.srcNext 1), .act .carry])
      else if rb s jneDry jneDryDISCARD then
        pushOps (onJne s (fun j => { j with src := some g }))
          [.own 0x33 [BitVec.ofNat 48 g.seq, BitVec.ofNat 48 g.first], .settle, .act (.publish (.discarded g.unit))]
      else s

/-- A segment becomes known. -/
def dirAdd (s : State) (g : Segment) : State := onJne s (fun j => { j with dir := j.dir ++ [g] })

/-- The read of a page of an unknown segment has completed: a failed one is tried up to three times, then page 1 is to tell the SEQ (R369; DESIGN CHOICE, log entry 199). -/
def hdrGotStep (s : State) (m slot page tries : Nat) : State :=
  if !mqOn s m then s
  else if s.jne.mqSt = 0 then pushOps s [.rd (dryRead s) 8, .act (.hdrRead m slot page)]
  else if tries < 3 then pushOps s (readHeader s m slot page (tries + 1))
  else
    let t := mediumErr (wb s jneDrysts jneDrystsDRYERR true) m s.jne.mqSt 1 (4096 * slot + page)
    if page = 0 then pushOps t (readHeader s m slot 1 1) else dirAdd t ⟨m, slot, 0, 0, 1⟩

/-- A page of an unknown segment has been read: the SEQ in its tag, and FIRSTCSN from a valid header (R358, R359). A slot
whose page has another page's tag holds nothing that could be read. -/
def hdrDone (s : State) (m slot page : Nat) : State :=
  let w := s.jne.buf
  let seq := (w.getD 0 0).toNat / 4096
  let head := page = 0 && sbBits w 1 47 32 == 0x5E6C && seq == sbBits w 2 35 0 && sbBits w 7 31 0 == crc32c ((w.drop 1).take 6)
  if (w.getD 0 0).toNat % 4096 ≠ page then dirAdd (wb s jneDrysts jneDrystsDRYERR true) ⟨m, slot, 0, 0, 1⟩
  else
    let g : Segment := ⟨m, slot, seq, if head then (w.getD 4 0).toNat else 0, (sealPages s seq).getD 0⟩
    if head || page ≠ 0 then dirAdd s g else dirAdd (wb s jneDrysts jneDrystsDRYERR true) g

/-- A live slot of a served unit whose segment is not known. -/
def unknownSlot (s : State) : Option (Nat × Nat) :=
  ((List.range 16).filter (mqOn s)).findSome? (fun m =>
    let u := sbUnit s m
    ((List.range u.live).find? (fun i => (dirAt s m ((u.tail + i) % u.cap)).isNone)).map (fun i => (m, (u.tail + i) % u.cap)))

/-- Every live segment becomes known (R372). -/
def dirFillStep (s : State) : State :=
  match unknownSlot s with
  | some p => pushOps s (readHeader s p.1 p.2 0 1 ++ [.act .dirFill])
  | none => s

/-- Search the segments of the served units for SEG_SEAL records, from slot i of unit m's live range on (R360). -/
def scanStep (s : State) (m i : Nat) : State :=
  match (List.range 16).find? (fun k => m ≤ k && mqOn s k && decide ((if k = m then i else 0) < (sbUnit s k).live)) with
  | none => onJne s (fun j => { j with scanned := true, src := none, srcWs := [] })
  | some k =>
    let i := if k = m then i else 0
    let u := sbUnit s k
    let slot := (u.tail + i) % u.cap
    match dirAt s k slot with
    | none => pushOps s (readHeader s k slot 0 1 ++ [.act (.scan k i)])
    | some g =>
      let t := onJne s (fun j => { j with src := some { g with pages := if g.pages = 0 then 4096 else g.pages }, srcWs := [] })
      pushOps t [.act (.srcNext 1), .act (.scanEnd k i)]

/-- A segment has been read in the search. -/
def scanEndStep (s : State) (m i : Nat) : State :=
  let t := noteSeals s (streamRecords (s.jne.srcWs.length + 1) 0 false s.jne.srcWs).1
  pushOps (onJne t (fun j => { j with src := none, srcWs := [] })) [.act (.scan m (i + 1))]

/-- Submit the read of the next source pages, or go on (R369 step 2). -/
def srcNextStep (s : State) (page : Nat) : State :=
  match s.jne.src with
  | none => endScript s
  | some g =>
    if g.pages ≤ page then s
    else
      let n := min 64 (g.pages - page)
      pushOps s [.sub g.unit 1 (4096 * g.slot + page) n (dryRead s), .act (.srcDone page n 1)]

/-- A read of source pages has completed; the third failure gives the pages up. The activity ends where the unit is no
longer served. -/
def srcDoneStep (s : State) (page n tries : Nat) : State :=
  match s.jne.src with
  | none => endScript s
  | some g =>
    if !mqOn s g.unit then endScript s
    else if s.jne.mqSt = 0 then pushOps s [.rd (dryRead s) (512 * n), .act (.srcWords page n)]
    else if tries < 3 then
      pushOps s [.sub g.unit 1 (4096 * g.slot + page) n (dryRead s), .act (.srcDone page n (tries + 1))]
    else
      let t := mediumErr (wb s jneDrysts jneDrystsDRYERR true) g.unit s.jne.mqSt 1 (4096 * g.slot + page)
      pushOps (onJne t (fun j => { j with srcWs := j.srcWs ++ List.replicate (511 * n) none })) [.act (.srcNext (page + n))]

/-- Source pages are in the block: a page whose tag does not match is not part of the segment (R358). -/
def srcWordsStep (s : State) (page n : Nat) : State :=
  match s.jne.src with
  | none => endScript s
  | some g =>
    let ps := (List.range n).flatMap (fun i =>
      let w := (s.jne.buf.drop (512 * i)).take 512
      if (w.headD 0).toNat = g.seq * 4096 + page + i then w.tail.map some else List.replicate 511 (none : Option Word))
    pushOps (onJne s (fun j => { j with srcWs := j.srcWs ++ ps })) [.act (.srcNext (page + n))]

/-- The source is read: its kept records become CARRY pages (R369, R370). A stretch that holds no valid
record counts as one failure; pages that could not be read have been counted. -/
def carryStep (s : State) : State :=
  match s.jne.src, openCarry s.jne.sb with
  | some g, some c =>
    let q := streamRecords (s.jne.srcWs.length + 1) 0 false s.jne.srcWs
    let bad := q.2.filter (fun i => (s.jne.srcWs.getD i none).isSome)
    let t := bad.foldl (fun t i =>
      mediumErr (wb t jneDrysts jneDrystsDRYERR true) g.unit 0 1 (4096 * g.slot + 1 + i / 511)) s
    let keep := keptRecords q.1
    let ps := pagesOf c.seq 4096 c.cur (padded keep.flatten)
    pushOps (onJne t (fun j => { j with
      kept := keep.length, dropped := q.1.length - keep.length, cPages := ps, cBase := c.cur, cSeq := c.seq,
      srcWs := [] }))
      [.act .carryPages]
  | _, _ => endScript s

/-- Write the next CARRY pages, or publish them; a full CARRY segment is sealed first. -/
def carryPagesStep (s : State) : State :=
  match s.jne.src, openCarry s.jne.sb with
  | some g, some c =>
    let l := s.jne.cPages.take 64
    if l.isEmpty then
      pushOps s ((if s.jne.cBase = 4096 then [JOp.act (.seal c.o 4096)] else []) ++ [.act (.publish (.reclaimed g.unit))])
    else pushOps s [.wr (dryWrite s) l.flatten, .sub c.unit 2 (4096 * c.slot + s.jne.cBase) l.length (dryWrite s),
      .act .carryWrote]
  | _, _ => endScript s

/-- Form a batch (R364, R366 step 1). One that finds no open LOG segment opens one: the first batch opens the first segment
(R377). -/
def batchBegin (s : State) : State :=
  let l := takeBatch (batchPg s) 0 (dryable s)
  match l.getLast?, nextLog s with
  | some c, some x =>
    pushOps (onJne s (fun j => { j with
      bLast := c.csn, bRecs := (l.map (fun d => d.words)).flatten, bSeg := x.o, bPages := 0, bNext := x.o + 1 }))
      [.act .batchPart]
  | none, _ => s
  | some _, none =>
    match freeOpen s.jne.sb, unitFor s false with
    | some o, some _ => pushOps s [.act (.openSeg false o), .act .batch]
    | _, _ => if canFree s then s else wb s jneDrysts jneDrystsBASEFULL true

/-- Write what of the batch fits in the segment (R364, R366 step 2). -/
def batchPartStep (s : State) : State :=
  match openAt s.jne.sb s.jne.bSeg with
  | none => endScript s
  | some x =>
    let room := 4096 - x.cur
    let all := pagesFor (totalWords s.jne.bRecs) ≤ room
    let q := fillTo (511 * room) s.jne.bRecs
    let part := if all then padded s.jne.bRecs.flatten
      else
        let w := q.1.flatten
        if 511 * room = w.length then w else w ++ padWords (511 * room - w.length)
    let ps := pagesOf x.seq 4097 x.cur part
    let t := onJne s (fun j => { j with bRecs := if all then [] else q.2, bPages := ps.length })
    if ps.isEmpty then pushOps t [.act (.batchWrote all)]
    else pushOps t [.wr (dryWrite s) ps.flatten, .sub x.unit 2 (4096 * x.slot + x.cur) ps.length (dryWrite s),
      .act (.batchWrote all)]

/-- A part of the batch is on the medium: the batch is applied, or goes on in a segment opened in place of
the full one (R364, R366). A segment that the batch's last page has filled is sealed (R368). -/
def batchWroteStep (s : State) (last : Bool) : State :=
  if last then
    let l := s.jne.log.filter (fun c => !c.dried && c.csn ≤ s.jne.bLast)
    let full := match openAt s.jne.sb s.jne.bSeg with
      | some x => x.cur + s.jne.bPages == 4096
      | none => false
    pushOps s ((if full then [JOp.act (.seal s.jne.bSeg 4096)] else []) ++
      applyAll s (l.map (fun c => c.recs)).flatten ++ [.act (.publish .batch)])
  else
    let o := s.jne.bSeg
    pushOps s [.act (.seal o 4096), .act (.openSeg false o), .act .batchPart]

/-- Seal a segment at a page count (R368). -/
def sealStep (s : State) (o pages : Nat) : State :=
  match openAt s.jne.sb o with
  | none => s
  | some x =>
    let t := onJne s (fun j => { j with
      dir := j.dir.map (fun g => if g.seq = x.seq then { g with pages := pages } else g),
      seals := (x.seq, rf s jneNextcsn jneNextcsnCSN, pages) :: j.seals.filter (fun y => y.1 != x.seq) })
    pushOps t [.own 0x31 [BitVec.ofNat 48 x.seq, BitVec.ofNat 48 pages], .settle, .act (.publish (.sealed o))]

/-- CSN of the first commit that will go into a LOG segment now opened (R359). -/
def firstCsn (s : State) : Nat :=
  match s.jne.bRecs, dryable s with
  | w :: _, _ => recCsn w
  | [], c :: _ => c.csn
  | [], [] => rf s jneNextcsn jneNextcsnCSN

/-- Open a segment (R368). With no unit for it a batch goes on in another open segment with room; without one drydown stops,
BASEFULL where no slot can be freed (R371). The batch at which a LOG segment is opened goes to it, so that FIRSTCSN names its
first commit (R359; DESIGN CHOICE, log entry 198). -/
def openSegStep (s : State) (carry : Bool) (o : Nat) : State :=
  match unitFor s carry with
  | none =>
    if carry then endScript s
    else match nextLog s with
      | some x => onJne s (fun j => { j with bSeg := x.o, bNext := x.o + 1 })
      | none => if canFree s then endScript s else wb (endScript s) jneDrysts jneDrystsBASEFULL true
  | some m =>
    let u := sbUnit s m
    let slot := headSlot s.jne.sb u 33 u.head
    let seq := s.jne.sb.nextseq
    let first := if carry then 0 else firstCsn s
    let t := onJne s (fun j => { j with
      dir := j.dir.filter (fun g => !(g.unit == m && g.slot == slot)) ++ [⟨m, slot, seq, first, 1⟩],
      bNext := if carry then j.bNext else if j.bRecs.isEmpty then o else o + 1 })
    pushOps t [.info m 1, .wr (dryWrite s) (headerPage s carry seq first), .sub m 2 (4096 * slot) 1 (dryWrite s),
      .act (.publish (.opened carry o m slot)),
      .own 0x30 [BitVec.ofNat 48 seq, BitVec.ofNat 48 (b2n carry * 2 ^ 46 + m * 2 ^ 40 + slot * 2 ^ 20)]]

/-- A segment command runs (R372). -/
def segCmdStep (s : State) : State :=
  let seq := rf s jneSegcmd jneSegcmdSEQ
  let b := s.jne.sb
  let fin := fun (t : State) (st : Nat) =>
    onJne (wb (wf t jneSegcmd jneSegcmdSTATUS st) jneSegcmd jneSegcmdBUSY false) (fun j => { j with cmd := 0 })
  let isPinned := b.pinned.any (fun p => p.2.2 == seq)
  if s.jne.cmd = 1 then
    if isPinned then fin s 0
    else if (segPlace s seq).isNone then
      (if (unknownSlot s).isSome then pushOps s [.act .dirFill, .act .segCmd] else fin s 1)
    else if 32 ≤ b.pinned.length then fin s 2
    else pushOps s [.act (.publish (.pin seq))]
  else if isPinned then pushOps s [.act (.publish (.unpin seq))] else fin s 1

/-- Commits through CSN n are dried: their ring words are free and the PNE's D bits clear (R366 step 5). -/
def markDried (s : State) (n : Nat) : State :=
  let gone := s.jne.log.filter (fun c => c.csn ≤ n && !c.dried)
  let k := gone.foldl (fun k c => k + c.span) 0
  let crc := match gone.getLast? with
    | some c => (c.csn, ((c.words.getLastD []).getLastD 0).toNat % 2 ^ 32)
    | none => (s.jne.dryCsn, s.jne.dryCrc)
  let t := onJne s (fun j => { j with
    used := j.used - k, dryCsn := crc.1, dryCrc := crc.2,
    log := (j.log.map (fun c => if c.csn ≤ n then { c with dried := true } else c)).filter (fun c =>
      !(c.dried && c.acked)) })
  pneApplied t n

/-- The segment in a slot is gone. -/
def dirDrop (s : State) (m slot : Nat) : State :=
  onJne s (fun j => { j with dir := j.dir.filter (fun x => !(x.unit == m && x.slot == slot)), src := none })

/-- A superblock is written: what it publishes is in effect. -/
def publishedStep (s : State) (p : JPub) : State :=
  let b := s.jne.nsb
  let t := wf (wf s jneAppcsn jneAppcsnVALUE b.applied) jneSbgen jneSbgenVALUE b.gen
  let t := sbShow t b
  let trim := fun (t : State) (m slot : Nat) => pushOps t [.sub m 3 (4096 * slot) 4096 0]
  match p with
  | .formatted => onJne t (fun j => { j with ended := 2 })
  | .recovered => onJne t (fun j => { j with ended := 1 })
  | .batch => markDried t b.applied
  | .sealed _ | .opened _ _ _ _ => t
  | .reclaimed _ =>
    match t.jne.src with
    | some g =>
      let t := ownRecord t 0x32 [g.seq, t.jne.cSeq, t.jne.kept, t.jne.dropped]
      trim (dirDrop t g.unit g.slot) g.unit g.slot
    | none => t
  | .discarded _ =>
    match t.jne.src with
    | some g => trim (dirDrop (wb t jneDrysts jneDrystsDISCARDED true) g.unit g.slot) g.unit g.slot
    | none => t
  | .pin seq =>
    onJne (wb (wf (ownRecord t 0x34 [seq]) jneSegcmd jneSegcmdSTATUS 0) jneSegcmd jneSegcmdBUSY false)
      (fun j => { j with cmd := 0 })
  | .unpin seq =>
    let t := wb (wf (ownRecord t 0x35 [seq]) jneSegcmd jneSegcmdSTATUS 0) jneSegcmd jneSegcmdBUSY false
    let t := onJne t (fun j => { j with cmd := 0 })
    match s.jne.sb.pinned.find? (fun x => x.2.2 == seq) with
    | some x => if inLive (sbUnit t x.1) x.2.1 then t else trim (dirDrop t x.1 x.2.1) x.1 x.2.1
    | none => t
  | .resynced _ =>
    pneRestart { onJne (wb t mlkSts mlkStsRESYNCDONE true) (fun j => { j with held := false }) with
      mlk := { t.mlk with rs := false } }

/-- FORMAT's superblock step, once every INFO has completed (R363, R377). -/
def fmtSuperStep (s : State) : State :=
  let tm := jneTime s
  let b := { Superblock.zero with
    jid := BitVec.ofNat 48 (tm.1.toNat % 2 ^ 32 * 2 ^ 16 + s.port % 2 ^ 16), rtail := ringBase s,
    fmtsec := tm.1, fmtns := tm.2 }
  pushOps (onJne s (fun j => { j with sb := b, dir := [], wpos := ringBase s, used := 0, log := [] }))
    [.act (.publish .formatted)]

/-- The ring and the image are zero: the next CSN is 1 (R333 step 2). -/
def fmtCsnStep (s : State) : State := percsnSync (wf (wf s jneNextcsn jneNextcsnCSN 1) jneAckcsn jneAckcsnCSN 0)

/-- Read n words of a superblock copy, or go on where its first word is not one. -/
def copyWordStep (s : State) (c : Nat) : State :=
  let w := s.jne.buf.headD 0
  let n := w.toNat % 2 ^ 16
  if w.toNat / 2 ^ 32 = 0xC75B && 177 ≤ n && n ≤ 32768 then
    pushOps (onJne s (fun j => { j with copies := j.copies ++ [(c, [w])] }))
      [.rd (persBase + 0x8000 * c + 1) (n - 1), .act (.copyRest c)]
  else s

/-- The first word of a ring record has been read. -/
def recLenStep (s : State) : State :=
  let w := s.jne.buf.headD 0
  let n := w.toNat % 1024 + 5
  if w.toNat / 2 ^ 40 ≠ 0xC7 || ringEnd s < s.jne.rpos + n then pushOps s [.act .recEnd]
  else pushOps (onJne s (fun j => { j with buf := [w] })) [.rd (persBase + s.jne.rpos + 1) (n - 1), .act .recBody]

/-- A decision of the running activity; the words it used are dropped. -/
def jneAct (s : State) (a : JAct) : State :=
  let t := match a with
    | .copyWord c => copyWordStep s c
    | .copyRest c => onJne s (fun j => { j with
        copies := j.copies.map (fun x => if x.1 = c then (c, x.2 ++ j.buf) else x) })
    | .evalCopies => evalCopies s
    | .recHead => pushOps s [.rd (persBase + s.jne.rpos) 1, .act .recLen]
    | .recLen => recLenStep s
    | .recBody => recBodyDone s
    | .recEnd => recEndDone s
    | .pinMeta n pin => pushOps s [.wr (imgAddr s + 2 * n + 1) [BitVec.ofNat 48 (withPin ((s.jne.buf.headD 0).toNat % 2 ^ 16) pin)]]
    | .pinTable n pin => pinTableDone s n pin
    | .infoDone m _ => if s.jne.mqSt = 0 then s else wb s (jneMwear m) jneMwearMERR true
    | .fmtCsn => fmtCsnStep s
    | .fmtSuper => fmtSuperStep s
    | .publish p =>
      let b := nextSb s p
      pushOps (onJne s (fun j => { j with nsb := b })) (sbWriteOps s b p)
    | .published p => publishedStep s p
    | .place => placeStep s
    | .batch => batchBegin s
    | .batchPart => batchPartStep s
    | .batchWrote l => batchWroteStep s l
    | .seal o n => sealStep s o n
    | .openSeg c o => openSegStep s c o
    | .reclaim => reclaimBegin s
    | .hdrGot m slot page k => hdrGotStep s m slot page k
    | .hdrRead m slot page => hdrDone s m slot page
    | .dirFill => dirFillStep s
    | .scan m i => scanStep s m i
    | .scanEnd m i => scanEndStep s m i
    | .srcNext p => srcNextStep s p
    | .srcDone p n k => srcDoneStep s p n k
    | .srcWords p n => srcWordsStep s p n
    | .carry => carryStep s
    | .carryPages => carryPagesStep s
    | .carryWrote => pushOps (onJne s (fun j => { j with
        cBase := j.cBase + (j.cPages.take 64).length, cPages := j.cPages.drop 64 })) [.act .carryPages]
    | .segCmd => segCmdStep s
    | .zeroed => onJne s (fun j => { j with zeroing := false })
  match a with
  | .recLen => t
  | _ => onJne t (fun j => { j with buf := [] })

/-! The steps. -/

/-- A burst of the running activity. -/
def scriptBurst (s : State) (write : Bool) (a n : Nat) (ws : List Word) : State :=
  startBurst s ⟨0, write, a, n, ws, 0, 0, true⟩

/-- Start the bursts of up to 64 words in ascending address order (R362); the script waits for all of them. -/
def scriptWrites (s : State) (a : Nat) (ws : List Word) : State :=
  (List.range ((ws.length + 7) / 8)).foldl (fun t i =>
    let c := (ws.drop (8 * i)).take 8
    scriptBurst t true (a + 8 * i) c.length c) s

/-- The JNE's own commits are persisted (R368). -/
def ownSettled (s : State) : Bool :=
  s.jne.ownq.isEmpty && s.jne.log.all (fun c => c.src != 0 || (c.pos.isSome && c.left == 0))

/-- INFO may be submitted: not while the journal is OFF, nor from the registration of RN_PFAIL until it is OPEN again (R334,
R361, R367). -/
def infoRuns (s : State) : Bool := jneState s != 0 && jneState s != 4 && !s.sem.pfail

/-- Unit m serves a submission (R334, R375): a failed unit only READs. -/
def mqServes (s : State) (m op : Nat) : Bool := mqOn s m && (op == 1 || !mqFailed s m)

/-- Unit m has room for a submission (R334). -/
def mqRoom (s : State) (m : Nat) : Bool := mqOutst s m < mqEntries s m - 1

/-- The next INFO is submitted between two steps, unless a submission is being made; one to a unit that does not serve it is
dropped (R361, R375). -/
def infoStep (s : State) : Option State :=
  let between := match s.jne.script with
    | .wr _ _ :: _ => false
    | .ring _ _ _ _ :: _ => false
    | _ => true
  if !infoRuns s || !between then none
  else match s.jne.infoq.find? (fun x => !mqServes s x.1 4 || mqRoom s x.1) with
    | none => none
    | some x =>
      let t := onJne s (fun j => { j with infoq := j.infoq.erase x })
      some (if mqServes s x.1 4 then mqSubmit t x.1 4 x.2 1 0 false else t)

/-- One step of the running activity; none while it waits or nothing runs. A submission that the unit does not serve
fails. -/
def scriptStep (s : State) : Option State :=
  match s.jne.script with
    | [] => if s.jne.cmd ≠ 0 && dryRuns s then some (pushOps s [.act .segCmd]) else none
    | op :: r =>
      let t := onJne s (fun j => { j with script := r })
      match op with
      | .wr a ws =>
        if ws.isEmpty then some t
        else some (scriptWrites (if ws.length ≤ 64 then t else pushOps t [.wr (a + 64) (ws.drop 64)]) a (ws.take 64))
      | .zero a n =>
        if n = 0 then some t
        else some (scriptWrites (if n ≤ 64 then t else pushOps t [.zero (a + 64) (n - 64)]) a (List.replicate (min 64 n) 0))
      | .rd a n =>
        if n = 0 then some t
        else some (scriptBurst (if n ≤ 8 then t else pushOps t [.rd (a + 8) (n - 8)]) false a (min 8 n) [])
      | .sub m op p n b =>
        if !mqServes s m op then some (if op = 2 then endScript t else onJne t (fun j => { j with mqSt := 4, mqVal := 0 }))
        else if !mqRoom s m then none
        else some (mqSubmit t m op p n b true)
      | .info m p =>
        if !mqServes s m 4 then some t
        else if !mqRoom s m then none
        else some (mqSubmit t m 4 p 1 0 false)
      | .ring m tag op p => if s.jne.bursts.any (fun b => b.bell) then none else some (mqDoorbell t m tag op p)
      | .await m tag => if s.jne.subs.any (fun x => x.m == m && x.tag == tag) then none else some t
      | .own k b => some (onJne t (fun j => { j with ownq := j.ownq ++ [(k, b)] }))
      | .settle => if ownSettled s then some t else none
      | .act a => some (jneAct t a)

/-- One step of what the JNE does beside admission. -/
def jneStep (s : State) : Option State :=
  if s.jne.bursts.any (fun b => b.own) then none
  else match infoStep s with
    | some t => some t
    | none => scriptStep s

/-- Steps of the running activity until it waits. -/
def jneRun : Nat → State → State
  | 0, s => s
  | f + 1, s => match jneStep s with
    | some t => jneRun f t
    | none => s

end Sys2Proof.Machine
end

