-- ==== Sys2Proof/Machine/Jne.lean ====
section
/-! DEFINITION. The journal engine's commands: head-tier responses, opening, closing, formatting, power
failure, storage queues, drydown and segment commands (R331 to R334, R341, R348 to R351, R356, R361,
R364, R367, R372, R375 to R377, R380), and the write of a policy window (R82). -/

namespace Sys2Proof.Machine

/-- The system type of the journal (R234). -/
def otJournal : Nat := 7

/-! Head-tier bursts (R331). -/

/-- A burst has failed: at the head tier it is tried again up to three times, then the journal faults. A
host-window burst is not tried again. -/
def burstFailed (s : State) (b : JBurst) : State :=
  if b.addr < persBase then
    if b.write then s else onJne s (fun j => { j with buf := j.buf ++ List.replicate b.len 0 })
  else if b.tries < 3 then startBurst (inc s jneCnt jneCntHRETRY) { b with tries := b.tries + 1 }
  else jneFault (wb s jneSts jneStsHOSTERR true)

/-- A burst's response has come. -/
def burstDone (s : State) (b : JBurst) (x : HmpTx) : State :=
  let t := onJne s (fun j => { j with bursts := j.bursts.filter (fun y => y.id != b.id) })
  if x.code ≠ 0 then burstFailed t b
  else if b.write then wordsPersisted t b.csn b.len
  else onJne t (fun j => { j with buf := j.buf ++ (List.range b.len).map x.word })

/-- HEAD_BURST_RESPONSE (R331): the oldest response that has come. -/
def execHeadBurstResponse (s : State) : Out :=
  match hmpTake s (fun h => match h with
    | .unit 20 i => decide (32 ≤ i)
    | _ => false) with
  | none => ok s
  | some (x, t) =>
    match s.jne.bursts.find? (fun b => x.use == HmpUse.unit 20 (32 + b.id)) with
    | some b => ok (jneRun 64 (burstDone t b x))
    | none => ok t

/-- HEAD_BURST_TIMEOUT (R331): the oldest burst that has had no response within 1 ms. -/
def execHeadBurstTimeout (s : State) : Out :=
  let old := s.ports.out.find? (fun x => x.at_ + 300000 ≤ s.port &&
    s.jne.bursts.any (fun b => persBase ≤ b.addr && x.use == HmpUse.unit 20 (32 + b.id)))
  match old with
  | none => ok s
  | some x =>
    match s.jne.bursts.find? (fun b => x.use == HmpUse.unit 20 (32 + b.id)) with
    | none => ok s
    | some b =>
      let t := onJne (hmpDrop s (fun h => h == x.use)) (fun j => { j with bursts := j.bursts.filter (fun y => y.id != b.id) })
      ok (jneRun 64 (burstFailed t b))

/-! Opening and closing (R332, R334, R341, R356). -/

/-- Two areas share a word. -/
def areasMeet (a b : Nat × Nat) : Bool := a.1 < b.2 && b.1 < a.2

/-- The layout check (R332). -/
def layoutOk (s : State) : Bool :=
  let sup := (0, 0x10000)
  let ring := (ringBase s, ringEnd s)
  let img := (imgAddr s - persBase, imgAddr s - persBase + 2 ^ 26 + 8192)
  let hs := rf s jneHead jneHeadHSIZE
  let top := hs * 2 ^ 23
  1 ≤ hs && hs ≤ 64 && ringSize s != 0 && persBase ≤ imgAddr s && sup.2 ≤ top && ring.2 ≤ top && img.2 ≤ top &&
    !areasMeet sup ring && !areasMeet sup img && !areasMeet ring img

/-- EN has been written 1 to a journal that is OFF (R332). -/
def jneOpen (s : State) : State :=
  if !layoutOk s then
    let t := wb (wb s jneCtrl jneCtrlEN false) jneSts jneStsLAYOUT true
    if imgOk s || !pdOn s 45 then t else imgErr t
  else
    let t := wf s jneRecsts jneRecstsFREASON 0
    let t := onJne t (fun j => { j with copies := [], buf := [], ended := 0, closing := false, infoAt := s.port, polled := s.port })
    jneRun 64 (pushOps t [.rd persBase 1, .act (.copyWord 0), .rd (persBase + 0x8000) 1, .act (.copyWord 1), .act .evalCopies])

/-- A write of JNE_CTRL (R332, R344, R356). EN written 1 again before the journal is OFF keeps it open. -/
def jneCtrlWrite (s : State) (q : Req) (v : Word) : State :=
  if !holdsType s q otJournal then respond s 2
  else
    let en := jneCtrlEN.get v == 1
    let was := rb s jneCtrl jneCtrlEN
    let t := wf (wf s jneCtrl jneCtrlMIRMODE (jneCtrlMIRMODE.get v)) jneCtrl jneCtrlACKMODE (jneCtrlACKMODE.get v)
    let t := wb t jneCtrl jneCtrlEN en
    respond (if en && !was then
        (if jneState t = 0 && t.jne.script.isEmpty then jneOpen t else onJne t (fun j => { j with closing := false }))
      else if was && !en then
        let u := refuseAll (onJne t (fun j => { j with closing := true })) 3
        jneCheckOff (if jneState u = 0 then endScript u else u)
      else t) 0

/-- JNE_OPEN (R332). -/
def execJneOpen (q : Req) (mirmode ackmode : Bool) (s : State) : Out :=
  if pdOn s 44 then ok (jneCtrlWrite s q (BitVec.ofNat 48 (4 * b2n mirmode + 2 * b2n ackmode + 1)))
  else ok (respond s 3)

/-- JNE_CLOSE (R356). -/
def execJneClose (q : Req) (s : State) : Out :=
  if pdOn s 44 then ok (jneCtrlWrite s q (rd s jneCtrl &&& maskOf 47 1)) else ok (respond s 3)

/-- RECOVERY_COMPLETE (R376): the superblock of the recovery is written. While RN_PFAIL is registered the
journal is CLOSED. -/
def execRecoveryComplete (s : State) : Out :=
  if pdLive s 44 && s.jne.ended = 1 then
    let n := s.jne.rcsn - 1
    let t := wf (wf s jneNextcsn jneNextcsnCSN (n + 1)) jneAckcsn jneAckcsnCSN n
    let t := percsnSync (onJne t (fun j => { j with ended := 0 }))
    let t := ownRecord t 0x37 [s.jne.sb.applied, n, rf s jneRecsts jneRecstsCOPY]
    ok (jneEnter t (if s.sem.pfail || s.jne.shut then 4 else 3))
  else ok s

/-! Format (R333, R377). -/

/-- A write of JNE_CMD. -/
def jneCmdWrite (s : State) (q : Req) (v : Word) : State :=
  if !holdsType s q otJournal then respond s 2
  else if jneCmdOP.get v ≠ 1 || jneCmdKEY.get v ≠ 0xF0A7 then respond s 0
  else if jneState s ≠ 1 && jneState s ≠ 5 then respond (wb s jneSts jneStsFMTREF true) 0
  else
    let t := onJne (jneEnter s 6) (fun j => { j with
      log := [], ownq := [], mirq := [], sb := Superblock.zero, buf := [], ended := 0, dir := [], seals := [], scanned := false,
      padCsn := 0 })
    let t := forN 16 (setU t 0) (fun t m => wf (wb t (jneMwear m) jneMwearMERR false) (jneMwear m) jneMwearCAP 0)
    let info := ((List.range 16).filter (mqOn t)).flatMap (fun m =>
      [JOp.sub m 4 0 1 0, .act (.infoDone m 0), .sub m 4 1 1 0, .act (.infoDone m 1)])
    let ops := [JOp.wr persBase [0], .wr (persBase + 0x8000) [0], .zero (persBase + ringBase t) (ringSize t),
      .zero (imgAddr t) (2 ^ 26 + 8192), .act .fmtCsn] ++ info ++ [.act .fmtSuper]
    respond (jneRun 64 (onJne t (fun j => { j with script := j.script ++ ops }))) 0

/-- JNE_FORMAT (R333). -/
def execJneFormat (q : Req) (key : BitVec 16) (s : State) : Out :=
  if pdOn s 44 then ok (jneCmdWrite s q (BitVec.ofNat 48 (key.toNat * 16 + 1))) else ok (respond s 3)

/-- FORMAT_COMPLETE (R333): the first superblock is written. -/
def execFormatComplete (s : State) : Out :=
  if pdLive s 44 && s.jne.ended = 2 then
    ok (jneEnter (onJne s (fun j => { j with ended := 0 })) (if s.sem.pfail || s.jne.shut then 4 else 3))
  else ok s

/-! Power failure (R348, R350, R367). -/

/-- Bursts of the running activity are given up with it. -/
def dropOwn (s : State) : State :=
  let own := s.jne.bursts.filter (fun b => b.own)
  let t := hmpDrop s (fun h => own.any (fun b => h == HmpUse.unit 20 (32 + b.id)))
  onJne t (fun j => { j with script := [], buf := [], bursts := j.bursts.filter (fun b => !b.own) })

/-- Admission closes: the journal is CLOSED, what waits is refused with PFAIL, drydown stops, and staged words go ahead of
the JNE's other accesses (R348, R351). -/
def jneCloseNow (s : State) : State :=
  if jneState s = 3 then stagedFirst (refuseAll (jneEnter (dropOwn s) 4) 4) else refuseAll s 4

/-- PFAIL (R348): RN_PFAIL is registered. A halted block runs again, and stays safe (R519). -/
def execPfail (s : State) : Out :=
  if s.sem.pfail then ok s
  else
    let t := { s with sem := { s.sem with pfail := true } }
    let t := if s.halted && s.pctl.pll then { t with running := true } else t
    let t := tripSync (semFire t 0x001)
    let t := onJne t (fun j => { j with pfAt := btime s, pfLow := none })
    ok (if pdLive s 44 then jneCloseNow t else t)

/-- PFAIL_DEASSERT (R350). -/
def execPfailDeassert (s : State) : Out :=
  onlyIf s.sem.pfail s
    (tripSync (onJne { s with sem := { s.sem with pfail := false } } (fun j => { j with pfLow := some s.port })))

/-- PFAIL_REARM (R350): RN_PFAIL has been low for 10 ms. -/
def execPfailRearm (s : State) : Out :=
  match s.jne.pfLow with
  | some p =>
    if pdLive s 44 && jneState s = 4 && !s.sem.pfail && !s.jne.shut && p + 3000000 ≤ s.port then
      let t := ownRecord (ownRecord s 0x12 [1, s.jne.pfAt.toNat]) 0x12 [2, (btime s).toNat]
      ok (jneEnter (onJne t (fun j => { j with pfLow := none })) 3)
    else ok s
  | none => ok s

/-! Storage queues (R334, R361, R375). -/

/-- Read the next completion entry of unit m; once more where the entry is being read, since the host may have written it
after that (R334). -/
def mqAsk (s : State) (m : Nat) : State :=
  let r := mqRing s m
  if jneState s = 0 || !mqOn s m then s
  else if r.asked then setMqRing s m { r with again := true }
  else hmpReq (setMqRing s m { r with asked := true }) (.unit 20 m) false (rf s (jneMqcq m) jneMqcqADDR + 2 * r.comp) 2 []
    false true

/-- MQHEAD_WRITE (R334). -/
def execMqheadWrite (m : Fin 16) (s : State) : Out :=
  if pdOn s 44 then ok (respond (mqAsk s m.val) 0) else ok (respond s 3)

/-- MQ_POLL (R334): every 100 µs. -/
def execMqPoll (s : State) : Out :=
  onlyIf (pdOn s 44 && s.running && s.jne.polled + 30000 ≤ s.port) s
    (forN 16 (onJne s (fun j => { j with polled := s.port })) mqAsk)

/-- The result of an INFO (R361). -/
def infoResult (s : State) (m page : Nat) (v : Word) : State :=
  if page = 0 then
    let cap := match s.jne.sb.units.find? (fun u => u.m == m) with
      | some u => u.cap
      | none => 0
    if cap = 0 then wf s (jneMwear m) jneMwearCAP (min (v.toNat % 2 ^ 36 / 4096) (2 ^ 20)) else s
  else
    let life := (⟨47, 40⟩ : Fld).get v
    let t := wf (wf s (jneMwear m) jneMwearLIFE life) (jneMwear m) jneMwearSPARE ((⟨39, 32⟩ : Fld).get v)
    if rf t jnePlccfg jnePlccfgWEARTHR ≤ life then wb t jneDrysts jneDrystsWEARHI true else t

/-- An activity's step belongs to a batch, to a reclaim. -/
def batchOp : JOp → Bool
  | .act .place => true
  | .act .batch => true
  | .act .batchPart => true
  | .act (.batchWrote _) => true
  | _ => false
def carryOp : JOp → Bool
  | .act (.srcNext _) => true
  | .act .carryWrote => true
  | .act .reclaim => true
  | _ => false

/-- A WRITE or TRIM has failed (R375): the unit serves only READs, its open segments are sealed at their
published cursors, and the batch or carry is begun again. -/
def mediumFail (s : State) (m status op page : Nat) : State :=
  let t := mediumErr (wb s (jneMwear m) jneMwearMERR true) m status op page
  let t := onJne t (fun j => { j with readmit := j.readmit.filter (fun x => x != m) })
  let seals := (t.jne.sb.opens.filter (fun x => x.unit == m)).map (fun x => JOp.act (.seal x.o x.cur))
  let old := t.jne.script
  if dryRuns t then
    pushOps (endScript t) (seals ++ (if old.any carryOp then [JOp.act .reclaim] else []) ++
      (if old.any batchOp then [JOp.act .batch] else []))
  else t

/-- A completion entry is consumed. -/
def mqConsumed (s : State) (m : Nat) (w0 v : Word) : State :=
  let tag := w0.toNat % 2 ^ 16
  let st := (⟨39, 32⟩ : Fld).get w0
  let t := if st = 0 then s else
    wf (wf (wb s jneSts jneStsMQERR true) (jneMqcfg m) jneMqcfgESTS st) (jneMqcfg m) jneMqcfgETAG tag
  match s.jne.subs.find? (fun x => x.m == m && x.tag == tag) with
  | none => t
  | some x =>
    let t := mqSync (onJne t (fun j => { j with subs := j.subs.erase x, mqSt := st, mqVal := v })) m
    if x.op = 4 then (if st = 0 then infoResult t m x.page v else t)
    else if st ≠ 0 && x.op ≠ 1 then mediumFail t m st x.op x.page
    else t

/-- MQ_COMPLETION (R334): the entry read from unit m's completion ring. It is consumed if its PHASE is the
one expected, and the next one is read. -/
def execMqCompletion (m : Fin 16) (s : State) : Out :=
  match hmpTake s (fun h => h == HmpUse.unit 20 m.val) with
  | none => ok s
  | some (x, t) =>
    let r := mqRing t m.val
    let t := setMqRing t m.val { r with asked := false, again := false }
    if x.code ≠ 0 || bitOf (x.word 0) 47 != r.phase then ok (if r.again then mqAsk t m.val else t)
    else
      let last := r.comp + 1 = mqEntries t m.val
      let t := setMqRing t m.val { r with
        asked := false, again := false, comp := if last then 0 else r.comp + 1, phase := if last then !r.phase else r.phase }
      ok (mqAsk (jneRun 64 (mqConsumed t m.val (x.word 0) (x.word 1))) m.val)

/-- MERR_READMIT (R375): the bit clears, the unit is eligible again from the next batch. -/
def merrWrite (s : State) (m : Nat) (v : Word) : State :=
  if jneMwearMERR.get v = 1 && rb s (jneMwear m) jneMwearMERR then
    onJne (clearBit s (jneMwear m) jneMwearMERR) (fun j => { j with readmit := m :: j.readmit.filter (fun x => x != m) })
  else s

/-- MERR_READMIT (R375). -/
def execMerrReadmit (m : Fin 16) (s : State) : Out :=
  if pdOn s 44 then ok (respond (merrWrite s m.val (maskOf 31 31)) 0) else ok (respond s 3)

/-- INFO_POLL (R361): every INFOPER seconds. -/
def execInfoPoll (s : State) : Out :=
  let p := rf s jnePlccfg jnePlccfgINFOPER
  onlyIf (pdOn s 44 && s.running && infoRuns s && p != 0 && s.jne.infoAt + p * 300000000 ≤ s.port) s
    (jneRun 64 (onJne s (fun j => { j with
      infoAt := s.port, infoq := j.infoq ++ ((List.range 16).filter (mqOn s)).map (fun m => (m, 1)) })))

/-! Drydown (R364, R369, R371, R374). -/

/-- DRYDOWN_BATCH (R364): drydown's next activity: segments left open on failed units are sealed, a slot
is freed where slots are short, and a batch is formed when one is due. -/
def execDrydownBatch (s : State) : Out :=
  if dryRuns s && s.jne.script.isEmpty && s.jne.bursts.all (fun b => !b.own) then
    let seals := (s.jne.sb.opens.filter (fun x => mqFailed s x.unit)).map (fun x => JOp.act (.seal x.o x.cur))
    let re := if shortOfSlots s && canFree s || (shortOfSlots s &&
      (unknownTail s).isSome) then [JOp.act .reclaim] else []
    let bat := if batchDue s then [JOp.act .place, .act .batch] else []
    ok (jneRun 64 (pushOps (onJne s (fun j => { j with bRecs := [] })) (seals ++ re ++ bat)))
  else ok s

/-! Segment commands (R372). -/

/-- A write of JNE_SEGCMD: ignored while BUSY. No segment is live while the journal is not open. -/
def segcmdWrite (s : State) (q : Req) (v : Word) : State :=
  let op := jneSegcmdOP.get v
  let may := holdsType s q otJournal
  let code := if may then 0 else 2
  if rb s jneSegcmd jneSegcmdBUSY then respond s code
  else
    let t := wf s jneSegcmd jneSegcmdSEQ (jneSegcmdSEQ.get v)
    if !may || (op ≠ 1 && op ≠ 2) then respond t code
    else if jneState t ≠ 3 && jneState t ≠ 4 then respond (wf t jneSegcmd jneSegcmdSTATUS 1) code
    else respond (jneRun 64 (onJne (wb t jneSegcmd jneSegcmdBUSY true) (fun j => { j with cmd := op }))) code

/-- SEG_PIN (R372). -/
def execSegPin (q : Req) (seq : BitVec 36) (s : State) : Out :=
  if pdOn s 44 then ok (segcmdWrite s q (BitVec.ofNat 48 (2 ^ 46 + seq.toNat))) else ok (respond s 3)

/-- SEG_UNPIN (R372). -/
def execSegUnpin (q : Req) (seq : BitVec 36) (s : State) : Out :=
  if pdOn s 44 then ok (segcmdWrite s q (BitVec.ofNat 48 (2 * 2 ^ 46 + seq.toNat))) else ok (respond s 3)

/-! Configuration writes (R356, R380). -/

/-- A write of JNE_HEAD or JNE_HLOG: discarded with CFGV while EN is 1. -/
def jneLayoutWrite (s : State) (q : Req) (a : Nat) (v : Word) : State :=
  if !holdsType s q otJournal then respond s 2
  else if rb s jneCtrl jneCtrlEN then respond (wb s jneSts jneStsCFGV true) 0
  else respond (regPut s a true v) 0

/-- A write of JNE_MQCFG[m]: QS is discarded with CFGV while EN is 1; a QS that is not 4 to 12 leaves the
unit's EN at 0. -/
def mqcfgWrite (s : State) (q : Req) (m : Nat) (v : Word) : State :=
  if !holdsType s q otJournal then respond s 2
  else
    let qs := jneMqcfgQS.get v
    let t := if rb s jneCtrl jneCtrlEN then wb s jneSts jneStsCFGV true else wf s (jneMqcfg m) jneMqcfgQS qs
    let now := rf t (jneMqcfg m) jneMqcfgQS
    respond (wb t (jneMqcfg m) jneMqcfgEN (jneMqcfgEN.get v == 1 && 4 ≤ now && now ≤ 12)) 0

/-- A write of the placement window (R82): values above 16 act as 16. -/
def plcwinWrite (s : State) (q : Req) (v : Word) : State :=
  if !holdsType s q otJournal then respond s 2
  else
    let mn := min 16 (jnePlcwinNMIN.get v)
    let mx := min 16 (jnePlcwinNMAX.get v)
    let w := effWindow mn mx s.par.plc
    let t := wf (wf s jnePlcwin jnePlcwinNMIN mn) jnePlcwin jnePlcwinNMAX mx
    let t := wf (wf t jnePlcwin jnePlcwinELO w.1) jnePlcwin jnePlcwinEHI w.2
    respond (if mn < s.par.plc || mx < s.par.plc then wb t jnePlcsts jnePlcstsWINDOWCLIPPED true else t) 0

/-- POLICY_WINDOW_WRITE (R82): the window of slot i's dead time, of phase group i mod 4, or of the
placement. -/
def execPolicyWindowWrite (q : Req) (k : Fin 3) (i : Fin 128) (v : Word) (s : State) : Out :=
  match k.val with
  | 0 =>
    if !pdOn s (18 + engOf i.val) then ok (respond s 3)
    else if holdsType s q otAccord then ok (respond (adtWindowWrite s i.val v) 0)
    else ok (respond s 2)
  | 1 =>
    if !pdOn s 18 then ok (respond s 3)
    else if holdsType s q otAccord then ok (respond (phsWindowWrite s (i.val % 4) v) 0)
    else ok (respond s 2)
  | _ => if pdOn s 44 then ok (plcwinWrite s q v) else ok (respond s 3)

/-! Time, and loss of the domain (R351, R356). -/

/-- Admission opens again where the drain has not taken the journal. -/
def jneReopen (s : State) : State :=
  let t := onJne s (fun j => { j with shut := false })
  if jneState s = 4 && !s.sem.pfail && s.jne.pfLow.isNone then jneEnter t 3 else t

/-- What the JNE does by itself in a PORT cycle. -/
def jneTick (s : State) : State :=
  let s := if s.jne.shut && pdOn s 44 && pdOn s 54 then jneReopen s else s
  if (pdOn s 44 || uHeld s) && s.running then jneRun 16 s else s

/-- Admission closes for a reset or a drain of the domain, as under RN_PFAIL (R351; DEDUCED, log entry 195). -/
def jneShut (s : State) : State := jneCloseNow (onJne s (fun j => { j with shut := true }))

/-- The JNE's WAKE reset. -/
def jneLost (s : State) : State :=
  let t := jneGoOff s
  onJne t (fun j => { Jne.zero with dir := j.dir, seals := j.seals, scanned := j.scanned, pfAt := j.pfAt, pfLow := j.pfLow, cptDone := j.cptDone })

end Sys2Proof.Machine
end

