-- ==== Sys2Proof/Machine/MlkRole.lean ====
section
/-! DEFINITION. The pair role logic: evidence, transitions, entry to and leaving ACTIVE, the mirror state
and the request for drive (R353, R425 to R430, R438, R440, R441, R445, R446), and the writes of the
mirror link's control registers (R443, R449). -/

namespace Sys2Proof.Machine

/-- The system type of the mirror link (R234). -/
def otMirror : Nat := 10

/-- Change the mirror link's state. -/
def onMlk (s : State) (f : Mlk → Mlk) : State := { s with mlk := f s.mlk }

/-- The role (R425). -/
def roleOf (s : State) : Nat := rf s mlkRole mlkRoleROLE

/-- Mirror interval (R427). -/
def mivl (s : State) : Nat := max 1 (rf s mlkCtrl mlkCtrlMIVL)

/-! Evidence (R427, R434, R435, R445). -/

/-- A field of the partner's latest compatible heartbeat. -/
def hbField (s : State) (i : Nat) (f : Fld) : Nat := f.get (s.mlk.hb.getD i 0)

def evHB (s : State) : Bool := match s.mlk.hbAge with
  | some a => decide (a < 3)
  | none => false
def evPR (s : State) : Nat := hbField s 0 ⟨47, 45⟩
def evMS (s : State) : Bool := 3 ≤ rf s mlkRole mlkRoleMSIL
def evPS (s : State) : Bool := rb s rlkSts rlkStsPEERSILENT
def evPH (s : State) : Bool := rf s rlkAuth rlkAuthNCFG < 2 * s.rlk.partner
def evQU (s : State) : Bool := rb s rlkSts rlkStsQUORUM
def evELG (s : State) : Bool :=
  rf s mlkGen mlkGenCURGEN != 0 && rb s mlkGen mlkGenCURELIG && !rb s mlkGen mlkGenINSTALLING

/-- The role logic runs: not the condition of OFF (R425). -/
def roleRuns (s : State) : Bool := pdOn s 47 && pdOn s 48 && rb s mlkCtrl mlkCtrlEN && rb s rlkCtrl rlkCtrlEN

/-! The mirror state (R353, R440, R441). -/

/-- The mirror is LIVE or not. -/
def setLive (s : State) (b : Bool) : State :=
  wb (wb (onJne s (fun j => { j with live := b })) jneSts jneStsMIRLIVE b) mlkRole mlkRoleLIVE b

/-- A resynchronisation ends or is given up. -/
def resyncOff (s : State) : State :=
  onJne (onMlk (wb s mlkRole mlkRoleRESYNC false) (fun m => { m with words := [] })) (fun j => { j with keep := none })

/-- The mirror becomes STALE (R353): MIRROR_STALE carries the lowest CSN the partner did not acknowledge, by the end of
the SLOW cycle; reports not yet forwarded stay here (R442). -/
def mirrorStale (s : State) : State :=
  let t := onMlk (resyncOff s) (fun m => { m with fwd := [] })
  if s.jne.live then
    onJne (ownRecord (wb (setLive t false) jneSts jneStsDEGRADED true) 0x13 [s.mlk.ackd + 1])
      (fun j => { j with staleAt := s.port / 4 + 1 })
  else t

/-- The conditions of LIVE that do not depend on a resynchronisation (R440). -/
def mirrorHolds (s : State) : Bool :=
  roleOf s == 5 && evHB s && evPR s == 2 && hbField s 0 ⟨42, 42⟩ == 0

/-- The CRC field of the last record of commit n, if the JNE still has it. -/
def crcOf (s : State) (n : Nat) : Option Nat :=
  match s.jne.log.find? (fun c => c.csn == n) with
  | some c => some (((c.words.getLastD []).getLastD 0).toNat % 2 ^ 32)
  | none => if s.jne.dryCsn = n then some s.jne.dryCrc else none

/-- The ring still holds every commit above n. -/
def holdsAbove (s : State) (n : Nat) : Bool :=
  n + 1 == rf s jneNextcsn jneNextcsnCSN || s.jne.log.any (fun c => c.csn == n + 1)

/-- Bring the standby up to date (R441): a catch-up where the ring allows it, else a full resynchronisation. One that did
not end starts again from step 1. -/
def startResync (s : State) : State :=
  let hcsn := hbField s 4 ⟨47, 0⟩
  let catchUp := !s.mlk.full && rf s mlkRole mlkRolePV == 3 && holdsAbove s hcsn && crcOf s hcsn == some (hbField s 5 ⟨31, 0⟩)
  let c0 := if catchUp then hcsn else s.jne.sb.applied
  let t := inc (wf (wb s mlkRole mlkRoleRESYNC true) mlkJsync mlkJsyncCSN c0) mlkCnt mlkCntRSYNCS
  let t := onJne t (fun j => { j with keep := some c0 })
  onMlk t (fun m => { m with
    next := c0 + 1, mark := rf s jneNextcsn jneNextcsnCSN, ackd := c0, full := !catchUp, begun := catchUp, page := 0,
    done := catchUp, sentAt := [], words := [], rsAt := m.iseq })

/-- The mirror state at an evaluation: STALE when a condition of R440 fails; a resynchronisation begins
when the standby can take it. -/
def mirrorEval (s : State) : State :=
  if !mirrorHolds s && s.jne.live then mirrorStale s
  else if roleOf s ≠ 5 then s
  else if !evHB s || evPR s ≠ 2 then (if rb s mlkRole mlkRoleRESYNC then resyncOff s else s)
  else if !s.jne.live && !rb s mlkRole mlkRoleRESYNC && jneState s = 3 then startResync s
  else s

/-- The mirror becomes LIVE once the standby has acknowledged every commit below the first one admitted after sending
began (R441) and the conditions of R440 hold: MIRROR_RESYNC. -/
def mirrorLive (s : State) : State :=
  if rb s mlkRole mlkRoleRESYNC && s.mlk.done && s.mlk.mark ≤ s.mlk.ackd + 1 && mirrorHolds s then
    ownRecord (setLive (onMlk (resyncOff s) (fun m => { m with full := false })) true) 0x14 [s.mlk.mark]
  else s

/-! RLK_EPOCH (R417, R429). -/

/-- Write RLK_EPOCH; a cycle that starts in this PORT cycle still uses the old value (R417). While no cycles run, HOLD 0
empties the send table at once (R412). -/
def epochWrite (s : State) (e : Nat) (claim hold : Bool) : State :=
  let t := if s.rlk.epAt = s.port + 1 then s
    else { s with rlk := { s.rlk with epAt := s.port + 1, epOld := rd s rlkEpoch } }
  let t := wf (wb (wb t rlkEpoch rlkEpochCLAIM claim) rlkEpoch rlkEpochHOLD hold) rlkEpoch rlkEpochEPOCH e
  if hold || rb s rlkCtrl rlkCtrlEN then t else setSend t []

/-- The epoch of a claim (R429). -/
def claimEpoch (s : State) : Nat := max (rf s rlkMaxep rlkMaxepMAXSEEN) (rf s rlkEpoch rlkEpochEPOCH) + 1

/-! Roles (R426, R428 to R430, R438). -/

/-- Slot n's image-buffer record as a pending image of ns state words (R437). -/
def bufImage (s : State) (n ns : Nat) : RxImg :=
  let a := rf s mlkIbuf mlkIbufVALUE + 64 * n
  { s := ownWords s a ns, y := ownWords s (a + 32) 8, lastX := ownWord s (a + 40), lastT := ownWord s (a + 41),
    sstat := ownWord s (a + 42), seq := ownWord s (a + 43) }

/-- Replace slot n's pending image. -/
def setRxImg (s : State) (n : Nat) (r : RxImg) : State :=
  { s with ae := { s.ae with rxImg := s.ae.rxImg.filter (fun p => p.1 != n) ++ [(n, r)] } }

/-- Entry to ACTIVE (R430); the role is already shown. The drive request follows a PORT cycle later
(R446). -/
def enterActive (s : State) : State :=
  let t := epochWrite s (rf s rlkEpoch rlkEpochEPOCH) false true
  let t := (List.range 128).foldl (fun t n =>
    if slotLive t n then
      let u := horeqWrite t n
      match t.mlk.got.find? (fun p => p.1 == n) with
      | some (_, ns) => setRxImg u n (bufImage u n ns)
      | none => u
    else t) t
  pneEnterActive (onMlk t (fun m => { m with quEnd := evQU s }))

/-- Leaving ACTIVE (R426, R430): the drive request falls at once. -/
def leaveActive (s : State) : State :=
  let t := driveSync { s with drvWant := false }
  let t := epochWrite t (rf t rlkEpoch rlkEpochEPOCH) (rb t rlkEpoch rlkEpochCLAIM) false
  let t := wacLeaveActive (pneLeaveActive t)
  let t := forN 128 t (fun t n => dmSuspendAll t 1 n)
  let t := forN 8 t (fun t c => dmSuspendAll t 2 c)
  wb (onMlk (mirrorStale t) (fun m => { m with full := false, bcWords := [] })) mlkBccmd mlkBccmdBUSY false

/-- Enter a role (R427, R428): ROLE fires, ROLE_CHG is set and the change reaches the command port. A
generation that is being received is discarded (R444). -/
def enterRole (s : State) (new : Nat) : State :=
  let old := roleOf s
  let t := if old = 5 then leaveActive s else s
  let t := wf t mlkRole mlkRoleROLE new
  let t := if new = 2 || new = 3 || new = 6 then wb t mlkCtrl mlkCtrlARMED false else t
  let t := wb t mlkRole mlkRoleCOPYRX false
  let t := onMlk t (fun m => { m with ends := 0, quEnd := false, armedSince := false, rxGen := 0, rxOff := 0 })
  let t := wb (semFire t 0x004) mlkSts mlkStsROLECHG true
  let t := if new = 5 then enterActive t else t
  raiseEv t 0x04 [BitVec.ofNat 48 (old + 8 * new), rd t rlkEpoch]

/-- Entry to CLAIMING with its epoch (R429); with none left the role stays. -/
def enterClaiming (s : State) : State :=
  let e := claimEpoch s
  if 2 ^ 32 ≤ e then wb s mlkSts mlkStsCLAIMFAIL true
  else epochWrite (enterRole s 4) e true false

/-- Leaving CLAIMING for SEEKING (R428, R429). -/
def claimFailed (s : State) : State :=
  let t := enterRole s 1
  wb (epochWrite t (rf t rlkEpoch rlkEpochEPOCH) false (rb t rlkEpoch rlkEpochHOLD)) mlkSts mlkStsCLAIMFAIL true

/-- One evaluation of R428 from a role other than OFF; `ce`: at a cycle end. -/
def roleStep (s : State) (ce : Bool) : State :=
  let c3 := 3 ≤ s.mlk.ends
  let flag := fun (t : State) (f : Fld) => wb t mlkSts f true
  let armed := rb s mlkCtrl mlkCtrlARMED
  match roleOf s with
  | 1 =>
    if c3 && evHB s && (evPR s = 5 || evPH s) then enterRole s 2
    else if c3 && evPH s then flag (enterRole s 3) mlkStsMIRRORLINKLOST
    else if c3 && armed && !evPH s &&
        ((rf s rlkCtrl rlkCtrlSIDE = 0 && ((evHB s && evPR s = 1) || evMS s)) || (evMS s && evPS s)) then enterClaiming s
    else s
  | 2 =>
    if evMS s && evPS s && evELG s then
      (if s.mlk.behind then flag (enterClaiming s) mlkStsCONFIGBEHIND else enterClaiming s)
    else if evMS s && evPS s then flag (enterRole s 6) mlkStsUNSYNCED
    else if evMS s then flag (enterRole s 3) mlkStsMIRRORLINKLOST
    else if evHB s && evPR s ≠ 5 && evPR s ≠ 4 && !evPH s then enterRole s 1
    else s
  | 3 =>
    if evMS s && evPS s && evELG s then
      (if s.mlk.behind then flag (enterClaiming s) mlkStsCONFIGBEHIND else enterClaiming s)
    else if evMS s && evPS s then flag (enterRole s 6) mlkStsUNSYNCED
    else if evHB s then enterRole s 2
    else s
  | 6 =>
    if evHB s then enterRole s 2
    else if evPH s then enterRole s 3
    else if s.mlk.armedSince && evMS s && evPS s then enterClaiming s
    else s
  | 4 =>
    if ce && evQU s then flag (enterRole s 5) mlkStsTAKEOVER
    else if evPH s || (evHB s && evPR s = 5) || 8 ≤ s.mlk.ends then claimFailed s
    else s
  | 5 =>
    if evPH s || (evHB s && evPR s = 5 && rf s rlkEpoch rlkEpochEPOCH < hbField s 1 ⟨31, 0⟩) then
      flag (enterRole s 1) mlkStsFENCED
    else s
  | _ => s

/-- The role becomes OFF (R425, R429); a claim ends with it. -/
def roleOff (s : State) : State :=
  if roleOf s = 0 then s
  else
    let t := enterRole s 0
    if roleOf s = 4 then epochWrite t (rf t rlkEpoch rlkEpochEPOCH) false false else t

/-- MS as it first holds (R445). -/
def msNote (s : State) : State :=
  let ms := evMS s
  onMlk s (fun m => { m with msHeld := ms, behind := ms && (if m.msHeld then m.behind else m.rxGen != 0) })

/-- ROLE_EVALUATION (R427, R428), with the mirror state (R440); `ce`: at a cycle end. -/
def roleEval (s : State) (ce : Bool) : State :=
  if !roleRuns s then roleOff s
  else
    let t := wb (msNote (onMlk s (fun m => { m with evalAt := s.port + 1 }))) mlkRole mlkRoleHB (evHB s)
    let t := if roleOf t = 0 then enterRole t 1 else roleStep t ce
    mirrorEval t

/-- A cycle end is counted for the role, with QU (R427, R446). -/
def roleCycle (s : State) : State :=
  onMlk s (fun m => { m with ends := m.ends + 1, quEnd := m.quEnd || (roleOf s == 5 && evQU s) })

/-- The drive request follows the role (R446); a debug halt or stopped clocks need a new cycle end. -/
def drvFollow (s : State) : State :=
  let want := roleOf s == 5 && s.mlk.quEnd
  if s.drvWant = want then s else driveSync { s with drvWant := want }

/-! Register writes (R443, R449). -/

/-- Blocks that a frame of w words takes (R401). -/
def frameBlocks (w : Nat) : Nat := 2 + (6 * (w - 1) + 7) / 8

/-- State words mirrored of slot n (R436). -/
def slotNs (s : State) (n : Nat) : Nat := min 32 (rf s (mlkSlotsel n) mlkSlotselNS)

/-- The checks of EN (R449). -/
def mlkEnOk (s : State) (mi : Nat) : Bool :=
  let body := ((List.range 128).filter (fun n => rb s (mlkSlotsel n) mlkSlotselEN)).foldl (fun k n => k + slotNs s n + 13) 0
  600 ≤ mi && mi ≤ 30000 && 2 * (8 + frameBlocks (body + 2)) + 64 ≤ mi

/-- A write of MLK_CTRL (R428, R449). -/
def mlkCtrlWrite (s : State) (q : Req) (v : Word) : State :=
  if !holdsType s q otMirror then respond s 2
  else
    let was := rb s mlkCtrl mlkCtrlEN
    let mi := mlkCtrlMIVL.get v
    let t := wf s mlkCtrl mlkCtrlACKTO (mlkCtrlACKTO.get v)
    let arm := mlkCtrlARMED.get v == 1
    let t := wb t mlkCtrl mlkCtrlARMED arm
    let t := if arm then onMlk t (fun m => { m with armedSince := true }) else t
    let t := if was then (if mi = rf s mlkCtrl mlkCtrlMIVL then t else wb t mlkSts mlkStsCFGV true)
      else wf t mlkCtrl mlkCtrlMIVL mi
    respond (if mlkCtrlEN.get v = 0 then
        let u := wb t mlkCtrl mlkCtrlEN false
        if roleRuns u then u else roleOff u
      else if was then t
      else if mlkEnOk t mi then wb t mlkCtrl mlkCtrlEN true
      else wb t mlkSts mlkStsCFGERR true) 0

/-- A write of MLK_SLOTSEL, MLK_IBUF, MLK_BCBUF or MLK_BCHALF: discarded with CFGV while EN is 1. -/
def mlkLayoutWrite (s : State) (q : Req) (a : Nat) (v : Word) : State :=
  if !holdsType s q otMirror then respond s 2
  else if rb s mlkCtrl mlkCtrlEN then respond (wb s mlkSts mlkStsCFGV true) 0
  else respond (regPut s a true v) 0

/-- Enabled entries of the copy table: word 0 and word 1 (R443). -/
def bcTable (s : State) : List (Word × Word) :=
  ((List.range 64).map (fun e => (rd s (mlkBctbl0 e), rd s (mlkBctbl1 e)))).filter (fun p => mlkBctbl0EN.get p.1 == 1)

/-- Words of a copy-table entry. -/
def entLen (p : Word × Word) : Nat := mlkBctbl0LENM1.get p.1 + 1

/-- A generation starts (R443), or is refused with BCERR. -/
def bcStart (s : State) (elig : Bool) : State :=
  let t := wb s mlkBccmd mlkBccmdBUSY false
  let total := (bcTable t).foldl (fun k p => k + entLen p) 0
  if rf t mlkBchalf mlkBchalfVALUE < total || roleOf t ≠ 5 || !evHB t then wb t mlkSts mlkStsBCERR true
  else
    let gen := max (max (rf t mlkBccmd mlkBccmdGEN) (rf t mlkGen mlkGenCURGEN)) (hbField t 3 ⟨31, 0⟩) + 1
    let t := wf (wb t mlkBccmd mlkBccmdBUSY true) mlkBccmd mlkBccmdGEN gen
    onMlk t (fun m => { m with bcEnt := 0, bcWord := 0, bcOff := 0, bcCrc := 0xFFFFFFFF, bcElig := elig, bcWords := [] })

/-- A write of MLK_BCCMD (R443). -/
def bccmdWrite (s : State) (q : Req) (v : Word) : State :=
  let op := mlkBccmdOP.get v
  let may := holdsType s q otMirror
  let elig := mlkBccmdELIG.get v == 1
  let t := wb s mlkBccmd mlkBccmdELIG elig
  if !may then respond t 2
  else respond (if op = 1 then bcStart t elig
    else if op = 2 then onMlk (wb t mlkBccmd mlkBccmdBUSY false) (fun m => { m with bcWords := [] })
    else t) 0

end Sys2Proof.Machine
end

