-- ==== Sys2Proof/Machine/Rlk.lean ====
section
/-! DEFINITION. The rack link: rings, frames, cycles, uplink items, liveness and quorum (R397 to R424). -/

namespace Sys2Proof.Machine

/-- The system type of the rack link (R234). -/
def otRack : Nat := 11

/-- Change the rack link's state. -/
def onRlk (s : State) (f : Rlk → Rlk) : State := { s with rlk := f s.rlk }

/-! Configuration (R397, R402, R408, R424). -/

def rlkPer (s : State) : Nat := max 600 (min 300000 (rf s rlkCtrl rlkCtrlPER))
def ringNpos (s : State) (k : Nat) : Nat := rf s (rlkRing k) rlkRingNPOSM1 + 1
def ringDw (s : State) (k : Nat) : Nat := rf s (rlkRing k) rlkRingDW
def ringUw (s : State) (k : Nat) : Nat := rf s (rlkRing k) rlkRingUW

/-- Words of a ring's frame (R401). -/
def ringW (s : State) (k : Nat) : Nat := 4 + ringNpos s k * (ringDw s k + ringUw s k)

/-- Units placed by an enabled entry (R397). -/
def placed (s : State) : List Nat := ((List.range 1024).drop 1).filter (fun u => rb s (rlkUmap u) rlkUmapEN)

/-- The unit placed at a position of a ring; 0 if none. -/
def unitAt (s : State) (k pos : Nat) : Nat :=
  ((placed s).find? (fun u => rf s (rlkUmap u) rlkUmapRING == k && rf s (rlkUmap u) rlkUmapPOS == pos)).getD 0

/-- QUORUM follows ACC and NCFG (R420). -/
def quorumSync (s : State) : State :=
  wb s rlkSts rlkStsQUORUM (rf s rlkAuth rlkAuthNCFG != 0 && rf s rlkAuth rlkAuthNCFG < 2 * rf s rlkAuth rlkAuthACC)

/-- NCFG is shown (R397, R424), and QUORUM with it (R420). -/
def ncfgSync (s : State) : State := quorumSync (wf s rlkAuth rlkAuthNCFG (placed s).length)

/-- The checks of EN of ring k (R408). -/
def ringOk (s : State) (k : Nat) : Bool :=
  let us := (placed s).filter (fun u => rf s (rlkUmap u) rlkUmapRING == k)
  let ps := us.map (fun u => rf s (rlkUmap u) rlkUmapPOS)
  3 ≤ ringDw s k && ringDw s k ≤ 64 && 6 ≤ ringUw s k && ringUw s k ≤ 64 && ps.all (fun p => p < ringNpos s k) &&
    ps.eraseDups.length == ps.length && 2 * frameBlocks (ringW s k) + 32 ≤ rlkPer s

/-- A write of RLK_CTRL (R407, R420, R424). With EN 0 the role is OFF at once (R425), and RLK_EPOCH as it stands is in
effect (log entry 204). -/
def rlkCtrlWrite (s : State) (q : Req) (v : Word) : State :=
  if !holdsType s q otRack then respond s 2
  else
    let en := rlkCtrlEN.get v == 1
    let keep := rlkCtrlEN.put (rd s rlkCtrl) (b2n en)
    let t := if rb s rlkCtrl rlkCtrlEN then
        (if rlkCtrlEN.put v 0 &&& ~~~ maskOf 33 19 = rlkCtrlEN.put (rd s rlkCtrl) 0 then wr s rlkCtrl keep
        else wb (wr s rlkCtrl keep) rlkSts rlkStsCFGV true)
      else regPut s rlkCtrl true v
    let t := if en then wf t rlkMaxep rlkMaxepMAXSEEN 0 else t
    let t := if en && !rb s rlkCtrl rlkCtrlEN then onRlk t (fun r => { r with lat := rd s rlkEpoch }) else t
    let t := if roleRuns t || !pdOn t 47 then t else roleOff t
    respond (if en || rb t rlkEpoch rlkEpochHOLD then t else setSend t []) 0

/-- RLK_ENABLE (R407). -/
def execRlkEnable (q : Req) (v : Word) (s : State) : Out :=
  if pdOn s 48 then ok (rlkCtrlWrite s q v) else ok (respond s 3)

/-- A write of RLK_PHASE or RLK_TBL: discarded with CFGV while EN is 1 (R424). -/
def rlkCfgWrite (s : State) (q : Req) (a : Nat) (v : Word) : State :=
  if !holdsType s q otRack then respond s 2
  else if rb s rlkCtrl rlkCtrlEN then respond (wb s rlkSts rlkStsCFGV true) 0
  else respond (regPut s a true v) 0

/-- A write of RLK_RING[k] (R397, R408): every write of an enabled ring is discarded. -/
def ringWrite2 (s : State) (q : Req) (k : Nat) (v : Word) : State :=
  if !holdsType s q otRack then respond s 2
  else
    let en := rlkRingEN.get v == 1
    if rb s (rlkRing k) rlkRingEN then respond (wb s rlkSts rlkStsCFGV true) 0
    else
      let t := regPut s (rlkRing k) true (rlkRingEN.put v 0)
      respond (if !en then t
        else if ringOk t k then wb t (rlkRing k) rlkRingEN true
        else wb t rlkSts rlkStsCFGERR true) 0

/-- RING_ENABLE (R408). -/
def execRingEnable (q : Req) (k : Fin 4) (v : Word) (s : State) : Out :=
  if pdOn s 48 then ok (ringWrite2 s q k.val (rlkRingEN.put v 1)) else ok (respond s 3)

/-- A write of RLK_UMAP[u] (R397): discarded with CFGV where the unit's ring, old or new, is enabled. -/
def umapWrite (s : State) (q : Req) (u : Nat) (v : Word) : State :=
  if !holdsType s q otRack then respond s 2
  else if u = 0 then respond s 0
  else
    let old := rb s (rlkUmap u) rlkUmapEN && rb s (rlkRing (rf s (rlkUmap u) rlkUmapRING)) rlkRingEN
    let new := rlkUmapEN.get v == 1 && rb s (rlkRing (rlkUmapRING.get v)) rlkRingEN
    if old || new then respond (wb s rlkSts rlkStsCFGV true) 0
    else respond (ncfgSync (regPut s (rlkUmap u) true v)) 0

/-! Frames (R401 to R406). -/

/-- Words 0 to 3 of a frame (R402). -/
def frameHeader (s : State) (k : Nat) (stamp : Word) : List Word :=
  let w0 := 0xA7 * 2 ^ 40 + 2 ^ 36 + rf s rlkCtrl rlkCtrlSIDE * 2 ^ 35 + k * 2 ^ 33 + (ringNpos s k - 1) * 2 ^ 25 +
    ringDw s k * 2 ^ 18 + ringUw s k * 2 ^ 11
  sealed stamp.toNat [BitVec.ofNat 48 w0, stamp,
    BitVec.ofNat 48 (max 1 (rf s rlkCtrl rlkCtrlLIMPN) * 2 ^ 19 + rlkPer s)]

/-- An item (R405). -/
def itemWords (op tag qual lidx : Nat) (v : Word) : List Word :=
  [BitVec.ofNat 48 (op * 2 ^ 44 + tag * 2 ^ 28 + qual * 2 ^ 24 + lidx), v]

/-- The entries that unit u's downlink slot carries: retransmissions first, then new ones, up to its
capacity (R412). -/
def slotEntries (s : State) (k u : Nat) : List SendEnt :=
  if (rlkEpochHOLD.get s.rlk.lat) = 0 || u = 0 then []
  else
    let q := s.rlk.send.filter (fun e => e.unit == u && e.sent.isNone)
    (q.filter (fun e => e.retx) ++ q.filter (fun e => !e.retx)).take ((ringDw s k - 3) / 2)

/-- A downlink slot (R403, R406) with its items. -/
def downSlot (s : State) (k u : Nat) (stamp : Word) (es : List SendEnt) : List Word :=
  let w0 := u * 2 ^ 37 + rlkEpochCLAIM.get s.rlk.lat * 2 ^ 36 + es.length * 2 ^ 30
  let items := es.flatMap (fun e => itemWords 1 e.tag 0 e.lidx e.val)
  sealed stamp.toNat ([BitVec.ofNat 48 w0, BitVec.ofNat 48 (rlkEpochEPOCH.get s.rlk.lat)] ++ items ++
    List.replicate (ringDw s k - 3 - items.length) 0)

/-- An uplink slot as the block sends it (R404). -/
def upFill (s : State) (k u : Nat) (stamp : Word) : List Word :=
  sealed stamp.toNat (BitVec.ofNat 48 (u * 2 ^ 37) :: List.replicate (ringUw s k - 2) 0)

/-- Entries that could not be read from shared memory in time wait for the next cycle (R412). -/
def lateItems (s : State) (n : Nat) : State :=
  if n = 0 then s else inc (wb s rlkSts rlkStsITEMSHORT true) rlkCnt rlkCntITEMSHORT n

/-- Which entries of a late unit could be read all the same: the spec leaves it open. -/
def readInTime (s : State) : List SendEnt → List SendEnt × State
  | [] => ([], s)
  | e :: r =>
    let b := freshBit s
    let q := readInTime b.2 r
    (if b.1 then e :: q.1 else q.1, q.2)

/-- Ring k's frame; entries of its slots become SENT, but those not read in time, each of which waits (R412). -/
def formFrame (s : State) (k : Nat) (stamp : Word) (late : List (Fin 1024)) : State :=
  let r := (List.range (ringNpos s k)).foldl (fun (a : List Word × State) p =>
    let u := unitAt s k p
    let es := slotEntries a.2 k u
    let c := if late.any (fun x => x.val == u) then readInTime a.2 es else (es, a.2)
    let t := setSend c.2 (c.2.rlk.send.map (fun e =>
      if c.1.contains e then { e with sent := some s.rlk.cyc, retx := false } else e))
    let t := lateItems t (es.length - c.1.length)
    (a.1 ++ downSlot t k u stamp c.1 ++ upFill t k u stamp, t)) (frameHeader s k stamp, s)
  onRlk r.2 (fun x => { x with frames := x.frames ++ [(k, r.1)] })

/-- RLK_CYCLE_START (R407): at each block time t with (t - PHASE) mod PER = 0. `late`: units of whose entries shared
memory did not deliver each one in time. While HOLD is 0 the send table is empty (R412). -/
def execRlkCycleStart (late : List (Fin 1024)) (s : State) : Out :=
  let go := pdOn s 48 && s.running && rb s rlkCtrl rlkCtrlEN && s.rlk.start.isNone &&
    ((btime s).toNat + rlkPer s - rf s rlkPhase rlkPhasePHASE % rlkPer s) % rlkPer s == 0
  if !go then ok s
  else
    let lat := if s.rlk.epAt = s.port + 1 then s.rlk.epOld else rd s rlkEpoch
    let live := (List.range 4).filter (fun k => rb s (rlkRing k) rlkRingEN)
    let t := onRlk s (fun r => { r with
      cyc := r.cyc + 1, start := some s.port, lat := lat, frames := [], began := [], bad := [], counts := [], ups := [], seen := [],
      live := live, send := if rlkEpochHOLD.get lat = 0 then [] else r.send })
    ok (semFire (live.foldl (fun t k => formFrame t k (btime s) late) t) 0x002)

/-! Returning frames (R409 to R414). -/

/-- LSTAMP of the present cycle. -/
def cycStamp (s : State) : Word := BitVec.ofNat 48 (s.rlk.start.getD 0)

/-- Ring k's frame is on its way back and has not failed. -/
def frameOpen (s : State) (k : Nat) : Bool :=
  s.rlk.start.isSome && s.rlk.live.contains k && !s.rlk.bad.contains k && !s.rlk.counts.contains k

/-- Items of an uplink slot: word 0 and value. -/
def slotItems : Nat → List Word → List (Word × Word)
  | n + 1, a :: b :: r => (a, b) :: slotItems n r
  | _, _ => []

def upNitem : Fld := ⟨33, 28⟩
def itOp : Fld := ⟨47, 44⟩
def itTag : Fld := ⟨43, 28⟩
def itQual : Fld := ⟨27, 24⟩
def itLidx : Fld := ⟨14, 0⟩

/-- The slot is valid but for the frame's counting (R411). -/
def slotValid (s : State) (k u : Nat) (ws : List Word) : Bool :=
  let w0 := ws.getD 0 0
  let n := upNitem.get w0
  ws.length == ringUw s k && sealOk (cycStamp s).toNat ws && bitOf w0 47 && (⟨46, 37⟩ : Fld).get w0 == u &&
    ws.getD 3 0 == cycStamp s && n ≤ (ringUw s k - 6) / 2 &&
    (slotItems n (ws.drop 5)).all (fun i => itOp.get i.1 ≤ 4)

/-- A report enters the report queue (R414). -/
def queueReport (s : State) (r : RlkReport) : State :=
  if !rlkHolds s then s
  else if s.rlk.reps.length < 4096 then onRlk s (fun x => { x with reps := x.reps ++ [r] })
  else inc (wb s rlkSts rlkStsREPDROP true) rlkCnt rlkCntREPDROP

/-- An item of a valid slot takes effect (R405, R413, R414). -/
def itemEffect (s : State) (u : Nat) (i : Word × Word) : State :=
  let lidx := itLidx.get i.1
  let ent := s.rlk.send.find? (fun e => e.unit == u && e.lidx == lidx && e.tag == itTag.get i.1)
  match itOp.get i.1, ent with
  | 2, _ => queueReport s ⟨u * 2 ^ 15 + lidx, i.2, b2n (itQual.get i.1 != 0)⟩
  | 3, some e => if e.val = i.2 then pneEchoed (setSend s (s.rlk.send.erase e)) u lidx else s
  | 4, some e => wb (setSend s (s.rlk.send.erase e)) rlkSts rlkStsREJECT true -- no counter is given (log entry 206)
  | _, _ => s

/-- UPLINK_SLOT (R411): the uplink slot at a position of ring k has returned and its CRC word is there. -/
def execUplinkSlot (k : Fin 4) (pos : BitVec 8) (ws : List Word) (s : State) : Out :=
  let p := pos.toNat
  let u := unitAt s k.val p
  if !(pdLive s 48 && s.running && frameOpen s k.val && p < ringNpos s k.val) || s.rlk.seen.contains (k.val, p) then ok s
  else
    let t := onRlk s (fun r => { r with seen := r.seen ++ [(k.val, p)], began := k.val :: r.began })
    if u = 0 then ok t
    else if slotValid s k.val u ws then
      let w0 := ws.getD 0 0
      let up : Uplink := ⟨u, k.val, w0.toNat % 2 ^ 16, (ws.getD 1 0).toNat % 2 ^ 40, (ws.getD 2 0).toNat % 2 ^ 32,
        (⟨36, 35⟩ : Fld).get w0, bitOf w0 34, ws.getD 4 0⟩
      ok ((slotItems (upNitem.get w0) (ws.drop 5)).foldl (fun t i => itemEffect t u i)
        (onRlk t (fun r => { r with ups := r.ups ++ [up] })))
    else ok (inc (wb t rlkSts rlkStsSLOTERR true) (rlkRcnt k.val) rlkRcntSLOTERR)

/-- REPORT_HANDOFF (R414): the oldest report goes to the PNE, and to the partner while the mirror is LIVE
(R442). -/
def execReportHandoff (s : State) : Out :=
  match s.rlk.reps with
  | [] => ok s
  | r :: rest =>
    if !(pdLive s 48 && s.running) then ok s
    else
      let t := onRlk s (fun x => { x with reps := rest })
      let t := if s.jne.live then onMlk t (fun m => { m with fwd := m.fwd ++ [r] }) else t
      ok (pneSubmit t ⟨1, 0, 1, r.pnum, r.val, 0, r.qual, 2 * s.port⟩)

/-- A frame fails (R410). -/
def frameBad (s : State) (k : Nat) : State :=
  onRlk (wb s (rlkRsts k) rlkRstsFRAMEERR true) (fun r => { r with bad := k :: r.bad })

/-- FRAME_RETURN (R410): the header of ring k's frame has returned (`ends` false), or its terminate block;
`aborted`: a block of another type has come inside it (R399). -/
def execFrameReturn (k : Fin 4) (hdr : List Word) (ends aborted : Bool) (s : State) : Out :=
  let k := k.val
  if !(pdLive s 48 && s.running && frameOpen s k) then ok s
  else
    let t := onRlk s (fun r => { r with began := k :: r.began })
    let sent := ((s.rlk.frames.find? (fun p => p.1 == k)).map (fun p => p.2.take 4)).getD []
    let at_ := s.port - s.rlk.start.getD 0
    if aborted || hdr ≠ sent then ok (frameBad t k)
    else if ends && at_ + 32 ≤ rlkPer s then
      ok (wf (onRlk t (fun r => { r with counts := k :: r.counts })) (rlkRsts k) rlkRstsRTT at_)
    else ok t

/-! The cycle end (R407, R410 to R413, R416, R420, R422). -/

/-- Ring k's frame as the cycle ends: one that does not count is reported (R410). -/
def ringEndCheck (s : State) (k : Nat) : State :=
  if s.rlk.counts.contains k then s
  else
    let t := inc s (rlkRcnt k) rlkRcntBADCYC
    if !s.rlk.began.contains k then wb t (rlkRsts k) rlkRstsNOFRAME true
    else if s.rlk.bad.contains k then t
    else wb t (rlkRsts k) rlkRstsLATE true

/-- The valid uplink of unit u in this cycle. -/
def validUp (s : State) (u : Nat) : Option Uplink :=
  s.rlk.ups.find? (fun x => x.unit == u && s.rlk.counts.contains x.ring)

/-- RLK_USTS[u] at a cycle end (R424). -/
def ustsEnd (s : State) (u : Nat) : State :=
  let a := rlkUsts u
  match validUp s u with
  | some x =>
    let t := wf (wb (wf s a rlkUstsMISS 0) a rlkUstsVALID true) a rlkUstsLIMP (b2n x.limp)
    wf (wf t a rlkUstsAHOLDER x.aholder) a rlkUstsAEPOCH x.aepoch
  | none => wb (inc s a rlkUstsMISS) a rlkUstsVALID false

/-- SENT entries without a match by the cycle end of cycle c + RTXN are QUEUED again (R413). -/
def retransmit (s : State) : State :=
  let n := max 1 (rf s rlkCtrl rlkCtrlRTXN)
  let unanswered : SendEnt → Bool := fun e => match e.sent with
    | some c => decide (c + n ≤ s.rlk.cyc)
    | none => false
  let k := (s.rlk.send.filter unanswered).length
  let t := setSend s (s.rlk.send.map (fun e => if unanswered e then { e with sent := none, retx := true } else e))
  if k = 0 then t else inc t rlkCnt rlkCntRETX k

/-- PLIVE and SILENT (R416): a unit's first valid uplink does not count. -/
def peerCount (s : State) (ups : List Uplink) : State :=
  let n := (ups.filter (fun x => s.rlk.echop.any (fun p => p.1 == x.unit && p.2 != x.echop))).length
  let t := onRlk s (fun r => { r with
    echop := r.echop.filter (fun p => !ups.any (fun x => x.unit == p.1)) ++ ups.map (fun x => (x.unit, x.echop)) })
  let t := wf t rlkPeer rlkPeerPLIVE n
  let t := if n = 0 then inc t rlkPeer rlkPeerSILENT else wf t rlkPeer rlkPeerSILENT 0
  wb t rlkSts rlkStsPEERSILENT (3 ≤ rf t rlkPeer rlkPeerSILENT)

/-- ACC, QUORUM, MAXSEEN and LIVE (R420). -/
def quorumCount (s : State) (ups : List Uplink) : State :=
  let side := rf s rlkCtrl rlkCtrlSIDE
  let e := rlkEpochEPOCH.get s.rlk.lat
  let acc := (ups.filter (fun x => x.aepoch == e && x.aholder == side)).length
  let top := ups.foldl (fun m x => max m x.aepoch) (rf s rlkMaxep rlkMaxepMAXSEEN)
  let t := wf (wf s rlkAuth rlkAuthACC acc) rlkAuth rlkAuthLIVE ups.length
  let t := wf (quorumSync t) rlkMaxep rlkMaxepMAXSEEN top
  onRlk t (fun r => { r with partner := (ups.filter (fun x => x.aholder == 1 - side)).length })

/-- Entries of units that are neither IN_SERVICE nor REPLACING are discarded (R412). -/
def dropIdle (s : State) : State :=
  setSend s (s.rlk.send.filter (fun e => ustateOf s e.unit == 1 || ustateOf s e.unit == 3))

/-- The cycle ends: validity and identity go to the PNE, then the role is evaluated (R407, R428). -/
def cycleEnd (s : State) : State :=
  let t := s.rlk.live.foldl ringEndCheck s
  let us := placed t
  let ups := us.filterMap (validUp t)
  let t := us.foldl ustsEnd t
  let t := quorumCount (peerCount (retransmit t) ups) ups
  let t := if pdOn t 45 then pneCycleEnd t (us.map (fun u => (u, (validUp t u).map (fun x => (x.model, x.serial))))) else t
  let t := onRlk (dropIdle t) (fun r => { r with start := none, frames := [] })
  if pdOn t 47 then roleEval (roleCycle t) true else t

/-- RLK_CYCLE_END (R407): PER - 32 PORT cycles after the start. -/
def execRlkCycleEnd (s : State) : Out :=
  match s.rlk.start with
  | some c => onlyIf (pdLive s 48 && s.running && decide (c + rlkPer s ≤ s.port + 32)) s (cycleEnd s)
  | none => ok s

/-! Lanes (R399, R421): lanes 0 to 3 of the rack link, 4 and 5 of the mirror link. -/

/-- The register that shows lane l, and that of its fields. -/
def laneReg (l : Nat) : Nat := if l < 4 then rlkRsts l else mlkLane (l - 4)
def laneFld (l : Nat) (rack mirror : Fld) : Fld := if l < 4 then rack else mirror
def laneLock (l : Nat) : Fld := laneFld l rlkRstsLOCK mlkLaneLOCK
def laneHiber (l : Nat) : Fld := laneFld l rlkRstsHIBER mlkLaneHIBER

/-- Lane l's link has power and clocks. -/
def laneLive (s : State) (l : Nat) : Bool := if l < 4 then pdLive s 48 else pdOn s 47

/-- Lane l's hi_ber monitor: the start of its window, and the invalid headers in it. -/
def laneBer (s : State) (l : Nat) : Nat × Nat := if l < 4 then tget (0, 0) s.rlk.ber l else tget (0, 0) s.mlk.ber (l - 4)

/-- Set lane l's hi_ber monitor. -/
def setLaneBer (s : State) (l : Nat) (b : Nat × Nat) : State :=
  if l < 4 then onRlk s (fun r => { r with ber := tset (0, 0) r.ber l b })
  else onMlk s (fun m => { m with ber := tset (0, 0) m.ber (l - 4) b })

/-- PORT cycles of the monitor's window of 125 µs, and its threshold (R399). -/
def berWindow : Nat := 37500
def berLimit : Nat := 16

/-- The monitor's windows follow one another from the lane's lock (log entry 205): at the end of one with fewer
invalid headers than the threshold, hi_ber deasserts (R399). -/
def berRoll (s : State) (l : Nat) : State :=
  let b := laneBer s l
  let k := (s.port - b.1) / berWindow
  if k = 0 then s
  else setLaneBer (if 2 ≤ k || b.2 < berLimit then wb s (laneReg l) (laneHiber l) false else s) l (b.1 + berWindow * k, 0)

/-- LOCK_LOST (R421): a frame in progress is aborted; hi_ber deasserts, since its monitor runs on a locked lane (log
entry 205). -/
def execLockLost (l : Fin 6) (s : State) : Out :=
  let k := l.val
  if laneLive s k && rb s (laneReg k) (laneLock k) then
    let t := wb (wb s (laneReg k) (laneLock k) false) (laneReg k) (laneHiber k) false
    let t := wb t (laneReg k) (laneFld k rlkRstsLOCKLOST mlkLaneLOCKLOST) true
    ok (if k < 4 then (if frameOpen t k && t.rlk.began.contains k then frameBad t k else t) else wb t mlkSts mlkStsLANEERR true)
  else ok s

/-- HIBER (R399, R421): `n` invalid sync headers have been received, and hi_ber asserts with the sixteenth of a window. -/
def execHiber (l : Fin 6) (n : BitVec 16) (s : State) : Out :=
  let k := l.val
  if laneLive s k then
    let t := inc s (if k < 4 then rlkRcnt k else mlkLane (k - 4)) (laneFld k rlkRcntSHERR mlkLaneSHERR) n.toNat
    let t := berRoll t k
    let b := laneBer t k
    ok (if !rb t (laneReg k) (laneLock k) then t
      else
        let u := setLaneBer t k (b.1, b.2 + n.toNat)
        if berLimit ≤ b.2 + n.toNat then wb u (laneReg k) (laneHiber k) true else u)
  else ok s

/-- BLOCK_LOCK (R421): a lane has block lock, and its hi_ber monitor starts. -/
def execBlockLock (l : Fin 6) (s : State) : Out :=
  onlyIf (laneLive s l.val) s (setLaneBer (wb s (laneReg l.val) (laneLock l.val) true) l.val (s.port, 0))

/-- HIBER_CLEAR (R421): a window of the monitor ends, and hi_ber may deassert. -/
def execHiberClear (l : Fin 6) (s : State) : Out := onlyIf (laneLive s l.val) s (berRoll s l.val)

/-- The rack link's WAKE reset: the cycle in progress is lost (R422). -/
def rlkLost (s : State) : State := (fun t => if pdOn t 47 then roleOff t else t) { s with rlk := Rlk.zero }

end Sys2Proof.Machine
end

