-- ==== Sys2Proof/Machine/Cpt.lean ====
section
/-! DEFINITION. The command port's hardware: buffers, submission checks, doorbells, replies, deadlines and
event packets (R450 to R458, R460, R462 to R469). -/

namespace Sys2Proof.Machine

/-- The system type of the command port (R234). -/
def otCommand : Nat := 12

/-- Change the command port's state. -/
def onCpt (s : State) (f : Cpt → Cpt) : State := { s with cpt := f s.cpt }

/-- Uses of the host master port: fetch and copy of buffer b, a notice, an event, a notification. -/
def useFetch (b : Nat) : HmpUse := .unit 25 b
def useCopy (b : Nat) : HmpUse := .unit 25 (64 + b)
def useNotice : HmpUse := .unit 25 128
def useEvent : HmpUse := .unit 25 129
def useNote : HmpUse := .unit 25 130

/-! Buffers (R451). -/

def bufState (s : State) (b : Nat) : Nat := rf s (cptBuf b) cptBufSTATE
def bufOwner (s : State) (b : Nat) : Nat := rf s (cptBuf b) cptBufOWNER
def bufOf (s : State) (b : Nat) : CptBuf := tget CptBuf.zero s.cpt.bufs b
def setBuf (s : State) (b : Nat) (x : CptBuf) : State := onCpt s (fun c => { c with bufs := tset CptBuf.zero c.bufs b x })

/-- Word address of word i of buffer b. -/
def bufAddr (s : State) (b i : Nat) : Nat := rf s cptPool cptPoolBASE / 16384 * 16384 + 256 * b + i
def bufWord (s : State) (b i : Nat) : Word := ownWord s (bufAddr s b i)

/-- The command port stores a word, and words, of a buffer on port 25 (R267). -/
def bufStore (s : State) (b i : Nat) (w : Word) : State := ownStore s (bufAddr s b i) 25 w
def bufStoreList (s : State) (b i : Nat) (ws : List Word) : State := ownStoreList s (bufAddr s b i) 25 ws

/-- It reads `n` words of a buffer. -/
def bufChecks (s : State) (b i n : Nat) : State := ownChecks s (bufAddr s b i) n 25

/-- General buffers that are FREE, and those a requester holds (R452). -/
def freeGeneral (s : State) : List Nat := (List.range 61).filter (fun b => bufState s b == 0)
def heldBy (s : State) (r : Nat) : Nat := ((List.range 61).filter (fun b => bufState s b != 0 && bufOwner s b == r)).length

/-- FREEG, HELD and CPT_QHEAD follow the buffers (R469). -/
def cptSync (s : State) : State :=
  let t := wf s cptSts cptStsFREEG (freeGeneral s).length
  let t := forN 13 t (fun t r => wf t (cptRq r) cptRqHELD (heldBy t r))
  match t.cpt.queue with
  | b :: _ => wf (wf (wb t cptQhead cptQheadVALID true) cptQhead cptQheadREQ (bufOwner t b)) cptQhead cptQheadBUF b
  | [] => wr t cptQhead 0

/-- Set a buffer's state; FREE forgets its owner. -/
def setBufState (s : State) (b st : Nat) : State :=
  if st = 0 then cptSync (setBuf (wr s (cptBuf b) 0) b CptBuf.zero) else cptSync (wf s (cptBuf b) cptBufSTATE st)

/-- A buffer leaves the queue. -/
def unqueue (s : State) (b : Nat) : State := cptSync (onCpt s (fun c => { c with queue := c.queue.filter (fun x => x != b) }))

/-- µs to a buffer's deadline, rounded up (R456, R469). -/
def bufRemain (s : State) (b : Nat) : Nat :=
  if bufState s b = 2 || bufState s b = 3 then ((bufOf s b).dl - s.port + 299) / 300 else 0

/-! Replies (R453, R455, R456, R458). -/

/-- Word 0 of a reply (R455). -/
def replyWord (opc status tag len : Nat) : Word :=
  BitVec.ofNat 48 (0xCE * 2 ^ 40 + opc * 2 ^ 32 + 2 ^ 28 + status * 2 ^ 24 + tag * 2 ^ 8 + len)

/-- The host-window writes of a reply or notice that come before word 0 (R456): body and word 1. -/
def copyStart (s : State) (use : HmpUse) (c : CptCopy) : State :=
  ((chunks 8 (c.words.length + 1) (c.words.drop 1)).foldl (fun a l =>
    (a.1 + l.length, hmpReq a.2 use true a.1 l.length l false true)) (c.area + 1, s)).2

/-- A reply is written to buffer b (R453, R455, R456): its owner is told, or it is copied to its area. -/
def cptReplyTo (s : State) (b status detail len : Nat) : State :=
  let x := bufOf s b
  let w0 := replyWord ((⟨39, 32⟩ : Fld).get x.w0) status ((⟨23, 8⟩ : Fld).get x.w0) len
  let w1 := BitVec.ofNat 48 (detail * 2 ^ 24)
  let t := bufStore (bufStore s b 0 w0) b 1 w1
  let t := if status = 5 then inc (wb t cptSts cptStsTIMEOUT true) cptCnt cptCntTIMEOUTS
    else if status = 2 || status = 3 then wb t cptSts cptStsBADPKT true else t
  match x.area with
  | some a =>
    let c : CptCopy := ⟨some b, a, w0 :: w1 :: ownWords t (bufAddr t b 2) len, len + 1, false⟩
    copyStart (onCpt (bufChecks t b 2 len) (fun p => { p with copies := p.copies ++ [c] })) (useCopy b) c
  | none => unitStrobe t 49 (if bufOwner s b = 11 then 474 else 464 + bufOwner s b)

/-- A buffer's reply, after which it is REPLIED. -/
def cptFinish (s : State) (b status detail len : Nat) : State :=
  cptReplyTo (setBufState (unqueue s b) b 4) b status detail len

/-! Submission (R453, R455, R459, R460). -/

/-- The permission class of an opcode: none for a reserved one; 6 needs no bit. -/
def opcClass (o : Nat) : Option Nat :=
  match o with
  | 0x00 => some 6
  | 0x01 | 0x10 | 0x19 | 0x20 | 0x28 | 0x30 => some 0
  | 0x11 | 0x12 | 0x13 | 0x14 | 0x15 | 0x18 => some 1
  | 0x21 => some 2
  | 0x29 => some 3
  | 0x38 => some 4
  | 0x39 => some 5
  | _ => none

/-- The body length is one that the opcode allows (R459). -/
def opcLenOk (o l : Nat) : Bool :=
  match o with
  | 0x00 => l ≤ 254
  | 0x10 | 0x38 => 1 ≤ l && l ≤ 127
  | 0x11 | 0x39 => l % 2 == 0 && 2 ≤ l && l ≤ 128
  | 0x12 => l % 3 == 0 && 3 ≤ l && l ≤ 126
  | 0x13 | 0x14 | 0x15 => 1 ≤ l && l ≤ 64
  | 0x18 => l % 2 == 0 && 2 ≤ l && l ≤ 64
  | 0x19 => 1 ≤ l && l ≤ 63
  | 0x21 => l == 2
  | 0x29 => 1 ≤ l && l ≤ 253
  | _ => l == 0

/-- The header's fixed fields (R455). -/
def headerOk (w0 w1 : Word) : Bool :=
  w0.toNat / 2 ^ 40 == 0xCD && (⟨31, 28⟩ : Fld).get w0 == 1 && (⟨27, 24⟩ : Fld).get w0 == 0 && w0.toNat % 256 ≤ 254 &&
    w1.toNat % 2 ^ 32 == 0

/-- Timeout of a packet in µs (R455). -/
def packetTmo (s : State) (w1 : Word) : Nat :=
  let n := w1.toNat / 2 ^ 32
  max 1 (if n = 0 then rf s cptCtrl cptCtrlDEFTMO else n)

/-- The service of commands is there (R458): EN and SVEN are 1, SV0 runs, and the port does not drain. -/
def svcPresent (s : State) : Bool :=
  rb s cptCtrl cptCtrlEN && rb s cptCtrl cptCtrlSVEN && coreLive s 8 && !s.cpt.drain

/-- Buffer b is queued: behind those submitted before, and among those of its own cycle by requester (R462, log entry
130). -/
def queueIn (s : State) (b : Nat) : State :=
  let before : Nat → Bool := fun x => !((bufOf s x).sub == s.port + 1 && decide (bufOwner s b < bufOwner s x))
  onCpt s (fun c => { c with queue := c.queue.takeWhile before ++ b :: c.queue.dropWhile before })

/-- The packet in buffer b is submitted: checked, and queued or replied at once. -/
def cptSubmitBuf (s : State) (b : Nat) : State :=
  let w0 := bufWord s b 0
  let w1 := bufWord s b 1
  let opc := (⟨39, 32⟩ : Fld).get w0
  let s := bufChecks s b 0 2
  let t := setBuf (wf s (cptBuf b) cptBufTAG ((⟨23, 8⟩ : Fld).get w0)) b { bufOf s b with w0 := w0, dl := s.port + 300 * packetTmo s w1, sub := s.port + 1 }
  if !headerOk w0 w1 then cptFinish t b 2 0 0
  else match opcClass opc with
    | none => cptFinish t b 3 0 0
    | some k =>
      if !opcLenOk opc (w0.toNat % 256) then cptFinish t b 3 0 0
      else if k < 6 && !rbit t (cptRq (bufOwner t b)) cptRqPERM k then cptFinish t b 4 0 0
      else if !svcPresent t then cptFinish t b 6 0 0
      else unitStrobe (setBufState (queueIn t b) b 2) 49 475

/-- SUBV of a requester (R453). -/
def cptSubv (s : State) (r : Nat) : State := wb s (cptRq r) cptRqSUBV true

/-- A write of CPT_SUBMIT[r] (R453). -/
def cptSubmitWrite (s : State) (q : Req) (r : Nat) (v : Word) : State :=
  let b := cptSubmitBUF.get v
  respond (if q.who.val ≠ r || r = 10 then s
    else if bufState s b = 1 && bufOwner s b = r then cptSubmitBuf s b else cptSubv s r) 0

/-- CPT_SUBMIT (R453). -/
def execCptSubmit (q : Req) (r : Fin 12) (b : Fin 64) (s : State) : Out :=
  if cptOpen s then ok (cptSubmitWrite s q r.val (BitVec.ofNat 48 b.val)) else ok (respond s 3)

/-- A write of CPT_FREE[r] (R453). -/
def cptFreeWrite (s : State) (q : Req) (r : Nat) (v : Word) : State :=
  let b := cptFreeBUF.get v
  respond (if q.who.val ≠ r || r = 10 then s
    else if (bufState s b = 1 || bufState s b = 4) && bufOwner s b = r then setBufState s b 0 else cptSubv s r) 0

/-- CPT_FREE (R453). -/
def execCptFree (q : Req) (r : Fin 12) (b : Fin 64) (s : State) : Out :=
  if cptOpen s then ok (cptFreeWrite s q r.val (BitVec.ofNat 48 b.val)) else ok (respond s 3)

/-! Allocation and doorbells (R452, R456). -/

/-- The reserved buffer of a requester (R450). -/
def reservedOf (r : Nat) : Option Nat :=
  match r with
  | 10 => some 61
  | 12 => some 62
  | 11 => some 63
  | _ => none

/-- Register a request for a buffer. -/
def cptAsk (s : State) (a : CptAsk) : State := onCpt s (fun c => { c with asks := c.asks ++ [a] })

/-- A read of CPT_ALLOC[r] (R452, R469): the request is registered, its value goes to `sink`; by another
requester, and for r = 10, it returns zero. -/
def cptAllocRead (s : State) (q : Req) (r sink : Nat) : Option State :=
  if q.who.val ≠ r || r = 10 then none else some (cptAsk s ⟨r, none, sink⟩)

/-- CPT_ALLOC (R452). The response comes with the grant. -/
def execCptAlloc (q : Req) (r : Fin 12) (s : State) : Out :=
  if !cptOpen s then ok (respond s 3)
  else match cptAllocRead s q r.val 0 with
    | some t => ok t
    | none => ok (respond s 0)

/-- A doorbell write (R456): from any path but the host slave port it is ignored. -/
def doorbellWrite (s : State) (q : Req) (r : Nat) (v : Word) : State :=
  respond (if q.who.val = 10 then cptAsk s ⟨r, some (v.toNat % 2 ^ 40), 0⟩ else s) 0

/-- CPT_HDB (R456). -/
def execCptHdb (q : Req) (a : BitVec 40) (s : State) : Out :=
  if cptOpen s then ok (doorbellWrite s q 10 (a.setWidth 48)) else ok (respond s 3)

/-- CPT_PDB (R456). -/
def execCptPdb (q : Req) (a : BitVec 40) (s : State) : Out :=
  if cptOpen s then ok (doorbellWrite s q 12 (a.setWidth 48)) else ok (respond s 3)

/-- The retry hint of a NOBUF notice (R456). -/
def retryHint (s : State) : Nat :=
  let l := ((List.range 64).filter (fun b => bufState s b == 2 || bufState s b == 3)).map (fun b => max 1 (bufRemain s b))
  match l with
  | [] => max 1 (rf s cptCtrl cptCtrlRHINT)
  | x :: r => r.foldl min x

/-- Begin writing the oldest notice. -/
def noticeStart (s : State) : State :=
  match s.cpt.notices with
  | c :: r =>
    if c.left = 1 && !c.last then
      copyStart (onCpt s (fun p => { p with notices := { c with left := 2 } :: r })) useNotice c
    else s
  | [] => s

/-- Queue a buffer-less reply (R456): word 1 then word 0; the queue holds 16. -/
def cptNotice (s : State) (area status hint : Nat) : State :=
  if 16 ≤ s.cpt.notices.length then
    unitStrobe (inc (wb s cptSts cptStsDBDROP true) cptCnt cptCntEVDROP) 49 479
  else
    let c : CptCopy := ⟨none, area, [replyWord 0 status 0 0, BitVec.ofNat 48 (hint * 2 ^ 32)], 1, false⟩
    noticeStart (onCpt s (fun p => { p with notices := p.notices ++ [c] }))

/-- Read the next words of a packet: word 0, then LEN + 1 more, 8 to a burst (R456). -/
def fetchNext (s : State) (f : CptFetch) : State :=
  let n := min 8 (f.want - f.got)
  hmpReq s (useFetch f.buf) false (f.area + f.got) n [] false true

/-- The answer to a read of CPT_ALLOC goes where the read came from: the command's response, the debug port
(sink 12), or core sink % 16 - 1 while it runs, for its read number sink / 16. -/
def allocAnswer (s : State) (sink code : Nat) (w : Word) : State :=
  if sink = 0 then respond s code w
  else if sink = 12 then
    { s with dbg := { s.dbg with acc := 3, accW := w, rcode := code, memerr := s.dbg.memerr || code != 0 } }
  else
    let k := sink % 16 - 1
    let c := coreOf s k
    if pdLive s (coreDomain k) && c.run then setCore s k { c with arrived := c.arrived ++ [⟨sink / 16, code, w, 0, false⟩] }
    else s

/-- A result of the allocator reaches its requester (R452, R453, R456): 0 granted, 1 NOBUF, 2 NOSERVICE. -/
def cptResult (s : State) (a : CptAsk) (res b : Nat) : State :=
  let t := if res = 0 then
      setBufState (setBuf (wf (wf s (cptBuf b) cptBufOWNER a.req) (cptBuf b) cptBufTAG 0) b { CptBuf.zero with area := a.area }) b 1
    else
      let u := inc s cptCnt cptCntNOBUFS
      if res = 1 then unitStrobe (wb u cptSts cptStsNOBUF true) 49 476 else u
  match a.area with
  | some x =>
    if res = 0 then
      let f : CptFetch := ⟨b, x, 0, 1⟩
      fetchNext (onCpt t (fun c => { c with fetch := c.fetch ++ [f] })) f
    else if res = 1 then cptNotice t x 1 (retryHint t) else cptNotice t x 6 0
  | none =>
    let w : Word := BitVec.ofNat 48 (b2n (res == 0) * 2 ^ 47 + res * 2 ^ 45 + (if res = 0 then b else 0))
    allocAnswer t a.sink 0 w

/-- Buffers promised to requests whose grant is not complete. -/
def promised (s : State) : List Nat := s.cpt.grants.map (fun g => g.2.2)

/-- General buffers that requester r holds or is promised (R452). -/
def heldOr (s : State) (r : Nat) : Nat :=
  heldBy s r + (s.cpt.grants.filter (fun g => g.2.1.req == r && g.2.2 < 61)).length

/-- The allocator's result for a request (R452). -/
def allocOne (s : State) (a : CptAsk) : Option Nat :=
  match if heldOr s a.req < rf s (cptRq a.req) cptRqLIMIT then (freeGeneral s).find? (fun b => !(promised s).contains b) else none with
  | some b => some b
  | none => (reservedOf a.req).bind (fun b => if bufState s b = 0 && !(promised s).contains b then some b else none)

/-- The requests of a cycle, lowest requester first (R452). -/
def sortAsks (l : List CptAsk) : List CptAsk := (List.range 13).flatMap (fun r => l.filter (fun a => a.req == r))

/-- The allocator takes the requests registered in the cycle as a group (log entry 208): each grant completes one
FABRIC cycle after the one before it, of this group or an earlier one, any other result at once (R452). -/
def allocGroup (s : State) : State :=
  let f0 := s.cpt.grants.foldl (fun f g => max f (g.1 + 1)) (2 * s.port + 1)
  ((sortAsks s.cpt.asks).foldl (fun (p : Nat × State) a =>
    let t := p.2
    if !rb t cptCtrl cptCtrlEN || t.cpt.drain then (p.1, cptResult t a 2 0)
    else match allocOne t a with
      | some b => (p.1 + 1, onCpt t (fun c => { c with grants := c.grants ++ [(p.1, a, b)] }))
      | none => (p.1, cptResult t a 1 0)) (f0, onCpt s (fun c => { c with asks := [] }))).2

/-- Grants whose cycle has come complete (R452). -/
def grantDue (s : State) : State :=
  let l := s.cpt.grants.filter (fun g => g.1 < 2 * s.port + 2)
  l.foldl (fun t g => cptResult (onCpt t (fun c => { c with grants := c.grants.erase g })) g.2.1 0 g.2.2) s

/-! Fetches and copies (R456). -/

/-- CPT_PACKET_FETCH (R456): the oldest read that has completed; the last one submits the buffer. -/
def execCptPacketFetch (s : State) : Out :=
  match hmpTake s (fun h => (List.range 64).any (fun b => h == useFetch b)) with
  | none => ok s
  | some (x, t) =>
    match s.cpt.fetch.find? (fun f => x.use == useFetch f.buf) with
    | none => ok t
    | some f =>
      let drop := fun (u : State) => onCpt u (fun c => { c with fetch := c.fetch.filter (fun y => y.buf != f.buf) })
      if x.code ≠ 0 then ok (cptFinish (setBuf (drop t) f.buf { bufOf t f.buf with w0 := bufWord t f.buf 0 }) f.buf 2 0 0)
      else
        let n := x.len
        let t := bufStoreList t f.buf f.got ((List.range n).map x.word)
        let got := f.got + n
        let len := (bufWord t f.buf 0).toNat % 256
        let want := if f.got = 0 then min 256 (len + 2) else f.want
        let g : CptFetch := { f with got := got, want := want }
        if want ≤ got then ok (cptSubmitBuf (drop t) f.buf)
        else ok (fetchNext (onCpt t (fun c => { c with fetch := c.fetch.map (fun y => if y.buf = f.buf then g else y) })) g)

/-- A copy ends: its buffer becomes FREE, unless the interpreter still owes its reply. -/
def copyEnd (s : State) (b : Nat) : State :=
  let t := onCpt s (fun c => { c with copies := c.copies.filter (fun y => y.buf != some b) })
  if bufState t b = 5 && !(bufOf t b).drop then t else setBufState t b 0

/-- A write of a copy has completed with n words: word 0 follows once all others are OKAY. -/
def copyStep (c : CptCopy) (n : Nat) : CptCopy × Bool :=
  let d := { c with left := c.left - n }
  (if d.left = 0 then { d with last := true } else d, d.left = 0)

/-- CPT_REPLY_COPY (R456): the oldest write that has completed; one that fails ends the copy. -/
def execCptReplyCopy (s : State) : Out :=
  match hmpTake s (fun h => h == useNotice || (List.range 64).any (fun b => h == useCopy b)) with
  | none => ok s
  | some (x, t) =>
    if x.use == useNotice then
      match t.cpt.notices with
      | c :: r =>
        if c.last || x.code ≠ 0 then ok (noticeStart (onCpt t (fun p => { p with notices := r })))
        else ok (hmpReq (onCpt t (fun p => { p with notices := { c with last := true } :: r })) useNotice true c.area 1
          (c.words.take 1) false true)
      | [] => ok t
    else match t.cpt.copies.find? (fun c => c.buf.any (fun b => x.use == useCopy b)) with
      | none => ok t
      | some c =>
        let b := c.buf.getD 0
        if c.last || x.code ≠ 0 then ok (copyEnd (hmpDrop t (fun h => h == useCopy b)) b)
        else
          let r := copyStep c x.len
          let u := onCpt t (fun p => { p with copies := p.copies.map (fun y => if y.buf = c.buf then r.1 else y) })
          ok (if r.2 then hmpReq u (useCopy b) true c.area 1 (c.words.take 1) false true else u)

/-! The interpreter's side (R462, R463). -/

/-- A write of CPT_TAKE (R462). -/
def cptTakeWrite (s : State) (q : Req) (v : Word) : State :=
  let b := cptTakeBUF.get v
  if !holdsType s q otCommand then respond s 2
  else respond (if s.cpt.queue.head? = some b then setBufState (unqueue s b) b 3 else s) 0

/-- CPT_TAKE (R462). -/
def execCptTake (q : Req) (b : Fin 64) (s : State) : Out :=
  if cptOpen s then ok (cptTakeWrite s q (BitVec.ofNat 48 b.val)) else ok (respond s 3)

/-- The fields of CPT_REPLY that hold what was written (R11, R469). -/
def replyShown (s : State) (status detail len : Nat) : State :=
  wf (wf (wf s cptReply cptReplySTATUS status) cptReply cptReplyDETAIL detail) cptReply cptReplyLEN len

/-- The interpreter's reply for buffer b (R454, R462): for an ORPHAN it is discarded and the buffer freed. A write that
names any other buffer is ignored (R469). -/
def cptReplyBuf (s : State) (b status detail len : Nat) : State :=
  let s := if bufState s b = 3 || bufState s b = 5 then replyShown s status detail len else s
  if bufState s b = 3 then cptFinish s b status detail len
  else if bufState s b = 5 then
    let t := unitStrobe (inc (wb s cptSts cptStsLATEREPLY true) cptCnt cptCntLATE) 49 477
    if t.cpt.copies.any (fun c => c.buf == some b) then setBuf t b { bufOf t b with drop := true } else setBufState t b 0
  else s

/-- A write of CPT_REPLY (R462). -/
def cptReplyWrite (s : State) (q : Req) (v : Word) : State :=
  if !holdsType s q otCommand then respond s 2
  else respond (cptReplyBuf s (cptReplyBUF.get v) (cptReplySTATUS.get v) (cptReplyDETAIL.get v) (cptReplyLEN.get v)) 0

/-- CPT_REPLY (R462). -/
def execCptReply (q : Req) (b : Fin 64) (status : BitVec 4) (detail len : BitVec 8) (s : State) : Out :=
  if cptOpen s then
    ok (cptReplyWrite s q (BitVec.ofNat 48 (status.toNat * 2 ^ 44 + detail.toNat * 2 ^ 36 + len.toNat * 2 ^ 28 + b.val)))
  else ok (respond s 3)

/-- The interpreter no longer carries out buffer b. -/
def runDrop (s : State) (b : Nat) : State :=
  match s.cpt.run with
  | some r => if r.buf = b then onCpt s (fun c => { c with run := none }) else s
  | none => s

/-- Buffer b is replied TIMEOUT (R462): QUEUED it leaves the queue, EXEC it becomes ORPHAN. -/
def cptTimeout (s : State) (b : Nat) : State :=
  if bufState s b = 2 then cptFinish s b 5 0 0
  else if bufState s b = 3 then cptReplyTo (setBufState s b 5) b 5 0 0
  else s

/-- CPT_DEADLINE (R462): buffer b's deadline has passed. A CPT_REPLY of the deadline's own cycle wins, so an EXEC buffer
times out in the cycle after it. -/
def execCptDeadline (b : Fin 64) (s : State) : Out :=
  let dl := (bufOf s b.val).dl
  onlyIf (pdLive s 49 && s.running && ((bufState s b.val == 2 && decide (dl ≤ s.port)) || (bufState s b.val == 3 && decide (dl < s.port)))) s
    (cptTimeout s b.val)

/-- SVEN clears (R463): QUEUED buffers are replied NOSERVICE, EXEC buffers TIMEOUT, after which they are
FREE. -/
def svenClear (s : State) : State :=
  if !rb s cptCtrl cptCtrlSVEN then s
  else
    let t := wb s cptCtrl cptCtrlSVEN false
    let t := (List.range 64).foldl (fun t b =>
      if bufState t b = 2 then cptFinish t b 6 0 0
      else if bufState t b = 3 then
        let u := cptReplyTo (setBufState t b 4) b 5 0 0
        if (bufOf u b).area.isSome then u else setBufState u b 0
      else t) t
    onCpt t (fun c => { c with run := none })

/-- A requester is lost (R454): its buffers are freed or orphaned. -/
def cptLost (s : State) (r : Nat) : State :=
  if !pdLive s 49 then s
  else
    let t := onCpt s (fun c => { c with asks := c.asks.filter (fun a => a.req != r), grants := c.grants.filter (fun g => g.2.1.req != r) })
    (List.range 64).foldl (fun t b =>
      if bufOwner t b ≠ r then t
      else match bufState t b with
        | 1 | 4 => setBufState t b 0
        | 2 => setBufState (unqueue t b) b 0
        | 3 => setBufState t b 5
        | _ => t) t

/-- Core k is lost: its buffers, and with SV0 the interpreter (R454, R463). -/
def coreLost (s : State) (k : Nat) : State :=
  let t := cptLost s k
  if k = 8 && pdLive t 49 then svenClear t else t

/-- A write of CPT_CTRL (R463, R469). -/
def cptCtrlWrite (s : State) (q : Req) (v : Word) : State :=
  if !holdsType s q otCommand then respond s 2
  else
    let t := if cptCtrlSVEN.get v = 0 then svenClear s else wb s cptCtrl cptCtrlSVEN true
    let t := wb (wb t cptCtrl cptCtrlEN (cptCtrlEN.get v == 1)) cptCtrl cptCtrlEVEN (cptCtrlEVEN.get v == 1)
    respond (wf (wf t cptCtrl cptCtrlDEFTMO (cptCtrlDEFTMO.get v)) cptCtrl cptCtrlRHINT (cptCtrlRHINT.get v)) 0

/-- A write of CPT_POOL or CPT_EVRING: discarded with CFGV while EN is 1 (R469). -/
def cptCfgWrite (s : State) (q : Req) (a : Nat) (v : Word) : State :=
  if !holdsType s q otCommand then respond s 2
  else if rb s cptCtrl cptCtrlEN then respond (wb s cptSts cptStsCFGV true) 0
  else respond (regPut s a true v) 0

/-! Events (R465 to R467). -/

/-- An event is lost. -/
def evLost (s : State) : State :=
  onCpt (unitStrobe (inc (wb s cptSts cptStsEVLOST true) cptCnt cptCntEVDROP) 49 478) (fun c => { c with lost := c.lost + 1 })

/-- An event enters the queue: its code, body, and the times at which it does. -/
def evQueue (s : State) (e : EvReq) : State :=
  if !rb s cptCtrl cptCtrlEVEN || !rbit s cptEvmask cptEvmaskEN (e.cause - 1) then s
  else if 16 ≤ s.cpt.evq.length then evLost s
  else
    let tm := jneTime s
    onCpt s (fun c => { c with evq := c.evq ++ [⟨e.cause, btime s, tm.1, tm.2, e.body⟩] })

/-- Events that reached the CPT in this cycle, in ascending CODE (R466); none while PD49 is not ON. -/
def evTake (s : State) : State :=
  let t := { s with sig := { s.sig with evs := [] } }
  if !pdOn s 49 then t
  else ((List.range 6).flatMap (fun k => s.sig.evs.filter (fun e => e.cause == k))).foldl evQueue t

def evSize (s : State) : Nat := 2 ^ max 4 (min 12 (rf s cptEvring cptEvringESZ))

/-- The ring is full (R467). -/
def evRingFull (s : State) : Bool :=
  dist 16 (rf s cptEvptr cptEvptrPROD) (rf s cptEvptr cptEvptrCONS) == evSize s

/-- Address of the ring entry at PROD. -/
def evAddr (s : State) : Nat := rf s cptEvring cptEvringADDR + 8 * (rf s cptEvptr cptEvptrPROD % evSize s)

/-- Words 1 to 7 of an entry (R465). -/
def evWords (e : CptEvent) : List Word :=
  ([e.at_, e.sec, BitVec.ofNat 48 e.ns] ++ e.body ++ List.replicate 4 0).take 7

/-- Write an event's words 1 to 7. -/
def evWrite (s : State) (e : CptEvent) : State :=
  hmpReq (onCpt s (fun c => { c with evNow := some e, evStage := 1 })) useEvent true (evAddr s + 1) 7 (evWords e) false true

/-- Start the next event: one that finds the ring full is lost; after losses an EVLOST event comes
first (R467). -/
def evStart : Nat → State → State
  | 0, s => s
  | f + 1, s =>
    if s.cpt.evStage ≠ 0 then s
    else match s.cpt.evq with
      | [] => s
      | e :: r =>
        if evRingFull s then evStart f (evLost (onCpt s (fun c => { c with evq := r })))
        else if s.cpt.lost ≠ 0 && rbit s cptEvmask cptEvmaskEN 2 then
          let tm := jneTime s
          evWrite (onCpt s (fun c => { c with lost := 0 })) ⟨3, btime s, tm.1, tm.2, [BitVec.ofNat 48 s.cpt.lost]⟩
        else evWrite (onCpt s (fun c => { c with evq := r })) e

/-- EVENT_RING_WRITE (R465, R466): a write of the entry has completed; one that fails is repeated. -/
def execEventRingWrite (s : State) : Out :=
  match hmpTake s (fun h => h == useEvent), s.cpt.evNow with
  | some (x, t), some e =>
    let prod := rf s cptEvptr cptEvptrPROD
    if x.code ≠ 0 then ok (hmpReq t useEvent true x.addr x.len x.data false true)
    else if s.cpt.evStage = 1 then
      ok (hmpReq (onCpt t (fun c => { c with evStage := 2 })) useEvent true (evAddr s) 1
        [BitVec.ofNat 48 (0xCF * 2 ^ 40 + e.code * 2 ^ 32 + prod)] false true)
    else
      let t := wf t cptEvptr cptEvptrPROD (prod + 1)
      let t := if rb t cptEvnote cptEvnoteEN then
          hmpReq t useNote true (rf t cptEvnote cptEvnoteADDR) 1 [BitVec.ofNat 48 ((prod + 1) % 2 ^ 16)] false true else t
      ok (evStart 17 (onCpt t (fun c => { c with evNow := none, evStage := 0 })))
  | _, _ => ok (if pdLive s 49 && s.running then evStart 17 s else s)

/-! Drain, loss and time (R464). -/

/-- A drain begins: no new service, TIMEOUT to every command. -/
def cptDrain (s : State) : State :=
  let t := onCpt (wb s cptCtrl cptCtrlEN false) (fun c => { c with drain := true, run := none })
  (List.range 64).foldl cptTimeout t

/-- The command port's WAKE reset. -/
def cptReset (s : State) : State :=
  let asked := (s.cpt.asks ++ s.cpt.grants.map (fun g => g.2.1)).filter (fun a => a.area.isNone)
  let t := hmpDrop { s with cpt := Cpt.zero } (fun h => match h with
    | .unit 25 _ => true
    | _ => false)
  asked.foldl (fun t a => allocAnswer t a.sink 3 0) t

/-- What the command port does by itself at the end of a PORT cycle; responses to notification writes are
dropped. -/
def cptTick (s : State) : State :=
  let t := evTake s
  if !(pdLive t 49 && t.running) then t
  else
    let t := hmpDropDone t
    evStart 17 (grantDue (allocGroup t))
where
  hmpDropDone (s : State) : State :=
    { s with ports := { s.ports with done := s.ports.done.filter (fun x => x.use != useNote) } }

end Sys2Proof.Machine
end

