-- ==== Sys2Proof/Machine/Irq.lean ====
section
/-! DEFINITION. The level each LEVEL interrupt source is driven to by its unit's status registers
(R41, R69, R109, R124, R283, R328, R355, R379, R395, R423, R448, R487). -/

namespace Sys2Proof.Machine

/-- One field of a list of fields is set: the i-th, none where the list ends. -/
def nthFlag (s : State) (a : Nat) (l : List Fld) (i : Nat) : Bool :=
  match l[i]? with
  | some f => rb s a f
  | none => false

/-- CVP sources 48 to 52 (R41). -/
def cvpFlags : List Fld :=
  [cvpEvstsLATERETRACT, cvpEvstsGNTLOST, cvpEvstsGNTUNREQUESTED, cvpEvstsNOZVS, cvpEvstsSAT]

/-- RLK sources 324 to 329 (R423). -/
def rlkFlags : List Fld :=
  [rlkStsSLOTERR, rlkStsREJECT, rlkStsREPDROP, rlkStsITEMSHORT, rlkStsQUORUM, rlkStsPEERSILENT]

/-- MLK sources 352 to 364 (R448). -/
def mlkFlags : List Fld :=
  [mlkStsROLECHG, mlkStsMIRRORLINKLOST, mlkStsTAKEOVER, mlkStsCONFIGBEHIND, mlkStsUNSYNCED,
   mlkStsFENCED, mlkStsCLAIMFAIL, mlkStsINCOMPAT, mlkStsGENDONE, mlkStsINSTREJ, mlkStsRESYNCDONE,
   mlkStsLANEERR, mlkStsCFGERR]

/-- PNE sources 400 to 404 (R328). -/
def pneFlags : List Fld :=
  [pneStsCONFLICT, pneStsUSTATECHG, pneStsREPLACED, pneStsIMGERR, pneStsREADY]

/-- WAC sources 408 to 413 (R395). -/
def wacFlags : List Fld :=
  [wacStsCKDONE, wacStsCKERR, wacStsOVERRUN, wacStsFLUSH, wacStsINQUAL, wacStsTJHI]

/-- Memory sources 416 to 422 (R283). -/
def memFlags : List Fld :=
  [memStsRESVDEMOTED, memStsOVERCOMMIT, memStsTORN, memStsECCCE, memStsECCUE, memStsFASTSCRUB,
   memStsBANKRETIRED]

/-- PCTL sources 432 to 437 (R487). -/
def pctlFlags : List Fld :=
  [pctlStsPDFAULT, pctlStsDRAINTO, pctlStsPDREF, pctlStsCORELOCKED, pctlStsPLLERR, pctlStsPDDONE]

/-- JNE sources 384 to 397 (R355, R379). -/
def jneLevel (s : State) (i : Nat) : Bool :=
  if i = 2 then rf s jneSts jneStsSTATE == 4
  else if i = 4 then rf s jneSts jneStsSTATE == 5
  else if i < 7 then
    nthFlag s jneSts [jneStsCMTSTALL, jneStsDEGRADED, ⟨0, 0⟩, jneStsHOSTERR, ⟨0, 0⟩, jneStsMQERR,
      jneStsOPENED] i
  else match i with
    | 7 => rb s jneDrysts jneDrystsDRYERR
    | 8 => rb s jneDrysts jneDrystsBASEFULL
    | 9 => rb s jnePlcsts jnePlcstsPOLICYCLAMPED
    | 10 => rb s jnePlcsts jnePlcstsWINDOWCLIPPED
    | 11 => rb s jneDrysts jneDrystsPLCSHORT
    | 12 => rb s jneDrysts jneDrystsWEARHI
    | 13 => rb s jneDrysts jneDrystsDISCARDED
    | _ => false

/-- Source 240 + q: a MISS bit of monitor group q set with its IEN bit (R124). -/
def dmGroupLevel (s : State) (q : Nat) : Bool :=
  (List.range 16).any (fun i =>
    rb s (dmSts (16 * q + i)) dmStsMISS && rb s (dmSts (16 * q + i)) dmStsIEN)

/-- Source 320 + k: ring k (R423). -/
def ringLevel (s : State) (k : Nat) : Bool :=
  rb s (rlkRsts k) rlkRstsLOCKLOST || rb s (rlkRsts k) rlkRstsNOFRAME || rb s (rlkRsts k) rlkRstsLATE
    || rb s (rlkRsts k) rlkRstsFRAMEERR || rb s (rlkRsts k) rlkRstsHIBER

/-- The level of source n as its unit drives it; false while the unit's domain is not ON (R145). -/
def srcLevel (s : State) (n : Nat) : Bool :=
  if n < 16 then rbit s cvpTglatch cvpTglatchTGLAT n
  else if n < 32 then rbit s cvpLnsts cvpLnstsINERR (n - 16)
  else if n < 48 then rbit s cvpLnsts cvpLnstsEGERR (n - 32)
  else if n < 64 then nthFlag s cvpEvsts cvpFlags (n - 48)
  else if n < 192 then
    let e := (n - 64) / 16
    let j := (n - 64) % 16
    pdOn s (18 + e) &&
      ((rf s (aeSlotsts e j) ⟨6, 0⟩) &&& (rf s (aeSlotsts e j) aeSlotstsIEN)) != 0
  else if n < 200 then
    pdOn s 26 && ((rf s (sspCsts (n - 192)) ⟨8, 0⟩) &&& (rf s (sspCsts (n - 192)) sspCstsIEN)) != 0
  else if n < 224 then false
  else if n < 240 then rb s (pctlCgctl (n - 224)) pctlCgctlTICK
  else if n < 256 then dmGroupLevel s (n - 240)
  else if n < 320 then false
  else if n < 324 then pdOn s 48 && ringLevel s (n - 320)
  else if n < 352 then pdOn s 48 && nthFlag s rlkSts rlkFlags (n - 324)
  else if n < 384 then pdOn s 47 && nthFlag s mlkSts mlkFlags (n - 352)
  else if n < 400 then pdOn s 44 && jneLevel s (n - 384)
  else if n < 408 then pdOn s 45 && nthFlag s pneSts pneFlags (n - 400)
  else if n < 416 then pdOn s 46 && nthFlag s wacSts wacFlags (n - 408)
  else if n < 432 then nthFlag s memSts memFlags (n - 416)
  else if n < 447 then nthFlag s pctlSts pctlFlags (n - 432)
  else false

end Sys2Proof.Machine
end

