-- ==== Sys2Proof/Machine/Intc.lean ====
section
/-! DEFINITION. The interrupt controller (R142 to R161). -/

namespace Sys2Proof.Machine

/-- Source n counts events and has no level (R142). -/
def srcCount (n : Nat) : Bool := (256 ≤ n && n < 320) || 447 ≤ n

/-- Source n is of the message class (R142). -/
def srcMsg (n : Nat) : Bool := 448 ≤ n

/-- PRIO, LVL and TGT as they act: fixed for ESCALATE, and a message source acts as IL (R148, R160). -/
def srcPrio (s : State) (n : Nat) : Nat := if n = 447 then 15 else rf s (intcSrc n) intcSrcPRIO
def srcCl (s : State) (n : Nat) : Bool := n = 447 || (rb s (intcSrc n) intcSrcLVL && !srcMsg n)
def srcTgt (s : State) (n : Nat) : Nat := if n = 447 then 0x100 else rf s (intcSrc n) intcSrcTGT

/-- Source n is active (R143). -/
def srcActive (s : State) (n : Nat) : Bool :=
  if srcCount n then rf s (intcSrc n) intcSrcCNT != 0 else rb s (intcSrc n) intcSrcACTIVE

/-- Source n is in service to core k (R151). -/
def inService (s : State) (n k : Nat) : Bool :=
  rb s (intcSrc n) intcSrcINSVC && rf s (intcSrc n) intcSrcSVCCORE == k

/-- Source n is pending (R143). -/
def srcPending (s : State) (n : Nat) : Bool :=
  srcActive s n && srcPrio s n != 0 && !rb s (intcSrc n) intcSrcINSVC

/-- Sources in service to core k. -/
def servedBy (s : State) (k : Nat) : List Nat := (List.range 512).filter (fun n => inService s n k)

/-- PRIO and LVL latched when source n was claimed (R151, R158). -/
def latchedPrio (s : State) (n : Nat) : Nat := tget 0 s.intc.latched n % 16
def latchedCl (s : State) (n : Nat) : Bool := 16 ≤ tget 0 s.intc.latched n

/-- RUNPRIO of core k (R150). -/
def runPrio (s : State) (k : Nat) : Nat :=
  (servedBy s k).foldl (fun m n => if latchedCl s n then m else max m (latchedPrio s n)) 0

/-- A CL source is in service to core k. -/
def clService (s : State) (k : Nat) : Bool := (servedBy s k).any (latchedCl s)

/-- The level and masks of core k let a source through (R253, R254). -/
def coreAdmits (s : State) (k n : Nat) : Bool :=
  let c := coreOf s k
  let thr := if srcMsg n then c.thrM else c.thrP
  !c.mmask && thr < srcPrio s n &&
    (match c.lvl with
     | 0 => true
     | 1 => srcCl s n || (c.ilnest && !c.inCall 1)
     | 2 => srcCl s n
     | _ => false)

/-- Hold-off of the group of source n runs (R153). -/
def heldOff (s : State) (n : Nat) : Bool := tget 0 s.intc.holdEnd (n / 16) != 0

/-- Source n competes for core k and core k accepts it (R147, R149, R150, R153). -/
def accepts (s : State) (k n : Nat) : Bool :=
  srcPending s n && (srcTgt s n).testBit k &&
    (srcCl s n || (!heldOff s n && !(rb s intcCtrl intcCtrlPHOLD && !srcMsg n) && runPrio s k < srcPrio s n)) &&
    !clService s k && coreAdmits s k n

/-- The order of selection: CL first, then PRIO, then the lower number (R149). -/
def selRank (s : State) (n : Nat) : Nat := (if srcCl s n then 16 else 0) + srcPrio s n

/-- INTC_SRC[o.n] as selection may still see it after the write that `o` remembers (R156): LVL and a TGT bit that the
write sets act from the cycle after it; PRIO, from non-zero to non-zero, up to 2 FABRIC cycles after it. A masking
write acts at once. -/
def srcBefore (s : State) (o : SrcOld) : Word :=
  let w := rd s (intcSrc o.n)
  let w' := if intcSrcPRIO.get w ≠ 0 && intcSrcPRIO.get o.w ≠ 0 && !rb s (intcSrc o.n) intcSrcINSVC then
    intcSrcPRIO.put w (intcSrcPRIO.get o.w) else w
  if o.cyc = s.port then
    intcSrcTGT.put (intcSrcLVL.put w' (intcSrcLVL.get o.w)) (intcSrcTGT.get w &&& intcSrcTGT.get o.w)
  else w'

/-- The state whose INTC_SRC registers selection uses in this FABRIC cycle (R156). Commands do not say how many FABRIC
cycles lie between a write and a selection, so each recent write acts or does not yet, as a free choice. -/
def selView (s : State) : State :=
  (s.intc.late.filter (fun o => s.port ≤ o.cyc + 1)).foldl (fun u o =>
    if (freshBit u).1 then wr (freshBit u).2 (intcSrc o.n) (srcBefore u o) else (freshBit u).2) s

/-- The source selected for core k, if any (R149). -/
def selectFor (s : State) (k : Nat) : Option Nat :=
  (List.range 512).foldl (fun b n =>
    if accepts s k n then
      match b with
      | none => some n
      | some m => if selRank s m < selRank s n then some n else b
    else b) none

/-- Withdraw the presentation to core k, its source staying pending (R157 to R159, R258). -/
def withdraw (s : State) (k : Nat) : State :=
  if s.intc.offered.contains k then
    let t := wb s (intcCorests k) intcCorestsPVALID false
    { t with intc := { t.intc with offered := t.intc.offered.filter (· != k) } }
  else s

/-- Source n leaves service. -/
def leaveService (s : State) (n : Nat) : State :=
  let t := wf (wb s (intcSrc n) intcSrcINSVC false) (intcSrc n) intcSrcSVCCORE 15
  { t with intc := { t.intc with latched := tset 0 t.intc.latched n 0 } }

/-- Core k leaves ON, is reset, halts or locks (R159). -/
def intcCoreLost (s : State) (k : Nat) : State :=
  (servedBy s k).foldl leaveService (withdraw s k)

/-- CNT with e strobes and c claims in one FABRIC cycle (R144). -/
def srcTally (s : State) (n e c : Nat) : State :=
  let v := rf s (intcSrc n) intcSrcCNT - c + e
  let t := wf s (intcSrc n) intcSrcCNT (min 255 v)
  if 255 < v then wb t (intcSrc n) intcSrcOVF true else t

/-- The level of a LEVEL source as its unit drives it reaches the INTC; a rise strobes (R143). -/
def srcSync (s : State) (n : Nat) : State :=
  let l := srcLevel s n
  let t := wb s (intcSrc n) intcSrcACTIVE l
  if l && !rb s (intcSrc n) intcSrcACTIVE then srcTally t n 1 0 else t

/-- One strobe of a COUNT source is counted. -/
def srcStrobe (s : State) (n : Nat) : State :=
  if s.intc.strobes.contains n then
    srcTally { s with intc := { s.intc with strobes := s.intc.strobes.erase n } } n 1 0
  else s

/-- The INTC takes the levels of the unit of domain d as 0 while d is not ON (R142, R145). -/
def sourcesFall (s : State) (d : Nat) : State :=
  let r : Nat × Nat :=
    if 18 ≤ d && d < 26 then (64 + 16 * (d - 18), 16)
    else match d with
      | 26 => (192, 32) | 48 => (320, 32) | 47 => (352, 32) | 44 => (384, 16) | 45 => (400, 8) | 46 => (408, 8)
      | _ => (0, 0)
  forN r.2 s (fun t i => wb t (intcSrc (r.1 + i)) intcSrcACTIVE false)

/-- INTC_SOURCE_EVENT (R143 to R145): nothing moves while the PLL is stopped. -/
def execIntcSourceEvent (n : Fin 512) (s : State) : Out :=
  onlyIf s.running s (if srcCount n then srcStrobe s n else srcSync s n)

/-- A selection may be made for core k (R149, R150, R159). -/
def mayPresent (s : State) (k : Nat) : Bool :=
  coreLive s k && !s.intc.offered.contains k && (servedBy s k).length < 16

/-- Source n, of LVL `cl`, is selected for core k: it is latched in PRES and presented (R149). -/
def present (s : State) (k n : Nat) (cl : Bool) : State :=
  let t := wb (wf s (intcCorests k) intcCorestsPRES n) (intcCorests k) intcCorestsPVALID true
  { t with intc := { t.intc with
      offered := t.intc.offered ++ [k], shown := tset 0 t.intc.shown k (b2n cl), spared := tset 0 t.intc.spared k 0 } }

/-- INTC_SELECT (R149, R156): the source selected for core k is presented to it. -/
def execIntcSelect (k : Fin 10) (s : State) : Out :=
  let v := selView s
  match (if mayPresent s k then selectFor v k else none) with
  | none => ok { s with free := v.free }
  | some n => ok (present { s with free := v.free } k n (srcCl v n))

/-- Restart the hold-off timer of the group of source n (R153). -/
def holdRestart (s : State) (n : Nat) : State :=
  let h := rf s (intcGhold (n / 16)) intcGholdHOLDOFF
  let e := if h = 0 then 0 else 2 * s.port + 60 * h
  { s with intc := { s.intc with holdEnd := tset 0 s.intc.holdEnd (n / 16) e } }

/-- The LVL of the source in core k's PRES: a change of LVL acts for selection only (R156, R158). -/
def shownCl (s : State) (k : Nat) : Bool := tget 0 s.intc.shown k == 1

/-- The PRIO that a claim of core k's PRES returns: where a write of 0 left the presentation in place, the claim acts as
if the write had come later (R157). -/
def claimPrio (s : State) (k : Nat) : Nat :=
  let n := rf s (intcCorests k) intcCorestsPRES
  if srcPrio s n = 0 then tget 0 s.intc.spared k else srcPrio s n

/-- Core k claims source n (R144, R151, R153). -/
def claimSource (s : State) (k n : Nat) : State :=
  let t := wf (wb s (intcSrc n) intcSrcINSVC true) (intcSrc n) intcSrcSVCCORE k
  let t := srcTally t n 0 1
  let p := claimPrio s k + (if shownCl s k then 16 else 0)
  let t := { t with intc := { t.intc with latched := tset 0 t.intc.latched n p } }
  if shownCl s k then t else holdRestart t n

/-- The source in core k's PRES can be claimed: it is active and not in service, and its PRIO is not 0 or was not when the
presentation outlasted the write (R151, R157). -/
def claimable (s : State) (k : Nat) : Bool :=
  let n := rf s (intcCorests k) intcCorestsPRES
  rb s (intcCorests k) intcCorestsPVALID && srcActive s n && claimPrio s k != 0 && !rb s (intcSrc n) intcSrcINSVC

/-- A read of INTC_CLAIM[k] by requester `who` (R151). -/
def claimRead (s : State) (who k : Nat) : State :=
  if who != k then respond s 0 0x200
  else
    let n := rf s (intcCorests k) intcCorestsPRES
    let t := wb s (intcCorests k) intcCorestsPVALID false
    if claimable s k then respond (claimSource t k n) 0 (BitVec.ofNat 48 (claimPrio s k * 2 ^ 10 + n))
    else respond (inc t (intcCorests k) intcCorestsSPUR) 0 0x200

/-- INTC_CLAIM (R151). -/
def execIntcClaim (q : Req) (k : Fin 10) (s : State) : Out := ok (claimRead s q.who.val k.val)

/-- A write of INTC_EOI[k] (R152). -/
def eoiWrite (s : State) (k n : Nat) : State :=
  respond (if inService s n k then leaveService s n else wb s intcSts intcStsEOIV true) 0

/-- INTC_EOI (R152). -/
def execIntcEoi (k : Fin 10) (n : Fin 512) (s : State) : Out := ok (eoiWrite s k.val n.val)

/-- A write of INTC_MSET (R146). -/
def msetWrite (s : State) (n : Nat) : State :=
  respond (if srcMsg n then strobe s n else wb s intcSts intcStsMSETV true) 0

/-- INTC_MSET (R146). -/
def execIntcMset (n : Fin 512) (s : State) : Out := ok (msetWrite s n.val)

/-- HOLDOFF_EXPIRY (R153): the timer of group q stops once its time has passed. -/
def execHoldoffExpiry (q : Fin 32) (s : State) : Out :=
  let e := tget 0 s.intc.holdEnd q
  onlyIf (s.running && e != 0 && e ≤ 2 * s.port) s
    { s with intc := { s.intc with holdEnd := tset 0 s.intc.holdEnd q 0 } }

/-- A masking write meets a presentation to core k that is not yet committed: it is withdrawn or not,
which the spec leaves open (R157). -/
def mayWithdraw (s : State) (k : Nat) : State :=
  let b := freshBit s
  if b.1 then withdraw b.2 k else b.2

/-- A write of PRIO := 0 has met core k's PRES, whose source had PRIO `p`; the presentation stays in place (R157). -/
def spare (s : State) (k p : Nat) : State :=
  if rb s (intcCorests k) intcCorestsPVALID && p != 0 then { s with intc := { s.intc with spared := tset 0 s.intc.spared k p } }
  else s

/-- The presentation of source n to core k is outstanding. -/
def presented (s : State) (n k : Nat) : Bool :=
  s.intc.offered.contains k && rf s (intcCorests k) intcCorestsPRES == n

/-- A write of INTC_SRC[n] (R148, R156, R157, R160). -/
def srcWrite (s : State) (q : Req) (n : Nat) (v : Word) : State :=
  let may := holdsType s q 5
  if n = 447 then
    let t := regPut s (intcSrc n) false v
    let chg := intcSrcPRIO.get v != 15 || intcSrcLVL.get v != 1 || intcSrcTGT.get v != 0x100
    respond (if may && chg then wb t intcSts intcStsCFGV true else t) (if may then 0 else 2)
  else
    let t := regPut s (intcSrc n) may v
    let t := { t with intc := { t.intc with
      late := (t.intc.late.filter (fun o => s.port ≤ o.cyc + 1)) ++ [⟨n, s.port, rd s (intcSrc n)⟩] } }
    let u := forN 10 t (fun u k =>
      let w := if presented u n k && ((srcPrio u n == 0 && srcPrio s n != 0) || ((srcTgt s n).testBit k && !(srcTgt u n).testBit k)) then
        mayWithdraw u k else u
      if srcPrio u n == 0 && rf u (intcCorests k) intcCorestsPRES == n then spare w k (srcPrio s n) else w)
    respond u (if may then 0 else 2)

/-- INTC_SRC_WRITE (R156 to R158, R160). -/
def execIntcSrcWrite (q : Req) (n : Fin 512) (v : Word) (s : State) : Out := ok (srcWrite s q n.val v)

/-- A write of INTC_CTRL (R147, R157). -/
def pholdWrite (s : State) (q : Req) (b : Bool) : State :=
  if !holdsType s q 5 then respond s 2
  else
    let t := wb s intcCtrl intcCtrlPHOLD b
    let hide (u : State) (k : Nat) : State :=
      let n := rf u (intcCorests k) intcCorestsPRES
      if u.intc.offered.contains k && !srcMsg n && !srcCl u n then mayWithdraw u k else u
    respond (if b && !rb s intcCtrl intcCtrlPHOLD then forN 10 t hide else t) 0

/-- INTC_PHOLD_WRITE (R147, R156). -/
def execIntcPholdWrite (q : Req) (hold : Bool) (s : State) : Out := ok (pholdWrite s q hold)

/-- INTC_SRC[n] as a read returns it (R143, R160, R161). -/
def srcRead (s : State) (n : Nat) : Word :=
  let w := rd s (intcSrc n)
  let w := intcSrcPEND.put w (b2n (srcPending s n))
  let w := intcSrcKIND.put w (b2n (srcCount n))
  let w := intcSrcCLASS.put w (b2n (srcMsg n))
  let w := intcSrcACTIVE.put w (b2n (srcActive s n))
  if n = 447 then intcSrcTGT.put (intcSrcPRIO.put (intcSrcLVL.put w 1) 15) 0x100 else w

/-- INTC_PEND[w] as a read returns it. -/
def pendRead (s : State) (w : Nat) : Word :=
  BitVec.ofNat 48 ((List.range 32).foldl (fun a j => if srcPending s (32 * w + j) then a + 2 ^ j else a) 0)

/-- INTC_GHOLD[q] as a read returns it: the remaining time in 100 ns units, rounded up (R153, R161). -/
def gholdRead (s : State) (q : Nat) : Word :=
  let e := tget 0 s.intc.holdEnd q
  let w := rd s (intcGhold q)
  if e = 0 then w
  else intcGholdREMAIN.put (intcGholdRUN.put w 1) ((e - 2 * s.port + 59) / 60)

/-- INTC_CORESTS[k] as a read returns it, before SPUR clears (R150, R161). -/
def corestsRead (s : State) (k : Nat) : Word :=
  let w := rd s (intcCorests k)
  let w := intcCorestsCLSVC.put w (b2n (clService s k))
  let w := intcCorestsNEST.put w (servedBy s k).length
  intcCorestsRUNPRIO.put w (runPrio s k)

end Sys2Proof.Machine
end

