-- ==== Sys2Proof/Machine/DbgBase.lean ====
section
/-! DEFINITION. Stopped cores and the halted block, as the platform controller needs them (R514, R518 to R520). -/

namespace Sys2Proof.Machine

/-- Change the debug port beside its registers. -/
def onDbg (s : State) (f : Dbg → Dbg) : State := { s with dbg := f s.dbg }

/-- CAP as it acts (R514). -/
def dbgCap (s : State) : Nat := if s.dbg.cap = 3 then 0 else s.dbg.cap

/-- The level granted by firmware: 3 acts as 0 (R524). -/
def dbgGrant (s : State) : Nat :=
  let g := rf s dbgCtrl dbgCtrlGRANT
  if g = 3 then 0 else g

/-- LEVEL (R514). -/
def dbgLevel (s : State) : Nat := min (max s.dbg.auth (dbgGrant s)) (dbgCap s)

/-- Core k stops for the debugger (R520): reasons 1 STOP, 2 breakpoint, 3 watchpoint, 4 step. -/
def coreStop (s : State) (k reason : Nat) : State :=
  let s := coreYield s k
  let t := setCore s k { coreOf s k with stopped := true, dbgStep := false }
  let t := wb (wf (wb t (dbgCorectl k) dbgCorectlSTOPPED true) (dbgCorectl k) dbgCorectlREASON reason) (dbgCorectl k) dbgCorectlCSTOP true
  let t := wf t (dbgCsel k) dbgCselCSTEP (coreOf s k).step
  let t := intcCoreLost (unitStrobe (onDbg t (fun d => { d with stops := d.stops.erase k, wps := d.wps.erase k })) 53 482) k
  if k = 8 && pdLive t 49 then svenClear t else t

/-- The running cores halt with the block: their presentations and services end, and SVEN clears with SV0 (R159, R463). -/
def coresHalt (s : State) : State :=
  forN 10 s (fun t k =>
    if !coreLive s k then t
    else
      let u := intcCoreLost t k
      if k = 8 && pdLive u 49 then svenClear u else u)

/-- A stopped core continues from its PC (R520). -/
def coreResume (s : State) (k : Nat) : State :=
  let t := if (coreOf s k).stopped then
      wb (setCore s k { coreOf s k with stopped := false, dbgStep := false }) (dbgCorectl k) dbgCorectlSTOPPED false else s
  onDbg t (fun d => { d with stops := d.stops.erase k, skip := k :: d.skip.erase k })

/-- Every stopped core resumes (R514, R520). -/
def resumeAll (s : State) : State := (List.range 10).foldl coreResume s

/-- A block halt ends: the clocks start and the debug-halt source clears (R519). -/
def haltEnd (s : State) : State :=
  let t := onDbg { s with halted := false, running := s.running || (s.halted && s.pctl.pll && !s.pctl.lol) }
    (fun d => { d with src := false, wait := none, stepTo := none })
  driveSync t

/-- LEVEL has changed: below FULL, stopped cores resume and a halt ends (R514). -/
def levelCheck (s : State) : State :=
  if dbgLevel s < 2 then haltEnd (resumeAll s) else s

/-- PD53 leaves ON (R454, R520). -/
def dbgLost (s : State) : State := cptLost (resumeAll s) 11

/-- State of the debug port that PD53 holds, after its wake. -/
def dbgWake (s : State) : State :=
  onDbg s (fun d => { d with chal := [], chalOk := false, resp := [], check := none, maddr := 0, acc := 0, accW := 0,
                             rcode := 0, vtOut := none, vtIn := none, stops := [], skip := [], wps := [] })

end Sys2Proof.Machine
end

