-- ==== Sys2Proof/Machine/Sha.lean ====
section
/-! DEFINITION. SHA-256 and HMAC-SHA-256 over words (R484, R515), as FIPS 180-4 and FIPS 198-1 give them. -/

namespace Sys2Proof.Machine

/-- The first 64 prime numbers. -/
def shaPrimes : List Nat :=
  (List.range 312).filter (fun n => 2 ≤ n && [2, 3, 5, 7, 11, 13, 17].all (fun d => n % d != 0 || n == d))

/-- The largest number below 2^35 whose power `e` does not exceed `n`, bit by bit from the highest. -/
def shaRoot (e n : Nat) : Nat :=
  (List.range 35).foldl (fun r i => if (r + 2 ^ (34 - i)) ^ e ≤ n then r + 2 ^ (34 - i) else r) 0

/-- The first 32 bits of the fractional part of the root of a prime. -/
def shaFrac (e p : Nat) : BitVec 32 := BitVec.ofNat 32 (shaRoot e (p * 2 ^ (32 * e)))

/-- The round constants: from the cube roots of the first 64 primes (FIPS 180-4, 4.2.2). -/
def shaK : List (BitVec 32) := shaPrimes.map (shaFrac 3)

/-- The initial hash value: from the square roots of the first eight primes (FIPS 180-4, 5.3.3). -/
def shaInit : List (BitVec 32) := (shaPrimes.take 8).map (shaFrac 2)

/-- Logical functions of FIPS 180-4, 4.1.2. -/
def shaS0 (x : BitVec 32) : BitVec 32 := x.rotateRight 2 ^^^ x.rotateRight 13 ^^^ x.rotateRight 22
def shaS1 (x : BitVec 32) : BitVec 32 := x.rotateRight 6 ^^^ x.rotateRight 11 ^^^ x.rotateRight 25
def shaG0 (x : BitVec 32) : BitVec 32 := x.rotateRight 7 ^^^ x.rotateRight 18 ^^^ (x >>> 3)
def shaG1 (x : BitVec 32) : BitVec 32 := x.rotateRight 17 ^^^ x.rotateRight 19 ^^^ (x >>> 10)

/-- The next word of the message schedule; `w` holds the words so far, latest first. -/
def shaNext (w : List (BitVec 32)) : BitVec 32 :=
  shaG1 (w.getD 1 0) + w.getD 6 0 + shaG0 (w.getD 14 0) + w.getD 15 0

/-- The schedule of a block of 16 words. -/
def shaSchedule (b : List (BitVec 32)) : List (BitVec 32) :=
  ((List.range 48).foldl (fun w _ => shaNext w :: w) b.reverse).reverse

/-- One round: the working variables a to h. -/
def shaRound (v : List (BitVec 32)) (k w : BitVec 32) : List (BitVec 32) :=
  match v with
  | [a, b, c, d, e, f, g, h] =>
    let t1 := h + shaS1 e + ((e &&& f) ^^^ (~~~e &&& g)) + k + w
    let t2 := shaS0 a + ((a &&& b) ^^^ (a &&& c) ^^^ (b &&& c))
    [t1 + t2, a, b, c, d + t1, e, f, g]
  | _ => v

/-- The hash value after a block. -/
def shaBlock (h b : List (BitVec 32)) : List (BitVec 32) :=
  let r := (shaK.zip (shaSchedule b)).foldl (fun v p => shaRound v p.1 p.2) h
  (h.zip r).map (fun p => p.1 + p.2)

/-- A message word from its bytes, first byte highest. -/
def shaWord (b : List Nat) : BitVec 32 := BitVec.ofNat 32 (b.foldl (fun n x => n * 256 + x) 0)

/-- The 16 words of block i of a padded message. -/
def shaWords (m : List Nat) : List (BitVec 32) := (List.range 16).map (fun j => shaWord ((m.drop (4 * j)).take 4))

/-- Hash the first `n` blocks of a padded message. -/
def shaBlocks : Nat → List (BitVec 32) → List Nat → List (BitVec 32)
  | 0, h, _ => h
  | n + 1, h, m => shaBlocks n (shaBlock h (shaWords (m.take 64))) (m.drop 64)

/-- Blocks of a padded message of `n` bytes. -/
def shaCount (n : Nat) : Nat := (n + 8) / 64 + 1

/-- The message with its padding: 0x80, zeros and its length in bits. -/
def shaPad (m : List Nat) : List Nat :=
  m ++ 0x80 :: List.replicate (64 * shaCount m.length - m.length - 9) 0
    ++ (List.range 8).map (fun i => 8 * m.length / 2 ^ (8 * (7 - i)) % 256)

/-- SHA-256 of bytes: the 32 bytes of the digest in output order. -/
def sha256 (m : List Nat) : List Nat :=
  (shaBlocks (shaCount m.length) shaInit (shaPad m)).flatMap (fun x =>
    (List.range 4).map (fun i => x.toNat / 2 ^ (8 * (3 - i)) % 256))

/-- The 6 bytes of each word, least significant first (R336, R484). -/
def wordBytes (ws : List Word) : List Nat :=
  ws.flatMap (fun w => (List.range 6).map (fun i => w.toNat / 2 ^ (8 * i) % 256))

/-- Word w of a digest (R484): digest byte j lies in word ⌊j/6⌋ from bit 8 (j mod 6). -/
def digestWord (d : List Nat) (w : Nat) : Word :=
  BitVec.ofNat 48 ((List.range 6).foldl (fun n i => n + d.getD (6 * w + i) 0 * 2 ^ (8 * i)) 0)

/-- A digest as six words (R484). -/
def digestWords (d : List Nat) : List Word := (List.range 6).map (digestWord d)

/-- The digest of words (R484). -/
def wordsDigest (ws : List Word) : List Word := digestWords (sha256 (wordBytes ws))

/-- HMAC-SHA-256 of bytes under a key of at most 64 bytes (R515). -/
def hmac (key msg : List Nat) : List Nat :=
  let k := key ++ List.replicate (64 - key.length) 0
  sha256 (k.map (· ^^^ 0x5c) ++ sha256 (k.map (· ^^^ 0x36) ++ msg))

end Sys2Proof.Machine
end

