-- ==== Sys2Proof/Machine/Ssp.lean ====
section
/-! DEFINITION. Switching-state predictor: enabling, triggers, evaluations, postings and retractions
(R91 to R110). -/

namespace Sys2Proof.Machine

/-- A register of a cell as a signed value. -/
def sspVal (s : State) (a : Nat) : Int := sint (rd s a)

/-- Number of state components. -/
def cellNx (s : State) (c : Nat) : Nat := rf s (sspCcfg c) sspCcfgNX

/-- Number of candidates (R92). -/
def cellCands (s : State) (c : Nat) : Nat :=
  if rb s (sspCcfg c) sspCcfgENUM then rf s (sspCcfg c) sspCcfgNC else 2 ^ cellW s c

/-- The candidate at an enumeration position (R92). -/
def cellCand (s : State) (c k : Nat) : Nat :=
  if rb s (sspCcfg c) sspCcfgENUM then rf s (sspClist c k) sspClistCAND else k

/-- A term's coefficient, if the term is enabled for (i, j) (R93). -/
def termOn (s : State) (c i j t : Nat) : Bool :=
  rb s (sspTidx c t) sspTidxEN && rf s (sspTidx c t) sspTidxI == i && rf s (sspTidx c t) sspTidxJ == j

/-- The configuration check of R105. -/
def cellCheck (s : State) (c : Nat) : Bool :=
  let nx := cellNx s c
  let w := cellW s c
  let nc := rf s (sspCcfg c) sspCcfgNC
  let per := rf s (sspCper c) sspCperPER
  decide (1 ≤ nx ∧ nx ≤ 8 ∧ 1 ≤ w ∧ w ≤ 8) &&
  (if rb s (sspCcfg c) sspCcfgENUM then
      decide (1 ≤ nc ∧ nc ≤ 64) &&
        (List.range nc).all (fun k => rf s (sspClist c k) sspClistCAND < 2 ^ w)
    else decide (w ≤ 6)) &&
  (List.range 32).all (fun t => !rb s (sspTidx c t) sspTidxEN ||
    (decide (rf s (sspTidx c t) sspTidxI < nx) && decide (rf s (sspTidx c t) sspTidxJ < w)
      && decide (rf s (sspTidx c t) sspTidxK < nx))) &&
  decide (rf s (sspCcfg c) sspCcfgTRGI < nx) &&
  decide (per ≠ 0 ∧ rf s (sspCper c) sspCperPHASE < per) &&
  (List.range w).all (fun j => rf s (sspPtmpl c j) sspPtmplOFF < per)

/-- The cell's latest inputs forgotten: each reads zero until a sample arrives (R91). -/
def cellInputsClear (s : State) (c : Nat) : State :=
  { s with ssp := { s.ssp with
      x := s.ssp.x.filter (fun p => p.1 / 8 != c),
      ins := s.ssp.ins.filter (fun p => p.1 / 8 != c) } }

/-- EN of a cell goes from 0 to 1 (R105, R95, R119). -/
def cellEnable (s : State) (c : Nat) : State :=
  if cellCheck s c then
    let t := wb (cellInputsClear s c) (sspCcfg c) sspCcfgEN true
    let t := wb t (sspCres c) sspCresVALID false
    let x := cellOf s c
    dmResumeAll (setCell t c { Cell.off with rtrq := x.rtrq, armrq := x.armrq, regnt := x.regnt }) 2 c
  else wb s (sspCsts c) sspCstsFORM true

/-- EN of a cell is cleared (R106, R119): a retraction requested in this cycle goes on, without its replacement. -/
def cellDisable (s : State) (c : Nat) : State :=
  let t := wb s (sspCcfg c) sspCcfgEN false
  let t := setCell t c { cellOf t c with queued := none, held := none }
  let t := { t with ssp := { t.ssp with
    ins := t.ssp.ins.filter (fun p => p.1 / 8 != c),
    queue := t.ssp.queue.filter (fun d => d.1 != c),
    runs := t.ssp.runs.map (fun r => if r.cell == c then { r with dead := true } else r),
    repls := t.ssp.repls.filter (fun r => r.cell != c),
    reqs := t.ssp.reqs.map (fun r => if r.cell == c then { r with repl := none } else r),
    outs := t.ssp.outs.filter (fun x => x.cell != c) } }
  dmSuspendAll t 2 c

/-- SSP_CELL_ENABLE (R105): a write of 1 to SSP_CCFG.EN. -/
def execSspCellEnable (q : Req) (c : Fin 8) (s : State) : Out :=
  if !pdOn s 26 then ok (respond s 3)
  else if !holdsType s q 3 then ok (respond s 2)
  else if rb s (sspCcfg c.val) sspCcfgEN then ok (respond s 0)
  else ok (respond (cellEnable s c.val) 0)

/-- SSP_CELL_DISABLE (R106): a write of 0 to SSP_CCFG.EN. -/
def execSspCellDisable (q : Req) (c : Fin 8) (s : State) : Out :=
  if !pdOn s 26 then ok (respond s 3)
  else if !holdsType s q 3 then ok (respond s 2)
  else if !rb s (sspCcfg c.val) sspCcfgEN then ok (respond s 0)
  else ok (respond (cellDisable s c.val) 0)

/-- An evaluation of the cell is running, be it one that will send nothing (R95, R106). -/
def cellRunning (s : State) (c : Nat) : Bool := s.ssp.runs.any (fun r => r.cell == c && !r.known)

/-- The cell has a queued evaluation. -/
def cellQueued (s : State) (c : Nat) : Bool := s.ssp.queue.any (fun q => q.1 == c)

/-- Put a cell into the queue in a CORE cycle: behind the evaluations queued before, and among those of the same cycle
by cell number (R96). -/
def queueCell (q : Nat × Nat) : List (Nat × Nat) → List (Nat × Nat)
  | [] => [q]
  | x :: r => if q.2 < x.2 || (q.2 == x.2 && q.1 < x.1) then q :: x :: r else x :: queueCell q r

/-- A trigger that the cell takes, by the cell's state (R95). -/
def cellTake (s : State) (c : Nat) (tr : DmStart × Nat) : State :=
  let x := cellOf s c
  let flagged := fun t : State => wb t (sspCsts c) sspCstsOVERRUN true
  if cellRunning s c then flagged (setCell s c { x with held := some tr })
  else if cellQueued s c then flagged (setCell s c { x with queued := some tr })
  else
    let t := setCell s c { x with queued := some tr }
    { t with ssp := { t.ssp with queue := queueCell (c, 4 * s.port) t.ssp.queue } }

/-- SSP_TRIGGER (R95, R108): cell c takes the oldest sample presented on its triggering input; with
DECIM = d it takes one in d + 1, the first after its enabling among them (DESIGN CHOICE, log entry 169), and
signals each that it takes to the cadence unit. -/
def execSspTrigger (c : Fin 8) (s : State) : Out :=
  match s.ssp.ins.find? (fun p => p.1 / 8 == c.val) with
  | some (i, tr) =>
    let x := cellOf s c.val
    let t := { s with ssp := { s.ssp with ins := s.ssp.ins.erase (i, tr) } }
    onlyIf (rb s (sspCcfg c.val) sspCcfgEN && pdOn s 26) s (
      if x.skip = 0 then
        let t := setCell t c.val { x with skip := rf s (sspCcfg c.val) sspCcfgDECIM }
        dmStartAll (cellTake t c.val (tr, s.port)) 2 c.val tr
      else setCell t c.val { x with skip := x.skip - 1 })
  | none => ok s

/-! The evaluation (R93, R94). -/

/-- sat(rnd(sum)) of an accumulator value in units of 2^-72, with SAT (R57, R93). -/
def sspRnd (a : Int) : Int × Bool := satInt 48 (rne a 40)

/-- The sum over k < n of f k. -/
def sumTo (n : Nat) (f : Nat → Int) : Int := (List.range n).foldl (fun a k => a + f k) 0

/-- Σk A[i][k] × x[k] + al(E[i]), rounded and saturated (R93). -/
def sspLin (s : State) (c i : Nat) (x : List Int) : Int × Bool :=
  sspRnd (sumTo (cellNx s c) (fun k => sspVal s (sspA c i k) * x.getD k 0) + sspVal s (sspE c i) * 2 ^ 40)

/-- al(F[i][j]) plus the bilinear terms of (i, j), rounded and saturated (R93). -/
def sspCol (s : State) (c i j : Nat) (x : List Int) : Int × Bool :=
  sspRnd (sspVal s (sspF c i j) * 2 ^ 40 + sumTo 32 (fun t =>
    if termOn s c i j t then sspVal s (sspTcoef c t) * x.getD (rf s (sspTidx c t) sspTidxK) 0 else 0))

/-- Sum of a row's columns over the set members of a candidate. -/
def sspPick (w cand : Nat) (row : List Int) : Int :=
  sumTo w (fun j => if cand.testBit j then row.getD j 0 else 0)

/-- Members that change state from `wa` (R93). -/
def nswOf (w cand wa : Nat) : Nat :=
  ((List.range w).filter (fun j => cand.testBit j != wa.testBit j)).length

/-- A weight: a negative one acts as zero (R93). -/
def weight (i : Int) : Nat := i.toNat

/-- Cost of a candidate in units of 2^-32, before saturation (R93). -/
def sspCost (s : State) (c wa cand : Nat) (h : List Int) (g1 : List (List Int)) : Nat :=
  let w := cellW s c
  let sw := weight (sspVal s (sspLambda c)) * nswOf w cand wa
  (List.range (cellNx s c)).foldl (fun j i =>
    let d := h.getD i 0 + sspPick w cand (g1.getD i [])
    j + (weight (sspVal s (sspQ c i)) * (d * d).toNat) / 2 ^ 72) sw

/-- The result of a search: winner's position, candidate and cost, SAT and COSTSAT. -/
structure SspRes where
  win     : Option (Nat × Nat)
  cost    : Nat
  sat     : Bool
  costSat : Bool

/-- The largest cost (R93). -/
def costMax : Nat := 2 ^ 80 - 1

/-- A candidate is excluded (R94). -/
def candExcluded (s : State) (c wa k : Nat) : Bool :=
  let m := rf s (sspCcfg c) sspCcfgMAXSW
  rbit s (sspCmask c (k / 32)) sspCmaskMASK (k % 32)
    || (m != 0 && decide (m < nswOf (cellW s c) (cellCand s c k) wa))

/-- What a search weighs: the free response H less the references, the columns G1, and SAT (R93). -/
structure SspMid where
  h   : List Int
  g1  : List (List Int)
  sat : Bool

/-- The predictions of cell c from inputs `x0`, references `r` and base `wa` (R93). -/
def sspMid (s : State) (c wa : Nat) (x0 r : List Int) : SspMid :=
  let is := List.range (cellNx s c)
  let js := List.range (cellW s c)
  let g := is.map (fun i => sspLin s c i x0)
  let g0 := is.map (fun i => js.map (fun j => sspCol s c i j x0))
  let x1 := is.map (fun i => satInt 48 ((g.getD i (0, false)).1
    + sspPick (cellW s c) wa ((g0.getD i []).map (fun p => p.1))))
  let x1v := x1.map (fun p => p.1)
  let hs := is.map (fun i => sspLin s c i x1v)
  let g1 := is.map (fun i => js.map (fun j => sspCol s c i j x1v))
  ⟨is.map (fun i => (hs.getD i (0, false)).1 - r.getD i 0), g1.map (fun row => row.map (fun p => p.1)),
    g.any (fun p => p.2) || g0.any (fun row => row.any (fun p => p.2)) || x1.any (fun p => p.2)
      || hs.any (fun p => p.2) || g1.any (fun row => row.any (fun p => p.2))⟩

/-- The cost of the candidate at position k, before saturation (R93). -/
def sspCostAt (s : State) (c wa : Nat) (m : SspMid) (k : Nat) : Nat := sspCost s c wa (cellCand s c k) m.h m.g1

/-- An evaluation of cell c from inputs `x0`, references `r` and base `wa` (R93, R94). -/
def sspEval (s : State) (c wa : Nat) (x0 r : List Int) : SspRes :=
  let m := sspMid s c wa x0 r
  let costs := (List.range (cellCands s c)).map (sspCostAt s c wa m)
  let best := (List.range (cellCands s c)).foldl (fun (b : Option (Nat × Nat)) k =>
    if candExcluded s c wa k then b
    else
      let j := min (costs.getD k 0) costMax
      match b with
      | some (_, jb) => if j < jb then some (k, j) else b
      | none => some (k, j)) none
  { win := best.map (fun p => (p.1, cellCand s c p.1)), cost := (best.map (fun p => p.2)).getD 0,
    sat := m.sat, costSat := costs.any (fun j => decide (costMax < j)) }

/-- Cycles of an evaluation in CORE cycles, E of R98. -/
def sspCycles (s : State) (c : Nat) : Nat :=
  44 + ((cellCands s c + 31) / 32) * (cellNx s c * (cellW s c + 2) + 4)

/-- REFi of cell c as latched at dispatch (R48, R93). -/
def cellRef (s : State) (c i : Nat) : Int :=
  match rf s (sspRefsrc c i) sspRefsrcKIND with
  | 1 => sint (tget 0 s.ssp.refPt (8 * c + i))
  | 2 => sint (tget 0 s.ae.yOut (rf s (sspRefsrc c i) sspRefsrcSRC % 1024))
  | _ => 0

/-- The cell's latest posting that is armed, was not retracted in time, and of which the host has not reported all executed
(R97). The latest is the one handed over last (DESIGN CHOICE, log entry 185). -/
def armedPost (s : State) (c : Nat) : Option Posting :=
  (s.ssp.posts.filter (fun x => x.cell == c && postArmed s x && !x.gone)).getLast?

/-- The base candidate wa (R97): CVP_APPLIED for the first evaluation after a grant rise (R107). -/
def cellBase (s : State) (c : Nat) : Nat :=
  match if (cellOf s c).regnt then none else armedPost s c with
  | some x => x.cand
  | none => (List.range (cellW s c)).foldl (fun a j =>
      if appliedOf s (memberPair s c j) == 2 then a + 2 ^ j else a) 0

/-- The start of the cell's period in progress. -/
def periodNow (s : State) (c : Nat) : Nat :=
  targetStart (rf s (sspCper c) sspCperPER) (rf s (sspCper c) sspCperPHASE) (s.port * 128) false
    - rf s (sspCper c) sspCperPER

/-- The CORE cycle from which lane l is free: the end of the evaluation that it runs (R98). -/
def laneFrom (s : State) (l : Nat) : Nat := (s.ssp.runs.filter (fun r => r.lane == l)).foldl (fun m r => max m r.ends) 0

/-- The lanes that are ON; lanes 2 and 3 lie in PD27 (R107). -/
def lanesOn (s : State) : List Nat := (List.range 4).filter (fun l => l < 2 || pdOn s 27)

/-- The lane that takes an evaluation which may be dispatched from CORE cycle `from_` on, and the CORE cycle of its
dispatch, if that lies in this PORT cycle: the lowest-numbered lane that is free by then, else the one that is free
first (R96). -/
def freeLane (s : State) (from_ : Nat) : Option (Nat × Nat) :=
  let first := (lanesOn s).foldl (fun m l => min m (laneFrom s l)) (4 * s.port + 4)
  let at_ := max from_ first
  if 4 * s.port + 4 ≤ at_ then none
  else ((lanesOn s).find? (fun l => laneFrom s l ≤ at_)).map (fun l => (l, at_))

/-- The CORE cycle from which the evaluation at the head of the queue may be dispatched: 2 cycles after its trigger was
presented, not before it was queued, and not before this PORT cycle (R96). -/
def dispatchFrom (s : State) (pres queued : Nat) : Nat := max (max (4 * pres + 2) queued) (4 * s.port)

/-- SSP_CTRL.BUSY follows the lanes: bit l is 1 while lane l runs an evaluation (R110). -/
def busySync (s : State) : State :=
  (List.range 4).foldl (fun t l => wbit t sspCtrl sspCtrlBUSY l (decide (4 * s.port < laneFrom s l))) s

/-- SSP_DISPATCH (R96 to R98): the evaluation queued first goes to a lane, latches its inputs,
references and base candidate, and searches. Its lane is free again and its result known from CORE cycle s + E; its
words are handed over at the PORT edge that R98 gives (`sspTick`). -/
def execSspDispatch (s : State) : Out :=
  match s.ssp.queue with
  | [] => ok s
  | (c, qat) :: rest =>
    match (cellOf s c).queued with
    | none => ok s
    | some (tr, pres) =>
    match freeLane s (dispatchFrom s pres qat) with
    | none => ok s
    | some (l, start) =>
      let wa := cellBase s c
      let x0 := (List.range (cellNx s c)).map (fun i => sint (tget 0 s.ssp.x (8 * c + i)))
      let r := (List.range (cellNx s c)).map (cellRef s c)
      let e := sspEval s c wa x0 r
      let run : SspRun := ⟨l, c, tr, pres, cellTarget s c tr, wa, e.win, e.cost, e.sat,
        e.costSat, start + sspCycles s c, false, (start + sspCycles s c + 2 + 3) / 4, false⟩
      let rebased := match (cellOf s c).intent.find? (fun p => p.1 == periodNow s c) with
        | some (_, w) => w != wa
        | none => false
      let t := cellFlag s c sspCstsREBASED rebased
      let t := setCell t c { cellOf t c with queued := none, regnt := false }
      let t := wbit t sspCtrl sspCtrlBUSY l true
      onlyIf (pdOn s 26 && s.running) s
        { t with ssp := { t.ssp with queue := rest, runs := t.ssp.runs ++ [run] } }

/-- A posting of the cell stands for the target (R120). -/
def postFor (s : State) (c p : Nat) : Bool := (cellPosts s c).any (fun x => x.p == p)

/-- An evaluation drops its posting: NOPOST, counted and signalled (R101, R120). -/
def sspNopost (s : State) (c p : Nat) (tr : DmStart) : State :=
  dmNopost (cellNopost s c) c tr (postFor s c p)

/-- Post `cand` for target p in the present cycle (R100, R101, R108). -/
def sspPost (s : State) (c p cand : Nat) (tr : DmStart) : State :=
  match makePosting s c p cand s.port with
  | some t => dmEndCell t c
  | none => sspNopost s c p tr

/-- The requests with one more: a second one on the same tag in one cycle is the same request (R30, R104). -/
def addReq (l : List SspReq) (r : SspReq) : List SspReq :=
  if l.any (fun x => x.tag == r.tag && x.cyc == r.cyc) then
    l.map (fun x => if x.tag == r.tag && x.cyc == r.cyc then
      { x with retr := x.retr || r.retr, arm := x.arm || r.arm, repl := x.repl <|> r.repl } else x)
  else l ++ [r]

/-- The cell requests something of the CVP in the present cycle; a retraction that was not requested already is counted
(R29, R30, R102, R104). -/
def sspRequest (s : State) (r : SspReq) : State :=
  let again := s.ssp.reqs.any (fun x => x.tag == r.tag && x.cyc == r.cyc && x.retr)
  let t := if r.retr && !again then inc s (sspCcnt r.cell) sspCcntRETR else s
  { t with ssp := { t.ssp with reqs := addReq t.ssp.reqs r } }

/-- A posting is on its way out: its retraction was sent (R102, R104). -/
def postGone (s : State) (tag : Nat) : State :=
  { s with ssp := { s.ssp with posts := s.ssp.posts.map (fun x => if x.tag == tag then { x with gone := true } else x) } }

/-- The CVP acts on a request in the cycle after it (R29, R30, R102, R103): it strobes the retraction, or withholds it,
whereupon the posting stands, LATE_RETRACT is set and LATE counted, and not NOPOST too (DESIGN CHOICE, log entry
186); an early arm of the same tag is sent only where the retraction is not. -/
def sspStrobe (s : State) (r : SspReq) : State :=
  if !r.retr then cvpArm s r.tag
  else
    let t := cvpRetract s r.tag r.cyc
    if retractLate s r.tag r.cyc then
      let t := dmEndCell (inc (wb t (sspCsts r.cell) sspCstsLATERETRACT true) (sspCcnt r.cell) sspCcntLATE) r.cell
      if r.arm then cvpArm t r.tag else t
    else
      let t := postGone t r.tag
      { t with ssp := { t.ssp with repls := t.ssp.repls ++ r.repl.toList } }

/-- The winner for a target that already has an unarmed posting (R102): SAME, or a retraction, which the CVP judges, and
a replacement 8 cycles later. -/
def sspRefine (s : State) (x : Posting) (run : SspRun) (cand : Nat) : State :=
  let c := run.cell
  if x.cand = cand then dmEndCell (inc s (sspCcnt c) sspCcntSAME) c
  else sspRequest s ⟨c, x.tag, s.port, true, false, some ⟨c, run.p, cand, run.trig, s.port + 8⟩⟩

/-- A known winner is posted, refined or withheld (R100 to R103, R107). The words of an evaluation that a HOLD replaced
are discarded, and its hand-over is signalled all the same: it ends the check (R115, R122). -/
def sspSend (s : State) (run : SspRun) (cand : Nat) : State :=
  let c := run.cell
  let tau := run.trig.tau
  if sspShadow s then s
  else if (cellOf s c).drop.contains tau then
    dmEndCell (setCell s c { cellOf s c with drop := (cellOf s c).drop.erase tau }) c
  else match (cellPosts s c).find? (fun x => x.p == run.p && !postArmed s x) with
    | some x => sspRefine s x run cand
    | none => sspPost s c run.p cand run.trig

/-- The time from presentation to hand-over, in CORE cycles (R98). -/
def sspLatency (s : State) (run : SspRun) : State :=
  let lat := min (4 * (s.port - run.pres)) 0xFFFF
  maxTo (wf s (sspClat run.cell) sspClatLAST lat) (sspClat run.cell) sspClatMAX lat

/-- What an evaluation leaves in the cell's registers once its winner is known (R93, R94, R110). One that began before
the cell was last enabled leaves VALID and the intended candidates alone. -/
def sspResult (s : State) (run : SspRun) : State :=
  let c := run.cell
  let t := cellFlag (cellFlag s c sspCstsSAT run.sat) c sspCstsCOSTSAT run.costSat
  let t := if run.dead then t else wb t (sspCres c) sspCresVALID true
  match run.win with
  | some (k, cand) =>
    let t := wf (wf t (sspCres c) sspCresWIN k) (sspCres c) sspCresBASE run.base
    let t := wr (wr t (sspCcost c 0) (BitVec.ofNat 48 (run.cost % 2 ^ 48)))
      (sspCcost c 1) (BitVec.ofNat 48 (run.cost / 2 ^ 48))
    let old := periodNow s c
    if run.dead then t
    else setCell t c { cellOf t c with
      lastP := run.p
      intent := (cellOf t c).intent.filter (fun p => p.1 != run.p && old ≤ p.1) ++ [(run.p, cand)] }
  | none => t

/-- The held trigger of a cell is queued in the CORE cycle after the evaluation's last one, `ends` (R95, R98). -/
def cellUnhold (s : State) (c ends : Nat) : State :=
  match (cellOf s c).held with
  | some tr =>
    let t := setCell s c { cellOf s c with held := none, queued := some tr }
    { t with ssp := { t.ssp with queue := queueCell (c, ends) t.ssp.queue } }
  | none => s

/-- An evaluation has ended: its lane is free and its result known (R95, R98). -/
def sspKnown (s : State) (run : SspRun) : State :=
  let t := { s with ssp := { s.ssp with runs := s.ssp.runs.map (fun r => if r == run then { r with known := true } else r) } }
  cellUnhold (sspResult t run) run.cell run.ends

/-- The words of an evaluation are handed over (R98), or its posting is dropped. -/
def sspComplete (s : State) (run : SspRun) : State :=
  let t := { s with ssp := { s.ssp with runs := s.ssp.runs.erase run } }
  let t := sspLatency t run
  if run.dead then t
  else match run.win with
    | some (_, cand) => sspSend t run cand
    | none => sspNopost (wb t (sspCsts run.cell) sspCstsNOCAND true) run.cell run.p run.trig

/-- A replacement posting's cycle has come (R102); under SHADOW it is not posted (R107). -/
def sspReplace (s : State) (r : SspRepl) : State :=
  let t := { s with ssp := { s.ssp with repls := s.ssp.repls.erase r } }
  if sspShadow s then t else sspPost t r.cell r.p r.cand r.trig

/-- The requests that RTRQ and ARMRQ of cell c have latched are made (R104); under SHADOW no retraction is (R107). -/
def cellRequests (s : State) (c : Nat) : State :=
  let x := cellOf s c
  let t := wb (wb s (sspCcfg c) sspCcfgRTRQ false) (sspCcfg c) sspCcfgARMRQ false
  let t := setCell t c { x with rtrq := none, armrq := none }
  let t := match x.rtrq with
    | some g => if sspShadow s then t else sspRequest t ⟨c, g, s.port, true, false, none⟩
    | none => t
  match x.armrq with
  | some g => sspRequest t ⟨c, g, s.port, false, true, none⟩
  | none => t

/-- What cell c hands over in the present cycle: the words of a HOLD, those of its evaluation and its replacement posting
(R98, R102, R122). -/
def cellHandover (s : State) (c : Nat) : State :=
  let due := fun (x : PostHand) => x.cell == c && x.at_ ≤ s.port
  let s := (s.ssp.outs.filter due).foldl postOut { s with ssp := { s.ssp with outs := s.ssp.outs.filter (fun x => !due x) } }
  let t := (s.ssp.runs.filter (fun r => r.cell == c && r.done ≤ s.port)).foldl sspComplete s
  (t.ssp.repls.filter (fun r => r.cell == c && r.at_ ≤ t.port)).foldl sspReplace t

/-- One PORT cycle of the predictor: the CVP acts on the requests of the cycle before; evaluations that have ended are
known; requests are made and words handed over, cells ascending (R98, R100, R104). While a half is not live nothing of
it goes on. -/
def sspTick (s : State) : State :=
  let s := earlyArmTick s
  if !pdLive s 26 then s
  else
    let t := s.ssp.reqs.foldl sspStrobe { s with ssp := { s.ssp with reqs := [] } }
    let t := (t.ssp.runs.filter (fun r => !r.known && r.ends ≤ 4 * t.port)).foldl sspKnown t
    let t := if s.ssp.runs.isEmpty then t else busySync t
    let t := ((List.range 8).filter (fun c => (cellOf t c).rtrq.isSome || (cellOf t c).armrq.isSome)).foldl cellRequests t
    ((List.range 8).filter (fun c => t.ssp.runs.any (fun r => r.cell == c) || t.ssp.repls.any (fun r => r.cell == c) ||
      t.ssp.outs.any (fun x => x.cell == c))).foldl
      cellHandover t

/-- The cell's earliest unarmed posting (R104). -/
def earliestPost (s : State) (c : Nat) : Option Posting :=
  ((cellPosts s c).filter (fun x => !postArmed s x)).foldl (fun b x =>
    match b with
    | some y => if x.p < y.p then some x else b
    | none => some x) none

/-- RTRQ (R104, R110): retraction of the earliest unarmed posting, requested in the next PORT cycle; the bit reads 1
until then. The posting is the one that is earliest at the write (DEDUCED, log entry 170). -/
def sspRtrq (s : State) (c : Nat) : State :=
  match earliestPost s c with
  | some x => setCell (wb s (sspCcfg c) sspCcfgRTRQ true) c { cellOf s c with rtrq := some x.tag }
  | none => s

/-- ARMRQ (R104, R110): early arm of that posting (R30), requested in the next PORT cycle. -/
def sspArmrq (s : State) (c : Nat) : State :=
  match earliestPost s c with
  | some x => setCell (wb s (sspCcfg c) sspCcfgARMRQ true) c { cellOf s c with armrq := some x.tag }
  | none => s

/-- SSP_RTRQ (R104). -/
def execSspRtrq (c : Fin 8) (s : State) : Out :=
  if !pdOn s 26 then ok (respond s 3) else ok (respond (sspRtrq s c.val) 0)

/-- SSP_ARMRQ (R104). -/
def execSspArmrq (c : Fin 8) (s : State) : Out :=
  if !pdOn s 26 then ok (respond s 3) else ok (respond (sspArmrq s c.val) 0)

/-- The arm cycle of the tag has come and was not yet acted on. -/
def armDue (s : State) (tag : Nat) : Bool :=
  s.ssp.posts.any (fun x => x.tag == tag && x.arm ≤ s.port &&
    (!x.left || s.cvp.tags.any (fun l => l.tag == tag && !l.gone && (!l.armed || l.early))))

/-- TAG_ARM_CYCLE (R28, R101): the tag arms, SSPARM fires, and a tag of which no word has left is
released. -/
def execTagArmCycle (tag : Fin 32) (s : State) : Out :=
  let g := tag.val
  let cells := (s.ssp.posts.filter (fun x => x.tag == g && !x.gone)).map (fun x => x.cell)
  let t := tagArm s g false
  let t := { t with cvp := { t.cvp with tags := t.cvp.tags.map (fun l =>
    if l.tag == g then { l with early := false } else l) } }
  let t := cells.foldl (fun t c => semFire t (0x090 + c)) t
  let void := s.ssp.posts.any (fun x => x.tag == g && !x.left)
  let t := if void then
      { t with
        cvp := { t.cvp with tags := t.cvp.tags.filter (fun l => l.tag != g) },
        ssp := { t.ssp with posts := t.ssp.posts.filter (fun x => x.tag != g) } }
    else t
  onlyIf (s.running && armDue s g) s (tagRelease t)

end Sys2Proof.Machine
end

