-- ==== Sys2Proof/Machine/Pctl.lean ====
section
/-! DEFINITION. Clocks, power domains, resets and boot (R470 to R488). -/

namespace Sys2Proof.Machine

/-- Change PCTL beside its registers. -/
def onPctl (s : State) (f : Pctl → Pctl) : State := { s with pctl := f s.pctl }

/-- System type of the platform controller. -/
def otPctl : Nat := 13

/-! Domains (R472, R475). -/

/-- Memory domains. -/
def memDomain (d : Nat) : Bool := (8 ≤ d && d < 16) || (28 ≤ d && d < 44)

/-- The domain that domain d requires ON (R475). -/
def pdNeeds (d : Nat) : Option Nat :=
  if d < 8 then some (8 + d) else if d = 27 then some 26 else if d = 44 || d = 45 then some 54
  else if d = 55 then some 53 else none

/-- The domains that require domain d ON. -/
def pdDependants (d : Nat) : List Nat := (List.range 56).filter (fun x => pdNeeds x == some d)

/-- The core of a core's domain. -/
def coreOfPd (d : Nat) : Option Nat := if d < 8 then some d else if d = 16 then some 8 else if d = 17 then some 9 else none

/-- STATE of domain d. -/
def pdState (s : State) (d : Nat) : Nat := rf s (pctlPd d) pctlPdSTATE

/-- What is under way in domain d. -/
def pdRun (s : State) (d : Nat) : PdRun := tget PdRun.idle s.pctl.dom d

/-- Change it. -/
def setPdRun (s : State) (d : Nat) (r : PdRun) : State :=
  onPctl s (fun p => { p with dom := tset PdRun.idle p.dom d r })

/-- The interconnect port of a hardware master's domain (R267). -/
def pdPort (d : Nat) : Nat :=
  match d with
  | 44 => 20
  | 45 => 21
  | 46 => 22
  | 47 => 18
  | 49 => 25
  | 53 => 27
  | _ => 99

/-- A host transaction belongs to the unit of domain d. -/
def pdUse (d : Nat) (h : HmpUse) : Bool :=
  match coreOfPd d, h with
  | some k, .coreLoad j _ _ => j == k
  | some k, .coreStore j => j == k
  | some k, .fill j _ => j == k
  | some k, .writeBack j _ => j == k
  | some k, .unit p _ => k == 8 && p == 23
  | none, .unit p _ => p == pdPort d
  | _, _ => false

/-- The unit of domain d has a host transaction on its way. -/
def pdHmp (s : State) (d : Nat) : Bool := (s.ports.wait ++ s.ports.out).any (fun x => pdUse d x.use)

/-- The address ranges of a memory domain's arrays (R263). -/
def pdArrays (d : Nat) : List (Nat × Nat) :=
  if 8 ≤ d && d < 16 then
    [(0x100000 + (d - 8) * 0x10000, 0x110000 + (d - 8) * 0x10000), (0x180000 + (d - 8) * 0x8000, 0x188000 + (d - 8) * 0x8000)]
  else if 28 ≤ d && d < 44 then [((d - 28) * 0x10000, (d - 27) * 0x10000)]
  else if 18 ≤ d && d < 26 then [(0x200000 + (d - 18) * 0x2000, 0x202000 + (d - 18) * 0x2000)]
  else []

/-- The contents of domain d's arrays are lost, and cleared at its wake (R276). -/
def arraysClear (s : State) (d : Nat) : State :=
  (pdArrays d).foldl (fun t r =>
    let u := memClear t r.1 r.2
    { u with msys := { u.msys with
        upsets := u.msys.upsets.filter (fun p => !((r.1 ≤ p.1 && p.1 < r.2) ||
          (2 ^ 40 + r.1 / 2 ≤ p.1 && p.1 < 2 ^ 40 + r.2 / 2))),
        queue := u.msys.queue.filter (fun a => !(r.1 ≤ a && a < r.2)) } }) s

/-! The WAKE reset condition (R13, R42). -/

/-- A register resets at WAKE of domain d. -/
def wakesWith (d a : Nat) : Bool :=
  match regFind a with
  | some (r, ix) => r.cond == .wake && (match r.area with
    | .pd e => e == d
    | .ae => 18 + ix.getD 0 0 == d
    | .aon => false)
  | none => false

/-- Fields of the registers shared by both halves of the CVP that reset at WAKE of PD51 and of PD52 (R42). -/
def cvpHalf (d : Nat) : List (Nat × Fld) :=
  if d = 51 then
    [(cvpCtrl, cvpCtrlSTALE), (cvpLaneen, cvpLaneenINGEN), (cvpEvsts, cvpEvstsSMPPARITY), (cvpEvsts, cvpEvstsSMPSTALE),
     (cvpEvsts, cvpEvstsSMPUNCAL), (cvpEvsts, cvpEvstsSAT), (cvpEvcnt, cvpEvcntSMPBAD), (cvpEvcnt, cvpEvcntSMPOLD),
     (cvpLnsts, cvpLnstsINERR)]
  else if d = 52 then
    [(cvpCtrl, cvpCtrlLEAD), (cvpLaneen, cvpLaneenEGEN), (cvpEvsts, cvpEvstsEDGECLAMPED), (cvpEvsts, cvpEvstsEDGEDROPPED),
     (cvpEvsts, cvpEvstsAPPLIEDMISMATCH), (cvpEvsts, cvpEvstsLATERETRACT), (cvpEvsts, cvpEvstsNOZVS),
     (cvpEvcnt, cvpEvcntDROP), (cvpEvcnt, cvpEvcntLATE), (cvpLnsts, cvpLnstsEGERR)]
  else []

/-- Apply the WAKE reset condition to the registers of domain d. The monitors of slots and cells that it disables are
suspended (R119), and an engine's slots leave their phase groups (R86). -/
def wakeRegs (s : State) (d : Nat) : State :=
  let t := (cvpHalf d).foldl (fun t p => wf t p.1 p.2 (p.2.get (regDefault t.par t.lvl p.1)))
    { s with regs := s.regs.filter (fun p => !wakesWith d p.1) }
  let t := if 18 ≤ d && d ≤ 25 then (List.range 4).foldl phsSync t else t
  if 18 ≤ d && d ≤ 26 then dmSuspendOff t else t

/-! Loss of a unit's state (R474, R478). -/

/-- A core's state is lost: it is held in reset (R479). -/
def coreReset (s : State) (k : Nat) : State :=
  let t := hmpDrop (setCore s k (Core.woken k)) (pdUse (coreDomain k))
  let t := if isSv k then setSvc t k Svc.zero else t
  let t := wb (wb t (pctlCorectl k) pctlCorectlRUN false) (pctlCorectl k) pctlCorectlLOCKED false
  let t := wb { t with sig := { t.sig with asyncs := t.sig.asyncs.filter (fun x => x.1 != k) } } (dbgCorectl k) dbgCorectlSTOPPED false
  let t := onDbg t (fun d => { d with stops := d.stops.erase k, skip := d.skip.erase k, wps := d.wps.erase k })
  onPctl t (fun p => { p with go := p.go.erase k })

/-- An engine's state is lost (R43). What other engines' references hold of its outputs stays (R48). -/
def aeReset (s : State) (e : Nat) : State :=
  let mine := fun (n : Nat) => n / 16 == e
  let t := arraysClear s (18 + e)
  { t with ae := { t.ae with
      slots := t.ae.slots.filter (fun p => !mine p.1), rxImg := t.ae.rxImg.filter (fun p => !mine p.1),
      trigs := t.ae.trigs.filter (fun p => !mine p.1), outq := t.ae.outq.filter (fun p => p.1 != e),
      coefq := t.ae.coefq.filter (fun p => p.1 != e), hands := t.ae.hands.filter (fun h => !mine h.slot),
      refPt := t.ae.refPt.filter (fun p => !mine (p.1 / 4)),
      lows := if e = 0 then [] else t.ae.lows, loads := if e = 0 then [] else t.ae.loads } }

/-- The mirror link's WAKE reset: the role is OFF. -/
def mlkLost (s : State) : State := hmpDrop { s with mlk := Mlk.zero, drvWant := false } (pdUse 47)

/-- Everything of the unit of domain d beside its registers and, in a memory domain, its contents is lost. -/
def unitLost (s : State) (d : Nat) : State :=
  match coreOfPd d with
  | some k => coreReset s k
  | none =>
    if 18 ≤ d && d < 26 then aeReset s (d - 18)
    else match d with
      | 26 => { s with ssp := Ssp.zero }
      | 44 => jneLost s
      | 45 => pneLost s
      | 46 => wacLost s
      | 47 => driveSync (mlkLost s)
      | 48 => rlkLost s
      | 49 => cptReset s
      | 50 => { s with sem := { s.sem with fired := [], last := [], binds := [] } }
      | 51 => { s with cvp := { s.cvp with cal := [], calPrev := [] } }
      | 52 => { s with cvp := { s.cvp with queues := [], sentAt := [], edgeOut := [], retrOut := [], armOut := [], tags := [],
                                           expects := [], swn := [], swnCnt := [], released := [] } }
      | 53 => hmpDrop (dbgWake s) (pdUse 53)
      | 55 => { s with sig := { s.sig with traces := [], tlost := 0 } }
      | _ => s

/-- Torn bursts of a unit that is reset with host transactions in progress (R282). -/
def tornBursts (s : State) (d : Nat) : State :=
  (s.ports.out.filter (fun x => pdUse d x.use)).foldl (fun t x =>
    let port := match coreOfPd d with
      | some k => corePort k
      | none => pdPort d
    tornLog t port x.addr x.len x.beats.length x.write) s

/-- Evaluations of a predictor half that are lost send nothing. Those of lanes 2 and 3 count NOPOST, and their cells'
held triggers are queued (R95, R107); with PD26 the cells are lost too, and their checks run out (R119). -/
def sspForced (s : State) (d : Nat) : State :=
  if d = 26 then { s with ssp := { s.ssp with runs := [], queue := [], repls := [], reqs := [] } }
  else
    let gone := s.ssp.runs.filter (fun r => 2 ≤ r.lane)
    let t := { s with ssp := { s.ssp with runs := s.ssp.runs.filter (fun r => r.lane < 2) } }
    busySync (gone.foldl (fun t r =>
      let u := if r.dead then t else sspNopost t r.cell r.p r.trig
      if r.known then u else cellUnhold u r.cell (4 * s.port)) t)

/-- Bursts of the host slave port that are lost with it (R282). -/
def hspTorn (s : State) : State :=
  (s.ports.hspq.filter (fun x => x.acc)).foldl (fun t x =>
    let first := (x.at_.map (· - x.got.length)).bind hspWord
    tornLog t 26 (first.getD 0) (x.got.length + x.left.length) x.got.length x.write) s

/-- FORCED_OUTCOME (R478): what the unit has not completed is lost. Requesters of the host ports receive
UNIT_GONE. -/
def forcedOutcome (s : State) (d : Nat) : State :=
  match d with
  | 26 | 27 => sspForced s d
  | 54 =>
    let gone := (s.ports.out ++ s.ports.wait).map (fun x =>
      { x with beats := x.beats ++ List.replicate (x.len - x.beats.length) (3, 0) })
    let t := hspTorn s
    { t with ports := { t.ports with wait := [], out := [], late := [], torn := [], done := t.ports.done ++ gone,
                                     hspq := t.ports.hspq.filter (fun x => !x.acc) } }
  | _ =>
    let t := hmpDrop (tornBursts s d) (pdUse d)
    { t with ports := { t.ports with
        torn := t.ports.torn ++ (s.ports.out.filter (fun x => pdUse d x.use)).map (fun x => (x.tag, d, x.at_)) } }

/-! Changes of state. -/

/-- Domain d has left ON (R145, R159, R425, R454, R463, R479, R520). -/
def leaveOn (s : State) (d : Nat) : State :=
  let s := sourcesFall s d
  match coreOfPd d with
  | some k => intcCoreLost (coreLost (wb s (pctlCorectl k) pctlCorectlRUN false) k) k
  | none =>
    match d with
    | 47 => roleOff s
    | 48 => if pdOn s 47 then roleOff s else s
    | 50 => { s with sem := { s.sem with fired := [] } }
    | 53 => dbgLost s
    | _ => s

/-- Set STATE of domain d, with what its leaving or reaching ON brings about. -/
def setPdState (s : State) (d v : Nat) : State :=
  let t := wf s (pctlPd d) pctlPdSTATE v
  let t := if pdOn s d && v != 2 then leaveOn t d else t
  let t := if d = 51 && v = 2 then pneReload t else t
  if d = 52 || d = 47 then driveSync t else t

/-- The operation in domain d has ended as it should (R476). -/
def pdComplete (s : State) (d : Nat) : State :=
  let r := pdRun s d
  let t := setPdRun (wb s (pctlPd d) pctlPdBUSY false) d PdRun.idle
  if r.op = 0 || 8 ≤ r.op then t else wb (wf t (pctlPd d) pctlPdLAST 0) pctlSts pctlStsPDDONE true

/-- Begin the power-down of domain d: isolated, in reset, its clocks stopped (R473). -/
def powerDown (s : State) (d : Nat) : State :=
  let t := setPdState s d 6
  let t := unitLost t d
  let t := if memDomain d then arraysClear t d else t
  let t := { t with msys := { t.msys with clearing := t.msys.clearing.filter (fun p => p.1 != d) } }
  setPdRun t d { pdRun t d with ph := 5, fop := 0 }

/-- Reset the unit of domain d as a wake from OFF does (R474). -/
def pdReset (s : State) (d : Nat) : State := wakeRegs (unitLost s d) d

/-- The operation of domain d once the domain is drained, or forced, or has nothing to drain (R474, R477). -/
def pdPerform (s : State) (d : Nat) : State :=
  match (pdRun s d).op with
  | 0 => setPdRun s d { pdRun s d with ph := 8 }
  | 1 => pdComplete (setPdState s d 2) d
  | 2 => pdComplete (setPdState s d 5) d
  | 3 | 7 => powerDown s d
  | 5 => pdComplete (pdReset (setPdState s d 4) d) d
  | _ => pdComplete (setPdState (pdReset (setPdState s d 4) d) d 2) d

/-- The forced outcome of domain d and its operation, which waits for every outstanding host response of the domain's
port (R282, R478): its unit is held in reset until then. -/
def pdForce (s : State) (d : Nat) : State :=
  let t := forcedOutcome s d
  if t.ports.torn.any (fun p => p.2.1 == d) then
    let u := pdReset (setPdState t d 4) d
    setPdRun u d { pdRun u d with ph := 9 }
  else pdPerform t d

/-- The unit's own actions at the start of its drain (R298, R464). -/
def drainBegin (s : State) (d : Nat) : State :=
  match d with
  | 16 => svcDrain s 8
  | 17 => svcDrain s 9
  | 44 => jneShut s
  | 54 => if uHeld s then jneShut s else s
  | 49 => cptDrain s
  | _ => s

/-- Fence domain d and start its drain (R477). -/
def pdFence (s : State) (d : Nat) : State :=
  let t := drainBegin (setPdState s d 3) d
  setPdRun t d { pdRun t d with ph := 4, at_ := s.port }

/-- The drain or forced outcome of domain d waits for U = 0 (R351). -/
def pdWaitsU (s : State) (d : Nat) : Bool := (d == 44 || d == 54) && uHeld s

/-- Drain domain d for a forced outcome that waits for U = 0 (R351). -/
def pdFenceForced (s : State) (d : Nat) : State :=
  let t := pdFence s d
  setPdRun t d { pdRun t d with ph := 7 }

/-- The unit of domain d has drained (R477). -/
def unitDrained (s : State) (d : Nat) : Bool :=
  !pdWaitsU s d &&
  match coreOfPd d with
  | some k => (coreOf s k).reqs.isEmpty && (coreOf s k).posted.isEmpty && !pdHmp s d && (!isSv k || svcClean s k)
  | none =>
    if 18 ≤ d && d < 26 then
      (List.range 16).all (fun j => let p := phaseOf s (16 * (d - 18) + j); p != phOutput && p != phPost) &&
        !s.ae.hands.any (fun h => engOf h.slot == d - 18)
    else match d with
      | 26 => s.ssp.runs.isEmpty
      | 27 => s.ssp.runs.all (fun r => r.lane < 2)
      | 45 => pneQuiet s && s.pne.ops.isEmpty && !pdHmp s 45
      | 46 => s.wac.writes.isEmpty && !s.pne.ops.any (fun o => o.src == 2)
      | 47 => s.mlk.lane1 ≤ s.port && !pdHmp s 47
      | 48 => s.rlk.start.isNone
      | 49 => cptDrained s && !pdHmp s 49
      | 54 => s.ports.wait.isEmpty && s.ports.out.isEmpty && s.ports.late.isEmpty && s.ports.hspq.all (fun x => !x.acc)
      | _ => !pdHmp s d

/-! Requests (R474 to R476). -/

/-- Refuse the request: 1 DEPV, 2 BUSYV, 3 BADREQ. -/
def pdRefuse (s : State) (d code : Nat) : State := wb (wf s (pctlPd d) pctlPdLAST code) pctlSts pctlStsPDREF true

/-- The state that an operation ends in. -/
def opEnds (op : Nat) : Nat :=
  match op with
  | 2 => 5
  | 3 | 7 => 0
  | 5 => 4
  | _ => 2

/-- OP names the present state (R476). -/
def opIdle (op st : Nat) : Bool := (op == 1 || op == 2 || op == 3 || op == 5 || op == 7) && opEnds op == st

/-- The dependence rule refuses the operation (R475). -/
def depRefuses (s : State) (d op : Nat) : Bool :=
  let st := pdState s d
  ((opEnds op == 2 || opEnds op == 4) && (match pdNeeds d with
      | some n => !pdOn s n
      | none => false)) ||
  (st == 2 && (pdDependants d).any (fun x => pdState s x == 2 || pdState s x == 4))

/-- Start an operation that is admitted (R474). -/
def pdStart (s : State) (d op : Nat) : State :=
  let t := setPdRun (wb (wf s (pctlPd d) pctlPdLAST 0) (pctlPd d) pctlPdBUSY true) d { pdRun s d with op := op }
  match pdState t d with
  | 0 => setPdRun t d { pdRun t d with ph := 1 }
  | 2 =>
    if op = 6 || op = 7 then (if pdWaitsU t d then pdFenceForced t d else pdForce t d)
    else pdFence t d
  | _ => pdPerform t d

/-- FRESET or FOFF written while an operation runs (R476). -/
def pdOverride (s : State) (d op : Nat) : State :=
  let r := pdRun s d
  match r.ph with
  | 1 => if op = 7 then pdComplete (setPdRun s d { r with op := op }) d else setPdRun s d { r with op := op }
  | 2 => setPdRun s d { r with fop := op }
  | 3 => if op = 7 then powerDown (setPdRun s d { r with op := op }) d else setPdRun s d { r with op := op }
  | 4 =>
    if pdWaitsU s d then setPdRun s d { r with op := op, ph := 7 }
    else pdForce (setPdRun s d { r with op := op }) d
  | 7 => if r.op = 0 || r.op = 9 then pdRefuse s d 2 else setPdRun s d { r with op := op }
  | 9 => setPdRun s d { r with op := op }
  | _ => pdRefuse s d 2

/-- A write of OP (R474 to R476). -/
def pdRequest (s : State) (d op : Nat) : State :=
  if op = 0 then s
  else if s.pctl.seq ≠ 0 && s.pctl.cause ≠ 0 then pdRefuse s d 2
  else if (pdRun s d).ph ≠ 0 then (if op = 6 || op = 7 then pdOverride s d op else pdRefuse s d 2)
  else if op = 2 && !memDomain d then pdRefuse s d 3
  else if opIdle op (pdState s d) then wb (wf s (pctlPd d) pctlPdLAST 0) pctlSts pctlStsPDDONE true
  else if depRefuses s d op then pdRefuse s d 1
  else pdStart s d op

/-- A write of PCTL_PD[d] (R488). -/
def pdWrite (s : State) (q : Req) (d : Nat) (v : Word) : State :=
  let may := holdsType s q otPctl
  let t := if pctlPdDTO.get v = 1 then clearBit s (pctlPd d) pctlPdDTO else s
  let t := if pctlPdFAULT.get v = 1 then clearBit t (pctlPd d) pctlPdFAULT else t
  if may then respond (pdRequest t d (pctlPdOP.get v)) 0 else respond t 2

/-- PD_ON (R474). -/
def execPdOn (q : Req) (d : Fin 56) (s : State) : Out := ok (pdWrite s q d.val 1)
/-- PD_RETAIN (R474). -/
def execPdRetain (q : Req) (d : Fin 56) (s : State) : Out := ok (pdWrite s q d.val 2)
/-- PD_OFF (R474). -/
def execPdOff (q : Req) (d : Fin 56) (s : State) : Out := ok (pdWrite s q d.val 3)
/-- PD_RESET (R474). -/
def execPdReset (q : Req) (d : Fin 56) (s : State) : Out := ok (pdWrite s q d.val 4)
/-- PD_HOLD (R474). -/
def execPdHold (q : Req) (d : Fin 56) (s : State) : Out := ok (pdWrite s q d.val 5)
/-- PD_FRESET (R474). -/
def execPdFreset (q : Req) (d : Fin 56) (s : State) : Out := ok (pdWrite s q d.val 6)
/-- PD_FOFF (R474). -/
def execPdFoff (q : Req) (d : Fin 56) (s : State) : Out := ok (pdWrite s q d.val 7)

/-- DRAIN_COMPLETE (R477). -/
def execDrainComplete (d : Fin 56) (s : State) : Out :=
  onlyIf ((pdRun s d.val).ph == 4 && unitDrained s d.val) s (pdPerform s d.val)

/-- DRAIN_TIMEOUT (R477): 6,000 FABRIC cycles after the fence. -/
def execDrainTimeout (d : Fin 56) (s : State) : Out :=
  onlyIf ((pdRun s d.val).ph == 4 && decide ((pdRun s d.val).at_ + 3000 ≤ s.port) &&
      !pdWaitsU s d.val && !unitDrained s d.val) s
    (pdForce (wb (wb s (pctlPd d.val) pctlPdDTO true) pctlSts pctlStsDRAINTO true) d.val)

/-! The supply handshake (R473). -/

/-- Domain d is powered and clear: the state that its operation ends in (R473, R474). -/
def pdUp (s : State) (d : Nat) : State :=
  let op := (pdRun s d).op
  pdComplete (setPdState s d (if op = 2 then 5 else if op = 5 then 4 else 2)) d

/-- The supply of domain d is in regulation: a memory domain is cleared first (R276). -/
def pdClock (s : State) (d : Nat) : State :=
  if memDomain d then
    let t := arraysClear s d
    let t := { t with msys := { t.msys with clearing := (d, 2 * s.port + 16384) :: t.msys.clearing } }
    setPdRun t d { pdRun t d with ph := 3 }
  else pdUp s d

/-- PDACK_RISE (R473, R476). -/
def execPdackRise (d : Fin 56) (s : State) : Out :=
  let n := d.val
  let t := wb s (pctlPd n) pctlPdACK true
  let r := pdRun s n
  onlyIf (!rb s (pctlPd n) pctlPdACK) s (
    if !rb s (pctlPd n) pctlPdREQ || r.ph ≠ 2 then t
    else if r.fop = 7 then powerDown (setPdRun t n { r with op := 7 }) n
    else pdClock (setPdRun t n { r with op := if r.fop = 6 then 6 else r.op, fop := 0 }) n)

/-- Domain d is off. -/
def pdGone (s : State) (d : Nat) : State := pdComplete (setPdState s d 0) d

/-- PDACK_FALL (R473). -/
def execPdackFall (d : Fin 56) (s : State) : Out :=
  let n := d.val
  let t := wb s (pctlPd n) pctlPdACK false
  onlyIf (!rb s (pctlPd n) pctlPdREQ && rb s (pctlPd n) pctlPdACK) s (if (pdRun s n).ph = 6 then pdGone t n else t)

/-- FAULT and PDFAULT. -/
def pdFault (s : State) (d : Nat) : State := wb (wb s (pctlPd d) pctlPdFAULT true) pctlSts pctlStsPDFAULT true

/-- The operation of domain d fails: it ends with the domain OFF. -/
def opFails (s : State) (d : Nat) : State :=
  let r := pdRun s d
  if r.op = 0 then s else setPdRun s d { r with op := 9 }

/-- PDACK_TIMEOUT (R473): the edge has not come within PDTO µs. -/
def execPdackTimeout (d : Fin 56) (s : State) : Out :=
  let n := d.val
  let r := pdRun s n
  let late := !s.running || decide (r.at_ + 300 * max 1 (rf s pctlCtrl pctlCtrlPDTO) ≤ s.port)
  if r.ph = 2 && late then ok (powerDown (opFails (pdFault s n) n) n)
  else if r.ph = 6 && r.fop = 0 && late then ok (setPdRun (pdFault s n) n { r with fop := 1 })
  else ok s

/-- A domain is taken off without a drain because its supply, or the domain it requires, is lost. -/
def pdTake (s : State) (d : Nat) : State := powerDown (opFails (forcedOutcome s d) d) d

/-- The same; the journal's domain waits for U = 0 (R351, R473; DEDUCED, log entry 196). -/
def pdForceOff (s : State) (d : Nat) : State :=
  if pdState s d = 0 || pdState s d = 6 then s
  else if d = 44 && pdWaitsU s d then
    let t := if pdState s d = 2 then pdFence s d else s
    setPdRun t d { pdRun (opFails t d) d with ph := 7 }
  else pdTake s d

/-- SUPPLY_FAULT (R473, R475): RN_PDACK falls while the request is high. -/
def execSupplyFault (d : Fin 56) (s : State) : Out :=
  let n := d.val
  let t := pdFault (wb s (pctlPd n) pctlPdACK false) n
  onlyIf (rb s (pctlPd n) pctlPdREQ && rb s (pctlPd n) pctlPdACK) s
    ((pdDependants n).foldl pdForceOff (pdForceOff t n))

/-- Change one RN_PDREQ, the lowest domain's that waits (R473). -/
def pdReqStep (s : State) : State :=
  match s.pctl.dom.find? (fun p => p.2.ph == 5 || (p.2.ph == 1 && !rb s (pctlPd p.1) pctlPdACK)) with
  | none => s
  | some (d, r) =>
    if r.ph = 1 then
      let t := wakeRegs (setPdState (wb s (pctlPd d) pctlPdREQ true) d 1) d
      setPdRun t d { r with ph := 2, at_ := s.port }
    else
      let t := wb s (pctlPd d) pctlPdREQ false
      if rb t (pctlPd d) pctlPdACK then setPdRun t d { r with ph := 6, at_ := s.port } else pdGone t d

/-! Cores (R479, R480). -/

/-- Core k leaves reset in the state of R261. -/
def coreRelease (s : State) (k : Nat) : State :=
  if rb s (pctlCorectl k) pctlCorectlRUN && pdOn s (coreDomain k) then
    let v := rf s (pctlRstvec k) pctlRstvecADDR
    let c := Core.woken k
    let c := { c with pc := pcMk v 0, run := true, rootLock := !rb s (pctlCorectl k) pctlCorectlROOTOK }
    setCore s k (c.setCode 3 (Tok.mk4 v 0 0x8D 0))
  else s

/-- A write of RUN = 1 (R479). -/
def runWrite (s : State) (k : Nat) : State :=
  if pdOn s (coreDomain k) && !rb s (pctlCorectl k) pctlCorectlRUN then
    onPctl (wb s (pctlCorectl k) pctlCorectlRUN true) (fun p => { p with go := p.go ++ [k] })
  else wb s pctlSts pctlStsPDREF true

/-- A write of PCTL_CORECTL[k] (R479, R488). -/
def corectlWrite (s : State) (q : Req) (k : Nat) (v : Word) : State :=
  if !holdsType s q otPctl then respond s 2
  else
    let t := wb (wb s (pctlCorectl k) pctlCorectlLOCKACT (pctlCorectlLOCKACT.get v == 1))
      (pctlCorectl k) pctlCorectlROOTOK (pctlCorectlROOTOK.get v == 1)
    respond (if pctlCorectlRUN.get v = 1 then runWrite t k else t) 0

/-- CORE_RUN (R479): the write of RUN = 1 with its other fields. -/
def execCoreRun (q : Req) (k : Fin 10) (rootok lockact : Bool) (s : State) : Out :=
  ok (corectlWrite s q k.val (BitVec.ofNat 48 (4 * b2n lockact + 2 * b2n rootok + 1)))

/-- CORE_LOCKED (R259, R463, R480): core k locks at a level with a cause, at a PC. -/
def coreLocked (s : State) (k lvl code : Nat) (pc v : Word) : State :=
  let t := setCore s k { coreOf s k with locked := true }
  let t := wr t (pctlLockrec0 k) (BitVec.ofNat 48 (2 ^ 47 + lvl % 4 * 2 ^ 44 + code % 256))
  let t := wr (wr t (pctlLockrec1 k) (BitVec.ofNat 48 (pc.toNat % 2 ^ 42))) (pctlLockrec2 k) v
  let t := wb (wb t (pctlCorectl k) pctlCorectlLOCKED true) pctlSts pctlStsCORELOCKED true
  let t := intcCoreLost (coreLost t k) k
  if rb t (pctlCorectl k) pctlCorectlLOCKACT && (pdRun t (coreDomain k)).ph = 0 && pdOn t (coreDomain k) then
    pdStart t (coreDomain k) 4
  else t

/-! Resets (R481, R482). -/

/-- Every field with reset SYS or WAKE takes its reset value, at the level selected for the reset (R13, R486). -/
def sysRegs (s : State) : State :=
  let stays := fun (a : Nat) => match regFind a with
    | some (d, _) => d.cond == .por || d.cond == .held
    | none => false
  { s with lvl := rf s pctlBlevel pctlBlevelSEL, regs := s.regs.filter (fun p => stays p.1) }

/-- The always-on state beside the registers that a warm reset clears (R111, R161). -/
def sysState (s : State) : State :=
  { s with
    ae := { s.ae with yOut := [] },
    intc := ⟨[], [], [], [], [], [], []⟩, sem := { s.sem with fired := [], last := [], binds := [], pulse := [] },
    dm := { s.dm with mons := [], unread := [], ticked := [] },
    msys := { s.msys with passCe := [], calm := [], hot := [], unreadEcc := [], unreadTb := [], adm := none, next := none, credit := [] },
    sig := ⟨[], [], [], [], 0⟩ }

/-- Inputs taken again after a reset of the registers. -/
def pinSync (s : State) : State :=
  let t := wb s cvpDrive cvpDriveGNT s.cvp.gnt
  driveSync (forN 64 { t with cvp := { t.cvp with tripLive := 0, tripWait := [] } } tripLevel)

/-- Step 3 of a warm reset: memory goes to RETAIN, every other domain to OFF. -/
def warmDown (s : State) : State :=
  let t := forN 56 s (fun t d =>
    let st := pdState t d
    let t := wb (setPdRun t d { pdRun t d with op := 0 }) (pctlPd d) pctlPdBUSY false
    if st = 0 then setPdRun t d PdRun.idle
    else if st = 6 then t
    else if memDomain d && (st = 2 || st = 3 || st = 5) then setPdRun (setPdState t d 5) d PdRun.idle
    else powerDown t d)
  let t := pinSync (sysState (sysRegs t))
  onPctl (wf t pctlRststs pctlRststsCAUSE s.pctl.cause) (fun p => { p with seq := 3, go := [], man := none, fill := none })

/-- A warm-reset cause: 1 RN_SYSRST_N, 2 SWRST, 3 LOL (R481, R482). -/
def warmCause (s : State) (c : Nat) : State :=
  if s.pctl.porst || s.pctl.lol || (s.pctl.seq ≠ 0 && s.pctl.seq < 4) then s
  else if s.pctl.seq ≠ 0 then onPctl s (fun p => { p with next := some c })
  else
    let t := haltEnd s
    let t := driveSync (onPctl t (fun p => { p with seq := 2, cause := c, man := none }))
    forN 56 t (fun t d =>
      if memDomain d then t
      else
        let st := pdState t d
        let u := wb (setPdRun t d { pdRun t d with op := 0, fop := 0 }) (pctlPd d) pctlPdBUSY false
        if st = 2 then pdFence u d
        else if st = 4 then setPdRun u d { pdRun u d with ph := 8 }
        else if st = 3 then u else t)

/-- The reset sequence ends, or gives way to the next (R482). -/
def seqEnd (s : State) : State :=
  let t := onPctl s (fun p => { p with seq := 0, cause := 0, next := none })
  match s.pctl.next with
  | some c => warmCause t c
  | none => driveSync t

/-- The boot set (R481). -/
def bootSet : List Nat := [16, 28, 54]

/-- Step 4: the boot set is brought ON. -/
def bootUp (s : State) : State :=
  bootSet.foldl (fun t d =>
    if pdState t d = 5 then setPdState t d 2
    else if pdState t d = 0 then setPdRun t d { PdRun.idle with ph := 1 } else t) (onPctl s (fun p => { p with seq := 4 }))

/-- The domains that still drain. -/
def draining (s : State) : Bool := s.pctl.dom.any (fun p => p.2.ph == 4 || p.2.ph == 7 || p.2.ph == 9)

/-- Move the reset sequence on (R481). -/
def seqStep (s : State) : State :=
  match s.pctl.seq with
  | 2 =>
    if draining s then s
    else
      let l := (List.range 56).filter (fun d => memDomain d && pdState s d == 2)
      if l.isEmpty then warmDown s
      else l.foldl (fun t d => pdFence (setPdRun t d { pdRun t d with op := 0 }) d) s
  | 3 =>
    if s.running && !s.pctl.sysPin && (List.range 56).all (fun d => pdState s d == 0 || pdState s d == 5) then bootUp s else s
  | 4 =>
    if bootSet.all (pdOn s) && !s.msys.clearing.any (fun p => p.1 == 28) then
      match s.pctl.next with
      | some _ => seqEnd s
      | none => onPctl s (fun p => { p with seq := 5 })
    else s
  | _ => s

/-- PORST (R481): every register at its power-on value, every domain OFF, nothing remembered but the pins, the
boot ROM, the media outside the block and the numbers of free values. -/
def powerOn (s : State) : State :=
  let t := { State.reset with
    pending := s.pending, free := s.free, par := s.par, lvl := s.par.blevel.toNat,
    jne := { Jne.zero with dir := s.jne.dir }, sem := { State.reset.sem with pfail := s.sem.pfail },
    cvp := { State.reset.cvp with tripPin := s.cvp.tripPin, gnt := s.cvp.gnt },
    pctl := { State.reset.pctl with sysPin := s.pctl.sysPin, rom := s.pctl.rom }, dbg := Dbg.zero s.dbg.cap }
  let t := forN 56 t (fun u d => if rb s (pctlPd d) pctlPdACK then wb u (pctlPd d) pctlPdACK true else u)
  pinSync t

/-- PORST_ASSERT (R482). -/
def execPorstAssert (s : State) : Out := ok (powerOn s)

/-- POWER_ON_RESET (R470, R481): the deassertion is registered; the PLL is enabled. -/
def execPowerOnReset (s : State) : Out :=
  onlyIf s.pctl.porst s (driveSync (onPctl s (fun p => { p with porst := false, pll := true, seq := 1, cause := 0 })))

/-- TEST_MODE (R508): RN_TEST_MODE goes high. Nothing keeps its contents. -/
def execTestMode (s : State) : Out :=
  ok (onPctl (powerOn s) (fun p => { p with porst := false, test := true }))

/-- SYSRST (R481): the assertion of RN_SYSRST_N is registered. -/
def execSysrst (s : State) : Out :=
  onlyIf (!s.pctl.sysPin) s (warmCause (onPctl s (fun p => { p with sysPin := true })) 1)

/-- SYSRST_RELEASE (R481): RN_SYSRST_N is deasserted. -/
def execSysrstRelease (s : State) : Out := ok (onPctl s (fun p => { p with sysPin := false }))

/-- A write of PCTL_CTRL (R481, R488). -/
def pctlCtrlWrite (s : State) (q : Req) (v : Word) : State :=
  if !holdsType s q otPctl then respond s 2
  else
    let t := wf s pctlCtrl pctlCtrlPDTO (pctlCtrlPDTO.get v)
    respond (if pctlCtrlSWRST.get v = 1 then warmCause t 2 else t) 0

/-- SWRST (R481). -/
def execSwrst (q : Req) (s : State) : Out := ok (pctlCtrlWrite s q (pctlCtrlSWRST.put (rd s pctlCtrl) 1))

/-- A write of PCTL_BLEVEL (R486). -/
def blevelWrite (s : State) (q : Req) (v : Word) : State :=
  let t := if pctlBlevelBLVLV.get v = 1 then wb s pctlBlevel pctlBlevelBLVLV false else s
  if !holdsType s q otPctl then respond t 2
  else if pctlBlevelSEL.get v = 0 then respond (wb t pctlBlevel pctlBlevelBLVLV true) 0
  else respond (wf t pctlBlevel pctlBlevelSEL (pctlBlevelSEL.get v)) 0

/-- BLEVEL_WRITE (R486). -/
def execBlevelWrite (q : Req) (sel : BitVec 2) (s : State) : Out := ok (blevelWrite s q (sel.setWidth 48))

/-! The PLL (R470, R471). -/

/-- PLL_LOCK (R470, R471): lock has been held for 64 AON cycles. From power-on it starts block time. -/
def execPllLock (s : State) : Out :=
  if !(s.pctl.pll && !s.running) then ok s
  else if s.pctl.seq = 1 then ok (bootUp { s with running := true, port := 0 })
  else if s.pctl.lol then
    ok (warmCause (onPctl { s with running := true } (fun p => { p with lol := false })) 3)
  else ok s

/-- PLL_LOCK_TIMEOUT (R470): the PLL is restarted. -/
def execPllLockTimeout (s : State) : Out :=
  onlyIf (s.pctl.pll && !s.running && (s.pctl.seq == 1 || s.pctl.lol)) s
    (inc (wb s pctlSts pctlStsPLLERR true) pctlSts pctlStsPLLRETRY)

/-- LOSS_OF_LOCK (R471): the clocks stop, every pair is safe, PLLERR; with PORT stopped the trip filter is bypassed
(R36). -/
def execLossOfLock (s : State) : Out :=
  onlyIf (s.pctl.pll && !s.pctl.lol && (s.running || s.halted)) s
    (safeSync (tripBypass (wb (onPctl (clocksStop s) (fun p => { p with lol := true })) pctlSts pctlStsPLLERR true)))

/-! Boot (R483 to R485). -/

/-- Word i of the boot ROM. -/
def romWord (s : State) (i : Nat) : Word := s.pctl.rom.getD i 0

/-- LEN and ENTRY of the ROM header. -/
def romLen (s : State) : Nat := (Fld.mk 16 0).get (romWord s 0)
def romEntry (s : State) : Nat := (Fld.mk 15 0).get (romWord s 1)

/-- The ROM header is valid (R483). -/
def romOk (s : State) : Bool :=
  (Fld.mk 47 40).get (romWord s 0) == 0xF1 && (Fld.mk 39 36).get (romWord s 0) == 1 &&
    1 ≤ romLen s && romLen s ≤ 65536 && romEntry s < romLen s

/-- The image of the boot ROM. -/
def romImage (s : State) : List Word := (List.range (romLen s)).map (fun i => romWord s (8 + i))

/-- Write words at rising addresses with tag 0 and fresh check bits. -/
def fillWords (s : State) (a : Nat) (ws : List Word) : State :=
  ((List.range ws.length).zip ws).foldl (fun t p => tagWr (memWr (storeFresh t (a + p.1)) (a + p.1) p.2) ((a + p.1) / 2 * 2) false) s

/-- BOOT_FILL (R483): the header is checked, and the image goes into stripe 0 while its accesses stall. -/
def execBootFill (s : State) : Out :=
  let t := wf s pctlRststs pctlRststsBOOT 0
  onlyIf (s.running && s.pctl.seq == 5 && s.pctl.fill.isNone && pdOn s 28) s (
    if !romOk s then seqEnd (wf t pctlRststs pctlRststsBOOT 2)
    else
      let e := 2 * s.port + 66 * shaCount (6 * romLen s)
      let u := fillWords t 0 (romImage s)
      onPctl { u with msys := { u.msys with clearing := (28, e) :: u.msys.clearing.filter (fun p => p.1 != 28) } }
        (fun p => { p with fill := some e }))

/-- BOOT_FILL_DONE (R483): SV0 is released if the hash equals the header's digest. -/
def execBootFillDone (s : State) : Out :=
  match s.pctl.fill with
  | none => ok s
  | some e =>
    let t := onPctl { s with msys := { s.msys with clearing := s.msys.clearing.filter (fun p => p.1 != 28) } }
      (fun p => { p with fill := none })
    onlyIf (s.running && s.pctl.seq == 5 && decide (e ≤ 2 * s.port)) s (
      if wordsDigest (romImage s) = (List.range 6).map (fun i => romWord s (2 + i)) then
        let u := wf (wf t pctlRststs pctlRststsBOOT 1) (pctlRstvec 8) pctlRstvecADDR (romEntry s)
        seqEnd (runWrite (wb u (pctlCorectl 8) pctlCorectlROOTOK true) 8)
      else seqEnd (wf t pctlRststs pctlRststsBOOT 2))

/-- Words of an entry of the manifest (R485). -/
def manWord (m : Manifest) (i : Nat) : Word := m.words.getD (1 + 10 * m.i + i) 0

/-- Number of entries of a manifest. -/
def manCount (ws : List Word) : Nat := (Fld.mk 5 0).get (ws.getD 0 0)

/-- PCTL_ANCHOR, word by word. -/
def anchorWords (s : State) : List Word := (List.range 6).map (fun w => rd s (pctlAnchor w))

/-- End of the load with a result in IMG. -/
def manEnd (s : State) (img : Nat) : State := onPctl (wf s pctlRststs pctlRststsIMG img) (fun p => { p with man := none })

/-- Copy words to their destination; words for the host go in bursts of 8. -/
def manCopy (s : State) (a : Nat) (ws : List Word) : State :=
  if targetOf a == .host || targetOf a == .persist then
    forN ((ws.length + 7) / 8) s (fun t i =>
      hmpReq t (.unit 23 0) true (a + 8 * i) ((ws.drop (8 * i)).take 8).length ((ws.drop (8 * i)).take 8) false false)
  else ((List.range ws.length).zip ws).foldl (fun t p => (arrayWrite t (a + p.1) (corePort 8) p.2).2) s

/-- The words as SV0 reads them back, with the reads' effects. -/
def manBack (s : State) (a : Nat) (ws : List Word) : List Word × State :=
  if targetOf a == .host || targetOf a == .persist then (ws, s)
  else (List.range ws.length).foldl (fun r i =>
    let x := arrayRead r.2 (a + i) (corePort 8)
    (r.1 ++ [x.2.1], x.2.2)) ([], s)

/-- One entry: its destination is powered, then its image copied, read back and hashed (R485). -/
def manEntry (s : State) (m : Manifest) (ws : List Word) : State :=
  let len := (Fld.mk 31 0).get (manWord m 0)
  let a := (Fld.mk 39 0).get (manWord m 2)
  let up := match (targetOf a).domain with
    | some d => pdOn s d
    | none => true
  if !up then
    match (targetOf a).domain with
    | some d => if (pdRun s d).ph = 0 then pdRequest s d 1 else s
    | none => s
  else if ws.length ≠ len then s
  else
    let r := manBack (manCopy s a ws) a ws
    if wordsDigest r.1 = (List.range 6).map (fun i => manWord m (4 + i)) then
      onPctl r.2 (fun p => { p with man := some { m with i := m.i + 1 } })
    else manEnd (wf r.2 pctlRststs pctlRststsIMGIDX m.i) 4

/-- One entry's core is released, its domain powered first (R485). -/
def manRelease (s : State) (m : Manifest) : State :=
  let next := fun (t : State) => onPctl t (fun p => { p with man := some { m with i := m.i + 1 } })
  let k := (Fld.mk 43 40).get (manWord m 0)
  if !bitOf (manWord m 0) 38 || 10 ≤ k then next s
  else if !pdOn s (coreDomain k) then
    (if (pdRun s (coreDomain k)).ph = 0 then pdRequest s (coreDomain k) 1 else s)
  else
    let t := wf s (pctlRstvec k) pctlRstvecADDR ((Fld.mk 39 0).get (manWord m 3))
    next (runWrite (wb t (pctlCorectl k) pctlCorectlROOTOK (bitOf (manWord m 0) 39)) k)

/-- MANIFEST_LOAD (R485): the next step of the Flacon firmware's load on SV0. `ws`: the words that the host
answers to its reads: the manifest's words 0 to 10N for the first step, an entry's image for the entry's. -/
def execManifestLoad (ws : List Word) (s : State) : Out :=
  if !(coreLive s 8 && rf s pctlRststs pctlRststsBOOT == 1 && rb s pctlBootsrc pctlBootsrcEN) then ok s
  else match s.pctl.man with
    | none =>
      if ws.length ≠ 10 * manCount ws + 1 then ok s
      else if anchorWords s ≠ List.replicate 6 0 && anchorWords s ≠ wordsDigest ws then ok (manEnd s 3)
      else ok (onPctl s (fun p => { p with man := some ⟨ws, 0, false⟩ }))
    | some m =>
      if m.i < manCount m.words then ok (if m.go then manRelease s m else manEntry s m ws)
      else if !m.go then ok (onPctl s (fun p => { p with man := some { m with i := 0, go := true } }))
      else ok (manEnd s (if anchorWords s = List.replicate 6 0 then 2 else 1))

/-! Time. -/

/-- Domains whose clearing has ended (R276). -/
def clearDone (s : State) : State :=
  (s.msys.clearing.filter (fun p => p.2 ≤ 2 * s.port && (pdRun s p.1).ph == 3)).foldl (fun t p =>
    pdUp { t with msys := { t.msys with clearing := t.msys.clearing.filter (fun q => q.1 != p.1) } } p.1) s

/-- Forced outcomes that waited for U = 0 take place (R351). -/
def uFree (s : State) : State :=
  if uHeld s then s
  else (s.pctl.dom.filter (fun p => p.2.ph == 7)).foldl (fun t p => if p.2.op = 0 || p.2.op = 9 then pdTake t p.1 else pdForce t p.1) s

/-- Operations that waited for the host's responses to torn transactions go on (R282). -/
def tornDone (s : State) : State :=
  (s.pctl.dom.filter (fun p => p.2.ph == 9 && !(pdLive s 54 && s.ports.torn.any (fun q => q.2.1 == p.1)))).foldl
    (fun t p => pdPerform t p.1) s

/-- Cores leave reset in the SLOW cycle after the write of RUN (R479). -/
def coresGo (s : State) : State :=
  s.pctl.go.foldl coreRelease (onPctl s (fun p => { p with go := [] }))

/-- Responses to host writes of the firmware's load are dropped. -/
def manDrop (s : State) : State :=
  { s with ports := { s.ports with done := s.ports.done.filter (fun x => x.use != .unit 23 0) } }

/-- What PCTL does by itself in a PORT cycle, at SLOW edges where it sequences at SLOW, or in an AON cycle
while the PLL is stopped. -/
def pctlTick (s : State) : State :=
  if s.pctl.porst || s.pctl.test then s
  else
    let t := manDrop (tornDone (uFree (clearDone s)))
    if t.running && t.port % 4 ≠ 0 then t else seqStep (coresGo (pdReqStep t))

end Sys2Proof.Machine
end

