-- ==== Sys2Proof/Machine/Dbg.lean ====
section
/-! DEFINITION. The debug port, block halt, core control, terminal and trace (R509 to R524); its memory accesses
are in Access.lean. -/

namespace Sys2Proof.Machine

/-- System type of the debug unit. -/
def otDebug : Nat := 14

/-! Registers of the unit (R516, R520 to R524). -/

/-- A write of DBG_CTRL (R514, R516, R518, R524): CONSENT by requester 10 only. -/
def dbgCtrlWrite (s : State) (q : Req) (v : Word) : State :=
  let t := if q.who = 10 then wb s dbgCtrl dbgCtrlCONSENT (dbgCtrlCONSENT.get v == 1) else s
  let t := if dbgCtrlKEYLOCK.get v = 1 then wb t dbgCtrl dbgCtrlKEYLOCK true else t
  if holdsType s q otDebug then respond (levelCheck (wf t dbgCtrl dbgCtrlGRANT (dbgCtrlGRANT.get v))) 0 else respond t 2

/-- DBG_GRANT_WRITE (R514): a write of DBG_CTRL.GRANT. -/
def execDbgGrantWrite (q : Req) (g : BitVec 2) (s : State) : Out :=
  ok (dbgCtrlWrite s q (dbgCtrlGRANT.put (rd s dbgCtrl) g.toNat))

/-- KEYLOCK (R516): a write of 1 to DBG_CTRL.KEYLOCK. -/
def execKeylock (q : Req) (s : State) : Out := ok (dbgCtrlWrite s q (dbgCtrlKEYLOCK.put (rd s dbgCtrl) 1))

/-- A write of key word w (R516). -/
def dbgKeyWrite (s : State) (w : Nat) (v : Word) : State :=
  respond (if rb s dbgCtrl dbgCtrlKEYLOCK then s
    else onDbg s (fun d => { d with key := (w, v) :: d.key.filter (fun p => p.1 != w) })) 0

/-- DBG_KEY_WRITE (R516). -/
def execDbgKeyWrite (w : Fin 6) (v : Word) (s : State) : Out := ok (dbgKeyWrite s w.val v)

/-- KEYOK: all six words have been written (R516). -/
def keyOk (s : State) : Bool := (List.range 6).all (fun w => s.dbg.key.any (fun p => p.1 == w))

/-- A write of DBG_VTOUT (R521). -/
def vtoutWrite (s : State) (v : Word) : State :=
  respond (match s.dbg.vtOut with
    | some _ => wb s dbgSts dbgStsVTOVF true
    | none => onDbg s (fun d => { d with vtOut := some v })) 0

/-- VTOUT_WRITE (R521). -/
def execVtoutWrite (v : Word) (s : State) : Out := if pdOn s 53 then ok (vtoutWrite s v) else ok (respond s 3)

/-- A read of DBG_VTIN takes the word; with none held it reads 0 (R521). -/
def vtinRead (s : State) : Word × State := (s.dbg.vtIn.getD 0, onDbg s (fun d => { d with vtIn := none }))

/-- VTIN_READ (R521). -/
def execVtinRead (s : State) : Out :=
  if pdOn s 53 then ok (respond (vtinRead s).2 0 (vtinRead s).1) else ok (respond s 3)

/-- A read of DBG_STS. -/
def dbgStsRead (s : State) : Word :=
  dbgStsLEVEL.put (dbgStsVTOUTF.put (dbgStsVTINF.put (rd s dbgSts) (b2n s.dbg.vtIn.isSome)) (b2n s.dbg.vtOut.isSome)) (dbgLevel s)

/-- STOP written (R520): the core is at an issue boundary between its commands; one that does not run stops
at its first. -/
def stopWrite (s : State) (k : Nat) : State :=
  if (coreOf s k).stopped then s
  else if coreLive s k && coreMayYield s k && !(coreOf s k).openPair then coreStop s k 1
  else onDbg s (fun d => { d with stops := k :: d.stops.erase k })

/-- STEP written (R520): a stopped core issues one instruction or pair. -/
def stepWrite (s : State) (k : Nat) : State :=
  if (coreOf s k).stopped then
    let t := coreResume s k
    setCore t k { coreOf t k with dbgStep := true }
  else s

/-- A write of DBG_CORECTL[k] (R520, R524). -/
def dbgCorectlWrite (s : State) (q : Req) (k : Nat) (v : Word) : State :=
  let may := holdsType s q otDebug
  let t := if dbgCorectlCSTOP.get v = 1 then clearBit s (dbgCorectl k) dbgCorectlCSTOP else s
  let t := if may then
      wb (wf (wf t (dbgCorectl k) dbgCorectlWPEN (dbgCorectlWPEN.get v)) (dbgCorectl k) dbgCorectlBPEN (dbgCorectlBPEN.get v))
        (dbgCorectl k) dbgCorectlMASKSTEP (dbgCorectlMASKSTEP.get v == 1)
    else t
  let t := if dbgCorectlSTOP.get v = 1 then stopWrite t k else t
  let t := if dbgCorectlSTEP.get v = 1 then stepWrite t k else t
  let t := if dbgCorectlRESUME.get v = 1 then coreResume t k else t
  respond t (if may then 0 else 2)

/-- The stored fields of DBG_CORECTL with one more bit set. -/
def corectlBit (s : State) (k : Nat) (f : Fld) : Word := f.put (dbgCorectlCSTOP.put (rd s (dbgCorectl k)) 0) 1

/-- DBG_STOP (R520). -/
def execDbgStop (q : Req) (k : Fin 10) (s : State) : Out :=
  if pdOn s 53 then ok (dbgCorectlWrite s q k.val (corectlBit s k.val dbgCorectlSTOP)) else ok (respond s 3)

/-- DBG_CORE_STEP (R520). -/
def execDbgCoreStep (q : Req) (k : Fin 10) (s : State) : Out :=
  if pdOn s 53 then ok (dbgCorectlWrite s q k.val (corectlBit s k.val dbgCorectlSTEP)) else ok (respond s 3)

/-- DBG_CORE_RESUME (R520). -/
def execDbgCoreResume (q : Req) (k : Fin 10) (s : State) : Out :=
  if pdOn s 53 then ok (dbgCorectlWrite s q k.val (corectlBit s k.val dbgCorectlRESUME)) else ok (respond s 3)

/-- An enabled breakpoint stands at core k's PC, and the core has not just resumed from it (R520). -/
def bpHit (s : State) (k : Nat) : Bool :=
  pdOn s 53 && !s.dbg.skip.contains k && (List.range 4).any (fun i =>
    (rf s (dbgCorectl k) dbgCorectlBPEN).testBit i && rf s (dbgBp k i) dbgBpPC == (coreOf s k).pc.toNat % 2 ^ 42)

/-- BREAKPOINT (R520): core k stops before the instruction at its PC. -/
def execBreakpoint (k : Fin 10) (s : State) : Out :=
  onlyIf (coreLive s k.val && (coreOf s k.val).wait == .none && coreMayYield s k.val && bpHit s k.val) s (coreStop s k.val 2)

/-- The item of core k that DBG_CSEL names (R520); a core that is not stopped reads zero. -/
def cdatRead (s : State) (k : Nat) : Word :=
  let c := (coreOf s k).landAll
  let n := rf s (dbgCsel k) dbgCselSEL
  if !c.stopped then 0
  else match rf s (dbgCsel k) dbgCselSPACE with
    | 0 => (c.bank (n / 512)).item (n % 512)
    | 1 => (readSr s k (n % 512)).1
    | 2 => c.pc
    | _ => 0

/-- The token with which the debugger writes a core's system registers. -/
def dbgTok : Tok := Tok.mk4 0 0 0x83 0x20

/-- A write of DBG_CDAT[k] (R520). -/
def cdatWrite (s : State) (q : Req) (k : Nat) (v : Word) : State :=
  let c := coreOf s k
  let n := rf s (dbgCsel k) dbgCselSEL
  if !holdsType s q otDebug then respond s 2
  else if !c.stopped then respond s 0
  else match rf s (dbgCsel k) dbgCselSPACE with
    | 0 =>
      let c := c.landAll
      respond (setCore s k (c.setBank (n / 512) ((c.bank (n / 512)).setItem (n % 512) v))) 0
    | 1 =>
      match writeSr s k (n % 512) dbgTok v with
      | .ok t => respond t 0
      | _ => respond s 0
    | 2 => respond (setCore s k { c with pc := pcOfWord v }) 0
    | _ => respond s 0

/-- DBG_CDAT_WRITE (R520). -/
def execDbgCdatWrite (q : Req) (k : Fin 10) (v : Word) (s : State) : Out :=
  if pdOn s 53 then ok (cdatWrite s q k.val v) else ok (respond s 3)

/-! Trace (R522). -/

/-- A write of DBG_TRCTL: RUN rises on enabling with START 0 and falls with EN. -/
def trctlWrite (s : State) (q : Req) (v : Word) : State :=
  if !holdsType s q otDebug then respond s 2
  else
    let was := rb s dbgTrctl dbgTrctlEN
    let t := regPut s dbgTrctl true v
    let en := rb t dbgTrctl dbgTrctlEN
    respond (if en && !was && rf t dbgTrctl dbgTrctlSTART == 0 then wb t dbgTrctl dbgTrctlRUN true
      else if !en then wb t dbgTrctl dbgTrctlRUN false else t) 0

/-- A write of DBG_TRMARK records a MARK. -/
def trmarkWrite (s : State) (v : Word) : State := respond (raiseTrace s 4 0xFF (v.toNat % 2 ^ 36)) 0

/-- TRMARK_WRITE (R522). -/
def execTrmarkWrite (v : Word) (s : State) : Out := if pdOn s 55 then ok (trmarkWrite s v) else ok (respond s 3)

/-- Write an entry into the trace ring; the ring that fills with MODE 1 ends the trace. -/
def ringPut (s : State) (w0 : Word) (kind src data : Nat) : State :=
  let i := rf s dbgTrptr dbgTrptrWR
  let t := wr (wr s (dbgTrbuf i 0) w0) (dbgTrbuf i 1)
    (BitVec.ofNat 48 (kind * 2 ^ 44 + src % 256 * 2 ^ 36 + data % 2 ^ 36))
  let t := wf t dbgTrptr dbgTrptrWR ((i + 1) % 4096)
  if i = 4095 && rb t dbgTrctl dbgTrctlMODE then wb t dbgTrctl dbgTrctlRUN false else t

/-- TRACE_WRITE (R522): one entry of the queue, after a LOST entry where events were lost. -/
def execTraceWrite (s : State) : Out :=
  match s.sig.traces with
  | [] => ok s
  | e :: r =>
    if !(pdOn s 55 && s.running) then ok s
    else if s.sig.tlost ≠ 0 then
      ok (ringPut { s with sig := { s.sig with tlost := 0 } } (btime s) 5 0 s.sig.tlost)
    else ok (ringPut { s with sig := { s.sig with traces := r } } e.at_ e.kind e.src e.data)

/-! Debug port registers (R512 to R517). Status codes of R510. -/

def dpReady : Nat := 0xC
def dpDefer : Nat := 0x6
def dpReject : Nat := 0x3

/-- Answer a transaction. -/
def dpAnswer (s : State) (st : Nat) (w : Word := 0) : State := onDbg s (fun d => { d with sts := st, data := w })

/-- A register of the debug port needs PD53 (R512). -/
def dpGated (idx : Nat) : Bool := (4 ≤ idx && idx ≤ 0xD) || (0x18 ≤ idx && idx ≤ 0x1A) || idx = 0x1C

/-- A register of the debug port is listed. -/
def dpListed (idx : Nat) : Bool := idx < 4 || idx = 0x10 || dpGated idx

/-- The level that a register of the debug port needs (R512, R517). -/
def dpLevel (idx : Nat) (write : Bool) : Nat :=
  if idx = 0x10 || (idx = 0x19 && write) then 2 else if 0x18 ≤ idx then 1 else 0

/-- The status that a request meets before it is looked at further: REJECT with or without MEMERR, or DEFER
while a check runs (R511, R512, R515). -/
def dpGate (s : State) (idx : Nat) (write : Bool) : Option (Nat × Bool) :=
  if !dpListed idx then some (dpReject, false)
  else if (s.dbg.wchk || s.dbg.memerr) && idx ≠ 2 && idx ≠ 3 then some (dpReject, false)
  else if dpGated idx && (!pdOn s 53 || s.halted) then some (dpReject, false)
  else if dbgLevel s < dpLevel idx write then some (dpReject, true)
  else if s.dbg.check.isSome && 4 ≤ idx && idx ≤ 0xD then some (dpDefer, false)
  else none

/-- DP_STAT (R512). -/
def dpStat (s : State) : Word :=
  let d := s.dbg
  BitVec.ofNat 48 (dbgLevel s + 4 * dbgCap s + 16 * b2n (pdOn s 53) + 32 * b2n s.halted + 64 * b2n d.hrefused
    + 128 * b2n d.hnoack + 256 * b2n d.wchk + 512 * b2n d.memerr + 1024 * b2n (keyOk s) + 2048 * b2n d.lock.isSome
    + 4096 * b2n d.vtOut.isSome + 8192 * b2n d.vtIn.isSome + 16384 * b2n d.check.isSome + 32768 * d.fails)

/-- The request of a domain through DP_CTRL (R512): OP ON as under R474. -/
def dpPower (s : State) (v : Word) : State :=
  let t := if bitOf v 0 then pdRequest s 53 1 else s
  if bitOf v 1 then pdRequest t 55 1 else t

/-- DP_ABORT: ones clear sticky bits 6 to 9 of DP_STAT (R512). -/
def dpAbort (s : State) (v : Word) : State :=
  onDbg s (fun d => { d with hrefused := d.hrefused && !bitOf v 6, hnoack := d.hnoack && !bitOf v 7,
                             wchk := d.wchk && !bitOf v 8, memerr := d.memerr && !bitOf v 9 })

/-- OP CHAL (R515): a new challenge, unless a lockout runs. -/
def dpChal (s : State) : State :=
  if s.dbg.lock.isSome then s
  else
    let r := jtsecRead s
    onDbg r.2 (fun d => { d with chalCnt := d.chalCnt + 1, chal := [d.chalCnt + 1, btime s, r.1], chalOk := true })

/-- OP CHECK (R515): the check starts. -/
def dpCheck (s : State) (req : Nat) : State := onDbg s (fun d => { d with check := some (req, s.port) })

/-- OP DROP (R515). -/
def dpDrop (s : State) : State := levelCheck (onDbg s (fun d => { d with auth := 0 }))

/-- A write of DP_AUTH. -/
def dpAuth (s : State) (v : Word) : State :=
  match v.toNat % 4 with
  | 1 => dpChal s
  | 2 => dpCheck s (v.toNat / 4 % 4)
  | 3 => dpDrop s
  | _ => s

/-- The CVP is live (R518). -/
def cvpLive (s : State) : Bool :=
  rb s cvpDrive cvpDriveREQ || (List.range 8).any (fun w => rf s (cvpSafests w) cvpSafestsSAFE != 0xFFFFFFFF)

/-- OP HALT (R518, R519). -/
def dpHalt (s : State) : State :=
  if s.halted || s.dbg.src || !s.running then s
  else if cvpLive s && !rb s dbgCtrl dbgCtrlCONSENT then unitStrobe (onDbg s (fun d => { d with hrefused := true })) 53 483
  else
    let ps := (List.range 256).filter (fun p => !rnSafe s p)
    driveSync (onDbg s (fun d => { d with src := true, wait := some (s.port, ps) }))

/-- OP RESUME (R519). -/
def dpResume (s : State) : State := if s.halted then haltEnd s else s

/-- OP STEP (R519): the clocks run for 4⌈N/4⌉ PORT cycles. -/
def dpStep (s : State) (n : Nat) : State :=
  if !s.halted || s.running || s.pctl.lol then s
  else onDbg { s with running := true } (fun d => { d with stepTo := some (s.port + (max 1 n + 3) / 4 * 4) })

/-- A write of DP_HALT. -/
def dpHaltWrite (s : State) (v : Word) : State :=
  match v.toNat % 4 with
  | 1 => dpHalt s
  | 2 => dpResume s
  | 3 => dpStep s (v.toNat / 4 % 65536)
  | _ => s

/-- A memory access of the debug port is in progress. -/
def accBusy (s : State) : Bool := s.dbg.acc == 1 || s.dbg.acc == 2 || s.dbg.acc == 4

/-- A read of DP_MDATA (R517): it starts a read, or takes the result of one. -/
def dpMdataRead (s : State) : State :=
  match s.dbg.acc with
  | 0 => dpAnswer (onDbg s (fun d => { d with acc := 1 })) dpDefer
  | 3 =>
    let a := (s.dbg.maddr.toNat % 2 ^ 40 + 1) % 2 ^ 40
    let m := if bitOf s.dbg.maddr 40 then BitVec.ofNat 48 (s.dbg.maddr.toNat / 2 ^ 40 * 2 ^ 40 + a) else s.dbg.maddr
    dpAnswer (onDbg s (fun d => { d with acc := 0, maddr := m })) dpReady s.dbg.accW
  | _ => dpAnswer s dpDefer

/-- A write of DP_MDATA (R517): posted, unless an access is in progress. -/
def dpMdataWrite (s : State) (v : Word) : State :=
  if accBusy s then dpAnswer s dpDefer
  else dpAnswer (onDbg s (fun d => { d with acc := 2, accW := v })) dpReady

/-- A write of DP_MADDR (R513, R517). A read result that was not taken is given up. -/
def dpMaddrWrite (s : State) (v : Word) : State :=
  if accBusy s then dpAnswer s dpDefer
  else dpAnswer (onDbg s (fun d => { d with maddr := v, acc := 0 })) dpReady

/-- A read of DP_VT (R521). -/
def dpVtRead (s : State) : State :=
  match s.dbg.vtOut with
  | some w => dpAnswer (unitStrobe (onDbg s (fun d => { d with vtOut := none })) 53 481) dpReady w
  | none => dpAnswer s dpDefer

/-- A write of DP_VT (R521). -/
def dpVtWrite (s : State) (v : Word) : State :=
  match s.dbg.vtIn with
  | some _ => dpAnswer s dpDefer
  | none => dpAnswer (unitStrobe (onDbg s (fun d => { d with vtIn := some v })) 53 480) dpReady

/-- A read of a debug port register (R512). -/
def dpRead (s : State) (idx : Nat) : State :=
  match dpGate s idx false with
  | some (st, err) => dpAnswer (if err then onDbg s (fun d => { d with memerr := true }) else s) st
  | none =>
    if idx = 0 then dpAnswer s dpReady (BitVec.ofNat 48 (0x1A05 * 2 ^ 32 + 3 * 2 ^ 24 + 1 * 2 ^ 16))
    else if idx = 1 then
      let r := freshWord s
      dpAnswer r.2 dpReady (r.1 &&& 3)
    else if idx = 2 then dpAnswer s dpReady (dpStat s)
    else if 4 ≤ idx && idx ≤ 6 then dpAnswer s dpReady (s.dbg.chal.getD (idx - 4) 0)
    else if idx = 0x18 then dpAnswer s dpReady s.dbg.maddr
    else if idx = 0x19 then dpMdataRead s
    else if idx = 0x1A then dpAnswer s dpReady (BitVec.ofNat 48 (s.dbg.rcode + 8 * b2n (accBusy s)))
    else if idx = 0x1C then dpVtRead s
    else dpAnswer s dpReady

/-- A write of a debug port register (R512). -/
def dpWrite (s : State) (idx : Nat) (v : Word) : State :=
  match dpGate s idx true with
  | some (st, err) => dpAnswer (if err then onDbg s (fun d => { d with memerr := true }) else s) st
  | none =>
    if idx = 1 then dpAnswer (dpPower s v) dpReady
    else if idx = 3 then dpAnswer (dpAbort s v) dpReady
    else if idx = 7 then dpAnswer (dpAuth s v) dpReady
    else if 8 ≤ idx && idx ≤ 0xD then
      dpAnswer (onDbg s (fun d => { d with resp := (idx - 8, v) :: d.resp.filter (fun p => p.1 != idx - 8) })) dpReady
    else if idx = 0x10 then dpAnswer (dpHaltWrite s v) dpReady
    else if idx = 0x18 then dpMaddrWrite s v
    else if idx = 0x19 then dpMdataWrite s v
    else if idx = 0x1C then dpVtWrite s v
    else dpAnswer s dpReady

/-! The wire (R509 to R511). -/

/-- CRC-8 of a word, bit 47 first (R510). -/
def crc8 (w : Word) : Nat :=
  (List.range 48).foldl (fun c i =>
    let c := c ^^^ (if bitOf w (47 - i) then 0x80 else 0)
    if c.testBit 7 then (c * 2 % 256) ^^^ 0x07 else c * 2) 0

/-- The header is good: SYNC, and an even number of ones in bits 7 to 0. -/
def stuxOk (h : BitVec 12) : Bool :=
  h.toNat / 256 == 9 && (List.range 8).foldl (fun n i => n + b2n (h.getLsbD i)) 0 % 2 == 0

/-- STUX_TRANSACTION (R509 to R511): a whole transaction: its header, and the data and CRC of a write as the
debugger drives them. Its status is sent before the data; data with a wrong CRC is discarded. -/
def execStuxTransaction (h : BitVec 12) (d : Word) (c : BitVec 8) (s : State) : Out :=
  let idx := h.toNat / 2 % 64
  if !s.dbg.sync || !stuxOk h then ok (dpAnswer (onDbg s (fun x => { x with sync := false })) 0xF)
  else if !h.getLsbD 7 then ok (dpRead s idx)
  else if crc8 d = c.toNat then ok (dpWrite s idx d)
  else
    let t := dpWrite s idx d
    ok (if t.dbg.sts = dpReady then dpAnswer (onDbg s (fun x => { x with wchk := true })) dpReady else t)

/-- STUX_RESYNC (R511). -/
def execStuxResync (s : State) : Out := ok (onDbg s (fun d => { d with sync := true }))

/-- DP_PWRREQ (R512). -/
def execDpPwrreq (s : State) : Out := ok (dpWrite s 1 1)
/-- DP_TRPWR (R512). -/
def execDpTrpwr (s : State) : Out := ok (dpWrite s 1 2)
/-- DP_ABORT (R512). -/
def execDpAbort (v : Word) (s : State) : Out := ok (dpWrite s 3 v)
/-- DP_CHAL (R515). -/
def execDpChal (s : State) : Out := ok (dpWrite s 7 1)
/-- DP_CHECK (R515). -/
def execDpCheck (req : BitVec 2) (s : State) : Out := ok (dpWrite s 7 (BitVec.ofNat 48 (req.toNat * 4 + 2)))
/-- DP_DROP (R515). -/
def execDpDrop (s : State) : Out := ok (dpWrite s 7 3)
/-- DP_HALT (R518). -/
def execDpHalt (s : State) : Out := ok (dpWrite s 0x10 1)
/-- DP_RESUME (R519). -/
def execDpResume (s : State) : Out := ok (dpWrite s 0x10 2)
/-- DP_STEP (R519). -/
def execDpStep (n : BitVec 16) (s : State) : Out := ok (dpWrite s 0x10 (BitVec.ofNat 48 (n.toNat * 4 + 3)))
/-- DP_MADDR_WRITE (R513, R517). -/
def execDpMaddrWrite (v : Word) (s : State) : Out := ok (dpWrite s 0x18 v)
/-- DP_MDATA_READ (R517). -/
def execDpMdataRead (s : State) : Out := ok (dpRead s 0x19)
/-- DP_MDATA_WRITE (R517). -/
def execDpMdataWrite (v : Word) (s : State) : Out := ok (dpWrite s 0x19 v)
/-- DP_VT_READ (R521). -/
def execDpVtRead (s : State) : Out := ok (dpRead s 0x1C)
/-- DP_VT_WRITE (R521). -/
def execDpVtWrite (v : Word) (s : State) : Out := ok (dpWrite s 0x1C v)

/-! Authentication (R515). -/

/-- The key as bytes: 32 of them, laid out as a digest (R484). -/
def keyBytes (s : State) : List Nat :=
  (wordBytes ((List.range 6).map (fun w => (s.dbg.key.find? (fun p => p.1 == w)).elim 0 (·.2)))).take 32

/-- The response that the challenge asks for. -/
def authExpected (s : State) (req : Nat) : List Word :=
  digestWords (hmac (keyBytes s) (wordBytes ((List.range 3).map (fun i => s.dbg.chal.getD i 0) ++ [BitVec.ofNat 48 req])))

/-- AUTH_CHECK_DONE (R515). -/
def execAuthCheckDone (s : State) : Out :=
  match s.dbg.check with
  | none => ok s
  | some (req, _) =>
    let resp := (List.range 6).map (fun w => (s.dbg.resp.find? (fun p => p.1 == w)).elim (0 : Word) (·.2))
    let good := (req == 1 || req == 2) && keyOk s && s.dbg.chalOk && resp == authExpected s req
    let t := unitStrobe (onDbg s (fun d => { d with check := none, chalOk := false })) 53 483
    onlyIf s.running s (if good then levelCheck (onDbg t (fun d => { d with auth := req }))
      else onDbg t (fun d => { d with fails := min 255 (d.fails + 1), lock := some s.port }))

/-- AUTH_LOCKOUT_EXPIRY (R515): 2^20 AON cycles after the failure. -/
def execAuthLockoutExpiry (s : State) : Out :=
  match s.dbg.lock with
  | none => ok s
  | some p => onlyIf (!s.running || decide (p + 12 * 2 ^ 20 ≤ s.port)) s (onDbg s (fun d => { d with lock := none }))

/-- DBGCAP_CHANGE (R514): the pins RN_DBGCAP change. -/
def execDbgcapChange (v : BitVec 2) (s : State) : Out := ok (levelCheck (onDbg s (fun d => { d with cap := v.toNat })))

/-! Halting (R518, R519). -/

/-- The halt's wait is over in this PORT cycle: every report has come, or 32 cycles have passed, at an aligned
cycle. -/
def haltDue (s : State) : Bool :=
  match s.dbg.wait with
  | some (h, ps) => s.port % 4 == 0 && h < s.port && (ps.isEmpty || h + 32 ≤ s.port)
  | none => false

/-- HALT_WAIT_END (R518): the clocks stop and HALTED is set; with PORT stopped the trip filter is bypassed (R36). -/
def execHaltWaitEnd (s : State) : Out :=
  match s.dbg.wait with
  | none => ok s
  | some (_, ps) =>
    onlyIf (s.running && haltDue s) s
      (tripBypass (onDbg { clocksStop (coresHalt s) with halted := true } (fun d => { d with wait := none, hnoack := d.hnoack || !ps.isEmpty })))

/-- The step's cycles have run. -/
def stepDue (s : State) : Bool :=
  match s.dbg.stepTo with
  | some p => p ≤ s.port
  | none => false

/-- STEP_END (R519): the clocks stop again, and the trip filter is bypassed (R36). -/
def execStepEnd (s : State) : Out :=
  onlyIf (s.running && s.halted && stepDue s) s (tripBypass (onDbg (clocksStop s) (fun d => { d with stepTo := none })))

end Sys2Proof.Machine
end

