-- ==== Sys2Proof/Machine/Sem.lean ====
section
/-! DEFINITION. The Sillage event matrix (R128 to R141). -/

namespace Sys2Proof.Machine

/-- A consumer input clocked at FABRIC (R129). -/
def fabricConsumer (cons : Nat) : Bool :=
  (0x80 ≤ cons && cons ≤ 0xBF) || (0xE8 ≤ cons && cons ≤ 0xEB)

/-- Count a dropped event of channel c (R131, R135). -/
def semDrop (s : State) (c : Nat) : State := inc s (semChsts c) semChstsDROP

/-- Count a delivered event of channel c. -/
def semCount (s : State) (c : Nat) : State := inc s (semChsts c) semChstsCNT

/-- Set event flag e of core k (R220). -/
def setEventFlag (s : State) (k e : Nat) : State :=
  setCore s k { coreOf s k with ef := natBit (coreOf s k).ef e true }

/-- The PORT cycle in which an event that enters the matrix now reaches a law slot (R47, R133): one of a PORT-clocked
producer in the same cycle. One that a FABRIC-clocked producer fires in the second FABRIC cycle comes 2 CORE cycles
later, at the next PORT edge; one of a CORE-clocked producer comes 1 CORE cycle later, and which of that FABRIC cycle's
two CORE cycles fired it is not told: a free choice. -/
def semArrival (s : State) (p : Nat) (half : Bool) : Nat × State :=
  if !half then (s.port, s)
  else if softProducer p then (s.port + 1, s)
  else if coreClocked p then (s.port + b2n (freshBit s).1, (freshBit s).2)
  else (s.port, s)

/-- Deliver an event of channel c to its consumer input, or drop it (R129, R131, R135). `p`, `half`: its producer, and
the FABRIC cycle of the PORT cycle in which it fired. -/
def semDeliver (s : State) (c cons p : Nat) (half : Bool) : State :=
  if cons < 0x80 then
    if pdOn s (18 + engOf cons) && rf s (slotSrc cons) aeSlotsrcTRIG == 1
        && rf s (slotSrc cons) aeSlotsrcSECH == c then
      let r := semArrival s p half
      semCount { r.2 with ae := { r.2.ae with trigs := r.2.ae.trigs ++ [(cons, .event r.1)] } } c
    else semDrop s c
  else if cons < 0xC0 then semCount (strobe s (256 + (cons - 0x80))) c
  else if cons < 0xE8 then
    let k := (cons - 0xC0) / 4
    if pdOn s (coreDomain k) then semCount (setEventFlag s k ((cons - 0xC0) % 4)) c else semDrop s c
  else if cons < 0xEC then
    if pdOn s 55 then semCount (traceTrigger s (cons - 0xE8)) c else semDrop s c
  else s

/-- One more than the FABRIC cycle in which an event enters the matrix. -/
def semNow (s : State) (half : Bool) : Nat := 2 * s.port + b2n half + 1

/-- One event of producer p on channel c: delivered, or merged with an event of the channel that reaches a FABRIC
consumer in the same cycle (R134). -/
def semRoute (s : State) (c p : Nat) (half : Bool) : State :=
  let cons := rf s (semChcfg c) semChcfgCONS
  if fabricConsumer cons && tget 0 s.sem.last c == semNow s half then inc s (semChsts c) semChstsMERGE
  else
    let t := semDeliver s c cons p half
    { t with sem := { t.sem with last := tset 0 t.sem.last c (semNow s half) } }

/-- Route an event of producer p through every enabled channel that selects it (R128, R132). -/
def semRouteAll (s : State) (p : Nat) (half : Bool) : State :=
  forN 256 s (fun t c =>
    if rb t (semChcfg c) semChcfgEN && rf t (semChcfg c) semChcfgPSEL == p then semRoute t c p half else t)

/-- SEM_EVENT (R132): the oldest producer event that has fired enters the matrix. `half`: the second
FABRIC cycle of the PORT cycle. While PD50 is not ON nothing is delivered (R135). -/
def execSemEvent (half : Bool) (s : State) : Out :=
  match s.sem.fired with
  | [] => ok s
  | p :: r =>
    let t := { s with sem := { s.sem with fired := r } }
    ok (if pdOn s 50 then semRouteAll t p half else t)

/-- SEC as it acts: a reserved 0b11 acts as LOCKED (R137). -/
def secActs (v : Nat) : Nat := min v 2

/-- A requester number that names a requester (R136). -/
def namesWho (v who : Nat) : Bool := v == who && who < 12

/-- An OWNER value that names nobody: none, or a reserved value (R136). -/
def ownerNone (v : Nat) : Bool := 12 ≤ v

/-- The binding of a consumer input as SEM_CONS shows it (R130). -/
def setCons (s : State) (i : Nat) (b : Option Nat) : State :=
  match b with
  | none => wr s (semCons i) 0
  | some c => wf (wb s (semCons i) semConsVALID true) (semCons i) semConsCH c

/-- A channel write that passed every check takes effect, with its binding (R130, R132). A binding that it makes, where the
channel was not enabled on that input already, is remembered for this PORT cycle. -/
def semChPut (s : State) (n : Nat) (v : Word) : State :=
  let en := rb s (semChcfg n) semChcfgEN
  let old := rf s (semChcfg n) semChcfgCONS
  let was := rd s (semChcfg n)
  let t := if en then setCons s old none else s
  let t := regPut t (semChcfg n) true v
  if rb t (semChcfg n) semChcfgEN then
    let i := rf t (semChcfg n) semChcfgCONS
    let t := setCons t i (some n)
    let new := if en && i == old then [] else [(i, n, was)]
    { t with sem := { t.sem with binds := t.sem.binds.filter (fun b => b.2.1 != n) ++ new } }
  else t

/-- The channel register as a write that made a binding found it; that write is undone (R130). -/
def semUnbind (s : State) (n : Nat) (was : Word) : State :=
  let t := setCons s (rf s (semChcfg n) semChcfgCONS) none
  let t := wr t (semChcfg n) was
  let t := if rb t (semChcfg n) semChcfgEN then setCons t (rf t (semChcfg n) semChcfgCONS) (some n) else t
  { t with sem := { t.sem with binds := t.sem.binds.filter (fun b => b.2.1 != n) } }

/-- The write of channel n would bind an input that is bound to another enabled channel (R130). -/
def semBound (s : State) (n : Nat) (v : Word) : Bool :=
  let i := semChcfgCONS.get v
  semChcfgEN.get v == 1 && rb s (semCons i) semConsVALID && rf s (semCons i) semConsCH != n

/-- The status flags that a channel write sets whatever its binding, none where it passes (R136, R137): each rule that
the write breaks sets its own. -/
def semChRefusals (s : State) (q : Req) (n : Nat) (v : Word) : List Fld :=
  let own := rf s (semChcfg n) semChcfgOWNER
  let sec := secActs (rf s (semChcfg n) semChcfgSEC)
  let sec' := secActs (semChcfgSEC.get v)
  let mine := holdsType s q 4 && (namesWho own q.who.val || (ownerNone own && namesWho (semChcfgOWNER.get v) q.who.val))
  (if mine then [] else [semStsOWNV]) ++ (if sec == 2 then [semStsLOCKV] else []) ++
    (if sec' < sec || (1 ≤ max sec sec' && softProducer (semChcfgPSEL.get v)) then [semStsSECV] else [])

/-- Set status flags. -/
def semFlags (s : State) (l : List Fld) : State := l.foldl (fun t f => wb t semSts f true) s

/-- The binding of the input that this write names, if another write made it in the present PORT cycle. -/
def semRival (s : State) (n : Nat) (v : Word) : Option (Nat × Nat × Word) :=
  s.sem.binds.find? (fun b => b.1 == semChcfgCONS.get v && b.2.1 == rf s (semCons b.1) semConsCH && n < b.2.1)

/-- A write of SEM_CHCFG[n]. Where the input that it names was bound to a higher channel number by a write in the same
FABRIC cycle, this write takes effect and the other one sets CONSV (R130); commands do not say in which of a PORT
cycle's two FABRIC cycles they lie, so whether it was the same one is a free choice. -/
def semChWrite (s : State) (q : Req) (n : Nat) (v : Word) : State :=
  if !pdOn s 50 then respond s 3
  else match semChRefusals s q n v with
    | f :: l => respond (semFlags s (f :: l)) (if holdsType s q 4 then 0 else 2)
    | [] =>
      if semBound s n v then
        match semRival s n v with
        | some b =>
          if (freshBit s).1 then respond (semFlags (semChPut (semUnbind (freshBit s).2 b.2.1 b.2.2) n v) [semStsCONSV]) 0
          else respond (semFlags (freshBit s).2 [semStsCONSV]) 0
        | none => respond (semFlags s [semStsCONSV]) 0
      else respond (semChPut s n v) 0

/-- SEM_CHCFG_WRITE (R130, R136, R137). -/
def execSemChcfgWrite (q : Req) (n : Fin 256) (v : Word) (s : State) : Out := ok (semChWrite s q n.val v)

/-- A write of SEM_SWEV: producer SWk fires for each bit written 1 (R128). -/
def swevWrite (s : State) (v : Nat) : State :=
  if !pdOn s 50 then respond s 3
  else respond (forN 32 s (fun t k => if v.testBit k then semFire t (0x0C0 + k) else t)) 0

/-- SEM_SWEV (R128, R137). -/
def execSemSwev (v : BitVec 32) (s : State) : Out := ok (swevWrite s v.toNat)

/-- A write of SEM_TGLOCK: ones freeze their groups (R139). -/
def tglockWrite (s : State) (q : Req) (v : Nat) : State :=
  if holdsType s q 4 then respond (wf s semTglock semTglockLOCK (rf s semTglock semTglockLOCK ||| v)) 0
  else respond s 2

/-- SEM_TGLOCK (R139). -/
def execSemTglock (q : Req) (v : BitVec 16) (s : State) : Out := ok (tglockWrite s q v.toNat)

/-- A write of SEM_TGEN[g][w] (w below 2) or SEM_TGPR[g]: discarded when frozen, else the group input
follows at once (R139). -/
def tgMatrixWrite (s : State) (q : Req) (g w : Nat) (v : Word) : State :=
  if (rf s semTglock semTglockLOCK).testBit g then
    respond (if pdOn s 50 then wb s semSts semStsTGLOCKV true else s) (if holdsType s q 4 then 0 else 2)
  else if holdsType s q 4 then
    respond (tripSync (regPut s (if w < 2 then semTgen g w else semTgpr g) true v)) 0
  else respond s 2

/-- SEM_TGMATRIX_WRITE (R138, R139). -/
def execSemTgmatrixWrite (q : Req) (g : Fin 16) (w : Fin 3) (v : Word) (s : State) : Out :=
  ok (tgMatrixWrite s q g.val w.val v)

end Sys2Proof.Machine
end

