-- ==== Sys2Proof/Machine/RegAccess.lean ====
section
/-! DEFINITION. The register space (R10 to R13, R236, R263 to R266): what a read returns and a write does at
every register of every subsystem. A register without behaviour of its own follows its access codes. -/

namespace Sys2Proof.Machine

/-! Writes. -/

/-- The completion of a write by R236: DENIED where the register has an RWT field that was refused. -/
def denied (d : RegDesc) (may : Bool) : Nat := if d.guarded && !may then 2 else 0

/-- A write of a register without behaviour of its own (R10, R11, R236). -/
def plainWrite (s : State) (d : RegDesc) (q : Req) (a : Nat) (v : Word) : State :=
  let may := holdsType s q d.otype
  respond (regPut s a may v) (denied d may)

/-- Some inputs' levels are taken again: their polarity was written (R36). -/
def tripAgain (s : State) (m : Nat) : State := forN 32 s (fun t i => tripLevel t (32 * m + i))

/-- Registers of the converter port. -/
def cvpWrite (s : State) (d : RegDesc) (q : Req) (a : Nat) (v : Word) : State :=
  let t := plainWrite s d q a v
  if d.base = cvpTglatch then
    (if holdsType s q 1 then respond (tgClear s (v.toNat % 2 ^ 16)) 0 else respond s 2)
  else if d.base = cvpTrippol0 || d.base = cvpTrippol1 then tripAgain t (a - cvpTrippol0)
  else if d.base = cvpTripflt then tripFilterTick t
  else if d.base = cvpDrive then driveSync t
  else if d.base = cvpLaneen || d.base = cvpSwsafe 0 || d.base = cvpTgmask 0 0 || d.base = cvpPaircfg 0 then safeSync t
  else t

/-- A source register names the point it holds (R321). -/
def sourceNamed (s : State) (a : Nat) (kind src : Fld) : State :=
  if rf s a kind = 1 then pneSourceNamed s (rf s a src) else s

/-- Registers of an Accord engine (R70, R90). -/
def accordWrite (s : State) (d : RegDesc) (ix : List Nat) (q : Req) (a : Nat) (v : Word) : State :=
  let may := holdsType s q otAccord
  let n := 16 * ix.getD 0 0 + ix.getD 1 0
  let g := ix.getD 0 0
  let done (t : State) : State := respond t (denied d may)
  if d.base = aeSlotctl 0 0 then done (slotctlWrite s n may v)
  else if d.base = aeSlotsrc 0 0 || d.base = aeSlotbase 0 0 || d.base = aeSlotper 0 0 || d.base = aeHocfg 0 0 then
    done (slotLocked s n a may v)
  else if d.base = aeTmpl 0 0 0 then done (if may then tmplWrite s n (ix.getD 2 0) may v else s)
  else if d.base = aeHoctl 0 0 then done (hoctlWrite s n may v)
  else if d.base = aeAdtcfg 0 0 then done (adtcfgWrite s n may v)
  else if d.base = aeAdtwin 0 0 then done (if may then adtWindowWrite s n v else s)
  else if d.base = aeSlotphs 0 0 then done (slotphsWrite s n may v)
  else if d.base = aePhsctl 0 then done (phsctlWrite s g may v)
  else if d.base = aePhssrc 0 then
    (let t := phsRegWrite s d g a may v
     done (if may && !rb s (aePhsctl g) aePhsctlEN then sourceNamed t a aePhssrcKIND aePhssrcSRC else t))
  else if d.base = aePhscap 0 || d.base = aePhspre 0 || d.base = aePhssts 0 then done (phsRegWrite s d g a may v)
  else if d.base = aePhswin 0 then done (if may then phsWindowWrite s g v else s)
  else if d.base = aeRefsrc 0 0 0 then
    (if may then sourceNamed (plainWrite s d q a v) a aeRefsrcKIND aeRefsrcSRC else plainWrite s d q a v)
  else plainWrite s d q a v

/-- LOCKV of a cell. -/
def cellLockv (s : State) (c : Nat) : State := wb s (sspCsts c) sspCstsLOCKV true

/-- A write of SSP_CCFG[c] (R104 to R106): the fields that R106 names keep their values while EN is 1. A write that gives
one of them another value sets LOCKV (DESIGN CHOICE, log entry 187). -/
def ccfgWrite (s : State) (c : Nat) (may : Bool) (v : Word) : State :=
  let a := sspCcfg c
  let was := rb s a sspCcfgEN
  let t := wf s a sspCcfgDECIM (sspCcfgDECIM.get v)
  let t := if may then wf t a sspCcfgMAXSW (sspCcfgMAXSW.get v) else t
  let fixed := [sspCcfgENUM, sspCcfgNX, sspCcfgW, sspCcfgNC, sspCcfgTRGI]
  let t := if !may then t
    else if was then (if fixed.all (fun f => f.get v == rf s a f) then t else cellLockv t c)
    else fixed.foldl (fun t f => wf t a f (f.get v)) t
  let t := if !may then t
    else if sspCcfgEN.get v == 1 then (if was then t else cellEnable t c)
    else if was then cellDisable t c else t
  let t := if sspCcfgRTRQ.get v == 1 then sspRtrq t c else t
  if sspCcfgARMRQ.get v == 1 then sspArmrq t c else t

/-- Registers of the predictor (R106, R110). -/
def predictorWrite (s : State) (d : RegDesc) (ix : List Nat) (q : Req) (a : Nat) (v : Word) : State :=
  let may := holdsType s q 3
  let c := ix.getD 0 0
  if d.base = sspCcfg 0 then respond (ccfgWrite s c may v) (denied d may)
  else if d.base = sspCper 0 || d.base = sspClead 0 || d.base = sspPtmpl 0 0 || d.base = sspTidx 0 0 || d.base = sspClist 0 0 then
    (if rb s (sspCcfg c) sspCcfgEN then respond (if may then cellLockv s c else s) (denied d may)
    else plainWrite s d q a v)
  else if d.base = sspRefsrc 0 0 then
    (if may then sourceNamed (plainWrite s d q a v) a sspRefsrcKIND sspRefsrcSRC else plainWrite s d q a v)
  else plainWrite s d q a v

/-- A write of DM_CFG[m] (R127): one that changes only EN acts on an enabled monitor. -/
def dmCfgWrite (s : State) (m : Nat) (v : Word) : State :=
  let a := dmCfg m
  let en := dmCfgEN.get v == 1
  if rb s a dmCfgEN then
    if dmCfgEN.put v 1 &&& ~~~ maskOf 15 0 = rd s a then (if en then s else dmDisable s m)
    else wb s (dmSts m) dmStsCFGV true
  else
    let t := regPut s a true (dmCfgEN.put v 0)
    if en then dmEnable t m else t

/-- A write of DM_STS[m] (R123, R127). -/
def dmStsWrite (s : State) (m : Nat) (v : Word) : State :=
  let t := regPut s (dmSts m) false v
  if dmStsMISS.get v == 1 then dmRelease t m else t

/-- A write of PCTL_CGTIME[g] (R114): discarded with CGLOCKV while EN is 1. -/
def cgtimeWrite (s : State) (g : Nat) (v : Word) : State :=
  if rb s (pctlCgctl g) pctlCgctlEN then wb s (pctlCgctl g) pctlCgctlCGLOCKV true else regPut s (pctlCgtime g) true v

/-- A write of PCTL_CGCTL[g] (R114). -/
def cgctlWrite (s : State) (g : Nat) (may : Bool) (v : Word) : State :=
  let t := regPut s (pctlCgctl g) false v
  let was := rb s (pctlCgctl g) pctlCgctlEN
  if !may then t
  else if pctlCgctlEN.get v == 1 then (if was then t else cgEnable t g)
  else if was then cgDisable t g else t

/-- Registers of the platform controller and of the deadline monitors (R127, R488). -/
def platformWrite (s : State) (d : RegDesc) (ix : List Nat) (q : Req) (a : Nat) (v : Word) : State :=
  let may := holdsType s q otPctl
  let n := ix.getD 0 0
  let done (t : State) : State := respond t (denied d may)
  if d.base = pctlJtsec then done (if may then jtsecWrite s v else s)
  else if d.base = pctlJtns then done (jtnsWrite s may v)
  else if d.base = pctlDmdone then dmdoneWrite s q (v.toNat % 256)
  else if d.base = pctlCgtime 0 then done (if may then cgtimeWrite s n v else s)
  else if d.base = pctlCgctl 0 then done (cgctlWrite s n may v)
  else if d.base = dmCfg 0 then done (if may then dmCfgWrite s n v else s)
  else if d.base = dmSts 0 then done (dmStsWrite s n v)
  else if d.base = pctlBlevel then blevelWrite s q v
  else if d.base = pctlCtrl then pctlCtrlWrite s q v
  else if d.base = pctlCorectl 0 then corectlWrite s q n v
  else if d.base = pctlPd 0 then pdWrite s q n v
  else plainWrite s d q a v

/-- Registers of the event matrix (R140). -/
def matrixWrite (s : State) (d : RegDesc) (ix : List Nat) (q : Req) (a : Nat) (v : Word) : State :=
  let n := ix.getD 0 0
  if d.base = semSwev then swevWrite s (v.toNat % 2 ^ 32)
  else if d.base = semTglock then tglockWrite s q (v.toNat % 2 ^ 16)
  else if d.base = semChcfg 0 then semChWrite s q n v
  else if d.base = semTgen 0 0 then tgMatrixWrite s q n (ix.getD 1 0) v
  else if d.base = semTgpr 0 then tgMatrixWrite s q n 2 v
  else plainWrite s d q a v

/-- Registers of the interrupt controller (R161). -/
def intcWrite (s : State) (d : RegDesc) (ix : List Nat) (q : Req) (a : Nat) (v : Word) : State :=
  let n := ix.getD 0 0
  if d.base = intcCtrl then pholdWrite s q (intcCtrlPHOLD.get v == 1)
  else if d.base = intcMset then msetWrite s (v.toNat % 512)
  else if d.base = intcEoi 0 then eoiWrite s n (v.toNat % 512)
  else if d.base = intcSrc 0 then srcWrite s q n v
  else plainWrite s d q a v

/-- Registers of the memory system (R284). -/
def memsysWrite (s : State) (d : RegDesc) (ix : List Nat) (q : Req) (a : Nat) (v : Word) : State :=
  if d.base = memResvctl then respond (if memResvctlCOMMIT.get v == 1 then resvCommit s else s) 0
  else if d.base = memRetire 0 then retireWrite s q (ix.getD 0 0) (v.toNat % 16)
  else plainWrite s d q a v

/-- A write of a point mailbox's value or auxiliary word (R317), or a journal mailbox's address (R354): its
requester's alone, and ignored while BUSY. -/
def mboxWrite (s : State) (d : RegDesc) (q : Req) (r a sts : Nat) (busy : Fld) (v : Word) : State :=
  if q.who.val ≠ r || rb s sts busy then respond s 0 else plainWrite s d q a v

/-- Registers of the point engine (R329). -/
def pointWrite (s : State) (d : RegDesc) (ix : List Nat) (q : Req) (a : Nat) (v : Word) : State :=
  let r := ix.getD 0 0
  if d.base = pneCcfg then pneCcfgWrite s q v
  else if d.base = pneImgbase then
    (if rb s pneCcfg pneCcfgEN then respond s (denied d (holdsType s q 8)) else plainWrite s d q a v)
  else if d.base = pneMbpnt 0 then pneMbpntWrite s q r v
  else if d.base = pneMbval 0 || d.base = pneMbaux 0 then mboxWrite s d q r a (pneMbsts r) pneMbstsBUSY v
  else plainWrite s d q a v

/-- Registers of the journal engine (R356, R380). -/
def journalWrite (s : State) (d : RegDesc) (ix : List Nat) (q : Req) (a : Nat) (v : Word) : State :=
  let n := ix.getD 0 0
  if d.base = jneCtrl then jneCtrlWrite s q v
  else if d.base = jneCmd then jneCmdWrite s q v
  else if d.base = jneHead || d.base = jneHlog then jneLayoutWrite s q a v
  else if d.base = jneHoldup then
    (if holdsType s q otJournal then respond (holdupWrite s v) 0 else respond s 2)
  else if d.base = jneMbctl 0 then jneMbctlWrite s q n v
  else if d.base = jneMbaddr 0 then mboxWrite s d q n a (jneMbsts n) jneMbstsBUSY v
  else if d.base = jneMqcfg 0 then mqcfgWrite s q n v
  else if d.base = jneMqhead 0 then respond (mqAsk s n) 0
  else if d.base = jneSegcmd then segcmdWrite s q v
  else if d.base = jnePlcwin then plcwinWrite s q v
  else if d.base = jneMwear 0 then respond (merrWrite s n v) 0
  else plainWrite s d q a v

/-- Registers of the wear accountant (R396). -/
def wearWrite (s : State) (d : RegDesc) (q : Req) (a : Nat) (v : Word) : State :=
  if d.base = wacCtrl then wacCtrlWrite s q v
  else if d.base = wacBase then wacBaseWrite s q v
  else if d.base = wacCmd then wacCmdWrite s q v
  else plainWrite s d q a v

/-- Registers of the rack link (R424). -/
def rackWrite (s : State) (d : RegDesc) (ix : List Nat) (q : Req) (a : Nat) (v : Word) : State :=
  let n := ix.getD 0 0
  if d.base = rlkCtrl then rlkCtrlWrite s q v
  else if d.base = rlkPhase || d.base = rlkTbl then rlkCfgWrite s q a v
  else if d.base = rlkRing 0 then ringWrite2 s q n v
  else if d.base = rlkUmap 0 then umapWrite s q n v
  else plainWrite s d q a v

/-- Registers of the mirror link (R449). -/
def mirrorWrite (s : State) (d : RegDesc) (q : Req) (a : Nat) (v : Word) : State :=
  if d.base = mlkCtrl then mlkCtrlWrite s q v
  else if d.base = mlkBccmd then bccmdWrite s q v
  else if d.base = mlkBcbuf || d.base = mlkBchalf || d.base = mlkIbuf || d.base = mlkSlotsel 0 then mlkLayoutWrite s q a v
  else plainWrite s d q a v

/-- Registers of the command port (R469). -/
def commandWrite (s : State) (d : RegDesc) (ix : List Nat) (q : Req) (a : Nat) (v : Word) : State :=
  let n := ix.getD 0 0
  if d.base = cptCtrl then cptCtrlWrite s q v
  else if d.base = cptPool || d.base = cptEvring then cptCfgWrite s q a v
  else if d.base = cptHdb then doorbellWrite s q 10 v
  else if d.base = cptPdb then doorbellWrite s q 12 v
  else if d.base = cptTake then cptTakeWrite s q v
  else if d.base = cptReply then cptReplyWrite s q v
  else if d.base = cptSubmit 0 then cptSubmitWrite s q n v
  else if d.base = cptFree 0 then cptFreeWrite s q n v
  else plainWrite s d q a v

/-- Registers of the debug unit (R524). -/
def debugWrite (s : State) (d : RegDesc) (ix : List Nat) (q : Req) (a : Nat) (v : Word) : State :=
  let n := ix.getD 0 0
  if d.base = dbgCtrl then dbgCtrlWrite s q v
  else if d.base = dbgKey 0 then dbgKeyWrite s n v
  else if d.base = dbgVtout then vtoutWrite s v
  else if d.base = dbgCorectl 0 then dbgCorectlWrite s q n v
  else if d.base = dbgCdat 0 then cdatWrite s q n v
  else if d.base = dbgTrctl then trctlWrite s q v
  else if d.base = dbgTrmark then trmarkWrite s v
  else plainWrite s d q a v

/-- The subsystem whose register range holds the address (R264), by its base shifted right 16 bits. -/
def regUnit (a : Nat) : Option Nat :=
  let u := a / 0x10000
  if 0x4000 ≤ u && u ≤ 0x400D && !(u == 0x4005 && 0x8000 ≤ a % 0x10000) then some (u - 0x4000) else none

/-- A write of the register at address a: DECERR outside every range, UNIT_GONE where its domain is not ON,
nothing at an address that the chapter does not list (R264). -/
def regWrite (s : State) (q : Req) (a : Nat) (v : Word) : State :=
  match regUnit a with
  | none => respond s 4
  | some u =>
    match regFind a with
    | none => respond s 0
    | some (d, ix) =>
      if !areaOn s ix d.area then respond s 3
      else match u with
        | 0 => platformWrite s d ix q a v
        | 1 => intcWrite s d ix q a v
        | 2 => memsysWrite s d ix q a v
        | 3 => matrixWrite s d ix q a v
        | 4 => cvpWrite s d q a v
        | 5 => accordWrite s d ix q a v
        | 6 => predictorWrite s d ix q a v
        | 7 => journalWrite s d ix q a v
        | 8 => pointWrite s d ix q a v
        | 9 => wearWrite s d q a v
        | 10 => mirrorWrite s d q a v
        | 11 => rackWrite s d ix q a v
        | 12 => commandWrite s d ix q a v
        | _ => debugWrite s d ix q a v

/-- REGISTER_WRITE (R10): a requester writes the register at word address `a`. -/
def execRegisterWrite (q : Req) (a : BitVec 40) (v : Word) (s : State) : Out := ok (regWrite s q a.toNat v)

/-! Reads. -/

/-- Clear a register's RC fields (R11, R12). -/
def clearRc (s : State) (d : RegDesc) (a : Nat) : State :=
  let rc := d.fields.filter (fun f => f.acc == .rc)
  if rc.isEmpty then s
  else clearTo s a (s.sets.filter (fun x => x.addr == a && rc.any (fun f => f.lo ≤ x.fld.lo && x.fld.hi ≤ f.hi)))
    (rc.foldl (fun w f => (⟨f.hi, f.lo⟩ : Fld).put w 0) (rd s a))

/-- A value as a read returns it: WO fields read zero (R11). -/
def hideWo (d : RegDesc) (w : Word) : Word :=
  d.fields.foldl (fun w f => if f.acc == .wo then (⟨f.hi, f.lo⟩ : Fld).put w 0 else w) w

/-- The word of a register that is not simply stored, in the platform controller's range. -/
def platformWord (s : State) (d : RegDesc) (a : Nat) : Word :=
  if d.base = pctlBtime then btime s
  else if d.base = pctlJtns then pctlJtnsNS.put (rd s a) s.dm.latchNs
  else if d.base = pctlJtcap then s.dm.latchBt
  else rd s a

/-- The word of an interrupt register. -/
def intcWord (s : State) (d : RegDesc) (ix : List Nat) (a : Nat) : Word :=
  let n := ix.getD 0 0
  if d.base = intcPend 0 then pendRead s n
  else if d.base = intcGhold 0 then gholdRead s n
  else if d.base = intcCorests 0 then corestsRead s n
  else if d.base = intcSrc 0 then srcRead s n
  else rd s a

/-- The word of a mailbox register: zero to another requester (R317, R354). -/
def mboxWord (s : State) (q : Req) (d : RegDesc) (ix : List Nat) (a : Nat) : Word :=
  let mine := q.who.val = ix.getD 0 0
  if d.base = pneMbpnt 0 || d.base = pneMbval 0 || d.base = pneMbaux 0 || d.base = pneMbsts 0 || d.base = pneMbcsn 0
    || d.base = jneMbctl 0 || d.base = jneMbaddr 0 || d.base = jneMbsts 0 || d.base = jneMbcsn 0 then
    (if mine then rd s a else 0)
  else if d.base = jneBudget then budgetRead s
  else if d.base = jnePlcsts then plcstsRead s
  else rd s a

/-- The word of a debug register. -/
def debugWord (s : State) (d : RegDesc) (ix : List Nat) (a : Nat) : Word :=
  if d.base = dbgSts then dbgStsRead s
  else if d.base = dbgCdat 0 then cdatRead s (ix.getD 0 0)
  else rd s a

/-- The word that a read of a listed register returns. -/
def regWord (s : State) (q : Req) (u : Nat) (d : RegDesc) (ix : List Nat) (a : Nat) : Word :=
  hideWo d (match u with
    | 0 => platformWord s d a
    | 1 => intcWord s d ix a
    | 2 => if d.base = memBank 0 0 then bankRead s (ix.getD 0 0) (ix.getD 1 0) else rd s a
    | 7 | 8 => mboxWord s q d ix a
    | 10 => if d.base = mlkJsync && !isActive s then BitVec.ofNat 48 (rf s jneNextcsn jneNextcsnCSN - 1) else rd s a
    | 12 => if d.base = cptBuf 0 then cptBufREMAIN.put (rd s a) (bufRemain s (ix.getD 0 0)) else rd s a
    | 13 => debugWord s d ix a
    | _ => rd s a)

/-- A log entry has been read (R126, R284). -/
def logSeen (s : State) (d : RegDesc) (ix : List Nat) : State :=
  let i := ix.getD 0 0
  if d.base = pctlDmlog 0 0 then { s with dm := { s.dm with unread := s.dm.unread.filter (· != i) } }
  else if d.base = memEcclog 0 0 then { s with msys := { s.msys with unreadEcc := s.msys.unreadEcc.filter (· != i) } }
  else if d.base = memTblog 0 0 then { s with msys := { s.msys with unreadTb := s.msys.unreadTb.filter (· != i) } }
  else s

/-- A read of the register at address a: its code and word go to the response. With `peek` RC fields stay
(R517). False: the response comes later, to `sink` (R452). -/
def regRead (s : State) (q : Req) (a : Nat) (peek : Bool) (sink : Nat) : State × Bool :=
  match regUnit a with
  | none => (respond s 4, true)
  | some u =>
    match regFind a with
    | none => (respond s 0, true)
    | some (d, ix) =>
      if !areaOn s ix d.area then (respond s 3, true)
      else if d.base = intcClaim 0 then (claimRead s q.who.val (ix.getD 0 0), true)
      else if d.base = pctlJtsec then (respond (jtsecRead s).2 0 (jtsecRead s).1, true)
      else if d.base = dbgVtin then (respond (if peek then s else (vtinRead s).2) 0 (vtinRead s).1, true)
      else if d.base = cptAlloc 0 then
        match cptAllocRead s q (ix.getD 0 0) sink with
        | some t => (t, false)
        | none => (respond s 0, true)
      else (respond (if peek then s else logSeen (clearRc s d a) d ix) 0 (regWord s q u d ix a), true)

end Sys2Proof.Machine
end

