-- ==== Sys2Proof/Machine/Access.lean ====
section
/-! DEFINITION. Accesses through the interconnect (R209, R210, R263 to R271, R495 to R498, R517): the cores', the
host slave port's, the debug port's, and the responses on the host master port. -/

namespace Sys2Proof.Machine

/-- The port meets another access at the array and is answered BUSY (R51, R269): a read that meets a write, or
the later port's write that meets a write. -/
def meetsBusy (t : Target) (port : Nat) (write : Bool) (m : Meet) : Bool :=
  match t with
  | .shared _ _ => m == .write && (!write || portPlane port == 1)
  | _ => m == .write

/-- A word in the populated part of the persistent window (R330). -/
def inPersist (s : State) (a : Nat) : Bool :=
  a - persBase < rf s jneHead jneHeadHSIZE * 2 ^ 23

/-- A read of one word at an interconnect target inside the block: code, word, state, and whether it is
answered at once. `m` and `u`: what it meets at its array, and an upset that has struck the word. `auto`: no operand
says what it meets; `tags`: its pair's tag copies are checked with it. -/
def icRead (s : State) (q : Req) (port sink a : Nat) (peek : Bool) (m : Meet) (u : Upset) (auto : Bool := true)
    (tags : Bool := true) : Nat × Word × State × Bool :=
  match targetOf a with
  | .regs =>
    let r := regRead s q a peek sink
    (r.1.resp.code, r.1.resp.data, { r.1 with resp := s.resp }, r.2)
  | .host | .persist | .none_ => (4, 0, s, true)
  | t =>
    if arrayCode s a = 0 && meetsBusy t port false m then
      let r := freshWord (takeGrant s port a)
      (1, r.1, r.2, true)
    else
      let r := arrayRead (strike s a u) a port auto tags
      (r.1, r.2.1, r.2.2, true)

/-- A write of one word at an interconnect target inside the block. -/
def icWrite (s : State) (q : Req) (port a : Nat) (v : Word) (m : Meet) (auto : Bool := true) : Nat × State :=
  match targetOf a with
  | .regs =>
    let t := regWrite s q a v
    (t.resp.code, { t with resp := s.resp })
  | .host | .persist | .none_ => (4, s)
  | t => if arrayCode s a = 0 && meetsBusy t port true m then (1, takeGrant s port a) else arrayWrite s a port v auto

/-! Core accesses (R209, R210, R271). -/

/-- The requester that core k is, with the OTYPE of a store (R236). -/
def coreReq (k otype : Nat) : Req := ⟨Fin.ofNat 16 k, BitVec.ofNat 8 otype⟩

/-- Replace the oldest access of core k. -/
def setHead (s : State) (k : Nat) (r : MemReq) : State :=
  setCore s k { coreOf s k with reqs := r :: (coreOf s k).reqs.drop 1 }

/-- The oldest access of core k leaves its queue; a load or a fetch that waits for it has been accepted (R180). -/
def popHead (s : State) (k : Nat) : State :=
  let c := coreOf s k
  let w := match c.wait with
    | .load p l a _ id n => if c.reqs.head?.any (fun r => !r.write) then CoreWait.load p l a true id n else c.wait
    | .fetch w pa _ id n p => if c.reqs.head?.any (fun r => !r.write) then CoreWait.fetch w pa true id n p else c.wait
    | x => x
  setCore s k { c with reqs := c.reqs.drop 1, wait := w }

/-- A response for a load of core k. -/
def arrive (s : State) (k : Nat) (x : Arrived) : State :=
  setCore s k { coreOf s k with arrived := (coreOf s k).arrived ++ [x] }

/-- A posted store of core k has acted, or is with the host (code none). -/
def postedPut (s : State) (k a : Nat) (code : Option Nat) : State :=
  setCore s k { coreOf s k with posted := (coreOf s k).posted ++ [(a, code)] }

/-- The response of a read: an error brings no data. -/
def arrivedOf (id code : Nat) (w0 w1 : Word) (tag : Bool) : Arrived :=
  if code = 0 then ⟨id, 0, w0, w1, tag⟩ else ⟨id, code, 0, 0, false⟩

/-- A load of core k acts at a target inside the block. -/
def coreRead (s : State) (k : Nat) (r : MemReq) (m : Meet) (u : Upset) : State :=
  let q := coreReq k 0
  let sink := k + 1 + 16 * r.id
  let x := icRead s q (corePort k) sink r.addr false m u false
  if x.1 = 1 then setHead x.2.2.1 k { r with busy := true }
  else if !x.2.2.2 then popHead x.2.2.1 k
  else if !r.pair || x.1 ≠ 0 then arrive (popHead x.2.2.1 k) k (arrivedOf r.id x.1 x.2.1 0 false)
  else
    let y := icRead x.2.2.1 q (corePort k) sink (r.addr + 1) false .none .none true false
    let g := (targetOf r.addr).tagged && tagRd y.2.2.1 r.addr
    arrive (popHead y.2.2.1 k) k (arrivedOf r.id y.1 x.2.1 y.2.1 g)

/-- A store of core k acts at a target inside the block. -/
def coreWrite (s : State) (k : Nat) (r : MemReq) (m : Meet) : State :=
  let q := coreReq k r.otype
  let x := icWrite s q (corePort k) r.addr r.data m false
  if x.1 = 1 then setHead x.2 k { r with busy := true }
  else if !r.pair || (x.1 ≠ 0 && x.1 ≠ 2) then postedPut (popHead x.2 k) k r.addr (some x.1)
  else
    let y := icWrite x.2 q (corePort k) (r.addr + 1) r.hi .none
    let t := if y.1 = 0 && r.tag && (targetOf r.addr).tagged then tagWr y.2 r.addr true else y.2
    postedPut (popHead t k) k r.addr (some (if y.1 = 0 then x.1 else y.1))

/-- An access of core k goes out on the host master port (R498). -/
def coreOut (s : State) (k : Nat) (r : MemReq) : State :=
  let n := if r.pair then 2 else 1
  let t := popHead s k
  let pers := targetOf r.addr == .persist
  if pers && !inPersist s r.addr then
    (if r.write then postedPut t k r.addr (some 4) else arrive t k ⟨r.id, 4, 0, 0, false⟩)
  else if r.write then
    hmpReq (postedPut t k r.addr none) (.coreStore k) true r.addr n (if r.pair then [r.data, r.hi] else [r.data]) pers r.dev
  else hmpReq t (.coreLoad k r.pair r.id) false r.addr n [] pers r.dev

/-- The transactions of core k that completed at once, their target being gone (R264), are answered. -/
def hmpToCore (s : State) (x : HmpTx) : State :=
  match x.use with
  | .coreLoad k pair id =>
    arrive s k (arrivedOf id x.code (x.word 0) (if pair then x.word 1 else 0) false)
  | .coreStore k =>
    let c := coreOf s k
    let l := c.posted
    match l.findIdx? (fun p => p.1 == x.addr && p.2.isNone) with
    | some i => setCore s k { c with posted := l.set i (x.addr, some x.code) }
    | none => s
  | .writeBack k id =>
    let t := onSvc s k (fun v => { v with wbq := v.wbq.filter (fun e => e.id != id) })
    match x.beats.findIdx? (fun b => b.1 != 0) with
    | some i => wbError t k (x.addr + i)
    | none => t
  | _ => s

/-- Complete transactions of the cores and of write-backs are taken by them; a unit takes its own. -/
def hmpDeliver (s : State) : State :=
  let mine (u : HmpUse) : Bool := match u with
    | .coreLoad _ _ _ | .coreStore _ | .writeBack _ _ => true
    | _ => false
  let go := s.ports.done.filter (fun x => mine x.use)
  go.foldl hmpToCore { s with ports := { s.ports with done := s.ports.done.filter (fun x => !mine x.use) } }

/-- CORE cycles for which the clearing of its target has stalled an access, two for each FABRIC cycle (R181, R271). -/
def stallCycles (s : State) (r : MemReq) : Nat := 4 * (s.port - r.stall.getD s.port)

/-- The oldest access of core k acts at its target, unless the target is being cleared (R276) or its bank port grants
another or none (R278). What a posted store waits is counted here; a load's response says how long it took (R181). -/
def coreAct (s : State) (k : Nat) (m : Meet) (u : Upset) (waited : Nat) : State :=
  match (coreOf s k).reqs with
  | [] => s
  | r :: _ =>
    if !s.running then s
    else if clearingAt s r.addr then (if r.stall.isNone then setHead s k { r with stall := some s.port } else s)
    else match targetOf r.addr with
      | .host | .persist => hmpDeliver (coreOut s k r)
      | _ =>
        if !grantable s (corePort k) r.addr r.busy then waitMark s (corePort k) r.addr
        else
        let t := icGrant s (corePort k) r.addr waited
        let x := { r with stall := none }
        if r.write then coreWrite (spend t k (2 * waited + stallCycles s r)) k x m else coreRead t k x m u

/-- The oldest access of core k was answered BUSY. -/
def headBusy (s : State) (k : Nat) : Bool :=
  match (coreOf s k).reqs with
  | r :: _ => r.busy
  | [] => false

/-- MEM_ACCESS (R263 to R273): the oldest access of core k reaches its target. `m`: what another port does at the
same word in that cycle; `u`: an upset that has struck the word; `waited`: FABRIC cycles of waiting for a grant. -/
def execMemAccess (k : Fin 10) (m : Meet) (u : Upset) (waited : BitVec 16) (s : State) : Out :=
  onlyIf (!headBusy s k.val) s (coreAct s k.val m u waited.toNat)

/-- The oldest access of core k may have its turn. -/
def headGrantable (s : State) (k : Nat) : Bool :=
  match (coreOf s k).reqs with
  | r :: _ => grantable s (corePort k) r.addr r.busy
  | [] => false

/-- The core waits 2 CORE cycles for the retry of a posted store (R181). -/
def retrySpent (s : State) (k : Nat) : State :=
  match (coreOf s k).reqs with
  | r :: _ => if r.write then spend s k 2 else s
  | [] => s

/-- MEM_RETRY (R181, R270): an access that was answered BUSY is retried and counted. -/
def execMemRetry (k : Fin 10) (m : Meet) (u : Upset) (s : State) : Out :=
  onlyIf (headBusy s k.val && s.running && headGrantable s k.val) s
    (coreAct (retrySpent (inc s (memArb (corePort k.val)) memArbBUSYCNT) k.val) k.val m u 0)

/-! The host slave port (R265, R495 to R497). -/

/-- The host as a requester (R497): number 10, no token. -/
def hostReq : Req := ⟨10, 0⟩

/-- One beat at a block word address: its response code and read data. -/
def hspBeat (s : State) (write : Bool) (a : Nat) (v : Word) (m : Meet) (u : Upset) : (Nat × Word) × State :=
  let t := icGrant s 26 a 0
  if write then
    let r := icWrite t hostReq 26 a v m false
    ((r.1, 0), r.2)
  else
    let r := icRead t hostReq 26 0 a false m u false
    ((r.1, if r.1 = 0 || r.1 = 1 then r.2.1 else 0), r.2.2.1)

/-- The oldest transaction is answered once its last beat is done (R496). -/
def hspFinish (s : State) (x : HspTx) : State :=
  { s with ports := { s.ports with hspq := s.ports.hspq.drop 1, hsp := x.got.map (fun b => (b.1, beatOf b.2)) } }

/-- The oldest transaction performs its beats in order up to one whose target is being cleared; its first beat waits for
a grant, and its others follow, passed by retries alone (R268, R270, R276, R278, R483, R496). -/
def hspBeats (s : State) (x : HspTx) : List (Word × Meet × Upset) → State
  | [] => hspFinish s x
  | b :: r =>
    let go (y : (Nat × Word) × State) : State :=
      hspBeats y.2 { x with at_ := x.at_.map (· + 1), left := r, got := x.got ++ [y.1] } r
    match x.at_ with
    | none => go ((4, 0), s)
    | some i => match hspWord i with
      | none => go ((4, 0), s)
      | some a =>
        if clearingAt s a then { s with ports := { s.ports with hspq := { x with acc := true } :: s.ports.hspq.drop 1 } }
        else if (if x.got.isEmpty then !grantable s 26 a false else (bankPort 26 a).any (fun b => retryWaits s b 26)) then
          let t := waitMark s 26 a
          { t with ports := { t.ports with hspq := { x with acc := true } :: t.ports.hspq.drop 1 } }
        else go (hspBeat s x.write a b.1 b.2.1 b.2.2)

/-- The port serves the oldest transaction: one that it has not accepted only while PD54 is ON (R494, R477). -/
def hspServe (s : State) : State :=
  match s.ports.hspq with
  | [] => s
  | x :: _ => if s.running && (if x.acc then pdLive s 54 else hostOpen s) then hspBeats s x x.left else s

/-- The port goes on with transactions that had to wait, at most 16 in a cycle (R496). -/
def hspTick (s : State) : State := if s.ports.hspq.isEmpty then s else forN 16 s (fun t _ => hspServe t)

/-- HSP_REQUEST (R265, R494 to R497): a transaction of `len` + 1 beats at byte address `addr`, with its write data
and what each beat meets. It waits while PD54 is not ON, while earlier ones wait and while its target is being
cleared. -/
def execHspRequest (write : Bool) (addr : BitVec 28) (len : Fin 8) (data : List (BitVec 64)) (up : List (Meet × Upset))
    (s : State) : Out :=
  let left := (List.range (len.val + 1)).map (fun j => (beatWord (data.getD j 0), up.getD j (.none, .none)))
  let x : HspTx := ⟨write, if addr.toNat % 8 = 0 then some (addr.toNat / 8) else none, left, [], false⟩
  let t := { s with ports := { s.ports with hspq := s.ports.hspq ++ [x] } }
  ok (if s.ports.hspq.isEmpty then hspServe t else t)

/-! The host master port (R496, R498). -/

/-- A response beat for an outstanding transaction. -/
def hmpBeats (s : State) (x : HmpTx) (l : List (Nat × Word)) : State :=
  let y := { x with beats := x.beats ++ l }
  if y.beats.length = y.len then hmpDeliver (hmpComplete s y)
  else { s with ports := { s.ports with out := s.ports.out.map (fun z => if z.tag == x.tag then y else z) } }

/-- A beat of a transaction that the block gave up is discarded; its last one frees the tag (R282, R498). -/
def hmpLate (s : State) (tag : Nat) : State :=
  let l := (s.ports.late.map (fun p => if p.1 == tag then (p.1, p.2 - 1) else p)).filter (fun p => p.2 != 0)
  hmpIssue { s with ports := { s.ports with
    late := l, torn := s.ports.torn.filter (fun p => l.any (fun q => q.1 == p.1)) } }

/-- HMP_RESPONSE (R496, R498): the host answers the next beat of the transaction with a tag. -/
def execHmpResponse (tag : Fin 32) (code : BitVec 3) (data : BitVec 64) (s : State) : Out :=
  if !(pdLive s 54 && s.running) then ok s
  else match s.ports.out.find? (fun x => x.tag == tag.val) with
    | some x => ok (hmpBeats s x [(hmpCode code.toNat, beatWord data)])
    | none => ok (hmpLate s tag.val)

/-- HMP_TIMEOUT (R498): the beats of a transaction that 1 ms has left unanswered complete with DECERR; a torn one is waited
for no longer (R282). -/
def execHmpTimeout (tag : Fin 32) (s : State) : Out :=
  match s.ports.out.find? (fun x => x.tag == tag.val) with
  | none => ok { s with ports := { s.ports with
      torn := s.ports.torn.filter (fun p => !(p.1 == tag.val && decide (p.2.2 + 300000 ≤ s.port))) } }
  | some x =>
    let left := x.len - x.beats.length
    let t := { s with ports := { s.ports with late := s.ports.late ++ [(tag.val, left)] } }
    onlyIf (decide (x.at_ + 300000 ≤ s.port)) s (hmpBeats t x (List.replicate left (4, 0)))

/-! The debug port (R517). -/

/-- The debugger as a requester, with the authority of DP_MADDR (R513). -/
def debugReq (m : Word) : Req :=
  let o := m.toNat / 2 ^ 42 % 64
  ⟨11, if 1 ≤ o && o ≤ 0xE then BitVec.ofNat 8 o else 0⟩

/-- The access completes with a response code (R517). -/
def dpComplete (s : State) (code : Nat) (w : Word) (write : Bool) : State :=
  let e := s.dbg.memerr || code != 0
  onDbg s (fun d => { d with rcode := code, memerr := e, accW := if code = 0 then w else 0, acc := if write then 0 else 3 })

/-- An access of the debug port to the host or persistent window is out on the host master port. -/
def useDebug : HmpUse := .unit 27 0

/-- The debug port's access was answered BUSY and is a retry (R270, R517). -/
def debugRetries (s : State) (a : Nat) : Bool := s.msys.waiting.any (fun w => w.port == 27 && w.addr == a && w.retry)

/-- DP_ACCESS_DONE (R517): the access in progress acts and completes, or is sent to the host and completes with its
response. A BUSY access is retried. -/
def execDpAccessDone (m : Meet) (u : Upset) (s : State) : Out :=
  let a := s.dbg.maddr.toNat % 2 ^ 40
  let wr' := s.dbg.acc == 2
  let q := debugReq s.dbg.maddr
  let pers := targetOf a == .persist
  if !(s.running && pdOn s 53 && (s.dbg.acc == 1 || s.dbg.acc == 2)) || clearingAt s a then ok s
  else if targetOf a == .host || pers then
    if pers && !inPersist s a then ok (dpComplete s 4 0 wr')
    else match hmpTake s (fun x => x == useDebug) with
      | some (x, t) => ok (dpComplete t x.code (x.word 0) wr')
      | none =>
        if (s.ports.out ++ s.ports.wait).any (fun x => x.use == useDebug) then ok s
        else ok (hmpReq s useDebug wr' a 1 (if wr' then [s.dbg.accW] else []) pers true)
  else if !grantable s 27 a (debugRetries s a) then ok (waitMark s 27 a)
  else
    let t := icGrant s 27 a 0
    if wr' then
      let r := icWrite t q 27 a s.dbg.accW m false
      if r.1 = 1 then ok (retryMark (inc r.2 (memArb 27) memArbBUSYCNT) 27 a) else ok (dpComplete r.2 r.1 0 true)
    else
      let r := icRead t q 27 12 a (bitOf s.dbg.maddr 41) m u false
      if r.1 = 1 then ok (retryMark (inc r.2.2.1 (memArb 27) memArbBUSYCNT) 27 a)
      else if r.2.2.2 then ok (dpComplete r.2.2.1 r.1 r.2.1 false)
      else ok (onDbg r.2.2.1 (fun d => { d with acc := 4 }))

end Sys2Proof.Machine
end

