-- ==== Sys2Proof/Machine/CoreRun.lean ====
section
/-! DEFINITION. Issue of a core's instructions: fetch, checks, pairing, completion, faults and entries
(R173 to R180, R187 to R191, R227, R244, R249 to R259, R520). -/

namespace Sys2Proof.Machine

/-! Fetch (R244, R251, R260, R264, R276, R285, R299 to R301, R304). -/

/-- Why a word is not at hand for issue: it cannot be fetched, the core waits for it, or its fetch cannot start yet. -/
inductive FetchStop where
  | fault (code : Nat) (v : Word)
  | wait
  | hold
deriving DecidableEq, Repr

/-- Core k waits for the fetch of the word at `w`. `pair`: it is for the second instruction of a pair. -/
def fetchWait (s : State) (k w pa id min : Nat) (acc pair : Bool) : Option FetchStop × State :=
  (some .wait, setCore s k { coreOf s k with wait := .fetch w pa acc id min pair })

/-- An uncached fetch goes out to the interconnect and adds the target's latency (R300). -/
def fetchAsk (s : State) (k w pa : Nat) (dev pair : Bool) : Option FetchStop × State :=
  let (id, t) := sendRead s k pa false dev
  fetchWait t k w pa id (latency pa) false pair

/-- A fetch through the I-cache; a miss adds the load-miss figure less 1 (R300). -/
def fetchCached (s : State) (k w : Nat) (tr : Trans) (pair : Bool) : Option FetchStop × State :=
  match iFetch s k tr with
  | .word _ _ _ t n => (none, if n = 0 then t else setCore t k { coreOf t k with cyc := (coreOf t k).cyc + n })
  | .pend t id n => fetchWait t k w tr.pa id (n - 1) true pair
  | .full t => (some .hold, t)
  | .fault t c v => (some (.fault c v), t)

/-- A loop core's own scratchpads answer its fetch at once (R269). -/
def ownFetch (k w : Nat) : Bool := targetOf w == .dataSp k || targetOf w == .instSp k

/-- The fetch of the word at `w` by core k. The command that stands for the instruction carries its parcels, so the word read is
not looked at. -/
def fetchWord (s : State) (k w : Nat) (pair : Bool) : Option FetchStop × State :=
  let c := coreOf s k
  if !c.fetchOk w then (some (.fault 0x11 c.pc), s)
  else if c.fbuf.contains w then (none, s)
  else if isSv k then
    match translate s k w 2 with
    | .error e => (some (.fault e.1 e.2), s)
    | .ok tr => if tr.cached && iServes s k then fetchCached s k w tr pair else fetchAsk s k w tr.pa tr.dev pair
  else if !ownFetch k w then fetchAsk s k w w true pair
  else if clearingAt s w then (some .hold, s)
  else
    let r := arrayRead s w (corePort k)
    (if r.1 = 0 then none else some (.fault (codeFault r.1) (BitVec.ofNat 48 w)), r.2.2)

/-- Words that the core no longer issues from are to be fetched again (R300). -/
def keepWords (s : State) (k : Nat) (ws : List Nat) : State :=
  let c := coreOf s k
  if c.fbuf.all ws.contains then s else setCore s k { c with fbuf := c.fbuf.filter ws.contains }

/-- The first fetch after an entry has been made (R249). -/
def firstDone (s : State) (k : Nat) : State :=
  let c := coreOf s k
  if c.efirst then setCore s k { c with efirst := false } else s

/-- The fetch of the `n` parcels of the instruction at core k's PC (R164). -/
def fetchIns (s : State) (k n : Nat) (pair : Bool) : Option FetchStop × State :=
  let pc := (coreOf s k).pc
  let w := pcWord pc
  let v := pcWord (pcAdd pc 1)
  let two := n == 2 && pcSlot pc == 2
  let r := fetchWord (keepWords s k (if two then [w, v] else [w])) k w pair
  if r.1.isSome then r
  else
    let t := firstDone r.2 k
    if two then fetchWord t k v pair else (none, t)

/-! Entry into a level (R169, R249, R250, R258, R262). -/

/-- SST as an entry saves it; STEP is saved on an entry into another bank (R226, R262). -/
def sstWord (c : Core) (keepStep : Bool) : Word :=
  let cov := if c.grem = 0 then 0 else c.gps * 2 ^ 37 + b2n c.gsn * 2 ^ 36 + c.grem % 4 * 2 ^ 34
  BitVec.ofNat 48 ((if keepStep then c.step else 0) * 2 ^ 40 + cov + c.lvl * 2 ^ 32 + b2n c.mmask * 2 ^ 31 + b2n c.ilnest * 2 ^ 30)

/-- SCAUSE as an entry saves it (R262). -/
def scauseWord (code : Nat) (async esc : Bool) (from_ : Nat) : Word :=
  BitVec.ofNat 48 (code + b2n async * 2 ^ 8 + b2n esc * 2 ^ 9 + from_ * 2 ^ 10)

/-- The core's bookkeeping of an instruction in progress, cleared. -/
def Core.settled (c : Core) : Core := { c with step := 0, hdr := none, hold := [], got := none }

/-- The core after its entry into level l, with its PC as resume PC. A save or restore that an entry into its own bank stopped
begins anew (R226), and keeps no word. -/
def Core.entered (c : Core) (l code : Nat) (async esc : Bool) (v : Word) (cost : Nat) : Core :=
  let d := (((c.setSr (srSpc l) c.pc).setSr (srSst l) (sstWord c (c.lvl != l))).setSr (srScause l)
    (scauseWord code async esc c.lvl)).setSr (srScausev l) v
  let d := d.setCode l ((c.ecp 8).retype 0)
  let d := if l = 1 then d.setMask d.mmask false else d
  let d := if c.lvl = l then d else d.setBank l { d.bank l with osp := 0, rsp := 0, fd := 0, ld := 0 }
  { d.settled with lvl := l, pc := pcMk (c.ecp 8).base 0, gps := 0, gsn := false, grem := 0, gpc := none,
                   wait := .none, prev := none, fbuf := [], efirst := false, entry := false, cyc := c.cyc + cost,
                   kept := if c.step = 0 then c.kept else c.kept.filter (fun x => x.lvl != l) }

/-- Entry into level l, or the core's lock where EH has a tag of 0 or its first fetch faults (R249). -/
def enterLevel (s : State) (k l code : Nat) (async esc : Bool) (v : Word) (cost : Nat) : State :=
  let c := coreOf s k
  if !(c.ecp 8).tag then coreLocked s k c.lvl code c.pc v
  else
    let t := raiseTrace (setCore s k (c.entered l code async esc v cost)) 2 k (l * 256 + code)
    match fetchWord t k (pcWord (coreOf t k).pc) false with
    | (some (.fault c v), u) => coreLocked u k l c (coreOf u k).pc v
    | (some _, u) => setCore u k { coreOf u k with efirst := true }
    | (none, _) => t

/-- A fault is taken at the level that R249 names; a presentation is withdrawn (R258). -/
def takeFault (s : State) (k code : Nat) (v : Word) (async : Bool) : State :=
  let c := coreOf s k
  let t := withdraw s k
  if c.lvl = 3 then coreLocked t k 3 code c.pc v
  else if c.lvl < 2 && !c.mmask then enterLevel t k 2 code async false v 12
  else enterLevel t k 3 code async true v 12

/-- A synchronous fault of the instruction at PC (R190, R256): coverage ends. -/
def syncFault (s : State) (k code : Nat) (v : Word) : State :=
  let c := coreOf s k
  takeFault (setCore s k { c with step := c.savedStep, grem := 0, gpc := none, wait := .none }) k code v false

/-! Asynchronous faults (R251, R257). -/

/-- An asynchronous fault becomes pending. -/
def Core.asyncPut (c : Core) (code : Nat) (v : Word) : Core :=
  if c.asyncs.any (fun p => p.1 == code) then { c with lost := true } else { c with asyncs := c.asyncs ++ [(code, v)] }

/-- The pending fault with the lowest code. -/
def Core.asyncNext (c : Core) : Option (Nat × Word) :=
  c.asyncs.foldl (fun b p =>
    match b with
    | none => some p
    | some q => if p.1 < q.1 then some p else b) none

/-- The asynchronous faults that have reached core k become pending. -/
def takeAsyncs (s : State) (k : Nat) : State :=
  let mine := s.sig.asyncs.filter (fun x => x.1 == k)
  let c := mine.foldl (fun c x => c.asyncPut x.2.1 x.2.2) (coreOf s k)
  if mine.isEmpty then s
  else setCore { s with sig := { s.sig with asyncs := s.sig.asyncs.filter (fun x => x.1 != k) } } k c

/-- A pending asynchronous fault may be taken by core k. -/
def asyncDue (s : State) (k : Nat) : Bool :=
  let c := coreOf s k
  coreLive s k && coreMayYield s k && c.lvl != 3 && !c.asyncs.isEmpty

/-- Core k takes its pending asynchronous fault with the lowest code. -/
def asyncEntry (s : State) (k : Nat) : State :=
  let t := coreYield s k
  let c := coreOf t k
  match c.asyncNext with
  | none => s
  | some p => takeFault (setCore t k { c with asyncs := c.asyncs.erase p }) k p.1 p.2 true

/-! Pairing (R176, R177). -/

/-- The matrix of R176. -/
def pairMatrix (fst snd : IClass) : Bool :=
  match fst, snd with
  | .p, .p | .p, .a | .p, .m | .p, .x | .p, .b => true
  | .a, .p | .a, .m | .a, .x | .a, .b => true
  | .m, .p | .m, .a => true
  | .x, .p | .x, .a | .x, .b => true
  | _, _ => false

/-- Number of a class as Prev records it. -/
def IClass.num : IClass → Nat
  | .p => 0
  | .a => 1
  | .m => 2
  | .x => 3
  | .b => 4
  | .s => 5

/-- The class with a number. -/
def IClass.ofNum (n : Nat) : IClass :=
  match n with
  | 0 => .p
  | 1 => .a
  | 2 => .m
  | 3 => .x
  | 4 => .b
  | _ => .s

/-- Instruction i issues with the one before it (R176, R177). -/
def pairsWith (c : Core) (p : Prev) (i : Ins) : Bool :=
  p.first && pairMatrix (IClass.ofNum p.cls) i.cls && p.parcels + i.parcels.length ≤ 3 &&
    !((p.cls == 2 || p.cls == 3) && p.prod != 0 && i.c != 0) &&
    !(p.pred != 0 && ((i.guard.map (·.1)) == some p.pred || (c.grem != 0 && c.gps == p.pred))) &&
    p.came != some c.pc && !p.atLend && !c.detmAct

/-- The instruction at PC issues in the cycle of the one before it. -/
def pairsNow (c : Core) (i : Ins) : Bool :=
  match c.prev with
  | some p => pairsWith c p i
  | none => false

/-- What is kept of core c to abandon the pair that instruction i starts or ends (R178): a load may end one that an instruction of
class P, A or X starts. -/
def undoOf (c : Core) (i : Ins) (now : Nat) (paired : Bool) : Option Undo :=
  if paired then c.prev.bind (·.undo)
  else if i.cls == .p || i.cls == .a || i.cls == .x then some (c.landUpTo now).snapshot else none

/-- What later pairing needs to know of instruction i, issued by core c in cycle `now`. -/
def prevOf (c : Core) (i : Ins) (now cost : Nat) (paired jumped : Bool) : Prev :=
  { undo := undoOf c i now paired, cyc := now, cost, cls := i.cls.num, parcels := i.parcels.length, prod := i.p, pred := i.wpred,
    first := !paired && !jumped, came := if c.prev.any (·.jumped) then some c.pc else none, jumped, atLend := c.atLend }

/-! Completion (R173, R178, R190, R520). -/

/-- The debugger stops core k after an instruction that has completed or faulted: a watchpoint, or the end of a step. A
step waits for a second instruction that may issue with the first. -/
def settle (s : State) (k : Nat) : State :=
  let t := onDbg s (fun d => { d with skip := d.skip.erase k })
  let c := coreOf t k
  if !coreLive t k then t
  else if c.openPair then t
  else if wpSeen t k then coreStop t k 3
  else if c.dbgStep then coreStop t k 4
  else t

/-- The target of the loop wrap that completing the instruction at PC brings has slot 3 (R163). -/
def Core.wrapBad (c : Core) : Bool := c.atLend && c.again && pcSlot (c.cur.lb (c.cur.ld - 1)) == 3

/-- The instruction of `len` parcels of core k completes in s, `s0` being the state before it. `end_`: the cycle after
its cost. -/
def complete (s0 s : State) (k len end_ : Nat) (p : Option Prev) : State :=
  let c := coreOf s k
  if c.wrapBad then settle (syncFault s0 k 0x10 (c.cur.lb (c.cur.ld - 1))) k
  else
    let d := (c.advance len).settled
    setCore s k { d with cyc := max c.cyc end_, prev := p, wait := .none }

/-- The way instruction i ends on core k, with the state before its body. -/
def finish (s0 : State) (k now : Nat) (paired : Bool) (i : Ins) : IRes → State
  | .done s cost => settle (complete s0 s k i.parcels.length (now + cost) (some (prevOf (coreOf s0 k) i now cost paired false))) k
  | .jump s pc cost =>
    let c := (coreOf s k).settled
    let p := prevOf (coreOf s0 k) i now cost paired true
    let t := setCore s k { c with pc := pc, grem := 0, gpc := none, cyc := max c.cyc (now + cost), prev := some p }
    settle (raiseTrace t 1 k (pc.toNat % 2 ^ 36)) k
  | .back s cost =>
    let c := coreOf s k
    let p := prevOf (coreOf s0 k) i now cost paired true
    settle (raiseTrace (setCore s k { c with cyc := max c.cyc (now + cost), prev := some p }) 1 k (c.pc.toNat % 2 ^ 36)) k
  | .fault s code v => settle (syncFault s k code v) k
  | .wait s =>
    let c := coreOf s k
    let p := match c.wait with
      | .none | .load none _ _ _ _ _ => none
      | _ => some (prevOf (coreOf s0 k) i now 1 paired false)
    let t := setCore s k { c with cyc := max c.cyc now, prev := p }
    if wpSeen t k && c.wait == .none && coreMayYield t k then coreStop t k 3 else t
  | .hold s =>
    let c := coreOf s k
    setCore s k { c with cyc := max c.cyc (now + 1), prev := if paired then c.prev else none }
  | .trail s code v cost =>
    let t := complete s0 s k i.parcels.length (now + cost) (some (prevOf (coreOf s0 k) i now cost paired false))
    settle (takeFault t k code v false) k

/-! Issue (R187 to R191, R520). -/

/-- Guard (p, sn) passes (R188). -/
def guardPass (b : Bank) (p : Nat) (sn : Bool) : Bool := xor (b.pred p) sn

/-- The instruction's own guard and its coverage by a GRD pass (R189). -/
def guardsPass (c : Core) (g : Option (Nat × Bool)) : Bool :=
  (match g with
   | some (p, sn) => guardPass c.cur p sn
   | none => true) && (c.grem == 0 || guardPass c.cur c.gps c.gsn)

/-- The operand stack check (R165). -/
def stackFault (b : Bank) (i : Ins) : Option (Nat × Word) :=
  if b.osp < i.c then some (0x12, BitVec.ofNat 48 b.osp)
  else if 32 < b.osp - i.c + i.p then some (0x13, BitVec.ofNat 48 b.osp) else none

/-! A presentation at an issue boundary (R154, R178, R179). -/

/-- A presentation reaches core k and is accepted: level, cause code and source. -/
def presentationOf (s : State) (k : Nat) : Nat × Nat × Nat :=
  let n := rf s (intcCorests k) intcCorestsPRES
  if shownCl s k then (3, 0x02, n) else (1, 0x01, n)

/-- The presentation has committed: the INTC offers it no more (R154). -/
def presentationTaken (s : State) (k : Nat) : State :=
  { s with intc := { s.intc with offered := s.intc.offered.filter (· != k) } }

/-- A presentation is offered to core k, which may accept it now: not during a debugger's step with MASKSTEP (R520). -/
def presDue (s : State) (k : Nat) : Bool :=
  let c := coreOf s k
  s.intc.offered.contains k && coreLive s k && coreMayYield s k && !(c.dbgStep && rb s (dbgCorectl k) dbgCorectlMASKSTEP)

/-- Core k enters the handler of its presentation. -/
def presEntry (s : State) (k : Nat) : State :=
  let c := coreOf s k
  let p := presentationOf s k
  if c.lvl ≤ p.1 && c.lvl < 3 then
    enterLevel (coreYield (presentationTaken s k) k) k p.1 p.2.1 false false (BitVec.ofNat 48 p.2.2) 18
  else s

/-- A presentation waits for a pair to be over (R178): the load that starts it has been accepted and is left behind (R180). -/
def passOpen (s : State) (k : Nat) : State :=
  let c := coreOf s k
  match c.wait with
  | .load (some _) _ _ _ _ _ =>
    if c.entry && !c.readQueued && coreMayYield s k then setCore s k { c.yielded with wait := .none, prev := c.prev } else s
  | _ => s

/-- A presentation that waits for a pair is over with, or forgotten. -/
def entryOver (s : State) (k : Nat) : State :=
  let c := coreOf s k
  if c.entry then setCore s k { c with entry := false } else s

/-- The second instruction of a pair has issued, or cannot yet: a presentation that waits for the pair is taken, with the pair
abandoned where the second has not issued; one that cannot be abandoned goes first (R178, R258). -/
def afterPair (s : State) (k : Nat) : State :=
  let c := coreOf s k
  if !(c.entry && presDue s k) then s
  else if !c.openPair then (if asyncDue s k then asyncEntry s k else presEntry (entryOver s k) k)
  else if (c.prev.bind (·.undo)).isSome then presEntry (setCore s k { c.undone with entry := false, prev := none }) k
  else s

/-- Core k at an issue boundary: what comes before its next instruction, or that instruction. `pairs`: nothing separates it from
the one before it (R178); `ends`: the two are over with it. -/
def atBoundary (k : Nat) (pairs : Core → Bool) (s : State) (go : State → State) (ends : Bool := true) : State :=
  let s := passOpen s k
  let c := coreOf s k
  if !(coreLive s k && c.wait == .none) then s
  else
    let t := takeAsyncs s k
    let apart := !pairs c
    if apart && asyncDue t k then asyncEntry t k
    else if apart && c.entry && presDue t k then presEntry (entryOver t k) k
    else if apart && t.dbg.stops.contains k && coreMayYield t k then coreStop t k 1
    else if apart && wpSeen t k && coreMayYield t k then coreStop t k 3
    else if bpHit t k && coreMayYield t k then coreStop t k 2
    else if pcSlot c.pc = 3 then settle (syncFault t k 0x10 c.pc) k
    else if apart || !c.entry then go (entryOver t k)
    else if ends then afterPair (go t) k else go t

/-- The checks of R191 on instruction i of core k, and its effect. -/
def checkAndRun (k now : Nat) (paired : Bool) (i : Ins) (s : State) : State :=
  let c := coreOf s k
  if i.illegal then settle (syncFault s k 0x10 (parcelsV i.parcels)) k
  else if !guardsPass c i.guard then finish s k now paired i (i.skip s k)
  else match stackFault c.cur i with
    | some e => settle (syncFault s k e.1 e.2) k
    | none =>
      if c.cur.waits i.c then finish s k now paired i (.hold s)
      else finish s k now paired i (i.body (setCore s k (c.landUpTo now)) k now)

/-- No save or restore is under way at PC. -/
def Core.unbegun (c : Core) : Bool := c.step == 0 && c.hdr.isNone && c.hold.isEmpty

/-- What the fetch of an instruction leaves to do: nothing while its word is not at hand; its fault, which locks the core where the
fetch is the first after an entry (R249). -/
def fetchStopped (s : State) (k : Nat) : FetchStop → State
  | .fault c v => if (coreOf s k).efirst then coreLocked s k (coreOf s k).lvl c (coreOf s k).pc v else settle (syncFault s k c v) k
  | _ => s

/-- Core k issues instruction i. -/
def issue (k : Nat) (i : Ins) (s : State) : State :=
  let c := coreOf s k
  let paired := pairsNow c i
  if c.dbgStep && c.prev.isSome && !paired then coreStop s k 4
  else
    let s := if i.long || c.unbegun then s else setCore s k { c with step := 0, hdr := none, hold := [] }
    match fetchIns s k i.parcels.length paired with
    | (some e, t) => fetchStopped t k e
    | (none, t) =>
      let d := coreOf t k
      checkAndRun k (if paired then (d.prev.map (·.cyc)).getD d.cyc else d.cyc) paired i t

/-- The command of instruction i on core k. -/
def runIns (k : Nat) (i : Ins) (s : State) : Out := ok (atBoundary k (fun c => pairsNow c i) s (issue k i))

/-! GRD (R189, R190). -/

/-- The core after a GRD: it completes at no cost; one at LEND of an active loop covers nothing. -/
def Core.guarded (c : Core) (cnt ps : Nat) (sn : Bool) : Core :=
  let d := (c.advance 1).settled
  if c.atLend then { d with prev := none } else { d with gps := ps, gsn := sn, grem := cnt + 1, gpc := some c.pc }

/-- Core k reaches a GRD. -/
def issueGrd (k cnt ps : Nat) (sn : Bool) (s : State) : State :=
  match fetchIns s k 1 (coreOf s k).openPair with
  | (some e, t) => fetchStopped t k e
  | (none, t) =>
    let c := coreOf t k
    if c.grem ≠ 0 then settle (syncFault t k 0x10 (parcelsV (sh 0x1E (ps + 8 * b2n sn + 16 * cnt)))) k
    else if c.wrapBad then settle (syncFault t k 0x10 (c.cur.lb (c.cur.ld - 1))) k
    else onDbg (setCore t k (c.guarded cnt ps sn)) (fun d => { d with skip := d.skip.erase k })

/-- GRD (R189): it covers the next `cnt` + 1 instructions with predicate `ps` and sense `sn`. It stands between two instructions
that pair across it, and a presentation does not separate them there (R178). -/
def execGrd (k : Fin 10) (cnt : Fin 4) (sn : Bool) (ps : Fin 8) (s : State) : Out :=
  ok (atBoundary k.val Core.openPair s (issueGrd k.val cnt.val ps.val sn) false)

/-! Illegal parcels (R187). -/

/-- Function codes and operands of the short opcodes: an operand that decodes (R193 to R201, R212 to R246). -/
def shortOk (opc opd : Nat) : Bool :=
  match opc with
  | 0x00 => opd < 8
  | 0x01 => opd < 0xF
  | 0x02 => opd < 0xA
  | 0x04 | 0x05 | 0x06 => opd < 16
  | 0x07 => opd < 31
  | 0x08 | 0x09 => true
  | 0x0A | 0x0B | 0x0C | 0x0D => opd < 48
  | 0x0E => opd < 4
  | 0x0F | 0x10 => opd < 64
  | 0x11 => opd / 8 < 12
  | 0x12 | 0x17 => opd < 8
  | 0x13 | 0x14 | 0x15 => true
  | 0x16 => opd < 64
  | 0x18 | 0x19 | 0x1A | 0x1B => true
  | 0x1C => opd < 16
  | 0x1D => opd = 0
  | 0x1E => opd < 64
  | 0x20 | 0x21 | 0x22 => true
  | 0x23 => opd < 0xE
  | 0x24 => opd < 8
  | 0x25 | 0x26 => opd < 16
  | 0x30 => opd < 256
  | 0x31 => opd / 16 < 5
  | 0x32 => opd < 16
  | 0x33 | 0x34 | 0x35 => opd < 256
  | 0x36 => opd / 16 < 9
  | 0x37 => opd < 16
  | 0x38 => opd / 16 < 3
  | _ => false

/-- Bit-field EXT (R197). -/
def bitFieldOk (e : Nat) : Bool := e < 4096 && e % 64 + e / 64 + 1 ≤ 48

/-- Long opcodes and extensions that decode (R197 to R209, R212 to R226, R241 to R246). -/
def longOk (opc e : Nat) : Bool :=
  if opc < 6 then true
  else if opc = 0x008 || opc = 0x009 || opc = 0x00A then bitFieldOk e
  else if opc = 0x00B then e < 512
  else if 0x020 ≤ opc && opc < 0x060 then true
  else if 0x080 ≤ opc && opc < 0x0E0 then true
  else if 0x100 ≤ opc && opc < 0x103 then true
  else if opc = 0x103 then 2 ≤ e
  else if opc = 0x104 || opc = 0x105 then e / 512 % 8 = 0
  else if opc = 0x108 then e < 256
  else if 0x109 ≤ opc && opc < 0x10D then e < 16
  else if opc = 0x200 || opc = 0x201 then e < 4096
  else if opc = 0x202 then e < 4096 && e / 16 % 16 < 9
  else if opc = 0x203 then e < 4096 && e / 16 % 16 < 4
  else false

/-- The first parcel starts a long form. -/
def isLong (p0 : Nat) : Bool := 0x8000 ≤ p0

/-- The parcels decode to an instruction, a GRD apart from where it stands (R187). -/
def decodes (p0 p1 : Nat) : Bool :=
  if isLong p0 then
    longOk (p0 % 0x800) p1 && !(p0 / 0x1000 % 8 = 0 && p0 / 0x800 % 2 = 1)
  else shortOk (p0 / 0x200) (p0 % 0x200)

/-- The parcels as an instruction that does not decode. -/
def insBad (p0 p1 : Nat) : Ins :=
  { parcels := if isLong p0 then [p0, p1] else [p0], illegal := true, cls := .s, body := fun s _ _ => .hold s }

/-- ILLEGAL_OPCODE (R187): parcels that do not decode, or a GRD within coverage, raise it when they would issue. -/
def execIllegalOpcode (k : Fin 10) (p0 p1 : BitVec 16) (s : State) : Out :=
  let nested := p0.toNat / 0x200 == 0x1E && decodes p0.toNat 0 && (coreOf s k.val).grem != 0
  onlyIf (!decodes p0.toNat p1.toNat || nested) s (atBoundary k.val (fun _ => false) s (issue k.val (insBad p0.toNat p1.toNat)))

/-! Events of a core. -/

/-- INTERRUPT_ENTRY (R154, R155, R178, R179, R249, R250): a presentation reaches core k, and the core enters its handler; an
asynchronous fault that coincides comes first (R258). Behind an instruction that may be the first of a pair, the next instruction
shows whether the entry comes before it or after it. During a debugger's step with MASKSTEP none is accepted (R520). -/
def execInterruptEntry (k : Fin 10) (s : State) : Out :=
  let k := k.val
  let t := takeAsyncs s k
  if !presDue t k then ok s
  else if (coreOf t k).openPair then ok (setCore t k { coreOf t k with entry := true })
  else if asyncDue t k then ok (asyncEntry t k)
  else ok (presEntry t k)

/-- ASYNC_FAULT (R178, R249, R251, R257): an asynchronous fault reaches core k and is taken, or is held pending. -/
def execAsyncFault (k : Fin 10) (s : State) : Out :=
  let t := takeAsyncs s k.val
  if asyncDue t k.val && !(coreOf t k.val).openPair then ok (asyncEntry t k.val) else ok t

/-- The wait of core k's instruction ends after `n` cycles: it completes with the bank that `f` gives. -/
def waitDone (s : State) (k len n : Nat) (f : State → State) : State :=
  let c := coreOf s k
  let now := (c.prev.map (·.cyc)).getD c.cyc
  settle (complete s (f s) k len (now + n) (c.prev.map (fun p => { p with cost := n }))) k

/-- The CORE cycle in which an operation in flight issued (R175). -/
def Land.since (l : Land) : Nat := l.due - (match l.op with
  | .product _ _ => 3
  | _ => 4)

/-- A core after `n` cycles of waiting for a fetch; one for the second instruction of a pair delays the first as well (R177). -/
def Core.delayed (c : Core) (n : Nat) (pair : Bool) : Core :=
  let t := (c.prev.map (·.cyc)).getD 0
  { c with cyc := c.cyc + n, prev := if pair then c.prev.map (fun p => { p with cyc := p.cyc + n }) else c.prev,
           lands := c.lands.map (fun l => if pair && l.since == t then { l with due := l.due + n } else l) }

/-- A response for the load or the fetch that core k waits for; one that nothing waits for any more is dropped. -/
def loadTaken (s : State) (k : Nat) (x : Arrived) (cycles : Nat) : State :=
  let c := coreOf s k
  match c.wait with
  | .load (some n) len a _ id min =>
    if x.id ≠ id then s
    else if x.code ≠ 0 then settle (syncFault s k (codeFault x.code) a) k
    else waitDone s k len (max cycles min) (fun s => onBank s k (fun b => b.pops n [x.w0]))
  | .load none _ a _ id min =>
    if x.id ≠ id then s else setCore s k { c with wait := .none, got := some (a, x), cyc := c.cyc + max cycles min }
  | .fetch w pa _ id min pair =>
    if x.id ≠ id then s
    else if x.code ≠ 0 then
      fetchStopped (setCore s k { c with wait := .none }) k (.fault (codeFault x.code) (BitVec.ofNat 48 pa))
    else setCore s k { c.delayed (max cycles min) pair with wait := .none, fbuf := c.fbuf ++ [w] }
  | _ => s

/-- A response for a load that an entry has passed fills its reserved entry (R180). -/
def passedFill (s : State) (k : Nat) (p : Passed) (x : Arrived) : State :=
  let c := coreOf s k
  let b := c.bank p.bank
  let d := { c with passed := c.passed.filter (fun q => q.id != p.id) }.setBank p.bank
    { b with ost := tset 0 b.ost p.idx (if x.code = 0 then x.w0 else 0), resv := b.resv.erase p.idx }
  let t := setCore s k d
  if x.code = 0 then t else raiseAsync t k (codeFault x.code) p.addr

/-- A response for a read that its instruction will take when it is issued again (R179); an error leaves zeros, and is reported
asynchronously (R180). -/
def keptFill (s : State) (k : Nat) (p : Kept) (x : Arrived) : State :=
  let c := coreOf s k
  let y : Arrived := if x.code = 0 then x else ⟨x.id, 0, 0, 0, false⟩
  let t := setCore s k { c with kept := c.kept.map (fun q => if q.id == p.id then { q with resp := some y } else q) }
  if x.code = 0 then t else raiseAsync t k (codeFault x.code) p.addr

/-- LOAD_RESPONSE (R179, R180, R209, R251): the oldest response that has come to core k, `cycles` CORE cycles after its load issued, or
after its fetch was made. It carries the number of its read. -/
def execLoadResponse (k : Fin 10) (cycles : BitVec 16) (s : State) : Out :=
  let c := coreOf s k.val
  match c.arrived with
  | [] => ok s
  | x :: r =>
    let t := setCore s k.val { c with arrived := r }
    onlyIf s.running s (match c.passed.find? (fun p => p.id == x.id) with
      | some p => passedFill t k.val p x
      | none => match c.kept.find? (fun p => p.id == x.id && p.resp.isNone) with
        | some p => keptFill t k.val p x
        | none => loadTaken t k.val x cycles.toNat)

/-- POSTED_STORE_RESPONSE (R210, R251): the oldest posted store of core k whose response has come. An error is AUTH_DENIED where a
field was refused (R236), and else BUS_ERROR. -/
def execPostedStoreResponse (k : Fin 10) (s : State) : Out :=
  let c := coreOf s k.val
  match c.posted.find? (fun p => p.2.isSome) with
  | none => ok s
  | some (a, code) =>
    let t := setCore s k.val { c with posted := c.posted.erase (a, code) }
    let n := code.getD 0
    onlyIf s.running s (if n = 0 then t else raiseAsync t k.val (if n = 2 then 0x3A else 0x38) (BitVec.ofNat 48 a))

/-- WAIT_END (R220, R227): a flag in the mask of core k's WAIT is set, `cycles` CORE cycles after it issued: the cost is 1 more. -/
def execWaitEnd (k : Fin 10) (cycles : BitVec 16) (s : State) : Out :=
  let c := coreOf s k.val
  match c.wait with
  | .event m len skipped =>
    onlyIf (coreLive s k.val && c.ef &&& m != 0) s
      (waitDone s k.val len (1 + cycles.toNat) (fun s => if skipped then s else evpoll s k.val m))
  | _ => ok s

/-- FENCE_COMPLETE (R221, R295): everything that core k's FENCE waits for has completed, and nothing has raised a fault that it
takes first, `cycles` CORE cycles after the FENCE issued: the cost is 1 more (R227). -/
def execFenceComplete (k : Fin 10) (cycles : BitVec 16) (s : State) : Out :=
  let t := takeAsyncs s k.val
  match (coreOf t k.val).wait with
  | .fence skipped =>
    onlyIf (coreLive t k.val && (if skipped then postedDone t k.val else fenceClear t k.val) && !asyncDue t k.val) s
      (waitDone t k.val 1 (1 + cycles.toNat) id)
  | _ => ok s

end Sys2Proof.Machine
end

