-- ==== Sys2Proof/Machine/CoreCtl.lean ====
section
/-! DEFINITION. The control and system instructions of a core as commands (R212 to R229, R247 to R252). -/

namespace Sys2Proof.Machine

/-- BR: branches relatively (R214). -/
def execBr (k : Fin 10) (off : BitVec 9) (s : State) : Out := runIns k.val (insBr off) s

/-- BRL: branches relatively with a 16-bit offset (R214). -/
def execBrl (k : Fin 10) (ps : Fin 8) (sn : Bool) (off : BitVec 16) (s : State) : Out :=
  runIns k.val (insBrl ps sn off) s

/-- CALL: pushes the return PC and branches (R214). -/
def execCall (k : Fin 10) (off : BitVec 9) (s : State) : Out := runIns k.val (insCall off) s

/-- CALLL: calls with a 16-bit offset (R214). -/
def execCalll (k : Fin 10) (ps : Fin 8) (sn : Bool) (off : BitVec 16) (s : State) : Out :=
  runIns k.val (insCalll ps sn off) s

/-- CALLF: calls and opens a frame (R214). -/
def execCallf (k : Fin 10) (off : BitVec 9) (s : State) : Out := runIns k.val (insCallf off) s

/-- CALLFL: calls with a 16-bit offset and opens a frame (R214). -/
def execCallfl (k : Fin 10) (ps : Fin 8) (sn : Bool) (off : BitVec 16) (s : State) : Out :=
  runIns k.val (insCallfl ps sn off) s

/-- RET: pops the return PC (R214). -/
def execRet (k : Fin 10) (s : State) : Out := runIns k.val insRet s

/-- RETF: returns and closes a frame (R214). -/
def execRetf (k : Fin 10) (s : State) : Out := runIns k.val insRetf s

/-- JMPI: jumps to a PC from the stack (R214). -/
def execJmpi (k : Fin 10) (s : State) : Out := runIns k.val insJmpi s

/-- CALLI: calls a PC from the stack (R214). -/
def execCalli (k : Fin 10) (s : State) : Out := runIns k.val insCalli s

/-- CALLFI: calls a PC from the stack and opens a frame (R214). -/
def execCallfi (k : Fin 10) (s : State) : Out := runIns k.val insCallfi s

/-- LOOP: starts a hardware loop or skips the body (R216). -/
def execLoop (k : Fin 10) (ps : Fin 8) (sn : Bool) (e : BitVec 16) (endLong : Bool) (s : State) : Out :=
  runIns k.val (insLoop ps sn e endLong) s

/-- LEXIT: ends the innermost active loop (R216). -/
def execLexit (k : Fin 10) (s : State) : Out := runIns k.val insLexit s

/-- TOR: moves TOS to the return stack (R215). -/
def execTor (k : Fin 10) (s : State) : Out := runIns k.val insTor s

/-- FROMR: pops the return stack onto the operand stack (R215). -/
def execFromr (k : Fin 10) (s : State) : Out := runIns k.val insFromr s

/-- RFETCH: copies the top of the return stack (R215). -/
def execRfetch (k : Fin 10) (s : State) : Out := runIns k.val insRfetch s

/-- DIV: divides signed into quotient and remainder (R219). -/
def execDiv (k : Fin 10) (s : State) : Out := runIns k.val insDiv s

/-- DIVU: divides unsigned into quotient and remainder (R219). -/
def execDivu (k : Fin 10) (s : State) : Out := runIns k.val insDivu s

/-- SCALL: enters through an entry register (R247). -/
def execScall (k : Fin 10) (n : Fin 8) (s : State) : Out := runIns k.val (insScall n) s

/-- SRET: returns from a system call (R248). -/
def execSret (k : Fin 10) (s : State) : Out := runIns k.val insSret s

/-- ERET: returns from the level in use (R252). -/
def execEret (k : Fin 10) (s : State) : Out := runIns k.val insEret s

/-- FENCE: waits for every posted store to complete (R221). -/
def execFence (k : Fin 10) (s : State) : Out := runIns k.val insFence s

/-- WAIT: polls or waits for event flags (R220). -/
def execWait (k : Fin 10) (m : Fin 16) (s : State) : Out := runIns k.val (insWait m) s

/-- EVPOLL: pushes and clears the masked event flags (R220). -/
def execEvpoll (k : Fin 10) (m : Fin 16) (s : State) : Out := runIns k.val (insEvpoll m) s

/-- RDSR: reads a core system register (R218). -/
def execRdsr (k : Fin 10) (ps : Fin 8) (sn : Bool) (t : Fin 16) (n : BitVec 9) (s : State) : Out :=
  runIns k.val (insRdsr ps sn t n) s

/-- WRSR: writes a core system register (R218). -/
def execWrsr (k : Fin 10) (ps : Fin 8) (sn : Bool) (t : Fin 16) (n : BitVec 9) (s : State) : Out :=
  runIns k.val (insWrsr ps sn t n) s

/-- BMOVE: copies words between tokens, one per step (R222). -/
def execBmove (k : Fin 10) (ps : Fin 8) (sn : Bool) (q d : Fin 16) (steps : Nat) (s : State) : Out :=
  runIns k.val (insBmove ps sn q d steps) s

/-- SAVEL: saves the lower half of the bank (R223). -/
def execSavel (k : Fin 10) (ps : Fin 8) (sn : Bool) (t : Fin 16) (steps : Nat) (s : State) : Out :=
  runIns k.val (insSavel ps sn t steps) s

/-- SAVEU: saves the upper half of the bank with tags (R223). -/
def execSaveu (k : Fin 10) (ps : Fin 8) (sn : Bool) (t : Fin 16) (steps : Nat) (s : State) : Out :=
  runIns k.val (insSaveu ps sn t steps) s

/-- RESTL: restores the lower half of the bank (R225). -/
def execRestl (k : Fin 10) (ps : Fin 8) (sn : Bool) (t : Fin 16) (steps : Nat) (s : State) : Out :=
  runIns k.val (insRestl ps sn t steps) s

/-- RESTU: restores the upper half of the bank (R225). -/
def execRestu (k : Fin 10) (ps : Fin 8) (sn : Bool) (t : Fin 16) (steps : Nat) (s : State) : Out :=
  runIns k.val (insRestu ps sn t steps) s

end Sys2Proof.Machine
end

