-- ==== Sys2Proof/Machine/CoreData.lean ====
section
/-! DEFINITION. The data operations of a core as commands: stack, arithmetic, predicates, multiplier, loads and stores
(R193 to R211). -/

namespace Sys2Proof.Machine

/-- NOP: does nothing (R194). -/
def execNop (k : Fin 10) (s : State) : Out := runIns k.val insNop s

/-- DUP: duplicates TOS (R194). -/
def execDup (k : Fin 10) (s : State) : Out := runIns k.val insDup s

/-- DROP: discards TOS (R194). -/
def execDrop (k : Fin 10) (s : State) : Out := runIns k.val insDrop s

/-- SWAP: exchanges TOS and NOS (R194). -/
def execSwap (k : Fin 10) (s : State) : Out := runIns k.val insSwap s

/-- OVER: pushes a copy of NOS (R194). -/
def execOver (k : Fin 10) (s : State) : Out := runIns k.val insOver s

/-- ROT: rotates the top three entries (R194). -/
def execRot (k : Fin 10) (s : State) : Out := runIns k.val insRot s

/-- NIP: discards NOS (R194). -/
def execNip (k : Fin 10) (s : State) : Out := runIns k.val insNip s

/-- TUCK: copies TOS below NOS (R194). -/
def execTuck (k : Fin 10) (s : State) : Out := runIns k.val insTuck s

/-- ADD: adds two words modulo 2^48 (R195). -/
def execAdd (k : Fin 10) (s : State) : Out := runIns k.val insAdd s

/-- SUB: subtracts two words modulo 2^48 (R195). -/
def execSub (k : Fin 10) (s : State) : Out := runIns k.val insSub s

/-- NEG: negates TOS (R195). -/
def execNeg (k : Fin 10) (s : State) : Out := runIns k.val insNeg s

/-- ABS: takes the absolute value of TOS (R195). -/
def execAbs (k : Fin 10) (s : State) : Out := runIns k.val insAbs s

/-- AND: forms the bitwise AND (R195). -/
def execAnd (k : Fin 10) (s : State) : Out := runIns k.val insAnd s

/-- OR: forms the bitwise OR (R195). -/
def execOr (k : Fin 10) (s : State) : Out := runIns k.val insOr s

/-- XOR: forms the bitwise XOR (R195). -/
def execXor (k : Fin 10) (s : State) : Out := runIns k.val insXor s

/-- NOT: inverts TOS (R195). -/
def execNot (k : Fin 10) (s : State) : Out := runIns k.val insNot s

/-- ANDN: forms a AND NOT b (R195). -/
def execAndn (k : Fin 10) (s : State) : Out := runIns k.val insAndn s

/-- MIN: forms the signed minimum (R195). -/
def execMin (k : Fin 10) (s : State) : Out := runIns k.val insMin s

/-- MAX: forms the signed maximum (R195). -/
def execMax (k : Fin 10) (s : State) : Out := runIns k.val insMax s

/-- MINU: forms the unsigned minimum (R195). -/
def execMinu (k : Fin 10) (s : State) : Out := runIns k.val insMinu s

/-- MAXU: forms the unsigned maximum (R195). -/
def execMaxu (k : Fin 10) (s : State) : Out := runIns k.val insMaxu s

/-- ADDSAT: adds with saturation (R195). -/
def execAddsat (k : Fin 10) (s : State) : Out := runIns k.val insAddsat s

/-- SUBSAT: subtracts with saturation (R195). -/
def execSubsat (k : Fin 10) (s : State) : Out := runIns k.val insSubsat s

/-- MUL: starts a signed multiply into PH:PL (R204). -/
def execMul (k : Fin 10) (s : State) : Out := runIns k.val insMul s

/-- MULU: starts an unsigned multiply into PH:PL (R204). -/
def execMulu (k : Fin 10) (s : State) : Out := runIns k.val insMulu s

/-- MAC: adds a signed product into ACC (R204). -/
def execMac (k : Fin 10) (s : State) : Out := runIns k.val insMac s

/-- MSU: subtracts a signed product from ACC (R204). -/
def execMsu (k : Fin 10) (s : State) : Out := runIns k.val insMsu s

/-- CLRACC: clears ACC in program order with accumulations (R205). -/
def execClracc (k : Fin 10) (s : State) : Out := runIns k.val insClracc s

/-- RDPH: pushes PH (R204). -/
def execRdph (k : Fin 10) (s : State) : Out := runIns k.val insRdph s

/-- RDPL: pushes PL (R204). -/
def execRdpl (k : Fin 10) (s : State) : Out := runIns k.val insRdpl s

/-- RDACC0: pushes ACC bits 47:0 (R204). -/
def execRdacc0 (k : Fin 10) (s : State) : Out := runIns k.val insRdacc0 s

/-- RDACC1: pushes ACC bits 95:48 (R204). -/
def execRdacc1 (k : Fin 10) (s : State) : Out := runIns k.val insRdacc1 s

/-- RDACC2: pushes ACC bits 111:96 (R204). -/
def execRdacc2 (k : Fin 10) (s : State) : Out := runIns k.val insRdacc2 s

/-- LDL: pushes a local (R199). -/
def execLdl (k : Fin 10) (n : Fin 16) (s : State) : Out := runIns k.val (insLdl n) s

/-- PUTL: pops into a local (R199). -/
def execPutl (k : Fin 10) (n : Fin 16) (s : State) : Out := runIns k.val (insPutl n) s

/-- TEEL: copies TOS into a local (R199). -/
def execTeel (k : Fin 10) (n : Fin 16) (s : State) : Out := runIns k.val (insTeel n) s

/-- PICK: pushes a copy of a deeper entry (R199). -/
def execPick (k : Fin 10) (n : Fin 32) (s : State) : Out := runIns k.val (insPick n) s

/-- LIT: pushes a sign-extended 9-bit literal (R198). -/
def execLit (k : Fin 10) (v : BitVec 9) (s : State) : Out := runIns k.val (insLit v) s

/-- ADDI: adds a 9-bit immediate (R198). -/
def execAddi (k : Fin 10) (v : BitVec 9) (s : State) : Out := runIns k.val (insAddi v) s

/-- LIT16: pushes a sign-extended 16-bit literal (R198). -/
def execLit16 (k : Fin 10) (ps : Fin 8) (sn : Bool) (v : BitVec 16) (s : State) : Out :=
  runIns k.val (insLit16 ps sn v) s

/-- LITX16: shifts TOS left 16 and inserts 16 bits (R198). -/
def execLitx16 (k : Fin 10) (ps : Fin 8) (sn : Bool) (v : BitVec 16) (s : State) : Out :=
  runIns k.val (insLitx16 ps sn v) s

/-- ADDI16: adds a 16-bit immediate (R198). -/
def execAddi16 (k : Fin 10) (ps : Fin 8) (sn : Bool) (v : BitVec 16) (s : State) : Out :=
  runIns k.val (insAddi16 ps sn v) s

/-- ANDI16: ANDs with a zero-extended immediate (R198). -/
def execAndi16 (k : Fin 10) (ps : Fin 8) (sn : Bool) (v : BitVec 16) (s : State) : Out :=
  runIns k.val (insAndi16 ps sn v) s

/-- ORI16: ORs with a zero-extended immediate (R198). -/
def execOri16 (k : Fin 10) (ps : Fin 8) (sn : Bool) (v : BitVec 16) (s : State) : Out :=
  runIns k.val (insOri16 ps sn v) s

/-- XORI16: XORs with a zero-extended immediate (R198). -/
def execXori16 (k : Fin 10) (ps : Fin 8) (sn : Bool) (v : BitVec 16) (s : State) : Out :=
  runIns k.val (insXori16 ps sn v) s

/-- SHL: shifts left by an immediate (R196). -/
def execShl (k : Fin 10) (n : Fin 64) (s : State) : Out := runIns k.val (insShl n) s

/-- SHR: shifts right logically by an immediate (R196). -/
def execShr (k : Fin 10) (n : Fin 64) (s : State) : Out := runIns k.val (insShr n) s

/-- SAR: shifts right arithmetically by an immediate (R196). -/
def execSar (k : Fin 10) (n : Fin 64) (s : State) : Out := runIns k.val (insSar n) s

/-- ROL: rotates left by an immediate (R196). -/
def execRol (k : Fin 10) (n : Fin 64) (s : State) : Out := runIns k.val (insRol n) s

/-- SHLV: shifts left by a stack count (R196). -/
def execShlv (k : Fin 10) (s : State) : Out := runIns k.val insShlv s

/-- SHRV: shifts right logically by a stack count (R196). -/
def execShrv (k : Fin 10) (s : State) : Out := runIns k.val insShrv s

/-- SARV: shifts right arithmetically by a stack count (R196). -/
def execSarv (k : Fin 10) (s : State) : Out := runIns k.val insSarv s

/-- ROLV: rotates left by a stack count (R196). -/
def execRolv (k : Fin 10) (s : State) : Out := runIns k.val insRolv s

/-- EXTU: extracts an unsigned bit field (R200). -/
def execExtu (k : Fin 10) (ps : Fin 8) (sn : Bool) (pos len1 : Fin 64) (s : State) : Out :=
  runIns k.val (insExtu ps sn pos len1) s

/-- EXTS: extracts a signed bit field (R200). -/
def execExts (k : Fin 10) (ps : Fin 8) (sn : Bool) (pos len1 : Fin 64) (s : State) : Out :=
  runIns k.val (insExts ps sn pos len1) s

/-- INS: inserts a bit field (R200). -/
def execIns (k : Fin 10) (ps : Fin 8) (sn : Bool) (pos len1 : Fin 64) (s : State) : Out :=
  runIns k.val (insIns ps sn pos len1) s

/-- RNDACC: pushes ACC scaled, rounded and saturated (R206). -/
def execRndacc (k : Fin 10) (n : Fin 64) (s : State) : Out := runIns k.val (insRndacc n) s

/-- RNDACCS: does RNDACC and writes the saturation to a predicate (R206). -/
def execRndaccs (k : Fin 10) (ps : Fin 8) (sn : Bool) (n : Fin 64) (d : Fin 8) (s : State) : Out :=
  runIns k.val (insRndaccs ps sn n d) s

/-- WRACC: writes a scaled word into ACC (R205). -/
def execWracc (k : Fin 10) (n : Fin 64) (s : State) : Out := runIns k.val (insWracc n) s

/-- CMP: compares two words into a predicate (R202). -/
def execCmp (k : Fin 10) (cc : Fin 16) (d : Fin 8) (s : State) : Out := runIns k.val (insCmp cc d) s

/-- CMPI: compares TOS with an immediate into a predicate (R202). -/
def execCmpi (k : Fin 10) (ps : Fin 8) (sn : Bool) (cc : Fin 16) (d : Fin 8) (v : BitVec 16) (s : State) : Out :=
  runIns k.val (insCmpi ps sn cc d v) s

/-- TSTP: sets a predicate from TOS being non-zero (R202). -/
def execTstp (k : Fin 10) (d : Fin 8) (s : State) : Out := runIns k.val (insTstp d) s

/-- PAND: ANDs two predicates (R203). -/
def execPand (k : Fin 10) (d a b : Fin 8) (s : State) : Out := runIns k.val (insPand d a b) s

/-- POR: ORs two predicates (R203). -/
def execPor (k : Fin 10) (d a b : Fin 8) (s : State) : Out := runIns k.val (insPor d a b) s

/-- PXOR: XORs two predicates (R203). -/
def execPxor (k : Fin 10) (d a b : Fin 8) (s : State) : Out := runIns k.val (insPxor d a b) s

/-- PNOT: inverts a predicate (R203). -/
def execPnot (k : Fin 10) (d a : Fin 8) (s : State) : Out := runIns k.val (insPnot d a) s

/-- RDP: pushes a predicate as 0 or 1 (R203). -/
def execRdp (k : Fin 10) (n : Fin 8) (s : State) : Out := runIns k.val (insRdp n) s

/-- LDW: loads a word through a token at an immediate offset (R207). -/
def execLdw (k : Fin 10) (t : Fin 16) (d : Fin 32) (s : State) : Out := runIns k.val (insLdw t d) s

/-- STW: stores a word through a token at an immediate offset (R207). -/
def execStw (k : Fin 10) (t : Fin 16) (d : Fin 32) (s : State) : Out := runIns k.val (insStw t d) s

/-- LDWX: loads a word at an indexed offset (R207). -/
def execLdwx (k : Fin 10) (t : Fin 16) (d : Fin 32) (s : State) : Out := runIns k.val (insLdwx t d) s

/-- STWX: stores a word at an indexed offset (R207). -/
def execStwx (k : Fin 10) (t : Fin 16) (d : Fin 32) (s : State) : Out := runIns k.val (insStwx t d) s

/-- LDWD: loads a word at a 16-bit offset (R207). -/
def execLdwd (k : Fin 10) (ps : Fin 8) (sn : Bool) (t : Fin 16) (d : BitVec 16) (s : State) : Out :=
  runIns k.val (insLdwd ps sn t d) s

/-- STWD: stores a word at a 16-bit offset (R207). -/
def execStwd (k : Fin 10) (ps : Fin 8) (sn : Bool) (t : Fin 16) (d : BitVec 16) (s : State) : Out :=
  runIns k.val (insStwd ps sn t d) s

/-- LDWXD: loads a word at an indexed 16-bit offset (R207). -/
def execLdwxd (k : Fin 10) (ps : Fin 8) (sn : Bool) (t : Fin 16) (d : BitVec 16) (s : State) : Out :=
  runIns k.val (insLdwxd ps sn t d) s

/-- STWXD: stores a word at an indexed 16-bit offset (R207). -/
def execStwxd (k : Fin 10) (ps : Fin 8) (sn : Bool) (t : Fin 16) (d : BitVec 16) (s : State) : Out :=
  runIns k.val (insStwxd ps sn t d) s

/-- BCHK: checks a value against a token's length (R211). -/
def execBchk (k : Fin 10) (t : Fin 16) (s : State) : Out := runIns k.val (insBchk t) s

/-- BCHKR: checks a value against a range (R211). -/
def execBchkr (k : Fin 10) (s : State) : Out := runIns k.val insBchkr s

end Sys2Proof.Machine
end

