-- ==== Sys2Proof/Machine/CoreTokIns.lean ====
section
/-! DEFINITION. Token management of a core, and its writes of named system registers, as commands (R170, R181, R218, R237 to R248,
R294 to R306). -/

namespace Sys2Proof.Machine

/-- TMOV: copies a token register (R243). -/
def execTmov (k : Fin 10) (d q : Fin 16) (s : State) : Out := runIns k.val (insTmov d q) s

/-- TGET: pushes a field of a token (R243). -/
def execTget (k : Fin 10) (t : Fin 16) (f : Fin 8) (s : State) : Out := runIns k.val (insTget t f) s

/-- TCLR: clears a token register (R243). -/
def execTclr (k : Fin 10) (t : Fin 16) (s : State) : Out := runIns k.val (insTclr t) s

/-- TNARROW: derives a narrower token (R239). -/
def execTnarrow (k : Fin 10) (d q : Fin 16) (s : State) : Out := runIns k.val (insTnarrow d q) s

/-- TLD: loads a token with its tag (R240). -/
def execTld (k : Fin 10) (d a : Fin 16) (s : State) : Out := runIns k.val (insTld d a) s

/-- TST: stores a token with its tag (R240). -/
def execTst (k : Fin 10) (a q : Fin 16) (s : State) : Out := runIns k.val (insTst a q) s

/-- TGETE: copies an entry code part (R246). -/
def execTgete (k : Fin 10) (d n : Fin 16) (s : State) : Out := runIns k.val (insTgete d n) s

/-- TGETCT: copies the code token of the level in use (R244). -/
def execTgetct (k : Fin 10) (d : Fin 16) (s : State) : Out := runIns k.val (insTgetct d) s

/-- TROOT: mints a root token (R237). -/
def execTroot (k : Fin 10) (d : Fin 16) (kind : Fin 4) (s : State) : Out := runIns k.val (insTroot d kind) s

/-- TSEAL: seals a token with a key's type (R241). -/
def execTseal (k : Fin 10) (ps : Fin 8) (sn : Bool) (d q key : Fin 16) (s : State) : Out :=
  runIns k.val (insTseal ps sn d q key) s

/-- TUNSEAL: unseals a token with a key (R241). -/
def execTunseal (k : Fin 10) (ps : Fin 8) (sn : Bool) (d q key : Fin 16) (s : State) : Out :=
  runIns k.val (insTunseal ps sn d q key) s

/-- TSETE: sets an entry register (R246). -/
def execTsete (k : Fin 10) (ps : Fin 8) (sn : Bool) (n q key : Fin 16) (s : State) : Out :=
  runIns k.val (insTsete ps sn n q key) s

/-- TSETCT: sets the code token of a lower level (R245). -/
def execTsetct (k : Fin 10) (ps : Fin 8) (sn : Bool) (l : Fin 4) (q key : Fin 16) (s : State) : Out :=
  runIns k.val (insTsetct ps sn l q key) s

/-! Writes of system registers that the spec names by their effect (R170, R181, R237, R248, R255, R291 to R306). Each is
the RDSR or WRSR of its register with the value in TOS that spells it; with another value in TOS it is a WRSR of
another name and this command does nothing. -/

/-- The instruction runs if TOS spells the command. -/
def whenTop (k : Nat) (i : Ins) (f : Word → Bool) (s : State) : Out :=
  if f ((bankOf s k).peek 0) then runIns k i s else ok s

/-- WRSR of register n through Tt, with a value that `f` admits. -/
def wrsrWhen (k : Nat) (ps : Fin 8) (sn : Bool) (t : Fin 16) (n : BitVec 9) (f : Word → Bool) (s : State) : Out :=
  whenTop k (insWrsr ps sn t n) f s

/-- The supervisor core k as a core number. -/
def svNum (k : Fin 2) : Nat := 8 + k.val

/-- A read of BKDAT through Tt (R170). -/
def execBkdatRead (k : Fin 10) (ps : Fin 8) (sn : Bool) (t : Fin 16) (s : State) : Out :=
  runIns k.val (insRdsr ps sn t 4) s

/-- A write of BKDAT through Tt (R170). -/
def execBkdatWrite (k : Fin 10) (ps : Fin 8) (sn : Bool) (t : Fin 16) (s : State) : Out :=
  runIns k.val (insWrsr ps sn t 4) s

/-- A write of DMCTL.DETM (R181). -/
def execDetmWrite (k : Fin 10) (ps : Fin 8) (sn : Bool) (t : Fin 16) (s : State) : Out :=
  runIns k.val (insWrsr ps sn t 2) s

/-- A write of 1 to TOKCTL.ROOTLOCK (R237). -/
def execRootlockWrite (k : Fin 10) (ps : Fin 8) (sn : Bool) (t : Fin 16) (s : State) : Out :=
  wrsrWhen k.val ps sn t 0x24 (fun v => bitOf v 0) s

/-- A write of 1 to a bit of TOKCTL.SCIN (R248). -/
def execScinAbandon (k : Fin 10) (ps : Fin 8) (sn : Bool) (t : Fin 16) (s : State) : Out :=
  wrsrWhen k.val ps sn t 0x24 (fun v => (Fld.mk 7 4).get v != 0) s

/-- A write of MASKLVL, or of MMASK with `master` (R254, R255). -/
def execMaskWrite (k : Fin 10) (ps : Fin 8) (sn : Bool) (t : Fin 16) (master : Bool) (s : State) : Out :=
  runIns k.val (insWrsr ps sn t (if master then 0x23 else 0x22)) s

/-- A write of SVC_CMOP with OP CLEAN (R294). -/
def execSvcClean (k : Fin 2) (ps : Fin 8) (sn : Bool) (t : Fin 16) (s : State) : Out :=
  wrsrWhen (svNum k) ps sn t 0x44 (fun v => (Fld.mk 2 0).get v == 1) s

/-- A write of SVC_CMOP with OP INV (R294). -/
def execSvcInv (k : Fin 2) (ps : Fin 8) (sn : Bool) (t : Fin 16) (s : State) : Out :=
  wrsrWhen (svNum k) ps sn t 0x44 (fun v => (Fld.mk 2 0).get v == 2) s

/-- A write of SVC_CMOP with OP CLEANINV (R294). -/
def execSvcCleaninv (k : Fin 2) (ps : Fin 8) (sn : Bool) (t : Fin 16) (s : State) : Out :=
  wrsrWhen (svNum k) ps sn t 0x44 (fun v => (Fld.mk 2 0).get v == 3) s

/-- A write of SVC_CMOP with OP ICINV (R294). -/
def execSvcIcinv (k : Fin 2) (ps : Fin 8) (sn : Bool) (t : Fin 16) (s : State) : Out :=
  wrsrWhen (svNum k) ps sn t 0x44 (fun v => (Fld.mk 2 0).get v == 4) s

/-- A write of SVC_CMOP with OP ALLCLEAN (R294). -/
def execSvcAllclean (k : Fin 2) (ps : Fin 8) (sn : Bool) (t : Fin 16) (s : State) : Out :=
  wrsrWhen (svNum k) ps sn t 0x44 (fun v => (Fld.mk 2 0).get v == 5) s

/-- A write of SVC_CMOP with OP ALLCLEANINV (R294). -/
def execSvcAllcleaninv (k : Fin 2) (ps : Fin 8) (sn : Bool) (t : Fin 16) (s : State) : Out :=
  wrsrWhen (svNum k) ps sn t 0x44 (fun v => (Fld.mk 2 0).get v == 6) s

/-- A write of SVC_CMOP with OP ALLINV (R294). -/
def execSvcAllinv (k : Fin 2) (ps : Fin 8) (sn : Bool) (t : Fin 16) (s : State) : Out :=
  wrsrWhen (svNum k) ps sn t 0x44 (fun v => (Fld.mk 2 0).get v == 7) s

/-- A write of SVC_TLBCMD with OP READ (R305). -/
def execTlbRead (k : Fin 2) (ps : Fin 8) (sn : Bool) (t : Fin 16) (s : State) : Out :=
  wrsrWhen (svNum k) ps sn t 0x52 (fun v => (Fld.mk 2 0).get v == 1) s

/-- A write of SVC_TLBCMD with OP WRITE (R305). -/
def execTlbWrite (k : Fin 2) (ps : Fin 8) (sn : Bool) (t : Fin 16) (s : State) : Out :=
  wrsrWhen (svNum k) ps sn t 0x52 (fun v => (Fld.mk 2 0).get v == 2) s

/-- A write of SVC_TLBCMD with OP PROBE (R305). -/
def execTlbProbe (k : Fin 2) (ps : Fin 8) (sn : Bool) (t : Fin 16) (s : State) : Out :=
  wrsrWhen (svNum k) ps sn t 0x52 (fun v => (Fld.mk 2 0).get v == 3) s

/-- A write of SVC_TLBCMD with OP INVALL (R305). -/
def execTlbInvall (k : Fin 2) (ps : Fin 8) (sn : Bool) (t : Fin 16) (s : State) : Out :=
  wrsrWhen (svNum k) ps sn t 0x52 (fun v => (Fld.mk 2 0).get v == 4) s

/-- A write of SVC_TLBCMD with OP INVASID (R305). -/
def execTlbInvasid (k : Fin 2) (ps : Fin 8) (sn : Bool) (t : Fin 16) (s : State) : Out :=
  wrsrWhen (svNum k) ps sn t 0x52 (fun v => (Fld.mk 2 0).get v == 5) s

/-- A write of SVC_TLBCTL (R306). -/
def execCurasidWrite (k : Fin 2) (ps : Fin 8) (sn : Bool) (t : Fin 16) (s : State) : Out :=
  runIns (svNum k) (insWrsr ps sn t 0x53) s

/-- A write of SVC_CTRL with DEN 0 (R296). -/
def execDcacheDisable (k : Fin 2) (ps : Fin 8) (sn : Bool) (t : Fin 16) (s : State) : Out :=
  wrsrWhen (svNum k) ps sn t 0x40 (fun v => !bitOf v 0) s

/-- A write of SVC_L2CFG with EN 1 (R291). -/
def execL2Enable (k : Fin 2) (ps : Fin 8) (sn : Bool) (t : Fin 16) (s : State) : Out :=
  wrsrWhen (svNum k) ps sn t 0x45 (fun v => bitOf v 8) s

/-- A write of SVC_L2CFG with EN 0 (R296). -/
def execL2Disable (k : Fin 2) (ps : Fin 8) (sn : Bool) (t : Fin 16) (s : State) : Out :=
  wrsrWhen (svNum k) ps sn t 0x45 (fun v => !bitOf v 8) s

/-- A write of SVC_WAYEN that clears an enable (R297). -/
def execWayDisable (k : Fin 2) (ps : Fin 8) (sn : Bool) (t : Fin 16) (s : State) : Out :=
  let old := (coreOf s (svNum k)).sr srWayen
  wrsrWhen (svNum k) ps sn t 0x42 (fun v => old &&& ~~~v &&& 0xF00FF != 0) s

end Sys2Proof.Machine
end

