-- ==== Sys2Proof/Machine/CptExec.lean ====
section
/-! DEFINITION. The interpreter of the command port: what the platform firmware does for each command
(R459, R461, R462). A command takes the head of the queue and its items run in order; an item that waits for
the point engine or the journal is taken up again as their answers come. -/

namespace Sys2Proof.Machine

/-- Words of the command's body, and word i of it. -/
def runLen (s : State) (r : CptRun) : Nat := (bufOf s r.buf).w0.toNat % 256
def runWord (s : State) (r : CptRun) (i : Nat) : Word := bufWord s r.buf (2 + i)

/-- Body words of an item (R459): 0 for a command of one operation. -/
def itemSize (opc : Nat) : Nat :=
  match opc with
  | 0x10 | 0x13 | 0x14 | 0x15 | 0x19 | 0x38 => 1
  | 0x11 | 0x18 | 0x39 => 2
  | 0x12 => 3
  | _ => 0

/-- Change the command under way. -/
def setRun (s : State) (r : CptRun) : State := onCpt s (fun c => { c with run := some r })

/-- An item is complete: its reply words, and whether it succeeded. -/
def itemDone (s : State) (r : CptRun) (ws : List Word) (good : Bool) : State :=
  setRun s { r with item := r.item + 1, busy := false, out := r.out ++ ws, bad := r.bad || !good }

/-- The command ends: its reply body is written, then its reply (R462). -/
def runEnd (s : State) (r : CptRun) (status detail : Nat) (ws : List Word) : State :=
  let t := onCpt (bufStoreList s r.buf 2 ws) (fun c => { c with run := none })
  cptReplyBuf t r.buf status detail ws.length

/-- A read of a register as SV0. -/
def svRead (s : State) (a : Nat) : Resp × State :=
  let t := (regRead s ⟨8, 0⟩ a false 9).1
  (t.resp, { t with resp := s.resp })

/-- Registers, read in order. -/
def svReadList (s : State) : List Nat → List Resp × State
  | [] => ([], s)
  | a :: r =>
    let x := svRead s a
    let y := svReadList x.2 r
    (x.1 :: y.1, y.2)

/-- The response code of the first read that failed; 0 if none did. -/
def readsCode (l : List Resp) : Nat := ((l.map (fun x => x.code)).find? (fun c => c != 0)).getD 0

/-- An address that the interpreter serves: in the register space, not the CPT's or DBG's (R459). One in no range answers
DECERR (R264). -/
def svServes (a : Nat) : Bool := decide (0x40000000 ≤ a) && decide (a < 0x80000000) && (match regUnit a with
  | some u => u < 12
  | none => true)

/-- A write of a register as SV0, with the system token of the subsystem (R459). -/
def svWrite (s : State) (a : Nat) (v : Word) : Nat × State :=
  let ot := match regFind a with
    | some (d, _) => d.otype
    | none => 0
  let t := regWrite s ⟨8, BitVec.ofNat 8 ot⟩ a v
  (t.resp.code, { t with resp := s.resp })

/-- Hand an operation of the command to the PNE (R461); with PD45 not ON it is not ready. -/
def runPoint (s : State) (r : CptRun) (kind n : Nat) (v aux : Word) : State :=
  let i := s.cpt.seq + 1
  let t := onCpt (setRun s { r with busy := true }) (fun c => { c with seq := i })
  if pdOn s 45 then pneSubmit t ⟨5, i, kind, n, v, aux, 0, 2 * s.port⟩ else pneReport t ⟨5, i, psNotReady, 0, 0, 0, 0⟩

/-- Hand a record of the command to the journal (R461). -/
def runRecord (s : State) (r : CptRun) (kind : Nat) (body : List Word) : State :=
  let i := s.cpt.seq + 1
  raiseRec (onCpt (setRun s { r with busy := true }) (fun c => { c with seq := i })) ⟨16, i, kind, body⟩

/-- A write of PCTL_JTSEC would be refused, with the nanoseconds and STEP that are staged (R112). -/
def timeRefused (s : State) (sec : Word) : Bool :=
  !s.dm.setStep && (sec.toNat < s.dm.jtSec || (sec.toNat == s.dm.jtSec && s.dm.setNs * 2 ^ 32 < s.dm.jtNs))

/-- TIME_SET's time is in effect: its record carries the new time in its header and the previous one in its body; on a
standby there is none (R337, R461). -/
def timeSetDone (s : State) (r : CptRun) : State :=
  if isActive s then runRecord s r 0x11 r.out else runEnd s r 0 0 [0]

/-- TIME_SET (R112, R461): the time takes effect in the next PORT cycle. -/
def runTimeSet (s : State) (r : CptRun) : State :=
  let old := jneTime s
  let t := jtnsWrite s true (setBit (runWord s r 1) 46 false)
  let u := jtsecWrite t (runWord s r 0)
  if timeRefused t (runWord s r 0) then runEnd u r 8 1 []
  else setRun u { r with item := 1, out := [old.1, BitVec.ofNat 48 old.2] }

/-- JNL_APPEND (R459, R461). -/
def runAppend (s : State) (r : CptRun) : State :=
  let kind := (runWord s r 0).toNat % 256
  if kind < 0x80 then runEnd s r 3 0 []
  else runRecord s r kind ((List.range (runLen s r - 1)).map (fun i => runWord s r (1 + i)))

/-- TIME_GET (R113): one consistent triple. -/
def runTimeGet (s : State) (r : CptRun) : State :=
  let x := jtsecRead s
  runEnd x.2 r 0 0 [x.1, BitVec.ofNat 48 x.2.dm.latchNs, x.2.dm.latchBt]

/-- A command of one operation (R459): one whose target does not answer is REFUSED with its code (R458). -/
def runSingle (s : State) (r : CptRun) : State :=
  let regs := fun (l : List Nat) (f : List Word → List Word) =>
    let x := svReadList s l
    if readsCode x.1 = 0 then runEnd x.2 r 0 0 (f (x.1.map (fun y => y.data))) else runEnd x.2 r 8 (readsCode x.1) []
  match r.opc with
  | 0x00 => runEnd s r 0 0 ((List.range (runLen s r)).map (runWord s r))
  | 0x01 =>
    regs [pctlVersion, mlkRole] (fun l => [l.getD 0 0, Config.flaconVersion.setWidth 48, l.getD 1 0])
  | 0x20 => runTimeGet s r
  | 0x21 => runTimeSet s r
  | 0x28 => regs [jneSts, jneNextcsn, jneAckcsn, jnePercsn, jneU, jneBudget] id
  | 0x29 => runAppend s r
  | 0x30 => regs [mlkRole, mlkSts, mlkGen, rlkEpoch, rlkAuth, rlkPeer] id
  | _ => runEnd s r 3 0 []

/-- Begin the next item (R459, R461). -/
def runItem (s : State) (r : CptRun) : State :=
  let k := itemSize r.opc * r.item
  let w := fun i => runWord s r (k + i)
  let n := (w 0).toNat % 2 ^ 25
  match r.opc with
  | 0x10 => runPoint s r 0 n 0 0
  | 0x11 => runPoint s r 1 n (w 1) 0
  | 0x12 => runPoint s r 2 n (w 2) (w 1)
  | 0x13 => runPoint s r 3 n 0 0
  | 0x14 => runPoint s r 4 n 0 0
  | 0x15 => runPoint s r 5 n 0 0
  | 0x18 => runPoint s r 6 ((⟨41, 32⟩ : Fld).get (w 0) * 2 ^ 15) (w 1) (BitVec.ofNat 48 ((w 0).toNat % 2 ^ 18))
  | 0x19 =>
    let u := (w 0).toNat % 1024
    let x := svReadList s [pneUstate u, pneUdser u, pneUoser u, pneUaser u]
    itemDone x.2 r (x.1.map (fun y => y.data)) (readsCode x.1 == 0)
  | 0x38 =>
    let a := (w 0).toNat % 2 ^ 40
    if svServes a then
      let x := svRead s a
      itemDone x.2 r [BitVec.ofNat 48 x.1.code, x.1.data] (x.1.code == 0)
    else itemDone s r [2, 0] false
  | 0x39 =>
    let a := (w 0).toNat % 2 ^ 40
    if svServes a then
      let x := svWrite s a (w 1)
      itemDone x.2 r [BitVec.ofNat 48 x.1] (x.1 == 0)
    else itemDone s r [2] false
  | _ => s

/-- The answer of the PNE to the item under way (R318, R459). -/
def runPointDone (s : State) (r : CptRun) (d : PneDone) : State :=
  let t := onPne s (fun p => { p with done := p.done.erase d })
  let good := d.status == psOk
  if r.opc = 0x10 then
    itemDone t r [if good then d.val else 0, BitVec.ofNat 48 (d.status * 2 ^ 44 + (if good then d.meta_ % 2 ^ 16 else 0))] good
  else itemDone t r [BitVec.ofNat 48 (d.ack * 16 + d.status), BitVec.ofNat 48 d.csn] good

/-- The answer of the JNE to the record (R344, R459). -/
def runRecordDone (s : State) (r : CptRun) (d : Nat × Nat × Nat) : State :=
  let t := onJne s (fun j => { j with cptDone := j.cptDone.erase d })
  if d.2.1 ≤ 2 then runEnd t r 0 0 [BitVec.ofNat 48 d.2.2] else runEnd t r 8 d.2.1 []

/-- One step of the command under way; none while it waits or nothing runs. -/
def runStep (s : State) : Option State :=
  match s.cpt.run with
  | none => none
  | some r =>
    let k := itemSize r.opc
    if r.busy then
      match s.pne.done.find? (fun d => d.src == 5 && d.id == s.cpt.seq), s.jne.cptDone.find? (fun d => d.1 == s.cpt.seq) with
      | some d, _ => some (runPointDone s r d)
      | none, some d => some (runRecordDone s r d)
      | none, none => none
    else if r.opc = 0x21 && r.item = 1 then (if s.dm.jtSet.isSome then none else some (timeSetDone s r))
    else if k = 0 then some (runSingle s r)
    else if r.item * k < runLen s r then some (runItem s r)
    else some (runEnd s r (if r.bad then 7 else 0) 0 r.out)

/-- Steps until the command waits. -/
def runAll : Nat → State → State
  | 0, s => s
  | f + 1, s => match runStep s with
    | some t => runAll f t
    | none => s

/-- OPC of buffer b's packet. -/
def bufOpc (s : State) (b : Nat) : Nat := (⟨39, 32⟩ : Fld).get (bufOf s b).w0

/-- The interpreter is present: SV0 runs (R462, R463). -/
def cptServes (s : State) : Bool :=
  pdLive s 49 && coreLive s 8 && rb s cptCtrl cptCtrlSVEN && !s.cpt.drain

/-- The interpreter carries out a command of an opcode: one already in EXEC, or the head of the queue, which
it takes (R462). -/
def interpret (s : State) (opc : Nat) : State :=
  if !cptServes s || s.cpt.run.isSome then s
  else
    let go := fun (t : State) (b : Nat) =>
      let r : CptRun := ⟨b, opc, 0, false, [], false⟩
      runAll 300 (setRun (bufChecks t b 2 (runLen t r)) r)
    match (List.range 64).find? (fun b => bufState s b == 3) with
    | some b => if bufOpc s b = opc then go s b else s
    | none =>
      match s.cpt.queue with
      | b :: _ => if bufOpc s b = opc then go (setBufState (unqueue s b) b 3) b else s
      | [] => s

/-- What the interpreter does as answers come. -/
def cptRunTick (s : State) : State := if cptServes s then runAll 300 s else s

/-- CPT_NOP (R459). -/
def execCptNop (s : State) : Out := ok (interpret s 0x00)
/-- VERSION (R459). -/
def execVersion (s : State) : Out := ok (interpret s 0x01)
/-- PT_READ (R459). -/
def execPtRead (s : State) : Out := ok (interpret s 0x10)
/-- PT_WRITE (R459). -/
def execPtWrite (s : State) : Out := ok (interpret s 0x11)
/-- PT_DEFINE (R459). -/
def execPtDefine (s : State) : Out := ok (interpret s 0x12)
/-- PT_DELETE (R459). -/
def execPtDelete (s : State) : Out := ok (interpret s 0x13)
/-- PT_PIN (R459). -/
def execPtPin (s : State) : Out := ok (interpret s 0x14)
/-- PT_UNPIN (R459). -/
def execPtUnpin (s : State) : Out := ok (interpret s 0x15)
/-- UNIT_DECLARE (R459). -/
def execUnitDeclare (s : State) : Out := ok (interpret s 0x18)
/-- UNIT_READ (R459). -/
def execUnitRead (s : State) : Out := ok (interpret s 0x19)
/-- TIME_GET (R459). -/
def execTimeGet (s : State) : Out := ok (interpret s 0x20)
/-- TIME_SET (R461). -/
def execTimeSet (s : State) : Out := ok (interpret s 0x21)
/-- JNL_STATUS (R459). -/
def execJnlStatus (s : State) : Out := ok (interpret s 0x28)
/-- JNL_APPEND (R461). -/
def execJnlAppend (s : State) : Out := ok (interpret s 0x29)
/-- ROLE_GET (R459). -/
def execRoleGet (s : State) : Out := ok (interpret s 0x30)
/-- REG_READ (R459). -/
def execRegRead (s : State) : Out := ok (interpret s 0x38)
/-- REG_WRITE (R459). -/
def execRegWrite (s : State) : Out := ok (interpret s 0x39)

end Sys2Proof.Machine
end

