-- ==== Sys2Proof/Machine/MlkLink.lean ====
section
/-! DEFINITION. The mirror link: its frames, heartbeats and mirror intervals, image frames, the mirrored
journal and its resynchronisation, reports, and bulk copies (R427, R431 to R444). -/

namespace Sys2Proof.Machine

/-- The mirror link answers: PD47 runs and the role is not OFF (R425). -/
def mlkLive (s : State) : Bool := pdLive s 47 && s.running && roleOf s != 0

/-- The mirror link hears its partner: PD47 runs and its lanes are enabled (R449), whatever the role (R432, R434). -/
def mlkHears (s : State) : Bool := pdLive s 47 && s.running && rb s mlkCtrl mlkCtrlEN

/-- A compatible partner has been heard: frames other than heartbeats are exchanged (R435). -/
def mlkCompat (s : State) : Bool := !rb s mlkSts mlkStsINCOMPAT

/-! Frames (R431 to R433, R435). -/

/-- PVER of the frames sent and expected: the own PVMAX until a heartbeat has arrived. -/
def frameVer (s : State) : Nat := if rf s mlkRole mlkRolePV = 0 then 3 else rf s mlkRole mlkRolePV

/-- A frame's words (R432). -/
def mlkFrame (s : State) (type : Nat) (body : List Word) : List Word :=
  let w0 := 0xB5 * 2 ^ 40 + type * 2 ^ 32 + frameVer s * 2 ^ 28 + rf s rlkCtrl rlkCtrlSIDE * 2 ^ 27 + body.length
  sealed s.mlk.iseq (BitVec.ofNat 48 w0 :: body)

/-- Send a frame; one on lane 1 keeps the lane for its blocks (R401). -/
def mlkSend (s : State) (lane type : Nat) (body : List Word) : State :=
  let ws := mlkFrame s type body
  onMlk s (fun m => { m with
    sent := m.sent ++ [⟨lane, ws⟩], lane1 := if lane = 1 then s.port + 2 * frameBlocks ws.length else m.lane1 })

/-- Fields of a frame's first word. -/
def frMagic : Fld := ⟨47, 40⟩
def frType : Fld := ⟨39, 32⟩
def frVer : Fld := ⟨31, 28⟩
def frSide : Fld := ⟨27, 27⟩

/-- A received frame is not discarded (R432): CRC, MAGIC, TYPE, SIDE and, but for a heartbeat, PVER. -/
def frameOk (s : State) (ws : List Word) : Bool :=
  let w0 := ws.headD 0
  let ty := frType.get w0
  2 ≤ ws.length && sealOk ((ws.getLastD 0).toNat / 2 ^ 32) ws && frMagic.get w0 == 0xB5 && 1 ≤ ty && ty ≤ 10 &&
    frSide.get w0 != rf s rlkCtrl rlkCtrlSIDE && (ty == 1 || frVer.get w0 == frameVer s)

/-- The body of a frame. -/
def frameBody (ws : List Word) : List Word := (ws.drop 1).dropLast

/-- A frame arrives: a bad one is counted; the effect is that of its type, `type` here; no frame but a
heartbeat is exchanged with an incompatible partner (R432, R435). -/
def mlkRecv (s : State) (type : Nat) (ws : List Word) (f : State → List Word → State) : State :=
  if !mlkHears s then s
  else if !frameOk s ws then inc s mlkCnt mlkCntFRERR
  else if frType.get (ws.headD 0) ≠ type || (type ≠ 1 && !mlkCompat s) then s
  else f s (frameBody ws)

/-- The receiver is a standby: any role but ACTIVE (R425). -/
def onStandby (f : State → List Word → State) (s : State) (b : List Word) : State :=
  if roleOf s = 5 then s else f s b

/-! Heartbeats and intervals (R427, R434, R435). -/

/-- The CRC of the standby's last commit, not stated where the ring no longer holds it. -/
def lastCrc (s : State) : Nat × State :=
  if roleOf s = 5 || frameVer s = 2 then (0, s)
  else match crcOf s (rf s jneNextcsn jneNextcsnCSN - 1) with
    | some c => (c, s)
    | none => ((freshWord s).1.toNat % 2 ^ 32, (freshWord s).2)

/-- The six words of a heartbeat's body (R434). -/
def hbBody (s : State) (crc : Nat) : List Word :=
  let w0 := roleOf s * 2 ^ 45 + rf s cvpDrive cvpDriveREQ * 2 ^ 44 + b2n (rb s mlkRole mlkRoleCOPYRX) * 2 ^ 43 +
    b2n s.mlk.rsreq * 2 ^ 42 + s.lvl * 2 ^ 40 + 2 * 2 ^ 36 + 3 * 2 ^ 32 + rf s pctlVersion pctlVersionMAJOR * 2 ^ 24 +
    rf s pctlVersion pctlVersionMINOR * 2 ^ 16 + rf s mlkCtrl mlkCtrlMIVL
  let act := roleOf s == 5
  let elig := if act then s.mlk.bcElig else rb s mlkGen mlkGenCURELIG
  let gen := if act then rf s mlkBccmd mlkBccmdGEN else rf s mlkGen mlkGenCURGEN
  [w0, rf s rlkEpoch rlkEpochEPOCH, rf s rlkCtrl rlkCtrlPER, b2n elig * 2 ^ 32 + gen,
    rf s jneNextcsn jneNextcsnCSN - 1, crc].map (BitVec.ofNat 48)

/-- A slot's entry of an IMAGE frame (R436): none while its sequence lock is taken. -/
def imageEntry (s : State) (n : Nat) : Option (List Word) :=
  let w := fun i => ramRd s n (imgBase n + i)
  let ns := slotNs s n
  if bitOf (w 0x2B) 47 then none
  else some (BitVec.ofNat 48 (ns * 2 ^ 8 + n) :: ((List.range ns).map w ++ (List.range 12).map (fun i => w (0x20 + i))))

/-- The IMAGE frame of an interval (R436). -/
def imageFrame (s : State) : State :=
  let l := (List.range 128).filter (fun n => rb s (mlkSlotsel n) mlkSlotselEN && slotLive s n)
  let skipped := (l.filter (fun n => (imageEntry s n).isNone)).length
  let t := mlkSend s 0 2 (l.flatMap (fun n => (imageEntry s n).getD []))
  if skipped = 0 then t else inc t mlkCnt mlkCntIMGSKIP skipped

/-- The rack cycle ends in this PORT cycle: its evaluation is the one made (R427). -/
def cycleEndsNow (s : State) : Bool := match s.rlk.start with
  | some c => pdLive s 48 && decide (c + rlkPer s ≤ s.port + 32)
  | none => false

/-- A mirror interval starts (R427, R434, R436). -/
def intervalStart (s : State) : State :=
  let t := if s.mlk.heard then wf s mlkRole mlkRoleMSIL 0 else inc s mlkRole mlkRoleMSIL
  let t := onMlk t (fun m => { m with
    iseq := m.iseq + 1, last := s.port + 1, sent := [], heard := false, hbAge := m.hbAge.map (· + 1) })
  let t := semFire t 0x003
  let t := if t.mlk.evalAt = t.port + 1 || cycleEndsNow t then t else roleEval t false
  if roleOf t = 0 then t
  else
    let c := lastCrc t
    let t := mlkSend c.2 0 1 (hbBody c.2 c.1)
    if roleOf t = 5 && evHB t && mlkCompat t then imageFrame t else t

/-- MIRROR_INTERVAL_START (R427): at each block time t with t mod MIVL = 0. While EN is 0 nothing comes of it but that the
latest heartbeat is older. -/
def execMirrorIntervalStart (s : State) : Out :=
  onlyIf (pdLive s 47 && s.running && s.mlk.last != s.port + 1 && (btime s).toNat % mivl s == 0) s
    (if rb s mlkCtrl mlkCtrlEN then intervalStart s
    else onMlk s (fun m => { m with last := s.port + 1, hbAge := m.hbAge.map (· + 1) }))

/-- The resynchronisation has failed: it begins again, a full one from step 1 (R441). -/
def resyncAgain (s : State) : State :=
  if rb s mlkRole mlkRoleRESYNC then mirrorEval (resyncOff s) else mirrorStale s

/-- RSTART was sent long enough ago for a heartbeat that arrives now to be later than it: RSREQ in it shows a failure of
the full resynchronisation (log entry 207). -/
def rsOver (s : State) : Bool :=
  rb s mlkRole mlkRoleRESYNC && s.mlk.full && s.mlk.begun && decide (s.mlk.rsAt + 2 ≤ s.mlk.iseq)

/-- A heartbeat's effect (R434, R435, R440, R441). -/
def heartbeat (s : State) (b : List Word) : State :=
  let w0 := b.getD 0 0
  let f := fun (hi lo : Nat) => (⟨hi, lo⟩ : Fld).get w0
  let pv := min 3 (f 35 32)
  let good := max 2 (f 39 36) ≤ pv && f 41 40 == s.lvl && f 15 0 == rf s mlkCtrl mlkCtrlMIVL &&
    (⟨18, 0⟩ : Fld).get (b.getD 2 0) == rf s rlkCtrl rlkCtrlPER
  let asks := good && f 42 42 == 1 && (hbField s 0 ⟨42, 42⟩ == 0 || rsOver s)
  let t := wf (wf (wr s mlkPeer w0) mlkRole mlkRolePROLE (f 47 45)) mlkRole mlkRolePV pv
  let t := wb (wb t mlkSts mlkStsINCOMPAT (!good)) mlkRole mlkRoleHB good
  let t := onMlk t (fun m => { m with heard := true, hbAge := if good then some 0 else none, hb := if good then b else m.hb })
  if asks && roleOf t = 5 then resyncAgain t else t

/-- HEARTBEAT (R434, R435). -/
def execHeartbeat (ws : List Word) (s : State) : Out := ok (mlkRecv s 1 ws heartbeat)

/-! Images (R437). -/

/-- Store a word through port 18, or post it to the host. -/
def mlkStore (s : State) (otype a : Nat) (v : Word) : Nat × State :=
  match targetOf a with
  | .host | .persist => (0, hmpReq s (.unit 18 3) true a 1 [v] (targetOf a == .persist) false)
  | _ => icWrite s ⟨15, BitVec.ofNat 8 otype⟩ 18 a v .none

/-- Store words. -/
def mlkStoreList (s : State) (a : Nat) : List Word → State
  | [] => s
  | w :: r => mlkStoreList (mlkStore s 0 a w).2 (a + 1) r

/-- A slot's entry is received: into the image buffer, and pending for an enabled slot. -/
def imageTake (s : State) (n ns : Nat) (ws : List Word) : State :=
  let a := rf s mlkIbuf mlkIbufVALUE + 64 * n
  let t := mlkStoreList (mlkStoreList s a (ws.take ns)) (a + 0x20) (ws.drop ns)
  let t := onMlk t (fun m => { m with got := m.got.filter (fun p => p.1 != n) ++ [(n, ns)] })
  if slotLive t n then
    setRxImg t n ⟨ws.take ns, (ws.drop ns).take 8, ws.getD (ns + 8) 0, ws.getD (ns + 9) 0, ws.getD (ns + 10) 0, ws.getD (ns + 11) 0⟩
  else t

/-- The entries of an IMAGE body. -/
def imageEntries : Nat → State → List Word → State
  | 0, s, _ => s
  | _, s, [] => s
  | f + 1, s, d :: r =>
    let n := (⟨6, 0⟩ : Fld).get d
    let ns := min 32 ((⟨13, 8⟩ : Fld).get d)
    if r.length < ns + 12 then s else imageEntries f (imageTake s n ns (r.take (ns + 12))) (r.drop (ns + 12))

/-- IMAGE (R437). -/
def execImage (ws : List Word) (s : State) : Out := ok (mlkRecv s 2 ws (onStandby (fun t b => imageEntries 128 t b)))

/-! The mirrored journal (R352, R439, R440). -/

/-- A commit's words, record by record. -/
def splitRecords : Nat → List Word → List (List Word)
  | 0, _ => []
  | f + 1, l => if l.isEmpty then [] else l.take (recLen l + 5) :: splitRecords f (l.drop (recLen l + 5))

/-- A mirrored commit: it waits for admission, or is discarded where it is not the next one or EN 0 has closed admission
(R356). RSREQ falls with a catch-up's; in a full resynchronisation only RSTART clears it (R439, R441). -/
def commitTake (s : State) (b : List Word) : State :=
  let recs := splitRecords b.length b
  let next := rf s jneNextcsn jneNextcsnCSN + s.jne.mirq.length
  if recCsn b = next && pdOn s 44 && jneState s = 3 && !s.jne.closing && recs.all recordOk then
    onMlk (onJne s (fun j => { j with mirq := j.mirq ++ [recs] })) (fun m => { m with rsreq := m.rsreq && m.rs })
  else onMlk s (fun m => { m with rsreq := true })

/-- COMMIT (R439). -/
def execCommit (ws : List Word) (s : State) : Out := ok (mlkRecv s 3 ws (onStandby commitTake))

/-- The partner holds every commit up to n (R344, R440, R441). One that arrives in the SLOW cycle of the change to STALE
counts too, and MIRROR_STALE follows it (R353). -/
def ackTake (s : State) (b : List Word) : State :=
  let n := (b.getD 0 0).toNat
  let late := s.jne.staleAt == s.port / 4 + 1
  if roleOf s ≠ 5 || !(rb s mlkRole mlkRoleRESYNC || s.jne.live || late) then s
  else
    let t := onMlk s (fun m => { m with ackd := max m.ackd n, sentAt := m.sentAt.filter (fun p => n < p.1) })
    let t := onJne t (fun j => { j with log := j.log.map (fun c => if c.csn ≤ n then { c with mirrored := true } else c) })
    mirrorLive (if late then onJne t (fun j => { j with
      ownq := j.ownq.map (fun p => if staleHeld s p.1 then (p.1, [BitVec.ofNat 48 (t.mlk.ackd + 1)]) else p) }) else t)

/-- ACK (R344, R433). -/
def execAck (ws : List Word) (s : State) : Out := ok (mlkRecv s 4 ws ackTake)

/-- ACK_TIMEOUT (R440): a commit sent has gone unacknowledged for ACKTO intervals; 0 acts as 1. -/
def execAckTimeout (s : State) : Out :=
  let n := max 1 (rf s mlkCtrl mlkCtrlACKTO)
  onlyIf (mlkLive s && s.mlk.sentAt.any (fun p => p.2 + n ≤ s.mlk.iseq)) s
    (onMlk (mirrorStale s) (fun m => { m with sentAt := [] }))

/-! Resynchronisation on the standby (R441). -/

/-- Pages of the point image. -/
def imgPages : Nat := 131088

/-- RSTART: the PNE is not READY, drydown is held, the superblocks are made invalid and the ring starts
again at its base. -/
def resyncBegin (s : State) (c0 : Nat) : State :=
  if !pdOn s 44 || jneState s ≠ 3 then onMlk s (fun m => { m with rsreq := true })
  else
    let t := onJne (dropBursts (cmdEnd s)) (fun j => { j with
      log := [], mirq := [], ownq := [], stalled := [], waits := [], padCsn := 0, buf := [], wpos := ringBase s, used := 0, held := true,
      zeroing := true, keep := none, dryCsn := c0 })
    let t := wf (wf t jneNextcsn jneNextcsnCSN (c0 + 1)) jneAckcsn jneAckcsnCSN c0
    let t := percsnSync (setU t 0)
    let t := if pdOn t 45 then wb t pneSts pneStsREADY false else t
    let t := pushOps t ([.wr persBase [0], .wr (persBase + 0x8000) [0]] ++ zeroRing t (ringBase t) (min 33792 (ringSize t)) ++
      [.act .zeroed])
    let t := wf (wb t mlkRole mlkRoleRESYNC true) mlkJsync mlkJsyncCSN c0
    jneRun 64 (onMlk t (fun m => { m with rs := true, rsC0 := c0, rsPage := 0, rsreq := false, ackSent := c0 }))

/-- RSTART (R441). -/
def execRstart (ws : List Word) (s : State) : Out :=
  ok (mlkRecv s 8 ws (onStandby (fun t b => resyncBegin t (b.getD 0 0).toNat)))

/-- Words to the host in bursts of 8. -/
def mlkHostWrite (s : State) (a : Nat) (ws : List Word) : State :=
  ((chunks 8 (ws.length + 1) ws).foldl (fun (p : Nat × State) c =>
    (p.1 + c.length, hmpReq p.2 (.unit 18 3) true p.1 c.length c true true)) (a, s)).2

/-- A page of the partner's image; one out of order shows that one is missing. -/
def pageTake (s : State) (b : List Word) : State :=
  if !s.mlk.rs then s
  else if (b.getD 0 0).toNat = 512 * s.mlk.rsPage && b.length = 513 then
    mlkHostWrite (onMlk s (fun m => { m with rsPage := m.rsPage + 1 })) (imgAddr s + 512 * s.mlk.rsPage) (b.drop 1)
  else onMlk s (fun m => { m with rsreq := true })

/-- IMGPAGE (R441). -/
def execImgpage (ws : List Word) (s : State) : Out := ok (mlkRecv s 9 ws (onStandby pageTake))

/-- RSDONE: with every page there, the superblock is written; `published` ends the resynchronisation. -/
def resyncEnd (s : State) (b : List Word) : State :=
  if !s.mlk.rs then s
  else if s.mlk.rsPage = imgPages && (b.getD 0 0).toNat = s.mlk.rsC0 && (b.getD 1 0).toNat = imgPages && !s.mlk.rsreq then
    let t := onJne s (fun j => { j with script := j.script ++ [.act (.publish (.resynced s.mlk.rsC0))] })
    jneRun 64 (wb t mlkRole mlkRoleRESYNC false)
  else onMlk s (fun m => { m with rsreq := true })

/-- RSDONE (R441). -/
def execRsdone (ws : List Word) (s : State) : Out := ok (mlkRecv s 10 ws (onStandby resyncEnd))

/-! Reports (R442). -/

/-- Pairs of words of a REPORT body. -/
def reportPairs : List Word → List RlkReport
  | a :: v :: r => ⟨a.toNat % 2 ^ 25, v, (⟨31, 28⟩ : Fld).get a⟩ :: reportPairs r
  | _ => []

/-- REPORT (R442): the standby's PNE takes each report as one of its rack link. -/
def execReport (ws : List Word) (s : State) : Out :=
  ok (mlkRecv s 5 ws (onStandby (fun t b =>
    (reportPairs b).foldl (fun u r => pneSubmit u ⟨1, 0, 1, r.pnum, r.val, 0, r.qual, 2 * s.port⟩) t)))

/-! Bulk copies on the standby (R444). -/

/-- The half of the buffer that does not hold CURGEN. -/
def rxHalf (s : State) : Nat :=
  let hi := rf s mlkGen mlkGenCURGEN != 0 && !s.mlk.curHi
  rf s mlkBcbuf mlkBcbufVALUE + (if hi then rf s mlkBchalf mlkBchalfVALUE else 0)

/-- The half that holds CURGEN. -/
def curHalf (s : State) : Nat :=
  rf s mlkBcbuf mlkBcbufVALUE + (if s.mlk.curHi then rf s mlkBchalf mlkBchalfVALUE else 0)

/-- A generation other than the one being received begins: an incomplete one is discarded. -/
def rxBegin (s : State) (gen : Nat) : State :=
  if s.mlk.rxGen = gen then s
  else wb (onMlk s (fun m => { m with rxGen := gen, rxOff := 0, rxCrc := 0xFFFFFFFF })) mlkRole mlkRoleCOPYRX true

/-- BULK words: those that follow on the ones received go to the buffer. While a complete generation waits
for the other half nothing is taken. -/
def bulkTake (s : State) (b : List Word) : State :=
  let gen := (b.getD 0 0).toNat % 2 ^ 32
  let off := (b.getD 1 0).toNat
  let ws := b.drop 2
  let t := rxBegin s gen
  if off ≠ t.mlk.rxOff || t.mlk.rxDone.isSome || rf t mlkBchalf mlkBchalfVALUE < off + ws.length then t
  else
    mlkStoreList (onMlk t (fun m => { m with rxOff := m.rxOff + ws.length, rxCrc := ws.foldl crcWord m.rxCrc })) (rxHalf t + off) ws

/-- BULK (R444). -/
def execBulk (ws : List Word) (s : State) : Out := ok (mlkRecv s 6 ws (onStandby bulkTake))

/-- Entries of a copy table, two words each. -/
def tablePairs : List Word → List (Word × Word)
  | a :: b :: r => (a, b) :: tablePairs r
  | _ => []

/-- A complete generation becomes the current one, and its installation begins. -/
def genFlip (s : State) (d : MlkDone) : State :=
  let hi := rf s mlkGen mlkGenCURGEN != 0 && !s.mlk.curHi
  let t := wb (wb (wf s mlkGen mlkGenCURGEN d.gen) mlkGen mlkGenCURELIG d.elig) mlkGen mlkGenINSTALLING true
  onMlk (wb t mlkSts mlkStsGENDONE true) (fun m => { m with curHi := hi, inst := tablePairs d.tbl, instW := 0, instOff := 0 })

/-- BULKEND: the generation is complete, or stays incomplete. -/
def bulkEnd (s : State) (b : List Word) : State :=
  let gen := (b.getD 0 0).toNat % 2 ^ 32
  let tbl := b.drop 4
  let t := rxBegin s gen
  if (b.getD 2 0).toNat = t.mlk.rxOff && tbl.foldl crcWord t.mlk.rxCrc ^^^ 0xFFFFFFFF = (b.getD 3 0).toNat % 2 ^ 32 &&
      t.mlk.rxDone.isNone && gen ≠ 0 then
    let d : MlkDone := ⟨gen, bitOf (b.getD 1 0) 47, tbl⟩
    let u := wb (onMlk t (fun m => { m with rxGen := 0, rxOff := 0 })) mlkRole mlkRoleCOPYRX false
    if rb u mlkGen mlkGenINSTALLING then onMlk u (fun m => { m with rxDone := some d }) else genFlip u d
  else t

/-- BULKEND (R444). -/
def execBulkend (ws : List Word) (s : State) : Out := ok (mlkRecv s 7 ws (onStandby bulkEnd))

/-- A rejected installation write (R444). -/
def instRej (s : State) : State := inc (wb s mlkSts mlkStsINSTREJ true) mlkCnt mlkCntINSTREJ

/-- Install one word of the generation; a REG entry of a type that is not served is skipped. A word answered BUSY is
written again in the next PORT cycle (R79, R270). -/
def instWrite (s : State) (p : Word × Word) (v : Word) : State :=
  let a := mlkBctbl1ADDR.get p.2 + s.mlk.instW
  let r : Nat × State := if mlkBctbl0KIND.get p.1 = 0 then mlkStore s 0 a v
    else
      let u := regWrite s ⟨15, BitVec.ofNat 8 (mlkBctbl0OTYPE.get p.1)⟩ a v
      (u.resp.code, { u with resp := s.resp })
  let t := if r.1 = 2 then instRej r.2 else r.2
  let last := s.mlk.instW + 1 = entLen p
  if r.1 = 1 then t
  else onMlk t (fun m => { m with
    inst := if last then m.inst.drop 1 else m.inst, instW := if last then 0 else m.instW + 1, instOff := m.instOff + 1 })

/-- A transaction of the given use is under way. -/
def hmpBusy (s : State) (u : HmpUse) : Bool :=
  s.ports.wait.any (fun x => x.use == u) || s.ports.out.any (fun x => x.use == u) || s.ports.done.any (fun x => x.use == u)

/-- A word of a copy, from the block's memory or registers, or from the host: none while it is awaited.
What a failed read returns is not stated. -/
def mlkFetch (s : State) (id a : Nat) : Option Word × State :=
  match targetOf a with
  | .host | .persist =>
    match hmpTake s (fun u => u == .unit 18 id) with
    | some (x, t) => if x.code = 0 then (some (x.word 0), t) else (some (freshWord t).1, (freshWord t).2)
    | none => (none, if hmpBusy s (.unit 18 id) then s
        else hmpReq s (.unit 18 id) false a 1 [] (targetOf a == .persist) false)
  | _ =>
    let r := icRead s ⟨15, 0⟩ 18 0 a false .none .none
    if r.1 = 0 then (some r.2.1, r.2.2.1) else (some (freshWord r.2.2.1).1, (freshWord r.2.2.1).2)

/-- The installation's next word (R444), one in a PORT cycle. -/
def instStep (s : State) : State :=
  match s.mlk.inst with
  | [] => s
  | p :: _ =>
    let ot := mlkBctbl0OTYPE.get p.1
    if mlkBctbl0KIND.get p.1 = 1 && !(1 ≤ ot && ot ≤ 13 && ot ≠ 10) then
      onMlk (instRej s) (fun m => { m with inst := m.inst.drop 1, instW := 0, instOff := m.instOff + entLen p })
    else match mlkFetch s 2 (curHalf s + s.mlk.instOff) with
      | (some v, t) => instWrite t p v
      | (none, t) => t

/-- GEN_INSTALL_DONE (R444): every entry has been installed; a generation completed meanwhile flips. -/
def execGenInstallDone (s : State) : Out :=
  if pdLive s 47 && s.running && rb s mlkGen mlkGenINSTALLING && s.mlk.inst.isEmpty then
    let t := wb s mlkGen mlkGenINSTALLING false
    match t.mlk.rxDone with
    | some d => ok (genFlip (onMlk t (fun m => { m with rxDone := none })) d)
    | none => ok t
  else ok s

/-! Sending on lane 1 (R431, R439 to R443). -/

/-- The next commit to send: one not yet STAGED waits. -/
def nextCommit (s : State) : Option Commit :=
  s.jne.log.find? (fun c => c.csn == s.mlk.next && c.staged)

/-- Commits are being sent (R439): with MIRMODE 1 the mirror is LIVE, or the resynchronisation has sent its start. -/
def sendsCommits (s : State) : Bool := (s.jne.live && rb s jneCtrl jneCtrlMIRMODE) || (rb s mlkRole mlkRoleRESYNC && s.mlk.begun)

/-- A commit to be sent is no longer there. -/
def commitLost (s : State) : Bool :=
  s.mlk.next < rf s jneNextcsn jneNextcsnCSN && !s.jne.log.any (fun c => c.csn == s.mlk.next)

/-- Send a commit; the ring keeps what the partner has not been sent (R441). -/
def sendCommit (s : State) (c : Commit) : State :=
  let t := mlkSend s 1 3 c.words.flatten
  let t := onJne t (fun j => { j with keep := j.keep.map (fun k => max k c.csn) })
  onMlk t (fun m => { m with next := c.csn + 1, sentAt := m.sentAt ++ [(c.csn, m.iseq)] })

/-- The next frame of a full resynchronisation: RSTART, pages, RSDONE (R441). -/
def sendResync (s : State) : Option State :=
  if !rb s mlkRole mlkRoleRESYNC || s.mlk.done then none
  else
    let c0 := rf s mlkJsync mlkJsyncCSN
    if !s.mlk.begun then some (onMlk (mlkSend s 1 8 [BitVec.ofNat 48 c0]) (fun m => { m with begun := true, rsAt := m.iseq }))
    else if s.mlk.page = imgPages then
      some (mirrorLive (onJne (onMlk (mlkSend s 1 10 [BitVec.ofNat 48 c0, BitVec.ofNat 48 imgPages]) (fun m => { m with done := true }))
        (fun j => { j with keep := none })))
    else if s.mlk.words.length = 512 then
      some (onMlk (mlkSend s 1 9 (BitVec.ofNat 48 (512 * s.mlk.page) :: s.mlk.words)) (fun m => { m with page := m.page + 1, words := [] }))
    else none

/-- Every word of the generation has been read. -/
def bcAllRead (s : State) : Bool := (bcTable s).length ≤ s.mlk.bcEnt

/-- The next BULK or BULKEND frame (R443). -/
def sendBulk (s : State) : Option State :=
  if !rb s mlkBccmd mlkBccmdBUSY then none
  else
    let gen := BitVec.ofNat 48 (rf s mlkBccmd mlkBccmdGEN)
    let ws := s.mlk.bcWords
    if ws.length = 1024 || (bcAllRead s && !ws.isEmpty) then
      some (onMlk (mlkSend s 1 6 (gen :: BitVec.ofNat 48 s.mlk.bcOff :: ws)) (fun m => { m with
        bcOff := m.bcOff + ws.length, bcCrc := ws.foldl crcWord m.bcCrc, bcWords := [] }))
    else if bcAllRead s then
      let tbl := (bcTable s).flatMap (fun p => [p.1, p.2])
      let w1 := b2n s.mlk.bcElig * 2 ^ 47 + (bcTable s).length
      let crc := tbl.foldl crcWord s.mlk.bcCrc ^^^ 0xFFFFFFFF
      some (wb (mlkSend s 1 7 ([gen, BitVec.ofNat 48 w1, BitVec.ofNat 48 s.mlk.bcOff, BitVec.ofNat 48 crc] ++ tbl))
        mlkBccmd mlkBccmdBUSY false)
    else none

/-- ACKCSN: the acknowledgment condition is that of the own JNE (R352). -/
def ackCsn (s : State) : Nat := rf s jneAckcsn jneAckcsnCSN

/-- The frame that lane 1 sends next, in the priority of R431. -/
def lane1Next (s : State) : State :=
  if !evHB s || !mlkCompat s then s
  else if roleOf s ≠ 5 then
    (if evPR s = 5 && s.mlk.ackSent < ackCsn s then
      onMlk (mlkSend s 1 4 [BitVec.ofNat 48 (ackCsn s)]) (fun m => { m with ackSent := ackCsn s })
    else s)
  else if sendsCommits s && commitLost s then resyncAgain s
  else if sendsCommits s && (nextCommit s).isSome then
    match nextCommit s with
    | some c => sendCommit s c
    | none => s
  else if s.jne.live && !s.mlk.fwd.isEmpty then
    let l := s.mlk.fwd.take 512
    onMlk (mlkSend s 1 5 (l.flatMap (fun r => [BitVec.ofNat 48 (r.qual * 2 ^ 28 + r.pnum), r.val]))) (fun m => { m with fwd := m.fwd.drop 512 })
  else match sendResync s with
    | some t => t
    | none => (sendBulk s).getD s

/-- A resynchronisation reads its next page from the host, a burst at a time; a failed read is a failure of
it. -/
def pageRead (s : State) : State :=
  if !rb s mlkRole mlkRoleRESYNC || roleOf s ≠ 5 || !s.mlk.full || !s.mlk.begun || s.mlk.done || s.mlk.page = imgPages ||
      512 ≤ s.mlk.words.length then s
  else match hmpTake s (fun u => u == .unit 18 0) with
    | some (x, t) =>
      if x.code = 0 then onMlk t (fun m => { m with words := m.words ++ (List.range 8).map x.word }) else resyncAgain t
    | none =>
      if hmpBusy s (.unit 18 0) then s
      else hmpReq s (.unit 18 0) false (imgAddr s + 512 * s.mlk.page + s.mlk.words.length) 8 [] true true

/-- The generation being sent reads its next word (R443). -/
def bulkRead (s : State) : State :=
  if !rb s mlkBccmd mlkBccmdBUSY || 1024 ≤ s.mlk.bcWords.length then s
  else match (bcTable s)[s.mlk.bcEnt]? with
    | none => s
    | some p =>
      match mlkFetch s 1 (mlkBctbl1ADDR.get p.2 + s.mlk.bcWord) with
      | (none, t) => t
      | (some v, t) =>
        let last := s.mlk.bcWord + 1 = entLen p
        onMlk t (fun m => { m with
          bcWords := m.bcWords ++ [v], bcEnt := if last then m.bcEnt + 1 else m.bcEnt, bcWord := if last then 0 else m.bcWord + 1 })

/-- What the mirror link does by itself in a PORT cycle. -/
def mlkTick (s : State) : State :=
  if !(pdLive s 47 && s.running) then s
  else
    let t := { s with ports := { s.ports with done := s.ports.done.filter (fun x => x.use != .unit 18 3) } }
    let t := instStep t
    if roleOf t = 0 then t
    else
      let t := bulkRead (pageRead (mirrorLive t))
      if t.mlk.lane1 ≤ t.port then lane1Next t else t

/-! Commands (R428, R443, R449). -/

/-- BC_START (R443). -/
def execBcStart (q : Req) (elig : Bool) (s : State) : Out :=
  if pdOn s 47 then ok (bccmdWrite s q (BitVec.ofNat 48 (2 ^ 46 + b2n elig * 2 ^ 45))) else ok (respond s 3)

/-- BC_ABORT (R443). -/
def execBcAbort (q : Req) (elig : Bool) (s : State) : Out :=
  if pdOn s 47 then ok (bccmdWrite s q (BitVec.ofNat 48 (2 * 2 ^ 46 + b2n elig * 2 ^ 45))) else ok (respond s 3)

/-- MLK_ENABLE (R449): a write of MLK_CTRL with EN 1. -/
def execMlkEnable (q : Req) (v : Word) (s : State) : Out :=
  if pdOn s 47 then ok (mlkCtrlWrite s q (setBit v 47 true)) else ok (respond s 3)

/-- MLK_ARMED_WRITE (R428): a write of MLK_CTRL with ARMED 1. -/
def execMlkArmedWrite (q : Req) (v : Word) (s : State) : Out :=
  if pdOn s 47 then ok (mlkCtrlWrite s q (setBit v 46 true)) else ok (respond s 3)

end Sys2Proof.Machine
end

