-- ==== Sys2Proof/Machine/Dispatch.lean ====
section
/-! DEFINITION. The meaning of each command: one arm per constructor of Instr. -/

namespace Sys2Proof.Machine

def exec (i : Instr) (s : State) : Host.Outcome State Fault Refusal :=
  match i with
  | .sampleCapture k sub data tsc tsf par => Sys2Proof.Machine.execSampleCapture k sub data tsc tsf par s
  | .edgeWordLeave k => Sys2Proof.Machine.execEdgeWordLeave k s
  | .appliedReport k d => Sys2Proof.Machine.execAppliedReport k d s
  | .appliedReportTimeout k => Sys2Proof.Machine.execAppliedReportTimeout k s
  | .tagArmCycle tag => Sys2Proof.Machine.execTagArmCycle tag s
  | .tripInput k => Sys2Proof.Machine.execTripInput k s
  | .tglatchClear q v => Sys2Proof.Machine.execTglatchClear q v s
  | .driveGntRise => Sys2Proof.Machine.execDriveGntRise s
  | .driveGntFall => Sys2Proof.Machine.execDriveGntFall s
  | .swnodeHigh o fine => Sys2Proof.Machine.execSwnodeHigh o fine s
  | .swnodeWindowExpiry o => Sys2Proof.Machine.execSwnodeWindowExpiry o s
  | .slotEnable q n => Sys2Proof.Machine.execSlotEnable q n s
  | .slotDisable q n => Sys2Proof.Machine.execSlotDisable q n s
  | .primePoint n => Sys2Proof.Machine.execPrimePoint n s
  | .lawTrigger n => Sys2Proof.Machine.execLawTrigger n s
  | .lawNop n => Sys2Proof.Machine.execLawNop n s
  | .lawClr n => Sys2Proof.Machine.execLawClr n s
  | .lawLda n => Sys2Proof.Machine.execLawLda n s
  | .lawMac n => Sys2Proof.Machine.execLawMac n s
  | .lawMsu n => Sys2Proof.Machine.execLawMsu n s
  | .lawMacs n => Sys2Proof.Machine.execLawMacs n s
  | .lawAdds n => Sys2Proof.Machine.execLawAdds n s
  | .lawSubs n => Sys2Proof.Machine.execLawSubs n s
  | .lawMacc n => Sys2Proof.Machine.execLawMacc n s
  | .lawAsh n => Sys2Proof.Machine.execLawAsh n s
  | .lawSt n => Sys2Proof.Machine.execLawSt n s
  | .lawStl n => Sys2Proof.Machine.execLawStl n s
  | .lawOut n => Sys2Proof.Machine.execLawOut n s
  | .lawMov n => Sys2Proof.Machine.execLawMov n s
  | .lawBar n => Sys2Proof.Machine.execLawBar n s
  | .lawEnd n => Sys2Proof.Machine.execLawEnd n s
  | .slotAdopt n => Sys2Proof.Machine.execSlotAdopt n s
  | .bswap n => Sys2Proof.Machine.execBswap n s
  | .horeq n => Sys2Proof.Machine.execHoreq n s
  | .manualModeWrite q n man => Sys2Proof.Machine.execManualModeWrite q n man s
  | .cbmodeWrite q n bank => Sys2Proof.Machine.execCbmodeWrite q n bank s
  | .coefWrite n w v => Sys2Proof.Machine.execCoefWrite n w v s
  | .templateWrite q n e v => Sys2Proof.Machine.execTemplateWrite q n e v s
  | .policyWindowWrite q k x v => Sys2Proof.Machine.execPolicyWindowWrite q k x v s
  | .phaseGroupUpdate g => Sys2Proof.Machine.execPhaseGroupUpdate g s
  | .sspCellEnable q c => Sys2Proof.Machine.execSspCellEnable q c s
  | .sspCellDisable q c => Sys2Proof.Machine.execSspCellDisable q c s
  | .sspTrigger c => Sys2Proof.Machine.execSspTrigger c s
  | .sspDispatch => Sys2Proof.Machine.execSspDispatch s
  | .sspRtrq c => Sys2Proof.Machine.execSspRtrq c s
  | .sspArmrq c => Sys2Proof.Machine.execSspArmrq c s
  | .jtnsWrite q v => Sys2Proof.Machine.execJtnsWrite q v s
  | .jtsecWrite q v => Sys2Proof.Machine.execJtsecWrite q v s
  | .jtsecRead => Sys2Proof.Machine.execJtsecRead s
  | .cadenceTick g => Sys2Proof.Machine.execCadenceTick g s
  | .cgEnable q g => Sys2Proof.Machine.execCgEnable q g s
  | .deadlineMiss m => Sys2Proof.Machine.execDeadlineMiss m s
  | .dmGap m => Sys2Proof.Machine.execDmGap m s
  | .pctlDmdone q m => Sys2Proof.Machine.execPctlDmdone q m s
  | .dmMissClear m => Sys2Proof.Machine.execDmMissClear m s
  | .dmEnable q m => Sys2Proof.Machine.execDmEnable q m s
  | .semEvent half => Sys2Proof.Machine.execSemEvent half s
  | .semChcfgWrite q n v => Sys2Proof.Machine.execSemChcfgWrite q n v s
  | .semSwev v => Sys2Proof.Machine.execSemSwev v s
  | .semTglock q v => Sys2Proof.Machine.execSemTglock q v s
  | .semTgmatrixWrite q g w v => Sys2Proof.Machine.execSemTgmatrixWrite q g w v s
  | .intcSourceEvent n => Sys2Proof.Machine.execIntcSourceEvent n s
  | .intcSelect k => Sys2Proof.Machine.execIntcSelect k s
  | .intcClaim q k => Sys2Proof.Machine.execIntcClaim q k s
  | .intcEoi k n => Sys2Proof.Machine.execIntcEoi k n s
  | .intcMset n => Sys2Proof.Machine.execIntcMset n s
  | .holdoffExpiry q => Sys2Proof.Machine.execHoldoffExpiry q s
  | .intcSrcWrite q n v => Sys2Proof.Machine.execIntcSrcWrite q n v s
  | .intcPholdWrite q hold => Sys2Proof.Machine.execIntcPholdWrite q hold s
  | .interruptEntry k => Sys2Proof.Machine.execInterruptEntry k s
  | .asyncFault k => Sys2Proof.Machine.execAsyncFault k s
  | .loadResponse k cycles => Sys2Proof.Machine.execLoadResponse k cycles s
  | .postedStoreResponse k => Sys2Proof.Machine.execPostedStoreResponse k s
  | .waitEnd k cycles => Sys2Proof.Machine.execWaitEnd k cycles s
  | .fenceComplete k cycles => Sys2Proof.Machine.execFenceComplete k cycles s
  | .nop k => Sys2Proof.Machine.execNop k s
  | .dup k => Sys2Proof.Machine.execDup k s
  | .drop k => Sys2Proof.Machine.execDrop k s
  | .swap k => Sys2Proof.Machine.execSwap k s
  | .over k => Sys2Proof.Machine.execOver k s
  | .rot k => Sys2Proof.Machine.execRot k s
  | .nip k => Sys2Proof.Machine.execNip k s
  | .tuck k => Sys2Proof.Machine.execTuck k s
  | .add k => Sys2Proof.Machine.execAdd k s
  | .sub k => Sys2Proof.Machine.execSub k s
  | .neg k => Sys2Proof.Machine.execNeg k s
  | .abs k => Sys2Proof.Machine.execAbs k s
  | .and k => Sys2Proof.Machine.execAnd k s
  | .or k => Sys2Proof.Machine.execOr k s
  | .xor k => Sys2Proof.Machine.execXor k s
  | .not k => Sys2Proof.Machine.execNot k s
  | .andn k => Sys2Proof.Machine.execAndn k s
  | .min k => Sys2Proof.Machine.execMin k s
  | .max k => Sys2Proof.Machine.execMax k s
  | .minu k => Sys2Proof.Machine.execMinu k s
  | .maxu k => Sys2Proof.Machine.execMaxu k s
  | .addsat k => Sys2Proof.Machine.execAddsat k s
  | .subsat k => Sys2Proof.Machine.execSubsat k s
  | .mul k => Sys2Proof.Machine.execMul k s
  | .mulu k => Sys2Proof.Machine.execMulu k s
  | .mac k => Sys2Proof.Machine.execMac k s
  | .msu k => Sys2Proof.Machine.execMsu k s
  | .clracc k => Sys2Proof.Machine.execClracc k s
  | .rdph k => Sys2Proof.Machine.execRdph k s
  | .rdpl k => Sys2Proof.Machine.execRdpl k s
  | .rdacc0 k => Sys2Proof.Machine.execRdacc0 k s
  | .rdacc1 k => Sys2Proof.Machine.execRdacc1 k s
  | .rdacc2 k => Sys2Proof.Machine.execRdacc2 k s
  | .ldl k n => Sys2Proof.Machine.execLdl k n s
  | .putl k n => Sys2Proof.Machine.execPutl k n s
  | .teel k n => Sys2Proof.Machine.execTeel k n s
  | .pick k n => Sys2Proof.Machine.execPick k n s
  | .lit k v => Sys2Proof.Machine.execLit k v s
  | .addi k v => Sys2Proof.Machine.execAddi k v s
  | .lit16 k ps sn v => Sys2Proof.Machine.execLit16 k ps sn v s
  | .litx16 k ps sn v => Sys2Proof.Machine.execLitx16 k ps sn v s
  | .addi16 k ps sn v => Sys2Proof.Machine.execAddi16 k ps sn v s
  | .andi16 k ps sn v => Sys2Proof.Machine.execAndi16 k ps sn v s
  | .ori16 k ps sn v => Sys2Proof.Machine.execOri16 k ps sn v s
  | .xori16 k ps sn v => Sys2Proof.Machine.execXori16 k ps sn v s
  | .shl k n => Sys2Proof.Machine.execShl k n s
  | .shr k n => Sys2Proof.Machine.execShr k n s
  | .sar k n => Sys2Proof.Machine.execSar k n s
  | .rol k n => Sys2Proof.Machine.execRol k n s
  | .shlv k => Sys2Proof.Machine.execShlv k s
  | .shrv k => Sys2Proof.Machine.execShrv k s
  | .sarv k => Sys2Proof.Machine.execSarv k s
  | .rolv k => Sys2Proof.Machine.execRolv k s
  | .extu k ps sn pos len1 => Sys2Proof.Machine.execExtu k ps sn pos len1 s
  | .exts k ps sn pos len1 => Sys2Proof.Machine.execExts k ps sn pos len1 s
  | .ins k ps sn pos len1 => Sys2Proof.Machine.execIns k ps sn pos len1 s
  | .rndacc k n => Sys2Proof.Machine.execRndacc k n s
  | .rndaccs k ps sn n d => Sys2Proof.Machine.execRndaccs k ps sn n d s
  | .wracc k n => Sys2Proof.Machine.execWracc k n s
  | .cmp k cc d => Sys2Proof.Machine.execCmp k cc d s
  | .cmpi k ps sn cc d v => Sys2Proof.Machine.execCmpi k ps sn cc d v s
  | .tstp k d => Sys2Proof.Machine.execTstp k d s
  | .pand k d a b => Sys2Proof.Machine.execPand k d a b s
  | .por k d a b => Sys2Proof.Machine.execPor k d a b s
  | .pxor k d a b => Sys2Proof.Machine.execPxor k d a b s
  | .pnot k d a => Sys2Proof.Machine.execPnot k d a s
  | .rdp k n => Sys2Proof.Machine.execRdp k n s
  | .grd k cnt sn ps => Sys2Proof.Machine.execGrd k cnt sn ps s
  | .ldw k t d => Sys2Proof.Machine.execLdw k t d s
  | .stw k t d => Sys2Proof.Machine.execStw k t d s
  | .ldwx k t d => Sys2Proof.Machine.execLdwx k t d s
  | .stwx k t d => Sys2Proof.Machine.execStwx k t d s
  | .ldwd k ps sn t d => Sys2Proof.Machine.execLdwd k ps sn t d s
  | .stwd k ps sn t d => Sys2Proof.Machine.execStwd k ps sn t d s
  | .ldwxd k ps sn t d => Sys2Proof.Machine.execLdwxd k ps sn t d s
  | .stwxd k ps sn t d => Sys2Proof.Machine.execStwxd k ps sn t d s
  | .bchk k t => Sys2Proof.Machine.execBchk k t s
  | .bchkr k => Sys2Proof.Machine.execBchkr k s
  | .br k off => Sys2Proof.Machine.execBr k off s
  | .brl k ps sn off => Sys2Proof.Machine.execBrl k ps sn off s
  | .call k off => Sys2Proof.Machine.execCall k off s
  | .calll k ps sn off => Sys2Proof.Machine.execCalll k ps sn off s
  | .callf k off => Sys2Proof.Machine.execCallf k off s
  | .callfl k ps sn off => Sys2Proof.Machine.execCallfl k ps sn off s
  | .ret k => Sys2Proof.Machine.execRet k s
  | .retf k => Sys2Proof.Machine.execRetf k s
  | .jmpi k => Sys2Proof.Machine.execJmpi k s
  | .calli k => Sys2Proof.Machine.execCalli k s
  | .callfi k => Sys2Proof.Machine.execCallfi k s
  | .loop k ps sn e endLong => Sys2Proof.Machine.execLoop k ps sn e endLong s
  | .lexit k => Sys2Proof.Machine.execLexit k s
  | .tor k => Sys2Proof.Machine.execTor k s
  | .fromr k => Sys2Proof.Machine.execFromr k s
  | .rfetch k => Sys2Proof.Machine.execRfetch k s
  | .div k => Sys2Proof.Machine.execDiv k s
  | .divu k => Sys2Proof.Machine.execDivu k s
  | .scall k n => Sys2Proof.Machine.execScall k n s
  | .sret k => Sys2Proof.Machine.execSret k s
  | .eret k => Sys2Proof.Machine.execEret k s
  | .fence k => Sys2Proof.Machine.execFence k s
  | .wait k m => Sys2Proof.Machine.execWait k m s
  | .evpoll k m => Sys2Proof.Machine.execEvpoll k m s
  | .rdsr k ps sn t n => Sys2Proof.Machine.execRdsr k ps sn t n s
  | .wrsr k ps sn t n => Sys2Proof.Machine.execWrsr k ps sn t n s
  | .bmove k ps sn q d steps => Sys2Proof.Machine.execBmove k ps sn q d steps s
  | .savel k ps sn t steps => Sys2Proof.Machine.execSavel k ps sn t steps s
  | .saveu k ps sn t steps => Sys2Proof.Machine.execSaveu k ps sn t steps s
  | .restl k ps sn t steps => Sys2Proof.Machine.execRestl k ps sn t steps s
  | .restu k ps sn t steps => Sys2Proof.Machine.execRestu k ps sn t steps s
  | .tmov k d q => Sys2Proof.Machine.execTmov k d q s
  | .tget k t f => Sys2Proof.Machine.execTget k t f s
  | .tclr k t => Sys2Proof.Machine.execTclr k t s
  | .tnarrow k d q => Sys2Proof.Machine.execTnarrow k d q s
  | .tld k d a => Sys2Proof.Machine.execTld k d a s
  | .tst k a q => Sys2Proof.Machine.execTst k a q s
  | .tgete k d n => Sys2Proof.Machine.execTgete k d n s
  | .tgetct k d => Sys2Proof.Machine.execTgetct k d s
  | .troot k d kind => Sys2Proof.Machine.execTroot k d kind s
  | .tseal k ps sn d q key => Sys2Proof.Machine.execTseal k ps sn d q key s
  | .tunseal k ps sn d q key => Sys2Proof.Machine.execTunseal k ps sn d q key s
  | .tsete k ps sn n q key => Sys2Proof.Machine.execTsete k ps sn n q key s
  | .tsetct k ps sn l q key => Sys2Proof.Machine.execTsetct k ps sn l q key s
  | .bkdatRead k ps sn t => Sys2Proof.Machine.execBkdatRead k ps sn t s
  | .bkdatWrite k ps sn t => Sys2Proof.Machine.execBkdatWrite k ps sn t s
  | .detmWrite k ps sn t => Sys2Proof.Machine.execDetmWrite k ps sn t s
  | .detmActive k => Sys2Proof.Machine.execDetmActive k s
  | .rootlockWrite k ps sn t => Sys2Proof.Machine.execRootlockWrite k ps sn t s
  | .scinAbandon k ps sn t => Sys2Proof.Machine.execScinAbandon k ps sn t s
  | .maskWrite k ps sn t master => Sys2Proof.Machine.execMaskWrite k ps sn t master s
  | .svcClean k ps sn t => Sys2Proof.Machine.execSvcClean k ps sn t s
  | .svcInv k ps sn t => Sys2Proof.Machine.execSvcInv k ps sn t s
  | .svcCleaninv k ps sn t => Sys2Proof.Machine.execSvcCleaninv k ps sn t s
  | .svcIcinv k ps sn t => Sys2Proof.Machine.execSvcIcinv k ps sn t s
  | .svcAllclean k ps sn t => Sys2Proof.Machine.execSvcAllclean k ps sn t s
  | .svcAllcleaninv k ps sn t => Sys2Proof.Machine.execSvcAllcleaninv k ps sn t s
  | .svcAllinv k ps sn t => Sys2Proof.Machine.execSvcAllinv k ps sn t s
  | .svcOpDone k => Sys2Proof.Machine.execSvcOpDone k s
  | .tlbRead k ps sn t => Sys2Proof.Machine.execTlbRead k ps sn t s
  | .tlbWrite k ps sn t => Sys2Proof.Machine.execTlbWrite k ps sn t s
  | .tlbProbe k ps sn t => Sys2Proof.Machine.execTlbProbe k ps sn t s
  | .tlbInvall k ps sn t => Sys2Proof.Machine.execTlbInvall k ps sn t s
  | .tlbInvasid k ps sn t => Sys2Proof.Machine.execTlbInvasid k ps sn t s
  | .curasidWrite k ps sn t => Sys2Proof.Machine.execCurasidWrite k ps sn t s
  | .dcacheDisable k ps sn t => Sys2Proof.Machine.execDcacheDisable k ps sn t s
  | .dcacheCleanDone k => Sys2Proof.Machine.execDcacheCleanDone k s
  | .l2Enable k ps sn t => Sys2Proof.Machine.execL2Enable k ps sn t s
  | .l2Disable k ps sn t => Sys2Proof.Machine.execL2Disable k ps sn t s
  | .wayDisable k ps sn t => Sys2Proof.Machine.execWayDisable k ps sn t s
  | .lineFill k => Sys2Proof.Machine.execLineFill k s
  | .wcBufferTimeout k => Sys2Proof.Machine.execWcBufferTimeout k s
  | .memAccess k m u waited => Sys2Proof.Machine.execMemAccess k m u waited s
  | .memRetry k m u => Sys2Proof.Machine.execMemRetry k m u s
  | .scrub r u busy => Sys2Proof.Machine.execScrub r u busy s
  | .frameStart => Sys2Proof.Machine.execFrameStart s
  | .resvCommit => Sys2Proof.Machine.execResvCommit s
  | .resvAdmissionDone => Sys2Proof.Machine.execResvAdmissionDone s
  | .bankRetire q st v => Sys2Proof.Machine.execBankRetire q st v s
  | .pneRead q r n => Sys2Proof.Machine.execPneRead q r n s
  | .pneWrite q r n => Sys2Proof.Machine.execPneWrite q r n s
  | .pneDefine q r n => Sys2Proof.Machine.execPneDefine q r n s
  | .pneDelete q r n => Sys2Proof.Machine.execPneDelete q r n s
  | .pnePin q r n => Sys2Proof.Machine.execPnePin q r n s
  | .pneUnpin q r n => Sys2Proof.Machine.execPneUnpin q r n s
  | .pneDeclare q r n => Sys2Proof.Machine.execPneDeclare q r n s
  | .pneWopReserved q r n => Sys2Proof.Machine.execPneWopReserved q r n s
  | .pneAdmission => Sys2Proof.Machine.execPneAdmission s
  | .pointDelivery => Sys2Proof.Machine.execPointDelivery s
  | .cacheFill => Sys2Proof.Machine.execCacheFill s
  | .ageTick => Sys2Proof.Machine.execAgeTick s
  | .pointScan u => Sys2Proof.Machine.execPointScan u s
  | .pneCacheEnable q size base => Sys2Proof.Machine.execPneCacheEnable q size base s
  | .pneCacheDisable q => Sys2Proof.Machine.execPneCacheDisable q s
  | .pneDisableDone => Sys2Proof.Machine.execPneDisableDone s
  | .pneReady => Sys2Proof.Machine.execPneReady s
  | .restoreTimeout u => Sys2Proof.Machine.execRestoreTimeout u s
  | .jneOpen q mirmode ackmode => Sys2Proof.Machine.execJneOpen q mirmode ackmode s
  | .jneClose q => Sys2Proof.Machine.execJneClose q s
  | .recoveryComplete => Sys2Proof.Machine.execRecoveryComplete s
  | .jneFormat q key => Sys2Proof.Machine.execJneFormat q key s
  | .formatComplete => Sys2Proof.Machine.execFormatComplete s
  | .jneAdmit => Sys2Proof.Machine.execJneAdmit s
  | .paceRefill => Sys2Proof.Machine.execPaceRefill s
  | .headBurstResponse => Sys2Proof.Machine.execHeadBurstResponse s
  | .headBurstTimeout => Sys2Proof.Machine.execHeadBurstTimeout s
  | .journalAck => Sys2Proof.Machine.execJournalAck s
  | .pfail => Sys2Proof.Machine.execPfail s
  | .pfailRearm => Sys2Proof.Machine.execPfailRearm s
  | .holdupWrite q v => Sys2Proof.Machine.execHoldupWrite q v s
  | .jneMbGo q r kind len => Sys2Proof.Machine.execJneMbGo q r kind len s
  | .mbBodyRead r => Sys2Proof.Machine.execMbBodyRead r s
  | .mqheadWrite m => Sys2Proof.Machine.execMqheadWrite m s
  | .mqPoll => Sys2Proof.Machine.execMqPoll s
  | .mqCompletion m => Sys2Proof.Machine.execMqCompletion m s
  | .merrReadmit m => Sys2Proof.Machine.execMerrReadmit m s
  | .drydownBatch => Sys2Proof.Machine.execDrydownBatch s
  | .segPin q seq => Sys2Proof.Machine.execSegPin q seq s
  | .segUnpin q seq => Sys2Proof.Machine.execSegUnpin q seq s
  | .infoPoll => Sys2Proof.Machine.execInfoPoll s
  | .wacEnable q nsw uper ckper => Sys2Proof.Machine.execWacEnable q nsw uper ckper s
  | .wacDisable q => Sys2Proof.Machine.execWacDisable q s
  | .wacRound => Sys2Proof.Machine.execWacRound s
  | .wacCheckpoint => Sys2Proof.Machine.execWacCheckpoint s
  | .wacCkpt q => Sys2Proof.Machine.execWacCkpt q s
  | .wacReset q t => Sys2Proof.Machine.execWacReset q t s
  | .counterWriteDone => Sys2Proof.Machine.execCounterWriteDone s
  | .rlkEnable q v => Sys2Proof.Machine.execRlkEnable q v s
  | .ringEnable q k v => Sys2Proof.Machine.execRingEnable q k v s
  | .rlkCycleStart late => Sys2Proof.Machine.execRlkCycleStart late s
  | .uplinkSlot k pos ws => Sys2Proof.Machine.execUplinkSlot k pos ws s
  | .reportHandoff => Sys2Proof.Machine.execReportHandoff s
  | .frameReturn k hdr ends aborted => Sys2Proof.Machine.execFrameReturn k hdr ends aborted s
  | .rlkCycleEnd => Sys2Proof.Machine.execRlkCycleEnd s
  | .lockLost l => Sys2Proof.Machine.execLockLost l s
  | .hiber l n => Sys2Proof.Machine.execHiber l n s
  | .mlkEnable q v => Sys2Proof.Machine.execMlkEnable q v s
  | .mlkArmedWrite q v => Sys2Proof.Machine.execMlkArmedWrite q v s
  | .mirrorIntervalStart => Sys2Proof.Machine.execMirrorIntervalStart s
  | .heartbeat ws => Sys2Proof.Machine.execHeartbeat ws s
  | .image ws => Sys2Proof.Machine.execImage ws s
  | .commit ws => Sys2Proof.Machine.execCommit ws s
  | .ack ws => Sys2Proof.Machine.execAck ws s
  | .report ws => Sys2Proof.Machine.execReport ws s
  | .bulk ws => Sys2Proof.Machine.execBulk ws s
  | .bulkend ws => Sys2Proof.Machine.execBulkend ws s
  | .genInstallDone => Sys2Proof.Machine.execGenInstallDone s
  | .rstart ws => Sys2Proof.Machine.execRstart ws s
  | .imgpage ws => Sys2Proof.Machine.execImgpage ws s
  | .rsdone ws => Sys2Proof.Machine.execRsdone ws s
  | .bcStart q elig => Sys2Proof.Machine.execBcStart q elig s
  | .bcAbort q elig => Sys2Proof.Machine.execBcAbort q elig s
  | .ackTimeout => Sys2Proof.Machine.execAckTimeout s
  | .cptAlloc q r => Sys2Proof.Machine.execCptAlloc q r s
  | .cptSubmit q r b => Sys2Proof.Machine.execCptSubmit q r b s
  | .cptFree q r b => Sys2Proof.Machine.execCptFree q r b s
  | .cptHdb q a => Sys2Proof.Machine.execCptHdb q a s
  | .cptPdb q a => Sys2Proof.Machine.execCptPdb q a s
  | .cptPacketFetch => Sys2Proof.Machine.execCptPacketFetch s
  | .cptReplyCopy => Sys2Proof.Machine.execCptReplyCopy s
  | .cptTake q b => Sys2Proof.Machine.execCptTake q b s
  | .cptReply q b status detail len => Sys2Proof.Machine.execCptReply q b status detail len s
  | .cptDeadline b => Sys2Proof.Machine.execCptDeadline b s
  | .eventRingWrite => Sys2Proof.Machine.execEventRingWrite s
  | .cptNop => Sys2Proof.Machine.execCptNop s
  | .version => Sys2Proof.Machine.execVersion s
  | .ptRead => Sys2Proof.Machine.execPtRead s
  | .ptWrite => Sys2Proof.Machine.execPtWrite s
  | .ptDefine => Sys2Proof.Machine.execPtDefine s
  | .ptDelete => Sys2Proof.Machine.execPtDelete s
  | .ptPin => Sys2Proof.Machine.execPtPin s
  | .ptUnpin => Sys2Proof.Machine.execPtUnpin s
  | .unitDeclare => Sys2Proof.Machine.execUnitDeclare s
  | .unitRead => Sys2Proof.Machine.execUnitRead s
  | .timeGet => Sys2Proof.Machine.execTimeGet s
  | .timeSet => Sys2Proof.Machine.execTimeSet s
  | .jnlStatus => Sys2Proof.Machine.execJnlStatus s
  | .jnlAppend => Sys2Proof.Machine.execJnlAppend s
  | .roleGet => Sys2Proof.Machine.execRoleGet s
  | .regRead => Sys2Proof.Machine.execRegRead s
  | .regWrite => Sys2Proof.Machine.execRegWrite s
  | .pllLock => Sys2Proof.Machine.execPllLock s
  | .pllLockTimeout => Sys2Proof.Machine.execPllLockTimeout s
  | .lossOfLock => Sys2Proof.Machine.execLossOfLock s
  | .pdOn q d => Sys2Proof.Machine.execPdOn q d s
  | .pdRetain q d => Sys2Proof.Machine.execPdRetain q d s
  | .pdOff q d => Sys2Proof.Machine.execPdOff q d s
  | .pdReset q d => Sys2Proof.Machine.execPdReset q d s
  | .pdHold q d => Sys2Proof.Machine.execPdHold q d s
  | .pdFreset q d => Sys2Proof.Machine.execPdFreset q d s
  | .pdFoff q d => Sys2Proof.Machine.execPdFoff q d s
  | .pdackRise d => Sys2Proof.Machine.execPdackRise d s
  | .pdackFall d => Sys2Proof.Machine.execPdackFall d s
  | .pdackTimeout d => Sys2Proof.Machine.execPdackTimeout d s
  | .supplyFault d => Sys2Proof.Machine.execSupplyFault d s
  | .drainComplete d => Sys2Proof.Machine.execDrainComplete d s
  | .drainTimeout d => Sys2Proof.Machine.execDrainTimeout d s
  | .coreRun q k rootok lockact => Sys2Proof.Machine.execCoreRun q k rootok lockact s
  | .powerOnReset => Sys2Proof.Machine.execPowerOnReset s
  | .sysrst => Sys2Proof.Machine.execSysrst s
  | .swrst q => Sys2Proof.Machine.execSwrst q s
  | .bootFill => Sys2Proof.Machine.execBootFill s
  | .bootFillDone => Sys2Proof.Machine.execBootFillDone s
  | .manifestLoad ws => Sys2Proof.Machine.execManifestLoad ws s
  | .blevelWrite q sel => Sys2Proof.Machine.execBlevelWrite q sel s
  | .stuxTransaction h d c => Sys2Proof.Machine.execStuxTransaction h d c s
  | .stuxResync => Sys2Proof.Machine.execStuxResync s
  | .dpPwrreq => Sys2Proof.Machine.execDpPwrreq s
  | .dpTrpwr => Sys2Proof.Machine.execDpTrpwr s
  | .dpAbort v => Sys2Proof.Machine.execDpAbort v s
  | .dpChal => Sys2Proof.Machine.execDpChal s
  | .dpCheck req => Sys2Proof.Machine.execDpCheck req s
  | .authCheckDone => Sys2Proof.Machine.execAuthCheckDone s
  | .dpDrop => Sys2Proof.Machine.execDpDrop s
  | .authLockoutExpiry => Sys2Proof.Machine.execAuthLockoutExpiry s
  | .dbgcapChange v => Sys2Proof.Machine.execDbgcapChange v s
  | .dpHalt => Sys2Proof.Machine.execDpHalt s
  | .haltWaitEnd => Sys2Proof.Machine.execHaltWaitEnd s
  | .dpResume => Sys2Proof.Machine.execDpResume s
  | .dpStep n => Sys2Proof.Machine.execDpStep n s
  | .stepEnd => Sys2Proof.Machine.execStepEnd s
  | .dpMaddrWrite v => Sys2Proof.Machine.execDpMaddrWrite v s
  | .dpMdataRead => Sys2Proof.Machine.execDpMdataRead s
  | .dpMdataWrite v => Sys2Proof.Machine.execDpMdataWrite v s
  | .dpAccessDone m u => Sys2Proof.Machine.execDpAccessDone m u s
  | .dpVtRead => Sys2Proof.Machine.execDpVtRead s
  | .dpVtWrite v => Sys2Proof.Machine.execDpVtWrite v s
  | .vtoutWrite v => Sys2Proof.Machine.execVtoutWrite v s
  | .vtinRead => Sys2Proof.Machine.execVtinRead s
  | .dbgKeyWrite w v => Sys2Proof.Machine.execDbgKeyWrite w v s
  | .keylock q => Sys2Proof.Machine.execKeylock q s
  | .dbgStop q k => Sys2Proof.Machine.execDbgStop q k s
  | .dbgCoreStep q k => Sys2Proof.Machine.execDbgCoreStep q k s
  | .dbgCoreResume q k => Sys2Proof.Machine.execDbgCoreResume q k s
  | .breakpoint k => Sys2Proof.Machine.execBreakpoint k s
  | .traceWrite => Sys2Proof.Machine.execTraceWrite s
  | .trmarkWrite v => Sys2Proof.Machine.execTrmarkWrite v s
  | .hspRequest write addr len data up => Sys2Proof.Machine.execHspRequest write addr len data up s
  | .hmpResponse tag code data => Sys2Proof.Machine.execHmpResponse tag code data s
  | .hmpTimeout tag => Sys2Proof.Machine.execHmpTimeout tag s
  | .registerWrite q a v => Sys2Proof.Machine.execRegisterWrite q a v s
  | .illegalOpcode k p0 p1 => Sys2Proof.Machine.execIllegalOpcode k p0 p1 s
  | .tripInputInactive k => Sys2Proof.Machine.execTripInputInactive k s
  | .pfailDeassert => Sys2Proof.Machine.execPfailDeassert s
  | .sysrstRelease => Sys2Proof.Machine.execSysrstRelease s
  | .porstAssert => Sys2Proof.Machine.execPorstAssert s
  | .testMode => Sys2Proof.Machine.execTestMode s
  | .blockLock l => Sys2Proof.Machine.execBlockLock l s
  | .hiberClear l => Sys2Proof.Machine.execHiberClear l s
  | .l2CleaningDone k => Sys2Proof.Machine.execL2CleaningDone k s
  | .dbgCdatWrite q k v => Sys2Proof.Machine.execDbgCdatWrite q k v s
  | .dbgGrantWrite q g => Sys2Proof.Machine.execDbgGrantWrite q g s

end Sys2Proof.Machine
end

