-- ==== Sys2Proof/Machine/Tick.lean ====
section
/-! DEFINITION. One PORT cycle of block time: what the units do by themselves (R3, R111, R470, R518 to R520). -/

namespace Sys2Proof.Machine

/-- Core k stops where a STOP waited for an issue boundary, or a debugger's step is over (R520). -/
def debugStops (s : State) (k : Nat) : State :=
  let c := coreOf s k
  if !(coreLive s k && coreMayYield s k) || c.openPair then s
  else if s.dbg.stops.contains k then coreStop s k 1
  else if c.dbgStep && c.prev.isSome && c.wait == .none then coreStop s k 4
  else s

/-- What the units do by themselves in a PORT cycle whose clocks run. -/
def unitsTick (s : State) : State :=
  let s := handTick (hspTick (pulseTick (tripFilterTick s)))
  let s := sspTick s
  let s := wacTick (pneTick s)
  let s := jneTick s
  let s := hmpDeliver (svcTick s)
  let s := drvFollow (mlkTick s)
  let s := cptRunTick (cptTick s)
  forN 10 (pctlTick s) debugStops

/-- What the model keeps of a cycle only while it lasts: the hardware's changes of registers (R12), the bindings made in
it (R130), and the grants of the bank ports and the accesses to the arrays (R267, R269); what the scrubber takes of the next one
stays taken (R274). -/
def cycleOver (s : State) : State :=
  { s with sets := [], sem := { s.sem with binds := [] }, msys := { s.msys with acts := [], grants := s.msys.grants.filterMap (fun p => if 2 < p.2 then some (p.1, p.2 - 2) else none) } }

/-- One cycle with no command: a PORT cycle while the PLL-derived clocks run, an AON cycle of the platform controller
while they do not. At the end of a halt's wait and of a step, time stands until HALT_WAIT_END or STEP_END (R518,
R519). -/
def tick (s : State) : State :=
  if !s.running then pctlTick (cycleOver s)
  else if haltDue s || (s.halted && stepDue s) then s
  else unitsTick (jtAdvance { cycleOver s with port := s.port + 1 })

end Sys2Proof.Machine
end

