-- ==== Sys2Proof/Safety.lean ====
section
/-! DEFINITION. The terms in which statements speak of the machine: what a command leaves alone, the canonical form of
its memories, and a core that is about to issue. -/

namespace Sys2Proof.Machine

/-- The block's memories and their token tags are in canonical form: addresses rise strictly, and no entry equals what
an unlisted address reads as. -/
def Memory.wf (s : State) : Bool := twf (fun _ => (0 : Word)) s.mem && twf (fun _ => false) s.tags

/-- Command c completes from s in a state with a property. -/
def Runs (c : Instr) (s : State) (P : State → Prop) : Prop := ∃ t, exec c s = .next t ∧ P t

/-! What a command leaves alone. -/

/-- The parts of the state: one for each of its fields; the registers count with what the hardware has set in them. -/
inductive Part where
  | pending | port | running | par | lvl | regs | mem | tags | free | resp | sig | halted | drvWant | ssp | cores | svc
  | ports | msys | cvp | ae | dm | sem | intc | pne | rlk | wac | jne | mlk | cpt | pctl | dbg
deriving DecidableEq, Repr

/-- A part is the same in two states. -/
def Part.same (s t : State) : Part → Prop
  | .pending => t.pending = s.pending
  | .port => t.port = s.port
  | .running => t.running = s.running
  | .par => t.par = s.par
  | .lvl => t.lvl = s.lvl
  | .regs => t.regs = s.regs ∧ t.sets = s.sets
  | .mem => t.mem = s.mem
  | .tags => t.tags = s.tags
  | .free => t.free = s.free
  | .resp => t.resp = s.resp
  | .sig => t.sig = s.sig
  | .halted => t.halted = s.halted
  | .drvWant => t.drvWant = s.drvWant
  | .ssp => t.ssp = s.ssp
  | .cores => t.cores = s.cores
  | .svc => t.svc = s.svc
  | .ports => t.ports = s.ports
  | .msys => t.msys = s.msys
  | .cvp => t.cvp = s.cvp
  | .ae => t.ae = s.ae
  | .dm => t.dm = s.dm
  | .sem => t.sem = s.sem
  | .intc => t.intc = s.intc
  | .pne => t.pne = s.pne
  | .rlk => t.rlk = s.rlk
  | .wac => t.wac = s.wac
  | .jne => t.jne = s.jne
  | .mlk => t.mlk = s.mlk
  | .cpt => t.cpt = s.cpt
  | .pctl => t.pctl = s.pctl
  | .dbg => t.dbg = s.dbg

/-- Every part but those of a list is the same. -/
def SameBut (l : List Part) (s t : State) : Prop := ∀ p, p ∉ l → p.same s t

/-- Every register but those at the addresses of a list holds the same. -/
def RegsBut (l : List Nat) (s t : State) : Prop := ∀ a, a ∉ l → rd t a = rd s a

/-- Apart from the registers that a list gives new values, every register holds the same. -/
def RegsAre (l : List (Nat × Word)) (s t : State) : Prop := (∀ p ∈ l, rd t p.1 = p.2) ∧ RegsBut (l.map Prod.fst) s t

/-- The producers of a list have fired (R128), and the event matrix holds nothing else new. -/
def Fires (l : List Nat) (s t : State) : Prop := t.sem = (l.foldl semFire s).sem

/-- A register after a field was set. -/
def withFld (s : State) (a : Nat) (f : Fld) (v : Nat) : Nat × Word := (a, f.put (rd s a) v)

/-- A register after a bit of a field was set. -/
def withBit (s : State) (a : Nat) (f : Fld) (i : Nat) (b : Bool) : Nat × Word := (a, setBit (rd s a) (f.lo + i) b)

/-- A register after its counter advanced, short of its largest value. -/
def counted (s : State) (a : Nat) (f : Fld) : Nat × Word := withFld s a f (satAdd (f.span - 1) (rf s a f) 1)

/-! Cores. -/

/-- The operand stack of a bank, TOS first (R165). -/
def Bank.stack (b : Bank) : List Word := (List.range b.osp).map b.peek

/-- The operand stack of core k's bank in use, TOS first (R165). -/
def operands (s : State) (k : Nat) : List Word := (bankOf s k).stack

/-- The state after core k's fetch of the `n` parcels at its PC. -/
def fetched (s : State) (k n : Nat) : State := (fetchIns s k n false).2

/-- The `n` parcels at core k's PC are at hand, and their fetch is allowed. -/
def atHand (s : State) (k n : Nat) : Bool := (fetchIns s k n false).1.isNone

/-- Nothing comes before core k's next instruction: no fault, presentation, stop, coverage, hardware loop end, reserved
entry or operation in flight, no presentation waits for it, and no word is kept for it (R179). An instruction of several steps may be in progress. -/
def coreFree (s : State) (k : Nat) : Bool :=
  let c := coreOf s k
  coreLive s k && c.wait == .none && c.asyncs.isEmpty && !s.sig.asyncs.any (fun x => x.1 == k) &&
  !s.dbg.stops.contains k && !s.dbg.wps.contains k && !bpHit s k && !c.dbgStep && pcSlot c.pc != 3 &&
  c.grem == 0 && c.gpc.isNone && c.got.isNone && !c.atLend && c.lands.isEmpty && c.cur.resv.isEmpty && !c.entry &&
  !c.kept.any (fun x => x.lvl == c.lvl && x.pc == c.pc)

/-- Nothing comes before core k's next instruction, and none is in progress. -/
def coreReady (s : State) (k : Nat) : Bool := coreFree s k && (coreOf s k).unbegun

/-- Core k may issue an instruction of `n` parcels: nothing comes before it, and its parcels are at hand. -/
def issuable (s : State) (k n : Nat) : Bool := coreReady s k && atHand s k n && coreReady (fetched s k n) k

/-- Core k may issue a long form, or go on with one in progress: nothing comes before it, its parcels are at hand and its
guard passes. Its operand stack is `ws`. -/
def Resumes (s : State) (k : Nat) (ps : Fin 8) (sn : Bool) (ws : List Word) : Prop :=
  coreFree s k = true ∧ atHand s k 2 = true ∧ coreFree (fetched s k 2) k = true ∧ operands (fetched s k 2) k = ws ∧
  ws.length ≤ 32 ∧ badGuard ps sn = false ∧ guardPass (bankOf (fetched s k 2) k) ps.val sn = true

/-- Core k may issue a short form with the operand stack `ws`. -/
def Issues (s : State) (k n : Nat) (ws : List Word) : Prop :=
  issuable s k n = true ∧ operands (fetched s k n) k = ws ∧ ws.length ≤ 32

/-- Core k may issue a long form whose guard passes (R186, R188), with the operand stack `ws`. -/
def IssuesLong (s : State) (k : Nat) (ps : Fin 8) (sn : Bool) (ws : List Word) : Prop :=
  Issues s k 2 ws ∧ badGuard ps sn = false ∧ guardPass (bankOf (fetched s k 2) k) ps.val sn = true

/-- Apart from core k, and from memory and the state of an access where `l` names them, t is u; core k is `c` with a
PC, the cycle it has reached and its issue bookkeeping. -/
def CoreIs (l : List Part) (u t : State) (k : Nat) (pc : Word) (c : Core) : Prop :=
  coreOf t k = { c with pc := pc, banks := (coreOf t k).banks, cyc := (coreOf t k).cyc, prev := (coreOf t k).prev } ∧
  (∀ m, (coreOf t k).bank m = c.bank m) ∧ (∀ j, j ≠ k → coreOf t j = coreOf u j) ∧
  SameBut (.cores :: .dbg :: l) u t ∧ t.dbg = { u.dbg with skip := t.dbg.skip }

/-- Core k's instruction of `n` parcels moved its PC on, and made it `c` but for its issue bookkeeping. -/
def Steps (u t : State) (k n : Nat) (c : Core) : Prop := CoreIs [] u t k (pcAdd (coreOf u k).pc n) c

/-- Command c is an instruction of `n` parcels that core k completes; what becomes of the core is `f` of it. -/
def CoreResult (c : Instr) (s : State) (k n : Nat) (f : Core → Core) : Prop :=
  Runs c s (fun t => Steps (fetched s k n) t k n (f (coreOf (fetched s k n) k)))

/-- Command c is an instruction of `n` parcels that core k completes with the operand stack `ws`, changing nothing else
but its PC and issue bookkeeping. -/
def StackResult (c : Instr) (s : State) (k n : Nat) (ws : List Word) : Prop :=
  Runs c s (fun t => operands t k = ws ∧ ∃ o p,
    Steps (fetched s k n) t k n ((coreOf (fetched s k n) k).withCur (fun b => { b with ost := o, osp := p })))

/-- A word of core k's own data scratchpad that can be accessed, has no upset and meets no watchpoint. -/
def spWord (s : State) (k a : Nat) : Bool :=
  ownSp k a && arrayCode s a == 0 && upsetAt s (upsetKey a) == .none && upsetAt s (tagUpsetKey a) == .none &&
  !wpHit s k a false && !wpHit s k a true

/-- No word of engine e's local RAM holds an upset (R272). -/
def RamWhole (s : State) (e : Nat) : Prop := ∀ off, upsetAt s (upsetKey (ramAddr e off)) = .none

/-- The n words from address a lie in the block's memories, answer, and hold no upset (R272, R275). -/
def WordsWhole (s : State) (a n : Nat) : Prop :=
  ∀ j < n, a + j < 0x200000 ∧ arrayCode s (a + j) = 0 ∧ upsetAt s (upsetKey (a + j)) = .none ∧ upsetAt s (tagUpsetKey (a + j)) = .none

/-- The entry of the point cache at address a: its words lie in shared memory, answer, and hold no upset (R272, R275, R315). -/
def entWhole (s : State) (a : Nat) : Bool :=
  a % 2 == 0 && decide (a < 0x100000) && arrayCode s a == 0 && arrayCode s (a + 1) == 0 && upsetAt s (upsetKey a) == .none &&
  upsetAt s (upsetKey (a + 1)) == .none && upsetAt s (tagUpsetKey a) == .none

/-- The same of every entry in which a point may stand. -/
def setWhole (s : State) (n : Nat) : Bool := (List.range 8).all (fun w => entWhole s (wayAt s (pneSet s n) w))

/-- The same of the whole region of the point cache. -/
def PneWhole (s : State) : Prop := ∀ a, pneBase s ≤ a → a < pneBase s + pneStripes s * 0x10000 → a % 2 = 0 → entWhole s a = true

/-- What a hardware master's accesses through port `p` leave beside the words: its beats, where one met an access on the
array's other port, its retry, and where one waited for a grant, its wait (R269, R270, R278, R284). -/
def Beats (p : Nat) (u t : State) : Prop :=
  t.msys = { u.msys with acts := t.msys.acts, credit := t.msys.credit, grants := t.msys.grants, upsets := t.msys.upsets } ∧
  (∀ i, upsetAt t i = upsetAt u i) ∧ rf t (memArb p) memArbPRIO = rf u (memArb p) memArbPRIO ∧
  rf u (memArb p) memArbWAITMAX ≤ rf t (memArb p) memArbWAITMAX

/-- What a hardware master's stores through port `p` leave beside the words: the same, and fresh check bits (R272). -/
def StoreBeats (p : Nat) (u t : State) : Prop :=
  t.msys = { u.msys with acts := t.msys.acts, credit := t.msys.credit, grants := t.msys.grants, upsets := t.msys.upsets } ∧
  RegsBut [memArb p] u t ∧ rf t (memArb p) memArbPRIO = rf u (memArb p) memArbPRIO ∧
  rf u (memArb p) memArbWAITMAX ≤ rf t (memArb p) memArbWAITMAX

/-- What core k's accesses of its own scratchpad leave beside the words: that they have acted, and, where one met an access on the
array's other port, its retry (R269, R270). -/
def Acted (u t : State) (k : Nat) : Prop :=
  t.msys = { u.msys with acts := t.msys.acts, upsets := t.msys.upsets } ∧ (∀ i, upsetAt t i = upsetAt u i) ∧
  RegsBut [memArb (corePort k)] u t ∧
  ∀ f ∈ [memArbPRIO, memArbWAITMAX], rf t (memArb (corePort k)) f = rf u (memArb (corePort k)) f

/-- The parts of the state that such an access may change beside its core. -/
def actedParts : List Part := [.msys, .regs, .free]

/-- Memory after core k's store of v at address a of its own scratchpad: that word holds it, its pair's tag is clear, everything
else is as before (R210). -/
def Stored (u t : State) (k a : Nat) (v : Word) : Prop :=
  (∀ b, memRd t b = if b = a then v else memRd u b) ∧ (∀ b, tagRd t b = if b = a / 2 * 2 then false else tagRd u b) ∧ Acted u t k

/-- Command c is an instruction that core k completes with the operand stack `ws`, having read its own scratchpad. -/
def LoadResult (c : Instr) (s : State) (k n : Nat) (ws : List Word) : Prop :=
  Runs c s (fun t => operands t k = ws ∧ Acted (fetched s k n) t k ∧
    ∃ o p, CoreIs actedParts (fetched s k n) t k (pcAdd (coreOf (fetched s k n) k).pc n)
      ((coreOf (fetched s k n) k).withCur (fun b => { b with ost := o, osp := p })))

/-- Command c is an instruction that core k completes with the operand stack `ws` and a store of v at address a. -/
def StoreResult (c : Instr) (s : State) (k n : Nat) (ws : List Word) (a : Nat) (v : Word) : Prop :=
  Runs c s (fun t => operands t k = ws ∧ Stored (fetched s k n) t k a v ∧
    ∃ o p, CoreIs (.mem :: .tags :: actedParts) (fetched s k n) t k (pcAdd (coreOf (fetched s k n) k).pc n)
      ((coreOf (fetched s k n) k).withCur (fun b => { b with ost := o, osp := p })))

/-- What a control transfer may leave beside the core: a trace event, and a free value used for its prediction. -/
def Jumped (u t : State) (k : Nat) (pc : Word) (c : Core) : Prop :=
  CoreIs [.sig, .regs, .free] u t k pc c ∧ RegsBut [dbgTrptr] u t ∧
  t.sig = { u.sig with traces := t.sig.traces, tlost := t.sig.tlost }

/-- Command c is an instruction of `n` parcels with which core k transfers control to `pc`; what becomes of the core
apart from it is `f` of it. -/
def JumpResult (c : Instr) (s : State) (k n : Nat) (pc : Word) (f : Core → Core) : Prop :=
  Runs c s (fun t => Jumped (fetched s k n) t k pc (f (coreOf (fetched s k n) k)))

/-- A core at a boundary between instructions, outside a hardware loop's end, coverage and its own debugging. -/
def Core.between (c : Core) : Bool :=
  c.wait == .none && c.grem == 0 && c.gpc.isNone && c.unbegun && c.got.isNone && !c.atLend && !c.dbgStep

/-- Core k waits in `w`, and nothing else holds it up. -/
def waitsIn (s : State) (k : Nat) (w : CoreWait) : Bool :=
  coreLive s k && (coreOf s k).wait == w && { coreOf s k with wait := .none }.between && !s.dbg.wps.contains k

/-- Core k is in level l, which it entered from the state u with a cause (R249, R262): it stands at its handler entry
with empty stacks, waiting for nothing but its first word, and the save registers of l hold where it came from. -/
def Entered (u t : State) (k l code : Nat) (async esc : Bool) (v : Word) : Prop :=
  let c := coreOf u k
  let d := coreOf t k
  d.lvl = l ∧ d.pc = pcMk (c.ecp 8).base 0 ∧ d.code l = (c.ecp 8).retype 0 ∧
  d.sr (srSpc l) = c.pc ∧ (Fld.mk 33 32).get (d.sr (srSst l)) = c.lvl ∧ bitOf (d.sr (srSst l)) 31 = c.mmask ∧
  bitOf (d.sr (srSst l)) 30 = c.ilnest ∧
  d.sr (srScause l) = BitVec.ofNat 48 (code + b2n async * 2 ^ 8 + b2n esc * 2 ^ 9 + c.lvl * 2 ^ 10) ∧ d.sr (srScausev l) = v ∧
  (l = c.lvl ∨ ((d.bank l).osp = 0 ∧ (d.bank l).rsp = 0 ∧ (d.bank l).fd = 0 ∧ (d.bank l).ld = 0)) ∧
  (∀ m, m ≠ l → d.bank m = c.bank m) ∧ (d.wait = .none ∨ ∃ w pa acc id n, d.wait = .fetch w pa acc id n false) ∧ d.grem = 0 ∧
  ∀ j, j ≠ k → coreOf t j = coreOf u j

/-- The handler entry of core k is set, and its first fetch at level l does not fault: an entry there does not lock (R249). -/
def handlerOk (s : State) (k l : Nat) : Bool :=
  let c := coreOf s k
  let d := { c.setCode l ((c.ecp 8).retype 0) with lvl := l, pc := pcMk (c.ecp 8).base 0, fbuf := [] }
  (c.ecp 8).tag && (match (fetchWord (setCore s k d) k (pcWord d.pc) false).1 with
    | some (.fault _ _) => false
    | _ => true)

/-- Registers of some subsystems that act when they are written. -/
def actingRegs (u : Nat) : List Nat :=
  match u with
  | 1 => [intcCtrl, intcMset, intcEoi 0, intcSrc 0]
  | 9 => [wacCtrl, wacBase, wacCmd]
  | 10 => [mlkCtrl, mlkBccmd, mlkBcbuf, mlkBchalf, mlkIbuf, mlkSlotsel 0]
  | _ => [rlkCtrl, rlkPhase, rlkTbl, rlkRing 0, rlkUmap 0]

end Sys2Proof.Machine
end

