-- ==== Sys2Proof/Certificates/Slice0/Obligations.lean ====
section
/-! DEFINITION. The statements: what each family of commands does to the state, rule by rule of the specification. -/

open Sys2Proof Sys2Proof.Machine

/-- A step takes the command at the front of the queue, runs it on the state with the queue's rest and answers its outcome.
Where it rests on the model's choices and not on the specification alone, see log entry 2. -/
def Obligations.StepRunsFront : Prop :=
  ∀ (s : State) (c : Instr) (rest : List Instr), s.pending = c :: rest → step s = exec c { s with pending := rest }

/-- R13, R34, R110, R111, R112, R122, R126, R151, R308, R348, R470, R472: right after power-on reset every switched domain is off, no core runs,
every switch pair is safe, block time is 0, nothing is waiting, and registers hold their reset values.
Where it rests on the model's choices and not on the specification alone, see log entries 8, 9, 10, 11. -/
def Obligations.ResetValues : Prop :=
  let s := State.reset
  s.pending = [] ∧ s.port = 0 ∧ s.running = false ∧ s.halted = false ∧
  (∀ d < 56, pdState s d = 0) ∧ (∀ k < 10, coreLive s k = false) ∧ (∀ p < 256, rnSafe s p = true) ∧
  rf s cvpCtrl cvpCtrlLEAD = 2 ∧ rf s cvpCtrl cvpCtrlSTALE = 0x400 ∧ rf s cvpSwnwin cvpSwnwinWIN = 0x1E0 ∧
  (∀ n < 8, rf s (cvpSafests n) cvpSafestsSAFE = 0xFFFFFFFF) ∧
  (∀ n < 8, ∀ j < 16, rf s (aeHocfg n j) aeHocfgHON = 0x10 ∧ rf s (aeAdtcfg n j) aeAdtcfgMARGIN = 2) ∧
  (∀ g < 4, rf s (aePhsctl g) aePhsctlDWELL = 0x10) ∧ (∀ c < 8, rf s (sspClead c) sspCleadGUARD = 0xC8) ∧
  rf s pctlJtinc pctlJtincINC = 0x0355555555 ∧ (∀ m < 256, rf s (dmCfg m) dmCfgREACT = 1 ∧ rf s (dmCfg m) dmCfgOWNER = 8 ∧
    rf s (dmBud m) dmBudBUDGET = 0x10) ∧
  (∀ n < 256, rf s (semChcfg n) semChcfgOWNER = 0xF) ∧ (∀ n < 512, rf s (intcSrc n) intcSrcSVCCORE = 0xF) ∧
  rf s memCtrl memCtrlUETHR = 1 ∧ rf s memCtrl memCtrlCETHR = 0x10 ∧ rb s memCtrl memCtrlSCRUBEN = true ∧
  rf s pneCtrl pneCtrlRESTTO = 0x1F4 ∧ rb s jneSts jneStsPSAFE = true ∧ rf s jneDry jneDryDRYAGE = 0x3E8 ∧
  rf s wacCtrl wacCtrlUPER = 0x3E8 ∧ rf s rlkCtrl rlkCtrlPER = 0x1770 ∧ rf s mlkCtrl mlkCtrlMIVL = 0xBB8 ∧
  rf s cptSts cptStsFREEG = 61 ∧ (∀ r < 13, rf s (cptRq r) cptRqLIMIT = 8) ∧
  rf s pctlVersion pctlVersionMAJOR = 3 ∧ rf s pctlVersion pctlVersionMINOR = 1 ∧ rf s pctlCtrl pctlCtrlPDTO = 0x1F4 ∧
  ∀ k ∈ [8, 9], (coreOf s k).sr srCtrl = 0x420 ∧ (coreOf s k).sr srSts = 0xC ∧ (coreOf s k).sr srWayen = 0x0F0FFFFF

/-- Whatever a command or a cycle does, memory and the token tags keep their canonical form: addresses rise strictly and no entry holds
what an unlisted address reads as. The form is the model's, not the specification's.
Where it rests on the model's choices and not on the specification alone, see log entry 11. -/
def Obligations.MemoryKeepsItsForm : Prop :=
  ∀ s t : State, Memory.wf s = true → step s = .next t → Memory.wf t = true

/-- R194: the stack group, TOS first. R198: literals and immediates.
Where it rests on the model's choices and not on the specification alone, see log entries 42, 43. -/
def Obligations.StackAndLiterals : Prop :=
  (∀ (s : State) (k : Fin 10) (a b c : Word) (ws : List Word),
     (Issues s k 1 ws → StackResult (.nop k) s k 1 ws) ∧
     (Issues s k 1 (a :: ws) → ws.length < 31 → StackResult (.dup k) s k 1 (a :: a :: ws)) ∧
     (Issues s k 1 (a :: ws) → StackResult (.drop k) s k 1 ws) ∧
     (Issues s k 1 (b :: a :: ws) → StackResult (.swap k) s k 1 (a :: b :: ws)) ∧
     (Issues s k 1 (b :: a :: ws) → ws.length < 30 → StackResult (.over k) s k 1 (a :: b :: a :: ws)) ∧
     (Issues s k 1 (c :: b :: a :: ws) → StackResult (.rot k) s k 1 (a :: c :: b :: ws)) ∧
     (Issues s k 1 (b :: a :: ws) → StackResult (.nip k) s k 1 (b :: ws)) ∧
     (Issues s k 1 (b :: a :: ws) → ws.length < 30 → StackResult (.tuck k) s k 1 (b :: a :: b :: ws))) ∧
  (∀ (s : State) (k : Fin 10) (a : Word) (ws : List Word) (v : BitVec 9) (w : BitVec 16) (ps : Fin 8) (sn : Bool),
     (Issues s k 1 ws → ws.length < 32 → StackResult (.lit k v) s k 1 (BitVec.ofInt 48 v.toInt :: ws)) ∧
     (Issues s k 1 (a :: ws) → StackResult (.addi k v) s k 1 (BitVec.ofInt 48 (a.toInt + v.toInt) :: ws)) ∧
     (IssuesLong s k ps sn ws → ws.length < 32 → StackResult (.lit16 k ps sn w) s k 2 (BitVec.ofInt 48 w.toInt :: ws)) ∧
     (IssuesLong s k ps sn (a :: ws) →
       StackResult (.litx16 k ps sn w) s k 2 (BitVec.ofNat 48 (a.toNat * 2 ^ 16 + w.toNat) :: ws) ∧
       StackResult (.addi16 k ps sn w) s k 2 (BitVec.ofInt 48 (a.toInt + w.toInt) :: ws) ∧
       StackResult (.andi16 k ps sn w) s k 2 ((a &&& BitVec.ofNat 48 w.toNat) :: ws) ∧
       StackResult (.ori16 k ps sn w) s k 2 ((a ||| BitVec.ofNat 48 w.toNat) :: ws) ∧
       StackResult (.xori16 k ps sn w) s k 2 ((a ^^^ BitVec.ofNat 48 w.toNat) :: ws)))

/-- R195: the arithmetic and logic group on a (NOS) and b (TOS). R196: shifts by an immediate from 0 to 47, and by the unsigned count in
TOS. R200: bit fields, bit by bit.
Where it rests on the model's choices and not on the specification alone, see log entries 42, 43. -/
def Obligations.ArithmeticAndBits : Prop :=
  (∀ (s : State) (k : Fin 10) (a b : Word) (ws : List Word),
     (Issues s k 1 (b :: a :: ws) →
       StackResult (.add k) s k 1 (BitVec.ofInt 48 (a.toInt + b.toInt) :: ws) ∧
       StackResult (.sub k) s k 1 (BitVec.ofInt 48 (a.toInt - b.toInt) :: ws) ∧
       StackResult (.and k) s k 1 ((a &&& b) :: ws) ∧
       StackResult (.or k) s k 1 ((a ||| b) :: ws) ∧
       StackResult (.xor k) s k 1 ((a ^^^ b) :: ws) ∧
       StackResult (.andn k) s k 1 ((a &&& ~~~b) :: ws) ∧
       StackResult (.min k) s k 1 (BitVec.ofInt 48 (min a.toInt b.toInt) :: ws) ∧
       StackResult (.max k) s k 1 (BitVec.ofInt 48 (max a.toInt b.toInt) :: ws) ∧
       StackResult (.minu k) s k 1 (BitVec.ofNat 48 (min a.toNat b.toNat) :: ws) ∧
       StackResult (.maxu k) s k 1 (BitVec.ofNat 48 (max a.toNat b.toNat) :: ws) ∧
       StackResult (.addsat k) s k 1 (BitVec.ofInt 48 (max (-2 ^ 47) (min (2 ^ 47 - 1) (a.toInt + b.toInt))) :: ws) ∧
       StackResult (.subsat k) s k 1 (BitVec.ofInt 48 (max (-2 ^ 47) (min (2 ^ 47 - 1) (a.toInt - b.toInt))) :: ws)) ∧
     (Issues s k 1 (a :: ws) →
       StackResult (.neg k) s k 1 (BitVec.ofInt 48 (-a.toInt) :: ws) ∧
       StackResult (.abs k) s k 1 (BitVec.ofInt 48 a.toInt.natAbs :: ws) ∧
       StackResult (.not k) s k 1 (~~~a :: ws))) ∧
  (∀ (s : State) (k : Fin 10) (a b : Word) (n : Fin 64) (ws : List Word),
     (Issues s k 1 (a :: ws) → n.val < 48 →
       StackResult (.shl k n) s k 1 (a <<< n.val :: ws) ∧
       StackResult (.shr k n) s k 1 (a >>> n.val :: ws) ∧
       StackResult (.sar k n) s k 1 (BitVec.ofInt 48 (a.toInt / 2 ^ n.val) :: ws) ∧
       StackResult (.rol k n) s k 1 (a.rotateLeft n.val :: ws)) ∧
     (Issues s k 1 (b :: a :: ws) →
       StackResult (.shlv k) s k 1 ((if b.toNat < 48 then a <<< b.toNat else 0) :: ws) ∧
       StackResult (.shrv k) s k 1 ((if b.toNat < 48 then a >>> b.toNat else 0) :: ws) ∧
       StackResult (.sarv k) s k 1 (BitVec.ofInt 48 (a.toInt / 2 ^ min b.toNat 48) :: ws) ∧
       StackResult (.rolv k) s k 1 (a.rotateLeft (b.toNat % 48) :: ws))) ∧
  (∀ (s : State) (k : Fin 10) (a v : Word) (ws : List Word) (ps : Fin 8) (sn : Bool) (pos len1 : Fin 64),
     pos.val + len1.val < 48 →
     (IssuesLong s k ps sn (a :: ws) →
       (∃ r : Word, StackResult (.extu k ps sn pos len1) s k 2 (r :: ws) ∧
         ∀ i < 48, r.getLsbD i = (i ≤ len1.val && a.getLsbD (pos.val + i))) ∧
       (∃ r : Word, StackResult (.exts k ps sn pos len1) s k 2 (r :: ws) ∧
         ∀ i < 48, r.getLsbD i = a.getLsbD (pos.val + min i len1.val))) ∧
     (IssuesLong s k ps sn (v :: a :: ws) →
       ∃ r : Word, StackResult (.ins k ps sn pos len1) s k 2 (r :: ws) ∧
         ∀ i < 48, r.getLsbD i = if pos.val ≤ i ∧ i ≤ pos.val + len1.val then v.getLsbD (i - pos.val) else a.getLsbD i))

/-- R188: a long form whose guard fails does nothing but move the PC on; the cost of a transfer that is not taken may use a free value
(R229). R189: a GRD covers the next count + 1 instructions with its
predicate and sense, and costs nothing.
Where it rests on the model's choices and not on the specification alone, see log entries 42, 43. -/
def Obligations.Guards : Prop :=
  (∀ (s : State) (k : Fin 10) (ws : List Word) (ps d : Fin 8) (sn endLong : Bool) (w : BitVec 16) (t q r : Fin 16) (cc : Fin 16)
     (pos len1 : Fin 64) (n : BitVec 9) (steps : Nat) (l : Fin 4),
     Issues s k 2 ws → badGuard ps sn = false → guardPass (bankOf (fetched s k 2) k) ps.val sn = false →
     cc.val < 9 → pos.val + len1.val < 48 → 2 ≤ w.toNat →
     ∀ c ∈ [Instr.lit16 k ps sn w, .litx16 k ps sn w, .addi16 k ps sn w, .andi16 k ps sn w, .ori16 k ps sn w, .xori16 k ps sn w,
         .extu k ps sn pos len1, .exts k ps sn pos len1, .ins k ps sn pos len1, .rndaccs k ps sn pos d, .cmpi k ps sn cc d w,
         .ldwd k ps sn t w, .stwd k ps sn t w, .ldwxd k ps sn t w, .stwxd k ps sn t w, .loop k ps sn w endLong, .rdsr k ps sn t n, .wrsr k ps sn t n, .bmove k ps sn t q steps,
         .savel k ps sn t steps, .saveu k ps sn t steps, .restl k ps sn t steps, .restu k ps sn t steps, .tseal k ps sn t q r,
         .tunseal k ps sn t q r, .tsete k ps sn cc q r, .tsetct k ps sn l q r],
       StackResult c s k 2 ws) ∧
  (∀ (s : State) (k : Fin 10) (ws : List Word) (ps : Fin 8) (sn : Bool) (w : BitVec 16),
     Issues s k 2 ws → badGuard ps sn = false → guardPass (bankOf (fetched s k 2) k) ps.val sn = false →
     ∀ c ∈ [Instr.brl k ps sn w, .calll k ps sn w, .callfl k ps sn w],
       Runs c s (fun t => operands t k = ws ∧
         CoreIs [.free] (fetched s k 2) t k (pcAdd (coreOf (fetched s k 2) k).pc 2) (coreOf (fetched s k 2) k))) ∧
  (∀ (s : State) (k : Fin 10) (cnt : Fin 4) (sn : Bool) (ps : Fin 8),
     issuable s k 1 = true →
     Runs (.grd k cnt sn ps) s (fun t =>
       Steps (fetched s k 1) t k 1 { coreOf (fetched s k 1) k with gps := ps.val, gsn := sn, grem := cnt.val + 1, gpc := some (coreOf (fetched s k 1) k).pc } ∧
       (coreOf t k).cyc = (coreOf (fetched s k 1) k).cyc))

/-- R199, R167: locals of the frame in use, and copies of deeper entries. Local j of frame f is word 12 f + j of the ring. R215, R166: the
return stack as data; its faults are those of a call and a return.
Where it rests on the model's choices and not on the specification alone, see log entries 42, 43, 45. -/
def Obligations.LocalsAndReturnStack : Prop :=
  (∀ (s : State) (k : Fin 10) (a : Word) (ws : List Word) (n : Fin 16) (m : Fin 32),
     let b := bankOf (fetched s k 1) k
     (Issues s k 1 ws → ws.length < 32 → StackResult (.ldl k n) s k 1 (tget 0 b.ring (12 * b.fd + n.val) :: ws)) ∧
     (Issues s k 1 (a :: ws) →
       CoreResult (.putl k n) s k 1 (fun c => c.withCur (fun b => { b with ring := tset 0 b.ring (12 * b.fd + n.val) a, osp := b.osp - 1 })) ∧
       CoreResult (.teel k n) s k 1 (fun c => c.withCur (fun b => { b with ring := tset 0 b.ring (12 * b.fd + n.val) a }))) ∧
     (Issues s k 1 ws → ws.length < 32 → m.val < 31 → ∀ w, ws[m.val]? = some w → StackResult (.pick k m) s k 1 (w :: ws))) ∧
  (∀ (s : State) (k : Fin 10) (a : Word) (ws : List Word),
     let b := bankOf (fetched s k 1) k
     (Issues s k 1 (a :: ws) → b.rsp < 32 →
       CoreResult (.tor k) s k 1 (fun c => c.withCur (fun b => { b with osp := b.osp - 1, rst := tset 0 b.rst b.rsp a, rsp := b.rsp + 1 }))) ∧
     (Issues s k 1 ws → ws.length < 32 → 0 < b.rsp →
       CoreResult (.fromr k) s k 1 (fun c => c.withCur (fun b =>
         { b with ost := tset 0 b.ost b.osp (tget 0 b.rst (b.rsp - 1)), osp := b.osp + 1, rsp := b.rsp - 1 })) ∧
       StackResult (.rfetch k) s k 1 (tget 0 b.rst (b.rsp - 1) :: ws)))

/-- R201 to R203: compares, predicate logic and reads of predicates. P0 reads 1 and is never written (R171).
Where it rests on the model's choices and not on the specification alone, see log entries 42, 43. -/
def Obligations.PredicateInstructions : Prop :=
  ∀ (s : State) (k : Fin 10) (x y : Word) (ws : List Word) (cc : Fin 16) (d p q : Fin 8) (ps : Fin 8) (sn : Bool) (v : BitVec 16),
    let holds (a b : Word) : Bool := [a == b, a != b, a.toInt < b.toInt, b.toInt ≤ a.toInt, a.toInt ≤ b.toInt, b.toInt < a.toInt,
      a.toNat < b.toNat, b.toNat ≤ a.toNat, a.toNat ≤ b.toNat, b.toNat < a.toNat, a &&& b == 0, a &&& b != 0].getD cc.val false
    let writes (c : Instr) (n : Nat) (ws : List Word) (v : Bool) : Prop := Runs c s (fun t => operands t k = ws ∧
      (∀ i < 8, (bankOf t k).pred i = if i = 0 then true else if i = d.val then v else (bankOf (fetched s k n) k).pred i) ∧
      ∃ m o, Steps (fetched s k n) t k n ((coreOf (fetched s k n) k).withCur (fun b => { b with preds := m, osp := o })))
    let P (n i : Nat) : Bool := (bankOf (fetched s k n) k).pred i
    (Issues s k 1 (y :: x :: ws) → cc.val < 12 → writes (.cmp k cc d) 1 ws (holds x y)) ∧
    (IssuesLong s k ps sn (x :: ws) → cc.val < 12 → writes (.cmpi k ps sn cc d v) 2 ws (holds x (BitVec.ofInt 48 v.toInt))) ∧
    (Issues s k 1 (x :: ws) → writes (.tstp k d) 1 ws (x != 0)) ∧
    (Issues s k 1 ws → writes (.pand k d p q) 1 ws (P 1 p && P 1 q) ∧ writes (.por k d p q) 1 ws (P 1 p || P 1 q) ∧
      writes (.pxor k d p q) 1 ws (P 1 p != P 1 q) ∧ writes (.pnot k d p) 1 ws (!P 1 p)) ∧
    (Issues s k 1 ws → ws.length < 32 → StackResult (.rdp k p) s k 1 ((if P 1 p then 1 else 0) :: ws))

/-- R175, R204, R205: a multiply that issues in cycle `now` is seen in PH:PL from `now` + 3, an accumulation, CLRACC or WRACC in ACC from
`now` + 4, and not before; sums are modulo 2^112. R204, R206: reads of PH, PL and ACC; RNDACC rounds ACC / 2^n to nearest even and
saturates it to a word.
Where it rests on the model's choices and not on the specification alone, see log entries 42, 43. -/
def Obligations.MultiplyAccumulate : Prop :=
  (∀ (s : State) (k : Fin 10) (a b : Word) (ws : List Word) (n : Fin 64),
     let c0 := coreOf (fetched s k 1) k
     let lands (c : Instr) (pops d : Nat) (f : Bank → Bank) : Prop := ∃ now op,
       (now = c0.cyc ∨ ∃ p, c0.prev = some p ∧ now = p.cyc) ∧
       CoreResult c s k 1 (fun c => { c.withCur (fun b => b.drop pops) with lands := [⟨c.lvl, now + d, op⟩] }) ∧
       (∀ b : Bank, b.land op = f b) ∧
       (∀ c1 : Core, c1.lands = [⟨c0.lvl, now + d, op⟩] → ∀ m, (c1.landUpTo m).bank c0.lvl =
         if now + d ≤ m then f (c1.bank c0.lvl) else c1.bank c0.lvl)
     let sum (b : Bank) (x : Int) : Bank := { b with
       acc := BitVec.ofInt 112 (b.acc.toInt + x), accOvf := b.accOvf || (b.acc.toInt + x < -2 ^ 111 || 2 ^ 111 ≤ b.acc.toInt + x) }
     (Issues s k 1 (b :: a :: ws) →
       lands (.mul k) 2 3 (fun x => { x with ph := BitVec.ofInt 48 (a.toInt * b.toInt / 2 ^ 48), pl := BitVec.ofInt 48 (a.toInt * b.toInt) }) ∧
       lands (.mulu k) 2 3 (fun x => { x with ph := BitVec.ofNat 48 (a.toNat * b.toNat / 2 ^ 48), pl := BitVec.ofNat 48 (a.toNat * b.toNat) }) ∧
       lands (.mac k) 2 4 (fun x => sum x (a.toInt * b.toInt)) ∧
       lands (.msu k) 2 4 (fun x => sum x (-(a.toInt * b.toInt)))) ∧
     (Issues s k 1 ws → lands (.clracc k) 0 4 (fun x => { x with acc := 0 })) ∧
     (Issues s k 1 (a :: ws) → lands (.wracc k n) 1 4 (fun x => { x with acc := BitVec.ofInt 112 (a.toInt * 2 ^ n.val) }))) ∧
  (∀ (s : State) (k : Fin 10) (ws : List Word) (n : Fin 64) (ps d : Fin 8) (sn : Bool),
     let b := bankOf (fetched s k 1) k
     ws.length < 32 →
     (Issues s k 1 ws →
       StackResult (.rdph k) s k 1 (b.ph :: ws) ∧ StackResult (.rdpl k) s k 1 (b.pl :: ws) ∧
       StackResult (.rdacc0 k) s k 1 (BitVec.ofNat 48 b.acc.toNat :: ws) ∧
       StackResult (.rdacc1 k) s k 1 (BitVec.ofNat 48 (b.acc.toNat / 2 ^ 48) :: ws) ∧
       StackResult (.rdacc2 k) s k 1 (BitVec.ofNat 48 (b.acc.toNat / 2 ^ 96) :: ws) ∧
       StackResult (.rndacc k n) s k 1 (BitVec.ofInt 48 (max (-2 ^ 47) (min (2 ^ 47 - 1) (rne b.acc.toInt n.val))) :: ws)) ∧
     (IssuesLong s k ps sn ws →
       let r := rne (bankOf (fetched s k 2) k).acc.toInt n.val
       Runs (.rndaccs k ps sn n d) s (fun t => operands t k = BitVec.ofInt 48 (max (-2 ^ 47) (min (2 ^ 47 - 1) r)) :: ws ∧
         (∀ i < 8, (bankOf t k).pred i = if i = 0 then true else if i = d.val then decide (r < -2 ^ 47 ∨ 2 ^ 47 ≤ r)
           else (bankOf (fetched s k 2) k).pred i) ∧
         ∃ m x o, Steps (fetched s k 2) t k 2 ((coreOf (fetched s k 2) k).withCur (fun b => { b with preds := m, ost := x, osp := o })))))

/-- R211: BCHK and BCHKR leave their operand where it lies in bounds; outside them they fault (R208). R219: division truncates toward zero;
a zero divisor gives quotient -1 and the dividend as remainder, and the most negative number divided by -1 gives itself and 0.
Where it rests on the model's choices and not on the specification alone, see log entries 42, 43. -/
def Obligations.BoundsAndDivide : Prop :=
  (∀ (s : State) (k : Fin 10) (v lo hi : Word) (ws : List Word) (t : Fin 16),
     (Issues s k 1 (v :: ws) → ((bankOf (fetched s k 1) k).tok t).tag = true → 0 ≤ v.toInt →
       v.toInt < ((bankOf (fetched s k 1) k).tok t).len → StackResult (.bchk k t) s k 1 (v :: ws)) ∧
     (Issues s k 1 (hi :: lo :: v :: ws) → lo.toInt ≤ v.toInt → v.toInt ≤ hi.toInt → StackResult (.bchkr k) s k 1 (v :: ws))) ∧
  (∀ (s : State) (k : Fin 10) (a b : Word) (ws : List Word), Issues s k 1 (b :: a :: ws) →
     StackResult (.div k) s k 1 ((if b = 0 then a else BitVec.ofInt 48 (a.toInt.tmod b.toInt)) ::
       (if b = 0 then -1 else BitVec.ofInt 48 (a.toInt.tdiv b.toInt)) :: ws) ∧
     StackResult (.divu k) s k 1 ((if b = 0 then a else BitVec.ofNat 48 (a.toNat % b.toNat)) ::
       (if b = 0 then -1 else BitVec.ofNat 48 (a.toNat / b.toNat)) :: ws))

/-- R208: the checks of a token-relative access of n words at offset o, in order, with the cause value of each fault. R207, R210: loads and
stores of a core's own data scratchpad complete at once.
Where it rests on the model's choices and not on the specification alone, see log entries 42, 43, 57. -/
def Obligations.TokensAndOwnMemory : Prop :=
  (∀ (T : Tok) (t n : Nat) (need : List Nat) (o : Int),
     (T.tag = false → tokenCheck T t need o n = .error (0x20, BitVec.ofNat 48 t)) ∧
     (T.tag = true → 0x40 ≤ T.otype → tokenCheck T t need o n = .error (0x21, BitVec.ofNat 48 t)) ∧
     (T.tag = true → T.otype < 0x40 → (∃ i ∈ need, T.may i = false ∨ T.otype ∈ [0x20, 0x21, 0x22]) →
       tokenCheck T t need o n = .error (0x22, BitVec.ofNat 48 t)) ∧
     (T.tag = true → T.otype < 0x40 → (∀ i ∈ need, T.may i = true ∧ T.otype ∉ [0x20, 0x21, 0x22]) →
       (o < 0 ∨ (T.len : Int) < o + n → tokenCheck T t need o n = .error (0x23, BitVec.ofInt 48 o)) ∧
       (0 ≤ o → o + n ≤ T.len → tokenCheck T t need o n = .ok ((T.base + o.toNat) % 2 ^ 48)))) ∧
  (∀ (s : State) (k : Fin 10) (ws : List Word) (i v : Word) (t : Fin 16) (d : Fin 32) (w : BitVec 16) (ps : Fin 8) (sn : Bool) (a : Nat),
     let u := fetched s k 1
     let v' := fetched s k 2
     let can (u : State) (need : List Nat) (o : Int) : Prop :=
       tokenCheck ((bankOf u k).tok t.val) t.val need o 1 = .ok a ∧ spWord u k a = true
     (Issues s k 1 ws → ws.length < 32 → can u [0] d.val → LoadResult (.ldw k t d) s k 1 (memRd u a :: ws)) ∧
     (Issues s k 1 (i :: ws) → can u [0] (i.toInt + d.val) → LoadResult (.ldwx k t d) s k 1 (memRd u a :: ws)) ∧
     (IssuesLong s k ps sn ws → ws.length < 32 → can v' [0] w.toNat → LoadResult (.ldwd k ps sn t w) s k 2 (memRd v' a :: ws)) ∧
     (IssuesLong s k ps sn (i :: ws) → can v' [0] (i.toInt + w.toNat) → LoadResult (.ldwxd k ps sn t w) s k 2 (memRd v' a :: ws)) ∧
     (Issues s k 1 (v :: ws) → can u [1] d.val → StoreResult (.stw k t d) s k 1 ws a v) ∧
     (Issues s k 1 (i :: v :: ws) → can u [1] (i.toInt + d.val) → StoreResult (.stwx k t d) s k 1 ws a v) ∧
     (IssuesLong s k ps sn (v :: ws) → can v' [1] w.toNat → StoreResult (.stwd k ps sn t w) s k 2 ws a v) ∧
     (IssuesLong s k ps sn (i :: v :: ws) → can v' [1] (i.toInt + w.toNat) → StoreResult (.stwxd k ps sn t w) s k 2 ws a v))

/-- R209, R210: a loop core's load from another target waits with its request at the interconnect; its store is posted there and the
instruction completes. R180, R209, R210, R251: the word of a load, known by its number, completes the instruction that waits for it; an error raises its fault, and a
posted store's error an asynchronous one.
Where it rests on the model's choices and not on the specification alone, see log entries 4, 42, 58. -/
def Obligations.PostedAccesses : Prop :=
  (∀ (s : State) (k : Fin 10) (ws : List Word) (v : Word) (t : Fin 16) (d : Fin 32) (a : Nat),
     let u := fetched s k 1
     k.val < 8 → a < 2 ^ 40 → ownSp k a = false → wpHit u k a false = false → wpHit u k a true = false →
     (Issues s k 1 ws → ws.length < 32 → tokenCheck ((bankOf u k).tok t.val) t.val [0] d.val 1 = .ok a →
       Runs (.ldw k t d) s (fun x => coreOf x k = { coreOf u k with
           wait := .load (some 0) 1 (BitVec.ofNat 48 a) false (coreOf u k).rid (1 + latency a), rid := (coreOf u k).rid + 1,
           reqs := (coreOf u k).reqs ++ [⟨false, a, 0, false, 0, false, 0, true, false, (coreOf u k).rid, u.port, none⟩], cyc := (coreOf x k).cyc, prev := (coreOf x k).prev } ∧
         (∀ j, j ≠ k.val → coreOf x j = coreOf u j) ∧ SameBut [.cores] u x)) ∧
     (Issues s k 1 (v :: ws) → tokenCheck ((bankOf u k).tok t.val) t.val [1] d.val 1 = .ok a →
       CoreResult (.stw k t d) s k 1 (fun c => { c.withCur (fun b => { b with osp := b.osp - 1 }) with
         reqs := c.reqs ++ [⟨true, a, v, false, 0, false, ((bankOf u k).tok t.val).otype, true, false, 0, u.port, none⟩] }))) ∧
  (∀ (s : State) (k : Fin 10) (n : Nat) (a : Word) (ws : List Word) (x : Arrived) (rest : List Arrived) (acc : Bool) (cycles : BitVec 16)
     (b min : Nat) (code : Option Nat),
     s.running = true →
     (waitsIn s k (.load (some n) 1 a acc x.id min) = true → (coreOf s k).arrived = x :: rest → (coreOf s k).passed = [] → x.code = 0 →
       operands s k = ws → n ≤ ws.length →
       Runs (.loadResponse k cycles) s (fun t => operands t k = x.w0 :: ws.drop n ∧ ∃ o p,
         CoreIs [] s t k (pcAdd (coreOf s k).pc 1) { (coreOf s k).withCur (fun b => { b with ost := o, osp := p }) with
           wait := .none, arrived := rest })) ∧
     ((coreOf s k).posted.find? (fun p => p.2.isSome) = some (b, code) →
       Runs (.postedStoreResponse k) s (fun t => coreOf t k = { coreOf s k with posted := (coreOf s k).posted.erase (b, code) } ∧
         t.sig.asyncs = s.sig.asyncs ++ (if code.getD 0 = 0 then [] else
           [(k.val, if code.getD 0 = 2 then 0x3A else 0x38, BitVec.ofNat 48 b)]) ∧
         SameBut [.cores, .sig] s t)))

/-- R266, R267, R209: MEM_ACCESS takes the oldest access of a core to a memory of the block: a load's word comes back with its response
code, a store acts and its response waits for the core. R278: at a bank port that grants others first it waits. R270: an access that was
answered BUSY is retried, and the retry counted.
Where it rests on the model's choices and not on the specification alone, see log entries 4, 55, 56, 57, 58, 174, 190, 211. -/
def Obligations.MemoryAccess : Prop :=
  (∀ (s : State) (k : Fin 10) (a : Nat) (r : MemReq) (rest : List MemReq) (n : BitVec 16),
     s.running = true → (coreOf s k).reqs = r :: rest → r.addr = a → r.busy = false → r.pair = false →
     (∃ e b, targetOf a = .dataSp e ∨ targetOf a = .instSp e ∨ targetOf a = .shared e b ∧ inL2 s 8 a = false ∧ inL2 s 9 a = false ∧
       inPneRegion s a = false ∧ inRlkTable s a = false ∧ cptHidden s a (corePort k) = false) →
     clearingAt s a = false → arrayCode s a = 0 →
     (grantable s (corePort k) a false = false → Runs (.memAccess k .none .none n) s (fun t => coreOf t k = coreOf s k ∧
       (∃ w, t.msys = { s.msys with waiting := w } ∧ w.any (fun x => x.port == corePort k && x.addr == a) = true) ∧ SameBut [.msys] s t)) ∧
     (grantable s (corePort k) a false = true → upsetAt s (upsetKey a) = .none → upsetAt s (tagUpsetKey a) = .none →
     (r.write = false →
       Runs (.memAccess k .none .none n) s (fun t => (coreOf t k).reqs = rest ∧
         (coreOf t k).arrived = (coreOf s k).arrived ++ [⟨r.id, 0, memRd s a, 0, false⟩] ∧ (∀ b, memRd t b = memRd s b) ∧
         (∀ b, tagRd t b = tagRd s b) ∧ RegsBut [memArb (corePort k)] s t)) ∧
     (r.write = true →
       Runs (.memAccess k .none .none n) s (fun t => (coreOf t k).reqs = rest ∧
         (coreOf t k).posted = (coreOf s k).posted ++ [(a, some 0)] ∧ (∀ b, memRd t b = if b = a then r.data else memRd s b) ∧
         (∀ b, tagRd t b = if b = a / 2 * 2 then false else tagRd s b) ∧ RegsBut [memArb (corePort k)] s t)) ∧
     (r.write = false →
       Runs (.memAccess k .write .none n) s (fun t => (coreOf t k).reqs = { r with busy := true, stall := none } :: rest ∧
         (coreOf t k).arrived = (coreOf s k).arrived ∧ ∀ b, memRd t b = memRd s b)))) ∧
  (∀ (s : State) (k : Fin 10) (a : Nat) (r : MemReq) (rest : List MemReq),
     s.running = true → (coreOf s k).reqs = r :: rest → r.addr = a → r.busy = true → r.pair = false → r.write = false →
     (∃ e, targetOf a = .dataSp e ∨ targetOf a = .instSp e) → clearingAt s a = false → arrayCode s a = 0 →
     upsetAt s (upsetKey a) = .none → upsetAt s (tagUpsetKey a) = .none →
     Runs (.memRetry k .none .none) s (fun t => (coreOf t k).reqs = rest ∧
       (coreOf t k).arrived = (coreOf s k).arrived ++ [⟨r.id, 0, memRd s a, 0, false⟩] ∧
       rf t (memArb (corePort k)) memArbBUSYCNT = min (rf s (memArb (corePort k)) memArbBUSYCNT + 1) (memArbBUSYCNT.span - 1) ∧
       RegsBut [memArb (corePort k)] s t))

/-- R212: the parcel number of a PC of word w and slot s is 3w + s, and a relative target is that number plus the offset, modulo 3 * 2^40.
R214: relative branches and calls, returns and indirect transfers. R172, R173, R216: LOOP opens a hardware loop or skips its body, LEXIT
ends the innermost one, and completing the instruction at LEND goes round or ends the loop.
Where it rests on the model's choices and not on the specification alone, see log entries 42, 43, 47, 48. -/
def Obligations.ControlTransfers : Prop :=
  (∀ (w slot : Nat) (off : Int), w < 2 ^ 40 → slot < 3 →
     pcParcel (pcMk w slot) = 3 * w + slot ∧
     let n := ((3 * w + slot + off) % (3 * 2 ^ 40)).toNat
     pcWord (pcAdd (pcMk w slot) off) = n / 3 ∧ pcSlot (pcAdd (pcMk w slot) off) = n % 3) ∧
  (∀ (s : State) (k : Fin 10) (ws : List Word) (a : Word) (off : BitVec 9) (woff : BitVec 16) (ps : Fin 8) (sn : Bool),
     let call (ret : Word) (frame : Nat) (c : Core) : Core :=
       c.withCur (fun b => { b with rst := tset 0 b.rst b.rsp ret, rsp := b.rsp + 1, fd := b.fd + frame })
     let back (frame : Nat) (c : Core) : Core := c.withCur (fun b => { b with rsp := b.rsp - 1, fd := b.fd - frame })
     let pops (c : Core) : Core := c.withCur (fun b => { b with osp := b.osp - 1 })
     let c1 := coreOf (fetched s k 1) k
     let c2 := coreOf (fetched s k 2) k
     let toPc (w : Word) : Word := BitVec.ofNat 48 (w.toNat % 2 ^ 42)
     (Issues s k 1 ws → JumpResult (.br k off) s k 1 (pcAdd c1.pc off.toInt) id ∧
       (c1.cur.rsp < 32 → JumpResult (.call k off) s k 1 (pcAdd c1.pc off.toInt) (call (pcAdd c1.pc 1) 0)) ∧
       (c1.cur.rsp < 32 → c1.cur.fd < 15 → JumpResult (.callf k off) s k 1 (pcAdd c1.pc off.toInt) (call (pcAdd c1.pc 1) 1)) ∧
       (0 < c1.cur.rsp → pcSlot (toPc c1.cur.rtop) ≠ 3 → JumpResult (.ret k) s k 1 (toPc c1.cur.rtop) (back 0)) ∧
       (0 < c1.cur.rsp → 0 < c1.cur.fd → pcSlot (toPc c1.cur.rtop) ≠ 3 → JumpResult (.retf k) s k 1 (toPc c1.cur.rtop) (back 1))) ∧
     (IssuesLong s k ps sn ws → JumpResult (.brl k ps sn woff) s k 2 (pcAdd c2.pc woff.toInt) id ∧
       (c2.cur.rsp < 32 → JumpResult (.calll k ps sn woff) s k 2 (pcAdd c2.pc woff.toInt) (call (pcAdd c2.pc 2) 0)) ∧
       (c2.cur.rsp < 32 → c2.cur.fd < 15 → JumpResult (.callfl k ps sn woff) s k 2 (pcAdd c2.pc woff.toInt) (call (pcAdd c2.pc 2) 1))) ∧
     (Issues s k 1 (a :: ws) → pcSlot (toPc a) ≠ 3 → JumpResult (.jmpi k) s k 1 (toPc a) pops ∧
       (c1.cur.rsp < 32 → JumpResult (.calli k) s k 1 (toPc a) (fun c => call (pcAdd c1.pc 1) 0 (pops c))) ∧
       (c1.cur.rsp < 32 → c1.cur.fd < 15 → JumpResult (.callfi k) s k 1 (toPc a) (fun c => call (pcAdd c1.pc 1) 1 (pops c))))) ∧
  (∀ (s : State) (k : Fin 10) (ws : List Word) (a : Word) (e : BitVec 16) (long : Bool) (ps : Fin 8) (sn : Bool),
     let c2 := coreOf (fetched s k 2) k
     let b1 := bankOf (fetched s k 1) k
     (IssuesLong s k ps sn (a :: ws) → 2 ≤ e.toNat → a ≠ 0 → c2.cur.ld < 3 →
       CoreResult (.loop k ps sn e long) s k 2 (fun c => c.withCur (fun b => { b with
         osp := b.osp - 1, lbeg := tset 0 b.lbeg b.ld (pcAdd c2.pc 2), lend := tset 0 b.lend b.ld (pcAdd c2.pc e.toNat),
         lcnt := tset 0 b.lcnt b.ld a, ld := b.ld + 1 }))) ∧
     (IssuesLong s k ps sn (0 :: ws) → 2 ≤ e.toNat →
       JumpResult (.loop k ps sn e long) s k 2 (pcAdd (pcAdd c2.pc e.toNat) (if long then 2 else 1))
         (fun c => c.withCur (fun b => { b with osp := b.osp - 1 }))) ∧
     (Issues s k 1 ws → (2 ≤ b1.ld → b1.le (b1.ld - 2) ≠ (coreOf (fetched s k 1) k).pc) →
       CoreResult (.lexit k) s k 1 (fun c => if c.cur.ld = 0 then c.withCur id else
         c.withCur (fun b => { b with lcnt := tset 0 b.lcnt (b.ld - 1) 0, ld := b.ld - 1 }))) ∧
     (∀ (c : Core) (len : Nat), c.cur.ld ≠ 0 → c.cur.le (c.cur.ld - 1) = c.pc →
       let i := c.cur.ld - 1
       (1 < (c.cur.lc i).toNat → (c.advance len).pc = c.cur.lb i ∧ (c.advance len).cur = { c.cur with lcnt := tset 0 c.cur.lcnt i (c.cur.lc i - 1) }) ∧
       ((c.cur.lc i).toNat ≤ 1 → (c.advance len).pc = pcAdd c.pc len ∧ (c.advance len).cur = { c.cur with lcnt := tset 0 c.cur.lcnt i 0, ld := i }) ∧
       (c.advance len).grem = 0))

/-- R247, R248, R252: a system call enters through an entry register and its return goes back; ERET resumes the level that the saved status
names. R249, R250, R258, R262: a presentation, or an asynchronous fault, that core k takes between two instructions enters its level, but not behind an instruction
that the next may pair with (R178); a synchronous fault at TL or IL enters FL, or CL where the master mask is set.
Where it rests on the model's choices and not on the specification alone, see log entries 4, 42, 54. -/
def Obligations.Levels : Prop :=
  (∀ (s : State) (k : Fin 10) (ws : List Word) (n : Fin 8), Issues s k 1 ws →
     let c := coreOf (fetched s k 1) k
     let e := c.ecp n.val
     let d := tget Tok.zero c.ed n.val
     let t := c.sr (srSst c.lvl)
     (e.tag = true → c.scin.testBit c.lvl = false →
       JumpResult (.scall k n) s k 1 (pcMk e.base 0) (fun c => { c with
         srpc := tset 0 c.srpc c.lvl (pcAdd c.pc 1), srct := tset Tok.zero c.srct c.lvl (c.code c.lvl),
         srt15 := tset Tok.zero c.srt15 c.lvl (c.cur.tok 15), scin := c.scin + 2 ^ c.lvl,
         ct := tset Tok.zero c.ct c.lvl (e.retype 0),
         banks := (c.withCur (fun b => { b with toks := tset Tok.zero b.toks 15 (if d.tag then d.retype 0 else Tok.zero) })).banks })) ∧
     (c.scin.testBit c.lvl = true →
       JumpResult (.sret k) s k 1 (tget 0 c.srpc c.lvl) (fun c => { c with
         scin := c.scin - 2 ^ c.lvl, ct := tset Tok.zero c.ct c.lvl (tget Tok.zero c.srct c.lvl),
         banks := (c.withCur (fun b => { b with toks := tset Tok.zero b.toks 15 (tget Tok.zero c.srt15 c.lvl) })).banks })) ∧
     (c.lvl ≠ 0 → (Fld.mk 33 32).get t ≤ c.lvl → ((Fld.mk 33 32).get t = c.lvl → c.lvl = 1) →
       pcSlot (BitVec.ofNat 48 ((c.sr (srSpc c.lvl)).toNat % 2 ^ 42)) ≠ 3 →
       JumpResult (.eret k) s k 1 (BitVec.ofNat 48 ((c.sr (srSpc c.lvl)).toNat % 2 ^ 42)) (fun c => { c with
         lvl := (Fld.mk 33 32).get t, sreg := tset 0 c.sreg 0x23 (BitVec.ofNat 48 (b2n (bitOf t 31) + 2 * b2n (bitOf t 30))),
         step := (Fld.mk 47 40).get t, gps := (Fld.mk 39 37).get t, gsn := bitOf t 36, grem := (Fld.mk 35 34).get t }))) ∧
  (∀ (s : State) (k : Fin 10) (c : Core), coreReady s k = true → c = coreOf s k →
     let p := presentationOf s k
     (s.intc.offered.contains k.val = true → c.openPair = false → c.lvl ≤ p.1 → c.lvl < 3 → handlerOk s k p.1 = true →
       Runs (.interruptEntry k) s (fun t => Entered s t k p.1 p.2.1 false false (BitVec.ofNat 48 p.2.2) ∧
         t.intc.offered = s.intc.offered.filter (· != k.val) ∧ (k.val < 8 → RegsBut [dbgTrptr] s t))) ∧
     (s.intc.offered.contains k.val = true → c.openPair = true →
       Runs (.interruptEntry k) s (fun t => coreOf t k = { c with entry := true } ∧ (∀ j, j ≠ k.val → coreOf t j = coreOf s j) ∧
         SameBut [.cores] s t)) ∧
     (∀ (code : Nat) (v : Word) (s' : State), s' = setCore s k { c with asyncs := [(code, v)] } → c.lvl < 3 →
       let esc := c.lvl = 2 ∨ c.mmask
       (c.openPair = true → Runs (.asyncFault k) s' (fun t => t = s')) ∧
       (c.openPair = false → handlerOk s k (if esc then 3 else 2) = true →
         Runs (.asyncFault k) s' (fun t => Entered s t k (if esc then 3 else 2) code true esc v ∧ (coreOf t k).asyncs = []))) ∧
     (∀ (p0 p1 : BitVec 16), decodes p0.toNat p1.toNat = false → issuable s k (if isLong p0.toNat then 2 else 1) = true → c.lvl < 3 →
       let u := fetched s k (if isLong p0.toNat then 2 else 1)
       let esc := c.lvl = 2 ∨ c.mmask
       handlerOk u k (if esc then 3 else 2) = true →
       Runs (.illegalOpcode k p0 p1) s (fun t => Entered u t k (if esc then 3 else 2) 0x10 false esc
         (BitVec.ofNat 48 (if isLong p0.toNat then p0.toNat + 2 ^ 16 * p1.toNat else p0.toNat)))))

/-- R220, R221: events and FENCE: they complete at once where nothing holds them, and otherwise wait and complete later.
Where it rests on the model's choices and not on the specification alone, see log entries 4, 42, 43. -/
def Obligations.WaitsAndFences : Prop :=
  ∀ (s : State) (k : Fin 10) (ws : List Word) (m : Fin 16) (cycles : BitVec 16),
    let u := fetched s k 1
    let takes (m : Nat) (c : Core) : Core :=
      { c.withCur (fun b => { b with ost := tset 0 b.ost b.osp (BitVec.ofNat 48 (c.ef &&& m)), osp := b.osp + 1 }) with ef := c.ef - (c.ef &&& m) }
    (Issues s k 1 ws → ws.length < 32 →
      CoreResult (.evpoll k m) s k 1 (takes m.val) ∧
      ((coreOf u k).ef &&& m.val ≠ 0 → CoreResult (.wait k m) s k 1 (takes m.val)) ∧
      ((coreOf u k).ef &&& m.val = 0 → Runs (.wait k m) s (fun t => CoreIs [] u t k (coreOf u k).pc { coreOf u k with wait := .event m.val 1 false }))) ∧
    (∀ skipped, waitsIn s k (.event m.val 1 skipped) = true → (coreOf s k).ef &&& m.val ≠ 0 →
      Runs (.waitEnd k cycles) s (fun t =>
        CoreIs [] s t k (pcAdd (coreOf s k).pc 1) { (if skipped then coreOf s k else takes m.val (coreOf s k)) with wait := .none })) ∧
    (Issues s k 1 ws → (svcOf u k).wcb = none →
      (fenceClear u k = true → CoreResult (.fence k) s k 1 id) ∧
      (fenceClear u k = false → Runs (.fence k) s (fun t => CoreIs [] u t k (coreOf u k).pc { coreOf u k with wait := .fence false }))) ∧
    (∀ skipped, waitsIn s k (.fence skipped) = true → (if skipped then postedDone s k else fenceClear s k) = true → (coreOf s k).asyncs = [] → s.sig.asyncs.any (fun x => x.1 == k.val) = false →
      Runs (.fenceComplete k cycles) s (fun t => CoreIs [] s t k (pcAdd (coreOf s k).pc 1) { coreOf s k with wait := .none }))

/-- R218, R236, R262: reads and writes of core system registers. A write of a guarded register needs the core-control token; without it
nothing is written and the core takes TOKEN_DENIED after the instruction. R170, R181, R237, R248, R254: the writes and reads of system
registers that commands name: items of another bank through BKDAT, deterministic mode, the root lock, abandoned calls and the masks.
Where it rests on the model's choices and not on the specification alone, see log entries 42, 46, 53. -/
def Obligations.SystemRegisters : Prop :=
  (∀ (s : State) (k : Fin 10) (ws : List Word) (v : Word) (ps : Fin 8) (sn : Bool) (t : Fin 16) (n : BitVec 9),
     let c := coreOf (fetched s k 2) k
     let key := ((bankOf (fetched s k 2) k).tok t.val).tag && ((bankOf (fetched s k 2) k).tok t.val).otype == 0x20
     (IssuesLong s k ps sn ws → ws.length < 32 →
       (n.toNat ∈ [0x03, 0x22, 0x23, 0x26, 0x27, 0x28, 0x29, 0x2A, 0x2B, 0x2C, 0x2D, 0x2E, 0x2F, 0x30, 0x31, 0x32, 0x33] →
         StackResult (.rdsr k ps sn t n) s k 2 (c.sr n.toNat :: ws)) ∧
       StackResult (.rdsr k ps sn t 1) s k 2 (BitVec.ofNat 48 (k.val + (if k.val < 8 then 0 else 16)) :: ws) ∧
       StackResult (.rdsr k ps sn t 0x20) s k 2 ((if c.lvl = 0 then 0 else c.sr (srScause c.lvl)) :: ws) ∧
       StackResult (.rdsr k ps sn t 0x21) s k 2 ((if c.lvl = 0 then 0 else c.sr (srScausev c.lvl)) :: ws)) ∧
     (IssuesLong s k ps sn (v :: ws) →
       CoreResult (.wrsr k ps sn t 3) s k 2 (fun c => { c.withCur (fun b => { b with osp := b.osp - 1 }) with
         sreg := tset 0 c.sreg 3 ((c.sr 3 &&& ~~~ 0x7FF) ||| (v &&& 0x7FF)) }) ∧
       (key = true → ∀ p ∈ [(0x22, 0xFF), (0x23, 0x3), (0x26, 0xFFFFFFFFFF), (0x27, 0x1FFFFFFFF), (0x28, 0x3FFFFFFFFFF), (0x29, 0xFFFFC0000000),
           (0x2A, 0xFFF), (0x2B, 0xFFFFFFFFFFFF), (0x2C, 0x3FFFFFFFFFF), (0x30, 0x3FFFFFFFFFF)], n.toNat = p.1 →
         CoreResult (.wrsr k ps sn t n) s k 2 (fun c => { c.withCur (fun b => { b with osp := b.osp - 1 }) with
           sreg := tset 0 c.sreg p.1 ((c.sr p.1 &&& ~~~ BitVec.ofNat 48 p.2) ||| (v &&& BitVec.ofNat 48 p.2)) })) ∧
       (key = false → n.toNat ∈ [0x02, 0x22, 0x23, 0x24, 0x26, 0x27, 0x28, 0x29, 0x2A, 0x2B] → c.lvl < 3 →
         let esc := c.lvl = 2 ∨ c.mmask
         let l := if esc then 3 else 2
         Runs (.wrsr k ps sn t n) s (fun x => (coreOf x k).sr n.toNat = c.sr n.toNat ∨ (coreOf x k).locked = true ∨
             n.toNat ∈ [0x28 + 4 * (l - 1), 0x29 + 4 * (l - 1), 0x2A + 4 * (l - 1), 0x2B + 4 * (l - 1)]) ∧
         (handlerOk (fetched s k 2) k l = true → Runs (.wrsr k ps sn t n) s (fun x =>
           (coreOf x k).lvl = l ∧ (coreOf x k).sr (0x28 + 4 * (l - 1)) = pcAdd c.pc 2 ∧
           (Fld.mk 7 0).get ((coreOf x k).sr (0x2A + 4 * (l - 1))) = 0x3A ∧ (coreOf x k).sr (0x2B + 4 * (l - 1)) = n.zeroExtend 48))))) ∧
  (∀ (s : State) (k : Fin 10) (ws : List Word) (v : Word) (ps : Fin 8) (sn : Bool) (t : Fin 16) (master : Bool),
     let c := coreOf (fetched s k 2) k
     let T := (bankOf (fetched s k 2) k).tok t.val
     let l := (Fld.mk 10 9).get (c.sr 3)
     let i := (Fld.mk 8 0).get (c.sr 3)
     let drop (c : Core) : Core := c.withCur (fun b => { b with osp := b.osp - 1 })
     (IssuesLong s k ps sn ws → ws.length < 32 → T.tag = true → T.otype = 0x21 → T.may 0 = true → l ≠ c.lvl → (c.bank l).resv = [] →
       StackResult (.bkdatRead k ps sn t) s k 2 ((c.bank l).item i :: ws)) ∧
     (IssuesLong s k ps sn (v :: ws) → T.tag = true →
       (T.otype = 0x21 → T.may 1 = true → l ≠ c.lvl →
         CoreResult (.bkdatWrite k ps sn t) s k 2 (fun c => (drop c).setBank l ((c.bank l).setItem i v))) ∧
       (T.otype = 0x20 →
         (k.val < 8 → CoreResult (.detmWrite k ps sn t) s k 2 (fun c =>
           { drop c with sreg := tset 0 c.sreg 2 (if v.getLsbD 0 then 1 else 0), detmAct := v.getLsbD 0 })) ∧
         ((bankOf s k).peek 0 = v → v.getLsbD 0 = true → CoreResult (.rootlockWrite k ps sn t) s k 2 (fun c =>
           { drop c with rootLock := true, scin := c.scin - (c.scin &&& (Fld.mk 7 4).get v) })) ∧
         ((bankOf s k).peek 0 = v → (Fld.mk 7 4).get v ≠ 0 → CoreResult (.scinAbandon k ps sn t) s k 2 (fun c =>
           { drop c with rootLock := c.rootLock || v.getLsbD 0, scin := c.scin - (c.scin &&& (Fld.mk 7 4).get v) })) ∧
         CoreResult (.maskWrite k ps sn t master) s k 2 (fun c => { drop c with
           sreg := if master then tset 0 c.sreg 0x23 ((c.sr 0x23 &&& ~~~ 3) ||| (v &&& 3))
             else tset 0 c.sreg 0x22 ((c.sr 0x22 &&& ~~~ 0xFF) ||| (v &&& 0xFF)) }))))

/-- R237, R239, R243 to R246: token registers. R241: sealing and unsealing with a key; a token that has been sealed and unsealed with the
same key is as it was.
Where it rests on the model's choices and not on the specification alone, see log entries 42, 43, 51. -/
def Obligations.TokenRegisters : Prop :=
  (∀ (s : State) (k : Fin 10) (ws : List Word) (off len m i : Word) (d q n key : Fin 16) (f : Fin 8) (l : Fin 4)
     (ps : Fin 8) (sn : Bool),
     let c1 := coreOf (fetched s k 1) k
     let T := c1.cur.tok q.val
     let c2 := coreOf (fetched s k 2) k
     let sets (d : Nat) (x : Tok) (pops : Nat) (c : Core) : Core :=
       c.withCur (fun b => { b with toks := tset Tok.zero b.toks d x, osp := b.osp - pops })
     (Issues s k 1 ws → CoreResult (.tmov k d q) s k 1 (sets d T 0) ∧ CoreResult (.tclr k d) s k 1 (sets d Tok.zero 0) ∧
       (n.val < 9 → CoreResult (.tgete k d n) s k 1 (sets d (c1.ecp n.val) 0)) ∧
       CoreResult (.tgetct k d) s k 1 (sets d (c1.code c1.lvl) 0) ∧
       (f.val < 5 → ws.length < 32 → StackResult (.tget k q f) s k 1 ([T.w0, BitVec.ofNat 48 T.len, BitVec.ofNat 48 T.perm,
         BitVec.ofNat 48 T.otype, if T.tag then 1 else 0].getD f.val 0 :: ws))) ∧
     (Issues s k 1 (m :: len :: off :: ws) → T.tag = true → T.otype < 0x40 → 0 ≤ off.toInt → len ≠ 0 → len.toNat ≤ 2 ^ 32 →
       off.toNat + len.toNat ≤ T.len → (T.otype = 0x22 → m.getLsbD 8 = true → off = 0 ∧ len.toNat = T.len) →
       CoreResult (.tnarrow k d q) s k 1 (sets d ⟨BitVec.ofNat 48 (T.base + off.toNat), BitVec.ofNat 48 ((if m.getLsbD 8 then T.otype else 0) * 2 ^ 40 +
         (T.perm &&& (m.toNat % 256)) * 2 ^ 32 + len.toNat % 2 ^ 32), true⟩ 3)) ∧
     (Issues s k 1 (i :: ws) → c1.rootLock = false →
       (i.toNat ≤ 255 → CoreResult (.troot k d 0) s k 1 (sets d ⟨BitVec.ofNat 48 (i.toNat * 2 ^ 32), 0x009F00000000, true⟩ 1)) ∧
       (i.toNat = 0x20 ∨ i.toNat = 0x21 → CoreResult (.troot k d 1) s k 1 (sets d ⟨0, BitVec.ofNat 48 (i.toNat * 2 ^ 40 + 0x8300000001), true⟩ 1)) ∧
       (0x40 ≤ i.toNat → i.toNat ≤ 0xFF → CoreResult (.troot k d 2) s k 1 (sets d ⟨i, 0x22E000000001, true⟩ 1))) ∧
     (IssuesLong s k ps sn ws → l.val < c2.lvl → (c2.cur.tok key.val).tag = true → (c2.cur.tok key.val).otype = 0x20 →
       (c2.cur.tok q.val).tag = true → (c2.cur.tok q.val).otype < 0x40 →
       CoreResult (.tsetct k ps sn l q key) s k 2 (fun c => { c with ct := tset Tok.zero c.ct l.val (c2.cur.tok q.val) })) ∧
     (IssuesLong s k ps sn ws → (c2.cur.tok key.val).tag = true → (c2.cur.tok key.val).otype = 0x20 →
       (c2.cur.tok q.val).tag = true → (c2.cur.tok q.val).otype = 0xFF →
       CoreResult (.tsete k ps sn 8 q key) s k 2 (fun c => { c with ec := tset Tok.zero c.ec 8 (c2.cur.tok q.val) }) ∧
       (n.val < 8 → q.val < 15 → ((c2.cur.tok (q.val + 1)).tag = false ∨ (c2.cur.tok (q.val + 1)).otype = 0xFF) →
         CoreResult (.tsete k ps sn n q key) s k 2 (fun c => { c with
           ec := tset Tok.zero c.ec n.val (c2.cur.tok q.val), ed := tset Tok.zero c.ed n.val (c2.cur.tok (q.val + 1)) })))) ∧
  (∀ (s : State) (k : Fin 10) (ws : List Word) (d q key : Fin 16) (ps : Fin 8) (sn : Bool), IssuesLong s k ps sn ws →
     let b := bankOf (fetched s k 2) k
     let T := b.tok q.val
     let K := b.tok key.val
     let sets (x : Tok) (c : Core) : Core := c.withCur (fun b => { b with toks := tset Tok.zero b.toks d.val x })
     T.tag = true → K.tag = true → K.otype = 0x22 →
     (K.may 5 = true → T.otype = 0 →
       CoreResult (.tseal k ps sn d q key) s k 2 (sets ⟨T.w0, BitVec.ofNat 48 (T.w1.toNat + K.base % 256 * 2 ^ 40), true⟩)) ∧
     (K.may 6 = true → T.otype = K.base % 256 →
       CoreResult (.tunseal k ps sn d q key) s k 2 (sets ⟨T.w0, BitVec.ofNat 48 (T.w1.toNat % 2 ^ 40), true⟩)) ∧
     (T.otype = 0 → (T.retype (K.base % 256)).retype 0 = T))

/-- R240: token loads and stores of a core's own data scratchpad: the tag comes along where LDTOK, or STTOK and the home range, let it.
R179: one that was accepted before a stop is not repeated; the load takes its words when it is issued again.
R222: BMOVE of no words drops its operands; a step of one word copies it and counts the operands.
Where it rests on the model's choices and not on the specification alone, see log entries 42, 49, 57, 191. -/
def Obligations.TokenMoves : Prop :=
  (∀ (s : State) (k : Fin 10) (ws : List Word) (o : Word) (d q t : Fin 16) (a : Nat),
     Issues s k 1 (o :: ws) →
     let u := fetched s k 1
     let T := (bankOf u k).tok t.val
     let V := (bankOf u k).tok q.val
     spWord u k a = true → spWord u k (a + 1) = true → a % 2 = 0 →
     (tokenCheck T t.val [0] o.toInt 2 = .ok a →
       Runs (.tld k d t) s (fun x => Acted u x k ∧ CoreIs actedParts u x k (pcAdd (coreOf u k).pc 1) ((coreOf u k).withCur (fun b => { b with
         osp := b.osp - 1, toks := tset Tok.zero b.toks d.val ⟨memRd u a, memRd u (a + 1), tagRd u a && T.may 3⟩ })))) ∧
     (tokenCheck T t.val [1, 4] o.toInt 2 = .ok a →
       Runs (.tst k t q) s (fun x => (∀ b, memRd x b = if b = a then V.w0 else if b = a + 1 then V.w1 else memRd u b) ∧
         (∀ b, tagRd x b = if b = a then V.tag && (V.may 7 || (coreOf u k).home a) else tagRd u b) ∧
         operands x k = ws ∧ (coreOf x k).pc = pcAdd (coreOf u k).pc 1 ∧ ∀ j, j ≠ k.val → coreOf x j = coreOf u j)) ∧
     (tokenCheck T t.val [0] o.toInt 2 = .ok a → ∀ (id : Nat) (y : Arrived),
       Runs (.tld k d t) (setCore s k { coreOf s k with kept := ⟨(coreOf s k).lvl, (coreOf s k).pc, BitVec.ofNat 48 a, id, some y⟩ :: (coreOf s k).kept })
         (fun x => (bankOf x k).tok d.val = ⟨y.w0, y.w1, y.tag && T.may 3⟩ ∧ operands x k = ws ∧ (coreOf x k).kept = (coreOf u k).kept ∧
           (∀ b, memRd x b = memRd u b) ∧ (coreOf x k).pc = pcAdd (coreOf u k).pc 1))) ∧
  (∀ (s : State) (k : Fin 10) (ws : List Word) (n to_ from_ : Word) (q d : Fin 16) (ps : Fin 8) (sn : Bool) (steps : Nat) (a b : Nat),
     let u := fetched s k 2
     let S := (bankOf u k).tok q.val
     let D := (bankOf u k).tok d.val
     (IssuesLong s k ps sn (0 :: to_ :: from_ :: ws) → StackResult (.bmove k ps sn q d steps) s k 2 ws) ∧
     (IssuesLong s k ps sn (n :: to_ :: from_ :: ws) → n ≠ 0 → bmoveCheck S D q.val d.val from_.toInt to_.toInt n.toNat = none →
       a = (S.base + from_.toNat) % 2 ^ 48 → b = (D.base + to_.toNat) % 2 ^ 48 → spWord u k a = true → spWord u k b = true →
       (n = 1 → StoreResult (.bmove k ps sn q d 0) s k 2 ws b (memRd u a)) ∧
       (n ≠ 1 → Runs (.bmove k ps sn q d 0) s (fun t => operands t k = (n - 1) :: (to_ + 1) :: (from_ + 1) :: ws ∧
         Stored u t k b (memRd u a) ∧ (coreOf t k).pc = (coreOf u k).pc ∧ (coreOf t k).wait = .none ∧ ∀ j, j ≠ k.val → coreOf t j = coreOf u j))))

/-- R223 to R226: a step of a save stores word STEP of the bank in use, in a core's own data scratchpad; the last one drops the link and
completes. R225, R226: a restore first reads its header; then each step reads word STEP back into the bank, or a token into the holding
buffer, from a core's own data scratchpad; the last one sets the pointers or the tokens and completes.
Where it rests on the model's choices and not on the specification alone, see log entries 42, 49, 50. -/
def Obligations.SaveAndRestore : Prop :=
  (∀ (s : State) (k : Fin 10) (ws : List Word) (x : Word) (t : Fin 16) (ps : Fin 8) (sn : Bool) (a j : Nat),
     let u := fetched s k 2
     let b := bankOf u k
     let T := b.tok t.val
     Resumes s k ps sn (x :: ws) → (coreOf u k).step = j → a = (T.base + j) % 2 ^ 48 → spWord u k a = true →
     let saves (c : Instr) (W : Nat) (v : Word) : Prop :=
       (j + 1 < W → Runs c s (fun y => Stored u y k a v ∧ (coreOf y k).step = j + 1 ∧ (coreOf y k).pc = (coreOf u k).pc ∧
         operands y k = x :: ws ∧ ∀ i, i ≠ k.val → coreOf y i = coreOf u i)) ∧
       (j + 1 = W → Runs c s (fun y => Stored u y k a v ∧ (coreOf y k).step = 0 ∧ (coreOf y k).pc = pcAdd (coreOf u k).pc 2 ∧
         operands y k = ws ∧ ∀ i, i ≠ k.val → coreOf y i = coreOf u i))
     (saveCheck T t.val false [1] = none →
       saves (.savel k ps sn t 0) 80 (
         if j = 0 then x
         else if j = 1 then BitVec.ofNat 48 (2 ^ 40 + 2 ^ 32 + (coreOf u k).lvl * 2 ^ 30 + ws.length * 2 ^ 24 + b.rsp * 2 ^ 18 + b.fd * 2 ^ 14 +
           b.ld * 2 ^ 12 + b2n b.accOvf * 2 ^ 11 + b.preds % 256)
         else if j < 5 then b.lb (j - 2) else if j < 8 then b.le (j - 5) else if j < 11 then b.lc (j - 8)
         else if j < 14 then BitVec.ofNat 48 (b.acc.toNat / 2 ^ (48 * (j - 11)))
         else if j = 14 then b.ph else if j = 15 then b.pl
         else if j < 48 then tget 0 b.ost (j - 16) else tget 0 b.rst (j - 48))) ∧
     (saveCheck T t.val true [1, 4] = none →
       (j < 198 → saves (.saveu k ps sn t 0) 230 (
         if j = 0 then x
         else if j = 1 then BitVec.ofNat 48 (2 * 2 ^ 40 + 2 ^ 32 + (coreOf u k).lvl * 2 ^ 30)
         else tget 0 b.ring (j - 2))) ∧
       (198 ≤ j → j < 230 → j % 2 = 0 → spWord u k (a + 1) = true →
         let v := b.tok ((j - 198) / 2)
         Runs (.saveu k ps sn t 0) s (fun y =>
           (∀ i, memRd y i = if i = a then v.w0 else if i = a + 1 then v.w1 else memRd u i) ∧
           (∀ i, tagRd y i = if i = a then v.tag && (v.may 7 || (coreOf u k).home a) else tagRd u i) ∧
           (coreOf y k).step = j + 1 ∧ (coreOf y k).pc = (coreOf u k).pc ∧ operands y k = x :: ws)) ∧
       (198 ≤ j → j < 230 → j % 2 = 1 → Runs (.saveu k ps sn t 0) s (fun y => (∀ i, memRd y i = memRd u i) ∧ (∀ i, tagRd y i = tagRd u i) ∧
         (coreOf y k).step = (if j = 229 then 0 else j + 1) ∧ operands y k = (if j = 229 then ws else x :: ws) ∧
         (coreOf y k).pc = if j = 229 then pcAdd (coreOf u k).pc 2 else (coreOf u k).pc)))) ∧
  (∀ (s : State) (k : Fin 10) (ws : List Word) (t : Fin 16) (ps : Fin 8) (sn : Bool) (a j : Nat) (h : Word),
     let u := fetched s k 2
     let c := coreOf u k
     let T := c.cur.tok t.val
     let w := memRd u a
     Resumes s k ps sn ws → c.step = j → spWord u k a = true →
     let same (y : State) : Prop := (∀ b, memRd y b = memRd u b) ∧ (∀ b, tagRd y b = tagRd u b) ∧ Acted u y k ∧
       ∀ i, i ≠ k.val → coreOf y i = coreOf u i
     (c.hdr = none → a = (T.base + 1) % 2 ^ 48 →
       (saveCheck T t.val false [0] = none → headerBad false w = false →
         Runs (.restl k ps sn t 0) s (fun y => CoreIs actedParts u y k c.pc { c with hdr := some w, step := max 2 j } ∧ same y)) ∧
       (saveCheck T t.val true [0, 3] = none → headerBad true w = false →
         Runs (.restu k ps sn t 0) s (fun y => CoreIs actedParts u y k c.pc { c with hdr := some w, step := max 2 j } ∧ same y))) ∧
     (c.hdr = some h → 2 ≤ j → a = (T.base + j) % 2 ^ 48 → saveCheck T t.val false [0] = none →
       let read (b : Bank) : Bank :=
         if j < 5 then { b with lbeg := tset 0 b.lbeg (j - 2) (pcOfWord w) }
         else if j < 8 then { b with lend := tset 0 b.lend (j - 5) (pcOfWord w) }
         else if j < 11 then { b with lcnt := tset 0 b.lcnt (j - 8) w }
         else if j < 14 then { b with acc := accPart b.acc (j - 11) w }
         else if j = 14 then { b with ph := w } else if j = 15 then { b with pl := w }
         else if j < 48 then { b with ost := tset 0 b.ost (j - 16) w } else { b with rst := tset 0 b.rst (j - 48) w }
       (j < 79 → Runs (.restl k ps sn t 0) s (fun y => same y ∧ (coreOf y k).step = j + 1 ∧ (coreOf y k).hdr = some h ∧
         (coreOf y k).pc = c.pc ∧ bankOf y k = read c.cur)) ∧
       let done : Bank := { read c.cur with
         osp := (Fld.mk 29 24).get h, rsp := (Fld.mk 23 18).get h, fd := (Fld.mk 17 14).get h, ld := (Fld.mk 13 12).get h,
         accOvf := bitOf h 11, preds := h.toNat % 256 / 2 * 2 }
       (j = 79 → (done.ld = 0 ∨ done.le (done.ld - 1) ≠ c.pc) → Runs (.restl k ps sn t 0) s (fun y =>
         same y ∧ (coreOf y k).step = 0 ∧ (coreOf y k).hdr = none ∧ (coreOf y k).pc = pcAdd c.pc 2 ∧ bankOf y k = done))) ∧
     (c.hdr = some h → 2 ≤ j → j < 198 → a = (T.base + j) % 2 ^ 48 → saveCheck T t.val true [0, 3] = none →
       Runs (.restu k ps sn t 0) s (fun y => same y ∧ (coreOf y k).step = j + 1 ∧ (coreOf y k).pc = c.pc ∧
         bankOf y k = { c.cur with ring := tset 0 c.cur.ring (j - 2) w })) ∧
     (c.hdr = some h → 198 ≤ j → j < 230 → j % 2 = 0 → a = (T.base + j) % 2 ^ 48 → spWord u k (a + 1) = true →
       saveCheck T t.val true [0, 3] = none →
       Runs (.restu k ps sn t 0) s (fun y => same y ∧ (coreOf y k).step = j + 1 ∧ (coreOf y k).pc = c.pc ∧ bankOf y k = c.cur ∧
         tget Tok.zero (coreOf y k).hold ((j - 198) / 2) = ⟨w, memRd u (a + 1), tagRd u a && T.may 3⟩)) ∧
     (c.hdr = some h → 198 ≤ j → j < 229 → j % 2 = 1 → saveCheck T t.val true [0, 3] = none →
       Runs (.restu k ps sn t 0) s (fun y => same y ∧ (coreOf y k).step = j + 1 ∧ (coreOf y k).pc = c.pc ∧ bankOf y k = c.cur ∧
         (coreOf y k).hold = c.hold)) ∧
     (c.hdr = some h → j = 229 → saveCheck T t.val true [0, 3] = none →
       Runs (.restu k ps sn t 0) s (fun y => same y ∧ (coreOf y k).step = 0 ∧ (coreOf y k).hdr = none ∧ (coreOf y k).hold = [] ∧
         (coreOf y k).pc = pcAdd c.pc 2 ∧
         ∀ i < 16, (∀ p ∈ c.hold, p.1 < 16) → c.hold.Pairwise (fun p q => p.1 ≠ q.1) → (bankOf y k).tok i = tget Tok.zero c.hold i)))

/-- R286 to R288: a supervisor's cached load takes its word from the line that holds it, and its store goes into that line, which becomes
dirty; memory is not written. R286, R288 to R290: a line fill from shared memory for a load gives the word to the load and the line to the
data cache; the write-combining buffer is emitted after its timeout. R299: what has struck a word of a cache's line stays with that line.
Where it rests on the model's choices and not on the specification alone, see log entries 42, 63, 64, 66, 176, 177, 192. -/
def Obligations.CachedAccesses : Prop :=
  (∀ (s : State) (k : Fin 10) (ws : List Word) (v : Word) (t : Fin 16) (d : Fin 32) (a w : Nat) (tr : Trans),
     let u := fetched s k 1
     let T := (bankOf u k).tok t.val
     8 ≤ k.val → tr.cached = true → dServes u k = true → (svcOf u k).wcb = none → wpHit u k tr.pa false = false → wpHit u k tr.pa true = false →
     findWay (svcOf u k).dc 8 (tr.pa / 8) = some w →
     let x := dLine u k (tr.pa / 8) w
     x.ups = [] →
     (Issues s k 1 ws → ws.length < 32 → tokenCheck T t.val [0] d.val 1 = .ok a → translate u k a 0 = .ok tr →
       Runs (.ldw k t d) s (fun y => operands y k = x.words.getD (tr.pa % 8) 0 :: ws ∧ (coreOf y k).pc = pcAdd (coreOf u k).pc 1 ∧
         (svcOf y k).dc = (svcOf u k).dc ∧ SameBut [.cores, .dbg, .svc] u y)) ∧
     (Issues s k 1 (v :: ws) → tokenCheck T t.val [1] d.val 1 = .ok a → translate u k a 1 = .ok tr →
       Runs (.stw k t d) s (fun y => operands y k = ws ∧ (coreOf y k).pc = pcAdd (coreOf u k).pc 1 ∧
         dLine y k (tr.pa / 8) w = { x with words := x.words.set (tr.pa % 8) v, tags := x.tags.set (tr.pa % 8 / 2) false, dirty := true } ∧
         SameBut [.cores, .dbg, .svc] u y))) ∧
  (∀ (s : State) (k : Fin 2) (f : Fill) (rest : List Fill) (b : WcBuf) (id : Nat),
     let c := 8 + k.val
     ((svcOf s c).fills = f :: rest → (svcOf s c).pfq = [] → clearingAt s (8 * f.line) = false → f.want = some (id, f.word) →
       f.src = .shared → f.use = .load → f.stores = [] → f.tags = [] → f.word < 8 → f.line < 0x20000 →
       (∀ i < 8, arrayCode s (8 * f.line + i) = 0 ∧ upsetAt s (upsetKey (8 * f.line + i)) = .none ∧ upsetAt s (tagUpsetKey (8 * f.line + i)) = .none ∧
         inL2 s 8 (8 * f.line + i) = false ∧ inL2 s 9 (8 * f.line + i) = false ∧
         inPneRegion s (8 * f.line + i) = false ∧ inRlkTable s (8 * f.line + i) = false ∧ cptHidden s (8 * f.line + i) (corePort c) = false) →
       let w := dVictim s c f.line
       (dAllocates s c = true → dLine s c f.line w = Line.none_) →
       Runs (.lineFill ⟨k, []⟩) s (fun t => (svcOf t c).fills = rest ∧ (∃ h g, (coreOf t c).arrived = (coreOf s c).arrived ++
         [⟨id, 0, memRd s (8 * f.line + f.word), h, g⟩]) ∧ (∀ b, memRd t b = memRd s b) ∧
         (dAllocates s c = true → (dLine t c f.line w).line = f.line ∧ (dLine t c f.line w).dirty = false ∧
           (dLine t c f.line w).words = (List.range 8).map (fun i => memRd s (8 * f.line + i))))) ∧
     ((svcOf s c).wcb = some b → b.line < 0x20000 → b.words.length = 1 → b.tags = [] →
       (∀ p ∈ b.words, arrayCode s (8 * b.line + p.1) = 0 ∧ 8 * b.line + p.1 < 0x100000) →
       Runs (.wcBufferTimeout k) s (fun t => (svcOf t c).wcb = none ∧ ∀ p ∈ b.words, ∀ i,
         memRd t i = if i = 8 * b.line + p.1 then p.2 else memRd s i))) ∧
  (∀ (s : State) (k : Fin 2) (u : CacheUpset),
     let c := 8 + k.val
     let way := if u.inst then u.way.val % 4 else u.way.val
     let line (y : State) : Line := tget Line.none_ (if u.inst then (svcOf y c).ic else (svcOf y c).dc) (way * 128 + u.set.val)
     (svcOf s c).fills = [] → (line s).words ≠ [] →
       Runs (.lineFill ⟨k, [u]⟩) s (fun t => line t = (line s).strike u.word.val u.up ∧ SameBut [.svc] s t))

/-- R294: cache maintenance of one line by address, untranslated: CLEAN writes a dirty line home and keeps it, INV drops it, CLEANINV does
both, ICINV drops it from the instruction cache and the side buffer. R294: a maintenance operation on everything runs in the background:
OPBUSY is set until it is done.
Where it rests on the model's choices and not on the specification alone, see log entries 42, 53, 63. -/
def Obligations.CacheMaintenance : Prop :=
  (∀ (s : State) (k : Fin 2) (ws : List Word) (v : Word) (ps : Fin 8) (sn : Bool) (t : Fin 16) (a w : Nat) (x : Line),
     let c := 8 + k.val
     let u := fetched s c 2
     IssuesLong s c ps sn (v :: ws) → (bankOf s c).peek 0 = v → ((bankOf u c).tok t.val).tag = true → ((bankOf u c).tok t.val).otype = 0x20 →
     srf u c srSts ⟨5, 5⟩ = 0 → srf u c srTlbctl ⟨11, 8⟩ = 0 → (coreOf u c).sr srCmaddr = BitVec.ofNat 48 a → a < 0x100000 →
     (svcOf u c).l2on = false → (svcOf u c).offers = [] → fillOf u c (a / 8) = none →
     let held (y : State) : Bool := (findWay (svcOf y c).dc 8 (a / 8)).isSome
     (v.toNat % 8 = 1 → findWay (svcOf u c).dc 8 (a / 8) = some w → x = dLine u c (a / 8) w → x.dirty = false →
       Runs (.svcClean k ps sn t) s (fun y => held y = true ∧ (∀ b, memRd y b = memRd u b) ∧ operands y c = ws)) ∧
     (v.toNat % 8 = 1 → findWay (svcOf u c).dc 8 (a / 8) = some w → x = dLine u c (a / 8) w → x.dirty = true → x.words.length = 8 → x.ups = [] →
       (∀ i < 8, arrayCode u (a / 8 * 8 + i) = 0) →
       Runs (.svcClean k ps sn t) s (fun y => held y = true ∧ (dLine y c (a / 8) w).dirty = false ∧ operands y c = ws ∧
         ∀ b, memRd y b = if a / 8 * 8 ≤ b ∧ b < a / 8 * 8 + 8 then x.words.getD (b - a / 8 * 8) 0 else memRd u b)) ∧
     (v.toNat % 8 = 2 → (∀ j < 8, findWay (svcOf u c).dc 8 (a / 8) ≠ some j →
         (dLine u c (a / 8) j).words = [] ∨ (dLine u c (a / 8) j).line ≠ a / 8) →
       Runs (.svcInv k ps sn t) s (fun y => held y = false ∧ (∀ b, memRd y b = memRd u b) ∧ operands y c = ws)) ∧
     (v.toNat % 8 = 3 → findWay (svcOf u c).dc 8 (a / 8) = some w → x = dLine u c (a / 8) w → x.dirty = true → x.words.length = 8 → x.ups = [] →
       (∀ i < 8, arrayCode u (a / 8 * 8 + i) = 0) →
       Runs (.svcCleaninv k ps sn t) s (fun y => operands y c = ws ∧
         ∀ b, memRd y b = if a / 8 * 8 ≤ b ∧ b < a / 8 * 8 + 8 then x.words.getD (b - a / 8 * 8) 0 else memRd u b)) ∧
     (v.toNat % 8 = 4 → Runs (.svcIcinv k ps sn t) s (fun y => operands y c = ws ∧ (∀ l ∈ (svcOf y c).side, l.line ≠ a / 8) ∧
       (svcOf y c).dc = (svcOf u c).dc ∧ ∀ b, memRd y b = memRd u b))) ∧
  (∀ (s : State) (k : Fin 2) (ws : List Word) (v : Word) (ps : Fin 8) (sn : Bool) (t : Fin 16),
     let c := 8 + k.val
     let u := fetched s c 2
     (IssuesLong s c ps sn (v :: ws) → (bankOf s c).peek 0 = v → ((bankOf u c).tok t.val).tag = true → ((bankOf u c).tok t.val).otype = 0x20 →
       srf u c srSts ⟨5, 5⟩ = 0 →
       let starts (i : Instr) (op : Nat) : Prop := v.toNat % 8 = op →
         Runs i s (fun y => srf y c srSts ⟨5, 5⟩ = 1 ∧ (svcOf y c).bgop = op ∧ operands y c = ws ∧ (svcOf y c).dc = (svcOf u c).dc ∧
           (∀ b, memRd y b = memRd u b) ∧ SameBut [.cores, .dbg, .svc] u y)
       starts (.svcAllclean k ps sn t) 5 ∧ starts (.svcAllcleaninv k ps sn t) 6 ∧ starts (.svcAllinv k ps sn t) 7) ∧
     ((svcOf s c).bgop ≠ 0 → (∀ f ∈ (svcOf s c).fills, f.line ∉ (svcOf s c).bgl) → Runs (.svcOpDone k) s (fun y => srf y c srSts ⟨5, 5⟩ = 0 ∧ (svcOf y c).bgop = 0)))

/-- R302 to R306: commands on the TLB and the current address space. R181, R291, R296, R297: the data cache and the second-level region are
disabled through a cleaning that a command ends; enabling a region makes it initialise, or cancels its cleaning; an I-cache way that loses
its enable is invalid and off, and one of the D-cache stays powered until its dirty lines have gone.
Where it rests on the model's choices and not on the specification alone, see log entries 42, 53, 63, 69, 70. -/
def Obligations.TranslationAndControl : Prop :=
  (∀ (s : State) (k : Fin 2) (ws : List Word) (v : Word) (ps : Fin 8) (sn : Bool) (t : Fin 16) (i : Nat),
     let c := 8 + k.val
     let u := fetched s c 2
     let hi := (coreOf u c).sr srTlbhi
     let lo := (coreOf u c).sr srTlblo
     IssuesLong s c ps sn (v :: ws) → (bankOf s c).peek 0 = v → ((bankOf u c).tok t.val).tag = true → ((bankOf u c).tok t.val).otype = 0x20 →
     (coreOf u c).reqs = [] → i = v.toNat / 2 ^ 8 % 64 →
     (v.toNat % 8 = 1 → Runs (.tlbRead k ps sn t) s (fun y => operands y c = ws ∧ (coreOf y c).sr srTlbhi = (tlbEntry u c i).1 ∧
       (coreOf y c).sr srTlblo = (tlbEntry u c i).2 ∧ srf y c srTlbcmd ⟨19, 16⟩ = 0 ∧ SameBut [.cores, .dbg] u y)) ∧
     (v.toNat % 8 = 2 → (tlbV hi = false ∨ tlbRefusal u c i hi lo = 0) → Runs (.tlbWrite k ps sn t) s (fun y => operands y c = ws ∧
       tlbEntry y c i = (hi, lo) ∧ (∀ j, j ≠ i → tlbEntry y c j = tlbEntry u c j) ∧ srf y c srTlbcmd ⟨19, 16⟩ = 0 ∧
       SameBut [.cores, .dbg, .svc] u y)) ∧
     (v.toNat % 8 = 3 → Runs (.tlbProbe k ps sn t) s (fun y => operands y c = ws ∧ SameBut [.cores, .dbg] u y ∧
       (∀ e, tlbFind u c (tlbAsid hi) (hi.toNat / 2 ^ 12 * 2 ^ 12) = some e → srf y c srTlbcmd ⟨19, 16⟩ = 0 ∧ srf y c srTlbcmd ⟨13, 8⟩ = e) ∧
       (tlbFind u c (tlbAsid hi) (hi.toNat / 2 ^ 12 * 2 ^ 12) = none → srf y c srTlbcmd ⟨19, 16⟩ = 5))) ∧
     (v.toNat % 8 = 4 → Runs (.tlbInvall k ps sn t) s (fun y => operands y c = ws ∧ SameBut [.cores, .dbg, .svc] u y ∧
       ∀ e < 64, tlbV (tlbEntry y c e).1 = false)) ∧
     (v.toNat % 8 = 5 → Runs (.tlbInvasid k ps sn t) s (fun y => operands y c = ws ∧ SameBut [.cores, .dbg, .svc] u y ∧
       ∀ e < 64, tlbV (tlbEntry y c e).1 = (tlbV (tlbEntry u c e).1 && (tlbG (tlbEntry u c e).1 || tlbAsid (tlbEntry u c e).1 != tlbAsid hi)))) ∧
     Runs (.curasidWrite k ps sn t) s (fun y => operands y c = ws ∧ SameBut [.cores, .dbg, .svc] u y ∧
       svcOf y c = { svcOf u c with pfq := [] } ∧ (∀ j, j ≠ c → svcOf y j = svcOf u j) ∧
       srf y c srTlbctl ⟨5, 0⟩ = v.toNat % 64 ∧ srf y c srTlbctl ⟨11, 8⟩ = v.toNat / 2 ^ 8 % 16)) ∧
  (∀ (s : State) (k : Fin 2) (ws : List Word) (v : Word) (ps : Fin 8) (sn : Bool) (t : Fin 16),
     let c := 8 + k.val
     let u := fetched s c 2
     (IssuesLong s c ps sn (v :: ws) → (bankOf s c).peek 0 = v → ((bankOf u c).tok t.val).tag = true → ((bankOf u c).tok t.val).otype = 0x20 →
       (v.getLsbD 0 = false → (svcOf u c).dUse = true → (coreOf u c).detm = false → (svcOf u c).stream = false →
         Runs (.dcacheDisable k ps sn t) s (fun y => operands y c = ws ∧ srf y c srSts ⟨0, 0⟩ = 1 ∧ (svcOf y c).dc = (svcOf u c).dc ∧
           (svcOf y c).dUse = true ∧ ∀ b, memRd y b = memRd u b)) ∧
       (v.getLsbD 8 = true → srf u c srL2cfg ⟨8, 8⟩ = 0 →
         let n := 2 ^ (v.toNat / 2 ^ 4 % 4)
         let fits := v.toNat % 16 % n = 0 ∧ v.toNat % 16 + n ≤ 16
         (srf u c srSts ⟨6, 6⟩ = 0 → fits → Runs (.l2Enable k ps sn t) s (fun y => operands y c = ws ∧ srf y c srL2cfg ⟨8, 8⟩ = 1 ∧
           srf y c srSts ⟨7, 7⟩ = 1 ∧ (svcOf y c).l2on = true ∧ (svcOf y c).l2reg = (v.toNat % 16 * 0x10000, n) ∧
           (svcOf y c).l2left = 7168 * n ∧ l2Lines y c = [])) ∧
         (¬ fits → Runs (.l2Enable k ps sn t) s (fun y => operands y c = ws ∧ srf y c srL2cfg ⟨8, 8⟩ = 0 ∧
           SameBut [.cores, .dbg] u y)) ∧
         (srf u c srSts ⟨6, 6⟩ = 1 → fits → Runs (.l2Enable k ps sn t) s (fun y => operands y c = ws ∧ srf y c srL2cfg ⟨8, 8⟩ = 1 ∧
           srf y c srSts ⟨6, 6⟩ = 0 ∧ SameBut [.cores, .dbg] u y))) ∧
       (v.getLsbD 8 = false → srf u c srL2cfg ⟨8, 8⟩ = 1 →
         Runs (.l2Disable k ps sn t) s (fun y => operands y c = ws ∧ srf y c srL2cfg ⟨8, 8⟩ = 0 ∧ srf y c srSts ⟨6, 6⟩ = 1 ∧
           (svcOf y c).l2on = (svcOf u c).l2on ∧ ∀ b, memRd y b = memRd u b)) ∧
       ((coreOf s c).sr srWayen &&& ~~~v &&& 0xF00FF ≠ 0 →
         Runs (.wayDisable k ps sn t) s (fun y => operands y c = ws ∧ srf y c srWayen ⟨7, 0⟩ = v.toNat % 256 ∧
           srf y c srWayen ⟨15, 8⟩ = srf u c srWayen ⟨15, 8⟩ ||| v.toNat % 256 ∧ (svcOf y c).dc = (svcOf u c).dc ∧
           srf y c srWayen ⟨19, 16⟩ = v.toNat / 2 ^ 16 % 16 ∧ srf y c srWayen ⟨27, 24⟩ = v.toNat / 2 ^ 16 % 16 ∧
           (∀ p ∈ (svcOf y c).ic, (v.toNat / 2 ^ 16 % 16).testBit (p.1 / 128) = true) ∧ ∀ b, memRd y b = memRd u b))) ∧
     (dCleaning s c = true → (svcOf s c).fills = [] → Runs (.dcacheCleanDone k) s (fun y => (svcOf y c).dc = [] ∧ (svcOf y c).dUse = false ∧
       srf y c srSts ⟨0, 0⟩ = 0 ∧ srf y c srSts ⟨2, 2⟩ = 1)) ∧
     (srf s c srSts ⟨6, 6⟩ = 1 → Runs (.l2CleaningDone k) s (fun y => (svcOf y c).l2on = false ∧ srf y c srSts ⟨6, 6⟩ = 0)) ∧
     ((coreOf s c).detm = true → (coreOf s c).detmAct = false → (svcOf s c).dUse = false → (svcOf s c).iUse = false →
       Runs (.detmActive k) s (fun y => coreOf y c = { coreOf s c with detmAct := true } ∧ SameBut [.cores] s y ∧
         ∀ j, j ≠ c → coreOf y j = coreOf s j)))

/-- R15 to R18, R20: a sample of an enabled channel, with good parity, fresh and calibrated, is scaled to Q16.32, rounded to nearest even
and saturated, and written to CVP_CHVAL; a sample that fails a check is discarded, flagged and counted. R21 to R26, R34: the oldest word of
a lane leaves; a DIRECT word replaces what was expected on its pair at or after its time; a time too early is clamped, a word too far ahead,
for a pair that is safe, or (log entry 158) with four words of its pair pending before it, is discarded. R101: an ARMDEF goes with its
POSTED words where these are all discarded for safe pairs.
Where it rests on the model's choices and not on the specification alone, see log entries 4, 5, 14, 32, 156, 157, 158, 159. -/
def Obligations.SamplesAndWords : Prop :=
  (∀ (s : State) (k : Fin 16) (sub : BitVec 4) (data : BitVec 24) (tsc : BitVec 16) (tsf : BitVec 7) (par : Bool),
     let c := sub.toNat * 16 + k.val
     let cmd : Instr := .sampleCapture k sub data tsc tsf par
     let old := tget ⟨0, ⟨0, 0⟩, false⟩ s.cvp.calPrev c
     let loaded := old.cyc = s.port + 1
     let cal := if loaded then old.cal else tget ⟨0, 0⟩ s.cvp.cal c
     let calOk := if loaded then old.ok else rb s (cvpChcfg c) cvpChcfgCALOK
     let v : Int := sint cal.gain * data.toInt + sint cal.offs * 2 ^ 23
     let rejects (flag cnt : Fld) : Prop := Runs cmd s (fun t => SameBut [.regs] s t ∧
       RegsAre [withFld s cvpEvsts flag 1, counted s cvpEvcnt cnt, withBit s cvpLnsts cvpLnstsINERR k.val true] s t)
     pdOn s 51 = true → rbit s cvpLaneen cvpLaneenINGEN k.val = true → s.running = true →
     (smpParityOk sub data tsc tsf par = false → rejects cvpEvstsSMPPARITY cvpEvcntSMPBAD) ∧
     (smpParityOk sub data tsc tsf par = true →
       (rb s (cvpChcfg c) cvpChcfgEN = false → Runs cmd s (fun t => t = s)) ∧
       (rb s (cvpChcfg c) cvpChcfgEN = true →
         (smpStale s tsc.toNat = true → rejects cvpEvstsSMPSTALE cvpEvcntSMPOLD) ∧
         (smpStale s tsc.toNat = false → calOk = false → rejects cvpEvstsSMPUNCAL cvpEvcntSMPBAD) ∧
         (smpStale s tsc.toNat = false → calOk = true →
           (- 2 ^ 70 ≤ v → v ≤ (2 ^ 47 - 1) * 2 ^ 23 → Runs cmd s (fun t => SameBut [.regs, .sem, .ae, .ssp] s t ∧ Fires [0x100 + c] s t ∧
             RegsBut [cvpChval c] s t ∧ let e := sint (rd t (cvpChval c))
               2 * e * 2 ^ 23 - 2 * v ≤ 2 ^ 23 ∧ - 2 ^ 23 ≤ 2 * e * 2 ^ 23 - 2 * v ∧
               (2 * e * 2 ^ 23 - 2 * v = 2 ^ 23 ∨ 2 * e * 2 ^ 23 - 2 * v = - 2 ^ 23 → e % 2 = 0))) ∧
           ((2 ^ 47 - 1) * 2 ^ 23 + 2 ^ 22 < v → Runs cmd s (fun t => SameBut [.regs, .sem, .ae, .ssp] s t ∧ Fires [0x100 + c] s t ∧
             RegsAre [(cvpChval c, 0x7FFFFFFFFFFF), withFld s (cvpChcfg c) cvpChcfgSAT 1, withFld s cvpEvsts cvpEvstsSAT 1] s t)) ∧
           (v < - 2 ^ 70 - 2 ^ 22 → Runs cmd s (fun t => SameBut [.regs, .sem, .ae, .ssp] s t ∧ Fires [0x100 + c] s t ∧
             RegsAre [(cvpChval c, 0x800000000000), withFld s (cvpChcfg c) cvpChcfgSAT 1, withFld s cvpEvsts cvpEvstsSAT 1] s t)))))) ∧
  (∀ (s : State) (k : Fin 16) (e : QEntry) (r : List QEntry),
     let w := e.word
     let kept (w : EdgeWord) : List Expect := s.cvp.expects.filter (fun x => !(x.pair == w.pair && w.time ≤ x.cyc * 128 + x.fine))
     let armed := s.cvp.tags.any (fun l => l.lane == k.val && l.tag == w.tag && l.armed)
     let late : EdgeWord := { w with cyc := s.port + cvpLead s, fine := 0 }
     let void := armdefVoid s w (r.map (fun x => x.word))
     laneReady s k.val = true → laneQ s k.val = e :: r →
     (w.kind = .armdef ∨ pairSource s w.pair = false →
       (w.kind = .direct → s.port + cvpLead s ≤ w.cyc → w.cyc ≤ s.port + 32767 → pendingBefore s w < 4 → Runs (.edgeWordLeave k) s (fun t =>
         laneQ t k.val = r ∧ tget 0 t.cvp.edgeOut k.val = w.bits ∧ t.cvp.expects = kept w ++ [⟨w.pair, w.s, w.cyc, w.fine, 0, none, false, s.port⟩] ∧
         rnSafe t w.pair = (rnSafe s w.pair && !e.rel) ∧ RegsBut [cvpSafests (w.pair / 32), dbgTrptr] s t ∧
         SameBut [.cvp, .regs, .sig] s t)) ∧
       (w.kind = .direct → w.cyc < s.port + cvpLead s → pendingBefore s late < 4 → Runs (.edgeWordLeave k) s (fun t =>
         laneQ t k.val = r ∧ tget 0 t.cvp.edgeOut k.val = late.bits ∧
         t.cvp.expects = kept late ++ [⟨w.pair, w.s, s.port + cvpLead s, 0, 0, none, false, s.port⟩] ∧ rb t cvpEvsts cvpEvstsEDGECLAMPED = true ∧
         rbit t cvpLnsts cvpLnstsEGERR k.val = true ∧ rd t cvpEvcnt = (counted s cvpEvcnt cvpEvcntDROP).2 ∧
         RegsBut [cvpSafests (w.pair / 32), dbgTrptr, cvpEvsts, cvpLnsts, cvpEvcnt] s t ∧ SameBut [.cvp, .regs, .sig] s t)) ∧
       (w.kind ≠ .direct → w.cyc ≤ s.port + 32767 → (w.kind = .posted → armed = false) → fifthPending s k.val w = false → void = false → Runs (.edgeWordLeave k) s (fun t =>
         laneQ t k.val = r ∧ tget 0 t.cvp.edgeOut k.val = w.bits ∧ t.cvp.expects = s.cvp.expects ∧
         t.cvp.tags = s.cvp.tags.map (fun l => if l.lane == k.val && l.tag == w.tag then
           { l with words := if w.kind == .posted then l.words ++ [(w, s.port)] else l.words, left := true } else l) ∧
         RegsBut [cvpSafests (w.pair / 32), dbgTrptr] s t ∧ SameBut [.cvp, .regs, .sig, .ssp] s t)) ∧
       (w.kind = .posted → w.cyc ≤ s.port + 32767 → armed = true → fifthPending s k.val w = false → Runs (.edgeWordLeave k) s (fun t =>
         laneQ t k.val = r ∧ tget 0 t.cvp.edgeOut k.val = w.bits ∧
         t.cvp.expects = kept w ++ [⟨w.pair, w.s, w.cyc, w.fine, 0, some w.tag, false, s.port⟩] ∧ t.cvp.tags = s.cvp.tags ∧
         RegsBut [cvpSafests (w.pair / 32), dbgTrptr] s t ∧ SameBut [.cvp, .regs, .sig, .ssp] s t)) ∧
       (w.kind ≠ .armdef → r = [] → s.port + 32767 < w.cyc ∨ (w.kind = .direct ∧ s.port + cvpLead s ≤ w.cyc ∧ 4 ≤ pendingBefore s w) ∨
           (w.kind = .posted ∧ fifthPending s k.val w = true) → Runs (.edgeWordLeave k) s (fun t =>
         laneQ t k.val = [] ∧ t.cvp.edgeOut = s.cvp.edgeOut ∧ t.cvp.expects = s.cvp.expects ∧ SameBut [.cvp, .regs] s t ∧
         RegsAre [withFld s cvpEvsts cvpEvstsEDGEDROPPED 1, counted s cvpEvcnt cvpEvcntDROP,
           withBit s cvpLnsts cvpLnstsEGERR k.val true] s t))) ∧
     (void = true → (∀ x ∈ r, x.word.kind = .posted ∧ x.word.tag = w.tag) → Runs (.edgeWordLeave k) s (fun t =>
       laneQ t k.val = [] ∧ t.cvp.edgeOut = s.cvp.edgeOut ∧ t.cvp.expects = s.cvp.expects ∧
       t.cvp.tags = s.cvp.tags.filter (fun l => !(l.lane == k.val && l.tag == w.tag)) ∧ SameBut [.cvp] s t)) ∧
     (w.kind ≠ .armdef → pairSource s w.pair = true → r = [] → Runs (.edgeWordLeave k) s (fun t =>
       laneQ t k.val = [] ∧ t.cvp.edgeOut = s.cvp.edgeOut ∧ t.cvp.expects = s.cvp.expects ∧ SameBut [.cvp] s t)))

/-- R28, R31, R32, R34, R101: reports of the host on a lane (executed, armed, retracted, safe state), and a report that is overdue. R39,
R77, R107: a grant that was requested makes the port drive, asks for a hand-over on every enabled slot that owns a pair and sends every
cell back to CVP_APPLIED; one that was not is
flagged; the fall of the grant makes every pair safe. R38: the time from a commutation to the first high sample goes to CVP_SWNDLY in units
of 16 edge ticks (how a part of a unit is rounded is open); after the window the result is 0x1FFF and NO_ZVS is set.
Where it rests on the model's choices and not on the specification alone, see log entries 4, 16, 17, 18, 32. -/
def Obligations.Readback : Prop :=
  (∀ (s : State) (k : Fin 16) (d : BitVec 32) (e : Expect),
     let id := (d.toNat >>> 25) % 32
     let p := (id % 16) * 16 + k.val
     let v := (d.toNat >>> 23) % 4
     let u := extendBounds s k.val
     (pdOn s 52 = true → s.running = true →
       (d.toNat >>> 30 = 0 → u.cvp.expects.find? (fun x => x.pair == p && x.cyc % 65536 == d.toNat % 65536 && x.cyc ≤ s.port) = some e →
         (e.s = v → Runs (.appliedReport k d) s (fun t => t.cvp.expects = u.cvp.expects.erase e ∧ SameBut [.cvp, .ssp, .regs] s t ∧
           RegsAre [withFld s (cvpApplied (p / 16)) ⟨2 * (p % 16) + 1, 2 * (p % 16)⟩ v] s t)) ∧
         (e.s ≠ v → Runs (.appliedReport k d) s (fun t => t.cvp.expects = u.cvp.expects.erase e ∧ SameBut [.cvp, .ssp, .regs] s t ∧
           RegsAre [withFld s (cvpApplied (p / 16)) ⟨2 * (p % 16) + 1, 2 * (p % 16)⟩ v, withFld s cvpEvsts cvpEvstsAPPLIEDMISMATCH 1,
             withBit s cvpLnsts cvpLnstsEGERR k.val true] s t))) ∧
       (d.toNat >>> 30 = 1 → (laneTag s k.val id).isSome = true → (∀ l ∈ s.cvp.tags, l.tag = id → l.gone = false ∧ l.armed = false) →
         Runs (.appliedReport k d) s (fun t => SameBut [.cvp, .ssp] s t ∧
           ∀ l ∈ t.cvp.tags, l.tag = id → l.armed = true ∧ (l.lane = k.val → l.rep = true))) ∧
       (d.toNat >>> 30 = 2 → Runs (.appliedReport k d) s (fun t => SameBut [.cvp, .ssp] s t ∧
         t.cvp.tags = s.cvp.tags.filter (fun l => !(l.lane == k.val && l.tag == id)))) ∧
       (d.toNat >>> 30 = 3 → Runs (.appliedReport k d) s (fun t => SameBut [.cvp, .ssp, .dbg, .regs] s t ∧
         RegsAre [withFld s (cvpApplied (p / 16)) ⟨2 * (p % 16) + 1, 2 * (p % 16)⟩ v] s t ∧
         t.cvp.expects = if d.getLsbD 22 then u.cvp.expects.filter (fun x => !(x.pair == p && x.sent ≤ (extendTsc s.port (d.toNat % 65536)).getD 0))
           else u.cvp.expects))) ∧
     (s.cvp.expects.any (overdue s k.val) = true → Runs (.appliedReportTimeout k) s (fun t =>
       t.cvp.expects = s.cvp.expects.map (fun x => if overdue s k.val x then { x with late := true } else x) ∧
       t.cvp.tags = s.cvp.tags ∧ SameBut [.cvp, .regs] s t ∧
       RegsAre [withFld s cvpEvsts cvpEvstsAPPLIEDMISMATCH 1, withBit s cvpLnsts cvpLnstsEGERR k.val true] s t))) ∧
  (∀ s : State,
     let safes := (List.range 8).map cvpSafests
     let hoctls := (List.range 128).map slotHoctl
     let withdraws (t : State) : Prop := t.sig = { s.sig with traces := t.sig.traces }
     (s.cvp.gnt = false →
       (rb s cvpDrive cvpDriveREQ = true → Runs .driveGntRise s (fun t => t.cvp.gnt = true ∧ rb t cvpDrive cvpDriveGNT = true ∧
         rb t cvpDrive cvpDriveDRIVING = true ∧ Fires [0x09A] s t ∧
         (∀ n < 128, rb t (slotHoctl n) aeHoctlHOREQ = (rb s (slotHoctl n) aeHoctlHOREQ ||
           (rb s (slotCtl n) aeSlotctlEN && !(ownedPairs s 1 n).isEmpty))) ∧
         (∀ c, cellOf t c = if c < 8 then { cellOf s c with regnt := true } else cellOf s c) ∧ t.ssp = { s.ssp with cells := t.ssp.cells } ∧
         RegsBut (cvpDrive :: safes ++ hoctls) s t ∧ withdraws t ∧ SameBut [.cvp, .regs, .sem, .ae, .sig, .ssp] s t)) ∧
       (rb s cvpDrive cvpDriveREQ = false → Runs .driveGntRise s (fun t => t.cvp.gnt = true ∧ rb t cvpDrive cvpDriveGNT = true ∧
         rb t cvpEvsts cvpEvstsGNTUNREQUESTED = true ∧ (∀ p < 256, rnSafe t p = true) ∧
         RegsBut (cvpDrive :: cvpEvsts :: safes) s t ∧ withdraws t ∧ SameBut [.cvp, .regs, .sig] s t))) ∧
     (s.cvp.gnt = true → Runs .driveGntFall s (fun t => t.cvp.gnt = false ∧ rb t cvpDrive cvpDriveGNT = false ∧
       rb t cvpDrive cvpDriveDRIVING = false ∧ (∀ p < 256, rnSafe t p = true) ∧
       rb t cvpEvsts cvpEvstsGNTLOST = (rb s cvpEvsts cvpEvstsGNTLOST || rb s cvpDrive cvpDriveREQ) ∧
       Fires (if rb s cvpDrive cvpDriveREQ then [0x099] else []) s t ∧
       RegsBut (cvpDrive :: cvpEvsts :: safes) s t ∧ withdraws t ∧ SameBut [.cvp, .regs, .sem, .sig] s t))) ∧
  (∀ (s : State) (o : Fin 512) (fine : BitVec 7) (m : Nat × Nat),
     let now := s.port * 128 + fine.toNat
     let d := now - m.2
     let took (t : State) : Prop := t.cvp.swn = s.cvp.swn.erase m ∧ rb t (cvpSwndly o.val) cvpSwndlyVALID = true ∧
       t.cvp.swnNo = s.cvp.swnNo + 1 ∧ tget 0 t.cvp.swnCnt o.val = s.cvp.swnNo + 1
     let none_ (t : State) : Prop := rf t (cvpSwndly o.val) cvpSwndlyDLY = 0x1FFF ∧ rb t cvpEvsts cvpEvstsNOZVS = true ∧ Fires [0x09B] s t ∧
       RegsBut [cvpSwndly o.val, cvpEvsts] s t
     swnFirst s o.val = some m → pdOn s 52 = true → s.running = true →
     (m.2 ≤ now → Runs (.swnodeHigh o fine) s (fun t => took t ∧ SameBut [.cvp, .regs, .sem, .free] s t ∧
       ∃ u, (u = d / 16 ∨ u = (d + 15) / 16) ∧
         if d ≤ 16 * rf s cvpSwnwin cvpSwnwinWIN then
           rf t (cvpSwndly o.val) cvpSwndlyDLY = u ∧ RegsBut [cvpSwndly o.val] s t ∧ t.sem = s.sem
         else none_ t)) ∧
     (m.2 + 16 * rf s cvpSwnwin cvpSwnwinWIN < s.port * 128 + 128 → Runs (.swnodeWindowExpiry o) s (fun t =>
       took t ∧ none_ t ∧ SameBut [.cvp, .regs, .sem] s t)))

/-- R36, R138: a trip input that becomes active counts at once with no filter, and latches the groups that it feeds; with a filter it
shows in CVP_TRIPLIVE and waits (R42); an input that becomes inactive leaves every latch set. R37: of the latches that a write to CVP_TGLATCH names, those whose group
input is inactive are cleared; the others, and those it does not name, stay; nothing else changes. A writer without the system type writes
nothing.
Where it rests on the model's choices and not on the specification alone, see log entries 5, 13. -/
def Obligations.Trips : Prop :=
  (∀ (s : State) (i : Fin 64),
     let safes := (List.range 8).map cvpSafests
     let withdraws (t : State) : Prop := t.sig = { s.sig with traces := t.sig.traces }
     let live (t : State) : Bool := bitOf (rd t (tripLiveAddr i.val)) (i.val % 32)
     (s.cvp.tripLive.getLsbD i.val = false →
       (rf s cvpTripflt cvpTripfltN = 0 ∨ s.running = false → Runs (.tripInput i) s (fun t =>
         t.cvp.tripLive = s.cvp.tripLive ||| BitVec.ofNat 64 (1 <<< i.val) ∧ tripActive t i.val = true ∧
         live t = true ∧ (live s = false → bitOf (rd t (tripLatAddr i.val)) (i.val % 32) = true) ∧
         (∀ g < 16, (rf s (semTgen g (i.val / 32)) semTgenEN).testBit (i.val % 32) = true → rbit t cvpTglatch cvpTglatchTGLAT g = true) ∧
         (∀ g < 16, rbit s cvpTglatch cvpTglatchTGLAT g = true → rbit t cvpTglatch cvpTglatchTGLAT g = true) ∧
         RegsBut ([tripLiveAddr i.val, tripLatAddr i.val, cvpTglatch] ++ safes) s t ∧ withdraws t ∧ SameBut [.cvp, .regs, .sem, .sig] s t)) ∧
       (rf s cvpTripflt cvpTripfltN ≠ 0 → s.running = true → s.cvp.tripWait.any (fun p => p.1 == i.val) = false →
         Runs (.tripInput i) s (fun t => t.cvp.tripWait = s.cvp.tripWait ++ [(i.val, s.port)] ∧ t.cvp.tripLive = s.cvp.tripLive ∧
           tripActive t i.val = true ∧ live t = true ∧ (live s = false → bitOf (rd t (tripLatAddr i.val)) (i.val % 32) = true) ∧
           Fires (if live s then [] else [0x40 + i.val]) s t ∧
           RegsBut [tripLiveAddr i.val, tripLatAddr i.val] s t ∧ SameBut [.cvp, .regs, .sem] s t))) ∧
     Runs (.tripInputInactive i) s (fun t => t.cvp.tripLive = s.cvp.tripLive &&& ~~~ BitVec.ofNat 64 (1 <<< i.val) ∧ tripActive t i.val = false ∧
       live t = false ∧ (∀ p ∈ t.cvp.tripWait, p.1 ≠ i.val) ∧
       (∀ g < 16, rbit s cvpTglatch cvpTglatchTGLAT g = true → rbit t cvpTglatch cvpTglatchTGLAT g = true) ∧
       RegsBut ([tripLiveAddr i.val, cvpTglatch] ++ safes) s t ∧ withdraws t ∧ SameBut [.cvp, .regs, .sem, .sig] s t)) ∧
  (∀ (s : State) (q : Req) (v : BitVec 16),
     (holdsType s q 1 = true → Runs (.tglatchClear q v) s (fun t => t.resp = ⟨0, 0⟩ ∧ SameBut [.regs, .resp] s t ∧ RegsBut [cvpTglatch] s t ∧
       rf t cvpTglatch cvpTglatchTGLIVE = rf s cvpTglatch cvpTglatchTGLIVE ∧
       ∀ g < 16, rbit t cvpTglatch cvpTglatchTGLAT g = (rbit s cvpTglatch cvpTglatchTGLAT g && (!v.getLsbD g || groupInput s g)))) ∧
     (holdsType s q 1 = false → Runs (.tglatchClear q v) s (fun t => t.resp = ⟨2, 0⟩ ∧ SameBut [.resp] s t)))

/-- R53 to R57: the arithmetic steps of a law give ACC their exact result limited to 112 bits, with SAT where the limit changes it, and NOP
changes nothing; the slot goes on to its next step, and everything else stays.
Where it rests on the model's choices and not on the specification alone, see log entries 4, 5, 24. -/
def Obligations.LawArithmetic : Prop :=
  ∀ (s : State) (n : Fin 128) (w : Word),
    let acc := accOf s n.val
    let a := sigInt s n.val (stA.get w)
    let b := coef s n.val (stB.get w)
    let gives (c : Instr) (op : Nat) (v : Int) : Prop := lawStepWord s n.val op = some w → RamWhole s (engOf n.val) → Runs c s (fun t =>
      slotOf t n.val = { slotOf s n.val with pc := (slotOf s n.val).pc + 1, began := none, acc := BitVec.ofInt 112 (min (max v (-2 ^ 111)) (2 ^ 111 - 1)) } ∧
      (∀ m, m ≠ n.val → slotOf t m = slotOf s m) ∧ t.ae = { s.ae with slots := t.ae.slots } ∧ SameBut [.ae, .regs] s t ∧
      RegsAre (if - 2 ^ 111 ≤ v ∧ v < 2 ^ 111 then [] else [withFld s (slotSts n.val) aeSlotstsSAT 1]) s t)
    (lawStepWord s n.val 0x00 = some w → RamWhole s (engOf n.val) → Runs (.lawNop n) s (fun t =>
      slotOf t n.val = { slotOf s n.val with pc := (slotOf s n.val).pc + 1, began := none } ∧
      (∀ m, m ≠ n.val → slotOf t m = slotOf s m) ∧ t.ae = { s.ae with slots := t.ae.slots } ∧ SameBut [.ae] s t)) ∧
    gives (.lawClr n) 0x01 0 ∧ gives (.lawLda n) 0x02 (a * 2 ^ 40) ∧ gives (.lawMac n) 0x03 (acc + a * b) ∧
    gives (.lawMsu n) 0x04 (acc - a * b) ∧ gives (.lawMacs n) 0x05 (acc + a * sigInt s n.val (stB.get w) * 2 ^ 8) ∧
    gives (.lawAdds n) 0x06 (acc + a * 2 ^ 40) ∧ gives (.lawSubs n) 0x07 (acc - a * 2 ^ 40) ∧
    gives (.lawMacc n) 0x08 (acc + b * 2 ^ 32) ∧
    gives (.lawAsh n) 0x09 (if stSH.get w < 32 then acc * 2 ^ stSH.get w else acc / 2 ^ (64 - stSH.get w))

/-- R53, R55, R57, R73: ST, STL and MOV write a state, output or temporary, and an ordinary OUT its output value, which it limits; the
slot's phase after OUT is POST. R45 to R49, R61, R66, R79: the sections of an evaluation: its trigger, its BAR, its END with the image, and
its prime point.
Where it rests on the model's choices and not on the specification alone, see log entries 4, 5, 20, 22, 24, 32, 164, 165, 171, 178. -/
def Obligations.LawSections : Prop :=
  (∀ (s : State) (n : Fin 128) (w : Word),
     let d := stD.get w
     let slot := ramAddr (engOf n.val) ((sBase s n.val + d) % 0x2000)
     let r := accRnd s n.val
     let lim := limInt r.1 (sigInt s n.val (stL.get w)) (sigInt s n.val (stH.get w))
     let wrote (v : Word) (t : State) : Prop := (∀ b, memRd t b = if b = slot then v else memRd s b) ∧
       (0x20 ≤ d → d ≤ 0x27 → tget 0 t.ae.yOut (8 * n.val + (d - 0x20)) = v)
     let went (t : State) : Prop := slotOf t n.val = { slotOf s n.val with pc := (slotOf s n.val).pc + 1, began := none } ∧
       (∀ m, m ≠ n.val → slotOf t m = slotOf s m) ∧ SameBut [.ae, .mem, .regs] s t ∧ RegsBut [slotSts n.val] s t
     RamWhole s (engOf n.val) →
     (lawStepWord s n.val 0x10 = some w → Runs (.lawSt n) s (fun t => wrote (wordOfInt r.1) t ∧ went t ∧
       rb t (slotSts n.val) aeSlotstsSAT = (rb s (slotSts n.val) aeSlotstsSAT || r.2))) ∧
     (lawStepWord s n.val 0x11 = some w → Runs (.lawStl n) s (fun t => wrote (wordOfInt lim) t ∧ went t ∧
       rb t (slotSts n.val) aeSlotstsSAT = (rb s (slotSts n.val) aeSlotstsSAT || r.2) ∧
       rb t (slotSts n.val) aeSlotstsLIM = (rb s (slotSts n.val) aeSlotstsLIM || lim != r.1))) ∧
     (lawStepWord s n.val 0x13 = some w → Runs (.lawMov n) s (fun t => wrote (sigRd s n.val (stA.get w)) t ∧ went t ∧
       rd t (slotSts n.val) = rd s (slotSts n.val))) ∧
     (lawStepWord s n.val 0x12 = some w → (slotOf s n.val).ho = .ordinary → rb s (slotHosts n.val) aeHostsMANACT = false →
       rf s (slotHosts n.val) aeHostsLEFT = 0 → Runs (.lawOut n) s (fun t => wrote (wordOfInt lim) t ∧ phaseOf t n.val = 4 ∧
         (slotOf t n.val).pc = (slotOf s n.val).pc + 1 ∧ (tget [] t.ae.outq (engOf n.val)).contains n.val = false ∧
         (d = 0x20 + rf s (slotHocfg n.val) aeHocfgHOY → rd t (slotHoman n.val) = wordOfInt lim) ∧
         (∃ h, t.ae.hands = s.ae.hands ++ [h] ∧ h.slot = n.val ∧ h.out = s.port ∧
           (let due := (slotOf s n.val).alone.map (fun i => (slotOf s n.val).trig.pres + ((slotOf s n.val).pc - i + 17) / 4 - 2)
            (∃ d, due = some d ∧ s.port < d ∧ h.at_ = d) ∨
              ((∀ d, due = some d → d ≤ s.port) ∧ (h.at_ = s.port + 1 ∨ h.at_ = s.port + 2))) ∧
           h.pres = (slotOf s n.val).trig.pres ∧ h.take = none ∧
           (∀ y < 8, h.ys.getD y 0 = memRd t (ramAddr (engOf n.val) ((sBase s n.val + 0x20 + y) % 0x2000))) ∧
           (rf s (slotPer n.val) aeSlotperPER = 0 → h.ws = []) ∧
           (rf s (slotPer n.val) aeSlotperPER ≠ 0 → (∀ e < 8, tmplOn s n.val e = false) → h.ws = [])) ∧
         (rf s (slotPer n.val) aeSlotperPER = 0 → Fires [0x200 + n.val] s t ∧ SameBut [.ae, .mem, .regs, .sem, .free] s t ∧
           RegsBut [slotSts n.val, slotHoman n.val] s t)))) ∧
  (∀ (s : State) (n : Fin 128) (w : Word) (i : Nat) (e : TrigSrc) (tr : Trig),
     let x := slotOf s n.val
     let ram := ramAddr (engOf n.val)
     let own (j : Nat) : Word := memRd s (ram ((sBase s n.val + j) % 0x2000))
     let img (t : State) (j : Nat) : Word := memRd t (ram (0x1C00 + 64 * locOf n.val + j))
     let starts (tr : Trig) (t : State) : Prop := phaseOf t n.val = 3 ∧ (slotOf t n.val).trig = tr ∧ (slotOf t n.val).held = none ∧
       (slotOf t n.val).first = false ∧
       (∃ a b, tget [] s.ae.outq (engOf n.val) = a ++ b ∧ tget [] t.ae.outq (engOf n.val) = a ++ n.val :: b ∧
         (∀ m r, a = m :: r → ¬((slotOf t m).began = some s.port ∧ n.val < m) ∧ ∀ j ∈ r, j ≤ n.val) ∧
         (∀ m r, b = m :: r → n.val < m ∧ (a = [] → (slotOf t m).began = some s.port))) ∧
       (∀ y, x.ho = .byKind y → (slotOf t n.val).hoYa =
         (let f := rf s (slotHoctl n.val) aeHoctlTKIND
          let src := rf s (slotHoctl n.val) aeHoctlHOSRC
          if f = 1 then tget 0 s.ae.yOut (8 * src + rf s (slotHocfg src) aeHocfgHOY) else if f = 2 then y else rd s (slotHoman n.val))) ∧
       memRd t (ram ((sBase s n.val + 0x30) % 0x2000)) = tr.x ∧
       memRd t (ram ((sBase s n.val + 0x31) % 0x2000)) = BitVec.ofNat 48 tr.cyc ∧
       (∀ b, b ≠ ram ((sBase s n.val + 0x30) % 0x2000) → b ≠ ram ((sBase s n.val + 0x31) % 0x2000) → memRd t b = memRd s b) ∧
       RegsBut [slotSts n.val] s t ∧ SameBut [.ae, .mem, .regs, .free] s t
     RamWhole s (engOf n.val) →
     (s.ae.trigs.find? (fun p => p.1 == n.val) = some (i, e) → pdOn s (18 + engOf n.val) = true →
       let latched := trigLatch s n.val e
       let queued (t : State) : Prop := t.ae.trigs = s.ae.trigs.erase (i, e)
       (slotLive s n.val = false ∨ rb s (slotPhs n.val) aeSlotphsPARKED = true → Runs (.lawTrigger n) s (fun t => queued t ∧
         t.ae.slots = s.ae.slots ∧ SameBut [.ae] s t)) ∧
       (slotLive s n.val = true → rb s (slotPhs n.val) aeSlotphsPARKED = false →
         (x.skip ≠ 0 → Runs (.lawTrigger n) s (fun t => queued t ∧ slotOf t n.val = { x with skip := x.skip - 1 } ∧ SameBut [.ae] s t)) ∧
         (x.skip = 0 → monsOf s 1 n.val = [] →
           (phaseOf s n.val = 2 → x.parkAt = false → Runs (.lawTrigger n) s (fun t => queued t ∧ starts latched t ∧
             (slotOf t n.val).skip = rf s (slotCtl n.val) aeSlotctlDECIM)) ∧
           (phaseOf s n.val = 2 → x.parkAt = true → slotMuted s n.val = true → Runs (.lawTrigger n) s (fun t => queued t ∧
             rb t (slotPhs n.val) aeSlotphsPARKED = true ∧ phaseOf t n.val = 2 ∧ (slotOf t n.val).parking = false ∧
             (slotOf t n.val).parkAt = false ∧ (slotOf t n.val).held = none ∧
             RegsBut [slotPhs n.val, slotSts n.val] s t ∧ SameBut [.ae, .regs] s t)) ∧
           (phaseOf s n.val ≠ 2 → Runs (.lawTrigger n) s (fun t => queued t ∧
             slotOf t n.val = { x with held := some latched, skip := rf s (slotCtl n.val) aeSlotctlDECIM } ∧
             rb t (slotSts n.val) aeSlotstsLATEPRE = (rb s (slotSts n.val) aeSlotstsLATEPRE || phaseOf s n.val == 1) ∧
             rb t (slotSts n.val) aeSlotstsOVERRUN = (rb s (slotSts n.val) aeSlotstsOVERRUN || phaseOf s n.val != 1 || x.held.isSome) ∧
             RegsBut [slotSts n.val] s t ∧ SameBut [.ae, .regs] s t))))) ∧
     (lawStepWord s n.val 0x18 = some w →
       (x.held = some tr → Runs (.lawBar n) s (fun t => starts tr t ∧ (slotOf t n.val).pc = x.pc + 1)) ∧
       (x.held = none → Runs (.lawBar n) s (fun t => slotOf t n.val = { x with pc := x.pc + 1, began := none } ∧ SameBut [.ae, .regs] s t ∧
         RegsAre [withFld s (slotSts n.val) aeSlotstsPHASE 2] s t))) ∧
     (lawStepWord s n.val 0x19 = some w → monsOf s 1 n.val = [] → s.ae.rxImg.find? (fun p => p.1 == n.val) = none →
       (coefQ s (engOf n.val)).all (fun p => !inCoefArea s n.val p.1) = true →
       let seq := aeSlotseq (engOf n.val) (locOf n.val)
       let next := (rf s seq aeSlotseqSEQ + 1) % 2 ^ 47
       Runs (.lawEnd n) s (fun t => (∀ j < 0x28, img t j = own j) ∧ img t 0x28 = own 0x30 ∧ img t 0x29 = own 0x31 ∧
         img t 0x2B = BitVec.ofNat 48 next ∧ (∀ b, (∀ j < 0x2C, b ≠ ram (0x1C00 + 64 * locOf n.val + j)) → memRd t b = memRd s b) ∧
         slotOf t n.val = { x with pc := x.pc + 1, began := none, atPrime := true } ∧ Fires [0x280 + n.val] s t ∧ SameBut [.ae, .mem, .regs, .sem] s t ∧
         RegsAre [withFld s seq aeSlotseqSEQ next] s t)) ∧
     (pdOn s (18 + engOf n.val) = true → s.running = true → slotLive s n.val = true → x.atPrime = true →
       (x.stopping = true → x.again = false → Runs (.primePoint n) s (fun t => phaseOf t n.val = 0 ∧
         rb t (slotHoctl n.val) aeHoctlHOREQ = false ∧ rf t (slotHosts n.val) aeHostsLEFT = 0 ∧
         (slotOf t n.val).held = none ∧ (slotOf t n.val).atPrime = false)) ∧
       (x.stopping = false → x.parking = true → x.held = none → Runs (.primePoint n) s (fun t =>
         phaseOf t n.val = 2 ∧ (slotOf t n.val).parkAt = true ∧ (slotOf t n.val).atPrime = false ∧
         rb t (slotHosts n.val) aeHostsMANACT = rb s (slotHoctl n.val) aeHoctlMAN)) ∧
       (x.stopping = false → x.parking = false → rb s (slotCtl n.val) aeSlotctlADOPT = false → Runs (.primePoint n) s (fun t =>
         phaseOf t n.val = 1 ∧ (slotOf t n.val).pc = 0 ∧ (slotOf t n.val).atPrime = false ∧
         (slotOf t n.val).ref0 = refVal s n.val 0 ∧ (slotOf t n.val).ref1 = refVal s n.val 1 ∧
         (slotOf t n.val).ref2 = refVal s n.val 2 ∧ (slotOf t n.val).ref3 = refVal s n.val 3 ∧
         rb t (slotCtl n.val) aeSlotctlBANK = (rb s (slotCtl n.val) aeSlotctlBANK != rb s (slotCtl n.val) aeSlotctlBSWAP) ∧
         rb t (slotCtl n.val) aeSlotctlBSWAP = false ∧
         rb t (slotHosts n.val) aeHostsMANACT = rb s (slotHoctl n.val) aeHoctlMAN ∧
         (slotOf t n.val).winLo = rf s (slotAdtwin n.val) aeAdtwinELO ∧ (slotOf t n.val).winHi = rf s (slotAdtwin n.val) aeAdtwinEHI))))

/-- R49, R56, R67, R70, R71, R75, R79 to R81: what commands on a slot do: enabling after the check of its program, disabling, and the
requests and writes that take effect at the slot's prime point.
Where it rests on the model's choices and not on the specification alone, see log entries 5, 12, 23, 162, 168, 179. -/
def Obligations.SlotCommands : Prop :=
  ∀ (s : State) (q : Req) (n w : Fin 128) (e : Fin 8) (v : Word) (r i : Nat) (b : Bool),
    let g := engOf n.val
    let off := (cBase s n.val + w.val) % 0x2000
    let regs (c : Instr) (l : List (Nat × Word)) : Prop :=
      Runs c s (fun t => t.resp = ⟨0, 0⟩ ∧ RegsAre l s t ∧ SameBut [.regs, .resp] s t)
    pdOn s (18 + g) = true → RamWhole s g →
    (holdsType s q 2 = true →
      (rb s (slotCtl n.val) aeSlotctlEN = false → slotLive s n.val = false →
        (progCheck s n.val = none → rb s (slotPhs n.val) aeSlotphsPARKED = false →
          (coefQ s g).all (fun p => !inCoefArea s n.val p.1) = true → Runs (.slotEnable q n) s (fun t =>
            rb t (slotCtl n.val) aeSlotctlEN = true ∧ phaseOf t n.val = 1 ∧ rf t (aeSlotseq g (locOf n.val)) aeSlotseqSEQ = 0 ∧
            (slotOf t n.val).atPrime = true ∧ (slotOf t n.val).first = true ∧
            (∀ a, memRd t a = if a = ramAddr g ((sBase s n.val + 0x31) % 0x2000) then 0 else memRd s a) ∧
            RegsBut ([slotCtl n.val, slotSts n.val, aeSlotseq g (locOf n.val)] ++ (List.range 8).map (adtAddr n.val)) s t ∧
            SameBut [.regs, .mem, .ae, .resp] s t)) ∧
        (progCheck s n.val = some (r, i) → i < 64 → Runs (.slotEnable q n) s (fun t =>
          rb t (slotCtl n.val) aeSlotctlEN = false ∧ rb t (slotSts n.val) aeSlotstsFORM = true ∧
          rf t (aeFormerr g) aeFormerrSLOT = locOf n.val ∧ rf t (aeFormerr g) aeFormerrSTEP = i ∧
          rf t (aeFormerr g) aeFormerrREASON = r ∧ RegsBut [slotCtl n.val, slotSts n.val, aeFormerr g] s t ∧ SameBut [.regs, .resp] s t))) ∧
      (rb s (slotCtl n.val) aeSlotctlEN = true → monsOf s 1 n.val = [] →
        (phaseOf s n.val = 2 → (coefQ s g).all (fun p => !inCoefArea s n.val p.1) = true → Runs (.slotDisable q n) s (fun t =>
          rb t (slotCtl n.val) aeSlotctlEN = false ∧ phaseOf t n.val = 0 ∧ rb t (slotHoctl n.val) aeHoctlHOREQ = false ∧
          (slotOf t n.val).held = none ∧ RegsBut [slotCtl n.val, slotSts n.val, slotHoctl n.val, slotHosts n.val] s t ∧
          SameBut [.regs, .ae, .resp] s t)) ∧
        (phaseOf s n.val = 1 → Runs (.slotDisable q n) s (fun t => slotOf t n.val = { slotOf s n.val with stopping := true, again := false } ∧
          RegsAre [withFld s (slotCtl n.val) aeSlotctlEN 0] s t ∧ SameBut [.regs, .ae, .resp] s t))) ∧
      regs (.manualModeWrite q n b) [withFld s (slotHoctl n.val) aeHoctlMAN (b2n b)] ∧
      regs (.cbmodeWrite q n b) [withFld s (slotCtl n.val) aeSlotctlCBMODE (b2n b)] ∧
      (slotLive s n.val = false ∨ rbit s (slotAdtcfg n.val) aeAdtcfgADTEN e.val = false ∨ aeTmplS.get v = 0 ∨ aeTmplS.get v = 3 →
        regs (.templateWrite q n e v) [(tmplAddr n.val e.val, v)]) ∧
      (slotLive s n.val = true → rbit s (slotAdtcfg n.val) aeAdtcfgADTEN e.val = true → aeTmplS.get v = 1 ∨ aeTmplS.get v = 2 →
        regs (.templateWrite q n e v) [(tmplAddr n.val e.val, v), withFld s (adtAddr n.val e.val) aeAdtvalDT
          (min (max (aeTmplDT.get v) (slotOf s n.val).winLo) (slotOf s n.val).winHi)])) ∧
    regs (.slotAdopt n) [withFld s (slotCtl n.val) aeSlotctlADOPT 1] ∧
    (slotLive s n.val = true → regs (.bswap n) [withFld s (slotCtl n.val) aeSlotctlBSWAP 1]) ∧
    (slotLive s n.val = false → Runs (.bswap n) s (fun t => rb t (slotCtl n.val) aeSlotctlBANK = !rb s (slotCtl n.val) aeSlotctlBANK ∧
      rb t (slotCtl n.val) aeSlotctlBSWAP = false ∧ RegsBut [slotCtl n.val] s t ∧ SameBut [.regs, .resp] s t)) ∧
    (rb s (slotHoctl n.val) aeHoctlHOREQ = false → Runs (.horeq n) s (fun t =>
      RegsAre [withFld s (slotHoctl n.val) aeHoctlHOREQ 1] s t ∧ slotOf t n.val = { slotOf s n.val with noTake := false } ∧
      SameBut [.regs, .ae, .resp] s t)) ∧
    (0x1C00 ≤ off → Runs (.coefWrite n w v) s (fun t => t.resp = ⟨0, 0⟩ ∧
      RegsAre [withFld s (slotSts (16 * g + (off - 0x1C00) / 64 % 16)) aeSlotstsLOCKV 1] s t ∧ SameBut [.regs, .resp] s t)) ∧
    (off < 0x1C00 → (∃ m ∈ liveSlots s g, inProgram s m off = true) → Runs (.coefWrite n w v) s (fun t => t.resp = ⟨0, 0⟩ ∧
      (∀ m ∈ liveSlots s g, inProgram s m off = true → rb t (slotSts m) aeSlotstsLOCKV = true) ∧
      RegsBut (((liveSlots s g).filter (fun m => inProgram s m off)).map slotSts) s t ∧ SameBut [.regs, .resp] s t)) ∧
    (off < 0x1C00 → (liveSlots s g).find? (fun m => inProgram s m off) = none →
      ((liveSlots s g).find? (fun m => inActiveBank s m off) = none → Runs (.coefWrite n w v) s (fun t =>
        (∀ a, memRd t a = if a = ramAddr g off then v else memRd s a) ∧ SameBut [.mem, .resp] s t)) ∧
      (∀ m, (liveSlots s g).find? (fun m => inActiveBank s m off) = some m → (slotOf s m).cbMode = false →
        (coefQ s g).any (fun p => p.1 == off) = false →
        ((coefQ s g).length < 16 → Runs (.coefWrite n w v) s (fun t => t.resp = ⟨0, 0⟩ ∧ coefQ t g = coefQ s g ++ [(off, v)] ∧
          RegsAre [withFld s (aeCqsts g) aeCqstsUSED ((coefQ s g).length + 1)] s t ∧ SameBut [.regs, .ae, .resp] s t)) ∧
        (16 ≤ (coefQ s g).length → Runs (.coefWrite n w v) s (fun t => t.resp = ⟨1, 0⟩ ∧ coefQ t g = coefQ s g ∧
          RegsAre [counted s (aeCqsts g) aeCqstsFULL] s t ∧ SameBut [.regs, .resp] s t))))

/-- R85, R86: a load of a phase group makes one member active or lets one go: of the parked members the one of lowest rank, of the active
ones that of highest; equal ranks leave from the highest slot number and come back from the lowest.
Where it rests on the model's choices and not on the specification alone, see log entries 4, 26, 27, 163, 179, 180. -/
def Obligations.PhaseGroups : Prop :=
  ∀ (s : State) (g : Fin 4) (i : Nat) (l : Word),
    let ctl := aePhsctl g.val
    let ms := phsMembers s g.val
    let act := ms.filter (fun n => !slotShed s n)
    let cap := sint (rd s (aePhscap g.val))
    let need := if sint l ≤ 0 then rf s ctl aePhsctlSPARE else if cap ≤ 0 then ms.length
      else ((sint l + cap - 1) / cap).toNat + rf s ctl aePhsctlSPARE
    let target := min (min (max need (rf s (aePhswin g.val) aePhswinELO)) (rf s (aePhswin g.val) aePhswinEHI)) ms.length
    let low := tget 0 s.ae.lows g.val
    s.ae.loads.find? (fun p => p.1 == g.val) = some (i, l) → pdOn s 18 = true →
    (rb s ctl aePhsctlEN = false ∨ rb s ctl aePhsctlFREEZE = true → Runs (.phaseGroupUpdate g) s (fun t =>
      t.ae = { s.ae with loads := s.ae.loads.erase (i, l) } ∧ SameBut [.ae] s t)) ∧
    (rb s ctl aePhsctlEN = true → rb s ctl aePhsctlFREEZE = false →
      (act.length < target → Runs (.phaseGroupUpdate g) s (fun t => ∃ k ∈ ms, slotShed s k = true ∧
        (∀ j ∈ ms, slotShed s j = true → rankOf s k < rankOf s j ∨ (rankOf s k = rankOf s j ∧ k ≤ j)) ∧
        slotShed t k = false ∧ (slotOf t k).unpark = some (rd s (aePhspre g.val)) ∧ (∀ j, j ≠ k → slotOf t j = slotOf s j) ∧
        rf t (aePhssts g.val) aePhsstsACTIVE = act.length + 1 ∧ tget 0 t.ae.lows g.val = 0)) ∧
      (target < act.length → max 1 (rf s ctl aePhsctlDWELL) ≤ low + 1 → Runs (.phaseGroupUpdate g) s (fun t => ∃ k ∈ act,
        (∀ j ∈ act, rankOf s j < rankOf s k ∨ (rankOf s j = rankOf s k ∧ j ≤ k)) ∧
        slotOf t k = { slotOf s k with parking := true } ∧ (∀ j, j ≠ k → slotOf t j = slotOf s j) ∧
        rf t (aePhssts g.val) aePhsstsACTIVE = act.length - 1 ∧ tget 0 t.ae.lows g.val = 0)) ∧
      (target < act.length → low + 1 < max 1 (rf s ctl aePhsctlDWELL) → Runs (.phaseGroupUpdate g) s (fun t =>
        (∀ j, slotOf t j = slotOf s j) ∧ tget 0 t.ae.lows g.val = low + 1)) ∧
      (act.length = target → Runs (.phaseGroupUpdate g) s (fun t => (∀ j, slotOf t j = slotOf s j) ∧ tget 0 t.ae.lows g.val = 0)))

/-- R91 to R98, R105, R106, R108: a cell is enabled after its check and disabled; it takes triggers; an evaluation queued first goes to a
free lane with the winner of its search, whose posting is formed when it completes. R93, R94: the search takes a candidate of least cost
among those that are not excluded, the first of equals, and fails only where all are excluded.
Where it rests on the model's choices and not on the specification alone, see log entries 4, 28, 29, 30, 32, 169, 185, 187. -/
def Obligations.PredictorCells : Prop :=
  (∀ (s : State) (q : Req) (c : Fin 8) (rest : List (Nat × Nat)) (i l pres at_ start : Nat) (tr : DmStart),
     let x := cellOf s c.val
     let safes (t : State) : Prop := SameBut [.regs, .ssp, .resp] s t
     (pdOn s 26 = true → holdsType s q 3 = true → monsOf s 2 c.val = [] →
       (rb s (sspCcfg c.val) sspCcfgEN = false →
         (cellCheck s c.val = true → Runs (.sspCellEnable q c) s (fun t => t.resp = ⟨0, 0⟩ ∧ cellOf t c.val = 
           { Cell.off with rtrq := x.rtrq, armrq := x.armrq, regnt := x.regnt } ∧
           (∀ j < 8, tget 0 t.ssp.x (8 * c.val + j) = 0) ∧ safes t ∧
           RegsAre [withFld s (sspCcfg c.val) sspCcfgEN 1, withFld s (sspCres c.val) sspCresVALID 0] s t)) ∧
         (cellCheck s c.val = false → Runs (.sspCellEnable q c) s (fun t => t.resp = ⟨0, 0⟩ ∧ SameBut [.regs, .resp] s t ∧
           RegsAre [withFld s (sspCsts c.val) sspCstsFORM 1] s t))) ∧
       (rb s (sspCcfg c.val) sspCcfgEN = true → Runs (.sspCellDisable q c) s (fun t => t.resp = ⟨0, 0⟩ ∧
         cellOf t c.val = { x with queued := none, held := none } ∧ (∀ d ∈ t.ssp.queue, d.1 ≠ c.val) ∧
         (∀ r ∈ t.ssp.runs, r.cell = c.val → r.dead = true) ∧ (∀ r ∈ t.ssp.repls, r.cell ≠ c.val) ∧
         (∀ r ∈ t.ssp.reqs, r.cell = c.val → r.repl = none) ∧ (∀ r ∈ t.ssp.outs, r.cell ≠ c.val) ∧ safes t ∧
         RegsAre [withFld s (sspCcfg c.val) sspCcfgEN 0] s t))) ∧
     (s.ssp.ins.find? (fun p => p.1 / 8 == c.val) = some (i, tr) → pdOn s 26 = true →
       rb s (sspCcfg c.val) sspCcfgEN = true → monsOf s 2 c.val = [] →
       let took (t : State) : Prop := t.ssp.ins = s.ssp.ins.erase (i, tr) ∧ SameBut [.regs, .ssp] s t
       let d := rf s (sspCcfg c.val) sspCcfgDECIM
       (x.skip ≠ 0 → Runs (.sspTrigger c) s (fun t => took t ∧ cellOf t c.val = { x with skip := x.skip - 1 } ∧
         t.ssp.queue = s.ssp.queue ∧ t.regs = s.regs)) ∧
       (x.skip = 0 → cellRunning s c.val = true → Runs (.sspTrigger c) s (fun t => took t ∧
         cellOf t c.val = { x with skip := d, held := some (tr, s.port) } ∧ t.ssp.queue = s.ssp.queue ∧
         RegsAre [withFld s (sspCsts c.val) sspCstsOVERRUN 1] s t)) ∧
       (x.skip = 0 → cellRunning s c.val = false → cellQueued s c.val = true → Runs (.sspTrigger c) s (fun t => took t ∧
         cellOf t c.val = { x with skip := d, queued := some (tr, s.port) } ∧ t.ssp.queue = s.ssp.queue ∧
         RegsAre [withFld s (sspCsts c.val) sspCstsOVERRUN 1] s t)) ∧
       (x.skip = 0 → cellRunning s c.val = false → cellQueued s c.val = false → Runs (.sspTrigger c) s (fun t => took t ∧
         cellOf t c.val = { x with skip := d, queued := some (tr, s.port) } ∧ t.regs = s.regs ∧
         (let before (y : Nat × Nat) : Prop := 4 * s.port < y.2 ∨ (y.2 = 4 * s.port ∧ c.val < y.1)
          ∃ a b, s.ssp.queue = a ++ b ∧ t.ssp.queue = a ++ (c.val, 4 * s.port) :: b ∧ (∀ y ∈ a, ¬before y) ∧ ∀ y r, b = y :: r → before y)))) ∧
     (s.ssp.queue = (c.val, at_) :: rest → x.queued = some (tr, pres) → freeLane s (dispatchFrom s pres at_) = some (l, start) → pdOn s 26 = true → s.running = true →
       let x0 := (List.range (cellNx s c.val)).map (fun i => sint (tget 0 s.ssp.x (8 * c.val + i)))
       let e := sspEval s c.val (cellBase s c.val) x0 ((List.range (cellNx s c.val)).map (cellRef s c.val))
       Runs .sspDispatch s (fun t => (∃ r : SspRun, t.ssp.runs = s.ssp.runs ++ [r] ∧ r.lane = l ∧ r.cell = c.val ∧
           r.base = cellBase s c.val ∧ r.p = cellTarget s c.val tr ∧ r.trig = tr ∧ r.win = e.win ∧ r.cost = e.cost ∧
           r.ends = start + sspCycles s c.val ∧ r.ends + 2 ≤ 4 * r.done ∧ 4 * r.done < r.ends + 6 ∧ r.dead = false) ∧
         t.ssp.queue = rest ∧ cellOf t c.val = { x with queued := none, regnt := false } ∧ rbit t sspCtrl sspCtrlBUSY l = true ∧
         RegsBut [sspCsts c.val, sspCtrl] s t ∧ SameBut [.regs, .ssp] s t))) ∧
  (∀ (s : State) (f l start : Nat), freeLane s f = some (l, start) → l ∈ lanesOn s ∧ f ≤ start ∧ start < 4 * s.port + 4 ∧ laneFrom s l ≤ start ∧
     (∀ k ∈ lanesOn s, k < l → start < laneFrom s k) ∧ (f < start → ∀ k ∈ lanesOn s, start ≤ laneFrom s k)) ∧
  (∀ (s : State) (c : Fin 8) (wa : Nat) (x r : List Int),
     let e := sspEval s c.val wa x r
     (e.win = none ↔ ∀ k < cellCands s c.val, candExcluded s c.val wa k = true) ∧
     let cost (k : Nat) : Nat := min (sspCostAt s c.val wa (sspMid s c.val wa x r) k) (2 ^ 80 - 1)
     ∀ k d, e.win = some (k, d) → k < cellCands s c.val ∧ d = cellCand s c.val k ∧ candExcluded s c.val wa k = false ∧ e.cost = cost k ∧
       ∀ j < cellCands s c.val, candExcluded s c.val wa j = false → cost k ≤ cost j ∧ (j < k → cost k < cost j))

/-- R28, R29, R101 to R104: postings are retracted and armed on request, and arm in their arm cycle.
Where it rests on the model's choices and not on the specification alone, see log entries 4, 29, 32, 170, 185, 186. -/
def Obligations.PredictorPostings : Prop :=
  ∀ (s : State) (c : Fin 8) (g : Fin 32) (x : Posting),
    let cells := (s.ssp.posts.filter (fun y => y.tag == g.val && !y.gone)).map (fun y => y.cell)
    let same (t : State) : Prop := t.resp = ⟨0, 0⟩ ∧ t.ssp = { s.ssp with cells := t.ssp.cells } ∧
      (∀ j, j ≠ c.val → cellOf t j = cellOf s j) ∧ SameBut [.ssp, .regs, .resp] s t
    (pdOn s 26 = true → earliestPost s c.val = some x →
      Runs (.sspRtrq c) s (fun t => same t ∧ cellOf t c.val = { cellOf s c.val with rtrq := some x.tag } ∧
        RegsAre [withFld s (sspCcfg c.val) sspCcfgRTRQ 1] s t) ∧
      Runs (.sspArmrq c) s (fun t => same t ∧ cellOf t c.val = { cellOf s c.val with armrq := some x.tag } ∧
        RegsAre [withFld s (sspCcfg c.val) sspCcfgARMRQ 1] s t)) ∧
    (pdOn s 26 = true → earliestPost s c.val = none →
      Runs (.sspRtrq c) s (fun t => t.resp = ⟨0, 0⟩ ∧ SameBut [.resp] s t) ∧ Runs (.sspArmrq c) s (fun t => t.resp = ⟨0, 0⟩ ∧ SameBut [.resp] s t)) ∧
    (∀ y, earliestPost s c.val = some y → y ∈ cellPosts s c.val ∧ postArmed s y = false ∧
      ∀ z ∈ cellPosts s c.val, postArmed s z = false → y.p ≤ z.p) ∧
    (∀ r : SspReq, s.cvp.tags.any (fun l => l.tag == r.tag) = true → monsOf s 2 r.cell = [] →
      let t := sspStrobe s r
      (r.retr = true → retractLate s r.tag r.cyc = false →
        t.cvp.tags = s.cvp.tags.map (fun l => if l.tag == r.tag then { l with gone := true } else l) ∧
        (∀ l ∈ s.cvp.tags, l.tag = r.tag → tget (0, 0) t.cvp.retrOut l.lane = (r.tag, s.port + 1)) ∧
        (∀ y ∈ t.ssp.posts, y.tag = r.tag → y.gone = true) ∧ t.ssp.repls = s.ssp.repls ++ r.repl.toList ∧ SameBut [.cvp, .ssp] s t) ∧
      (r.retr = true → r.arm = false → retractLate s r.tag r.cyc = true → t.cvp = s.cvp ∧
        rb t (sspCsts r.cell) sspCstsLATERETRACT = true ∧ rb t cvpEvsts cvpEvstsLATERETRACT = true ∧
        rf t cvpLaterec cvpLaterecTAG = r.tag % 32 ∧ rf t cvpLaterec cvpLaterecREQCYC = r.cyc % 65536 ∧ Fires [0x098] s t ∧
        RegsBut [sspCsts r.cell, sspCcnt r.cell, cvpEvsts, cvpEvcnt, cvpLaterec] s t ∧ SameBut [.sem, .regs] s t) ∧
      (r.retr = false → (∀ l ∈ s.cvp.tags, l.tag = r.tag → l.armed = false → l.gone = false → tget (0, 0) t.cvp.armOut l.lane = (r.tag, s.port + 1)) ∧
        t.cvp.tags = s.cvp.tags.map (fun l => if l.tag == r.tag && !l.armed && !l.gone then { l with early := true } else l) ∧ SameBut [.cvp] s t)) ∧
    (s.running = true → armDue s g.val = true →
      (s.ssp.posts.any (fun y => y.tag == g.val && !y.left) = false → Runs (.tagArmCycle g) s (fun t =>
        (∀ l ∈ t.cvp.tags, l.tag = g.val → l.early = false ∧ (l.armed = true ∨ l.gone = true)) ∧
        Fires (cells.map (fun c => 0x090 + c)) s t ∧ SameBut [.cvp, .ssp, .sem] s t)) ∧
      (s.ssp.posts.any (fun y => y.tag == g.val && !y.left) = true → Runs (.tagArmCycle g) s (fun t =>
        (∀ l ∈ t.cvp.tags, l.tag ≠ g.val) ∧ (∀ y ∈ t.ssp.posts, y.tag ≠ g.val) ∧
        Fires (cells.map (fun c => 0x090 + c)) s t ∧ SameBut [.cvp, .ssp, .sem] s t)))

/-- R115, R116, R118, R121 to R127: a deadline that passes is a miss, and so is a gap; the record goes to the log and to the monitor's last
record, the miss is counted, its owner faults, and the reaction holds, makes safe or escalates. An end in time, the clearing of a miss, and
enabling.
Where it rests on the model's choices and not on the specification alone, see log entries 4, 32, 33, 34, 189. -/
def Obligations.Deadlines : Prop :=
  ∀ (s : State) (m : Fin 256) (q : Req) (c : DmCheck) (f : Nat),
    let x := monOf s m.val
    let kind := rf s (dmCfg m.val) dmCfgKIND
    let subj := rf s (dmCfg m.val) dmCfgSUBJ
    let who := if kind = 2 then subj % 8 else subj
    let hold := rf s (dmSts m.val) dmStsHOLDRUN
    let react := if rf s (dmCfg m.val) dmCfgREACT = 0 then (if hold < rf s (dmCfg m.val) dmCfgHOLDMAX then 0 else 1)
      else if rf s (dmCfg m.val) dmCfgREACT = 1 then 1 else 2
    let i := rf s pctlDmlogptr pctlDmlogptrWR
    let misses (reason start : Nat) (t : State) : Prop :=
      let w1 := BitVec.ofNat 48 (m.val * 2 ^ 40 + kind * 2 ^ 38 + subj * 2 ^ 31 + reason * 2 ^ 28 + react * 2 ^ 26)
      let rec_ := [btime s, w1, BitVec.ofNat 48 start, 0]
      (∀ j < 4, rd t (pctlDmlog i j) = rec_.getD j 0 ∧ rd t (pctlDmlast m.val j) = rec_.getD j 0) ∧
      rf t pctlDmlogptr pctlDmlogptrWR = (i + 1) % 64 ∧ rb t (dmSts m.val) dmStsMISS = true ∧
      rf t (dmSts m.val) dmStsMISSES = min 4095 (rf s (dmSts m.val) dmStsMISSES + 1) ∧
      rb t (dmSts m.val) dmStsSAFEACT = (rb s (dmSts m.val) dmStsSAFEACT || react != 0 || x.relAt == s.port + 1) ∧
      rf t (dmSts m.val) dmStsHOLDRUN = (if react = 0 then min 7 (hold + 1) else hold) ∧
      (∀ p < 256, react ≠ 0 → kind = 1 ∨ kind = 2 → owns s kind who p = true → rnSafe t p = true) ∧
      (∀ p < 256, react ≠ 0 → kind = 3 →
        rbit s (cvpTgmask (rf s (dmCfg m.val) dmCfgTGRP) (p / 32)) cvpTgmaskMASK (p % 32) = true → rnSafe t p = true) ∧
      t.sig.asyncs = s.sig.asyncs ++ (if rf s (dmCfg m.val) dmCfgOWNER < 8 then [(rf s (dmCfg m.val) dmCfgOWNER, 0x3B, w1)] else []) ∧
      t.intc.strobes = s.intc.strobes ++ (if react = 2 then [447] else []) ∧
      t.sig.evs = s.sig.evs ++ (if react = 2 then [⟨1, rec_⟩] else []) ∧
      t.sem = { (semFire s (0x020 + m.val / 16)).sem with
        pulse := (let p := (m.val / 16, s.port + 2); if s.sem.pulse.contains p then s.sem.pulse else s.sem.pulse ++ [p]) } ∧
      RegsBut ([dmSts m.val, pctlDmlogptr, dbgTrptr, jneCnt] ++ (List.range 8).map cvpSafests ++
        (List.range 4).map (pctlDmlog i) ++ (List.range 4).map (pctlDmlast m.val)) s t ∧
      SameBut [.regs, .dm, .sig, .sem, .intc, .cvp] s t
    let noEdges := rf s (dmCfg m.val) dmCfgREACT ≠ 0 ∨ rf s (dmCfg m.val) dmCfgHOLDMAX ≤ hold ∨ kind = 0 ∨ kind = 3
    (s.running = true → x.chk = some c → c.missed = false → c.dl < s.port → noEdges →
      (subjOff s m.val = false ∨ x.pend = none) → Runs (.deadlineMiss m) s (fun t => misses 0 c.start.at_ t ∧
        (subjOff s m.val = false → ∃ e, (monOf t m.val).chk = some { c with missed := true, logged := e }) ∧
        (subjOff s m.val = true → x.pend = none → (monOf t m.val).chk = none ∧ rb t (dmSts m.val) dmStsSUSP = true))) ∧
    (s.running = true → x.gapFrom = some f → x.gapLen ≠ 0 → f + x.gapLen < s.port → noEdges →
      Runs (.dmGap m) s (fun t => misses 3 f t ∧ (monOf t m.val).gapFrom = some s.port ∧ (monOf t m.val).gapLen = rf s (dmBud m.val) dmBudGAP ∧ (monOf t m.val).chk = x.chk)) ∧
    (x.chk = some c → x.pend = none → kind = 3 → rf s (dmCfg m.val) dmCfgOWNER < 8 → rf s (dmCfg m.val) dmCfgOWNER = q.who.val →
      c.missed = false → s.port ≤ c.dl → rb s (dmSts m.val) dmStsSAFEACT = false →
      Runs (.pctlDmdone q m) s (fun t => t.resp = ⟨0, 0⟩ ∧ (monOf t m.val).chk = none ∧
        RegsAre [withFld s (dmSts m.val) dmStsHOLDRUN 0] s t ∧ SameBut [.regs, .dm, .resp] s t)) ∧
    (kind ≠ 3 ∨ 8 ≤ rf s (dmCfg m.val) dmCfgOWNER ∨ rf s (dmCfg m.val) dmCfgOWNER ≠ q.who.val ∨ x.chk = none →
      Runs (.pctlDmdone q m) s (fun t => t.resp = ⟨0, 0⟩ ∧ RegsAre [withFld s (dmSts m.val) dmStsDONEV 1] s t ∧ SameBut [.regs, .resp] s t)) ∧
    (setsAt s (dmSts m.val) (dmStsMISS.put 0 1) = [] → Runs (.dmMissClear m) s (fun t => t.resp = ⟨0, 0⟩ ∧ rb t (dmSts m.val) dmStsMISS = false ∧
      rb t (dmSts m.val) dmStsSAFEACT = (rb s (dmSts m.val) dmStsSAFEACT && x.missAt == s.port + 1) ∧
      monOf t m.val = (if rb s (dmSts m.val) dmStsSAFEACT then { x with relAt := s.port + 1 } else x) ∧
      RegsBut [dmSts m.val] s t ∧ SameBut [.regs, .dm, .resp] s t)) ∧
    (setsAt s (dmSts m.val) (dmStsMISS.put 0 1) ≠ [] → Runs (.dmMissClear m) s (fun t => t.resp = ⟨0, 0⟩ ∧
      (monOf t m.val = x ∨ monOf t m.val = { x with relAt := s.port + 1 }) ∧
      RegsBut [dmSts m.val] s t ∧ SameBut [.regs, .dm, .resp, .free] s t)) ∧
    (holdsType s q 13 = true → rb s (dmCfg m.val) dmCfgEN = false →
      Runs (.dmEnable q m) s (fun t => t.resp = ⟨0, 0⟩ ∧ rd t (dmCfg m.val) = (withFld s (dmCfg m.val) dmCfgEN 1).2 ∧
        rb t (dmSts m.val) dmStsSUSP = subjOff s m.val ∧ rf t (dmSts m.val) dmStsHOLDRUN = 0 ∧
        (monOf t m.val).gapFrom = (if subjOff s m.val then none else some s.port) ∧
        (subjOff s m.val = false → (monOf t m.val).gapLen = rf s (dmBud m.val) dmBudGAP) ∧
        RegsBut [dmCfg m.val, dmSts m.val] s t ∧ SameBut [.regs, .dm, .resp] s t))

/-- R112 to R114: journal time is set and read, and a cadence generator ticks.
Where it rests on the model's choices and not on the specification alone, see log entries 4, 12, 32. -/
def Obligations.TimeAndCadence : Prop :=
  ∀ (s : State) (q : Req) (g : Fin 16) (v : Word),
    let ns := s.dm.setNs * 2 ^ 32
    let back := v.toNat < s.dm.jtSec ∨ (v.toNat = s.dm.jtSec ∧ ns < s.dm.jtNs)
    let staged (t : State) : Prop := t.resp = ⟨0, 0⟩ ∧
      t.dm = { s.dm with setNs := min (v.toNat % 2 ^ 32) 999999999, setStep := v.getLsbD 47 }
    let met := v.getLsbD 46 = true ∧ setsAt s pctlJtns (pctlJtnsJTBACK.put 0 1) ≠ []
    (holdsType s q 13 = true →
      (¬ met → Runs (.jtnsWrite q v) s (fun t => staged t ∧ SameBut [.regs, .dm, .resp] s t ∧
        RegsAre (if v.getLsbD 46 then [withFld s pctlJtns pctlJtnsJTBACK 0] else []) s t)) ∧
      (met → Runs (.jtnsWrite q v) s (fun t => staged t ∧ SameBut [.regs, .dm, .resp, .free] s t ∧ RegsBut [pctlJtns] s t)) ∧
      (¬ back ∨ s.dm.setStep = true → Runs (.jtsecWrite q v) s (fun t => t.resp = ⟨0, 0⟩ ∧
        t.dm = { s.dm with jtSet := some (v.toNat, ns), setStep := false } ∧ SameBut [.dm, .resp] s t)) ∧
      (back → s.dm.setStep = false → Runs (.jtsecWrite q v) s (fun t => t.resp = ⟨0, 0⟩ ∧ t.dm = s.dm ∧
        RegsAre [withFld s pctlJtns pctlJtnsJTBACK 1] s t ∧ SameBut [.regs, .resp] s t)) ∧
      (rb s (pctlCgctl g.val) pctlCgctlEN = false → monsOf s 3 g.val = [] → Runs (.cgEnable q g) s (fun t => t.resp = ⟨0, 0⟩ ∧
        cgDue t g.val = false ∧ RegsAre [withFld s (pctlCgctl g.val) pctlCgctlEN 1] s t ∧ SameBut [.regs, .dm, .resp] s t))) ∧
    Runs .jtsecRead s (fun t => t.resp = ⟨0, BitVec.ofNat 48 s.dm.jtSec⟩ ∧
      t.dm = { s.dm with latchNs := s.dm.jtNs / 2 ^ 32, latchBt := btime s } ∧ SameBut [.dm, .resp] s t) ∧
    (cgDue s g.val = true → monsOf s 3 g.val = [] → Runs (.cadenceTick g) s (fun t => Fires [0x010 + g.val] s t ∧ cgDue t g.val = false ∧
      SameBut [.regs, .dm, .sem] s t ∧
      RegsAre [if rb s (pctlCgctl g.val) pctlCgctlTICK then counted s (pctlCgctl g.val) pctlCgctlMISSED
        else withFld s (pctlCgctl g.val) pctlCgctlTICK 1] s t))

/-- R128 to R137: the oldest producer event reaches the consumer of the channel that selects it: a law slot, an interrupt source or a
core's event flag, else it is dropped and counted; events of a CORE-clocked producer merge at a FABRIC consumer. Software fires producers.
R130, R136 to R139: a channel write that passes the checks takes effect with the binding of its consumer, and one that fails writes nothing
and sets a flag; trip groups are frozen, and their terms followed at once.
Where it rests on the model's choices and not on the specification alone, see log entries 4, 36, 37, 38, 172. -/
def Obligations.EventMatrix : Prop :=
  (∀ (s : State) (half : Bool) (p c : Nat) (r : List Nat) (v : BitVec 32),
     let cons := rf s (semChcfg c) semChcfgCONS
     let now := 2 * s.port + b2n half + 1
     let merges := fabricConsumer cons && tget 0 s.sem.last c == now
     let only := c < 256 ∧ ∀ d < 256, (rb s (semChcfg d) semChcfgEN && rf s (semChcfg d) semChcfgPSEL == p) = (d == c)
     let taken (t : State) : Prop := t.sem = { s.sem with fired := r, last := t.sem.last }
     let accepts := pdOn s (18 + cons / 16) && rf s (slotSrc cons) aeSlotsrcTRIG == 1 && rf s (slotSrc cons) aeSlotsrcSECH == c
     (s.sem.fired = p :: r →
       (pdOn s 50 = false ∨ (∀ d < 256, (rb s (semChcfg d) semChcfgEN && rf s (semChcfg d) semChcfgPSEL == p) = false) →
         Runs (.semEvent half) s (fun t => t.sem = { s.sem with fired := r } ∧ SameBut [.sem] s t)) ∧
       (pdOn s 50 = true → only →
         (merges = true → Runs (.semEvent half) s (fun t => taken t ∧ RegsAre [counted s (semChsts c) semChstsMERGE] s t ∧
           SameBut [.sem, .regs] s t)) ∧
         (merges = false →
           (cons < 0x80 → accepts = true → Runs (.semEvent half) s (fun t => taken t ∧
             (∃ at_, t.ae = { s.ae with trigs := s.ae.trigs ++ [(cons, .event at_)] } ∧
               (half = false ∨ (softProducer p = false ∧ coreClocked p = false) → at_ = s.port) ∧
               (half = true → softProducer p = true → at_ = s.port + 1) ∧ (at_ = s.port ∨ at_ = s.port + 1)) ∧
             RegsAre [counted s (semChsts c) semChstsCNT] s t ∧ SameBut [.sem, .regs, .ae, .free] s t)) ∧
           (cons < 0x80 → accepts = false → Runs (.semEvent half) s (fun t => taken t ∧
             RegsAre [counted s (semChsts c) semChstsDROP] s t ∧ SameBut [.sem, .regs] s t)) ∧
           (0x80 ≤ cons → cons < 0xC0 → Runs (.semEvent half) s (fun t => taken t ∧
             t.intc = { s.intc with strobes := s.intc.strobes ++ [256 + (cons - 0x80)] } ∧
             RegsAre [counted s (semChsts c) semChstsCNT] s t ∧ SameBut [.sem, .regs, .intc] s t)) ∧
           (0xC0 ≤ cons → cons < 0xE8 → let k := (cons - 0xC0) / 4
             (pdOn s (coreDomain k) = true → Runs (.semEvent half) s (fun t => taken t ∧
               (coreOf t k).ef.testBit ((cons - 0xC0) % 4) = true ∧ (∀ j, j ≠ k → coreOf t j = coreOf s j) ∧
               RegsAre [counted s (semChsts c) semChstsCNT] s t ∧ SameBut [.sem, .regs, .cores] s t)) ∧
             (pdOn s (coreDomain k) = false → Runs (.semEvent half) s (fun t => taken t ∧
               RegsAre [counted s (semChsts c) semChstsDROP] s t ∧ SameBut [.sem, .regs] s t))) ∧
           (0xE8 ≤ cons → cons < 0xEC → pdOn s 55 = false → Runs (.semEvent half) s (fun t => taken t ∧
             RegsAre [counted s (semChsts c) semChstsDROP] s t ∧ SameBut [.sem, .regs] s t)) ∧
           (0xE8 ≤ cons → cons < 0xEC → pdOn s 55 = true → Runs (.semEvent half) s (fun t => taken t ∧
             rd t (semChsts c) = (counted s (semChsts c) semChstsCNT).2 ∧ RegsBut [semChsts c, dbgTrctl, dbgTrptr] s t ∧
             SameBut [.sem, .regs, .sig] s t)) ∧
           (0xEC ≤ cons → Runs (.semEvent half) s (fun t => taken t ∧ SameBut [.sem] s t))))) ∧
     (pdOn s 50 = true → Runs (.semSwev v) s (fun t => t.resp = ⟨0, 0⟩ ∧
       Fires (((List.range 32).filter (fun k => v.toNat.testBit k)).map (fun k => 0x0C0 + k)) s t ∧ SameBut [.sem, .resp] s t))) ∧
  (∀ (s : State) (q : Req) (n : Fin 256) (g : Fin 16) (w : Fin 3) (v : Word) (b : BitVec 16),
     let old := rf s (semChcfg n.val) semChcfgCONS
     let cons := semChcfgCONS.get v
     let en := semChcfgEN.get v == 1
     let sec := rf s (semChcfg n.val) semChcfgSEC
     let bound := en && rb s (semCons cons) semConsVALID && rf s (semCons cons) semConsCH != n.val
     let a := if w.val < 2 then semTgen g.val w.val else semTgpr g.val
     let m : Word := if w.val < 2 then 0xFFFFFFFF else 0x1FFFF
     (pdOn s 50 = true →
       (semChRefusals s q n.val v ≠ [] → Runs (.semChcfgWrite q n v) s (fun t => t.resp = ⟨if holdsType s q 4 then 0 else 2, 0⟩ ∧
         (∀ f ∈ [semStsOWNV, semStsLOCKV, semStsSECV], rb t semSts f = (rb s semSts f || (semChRefusals s q n.val v).contains f)) ∧
         RegsBut [semSts] s t ∧ SameBut [.regs, .resp] s t)) ∧
       (semStsOWNV ∈ semChRefusals s q n.val v ↔ ¬(holdsType s q 4 = true ∧ q.who.val < 12 ∧
         (rf s (semChcfg n.val) semChcfgOWNER = q.who.val ∨
           (12 ≤ rf s (semChcfg n.val) semChcfgOWNER ∧ semChcfgOWNER.get v = q.who.val)))) ∧
       (semStsLOCKV ∈ semChRefusals s q n.val v ↔ 2 ≤ sec) ∧
       (semStsSECV ∈ semChRefusals s q n.val v ↔ min (semChcfgSEC.get v) 2 < min sec 2 ∨
         ((1 ≤ sec ∨ 1 ≤ semChcfgSEC.get v) ∧ softProducer (semChcfgPSEL.get v) = true)) ∧
       (semChRefusals s q n.val v = [] → bound = true → Runs (.semChcfgWrite q n v) s (fun t => t.resp = ⟨0, 0⟩ ∧
         rb t semSts semStsCONSV = true ∧ SameBut [.regs, .resp, .sem, .free] s t ∧
         (semRival s n.val v = none → RegsAre [withFld s semSts semStsCONSV 1] s t ∧ SameBut [.regs, .resp] s t))) ∧
       (semChRefusals s q n.val v = [] → bound = false → Runs (.semChcfgWrite q n v) s (fun t => t.resp = ⟨0, 0⟩ ∧
         t.sem = { s.sem with binds := t.sem.binds } ∧
         (∀ f ∈ [semChcfgEN, semChcfgSEC, semChcfgOWNER, semChcfgPSEL, semChcfgCONS], rf t (semChcfg n.val) f = f.get v) ∧
         (en = true → rb t (semCons cons) semConsVALID = true ∧ rf t (semCons cons) semConsCH = n.val) ∧
         (rb s (semChcfg n.val) semChcfgEN = true → en = false ∨ cons ≠ old → rd t (semCons old) = 0) ∧
         RegsBut [semChcfg n.val, semCons old, semCons cons] s t ∧ SameBut [.regs, .resp, .sem] s t))) ∧
     (holdsType s q 4 = true → Runs (.semTglock q b) s (fun t => t.resp = ⟨0, 0⟩ ∧
       (∀ i < 16, rbit t semTglock semTglockLOCK i = (rbit s semTglock semTglockLOCK i || b.getLsbD i)) ∧
       RegsBut [semTglock] s t ∧ SameBut [.regs, .resp] s t)) ∧
     (holdsType s q 4 = true → rbit s semTglock semTglockLOCK g.val = false → Runs (.semTgmatrixWrite q g w v) s (fun t =>
       t.resp = ⟨0, 0⟩ ∧ rd t a &&& m = v &&& m ∧
       (∀ i < 16, groupInput t i = true → rbit t cvpTglatch cvpTglatchTGLAT i = true) ∧
       (∀ i < 16, rbit s cvpTglatch cvpTglatchTGLAT i = true → rbit t cvpTglatch cvpTglatchTGLAT i = true) ∧
       RegsBut (a :: cvpTglatch :: (List.range 8).map cvpSafests) s t ∧
       t.sig = { s.sig with traces := t.sig.traces } ∧ SameBut [.regs, .resp, .cvp, .sem, .sig] s t)) ∧
     (holdsType s q 4 = true → rbit s semTglock semTglockLOCK g.val = true → pdOn s 50 = true →
       Runs (.semTgmatrixWrite q g w v) s (fun t => t.resp = ⟨0, 0⟩ ∧ RegsAre [withFld s semSts semStsTGLOCKV 1] s t ∧
         SameBut [.regs, .resp] s t)))

/-- R142 to R149, R153, R156, R157: strobes are counted and levels followed; of the sources that a core accepts the one of highest rank is
presented, the lowest number among equals; a hold-off ends; PHOLD and a source's own settings are written. R144, R146, R151, R153: a claim
by the core itself takes the presented source into service and answers its number and priority; a claim with nothing to take is spurious.
Software fires message sources.
Where it rests on the model's choices and not on the specification alone, see log entries 4, 39, 40, 41, 173. -/
def Obligations.Interrupts : Prop :=
  (∀ (s : State) (q : Req) (k : Fin 10) (n : Fin 512) (h : Fin 32) (v : Word) (b : Bool),
     let cnt := rf s (intcSrc n.val) intcSrcCNT
     let seen := selView s
     let quiet := ∀ k < 10, presented s n.val k = false
     (s.running = true →
       (srcCount n.val = true → s.intc.strobes.contains n.val = true → Runs (.intcSourceEvent n) s (fun t =>
         t.intc = { s.intc with strobes := s.intc.strobes.erase n.val } ∧ rf t (intcSrc n.val) intcSrcCNT = min 255 (cnt + 1) ∧
         rb t (intcSrc n.val) intcSrcOVF = (rb s (intcSrc n.val) intcSrcOVF || cnt == 255) ∧
         RegsBut [intcSrc n.val] s t ∧ SameBut [.regs, .intc] s t)) ∧
       (srcCount n.val = false → Runs (.intcSourceEvent n) s (fun t =>
         rb t (intcSrc n.val) intcSrcACTIVE = srcLevel s n.val ∧
         rf t (intcSrc n.val) intcSrcCNT = (if srcLevel s n.val && !rb s (intcSrc n.val) intcSrcACTIVE then min 255 (cnt + 1) else cnt) ∧
         RegsBut [intcSrc n.val] s t ∧ SameBut [.regs] s t)) ∧
       (tget 0 s.intc.holdEnd h.val ≠ 0 → tget 0 s.intc.holdEnd h.val ≤ 2 * s.port → Runs (.holdoffExpiry h) s (fun t =>
         tget 0 t.intc.holdEnd h.val = 0 ∧ (∀ j, j ≠ h.val → tget 0 t.intc.holdEnd j = tget 0 s.intc.holdEnd j) ∧ SameBut [.intc] s t))) ∧
     ((∀ o ∈ s.intc.late, o.cyc + 1 < s.port) → seen = s) ∧
     (mayPresent s k.val = false ∨ (∀ j < 512, accepts seen k.val j = false) → Runs (.intcSelect k) s (fun t => SameBut [.free] s t)) ∧
     (mayPresent s k.val = true → accepts seen k.val n.val = true → Runs (.intcSelect k) s (fun t => ∃ m < 512, accepts seen k.val m = true ∧
       (∀ j < 512, accepts seen k.val j = true → selRank seen j < selRank seen m ∨ (selRank seen j = selRank seen m ∧ m ≤ j)) ∧
       rf t (intcCorests k.val) intcCorestsPRES = m ∧ rb t (intcCorests k.val) intcCorestsPVALID = true ∧
       t.intc = { s.intc with
         offered := s.intc.offered ++ [k.val], shown := tset 0 s.intc.shown k.val (b2n (srcCl seen m)),
         spared := tset 0 s.intc.spared k.val 0 } ∧ RegsBut [intcCorests k.val] s t ∧ SameBut [.regs, .intc, .free] s t)) ∧
     (holdsType s q 5 = true → n.val ≠ 447 → quiet → v.getLsbD 41 = false ∨ setsAt s (intcSrc n.val) (intcSrcOVF.put 0 1) = [] →
       Runs (.intcSrcWrite q n v) s (fun t => t.resp = ⟨0, 0⟩ ∧
         (∀ f ∈ [intcSrcLVL, intcSrcPRIO, intcSrcTGT], rf t (intcSrc n.val) f = f.get v) ∧
         rb t (intcSrc n.val) intcSrcOVF = (rb s (intcSrc n.val) intcSrcOVF && !v.getLsbD 41) ∧ rf t (intcSrc n.val) intcSrcCNT = cnt ∧
         ⟨n.val, s.port, rd s (intcSrc n.val)⟩ ∈ t.intc.late ∧ t.intc = { s.intc with late := t.intc.late, spared := t.intc.spared } ∧
         RegsBut [intcSrc n.val] s t ∧ SameBut [.regs, .intc, .resp] s t)) ∧
     (holdsType s q 5 = true → n.val ≠ 447 → Runs (.intcSrcWrite q n v) s (fun t => t.resp = ⟨0, 0⟩ ∧
       RegsBut (intcSrc n.val :: (List.range 10).map intcCorests) s t ∧ SameBut [.regs, .intc, .resp, .free] s t)) ∧
     (holdsType s q 5 = true → s.intc.offered = [] ∨ b = false ∨ rb s intcCtrl intcCtrlPHOLD = true → Runs (.intcPholdWrite q b) s (fun t => t.resp = ⟨0, 0⟩ ∧
       RegsAre [withFld s intcCtrl intcCtrlPHOLD (b2n b)] s t ∧ SameBut [.regs, .resp] s t))) ∧
  (∀ (s : State) (q : Req) (k : Fin 10) (n : Fin 512),
     let p := rf s (intcCorests k.val) intcCorestsPRES
     let prio := if srcPrio s p = 0 then tget 0 s.intc.spared k.val else srcPrio s p
     let held := rb s (intcCorests k.val) intcCorestsPVALID && srcActive s p && prio != 0 && !rb s (intcSrc p) intcSrcINSVC
     (q.who.val = k.val → rf s (intcCorests k.val) intcCorestsPRES = n.val →
       (held = true → Runs (.intcClaim q k) s (fun t => t.resp = ⟨0, BitVec.ofNat 48 (prio * 2 ^ 10 + n.val)⟩ ∧
         inService t n.val k.val = true ∧ rf t (intcSrc n.val) intcSrcCNT = rf s (intcSrc n.val) intcSrcCNT - 1 ∧
         rb t (intcCorests k.val) intcCorestsPVALID = false ∧
         tget 0 t.intc.holdEnd (n.val / 16) = (if tget 0 s.intc.shown k.val = 1 then tget 0 s.intc.holdEnd (n.val / 16)
           else if rf s (intcGhold (n.val / 16)) intcGholdHOLDOFF = 0 then 0
           else 2 * s.port + 60 * rf s (intcGhold (n.val / 16)) intcGholdHOLDOFF) ∧
         RegsBut [intcSrc n.val, intcCorests k.val] s t ∧ SameBut [.regs, .intc, .resp] s t)) ∧
       (held = false → Runs (.intcClaim q k) s (fun t => t.resp = ⟨0, 0x200⟩ ∧ rb t (intcCorests k.val) intcCorestsPVALID = false ∧
         rf t (intcCorests k.val) intcCorestsSPUR = min 255 (rf s (intcCorests k.val) intcCorestsSPUR + 1) ∧
         RegsBut [intcCorests k.val] s t ∧ SameBut [.regs, .resp] s t))) ∧
     (q.who.val ≠ k.val → Runs (.intcClaim q k) s (fun t => t.resp = ⟨0, 0x200⟩ ∧ SameBut [.resp] s t)) ∧
     (448 ≤ n.val → Runs (.intcMset n) s (fun t => t.resp = ⟨0, 0⟩ ∧ t.intc = { s.intc with strobes := s.intc.strobes ++ [n.val] } ∧
       SameBut [.intc, .resp] s t)) ∧
     (n.val < 448 → Runs (.intcMset n) s (fun t => t.resp = ⟨0, 0⟩ ∧ RegsAre [withFld s intcSts intcStsMSETV 1] s t ∧
       SameBut [.regs, .resp] s t)))

/-- R152: a core ends the service of a source; the source is pending again at once if it is still active; naming a source not in service to
the core does nothing but set EOIV.
Where it rests on the model's choices and not on the specification alone, see log entries 12, 39. -/
def Obligations.EndOfInterrupt : Prop :=
  ∀ (s : State) (k : Fin 10) (n : Fin 512),
    (inService s n.val k.val = true → Runs (.intcEoi k n) s (fun t => t.resp = ⟨0, 0⟩ ∧ (∀ j < 10, inService t n.val j = false) ∧
      srcPending t n.val = (srcActive s n.val && srcPrio s n.val != 0) ∧
      (∀ m < 512, m ≠ n.val → ∀ j < 10, inService t m j = inService s m j) ∧
      RegsBut [intcSrc n.val] s t ∧ SameBut [.regs, .intc, .resp] s t)) ∧
    (inService s n.val k.val = false → Runs (.intcEoi k n) s (fun t => t.resp = ⟨0, 0⟩ ∧
      RegsAre [withFld s intcSts intcStsEOIV 1] s t ∧ SameBut [.regs, .resp] s t))

/-- R270, R272 to R275, R278: the scrubber takes its slot where its port is free; it corrects an upset of one bit where it stands, counts and logs it, leaves an uncorrectable word as it is, and
passes over a word in use; a retired bank answers no access. R277, R278, R280: a reservation table is admitted exactly if every entry names
a port that may reserve, none doubles another and no bank port is overcommitted; a frame starts with the admitted table, with no bank port
over its capacity.
Where it rests on the model's choices and not on the specification alone, see log entries 4, 55, 58, 59. -/
def Obligations.ScrubbingAndFrames : Prop :=
  (∀ (s : State) (i : Fin 88) (b : Fin 56) (u : Upset) (q : Req) (st : Fin 16) (v : BitVec 4),
     let a := scrubNext s i.val
     let bank := if i.val < 64 then memBank (i.val / 4) (i.val % 4) else memSpecc (i.val - 64)
     let n := rf s memLogptr memLogptrECCWR
     let moved (t : State) : Prop := (s.msys.queue = [] → tget 0 t.msys.pos i.val =
         if tget 0 s.msys.pos i.val + 1 < arraySize i.val then tget 0 s.msys.pos i.val + 1 else 0) ∧
       slotsUsed t i.val = slotsUsed s i.val + 1 ∧ (∀ j, memRd t j = memRd s j) ∧ SameBut [.regs, .mem, .tags, .msys] s t
     (slotShare s i.val ≤ slotsUsed s i.val ∨ scrubFree s i.val = false → Runs (.scrub i u false) s (fun t => SameBut [] s t) ∧ Runs (.scrub i u true) s (fun t => SameBut [] s t)) ∧
     (s.running = true → rb s memCtrl memCtrlSCRUBEN = true → arrayCode s a = 0 → scrubFree s i.val = true →
       slotsUsed s i.val < (if i.val < 64 ∧ bankFast s (i.val / 4) (i.val % 4) = true then 8 else 1) → upsetAt s (upsetKey a) = .none →
       upsetAt s (tagUpsetKey a) = .none →
       Runs (.scrub i .none false) s (fun t => moved t ∧ t.regs = s.regs ∧ ∀ j, tagRd t j = tagRd s j) ∧
       Runs (.scrub i (.bit b) false) s (fun t => moved t ∧ upsetAt t (upsetKey a) = .none ∧ rb t memSts memStsECCCE = true ∧
         rf t bank (if i.val < 64 then memBankCECNT else memSpeccCECNT) =
           satAdd ((if i.val < 64 then memBankCECNT else memSpeccCECNT).span - 1)
             (rf s bank (if i.val < 64 then memBankCECNT else memSpeccCECNT)) 1 ∧
         (∀ j, tagRd t j = tagRd s j) ∧ RegsBut [bank, memSts, memLogptr, memEcclog n 0, memEcclog n 1] s t) ∧
       Runs (.scrub i .multi false) s (fun t => moved t ∧ upsetAt t (upsetKey a) = .multi ∧ rb t memSts memStsECCUE = true ∧
         (∀ j, tagRd t j = tagRd s j) ∧
         RegsBut [bank, memSts, memLogptr, memEcclog n 0, memEcclog n 1, memRetire (i.val / 4)] s t) ∧
       (i.val < 80 → Runs (.scrub i .tag false) s (fun t => moved t ∧ upsetAt t (tagUpsetKey a) = .none ∧ rb t memSts memStsECCCE = true ∧
         (∀ j, tagRd t j = if j = a / 2 * 2 then false else tagRd s j) ∧
         RegsBut [bank, memSts, memLogptr, memEcclog n 0, memEcclog n 1] s t)) ∧
       Runs (.scrub i u true) s (fun t => moved t ∧ t.regs = s.regs)) ∧
     (holdsType s q 6 = true → Runs (.bankRetire q st v) s (fun t => t.resp = ⟨0, 0⟩ ∧
       (∀ j < 4, retired t st.val j = (retired s st.val j || v.getLsbD j)) ∧
       (rb t memSts memStsBANKRETIRED = true ↔ rb s memSts memStsBANKRETIRED = true ∨ ∃ j < 4, v.getLsbD j = true ∧ retired s st.val j = false) ∧
       (∀ j < 4, v.getLsbD j = true → pdOn s (28 + st.val) = true → arrayCode t (st.val * 0x10000 + j) = 6) ∧
       RegsBut [memRetire st.val, memSts] s t ∧ SameBut [.regs, .resp] s t))) ∧
  (∀ (s : State) (l : List Resv) (r st b p e : Nat),
     ((resvAdmission s l).1 = 0 ↔ (∀ x ∈ l, (portClass x.port).isSome = true) ∧
       (∀ x ∈ l, ∀ y ∈ l, y.e ≠ x.e → ¬ (y.port = x.port ∧ y.stripe = x.stripe)) ∧
       ∀ st < 16, ∀ b < 4, ∀ p < 2, stripeLoad l st p ≤ bankCap s st b p) ∧
     (rb s memResvctl memResvctlBUSY = false → Runs .resvCommit s (fun t => t.resp = ⟨0, 0⟩ ∧
       rb t memResvctl memResvctlBUSY = true ∧ t.msys.adm = some (resvAdmission s (resvOf (pendingResv s))) ∧
       t.msys.next = (if (resvAdmission s (resvOf (pendingResv s))).1 = 0 then some (pendingResv s) else s.msys.next) ∧
       RegsBut [memResvctl] s t ∧ SameBut [.regs, .msys, .resp] s t)) ∧
     (s.msys.adm = some (r, st, b, p, e) → r < 8 → Runs .resvAdmissionDone s (fun t => t.msys = { s.msys with adm := none } ∧
       rb t memResvctl memResvctlBUSY = false ∧ rb t memResvctl memResvctlCOMMIT = false ∧ rf t memResvctl memResvctlRESULT = r ∧
       rb t memSts memStsOVERCOMMIT = (rb s memSts memStsOVERCOMMIT || r == 1) ∧
       RegsBut [memResvctl, memSts] s t ∧ SameBut [.regs, .msys] s t)) ∧
     (s.running = true → s.port % 32 = 0 → Runs .frameStart s (fun t => firstOver t (activeResv t) = none ∧
       (s.msys.adm.isSome = false → t.msys.next = none) ∧
       (∀ x ∈ activeResv t, (∀ y ∈ activeResv t, y.port = x.port → y.stripe = x.stripe → y = x) → x.port < 32 → ∀ j < 4,
         tget 0 t.msys.credit (64 * x.port + 4 * x.stripe + j) = x.amt) ∧
       ((∀ l, s.msys.next = some l → ∀ y ∈ l, y.1 < 64) →
         RegsBut ((List.range 64).map memResvact ++ memSts :: (List.range 64).map (fun i => memBank (i / 4) (i % 4))) s t)) ∧
       Runs .frameStart s (fun t => SameBut [.regs, .msys] s t)))

/-- R317 to R321: what a mailbox command asks of the point engine waits for its admission; an admitted operation on a resident point reads
it, writes a VOLATILE or MEASURE point at once and hands the change of any other to the journal; one on an absent point has it filled.
Where it rests on the model's choices and not on the specification alone, see log entries 4, 72, 73, 75, 200. -/
def Obligations.PointOperations : Prop :=
  ∀ (s : State) (q : Req) (r : Fin 12) (n : BitVec 25) (op : PneOp) (a k : Nat) (v : Word) (m : Nat) (w : Option Word) (l : List Deliv) (x : HmpTx)
    (st : Nat) (may : Bool),
    let asks (c : Instr) (kind : Nat) : Prop := (kind = 0 ∨ holdsType s q 8 = true) → Runs c s (fun t => t.resp = ⟨if holdsType s q 8 then 0 else 2, 0⟩ ∧
      t.pne = { s.pne with ops := s.pne.ops ++ [⟨4, r.val, kind, n.toNat, rd s (pneMbval r.val), rd s (pneMbaux r.val), 0, 2 * s.port⟩] } ∧
      rf t (pneMbpnt r.val) pneMbpntPNUM = n.toNat ∧ rb t (pneMbsts r.val) pneMbstsBUSY = true ∧
      RegsBut [pneMbpnt r.val, pneMbsts r.val] s t ∧ SameBut [.regs, .pne, .resp] s t)
    let answers (code : Nat) (t : State) : Prop := rb t (pneMbsts op.id) pneMbstsBUSY = false ∧ rf t (pneMbsts op.id) pneMbstsSTATUS = code
    let boxes := [pneMbsts op.id, pneMbval op.id, pneMbaux op.id]
    let used (l : List Nat) (ps : List Part) (t : State) : Prop := Beats 21 s t ∧ RegsBut (memArb 21 :: l) s t ∧
      SameBut ([.pne, .regs, .msys, .free] ++ ps) s t
    let stored (a : Nat) (t : State) : Prop := (∀ b, b ≠ a → b ≠ a + 1 → memRd t b = memRd s b) ∧
      ∀ b, tagRd t b = if b = a then false else tagRd s b
    let taken := { s.pne with ops := s.pne.ops.erase op }
    (pdOn s 45 = true → q.who.val = r.val → rb s (pneMbsts r.val) pneMbstsBUSY = false →
      asks (.pneRead q r n) 0 ∧ asks (.pneWrite q r n) 1 ∧ asks (.pneDefine q r n) 2 ∧ asks (.pneDelete q r n) 3 ∧ asks (.pnePin q r n) 4 ∧
      asks (.pneUnpin q r n) 5 ∧ asks (.pneDeclare q r n) 6 ∧ asks (.pneWopReserved q r n) 7) ∧
    (pdLive s 45 = true → s.running = true → s.pne.unsent = [] → nextOp s = some op →
      op.src = 4 → op.id < 12 →
      (rb s pneSts pneStsREADY = false → Runs .pneAdmission s (fun t => t.pne = taken ∧ answers 8 t ∧ RegsBut boxes s t ∧
        SameBut [.pne, .regs] s t)) ∧
      (rb s pneSts pneStsREADY = true →
        (checkArgs s op = some st → st < 16 → Runs .pneAdmission s (fun t => t.pne = taken ∧ answers st t ∧ RegsBut boxes s t ∧
          SameBut [.pne, .regs] s t)) ∧
        (checkArgs s op = none → op.kind < 6 → s.pne.cur = [] ∨ op.kind = 0 → setWhole s op.pnum = true →
          (findEntry s op.pnum = none → s.pne.fills.any (fun p => p.1 == op.pnum) = false → Runs .pneAdmission s (fun t =>
            t.pne = { taken with fills := s.pne.fills ++ [(op.pnum, false)], cur := s.pne.cur ++ [op] } ∧
            RegsAre [counted s pneCnt pneCntMISS] s t ∧ SameBut [.pne, .ports, .regs] s t)) ∧
          (findEntry s op.pnum = some a → checkPoint { s with pne := taken } op a = .error st → st < 16 → Runs .pneAdmission s (fun t =>
            t.pne = taken ∧ answers st t ∧ used boxes [] t)) ∧
          (findEntry s op.pnum = some a → checkPoint { s with pne := taken } op a = .ok (v, m) →
            (op.kind = 0 → Runs .pneAdmission s (fun t => t.pne = taken ∧ answers 0 t ∧ rd t (pneMbval op.id) = entVal s a ∧
              rd t (pneMbaux op.id) = BitVec.ofNat 48 (reportedMeta s a) ∧ used boxes [] t)) ∧
            (op.kind = 1 → metaLoose (entMeta s a) = true → Runs .pneAdmission s (fun t => answers 0 t ∧ entVal t a = v ∧ entMeta t a = m % 2 ^ 16 ∧ stored a t ∧
              (hasConsumer s op.pnum m = true → isCal op.pnum = false → t.pne.deliv = s.pne.deliv ++ [⟨op.pnum, v, m, none⟩]) ∧
              used (pneCnt :: boxes) [.mem, .tags] t)) ∧
            (op.kind = 1 → metaLoose (entMeta s a) = false → jneState s = 3 → Runs .pneAdmission s (fun t =>
              t.sig.recs = s.sig.recs ++ [⟨1, s.pne.seq, 1, [BitVec.ofNat 48 (m * 2 ^ 25 + op.pnum), v]⟩] ∧
              t.pne = { taken with seq := s.pne.seq + 1, jops := s.pne.jops ++ [⟨s.pne.seq, some op, op.pnum, v, m⟩] } ∧
              entVal t a = entVal s a ∧ entMeta t a = entMeta s a ∧ enW.get (entWord t a) = 1 ∧ stored a t ∧
              used [] [.sig, .mem, .tags] t)))))) ∧
    (pdLive s 45 = true → s.running = true → s.pne.deliv = ⟨n.toNat, v, m, w⟩ :: l → isCal n.toNat = false → toRack s n.toNat m = false → s.pne.due = [] →
      s.pne.cur = [] ∨ s.pne.phase < 6 →
      Runs .pointDelivery s (fun t => t.pne = { s.pne with deliv := l } ∧ SameBut [.pne, .ae, .ssp] s t ∧
        (∀ j ∈ slotsNaming s n.toNat, pdOn s (18 + j / 64) = true → tget 0 t.ae.refPt j = delivered m v) ∧
        (∀ j ∈ cellsNaming s n.toNat, pdOn s 26 = true → tget 0 t.ssp.refPt j = delivered m v))) ∧
    (s.ports.done.find? (fun y => s.pne.fills.any (fun p => y.use == useFill p.1)) = some x →
      s.pne.fills.find? (fun p => x.use == useFill p.1) = some (k, may) → s.pne.due = [] →
      let rest := s.pne.fills.filter (fun p => p.1 != k)
      (x.code = 0 → findEntry s k = none → s.pne.cur = [] → k < 2 ^ 25 → setWhole s k = true →
        (victimWay s k = some a → Runs .cacheFill s (fun t =>
          t.pne = { s.pne with fills := rest, deliv := mated s.pne.deliv k (delivered ((x.word 1).toNat % 2 ^ 16) (x.word 0)) } ∧ entVal t a = x.word 0 ∧
          entMeta t a = (x.word 1).toNat % 2 ^ 16 ∧ enV.get (entWord t a) = 1 ∧ enPnum.get (entWord t a) = k ∧
          stored a t ∧ used [] [.ports, .mem, .tags] t)) ∧
        (victimWay s k = none → may = false → Runs .cacheFill s (fun t => (k, true) ∈ t.pne.fills ∧ t.ports = s.ports ∧
          RegsAre [counted s pneCnt pneCntSETWAIT] s t ∧ SameBut [.pne, .regs] s t))) ∧
      (x.code ≠ 0 → s.pne.cur = [] → s.pne.deliv = [] → Runs .cacheFill s (fun t => t.pne.fills = rest ∧
        RegsAre [withFld s pneSts pneStsIMGERR 1] s t ∧ SameBut [.pne, .ports, .regs] s t)))

/-- R315, R316, R326, R327, R534: the cache is enabled, disabled and made ready; entries age; a scan goes through a unit's points; a
restoration that takes too long ends in CONFLICT.
Where it rests on the model's choices and not on the specification alone, see log entries 4, 71, 76, 79, 174, 175. -/
def Obligations.PointCache : Prop :=
  ∀ (s : State) (q : Req) (size : BitVec 2) (base : BitVec 4) (u : Fin 1024) (pass i a : Nat),
    let n := 2 ^ (if size.toNat = 3 then 1 else size.toNat + 1)
    let x := unitSt s u.val
    (pdOn s 45 = true → holdsType s q 8 = true →
      (rb s pneCcfg pneCcfgEN = false → s.pne.phase ≠ 7 → base.toNat % n = 0 → Runs (.pneCacheEnable q size base) s (fun t =>
        t.resp = ⟨0, 0⟩ ∧ rb t pneCcfg pneCcfgEN = true ∧ rb t pneCcfg pneCcfgCLEARING = true ∧ rf t pneCcfg pneCcfgBASE = base.toNat ∧
        rf t pneCcfg pneCcfgSIZE = size.toNat ∧ t.pne.phase = 1 ∧ t.pne.pins = [] ∧
        t.pne.region = (base.toNat, n) ∧ t.msys = { s.msys with upsets := t.msys.upsets } ∧
        (∀ b, memRd t b = if base.toNat * 0x10000 ≤ b ∧ b < (base.toNat + n) * 0x10000 then 0 else memRd s b) ∧
        RegsBut [pneCcfg, pneCnt] s t ∧ SameBut [.regs, .mem, .tags, .pne, .msys, .resp] s t)) ∧
      (rb s pneCcfg pneCcfgEN = false → s.pne.phase = 7 → base.toNat % n = 0 → Runs (.pneCacheEnable q size base) s (fun t =>
        t.resp = ⟨0, 0⟩ ∧ rb t pneCcfg pneCcfgEN = true ∧ rb t pneCcfg pneCcfgCLEARING = true ∧ rf t pneCcfg pneCcfgBASE = base.toNat ∧
        rf t pneCcfg pneCcfgSIZE = size.toNat ∧ t.pne.phase = 1 ∧ t.pne.pins = [] ∧ t.pne.region = (base.toNat, n) ∧ t.pne.due = [] ∧
        (∀ b, memRd t b = if base.toNat * 0x10000 ≤ b ∧ b < (base.toNat + n) * 0x10000 then 0 else memRd s b))) ∧
      (rb s pneCcfg pneCcfgEN = true → Runs (.pneCacheDisable q) s (fun t => t.resp = ⟨0, 0⟩ ∧ rb t pneCcfg pneCcfgEN = false ∧
        rb t pneSts pneStsREADY = false ∧ t.pne = { s.pne with phase := 7 } ∧ RegsBut [pneCcfg, pneSts] s t ∧
        SameBut [.regs, .pne, .resp] s t))) ∧
    (pdLive s 45 = true → s.pne.phase = 7 → pneQuiet s = true → PneWhole s → Runs .pneDisableDone s (fun t => t.pne.phase = 0 ∧ t.pne.pins = [] ∧
      (∀ b, memRd t b = if pneBase s ≤ b ∧ b < pneBase s + pneStripes s * 0x10000 then 0 else memRd s b) ∧
      RegsBut [pneCnt, memArb 21] s t ∧ SameBut [.regs, .mem, .tags, .pne, .ports, .msys, .free] s t)) ∧
    (pdOn s 45 = true → s.pne.phase = 5 → jneState s = 3 → s.pne.pins.all (fun n => (findEntry s n).isSome) = true → s.pne.due = [] → s.pne.cur = [] →
      Runs .pneReady s (fun t => rb t pneSts pneStsREADY = true ∧ t.pne.phase = 6 ∧ t.pne.ageLast = s.port ∧
        (∀ j < 1024, ostateOf t j = 0) ∧ RegsBut (pneSts :: (List.range 1024).map pneUstate) s t ∧ SameBut [.regs, .pne] s t)) ∧
    (Memory.wf s = true → PneWhole s → pdOn s 45 = true → rb s pneSts pneStsREADY = true → s.pne.ageLast + 300 * max 1 (rf s pneCtrl pneCtrlAGEPER) ≤ s.port →
      Runs .ageTick s (fun t => (∀ b ∈ validEntries s, enAge.get (entWord t b) = min 15 (enAge.get (entWord s b) + 1) ∧
          entVal t b = entVal s b ∧ entMeta t b = entMeta s b ∧ enPnum.get (entWord t b) = enPnum.get (entWord s b)) ∧
        (∀ b, b - 1 ∉ validEntries s → memRd t b = memRd s b) ∧ Beats 21 s t ∧ RegsBut [memArb 21] s t ∧
        t.pne = { s.pne with ageLast := s.pne.ageLast + 300 * max 1 (rf s pneCtrl pneCtrlAGEPER) } ∧
        SameBut [.mem, .tags, .pne, .msys, .free, .regs] s t)) ∧
    (pdLive s 45 = true → rb s pneSts pneStsREADY = true → x.scan = some (pass, i) → i + 1 < 0x6000 → pass ≤ 3 →
      (findEntry s (u.val * 2 ^ 15 + i) = some a → entWhole s a = true → metaType (entMeta s a) = 0 ∨ metaClass (entMeta s a) ≠ passClass pass →
        Runs (.pointScan u) s (fun t => unitSt t u.val = { x with scan := some (pass, i + 1), reading := false } ∧
          (∀ j, j ≠ u.val → unitSt t j = unitSt s j) ∧ Beats 21 s t ∧ RegsBut [memArb 21] s t ∧
          SameBut ((if x.reading then [.ports] else []) ++ [.pne, .msys, .free, .regs]) s t)) ∧
      (findEntry s (u.val * 2 ^ 15 + i) = none → x.reading = false → Runs (.pointScan u) s (fun t =>
        unitSt t u.val = { x with reading := true } ∧ (∀ j, j ≠ u.val → unitSt t j = unitSt s j) ∧ SameBut [.pne, .ports] s t))) ∧
    (u.val ≠ 0 → pdLive s 45 = true → ustateOf s u.val = 3 → isActive s = true → max 1 (rf s pneCtrl pneCtrlRESTTO) < x.rest →
      Runs (.restoreTimeout u) s (fun t => ustateOf t u.val = 4 ∧ rf t (pneUstate u.val) pneUstateCAUSE = 5 ∧
        rb t pneSts pneStsCONFLICT = true ∧ rb t pneSts pneStsUSTATECHG = true ∧ (unitSt t u.val).open_ = [] ∧
        (∀ e ∈ t.rlk.send, e.unit ≠ u.val)))

/-- R382 to R384, R389, R390, R392, R393: the wear accountant is enabled and disabled, starts and skips its rounds, checkpoints its counts
and resets a switch.
Where it rests on the model's choices and not on the specification alone, see log entries 4, 95, 96, 100, 174, 201, 202. -/
def Obligations.WearAccounting : Prop :=
  ∀ (s : State) (q : Req) (nsw : BitVec 15) (uper ckper : BitVec 16) (t0 : Fin 16384) (d : PneDone) (x : WacWrite) (l : List WacWrite),
    let st := rf s wacBase wacBaseSTBASE
    let due := (btime s).toNat % (300 * wacUper s) = 0 ∧ s.wac.rounded ≠ s.port + 1
    (pdOn s 46 = true → holdsType s q 9 = true →
      (rb s wacCtrl wacCtrlEN = false → Runs (.wacEnable q nsw uper ckper) s (fun t => t.resp = ⟨0, 0⟩ ∧ rb t wacCtrl wacCtrlEN = true ∧
        rf t wacCtrl wacCtrlNSW = nsw.toNat ∧ rf t wacCtrl wacCtrlUPER = uper.toNat ∧ rf t wacCtrl wacCtrlCKPER = ckper.toNat ∧
        rb t wacSts wacStsINIT = true ∧ t.wac.tref = [] ∧
        (∀ b, memRd t b = if st ≤ b ∧ b < st + 16 * min 16384 nsw.toNat then 0 else memRd s b) ∧
        RegsBut [wacCtrl, wacSts] s t ∧ t.msys = { s.msys with upsets := t.msys.upsets } ∧
        SameBut [.regs, .mem, .tags, .msys, .wac, .resp] s t)) ∧
      (rb s wacCtrl wacCtrlEN = true → Runs (.wacDisable q) s (fun t => t.resp = ⟨0, 0⟩ ∧
        t.wac = { s.wac with ending := s.wac.ending || rb s wacSts wacStsACTIVE } ∧
        RegsAre [withFld s wacCtrl wacCtrlEN 0] s t ∧ SameBut [.regs, .wac, .resp] s t)) ∧
      (rb s wacCmd wacCmdBUSY = false → wacRuns s = true →
        (s.wac.ck = false → Runs (.wacCkpt q) s (fun t => t.resp = ⟨0, 0⟩ ∧ rb t wacSts wacStsCKBUSY = true ∧ t.wac.ck = true)) ∧
        (s.wac.resets = [] → s.wac.asked = false → Runs (.wacReset q t0) s (fun t => t.resp = ⟨0, 0⟩ ∧ rb t wacCmd wacCmdBUSY = true ∧
          rf t wacCmd wacCmdT = t0.val ∧ t.wac.resets = [(t0.val, 0, 0, 0)] ∧ t.wac.asked = true ∧
          t.sig.recs = s.sig.recs ++ [⟨2, 1, 0x21, [BitVec.ofNat 48 t0.val, 0, 0]⟩] ∧
          (∀ b, memRd t b = if st + 16 * t0.val ≤ b ∧ b < st + 16 * t0.val + 16 ∧ arrayCode s b = 0 then 0 else memRd s b) ∧
          RegsBut [wacCmd] s t ∧ t.msys = { s.msys with upsets := t.msys.upsets } ∧
          SameBut [.regs, .mem, .tags, .msys, .wac, .sig, .resp] s t)))) ∧
    (s.running = true → wacRuns s = true → s.pne.done = [] → due → (∀ i < wacNsw s, bitOf (wacCfg s i 0) 47 = false) →
      (s.wac.round = none → Runs .wacRound s (fun t => t.wac.round = none ∧ t.wac.rounded = s.port + 1 ∧ rf t wacLast wacLastRTIME = 0 ∧
        RegsBut [wacLast] s t ∧ SameBut [.regs, .wac, .pne] s t)) ∧
      (s.wac.round = some (wacNsw s, 2 * s.port) → Runs .wacRound s (fun t => t.wac.round = none ∧ rb t wacSts wacStsOVERRUN = true ∧
        rd t wacCnt = (counted s wacCnt wacCntOVERRUNS).2 ∧ RegsBut [wacLast, wacSts, wacCnt] s t ∧ SameBut [.regs, .wac, .pne] s t))) ∧
    (wacRuns s = true → s.wac.ck = false → rf s wacCtrl wacCtrlCKPER ≠ 0 → s.wac.ckFrom + rf s wacCtrl wacCtrlCKPER * 300000000 ≤ s.port →
      Runs .wacCheckpoint s (fun t => rb t wacSts wacStsCKBUSY = true ∧ t.wac.ck = true ∧
        (let per := rf s wacCtrl wacCtrlCKPER * 300000000; t.wac.ckFrom = s.wac.ckFrom + per * ((s.port - s.wac.ckFrom) / per)))) ∧
    (s.pne.done.find? (fun d => d.src == 2 && d.id == s.wac.seq) = some d → s.wac.writes = x :: l → s.wac.ck = false →
      (x.step = 1 → x.zero = false → d.status = 0 → Runs .counterWriteDone s (fun t =>
        t.pne = { s.pne with done := s.pne.done.erase d, ops := s.pne.ops ++ [⟨2, s.wac.seq + 1, 1, counterPoint x.t x.k,
          BitVec.ofNat 48 (min (2 ^ 48 - 1) (d.val.toNat + x.d)), BitVec.ofNat 48 counterMeta, 0, 2 * s.port⟩] } ∧
        t.wac = { s.wac with seq := s.wac.seq + 1, writes := { x with step := 2 } :: l } ∧ SameBut [.pne, .wac] s t)) ∧
      (x.step = 2 → d.status = 0 → x.slot = none → l = [] → s.wac.zeros = false → Runs .counterWriteDone s (fun t =>
        t.pne = { s.pne with done := s.pne.done.erase d } ∧ t.wac = { s.wac with seq := s.wac.seq + 1, writes := [] } ∧
        SameBut [.pne, .wac] s t)))

/-- R331, R340, R342, R344, R347, R354: a commit is admitted with the next CSN, waits for budget, or is refused; the oldest commit that
meets its conditions is acknowledged to its producer; a mailbox raises a request and its body is read after admission.
Where it rests on the model's choices and not on the specification alone, see log entries 4, 80, 81, 82, 83, 84, 194, 195. -/
def Obligations.JournalCommits : Prop :=
  ∀ (s : State) (q : Req) (r : Fin 12) (kind : BitVec 8) (len : BitVec 10) (v : Word) (x : RecReq) (c : Commit) (l : List Word) (i st : Nat),
    let n := x.body.length + 5
    let csn := rf s jneNextcsn jneNextcsnCSN
    let box := [jneMbsts r.val, jneMbcsn r.val]
    (s.running = true → pdOn s 44 = true → jneState s = 3 → s.jne.zeroing = false → s.jne.lastAdm ≠ s.port / 4 + 1 → s.sig.recs = [x] →
      s.jne.mirq = [] → s.jne.ownq = [] →
      (refusal s x = none → x.prod ≤ 16 → stallReason s false [n] = none → jneUnp s + n < 2 ^ 16 → Runs .jneAdmit s (fun t =>
        rf t jneNextcsn jneNextcsnCSN = csn + 1 ∧ jneUnp t = jneUnp s + n ∧ t.jne.bucket = s.jne.bucket - 1 ∧ t.sig = { s.sig with recs := [] } ∧
        t.jne.log.map (fun y => (y.csn, y.src, y.req, y.recs)) =
          s.jne.log.map (fun y => (y.csn, y.src, y.req, y.recs)) ++ [(csn, x.prod, some x.id, [(x.typ, x.body)])] ∧
        RegsBut [jneNextcsn, jneU, jneBudget, jneSts, jnePercsn] s t ∧ SameBut [.regs, .jne, .sig, .ports] s t)) ∧
      (refusal s x = none → x.prod ≤ 16 → stallReason s false [n] = some 1 → s.jne.stalled.contains (x.prod, x.id) = false →
        Runs .jneAdmit s (fun t => rb t jneSts jneStsCMTSTALL = true ∧ rf t jneSts jneStsREASON = 1 ∧
          rd t jneCnt = (counted s jneCnt jneCntSTALLS).2 ∧ t.jne = { s.jne with stalled := (x.prod, x.id) :: s.jne.stalled, waits := [(x.prod, x.id)] } ∧
          RegsBut [jneSts, jneCnt] s t ∧ SameBut [.regs, .jne] s t)) ∧
      (refusal s x = some st → st < 16 → x.prod = 4 + r.val → Runs .jneAdmit s (fun t => t.sig = { s.sig with recs := [] } ∧
        rb t (jneMbsts r.val) jneMbstsBUSY = false ∧ rf t (jneMbsts r.val) jneMbstsSTATUS = st ∧
        t.jne = { s.jne with stalled := s.jne.stalled.erase (x.prod, x.id), waits := t.jne.waits } ∧
        RegsBut (jneSts :: box) s t ∧ SameBut [.regs, .sig, .jne] s t))) ∧
    (pdLive s 44 = true → s.jne.log.find? (fun y => !y.acked) = some c → ackReady s c = true → jneState s ≠ 5 → c.src = 4 + r.val →
      c.req = some i → c.recs.all (fun y => decide (8 < y.1)) = true → s.pne.accepted = [] → c.csn < 2 ^ 48 → Runs .journalAck s (fun t =>
        rf t jneAckcsn jneAckcsnCSN = c.csn ∧ rb t (jneMbsts r.val) jneMbstsBUSY = false ∧
        rf t (jneMbsts r.val) jneMbstsSTATUS = (if !c.mir then 1 else if c.mirrored then 0 else 2) ∧ rf t (jneMbcsn r.val) jneMbcsnCSN = c.csn ∧
        t.jne = { s.jne with log := (s.jne.log.map (fun y => if y.csn = c.csn then { y with acked := true } else y)).filter (fun y =>
          !(y.acked && y.dried)) } ∧ RegsBut (jneAckcsn :: jneCnt :: box) s t ∧ SameBut [.regs, .jne] s t)) ∧
    (pdLive s 44 = true → s.running = true → s.jne.paced + 1500 ≤ s.port → Runs .paceRefill s (fun t =>
      t.jne = { s.jne with bucket := min 64 (s.jne.bucket + 1), paced := s.port } ∧ SameBut [.jne] s t)) ∧
    (holdsType s q 7 = true → Runs (.holdupWrite q v) s (fun t => t.resp = ⟨0, 0⟩ ∧ RegsAre [(jneHoldup, v)] s t ∧ jneB t = jneB s ∧
      SameBut [.regs, .jne, .resp] s t)) ∧
    (pdOn s 44 = true → q.who.val = r.val → rb s (jneMbsts r.val) jneMbstsBUSY = false → holdsType s q 7 = true →
      let a := rf s (jneMbaddr r.val) jneMbaddrADDR
      let good := 0x80 ≤ kind.toNat ∧ len.toNat ≤ 1019 ∧ a + max 1 len.toNat ≤ 0x100000
      (good → Runs (.jneMbGo q r kind len) s (fun t => t.resp = ⟨0, 0⟩ ∧ rb t (jneMbsts r.val) jneMbstsBUSY = true ∧
        rf t (jneMbctl r.val) jneMbctlKIND = kind.toNat ∧ rf t (jneMbctl r.val) jneMbctlLEN = len.toNat ∧
        t.sig = { s.sig with recs := s.sig.recs ++ [⟨4 + r.val, 0, kind.toNat, List.replicate len.toNat 0⟩] } ∧
        RegsBut [jneMbctl r.val, jneMbsts r.val] s t ∧ SameBut [.regs, .sig, .resp] s t)) ∧
      (¬ good → Runs (.jneMbGo q r kind len) s (fun t => t.resp = ⟨0, 0⟩ ∧ rf t (jneMbsts r.val) jneMbstsSTATUS = 6 ∧
        rb t (jneMbsts r.val) jneMbstsBUSY = false ∧ RegsBut [jneMbctl r.val, jneMbsts r.val] s t ∧ SameBut [.regs, .resp] s t))) ∧
    (pdLive s 44 = true → s.running = true → s.jne.log.find? (fun y => y.src == 4 + r.val && !y.staged) = some c →
      let k := (c.recs.headD (0, [])).1
      let a := rf s (jneMbaddr r.val) jneMbaddrADDR
      let n := (c.recs.headD (0, [])).2.length
      bodyStalls s r.val c = false → (readBody s a n []).1 = some l → Runs (.mbBodyRead r) s (fun t =>
        (∃ y ∈ t.jne.log, y.csn = c.csn ∧ y.staged = true ∧ y.recs = [(k, l)] ∧ y.words = [recordWords k 0 c.src c.csn true c.sec c.ns l]) ∧
        (WordsWhole s a n → Beats 20 s t ∧ RegsBut [memArb 20] s t) ∧ SameBut [.jne, .ports, .msys, .regs, .free] s t))

/-- R332, R333, R348, R350, R356, R376, R377: the journal is opened, closed, formatted and recovered; power failure closes admission, and
10 ms without it open admission again.
Where it rests on the model's choices and not on the specification alone, see log entries 4, 85, 86, 87, 195. -/
def Obligations.JournalStates : Prop :=
  ∀ (s : State) (q : Req) (mm am : Bool) (key : BitVec 16) (p : Nat) (x : HmpTx) (b : JBurst),
    let first (w : Bool) (ws : List Word) : List JBurst := [⟨s.jne.nextId, w, persBase, 1, ws, 0, 0, true⟩]
    let own (t : State) (m : List (Nat × List Nat)) : Prop := t.jne.ownq = s.jne.ownq ++ m.map (fun y => (y.1, y.2.map (BitVec.ofNat 48)))
    (pdOn s 44 = true → holdsType s q 7 = true →
      (rb s jneCtrl jneCtrlEN = false → jneState s = 0 → s.jne.script = [] → s.jne.bursts = [] →
        (layoutOk s = true → Runs (.jneOpen q mm am) s (fun t => t.resp = ⟨0, 0⟩ ∧ rb t jneCtrl jneCtrlEN = true ∧
          rb t jneCtrl jneCtrlMIRMODE = mm ∧ rb t jneCtrl jneCtrlACKMODE = am ∧ jneState t = 0 ∧ t.jne.bursts = first false [] ∧
          rf t jneRecsts jneRecstsFREASON = 0 ∧ RegsBut [jneCtrl, jneRecsts] s t ∧ SameBut [.regs, .jne, .ports, .resp] s t)) ∧
        (layoutOk s = false → Runs (.jneOpen q mm am) s (fun t => t.resp = ⟨0, 0⟩ ∧ rb t jneCtrl jneCtrlEN = false ∧
          rb t jneSts jneStsLAYOUT = true ∧ jneState t = 0 ∧ RegsBut [jneCtrl, jneSts, pneSts] s t ∧ SameBut [.regs, .resp] s t))) ∧
      (rb s jneCtrl jneCtrlEN = true → s.sig.recs = [] → jneState s ≠ 0 →
        (jneUnp s ≠ 0 → Runs (.jneClose q) s (fun t => t.resp = ⟨0, 0⟩ ∧ rb t jneCtrl jneCtrlEN = false ∧ jneState t = jneState s ∧
          t.jne = { s.jne with closing := true, ownq := [], mirq := [], stalled := [], waits := [] } ∧ RegsBut [jneCtrl] s t ∧ SameBut [.regs, .jne, .resp] s t)) ∧
        (jneUnp s = 0 → s.jne.log = [] → pdOn s 45 = false → Runs (.jneClose q) s (fun t => t.resp = ⟨0, 0⟩ ∧
          rb t jneCtrl jneCtrlEN = false ∧ jneState t = 0 ∧ t.jne.script = [] ∧ t.jne.bursts = [] ∧ t.jne.sb = s.jne.sb ∧
          RegsBut [jneCtrl, jneSts, jneSegcmd] s t ∧ SameBut [.regs, .jne, .ports, .sig, .resp] s t))) ∧
      (jneState s = 1 ∨ jneState s = 5 → pdOn s 45 = false → s.jne.script = [] → s.jne.bursts = [] → s.jne.infoq = [] → Runs (.jneFormat q 0xF0A7) s (fun t => t.resp = ⟨0, 0⟩ ∧ jneState t = 6 ∧
        jneUnp t = 0 ∧ t.jne.log = [] ∧ t.jne.bursts = first true [0] ∧
        RegsBut (jneSts :: jneU :: jneBudget :: (List.range 16).map jneMwear) s t ∧
        SameBut [.regs, .jne, .ports, .sig, .resp] s t)) ∧
      (jneState s ≠ 1 → jneState s ≠ 5 → Runs (.jneFormat q 0xF0A7) s (fun t => t.resp = ⟨0, 0⟩ ∧
        RegsAre [withFld s jneSts jneStsFMTREF 1] s t ∧ SameBut [.regs, .resp] s t)) ∧
      (key ≠ 0xF0A7 → Runs (.jneFormat q key) s (fun t => t.resp = ⟨0, 0⟩ ∧ SameBut [.resp] s t))) ∧
    (pdLive s 44 = true → s.jne.ended = 1 → 1 ≤ s.jne.rcsn → s.jne.rcsn < 2 ^ 48 → Runs .recoveryComplete s (fun t =>
      rf t jneNextcsn jneNextcsnCSN = s.jne.rcsn ∧ rf t jneAckcsn jneAckcsnCSN = s.jne.rcsn - 1 ∧ jneState t = (if s.sem.pfail || s.jne.shut then 4 else 3) ∧
      own t [(0x37, [s.jne.sb.applied, s.jne.rcsn - 1, rf s jneRecsts jneRecstsCOPY])] ∧ t.jne.ended = 0 ∧
      RegsBut [jneNextcsn, jneAckcsn, jnePercsn, jneSts] s t ∧ SameBut [.regs, .jne, .sig] s t)) ∧
    (s.ports.done = [x] → s.jne.bursts = [b] → x.use = .unit 20 (32 + b.id) → x.code = 0 → b.write = true → b.csn = 0 → s.jne.log = [] →
      s.jne.script = [.act .fmtCsn] → s.jne.infoq = [] → s.jne.cmd = 0 → Runs .headBurstResponse s (fun t =>
        rf t jneNextcsn jneNextcsnCSN = 1 ∧ rf t jneAckcsn jneAckcsnCSN = 0 ∧ rf t jnePercsn jnePercsnCSN = 0 ∧ jneState t = jneState s ∧
        t.jne.script = [] ∧ RegsBut [jneNextcsn, jneAckcsn, jnePercsn] s t ∧ SameBut [.regs, .jne, .ports] s t)) ∧
    (pdLive s 44 = true → s.jne.ended = 2 → Runs .formatComplete s (fun t => jneState t = (if s.sem.pfail || s.jne.shut then 4 else 3) ∧
      t.jne = { s.jne with ended := 0 } ∧ RegsBut [jneSts] s t ∧ SameBut [.regs, .jne, .sig] s t)) ∧
    (s.sem.pfail = false → s.sig.recs = [] → Runs .pfail s (fun t => t.sem.pfail = true ∧ (canFire s 0x001 = true → 0x001 ∈ t.sem.fired) ∧
      t.jne.pfAt = btime s ∧ t.sig = { s.sig with traces := t.sig.traces, evs := t.sig.evs } ∧
      jneState t = (if pdLive s 44 && jneState s == 3 then 4 else jneState s) ∧
      (∀ g < 16, rb s (semTgpr g) semTgprPFAIL = true → rbit t cvpTglatch cvpTglatchTGLAT g = true) ∧
      RegsBut (jneSts :: cvpTglatch :: (List.range 8).map cvpSafests) s t ∧
      SameBut [.regs, .sem, .running, .jne, .sig, .ports, .cvp] s t)) ∧
    (s.sem.pfail = true → Runs .pfailDeassert s (fun t => t.sem.pfail = false ∧ t.jne = { s.jne with pfLow := some s.port } ∧
      jneState t = jneState s ∧ t.sig = { s.sig with traces := t.sig.traces } ∧ RegsBut (cvpTglatch :: (List.range 8).map cvpSafests) s t ∧
      SameBut [.regs, .sem, .sig, .jne, .cvp] s t)) ∧
    (s.jne.pfLow = some p → pdLive s 44 = true → jneState s = 4 → s.sem.pfail = false → s.jne.shut = false → p + 3000000 ≤ s.port → Runs .pfailRearm s (fun t =>
      jneState t = 3 ∧ own t [(0x12, [1, s.jne.pfAt.toNat]), (0x12, [2, (btime s).toNat])] ∧ t.jne.pfLow = none ∧
      RegsBut [jneSts] s t ∧ SameBut [.regs, .jne, .sig] s t))

/-- R331, R334, R361, R364, R372, R375: head-tier bursts are answered, tried again and given up; the storage queues are polled and their
completions taken; a batch of drydown begins; segments are pinned and unpinned.
Where it rests on the model's choices and not on the specification alone, see log entries 4, 87, 88, 93, 197. -/
def Obligations.StorageQueues : Prop :=
  ∀ (s : State) (q : Req) (m : Fin 16) (x : HmpTx) (b : JBurst) (y : MqSub) (c : Commit) (o : SegOpen) (seq : BitVec 36),
    let idle := s.jne.script = [] ∧ s.jne.cmd = 0 ∧ s.jne.infoq = []
    let again : List JBurst := [{ b with id := s.jne.nextId, tries := b.tries + 1 }]
    let r := mqRing s m.val
    let last := r.comp + 1 = mqEntries s m.val
    let pub (p : JPub) (t : State) : Prop := t.resp = ⟨0, 0⟩ ∧ t.jne.cmd ≠ 0 ∧
      rb t jneSegcmd jneSegcmdBUSY = true ∧ t.jne.nsb = nextSb s p ∧ t.jne.bursts ≠ [] ∧
      RegsBut [jneSegcmd] s t ∧ SameBut [.regs, .jne, .ports, .resp] s t
    let segDone (st : Nat) (t : State) : Prop := t.resp = ⟨0, 0⟩ ∧ rb t jneSegcmd jneSegcmdBUSY = false ∧
      rf t jneSegcmd jneSegcmdSTATUS = st ∧ rf t jneSegcmd jneSegcmdSEQ = seq.toNat ∧ t.jne.sb = s.jne.sb ∧ RegsBut [jneSegcmd] s t ∧
      SameBut [.regs, .jne, .resp] s t
    let pinned := s.jne.sb.pinned.any (fun p => p.2.2 == seq.toNat)
    let live := (segPlace s seq.toNat).isSome
    let asked (z : MqRing) : MqRing := if z.asked then { z with again := true } else { z with asked := true }
    (s.ports.done = [x] → s.jne.bursts = [b] → x.use = .unit 20 (32 + b.id) → idle →
      (x.code = 0 → b.write = true → b.csn ≠ 0 → s.jne.closing = false → Runs .headBurstResponse s (fun t => jneUnp t = jneUnp s - b.len ∧
        t.ports = { s.ports with done := [] } ∧ t.jne = { s.jne with
          bursts := [], log := s.jne.log.map (fun d => if d.csn = b.csn then { d with left := d.left - b.len, perAt := s.port } else d) } ∧
        RegsBut [jneU, jneBudget, jneSts, jnePercsn] s t ∧ SameBut [.regs, .jne, .ports] s t)) ∧
      (x.code = 0 → b.write = false → Runs .headBurstResponse s (fun t => t.ports = { s.ports with done := [] } ∧
        t.jne = { s.jne with bursts := [], buf := s.jne.buf ++ (List.range b.len).map x.word } ∧ SameBut [.jne, .ports] s t)) ∧
      (x.code ≠ 0 → persBase ≤ b.addr → b.tries < 3 → Runs .headBurstResponse s (fun t => t.jne.bursts = again ∧
        RegsAre [counted s jneCnt jneCntHRETRY] s t ∧ SameBut [.regs, .jne, .ports] s t)) ∧
      (x.code ≠ 0 → persBase ≤ b.addr → 3 ≤ b.tries → s.jne.log = [] → s.sig.recs = [] → Runs .headBurstResponse s (fun t => jneState t = 5 ∧
        rb t jneSts jneStsHOSTERR = true ∧ t.jne.bursts = [] ∧ RegsBut [jneSts, jneSegcmd] s t ∧ SameBut [.regs, .jne, .ports, .sig] s t))) ∧
    (s.ports.out = [x] → s.jne.bursts = [b] → x.use = .unit 20 (32 + b.id) → x.at_ + 300000 ≤ s.port → persBase ≤ b.addr → b.tries < 3 → idle →
      Runs .headBurstTimeout s (fun t => t.jne.bursts = again ∧ RegsAre [counted s jneCnt jneCntHRETRY] s t ∧
        SameBut [.regs, .jne, .ports] s t)) ∧
    (pdOn s 44 = true → mqOn s m.val = true → jneState s ≠ 0 → Runs (.mqheadWrite m) s (fun t => t.resp = ⟨0, 0⟩ ∧
      mqRing t m.val = asked r ∧ (∀ j, j ≠ m.val → mqRing t j = mqRing s j) ∧ SameBut [.jne, .ports, .resp] s t)) ∧
    (pdOn s 44 = true → s.running = true → s.jne.polled + 30000 ≤ s.port → jneState s ≠ 0 → Runs .mqPoll s (fun t => t.jne.polled = s.port ∧
      (∀ j < 16, mqRing t j = if mqOn s j then asked (mqRing s j) else mqRing s j) ∧ SameBut [.jne, .ports] s t)) ∧
    (s.ports.done.find? (fun z => z.use == HmpUse.unit 20 m.val) = some x → x.code = 0 → idle →
      (bitOf (x.word 0) 47 ≠ r.phase → r.again = true → mqOn s m.val = true → jneState s ≠ 0 → Runs (.mqCompletion m) s (fun t =>
        mqRing t m.val = { r with asked := true, again := false } ∧ t.jne.subs = s.jne.subs ∧ SameBut [.jne, .ports] s t)) ∧
      (bitOf (x.word 0) 47 ≠ r.phase → r.again = false → Runs (.mqCompletion m) s (fun t => mqRing t m.val = { r with asked := false } ∧
        t.ports = { s.ports with done := s.ports.done.erase x } ∧ t.jne.subs = s.jne.subs ∧ SameBut [.jne, .ports] s t)) ∧
      (bitOf (x.word 0) 47 = r.phase → (⟨39, 32⟩ : Fld).get (x.word 0) = 0 →
        s.jne.subs.find? (fun z => z.m == m.val && z.tag == (x.word 0).toNat % 2 ^ 16) = some y → y.op ≠ 4 → mqOn s m.val = true →
        jneState s ≠ 0 → Runs (.mqCompletion m) s (fun t => t.jne.subs = s.jne.subs.erase y ∧ t.jne.mqSt = 0 ∧ t.jne.mqVal = x.word 1 ∧
          mqRing t m.val = ⟨r.sub, if last then 0 else r.comp + 1, if last then !r.phase else r.phase, true, false⟩ ∧
          RegsBut [jneMqcfg m.val] s t ∧ SameBut [.regs, .jne, .ports] s t))) ∧
    (pdOn s 44 = true → rb s (jneMwear m.val) jneMwearMERR = true →
      let hw := setsAt s (jneMwear m.val) (jneMwearMERR.put 0 1)
      (hw = [] → Runs (.merrReadmit m) s (fun t => t.resp = ⟨0, 0⟩ ∧
        RegsAre [withFld s (jneMwear m.val) jneMwearMERR 0] s t ∧ m.val ∈ t.jne.readmit ∧ SameBut [.regs, .jne, .resp] s t)) ∧
      (hw ≠ [] → Runs (.merrReadmit m) s (fun t => t.resp = ⟨0, 0⟩ ∧ RegsBut [jneMwear m.val] s t ∧ m.val ∈ t.jne.readmit ∧
        SameBut [.regs, .jne, .resp, .free] s t))) ∧
    (let p := rf s jnePlccfg jnePlccfgINFOPER; pdOn s 44 = true → s.running = true → infoRuns s = true → p ≠ 0 → s.jne.infoAt + p * 300000000 ≤ s.port → idle → s.jne.bursts = [] →
      (List.range 16).find? (mqOn s) = some m.val →
      mqFailed s m.val = false → mqRoom s m.val = true → Runs .infoPoll s (fun t => t.jne.infoAt = s.port ∧
        t.jne.script = [.ring m.val (s.jne.nextTag % 2 ^ 16) 4 1] ∧ t.jne.bursts.map (fun z => (z.write, z.addr, z.data)) =
          [(true, rf s (jneMqsq m.val) jneMqsqADDR + 4 * r.sub,
            [BitVec.ofNat 48 (4 * 2 ^ 40 + s.jne.nextTag % 2 ^ 16), BitVec.ofNat 48 1, 0, BitVec.ofNat 48 1])] ∧ SameBut [.jne, .ports] s t)) ∧
    (dryRuns s = true → s.jne.script = [] → s.jne.bursts = [] → s.jne.infoq = [] → rb s jnePlccfg jnePlccfgFREEZE = true →
      s.jne.sb.opens.all (fun z => !mqFailed s z.unit) = true → shortOfSlots s = false → batchDue s = true →
      (takeBatch (batchPg s) 0 (dryable s)).getLast? = some c → nextLog s = some o → openAt s.jne.sb o.o = some o → o.cur < 4096 →
      (takeBatch (batchPg s) 0 (dryable s)).all (fun d => d.words.flatten.length == d.size && d.size != 0) = true →
      Runs .drydownBatch s (fun t => t.jne.bLast = c.csn ∧ t.jne.bSeg = o.o ∧ t.jne.bNext = o.o + 1 ∧ t.jne.bursts ≠ [] ∧ t.jne.sb = s.jne.sb ∧
        RegsBut [jnePlcsts] s t ∧ SameBut [.regs, .jne, .ports] s t)) ∧
    (pdOn s 44 = true → holdsType s q 7 = true → rb s jneSegcmd jneSegcmdBUSY = false → jneState s = 3 → dryRuns s = true → s.jne.script = [] →
      s.jne.bursts = [] → s.jne.infoq = [] →
      (pinned = true → Runs (.segPin q seq) s (segDone 0)) ∧
      (pinned = false → live = false → unknownSlot s = none → Runs (.segPin q seq) s (segDone 1)) ∧
      (pinned = false → live = true → 32 ≤ s.jne.sb.pinned.length → Runs (.segPin q seq) s (segDone 2)) ∧
      (pinned = false → live = true → s.jne.sb.pinned.length < 32 → Runs (.segPin q seq) s (pub (.pin seq.toNat))) ∧
      (pinned = false → Runs (.segUnpin q seq) s (segDone 1)) ∧
      (pinned = true → Runs (.segUnpin q seq) s (pub (.unpin seq.toNat))))

/-- R82: a window write stores its bounds, raises the effective window to the parameter floor, and flags a bound below the floor.
Where it rests on the model's choices and not on the specification alone, see log entry 12. -/
def Obligations.PolicyWindows : Prop :=
  ∀ (s : State) (q : Req) (i : Fin 128) (v : Word),
    let shows (t : State) (a : Nat) (fs : Fld × Fld × Fld × Fld) (mn mx fl : Nat) : Prop := rf t a fs.1 = mn ∧ rf t a fs.2.1 = mx ∧
      rf t a fs.2.2.1 = min (max mn fl) (max mx fl) ∧ rf t a fs.2.2.2 = max mx fl
    let dt := (aeAdtwinDTMIN.get v, aeAdtwinDTMAX.get v)
    let ph := (aePhswinNMIN.get v, aePhswinNMAX.get v)
    let pl := (min 16 (jnePlcwinNMIN.get v), min 16 (jnePlcwinNMAX.get v))
    let clip (p : Nat × Nat) (fl : Nat) : Prop := p.1 < fl ∨ p.2 < fl
    (pdOn s (18 + engOf i.val) = true → holdsType s q otAccord = true → s.par.adt < 512 → Runs (.policyWindowWrite q 0 i v) s (fun t =>
      t.resp = ⟨0, 0⟩ ∧ shows t (slotAdtwin i.val) (aeAdtwinDTMIN, aeAdtwinDTMAX, aeAdtwinELO, aeAdtwinEHI) dt.1 dt.2 s.par.adt ∧
      (clip dt s.par.adt → rb t (slotAdtcfg i.val) aeAdtcfgWINDOWCLIPPED = true) ∧
      RegsBut [slotAdtwin i.val, slotAdtcfg i.val] s t ∧ SameBut [.regs, .sem, .resp] s t)) ∧
    (pdOn s 18 = true → holdsType s q otAccord = true → s.par.phs (i.val % 4) < 128 → Runs (.policyWindowWrite q 1 i v) s (fun t =>
      t.resp = ⟨0, 0⟩ ∧ shows t (aePhswin (i.val % 4)) (aePhswinNMIN, aePhswinNMAX, aePhswinELO, aePhswinEHI) ph.1 ph.2 (s.par.phs (i.val % 4)) ∧
      (clip ph (s.par.phs (i.val % 4)) → rb t (aePhssts (i.val % 4)) aePhsstsWINDOWCLIPPED = true) ∧
      RegsBut [aePhswin (i.val % 4), aePhssts (i.val % 4)] s t ∧ SameBut [.regs, .sem, .resp] s t)) ∧
    (pdOn s 44 = true → holdsType s q 7 = true → s.par.plc ≤ 16 → Runs (.policyWindowWrite q 2 i v) s (fun t =>
      t.resp = ⟨0, 0⟩ ∧ shows t jnePlcwin (jnePlcwinNMIN, jnePlcwinNMAX, jnePlcwinELO, jnePlcwinEHI) pl.1 pl.2 s.par.plc ∧
      (clip pl s.par.plc → rb t jnePlcsts jnePlcstsWINDOWCLIPPED = true) ∧
      RegsBut [jnePlcwin, jnePlcsts] s t ∧ SameBut [.regs, .resp] s t))

/-- R402, R407, R408, R410, R411, R413, R416, R420: the rack link and its rings are enabled; a cycle starts with a frame on every enabled
ring and the event RLK_CYCLE, and its end counts liveness and quorum over the units' valid uplinks.
Where it rests on the model's choices and not on the specification alone, see log entries 4, 32, 103, 105, 107, 108, 109, 110, 111, 204. -/
def Obligations.RackCycles : Prop :=
  ∀ (s : State) (q : Req) (k : Fin 4) (v : Word) (hdr : List Word) (c : Nat),
    let u := regPut s (rlkRing k.val) true (rlkRingEN.put v 0)
    let live := (List.range 4).filter (fun j => rb s (rlkRing j) rlkRingEN)
    let at_ := s.port - c
    let ups := (placed s).filterMap (validUp s)
    let acc := (ups.filter (fun x => x.aepoch == rlkEpochEPOCH.get s.rlk.lat && x.aholder == rf s rlkCtrl rlkCtrlSIDE)).length
    (pdOn s 48 = true → holdsType s q otRack = true →
      (rb s rlkCtrl rlkCtrlEN = false → roleOf s = 0 → rlkCtrlEN.get v = 1 → Runs (.rlkEnable q v) s (fun t => t.resp = ⟨0, 0⟩ ∧
        rb t rlkCtrl rlkCtrlEN = true ∧ (∀ f ∈ [rlkCtrlSIDE, rlkCtrlLIMPN, rlkCtrlRTXN, rlkCtrlPER], rf t rlkCtrl f = f.get v) ∧
        rf t rlkMaxep rlkMaxepMAXSEEN = 0 ∧ t.rlk = { s.rlk with lat := rd s rlkEpoch } ∧ RegsBut [rlkCtrl, rlkMaxep] s t ∧ SameBut [.regs, .rlk, .resp] s t)) ∧
      (rb s (rlkRing k.val) rlkRingEN = true → Runs (.ringEnable q k v) s (fun t => t.resp = ⟨0, 0⟩ ∧ RegsAre [withFld s rlkSts rlkStsCFGV 1] s t ∧
        SameBut [.regs, .resp] s t)) ∧
      (rb s (rlkRing k.val) rlkRingEN = false →
        (ringOk u k.val = true → Runs (.ringEnable q k v) s (fun t => t.resp = ⟨0, 0⟩ ∧ rb t (rlkRing k.val) rlkRingEN = true ∧
          (∀ f ∈ [rlkRingNPOSM1, rlkRingDW, rlkRingUW], rf t (rlkRing k.val) f = f.get v) ∧ RegsBut [rlkRing k.val] s t ∧
          SameBut [.regs, .resp] s t)) ∧
        (ringOk u k.val = false → Runs (.ringEnable q k v) s (fun t => t.resp = ⟨0, 0⟩ ∧ rb t (rlkRing k.val) rlkRingEN = false ∧
          rb t rlkSts rlkStsCFGERR = true ∧ RegsBut [rlkRing k.val, rlkSts] s t ∧ SameBut [.regs, .resp] s t)))) ∧
    (pdOn s 48 = true → s.running = true → rb s rlkCtrl rlkCtrlEN = true → s.rlk.start = none → s.rlk.epAt ≠ s.port + 1 →
      ((btime s).toNat + rlkPer s - rf s rlkPhase rlkPhasePHASE % rlkPer s) % rlkPer s = 0 → (∀ j ∈ live, 3 ≤ ringDw s j ∧ 6 ≤ ringUw s j) →
      Runs (.rlkCycleStart []) s (fun t => t.rlk.start = some s.port ∧ t.rlk.cyc = s.rlk.cyc + 1 ∧ t.rlk.lat = rd s rlkEpoch ∧ t.rlk.live = live ∧
        (rlkEpochHOLD.get (rd s rlkEpoch) = 0 → t.rlk.send = []) ∧ t.rlk.frames.map Prod.fst = live ∧ (∀ p ∈ t.rlk.frames, p.2.take 4 = frameHeader s p.1 (btime s) ∧ p.2.length = ringW s p.1) ∧
        Fires [0x002] s t ∧ SameBut [.rlk, .sem] s t)) ∧
    (pdLive s 48 = true → s.running = true → s.rlk.start = some c → frameOpen s k.val = true →
      (Runs (.frameReturn k hdr true true) s (fun t => k.val ∈ t.rlk.bad ∧ RegsAre [withFld s (rlkRsts k.val) rlkRstsFRAMEERR 1] s t ∧
        SameBut [.rlk, .regs] s t)) ∧
      ((s.rlk.frames.find? (fun p => p.1 == k.val)).map (fun p => p.2.take 4) = some hdr → at_ + 32 ≤ rlkPer s →
        Runs (.frameReturn k hdr true false) s (fun t => k.val ∈ t.rlk.counts ∧ RegsAre [withFld s (rlkRsts k.val) rlkRstsRTT at_] s t ∧
          SameBut [.rlk, .regs] s t))) ∧
    (pdLive s 48 = true → s.running = true → s.rlk.start = some c → c + rlkPer s ≤ s.port + 32 → pdOn s 45 = false → pdOn s 47 = false →
      (∀ j ∈ s.rlk.live, j < 4) →
      Runs .rlkCycleEnd s (fun t => t.rlk.start = none ∧ t.rlk.frames = [] ∧
        (∀ j ∈ s.rlk.live, j ∉ s.rlk.counts → (j ∉ s.rlk.began → rb t (rlkRsts j) rlkRstsNOFRAME = true) ∧
          (j ∈ s.rlk.began → j ∉ s.rlk.bad → rb t (rlkRsts j) rlkRstsLATE = true)) ∧
        (∀ w ∈ placed s, (validUp s w = none → rb t (rlkUsts w) rlkUstsVALID = false) ∧ ∀ x, validUp s w = some x →
          rb t (rlkUsts w) rlkUstsVALID = true ∧ rf t (rlkUsts w) rlkUstsMISS = 0) ∧
        rf t rlkAuth rlkAuthACC = acc ∧ rf t rlkAuth rlkAuthLIVE = ups.length ∧
        (rb t rlkSts rlkStsQUORUM = true ↔ rf s rlkAuth rlkAuthNCFG ≠ 0 ∧ rf s rlkAuth rlkAuthNCFG < 2 * acc) ∧
        RegsBut (rlkCnt :: rlkPeer :: rlkSts :: rlkAuth :: rlkMaxep :: (List.range 4).map rlkRcnt ++ (List.range 4).map rlkRsts ++
          (List.range 1024).map rlkUsts) s t ∧ SameBut [.rlk, .regs] s t))

/-- R399, R405, R411 to R414, R421: an uplink slot is valid or counted as an error, its items are taken; reports go to the point engine;
lanes lose and find their block lock.
Where it rests on the model's choices and not on the specification alone, see log entries 4, 103, 104, 106, 112, 204, 205, 206. -/
def Obligations.UplinksAndLanes : Prop :=
  ∀ (s : State) (k : Fin 4) (pos : BitVec 8) (ws : List Word) (r : RlkReport) (l : List RlkReport) (ln : Fin 6) (n : BitVec 16) (e : SendEnt),
    let u := unitAt s k.val pos.toNat
    let w0 := ws.getD 0 0
    let it := ws.getD 5 0
    let lidx := itLidx.get it
    let ent := s.rlk.send.find? (fun e => e.unit == u && e.lidx == lidx && e.tag == itTag.get it)
    let up : Uplink := ⟨u, k.val, w0.toNat % 2 ^ 16, (ws.getD 1 0).toNat % 2 ^ 40, (ws.getD 2 0).toNat % 2 ^ 32, (⟨36, 35⟩ : Fld).get w0, bitOf w0 34,
      ws.getD 4 0⟩
    let seen := { s.rlk with seen := s.rlk.seen ++ [(k.val, pos.toNat)], began := k.val :: s.rlk.began }
    let took := { seen with ups := s.rlk.ups ++ [up] }
    let a := laneReg ln.val
    let fld := laneFld ln.val
    let ber := laneBer s ln.val
    let wins := (s.port - ber.1) / berWindow
    (pdLive s 48 = true → s.running = true → frameOpen s k.val = true → pos.toNat < ringNpos s k.val →
      s.rlk.seen.contains (k.val, pos.toNat) = false → u ≠ 0 →
      (slotValid s k.val u ws = false → Runs (.uplinkSlot k pos ws) s (fun t => t.rlk = seen ∧
        RegsAre [withFld s rlkSts rlkStsSLOTERR 1, counted s (rlkRcnt k.val) rlkRcntSLOTERR] s t ∧ SameBut [.rlk, .regs] s t)) ∧
      (slotValid s k.val u ws = true →
        (upNitem.get w0 = 0 → Runs (.uplinkSlot k pos ws) s (fun t => t.rlk = took ∧ SameBut [.rlk] s t)) ∧
        (upNitem.get w0 = 1 → 7 ≤ ws.length →
          (itOp.get it = 2 → rlkHolds s = true → s.rlk.reps.length < 4096 → Runs (.uplinkSlot k pos ws) s (fun t =>
            t.rlk = { took with reps := s.rlk.reps ++ [⟨u * 2 ^ 15 + lidx, ws.getD 6 0, if itQual.get it = 0 then 0 else 1⟩] } ∧
            SameBut [.rlk] s t)) ∧
          (itOp.get it = 3 → ent = some e → e.val ≠ ws.getD 6 0 → Runs (.uplinkSlot k pos ws) s (fun t => t.rlk = took ∧ SameBut [.rlk] s t)) ∧
          (itOp.get it = 4 → ent = some e → Runs (.uplinkSlot k pos ws) s (fun t => t.rlk = { took with send := s.rlk.send.erase e } ∧
            RegsAre [withFld s rlkSts rlkStsREJECT 1] s t ∧ SameBut [.rlk, .regs] s t))))) ∧
    (pdLive s 48 = true → s.running = true → s.rlk.reps = r :: l → s.jne.live = false → Runs .reportHandoff s (fun t =>
      t.rlk = { s.rlk with reps := l } ∧ t.pne = { s.pne with ops := s.pne.ops ++ [⟨1, 0, 1, r.pnum, r.val, 0, r.qual, 2 * s.port⟩] } ∧
      SameBut [.rlk, .pne] s t)) ∧
    (pdOn s (if ln.val < 4 then 48 else 47) = true →
      Runs (.blockLock ln) s (fun t => RegsAre [withFld s a (laneLock ln.val) 1] s t ∧ laneBer t ln.val = (s.port, 0) ∧
        SameBut [.regs, .rlk, .mlk] s t) ∧
      (2 ≤ wins ∨ wins = 1 ∧ ber.2 < berLimit → Runs (.hiberClear ln) s (fun t => RegsAre [withFld s a (laneHiber ln.val) 0] s t ∧
        SameBut [.regs, .rlk, .mlk] s t)) ∧
      (wins = 0 ∨ wins = 1 ∧ berLimit ≤ ber.2 → Runs (.hiberClear ln) s (fun t => SameBut [.rlk, .mlk] s t)) ∧
      (let c := if ln.val < 4 then rlkRcnt ln.val else a
      let f := fld rlkRcntSHERR mlkLaneSHERR
      rb s a (laneLock ln.val) = true → wins = 0 → Runs (.hiber ln n) s (fun t =>
        rb t a (laneHiber ln.val) = (rb s a (laneHiber ln.val) || decide (berLimit ≤ ber.2 + n.toNat)) ∧
        laneBer t ln.val = (ber.1, ber.2 + n.toNat) ∧ rf t c f = satAdd (f.span - 1) (rf s c f) n.toNat ∧ RegsBut [a, c] s t ∧
        SameBut [.regs, .rlk, .mlk] s t)) ∧
      (rb s a (laneLock ln.val) = true → Runs (.lockLost ln) s (fun t => rb t a (laneLock ln.val) = false ∧
        rb t a (laneHiber ln.val) = false ∧ rb t a (fld rlkRstsLOCKLOST mlkLaneLOCKLOST) = true ∧ (ln.val < 4 → frameOpen s ln.val = true →
          (ln.val ∈ s.rlk.began → ln.val ∈ t.rlk.bad ∧ rb t a rlkRstsFRAMEERR = true) ∧ (ln.val ∉ s.rlk.began → t.rlk = s.rlk)) ∧
        RegsBut (a :: if ln.val < 4 then [] else [mlkSts]) s t ∧ SameBut [.regs, .rlk] s t)))

/-- R427, R428, R432 to R435, R437, R442, R443, R449: the mirror link is enabled and armed; an interval starts with a heartbeat; frames
that fail their checks are counted; heartbeats, images and reports are taken; a copy generation is started and aborted.
Where it rests on the model's choices and not on the specification alone, see log entries 4, 32, 103, 114, 122, 209. -/
def Obligations.MirrorLink : Prop :=
  ∀ (s : State) (q : Req) (v : Word) (ws : List Word) (d x : Word) (r : List Word) (elig : Bool),
    let mi := mlkCtrlMIVL.get v
    let b := frameBody ws
    let w0 := b.getD 0 0
    let f (hi lo : Nat) : Nat := (⟨hi, lo⟩ : Fld).get w0
    let pv := min 3 (f 35 32)
    let arrives (type : Nat) : Prop := mlkHears s = true ∧ frameOk s ws = true ∧ frType.get (ws.headD 0) = type
    let ibuf := rf s mlkIbuf mlkIbufVALUE + 64 * (d.toNat % 128)
    let ns := min 32 ((⟨13, 8⟩ : Fld).get d)
    let total := (bcTable s).foldl (fun k p => k + entLen p) 0
    let gen := max (max (rf s mlkBccmd mlkBccmdGEN) (rf s mlkGen mlkGenCURGEN)) (hbField s 3 ⟨31, 0⟩) + 1
    (pdOn s 47 = true → holdsType s q otMirror = true →
      (rb s mlkCtrl mlkCtrlEN = false →
        (mlkEnOk s mi = true → Runs (.mlkEnable q v) s (fun t => t.resp = ⟨0, 0⟩ ∧ rb t mlkCtrl mlkCtrlEN = true ∧
          (∀ f ∈ [mlkCtrlARMED, mlkCtrlMIVL, mlkCtrlACKTO], rf t mlkCtrl f = f.get v) ∧ RegsBut [mlkCtrl] s t ∧
          SameBut [.regs, .mlk, .resp] s t)) ∧
        (mlkEnOk s mi = false → Runs (.mlkEnable q v) s (fun t => t.resp = ⟨0, 0⟩ ∧ rb t mlkCtrl mlkCtrlEN = false ∧
          rb t mlkSts mlkStsCFGERR = true ∧ RegsBut [mlkCtrl, mlkSts] s t ∧ SameBut [.regs, .mlk, .resp] s t))) ∧
      (rb s mlkCtrl mlkCtrlEN = true → bitOf v 47 = true → mi = rf s mlkCtrl mlkCtrlMIVL → Runs (.mlkArmedWrite q v) s (fun t =>
        t.resp = ⟨0, 0⟩ ∧ rb t mlkCtrl mlkCtrlARMED = true ∧ rb t mlkCtrl mlkCtrlEN = true ∧ t.mlk = { s.mlk with armedSince := true } ∧
        rf t mlkCtrl mlkCtrlMIVL = mi ∧ RegsBut [mlkCtrl] s t ∧ SameBut [.regs, .mlk, .resp] s t)) ∧
      (total ≤ rf s mlkBchalf mlkBchalfVALUE → roleOf s = 5 → evHB s = true → gen < 2 ^ 32 → Runs (.bcStart q elig) s (fun t => t.resp = ⟨0, 0⟩ ∧
        rb t mlkBccmd mlkBccmdBUSY = true ∧ rf t mlkBccmd mlkBccmdGEN = gen ∧ rb t mlkBccmd mlkBccmdELIG = elig ∧
        t.mlk = { s.mlk with bcEnt := 0, bcWord := 0, bcOff := 0, bcCrc := 0xFFFFFFFF, bcElig := elig, bcWords := [] } ∧
        RegsBut [mlkBccmd] s t ∧ SameBut [.regs, .mlk, .resp] s t)) ∧
      (rf s mlkBchalf mlkBchalfVALUE < total ∨ roleOf s ≠ 5 ∨ evHB s = false → Runs (.bcStart q elig) s (fun t => t.resp = ⟨0, 0⟩ ∧
        rb t mlkBccmd mlkBccmdBUSY = false ∧ rb t mlkSts mlkStsBCERR = true ∧ RegsBut [mlkBccmd, mlkSts] s t ∧ SameBut [.regs, .resp] s t)) ∧
      Runs (.bcAbort q elig) s (fun t => t.resp = ⟨0, 0⟩ ∧ rb t mlkBccmd mlkBccmdBUSY = false ∧ t.mlk = { s.mlk with bcWords := [] } ∧
        RegsBut [mlkBccmd] s t ∧ SameBut [.regs, .mlk, .resp] s t)) ∧
    (pdLive s 47 = true → s.running = true → rb s mlkCtrl mlkCtrlEN = true → s.mlk.last ≠ s.port + 1 → (btime s).toNat % mivl s = 0 →
      s.mlk.evalAt = s.port + 1 → roleOf s ≠ 0 → roleOf s ≠ 5 → frameVer s = 2 → Runs .mirrorIntervalStart s (fun t =>
        t.mlk = { s.mlk with iseq := s.mlk.iseq + 1, last := s.port + 1, heard := false, hbAge := s.mlk.hbAge.map (· + 1), sent :=
          [⟨0, mlkFrame { s with mlk := { s.mlk with iseq := s.mlk.iseq + 1 } } 1 (hbBody s 0)⟩] } ∧ Fires [0x003] s t ∧
        RegsAre [withFld s mlkRole mlkRoleMSIL (if s.mlk.heard then 0 else satAdd (mlkRoleMSIL.span - 1) (rf s mlkRole mlkRoleMSIL) 1)] s t ∧
        SameBut [.regs, .mlk, .sem] s t)) ∧
    (pdLive s 47 = true → s.running = true → rb s mlkCtrl mlkCtrlEN = false → s.mlk.last ≠ s.port + 1 → (btime s).toNat % mivl s = 0 →
      Runs .mirrorIntervalStart s (fun t => t.mlk = { s.mlk with last := s.port + 1, hbAge := s.mlk.hbAge.map (· + 1) } ∧ SameBut [.mlk] s t)) ∧
    (mlkHears s = true → frameOk s ws = false →
      ∀ c ∈ [Instr.heartbeat ws, .image ws, .commit ws, .ack ws, .report ws, .bulk ws, .bulkend ws, .rstart ws, .imgpage ws, .rsdone ws],
        Runs c s (fun t => RegsAre [counted s mlkCnt mlkCntFRERR] s t ∧ SameBut [.regs] s t)) ∧
    (arrives 1 → max 2 (f 39 36) ≤ pv → f 41 40 = s.lvl → f 15 0 = rf s mlkCtrl mlkCtrlMIVL →
      (⟨18, 0⟩ : Fld).get (b.getD 2 0) = rf s rlkCtrl rlkCtrlPER → f 42 42 = 0 → Runs (.heartbeat ws) s (fun t => rd t mlkPeer = w0 ∧
        rf t mlkRole mlkRolePROLE = f 47 45 ∧ rf t mlkRole mlkRolePV = pv ∧ rb t mlkRole mlkRoleHB = true ∧ rb t mlkSts mlkStsINCOMPAT = false ∧
        t.mlk = { s.mlk with heard := true, hbAge := some 0, hb := b } ∧ RegsBut [mlkPeer, mlkRole, mlkSts] s t ∧
        SameBut [.regs, .mlk] s t)) ∧
    (arrives 1 → f 41 40 ≠ s.lvl → Runs (.heartbeat ws) s (fun t => rb t mlkRole mlkRoleHB = false ∧ rb t mlkSts mlkStsINCOMPAT = true ∧
      t.mlk = { s.mlk with heard := true, hbAge := none } ∧ RegsBut [mlkPeer, mlkRole, mlkSts] s t ∧ SameBut [.regs, .mlk] s t)) ∧
    (arrives 2 → mlkCompat s = true → roleOf s ≠ 5 → b = d :: r → r.length = ns + 12 → ibuf + 64 ≤ 0x100000 → slotLive s (d.toNat % 128) = false →
      (∀ i < 64, arrayCode s (ibuf + i) = 0) → Runs (.image ws) s (fun t => (∀ i < ns, memRd t (ibuf + i) = r.getD i 0) ∧
        (∀ i < 12, memRd t (ibuf + 0x20 + i) = r.getD (ns + i) 0) ∧ (∀ c, c < ibuf ∨ ibuf + 64 ≤ c → memRd t c = memRd s c) ∧
        t.mlk = { s.mlk with got := s.mlk.got.filter (fun p => p.1 != d.toNat % 128) ++ [(d.toNat % 128, ns)] } ∧
        StoreBeats 18 s t ∧ SameBut [.mem, .tags, .msys, .regs, .free, .mlk] s t)) ∧
    (arrives 5 → mlkCompat s = true → roleOf s ≠ 5 → b = [d, x] → Runs (.report ws) s (fun t =>
      t.pne = { s.pne with ops := s.pne.ops ++ [⟨1, 0, 1, d.toNat % 2 ^ 25, x, 0, (⟨31, 28⟩ : Fld).get d, 2 * s.port⟩] } ∧ SameBut [.pne] s t))

/-- R344, R352, R353, R439 to R441, R444: the standby takes mirrored commits in order, and a resynchronisation and a copy generation in
order; the active side notes acknowledgments, and the mirror becomes STALE without them.
Where it rests on the model's choices and not on the specification alone, see log entries 4, 103, 117, 118, 120, 121, 207, 210. -/
def Obligations.MirroredState : Prop :=
  ∀ (s : State) (ws : List Word),
    let b := frameBody ws
    let n0 := (b.getD 0 0).toNat
    let off := (b.getD 1 0).toNat
    let gen := n0 % 2 ^ 32
    let ahead (type : Nat) : Prop := mlkHears s = true ∧ frameOk s ws = true ∧ frType.get (ws.headD 0) = type ∧ mlkCompat s = true
    let standby (type : Nat) : Prop := ahead type ∧ roleOf s ≠ 5
    let asks (c : Instr) : Prop := Runs c s (fun t => t.mlk = { s.mlk with rsreq := true } ∧ SameBut [.mlk] s t)
    let recs := splitRecords b.length b
    let late := s.jne.staleAt == s.port / 4 + 1
    let d := b.drop 2
    let half := rxHalf s + off
    let tbl := b.drop 4
    let dn : MlkDone := ⟨gen, bitOf (b.getD 1 0) 47, tbl⟩
    (standby 3 → (recCsn b = rf s jneNextcsn jneNextcsnCSN + s.jne.mirq.length ∧ pdOn s 44 = true ∧ jneState s = 3 ∧ s.jne.closing = false ∧
          recs.all recordOk = true →
        Runs (.commit ws) s (fun t => t.jne = { s.jne with mirq := s.jne.mirq ++ [recs] } ∧ t.mlk = { s.mlk with rsreq := s.mlk.rsreq && s.mlk.rs } ∧
          SameBut [.jne, .mlk] s t)) ∧
      (recCsn b ≠ rf s jneNextcsn jneNextcsnCSN + s.jne.mirq.length ∨ s.jne.closing = true → asks (.commit ws))) ∧
    (ahead 4 → roleOf s = 5 → rb s mlkRole mlkRoleRESYNC = false →
      (s.jne.live = true ∨ late = true → Runs (.ack ws) s (fun t =>
        t.mlk = { s.mlk with ackd := max s.mlk.ackd n0, sentAt := s.mlk.sentAt.filter (fun p => n0 < p.1) } ∧
        t.jne = { s.jne with
          log := s.jne.log.map (fun c => if c.csn ≤ n0 then { c with mirrored := true } else c)
          ownq := s.jne.ownq.map (fun p => if late && p.1 == 0x13 then (p.1, [BitVec.ofNat 48 (max s.mlk.ackd n0 + 1)]) else p) } ∧
        SameBut [.jne, .mlk] s t)) ∧
      (s.jne.live = false → late = false → Runs (.ack ws) s (fun t => SameBut [] s t))) ∧
    (mlkLive s = true → s.jne.live = true → s.mlk.sentAt.any (fun p => p.2 + max 1 (rf s mlkCtrl mlkCtrlACKTO) ≤ s.mlk.iseq) = true →
      Runs .ackTimeout s (fun t => t.jne.live = false ∧ rb t mlkRole mlkRoleLIVE = false ∧ rb t jneSts jneStsMIRLIVE = false ∧
        rb t jneSts jneStsDEGRADED = true ∧ t.jne.ownq = s.jne.ownq ++ [(0x13, [BitVec.ofNat 48 (s.mlk.ackd + 1)])] ∧ t.mlk.sentAt = [] ∧ t.mlk.fwd = [] ∧
        RegsBut [mlkRole, jneSts] s t ∧ SameBut [.regs, .jne, .mlk] s t)) ∧
    (standby 8 →
      (pdOn s 44 = true → jneState s = 3 → n0 + 1 < 2 ^ 48 → Runs (.rstart ws) s (fun t => rf t jneNextcsn jneNextcsnCSN = n0 + 1 ∧
        rf t jneAckcsn jneAckcsnCSN = n0 ∧ jneUnp t = 0 ∧ rb t mlkRole mlkRoleRESYNC = true ∧ rf t mlkJsync mlkJsyncCSN = n0 ∧
        t.jne.log = [] ∧ t.jne.held = true ∧ t.jne.zeroing = true ∧ (t.jne.bursts.filter (fun x => !x.bell)).map (fun x => (x.write, x.addr, x.data)) = [(true, persBase, [0])] ∧
        t.mlk = { s.mlk with rs := true, rsC0 := n0, rsPage := 0, rsreq := false, ackSent := n0 } ∧
        RegsBut [jneNextcsn, jneAckcsn, jnePercsn, jneU, jneBudget, jneSts, jneSegcmd, pneSts, mlkRole, mlkJsync] s t ∧
        SameBut [.regs, .jne, .mlk, .ports] s t)) ∧
      (jneState s ≠ 3 → asks (.rstart ws))) ∧
    (standby 9 → s.mlk.rs = true →
      (n0 = 512 * s.mlk.rsPage → b.length = 513 → Runs (.imgpage ws) s (fun t => t.mlk = { s.mlk with rsPage := s.mlk.rsPage + 1 } ∧
        SameBut [.mlk, .ports] s t)) ∧
      (n0 ≠ 512 * s.mlk.rsPage → asks (.imgpage ws))) ∧
    (standby 10 → s.mlk.rs = true →
      (s.mlk.rsPage = imgPages → n0 = s.mlk.rsC0 → off = imgPages → s.mlk.rsreq = false → s.jne.script = [] → s.jne.bursts = [] → s.jne.infoq = [] → jneState s = 3 →
        Runs (.rsdone ws) s (fun t => rb t mlkRole mlkRoleRESYNC = false ∧ t.jne.nsb = nextSb s (.resynced n0) ∧ t.jne.bursts ≠ [] ∧
          RegsBut [mlkRole] s t ∧ SameBut [.regs, .jne, .ports] s t)) ∧
      (s.mlk.rsPage ≠ imgPages → asks (.rsdone ws))) ∧
    (standby 6 → s.mlk.rxGen = gen → off = s.mlk.rxOff → s.mlk.rxDone = none → off + d.length ≤ rf s mlkBchalf mlkBchalfVALUE →
      half + d.length ≤ 0x100000 → (∀ i < d.length, arrayCode s (half + i) = 0) → Runs (.bulk ws) s (fun t =>
        (∀ c, memRd t c = if half ≤ c ∧ c < half + d.length then d.getD (c - half) 0 else memRd s c) ∧
        t.mlk = { s.mlk with rxOff := off + d.length, rxCrc := d.foldl crcWord s.mlk.rxCrc } ∧ StoreBeats 18 s t ∧
        SameBut [.mem, .tags, .msys, .regs, .free, .mlk] s t)) ∧
    (standby 7 → s.mlk.rxGen = gen → gen ≠ 0 → (b.getD 2 0).toNat = s.mlk.rxOff → s.mlk.rxDone = none →
      tbl.foldl crcWord s.mlk.rxCrc ^^^ 0xFFFFFFFF = (b.getD 3 0).toNat % 2 ^ 32 →
      (rb s mlkGen mlkGenINSTALLING = false → Runs (.bulkend ws) s (fun t => rf t mlkGen mlkGenCURGEN = gen ∧
        rb t mlkGen mlkGenCURELIG = bitOf (b.getD 1 0) 47 ∧ rb t mlkGen mlkGenINSTALLING = true ∧ rb t mlkSts mlkStsGENDONE = true ∧
        rb t mlkRole mlkRoleCOPYRX = false ∧ t.mlk.rxGen = 0 ∧ t.mlk.inst = tablePairs tbl ∧ RegsBut [mlkGen, mlkSts, mlkRole] s t ∧
        SameBut [.regs, .mlk] s t)) ∧
      (rb s mlkGen mlkGenINSTALLING = true → Runs (.bulkend ws) s (fun t => t.mlk = { s.mlk with rxGen := 0, rxOff := 0, rxDone := some dn } ∧
        RegsAre [withFld s mlkRole mlkRoleCOPYRX 0] s t ∧ SameBut [.regs, .mlk] s t))) ∧
    (pdLive s 47 = true → s.running = true → rb s mlkGen mlkGenINSTALLING = true → s.mlk.inst = [] → s.mlk.rxDone = none →
      Runs .genInstallDone s (fun t => RegsAre [withFld s mlkGen mlkGenINSTALLING 0] s t ∧ SameBut [.regs] s t))

/-- R452 to R456, R460, R462, R465, R467, R469: buffers are asked for, filled, submitted, freed, taken, replied, timed out and copied;
events are written to the ring.
Where it rests on the model's choices and not on the specification alone, see log entries 4, 127, 128, 129, 130, 131, 174, 208, 212, 213. -/
def Obligations.CommandBuffers : Prop :=
  ∀ (s : State) (q : Req) (r : Fin 12) (b : Fin 64) (a : BitVec 40) (x : HmpTx) (f : CptFetch) (c : CptCopy) (e : CptEvent) (k : Nat)
    (st : BitVec 4) (dt len : BitVec 8) (l : List Nat),
    let i := b.val
    let w0 := bufWord s i 0
    let opc (w : Word) : Nat := (⟨39, 32⟩ : Fld).get w
    let tag (w : Word) : Nat := (⟨23, 8⟩ : Fld).get w
    let shown := cptBuf i :: cptSts :: cptCnt :: cptQhead :: (List.range 13).map cptRq
    let answered (more : List Nat) (w : Word) (status n : Nat) (t : State) : Prop := bufState t i = 4 ∧
      memRd t (bufAddr s i 0) = replyWord (opc w) status (tag w) n ∧ Beats 25 s t ∧ RegsBut (memArb 25 :: more ++ shown) s t ∧
      SameBut [.regs, .mem, .tags, .msys, .free, .cpt, .intc, .ports, .resp] s t
    let replied := answered []
    let before (x : Nat) : Bool := !((bufOf s x).sub == s.port + 1 && decide (r.val < bufOwner s x))
    let whole (n : Nat) : Prop := WordsWhole s (bufAddr s i 0) n
    let mine := q.who.val = r.val ∧ r.val ≠ 10
    let sub (status : Nat) : Prop := Runs (.cptSubmit q r b) s (fun t => t.resp = ⟨0, 0⟩ ∧ replied w0 status 0 t)
    let subv (c : Instr) : Prop := Runs c s (fun t => t.resp = ⟨0, 0⟩ ∧ RegsAre [withFld s (cptRq r.val) cptRqSUBV 1] s t ∧
      SameBut [.regs, .resp] s t)
    (cptOpen s = true →
      (mine → Runs (.cptAlloc q r) s (fun t => t.cpt = { s.cpt with asks := s.cpt.asks ++ [⟨r.val, none, 0⟩] } ∧ SameBut [.cpt] s t)) ∧
      (¬ mine → Runs (.cptAlloc q r) s (fun t => t.resp = ⟨0, 0⟩ ∧ SameBut [.resp] s t)) ∧
      (q.who.val = 10 → Runs (.cptHdb q a) s (fun t => t.resp = ⟨0, 0⟩ ∧
          t.cpt = { s.cpt with asks := s.cpt.asks ++ [⟨10, some a.toNat, 0⟩] } ∧ SameBut [.cpt, .resp] s t) ∧
        Runs (.cptPdb q a) s (fun t => t.resp = ⟨0, 0⟩ ∧
          t.cpt = { s.cpt with asks := s.cpt.asks ++ [⟨12, some a.toNat, 0⟩] } ∧ SameBut [.cpt, .resp] s t)) ∧
      (q.who.val ≠ 10 → Runs (.cptHdb q a) s (fun t => t.resp = ⟨0, 0⟩ ∧ SameBut [.resp] s t) ∧
        Runs (.cptPdb q a) s (fun t => t.resp = ⟨0, 0⟩ ∧ SameBut [.resp] s t)) ∧
      (mine → bufState s i = 1 → bufOwner s i = r.val → whole 2 →
        (headerOk w0 (bufWord s i 1) = false → sub 2) ∧
        (headerOk w0 (bufWord s i 1) = true →
          (opcClass (opc w0) = none → sub 3) ∧
          (opcClass (opc w0) = some k → opcLenOk (opc w0) (w0.toNat % 256) = false → sub 3) ∧
          (opcClass (opc w0) = some k → opcLenOk (opc w0) (w0.toNat % 256) = true →
            (k < 6 → rbit s (cptRq r.val) cptRqPERM k = false → sub 4) ∧
            ((k < 6 → rbit s (cptRq r.val) cptRqPERM k = true) →
              (rb s cptCtrl cptCtrlEN = false ∨ rb s cptCtrl cptCtrlSVEN = false ∨ coreLive s 8 = false ∨ s.cpt.drain = true → sub 6) ∧
              (svcPresent s = true → Runs (.cptSubmit q r b) s (fun t => t.resp = ⟨0, 0⟩ ∧
                bufState t i = 2 ∧ t.cpt.queue = s.cpt.queue.takeWhile before ++ i :: s.cpt.queue.dropWhile before ∧ t.intc = { s.intc with strobes := s.intc.strobes ++ [475] } ∧
                (∀ j, memRd t j = memRd s j) ∧ Beats 25 s t ∧ RegsBut (memArb 25 :: shown) s t ∧
                SameBut [.regs, .msys, .free, .cpt, .intc, .resp] s t)))))) ∧
      (mine → bufOwner s i = r.val → bufState s i = 1 ∨ bufState s i = 4 → Runs (.cptFree q r b) s (fun t => t.resp = ⟨0, 0⟩ ∧
        rd t (cptBuf i) = 0 ∧ bufOf t i = CptBuf.zero ∧ RegsBut shown s t ∧ SameBut [.regs, .cpt, .resp] s t)) ∧
      (mine → bufOwner s i ≠ r.val → subv (.cptFree q r b) ∧ subv (.cptSubmit q r b)) ∧
      (holdsType s q otCommand = true →
        (s.cpt.queue = i :: l → Runs (.cptTake q b) s (fun t => t.resp = ⟨0, 0⟩ ∧ bufState t i = 3 ∧
          t.cpt = { s.cpt with queue := (i :: l).filter (fun j => j != i) } ∧ RegsBut shown s t ∧ SameBut [.regs, .cpt, .resp] s t)) ∧
        (bufState s i = 3 → whole (2 + len.toNat) → Runs (.cptReply q b st dt len) s (fun t => t.resp = ⟨0, 0⟩ ∧
          rf t cptReply cptReplySTATUS = st.toNat ∧ rf t cptReply cptReplyDETAIL = dt.toNat ∧ rf t cptReply cptReplyLEN = len.toNat ∧
          answered [cptReply] (bufOf s i).w0 st.toNat len.toNat t)))) ∧
    (pdLive s 49 = true → s.running = true → whole 2 →
      (bufState s i = 2 → (bufOf s i).dl ≤ s.port → Runs (.cptDeadline b) s (replied (bufOf s i).w0 5 0)) ∧
      (bufState s i = 3 → (bufOf s i).dl = s.port → Runs (.cptDeadline b) s (fun t => SameBut [] s t)) ∧
      (bufState s i = 3 → (bufOf s i).dl < s.port → Runs (.cptDeadline b) s (fun t => bufState t i = 5 ∧ rb t cptSts cptStsTIMEOUT = true ∧
        memRd t (bufAddr s i 0) = replyWord (opc (bufOf s i).w0) 5 (tag (bufOf s i).w0) 0 ∧ Beats 25 s t ∧
        RegsBut (memArb 25 :: shown) s t ∧ SameBut [.regs, .mem, .tags, .msys, .free, .cpt, .intc, .ports] s t))) ∧
    (s.ports.done = [x] →
      (x.use = useFetch i → s.cpt.fetch = [f] → f.buf = i → whole (max 2 f.want) →
        (x.code = 0 → f.got = 0 → x.len = 1 → Runs .cptPacketFetch s (fun t => memRd t (bufAddr s i 0) = x.word 0 ∧
          (∀ j, j ≠ bufAddr s i 0 → memRd t j = memRd s j) ∧
          t.cpt = { s.cpt with fetch := [⟨i, f.area, 1, min 256 ((x.word 0).toNat % 256 + 2)⟩] } ∧ Beats 25 s t ∧
          RegsBut [memArb 25] s t ∧ SameBut [.regs, .mem, .tags, .msys, .free, .cpt, .ports] s t)) ∧
        (x.code = 0 → f.got ≠ 0 → f.got + x.len = f.want → Runs .cptPacketFetch s (fun t => (bufState t i = 2 ∨ bufState t i = 4) ∧ t.cpt.fetch = [] ∧
          (∀ j < x.len, 2 ≤ f.got + j → memRd t (bufAddr s i (f.got + j)) = x.word j) ∧ Beats 25 s t ∧
          RegsBut (memArb 25 :: shown) s t ∧ SameBut [.regs, .mem, .tags, .msys, .free, .cpt, .intc, .ports] s t)) ∧
        (x.code ≠ 0 → Runs .cptPacketFetch s (fun t => replied w0 2 0 t ∧ t.cpt.fetch = []))) ∧
      (x.use = useCopy i → s.cpt.copies = [c] → c.buf = some i →
        (c.last = false → x.code = 0 → x.len = c.left → Runs .cptReplyCopy s (fun t =>
          t.cpt = { s.cpt with copies := [{ c with left := 0, last := true }] } ∧ SameBut [.cpt, .ports] s t)) ∧
        (c.last = true ∨ x.code ≠ 0 → bufState s i = 4 → Runs .cptReplyCopy s (fun t => t.cpt.copies = [] ∧ bufState t i = 0 ∧ RegsBut shown s t ∧
          SameBut [.regs, .cpt, .ports] s t))) ∧
      (x.use = useEvent → s.cpt.evNow = some e →
        (x.code ≠ 0 → Runs .eventRingWrite s (fun t => t.cpt = s.cpt ∧ SameBut [.ports] s t)) ∧
        (x.code = 0 → s.cpt.evStage = 1 → Runs .eventRingWrite s (fun t => t.cpt = { s.cpt with evStage := 2 } ∧ SameBut [.cpt, .ports] s t)) ∧
        (x.code = 0 → s.cpt.evStage = 2 → s.cpt.evq = [] → Runs .eventRingWrite s (fun t => t.cpt = { s.cpt with evNow := none, evStage := 0 } ∧
          RegsAre [withFld s cptEvptr cptEvptrPROD (rf s cptEvptr cptEvptrPROD + 1)] s t ∧ SameBut [.regs, .cpt, .ports] s t))))

/-- R459, R461, R462: the interpreter takes the head of the queue and replies, or hands the command's first item to the point engine or the
journal.
Where it rests on the model's choices and not on the specification alone, see log entries 4, 123, 124, 125, 126, 212. -/
def Obligations.Interpreter : Prop :=
  ∀ (s : State) (b : Fin 64) (l : List Nat),
    let i := b.val
    let p := (bufOf s i).w0
    let n := p.toNat % 256
    let w (j : Nat) : Word := bufWord s i (2 + j)
    let body := (List.range n).map w
    let taken (opc : Nat) : State := setRun (bufChecks (setBufState (unqueue s i) i 3) i 2 n) ⟨i, opc, 0, false, [], false⟩
    let reply (opc st : Nat) (ws : List Word) (t : State) : Prop := bufState t i = 4 ∧ t.cpt.run = none ∧
      memRd t (bufAddr s i 0) = replyWord opc st ((⟨23, 8⟩ : Fld).get p) ws.length ∧ ∀ j < ws.length, memRd t (bufAddr s i (2 + j)) = ws.getD j 0
    let quiet (t : State) : Prop := Beats 25 s t ∧ SameBut [.regs, .mem, .tags, .msys, .free, .cpt, .intc, .ports] s t
    let held (t : State) (opc : Nat) : Prop := bufState t i = 3 ∧ t.cpt.run = some ⟨i, opc, 0, true, [], false⟩ ∧ t.cpt.seq = s.cpt.seq + 1
    let shown := memArb 25 :: cptBuf i :: cptSts :: cptQhead :: (List.range 13).map cptRq
    let asks (c : Instr) (opc kind pnum : Nat) (v aux : Word) : Prop := (⟨39, 32⟩ : Fld).get p = opc → opcLenOk opc n = true → pdOn s 45 = true →
      Runs c s (fun t => held t opc ∧ t.pne = { s.pne with ops := s.pne.ops ++ [⟨5, s.cpt.seq + 1, kind, pnum, v, aux, 0, 2 * s.port⟩] } ∧
        Beats 25 s t ∧ RegsBut shown s t ∧ SameBut [.regs, .msys, .free, .cpt, .pne] s t)
    let pnum := (w 0).toNat % 2 ^ 25
    let got (opc : Nat) (as : List Nat) : List Resp := (svReadList (taken opc) as).1
    let words (l : List Resp) : List Word := l.map (fun x => x.data)
    let shows (c : Instr) (opc : Nat) (as : List Nat) (f : List Word → List Word) : Prop := (⟨39, 32⟩ : Fld).get p = opc →
      (readsCode (got opc as) = 0 → Runs c s (fun t => reply opc 0 (f (words (got opc as))) t ∧ memRd t (bufAddr s i 1) = 0 ∧ quiet t)) ∧
      (readsCode (got opc as) ≠ 0 → Runs c s (fun t => reply opc 8 [] t ∧
        memRd t (bufAddr s i 1) = BitVec.ofNat 48 (readsCode (got opc as) * 2 ^ 24) ∧ quiet t))
    let units := got 0x19 [pneUstate ((w 0).toNat % 1024), pneUdser ((w 0).toNat % 1024), pneUoser ((w 0).toNat % 1024), pneUaser ((w 0).toNat % 1024)]
    let a := (w 0).toNat % 2 ^ 40
    let ns := min ((w 1).toNat % 2 ^ 32) 999999999
    let back := (w 0).toNat < s.dm.jtSec ∨ ((w 0).toNat = s.dm.jtSec ∧ ns * 2 ^ 32 < s.dm.jtNs)
    cptServes s = true → s.cpt.run = none → (∀ j < 64, bufState s j ≠ 3) → s.cpt.queue = i :: l → s.pne.done = [] → s.jne.cptDone = [] → n ≤ 254 →
      WordsWhole s (bufAddr s i 0) 256 →
      shows .cptNop 0x00 [] (fun _ => body) ∧
      shows .version 0x01 [pctlVersion, mlkRole] (fun x => [x.getD 0 0, Config.flaconVersion.setWidth 48, x.getD 1 0]) ∧
      shows .jnlStatus 0x28 [jneSts, jneNextcsn, jneAckcsn, jnePercsn, jneU, jneBudget] id ∧
      shows .roleGet 0x30 [mlkRole, mlkSts, mlkGen, rlkEpoch, rlkAuth, rlkPeer] id ∧
      ((⟨39, 32⟩ : Fld).get p = 0x19 → n = 1 → Runs .unitRead s (fun t =>
        reply 0x19 (if readsCode units = 0 then 0 else 7) (words units) t ∧ quiet t)) ∧
      ((⟨39, 32⟩ : Fld).get p = 0x20 → Runs .timeGet s (fun t => reply 0x20 0 [BitVec.ofNat 48 s.dm.jtSec, BitVec.ofNat 48 (s.dm.jtNs / 2 ^ 32),
        btime s] t ∧ Beats 25 s t ∧ SameBut [.regs, .mem, .tags, .msys, .free, .cpt, .intc, .ports, .dm] s t)) ∧
      asks .ptRead 0x10 0 pnum 0 0 ∧ asks .ptWrite 0x11 1 pnum (w 1) 0 ∧ asks .ptDefine 0x12 2 pnum (w 2) (w 1) ∧ asks .ptDelete 0x13 3 pnum 0 0 ∧
      asks .ptPin 0x14 4 pnum 0 0 ∧ asks .ptUnpin 0x15 5 pnum 0 0 ∧
      asks .unitDeclare 0x18 6 ((⟨41, 32⟩ : Fld).get (w 0) * 2 ^ 15) (w 1) (BitVec.ofNat 48 ((w 0).toNat % 2 ^ 18)) ∧
      ((⟨39, 32⟩ : Fld).get p = 0x29 →
        ((w 0).toNat % 256 < 0x80 → Runs .jnlAppend s (fun t => reply 0x29 3 [] t ∧ quiet t)) ∧
        (0x80 ≤ (w 0).toNat % 256 → Runs .jnlAppend s (fun t => held t 0x29 ∧ t.sig = { s.sig with recs := s.sig.recs ++
          [⟨16, s.cpt.seq + 1, (w 0).toNat % 256, (List.range (n - 1)).map (fun j => w (1 + j))⟩] } ∧ Beats 25 s t ∧ RegsBut shown s t ∧
          SameBut [.regs, .msys, .free, .cpt, .sig] s t))) ∧
      ((⟨39, 32⟩ : Fld).get p = 0x21 →
        (bitOf (w 1) 47 = false → back → Runs .timeSet s (fun t => reply 0x21 8 [] t ∧ t.dm.jtSec = s.dm.jtSec ∧ t.dm.jtNs = s.dm.jtNs ∧
          rb t pctlJtns pctlJtnsJTBACK = true)) ∧
        (bitOf (w 1) 47 = true ∨ ¬ back → Runs .timeSet s (fun t => bufState t i = 3 ∧
          t.cpt.run = some ⟨i, 0x21, 1, false, [BitVec.ofNat 48 s.dm.jtSec, BitVec.ofNat 48 (s.dm.jtNs / 2 ^ 32)], false⟩ ∧
          t.dm.jtSet = some ((w 0).toNat, ns * 2 ^ 32) ∧ t.dm.jtSec = s.dm.jtSec ∧ t.sig = s.sig ∧ RegsBut shown s t))) ∧
      ((⟨39, 32⟩ : Fld).get p = 0x38 → n = 1 →
        (svServes a = true → Runs .regRead s (reply 0x38 (if (svRead (taken 0x38) a).1.code = 0 then 0 else 7)
          [BitVec.ofNat 48 (svRead (taken 0x38) a).1.code, (svRead (taken 0x38) a).1.data])) ∧
        (svServes a = false → Runs .regRead s (fun t => reply 0x38 7 [2, 0] t ∧ quiet t))) ∧
      ((⟨39, 32⟩ : Fld).get p = 0x39 → n = 2 →
        (svServes a = true → svWrite (taken 0x39) a (w 1) = (0, wr (taken 0x39) a (w 1)) → Runs .regWrite s (fun t => reply 0x39 0 [0] t ∧
          (a ≠ memArb 25 → rd t a = w 1 ∧ Beats 25 s t) ∧
          RegsBut (a :: cptReply :: shown) s t ∧ SameBut [.regs, .mem, .tags, .msys, .free, .cpt, .intc, .ports] s t)) ∧
        (svServes a = false → Runs .regWrite s (fun t => reply 0x39 7 [2] t ∧ quiet t)))

/-- R351, R474 to R478: a request for a switched domain is refused, has nothing to do, or starts; a memory domain that is ON is fenced and
drains, and keeps or loses its contents; an engine whose drain takes too long is taken down.
Where it rests on the model's choices and not on the specification alone, see log entries 4, 133, 135, 137, 196. -/
def Obligations.PowerRequests : Prop :=
  ∀ (s : State) (q : Req) (d : Fin 56),
    let n := d.val
    let st := pdState s n
    let r := pdRun s n
    let free := r = PdRun.idle ∧ s.pctl.seq = 0 ∧ holdsType s q otPctl = true
    let ops : List (Instr × Nat) := [(.pdOn q d, 1), (.pdRetain q d, 2), (.pdOff q d, 3), (.pdReset q d, 4), (.pdHold q d, 5), (.pdFreset q d, 6),
      (.pdFoff q d, 7)]
    let here (t : State) : Prop := RegsBut [pctlPd n, pctlSts] s t
    let ended (x : Nat) (t : State) : Prop := pdState t n = x ∧ pdRun t n = PdRun.idle ∧ rb t (pctlPd n) pctlPdBUSY = false ∧
      rf t (pctlPd n) pctlPdLAST = 0 ∧ rb t pctlSts pctlStsPDDONE = true
    let cleared (t : State) : Prop := ∀ j, memRd t j = if (pdArrays n).any (fun p => decide (p.1 ≤ j) && decide (j < p.2)) then 0 else memRd s j
    (free → ∀ p ∈ ops,
      (p.2 = 2 → memDomain n = false → Runs p.1 s (fun t => t.resp = ⟨0, 0⟩ ∧ rf t (pctlPd n) pctlPdLAST = 3 ∧ rb t pctlSts pctlStsPDREF = true ∧
        here t ∧ SameBut [.regs, .resp] s t)) ∧
      (p.2 ≠ 2 ∨ memDomain n = true →
        (opIdle p.2 st = true → Runs p.1 s (fun t => t.resp = ⟨0, 0⟩ ∧ rf t (pctlPd n) pctlPdLAST = 0 ∧ rb t pctlSts pctlStsPDDONE = true ∧
          pdState t n = st ∧ here t ∧ SameBut [.regs, .resp] s t)) ∧
        (opIdle p.2 st = false → depRefuses s n p.2 = true → Runs p.1 s (fun t => t.resp = ⟨0, 0⟩ ∧ rf t (pctlPd n) pctlPdLAST = 1 ∧
          rb t pctlSts pctlStsPDREF = true ∧ pdState t n = st ∧ here t ∧ SameBut [.regs, .resp] s t)) ∧
        (opIdle p.2 st = false → depRefuses s n p.2 = false →
          (st = 0 → Runs p.1 s (fun t => t.resp = ⟨0, 0⟩ ∧ pdState t n = 0 ∧ pdRun t n = ⟨p.2, 1, 0, 0⟩ ∧ rb t (pctlPd n) pctlPdBUSY = true ∧
            rf t (pctlPd n) pctlPdLAST = 0 ∧ RegsBut [pctlPd n] s t ∧ SameBut [.regs, .pctl, .resp] s t)) ∧
          (st = 2 → memDomain n = true → p.2 ≤ 5 → Runs p.1 s (fun t => t.resp = ⟨0, 0⟩ ∧ pdState t n = 3 ∧ pdRun t n = ⟨p.2, 4, s.port, 0⟩ ∧
            rb t (pctlPd n) pctlPdBUSY = true ∧ (∀ j, memRd t j = memRd s j) ∧ RegsBut [pctlPd n] s t ∧ SameBut [.regs, .pctl, .resp] s t)) ∧
          (st = 2 → memDomain n = true → s.ports.out = [] → (∀ y ∈ s.ports.torn, y.2.1 ≠ n) →
            (p.2 = 6 → Runs p.1 s (fun t => ended 2 t ∧ (∀ j, memRd t j = memRd s j) ∧
              (∀ a, wakesWith n a = false → a ≠ pctlPd n → a ≠ pctlSts → rd t a = rd s a) ∧ SameBut [.regs, .pctl, .ports, .resp] s t)) ∧
            (p.2 = 7 → Runs p.1 s (fun t => pdState t n = 6 ∧ pdRun t n = ⟨7, 5, 0, 0⟩ ∧ cleared t ∧ here t ∧
              SameBut [.regs, .pctl, .ports, .mem, .tags, .msys, .resp] s t)))))) ∧
    (r.ph = 4 → st = 3 → memDomain n = true → pdHmp s n = false →
      (r.op = 2 → Runs (.drainComplete d) s (fun t => ended 5 t ∧ here t ∧ SameBut [.regs, .pctl] s t)) ∧
      (r.op = 3 → Runs (.drainComplete d) s (fun t => pdState t n = 6 ∧ pdRun t n = { r with ph := 5, fop := 0 } ∧ cleared t ∧ here t ∧
        SameBut [.regs, .pctl, .mem, .tags, .msys] s t)) ∧
      (r.op = 4 → Runs (.drainComplete d) s (fun t => ended 2 t ∧ (∀ a, wakesWith n a = false → a ≠ pctlPd n → a ≠ pctlSts → rd t a = rd s a) ∧
        SameBut [.regs, .pctl] s t))) ∧
    (r.ph = 4 → r.op = 3 → st = 3 → 18 ≤ n → n < 26 → r.at_ + 3000 ≤ s.port → unitDrained s n = false → s.ports.out = [] → (∀ y ∈ s.ports.torn, y.2.1 ≠ n) →
      Runs (.drainTimeout d) s (fun t => rb t (pctlPd n) pctlPdDTO = true ∧ rb t pctlSts pctlStsDRAINTO = true ∧ pdState t n = 6 ∧
        (pdRun t n).ph = 5 ∧ (∀ p ∈ t.ae.slots, p.1 / 16 ≠ n - 18) ∧ here t ∧
        SameBut [.regs, .pctl, .ports, .mem, .tags, .msys, .ae] s t))

/-- R276, R473, R475: the supply's acknowledgment brings a domain up and takes it down; an edge that does not come, and a supply that is
lost, are faults.
Where it rests on the model's choices and not on the specification alone, see log entries 4, 133, 136. -/
def Obligations.SupplyHandshake : Prop :=
  ∀ (s : State) (d : Fin 56),
    let n := d.val
    let st := pdState s n
    let r := pdRun s n
    let here (t : State) : Prop := RegsBut [pctlPd n, pctlSts] s t
    let ack (t : State) (b : Bool) : Prop := rb t (pctlPd n) pctlPdACK = b
    let ended (x : Nat) (t : State) : Prop := pdState t n = x ∧ pdRun t n = PdRun.idle ∧ rb t (pctlPd n) pctlPdBUSY = false ∧
      rf t (pctlPd n) pctlPdLAST = 0 ∧ rb t pctlSts pctlStsPDDONE = true
    let faulted (t : State) : Prop := rb t (pctlPd n) pctlPdFAULT = true ∧ rb t pctlSts pctlStsPDFAULT = true
    (rb s (pctlPd n) pctlPdACK = false →
      (rb s (pctlPd n) pctlPdREQ = false ∨ r.ph ≠ 2 → Runs (.pdackRise d) s (fun t => RegsAre [withFld s (pctlPd n) pctlPdACK 1] s t ∧
        SameBut [.regs] s t)) ∧
      (rb s (pctlPd n) pctlPdREQ = true → r.ph = 2 → r.fop = 0 →
        (memDomain n = true → Runs (.pdackRise d) s (fun t => ack t true ∧ pdRun t n = { r with ph := 3 } ∧
          (n, 2 * s.port + 16384) ∈ t.msys.clearing ∧ RegsBut [pctlPd n] s t ∧ SameBut [.regs, .pctl, .mem, .tags, .msys] s t)) ∧
        (memDomain n = false → n ≠ 47 → n ≠ 51 → n ≠ 52 → r.op = 1 → st = 1 → Runs (.pdackRise d) s (fun t => ack t true ∧ ended 2 t ∧ here t ∧
          SameBut [.regs, .pctl] s t)))) ∧
    (rb s (pctlPd n) pctlPdREQ = false → rb s (pctlPd n) pctlPdACK = true →
      (r.ph ≠ 6 → Runs (.pdackFall d) s (fun t => RegsAre [withFld s (pctlPd n) pctlPdACK 0] s t ∧ SameBut [.regs] s t)) ∧
      (r.ph = 6 → r.op = 3 → st = 6 → n ≠ 47 → n ≠ 52 → Runs (.pdackFall d) s (fun t => ack t false ∧ ended 0 t ∧ here t ∧
        SameBut [.regs, .pctl] s t))) ∧
    (s.running = true → r.at_ + 300 * max 1 (rf s pctlCtrl pctlCtrlPDTO) ≤ s.port →
      (r.ph = 2 → r.op ≠ 0 → st = 1 → memDomain n = true → Runs (.pdackTimeout d) s (fun t => faulted t ∧ pdState t n = 6 ∧
        pdRun t n = ⟨9, 5, r.at_, 0⟩ ∧ here t ∧ SameBut [.regs, .pctl, .mem, .tags, .msys] s t)) ∧
      (r.ph = 6 → r.fop = 0 → Runs (.pdackTimeout d) s (fun t => faulted t ∧ pdRun t n = { r with fop := 1 } ∧ pdState t n = st ∧ here t ∧
        SameBut [.regs, .pctl] s t))) ∧
    (rb s (pctlPd n) pctlPdREQ = true → rb s (pctlPd n) pctlPdACK = true → 28 ≤ n → n < 44 → st = 2 → s.ports.out = [] →
      Runs (.supplyFault d) s (fun t => faulted t ∧ ack t false ∧ pdState t n = 6 ∧ (pdRun t n).ph = 5 ∧
        (∀ j, (n - 28) * 0x10000 ≤ j → j < (n - 27) * 0x10000 → memRd t j = 0) ∧ here t ∧
        SameBut [.regs, .pctl, .ports, .mem, .tags, .msys] s t))

/-- R470, R471, R479, R481, R482, R486, R508: power-on reset, warm resets, the PLL, the test pin, the behaviour level and the release of
cores.
Where it rests on the model's choices and not on the specification alone, see log entries 4, 133, 134, 138, 140, 141. -/
def Obligations.ResetsAndClocks : Prop :=
  ∀ (s : State) (q : Req) (k : Fin 10) (ro la : Bool) (sel : BitVec 2),
    let fresh (t : State) : Prop := t.mem = [] ∧ t.tags = [] ∧ t.cores = [] ∧ t.running = false ∧ t.port = 0 ∧ t.par = s.par ∧
      t.lvl = s.par.blevel.toNat ∧ t.pending = s.pending ∧
      ∀ a, regUnit a ≠ some 4 → (∀ d < 56, a ≠ pctlPd d) → rd t a = regDefault s.par s.par.blevel.toNat a
    let still := s.pctl.porst = false ∧ s.pctl.lol = false ∧ s.pctl.seq = 0 ∧ s.dbg.src = false ∧ s.halted = false ∧
      ∀ d < 56, memDomain d = false → pdState s d ≠ 2 ∧ pdState s d ≠ 3 ∧ pdState s d ≠ 4
    let begun (c : Nat) (t : State) : Prop := t.pctl.seq = 2 ∧ t.pctl.cause = c ∧ t.mem = s.mem ∧ t.cores = s.cores ∧ t.running = s.running ∧
      ∀ p < 256, rnSafe t p = true
    let core := pctlCorectl k.val
    (s.pctl.porst = true → Runs .powerOnReset s (fun t => t.pctl = { s.pctl with porst := false, pll := true, seq := 1, cause := 0 } ∧
      t.sig = { s.sig with traces := t.sig.traces } ∧
      RegsBut (cvpDrive :: cvpEvsts :: (List.range 8).map cvpSafests) s t ∧ SameBut [.pctl, .regs, .cvp, .sig] s t)) ∧
    Runs .porstAssert s (fun t => fresh t ∧ t.pctl.porst = true ∧ ∀ d < 56, pdState t d = 0) ∧
    Runs .testMode s (fun t => fresh t ∧ t.pctl.porst = false ∧ t.pctl.test = true) ∧
    Runs .sysrstRelease s (fun t => t.pctl = { s.pctl with sysPin := false } ∧ SameBut [.pctl] s t) ∧
    (s.pctl.sysPin = false → still → Runs .sysrst s (fun t => t.pctl.sysPin = true ∧ begun 1 t)) ∧
    (holdsType s q otPctl = true → still → Runs (.swrst q) s (fun t => t.resp = ⟨0, 0⟩ ∧ begun 2 t)) ∧
    (s.pctl.pll = true →
      (s.running = false → s.pctl.seq = 1 → (∀ d ∈ bootSet, pdState s d = 0 ∧ pdRun s d = PdRun.idle) → Runs .pllLock s (fun t =>
        t.running = true ∧ t.port = 0 ∧ t.pctl.seq = 4 ∧ (∀ d ∈ bootSet, (pdRun t d).ph = 1) ∧ SameBut [.running, .port, .pctl] s t)) ∧
      (s.running = false → s.pctl.seq = 1 ∨ s.pctl.lol = true → Runs .pllLockTimeout s (fun t => rb t pctlSts pctlStsPLLERR = true ∧
        rf t pctlSts pctlStsPLLRETRY = satAdd (pctlStsPLLRETRY.span - 1) (rf s pctlSts pctlStsPLLRETRY) 1 ∧ RegsBut [pctlSts] s t ∧
        SameBut [.regs] s t)) ∧
      (s.pctl.lol = false → s.running = true → Runs .lossOfLock s (fun t => t.running = false ∧ t.drvWant = false ∧ t.mlk = { s.mlk with quEnd := false } ∧ t.pctl = { s.pctl with lol := true } ∧
        rb t pctlSts pctlStsPLLERR = true ∧ (∀ p < 256, rnSafe t p = true) ∧ (∀ p ∈ s.cvp.tripWait, p.1 < 64 → t.cvp.tripLive.getLsbD p.1 = true) ∧
        t.sig = { s.sig with traces := t.sig.traces } ∧ RegsBut (pctlSts :: cvpTglatch :: (List.range 8).map cvpSafests) s t ∧
        SameBut [.running, .drvWant, .mlk, .pctl, .regs, .cvp, .sem, .sig] s t))) ∧
    (sel ≠ 0 → holdsType s q otPctl = true → Runs (.blevelWrite q sel) s (fun t => t.resp = ⟨0, 0⟩ ∧
      RegsAre [withFld s pctlBlevel pctlBlevelSEL sel.toNat] s t ∧ t.lvl = s.lvl ∧ SameBut [.regs, .resp] s t)) ∧
    (holdsType s q otPctl = true → Runs (.blevelWrite q 0) s (fun t => t.resp = ⟨0, 0⟩ ∧
      RegsAre [withFld s pctlBlevel pctlBlevelBLVLV 1] s t ∧ SameBut [.regs, .resp] s t)) ∧
    (holdsType s q otPctl = true →
      (pdOn s (coreDomain k.val) = true → rb s core pctlCorectlRUN = false → Runs (.coreRun q k ro la) s (fun t => t.resp = ⟨0, 0⟩ ∧
        rb t core pctlCorectlRUN = true ∧ rb t core pctlCorectlROOTOK = ro ∧ rb t core pctlCorectlLOCKACT = la ∧
        t.pctl = { s.pctl with go := s.pctl.go ++ [k.val] } ∧ RegsBut [core] s t ∧ SameBut [.regs, .pctl, .resp] s t)) ∧
      (pdOn s (coreDomain k.val) = false → Runs (.coreRun q k ro la) s (fun t => t.resp = ⟨0, 0⟩ ∧ rb t pctlSts pctlStsPDREF = true ∧
        rb t core pctlCorectlRUN = rb s core pctlCorectlRUN ∧ RegsBut [core, pctlSts] s t ∧ SameBut [.regs, .resp] s t)))

/-- R483, R485: the boot ROM's image goes into stripe 0 and SV0 is released if its hash is right; the firmware's load of a manifest starts,
takes an entry and ends.
Where it rests on the model's choices and not on the specification alone, see log entries 4, 132, 139. -/
def Obligations.Boot : Prop :=
  ∀ (s : State) (ws : List Word) (m : Manifest) (e : Nat),
    let drive := cvpDrive :: cvpEvsts :: (List.range 8).map cvpSafests
    let good := wordsDigest (romImage s) = (List.range 6).map (fun i => romWord s (2 + i))
    let loads := coreLive s 8 = true ∧ rf s pctlRststs pctlRststsBOOT = 1 ∧ rb s pctlBootsrc pctlBootsrcEN = true
    let tr (t : State) : Prop := t.sig = { s.sig with traces := t.sig.traces }
    let len := (Fld.mk 31 0).get (manWord m 0)
    let a := (Fld.mk 39 0).get (manWord m 2)
    (s.running = true → s.pctl.seq = 5 → s.pctl.next = none →
      (s.pctl.fill = none → pdOn s 28 = true →
        (romOk s = true → Runs .bootFill s (fun t => rf t pctlRststs pctlRststsBOOT = 0 ∧
          (∀ i, memRd t i = if i < romLen s then romWord s (8 + i) else memRd s i) ∧
          t.pctl = { s.pctl with fill := some (2 * s.port + 66 * shaCount (6 * romLen s)) } ∧ RegsBut [pctlRststs] s t ∧
          SameBut [.regs, .mem, .tags, .msys, .pctl] s t)) ∧
        (romOk s = false → Runs .bootFill s (fun t => rf t pctlRststs pctlRststsBOOT = 2 ∧ t.pctl = { s.pctl with seq := 0, cause := 0 } ∧
          t.mem = s.mem ∧ tr t ∧ RegsBut (pctlRststs :: drive) s t ∧ SameBut [.regs, .pctl, .cvp, .sig] s t))) ∧
      (s.pctl.fill = some e → e ≤ 2 * s.port →
        (good → pdOn s 16 = true → rb s (pctlCorectl 8) pctlCorectlRUN = false → Runs .bootFillDone s (fun t =>
          rf t pctlRststs pctlRststsBOOT = 1 ∧ rf t (pctlRstvec 8) pctlRstvecADDR = romEntry s ∧ rb t (pctlCorectl 8) pctlCorectlRUN = true ∧
          rb t (pctlCorectl 8) pctlCorectlROOTOK = true ∧ t.pctl = { s.pctl with fill := none, seq := 0, cause := 0, go := s.pctl.go ++ [8] } ∧
          tr t ∧ RegsBut (pctlRststs :: pctlRstvec 8 :: pctlCorectl 8 :: drive) s t ∧ SameBut [.regs, .pctl, .cvp, .msys, .sig] s t)) ∧
        (¬ good → Runs .bootFillDone s (fun t => rf t pctlRststs pctlRststsBOOT = 2 ∧
          t.pctl = { s.pctl with fill := none, seq := 0, cause := 0 } ∧ tr t ∧ RegsBut (pctlRststs :: drive) s t ∧
          SameBut [.regs, .pctl, .cvp, .msys, .sig] s t)))) ∧
    (loads →
      (s.pctl.man = none → ws.length = 10 * manCount ws + 1 →
        (anchorWords s = List.replicate 6 0 ∨ anchorWords s = wordsDigest ws → Runs (.manifestLoad ws) s (fun t =>
          t.pctl = { s.pctl with man := some ⟨ws, 0, false⟩ } ∧ SameBut [.pctl] s t)) ∧
        (anchorWords s ≠ List.replicate 6 0 → anchorWords s ≠ wordsDigest ws → Runs (.manifestLoad ws) s (fun t =>
          RegsAre [withFld s pctlRststs pctlRststsIMG 3] s t ∧ t.pctl.man = none ∧ SameBut [.regs, .pctl] s t))) ∧
      (s.pctl.man = some m → m.i < manCount m.words → m.go = false → ws.length = len → a + len ≤ 0x100000 → 0 < len →
        (∀ i < len, arrayCode s (a + i) = 0 ∧ arrayWord s (a + i) 23 = (memRd s (a + i), s)) → wordsDigest ws = (List.range 6).map (fun i => manWord m (4 + i)) →
        Runs (.manifestLoad ws) s (fun t => (∀ i < len, memRd t (a + i) = ws.getD i 0) ∧ (∀ j, j < a ∨ a + len ≤ j → memRd t j = memRd s j) ∧
          t.pctl = { s.pctl with man := some { m with i := m.i + 1 } } ∧ StoreBeats 23 s t ∧
          SameBut [.mem, .tags, .msys, .regs, .free, .pctl] s t)) ∧
      (s.pctl.man = some m → manCount m.words ≤ m.i →
        (m.go = false → Runs (.manifestLoad ws) s (fun t => t.pctl = { s.pctl with man := some { m with i := 0, go := true } } ∧
          SameBut [.pctl] s t)) ∧
        (m.go = true → Runs (.manifestLoad ws) s (fun t => t.pctl.man = none ∧
          RegsAre [withFld s pctlRststs pctlRststsIMG (if anchorWords s = List.replicate 6 0 then 2 else 1)] s t ∧ SameBut [.regs, .pctl] s t))))

/-- R509 to R512, R514 to R516, R518, R519: the wire, power requests, authentication and its lockout, levels and keys, and the halting,
stepping and resuming of the block.
Where it rests on the model's choices and not on the specification alone, see log entries 144, 145, 147, 148, 149, 150. -/
def Obligations.DebugPort : Prop :=
  ∀ (s : State) (q : Req) (h : BitVec 12) (w v : Word) (c : BitVec 8) (cap g req : BitVec 2) (k : Fin 6) (n : BitVec 16) (p p0 : Nat) (ps : List Nat),
    let answered (sts : Nat) (x : Word) (t : State) : Prop := t.dbg.sts = sts ∧ t.dbg.data = x
    let open_ (idx : Nat) : Prop := dpGate s idx true = none
    let safe (t : State) : Prop := ∀ i < 256, rnSafe t i = true
    let drive := cvpDrive :: cvpEvsts :: (List.range 8).map cvpSafests
    let tr (t : State) : Prop := t.sig = { s.sig with traces := t.sig.traces }
    let bypassed (t : State) : Prop := ∀ i ∈ s.cvp.tripWait, i.1 < 64 → t.cvp.tripLive.getLsbD i.1 = true
    let sticky := s.dbg.wchk = false ∧ s.dbg.memerr = false
    let word := (List.range 6).map (fun j => (s.dbg.resp.find? (fun x => x.1 == j)).elim (0 : Word) (·.2))
    let good := (p = 1 ∨ p = 2) ∧ keyOk s = true ∧ s.dbg.chalOk = true ∧ word = authExpected s p
    let powers (i : Instr) (d : Nat) : Prop := s.pctl.seq = 0 → pdRun s d = PdRun.idle → pdState s d = 0 → depRefuses s d 1 = false → Runs i s (fun t =>
      answered 0xC 0 t ∧ pdRun t d = ⟨1, 1, 0, 0⟩ ∧ rb t (pctlPd d) pctlPdBUSY = true ∧ RegsBut [pctlPd d] s t ∧
      SameBut [.regs, .pctl, .dbg] s t)
    (s.dbg.sync = false ∨ stuxOk h = false → Runs (.stuxTransaction h w c) s (fun t => t.dbg = { s.dbg with sync := false, sts := 0xF, data := 0 } ∧
      SameBut [.dbg] s t)) ∧
    (s.dbg.sync = true → stuxOk h = true → h.toNat / 2 % 64 = 2 → h.getLsbD 7 = false → Runs (.stuxTransaction h w c) s (fun t =>
      t.dbg = { s.dbg with sts := 0xC, data := dpStat s } ∧ SameBut [.dbg] s t)) ∧
    (s.dbg.sync = true → stuxOk h = true → h.toNat / 2 % 64 = 0x18 → h.getLsbD 7 = true → open_ 0x18 → accBusy s = false →
      (crc8 w = c.toNat → Runs (.stuxTransaction h w c) s (fun t => t.dbg = { s.dbg with maddr := w, acc := 0, sts := 0xC, data := 0 } ∧
        SameBut [.dbg] s t)) ∧
      (crc8 w ≠ c.toNat → Runs (.stuxTransaction h w c) s (fun t => t.dbg = { s.dbg with wchk := true, sts := 0xC, data := 0 } ∧
        SameBut [.dbg] s t))) ∧
    Runs .stuxResync s (fun t => t.dbg = { s.dbg with sync := true } ∧ SameBut [.dbg] s t) ∧
    (sticky → powers .dpPwrreq 53 ∧ powers .dpTrpwr 55) ∧
    Runs (.dpAbort v) s (fun t => t.dbg = { s.dbg with
      hrefused := s.dbg.hrefused && !bitOf v 6, hnoack := s.dbg.hnoack && !bitOf v 7
      wchk := s.dbg.wchk && !bitOf v 8, memerr := s.dbg.memerr && !bitOf v 9, sts := 0xC, data := 0 } ∧ SameBut [.dbg] s t) ∧
    (open_ 7 →
      (s.dbg.lock = none → Runs .dpChal s (fun t => answered 0xC 0 t ∧ t.dbg.chalOk = true ∧ t.dbg.chalCnt = s.dbg.chalCnt + 1 ∧
        t.dbg.chal = [s.dbg.chalCnt + 1, btime s, BitVec.ofNat 48 s.dm.jtSec] ∧ SameBut [.dbg, .dm] s t)) ∧
      (s.dbg.lock = some p → Runs .dpChal s (fun t => t.dbg = { s.dbg with sts := 0xC, data := 0 } ∧ SameBut [.dbg] s t)) ∧
      Runs (.dpCheck req) s (fun t => t.dbg = { s.dbg with check := some (req.toNat, s.port), sts := 0xC, data := 0 } ∧ SameBut [.dbg] s t) ∧
      (dbgGrant s = 2 → dbgCap s = 2 → Runs .dpDrop s (fun t => t.dbg = { s.dbg with auth := 0, sts := 0xC, data := 0 } ∧ SameBut [.dbg] s t)) ∧
      (dbgGrant s < 2 → Runs .dpDrop s (fun t => answered 0xC 0 t ∧ t.dbg.auth = 0 ∧ t.halted = false ∧ t.dbg.src = false))) ∧
    (s.dbg.check = some (p, p0) → s.running = true →
      (good → p = 2 → dbgCap s = 2 → Runs .authCheckDone s (fun t => t.dbg = { s.dbg with check := none, chalOk := false, auth := p } ∧
        t.intc = { s.intc with strobes := s.intc.strobes ++ (if pdOn s 53 then [483] else []) } ∧ SameBut [.dbg, .intc] s t)) ∧
      (¬ good → Runs .authCheckDone s (fun t => t.dbg = { s.dbg with
            check := none, chalOk := false, fails := min 255 (s.dbg.fails + 1), lock := some s.port } ∧
          t.intc = { s.intc with strobes := s.intc.strobes ++ (if pdOn s 53 then [483] else []) } ∧ SameBut [.dbg, .intc] s t))) ∧
    (s.dbg.lock = some p → p + 12 * 2 ^ 20 ≤ s.port → Runs .authLockoutExpiry s (fun t => t.dbg = { s.dbg with lock := none } ∧
      SameBut [.dbg] s t)) ∧
    (2 ≤ max s.dbg.auth (dbgGrant s) → Runs (.dbgcapChange 2) s (fun t => t.dbg = { s.dbg with cap := 2 } ∧ SameBut [.dbg] s t)) ∧
    (cap ≠ 2 → Runs (.dbgcapChange cap) s (fun t => t.dbg.cap = cap.toNat ∧ t.halted = false ∧ t.dbg.src = false)) ∧
    (holdsType s q otDebug = true →
      (dbgCap s = 2 → Runs (.dbgGrantWrite q 2) s (fun t => t.resp = ⟨0, 0⟩ ∧ rf t dbgCtrl dbgCtrlGRANT = 2 ∧ RegsBut [dbgCtrl] s t ∧
        SameBut [.regs, .resp] s t)) ∧
      (g.toNat ≠ 2 → s.dbg.auth < 2 → Runs (.dbgGrantWrite q g) s (fun t => t.resp = ⟨0, 0⟩ ∧ rf t dbgCtrl dbgCtrlGRANT = g.toNat ∧
        t.halted = false ∧ t.dbg.src = false)) ∧
      (dbgLevel s = 2 → Runs (.keylock q) s (fun t => t.resp = ⟨0, 0⟩ ∧ rb t dbgCtrl dbgCtrlKEYLOCK = true ∧ RegsBut [dbgCtrl] s t ∧
        SameBut [.regs, .resp] s t))) ∧
    (rb s dbgCtrl dbgCtrlKEYLOCK = false → Runs (.dbgKeyWrite k v) s (fun t => t.resp = ⟨0, 0⟩ ∧ (k.val, v) ∈ t.dbg.key ∧ SameBut [.dbg, .resp] s t)) ∧
    (rb s dbgCtrl dbgCtrlKEYLOCK = true → Runs (.dbgKeyWrite k v) s (fun t => t.resp = ⟨0, 0⟩ ∧ SameBut [.resp] s t)) ∧
    (open_ 0x10 →
      (s.halted = false → s.dbg.src = false → s.running = true →
        (cvpLive s = true → rb s dbgCtrl dbgCtrlCONSENT = false → Runs .dpHalt s (fun t => t.dbg = { s.dbg with hrefused := true, sts := 0xC, data := 0 } ∧
          t.intc = { s.intc with strobes := s.intc.strobes ++ (if pdOn s 53 then [483] else []) } ∧ SameBut [.dbg, .intc] s t)) ∧
        (cvpLive s = false ∨ rb s dbgCtrl dbgCtrlCONSENT = true → Runs .dpHalt s (fun t => answered 0xC 0 t ∧ t.dbg.src = true ∧
          t.dbg.wait = some (s.port, (List.range 256).filter (fun i => !rnSafe s i)) ∧ safe t ∧ tr t ∧ RegsBut drive s t ∧
          SameBut [.dbg, .regs, .cvp, .sig] s t))) ∧
      (s.halted = true → Runs .dpResume s (fun t => answered 0xC 0 t ∧ t.halted = false ∧ t.dbg.src = false ∧
        t.running = (s.running || (s.pctl.pll && !s.pctl.lol)) ∧ tr t ∧ RegsBut drive s t ∧
        SameBut [.dbg, .halted, .running, .regs, .cvp, .sig] s t)) ∧
      (s.halted = true → s.running = false → s.pctl.lol = false → Runs (.dpStep n) s (fun t => t.running = true ∧
        t.dbg = { s.dbg with stepTo := some (s.port + (max 1 n.toNat + 3) / 4 * 4), sts := 0xC, data := 0 } ∧ SameBut [.dbg, .running] s t))) ∧
    (s.dbg.wait = some (p, ps) → s.running = true → s.port % 4 = 0 → p < s.port → ps = [] ∨ p + 32 ≤ s.port → Runs .haltWaitEnd s (fun t =>
      t.running = false ∧ t.halted = true ∧ t.drvWant = false ∧ t.mlk = { s.mlk with quEnd := false } ∧ t.dbg = { s.dbg with wait := none, hnoack := s.dbg.hnoack || !ps.isEmpty } ∧ bypassed t ∧
      (∀ j < 10, coreLive s j = true → j ∉ t.intc.offered ∧ servedBy t j = []) ∧
      ((∀ j < 10, coreLive s j = false) → s.cvp.tripWait = [] → SameBut [.running, .halted, .drvWant, .mlk, .dbg] s t))) ∧
    (s.running = true → s.halted = true → s.dbg.stepTo = some p → p ≤ s.port → Runs .stepEnd s (fun t => t.running = false ∧ t.drvWant = false ∧ t.mlk = { s.mlk with quEnd := false } ∧
      t.dbg = { s.dbg with stepTo := none } ∧ bypassed t ∧ tr t ∧ RegsBut (cvpTglatch :: (List.range 8).map cvpSafests) s t ∧
      SameBut [.running, .drvWant, .mlk, .dbg, .regs, .cvp, .sem, .sig] s t))

/-- R513, R517, R520 to R522: memory accesses of the debug port, its terminal, stopping, stepping and changing a core, and the trace.
Where it rests on the model's choices and not on the specification alone, see log entries 4, 151, 152, 153, 154. -/
def Obligations.DebugUnit : Prop :=
  ∀ (s : State) (q : Req) (v w : Word) (k : Fin 10),
    let put (x : Dbg) (t : State) : Prop := t.dbg = x ∧ SameBut [.dbg] s t
    let a := s.dbg.maddr.toNat % 2 ^ 40
    let next := (a + 1) % 2 ^ 40
    let c := coreOf s k.val
    let ctl := dbgCorectl k.val
    let n := rf s (dbgCsel k.val) dbgCselSEL
    let stopped (reason : Nat) (t : State) : Prop := (coreOf t k.val).stopped = true ∧ (coreOf t k.val).pc = (coreOf (coreYield s k.val) k.val).pc ∧
      rb t ctl dbgCorectlSTOPPED = true ∧ rf t ctl dbgCorectlREASON = reason ∧ (∀ j, j ≠ k.val → coreOf t j = coreOf s j)
    let i := rf s dbgTrptr dbgTrptrWR
    (dpGate s 0x18 true = none → accBusy s = false → Runs (.dpMaddrWrite v) s (put { s.dbg with maddr := v, acc := 0, sts := 0xC, data := 0 })) ∧
    (dpGate s 0x19 true = none →
      (accBusy s = false → Runs (.dpMdataWrite v) s (put { s.dbg with acc := 2, accW := v, sts := 0xC, data := 0 })) ∧
      (accBusy s = true → Runs (.dpMdataWrite v) s (put { s.dbg with sts := 0x6, data := 0 }))) ∧
    (dpGate s 0x19 false = none →
      (s.dbg.acc = 0 → Runs .dpMdataRead s (put { s.dbg with acc := 1, sts := 0x6, data := 0 })) ∧
      (s.dbg.acc = 3 → Runs .dpMdataRead s (put { s.dbg with
            acc := 0, sts := 0xC, data := s.dbg.accW
            maddr := if bitOf s.dbg.maddr 40 then BitVec.ofNat 48 (s.dbg.maddr.toNat / 2 ^ 40 * 2 ^ 40 + next) else s.dbg.maddr }))) ∧
    (s.running = true → pdOn s 53 = true → a < 0x100000 → clearingAt s a = false → arrayCode s a = 0 →
      (grantable s 27 a (debugRetries s a) = false → s.dbg.acc = 1 ∨ s.dbg.acc = 2 → Runs (.dpAccessDone .none .none) s (fun t => SameBut [.msys] s t)) ∧
      (grantable s 27 a (debugRetries s a) = true →
      (s.dbg.acc = 1 → upsetAt s (upsetKey a) = .none → upsetAt s (tagUpsetKey a) = .none → arrayWord s a 27 = (memRd s a, s) →
        Runs (.dpAccessDone .none .none) s (fun t => t.dbg = { s.dbg with rcode := 0, accW := memRd s a, acc := 3 } ∧ (∀ j, memRd t j = memRd s j) ∧
          RegsBut [memArb 27] s t ∧ SameBut [.dbg, .msys, .regs] s t)) ∧
      (s.dbg.acc = 2 → Runs (.dpAccessDone .none .none) s (fun t => t.dbg = { s.dbg with rcode := 0, accW := 0, acc := 0 } ∧
        (∀ j, memRd t j = if j = a then s.dbg.accW else memRd s j) ∧ (∀ j, tagRd t j = if j = a / 2 * 2 then false else tagRd s j) ∧
        RegsBut [memArb 27] s t ∧ SameBut [.dbg, .msys, .regs, .mem, .tags] s t)))) ∧
    (dpGate s 0x1C false = none →
      (s.dbg.vtOut = some w → Runs .dpVtRead s (fun t => t.dbg = { s.dbg with vtOut := none, sts := 0xC, data := w } ∧
        t.intc = { s.intc with strobes := s.intc.strobes ++ [481] } ∧ SameBut [.dbg, .intc] s t)) ∧
      (s.dbg.vtOut = none → Runs .dpVtRead s (put { s.dbg with sts := 0x6, data := 0 }))) ∧
    (dpGate s 0x1C true = none →
      (s.dbg.vtIn = none → Runs (.dpVtWrite v) s (fun t => t.dbg = { s.dbg with vtIn := some v, sts := 0xC, data := 0 } ∧
        t.intc = { s.intc with strobes := s.intc.strobes ++ [480] } ∧ SameBut [.dbg, .intc] s t)) ∧
      (s.dbg.vtIn = some w → Runs (.dpVtWrite v) s (put { s.dbg with sts := 0x6, data := 0 }))) ∧
    (pdOn s 53 = true →
      (s.dbg.vtOut = none → Runs (.vtoutWrite v) s (fun t => t.resp = ⟨0, 0⟩ ∧ t.dbg = { s.dbg with vtOut := some v } ∧ SameBut [.dbg, .resp] s t)) ∧
      (s.dbg.vtOut = some w → Runs (.vtoutWrite v) s (fun t => t.resp = ⟨0, 0⟩ ∧ RegsAre [withFld s dbgSts dbgStsVTOVF 1] s t ∧
        SameBut [.regs, .resp] s t)) ∧
      Runs .vtinRead s (fun t => t.resp = ⟨0, s.dbg.vtIn.getD 0⟩ ∧ t.dbg = { s.dbg with vtIn := none } ∧ SameBut [.dbg, .resp] s t) ∧
      (holdsType s q otDebug = true →
        ((rd s ctl).toNat % 8 = 0 →
          (c.stopped = false → coreLive s k.val = true → coreMayYield s k.val = true → c.openPair = false → Runs (.dbgStop q k) s (fun t => t.resp = ⟨0, 0⟩ ∧ stopped 1 t)) ∧
          (c.stopped = false → coreLive s k.val = false ∨ coreMayYield s k.val = false ∨ c.openPair = true → Runs (.dbgStop q k) s (fun t => t.resp = ⟨0, 0⟩ ∧ k.val ∈ t.dbg.stops ∧
            RegsBut [ctl] s t ∧ SameBut [.dbg, .resp, .regs] s t)) ∧
          (c.stopped = true →
            Runs (.dbgCoreStep q k) s (fun t => t.resp = ⟨0, 0⟩ ∧ coreOf t k.val = { c with stopped := false, dbgStep := true } ∧
              rb t ctl dbgCorectlSTOPPED = false ∧ (∀ j, j ≠ k.val → coreOf t j = coreOf s j) ∧ RegsBut [ctl] s t ∧
              SameBut [.cores, .dbg, .resp, .regs] s t) ∧
            Runs (.dbgCoreResume q k) s (fun t => t.resp = ⟨0, 0⟩ ∧ coreOf t k.val = { c with stopped := false, dbgStep := false } ∧
              rb t ctl dbgCorectlSTOPPED = false ∧ (∀ j, j ≠ k.val → coreOf t j = coreOf s j) ∧ RegsBut [ctl] s t ∧
              SameBut [.cores, .dbg, .resp, .regs] s t))) ∧
        (c.stopped = true → rf s (dbgCsel k.val) dbgCselSPACE = 2 → Runs (.dbgCdatWrite q k v) s (fun t => t.resp = ⟨0, 0⟩ ∧
          coreOf t k.val = { c with pc := pcOfWord v } ∧ (∀ j, j ≠ k.val → coreOf t j = coreOf s j) ∧ SameBut [.cores, .resp] s t)) ∧
        (c.stopped = true → rf s (dbgCsel k.val) dbgCselSPACE = 0 → Runs (.dbgCdatWrite q k v) s (fun t => t.resp = ⟨0, 0⟩ ∧
          (coreOf t k.val).bank (n / 512) = (c.landAll.bank (n / 512)).setItem (n % 512) v ∧ (∀ j, j ≠ k.val → coreOf t j = coreOf s j) ∧
          SameBut [.cores, .resp] s t)))) ∧
    (coreLive s k.val = true → c.wait = .none → coreMayYield s k.val = true → bpHit s k.val = true → Runs (.breakpoint k) s (stopped 2)) ∧
    (pdOn s 55 = true → traceOn s 4 0xFF = true → s.sig.traces.length < 16 → Runs (.trmarkWrite v) s (fun t => t.resp = ⟨0, 0⟩ ∧
      t.sig = { s.sig with traces := s.sig.traces ++ [⟨4, 0xFF, v.toNat % 2 ^ 36, btime s⟩] } ∧ SameBut [.sig, .resp] s t)) ∧
    (∀ e r, s.sig.traces = e :: r → pdOn s 55 = true → s.running = true → s.sig.tlost = 0 → Runs .traceWrite s (fun t =>
      t.sig = { s.sig with traces := r } ∧ rd t (dbgTrbuf i 0) = e.at_ ∧ rf t dbgTrptr dbgTrptrWR = (i + 1) % 4096 ∧
      rd t (dbgTrbuf i 1) = BitVec.ofNat 48 (e.kind * 2 ^ 44 + e.src % 256 * 2 ^ 36 + e.data % 2 ^ 36) ∧
      RegsBut [dbgTrbuf i 0, dbgTrbuf i 1, dbgTrptr, dbgTrctl] s t ∧ SameBut [.sig, .regs] s t))

/-- R10, R11, R236, R264, R265, R494 to R498: a write of a register follows its access codes and its area; the host slave port performs its
beats; the host master port takes response beats, and completes with DECERR what 1 ms leaves unanswered.
Where it rests on the model's choices and not on the specification alone, see log entries 4, 12, 62, 142, 143. -/
def Obligations.HostPortsAndRegisters : Prop :=
  ∀ (s : State) (q : Req) (a : BitVec 40) (v : Word) (b : BitVec 64) (u : Nat) (d : RegDesc) (ix : List Nat) (addr : BitVec 28) (tag : Fin 32) (code : BitVec 3)
    (x : HmpTx) (p i n : Nat),
    let here (c : Nat) : Prop := c < 0x100000 ∧ clearingAt s c = false ∧ arrayCode s c = 0
    let w := addr.toNat / 8
    let hw := setsAt s a.toNat (d.clears v)
    let put := regMerge d (rd s a.toNat) v (holdsType s q d.otype)
    let code' := if d.guarded && !holdsType s q d.otype then 2 else 0
    let left := x.len - x.beats.length
    (regUnit a.toNat = none → Runs (.registerWrite q a v) s (fun t => t.resp = ⟨4, 0⟩ ∧ SameBut [.resp] s t)) ∧
    (regUnit a.toNat = some u → regFind a.toNat = none → Runs (.registerWrite q a v) s (fun t => t.resp = ⟨0, 0⟩ ∧ SameBut [.resp] s t)) ∧
    (regUnit a.toNat = some u → regFind a.toNat = some (d, ix) →
      (areaOn s ix d.area = false → Runs (.registerWrite q a v) s (fun t => t.resp = ⟨3, 0⟩ ∧ SameBut [.resp] s t)) ∧
      (areaOn s ix d.area = true → u ∈ [1, 9, 10, 11] → d.base ∉ actingRegs u → 
        (hw = [] → Runs (.registerWrite q a v) s (fun t => t.resp = ⟨code', 0⟩ ∧ RegsAre [(a.toNat, put)] s t ∧ SameBut [.regs, .resp] s t)) ∧
        (hw ≠ [] → Runs (.registerWrite q a v) s (fun t => t.resp = ⟨code', 0⟩ ∧ (rd t a.toNat = put ∨ rd t a.toNat = hw.foldl HwSet.apply put) ∧
          RegsBut [a.toNat] s t ∧ SameBut [.regs, .free, .resp] s t)))) ∧
    (s.ports.hspq = [] → s.running = true → hostOpen s = true →
      (addr.toNat % 8 ≠ 0 → Runs (.hspRequest false addr 0 [b] []) s (fun t => t.ports = { s.ports with hsp := [(4, 0)] } ∧ SameBut [.ports] s t)) ∧
      (addr.toNat % 8 = 0 → here w → grantable s 26 w false = false → Runs (.hspRequest true addr 0 [b] []) s (fun t =>
        (∃ y, y.acc = true ∧ t.ports = { s.ports with hspq := [y] }) ∧ SameBut [.ports, .msys] s t)) ∧
      (addr.toNat % 8 = 0 → here w → grantable s 26 w false = true →
        Runs (.hspRequest true addr 0 [b] []) s (fun t => t.ports = { s.ports with hsp := [(0, 0)] } ∧
          (∀ j, memRd t j = if j = w then beatWord b else memRd s j) ∧ (∀ j, tagRd t j = if j = w / 2 * 2 then false else tagRd s j) ∧
          RegsBut [memArb 26] s t ∧ SameBut [.ports, .mem, .tags, .msys, .regs] s t) ∧
        (upsetAt s (upsetKey w) = .none → upsetAt s (tagUpsetKey w) = .none → arrayWord s w 26 = (memRd s w, s) →
          Runs (.hspRequest false addr 0 [b] []) s (fun t => t.ports = { s.ports with hsp := [(0, beatOf (memRd s w))] } ∧
            RegsBut [memArb 26] s t ∧ SameBut [.ports, .msys, .regs] s t)))) ∧
    (pdLive s 54 = true → s.running = true →
      (s.ports.out = [x] → s.ports.wait = [] → x.tag = tag.val → x.use = .unit p i → (∀ y ∈ s.ports.done, ∃ c e, y.use = .unit c e) →
        (x.beats.length + 1 = x.len → Runs (.hmpResponse tag code b) s (fun t => t.ports = { s.ports with
            out := []
            done := s.ports.done ++ [{ x with beats := x.beats ++ [(if code.toNat = 0 ∨ code.toNat = 5 then code.toNat else 4, beatWord b)] }] } ∧ SameBut [.ports] s t)) ∧
        (x.beats.length + 1 ≠ x.len → Runs (.hmpResponse tag code b) s (fun t => t.ports = { s.ports with
            out := [{ x with beats := x.beats ++ [(if code.toNat = 0 ∨ code.toNat = 5 then code.toNat else 4, beatWord b)] }] } ∧ SameBut [.ports] s t)) ∧
        (x.beats.length < x.len → x.at_ + 300000 ≤ s.port → Runs (.hmpTimeout tag) s (fun t => t.ports = { s.ports with
            out := [], late := s.ports.late ++ [(tag.val, left)], done := s.ports.done ++ [{ x with beats := x.beats ++ List.replicate left (4, 0) }] } ∧
          SameBut [.ports] s t))) ∧
      (s.ports.out = [] → s.ports.wait = [] → s.ports.late = [(tag.val, n)] → Runs (.hmpResponse tag code b) s (fun t =>
        t.ports = { s.ports with
          late := if n ≤ 1 then [] else [(tag.val, n - 1)], torn := s.ports.torn.filter (fun y => decide (1 < n) && y.1 == tag.val) } ∧ SameBut [.ports] s t)))

/-- R218, R236, R294, R296, R297, R302, R305, R308: the seven cache maintenance commands, the five TLB commands, the write of the current
address space, the enable and disable of L2 and the disables of the D-cache and of ways complete: each is a write of a supervisor's register
through a token that may control the core, which pops its value and moves the PC on. A command on one line asks that its address translates,
that no operation runs in the background and that no fill of its line is under way; a command that takes translations away, that the core's
accesses have left its queue.
Where it rests on the model's choices and not on the specification alone, see log entries 42, 53, 63, 69, 70. -/
def Obligations.SupervisorWritesComplete : Prop :=
  ∀ (s : State) (k : Fin 2) (ps : Fin 8) (sn : Bool) (t : Fin 16) (ws : List Word) (v : Word) (tr : Trans),
    let c := 8 + k.val
    let u := fetched s c 2
    let va := ((coreOf u c).sr srCmaddr).toNat
    let line := tr.pa / 8
    let op := v.toNat % 8
    let hi := (coreOf u c).sr srTlbhi
    let lo := (coreOf u c).sr srTlblo
    let i := v.toNat / 2 ^ 8 % 64
    let page := hi.toNat / 2 ^ 12 * 2 ^ 12
    let idle : Prop := srf u c srSts ⟨5, 5⟩ = 0
    let free : Prop := idle ∧ fillOf u c line = none
    let quiet : Prop := (coreOf u c).reqs = []
    let fits : Prop := v.toNat % 16 % 2 ^ (v.toNat / 2 ^ 4 % 4) = 0 ∧ v.toNat % 16 + 2 ^ (v.toNat / 2 ^ 4 % 4) ≤ 16
    let done (y : State) : Prop := operands y c = ws ∧ (coreOf y c).pc = pcAdd (coreOf u c).pc 2
    let gone (y : State) : Prop := (∀ w, findWay (svcOf u c).dc 8 line = some w → dLine y c line w = Line.none_) ∧
      (∀ x ∈ (svcOf y c).offers, x.line ≠ line) ∧ (∀ x ∈ (svcOf y c).side, x.line ≠ line)
    let begun (y : State) : Prop := srf y c srSts ⟨5, 5⟩ = 1 ∧ (svcOf y c).bgop = op
    let status (y : State) : Nat := srf y c srTlbcmd ⟨19, 16⟩
    IssuesLong s c ps sn (v :: ws) → (bankOf s c).peek 0 = v → ((bankOf u c).tok t.val).tag = true → ((bankOf u c).tok t.val).otype = 0x20 →
    (op = 1 → free → translate u c va 0 = .ok tr → ∃ y, exec (.svcClean k ps sn t) s = .next y ∧ done y ∧
      ∀ w, findWay (svcOf u c).dc 8 line = some w → (dLine y c line w).dirty = false) ∧
    (op = 2 → free → translate u c va 1 = .ok tr → ∃ y, exec (.svcInv k ps sn t) s = .next y ∧ done y ∧ gone y) ∧
    (op = 3 → free → translate u c va 1 = .ok tr → ∃ y, exec (.svcCleaninv k ps sn t) s = .next y ∧ done y ∧ gone y) ∧
    (op = 4 → free → translate u c va 2 = .ok tr → ∃ y, exec (.svcIcinv k ps sn t) s = .next y ∧ done y ∧
      (∀ w, findWay (svcOf u c).ic 4 line = some w → tget Line.none_ (svcOf y c).ic (wayKey line w) = Line.none_) ∧
      ∀ x ∈ (svcOf y c).side, x.line ≠ line) ∧
    (op = 5 → idle → ∃ y, exec (.svcAllclean k ps sn t) s = .next y ∧ done y ∧ begun y) ∧
    (op = 6 → idle → ∃ y, exec (.svcAllcleaninv k ps sn t) s = .next y ∧ done y ∧ begun y) ∧
    (op = 7 → idle → ∃ y, exec (.svcAllinv k ps sn t) s = .next y ∧ done y ∧ begun y) ∧
    (op = 1 → ∃ y, exec (.tlbRead k ps sn t) s = .next y ∧ done y ∧ status y = 0 ∧
      (coreOf y c).sr srTlbhi = (tlbEntry u c i).1 ∧ (coreOf y c).sr srTlblo = (tlbEntry u c i).2) ∧
    (op = 2 → (tlbV hi = false → quiet) → ∃ y, exec (.tlbWrite k ps sn t) s = .next y ∧ done y ∧
      status y = (if tlbV hi then tlbRefusal u c i hi lo else 0) ∧ tlbEntry y c i = (if status y = 0 then (hi, lo) else tlbEntry u c i)) ∧
    (op = 3 → ∃ y, exec (.tlbProbe k ps sn t) s = .next y ∧ done y ∧
      (status y = 5 ↔ tlbFind u c (tlbAsid hi) page = none) ∧
      ∀ e, tlbFind u c (tlbAsid hi) page = some e → status y = 0 ∧ srf y c srTlbcmd ⟨13, 8⟩ = e) ∧
    (op = 4 → quiet → ∃ y, exec (.tlbInvall k ps sn t) s = .next y ∧ done y ∧ status y = 0 ∧ ∀ e < 64, tlbV (tlbEntry y c e).1 = false) ∧
    (op = 5 → quiet → ∃ y, exec (.tlbInvasid k ps sn t) s = .next y ∧ done y ∧ status y = 0 ∧
      ∀ e < 64, tlbG (tlbEntry u c e).1 = false → tlbAsid (tlbEntry u c e).1 = tlbAsid hi → tlbV (tlbEntry y c e).1 = false) ∧
    (quiet → ∃ y, exec (.curasidWrite k ps sn t) s = .next y ∧ done y ∧
      srf y c srTlbctl ⟨5, 0⟩ = v.toNat % 64 ∧ srf y c srTlbctl ⟨11, 8⟩ = v.toNat / 2 ^ 8 % 16) ∧
    (v.getLsbD 0 = false → ∃ y, exec (.dcacheDisable k ps sn t) s = .next y ∧ done y ∧ srf y c srCtrl ⟨0, 0⟩ = 0 ∧
      (svcOf y c).dUse = (svcOf u c).dUse ∧ ((svcOf u c).dUse = true → srf y c srSts ⟨0, 0⟩ = 1)) ∧
    (v.getLsbD 8 = true → srf u c srL2cfg ⟨8, 8⟩ = 1 ∨ fits →
      ∃ y, exec (.l2Enable k ps sn t) s = .next y ∧ done y ∧ srf y c srL2cfg ⟨8, 8⟩ = 1) ∧
    (v.getLsbD 8 = false → ∃ y, exec (.l2Disable k ps sn t) s = .next y ∧ done y ∧ srf y c srL2cfg ⟨8, 8⟩ = 0 ∧
      (srf u c srL2cfg ⟨8, 8⟩ = 1 → srf y c srSts ⟨6, 6⟩ = 1)) ∧
    ((coreOf s c).sr srWayen &&& ~~~v &&& 0xF00FF ≠ 0 → ∃ y, exec (.wayDisable k ps sn t) s = .next y ∧ done y ∧
      srf y c srWayen ⟨7, 0⟩ = v.toNat % 256 ∧ srf y c srWayen ⟨19, 16⟩ = v.toNat / 2 ^ 16 % 16)
end

