-- ==== Sys2Proof/Laws/Bits.lean ====
section
/-! SUPPORT. Bit fields: what a field reads after it, or another field of the word, was set. -/

namespace Sys2Proof.Machine

/-- A field lies within a word. -/
def Fld.fits (f : Fld) : Bool := f.lo ≤ f.hi && f.hi < 48

/-- A word with a field set, in parts, beside the word itself in parts. -/
theorem Fld.put_toNat (f : Fld) (h : f.fits = true) (w : Word) (v : Nat) :
    (f.put w v).toNat = w.toNat / 2 ^ (f.hi + 1) * 2 ^ (f.hi + 1) + v % f.span * 2 ^ f.lo + w.toNat % 2 ^ f.lo ∧
    w.toNat = w.toNat / 2 ^ (f.hi + 1) * 2 ^ (f.hi + 1) + f.get w * 2 ^ f.lo + w.toNat % 2 ^ f.lo := by
  simp only [Fld.fits, Bool.and_eq_true, decide_eq_true_eq] at h
  obtain ⟨h1, h2⟩ := h
  have hs : 2 ^ (f.hi + 1) = f.span * 2 ^ f.lo := by
    rw [Fld.span, ← Nat.pow_add]; congr 1; omega
  have hw : w.toNat < 2 ^ 48 := w.isLt
  have e : w.toNat = w.toNat / 2 ^ (f.hi + 1) * 2 ^ (f.hi + 1) + f.get w * 2 ^ f.lo + w.toNat % 2 ^ f.lo := by
    have a := Nat.div_add_mod w.toNat (2 ^ f.lo)
    have b := Nat.div_add_mod (w.toNat / 2 ^ f.lo) f.span
    have c : w.toNat / 2 ^ f.lo / f.span = w.toNat / 2 ^ (f.hi + 1) := by
      rw [Nat.div_div_eq_div_mul, hs, Nat.mul_comm]
    rw [c] at b
    have g : f.get w = w.toNat / 2 ^ f.lo % f.span := by rw [Fld.get, Nat.shiftRight_eq_div_pow]
    rw [g, hs]
    calc w.toNat = 2 ^ f.lo * (w.toNat / 2 ^ f.lo) + w.toNat % 2 ^ f.lo := a.symm
      _ = 2 ^ f.lo * (f.span * (w.toNat / 2 ^ (f.hi + 1)) + w.toNat / 2 ^ f.lo % f.span) + w.toNat % 2 ^ f.lo := by rw [b]
      _ = _ := by rw [hs]; ring
  refine ⟨?_, e⟩
  have hsp : 0 < f.span := Nat.pos_of_ne_zero (by rw [Fld.span]; positivity)
  have hv : v % f.span < f.span := Nat.mod_lt _ hsp
  have hr : w.toNat % 2 ^ f.lo < 2 ^ f.lo := Nat.mod_lt _ (Nat.pos_of_ne_zero (by positivity))
  have hq : w.toNat / 2 ^ (f.hi + 1) < 2 ^ (47 - f.hi) := by
    apply Nat.div_lt_of_lt_mul
    rw [← Nat.pow_add]
    have : f.hi + 1 + (47 - f.hi) = 48 := by omega
    rw [this]; exact hw
  have hb : (w.toNat / 2 ^ (f.hi + 1) + 1) * 2 ^ (f.hi + 1) ≤ 2 ^ 48 := by
    calc _ ≤ 2 ^ (47 - f.hi) * 2 ^ (f.hi + 1) := Nat.mul_le_mul_right _ hq
      _ = 2 ^ 48 := by rw [← Nat.pow_add]; congr 1; omega
  have hlt : v % f.span * 2 ^ f.lo + w.toNat % 2 ^ f.lo < 2 ^ (f.hi + 1) := by
    rw [hs]
    calc _ < v % f.span * 2 ^ f.lo + 2 ^ f.lo := by omega
      _ = (v % f.span + 1) * 2 ^ f.lo := by ring
      _ ≤ _ := Nat.mul_le_mul_right _ hv
  rw [Fld.put, BitVec.toNat_ofNat, Nat.shiftLeft_eq, Nat.shiftLeft_eq]
  have hx : w.toNat - f.get w * 2 ^ f.lo = w.toNat / 2 ^ (f.hi + 1) * 2 ^ (f.hi + 1) + w.toNat % 2 ^ f.lo := by omega
  rw [hx, Nat.mod_eq_of_lt]
  · omega
  · rw [Nat.add_mul] at hb; omega

/-- The field that was set reads what was written, its low bits. -/
theorem Fld.get_put (f : Fld) (h : f.fits = true) (w : Word) (v : Nat) : f.get (f.put w v) = v % f.span := by
  have e := (f.put_toNat h w v).1
  simp only [Fld.fits, Bool.and_eq_true, decide_eq_true_eq] at h
  have hs : 2 ^ (f.hi + 1) = f.span * 2 ^ f.lo := by
    rw [Fld.span, ← Nat.pow_add]; congr 1; omega
  have hr : w.toNat % 2 ^ f.lo < 2 ^ f.lo := Nat.mod_lt _ (Nat.pos_of_ne_zero (by positivity))
  rw [Fld.get, e, Nat.shiftRight_eq_div_pow, hs, ← Nat.mul_assoc, ← Nat.add_mul, Nat.add_comm, Nat.add_mul_div_right _ _ (by positivity),
    Nat.div_eq_of_lt hr, Nat.zero_add, Nat.add_comm, Nat.add_mul_mod_self_right, Nat.mod_mod]

/-- A field apart from the one written keeps its value. -/
theorem Fld.get_put_apart (f g : Fld) (hf : f.fits = true) (hg : g.fits = true) (h : f.hi < g.lo ∨ g.hi < f.lo) (w : Word) (v : Nat) :
    g.get (f.put w v) = g.get w := by
  obtain ⟨e1, e2⟩ := f.put_toNat hf w v
  simp only [Fld.fits, Bool.and_eq_true, decide_eq_true_eq] at hf hg
  have hs : 2 ^ (f.hi + 1) = f.span * 2 ^ f.lo := by
    rw [Fld.span, ← Nat.pow_add]; congr 1; omega
  have hsp : 0 < f.span := Nat.pos_of_ne_zero (by rw [Fld.span]; positivity)
  have hv : v % f.span < f.span := Nat.mod_lt _ hsp
  have hgt : f.get w < f.span := Nat.mod_lt _ hsp
  have hr : w.toNat % 2 ^ f.lo < 2 ^ f.lo := Nat.mod_lt _ (Nat.pos_of_ne_zero (by positivity))
  rcases h with h | h
  · -- g above f: both agree above bit f.hi
    have low : ∀ x, x < f.span → x * 2 ^ f.lo + w.toNat % 2 ^ f.lo < 2 ^ (f.hi + 1) := by
      intro x hx
      rw [hs]
      calc _ < x * 2 ^ f.lo + 2 ^ f.lo := by omega
        _ = (x + 1) * 2 ^ f.lo := by ring
        _ ≤ _ := Nat.mul_le_mul_right _ hx
    have d : ∀ n m, n = w.toNat / 2 ^ (f.hi + 1) * 2 ^ (f.hi + 1) + m → m < 2 ^ (f.hi + 1) → n / 2 ^ g.lo = w.toNat / 2 ^ (f.hi + 1) / 2 ^ (g.lo - (f.hi + 1)) := by
      intro n m hn hm
      have : 2 ^ g.lo = 2 ^ (f.hi + 1) * 2 ^ (g.lo - (f.hi + 1)) := by rw [← Nat.pow_add]; congr 1; omega
      rw [this, ← Nat.div_div_eq_div_mul, hn, Nat.add_comm, Nat.add_mul_div_right _ _ (by positivity), Nat.div_eq_of_lt hm, Nat.zero_add]
    rw [Fld.get, Fld.get, Nat.shiftRight_eq_div_pow, Nat.shiftRight_eq_div_pow,
      d _ _ (by rw [e1, Nat.add_assoc]) (low _ hv), d _ _ (by rw [Nat.add_assoc] at e2; exact e2) (low _ hgt)]
  · -- g below f: both agree below bit f.lo
    have m : ∀ n, n % 2 ^ f.lo = w.toNat % 2 ^ f.lo → n / 2 ^ g.lo % g.span = w.toNat % 2 ^ f.lo / 2 ^ g.lo % g.span := by
      intro n hn
      have hp : 2 ^ f.lo = 2 ^ g.lo * (g.span * 2 ^ (f.lo - (g.hi + 1))) := by
        rw [Fld.span, ← Nat.pow_add, ← Nat.pow_add]; congr 1; omega
      rw [← hn]
      conv_rhs => rw [hp, Nat.mod_mul_right_div_self, Nat.mod_mul_right_mod]
    have e3 : (f.put w v).toNat % 2 ^ f.lo = w.toNat % 2 ^ f.lo := by
      rw [e1, hs, ← Nat.mul_assoc, ← Nat.add_mul, Nat.add_comm, Nat.add_mul_mod_self_right, Nat.mod_mod]
    rw [Fld.get, Fld.get, Nat.shiftRight_eq_div_pow, Nat.shiftRight_eq_div_pow, m _ e3, m _ rfl]
end Sys2Proof.Machine
end

