-- ==== Sys2Proof/Laws/State.lean ====
section
/-! SUPPORT. Which fields of the state each named update leaves as they were: no proof needs to unfold an update. -/

namespace Sys2Proof.Machine

variable (s : State)

@[simp] theorem wr_pending (a : Nat) (v : Word) : (wr s a v).pending = s.pending := rfl
@[simp] theorem wr_port (a : Nat) (v : Word) : (wr s a v).port = s.port := rfl
@[simp] theorem wr_running (a : Nat) (v : Word) : (wr s a v).running = s.running := rfl
@[simp] theorem wr_par (a : Nat) (v : Word) : (wr s a v).par = s.par := rfl
@[simp] theorem wr_lvl (a : Nat) (v : Word) : (wr s a v).lvl = s.lvl := rfl
@[simp] theorem wr_mem (a : Nat) (v : Word) : (wr s a v).mem = s.mem := rfl
@[simp] theorem wr_tags (a : Nat) (v : Word) : (wr s a v).tags = s.tags := rfl
@[simp] theorem wr_free (a : Nat) (v : Word) : (wr s a v).free = s.free := rfl
@[simp] theorem wr_sets (a : Nat) (v : Word) : (wr s a v).sets = s.sets := rfl
@[simp] theorem wr_resp (a : Nat) (v : Word) : (wr s a v).resp = s.resp := rfl
@[simp] theorem wr_sig (a : Nat) (v : Word) : (wr s a v).sig = s.sig := rfl
@[simp] theorem wr_halted (a : Nat) (v : Word) : (wr s a v).halted = s.halted := rfl
@[simp] theorem wr_drvWant (a : Nat) (v : Word) : (wr s a v).drvWant = s.drvWant := rfl
@[simp] theorem wr_ssp (a : Nat) (v : Word) : (wr s a v).ssp = s.ssp := rfl
@[simp] theorem wr_cores (a : Nat) (v : Word) : (wr s a v).cores = s.cores := rfl
@[simp] theorem wr_svc (a : Nat) (v : Word) : (wr s a v).svc = s.svc := rfl
@[simp] theorem wr_ports (a : Nat) (v : Word) : (wr s a v).ports = s.ports := rfl
@[simp] theorem wr_msys (a : Nat) (v : Word) : (wr s a v).msys = s.msys := rfl
@[simp] theorem wr_cvp (a : Nat) (v : Word) : (wr s a v).cvp = s.cvp := rfl
@[simp] theorem wr_ae (a : Nat) (v : Word) : (wr s a v).ae = s.ae := rfl
@[simp] theorem wr_dm (a : Nat) (v : Word) : (wr s a v).dm = s.dm := rfl
@[simp] theorem wr_sem (a : Nat) (v : Word) : (wr s a v).sem = s.sem := rfl
@[simp] theorem wr_intc (a : Nat) (v : Word) : (wr s a v).intc = s.intc := rfl
@[simp] theorem wr_pne (a : Nat) (v : Word) : (wr s a v).pne = s.pne := rfl
@[simp] theorem wr_rlk (a : Nat) (v : Word) : (wr s a v).rlk = s.rlk := rfl
@[simp] theorem wr_wac (a : Nat) (v : Word) : (wr s a v).wac = s.wac := rfl
@[simp] theorem wr_jne (a : Nat) (v : Word) : (wr s a v).jne = s.jne := rfl
@[simp] theorem wr_mlk (a : Nat) (v : Word) : (wr s a v).mlk = s.mlk := rfl
@[simp] theorem wr_cpt (a : Nat) (v : Word) : (wr s a v).cpt = s.cpt := rfl
@[simp] theorem wr_pctl (a : Nat) (v : Word) : (wr s a v).pctl = s.pctl := rfl
@[simp] theorem wr_dbg (a : Nat) (v : Word) : (wr s a v).dbg = s.dbg := rfl

@[simp] theorem wf_pending (a : Nat) (f : Fld) (v : Nat) : (wf s a f v).pending = s.pending := rfl
@[simp] theorem wf_port (a : Nat) (f : Fld) (v : Nat) : (wf s a f v).port = s.port := rfl
@[simp] theorem wf_running (a : Nat) (f : Fld) (v : Nat) : (wf s a f v).running = s.running := rfl
@[simp] theorem wf_par (a : Nat) (f : Fld) (v : Nat) : (wf s a f v).par = s.par := rfl
@[simp] theorem wf_lvl (a : Nat) (f : Fld) (v : Nat) : (wf s a f v).lvl = s.lvl := rfl
@[simp] theorem wf_mem (a : Nat) (f : Fld) (v : Nat) : (wf s a f v).mem = s.mem := rfl
@[simp] theorem wf_tags (a : Nat) (f : Fld) (v : Nat) : (wf s a f v).tags = s.tags := rfl
@[simp] theorem wf_free (a : Nat) (f : Fld) (v : Nat) : (wf s a f v).free = s.free := rfl
@[simp] theorem wf_sets (a : Nat) (f : Fld) (v : Nat) : (wf s a f v).sets = s.sets := rfl
@[simp] theorem wf_resp (a : Nat) (f : Fld) (v : Nat) : (wf s a f v).resp = s.resp := rfl
@[simp] theorem wf_sig (a : Nat) (f : Fld) (v : Nat) : (wf s a f v).sig = s.sig := rfl
@[simp] theorem wf_halted (a : Nat) (f : Fld) (v : Nat) : (wf s a f v).halted = s.halted := rfl
@[simp] theorem wf_drvWant (a : Nat) (f : Fld) (v : Nat) : (wf s a f v).drvWant = s.drvWant := rfl
@[simp] theorem wf_ssp (a : Nat) (f : Fld) (v : Nat) : (wf s a f v).ssp = s.ssp := rfl
@[simp] theorem wf_cores (a : Nat) (f : Fld) (v : Nat) : (wf s a f v).cores = s.cores := rfl
@[simp] theorem wf_svc (a : Nat) (f : Fld) (v : Nat) : (wf s a f v).svc = s.svc := rfl
@[simp] theorem wf_ports (a : Nat) (f : Fld) (v : Nat) : (wf s a f v).ports = s.ports := rfl
@[simp] theorem wf_msys (a : Nat) (f : Fld) (v : Nat) : (wf s a f v).msys = s.msys := rfl
@[simp] theorem wf_cvp (a : Nat) (f : Fld) (v : Nat) : (wf s a f v).cvp = s.cvp := rfl
@[simp] theorem wf_ae (a : Nat) (f : Fld) (v : Nat) : (wf s a f v).ae = s.ae := rfl
@[simp] theorem wf_dm (a : Nat) (f : Fld) (v : Nat) : (wf s a f v).dm = s.dm := rfl
@[simp] theorem wf_sem (a : Nat) (f : Fld) (v : Nat) : (wf s a f v).sem = s.sem := rfl
@[simp] theorem wf_intc (a : Nat) (f : Fld) (v : Nat) : (wf s a f v).intc = s.intc := rfl
@[simp] theorem wf_pne (a : Nat) (f : Fld) (v : Nat) : (wf s a f v).pne = s.pne := rfl
@[simp] theorem wf_rlk (a : Nat) (f : Fld) (v : Nat) : (wf s a f v).rlk = s.rlk := rfl
@[simp] theorem wf_wac (a : Nat) (f : Fld) (v : Nat) : (wf s a f v).wac = s.wac := rfl
@[simp] theorem wf_jne (a : Nat) (f : Fld) (v : Nat) : (wf s a f v).jne = s.jne := rfl
@[simp] theorem wf_mlk (a : Nat) (f : Fld) (v : Nat) : (wf s a f v).mlk = s.mlk := rfl
@[simp] theorem wf_cpt (a : Nat) (f : Fld) (v : Nat) : (wf s a f v).cpt = s.cpt := rfl
@[simp] theorem wf_pctl (a : Nat) (f : Fld) (v : Nat) : (wf s a f v).pctl = s.pctl := rfl
@[simp] theorem wf_dbg (a : Nat) (f : Fld) (v : Nat) : (wf s a f v).dbg = s.dbg := rfl

@[simp] theorem wb_pending (a : Nat) (f : Fld) (b : Bool) : (wb s a f b).pending = s.pending := rfl
@[simp] theorem wb_port (a : Nat) (f : Fld) (b : Bool) : (wb s a f b).port = s.port := rfl
@[simp] theorem wb_running (a : Nat) (f : Fld) (b : Bool) : (wb s a f b).running = s.running := rfl
@[simp] theorem wb_par (a : Nat) (f : Fld) (b : Bool) : (wb s a f b).par = s.par := rfl
@[simp] theorem wb_lvl (a : Nat) (f : Fld) (b : Bool) : (wb s a f b).lvl = s.lvl := rfl
@[simp] theorem wb_mem (a : Nat) (f : Fld) (b : Bool) : (wb s a f b).mem = s.mem := rfl
@[simp] theorem wb_tags (a : Nat) (f : Fld) (b : Bool) : (wb s a f b).tags = s.tags := rfl
@[simp] theorem wb_free (a : Nat) (f : Fld) (b : Bool) : (wb s a f b).free = s.free := rfl
@[simp] theorem wb_sets (a : Nat) (f : Fld) (b : Bool) :
    (wb s a f b).sets = if b then s.sets ++ [⟨a, f, .bits, 1⟩] else s.sets := rfl
@[simp] theorem wb_resp (a : Nat) (f : Fld) (b : Bool) : (wb s a f b).resp = s.resp := rfl
@[simp] theorem wb_sig (a : Nat) (f : Fld) (b : Bool) : (wb s a f b).sig = s.sig := rfl
@[simp] theorem wb_halted (a : Nat) (f : Fld) (b : Bool) : (wb s a f b).halted = s.halted := rfl
@[simp] theorem wb_drvWant (a : Nat) (f : Fld) (b : Bool) : (wb s a f b).drvWant = s.drvWant := rfl
@[simp] theorem wb_ssp (a : Nat) (f : Fld) (b : Bool) : (wb s a f b).ssp = s.ssp := rfl
@[simp] theorem wb_cores (a : Nat) (f : Fld) (b : Bool) : (wb s a f b).cores = s.cores := rfl
@[simp] theorem wb_svc (a : Nat) (f : Fld) (b : Bool) : (wb s a f b).svc = s.svc := rfl
@[simp] theorem wb_ports (a : Nat) (f : Fld) (b : Bool) : (wb s a f b).ports = s.ports := rfl
@[simp] theorem wb_msys (a : Nat) (f : Fld) (b : Bool) : (wb s a f b).msys = s.msys := rfl
@[simp] theorem wb_cvp (a : Nat) (f : Fld) (b : Bool) : (wb s a f b).cvp = s.cvp := rfl
@[simp] theorem wb_ae (a : Nat) (f : Fld) (b : Bool) : (wb s a f b).ae = s.ae := rfl
@[simp] theorem wb_dm (a : Nat) (f : Fld) (b : Bool) : (wb s a f b).dm = s.dm := rfl
@[simp] theorem wb_sem (a : Nat) (f : Fld) (b : Bool) : (wb s a f b).sem = s.sem := rfl
@[simp] theorem wb_intc (a : Nat) (f : Fld) (b : Bool) : (wb s a f b).intc = s.intc := rfl
@[simp] theorem wb_pne (a : Nat) (f : Fld) (b : Bool) : (wb s a f b).pne = s.pne := rfl
@[simp] theorem wb_rlk (a : Nat) (f : Fld) (b : Bool) : (wb s a f b).rlk = s.rlk := rfl
@[simp] theorem wb_wac (a : Nat) (f : Fld) (b : Bool) : (wb s a f b).wac = s.wac := rfl
@[simp] theorem wb_jne (a : Nat) (f : Fld) (b : Bool) : (wb s a f b).jne = s.jne := rfl
@[simp] theorem wb_mlk (a : Nat) (f : Fld) (b : Bool) : (wb s a f b).mlk = s.mlk := rfl
@[simp] theorem wb_cpt (a : Nat) (f : Fld) (b : Bool) : (wb s a f b).cpt = s.cpt := rfl
@[simp] theorem wb_pctl (a : Nat) (f : Fld) (b : Bool) : (wb s a f b).pctl = s.pctl := rfl
@[simp] theorem wb_dbg (a : Nat) (f : Fld) (b : Bool) : (wb s a f b).dbg = s.dbg := rfl

@[simp] theorem wbit_pending (a : Nat) (f : Fld) (i : Nat) (b : Bool) : (wbit s a f i b).pending = s.pending := rfl
@[simp] theorem wbit_port (a : Nat) (f : Fld) (i : Nat) (b : Bool) : (wbit s a f i b).port = s.port := rfl
@[simp] theorem wbit_running (a : Nat) (f : Fld) (i : Nat) (b : Bool) : (wbit s a f i b).running = s.running := rfl
@[simp] theorem wbit_par (a : Nat) (f : Fld) (i : Nat) (b : Bool) : (wbit s a f i b).par = s.par := rfl
@[simp] theorem wbit_lvl (a : Nat) (f : Fld) (i : Nat) (b : Bool) : (wbit s a f i b).lvl = s.lvl := rfl
@[simp] theorem wbit_mem (a : Nat) (f : Fld) (i : Nat) (b : Bool) : (wbit s a f i b).mem = s.mem := rfl
@[simp] theorem wbit_tags (a : Nat) (f : Fld) (i : Nat) (b : Bool) : (wbit s a f i b).tags = s.tags := rfl
@[simp] theorem wbit_free (a : Nat) (f : Fld) (i : Nat) (b : Bool) : (wbit s a f i b).free = s.free := rfl
@[simp] theorem wbit_sets (a : Nat) (f : Fld) (i : Nat) (b : Bool) :
    (wbit s a f i b).sets = if b then s.sets ++ [⟨a, f, .bits, 2 ^ i⟩] else s.sets := rfl
@[simp] theorem wbit_resp (a : Nat) (f : Fld) (i : Nat) (b : Bool) : (wbit s a f i b).resp = s.resp := rfl
@[simp] theorem wbit_sig (a : Nat) (f : Fld) (i : Nat) (b : Bool) : (wbit s a f i b).sig = s.sig := rfl
@[simp] theorem wbit_halted (a : Nat) (f : Fld) (i : Nat) (b : Bool) : (wbit s a f i b).halted = s.halted := rfl
@[simp] theorem wbit_drvWant (a : Nat) (f : Fld) (i : Nat) (b : Bool) : (wbit s a f i b).drvWant = s.drvWant := rfl
@[simp] theorem wbit_ssp (a : Nat) (f : Fld) (i : Nat) (b : Bool) : (wbit s a f i b).ssp = s.ssp := rfl
@[simp] theorem wbit_cores (a : Nat) (f : Fld) (i : Nat) (b : Bool) : (wbit s a f i b).cores = s.cores := rfl
@[simp] theorem wbit_svc (a : Nat) (f : Fld) (i : Nat) (b : Bool) : (wbit s a f i b).svc = s.svc := rfl
@[simp] theorem wbit_ports (a : Nat) (f : Fld) (i : Nat) (b : Bool) : (wbit s a f i b).ports = s.ports := rfl
@[simp] theorem wbit_msys (a : Nat) (f : Fld) (i : Nat) (b : Bool) : (wbit s a f i b).msys = s.msys := rfl
@[simp] theorem wbit_cvp (a : Nat) (f : Fld) (i : Nat) (b : Bool) : (wbit s a f i b).cvp = s.cvp := rfl
@[simp] theorem wbit_ae (a : Nat) (f : Fld) (i : Nat) (b : Bool) : (wbit s a f i b).ae = s.ae := rfl
@[simp] theorem wbit_dm (a : Nat) (f : Fld) (i : Nat) (b : Bool) : (wbit s a f i b).dm = s.dm := rfl
@[simp] theorem wbit_sem (a : Nat) (f : Fld) (i : Nat) (b : Bool) : (wbit s a f i b).sem = s.sem := rfl
@[simp] theorem wbit_intc (a : Nat) (f : Fld) (i : Nat) (b : Bool) : (wbit s a f i b).intc = s.intc := rfl
@[simp] theorem wbit_pne (a : Nat) (f : Fld) (i : Nat) (b : Bool) : (wbit s a f i b).pne = s.pne := rfl
@[simp] theorem wbit_rlk (a : Nat) (f : Fld) (i : Nat) (b : Bool) : (wbit s a f i b).rlk = s.rlk := rfl
@[simp] theorem wbit_wac (a : Nat) (f : Fld) (i : Nat) (b : Bool) : (wbit s a f i b).wac = s.wac := rfl
@[simp] theorem wbit_jne (a : Nat) (f : Fld) (i : Nat) (b : Bool) : (wbit s a f i b).jne = s.jne := rfl
@[simp] theorem wbit_mlk (a : Nat) (f : Fld) (i : Nat) (b : Bool) : (wbit s a f i b).mlk = s.mlk := rfl
@[simp] theorem wbit_cpt (a : Nat) (f : Fld) (i : Nat) (b : Bool) : (wbit s a f i b).cpt = s.cpt := rfl
@[simp] theorem wbit_pctl (a : Nat) (f : Fld) (i : Nat) (b : Bool) : (wbit s a f i b).pctl = s.pctl := rfl
@[simp] theorem wbit_dbg (a : Nat) (f : Fld) (i : Nat) (b : Bool) : (wbit s a f i b).dbg = s.dbg := rfl

@[simp] theorem inc_pending (a : Nat) (f : Fld) (n : Nat) : (inc s a f n).pending = s.pending := rfl
@[simp] theorem inc_port (a : Nat) (f : Fld) (n : Nat) : (inc s a f n).port = s.port := rfl
@[simp] theorem inc_running (a : Nat) (f : Fld) (n : Nat) : (inc s a f n).running = s.running := rfl
@[simp] theorem inc_par (a : Nat) (f : Fld) (n : Nat) : (inc s a f n).par = s.par := rfl
@[simp] theorem inc_lvl (a : Nat) (f : Fld) (n : Nat) : (inc s a f n).lvl = s.lvl := rfl
@[simp] theorem inc_mem (a : Nat) (f : Fld) (n : Nat) : (inc s a f n).mem = s.mem := rfl
@[simp] theorem inc_tags (a : Nat) (f : Fld) (n : Nat) : (inc s a f n).tags = s.tags := rfl
@[simp] theorem inc_free (a : Nat) (f : Fld) (n : Nat) : (inc s a f n).free = s.free := rfl
@[simp] theorem inc_sets (a : Nat) (f : Fld) (n : Nat) : (inc s a f n).sets = s.sets ++ [⟨a, f, .count, n⟩] := rfl
@[simp] theorem inc_resp (a : Nat) (f : Fld) (n : Nat) : (inc s a f n).resp = s.resp := rfl
@[simp] theorem inc_sig (a : Nat) (f : Fld) (n : Nat) : (inc s a f n).sig = s.sig := rfl
@[simp] theorem inc_halted (a : Nat) (f : Fld) (n : Nat) : (inc s a f n).halted = s.halted := rfl
@[simp] theorem inc_drvWant (a : Nat) (f : Fld) (n : Nat) : (inc s a f n).drvWant = s.drvWant := rfl
@[simp] theorem inc_ssp (a : Nat) (f : Fld) (n : Nat) : (inc s a f n).ssp = s.ssp := rfl
@[simp] theorem inc_cores (a : Nat) (f : Fld) (n : Nat) : (inc s a f n).cores = s.cores := rfl
@[simp] theorem inc_svc (a : Nat) (f : Fld) (n : Nat) : (inc s a f n).svc = s.svc := rfl
@[simp] theorem inc_ports (a : Nat) (f : Fld) (n : Nat) : (inc s a f n).ports = s.ports := rfl
@[simp] theorem inc_msys (a : Nat) (f : Fld) (n : Nat) : (inc s a f n).msys = s.msys := rfl
@[simp] theorem inc_cvp (a : Nat) (f : Fld) (n : Nat) : (inc s a f n).cvp = s.cvp := rfl
@[simp] theorem inc_ae (a : Nat) (f : Fld) (n : Nat) : (inc s a f n).ae = s.ae := rfl
@[simp] theorem inc_dm (a : Nat) (f : Fld) (n : Nat) : (inc s a f n).dm = s.dm := rfl
@[simp] theorem inc_sem (a : Nat) (f : Fld) (n : Nat) : (inc s a f n).sem = s.sem := rfl
@[simp] theorem inc_intc (a : Nat) (f : Fld) (n : Nat) : (inc s a f n).intc = s.intc := rfl
@[simp] theorem inc_pne (a : Nat) (f : Fld) (n : Nat) : (inc s a f n).pne = s.pne := rfl
@[simp] theorem inc_rlk (a : Nat) (f : Fld) (n : Nat) : (inc s a f n).rlk = s.rlk := rfl
@[simp] theorem inc_wac (a : Nat) (f : Fld) (n : Nat) : (inc s a f n).wac = s.wac := rfl
@[simp] theorem inc_jne (a : Nat) (f : Fld) (n : Nat) : (inc s a f n).jne = s.jne := rfl
@[simp] theorem inc_mlk (a : Nat) (f : Fld) (n : Nat) : (inc s a f n).mlk = s.mlk := rfl
@[simp] theorem inc_cpt (a : Nat) (f : Fld) (n : Nat) : (inc s a f n).cpt = s.cpt := rfl
@[simp] theorem inc_pctl (a : Nat) (f : Fld) (n : Nat) : (inc s a f n).pctl = s.pctl := rfl
@[simp] theorem inc_dbg (a : Nat) (f : Fld) (n : Nat) : (inc s a f n).dbg = s.dbg := rfl

@[simp] theorem maxTo_pending (a : Nat) (f : Fld) (v : Nat) : (maxTo s a f v).pending = s.pending := rfl
@[simp] theorem maxTo_port (a : Nat) (f : Fld) (v : Nat) : (maxTo s a f v).port = s.port := rfl
@[simp] theorem maxTo_running (a : Nat) (f : Fld) (v : Nat) : (maxTo s a f v).running = s.running := rfl
@[simp] theorem maxTo_par (a : Nat) (f : Fld) (v : Nat) : (maxTo s a f v).par = s.par := rfl
@[simp] theorem maxTo_lvl (a : Nat) (f : Fld) (v : Nat) : (maxTo s a f v).lvl = s.lvl := rfl
@[simp] theorem maxTo_mem (a : Nat) (f : Fld) (v : Nat) : (maxTo s a f v).mem = s.mem := rfl
@[simp] theorem maxTo_tags (a : Nat) (f : Fld) (v : Nat) : (maxTo s a f v).tags = s.tags := rfl
@[simp] theorem maxTo_free (a : Nat) (f : Fld) (v : Nat) : (maxTo s a f v).free = s.free := rfl
@[simp] theorem maxTo_sets (a : Nat) (f : Fld) (v : Nat) :
    (maxTo s a f v).sets = s.sets ++ [⟨a, f, .largest, min v (f.span - 1)⟩] := rfl
@[simp] theorem maxTo_resp (a : Nat) (f : Fld) (v : Nat) : (maxTo s a f v).resp = s.resp := rfl
@[simp] theorem maxTo_sig (a : Nat) (f : Fld) (v : Nat) : (maxTo s a f v).sig = s.sig := rfl
@[simp] theorem maxTo_halted (a : Nat) (f : Fld) (v : Nat) : (maxTo s a f v).halted = s.halted := rfl
@[simp] theorem maxTo_drvWant (a : Nat) (f : Fld) (v : Nat) : (maxTo s a f v).drvWant = s.drvWant := rfl
@[simp] theorem maxTo_ssp (a : Nat) (f : Fld) (v : Nat) : (maxTo s a f v).ssp = s.ssp := rfl
@[simp] theorem maxTo_cores (a : Nat) (f : Fld) (v : Nat) : (maxTo s a f v).cores = s.cores := rfl
@[simp] theorem maxTo_svc (a : Nat) (f : Fld) (v : Nat) : (maxTo s a f v).svc = s.svc := rfl
@[simp] theorem maxTo_ports (a : Nat) (f : Fld) (v : Nat) : (maxTo s a f v).ports = s.ports := rfl
@[simp] theorem maxTo_msys (a : Nat) (f : Fld) (v : Nat) : (maxTo s a f v).msys = s.msys := rfl
@[simp] theorem maxTo_cvp (a : Nat) (f : Fld) (v : Nat) : (maxTo s a f v).cvp = s.cvp := rfl
@[simp] theorem maxTo_ae (a : Nat) (f : Fld) (v : Nat) : (maxTo s a f v).ae = s.ae := rfl
@[simp] theorem maxTo_dm (a : Nat) (f : Fld) (v : Nat) : (maxTo s a f v).dm = s.dm := rfl
@[simp] theorem maxTo_sem (a : Nat) (f : Fld) (v : Nat) : (maxTo s a f v).sem = s.sem := rfl
@[simp] theorem maxTo_intc (a : Nat) (f : Fld) (v : Nat) : (maxTo s a f v).intc = s.intc := rfl
@[simp] theorem maxTo_pne (a : Nat) (f : Fld) (v : Nat) : (maxTo s a f v).pne = s.pne := rfl
@[simp] theorem maxTo_rlk (a : Nat) (f : Fld) (v : Nat) : (maxTo s a f v).rlk = s.rlk := rfl
@[simp] theorem maxTo_wac (a : Nat) (f : Fld) (v : Nat) : (maxTo s a f v).wac = s.wac := rfl
@[simp] theorem maxTo_jne (a : Nat) (f : Fld) (v : Nat) : (maxTo s a f v).jne = s.jne := rfl
@[simp] theorem maxTo_mlk (a : Nat) (f : Fld) (v : Nat) : (maxTo s a f v).mlk = s.mlk := rfl
@[simp] theorem maxTo_cpt (a : Nat) (f : Fld) (v : Nat) : (maxTo s a f v).cpt = s.cpt := rfl
@[simp] theorem maxTo_pctl (a : Nat) (f : Fld) (v : Nat) : (maxTo s a f v).pctl = s.pctl := rfl
@[simp] theorem maxTo_dbg (a : Nat) (f : Fld) (v : Nat) : (maxTo s a f v).dbg = s.dbg := rfl

@[simp] theorem memWr_pending (a : Nat) (v : Word) : (memWr s a v).pending = s.pending := rfl
@[simp] theorem memWr_port (a : Nat) (v : Word) : (memWr s a v).port = s.port := rfl
@[simp] theorem memWr_running (a : Nat) (v : Word) : (memWr s a v).running = s.running := rfl
@[simp] theorem memWr_par (a : Nat) (v : Word) : (memWr s a v).par = s.par := rfl
@[simp] theorem memWr_lvl (a : Nat) (v : Word) : (memWr s a v).lvl = s.lvl := rfl
@[simp] theorem memWr_regs (a : Nat) (v : Word) : (memWr s a v).regs = s.regs := rfl
@[simp] theorem memWr_tags (a : Nat) (v : Word) : (memWr s a v).tags = s.tags := rfl
@[simp] theorem memWr_free (a : Nat) (v : Word) : (memWr s a v).free = s.free := rfl
@[simp] theorem memWr_sets (a : Nat) (v : Word) : (memWr s a v).sets = s.sets := rfl
@[simp] theorem memWr_resp (a : Nat) (v : Word) : (memWr s a v).resp = s.resp := rfl
@[simp] theorem memWr_sig (a : Nat) (v : Word) : (memWr s a v).sig = s.sig := rfl
@[simp] theorem memWr_halted (a : Nat) (v : Word) : (memWr s a v).halted = s.halted := rfl
@[simp] theorem memWr_drvWant (a : Nat) (v : Word) : (memWr s a v).drvWant = s.drvWant := rfl
@[simp] theorem memWr_ssp (a : Nat) (v : Word) : (memWr s a v).ssp = s.ssp := rfl
@[simp] theorem memWr_cores (a : Nat) (v : Word) : (memWr s a v).cores = s.cores := rfl
@[simp] theorem memWr_svc (a : Nat) (v : Word) : (memWr s a v).svc = s.svc := rfl
@[simp] theorem memWr_ports (a : Nat) (v : Word) : (memWr s a v).ports = s.ports := rfl
@[simp] theorem memWr_msys (a : Nat) (v : Word) : (memWr s a v).msys = s.msys := rfl
@[simp] theorem memWr_cvp (a : Nat) (v : Word) : (memWr s a v).cvp = s.cvp := rfl
@[simp] theorem memWr_ae (a : Nat) (v : Word) : (memWr s a v).ae = s.ae := rfl
@[simp] theorem memWr_dm (a : Nat) (v : Word) : (memWr s a v).dm = s.dm := rfl
@[simp] theorem memWr_sem (a : Nat) (v : Word) : (memWr s a v).sem = s.sem := rfl
@[simp] theorem memWr_intc (a : Nat) (v : Word) : (memWr s a v).intc = s.intc := rfl
@[simp] theorem memWr_pne (a : Nat) (v : Word) : (memWr s a v).pne = s.pne := rfl
@[simp] theorem memWr_rlk (a : Nat) (v : Word) : (memWr s a v).rlk = s.rlk := rfl
@[simp] theorem memWr_wac (a : Nat) (v : Word) : (memWr s a v).wac = s.wac := rfl
@[simp] theorem memWr_jne (a : Nat) (v : Word) : (memWr s a v).jne = s.jne := rfl
@[simp] theorem memWr_mlk (a : Nat) (v : Word) : (memWr s a v).mlk = s.mlk := rfl
@[simp] theorem memWr_cpt (a : Nat) (v : Word) : (memWr s a v).cpt = s.cpt := rfl
@[simp] theorem memWr_pctl (a : Nat) (v : Word) : (memWr s a v).pctl = s.pctl := rfl
@[simp] theorem memWr_dbg (a : Nat) (v : Word) : (memWr s a v).dbg = s.dbg := rfl

@[simp] theorem tagWr_pending (a : Nat) (b : Bool) : (tagWr s a b).pending = s.pending := rfl
@[simp] theorem tagWr_port (a : Nat) (b : Bool) : (tagWr s a b).port = s.port := rfl
@[simp] theorem tagWr_running (a : Nat) (b : Bool) : (tagWr s a b).running = s.running := rfl
@[simp] theorem tagWr_par (a : Nat) (b : Bool) : (tagWr s a b).par = s.par := rfl
@[simp] theorem tagWr_lvl (a : Nat) (b : Bool) : (tagWr s a b).lvl = s.lvl := rfl
@[simp] theorem tagWr_regs (a : Nat) (b : Bool) : (tagWr s a b).regs = s.regs := rfl
@[simp] theorem tagWr_mem (a : Nat) (b : Bool) : (tagWr s a b).mem = s.mem := rfl
@[simp] theorem tagWr_free (a : Nat) (b : Bool) : (tagWr s a b).free = s.free := rfl
@[simp] theorem tagWr_sets (a : Nat) (b : Bool) : (tagWr s a b).sets = s.sets := rfl
@[simp] theorem tagWr_resp (a : Nat) (b : Bool) : (tagWr s a b).resp = s.resp := rfl
@[simp] theorem tagWr_sig (a : Nat) (b : Bool) : (tagWr s a b).sig = s.sig := rfl
@[simp] theorem tagWr_halted (a : Nat) (b : Bool) : (tagWr s a b).halted = s.halted := rfl
@[simp] theorem tagWr_drvWant (a : Nat) (b : Bool) : (tagWr s a b).drvWant = s.drvWant := rfl
@[simp] theorem tagWr_ssp (a : Nat) (b : Bool) : (tagWr s a b).ssp = s.ssp := rfl
@[simp] theorem tagWr_cores (a : Nat) (b : Bool) : (tagWr s a b).cores = s.cores := rfl
@[simp] theorem tagWr_svc (a : Nat) (b : Bool) : (tagWr s a b).svc = s.svc := rfl
@[simp] theorem tagWr_ports (a : Nat) (b : Bool) : (tagWr s a b).ports = s.ports := rfl
@[simp] theorem tagWr_msys (a : Nat) (b : Bool) : (tagWr s a b).msys = s.msys := rfl
@[simp] theorem tagWr_cvp (a : Nat) (b : Bool) : (tagWr s a b).cvp = s.cvp := rfl
@[simp] theorem tagWr_ae (a : Nat) (b : Bool) : (tagWr s a b).ae = s.ae := rfl
@[simp] theorem tagWr_dm (a : Nat) (b : Bool) : (tagWr s a b).dm = s.dm := rfl
@[simp] theorem tagWr_sem (a : Nat) (b : Bool) : (tagWr s a b).sem = s.sem := rfl
@[simp] theorem tagWr_intc (a : Nat) (b : Bool) : (tagWr s a b).intc = s.intc := rfl
@[simp] theorem tagWr_pne (a : Nat) (b : Bool) : (tagWr s a b).pne = s.pne := rfl
@[simp] theorem tagWr_rlk (a : Nat) (b : Bool) : (tagWr s a b).rlk = s.rlk := rfl
@[simp] theorem tagWr_wac (a : Nat) (b : Bool) : (tagWr s a b).wac = s.wac := rfl
@[simp] theorem tagWr_jne (a : Nat) (b : Bool) : (tagWr s a b).jne = s.jne := rfl
@[simp] theorem tagWr_mlk (a : Nat) (b : Bool) : (tagWr s a b).mlk = s.mlk := rfl
@[simp] theorem tagWr_cpt (a : Nat) (b : Bool) : (tagWr s a b).cpt = s.cpt := rfl
@[simp] theorem tagWr_pctl (a : Nat) (b : Bool) : (tagWr s a b).pctl = s.pctl := rfl
@[simp] theorem tagWr_dbg (a : Nat) (b : Bool) : (tagWr s a b).dbg = s.dbg := rfl

@[simp] theorem memClear_pending (lo hi : Nat) : (memClear s lo hi).pending = s.pending := rfl
@[simp] theorem memClear_port (lo hi : Nat) : (memClear s lo hi).port = s.port := rfl
@[simp] theorem memClear_running (lo hi : Nat) : (memClear s lo hi).running = s.running := rfl
@[simp] theorem memClear_par (lo hi : Nat) : (memClear s lo hi).par = s.par := rfl
@[simp] theorem memClear_lvl (lo hi : Nat) : (memClear s lo hi).lvl = s.lvl := rfl
@[simp] theorem memClear_regs (lo hi : Nat) : (memClear s lo hi).regs = s.regs := rfl
@[simp] theorem memClear_free (lo hi : Nat) : (memClear s lo hi).free = s.free := rfl
@[simp] theorem memClear_sets (lo hi : Nat) : (memClear s lo hi).sets = s.sets := rfl
@[simp] theorem memClear_resp (lo hi : Nat) : (memClear s lo hi).resp = s.resp := rfl
@[simp] theorem memClear_sig (lo hi : Nat) : (memClear s lo hi).sig = s.sig := rfl
@[simp] theorem memClear_halted (lo hi : Nat) : (memClear s lo hi).halted = s.halted := rfl
@[simp] theorem memClear_drvWant (lo hi : Nat) : (memClear s lo hi).drvWant = s.drvWant := rfl
@[simp] theorem memClear_ssp (lo hi : Nat) : (memClear s lo hi).ssp = s.ssp := rfl
@[simp] theorem memClear_cores (lo hi : Nat) : (memClear s lo hi).cores = s.cores := rfl
@[simp] theorem memClear_svc (lo hi : Nat) : (memClear s lo hi).svc = s.svc := rfl
@[simp] theorem memClear_ports (lo hi : Nat) : (memClear s lo hi).ports = s.ports := rfl
@[simp] theorem memClear_msys (lo hi : Nat) : (memClear s lo hi).msys = s.msys := rfl
@[simp] theorem memClear_cvp (lo hi : Nat) : (memClear s lo hi).cvp = s.cvp := rfl
@[simp] theorem memClear_ae (lo hi : Nat) : (memClear s lo hi).ae = s.ae := rfl
@[simp] theorem memClear_dm (lo hi : Nat) : (memClear s lo hi).dm = s.dm := rfl
@[simp] theorem memClear_sem (lo hi : Nat) : (memClear s lo hi).sem = s.sem := rfl
@[simp] theorem memClear_intc (lo hi : Nat) : (memClear s lo hi).intc = s.intc := rfl
@[simp] theorem memClear_pne (lo hi : Nat) : (memClear s lo hi).pne = s.pne := rfl
@[simp] theorem memClear_rlk (lo hi : Nat) : (memClear s lo hi).rlk = s.rlk := rfl
@[simp] theorem memClear_wac (lo hi : Nat) : (memClear s lo hi).wac = s.wac := rfl
@[simp] theorem memClear_jne (lo hi : Nat) : (memClear s lo hi).jne = s.jne := rfl
@[simp] theorem memClear_mlk (lo hi : Nat) : (memClear s lo hi).mlk = s.mlk := rfl
@[simp] theorem memClear_cpt (lo hi : Nat) : (memClear s lo hi).cpt = s.cpt := rfl
@[simp] theorem memClear_pctl (lo hi : Nat) : (memClear s lo hi).pctl = s.pctl := rfl
@[simp] theorem memClear_dbg (lo hi : Nat) : (memClear s lo hi).dbg = s.dbg := rfl

@[simp] theorem semFire_pending (p : Nat) : (semFire s p).pending = s.pending := rfl
@[simp] theorem semFire_port (p : Nat) : (semFire s p).port = s.port := rfl
@[simp] theorem semFire_running (p : Nat) : (semFire s p).running = s.running := rfl
@[simp] theorem semFire_par (p : Nat) : (semFire s p).par = s.par := rfl
@[simp] theorem semFire_lvl (p : Nat) : (semFire s p).lvl = s.lvl := rfl
@[simp] theorem semFire_regs (p : Nat) : (semFire s p).regs = s.regs := rfl
@[simp] theorem semFire_mem (p : Nat) : (semFire s p).mem = s.mem := rfl
@[simp] theorem semFire_tags (p : Nat) : (semFire s p).tags = s.tags := rfl
@[simp] theorem semFire_free (p : Nat) : (semFire s p).free = s.free := rfl
@[simp] theorem semFire_sets (p : Nat) : (semFire s p).sets = s.sets := rfl
@[simp] theorem semFire_resp (p : Nat) : (semFire s p).resp = s.resp := rfl
@[simp] theorem semFire_sig (p : Nat) : (semFire s p).sig = s.sig := rfl
@[simp] theorem semFire_halted (p : Nat) : (semFire s p).halted = s.halted := rfl
@[simp] theorem semFire_drvWant (p : Nat) : (semFire s p).drvWant = s.drvWant := rfl
@[simp] theorem semFire_ssp (p : Nat) : (semFire s p).ssp = s.ssp := rfl
@[simp] theorem semFire_cores (p : Nat) : (semFire s p).cores = s.cores := rfl
@[simp] theorem semFire_svc (p : Nat) : (semFire s p).svc = s.svc := rfl
@[simp] theorem semFire_ports (p : Nat) : (semFire s p).ports = s.ports := rfl
@[simp] theorem semFire_msys (p : Nat) : (semFire s p).msys = s.msys := rfl
@[simp] theorem semFire_cvp (p : Nat) : (semFire s p).cvp = s.cvp := rfl
@[simp] theorem semFire_ae (p : Nat) : (semFire s p).ae = s.ae := rfl
@[simp] theorem semFire_dm (p : Nat) : (semFire s p).dm = s.dm := rfl
@[simp] theorem semFire_intc (p : Nat) : (semFire s p).intc = s.intc := rfl
@[simp] theorem semFire_pne (p : Nat) : (semFire s p).pne = s.pne := rfl
@[simp] theorem semFire_rlk (p : Nat) : (semFire s p).rlk = s.rlk := rfl
@[simp] theorem semFire_wac (p : Nat) : (semFire s p).wac = s.wac := rfl
@[simp] theorem semFire_jne (p : Nat) : (semFire s p).jne = s.jne := rfl
@[simp] theorem semFire_mlk (p : Nat) : (semFire s p).mlk = s.mlk := rfl
@[simp] theorem semFire_cpt (p : Nat) : (semFire s p).cpt = s.cpt := rfl
@[simp] theorem semFire_pctl (p : Nat) : (semFire s p).pctl = s.pctl := rfl
@[simp] theorem semFire_dbg (p : Nat) : (semFire s p).dbg = s.dbg := rfl

@[simp] theorem strobe_pending (n : Nat) : (strobe s n).pending = s.pending := rfl
@[simp] theorem strobe_port (n : Nat) : (strobe s n).port = s.port := rfl
@[simp] theorem strobe_running (n : Nat) : (strobe s n).running = s.running := rfl
@[simp] theorem strobe_par (n : Nat) : (strobe s n).par = s.par := rfl
@[simp] theorem strobe_lvl (n : Nat) : (strobe s n).lvl = s.lvl := rfl
@[simp] theorem strobe_regs (n : Nat) : (strobe s n).regs = s.regs := rfl
@[simp] theorem strobe_mem (n : Nat) : (strobe s n).mem = s.mem := rfl
@[simp] theorem strobe_tags (n : Nat) : (strobe s n).tags = s.tags := rfl
@[simp] theorem strobe_free (n : Nat) : (strobe s n).free = s.free := rfl
@[simp] theorem strobe_sets (n : Nat) : (strobe s n).sets = s.sets := rfl
@[simp] theorem strobe_resp (n : Nat) : (strobe s n).resp = s.resp := rfl
@[simp] theorem strobe_sig (n : Nat) : (strobe s n).sig = s.sig := rfl
@[simp] theorem strobe_halted (n : Nat) : (strobe s n).halted = s.halted := rfl
@[simp] theorem strobe_drvWant (n : Nat) : (strobe s n).drvWant = s.drvWant := rfl
@[simp] theorem strobe_ssp (n : Nat) : (strobe s n).ssp = s.ssp := rfl
@[simp] theorem strobe_cores (n : Nat) : (strobe s n).cores = s.cores := rfl
@[simp] theorem strobe_svc (n : Nat) : (strobe s n).svc = s.svc := rfl
@[simp] theorem strobe_ports (n : Nat) : (strobe s n).ports = s.ports := rfl
@[simp] theorem strobe_msys (n : Nat) : (strobe s n).msys = s.msys := rfl
@[simp] theorem strobe_cvp (n : Nat) : (strobe s n).cvp = s.cvp := rfl
@[simp] theorem strobe_ae (n : Nat) : (strobe s n).ae = s.ae := rfl
@[simp] theorem strobe_dm (n : Nat) : (strobe s n).dm = s.dm := rfl
@[simp] theorem strobe_sem (n : Nat) : (strobe s n).sem = s.sem := rfl
@[simp] theorem strobe_pne (n : Nat) : (strobe s n).pne = s.pne := rfl
@[simp] theorem strobe_rlk (n : Nat) : (strobe s n).rlk = s.rlk := rfl
@[simp] theorem strobe_wac (n : Nat) : (strobe s n).wac = s.wac := rfl
@[simp] theorem strobe_jne (n : Nat) : (strobe s n).jne = s.jne := rfl
@[simp] theorem strobe_mlk (n : Nat) : (strobe s n).mlk = s.mlk := rfl
@[simp] theorem strobe_cpt (n : Nat) : (strobe s n).cpt = s.cpt := rfl
@[simp] theorem strobe_pctl (n : Nat) : (strobe s n).pctl = s.pctl := rfl
@[simp] theorem strobe_dbg (n : Nat) : (strobe s n).dbg = s.dbg := rfl

@[simp] theorem raiseAsync_pending (k c : Nat) (v : Word) : (raiseAsync s k c v).pending = s.pending := rfl
@[simp] theorem raiseAsync_port (k c : Nat) (v : Word) : (raiseAsync s k c v).port = s.port := rfl
@[simp] theorem raiseAsync_running (k c : Nat) (v : Word) : (raiseAsync s k c v).running = s.running := rfl
@[simp] theorem raiseAsync_par (k c : Nat) (v : Word) : (raiseAsync s k c v).par = s.par := rfl
@[simp] theorem raiseAsync_lvl (k c : Nat) (v : Word) : (raiseAsync s k c v).lvl = s.lvl := rfl
@[simp] theorem raiseAsync_regs (k c : Nat) (v : Word) : (raiseAsync s k c v).regs = s.regs := rfl
@[simp] theorem raiseAsync_mem (k c : Nat) (v : Word) : (raiseAsync s k c v).mem = s.mem := rfl
@[simp] theorem raiseAsync_tags (k c : Nat) (v : Word) : (raiseAsync s k c v).tags = s.tags := rfl
@[simp] theorem raiseAsync_free (k c : Nat) (v : Word) : (raiseAsync s k c v).free = s.free := rfl
@[simp] theorem raiseAsync_sets (k c : Nat) (v : Word) : (raiseAsync s k c v).sets = s.sets := rfl
@[simp] theorem raiseAsync_resp (k c : Nat) (v : Word) : (raiseAsync s k c v).resp = s.resp := rfl
@[simp] theorem raiseAsync_halted (k c : Nat) (v : Word) : (raiseAsync s k c v).halted = s.halted := rfl
@[simp] theorem raiseAsync_drvWant (k c : Nat) (v : Word) : (raiseAsync s k c v).drvWant = s.drvWant := rfl
@[simp] theorem raiseAsync_ssp (k c : Nat) (v : Word) : (raiseAsync s k c v).ssp = s.ssp := rfl
@[simp] theorem raiseAsync_cores (k c : Nat) (v : Word) : (raiseAsync s k c v).cores = s.cores := rfl
@[simp] theorem raiseAsync_svc (k c : Nat) (v : Word) : (raiseAsync s k c v).svc = s.svc := rfl
@[simp] theorem raiseAsync_ports (k c : Nat) (v : Word) : (raiseAsync s k c v).ports = s.ports := rfl
@[simp] theorem raiseAsync_msys (k c : Nat) (v : Word) : (raiseAsync s k c v).msys = s.msys := rfl
@[simp] theorem raiseAsync_cvp (k c : Nat) (v : Word) : (raiseAsync s k c v).cvp = s.cvp := rfl
@[simp] theorem raiseAsync_ae (k c : Nat) (v : Word) : (raiseAsync s k c v).ae = s.ae := rfl
@[simp] theorem raiseAsync_dm (k c : Nat) (v : Word) : (raiseAsync s k c v).dm = s.dm := rfl
@[simp] theorem raiseAsync_sem (k c : Nat) (v : Word) : (raiseAsync s k c v).sem = s.sem := rfl
@[simp] theorem raiseAsync_intc (k c : Nat) (v : Word) : (raiseAsync s k c v).intc = s.intc := rfl
@[simp] theorem raiseAsync_pne (k c : Nat) (v : Word) : (raiseAsync s k c v).pne = s.pne := rfl
@[simp] theorem raiseAsync_rlk (k c : Nat) (v : Word) : (raiseAsync s k c v).rlk = s.rlk := rfl
@[simp] theorem raiseAsync_wac (k c : Nat) (v : Word) : (raiseAsync s k c v).wac = s.wac := rfl
@[simp] theorem raiseAsync_jne (k c : Nat) (v : Word) : (raiseAsync s k c v).jne = s.jne := rfl
@[simp] theorem raiseAsync_mlk (k c : Nat) (v : Word) : (raiseAsync s k c v).mlk = s.mlk := rfl
@[simp] theorem raiseAsync_cpt (k c : Nat) (v : Word) : (raiseAsync s k c v).cpt = s.cpt := rfl
@[simp] theorem raiseAsync_pctl (k c : Nat) (v : Word) : (raiseAsync s k c v).pctl = s.pctl := rfl
@[simp] theorem raiseAsync_dbg (k c : Nat) (v : Word) : (raiseAsync s k c v).dbg = s.dbg := rfl

@[simp] theorem raiseEv_pending (c : Nat) (l : List Word) : (raiseEv s c l).pending = s.pending := rfl
@[simp] theorem raiseEv_port (c : Nat) (l : List Word) : (raiseEv s c l).port = s.port := rfl
@[simp] theorem raiseEv_running (c : Nat) (l : List Word) : (raiseEv s c l).running = s.running := rfl
@[simp] theorem raiseEv_par (c : Nat) (l : List Word) : (raiseEv s c l).par = s.par := rfl
@[simp] theorem raiseEv_lvl (c : Nat) (l : List Word) : (raiseEv s c l).lvl = s.lvl := rfl
@[simp] theorem raiseEv_regs (c : Nat) (l : List Word) : (raiseEv s c l).regs = s.regs := rfl
@[simp] theorem raiseEv_mem (c : Nat) (l : List Word) : (raiseEv s c l).mem = s.mem := rfl
@[simp] theorem raiseEv_tags (c : Nat) (l : List Word) : (raiseEv s c l).tags = s.tags := rfl
@[simp] theorem raiseEv_free (c : Nat) (l : List Word) : (raiseEv s c l).free = s.free := rfl
@[simp] theorem raiseEv_sets (c : Nat) (l : List Word) : (raiseEv s c l).sets = s.sets := rfl
@[simp] theorem raiseEv_resp (c : Nat) (l : List Word) : (raiseEv s c l).resp = s.resp := rfl
@[simp] theorem raiseEv_halted (c : Nat) (l : List Word) : (raiseEv s c l).halted = s.halted := rfl
@[simp] theorem raiseEv_drvWant (c : Nat) (l : List Word) : (raiseEv s c l).drvWant = s.drvWant := rfl
@[simp] theorem raiseEv_ssp (c : Nat) (l : List Word) : (raiseEv s c l).ssp = s.ssp := rfl
@[simp] theorem raiseEv_cores (c : Nat) (l : List Word) : (raiseEv s c l).cores = s.cores := rfl
@[simp] theorem raiseEv_svc (c : Nat) (l : List Word) : (raiseEv s c l).svc = s.svc := rfl
@[simp] theorem raiseEv_ports (c : Nat) (l : List Word) : (raiseEv s c l).ports = s.ports := rfl
@[simp] theorem raiseEv_msys (c : Nat) (l : List Word) : (raiseEv s c l).msys = s.msys := rfl
@[simp] theorem raiseEv_cvp (c : Nat) (l : List Word) : (raiseEv s c l).cvp = s.cvp := rfl
@[simp] theorem raiseEv_ae (c : Nat) (l : List Word) : (raiseEv s c l).ae = s.ae := rfl
@[simp] theorem raiseEv_dm (c : Nat) (l : List Word) : (raiseEv s c l).dm = s.dm := rfl
@[simp] theorem raiseEv_sem (c : Nat) (l : List Word) : (raiseEv s c l).sem = s.sem := rfl
@[simp] theorem raiseEv_intc (c : Nat) (l : List Word) : (raiseEv s c l).intc = s.intc := rfl
@[simp] theorem raiseEv_pne (c : Nat) (l : List Word) : (raiseEv s c l).pne = s.pne := rfl
@[simp] theorem raiseEv_rlk (c : Nat) (l : List Word) : (raiseEv s c l).rlk = s.rlk := rfl
@[simp] theorem raiseEv_wac (c : Nat) (l : List Word) : (raiseEv s c l).wac = s.wac := rfl
@[simp] theorem raiseEv_jne (c : Nat) (l : List Word) : (raiseEv s c l).jne = s.jne := rfl
@[simp] theorem raiseEv_mlk (c : Nat) (l : List Word) : (raiseEv s c l).mlk = s.mlk := rfl
@[simp] theorem raiseEv_cpt (c : Nat) (l : List Word) : (raiseEv s c l).cpt = s.cpt := rfl
@[simp] theorem raiseEv_pctl (c : Nat) (l : List Word) : (raiseEv s c l).pctl = s.pctl := rfl
@[simp] theorem raiseEv_dbg (c : Nat) (l : List Word) : (raiseEv s c l).dbg = s.dbg := rfl

@[simp] theorem respond_pending (c : Nat) (v : Word) : (respond s c v).pending = s.pending := rfl
@[simp] theorem respond_port (c : Nat) (v : Word) : (respond s c v).port = s.port := rfl
@[simp] theorem respond_running (c : Nat) (v : Word) : (respond s c v).running = s.running := rfl
@[simp] theorem respond_par (c : Nat) (v : Word) : (respond s c v).par = s.par := rfl
@[simp] theorem respond_lvl (c : Nat) (v : Word) : (respond s c v).lvl = s.lvl := rfl
@[simp] theorem respond_regs (c : Nat) (v : Word) : (respond s c v).regs = s.regs := rfl
@[simp] theorem respond_mem (c : Nat) (v : Word) : (respond s c v).mem = s.mem := rfl
@[simp] theorem respond_tags (c : Nat) (v : Word) : (respond s c v).tags = s.tags := rfl
@[simp] theorem respond_free (c : Nat) (v : Word) : (respond s c v).free = s.free := rfl
@[simp] theorem respond_sets (c : Nat) (v : Word) : (respond s c v).sets = s.sets := rfl
@[simp] theorem respond_sig (c : Nat) (v : Word) : (respond s c v).sig = s.sig := rfl
@[simp] theorem respond_halted (c : Nat) (v : Word) : (respond s c v).halted = s.halted := rfl
@[simp] theorem respond_drvWant (c : Nat) (v : Word) : (respond s c v).drvWant = s.drvWant := rfl
@[simp] theorem respond_ssp (c : Nat) (v : Word) : (respond s c v).ssp = s.ssp := rfl
@[simp] theorem respond_cores (c : Nat) (v : Word) : (respond s c v).cores = s.cores := rfl
@[simp] theorem respond_svc (c : Nat) (v : Word) : (respond s c v).svc = s.svc := rfl
@[simp] theorem respond_ports (c : Nat) (v : Word) : (respond s c v).ports = s.ports := rfl
@[simp] theorem respond_msys (c : Nat) (v : Word) : (respond s c v).msys = s.msys := rfl
@[simp] theorem respond_cvp (c : Nat) (v : Word) : (respond s c v).cvp = s.cvp := rfl
@[simp] theorem respond_ae (c : Nat) (v : Word) : (respond s c v).ae = s.ae := rfl
@[simp] theorem respond_dm (c : Nat) (v : Word) : (respond s c v).dm = s.dm := rfl
@[simp] theorem respond_sem (c : Nat) (v : Word) : (respond s c v).sem = s.sem := rfl
@[simp] theorem respond_intc (c : Nat) (v : Word) : (respond s c v).intc = s.intc := rfl
@[simp] theorem respond_pne (c : Nat) (v : Word) : (respond s c v).pne = s.pne := rfl
@[simp] theorem respond_rlk (c : Nat) (v : Word) : (respond s c v).rlk = s.rlk := rfl
@[simp] theorem respond_wac (c : Nat) (v : Word) : (respond s c v).wac = s.wac := rfl
@[simp] theorem respond_jne (c : Nat) (v : Word) : (respond s c v).jne = s.jne := rfl
@[simp] theorem respond_mlk (c : Nat) (v : Word) : (respond s c v).mlk = s.mlk := rfl
@[simp] theorem respond_cpt (c : Nat) (v : Word) : (respond s c v).cpt = s.cpt := rfl
@[simp] theorem respond_pctl (c : Nat) (v : Word) : (respond s c v).pctl = s.pctl := rfl
@[simp] theorem respond_dbg (c : Nat) (v : Word) : (respond s c v).dbg = s.dbg := rfl

@[simp] theorem setCore_pending (k : Nat) (c : Core) : (setCore s k c).pending = s.pending := rfl
@[simp] theorem setCore_port (k : Nat) (c : Core) : (setCore s k c).port = s.port := rfl
@[simp] theorem setCore_running (k : Nat) (c : Core) : (setCore s k c).running = s.running := rfl
@[simp] theorem setCore_par (k : Nat) (c : Core) : (setCore s k c).par = s.par := rfl
@[simp] theorem setCore_lvl (k : Nat) (c : Core) : (setCore s k c).lvl = s.lvl := rfl
@[simp] theorem setCore_regs (k : Nat) (c : Core) : (setCore s k c).regs = s.regs := rfl
@[simp] theorem setCore_mem (k : Nat) (c : Core) : (setCore s k c).mem = s.mem := rfl
@[simp] theorem setCore_tags (k : Nat) (c : Core) : (setCore s k c).tags = s.tags := rfl
@[simp] theorem setCore_free (k : Nat) (c : Core) : (setCore s k c).free = s.free := rfl
@[simp] theorem setCore_sets (k : Nat) (c : Core) : (setCore s k c).sets = s.sets := rfl
@[simp] theorem setCore_resp (k : Nat) (c : Core) : (setCore s k c).resp = s.resp := rfl
@[simp] theorem setCore_sig (k : Nat) (c : Core) : (setCore s k c).sig = s.sig := rfl
@[simp] theorem setCore_halted (k : Nat) (c : Core) : (setCore s k c).halted = s.halted := rfl
@[simp] theorem setCore_drvWant (k : Nat) (c : Core) : (setCore s k c).drvWant = s.drvWant := rfl
@[simp] theorem setCore_ssp (k : Nat) (c : Core) : (setCore s k c).ssp = s.ssp := rfl
@[simp] theorem setCore_svc (k : Nat) (c : Core) : (setCore s k c).svc = s.svc := rfl
@[simp] theorem setCore_ports (k : Nat) (c : Core) : (setCore s k c).ports = s.ports := rfl
@[simp] theorem setCore_msys (k : Nat) (c : Core) : (setCore s k c).msys = s.msys := rfl
@[simp] theorem setCore_cvp (k : Nat) (c : Core) : (setCore s k c).cvp = s.cvp := rfl
@[simp] theorem setCore_ae (k : Nat) (c : Core) : (setCore s k c).ae = s.ae := rfl
@[simp] theorem setCore_dm (k : Nat) (c : Core) : (setCore s k c).dm = s.dm := rfl
@[simp] theorem setCore_sem (k : Nat) (c : Core) : (setCore s k c).sem = s.sem := rfl
@[simp] theorem setCore_intc (k : Nat) (c : Core) : (setCore s k c).intc = s.intc := rfl
@[simp] theorem setCore_pne (k : Nat) (c : Core) : (setCore s k c).pne = s.pne := rfl
@[simp] theorem setCore_rlk (k : Nat) (c : Core) : (setCore s k c).rlk = s.rlk := rfl
@[simp] theorem setCore_wac (k : Nat) (c : Core) : (setCore s k c).wac = s.wac := rfl
@[simp] theorem setCore_jne (k : Nat) (c : Core) : (setCore s k c).jne = s.jne := rfl
@[simp] theorem setCore_mlk (k : Nat) (c : Core) : (setCore s k c).mlk = s.mlk := rfl
@[simp] theorem setCore_cpt (k : Nat) (c : Core) : (setCore s k c).cpt = s.cpt := rfl
@[simp] theorem setCore_pctl (k : Nat) (c : Core) : (setCore s k c).pctl = s.pctl := rfl
@[simp] theorem setCore_dbg (k : Nat) (c : Core) : (setCore s k c).dbg = s.dbg := rfl

@[simp] theorem onBank_pending (k : Nat) (f : Bank → Bank) : (onBank s k f).pending = s.pending := rfl
@[simp] theorem onBank_port (k : Nat) (f : Bank → Bank) : (onBank s k f).port = s.port := rfl
@[simp] theorem onBank_running (k : Nat) (f : Bank → Bank) : (onBank s k f).running = s.running := rfl
@[simp] theorem onBank_par (k : Nat) (f : Bank → Bank) : (onBank s k f).par = s.par := rfl
@[simp] theorem onBank_lvl (k : Nat) (f : Bank → Bank) : (onBank s k f).lvl = s.lvl := rfl
@[simp] theorem onBank_regs (k : Nat) (f : Bank → Bank) : (onBank s k f).regs = s.regs := rfl
@[simp] theorem onBank_mem (k : Nat) (f : Bank → Bank) : (onBank s k f).mem = s.mem := rfl
@[simp] theorem onBank_tags (k : Nat) (f : Bank → Bank) : (onBank s k f).tags = s.tags := rfl
@[simp] theorem onBank_free (k : Nat) (f : Bank → Bank) : (onBank s k f).free = s.free := rfl
@[simp] theorem onBank_sets (k : Nat) (f : Bank → Bank) : (onBank s k f).sets = s.sets := rfl
@[simp] theorem onBank_resp (k : Nat) (f : Bank → Bank) : (onBank s k f).resp = s.resp := rfl
@[simp] theorem onBank_sig (k : Nat) (f : Bank → Bank) : (onBank s k f).sig = s.sig := rfl
@[simp] theorem onBank_halted (k : Nat) (f : Bank → Bank) : (onBank s k f).halted = s.halted := rfl
@[simp] theorem onBank_drvWant (k : Nat) (f : Bank → Bank) : (onBank s k f).drvWant = s.drvWant := rfl
@[simp] theorem onBank_ssp (k : Nat) (f : Bank → Bank) : (onBank s k f).ssp = s.ssp := rfl
@[simp] theorem onBank_svc (k : Nat) (f : Bank → Bank) : (onBank s k f).svc = s.svc := rfl
@[simp] theorem onBank_ports (k : Nat) (f : Bank → Bank) : (onBank s k f).ports = s.ports := rfl
@[simp] theorem onBank_msys (k : Nat) (f : Bank → Bank) : (onBank s k f).msys = s.msys := rfl
@[simp] theorem onBank_cvp (k : Nat) (f : Bank → Bank) : (onBank s k f).cvp = s.cvp := rfl
@[simp] theorem onBank_ae (k : Nat) (f : Bank → Bank) : (onBank s k f).ae = s.ae := rfl
@[simp] theorem onBank_dm (k : Nat) (f : Bank → Bank) : (onBank s k f).dm = s.dm := rfl
@[simp] theorem onBank_sem (k : Nat) (f : Bank → Bank) : (onBank s k f).sem = s.sem := rfl
@[simp] theorem onBank_intc (k : Nat) (f : Bank → Bank) : (onBank s k f).intc = s.intc := rfl
@[simp] theorem onBank_pne (k : Nat) (f : Bank → Bank) : (onBank s k f).pne = s.pne := rfl
@[simp] theorem onBank_rlk (k : Nat) (f : Bank → Bank) : (onBank s k f).rlk = s.rlk := rfl
@[simp] theorem onBank_wac (k : Nat) (f : Bank → Bank) : (onBank s k f).wac = s.wac := rfl
@[simp] theorem onBank_jne (k : Nat) (f : Bank → Bank) : (onBank s k f).jne = s.jne := rfl
@[simp] theorem onBank_mlk (k : Nat) (f : Bank → Bank) : (onBank s k f).mlk = s.mlk := rfl
@[simp] theorem onBank_cpt (k : Nat) (f : Bank → Bank) : (onBank s k f).cpt = s.cpt := rfl
@[simp] theorem onBank_pctl (k : Nat) (f : Bank → Bank) : (onBank s k f).pctl = s.pctl := rfl
@[simp] theorem onBank_dbg (k : Nat) (f : Bank → Bank) : (onBank s k f).dbg = s.dbg := rfl

@[simp] theorem setSlot_pending (n : Nat) (x : Slot) : (setSlot s n x).pending = s.pending := rfl
@[simp] theorem setSlot_port (n : Nat) (x : Slot) : (setSlot s n x).port = s.port := rfl
@[simp] theorem setSlot_running (n : Nat) (x : Slot) : (setSlot s n x).running = s.running := rfl
@[simp] theorem setSlot_par (n : Nat) (x : Slot) : (setSlot s n x).par = s.par := rfl
@[simp] theorem setSlot_lvl (n : Nat) (x : Slot) : (setSlot s n x).lvl = s.lvl := rfl
@[simp] theorem setSlot_regs (n : Nat) (x : Slot) : (setSlot s n x).regs = s.regs := rfl
@[simp] theorem setSlot_mem (n : Nat) (x : Slot) : (setSlot s n x).mem = s.mem := rfl
@[simp] theorem setSlot_tags (n : Nat) (x : Slot) : (setSlot s n x).tags = s.tags := rfl
@[simp] theorem setSlot_free (n : Nat) (x : Slot) : (setSlot s n x).free = s.free := rfl
@[simp] theorem setSlot_sets (n : Nat) (x : Slot) : (setSlot s n x).sets = s.sets := rfl
@[simp] theorem setSlot_resp (n : Nat) (x : Slot) : (setSlot s n x).resp = s.resp := rfl
@[simp] theorem setSlot_sig (n : Nat) (x : Slot) : (setSlot s n x).sig = s.sig := rfl
@[simp] theorem setSlot_halted (n : Nat) (x : Slot) : (setSlot s n x).halted = s.halted := rfl
@[simp] theorem setSlot_drvWant (n : Nat) (x : Slot) : (setSlot s n x).drvWant = s.drvWant := rfl
@[simp] theorem setSlot_ssp (n : Nat) (x : Slot) : (setSlot s n x).ssp = s.ssp := rfl
@[simp] theorem setSlot_cores (n : Nat) (x : Slot) : (setSlot s n x).cores = s.cores := rfl
@[simp] theorem setSlot_svc (n : Nat) (x : Slot) : (setSlot s n x).svc = s.svc := rfl
@[simp] theorem setSlot_ports (n : Nat) (x : Slot) : (setSlot s n x).ports = s.ports := rfl
@[simp] theorem setSlot_msys (n : Nat) (x : Slot) : (setSlot s n x).msys = s.msys := rfl
@[simp] theorem setSlot_cvp (n : Nat) (x : Slot) : (setSlot s n x).cvp = s.cvp := rfl
@[simp] theorem setSlot_dm (n : Nat) (x : Slot) : (setSlot s n x).dm = s.dm := rfl
@[simp] theorem setSlot_sem (n : Nat) (x : Slot) : (setSlot s n x).sem = s.sem := rfl
@[simp] theorem setSlot_intc (n : Nat) (x : Slot) : (setSlot s n x).intc = s.intc := rfl
@[simp] theorem setSlot_pne (n : Nat) (x : Slot) : (setSlot s n x).pne = s.pne := rfl
@[simp] theorem setSlot_rlk (n : Nat) (x : Slot) : (setSlot s n x).rlk = s.rlk := rfl
@[simp] theorem setSlot_wac (n : Nat) (x : Slot) : (setSlot s n x).wac = s.wac := rfl
@[simp] theorem setSlot_jne (n : Nat) (x : Slot) : (setSlot s n x).jne = s.jne := rfl
@[simp] theorem setSlot_mlk (n : Nat) (x : Slot) : (setSlot s n x).mlk = s.mlk := rfl
@[simp] theorem setSlot_cpt (n : Nat) (x : Slot) : (setSlot s n x).cpt = s.cpt := rfl
@[simp] theorem setSlot_pctl (n : Nat) (x : Slot) : (setSlot s n x).pctl = s.pctl := rfl
@[simp] theorem setSlot_dbg (n : Nat) (x : Slot) : (setSlot s n x).dbg = s.dbg := rfl

@[simp] theorem setCell_pending (n : Nat) (x : Cell) : (setCell s n x).pending = s.pending := rfl
@[simp] theorem setCell_port (n : Nat) (x : Cell) : (setCell s n x).port = s.port := rfl
@[simp] theorem setCell_running (n : Nat) (x : Cell) : (setCell s n x).running = s.running := rfl
@[simp] theorem setCell_par (n : Nat) (x : Cell) : (setCell s n x).par = s.par := rfl
@[simp] theorem setCell_lvl (n : Nat) (x : Cell) : (setCell s n x).lvl = s.lvl := rfl
@[simp] theorem setCell_regs (n : Nat) (x : Cell) : (setCell s n x).regs = s.regs := rfl
@[simp] theorem setCell_mem (n : Nat) (x : Cell) : (setCell s n x).mem = s.mem := rfl
@[simp] theorem setCell_tags (n : Nat) (x : Cell) : (setCell s n x).tags = s.tags := rfl
@[simp] theorem setCell_free (n : Nat) (x : Cell) : (setCell s n x).free = s.free := rfl
@[simp] theorem setCell_sets (n : Nat) (x : Cell) : (setCell s n x).sets = s.sets := rfl
@[simp] theorem setCell_resp (n : Nat) (x : Cell) : (setCell s n x).resp = s.resp := rfl
@[simp] theorem setCell_sig (n : Nat) (x : Cell) : (setCell s n x).sig = s.sig := rfl
@[simp] theorem setCell_halted (n : Nat) (x : Cell) : (setCell s n x).halted = s.halted := rfl
@[simp] theorem setCell_drvWant (n : Nat) (x : Cell) : (setCell s n x).drvWant = s.drvWant := rfl
@[simp] theorem setCell_cores (n : Nat) (x : Cell) : (setCell s n x).cores = s.cores := rfl
@[simp] theorem setCell_svc (n : Nat) (x : Cell) : (setCell s n x).svc = s.svc := rfl
@[simp] theorem setCell_ports (n : Nat) (x : Cell) : (setCell s n x).ports = s.ports := rfl
@[simp] theorem setCell_msys (n : Nat) (x : Cell) : (setCell s n x).msys = s.msys := rfl
@[simp] theorem setCell_cvp (n : Nat) (x : Cell) : (setCell s n x).cvp = s.cvp := rfl
@[simp] theorem setCell_ae (n : Nat) (x : Cell) : (setCell s n x).ae = s.ae := rfl
@[simp] theorem setCell_dm (n : Nat) (x : Cell) : (setCell s n x).dm = s.dm := rfl
@[simp] theorem setCell_sem (n : Nat) (x : Cell) : (setCell s n x).sem = s.sem := rfl
@[simp] theorem setCell_intc (n : Nat) (x : Cell) : (setCell s n x).intc = s.intc := rfl
@[simp] theorem setCell_pne (n : Nat) (x : Cell) : (setCell s n x).pne = s.pne := rfl
@[simp] theorem setCell_rlk (n : Nat) (x : Cell) : (setCell s n x).rlk = s.rlk := rfl
@[simp] theorem setCell_wac (n : Nat) (x : Cell) : (setCell s n x).wac = s.wac := rfl
@[simp] theorem setCell_jne (n : Nat) (x : Cell) : (setCell s n x).jne = s.jne := rfl
@[simp] theorem setCell_mlk (n : Nat) (x : Cell) : (setCell s n x).mlk = s.mlk := rfl
@[simp] theorem setCell_cpt (n : Nat) (x : Cell) : (setCell s n x).cpt = s.cpt := rfl
@[simp] theorem setCell_pctl (n : Nat) (x : Cell) : (setCell s n x).pctl = s.pctl := rfl
@[simp] theorem setCell_dbg (n : Nat) (x : Cell) : (setCell s n x).dbg = s.dbg := rfl

@[simp] theorem setMon_pending (n : Nat) (x : Mon) : (setMon s n x).pending = s.pending := rfl
@[simp] theorem setMon_port (n : Nat) (x : Mon) : (setMon s n x).port = s.port := rfl
@[simp] theorem setMon_running (n : Nat) (x : Mon) : (setMon s n x).running = s.running := rfl
@[simp] theorem setMon_par (n : Nat) (x : Mon) : (setMon s n x).par = s.par := rfl
@[simp] theorem setMon_lvl (n : Nat) (x : Mon) : (setMon s n x).lvl = s.lvl := rfl
@[simp] theorem setMon_regs (n : Nat) (x : Mon) : (setMon s n x).regs = s.regs := rfl
@[simp] theorem setMon_mem (n : Nat) (x : Mon) : (setMon s n x).mem = s.mem := rfl
@[simp] theorem setMon_tags (n : Nat) (x : Mon) : (setMon s n x).tags = s.tags := rfl
@[simp] theorem setMon_free (n : Nat) (x : Mon) : (setMon s n x).free = s.free := rfl
@[simp] theorem setMon_sets (n : Nat) (x : Mon) : (setMon s n x).sets = s.sets := rfl
@[simp] theorem setMon_resp (n : Nat) (x : Mon) : (setMon s n x).resp = s.resp := rfl
@[simp] theorem setMon_sig (n : Nat) (x : Mon) : (setMon s n x).sig = s.sig := rfl
@[simp] theorem setMon_halted (n : Nat) (x : Mon) : (setMon s n x).halted = s.halted := rfl
@[simp] theorem setMon_drvWant (n : Nat) (x : Mon) : (setMon s n x).drvWant = s.drvWant := rfl
@[simp] theorem setMon_ssp (n : Nat) (x : Mon) : (setMon s n x).ssp = s.ssp := rfl
@[simp] theorem setMon_cores (n : Nat) (x : Mon) : (setMon s n x).cores = s.cores := rfl
@[simp] theorem setMon_svc (n : Nat) (x : Mon) : (setMon s n x).svc = s.svc := rfl
@[simp] theorem setMon_ports (n : Nat) (x : Mon) : (setMon s n x).ports = s.ports := rfl
@[simp] theorem setMon_msys (n : Nat) (x : Mon) : (setMon s n x).msys = s.msys := rfl
@[simp] theorem setMon_cvp (n : Nat) (x : Mon) : (setMon s n x).cvp = s.cvp := rfl
@[simp] theorem setMon_ae (n : Nat) (x : Mon) : (setMon s n x).ae = s.ae := rfl
@[simp] theorem setMon_sem (n : Nat) (x : Mon) : (setMon s n x).sem = s.sem := rfl
@[simp] theorem setMon_intc (n : Nat) (x : Mon) : (setMon s n x).intc = s.intc := rfl
@[simp] theorem setMon_pne (n : Nat) (x : Mon) : (setMon s n x).pne = s.pne := rfl
@[simp] theorem setMon_rlk (n : Nat) (x : Mon) : (setMon s n x).rlk = s.rlk := rfl
@[simp] theorem setMon_wac (n : Nat) (x : Mon) : (setMon s n x).wac = s.wac := rfl
@[simp] theorem setMon_jne (n : Nat) (x : Mon) : (setMon s n x).jne = s.jne := rfl
@[simp] theorem setMon_mlk (n : Nat) (x : Mon) : (setMon s n x).mlk = s.mlk := rfl
@[simp] theorem setMon_cpt (n : Nat) (x : Mon) : (setMon s n x).cpt = s.cpt := rfl
@[simp] theorem setMon_pctl (n : Nat) (x : Mon) : (setMon s n x).pctl = s.pctl := rfl
@[simp] theorem setMon_dbg (n : Nat) (x : Mon) : (setMon s n x).dbg = s.dbg := rfl

@[simp] theorem setSvc_pending (k : Nat) (x : Svc) : (setSvc s k x).pending = s.pending := rfl
@[simp] theorem setSvc_port (k : Nat) (x : Svc) : (setSvc s k x).port = s.port := rfl
@[simp] theorem setSvc_running (k : Nat) (x : Svc) : (setSvc s k x).running = s.running := rfl
@[simp] theorem setSvc_par (k : Nat) (x : Svc) : (setSvc s k x).par = s.par := rfl
@[simp] theorem setSvc_lvl (k : Nat) (x : Svc) : (setSvc s k x).lvl = s.lvl := rfl
@[simp] theorem setSvc_regs (k : Nat) (x : Svc) : (setSvc s k x).regs = s.regs := rfl
@[simp] theorem setSvc_mem (k : Nat) (x : Svc) : (setSvc s k x).mem = s.mem := rfl
@[simp] theorem setSvc_tags (k : Nat) (x : Svc) : (setSvc s k x).tags = s.tags := rfl
@[simp] theorem setSvc_free (k : Nat) (x : Svc) : (setSvc s k x).free = s.free := rfl
@[simp] theorem setSvc_sets (k : Nat) (x : Svc) : (setSvc s k x).sets = s.sets := rfl
@[simp] theorem setSvc_resp (k : Nat) (x : Svc) : (setSvc s k x).resp = s.resp := rfl
@[simp] theorem setSvc_sig (k : Nat) (x : Svc) : (setSvc s k x).sig = s.sig := rfl
@[simp] theorem setSvc_halted (k : Nat) (x : Svc) : (setSvc s k x).halted = s.halted := rfl
@[simp] theorem setSvc_drvWant (k : Nat) (x : Svc) : (setSvc s k x).drvWant = s.drvWant := rfl
@[simp] theorem setSvc_ssp (k : Nat) (x : Svc) : (setSvc s k x).ssp = s.ssp := rfl
@[simp] theorem setSvc_cores (k : Nat) (x : Svc) : (setSvc s k x).cores = s.cores := rfl
@[simp] theorem setSvc_ports (k : Nat) (x : Svc) : (setSvc s k x).ports = s.ports := rfl
@[simp] theorem setSvc_msys (k : Nat) (x : Svc) : (setSvc s k x).msys = s.msys := rfl
@[simp] theorem setSvc_cvp (k : Nat) (x : Svc) : (setSvc s k x).cvp = s.cvp := rfl
@[simp] theorem setSvc_ae (k : Nat) (x : Svc) : (setSvc s k x).ae = s.ae := rfl
@[simp] theorem setSvc_dm (k : Nat) (x : Svc) : (setSvc s k x).dm = s.dm := rfl
@[simp] theorem setSvc_sem (k : Nat) (x : Svc) : (setSvc s k x).sem = s.sem := rfl
@[simp] theorem setSvc_intc (k : Nat) (x : Svc) : (setSvc s k x).intc = s.intc := rfl
@[simp] theorem setSvc_pne (k : Nat) (x : Svc) : (setSvc s k x).pne = s.pne := rfl
@[simp] theorem setSvc_rlk (k : Nat) (x : Svc) : (setSvc s k x).rlk = s.rlk := rfl
@[simp] theorem setSvc_wac (k : Nat) (x : Svc) : (setSvc s k x).wac = s.wac := rfl
@[simp] theorem setSvc_jne (k : Nat) (x : Svc) : (setSvc s k x).jne = s.jne := rfl
@[simp] theorem setSvc_mlk (k : Nat) (x : Svc) : (setSvc s k x).mlk = s.mlk := rfl
@[simp] theorem setSvc_cpt (k : Nat) (x : Svc) : (setSvc s k x).cpt = s.cpt := rfl
@[simp] theorem setSvc_pctl (k : Nat) (x : Svc) : (setSvc s k x).pctl = s.pctl := rfl
@[simp] theorem setSvc_dbg (k : Nat) (x : Svc) : (setSvc s k x).dbg = s.dbg := rfl

@[simp] theorem setLaneQ_pending (k : Nat) (q : List QEntry) : (setLaneQ s k q).pending = s.pending := rfl
@[simp] theorem setLaneQ_port (k : Nat) (q : List QEntry) : (setLaneQ s k q).port = s.port := rfl
@[simp] theorem setLaneQ_running (k : Nat) (q : List QEntry) : (setLaneQ s k q).running = s.running := rfl
@[simp] theorem setLaneQ_par (k : Nat) (q : List QEntry) : (setLaneQ s k q).par = s.par := rfl
@[simp] theorem setLaneQ_lvl (k : Nat) (q : List QEntry) : (setLaneQ s k q).lvl = s.lvl := rfl
@[simp] theorem setLaneQ_regs (k : Nat) (q : List QEntry) : (setLaneQ s k q).regs = s.regs := rfl
@[simp] theorem setLaneQ_mem (k : Nat) (q : List QEntry) : (setLaneQ s k q).mem = s.mem := rfl
@[simp] theorem setLaneQ_tags (k : Nat) (q : List QEntry) : (setLaneQ s k q).tags = s.tags := rfl
@[simp] theorem setLaneQ_free (k : Nat) (q : List QEntry) : (setLaneQ s k q).free = s.free := rfl
@[simp] theorem setLaneQ_sets (k : Nat) (q : List QEntry) : (setLaneQ s k q).sets = s.sets := rfl
@[simp] theorem setLaneQ_resp (k : Nat) (q : List QEntry) : (setLaneQ s k q).resp = s.resp := rfl
@[simp] theorem setLaneQ_sig (k : Nat) (q : List QEntry) : (setLaneQ s k q).sig = s.sig := rfl
@[simp] theorem setLaneQ_halted (k : Nat) (q : List QEntry) : (setLaneQ s k q).halted = s.halted := rfl
@[simp] theorem setLaneQ_drvWant (k : Nat) (q : List QEntry) : (setLaneQ s k q).drvWant = s.drvWant := rfl
@[simp] theorem setLaneQ_ssp (k : Nat) (q : List QEntry) : (setLaneQ s k q).ssp = s.ssp := rfl
@[simp] theorem setLaneQ_cores (k : Nat) (q : List QEntry) : (setLaneQ s k q).cores = s.cores := rfl
@[simp] theorem setLaneQ_svc (k : Nat) (q : List QEntry) : (setLaneQ s k q).svc = s.svc := rfl
@[simp] theorem setLaneQ_ports (k : Nat) (q : List QEntry) : (setLaneQ s k q).ports = s.ports := rfl
@[simp] theorem setLaneQ_msys (k : Nat) (q : List QEntry) : (setLaneQ s k q).msys = s.msys := rfl
@[simp] theorem setLaneQ_ae (k : Nat) (q : List QEntry) : (setLaneQ s k q).ae = s.ae := rfl
@[simp] theorem setLaneQ_dm (k : Nat) (q : List QEntry) : (setLaneQ s k q).dm = s.dm := rfl
@[simp] theorem setLaneQ_sem (k : Nat) (q : List QEntry) : (setLaneQ s k q).sem = s.sem := rfl
@[simp] theorem setLaneQ_intc (k : Nat) (q : List QEntry) : (setLaneQ s k q).intc = s.intc := rfl
@[simp] theorem setLaneQ_pne (k : Nat) (q : List QEntry) : (setLaneQ s k q).pne = s.pne := rfl
@[simp] theorem setLaneQ_rlk (k : Nat) (q : List QEntry) : (setLaneQ s k q).rlk = s.rlk := rfl
@[simp] theorem setLaneQ_wac (k : Nat) (q : List QEntry) : (setLaneQ s k q).wac = s.wac := rfl
@[simp] theorem setLaneQ_jne (k : Nat) (q : List QEntry) : (setLaneQ s k q).jne = s.jne := rfl
@[simp] theorem setLaneQ_mlk (k : Nat) (q : List QEntry) : (setLaneQ s k q).mlk = s.mlk := rfl
@[simp] theorem setLaneQ_cpt (k : Nat) (q : List QEntry) : (setLaneQ s k q).cpt = s.cpt := rfl
@[simp] theorem setLaneQ_pctl (k : Nat) (q : List QEntry) : (setLaneQ s k q).pctl = s.pctl := rfl
@[simp] theorem setLaneQ_dbg (k : Nat) (q : List QEntry) : (setLaneQ s k q).dbg = s.dbg := rfl

@[simp] theorem setPdRun_pending (d : Nat) (r : PdRun) : (setPdRun s d r).pending = s.pending := rfl
@[simp] theorem setPdRun_port (d : Nat) (r : PdRun) : (setPdRun s d r).port = s.port := rfl
@[simp] theorem setPdRun_running (d : Nat) (r : PdRun) : (setPdRun s d r).running = s.running := rfl
@[simp] theorem setPdRun_par (d : Nat) (r : PdRun) : (setPdRun s d r).par = s.par := rfl
@[simp] theorem setPdRun_lvl (d : Nat) (r : PdRun) : (setPdRun s d r).lvl = s.lvl := rfl
@[simp] theorem setPdRun_regs (d : Nat) (r : PdRun) : (setPdRun s d r).regs = s.regs := rfl
@[simp] theorem setPdRun_mem (d : Nat) (r : PdRun) : (setPdRun s d r).mem = s.mem := rfl
@[simp] theorem setPdRun_tags (d : Nat) (r : PdRun) : (setPdRun s d r).tags = s.tags := rfl
@[simp] theorem setPdRun_free (d : Nat) (r : PdRun) : (setPdRun s d r).free = s.free := rfl
@[simp] theorem setPdRun_sets (d : Nat) (r : PdRun) : (setPdRun s d r).sets = s.sets := rfl
@[simp] theorem setPdRun_resp (d : Nat) (r : PdRun) : (setPdRun s d r).resp = s.resp := rfl
@[simp] theorem setPdRun_sig (d : Nat) (r : PdRun) : (setPdRun s d r).sig = s.sig := rfl
@[simp] theorem setPdRun_halted (d : Nat) (r : PdRun) : (setPdRun s d r).halted = s.halted := rfl
@[simp] theorem setPdRun_drvWant (d : Nat) (r : PdRun) : (setPdRun s d r).drvWant = s.drvWant := rfl
@[simp] theorem setPdRun_ssp (d : Nat) (r : PdRun) : (setPdRun s d r).ssp = s.ssp := rfl
@[simp] theorem setPdRun_cores (d : Nat) (r : PdRun) : (setPdRun s d r).cores = s.cores := rfl
@[simp] theorem setPdRun_svc (d : Nat) (r : PdRun) : (setPdRun s d r).svc = s.svc := rfl
@[simp] theorem setPdRun_ports (d : Nat) (r : PdRun) : (setPdRun s d r).ports = s.ports := rfl
@[simp] theorem setPdRun_msys (d : Nat) (r : PdRun) : (setPdRun s d r).msys = s.msys := rfl
@[simp] theorem setPdRun_cvp (d : Nat) (r : PdRun) : (setPdRun s d r).cvp = s.cvp := rfl
@[simp] theorem setPdRun_ae (d : Nat) (r : PdRun) : (setPdRun s d r).ae = s.ae := rfl
@[simp] theorem setPdRun_dm (d : Nat) (r : PdRun) : (setPdRun s d r).dm = s.dm := rfl
@[simp] theorem setPdRun_sem (d : Nat) (r : PdRun) : (setPdRun s d r).sem = s.sem := rfl
@[simp] theorem setPdRun_intc (d : Nat) (r : PdRun) : (setPdRun s d r).intc = s.intc := rfl
@[simp] theorem setPdRun_pne (d : Nat) (r : PdRun) : (setPdRun s d r).pne = s.pne := rfl
@[simp] theorem setPdRun_rlk (d : Nat) (r : PdRun) : (setPdRun s d r).rlk = s.rlk := rfl
@[simp] theorem setPdRun_wac (d : Nat) (r : PdRun) : (setPdRun s d r).wac = s.wac := rfl
@[simp] theorem setPdRun_jne (d : Nat) (r : PdRun) : (setPdRun s d r).jne = s.jne := rfl
@[simp] theorem setPdRun_mlk (d : Nat) (r : PdRun) : (setPdRun s d r).mlk = s.mlk := rfl
@[simp] theorem setPdRun_cpt (d : Nat) (r : PdRun) : (setPdRun s d r).cpt = s.cpt := rfl
@[simp] theorem setPdRun_dbg (d : Nat) (r : PdRun) : (setPdRun s d r).dbg = s.dbg := rfl

@[simp] theorem setUnit_pending (u : Nat) (x : PUnit) : (setUnit s u x).pending = s.pending := rfl
@[simp] theorem setUnit_port (u : Nat) (x : PUnit) : (setUnit s u x).port = s.port := rfl
@[simp] theorem setUnit_running (u : Nat) (x : PUnit) : (setUnit s u x).running = s.running := rfl
@[simp] theorem setUnit_par (u : Nat) (x : PUnit) : (setUnit s u x).par = s.par := rfl
@[simp] theorem setUnit_lvl (u : Nat) (x : PUnit) : (setUnit s u x).lvl = s.lvl := rfl
@[simp] theorem setUnit_regs (u : Nat) (x : PUnit) : (setUnit s u x).regs = s.regs := rfl
@[simp] theorem setUnit_mem (u : Nat) (x : PUnit) : (setUnit s u x).mem = s.mem := rfl
@[simp] theorem setUnit_tags (u : Nat) (x : PUnit) : (setUnit s u x).tags = s.tags := rfl
@[simp] theorem setUnit_free (u : Nat) (x : PUnit) : (setUnit s u x).free = s.free := rfl
@[simp] theorem setUnit_sets (u : Nat) (x : PUnit) : (setUnit s u x).sets = s.sets := rfl
@[simp] theorem setUnit_resp (u : Nat) (x : PUnit) : (setUnit s u x).resp = s.resp := rfl
@[simp] theorem setUnit_sig (u : Nat) (x : PUnit) : (setUnit s u x).sig = s.sig := rfl
@[simp] theorem setUnit_halted (u : Nat) (x : PUnit) : (setUnit s u x).halted = s.halted := rfl
@[simp] theorem setUnit_drvWant (u : Nat) (x : PUnit) : (setUnit s u x).drvWant = s.drvWant := rfl
@[simp] theorem setUnit_ssp (u : Nat) (x : PUnit) : (setUnit s u x).ssp = s.ssp := rfl
@[simp] theorem setUnit_cores (u : Nat) (x : PUnit) : (setUnit s u x).cores = s.cores := rfl
@[simp] theorem setUnit_svc (u : Nat) (x : PUnit) : (setUnit s u x).svc = s.svc := rfl
@[simp] theorem setUnit_ports (u : Nat) (x : PUnit) : (setUnit s u x).ports = s.ports := rfl
@[simp] theorem setUnit_msys (u : Nat) (x : PUnit) : (setUnit s u x).msys = s.msys := rfl
@[simp] theorem setUnit_cvp (u : Nat) (x : PUnit) : (setUnit s u x).cvp = s.cvp := rfl
@[simp] theorem setUnit_ae (u : Nat) (x : PUnit) : (setUnit s u x).ae = s.ae := rfl
@[simp] theorem setUnit_dm (u : Nat) (x : PUnit) : (setUnit s u x).dm = s.dm := rfl
@[simp] theorem setUnit_sem (u : Nat) (x : PUnit) : (setUnit s u x).sem = s.sem := rfl
@[simp] theorem setUnit_intc (u : Nat) (x : PUnit) : (setUnit s u x).intc = s.intc := rfl
@[simp] theorem setUnit_rlk (u : Nat) (x : PUnit) : (setUnit s u x).rlk = s.rlk := rfl
@[simp] theorem setUnit_wac (u : Nat) (x : PUnit) : (setUnit s u x).wac = s.wac := rfl
@[simp] theorem setUnit_jne (u : Nat) (x : PUnit) : (setUnit s u x).jne = s.jne := rfl
@[simp] theorem setUnit_mlk (u : Nat) (x : PUnit) : (setUnit s u x).mlk = s.mlk := rfl
@[simp] theorem setUnit_cpt (u : Nat) (x : PUnit) : (setUnit s u x).cpt = s.cpt := rfl
@[simp] theorem setUnit_pctl (u : Nat) (x : PUnit) : (setUnit s u x).pctl = s.pctl := rfl
@[simp] theorem setUnit_dbg (u : Nat) (x : PUnit) : (setUnit s u x).dbg = s.dbg := rfl

@[simp] theorem onJne_pending (f : Jne → Jne) : (onJne s f).pending = s.pending := rfl
@[simp] theorem onJne_port (f : Jne → Jne) : (onJne s f).port = s.port := rfl
@[simp] theorem onJne_running (f : Jne → Jne) : (onJne s f).running = s.running := rfl
@[simp] theorem onJne_par (f : Jne → Jne) : (onJne s f).par = s.par := rfl
@[simp] theorem onJne_lvl (f : Jne → Jne) : (onJne s f).lvl = s.lvl := rfl
@[simp] theorem onJne_regs (f : Jne → Jne) : (onJne s f).regs = s.regs := rfl
@[simp] theorem onJne_mem (f : Jne → Jne) : (onJne s f).mem = s.mem := rfl
@[simp] theorem onJne_tags (f : Jne → Jne) : (onJne s f).tags = s.tags := rfl
@[simp] theorem onJne_free (f : Jne → Jne) : (onJne s f).free = s.free := rfl
@[simp] theorem onJne_sets (f : Jne → Jne) : (onJne s f).sets = s.sets := rfl
@[simp] theorem onJne_resp (f : Jne → Jne) : (onJne s f).resp = s.resp := rfl
@[simp] theorem onJne_sig (f : Jne → Jne) : (onJne s f).sig = s.sig := rfl
@[simp] theorem onJne_halted (f : Jne → Jne) : (onJne s f).halted = s.halted := rfl
@[simp] theorem onJne_drvWant (f : Jne → Jne) : (onJne s f).drvWant = s.drvWant := rfl
@[simp] theorem onJne_ssp (f : Jne → Jne) : (onJne s f).ssp = s.ssp := rfl
@[simp] theorem onJne_cores (f : Jne → Jne) : (onJne s f).cores = s.cores := rfl
@[simp] theorem onJne_svc (f : Jne → Jne) : (onJne s f).svc = s.svc := rfl
@[simp] theorem onJne_ports (f : Jne → Jne) : (onJne s f).ports = s.ports := rfl
@[simp] theorem onJne_msys (f : Jne → Jne) : (onJne s f).msys = s.msys := rfl
@[simp] theorem onJne_cvp (f : Jne → Jne) : (onJne s f).cvp = s.cvp := rfl
@[simp] theorem onJne_ae (f : Jne → Jne) : (onJne s f).ae = s.ae := rfl
@[simp] theorem onJne_dm (f : Jne → Jne) : (onJne s f).dm = s.dm := rfl
@[simp] theorem onJne_sem (f : Jne → Jne) : (onJne s f).sem = s.sem := rfl
@[simp] theorem onJne_intc (f : Jne → Jne) : (onJne s f).intc = s.intc := rfl
@[simp] theorem onJne_pne (f : Jne → Jne) : (onJne s f).pne = s.pne := rfl
@[simp] theorem onJne_rlk (f : Jne → Jne) : (onJne s f).rlk = s.rlk := rfl
@[simp] theorem onJne_wac (f : Jne → Jne) : (onJne s f).wac = s.wac := rfl
@[simp] theorem onJne_mlk (f : Jne → Jne) : (onJne s f).mlk = s.mlk := rfl
@[simp] theorem onJne_cpt (f : Jne → Jne) : (onJne s f).cpt = s.cpt := rfl
@[simp] theorem onJne_pctl (f : Jne → Jne) : (onJne s f).pctl = s.pctl := rfl
@[simp] theorem onJne_dbg (f : Jne → Jne) : (onJne s f).dbg = s.dbg := rfl

@[simp] theorem onMlk_pending (f : Mlk → Mlk) : (onMlk s f).pending = s.pending := rfl
@[simp] theorem onMlk_port (f : Mlk → Mlk) : (onMlk s f).port = s.port := rfl
@[simp] theorem onMlk_running (f : Mlk → Mlk) : (onMlk s f).running = s.running := rfl
@[simp] theorem onMlk_par (f : Mlk → Mlk) : (onMlk s f).par = s.par := rfl
@[simp] theorem onMlk_lvl (f : Mlk → Mlk) : (onMlk s f).lvl = s.lvl := rfl
@[simp] theorem onMlk_regs (f : Mlk → Mlk) : (onMlk s f).regs = s.regs := rfl
@[simp] theorem onMlk_mem (f : Mlk → Mlk) : (onMlk s f).mem = s.mem := rfl
@[simp] theorem onMlk_tags (f : Mlk → Mlk) : (onMlk s f).tags = s.tags := rfl
@[simp] theorem onMlk_free (f : Mlk → Mlk) : (onMlk s f).free = s.free := rfl
@[simp] theorem onMlk_sets (f : Mlk → Mlk) : (onMlk s f).sets = s.sets := rfl
@[simp] theorem onMlk_resp (f : Mlk → Mlk) : (onMlk s f).resp = s.resp := rfl
@[simp] theorem onMlk_sig (f : Mlk → Mlk) : (onMlk s f).sig = s.sig := rfl
@[simp] theorem onMlk_halted (f : Mlk → Mlk) : (onMlk s f).halted = s.halted := rfl
@[simp] theorem onMlk_drvWant (f : Mlk → Mlk) : (onMlk s f).drvWant = s.drvWant := rfl
@[simp] theorem onMlk_ssp (f : Mlk → Mlk) : (onMlk s f).ssp = s.ssp := rfl
@[simp] theorem onMlk_cores (f : Mlk → Mlk) : (onMlk s f).cores = s.cores := rfl
@[simp] theorem onMlk_svc (f : Mlk → Mlk) : (onMlk s f).svc = s.svc := rfl
@[simp] theorem onMlk_ports (f : Mlk → Mlk) : (onMlk s f).ports = s.ports := rfl
@[simp] theorem onMlk_msys (f : Mlk → Mlk) : (onMlk s f).msys = s.msys := rfl
@[simp] theorem onMlk_cvp (f : Mlk → Mlk) : (onMlk s f).cvp = s.cvp := rfl
@[simp] theorem onMlk_ae (f : Mlk → Mlk) : (onMlk s f).ae = s.ae := rfl
@[simp] theorem onMlk_dm (f : Mlk → Mlk) : (onMlk s f).dm = s.dm := rfl
@[simp] theorem onMlk_sem (f : Mlk → Mlk) : (onMlk s f).sem = s.sem := rfl
@[simp] theorem onMlk_intc (f : Mlk → Mlk) : (onMlk s f).intc = s.intc := rfl
@[simp] theorem onMlk_pne (f : Mlk → Mlk) : (onMlk s f).pne = s.pne := rfl
@[simp] theorem onMlk_rlk (f : Mlk → Mlk) : (onMlk s f).rlk = s.rlk := rfl
@[simp] theorem onMlk_wac (f : Mlk → Mlk) : (onMlk s f).wac = s.wac := rfl
@[simp] theorem onMlk_jne (f : Mlk → Mlk) : (onMlk s f).jne = s.jne := rfl
@[simp] theorem onMlk_cpt (f : Mlk → Mlk) : (onMlk s f).cpt = s.cpt := rfl
@[simp] theorem onMlk_pctl (f : Mlk → Mlk) : (onMlk s f).pctl = s.pctl := rfl
@[simp] theorem onMlk_dbg (f : Mlk → Mlk) : (onMlk s f).dbg = s.dbg := rfl

@[simp] theorem onRlk_pending (f : Rlk → Rlk) : (onRlk s f).pending = s.pending := rfl
@[simp] theorem onRlk_port (f : Rlk → Rlk) : (onRlk s f).port = s.port := rfl
@[simp] theorem onRlk_running (f : Rlk → Rlk) : (onRlk s f).running = s.running := rfl
@[simp] theorem onRlk_par (f : Rlk → Rlk) : (onRlk s f).par = s.par := rfl
@[simp] theorem onRlk_lvl (f : Rlk → Rlk) : (onRlk s f).lvl = s.lvl := rfl
@[simp] theorem onRlk_regs (f : Rlk → Rlk) : (onRlk s f).regs = s.regs := rfl
@[simp] theorem onRlk_mem (f : Rlk → Rlk) : (onRlk s f).mem = s.mem := rfl
@[simp] theorem onRlk_tags (f : Rlk → Rlk) : (onRlk s f).tags = s.tags := rfl
@[simp] theorem onRlk_free (f : Rlk → Rlk) : (onRlk s f).free = s.free := rfl
@[simp] theorem onRlk_sets (f : Rlk → Rlk) : (onRlk s f).sets = s.sets := rfl
@[simp] theorem onRlk_resp (f : Rlk → Rlk) : (onRlk s f).resp = s.resp := rfl
@[simp] theorem onRlk_sig (f : Rlk → Rlk) : (onRlk s f).sig = s.sig := rfl
@[simp] theorem onRlk_halted (f : Rlk → Rlk) : (onRlk s f).halted = s.halted := rfl
@[simp] theorem onRlk_drvWant (f : Rlk → Rlk) : (onRlk s f).drvWant = s.drvWant := rfl
@[simp] theorem onRlk_ssp (f : Rlk → Rlk) : (onRlk s f).ssp = s.ssp := rfl
@[simp] theorem onRlk_cores (f : Rlk → Rlk) : (onRlk s f).cores = s.cores := rfl
@[simp] theorem onRlk_svc (f : Rlk → Rlk) : (onRlk s f).svc = s.svc := rfl
@[simp] theorem onRlk_ports (f : Rlk → Rlk) : (onRlk s f).ports = s.ports := rfl
@[simp] theorem onRlk_msys (f : Rlk → Rlk) : (onRlk s f).msys = s.msys := rfl
@[simp] theorem onRlk_cvp (f : Rlk → Rlk) : (onRlk s f).cvp = s.cvp := rfl
@[simp] theorem onRlk_ae (f : Rlk → Rlk) : (onRlk s f).ae = s.ae := rfl
@[simp] theorem onRlk_dm (f : Rlk → Rlk) : (onRlk s f).dm = s.dm := rfl
@[simp] theorem onRlk_sem (f : Rlk → Rlk) : (onRlk s f).sem = s.sem := rfl
@[simp] theorem onRlk_intc (f : Rlk → Rlk) : (onRlk s f).intc = s.intc := rfl
@[simp] theorem onRlk_pne (f : Rlk → Rlk) : (onRlk s f).pne = s.pne := rfl
@[simp] theorem onRlk_wac (f : Rlk → Rlk) : (onRlk s f).wac = s.wac := rfl
@[simp] theorem onRlk_jne (f : Rlk → Rlk) : (onRlk s f).jne = s.jne := rfl
@[simp] theorem onRlk_mlk (f : Rlk → Rlk) : (onRlk s f).mlk = s.mlk := rfl
@[simp] theorem onRlk_cpt (f : Rlk → Rlk) : (onRlk s f).cpt = s.cpt := rfl
@[simp] theorem onRlk_pctl (f : Rlk → Rlk) : (onRlk s f).pctl = s.pctl := rfl
@[simp] theorem onRlk_dbg (f : Rlk → Rlk) : (onRlk s f).dbg = s.dbg := rfl

@[simp] theorem onPne_pending (f : Pne → Pne) : (onPne s f).pending = s.pending := rfl
@[simp] theorem onPne_port (f : Pne → Pne) : (onPne s f).port = s.port := rfl
@[simp] theorem onPne_running (f : Pne → Pne) : (onPne s f).running = s.running := rfl
@[simp] theorem onPne_par (f : Pne → Pne) : (onPne s f).par = s.par := rfl
@[simp] theorem onPne_lvl (f : Pne → Pne) : (onPne s f).lvl = s.lvl := rfl
@[simp] theorem onPne_regs (f : Pne → Pne) : (onPne s f).regs = s.regs := rfl
@[simp] theorem onPne_mem (f : Pne → Pne) : (onPne s f).mem = s.mem := rfl
@[simp] theorem onPne_tags (f : Pne → Pne) : (onPne s f).tags = s.tags := rfl
@[simp] theorem onPne_free (f : Pne → Pne) : (onPne s f).free = s.free := rfl
@[simp] theorem onPne_sets (f : Pne → Pne) : (onPne s f).sets = s.sets := rfl
@[simp] theorem onPne_resp (f : Pne → Pne) : (onPne s f).resp = s.resp := rfl
@[simp] theorem onPne_sig (f : Pne → Pne) : (onPne s f).sig = s.sig := rfl
@[simp] theorem onPne_halted (f : Pne → Pne) : (onPne s f).halted = s.halted := rfl
@[simp] theorem onPne_drvWant (f : Pne → Pne) : (onPne s f).drvWant = s.drvWant := rfl
@[simp] theorem onPne_ssp (f : Pne → Pne) : (onPne s f).ssp = s.ssp := rfl
@[simp] theorem onPne_cores (f : Pne → Pne) : (onPne s f).cores = s.cores := rfl
@[simp] theorem onPne_svc (f : Pne → Pne) : (onPne s f).svc = s.svc := rfl
@[simp] theorem onPne_ports (f : Pne → Pne) : (onPne s f).ports = s.ports := rfl
@[simp] theorem onPne_msys (f : Pne → Pne) : (onPne s f).msys = s.msys := rfl
@[simp] theorem onPne_cvp (f : Pne → Pne) : (onPne s f).cvp = s.cvp := rfl
@[simp] theorem onPne_ae (f : Pne → Pne) : (onPne s f).ae = s.ae := rfl
@[simp] theorem onPne_dm (f : Pne → Pne) : (onPne s f).dm = s.dm := rfl
@[simp] theorem onPne_sem (f : Pne → Pne) : (onPne s f).sem = s.sem := rfl
@[simp] theorem onPne_intc (f : Pne → Pne) : (onPne s f).intc = s.intc := rfl
@[simp] theorem onPne_rlk (f : Pne → Pne) : (onPne s f).rlk = s.rlk := rfl
@[simp] theorem onPne_wac (f : Pne → Pne) : (onPne s f).wac = s.wac := rfl
@[simp] theorem onPne_jne (f : Pne → Pne) : (onPne s f).jne = s.jne := rfl
@[simp] theorem onPne_mlk (f : Pne → Pne) : (onPne s f).mlk = s.mlk := rfl
@[simp] theorem onPne_cpt (f : Pne → Pne) : (onPne s f).cpt = s.cpt := rfl
@[simp] theorem onPne_pctl (f : Pne → Pne) : (onPne s f).pctl = s.pctl := rfl
@[simp] theorem onPne_dbg (f : Pne → Pne) : (onPne s f).dbg = s.dbg := rfl

@[simp] theorem onWac_pending (f : Wac → Wac) : (onWac s f).pending = s.pending := rfl
@[simp] theorem onWac_port (f : Wac → Wac) : (onWac s f).port = s.port := rfl
@[simp] theorem onWac_running (f : Wac → Wac) : (onWac s f).running = s.running := rfl
@[simp] theorem onWac_par (f : Wac → Wac) : (onWac s f).par = s.par := rfl
@[simp] theorem onWac_lvl (f : Wac → Wac) : (onWac s f).lvl = s.lvl := rfl
@[simp] theorem onWac_regs (f : Wac → Wac) : (onWac s f).regs = s.regs := rfl
@[simp] theorem onWac_mem (f : Wac → Wac) : (onWac s f).mem = s.mem := rfl
@[simp] theorem onWac_tags (f : Wac → Wac) : (onWac s f).tags = s.tags := rfl
@[simp] theorem onWac_free (f : Wac → Wac) : (onWac s f).free = s.free := rfl
@[simp] theorem onWac_sets (f : Wac → Wac) : (onWac s f).sets = s.sets := rfl
@[simp] theorem onWac_resp (f : Wac → Wac) : (onWac s f).resp = s.resp := rfl
@[simp] theorem onWac_sig (f : Wac → Wac) : (onWac s f).sig = s.sig := rfl
@[simp] theorem onWac_halted (f : Wac → Wac) : (onWac s f).halted = s.halted := rfl
@[simp] theorem onWac_drvWant (f : Wac → Wac) : (onWac s f).drvWant = s.drvWant := rfl
@[simp] theorem onWac_ssp (f : Wac → Wac) : (onWac s f).ssp = s.ssp := rfl
@[simp] theorem onWac_cores (f : Wac → Wac) : (onWac s f).cores = s.cores := rfl
@[simp] theorem onWac_svc (f : Wac → Wac) : (onWac s f).svc = s.svc := rfl
@[simp] theorem onWac_ports (f : Wac → Wac) : (onWac s f).ports = s.ports := rfl
@[simp] theorem onWac_msys (f : Wac → Wac) : (onWac s f).msys = s.msys := rfl
@[simp] theorem onWac_cvp (f : Wac → Wac) : (onWac s f).cvp = s.cvp := rfl
@[simp] theorem onWac_ae (f : Wac → Wac) : (onWac s f).ae = s.ae := rfl
@[simp] theorem onWac_dm (f : Wac → Wac) : (onWac s f).dm = s.dm := rfl
@[simp] theorem onWac_sem (f : Wac → Wac) : (onWac s f).sem = s.sem := rfl
@[simp] theorem onWac_intc (f : Wac → Wac) : (onWac s f).intc = s.intc := rfl
@[simp] theorem onWac_pne (f : Wac → Wac) : (onWac s f).pne = s.pne := rfl
@[simp] theorem onWac_rlk (f : Wac → Wac) : (onWac s f).rlk = s.rlk := rfl
@[simp] theorem onWac_jne (f : Wac → Wac) : (onWac s f).jne = s.jne := rfl
@[simp] theorem onWac_mlk (f : Wac → Wac) : (onWac s f).mlk = s.mlk := rfl
@[simp] theorem onWac_cpt (f : Wac → Wac) : (onWac s f).cpt = s.cpt := rfl
@[simp] theorem onWac_pctl (f : Wac → Wac) : (onWac s f).pctl = s.pctl := rfl
@[simp] theorem onWac_dbg (f : Wac → Wac) : (onWac s f).dbg = s.dbg := rfl

@[simp] theorem onCpt_pending (f : Cpt → Cpt) : (onCpt s f).pending = s.pending := rfl
@[simp] theorem onCpt_port (f : Cpt → Cpt) : (onCpt s f).port = s.port := rfl
@[simp] theorem onCpt_running (f : Cpt → Cpt) : (onCpt s f).running = s.running := rfl
@[simp] theorem onCpt_par (f : Cpt → Cpt) : (onCpt s f).par = s.par := rfl
@[simp] theorem onCpt_lvl (f : Cpt → Cpt) : (onCpt s f).lvl = s.lvl := rfl
@[simp] theorem onCpt_regs (f : Cpt → Cpt) : (onCpt s f).regs = s.regs := rfl
@[simp] theorem onCpt_mem (f : Cpt → Cpt) : (onCpt s f).mem = s.mem := rfl
@[simp] theorem onCpt_tags (f : Cpt → Cpt) : (onCpt s f).tags = s.tags := rfl
@[simp] theorem onCpt_free (f : Cpt → Cpt) : (onCpt s f).free = s.free := rfl
@[simp] theorem onCpt_sets (f : Cpt → Cpt) : (onCpt s f).sets = s.sets := rfl
@[simp] theorem onCpt_resp (f : Cpt → Cpt) : (onCpt s f).resp = s.resp := rfl
@[simp] theorem onCpt_sig (f : Cpt → Cpt) : (onCpt s f).sig = s.sig := rfl
@[simp] theorem onCpt_halted (f : Cpt → Cpt) : (onCpt s f).halted = s.halted := rfl
@[simp] theorem onCpt_drvWant (f : Cpt → Cpt) : (onCpt s f).drvWant = s.drvWant := rfl
@[simp] theorem onCpt_ssp (f : Cpt → Cpt) : (onCpt s f).ssp = s.ssp := rfl
@[simp] theorem onCpt_cores (f : Cpt → Cpt) : (onCpt s f).cores = s.cores := rfl
@[simp] theorem onCpt_svc (f : Cpt → Cpt) : (onCpt s f).svc = s.svc := rfl
@[simp] theorem onCpt_ports (f : Cpt → Cpt) : (onCpt s f).ports = s.ports := rfl
@[simp] theorem onCpt_msys (f : Cpt → Cpt) : (onCpt s f).msys = s.msys := rfl
@[simp] theorem onCpt_cvp (f : Cpt → Cpt) : (onCpt s f).cvp = s.cvp := rfl
@[simp] theorem onCpt_ae (f : Cpt → Cpt) : (onCpt s f).ae = s.ae := rfl
@[simp] theorem onCpt_dm (f : Cpt → Cpt) : (onCpt s f).dm = s.dm := rfl
@[simp] theorem onCpt_sem (f : Cpt → Cpt) : (onCpt s f).sem = s.sem := rfl
@[simp] theorem onCpt_intc (f : Cpt → Cpt) : (onCpt s f).intc = s.intc := rfl
@[simp] theorem onCpt_pne (f : Cpt → Cpt) : (onCpt s f).pne = s.pne := rfl
@[simp] theorem onCpt_rlk (f : Cpt → Cpt) : (onCpt s f).rlk = s.rlk := rfl
@[simp] theorem onCpt_wac (f : Cpt → Cpt) : (onCpt s f).wac = s.wac := rfl
@[simp] theorem onCpt_jne (f : Cpt → Cpt) : (onCpt s f).jne = s.jne := rfl
@[simp] theorem onCpt_mlk (f : Cpt → Cpt) : (onCpt s f).mlk = s.mlk := rfl
@[simp] theorem onCpt_pctl (f : Cpt → Cpt) : (onCpt s f).pctl = s.pctl := rfl
@[simp] theorem onCpt_dbg (f : Cpt → Cpt) : (onCpt s f).dbg = s.dbg := rfl

@[simp] theorem onPctl_pending (f : Pctl → Pctl) : (onPctl s f).pending = s.pending := rfl
@[simp] theorem onPctl_port (f : Pctl → Pctl) : (onPctl s f).port = s.port := rfl
@[simp] theorem onPctl_running (f : Pctl → Pctl) : (onPctl s f).running = s.running := rfl
@[simp] theorem onPctl_par (f : Pctl → Pctl) : (onPctl s f).par = s.par := rfl
@[simp] theorem onPctl_lvl (f : Pctl → Pctl) : (onPctl s f).lvl = s.lvl := rfl
@[simp] theorem onPctl_regs (f : Pctl → Pctl) : (onPctl s f).regs = s.regs := rfl
@[simp] theorem onPctl_mem (f : Pctl → Pctl) : (onPctl s f).mem = s.mem := rfl
@[simp] theorem onPctl_tags (f : Pctl → Pctl) : (onPctl s f).tags = s.tags := rfl
@[simp] theorem onPctl_free (f : Pctl → Pctl) : (onPctl s f).free = s.free := rfl
@[simp] theorem onPctl_sets (f : Pctl → Pctl) : (onPctl s f).sets = s.sets := rfl
@[simp] theorem onPctl_resp (f : Pctl → Pctl) : (onPctl s f).resp = s.resp := rfl
@[simp] theorem onPctl_sig (f : Pctl → Pctl) : (onPctl s f).sig = s.sig := rfl
@[simp] theorem onPctl_halted (f : Pctl → Pctl) : (onPctl s f).halted = s.halted := rfl
@[simp] theorem onPctl_drvWant (f : Pctl → Pctl) : (onPctl s f).drvWant = s.drvWant := rfl
@[simp] theorem onPctl_ssp (f : Pctl → Pctl) : (onPctl s f).ssp = s.ssp := rfl
@[simp] theorem onPctl_cores (f : Pctl → Pctl) : (onPctl s f).cores = s.cores := rfl
@[simp] theorem onPctl_svc (f : Pctl → Pctl) : (onPctl s f).svc = s.svc := rfl
@[simp] theorem onPctl_ports (f : Pctl → Pctl) : (onPctl s f).ports = s.ports := rfl
@[simp] theorem onPctl_msys (f : Pctl → Pctl) : (onPctl s f).msys = s.msys := rfl
@[simp] theorem onPctl_cvp (f : Pctl → Pctl) : (onPctl s f).cvp = s.cvp := rfl
@[simp] theorem onPctl_ae (f : Pctl → Pctl) : (onPctl s f).ae = s.ae := rfl
@[simp] theorem onPctl_dm (f : Pctl → Pctl) : (onPctl s f).dm = s.dm := rfl
@[simp] theorem onPctl_sem (f : Pctl → Pctl) : (onPctl s f).sem = s.sem := rfl
@[simp] theorem onPctl_intc (f : Pctl → Pctl) : (onPctl s f).intc = s.intc := rfl
@[simp] theorem onPctl_pne (f : Pctl → Pctl) : (onPctl s f).pne = s.pne := rfl
@[simp] theorem onPctl_rlk (f : Pctl → Pctl) : (onPctl s f).rlk = s.rlk := rfl
@[simp] theorem onPctl_wac (f : Pctl → Pctl) : (onPctl s f).wac = s.wac := rfl
@[simp] theorem onPctl_jne (f : Pctl → Pctl) : (onPctl s f).jne = s.jne := rfl
@[simp] theorem onPctl_mlk (f : Pctl → Pctl) : (onPctl s f).mlk = s.mlk := rfl
@[simp] theorem onPctl_cpt (f : Pctl → Pctl) : (onPctl s f).cpt = s.cpt := rfl
@[simp] theorem onPctl_dbg (f : Pctl → Pctl) : (onPctl s f).dbg = s.dbg := rfl

@[simp] theorem onDbg_pending (f : Dbg → Dbg) : (onDbg s f).pending = s.pending := rfl
@[simp] theorem onDbg_port (f : Dbg → Dbg) : (onDbg s f).port = s.port := rfl
@[simp] theorem onDbg_running (f : Dbg → Dbg) : (onDbg s f).running = s.running := rfl
@[simp] theorem onDbg_par (f : Dbg → Dbg) : (onDbg s f).par = s.par := rfl
@[simp] theorem onDbg_lvl (f : Dbg → Dbg) : (onDbg s f).lvl = s.lvl := rfl
@[simp] theorem onDbg_regs (f : Dbg → Dbg) : (onDbg s f).regs = s.regs := rfl
@[simp] theorem onDbg_mem (f : Dbg → Dbg) : (onDbg s f).mem = s.mem := rfl
@[simp] theorem onDbg_tags (f : Dbg → Dbg) : (onDbg s f).tags = s.tags := rfl
@[simp] theorem onDbg_free (f : Dbg → Dbg) : (onDbg s f).free = s.free := rfl
@[simp] theorem onDbg_sets (f : Dbg → Dbg) : (onDbg s f).sets = s.sets := rfl
@[simp] theorem onDbg_resp (f : Dbg → Dbg) : (onDbg s f).resp = s.resp := rfl
@[simp] theorem onDbg_sig (f : Dbg → Dbg) : (onDbg s f).sig = s.sig := rfl
@[simp] theorem onDbg_halted (f : Dbg → Dbg) : (onDbg s f).halted = s.halted := rfl
@[simp] theorem onDbg_drvWant (f : Dbg → Dbg) : (onDbg s f).drvWant = s.drvWant := rfl
@[simp] theorem onDbg_ssp (f : Dbg → Dbg) : (onDbg s f).ssp = s.ssp := rfl
@[simp] theorem onDbg_cores (f : Dbg → Dbg) : (onDbg s f).cores = s.cores := rfl
@[simp] theorem onDbg_svc (f : Dbg → Dbg) : (onDbg s f).svc = s.svc := rfl
@[simp] theorem onDbg_ports (f : Dbg → Dbg) : (onDbg s f).ports = s.ports := rfl
@[simp] theorem onDbg_msys (f : Dbg → Dbg) : (onDbg s f).msys = s.msys := rfl
@[simp] theorem onDbg_cvp (f : Dbg → Dbg) : (onDbg s f).cvp = s.cvp := rfl
@[simp] theorem onDbg_ae (f : Dbg → Dbg) : (onDbg s f).ae = s.ae := rfl
@[simp] theorem onDbg_dm (f : Dbg → Dbg) : (onDbg s f).dm = s.dm := rfl
@[simp] theorem onDbg_sem (f : Dbg → Dbg) : (onDbg s f).sem = s.sem := rfl
@[simp] theorem onDbg_intc (f : Dbg → Dbg) : (onDbg s f).intc = s.intc := rfl
@[simp] theorem onDbg_pne (f : Dbg → Dbg) : (onDbg s f).pne = s.pne := rfl
@[simp] theorem onDbg_rlk (f : Dbg → Dbg) : (onDbg s f).rlk = s.rlk := rfl
@[simp] theorem onDbg_wac (f : Dbg → Dbg) : (onDbg s f).wac = s.wac := rfl
@[simp] theorem onDbg_jne (f : Dbg → Dbg) : (onDbg s f).jne = s.jne := rfl
@[simp] theorem onDbg_mlk (f : Dbg → Dbg) : (onDbg s f).mlk = s.mlk := rfl
@[simp] theorem onDbg_cpt (f : Dbg → Dbg) : (onDbg s f).cpt = s.cpt := rfl
@[simp] theorem onDbg_pctl (f : Dbg → Dbg) : (onDbg s f).pctl = s.pctl := rfl

end Sys2Proof.Machine
end

