-- ==== Sys2Proof/Laws/Table.lean ====
section
/-! SUPPORT. Sparse data: what a read gives after a write, and that a write keeps the canonical form. -/

namespace Sys2Proof.Machine

variable {α : Type} [DecidableEq α]

omit [DecidableEq α] in
theorem tget_terase_same (d : α) (l : List (Nat × α)) (a : Nat) : tget d (terase l a) a = d := by
  induction l with
  | nil => rfl
  | cons p r ih =>
    by_cases h : p.1 = a
    · simp [terase, h] at *; exact ih
    · have h' : ¬ a = p.1 := fun e => h e.symm
      simp [terase, h, tget, h'] at *; exact ih

omit [DecidableEq α] in
theorem tget_terase_other (d : α) (l : List (Nat × α)) {a b : Nat} (hb : b ≠ a) :
    tget d (terase l a) b = tget d l b := by
  induction l with
  | nil => rfl
  | cons p r ih =>
    by_cases h : p.1 = a
    · have h' : ¬ b = p.1 := fun e => hb (e.trans h)
      simp [terase, h, tget, hb] at *; exact ih
    · by_cases h2 : b = p.1 <;> simp [terase, h, tget, h2] at * <;> exact ih

/-- What was written is read. -/
@[simp] theorem tget_tset_same (d : α) (l : List (Nat × α)) (a : Nat) (x : α) : tget d (tset d l a x) a = x := by
  induction l with
  | nil => by_cases h : x = d <;> simp [tset, tget, h]
  | cons p r ih =>
    obtain ⟨k, v⟩ := p
    simp only [tset]
    split
    · split
      · rename_i h; rw [tget_terase_same]; exact h.symm
      · simp [tget]
    · split
      · split
        · rename_i h; rw [tget_terase_same]; exact h.symm
        · simp [tget]
      · simp [tget, *]

/-- A write leaves every other key alone. -/
@[simp] theorem tget_tset_other (d e : α) (l : List (Nat × α)) {a b : Nat} (x : α) (hb : b ≠ a) :
    tget e (tset d l a x) b = tget e l b := by
  induction l with
  | nil => by_cases h : x = d <;> simp [tset, tget, h, hb]
  | cons p r ih =>
    obtain ⟨k, v⟩ := p
    simp only [tset]
    split
    · split
      · exact tget_terase_other e _ hb
      · simp [tget, hb]
    · split
      · rename_i h; subst h
        split
        · rw [tget_terase_other e _ hb]; simp [tget, hb]
        · simp [tget, hb]
      · simp [tget, ih]

theorem tget_tset (d : α) (l : List (Nat × α)) (a b : Nat) (x : α) :
    tget d (tset d l a x) b = if b = a then x else tget d l b := by
  by_cases h : b = a
  · simp [h]
  · simp [h]

/-! The canonical form. -/

theorem twfFrom_mono {f : Nat → α} {lo lo' : Nat} {l : List (Nat × α)} (h : lo' ≤ lo)
    (w : twfFrom f lo l = true) : twfFrom f lo' l = true := by
  cases l with
  | nil => rfl
  | cons p r =>
    simp only [twfFrom, Bool.and_eq_true, decide_eq_true_eq] at *
    exact ⟨⟨Nat.le_trans h w.1.1, w.1.2⟩, w.2⟩

theorem twfFrom_filter {f : Nat → α} {lo : Nat} {l : List (Nat × α)} (q : Nat × α → Bool)
    (w : twfFrom f lo l = true) : twfFrom f lo (l.filter q) = true := by
  induction l generalizing lo with
  | nil => exact w
  | cons p r ih =>
    simp only [twfFrom, Bool.and_eq_true, decide_eq_true_eq] at w
    simp only [List.filter]
    split
    · simp only [twfFrom, Bool.and_eq_true, decide_eq_true_eq]
      exact ⟨w.1, ih w.2⟩
    · exact ih (twfFrom_mono (by omega) w.2)

theorem twfFrom_tset {d : α} {lo : Nat} {l : List (Nat × α)} {a : Nat} (x : α) (h : lo ≤ a)
    (w : twfFrom (fun _ => d) lo l = true) : twfFrom (fun _ => d) lo (tset d l a x) = true := by
  induction l generalizing lo with
  | nil => by_cases e : x = d <;> simp [tset, twfFrom, e, h]
  | cons p r ih =>
    obtain ⟨k, v⟩ := p
    have w' := w
    simp only [twfFrom, Bool.and_eq_true, decide_eq_true_eq] at w
    simp only [tset]
    split
    · split
      · exact twfFrom_filter _ w'
      · simp only [twfFrom, Bool.and_eq_true, decide_eq_true_eq]
        exact ⟨⟨h, by assumption⟩, ⟨by omega, w.1.2⟩, w.2⟩
    · split
      · rename_i e; subst e
        split
        · exact twfFrom_filter _ (twfFrom_mono (by omega) w.2)
        · simp only [twfFrom, Bool.and_eq_true, decide_eq_true_eq]
          exact ⟨⟨h, by assumption⟩, w.2⟩
      · simp only [twfFrom, Bool.and_eq_true, decide_eq_true_eq]
        exact ⟨w.1, ih (by omega) w.2⟩

/-- A write keeps the canonical form. -/
theorem twf_tset {d : α} {l : List (Nat × α)} (a : Nat) (x : α) (w : twf (fun _ => d) l = true) :
    twf (fun _ => d) (tset d l a x) = true := twfFrom_tset x (Nat.zero_le _) w

/-- Dropping entries keeps the canonical form. -/
theorem twf_filter {f : Nat → α} {l : List (Nat × α)} (q : Nat × α → Bool) (w : twf f l = true) :
    twf f (l.filter q) = true := twfFrom_filter q w

end Sys2Proof.Machine
end

