-- ==== Sys2Proof/Laws/Core.lean ====
section
/-! SUPPORT. Cores: what is read after a core, a bank or an operand stack was written, and what an instruction does that
nothing comes before. -/

namespace Sys2Proof.Machine

@[simp] theorem coreOf_setCore_same (s : State) (k : Nat) (c : Core) : coreOf (setCore s k c) k = c := by
  simp [coreOf, setCore]

@[simp] theorem coreOf_setCore_other (s : State) {j k : Nat} (c : Core) (h : j ≠ k) :
    coreOf (setCore s k c) j = coreOf s j := by simp [coreOf, setCore, h]

@[simp] theorem Core.bank_setBank_same (c : Core) (l : Nat) (b : Bank) : (c.setBank l b).bank l = b := by
  simp [Core.bank, Core.setBank]

@[simp] theorem Core.bank_setBank_other (c : Core) {l m : Nat} (b : Bank) (h : m ≠ l) :
    (c.setBank l b).bank m = c.bank m := by simp [Core.bank, Core.setBank, h]

@[simp] theorem Core.cur_withCur (c : Core) (f : Bank → Bank) : (c.withCur f).cur = f c.cur := by
  simp [Core.withCur, Core.cur, Core.bank, Core.setBank]

@[simp] theorem bankOf_onBank (s : State) (k : Nat) (f : Bank → Bank) : bankOf (onBank s k f) k = f (bankOf s k) := by
  simp [bankOf, onBank]

/-! Operand stacks. -/

theorem Bank.stack_length (b : Bank) : b.stack.length = b.osp := by simp [Bank.stack]

theorem Bank.stack_push (b : Bank) (w : Word) : (b.push w).stack = w :: b.stack := by
  simp only [Bank.stack, Bank.push, List.range_succ_eq_map, List.map_cons, List.map_map]
  congr 1
  · simp [Bank.peek]
  · apply List.map_congr_left
    intro i hi
    have : i < b.osp := by simpa using hi
    simp only [Function.comp, Bank.peek, Nat.succ_eq_add_one]
    rw [show b.osp + 1 - 1 - (i + 1) = b.osp - 1 - i by omega, tget_tset_other]
    omega

theorem Bank.stack_drop (b : Bank) (n : Nat) : (b.drop n).stack = b.stack.drop n := by
  apply List.ext_getElem
  · simp [Bank.stack, Bank.drop]
  · intro i h1 h2
    simp only [Bank.stack, Bank.drop, List.length_map, List.length_range] at h1
    simp only [Bank.stack, Bank.drop, List.getElem_map, List.getElem_range, List.getElem_drop, Bank.peek]
    congr 1; omega

theorem Bank.stack_pushL (ws : List Word) (b : Bank) : (b.pushL ws).stack = ws.reverse ++ b.stack := by
  induction ws generalizing b with
  | nil => rfl
  | cons w r ih => simp only [Bank.pushL, List.foldl_cons] at *; rw [ih, Bank.stack_push]; simp

/-- The operands after an instruction that pops `n` and pushes words, the first deepest. -/
theorem Bank.stack_pops (b : Bank) (n : Nat) (ws : List Word) : (b.pops n ws).stack = ws.reverse ++ b.stack.drop n := by
  rw [Bank.pops, Bank.stack_pushL, Bank.stack_drop]

/-- The entry i places below TOS. -/
theorem Bank.stack_peek (b : Bank) (i : Nat) (h : i < b.osp) : b.stack[i]? = some (b.peek i) := by
  simp [Bank.stack, h]

theorem Bank.pushL_same (ws : List Word) (b : Bank) :
    b.pushL ws = { b with ost := (b.pushL ws).ost, osp := (b.pushL ws).osp } := by
  induction ws generalizing b with
  | nil => rfl
  | cons w r ih =>
    simp only [Bank.pushL, List.foldl_cons] at *
    rw [ih]; simp [Bank.push]

/-- Popping and pushing change the operand stack alone. -/
theorem Bank.pops_same (b : Bank) (n : Nat) (ws : List Word) :
    b.pops n ws = { b with ost := (b.pops n ws).ost, osp := (b.pops n ws).osp } := by
  have h := Bank.pushL_same ws (b.drop n)
  simp only [Bank.pops] at *
  rw [h]; simp [Bank.drop]

/-- A field of a bank apart from its operand stack. -/
theorem Bank.pops_ld (b : Bank) (n : Nat) (ws : List Word) : (b.pops n ws).ld = b.ld := by rw [b.pops_same n ws]
theorem Bank.pops_lend (b : Bank) (n : Nat) (ws : List Word) : (b.pops n ws).lend = b.lend := by rw [b.pops_same n ws]

/-! An instruction that nothing comes before. -/

/-- What `coreReady` says, item by item. -/
theorem coreReady_iff (s : State) (k : Nat) : coreReady s k = true ↔
    coreLive s k = true ∧ (coreOf s k).wait = .none ∧ (coreOf s k).asyncs = [] ∧
    s.sig.asyncs.any (fun x => x.1 == k) = false ∧ s.dbg.stops.contains k = false ∧ s.dbg.wps.contains k = false ∧
    bpHit s k = false ∧ (coreOf s k).dbgStep = false ∧ pcSlot (coreOf s k).pc ≠ 3 ∧ (coreOf s k).grem = 0 ∧
    (coreOf s k).gpc = none ∧ (coreOf s k).unbegun = true ∧ (coreOf s k).got = none ∧ (coreOf s k).atLend = false ∧
    (coreOf s k).lands = [] ∧ (coreOf s k).cur.resv = [] ∧ (coreOf s k).entry = false ∧
    (coreOf s k).kept.any (fun x => x.lvl == (coreOf s k).lvl && x.pc == (coreOf s k).pc) = false := by
  simp only [coreReady, coreFree, Bool.and_eq_true, Bool.not_eq_true', beq_iff_eq, bne_iff_ne, ne_eq, List.isEmpty_iff,
    Option.isNone_iff_eq_none, and_assoc]
  constructor
  · intro ⟨h1, h2, h3, h4, h5, h6, h7, h8, h9, h10, h11, h13, h14, h15, h16, h17, h18, h12⟩
    exact ⟨h1, h2, h3, h4, h5, h6, h7, h8, h9, h10, h11, h12, h13, h14, h15, h16, h17, h18⟩
  · intro ⟨h1, h2, h3, h4, h5, h6, h7, h8, h9, h10, h11, h12, h13, h14, h15, h16, h17, h18⟩
    exact ⟨h1, h2, h3, h4, h5, h6, h7, h8, h9, h10, h11, h13, h14, h15, h16, h17, h18, h12⟩

theorem takeAsyncs_none (s : State) (k : Nat) (h : s.sig.asyncs.any (fun x => x.1 == k) = false) : takeAsyncs s k = s := by
  have : s.sig.asyncs.filter (fun x => x.1 == k) = [] := by
    rw [List.filter_eq_nil_iff]; intro x hx e
    rw [List.any_eq_false] at h; exact h x hx e
  simp [takeAsyncs, this]

/-- A word that is at hand is so for the first instruction of a pair and for the second alike. -/
theorem fetchWord_atHand (s : State) (k w : Nat) (p q : Bool) (h : (fetchWord s k w p).1 = none) :
    fetchWord s k w q = fetchWord s k w p := by
  have hw : ∀ u x pa id n a, (fetchWait u k x pa id n a p).1 ≠ none := by intros; simp [fetchWait]
  have hk : ∀ u x pa d, (fetchAsk u k x pa d p).1 ≠ none := by intros; exact hw _ _ _ _ _ _
  have hc : ∀ tr, (fetchCached s k w tr p).1 = none → fetchCached s k w tr q = fetchCached s k w tr p := by
    intro tr h; unfold fetchCached at h ⊢; split at h <;> simp_all
  unfold fetchWord at h ⊢
  dsimp only at h ⊢
  split at h
  · simp_all
  split at h
  · simp_all
  split at h
  · rename_i h1 h2 h3
    rw [if_neg h1, if_neg h2, if_pos h3, if_neg h1, if_neg h2, if_pos h3]
    cases hr : translate s k w 2 with
    | error e => simp
    | ok tr =>
      simp only [hr] at h ⊢
      by_cases h4 : (tr.cached && iServes s k) = true
      · rw [if_pos h4] at h
        rw [if_pos h4, if_pos h4]
        exact hc tr h
      · rw [if_neg h4] at h
        exact absurd h (hk _ _ _ _)
  · rename_i h1 h2 h3
    rw [if_neg h1, if_neg h2, if_neg h3, if_neg h1, if_neg h2, if_neg h3]
    split at h
    · exact absurd h (hk _ _ _ _)
    · rename_i h4; rw [if_neg h4, if_neg h4]

/-- The parcels at a core's PC that are at hand are so for the second instruction of a pair. -/
theorem fetchIns_atHand (s : State) (k n : Nat) (q : Bool) (h : atHand s k n = true) :
    fetchIns s k n q = (none, fetched s k n) := by
  have e : fetchIns s k n q = fetchIns s k n false := by
    simp only [atHand, Option.isNone_iff_eq_none] at h
    unfold fetchIns at h ⊢
    dsimp only at h ⊢
    generalize (n == 2 && pcSlot (coreOf s k).pc == 2) = b at h ⊢
    generalize keepWords s k _ = u at h ⊢
    by_cases h1 : (fetchWord u k (pcWord (coreOf s k).pc) false).1 = none
    · rw [fetchWord_atHand _ _ _ _ q h1]
      simp only [h1, Option.isSome_none, Bool.false_eq_true, ↓reduceIte] at h ⊢
      split
      · rename_i h2; rw [if_pos h2] at h; exact fetchWord_atHand _ _ _ _ q h
      · rfl
    · rw [if_pos (Option.isSome_iff_ne_none.2 h1)] at h
      exact absurd h h1
  rw [e, fetched, Prod.ext_iff]
  simpa [atHand] using h

/-- The CORE cycle in which instruction i issues on core k, once its parcels are at hand. -/
def issueCycle (s : State) (k : Nat) (i : Ins) : Nat :=
  let d := coreOf (fetched s k i.parcels.length) k
  if pairsNow (coreOf s k) i then (d.prev.map (·.cyc)).getD d.cyc else d.cyc

/-- It is the cycle that the core has reached, or that of the instruction before it. -/
theorem issueCycle_cases (s : State) (k : Nat) (i : Ins) :
    issueCycle s k i = (coreOf (fetched s k i.parcels.length) k).cyc ∨
    ∃ p, (coreOf (fetched s k i.parcels.length) k).prev = some p ∧ issueCycle s k i = p.cyc := by
  simp only [issueCycle]
  split
  · cases h : (coreOf (fetched s k i.parcels.length) k).prev with
    | none => exact .inl rfl
    | some p => exact .inr ⟨p, rfl, rfl⟩
  · exact .inl rfl

/-- The command of an instruction that nothing comes before and whose parcels are at hand runs it on the state after the
fetch. -/
theorem runIns_issuable (s : State) (k : Nat) (i : Ins) (h : issuable s k i.parcels.length = true) :
    runIns k i s = .next (checkAndRun k (issueCycle s k i) (pairsNow (coreOf s k) i) i (fetched s k i.parcels.length)) := by
  simp only [issuable, Bool.and_eq_true] at h
  obtain ⟨⟨hr, hf⟩, -⟩ := h
  obtain ⟨h1, h2, h3, h4, h5, h6, h7, h8, h9, h10, h11, h12, h13, h14, h15, h16, h17, h18⟩ := (coreReady_iff s k).1 hr
  have e := fetchIns_atHand s k i.parcels.length (pairsNow (coreOf s k) i) hf
  have ha : asyncDue s k = false := by simp [asyncDue, h3]
  have hw : wpSeen s k = false := h6
  have hp : passOpen s k = s := by simp [passOpen, h2]
  have ho : entryOver s k = s := by simp [entryOver, h17]
  simp only [runIns, ok, atBoundary, hp, h1, h2, takeAsyncs_none s k h4, ha, h5, hw, h7, h9, h17]
  simp [issue, issueCycle, h8, h12, e, ho]

/-- A core that is ready still is, as the debugger sees it, once its core record and the skip list have changed in ways
that do not matter. -/
theorem settle_ready (x : State) (k : Nat) (hl : coreLive (onDbg x (fun d => { d with skip := d.skip.erase k })) k = true)
    (hw : x.dbg.wps.contains k = false) (hs : (coreOf x k).dbgStep = false) :
    settle x k = onDbg x (fun d => { d with skip := d.skip.erase k }) := by
  have h1 : wpSeen (onDbg x (fun d => { d with skip := d.skip.erase k })) k = false := hw
  have h2 : (coreOf (onDbg x (fun d => { d with skip := d.skip.erase k })) k).dbgStep = false := hs
  simp only [settle, hl, h1, h2]; simp

theorem coreLive_setCore (s : State) (k : Nat) (c : Core) (h : coreLive s k = true) (e1 : c.run = (coreOf s k).run)
    (e2 : c.locked = (coreOf s k).locked) (e3 : c.stopped = (coreOf s k).stopped) : coreLive (setCore s k c) k = true := by
  simp only [coreLive, coreOf_setCore_same, e1, e2, e3] at *
  exact h

theorem landUpTo_nil (c : Core) (now : Nat) (h : c.lands = []) : c.landUpTo now = c := by
  obtain ⟨⟩ := c; simp only at h; subst h; rfl

/-- What two changes leave alone, both together leave alone. -/
theorem SameBut.trans {l : List Part} {s t u : State} (h : SameBut l s t) (g : SameBut l t u) : SameBut l s u := by
  intro p hp
  have a := h p hp; have b := g p hp
  cases p
  case regs => exact ⟨b.1.trans a.1, b.2.trans a.2⟩
  all_goals exact Eq.trans b a

/-- A longer list leaves fewer parts the same. -/
theorem SameBut.mono {l m : List Part} {s t : State} (h : SameBut l s t) (hl : ∀ p ∈ l, p ∈ m) : SameBut m s t :=
  fun p hp => h p (fun hq => hp (hl p hq))

/-- Writing a core's record changes the cores alone. -/
theorem setCore_sameBut (s : State) (k : Nat) (c : Core) : SameBut [.cores] s (setCore s k c) := by
  intro p hp
  cases p
  case cores => exact absurd (by decide) hp
  case regs => exact ⟨rfl, rfl⟩
  all_goals rfl

/-- A change of the debug unit's state changes nothing else. -/
theorem onDbg_sameBut (s : State) (f : Dbg → Dbg) : SameBut [.dbg] s (onDbg s f) := by
  intro p hp
  cases p
  case dbg => exact absurd (by decide) hp
  case regs => exact ⟨rfl, rfl⟩
  all_goals rfl

/-- The record of a core that was ready, after an instruction of `len` parcels that completes. -/
theorem core_completed (c : Core) (len e : Nat) (p : Option Prev) (h2 : c.wait = .none) (h10 : c.grem = 0)
    (h11 : c.gpc = none) (h12 : c.unbegun = true) (h13 : c.got = none) (hat : c.atLend = false) :
    { (c.advance len).settled with cyc := max c.cyc e, prev := p, wait := .none } =
      { c with pc := pcAdd c.pc len, cyc := max c.cyc e, prev := p } := by
  simp only [Core.unbegun, Bool.and_eq_true, beq_iff_eq, Option.isNone_iff_eq_none, List.isEmpty_iff] at h12
  obtain ⟨⟨g1, g2⟩, g3⟩ := h12
  simp only [Core.advance, hat]
  simp [Core.settled, h2, h10, h11, g1, g2, g3, h13]

/-- An instruction that completes in a state whose core is between instructions. -/
theorem finish_done_eq (u x : State) (k now : Nat) (paired : Bool) (i : Ins) (cost : Nat)
    (hb : (coreOf x k).between = true) (hl : coreLive x k = true) (hw : x.dbg.wps.contains k = false) :
    ∃ e p, finish u k now paired i (.done x cost) =
      onDbg (setCore x k { coreOf x k with pc := pcAdd (coreOf x k).pc i.parcels.length, cyc := e, prev := p })
        (fun d => { d with skip := d.skip.erase k }) := by
  simp only [Core.between, Bool.and_eq_true, beq_iff_eq, Option.isNone_iff_eq_none, Bool.not_eq_true', and_assoc] at hb
  obtain ⟨h2, h10, h11, h12, h13, hat, h8⟩ := hb
  refine ⟨max (coreOf x k).cyc (now + cost), some (prevOf (coreOf u k) i now cost paired false), ?_⟩
  have hwb : (coreOf x k).wrapBad = false := by simp [Core.wrapBad, hat]
  have hm : complete u x k i.parcels.length (now + cost) (some (prevOf (coreOf u k) i now cost paired false)) =
      setCore x k { coreOf x k with pc := pcAdd (coreOf x k).pc i.parcels.length, cyc := max (coreOf x k).cyc (now + cost), prev := some (prevOf (coreOf u k) i now cost paired false) } := by
    rw [← core_completed (coreOf x k) i.parcels.length (now + cost) _ h2 h10 h11 h12 h13 hat]
    simp only [complete, hwb]; rfl
  simp only [finish]
  rw [hm]
  refine settle_ready _ k ?_ hw (by rw [coreOf_setCore_same]; exact h8)
  have hl' := coreLive_setCore x k { coreOf x k with pc := pcAdd (coreOf x k).pc i.parcels.length, cyc := max (coreOf x k).cyc (now + cost), prev := some (prevOf (coreOf u k) i now cost paired false) } hl rfl rfl rfl
  exact hl'

/-- What an instruction is run on: the state after its fetch, with the core's record written back. -/
def issued (s : State) (k n : Nat) : State := setCore (fetched s k n) k (coreOf (fetched s k n) k)

@[simp] theorem coreOf_issued (s : State) (k n j : Nat) : coreOf (issued s k n) j = coreOf (fetched s k n) j := by
  by_cases h : j = k
  · subst h; simp [issued]
  · simp [issued, h]

@[simp] theorem bankOf_issued (s : State) (k n j : Nat) : bankOf (issued s k n) j = bankOf (fetched s k n) j := by
  simp [bankOf]

theorem issued_sameBut (s : State) (k n : Nat) : SameBut [.cores] (fetched s k n) (issued s k n) := setCore_sameBut _ _ _

/-- The command of an instruction that may issue and passes its checks (R187, R188, R165) runs it. -/
theorem runIns_body (s : State) (k : Nat) (i : Ins) (ws : List Word) (h : Issues s k i.parcels.length ws)
    (hi : i.illegal = false) (hg : ∀ p sn, i.guard = some (p, sn) → guardPass (bankOf (fetched s k i.parcels.length) k) p sn = true)
    (hc : i.c ≤ ws.length) (hp : ws.length - i.c + i.p ≤ 32) :
    runIns k i s = .next (finish (fetched s k i.parcels.length) k (issueCycle s k i) (pairsNow (coreOf s k) i) i
      (i.body (issued s k i.parcels.length) k (issueCycle s k i))) := by
  obtain ⟨h1, h2, h3⟩ := h
  have e := runIns_issuable s k i h1
  rw [e]
  simp only [issuable, Bool.and_eq_true] at h1
  obtain ⟨g1, g2, g3, g4, g5, g6, g7, g8, g9, g10, g11, g12, g13, g14, g15, g16, g17, g18⟩ := (coreReady_iff _ k).1 h1.2
  have hgp : guardsPass (coreOf (fetched s k i.parcels.length) k) i.guard = true := by
    simp only [guardsPass, g10]
    cases hgd : i.guard with
    | none => rfl
    | some q => simpa [bankOf] using hg q.1 q.2 hgd
  have hl : (coreOf (fetched s k i.parcels.length) k).cur.osp = ws.length := by
    rw [← h2]; exact (Bank.stack_length _).symm
  have hs : stackFault (coreOf (fetched s k i.parcels.length) k).cur i = none := by
    simp only [stackFault, hl]; rw [if_neg (by omega), if_neg (by omega)]
  have hw : (coreOf (fetched s k i.parcels.length) k).cur.waits i.c = false := by simp [Bank.waits, g16]
  simp [checkAndRun, hi, hgp, hs, hw, landUpTo_nil _ _ g15, issued]

/-- What makes a core between instructions once its bank changed in ways that leave its loops alone. -/
theorem between_withCur (s : State) (k : Nat) (f : Bank → Bank) (h : coreReady s k = true)
    (hld : (f (bankOf s k)).ld = (bankOf s k).ld) (hle : (f (bankOf s k)).lend = (bankOf s k).lend) :
    ((coreOf s k).withCur f).between = true := by
  obtain ⟨g1, g2, g3, g4, g5, g6, g7, g8, g9, g10, g11, g12, g13, g14, g15, g16, g17, g18⟩ := (coreReady_iff _ k).1 h
  have hat : ((coreOf s k).withCur f).atLend = false := by
    simp only [Core.atLend, Core.cur_withCur, Bank.le] at g14 ⊢
    rw [show f (coreOf s k).cur = f (bankOf s k) from rfl, hld, hle]; exact g14
  simp only [Core.between, hat]
  simp only [Core.withCur, Core.setBank]
  simp only [Core.unbegun] at g12 ⊢
  simp [g2, g8, g10, g11, g12, g13]

theorem Core.between_of_ready (s : State) (k : Nat) (h : coreReady s k = true) : (coreOf s k).between = true := by
  obtain ⟨g1, g2, g3, g4, g5, g6, g7, g8, g9, g10, g11, g12, g13, g14, g15, g16, g17, g18⟩ := (coreReady_iff _ k).1 h
  simp [Core.between, g2, g8, g10, g11, g12, g13, g14]

theorem Issues.ready {s : State} {k n : Nat} {ws : List Word} (h : Issues s k n ws) : coreReady (fetched s k n) k = true := by
  have := h.1; simp only [issuable, Bool.and_eq_true] at this; exact this.2

theorem Issues.osp {s : State} {k n : Nat} {ws : List Word} (h : Issues s k n ws) :
    (bankOf (fetched s k n) k).osp = ws.length := by rw [← h.2.1]; exact (Bank.stack_length _).symm

/-- An entry of the operand stack, by its place. -/
theorem Issues.peek {s : State} {k n : Nat} {ws : List Word} (h : Issues s k n ws) (i : Nat) (w : Word)
    (hw : ws[i]? = some w) : (bankOf (fetched s k n) k).peek i = w := by
  have hi : i < ws.length := by
    rcases Nat.lt_or_ge i ws.length with h' | h'
    · exact h'
    · rw [List.getElem?_eq_none h'] at hw; simp at hw
  have := Bank.stack_peek (bankOf (fetched s k n) k) i (by rw [h.osp]; exact hi)
  rw [show (bankOf (fetched s k n) k).stack = ws from h.2.1, hw] at this
  exact (Option.some.inj this).symm

/-- An instruction whose body completes in a state x that is as it was but for the parts of `l`, with core k as `c1` and
between instructions. -/
theorem part_result (l : List Part) (s : State) (k : Nat) (i : Ins) (c : Instr) (ws : List Word) (x : State)
    (h : Issues s k i.parcels.length ws)
    (hi : i.illegal = false) (hg : ∀ p sn, i.guard = some (p, sn) → guardPass (bankOf (fetched s k i.parcels.length) k) p sn = true)
    (hc : i.c ≤ ws.length) (hp : ws.length - i.c + i.p ≤ 32)
    (he : exec c s = runIns k i s)
    (hbody : ∀ now, ∃ cost, i.body (issued s k i.parcels.length) k now = .done x cost)
    (hf : (coreOf x k).between = true) (hl : coreLive x k = true) (hpc : (coreOf x k).pc = (coreOf (fetched s k i.parcels.length) k).pc)
    (ho : ∀ j, j ≠ k → coreOf x j = coreOf (fetched s k i.parcels.length) j)
    (hx : SameBut (.cores :: .dbg :: l) (fetched s k i.parcels.length) x)
    (hd : x.dbg = (fetched s k i.parcels.length).dbg) :
    Runs c s (fun t => CoreIs l (fetched s k i.parcels.length) t k
        (pcAdd (coreOf (fetched s k i.parcels.length) k).pc i.parcels.length) (coreOf x k) ∧
      ∃ d e, t = onDbg (setCore x k d) e) := by
  have e := runIns_body s k i ws h hi hg hc hp
  obtain ⟨cost, hb⟩ := hbody (issueCycle s k i)
  rw [hb] at e
  obtain ⟨-, -, -, -, -, g6, -⟩ := (coreReady_iff _ k).1 h.ready
  obtain ⟨e', p, ht⟩ := finish_done_eq (fetched s k i.parcels.length) x k (issueCycle s k i) (pairsNow (coreOf s k) i) i cost hf hl (by rw [hd]; exact g6)
  rw [Runs, he]
  clear hb hbody h hg hi
  generalize issueCycle s k i = now at *
  generalize pairsNow (coreOf s k) i = paired at *
  generalize fetched s k i.parcels.length = u at *
  refine ⟨_, by rw [e, ht], ?_, _, _, rfl⟩
  generalize hdd : ({ coreOf x k with pc := pcAdd (coreOf x k).pc i.parcels.length, cyc := e', prev := p } : Core) = dd
  have k1 : coreOf (onDbg (setCore x k dd) (fun d => { d with skip := d.skip.erase k })) k = dd := coreOf_setCore_same _ _ _
  refine ⟨?_, ?_, ?_, ?_, ?_⟩
  · rw [k1, ← hdd, hpc]
  · intro m; rw [k1, ← hdd]; rfl
  · intro j hj
    have a : coreOf (setCore x k dd) j = coreOf u j := by rw [coreOf_setCore_other _ _ hj, ho j hj]
    exact a
  · have m : ∀ (l' : List Part), (∀ p ∈ l', p ∈ [Part.cores, Part.dbg]) → ∀ {x y : State}, SameBut l' x y → SameBut (.cores :: .dbg :: l) x y :=
      fun l' hl x y h => h.mono (fun q hq => by have := hl q hq; simp at this; rcases this with rfl | rfl <;> simp)
    exact (hx.trans (m _ (by simp) (setCore_sameBut x k dd))).trans (m _ (by simp) (onDbg_sameBut _ _))
  · have a : (onDbg (setCore x k dd) (fun d => { d with skip := d.skip.erase k })).dbg = { x.dbg with skip := x.dbg.skip.erase k } := rfl
    rw [a, hd]

/-- An instruction whose body completes with core k as `f` makes it, whatever its cost, where that leaves the core between
instructions. -/
theorem core_result (s : State) (k : Nat) (i : Ins) (c : Instr) (ws : List Word) (f : Core → Core) (h : Issues s k i.parcels.length ws)
    (hi : i.illegal = false) (hg : ∀ p sn, i.guard = some (p, sn) → guardPass (bankOf (fetched s k i.parcels.length) k) p sn = true)
    (hc : i.c ≤ ws.length) (hp : ws.length - i.c + i.p ≤ 32)
    (he : exec c s = runIns k i s)
    (hbody : ∀ now, ∃ cost, i.body (issued s k i.parcels.length) k now =
      .done (setCore (issued s k i.parcels.length) k (f (coreOf (fetched s k i.parcels.length) k))) cost)
    (hf : (f (coreOf (fetched s k i.parcels.length) k)).between = true)
    (h1 : (f (coreOf (fetched s k i.parcels.length) k)).run = (coreOf (fetched s k i.parcels.length) k).run)
    (h2 : (f (coreOf (fetched s k i.parcels.length) k)).locked = (coreOf (fetched s k i.parcels.length) k).locked)
    (h3 : (f (coreOf (fetched s k i.parcels.length) k)).stopped = (coreOf (fetched s k i.parcels.length) k).stopped)
    (h4 : (f (coreOf (fetched s k i.parcels.length) k)).pc = (coreOf (fetched s k i.parcels.length) k).pc) :
    CoreResult c s k i.parcels.length f := by
  obtain ⟨g1, -⟩ := (coreReady_iff _ k).1 h.ready
  have gl : coreLive (issued s k i.parcels.length) k = true := coreLive_setCore _ k _ g1 rfl rfl rfl
  have gs := issued_sameBut s k i.parcels.length
  have gc : ∀ j, coreOf (issued s k i.parcels.length) j = coreOf (fetched s k i.parcels.length) j := fun j => coreOf_issued _ _ _ _
  obtain ⟨t, ht, hs, -⟩ := part_result [] s k i c ws _ h hi hg hc hp he hbody
    (by rw [coreOf_setCore_same]; exact hf)
    (coreLive_setCore _ k _ gl (by rw [gc]; exact h1) (by rw [gc]; exact h2) (by rw [gc]; exact h3))
    (by rw [coreOf_setCore_same]; exact h4)
    (fun j hj => by rw [coreOf_setCore_other _ _ hj, gc])
    ((SameBut.mono (m := [.cores, .dbg]) gs (by simp)).trans (SameBut.mono (m := [.cores, .dbg]) (setCore_sameBut _ k _) (by simp)))
    rfl
  rw [coreOf_setCore_same] at hs
  exact ⟨t, ht, hs⟩

/-- The bank in use after an instruction that changed it by `f`. -/
theorem Steps.bankOf {u t : State} {k n : Nat} {f : Bank → Bank} (h : Steps u t k n ((coreOf u k).withCur f)) :
    Machine.bankOf t k = f (Machine.bankOf u k) := by
  have e : (coreOf t k).lvl = (coreOf u k).lvl := by rw [h.1]; rfl
  rw [Machine.bankOf, Core.cur, h.2.1, e]
  exact Core.bank_setBank_same _ _ _

/-- An instruction that changes the bank in use alone, and none of its loops. -/
theorem bank_result (s : State) (k : Nat) (i : Ins) (c : Instr) (ws : List Word) (f : Bank → Bank) (h : Issues s k i.parcels.length ws)
    (hi : i.illegal = false) (hg : ∀ p sn, i.guard = some (p, sn) → guardPass (bankOf (fetched s k i.parcels.length) k) p sn = true)
    (hc : i.c ≤ ws.length) (hp : ws.length - i.c + i.p ≤ 32)
    (he : exec c s = runIns k i s)
    (hbody : ∀ now, ∃ cost, i.body (issued s k i.parcels.length) k now = .done (onBank (issued s k i.parcels.length) k f) cost)
    (hld : (f (bankOf (fetched s k i.parcels.length) k)).ld = (bankOf (fetched s k i.parcels.length) k).ld)
    (hle : (f (bankOf (fetched s k i.parcels.length) k)).lend = (bankOf (fetched s k i.parcels.length) k).lend) :
    CoreResult c s k i.parcels.length (fun c => c.withCur f) := by
  refine core_result s k i c ws (fun c => c.withCur f) h hi hg hc hp he ?_ (between_withCur _ k f h.ready hld hle) rfl rfl rfl rfl
  intro now
  obtain ⟨cost, e⟩ := hbody now
  exact ⟨cost, by rw [e, onBank, coreOf_issued]⟩

/-- An instruction that pops `n` operands and pushes words, the first deepest. -/
theorem stack_result (s : State) (k : Nat) (i : Ins) (c : Instr) (ws : List Word) (n : Nat) (f : Bank → List Word)
    (h : Issues s k i.parcels.length ws)
    (hi : i.illegal = false) (hg : ∀ p sn, i.guard = some (p, sn) → guardPass (bankOf (fetched s k i.parcels.length) k) p sn = true)
    (hc : i.c ≤ ws.length) (hp : ws.length - i.c + i.p ≤ 32)
    (he : exec c s = runIns k i s)
    (hbody : ∀ x now, ∃ cost, i.body x k now = .done (onBank x k (fun b => b.pops n (f b))) cost) :
    StackResult c s k i.parcels.length ((f (bankOf (fetched s k i.parcels.length) k)).reverse ++ ws.drop n) := by
  obtain ⟨t, ht, hs⟩ := bank_result s k i c ws (fun b => b.pops n (f b)) h hi hg hc hp he (fun now => hbody _ now)
    (Bank.pops_ld _ _ _) (Bank.pops_lend _ _ _)
  refine ⟨t, ht, ?_, (((bankOf (fetched s k i.parcels.length) k).pops n (f (bankOf (fetched s k i.parcels.length) k))).ost),
    (((bankOf (fetched s k i.parcels.length) k).pops n (f (bankOf (fetched s k i.parcels.length) k))).osp), ?_⟩
  · rw [operands, hs.bankOf, Bank.stack_pops]
    rw [show (bankOf (fetched s k i.parcels.length) k).stack = ws from h.2.1]
  · have e : (coreOf (fetched s k i.parcels.length) k).withCur (fun b => b.pops n (f b)) =
      (coreOf (fetched s k i.parcels.length) k).withCur (fun b => { b with
        ost := ((bankOf (fetched s k i.parcels.length) k).pops n (f (bankOf (fetched s k i.parcels.length) k))).ost
        osp := ((bankOf (fetched s k i.parcels.length) k).pops n (f (bankOf (fetched s k i.parcels.length) k))).osp }) := by
      simp only [Core.withCur]
      congr 1
      exact Bank.pops_same _ _ _
    rw [← e]; exact hs

end Sys2Proof.Machine
end

