-- ==== Sys2Proof/Laws/Memory.lean ====
section
/-! SUPPORT. The block's memories: what a read gives after a write, and that every memory operation keeps the canonical
form of memory and of the token tags. -/

namespace Sys2Proof.Machine

@[simp] theorem memRd_memWr_same (s : State) (a : Nat) (v : Word) : memRd (memWr s a v) a = v := by simp [memRd, memWr]

theorem memRd_memWr (s : State) (a b : Nat) (v : Word) : memRd (memWr s a v) b = if b = a then v else memRd s b := by
  simp [memRd, memWr, tget_tset]

@[simp] theorem tagRd_memWr (s : State) (a b : Nat) (v : Word) : tagRd (memWr s a v) b = tagRd s b := rfl

@[simp] theorem memRd_tagWr (s : State) (a b : Nat) (t : Bool) : memRd (tagWr s a t) b = memRd s b := rfl

theorem tagRd_tagWr (s : State) (a b : Nat) (t : Bool) : tagRd (tagWr s a t) b = if b = a then t else tagRd s b := by
  simp [tagRd, tagWr, tget_tset]

/-- A list of words lies in memory at rising addresses after it was stored; other words keep their values. -/
theorem memRd_memWrList (l : List Word) (s : State) (a b : Nat) :
    memRd (memWrList s a l) b = if b < a then memRd s b else (l[b - a]?).getD (memRd s b) := by
  induction l generalizing s a with
  | nil => simp [memWrList]
  | cons w r ih =>
    rw [memWrList, ih]
    by_cases h : b < a
    · rw [if_pos (by omega), if_pos h, memRd_memWr, if_neg (by omega)]
    · by_cases e : b = a
      · subst e; simp
      · rw [if_neg (by omega), if_neg h, memRd_memWr, if_neg e]
        obtain ⟨n, rfl⟩ : ∃ n, b = a + 1 + n := ⟨b - (a + 1), by omega⟩
        rw [show a + 1 + n - (a + 1) = n by omega, show a + 1 + n - a = n + 1 by omega]
        simp

theorem Memory.wf_def (s : State) :
    Memory.wf s = true ↔ twf (fun _ => (0 : Word)) s.mem = true ∧ twf (fun _ => false) s.tags = true := by
  simp [Memory.wf]

/-- What leaves memory and tags alone keeps their form. -/
theorem Memory.wf_of_same {s t : State} (hm : t.mem = s.mem) (ht : t.tags = s.tags) : Memory.wf t = Memory.wf s := by
  simp [Memory.wf, hm, ht]

theorem Memory.wf_memWr {s : State} (a : Nat) (v : Word) (w : Memory.wf s = true) : Memory.wf (memWr s a v) = true := by
  rw [Memory.wf_def] at *; exact ⟨twf_tset a v w.1, w.2⟩

theorem Memory.wf_tagWr {s : State} (a : Nat) (b : Bool) (w : Memory.wf s = true) : Memory.wf (tagWr s a b) = true := by
  rw [Memory.wf_def] at *; exact ⟨w.1, twf_tset a b w.2⟩

theorem Memory.wf_memWrList (l : List Word) {s : State} (a : Nat) (w : Memory.wf s = true) :
    Memory.wf (memWrList s a l) = true := by
  induction l generalizing s a with
  | nil => exact w
  | cons x r ih => exact ih (a + 1) (Memory.wf_memWr a x w)

theorem Memory.wf_memClear {s : State} (lo hi : Nat) (w : Memory.wf s = true) : Memory.wf (memClear s lo hi) = true := by
  rw [Memory.wf_def] at *; exact ⟨twf_filter _ w.1, twf_filter _ w.2⟩

/-- Memory right after reset has its form: nothing is listed. -/
theorem Memory.wf_reset : Memory.wf State.reset = true := rfl

end Sys2Proof.Machine
end

