-- ==== Sys2Proof/Laws/Regs.lean ====
section
/-! SUPPORT. Registers and their fields: what a read gives after a write. -/

namespace Sys2Proof.Machine

@[simp] theorem rd_wr_same (s : State) (a : Nat) (v : Word) : rd (wr s a v) a = v := by simp [rd, wr]

@[simp] theorem rd_wr_other (s : State) {a b : Nat} (v : Word) (h : b ≠ a) : rd (wr s a v) b = rd s b := by
  simp [rd, wr, h]

theorem rd_wr (s : State) (a b : Nat) (v : Word) : rd (wr s a v) b = if b = a then v else rd s b := by
  by_cases h : b = a
  · subst h; simp
  · simp [h]

/-- The field that was set. -/
theorem rf_wf_same (s : State) (a : Nat) (f : Fld) (v : Nat) (h : f.fits = true) :
    rf (wf s a f v) a f = v % f.span := by simp [rf, wf, Fld.get_put _ h]

/-- Another field of the register. -/
theorem rf_wf_apart (s : State) (a : Nat) (f g : Fld) (v : Nat) (hf : f.fits = true) (hg : g.fits = true)
    (h : f.hi < g.lo ∨ g.hi < f.lo) : rf (wf s a f v) a g = rf s a g := by
  simp [rf, wf, Fld.get_put_apart f g hf hg h]

/-- A field of another register. -/
theorem rf_wf_other (s : State) {a b : Nat} (f g : Fld) (v : Nat) (h : b ≠ a) : rf (wf s a f v) b g = rf s b g := by
  simp [rf, wf, h]

theorem rf_wr_other (s : State) {a b : Nat} (g : Fld) (v : Word) (h : b ≠ a) : rf (wr s a v) b g = rf s b g := by
  simp [rf, h]

@[simp] theorem rf_wr_same (s : State) (a : Nat) (g : Fld) (v : Word) : rf (wr s a v) a g = g.get v := by
  simp [rf]

/-- What the hardware has set in this PORT cycle is no part of a field's value. -/
@[simp] theorem rd_sets (s : State) (l : List HwSet) (a : Nat) : rd { s with sets := l } a = rd s a := rfl
@[simp] theorem rf_sets (s : State) (l : List HwSet) (a : Nat) (f : Fld) : rf { s with sets := l } a f = rf s a f := rfl

/-- A one-bit field that is set reads as its field does. -/
@[simp] theorem rf_wb (s : State) (a c : Nat) (f g : Fld) (b : Bool) : rf (wb s a f b) c g = rf (wf s a f (b2n b)) c g := rfl
@[simp] theorem rd_wb (s : State) (a c : Nat) (f : Fld) (b : Bool) : rd (wb s a f b) c = rd (wf s a f (b2n b)) c := rfl

theorem rb_wb_same (s : State) (a : Nat) (f : Fld) (b : Bool) (h : f.fits = true) : rb (wb s a f b) a f = b := by
  have hs : 1 < f.span := by
    simp only [Fld.fits, Bool.and_eq_true, decide_eq_true_eq] at h
    exact Nat.one_lt_two_pow (by omega)
  cases b <;> simp [rb, rf_wf_same _ _ _ _ h, b2n, Nat.mod_eq_of_lt hs]

theorem rb_wb_apart (s : State) (a : Nat) (f g : Fld) (b : Bool) (hf : f.fits = true) (hg : g.fits = true)
    (h : f.hi < g.lo ∨ g.hi < f.lo) : rb (wb s a f b) a g = rb s a g := by
  simp [rb, rf_wf_apart _ _ _ _ _ hf hg h]

theorem rb_wb_other (s : State) {a b : Nat} (f g : Fld) (v : Bool) (h : b ≠ a) : rb (wb s a f v) b g = rb s b g := by
  simp [rb, rf_wf_other _ _ _ _ h]

/-- Setting a field leaves every other register alone. -/
@[simp] theorem rd_wf_other (s : State) {a b : Nat} (f : Fld) (v : Nat) (h : b ≠ a) : rd (wf s a f v) b = rd s b := by
  simp [wf, h]

theorem rd_wb_other (s : State) {a b : Nat} (f : Fld) (v : Bool) (h : b ≠ a) : rd (wb s a f v) b = rd s b := by
  simp [h]

end Sys2Proof.Machine
end

