-- ==== Sys2Proof/WellFormed.lean ====
section
/-! DEFINITION. Which terms of Instr are commands that something outside the block can give: what the operands'
types do not say already. An instruction of a core with a field out of range is well formed: it raises ILLEGAL_OPCODE
(R187). -/

namespace Sys2Proof

/-- The words of a frame of the mirror link: a header word, up to 65,535 body words and a trailer (R432). -/
def mirrorFrameOk (ws : List Word) : Bool := 2 ≤ ws.length && ws.length ≤ 65537

/-- A transaction on the host slave port of `len` + 1 beats: a write brings as many words, a read none, and at most one
entry says what a beat meets (R495). -/
def hspOk (write : Bool) (len : Nat) (data : List (BitVec 64)) (up : List (Meet × Upset)) : Bool :=
  data.length == (if write then len + 1 else 0) && up.length ≤ len + 1

/-- The word steps of one command of a long instruction: no more than its longest save area has (R223). -/
def stepsOk (steps : Nat) : Bool := steps < 230

/-- An uplink slot on the rack link brings at most 64 words (R402). -/
def uplinkOk (ws : List Word) : Bool := ws.length ≤ 64

/-- The header that a rack-link ring returns: 4 words, or fewer of an aborted frame (R402, R410). -/
def headerOk (hdr : List Word) : Bool := hdr.length ≤ 4

/-- Lanes and units named once. -/
def onceOk (l : List (Fin 1024)) : Bool := l.Nodup

/-- The check on the operands of a command. -/
def Instr.wellFormed : Instr → Bool
  | .bmove _ _ _ _ _ steps => stepsOk steps
  | .savel _ _ _ _ steps => stepsOk steps
  | .saveu _ _ _ _ steps => stepsOk steps
  | .restl _ _ _ _ steps => stepsOk steps
  | .restu _ _ _ _ steps => stepsOk steps
  | .rlkCycleStart late => onceOk late
  | .uplinkSlot _ _ ws => uplinkOk ws
  | .frameReturn _ hdr _ _ => headerOk hdr
  | .heartbeat ws => mirrorFrameOk ws
  | .image ws => mirrorFrameOk ws
  | .commit ws => mirrorFrameOk ws
  | .ack ws => mirrorFrameOk ws
  | .report ws => mirrorFrameOk ws
  | .bulk ws => mirrorFrameOk ws
  | .bulkend ws => mirrorFrameOk ws
  | .rstart ws => mirrorFrameOk ws
  | .imgpage ws => mirrorFrameOk ws
  | .rsdone ws => mirrorFrameOk ws
  | .hspRequest write _ len data up => hspOk write len.val data up
  | _ => true

end Sys2Proof
end

