-- ==== Sys2Proof/Tests/Slice0.lean ====
section
/-! SUPPORT. Tests: the well-formedness checks refuse an ill-formed term each; commands do on small states what the
specification says; and, for every statement with hypotheses, states that meet the hypotheses of its clauses. -/

namespace Sys2Proof.Tests

open Sys2Proof.Machine

set_option maxRecDepth 100000
set_option Elab.async false

/-! Small states. -/

/-- Every domain is on and the clocks run. -/
def tOn : State :=
  { State.reset with running := true, pctl := { State.reset.pctl with porst := false }, regs := (List.range 56).map (fun d => (pctlPd d, pctlPdSTATE.put 0 2)) }

/-- A bank whose operand stack holds words, TOS first. -/
def tBank (ws : List Word) : Bank :=
  { Bank.zero with ost := (List.range ws.length).zip ws.reverse, osp := ws.length }

/-- Core k runs at level l at the start of its code, with an operand stack. -/
def tCore (k l : Nat) (ws : List Word) : Core :=
  let at_ := if k < 8 then 0x180000 + k * 0x8000 else 0x1000
  { Core.woken k with
    run := true, lvl := l, pc := pcMk at_ 0, fbuf := if k < 8 then [] else [at_], ct := [(l, Tok.mk4 at_ 0x8000 0xFF 0)], banks := [(l, tBank ws)] }

/-- The block with core k running at TL. -/
def tLive (k : Nat) (ws : List Word) : State := { tOn with cores := [(k, tCore k 0 ws)] }

/-- Core k alone, with something of its own changed. -/
def tWith (k : Nat) (ws : List Word) (f : Core → Core) : State := { tOn with cores := [(k, f (tCore k 0 ws))] }

/-- Core k alone, with something of its bank changed. -/
def tB (k : Nat) (ws : List Word) (f : Bank → Bank) : State := tWith k ws (fun c => c.withCur f)

/-- Core k alone, with token registers. -/
def tT (k : Nat) (ws : List Word) (l : List (Nat × Tok)) : State := tB k ws (fun b => { b with toks := l })

/-- Fields of registers set. -/
def tF (s : State) (l : List (Nat × Fld × Nat)) : State := l.foldl (fun t x => wf t x.1 x.2.1 x.2.2) s

/-- The converter port with something changed. -/
def tCvp (s : State) (f : Cvp → Cvp) : State := { s with cvp := f s.cvp }

/-- A core's own access, through a token of an otype. -/
def tQ (o : Nat) : Req := ⟨0, BitVec.ofNat 8 o⟩

/-- A result of a check, decided. -/
theorem okOf {α β : Type} [DecidableEq β] {x : Except α β} {v : β}
    (h : (match x with
      | .ok w => decide (w = v)
      | .error _ => false) = true) : x = .ok v := by
  cases x <;> simp_all

/-- A check that fails, decided. -/
theorem errOf {α β : Type} [DecidableEq α] {x : Except α β} {e : α}
    (h : (match x with
      | .ok _ => false
      | .error f => decide (f = e)) = true) : x = .error e := by
  cases x <;> simp_all

/-- Every stripe is on and no bank of it is retired, and no upset stands. -/
def Plain (s : State) : Prop := s.msys.upsets = [] ∧ ∀ st < 16, pdOn s (28 + st) = true ∧ ∀ b < 4, retired s st b = false

theorem Plain.answers {s : State} (h : Plain s) {a : Nat} (ha : a < 0x100000) : arrayCode s a = 0 := by
  have hst := h.2 (a / 0x10000) (by omega)
  simp [arrayCode, targetOf, ha, hst.1, hst.2 (a % 4) (by omega)]

theorem Plain.upsetAt {s : State} (h : Plain s) (i : Nat) : Machine.upsetAt s i = .none := by simp [Machine.upsetAt, h.1, tget]

/-- Where no upset stands, an engine's RAM holds none. -/
theorem ramWhole_of {s : State} (h : s.msys.upsets = []) (e : Nat) : RamWhole s e := by
  intro off; simp [upsetAt, h, tget]

theorem wordsWhole_of {s : State} {a n : Nat} (h : Plain s) (ha : a + n ≤ 0x100000) : WordsWhole s a n := by
  intro j hj; exact ⟨by omega, h.answers (by omega), h.upsetAt _, h.upsetAt _⟩

theorem pneWhole_of {s : State} (h : Plain s) (hr : s.pne.region.1 + s.pne.region.2 ≤ 16) : PneWhole s := by
  intro a _ h2 h3
  have ha : a + 1 < 0x100000 := by unfold pneBase pneStripes at h2; omega
  simp [entWhole, h.upsetAt, h.answers ha, h.answers (a := a) (by omega), h3]; omega

/-! Well-formed terms. -/

theorem test_stepsOk : (Instr.bmove 0 0 false 1 2 229).wellFormed = true ∧ (Instr.bmove 0 0 false 1 2 230).wellFormed = false ∧
    (Instr.savel 0 0 false 1 230).wellFormed = false ∧ (Instr.saveu 0 0 false 1 230).wellFormed = false ∧
    (Instr.restl 0 0 false 1 230).wellFormed = false ∧ (Instr.restu 0 0 false 1 230).wellFormed = false := by decide +kernel

theorem test_uplinkOk : (Instr.uplinkSlot 0 0 (List.replicate 64 0)).wellFormed = true ∧
    (Instr.uplinkSlot 0 0 (List.replicate 65 0)).wellFormed = false := by decide +kernel

theorem test_headerOk : (Instr.frameReturn 0 [1, 2, 3, 4] true false).wellFormed = true ∧
    (Instr.frameReturn 0 [1, 2, 3, 4, 5] true false).wellFormed = false := by decide +kernel

theorem test_onceOk : (Instr.rlkCycleStart [3, 4]).wellFormed = true ∧ (Instr.rlkCycleStart [3, 3]).wellFormed = false := by
  decide +kernel

theorem test_mirrorFrameOk : (Instr.heartbeat [1, 2]).wellFormed = true ∧ (Instr.heartbeat [1]).wellFormed = false ∧
    (Instr.rsdone []).wellFormed = false := by decide +kernel

theorem test_hspOk : (Instr.hspRequest true 0 1 [5, 6] []).wellFormed = true ∧ (Instr.hspRequest true 0 1 [5] []).wellFormed = false ∧
    (Instr.hspRequest false 0 1 [5] []).wellFormed = false := by decide +kernel

/-- No row of the opcode table has bits. -/
theorem test_decodeTableWord : decodeTableWord 32 5 = none := rfl


namespace W01


/-- States that meet the hypotheses of the clauses of StepRunsFront. -/
theorem test_StepRunsFront :
    (let __src := tOn;     { pending := [Instr.nop 3], port := __src.port, running := __src.running, par := __src.par, lvl := __src.lvl, regs := __src.regs, mem := __src.mem, tags := __src.tags, free := __src.free, sets := __src.sets, resp := __src.resp, sig := __src.sig, halted := __src.halted, drvWant := __src.drvWant, ssp := __src.ssp, cores := __src.cores, svc := __src.svc, ports := __src.ports, msys := __src.msys, cvp := __src.cvp, ae := __src.ae, dm := __src.dm, sem := __src.sem, intc := __src.intc, pne := __src.pne, rlk := __src.rlk, wac := __src.wac, jne := __src.jne, mlk := __src.mlk, cpt := __src.cpt, pctl := __src.pctl, dbg := __src.dbg : State }).pending =   [Instr.nop 3] := by
  decide +kernel

/-- States that meet the hypotheses of the clauses of ArithmeticAndBits. -/
theorem test_ArithmeticAndBits :
    Issues (tLive 7 [50, -1, 7]) (↑7 : Nat) 1 [50, -1, 7] ∧
    (↑0 : Nat) + (↑47 : Nat) < 48 ∧
    IssuesLong (tLive 7 [50, -1, 7]) (↑7 : Nat) 0 false [50, -1, 7] ∧
    Issues (tLive 7 [BitVec.ofNat 48 (2 ^ 47), 7]) (↑7 : Nat) 1 [BitVec.ofNat 48 (2 ^ 47), 7] ∧
    (↑47 : Nat) < 48 ∧
    (↑47 : Nat) + (↑0 : Nat) < 48 ∧
    IssuesLong (tLive 7 [BitVec.ofNat 48 (2 ^ 47), 7]) (↑7 : Nat) 0 false [BitVec.ofNat 48 (2 ^ 47), 7] := by
  and_intros <;> decide +kernel

end W01

namespace W02

def n1 : Word := -1
def sLocalInstructions1 : State := tB 3 [5] (fun b => { b with fd := 2, ring := [(39, 9)] })
def sReturnStackInstructions1 : State := tB 3 [5] (fun b => { b with rsp := 1, rst := [(0, 9)] })
def sPredicateInstructions1 : State := tB 3 [5, n1] (fun b => { b with preds := 4 })
def sMultiplyInstructions1 : State := tLive 3 [5,n1]
def sBoundsChecks1 : State := tT 3 [4] [(15, Tok.mk4 0 5 0xFF 0)]
def sBoundsChecks2 : State := tT 3 [4, n1, 4] []
def sDivideInstructions1 : State := tLive 3 [n1, BitVec.ofNat 48 (2^47)]

/-- States that meet the hypotheses of the clauses of LocalsAndReturnStack. -/
theorem test_LocalsAndReturnStack :
    Issues sLocalInstructions1 (↑3 : Nat) 1 [5] ∧
    (bankOf (fetched sLocalInstructions1 (↑3 : Nat) 1) (↑3 : Nat)).rsp < 32 ∧
    [5].length < 32 ∧
    (↑0 : Nat) < 31 ∧
    [5][(↑0 : Nat)]? = some 5 ∧
    Issues sReturnStackInstructions1 (↑3 : Nat) 1 [5] ∧
    0 < (bankOf (fetched sReturnStackInstructions1 (↑3 : Nat) 1) (↑3 : Nat)).rsp := by
  and_intros <;> decide +kernel

/-- States that meet the hypotheses of the clauses of PredicateInstructions. -/
theorem test_PredicateInstructions :
    Issues sPredicateInstructions1 (↑3 : Nat) 1 [5, -1] ∧
    (↑11 : Nat) < 12 ∧
    IssuesLong sPredicateInstructions1 (↑3 : Nat) 0 false [5, -1] ∧
    [5, -1].length < 32 := by
  and_intros <;> decide +kernel

/-- States that meet the hypotheses of the clauses of MultiplyAccumulate. -/
theorem test_MultiplyAccumulate :
    Issues sMultiplyInstructions1 (↑3 : Nat) 1 [5, -1] ∧
    [5, -1].length < 32 ∧
    IssuesLong sMultiplyInstructions1 (↑3 : Nat) 0 false [5, -1] := by
  and_intros <;> decide +kernel

/-- States that meet the hypotheses of the clauses of BoundsAndDivide. -/
theorem test_BoundsAndDivide :
    Issues sBoundsChecks1 (↑3 : Nat) 1 [4] ∧
    ((bankOf (fetched sBoundsChecks1 (↑3 : Nat) 1) (↑3 : Nat)).tok (↑15 : Nat)).tag = true ∧
    0 ≤ BitVec.toInt (4 : Word) ∧
    BitVec.toInt (4 : Word) < (↑((bankOf (fetched sBoundsChecks1 (↑3 : Nat) 1) (↑3 : Nat)).tok (↑15 : Nat)).len : Int) ∧
    Issues sBoundsChecks2 (↑3 : Nat) 1 [4, -1, 4] ∧
    BitVec.toInt (-1 : Word) ≤ BitVec.toInt (4 : Word) ∧
    BitVec.toInt (4 : Word) ≤ BitVec.toInt (4 : Word) ∧
    Issues sDivideInstructions1 (↑3 : Nat) 1 [-1, BitVec.ofNat 48 (2 ^ 47)] := by
  and_intros <;> decide +kernel

end W02

namespace W03

def tk (b l p o : Nat) : Tok := Tok.mk4 b l p o
def own (k : Nat) (ws : List Word) : State := { tT k ws [(15, tk (0x100000 + k * 0x10000) 0x10000 0xFF 0)] with mem := [(0x130004, 77)] }
def oth (k : Nat) (ws : List Word) : State := { tT k ws [(15, tk (0x140000) 0x10000 0xFF 7)] with mem := [(0x140004, 77)] }
def rq (w : Bool) : MemReq := ⟨w, 0x140004, 9, false, 0, false, 0, true, false, 7, 0, none⟩
def acc (k : Nat) (r : MemReq) : State := { tWith k [] (fun c => { c with reqs := [r] }) with mem := [(0x140004, 77)], tags := [(0x140004, true)] }
def sMemoryAccess1 : State := acc 3 (rq false)
def sMemoryAccess2 : State := acc 3 (rq true)
def sMemoryRetry1 : State := acc 3 { rq false with busy := true }
def sLoadAndStoreResponses1 : State := tWith 3 [5] (fun c => { c with wait := .load (some 1) 1 8 true 6 11, arrived := [⟨6, 0, 7, 0, false⟩] })
def sLoadAndStoreResponses2 : State := tWith 3 [5] (fun c => { c with posted := [(8, none), (9, some 5)] })
def ct := tB 2 [pcMk 7 1] (fun b => { b with rsp := 1, rst := [(0, pcMk 9 2)], fd := 1 })
def sControlTransfers1 : State := ct
def sHardwareLoops2 : State := tLive 2 [0]
def lp := tB 2 [3] (fun b => { b with ld := 1, lbeg := [(0, 5)], lend := [(0, pcMk 0x190000 2)], lcnt := [(0, 2)] })
def sc := tWith 2 [3] (fun c => { c with ec := [(7, tk 0x190000 10 0xFF 0x22), (8, tk 0x190000 10 0xFF 0x22)], ed := [(7, tk 3 3 3 0x22)] })
def sCallsAndReturnsOfLevels1 : State := sc
def sr := tWith 2 [3] (fun c => { c with scin := 1, srpc := [(0, pcMk 0x190000 1)], srct := [(0, tk 0x190000 10 0xFF 0)], srt15 := [(0, tk 3 3 3 3)] })
def sCallsAndReturnsOfLevels2 : State := sr
def er := { tOn with cores := [(2, { tCore 2 1 [3] with sreg := [(srSpc 1, pcMk 0x190003 2), (srSst 1, BitVec.ofNat 48 (2^31 + 2^34 + 2^36 + 2^40))] })] }
def sCallsAndReturnsOfLevels3 : State := er
def en := tWith 2 [3] (fun c => { c with ec := [(8, tk 0x190000 10 0xFF 0x22)] })
def pen (s : State) : State := { s with intc := { s.intc with offered := [2] } }
def sWaitsAndFences1 : State := tWith 2 [3] (fun c => { c with ef := 5 })
def sWaitsAndFences3 : State := tWith 2 [3] (fun c => { c with reqs := [rq true] })
def sWaitsAndFences4 : State := tWith 2 [3] (fun c => { c with ef := 5, wait := .event 4 1 false })
def sWaitsAndFences5 : State := tWith 2 [3] (fun c => { c with ef := 5, wait := .fence false })
def rqs : MemReq := { rq false with addr := 0x1004 }
def rqb : MemReq := { rq false with busy := true }
def accs : State := let t := acc 3 rqs; { t with msys := { t.msys with grants := (List.range 8).map (fun i => (i, 2)) } }
def lpc : Core := { coreOf lp 2 with pc := pcMk 0x190000 2 }
def lpd : Core := { (coreOf lp 2).withCur (fun b => { b with lcnt := [(0, 1)] }) with pc := pcMk 0x190000 2 }
def pn0 : Core := coreOf (pen en) 2
def enp : State := setCore (pen en) 2 { pn0 with prev := some ⟨0, 1, 0, 1, 0, 0, true, none, false, false, some pn0.snapshot⟩ }
def ena (s : State) : State := setCore s 2 { coreOf s 2 with asyncs := [(0x3A, 5)] }

/-- States that meet the hypotheses of the clauses of TokensAndOwnMemory. -/
theorem test_TokensAndOwnMemory :
    (let __src := tk 0 5 255 0;     { w0 := __src.w0, w1 := __src.w1, tag := false : Tok }).tag =   false ∧
    Issues (own 3 [4]) (↑3 : Nat) 1 [4] ∧
    [4].length < 32 ∧
    (tokenCheck ((bankOf (fetched (own 3 [4]) (↑3 : Nat) 1) (↑3 : Nat)).tok (↑15 : Nat)) (↑15 : Nat) [0] (↑(↑4 : Nat) : Int) 1 = Except.ok 1245188 ∧ spWord (fetched (own 3 [4]) (↑3 : Nat) 1) (↑3 : Nat) 1245188 = true) ∧
    IssuesLong (own 3 [4]) (↑3 : Nat) 0 false [4] ∧
    (tokenCheck ((bankOf (fetched (own 3 [4]) (↑3 : Nat) 2) (↑3 : Nat)).tok (↑15 : Nat)) (↑15 : Nat) [0] (↑(BitVec.toNat (4 : Word)) : Int) 1 = Except.ok 1245188 ∧ spWord (fetched (own 3 [4]) (↑3 : Nat) 2) (↑3 : Nat) 1245188 = true) ∧
    (tk 0 5 255 64).tag = true ∧
    64 ≤ (tk 0 5 255 64).otype ∧
    (tk 0 5 254 0).tag = true ∧
    (tk 0 5 254 0).otype < 64 ∧
    (∃ (i : Nat), i ∈ [0] ∧ ((tk 0 5 254 0).may i = false ∨ (tk 0 5 254 0).otype ∈ [32, 33, 34])) ∧
    (tk 0 5 255 0).tag = true ∧
    (tk 0 5 255 0).otype < 64 ∧
    (∀ (i : Nat), i ∈ [0] → (tk 0 5 255 0).may i = true ∧ ¬(tk 0 5 255 0).otype ∈ [32, 33, 34]) ∧
    (5 < 0 ∨ (↑(tk 0 5 255 0).len : Int) < 5 + (↑1 : Int)) ∧
    0 ≤ 4 ∧
    4 + (↑1 : Int) ≤ (↑(tk 0 5 255 0).len : Int) ∧
    (tokenCheck ((bankOf (fetched (own 3 [4]) (↑3 : Nat) 2) (↑3 : Nat)).tok (↑15 : Nat)) (↑15 : Nat) [1] (↑(BitVec.toNat (65535 : Word)) : Int) 1 = Except.ok 1310719 ∧ spWord (fetched (own 3 [4]) (↑3 : Nat) 2) (↑3 : Nat) 1310719 = true) ∧
    (tokenCheck ((bankOf (fetched (own 3 [4]) (↑3 : Nat) 1) (↑3 : Nat)).tok (↑15 : Nat)) (↑15 : Nat) [0] (BitVec.toInt (4 : Word) + (↑(↑0 : Nat) : Int)) 1 = Except.ok 1245188 ∧ spWord (fetched (own 3 [4]) (↑3 : Nat) 1) (↑3 : Nat) 1245188 = true) ∧
    (tokenCheck ((bankOf (fetched (own 3 [4]) (↑3 : Nat) 2) (↑3 : Nat)).tok (↑15 : Nat)) (↑15 : Nat) [0] (BitVec.toInt (4 : Word) + (↑(BitVec.toNat (0 : Word)) : Int)) 1 = Except.ok 1245188 ∧ spWord (fetched (own 3 [4]) (↑3 : Nat) 2) (↑3 : Nat) 1245188 = true) ∧
    Issues (own 3 [4, 5]) (↑3 : Nat) 1 [4, 5] ∧
    (tokenCheck ((bankOf (fetched (own 3 [4, 5]) (↑3 : Nat) 1) (↑3 : Nat)).tok (↑15 : Nat)) (↑15 : Nat) [1] (BitVec.toInt (4 : Word) + (↑(↑0 : Nat) : Int)) 1 = Except.ok 1245188 ∧ spWord (fetched (own 3 [4, 5]) (↑3 : Nat) 1) (↑3 : Nat) 1245188 = true) ∧
    IssuesLong (own 3 [4, 5]) (↑3 : Nat) 0 false [4, 5] ∧
    (tokenCheck ((bankOf (fetched (own 3 [4, 5]) (↑3 : Nat) 2) (↑3 : Nat)).tok (↑15 : Nat)) (↑15 : Nat) [1] (BitVec.toInt (4 : Word) + (↑(BitVec.toNat (0 : Word)) : Int)) 1 = Except.ok 1245188 ∧ spWord (fetched (own 3 [4, 5]) (↑3 : Nat) 2) (↑3 : Nat) 1245188 = true) ∧
    (tokenCheck ((bankOf (fetched (own 3 [4]) (↑3 : Nat) 1) (↑3 : Nat)).tok (↑15 : Nat)) (↑15 : Nat) [1] (↑(↑4 : Nat) : Int) 1 = Except.ok 1245188 ∧ spWord (fetched (own 3 [4]) (↑3 : Nat) 1) (↑3 : Nat) 1245188 = true) := by
  and_intros <;> first | decide +kernel | exact okOf (by decide +kernel)

/-- States that meet the hypotheses of the clauses of PostedAccesses. -/
theorem test_PostedAccesses :
    (↑3 : Nat) < 8 ∧
    1310751 < 2 ^ 40 ∧
    ownSp (↑3 : Nat) 1310751 = false ∧
    wpHit (fetched (oth 3 [5]) (↑3 : Nat) 1) (↑3 : Nat) 1310751 false = false ∧
    wpHit (fetched (oth 3 [5]) (↑3 : Nat) 1) (↑3 : Nat) 1310751 true = false ∧
    Issues (oth 3 [5]) (↑3 : Nat) 1 [5] ∧
    [5].length < 32 ∧
    tokenCheck ((bankOf (fetched (oth 3 [5]) (↑3 : Nat) 1) (↑3 : Nat)).tok (↑15 : Nat)) (↑15 : Nat) [0] (↑(↑31 : Nat) : Int) 1 = Except.ok 1310751 ∧
    tokenCheck ((bankOf (fetched (oth 3 [5]) (↑3 : Nat) 1) (↑3 : Nat)).tok (↑15 : Nat)) (↑15 : Nat) [1] (↑(↑31 : Nat) : Int) 1 = Except.ok 1310751 ∧
    sLoadAndStoreResponses1.running = true ∧
    waitsIn sLoadAndStoreResponses1 (↑3 : Nat) (CoreWait.load (some 1) 1 8 true { id := 6, code := 0, w0 := 7, w1 := 0, tag := false : Arrived }.id 11) = true ∧
    (coreOf sLoadAndStoreResponses1 (↑3 : Nat)).arrived = [{ id := 6, code := 0, w0 := 7, w1 := 0, tag := false : Arrived }] ∧
    (coreOf sLoadAndStoreResponses1 (↑3 : Nat)).passed = [] ∧
    { id := 6, code := 0, w0 := 7, w1 := 0, tag := false : Arrived }.code = 0 ∧
    operands sLoadAndStoreResponses1 (↑3 : Nat) = [5] ∧
    1 ≤ [5].length ∧
    sLoadAndStoreResponses2.running = true ∧
    List.find? (fun (p : Nat × Option Nat) => p.snd.isSome) (coreOf sLoadAndStoreResponses2 (↑3 : Nat)).posted = some (9, some 5) := by
  and_intros <;> first | decide +kernel | exact okOf (by decide +kernel)

/-- States that meet the hypotheses of the clauses of MemoryAccess. -/
theorem test_MemoryAccess :
    sMemoryAccess1.running = true ∧
    (coreOf sMemoryAccess1 (↑3 : Nat)).reqs = [rq false] ∧
    (rq false).addr = 1310724 ∧
    (rq false).busy = false ∧
    (rq false).pair = false ∧
    (∃ (e : Nat), ∃ (b : Nat), targetOf 1310724 = Target.dataSp e ∨ targetOf 1310724 = Target.instSp e ∨ targetOf 1310724 = Target.shared e b ∧ inL2 sMemoryAccess1 8 1310724 = false ∧ inL2 sMemoryAccess1 9 1310724 = false ∧ inPneRegion sMemoryAccess1 1310724 = false ∧ inRlkTable sMemoryAccess1 1310724 = false ∧ cptHidden sMemoryAccess1 1310724 (corePort (↑3 : Nat)) = false) ∧
    clearingAt sMemoryAccess1 1310724 = false ∧
    arrayCode sMemoryAccess1 1310724 = 0 ∧
    grantable sMemoryAccess1 (corePort (↑3 : Nat)) 1310724 false = true ∧
    upsetAt sMemoryAccess1 (upsetKey 1310724) = Upset.none ∧
    upsetAt sMemoryAccess1 (tagUpsetKey 1310724) = Upset.none ∧
    (rq false).write = false ∧
    sMemoryAccess2.running = true ∧
    (coreOf sMemoryAccess2 (↑3 : Nat)).reqs = [rq true] ∧
    (rq true).addr = 1310724 ∧
    (rq true).busy = false ∧
    (rq true).pair = false ∧
    (∃ (e : Nat), ∃ (b : Nat), targetOf 1310724 = Target.dataSp e ∨ targetOf 1310724 = Target.instSp e ∨ targetOf 1310724 = Target.shared e b ∧ inL2 sMemoryAccess2 8 1310724 = false ∧ inL2 sMemoryAccess2 9 1310724 = false ∧ inPneRegion sMemoryAccess2 1310724 = false ∧ inRlkTable sMemoryAccess2 1310724 = false ∧ cptHidden sMemoryAccess2 1310724 (corePort (↑3 : Nat)) = false) ∧
    clearingAt sMemoryAccess2 1310724 = false ∧
    arrayCode sMemoryAccess2 1310724 = 0 ∧
    grantable sMemoryAccess2 (corePort (↑3 : Nat)) 1310724 false = true ∧
    upsetAt sMemoryAccess2 (upsetKey 1310724) = Upset.none ∧
    upsetAt sMemoryAccess2 (tagUpsetKey 1310724) = Upset.none ∧
    (rq true).write = true ∧
    sMemoryRetry1.running = true ∧
    (coreOf sMemoryRetry1 (↑3 : Nat)).reqs = [rqb] ∧
    rqb.addr = 1310724 ∧
    rqb.busy = true ∧
    rqb.pair = false ∧
    rqb.write = false ∧
    (∃ (e : Nat), targetOf 1310724 = Target.dataSp e ∨ targetOf 1310724 = Target.instSp e) ∧
    clearingAt sMemoryRetry1 1310724 = false ∧
    arrayCode sMemoryRetry1 1310724 = 0 ∧
    upsetAt sMemoryRetry1 (upsetKey 1310724) = Upset.none ∧
    upsetAt sMemoryRetry1 (tagUpsetKey 1310724) = Upset.none ∧
    accs.running = true ∧
    (coreOf accs (↑3 : Nat)).reqs = [rqs] ∧
    rqs.addr = 4100 ∧
    rqs.busy = false ∧
    rqs.pair = false ∧
    (∃ (e : Nat), ∃ (b : Nat), targetOf 4100 = Target.dataSp e ∨ targetOf 4100 = Target.instSp e ∨ targetOf 4100 = Target.shared e b ∧ inL2 accs 8 4100 = false ∧ inL2 accs 9 4100 = false ∧ inPneRegion accs 4100 = false ∧ inRlkTable accs 4100 = false ∧ cptHidden accs 4100 (corePort (↑3 : Nat)) = false) ∧
    clearingAt accs 4100 = false ∧
    arrayCode accs 4100 = 0 ∧
    grantable accs (corePort (↑3 : Nat)) 4100 false = false := by
  and_intros <;> first | decide +kernel | exact ⟨4, by decide +kernel⟩ | exact ⟨4, 0, by decide +kernel⟩ | exact ⟨0, 0, by decide +kernel⟩

/-- States that meet the hypotheses of the clauses of ControlTransfers. -/
theorem test_ControlTransfers :
    2 ^ 40 - 1 < 2 ^ 40 ∧
    2 < 3 ∧
    Issues sControlTransfers1 (↑2 : Nat) 1 [pcMk 7 1] ∧
    (pcSlot (BitVec.ofNat 48 (BitVec.toNat (pcMk 7 1) % 2 ^ 42)) ≠ 3) ∧
    (coreOf (fetched sControlTransfers1 (↑2 : Nat) 1) (↑2 : Nat)).cur.rsp < 32 ∧
    (coreOf (fetched sControlTransfers1 (↑2 : Nat) 1) (↑2 : Nat)).cur.fd < 15 ∧
    IssuesLong sControlTransfers1 (↑2 : Nat) 0 false [pcMk 7 1] ∧
    2 ≤ BitVec.toNat (65535 : Word) ∧
    (pcMk 7 1 ≠ 0) ∧
    (coreOf (fetched sControlTransfers1 (↑2 : Nat) 2) (↑2 : Nat)).cur.ld < 3 ∧
    (lpc.cur.ld ≠ 0) ∧
    lpc.cur.le (lpc.cur.ld - 1) = lpc.pc ∧
    1 < BitVec.toNat (lpc.cur.lc (lpc.cur.ld - 1)) ∧
    0 < (coreOf (fetched sControlTransfers1 (↑2 : Nat) 1) (↑2 : Nat)).cur.rsp ∧
    (pcSlot (BitVec.ofNat 48 (BitVec.toNat (coreOf (fetched sControlTransfers1 (↑2 : Nat) 1) (↑2 : Nat)).cur.rtop % 2 ^ 42)) ≠ 3) ∧
    0 < (coreOf (fetched sControlTransfers1 (↑2 : Nat) 1) (↑2 : Nat)).cur.fd ∧
    (coreOf (fetched sControlTransfers1 (↑2 : Nat) 2) (↑2 : Nat)).cur.rsp < 32 ∧
    (coreOf (fetched sControlTransfers1 (↑2 : Nat) 2) (↑2 : Nat)).cur.fd < 15 ∧
    (2 ≤ (bankOf (fetched sControlTransfers1 (↑2 : Nat) 1) (↑2 : Nat)).ld → (bankOf (fetched sControlTransfers1 (↑2 : Nat) 1) (↑2 : Nat)).le ((bankOf (fetched sControlTransfers1 (↑2 : Nat) 1) (↑2 : Nat)).ld - 2) ≠ (coreOf (fetched sControlTransfers1 (↑2 : Nat) 1) (↑2 : Nat)).pc) ∧
    IssuesLong sHardwareLoops2 (↑2 : Nat) 0 false [0] ∧
    (lpd.cur.ld ≠ 0) ∧
    lpd.cur.le (lpd.cur.ld - 1) = lpd.pc ∧
    BitVec.toNat (lpd.cur.lc (lpd.cur.ld - 1)) ≤ 1 := by
  and_intros <;> decide +kernel

/-- States that meet the hypotheses of the clauses of Levels. -/
theorem test_Levels :
    Issues sCallsAndReturnsOfLevels1 (↑2 : Nat) 1 [3] ∧
    ((coreOf (fetched sCallsAndReturnsOfLevels1 (↑2 : Nat) 1) (↑2 : Nat)).ecp (↑7 : Nat)).tag = true ∧
    (coreOf (fetched sCallsAndReturnsOfLevels1 (↑2 : Nat) 1) (↑2 : Nat)).scin.testBit (coreOf (fetched sCallsAndReturnsOfLevels1 (↑2 : Nat) 1) (↑2 : Nat)).lvl = false ∧
    Issues sCallsAndReturnsOfLevels2 (↑2 : Nat) 1 [3] ∧
    (coreOf (fetched sCallsAndReturnsOfLevels2 (↑2 : Nat) 1) (↑2 : Nat)).scin.testBit (coreOf (fetched sCallsAndReturnsOfLevels2 (↑2 : Nat) 1) (↑2 : Nat)).lvl = true ∧
    Issues sCallsAndReturnsOfLevels3 (↑2 : Nat) 1 [3] ∧
    ((coreOf (fetched sCallsAndReturnsOfLevels3 (↑2 : Nat) 1) (↑2 : Nat)).lvl ≠ 0) ∧
    { hi := 33, lo := 32 : Fld }.get ((coreOf (fetched sCallsAndReturnsOfLevels3 (↑2 : Nat) 1) (↑2 : Nat)).sr (srSst (coreOf (fetched sCallsAndReturnsOfLevels3 (↑2 : Nat) 1) (↑2 : Nat)).lvl)) ≤ (coreOf (fetched sCallsAndReturnsOfLevels3 (↑2 : Nat) 1) (↑2 : Nat)).lvl ∧
    ({ hi := 33, lo := 32 : Fld }.get ((coreOf (fetched sCallsAndReturnsOfLevels3 (↑2 : Nat) 1) (↑2 : Nat)).sr (srSst (coreOf (fetched sCallsAndReturnsOfLevels3 (↑2 : Nat) 1) (↑2 : Nat)).lvl)) = (coreOf (fetched sCallsAndReturnsOfLevels3 (↑2 : Nat) 1) (↑2 : Nat)).lvl → (coreOf (fetched sCallsAndReturnsOfLevels3 (↑2 : Nat) 1) (↑2 : Nat)).lvl = 1) ∧
    (pcSlot (BitVec.ofNat 48 (BitVec.toNat ((coreOf (fetched sCallsAndReturnsOfLevels3 (↑2 : Nat) 1) (↑2 : Nat)).sr (srSpc (coreOf (fetched sCallsAndReturnsOfLevels3 (↑2 : Nat) 1) (↑2 : Nat)).lvl)) % 2 ^ 42)) ≠ 3) ∧
    coreReady (pen en) (↑2 : Nat) = true ∧
    pn0 = coreOf (pen en) (↑2 : Nat) ∧
    (pen en).intc.offered.contains (↑2 : Nat) = true ∧
    pn0.openPair = false ∧
    pn0.lvl ≤ (presentationOf (pen en) (↑2 : Nat)).fst ∧
    pn0.lvl < 3 ∧
    handlerOk (pen en) (↑2 : Nat) (presentationOf (pen en) (↑2 : Nat)).fst = true ∧
    ena (pen en) = setCore (pen en) (↑2 : Nat) { lvl := pn0.lvl, pc := pn0.pc, banks := pn0.banks, ct := pn0.ct, ec := pn0.ec, ed := pn0.ed, scin := pn0.scin, srpc := pn0.srpc, srct := pn0.srct, srt15 := pn0.srt15, sreg := pn0.sreg, rootLock := pn0.rootLock, detmAct := pn0.detmAct, asyncs := [(58, 5)], lost := pn0.lost, ef := pn0.ef, gps := pn0.gps, gsn := pn0.gsn, grem := pn0.grem, gpc := pn0.gpc, step := pn0.step, hdr := pn0.hdr, hold := pn0.hold, wait := pn0.wait, got := pn0.got, reqs := pn0.reqs, posted := pn0.posted, passed := pn0.passed, kept := pn0.kept, arrived := pn0.arrived, rid := pn0.rid, fbuf := pn0.fbuf, efirst := pn0.efirst, entry := pn0.entry, lands := pn0.lands, cyc := pn0.cyc, prev := pn0.prev, run := pn0.run, locked := pn0.locked, stopped := pn0.stopped, dbgStep := pn0.dbgStep : Core } ∧
    handlerOk (pen en) (↑2 : Nat) (if pn0.lvl = 2 ∨ pn0.mmask = true then 3 else 2) = true ∧
    decodes (BitVec.toNat (1536 : Word)) (BitVec.toNat (0 : Word)) = false ∧
    issuable (pen en) (↑2 : Nat) (if isLong (BitVec.toNat (1536 : Word)) = true then 2 else 1) = true ∧
    handlerOk (fetched (pen en) (↑2 : Nat) (if isLong (BitVec.toNat (1536 : Word)) = true then 2 else 1)) (↑2 : Nat) (if pn0.lvl = 2 ∨ pn0.mmask = true then 3 else 2) = true ∧
    coreReady enp (↑2 : Nat) = true ∧
    coreOf enp 2 = coreOf enp (↑2 : Nat) ∧
    enp.intc.offered.contains (↑2 : Nat) = true ∧
    (coreOf enp 2).openPair = true ∧
    ena enp = setCore enp (↑2 : Nat) { lvl := (coreOf enp 2).lvl, pc := (coreOf enp 2).pc, banks := (coreOf enp 2).banks, ct := (coreOf enp 2).ct, ec := (coreOf enp 2).ec, ed := (coreOf enp 2).ed, scin := (coreOf enp 2).scin, srpc := (coreOf enp 2).srpc, srct := (coreOf enp 2).srct, srt15 := (coreOf enp 2).srt15, sreg := (coreOf enp 2).sreg, rootLock := (coreOf enp 2).rootLock, detmAct := (coreOf enp 2).detmAct, asyncs := [(58, 5)], lost := (coreOf enp 2).lost, ef := (coreOf enp 2).ef, gps := (coreOf enp 2).gps, gsn := (coreOf enp 2).gsn, grem := (coreOf enp 2).grem, gpc := (coreOf enp 2).gpc, step := (coreOf enp 2).step, hdr := (coreOf enp 2).hdr, hold := (coreOf enp 2).hold, wait := (coreOf enp 2).wait, got := (coreOf enp 2).got, reqs := (coreOf enp 2).reqs, posted := (coreOf enp 2).posted, passed := (coreOf enp 2).passed, kept := (coreOf enp 2).kept, arrived := (coreOf enp 2).arrived, rid := (coreOf enp 2).rid, fbuf := (coreOf enp 2).fbuf, efirst := (coreOf enp 2).efirst, entry := (coreOf enp 2).entry, lands := (coreOf enp 2).lands, cyc := (coreOf enp 2).cyc, prev := (coreOf enp 2).prev, run := (coreOf enp 2).run, locked := (coreOf enp 2).locked, stopped := (coreOf enp 2).stopped, dbgStep := (coreOf enp 2).dbgStep : Core } ∧
    (coreOf enp 2).lvl < 3 := by
  and_intros <;> decide +kernel

/-- States that meet the hypotheses of the clauses of WaitsAndFences. -/
theorem test_WaitsAndFences :
    Issues sWaitsAndFences1 (↑2 : Nat) 1 [3] ∧
    [3].length < 32 ∧
    ((coreOf (fetched sWaitsAndFences1 (↑2 : Nat) 1) (↑2 : Nat)).ef &&& (↑4 : Nat) ≠ 0) ∧
    (svcOf (fetched sWaitsAndFences1 (↑2 : Nat) 1) (↑2 : Nat)).wcb = none ∧
    fenceClear (fetched sWaitsAndFences1 (↑2 : Nat) 1) (↑2 : Nat) = true ∧
    (coreOf (fetched sWaitsAndFences1 (↑2 : Nat) 1) (↑2 : Nat)).ef &&& (↑2 : Nat) = 0 ∧
    Issues sWaitsAndFences3 (↑2 : Nat) 1 [3] ∧
    (svcOf (fetched sWaitsAndFences3 (↑2 : Nat) 1) (↑2 : Nat)).wcb = none ∧
    fenceClear (fetched sWaitsAndFences3 (↑2 : Nat) 1) (↑2 : Nat) = false ∧
    waitsIn sWaitsAndFences4 (↑2 : Nat) (CoreWait.event (↑4 : Nat) 1 false) = true ∧
    ((coreOf sWaitsAndFences4 (↑2 : Nat)).ef &&& (↑4 : Nat) ≠ 0) ∧
    waitsIn sWaitsAndFences5 (↑2 : Nat) (CoreWait.fence false) = true ∧
    (if false = true then postedDone sWaitsAndFences5 (↑2 : Nat) else fenceClear sWaitsAndFences5 (↑2 : Nat)) = true ∧
    (coreOf sWaitsAndFences5 (↑2 : Nat)).asyncs = [] ∧
    (sWaitsAndFences5.sig.asyncs.any fun (x : Nat × Nat × Word) => x.fst == (↑2 : Nat)) = false := by
  and_intros <;> decide +kernel

end W03

namespace W04

def n1 : Word := -1
def tk (b l p o : Nat) : Tok := Tok.mk4 b l p o
def sy (ws : List Word) (o : Nat) : State := tB 2 ws (fun b => { b with toks := [(15, tk 0 1 0xFF o)] })
def sSystemRegisters2 : State := sy [n1] 0x20
def syk : State := tWith 2 [n1] (fun c => { c with ec := [(8, tk 0x190000 10 0xFF 0x22)] })
def bk (ws : List Word) (o : Nat) : State := tWith 2 ws (fun c => { c.withCur (fun b => { b with toks := [(15, tk 0 1 0xFF o)] }) with sreg := [(3, BitVec.ofNat 48 (1 * 2^9 + 5))], banks := (0, { tBank ws with toks := [(15, tk 0 1 0xFF o)] }) :: [(1, { tBank [] with rst := [(0,5)] })], scin := 5 })
def tr (ws : List Word) : State := tT 2 ws [(3, tk 0x1000 0x100 0xFF 5), (4, tk 0x1000 0x100 0xFF 5), (6, tk 0 1 0xFF 0x20), (7, tk 9 9 9 0xFF)]
def tr1 : State := { tOn with cores := [(2, (tCore 2 2 [5]).withCur (fun b => { b with toks := [(3, tk 0x1000 0x100 0xFF 5), (6, tk 0 1 0xFF 0x20), (7, tk 9 9 9 0xFF)] }))] }
def se (o : Nat) : State := tT 2 [5] [(3, tk 0x1000 0x100 0xFF o), (6, tk 0x41 1 0xFF 0x22)]
def tl (p : Nat) (o : Word) : State := { tT 2 [o] [(3, tk 0x120000 0x100 p 0), (6, tk 0x41 1 0xFF 0x22)] with mem := [(0x120004, 9), (0x120005, 8)], tags := [(0x120004, true)] }
def bm (ws : List Word) : State := { tT 2 ws [(3, tk 0x120000 0x100 0xFF 0)] with mem := [(0x120004, 9), (0x120005, 8)], tags := [(0x120004, true)] }
def sv (j : Nat) : State := { tWith 2 [9, 6] (fun c => { c.withCur (fun b => { b with toks := [(3, tk 0x120000 0x100 0xFF 0), (15, tk 4 4 0x7F 1)], rsp := 2, rst := [(0, 5)], fd := 3, ld := 1, lbeg := [(0, 7)], acc := -5, accOvf := true, preds := 6, ring := [(5, 6)], ph := 8, pl := 9 }) with step := j }) with mem := [(0x120004, 9), (0x120005, 8)], tags := [(0x120004, true)] }
def hd (u : Bool) : Word := BitVec.ofNat 48 ((if u then 2 else 1) * 2 ^ 40 + 2 ^ 32 + 0 * 2 ^ 30 + 3 * 2 ^ 24 + 4 * 2 ^ 18 + 5 * 2 ^ 14 + 0 * 2 ^ 12 + 1 * 2 ^ 11 + 6)
def rs (j : Nat) (u : Bool) (h : Option Word) : State := { tWith 2 [6] (fun c => { c.withCur (fun b => { b with toks := [(3, tk 0x120000 0x100 0xFF 0), (15, tk 4 4 0x7F 1)] }) with step := j, hdr := h, hold := if j = 229 then [(3, tk 1 1 1 1), (15, tk 2 2 2 2)] else [] }) with mem := [(0x120001, hd u), (0x120002, 7), (0x120004, 9), (0x120005, 8), (0x12000D, 12), (0x120010, 13), (0x120030, 14), (0x12004F, 15), (0x1200C5, 16), (0x1200C6, 17)], tags := [(0x1200C6, true)] }

/-- States that meet the hypotheses of the clauses of SystemRegisters. -/
theorem test_SystemRegisters :
    IssuesLong (sy [3] 32) (↑2 : Nat) 0 false [3] ∧
    [3].length < 32 ∧
    BitVec.toNat (51 : Word) ∈ [3, 34, 35, 38, 39, 40, 41, 42, 43, 44, 45, 46, 47, 48, 49, 50, 51] ∧
    IssuesLong sSystemRegisters2 (↑2 : Nat) 0 false [-1] ∧
    (((bankOf (fetched sSystemRegisters2 (↑2 : Nat) 2) (↑2 : Nat)).tok (↑15 : Nat)).tag && ((bankOf (fetched sSystemRegisters2 (↑2 : Nat) 2) (↑2 : Nat)).tok (↑15 : Nat)).otype == 32) = true ∧
    ((bankOf (fetched sSystemRegisters2 (↑2 : Nat) 2) (↑2 : Nat)).tok (↑15 : Nat)).tag = true ∧
    ((bankOf (fetched sSystemRegisters2 (↑2 : Nat) 2) (↑2 : Nat)).tok (↑15 : Nat)).otype = 32 ∧
    (↑2 : Nat) < 8 ∧
    (bankOf sSystemRegisters2 (↑2 : Nat)).peek 0 = -1 ∧
    BitVec.getLsbD (-1 : Word) 0 = true ∧
    ({ hi := 7, lo := 4 : Fld }.get (-1) ≠ 0) ∧
    IssuesLong syk (↑2 : Nat) 0 false [-1] ∧
    (((bankOf (fetched syk (↑2 : Nat) 2) (↑2 : Nat)).tok (↑15 : Nat)).tag && ((bankOf (fetched syk (↑2 : Nat) 2) (↑2 : Nat)).tok (↑15 : Nat)).otype == 32) = false ∧
    BitVec.toNat (34 : Word) ∈ [2, 34, 35, 36, 38, 39, 40, 41, 42, 43] ∧
    (coreOf (fetched syk (↑2 : Nat) 2) (↑2 : Nat)).lvl < 3 ∧
    handlerOk (fetched syk (↑2 : Nat) 2) (↑2 : Nat) (if (coreOf (fetched syk (↑2 : Nat) 2) (↑2 : Nat)).lvl = 2 ∨ (coreOf (fetched syk (↑2 : Nat) 2) (↑2 : Nat)).mmask = true then 3 else 2) = true ∧
    IssuesLong (bk [5] 33) (↑2 : Nat) 0 false [5] ∧
    [5].length < 32 ∧
    ((bankOf (fetched (bk [5] 33) (↑2 : Nat) 2) (↑2 : Nat)).tok (↑15 : Nat)).tag = true ∧
    ((bankOf (fetched (bk [5] 33) (↑2 : Nat) 2) (↑2 : Nat)).tok (↑15 : Nat)).otype = 33 ∧
    ((bankOf (fetched (bk [5] 33) (↑2 : Nat) 2) (↑2 : Nat)).tok (↑15 : Nat)).may 0 = true ∧
    ({ hi := 10, lo := 9 : Fld }.get ((coreOf (fetched (bk [5] 33) (↑2 : Nat) 2) (↑2 : Nat)).sr 3) ≠ (coreOf (fetched (bk [5] 33) (↑2 : Nat) 2) (↑2 : Nat)).lvl) ∧
    ((coreOf (fetched (bk [5] 33) (↑2 : Nat) 2) (↑2 : Nat)).bank ({ hi := 10, lo := 9 : Fld }.get ((coreOf (fetched (bk [5] 33) (↑2 : Nat) 2) (↑2 : Nat)).sr 3))).resv = [] ∧
    ((bankOf (fetched (bk [5] 33) (↑2 : Nat) 2) (↑2 : Nat)).tok (↑15 : Nat)).may 1 = true := by
  and_intros <;> decide +kernel

/-- States that meet the hypotheses of the clauses of TokenRegisters. -/
theorem test_TokenRegisters :
    Issues (tr [383, 240, 16]) (↑2 : Nat) 1 [383, 240, 16] ∧
    ((coreOf (fetched (tr [383, 240, 16]) (↑2 : Nat) 1) (↑2 : Nat)).cur.tok (↑3 : Nat)).tag = true ∧
    ((coreOf (fetched (tr [383, 240, 16]) (↑2 : Nat) 1) (↑2 : Nat)).cur.tok (↑3 : Nat)).otype < 64 ∧
    0 ≤ BitVec.toInt (16 : Word) ∧
    (240 ≠ 0) ∧
    BitVec.toNat (240 : Word) ≤ 2 ^ 32 ∧
    BitVec.toNat (16 : Word) + BitVec.toNat (240 : Word) ≤ ((coreOf (fetched (tr [383, 240, 16]) (↑2 : Nat) 1) (↑2 : Nat)).cur.tok (↑3 : Nat)).len ∧
    (((coreOf (fetched (tr [383, 240, 16]) (↑2 : Nat) 1) (↑2 : Nat)).cur.tok (↑3 : Nat)).otype = 34 → BitVec.getLsbD (383 : Word) 8 = true → 16 = 0 ∧ BitVec.toNat (240 : Word) = ((coreOf (fetched (tr [383, 240, 16]) (↑2 : Nat) 1) (↑2 : Nat)).cur.tok (↑3 : Nat)).len) ∧
    (↑8 : Nat) < 9 ∧
    (↑3 : Nat) < 5 ∧
    [383, 240, 16].length < 32 ∧
    Issues (tr [255]) (↑2 : Nat) 1 [255] ∧
    (coreOf (fetched (tr [255]) (↑2 : Nat) 1) (↑2 : Nat)).rootLock = false ∧
    BitVec.toNat (255 : Word) ≤ 255 ∧
    64 ≤ BitVec.toNat (255 : Word) ∧
    Issues (tr [33]) (↑2 : Nat) 1 [33] ∧
    (coreOf (fetched (tr [33]) (↑2 : Nat) 1) (↑2 : Nat)).rootLock = false ∧
    (BitVec.toNat (33 : Word) = 32 ∨ BitVec.toNat (33 : Word) = 33) ∧
    IssuesLong tr1 (↑2 : Nat) 0 false [5] ∧
    (↑1 : Nat) < (coreOf (fetched tr1 (↑2 : Nat) 2) (↑2 : Nat)).lvl ∧
    ((coreOf (fetched tr1 (↑2 : Nat) 2) (↑2 : Nat)).cur.tok (↑6 : Nat)).tag = true ∧
    ((coreOf (fetched tr1 (↑2 : Nat) 2) (↑2 : Nat)).cur.tok (↑6 : Nat)).otype = 32 ∧
    ((coreOf (fetched tr1 (↑2 : Nat) 2) (↑2 : Nat)).cur.tok (↑3 : Nat)).tag = true ∧
    ((coreOf (fetched tr1 (↑2 : Nat) 2) (↑2 : Nat)).cur.tok (↑3 : Nat)).otype < 64 ∧
    ((coreOf (fetched tr1 (↑2 : Nat) 2) (↑2 : Nat)).cur.tok (↑7 : Nat)).tag = true ∧
    ((coreOf (fetched tr1 (↑2 : Nat) 2) (↑2 : Nat)).cur.tok (↑7 : Nat)).otype = 255 ∧
    (↑7 : Nat) < 8 ∧
    (↑7 : Nat) < 15 ∧
    (((coreOf (fetched tr1 (↑2 : Nat) 2) (↑2 : Nat)).cur.tok ((↑7 : Nat) + 1)).tag = false ∨ ((coreOf (fetched tr1 (↑2 : Nat) 2) (↑2 : Nat)).cur.tok ((↑7 : Nat) + 1)).otype = 255) ∧
    IssuesLong (se 0) (↑2 : Nat) 0 false [5] ∧
    ((bankOf (fetched (se 0) (↑2 : Nat) 2) (↑2 : Nat)).tok (↑3 : Nat)).tag = true ∧
    ((bankOf (fetched (se 0) (↑2 : Nat) 2) (↑2 : Nat)).tok (↑6 : Nat)).tag = true ∧
    ((bankOf (fetched (se 0) (↑2 : Nat) 2) (↑2 : Nat)).tok (↑6 : Nat)).otype = 34 ∧
    ((bankOf (fetched (se 0) (↑2 : Nat) 2) (↑2 : Nat)).tok (↑6 : Nat)).may 5 = true ∧
    ((bankOf (fetched (se 0) (↑2 : Nat) 2) (↑2 : Nat)).tok (↑3 : Nat)).otype = 0 ∧
    IssuesLong (se 65) (↑2 : Nat) 0 false [5] ∧
    ((bankOf (fetched (se 65) (↑2 : Nat) 2) (↑2 : Nat)).tok (↑3 : Nat)).tag = true ∧
    ((bankOf (fetched (se 65) (↑2 : Nat) 2) (↑2 : Nat)).tok (↑6 : Nat)).tag = true ∧
    ((bankOf (fetched (se 65) (↑2 : Nat) 2) (↑2 : Nat)).tok (↑6 : Nat)).otype = 34 ∧
    ((bankOf (fetched (se 65) (↑2 : Nat) 2) (↑2 : Nat)).tok (↑6 : Nat)).may 6 = true ∧
    ((bankOf (fetched (se 65) (↑2 : Nat) 2) (↑2 : Nat)).tok (↑3 : Nat)).otype = ((bankOf (fetched (se 65) (↑2 : Nat) 2) (↑2 : Nat)).tok (↑6 : Nat)).base % 256 := by
  and_intros <;> decide +kernel

/-- States that meet the hypotheses of the clauses of TokenMoves. -/
theorem test_TokenMoves :
    Issues (tl 255 4) (↑2 : Nat) 1 [4] ∧
    spWord (fetched (tl 255 4) (↑2 : Nat) 1) (↑2 : Nat) 1179652 = true ∧
    spWord (fetched (tl 255 4) (↑2 : Nat) 1) (↑2 : Nat) (1179652 + 1) = true ∧
    1179652 % 2 = 0 ∧
    tokenCheck ((bankOf (fetched (tl 255 4) (↑2 : Nat) 1) (↑2 : Nat)).tok (↑3 : Nat)) (↑3 : Nat) [0] (BitVec.toInt (4 : Word)) 2 = Except.ok 1179652 ∧
    tokenCheck ((bankOf (fetched (tl 255 4) (↑2 : Nat) 1) (↑2 : Nat)).tok (↑3 : Nat)) (↑3 : Nat) [1, 4] (BitVec.toInt (4 : Word)) 2 = Except.ok 1179652 ∧
    IssuesLong (bm [0, 7, 4]) (↑2 : Nat) 0 false [0, 7, 4] ∧
    IssuesLong (bm [1, 7, 4]) (↑2 : Nat) 0 false [1, 7, 4] ∧
    (1 ≠ 0) ∧
    bmoveCheck ((bankOf (fetched (bm [1, 7, 4]) (↑2 : Nat) 2) (↑2 : Nat)).tok (↑3 : Nat)) ((bankOf (fetched (bm [1, 7, 4]) (↑2 : Nat) 2) (↑2 : Nat)).tok (↑3 : Nat)) (↑3 : Nat) (↑3 : Nat) (BitVec.toInt (4 : Word)) (BitVec.toInt (7 : Word)) (BitVec.toNat (1 : Word)) = none ∧
    1179652 = (((bankOf (fetched (bm [1, 7, 4]) (↑2 : Nat) 2) (↑2 : Nat)).tok (↑3 : Nat)).base + BitVec.toNat (4 : Word)) % 2 ^ 48 ∧
    1179655 = (((bankOf (fetched (bm [1, 7, 4]) (↑2 : Nat) 2) (↑2 : Nat)).tok (↑3 : Nat)).base + BitVec.toNat (7 : Word)) % 2 ^ 48 ∧
    spWord (fetched (bm [1, 7, 4]) (↑2 : Nat) 2) (↑2 : Nat) 1179652 = true ∧
    spWord (fetched (bm [1, 7, 4]) (↑2 : Nat) 2) (↑2 : Nat) 1179655 = true ∧
    1 = 1 ∧
    IssuesLong (bm [3, 7, 4]) (↑2 : Nat) 0 false [3, 7, 4] ∧
    (3 ≠ 0) ∧
    bmoveCheck ((bankOf (fetched (bm [3, 7, 4]) (↑2 : Nat) 2) (↑2 : Nat)).tok (↑3 : Nat)) ((bankOf (fetched (bm [3, 7, 4]) (↑2 : Nat) 2) (↑2 : Nat)).tok (↑3 : Nat)) (↑3 : Nat) (↑3 : Nat) (BitVec.toInt (4 : Word)) (BitVec.toInt (7 : Word)) (BitVec.toNat (3 : Word)) = none ∧
    1179652 = (((bankOf (fetched (bm [3, 7, 4]) (↑2 : Nat) 2) (↑2 : Nat)).tok (↑3 : Nat)).base + BitVec.toNat (4 : Word)) % 2 ^ 48 ∧
    1179655 = (((bankOf (fetched (bm [3, 7, 4]) (↑2 : Nat) 2) (↑2 : Nat)).tok (↑3 : Nat)).base + BitVec.toNat (7 : Word)) % 2 ^ 48 ∧
    spWord (fetched (bm [3, 7, 4]) (↑2 : Nat) 2) (↑2 : Nat) 1179652 = true ∧
    spWord (fetched (bm [3, 7, 4]) (↑2 : Nat) 2) (↑2 : Nat) 1179655 = true ∧
    (3 ≠ 1) := by
  and_intros <;> first | decide +kernel | exact okOf (by decide +kernel)

/-- States that meet the hypotheses of the clauses of SaveAndRestore. -/
theorem test_SaveAndRestore :
    Resumes (sv 0) (↑2 : Nat) 0 false [9, 6] ∧
    (coreOf (fetched (sv 0) (↑2 : Nat) 2) (↑2 : Nat)).step = 0 ∧
    1179648 = (((bankOf (fetched (sv 0) (↑2 : Nat) 2) (↑2 : Nat)).tok (↑3 : Nat)).base + 0) % 2 ^ 48 ∧
    spWord (fetched (sv 0) (↑2 : Nat) 2) (↑2 : Nat) 1179648 = true ∧
    saveCheck ((bankOf (fetched (sv 0) (↑2 : Nat) 2) (↑2 : Nat)).tok (↑3 : Nat)) (↑3 : Nat) false [1] = none ∧
    0 + 1 < 80 ∧
    saveCheck ((bankOf (fetched (sv 0) (↑2 : Nat) 2) (↑2 : Nat)).tok (↑3 : Nat)) (↑3 : Nat) true [1, 4] = none ∧
    0 < 198 ∧
    0 + 1 < 230 ∧
    Resumes (sv 79) (↑2 : Nat) 0 false [9, 6] ∧
    (coreOf (fetched (sv 79) (↑2 : Nat) 2) (↑2 : Nat)).step = 79 ∧
    1179727 = (((bankOf (fetched (sv 79) (↑2 : Nat) 2) (↑2 : Nat)).tok (↑3 : Nat)).base + 79) % 2 ^ 48 ∧
    spWord (fetched (sv 79) (↑2 : Nat) 2) (↑2 : Nat) 1179727 = true ∧
    saveCheck ((bankOf (fetched (sv 79) (↑2 : Nat) 2) (↑2 : Nat)).tok (↑3 : Nat)) (↑3 : Nat) false [1] = none ∧
    79 + 1 = 80 ∧
    Resumes (sv 198) (↑2 : Nat) 0 false [9, 6] ∧
    (coreOf (fetched (sv 198) (↑2 : Nat) 2) (↑2 : Nat)).step = 198 ∧
    1179846 = (((bankOf (fetched (sv 198) (↑2 : Nat) 2) (↑2 : Nat)).tok (↑3 : Nat)).base + 198) % 2 ^ 48 ∧
    spWord (fetched (sv 198) (↑2 : Nat) 2) (↑2 : Nat) 1179846 = true ∧
    saveCheck ((bankOf (fetched (sv 198) (↑2 : Nat) 2) (↑2 : Nat)).tok (↑3 : Nat)) (↑3 : Nat) true [1, 4] = none ∧
    198 ≤ 198 ∧
    198 < 230 ∧
    198 % 2 = 0 ∧
    spWord (fetched (sv 198) (↑2 : Nat) 2) (↑2 : Nat) (1179846 + 1) = true ∧
    Resumes (sv 229) (↑2 : Nat) 0 false [9, 6] ∧
    (coreOf (fetched (sv 229) (↑2 : Nat) 2) (↑2 : Nat)).step = 229 ∧
    1179877 = (((bankOf (fetched (sv 229) (↑2 : Nat) 2) (↑2 : Nat)).tok (↑3 : Nat)).base + 229) % 2 ^ 48 ∧
    spWord (fetched (sv 229) (↑2 : Nat) 2) (↑2 : Nat) 1179877 = true ∧
    saveCheck ((bankOf (fetched (sv 229) (↑2 : Nat) 2) (↑2 : Nat)).tok (↑3 : Nat)) (↑3 : Nat) true [1, 4] = none ∧
    198 ≤ 229 ∧
    229 < 230 ∧
    229 % 2 = 1 ∧
    Resumes (rs 0 false none) (↑2 : Nat) 0 false [6] ∧
    (coreOf (fetched (rs 0 false none) (↑2 : Nat) 2) (↑2 : Nat)).step = 0 ∧
    spWord (fetched (rs 0 false none) (↑2 : Nat) 2) (↑2 : Nat) 1179649 = true ∧
    (coreOf (fetched (rs 0 false none) (↑2 : Nat) 2) (↑2 : Nat)).hdr = none ∧
    1179649 = (((coreOf (fetched (rs 0 false none) (↑2 : Nat) 2) (↑2 : Nat)).cur.tok (↑3 : Nat)).base + 1) % 2 ^ 48 ∧
    saveCheck ((coreOf (fetched (rs 0 false none) (↑2 : Nat) 2) (↑2 : Nat)).cur.tok (↑3 : Nat)) (↑3 : Nat) false [0] = none ∧
    headerBad false (memRd (fetched (rs 0 false none) (↑2 : Nat) 2) 1179649) = false ∧
    Resumes (rs 0 true none) (↑2 : Nat) 0 false [6] ∧
    (coreOf (fetched (rs 0 true none) (↑2 : Nat) 2) (↑2 : Nat)).step = 0 ∧
    spWord (fetched (rs 0 true none) (↑2 : Nat) 2) (↑2 : Nat) 1179649 = true ∧
    (coreOf (fetched (rs 0 true none) (↑2 : Nat) 2) (↑2 : Nat)).hdr = none ∧
    1179649 = (((coreOf (fetched (rs 0 true none) (↑2 : Nat) 2) (↑2 : Nat)).cur.tok (↑3 : Nat)).base + 1) % 2 ^ 48 ∧
    saveCheck ((coreOf (fetched (rs 0 true none) (↑2 : Nat) 2) (↑2 : Nat)).cur.tok (↑3 : Nat)) (↑3 : Nat) true [0, 3] = none ∧
    headerBad true (memRd (fetched (rs 0 true none) (↑2 : Nat) 2) 1179649) = false ∧
    Resumes (rs 2 false (some (hd false))) (↑2 : Nat) 0 false [6] ∧
    (coreOf (fetched (rs 2 false (some (hd false))) (↑2 : Nat) 2) (↑2 : Nat)).step = 2 ∧
    spWord (fetched (rs 2 false (some (hd false))) (↑2 : Nat) 2) (↑2 : Nat) 1179650 = true ∧
    (coreOf (fetched (rs 2 false (some (hd false))) (↑2 : Nat) 2) (↑2 : Nat)).hdr = some (hd false) ∧
    2 ≤ 2 ∧
    1179650 = (((coreOf (fetched (rs 2 false (some (hd false))) (↑2 : Nat) 2) (↑2 : Nat)).cur.tok (↑3 : Nat)).base + 2) % 2 ^ 48 ∧
    saveCheck ((coreOf (fetched (rs 2 false (some (hd false))) (↑2 : Nat) 2) (↑2 : Nat)).cur.tok (↑3 : Nat)) (↑3 : Nat) false [0] = none ∧
    2 < 79 ∧
    2 < 198 ∧
    saveCheck ((coreOf (fetched (rs 2 false (some (hd false))) (↑2 : Nat) 2) (↑2 : Nat)).cur.tok (↑3 : Nat)) (↑3 : Nat) true [0, 3] = none ∧
    Resumes (rs 79 false (some (hd false))) (↑2 : Nat) 0 false [6] ∧
    (coreOf (fetched (rs 79 false (some (hd false))) (↑2 : Nat) 2) (↑2 : Nat)).step = 79 ∧
    spWord (fetched (rs 79 false (some (hd false))) (↑2 : Nat) 2) (↑2 : Nat) 1179727 = true ∧
    (coreOf (fetched (rs 79 false (some (hd false))) (↑2 : Nat) 2) (↑2 : Nat)).hdr = some (hd false) ∧
    2 ≤ 79 ∧
    1179727 = (((coreOf (fetched (rs 79 false (some (hd false))) (↑2 : Nat) 2) (↑2 : Nat)).cur.tok (↑3 : Nat)).base + 79) % 2 ^ 48 ∧
    saveCheck ((coreOf (fetched (rs 79 false (some (hd false))) (↑2 : Nat) 2) (↑2 : Nat)).cur.tok (↑3 : Nat)) (↑3 : Nat) false [0] = none ∧
    79 = 79 ∧
    ((have __src := if 79 < 5 then { ost := (coreOf (fetched (rs 79 false (some (hd false))) (↑2 : Nat) 2) (↑2 : Nat)).cur.ost, rst := (coreOf (fetched (rs 79 false (some (hd false))) (↑2 : Nat) 2) (↑2 : Nat)).cur.rst, ring := (coreOf (fetched (rs 79 false (some (hd false))) (↑2 : Nat) 2) (↑2 : Nat)).cur.ring, osp := (coreOf (fetched (rs 79 false (some (hd false))) (↑2 : Nat) 2) (↑2 : Nat)).cur.osp, rsp := (coreOf (fetched (rs 79 false (some (hd false))) (↑2 : Nat) 2) (↑2 : Nat)).cur.rsp, fd := (coreOf (fetched (rs 79 false (some (hd false))) (↑2 : Nat) 2) (↑2 : Nat)).cur.fd, ld := (coreOf (fetched (rs 79 false (some (hd false))) (↑2 : Nat) 2) (↑2 : Nat)).cur.ld, preds := (coreOf (fetched (rs 79 false (some (hd false))) (↑2 : Nat) 2) (↑2 : Nat)).cur.preds, lbeg := tset 0 (coreOf (fetched (rs 79 false (some (hd false))) (↑2 : Nat) 2) (↑2 : Nat)).cur.lbeg (79 - 2) (pcOfWord (memRd (fetched (rs 79 false (some (hd false))) (↑2 : Nat) 2) 1179727)), lend := (coreOf (fetched (rs 79 false (some (hd false))) (↑2 : Nat) 2) (↑2 : Nat)).cur.lend, lcnt := (coreOf (fetched (rs 79 false (some (hd false))) (↑2 : Nat) 2) (↑2 : Nat)).cur.lcnt, acc := (coreOf (fetched (rs 79 false (some (hd false))) (↑2 : Nat) 2) (↑2 : Nat)).cur.acc, accOvf := (coreOf (fetched (rs 79 false (some (hd false))) (↑2 : Nat) 2) (↑2 : Nat)).cur.accOvf, ph := (coreOf (fetched (rs 79 false (some (hd false))) (↑2 : Nat) 2) (↑2 : Nat)).cur.ph, pl := (coreOf (fetched (rs 79 false (some (hd false))) (↑2 : Nat) 2) (↑2 : Nat)).cur.pl, toks := (coreOf (fetched (rs 79 false (some (hd false))) (↑2 : Nat) 2) (↑2 : Nat)).cur.toks, resv := (coreOf (fetched (rs 79 false (some (hd false))) (↑2 : Nat) 2) (↑2 : Nat)).cur.resv : Bank } else if 79 < 8 then { ost := (coreOf (fetched (rs 79 false (some (hd false))) (↑2 : Nat) 2) (↑2 : Nat)).cur.ost, rst := (coreOf (fetched (rs 79 false (some (hd false))) (↑2 : Nat) 2) (↑2 : Nat)).cur.rst, ring := (coreOf (fetched (rs 79 false (some (hd false))) (↑2 : Nat) 2) (↑2 : Nat)).cur.ring, osp := (coreOf (fetched (rs 79 false (some (hd false))) (↑2 : Nat) 2) (↑2 : Nat)).cur.osp, rsp := (coreOf (fetched (rs 79 false (some (hd false))) (↑2 : Nat) 2) (↑2 : Nat)).cur.rsp, fd := (coreOf (fetched (rs 79 false (some (hd false))) (↑2 : Nat) 2) (↑2 : Nat)).cur.fd, ld := (coreOf (fetched (rs 79 false (some (hd false))) (↑2 : Nat) 2) (↑2 : Nat)).cur.ld, preds := (coreOf (fetched (rs 79 false (some (hd false))) (↑2 : Nat) 2) (↑2 : Nat)).cur.preds, lbeg := (coreOf (fetched (rs 79 false (some (hd false))) (↑2 : Nat) 2) (↑2 : Nat)).cur.lbeg, lend := tset 0 (coreOf (fetched (rs 79 false (some (hd false))) (↑2 : Nat) 2) (↑2 : Nat)).cur.lend (79 - 5) (pcOfWord (memRd (fetched (rs 79 false (some (hd false))) (↑2 : Nat) 2) 1179727)), lcnt := (coreOf (fetched (rs 79 false (some (hd false))) (↑2 : Nat) 2) (↑2 : Nat)).cur.lcnt, acc := (coreOf (fetched (rs 79 false (some (hd false))) (↑2 : Nat) 2) (↑2 : Nat)).cur.acc, accOvf := (coreOf (fetched (rs 79 false (some (hd false))) (↑2 : Nat) 2) (↑2 : Nat)).cur.accOvf, ph := (coreOf (fetched (rs 79 false (some (hd false))) (↑2 : Nat) 2) (↑2 : Nat)).cur.ph, pl := (coreOf (fetched (rs 79 false (some (hd false))) (↑2 : Nat) 2) (↑2 : Nat)).cur.pl, toks := (coreOf (fetched (rs 79 false (some (hd false))) (↑2 : Nat) 2) (↑2 : Nat)).cur.toks, resv := (coreOf (fetched (rs 79 false (some (hd false))) (↑2 : Nat) 2) (↑2 : Nat)).cur.resv : Bank } else if 79 < 11 then { ost := (coreOf (fetched (rs 79 false (some (hd false))) (↑2 : Nat) 2) (↑2 : Nat)).cur.ost, rst := (coreOf (fetched (rs 79 false (some (hd false))) (↑2 : Nat) 2) (↑2 : Nat)).cur.rst, ring := (coreOf (fetched (rs 79 false (some (hd false))) (↑2 : Nat) 2) (↑2 : Nat)).cur.ring, osp := (coreOf (fetched (rs 79 false (some (hd false))) (↑2 : Nat) 2) (↑2 : Nat)).cur.osp, rsp := (coreOf (fetched (rs 79 false (some (hd false))) (↑2 : Nat) 2) (↑2 : Nat)).cur.rsp, fd := (coreOf (fetched (rs 79 false (some (hd false))) (↑2 : Nat) 2) (↑2 : Nat)).cur.fd, ld := (coreOf (fetched (rs 79 false (some (hd false))) (↑2 : Nat) 2) (↑2 : Nat)).cur.ld, preds := (coreOf (fetched (rs 79 false (some (hd false))) (↑2 : Nat) 2) (↑2 : Nat)).cur.preds, lbeg := (coreOf (fetched (rs 79 false (some (hd false))) (↑2 : Nat) 2) (↑2 : Nat)).cur.lbeg, lend := (coreOf (fetched (rs 79 false (some (hd false))) (↑2 : Nat) 2) (↑2 : Nat)).cur.lend, lcnt := tset 0 (coreOf (fetched (rs 79 false (some (hd false))) (↑2 : Nat) 2) (↑2 : Nat)).cur.lcnt (79 - 8) (memRd (fetched (rs 79 false (some (hd false))) (↑2 : Nat) 2) 1179727), acc := (coreOf (fetched (rs 79 false (some (hd false))) (↑2 : Nat) 2) (↑2 : Nat)).cur.acc, accOvf := (coreOf (fetched (rs 79 false (some (hd false))) (↑2 : Nat) 2) (↑2 : Nat)).cur.accOvf, ph := (coreOf (fetched (rs 79 false (some (hd false))) (↑2 : Nat) 2) (↑2 : Nat)).cur.ph, pl := (coreOf (fetched (rs 79 false (some (hd false))) (↑2 : Nat) 2) (↑2 : Nat)).cur.pl, toks := (coreOf (fetched (rs 79 false (some (hd false))) (↑2 : Nat) 2) (↑2 : Nat)).cur.toks, resv := (coreOf (fetched (rs 79 false (some (hd false))) (↑2 : Nat) 2) (↑2 : Nat)).cur.resv : Bank } else if 79 < 14 then { ost := (coreOf (fetched (rs 79 false (some (hd false))) (↑2 : Nat) 2) (↑2 : Nat)).cur.ost, rst := (coreOf (fetched (rs 79 false (some (hd false))) (↑2 : Nat) 2) (↑2 : Nat)).cur.rst, ring := (coreOf (fetched (rs 79 false (some (hd false))) (↑2 : Nat) 2) (↑2 : Nat)).cur.ring, osp := (coreOf (fetched (rs 79 false (some (hd false))) (↑2 : Nat) 2) (↑2 : Nat)).cur.osp, rsp := (coreOf (fetched (rs 79 false (some (hd false))) (↑2 : Nat) 2) (↑2 : Nat)).cur.rsp, fd := (coreOf (fetched (rs 79 false (some (hd false))) (↑2 : Nat) 2) (↑2 : Nat)).cur.fd, ld := (coreOf (fetched (rs 79 false (some (hd false))) (↑2 : Nat) 2) (↑2 : Nat)).cur.ld, preds := (coreOf (fetched (rs 79 false (some (hd false))) (↑2 : Nat) 2) (↑2 : Nat)).cur.preds, lbeg := (coreOf (fetched (rs 79 false (some (hd false))) (↑2 : Nat) 2) (↑2 : Nat)).cur.lbeg, lend := (coreOf (fetched (rs 79 false (some (hd false))) (↑2 : Nat) 2) (↑2 : Nat)).cur.lend, lcnt := (coreOf (fetched (rs 79 false (some (hd false))) (↑2 : Nat) 2) (↑2 : Nat)).cur.lcnt, acc := accPart (coreOf (fetched (rs 79 false (some (hd false))) (↑2 : Nat) 2) (↑2 : Nat)).cur.acc (79 - 11) (memRd (fetched (rs 79 false (some (hd false))) (↑2 : Nat) 2) 1179727), accOvf := (coreOf (fetched (rs 79 false (some (hd false))) (↑2 : Nat) 2) (↑2 : Nat)).cur.accOvf, ph := (coreOf (fetched (rs 79 false (some (hd false))) (↑2 : Nat) 2) (↑2 : Nat)).cur.ph, pl := (coreOf (fetched (rs 79 false (some (hd false))) (↑2 : Nat) 2) (↑2 : Nat)).cur.pl, toks := (coreOf (fetched (rs 79 false (some (hd false))) (↑2 : Nat) 2) (↑2 : Nat)).cur.toks, resv := (coreOf (fetched (rs 79 false (some (hd false))) (↑2 : Nat) 2) (↑2 : Nat)).cur.resv : Bank } else if 79 = 14 then { ost := (coreOf (fetched (rs 79 false (some (hd false))) (↑2 : Nat) 2) (↑2 : Nat)).cur.ost, rst := (coreOf (fetched (rs 79 false (some (hd false))) (↑2 : Nat) 2) (↑2 : Nat)).cur.rst, ring := (coreOf (fetched (rs 79 false (some (hd false))) (↑2 : Nat) 2) (↑2 : Nat)).cur.ring, osp := (coreOf (fetched (rs 79 false (some (hd false))) (↑2 : Nat) 2) (↑2 : Nat)).cur.osp, rsp := (coreOf (fetched (rs 79 false (some (hd false))) (↑2 : Nat) 2) (↑2 : Nat)).cur.rsp, fd := (coreOf (fetched (rs 79 false (some (hd false))) (↑2 : Nat) 2) (↑2 : Nat)).cur.fd, ld := (coreOf (fetched (rs 79 false (some (hd false))) (↑2 : Nat) 2) (↑2 : Nat)).cur.ld, preds := (coreOf (fetched (rs 79 false (some (hd false))) (↑2 : Nat) 2) (↑2 : Nat)).cur.preds, lbeg := (coreOf (fetched (rs 79 false (some (hd false))) (↑2 : Nat) 2) (↑2 : Nat)).cur.lbeg, lend := (coreOf (fetched (rs 79 false (some (hd false))) (↑2 : Nat) 2) (↑2 : Nat)).cur.lend, lcnt := (coreOf (fetched (rs 79 false (some (hd false))) (↑2 : Nat) 2) (↑2 : Nat)).cur.lcnt, acc := (coreOf (fetched (rs 79 false (some (hd false))) (↑2 : Nat) 2) (↑2 : Nat)).cur.acc, accOvf := (coreOf (fetched (rs 79 false (some (hd false))) (↑2 : Nat) 2) (↑2 : Nat)).cur.accOvf, ph := memRd (fetched (rs 79 false (some (hd false))) (↑2 : Nat) 2) 1179727, pl := (coreOf (fetched (rs 79 false (some (hd false))) (↑2 : Nat) 2) (↑2 : Nat)).cur.pl, toks := (coreOf (fetched (rs 79 false (some (hd false))) (↑2 : Nat) 2) (↑2 : Nat)).cur.toks, resv := (coreOf (fetched (rs 79 false (some (hd false))) (↑2 : Nat) 2) (↑2 : Nat)).cur.resv : Bank } else if 79 = 15 then { ost := (coreOf (fetched (rs 79 false (some (hd false))) (↑2 : Nat) 2) (↑2 : Nat)).cur.ost, rst := (coreOf (fetched (rs 79 false (some (hd false))) (↑2 : Nat) 2) (↑2 : Nat)).cur.rst, ring := (coreOf (fetched (rs 79 false (some (hd false))) (↑2 : Nat) 2) (↑2 : Nat)).cur.ring, osp := (coreOf (fetched (rs 79 false (some (hd false))) (↑2 : Nat) 2) (↑2 : Nat)).cur.osp, rsp := (coreOf (fetched (rs 79 false (some (hd false))) (↑2 : Nat) 2) (↑2 : Nat)).cur.rsp, fd := (coreOf (fetched (rs 79 false (some (hd false))) (↑2 : Nat) 2) (↑2 : Nat)).cur.fd, ld := (coreOf (fetched (rs 79 false (some (hd false))) (↑2 : Nat) 2) (↑2 : Nat)).cur.ld, preds := (coreOf (fetched (rs 79 false (some (hd false))) (↑2 : Nat) 2) (↑2 : Nat)).cur.preds, lbeg := (coreOf (fetched (rs 79 false (some (hd false))) (↑2 : Nat) 2) (↑2 : Nat)).cur.lbeg, lend := (coreOf (fetched (rs 79 false (some (hd false))) (↑2 : Nat) 2) (↑2 : Nat)).cur.lend, lcnt := (coreOf (fetched (rs 79 false (some (hd false))) (↑2 : Nat) 2) (↑2 : Nat)).cur.lcnt, acc := (coreOf (fetched (rs 79 false (some (hd false))) (↑2 : Nat) 2) (↑2 : Nat)).cur.acc, accOvf := (coreOf (fetched (rs 79 false (some (hd false))) (↑2 : Nat) 2) (↑2 : Nat)).cur.accOvf, ph := (coreOf (fetched (rs 79 false (some (hd false))) (↑2 : Nat) 2) (↑2 : Nat)).cur.ph, pl := memRd (fetched (rs 79 false (some (hd false))) (↑2 : Nat) 2) 1179727, toks := (coreOf (fetched (rs 79 false (some (hd false))) (↑2 : Nat) 2) (↑2 : Nat)).cur.toks, resv := (coreOf (fetched (rs 79 false (some (hd false))) (↑2 : Nat) 2) (↑2 : Nat)).cur.resv : Bank } else if 79 < 48 then { ost := tset 0 (coreOf (fetched (rs 79 false (some (hd false))) (↑2 : Nat) 2) (↑2 : Nat)).cur.ost (79 - 16) (memRd (fetched (rs 79 false (some (hd false))) (↑2 : Nat) 2) 1179727), rst := (coreOf (fetched (rs 79 false (some (hd false))) (↑2 : Nat) 2) (↑2 : Nat)).cur.rst, ring := (coreOf (fetched (rs 79 false (some (hd false))) (↑2 : Nat) 2) (↑2 : Nat)).cur.ring, osp := (coreOf (fetched (rs 79 false (some (hd false))) (↑2 : Nat) 2) (↑2 : Nat)).cur.osp, rsp := (coreOf (fetched (rs 79 false (some (hd false))) (↑2 : Nat) 2) (↑2 : Nat)).cur.rsp, fd := (coreOf (fetched (rs 79 false (some (hd false))) (↑2 : Nat) 2) (↑2 : Nat)).cur.fd, ld := (coreOf (fetched (rs 79 false (some (hd false))) (↑2 : Nat) 2) (↑2 : Nat)).cur.ld, preds := (coreOf (fetched (rs 79 false (some (hd false))) (↑2 : Nat) 2) (↑2 : Nat)).cur.preds, lbeg := (coreOf (fetched (rs 79 false (some (hd false))) (↑2 : Nat) 2) (↑2 : Nat)).cur.lbeg, lend := (coreOf (fetched (rs 79 false (some (hd false))) (↑2 : Nat) 2) (↑2 : Nat)).cur.lend, lcnt := (coreOf (fetched (rs 79 false (some (hd false))) (↑2 : Nat) 2) (↑2 : Nat)).cur.lcnt, acc := (coreOf (fetched (rs 79 false (some (hd false))) (↑2 : Nat) 2) (↑2 : Nat)).cur.acc, accOvf := (coreOf (fetched (rs 79 false (some (hd false))) (↑2 : Nat) 2) (↑2 : Nat)).cur.accOvf, ph := (coreOf (fetched (rs 79 false (some (hd false))) (↑2 : Nat) 2) (↑2 : Nat)).cur.ph, pl := (coreOf (fetched (rs 79 false (some (hd false))) (↑2 : Nat) 2) (↑2 : Nat)).cur.pl, toks := (coreOf (fetched (rs 79 false (some (hd false))) (↑2 : Nat) 2) (↑2 : Nat)).cur.toks, resv := (coreOf (fetched (rs 79 false (some (hd false))) (↑2 : Nat) 2) (↑2 : Nat)).cur.resv : Bank } else { ost := (coreOf (fetched (rs 79 false (some (hd false))) (↑2 : Nat) 2) (↑2 : Nat)).cur.ost, rst := tset 0 (coreOf (fetched (rs 79 false (some (hd false))) (↑2 : Nat) 2) (↑2 : Nat)).cur.rst (79 - 48) (memRd (fetched (rs 79 false (some (hd false))) (↑2 : Nat) 2) 1179727), ring := (coreOf (fetched (rs 79 false (some (hd false))) (↑2 : Nat) 2) (↑2 : Nat)).cur.ring, osp := (coreOf (fetched (rs 79 false (some (hd false))) (↑2 : Nat) 2) (↑2 : Nat)).cur.osp, rsp := (coreOf (fetched (rs 79 false (some (hd false))) (↑2 : Nat) 2) (↑2 : Nat)).cur.rsp, fd := (coreOf (fetched (rs 79 false (some (hd false))) (↑2 : Nat) 2) (↑2 : Nat)).cur.fd, ld := (coreOf (fetched (rs 79 false (some (hd false))) (↑2 : Nat) 2) (↑2 : Nat)).cur.ld, preds := (coreOf (fetched (rs 79 false (some (hd false))) (↑2 : Nat) 2) (↑2 : Nat)).cur.preds, lbeg := (coreOf (fetched (rs 79 false (some (hd false))) (↑2 : Nat) 2) (↑2 : Nat)).cur.lbeg, lend := (coreOf (fetched (rs 79 false (some (hd false))) (↑2 : Nat) 2) (↑2 : Nat)).cur.lend, lcnt := (coreOf (fetched (rs 79 false (some (hd false))) (↑2 : Nat) 2) (↑2 : Nat)).cur.lcnt, acc := (coreOf (fetched (rs 79 false (some (hd false))) (↑2 : Nat) 2) (↑2 : Nat)).cur.acc, accOvf := (coreOf (fetched (rs 79 false (some (hd false))) (↑2 : Nat) 2) (↑2 : Nat)).cur.accOvf, ph := (coreOf (fetched (rs 79 false (some (hd false))) (↑2 : Nat) 2) (↑2 : Nat)).cur.ph, pl := (coreOf (fetched (rs 79 false (some (hd false))) (↑2 : Nat) 2) (↑2 : Nat)).cur.pl, toks := (coreOf (fetched (rs 79 false (some (hd false))) (↑2 : Nat) 2) (↑2 : Nat)).cur.toks, resv := (coreOf (fetched (rs 79 false (some (hd false))) (↑2 : Nat) 2) (↑2 : Nat)).cur.resv : Bank };       { ost := __src.ost, rst := __src.rst, ring := __src.ring, osp := { hi := 29, lo := 24 : Fld }.get (hd false), rsp := { hi := 23, lo := 18 : Fld }.get (hd false), fd := { hi := 17, lo := 14 : Fld }.get (hd false), ld := { hi := 13, lo := 12 : Fld }.get (hd false), preds := BitVec.toNat (hd false) % 256 / 2 * 2, lbeg := __src.lbeg, lend := __src.lend, lcnt := __src.lcnt, acc := __src.acc, accOvf := bitOf (hd false) 11, ph := __src.ph, pl := __src.pl, toks := __src.toks, resv := __src.resv : Bank }).ld =     0 ∨   (have __src := if 79 < 5 then { ost := (coreOf (fetched (rs 79 false (some (hd false))) (↑2 : Nat) 2) (↑2 : Nat)).cur.ost, rst := (coreOf (fetched (rs 79 false (some (hd false))) (↑2 : Nat) 2) (↑2 : Nat)).cur.rst, ring := (coreOf (fetched (rs 79 false (some (hd false))) (↑2 : Nat) 2) (↑2 : Nat)).cur.ring, osp := (coreOf (fetched (rs 79 false (some (hd false))) (↑2 : Nat) 2) (↑2 : Nat)).cur.osp, rsp := (coreOf (fetched (rs 79 false (some (hd false))) (↑2 : Nat) 2) (↑2 : Nat)).cur.rsp, fd := (coreOf (fetched (rs 79 false (some (hd false))) (↑2 : Nat) 2) (↑2 : Nat)).cur.fd, ld := (coreOf (fetched (rs 79 false (some (hd false))) (↑2 : Nat) 2) (↑2 : Nat)).cur.ld, preds := (coreOf (fetched (rs 79 false (some (hd false))) (↑2 : Nat) 2) (↑2 : Nat)).cur.preds, lbeg := tset 0 (coreOf (fetched (rs 79 false (some (hd false))) (↑2 : Nat) 2) (↑2 : Nat)).cur.lbeg (79 - 2) (pcOfWord (memRd (fetched (rs 79 false (some (hd false))) (↑2 : Nat) 2) 1179727)), lend := (coreOf (fetched (rs 79 false (some (hd false))) (↑2 : Nat) 2) (↑2 : Nat)).cur.lend, lcnt := (coreOf (fetched (rs 79 false (some (hd false))) (↑2 : Nat) 2) (↑2 : Nat)).cur.lcnt, acc := (coreOf (fetched (rs 79 false (some (hd false))) (↑2 : Nat) 2) (↑2 : Nat)).cur.acc, accOvf := (coreOf (fetched (rs 79 false (some (hd false))) (↑2 : Nat) 2) (↑2 : Nat)).cur.accOvf, ph := (coreOf (fetched (rs 79 false (some (hd false))) (↑2 : Nat) 2) (↑2 : Nat)).cur.ph, pl := (coreOf (fetched (rs 79 false (some (hd false))) (↑2 : Nat) 2) (↑2 : Nat)).cur.pl, toks := (coreOf (fetched (rs 79 false (some (hd false))) (↑2 : Nat) 2) (↑2 : Nat)).cur.toks, resv := (coreOf (fetched (rs 79 false (some (hd false))) (↑2 : Nat) 2) (↑2 : Nat)).cur.resv : Bank } else if 79 < 8 then { ost := (coreOf (fetched (rs 79 false (some (hd false))) (↑2 : Nat) 2) (↑2 : Nat)).cur.ost, rst := (coreOf (fetched (rs 79 false (some (hd false))) (↑2 : Nat) 2) (↑2 : Nat)).cur.rst, ring := (coreOf (fetched (rs 79 false (some (hd false))) (↑2 : Nat) 2) (↑2 : Nat)).cur.ring, osp := (coreOf (fetched (rs 79 false (some (hd false))) (↑2 : Nat) 2) (↑2 : Nat)).cur.osp, rsp := (coreOf (fetched (rs 79 false (some (hd false))) (↑2 : Nat) 2) (↑2 : Nat)).cur.rsp, fd := (coreOf (fetched (rs 79 false (some (hd false))) (↑2 : Nat) 2) (↑2 : Nat)).cur.fd, ld := (coreOf (fetched (rs 79 false (some (hd false))) (↑2 : Nat) 2) (↑2 : Nat)).cur.ld, preds := (coreOf (fetched (rs 79 false (some (hd false))) (↑2 : Nat) 2) (↑2 : Nat)).cur.preds, lbeg := (coreOf (fetched (rs 79 false (some (hd false))) (↑2 : Nat) 2) (↑2 : Nat)).cur.lbeg, lend := tset 0 (coreOf (fetched (rs 79 false (some (hd false))) (↑2 : Nat) 2) (↑2 : Nat)).cur.lend (79 - 5) (pcOfWord (memRd (fetched (rs 79 false (some (hd false))) (↑2 : Nat) 2) 1179727)), lcnt := (coreOf (fetched (rs 79 false (some (hd false))) (↑2 : Nat) 2) (↑2 : Nat)).cur.lcnt, acc := (coreOf (fetched (rs 79 false (some (hd false))) (↑2 : Nat) 2) (↑2 : Nat)).cur.acc, accOvf := (coreOf (fetched (rs 79 false (some (hd false))) (↑2 : Nat) 2) (↑2 : Nat)).cur.accOvf, ph := (coreOf (fetched (rs 79 false (some (hd false))) (↑2 : Nat) 2) (↑2 : Nat)).cur.ph, pl := (coreOf (fetched (rs 79 false (some (hd false))) (↑2 : Nat) 2) (↑2 : Nat)).cur.pl, toks := (coreOf (fetched (rs 79 false (some (hd false))) (↑2 : Nat) 2) (↑2 : Nat)).cur.toks, resv := (coreOf (fetched (rs 79 false (some (hd false))) (↑2 : Nat) 2) (↑2 : Nat)).cur.resv : Bank } else if 79 < 11 then { ost := (coreOf (fetched (rs 79 false (some (hd false))) (↑2 : Nat) 2) (↑2 : Nat)).cur.ost, rst := (coreOf (fetched (rs 79 false (some (hd false))) (↑2 : Nat) 2) (↑2 : Nat)).cur.rst, ring := (coreOf (fetched (rs 79 false (some (hd false))) (↑2 : Nat) 2) (↑2 : Nat)).cur.ring, osp := (coreOf (fetched (rs 79 false (some (hd false))) (↑2 : Nat) 2) (↑2 : Nat)).cur.osp, rsp := (coreOf (fetched (rs 79 false (some (hd false))) (↑2 : Nat) 2) (↑2 : Nat)).cur.rsp, fd := (coreOf (fetched (rs 79 false (some (hd false))) (↑2 : Nat) 2) (↑2 : Nat)).cur.fd, ld := (coreOf (fetched (rs 79 false (some (hd false))) (↑2 : Nat) 2) (↑2 : Nat)).cur.ld, preds := (coreOf (fetched (rs 79 false (some (hd false))) (↑2 : Nat) 2) (↑2 : Nat)).cur.preds, lbeg := (coreOf (fetched (rs 79 false (some (hd false))) (↑2 : Nat) 2) (↑2 : Nat)).cur.lbeg, lend := (coreOf (fetched (rs 79 false (some (hd false))) (↑2 : Nat) 2) (↑2 : Nat)).cur.lend, lcnt := tset 0 (coreOf (fetched (rs 79 false (some (hd false))) (↑2 : Nat) 2) (↑2 : Nat)).cur.lcnt (79 - 8) (memRd (fetched (rs 79 false (some (hd false))) (↑2 : Nat) 2) 1179727), acc := (coreOf (fetched (rs 79 false (some (hd false))) (↑2 : Nat) 2) (↑2 : Nat)).cur.acc, accOvf := (coreOf (fetched (rs 79 false (some (hd false))) (↑2 : Nat) 2) (↑2 : Nat)).cur.accOvf, ph := (coreOf (fetched (rs 79 false (some (hd false))) (↑2 : Nat) 2) (↑2 : Nat)).cur.ph, pl := (coreOf (fetched (rs 79 false (some (hd false))) (↑2 : Nat) 2) (↑2 : Nat)).cur.pl, toks := (coreOf (fetched (rs 79 false (some (hd false))) (↑2 : Nat) 2) (↑2 : Nat)).cur.toks, resv := (coreOf (fetched (rs 79 false (some (hd false))) (↑2 : Nat) 2) (↑2 : Nat)).cur.resv : Bank } else if 79 < 14 then { ost := (coreOf (fetched (rs 79 false (some (hd false))) (↑2 : Nat) 2) (↑2 : Nat)).cur.ost, rst := (coreOf (fetched (rs 79 false (some (hd false))) (↑2 : Nat) 2) (↑2 : Nat)).cur.rst, ring := (coreOf (fetched (rs 79 false (some (hd false))) (↑2 : Nat) 2) (↑2 : Nat)).cur.ring, osp := (coreOf (fetched (rs 79 false (some (hd false))) (↑2 : Nat) 2) (↑2 : Nat)).cur.osp, rsp := (coreOf (fetched (rs 79 false (some (hd false))) (↑2 : Nat) 2) (↑2 : Nat)).cur.rsp, fd := (coreOf (fetched (rs 79 false (some (hd false))) (↑2 : Nat) 2) (↑2 : Nat)).cur.fd, ld := (coreOf (fetched (rs 79 false (some (hd false))) (↑2 : Nat) 2) (↑2 : Nat)).cur.ld, preds := (coreOf (fetched (rs 79 false (some (hd false))) (↑2 : Nat) 2) (↑2 : Nat)).cur.preds, lbeg := (coreOf (fetched (rs 79 false (some (hd false))) (↑2 : Nat) 2) (↑2 : Nat)).cur.lbeg, lend := (coreOf (fetched (rs 79 false (some (hd false))) (↑2 : Nat) 2) (↑2 : Nat)).cur.lend, lcnt := (coreOf (fetched (rs 79 false (some (hd false))) (↑2 : Nat) 2) (↑2 : Nat)).cur.lcnt, acc := accPart (coreOf (fetched (rs 79 false (some (hd false))) (↑2 : Nat) 2) (↑2 : Nat)).cur.acc (79 - 11) (memRd (fetched (rs 79 false (some (hd false))) (↑2 : Nat) 2) 1179727), accOvf := (coreOf (fetched (rs 79 false (some (hd false))) (↑2 : Nat) 2) (↑2 : Nat)).cur.accOvf, ph := (coreOf (fetched (rs 79 false (some (hd false))) (↑2 : Nat) 2) (↑2 : Nat)).cur.ph, pl := (coreOf (fetched (rs 79 false (some (hd false))) (↑2 : Nat) 2) (↑2 : Nat)).cur.pl, toks := (coreOf (fetched (rs 79 false (some (hd false))) (↑2 : Nat) 2) (↑2 : Nat)).cur.toks, resv := (coreOf (fetched (rs 79 false (some (hd false))) (↑2 : Nat) 2) (↑2 : Nat)).cur.resv : Bank } else if 79 = 14 then { ost := (coreOf (fetched (rs 79 false (some (hd false))) (↑2 : Nat) 2) (↑2 : Nat)).cur.ost, rst := (coreOf (fetched (rs 79 false (some (hd false))) (↑2 : Nat) 2) (↑2 : Nat)).cur.rst, ring := (coreOf (fetched (rs 79 false (some (hd false))) (↑2 : Nat) 2) (↑2 : Nat)).cur.ring, osp := (coreOf (fetched (rs 79 false (some (hd false))) (↑2 : Nat) 2) (↑2 : Nat)).cur.osp, rsp := (coreOf (fetched (rs 79 false (some (hd false))) (↑2 : Nat) 2) (↑2 : Nat)).cur.rsp, fd := (coreOf (fetched (rs 79 false (some (hd false))) (↑2 : Nat) 2) (↑2 : Nat)).cur.fd, ld := (coreOf (fetched (rs 79 false (some (hd false))) (↑2 : Nat) 2) (↑2 : Nat)).cur.ld, preds := (coreOf (fetched (rs 79 false (some (hd false))) (↑2 : Nat) 2) (↑2 : Nat)).cur.preds, lbeg := (coreOf (fetched (rs 79 false (some (hd false))) (↑2 : Nat) 2) (↑2 : Nat)).cur.lbeg, lend := (coreOf (fetched (rs 79 false (some (hd false))) (↑2 : Nat) 2) (↑2 : Nat)).cur.lend, lcnt := (coreOf (fetched (rs 79 false (some (hd false))) (↑2 : Nat) 2) (↑2 : Nat)).cur.lcnt, acc := (coreOf (fetched (rs 79 false (some (hd false))) (↑2 : Nat) 2) (↑2 : Nat)).cur.acc, accOvf := (coreOf (fetched (rs 79 false (some (hd false))) (↑2 : Nat) 2) (↑2 : Nat)).cur.accOvf, ph := memRd (fetched (rs 79 false (some (hd false))) (↑2 : Nat) 2) 1179727, pl := (coreOf (fetched (rs 79 false (some (hd false))) (↑2 : Nat) 2) (↑2 : Nat)).cur.pl, toks := (coreOf (fetched (rs 79 false (some (hd false))) (↑2 : Nat) 2) (↑2 : Nat)).cur.toks, resv := (coreOf (fetched (rs 79 false (some (hd false))) (↑2 : Nat) 2) (↑2 : Nat)).cur.resv : Bank } else if 79 = 15 then { ost := (coreOf (fetched (rs 79 false (some (hd false))) (↑2 : Nat) 2) (↑2 : Nat)).cur.ost, rst := (coreOf (fetched (rs 79 false (some (hd false))) (↑2 : Nat) 2) (↑2 : Nat)).cur.rst, ring := (coreOf (fetched (rs 79 false (some (hd false))) (↑2 : Nat) 2) (↑2 : Nat)).cur.ring, osp := (coreOf (fetched (rs 79 false (some (hd false))) (↑2 : Nat) 2) (↑2 : Nat)).cur.osp, rsp := (coreOf (fetched (rs 79 false (some (hd false))) (↑2 : Nat) 2) (↑2 : Nat)).cur.rsp, fd := (coreOf (fetched (rs 79 false (some (hd false))) (↑2 : Nat) 2) (↑2 : Nat)).cur.fd, ld := (coreOf (fetched (rs 79 false (some (hd false))) (↑2 : Nat) 2) (↑2 : Nat)).cur.ld, preds := (coreOf (fetched (rs 79 false (some (hd false))) (↑2 : Nat) 2) (↑2 : Nat)).cur.preds, lbeg := (coreOf (fetched (rs 79 false (some (hd false))) (↑2 : Nat) 2) (↑2 : Nat)).cur.lbeg, lend := (coreOf (fetched (rs 79 false (some (hd false))) (↑2 : Nat) 2) (↑2 : Nat)).cur.lend, lcnt := (coreOf (fetched (rs 79 false (some (hd false))) (↑2 : Nat) 2) (↑2 : Nat)).cur.lcnt, acc := (coreOf (fetched (rs 79 false (some (hd false))) (↑2 : Nat) 2) (↑2 : Nat)).cur.acc, accOvf := (coreOf (fetched (rs 79 false (some (hd false))) (↑2 : Nat) 2) (↑2 : Nat)).cur.accOvf, ph := (coreOf (fetched (rs 79 false (some (hd false))) (↑2 : Nat) 2) (↑2 : Nat)).cur.ph, pl := memRd (fetched (rs 79 false (some (hd false))) (↑2 : Nat) 2) 1179727, toks := (coreOf (fetched (rs 79 false (some (hd false))) (↑2 : Nat) 2) (↑2 : Nat)).cur.toks, resv := (coreOf (fetched (rs 79 false (some (hd false))) (↑2 : Nat) 2) (↑2 : Nat)).cur.resv : Bank } else if 79 < 48 then { ost := tset 0 (coreOf (fetched (rs 79 false (some (hd false))) (↑2 : Nat) 2) (↑2 : Nat)).cur.ost (79 - 16) (memRd (fetched (rs 79 false (some (hd false))) (↑2 : Nat) 2) 1179727), rst := (coreOf (fetched (rs 79 false (some (hd false))) (↑2 : Nat) 2) (↑2 : Nat)).cur.rst, ring := (coreOf (fetched (rs 79 false (some (hd false))) (↑2 : Nat) 2) (↑2 : Nat)).cur.ring, osp := (coreOf (fetched (rs 79 false (some (hd false))) (↑2 : Nat) 2) (↑2 : Nat)).cur.osp, rsp := (coreOf (fetched (rs 79 false (some (hd false))) (↑2 : Nat) 2) (↑2 : Nat)).cur.rsp, fd := (coreOf (fetched (rs 79 false (some (hd false))) (↑2 : Nat) 2) (↑2 : Nat)).cur.fd, ld := (coreOf (fetched (rs 79 false (some (hd false))) (↑2 : Nat) 2) (↑2 : Nat)).cur.ld, preds := (coreOf (fetched (rs 79 false (some (hd false))) (↑2 : Nat) 2) (↑2 : Nat)).cur.preds, lbeg := (coreOf (fetched (rs 79 false (some (hd false))) (↑2 : Nat) 2) (↑2 : Nat)).cur.lbeg, lend := (coreOf (fetched (rs 79 false (some (hd false))) (↑2 : Nat) 2) (↑2 : Nat)).cur.lend, lcnt := (coreOf (fetched (rs 79 false (some (hd false))) (↑2 : Nat) 2) (↑2 : Nat)).cur.lcnt, acc := (coreOf (fetched (rs 79 false (some (hd false))) (↑2 : Nat) 2) (↑2 : Nat)).cur.acc, accOvf := (coreOf (fetched (rs 79 false (some (hd false))) (↑2 : Nat) 2) (↑2 : Nat)).cur.accOvf, ph := (coreOf (fetched (rs 79 false (some (hd false))) (↑2 : Nat) 2) (↑2 : Nat)).cur.ph, pl := (coreOf (fetched (rs 79 false (some (hd false))) (↑2 : Nat) 2) (↑2 : Nat)).cur.pl, toks := (coreOf (fetched (rs 79 false (some (hd false))) (↑2 : Nat) 2) (↑2 : Nat)).cur.toks, resv := (coreOf (fetched (rs 79 false (some (hd false))) (↑2 : Nat) 2) (↑2 : Nat)).cur.resv : Bank } else { ost := (coreOf (fetched (rs 79 false (some (hd false))) (↑2 : Nat) 2) (↑2 : Nat)).cur.ost, rst := tset 0 (coreOf (fetched (rs 79 false (some (hd false))) (↑2 : Nat) 2) (↑2 : Nat)).cur.rst (79 - 48) (memRd (fetched (rs 79 false (some (hd false))) (↑2 : Nat) 2) 1179727), ring := (coreOf (fetched (rs 79 false (some (hd false))) (↑2 : Nat) 2) (↑2 : Nat)).cur.ring, osp := (coreOf (fetched (rs 79 false (some (hd false))) (↑2 : Nat) 2) (↑2 : Nat)).cur.osp, rsp := (coreOf (fetched (rs 79 false (some (hd false))) (↑2 : Nat) 2) (↑2 : Nat)).cur.rsp, fd := (coreOf (fetched (rs 79 false (some (hd false))) (↑2 : Nat) 2) (↑2 : Nat)).cur.fd, ld := (coreOf (fetched (rs 79 false (some (hd false))) (↑2 : Nat) 2) (↑2 : Nat)).cur.ld, preds := (coreOf (fetched (rs 79 false (some (hd false))) (↑2 : Nat) 2) (↑2 : Nat)).cur.preds, lbeg := (coreOf (fetched (rs 79 false (some (hd false))) (↑2 : Nat) 2) (↑2 : Nat)).cur.lbeg, lend := (coreOf (fetched (rs 79 false (some (hd false))) (↑2 : Nat) 2) (↑2 : Nat)).cur.lend, lcnt := (coreOf (fetched (rs 79 false (some (hd false))) (↑2 : Nat) 2) (↑2 : Nat)).cur.lcnt, acc := (coreOf (fetched (rs 79 false (some (hd false))) (↑2 : Nat) 2) (↑2 : Nat)).cur.acc, accOvf := (coreOf (fetched (rs 79 false (some (hd false))) (↑2 : Nat) 2) (↑2 : Nat)).cur.accOvf, ph := (coreOf (fetched (rs 79 false (some (hd false))) (↑2 : Nat) 2) (↑2 : Nat)).cur.ph, pl := (coreOf (fetched (rs 79 false (some (hd false))) (↑2 : Nat) 2) (↑2 : Nat)).cur.pl, toks := (coreOf (fetched (rs 79 false (some (hd false))) (↑2 : Nat) 2) (↑2 : Nat)).cur.toks, resv := (coreOf (fetched (rs 79 false (some (hd false))) (↑2 : Nat) 2) (↑2 : Nat)).cur.resv : Bank };         { ost := __src.ost, rst := __src.rst, ring := __src.ring, osp := { hi := 29, lo := 24 : Fld }.get (hd false), rsp := { hi := 23, lo := 18 : Fld }.get (hd false), fd := { hi := 17, lo := 14 : Fld }.get (hd false), ld := { hi := 13, lo := 12 : Fld }.get (hd false), preds := BitVec.toNat (hd false) % 256 / 2 * 2, lbeg := __src.lbeg, lend := __src.lend, lcnt := __src.lcnt, acc := __src.acc, accOvf := bitOf (hd false) 11, ph := __src.ph, pl := __src.pl, toks := __src.toks, resv := __src.resv : Bank }).le       ((have __src := if 79 < 5 then { ost := (coreOf (fetched (rs 79 false (some (hd false))) (↑2 : Nat) 2) (↑2 : Nat)).cur.ost, rst := (coreOf (fetched (rs 79 false (some (hd false))) (↑2 : Nat) 2) (↑2 : Nat)).cur.rst, ring := (coreOf (fetched (rs 79 false (some (hd false))) (↑2 : Nat) 2) (↑2 : Nat)).cur.ring, osp := (coreOf (fetched (rs 79 false (some (hd false))) (↑2 : Nat) 2) (↑2 : Nat)).cur.osp, rsp := (coreOf (fetched (rs 79 false (some (hd false))) (↑2 : Nat) 2) (↑2 : Nat)).cur.rsp, fd := (coreOf (fetched (rs 79 false (some (hd false))) (↑2 : Nat) 2) (↑2 : Nat)).cur.fd, ld := (coreOf (fetched (rs 79 false (some (hd false))) (↑2 : Nat) 2) (↑2 : Nat)).cur.ld, preds := (coreOf (fetched (rs 79 false (some (hd false))) (↑2 : Nat) 2) (↑2 : Nat)).cur.preds, lbeg := tset 0 (coreOf (fetched (rs 79 false (some (hd false))) (↑2 : Nat) 2) (↑2 : Nat)).cur.lbeg (79 - 2) (pcOfWord (memRd (fetched (rs 79 false (some (hd false))) (↑2 : Nat) 2) 1179727)), lend := (coreOf (fetched (rs 79 false (some (hd false))) (↑2 : Nat) 2) (↑2 : Nat)).cur.lend, lcnt := (coreOf (fetched (rs 79 false (some (hd false))) (↑2 : Nat) 2) (↑2 : Nat)).cur.lcnt, acc := (coreOf (fetched (rs 79 false (some (hd false))) (↑2 : Nat) 2) (↑2 : Nat)).cur.acc, accOvf := (coreOf (fetched (rs 79 false (some (hd false))) (↑2 : Nat) 2) (↑2 : Nat)).cur.accOvf, ph := (coreOf (fetched (rs 79 false (some (hd false))) (↑2 : Nat) 2) (↑2 : Nat)).cur.ph, pl := (coreOf (fetched (rs 79 false (some (hd false))) (↑2 : Nat) 2) (↑2 : Nat)).cur.pl, toks := (coreOf (fetched (rs 79 false (some (hd false))) (↑2 : Nat) 2) (↑2 : Nat)).cur.toks, resv := (coreOf (fetched (rs 79 false (some (hd false))) (↑2 : Nat) 2) (↑2 : Nat)).cur.resv : Bank } else if 79 < 8 then { ost := (coreOf (fetched (rs 79 false (some (hd false))) (↑2 : Nat) 2) (↑2 : Nat)).cur.ost, rst := (coreOf (fetched (rs 79 false (some (hd false))) (↑2 : Nat) 2) (↑2 : Nat)).cur.rst, ring := (coreOf (fetched (rs 79 false (some (hd false))) (↑2 : Nat) 2) (↑2 : Nat)).cur.ring, osp := (coreOf (fetched (rs 79 false (some (hd false))) (↑2 : Nat) 2) (↑2 : Nat)).cur.osp, rsp := (coreOf (fetched (rs 79 false (some (hd false))) (↑2 : Nat) 2) (↑2 : Nat)).cur.rsp, fd := (coreOf (fetched (rs 79 false (some (hd false))) (↑2 : Nat) 2) (↑2 : Nat)).cur.fd, ld := (coreOf (fetched (rs 79 false (some (hd false))) (↑2 : Nat) 2) (↑2 : Nat)).cur.ld, preds := (coreOf (fetched (rs 79 false (some (hd false))) (↑2 : Nat) 2) (↑2 : Nat)).cur.preds, lbeg := (coreOf (fetched (rs 79 false (some (hd false))) (↑2 : Nat) 2) (↑2 : Nat)).cur.lbeg, lend := tset 0 (coreOf (fetched (rs 79 false (some (hd false))) (↑2 : Nat) 2) (↑2 : Nat)).cur.lend (79 - 5) (pcOfWord (memRd (fetched (rs 79 false (some (hd false))) (↑2 : Nat) 2) 1179727)), lcnt := (coreOf (fetched (rs 79 false (some (hd false))) (↑2 : Nat) 2) (↑2 : Nat)).cur.lcnt, acc := (coreOf (fetched (rs 79 false (some (hd false))) (↑2 : Nat) 2) (↑2 : Nat)).cur.acc, accOvf := (coreOf (fetched (rs 79 false (some (hd false))) (↑2 : Nat) 2) (↑2 : Nat)).cur.accOvf, ph := (coreOf (fetched (rs 79 false (some (hd false))) (↑2 : Nat) 2) (↑2 : Nat)).cur.ph, pl := (coreOf (fetched (rs 79 false (some (hd false))) (↑2 : Nat) 2) (↑2 : Nat)).cur.pl, toks := (coreOf (fetched (rs 79 false (some (hd false))) (↑2 : Nat) 2) (↑2 : Nat)).cur.toks, resv := (coreOf (fetched (rs 79 false (some (hd false))) (↑2 : Nat) 2) (↑2 : Nat)).cur.resv : Bank } else if 79 < 11 then { ost := (coreOf (fetched (rs 79 false (some (hd false))) (↑2 : Nat) 2) (↑2 : Nat)).cur.ost, rst := (coreOf (fetched (rs 79 false (some (hd false))) (↑2 : Nat) 2) (↑2 : Nat)).cur.rst, ring := (coreOf (fetched (rs 79 false (some (hd false))) (↑2 : Nat) 2) (↑2 : Nat)).cur.ring, osp := (coreOf (fetched (rs 79 false (some (hd false))) (↑2 : Nat) 2) (↑2 : Nat)).cur.osp, rsp := (coreOf (fetched (rs 79 false (some (hd false))) (↑2 : Nat) 2) (↑2 : Nat)).cur.rsp, fd := (coreOf (fetched (rs 79 false (some (hd false))) (↑2 : Nat) 2) (↑2 : Nat)).cur.fd, ld := (coreOf (fetched (rs 79 false (some (hd false))) (↑2 : Nat) 2) (↑2 : Nat)).cur.ld, preds := (coreOf (fetched (rs 79 false (some (hd false))) (↑2 : Nat) 2) (↑2 : Nat)).cur.preds, lbeg := (coreOf (fetched (rs 79 false (some (hd false))) (↑2 : Nat) 2) (↑2 : Nat)).cur.lbeg, lend := (coreOf (fetched (rs 79 false (some (hd false))) (↑2 : Nat) 2) (↑2 : Nat)).cur.lend, lcnt := tset 0 (coreOf (fetched (rs 79 false (some (hd false))) (↑2 : Nat) 2) (↑2 : Nat)).cur.lcnt (79 - 8) (memRd (fetched (rs 79 false (some (hd false))) (↑2 : Nat) 2) 1179727), acc := (coreOf (fetched (rs 79 false (some (hd false))) (↑2 : Nat) 2) (↑2 : Nat)).cur.acc, accOvf := (coreOf (fetched (rs 79 false (some (hd false))) (↑2 : Nat) 2) (↑2 : Nat)).cur.accOvf, ph := (coreOf (fetched (rs 79 false (some (hd false))) (↑2 : Nat) 2) (↑2 : Nat)).cur.ph, pl := (coreOf (fetched (rs 79 false (some (hd false))) (↑2 : Nat) 2) (↑2 : Nat)).cur.pl, toks := (coreOf (fetched (rs 79 false (some (hd false))) (↑2 : Nat) 2) (↑2 : Nat)).cur.toks, resv := (coreOf (fetched (rs 79 false (some (hd false))) (↑2 : Nat) 2) (↑2 : Nat)).cur.resv : Bank } else if 79 < 14 then { ost := (coreOf (fetched (rs 79 false (some (hd false))) (↑2 : Nat) 2) (↑2 : Nat)).cur.ost, rst := (coreOf (fetched (rs 79 false (some (hd false))) (↑2 : Nat) 2) (↑2 : Nat)).cur.rst, ring := (coreOf (fetched (rs 79 false (some (hd false))) (↑2 : Nat) 2) (↑2 : Nat)).cur.ring, osp := (coreOf (fetched (rs 79 false (some (hd false))) (↑2 : Nat) 2) (↑2 : Nat)).cur.osp, rsp := (coreOf (fetched (rs 79 false (some (hd false))) (↑2 : Nat) 2) (↑2 : Nat)).cur.rsp, fd := (coreOf (fetched (rs 79 false (some (hd false))) (↑2 : Nat) 2) (↑2 : Nat)).cur.fd, ld := (coreOf (fetched (rs 79 false (some (hd false))) (↑2 : Nat) 2) (↑2 : Nat)).cur.ld, preds := (coreOf (fetched (rs 79 false (some (hd false))) (↑2 : Nat) 2) (↑2 : Nat)).cur.preds, lbeg := (coreOf (fetched (rs 79 false (some (hd false))) (↑2 : Nat) 2) (↑2 : Nat)).cur.lbeg, lend := (coreOf (fetched (rs 79 false (some (hd false))) (↑2 : Nat) 2) (↑2 : Nat)).cur.lend, lcnt := (coreOf (fetched (rs 79 false (some (hd false))) (↑2 : Nat) 2) (↑2 : Nat)).cur.lcnt, acc := accPart (coreOf (fetched (rs 79 false (some (hd false))) (↑2 : Nat) 2) (↑2 : Nat)).cur.acc (79 - 11) (memRd (fetched (rs 79 false (some (hd false))) (↑2 : Nat) 2) 1179727), accOvf := (coreOf (fetched (rs 79 false (some (hd false))) (↑2 : Nat) 2) (↑2 : Nat)).cur.accOvf, ph := (coreOf (fetched (rs 79 false (some (hd false))) (↑2 : Nat) 2) (↑2 : Nat)).cur.ph, pl := (coreOf (fetched (rs 79 false (some (hd false))) (↑2 : Nat) 2) (↑2 : Nat)).cur.pl, toks := (coreOf (fetched (rs 79 false (some (hd false))) (↑2 : Nat) 2) (↑2 : Nat)).cur.toks, resv := (coreOf (fetched (rs 79 false (some (hd false))) (↑2 : Nat) 2) (↑2 : Nat)).cur.resv : Bank } else if 79 = 14 then { ost := (coreOf (fetched (rs 79 false (some (hd false))) (↑2 : Nat) 2) (↑2 : Nat)).cur.ost, rst := (coreOf (fetched (rs 79 false (some (hd false))) (↑2 : Nat) 2) (↑2 : Nat)).cur.rst, ring := (coreOf (fetched (rs 79 false (some (hd false))) (↑2 : Nat) 2) (↑2 : Nat)).cur.ring, osp := (coreOf (fetched (rs 79 false (some (hd false))) (↑2 : Nat) 2) (↑2 : Nat)).cur.osp, rsp := (coreOf (fetched (rs 79 false (some (hd false))) (↑2 : Nat) 2) (↑2 : Nat)).cur.rsp, fd := (coreOf (fetched (rs 79 false (some (hd false))) (↑2 : Nat) 2) (↑2 : Nat)).cur.fd, ld := (coreOf (fetched (rs 79 false (some (hd false))) (↑2 : Nat) 2) (↑2 : Nat)).cur.ld, preds := (coreOf (fetched (rs 79 false (some (hd false))) (↑2 : Nat) 2) (↑2 : Nat)).cur.preds, lbeg := (coreOf (fetched (rs 79 false (some (hd false))) (↑2 : Nat) 2) (↑2 : Nat)).cur.lbeg, lend := (coreOf (fetched (rs 79 false (some (hd false))) (↑2 : Nat) 2) (↑2 : Nat)).cur.lend, lcnt := (coreOf (fetched (rs 79 false (some (hd false))) (↑2 : Nat) 2) (↑2 : Nat)).cur.lcnt, acc := (coreOf (fetched (rs 79 false (some (hd false))) (↑2 : Nat) 2) (↑2 : Nat)).cur.acc, accOvf := (coreOf (fetched (rs 79 false (some (hd false))) (↑2 : Nat) 2) (↑2 : Nat)).cur.accOvf, ph := memRd (fetched (rs 79 false (some (hd false))) (↑2 : Nat) 2) 1179727, pl := (coreOf (fetched (rs 79 false (some (hd false))) (↑2 : Nat) 2) (↑2 : Nat)).cur.pl, toks := (coreOf (fetched (rs 79 false (some (hd false))) (↑2 : Nat) 2) (↑2 : Nat)).cur.toks, resv := (coreOf (fetched (rs 79 false (some (hd false))) (↑2 : Nat) 2) (↑2 : Nat)).cur.resv : Bank } else if 79 = 15 then { ost := (coreOf (fetched (rs 79 false (some (hd false))) (↑2 : Nat) 2) (↑2 : Nat)).cur.ost, rst := (coreOf (fetched (rs 79 false (some (hd false))) (↑2 : Nat) 2) (↑2 : Nat)).cur.rst, ring := (coreOf (fetched (rs 79 false (some (hd false))) (↑2 : Nat) 2) (↑2 : Nat)).cur.ring, osp := (coreOf (fetched (rs 79 false (some (hd false))) (↑2 : Nat) 2) (↑2 : Nat)).cur.osp, rsp := (coreOf (fetched (rs 79 false (some (hd false))) (↑2 : Nat) 2) (↑2 : Nat)).cur.rsp, fd := (coreOf (fetched (rs 79 false (some (hd false))) (↑2 : Nat) 2) (↑2 : Nat)).cur.fd, ld := (coreOf (fetched (rs 79 false (some (hd false))) (↑2 : Nat) 2) (↑2 : Nat)).cur.ld, preds := (coreOf (fetched (rs 79 false (some (hd false))) (↑2 : Nat) 2) (↑2 : Nat)).cur.preds, lbeg := (coreOf (fetched (rs 79 false (some (hd false))) (↑2 : Nat) 2) (↑2 : Nat)).cur.lbeg, lend := (coreOf (fetched (rs 79 false (some (hd false))) (↑2 : Nat) 2) (↑2 : Nat)).cur.lend, lcnt := (coreOf (fetched (rs 79 false (some (hd false))) (↑2 : Nat) 2) (↑2 : Nat)).cur.lcnt, acc := (coreOf (fetched (rs 79 false (some (hd false))) (↑2 : Nat) 2) (↑2 : Nat)).cur.acc, accOvf := (coreOf (fetched (rs 79 false (some (hd false))) (↑2 : Nat) 2) (↑2 : Nat)).cur.accOvf, ph := (coreOf (fetched (rs 79 false (some (hd false))) (↑2 : Nat) 2) (↑2 : Nat)).cur.ph, pl := memRd (fetched (rs 79 false (some (hd false))) (↑2 : Nat) 2) 1179727, toks := (coreOf (fetched (rs 79 false (some (hd false))) (↑2 : Nat) 2) (↑2 : Nat)).cur.toks, resv := (coreOf (fetched (rs 79 false (some (hd false))) (↑2 : Nat) 2) (↑2 : Nat)).cur.resv : Bank } else if 79 < 48 then { ost := tset 0 (coreOf (fetched (rs 79 false (some (hd false))) (↑2 : Nat) 2) (↑2 : Nat)).cur.ost (79 - 16) (memRd (fetched (rs 79 false (some (hd false))) (↑2 : Nat) 2) 1179727), rst := (coreOf (fetched (rs 79 false (some (hd false))) (↑2 : Nat) 2) (↑2 : Nat)).cur.rst, ring := (coreOf (fetched (rs 79 false (some (hd false))) (↑2 : Nat) 2) (↑2 : Nat)).cur.ring, osp := (coreOf (fetched (rs 79 false (some (hd false))) (↑2 : Nat) 2) (↑2 : Nat)).cur.osp, rsp := (coreOf (fetched (rs 79 false (some (hd false))) (↑2 : Nat) 2) (↑2 : Nat)).cur.rsp, fd := (coreOf (fetched (rs 79 false (some (hd false))) (↑2 : Nat) 2) (↑2 : Nat)).cur.fd, ld := (coreOf (fetched (rs 79 false (some (hd false))) (↑2 : Nat) 2) (↑2 : Nat)).cur.ld, preds := (coreOf (fetched (rs 79 false (some (hd false))) (↑2 : Nat) 2) (↑2 : Nat)).cur.preds, lbeg := (coreOf (fetched (rs 79 false (some (hd false))) (↑2 : Nat) 2) (↑2 : Nat)).cur.lbeg, lend := (coreOf (fetched (rs 79 false (some (hd false))) (↑2 : Nat) 2) (↑2 : Nat)).cur.lend, lcnt := (coreOf (fetched (rs 79 false (some (hd false))) (↑2 : Nat) 2) (↑2 : Nat)).cur.lcnt, acc := (coreOf (fetched (rs 79 false (some (hd false))) (↑2 : Nat) 2) (↑2 : Nat)).cur.acc, accOvf := (coreOf (fetched (rs 79 false (some (hd false))) (↑2 : Nat) 2) (↑2 : Nat)).cur.accOvf, ph := (coreOf (fetched (rs 79 false (some (hd false))) (↑2 : Nat) 2) (↑2 : Nat)).cur.ph, pl := (coreOf (fetched (rs 79 false (some (hd false))) (↑2 : Nat) 2) (↑2 : Nat)).cur.pl, toks := (coreOf (fetched (rs 79 false (some (hd false))) (↑2 : Nat) 2) (↑2 : Nat)).cur.toks, resv := (coreOf (fetched (rs 79 false (some (hd false))) (↑2 : Nat) 2) (↑2 : Nat)).cur.resv : Bank } else { ost := (coreOf (fetched (rs 79 false (some (hd false))) (↑2 : Nat) 2) (↑2 : Nat)).cur.ost, rst := tset 0 (coreOf (fetched (rs 79 false (some (hd false))) (↑2 : Nat) 2) (↑2 : Nat)).cur.rst (79 - 48) (memRd (fetched (rs 79 false (some (hd false))) (↑2 : Nat) 2) 1179727), ring := (coreOf (fetched (rs 79 false (some (hd false))) (↑2 : Nat) 2) (↑2 : Nat)).cur.ring, osp := (coreOf (fetched (rs 79 false (some (hd false))) (↑2 : Nat) 2) (↑2 : Nat)).cur.osp, rsp := (coreOf (fetched (rs 79 false (some (hd false))) (↑2 : Nat) 2) (↑2 : Nat)).cur.rsp, fd := (coreOf (fetched (rs 79 false (some (hd false))) (↑2 : Nat) 2) (↑2 : Nat)).cur.fd, ld := (coreOf (fetched (rs 79 false (some (hd false))) (↑2 : Nat) 2) (↑2 : Nat)).cur.ld, preds := (coreOf (fetched (rs 79 false (some (hd false))) (↑2 : Nat) 2) (↑2 : Nat)).cur.preds, lbeg := (coreOf (fetched (rs 79 false (some (hd false))) (↑2 : Nat) 2) (↑2 : Nat)).cur.lbeg, lend := (coreOf (fetched (rs 79 false (some (hd false))) (↑2 : Nat) 2) (↑2 : Nat)).cur.lend, lcnt := (coreOf (fetched (rs 79 false (some (hd false))) (↑2 : Nat) 2) (↑2 : Nat)).cur.lcnt, acc := (coreOf (fetched (rs 79 false (some (hd false))) (↑2 : Nat) 2) (↑2 : Nat)).cur.acc, accOvf := (coreOf (fetched (rs 79 false (some (hd false))) (↑2 : Nat) 2) (↑2 : Nat)).cur.accOvf, ph := (coreOf (fetched (rs 79 false (some (hd false))) (↑2 : Nat) 2) (↑2 : Nat)).cur.ph, pl := (coreOf (fetched (rs 79 false (some (hd false))) (↑2 : Nat) 2) (↑2 : Nat)).cur.pl, toks := (coreOf (fetched (rs 79 false (some (hd false))) (↑2 : Nat) 2) (↑2 : Nat)).cur.toks, resv := (coreOf (fetched (rs 79 false (some (hd false))) (↑2 : Nat) 2) (↑2 : Nat)).cur.resv : Bank };           { ost := __src.ost, rst := __src.rst, ring := __src.ring, osp := { hi := 29, lo := 24 : Fld }.get (hd false), rsp := { hi := 23, lo := 18 : Fld }.get (hd false), fd := { hi := 17, lo := 14 : Fld }.get (hd false), ld := { hi := 13, lo := 12 : Fld }.get (hd false), preds := BitVec.toNat (hd false) % 256 / 2 * 2, lbeg := __src.lbeg, lend := __src.lend, lcnt := __src.lcnt, acc := __src.acc, accOvf := bitOf (hd false) 11, ph := __src.ph, pl := __src.pl, toks := __src.toks, resv := __src.resv : Bank }).ld -         1) ≠     (coreOf (fetched (rs 79 false (some (hd false))) (↑2 : Nat) 2) (↑2 : Nat)).pc) ∧
    Resumes (rs 198 true (some (hd true))) (↑2 : Nat) 0 false [6] ∧
    (coreOf (fetched (rs 198 true (some (hd true))) (↑2 : Nat) 2) (↑2 : Nat)).step = 198 ∧
    spWord (fetched (rs 198 true (some (hd true))) (↑2 : Nat) 2) (↑2 : Nat) 1179846 = true ∧
    (coreOf (fetched (rs 198 true (some (hd true))) (↑2 : Nat) 2) (↑2 : Nat)).hdr = some (hd true) ∧
    1179846 = (((coreOf (fetched (rs 198 true (some (hd true))) (↑2 : Nat) 2) (↑2 : Nat)).cur.tok (↑3 : Nat)).base + 198) % 2 ^ 48 ∧
    spWord (fetched (rs 198 true (some (hd true))) (↑2 : Nat) 2) (↑2 : Nat) (1179846 + 1) = true ∧
    saveCheck ((coreOf (fetched (rs 198 true (some (hd true))) (↑2 : Nat) 2) (↑2 : Nat)).cur.tok (↑3 : Nat)) (↑3 : Nat) true [0, 3] = none ∧
    Resumes (rs 199 true (some (hd true))) (↑2 : Nat) 0 false [6] ∧
    (coreOf (fetched (rs 199 true (some (hd true))) (↑2 : Nat) 2) (↑2 : Nat)).step = 199 ∧
    spWord (fetched (rs 199 true (some (hd true))) (↑2 : Nat) 2) (↑2 : Nat) 1179847 = true ∧
    (coreOf (fetched (rs 199 true (some (hd true))) (↑2 : Nat) 2) (↑2 : Nat)).hdr = some (hd true) ∧
    198 ≤ 199 ∧
    199 < 229 ∧
    199 % 2 = 1 ∧
    saveCheck ((coreOf (fetched (rs 199 true (some (hd true))) (↑2 : Nat) 2) (↑2 : Nat)).cur.tok (↑3 : Nat)) (↑3 : Nat) true [0, 3] = none ∧
    Resumes (rs 229 true (some (hd true))) (↑2 : Nat) 0 false [6] ∧
    (coreOf (fetched (rs 229 true (some (hd true))) (↑2 : Nat) 2) (↑2 : Nat)).step = 229 ∧
    spWord (fetched (rs 229 true (some (hd true))) (↑2 : Nat) 2) (↑2 : Nat) 1179877 = true ∧
    (coreOf (fetched (rs 229 true (some (hd true))) (↑2 : Nat) 2) (↑2 : Nat)).hdr = some (hd true) ∧
    229 = 229 ∧
    saveCheck ((coreOf (fetched (rs 229 true (some (hd true))) (↑2 : Nat) 2) (↑2 : Nat)).cur.tok (↑3 : Nat)) (↑3 : Nat) true [0, 3] = none := by
  and_intros <;> decide +kernel

end W04

namespace W05

def tk (b l p o : Nat) : Tok := Tok.mk4 b l p o
def ln (d : Bool) : Line := ⟨0x2000 / 8, d, [10,11,12,13,14,15,16,17], [true, true, false, false], []⟩
def sv (ws : List Word) (o : Nat) (f : Core → Core) (g : Svc → Svc) : State :=
  { tOn with cores := [(8, f ((tCore 8 0 ws).withCur (fun b => { b with toks := [(3, tk 0x2000 0x100 0xFF 0), (15, tk 0 1 0xFF o)] })))],
             svc := [(8, g { Svc.zero with dUse := true, dc := [(wayKey 0x400 2, ln false)] })], mem := [(0x2003, 77), (0x2010, 5)] }
def tr : Trans := ⟨0x2003, true, false, 48⟩
def sCachedAccesses1 : State := sv [5] 0 id id
def lm (op : Word) (d : Bool) : State := sv [op] 0x20 (fun c => c.setSr 0x43 0x2003) (fun v => { v with dc := [(wayKey 0x400 2, ln d)], side := [ln false] })
def bg (op : Nat) : State := sv [] 0x20 (fun c => c.setSr 0x41 0x2C) (fun v => { v with dc := [(wayKey 0x400 2, ln true)], bgop := op, bgl := [0x400] })
def hi_ : Word := BitVec.ofNat 48 (0x5000 + 2^7 + 3)
def tb (op : Word) : State := sv [op] 0x20 (fun c => (c.setSr 0x50 hi_).setSr 0x51 0x6007) (fun v => { v with tlb := [(4, (BitVec.ofNat 48 (0x9000 + 2^7 + 3), 0x7007)), (5, (BitVec.ofNat 48 (0xA000 + 2^7 + 2^8 + 3), 0x8007))] })
def cc (op : Word) : State := sv [op] 0x20 id (fun v => { v with dc := [(wayKey 0x400 2, ln true)] })
def cd : State := sv [0x22] 0x20 (fun c => (c.setSr 0x45 0x122).setSr 0x41 0xC) (fun v => { v with l2on := true })
def ce : State := sv [0x22] 0x20 (fun c => (c.setSr 0x45 0x022).setSr 0x41 0x4D) (fun v => { v with l2on := true })
def cf : State := sv [0x22] 0x20 (fun c => (c.setSr 2 1)) (fun v => { v with dUse := false })
def fi : Fill := ⟨.load, .shared, 0x402, 0, some (4, 0), [], [], false⟩
def fb : State := sv [] 0x20 (fun c => (c.setSr 0x41 0xD)) (fun v => { v with fills := [fi] })
def wb : WcBuf := ⟨0x402, [(7, 99)], []⟩
def fw : State := sv [] 0x20 (fun c => (c.setSr 0x41 0xD)) (fun v => { v with wcb := some wb })
def cg2 : State := sv [0x124] 0x20 (fun c => (c.setSr 0x45 0x022).setSr 0x41 0x4D) (fun v => { v with l2on := true })
def up5 (b : Bool) : CacheUpset := ⟨b, 2, 0, 7, .multi⟩
def st5 : State := sv [] 0x20 id (fun v => { v with ic := [(256, ln false)] })

/-- States that meet the hypotheses of the clauses of CachedAccesses. -/
theorem test_CachedAccesses :
    8 ≤ (↑8 : Nat) ∧
    tr.cached = true ∧
    dServes (fetched sCachedAccesses1 (↑8 : Nat) 1) (↑8 : Nat) = true ∧
    (svcOf (fetched sCachedAccesses1 (↑8 : Nat) 1) (↑8 : Nat)).wcb = none ∧
    wpHit (fetched sCachedAccesses1 (↑8 : Nat) 1) (↑8 : Nat) tr.pa false = false ∧
    wpHit (fetched sCachedAccesses1 (↑8 : Nat) 1) (↑8 : Nat) tr.pa true = false ∧
    findWay (svcOf (fetched sCachedAccesses1 (↑8 : Nat) 1) (↑8 : Nat)).dc 8 (tr.pa / 8) = some 2 ∧
    (dLine (fetched sCachedAccesses1 (↑8 : Nat) 1) (↑8 : Nat) (tr.pa / 8) 2).ups = [] ∧
    Issues sCachedAccesses1 (↑8 : Nat) 1 [5] ∧
    [5].length < 32 ∧
    tokenCheck ((bankOf (fetched sCachedAccesses1 (↑8 : Nat) 1) (↑8 : Nat)).tok (↑3 : Nat)) (↑3 : Nat) [0] (↑(↑3 : Nat) : Int) 1 = Except.ok 8195 ∧
    translate (fetched sCachedAccesses1 (↑8 : Nat) 1) (↑8 : Nat) 8195 0 = Except.ok tr ∧
    tokenCheck ((bankOf (fetched sCachedAccesses1 (↑8 : Nat) 1) (↑8 : Nat)).tok (↑3 : Nat)) (↑3 : Nat) [1] (↑(↑3 : Nat) : Int) 1 = Except.ok 8195 ∧
    translate (fetched sCachedAccesses1 (↑8 : Nat) 1) (↑8 : Nat) 8195 1 = Except.ok tr ∧
    (svcOf fb (8 + (↑0 : Nat))).fills = [fi] ∧
    (svcOf fb (8 + (↑0 : Nat))).pfq = [] ∧
    clearingAt fb (8 * fi.line) = false ∧
    fi.want = some (4, fi.word) ∧
    fi.src = FillFrom.shared ∧
    fi.use = FillFor.load ∧
    fi.stores = [] ∧
    fi.tags = [] ∧
    fi.word < 8 ∧
    fi.line < 131072 ∧
    (∀ (i : Nat), i < 8 → arrayCode fb (8 * fi.line + i) = 0 ∧ upsetAt fb (upsetKey (8 * fi.line + i)) = Upset.none ∧ upsetAt fb (tagUpsetKey (8 * fi.line + i)) = Upset.none ∧ inL2 fb 8 (8 * fi.line + i) = false ∧ inL2 fb 9 (8 * fi.line + i) = false ∧ inPneRegion fb (8 * fi.line + i) = false ∧ inRlkTable fb (8 * fi.line + i) = false ∧ cptHidden fb (8 * fi.line + i) (corePort (8 + (↑0 : Nat))) = false) ∧
    (dAllocates fb (8 + (↑0 : Nat)) = true → dLine fb (8 + (↑0 : Nat)) fi.line (dVictim fb (8 + (↑0 : Nat)) fi.line) = Line.none_) ∧
    (svcOf fw (8 + (↑0 : Nat))).wcb = some W05.wb ∧
    W05.wb.line < 131072 ∧
    W05.wb.words.length = 1 ∧
    W05.wb.tags = [] ∧
    (∀ (p : Nat × Word), p ∈ W05.wb.words → arrayCode fw (8 * W05.wb.line + p.fst) = 0 ∧ 8 * W05.wb.line + p.fst < 1048576) ∧
    (svcOf st5 (8 + (↑0 : Nat))).fills = [] ∧
    ((tget Line.none_ (if (up5 false).inst = true then (svcOf st5 (8 + (↑0 : Nat))).ic else (svcOf st5 (8 + (↑0 : Nat))).dc) ((if (up5 false).inst = true then (↑(up5 false).way : Nat) % 4 else (↑(up5 false).way : Nat)) * 128 + (↑(up5 false).set : Nat))).words ≠ []) := by
  and_intros <;> first | decide +kernel | exact okOf (by decide +kernel)

/-- States that meet the hypotheses of the clauses of CacheMaintenance. -/
theorem test_CacheMaintenance :
    IssuesLong (lm 1 false) (8 + (↑0 : Nat)) 0 false [1] ∧
    (bankOf (lm 1 false) (8 + (↑0 : Nat))).peek 0 = 1 ∧
    ((bankOf (fetched (lm 1 false) (8 + (↑0 : Nat)) 2) (8 + (↑0 : Nat))).tok (↑15 : Nat)).tag = true ∧
    ((bankOf (fetched (lm 1 false) (8 + (↑0 : Nat)) 2) (8 + (↑0 : Nat))).tok (↑15 : Nat)).otype = 32 ∧
    srf (fetched (lm 1 false) (8 + (↑0 : Nat)) 2) (8 + (↑0 : Nat)) srSts { hi := 5, lo := 5 : Fld } = 0 ∧
    srf (fetched (lm 1 false) (8 + (↑0 : Nat)) 2) (8 + (↑0 : Nat)) srTlbctl { hi := 11, lo := 8 : Fld } = 0 ∧
    (coreOf (fetched (lm 1 false) (8 + (↑0 : Nat)) 2) (8 + (↑0 : Nat))).sr srCmaddr = 8195#48 ∧
    8195 < 1048576 ∧
    (svcOf (fetched (lm 1 false) (8 + (↑0 : Nat)) 2) (8 + (↑0 : Nat))).l2on = false ∧
    (svcOf (fetched (lm 1 false) (8 + (↑0 : Nat)) 2) (8 + (↑0 : Nat))).offers = [] ∧
    fillOf (fetched (lm 1 false) (8 + (↑0 : Nat)) 2) (8 + (↑0 : Nat)) (8195 / 8) = none ∧
    BitVec.toNat (1 : Word) % 8 = 1 ∧
    findWay (svcOf (fetched (lm 1 false) (8 + (↑0 : Nat)) 2) (8 + (↑0 : Nat))).dc 8 (8195 / 8) = some 2 ∧
    ln false = dLine (fetched (lm 1 false) (8 + (↑0 : Nat)) 2) (8 + (↑0 : Nat)) (8195 / 8) 2 ∧
    (ln false).dirty = false ∧
    IssuesLong (lm 1 true) (8 + (↑0 : Nat)) 0 false [1] ∧
    (bankOf (lm 1 true) (8 + (↑0 : Nat))).peek 0 = 1 ∧
    ((bankOf (fetched (lm 1 true) (8 + (↑0 : Nat)) 2) (8 + (↑0 : Nat))).tok (↑15 : Nat)).tag = true ∧
    ((bankOf (fetched (lm 1 true) (8 + (↑0 : Nat)) 2) (8 + (↑0 : Nat))).tok (↑15 : Nat)).otype = 32 ∧
    srf (fetched (lm 1 true) (8 + (↑0 : Nat)) 2) (8 + (↑0 : Nat)) srSts { hi := 5, lo := 5 : Fld } = 0 ∧
    srf (fetched (lm 1 true) (8 + (↑0 : Nat)) 2) (8 + (↑0 : Nat)) srTlbctl { hi := 11, lo := 8 : Fld } = 0 ∧
    (coreOf (fetched (lm 1 true) (8 + (↑0 : Nat)) 2) (8 + (↑0 : Nat))).sr srCmaddr = 8195#48 ∧
    (svcOf (fetched (lm 1 true) (8 + (↑0 : Nat)) 2) (8 + (↑0 : Nat))).l2on = false ∧
    (svcOf (fetched (lm 1 true) (8 + (↑0 : Nat)) 2) (8 + (↑0 : Nat))).offers = [] ∧
    fillOf (fetched (lm 1 true) (8 + (↑0 : Nat)) 2) (8 + (↑0 : Nat)) (8195 / 8) = none ∧
    findWay (svcOf (fetched (lm 1 true) (8 + (↑0 : Nat)) 2) (8 + (↑0 : Nat))).dc 8 (8195 / 8) = some 2 ∧
    ln true = dLine (fetched (lm 1 true) (8 + (↑0 : Nat)) 2) (8 + (↑0 : Nat)) (8195 / 8) 2 ∧
    (ln true).dirty = true ∧
    (ln true).words.length = 8 ∧
    (ln true).ups = [] ∧
    (∀ (i : Nat), i < 8 → arrayCode (fetched (lm 1 true) (8 + (↑0 : Nat)) 2) (8195 / 8 * 8 + i) = 0) ∧
    IssuesLong (lm 2 true) (8 + (↑0 : Nat)) 0 false [2] ∧
    (bankOf (lm 2 true) (8 + (↑0 : Nat))).peek 0 = 2 ∧
    ((bankOf (fetched (lm 2 true) (8 + (↑0 : Nat)) 2) (8 + (↑0 : Nat))).tok (↑15 : Nat)).tag = true ∧
    ((bankOf (fetched (lm 2 true) (8 + (↑0 : Nat)) 2) (8 + (↑0 : Nat))).tok (↑15 : Nat)).otype = 32 ∧
    srf (fetched (lm 2 true) (8 + (↑0 : Nat)) 2) (8 + (↑0 : Nat)) srSts { hi := 5, lo := 5 : Fld } = 0 ∧
    srf (fetched (lm 2 true) (8 + (↑0 : Nat)) 2) (8 + (↑0 : Nat)) srTlbctl { hi := 11, lo := 8 : Fld } = 0 ∧
    (coreOf (fetched (lm 2 true) (8 + (↑0 : Nat)) 2) (8 + (↑0 : Nat))).sr srCmaddr = 8195#48 ∧
    (svcOf (fetched (lm 2 true) (8 + (↑0 : Nat)) 2) (8 + (↑0 : Nat))).l2on = false ∧
    (svcOf (fetched (lm 2 true) (8 + (↑0 : Nat)) 2) (8 + (↑0 : Nat))).offers = [] ∧
    fillOf (fetched (lm 2 true) (8 + (↑0 : Nat)) 2) (8 + (↑0 : Nat)) (8195 / 8) = none ∧
    BitVec.toNat (2 : Word) % 8 = 2 ∧
    (∀ (j : Nat), j < 8 → findWay (svcOf (fetched (lm 2 true) (8 + (↑0 : Nat)) 2) (8 + (↑0 : Nat))).dc 8 (8195 / 8) ≠ some j → (dLine (fetched (lm 2 true) (8 + (↑0 : Nat)) 2) (8 + (↑0 : Nat)) (8195 / 8) j).words = [] ∨ (dLine (fetched (lm 2 true) (8 + (↑0 : Nat)) 2) (8 + (↑0 : Nat)) (8195 / 8) j).line ≠ 8195 / 8) ∧
    IssuesLong (lm 3 true) (8 + (↑0 : Nat)) 0 false [3] ∧
    (bankOf (lm 3 true) (8 + (↑0 : Nat))).peek 0 = 3 ∧
    ((bankOf (fetched (lm 3 true) (8 + (↑0 : Nat)) 2) (8 + (↑0 : Nat))).tok (↑15 : Nat)).tag = true ∧
    ((bankOf (fetched (lm 3 true) (8 + (↑0 : Nat)) 2) (8 + (↑0 : Nat))).tok (↑15 : Nat)).otype = 32 ∧
    srf (fetched (lm 3 true) (8 + (↑0 : Nat)) 2) (8 + (↑0 : Nat)) srSts { hi := 5, lo := 5 : Fld } = 0 ∧
    srf (fetched (lm 3 true) (8 + (↑0 : Nat)) 2) (8 + (↑0 : Nat)) srTlbctl { hi := 11, lo := 8 : Fld } = 0 ∧
    (coreOf (fetched (lm 3 true) (8 + (↑0 : Nat)) 2) (8 + (↑0 : Nat))).sr srCmaddr = 8195#48 ∧
    (svcOf (fetched (lm 3 true) (8 + (↑0 : Nat)) 2) (8 + (↑0 : Nat))).l2on = false ∧
    (svcOf (fetched (lm 3 true) (8 + (↑0 : Nat)) 2) (8 + (↑0 : Nat))).offers = [] ∧
    fillOf (fetched (lm 3 true) (8 + (↑0 : Nat)) 2) (8 + (↑0 : Nat)) (8195 / 8) = none ∧
    BitVec.toNat (3 : Word) % 8 = 3 ∧
    findWay (svcOf (fetched (lm 3 true) (8 + (↑0 : Nat)) 2) (8 + (↑0 : Nat))).dc 8 (8195 / 8) = some 2 ∧
    ln true = dLine (fetched (lm 3 true) (8 + (↑0 : Nat)) 2) (8 + (↑0 : Nat)) (8195 / 8) 2 ∧
    (∀ (i : Nat), i < 8 → arrayCode (fetched (lm 3 true) (8 + (↑0 : Nat)) 2) (8195 / 8 * 8 + i) = 0) ∧
    IssuesLong (lm 4 true) (8 + (↑0 : Nat)) 0 false [4] ∧
    (bankOf (lm 4 true) (8 + (↑0 : Nat))).peek 0 = 4 ∧
    ((bankOf (fetched (lm 4 true) (8 + (↑0 : Nat)) 2) (8 + (↑0 : Nat))).tok (↑15 : Nat)).tag = true ∧
    ((bankOf (fetched (lm 4 true) (8 + (↑0 : Nat)) 2) (8 + (↑0 : Nat))).tok (↑15 : Nat)).otype = 32 ∧
    srf (fetched (lm 4 true) (8 + (↑0 : Nat)) 2) (8 + (↑0 : Nat)) srSts { hi := 5, lo := 5 : Fld } = 0 ∧
    srf (fetched (lm 4 true) (8 + (↑0 : Nat)) 2) (8 + (↑0 : Nat)) srTlbctl { hi := 11, lo := 8 : Fld } = 0 ∧
    (coreOf (fetched (lm 4 true) (8 + (↑0 : Nat)) 2) (8 + (↑0 : Nat))).sr srCmaddr = 8195#48 ∧
    (svcOf (fetched (lm 4 true) (8 + (↑0 : Nat)) 2) (8 + (↑0 : Nat))).l2on = false ∧
    (svcOf (fetched (lm 4 true) (8 + (↑0 : Nat)) 2) (8 + (↑0 : Nat))).offers = [] ∧
    fillOf (fetched (lm 4 true) (8 + (↑0 : Nat)) 2) (8 + (↑0 : Nat)) (8195 / 8) = none ∧
    BitVec.toNat (4 : Word) % 8 = 4 ∧
    IssuesLong (lm 5 true) (8 + (↑0 : Nat)) 0 false [5] ∧
    (bankOf (lm 5 true) (8 + (↑0 : Nat))).peek 0 = 5 ∧
    ((bankOf (fetched (lm 5 true) (8 + (↑0 : Nat)) 2) (8 + (↑0 : Nat))).tok (↑15 : Nat)).tag = true ∧
    ((bankOf (fetched (lm 5 true) (8 + (↑0 : Nat)) 2) (8 + (↑0 : Nat))).tok (↑15 : Nat)).otype = 32 ∧
    srf (fetched (lm 5 true) (8 + (↑0 : Nat)) 2) (8 + (↑0 : Nat)) srSts { hi := 5, lo := 5 : Fld } = 0 ∧
    BitVec.toNat (5 : Word) % 8 = 5 ∧
    IssuesLong (lm 6 true) (8 + (↑0 : Nat)) 0 false [6] ∧
    (bankOf (lm 6 true) (8 + (↑0 : Nat))).peek 0 = 6 ∧
    ((bankOf (fetched (lm 6 true) (8 + (↑0 : Nat)) 2) (8 + (↑0 : Nat))).tok (↑15 : Nat)).tag = true ∧
    ((bankOf (fetched (lm 6 true) (8 + (↑0 : Nat)) 2) (8 + (↑0 : Nat))).tok (↑15 : Nat)).otype = 32 ∧
    srf (fetched (lm 6 true) (8 + (↑0 : Nat)) 2) (8 + (↑0 : Nat)) srSts { hi := 5, lo := 5 : Fld } = 0 ∧
    BitVec.toNat (6 : Word) % 8 = 6 ∧
    IssuesLong (lm 7 true) (8 + (↑0 : Nat)) 0 false [7] ∧
    (bankOf (lm 7 true) (8 + (↑0 : Nat))).peek 0 = 7 ∧
    ((bankOf (fetched (lm 7 true) (8 + (↑0 : Nat)) 2) (8 + (↑0 : Nat))).tok (↑15 : Nat)).tag = true ∧
    ((bankOf (fetched (lm 7 true) (8 + (↑0 : Nat)) 2) (8 + (↑0 : Nat))).tok (↑15 : Nat)).otype = 32 ∧
    srf (fetched (lm 7 true) (8 + (↑0 : Nat)) 2) (8 + (↑0 : Nat)) srSts { hi := 5, lo := 5 : Fld } = 0 ∧
    BitVec.toNat (7 : Word) % 8 = 7 ∧
    ((svcOf (bg 6) (8 + (↑0 : Nat))).bgop ≠ 0) ∧
    (∀ (f : Fill), f ∈ (svcOf (bg 6) (8 + (↑0 : Nat))).fills → ¬f.line ∈ (svcOf (bg 6) (8 + (↑0 : Nat))).bgl) := by
  and_intros <;> decide +kernel

/-- States that meet the hypotheses of the clauses of TranslationAndControl. -/
theorem test_TranslationAndControl :
    IssuesLong (tb 1025) (8 + (↑0 : Nat)) 0 false [1025] ∧
    (bankOf (tb 1025) (8 + (↑0 : Nat))).peek 0 = 1025 ∧
    ((bankOf (fetched (tb 1025) (8 + (↑0 : Nat)) 2) (8 + (↑0 : Nat))).tok (↑15 : Nat)).tag = true ∧
    ((bankOf (fetched (tb 1025) (8 + (↑0 : Nat)) 2) (8 + (↑0 : Nat))).tok (↑15 : Nat)).otype = 32 ∧
    (coreOf (fetched (tb 1025) (8 + (↑0 : Nat)) 2) (8 + (↑0 : Nat))).reqs = [] ∧
    4 = BitVec.toNat (1025 : Word) / 2 ^ 8 % 64 ∧
    BitVec.toNat (1025 : Word) % 8 = 1 ∧
    ((coreOf (tb 1025) (8 + (↑0 : Nat))).sr srWayen &&& ~~~1025 &&& 983295 ≠ 0) ∧
    IssuesLong (tb 770) (8 + (↑0 : Nat)) 0 false [770] ∧
    (bankOf (tb 770) (8 + (↑0 : Nat))).peek 0 = 770 ∧
    ((bankOf (fetched (tb 770) (8 + (↑0 : Nat)) 2) (8 + (↑0 : Nat))).tok (↑15 : Nat)).tag = true ∧
    ((bankOf (fetched (tb 770) (8 + (↑0 : Nat)) 2) (8 + (↑0 : Nat))).tok (↑15 : Nat)).otype = 32 ∧
    (coreOf (fetched (tb 770) (8 + (↑0 : Nat)) 2) (8 + (↑0 : Nat))).reqs = [] ∧
    3 = BitVec.toNat (770 : Word) / 2 ^ 8 % 64 ∧
    BitVec.toNat (770 : Word) % 8 = 2 ∧
    (tlbV ((coreOf (fetched (tb 770) (8 + (↑0 : Nat)) 2) (8 + (↑0 : Nat))).sr srTlbhi) = false ∨ tlbRefusal (fetched (tb 770) (8 + (↑0 : Nat)) 2) (8 + (↑0 : Nat)) 3 ((coreOf (fetched (tb 770) (8 + (↑0 : Nat)) 2) (8 + (↑0 : Nat))).sr srTlbhi) ((coreOf (fetched (tb 770) (8 + (↑0 : Nat)) 2) (8 + (↑0 : Nat))).sr srTlblo) = 0) ∧
    BitVec.getLsbD (770 : Word) 0 = false ∧
    (svcOf (fetched (tb 770) (8 + (↑0 : Nat)) 2) (8 + (↑0 : Nat))).dUse = true ∧
    (coreOf (fetched (tb 770) (8 + (↑0 : Nat)) 2) (8 + (↑0 : Nat))).detm = false ∧
    (svcOf (fetched (tb 770) (8 + (↑0 : Nat)) 2) (8 + (↑0 : Nat))).stream = false ∧
    BitVec.getLsbD (770 : Word) 8 = true ∧
    srf (fetched (tb 770) (8 + (↑0 : Nat)) 2) (8 + (↑0 : Nat)) srL2cfg { hi := 8, lo := 8 : Fld } = 0 ∧
    srf (fetched (tb 770) (8 + (↑0 : Nat)) 2) (8 + (↑0 : Nat)) srSts { hi := 6, lo := 6 : Fld } = 0 ∧
    (BitVec.toNat (770 : Word) % 16 % 2 ^ (BitVec.toNat (770 : Word) / 2 ^ 4 % 4) = 0 ∧ BitVec.toNat (770 : Word) % 16 + 2 ^ (BitVec.toNat (770 : Word) / 2 ^ 4 % 4) ≤ 16) ∧
    IssuesLong (tb 771) (8 + (↑0 : Nat)) 0 false [771] ∧
    (bankOf (tb 771) (8 + (↑0 : Nat))).peek 0 = 771 ∧
    ((bankOf (fetched (tb 771) (8 + (↑0 : Nat)) 2) (8 + (↑0 : Nat))).tok (↑15 : Nat)).tag = true ∧
    ((bankOf (fetched (tb 771) (8 + (↑0 : Nat)) 2) (8 + (↑0 : Nat))).tok (↑15 : Nat)).otype = 32 ∧
    (coreOf (fetched (tb 771) (8 + (↑0 : Nat)) 2) (8 + (↑0 : Nat))).reqs = [] ∧
    3 = BitVec.toNat (771 : Word) / 2 ^ 8 % 64 ∧
    BitVec.toNat (771 : Word) % 8 = 3 ∧
    IssuesLong (tb 772) (8 + (↑0 : Nat)) 0 false [772] ∧
    (bankOf (tb 772) (8 + (↑0 : Nat))).peek 0 = 772 ∧
    ((bankOf (fetched (tb 772) (8 + (↑0 : Nat)) 2) (8 + (↑0 : Nat))).tok (↑15 : Nat)).tag = true ∧
    ((bankOf (fetched (tb 772) (8 + (↑0 : Nat)) 2) (8 + (↑0 : Nat))).tok (↑15 : Nat)).otype = 32 ∧
    (coreOf (fetched (tb 772) (8 + (↑0 : Nat)) 2) (8 + (↑0 : Nat))).reqs = [] ∧
    3 = BitVec.toNat (772 : Word) / 2 ^ 8 % 64 ∧
    BitVec.toNat (772 : Word) % 8 = 4 ∧
    IssuesLong (tb 773) (8 + (↑0 : Nat)) 0 false [773] ∧
    (bankOf (tb 773) (8 + (↑0 : Nat))).peek 0 = 773 ∧
    ((bankOf (fetched (tb 773) (8 + (↑0 : Nat)) 2) (8 + (↑0 : Nat))).tok (↑15 : Nat)).tag = true ∧
    ((bankOf (fetched (tb 773) (8 + (↑0 : Nat)) 2) (8 + (↑0 : Nat))).tok (↑15 : Nat)).otype = 32 ∧
    (coreOf (fetched (tb 773) (8 + (↑0 : Nat)) 2) (8 + (↑0 : Nat))).reqs = [] ∧
    3 = BitVec.toNat (773 : Word) / 2 ^ 8 % 64 ∧
    BitVec.toNat (773 : Word) % 8 = 5 ∧
    IssuesLong (cc 289) (8 + (↑0 : Nat)) 0 false [289] ∧
    (bankOf (cc 289) (8 + (↑0 : Nat))).peek 0 = 289 ∧
    ((bankOf (fetched (cc 289) (8 + (↑0 : Nat)) 2) (8 + (↑0 : Nat))).tok (↑15 : Nat)).tag = true ∧
    ((bankOf (fetched (cc 289) (8 + (↑0 : Nat)) 2) (8 + (↑0 : Nat))).tok (↑15 : Nat)).otype = 32 ∧
    BitVec.getLsbD (289 : Word) 8 = true ∧
    srf (fetched (cc 289) (8 + (↑0 : Nat)) 2) (8 + (↑0 : Nat)) srL2cfg { hi := 8, lo := 8 : Fld } = 0 ∧
    (¬(BitVec.toNat (289 : Word) % 16 % 2 ^ (BitVec.toNat (289 : Word) / 2 ^ 4 % 4) = 0 ∧ BitVec.toNat (289 : Word) % 16 + 2 ^ (BitVec.toNat (289 : Word) / 2 ^ 4 % 4) ≤ 16)) ∧
    IssuesLong cd (8 + (↑0 : Nat)) 0 false [34] ∧
    (bankOf cd (8 + (↑0 : Nat))).peek 0 = 34 ∧
    ((bankOf (fetched cd (8 + (↑0 : Nat)) 2) (8 + (↑0 : Nat))).tok (↑15 : Nat)).tag = true ∧
    ((bankOf (fetched cd (8 + (↑0 : Nat)) 2) (8 + (↑0 : Nat))).tok (↑15 : Nat)).otype = 32 ∧
    BitVec.getLsbD (34 : Word) 8 = false ∧
    srf (fetched cd (8 + (↑0 : Nat)) 2) (8 + (↑0 : Nat)) srL2cfg { hi := 8, lo := 8 : Fld } = 1 ∧
    dCleaning ce (8 + (↑0 : Nat)) = true ∧
    (svcOf ce (8 + (↑0 : Nat))).fills = [] ∧
    srf ce (8 + (↑0 : Nat)) srSts { hi := 6, lo := 6 : Fld } = 1 ∧
    (coreOf cf (8 + (↑0 : Nat))).detm = true ∧
    (coreOf cf (8 + (↑0 : Nat))).detmAct = false ∧
    (svcOf cf (8 + (↑0 : Nat))).dUse = false ∧
    (svcOf cf (8 + (↑0 : Nat))).iUse = false ∧
    IssuesLong cg2 (8 + (↑0 : Nat)) 0 false [292] ∧
    (bankOf cg2 (8 + (↑0 : Nat))).peek 0 = 292 ∧
    ((bankOf (fetched cg2 (8 + (↑0 : Nat)) 2) (8 + (↑0 : Nat))).tok (↑15 : Nat)).tag = true ∧
    ((bankOf (fetched cg2 (8 + (↑0 : Nat)) 2) (8 + (↑0 : Nat))).tok (↑15 : Nat)).otype = 32 ∧
    BitVec.getLsbD (292 : Word) 8 = true ∧
    srf (fetched cg2 (8 + (↑0 : Nat)) 2) (8 + (↑0 : Nat)) srL2cfg { hi := 8, lo := 8 : Fld } = 0 ∧
    srf (fetched cg2 (8 + (↑0 : Nat)) 2) (8 + (↑0 : Nat)) srSts { hi := 6, lo := 6 : Fld } = 1 ∧
    (BitVec.toNat (292 : Word) % 16 % 2 ^ (BitVec.toNat (292 : Word) / 2 ^ 4 % 4) = 0 ∧ BitVec.toNat (292 : Word) % 16 + 2 ^ (BitVec.toNat (292 : Word) / 2 ^ 4 % 4) ≤ 16) := by
  and_intros <;> decide +kernel

/-- States that meet the hypotheses of the clauses of SupervisorWritesComplete. -/
theorem test_SupervisorWritesComplete :
    IssuesLong (lm 1 true) (8 + (↑0 : Nat)) 0 false [1] ∧
    (bankOf (lm 1 true) (8 + (↑0 : Nat))).peek 0 = 1 ∧
    ((bankOf (fetched (lm 1 true) (8 + (↑0 : Nat)) 2) (8 + (↑0 : Nat))).tok (↑15 : Nat)).tag = true ∧
    ((bankOf (fetched (lm 1 true) (8 + (↑0 : Nat)) 2) (8 + (↑0 : Nat))).tok (↑15 : Nat)).otype = 32 ∧
    BitVec.toNat (1 : Word) % 8 = 1 ∧
    (srf (fetched (lm 1 true) (8 + (↑0 : Nat)) 2) (8 + (↑0 : Nat)) srSts { hi := 5, lo := 5 : Fld } = 0 ∧ fillOf (fetched (lm 1 true) (8 + (↑0 : Nat)) 2) (8 + (↑0 : Nat)) (tr.pa / 8) = none) ∧
    translate (fetched (lm 1 true) (8 + (↑0 : Nat)) 2) (8 + (↑0 : Nat)) (BitVec.toNat ((coreOf (fetched (lm 1 true) (8 + (↑0 : Nat)) 2) (8 + (↑0 : Nat))).sr srCmaddr)) 0 = Except.ok tr ∧
    (coreOf (fetched (lm 1 true) (8 + (↑0 : Nat)) 2) (8 + (↑0 : Nat))).reqs = [] ∧
    BitVec.getLsbD (1 : Word) 8 = false ∧
    ((coreOf (lm 1 true) (8 + (↑0 : Nat))).sr srWayen &&& ~~~1 &&& 983295 ≠ 0) ∧
    IssuesLong (lm 2 true) (8 + (↑0 : Nat)) 0 false [2] ∧
    (bankOf (lm 2 true) (8 + (↑0 : Nat))).peek 0 = 2 ∧
    ((bankOf (fetched (lm 2 true) (8 + (↑0 : Nat)) 2) (8 + (↑0 : Nat))).tok (↑15 : Nat)).tag = true ∧
    ((bankOf (fetched (lm 2 true) (8 + (↑0 : Nat)) 2) (8 + (↑0 : Nat))).tok (↑15 : Nat)).otype = 32 ∧
    BitVec.toNat (2 : Word) % 8 = 2 ∧
    (srf (fetched (lm 2 true) (8 + (↑0 : Nat)) 2) (8 + (↑0 : Nat)) srSts { hi := 5, lo := 5 : Fld } = 0 ∧ fillOf (fetched (lm 2 true) (8 + (↑0 : Nat)) 2) (8 + (↑0 : Nat)) (tr.pa / 8) = none) ∧
    translate (fetched (lm 2 true) (8 + (↑0 : Nat)) 2) (8 + (↑0 : Nat)) (BitVec.toNat ((coreOf (fetched (lm 2 true) (8 + (↑0 : Nat)) 2) (8 + (↑0 : Nat))).sr srCmaddr)) 1 = Except.ok tr ∧
    (tlbV ((coreOf (fetched (lm 2 true) (8 + (↑0 : Nat)) 2) (8 + (↑0 : Nat))).sr srTlbhi) = false → (coreOf (fetched (lm 2 true) (8 + (↑0 : Nat)) 2) (8 + (↑0 : Nat))).reqs = []) ∧
    BitVec.getLsbD (2 : Word) 0 = false ∧
    IssuesLong (lm 3 true) (8 + (↑0 : Nat)) 0 false [3] ∧
    (bankOf (lm 3 true) (8 + (↑0 : Nat))).peek 0 = 3 ∧
    ((bankOf (fetched (lm 3 true) (8 + (↑0 : Nat)) 2) (8 + (↑0 : Nat))).tok (↑15 : Nat)).tag = true ∧
    ((bankOf (fetched (lm 3 true) (8 + (↑0 : Nat)) 2) (8 + (↑0 : Nat))).tok (↑15 : Nat)).otype = 32 ∧
    BitVec.toNat (3 : Word) % 8 = 3 ∧
    (srf (fetched (lm 3 true) (8 + (↑0 : Nat)) 2) (8 + (↑0 : Nat)) srSts { hi := 5, lo := 5 : Fld } = 0 ∧ fillOf (fetched (lm 3 true) (8 + (↑0 : Nat)) 2) (8 + (↑0 : Nat)) (tr.pa / 8) = none) ∧
    translate (fetched (lm 3 true) (8 + (↑0 : Nat)) 2) (8 + (↑0 : Nat)) (BitVec.toNat ((coreOf (fetched (lm 3 true) (8 + (↑0 : Nat)) 2) (8 + (↑0 : Nat))).sr srCmaddr)) 1 = Except.ok tr ∧
    IssuesLong (lm 4 true) (8 + (↑0 : Nat)) 0 false [4] ∧
    (bankOf (lm 4 true) (8 + (↑0 : Nat))).peek 0 = 4 ∧
    ((bankOf (fetched (lm 4 true) (8 + (↑0 : Nat)) 2) (8 + (↑0 : Nat))).tok (↑15 : Nat)).tag = true ∧
    ((bankOf (fetched (lm 4 true) (8 + (↑0 : Nat)) 2) (8 + (↑0 : Nat))).tok (↑15 : Nat)).otype = 32 ∧
    BitVec.toNat (4 : Word) % 8 = 4 ∧
    (srf (fetched (lm 4 true) (8 + (↑0 : Nat)) 2) (8 + (↑0 : Nat)) srSts { hi := 5, lo := 5 : Fld } = 0 ∧ fillOf (fetched (lm 4 true) (8 + (↑0 : Nat)) 2) (8 + (↑0 : Nat)) (tr.pa / 8) = none) ∧
    translate (fetched (lm 4 true) (8 + (↑0 : Nat)) 2) (8 + (↑0 : Nat)) (BitVec.toNat ((coreOf (fetched (lm 4 true) (8 + (↑0 : Nat)) 2) (8 + (↑0 : Nat))).sr srCmaddr)) 2 = Except.ok tr ∧
    (coreOf (fetched (lm 4 true) (8 + (↑0 : Nat)) 2) (8 + (↑0 : Nat))).reqs = [] ∧
    IssuesLong (lm 5 true) (8 + (↑0 : Nat)) 0 false [5] ∧
    (bankOf (lm 5 true) (8 + (↑0 : Nat))).peek 0 = 5 ∧
    ((bankOf (fetched (lm 5 true) (8 + (↑0 : Nat)) 2) (8 + (↑0 : Nat))).tok (↑15 : Nat)).tag = true ∧
    ((bankOf (fetched (lm 5 true) (8 + (↑0 : Nat)) 2) (8 + (↑0 : Nat))).tok (↑15 : Nat)).otype = 32 ∧
    BitVec.toNat (5 : Word) % 8 = 5 ∧
    srf (fetched (lm 5 true) (8 + (↑0 : Nat)) 2) (8 + (↑0 : Nat)) srSts { hi := 5, lo := 5 : Fld } = 0 ∧
    (coreOf (fetched (lm 5 true) (8 + (↑0 : Nat)) 2) (8 + (↑0 : Nat))).reqs = [] ∧
    IssuesLong (lm 6 true) (8 + (↑0 : Nat)) 0 false [6] ∧
    (bankOf (lm 6 true) (8 + (↑0 : Nat))).peek 0 = 6 ∧
    ((bankOf (fetched (lm 6 true) (8 + (↑0 : Nat)) 2) (8 + (↑0 : Nat))).tok (↑15 : Nat)).tag = true ∧
    ((bankOf (fetched (lm 6 true) (8 + (↑0 : Nat)) 2) (8 + (↑0 : Nat))).tok (↑15 : Nat)).otype = 32 ∧
    BitVec.toNat (6 : Word) % 8 = 6 ∧
    srf (fetched (lm 6 true) (8 + (↑0 : Nat)) 2) (8 + (↑0 : Nat)) srSts { hi := 5, lo := 5 : Fld } = 0 ∧
    IssuesLong (lm 7 true) (8 + (↑0 : Nat)) 0 false [7] ∧
    (bankOf (lm 7 true) (8 + (↑0 : Nat))).peek 0 = 7 ∧
    ((bankOf (fetched (lm 7 true) (8 + (↑0 : Nat)) 2) (8 + (↑0 : Nat))).tok (↑15 : Nat)).tag = true ∧
    ((bankOf (fetched (lm 7 true) (8 + (↑0 : Nat)) 2) (8 + (↑0 : Nat))).tok (↑15 : Nat)).otype = 32 ∧
    BitVec.toNat (7 : Word) % 8 = 7 ∧
    srf (fetched (lm 7 true) (8 + (↑0 : Nat)) 2) (8 + (↑0 : Nat)) srSts { hi := 5, lo := 5 : Fld } = 0 ∧
    IssuesLong (tb 770) (8 + (↑0 : Nat)) 0 false [770] ∧
    (bankOf (tb 770) (8 + (↑0 : Nat))).peek 0 = 770 ∧
    ((bankOf (fetched (tb 770) (8 + (↑0 : Nat)) 2) (8 + (↑0 : Nat))).tok (↑15 : Nat)).tag = true ∧
    ((bankOf (fetched (tb 770) (8 + (↑0 : Nat)) 2) (8 + (↑0 : Nat))).tok (↑15 : Nat)).otype = 32 ∧
    BitVec.getLsbD (770 : Word) 8 = true ∧
    (srf (fetched (tb 770) (8 + (↑0 : Nat)) 2) (8 + (↑0 : Nat)) srL2cfg { hi := 8, lo := 8 : Fld } = 1 ∨ BitVec.toNat (770 : Word) % 16 % 2 ^ (BitVec.toNat (770 : Word) / 2 ^ 4 % 4) = 0 ∧ BitVec.toNat (770 : Word) % 16 + 2 ^ (BitVec.toNat (770 : Word) / 2 ^ 4 % 4) ≤ 16) := by
  and_intros <;> first | decide +kernel | exact okOf (by decide +kernel)

end W05

namespace W06

def sm (g o : Word) (cal : Nat) : State := { tCvp (tF tOn [(cvpLaneen, cvpLaneenINGEN, 8), (cvpChcfg 0x13, cvpChcfgEN, 1), (cvpChcfg 0x13, cvpChcfgCALOK, cal)]) (fun c => { c with cal := [(0x13, ⟨g, o⟩)] }) with port := 2000 }
def w0 (k : WordKind) (c : Nat) : EdgeWord := ⟨k, 0x13, 1, 2, 3, c, 5⟩
def dr (w : EdgeWord) : State := { tCvp (tF tOn [(cvpDrive, cvpDriveREQ, 1), (cvpDrive, cvpDriveDRIVING, 1), (cvpDrive, cvpDriveGNT, 1), (cvpPaircfg 0x13, cvpPaircfgOWNER, 1), (cvpPaircfg 0x13, cvpPaircfgOIDX, 5), (cvpLaneen, cvpLaneenEGEN, 0xFFFF), (cvpSafests 0, cvpSafestsSAFE, 0x80000)])
   (fun c => { c with gnt := true, queues := [(3, [⟨w, .slot 5, 10, true⟩])], expects := [⟨0x13, 2, 1100, 0, 0, none, false, 0⟩, ⟨0x13, 1, 30, 0, 0, none, false, 0⟩], tags := [⟨3, 3, 1200, false, false, false, false, false, []⟩] }) with port := 1000 }
def ds (w : EdgeWord) : State := tF (dr w) [(cvpDrive, cvpDriveDRIVING, 0), (cvpDrive, cvpDriveREQ, 0)]
def sWordsLeave6 : State := tCvp (ds (w0 .direct 1010)) (fun c => {c with gnt := false})
def rp (kind id v low : Nat) : BitVec 32 := BitVec.ofNat 32 (kind * 2^30 + id * 2^25 + v * 2^23 + low)
def tr0 : State := tF tOn [(semTgen 4 1, semTgenEN, 2), (cvpTglatch, cvpTglatchTGLAT, 2)]
def dg : State := tF tOn [(cvpDrive, cvpDriveREQ, 1), (cvpPaircfg 0x13, cvpPaircfgOWNER, 1), (cvpPaircfg 0x13, cvpPaircfgOIDX, 5), (cvpLaneen, cvpLaneenEGEN, 0xFFFF)]
def sn : State := { tCvp tOn (fun c => { c with swn := [(511, 127000)] }) with port := 1000 }
def sSwitchNodeTimes2 : State := { sn with port := 1056 }
def qe (w : EdgeWord) : QEntry := ⟨w, .slot 5, 10, true⟩
def ex (n x : Nat) : Expect := ⟨0x13, 1, n, 0, x, none, false, 0⟩
def dra : State := tCvp (dr (w0 .posted 1010)) (fun c => { c with tags := [⟨3, 3, 1200, true, false, false, false, false, []⟩] })
def dr4 : State := tCvp (dr (w0 .direct 1010)) (fun c => { c with expects := [ex 1002 0, ex 1003 0, ex 1004 0, ex 1005 0] })
def tr1 : State := tF tr0 [(cvpTripflt, cvpTripfltN, 3)]
def sWordsLeave7 : State := tCvp sWordsLeave6 (fun c => { c with queues := [(3, [⟨w0 .armdef 1010, .slot 5, 10, true⟩, ⟨w0 .posted 1010, .slot 5, 10, true⟩])] })
def wa0 : EdgeWord := w0 .armdef 1010
def wp0 : EdgeWord := { w0 .posted 1010 with tag := wa0.tag }

/-- States that meet the hypotheses of the clauses of SamplesAndWords. -/
theorem test_SamplesAndWords :
    pdOn (sm 4294967296 0 1) 51 = true ∧
    rbit (sm 4294967296 0 1) cvpLaneen cvpLaneenINGEN (↑3 : Nat) = true ∧
    (sm 4294967296 0 1).running = true ∧
    smpParityOk 1 5 2000 0 true = false ∧
    smpParityOk 1 5 2000 0 false = true ∧
    rb (sm 4294967296 0 1) (cvpChcfg (BitVec.toNat (1 : Word) * 16 + (↑3 : Nat))) cvpChcfgEN = true ∧
    smpStale (sm 4294967296 0 1) (BitVec.toNat (2000 : Word)) = false ∧
    (if (tget { cyc := 0, cal := { gain := 0, offs := 0 : Cal }, ok := false : CalPrev } (sm 4294967296 0 1).cvp.calPrev (BitVec.toNat (1 : Word) * 16 + (↑3 : Nat))).cyc = (sm 4294967296 0 1).port + 1 then (tget { cyc := 0, cal := { gain := 0, offs := 0 : Cal }, ok := false : CalPrev } (sm 4294967296 0 1).cvp.calPrev (BitVec.toNat (1 : Word) * 16 + (↑3 : Nat))).ok else rb (sm 4294967296 0 1) (cvpChcfg (BitVec.toNat (1 : Word) * 16 + (↑3 : Nat))) cvpChcfgCALOK) = true ∧
    -2 ^ 70 ≤ sint (if (tget { cyc := 0, cal := { gain := 0, offs := 0 : Cal }, ok := false : CalPrev } (sm 4294967296 0 1).cvp.calPrev (BitVec.toNat (1 : Word) * 16 + (↑3 : Nat))).cyc = (sm 4294967296 0 1).port + 1 then (tget { cyc := 0, cal := { gain := 0, offs := 0 : Cal }, ok := false : CalPrev } (sm 4294967296 0 1).cvp.calPrev (BitVec.toNat (1 : Word) * 16 + (↑3 : Nat))).cal else tget { gain := 0, offs := 0 : Cal } (sm 4294967296 0 1).cvp.cal (BitVec.toNat (1 : Word) * 16 + (↑3 : Nat))).gain * BitVec.toInt (5 : Word) + sint (if (tget { cyc := 0, cal := { gain := 0, offs := 0 : Cal }, ok := false : CalPrev } (sm 4294967296 0 1).cvp.calPrev (BitVec.toNat (1 : Word) * 16 + (↑3 : Nat))).cyc = (sm 4294967296 0 1).port + 1 then (tget { cyc := 0, cal := { gain := 0, offs := 0 : Cal }, ok := false : CalPrev } (sm 4294967296 0 1).cvp.calPrev (BitVec.toNat (1 : Word) * 16 + (↑3 : Nat))).cal else tget { gain := 0, offs := 0 : Cal } (sm 4294967296 0 1).cvp.cal (BitVec.toNat (1 : Word) * 16 + (↑3 : Nat))).offs * 2 ^ 23 ∧
    sint (if (tget { cyc := 0, cal := { gain := 0, offs := 0 : Cal }, ok := false : CalPrev } (sm 4294967296 0 1).cvp.calPrev (BitVec.toNat (1 : Word) * 16 + (↑3 : Nat))).cyc = (sm 4294967296 0 1).port + 1 then (tget { cyc := 0, cal := { gain := 0, offs := 0 : Cal }, ok := false : CalPrev } (sm 4294967296 0 1).cvp.calPrev (BitVec.toNat (1 : Word) * 16 + (↑3 : Nat))).cal else tget { gain := 0, offs := 0 : Cal } (sm 4294967296 0 1).cvp.cal (BitVec.toNat (1 : Word) * 16 + (↑3 : Nat))).gain * BitVec.toInt (5 : Word) + sint (if (tget { cyc := 0, cal := { gain := 0, offs := 0 : Cal }, ok := false : CalPrev } (sm 4294967296 0 1).cvp.calPrev (BitVec.toNat (1 : Word) * 16 + (↑3 : Nat))).cyc = (sm 4294967296 0 1).port + 1 then (tget { cyc := 0, cal := { gain := 0, offs := 0 : Cal }, ok := false : CalPrev } (sm 4294967296 0 1).cvp.calPrev (BitVec.toNat (1 : Word) * 16 + (↑3 : Nat))).cal else tget { gain := 0, offs := 0 : Cal } (sm 4294967296 0 1).cvp.cal (BitVec.toNat (1 : Word) * 16 + (↑3 : Nat))).offs * 2 ^ 23 ≤ (2 ^ 47 - 1) * 2 ^ 23 ∧
    smpParityOk 2 5 2000 0 false = true ∧
    rb (sm 4294967296 0 1) (cvpChcfg (BitVec.toNat (2 : Word) * 16 + (↑3 : Nat))) cvpChcfgEN = false ∧
    smpParityOk 1 5 900 0 false = true ∧
    smpStale (sm 4294967296 0 1) (BitVec.toNat (900 : Word)) = true ∧
    pdOn (sm 4294967296 0 0) 51 = true ∧
    rbit (sm 4294967296 0 0) cvpLaneen cvpLaneenINGEN (↑3 : Nat) = true ∧
    (sm 4294967296 0 0).running = true ∧
    rb (sm 4294967296 0 0) (cvpChcfg (BitVec.toNat (1 : Word) * 16 + (↑3 : Nat))) cvpChcfgEN = true ∧
    smpStale (sm 4294967296 0 0) (BitVec.toNat (2000 : Word)) = false ∧
    (if (tget { cyc := 0, cal := { gain := 0, offs := 0 : Cal }, ok := false : CalPrev } (sm 4294967296 0 0).cvp.calPrev (BitVec.toNat (1 : Word) * 16 + (↑3 : Nat))).cyc = (sm 4294967296 0 0).port + 1 then (tget { cyc := 0, cal := { gain := 0, offs := 0 : Cal }, ok := false : CalPrev } (sm 4294967296 0 0).cvp.calPrev (BitVec.toNat (1 : Word) * 16 + (↑3 : Nat))).ok else rb (sm 4294967296 0 0) (cvpChcfg (BitVec.toNat (1 : Word) * 16 + (↑3 : Nat))) cvpChcfgCALOK) = false ∧
    pdOn (sm 140737488355327 140737488355327 1) 51 = true ∧
    rbit (sm 140737488355327 140737488355327 1) cvpLaneen cvpLaneenINGEN (↑3 : Nat) = true ∧
    (sm 140737488355327 140737488355327 1).running = true ∧
    smpParityOk 1 8388607 2000 0 true = true ∧
    rb (sm 140737488355327 140737488355327 1) (cvpChcfg (BitVec.toNat (1 : Word) * 16 + (↑3 : Nat))) cvpChcfgEN = true ∧
    smpStale (sm 140737488355327 140737488355327 1) (BitVec.toNat (2000 : Word)) = false ∧
    (if (tget { cyc := 0, cal := { gain := 0, offs := 0 : Cal }, ok := false : CalPrev } (sm 140737488355327 140737488355327 1).cvp.calPrev (BitVec.toNat (1 : Word) * 16 + (↑3 : Nat))).cyc = (sm 140737488355327 140737488355327 1).port + 1 then (tget { cyc := 0, cal := { gain := 0, offs := 0 : Cal }, ok := false : CalPrev } (sm 140737488355327 140737488355327 1).cvp.calPrev (BitVec.toNat (1 : Word) * 16 + (↑3 : Nat))).ok else rb (sm 140737488355327 140737488355327 1) (cvpChcfg (BitVec.toNat (1 : Word) * 16 + (↑3 : Nat))) cvpChcfgCALOK) = true ∧
    (2 ^ 47 - 1) * 2 ^ 23 + 2 ^ 22 < sint (if (tget { cyc := 0, cal := { gain := 0, offs := 0 : Cal }, ok := false : CalPrev } (sm 140737488355327 140737488355327 1).cvp.calPrev (BitVec.toNat (1 : Word) * 16 + (↑3 : Nat))).cyc = (sm 140737488355327 140737488355327 1).port + 1 then (tget { cyc := 0, cal := { gain := 0, offs := 0 : Cal }, ok := false : CalPrev } (sm 140737488355327 140737488355327 1).cvp.calPrev (BitVec.toNat (1 : Word) * 16 + (↑3 : Nat))).cal else tget { gain := 0, offs := 0 : Cal } (sm 140737488355327 140737488355327 1).cvp.cal (BitVec.toNat (1 : Word) * 16 + (↑3 : Nat))).gain * BitVec.toInt (8388607 : Word) + sint (if (tget { cyc := 0, cal := { gain := 0, offs := 0 : Cal }, ok := false : CalPrev } (sm 140737488355327 140737488355327 1).cvp.calPrev (BitVec.toNat (1 : Word) * 16 + (↑3 : Nat))).cyc = (sm 140737488355327 140737488355327 1).port + 1 then (tget { cyc := 0, cal := { gain := 0, offs := 0 : Cal }, ok := false : CalPrev } (sm 140737488355327 140737488355327 1).cvp.calPrev (BitVec.toNat (1 : Word) * 16 + (↑3 : Nat))).cal else tget { gain := 0, offs := 0 : Cal } (sm 140737488355327 140737488355327 1).cvp.cal (BitVec.toNat (1 : Word) * 16 + (↑3 : Nat))).offs * 2 ^ 23 ∧
    pdOn (sm 140737488355327 140737488355328 1) 51 = true ∧
    rbit (sm 140737488355327 140737488355328 1) cvpLaneen cvpLaneenINGEN (↑3 : Nat) = true ∧
    (sm 140737488355327 140737488355328 1).running = true ∧
    smpParityOk 1 8388608 2000 0 true = true ∧
    rb (sm 140737488355327 140737488355328 1) (cvpChcfg (BitVec.toNat (1 : Word) * 16 + (↑3 : Nat))) cvpChcfgEN = true ∧
    smpStale (sm 140737488355327 140737488355328 1) (BitVec.toNat (2000 : Word)) = false ∧
    (if (tget { cyc := 0, cal := { gain := 0, offs := 0 : Cal }, ok := false : CalPrev } (sm 140737488355327 140737488355328 1).cvp.calPrev (BitVec.toNat (1 : Word) * 16 + (↑3 : Nat))).cyc = (sm 140737488355327 140737488355328 1).port + 1 then (tget { cyc := 0, cal := { gain := 0, offs := 0 : Cal }, ok := false : CalPrev } (sm 140737488355327 140737488355328 1).cvp.calPrev (BitVec.toNat (1 : Word) * 16 + (↑3 : Nat))).ok else rb (sm 140737488355327 140737488355328 1) (cvpChcfg (BitVec.toNat (1 : Word) * 16 + (↑3 : Nat))) cvpChcfgCALOK) = true ∧
    sint (if (tget { cyc := 0, cal := { gain := 0, offs := 0 : Cal }, ok := false : CalPrev } (sm 140737488355327 140737488355328 1).cvp.calPrev (BitVec.toNat (1 : Word) * 16 + (↑3 : Nat))).cyc = (sm 140737488355327 140737488355328 1).port + 1 then (tget { cyc := 0, cal := { gain := 0, offs := 0 : Cal }, ok := false : CalPrev } (sm 140737488355327 140737488355328 1).cvp.calPrev (BitVec.toNat (1 : Word) * 16 + (↑3 : Nat))).cal else tget { gain := 0, offs := 0 : Cal } (sm 140737488355327 140737488355328 1).cvp.cal (BitVec.toNat (1 : Word) * 16 + (↑3 : Nat))).gain * BitVec.toInt (8388608 : BitVec 24) + sint (if (tget { cyc := 0, cal := { gain := 0, offs := 0 : Cal }, ok := false : CalPrev } (sm 140737488355327 140737488355328 1).cvp.calPrev (BitVec.toNat (1 : Word) * 16 + (↑3 : Nat))).cyc = (sm 140737488355327 140737488355328 1).port + 1 then (tget { cyc := 0, cal := { gain := 0, offs := 0 : Cal }, ok := false : CalPrev } (sm 140737488355327 140737488355328 1).cvp.calPrev (BitVec.toNat (1 : Word) * 16 + (↑3 : Nat))).cal else tget { gain := 0, offs := 0 : Cal } (sm 140737488355327 140737488355328 1).cvp.cal (BitVec.toNat (1 : Word) * 16 + (↑3 : Nat))).offs * 2 ^ 23 < -2 ^ 70 - 2 ^ 22 ∧
    laneReady (dr (w0 WordKind.direct 1010)) (↑3 : Nat) = true ∧
    laneQ (dr (w0 WordKind.direct 1010)) (↑3 : Nat) = [qe (w0 WordKind.direct 1010)] ∧
    ((qe (w0 WordKind.direct 1010)).word.kind = WordKind.armdef ∨ pairSource (dr (w0 WordKind.direct 1010)) (qe (w0 WordKind.direct 1010)).word.pair = false) ∧
    (qe (w0 WordKind.direct 1010)).word.kind = WordKind.direct ∧
    (dr (w0 WordKind.direct 1010)).port + cvpLead (dr (w0 WordKind.direct 1010)) ≤ (qe (w0 WordKind.direct 1010)).word.cyc ∧
    (qe (w0 WordKind.direct 1010)).word.cyc ≤ (dr (w0 WordKind.direct 1010)).port + 32767 ∧
    pendingBefore (dr (w0 WordKind.direct 1010)) (qe (w0 WordKind.direct 1010)).word < 4 ∧
    laneReady (dr (w0 WordKind.direct 1001)) (↑3 : Nat) = true ∧
    laneQ (dr (w0 WordKind.direct 1001)) (↑3 : Nat) = [qe (w0 WordKind.direct 1001)] ∧
    ((qe (w0 WordKind.direct 1001)).word.kind = WordKind.armdef ∨ pairSource (dr (w0 WordKind.direct 1001)) (qe (w0 WordKind.direct 1001)).word.pair = false) ∧
    (qe (w0 WordKind.direct 1001)).word.kind = WordKind.direct ∧
    (qe (w0 WordKind.direct 1001)).word.cyc < (dr (w0 WordKind.direct 1001)).port + cvpLead (dr (w0 WordKind.direct 1001)) ∧
    pendingBefore (dr (w0 WordKind.direct 1001)) { kind := (qe (w0 WordKind.direct 1001)).word.kind, pair := (qe (w0 WordKind.direct 1001)).word.pair, s := (qe (w0 WordKind.direct 1001)).word.s, dt := (qe (w0 WordKind.direct 1001)).word.dt, tag := (qe (w0 WordKind.direct 1001)).word.tag, cyc := (dr (w0 WordKind.direct 1001)).port + cvpLead (dr (w0 WordKind.direct 1001)), fine := 0 : EdgeWord } < 4 ∧
    laneReady (dr (w0 WordKind.posted 1010)) (↑3 : Nat) = true ∧
    laneQ (dr (w0 WordKind.posted 1010)) (↑3 : Nat) = [qe (w0 WordKind.posted 1010)] ∧
    ((qe (w0 WordKind.posted 1010)).word.kind = WordKind.armdef ∨ pairSource (dr (w0 WordKind.posted 1010)) (qe (w0 WordKind.posted 1010)).word.pair = false) ∧
    ((qe (w0 WordKind.posted 1010)).word.kind ≠ WordKind.direct) ∧
    (qe (w0 WordKind.posted 1010)).word.cyc ≤ (dr (w0 WordKind.posted 1010)).port + 32767 ∧
    ((qe (w0 WordKind.posted 1010)).word.kind = WordKind.posted → ((dr (w0 WordKind.posted 1010)).cvp.tags.any fun (l : LaneTag) => l.lane == (↑3 : Nat) && l.tag == (qe (w0 WordKind.posted 1010)).word.tag && l.armed) = false) ∧
    fifthPending (dr (w0 WordKind.posted 1010)) (↑3 : Nat) (qe (w0 WordKind.posted 1010)).word = false ∧
    armdefVoid (dr (w0 WordKind.posted 1010)) (qe (w0 WordKind.posted 1010)).word (List.map (fun (x : QEntry) => x.word) []) = false ∧
    laneReady dra (↑3 : Nat) = true ∧
    laneQ dra (↑3 : Nat) = [qe (w0 WordKind.posted 1010)] ∧
    ((qe (w0 WordKind.posted 1010)).word.kind = WordKind.armdef ∨ pairSource dra (qe (w0 WordKind.posted 1010)).word.pair = false) ∧
    (qe (w0 WordKind.posted 1010)).word.kind = WordKind.posted ∧
    (qe (w0 WordKind.posted 1010)).word.cyc ≤ dra.port + 32767 ∧
    (dra.cvp.tags.any fun (l : LaneTag) => l.lane == (↑3 : Nat) && l.tag == (qe (w0 WordKind.posted 1010)).word.tag && l.armed) = true ∧
    fifthPending dra (↑3 : Nat) (qe (w0 WordKind.posted 1010)).word = false ∧
    laneReady dr4 (↑3 : Nat) = true ∧
    laneQ dr4 (↑3 : Nat) = [qe (w0 WordKind.direct 1010)] ∧
    ((qe (w0 WordKind.direct 1010)).word.kind = WordKind.armdef ∨ pairSource dr4 (qe (w0 WordKind.direct 1010)).word.pair = false) ∧
    ((qe (w0 WordKind.direct 1010)).word.kind ≠ WordKind.armdef) ∧
    (dr4.port + 32767 < (qe (w0 WordKind.direct 1010)).word.cyc ∨ (qe (w0 WordKind.direct 1010)).word.kind = WordKind.direct ∧ dr4.port + cvpLead dr4 ≤ (qe (w0 WordKind.direct 1010)).word.cyc ∧ 4 ≤ pendingBefore dr4 (qe (w0 WordKind.direct 1010)).word ∨ (qe (w0 WordKind.direct 1010)).word.kind = WordKind.posted ∧ fifthPending dr4 (↑3 : Nat) (qe (w0 WordKind.direct 1010)).word = true) ∧
    laneReady sWordsLeave6 (↑3 : Nat) = true ∧
    laneQ sWordsLeave6 (↑3 : Nat) = [qe (w0 WordKind.direct 1010)] ∧
    pairSource sWordsLeave6 (qe (w0 WordKind.direct 1010)).word.pair = true ∧
    laneReady sWordsLeave7 (↑3 : Nat) = true ∧
    laneQ sWordsLeave7 (↑3 : Nat) = [qe wa0, qe wp0] ∧
    armdefVoid sWordsLeave7 (qe wa0).word (List.map (fun (x : QEntry) => x.word) [qe wp0]) = true ∧
    (∀ (x : QEntry), x ∈ [qe wp0] → x.word.kind = WordKind.posted ∧ x.word.tag = (qe wa0).word.tag) := by
  and_intros <;> decide +kernel

/-- States that meet the hypotheses of the clauses of Readback. -/
theorem test_Readback :
    pdOn (dr (w0 WordKind.direct 1010)) 52 = true ∧
    (dr (w0 WordKind.direct 1010)).running = true ∧
    (rp 0 1 1 30).toNat >>> 30 = 0 ∧
    List.find? (fun (x : Expect) => x.pair == (rp 0 1 1 30).toNat >>> 25 % 32 % 16 * 16 + (↑3 : Nat) && x.cyc % 65536 == (rp 0 1 1 30).toNat % 65536 && decide (x.cyc ≤ (dr (w0 WordKind.direct 1010)).port)) (extendBounds (dr (w0 WordKind.direct 1010)) (↑3 : Nat)).cvp.expects = some (ex 30 1) ∧
    (ex 30 1).s = (rp 0 1 1 30).toNat >>> 23 % 4 ∧
    (dr (w0 WordKind.direct 1010)).cvp.expects.any (overdue (dr (w0 WordKind.direct 1010)) (↑3 : Nat)) = true ∧
    (dr (w0 WordKind.direct 1010)).cvp.gnt = true ∧
    (rp 0 1 2 30).toNat >>> 30 = 0 ∧
    List.find? (fun (x : Expect) => x.pair == (rp 0 1 2 30).toNat >>> 25 % 32 % 16 * 16 + (↑3 : Nat) && x.cyc % 65536 == (rp 0 1 2 30).toNat % 65536 && decide (x.cyc ≤ (dr (w0 WordKind.direct 1010)).port)) (extendBounds (dr (w0 WordKind.direct 1010)) (↑3 : Nat)).cvp.expects = some (ex 30 1) ∧
    ((ex 30 1).s ≠ (rp 0 1 2 30).toNat >>> 23 % 4) ∧
    (rp 1 3 2 30).toNat >>> 30 = 1 ∧
    (laneTag (dr (w0 WordKind.direct 1010)) (↑3 : Nat) ((rp 1 3 2 30).toNat >>> 25 % 32)).isSome = true ∧
    (∀ (l : LaneTag), l ∈ (dr (w0 WordKind.direct 1010)).cvp.tags → l.tag = (rp 1 3 2 30).toNat >>> 25 % 32 → l.gone = false ∧ l.armed = false) ∧
    (rp 2 3 2 30).toNat >>> 30 = 2 ∧
    (rp 3 1 2 (2 ^ 22)).toNat >>> 30 = 3 ∧
    dg.cvp.gnt = false ∧
    rb dg cvpDrive cvpDriveREQ = true ∧
    tOn.cvp.gnt = false ∧
    rb tOn cvpDrive cvpDriveREQ = false ∧
    swnFirst sn (↑511 : Nat) = some (511, 127000) ∧
    pdOn sn 52 = true ∧
    sn.running = true ∧
    (511, 127000).snd ≤ sn.port * 128 + BitVec.toNat (3 : Word) ∧
    swnFirst sSwitchNodeTimes2 (↑511 : Nat) = some (511, 127000) ∧
    pdOn sSwitchNodeTimes2 52 = true ∧
    sSwitchNodeTimes2.running = true ∧
    (511, 127000).snd + 16 * rf sSwitchNodeTimes2 cvpSwnwin cvpSwnwinWIN < sSwitchNodeTimes2.port * 128 + 128 := by
  and_intros <;> decide +kernel

/-- States that meet the hypotheses of the clauses of Trips. -/
theorem test_Trips :
    tr0.cvp.tripLive.getLsbD (↑33 : Nat) = false ∧
    (rf tr0 cvpTripflt cvpTripfltN = 0 ∨ tr0.running = false) ∧
    holdsType tr0 (tQ 1) 1 = true ∧
    tr1.cvp.tripLive.getLsbD (↑63 : Nat) = false ∧
    (rf tr1 cvpTripflt cvpTripfltN ≠ 0) ∧
    tr1.running = true ∧
    (tr1.cvp.tripWait.any fun (p : Nat × Nat) => p.fst == (↑63 : Nat)) = false ∧
    holdsType tr0 (tQ 2) 1 = false := by
  and_intros <;> decide +kernel

end W06

namespace W07

def stp (op a b d l h sh : Nat) : Word := BitVec.ofNat 48 (op * 2^42 + a * 2^36 + b * 2^30 + d * 2^24 + l * 2^18 + h * 2^12 + sh * 2^6)
/-- slot 0x13 -/
def sl (ph : Nat) (w : Word) (f : Slot → Slot) : State :=
  let t := tF tOn [(slotBase 0x13, aeSlotbasePBASE, 0x100), (slotBase 0x13, aeSlotbaseCBASE, 0x200), (slotBase 0x13, aeSlotbaseSBASE, 0x300), (slotSts 0x13, aeSlotstsPHASE, ph)]
  { t with mem := [(0x202100, w), (0x202205, 0x018000000000), (0x202301, 0xFFFE80000000), (0x202302, 0x000500000001), (0x202303, 0x000200000000)], port := 500
           ae := { t.ae with slots := [(0x13, f { Slot.off with pc := 0, acc := 12345678901234567890123, first := false, trig := ⟨7, 8, 9, 10, 450, 3, 452⟩ })], outq := if ph = 3 then [(1, [0x13])] else [] } }
def sLawArithmetic1 : State := sl 1 (stp 0 1 5 0 0 0 0) id
def sLawArithmetic2 : State := sl 1 (stp 1 1 5 0 0 0 0) id
def sLawArithmetic3 : State := sl 1 (stp 2 1 5 0 0 0 0) id
def sLawArithmetic4 : State := sl 3 (stp 3 1 5 0 0 0 0) id
def sLawArithmetic5 : State := sl 4 (stp 4 1 5 0 0 0 0) id
def sLawArithmetic6 : State := sl 4 (stp 5 1 2 0 0 0 0) (fun x => { x with acc := BitVec.ofInt 112 (2^111 - 5) })
def sLawArithmetic7 : State := sl 4 (stp 6 2 2 0 0 0 0) (fun x => { x with acc := BitVec.ofInt 112 (2^111 - 5) })
def sLawArithmetic8 : State := sl 4 (stp 7 2 2 0 0 0 0) (fun x => { x with acc := BitVec.ofInt 112 (-2^111 + 5) })
def sLawArithmetic9 : State := sl 4 (stp 8 2 5 0 0 0 0) id
def sLawArithmetic10 : State := sl 4 (stp 9 2 5 0 0 0 31) id
def sLawResults1 : State := sl 4 (stp 0x10 1 5 0x27 1 2 0) id
def sLawResults3 : State := sl 1 (stp 0x11 1 5 0x2F 1 3 0) (fun x => { x with acc := BitVec.ofInt 112 (2^111 - 5) })
def sLawResults4 : State := sl 1 (stp 0x13 0x31 5 0x20 1 3 0) id
def sLawResults5 : State := sl 3 (stp 0x12 0x31 5 0x20 1 3 0) id
def tg (s : State) : State := { s with ae := { s.ae with trigs := [(0x13, .sample 5 490 7)] } }
def sLawSections1 : State := tg (sl 0 0 id)
def sLawSections2 : State := tg (sl 2 0 (fun x => { x with skip := 2 }))
def sLawSections3 : State := tF (tg (sl 2 0 id)) [(slotCtl 0x13, aeSlotctlDECIM, 3)]
def sLawSections4 : State := tg (sl 1 0 id)
def tr1 : Trig := ⟨70, 80, 90, 100, 460, 3, 462⟩
def sLawSections6 : State := sl 1 (stp 0x18 0 0 0 0 0 0) (fun x => { x with held := some tr1 })
def sLawSections7 : State := sl 1 (stp 0x18 0 0 0 0 0 0) id
def sLawSections8 : State := sl 4 (stp 0x19 0 0 0 0 0 0) id
def sLawSections9 : State := sl 4 0 (fun x => { x with atPrime := true, stopping := true })
def sLawSections10 : State := tF (sl 4 0 (fun x => { x with atPrime := true })) [(slotCtl 0x13, aeSlotctlBSWAP, 1), (slotHoctl 0x13, aeHoctlMAN, 1)]
def pr (ph : Nat) : State := let s := sl ph 0 id; { s with mem := (0x202100, stp 0x18 0 0 0 0 0 0) :: (0x202101, stp 2 1 0 0 0 0 0) :: (0x202102, stp 0x12 0 0 0x20 1 2 0) :: (0x202103, stp 0x19 0 0 0 0 0 0) :: s.mem.drop 1 }
def sSlotCommands1 : State := pr 0
def sSlotCommands2 : State := sl 0 0 id
def lv (ph : Nat) (f : Slot → Slot) : State := tF (sl ph 0 f) [(slotCtl 0x13, aeSlotctlEN, 1)]
def sSlotCommands4 : State := lv 2 id
def sSlotCommands5 : State := lv 1 id
def lq (ph : Nat) (f : Slot → Slot) : State := let s := lv ph f; { s with ae := { s.ae with coefq := [(1, (List.range 16).map (fun i => (i, 0)))] } }
def sSlotCommands6 : State := lq 1 id
def pg (act : List Nat) (spare : Nat) (dw : Nat) (low : Nat) : State :=
  let t := tF tOn ([(aePhsctl 3, aePhsctlEN, 1), (aePhsctl 3, aePhsctlSPARE, spare), (aePhsctl 3, aePhsctlDWELL, dw), (aePhswin 3, aePhswinEHI, 0x7F)] ++ [5, 6, 7].flatMap (fun n => [(slotPhs n, aeSlotphsMEM, 1), (slotPhs n, aeSlotphsGRP, 3), (slotPhs n, aeSlotphsRANK, 4), (slotPhs n, aeSlotphsPARKED, if act.contains n then 0 else 1)]))
  let t := wr t (aePhscap 3) 100
  { t with ae := { t.ae with loads := [(3, 0)], lows := [(3, low)] } }
def sPhaseGroups1 : State := pg [5] 2 3 0
def sPhaseGroups2 : State := pg [5, 6] 1 3 2
def sPhaseGroups3 : State := pg [5, 6] 1 3 1
def sPhaseGroups4 : State := pg [5, 6] 2 3 1
def sPhaseGroups5 : State := tF (pg [5, 6] 2 3 1) [(aePhsctl 3, aePhsctlFREEZE, 1)]
def pk (f : Slot → Slot) : State := tF (tg (sl 2 0 (fun x => f { x with parkAt := true }))) [(slotHosts 0x13, aeHostsMANACT, 1)]
def si : TrigSrc := .sample 5 490 7
def pp (f : Slot → Slot) : State := sl 4 0 (fun x => f { x with atPrime := true })

/-- States that meet the hypotheses of the clauses of LawArithmetic. -/
theorem test_LawArithmetic :
    lawStepWord sLawArithmetic1 (↑19 : Nat) 0 = some (stp 0 1 5 0 0 0 0) ∧
    RamWhole sLawArithmetic1 (engOf (↑19 : Nat)) ∧
    lawStepWord sLawArithmetic2 (↑19 : Nat) 1 = some (stp 1 1 5 0 0 0 0) ∧
    RamWhole sLawArithmetic2 (engOf (↑19 : Nat)) ∧
    lawStepWord sLawArithmetic3 (↑19 : Nat) 2 = some (stp 2 1 5 0 0 0 0) ∧
    RamWhole sLawArithmetic3 (engOf (↑19 : Nat)) ∧
    lawStepWord sLawArithmetic4 (↑19 : Nat) 3 = some (stp 3 1 5 0 0 0 0) ∧
    RamWhole sLawArithmetic4 (engOf (↑19 : Nat)) ∧
    lawStepWord sLawArithmetic5 (↑19 : Nat) 4 = some (stp 4 1 5 0 0 0 0) ∧
    RamWhole sLawArithmetic5 (engOf (↑19 : Nat)) ∧
    lawStepWord sLawArithmetic6 (↑19 : Nat) 5 = some (stp 5 1 2 0 0 0 0) ∧
    RamWhole sLawArithmetic6 (engOf (↑19 : Nat)) ∧
    lawStepWord sLawArithmetic7 (↑19 : Nat) 6 = some (stp 6 2 2 0 0 0 0) ∧
    RamWhole sLawArithmetic7 (engOf (↑19 : Nat)) ∧
    lawStepWord sLawArithmetic8 (↑19 : Nat) 7 = some (stp 7 2 2 0 0 0 0) ∧
    RamWhole sLawArithmetic8 (engOf (↑19 : Nat)) ∧
    lawStepWord sLawArithmetic9 (↑19 : Nat) 8 = some (stp 8 2 5 0 0 0 0) ∧
    RamWhole sLawArithmetic9 (engOf (↑19 : Nat)) ∧
    lawStepWord sLawArithmetic10 (↑19 : Nat) 9 = some (stp 9 2 5 0 0 0 31) ∧
    RamWhole sLawArithmetic10 (engOf (↑19 : Nat)) := by
  and_intros <;> first | decide +kernel | exact ramWhole_of (by decide +kernel) _

/-- States that meet the hypotheses of the clauses of LawSections. -/
theorem test_LawSections :
    RamWhole sLawSections1 (engOf (↑19 : Nat)) ∧
    List.find? (fun (p : Nat × TrigSrc) => p.fst == (↑19 : Nat)) sLawSections1.ae.trigs = some (19, si) ∧
    pdOn sLawSections1 (18 + engOf (↑19 : Nat)) = true ∧
    (slotLive sLawSections1 (↑19 : Nat) = false ∨ rb sLawSections1 (slotPhs (↑19 : Nat)) aeSlotphsPARKED = true) ∧
    RamWhole sLawSections2 (engOf (↑19 : Nat)) ∧
    List.find? (fun (p : Nat × TrigSrc) => p.fst == (↑19 : Nat)) sLawSections2.ae.trigs = some (19, si) ∧
    pdOn sLawSections2 (18 + engOf (↑19 : Nat)) = true ∧
    slotLive sLawSections2 (↑19 : Nat) = true ∧
    rb sLawSections2 (slotPhs (↑19 : Nat)) aeSlotphsPARKED = false ∧
    ((slotOf sLawSections2 (↑19 : Nat)).skip ≠ 0) ∧
    RamWhole sLawSections3 (engOf (↑19 : Nat)) ∧
    List.find? (fun (p : Nat × TrigSrc) => p.fst == (↑19 : Nat)) sLawSections3.ae.trigs = some (19, si) ∧
    pdOn sLawSections3 (18 + engOf (↑19 : Nat)) = true ∧
    slotLive sLawSections3 (↑19 : Nat) = true ∧
    rb sLawSections3 (slotPhs (↑19 : Nat)) aeSlotphsPARKED = false ∧
    (slotOf sLawSections3 (↑19 : Nat)).skip = 0 ∧
    monsOf sLawSections3 1 (↑19 : Nat) = [] ∧
    phaseOf sLawSections3 (↑19 : Nat) = 2 ∧
    (slotOf sLawSections3 (↑19 : Nat)).parkAt = false ∧
    RamWhole (pk id) (engOf (↑19 : Nat)) ∧
    List.find? (fun (p : Nat × TrigSrc) => p.fst == (↑19 : Nat)) (pk id).ae.trigs = some (19, si) ∧
    pdOn (pk id) (18 + engOf (↑19 : Nat)) = true ∧
    slotLive (pk id) (↑19 : Nat) = true ∧
    rb (pk id) (slotPhs (↑19 : Nat)) aeSlotphsPARKED = false ∧
    (slotOf (pk id) (↑19 : Nat)).skip = 0 ∧
    monsOf (pk id) 1 (↑19 : Nat) = [] ∧
    phaseOf (pk id) (↑19 : Nat) = 2 ∧
    (slotOf (pk id) (↑19 : Nat)).parkAt = true ∧
    slotMuted (pk id) (↑19 : Nat) = true ∧
    RamWhole sLawSections4 (engOf (↑19 : Nat)) ∧
    List.find? (fun (p : Nat × TrigSrc) => p.fst == (↑19 : Nat)) sLawSections4.ae.trigs = some (19, si) ∧
    pdOn sLawSections4 (18 + engOf (↑19 : Nat)) = true ∧
    slotLive sLawSections4 (↑19 : Nat) = true ∧
    rb sLawSections4 (slotPhs (↑19 : Nat)) aeSlotphsPARKED = false ∧
    (slotOf sLawSections4 (↑19 : Nat)).skip = 0 ∧
    monsOf sLawSections4 1 (↑19 : Nat) = [] ∧
    (phaseOf sLawSections4 (↑19 : Nat) ≠ 2) ∧
    RamWhole sLawSections6 (engOf (↑19 : Nat)) ∧
    lawStepWord sLawSections6 (↑19 : Nat) 24 = some (stp 24 0 0 0 0 0 0) ∧
    (slotOf sLawSections6 (↑19 : Nat)).held = some tr1 ∧
    RamWhole sLawSections7 (engOf (↑19 : Nat)) ∧
    lawStepWord sLawSections7 (↑19 : Nat) 24 = some (stp 24 0 0 0 0 0 0) ∧
    (slotOf sLawSections7 (↑19 : Nat)).held = none ∧
    RamWhole sLawSections8 (engOf (↑19 : Nat)) ∧
    lawStepWord sLawSections8 (↑19 : Nat) 25 = some (stp 25 0 0 0 0 0 0) ∧
    monsOf sLawSections8 1 (↑19 : Nat) = [] ∧
    List.find? (fun (p : Nat × RxImg) => p.fst == (↑19 : Nat)) sLawSections8.ae.rxImg = none ∧
    ((coefQ sLawSections8 (engOf (↑19 : Nat))).all fun (p : Nat × Word) => !inCoefArea sLawSections8 (↑19 : Nat) p.fst) = true ∧
    RamWhole sLawSections9 (engOf (↑19 : Nat)) ∧
    pdOn sLawSections9 (18 + engOf (↑19 : Nat)) = true ∧
    sLawSections9.running = true ∧
    slotLive sLawSections9 (↑19 : Nat) = true ∧
    (slotOf sLawSections9 (↑19 : Nat)).atPrime = true ∧
    (slotOf sLawSections9 (↑19 : Nat)).stopping = true ∧
    (slotOf sLawSections9 (↑19 : Nat)).again = false ∧
    RamWhole (pp fun (x : Slot) => { acc := x.acc, pc := x.pc, trig := x.trig, held := x.held, dts := x.dts, ref0 := x.ref0, ref1 := x.ref1, ref2 := x.ref2, ref3 := x.ref3, skip := x.skip, first := x.first, atPrime := x.atPrime, stopping := x.stopping, again := x.again, cbMode := x.cbMode, ho := x.ho, hoYa := x.hoYa, r0 := x.r0, noTake := x.noTake, parking := true, parkAt := x.parkAt, unpark := x.unpark, winLo := x.winLo, winHi := x.winHi, meas := x.meas, lastY := x.lastY, lastP := x.lastP, drop := x.drop, began := x.began, alone := x.alone : Slot }) (engOf (↑19 : Nat)) ∧
    pdOn (pp fun (x : Slot) => { acc := x.acc, pc := x.pc, trig := x.trig, held := x.held, dts := x.dts, ref0 := x.ref0, ref1 := x.ref1, ref2 := x.ref2, ref3 := x.ref3, skip := x.skip, first := x.first, atPrime := x.atPrime, stopping := x.stopping, again := x.again, cbMode := x.cbMode, ho := x.ho, hoYa := x.hoYa, r0 := x.r0, noTake := x.noTake, parking := true, parkAt := x.parkAt, unpark := x.unpark, winLo := x.winLo, winHi := x.winHi, meas := x.meas, lastY := x.lastY, lastP := x.lastP, drop := x.drop, began := x.began, alone := x.alone : Slot }) (18 + engOf (↑19 : Nat)) = true ∧
    (pp fun (x : Slot) => { acc := x.acc, pc := x.pc, trig := x.trig, held := x.held, dts := x.dts, ref0 := x.ref0, ref1 := x.ref1, ref2 := x.ref2, ref3 := x.ref3, skip := x.skip, first := x.first, atPrime := x.atPrime, stopping := x.stopping, again := x.again, cbMode := x.cbMode, ho := x.ho, hoYa := x.hoYa, r0 := x.r0, noTake := x.noTake, parking := true, parkAt := x.parkAt, unpark := x.unpark, winLo := x.winLo, winHi := x.winHi, meas := x.meas, lastY := x.lastY, lastP := x.lastP, drop := x.drop, began := x.began, alone := x.alone : Slot }).running = true ∧
    slotLive (pp fun (x : Slot) => { acc := x.acc, pc := x.pc, trig := x.trig, held := x.held, dts := x.dts, ref0 := x.ref0, ref1 := x.ref1, ref2 := x.ref2, ref3 := x.ref3, skip := x.skip, first := x.first, atPrime := x.atPrime, stopping := x.stopping, again := x.again, cbMode := x.cbMode, ho := x.ho, hoYa := x.hoYa, r0 := x.r0, noTake := x.noTake, parking := true, parkAt := x.parkAt, unpark := x.unpark, winLo := x.winLo, winHi := x.winHi, meas := x.meas, lastY := x.lastY, lastP := x.lastP, drop := x.drop, began := x.began, alone := x.alone : Slot }) (↑19 : Nat) = true ∧
    (slotOf (pp fun (x : Slot) => { acc := x.acc, pc := x.pc, trig := x.trig, held := x.held, dts := x.dts, ref0 := x.ref0, ref1 := x.ref1, ref2 := x.ref2, ref3 := x.ref3, skip := x.skip, first := x.first, atPrime := x.atPrime, stopping := x.stopping, again := x.again, cbMode := x.cbMode, ho := x.ho, hoYa := x.hoYa, r0 := x.r0, noTake := x.noTake, parking := true, parkAt := x.parkAt, unpark := x.unpark, winLo := x.winLo, winHi := x.winHi, meas := x.meas, lastY := x.lastY, lastP := x.lastP, drop := x.drop, began := x.began, alone := x.alone : Slot }) (↑19 : Nat)).atPrime = true ∧
    (slotOf (pp fun (x : Slot) => { acc := x.acc, pc := x.pc, trig := x.trig, held := x.held, dts := x.dts, ref0 := x.ref0, ref1 := x.ref1, ref2 := x.ref2, ref3 := x.ref3, skip := x.skip, first := x.first, atPrime := x.atPrime, stopping := x.stopping, again := x.again, cbMode := x.cbMode, ho := x.ho, hoYa := x.hoYa, r0 := x.r0, noTake := x.noTake, parking := true, parkAt := x.parkAt, unpark := x.unpark, winLo := x.winLo, winHi := x.winHi, meas := x.meas, lastY := x.lastY, lastP := x.lastP, drop := x.drop, began := x.began, alone := x.alone : Slot }) (↑19 : Nat)).stopping = false ∧
    (slotOf (pp fun (x : Slot) => { acc := x.acc, pc := x.pc, trig := x.trig, held := x.held, dts := x.dts, ref0 := x.ref0, ref1 := x.ref1, ref2 := x.ref2, ref3 := x.ref3, skip := x.skip, first := x.first, atPrime := x.atPrime, stopping := x.stopping, again := x.again, cbMode := x.cbMode, ho := x.ho, hoYa := x.hoYa, r0 := x.r0, noTake := x.noTake, parking := true, parkAt := x.parkAt, unpark := x.unpark, winLo := x.winLo, winHi := x.winHi, meas := x.meas, lastY := x.lastY, lastP := x.lastP, drop := x.drop, began := x.began, alone := x.alone : Slot }) (↑19 : Nat)).parking = true ∧
    (slotOf (pp fun (x : Slot) => { acc := x.acc, pc := x.pc, trig := x.trig, held := x.held, dts := x.dts, ref0 := x.ref0, ref1 := x.ref1, ref2 := x.ref2, ref3 := x.ref3, skip := x.skip, first := x.first, atPrime := x.atPrime, stopping := x.stopping, again := x.again, cbMode := x.cbMode, ho := x.ho, hoYa := x.hoYa, r0 := x.r0, noTake := x.noTake, parking := true, parkAt := x.parkAt, unpark := x.unpark, winLo := x.winLo, winHi := x.winHi, meas := x.meas, lastY := x.lastY, lastP := x.lastP, drop := x.drop, began := x.began, alone := x.alone : Slot }) (↑19 : Nat)).held = none ∧
    RamWhole sLawSections10 (engOf (↑19 : Nat)) ∧
    pdOn sLawSections10 (18 + engOf (↑19 : Nat)) = true ∧
    sLawSections10.running = true ∧
    slotLive sLawSections10 (↑19 : Nat) = true ∧
    (slotOf sLawSections10 (↑19 : Nat)).atPrime = true ∧
    (slotOf sLawSections10 (↑19 : Nat)).stopping = false ∧
    (slotOf sLawSections10 (↑19 : Nat)).parking = false ∧
    rb sLawSections10 (slotCtl (↑19 : Nat)) aeSlotctlADOPT = false ∧
    RamWhole sLawResults1 (engOf (↑19 : Nat)) ∧
    lawStepWord sLawResults1 (↑19 : Nat) 16 = some (stp 16 1 5 39 1 2 0) ∧
    RamWhole sLawResults3 (engOf (↑19 : Nat)) ∧
    lawStepWord sLawResults3 (↑19 : Nat) 17 = some (stp 17 1 5 47 1 3 0) ∧
    RamWhole sLawResults4 (engOf (↑19 : Nat)) ∧
    lawStepWord sLawResults4 (↑19 : Nat) 19 = some (stp 19 49 5 32 1 3 0) ∧
    RamWhole sLawResults5 (engOf (↑19 : Nat)) ∧
    lawStepWord sLawResults5 (↑19 : Nat) 18 = some (stp 18 49 5 32 1 3 0) ∧
    (slotOf sLawResults5 (↑19 : Nat)).ho = HoEval.ordinary ∧
    rb sLawResults5 (slotHosts (↑19 : Nat)) aeHostsMANACT = false ∧
    rf sLawResults5 (slotHosts (↑19 : Nat)) aeHostsLEFT = 0 := by
  and_intros <;> first | decide +kernel | exact ramWhole_of (by decide +kernel) _

/-- States that meet the hypotheses of the clauses of SlotCommands. -/
theorem test_SlotCommands :
    pdOn sSlotCommands1 (18 + engOf (↑19 : Nat)) = true ∧
    RamWhole sSlotCommands1 (engOf (↑19 : Nat)) ∧
    holdsType sSlotCommands1 (tQ 2) 2 = true ∧
    rb sSlotCommands1 (slotCtl (↑19 : Nat)) aeSlotctlEN = false ∧
    slotLive sSlotCommands1 (↑19 : Nat) = false ∧
    progCheck sSlotCommands1 (↑19 : Nat) = none ∧
    rb sSlotCommands1 (slotPhs (↑19 : Nat)) aeSlotphsPARKED = false ∧
    ((coefQ sSlotCommands1 (engOf (↑19 : Nat))).all fun (p : Nat × Word) => !inCoefArea sSlotCommands1 (↑19 : Nat) p.fst) = true ∧
    (slotLive sSlotCommands1 (↑19 : Nat) = false ∨ rbit sSlotCommands1 (slotAdtcfg (↑19 : Nat)) aeAdtcfgADTEN (↑7 : Nat) = false ∨ aeTmplS.get 1649267441664 = 0 ∨ aeTmplS.get 1649267441664 = 3) ∧
    rb sSlotCommands1 (slotHoctl (↑19 : Nat)) aeHoctlHOREQ = false ∧
    (cBase sSlotCommands1 (↑19 : Nat) + (↑127 : Nat)) % 8192 < 7168 ∧
    List.find? (fun (m : Nat) => inProgram sSlotCommands1 m ((cBase sSlotCommands1 (↑19 : Nat) + (↑127 : Nat)) % 8192)) (liveSlots sSlotCommands1 (engOf (↑19 : Nat))) = none ∧
    List.find? (fun (m : Nat) => inActiveBank sSlotCommands1 m ((cBase sSlotCommands1 (↑19 : Nat) + (↑127 : Nat)) % 8192)) (liveSlots sSlotCommands1 (engOf (↑19 : Nat))) = none ∧
    pdOn sSlotCommands2 (18 + engOf (↑19 : Nat)) = true ∧
    RamWhole sSlotCommands2 (engOf (↑19 : Nat)) ∧
    holdsType sSlotCommands2 (tQ 2) 2 = true ∧
    rb sSlotCommands2 (slotCtl (↑19 : Nat)) aeSlotctlEN = false ∧
    slotLive sSlotCommands2 (↑19 : Nat) = false ∧
    progCheck sSlotCommands2 (↑19 : Nat) = some (1, 63) ∧
    63 < 64 ∧
    pdOn sSlotCommands4 (18 + engOf (↑19 : Nat)) = true ∧
    RamWhole sSlotCommands4 (engOf (↑19 : Nat)) ∧
    holdsType sSlotCommands4 (tQ 2) 2 = true ∧
    rb sSlotCommands4 (slotCtl (↑19 : Nat)) aeSlotctlEN = true ∧
    monsOf sSlotCommands4 1 (↑19 : Nat) = [] ∧
    phaseOf sSlotCommands4 (↑19 : Nat) = 2 ∧
    ((coefQ sSlotCommands4 (engOf (↑19 : Nat))).all fun (p : Nat × Word) => !inCoefArea sSlotCommands4 (↑19 : Nat) p.fst) = true ∧
    slotLive sSlotCommands4 (↑19 : Nat) = true ∧
    (cBase sSlotCommands4 (↑19 : Nat) + (↑5 : Nat)) % 8192 < 7168 ∧
    List.find? (fun (m : Nat) => inProgram sSlotCommands4 m ((cBase sSlotCommands4 (↑19 : Nat) + (↑5 : Nat)) % 8192)) (liveSlots sSlotCommands4 (engOf (↑19 : Nat))) = none ∧
    List.find? (fun (m : Nat) => inActiveBank sSlotCommands4 m ((cBase sSlotCommands4 (↑19 : Nat) + (↑5 : Nat)) % 8192)) (liveSlots sSlotCommands4 (engOf (↑19 : Nat))) = some 19 ∧
    (slotOf sSlotCommands4 19).cbMode = false ∧
    ((coefQ sSlotCommands4 (engOf (↑19 : Nat))).any fun (p : Nat × Word) => p.fst == (cBase sSlotCommands4 (↑19 : Nat) + (↑5 : Nat)) % 8192) = false ∧
    (coefQ sSlotCommands4 (engOf (↑19 : Nat))).length < 16 ∧
    pdOn sSlotCommands5 (18 + engOf (↑19 : Nat)) = true ∧
    RamWhole sSlotCommands5 (engOf (↑19 : Nat)) ∧
    holdsType sSlotCommands5 (tQ 2) 2 = true ∧
    rb sSlotCommands5 (slotCtl (↑19 : Nat)) aeSlotctlEN = true ∧
    monsOf sSlotCommands5 1 (↑19 : Nat) = [] ∧
    phaseOf sSlotCommands5 (↑19 : Nat) = 1 ∧
    pdOn sSlotCommands6 (18 + engOf (↑19 : Nat)) = true ∧
    RamWhole sSlotCommands6 (engOf (↑19 : Nat)) ∧
    (cBase sSlotCommands6 (↑19 : Nat) + (↑5 : Nat)) % 8192 < 7168 ∧
    List.find? (fun (m : Nat) => inProgram sSlotCommands6 m ((cBase sSlotCommands6 (↑19 : Nat) + (↑5 : Nat)) % 8192)) (liveSlots sSlotCommands6 (engOf (↑19 : Nat))) = none ∧
    List.find? (fun (m : Nat) => inActiveBank sSlotCommands6 m ((cBase sSlotCommands6 (↑19 : Nat) + (↑5 : Nat)) % 8192)) (liveSlots sSlotCommands6 (engOf (↑19 : Nat))) = some 19 ∧
    (slotOf sSlotCommands6 19).cbMode = false ∧
    ((coefQ sSlotCommands6 (engOf (↑19 : Nat))).any fun (p : Nat × Word) => p.fst == (cBase sSlotCommands6 (↑19 : Nat) + (↑5 : Nat)) % 8192) = false ∧
    16 ≤ (coefQ sSlotCommands6 (engOf (↑19 : Nat))).length ∧
    pdOn (tF (lv 1 id) [(slotAdtcfg 19, aeAdtcfgADTEN, 128)]) (18 + engOf (↑19 : Nat)) = true ∧
    RamWhole (tF (lv 1 id) [(slotAdtcfg 19, aeAdtcfgADTEN, 128)]) (engOf (↑19 : Nat)) ∧
    holdsType (tF (lv 1 id) [(slotAdtcfg 19, aeAdtcfgADTEN, 128)]) (tQ 2) 2 = true ∧
    slotLive (tF (lv 1 id) [(slotAdtcfg 19, aeAdtcfgADTEN, 128)]) (↑19 : Nat) = true ∧
    rbit (tF (lv 1 id) [(slotAdtcfg 19, aeAdtcfgADTEN, 128)]) (slotAdtcfg (↑19 : Nat)) aeAdtcfgADTEN (↑7 : Nat) = true ∧
    (aeTmplS.get (aeTmplS.put 0 1) = 1 ∨ aeTmplS.get (aeTmplS.put 0 1) = 2) ∧
    pdOn (tF (lv 1 id) [(slotBase 19, aeSlotbaseCBASE, 7168)]) (18 + engOf (↑19 : Nat)) = true ∧
    RamWhole (tF (lv 1 id) [(slotBase 19, aeSlotbaseCBASE, 7168)]) (engOf (↑19 : Nat)) ∧
    7168 ≤ (cBase (tF (lv 1 id) [(slotBase 19, aeSlotbaseCBASE, 7168)]) (↑19 : Nat) + (↑127 : Nat)) % 8192 ∧
    pdOn (tF (lv 1 id) [(slotBase 19, aeSlotbaseCBASE, 256)]) (18 + engOf (↑19 : Nat)) = true ∧
    RamWhole (tF (lv 1 id) [(slotBase 19, aeSlotbaseCBASE, 256)]) (engOf (↑19 : Nat)) ∧
    (cBase (tF (lv 1 id) [(slotBase 19, aeSlotbaseCBASE, 256)]) (↑19 : Nat) + (↑0 : Nat)) % 8192 < 7168 ∧
    (∃ (m : Nat), m ∈ liveSlots (tF (lv 1 id) [(slotBase 19, aeSlotbaseCBASE, 256)]) (engOf (↑19 : Nat)) ∧ inProgram (tF (lv 1 id) [(slotBase 19, aeSlotbaseCBASE, 256)]) m ((cBase (tF (lv 1 id) [(slotBase 19, aeSlotbaseCBASE, 256)]) (↑19 : Nat) + (↑0 : Nat)) % 8192) = true) := by
  and_intros <;> first | decide +kernel | exact ramWhole_of (by decide +kernel) _

/-- States that meet the hypotheses of the clauses of PhaseGroups. -/
theorem test_PhaseGroups :
    List.find? (fun (p : Nat × Word) => p.fst == (↑3 : Nat)) sPhaseGroups1.ae.loads = some (3, 0) ∧
    pdOn sPhaseGroups1 18 = true ∧
    rb sPhaseGroups1 (aePhsctl (↑3 : Nat)) aePhsctlEN = true ∧
    rb sPhaseGroups1 (aePhsctl (↑3 : Nat)) aePhsctlFREEZE = false ∧
    (List.filter (fun (n : Nat) => !slotShed sPhaseGroups1 n) (phsMembers sPhaseGroups1 (↑3 : Nat))).length < min (min (max (if sint 0 ≤ 0 then rf sPhaseGroups1 (aePhsctl (↑3 : Nat)) aePhsctlSPARE else if sint (rd sPhaseGroups1 (aePhscap (↑3 : Nat))) ≤ 0 then (phsMembers sPhaseGroups1 (↑3 : Nat)).length else ((sint 0 + sint (rd sPhaseGroups1 (aePhscap (↑3 : Nat))) - 1) / sint (rd sPhaseGroups1 (aePhscap (↑3 : Nat)))).toNat + rf sPhaseGroups1 (aePhsctl (↑3 : Nat)) aePhsctlSPARE) (rf sPhaseGroups1 (aePhswin (↑3 : Nat)) aePhswinELO)) (rf sPhaseGroups1 (aePhswin (↑3 : Nat)) aePhswinEHI)) (phsMembers sPhaseGroups1 (↑3 : Nat)).length ∧
    List.find? (fun (p : Nat × Word) => p.fst == (↑3 : Nat)) sPhaseGroups2.ae.loads = some (3, 0) ∧
    pdOn sPhaseGroups2 18 = true ∧
    rb sPhaseGroups2 (aePhsctl (↑3 : Nat)) aePhsctlEN = true ∧
    rb sPhaseGroups2 (aePhsctl (↑3 : Nat)) aePhsctlFREEZE = false ∧
    min (min (max (if sint 0 ≤ 0 then rf sPhaseGroups2 (aePhsctl (↑3 : Nat)) aePhsctlSPARE else if sint (rd sPhaseGroups2 (aePhscap (↑3 : Nat))) ≤ 0 then (phsMembers sPhaseGroups2 (↑3 : Nat)).length else ((sint 0 + sint (rd sPhaseGroups2 (aePhscap (↑3 : Nat))) - 1) / sint (rd sPhaseGroups2 (aePhscap (↑3 : Nat)))).toNat + rf sPhaseGroups2 (aePhsctl (↑3 : Nat)) aePhsctlSPARE) (rf sPhaseGroups2 (aePhswin (↑3 : Nat)) aePhswinELO)) (rf sPhaseGroups2 (aePhswin (↑3 : Nat)) aePhswinEHI)) (phsMembers sPhaseGroups2 (↑3 : Nat)).length < (List.filter (fun (n : Nat) => !slotShed sPhaseGroups2 n) (phsMembers sPhaseGroups2 (↑3 : Nat))).length ∧
    max 1 (rf sPhaseGroups2 (aePhsctl (↑3 : Nat)) aePhsctlDWELL) ≤ tget 0 sPhaseGroups2.ae.lows (↑3 : Nat) + 1 ∧
    List.find? (fun (p : Nat × Word) => p.fst == (↑3 : Nat)) sPhaseGroups3.ae.loads = some (3, 0) ∧
    pdOn sPhaseGroups3 18 = true ∧
    rb sPhaseGroups3 (aePhsctl (↑3 : Nat)) aePhsctlEN = true ∧
    rb sPhaseGroups3 (aePhsctl (↑3 : Nat)) aePhsctlFREEZE = false ∧
    min (min (max (if sint 0 ≤ 0 then rf sPhaseGroups3 (aePhsctl (↑3 : Nat)) aePhsctlSPARE else if sint (rd sPhaseGroups3 (aePhscap (↑3 : Nat))) ≤ 0 then (phsMembers sPhaseGroups3 (↑3 : Nat)).length else ((sint 0 + sint (rd sPhaseGroups3 (aePhscap (↑3 : Nat))) - 1) / sint (rd sPhaseGroups3 (aePhscap (↑3 : Nat)))).toNat + rf sPhaseGroups3 (aePhsctl (↑3 : Nat)) aePhsctlSPARE) (rf sPhaseGroups3 (aePhswin (↑3 : Nat)) aePhswinELO)) (rf sPhaseGroups3 (aePhswin (↑3 : Nat)) aePhswinEHI)) (phsMembers sPhaseGroups3 (↑3 : Nat)).length < (List.filter (fun (n : Nat) => !slotShed sPhaseGroups3 n) (phsMembers sPhaseGroups3 (↑3 : Nat))).length ∧
    tget 0 sPhaseGroups3.ae.lows (↑3 : Nat) + 1 < max 1 (rf sPhaseGroups3 (aePhsctl (↑3 : Nat)) aePhsctlDWELL) ∧
    List.find? (fun (p : Nat × Word) => p.fst == (↑3 : Nat)) sPhaseGroups4.ae.loads = some (3, 0) ∧
    pdOn sPhaseGroups4 18 = true ∧
    rb sPhaseGroups4 (aePhsctl (↑3 : Nat)) aePhsctlEN = true ∧
    rb sPhaseGroups4 (aePhsctl (↑3 : Nat)) aePhsctlFREEZE = false ∧
    (List.filter (fun (n : Nat) => !slotShed sPhaseGroups4 n) (phsMembers sPhaseGroups4 (↑3 : Nat))).length = min (min (max (if sint 0 ≤ 0 then rf sPhaseGroups4 (aePhsctl (↑3 : Nat)) aePhsctlSPARE else if sint (rd sPhaseGroups4 (aePhscap (↑3 : Nat))) ≤ 0 then (phsMembers sPhaseGroups4 (↑3 : Nat)).length else ((sint 0 + sint (rd sPhaseGroups4 (aePhscap (↑3 : Nat))) - 1) / sint (rd sPhaseGroups4 (aePhscap (↑3 : Nat)))).toNat + rf sPhaseGroups4 (aePhsctl (↑3 : Nat)) aePhsctlSPARE) (rf sPhaseGroups4 (aePhswin (↑3 : Nat)) aePhswinELO)) (rf sPhaseGroups4 (aePhswin (↑3 : Nat)) aePhswinEHI)) (phsMembers sPhaseGroups4 (↑3 : Nat)).length ∧
    List.find? (fun (p : Nat × Word) => p.fst == (↑3 : Nat)) sPhaseGroups5.ae.loads = some (3, 0) ∧
    pdOn sPhaseGroups5 18 = true ∧
    (rb sPhaseGroups5 (aePhsctl (↑3 : Nat)) aePhsctlEN = false ∨ rb sPhaseGroups5 (aePhsctl (↑3 : Nat)) aePhsctlFREEZE = true) := by
  and_intros <;> decide +kernel

end W07

namespace W08

def cf (l : List (Nat × Fld × Nat)) : State := { tF tOn ([(sspCcfg 7, sspCcfgNX, 2), (sspCcfg 7, sspCcfgW, 2), (sspCcfg 7, sspCcfgTRGI, 1), (sspCper 7, sspCperPER, 12800), (sspPtmpl 7 0, sspPtmplPAIR, 9), (sspPtmpl 7 1, sspPtmplPAIR, 10), (sspPtmpl 7 1, sspPtmplOFF, 12799), (cvpApplied 0, ⟨19, 18⟩, 2)] ++ l) with port := 3000 }
def on7 := (sspCcfg 7, sspCcfgEN, 1)
def sPredictorCells1 : State := cf []
def sPredictorCells2 : State := cf [(sspCcfg 7, sspCcfgTRGI, 2)]
def md (s : State) (f : Ssp → Ssp) : State := { s with ssp := f s.ssp }
def rn (d : Bool) : SspRun := ⟨1, 7, ⟨0, 0, 0⟩, 0, 0, 0, none, 0, false, false, 4000, d, 4004, d⟩
def tr : DmStart := ⟨2990, 2990, 3⟩
def ins_ : List (Nat × DmStart) := [(57, tr)]
def sPredictorCells3 : State := md (cf [on7]) (fun x => { x with queue := [(2, 2990), (7, 2990)], runs := [rn false], repls := [⟨7,0,0,⟨0,0,0⟩,0⟩], ins := ins_ })
def sPredictorCells4 : State := md (cf [on7, (sspCcfg 7, sspCcfgDECIM, 4)]) (fun x => { x with queue := [(2, 2990), (7, 2990)], runs := [rn true], ins := ins_ })
def sPredictorCells5 : State := md (cf [on7, (sspCcfg 7, sspCcfgDECIM, 4)]) (fun x => { x with queue := [(2, 2990)], ins := ins_ })
def sPredictorCells6 : State := md (cf [on7, (sspCcfg 7, sspCcfgDECIM, 4)]) (fun x => { x with queue := [(2, 2990)], ins := ins_, cells := [(7, { Cell.off with skip := 1 })] })
def sPredictorCells7 : State := md (cf [on7]) (fun x => { x with queue := [(7, 2990), (2, 2990)], x := [(56, 70), (57, 0xFFFFFFFFFFF0)], cells := [(7, { Cell.off with queued := some (tr, 2992) })] })
def po (left : Bool) (arm : Nat) : Posting := ⟨7, 31, 400000, arm, 2, left, false⟩
def pt (left : Bool) (arm : Nat) : LaneTag := ⟨9, 31, arm, false, false, false, false, left, []⟩
def ps (left : Bool) (arm : Nat) : State := let t := md (cf [on7]) (fun x => { x with posts := [po left arm] }); tCvp t (fun c => { c with tags := [pt left arm] })
def dl (l : List (Nat × Fld × Nat)) (x : Mon) : State := let t := cf ([(dmCfg 255, dmCfgEN, 1), (dmCfg 255, dmCfgOWNER, 3), (dmBud 255, dmBudBUDGET, 50), (dmBud 255, dmBudGAP, 60), (cvpPaircfg 9, cvpPaircfgOWNER, 2), (cvpPaircfg 9, cvpPaircfgOIDX, 5)] ++ l); { t with dm := { t.dm with mons := [(255, x)] } }
def ck : DmCheck := ⟨⟨2900, 2900, 5⟩, 2999, false, none⟩
def ck2 : DmCheck := ⟨⟨2900, 2900, 5⟩, 3000, false, none⟩
def sDeadlines1 : State := dl [(dmCfg 255, dmCfgKIND, 2), (dmCfg 255, dmCfgSUBJ, 5)] { Mon.idle with chk := some ck, gapFrom := some 2939, gapLen := 60 }
def sDeadlines4 : State := dl [(dmCfg 255, dmCfgKIND, 3), (dmCfg 255, dmCfgSUBJ, 5), (dmCfg 255, dmCfgREACT, 0), (dmCfg 255, dmCfgOWNER, 0)] { Mon.idle with chk := some ck2, gapFrom := some 2940 }
def sDeadlines6 : State := tF (dl [] Mon.idle) [(dmCfg 255, dmCfgEN, 0)]
def tm : State := let t := cf []; { t with dm := { t.dm with jtSec := 100, jtNs := 5, setNs := 7 } }
def cg (l : List (Nat × Fld × Nat)) : State := cf ([(pctlCgctl 15, pctlCgctlEN, 1), (pctlCgtime 15, pctlCgtimePER, 1000), (pctlCgctl 15, pctlCgctlTICK, 0)] ++ l)
def rq1 (retr arm : Bool) : SspReq := ⟨7, 31, 2999, retr, arm, none⟩
def psn : State := md (cf [on7]) id
def mc : State := let t := dl [] Mon.idle; { t with sets := [⟨dmSts 255, dmStsMISS, .bits, 1⟩] }
def fl : State := md (cf [on7]) (fun x => { x with runs := (List.range 4).map (fun l => { rn true with lane := l, ends := 12003 - l / 3 }) })
def pog : Posting := { po true 3100 with gone := true }
def ptr : DmStart := tr
def lam : State := tF (cf [on7]) [(sspLambda 7, ⟨47, 0⟩, 0x100000000)]
def tmB : State := { tm with sets := [⟨pctlJtns, pctlJtnsJTBACK, .bits, 1⟩] }

/-- States that meet the hypotheses of the clauses of PredictorCells. -/
theorem test_PredictorCells :
    pdOn sPredictorCells1 26 = true ∧
    holdsType sPredictorCells1 (tQ 3) 3 = true ∧
    monsOf sPredictorCells1 2 (↑7 : Nat) = [] ∧
    rb sPredictorCells1 (sspCcfg (↑7 : Nat)) sspCcfgEN = false ∧
    cellCheck sPredictorCells1 (↑7 : Nat) = true ∧
    freeLane sPredictorCells1 12000 = some (0, 12000) ∧
    (sspEval sPredictorCells1 (↑7 : Nat) 1 [5, -9] [3, 4]).win = some (0, 0) ∧
    0 < cellCands sPredictorCells1 (↑7 : Nat) ∧
    candExcluded sPredictorCells1 (↑7 : Nat) 1 0 = false ∧
    pdOn sPredictorCells2 26 = true ∧
    holdsType sPredictorCells2 (tQ 3) 3 = true ∧
    monsOf sPredictorCells2 2 (↑7 : Nat) = [] ∧
    rb sPredictorCells2 (sspCcfg (↑7 : Nat)) sspCcfgEN = false ∧
    cellCheck sPredictorCells2 (↑7 : Nat) = false ∧
    pdOn sPredictorCells3 26 = true ∧
    holdsType sPredictorCells3 (tQ 3) 3 = true ∧
    monsOf sPredictorCells3 2 (↑7 : Nat) = [] ∧
    rb sPredictorCells3 (sspCcfg (↑7 : Nat)) sspCcfgEN = true ∧
    List.find? (fun (p : Nat × DmStart) => p.fst / 8 == (↑7 : Nat)) sPredictorCells3.ssp.ins = some (57, ptr) ∧
    (cellOf sPredictorCells3 (↑7 : Nat)).skip = 0 ∧
    cellRunning sPredictorCells3 (↑7 : Nat) = true ∧
    List.find? (fun (p : Nat × DmStart) => p.fst / 8 == (↑7 : Nat)) sPredictorCells4.ssp.ins = some (57, ptr) ∧
    pdOn sPredictorCells4 26 = true ∧
    rb sPredictorCells4 (sspCcfg (↑7 : Nat)) sspCcfgEN = true ∧
    monsOf sPredictorCells4 2 (↑7 : Nat) = [] ∧
    (cellOf sPredictorCells4 (↑7 : Nat)).skip = 0 ∧
    cellRunning sPredictorCells4 (↑7 : Nat) = false ∧
    cellQueued sPredictorCells4 (↑7 : Nat) = true ∧
    List.find? (fun (p : Nat × DmStart) => p.fst / 8 == (↑7 : Nat)) sPredictorCells5.ssp.ins = some (57, ptr) ∧
    pdOn sPredictorCells5 26 = true ∧
    rb sPredictorCells5 (sspCcfg (↑7 : Nat)) sspCcfgEN = true ∧
    monsOf sPredictorCells5 2 (↑7 : Nat) = [] ∧
    (cellOf sPredictorCells5 (↑7 : Nat)).skip = 0 ∧
    cellRunning sPredictorCells5 (↑7 : Nat) = false ∧
    cellQueued sPredictorCells5 (↑7 : Nat) = false ∧
    List.find? (fun (p : Nat × DmStart) => p.fst / 8 == (↑7 : Nat)) sPredictorCells6.ssp.ins = some (57, ptr) ∧
    pdOn sPredictorCells6 26 = true ∧
    rb sPredictorCells6 (sspCcfg (↑7 : Nat)) sspCcfgEN = true ∧
    monsOf sPredictorCells6 2 (↑7 : Nat) = [] ∧
    ((cellOf sPredictorCells6 (↑7 : Nat)).skip ≠ 0) ∧
    sPredictorCells7.ssp.queue = [((↑7 : Nat), 2990), (2, 2990)] ∧
    (cellOf sPredictorCells7 (↑7 : Nat)).queued = some (ptr, 2992) ∧
    freeLane sPredictorCells7 (dispatchFrom sPredictorCells7 2992 2990) = some (0, 12000) ∧
    pdOn sPredictorCells7 26 = true ∧
    sPredictorCells7.running = true ∧
    freeLane fl 12000 = some (3, 12002) ∧
    0 ∈ lanesOn fl ∧
    0 < 3 ∧
    12000 < 12002 ∧
    (sspEval lam (↑7 : Nat) 1 [5, -9] [3, 4]).win = some (1, 1) ∧
    0 < cellCands lam (↑7 : Nat) ∧
    candExcluded lam (↑7 : Nat) 1 0 = false ∧
    0 < 1 := by
  and_intros <;> decide +kernel

/-- States that meet the hypotheses of the clauses of PredictorPostings. -/
theorem test_PredictorPostings :
    pdOn (ps true 3100) 26 = true ∧
    earliestPost (ps true 3100) (↑7 : Nat) = some (po true 3100) ∧
    ((ps true 3100).cvp.tags.any fun (l : LaneTag) => l.tag == (rq1 true true).tag) = true ∧
    monsOf (ps true 3100) 2 (rq1 true true).cell = [] ∧
    (rq1 true true).retr = true ∧
    retractLate (ps true 3100) (rq1 true true).tag (rq1 true true).cyc = false ∧
    pdOn psn 26 = true ∧
    earliestPost psn (↑7 : Nat) = none ∧
    ((ps true 3002).cvp.tags.any fun (l : LaneTag) => l.tag == (rq1 true false).tag) = true ∧
    monsOf (ps true 3002) 2 (rq1 true false).cell = [] ∧
    (rq1 true false).retr = true ∧
    (rq1 true false).arm = false ∧
    retractLate (ps true 3002) (rq1 true false).tag (rq1 true false).cyc = true ∧
    pog ∈ (sspStrobe (ps true 3100) (rq1 true true)).ssp.posts ∧
    pog.tag = (rq1 true true).tag ∧
    ((ps true 3000).cvp.tags.any fun (l : LaneTag) => l.tag == (rq1 false true).tag) = true ∧
    monsOf (ps true 3000) 2 (rq1 false true).cell = [] ∧
    (rq1 false true).retr = false ∧
    (ps true 3000).running = true ∧
    armDue (ps true 3000) (↑31 : Nat) = true ∧
    ((ps true 3000).ssp.posts.any fun (y : Posting) => y.tag == (↑31 : Nat) && !y.left) = false ∧
    (ps false 3000).running = true ∧
    armDue (ps false 3000) (↑31 : Nat) = true ∧
    ((ps false 3000).ssp.posts.any fun (y : Posting) => y.tag == (↑31 : Nat) && !y.left) = true := by
  and_intros <;> decide +kernel

/-- States that meet the hypotheses of the clauses of Deadlines. -/
theorem test_Deadlines :
    sDeadlines1.running = true ∧
    (monOf sDeadlines1 (↑255 : Nat)).chk = some ck ∧
    ck.missed = false ∧
    ck.dl < sDeadlines1.port ∧
    (rf sDeadlines1 (dmCfg (↑255 : Nat)) dmCfgREACT ≠ 0 ∨ rf sDeadlines1 (dmCfg (↑255 : Nat)) dmCfgHOLDMAX ≤ rf sDeadlines1 (dmSts (↑255 : Nat)) dmStsHOLDRUN ∨ rf sDeadlines1 (dmCfg (↑255 : Nat)) dmCfgKIND = 0 ∨ rf sDeadlines1 (dmCfg (↑255 : Nat)) dmCfgKIND = 3) ∧
    (subjOff sDeadlines1 (↑255 : Nat) = false ∨ (monOf sDeadlines1 (↑255 : Nat)).pend = none) ∧
    (monOf sDeadlines1 (↑255 : Nat)).gapFrom = some 2939 ∧
    ((monOf sDeadlines1 (↑255 : Nat)).gapLen ≠ 0) ∧
    2939 + (monOf sDeadlines1 (↑255 : Nat)).gapLen < sDeadlines1.port ∧
    (rf sDeadlines1 (dmCfg (↑255 : Nat)) dmCfgKIND ≠ 3 ∨ 8 ≤ rf sDeadlines1 (dmCfg (↑255 : Nat)) dmCfgOWNER ∨ rf sDeadlines1 (dmCfg (↑255 : Nat)) dmCfgOWNER ≠ (↑(tQ 13).who : Nat) ∨ (monOf sDeadlines1 (↑255 : Nat)).chk = none) ∧
    setsAt sDeadlines1 (dmSts (↑255 : Nat)) (dmStsMISS.put 0 1) = [] ∧
    (monOf sDeadlines4 (↑255 : Nat)).chk = some ck2 ∧
    (monOf sDeadlines4 (↑255 : Nat)).pend = none ∧
    rf sDeadlines4 (dmCfg (↑255 : Nat)) dmCfgKIND = 3 ∧
    rf sDeadlines4 (dmCfg (↑255 : Nat)) dmCfgOWNER < 8 ∧
    rf sDeadlines4 (dmCfg (↑255 : Nat)) dmCfgOWNER = (↑(tQ 13).who : Nat) ∧
    ck2.missed = false ∧
    sDeadlines4.port ≤ ck2.dl ∧
    rb sDeadlines4 (dmSts (↑255 : Nat)) dmStsSAFEACT = false ∧
    holdsType sDeadlines6 (tQ 13) 13 = true ∧
    rb sDeadlines6 (dmCfg (↑255 : Nat)) dmCfgEN = false ∧
    (setsAt mc (dmSts (↑255 : Nat)) (dmStsMISS.put 0 1) ≠ []) := by
  and_intros <;> decide +kernel

/-- States that meet the hypotheses of the clauses of TimeAndCadence. -/
theorem test_TimeAndCadence :
    holdsType tm (tQ 13) 13 = true ∧
    (¬(BitVec.getLsbD (99 : Word) 46 = true ∧ setsAt tm pctlJtns (pctlJtnsJTBACK.put 0 1) ≠ [])) ∧
    (BitVec.toNat (99 : Word) < tm.dm.jtSec ∨ BitVec.toNat (99 : Word) = tm.dm.jtSec ∧ tm.dm.setNs * 2 ^ 32 < tm.dm.jtNs) ∧
    tm.dm.setStep = false ∧
    rb tm (pctlCgctl (↑15 : Nat)) pctlCgctlEN = false ∧
    monsOf tm 3 (↑15 : Nat) = [] ∧
    (¬((BitVec.ofNat 48 (2 ^ 47 + 2 ^ 46 + 2 ^ 32 - 1)).toNat < tm.dm.jtSec ∨ (BitVec.ofNat 48 (2 ^ 47 + 2 ^ 46 + 2 ^ 32 - 1)).toNat = tm.dm.jtSec ∧ tm.dm.setNs * 2 ^ 32 < tm.dm.jtNs) ∨ tm.dm.setStep = true) ∧
    cgDue (cg []) (↑15 : Nat) = true ∧
    monsOf (cg []) 3 (↑15 : Nat) = [] ∧
    holdsType tmB (tQ 13) 13 = true ∧
    ((BitVec.ofNat 48 (2 ^ 47 + 2 ^ 46 + 2 ^ 32 - 1)).getLsbD 46 = true ∧ setsAt tmB pctlJtns (pctlJtnsJTBACK.put 0 1) ≠ []) := by
  and_intros <;> decide +kernel

end W08

namespace W09

def er (p c cons : Nat) (l : List (Nat × Fld × Nat)) (last : Nat) : State :=
  let t := tF tOn ([(semChcfg c, semChcfgEN, 1), (semChcfg c, semChcfgPSEL, p), (semChcfg c, semChcfgCONS, cons)] ++ l)
  { t with port := 100, sem := { t.sem with fired := [p, 9], last := [(c, last)] } }
def sEventRouting1 : State := er 0x205 255 0x7F [(slotSrc 0x7F, aeSlotsrcTRIG, 1), (slotSrc 0x7F, aeSlotsrcSECH, 255)] 0
def sEventRouting2 : State := er 0x205 255 0x7F [(slotSrc 0x7F, aeSlotsrcTRIG, 1), (slotSrc 0x7F, aeSlotsrcSECH, 254)] 0
def sEventRouting3 : State := er 0x205 255 0x80 [] 202
def sEventRouting4 : State := er 0x205 255 0xBF [] 201
def sEventRouting5 : State := er 0x205 255 0xC0 [] 201
def sEventRouting6 : State := er 0x205 255 0xE7 [(pctlPd (coreDomain 9), pctlPdSTATE, 0)] 201
def sEventRouting7 : State := er 0x205 255 0xE8 [(pctlPd 55, pctlPdSTATE, 0)] 201
def sEventRouting8 : State := er 0x205 255 0xEC [] 201
def sEventRouting9 : State := er 0x205 255 0xEC [(pctlPd 50, pctlPdSTATE, 0)] 201
def cv (en cons psel own sec : Nat) : Word := semChcfgSEC.put (semChcfgEN.put (semChcfgCONS.put (semChcfgPSEL.put (semChcfgOWNER.put 0 own) psel) cons) en) sec
def ms : State := tF tOn [(semChcfg 255, semChcfgEN, 1), (semChcfg 255, semChcfgCONS, 0x81), (semCons 0x81, semConsVALID, 1), (semCons 0x81, semConsCH, 255), (semChcfg 255, semChcfgOWNER, 0), (semTgpr 15, ⟨16, 16⟩, 0)]
def sMatrixSettings2 : State := ms
def sMatrixSettings5 : State := tF ms [(semTglock, semTglockLOCK, 0x8000)]
def ic (l : List (Nat × Fld × Nat)) (f : Intc → Intc) : State := let t := tLive 2 []; let t := tF t l; { t with intc := f t.intc, port := 400 }
def s5 (n a b c : Nat) : List (Nat × Fld × Nat) := [(intcSrc n, intcSrcPRIO, a), (intcSrc n, intcSrcTGT, b), (intcSrc n, if srcCount n then intcSrcCNT else intcSrcACTIVE, c)]
def sInterruptSelection1 : State := ic (s5 256 3 4 255) (fun i => { i with strobes := [5, 256] })
def sInterruptSelection2 : State := ic (s5 5 3 4 0 ++ [(cvpTglatch, cvpTglatchTGLAT, 0x20)]) (fun i => { i with holdEnd := [(31, 800)] })
def sv (k : Nat) : State := ic (s5 256 3 4 255 ++ [(intcSrc 256, intcSrcINSVC, 1), (intcSrc 256, intcSrcSVCCORE, k)]) id
def sEndOfInterrupt1 : State := sv 9
def cl (n : Nat) : State := ic (s5 n 3 4 1 ++ [(intcCorests 0, intcCorestsPVALID, 1), (intcCorests 0, intcCorestsPRES, n), (intcGhold (n / 16), intcGholdHOLDOFF, 7)]) id
def sInterruptClaims1 : State := cl 256
def sInterruptClaims3 : State := tF (cl 511) [(intcCorests 0, intcCorestsPVALID, 0)]
def msL : State := tF ms [(semChcfg 255, semChcfgSEC, 2)]
def s55 : State := er 0x205 255 0xE8 [] 201

/-- States that meet the hypotheses of the clauses of EventMatrix. -/
theorem test_EventMatrix :
    sEventRouting1.sem.fired = [517, 9] ∧
    pdOn sEventRouting1 50 = true ∧
    (255 < 256 ∧ ∀ (d : Nat), d < 256 → (rb sEventRouting1 (semChcfg d) semChcfgEN && rf sEventRouting1 (semChcfg d) semChcfgPSEL == 517) = (d == 255)) ∧
    (fabricConsumer (rf sEventRouting1 (semChcfg 255) semChcfgCONS) && tget 0 sEventRouting1.sem.last 255 == 2 * sEventRouting1.port + b2n true + 1) = false ∧
    rf sEventRouting1 (semChcfg 255) semChcfgCONS < 128 ∧
    (pdOn sEventRouting1 (18 + rf sEventRouting1 (semChcfg 255) semChcfgCONS / 16) && rf sEventRouting1 (slotSrc (rf sEventRouting1 (semChcfg 255) semChcfgCONS)) aeSlotsrcTRIG == 1 && rf sEventRouting1 (slotSrc (rf sEventRouting1 (semChcfg 255) semChcfgCONS)) aeSlotsrcSECH == 255) = true ∧
    semChRefusals sEventRouting1 (tQ 4) (↑255 : Nat) 5 = [] ∧
    (semChcfgEN.get 5 == 1 && rb sEventRouting1 (semCons (semChcfgCONS.get 5)) semConsVALID && rf sEventRouting1 (semCons (semChcfgCONS.get 5)) semConsCH != (↑255 : Nat)) = false ∧
    holdsType sEventRouting1 (tQ 4) 4 = true ∧
    rbit sEventRouting1 semTglock semTglockLOCK (↑15 : Nat) = false ∧
    sEventRouting2.sem.fired = [517, 9] ∧
    pdOn sEventRouting2 50 = true ∧
    (255 < 256 ∧ ∀ (d : Nat), d < 256 → (rb sEventRouting2 (semChcfg d) semChcfgEN && rf sEventRouting2 (semChcfg d) semChcfgPSEL == 517) = (d == 255)) ∧
    (fabricConsumer (rf sEventRouting2 (semChcfg 255) semChcfgCONS) && tget 0 sEventRouting2.sem.last 255 == 2 * sEventRouting2.port + b2n true + 1) = false ∧
    rf sEventRouting2 (semChcfg 255) semChcfgCONS < 128 ∧
    (pdOn sEventRouting2 (18 + rf sEventRouting2 (semChcfg 255) semChcfgCONS / 16) && rf sEventRouting2 (slotSrc (rf sEventRouting2 (semChcfg 255) semChcfgCONS)) aeSlotsrcTRIG == 1 && rf sEventRouting2 (slotSrc (rf sEventRouting2 (semChcfg 255) semChcfgCONS)) aeSlotsrcSECH == 255) = false ∧
    sEventRouting3.sem.fired = [517, 9] ∧
    pdOn sEventRouting3 50 = true ∧
    (255 < 256 ∧ ∀ (d : Nat), d < 256 → (rb sEventRouting3 (semChcfg d) semChcfgEN && rf sEventRouting3 (semChcfg d) semChcfgPSEL == 517) = (d == 255)) ∧
    (fabricConsumer (rf sEventRouting3 (semChcfg 255) semChcfgCONS) && tget 0 sEventRouting3.sem.last 255 == 2 * sEventRouting3.port + b2n true + 1) = true ∧
    sEventRouting4.sem.fired = [517, 9] ∧
    pdOn sEventRouting4 50 = true ∧
    (255 < 256 ∧ ∀ (d : Nat), d < 256 → (rb sEventRouting4 (semChcfg d) semChcfgEN && rf sEventRouting4 (semChcfg d) semChcfgPSEL == 517) = (d == 255)) ∧
    (fabricConsumer (rf sEventRouting4 (semChcfg 255) semChcfgCONS) && tget 0 sEventRouting4.sem.last 255 == 2 * sEventRouting4.port + b2n true + 1) = false ∧
    128 ≤ rf sEventRouting4 (semChcfg 255) semChcfgCONS ∧
    rf sEventRouting4 (semChcfg 255) semChcfgCONS < 192 ∧
    sEventRouting5.sem.fired = [517, 9] ∧
    pdOn sEventRouting5 50 = true ∧
    (255 < 256 ∧ ∀ (d : Nat), d < 256 → (rb sEventRouting5 (semChcfg d) semChcfgEN && rf sEventRouting5 (semChcfg d) semChcfgPSEL == 517) = (d == 255)) ∧
    (fabricConsumer (rf sEventRouting5 (semChcfg 255) semChcfgCONS) && tget 0 sEventRouting5.sem.last 255 == 2 * sEventRouting5.port + b2n true + 1) = false ∧
    192 ≤ rf sEventRouting5 (semChcfg 255) semChcfgCONS ∧
    rf sEventRouting5 (semChcfg 255) semChcfgCONS < 232 ∧
    pdOn sEventRouting5 (coreDomain ((rf sEventRouting5 (semChcfg 255) semChcfgCONS - 192) / 4)) = true ∧
    sEventRouting6.sem.fired = [517, 9] ∧
    pdOn sEventRouting6 50 = true ∧
    (255 < 256 ∧ ∀ (d : Nat), d < 256 → (rb sEventRouting6 (semChcfg d) semChcfgEN && rf sEventRouting6 (semChcfg d) semChcfgPSEL == 517) = (d == 255)) ∧
    (fabricConsumer (rf sEventRouting6 (semChcfg 255) semChcfgCONS) && tget 0 sEventRouting6.sem.last 255 == 2 * sEventRouting6.port + b2n true + 1) = false ∧
    192 ≤ rf sEventRouting6 (semChcfg 255) semChcfgCONS ∧
    rf sEventRouting6 (semChcfg 255) semChcfgCONS < 232 ∧
    pdOn sEventRouting6 (coreDomain ((rf sEventRouting6 (semChcfg 255) semChcfgCONS - 192) / 4)) = false ∧
    sEventRouting7.sem.fired = [517, 9] ∧
    pdOn sEventRouting7 50 = true ∧
    (255 < 256 ∧ ∀ (d : Nat), d < 256 → (rb sEventRouting7 (semChcfg d) semChcfgEN && rf sEventRouting7 (semChcfg d) semChcfgPSEL == 517) = (d == 255)) ∧
    (fabricConsumer (rf sEventRouting7 (semChcfg 255) semChcfgCONS) && tget 0 sEventRouting7.sem.last 255 == 2 * sEventRouting7.port + b2n true + 1) = false ∧
    232 ≤ rf sEventRouting7 (semChcfg 255) semChcfgCONS ∧
    rf sEventRouting7 (semChcfg 255) semChcfgCONS < 236 ∧
    pdOn sEventRouting7 55 = false ∧
    s55.sem.fired = [517, 9] ∧
    pdOn s55 50 = true ∧
    (255 < 256 ∧ ∀ (d : Nat), d < 256 → (rb s55 (semChcfg d) semChcfgEN && rf s55 (semChcfg d) semChcfgPSEL == 517) = (d == 255)) ∧
    (fabricConsumer (rf s55 (semChcfg 255) semChcfgCONS) && tget 0 s55.sem.last 255 == 2 * s55.port + b2n true + 1) = false ∧
    232 ≤ rf s55 (semChcfg 255) semChcfgCONS ∧
    rf s55 (semChcfg 255) semChcfgCONS < 236 ∧
    pdOn s55 55 = true ∧
    sEventRouting8.sem.fired = [517, 9] ∧
    pdOn sEventRouting8 50 = true ∧
    (255 < 256 ∧ ∀ (d : Nat), d < 256 → (rb sEventRouting8 (semChcfg d) semChcfgEN && rf sEventRouting8 (semChcfg d) semChcfgPSEL == 517) = (d == 255)) ∧
    (fabricConsumer (rf sEventRouting8 (semChcfg 255) semChcfgCONS) && tget 0 sEventRouting8.sem.last 255 == 2 * sEventRouting8.port + b2n true + 1) = false ∧
    236 ≤ rf sEventRouting8 (semChcfg 255) semChcfgCONS ∧
    sEventRouting9.sem.fired = [517, 9] ∧
    (pdOn sEventRouting9 50 = false ∨ ∀ (d : Nat), d < 256 → (rb sEventRouting9 (semChcfg d) semChcfgEN && rf sEventRouting9 (semChcfg d) semChcfgPSEL == 517) = false) ∧
    pdOn sMatrixSettings2 50 = true ∧
    semChRefusals sMatrixSettings2 (tQ 4) (↑254 : Nat) (cv 1 129 7 0 0) = [] ∧
    (semChcfgEN.get (cv 1 129 7 0 0) == 1 && rb sMatrixSettings2 (semCons (semChcfgCONS.get (cv 1 129 7 0 0))) semConsVALID && rf sMatrixSettings2 (semCons (semChcfgCONS.get (cv 1 129 7 0 0))) semConsCH != (↑254 : Nat)) = true ∧
    holdsType sMatrixSettings5 (tQ 4) 4 = true ∧
    rbit sMatrixSettings5 semTglock semTglockLOCK (↑15 : Nat) = true ∧
    pdOn sMatrixSettings5 50 = true ∧
    pdOn msL 50 = true ∧
    (semChRefusals msL (tQ 4) (↑255 : Nat) (cv 1 128 7 0 0) ≠ []) := by
  and_intros <;> decide +kernel

/-- States that meet the hypotheses of the clauses of Interrupts. -/
theorem test_Interrupts :
    sInterruptSelection1.running = true ∧
    srcCount (↑256 : Nat) = true ∧
    sInterruptSelection1.intc.strobes.contains (↑256 : Nat) = true ∧
    (∀ (o : SrcOld), o ∈ sInterruptSelection1.intc.late → o.cyc + 1 < sInterruptSelection1.port) ∧
    mayPresent sInterruptSelection1 (↑2 : Nat) = true ∧
    accepts (selView sInterruptSelection1) (↑2 : Nat) (↑256 : Nat) = true ∧
    holdsType sInterruptSelection1 (tQ 5) 5 = true ∧
    ((↑256 : Nat) ≠ 447) ∧
    (∀ (k : Nat), k < 10 → presented sInterruptSelection1 (↑256 : Nat) k = false) ∧
    (BitVec.getLsbD (5 : Word) 41 = false ∨ setsAt sInterruptSelection1 (intcSrc (↑256 : Nat)) (intcSrcOVF.put 0 1) = []) ∧
    (sInterruptSelection1.intc.offered = [] ∨ true = false ∨ rb sInterruptSelection1 intcCtrl intcCtrlPHOLD = true) ∧
    ((↑(tQ 5).who : Nat) ≠ (↑2 : Nat)) ∧
    (↑256 : Nat) < 448 ∧
    sInterruptSelection2.running = true ∧
    srcCount (↑5 : Nat) = false ∧
    (tget 0 sInterruptSelection2.intc.holdEnd (↑31 : Nat) ≠ 0) ∧
    tget 0 sInterruptSelection2.intc.holdEnd (↑31 : Nat) ≤ 2 * sInterruptSelection2.port ∧
    (mayPresent sInterruptSelection2 (↑2 : Nat) = false ∨ ∀ (j : Nat), j < 512 → accepts (selView sInterruptSelection2) (↑2 : Nat) j = false) ∧
    (↑(tQ 0).who : Nat) = (↑0 : Nat) ∧
    rf sInterruptClaims1 (intcCorests (↑0 : Nat)) intcCorestsPRES = (↑256 : Nat) ∧
    (rb sInterruptClaims1 (intcCorests (↑0 : Nat)) intcCorestsPVALID && srcActive sInterruptClaims1 (rf sInterruptClaims1 (intcCorests (↑0 : Nat)) intcCorestsPRES) && (if srcPrio sInterruptClaims1 (rf sInterruptClaims1 (intcCorests (↑0 : Nat)) intcCorestsPRES) = 0 then tget 0 sInterruptClaims1.intc.spared (↑0 : Nat) else srcPrio sInterruptClaims1 (rf sInterruptClaims1 (intcCorests (↑0 : Nat)) intcCorestsPRES)) != 0 && !rb sInterruptClaims1 (intcSrc (rf sInterruptClaims1 (intcCorests (↑0 : Nat)) intcCorestsPRES)) intcSrcINSVC) = true ∧
    rf sInterruptClaims3 (intcCorests (↑0 : Nat)) intcCorestsPRES = (↑511 : Nat) ∧
    (rb sInterruptClaims3 (intcCorests (↑0 : Nat)) intcCorestsPVALID && srcActive sInterruptClaims3 (rf sInterruptClaims3 (intcCorests (↑0 : Nat)) intcCorestsPRES) && (if srcPrio sInterruptClaims3 (rf sInterruptClaims3 (intcCorests (↑0 : Nat)) intcCorestsPRES) = 0 then tget 0 sInterruptClaims3.intc.spared (↑0 : Nat) else srcPrio sInterruptClaims3 (rf sInterruptClaims3 (intcCorests (↑0 : Nat)) intcCorestsPRES)) != 0 && !rb sInterruptClaims3 (intcSrc (rf sInterruptClaims3 (intcCorests (↑0 : Nat)) intcCorestsPRES)) intcSrcINSVC) = false ∧
    448 ≤ (↑511 : Nat) := by
  and_intros <;> decide +kernel

/-- States that meet the hypotheses of the clauses of EndOfInterrupt. -/
theorem test_EndOfInterrupt :
    inService sEndOfInterrupt1 (↑256 : Nat) (↑9 : Nat) = true ∧
    inService sEndOfInterrupt1 (↑256 : Nat) (↑0 : Nat) = false := by
  and_intros <;> decide +kernel

end W09

namespace W10

def ms (l : List (Nat × Fld × Nat)) (f : MemSys → MemSys) : State := let t := tF tOn l; { t with msys := f t.msys, port := 64 }
def sScrubbing1 : State := ms [(memCtrl, memCtrlSCRUBEN, 1)] (fun m => { m with pos := [(5, 0x3FFF)] })
def rvs : List (Nat × Fld × Nat) := [(memResv 0, memResvEN, 1), (memResv 0, memResvPORT, 3), (memResv 0, memResvSTRIPE, 2), (memResv 0, memResvAMT, 56)]
def rva : List (Nat × Fld × Nat) := [(memResvact 1, memResvEN, 1), (memResvact 1, memResvPORT, 4), (memResvact 1, memResvSTRIPE, 2), (memResvact 1, memResvAMT, 50)]
def sReservations1 : State := ms (rvs ++ rva) (fun m => { m with adm := some (1, 2, 3, 1, 0) })
def ew (p m : Nat) : Word := enV.put (enPnum.put (enMeta.put 0 m) p) 1
def pn (l : List (Nat × Fld × Nat)) (m : Nat) (f : Pne → Pne) : State :=
  let t := tF tOn ([(pneCcfg, pneCcfgEN, 1), (pneCcfg, pneCcfgBASE, 4), (pneSts, pneStsREADY, 1), (mlkRole, mlkRoleROLE, 5), (jneSts, jneStsSTATE, 3)] ++ l)
  let t := { t with port := 100, pne := f { t.pne with region := (4, 2), phase := 6 } }
  if m = 0 then t else { t with mem := [(0x41280, 1234), (0x41281, ew 98309 m)] }
def op (k : Nat) : PneOp := ⟨4, 2, k, 98309, 77, BitVec.ofNat 48 (2 * 4096 + 3*512), 0, 200⟩
def hx (c : Nat) : HmpTx := ⟨0, useFill 98309, false, 0, 2, [], false, false, 0, [(c, 55), (0, 0x2613)]⟩
def sPointOperations1 : State := pn [] 0 id
def sPointOperations2 : State := pn [(pneSts, pneStsREADY, 0)] 0 (fun p => { p with ops := [op 0] })
def sPointOperations3 : State := pn [] 0 (fun p => { p with ops := [op 7] })
def sPointOperations4 : State := pn [] 0 (fun p => { p with ops := [op 1] })
def sPointOperations5 : State := pn [] 0x2600 (fun p => { p with ops := [op 2] })
def sPointOperations6 : State := pn [] 0x2600 (fun p => { p with ops := [op 0] })
def sPointOperations7 : State := pn [] 0x2000 (fun p => { p with ops := [op 1] })
def sPointOperations9 : State := pn [] 0x2600 (fun p => { p with ops := [op 1] })
def sPointOperations10 : State := pn [(sspRefsrc 7 3, sspRefsrcKIND, 1), (sspRefsrc 7 3, sspRefsrcSRC, 98309), (aeRefsrc 7 15 3, aeRefsrcKIND, 1), (aeRefsrc 7 15 3, aeRefsrcSRC, 98309)] 0x2600 (fun p => { p with deliv := [⟨98309, 9, 0x2600, none⟩] })
def fillS (c : Nat) (m : Nat) (ways : List (Nat × Word)) (deliv : Bool) : State := let t := pn [] m (fun p => { p with fills := [(98309, deliv)] }); { t with mem := if ways.isEmpty then t.mem else ways, ports := { t.ports with done := [hx c] } }
def sPointOperations11 : State := fillS 0 0 [] false
def sPointOperations12 : State := fillS 1 0 [] false
def full : List (Nat × Word) := (List.range 8).map (fun j => (0x41281 + 2 * j, enW.put (ew j 0x2000) 1))
def sPointOperations13 : State := fillS 0 0 full false
def sPointCache1 : State := pn [(pneCcfg, pneCcfgEN, 0)] 0x2600 id
def sPointCache3 : State := pn [] 0x2600 (fun p => { p with phase := 7 })
def sPointCache4 : State := pn [] 0x2600 (fun p => { p with phase := 5, pins := [98309] })
def sPointCache5 : State := { pn [] 0x2600 (fun p => { p with phase := 6 }) with port := 90000000 }
def sPointCache6 : State := pn [] 0x2600 (fun p => { p with units := [(3, { PUnit.zero with scan := some (1, 5) })] })
def sPointCache7 : State := pn [] 0 (fun p => { p with units := [(3, { PUnit.zero with scan := some (1, 5) })] })
def sPointCache8 : State := pn [(pneUstate 3, pneUstateUSTATE, 3)] 0 (fun p => { p with units := [(3, { PUnit.zero with rest := 5000000 })] })
def wa (l : List (Nat × Fld × Nat)) (f : Wac → Wac) (g : Pne → Pne) : State :=
  let t := tF tOn ([(wacCtrl, wacCtrlEN, 1), (wacSts, wacStsACTIVE, 1), (wacBase, wacBaseSTBASE, 0x1000), (wacBase, wacBaseCFGBASE, 0x2000), (wacCtrl, wacCtrlNSW, 2), (wacCtrl, wacCtrlUPER, 1), (wacCtrl, wacCtrlCKPER, 1), (pneSts, pneStsREADY, 1), (mlkRole, mlkRoleROLE, 5), (jneSts, jneStsSTATE, 3)] ++ l)
  { t with port := 300, wac := f t.wac, pne := g t.pne, mem := [(0x1001, 7), (0x1012, 9)] }
def pd (st : Nat) : PneDone := ⟨2, 5, st, 10, 0x5C00, 0, 0⟩
def ww (z : Bool) (st : Nat) : WacWrite := ⟨1, 2, 30, none, z, st⟩
def sWearAccounting1 : State := wa [(wacCtrl, wacCtrlEN, 0)] id id
def sWearAccounting2 : State := wa [] id id
def sWearAccounting3 : State := wa [] (fun w => { w with round := some (2, 600) }) id
def sWearAccounting4 : State := { wa [] id id with port := 300000005 }
def sWearAccounting5 : State := wa [] (fun w => { w with seq := 5, writes := [ww false 1] }) (fun p => { p with done := [pd 0] })
def sWearAccounting6 : State := wa [] (fun w => { w with seq := 5, writes := [ww false 2] }) (fun p => { p with done := [pd 0] })
def sPointCache1a : State := pn [(pneCcfg, pneCcfgEN, 0)] 0x2600 (fun p => { p with phase := 7 })
def scrU : State := ms [(memCtrl, memCtrlSCRUBEN, 1)] (fun m => { m with slots := [(5, (2, 1))] })

/-- States that meet the hypotheses of the clauses of ScrubbingAndFrames. -/
theorem test_ScrubbingAndFrames :
    sScrubbing1.running = true ∧
    rb sScrubbing1 memCtrl memCtrlSCRUBEN = true ∧
    arrayCode sScrubbing1 (scrubNext sScrubbing1 (↑5 : Nat)) = 0 ∧
    scrubFree sScrubbing1 (↑5 : Nat) = true ∧
    (slotsUsed sScrubbing1 (↑5 : Nat) < if (↑5 : Nat) < 64 ∧ bankFast sScrubbing1 ((↑5 : Nat) / 4) ((↑5 : Nat) % 4) = true then 8 else 1) ∧
    upsetAt sScrubbing1 (upsetKey (scrubNext sScrubbing1 (↑5 : Nat))) = Upset.none ∧
    upsetAt sScrubbing1 (tagUpsetKey (scrubNext sScrubbing1 (↑5 : Nat))) = Upset.none ∧
    (↑5 : Nat) < 80 ∧
    holdsType sScrubbing1 (tQ 6) 6 = true ∧
    rb sScrubbing1 memResvctl memResvctlBUSY = false ∧
    sScrubbing1.port % 32 = 0 ∧
    sReservations1.msys.adm = some (1, 2, 3, 1, 0) ∧
    1 < 8 ∧
    (slotShare scrU (↑5 : Nat) ≤ slotsUsed scrU (↑5 : Nat) ∨ scrubFree scrU (↑5 : Nat) = false) := by
  and_intros <;> decide +kernel

/-- States that meet the hypotheses of the clauses of PointOperations. -/
theorem test_PointOperations :
    pdOn sPointOperations1 45 = true ∧
    (↑{ who := 2, otype := 8 : Req }.who : Nat) = (↑2 : Nat) ∧
    rb sPointOperations1 (pneMbsts (↑2 : Nat)) pneMbstsBUSY = false ∧
    (0 = 0 ∨ holdsType sPointOperations1 { who := 2, otype := 8 : Req } 8 = true) ∧
    (1 = 0 ∨ holdsType sPointOperations1 { who := 2, otype := 8 : Req } 8 = true) ∧
    (2 = 0 ∨ holdsType sPointOperations1 { who := 2, otype := 8 : Req } 8 = true) ∧
    (3 = 0 ∨ holdsType sPointOperations1 { who := 2, otype := 8 : Req } 8 = true) ∧
    (4 = 0 ∨ holdsType sPointOperations1 { who := 2, otype := 8 : Req } 8 = true) ∧
    (5 = 0 ∨ holdsType sPointOperations1 { who := 2, otype := 8 : Req } 8 = true) ∧
    (6 = 0 ∨ holdsType sPointOperations1 { who := 2, otype := 8 : Req } 8 = true) ∧
    (7 = 0 ∨ holdsType sPointOperations1 { who := 2, otype := 8 : Req } 8 = true) ∧
    pdLive sPointOperations2 45 = true ∧
    sPointOperations2.running = true ∧
    sPointOperations2.pne.unsent = [] ∧
    nextOp sPointOperations2 = some (op 0) ∧
    (op 0).src = 4 ∧
    (op 0).id < 12 ∧
    rb sPointOperations2 pneSts pneStsREADY = false ∧
    pdLive sPointOperations3 45 = true ∧
    sPointOperations3.running = true ∧
    sPointOperations3.pne.unsent = [] ∧
    nextOp sPointOperations3 = some (op 7) ∧
    (op 7).src = 4 ∧
    (op 7).id < 12 ∧
    rb sPointOperations3 pneSts pneStsREADY = true ∧
    checkArgs sPointOperations3 (op 7) = some 7 ∧
    7 < 16 ∧
    pdLive sPointOperations4 45 = true ∧
    sPointOperations4.running = true ∧
    sPointOperations4.pne.unsent = [] ∧
    nextOp sPointOperations4 = some (op 1) ∧
    (op 1).src = 4 ∧
    (op 1).id < 12 ∧
    rb sPointOperations4 pneSts pneStsREADY = true ∧
    checkArgs sPointOperations4 (op 1) = none ∧
    (op 1).kind < 6 ∧
    (sPointOperations4.pne.cur = [] ∨ (op 1).kind = 0) ∧
    setWhole sPointOperations4 (op 1).pnum = true ∧
    findEntry sPointOperations4 (op 1).pnum = none ∧
    (sPointOperations4.pne.fills.any fun (p : Nat × Bool) => p.fst == (op 1).pnum) = false ∧
    pdLive sPointOperations5 45 = true ∧
    sPointOperations5.running = true ∧
    sPointOperations5.pne.unsent = [] ∧
    nextOp sPointOperations5 = some (op 2) ∧
    (op 2).src = 4 ∧
    (op 2).id < 12 ∧
    rb sPointOperations5 pneSts pneStsREADY = true ∧
    checkArgs sPointOperations5 (op 2) = none ∧
    (op 2).kind < 6 ∧
    (sPointOperations5.pne.cur = [] ∨ (op 2).kind = 0) ∧
    setWhole sPointOperations5 (op 2).pnum = true ∧
    findEntry sPointOperations5 (op 2).pnum = some 266880 ∧
    checkPoint     { pending := sPointOperations5.pending, port := sPointOperations5.port, running := sPointOperations5.running, par := sPointOperations5.par, lvl := sPointOperations5.lvl, regs := sPointOperations5.regs, mem := sPointOperations5.mem, tags := sPointOperations5.tags, free := sPointOperations5.free, sets := sPointOperations5.sets, resp := sPointOperations5.resp, sig := sPointOperations5.sig, halted := sPointOperations5.halted, drvWant := sPointOperations5.drvWant, ssp := sPointOperations5.ssp, cores := sPointOperations5.cores, svc := sPointOperations5.svc, ports := sPointOperations5.ports, msys := sPointOperations5.msys, cvp := sPointOperations5.cvp, ae := sPointOperations5.ae, dm := sPointOperations5.dm, sem := sPointOperations5.sem, intc := sPointOperations5.intc,       pne :=         have __src := sPointOperations5.pne;         { ops := sPointOperations5.pne.ops.erase (op 2), cur := __src.cur, fills := __src.fills, jops := __src.jops, unsent := __src.unsent, due := __src.due, dirty := __src.dirty, deliv := __src.deliv, reload := __src.reload, srcs := __src.srcs, pins := __src.pins, done := __src.done, phase := __src.phase, region := __src.region, clrEnd := __src.clrEnd, tbl := __src.tbl, enter := __src.enter, ageFrom := __src.ageFrom, ageLast := __src.ageLast, units := __src.units, seq := __src.seq, accepted := __src.accepted : Pne },       rlk := sPointOperations5.rlk, wac := sPointOperations5.wac, jne := sPointOperations5.jne, mlk := sPointOperations5.mlk, cpt := sPointOperations5.cpt, pctl := sPointOperations5.pctl, dbg := sPointOperations5.dbg : State }     (op 2) 266880 =   Except.error 2 ∧
    2 < 16 ∧
    pdLive sPointOperations6 45 = true ∧
    sPointOperations6.running = true ∧
    sPointOperations6.pne.unsent = [] ∧
    nextOp sPointOperations6 = some (op 0) ∧
    rb sPointOperations6 pneSts pneStsREADY = true ∧
    checkArgs sPointOperations6 (op 0) = none ∧
    (op 0).kind < 6 ∧
    (sPointOperations6.pne.cur = [] ∨ (op 0).kind = 0) ∧
    setWhole sPointOperations6 (op 0).pnum = true ∧
    findEntry sPointOperations6 (op 0).pnum = some 266880 ∧
    checkPoint     { pending := sPointOperations6.pending, port := sPointOperations6.port, running := sPointOperations6.running, par := sPointOperations6.par, lvl := sPointOperations6.lvl, regs := sPointOperations6.regs, mem := sPointOperations6.mem, tags := sPointOperations6.tags, free := sPointOperations6.free, sets := sPointOperations6.sets, resp := sPointOperations6.resp, sig := sPointOperations6.sig, halted := sPointOperations6.halted, drvWant := sPointOperations6.drvWant, ssp := sPointOperations6.ssp, cores := sPointOperations6.cores, svc := sPointOperations6.svc, ports := sPointOperations6.ports, msys := sPointOperations6.msys, cvp := sPointOperations6.cvp, ae := sPointOperations6.ae, dm := sPointOperations6.dm, sem := sPointOperations6.sem, intc := sPointOperations6.intc,       pne :=         have __src := sPointOperations6.pne;         { ops := sPointOperations6.pne.ops.erase (op 0), cur := __src.cur, fills := __src.fills, jops := __src.jops, unsent := __src.unsent, due := __src.due, dirty := __src.dirty, deliv := __src.deliv, reload := __src.reload, srcs := __src.srcs, pins := __src.pins, done := __src.done, phase := __src.phase, region := __src.region, clrEnd := __src.clrEnd, tbl := __src.tbl, enter := __src.enter, ageFrom := __src.ageFrom, ageLast := __src.ageLast, units := __src.units, seq := __src.seq, accepted := __src.accepted : Pne },       rlk := sPointOperations6.rlk, wac := sPointOperations6.wac, jne := sPointOperations6.jne, mlk := sPointOperations6.mlk, cpt := sPointOperations6.cpt, pctl := sPointOperations6.pctl, dbg := sPointOperations6.dbg : State }     (op 0) 266880 =   Except.ok (1234, 9728) ∧
    (op 0).kind = 0 ∧
    pdLive sPointOperations7 45 = true ∧
    sPointOperations7.running = true ∧
    sPointOperations7.pne.unsent = [] ∧
    nextOp sPointOperations7 = some (op 1) ∧
    rb sPointOperations7 pneSts pneStsREADY = true ∧
    checkArgs sPointOperations7 (op 1) = none ∧
    (sPointOperations7.pne.cur = [] ∨ (op 1).kind = 0) ∧
    setWhole sPointOperations7 (op 1).pnum = true ∧
    findEntry sPointOperations7 (op 1).pnum = some 266880 ∧
    checkPoint     { pending := sPointOperations7.pending, port := sPointOperations7.port, running := sPointOperations7.running, par := sPointOperations7.par, lvl := sPointOperations7.lvl, regs := sPointOperations7.regs, mem := sPointOperations7.mem, tags := sPointOperations7.tags, free := sPointOperations7.free, sets := sPointOperations7.sets, resp := sPointOperations7.resp, sig := sPointOperations7.sig, halted := sPointOperations7.halted, drvWant := sPointOperations7.drvWant, ssp := sPointOperations7.ssp, cores := sPointOperations7.cores, svc := sPointOperations7.svc, ports := sPointOperations7.ports, msys := sPointOperations7.msys, cvp := sPointOperations7.cvp, ae := sPointOperations7.ae, dm := sPointOperations7.dm, sem := sPointOperations7.sem, intc := sPointOperations7.intc,       pne :=         have __src := sPointOperations7.pne;         { ops := sPointOperations7.pne.ops.erase (op 1), cur := __src.cur, fills := __src.fills, jops := __src.jops, unsent := __src.unsent, due := __src.due, dirty := __src.dirty, deliv := __src.deliv, reload := __src.reload, srcs := __src.srcs, pins := __src.pins, done := __src.done, phase := __src.phase, region := __src.region, clrEnd := __src.clrEnd, tbl := __src.tbl, enter := __src.enter, ageFrom := __src.ageFrom, ageLast := __src.ageLast, units := __src.units, seq := __src.seq, accepted := __src.accepted : Pne },       rlk := sPointOperations7.rlk, wac := sPointOperations7.wac, jne := sPointOperations7.jne, mlk := sPointOperations7.mlk, cpt := sPointOperations7.cpt, pctl := sPointOperations7.pctl, dbg := sPointOperations7.dbg : State }     (op 1) 266880 =   Except.ok (77, 8192) ∧
    (op 1).kind = 1 ∧
    metaLoose (entMeta sPointOperations7 266880) = true ∧
    pdLive sPointOperations9 45 = true ∧
    sPointOperations9.running = true ∧
    sPointOperations9.pne.unsent = [] ∧
    nextOp sPointOperations9 = some (op 1) ∧
    rb sPointOperations9 pneSts pneStsREADY = true ∧
    checkArgs sPointOperations9 (op 1) = none ∧
    (sPointOperations9.pne.cur = [] ∨ (op 1).kind = 0) ∧
    setWhole sPointOperations9 (op 1).pnum = true ∧
    findEntry sPointOperations9 (op 1).pnum = some 266880 ∧
    checkPoint     { pending := sPointOperations9.pending, port := sPointOperations9.port, running := sPointOperations9.running, par := sPointOperations9.par, lvl := sPointOperations9.lvl, regs := sPointOperations9.regs, mem := sPointOperations9.mem, tags := sPointOperations9.tags, free := sPointOperations9.free, sets := sPointOperations9.sets, resp := sPointOperations9.resp, sig := sPointOperations9.sig, halted := sPointOperations9.halted, drvWant := sPointOperations9.drvWant, ssp := sPointOperations9.ssp, cores := sPointOperations9.cores, svc := sPointOperations9.svc, ports := sPointOperations9.ports, msys := sPointOperations9.msys, cvp := sPointOperations9.cvp, ae := sPointOperations9.ae, dm := sPointOperations9.dm, sem := sPointOperations9.sem, intc := sPointOperations9.intc,       pne :=         have __src := sPointOperations9.pne;         { ops := sPointOperations9.pne.ops.erase (op 1), cur := __src.cur, fills := __src.fills, jops := __src.jops, unsent := __src.unsent, due := __src.due, dirty := __src.dirty, deliv := __src.deliv, reload := __src.reload, srcs := __src.srcs, pins := __src.pins, done := __src.done, phase := __src.phase, region := __src.region, clrEnd := __src.clrEnd, tbl := __src.tbl, enter := __src.enter, ageFrom := __src.ageFrom, ageLast := __src.ageLast, units := __src.units, seq := __src.seq, accepted := __src.accepted : Pne },       rlk := sPointOperations9.rlk, wac := sPointOperations9.wac, jne := sPointOperations9.jne, mlk := sPointOperations9.mlk, cpt := sPointOperations9.cpt, pctl := sPointOperations9.pctl, dbg := sPointOperations9.dbg : State }     (op 1) 266880 =   Except.ok (77, 9728) ∧
    metaLoose (entMeta sPointOperations9 266880) = false ∧
    jneState sPointOperations9 = 3 ∧
    pdLive sPointOperations10 45 = true ∧
    sPointOperations10.running = true ∧
    sPointOperations10.pne.deliv = [{ pnum := BitVec.toNat (98309 : Word), val := 9, meta_ := 9728, mate := none : Deliv }] ∧
    isCal (BitVec.toNat (98309 : Word)) = false ∧
    toRack sPointOperations10 (BitVec.toNat (98309 : Word)) 9728 = false ∧
    sPointOperations10.pne.due = [] ∧
    (sPointOperations10.pne.cur = [] ∨ sPointOperations10.pne.phase < 6) ∧
    List.find? (fun (y : HmpTx) => sPointOperations11.pne.fills.any fun (p : Nat × Bool) => y.use == useFill p.fst) sPointOperations11.ports.done = some (hx 0) ∧
    List.find? (fun (p : Nat × Bool) => (hx 0).use == useFill p.fst) sPointOperations11.pne.fills = some (98309, false) ∧
    sPointOperations11.pne.due = [] ∧
    (hx 0).code = 0 ∧
    findEntry sPointOperations11 98309 = none ∧
    sPointOperations11.pne.cur = [] ∧
    98309 < 2 ^ 25 ∧
    setWhole sPointOperations11 98309 = true ∧
    victimWay sPointOperations11 98309 = some 266880 ∧
    List.find? (fun (y : HmpTx) => sPointOperations12.pne.fills.any fun (p : Nat × Bool) => y.use == useFill p.fst) sPointOperations12.ports.done = some (hx 1) ∧
    List.find? (fun (p : Nat × Bool) => (hx 1).use == useFill p.fst) sPointOperations12.pne.fills = some (98309, false) ∧
    sPointOperations12.pne.due = [] ∧
    ((hx 1).code ≠ 0) ∧
    sPointOperations12.pne.cur = [] ∧
    sPointOperations12.pne.deliv = [] ∧
    List.find? (fun (y : HmpTx) => sPointOperations13.pne.fills.any fun (p : Nat × Bool) => y.use == useFill p.fst) sPointOperations13.ports.done = some (hx 0) ∧
    List.find? (fun (p : Nat × Bool) => (hx 0).use == useFill p.fst) sPointOperations13.pne.fills = some (98309, false) ∧
    sPointOperations13.pne.due = [] ∧
    findEntry sPointOperations13 98309 = none ∧
    sPointOperations13.pne.cur = [] ∧
    setWhole sPointOperations13 98309 = true ∧
    victimWay sPointOperations13 98309 = none ∧
    false = false := by
  and_intros <;> first | decide +kernel | exact okOf (by decide +kernel) | exact errOf (by decide +kernel)

/-- States that meet the hypotheses of the clauses of PointCache. -/
theorem test_PointCache :
    pdOn sPointCache1 45 = true ∧
    holdsType sPointCache1 (tQ 8) 8 = true ∧
    rb sPointCache1 pneCcfg pneCcfgEN = false ∧
    (sPointCache1.pne.phase ≠ 7) ∧
    (BitVec.toNat (4 : Word) % 2 ^ if BitVec.toNat (3 : Word) = 3 then 1 else BitVec.toNat (3 : Word) + 1) = 0 ∧
    pdOn sPointCache1a 45 = true ∧
    holdsType sPointCache1a (tQ 8) 8 = true ∧
    rb sPointCache1a pneCcfg pneCcfgEN = false ∧
    sPointCache1a.pne.phase = 7 ∧
    pdLive sPointCache1a 45 = true ∧
    pneQuiet sPointCache1a = true ∧
    PneWhole sPointCache1a ∧
    pdOn sPointCache3 45 = true ∧
    holdsType sPointCache3 (tQ 8) 8 = true ∧
    rb sPointCache3 pneCcfg pneCcfgEN = true ∧
    pdOn sPointCache4 45 = true ∧
    sPointCache4.pne.phase = 5 ∧
    jneState sPointCache4 = 3 ∧
    (sPointCache4.pne.pins.all fun (n : Nat) => (findEntry sPointCache4 n).isSome) = true ∧
    sPointCache4.pne.due = [] ∧
    sPointCache4.pne.cur = [] ∧
    Memory.wf sPointCache5 = true ∧
    PneWhole sPointCache5 ∧
    pdOn sPointCache5 45 = true ∧
    rb sPointCache5 pneSts pneStsREADY = true ∧
    sPointCache5.pne.ageLast + 300 * max 1 (rf sPointCache5 pneCtrl pneCtrlAGEPER) ≤ sPointCache5.port ∧
    pdLive sPointCache6 45 = true ∧
    rb sPointCache6 pneSts pneStsREADY = true ∧
    (unitSt sPointCache6 (↑3 : Nat)).scan = some (1, 5) ∧
    5 + 1 < 24576 ∧
    1 ≤ 3 ∧
    findEntry sPointCache6 ((↑3 : Nat) * 2 ^ 15 + 5) = some 266880 ∧
    entWhole sPointCache6 266880 = true ∧
    (metaType (entMeta sPointCache6 266880) = 0 ∨ metaClass (entMeta sPointCache6 266880) ≠ passClass 1) ∧
    pdLive sPointCache7 45 = true ∧
    rb sPointCache7 pneSts pneStsREADY = true ∧
    (unitSt sPointCache7 (↑3 : Nat)).scan = some (1, 5) ∧
    findEntry sPointCache7 ((↑3 : Nat) * 2 ^ 15 + 5) = none ∧
    (unitSt sPointCache7 (↑3 : Nat)).reading = false ∧
    ((↑3 : Nat) ≠ 0) ∧
    pdLive sPointCache8 45 = true ∧
    ustateOf sPointCache8 (↑3 : Nat) = 3 ∧
    isActive sPointCache8 = true ∧
    max 1 (rf sPointCache8 pneCtrl pneCtrlRESTTO) < (unitSt sPointCache8 (↑3 : Nat)).rest := by
  and_intros <;> first | decide +kernel | exact pneWhole_of (by unfold Plain; decide +kernel) (by decide +kernel)

/-- States that meet the hypotheses of the clauses of WearAccounting. -/
theorem test_WearAccounting :
    pdOn sWearAccounting1 46 = true ∧
    holdsType sWearAccounting1 (tQ 9) 9 = true ∧
    rb sWearAccounting1 wacCtrl wacCtrlEN = false ∧
    pdOn sWearAccounting2 46 = true ∧
    holdsType sWearAccounting2 (tQ 9) 9 = true ∧
    rb sWearAccounting2 wacCtrl wacCtrlEN = true ∧
    rb sWearAccounting2 wacCmd wacCmdBUSY = false ∧
    wacRuns sWearAccounting2 = true ∧
    sWearAccounting2.wac.ck = false ∧
    sWearAccounting2.wac.resets = [] ∧
    sWearAccounting2.wac.asked = false ∧
    sWearAccounting2.running = true ∧
    sWearAccounting2.pne.done = [] ∧
    (BitVec.toNat (btime sWearAccounting2) % (300 * wacUper sWearAccounting2) = 0 ∧ sWearAccounting2.wac.rounded ≠ sWearAccounting2.port + 1) ∧
    (∀ (i : Nat), i < wacNsw sWearAccounting2 → bitOf (wacCfg sWearAccounting2 i 0) 47 = false) ∧
    sWearAccounting2.wac.round = none ∧
    sWearAccounting3.running = true ∧
    wacRuns sWearAccounting3 = true ∧
    sWearAccounting3.pne.done = [] ∧
    (BitVec.toNat (btime sWearAccounting3) % (300 * wacUper sWearAccounting3) = 0 ∧ sWearAccounting3.wac.rounded ≠ sWearAccounting3.port + 1) ∧
    (∀ (i : Nat), i < wacNsw sWearAccounting3 → bitOf (wacCfg sWearAccounting3 i 0) 47 = false) ∧
    sWearAccounting3.wac.round = some (wacNsw sWearAccounting3, 2 * sWearAccounting3.port) ∧
    wacRuns sWearAccounting4 = true ∧
    sWearAccounting4.wac.ck = false ∧
    (rf sWearAccounting4 wacCtrl wacCtrlCKPER ≠ 0) ∧
    sWearAccounting4.wac.ckFrom + rf sWearAccounting4 wacCtrl wacCtrlCKPER * 300000000 ≤ sWearAccounting4.port ∧
    List.find? (fun (d : PneDone) => d.src == 2 && d.id == sWearAccounting5.wac.seq) sWearAccounting5.pne.done = some (pd 0) ∧
    sWearAccounting5.wac.writes = [ww false 1] ∧
    sWearAccounting5.wac.ck = false ∧
    (ww false 1).step = 1 ∧
    (ww false 1).zero = false ∧
    (pd 0).status = 0 ∧
    List.find? (fun (d : PneDone) => d.src == 2 && d.id == sWearAccounting6.wac.seq) sWearAccounting6.pne.done = some (pd 0) ∧
    sWearAccounting6.wac.writes = [ww false 2] ∧
    sWearAccounting6.wac.ck = false ∧
    (ww false 2).step = 2 ∧
    (ww false 2).slot = none ∧
    sWearAccounting6.wac.zeros = false := by
  and_intros <;> decide +kernel

end W10

namespace W11

def lay : List (Nat × Fld × Nat) := [(jneHead, jneHeadHSIZE, 32), (jneHlog, jneHlogHLBASE, 1), (jneHlog, jneHlogHLSIZE, 1), (pneImgbase, pneImgbaseBASE, 8193), (jneHoldup, jneHoldupRATE, 80), (jneHoldup, jneHoldupTHOLD, 1000), (jneNextcsn, jneNextcsnCSN, 8), (jneCtrl, jneCtrlEN, 1), (mlkRole, mlkRoleROLE, 5)]
def jn (l : List (Nat × Fld × Nat)) (f : Jne → Jne) : State :=
  let t := tF tOn ([(jneSts, jneStsSTATE, 3)] ++ lay ++ l)
  { t with port := 4000000, jne := f t.jne }
def rq (b : Nat) : RecReq := ⟨6, 9, 0x80, List.replicate b 5⟩
def sg (s : State) (r : List RecReq) : State := { s with sig := { s.sig with recs := r } }
def cm : Commit := ⟨7, 6, some 9, 1, 2, [(0x80, [3, 4])], [recordWords 0x80 0 6 7 true 1 2 [3,4]], 7, true, some 0x10000, 7, 0, 5, false, false, false, false⟩
def sJournalCommits1 : State := sg (jn [] id) [rq 3]
def sJournalCommits2 : State := sg (jn [(jneU, jneUU, 9998)] id) [rq 3]
def sJournalCommits3 : State := sg (jn [] id) [rq 1020]
def sJournalCommits4 : State := jn [] (fun j => { j with log := [cm] })
def cu : Commit := { cm with staged := false, words := [] }
def sJournalCommits5 : State := { jn [(jneMbaddr 2, jneMbaddrADDR, 0x1000)] (fun j => { j with log := [cu] }) with mem := [(0x1000, 66), (0x1001, 67)] }
def s7 (n : Nat) : List (Nat × Fld × Nat) := [(jneSts, jneStsSTATE, n)]
def sJournalStates1 : State := jn (s7 0 ++ [(jneCtrl, jneCtrlEN, 0)]) id
def sJournalStates2 : State := jn (s7 0 ++ [(jneCtrl, jneCtrlEN, 0), (jneHead, jneHeadHSIZE, 16)]) id
def sJournalStates3 : State := jn [(jneU, jneUU, 6)] id
def sJournalStates4 : State := jn [(pctlPd 45, pctlPdSTATE, 0)] id
def sJournalStates5 : State := jn (s7 1 ++ [(pctlPd 45, pctlPdSTATE, 0)]) id
def sJournalStates7 : State := jn (s7 2) (fun j => { j with ended := 1, rcsn := 55 })
def sJournalStates8 : State := jn (s7 6) (fun j => { j with ended := 2 })
def pf (s : State) : State := { s with sem := { s.sem with pfail := true } }
def sJournalStates10 : State := pf (jn [] id)
def sJournalStates11 : State := jn (s7 4) (fun j => { j with pfLow := some 5 })
def fb : JBurst := ⟨3, true, persBase + 0x10000, 2, [1, 2], 0, 0, true⟩
def bu (w : Bool) (tr : Nat) : JBurst := ⟨3, w, persBase + 0x10000, 2, if w then [1, 2] else [], if w then 7 else 0, tr, true⟩
def tx (c : Nat) (at_ : Nat) : HmpTx := ⟨0, .unit 20 35, false, persBase + 0x10000, 2, [], true, false, at_, [(c, 5), (0, 6)]⟩
def hd (l : List (Nat × Fld × Nat)) (c : Nat) (b : JBurst) (f : Jne → Jne) : State := let t := jn l (fun j => f { j with bursts := [b], nextId := 4 }); { t with ports := { t.ports with done := [tx c 0] } }
def mq (s : List (Nat × Fld × Nat)) : List (Nat × Fld × Nat) := [(jneMqcfg 5, jneMqcfgEN, 1), (jneMqcfg 5, jneMqcfgQS, 4)] ++ s
def sStorageQueues1 : State := hd [(jneU, jneUU, 2)] 0 (bu true 0) (fun j => { j with log := [cm] })
def sStorageQueues2 : State := hd [] 0 (bu false 0) id
def sStorageQueues3 : State := hd [] 2 (bu false 0) id
def sStorageQueues4 : State := hd [] 2 (bu false 3) id
def sStorageQueues5 : State := (let t := hd [] 2 (bu false 0) id; { t with ports := { t.ports with done := [], out := [tx 0 7] } })
def sStorageQueues6 : State := jn (mq [(jneMwear 5, jneMwearMERR, 1)]) id
def sStorageQueues8 : State := { jn (mq [(jnePlccfg, jnePlccfgINFOPER, 1)]) id with port := 800000000 }
def mx (ph : Word) : HmpTx := ⟨0, .unit 20 5, false, persBase, 2, [], true, false, 9, [(0, ph), (0, 6)]⟩
def mc (ph : Word) (subs : List MqSub) : State := let t := jn (mq []) (fun j => { j with subs := subs }); { t with ports := { t.ports with done := [mx ph] } }
def sStorageQueues9 : State := mc 5 []
def sStorageQueues10 : State := mc (BitVec.ofNat 48 (2^47 + 5)) [⟨5, 5, 1, 0⟩]
def dryS : State := jn (mq [(jnePlccfg, jnePlccfgFREEZE, 1), (jneMwear 5, jneMwearCAP, 100), (jnePercsn, jnePercsnCSN, 7), (jneDry, jneDryRESERVE, 2), (jneDry, jneDryDRYAGE, 1)]) (fun j => { j with log := [cm], sb := { j.sb with opens := [⟨0, false, 5, 0, 1, 1⟩] } })
def sStorageQueues11 : State := dryS
def pin (p : List (Nat × Nat × Nat)) (u : List SbUnit) : State := jn (mq []) (fun j => { j with dir := [⟨5, 2, 3, 1, 9⟩], sb := { j.sb with pinned := p, units := u } })
def sStorageQueues12 : State := pin [(5, 2, 3)] []
def sStorageQueues14 : State := pin [] [⟨5, 100, 4, 2, 0, 2⟩]
def sStorageQueues15 : State := pin ((List.range 32).map (fun j => (1, j, j + 50))) [⟨5, 100, 4, 2, 0, 2⟩]
def sPolicyWindows1 : State := { tOn with par := { tOn.par with adtFloor := 100 } }
def sPolicyWindows3 : State := { tOn with par := { tOn.par with plcFloor := 3 } }
def sJournalStates12 : State := let t := jn (s7 6) (fun j => { j with bursts := [fb], script := [.act .fmtCsn] }); { t with ports := { t.ports with done := [tx 0 0] } }
def sStorageQueues16 : State := let t := jn (mq []) (fun j => { j with rings := [(5, { MqRing.zero with again := true })] }); { t with ports := { t.ports with done := [mx 5] } }
def sStorageQueues17 : State := { jn (mq [(jneMwear 5, jneMwearMERR, 1)]) id with sets := [⟨jneMwear 5, jneMwearMERR, .bits, 1⟩] }

/-- States that meet the hypotheses of the clauses of JournalCommits. -/
theorem test_JournalCommits :
    sJournalCommits1.running = true ∧
    pdOn sJournalCommits1 44 = true ∧
    jneState sJournalCommits1 = 3 ∧
    sJournalCommits1.jne.zeroing = false ∧
    (sJournalCommits1.jne.lastAdm ≠ sJournalCommits1.port / 4 + 1) ∧
    sJournalCommits1.sig.recs = [rq 3] ∧
    sJournalCommits1.jne.mirq = [] ∧
    sJournalCommits1.jne.ownq = [] ∧
    refusal sJournalCommits1 (rq 3) = none ∧
    (rq 3).prod ≤ 16 ∧
    stallReason sJournalCommits1 false [(rq 3).body.length + 5] = none ∧
    jneUnp sJournalCommits1 + ((rq 3).body.length + 5) < 2 ^ 16 ∧
    pdLive sJournalCommits1 44 = true ∧
    sJournalCommits1.jne.paced + 1500 ≤ sJournalCommits1.port ∧
    holdsType sJournalCommits1 { who := 2, otype := 7 : Req } 7 = true ∧
    (↑{ who := 2, otype := 7 : Req }.who : Nat) = (↑2 : Nat) ∧
    rb sJournalCommits1 (jneMbsts (↑2 : Nat)) jneMbstsBUSY = false ∧
    (128 ≤ BitVec.toNat (128 : Word) ∧ BitVec.toNat (4 : Word) ≤ 1019 ∧ rf sJournalCommits1 (jneMbaddr (↑2 : Nat)) jneMbaddrADDR + max 1 (BitVec.toNat (4 : Word)) ≤ 1048576) ∧
    sJournalCommits2.running = true ∧
    pdOn sJournalCommits2 44 = true ∧
    jneState sJournalCommits2 = 3 ∧
    sJournalCommits2.jne.zeroing = false ∧
    (sJournalCommits2.jne.lastAdm ≠ sJournalCommits2.port / 4 + 1) ∧
    sJournalCommits2.sig.recs = [rq 3] ∧
    sJournalCommits2.jne.mirq = [] ∧
    sJournalCommits2.jne.ownq = [] ∧
    refusal sJournalCommits2 (rq 3) = none ∧
    stallReason sJournalCommits2 false [(rq 3).body.length + 5] = some 1 ∧
    sJournalCommits2.jne.stalled.contains ((rq 3).prod, (rq 3).id) = false ∧
    rb sJournalCommits2 (jneMbsts (↑2 : Nat)) jneMbstsBUSY = false ∧
    holdsType sJournalCommits2 { who := 2, otype := 7 : Req } 7 = true ∧
    (¬(128 ≤ BitVec.toNat (127 : Word) ∧ BitVec.toNat (4 : Word) ≤ 1019 ∧ rf sJournalCommits2 (jneMbaddr (↑2 : Nat)) jneMbaddrADDR + max 1 (BitVec.toNat (4 : Word)) ≤ 1048576)) ∧
    sJournalCommits3.running = true ∧
    pdOn sJournalCommits3 44 = true ∧
    jneState sJournalCommits3 = 3 ∧
    sJournalCommits3.jne.zeroing = false ∧
    (sJournalCommits3.jne.lastAdm ≠ sJournalCommits3.port / 4 + 1) ∧
    sJournalCommits3.sig.recs = [rq 1020] ∧
    sJournalCommits3.jne.mirq = [] ∧
    sJournalCommits3.jne.ownq = [] ∧
    refusal sJournalCommits3 (rq 1020) = some 6 ∧
    6 < 16 ∧
    (rq 1020).prod = 4 + (↑2 : Nat) ∧
    pdLive sJournalCommits4 44 = true ∧
    List.find? (fun (y : Commit) => !y.acked) sJournalCommits4.jne.log = some cm ∧
    ackReady sJournalCommits4 cm = true ∧
    (jneState sJournalCommits4 ≠ 5) ∧
    cm.src = 4 + (↑2 : Nat) ∧
    cm.req = some 9 ∧
    (cm.recs.all fun (y : Nat × List Word) => decide (8 < y.fst)) = true ∧
    sJournalCommits4.pne.accepted = [] ∧
    cm.csn < 2 ^ 48 ∧
    pdLive sJournalCommits5 44 = true ∧
    sJournalCommits5.running = true ∧
    List.find? (fun (y : Commit) => y.src == 4 + (↑2 : Nat) && !y.staged) sJournalCommits5.jne.log = some cu ∧
    bodyStalls sJournalCommits5 (↑2 : Nat) cu = false ∧
    (readBody sJournalCommits5 (rf sJournalCommits5 (jneMbaddr (↑2 : Nat)) jneMbaddrADDR) (cu.recs.headD (0, [])).snd.length []).fst = some [66, 67] := by
  and_intros <;> decide +kernel

/-- States that meet the hypotheses of the clauses of JournalStates. -/
theorem test_JournalStates :
    pdOn sJournalStates1 44 = true ∧
    holdsType sJournalStates1 (tQ 7) 7 = true ∧
    rb sJournalStates1 jneCtrl jneCtrlEN = false ∧
    jneState sJournalStates1 = 0 ∧
    sJournalStates1.jne.script = [] ∧
    sJournalStates1.jne.bursts = [] ∧
    layoutOk sJournalStates1 = true ∧
    (jneState sJournalStates1 ≠ 1) ∧
    (jneState sJournalStates1 ≠ 5) ∧
    (5 ≠ 61607) ∧
    sJournalStates1.sem.pfail = false ∧
    sJournalStates1.sig.recs = [] ∧
    pdOn sJournalStates2 44 = true ∧
    holdsType sJournalStates2 (tQ 7) 7 = true ∧
    rb sJournalStates2 jneCtrl jneCtrlEN = false ∧
    jneState sJournalStates2 = 0 ∧
    sJournalStates2.jne.script = [] ∧
    sJournalStates2.jne.bursts = [] ∧
    layoutOk sJournalStates2 = false ∧
    pdOn sJournalStates3 44 = true ∧
    holdsType sJournalStates3 (tQ 7) 7 = true ∧
    rb sJournalStates3 jneCtrl jneCtrlEN = true ∧
    sJournalStates3.sig.recs = [] ∧
    (jneState sJournalStates3 ≠ 0) ∧
    (jneUnp sJournalStates3 ≠ 0) ∧
    pdOn sJournalStates4 44 = true ∧
    holdsType sJournalStates4 (tQ 7) 7 = true ∧
    rb sJournalStates4 jneCtrl jneCtrlEN = true ∧
    sJournalStates4.sig.recs = [] ∧
    (jneState sJournalStates4 ≠ 0) ∧
    jneUnp sJournalStates4 = 0 ∧
    sJournalStates4.jne.log = [] ∧
    pdOn sJournalStates4 45 = false ∧
    pdOn sJournalStates5 44 = true ∧
    holdsType sJournalStates5 (tQ 7) 7 = true ∧
    (jneState sJournalStates5 = 1 ∨ jneState sJournalStates5 = 5) ∧
    pdOn sJournalStates5 45 = false ∧
    sJournalStates5.jne.script = [] ∧
    sJournalStates5.jne.bursts = [] ∧
    sJournalStates5.jne.infoq = [] ∧
    pdLive sJournalStates7 44 = true ∧
    sJournalStates7.jne.ended = 1 ∧
    1 ≤ sJournalStates7.jne.rcsn ∧
    sJournalStates7.jne.rcsn < 2 ^ 48 ∧
    pdLive sJournalStates8 44 = true ∧
    sJournalStates8.jne.ended = 2 ∧
    sJournalStates10.sem.pfail = true ∧
    sJournalStates11.jne.pfLow = some 5 ∧
    pdLive sJournalStates11 44 = true ∧
    jneState sJournalStates11 = 4 ∧
    sJournalStates11.sem.pfail = false ∧
    sJournalStates11.jne.shut = false ∧
    5 + 3000000 ≤ sJournalStates11.port ∧
    sJournalStates12.ports.done = [tx 0 0] ∧
    sJournalStates12.jne.bursts = [fb] ∧
    (tx 0 0).use = HmpUse.unit 20 (32 + fb.id) ∧
    (tx 0 0).code = 0 ∧
    fb.write = true ∧
    fb.csn = 0 ∧
    sJournalStates12.jne.log = [] ∧
    sJournalStates12.jne.script = [JOp.act JAct.fmtCsn] ∧
    sJournalStates12.jne.infoq = [] ∧
    sJournalStates12.jne.cmd = 0 := by
  and_intros <;> decide +kernel

/-- States that meet the hypotheses of the clauses of StorageQueues. -/
theorem test_StorageQueues :
    sStorageQueues1.ports.done = [tx 0 0] ∧
    sStorageQueues1.jne.bursts = [bu true 0] ∧
    (tx 0 0).use = HmpUse.unit 20 (32 + (bu true 0).id) ∧
    (sStorageQueues1.jne.script = [] ∧ sStorageQueues1.jne.cmd = 0 ∧ sStorageQueues1.jne.infoq = []) ∧
    (tx 0 0).code = 0 ∧
    (bu true 0).write = true ∧
    ((bu true 0).csn ≠ 0) ∧
    sStorageQueues1.jne.closing = false ∧
    pdOn sStorageQueues1 44 = true ∧
    sStorageQueues1.running = true ∧
    sStorageQueues1.jne.polled + 30000 ≤ sStorageQueues1.port ∧
    (jneState sStorageQueues1 ≠ 0) ∧
    sStorageQueues2.ports.done = [tx 0 0] ∧
    sStorageQueues2.jne.bursts = [bu false 0] ∧
    (tx 0 0).use = HmpUse.unit 20 (32 + (bu false 0).id) ∧
    (sStorageQueues2.jne.script = [] ∧ sStorageQueues2.jne.cmd = 0 ∧ sStorageQueues2.jne.infoq = []) ∧
    (bu false 0).write = false ∧
    sStorageQueues3.ports.done = [tx 2 0] ∧
    sStorageQueues3.jne.bursts = [bu false 0] ∧
    (tx 2 0).use = HmpUse.unit 20 (32 + (bu false 0).id) ∧
    (sStorageQueues3.jne.script = [] ∧ sStorageQueues3.jne.cmd = 0 ∧ sStorageQueues3.jne.infoq = []) ∧
    ((tx 2 0).code ≠ 0) ∧
    persBase ≤ (bu false 0).addr ∧
    (bu false 0).tries < 3 ∧
    sStorageQueues4.ports.done = [tx 2 0] ∧
    sStorageQueues4.jne.bursts = [bu false 3] ∧
    (tx 2 0).use = HmpUse.unit 20 (32 + (bu false 3).id) ∧
    (sStorageQueues4.jne.script = [] ∧ sStorageQueues4.jne.cmd = 0 ∧ sStorageQueues4.jne.infoq = []) ∧
    persBase ≤ (bu false 3).addr ∧
    3 ≤ (bu false 3).tries ∧
    sStorageQueues4.jne.log = [] ∧
    sStorageQueues4.sig.recs = [] ∧
    sStorageQueues5.ports.out = [tx 0 7] ∧
    sStorageQueues5.jne.bursts = [bu false 0] ∧
    (tx 0 7).use = HmpUse.unit 20 (32 + (bu false 0).id) ∧
    (tx 0 7).at_ + 300000 ≤ sStorageQueues5.port ∧
    (sStorageQueues5.jne.script = [] ∧ sStorageQueues5.jne.cmd = 0 ∧ sStorageQueues5.jne.infoq = []) ∧
    pdOn sStorageQueues6 44 = true ∧
    mqOn sStorageQueues6 (↑5 : Nat) = true ∧
    (jneState sStorageQueues6 ≠ 0) ∧
    rb sStorageQueues6 (jneMwear (↑5 : Nat)) jneMwearMERR = true ∧
    setsAt sStorageQueues6 (jneMwear (↑5 : Nat)) (jneMwearMERR.put 0 1) = [] ∧
    holdsType sStorageQueues6 (tQ 7) 7 = true ∧
    rb sStorageQueues6 jneSegcmd jneSegcmdBUSY = false ∧
    jneState sStorageQueues6 = 3 ∧
    dryRuns sStorageQueues6 = true ∧
    sStorageQueues6.jne.script = [] ∧
    sStorageQueues6.jne.bursts = [] ∧
    sStorageQueues6.jne.infoq = [] ∧
    (sStorageQueues6.jne.sb.pinned.any fun (p : Nat × Nat × Nat) => p.snd.snd == BitVec.toNat (3 : Word)) = false ∧
    (segPlace sStorageQueues6 (BitVec.toNat (3 : Word))).isSome = false ∧
    unknownSlot sStorageQueues6 = none ∧
    pdOn sStorageQueues8 44 = true ∧
    sStorageQueues8.running = true ∧
    infoRuns sStorageQueues8 = true ∧
    (rf sStorageQueues8 jnePlccfg jnePlccfgINFOPER ≠ 0) ∧
    sStorageQueues8.jne.infoAt + rf sStorageQueues8 jnePlccfg jnePlccfgINFOPER * 300000000 ≤ sStorageQueues8.port ∧
    (sStorageQueues8.jne.script = [] ∧ sStorageQueues8.jne.cmd = 0 ∧ sStorageQueues8.jne.infoq = []) ∧
    sStorageQueues8.jne.bursts = [] ∧
    List.find? (mqOn sStorageQueues8) (List.range 16) = some (↑5 : Nat) ∧
    mqFailed sStorageQueues8 (↑5 : Nat) = false ∧
    mqRoom sStorageQueues8 (↑5 : Nat) = true ∧
    List.find? (fun (z : HmpTx) => z.use == HmpUse.unit 20 (↑5 : Nat)) sStorageQueues9.ports.done = some (mx 5) ∧
    (mx 5).code = 0 ∧
    (sStorageQueues9.jne.script = [] ∧ sStorageQueues9.jne.cmd = 0 ∧ sStorageQueues9.jne.infoq = []) ∧
    (bitOf ((mx 5).word 0) 47 ≠ (mqRing sStorageQueues9 (↑5 : Nat)).phase) ∧
    (mqRing sStorageQueues9 (↑5 : Nat)).again = false ∧
    List.find? (fun (z : HmpTx) => z.use == HmpUse.unit 20 (↑5 : Nat)) sStorageQueues10.ports.done = some (mx (BitVec.ofNat 48 (2 ^ 47 + 5))) ∧
    (mx (BitVec.ofNat 48 (2 ^ 47 + 5))).code = 0 ∧
    (sStorageQueues10.jne.script = [] ∧ sStorageQueues10.jne.cmd = 0 ∧ sStorageQueues10.jne.infoq = []) ∧
    bitOf ((mx (BitVec.ofNat 48 (2 ^ 47 + 5))).word 0) 47 = (mqRing sStorageQueues10 (↑5 : Nat)).phase ∧
    { hi := 39, lo := 32 : Fld }.get ((mx (BitVec.ofNat 48 (2 ^ 47 + 5))).word 0) = 0 ∧
    List.find? (fun (z : MqSub) => z.m == (↑5 : Nat) && z.tag == BitVec.toNat ((mx (BitVec.ofNat 48 (2 ^ 47 + 5))).word 0) % 2 ^ 16) sStorageQueues10.jne.subs = some { m := 5, tag := 5, op := 1, page := 0 : MqSub } ∧
    ({ m := 5, tag := 5, op := 1, page := 0 : MqSub }.op ≠ 4) ∧
    mqOn sStorageQueues10 (↑5 : Nat) = true ∧
    (jneState sStorageQueues10 ≠ 0) ∧
    dryRuns sStorageQueues11 = true ∧
    sStorageQueues11.jne.script = [] ∧
    sStorageQueues11.jne.bursts = [] ∧
    sStorageQueues11.jne.infoq = [] ∧
    rb sStorageQueues11 jnePlccfg jnePlccfgFREEZE = true ∧
    (sStorageQueues11.jne.sb.opens.all fun (z : SegOpen) => !mqFailed sStorageQueues11 z.unit) = true ∧
    shortOfSlots sStorageQueues11 = false ∧
    batchDue sStorageQueues11 = true ∧
    (takeBatch (batchPg sStorageQueues11) 0 (dryable sStorageQueues11)).getLast? = some cm ∧
    nextLog sStorageQueues11 = some { o := 0, carry := false, unit := 5, slot := 0, cur := 1, seq := 1 : SegOpen } ∧
    openAt sStorageQueues11.jne.sb { o := 0, carry := false, unit := 5, slot := 0, cur := 1, seq := 1 : SegOpen }.o = some { o := 0, carry := false, unit := 5, slot := 0, cur := 1, seq := 1 : SegOpen } ∧
    { o := 0, carry := false, unit := 5, slot := 0, cur := 1, seq := 1 : SegOpen }.cur < 4096 ∧
    ((takeBatch (batchPg sStorageQueues11) 0 (dryable sStorageQueues11)).all fun (d : Commit) => d.words.flatten.length == d.size && d.size != 0) = true ∧
    pdOn sStorageQueues12 44 = true ∧
    holdsType sStorageQueues12 (tQ 7) 7 = true ∧
    rb sStorageQueues12 jneSegcmd jneSegcmdBUSY = false ∧
    jneState sStorageQueues12 = 3 ∧
    dryRuns sStorageQueues12 = true ∧
    sStorageQueues12.jne.script = [] ∧
    sStorageQueues12.jne.bursts = [] ∧
    sStorageQueues12.jne.infoq = [] ∧
    (sStorageQueues12.jne.sb.pinned.any fun (p : Nat × Nat × Nat) => p.snd.snd == BitVec.toNat (3 : Word)) = true ∧
    pdOn sStorageQueues14 44 = true ∧
    holdsType sStorageQueues14 (tQ 7) 7 = true ∧
    rb sStorageQueues14 jneSegcmd jneSegcmdBUSY = false ∧
    jneState sStorageQueues14 = 3 ∧
    dryRuns sStorageQueues14 = true ∧
    sStorageQueues14.jne.script = [] ∧
    sStorageQueues14.jne.bursts = [] ∧
    sStorageQueues14.jne.infoq = [] ∧
    (sStorageQueues14.jne.sb.pinned.any fun (p : Nat × Nat × Nat) => p.snd.snd == BitVec.toNat (3 : Word)) = false ∧
    (segPlace sStorageQueues14 (BitVec.toNat (3 : Word))).isSome = true ∧
    sStorageQueues14.jne.sb.pinned.length < 32 ∧
    pdOn sStorageQueues15 44 = true ∧
    holdsType sStorageQueues15 (tQ 7) 7 = true ∧
    rb sStorageQueues15 jneSegcmd jneSegcmdBUSY = false ∧
    jneState sStorageQueues15 = 3 ∧
    dryRuns sStorageQueues15 = true ∧
    sStorageQueues15.jne.script = [] ∧
    sStorageQueues15.jne.bursts = [] ∧
    sStorageQueues15.jne.infoq = [] ∧
    (sStorageQueues15.jne.sb.pinned.any fun (p : Nat × Nat × Nat) => p.snd.snd == BitVec.toNat (3 : Word)) = false ∧
    (segPlace sStorageQueues15 (BitVec.toNat (3 : Word))).isSome = true ∧
    32 ≤ sStorageQueues15.jne.sb.pinned.length ∧
    List.find? (fun (z : HmpTx) => z.use == HmpUse.unit 20 (↑5 : Nat)) sStorageQueues16.ports.done = some (mx 5) ∧
    (sStorageQueues16.jne.script = [] ∧ sStorageQueues16.jne.cmd = 0 ∧ sStorageQueues16.jne.infoq = []) ∧
    (bitOf ((mx 5).word 0) 47 ≠ (mqRing sStorageQueues16 (↑5 : Nat)).phase) ∧
    (mqRing sStorageQueues16 (↑5 : Nat)).again = true ∧
    mqOn sStorageQueues16 (↑5 : Nat) = true ∧
    (jneState sStorageQueues16 ≠ 0) ∧
    pdOn sStorageQueues17 44 = true ∧
    rb sStorageQueues17 (jneMwear (↑5 : Nat)) jneMwearMERR = true ∧
    (setsAt sStorageQueues17 (jneMwear (↑5 : Nat)) (jneMwearMERR.put 0 1) ≠ []) := by
  and_intros <;> decide +kernel

/-- States that meet the hypotheses of the clauses of PolicyWindows. -/
theorem test_PolicyWindows :
    pdOn sPolicyWindows1 (18 + engOf (↑127 : Nat)) = true ∧
    holdsType sPolicyWindows1 { who := 0, otype := BitVec.ofNat 8 otAccord : Req } otAccord = true ∧
    sPolicyWindows1.par.adt < 512 ∧
    pdOn sPolicyWindows1 18 = true ∧
    sPolicyWindows1.par.phs ((↑127 : Nat) % 4) < 128 ∧
    pdOn sPolicyWindows3 44 = true ∧
    holdsType sPolicyWindows3 (tQ 7) 7 = true ∧
    sPolicyWindows3.par.plc ≤ 16 := by
  and_intros <;> decide +kernel

end W11

namespace W12

def rl (l : List (Nat × Fld × Nat)) (f : Rlk → Rlk) : State :=
  let t := tF tOn ([(rlkCtrl, rlkCtrlEN, 1), (rlkCtrl, rlkCtrlPER, 30000), (mlkRole, mlkRoleROLE, 5), (rlkRing 3, rlkRingEN, 1), (rlkRing 3, rlkRingNPOSM1, 1), (rlkRing 3, rlkRingDW, 4), (rlkRing 3, rlkRingUW, 8), (rlkUmap 7, rlkUmapEN, 1), (rlkUmap 7, rlkUmapRING, 3), (rlkUmap 7, rlkUmapPOS, 1), (rlkAuth, rlkAuthNCFG, 1), (rlkEpoch, rlkEpochHOLD, 1), (rlkEpoch, rlkEpochEPOCH, 9)] ++ l)
  { t with port := 30000, rlk := f t.rlk }
def rv : Word := rlkRingNPOSM1.put (rlkRingDW.put (rlkRingUW.put (rlkRingEN.put 0 1) 8) 4) 3
def hdr : List Word := frameHeader (rl [] id) 3 5
def sRackCycles1 : State := rl [(rlkCtrl, rlkCtrlEN, 0), (mlkRole, mlkRoleROLE, 0)] id
def sRackCycles2 : State := rl [] id
def sRackCycles4 : State := rl [] (fun r => { r with start := some 29000, live := [3], frames := [(3, hdr ++ [1, 2])] })
def upl : Uplink := ⟨7, 3, 1, 2, 9, 0, false, 0⟩
def sRackCycles5 : State := tF (rl [] (fun r => { r with start := some 10, live := [2, 3], frames := [(3, hdr ++ [1, 2])], counts := [3], ups := [upl] })) [(pctlPd 45, pctlPdSTATE, 0), (pctlPd 47, pctlPdSTATE, 0)]
def us (n : Nat) (op tag lidx : Nat) (v : Word) : List Word :=
  sealed 29000 ([BitVec.ofNat 48 (2^47 + 7 * 2^37 + n * 2^28 + 0x55), 66, 9, BitVec.ofNat 48 29000, 4, itOp.put (itTag.put (itLidx.put 0 lidx) tag) op, v])
def se : SendEnt := ⟨7, 5, 44, 3, some 1, false⟩
def ul (f : Rlk → Rlk) : State := rl [] (fun r => f { r with start := some 29000, live := [3], frames := [(3, hdr)] })
def sUplinksAndLanes1 : State := ul id
def sUplinksAndLanes2 : State := ul id
def sUplinksAndLanes4 : State := ul (fun r => { r with send := [se] })
def sUplinksAndLanes5 : State := ul (fun r => { r with send := [se] })
def sUplinksAndLanes6 : State := ul (fun r => { r with reps := [⟨1, 2, 0⟩] })
def sUplinksAndLanes7 : State := tF (ul id) [(rlkRsts 3, rlkRstsLOCK, 1), (mlkLane 1, mlkLaneLOCK, 1)]
def ml (role : Nat) (l : List (Nat × Fld × Nat)) (f : Mlk → Mlk) : State :=
  let t := tF tOn ([(mlkCtrl, mlkCtrlEN, 1), (mlkCtrl, mlkCtrlMIVL, 3000), (mlkRole, mlkRoleROLE, role), (rlkCtrl, rlkCtrlPER, 30000), (rlkCtrl, rlkCtrlSIDE, 0), (mlkRole, mlkRolePV, 2), (jneSts, jneStsSTATE, 3), (jneNextcsn, jneNextcsnCSN, 8),  (jneHlog, jneHlogHLBASE, 1), (jneHlog, jneHlogHLSIZE, 1), (jneHead, jneHeadHSIZE, 32), (mlkIbuf, mlkIbufVALUE, 0x1000), (mlkBcbuf, mlkBcbufVALUE, 0x41280), (mlkBchalf, mlkBchalfVALUE, 0x10)] ++ l)
  { t with port := 3000, mlk := f t.mlk }
def fr (ty : Nat) (body : List Word) : List Word := sealed 1 ((frType.put (frMagic.put (frVer.put (frSide.put (BitVec.ofNat 48 body.length) 1) 2) 0xB5) ty) :: body)
def hbw (lv : Nat) : Word := BitVec.ofNat 48 (5 * 2^45 + lv * 2^40 + 2 * 2^36 + 3 * 2^32 + 3000)
def mc : Word := mlkCtrlEN.put (mlkCtrlMIVL.put (mlkCtrlARMED.put 0 1) 3000) 1
def otM : Req := ⟨0, BitVec.ofNat 8 otMirror⟩
def sMirrorLink1 : State := ml 3 [(mlkCtrl, mlkCtrlEN, 0)] id
def sMirrorLink2 : State := ml 3 [(mlkCtrl, mlkCtrlEN, 0)] id
def sMirrorLink4 : State := ml 3 [] id
def sMirrorLink6 : State := ml 5 [(mlkBctbl0 3, mlkBctbl0EN, 1), (mlkBctbl0 3, mlkBctbl0LENM1, 15)] (fun m => { m with hbAge := some 1 })
def sMirrorLink7 : State := ml 3 [] (fun m => { m with evalAt := 3001 })
def ir : List Word := (List.range 15).map (fun j => BitVec.ofNat 48 (j + 70))
def sMirrorLink8 : State := ml 3 [] id
def sMirrorLink9 : State := ml 3 [] id
def rec8 (n : Nat) : List Word := recordWords 0x80 0 4 n true 1 2 [5]
def sMirroredState1 : State := ml 3 [] id
def sMirroredState2 : State := ml 3 [] id
def cm : Commit := ⟨7, 6, some 9, 1, 2, [(0x80, [3, 4])], [], 7, true, some 0x10000, 7, 0, 5, true, false, false, false⟩
def lv (s : State) : State := { s with jne := { s.jne with live := true, log := [cm] } }
def sMirroredState3 : State := lv (ml 5 [] (fun m => { m with sentAt := [(7, 1), (8, 2)] }))
def sMirroredState4 : State := lv (ml 5 [] (fun m => { m with sentAt := [(7, 1), (8, 2)], iseq := 90000 }))
def sMirroredState5 : State := ml 3 [] id
def sMirroredState6 : State := ml 3 [(jneSts, jneStsSTATE, 1)] id
def sMirroredState7 : State := ml 3 [] (fun m => { m with rs := true, rsPage := 1 })
def sMirroredState8 : State := ml 3 [] (fun m => { m with rs := true, rsPage := 1 })
def sMirroredState9 : State := ml 3 [] (fun m => { m with rs := true, rsPage := imgPages, rsC0 := 7 })
def sMirroredState10 : State := ml 3 [] (fun m => { m with rs := true, rsPage := 4, rsC0 := 7 })
def sMirroredState11 : State := ml 3 [] (fun m => { m with rxGen := 6, rxOff := 1, rxCrc := 0xFFFFFFFF })
def be (s : State) : List Word := fr 7 ([6, BitVec.ofNat 48 (2^47), 1] ++ [BitVec.ofNat 48 ([(1:Word), 2].foldl crcWord s.mlk.rxCrc ^^^ 0xFFFFFFFF), 1, 2])
def sb (i : Nat) : State := ml 3 [(mlkGen, mlkGenINSTALLING, i)] (fun m => { m with rxGen := 6, rxOff := 1, rxCrc := 0xFFFFFFFF })
def sMirroredState12 : State := sb 0
def sMirroredState13 : State := sb 1
def usBad : List Word := us 0 0 0 0 0 ++ [1]
def frBad : List Word := fr 1 [] ++ [1]
def sUplinksAndLanes8 : State := ul (fun r => { r with lat := rlkEpochHOLD.put 0 1 })
def sUplinksAndLanes9 : State := tF { ul id with port := 40000 } [(mlkLane 1, mlkLaneLOCK, 1), (mlkLane 1, mlkLaneHIBER, 1)]
def sMirrorLink10 : State := { ml 3 [] id with lvl := 1 }
def sMirroredState14 : State := { ml 5 [] id with jne := { tOn.jne with log := [cm] } }

/-- States that meet the hypotheses of the clauses of RackCycles. -/
theorem test_RackCycles :
    pdOn sRackCycles1 48 = true ∧
    holdsType sRackCycles1 { who := 0, otype := BitVec.ofNat 8 otRack : Req } otRack = true ∧
    rb sRackCycles1 rlkCtrl rlkCtrlEN = false ∧
    roleOf sRackCycles1 = 0 ∧
    rlkCtrlEN.get (rlkCtrlEN.put (rlkCtrlPER.put 0 1000) 1) = 1 ∧
    rb sRackCycles1 (rlkRing (↑1 : Nat)) rlkRingEN = false ∧
    ringOk (regPut sRackCycles1 (rlkRing (↑1 : Nat)) true (rlkRingEN.put (rlkCtrlEN.put (rlkCtrlPER.put 0 1000) 1) 0)) (↑1 : Nat) = false ∧
    pdOn sRackCycles2 48 = true ∧
    holdsType sRackCycles2 { who := 0, otype := BitVec.ofNat 8 otRack : Req } otRack = true ∧
    rb sRackCycles2 (rlkRing (↑1 : Nat)) rlkRingEN = false ∧
    ringOk (regPut sRackCycles2 (rlkRing (↑1 : Nat)) true (rlkRingEN.put rv 0)) (↑1 : Nat) = true ∧
    sRackCycles2.running = true ∧
    rb sRackCycles2 rlkCtrl rlkCtrlEN = true ∧
    sRackCycles2.rlk.start = none ∧
    (sRackCycles2.rlk.epAt ≠ sRackCycles2.port + 1) ∧
    (BitVec.toNat (btime sRackCycles2) + rlkPer sRackCycles2 - rf sRackCycles2 rlkPhase rlkPhasePHASE % rlkPer sRackCycles2) % rlkPer sRackCycles2 = 0 ∧
    (∀ (j : Nat), j ∈ List.filter (fun (j : Nat) => rb sRackCycles2 (rlkRing j) rlkRingEN) (List.range 4) → 3 ≤ ringDw sRackCycles2 j ∧ 6 ≤ ringUw sRackCycles2 j) ∧
    pdOn sRackCycles4 48 = true ∧
    holdsType sRackCycles4 { who := 0, otype := BitVec.ofNat 8 otRack : Req } otRack = true ∧
    rb sRackCycles4 (rlkRing (↑3 : Nat)) rlkRingEN = true ∧
    pdLive sRackCycles4 48 = true ∧
    sRackCycles4.running = true ∧
    sRackCycles4.rlk.start = some 29000 ∧
    frameOpen sRackCycles4 (↑3 : Nat) = true ∧
    Option.map (fun (p : Nat × List Word) => List.take 4 p.snd) (List.find? (fun (p : Nat × List Word) => p.fst == (↑3 : Nat)) sRackCycles4.rlk.frames) = some hdr ∧
    sRackCycles4.port - 29000 + 32 ≤ rlkPer sRackCycles4 ∧
    pdLive sRackCycles5 48 = true ∧
    sRackCycles5.running = true ∧
    sRackCycles5.rlk.start = some 10 ∧
    10 + rlkPer sRackCycles5 ≤ sRackCycles5.port + 32 ∧
    pdOn sRackCycles5 45 = false ∧
    pdOn sRackCycles5 47 = false ∧
    (∀ (j : Nat), j ∈ sRackCycles5.rlk.live → j < 4) := by
  and_intros <;> decide +kernel

/-- States that meet the hypotheses of the clauses of UplinksAndLanes. -/
theorem test_UplinksAndLanes :
    pdLive sUplinksAndLanes1 48 = true ∧
    sUplinksAndLanes1.running = true ∧
    frameOpen sUplinksAndLanes1 (↑3 : Nat) = true ∧
    BitVec.toNat (1 : Word) < ringNpos sUplinksAndLanes1 (↑3 : Nat) ∧
    sUplinksAndLanes1.rlk.seen.contains ((↑3 : Nat), BitVec.toNat (1 : Word)) = false ∧
    (unitAt sUplinksAndLanes1 (↑3 : Nat) (BitVec.toNat (1 : Word)) ≠ 0) ∧
    slotValid sUplinksAndLanes1 (↑3 : Nat) (unitAt sUplinksAndLanes1 (↑3 : Nat) (BitVec.toNat (1 : Word))) (us 0 0 0 0 0) = true ∧
    upNitem.get ((us 0 0 0 0 0).getD 0 0) = 0 ∧
    pdOn sUplinksAndLanes1 (if (↑5 : Nat) < 4 then 48 else 47) = true ∧
    ((sUplinksAndLanes1.port - (laneBer sUplinksAndLanes1 (↑5 : Nat)).fst) / berWindow = 0 ∨ (sUplinksAndLanes1.port - (laneBer sUplinksAndLanes1 (↑5 : Nat)).fst) / berWindow = 1 ∧ berLimit ≤ (laneBer sUplinksAndLanes1 (↑5 : Nat)).snd) ∧
    pdLive sUplinksAndLanes2 48 = true ∧
    sUplinksAndLanes2.running = true ∧
    frameOpen sUplinksAndLanes2 (↑3 : Nat) = true ∧
    BitVec.toNat (1 : Word) < ringNpos sUplinksAndLanes2 (↑3 : Nat) ∧
    sUplinksAndLanes2.rlk.seen.contains ((↑3 : Nat), BitVec.toNat (1 : Word)) = false ∧
    (unitAt sUplinksAndLanes2 (↑3 : Nat) (BitVec.toNat (1 : Word)) ≠ 0) ∧
    slotValid sUplinksAndLanes2 (↑3 : Nat) (unitAt sUplinksAndLanes2 (↑3 : Nat) (BitVec.toNat (1 : Word))) usBad = false ∧
    pdLive sUplinksAndLanes4 48 = true ∧
    sUplinksAndLanes4.running = true ∧
    frameOpen sUplinksAndLanes4 (↑3 : Nat) = true ∧
    BitVec.toNat (1 : Word) < ringNpos sUplinksAndLanes4 (↑3 : Nat) ∧
    sUplinksAndLanes4.rlk.seen.contains ((↑3 : Nat), BitVec.toNat (1 : Word)) = false ∧
    (unitAt sUplinksAndLanes4 (↑3 : Nat) (BitVec.toNat (1 : Word)) ≠ 0) ∧
    slotValid sUplinksAndLanes4 (↑3 : Nat) (unitAt sUplinksAndLanes4 (↑3 : Nat) (BitVec.toNat (1 : Word))) (us 1 3 3 5 77) = true ∧
    upNitem.get ((us 1 3 3 5 77).getD 0 0) = 1 ∧
    7 ≤ (us 1 3 3 5 77).length ∧
    itOp.get ((us 1 3 3 5 77).getD 5 0) = 3 ∧
    List.find? (fun (e : SendEnt) => e.unit == unitAt sUplinksAndLanes4 (↑3 : Nat) (BitVec.toNat (1 : Word)) && e.lidx == itLidx.get ((us 1 3 3 5 77).getD 5 0) && e.tag == itTag.get ((us 1 3 3 5 77).getD 5 0)) sUplinksAndLanes4.rlk.send = some se ∧
    (se.val ≠ (us 1 3 3 5 77).getD 6 0) ∧
    pdLive sUplinksAndLanes5 48 = true ∧
    sUplinksAndLanes5.running = true ∧
    frameOpen sUplinksAndLanes5 (↑3 : Nat) = true ∧
    BitVec.toNat (1 : Word) < ringNpos sUplinksAndLanes5 (↑3 : Nat) ∧
    sUplinksAndLanes5.rlk.seen.contains ((↑3 : Nat), BitVec.toNat (1 : Word)) = false ∧
    (unitAt sUplinksAndLanes5 (↑3 : Nat) (BitVec.toNat (1 : Word)) ≠ 0) ∧
    slotValid sUplinksAndLanes5 (↑3 : Nat) (unitAt sUplinksAndLanes5 (↑3 : Nat) (BitVec.toNat (1 : Word))) (us 1 4 3 5 77) = true ∧
    upNitem.get ((us 1 4 3 5 77).getD 0 0) = 1 ∧
    7 ≤ (us 1 4 3 5 77).length ∧
    itOp.get ((us 1 4 3 5 77).getD 5 0) = 4 ∧
    List.find? (fun (e : SendEnt) => e.unit == unitAt sUplinksAndLanes5 (↑3 : Nat) (BitVec.toNat (1 : Word)) && e.lidx == itLidx.get ((us 1 4 3 5 77).getD 5 0) && e.tag == itTag.get ((us 1 4 3 5 77).getD 5 0)) sUplinksAndLanes5.rlk.send = some se ∧
    pdLive sUplinksAndLanes6 48 = true ∧
    sUplinksAndLanes6.running = true ∧
    sUplinksAndLanes6.rlk.reps = [{ pnum := 1, val := 2, qual := 0 : RlkReport }] ∧
    sUplinksAndLanes6.jne.live = false ∧
    pdOn sUplinksAndLanes7 (if (↑5 : Nat) < 4 then 48 else 47) = true ∧
    rb sUplinksAndLanes7 (laneReg (↑5 : Nat)) (laneLock (↑5 : Nat)) = true ∧
    (sUplinksAndLanes7.port - (laneBer sUplinksAndLanes7 (↑5 : Nat)).fst) / berWindow = 0 ∧
    pdLive sUplinksAndLanes8 48 = true ∧
    sUplinksAndLanes8.running = true ∧
    frameOpen sUplinksAndLanes8 (↑3 : Nat) = true ∧
    BitVec.toNat (1 : Word) < ringNpos sUplinksAndLanes8 (↑3 : Nat) ∧
    sUplinksAndLanes8.rlk.seen.contains ((↑3 : Nat), BitVec.toNat (1 : Word)) = false ∧
    (unitAt sUplinksAndLanes8 (↑3 : Nat) (BitVec.toNat (1 : Word)) ≠ 0) ∧
    slotValid sUplinksAndLanes8 (↑3 : Nat) (unitAt sUplinksAndLanes8 (↑3 : Nat) (BitVec.toNat (1 : Word))) (us 1 2 0 5 77) = true ∧
    upNitem.get ((us 1 2 0 5 77).getD 0 0) = 1 ∧
    7 ≤ (us 1 2 0 5 77).length ∧
    itOp.get ((us 1 2 0 5 77).getD 5 0) = 2 ∧
    rlkHolds sUplinksAndLanes8 = true ∧
    sUplinksAndLanes8.rlk.reps.length < 4096 ∧
    pdOn sUplinksAndLanes9 (if (↑5 : Nat) < 4 then 48 else 47) = true ∧
    (2 ≤ (sUplinksAndLanes9.port - (laneBer sUplinksAndLanes9 (↑5 : Nat)).fst) / berWindow ∨ (sUplinksAndLanes9.port - (laneBer sUplinksAndLanes9 (↑5 : Nat)).fst) / berWindow = 1 ∧ (laneBer sUplinksAndLanes9 (↑5 : Nat)).snd < berLimit) := by
  and_intros <;> decide +kernel

/-- States that meet the hypotheses of the clauses of MirrorLink. -/
theorem test_MirrorLink :
    pdOn sMirrorLink1 47 = true ∧
    holdsType sMirrorLink1 otM otMirror = true ∧
    rb sMirrorLink1 mlkCtrl mlkCtrlEN = false ∧
    mlkEnOk sMirrorLink1 (mlkCtrlMIVL.get mc) = true ∧
    (rf sMirrorLink1 mlkBchalf mlkBchalfVALUE < List.foldl (fun (k : Nat) (p : Word × Word) => k + entLen p) 0 (bcTable sMirrorLink1) ∨ roleOf sMirrorLink1 ≠ 5 ∨ evHB sMirrorLink1 = false) ∧
    pdLive sMirrorLink1 47 = true ∧
    sMirrorLink1.running = true ∧
    (sMirrorLink1.mlk.last ≠ sMirrorLink1.port + 1) ∧
    BitVec.toNat (btime sMirrorLink1) % mivl sMirrorLink1 = 0 ∧
    pdOn sMirrorLink2 47 = true ∧
    holdsType sMirrorLink2 otM otMirror = true ∧
    rb sMirrorLink2 mlkCtrl mlkCtrlEN = false ∧
    mlkEnOk sMirrorLink2 (mlkCtrlMIVL.get 5) = false ∧
    pdOn sMirrorLink4 47 = true ∧
    holdsType sMirrorLink4 otM otMirror = true ∧
    rb sMirrorLink4 mlkCtrl mlkCtrlEN = true ∧
    bitOf mc 47 = true ∧
    mlkCtrlMIVL.get mc = rf sMirrorLink4 mlkCtrl mlkCtrlMIVL ∧
    (mlkHears sMirrorLink4 = true ∧ frameOk sMirrorLink4 (fr 1 [hbw 3, 2, 30000, 4, 5, 6]) = true ∧ frType.get ((fr 1 [hbw 3, 2, 30000, 4, 5, 6]).headD 0) = 1) ∧
    max 2 ({ hi := 39, lo := 36 : Fld }.get ((frameBody (fr 1 [hbw 3, 2, 30000, 4, 5, 6])).getD 0 0)) ≤ min 3 ({ hi := 35, lo := 32 : Fld }.get ((frameBody (fr 1 [hbw 3, 2, 30000, 4, 5, 6])).getD 0 0)) ∧
    { hi := 41, lo := 40 : Fld }.get ((frameBody (fr 1 [hbw 3, 2, 30000, 4, 5, 6])).getD 0 0) = sMirrorLink4.lvl ∧
    { hi := 15, lo := 0 : Fld }.get ((frameBody (fr 1 [hbw 3, 2, 30000, 4, 5, 6])).getD 0 0) = rf sMirrorLink4 mlkCtrl mlkCtrlMIVL ∧
    { hi := 18, lo := 0 : Fld }.get ((frameBody (fr 1 [hbw 3, 2, 30000, 4, 5, 6])).getD 2 0) = rf sMirrorLink4 rlkCtrl rlkCtrlPER ∧
    { hi := 42, lo := 42 : Fld }.get ((frameBody (fr 1 [hbw 3, 2, 30000, 4, 5, 6])).getD 0 0) = 0 ∧
    mlkHears sMirrorLink4 = true ∧
    frameOk sMirrorLink4 frBad = false ∧
    pdOn sMirrorLink6 47 = true ∧
    holdsType sMirrorLink6 otM otMirror = true ∧
    List.foldl (fun (k : Nat) (p : Word × Word) => k + entLen p) 0 (bcTable sMirrorLink6) ≤ rf sMirrorLink6 mlkBchalf mlkBchalfVALUE ∧
    roleOf sMirrorLink6 = 5 ∧
    evHB sMirrorLink6 = true ∧
    max (max (rf sMirrorLink6 mlkBccmd mlkBccmdGEN) (rf sMirrorLink6 mlkGen mlkGenCURGEN)) (hbField sMirrorLink6 3 { hi := 31, lo := 0 : Fld }) + 1 < 2 ^ 32 ∧
    pdLive sMirrorLink7 47 = true ∧
    sMirrorLink7.running = true ∧
    rb sMirrorLink7 mlkCtrl mlkCtrlEN = true ∧
    (sMirrorLink7.mlk.last ≠ sMirrorLink7.port + 1) ∧
    BitVec.toNat (btime sMirrorLink7) % mivl sMirrorLink7 = 0 ∧
    sMirrorLink7.mlk.evalAt = sMirrorLink7.port + 1 ∧
    (roleOf sMirrorLink7 ≠ 0) ∧
    (roleOf sMirrorLink7 ≠ 5) ∧
    frameVer sMirrorLink7 = 2 ∧
    (mlkHears sMirrorLink8 = true ∧ frameOk sMirrorLink8 (fr 2 (BitVec.ofNat 48 (3 * 256 + 127) :: ir)) = true ∧ frType.get ((fr 2 (BitVec.ofNat 48 (3 * 256 + 127) :: ir)).headD 0) = 2) ∧
    mlkCompat sMirrorLink8 = true ∧
    (roleOf sMirrorLink8 ≠ 5) ∧
    frameBody (fr 2 (BitVec.ofNat 48 (3 * 256 + 127) :: ir)) = BitVec.ofNat 48 (3 * 256 + 127) :: ir ∧
    ir.length = min 32 ({ hi := 13, lo := 8 : Fld }.get (BitVec.ofNat 48 (3 * 256 + 127))) + 12 ∧
    rf sMirrorLink8 mlkIbuf mlkIbufVALUE + 64 * ((BitVec.ofNat 48 (3 * 256 + 127)).toNat % 128) + 64 ≤ 1048576 ∧
    slotLive sMirrorLink8 ((BitVec.ofNat 48 (3 * 256 + 127)).toNat % 128) = false ∧
    (∀ (i : Nat), i < 64 → arrayCode sMirrorLink8 (rf sMirrorLink8 mlkIbuf mlkIbufVALUE + 64 * ((BitVec.ofNat 48 (3 * 256 + 127)).toNat % 128) + i) = 0) ∧
    (mlkHears sMirrorLink9 = true ∧ frameOk sMirrorLink9 (fr 5 [9, 8]) = true ∧ frType.get ((fr 5 [9, 8]).headD 0) = 5) ∧
    mlkCompat sMirrorLink9 = true ∧
    (roleOf sMirrorLink9 ≠ 5) ∧
    frameBody (fr 5 [9, 8]) = [9, 8] ∧
    (mlkHears sMirrorLink10 = true ∧ frameOk sMirrorLink10 (fr 1 [hbw 3, 2, 30000, 4, 5, 6]) = true ∧ frType.get ((fr 1 [hbw 3, 2, 30000, 4, 5, 6]).headD 0) = 1) ∧
    ({ hi := 41, lo := 40 : Fld }.get ((frameBody (fr 1 [hbw 3, 2, 30000, 4, 5, 6])).getD 0 0) ≠ sMirrorLink10.lvl) := by
  and_intros <;> decide +kernel

/-- States that meet the hypotheses of the clauses of MirroredState. -/
theorem test_MirroredState :
    ((mlkHears sMirroredState1 = true ∧ frameOk sMirroredState1 (fr 3 (rec8 8)) = true ∧ frType.get ((fr 3 (rec8 8)).headD 0) = 3 ∧ mlkCompat sMirroredState1 = true) ∧ roleOf sMirroredState1 ≠ 5) ∧
    (recCsn (frameBody (fr 3 (rec8 8))) = rf sMirroredState1 jneNextcsn jneNextcsnCSN + sMirroredState1.jne.mirq.length ∧ pdOn sMirroredState1 44 = true ∧ jneState sMirroredState1 = 3 ∧ sMirroredState1.jne.closing = false ∧ (splitRecords (frameBody (fr 3 (rec8 8))).length (frameBody (fr 3 (rec8 8)))).all recordOk = true) ∧
    ((mlkHears sMirroredState2 = true ∧ frameOk sMirroredState2 (fr 3 (rec8 9)) = true ∧ frType.get ((fr 3 (rec8 9)).headD 0) = 3 ∧ mlkCompat sMirroredState2 = true) ∧ roleOf sMirroredState2 ≠ 5) ∧
    (recCsn (frameBody (fr 3 (rec8 9))) ≠ rf sMirroredState2 jneNextcsn jneNextcsnCSN + sMirroredState2.jne.mirq.length ∨ sMirroredState2.jne.closing = true) ∧
    (mlkHears sMirroredState3 = true ∧ frameOk sMirroredState3 (fr 4 [7]) = true ∧ frType.get ((fr 4 [7]).headD 0) = 4 ∧ mlkCompat sMirroredState3 = true) ∧
    roleOf sMirroredState3 = 5 ∧
    rb sMirroredState3 mlkRole mlkRoleRESYNC = false ∧
    (sMirroredState3.jne.live = true ∨ (sMirroredState3.jne.staleAt == sMirroredState3.port / 4 + 1) = true) ∧
    mlkLive sMirroredState4 = true ∧
    sMirroredState4.jne.live = true ∧
    (sMirroredState4.mlk.sentAt.any fun (p : Nat × Nat) => decide (p.snd + max 1 (rf sMirroredState4 mlkCtrl mlkCtrlACKTO) ≤ sMirroredState4.mlk.iseq)) = true ∧
    ((mlkHears sMirroredState5 = true ∧ frameOk sMirroredState5 (fr 8 [7]) = true ∧ frType.get ((fr 8 [7]).headD 0) = 8 ∧ mlkCompat sMirroredState5 = true) ∧ roleOf sMirroredState5 ≠ 5) ∧
    pdOn sMirroredState5 44 = true ∧
    jneState sMirroredState5 = 3 ∧
    BitVec.toNat ((frameBody (fr 8 [7])).getD 0 0) + 1 < 2 ^ 48 ∧
    ((mlkHears sMirroredState6 = true ∧ frameOk sMirroredState6 (fr 8 [7]) = true ∧ frType.get ((fr 8 [7]).headD 0) = 8 ∧ mlkCompat sMirroredState6 = true) ∧ roleOf sMirroredState6 ≠ 5) ∧
    (jneState sMirroredState6 ≠ 3) ∧
    ((mlkHears sMirroredState7 = true ∧ frameOk sMirroredState7 (fr 9 (512 :: List.replicate 512 3)) = true ∧ frType.get ((fr 9 (512 :: List.replicate 512 3)).headD 0) = 9 ∧ mlkCompat sMirroredState7 = true) ∧ roleOf sMirroredState7 ≠ 5) ∧
    sMirroredState7.mlk.rs = true ∧
    BitVec.toNat ((frameBody (fr 9 (512 :: List.replicate 512 3))).getD 0 0) = 512 * sMirroredState7.mlk.rsPage ∧
    (frameBody (fr 9 (512 :: List.replicate 512 3))).length = 513 ∧
    ((mlkHears sMirroredState8 = true ∧ frameOk sMirroredState8 (fr 9 (511 :: List.replicate 512 3)) = true ∧ frType.get ((fr 9 (511 :: List.replicate 512 3)).headD 0) = 9 ∧ mlkCompat sMirroredState8 = true) ∧ roleOf sMirroredState8 ≠ 5) ∧
    sMirroredState8.mlk.rs = true ∧
    (BitVec.toNat ((frameBody (fr 9 (511 :: List.replicate 512 3))).getD 0 0) ≠ 512 * sMirroredState8.mlk.rsPage) ∧
    ((mlkHears sMirroredState9 = true ∧ frameOk sMirroredState9 (fr 10 [7, BitVec.ofNat 48 imgPages]) = true ∧ frType.get ((fr 10 [7, BitVec.ofNat 48 imgPages]).headD 0) = 10 ∧ mlkCompat sMirroredState9 = true) ∧ roleOf sMirroredState9 ≠ 5) ∧
    sMirroredState9.mlk.rs = true ∧
    sMirroredState9.mlk.rsPage = imgPages ∧
    BitVec.toNat ((frameBody (fr 10 [7, BitVec.ofNat 48 imgPages])).getD 0 0) = sMirroredState9.mlk.rsC0 ∧
    BitVec.toNat ((frameBody (fr 10 [7, BitVec.ofNat 48 imgPages])).getD 1 0) = imgPages ∧
    sMirroredState9.mlk.rsreq = false ∧
    sMirroredState9.jne.script = [] ∧
    sMirroredState9.jne.bursts = [] ∧
    sMirroredState9.jne.infoq = [] ∧
    jneState sMirroredState9 = 3 ∧
    ((mlkHears sMirroredState10 = true ∧ frameOk sMirroredState10 (fr 10 [7, BitVec.ofNat 48 imgPages]) = true ∧ frType.get ((fr 10 [7, BitVec.ofNat 48 imgPages]).headD 0) = 10 ∧ mlkCompat sMirroredState10 = true) ∧ roleOf sMirroredState10 ≠ 5) ∧
    sMirroredState10.mlk.rs = true ∧
    (sMirroredState10.mlk.rsPage ≠ imgPages) ∧
    ((mlkHears sMirroredState11 = true ∧ frameOk sMirroredState11 (fr 6 [6, 1, 5, 6]) = true ∧ frType.get ((fr 6 [6, 1, 5, 6]).headD 0) = 6 ∧ mlkCompat sMirroredState11 = true) ∧ roleOf sMirroredState11 ≠ 5) ∧
    sMirroredState11.mlk.rxGen = BitVec.toNat ((frameBody (fr 6 [6, 1, 5, 6])).getD 0 0) % 2 ^ 32 ∧
    BitVec.toNat ((frameBody (fr 6 [6, 1, 5, 6])).getD 1 0) = sMirroredState11.mlk.rxOff ∧
    sMirroredState11.mlk.rxDone = none ∧
    BitVec.toNat ((frameBody (fr 6 [6, 1, 5, 6])).getD 1 0) + (List.drop 2 (frameBody (fr 6 [6, 1, 5, 6]))).length ≤ rf sMirroredState11 mlkBchalf mlkBchalfVALUE ∧
    rxHalf sMirroredState11 + BitVec.toNat ((frameBody (fr 6 [6, 1, 5, 6])).getD 1 0) + (List.drop 2 (frameBody (fr 6 [6, 1, 5, 6]))).length ≤ 1048576 ∧
    (∀ (i : Nat), i < (List.drop 2 (frameBody (fr 6 [6, 1, 5, 6]))).length → arrayCode sMirroredState11 (rxHalf sMirroredState11 + BitVec.toNat ((frameBody (fr 6 [6, 1, 5, 6])).getD 1 0) + i) = 0) ∧
    ((mlkHears sMirroredState12 = true ∧ frameOk sMirroredState12 (be (sb 0)) = true ∧ frType.get ((be (sb 0)).headD 0) = 7 ∧ mlkCompat sMirroredState12 = true) ∧ roleOf sMirroredState12 ≠ 5) ∧
    sMirroredState12.mlk.rxGen = BitVec.toNat ((frameBody (be (sb 0))).getD 0 0) % 2 ^ 32 ∧
    (BitVec.toNat ((frameBody (be (sb 0))).getD 0 0) % 2 ^ 32 ≠ 0) ∧
    BitVec.toNat ((frameBody (be (sb 0))).getD 2 0) = sMirroredState12.mlk.rxOff ∧
    sMirroredState12.mlk.rxDone = none ∧
    List.foldl crcWord sMirroredState12.mlk.rxCrc (List.drop 4 (frameBody (be (sb 0)))) ^^^ 4294967295 = BitVec.toNat ((frameBody (be (sb 0))).getD 3 0) % 2 ^ 32 ∧
    rb sMirroredState12 mlkGen mlkGenINSTALLING = false ∧
    ((mlkHears sMirroredState13 = true ∧ frameOk sMirroredState13 (be (sb 1)) = true ∧ frType.get ((be (sb 1)).headD 0) = 7 ∧ mlkCompat sMirroredState13 = true) ∧ roleOf sMirroredState13 ≠ 5) ∧
    sMirroredState13.mlk.rxGen = BitVec.toNat ((frameBody (be (sb 1))).getD 0 0) % 2 ^ 32 ∧
    (BitVec.toNat ((frameBody (be (sb 1))).getD 0 0) % 2 ^ 32 ≠ 0) ∧
    BitVec.toNat ((frameBody (be (sb 1))).getD 2 0) = sMirroredState13.mlk.rxOff ∧
    sMirroredState13.mlk.rxDone = none ∧
    List.foldl crcWord sMirroredState13.mlk.rxCrc (List.drop 4 (frameBody (be (sb 1)))) ^^^ 4294967295 = BitVec.toNat ((frameBody (be (sb 1))).getD 3 0) % 2 ^ 32 ∧
    rb sMirroredState13 mlkGen mlkGenINSTALLING = true ∧
    pdLive sMirroredState13 47 = true ∧
    sMirroredState13.running = true ∧
    sMirroredState13.mlk.inst = [] ∧
    (mlkHears sMirroredState14 = true ∧ frameOk sMirroredState14 (fr 4 [7]) = true ∧ frType.get ((fr 4 [7]).headD 0) = 4 ∧ mlkCompat sMirroredState14 = true) ∧
    roleOf sMirroredState14 = 5 ∧
    rb sMirroredState14 mlkRole mlkRoleRESYNC = false ∧
    sMirroredState14.jne.live = false ∧
    (sMirroredState14.jne.staleAt == sMirroredState14.port / 4 + 1) = false := by
  and_intros <;> decide +kernel

end W12

namespace W13

def p0 (opc n : Nat) : Word := BitVec.ofNat 48 (0xCD * 2^40 + opc * 2^32 + 2^28 + 0x77 * 2^8 + n)
def cp (st own : Nat) (l : List (Nat × Fld × Nat)) (ws : List Word) (f : Cpt → Cpt) : State :=
  let t := tF tOn ([(cptCtrl, cptCtrlEN, 1), (cptCtrl, cptCtrlSVEN, 1), (cptBuf 5, cptBufSTATE, st), (cptBuf 5, cptBufOWNER, own), (mlkRole, mlkRoleROLE, 5), (cptEvptr, cptEvptrPROD, 7), (jneSts, jneStsSTATE, 3)] ++ l)
  { t with port := 100, cpt := f { t.cpt with bufs := [(5, ⟨none, ws.headD 0, 90, false, 0⟩)] }, cores := [(8, tCore 8 0 [])], mem := ((List.range ws.length).map (fun i => (0x500 + i, ws.getD i 0))).filter (fun p => p.2 != 0) }
def hx (u : HmpUse) (c : Nat) (ws : List Word) : HmpTx := ⟨0, u, false, 0, ws.length, [], false, false, 0, ws.map (fun w => (c, w))⟩
def f0 : CptFetch := ⟨5, 0x100, 0, 1⟩
def c0 : CptCopy := ⟨some 5, 0x100, [1, 2], 1, false⟩
def e0 : CptEvent := ⟨1, 2, 3, 4, []⟩
def rq : Req := ⟨4, BitVec.ofNat 8 otCommand⟩
def perm : List (Nat × Fld × Nat) := [(cptRq 4, ⟨5,0⟩, 63), (cptRq 4, ⟨47,0⟩, 2^48-1)]
def sCommandBuffers1 : State := cp 1 4 [(cptRq 4, cptRqPERM, 0)] [p0 0x10 1, 0, 98309] id
def sCommandBuffers2 : State := cp 1 4 perm [p0 0x10 1, 0, 98309] id
def sCommandBuffers3 : State := cp 1 4 (perm ++ [(cptCtrl, cptCtrlSVEN, 0)]) [p0 0x10 1, 0, 98309] id
def sCommandBuffers4 : State := cp 1 4 perm [p0 0x10 0, 0, 98309] id
def sCommandBuffers5 : State := cp 1 4 perm [p0 0x70 0, 0, 98309] id
def sCommandBuffers6 : State := cp 1 4 perm [5, 0, 98309] id
def sCommandBuffers7 : State := cp 1 3 perm [5, 0, 98309] id
def sCommandBuffers8 : State := cp 1 3 perm [5, 0, 98309] id
def sCommandBuffers9 : State := cp 2 4 [] [p0 0x10 1, 0, 98309] (fun c => { c with queue := [5, 6] })
def sCommandBuffers10 : State := cp 3 4 [] [p0 0x10 1, 0, 98309] id
def pt (s : State) (x : HmpTx) : State := { s with ports := { s.ports with done := [x] } }
def sCommandBuffers11 : State := pt (cp 6 10 [] [] (fun c => { c with fetch := [f0] })) (hx (.unit 25 5) 0 [p0 0x10 1])
def f1 : CptFetch := ⟨5, 0x100, 1, 3⟩
def sCommandBuffers12 : State := pt (cp 6 10 perm [p0 0x10 1] (fun c => { c with fetch := [f1] })) (hx (.unit 25 5) 0 [0, 9])
def sCommandBuffers13 : State := pt (cp 6 10 perm [p0 0x10 1] (fun c => { c with fetch := [f1] })) (hx (.unit 25 5) 3 [0, 9])
def sCommandBuffers14 : State := pt (cp 4 10 perm [p0 0x10 1] (fun c => { c with copies := [c0] })) (hx (.unit 25 69) 0 [9])
def sCommandBuffers15 : State := pt (cp 4 10 perm [p0 0x10 1] (fun c => { c with copies := [⟨some 5, 0x100, [1, 2], 0, true⟩] })) (hx (.unit 25 69) 0 [9])
def sCommandBuffers16 : State := pt (cp 4 10 perm [p0 0x10 1] (fun c => { c with evNow := some e0, evStage := 1 })) (hx (.unit 25 129) 0 [9])
def sCommandBuffers17 : State := pt (cp 4 10 perm [p0 0x10 1] (fun c => { c with evNow := some e0, evStage := 2 })) (hx (.unit 25 129) 0 [9])
def sCommandBuffers18 : State := pt (cp 4 10 perm [p0 0x10 1] (fun c => { c with evNow := some e0, evStage := 2 })) (hx (.unit 25 129) 3 [9])
def it (opc : Nat) (body : List Word) : State := { cp 2 4 [] ([p0 opc body.length, 0] ++ body) (fun c => { c with queue := [5, 6], seq := 3 }) with dm := { tOn.dm with jtSec := 10, jtNs := 2 ^ 40 } }
def sInterpreter1 : State := it 0 [5, 6, 7]
def sInterpreter2 : State := it 1 []
def sInterpreter3 : State := it 0x28 []
def sInterpreter4 : State := it 0x30 []
def sInterpreter5 : State := it 0x19 [3]
def sInterpreter6 : State := it 0x20 []
def sInterpreter7 : State := it 0x10 [98309, 98310]
def sInterpreter8 : State := it 0x11 [98309, 98310]
def sInterpreter9 : State := it 0x12 [98309, 98310, 5]
def sInterpreter10 : State := it 0x13 [98309]
def sInterpreter11 : State := it 0x14 [98309]
def sInterpreter12 : State := it 0x15 [98309]
def sInterpreter13 : State := it 0x18 [BitVec.ofNat 48 (5 * 2^32 + 0x30007), 9]
def sInterpreter14 : State := it 0x29 [0x7F, 9]
def sInterpreter15 : State := it 0x29 [0x80, 9]
def sInterpreter16 : State := it 0x21 [9, 9]
def sInterpreter17 : State := it 0x21 [11, 0xFFFFFFFF]
def sInterpreter19 : State := it 0x38 [BitVec.ofNat 48 pctlVersion]
def sInterpreter20 : State := it 0x38 [5]
def sInterpreter21 : State := it 0x39 [BitVec.ofNat 48 jneHlog, 7]
def sInterpreter22 : State := it 0x39 [5, 6]
def sCommandBuffers19 : State := cp 3 4 [] [p0 0x10 1, 0, 98309] (fun c => { c with bufs := [(5, ⟨none, p0 0x10 1, 100, false, 0⟩)] })
def c1 : CptCopy := ⟨some 5, 0x100, [1, 2], 0, true⟩
def rqH : Req := ⟨10, 12⟩

/-- States that meet the hypotheses of the clauses of CommandBuffers. -/
theorem test_CommandBuffers :
    cptOpen sCommandBuffers1 = true ∧
    ((↑rq.who : Nat) = (↑4 : Nat) ∧ (↑4 : Nat) ≠ 10) ∧
    ((↑rq.who : Nat) ≠ 10) ∧
    bufState sCommandBuffers1 (↑5 : Nat) = 1 ∧
    bufOwner sCommandBuffers1 (↑5 : Nat) = (↑4 : Nat) ∧
    WordsWhole sCommandBuffers1 (bufAddr sCommandBuffers1 (↑5 : Nat) 0) 2 ∧
    Machine.headerOk (bufWord sCommandBuffers1 (↑5 : Nat) 0) (bufWord sCommandBuffers1 (↑5 : Nat) 1) = true ∧
    opcClass ({ hi := 39, lo := 32 : Fld }.get (bufWord sCommandBuffers1 (↑5 : Nat) 0)) = some 0 ∧
    opcLenOk ({ hi := 39, lo := 32 : Fld }.get (bufWord sCommandBuffers1 (↑5 : Nat) 0)) (BitVec.toNat (bufWord sCommandBuffers1 (↑5 : Nat) 0) % 256) = true ∧
    0 < 6 ∧
    rbit sCommandBuffers1 (cptRq (↑4 : Nat)) cptRqPERM 0 = false ∧
    (bufState sCommandBuffers1 (↑5 : Nat) = 1 ∨ bufState sCommandBuffers1 (↑5 : Nat) = 4) ∧
    cptOpen sCommandBuffers2 = true ∧
    bufState sCommandBuffers2 (↑5 : Nat) = 1 ∧
    bufOwner sCommandBuffers2 (↑5 : Nat) = (↑4 : Nat) ∧
    WordsWhole sCommandBuffers2 (bufAddr sCommandBuffers2 (↑5 : Nat) 0) 2 ∧
    Machine.headerOk (bufWord sCommandBuffers2 (↑5 : Nat) 0) (bufWord sCommandBuffers2 (↑5 : Nat) 1) = true ∧
    opcClass ({ hi := 39, lo := 32 : Fld }.get (bufWord sCommandBuffers2 (↑5 : Nat) 0)) = some 0 ∧
    opcLenOk ({ hi := 39, lo := 32 : Fld }.get (bufWord sCommandBuffers2 (↑5 : Nat) 0)) (BitVec.toNat (bufWord sCommandBuffers2 (↑5 : Nat) 0) % 256) = true ∧
    (0 < 6 → rbit sCommandBuffers2 (cptRq (↑4 : Nat)) cptRqPERM 0 = true) ∧
    svcPresent sCommandBuffers2 = true ∧
    cptOpen sCommandBuffers3 = true ∧
    bufState sCommandBuffers3 (↑5 : Nat) = 1 ∧
    bufOwner sCommandBuffers3 (↑5 : Nat) = (↑4 : Nat) ∧
    WordsWhole sCommandBuffers3 (bufAddr sCommandBuffers3 (↑5 : Nat) 0) 2 ∧
    Machine.headerOk (bufWord sCommandBuffers3 (↑5 : Nat) 0) (bufWord sCommandBuffers3 (↑5 : Nat) 1) = true ∧
    opcClass ({ hi := 39, lo := 32 : Fld }.get (bufWord sCommandBuffers3 (↑5 : Nat) 0)) = some 0 ∧
    opcLenOk ({ hi := 39, lo := 32 : Fld }.get (bufWord sCommandBuffers3 (↑5 : Nat) 0)) (BitVec.toNat (bufWord sCommandBuffers3 (↑5 : Nat) 0) % 256) = true ∧
    (0 < 6 → rbit sCommandBuffers3 (cptRq (↑4 : Nat)) cptRqPERM 0 = true) ∧
    (rb sCommandBuffers3 cptCtrl cptCtrlEN = false ∨ rb sCommandBuffers3 cptCtrl cptCtrlSVEN = false ∨ coreLive sCommandBuffers3 8 = false ∨ sCommandBuffers3.cpt.drain = true) ∧
    cptOpen sCommandBuffers4 = true ∧
    bufState sCommandBuffers4 (↑5 : Nat) = 1 ∧
    bufOwner sCommandBuffers4 (↑5 : Nat) = (↑4 : Nat) ∧
    WordsWhole sCommandBuffers4 (bufAddr sCommandBuffers4 (↑5 : Nat) 0) 2 ∧
    Machine.headerOk (bufWord sCommandBuffers4 (↑5 : Nat) 0) (bufWord sCommandBuffers4 (↑5 : Nat) 1) = true ∧
    opcClass ({ hi := 39, lo := 32 : Fld }.get (bufWord sCommandBuffers4 (↑5 : Nat) 0)) = some 0 ∧
    opcLenOk ({ hi := 39, lo := 32 : Fld }.get (bufWord sCommandBuffers4 (↑5 : Nat) 0)) (BitVec.toNat (bufWord sCommandBuffers4 (↑5 : Nat) 0) % 256) = false ∧
    cptOpen sCommandBuffers5 = true ∧
    bufState sCommandBuffers5 (↑5 : Nat) = 1 ∧
    bufOwner sCommandBuffers5 (↑5 : Nat) = (↑4 : Nat) ∧
    WordsWhole sCommandBuffers5 (bufAddr sCommandBuffers5 (↑5 : Nat) 0) 2 ∧
    Machine.headerOk (bufWord sCommandBuffers5 (↑5 : Nat) 0) (bufWord sCommandBuffers5 (↑5 : Nat) 1) = true ∧
    opcClass ({ hi := 39, lo := 32 : Fld }.get (bufWord sCommandBuffers5 (↑5 : Nat) 0)) = none ∧
    cptOpen sCommandBuffers6 = true ∧
    bufState sCommandBuffers6 (↑5 : Nat) = 1 ∧
    bufOwner sCommandBuffers6 (↑5 : Nat) = (↑4 : Nat) ∧
    WordsWhole sCommandBuffers6 (bufAddr sCommandBuffers6 (↑5 : Nat) 0) 2 ∧
    Machine.headerOk (bufWord sCommandBuffers6 (↑5 : Nat) 0) (bufWord sCommandBuffers6 (↑5 : Nat) 1) = false ∧
    cptOpen sCommandBuffers7 = true ∧
    (¬((↑rqH.who : Nat) = (↑4 : Nat) ∧ (↑4 : Nat) ≠ 10)) ∧
    (↑rqH.who : Nat) = 10 ∧
    cptOpen sCommandBuffers8 = true ∧
    (bufOwner sCommandBuffers8 (↑5 : Nat) ≠ (↑4 : Nat)) ∧
    cptOpen sCommandBuffers9 = true ∧
    holdsType sCommandBuffers9 rq otCommand = true ∧
    sCommandBuffers9.cpt.queue = [(↑5 : Nat), 6] ∧
    pdLive sCommandBuffers9 49 = true ∧
    sCommandBuffers9.running = true ∧
    WordsWhole sCommandBuffers9 (bufAddr sCommandBuffers9 (↑5 : Nat) 0) 2 ∧
    bufState sCommandBuffers9 (↑5 : Nat) = 2 ∧
    (bufOf sCommandBuffers9 (↑5 : Nat)).dl ≤ sCommandBuffers9.port ∧
    cptOpen sCommandBuffers10 = true ∧
    holdsType sCommandBuffers10 rq otCommand = true ∧
    bufState sCommandBuffers10 (↑5 : Nat) = 3 ∧
    WordsWhole sCommandBuffers10 (bufAddr sCommandBuffers10 (↑5 : Nat) 0) (2 + BitVec.toNat (1 : Word)) ∧
    pdLive sCommandBuffers10 49 = true ∧
    sCommandBuffers10.running = true ∧
    WordsWhole sCommandBuffers10 (bufAddr sCommandBuffers10 (↑5 : Nat) 0) 2 ∧
    (bufOf sCommandBuffers10 (↑5 : Nat)).dl < sCommandBuffers10.port ∧
    sCommandBuffers11.ports.done = [hx (HmpUse.unit 25 5) 0 [p0 16 1]] ∧
    (hx (HmpUse.unit 25 5) 0 [p0 16 1]).use = useFetch (↑5 : Nat) ∧
    sCommandBuffers11.cpt.fetch = [f0] ∧
    f0.buf = (↑5 : Nat) ∧
    WordsWhole sCommandBuffers11 (bufAddr sCommandBuffers11 (↑5 : Nat) 0) (max 2 f0.want) ∧
    (hx (HmpUse.unit 25 5) 0 [p0 16 1]).code = 0 ∧
    f0.got = 0 ∧
    (hx (HmpUse.unit 25 5) 0 [p0 16 1]).len = 1 ∧
    sCommandBuffers12.ports.done = [hx (HmpUse.unit 25 5) 0 [0, 9]] ∧
    (hx (HmpUse.unit 25 5) 0 [0, 9]).use = useFetch (↑5 : Nat) ∧
    sCommandBuffers12.cpt.fetch = [f1] ∧
    f1.buf = (↑5 : Nat) ∧
    WordsWhole sCommandBuffers12 (bufAddr sCommandBuffers12 (↑5 : Nat) 0) (max 2 f1.want) ∧
    (hx (HmpUse.unit 25 5) 0 [0, 9]).code = 0 ∧
    (f1.got ≠ 0) ∧
    f1.got + (hx (HmpUse.unit 25 5) 0 [0, 9]).len = f1.want ∧
    sCommandBuffers13.ports.done = [hx (HmpUse.unit 25 5) 3 [0, 9]] ∧
    (hx (HmpUse.unit 25 5) 3 [0, 9]).use = useFetch (↑5 : Nat) ∧
    sCommandBuffers13.cpt.fetch = [f1] ∧
    WordsWhole sCommandBuffers13 (bufAddr sCommandBuffers13 (↑5 : Nat) 0) (max 2 f1.want) ∧
    ((hx (HmpUse.unit 25 5) 3 [0, 9]).code ≠ 0) ∧
    sCommandBuffers14.ports.done = [hx (HmpUse.unit 25 69) 0 [9]] ∧
    (hx (HmpUse.unit 25 69) 0 [9]).use = useCopy (↑5 : Nat) ∧
    sCommandBuffers14.cpt.copies = [c0] ∧
    c0.buf = some (↑5 : Nat) ∧
    c0.last = false ∧
    (hx (HmpUse.unit 25 69) 0 [9]).code = 0 ∧
    (hx (HmpUse.unit 25 69) 0 [9]).len = c0.left ∧
    sCommandBuffers15.ports.done = [hx (HmpUse.unit 25 69) 0 [9]] ∧
    sCommandBuffers15.cpt.copies = [c1] ∧
    c1.buf = some (↑5 : Nat) ∧
    (c1.last = true ∨ (hx (HmpUse.unit 25 69) 0 [9]).code ≠ 0) ∧
    bufState sCommandBuffers15 (↑5 : Nat) = 4 ∧
    sCommandBuffers16.ports.done = [hx (HmpUse.unit 25 129) 0 [9]] ∧
    (hx (HmpUse.unit 25 129) 0 [9]).use = useEvent ∧
    sCommandBuffers16.cpt.evNow = some e0 ∧
    (hx (HmpUse.unit 25 129) 0 [9]).code = 0 ∧
    sCommandBuffers16.cpt.evStage = 1 ∧
    sCommandBuffers17.ports.done = [hx (HmpUse.unit 25 129) 0 [9]] ∧
    sCommandBuffers17.cpt.evNow = some e0 ∧
    sCommandBuffers17.cpt.evStage = 2 ∧
    sCommandBuffers17.cpt.evq = [] ∧
    sCommandBuffers18.ports.done = [hx (HmpUse.unit 25 129) 3 [9]] ∧
    (hx (HmpUse.unit 25 129) 3 [9]).use = useEvent ∧
    sCommandBuffers18.cpt.evNow = some e0 ∧
    ((hx (HmpUse.unit 25 129) 3 [9]).code ≠ 0) ∧
    pdLive sCommandBuffers19 49 = true ∧
    sCommandBuffers19.running = true ∧
    WordsWhole sCommandBuffers19 (bufAddr sCommandBuffers19 (↑5 : Nat) 0) 2 ∧
    bufState sCommandBuffers19 (↑5 : Nat) = 3 ∧
    (bufOf sCommandBuffers19 (↑5 : Nat)).dl = sCommandBuffers19.port := by
  and_intros <;> first | decide +kernel | exact wordsWhole_of (by unfold Plain; decide +kernel) (by decide +kernel)

/-- States that meet the hypotheses of the clauses of Interpreter. -/
theorem test_Interpreter :
    cptServes sInterpreter1 = true ∧
    sInterpreter1.cpt.run = none ∧
    (∀ (j : Nat), j < 64 → bufState sInterpreter1 j ≠ 3) ∧
    sInterpreter1.cpt.queue = [(↑5 : Nat), 6] ∧
    sInterpreter1.pne.done = [] ∧
    sInterpreter1.jne.cptDone = [] ∧
    BitVec.toNat (bufOf sInterpreter1 (↑5 : Nat)).w0 % 256 ≤ 254 ∧
    WordsWhole sInterpreter1 (bufAddr sInterpreter1 (↑5 : Nat) 0) 256 ∧
    { hi := 39, lo := 32 : Fld }.get (bufOf sInterpreter1 (↑5 : Nat)).w0 = 0 ∧
    readsCode (svReadList (setRun (bufChecks (setBufState (unqueue sInterpreter1 (↑5 : Nat)) (↑5 : Nat) 3) (↑5 : Nat) 2 (BitVec.toNat (bufOf sInterpreter1 (↑5 : Nat)).w0 % 256)) { buf := (↑5 : Nat), opc := 0, item := 0, busy := false, out := [], bad := false : CptRun }) []).fst = 0 ∧
    cptServes sInterpreter2 = true ∧
    sInterpreter2.cpt.run = none ∧
    (∀ (j : Nat), j < 64 → bufState sInterpreter2 j ≠ 3) ∧
    sInterpreter2.cpt.queue = [(↑5 : Nat), 6] ∧
    sInterpreter2.pne.done = [] ∧
    sInterpreter2.jne.cptDone = [] ∧
    BitVec.toNat (bufOf sInterpreter2 (↑5 : Nat)).w0 % 256 ≤ 254 ∧
    WordsWhole sInterpreter2 (bufAddr sInterpreter2 (↑5 : Nat) 0) 256 ∧
    { hi := 39, lo := 32 : Fld }.get (bufOf sInterpreter2 (↑5 : Nat)).w0 = 1 ∧
    readsCode (svReadList (setRun (bufChecks (setBufState (unqueue sInterpreter2 (↑5 : Nat)) (↑5 : Nat) 3) (↑5 : Nat) 2 (BitVec.toNat (bufOf sInterpreter2 (↑5 : Nat)).w0 % 256)) { buf := (↑5 : Nat), opc := 1, item := 0, busy := false, out := [], bad := false : CptRun }) [pctlVersion, mlkRole]).fst = 0 ∧
    cptServes sInterpreter3 = true ∧
    sInterpreter3.cpt.run = none ∧
    (∀ (j : Nat), j < 64 → bufState sInterpreter3 j ≠ 3) ∧
    sInterpreter3.cpt.queue = [(↑5 : Nat), 6] ∧
    sInterpreter3.pne.done = [] ∧
    sInterpreter3.jne.cptDone = [] ∧
    BitVec.toNat (bufOf sInterpreter3 (↑5 : Nat)).w0 % 256 ≤ 254 ∧
    WordsWhole sInterpreter3 (bufAddr sInterpreter3 (↑5 : Nat) 0) 256 ∧
    { hi := 39, lo := 32 : Fld }.get (bufOf sInterpreter3 (↑5 : Nat)).w0 = 40 ∧
    readsCode (svReadList (setRun (bufChecks (setBufState (unqueue sInterpreter3 (↑5 : Nat)) (↑5 : Nat) 3) (↑5 : Nat) 2 (BitVec.toNat (bufOf sInterpreter3 (↑5 : Nat)).w0 % 256)) { buf := (↑5 : Nat), opc := 40, item := 0, busy := false, out := [], bad := false : CptRun }) [jneSts, jneNextcsn, jneAckcsn, jnePercsn, jneU, jneBudget]).fst = 0 ∧
    cptServes sInterpreter4 = true ∧
    sInterpreter4.cpt.run = none ∧
    (∀ (j : Nat), j < 64 → bufState sInterpreter4 j ≠ 3) ∧
    sInterpreter4.cpt.queue = [(↑5 : Nat), 6] ∧
    sInterpreter4.pne.done = [] ∧
    sInterpreter4.jne.cptDone = [] ∧
    BitVec.toNat (bufOf sInterpreter4 (↑5 : Nat)).w0 % 256 ≤ 254 ∧
    WordsWhole sInterpreter4 (bufAddr sInterpreter4 (↑5 : Nat) 0) 256 ∧
    { hi := 39, lo := 32 : Fld }.get (bufOf sInterpreter4 (↑5 : Nat)).w0 = 48 ∧
    readsCode (svReadList (setRun (bufChecks (setBufState (unqueue sInterpreter4 (↑5 : Nat)) (↑5 : Nat) 3) (↑5 : Nat) 2 (BitVec.toNat (bufOf sInterpreter4 (↑5 : Nat)).w0 % 256)) { buf := (↑5 : Nat), opc := 48, item := 0, busy := false, out := [], bad := false : CptRun }) [mlkRole, mlkSts, mlkGen, rlkEpoch, rlkAuth, rlkPeer]).fst = 0 ∧
    cptServes sInterpreter5 = true ∧
    sInterpreter5.cpt.run = none ∧
    (∀ (j : Nat), j < 64 → bufState sInterpreter5 j ≠ 3) ∧
    sInterpreter5.cpt.queue = [(↑5 : Nat), 6] ∧
    sInterpreter5.pne.done = [] ∧
    sInterpreter5.jne.cptDone = [] ∧
    BitVec.toNat (bufOf sInterpreter5 (↑5 : Nat)).w0 % 256 ≤ 254 ∧
    WordsWhole sInterpreter5 (bufAddr sInterpreter5 (↑5 : Nat) 0) 256 ∧
    { hi := 39, lo := 32 : Fld }.get (bufOf sInterpreter5 (↑5 : Nat)).w0 = 25 ∧
    BitVec.toNat (bufOf sInterpreter5 (↑5 : Nat)).w0 % 256 = 1 ∧
    cptServes sInterpreter6 = true ∧
    sInterpreter6.cpt.run = none ∧
    (∀ (j : Nat), j < 64 → bufState sInterpreter6 j ≠ 3) ∧
    sInterpreter6.cpt.queue = [(↑5 : Nat), 6] ∧
    sInterpreter6.pne.done = [] ∧
    sInterpreter6.jne.cptDone = [] ∧
    BitVec.toNat (bufOf sInterpreter6 (↑5 : Nat)).w0 % 256 ≤ 254 ∧
    WordsWhole sInterpreter6 (bufAddr sInterpreter6 (↑5 : Nat) 0) 256 ∧
    { hi := 39, lo := 32 : Fld }.get (bufOf sInterpreter6 (↑5 : Nat)).w0 = 32 ∧
    cptServes sInterpreter7 = true ∧
    sInterpreter7.cpt.run = none ∧
    (∀ (j : Nat), j < 64 → bufState sInterpreter7 j ≠ 3) ∧
    sInterpreter7.cpt.queue = [(↑5 : Nat), 6] ∧
    sInterpreter7.pne.done = [] ∧
    sInterpreter7.jne.cptDone = [] ∧
    BitVec.toNat (bufOf sInterpreter7 (↑5 : Nat)).w0 % 256 ≤ 254 ∧
    WordsWhole sInterpreter7 (bufAddr sInterpreter7 (↑5 : Nat) 0) 256 ∧
    { hi := 39, lo := 32 : Fld }.get (bufOf sInterpreter7 (↑5 : Nat)).w0 = 16 ∧
    opcLenOk 16 (BitVec.toNat (bufOf sInterpreter7 (↑5 : Nat)).w0 % 256) = true ∧
    pdOn sInterpreter7 45 = true ∧
    cptServes sInterpreter8 = true ∧
    sInterpreter8.cpt.run = none ∧
    (∀ (j : Nat), j < 64 → bufState sInterpreter8 j ≠ 3) ∧
    sInterpreter8.cpt.queue = [(↑5 : Nat), 6] ∧
    sInterpreter8.pne.done = [] ∧
    sInterpreter8.jne.cptDone = [] ∧
    BitVec.toNat (bufOf sInterpreter8 (↑5 : Nat)).w0 % 256 ≤ 254 ∧
    WordsWhole sInterpreter8 (bufAddr sInterpreter8 (↑5 : Nat) 0) 256 ∧
    { hi := 39, lo := 32 : Fld }.get (bufOf sInterpreter8 (↑5 : Nat)).w0 = 17 ∧
    opcLenOk 17 (BitVec.toNat (bufOf sInterpreter8 (↑5 : Nat)).w0 % 256) = true ∧
    pdOn sInterpreter8 45 = true ∧
    cptServes sInterpreter9 = true ∧
    sInterpreter9.cpt.run = none ∧
    (∀ (j : Nat), j < 64 → bufState sInterpreter9 j ≠ 3) ∧
    sInterpreter9.cpt.queue = [(↑5 : Nat), 6] ∧
    sInterpreter9.pne.done = [] ∧
    sInterpreter9.jne.cptDone = [] ∧
    BitVec.toNat (bufOf sInterpreter9 (↑5 : Nat)).w0 % 256 ≤ 254 ∧
    WordsWhole sInterpreter9 (bufAddr sInterpreter9 (↑5 : Nat) 0) 256 ∧
    { hi := 39, lo := 32 : Fld }.get (bufOf sInterpreter9 (↑5 : Nat)).w0 = 18 ∧
    opcLenOk 18 (BitVec.toNat (bufOf sInterpreter9 (↑5 : Nat)).w0 % 256) = true ∧
    pdOn sInterpreter9 45 = true ∧
    cptServes sInterpreter10 = true ∧
    sInterpreter10.cpt.run = none ∧
    (∀ (j : Nat), j < 64 → bufState sInterpreter10 j ≠ 3) ∧
    sInterpreter10.cpt.queue = [(↑5 : Nat), 6] ∧
    sInterpreter10.pne.done = [] ∧
    sInterpreter10.jne.cptDone = [] ∧
    BitVec.toNat (bufOf sInterpreter10 (↑5 : Nat)).w0 % 256 ≤ 254 ∧
    WordsWhole sInterpreter10 (bufAddr sInterpreter10 (↑5 : Nat) 0) 256 ∧
    { hi := 39, lo := 32 : Fld }.get (bufOf sInterpreter10 (↑5 : Nat)).w0 = 19 ∧
    opcLenOk 19 (BitVec.toNat (bufOf sInterpreter10 (↑5 : Nat)).w0 % 256) = true ∧
    pdOn sInterpreter10 45 = true := by
  and_intros <;> first | decide +kernel | exact wordsWhole_of (by unfold Plain; decide +kernel) (by decide +kernel)

/-- States that meet the hypotheses of the clauses of Interpreter. -/
theorem test_Interpreter_more :
    cptServes sInterpreter11 = true ∧
    sInterpreter11.cpt.run = none ∧
    (∀ (j : Nat), j < 64 → bufState sInterpreter11 j ≠ 3) ∧
    sInterpreter11.cpt.queue = [(↑5 : Nat), 6] ∧
    sInterpreter11.pne.done = [] ∧
    sInterpreter11.jne.cptDone = [] ∧
    BitVec.toNat (bufOf sInterpreter11 (↑5 : Nat)).w0 % 256 ≤ 254 ∧
    WordsWhole sInterpreter11 (bufAddr sInterpreter11 (↑5 : Nat) 0) 256 ∧
    { hi := 39, lo := 32 : Fld }.get (bufOf sInterpreter11 (↑5 : Nat)).w0 = 20 ∧
    opcLenOk 20 (BitVec.toNat (bufOf sInterpreter11 (↑5 : Nat)).w0 % 256) = true ∧
    pdOn sInterpreter11 45 = true ∧
    cptServes sInterpreter12 = true ∧
    sInterpreter12.cpt.run = none ∧
    (∀ (j : Nat), j < 64 → bufState sInterpreter12 j ≠ 3) ∧
    sInterpreter12.cpt.queue = [(↑5 : Nat), 6] ∧
    sInterpreter12.pne.done = [] ∧
    sInterpreter12.jne.cptDone = [] ∧
    BitVec.toNat (bufOf sInterpreter12 (↑5 : Nat)).w0 % 256 ≤ 254 ∧
    WordsWhole sInterpreter12 (bufAddr sInterpreter12 (↑5 : Nat) 0) 256 ∧
    { hi := 39, lo := 32 : Fld }.get (bufOf sInterpreter12 (↑5 : Nat)).w0 = 21 ∧
    opcLenOk 21 (BitVec.toNat (bufOf sInterpreter12 (↑5 : Nat)).w0 % 256) = true ∧
    pdOn sInterpreter12 45 = true ∧
    cptServes sInterpreter13 = true ∧
    sInterpreter13.cpt.run = none ∧
    (∀ (j : Nat), j < 64 → bufState sInterpreter13 j ≠ 3) ∧
    sInterpreter13.cpt.queue = [(↑5 : Nat), 6] ∧
    sInterpreter13.pne.done = [] ∧
    sInterpreter13.jne.cptDone = [] ∧
    BitVec.toNat (bufOf sInterpreter13 (↑5 : Nat)).w0 % 256 ≤ 254 ∧
    WordsWhole sInterpreter13 (bufAddr sInterpreter13 (↑5 : Nat) 0) 256 ∧
    { hi := 39, lo := 32 : Fld }.get (bufOf sInterpreter13 (↑5 : Nat)).w0 = 24 ∧
    opcLenOk 24 (BitVec.toNat (bufOf sInterpreter13 (↑5 : Nat)).w0 % 256) = true ∧
    pdOn sInterpreter13 45 = true ∧
    cptServes sInterpreter14 = true ∧
    sInterpreter14.cpt.run = none ∧
    (∀ (j : Nat), j < 64 → bufState sInterpreter14 j ≠ 3) ∧
    sInterpreter14.cpt.queue = [(↑5 : Nat), 6] ∧
    sInterpreter14.pne.done = [] ∧
    sInterpreter14.jne.cptDone = [] ∧
    BitVec.toNat (bufOf sInterpreter14 (↑5 : Nat)).w0 % 256 ≤ 254 ∧
    WordsWhole sInterpreter14 (bufAddr sInterpreter14 (↑5 : Nat) 0) 256 ∧
    { hi := 39, lo := 32 : Fld }.get (bufOf sInterpreter14 (↑5 : Nat)).w0 = 41 ∧
    BitVec.toNat (bufWord sInterpreter14 (↑5 : Nat) (2 + 0)) % 256 < 128 ∧
    cptServes sInterpreter15 = true ∧
    sInterpreter15.cpt.run = none ∧
    (∀ (j : Nat), j < 64 → bufState sInterpreter15 j ≠ 3) ∧
    sInterpreter15.cpt.queue = [(↑5 : Nat), 6] ∧
    sInterpreter15.pne.done = [] ∧
    sInterpreter15.jne.cptDone = [] ∧
    BitVec.toNat (bufOf sInterpreter15 (↑5 : Nat)).w0 % 256 ≤ 254 ∧
    WordsWhole sInterpreter15 (bufAddr sInterpreter15 (↑5 : Nat) 0) 256 ∧
    { hi := 39, lo := 32 : Fld }.get (bufOf sInterpreter15 (↑5 : Nat)).w0 = 41 ∧
    128 ≤ BitVec.toNat (bufWord sInterpreter15 (↑5 : Nat) (2 + 0)) % 256 ∧
    cptServes sInterpreter16 = true ∧
    sInterpreter16.cpt.run = none ∧
    (∀ (j : Nat), j < 64 → bufState sInterpreter16 j ≠ 3) ∧
    sInterpreter16.cpt.queue = [(↑5 : Nat), 6] ∧
    sInterpreter16.pne.done = [] ∧
    sInterpreter16.jne.cptDone = [] ∧
    BitVec.toNat (bufOf sInterpreter16 (↑5 : Nat)).w0 % 256 ≤ 254 ∧
    WordsWhole sInterpreter16 (bufAddr sInterpreter16 (↑5 : Nat) 0) 256 ∧
    { hi := 39, lo := 32 : Fld }.get (bufOf sInterpreter16 (↑5 : Nat)).w0 = 33 ∧
    bitOf (bufWord sInterpreter16 (↑5 : Nat) (2 + 1)) 47 = false ∧
    (BitVec.toNat (bufWord sInterpreter16 (↑5 : Nat) (2 + 0)) < sInterpreter16.dm.jtSec ∨ BitVec.toNat (bufWord sInterpreter16 (↑5 : Nat) (2 + 0)) = sInterpreter16.dm.jtSec ∧ min (BitVec.toNat (bufWord sInterpreter16 (↑5 : Nat) (2 + 1)) % 2 ^ 32) 999999999 * 2 ^ 32 < sInterpreter16.dm.jtNs) ∧
    cptServes sInterpreter17 = true ∧
    sInterpreter17.cpt.run = none ∧
    (∀ (j : Nat), j < 64 → bufState sInterpreter17 j ≠ 3) ∧
    sInterpreter17.cpt.queue = [(↑5 : Nat), 6] ∧
    sInterpreter17.pne.done = [] ∧
    sInterpreter17.jne.cptDone = [] ∧
    BitVec.toNat (bufOf sInterpreter17 (↑5 : Nat)).w0 % 256 ≤ 254 ∧
    WordsWhole sInterpreter17 (bufAddr sInterpreter17 (↑5 : Nat) 0) 256 ∧
    { hi := 39, lo := 32 : Fld }.get (bufOf sInterpreter17 (↑5 : Nat)).w0 = 33 ∧
    (bitOf (bufWord sInterpreter17 (↑5 : Nat) (2 + 1)) 47 = true ∨ ¬(BitVec.toNat (bufWord sInterpreter17 (↑5 : Nat) (2 + 0)) < sInterpreter17.dm.jtSec ∨ BitVec.toNat (bufWord sInterpreter17 (↑5 : Nat) (2 + 0)) = sInterpreter17.dm.jtSec ∧ min (BitVec.toNat (bufWord sInterpreter17 (↑5 : Nat) (2 + 1)) % 2 ^ 32) 999999999 * 2 ^ 32 < sInterpreter17.dm.jtNs)) ∧
    cptServes sInterpreter19 = true ∧
    sInterpreter19.cpt.run = none ∧
    (∀ (j : Nat), j < 64 → bufState sInterpreter19 j ≠ 3) ∧
    sInterpreter19.cpt.queue = [(↑5 : Nat), 6] ∧
    sInterpreter19.pne.done = [] ∧
    sInterpreter19.jne.cptDone = [] ∧
    BitVec.toNat (bufOf sInterpreter19 (↑5 : Nat)).w0 % 256 ≤ 254 ∧
    WordsWhole sInterpreter19 (bufAddr sInterpreter19 (↑5 : Nat) 0) 256 ∧
    { hi := 39, lo := 32 : Fld }.get (bufOf sInterpreter19 (↑5 : Nat)).w0 = 56 ∧
    BitVec.toNat (bufOf sInterpreter19 (↑5 : Nat)).w0 % 256 = 1 ∧
    svServes (BitVec.toNat (bufWord sInterpreter19 (↑5 : Nat) (2 + 0)) % 2 ^ 40) = true ∧
    cptServes sInterpreter20 = true ∧
    sInterpreter20.cpt.run = none ∧
    (∀ (j : Nat), j < 64 → bufState sInterpreter20 j ≠ 3) ∧
    sInterpreter20.cpt.queue = [(↑5 : Nat), 6] ∧
    sInterpreter20.pne.done = [] ∧
    sInterpreter20.jne.cptDone = [] ∧
    BitVec.toNat (bufOf sInterpreter20 (↑5 : Nat)).w0 % 256 ≤ 254 ∧
    WordsWhole sInterpreter20 (bufAddr sInterpreter20 (↑5 : Nat) 0) 256 ∧
    { hi := 39, lo := 32 : Fld }.get (bufOf sInterpreter20 (↑5 : Nat)).w0 = 56 ∧
    BitVec.toNat (bufOf sInterpreter20 (↑5 : Nat)).w0 % 256 = 1 ∧
    svServes (BitVec.toNat (bufWord sInterpreter20 (↑5 : Nat) (2 + 0)) % 2 ^ 40) = false ∧
    cptServes sInterpreter21 = true ∧
    sInterpreter21.cpt.run = none ∧
    (∀ (j : Nat), j < 64 → bufState sInterpreter21 j ≠ 3) ∧
    sInterpreter21.cpt.queue = [(↑5 : Nat), 6] ∧
    sInterpreter21.pne.done = [] ∧
    sInterpreter21.jne.cptDone = [] ∧
    BitVec.toNat (bufOf sInterpreter21 (↑5 : Nat)).w0 % 256 ≤ 254 ∧
    WordsWhole sInterpreter21 (bufAddr sInterpreter21 (↑5 : Nat) 0) 256 ∧
    { hi := 39, lo := 32 : Fld }.get (bufOf sInterpreter21 (↑5 : Nat)).w0 = 57 ∧
    BitVec.toNat (bufOf sInterpreter21 (↑5 : Nat)).w0 % 256 = 2 ∧
    svServes (BitVec.toNat (bufWord sInterpreter21 (↑5 : Nat) (2 + 0)) % 2 ^ 40) = true ∧
    svWrite (setRun (bufChecks (setBufState (unqueue sInterpreter21 (↑5 : Nat)) (↑5 : Nat) 3) (↑5 : Nat) 2 (BitVec.toNat (bufOf sInterpreter21 (↑5 : Nat)).w0 % 256)) { buf := (↑5 : Nat), opc := 57, item := 0, busy := false, out := [], bad := false : CptRun }) (BitVec.toNat (bufWord sInterpreter21 (↑5 : Nat) (2 + 0)) % 2 ^ 40) (bufWord sInterpreter21 (↑5 : Nat) (2 + 1)) = (0, wr (setRun (bufChecks (setBufState (unqueue sInterpreter21 (↑5 : Nat)) (↑5 : Nat) 3) (↑5 : Nat) 2 (BitVec.toNat (bufOf sInterpreter21 (↑5 : Nat)).w0 % 256)) { buf := (↑5 : Nat), opc := 57, item := 0, busy := false, out := [], bad := false : CptRun }) (BitVec.toNat (bufWord sInterpreter21 (↑5 : Nat) (2 + 0)) % 2 ^ 40) (bufWord sInterpreter21 (↑5 : Nat) (2 + 1))) ∧
    cptServes sInterpreter22 = true ∧
    sInterpreter22.cpt.run = none ∧
    (∀ (j : Nat), j < 64 → bufState sInterpreter22 j ≠ 3) ∧
    sInterpreter22.cpt.queue = [(↑5 : Nat), 6] ∧
    sInterpreter22.pne.done = [] ∧
    sInterpreter22.jne.cptDone = [] ∧
    BitVec.toNat (bufOf sInterpreter22 (↑5 : Nat)).w0 % 256 ≤ 254 ∧
    WordsWhole sInterpreter22 (bufAddr sInterpreter22 (↑5 : Nat) 0) 256 ∧
    { hi := 39, lo := 32 : Fld }.get (bufOf sInterpreter22 (↑5 : Nat)).w0 = 57 ∧
    BitVec.toNat (bufOf sInterpreter22 (↑5 : Nat)).w0 % 256 = 2 ∧
    svServes (BitVec.toNat (bufWord sInterpreter22 (↑5 : Nat) (2 + 0)) % 2 ^ 40) = false := by
  and_intros <;> first | decide +kernel | exact wordsWhole_of (by unfold Plain; decide +kernel) (by decide +kernel)

end W13

namespace W14

def qp : Req := ⟨0, BitVec.ofNat 8 otPctl⟩
def pw (l : List (Nat × Fld × Nat)) (f : Pctl → Pctl) : State :=
  let t := tF tOn ([(cvpTripflt, cvpTripfltN, 3)] ++ l)
  { t with port := 4000, pctl := f { t.pctl with pll := true }, mem := [(5, 6), (0x10001, 7), (0x50000, 8)] }
def sPowerRequests1 : State := pw [] id
def sPowerRequests2 : State := pw [] id
def sPowerRequests9 : State := pw [] id
def sPowerRequests13 : State := pw [] id
def sPowerRequests14 : State := pw [] id
def sPowerRequests15 : State := pw [(pctlPd 33, pctlPdSTATE, 0)] id
def sPowerRequests31 : State := pw [] id
def dr (d op at_ : Nat) : State := pw [(pctlPd d, pctlPdSTATE, 3), (pctlPd d, pctlPdREQ, 1), (pctlPd d, pctlPdACK, 1), (pctlPd d, pctlPdBUSY, 1)] (fun p => { p with dom := [(d, ⟨op, 4, at_, 0⟩)] })
def sPowerRequests43 : State := dr 33 2 5
def sPowerRequests44 : State := dr 33 3 5
def sPowerRequests45 : State := dr 33 4 5
def sPowerRequests47 : State := { tF (dr 20 3 5) [(slotSts 34, aeSlotstsPHASE, phOutput)] with ae := { tOn.ae with slots := [(34, { slotOf tOn 34 with winLo := 5 }), (50, { slotOf tOn 50 with winLo := 5 })] } }
def sh (d op ph st : Nat) (req ack : Nat) : State := pw [(pctlPd d, pctlPdSTATE, st), (pctlPd d, pctlPdREQ, req), (pctlPd d, pctlPdACK, ack), (pctlPd d, pctlPdBUSY, 1)] (fun p => { p with dom := [(d, ⟨op, ph, 5, 0⟩)] })
def sSupplyHandshake1 : State := sh 20 0 0 0 0 0
def sSupplyHandshake2 : State := sh 33 1 2 1 1 0
def sSupplyHandshake3 : State := sh 20 1 2 1 1 0
def sSupplyHandshake4 : State := sh 20 1 0 2 0 1
def sSupplyHandshake5 : State := sh 20 3 6 6 0 1
def sSupplyHandshake6 : State := { sh 33 1 2 1 1 0 with port := 4000000 }
def sSupplyHandshake7 : State := { sh 33 3 6 6 0 1 with port := 4000000 }
def sSupplyHandshake8 : State := sh 33 0 0 2 1 1
def off : List (Nat × Fld × Nat) := (List.range 56).map (fun d => (pctlPd d, pctlPdSTATE, if memDomain d then 2 else 0))
def sResetsAndClocks1 : State := { pw [] (fun p => { p with porst := true }) with running := false }
def sResetsAndClocks2 : State := { pw off (fun p => { p with porst := false, sysPin := false, lol := false, seq := 0 }) with pending := [.pfail] }
def sResetsAndClocks3 : State := { pw off (fun p => { p with seq := 1 }) with running := false }
def sResetsAndClocks4 : State := { tF (pw off (fun p => { p with seq := 1 })) [(pctlPd 28, pctlPdSTATE, 0)] with running := false }
def rom0 : List Word := [BitVec.ofNat 48 (0xF1 * 2^40 + 2^36 + 3), 2]
def img : List Word := [100, 0, 102]
def bo (rom : List Word) (fill : Option Nat) : State := pw [(pctlRststs, pctlRststsBOOT, 3)] (fun p => { p with seq := 5, rom := rom, fill := fill })
def romG : List Word := rom0 ++ wordsDigest img ++ img
def sBoot1 : State := bo romG none
def sBoot2 : State := bo [] none
def sBoot3 : State := bo romG (some 70)
def sBoot4 : State := bo (rom0 ++ [1] ++ wordsDigest img ++ img) (some 70)
def mws : List Word := [1] ++ [3, 0, 0x41280, 0] ++ wordsDigest img
def live8 (l : List (Nat × Fld × Nat)) (m : Option Manifest) : State := { pw ([(pctlRststs, pctlRststsBOOT, 1), (pctlBootsrc, pctlBootsrcEN, 1)] ++ l) (fun p => { p with man := m }) with cores := [(8, tCore 8 0 [])] }
def sBoot5 : State := live8 [] none
def sBoot6 : State := live8 [(pctlAnchor 0, ⟨47, 0⟩, 5)] none
def sBoot7 : State := live8 [] (some ⟨mws, 0, false⟩)
def sBoot8 : State := live8 [] (some ⟨mws, 1, false⟩)
def sBoot9 : State := live8 [] (some ⟨mws, 1, true⟩)

/-- States that meet the hypotheses of the clauses of PowerRequests. -/
theorem test_PowerRequests :
    (pdRun sPowerRequests1 (↑20 : Nat) = PdRun.idle ∧ sPowerRequests1.pctl.seq = 0 ∧ holdsType sPowerRequests1 qp otPctl = true) ∧
    (Instr.pdOn qp 20, 1) ∈ [(Instr.pdOn qp 20, 1), (Instr.pdRetain qp 20, 2), (Instr.pdOff qp 20, 3), (Instr.pdReset qp 20, 4), (Instr.pdHold qp 20, 5), (Instr.pdFreset qp 20, 6), (Instr.pdFoff qp 20, 7)] ∧
    ((Instr.pdOn qp 20, 1).snd ≠ 2 ∨ memDomain (↑20 : Nat) = true) ∧
    opIdle (Instr.pdOn qp 20, 1).snd (pdState sPowerRequests1 (↑20 : Nat)) = true ∧
    (pdRun sPowerRequests2 (↑20 : Nat) = PdRun.idle ∧ sPowerRequests2.pctl.seq = 0 ∧ holdsType sPowerRequests2 qp otPctl = true) ∧
    (Instr.pdRetain qp 20, 2) ∈ [(Instr.pdOn qp 20, 1), (Instr.pdRetain qp 20, 2), (Instr.pdOff qp 20, 3), (Instr.pdReset qp 20, 4), (Instr.pdHold qp 20, 5), (Instr.pdFreset qp 20, 6), (Instr.pdFoff qp 20, 7)] ∧
    (Instr.pdRetain qp 20, 2).snd = 2 ∧
    memDomain (↑20 : Nat) = false ∧
    (pdRun sPowerRequests9 (↑33 : Nat) = PdRun.idle ∧ sPowerRequests9.pctl.seq = 0 ∧ holdsType sPowerRequests9 qp otPctl = true) ∧
    (Instr.pdRetain qp 33, 2) ∈ [(Instr.pdOn qp 33, 1), (Instr.pdRetain qp 33, 2), (Instr.pdOff qp 33, 3), (Instr.pdReset qp 33, 4), (Instr.pdHold qp 33, 5), (Instr.pdFreset qp 33, 6), (Instr.pdFoff qp 33, 7)] ∧
    ((Instr.pdRetain qp 33, 2).snd ≠ 2 ∨ memDomain (↑33 : Nat) = true) ∧
    opIdle (Instr.pdRetain qp 33, 2).snd (pdState sPowerRequests9 (↑33 : Nat)) = false ∧
    depRefuses sPowerRequests9 (↑33 : Nat) (Instr.pdRetain qp 33, 2).snd = false ∧
    pdState sPowerRequests9 (↑33 : Nat) = 2 ∧
    memDomain (↑33 : Nat) = true ∧
    (Instr.pdRetain qp 33, 2).snd ≤ 5 ∧
    (pdRun sPowerRequests13 (↑33 : Nat) = PdRun.idle ∧ sPowerRequests13.pctl.seq = 0 ∧ holdsType sPowerRequests13 qp otPctl = true) ∧
    (Instr.pdFreset qp 33, 6) ∈ [(Instr.pdOn qp 33, 1), (Instr.pdRetain qp 33, 2), (Instr.pdOff qp 33, 3), (Instr.pdReset qp 33, 4), (Instr.pdHold qp 33, 5), (Instr.pdFreset qp 33, 6), (Instr.pdFoff qp 33, 7)] ∧
    ((Instr.pdFreset qp 33, 6).snd ≠ 2 ∨ memDomain (↑33 : Nat) = true) ∧
    opIdle (Instr.pdFreset qp 33, 6).snd (pdState sPowerRequests13 (↑33 : Nat)) = false ∧
    depRefuses sPowerRequests13 (↑33 : Nat) (Instr.pdFreset qp 33, 6).snd = false ∧
    pdState sPowerRequests13 (↑33 : Nat) = 2 ∧
    sPowerRequests13.ports.out = [] ∧
    (∀ (y : Nat × Nat × Nat), y ∈ sPowerRequests13.ports.torn → y.snd.fst ≠ (↑33 : Nat)) ∧
    (Instr.pdFreset qp 33, 6).snd = 6 ∧
    (pdRun sPowerRequests14 (↑33 : Nat) = PdRun.idle ∧ sPowerRequests14.pctl.seq = 0 ∧ holdsType sPowerRequests14 qp otPctl = true) ∧
    (Instr.pdFoff qp 33, 7) ∈ [(Instr.pdOn qp 33, 1), (Instr.pdRetain qp 33, 2), (Instr.pdOff qp 33, 3), (Instr.pdReset qp 33, 4), (Instr.pdHold qp 33, 5), (Instr.pdFreset qp 33, 6), (Instr.pdFoff qp 33, 7)] ∧
    ((Instr.pdFoff qp 33, 7).snd ≠ 2 ∨ memDomain (↑33 : Nat) = true) ∧
    opIdle (Instr.pdFoff qp 33, 7).snd (pdState sPowerRequests14 (↑33 : Nat)) = false ∧
    depRefuses sPowerRequests14 (↑33 : Nat) (Instr.pdFoff qp 33, 7).snd = false ∧
    pdState sPowerRequests14 (↑33 : Nat) = 2 ∧
    sPowerRequests14.ports.out = [] ∧
    (∀ (y : Nat × Nat × Nat), y ∈ sPowerRequests14.ports.torn → y.snd.fst ≠ (↑33 : Nat)) ∧
    (Instr.pdFoff qp 33, 7).snd = 7 ∧
    (pdRun sPowerRequests15 (↑33 : Nat) = PdRun.idle ∧ sPowerRequests15.pctl.seq = 0 ∧ holdsType sPowerRequests15 qp otPctl = true) ∧
    (Instr.pdOn qp 33, 1) ∈ [(Instr.pdOn qp 33, 1), (Instr.pdRetain qp 33, 2), (Instr.pdOff qp 33, 3), (Instr.pdReset qp 33, 4), (Instr.pdHold qp 33, 5), (Instr.pdFreset qp 33, 6), (Instr.pdFoff qp 33, 7)] ∧
    ((Instr.pdOn qp 33, 1).snd ≠ 2 ∨ memDomain (↑33 : Nat) = true) ∧
    opIdle (Instr.pdOn qp 33, 1).snd (pdState sPowerRequests15 (↑33 : Nat)) = false ∧
    depRefuses sPowerRequests15 (↑33 : Nat) (Instr.pdOn qp 33, 1).snd = false ∧
    pdState sPowerRequests15 (↑33 : Nat) = 0 ∧
    (pdRun sPowerRequests31 (↑54 : Nat) = PdRun.idle ∧ sPowerRequests31.pctl.seq = 0 ∧ holdsType sPowerRequests31 qp otPctl = true) ∧
    (Instr.pdOff qp 54, 3) ∈ [(Instr.pdOn qp 54, 1), (Instr.pdRetain qp 54, 2), (Instr.pdOff qp 54, 3), (Instr.pdReset qp 54, 4), (Instr.pdHold qp 54, 5), (Instr.pdFreset qp 54, 6), (Instr.pdFoff qp 54, 7)] ∧
    ((Instr.pdOff qp 54, 3).snd ≠ 2 ∨ memDomain (↑54 : Nat) = true) ∧
    opIdle (Instr.pdOff qp 54, 3).snd (pdState sPowerRequests31 (↑54 : Nat)) = false ∧
    depRefuses sPowerRequests31 (↑54 : Nat) (Instr.pdOff qp 54, 3).snd = true ∧
    (pdRun sPowerRequests43 (↑33 : Nat)).ph = 4 ∧
    pdState sPowerRequests43 (↑33 : Nat) = 3 ∧
    pdHmp sPowerRequests43 (↑33 : Nat) = false ∧
    (pdRun sPowerRequests43 (↑33 : Nat)).op = 2 ∧
    (pdRun sPowerRequests44 (↑33 : Nat)).ph = 4 ∧
    pdState sPowerRequests44 (↑33 : Nat) = 3 ∧
    pdHmp sPowerRequests44 (↑33 : Nat) = false ∧
    (pdRun sPowerRequests44 (↑33 : Nat)).op = 3 ∧
    (pdRun sPowerRequests45 (↑33 : Nat)).ph = 4 ∧
    pdState sPowerRequests45 (↑33 : Nat) = 3 ∧
    pdHmp sPowerRequests45 (↑33 : Nat) = false ∧
    (pdRun sPowerRequests45 (↑33 : Nat)).op = 4 ∧
    (pdRun sPowerRequests47 (↑20 : Nat)).ph = 4 ∧
    (pdRun sPowerRequests47 (↑20 : Nat)).op = 3 ∧
    pdState sPowerRequests47 (↑20 : Nat) = 3 ∧
    18 ≤ (↑20 : Nat) ∧
    (↑20 : Nat) < 26 ∧
    (pdRun sPowerRequests47 (↑20 : Nat)).at_ + 3000 ≤ sPowerRequests47.port ∧
    unitDrained sPowerRequests47 (↑20 : Nat) = false ∧
    sPowerRequests47.ports.out = [] ∧
    (∀ (y : Nat × Nat × Nat), y ∈ sPowerRequests47.ports.torn → y.snd.fst ≠ (↑20 : Nat)) := by
  and_intros <;> decide +kernel

/-- States that meet the hypotheses of the clauses of SupplyHandshake. -/
theorem test_SupplyHandshake :
    rb sSupplyHandshake1 (pctlPd (↑20 : Nat)) pctlPdACK = false ∧
    (rb sSupplyHandshake1 (pctlPd (↑20 : Nat)) pctlPdREQ = false ∨ (pdRun sSupplyHandshake1 (↑20 : Nat)).ph ≠ 2) ∧
    rb sSupplyHandshake2 (pctlPd (↑33 : Nat)) pctlPdACK = false ∧
    rb sSupplyHandshake2 (pctlPd (↑33 : Nat)) pctlPdREQ = true ∧
    (pdRun sSupplyHandshake2 (↑33 : Nat)).ph = 2 ∧
    (pdRun sSupplyHandshake2 (↑33 : Nat)).fop = 0 ∧
    memDomain (↑33 : Nat) = true ∧
    rb sSupplyHandshake3 (pctlPd (↑20 : Nat)) pctlPdACK = false ∧
    rb sSupplyHandshake3 (pctlPd (↑20 : Nat)) pctlPdREQ = true ∧
    (pdRun sSupplyHandshake3 (↑20 : Nat)).ph = 2 ∧
    (pdRun sSupplyHandshake3 (↑20 : Nat)).fop = 0 ∧
    memDomain (↑20 : Nat) = false ∧
    ((↑20 : Nat) ≠ 47) ∧
    ((↑20 : Nat) ≠ 51) ∧
    ((↑20 : Nat) ≠ 52) ∧
    (pdRun sSupplyHandshake3 (↑20 : Nat)).op = 1 ∧
    pdState sSupplyHandshake3 (↑20 : Nat) = 1 ∧
    rb sSupplyHandshake4 (pctlPd (↑20 : Nat)) pctlPdREQ = false ∧
    rb sSupplyHandshake4 (pctlPd (↑20 : Nat)) pctlPdACK = true ∧
    ((pdRun sSupplyHandshake4 (↑20 : Nat)).ph ≠ 6) ∧
    rb sSupplyHandshake5 (pctlPd (↑20 : Nat)) pctlPdREQ = false ∧
    rb sSupplyHandshake5 (pctlPd (↑20 : Nat)) pctlPdACK = true ∧
    (pdRun sSupplyHandshake5 (↑20 : Nat)).ph = 6 ∧
    (pdRun sSupplyHandshake5 (↑20 : Nat)).op = 3 ∧
    pdState sSupplyHandshake5 (↑20 : Nat) = 6 ∧
    sSupplyHandshake6.running = true ∧
    (pdRun sSupplyHandshake6 (↑33 : Nat)).at_ + 300 * max 1 (rf sSupplyHandshake6 pctlCtrl pctlCtrlPDTO) ≤ sSupplyHandshake6.port ∧
    (pdRun sSupplyHandshake6 (↑33 : Nat)).ph = 2 ∧
    ((pdRun sSupplyHandshake6 (↑33 : Nat)).op ≠ 0) ∧
    pdState sSupplyHandshake6 (↑33 : Nat) = 1 ∧
    sSupplyHandshake7.running = true ∧
    (pdRun sSupplyHandshake7 (↑33 : Nat)).at_ + 300 * max 1 (rf sSupplyHandshake7 pctlCtrl pctlCtrlPDTO) ≤ sSupplyHandshake7.port ∧
    (pdRun sSupplyHandshake7 (↑33 : Nat)).ph = 6 ∧
    (pdRun sSupplyHandshake7 (↑33 : Nat)).fop = 0 ∧
    rb sSupplyHandshake8 (pctlPd (↑33 : Nat)) pctlPdREQ = true ∧
    rb sSupplyHandshake8 (pctlPd (↑33 : Nat)) pctlPdACK = true ∧
    28 ≤ (↑33 : Nat) ∧
    (↑33 : Nat) < 44 ∧
    pdState sSupplyHandshake8 (↑33 : Nat) = 2 ∧
    sSupplyHandshake8.ports.out = [] := by
  and_intros <;> decide +kernel

/-- States that meet the hypotheses of the clauses of ResetsAndClocks. -/
theorem test_ResetsAndClocks :
    sResetsAndClocks1.pctl.porst = true ∧
    (2 ≠ 0) ∧
    holdsType sResetsAndClocks1 qp otPctl = true ∧
    pdOn sResetsAndClocks1 (coreDomain (↑9 : Nat)) = true ∧
    rb sResetsAndClocks1 (pctlCorectl (↑9 : Nat)) pctlCorectlRUN = false ∧
    sResetsAndClocks2.pctl.sysPin = false ∧
    (sResetsAndClocks2.pctl.porst = false ∧ sResetsAndClocks2.pctl.lol = false ∧ sResetsAndClocks2.pctl.seq = 0 ∧ sResetsAndClocks2.dbg.src = false ∧ sResetsAndClocks2.halted = false ∧ ∀ (d : Nat), d < 56 → memDomain d = false → pdState sResetsAndClocks2 d ≠ 2 ∧ pdState sResetsAndClocks2 d ≠ 3 ∧ pdState sResetsAndClocks2 d ≠ 4) ∧
    holdsType sResetsAndClocks2 qp otPctl = true ∧
    sResetsAndClocks2.pctl.pll = true ∧
    sResetsAndClocks2.pctl.lol = false ∧
    sResetsAndClocks2.running = true ∧
    pdOn sResetsAndClocks2 (coreDomain (↑9 : Nat)) = false ∧
    sResetsAndClocks3.pctl.pll = true ∧
    sResetsAndClocks3.running = false ∧
    (sResetsAndClocks3.pctl.seq = 1 ∨ sResetsAndClocks3.pctl.lol = true) ∧
    sResetsAndClocks4.pctl.pll = true ∧
    sResetsAndClocks4.running = false ∧
    sResetsAndClocks4.pctl.seq = 1 ∧
    (∀ (d : Nat), d ∈ bootSet → pdState sResetsAndClocks4 d = 0 ∧ pdRun sResetsAndClocks4 d = PdRun.idle) := by
  and_intros <;> decide +kernel

/-- States that meet the hypotheses of the clauses of Boot. -/
theorem test_Boot :
    sBoot1.running = true ∧
    sBoot1.pctl.seq = 5 ∧
    sBoot1.pctl.next = none ∧
    sBoot1.pctl.fill = none ∧
    pdOn sBoot1 28 = true ∧
    romOk sBoot1 = true ∧
    sBoot2.running = true ∧
    sBoot2.pctl.seq = 5 ∧
    sBoot2.pctl.next = none ∧
    sBoot2.pctl.fill = none ∧
    pdOn sBoot2 28 = true ∧
    romOk sBoot2 = false ∧
    sBoot3.running = true ∧
    sBoot3.pctl.seq = 5 ∧
    sBoot3.pctl.next = none ∧
    sBoot3.pctl.fill = some 70 ∧
    70 ≤ 2 * sBoot3.port ∧
    wordsDigest (romImage sBoot3) = List.map (fun (i : Nat) => romWord sBoot3 (2 + i)) (List.range 6) ∧
    pdOn sBoot3 16 = true ∧
    rb sBoot3 (pctlCorectl 8) pctlCorectlRUN = false ∧
    sBoot4.running = true ∧
    sBoot4.pctl.seq = 5 ∧
    sBoot4.pctl.next = none ∧
    sBoot4.pctl.fill = some 70 ∧
    70 ≤ 2 * sBoot4.port ∧
    (¬wordsDigest (romImage sBoot4) = List.map (fun (i : Nat) => romWord sBoot4 (2 + i)) (List.range 6)) ∧
    (coreLive sBoot5 8 = true ∧ rf sBoot5 pctlRststs pctlRststsBOOT = 1 ∧ rb sBoot5 pctlBootsrc pctlBootsrcEN = true) ∧
    sBoot5.pctl.man = none ∧
    mws.length = 10 * manCount mws + 1 ∧
    (anchorWords sBoot5 = List.replicate 6 0 ∨ anchorWords sBoot5 = wordsDigest mws) ∧
    (coreLive sBoot6 8 = true ∧ rf sBoot6 pctlRststs pctlRststsBOOT = 1 ∧ rb sBoot6 pctlBootsrc pctlBootsrcEN = true) ∧
    sBoot6.pctl.man = none ∧
    (anchorWords sBoot6 ≠ List.replicate 6 0) ∧
    (anchorWords sBoot6 ≠ wordsDigest mws) ∧
    (coreLive sBoot7 8 = true ∧ rf sBoot7 pctlRststs pctlRststsBOOT = 1 ∧ rb sBoot7 pctlBootsrc pctlBootsrcEN = true) ∧
    sBoot7.pctl.man = some { words := mws, i := 0, go := false : Manifest } ∧
    { words := mws, i := 0, go := false : Manifest }.i < manCount { words := mws, i := 0, go := false : Manifest }.words ∧
    { words := mws, i := 0, go := false : Manifest }.go = false ∧
    img.length = { hi := 31, lo := 0 : Fld }.get (manWord { words := mws, i := 0, go := false : Manifest } 0) ∧
    { hi := 39, lo := 0 : Fld }.get (manWord { words := mws, i := 0, go := false : Manifest } 2) + { hi := 31, lo := 0 : Fld }.get (manWord { words := mws, i := 0, go := false : Manifest } 0) ≤ 1048576 ∧
    0 < { hi := 31, lo := 0 : Fld }.get (manWord { words := mws, i := 0, go := false : Manifest } 0) ∧
    (∀ (i : Nat), i < { hi := 31, lo := 0 : Fld }.get (manWord { words := mws, i := 0, go := false : Manifest } 0) → arrayCode sBoot7 ({ hi := 39, lo := 0 : Fld }.get (manWord { words := mws, i := 0, go := false : Manifest } 2) + i) = 0 ∧ arrayWord sBoot7 ({ hi := 39, lo := 0 : Fld }.get (manWord { words := mws, i := 0, go := false : Manifest } 2) + i) 23 = (memRd sBoot7 ({ hi := 39, lo := 0 : Fld }.get (manWord { words := mws, i := 0, go := false : Manifest } 2) + i), sBoot7)) ∧
    wordsDigest img = List.map (fun (i : Nat) => manWord { words := mws, i := 0, go := false : Manifest } (4 + i)) (List.range 6) ∧
    (coreLive sBoot8 8 = true ∧ rf sBoot8 pctlRststs pctlRststsBOOT = 1 ∧ rb sBoot8 pctlBootsrc pctlBootsrcEN = true) ∧
    sBoot8.pctl.man = some { words := mws, i := 1, go := false : Manifest } ∧
    manCount { words := mws, i := 1, go := false : Manifest }.words ≤ { words := mws, i := 1, go := false : Manifest }.i ∧
    { words := mws, i := 1, go := false : Manifest }.go = false ∧
    (coreLive sBoot9 8 = true ∧ rf sBoot9 pctlRststs pctlRststsBOOT = 1 ∧ rb sBoot9 pctlBootsrc pctlBootsrcEN = true) ∧
    sBoot9.pctl.man = some { words := mws, i := 1, go := true : Manifest } ∧
    manCount { words := mws, i := 1, go := true : Manifest }.words ≤ { words := mws, i := 1, go := true : Manifest }.i ∧
    { words := mws, i := 1, go := true : Manifest }.go = true := by
  and_intros <;> decide +kernel

end W14

namespace W15

def qd : Req := ⟨0, BitVec.ofNat 8 otDebug⟩
def dg (l : List (Nat × Fld × Nat)) (f : Dbg → Dbg) : State :=
  let t := tF tOn ([(dbgCtrl, dbgCtrlGRANT, 2)] ++ l)
  { t with port := 4000, dbg := f { t.dbg with cap := 2 }, mem := [(5, 6), (0x41280, 8)] }
def wd : Word := 0x123456789ABC
def cw : BitVec 8 := BitVec.ofNat 8 (crc8 wd)
def sDebugPort1 : State := dg [] id
def sDebugPort2 : State := dg [] (fun d => { d with sync := false })
def sDebugPort3 : State := dg [] id
def sDebugPort4 : State := dg [] id
def sDebugPort5 : State := dg [(pctlPd 53, pctlPdSTATE, 0), (dbgCtrl, dbgCtrlKEYLOCK, 1)] id
def sDebugPort6 : State := dg [(pctlPd 55, pctlPdSTATE, 0), (dbgCtrl, dbgCtrlGRANT, 1)] (fun d => { d with lock := some 7 })
def sDebugPort7 : State := { dg [(pctlPd 55, pctlPdSTATE, 0), (dbgCtrl, dbgCtrlGRANT, 1)] (fun d => { d with lock := some 7 }) with port := 100000000 }
def key : Dbg → Dbg := fun d => { d with key := (List.range 6).map (fun j => (j, 5)), chalOk := true, chal := [1, 2, 3], check := some (2, 5) }
def dk : State := dg [] key
def sDebugPort8 : State := dg [] (fun d => { key d with resp := (List.range 6).zip (authExpected dk 2) })
def sDebugPort9 : State := dg [] (fun d => { key d with resp := [] })
def lead : List (Nat × Fld × Nat) := [(cvpDrive, cvpDriveREQ, 1)]
def sDebugPort10 : State := dg lead id
def sDebugPort12 : State := { dg [] (fun d => { d with src := true }) with halted := true, running := false }
def sDebugPort13 : State := dg [] (fun d => { d with wait := some (5, [3]), src := true })
def sDebugPort14 : State := { dg [] (fun d => { d with stepTo := some 4000, src := true }) with halted := true }
def du (l : List (Nat × Fld × Nat)) (f : Dbg → Dbg) (g : Core → Core) : State := { dg l (fun d => f { d with maddr := 0x41280 }) with cores := [(9, g (tCore 9 0 [1, 2]))] }
def sDebugUnit1 : State := du [] id id
def sDebugUnit2 : State := du [] (fun d => { d with acc := 1 }) id
def sDebugUnit3 : State := du [] (fun d => { d with acc := 2, accW := 77 }) id
def sDebugUnit4 : State := du [] (fun d => { d with acc := 3, accW := 77, vtOut := some 5, vtIn := some 5 }) id
def sDebugUnit5 : State := du [] (fun d => { d with acc := 3, accW := 77, maddr := BitVec.ofNat 48 (2^41 - 1) }) (fun c => { c with run := false })
def sDebugUnit6 : State := du [] id (fun c => { c with stopped := true })
def sDebugUnit7 : State := du [(dbgCsel 9, dbgCselSPACE, 2)] id (fun c => { c with stopped := true })
def bpS : State := let t := du [(dbgCorectl 9, dbgCorectlBPEN, 4)] id id; tF t [(dbgBp 9 2, dbgBpPC, (coreOf t 9).pc.toNat % 2^42)]
def sDebugUnit9 : State := bpS
def trS : State := let t := du [(dbgTrctl, dbgTrctlRUN, 1), (dbgTrctl, dbgTrctlCLS, 16), (dbgTrptr, dbgTrptrWR, 4095)] id id; { t with sig := { t.sig with traces := [⟨4, 0xFF, 7, 3⟩, ⟨4, 0xFF, 7, 3⟩] } }
def sDebugUnit10 : State := trS
def hp (f : Ports → Ports) : State := let t := dg [] id; { t with ports := f t.ports }
def d0 (a : Nat) : RegDesc × List Nat := (regFind a).getD (⟨"", 0, [], .por, .aon, 0, []⟩, [])
def x1 (len : Nat) (beats : List (Nat × Word)) : HmpTx := ⟨3, .unit 21 4, false, 0, len, [], false, false, 7, beats⟩
def sHostPortsAndRegisters1 : State := hp id
def sHostPortsAndRegisters2 : State := tF (hp id) [(pctlPd 47, pctlPdSTATE, 0)]
def sHostPortsAndRegisters5 : State := hp (fun p => { p with out := [x1 2 []] })
def sHostPortsAndRegisters6 : State := { hp (fun p => { p with out := [x1 2 [(0, 5)]] }) with port := 400000 }
def sHostPortsAndRegisters7 : State := hp (fun p => { p with late := [(3, 2)] })
def sHostPortsAndRegisters8 : State := hp id
def sHostHw : State := { hp id with sets := [⟨mlkSts, mlkStsCFGERR, .bits, 1⟩] }
def tr1 : TraceEv := ⟨4, 0xFF, 7, 3⟩
def sDebugUnit11 : State := { sDebugUnit2 with port := 4031 }
def sDebugUnit12 : State := { sDebugUnit3 with port := 4031 }
def sHostPortsAndRegisters9 : State := { hp id with port := 4031 }

/-- States that meet the hypotheses of the clauses of DebugPort. -/
theorem test_DebugPort :
    sDebugPort1.dbg.sync = true ∧
    stuxOk 2309 = true ∧
    BitVec.toNat (2309 : Word) / 2 % 64 = 2 ∧
    BitVec.getLsbD (2309 : Word) 7 = false ∧
    dpGate sDebugPort1 7 true = none ∧
    sDebugPort1.dbg.lock = none ∧
    dbgGrant sDebugPort1 = 2 ∧
    dbgCap sDebugPort1 = 2 ∧
    2 ≤ max sDebugPort1.dbg.auth (dbgGrant sDebugPort1) ∧
    (1 ≠ 2) ∧
    holdsType sDebugPort1 qd otDebug = true ∧
    (BitVec.toNat (1 : Word) ≠ 2) ∧
    sDebugPort1.dbg.auth < 2 ∧
    dbgLevel sDebugPort1 = 2 ∧
    rb sDebugPort1 dbgCtrl dbgCtrlKEYLOCK = false ∧
    dpGate sDebugPort1 16 true = none ∧
    sDebugPort1.halted = false ∧
    sDebugPort1.dbg.src = false ∧
    sDebugPort1.running = true ∧
    (cvpLive sDebugPort1 = false ∨ rb sDebugPort1 dbgCtrl dbgCtrlCONSENT = true) ∧
    (sDebugPort2.dbg.sync = false ∨ stuxOk 2309 = false) ∧
    sDebugPort3.dbg.sync = true ∧
    stuxOk 2481 = true ∧
    BitVec.toNat (2481 : Word) / 2 % 64 = 24 ∧
    BitVec.getLsbD (2481 : Word) 7 = true ∧
    dpGate sDebugPort3 24 true = none ∧
    accBusy sDebugPort3 = false ∧
    crc8 wd = cw.toNat ∧
    sDebugPort4.dbg.sync = true ∧
    dpGate sDebugPort4 24 true = none ∧
    accBusy sDebugPort4 = false ∧
    (crc8 wd ≠ (cw + 1).toNat) ∧
    (sDebugPort5.dbg.wchk = false ∧ sDebugPort5.dbg.memerr = false) ∧
    sDebugPort5.pctl.seq = 0 ∧
    pdRun sDebugPort5 53 = PdRun.idle ∧
    pdState sDebugPort5 53 = 0 ∧
    depRefuses sDebugPort5 53 1 = false ∧
    rb sDebugPort5 dbgCtrl dbgCtrlKEYLOCK = true ∧
    (sDebugPort6.dbg.wchk = false ∧ sDebugPort6.dbg.memerr = false) ∧
    sDebugPort6.pctl.seq = 0 ∧
    pdRun sDebugPort6 55 = PdRun.idle ∧
    pdState sDebugPort6 55 = 0 ∧
    depRefuses sDebugPort6 55 1 = false ∧
    dpGate sDebugPort6 7 true = none ∧
    sDebugPort6.dbg.lock = some 7 ∧
    dbgGrant sDebugPort6 < 2 ∧
    sDebugPort7.dbg.lock = some 7 ∧
    7 + 12 * 2 ^ 20 ≤ sDebugPort7.port ∧
    sDebugPort8.dbg.check = some (2, 5) ∧
    sDebugPort8.running = true ∧
    ((2 = 1 ∨ 2 = 2) ∧ keyOk sDebugPort8 = true ∧ sDebugPort8.dbg.chalOk = true ∧ List.map (fun (j : Nat) => (List.find? (fun (x : Nat × Word) => x.fst == j) sDebugPort8.dbg.resp).elim 0 fun (x : Nat × Word) => x.snd) (List.range 6) = authExpected sDebugPort8 2) ∧
    2 = 2 ∧
    dbgCap sDebugPort8 = 2 ∧
    sDebugPort9.dbg.check = some (2, 5) ∧
    sDebugPort9.running = true ∧
    (¬((2 = 1 ∨ 2 = 2) ∧ keyOk sDebugPort9 = true ∧ sDebugPort9.dbg.chalOk = true ∧ List.map (fun (j : Nat) => (List.find? (fun (x : Nat × Word) => x.fst == j) sDebugPort9.dbg.resp).elim 0 fun (x : Nat × Word) => x.snd) (List.range 6) = authExpected sDebugPort9 2)) ∧
    dpGate sDebugPort10 16 true = none ∧
    sDebugPort10.halted = false ∧
    sDebugPort10.dbg.src = false ∧
    sDebugPort10.running = true ∧
    cvpLive sDebugPort10 = true ∧
    rb sDebugPort10 dbgCtrl dbgCtrlCONSENT = false ∧
    dpGate sDebugPort12 16 true = none ∧
    sDebugPort12.halted = true ∧
    sDebugPort12.running = false ∧
    sDebugPort12.pctl.lol = false ∧
    sDebugPort13.dbg.wait = some (5, [3]) ∧
    sDebugPort13.running = true ∧
    sDebugPort13.port % 4 = 0 ∧
    5 < sDebugPort13.port ∧
    ([3] = [] ∨ 5 + 32 ≤ sDebugPort13.port) ∧
    sDebugPort14.running = true ∧
    sDebugPort14.halted = true ∧
    sDebugPort14.dbg.stepTo = some 4000 ∧
    4000 ≤ sDebugPort14.port := by
  and_intros <;> decide +kernel

/-- States that meet the hypotheses of the clauses of DebugUnit. -/
theorem test_DebugUnit :
    dpGate sDebugUnit1 24 true = none ∧
    accBusy sDebugUnit1 = false ∧
    dpGate sDebugUnit1 25 true = none ∧
    dpGate sDebugUnit1 25 false = none ∧
    sDebugUnit1.dbg.acc = 0 ∧
    dpGate sDebugUnit1 28 false = none ∧
    sDebugUnit1.dbg.vtOut = none ∧
    dpGate sDebugUnit1 28 true = none ∧
    sDebugUnit1.dbg.vtIn = none ∧
    pdOn sDebugUnit1 53 = true ∧
    holdsType sDebugUnit1 qd otDebug = true ∧
    BitVec.toNat (rd sDebugUnit1 (dbgCorectl (↑9 : Nat))) % 8 = 0 ∧
    (coreOf sDebugUnit1 (↑9 : Nat)).stopped = false ∧
    coreLive sDebugUnit1 (↑9 : Nat) = true ∧
    coreMayYield sDebugUnit1 (↑9 : Nat) = true ∧
    (coreOf sDebugUnit1 (↑9 : Nat)).openPair = false ∧
    dpGate sDebugUnit2 25 true = none ∧
    accBusy sDebugUnit2 = true ∧
    sDebugUnit2.running = true ∧
    pdOn sDebugUnit2 53 = true ∧
    BitVec.toNat sDebugUnit2.dbg.maddr % 2 ^ 40 < 1048576 ∧
    clearingAt sDebugUnit2 (BitVec.toNat sDebugUnit2.dbg.maddr % 2 ^ 40) = false ∧
    arrayCode sDebugUnit2 (BitVec.toNat sDebugUnit2.dbg.maddr % 2 ^ 40) = 0 ∧
    grantable sDebugUnit2 27 (BitVec.toNat sDebugUnit2.dbg.maddr % 2 ^ 40) (debugRetries sDebugUnit2 (BitVec.toNat sDebugUnit2.dbg.maddr % 2 ^ 40)) = false ∧
    (sDebugUnit2.dbg.acc = 1 ∨ sDebugUnit2.dbg.acc = 2) ∧
    dpGate sDebugUnit4 25 false = none ∧
    sDebugUnit4.dbg.acc = 3 ∧
    dpGate sDebugUnit4 28 false = none ∧
    sDebugUnit4.dbg.vtOut = some 5 ∧
    dpGate sDebugUnit4 28 true = none ∧
    sDebugUnit4.dbg.vtIn = some 5 ∧
    pdOn sDebugUnit4 53 = true ∧
    pdOn sDebugUnit5 53 = true ∧
    holdsType sDebugUnit5 qd otDebug = true ∧
    BitVec.toNat (rd sDebugUnit5 (dbgCorectl (↑9 : Nat))) % 8 = 0 ∧
    (coreOf sDebugUnit5 (↑9 : Nat)).stopped = false ∧
    (coreLive sDebugUnit5 (↑9 : Nat) = false ∨ coreMayYield sDebugUnit5 (↑9 : Nat) = false ∨ (coreOf sDebugUnit5 (↑9 : Nat)).openPair = true) ∧
    pdOn sDebugUnit6 53 = true ∧
    holdsType sDebugUnit6 qd otDebug = true ∧
    BitVec.toNat (rd sDebugUnit6 (dbgCorectl (↑9 : Nat))) % 8 = 0 ∧
    (coreOf sDebugUnit6 (↑9 : Nat)).stopped = true ∧
    rf sDebugUnit6 (dbgCsel (↑9 : Nat)) dbgCselSPACE = 0 ∧
    pdOn sDebugUnit7 53 = true ∧
    holdsType sDebugUnit7 qd otDebug = true ∧
    (coreOf sDebugUnit7 (↑9 : Nat)).stopped = true ∧
    rf sDebugUnit7 (dbgCsel (↑9 : Nat)) dbgCselSPACE = 2 ∧
    coreLive sDebugUnit9 (↑9 : Nat) = true ∧
    (coreOf sDebugUnit9 (↑9 : Nat)).wait = CoreWait.none ∧
    coreMayYield sDebugUnit9 (↑9 : Nat) = true ∧
    bpHit sDebugUnit9 (↑9 : Nat) = true ∧
    pdOn sDebugUnit10 55 = true ∧
    traceOn sDebugUnit10 4 255 = true ∧
    sDebugUnit10.sig.traces.length < 16 ∧
    sDebugUnit10.sig.traces = [tr1, tr1] ∧
    sDebugUnit10.running = true ∧
    sDebugUnit10.sig.tlost = 0 ∧
    sDebugUnit11.running = true ∧
    pdOn sDebugUnit11 53 = true ∧
    BitVec.toNat sDebugUnit11.dbg.maddr % 2 ^ 40 < 1048576 ∧
    clearingAt sDebugUnit11 (BitVec.toNat sDebugUnit11.dbg.maddr % 2 ^ 40) = false ∧
    arrayCode sDebugUnit11 (BitVec.toNat sDebugUnit11.dbg.maddr % 2 ^ 40) = 0 ∧
    grantable sDebugUnit11 27 (BitVec.toNat sDebugUnit11.dbg.maddr % 2 ^ 40) (debugRetries sDebugUnit11 (BitVec.toNat sDebugUnit11.dbg.maddr % 2 ^ 40)) = true ∧
    sDebugUnit11.dbg.acc = 1 ∧
    upsetAt sDebugUnit11 (upsetKey (BitVec.toNat sDebugUnit11.dbg.maddr % 2 ^ 40)) = Upset.none ∧
    upsetAt sDebugUnit11 (tagUpsetKey (BitVec.toNat sDebugUnit11.dbg.maddr % 2 ^ 40)) = Upset.none ∧
    arrayWord sDebugUnit11 (BitVec.toNat sDebugUnit11.dbg.maddr % 2 ^ 40) 27 = (memRd sDebugUnit11 (BitVec.toNat sDebugUnit11.dbg.maddr % 2 ^ 40), sDebugUnit11) ∧
    sDebugUnit12.running = true ∧
    pdOn sDebugUnit12 53 = true ∧
    BitVec.toNat sDebugUnit12.dbg.maddr % 2 ^ 40 < 1048576 ∧
    clearingAt sDebugUnit12 (BitVec.toNat sDebugUnit12.dbg.maddr % 2 ^ 40) = false ∧
    arrayCode sDebugUnit12 (BitVec.toNat sDebugUnit12.dbg.maddr % 2 ^ 40) = 0 ∧
    grantable sDebugUnit12 27 (BitVec.toNat sDebugUnit12.dbg.maddr % 2 ^ 40) (debugRetries sDebugUnit12 (BitVec.toNat sDebugUnit12.dbg.maddr % 2 ^ 40)) = true ∧
    sDebugUnit12.dbg.acc = 2 := by
  and_intros <;> decide +kernel

/-- States that meet the hypotheses of the clauses of HostPortsAndRegisters. -/
theorem test_HostPortsAndRegisters :
    sHostPortsAndRegisters1.ports.hspq = [] ∧
    sHostPortsAndRegisters1.running = true ∧
    hostOpen sHostPortsAndRegisters1 = true ∧
    (BitVec.ofNat 28 (266880 * 8)).toNat % 8 = 0 ∧
    ((BitVec.ofNat 28 (266880 * 8)).toNat / 8 < 1048576 ∧ clearingAt sHostPortsAndRegisters1 ((BitVec.ofNat 28 (266880 * 8)).toNat / 8) = false ∧ arrayCode sHostPortsAndRegisters1 ((BitVec.ofNat 28 (266880 * 8)).toNat / 8) = 0) ∧
    grantable sHostPortsAndRegisters1 26 ((BitVec.ofNat 28 (266880 * 8)).toNat / 8) false = false ∧
    regUnit (BitVec.ofNat 40 mlkIbuf).toNat = some 10 ∧
    regFind (BitVec.ofNat 40 mlkIbuf).toNat = some ((d0 mlkIbuf).fst, (d0 mlkIbuf).snd) ∧
    areaOn sHostPortsAndRegisters2 (d0 mlkIbuf).snd (d0 mlkIbuf).fst.area = false ∧
    sHostPortsAndRegisters2.ports.hspq = [] ∧
    sHostPortsAndRegisters2.running = true ∧
    hostOpen sHostPortsAndRegisters2 = true ∧
    ((BitVec.ofNat 28 (266880 * 8 + 3)).toNat % 8 ≠ 0) ∧
    regUnit (BitVec.toNat (5 : Word)) = none ∧
    regUnit (BitVec.toNat (1074462704 : Word)) = some ((regUnit 1074462704).getD 0) ∧
    regFind (BitVec.toNat (1074462704 : Word)) = none ∧
    pdLive sHostPortsAndRegisters5 54 = true ∧
    sHostPortsAndRegisters5.running = true ∧
    sHostPortsAndRegisters5.ports.out = [x1 2 []] ∧
    sHostPortsAndRegisters5.ports.wait = [] ∧
    (x1 2 []).tag = (↑3 : Nat) ∧
    (x1 2 []).use = HmpUse.unit 21 4 ∧
    (∀ (y : HmpTx), y ∈ sHostPortsAndRegisters5.ports.done → ∃ (c : Nat), ∃ (e : Nat), y.use = HmpUse.unit c e) ∧
    ((x1 2 []).beats.length + 1 ≠ (x1 2 []).len) ∧
    pdLive sHostPortsAndRegisters6 54 = true ∧
    sHostPortsAndRegisters6.running = true ∧
    sHostPortsAndRegisters6.ports.out = [x1 2 [(0, 5)]] ∧
    sHostPortsAndRegisters6.ports.wait = [] ∧
    (x1 2 [(0, 5)]).tag = (↑3 : Nat) ∧
    (x1 2 [(0, 5)]).use = HmpUse.unit 21 4 ∧
    (∀ (y : HmpTx), y ∈ sHostPortsAndRegisters6.ports.done → ∃ (c : Nat), ∃ (e : Nat), y.use = HmpUse.unit c e) ∧
    (x1 2 [(0, 5)]).beats.length + 1 = (x1 2 [(0, 5)]).len ∧
    (x1 2 [(0, 5)]).beats.length < (x1 2 [(0, 5)]).len ∧
    (x1 2 [(0, 5)]).at_ + 300000 ≤ sHostPortsAndRegisters6.port ∧
    pdLive sHostPortsAndRegisters7 54 = true ∧
    sHostPortsAndRegisters7.running = true ∧
    sHostPortsAndRegisters7.ports.out = [] ∧
    sHostPortsAndRegisters7.ports.wait = [] ∧
    sHostPortsAndRegisters7.ports.late = [((↑3 : Nat), 2)] ∧
    regUnit (BitVec.ofNat 40 mlkGen).toNat = some 10 ∧
    regFind (BitVec.ofNat 40 mlkGen).toNat = some ((d0 mlkGen).fst, (d0 mlkGen).snd) ∧
    areaOn sHostPortsAndRegisters8 (d0 mlkGen).snd (d0 mlkGen).fst.area = true ∧
    10 ∈ [1, 9, 10, 11] ∧
    (¬(d0 mlkGen).fst.base ∈ actingRegs 10) ∧
    setsAt sHostPortsAndRegisters8 (BitVec.ofNat 40 mlkGen).toNat ((d0 mlkGen).fst.clears 7) = [] ∧
    regUnit (BitVec.ofNat 40 mlkSts).toNat = some 10 ∧
    regFind (BitVec.ofNat 40 mlkSts).toNat = some ((d0 mlkSts).fst, (d0 mlkSts).snd) ∧
    areaOn sHostHw (d0 mlkSts).snd (d0 mlkSts).fst.area = true ∧
    (¬(d0 mlkSts).fst.base ∈ actingRegs 10) ∧
    (setsAt sHostHw (BitVec.ofNat 40 mlkSts).toNat ((d0 mlkSts).fst.clears (mlkStsCFGERR.put 0 1)) ≠ []) ∧
    sHostPortsAndRegisters9.ports.hspq = [] ∧
    sHostPortsAndRegisters9.running = true ∧
    hostOpen sHostPortsAndRegisters9 = true ∧
    ((BitVec.ofNat 28 (266880 * 8)).toNat / 8 < 1048576 ∧ clearingAt sHostPortsAndRegisters9 ((BitVec.ofNat 28 (266880 * 8)).toNat / 8) = false ∧ arrayCode sHostPortsAndRegisters9 ((BitVec.ofNat 28 (266880 * 8)).toNat / 8) = 0) ∧
    grantable sHostPortsAndRegisters9 26 ((BitVec.ofNat 28 (266880 * 8)).toNat / 8) false = true ∧
    upsetAt sHostPortsAndRegisters9 (upsetKey ((BitVec.ofNat 28 (266880 * 8)).toNat / 8)) = Upset.none ∧
    upsetAt sHostPortsAndRegisters9 (tagUpsetKey ((BitVec.ofNat 28 (266880 * 8)).toNat / 8)) = Upset.none ∧
    arrayWord sHostPortsAndRegisters9 ((BitVec.ofNat 28 (266880 * 8)).toNat / 8) 26 = (memRd sHostPortsAndRegisters9 ((BitVec.ofNat 28 (266880 * 8)).toNat / 8), sHostPortsAndRegisters9) := by
  and_intros <;> first | decide +kernel | exact fun y hy => nomatch hy

end W15

/-- A state that meets the hypotheses of GuardFails. -/
theorem test_GuardFails : Issues (tLive 1 [3]) 1 2 [3] ∧ badGuard 1 false = false ∧
    guardPass (bankOf (fetched (tLive 1 [3]) 1 2) 1) 1 false = false ∧ (8 < 9 ∧ 0 + 47 < 48 ∧ 2 ≤ 2) :=
  ⟨by unfold Issues; decide +kernel, by decide +kernel, by decide +kernel, by decide⟩

/-- The bounds of RelativeTargets, met at the last address and at the first. -/
theorem test_RelativeTargets : (2 ^ 40 - 1 < 2 ^ 40 ∧ 2 < 3) ∧ ((0 : Nat) < 2 ^ 40 ∧ 0 < 3) := by decide

/-- A state that meets the hypotheses of MemoryKeepsItsForm, and a step of it. -/
theorem test_MemoryKeepsItsForm : Memory.wf State.reset = true ∧ ∃ t, step State.reset = .next t := ⟨by decide +kernel, _, rfl⟩

/-! Effects. The expected values are worked out from the specification by hand. -/

/-- What a command leaves of a state, looked at through `f`. -/
def after {α : Type} (c : Instr) (s : State) (f : State → α) : Option α :=
  match exec c s with
  | .next t => some (f t)
  | _ => none

/-- R192: the sum wraps at 48 bits. -/
theorem test_add_wraps : after (.add 0) (tLive 0 [3, -1]) (operands · 0) = some [2] := by decide +kernel

/-- R192: SUB takes the top of the stack from the word below it. -/
theorem test_sub_order : after (.sub 9) (tLive 9 [3, 2, 7]) (operands · 9) = some [-1, 7] := by decide +kernel

/-- R195: ADDSAT stops at 2^47 - 1. -/
theorem test_addsat : after (.addsat 0) (tLive 0 [1, 0x7FFFFFFFFFFF]) (operands · 0) = some [0x7FFFFFFFFFFF] := by decide +kernel

/-- R196: a logical shift by the full width gives 0. -/
theorem test_shrv_full : after (.shrv 0) (tLive 0 [48, -1]) (operands · 0) = some [0] := by decide +kernel

/-- R196: an arithmetic shift beyond the full width gives the sign. -/
theorem test_sarv_full : after (.sarv 0) (tLive 0 [50, -2]) (operands · 0) = some [-1] := by decide +kernel

/-- R196: a rotation's count is taken modulo 48. -/
theorem test_rolv_mod : after (.rolv 0) (tLive 0 [49, 1]) (operands · 0) = some [2] := by decide +kernel

/-- R200: a field of four ones, sign-extended, is -1. -/
theorem test_exts : after (.exts 0 0 false 0 3) (tLive 0 [0xF0F]) (operands · 0) = some [-1] := by decide +kernel

/-- R495, R496: a beat whose address is not that of a word is answered with DECERR. -/
theorem test_hsp_misaligned : after (.hspRequest false 4 0 [] []) tOn (fun t => t.ports.hsp) = some [(4, 0)] := by decide +kernel

/-- R264: a write at an address at which no unit stands is answered with DECERR. -/
theorem test_register_none : after (.registerWrite (tQ 4) 5 7) tOn (fun t => t.resp) = some ⟨4, 0⟩ := by decide +kernel

/-- FIPS 180-4, which R483 names: the digest of the three bytes 61 62 63. -/
theorem test_sha256 : (sha256 [0x61, 0x62, 0x63]).take 8 = [0xBA, 0x78, 0x16, 0xBF, 0x8F, 0x01, 0xCF, 0xEA] := by decide +kernel

/-- RFC 4231, test case 2, for the HMAC of R515. -/
theorem test_hmac : (hmac [0x4A, 0x65, 0x66, 0x65] [0x77, 0x68, 0x61, 0x74, 0x20, 0x64, 0x6F, 0x20, 0x79, 0x61, 0x20, 0x77, 0x61, 0x6E, 0x74,
    0x20, 0x66, 0x6F, 0x72, 0x20, 0x6E, 0x6F, 0x74, 0x68, 0x69, 0x6E, 0x67, 0x3F]).take 4 = [0x5B, 0xDC, 0xC1, 0x46] := by decide +kernel

end Sys2Proof.Tests
end

/-! The trip inputs and the trip groups' latches (R36, R37, R138). -/

namespace Sys2Proof.Machine

/-! Bits of words and of fields. -/

/-- The word with one bit set. -/
theorem getLsbD_oneBit {n i : Nat} (hi : i < n) (j : Nat) :
    (BitVec.ofNat n (1 <<< i)).getLsbD j = decide (i = j) := by
  rw [BitVec.getLsbD_ofNat, Nat.one_shiftLeft, Nat.testBit_two_pow]
  by_cases h : i = j
  · simp [← h, hi]
  · simp [h]

theorem getLsbD_setBit (w : Word) {i : Nat} (hi : i < 48) (b : Bool) (j : Nat) :
    (setBit w i b).getLsbD j = if j = i then b else w.getLsbD j := by
  by_cases h : j = i
  · subst h
    cases b <;> simp [setBit, getLsbD_oneBit hi, hi]
  · have hone : (BitVec.ofNat 48 (1 <<< i)).getLsbD j = false := by
      rw [getLsbD_oneBit hi]; exact decide_eq_false (fun e => h e.symm)
    have hin : w.getLsbD j = true → j < 48 := BitVec.lt_of_getLsbD
    cases b
    · simpa [setBit, BitVec.getLsbD_and, BitVec.getLsbD_not, hone, h] using hin
    · simp [setBit, BitVec.getLsbD_or, hone, h]

/-- The bits of a field are the word's from its low bit on. -/
theorem Fld.testBit_get (f : Fld) (w : Word) (j : Nat) :
    (f.get w).testBit j = (decide (j < f.hi + 1 - f.lo) && w.getLsbD (f.lo + j)) := by
  rw [Fld.get, Fld.span, Nat.testBit_mod_two_pow, Nat.testBit_shiftRight, BitVec.getLsbD]

theorem rd_wbit (s : State) (a : Nat) (f : Fld) (i : Nat) (b : Bool) (c : Nat) :
    rd (wbit s a f i b) c = if c = a then setBit (rd s a) (f.lo + i) b else rd s c :=
  rd_wr s a c _

theorem bitOf_rd_wbit (s : State) (a : Nat) (f : Fld) (i : Nat) (b : Bool) (j : Nat) (hi : f.lo + i < 48) :
    bitOf (rd (wbit s a f i b) a) j = if j = f.lo + i then b else bitOf (rd s a) j := by
  rw [rd_wbit, if_pos rfl, bitOf, getLsbD_setBit _ hi, bitOf]

/-- Bit `g` of a field after a bit of the same register was set. -/
theorem rbit_wbit (s : State) (a : Nat) (f h : Fld) (i g : Nat) (b : Bool) (hi : f.lo + i < 48) (hg : h.lo + g ≤ h.hi) :
    rbit (wbit s a f i b) a h g = if h.lo + g = f.lo + i then b else rbit s a h g := by
  have hw : g < h.hi + 1 - h.lo := by omega
  simp only [rbit, rf, Fld.testBit_get, hw, decide_true, Bool.true_and]
  exact bitOf_rd_wbit s a f i b _ hi

/-- A bit of a field that begins at bit 0 reads what it was set to. -/
theorem bitOf_rd_wbit_low (s : State) (a : Nat) (f : Fld) (i : Nat) (b : Bool) (hf : f.lo = 0) :
    bitOf (rd (wbit s a f (i % 32) b) a) (i % 32) = b := by
  rw [bitOf_rd_wbit _ _ _ _ _ _ (by omega), if_pos (by omega)]

theorem tglat_lo (g : Nat) : cvpTglatchTGLAT.lo + g = g := Nat.zero_add g

theorem tglat_bit {g : Nat} (hg : g < 16) : cvpTglatchTGLAT.lo + g < 48 := by
  rw [tglat_lo]; omega

/-- A latch after a bit of CVP_TGLATCH was set. -/
theorem latch_wbit (s : State) (f : Fld) (i : Nat) (b : Bool) (hi : f.lo + i < 48) {g : Nat} (hg : g < 16) :
    rbit (wbit s cvpTglatch f i b) cvpTglatch cvpTglatchTGLAT g =
      if g = f.lo + i then b else rbit s cvpTglatch cvpTglatchTGLAT g := by
  rw [rbit_wbit s _ f _ i g b hi (by simp only [cvpTglatchTGLAT]; omega), tglat_lo]

theorem rd_semFire (s : State) (p a : Nat) : rd (semFire s p) a = rd s a := rfl

/-- A field that the bit is no part of. -/
theorem rf_wbit_apart (s : State) (a : Nat) (f h : Fld) (i : Nat) (b : Bool) (hi : f.lo + i < 48)
    (hap : h.hi < f.lo + i ∨ f.lo + i < h.lo) : rf (wbit s a f i b) a h = rf s a h := by
  refine Nat.eq_of_testBit_eq fun j => ?_
  rw [rf, rf, Fld.testBit_get, Fld.testBit_get]
  by_cases hj : j < h.hi + 1 - h.lo
  · have hbit := bitOf_rd_wbit s a f i b (h.lo + j) hi
    rw [if_neg (by omega)] at hbit
    rw [← bitOf, hbit, bitOf]
  · simp [hj]

/-! What is left alone, over several updates. -/

theorem RegsBut.trans {l m : List Nat} {s t u : State} (h : RegsBut l s t) (k : RegsBut m t u) :
    RegsBut (l ++ m) s u := fun a ha => by
  rw [List.mem_append, not_or] at ha
  rw [k a ha.2, h a ha.1]

theorem RegsBut.mono {l m : List Nat} {s t : State} (h : RegsBut l s t) (hlm : ∀ a ∈ l, a ∈ m) : RegsBut m s t :=
  fun a ha => h a (fun hl => ha (hlm a hl))

theorem RegsBut.rf_eq {l : List Nat} {s t : State} (h : RegsBut l s t) {a : Nat} (ha : a ∉ l) (f : Fld) :
    rf t a f = rf s a f := by rw [rf, h a ha, rf]

theorem RegsBut.rbit_eq {l : List Nat} {s t : State} (h : RegsBut l s t) {a : Nat} (ha : a ∉ l) (f : Fld) (g : Nat) :
    rbit t a f g = rbit s a f g := by rw [rbit, h.rf_eq ha, rbit]

theorem regsBut_wbit (s : State) (a : Nat) (f : Fld) (i : Nat) (b : Bool) : RegsBut [a] s (wbit s a f i b) :=
  fun c hc => by rw [rd_wbit, if_neg (by simpa using hc)]

/-- A change of the converter port, the registers and the event matrix. -/
theorem port_sameBut (s : State) (c : Cvp) (r : List (Nat × Word)) (h : List HwSet) (m : Sem) :
    SameBut [.cvp, .regs, .sem] s { s with cvp := c, regs := r, sets := h, sem := m } := by
  intro p hp; cases p <;> simp [Part.same] at hp ⊢

/-- A change of the converter port and the signals. -/
theorem withdraw_sameBut (s : State) (c : Cvp) (g : Sig) : SameBut [.cvp, .sig] s { s with cvp := c, sig := g } := by
  intro p hp; cases p <;> simp [Part.same] at hp ⊢

/-- A change of the registers and the response. -/
theorem answer_sameBut (s : State) (r : List (Nat × Word)) (h : List HwSet) (x : Resp) :
    SameBut [.regs, .resp] s { s with regs := r, sets := h, resp := x } := by
  intro p hp; cases p <;> simp [Part.same] at hp ⊢

/-! Following the group inputs. -/

/-- The registers that following the group inputs writes. -/
def groupRegs : List Nat := cvpTglatch :: (List.range 8).map cvpSafests

/-- What following the group inputs keeps: the trip inputs, every latch that is set, and all that lies outside the converter
port, its registers, the event matrix and the trace events of words that it withdraws (R35). -/
structure KeepsTrips (s t : State) : Prop where
  regs : RegsBut groupRegs s t
  parts : SameBut [.cvp, .regs, .sem, .sig] s t
  sig : t.sig = { s.sig with traces := t.sig.traces }
  tripLive : t.cvp.tripLive = s.cvp.tripLive
  tripPin : t.cvp.tripPin = s.cvp.tripPin
  tripWait : t.cvp.tripWait = s.cvp.tripWait
  latches : ∀ g < 16, rbit s cvpTglatch cvpTglatchTGLAT g = true → rbit t cvpTglatch cvpTglatchTGLAT g = true

theorem KeepsTrips.refl (s : State) : KeepsTrips s s :=
  ⟨fun _ _ => rfl, (port_sameBut s s.cvp s.regs s.sets s.sem).mono (by simp), rfl, rfl, rfl, rfl, fun _ _ h => h⟩

theorem KeepsTrips.trans {s t u : State} (h : KeepsTrips s t) (k : KeepsTrips t u) : KeepsTrips s u where
  regs := (h.regs.trans k.regs).mono (by simp)
  parts := h.parts.trans k.parts
  sig := by rw [k.sig, h.sig]
  tripLive := k.tripLive.trans h.tripLive
  tripPin := k.tripPin.trans h.tripPin
  tripWait := k.tripWait.trans h.tripWait
  latches g hg hs := k.latches g hg (h.latches g hg hs)

theorem KeepsTrips.foldl {α : Type} {f : State → α → State} (l : List α) (h : ∀ t, ∀ x ∈ l, KeepsTrips t (f t x)) (s : State) :
    KeepsTrips s (l.foldl f s) :=
  List.foldlRecOn l f (.refl s) (fun t ht x hx => ht.trans (h t x hx))

/-- A bit of CVP_TGLATCH that is set, or that is none of a latch. -/
theorem keepsTrips_wbit (s : State) (f : Fld) (i : Nat) (b : Bool) (hi : f.lo + i < 48) (hb : b = true ∨ 16 ≤ f.lo + i) :
    KeepsTrips s (wbit s cvpTglatch f i b) where
  regs := (regsBut_wbit s _ f i b).mono (by simp [groupRegs])
  parts := (port_sameBut s _ _ _ _).mono (by simp)
  sig := rfl
  tripLive := rfl
  tripPin := rfl
  tripWait := rfl
  latches g hg hs := by
    rw [latch_wbit s f i b hi hg, hs]
    rcases hb with rfl | hb
    · exact ite_self true
    · exact if_neg (by omega)

theorem keepsTrips_semFire (s : State) (p : Nat) : KeepsTrips s (semFire s p) :=
  ⟨fun _ _ => rfl, (port_sameBut s _ _ _ _).mono (by simp), rfl, rfl, rfl, rfl, fun _ _ h => h⟩

theorem keepsTrips_unrelease (s : State) (k : Nat) (w : EdgeWord) : KeepsTrips s (unrelease s k w) :=
  ⟨fun _ _ => rfl, (withdraw_sameBut s _ _).mono (by simp), rfl, rfl, rfl, rfl, fun _ _ h => h⟩

theorem keepsTrips_queues (s : State) (q : List (Nat × List QEntry)) :
    KeepsTrips s { s with cvp := { s.cvp with queues := q } } :=
  ⟨fun _ _ => rfl, (port_sameBut s _ _ _ _).mono (by simp), rfl, rfl, rfl, rfl, fun _ _ h => h⟩

theorem keepsTrips_safests (s : State) {w : Nat} (hw : w < 8) (v : Nat) :
    KeepsTrips s (wf s (cvpSafests w) cvpSafestsSAFE v) where
  regs a ha := by
    have hne : a ≠ cvpSafests w := fun e => ha (by simp [groupRegs, e]; exact .inr ⟨w, hw, rfl⟩)
    rw [rd_wf_other _ _ _ hne]
  parts := (port_sameBut s _ _ _ _).mono (by simp)
  sig := rfl
  tripLive := rfl
  tripPin := rfl
  tripWait := rfl
  latches g _ hs := by
    have hne : cvpTglatch ≠ cvpSafests w := by simp [cvpTglatch, cvpSafests]; omega
    rwa [rbit, rf_wf_other _ _ _ _ hne]

theorem keepsTrips_safeSync (s : State) : KeepsTrips s (safeSync s) :=
  (KeepsTrips.foldl _ (fun t p _ => keepsTrips_unrelease t p.1 p.2) s).trans
    ((KeepsTrips.foldl _ (fun t _ hw => keepsTrips_safests t (List.mem_range.mp hw) _) _).trans (keepsTrips_queues _ _))

theorem keepsTrips_tgLatch (s : State) {g : Nat} (hg : g < 16) : KeepsTrips s (tgLatch s g) := by
  unfold tgLatch
  split
  · exact .refl s
  · exact (keepsTrips_wbit s _ g true (tglat_bit hg) (.inl rfl)).trans (keepsTrips_semFire _ _)

theorem rbit_tgLatch_same (s : State) {g : Nat} (hg : g < 16) :
    rbit (tgLatch s g) cvpTglatch cvpTglatchTGLAT g = true := by
  unfold tgLatch
  split
  · assumption
  · rw [rbit, rf, rd_semFire, ← rf, ← rbit, latch_wbit s _ g true (tglat_bit hg) hg, if_pos (tglat_lo g).symm]

/-- What tripSync does for one group: its bit of TGLIVE, and its latch where its input in `s` is active. -/
def followGroup (s t : State) (g : Nat) : State :=
  let t1 := wbit t cvpTglatch cvpTglatchTGLIVE g (groupInput s g)
  if groupInput s g then tgLatch t1 g else t1

theorem tripSync_eq (s : State) : tripSync s = safeSync ((List.range 16).foldl (followGroup s) s) := rfl

theorem keepsTrips_followGroup (s t : State) {g : Nat} (hg : g < 16) : KeepsTrips t (followGroup s t g) := by
  have hlive : KeepsTrips t (wbit t cvpTglatch cvpTglatchTGLIVE g (groupInput s g)) :=
    keepsTrips_wbit t _ g _ (by simp [cvpTglatchTGLIVE]; omega) (.inr (by simp [cvpTglatchTGLIVE]))
  unfold followGroup
  dsimp only
  split
  · exact hlive.trans (keepsTrips_tgLatch _ hg)
  · exact hlive

theorem keepsTrips_tripSync (s : State) : KeepsTrips s (tripSync s) := by
  rw [tripSync_eq]
  exact (KeepsTrips.foldl _ (fun t _ hg => keepsTrips_followGroup s t (List.mem_range.mp hg)) s).trans (keepsTrips_safeSync _)

/-- Groups whose latch has been followed hold it where their input is active. -/
theorem rbit_foldl_followGroup (s : State) {n g : Nat} (hn : n ≤ 16) (hg : g < n) (h : groupInput s g = true) :
    rbit ((List.range n).foldl (followGroup s) s) cvpTglatch cvpTglatchTGLAT g = true := by
  induction n with
  | zero => omega
  | succ n ih =>
    rw [List.range_succ, List.foldl_concat]
    rcases Nat.lt_succ_iff_lt_or_eq.mp hg with hlt | rfl
    · exact (keepsTrips_followGroup s _ (by omega)).latches g (by omega) (ih (by omega) hlt)
    · simp only [followGroup, h, if_true]
      exact rbit_tgLatch_same _ (by omega)

/-- The latch of a group whose input is active is set (R36). -/
theorem rbit_tripSync_of_groupInput (s : State) {g : Nat} (hg : g < 16) (h : groupInput s g = true) :
    rbit (tripSync s) cvpTglatch cvpTglatchTGLAT g = true := by
  rw [tripSync_eq]
  exact (keepsTrips_safeSync _).latches g hg (rbit_foldl_followGroup s le_rfl hg h)

/-- A group's input is active when an input that it takes counts (R138). -/
theorem groupInput_of_enabled (s : State) (g : Nat) {i : Nat} (hi : i < 64) (hlive : s.cvp.tripLive.getLsbD i = true)
    (hen : (rf s (semTgen g (i / 32)) semTgenEN).testBit (i % 32) = true) : groupInput s g = true := by
  have hbit : s.cvp.tripLive.toNat.testBit i = true := hlive
  have hne : ∀ x : Nat, x.testBit (i % 32) = true → (x != 0) = true := fun x hx => by
    rw [bne_iff_ne]; rintro rfl; simp at hx
  rcases (by omega : i < 32 ∨ 32 ≤ i) with h | h
  · have hd : i / 32 = 0 := by omega
    have hm : i % 32 = i := by omega
    rw [hd] at hen
    simp only [groupInput, hne (rf s (semTgen g 0) semTgenEN &&& s.cvp.tripLive.toNat % 2 ^ 32)
      (by rw [Nat.testBit_and, hen, Nat.testBit_mod_two_pow, hm, hbit]; simp [h]), Bool.true_or]
  · have hd : i / 32 = 1 := by omega
    have hm : 32 + i % 32 = i := by omega
    rw [hd] at hen
    simp only [groupInput, hne (rf s (semTgen g 1) semTgenEN &&& s.cvp.tripLive.toNat / 2 ^ 32)
      (by rw [Nat.testBit_and, hen, Nat.testBit_div_two_pow, Nat.add_comm, hm, hbit]; rfl), Bool.true_or, Bool.or_true]

/-! The trip inputs' registers. -/

theorem tripLiveAddr_notMem (i : Nat) : tripLiveAddr i ∉ groupRegs := by
  unfold tripLiveAddr; split <;> decide

theorem tripLatAddr_notMem (i : Nat) : tripLatAddr i ∉ groupRegs := by
  unfold tripLatAddr; split <;> decide

theorem tripPolAddr_notMem (i : Nat) : tripPolAddr i ∉ groupRegs := by
  unfold tripPolAddr; split <;> decide

theorem tripLatAddr_ne_tripLiveAddr (i j : Nat) : tripLatAddr i ≠ tripLiveAddr j := by
  unfold tripLatAddr tripLiveAddr; split <;> split <;> decide

/-- Registers that stand apart from CVP_TRIPLIVE and CVP_TRIPLAT. -/
theorem notMem_tripAddrs (i : Nat) {a : Nat} (ha : a ∉ [cvpTriplive0, cvpTriplive1, cvpTriplat0, cvpTriplat1]) :
    a ∉ [tripLiveAddr i, tripLatAddr i] := by
  simp only [List.mem_cons, List.not_mem_nil, or_false, not_or] at ha ⊢
  obtain ⟨h0, h1, h2, h3⟩ := ha
  unfold tripLiveAddr tripLatAddr
  split
  · exact ⟨h0, h2⟩
  · exact ⟨h1, h3⟩

theorem tripPolAddr_notMem_tripAddrs (i j : Nat) : tripPolAddr i ∉ [tripLiveAddr j, tripLatAddr j] :=
  notMem_tripAddrs j (by unfold tripPolAddr; split <;> decide)

/-- An input's level follows its pin and its polarity alone (R36). -/
theorem tripActive_congr {s t : State} {i : Nat} (hpin : t.cvp.tripPin = s.cvp.tripPin)
    (hpol : rd t (tripPolAddr i) = rd s (tripPolAddr i)) : tripActive t i = tripActive s i := by
  rw [tripActive, hpin, hpol, tripActive]

theorem tripActive_setTripPin (s : State) {i : Nat} (hi : i < 64) (b : Bool) :
    tripActive (setTripPin s i b) i = b := by
  have hpol : rd (setTripPin s i b) (tripPolAddr i) = rd s (tripPolAddr i) := rfl
  rw [tripActive, hpol, setTripPin]
  generalize bitOf (rd s (tripPolAddr i)) (i % 32) = pol
  cases b <;> cases pol <;> simp [getLsbD_oneBit hi]

theorem setTripPin_sameBut (s : State) (i : Nat) (b : Bool) : SameBut [.cvp, .regs, .sem] s (setTripPin s i b) :=
  port_sameBut s _ _ _ _

/-! Showing an active input (R42). -/

/-- The state in which an input's bits of CVP_TRIPLIVE and CVP_TRIPLAT have risen. -/
def risen (s : State) (i : Nat) : State :=
  wbit (wbit s (tripLiveAddr i) cvpTriplive0LIVE (i % 32) true) (tripLatAddr i) cvpTriplat0LAT (i % 32) true

theorem tripShow_of_live {s : State} {i : Nat} (h : bitOf (rd s (tripLiveAddr i)) (i % 32) = true) : tripShow s i = s :=
  if_pos h

theorem tripShow_of_not_live {s : State} {i : Nat} (h : bitOf (rd s (tripLiveAddr i)) (i % 32) = false) :
    tripShow s i = semFire (risen s i) (0x040 + i) :=
  if_neg (by simp [h])

theorem regsBut_risen (s : State) (i : Nat) : RegsBut [tripLiveAddr i, tripLatAddr i] s (risen s i) :=
  (regsBut_wbit s _ _ _ _).trans (regsBut_wbit _ _ _ _ _)

theorem risen_live (s : State) (i : Nat) : bitOf (rd (risen s i) (tripLiveAddr i)) (i % 32) = true := by
  rw [risen, regsBut_wbit _ _ _ _ _ _ (by simpa using (tripLatAddr_ne_tripLiveAddr i i).symm), bitOf_rd_wbit_low _ _ _ _ _ rfl]

theorem risen_lat (s : State) (i : Nat) : bitOf (rd (risen s i) (tripLatAddr i)) (i % 32) = true :=
  bitOf_rd_wbit_low _ _ _ _ _ rfl

theorem cvp_tripShow (s : State) (i : Nat) : (tripShow s i).cvp = s.cvp := by
  unfold tripShow; split <;> rfl

theorem regsBut_tripShow (s : State) (i : Nat) : RegsBut [tripLiveAddr i, tripLatAddr i] s (tripShow s i) := by
  cases h : bitOf (rd s (tripLiveAddr i)) (i % 32)
  · rw [tripShow_of_not_live h]; exact regsBut_risen s i
  · rw [tripShow_of_live h]; exact fun _ _ => rfl

theorem tripShow_sameBut (s : State) (i : Nat) : SameBut [.cvp, .regs, .sem] s (tripShow s i) := by
  cases h : bitOf (rd s (tripLiveAddr i)) (i % 32)
  · rw [tripShow_of_not_live h]; exact port_sameBut s _ _ _ _
  · rw [tripShow_of_live h]; exact port_sameBut s s.cvp s.regs s.sets s.sem

theorem tripShow_live (s : State) (i : Nat) : bitOf (rd (tripShow s i) (tripLiveAddr i)) (i % 32) = true := by
  cases h : bitOf (rd s (tripLiveAddr i)) (i % 32)
  · rw [tripShow_of_not_live h, rd_semFire, risen_live]
  · rw [tripShow_of_live h, h]

/-- The rise of an input's bit in CVP_TRIPLIVE latches it in CVP_TRIPLAT (R42). -/
theorem tripShow_lat {s : State} {i : Nat} (h : bitOf (rd s (tripLiveAddr i)) (i % 32) = false) :
    bitOf (rd (tripShow s i) (tripLatAddr i)) (i % 32) = true := by
  rw [tripShow_of_not_live h, rd_semFire, risen_lat]

/-- Producer TRIPi is in no switched domain (R128). -/
theorem producerDomain_trip (i : Fin 64) : producerDomain (0x040 + i.val) = none := by
  revert i; decide

/-- Whether TRIPi can fire rests on the event matrix and its domain alone. -/
theorem semFire_trip_congr {s t : State} (i : Fin 64) (hpd : pdOn t 50 = pdOn s 50) (hsem : t.sem = s.sem)
    (hport : t.port = s.port) : (semFire t (0x040 + i.val)).sem = (semFire s (0x040 + i.val)).sem := by
  have hcan : canFire t (0x040 + i.val) = canFire s (0x040 + i.val) := by
    simp only [canFire, hpd, hsem, hport, producerDomain_trip]
  simp only [semFire, hcan, hsem, hport]

/-- TRIPi fires as the bit of CVP_TRIPLIVE rises (R128). -/
theorem fires_tripShow (s : State) (i : Fin 64) :
    Fires (if bitOf (rd s (tripLiveAddr i.val)) (i.val % 32) then [] else [0x40 + i.val]) s (tripShow s i.val) := by
  cases h : bitOf (rd s (tripLiveAddr i.val)) (i.val % 32)
  · rw [tripShow_of_not_live h]
    refine semFire_trip_congr i (congrArg (· == 2) ?_) rfl rfl
    exact (regsBut_risen s i.val).rf_eq (notMem_tripAddrs i.val (by decide)) pctlPdSTATE
  · rw [tripShow_of_live h]
    rfl

/-! The commands. -/

theorem exec_tripInput (i : Fin 64) (s : State) : exec (.tripInput i) s = execTripInput i s := rfl

theorem exec_tripInputInactive (i : Fin 64) (s : State) : exec (.tripInputInactive i) s = execTripInputInactive i s := rfl

theorem exec_tglatchClear (q : Req) (v : BitVec 16) (s : State) : exec (.tglatchClear q v) s = execTglatchClear q v s := rfl

/-- The state in which TRIP_INPUT looks at the filter: the pin has its active level, and the input is shown. -/
def shown (s : State) (i : Nat) : State := tripShow (setTripPin s i true) i

/-- The state in which an input that counts is taken out of the filter, before its groups follow. -/
def pastFilter (s : State) (i : Nat) : State :=
  { s with cvp := { s.cvp with
      tripLive := s.cvp.tripLive ||| BitVec.ofNat 64 (1 <<< i), tripWait := s.cvp.tripWait.filter (fun p => p.1 != i) } }

/-- The state in which an input counts no longer, before the groups follow. -/
def uncounted (s : State) (i : Nat) : State :=
  wbit { s with cvp := { s.cvp with
      tripLive := s.cvp.tripLive &&& ~~~ BitVec.ofNat 64 (1 <<< i), tripWait := s.cvp.tripWait.filter (fun p => p.1 != i) } }
    (tripLiveAddr i) cvpTriplive0LIVE (i % 32) false

theorem cvp_shown (s : State) (i : Nat) : (shown s i).cvp = (setTripPin s i true).cvp := cvp_tripShow _ _

theorem regsBut_shown (s : State) (i : Nat) : RegsBut [tripLiveAddr i, tripLatAddr i] s (shown s i) :=
  regsBut_tripShow (setTripPin s i true) i

theorem shown_sameBut (s : State) (i : Nat) : SameBut [.cvp, .regs, .sem] s (shown s i) :=
  (setTripPin_sameBut s i true).trans (tripShow_sameBut _ i)

theorem tripActive_shown (s : State) {i : Nat} (hi : i < 64) : tripActive (shown s i) i = true := by
  rw [← tripActive_setTripPin s hi true]
  exact tripActive_congr (by rw [cvp_shown]) (regsBut_shown s i _ (tripPolAddr_notMem_tripAddrs i i))

theorem fires_shown (s : State) (i : Fin 64) :
    Fires (if bitOf (rd s (tripLiveAddr i.val)) (i.val % 32) then [] else [0x40 + i.val]) s (shown s i.val) := by
  refine (fires_tripShow (setTripPin s i.val true) i).trans ?_
  change (List.foldl semFire _ (if bitOf (rd s (tripLiveAddr i.val)) (i.val % 32) then [] else [0x40 + i.val])).sem = _
  split
  · rfl
  · exact semFire_trip_congr i rfl rfl rfl

/-- The state in which an input waits for its filter, having become active in this PORT cycle. -/
def inFilter (s : State) (i : Nat) : State :=
  { s with cvp := { s.cvp with tripWait := s.cvp.tripWait ++ [(i, s.port)] } }

/-- TRIP_INPUT shows the input, then takes it to its groups or to its filter (R36). -/
theorem execTripInput_eq (s : State) (i : Fin 64) :
    execTripInput i s = .next (
      if (shown s i.val).cvp.tripLive.getLsbD i.val then shown s i.val
      else if rf (shown s i.val) cvpTripflt cvpTripfltN == 0 || !(shown s i.val).running then tripCount (shown s i.val) i.val
      else if (shown s i.val).cvp.tripWait.any (fun p => p.1 == i.val) then shown s i.val
      else inFilter (shown s i.val) i.val) := by
  rw [execTripInput, tripLevel, if_pos (tripActive_setTripPin s i.isLt true)]
  rfl

theorem tripfltN_shown (s : State) (i : Nat) : rf (shown s i) cvpTripflt cvpTripfltN = rf s cvpTripflt cvpTripfltN :=
  (regsBut_shown s i).rf_eq (notMem_tripAddrs i (by decide)) _

theorem running_shown (s : State) (i : Nat) : (shown s i).running = s.running :=
  shown_sameBut s i .running (by simp)

theorem tripLive_shown (s : State) (i : Nat) : (shown s i).cvp.tripLive = s.cvp.tripLive := by
  rw [cvp_shown]; rfl

theorem tripWait_shown (s : State) (i : Nat) : (shown s i).cvp.tripWait = s.cvp.tripWait := by
  rw [cvp_shown]; rfl

theorem tripCount_eq {s : State} {i : Nat} (h : s.cvp.tripLive.getLsbD i = false) :
    tripCount s i = tripSync (pastFilter s i) := by
  rw [tripCount, h]; rfl

/-- With no filter, or while PORT stands, an input counts at once (R36). -/
theorem execTripInput_counts {s : State} {i : Fin 64} (h : s.cvp.tripLive.getLsbD i.val = false)
    (hflt : rf s cvpTripflt cvpTripfltN = 0 ∨ s.running = false) :
    execTripInput i s = .next (tripSync (pastFilter (shown s i.val) i.val)) := by
  have hpass : (rf s cvpTripflt cvpTripfltN == 0 || !s.running) = true := by simpa using hflt
  rw [execTripInput_eq, tripCount_eq (by rw [tripLive_shown]; exact h), tripLive_shown, h, tripfltN_shown, running_shown, hpass]
  rfl

/-- With a filter, an input that does not wait yet begins to wait (R36). -/
theorem execTripInput_waits {s : State} {i : Fin 64} (h : s.cvp.tripLive.getLsbD i.val = false)
    (hflt : rf s cvpTripflt cvpTripfltN ≠ 0) (hrun : s.running = true)
    (hnew : s.cvp.tripWait.any (fun p => p.1 == i.val) = false) :
    execTripInput i s = .next (inFilter (shown s i.val) i.val) := by
  have hheld : (rf s cvpTripflt cvpTripfltN == 0 || !s.running) = false := by simp [hflt, hrun]
  rw [execTripInput_eq, tripLive_shown, h, tripfltN_shown, running_shown, hheld, tripWait_shown, hnew]
  rfl

/-- TRIP_INPUT_INACTIVE (R36). -/
theorem execTripInputInactive_eq (s : State) (i : Fin 64) :
    execTripInputInactive i s = .next (tripSync (uncounted (setTripPin s i.val false) i.val)) := by
  rw [execTripInputInactive, tripLevel, tripActive_setTripPin s i.isLt false, if_neg Bool.false_ne_true]
  rfl

/-! What the states between leave alone. -/

theorem rd_pastFilter (s : State) (i a : Nat) : rd (pastFilter s i) a = rd s a := rfl

theorem tripPin_pastFilter (s : State) (i : Nat) : (pastFilter s i).cvp.tripPin = s.cvp.tripPin := rfl

theorem pastFilter_sameBut (s : State) (i : Nat) : SameBut [.cvp, .regs, .sem] s (pastFilter s i) := port_sameBut s _ _ _ _

theorem pastFilter_tripLive (s : State) (i : Nat) :
    (pastFilter s i).cvp.tripLive = s.cvp.tripLive ||| BitVec.ofNat 64 (1 <<< i) := rfl

theorem pastFilter_tripLive_same (s : State) {i : Nat} (hi : i < 64) : (pastFilter s i).cvp.tripLive.getLsbD i = true := by
  simp [pastFilter_tripLive, getLsbD_oneBit hi]

theorem rd_inFilter (s : State) (i a : Nat) : rd (inFilter s i) a = rd s a := rfl

theorem cvp_inFilter (s : State) (i : Nat) :
    (inFilter s i).cvp = { s.cvp with tripWait := s.cvp.tripWait ++ [(i, s.port)] } := rfl

theorem inFilter_sameBut (s : State) (i : Nat) : SameBut [.cvp] s (inFilter s i) := by
  intro p hp; cases p <;> simp [Part.same, inFilter] at hp ⊢

theorem uncounted_sameBut (s : State) (i : Nat) : SameBut [.cvp, .regs, .sem] s (uncounted s i) := port_sameBut s _ _ _ _

theorem regsBut_uncounted (s : State) (i : Nat) : RegsBut [tripLiveAddr i] s (uncounted s i) :=
  regsBut_wbit { s with cvp := _ } _ _ _ _

theorem uncounted_live (s : State) (i : Nat) : bitOf (rd (uncounted s i) (tripLiveAddr i)) (i % 32) = false := by
  rw [uncounted, bitOf_rd_wbit_low _ _ _ _ _ rfl]

theorem tripActive_uncounted (s : State) (i : Nat) : tripActive (uncounted s i) i = tripActive s i :=
  tripActive_congr rfl (regsBut_uncounted s i _ fun h => tripPolAddr_notMem_tripAddrs i i (by simp at h; simp [h]))

/-! Clearing latches (R37). -/

/-- What a write of `v` to CVP_TGLATCH does to one latch. -/
def clearLatch (v : Nat) (t : State) (g : Nat) : State :=
  if v.testBit g && !groupInput t g then wbit t cvpTglatch cvpTglatchTGLAT g false else t

theorem tgClear_eq (s : State) (v : Nat) : tgClear s v = (List.range 16).foldl (clearLatch v) s := rfl

/-- The latches are no part of a group's input (R138). -/
theorem groupInput_congr {s t : State} {g : Nat} (hg : g < 16) (hregs : RegsBut [cvpTglatch] s t)
    (hparts : SameBut [.regs, .resp] s t) : groupInput t g = groupInput s g := by
  have hcvp : t.cvp = s.cvp := hparts .cvp (by simp)
  have hsem : t.sem = s.sem := hparts .sem (by simp)
  have hport : t.port = s.port := hparts .port (by simp)
  have htgen : ∀ w < 2, rf t (semTgen g w) semTgenEN = rf s (semTgen g w) semTgenEN := fun w hw =>
    hregs.rf_eq (by simp [semTgen, cvpTglatch]; omega) _
  have htgpr : ∀ f, rf t (semTgpr g) f = rf s (semTgpr g) f := fun f =>
    hregs.rf_eq (by simp [semTgpr, cvpTglatch]; omega) f
  simp only [groupInput, dmPulse, rb, rbit, htgen 0 (by decide), htgen 1 (by decide), htgpr, hcvp, hsem, hport]

/-- `t` is `s` after a write of `v` to CVP_TGLATCH has come to the latches below `n`: of those that it names, the ones whose
group input is inactive are clear. -/
structure ClearedBelow (v n : Nat) (s t : State) : Prop where
  regs : RegsBut [cvpTglatch] s t
  parts : SameBut [.regs, .resp] s t
  tglive : rf t cvpTglatch cvpTglatchTGLIVE = rf s cvpTglatch cvpTglatchTGLIVE
  latches : ∀ g < 16, rbit t cvpTglatch cvpTglatchTGLAT g =
    (rbit s cvpTglatch cvpTglatchTGLAT g && !(decide (g < n) && (v.testBit g && !groupInput s g)))

theorem clearedBelow_zero (v : Nat) (s : State) : ClearedBelow v 0 s s :=
  ⟨fun _ _ => rfl, answer_sameBut s s.regs s.sets s.resp, rfl, fun g _ => by simp⟩

theorem ClearedBelow.succ {v n : Nat} {s t : State} (h : ClearedBelow v n s t) (hn : n < 16) :
    ClearedBelow v (n + 1) s (clearLatch v t n) := by
  have hlt : ∀ g, g ≠ n → decide (g < n + 1) = decide (g < n) := fun g hg => decide_eq_decide.mpr (by omega)
  have hlo := tglat_bit hn
  unfold clearLatch
  rw [groupInput_congr hn h.regs h.parts]
  split
  next hc =>
    refine ⟨(h.regs.trans (regsBut_wbit t _ _ _ _)).mono (by simp), h.parts.trans (answer_sameBut t _ _ _),
      (rf_wbit_apart t _ _ _ n false hlo (.inr (by simp [cvpTglatchTGLAT, cvpTglatchTGLIVE]; omega))).trans h.tglive, fun g hg => ?_⟩
    rw [latch_wbit t _ n false hlo hg, h.latches g hg, tglat_lo]
    by_cases e : g = n
    · subst e; simp [hc]
    · rw [if_neg e, hlt g e]
  next hc =>
    refine ⟨h.regs, h.parts, h.tglive, fun g hg => ?_⟩
    rw [h.latches g hg]
    by_cases e : g = n
    · subst e; simp [hc]
    · rw [hlt g e]

theorem clearedBelow_tgClear (s : State) (v : Nat) : ClearedBelow v 16 s (tgClear s v) := by
  have h : ∀ n ≤ 16, ClearedBelow v n s ((List.range n).foldl (clearLatch v) s) := by
    intro n hn
    induction n with
    | zero => exact clearedBelow_zero v s
    | succ n ih =>
      rw [List.range_succ, List.foldl_concat]
      exact (ih (by omega)).succ (by omega)
  rw [tgClear_eq]
  exact h 16 le_rfl

theorem semTgen_notMem (i : Nat) {g w : Nat} (hg : g < 16) (hw : w < 2) : semTgen g w ∉ [tripLiveAddr i, tripLatAddr i] :=
  notMem_tripAddrs i (by simp [semTgen, cvpTriplive0, cvpTriplive1, cvpTriplat0, cvpTriplat1]; omega)

/-! The clauses. -/

/-- A latch that is set before an update elsewhere is still set when the groups have followed. -/
theorem rbit_tripSync_of_rbit {l : List Nat} {s t : State} (h : RegsBut l s t) (hl : cvpTglatch ∉ l) {g : Nat} (hg : g < 16)
    (hs : rbit s cvpTglatch cvpTglatchTGLAT g = true) : rbit (tripSync t) cvpTglatch cvpTglatchTGLAT g = true :=
  (keepsTrips_tripSync t).latches g hg ((h.rbit_eq hl _ g).trans hs)

theorem cvpTglatch_notMem (i : Nat) : cvpTglatch ∉ [tripLiveAddr i, tripLatAddr i] := notMem_tripAddrs i (by decide)

/-- R36, R138: what TRIP_INPUT does where the input counts at once. -/
theorem tripInput_counts {s : State} {i : Fin 64} (hoff : s.cvp.tripLive.getLsbD i.val = false)
    (hflt : rf s cvpTripflt cvpTripfltN = 0 ∨ s.running = false) : Runs (.tripInput i) s (fun t =>
      t.cvp.tripLive = s.cvp.tripLive ||| BitVec.ofNat 64 (1 <<< i.val) ∧ tripActive t i.val = true ∧
      bitOf (rd t (tripLiveAddr i.val)) (i.val % 32) = true ∧
      (bitOf (rd s (tripLiveAddr i.val)) (i.val % 32) = false → bitOf (rd t (tripLatAddr i.val)) (i.val % 32) = true) ∧
      (∀ g < 16, (rf s (semTgen g (i.val / 32)) semTgenEN).testBit (i.val % 32) = true → rbit t cvpTglatch cvpTglatchTGLAT g = true) ∧
      (∀ g < 16, rbit s cvpTglatch cvpTglatchTGLAT g = true → rbit t cvpTglatch cvpTglatchTGLAT g = true) ∧
      RegsBut ([tripLiveAddr i.val, tripLatAddr i.val] ++ groupRegs) s t ∧ t.sig = { s.sig with traces := t.sig.traces } ∧
      SameBut [.cvp, .regs, .sem, .sig] s t) := by
  refine ⟨_, (exec_tripInput i s).trans (execTripInput_counts hoff hflt), ?_⟩
  have hregs : RegsBut [tripLiveAddr i.val, tripLatAddr i.val] s (pastFilter (shown s i.val) i.val) := fun a ha =>
    (rd_pastFilter _ _ a).trans (regsBut_shown s i.val a ha)
  have hparts := (shown_sameBut s i.val).trans (pastFilter_sameBut _ i.val)
  have k := keepsTrips_tripSync (pastFilter (shown s i.val) i.val)
  refine ⟨?_, ?_, ?_, fun hs => ?_, fun g hg he => ?_, fun g hg hs => ?_, hregs.trans k.regs, ?_,
    (hparts.mono (by simp)).trans k.parts⟩
  · rw [k.tripLive, pastFilter_tripLive, tripLive_shown]
  · rw [← tripActive_shown s i.isLt]
    exact tripActive_congr (k.tripPin.trans (tripPin_pastFilter _ _))
      ((k.regs _ (tripPolAddr_notMem i.val)).trans (rd_pastFilter _ _ _))
  · rw [k.regs _ (tripLiveAddr_notMem i.val), rd_pastFilter]
    exact tripShow_live _ _
  · rw [k.regs _ (tripLatAddr_notMem i.val), rd_pastFilter]
    exact tripShow_lat hs
  · refine rbit_tripSync_of_groupInput _ hg (groupInput_of_enabled _ g i.isLt (pastFilter_tripLive_same _ i.isLt) ?_)
    rwa [hregs.rf_eq (semTgen_notMem i.val hg (by omega))]
  · exact rbit_tripSync_of_rbit hregs (cvpTglatch_notMem i.val) hg hs
  · rw [← hparts .sig (by simp)]
    exact k.sig

/-- R36, R42: what TRIP_INPUT does where the input has the filter to pass. -/
theorem tripInput_waits {s : State} {i : Fin 64} (hoff : s.cvp.tripLive.getLsbD i.val = false)
    (hflt : rf s cvpTripflt cvpTripfltN ≠ 0) (hrun : s.running = true)
    (hnew : s.cvp.tripWait.any (fun p => p.1 == i.val) = false) : Runs (.tripInput i) s (fun t =>
      t.cvp.tripWait = s.cvp.tripWait ++ [(i.val, s.port)] ∧ t.cvp.tripLive = s.cvp.tripLive ∧ tripActive t i.val = true ∧
      bitOf (rd t (tripLiveAddr i.val)) (i.val % 32) = true ∧
      (bitOf (rd s (tripLiveAddr i.val)) (i.val % 32) = false → bitOf (rd t (tripLatAddr i.val)) (i.val % 32) = true) ∧
      Fires (if bitOf (rd s (tripLiveAddr i.val)) (i.val % 32) then [] else [0x40 + i.val]) s t ∧
      RegsBut [tripLiveAddr i.val, tripLatAddr i.val] s t ∧ SameBut [.cvp, .regs, .sem] s t) := by
  have hwait := inFilter_sameBut (shown s i.val) i.val
  refine ⟨_, (exec_tripInput i s).trans (execTripInput_waits hoff hflt hrun hnew), ?_, ?_, ?_, ?_, fun hs => ?_, ?_, fun a ha => ?_,
    (shown_sameBut s i.val).trans (hwait.mono (by simp))⟩
  · rw [cvp_inFilter, tripWait_shown, shown_sameBut s i.val .port (by simp)]
  · rw [cvp_inFilter, ← tripLive_shown s i.val]
  · rw [← tripActive_shown s i.isLt]
    exact tripActive_congr (by rw [cvp_inFilter]) (rd_inFilter _ _ _)
  · rw [rd_inFilter]
    exact tripShow_live _ _
  · rw [rd_inFilter]
    exact tripShow_lat hs
  · exact (hwait .sem (by simp)).trans (fires_shown s i)
  · rw [rd_inFilter]
    exact regsBut_shown s i.val a ha

/-- R36: what TRIP_INPUT_INACTIVE does. -/
theorem tripInputInactive_uncounts (s : State) (i : Fin 64) : Runs (.tripInputInactive i) s (fun t =>
    t.cvp.tripLive = s.cvp.tripLive &&& ~~~ BitVec.ofNat 64 (1 <<< i.val) ∧ tripActive t i.val = false ∧
    bitOf (rd t (tripLiveAddr i.val)) (i.val % 32) = false ∧ (∀ p ∈ t.cvp.tripWait, p.1 ≠ i.val) ∧
    (∀ g < 16, rbit s cvpTglatch cvpTglatchTGLAT g = true → rbit t cvpTglatch cvpTglatchTGLAT g = true) ∧
    RegsBut ([tripLiveAddr i.val] ++ groupRegs) s t ∧ t.sig = { s.sig with traces := t.sig.traces } ∧
    SameBut [.cvp, .regs, .sem, .sig] s t) := by
  have hregs : RegsBut [tripLiveAddr i.val] s (uncounted (setTripPin s i.val false) i.val) := regsBut_uncounted _ _
  have hparts := (setTripPin_sameBut s i.val false).trans (uncounted_sameBut _ i.val)
  have k := keepsTrips_tripSync (uncounted (setTripPin s i.val false) i.val)
  refine ⟨_, (exec_tripInputInactive i s).trans (execTripInputInactive_eq s i), k.tripLive, ?_, ?_, fun p hp => ?_,
    fun g hg hs => ?_, hregs.trans k.regs, ?_, (hparts.mono (by simp)).trans k.parts⟩
  · rw [tripActive_congr k.tripPin (k.regs _ (tripPolAddr_notMem i.val)), tripActive_uncounted, tripActive_setTripPin s i.isLt]
  · rw [k.regs _ (tripLiveAddr_notMem i.val), uncounted_live]
  · rw [k.tripWait] at hp
    simpa using (List.mem_filter.mp hp).2
  · exact rbit_tripSync_of_rbit hregs (fun h => cvpTglatch_notMem i.val (by simp at h; simp [h])) hg hs
  · rw [← hparts .sig (by simp)]
    exact k.sig

/-- R37: a writer with the system type clears the latches that it names and whose group input is inactive. -/
theorem tglatchClear_clears {s : State} {q : Req} (v : BitVec 16) (hq : holdsType s q 1 = true) :
    Runs (.tglatchClear q v) s (fun t => t.resp = ⟨0, 0⟩ ∧ SameBut [.regs, .resp] s t ∧ RegsBut [cvpTglatch] s t ∧
      rf t cvpTglatch cvpTglatchTGLIVE = rf s cvpTglatch cvpTglatchTGLIVE ∧
      ∀ g < 16, rbit t cvpTglatch cvpTglatchTGLAT g = (rbit s cvpTglatch cvpTglatchTGLAT g && (!v.getLsbD g || groupInput s g))) := by
  have h := clearedBelow_tgClear s v.toNat
  refine ⟨respond (tgClear s v.toNat) 0, ?_, rfl, h.parts.trans (answer_sameBut _ _ _ _), h.regs, h.tglive, fun g hg => ?_⟩
  · rw [exec_tglatchClear, execTglatchClear, if_pos hq]; rfl
  · refine (h.latches g hg).trans ?_
    simp [hg, BitVec.getLsbD]

theorem tglatchClear_refused {s : State} {q : Req} (v : BitVec 16) (hq : holdsType s q 1 = false) :
    Runs (.tglatchClear q v) s (fun t => t.resp = ⟨2, 0⟩ ∧ SameBut [.resp] s t) := by
  refine ⟨respond s 2, ?_, rfl, ?_⟩
  · rw [exec_tglatchClear, execTglatchClear, hq]; rfl
  · intro p hp; cases p <;> simp [Part.same] at hp ⊢

/-- Settles O26, command by command: what an input's own bits become, then what the groups that follow it keep. -/
theorem trips : Obligations.Trips :=
  ⟨fun s i => ⟨fun hoff => ⟨tripInput_counts hoff, tripInput_waits hoff⟩, tripInputInactive_uncounts s i⟩,
    fun _ _ v => ⟨tglatchClear_clears v, tglatchClear_refused v⟩⟩

end Sys2Proof.Machine

/-! The end of an interrupt service (R152). -/

namespace Sys2Proof.Machine

/-! The sources' registers. -/

theorem intcSrc_notMem {m n : Nat} (h : m ≠ n) : intcSrc m ∉ [intcSrc n] := by
  simpa [intcSrc] using h

theorem regsBut_wf (s : State) (a : Nat) (f : Fld) (v : Nat) : RegsBut [a] s (wf s a f v) := fun _ hc =>
  rd_wf_other s f v (by simpa using hc)

theorem regsBut_wb (s : State) (a : Nat) (f : Fld) (b : Bool) : RegsBut [a] s (wb s a f b) := fun _ hc =>
  rd_wb_other s f b (by simpa using hc)

/-- Whether a source is in service is read from its own register only. -/
theorem RegsBut.inService_eq {l : List Nat} {s t : State} (h : RegsBut l s t) {m : Nat} (hm : intcSrc m ∉ l) (k : Nat) :
    inService t m k = inService s m k := by
  simp only [inService, rb, h.rf_eq hm]

/-! A source that leaves service. -/

/-- The latched PRIO and LVL are no part of a register. -/
theorem rf_leaveService (s : State) (n a : Nat) (f : Fld) :
    rf (leaveService s n) a f = rf (wf (wb s (intcSrc n) intcSrcINSVC false) (intcSrc n) intcSrcSVCCORE 15) a f := rfl

/-- Only the claim's fields INSVC and SVCCORE change in the source's register. -/
theorem rf_leaveService_apart (s : State) (n : Nat) (f : Fld) (hf : f.fits = true) (h : f.hi < 42 ∨ 46 < f.lo) :
    rf (leaveService s n) (intcSrc n) f = rf s (intcSrc n) f := by
  have hsvccore : intcSrcSVCCORE.hi < f.lo ∨ f.hi < intcSrcSVCCORE.lo := by simp only [intcSrcSVCCORE]; omega
  have hinsvc : intcSrcINSVC.hi < f.lo ∨ f.hi < intcSrcINSVC.lo := by simp only [intcSrcINSVC]; omega
  rw [rf_leaveService, rf_wf_apart _ _ _ f _ (by decide) hf hsvccore, rf_wb, rf_wf_apart _ _ _ f _ (by decide) hf hinsvc]

theorem rb_insvc_leaveService (s : State) (n : Nat) : rb (leaveService s n) (intcSrc n) intcSrcINSVC = false := by
  rw [rb, rf_leaveService, rf_wf_apart _ _ _ intcSrcINSVC _ (by decide) (by decide) (by decide)]
  exact rb_wb_same s _ _ false (by decide)

theorem regsBut_leaveService (s : State) (n : Nat) : RegsBut [intcSrc n] s (leaveService s n) :=
  ((regsBut_wb s _ _ _).trans (regsBut_wf _ _ _ _)).mono (by simp)

theorem leaveService_sameBut (s : State) (n : Nat) : SameBut [.regs, .intc] s (leaveService s n) := by
  intro p hp; cases p <;> simp [Part.same, leaveService, wb, wf, wr] at hp ⊢

theorem inService_leaveService_same (s : State) (n k : Nat) : inService (leaveService s n) n k = false := by
  rw [inService, rb_insvc_leaveService, Bool.false_and]

theorem inService_leaveService_other (s : State) {m n : Nat} (h : m ≠ n) (k : Nat) :
    inService (leaveService s n) m k = inService s m k :=
  (regsBut_leaveService s n).inService_eq (intcSrc_notMem h) k

theorem srcActive_leaveService (s : State) (n : Nat) : srcActive (leaveService s n) n = srcActive s n := by
  have hcnt := rf_leaveService_apart s n intcSrcCNT (by decide) (by decide)
  have hactive := rf_leaveService_apart s n intcSrcACTIVE (by decide) (by decide)
  simp only [srcActive, rb, hcnt, hactive]

theorem srcPrio_leaveService (s : State) (n : Nat) : srcPrio (leaveService s n) n = srcPrio s n := by
  have hprio := rf_leaveService_apart s n intcSrcPRIO (by decide) (by decide)
  simp only [srcPrio, hprio]

/-- Out of service, a source is pending again as soon as it is active with a PRIO that is not 0 (R143, R152). -/
theorem srcPending_leaveService (s : State) (n : Nat) :
    srcPending (leaveService s n) n = (srcActive s n && srcPrio s n != 0) := by
  rw [srcPending, rb_insvc_leaveService, srcActive_leaveService, srcPrio_leaveService, Bool.not_false, Bool.and_true]

/-! The command. -/

theorem exec_intcEoi (k : Fin 10) (n : Fin 512) (s : State) : exec (.intcEoi k n) s = .next (eoiWrite s k.val n.val) := rfl

theorem eoiWrite_served {s : State} {k n : Nat} (h : inService s n k = true) :
    eoiWrite s k n = respond (leaveService s n) 0 := by
  rw [eoiWrite, if_pos h]

theorem eoiWrite_not_served {s : State} {k n : Nat} (h : inService s n k = false) :
    eoiWrite s k n = respond (wb s intcSts intcStsEOIV true) 0 := by
  rw [eoiWrite, h, if_neg Bool.false_ne_true]

theorem respond_sameBut (s : State) (code : Nat) (data : Word) : SameBut [.resp] s (respond s code data) := by
  intro p hp; cases p <;> simp [Part.same, respond] at hp ⊢

/-- R152: the core that serves a source ends its service. -/
theorem intcEoi_served {s : State} {k : Fin 10} {n : Fin 512} (h : inService s n.val k.val = true) :
    Runs (.intcEoi k n) s (fun t => t.resp = ⟨0, 0⟩ ∧ (∀ j < 10, inService t n.val j = false) ∧
      srcPending t n.val = (srcActive s n.val && srcPrio s n.val != 0) ∧
      (∀ m < 512, m ≠ n.val → ∀ j < 10, inService t m j = inService s m j) ∧
      RegsBut [intcSrc n.val] s t ∧ SameBut [.regs, .intc, .resp] s t) := by
  have hparts : SameBut [.regs, .intc, .resp] s (respond (leaveService s n.val) 0) :=
    ((leaveService_sameBut s n.val).mono (by simp)).trans ((respond_sameBut _ 0 0).mono (by simp))
  refine ⟨respond (leaveService s n.val) 0, ?_, rfl, fun j _ => ?_, ?_, fun m _ hm j _ => ?_, ?_, hparts⟩
  · rw [exec_intcEoi, eoiWrite_served h]
  · exact inService_leaveService_same s n.val j
  · exact srcPending_leaveService s n.val
  · exact inService_leaveService_other s hm j
  · exact regsBut_leaveService s n.val

/-- R152: a write that names a source not in service to the core sets EOIV only. -/
theorem intcEoi_not_served {s : State} {k : Fin 10} {n : Fin 512} (h : inService s n.val k.val = false) :
    Runs (.intcEoi k n) s (fun t => t.resp = ⟨0, 0⟩ ∧ RegsAre [withFld s intcSts intcStsEOIV 1] s t ∧
      SameBut [.regs, .resp] s t) := by
  refine ⟨respond (wb s intcSts intcStsEOIV true) 0, ?_, rfl, ⟨fun p hp => ?_, ?_⟩, answer_sameBut _ _ _ _⟩
  · rw [exec_intcEoi, eoiWrite_not_served h]
  · rw [List.mem_singleton.mp hp]
    exact rd_wr_same s _ _
  · exact regsBut_wb s _ _ true

/-- Settles O37: the write ends the service if the source is in service to the core that writes, and else sets EOIV. -/
theorem endOfInterrupt : Obligations.EndOfInterrupt :=
  fun _ _ _ => ⟨intcEoi_served, intcEoi_not_served⟩

end Sys2Proof.Machine

/-! Compares, predicate logic and reads of predicates (R171, R201 to R203). -/

namespace Sys2Proof.Machine

/-! A predicate register with one bit replaced. -/

/-- A number above, at and below its bit p. -/
theorem twoPow_mul_bit_add_mod (n p : Nat) : 2 ^ p * Nat.bit (n.testBit p) (n / 2 ^ p / 2) + n % 2 ^ p = n := by
  have hbit := Nat.bit_testBit_zero_shiftRight_one (n / 2 ^ p)
  rw [Nat.testBit_div_two_pow, Nat.zero_add, Nat.shiftRight_one] at hbit
  rw [hbit, Nat.div_add_mod]

/-- Taking bit p out and putting v in leaves what is above and below it. -/
theorem replaceBit_eq (n p : Nat) (v : Bool) :
    n - (if n.testBit p then 2 ^ p else 0) + (if v then 2 ^ p else 0) =
      2 ^ p * Nat.bit v (n / 2 ^ p / 2) + n % 2 ^ p := by
  have hn := twoPow_mul_bit_add_mod n p
  cases hb : n.testBit p <;> cases v <;> simp [hb, Nat.bit_val, Nat.mul_add] at hn ⊢ <;> omega

theorem testBit_replaceBit (n p i : Nat) (v : Bool) :
    (n - (if n.testBit p then 2 ^ p else 0) + (if v then 2 ^ p else 0)).testBit i = if i = p then v else n.testBit i := by
  rw [replaceBit_eq, Nat.testBit_two_pow_mul_add _ (Nat.mod_lt _ (Nat.two_pow_pos p))]
  rcases Nat.lt_trichotomy i p with h | rfl | h
  · rw [if_pos h, if_neg (by omega), Nat.testBit_mod_two_pow, decide_eq_true h, Bool.true_and]
  · rw [if_neg (by omega), if_pos rfl, Nat.sub_self, Nat.testBit_bit_zero]
  · obtain ⟨m, rfl⟩ : ∃ m, i = p + (m + 1) := ⟨i - p - 1, by omega⟩
    rw [if_neg (by omega), if_neg (by omega), Nat.add_sub_cancel_left, Nat.testBit_bit_succ, Nat.testBit_div_two,
      Nat.testBit_div_two_pow, Nat.add_comm p]

/-! Predicates of a bank. -/

@[simp] theorem Bank.pred_zero (b : Bank) : b.pred 0 = true := rfl

@[simp] theorem Bank.pred_drop (b : Bank) (n i : Nat) : (b.drop n).pred i = b.pred i := rfl

/-- A write of P0 is discarded (R171). -/
@[simp] theorem Bank.setPred_zero (b : Bank) (v : Bool) : b.setPred 0 v = b := rfl

theorem Bank.pred_setPred (b : Bank) (d i : Nat) (v : Bool) :
    (b.setPred d v).pred i = if i = 0 then true else if i = d then v else b.pred i := by
  by_cases hi : i = 0
  · rw [if_pos hi, hi, Bank.pred_zero]
  · rw [if_neg hi]
    by_cases hd : d = 0
    · rw [hd, Bank.setPred_zero, if_neg hi]
    · simp only [Bank.pred, Bank.setPred, beq_iff_eq, hd, if_false, testBit_replaceBit, beq_false_of_ne hi,
        Bool.false_or]

/-- A predicate write after operands were popped changes the predicates and the stack pointer alone. -/
theorem Bank.setPred_drop (b : Bank) (n d : Nat) (v : Bool) :
    (b.drop n).setPred d v = { b with preds := (b.setPred d v).preds, osp := b.osp - n } := by
  simp only [Bank.setPred]
  split <;> rfl

theorem Bank.stack_setPred_drop (b : Bank) (n d : Nat) (v : Bool) : ((b.drop n).setPred d v).stack = b.stack.drop n := by
  rw [← Bank.stack_drop, Bank.setPred_drop]
  rfl

/-! Instructions that write a predicate. -/

/-- Command c is an instruction of `n` parcels that core k completes with the operand stack `ws` and predicate d at v; P0
reads true, and nothing else changes but its PC and issue bookkeeping. -/
def PredResult (c : Instr) (s : State) (k n : Nat) (ws : List Word) (d : Nat) (v : Bool) : Prop :=
  Runs c s (fun t => operands t k = ws ∧
    (∀ i < 8, (bankOf t k).pred i = if i = 0 then true else if i = d then v else (bankOf (fetched s k n) k).pred i) ∧
    ∃ m o, Steps (fetched s k n) t k n ((coreOf (fetched s k n) k).withCur (fun b => { b with preds := m, osp := o })))

/-- An instruction that pops its operands and writes a predicate. -/
theorem pred_result {s : State} {k n : Nat} (i : Ins) {c : Instr} {ws : List Word} {d : Nat} (f : Bank → Bool) {v : Bool}
    (hl : i.parcels.length = n) (h : Issues s k n ws) (hi : i.illegal = false)
    (hg : ∀ p sn, i.guard = some (p, sn) → guardPass (bankOf (fetched s k n) k) p sn = true)
    (hc : i.c ≤ ws.length) (hp : i.p = 0) (he : exec c s = runIns k i s)
    (hbody : ∀ x now, i.body x k now = fin1 (onBank x k (fun b => (b.drop i.c).setPred d (f b))))
    (hv : f (bankOf (fetched s k n) k) = v) : PredResult c s k n (ws.drop i.c) d v := by
  subst hl hv
  have hroom : ws.length - i.c + i.p ≤ 32 := by
    obtain ⟨-, -, hlen⟩ := h
    omega
  obtain ⟨t, ht, hs⟩ := bank_result s k i c ws (fun b => (b.drop i.c).setPred d (f b)) h hi hg hc hroom he
    (fun now => ⟨1, hbody _ now⟩) (by rw [Bank.setPred_drop]) (by rw [Bank.setPred_drop])
  refine ⟨t, ht, ?_, fun j _ => ?_, ?_⟩
  · obtain ⟨-, hstack, -⟩ := h
    rw [operands, hs.bankOf, Bank.stack_setPred_drop, ← operands, hstack]
  · rw [hs.bankOf, Bank.pred_setPred, Bank.pred_drop]
  · simp only [Core.withCur, Bank.setPred_drop] at hs
    exact ⟨_, _, hs⟩

/-- A short form that writes v to a predicate (R202, R203). -/
theorem predIns_result {s : State} {k : Nat} {c : Instr} {ws : List Word} {opc opd n d : Nat} {f : Bank → Bool} {v : Bool}
    (h : Issues s k 1 ws) (hn : n ≤ ws.length) (he : exec c s = runIns k (predIns (sh opc opd) n d f) s)
    (hv : f (bankOf (fetched s k 1) k) = v) : PredResult c s k 1 (ws.drop n) d v :=
  pred_result (predIns (sh opc opd) n d f) f rfl h rfl (fun _ _ hg => nomatch hg) hn rfl he (fun _ _ => rfl) hv

/-! Condition codes (R201). -/

/-- The condition codes 0 to 11 on a and b, in order. -/
def conditions (a b : Word) : List Bool :=
  [a == b, a != b, a.toInt < b.toInt, b.toInt ≤ a.toInt, a.toInt ≤ b.toInt, b.toInt < a.toInt,
    a.toNat < b.toNat, b.toNat ≤ a.toNat, a.toNat ≤ b.toNat, b.toNat < a.toNat, a &&& b == 0, a &&& b != 0]

theorem condition_eq_getD {cc : Nat} (h : cc < 12) (a b : Word) :
    condition cc a b = (conditions a b).getD cc false := by
  interval_cases cc <;> rfl

/-! The instructions. -/

theorem cmp_result {s : State} {k : Fin 10} {x y : Word} {ws : List Word} {cc : Fin 16} (d : Fin 8)
    (h : Issues s k 1 (y :: x :: ws)) (hcc : cc.val < 12) :
    PredResult (.cmp k cc d) s k 1 ws d ((conditions x y).getD cc false) := by
  refine pred_result (n := 1) (insCmp cc d) (fun b => condition cc (b.peek 1) (b.peek 0)) rfl h
    (decide_eq_false (by omega)) (fun _ _ hg => nomatch hg) (Nat.le_add_left 2 ws.length) rfl rfl (fun _ _ => rfl) ?_
  rw [h.peek 1 x rfl, h.peek 0 y rfl, condition_eq_getD hcc]

theorem cmpi_result {s : State} {k : Fin 10} {ps : Fin 8} {sn : Bool} {x : Word} {ws : List Word} {cc : Fin 16}
    (d : Fin 8) (v : BitVec 16) (h : IssuesLong s k ps sn (x :: ws)) (hcc : cc.val < 12) :
    PredResult (.cmpi k ps sn cc d v) s k 2 ws d ((conditions x (BitVec.ofInt 48 v.toInt)).getD cc false) := by
  obtain ⟨hissues, hbad, hpass⟩ := h
  have hlegal : (insCmpi ps sn cc d v).illegal = false := by
    rw [insCmpi, hbad, decide_eq_false (by omega), Bool.or_false]
  have hguard : ∀ p b, (insCmpi ps sn cc d v).guard = some (p, b) → guardPass (bankOf (fetched s k 2) k) p b = true := by
    rintro _ _ ⟨⟩
    exact hpass
  refine pred_result (n := 2) (insCmpi ps sn cc d v) (fun b => condition cc (b.peek 0) (v.signExtend 48)) rfl hissues
    hlegal hguard (Nat.le_add_left 1 ws.length) rfl rfl (fun _ _ => rfl) ?_
  rw [hissues.peek 0 x rfl, condition_eq_getD hcc, BitVec.signExtend]

theorem tstp_result {s : State} {k : Fin 10} {x : Word} {ws : List Word} (d : Fin 8) (h : Issues s k 1 (x :: ws)) :
    PredResult (.tstp k d) s k 1 ws d (x != 0) :=
  predIns_result h (Nat.le_add_left 1 ws.length) rfl (congrArg (· != 0) (h.peek 0 x rfl))

/-- R203: predicate logic leaves the operands where they are. -/
theorem predLogic_result {s : State} {k : Fin 10} {ws : List Word} (d p q : Fin 8) (h : Issues s k 1 ws) :
    let b := bankOf (fetched s k 1) k
    PredResult (.pand k d p q) s k 1 ws d (b.pred p && b.pred q) ∧
    PredResult (.por k d p q) s k 1 ws d (b.pred p || b.pred q) ∧
    PredResult (.pxor k d p q) s k 1 ws d (b.pred p != b.pred q) ∧
    PredResult (.pnot k d p) s k 1 ws d (!b.pred p) :=
  have hz := Nat.zero_le ws.length
  ⟨predIns_result h hz rfl rfl, predIns_result h hz rfl rfl, predIns_result h hz rfl rfl,
    predIns_result h hz rfl rfl⟩

theorem ofNat_b2n (b : Bool) : BitVec.ofNat 48 (b2n b) = if b then 1 else 0 := by
  cases b <;> rfl

theorem rdp_result {s : State} {k : Fin 10} {ws : List Word} (p : Fin 8) (h : Issues s k 1 ws) (hws : ws.length < 32) :
    StackResult (.rdp k p) s k 1 ((if (bankOf (fetched s k 1) k).pred p then 1 else 0) :: ws) := by
  have hr := stack_result s k (insRdp p) (.rdp k p) ws 0 (fun b => [BitVec.ofNat 48 (b2n (b.pred p))]) h rfl
    (fun _ _ hg => nomatch hg) (Nat.zero_le _) hws rfl (fun _ _ => ⟨1, rfl⟩)
  rwa [ofNat_b2n] at hr

/-- Settles O8, instruction by instruction: each writes its predicate and pops its operands, and RDP pushes one. -/
theorem predicateInstructions : Obligations.PredicateInstructions :=
  fun _ _ _ _ _ _ d p q _ _ v =>
    ⟨cmp_result d, cmpi_result d v, tstp_result d, predLogic_result d p q, rdp_result p⟩

end Sys2Proof.Machine

/-! The canonical form of memory and of the token tags (log entry 11). -/

namespace Sys2Proof.Machine

-- Proofs one after another: elaborated in parallel, those of the whole text take more threads than the check's memory holds.
set_option Elab.async false

/-! Every operation keeps the canonical form of memory and of the token tags (log entry 11). Memory changes through `memWr`, `tagWr` and
`memClear` alone; every other operation keeps the form because the operations it is made of do. One lemma for each, in the order in
which they build on one another, so that the form of a result is read off its term: `w.memWr.wb` is the form of `wb (memWr s a v) b f x`. -/

/-- Memory and tags are in canonical form. -/
abbrev Formed (s : State) : Prop := Memory.wf s = true

/-- A command that completes, completes in canonical form. -/
def FormedOut (o : Out) : Prop := ∀ t, o = .next t → Formed t

/-- The state that an instruction's result holds. -/
def IRes.state : IRes → State
  | .done s _ | .jump s _ _ | .back s _ | .fault s _ _ | .wait s | .hold s | .trail s _ _ _ => s

/-- The state that the result of an access holds. -/
def MemRes.state : MemRes → State
  | .now _ _ _ s _ | .wait s _ _ | .hold s | .fault s _ _ => s

/-- The state that the result of a look into a cache holds. -/
def Found.state : Found → State
  | .word _ _ _ s _ | .pend s _ _ | .full s | .fault s _ _ => s

/-- Every state that the result of a write of a system register holds is in canonical form. -/
def SrRes.Formed : SrRes → Prop
  | .ok s | .denied s => Machine.Formed s
  | .fault _ _ | .hold => True

/-- An instruction keeps the canonical form, whether its guard passes or not. -/
structure Ins.Keeps (i : Ins) : Prop where
  body : ∀ s k now, Formed s → Formed (i.body s k now).state
  skip : ∀ s k, Formed s → Formed (i.skip s k).state

section Formed

variable {s : State}

/-- What changes neither memory nor tags keeps their form. -/
theorem Formed.mk {pe po ru pa lv re se fr rs si ha dw ss co sv pt ms cv ae dm sm ic pn rl wa jn ml cp pc db} (w : Formed s) :
    Formed { s with pending := pe, port := po, running := ru, par := pa, lvl := lv, regs := re, sets := se, free := fr, resp := rs,
                    sig := si, halted := ha, drvWant := dw, ssp := ss, cores := co, svc := sv, ports := pt, msys := ms, cvp := cv,
                    ae := ae, dm := dm, sem := sm, intc := ic, pne := pn, rlk := rl, wac := wa, jne := jn, mlk := ml, cpt := cp,
                    pctl := pc, dbg := db } := w

theorem Formed.ite {c : Prop} [Decidable c] {t : State} (w : Formed s) (w' : Formed t) : Formed (if c then s else t) := by
  split
  · exact w
  · exact w'

protected theorem Formed.foldl {α : Type} {f : State → α → State} {l : List α} (w : Formed s)
    (hf : ∀ u x, Formed u → Formed (f u x)) : Formed (l.foldl f s) := by
  induction l generalizing s with
  | nil => exact w
  | cons x r ih => exact ih (hf s x w)

theorem Formed.foldl_snd {α β : Type} {f : β × State → α → β × State} {l : List α} {p : β × State} (w : Formed p.2)
    (hf : ∀ q x, Formed q.2 → Formed (f q x).2) : Formed (l.foldl f p).2 := by
  induction l generalizing p with
  | nil => exact w
  | cons x r ih => exact ih (hf p x w)

theorem Formed.of_snd {α : Type} {p : α × State} {a : α} {t : State} (w : Formed p.2) (h : p = (a, t)) : Formed t := by
  subst h
  exact w

theorem IRes.of_eq {r r' : IRes} (w : Formed r.state) (h : r = r') : Formed r'.state := h ▸ w

theorem MemRes.of_eq {r r' : MemRes} (w : Formed r.state) (h : r = r') : Formed r'.state := h ▸ w

theorem Found.of_eq {r r' : Found} (w : Formed r.state) (h : r = r') : Formed r'.state := h ▸ w

theorem SrRes.of_eq {r r' : SrRes} (w : r.Formed) (h : r = r') : r'.Formed := h ▸ w

theorem mem_none_all {α : Type} {p : α → Prop} : ∀ x ∈ (none : Option α), p x := nofun

theorem mem_some_all {α : Type} {p : α → Prop} {a : α} (h : p a) : ∀ x ∈ some a, p x := by
  rintro _ ⟨⟩
  exact h

theorem FormedOut.next {t : State} (w : Formed t) : FormedOut (.next t) := by
  rintro _ ⟨⟩
  exact w

theorem FormedOut.ite {c : Prop} [Decidable c] {o o' : Out} (w : FormedOut o) (w' : FormedOut o') :
    FormedOut (if c then o else o') := by
  split
  · exact w
  · exact w'

theorem Formed.of_snd_snd {α β : Type} {p : α × β × State} {a : α} {b : β} {t : State} (w : Formed p.2.2) (h : p = (a, b, t)) :
    Formed t := by
  subst h
  exact w

theorem SrRes.formed_ite {c : Prop} [Decidable c] {r r' : SrRes} (w : r.Formed) (w' : r'.Formed) : (if c then r else r').Formed := by
  split
  · exact w
  · exact w'

/-- What every member of an option has, every member of it has under a condition. -/
theorem mem_ite_none {α : Type} {c : Prop} [Decidable c] {o : Option α} {p : α → Prop} (h : ∀ x ∈ o, p x) :
    ∀ x ∈ (if c then o else none), p x := by
  split
  · exact h
  · exact mem_none_all

theorem Formed.of_some {o : Option State} {t : State} (w : ∀ u ∈ o, Formed u) (h : o = some t) : Formed t := w t h

theorem Formed.of_mem {α : Type} {o : Option (α × State)} {a : α} {t : State} (w : ∀ p ∈ o, Formed p.2) (h : o = some (a, t)) :
    Formed t := w (a, t) h

theorem Formed.of_mem_snd {α β : Type} {o : Option (α × β × State)} {a : α} {b : β} {t : State} (w : ∀ p ∈ o, Formed p.2.2)
    (h : o = some (a, b, t)) : Formed t := w (a, b, t) h

theorem Formed.getD {o : Option State} (w : ∀ t ∈ o, Formed t) (hs : Formed s) : Formed (o.getD s) := by
  cases o with
  | none => exact hs
  | some t => exact w t rfl

theorem Formed.ite_of {α : Type} (f : α → State) {c : Prop} [Decidable c] {x y : α} (hx : Formed (f x)) (hy : Formed (f y)) :
    Formed (f (if c then x else y)) := by
  split
  · exact hx
  · exact hy

theorem Ins.keeps_of {pa : List Nat} {g : Option (Nat × Bool)} {il : Bool} {c p : Nat} {cl : IClass} {wp : Nat} {lo : Bool}
    {body : State → Nat → Nat → IRes} {skip : State → Nat → IRes} (hb : ∀ s k now, Formed s → Formed (body s k now).state)
    (hk : ∀ s k, Formed s → Formed (skip s k).state) : (Ins.mk pa g il c p cl wp lo body skip).Keeps := ⟨hb, hk⟩

protected theorem Formed.wr {a : Nat} {v : Word} (hs : Formed s) : Formed (wr s a v) := hs.mk

protected theorem Formed.wf {a : Nat} {f : Fld} {v : Nat} (hs : Formed s) : Formed (wf s a f v) := hs.wr

protected theorem Formed.hwNote {x1 : HwSet} (hs : Formed s) : Formed (hwNote s x1) := hs.mk

protected theorem Formed.wb {a : Nat} {f : Fld} {b : Bool} (hs : Formed s) : Formed (wb s a f b) := hs.wf.mk

protected theorem Formed.wbit {a : Nat} {f : Fld} {i : Nat} {b : Bool} (hs : Formed s) : Formed (wbit s a f i b) := hs.wr.mk

protected theorem Formed.inc {a : Nat} {f : Fld} {n : Nat} (hs : Formed s) : Formed (inc s a f n) := hs.wf.hwNote

protected theorem Formed.maxTo {a : Nat} {f : Fld} {v : Nat} (hs : Formed s) : Formed (maxTo s a f v) := hs.wf.hwNote

protected theorem Formed.ok (hs : Formed s) : FormedOut (ok s) := FormedOut.next hs

protected theorem Formed.smpReject {k : Nat} {flag cnt : Fld} (hs : Formed s) : Formed (smpReject s k flag cnt) :=
  hs.wb.inc.wbit

protected theorem Formed.semFire {p : Nat} (hs : Formed s) : Formed (semFire s p) := hs.mk

protected theorem Formed.sspSample {i : Nat} {v : Word} {cyc fine : Nat} (hs : Formed s) : Formed (sspSample s i v cyc fine) :=
  hs.mk

protected theorem Formed.smpPresent {c : Nat} {v : Word} {cyc fine : Nat} (hs : Formed s) :
    Formed (smpPresent s c v cyc fine) := by
  unfold smpPresent
  extract_lets t _ _
  have ht : Formed t := hs.wr.semFire
  split
  · exact Formed.ite ht.mk ht
  · exact Formed.ite ht.sspSample ht
  · exact ht

protected theorem Formed.execSampleCapture {k : Fin 16} {sub : BitVec 4} {data : BitVec 24} {tsc : BitVec 16}
    {tsf : BitVec 7} {par : Bool} (hs : Formed s) :
    FormedOut (execSampleCapture k sub data tsc tsf par s) := by
  unfold execSampleCapture
  extract_lets _ _ t
  have ht : Formed t := Formed.ite hs.wb.wb hs
  refine FormedOut.ite ?_ ?_
  · exact hs.ok
  · refine FormedOut.ite ?_ ?_
    · exact hs.smpReject.ok
    · exact FormedOut.ite hs.ok (FormedOut.ite hs.smpReject.ok (FormedOut.ite hs.smpReject.ok ht.smpPresent.ok))

protected theorem Formed.setLaneQ {k : Nat} {q : List QEntry} (hs : Formed s) : Formed (setLaneQ s k q) := hs.mk

protected theorem Formed.edgeCount {k : Nat} {f : Fld} (hs : Formed s) : Formed (edgeCount s k f) := hs.inc.wb.wbit

protected theorem Formed.edgeDrop {k : Nat} (hs : Formed s) : Formed (edgeDrop s k) := hs.edgeCount

protected theorem Formed.raiseTrace {kind src data : Nat} (hs : Formed s) : Formed (raiseTrace s kind src data) :=
  Formed.ite hs (Formed.ite hs.mk hs.inc.mk)

protected theorem Formed.expectWord {w : EdgeWord} {tag : Option Nat} {sent : Nat} (hs : Formed s) :
    Formed (expectWord s w tag sent) :=
  hs.mk

protected theorem Formed.postLeft {tag : Nat} (hs : Formed s) : Formed (postLeft s tag) := hs.mk

protected theorem Formed.wordLeaves {k : Nat} {e : QEntry} {w : EdgeWord} (hs : Formed s) : Formed (wordLeaves s k e w) := by
  unfold wordLeaves
  extract_lets _ t _ t1 src _ t2 _
  have ht : Formed t := hs.mk
  have ht1 : Formed t1 := ht.raiseTrace
  have hsrc : Formed src := ht1.wbit
  have ht2 : Formed t2 := Formed.ite hsrc.mk ht1.mk
  split
  · exact ht2.expectWord
  · exact Formed.ite ht2.expectWord.postLeft ht2.mk.postLeft
  · exact ht2.mk.postLeft

protected theorem Formed.laneLeave {n k : Nat} (hs : Formed s) : Formed (laneLeave n s k) := by
  induction n generalizing s with
  | zero => exact hs
  | succ n ih =>
    unfold laneLeave
    split
    · exact hs
    · refine Formed.ite (ih hs.setLaneQ) (Formed.ite (ih hs.setLaneQ.setLaneQ.mk) (Formed.ite (Formed.ite ?_ ?_) (Formed.ite ?_ ?_)))
      · exact ih (hs.setLaneQ.setLaneQ.mk.edgeDrop.foldl fun _ _ h => h.edgeDrop)
      · exact ih hs.setLaneQ.edgeDrop
      · exact ih hs.setLaneQ.edgeDrop
      · exact (Formed.ite hs.setLaneQ.edgeCount hs.setLaneQ).wordLeaves

protected theorem Formed.onlyIf {c : Bool} {t : State} (hs : Formed s) (hs1 : Formed t) : FormedOut (onlyIf c s t) :=
  FormedOut.next (Formed.ite hs1 hs)

protected theorem Formed.execEdgeWordLeave {k : Fin 16} (hs : Formed s) : FormedOut (execEdgeWordLeave k s) :=
  hs.onlyIf hs.laneLeave

protected theorem Formed.mismatch {k : Nat} (hs : Formed s) : Formed (mismatch s k) := hs.wb.wbit

protected theorem Formed.setApplied {p v : Nat} (hs : Formed s) : Formed (setApplied s p v) := hs.wf

protected theorem Formed.postsSync (hs : Formed s) : Formed (postsSync s) := hs.mk

protected theorem Formed.tagRelease (hs : Formed s) : Formed (tagRelease s) := hs.mk.postsSync

protected theorem Formed.reportExecuted {k p : Nat} {v cnt : Nat} (hs : Formed s) : Formed (reportExecuted s k p v cnt) := by
  unfold reportExecuted
  extract_lets hit _ t
  clear_value hit
  have ht : Formed t := by
    unfold t
    split
    · extract_lets u
      have hu : Formed u := hs.mk
      exact Formed.ite hu hu.mismatch
    · exact hs.mismatch
  exact ht.setApplied.tagRelease

protected theorem Formed.tagArm {tag : Nat} {early : Bool} (hs : Formed s) : Formed (tagArm s tag early) :=
  hs.mk.foldl (fun _ _ h => (h.foldl (fun _ _ h1 => h1.expectWord)))

protected theorem Formed.reportArmed {k tag : Nat} (hs : Formed s) : Formed (reportArmed s k tag) := by
  unfold reportArmed
  extract_lets t _
  have ht : Formed t := by
    unfold t
    split
    · exact Formed.ite hs hs.tagArm
    · exact hs
  exact ht.mk.tagRelease

protected theorem Formed.reportRetracted {k tag : Nat} (hs : Formed s) : Formed (reportRetracted s k tag) := hs.mk.postsSync

protected theorem Formed.reportSafe {p v cnt : Nat} {ent : Bool} (hs : Formed s) : Formed (reportSafe s p v cnt ent) :=
  ((Formed.ite ((Formed.ite hs.mk hs).mk) (Formed.ite hs.mk hs)).setApplied).tagRelease

protected theorem Formed.extendBounds {k : Nat} (hs : Formed s) : Formed (extendBounds s k) := hs.mk

protected theorem Formed.execAppliedReport {k : Fin 16} {d : BitVec 32} (hs : Formed s) :
    FormedOut (execAppliedReport k d s) := by
  unfold execAppliedReport
  extract_lets _ _ _ t
  have ht : Formed t := by
    unfold t
    split
    · exact hs.reportExecuted
    · exact hs.reportArmed
    · exact hs.reportRetracted
    · exact hs.reportSafe
  exact hs.onlyIf ht.extendBounds

protected theorem Formed.execAppliedReportTimeout {k : Fin 16} (hs : Formed s) : FormedOut (execAppliedReportTimeout k s) :=
  hs.onlyIf hs.mk.mismatch

protected theorem Formed.execTagArmCycle {tag : Fin 32} (hs : Formed s) : FormedOut (execTagArmCycle tag s) := by
  unfold execTagArmCycle
  extract_lets _ _ t _ t1 t2 _ _ _ t3
  have ht : Formed t := hs.tagArm
  have ht1 : Formed t1 := ht.mk
  have ht2 : Formed t2 := ht1.foldl (fun _ _ h => h.semFire)
  have ht3 : Formed t3 := Formed.ite ht2.mk ht2
  exact hs.onlyIf ht3.tagRelease

protected theorem Formed.setTripPin {i : Nat} {active : Bool} (hs : Formed s) : Formed (setTripPin s i active) := hs.mk

protected theorem Formed.tripShow {i : Nat} (hs : Formed s) : Formed (tripShow s i) := Formed.ite hs hs.wbit.wbit.semFire

protected theorem Formed.tgLatch {g : Nat} (hs : Formed s) : Formed (tgLatch s g) := Formed.ite hs hs.wbit.semFire

protected theorem Formed.unrelease {k : Nat} {w : EdgeWord} (hs : Formed s) : Formed (unrelease s k w) := hs.mk

protected theorem Formed.safeSync (hs : Formed s) : Formed (safeSync s) :=
  ((hs.foldl (fun _ _ h => h.unrelease)).foldl (fun _ _ h => h.wf)).mk

protected theorem Formed.tripSync (hs : Formed s) : Formed (tripSync s) :=
  (hs.foldl (fun _ _ h => (Formed.ite h.wbit.tgLatch h.wbit))).safeSync

protected theorem Formed.tripCount {i : Nat} (hs : Formed s) : Formed (tripCount s i) := Formed.ite hs hs.mk.tripSync

protected theorem Formed.tripUncount {i : Nat} (hs : Formed s) : Formed (tripUncount s i) := hs.mk.wbit.tripSync

protected theorem Formed.tripLevel {i : Nat} (hs : Formed s) : Formed (tripLevel s i) := by
  unfold tripLevel
  refine Formed.ite ?_ ?_
  · extract_lets s1 _
    have hs1 : Formed s1 := hs.tripShow
    exact Formed.ite hs1 (Formed.ite hs1.tripCount (Formed.ite hs1 hs1.mk))
  · exact hs.tripUncount

protected theorem Formed.execTripInput {i : Fin 64} (hs : Formed s) : FormedOut (execTripInput i s) := hs.setTripPin.tripLevel.ok

protected theorem Formed.tgClear {v : Nat} (hs : Formed s) : Formed (tgClear s v) := hs.foldl (fun _ _ h => (Formed.ite h.wbit h))

protected theorem Formed.respond {code : Nat} {data : Word} (hs : Formed s) : Formed (respond s code data) := hs.mk

protected theorem Formed.execTglatchClear {q : Req} {v : BitVec 16} (hs : Formed s) : FormedOut (execTglatchClear q v s) :=
  FormedOut.ite hs.tgClear.respond.ok hs.respond.ok

protected theorem Formed.setSlot {n : Nat} {x2 : Slot} (hs : Formed s) : Formed (setSlot s n x2) := hs.mk

protected theorem Formed.grantHandovers (hs : Formed s) : Formed (grantHandovers s) :=
  hs.foldl (fun _ _ h => (Formed.ite h.wb.setSlot h))

protected theorem Formed.grantRebase (hs : Formed s) : Formed (grantRebase s) := hs.foldl (fun _ _ h => h.mk)

protected theorem Formed.execDriveGntRise (hs : Formed s) : FormedOut (execDriveGntRise s) := by
  unfold execDriveGntRise
  extract_lets _ t
  have ht : Formed t := hs.mk.wb
  exact hs.onlyIf (Formed.ite ht.wb.semFire.grantHandovers.grantRebase.safeSync ht.wb.safeSync)

protected theorem Formed.execDriveGntFall (hs : Formed s) : FormedOut (execDriveGntFall s) :=
  hs.onlyIf ((Formed.ite hs.mk.wb.wb.wb.semFire hs.mk.wb.wb).safeSync)

protected theorem Formed.fresh (hs : Formed s) : Formed (fresh s).2 := hs.mk

protected theorem Formed.freshBit (hs : Formed s) : Formed (freshBit s).2 := hs.fresh

protected theorem Formed.swnUnits {d : Nat} (hs : Formed s) : Formed (swnUnits s d).2 := Formed.ite_of Prod.snd hs hs.freshBit

protected theorem Formed.swnResult {o d : Nat} (hs : Formed s) : Formed (swnResult s o d) := hs.wf.wb.mk

protected theorem Formed.swnNone {o : Nat} (hs : Formed s) : Formed (swnNone s o) := hs.swnResult.wb.semFire

protected theorem Formed.execSwnodeHigh {o : Fin 512} {fine : BitVec 7} (hs : Formed s) :
    FormedOut (execSwnodeHigh o fine s) := by
  unfold execSwnodeHigh
  split
  · exact hs.ok
  · extract_lets _ _ r
    have hr : Formed r.2 := hs.mk.swnUnits
    exact hs.onlyIf (Formed.ite hr.swnResult hs.mk.swnNone)

protected theorem Formed.execSwnodeWindowExpiry {o : Fin 512} (hs : Formed s) : FormedOut (execSwnodeWindowExpiry o s) := by
  unfold execSwnodeWindowExpiry
  split
  · exact hs.ok
  · exact hs.onlyIf hs.mk.swnNone

protected theorem Formed.memWr {a : Nat} {v : Word} (hs : Formed s) : Formed (memWr s a v) := Memory.wf_memWr a v hs

protected theorem Formed.setUpset {k : Nat} {u : Upset} (hs : Formed s) : Formed (setUpset s k u) := hs.mk

protected theorem Formed.ramWr {n off : Nat} {v : Word} (hs : Formed s) : Formed (ramWr s n off v) :=
  Formed.ite hs.memWr hs.memWr.setUpset

protected theorem Formed.setCoefQ {e : Nat} {q : List (Nat × Word)} (hs : Formed s) : Formed (setCoefQ s e q) := hs.mk.wf

protected theorem Formed.coefCommit {n : Nat} (hs : Formed s) : Formed (coefCommit s n) :=
  Formed.ite hs ((hs.foldl (fun _ _ h => h.ramWr)).setCoefQ)

protected theorem Formed.winLatch {n : Nat} (hs : Formed s) : Formed (winLatch s n) := hs.setSlot

protected theorem Formed.adtPreset {n e : Nat} (hs : Formed s) : Formed (adtPreset s n e) := hs.wf

protected theorem Formed.setPhase {n p : Nat} (hs : Formed s) : Formed (setPhase s n p) := hs.wf

protected theorem Formed.slotStart {n : Nat} (hs : Formed s) : Formed (slotStart s n) := by
  unfold slotStart
  extract_lets _ t _ _ t1 t2 t3 t4
  have ht : Formed t := hs.wb.coefCommit
  have ht1 : Formed t1 := ht.setSlot
  have ht2 : Formed t2 := ht1.ramWr
  have ht3 : Formed t3 := ht2.wf.winLatch
  have ht4 : Formed t4 := ht3.foldl (fun _ _ h => (Formed.ite h.adtPreset h))
  exact ht4.setPhase

protected theorem Formed.slotEnable {n : Nat} (hs : Formed s) : Formed (slotEnable s n) := by
  unfold slotEnable
  split
  · exact hs.slotStart
  · extract_lets _ t
    have ht : Formed t := hs.wf.wf.wf
    exact ht.wb.wb

protected theorem Formed.slotEnWrite {n : Nat} (hs : Formed s) : Formed (slotEnWrite s n) :=
  Formed.ite hs.wb.setSlot hs.slotEnable

protected theorem Formed.aeWrite {q : Req} {n : Nat} {f : State → State} (hs : Formed s) (hf : ∀ u0, Formed u0 → Formed (f u0)) :
    FormedOut (aeWrite q n s f) :=
  FormedOut.ite hs.respond.ok (FormedOut.ite hs.respond.ok (((hf _ hs).respond).ok))

protected theorem Formed.execSlotEnable {q : Req} {n : Fin 128} (hs : Formed s) : FormedOut (execSlotEnable q n s) :=
  hs.aeWrite (fun _ h => (Formed.ite h h.slotEnWrite))

protected theorem Formed.setMon {m : Nat} {x2 : Mon} (hs : Formed s) : Formed (setMon s m x2) := hs.mk

protected theorem Formed.dmSuspend {m : Nat} (hs : Formed s) : Formed (dmSuspend s m) := hs.setMon.wb

protected theorem Formed.dmSuspendAll {kind subj : Nat} (hs : Formed s) : Formed (dmSuspendAll s kind subj) :=
  hs.foldl (fun _ _ h => h.dmSuspend)

protected theorem Formed.slotStop {n : Nat} (hs : Formed s) : Formed (slotStop s n) := hs.setPhase.coefCommit.wb.wf.wb.mk.setSlot

protected theorem Formed.slotDisable {n : Nat} (hs : Formed s) : Formed (slotDisable s n) := by
  unfold slotDisable
  extract_lets t _
  have ht : Formed t := hs.wb.dmSuspendAll
  exact Formed.ite ht (Formed.ite ht.slotStop ht.setSlot)

protected theorem Formed.execSlotDisable {q : Req} {n : Fin 128} (hs : Formed s) : FormedOut (execSlotDisable q n s) :=
  hs.aeWrite (fun _ h => (Formed.ite h.slotDisable h))

protected theorem Formed.dmResume {m : Nat} (hs : Formed s) : Formed (dmResume s m) := hs.setMon.wb.wf

protected theorem Formed.dmResumeAll {kind subj : Nat} (hs : Formed s) : Formed (dmResumeAll s kind subj) :=
  Formed.ite hs (hs.foldl (fun _ _ h => h.dmResume))

protected theorem Formed.bankToggle {n : Nat} (hs : Formed s) : Formed (bankToggle s n) := hs.wb.wb

protected theorem Formed.countCe {i : Nat} (hs : Formed s) : Formed (countCe s i) := ((Formed.ite hs.inc hs.inc).wb).mk

protected theorem Formed.eccLog {kind bit : Nat} {addr port : Nat} (hs : Formed s) : Formed (eccLog s kind bit addr port) :=
  ((((Formed.ite hs.inc hs).wr).wr).wf).mk

protected theorem Formed.queueScrub {a : Nat} (hs : Formed s) : Formed (queueScrub s a) := Formed.ite hs hs.mk

protected theorem Formed.retireBank {st b : Nat} (hs : Formed s) : Formed (retireBank s st b) := Formed.ite hs hs.wf.wb

protected theorem Formed.countUe {i : Nat} (hs : Formed s) : Formed (countUe s i) :=
  Formed.ite (Formed.ite hs.inc.wb.retireBank hs.inc.wb) hs.inc.wb

protected theorem Formed.eccCheck {i a port : Nat} {tags : Bool} (hs : Formed s) : Formed (eccCheck s i a port tags).2 := by
  unfold eccCheck
  extract_lets t
  have ht : Formed t := Formed.ite hs.countCe.eccLog.queueScrub hs
  split
  · exact ht.countCe.eccLog.queueScrub
  · exact ht.countUe.eccLog
  · exact ht

protected theorem Formed.ramCheck {n off : Nat} (hs : Formed s) : Formed (ramCheck s n off) := hs.eccCheck

protected theorem Formed.ramChecks {n : Nat} {l : List Nat} (hs : Formed s) : Formed (ramChecks s n l) :=
  hs.foldl (fun _ _ h => h.ramCheck)

protected theorem Formed.forN {n : Nat} {f : State → Nat → State} (hs : Formed s) (hf : ∀ u0 x1, Formed u0 → Formed (f u0 x1)) :
    Formed (forN n s f) :=
  hs.foldl (fun _ _ h => (hf _ _ h))

protected theorem Formed.adoptApply {n : Nat} (hs : Formed s) : Formed (adoptApply s n) :=
  Formed.ite (((((hs.ramChecks.forN (fun _ _ h => h.ramWr)).ramWr).ramWr).wf).wb) hs

protected theorem Formed.freshWord (hs : Formed s) : Formed (freshWord s).2 := hs.fresh

protected theorem Formed.primeFree {n : Nat} (hs : Formed s) : Formed (primeFree s n) := hs.foldl (fun _ _ h => h.freshWord.ramWr)

protected theorem Formed.primeMode {n : Nat} (hs : Formed s) : Formed (primeMode s n) := by
  unfold primeMode
  extract_lets _ _ t t1 _ req _
  have ht : Formed t := hs.wb
  have ht1 : Formed t1 := Formed.ite ht.wf.wb ht
  have hreq : ∀ u0, Formed u0 → Formed (req u0) := fun _ h => h.wb
  refine Formed.ite ?_ ?_
  · exact ht1.setSlot
  · refine Formed.ite ?_ ?_
    · exact (hreq _ ht1).setSlot
    · split
      · exact (hreq _ ht1).setSlot
      · exact Formed.ite ht1.setSlot ht1.setSlot

protected theorem Formed.cvpHandAt {p : Producer} {at_ : Nat} {w : EdgeWord} (hs : Formed s) : Formed (cvpHandAt s p at_ w) := by
  unfold cvpHandAt
  extract_lets _ _ t _
  have ht : Formed t := hs.setLaneQ
  refine Formed.ite ?_ ?_
  · exact hs
  · refine Formed.ite ?_ ?_
    · exact hs.edgeDrop
    · exact Formed.ite hs (Formed.ite hs.edgeDrop (Formed.ite hs.edgeDrop (Formed.ite ht.mk ht)))

protected theorem Formed.cvpHandAll {p : Producer} {ws : List EdgeWord} (hs : Formed s) : Formed (cvpHandAll s p ws) :=
  hs.foldl (fun _ _ h => h.cvpHandAt)

protected theorem Formed.slotHand {n : Nat} {ws : List EdgeWord} (hs : Formed s) : Formed (slotHand s n ws) :=
  Formed.ite hs (Formed.ite hs hs.cvpHandAll.semFire)

protected theorem Formed.slotPark {n : Nat} {tr : Trig} (hs : Formed s) : Formed (slotPark s n tr) :=
  hs.slotHand.setSlot.setPhase.wb.dmSuspendAll

protected theorem Formed.primePoint {n : Nat} (hs : Formed s) : Formed (primePoint s n) := by
  unfold primePoint
  extract_lets t t1 t2 u _ t3 t4 _ t5 u1 _ u2
  have ht : Formed t := hs.dmResumeAll
  have ht1 : Formed t1 := Formed.ite ht.bankToggle ht
  have ht2 : Formed t2 := ht1.adoptApply
  have hu : Formed u := ht2.coefCommit
  have ht3 : Formed t3 := Formed.ite hu.setSlot ht2
  have ht4 : Formed t4 := ht3.winLatch.primeFree
  have ht5 : Formed t5 := ht4.setSlot
  have hu1 : Formed u1 := ht5.primeMode.setPhase
  have hu2 : Formed u2 := hu1.setSlot
  refine Formed.ite ?_ ?_
  · split
    · exact hu2.slotPark
    · exact hu2
  · exact ht5.setPhase.primeMode

protected theorem Formed.execPrimePoint {n : Fin 128} (hs : Formed s) : FormedOut (execPrimePoint n s) :=
  hs.onlyIf (Formed.ite (Formed.ite hs.slotStop.slotEnable hs.slotStop) hs.primePoint)

protected theorem Formed.adaptFlag {e a : Nat} {f : Fld} (hs : Formed s) : Formed (adaptFlag s e a f) :=
  Formed.ite hs hs.wb.semFire

protected theorem Formed.adtClamp {n : Nat} (hs : Formed s) : Formed (adtClamp s n) := hs.adaptFlag.inc

protected theorem Formed.adtUpdate {n e : Nat} (hs : Formed s) : Formed (adtUpdate s n e) :=
  Formed.ite hs (((Formed.ite hs.adtClamp hs).setSlot).wf)

protected theorem Formed.adtAll {n : Nat} (hs : Formed s) : Formed (adtAll s n) :=
  hs.forN (fun _ _ h => (Formed.ite h.adtUpdate h))

protected theorem Formed.tmplDt {n e : Nat} (hs : Formed s) : Formed (tmplDt s n e).2 := Formed.ite_of Prod.snd hs.adtClamp hs

protected theorem Formed.slotFlag {n : Nat} {f : Fld} {b : Bool} (hs : Formed s) : Formed (slotFlag s n f b) :=
  Formed.ite hs.wb hs

protected theorem Formed.formWords {n : Nat} {ys : List Word} {p : Nat} (hs : Formed s) : Formed (formWords s n ys p).2 :=
  Formed.foldl_snd hs.adtAll (fun _ _ h => (Formed.ite_of Prod.snd h.tmplDt.slotFlag h))

protected theorem Formed.holdSlot {n : Nat} {st : DmStart} {gap : Bool} (hs : Formed s) :
    ∀ t ∈ holdSlot s n st gap, Formed t := by
  unfold holdSlot
  extract_lets _ _ _
  split
  · exact mem_none_all
  · split
    · exact mem_some_all hs
    · split
      · exact mem_none_all
      · extract_lets f src _ t _
        have hf : Formed f.2 := hs.formWords
        have hsrc : Formed src := hf
        have ht : Formed t := hsrc.mk
        exact mem_some_all (Formed.ite ht ht.setSlot)

protected theorem Formed.setCell {c : Nat} {x2 : Cell} (hs : Formed s) : Formed (setCell s c x2) := hs.mk

protected theorem Formed.cvpPost {c tag : Nat} {ws : List EdgeWord} (hs : Formed s) : Formed (cvpPost s c tag ws) :=
  Formed.ite (hs.foldl (fun _ _ h => h.edgeDrop)) (hs.foldl (fun _ _ h => h.cvpHandAt))

protected theorem Formed.postOut {x1 : PostHand} (hs : Formed s) : Formed (postOut s x1) := hs.cvpPost.semFire

protected theorem Formed.makePosting {c p : Nat} {cand h : Nat} (hs : Formed s) : ∀ t ∈ makePosting s c p cand h, Formed t := by
  unfold makePosting
  extract_lets _
  split
  · exact mem_none_all
  · extract_lets _ t _ _ t1 _ t2 t3 _
    have ht : Formed t := hs.wf
    have ht1 : Formed t1 := Formed.ite ht.postOut ht.mk
    have ht2 : Formed t2 := ht1.mk
    have ht3 : Formed t3 := ht2.wf.wf
    split
    · exact mem_none_all
    · split
      · exact mem_none_all
      · split
        · exact mem_none_all
        · exact mem_some_all ht3.setCell

protected theorem Formed.holdCell {c : Nat} {st : DmStart} {gap : Bool} (hs : Formed s) :
    ∀ t ∈ holdCell s c st gap, Formed t := by
  unfold holdCell
  extract_lets x p mark
  have hmark : ∀ u, Formed u → Formed (mark u) := fun _ h => Formed.ite h h.setCell
  split
  · exact mem_none_all
  · split
    · exact mem_none_all
    · split
      · exact mem_some_all (hmark _ hs)
      · intro t ht
        obtain ⟨u, hu, rfl⟩ := Option.mem_map.1 ht
        exact hmark _ (Formed.ite hs (hs.makePosting u hu))

protected theorem Formed.holdAction {m : Nat} {st : DmStart} {gap : Bool} (hs : Formed s) :
    ∀ t ∈ holdAction s m st gap, Formed t := by
  unfold holdAction
  split
  · exact hs.holdSlot
  · exact hs.holdCell
  · exact mem_some_all hs

protected theorem Formed.missReact {m : Nat} {st : DmStart} {gap : Bool} (hs : Formed s) : Formed (missReact s m st gap).2 := by
  unfold missReact
  extract_lets _
  split
  · refine Formed.ite_of Prod.snd ?_ ?_
    · exact hs
    · split
      next t heq1 => exact (Formed.of_some hs.holdAction heq1).wf
      · exact hs.wf
  · exact hs
  · exact hs

protected theorem Formed.missLog {m : Nat} {mr : List Word} (hs : Formed s) : Formed (missLog s m mr) :=
  ((((Formed.ite hs.inc hs).foldl (fun _ _ h => h.wr.wr)).wf).setMon).mk

protected theorem Formed.raiseAsync {k code : Nat} {v : Word} (hs : Formed s) : Formed (raiseAsync s k code v) := hs.mk

protected theorem Formed.dmMissPulse {q : Nat} (hs : Formed s) : Formed (dmMissPulse s q) := hs.mk

protected theorem Formed.strobe {n : Nat} (hs : Formed s) : Formed (strobe s n) := hs.mk

protected theorem Formed.raiseEv {cause : Nat} {body : List Word} (hs : Formed s) : Formed (raiseEv s cause body) := hs.mk

protected theorem Formed.raiseRec {r : RecReq} (hs : Formed s) : Formed (raiseRec s r) := Formed.ite hs.inc hs.mk

protected theorem Formed.escalate {mr : List Word} (hs : Formed s) : Formed (escalate s mr) := hs.strobe.raiseEv.raiseRec

protected theorem Formed.dmMiss {m reason : Nat} {st : DmStart} (hs : Formed s) : Formed (dmMiss s m reason st) := by
  unfold dmMiss
  extract_lets r _ _ t t1 _ _ t2 t3 t4 t5
  have hr : Formed r.2 := hs.missReact
  have ht : Formed t := hr.missLog.raiseTrace
  have ht1 : Formed t1 := ht.inc.wb
  have ht2 : Formed t2 := ht1.setMon
  have ht3 : Formed t3 := Formed.ite ht2.raiseAsync ht2
  have ht4 : Formed t4 := ht3.semFire.dmMissPulse
  have ht5 : Formed t5 := Formed.ite ht4.escalate ht4
  exact Formed.ite ht5.safeSync ht5.wb.safeSync

protected theorem Formed.dmDetect {m : Nat} {c : DmCheck} (hs : Formed s) : Formed (dmDetect s m c) := hs.dmMiss.setMon

protected theorem Formed.dmBegin {m : Nat} {st : DmStart} {bud : Nat} (hs : Formed s) : Formed (dmBegin s m st bud) :=
  Formed.ite hs.setMon.dmDetect hs.setMon

protected theorem Formed.dmStart {m : Nat} {st : DmStart} (hs : Formed s) : Formed (dmStart s m st) := by
  unfold dmStart
  extract_lets _ t _
  have ht : Formed t := hs.setMon
  refine Formed.ite ?_ ?_
  · exact hs
  · split
    · exact ht.dmBegin
    · exact ht.setMon
    · exact ht.setMon.dmMiss

protected theorem Formed.dmStartAll {kind subj : Nat} {st : DmStart} (hs : Formed s) : Formed (dmStartAll s kind subj st) :=
  hs.foldl (fun _ _ h => h.dmStart)

protected theorem Formed.dtsOf {t last : Word} (hs : Formed s) : Formed (dtsOf s t last).2 :=
  Formed.ite_of Prod.snd hs hs.freshWord

protected theorem Formed.startOutput {n : Nat} {armed : Bool} {tr : Trig} (hs : Formed s) :
    Formed (startOutput s n armed tr) := by
  unfold startOutput
  extract_lets _ d t _ _ _ q t1 t2 _
  have hd : Formed d.2 := Formed.ite_of Prod.snd hs hs.ramCheck.dtsOf
  have ht : Formed t := hd.ramWr.ramWr
  clear_value q
  have ht1 : Formed t1 := ht.setSlot
  have ht2 : Formed t2 := by
    unfold t2
    split
    · exact ht1.setSlot
    · exact ht1
  exact ht2.mk.setPhase

protected theorem Formed.slotTake {n : Nat} {tr : Trig} (hs : Formed s) : Formed (slotTake s n tr) :=
  Formed.ite (Formed.ite hs.slotPark hs.startOutput) hs.slotFlag.slotFlag.setSlot

protected theorem Formed.slotTrigger {n : Nat} {e : TrigSrc} (hs : Formed s) : Formed (slotTrigger s n e) :=
  Formed.ite hs (Formed.ite hs.setSlot.dmStartAll.slotTake hs.setSlot)

protected theorem Formed.execLawTrigger {n : Fin 128} (hs : Formed s) : FormedOut (execLawTrigger n s) := by
  unfold execLawTrigger
  split
  · extract_lets _ t
    have ht : Formed t := hs.mk
    exact hs.onlyIf ht.slotTrigger
  · exact hs.ok

protected theorem Formed.lawNext {n : Nat} (hs : Formed s) : Formed (lawNext s n) := hs.setSlot

protected theorem Formed.lawStep {n op : Nat} {f : State → Word → State} (hs : Formed s)
    (hf : ∀ u0 x1, Formed u0 → Formed (f u0 x1)) :
    FormedOut (lawStep s n op f) := by
  unfold lawStep
  split
  · exact (hf _ _ hs.ramChecks.lawNext).ok
  · exact hs.ok

protected theorem Formed.execLawNop {n : Fin 128} (hs : Formed s) : FormedOut (execLawNop n s) := hs.lawStep (fun _ _ h => h)

protected theorem Formed.setAcc {n : Nat} {v : Int} (hs : Formed s) : Formed (setAcc s n v) := hs.slotFlag.setSlot

protected theorem Formed.execLawClr {n : Fin 128} (hs : Formed s) : FormedOut (execLawClr n s) :=
  hs.lawStep (fun _ _ h => h.setAcc)

protected theorem Formed.execLawLda {n : Fin 128} (hs : Formed s) : FormedOut (execLawLda n s) :=
  hs.lawStep (fun _ _ h => h.setAcc)

protected theorem Formed.execLawMac {n : Fin 128} (hs : Formed s) : FormedOut (execLawMac n s) :=
  hs.lawStep (fun _ _ h => h.setAcc)

protected theorem Formed.execLawMsu {n : Fin 128} (hs : Formed s) : FormedOut (execLawMsu n s) :=
  hs.lawStep (fun _ _ h => h.setAcc)

protected theorem Formed.execLawMacs {n : Fin 128} (hs : Formed s) : FormedOut (execLawMacs n s) :=
  hs.lawStep (fun _ _ h => h.setAcc)

protected theorem Formed.execLawAdds {n : Fin 128} (hs : Formed s) : FormedOut (execLawAdds n s) :=
  hs.lawStep (fun _ _ h => h.setAcc)

protected theorem Formed.execLawSubs {n : Fin 128} (hs : Formed s) : FormedOut (execLawSubs n s) :=
  hs.lawStep (fun _ _ h => h.setAcc)

protected theorem Formed.execLawMacc {n : Fin 128} (hs : Formed s) : FormedOut (execLawMacc n s) :=
  hs.lawStep (fun _ _ h => h.setAcc)

protected theorem Formed.execLawAsh {n : Fin 128} (hs : Formed s) : FormedOut (execLawAsh n s) :=
  hs.lawStep (fun _ _ h => h.setAcc)

protected theorem Formed.yDeliver {n i : Nat} {v : Word} (hs : Formed s) : Formed (yDeliver s n i v) := hs.mk

protected theorem Formed.sigWr {n a : Nat} {v : Word} (hs : Formed s) : Formed (sigWr s n a v) :=
  Formed.ite hs.ramWr.yDeliver hs.ramWr

protected theorem Formed.execLawSt {n : Fin 128} (hs : Formed s) : FormedOut (execLawSt n s) :=
  hs.lawStep (fun _ _ h => h.slotFlag.sigWr)

protected theorem Formed.execLawStl {n : Fin 128} (hs : Formed s) : FormedOut (execLawStl n s) :=
  hs.lawStep (fun _ _ h => h.slotFlag.slotFlag.sigWr)

protected theorem Formed.wrExact {a : Nat} {v : Int} (hs : Formed s) : Formed (wrExact s a v) := Formed.ite hs.wr hs.freshWord.wr

protected theorem Formed.outHandover {n : Nat} {w : Word} (hs : Formed s) : Formed (outHandover s n w).2 := by
  unfold outHandover
  extract_lets _ _ _ _ _ t t1 _ t2 t3 _ _ _ _ _ t4 t5 t6 _ t7 t8 _
  have ht : Formed t := hs.slotFlag.slotFlag
  have ht1 : Formed t1 := Formed.ite ht.wb ht
  have ht2 : Formed t2 := ht1.ramChecks
  have ht3 : Formed t3 := ht2.ramChecks
  have ht4 : Formed t4 := Formed.ite ht3.adaptFlag ht3
  have ht5 : Formed t5 := ht4.wrExact
  have ht6 : Formed t6 := ht5.sigWr
  have ht7 : Formed t7 := ht6.wf.wb
  have ht8 : Formed t8 := ht7.wb.wb
  exact ht8.wr.setSlot

protected theorem Formed.outPlain {n : Nat} {w : Word} {own : Bool} (hs : Formed s) : Formed (outPlain s n w own).2 :=
  Formed.ite hs.slotFlag.slotFlag.wr hs.slotFlag.slotFlag

protected theorem Formed.outManual {n : Nat} {w : Word} (hs : Formed s) : Formed (outManual s n w).2 := hs.slotFlag

protected theorem Formed.outSlew {n : Nat} {w : Word} (hs : Formed s) : Formed (outSlew s n w).2 := hs.slotFlag.slotFlag.wf.wb.wr

protected theorem Formed.outValue {n : Nat} {w : Word} (hs : Formed s) : Formed (outValue s n w).2 := by
  unfold outValue
  extract_lets _ _ t
  have ht : Formed t := hs.wb.adaptFlag
  refine Formed.ite_of Prod.snd ?_ ?_
  · exact Formed.ite_of Prod.snd hs.outHandover ht.outPlain
  · exact Formed.ite_of Prod.snd hs.outManual (Formed.ite_of Prod.snd hs.outSlew hs.outPlain)

protected theorem Formed.outEdges {n : Nat} {take : Option Nat} (hs : Formed s) : Formed (outEdges s n take) := by
  unfold outEdges
  extract_lets _ _ c t _ _ _ f _ _ _ src _
  have hc : Formed c.2 := hs.freshBit
  have ht : Formed t := hc
  have hf : Formed f.2 := Formed.ite_of Prod.snd ht.semFire ht.formWords
  have hsrc : Formed src := hf
  exact hsrc.mk

protected theorem Formed.execLawOut {n : Fin 128} (hs : Formed s) : FormedOut (execLawOut n s) := by
  unfold execLawOut
  refine Formed.lawStep hs (fun u _ h => ?_)
  extract_lets _ r u _ _ u1 q u2 _ u3
  have hr : Formed r.2 := h.outValue
  have hu : Formed u := hr.sigWr
  have hu1 : Formed u1 := hu.setSlot
  clear_value q
  have hu2 : Formed u2 := by
    unfold u2
    split
    · exact hu1.setSlot
    · exact hu1
  have hu3 : Formed u3 := hu2.mk.setPhase
  exact hu3.outEdges

protected theorem Formed.execLawMov {n : Fin 128} (hs : Formed s) : FormedOut (execLawMov n s) :=
  hs.lawStep (fun _ _ h => h.sigWr)

protected theorem Formed.execLawBar {n : Fin 128} (hs : Formed s) : FormedOut (execLawBar n s) := by
  unfold execLawBar
  refine Formed.lawStep hs (fun u _ h => ?_)
  split
  · exact h.startOutput
  · exact h.setPhase

protected theorem Formed.dmOnTime {m : Nat} (hs : Formed s) : Formed (dmOnTime s m) :=
  Formed.ite (Formed.ite ((Formed.ite hs.wf hs.wf.wb).setMon) hs.wf.setMon) hs.wf.setMon

protected theorem Formed.dmNext {m : Nat} (hs : Formed s) : Formed (dmNext s m) := by
  unfold dmNext
  split
  · exact hs.setMon.dmBegin
  · exact hs

protected theorem Formed.dmLate {m : Nat} {c : DmCheck} (hs : Formed s) : Formed (dmLate s m c) := by
  unfold dmLate
  extract_lets _ _ t t1 _
  have ht : Formed t := hs.maxTo
  have ht1 : Formed t1 := by
    unfold t1
    split
    · extract_lets t2
      have ht2 : Formed t2 := Formed.ite ht.wr ht
      exact Formed.ite ht2.wr ht2
    · exact ht
  exact ht1.setMon

protected theorem Formed.dmEnd {m : Nat} (hs : Formed s) : Formed (dmEnd s m) := by
  unfold dmEnd
  split
  · exact hs
  · refine Formed.ite ?_ ?_
    · exact hs.dmOnTime.dmNext
    · extract_lets t
      have ht : Formed t := Formed.ite hs hs.dmDetect
      split
      · exact ht.dmLate.dmNext
      · exact ht

protected theorem Formed.dmEndSlot {n endsel : Nat} (hs : Formed s) : Formed (dmEndSlot s n endsel) :=
  hs.foldl (fun _ _ h => h.dmEnd)

protected theorem Formed.imgWr {n off : Nat} {v : Word} (hs : Formed s) : Formed (imgWr s n off v) := hs.ramWr

protected theorem Formed.imageWrite {n : Nat} (hs : Formed s) : Formed (imageWrite s n) := by
  unfold imageWrite
  extract_lets _ _ rx _ _ _ t t1 t2 _
  clear_value rx
  have ht : Formed t := Formed.ite hs hs.ramChecks
  have ht1 : Formed t1 := ht.forN (fun _ _ h => h.imgWr)
  have ht2 : Formed t2 := ht1.imgWr.wf
  split
  · exact ht2.mk.wb
  · exact ht2

protected theorem Formed.execLawEnd {n : Fin 128} (hs : Formed s) : FormedOut (execLawEnd n s) :=
  hs.lawStep (fun _ _ h => h.semFire.dmEndSlot.imageWrite.coefCommit.setSlot)

protected theorem Formed.adoptWrite {n : Nat} (hs : Formed s) : Formed (adoptWrite s n) := hs.wb

protected theorem Formed.aeWriteOpen {n : Nat} {f : State → State} (hs : Formed s) (hf : ∀ u0, Formed u0 → Formed (f u0)) :
    FormedOut (aeWriteOpen n s f) :=
  FormedOut.ite hs.respond.ok (((hf _ hs).respond).ok)

protected theorem Formed.execSlotAdopt {n : Fin 128} (hs : Formed s) : FormedOut (execSlotAdopt n s) :=
  hs.aeWriteOpen (fun _ h => h.adoptWrite)

protected theorem Formed.bswapWrite {n : Nat} (hs : Formed s) : Formed (bswapWrite s n) := Formed.ite hs.wb hs.bankToggle

protected theorem Formed.execBswap {n : Fin 128} (hs : Formed s) : FormedOut (execBswap n s) :=
  hs.aeWriteOpen (fun _ h => h.bswapWrite)

protected theorem Formed.horeqWrite {n : Nat} (hs : Formed s) : Formed (horeqWrite s n) := Formed.ite hs hs.wb.setSlot

protected theorem Formed.execHoreq {n : Fin 128} (hs : Formed s) : FormedOut (execHoreq n s) :=
  hs.aeWriteOpen (fun _ h => h.horeqWrite)

protected theorem Formed.execManualModeWrite {q : Req} {n : Fin 128} {man : Bool} (hs : Formed s) :
    FormedOut (execManualModeWrite q n man s) :=
  hs.aeWrite (fun _ h => h.wb)

protected theorem Formed.execCbmodeWrite {q : Req} {n : Fin 128} {bank : Bool} (hs : Formed s) :
    FormedOut (execCbmodeWrite q n bank s) :=
  hs.aeWrite (fun _ h => h.wb)

protected theorem Formed.slotLockv {n : Nat} (hs : Formed s) : Formed (slotLockv s n) := hs.wb

protected theorem Formed.coefEnter {e off : Nat} {v : Word} (hs : Formed s) : Formed (coefEnter s e off v).2 :=
  Formed.ite_of Prod.snd hs.setCoefQ (Formed.ite_of Prod.snd hs.inc hs.setCoefQ)

protected theorem Formed.aeRamWrite {e off : Nat} {v : Word} (hs : Formed s) : Formed (aeRamWrite s e off v).2 := by
  unfold aeRamWrite
  refine Formed.ite_of Prod.snd ?_ ?_
  · exact hs.slotLockv
  · split
    · exact hs.foldl (fun _ _ h => h.slotLockv)
    · split
      · exact Formed.ite_of Prod.snd hs.slotLockv hs.coefEnter
      · exact hs.ramWr

protected theorem Formed.execCoefWrite {n w : Fin 128} {v : Word} (hs : Formed s) : FormedOut (execCoefWrite n w v s) :=
  FormedOut.ite hs.respond.ok hs.aeRamWrite.respond.ok

protected theorem Formed.clearTo {a : Nat} {mine : List HwSet} {w : Word} (hs : Formed s) : Formed (clearTo s a mine w) :=
  Formed.ite hs.wr (Formed.ite hs.freshBit.wr hs.freshBit.wr.mk)

protected theorem Formed.regPut {a : Nat} {may : Bool} {v : Word} (hs : Formed s) : Formed (regPut s a may v) := by
  unfold regPut
  split
  · exact hs.clearTo
  · exact hs

protected theorem Formed.tmplWrite {n e : Nat} {may : Bool} {v : Word} (hs : Formed s) : Formed (tmplWrite s n e may v) :=
  Formed.ite hs.regPut.adtPreset hs.regPut

protected theorem Formed.execTemplateWrite {q : Req} {n : Fin 128} {e : Fin 8} {v : Word} (hs : Formed s) :
    FormedOut (execTemplateWrite q n e v s) :=
  hs.aeWrite (fun _ h => h.tmplWrite)

protected theorem Formed.adtWindowWrite {n : Nat} {v : Word} (hs : Formed s) : Formed (adtWindowWrite s n v) :=
  Formed.ite hs.wf.wf.wf.wf.adaptFlag hs.wf.wf.wf.wf

protected theorem Formed.phsWindowWrite {g : Nat} {v : Word} (hs : Formed s) : Formed (phsWindowWrite s g v) :=
  Formed.ite hs.wf.wf.wf.wf.adaptFlag hs.wf.wf.wf.wf

protected theorem Formed.plcwinWrite {q : Req} {v : Word} (hs : Formed s) : Formed (plcwinWrite s q v) :=
  Formed.ite hs.respond ((Formed.ite hs.wf.wf.wf.wf.wb hs.wf.wf.wf.wf).respond)

protected theorem Formed.execPolicyWindowWrite {q : Req} {k : Fin 3} {i : Fin 128} {v : Word} (hs : Formed s) :
    FormedOut (execPolicyWindowWrite q k i v s) := by
  unfold execPolicyWindowWrite
  split
  · exact FormedOut.ite hs.respond.ok (FormedOut.ite hs.adtWindowWrite.respond.ok hs.respond.ok)
  · exact FormedOut.ite hs.respond.ok (FormedOut.ite hs.phsWindowWrite.respond.ok hs.respond.ok)
  · exact FormedOut.ite hs.plcwinWrite.ok hs.respond.ok

protected theorem Formed.slotUnpark {g n : Nat} (hs : Formed s) : Formed (slotUnpark s g n) :=
  Formed.ite hs.wb.setSlot.setPhase hs.wb.setSlot

protected theorem Formed.phsSync {g : Nat} (hs : Formed s) : Formed (phsSync s g) := hs.wf.wf

protected theorem Formed.phsUpdate {g : Nat} {load : Word} (hs : Formed s) : Formed (phsUpdate s g load) := by
  unfold phsUpdate
  extract_lets _ _ _ _ _ _ _ _ _ _ _ _ t _ _ setLow t1
  have ht : Formed t := Formed.ite hs.adaptFlag.inc hs
  have hsetLow : ∀ u0 x1, Formed u0 → Formed (setLow u0 x1) := fun _ _ h => h.mk
  have ht1 : Formed t1 := by
    unfold t1
    refine Formed.ite ?_ ?_
    · split
      · exact hsetLow _ _ ht.slotUnpark
      · exact hsetLow _ _ ht
    · refine Formed.ite ?_ ?_
      · refine Formed.ite ?_ ?_
        · split
          · exact hsetLow _ _ ht.setSlot
          · exact hsetLow _ _ ht
        · exact hsetLow _ _ ht
      · exact hsetLow _ _ ht
  exact ht1.phsSync

protected theorem Formed.execPhaseGroupUpdate {g : Fin 4} (hs : Formed s) : FormedOut (execPhaseGroupUpdate g s) := by
  unfold execPhaseGroupUpdate
  split
  · extract_lets _ t _
    have ht : Formed t := hs.mk
    exact hs.onlyIf (Formed.ite ht.phsUpdate ht)
  · exact hs.ok

protected theorem Formed.cellInputsClear {c : Nat} (hs : Formed s) : Formed (cellInputsClear s c) := hs.mk

protected theorem Formed.cellEnable {c : Nat} (hs : Formed s) : Formed (cellEnable s c) :=
  Formed.ite hs.cellInputsClear.wb.wb.setCell.dmResumeAll hs.wb

protected theorem Formed.execSspCellEnable {q : Req} {c : Fin 8} (hs : Formed s) : FormedOut (execSspCellEnable q c s) := by
  unfold execSspCellEnable
  refine FormedOut.ite ?_ ?_
  · exact hs.respond.ok
  · exact FormedOut.ite hs.respond.ok (FormedOut.ite hs.respond.ok hs.cellEnable.respond.ok)

protected theorem Formed.cellDisable {c : Nat} (hs : Formed s) : Formed (cellDisable s c) := hs.wb.setCell.mk.dmSuspendAll

protected theorem Formed.execSspCellDisable {q : Req} {c : Fin 8} (hs : Formed s) : FormedOut (execSspCellDisable q c s) := by
  unfold execSspCellDisable
  refine FormedOut.ite ?_ ?_
  · exact hs.respond.ok
  · exact FormedOut.ite hs.respond.ok (FormedOut.ite hs.respond.ok hs.cellDisable.respond.ok)

protected theorem Formed.cellTake {c : Nat} {tr : DmStart × Nat} (hs : Formed s) : Formed (cellTake s c tr) :=
  Formed.ite hs.setCell.wb (Formed.ite hs.setCell.wb hs.setCell.mk)

protected theorem Formed.execSspTrigger {c : Fin 8} (hs : Formed s) : FormedOut (execSspTrigger c s) := by
  unfold execSspTrigger
  split
  · extract_lets _ _ t t1
    have ht : Formed t := hs.mk
    have ht1 : Formed t1 := ht.setCell
    exact hs.onlyIf (Formed.ite ht1.cellTake.dmStartAll ht.setCell)
  · exact hs.ok

protected theorem Formed.cellFlag {c : Nat} {f : Fld} {b : Bool} (hs : Formed s) : Formed (cellFlag s c f b) :=
  Formed.ite hs.wb hs

protected theorem Formed.execSspDispatch (hs : Formed s) : FormedOut (execSspDispatch s) := by
  unfold execSspDispatch
  split
  · exact hs.ok
  · split
    · exact hs.ok
    · split
      · exact hs.ok
      · extract_lets _ _ _ _ _ _ t _ t1 t2 _
        have ht : Formed t := hs.cellFlag
        have ht1 : Formed t1 := ht.setCell
        have ht2 : Formed t2 := ht1.wbit
        exact hs.onlyIf ht2.mk

protected theorem Formed.sspRtrq {c : Nat} (hs : Formed s) : Formed (sspRtrq s c) := by
  unfold sspRtrq
  split
  · exact hs.wb.setCell
  · exact hs

protected theorem Formed.execSspRtrq {c : Fin 8} (hs : Formed s) : FormedOut (execSspRtrq c s) :=
  FormedOut.ite hs.respond.ok hs.sspRtrq.respond.ok

protected theorem Formed.sspArmrq {c : Nat} (hs : Formed s) : Formed (sspArmrq s c) := by
  unfold sspArmrq
  split
  · exact hs.wb.setCell
  · exact hs

protected theorem Formed.execSspArmrq {c : Fin 8} (hs : Formed s) : FormedOut (execSspArmrq c s) :=
  FormedOut.ite hs.respond.ok hs.sspArmrq.respond.ok

protected theorem Formed.clearBit {a : Nat} {f : Fld} (hs : Formed s) : Formed (clearBit s a f) := hs.clearTo

protected theorem Formed.jtnsWrite {may : Bool} {v : Word} (hs : Formed s) : Formed (jtnsWrite s may v) :=
  Formed.ite hs.mk.clearBit hs.mk

protected theorem Formed.execJtnsWrite {q : Req} {v : Word} (hs : Formed s) : FormedOut (execJtnsWrite q v s) :=
  hs.jtnsWrite.respond.ok

protected theorem Formed.jtsecWrite {v : Word} (hs : Formed s) : Formed (jtsecWrite s v) := Formed.ite hs.mk.wb hs.mk.mk

protected theorem Formed.execJtsecWrite {q : Req} {v : Word} (hs : Formed s) : FormedOut (execJtsecWrite q v s) :=
  FormedOut.ite hs.jtsecWrite.respond.ok hs.respond.ok

protected theorem Formed.jtsecRead (hs : Formed s) : Formed (jtsecRead s).2 := hs.mk

protected theorem Formed.execJtsecRead (hs : Formed s) : FormedOut (execJtsecRead s) := hs.jtsecRead.respond.ok

protected theorem Formed.execCadenceTick {g : Fin 16} (hs : Formed s) : FormedOut (execCadenceTick g s) :=
  hs.onlyIf ((((Formed.ite hs.mk.inc hs.mk).wb).semFire).dmStartAll)

protected theorem Formed.cgEnable {g : Nat} (hs : Formed s) : Formed (cgEnable s g) := hs.wb.mk.dmResumeAll

protected theorem Formed.execCgEnable {q : Req} {g : Fin 16} (hs : Formed s) : FormedOut (execCgEnable q g s) :=
  FormedOut.ite hs.respond.ok (FormedOut.ite hs.respond.ok hs.cgEnable.respond.ok)

protected theorem Formed.dmLose {m : Nat} (hs : Formed s) : Formed (dmLose s m) :=
  Formed.ite hs (Formed.ite hs.setMon.dmNext.dmSuspend hs.setMon.dmNext)

protected theorem Formed.execDeadlineMiss {m : Fin 256} (hs : Formed s) : FormedOut (execDeadlineMiss m s) := by
  unfold execDeadlineMiss
  split
  · exact hs.onlyIf (Formed.ite hs.dmDetect.dmLose hs.dmDetect)
  · exact hs.ok

protected theorem Formed.execDmGap {m : Fin 256} (hs : Formed s) : FormedOut (execDmGap m s) := hs.onlyIf hs.setMon.dmMiss

protected theorem Formed.dmdoneWrite {q : Req} {m : Nat} (hs : Formed s) : Formed (dmdoneWrite s q m) :=
  (Formed.ite hs.dmEnd hs.wb).respond

protected theorem Formed.execPctlDmdone {q : Req} {m : Fin 256} (hs : Formed s) : FormedOut (execPctlDmdone q m s) :=
  hs.dmdoneWrite.ok

protected theorem Formed.dmRelease {m : Nat} (hs : Formed s) : Formed (dmRelease s m) :=
  Formed.ite ((Formed.ite hs hs.wb).setMon) hs

protected theorem Formed.execDmMissClear {m : Fin 256} (hs : Formed s) : FormedOut (execDmMissClear m s) :=
  hs.clearBit.dmRelease.respond.ok

protected theorem Formed.dmEnable {m : Nat} (hs : Formed s) : Formed (dmEnable s m) :=
  Formed.ite hs.wb.wf.dmSuspend hs.wb.wf.dmResume

protected theorem Formed.execDmEnable {q : Req} {m : Fin 256} (hs : Formed s) : FormedOut (execDmEnable q m s) :=
  FormedOut.ite hs.respond.ok (FormedOut.ite hs.respond.ok hs.dmEnable.respond.ok)

protected theorem Formed.semArrival {p : Nat} {half : Bool} (hs : Formed s) : Formed (semArrival s p half).2 := by
  unfold semArrival
  exact Formed.ite_of Prod.snd hs (Formed.ite_of Prod.snd hs (Formed.ite_of Prod.snd hs.freshBit hs))

protected theorem Formed.semCount {c : Nat} (hs : Formed s) : Formed (semCount s c) := hs.inc

protected theorem Formed.semDrop {c : Nat} (hs : Formed s) : Formed (semDrop s c) := hs.inc

protected theorem Formed.setCore {k : Nat} {c : Core} (hs : Formed s) : Formed (setCore s k c) := hs.mk

protected theorem Formed.setEventFlag {k e : Nat} (hs : Formed s) : Formed (setEventFlag s k e) := hs.setCore

protected theorem Formed.traceTrigger {t : Nat} (hs : Formed s) : Formed (traceTrigger s t) := by
  unfold traceTrigger
  exact Formed.ite (Formed.ite (((Formed.ite hs.wb hs).raiseTrace).wb) ((Formed.ite hs.wb hs).raiseTrace)) hs

protected theorem Formed.semDeliver {c cons p : Nat} {half : Bool} (hs : Formed s) : Formed (semDeliver s c cons p half) := by
  unfold semDeliver
  refine Formed.ite ?_ ?_
  · exact Formed.ite hs.semArrival.mk.semCount hs.semDrop
  · refine Formed.ite ?_ ?_
    · exact hs.strobe.semCount
    · refine Formed.ite ?_ ?_
      · extract_lets _
        exact Formed.ite hs.setEventFlag.semCount hs.semDrop
      · exact Formed.ite (Formed.ite hs.traceTrigger.semCount hs.semDrop) hs

protected theorem Formed.semRoute {c p : Nat} {half : Bool} (hs : Formed s) : Formed (semRoute s c p half) :=
  Formed.ite hs.inc hs.semDeliver.mk

protected theorem Formed.semRouteAll {p : Nat} {half : Bool} (hs : Formed s) : Formed (semRouteAll s p half) :=
  hs.forN (fun _ _ h => (Formed.ite h.semRoute h))

protected theorem Formed.execSemEvent {half : Bool} (hs : Formed s) : FormedOut (execSemEvent half s) := by
  unfold execSemEvent
  split
  · exact hs.ok
  · extract_lets _ t
    have ht : Formed t := hs.mk
    exact (Formed.ite ht.semRouteAll ht).ok

protected theorem Formed.semFlags {l : List Fld} (hs : Formed s) : Formed (semFlags s l) := hs.foldl (fun _ _ h => h.wb)

protected theorem Formed.setCons {i : Nat} {b : Option Nat} (hs : Formed s) : Formed (setCons s i b) := by
  unfold setCons
  split
  · exact hs.wr
  · exact hs.wb.wf

protected theorem Formed.semUnbind {n : Nat} {was : Word} (hs : Formed s) : Formed (semUnbind s n was) :=
  (Formed.ite hs.setCons.wr.setCons hs.setCons.wr).mk

protected theorem Formed.semChPut {n : Nat} {v : Word} (hs : Formed s) : Formed (semChPut s n v) := by
  unfold semChPut
  extract_lets _ _ _ t t1 _ t2 _ _
  have ht : Formed t := Formed.ite hs.setCons hs
  have ht1 : Formed t1 := ht.regPut
  have ht2 : Formed t2 := ht1.setCons
  exact Formed.ite ht2.mk ht1

protected theorem Formed.semChWrite {q : Req} {n : Nat} {v : Word} (hs : Formed s) : Formed (semChWrite s q n v) := by
  unfold semChWrite
  refine Formed.ite ?_ ?_
  · exact hs.respond
  · split
    · exact hs.semFlags.respond
    · refine Formed.ite ?_ ?_
      · split
        · exact Formed.ite hs.freshBit.semUnbind.semChPut.semFlags.respond hs.freshBit.semFlags.respond
        · exact hs.semFlags.respond
      · exact hs.semChPut.respond

protected theorem Formed.execSemChcfgWrite {q : Req} {n : Fin 256} {v : Word} (hs : Formed s) :
    FormedOut (execSemChcfgWrite q n v s) :=
  hs.semChWrite.ok

protected theorem Formed.swevWrite {v : Nat} (hs : Formed s) : Formed (swevWrite s v) :=
  Formed.ite hs.respond ((hs.forN (fun _ _ h => (Formed.ite h.semFire h))).respond)

protected theorem Formed.execSemSwev {v : BitVec 32} (hs : Formed s) : FormedOut (execSemSwev v s) := hs.swevWrite.ok

protected theorem Formed.tglockWrite {q : Req} {v : Nat} (hs : Formed s) : Formed (tglockWrite s q v) :=
  Formed.ite hs.wf.respond hs.respond

protected theorem Formed.execSemTglock {q : Req} {v : BitVec 16} (hs : Formed s) : FormedOut (execSemTglock q v s) :=
  hs.tglockWrite.ok

protected theorem Formed.tgMatrixWrite {q : Req} {g w : Nat} {v : Word} (hs : Formed s) : Formed (tgMatrixWrite s q g w v) := by
  unfold tgMatrixWrite
  exact Formed.ite ((Formed.ite hs.wb hs).respond) (Formed.ite hs.regPut.tripSync.respond hs.respond)

protected theorem Formed.execSemTgmatrixWrite {q : Req} {g : Fin 16} {w : Fin 3} {v : Word} (hs : Formed s) :
    FormedOut (execSemTgmatrixWrite q g w v s) :=
  hs.tgMatrixWrite.ok

protected theorem Formed.srcTally {n e c : Nat} (hs : Formed s) : Formed (srcTally s n e c) := Formed.ite hs.wf.wb hs.wf

protected theorem Formed.srcStrobe {n : Nat} (hs : Formed s) : Formed (srcStrobe s n) := Formed.ite hs.mk.srcTally hs

protected theorem Formed.srcSync {n : Nat} (hs : Formed s) : Formed (srcSync s n) := Formed.ite hs.wb.srcTally hs.wb

protected theorem Formed.execIntcSourceEvent {n : Fin 512} (hs : Formed s) : FormedOut (execIntcSourceEvent n s) :=
  hs.onlyIf (Formed.ite hs.srcStrobe hs.srcSync)

protected theorem Formed.selView (hs : Formed s) : Formed (selView s) :=
  hs.foldl (fun _ _ h => (Formed.ite h.freshBit.wr h.freshBit))

protected theorem Formed.present {k n : Nat} {cl : Bool} (hs : Formed s) : Formed (present s k n cl) := hs.wf.wb.mk

protected theorem Formed.execIntcSelect {k : Fin 10} (hs : Formed s) : FormedOut (execIntcSelect k s) := by
  unfold execIntcSelect
  extract_lets v
  have hv : Formed v := hs.selView
  split
  · exact hs.mk.ok
  · exact hs.mk.present.ok

protected theorem Formed.holdRestart {n : Nat} (hs : Formed s) : Formed (holdRestart s n) := hs.mk

protected theorem Formed.claimSource {k n : Nat} (hs : Formed s) : Formed (claimSource s k n) :=
  Formed.ite hs.wb.wf.srcTally.mk hs.wb.wf.srcTally.mk.holdRestart

protected theorem Formed.claimRead {who k : Nat} (hs : Formed s) : Formed (claimRead s who k) :=
  Formed.ite hs.respond (Formed.ite hs.wb.claimSource.respond hs.wb.inc.respond)

protected theorem Formed.execIntcClaim {q : Req} {k : Fin 10} (hs : Formed s) : FormedOut (execIntcClaim q k s) := hs.claimRead.ok

protected theorem Formed.leaveService {n : Nat} (hs : Formed s) : Formed (leaveService s n) := hs.wb.wf.mk

protected theorem Formed.eoiWrite {k n : Nat} (hs : Formed s) : Formed (eoiWrite s k n) :=
  (Formed.ite hs.leaveService hs.wb).respond

protected theorem Formed.execIntcEoi {k : Fin 10} {n : Fin 512} (hs : Formed s) : FormedOut (execIntcEoi k n s) := hs.eoiWrite.ok

protected theorem Formed.msetWrite {n : Nat} (hs : Formed s) : Formed (msetWrite s n) := (Formed.ite hs.strobe hs.wb).respond

protected theorem Formed.execIntcMset {n : Fin 512} (hs : Formed s) : FormedOut (execIntcMset n s) := hs.msetWrite.ok

protected theorem Formed.execHoldoffExpiry {q : Fin 32} (hs : Formed s) : FormedOut (execHoldoffExpiry q s) := hs.onlyIf hs.mk

protected theorem Formed.withdraw {k : Nat} (hs : Formed s) : Formed (withdraw s k) := Formed.ite hs.wb.mk hs

protected theorem Formed.mayWithdraw {k : Nat} (hs : Formed s) : Formed (mayWithdraw s k) :=
  Formed.ite hs.freshBit.withdraw hs.freshBit

protected theorem Formed.spare {k p : Nat} (hs : Formed s) : Formed (spare s k p) := Formed.ite hs.mk hs

protected theorem Formed.srcWrite {q : Req} {n : Nat} {v : Word} (hs : Formed s) : Formed (srcWrite s q n v) := by
  unfold srcWrite
  extract_lets _ t _ t1 _ t2 u
  have ht : Formed t := hs.regPut
  have ht1 : Formed t1 := hs.regPut
  have ht2 : Formed t2 := ht1.mk
  have hu : Formed u := by
    unfold u
    exact ht2.forN (fun _ _ h => (Formed.ite ((Formed.ite h.mayWithdraw h).spare) (Formed.ite h.mayWithdraw h)))
  exact Formed.ite ((Formed.ite ht.wb ht).respond) hu.respond

protected theorem Formed.execIntcSrcWrite {q : Req} {n : Fin 512} {v : Word} (hs : Formed s) :
    FormedOut (execIntcSrcWrite q n v s) :=
  hs.srcWrite.ok

protected theorem Formed.pholdWrite {q : Req} {b : Bool} (hs : Formed s) : Formed (pholdWrite s q b) := by
  unfold pholdWrite
  exact Formed.ite hs.respond ((Formed.ite (hs.wb.forN (fun _ _ h => (Formed.ite h.mayWithdraw h))) hs.wb).respond)

protected theorem Formed.execIntcPholdWrite {q : Req} {hold : Bool} (hs : Formed s) : FormedOut (execIntcPholdWrite q hold s) :=
  hs.pholdWrite.ok

protected theorem Formed.takeAsyncs {k : Nat} (hs : Formed s) : Formed (takeAsyncs s k) := Formed.ite hs hs.mk.setCore

protected theorem Formed.coreYield {k : Nat} (hs : Formed s) : Formed (coreYield s k) := hs.setCore

protected theorem Formed.onCpt {f : Cpt → Cpt} (hs : Formed s) : Formed (onCpt s f) := hs.mk

protected theorem Formed.setBuf {b : Nat} {x2 : CptBuf} (hs : Formed s) : Formed (setBuf s b x2) := hs.onCpt

protected theorem Formed.cptSync (hs : Formed s) : Formed (cptSync s) := by
  unfold cptSync
  extract_lets t t1
  have ht : Formed t := hs.wf
  have ht1 : Formed t1 := ht.forN (fun _ _ h => h.wf)
  split
  · exact ht1.wb.wf.wf
  · exact ht1.wr

protected theorem Formed.setBufState {b st : Nat} (hs : Formed s) : Formed (setBufState s b st) :=
  Formed.ite hs.wr.setBuf.cptSync hs.wf.cptSync

protected theorem Formed.unqueue {b : Nat} (hs : Formed s) : Formed (unqueue s b) := hs.onCpt.cptSync

protected theorem Formed.cptLost {r : Nat} (hs : Formed s) : Formed (cptLost s r) := by
  unfold cptLost
  refine Formed.ite ?_ ?_
  · exact hs
  · extract_lets t
    have ht : Formed t := hs.onCpt
    refine Formed.foldl ht fun u x h => ?_
    refine Formed.ite ?_ ?_
    · exact h
    · split
      · exact h.setBufState
      · exact h.setBufState
      · exact h.unqueue.setBufState
      · exact h.setBufState
      · exact h

protected theorem Formed.unitWait {port a : Nat} (hs : Formed s) : Formed (unitWait s port a) :=
  Formed.ite hs.freshWord.maxTo hs

protected theorem Formed.grantNote {b n : Nat} (hs : Formed s) : Formed (grantNote s b n) := hs.mk

protected theorem Formed.takeGrant {port a : Nat} (hs : Formed s) : Formed (takeGrant s port a) := by
  unfold takeGrant
  split
  · extract_lets _ t _
    have ht : Formed t := Formed.ite hs.grantNote hs
    exact ht.mk
  · exact hs

protected theorem Formed.spend {k n : Nat} (hs : Formed s) : Formed (spend s k n) := hs.setCore

protected theorem Formed.ownRetry {a port : Nat} (hs : Formed s) : Formed (ownRetry s a port) := by
  unfold ownRetry
  split
  · exact Formed.ite hs.spend hs
  · exact Formed.ite hs.spend hs
  · exact hs

protected theorem Formed.meetOne {a port : Nat} {write : Bool} (hs : Formed s) : Formed (meetOne s a port write) :=
  Formed.ite (Formed.ite hs.freshBit.inc.ownRetry hs.freshBit) hs

protected theorem Formed.beat {a port : Nat} {write auto : Bool} (hs : Formed s) : Formed (beat s a port write auto) :=
  (Formed.ite hs.unitWait.takeGrant.meetOne hs.unitWait.takeGrant).mk

protected theorem Formed.storeFresh {a : Nat} (hs : Formed s) : Formed (storeFresh s a) := hs.setUpset.setUpset

protected theorem Formed.tagWr {a : Nat} {b : Bool} (hs : Formed s) : Formed (tagWr s a b) := Memory.wf_tagWr a b hs

protected theorem Formed.arrayWrite {a port : Nat} {v : Word} {auto : Bool} (hs : Formed s) :
    Formed (arrayWrite s a port v auto).2 := by
  unfold arrayWrite
  extract_lets _ t
  have ht : Formed t := hs.beat
  refine Formed.ite_of Prod.snd ?_ ?_
  · exact hs
  · split
    · exact ht.aeRamWrite
    · exact ht.storeFresh.memWr.tagWr

protected theorem Formed.ownStore {a port : Nat} {v : Word} (hs : Formed s) : Formed (ownStore s a port v) := hs.arrayWrite

protected theorem Formed.bufStore {b i : Nat} {w : Word} (hs : Formed s) : Formed (bufStore s b i w) := hs.ownStore

protected theorem Formed.arrayOwn {a port : Nat} {auto tags : Bool} (hs : Formed s) :
    Formed (arrayOwn s a port auto tags).2.2 := by
  unfold arrayOwn
  extract_lets _ e
  have he : Formed e.2 := hs.beat.eccCheck
  exact Formed.ite_of (fun p => Prod.snd (Prod.snd (p))) hs (Formed.ite_of (fun p => Prod.snd (Prod.snd (p))) he he)

protected theorem Formed.ownCheck {a port : Nat} (hs : Formed s) : Formed (ownCheck s a port) :=
  Formed.ite hs.arrayOwn.fresh hs.arrayOwn

protected theorem Formed.ownChecks {a n port : Nat} (hs : Formed s) : Formed (ownChecks s a n port) :=
  hs.forN (fun _ _ h => h.ownCheck)

protected theorem Formed.bufChecks {b i n : Nat} (hs : Formed s) : Formed (bufChecks s b i n) := hs.ownChecks

protected theorem Formed.hmpIssueOne (hs : Formed s) : Formed (hmpIssueOne s) := by
  unfold hmpIssueOne
  split
  · exact hs.mk
  · exact hs

protected theorem Formed.hmpIssue (hs : Formed s) : Formed (hmpIssue s) := Formed.ite (hs.forN (fun _ _ h => h.hmpIssueOne)) hs

protected theorem Formed.hmpReq {use : HmpUse} {write : Bool} {addr len : Nat} {data : List Word} {pers dev : Bool}
    (hs : Formed s) :
    Formed (hmpReq s use write addr len data pers dev) :=
  Formed.ite hs.mk.hmpIssue hs.mk

protected theorem Formed.copyStart {use : HmpUse} {c : CptCopy} (hs : Formed s) : Formed (copyStart s use c) :=
  Formed.foldl_snd hs (fun _ _ h => h.hmpReq)

protected theorem Formed.unitStrobe {d n : Nat} (hs : Formed s) : Formed (unitStrobe s d n) := Formed.ite hs.strobe hs

protected theorem Formed.cptReplyTo {b status : Nat} {detail len : Nat} (hs : Formed s) :
    Formed (cptReplyTo s b status detail len) := by
  unfold cptReplyTo
  extract_lets _ _ _ t t1
  have ht : Formed t := hs.bufStore.bufStore
  have ht1 : Formed t1 := Formed.ite ht.wb.inc (Formed.ite ht.wb ht)
  split
  · extract_lets _
    exact ht1.bufChecks.onCpt.copyStart
  · exact ht1.unitStrobe

protected theorem Formed.cptFinish {b status : Nat} {detail len : Nat} (hs : Formed s) :
    Formed (cptFinish s b status detail len) :=
  hs.unqueue.setBufState.cptReplyTo

protected theorem Formed.svenClear (hs : Formed s) : Formed (svenClear s) := by
  unfold svenClear
  refine Formed.ite ?_ ?_
  · exact hs
  · extract_lets t t1
    have ht : Formed t := hs.wb
    have ht1 : Formed t1 := by
      unfold t1
      refine Formed.foldl ht fun u x h => ?_
      refine Formed.ite ?_ ?_
      · exact h.cptFinish
      · exact Formed.ite (Formed.ite h.setBufState.cptReplyTo h.setBufState.cptReplyTo.setBufState) h
    exact ht1.onCpt

protected theorem Formed.coreLost {k : Nat} (hs : Formed s) : Formed (coreLost s k) := Formed.ite hs.cptLost.svenClear hs.cptLost

protected theorem Formed.intcCoreLost {k : Nat} (hs : Formed s) : Formed (intcCoreLost s k) :=
  hs.withdraw.foldl (fun _ _ h => h.leaveService)

protected theorem Formed.onPctl {f : Pctl → Pctl} (hs : Formed s) : Formed (onPctl s f) := hs.mk

protected theorem Formed.setPdRun {d : Nat} {r : PdRun} (hs : Formed s) : Formed (setPdRun s d r) := hs.onPctl

protected theorem Formed.sourcesFall {d : Nat} (hs : Formed s) : Formed (sourcesFall s d) := hs.forN (fun _ _ h => h.wb)

protected theorem Formed.driveSync (hs : Formed s) : Formed (driveSync s) := (Formed.ite hs.wb.wb.wb hs.wb.wb).safeSync

protected theorem Formed.setSend {l : List SendEnt} (hs : Formed s) : Formed (setSend s l) := hs.mk

protected theorem Formed.epochWrite {e : Nat} {claim hold : Bool} (hs : Formed s) : Formed (epochWrite s e claim hold) := by
  unfold epochWrite
  extract_lets _ t t1
  have ht : Formed t := Formed.ite hs hs.mk
  have ht1 : Formed t1 := ht.wb.wb.wf
  exact Formed.ite ht1 ht1.setSend

protected theorem Formed.onPne {f : Pne → Pne} (hs : Formed s) : Formed (onPne s f) := hs.mk

protected theorem Formed.hmpDrop {p : HmpUse → Bool} (hs : Formed s) : Formed (hmpDrop s p) := hs.mk

protected theorem Formed.setUnit {u : Nat} {x2 : PUnit} (hs : Formed s) : Formed (setUnit s u x2) := hs.mk

protected theorem Formed.endRestore {u : Nat} (hs : Formed s) : Formed (endRestore s u) := by
  unfold endRestore
  extract_lets _ t
  have ht : Formed t := by
    unfold t
    split
    · exact Formed.ite hs.hmpDrop hs
    · exact hs
  exact ht.setUnit

protected theorem Formed.dropRestore {u : Nat} (hs : Formed s) : Formed (dropRestore s u) := hs.onPne.endRestore

protected theorem Formed.pneLeaveActive (hs : Formed s) : Formed (pneLeaveActive s) := hs.foldl (fun _ _ h => h.dropRestore)

protected theorem Formed.ownPut {a : Nat} {v : Word} (hs : Formed s) : Formed (ownPut s a v) :=
  Formed.ite hs.storeFresh.memWr.tagWr hs

protected theorem Formed.setWacSt {t i : Nat} {w : Word} (hs : Formed s) : Formed (setWacSt s t i w) := hs.ownPut

protected theorem Formed.onWac {f : Wac → Wac} (hs : Formed s) : Formed (onWac s f) := hs.mk

protected theorem Formed.wacLeaveActive (hs : Formed s) : Formed (wacLeaveActive s) := by
  unfold wacLeaveActive
  exact Formed.ite ((((((hs.forN (fun _ _ h => (h.foldl (fun _ _ h1 => h1.setWacSt)))).wb).wb).wb).onPne).onWac) hs

protected theorem Formed.onMlk {f : Mlk → Mlk} (hs : Formed s) : Formed (onMlk s f) := hs.mk

protected theorem Formed.onJne {f : Jne → Jne} (hs : Formed s) : Formed (onJne s f) := hs.mk

protected theorem Formed.resyncOff (hs : Formed s) : Formed (resyncOff s) := hs.wb.onMlk.onJne

protected theorem Formed.setLive {b : Bool} (hs : Formed s) : Formed (setLive s b) := hs.onJne.wb.wb

protected theorem Formed.ownRecord {kind : Nat} {body : List Nat} (hs : Formed s) : Formed (ownRecord s kind body) := hs.onJne

protected theorem Formed.mirrorStale (hs : Formed s) : Formed (mirrorStale s) :=
  Formed.ite hs.resyncOff.onMlk.setLive.wb.ownRecord.onJne hs.resyncOff.onMlk

protected theorem Formed.leaveActive (hs : Formed s) : Formed (leaveActive s) := by
  unfold leaveActive
  extract_lets t t1 t2 t3 t4
  have ht : Formed t := hs.mk.driveSync
  have ht1 : Formed t1 := ht.epochWrite
  have ht2 : Formed t2 := ht1.pneLeaveActive.wacLeaveActive
  have ht3 : Formed t3 := ht2.forN (fun _ _ h => h.dmSuspendAll)
  have ht4 : Formed t4 := ht3.forN (fun _ _ h => h.dmSuspendAll)
  exact ht4.mirrorStale.onMlk.wb

protected theorem Formed.setRxImg {n : Nat} {r : RxImg} (hs : Formed s) : Formed (setRxImg s n r) := hs.mk

protected theorem Formed.countConf {was is_ : Bool} (hs : Formed s) : Formed (countConf s was is_) := hs.wf

protected theorem Formed.entStore {a : Nat} {v : Word} (hs : Formed s) : Formed (entStore s a v) := hs.ownStore

protected theorem Formed.entPut {a : Nat} {f : Fld} {v : Nat} (hs : Formed s) : Formed (entPut s a f v) := hs.entStore

protected theorem Formed.pneFlushUnsent (hs : Formed s) : Formed (pneFlushUnsent s) :=
  Formed.ite hs (hs.onPne.foldl (fun _ _ h => h.raiseRec))

protected theorem Formed.pneHand {r : RecReq} (hs : Formed s) : Formed (pneHand s r) := hs.onPne.pneFlushUnsent

protected theorem Formed.pneJournal {op : Option PneOp} {kind : Nat} {body : List Word} {n : Nat} {v : Word} {m : Nat}
    (hs : Formed s) :
    Formed (pneJournal s op kind body n v m) := by
  unfold pneJournal
  extract_lets _ t t1
  have ht : Formed t := hs.onPne
  have ht1 : Formed t1 := by
    unfold t1
    split
    · exact ht.entPut
    · exact ht
  exact ht1.pneHand

protected theorem Formed.unitRecord {u old : Nat} (hs : Formed s) : Formed (unitRecord s u old) := by
  unfold unitRecord
  extract_lets _
  exact hs.pneJournal

protected theorem Formed.beginScan {u : Nat} (hs : Formed s) : Formed (beginScan s u) :=
  Formed.ite hs (Formed.ite hs.setUnit (Formed.ite hs.dropRestore.setUnit hs))

protected theorem Formed.activateUnit {u : Nat} (hs : Formed s) : Formed (activateUnit s u) :=
  (Formed.ite hs.wf.wf.countConf.setUnit hs.wf.wf.countConf.setUnit.unitRecord).beginScan

protected theorem Formed.pneEnterActive (hs : Formed s) : Formed (pneEnterActive s) :=
  Formed.ite (hs.foldl (fun _ _ h => h.activateUnit)) hs

protected theorem Formed.enterActive (hs : Formed s) : Formed (enterActive s) := by
  unfold enterActive
  extract_lets t t1
  have ht : Formed t := hs.epochWrite
  have ht1 : Formed t1 := by
    unfold t1
    refine Formed.foldl ht fun u x h => ?_
    refine Formed.ite ?_ ?_
    · extract_lets u
      have hu : Formed u := h.horeqWrite
      split
      · exact hu.setRxImg
      · exact hu
    · exact h
  exact ht1.onMlk.pneEnterActive

protected theorem Formed.enterRole {new : Nat} (hs : Formed s) : Formed (enterRole s new) := by
  unfold enterRole
  extract_lets _ t t1 t2 t3 t4 t5 t6
  have ht : Formed t := Formed.ite hs.leaveActive hs
  have ht1 : Formed t1 := ht.wf
  have ht2 : Formed t2 := Formed.ite ht1.wb ht1
  have ht3 : Formed t3 := ht2.wb
  have ht4 : Formed t4 := ht3.onMlk
  have ht5 : Formed t5 := ht4.semFire.wb
  have ht6 : Formed t6 := Formed.ite ht5.enterActive ht5
  exact ht6.raiseEv

protected theorem Formed.roleOff (hs : Formed s) : Formed (roleOff s) :=
  Formed.ite hs (Formed.ite hs.enterRole.epochWrite hs.enterRole)

protected theorem Formed.onDbg {f : Dbg → Dbg} (hs : Formed s) : Formed (onDbg s f) := hs.mk

protected theorem Formed.coreResume {k : Nat} (hs : Formed s) : Formed (coreResume s k) := (Formed.ite hs.setCore.wb hs).onDbg

protected theorem Formed.resumeAll (hs : Formed s) : Formed (resumeAll s) := hs.foldl (fun _ _ h => h.coreResume)

protected theorem Formed.dbgLost (hs : Formed s) : Formed (dbgLost s) := hs.resumeAll.cptLost

protected theorem Formed.leaveOn {d : Nat} (hs : Formed s) : Formed (leaveOn s d) := by
  unfold leaveOn
  extract_lets s1 _
  have hs1 : Formed s1 := hs.sourcesFall
  split
  · exact hs1.wb.coreLost.intcCoreLost
  · split
    · exact hs1.roleOff
    · exact Formed.ite hs1.roleOff hs1
    · exact hs1.mk
    · exact hs1.dbgLost
    · exact hs1

protected theorem Formed.pneReload (hs : Formed s) : Formed (pneReload s) := Formed.ite hs.onPne hs

protected theorem Formed.setPdState {d v : Nat} (hs : Formed s) : Formed (setPdState s d v) := by
  unfold setPdState
  extract_lets t t1 t2
  have ht : Formed t := hs.wf
  have ht1 : Formed t1 := Formed.ite ht.leaveOn ht
  have ht2 : Formed t2 := Formed.ite ht1.pneReload ht1
  exact Formed.ite ht2.driveSync ht2

protected theorem Formed.setSvc {k : Nat} {v : Svc} (hs : Formed s) : Formed (setSvc s k v) := hs.mk

protected theorem Formed.onSvc {k : Nat} {f : Svc → Svc} (hs : Formed s) : Formed (onSvc s k f) := hs.setSvc

protected theorem Formed.srw {k n : Nat} {f : Fld} {v : Nat} (hs : Formed s) : Formed (srw s k n f v) := hs.setCore

protected theorem Formed.wbError {k pa : Nat} (hs : Formed s) : Formed (wbError s k pa) := hs.srw.srw.raiseAsync

protected theorem Formed.hostWrite {k a : Nat} {ws : List Word} {held : Option Line} {maint : Bool} (hs : Formed s) :
    Formed (hostWrite s k a ws held maint) :=
  hs.setSvc.hmpReq

protected theorem Formed.wcEmit {k : Nat} (hs : Formed s) : Formed (wcEmit s k) := by
  unfold wcEmit
  split
  · exact hs
  · extract_lets t _ t1
    have ht : Formed t := hs.onSvc
    have ht1 : Formed t1 := ht.foldl (fun _ _ h => (Formed.ite h.arrayWrite h.arrayWrite.wbError))
    exact Formed.ite (ht.foldl (fun _ _ h => h.hostWrite)) (ht1.foldl (fun _ _ h => (Formed.ite h.tagWr h)))

protected theorem Formed.svcCount {k n i : Nat} (hs : Formed s) : Formed (svcCount s k n i) := hs.srw

protected theorem Formed.cntUe {k : Nat} (hs : Formed s) : Formed (cntUe s k) := hs.svcCount

protected theorem Formed.cntCe {k : Nat} (hs : Formed s) : Formed (cntCe s k) := hs.svcCount

protected theorem Formed.countFixes {k : Nat} {l : Line} {ks : List Nat} (hs : Formed s) : Formed (countFixes s k l ks) :=
  hs.foldl (fun _ _ h => h.cntCe)

protected theorem Formed.lineOut {k : Nat} {x2 : Line} (hs : Formed s) : Formed (lineOut s k x2).2 :=
  Formed.ite_of Prod.snd hs.cntUe hs.countFixes

protected theorem Formed.arrayWritePair {a port : Nat} {t : Tok} (hs : Formed s) : Formed (arrayWritePair s a port t).2 := by
  unfold arrayWritePair
  extract_lets r q
  have hr : Formed r.2 := hs.arrayWrite
  have hq : Formed q.2 := hr.arrayWrite
  exact Formed.ite_of Prod.snd hr (Formed.ite_of Prod.snd hq (Formed.ite hq.tagWr hq))

protected theorem Formed.putPairs {k a : Nat} {x3 : Line} (hs : Formed s) : Formed (putPairs s k a x3).2 :=
  Formed.foldl_snd hs (fun _ _ h => h.arrayWritePair)

protected theorem Formed.writeHome {k : Nat} {x2 : Line} {maint : Bool} (hs : Formed s) : Formed (writeHome s k x2 maint) := by
  unfold writeHome
  split
  next s heq => exact Formed.of_snd hs.lineOut heq
  next x s heq =>
    extract_lets _
    split
    · exact (Formed.of_snd hs.lineOut heq).hostWrite
    · split
      next e t heq2 => exact (Formed.of_snd ((Formed.of_snd hs.lineOut heq).putPairs) heq2).wbError
      next t heq2 => exact Formed.of_snd ((Formed.of_snd hs.lineOut heq).putPairs) heq2

protected theorem Formed.dWriteAll {k : Nat} (hs : Formed s) : Formed (dWriteAll s k) :=
  hs.foldl (fun _ _ h => (Formed.ite h.writeHome h))

protected theorem Formed.offersHome {k : Nat} (hs : Formed s) : Formed (offersHome s k) :=
  hs.onSvc.foldl (fun _ _ h => (Formed.ite h.writeHome h))

protected theorem Formed.l2Look {k i : Nat} (hs : Formed s) : Formed (l2Look s k i).2 := hs.arrayOwn

protected theorem Formed.arrayWord {a port : Nat} (hs : Formed s) : Formed (arrayWord s a port).2 := by
  unfold arrayWord
  split
  · exact hs
  · exact Formed.ite_of Prod.snd hs.freshWord hs
  · exact hs

protected theorem Formed.arrayRead {a port : Nat} {auto tags : Bool} (hs : Formed s) :
    Formed (arrayRead s a port auto tags).2.2 :=
  Formed.ite_of (fun p => Prod.snd (Prod.snd (p))) hs.arrayOwn hs.arrayOwn.arrayWord

protected theorem Formed.readLine {k a : Nat} {i line : Nat} {own dirty : Bool} (hs : Formed s) :
    Formed (readLine s k a i line own dirty).2.2 := by
  unfold readLine
  extract_lets r _
  have hr : Formed r.2 := by
    unfold r
    exact Formed.foldl_snd hs (fun _ _ h => (Formed.ite_of (fun p => Prod.snd (Prod.snd (p))) h.arrayOwn h.arrayRead))
  exact hr

protected theorem Formed.l2Home {k i : Nat} {t : Word} {maint : Bool} (hs : Formed s) : Formed (l2Home s k i t maint) := by
  unfold l2Home
  extract_lets r
  have hr : Formed r.2.2 := hs.readLine
  split
  · exact hr.wbError
  · exact hr.writeHome

protected theorem Formed.l2TagPut {k i : Nat} {w : Word} (hs : Formed s) : Formed (l2TagPut s k i w) :=
  Formed.ite hs.arrayWrite hs.arrayWrite.wbError

protected theorem Formed.l2CleanAll {k : Nat} (hs : Formed s) : Formed (l2CleanAll s k) := by
  unfold l2CleanAll
  refine Formed.foldl hs fun u x h => ?_
  extract_lets _
  split
  next w u heq => exact Formed.ite (((Formed.of_snd h.l2Look heq).l2Home).l2TagPut) (Formed.of_snd h.l2Look heq)

protected theorem Formed.svcDrain {k : Nat} (hs : Formed s) : Formed (svcDrain s k) :=
  hs.wcEmit.dWriteAll.offersHome.onSvc.l2CleanAll

protected theorem Formed.dropOwn (hs : Formed s) : Formed (dropOwn s) := hs.hmpDrop.onJne

protected theorem Formed.psafeSync (hs : Formed s) : Formed (psafeSync s) := hs.wb

protected theorem Formed.pneReadsDrop (hs : Formed s) : Formed (pneReadsDrop s) := hs.hmpDrop

protected theorem Formed.pneReport {d : PneDone} (hs : Formed s) : Formed (pneReport s d) := hs.onPne

protected theorem Formed.pneFinish {op : PneOp} {st : Nat} {v : Word} {m csn ack : Nat} (hs : Formed s) :
    Formed (pneFinish s op st v m csn ack) := by
  unfold pneFinish
  split
  · extract_lets _ t t1
    have ht : Formed t := hs.wb.wf
    have ht1 : Formed t1 := Formed.ite ht.wr.wr ht
    exact Formed.ite ht1.wr ht1
  · exact Formed.ite hs hs.inc
  · exact hs
  · exact hs.pneReport

protected theorem Formed.memClear {lo hi : Nat} (hs : Formed s) : Formed (memClear s lo hi) := Memory.wf_memClear lo hi hs

protected theorem Formed.clearWords {lo hi : Nat} (hs : Formed s) : Formed (clearWords s lo hi) := hs.memClear.mk

protected theorem Formed.clearCache (hs : Formed s) : Formed (clearCache s) := hs.clearWords

protected theorem Formed.setPins {l : List Nat} (hs : Formed s) : Formed (setPins s l) := hs.onPne.wf

protected theorem Formed.pneClear (hs : Formed s) : Formed (pneClear s) := hs.clearCache.wb.onPne.setPins

protected theorem Formed.pneRestart (hs : Formed s) : Formed (pneRestart s) := by
  unfold pneRestart
  refine Formed.ite ?_ ?_
  · extract_lets t t1 t2 t3
    have ht : Formed t := hs.wb
    have ht1 : Formed t1 := ht.pneReadsDrop
    have ht2 : Formed t2 := ht1.onPne.foldl (fun _ _ h => h.pneFinish)
    have ht3 : Formed t3 := by
      unfold t3
      refine Formed.foldl ht2 fun u x h => ?_
      split
      · exact h.pneFinish
      · exact h
    exact ht3.onPne.pneClear
  · exact hs

protected theorem Formed.jneEnter {st : Nat} (hs : Formed s) : Formed (jneEnter s st) := by
  unfold jneEnter
  extract_lets _ t t1 t2
  have ht : Formed t := hs.wf.psafeSync
  have ht1 : Formed t1 := Formed.ite ht.wb ht
  have ht2 : Formed t2 := ht1.raiseEv
  exact Formed.ite hs (Formed.ite ht2.pneRestart ht2)

protected theorem Formed.dropJop {id : Nat} (hs : Formed s) : Formed (dropJop s id) := hs.onPne

protected theorem Formed.pneRefused {jid ack : Nat} (hs : Formed s) : Formed (pneRefused s jid ack) := by
  unfold pneRefused
  split
  · exact hs
  · extract_lets t t1
    have ht : Formed t := hs.dropJop
    have ht1 : Formed t1 := by
      unfold t1
      split
      · exact ht.entPut
      · exact ht
    split
    · exact ht1.pneFinish
    · exact ht1

protected theorem Formed.wacEnded (hs : Formed s) : Formed (wacEnded s) := Formed.ite hs.wb.onWac hs

protected theorem Formed.ckDone {good : Bool} (hs : Formed s) : Formed (ckDone s good) := hs.wb.wb.wf.wf.onWac.wacEnded

protected theorem Formed.pneSubmit {op : PneOp} (hs : Formed s) : Formed (pneSubmit s op) := hs.onPne

protected theorem Formed.wacPump (hs : Formed s) : Formed (wacPump s) := by
  unfold wacPump
  split
  · exact hs
  · exact Formed.ite hs hs.pneSubmit.onWac

protected theorem Formed.resetWrites (hs : Formed s) : Formed (resetWrites s) := by
  unfold resetWrites
  split
  · extract_lets _
    exact hs.onWac.wacPump
  · exact hs

protected theorem Formed.wacAck {id status : Nat} (hs : Formed s) : Formed (wacAck s id status) :=
  Formed.ite (Formed.ite hs.ckDone hs) hs.resetWrites

protected theorem Formed.jneAnswer {prod id : Nat} {status csn : Nat} (hs : Formed s) :
    Formed (jneAnswer s prod id status csn) := by
  unfold jneAnswer
  refine Formed.ite ?_ ?_
  · extract_lets _ t
    have ht : Formed t := hs.wb.wf
    exact Formed.ite ht.wf ht
  · split
    · exact Formed.ite hs hs.pneRefused
    · exact hs.wacAck
    · exact hs.onJne
    · exact hs

protected theorem Formed.refuseAll {status : Nat} (hs : Formed s) : Formed (refuseAll s status) :=
  hs.mk.onJne.foldl (fun _ _ h => h.jneAnswer)

protected theorem Formed.stagedFirst (hs : Formed s) : Formed (stagedFirst s) := hs.mk

protected theorem Formed.jneCloseNow (hs : Formed s) : Formed (jneCloseNow s) :=
  Formed.ite hs.dropOwn.jneEnter.refuseAll.stagedFirst hs.refuseAll

protected theorem Formed.jneShut (hs : Formed s) : Formed (jneShut s) := hs.onJne.jneCloseNow

protected theorem Formed.cptTimeout {b : Nat} (hs : Formed s) : Formed (cptTimeout s b) :=
  Formed.ite hs.cptFinish (Formed.ite hs.setBufState.cptReplyTo hs)

protected theorem Formed.cptDrain (hs : Formed s) : Formed (cptDrain s) := hs.wb.onCpt.foldl (fun _ _ h => h.cptTimeout)

protected theorem Formed.drainBegin {d : Nat} (hs : Formed s) : Formed (drainBegin s d) := by
  unfold drainBegin
  split
  · exact hs.svcDrain
  · exact hs.svcDrain
  · exact hs.jneShut
  · exact Formed.ite hs.jneShut hs
  · exact hs.cptDrain
  · exact hs

protected theorem Formed.pdFence {d : Nat} (hs : Formed s) : Formed (pdFence s d) := hs.setPdState.drainBegin.setPdRun

protected theorem Formed.pdFenceForced {d : Nat} (hs : Formed s) : Formed (pdFenceForced s d) := hs.pdFence.setPdRun

protected theorem Formed.cellNopost {c : Nat} (hs : Formed s) : Formed (cellNopost s c) := hs.wb.inc

protected theorem Formed.dmNopost {c : Nat} {st : DmStart} {stands : Bool} (hs : Formed s) : Formed (dmNopost s c st stands) :=
  hs.foldl (fun _ _ h => (Formed.ite h.dmEnd h.dmMiss.setMon.dmNext))

protected theorem Formed.sspNopost {c p : Nat} {tr : DmStart} (hs : Formed s) : Formed (sspNopost s c p tr) :=
  hs.cellNopost.dmNopost

protected theorem Formed.cellUnhold {c ends : Nat} (hs : Formed s) : Formed (cellUnhold s c ends) := by
  unfold cellUnhold
  split
  · extract_lets _ t _
    have ht : Formed t := hs.setCell
    exact ht.mk
  · exact hs

protected theorem Formed.busySync (hs : Formed s) : Formed (busySync s) := hs.foldl (fun _ _ h => h.wbit)

protected theorem Formed.sspForced {d : Nat} (hs : Formed s) : Formed (sspForced s d) := by
  unfold sspForced
  refine Formed.ite ?_ ?_
  · exact hs.mk
  · extract_lets _ _ t
    have ht : Formed t := hs.mk
    exact (ht.foldl (fun _ _ h => (Formed.ite (Formed.ite h h.sspNopost) ((Formed.ite h h.sspNopost).cellUnhold)))).busySync

protected theorem Formed.tornLog {port addr : Nat} {len done : Nat} {write : Bool} (hs : Formed s) :
    Formed (tornLog s port addr len done write) :=
  (((((Formed.ite hs.inc hs).wr).wr).wf).wb).mk

protected theorem Formed.hspTorn (hs : Formed s) : Formed (hspTorn s) := hs.foldl (fun _ _ h => h.tornLog)

protected theorem Formed.tornBursts {d : Nat} (hs : Formed s) : Formed (tornBursts s d) := hs.foldl (fun _ _ h => h.tornLog)

protected theorem Formed.forcedOutcome {d : Nat} (hs : Formed s) : Formed (forcedOutcome s d) := by
  unfold forcedOutcome
  split
  · exact hs.sspForced
  · exact hs.sspForced
  · extract_lets _ t _
    have ht : Formed t := hs.hspTorn
    exact ht.mk
  · extract_lets t _
    have ht : Formed t := hs.tornBursts.hmpDrop
    exact ht.mk

protected theorem Formed.coreReset {k : Nat} (hs : Formed s) : Formed (coreReset s k) :=
  ((((((Formed.ite hs.setCore.hmpDrop.setSvc hs.setCore.hmpDrop).wb).wb).mk).wb).onDbg).onPctl

protected theorem Formed.arraysClear {d : Nat} (hs : Formed s) : Formed (arraysClear s d) := hs.foldl (fun _ _ h => h.memClear.mk)

protected theorem Formed.aeReset {e : Nat} (hs : Formed s) : Formed (aeReset s e) := hs.arraysClear.mk

protected theorem Formed.cmdEnd (hs : Formed s) : Formed (cmdEnd s) := Formed.ite hs.wf.wb.onJne hs

protected theorem Formed.jneGoOff (hs : Formed s) : Formed (jneGoOff s) := by
  unfold jneGoOff
  extract_lets _ t t1 t2 _ t3
  have ht : Formed t := by
    unfold t
    refine Formed.foldl hs.cmdEnd fun u x h => ?_
    split
    · exact h.jneAnswer
    · exact h
  have ht1 : Formed t1 := ht.refuseAll
  have ht2 : Formed t2 := ht1.hmpDrop
  have ht3 : Formed t3 := ht2.onJne
  exact ht3.jneEnter

protected theorem Formed.jneLost (hs : Formed s) : Formed (jneLost s) := hs.jneGoOff.onJne

protected theorem Formed.pneLost (hs : Formed s) : Formed (pneLost s) := hs.mk.hmpDrop

protected theorem Formed.wacLost (hs : Formed s) : Formed (wacLost s) := hs.mk.onPne

protected theorem Formed.mlkLost (hs : Formed s) : Formed (mlkLost s) := hs.mk.hmpDrop

protected theorem Formed.rlkLost (hs : Formed s) : Formed (rlkLost s) := Formed.ite hs.mk.roleOff hs.mk

protected theorem Formed.allocAnswer {sink code : Nat} {w : Word} (hs : Formed s) : Formed (allocAnswer s sink code w) :=
  Formed.ite hs.respond (Formed.ite hs.mk (Formed.ite hs.setCore hs))

protected theorem Formed.cptReset (hs : Formed s) : Formed (cptReset s) := hs.mk.hmpDrop.foldl (fun _ _ h => h.allocAnswer)

protected theorem Formed.dbgWake (hs : Formed s) : Formed (dbgWake s) := hs.onDbg

protected theorem Formed.unitLost {d : Nat} (hs : Formed s) : Formed (unitLost s d) := by
  unfold unitLost
  split
  · exact hs.coreReset
  · refine Formed.ite ?_ ?_
    · exact hs.aeReset
    · split
      · exact hs.mk
      · exact hs.jneLost
      · exact hs.pneLost
      · exact hs.wacLost
      · exact hs.mlkLost.driveSync
      · exact hs.rlkLost
      · exact hs.cptReset
      · exact hs.mk
      · exact hs.mk
      · exact hs.mk
      · exact hs.dbgWake.hmpDrop
      · exact hs.mk
      · exact hs

protected theorem Formed.dmSuspendOff (hs : Formed s) : Formed (dmSuspendOff s) :=
  hs.forN (fun _ _ h => (Formed.ite h.dmLose h))

protected theorem Formed.wakeRegs {d : Nat} (hs : Formed s) : Formed (wakeRegs s d) := by
  unfold wakeRegs
  extract_lets t t1
  have ht : Formed t := hs.mk.foldl (fun _ _ h => h.wf)
  have ht1 : Formed t1 := Formed.ite (ht.foldl (fun _ _ h => h.phsSync)) ht
  exact Formed.ite ht1.dmSuspendOff ht1

protected theorem Formed.pdReset {d : Nat} (hs : Formed s) : Formed (pdReset s d) := hs.unitLost.wakeRegs

protected theorem Formed.pdComplete {d : Nat} (hs : Formed s) : Formed (pdComplete s d) :=
  Formed.ite hs.wb.setPdRun hs.wb.setPdRun.wf.wb

protected theorem Formed.powerDown {d : Nat} (hs : Formed s) : Formed (powerDown s d) :=
  ((Formed.ite hs.setPdState.unitLost.arraysClear hs.setPdState.unitLost).mk).setPdRun

protected theorem Formed.pdPerform {d : Nat} (hs : Formed s) : Formed (pdPerform s d) := by
  unfold pdPerform
  split
  · exact hs.setPdRun
  · exact hs.setPdState.pdComplete
  · exact hs.setPdState.pdComplete
  · exact hs.powerDown
  · exact hs.powerDown
  · exact hs.setPdState.pdReset.pdComplete
  · exact hs.setPdState.pdReset.setPdState.pdComplete

protected theorem Formed.pdForce {d : Nat} (hs : Formed s) : Formed (pdForce s d) :=
  Formed.ite hs.forcedOutcome.setPdState.pdReset.setPdRun hs.forcedOutcome.pdPerform

protected theorem Formed.pdStart {d op : Nat} (hs : Formed s) : Formed (pdStart s d op) := by
  unfold pdStart
  extract_lets _ t _
  have ht : Formed t := hs.wf.wb.setPdRun
  split
  · exact ht.setPdRun
  · exact Formed.ite (Formed.ite ht.pdFenceForced ht.pdForce) ht.pdFence
  · exact ht.pdPerform

protected theorem Formed.coreLocked {k lvl code : Nat} {pc v : Word} (hs : Formed s) : Formed (coreLocked s k lvl code pc v) := by
  unfold coreLocked
  extract_lets _ t t1 t2 t3 t4
  have ht : Formed t := hs.setCore
  have ht1 : Formed t1 := ht.wr
  have ht2 : Formed t2 := ht1.wr.wr
  have ht3 : Formed t3 := ht2.wb.wb
  have ht4 : Formed t4 := ht3.coreLost.intcCoreLost
  exact Formed.ite ht4.pdStart ht4

protected theorem Formed.iTouch {k line w : Nat} (hs : Formed s) : Formed (iTouch s k line w) := hs.setSvc

protected theorem Formed.setILine {k line w : Nat} {x4 : Line} (hs : Formed s) : Formed (setILine s k line w x4) := hs.setSvc

protected theorem Formed.newRead {k : Nat} (hs : Formed s) : Formed (newRead s k).2 := hs.setCore

protected theorem Formed.cntImiss {k : Nat} (hs : Formed s) : Formed (cntImiss s k) := hs.svcCount

protected theorem Formed.cntDmiss {k : Nat} (hs : Formed s) : Formed (cntDmiss s k) := hs.svcCount

protected theorem Formed.cntL2hit {k : Nat} (hs : Formed s) : Formed (cntL2hit s k) := hs.svcCount

protected theorem Formed.hostFrom {k line word : Nat} (hs : Formed s) : Formed (hostFrom s k line word).2 := by
  unfold hostFrom
  refine Formed.ite_of Prod.snd ?_ ?_
  · exact hs
  · extract_lets _
    split
    next w t heq =>
      refine Formed.ite_of Prod.snd ?_ ?_
      · extract_lets r
        have hr : Formed r.2.2 := (Formed.of_snd hs.l2Look heq).readLine
        exact hr.l2TagPut.cntL2hit
      · exact Formed.of_snd hs.l2Look heq

protected theorem Formed.startFill {k : Nat} {f : Fill} (hs : Formed s) : Formed (startFill s k f) := by
  unfold startFill
  extract_lets _
  split
  next src t heq =>
    extract_lets t1
    have ht1 : Formed t1 := (Formed.of_snd (Formed.ite_of Prod.snd hs.hostFrom hs) heq).onSvc
    exact Formed.ite ht1.hmpReq ht1

protected theorem Formed.prefetchStart {k : Nat} {inst : Bool} {line : Nat} (hs : Formed s) :
    Formed (prefetchStart s k inst line) :=
  Formed.ite hs hs.startFill

protected theorem Formed.prefetchOne {k : Nat} {inst : Bool} {tr : Trans} {line : Nat} (hs : Formed s) :
    Formed (prefetchOne s k inst tr line) :=
  Formed.ite hs (Formed.ite hs.onSvc hs.prefetchStart)

protected theorem Formed.prefetch {k : Nat} {inst : Bool} {tr : Trans} (hs : Formed s) : Formed (prefetch s k inst tr) :=
  Formed.ite (hs.setSvc.forN (fun _ _ h => h.prefetchOne)) hs.setSvc

protected theorem Formed.wantFill {k : Nat} {f : Fill} {inst pair : Bool} {tr : Trans} (hs : Formed s) :
    Formed (wantFill s k f inst pair tr).state := by
  unfold wantFill
  split
  next id t heq =>
    extract_lets t1
    have ht1 : Formed t1 := (Formed.of_snd hs.newRead heq).onSvc
    exact (Formed.ite ht1.cntImiss ht1.cntDmiss).prefetch

protected theorem Formed.takeBack {k line : Nat} (hs : Formed s) : ∀ t ∈ takeBack s k line, Formed t.2 := by
  unfold takeBack
  extract_lets _
  split
  · exact mem_some_all hs.setSvc
  · split
    · exact mem_some_all hs.setSvc
    · exact mem_none_all

protected theorem Formed.setDLine {k line w : Nat} {x4 : Line} (hs : Formed s) : Formed (setDLine s k line w x4) := hs.setSvc

protected theorem Formed.cntDecline {k : Nat} (hs : Formed s) : Formed (cntDecline s k) := hs.svcCount

protected theorem Formed.evictLine {k : Nat} {x2 : Line} (hs : Formed s) : Formed (evictLine s k x2) := by
  unfold evictLine
  refine Formed.ite ?_ ?_
  · exact hs
  · refine Formed.ite ?_ ?_
    · split
      next t heq => exact Formed.of_snd hs.lineOut heq
      next y t heq => exact Formed.ite ((Formed.of_snd hs.lineOut heq).cntDecline) ((Formed.of_snd hs.lineOut heq).onSvc)
    · exact Formed.ite hs.writeHome hs

protected theorem Formed.dTouch {k line w : Nat} (hs : Formed s) : Formed (dTouch s k line w) := hs.setSvc

protected theorem Formed.dAlloc {k : Nat} {x2 : Line} (hs : Formed s) : Formed (dAlloc s k x2) := hs.setDLine.evictLine.dTouch

protected theorem Formed.cntPfused {k : Nat} (hs : Formed s) : Formed (cntPfused s k) := hs.svcCount

protected theorem Formed.takeSide {k line : Nat} (hs : Formed s) : ∀ t ∈ takeSide s k line, Formed t.2 := by
  unfold takeSide
  split
  · exact mem_none_all
  · exact mem_some_all hs.onSvc.cntPfused

protected theorem Formed.iAlloc {k : Nat} {x2 : Line} (hs : Formed s) : Formed (iAlloc s k x2) :=
  (Formed.ite hs.setILine.evictLine hs.setILine.cntCe).iTouch

protected theorem Formed.missFill {k : Nat} {inst pair : Bool} {tr : Trans} (hs : Formed s) :
    Formed (missFill s k inst pair tr).state := by
  unfold missFill
  extract_lets _
  split
  next id t heq =>
    extract_lets t1 _
    have ht1 : Formed t1 := (Formed.of_snd hs.newRead heq).startFill
    exact ht1.prefetch

protected theorem Formed.iFetch {k : Nat} {tr : Trans} (hs : Formed s) : Formed (iFetch s k tr).state := by
  unfold iFetch
  extract_lets line i hit bad t
  have ht : Formed t := by
    unfold t
    clear_value hit
    split
    · exact hs.setILine.cntCe
    · exact hs
  clear_value t bad hit
  split
  · exact hs.iTouch
  · split
    · exact Formed.ite_of Found.state ht.wantFill ht
    · split
      · exact ht
      · split
        next x u heq => exact (Formed.of_mem (mem_ite_none ht.takeBack) heq).dAlloc
        · split
          next x u heq => exact (Formed.of_mem ht.takeSide heq).iAlloc
          · exact Formed.ite_of Found.state ht ht.cntImiss.missFill

protected theorem Formed.fetchWait {k w : Nat} {pa id min : Nat} {acc pair : Bool} (hs : Formed s) :
    Formed (fetchWait s k w pa id min acc pair).2 :=
  hs.setCore

protected theorem Formed.fetchCached {k w : Nat} {tr : Trans} {pair : Bool} (hs : Formed s) :
    Formed (fetchCached s k w tr pair).2 := by
  unfold fetchCached
  split
  next w hi tag t n heq => exact Formed.ite (Found.of_eq hs.iFetch heq) ((Found.of_eq hs.iFetch heq).setCore)
  next t id n heq => exact (Found.of_eq hs.iFetch heq).fetchWait
  next t heq => exact Found.of_eq hs.iFetch heq
  next t c v heq => exact Found.of_eq hs.iFetch heq

protected theorem Formed.sendReq {k : Nat} {r : MemReq} (hs : Formed s) : Formed (sendReq s k r) := hs.setCore

protected theorem Formed.sendRead {k a : Nat} {pair dev : Bool} (hs : Formed s) : Formed (sendRead s k a pair dev).2 := by
  unfold sendRead
  split
  next id t heq => exact (Formed.of_snd hs.newRead heq).sendReq

protected theorem Formed.fetchAsk {k w pa : Nat} {dev pair : Bool} (hs : Formed s) : Formed (fetchAsk s k w pa dev pair).2 := by
  unfold fetchAsk
  split
  next id t heq => exact (Formed.of_snd hs.sendRead heq).fetchWait

protected theorem Formed.fetchWord {k w : Nat} {pair : Bool} (hs : Formed s) : Formed (fetchWord s k w pair).2 := by
  unfold fetchWord
  extract_lets _ r
  have hr : Formed r.2.2 := hs.arrayRead
  refine Formed.ite_of Prod.snd ?_ ?_
  · exact hs
  · refine Formed.ite_of Prod.snd ?_ ?_
    · exact hs
    · refine Formed.ite_of Prod.snd ?_ ?_
      · split
        · exact hs
        · exact Formed.ite_of Prod.snd hs.fetchCached hs.fetchAsk
      · exact Formed.ite_of Prod.snd hs.fetchAsk (Formed.ite_of Prod.snd hs hr)

protected theorem Formed.enterLevel {k l code : Nat} {async esc : Bool} {v : Word} {cost : Nat} (hs : Formed s) :
    Formed (enterLevel s k l code async esc v cost) := by
  unfold enterLevel
  extract_lets _ t
  have ht : Formed t := hs.setCore.raiseTrace
  refine Formed.ite ?_ ?_
  · exact hs.coreLocked
  · split
    next c v u heq => exact (Formed.of_snd ht.fetchWord heq).coreLocked
    next val u heq => exact (Formed.of_snd ht.fetchWord heq).setCore
    · exact ht

protected theorem Formed.takeFault {k code : Nat} {v : Word} {async : Bool} (hs : Formed s) :
    Formed (takeFault s k code v async) :=
  Formed.ite hs.withdraw.coreLocked (Formed.ite hs.withdraw.enterLevel hs.withdraw.enterLevel)

protected theorem Formed.asyncEntry {k : Nat} (hs : Formed s) : Formed (asyncEntry s k) := by
  unfold asyncEntry
  extract_lets t _
  have ht : Formed t := hs.coreYield
  split
  · exact hs
  · exact ht.setCore.takeFault

protected theorem Formed.presentationTaken {k : Nat} (hs : Formed s) : Formed (presentationTaken s k) := hs.mk

protected theorem Formed.presEntry {k : Nat} (hs : Formed s) : Formed (presEntry s k) :=
  Formed.ite hs.presentationTaken.coreYield.enterLevel hs

protected theorem Formed.execInterruptEntry {k : Fin 10} (hs : Formed s) : FormedOut (execInterruptEntry k s) := by
  unfold execInterruptEntry
  extract_lets _ t _
  have ht : Formed t := hs.takeAsyncs
  exact FormedOut.ite hs.ok (FormedOut.ite ht.setCore.ok (FormedOut.ite ht.asyncEntry.ok ht.presEntry.ok))

protected theorem Formed.execAsyncFault {k : Fin 10} (hs : Formed s) : FormedOut (execAsyncFault k s) :=
  FormedOut.ite hs.takeAsyncs.asyncEntry.ok hs.takeAsyncs.ok

protected theorem Formed.passedFill {k : Nat} {p : Passed} {x3 : Arrived} (hs : Formed s) : Formed (passedFill s k p x3) :=
  Formed.ite hs.setCore hs.setCore.raiseAsync

protected theorem Formed.keptFill {k : Nat} {p : Kept} {x3 : Arrived} (hs : Formed s) : Formed (keptFill s k p x3) :=
  Formed.ite hs.setCore hs.setCore.raiseAsync

protected theorem Formed.syncFault {k code : Nat} {v : Word} (hs : Formed s) : Formed (syncFault s k code v) :=
  hs.setCore.takeFault

protected theorem Formed.coreStop {k reason : Nat} (hs : Formed s) : Formed (coreStop s k reason) := by
  unfold coreStop
  extract_lets s1 _ t t1 t2 t3
  have hs1 : Formed s1 := hs.coreYield
  have ht : Formed t := hs1.setCore
  have ht1 : Formed t1 := ht.wb.wf.wb
  have ht2 : Formed t2 := ht1.wf
  have ht3 : Formed t3 := ht2.onDbg.unitStrobe.intcCoreLost
  exact Formed.ite ht3.svenClear ht3

protected theorem Formed.settle {k : Nat} (hs : Formed s) : Formed (settle s k) := by
  unfold settle
  extract_lets t _
  have ht : Formed t := hs.onDbg
  exact Formed.ite ht (Formed.ite ht (Formed.ite ht.coreStop (Formed.ite ht.coreStop ht)))

protected theorem Formed.onBank {k : Nat} {f : Bank → Bank} (hs : Formed s) : Formed (onBank s k f) := hs.setCore

protected theorem Formed.complete {s1 : State} {k len end_ : Nat} {p : Option Prev} (hs : Formed s) (hs1 : Formed s1) :
    Formed (complete s s1 k len end_ p) :=
  Formed.ite hs.syncFault.settle hs1.setCore

protected theorem Formed.waitDone {k len n : Nat} {f : State → State} (hs : Formed s) (hf : ∀ u0, Formed u0 → Formed (f u0)) :
    Formed (waitDone s k len n f) :=
  (hs.complete (hf _ hs)).settle

protected theorem Formed.fetchStopped {k : Nat} {a : FetchStop} (hs : Formed s) : Formed (fetchStopped s k a) := by
  unfold fetchStopped
  split
  · exact Formed.ite hs.coreLocked hs.syncFault.settle
  · exact hs

protected theorem Formed.loadTaken {k : Nat} {x2 : Arrived} {cycles : Nat} (hs : Formed s) :
    Formed (loadTaken s k x2 cycles) := by
  unfold loadTaken
  extract_lets _
  split
  · exact Formed.ite hs (Formed.ite hs.syncFault.settle (hs.waitDone (fun _ h => h.onBank)))
  · exact Formed.ite hs hs.setCore
  · exact Formed.ite hs (Formed.ite hs.setCore.fetchStopped hs.setCore)
  · exact hs

protected theorem Formed.execLoadResponse {k : Fin 10} {cycles : BitVec 16} (hs : Formed s) :
    FormedOut (execLoadResponse k cycles s) := by
  unfold execLoadResponse
  extract_lets _
  split
  · exact hs.ok
  · extract_lets t
    have ht : Formed t := hs.setCore
    refine Formed.onlyIf hs ?_
    split
    · exact ht.passedFill
    · split
      · exact ht.keptFill
      · exact ht.loadTaken

protected theorem Formed.execPostedStoreResponse {k : Fin 10} (hs : Formed s) : FormedOut (execPostedStoreResponse k s) := by
  unfold execPostedStoreResponse
  extract_lets _
  split
  · exact hs.ok
  · extract_lets t _
    have ht : Formed t := hs.setCore
    exact hs.onlyIf (Formed.ite ht ht.raiseAsync)

protected theorem Formed.evpoll {k m : Nat} (hs : Formed s) : Formed (evpoll s k m) := hs.setCore

protected theorem Formed.execWaitEnd {k : Fin 10} {cycles : BitVec 16} (hs : Formed s) : FormedOut (execWaitEnd k cycles s) := by
  unfold execWaitEnd
  extract_lets _
  split
  · exact hs.onlyIf (hs.waitDone (fun _ h => (Formed.ite h h.evpoll)))
  · exact hs.ok

protected theorem Formed.execFenceComplete {k : Fin 10} {cycles : BitVec 16} (hs : Formed s) :
    FormedOut (execFenceComplete k cycles s) := by
  unfold execFenceComplete
  extract_lets t
  have ht : Formed t := hs.takeAsyncs
  split
  · exact hs.onlyIf (ht.waitDone (fun _ h => h))
  · exact hs.ok

protected theorem Formed.fin1 (hs : Formed s) : Formed (fin1 s).state := hs

protected theorem Formed.stackIns {parcels : List Nat} {c p : Nat} {cls : IClass} {f : Bank → List Word} :
    (stackIns parcels c p cls f).Keeps :=
  ⟨(fun _ _ _ h => h.onBank.fin1), (fun _ _ h => h)⟩

protected theorem Formed.insNop : (insNop).Keeps := Formed.stackIns

protected theorem Formed.keepWords {k : Nat} {ws : List Nat} (hs : Formed s) :
    Formed (keepWords s k ws) := Formed.ite hs hs.setCore

protected theorem Formed.firstDone {k : Nat} (hs : Formed s) : Formed (firstDone s k) := Formed.ite hs.setCore hs

protected theorem Formed.fetchIns {k n : Nat} {pair : Bool} (hs : Formed s) : Formed (fetchIns s k n pair).2 := by
  unfold fetchIns
  extract_lets _ _ _ _ r t
  have hr : Formed r.2 := hs.keepWords.fetchWord
  have ht : Formed t := hr.firstDone
  exact Formed.ite_of Prod.snd hr (Formed.ite_of Prod.snd ht.fetchWord ht)

protected theorem Formed.finish {k now : Nat} {paired : Bool} {i : Ins} {a : IRes} (hs : Formed s) (hs1 : Formed a.state) :
    Formed (finish s k now paired i a) := by
  unfold finish
  split
  · exact (hs.complete hs1).settle
  · extract_lets _ _ t
    have ht : Formed t := hs1.setCore
    exact ht.raiseTrace.settle
  · extract_lets _ _
    exact hs1.setCore.raiseTrace.settle
  · exact hs1.syncFault.settle
  · extract_lets _ _ t
    have ht : Formed t := hs1.setCore
    exact Formed.ite ht.coreStop ht
  · extract_lets _
    exact hs1.setCore
  · extract_lets t
    have ht : Formed t := hs.complete hs1
    exact ht.takeFault.settle

protected theorem Formed.checkAndRun {k now : Nat} {paired : Bool} {i : Ins} (hs : Formed s) (hi : i.Keeps) :
    Formed (checkAndRun k now paired i s) := by
  unfold checkAndRun
  extract_lets _
  refine Formed.ite ?_ ?_
  · exact hs.syncFault.settle
  · refine Formed.ite ?_ ?_
    · exact hs.finish (hi.skip _ _ hs)
    · split
      · exact hs.syncFault.settle
      · exact Formed.ite (hs.finish hs) (hs.finish (hi.body _ _ _ hs.setCore))

protected theorem Formed.issue {k : Nat} {i : Ins} (hs : Formed s) (hi : i.Keeps) : Formed (issue k i s) := by
  unfold issue
  extract_lets _ _ s1
  have hs1 : Formed s1 := Formed.ite hs hs.setCore
  refine Formed.ite ?_ ?_
  · exact hs.coreStop
  · split
    next e t heq => exact (Formed.of_snd hs1.fetchIns heq).fetchStopped
    next t heq =>
      extract_lets _
      exact (Formed.of_snd hs1.fetchIns heq).checkAndRun hi

protected theorem Formed.passOpen {k : Nat} (hs : Formed s) : Formed (passOpen s k) := by
  unfold passOpen
  extract_lets _ _
  split
  · exact Formed.ite hs.setCore hs
  · exact hs

protected theorem Formed.entryOver {k : Nat} (hs : Formed s) : Formed (entryOver s k) := Formed.ite hs.setCore hs

protected theorem Formed.afterPair {k : Nat} (hs : Formed s) : Formed (afterPair s k) := by
  unfold afterPair
  extract_lets _ _
  refine Formed.ite ?_ ?_
  · exact hs
  · exact Formed.ite (Formed.ite hs.asyncEntry hs.entryOver.presEntry) (Formed.ite hs.setCore.presEntry hs)

protected theorem Formed.atBoundary {k : Nat} {pairs : Core → Bool} {go : State → State} {ends : Bool} (hs : Formed s)
    (hf : ∀ u0, Formed u0 → Formed (go u0)) :
    Formed (atBoundary k pairs s go ends) := by
  unfold atBoundary
  extract_lets s1 _ t _
  have hs1 : Formed s1 := hs.passOpen
  have ht : Formed t := hs1.takeAsyncs
  refine Formed.ite ?_ ?_
  · exact hs1
  · refine Formed.ite ?_ ?_
    · exact ht.asyncEntry
    · refine Formed.ite ?_ ?_
      · exact ht.entryOver.presEntry
      · refine Formed.ite ?_ ?_
        · exact ht.coreStop
        · refine Formed.ite ?_ ?_
          · exact ht.coreStop
          · refine Formed.ite ?_ ?_
            · exact ht.coreStop
            · exact Formed.ite ht.syncFault.settle (Formed.ite (hf _ ht.entryOver) (Formed.ite ((hf _ ht).afterPair) (hf _ ht)))

protected theorem Formed.runIns {k : Nat} {i : Ins} (hs : Formed s) (hi : i.Keeps) : FormedOut (runIns k i s) :=
  (hs.atBoundary (fun _ h => (h.issue hi))).ok

protected theorem Formed.execNop {k : Fin 10} (hs : Formed s) : FormedOut (execNop k s) := hs.runIns Formed.insNop

protected theorem Formed.insDup : (insDup).Keeps := Formed.stackIns

protected theorem Formed.execDup {k : Fin 10} (hs : Formed s) : FormedOut (execDup k s) := hs.runIns Formed.insDup

protected theorem Formed.insDrop : (insDrop).Keeps := Formed.stackIns

protected theorem Formed.execDrop {k : Fin 10} (hs : Formed s) : FormedOut (execDrop k s) := hs.runIns Formed.insDrop

protected theorem Formed.insSwap : (insSwap).Keeps := Formed.stackIns

protected theorem Formed.execSwap {k : Fin 10} (hs : Formed s) : FormedOut (execSwap k s) := hs.runIns Formed.insSwap

protected theorem Formed.insOver : (insOver).Keeps := Formed.stackIns

protected theorem Formed.execOver {k : Fin 10} (hs : Formed s) : FormedOut (execOver k s) := hs.runIns Formed.insOver

protected theorem Formed.insRot : (insRot).Keeps := Formed.stackIns

protected theorem Formed.execRot {k : Fin 10} (hs : Formed s) : FormedOut (execRot k s) := hs.runIns Formed.insRot

protected theorem Formed.insNip : (insNip).Keeps := Formed.stackIns

protected theorem Formed.execNip {k : Fin 10} (hs : Formed s) : FormedOut (execNip k s) := hs.runIns Formed.insNip

protected theorem Formed.insTuck : (insTuck).Keeps := Formed.stackIns

protected theorem Formed.execTuck {k : Fin 10} (hs : Formed s) : FormedOut (execTuck k s) := hs.runIns Formed.insTuck

protected theorem Formed.binIns {f : Nat} {op : Word → Word → Word} : (binIns f op).Keeps := Formed.stackIns

protected theorem Formed.insAdd : (insAdd).Keeps := Formed.binIns

protected theorem Formed.execAdd {k : Fin 10} (hs : Formed s) : FormedOut (execAdd k s) := hs.runIns Formed.insAdd

protected theorem Formed.insSub : (insSub).Keeps := Formed.binIns

protected theorem Formed.execSub {k : Fin 10} (hs : Formed s) : FormedOut (execSub k s) := hs.runIns Formed.insSub

protected theorem Formed.unIns {f : Nat} {op : Word → Word} : (unIns f op).Keeps := Formed.stackIns

protected theorem Formed.insNeg : (insNeg).Keeps := Formed.unIns

protected theorem Formed.execNeg {k : Fin 10} (hs : Formed s) : FormedOut (execNeg k s) := hs.runIns Formed.insNeg

protected theorem Formed.insAbs : (insAbs).Keeps := Formed.unIns

protected theorem Formed.execAbs {k : Fin 10} (hs : Formed s) : FormedOut (execAbs k s) := hs.runIns Formed.insAbs

protected theorem Formed.insAnd : (insAnd).Keeps := Formed.binIns

protected theorem Formed.execAnd {k : Fin 10} (hs : Formed s) : FormedOut (execAnd k s) := hs.runIns Formed.insAnd

protected theorem Formed.insOr : (insOr).Keeps := Formed.binIns

protected theorem Formed.execOr {k : Fin 10} (hs : Formed s) : FormedOut (execOr k s) := hs.runIns Formed.insOr

protected theorem Formed.insXor : (insXor).Keeps := Formed.binIns

protected theorem Formed.execXor {k : Fin 10} (hs : Formed s) : FormedOut (execXor k s) := hs.runIns Formed.insXor

protected theorem Formed.insNot : (insNot).Keeps := Formed.unIns

protected theorem Formed.execNot {k : Fin 10} (hs : Formed s) : FormedOut (execNot k s) := hs.runIns Formed.insNot

protected theorem Formed.insAndn : (insAndn).Keeps := Formed.binIns

protected theorem Formed.execAndn {k : Fin 10} (hs : Formed s) : FormedOut (execAndn k s) := hs.runIns Formed.insAndn

protected theorem Formed.insMin : (insMin).Keeps := Formed.binIns

protected theorem Formed.execMin {k : Fin 10} (hs : Formed s) : FormedOut (execMin k s) := hs.runIns Formed.insMin

protected theorem Formed.insMax : (insMax).Keeps := Formed.binIns

protected theorem Formed.execMax {k : Fin 10} (hs : Formed s) : FormedOut (execMax k s) := hs.runIns Formed.insMax

protected theorem Formed.insMinu : (insMinu).Keeps := Formed.binIns

protected theorem Formed.execMinu {k : Fin 10} (hs : Formed s) : FormedOut (execMinu k s) := hs.runIns Formed.insMinu

protected theorem Formed.insMaxu : (insMaxu).Keeps := Formed.binIns

protected theorem Formed.execMaxu {k : Fin 10} (hs : Formed s) : FormedOut (execMaxu k s) := hs.runIns Formed.insMaxu

protected theorem Formed.insAddsat : (insAddsat).Keeps := Formed.binIns

protected theorem Formed.execAddsat {k : Fin 10} (hs : Formed s) : FormedOut (execAddsat k s) := hs.runIns Formed.insAddsat

protected theorem Formed.insSubsat : (insSubsat).Keeps := Formed.binIns

protected theorem Formed.execSubsat {k : Fin 10} (hs : Formed s) : FormedOut (execSubsat k s) := hs.runIns Formed.insSubsat

protected theorem Formed.launch {k now d : Nat} {op : LandOp} (hs : Formed s) : Formed (launch s k now d op) := hs.setCore

protected theorem Formed.mulIns {fn d : Nat} {mul : Word → Word → Int} {f : Int → LandOp} : (mulIns fn d mul f).Keeps :=
  ⟨(fun _ _ _ h => h.onBank.launch.fin1), (fun _ _ h => h)⟩

protected theorem Formed.insMul : (insMul).Keeps := Formed.mulIns

protected theorem Formed.execMul {k : Fin 10} (hs : Formed s) : FormedOut (execMul k s) := hs.runIns Formed.insMul

protected theorem Formed.insMulu : (insMulu).Keeps := Formed.mulIns

protected theorem Formed.execMulu {k : Fin 10} (hs : Formed s) : FormedOut (execMulu k s) := hs.runIns Formed.insMulu

protected theorem Formed.insMac : (insMac).Keeps := Formed.mulIns

protected theorem Formed.execMac {k : Fin 10} (hs : Formed s) : FormedOut (execMac k s) := hs.runIns Formed.insMac

protected theorem Formed.insMsu : (insMsu).Keeps := Formed.mulIns

protected theorem Formed.execMsu {k : Fin 10} (hs : Formed s) : FormedOut (execMsu k s) := hs.runIns Formed.insMsu

protected theorem Formed.insClracc : (insClracc).Keeps := ⟨(fun _ _ _ h => h.launch.fin1), (fun _ _ h => h)⟩

protected theorem Formed.execClracc {k : Fin 10} (hs : Formed s) : FormedOut (execClracc k s) := hs.runIns Formed.insClracc

protected theorem Formed.insRdph : (insRdph).Keeps := Formed.stackIns

protected theorem Formed.execRdph {k : Fin 10} (hs : Formed s) : FormedOut (execRdph k s) := hs.runIns Formed.insRdph

protected theorem Formed.insRdpl : (insRdpl).Keeps := Formed.stackIns

protected theorem Formed.execRdpl {k : Fin 10} (hs : Formed s) : FormedOut (execRdpl k s) := hs.runIns Formed.insRdpl

protected theorem Formed.insRdacc0 : (insRdacc0).Keeps := Formed.stackIns

protected theorem Formed.execRdacc0 {k : Fin 10} (hs : Formed s) : FormedOut (execRdacc0 k s) := hs.runIns Formed.insRdacc0

protected theorem Formed.insRdacc1 : (insRdacc1).Keeps := Formed.stackIns

protected theorem Formed.execRdacc1 {k : Fin 10} (hs : Formed s) : FormedOut (execRdacc1 k s) := hs.runIns Formed.insRdacc1

protected theorem Formed.insRdacc2 : (insRdacc2).Keeps := Formed.stackIns

protected theorem Formed.execRdacc2 {k : Fin 10} (hs : Formed s) : FormedOut (execRdacc2 k s) := hs.runIns Formed.insRdacc2

protected theorem Formed.insLdl {n : Fin 16} : (insLdl n).Keeps := Formed.stackIns

protected theorem Formed.execLdl {k : Fin 10} {n : Fin 16} (hs : Formed s) : FormedOut (execLdl k n s) :=
  hs.runIns Formed.insLdl

protected theorem Formed.insPutl {n : Fin 16} : (insPutl n).Keeps := ⟨(fun _ _ _ h => h.onBank.fin1), (fun _ _ h => h)⟩

protected theorem Formed.execPutl {k : Fin 10} {n : Fin 16} (hs : Formed s) : FormedOut (execPutl k n s) :=
  hs.runIns Formed.insPutl

protected theorem Formed.insTeel {n : Fin 16} : (insTeel n).Keeps := ⟨(fun _ _ _ h => h.onBank.fin1), (fun _ _ h => h)⟩

protected theorem Formed.execTeel {k : Fin 10} {n : Fin 16} (hs : Formed s) : FormedOut (execTeel k n s) :=
  hs.runIns Formed.insTeel

protected theorem Formed.insPick {n : Fin 32} : (insPick n).Keeps := ⟨(fun _ _ _ h => h.onBank.fin1), (fun _ _ h => h)⟩

protected theorem Formed.execPick {k : Fin 10} {n : Fin 32} (hs : Formed s) : FormedOut (execPick k n s) :=
  hs.runIns Formed.insPick

protected theorem Formed.insLit {v : BitVec 9} : (insLit v).Keeps := Formed.stackIns

protected theorem Formed.execLit {k : Fin 10} {v : BitVec 9} (hs : Formed s) : FormedOut (execLit k v s) :=
  hs.runIns Formed.insLit

protected theorem Formed.insAddi {v : BitVec 9} : (insAddi v).Keeps := Formed.stackIns

protected theorem Formed.execAddi {k : Fin 10} {v : BitVec 9} (hs : Formed s) : FormedOut (execAddi k v s) :=
  hs.runIns Formed.insAddi

protected theorem Formed.stackInsL {opc : Nat} {ps : Fin 8} {sn : Bool} {ext c p : Nat} {cls : IClass} {bad : Bool}
    {f : Bank → List Word} :
    (stackInsL opc ps sn ext c p cls bad f).Keeps :=
  ⟨(fun _ _ _ h => h.onBank.fin1), (fun _ _ h => h)⟩

protected theorem Formed.insLit16 {ps : Fin 8} {sn : Bool} {v : BitVec 16} : (insLit16 ps sn v).Keeps := Formed.stackInsL

protected theorem Formed.execLit16 {k : Fin 10} {ps : Fin 8} {sn : Bool} {v : BitVec 16} (hs : Formed s) :
    FormedOut (execLit16 k ps sn v s) :=
  hs.runIns Formed.insLit16

protected theorem Formed.insLitx16 {ps : Fin 8} {sn : Bool} {v : BitVec 16} : (insLitx16 ps sn v).Keeps := Formed.stackInsL

protected theorem Formed.execLitx16 {k : Fin 10} {ps : Fin 8} {sn : Bool} {v : BitVec 16} (hs : Formed s) :
    FormedOut (execLitx16 k ps sn v s) :=
  hs.runIns Formed.insLitx16

protected theorem Formed.insAddi16 {ps : Fin 8} {sn : Bool} {v : BitVec 16} : (insAddi16 ps sn v).Keeps := Formed.stackInsL

protected theorem Formed.execAddi16 {k : Fin 10} {ps : Fin 8} {sn : Bool} {v : BitVec 16} (hs : Formed s) :
    FormedOut (execAddi16 k ps sn v s) :=
  hs.runIns Formed.insAddi16

protected theorem Formed.insAndi16 {ps : Fin 8} {sn : Bool} {v : BitVec 16} : (insAndi16 ps sn v).Keeps := Formed.stackInsL

protected theorem Formed.execAndi16 {k : Fin 10} {ps : Fin 8} {sn : Bool} {v : BitVec 16} (hs : Formed s) :
    FormedOut (execAndi16 k ps sn v s) :=
  hs.runIns Formed.insAndi16

protected theorem Formed.insOri16 {ps : Fin 8} {sn : Bool} {v : BitVec 16} : (insOri16 ps sn v).Keeps := Formed.stackInsL

protected theorem Formed.execOri16 {k : Fin 10} {ps : Fin 8} {sn : Bool} {v : BitVec 16} (hs : Formed s) :
    FormedOut (execOri16 k ps sn v s) :=
  hs.runIns Formed.insOri16

protected theorem Formed.insXori16 {ps : Fin 8} {sn : Bool} {v : BitVec 16} : (insXori16 ps sn v).Keeps := Formed.stackInsL

protected theorem Formed.execXori16 {k : Fin 10} {ps : Fin 8} {sn : Bool} {v : BitVec 16} (hs : Formed s) :
    FormedOut (execXori16 k ps sn v s) :=
  hs.runIns Formed.insXori16

protected theorem Formed.shiftIns {opc : Nat} {n : Fin 64} {f : Word → Nat → Word} : (shiftIns opc n f).Keeps :=
  ⟨(fun _ _ _ h => h.onBank.fin1), (fun _ _ h => h)⟩

protected theorem Formed.insShl {n : Fin 64} : (insShl n).Keeps := Formed.shiftIns

protected theorem Formed.execShl {k : Fin 10} {n : Fin 64} (hs : Formed s) : FormedOut (execShl k n s) :=
  hs.runIns Formed.insShl

protected theorem Formed.insShr {n : Fin 64} : (insShr n).Keeps := Formed.shiftIns

protected theorem Formed.execShr {k : Fin 10} {n : Fin 64} (hs : Formed s) : FormedOut (execShr k n s) :=
  hs.runIns Formed.insShr

protected theorem Formed.insSar {n : Fin 64} : (insSar n).Keeps := Formed.shiftIns

protected theorem Formed.execSar {k : Fin 10} {n : Fin 64} (hs : Formed s) : FormedOut (execSar k n s) :=
  hs.runIns Formed.insSar

protected theorem Formed.insRol {n : Fin 64} : (insRol n).Keeps := Formed.shiftIns

protected theorem Formed.execRol {k : Fin 10} {n : Fin 64} (hs : Formed s) : FormedOut (execRol k n s) :=
  hs.runIns Formed.insRol

protected theorem Formed.vshiftIns {f : Nat} {op : Word → Nat → Word} : (vshiftIns f op).Keeps := Formed.stackIns

protected theorem Formed.insShlv : (insShlv).Keeps := Formed.vshiftIns

protected theorem Formed.execShlv {k : Fin 10} (hs : Formed s) : FormedOut (execShlv k s) := hs.runIns Formed.insShlv

protected theorem Formed.insShrv : (insShrv).Keeps := Formed.vshiftIns

protected theorem Formed.execShrv {k : Fin 10} (hs : Formed s) : FormedOut (execShrv k s) := hs.runIns Formed.insShrv

protected theorem Formed.insSarv : (insSarv).Keeps := Formed.vshiftIns

protected theorem Formed.execSarv {k : Fin 10} (hs : Formed s) : FormedOut (execSarv k s) := hs.runIns Formed.insSarv

protected theorem Formed.insRolv : (insRolv).Keeps := Formed.vshiftIns

protected theorem Formed.execRolv {k : Fin 10} (hs : Formed s) : FormedOut (execRolv k s) := hs.runIns Formed.insRolv

protected theorem Formed.insExtu {ps : Fin 8} {sn : Bool} {pos len1 : Fin 64} : (insExtu ps sn pos len1).Keeps :=
  Formed.stackInsL

protected theorem Formed.execExtu {k : Fin 10} {ps : Fin 8} {sn : Bool} {pos len1 : Fin 64} (hs : Formed s) :
    FormedOut (execExtu k ps sn pos len1 s) :=
  hs.runIns Formed.insExtu

protected theorem Formed.insExts {ps : Fin 8} {sn : Bool} {pos len1 : Fin 64} : (insExts ps sn pos len1).Keeps :=
  Formed.stackInsL

protected theorem Formed.execExts {k : Fin 10} {ps : Fin 8} {sn : Bool} {pos len1 : Fin 64} (hs : Formed s) :
    FormedOut (execExts k ps sn pos len1 s) :=
  hs.runIns Formed.insExts

protected theorem Formed.insIns {ps : Fin 8} {sn : Bool} {pos len1 : Fin 64} : (insIns ps sn pos len1).Keeps := Formed.stackInsL

protected theorem Formed.execIns {k : Fin 10} {ps : Fin 8} {sn : Bool} {pos len1 : Fin 64} (hs : Formed s) :
    FormedOut (execIns k ps sn pos len1 s) :=
  hs.runIns Formed.insIns

protected theorem Formed.insRndacc {n : Fin 64} : (insRndacc n).Keeps := Formed.stackIns

protected theorem Formed.execRndacc {k : Fin 10} {n : Fin 64} (hs : Formed s) : FormedOut (execRndacc k n s) :=
  hs.runIns Formed.insRndacc

protected theorem Formed.insRndaccs {ps : Fin 8} {sn : Bool} {n : Fin 64} {d : Fin 8} : (insRndaccs ps sn n d).Keeps :=
  ⟨(fun _ _ _ h => h.onBank.fin1), (fun _ _ h => h)⟩

protected theorem Formed.execRndaccs {k : Fin 10} {ps : Fin 8} {sn : Bool} {n : Fin 64} {d : Fin 8} (hs : Formed s) :
    FormedOut (execRndaccs k ps sn n d s) :=
  hs.runIns Formed.insRndaccs

protected theorem Formed.insWracc {n : Fin 64} : (insWracc n).Keeps := ⟨(fun _ _ _ h => h.onBank.launch.fin1), (fun _ _ h => h)⟩

protected theorem Formed.execWracc {k : Fin 10} {n : Fin 64} (hs : Formed s) : FormedOut (execWracc k n s) :=
  hs.runIns Formed.insWracc

protected theorem Formed.insCmp {cc : Fin 16} {d : Fin 8} : (insCmp cc d).Keeps :=
  ⟨(fun _ _ _ h => h.onBank.fin1), (fun _ _ h => h)⟩

protected theorem Formed.execCmp {k : Fin 10} {cc : Fin 16} {d : Fin 8} (hs : Formed s) : FormedOut (execCmp k cc d s) :=
  hs.runIns Formed.insCmp

protected theorem Formed.insCmpi {ps : Fin 8} {sn : Bool} {cc : Fin 16} {d : Fin 8} {v : BitVec 16} :
    (insCmpi ps sn cc d v).Keeps :=
  ⟨(fun _ _ _ h => h.onBank.fin1), (fun _ _ h => h)⟩

protected theorem Formed.execCmpi {k : Fin 10} {ps : Fin 8} {sn : Bool} {cc : Fin 16} {d : Fin 8} {v : BitVec 16}
    (hs : Formed s) :
    FormedOut (execCmpi k ps sn cc d v s) :=
  hs.runIns Formed.insCmpi

protected theorem Formed.predIns {parcels : List Nat} {c d : Nat} {f : Bank → Bool} : (predIns parcels c d f).Keeps :=
  ⟨(fun _ _ _ h => h.onBank.fin1), (fun _ _ h => h)⟩

protected theorem Formed.insTstp {d : Fin 8} : (insTstp d).Keeps := Formed.predIns

protected theorem Formed.execTstp {k : Fin 10} {d : Fin 8} (hs : Formed s) : FormedOut (execTstp k d s) :=
  hs.runIns Formed.insTstp

protected theorem Formed.insPand {d a b : Fin 8} : (insPand d a b).Keeps := Formed.predIns

protected theorem Formed.execPand {k : Fin 10} {d a b : Fin 8} (hs : Formed s) : FormedOut (execPand k d a b s) :=
  hs.runIns Formed.insPand

protected theorem Formed.insPor {d a b : Fin 8} : (insPor d a b).Keeps := Formed.predIns

protected theorem Formed.execPor {k : Fin 10} {d a b : Fin 8} (hs : Formed s) : FormedOut (execPor k d a b s) :=
  hs.runIns Formed.insPor

protected theorem Formed.insPxor {d a b : Fin 8} : (insPxor d a b).Keeps := Formed.predIns

protected theorem Formed.execPxor {k : Fin 10} {d a b : Fin 8} (hs : Formed s) : FormedOut (execPxor k d a b s) :=
  hs.runIns Formed.insPxor

protected theorem Formed.insPnot {d a : Fin 8} : (insPnot d a).Keeps := Formed.predIns

protected theorem Formed.execPnot {k : Fin 10} {d a : Fin 8} (hs : Formed s) : FormedOut (execPnot k d a s) :=
  hs.runIns Formed.insPnot

protected theorem Formed.insRdp {n : Fin 8} : (insRdp n).Keeps := Formed.stackIns

protected theorem Formed.execRdp {k : Fin 10} {n : Fin 8} (hs : Formed s) : FormedOut (execRdp k n s) := hs.runIns Formed.insRdp

protected theorem Formed.issueGrd {k cnt ps : Nat} {sn : Bool} (hs : Formed s) : Formed (issueGrd k cnt ps sn s) := by
  unfold issueGrd
  split
  next e t heq => exact (Formed.of_snd hs.fetchIns heq).fetchStopped
  next t heq =>
    extract_lets _
    refine Formed.ite ?_ ?_
    · exact ((Formed.of_snd hs.fetchIns heq).syncFault).settle
    · refine Formed.ite ?_ ?_
      · exact ((Formed.of_snd hs.fetchIns heq).syncFault).settle
      · exact ((Formed.of_snd hs.fetchIns heq).setCore).onDbg

protected theorem Formed.execGrd {k : Fin 10} {cnt : Fin 4} {sn : Bool} {ps : Fin 8} (hs : Formed s) :
    FormedOut (execGrd k cnt sn ps s) :=
  (hs.atBoundary (fun _ h => h.issueGrd)).ok

protected theorem Formed.wpMark {k a : Nat} {store pair : Bool} (hs : Formed s) : Formed (wpMark s k a store pair) :=
  Formed.ite hs.mk hs

protected theorem Formed.arrayReadPair {a port : Nat} (hs : Formed s) : Formed (arrayReadPair s a port).2.2 := by
  unfold arrayReadPair
  extract_lets r q
  have hr : Formed r.2.2 := hs.arrayRead
  have hq : Formed q.2.2 := hr.arrayRead
  exact Formed.ite_of (fun p => Prod.snd (Prod.snd (p))) hr (Formed.ite_of (fun p => Prod.snd (Prod.snd (p))) hq hq)

protected theorem Formed.wcSame {k line : Nat} (hs : Formed s) : Formed (wcSame s k line) := Formed.ite hs.wcEmit hs

protected theorem Formed.streamEnd {k : Nat} (hs : Formed s) : Formed (streamEnd s k) := hs.wcEmit.onSvc.srw

protected theorem Formed.missEnds {k : Nat} (hs : Formed s) : Formed (missEnds s k) := Formed.ite hs.streamEnd hs

protected theorem Formed.foundIn {x0 : Line} {i cost : Nat} (hs : Formed s) : Formed (foundIn x0 i s cost).state := hs

protected theorem Formed.loadMiss {k : Nat} {tr : Trans} {pair : Bool} (hs : Formed s) : Formed (loadMiss s k tr pair).state := by
  unfold loadMiss
  extract_lets line i
  split
  · split
    · exact hs
    · split
      · exact hs
      · exact hs.missEnds.wantFill
  · split
    · exact hs
    · split
      next x u heq =>
        split
        · exact (Formed.of_mem hs.takeBack heq).dAlloc.foundIn
        · exact hs.foundIn
      · split
        next x u heq => exact (Formed.of_mem (mem_ite_none hs.takeSide) heq).dAlloc.foundIn
        · split
          · exact hs
          · exact hs.missEnds.cntDmiss.missFill

protected theorem Formed.cachedLoad {k : Nat} {tr : Trans} {pair : Bool} (hs : Formed s) :
    Formed (cachedLoad s k tr pair).state := by
  unfold cachedLoad
  extract_lets _ _ s1 _
  have hs1 : Formed s1 := hs.wcSame
  split
  · exact hs1.loadMiss
  · extract_lets _ t t1
    have ht : Formed t := hs1.setDLine.cntUe
    have ht1 : Formed t1 := Formed.ite hs1 hs1.countFixes.setDLine
    exact Formed.ite_of Found.state (Formed.ite_of Found.state ht ht.loadMiss) ht1.dTouch.foundIn

protected theorem Formed.ofFound {a : Found} (hs : Formed a.state) : Formed (ofFound a).state := by
  unfold ofFound
  split
  · exact hs
  · exact hs
  · exact hs
  · exact hs

protected theorem Formed.uncached {k : Nat} {tr : Trans} {go : State → MemRes} (hs : Formed s)
    (hf : ∀ u0, Formed u0 → Formed (go u0).state) :
    Formed (uncached s k tr go).state :=
  Formed.ite_of MemRes.state hs.wcSame (hf _ hs.wcSame)

protected theorem Formed.loadAt {k a : Nat} {pair : Bool} (hs : Formed s) : Formed (loadAt s k a pair).state := by
  unfold loadAt
  extract_lets ask r r1
  have hask : ∀ u0 x1 x2, Formed u0 → Formed (ask u0 x1 x2).state := by
    intro _ _ _ h
    unfold ask
    split
    next id t heq => exact Formed.of_snd h.sendRead heq
  have hr : Formed r.2.2 := hs.arrayReadPair
  have hr1 : Formed r1.2.2 := hs.arrayRead
  split
  · split
    · exact hs
    · exact Formed.ite_of MemRes.state hs.cachedLoad.ofFound (hs.uncached (fun _ h => (hask _ _ _ h)))
  · split
    · exact hs
    · split
      · split
        · exact hs
        · exact Formed.ite_of MemRes.state (Formed.ite_of MemRes.state hr hr) (Formed.ite_of MemRes.state hr1 hr1)
      · exact hask _ _ _ hs

protected theorem Formed.MemRes_map {f : State → State} {a : MemRes} (hs : Formed a.state)
    (hf : ∀ u0, Formed u0 → Formed (f u0)) :
    Formed (MemRes.map f a).state := by
  unfold MemRes.map
  split
  · exact hf _ hs
  · exact hf _ hs
  · exact hs

protected theorem Formed.coreLoad {k a : Nat} {pair : Bool} (hs : Formed s) : Formed (coreLoad s k a pair).state :=
  hs.loadAt.MemRes_map (fun _ h => h.wpMark)

protected theorem Formed.loadWait {k pops : Nat} {len a : Nat} {id min : Nat} (hs : Formed s) :
    Formed (loadWait s k pops len a id min).state :=
  hs.setCore

protected theorem Formed.loadBody {t pops len : Nat} {o : Bank → Int} {k x6 : Nat} (hs : Formed s) :
    Formed (loadBody t pops len o s k x6).state := by
  unfold loadBody
  extract_lets _
  split
  · exact hs
  · split
    next s c v heq1 => exact MemRes.of_eq hs.coreLoad heq1
    next s heq1 => exact MemRes.of_eq hs.coreLoad heq1
    next u id n heq1 => exact (MemRes.of_eq hs.coreLoad heq1).loadWait
    next w hi tag s n heq1 => exact (MemRes.of_eq hs.coreLoad heq1).onBank

protected theorem Formed.insLdw {t : Fin 16} {d : Fin 32} : (insLdw t d).Keeps := by
  unfold insLdw
  refine Ins.keeps_of (fun s k now hs => ?_) (fun s k hs => ?_)
  · exact hs.loadBody
  · exact hs

protected theorem Formed.execLdw {k : Fin 10} {t : Fin 16} {d : Fin 32} (hs : Formed s) : FormedOut (execLdw k t d s) :=
  hs.runIns Formed.insLdw

protected theorem Formed.wcOther {k line : Nat} (hs : Formed s) : Formed (wcOther s k line) := Formed.ite hs hs.wcEmit

protected theorem Formed.storeHit {k line : Nat} {w i : Nat} {v : Word} {pair : Option (Word × Bool)} (hs : Formed s) :
    Formed (storeHit s k line w i v pair) :=
  hs.setDLine.dTouch

protected theorem Formed.stored (hs : Formed s) : Formed (stored s).state := hs

protected theorem Formed.streamCount {k line : Nat} (hs : Formed s) : Formed (streamCount s k line) :=
  Formed.ite hs.setSvc.srw hs.setSvc

protected theorem Formed.streamMiss {k line : Nat} (hs : Formed s) : Formed (streamMiss s k line) :=
  Formed.ite hs (Formed.ite hs.streamEnd.onSvc.streamCount hs.streamCount)

protected theorem Formed.fillStore {k : Nat} {f : Fill} {i : Nat} {v : Word} {pair : Option (Word × Bool)} (hs : Formed s) :
    Formed (fillStore s k f i v pair) :=
  hs.onSvc

protected theorem Formed.wcGather {k line i : Nat} {v : Word} {pair : Option (Word × Bool)} (hs : Formed s) :
    Formed (wcGather s k line i v pair) :=
  Formed.ite hs.wcOther.setSvc.wcEmit hs.wcOther.setSvc

protected theorem Formed.storeMiss {k : Nat} {tr : Trans} {v : Word} {pair : Option (Word × Bool)} (hs : Formed s) :
    Formed (storeMiss s k tr v pair).state := by
  unfold storeMiss
  extract_lets _ _ _ t _
  have ht : Formed t := hs.streamMiss
  split
  · exact ht.cntDmiss.wcGather.stored
  · exact Formed.ite_of Found.state hs ht.cntDmiss.startFill.prefetch.stored

protected theorem Formed.storeInto {k : Nat} {tr : Trans} {v : Word} {pair : Option (Word × Bool)} {x5 : Line} (hs : Formed s) :
    Formed (storeInto s k tr v pair x5).state := by
  unfold storeInto
  extract_lets t
  have ht : Formed t := hs.dAlloc
  split
  · exact ht.storeHit.stored
  · exact hs

protected theorem Formed.cachedStore {k : Nat} {tr : Trans} {v : Word} {pair : Option (Word × Bool)} (hs : Formed s) :
    Formed (cachedStore s k tr v pair).state := by
  unfold cachedStore
  extract_lets _ _ s1
  have hs1 : Formed s1 := hs.wcOther
  split
  · exact hs1.storeHit.stored
  · split
    · exact Formed.ite_of Found.state hs1 hs1.cntDmiss.streamMiss.fillStore.prefetch.stored
    · split
      · exact hs1
      · split
        · exact Formed.ite_of Found.state hs1 hs1.onSvc.storeMiss
        · split
          next x t heq2 => exact (Formed.of_mem hs1.takeBack heq2).storeInto
          · split
            next x t heq3 => exact (Formed.of_mem hs1.takeSide heq3).storeInto
            · exact hs1.storeMiss

protected theorem Formed.dropPrefetched {k line : Nat} (hs : Formed s) : Formed (dropPrefetched s k line) := hs.onSvc

protected theorem Formed.storeAt {k a : Nat} {v : Word} {pair : Option (Word × Bool)} {otype : Nat} (hs : Formed s) :
    Formed (storeAt s k a v pair otype).state := by
  unfold storeAt
  split
  · split
    · exact hs
    · exact Formed.ite_of MemRes.state hs.cachedStore.ofFound (hs.wcEmit.uncached (fun _ h => h.dropPrefetched.sendReq))
  · split
    · exact hs
    · split
      · split
        · exact hs
        · extract_lets r
          have hr : Formed r.2 := by
            unfold r
            split
            · exact hs.arrayWritePair
            · exact hs.arrayWrite
          exact Formed.ite_of MemRes.state hr hr
      · exact hs.sendReq

protected theorem Formed.coreStore {k a : Nat} {v : Word} {pair : Option (Word × Bool)} {otype : Nat} (hs : Formed s) :
    Formed (coreStore s k a v pair otype).state :=
  hs.storeAt.MemRes_map (fun _ h => h.wpMark)

protected theorem Formed.storeBody {t pops : Nat} {o : Bank → Int} {v : Bank → Word} {k x6 : Nat} (hs : Formed s) :
    Formed (storeBody t pops o v s k x6).state := by
  unfold storeBody
  extract_lets _
  split
  · exact hs
  · split
    next s c v heq1 => exact MemRes.of_eq hs.coreStore heq1
    next s heq1 => exact MemRes.of_eq hs.coreStore heq1
    next s id min heq1 => exact MemRes.of_eq hs.coreStore heq1
    next w hi tag s n heq1 => exact (MemRes.of_eq hs.coreStore heq1).onBank

protected theorem Formed.insStw {t : Fin 16} {d : Fin 32} : (insStw t d).Keeps := by
  unfold insStw
  refine Ins.keeps_of (fun s k now hs => ?_) (fun s k hs => ?_)
  · exact hs.storeBody
  · exact hs

protected theorem Formed.execStw {k : Fin 10} {t : Fin 16} {d : Fin 32} (hs : Formed s) : FormedOut (execStw k t d s) :=
  hs.runIns Formed.insStw

protected theorem Formed.insLdwx {t : Fin 16} {d : Fin 32} : (insLdwx t d).Keeps := by
  unfold insLdwx
  refine Ins.keeps_of (fun s k now hs => ?_) (fun s k hs => ?_)
  · exact hs.loadBody
  · exact hs

protected theorem Formed.execLdwx {k : Fin 10} {t : Fin 16} {d : Fin 32} (hs : Formed s) : FormedOut (execLdwx k t d s) :=
  hs.runIns Formed.insLdwx

protected theorem Formed.insStwx {t : Fin 16} {d : Fin 32} : (insStwx t d).Keeps := by
  unfold insStwx
  refine Ins.keeps_of (fun s k now hs => ?_) (fun s k hs => ?_)
  · exact hs.storeBody
  · exact hs

protected theorem Formed.execStwx {k : Fin 10} {t : Fin 16} {d : Fin 32} (hs : Formed s) : FormedOut (execStwx k t d s) :=
  hs.runIns Formed.insStwx

protected theorem Formed.insLdwd {ps : Fin 8} {sn : Bool} {t : Fin 16} {d : BitVec 16} : (insLdwd ps sn t d).Keeps := by
  unfold insLdwd
  refine Ins.keeps_of (fun s k now hs => ?_) (fun s k hs => ?_)
  · exact hs.loadBody
  · exact hs

protected theorem Formed.execLdwd {k : Fin 10} {ps : Fin 8} {sn : Bool} {t : Fin 16} {d : BitVec 16} (hs : Formed s) :
    FormedOut (execLdwd k ps sn t d s) :=
  hs.runIns Formed.insLdwd

protected theorem Formed.insStwd {ps : Fin 8} {sn : Bool} {t : Fin 16} {d : BitVec 16} : (insStwd ps sn t d).Keeps := by
  unfold insStwd
  refine Ins.keeps_of (fun s k now hs => ?_) (fun s k hs => ?_)
  · exact hs.storeBody
  · exact hs

protected theorem Formed.execStwd {k : Fin 10} {ps : Fin 8} {sn : Bool} {t : Fin 16} {d : BitVec 16} (hs : Formed s) :
    FormedOut (execStwd k ps sn t d s) :=
  hs.runIns Formed.insStwd

protected theorem Formed.insLdwxd {ps : Fin 8} {sn : Bool} {t : Fin 16} {d : BitVec 16} : (insLdwxd ps sn t d).Keeps := by
  unfold insLdwxd
  refine Ins.keeps_of (fun s k now hs => ?_) (fun s k hs => ?_)
  · exact hs.loadBody
  · exact hs

protected theorem Formed.execLdwxd {k : Fin 10} {ps : Fin 8} {sn : Bool} {t : Fin 16} {d : BitVec 16} (hs : Formed s) :
    FormedOut (execLdwxd k ps sn t d s) :=
  hs.runIns Formed.insLdwxd

protected theorem Formed.insStwxd {ps : Fin 8} {sn : Bool} {t : Fin 16} {d : BitVec 16} : (insStwxd ps sn t d).Keeps := by
  unfold insStwxd
  refine Ins.keeps_of (fun s k now hs => ?_) (fun s k hs => ?_)
  · exact hs.storeBody
  · exact hs

protected theorem Formed.execStwxd {k : Fin 10} {ps : Fin 8} {sn : Bool} {t : Fin 16} {d : BitVec 16} (hs : Formed s) :
    FormedOut (execStwxd k ps sn t d s) :=
  hs.runIns Formed.insStwxd

protected theorem Formed.insBchk {t : Fin 16} : (insBchk t).Keeps := by
  unfold insBchk
  refine Ins.keeps_of (fun s k now hs => ?_) (fun s k hs => ?_)
  · extract_lets _ _
    exact Formed.ite_of IRes.state hs (Formed.ite_of IRes.state hs hs.fin1)
  · exact hs

protected theorem Formed.execBchk {k : Fin 10} {t : Fin 16} (hs : Formed s) : FormedOut (execBchk k t s) :=
  hs.runIns Formed.insBchk

protected theorem Formed.insBchkr : (insBchkr).Keeps :=
  ⟨(fun _ _ _ h => (Formed.ite_of IRes.state h.onBank.fin1 h)), (fun _ _ h => h)⟩

protected theorem Formed.execBchkr {k : Fin 10} (hs : Formed s) : FormedOut (execBchkr k s) := hs.runIns Formed.insBchkr

protected theorem Formed.predicted (hs : Formed s) : Formed (predicted s).2 := hs.freshBit

protected theorem Formed.takenCost {k : Nat} {fixed cond back : Bool} (hs : Formed s) :
    Formed (takenCost s k fixed cond back).2 :=
  Formed.ite_of Prod.snd hs.predicted (Formed.ite_of Prod.snd hs hs)

protected theorem Formed.transfer {len c : Nat} {g : Option (Nat × Bool)} {fixed : Bool} {fr : Frames} {tgt : Core → Word}
    {back : Core → Bool} {k x9 : Nat} (hs : Formed s) :
    Formed (transfer len c g fixed fr tgt back s k x9).state := by
  unfold transfer
  extract_lets _ _ r
  have hr : Formed r.2 := hs.takenCost
  split
  · exact hs
  · exact Formed.ite_of IRes.state hs hr.onBank

protected theorem Formed.notTaken {fixed back : Bool} {k : Nat} (hs : Formed s) : Formed (notTaken fixed back s k).state :=
  Formed.ite_of IRes.state hs.predicted hs

protected theorem Formed.brIns {opc : Nat} {off : BitVec 9} {fr : Frames} : (brIns opc off fr).Keeps := by
  unfold brIns
  refine Ins.keeps_of (fun s k now hs => ?_) (fun s k hs => ?_)
  · exact hs.transfer
  · exact hs.notTaken

protected theorem Formed.insBr {off : BitVec 9} : (insBr off).Keeps := Formed.brIns

protected theorem Formed.execBr {k : Fin 10} {off : BitVec 9} (hs : Formed s) : FormedOut (execBr k off s) :=
  hs.runIns Formed.insBr

protected theorem Formed.brlIns {opc : Nat} {ps : Fin 8} {sn : Bool} {off : BitVec 16} {fr : Frames} :
    (brlIns opc ps sn off fr).Keeps := by
  unfold brlIns
  refine Ins.keeps_of (fun s k now hs => ?_) (fun s k hs => ?_)
  · exact hs.transfer
  · exact hs.notTaken

protected theorem Formed.insBrl {ps : Fin 8} {sn : Bool} {off : BitVec 16} : (insBrl ps sn off).Keeps := Formed.brlIns

protected theorem Formed.execBrl {k : Fin 10} {ps : Fin 8} {sn : Bool} {off : BitVec 16} (hs : Formed s) :
    FormedOut (execBrl k ps sn off s) :=
  hs.runIns Formed.insBrl

protected theorem Formed.insCall {off : BitVec 9} : (insCall off).Keeps := Formed.brIns

protected theorem Formed.execCall {k : Fin 10} {off : BitVec 9} (hs : Formed s) : FormedOut (execCall k off s) :=
  hs.runIns Formed.insCall

protected theorem Formed.insCalll {ps : Fin 8} {sn : Bool} {off : BitVec 16} : (insCalll ps sn off).Keeps := Formed.brlIns

protected theorem Formed.execCalll {k : Fin 10} {ps : Fin 8} {sn : Bool} {off : BitVec 16} (hs : Formed s) :
    FormedOut (execCalll k ps sn off s) :=
  hs.runIns Formed.insCalll

protected theorem Formed.insCallf {off : BitVec 9} : (insCallf off).Keeps := Formed.brIns

protected theorem Formed.execCallf {k : Fin 10} {off : BitVec 9} (hs : Formed s) : FormedOut (execCallf k off s) :=
  hs.runIns Formed.insCallf

protected theorem Formed.insCallfl {ps : Fin 8} {sn : Bool} {off : BitVec 16} : (insCallfl ps sn off).Keeps := Formed.brlIns

protected theorem Formed.execCallfl {k : Fin 10} {ps : Fin 8} {sn : Bool} {off : BitVec 16} (hs : Formed s) :
    FormedOut (execCallfl k ps sn off s) :=
  hs.runIns Formed.insCallfl

protected theorem Formed.retIns {f : Nat} {fr : Frames} : (retIns f fr).Keeps := by
  unfold retIns
  refine Ins.keeps_of (fun s k now hs => ?_) (fun s k hs => ?_)
  · exact hs.transfer
  · exact hs.notTaken

protected theorem Formed.insRet : (insRet).Keeps := Formed.retIns

protected theorem Formed.execRet {k : Fin 10} (hs : Formed s) : FormedOut (execRet k s) := hs.runIns Formed.insRet

protected theorem Formed.insRetf : (insRetf).Keeps := Formed.retIns

protected theorem Formed.execRetf {k : Fin 10} (hs : Formed s) : FormedOut (execRetf k s) := hs.runIns Formed.insRetf

protected theorem Formed.jmpIns {f : Nat} {fr : Frames} : (jmpIns f fr).Keeps := by
  unfold jmpIns
  refine Ins.keeps_of (fun s k now hs => ?_) (fun s k hs => ?_)
  · exact hs.transfer
  · exact hs.notTaken

protected theorem Formed.insJmpi : (insJmpi).Keeps := Formed.jmpIns

protected theorem Formed.execJmpi {k : Fin 10} (hs : Formed s) : FormedOut (execJmpi k s) := hs.runIns Formed.insJmpi

protected theorem Formed.insCalli : (insCalli).Keeps := Formed.jmpIns

protected theorem Formed.execCalli {k : Fin 10} (hs : Formed s) : FormedOut (execCalli k s) := hs.runIns Formed.insCalli

protected theorem Formed.insCallfi : (insCallfi).Keeps := Formed.jmpIns

protected theorem Formed.execCallfi {k : Fin 10} (hs : Formed s) : FormedOut (execCallfi k s) := hs.runIns Formed.insCallfi

protected theorem Formed.insLoop {ps : Fin 8} {sn : Bool} {e : BitVec 16} {endLong : Bool} : (insLoop ps sn e endLong).Keeps := by
  unfold insLoop
  refine Ins.keeps_of (fun s k now hs => ?_) (fun s k hs => ?_)
  · extract_lets _ _ _ _
    exact Formed.ite_of IRes.state hs.onBank (Formed.ite_of IRes.state hs hs.onBank)
  · exact hs

protected theorem Formed.execLoop {k : Fin 10} {ps : Fin 8} {sn : Bool} {e : BitVec 16} {endLong : Bool} (hs : Formed s) :
    FormedOut (execLoop k ps sn e endLong s) :=
  hs.runIns Formed.insLoop

protected theorem Formed.insLexit : (insLexit).Keeps := ⟨(fun _ _ _ h => h.onBank.fin1), (fun _ _ h => h)⟩

protected theorem Formed.execLexit {k : Fin 10} (hs : Formed s) : FormedOut (execLexit k s) := hs.runIns Formed.insLexit

protected theorem Formed.insTor : (insTor).Keeps := by
  unfold insTor
  refine Ins.keeps_of (fun s k now hs => ?_) (fun s k hs => ?_)
  · extract_lets _
    split
    · exact hs
    · exact hs.onBank.fin1
  · exact hs

protected theorem Formed.execTor {k : Fin 10} (hs : Formed s) : FormedOut (execTor k s) := hs.runIns Formed.insTor

protected theorem Formed.rstkIns {f : Nat} {pop : Bool} : (rstkIns f pop).Keeps := by
  unfold rstkIns
  refine Ins.keeps_of (fun s k now hs => ?_) (fun s k hs => ?_)
  · extract_lets _
    split
    · exact hs
    · exact hs.onBank.fin1
  · exact hs

protected theorem Formed.insFromr : (insFromr).Keeps := Formed.rstkIns

protected theorem Formed.execFromr {k : Fin 10} (hs : Formed s) : FormedOut (execFromr k s) := hs.runIns Formed.insFromr

protected theorem Formed.insRfetch : (insRfetch).Keeps := Formed.rstkIns

protected theorem Formed.execRfetch {k : Fin 10} (hs : Formed s) : FormedOut (execRfetch k s) := hs.runIns Formed.insRfetch

protected theorem Formed.divIns {f : Nat} {op : Word → Word → Word × Word} : (divIns f op).Keeps :=
  ⟨(fun _ _ _ h => h.onBank), (fun _ _ h => h)⟩

protected theorem Formed.insDiv : (insDiv).Keeps := Formed.divIns

protected theorem Formed.execDiv {k : Fin 10} (hs : Formed s) : FormedOut (execDiv k s) := hs.runIns Formed.insDiv

protected theorem Formed.insDivu : (insDivu).Keeps := Formed.divIns

protected theorem Formed.execDivu {k : Fin 10} (hs : Formed s) : FormedOut (execDivu k s) := hs.runIns Formed.insDivu

protected theorem Formed.insScall {n : Fin 8} : (insScall n).Keeps := by
  unfold insScall
  refine Ins.keeps_of (fun s k now hs => ?_) (fun s k hs => ?_)
  · extract_lets _ _ _ _ _
    exact Formed.ite_of IRes.state hs (Formed.ite_of IRes.state hs hs.setCore)
  · exact hs

protected theorem Formed.execScall {k : Fin 10} {n : Fin 8} (hs : Formed s) : FormedOut (execScall k n s) :=
  hs.runIns Formed.insScall

protected theorem Formed.insSret : (insSret).Keeps := ⟨(fun _ _ _ h => (Formed.ite_of IRes.state h h.setCore)), (fun _ _ h => h)⟩

protected theorem Formed.execSret {k : Fin 10} (hs : Formed s) : FormedOut (execSret k s) := hs.runIns Formed.insSret

protected theorem Formed.insEret : (insEret).Keeps := by
  unfold insEret
  refine Ins.keeps_of (fun s k now hs => ?_) (fun s k hs => ?_)
  · extract_lets _ _ _
    exact Formed.ite_of IRes.state hs (Formed.ite_of IRes.state hs (Formed.ite_of IRes.state hs hs.setCore))
  · exact hs

protected theorem Formed.execEret {k : Fin 10} (hs : Formed s) : FormedOut (execEret k s) := hs.runIns Formed.insEret

protected theorem Formed.insFence : (insFence).Keeps := by
  unfold insFence
  refine Ins.keeps_of (fun s k now hs => ?_) (fun s k hs => ?_)
  · extract_lets t _
    have ht : Formed t := hs.wcEmit
    exact Formed.ite_of IRes.state ht.fin1 ht.setCore
  · exact Formed.ite_of IRes.state hs hs.setCore

protected theorem Formed.execFence {k : Fin 10} (hs : Formed s) : FormedOut (execFence k s) := hs.runIns Formed.insFence

protected theorem Formed.insWait {m : Fin 16} : (insWait m).Keeps := by
  unfold insWait
  refine Ins.keeps_of (fun s k now hs => ?_) (fun s k hs => ?_)
  · extract_lets _
    exact Formed.ite_of IRes.state hs.evpoll.fin1 hs.setCore
  · exact Formed.ite_of IRes.state hs hs.setCore

protected theorem Formed.execWait {k : Fin 10} {m : Fin 16} (hs : Formed s) : FormedOut (execWait k m s) :=
  hs.runIns Formed.insWait

protected theorem Formed.insEvpoll {m : Fin 16} : (insEvpoll m).Keeps := ⟨(fun _ _ _ h => h.evpoll.fin1), (fun _ _ h => h)⟩

protected theorem Formed.execEvpoll {k : Fin 10} {m : Fin 16} (hs : Formed s) : FormedOut (execEvpoll k m s) :=
  hs.runIns Formed.insEvpoll

protected theorem Formed.bkdatRead {t k x3 : Nat} (hs : Formed s) : Formed (bkdatRead t s k x3).state := by
  unfold bkdatRead
  extract_lets _ r
  have hr : Formed r.2 := hs.freshWord
  split
  · exact hs
  · exact Formed.ite_of IRes.state hr.onBank.fin1 (Formed.ite_of IRes.state hs hs.onBank.fin1)

protected theorem Formed.readSr {k n : Nat} (hs : Formed s) : Formed (readSr s k n).2 := by
  unfold readSr
  extract_lets _ _
  refine Formed.ite_of Prod.snd ?_ ?_
  · exact hs
  · refine Formed.ite_of Prod.snd ?_ ?_
    · exact hs
    · refine Formed.ite_of Prod.snd ?_ ?_
      · exact hs
      · refine Formed.ite_of Prod.snd ?_ ?_
        · exact hs
        · refine Formed.ite_of Prod.snd ?_ ?_
          · exact hs
          · refine Formed.ite_of Prod.snd ?_ ?_
            · exact hs
            · refine Formed.ite_of Prod.snd ?_ ?_
              · exact hs
              · refine Formed.ite_of Prod.snd ?_ ?_
                · exact hs
                · refine Formed.ite_of Prod.snd ?_ ?_
                  · exact hs
                  · exact Formed.ite_of Prod.snd hs.setCore (Formed.ite_of Prod.snd hs (Formed.ite_of Prod.snd hs.setCore hs))

protected theorem Formed.rdsrBody {t n : Nat} {k now : Nat} (hs : Formed s) : Formed (rdsrBody t n s k now).state :=
  Formed.ite_of IRes.state hs.bkdatRead hs.readSr.onBank.fin1

protected theorem Formed.insRdsr {ps : Fin 8} {sn : Bool} {t : Fin 16} {n : BitVec 9} : (insRdsr ps sn t n).Keeps :=
  ⟨(fun _ _ _ h => h.rdsrBody), (fun _ _ h => h)⟩

protected theorem Formed.execRdsr {k : Fin 10} {ps : Fin 8} {sn : Bool} {t : Fin 16} {n : BitVec 9} (hs : Formed s) :
    FormedOut (execRdsr k ps sn t n s) :=
  hs.runIns Formed.insRdsr

protected theorem Formed.bkdatWrite {t k x3 : Nat} (hs : Formed s) : Formed (bkdatWrite t s k x3).state := by
  unfold bkdatWrite
  extract_lets _ _
  split
  · exact hs
  · exact Formed.ite_of IRes.state hs.setCore hs.setCore

protected theorem Formed.cacheSync {k : Nat} (hs : Formed s) : Formed (cacheSync s k) := by
  unfold cacheSync
  extract_lets _ _ _ _ t _
  have ht : Formed t := Formed.ite hs.setSvc.srw.srw (Formed.ite hs.srw hs)
  exact Formed.ite ht.setSvc.srw ht.setSvc.srw

protected theorem Formed.detmWrite {k : Nat} {b : Bool} (hs : Formed s) : Formed (detmWrite s k b) :=
  Formed.ite hs.setCore.cacheSync hs.setCore

protected theorem Formed.tokctlWrite {k : Nat} {v : Word} (hs : Formed s) : Formed (tokctlWrite s k v) := hs.setCore

protected theorem Formed.l2Start {k : Nat} (hs : Formed s) : Formed (l2Start s k) := hs.onSvc.srw

protected theorem Formed.l2cfgWrite {k : Nat} {v : Word} (hs : Formed s) : Formed (l2cfgWrite s k v) := by
  unfold l2cfgWrite
  extract_lets _ t t1 _ _ _
  have ht : Formed t := hs.srw
  have ht1 : Formed t1 := Formed.ite ht ht.srw
  exact Formed.ite (Formed.ite ht1 (Formed.ite ht1.srw.srw ht1.srw.l2Start)) (Formed.ite ht1.srw.srw ht1)

protected theorem Formed.cleanLine {k line : Nat} (hs : Formed s) : Formed (cleanLine s k line) := by
  unfold cleanLine
  extract_lets t t1 _
  have ht : Formed t := by
    unfold t
    split
    · extract_lets _ _
      exact Formed.ite hs.writeHome.setDLine hs
    · exact hs
  have ht1 : Formed t1 := by
    unfold t1
    split
    · exact ht.writeHome.onSvc
    · exact ht
  refine Formed.ite ?_ ?_
  · split
    next w u heq => exact Formed.ite (((Formed.of_snd ht1.l2Look heq).l2Home).l2TagPut) (Formed.of_snd ht1.l2Look heq)
  · exact ht1

protected theorem Formed.icInvLine {k line : Nat} (hs : Formed s) : Formed (icInvLine s k line) := by
  unfold icInvLine
  extract_lets t
  have ht : Formed t := by
    unfold t
    split
    · exact hs.setILine
    · exact hs
  exact ht.onSvc

protected theorem Formed.invLine {k line : Nat} (hs : Formed s) : Formed (invLine s k line) := by
  unfold invLine
  extract_lets t t1
  have ht : Formed t := by
    unfold t
    split
    · exact hs.setDLine
    · exact hs
  have ht1 : Formed t1 := ht.icInvLine.onSvc
  refine Formed.ite ?_ ?_
  · split
    next w u heq => exact Formed.ite ((Formed.of_snd ht1.l2Look heq).l2TagPut) (Formed.of_snd ht1.l2Look heq)
  · exact ht1

protected theorem Formed.bgStart {k op : Nat} (hs : Formed s) : Formed (bgStart s k op) := hs.onSvc.srw

protected theorem Formed.cmopWrite {k op : Nat} (hs : Formed s) : (cmopWrite s k op).Formed := by
  unfold cmopWrite
  extract_lets t _
  have ht : Formed t := hs.srw
  split
  · trivial
  · split
    · exact ht
    · split
      · split
        · trivial
        · extract_lets _
          split
          · trivial
          · exact Formed.ite ht.cleanLine (Formed.ite ht.invLine (Formed.ite ht.cleanLine.invLine ht.icInvLine))
      · exact ht.bgStart

protected theorem Formed.dropPrefetches {k : Nat} (hs : Formed s) : Formed (dropPrefetches s k) := hs.onSvc

protected theorem Formed.setTlb {k i : Nat} {hi lo : Word} (hs : Formed s) : Formed (setTlb s k i hi lo) := hs.setSvc

protected theorem Formed.tlbInv {k : Nat} {p : Word → Bool} (hs : Formed s) : Formed (tlbInv s k p) :=
  hs.forN (fun _ _ h => (Formed.ite h.setTlb h))

protected theorem Formed.tlbCommand {k op i : Nat} (hs : Formed s) : Formed (tlbCommand s k op i) := by
  unfold tlbCommand
  extract_lets _ _ st _ _ _
  have hst : ∀ u0 x1, Formed u0 → Formed (st u0 x1) := fun _ _ h => h.srw.srw
  split
  · exact hst _ _ hs.setCore
  · exact hst _ _ (Formed.ite hs.setTlb hs)
  · split
    · exact (hst _ _ hs).srw
    · exact hst _ _ hs
  · exact hst _ _ hs.tlbInv
  · exact hst _ _ hs.tlbInv
  · exact hst _ _ hs

protected theorem Formed.tlbcmdWrite {k : Nat} {v : Word} (hs : Formed s) : (tlbcmdWrite s k v).Formed := by
  unfold tlbcmdWrite
  extract_lets op i clears t
  have ht : Formed t := Formed.ite hs.dropPrefetches hs
  split
  · trivial
  · exact Formed.ite ht.srw ht.tlbCommand

protected theorem Formed.waySync {k : Nat} (hs : Formed s) : Formed (waySync s k) := hs.onSvc.srw.srw

protected theorem Formed.writeSr {k n : Nat} {T : Tok} {v : Word} (hs : Formed s) : (writeSr s k n T v).Formed := by
  unfold writeSr
  extract_lets c may t
  have ht : Formed t := hs.setCore
  refine SrRes.formed_ite hs.onBank (SrRes.formed_ite hs.onBank (SrRes.formed_ite hs.onBank (SrRes.formed_ite hs.onBank ?_)))
  refine SrRes.formed_ite (Formed.ite hs.srw hs) (SrRes.formed_ite hs (SrRes.formed_ite hs.detmWrite ?_))
  refine SrRes.formed_ite hs.tokctlWrite (SrRes.formed_ite hs.l2cfgWrite (SrRes.formed_ite hs.cmopWrite ?_))
  refine SrRes.formed_ite hs.tlbcmdWrite (SrRes.formed_ite trivial ?_)
  exact SrRes.formed_ite (Formed.ite ht.streamEnd ht).cacheSync (SrRes.formed_ite ht.dropPrefetches (SrRes.formed_ite ht.waySync ht))

protected theorem Formed.wrsrBody {t n k now : Nat} (hs : Formed s) : Formed (wrsrBody t n s k now).state := by
  unfold wrsrBody
  split
  · exact hs.bkdatWrite
  · extract_lets b
    split
    next t heq => exact (SrRes.of_eq hs.writeSr heq : Formed t).onBank
    next t heq => exact (SrRes.of_eq hs.writeSr heq : Formed t).onBank
    · exact hs
    · exact hs

protected theorem Formed.insWrsr {ps : Fin 8} {sn : Bool} {t : Fin 16} {n : BitVec 9} : (insWrsr ps sn t n).Keeps :=
  ⟨(fun _ _ _ h => h.wrsrBody), (fun _ _ h => h)⟩

protected theorem Formed.execWrsr {k : Fin 10} {ps : Fin 8} {sn : Bool} {t : Fin 16} {n : BitVec 9} (hs : Formed s) :
    FormedOut (execWrsr k ps sn t n s) :=
  hs.runIns Formed.insWrsr

protected theorem Formed.takeGot {k : Nat} (hs : Formed s) : ∀ t ∈ takeGot s k, Formed t.2 := by
  unfold takeGot
  split
  · exact mem_some_all hs.setCore
  · exact mem_none_all

protected theorem Formed.stepLoad {k a : Nat} {pair : Bool} (hs : Formed s) : Formed (stepLoad s k a pair).state := by
  unfold stepLoad
  split
  next g t heq => exact Formed.ite_of MemRes.state (Formed.of_mem hs.takeGot heq) (Formed.of_mem hs.takeGot heq)
  · extract_lets _ _
    split
    · extract_lets t _
      have ht : Formed t := hs.setCore
      split
      · exact ht.spend
      · exact ht.setCore
    · split
      next w h g t n heq2 => exact (MemRes.of_eq hs.coreLoad heq2).spend
      next t id n heq2 => exact (MemRes.of_eq hs.coreLoad heq2).setCore
      · exact hs.coreLoad

protected theorem Formed.keptOver {k : Nat} (hs : Formed s) : Formed (keptOver s k) := Formed.ite hs hs.setCore

protected theorem Formed.bmoveSteps {sr dr f k now : Nat} (hs : Formed s) : Formed (bmoveSteps sr dr f s k now).state := by
  induction f generalizing s with
  | zero => exact hs
  | succ f ih =>
    unfold bmoveSteps
    extract_lets b da
    split
    next t _ _ heq => exact MemRes.of_eq hs.stepLoad heq
    next t heq => exact MemRes.of_eq hs.stepLoad heq
    next t _ _ heq => exact MemRes.of_eq hs.stepLoad heq
    next x _ _ t _ heq =>
      have ht : Formed t := MemRes.of_eq hs.stepLoad heq
      split
      next heq => exact MemRes.of_eq ht.coreStore heq
      next u heq => exact (MemRes.of_eq ht.coreStore heq : Formed u).setCore
      next heq => exact MemRes.of_eq ht.coreStore heq
      next u _ heq =>
        have hu : Formed u := MemRes.of_eq ht.coreStore heq
        extract_lets v
        have hv : Formed v := hu.spend.onBank
        split
        · exact hv.keptOver
        · split
          · exact hv
          · exact ih hv

protected theorem Formed.bmoveBody {sr dr : Nat} {steps k now : Nat} (hs : Formed s) :
    Formed (bmoveBody sr dr steps s k now).state := by
  unfold bmoveBody
  extract_lets _ _
  split
  · exact hs.onBank
  · split
    · exact hs
    · exact hs.bmoveSteps

protected theorem Formed.bmoveSkip {sr dr k : Nat} (hs : Formed s) : Formed (bmoveSkip sr dr s k).state := hs

protected theorem Formed.insBmove {ps : Fin 8} {sn : Bool} {q d : Fin 16} {steps : Nat} : (insBmove ps sn q d steps).Keeps :=
  ⟨(fun _ _ _ h => h.bmoveBody), (fun _ _ h => h.bmoveSkip)⟩

protected theorem Formed.execBmove {k : Fin 10} {ps : Fin 8} {sn : Bool} {q d : Fin 16} {steps : Nat} (hs : Formed s) :
    FormedOut (execBmove k ps sn q d steps s) :=
  hs.runIns Formed.insBmove

protected theorem Formed.saveSteps {upper : Bool} {t f k now : Nat} (hs : Formed s) :
    Formed (saveSteps upper t f s k now).state := by
  induction f generalizing s with
  | zero => exact hs
  | succ f ih =>
    unfold saveSteps
    extract_lets c b T j a tokn v r
    have hr : Formed r.state := by
      unfold r
      split
      · split
        · exact hs.coreStore
        · exact hs
      · exact hs.coreStore
    clear_value r
    split
    · exact hr
    · exact hr
    · exact hr
    · extract_lets u n
      have hu : Formed u := hr.spend
      split
      · exact hu.setCore
      · split
        · exact hu.setCore
        · exact ih hu.setCore

protected theorem Formed.saveBody {upper : Bool} {t steps : Nat} {k now : Nat} (hs : Formed s) :
    Formed (saveBody upper t steps s k now).state := by
  unfold saveBody
  extract_lets _
  split
  · exact hs
  · exact Formed.ite_of IRes.state hs hs.setCore.saveSteps

protected theorem Formed.saveSkip {upper : Bool} {t k : Nat} (hs : Formed s) : Formed (saveSkip upper t s k).state := hs

protected theorem Formed.insSavel {ps : Fin 8} {sn : Bool} {t : Fin 16} {steps : Nat} : (insSavel ps sn t steps).Keeps :=
  ⟨(fun _ _ _ h => h.saveBody), (fun _ _ h => h.saveSkip)⟩

protected theorem Formed.execSavel {k : Fin 10} {ps : Fin 8} {sn : Bool} {t : Fin 16} {steps : Nat} (hs : Formed s) :
    FormedOut (execSavel k ps sn t steps s) :=
  hs.runIns Formed.insSavel

protected theorem Formed.insSaveu {ps : Fin 8} {sn : Bool} {t : Fin 16} {steps : Nat} : (insSaveu ps sn t steps).Keeps :=
  ⟨(fun _ _ _ h => h.saveBody), (fun _ _ h => h.saveSkip)⟩

protected theorem Formed.execSaveu {k : Fin 10} {ps : Fin 8} {sn : Bool} {t : Fin 16} {steps : Nat} (hs : Formed s) :
    FormedOut (execSaveu k ps sn t steps s) :=
  hs.runIns Formed.insSaveu

protected theorem Formed.restSteps {upper : Bool} {t f k now : Nat} (hs : Formed s) :
    Formed (restSteps upper t f s k now).state := by
  induction f generalizing s with
  | zero => exact hs
  | succ f ih =>
    unfold restSteps
    extract_lets c T j tokn a r
    have hr : Formed r.state := by
      unfold r
      split
      · exact hs.spend
      · exact hs.stepLoad
    clear_value r
    split
    next u _ _ =>
      have hu : Formed u := hr
      exact Formed.ite hu.setCore hu
    · exact hr
    · exact hr
    next u _ =>
      have hu : Formed u := hr
      extract_lets c1 n c2 n1
      split
      · split
        · exact hu.setCore
        · split
          · exact hu.setCore
          · exact ih hu.setCore
      · split
        · exact hu.setCore.keptOver
        · split
          · exact hu.setCore
          · exact ih hu.setCore

protected theorem Formed.restBody {upper : Bool} {t steps : Nat} {k now : Nat} (hs : Formed s) :
    Formed (restBody upper t steps s k now).state := by
  unfold restBody
  split
  · exact hs
  · exact hs.setCore.restSteps

protected theorem Formed.restSkip {upper : Bool} {t k : Nat} (hs : Formed s) : Formed (restSkip upper t s k).state := hs

protected theorem Formed.insRestl {ps : Fin 8} {sn : Bool} {t : Fin 16} {steps : Nat} : (insRestl ps sn t steps).Keeps :=
  ⟨(fun _ _ _ h => h.restBody), (fun _ _ h => h.restSkip)⟩

protected theorem Formed.execRestl {k : Fin 10} {ps : Fin 8} {sn : Bool} {t : Fin 16} {steps : Nat} (hs : Formed s) :
    FormedOut (execRestl k ps sn t steps s) :=
  hs.runIns Formed.insRestl

protected theorem Formed.insRestu {ps : Fin 8} {sn : Bool} {t : Fin 16} {steps : Nat} : (insRestu ps sn t steps).Keeps :=
  ⟨(fun _ _ _ h => h.restBody), (fun _ _ h => h.restSkip)⟩

protected theorem Formed.execRestu {k : Fin 10} {ps : Fin 8} {sn : Bool} {t : Fin 16} {steps : Nat} (hs : Formed s) :
    FormedOut (execRestu k ps sn t steps s) :=
  hs.runIns Formed.insRestu

protected theorem Formed.setTokR {k d : Nat} {t : Tok} (hs : Formed s) : Formed (setTokR s k d t) := hs.onBank

protected theorem Formed.insTmov {d q : Fin 16} : (insTmov d q).Keeps := ⟨(fun _ _ _ h => h.setTokR.fin1), (fun _ _ h => h)⟩

protected theorem Formed.execTmov {k : Fin 10} {d q : Fin 16} (hs : Formed s) : FormedOut (execTmov k d q s) :=
  hs.runIns Formed.insTmov

protected theorem Formed.insTget {t : Fin 16} {f : Fin 8} : (insTget t f).Keeps :=
  ⟨(fun _ _ _ h => h.onBank.fin1), (fun _ _ h => h)⟩

protected theorem Formed.execTget {k : Fin 10} {t : Fin 16} {f : Fin 8} (hs : Formed s) : FormedOut (execTget k t f s) :=
  hs.runIns Formed.insTget

protected theorem Formed.insTclr {t : Fin 16} : (insTclr t).Keeps := ⟨(fun _ _ _ h => h.setTokR.fin1), (fun _ _ h => h)⟩

protected theorem Formed.execTclr {k : Fin 10} {t : Fin 16} (hs : Formed s) : FormedOut (execTclr k t s) :=
  hs.runIns Formed.insTclr

protected theorem Formed.narrowBody {d q : Nat} {k x4 : Nat} (hs : Formed s) : Formed (narrowBody d q s k x4).state := by
  unfold narrowBody
  extract_lets _ _ _ _ _ _ _
  exact Formed.ite_of IRes.state hs (Formed.ite_of IRes.state hs (Formed.ite_of IRes.state hs hs.onBank.fin1))

protected theorem Formed.insTnarrow {d q : Fin 16} : (insTnarrow d q).Keeps := by
  unfold insTnarrow
  refine Ins.keeps_of (fun s k now hs => ?_) (fun s k hs => ?_)
  · exact hs.narrowBody
  · exact hs

protected theorem Formed.execTnarrow {k : Fin 10} {d q : Fin 16} (hs : Formed s) : FormedOut (execTnarrow k d q s) :=
  hs.runIns Formed.insTnarrow

protected theorem Formed.insTld {d a : Fin 16} : (insTld d a).Keeps := by
  unfold insTld
  refine Ins.keeps_of (fun s k now hs => ?_) (fun s k hs => ?_)
  · extract_lets _
    split
    · exact hs
    · split
      next s c v heq1 => exact MemRes.of_eq hs.stepLoad heq1
      next s heq1 => exact MemRes.of_eq hs.stepLoad heq1
      next s id min heq1 => exact MemRes.of_eq hs.stepLoad heq1
      next w h t s cost heq1 => exact ((MemRes.of_eq hs.stepLoad heq1).keptOver).onBank
  · exact hs

protected theorem Formed.execTld {k : Fin 10} {d a : Fin 16} (hs : Formed s) : FormedOut (execTld k d a s) :=
  hs.runIns Formed.insTld

protected theorem Formed.insTst {a q : Fin 16} : (insTst a q).Keeps := by
  unfold insTst
  refine Ins.keeps_of (fun s k now hs => ?_) (fun s k hs => ?_)
  · extract_lets _ _ _
    split
    · exact hs
    · split
      next s c v heq1 => exact MemRes.of_eq hs.coreStore heq1
      next s heq1 => exact MemRes.of_eq hs.coreStore heq1
      next s id min heq1 => exact MemRes.of_eq hs.coreStore heq1
      next w hi tag s cost heq1 => exact (MemRes.of_eq hs.coreStore heq1).onBank
  · exact hs

protected theorem Formed.execTst {k : Fin 10} {a q : Fin 16} (hs : Formed s) : FormedOut (execTst k a q s) :=
  hs.runIns Formed.insTst

protected theorem Formed.insTgete {d n : Fin 16} : (insTgete d n).Keeps := ⟨(fun _ _ _ h => h.setTokR.fin1), (fun _ _ h => h)⟩

protected theorem Formed.execTgete {k : Fin 10} {d n : Fin 16} (hs : Formed s) : FormedOut (execTgete k d n s) :=
  hs.runIns Formed.insTgete

protected theorem Formed.insTgetct {d : Fin 16} : (insTgetct d).Keeps := ⟨(fun _ _ _ h => h.setTokR.fin1), (fun _ _ h => h)⟩

protected theorem Formed.execTgetct {k : Fin 10} {d : Fin 16} (hs : Formed s) : FormedOut (execTgetct k d s) :=
  hs.runIns Formed.insTgetct

protected theorem Formed.insTroot {d : Fin 16} {kind : Fin 4} : (insTroot d kind).Keeps := by
  unfold insTroot
  refine Ins.keeps_of (fun s k now hs => ?_) (fun s k hs => ?_)
  · extract_lets _ _
    split
    · exact hs
    · exact hs.onBank.fin1
  · exact hs

protected theorem Formed.execTroot {k : Fin 10} {d : Fin 16} {kind : Fin 4} (hs : Formed s) : FormedOut (execTroot k d kind s) :=
  hs.runIns Formed.insTroot

protected theorem Formed.sealBody {d q : Nat} {key bit : Nat} {k x6 : Nat} (hs : Formed s) :
    Formed (sealBody d q key bit s k x6).state := by
  unfold sealBody
  extract_lets _ _ _ _
  split
  · exact hs
  · split
    · exact hs
    · split
      · exact hs
      · exact Formed.ite_of IRes.state hs (Formed.ite_of IRes.state hs (Formed.ite_of IRes.state hs hs.setTokR.fin1))

protected theorem Formed.insTseal {ps : Fin 8} {sn : Bool} {d q key : Fin 16} : (insTseal ps sn d q key).Keeps := by
  unfold insTseal
  refine Ins.keeps_of (fun s k now hs => ?_) (fun s k hs => ?_)
  · exact hs.sealBody
  · exact hs

protected theorem Formed.execTseal {k : Fin 10} {ps : Fin 8} {sn : Bool} {d q key : Fin 16} (hs : Formed s) :
    FormedOut (execTseal k ps sn d q key s) :=
  hs.runIns Formed.insTseal

protected theorem Formed.insTunseal {ps : Fin 8} {sn : Bool} {d q key : Fin 16} : (insTunseal ps sn d q key).Keeps := by
  unfold insTunseal
  refine Ins.keeps_of (fun s k now hs => ?_) (fun s k hs => ?_)
  · exact hs.sealBody
  · exact hs

protected theorem Formed.execTunseal {k : Fin 10} {ps : Fin 8} {sn : Bool} {d q key : Fin 16} (hs : Formed s) :
    FormedOut (execTunseal k ps sn d q key s) :=
  hs.runIns Formed.insTunseal

protected theorem Formed.seteBody {n q key : Nat} {par : List Nat} {k x6 : Nat} (hs : Formed s) :
    Formed (seteBody n q key par s k x6).state := by
  unfold seteBody
  extract_lets _ _ _ _ _
  split
  · exact hs
  · exact Formed.ite_of IRes.state hs (Formed.ite_of IRes.state hs (Formed.ite_of IRes.state hs hs.setCore.fin1))

protected theorem Formed.insTsete {ps : Fin 8} {sn : Bool} {n q key : Fin 16} : (insTsete ps sn n q key).Keeps := by
  unfold insTsete
  extract_lets _
  refine Ins.keeps_of (fun s k now hs => ?_) (fun s k hs => ?_)
  · exact hs.seteBody
  · exact hs

protected theorem Formed.execTsete {k : Fin 10} {ps : Fin 8} {sn : Bool} {n q key : Fin 16} (hs : Formed s) :
    FormedOut (execTsete k ps sn n q key s) :=
  hs.runIns Formed.insTsete

protected theorem Formed.setctBody {l q key : Nat} {par : List Nat} {k x6 : Nat} (hs : Formed s) :
    Formed (setctBody l q key par s k x6).state := by
  unfold setctBody
  extract_lets _ _
  split
  · exact hs
  · split
    · exact hs
    · exact Formed.ite_of IRes.state hs (Formed.ite_of IRes.state hs hs.setCore.fin1)

protected theorem Formed.insTsetct {ps : Fin 8} {sn : Bool} {l : Fin 4} {q key : Fin 16} : (insTsetct ps sn l q key).Keeps := by
  unfold insTsetct
  extract_lets _
  refine Ins.keeps_of (fun s k now hs => ?_) (fun s k hs => ?_)
  · exact hs.setctBody
  · exact hs

protected theorem Formed.execTsetct {k : Fin 10} {ps : Fin 8} {sn : Bool} {l : Fin 4} {q key : Fin 16} (hs : Formed s) :
    FormedOut (execTsetct k ps sn l q key s) :=
  hs.runIns Formed.insTsetct

protected theorem Formed.execBkdatRead {k : Fin 10} {ps : Fin 8} {sn : Bool} {t : Fin 16} (hs : Formed s) :
    FormedOut (execBkdatRead k ps sn t s) :=
  hs.runIns Formed.insRdsr

protected theorem Formed.execBkdatWrite {k : Fin 10} {ps : Fin 8} {sn : Bool} {t : Fin 16} (hs : Formed s) :
    FormedOut (execBkdatWrite k ps sn t s) :=
  hs.runIns Formed.insWrsr

protected theorem Formed.execDetmWrite {k : Fin 10} {ps : Fin 8} {sn : Bool} {t : Fin 16} (hs : Formed s) :
    FormedOut (execDetmWrite k ps sn t s) :=
  hs.runIns Formed.insWrsr

protected theorem Formed.execDetmActive {k : Fin 2} (hs : Formed s) : FormedOut (execDetmActive k s) := hs.onlyIf hs.setCore

protected theorem Formed.whenTop {k : Nat} {i : Ins} {f : Word → Bool} (hs : Formed s) (hi : i.Keeps) :
    FormedOut (whenTop k i f s) :=
  FormedOut.ite (hs.runIns hi) hs.ok

protected theorem Formed.wrsrWhen {k : Nat} {ps : Fin 8} {sn : Bool} {t : Fin 16} {n : BitVec 9} {f : Word → Bool}
    (hs : Formed s) :
    FormedOut (wrsrWhen k ps sn t n f s) :=
  hs.whenTop Formed.insWrsr

protected theorem Formed.execRootlockWrite {k : Fin 10} {ps : Fin 8} {sn : Bool} {t : Fin 16} (hs : Formed s) :
    FormedOut (execRootlockWrite k ps sn t s) :=
  hs.wrsrWhen

protected theorem Formed.execScinAbandon {k : Fin 10} {ps : Fin 8} {sn : Bool} {t : Fin 16} (hs : Formed s) :
    FormedOut (execScinAbandon k ps sn t s) :=
  hs.wrsrWhen

protected theorem Formed.execMaskWrite {k : Fin 10} {ps : Fin 8} {sn : Bool} {t : Fin 16} {master : Bool} (hs : Formed s) :
    FormedOut (execMaskWrite k ps sn t master s) :=
  hs.runIns Formed.insWrsr

protected theorem Formed.execSvcClean {k : Fin 2} {ps : Fin 8} {sn : Bool} {t : Fin 16} (hs : Formed s) :
    FormedOut (execSvcClean k ps sn t s) :=
  hs.wrsrWhen

protected theorem Formed.execSvcInv {k : Fin 2} {ps : Fin 8} {sn : Bool} {t : Fin 16} (hs : Formed s) :
    FormedOut (execSvcInv k ps sn t s) :=
  hs.wrsrWhen

protected theorem Formed.execSvcCleaninv {k : Fin 2} {ps : Fin 8} {sn : Bool} {t : Fin 16} (hs : Formed s) :
    FormedOut (execSvcCleaninv k ps sn t s) :=
  hs.wrsrWhen

protected theorem Formed.execSvcIcinv {k : Fin 2} {ps : Fin 8} {sn : Bool} {t : Fin 16} (hs : Formed s) :
    FormedOut (execSvcIcinv k ps sn t s) :=
  hs.wrsrWhen

protected theorem Formed.execSvcAllclean {k : Fin 2} {ps : Fin 8} {sn : Bool} {t : Fin 16} (hs : Formed s) :
    FormedOut (execSvcAllclean k ps sn t s) :=
  hs.wrsrWhen

protected theorem Formed.execSvcAllcleaninv {k : Fin 2} {ps : Fin 8} {sn : Bool} {t : Fin 16} (hs : Formed s) :
    FormedOut (execSvcAllcleaninv k ps sn t s) :=
  hs.wrsrWhen

protected theorem Formed.execSvcAllinv {k : Fin 2} {ps : Fin 8} {sn : Bool} {t : Fin 16} (hs : Formed s) :
    FormedOut (execSvcAllinv k ps sn t s) :=
  hs.wrsrWhen

protected theorem Formed.bgLine {k op line : Nat} (hs : Formed s) : Formed (bgLine s k op line) :=
  Formed.ite hs.cleanLine (Formed.ite hs.cleanLine.invLine hs.invLine)

protected theorem Formed.execSvcOpDone {k : Fin 2} (hs : Formed s) : FormedOut (execSvcOpDone k s) :=
  hs.onlyIf (((hs.foldl (fun _ _ h => h.bgLine)).onSvc).srw)

protected theorem Formed.execTlbRead {k : Fin 2} {ps : Fin 8} {sn : Bool} {t : Fin 16} (hs : Formed s) :
    FormedOut (execTlbRead k ps sn t s) :=
  hs.wrsrWhen

protected theorem Formed.execTlbWrite {k : Fin 2} {ps : Fin 8} {sn : Bool} {t : Fin 16} (hs : Formed s) :
    FormedOut (execTlbWrite k ps sn t s) :=
  hs.wrsrWhen

protected theorem Formed.execTlbProbe {k : Fin 2} {ps : Fin 8} {sn : Bool} {t : Fin 16} (hs : Formed s) :
    FormedOut (execTlbProbe k ps sn t s) :=
  hs.wrsrWhen

protected theorem Formed.execTlbInvall {k : Fin 2} {ps : Fin 8} {sn : Bool} {t : Fin 16} (hs : Formed s) :
    FormedOut (execTlbInvall k ps sn t s) :=
  hs.wrsrWhen

protected theorem Formed.execTlbInvasid {k : Fin 2} {ps : Fin 8} {sn : Bool} {t : Fin 16} (hs : Formed s) :
    FormedOut (execTlbInvasid k ps sn t s) :=
  hs.wrsrWhen

protected theorem Formed.execCurasidWrite {k : Fin 2} {ps : Fin 8} {sn : Bool} {t : Fin 16} (hs : Formed s) :
    FormedOut (execCurasidWrite k ps sn t s) :=
  hs.runIns Formed.insWrsr

protected theorem Formed.execDcacheDisable {k : Fin 2} {ps : Fin 8} {sn : Bool} {t : Fin 16} (hs : Formed s) :
    FormedOut (execDcacheDisable k ps sn t s) :=
  hs.wrsrWhen

protected theorem Formed.l2WriteAll {k : Nat} (hs : Formed s) : Formed (l2WriteAll s k) := by
  unfold l2WriteAll
  refine Formed.foldl hs fun u x h => ?_
  extract_lets _
  split
  next w u heq => exact (Formed.ite ((Formed.of_snd h.l2Look heq).l2Home) (Formed.of_snd h.l2Look heq)).l2TagPut

protected theorem Formed.dcacheStop {k : Nat} (hs : Formed s) : Formed (dcacheStop s k) := by
  unfold dcacheStop
  extract_lets t t1
  have ht : Formed t := hs.wcEmit.dWriteAll.offersHome
  have ht1 : Formed t1 := Formed.ite ht.l2WriteAll ht
  exact ht1.onSvc.srw.srw

protected theorem Formed.execDcacheCleanDone {k : Fin 2} (hs : Formed s) : FormedOut (execDcacheCleanDone k s) :=
  hs.onlyIf hs.dcacheStop

protected theorem Formed.execL2Enable {k : Fin 2} {ps : Fin 8} {sn : Bool} {t : Fin 16} (hs : Formed s) :
    FormedOut (execL2Enable k ps sn t s) :=
  hs.wrsrWhen

protected theorem Formed.execL2Disable {k : Fin 2} {ps : Fin 8} {sn : Bool} {t : Fin 16} (hs : Formed s) :
    FormedOut (execL2Disable k ps sn t s) :=
  hs.wrsrWhen

protected theorem Formed.execWayDisable {k : Fin 2} {ps : Fin 8} {sn : Bool} {t : Fin 16} (hs : Formed s) :
    FormedOut (execWayDisable k ps sn t s) :=
  hs.wrsrWhen

protected theorem Formed.cacheStrike {k : Nat} {u : CacheUpset} (hs : Formed s) : Formed (cacheStrike s k u) := hs.onSvc

protected theorem Formed.hmpTake {p : HmpUse → Bool} (hs : Formed s) : ∀ t ∈ hmpTake s p, Formed t.2 := by
  unfold hmpTake
  split
  · exact mem_some_all hs.mk
  · exact mem_none_all

protected theorem Formed.fillData {k : Nat} {f : Fill} (hs : Formed s) : ∀ t ∈ fillData s k f, Formed t.2.2 := by
  unfold fillData
  split
  · split
    · exact mem_none_all
    · exact mem_some_all hs.readLine
  · exact mem_some_all hs
  · split
    · exact mem_none_all
    next x t heq1 =>
      extract_lets _
      exact mem_some_all (Formed.of_mem hs.hmpTake heq1)

protected theorem Formed.fillToRead {k : Nat} {f : Fill} {codes : List Nat} {x4 : Line} (hs : Formed s) :
    Formed (fillToRead s k f codes x4) := by
  unfold fillToRead
  split
  · extract_lets _ _
    exact hs.setCore
  · exact hs

protected theorem Formed.cntPfdrop {k : Nat} (hs : Formed s) : Formed (cntPfdrop s k) := hs.svcCount

protected theorem Formed.sidePut {k : Nat} {x2 : Line} (hs : Formed s) : Formed (sidePut s k x2) :=
  (Formed.ite hs.writeHome hs).onSvc

protected theorem Formed.fillComplete {k : Nat} {f : Fill} {codes : List Nat} {x4 : Line} (hs : Formed s) :
    Formed (fillComplete s k f codes x4) := by
  unfold fillComplete
  extract_lets s1 _ _ s2 t
  have hs1 : Formed s1 := hs.onSvc
  have hs2 : Formed s2 := hs1.fillToRead
  have ht : Formed t := Formed.ite hs2.writeHome hs2
  split
  · exact Formed.ite hs2.cntPfdrop hs2.sidePut
  · exact Formed.ite hs2.cntPfdrop hs2.sidePut
  · exact Formed.ite hs2.cntPfdrop (Formed.ite hs2.writeHome hs2)
  · exact Formed.ite hs2 (Formed.ite ht.iAlloc ht)
  · refine Formed.ite ?_ ?_
    · split
      · exact hs2
      · exact hs2.raiseAsync
    · exact Formed.ite hs2.dAlloc (Formed.ite hs2.writeHome hs2)

protected theorem Formed.prefetchNext {k : Nat} (hs : Formed s) : Formed (prefetchNext s k) := by
  unfold prefetchNext
  split
  · exact hs
  · exact Formed.ite hs hs.onSvc.prefetchStart

protected theorem Formed.execLineFill {k : FillAt} (hs : Formed s) : FormedOut (execLineFill k s) := by
  unfold execLineFill
  extract_lets _ s1 r
  have hs1 : Formed s1 := hs.foldl (fun _ _ h => h.cacheStrike)
  have hr : Formed r.2 := by
    unfold r
    refine Formed.foldl_snd hs1 fun u x h => ?_
    refine Formed.ite_of Prod.snd ?_ ?_
    · exact h
    · split
      · exact h
      next codes x t heq => exact (Formed.of_mem_snd h.fillData heq).fillComplete
  exact (Formed.ite hr.prefetchNext hr).ok

protected theorem Formed.execWcBufferTimeout {k : Fin 2} (hs : Formed s) : FormedOut (execWcBufferTimeout k s) :=
  hs.onlyIf hs.wcEmit

protected theorem Formed.setHead {k : Nat} {r : MemReq} (hs : Formed s) : Formed (setHead s k r) := hs.setCore

protected theorem Formed.popHead {k : Nat} (hs : Formed s) : Formed (popHead s k) := hs.setCore

protected theorem Formed.postedPut {k a : Nat} {code : Option Nat} (hs : Formed s) : Formed (postedPut s k a code) := hs.setCore

protected theorem Formed.arrive {k : Nat} {x2 : Arrived} (hs : Formed s) : Formed (arrive s k x2) := hs.setCore

protected theorem Formed.coreOut {k : Nat} {r : MemReq} (hs : Formed s) : Formed (coreOut s k r) := by
  unfold coreOut
  extract_lets _ t _
  have ht : Formed t := hs.popHead
  exact Formed.ite (Formed.ite ht.postedPut ht.arrive) (Formed.ite ht.postedPut.hmpReq ht.hmpReq)

protected theorem Formed.hmpToCore {x1 : HmpTx} (hs : Formed s) : Formed (hmpToCore s x1) := by
  unfold hmpToCore
  split
  · exact hs.arrive
  · extract_lets _ _
    split
    · exact hs.setCore
    · exact hs
  · extract_lets t
    have ht : Formed t := hs.onSvc
    split
    · exact ht.wbError
    · exact ht
  · exact hs

protected theorem Formed.hmpDeliver (hs : Formed s) : Formed (hmpDeliver s) := hs.mk.foldl (fun _ _ h => h.hmpToCore)

protected theorem Formed.waitMark {port a : Nat} (hs : Formed s) : Formed (waitMark s port a) := Formed.ite hs hs.mk

protected theorem Formed.icGrant {port a waited : Nat} (hs : Formed s) : Formed (icGrant s port a waited) := hs.maxTo.mk

protected theorem Formed.cgtimeWrite {g : Nat} {v : Word} (hs : Formed s) : Formed (cgtimeWrite s g v) :=
  Formed.ite hs.wb hs.regPut

protected theorem Formed.cgDisable {g : Nat} (hs : Formed s) : Formed (cgDisable s g) := hs.wb.dmSuspendAll

protected theorem Formed.cgctlWrite {g : Nat} {may : Bool} {v : Word} (hs : Formed s) : Formed (cgctlWrite s g may v) := by
  unfold cgctlWrite
  extract_lets t _
  have ht : Formed t := hs.regPut
  exact Formed.ite ht (Formed.ite (Formed.ite ht ht.cgEnable) (Formed.ite ht.cgDisable ht))

protected theorem Formed.dmDisable {m : Nat} (hs : Formed s) : Formed (dmDisable s m) := hs.wb.dmSuspend.wb

protected theorem Formed.dmCfgWrite {m : Nat} {v : Word} (hs : Formed s) : Formed (dmCfgWrite s m v) := by
  unfold dmCfgWrite
  extract_lets _ _ t
  have ht : Formed t := hs.regPut
  exact Formed.ite (Formed.ite (Formed.ite hs hs.dmDisable) hs.wb) (Formed.ite ht.dmEnable ht)

protected theorem Formed.dmStsWrite {m : Nat} {v : Word} (hs : Formed s) : Formed (dmStsWrite s m v) :=
  Formed.ite hs.regPut.dmRelease hs.regPut

protected theorem Formed.blevelWrite {q : Req} {v : Word} (hs : Formed s) : Formed (blevelWrite s q v) := by
  unfold blevelWrite
  extract_lets t
  have ht : Formed t := Formed.ite hs.wb hs
  exact Formed.ite ht.respond (Formed.ite ht.wb.respond ht.wf.respond)

protected theorem Formed.haltEnd (hs : Formed s) : Formed (haltEnd s) := hs.mk.onDbg.driveSync

protected theorem Formed.warmCause {c : Nat} (hs : Formed s) : Formed (warmCause s c) := by
  unfold warmCause
  refine Formed.ite ?_ ?_
  · exact hs
  · refine Formed.ite ?_ ?_
    · exact hs.onPctl
    · extract_lets t t1
      have ht : Formed t := hs.haltEnd
      have ht1 : Formed t1 := ht.onPctl.driveSync
      exact ht1.forN (fun _ _ h => (Formed.ite h (Formed.ite h.setPdRun.wb.pdFence (Formed.ite h.setPdRun.wb.setPdRun (Formed.ite h.setPdRun.wb h)))))

protected theorem Formed.pctlCtrlWrite {q : Req} {v : Word} (hs : Formed s) : Formed (pctlCtrlWrite s q v) :=
  Formed.ite hs.respond ((Formed.ite hs.wf.warmCause hs.wf).respond)

protected theorem Formed.runWrite {k : Nat} (hs : Formed s) : Formed (runWrite s k) := Formed.ite hs.wb.onPctl hs.wb

protected theorem Formed.corectlWrite {q : Req} {k : Nat} {v : Word} (hs : Formed s) : Formed (corectlWrite s q k v) :=
  Formed.ite hs.respond ((Formed.ite hs.wb.wb.runWrite hs.wb.wb).respond)

protected theorem Formed.pdRefuse {d code : Nat} (hs : Formed s) : Formed (pdRefuse s d code) := hs.wf.wb

protected theorem Formed.pdOverride {d op : Nat} (hs : Formed s) : Formed (pdOverride s d op) := by
  unfold pdOverride
  extract_lets _
  split
  · exact Formed.ite hs.setPdRun.pdComplete hs.setPdRun
  · exact hs.setPdRun
  · exact Formed.ite hs.setPdRun.powerDown hs.setPdRun
  · exact Formed.ite hs.setPdRun hs.setPdRun.pdForce
  · exact Formed.ite hs.pdRefuse hs.setPdRun
  · exact hs.setPdRun
  · exact hs.pdRefuse

protected theorem Formed.pdRequest {d op : Nat} (hs : Formed s) : Formed (pdRequest s d op) := by
  unfold pdRequest
  refine Formed.ite ?_ ?_
  · exact hs
  · refine Formed.ite ?_ ?_
    · exact hs.pdRefuse
    · refine Formed.ite ?_ ?_
      · exact Formed.ite hs.pdOverride hs.pdRefuse
      · exact Formed.ite hs.pdRefuse (Formed.ite hs.wf.wb (Formed.ite hs.pdRefuse hs.pdStart))

protected theorem Formed.pdWrite {q : Req} {d : Nat} {v : Word} (hs : Formed s) : Formed (pdWrite s q d v) := by
  unfold pdWrite
  extract_lets _ t t1
  have ht : Formed t := Formed.ite hs.clearBit hs
  have ht1 : Formed t1 := Formed.ite ht.clearBit ht
  exact Formed.ite ht1.pdRequest.respond ht1.respond

protected theorem Formed.plainWrite {d : RegDesc} {q : Req} {a : Nat} {v : Word} (hs : Formed s) :
    Formed (plainWrite s d q a v) :=
  hs.regPut.respond

protected theorem Formed.platformWrite {d : RegDesc} {ix : List Nat} {q : Req} {a : Nat} {v : Word} (hs : Formed s) :
    Formed (platformWrite s d ix q a v) := by
  unfold platformWrite
  extract_lets _ _ done
  have hdone : ∀ u0, Formed u0 → Formed (done u0) := fun _ h => h.respond
  refine Formed.ite ?_ ?_
  · exact hdone _ (Formed.ite hs.jtsecWrite hs)
  · refine Formed.ite ?_ ?_
    · exact hdone _ hs.jtnsWrite
    · refine Formed.ite ?_ ?_
      · exact hs.dmdoneWrite
      · refine Formed.ite ?_ ?_
        · exact hdone _ (Formed.ite hs.cgtimeWrite hs)
        · refine Formed.ite ?_ ?_
          · exact hdone _ hs.cgctlWrite
          · refine Formed.ite ?_ ?_
            · exact hdone _ (Formed.ite hs.dmCfgWrite hs)
            · refine Formed.ite ?_ ?_
              · exact hdone _ hs.dmStsWrite
              · refine Formed.ite ?_ ?_
                · exact hs.blevelWrite
                · exact Formed.ite hs.pctlCtrlWrite (Formed.ite hs.corectlWrite (Formed.ite hs.pdWrite hs.plainWrite))

protected theorem Formed.intcWrite {d : RegDesc} {ix : List Nat} {q : Req} {a : Nat} {v : Word} (hs : Formed s) :
    Formed (intcWrite s d ix q a v) := by
  unfold intcWrite
  extract_lets _
  refine Formed.ite ?_ ?_
  · exact hs.pholdWrite
  · exact Formed.ite hs.msetWrite (Formed.ite hs.eoiWrite (Formed.ite hs.srcWrite hs.plainWrite))

protected theorem Formed.resvCommit (hs : Formed s) : Formed (resvCommit s) := Formed.ite hs hs.wb.wb.mk

protected theorem Formed.retireWrite {q : Req} {st v : Nat} (hs : Formed s) : Formed (retireWrite s q st v) :=
  Formed.ite ((hs.forN (fun _ _ h => (Formed.ite h.retireBank h))).respond) hs.respond

protected theorem Formed.memsysWrite {d : RegDesc} {ix : List Nat} {q : Req} {a : Nat} {v : Word} (hs : Formed s) :
    Formed (memsysWrite s d ix q a v) :=
  Formed.ite ((Formed.ite hs.resvCommit hs).respond) (Formed.ite hs.retireWrite hs.plainWrite)

protected theorem Formed.matrixWrite {d : RegDesc} {ix : List Nat} {q : Req} {a : Nat} {v : Word} (hs : Formed s) :
    Formed (matrixWrite s d ix q a v) := by
  unfold matrixWrite
  extract_lets _
  refine Formed.ite ?_ ?_
  · exact hs.swevWrite
  · refine Formed.ite ?_ ?_
    · exact hs.tglockWrite
    · exact Formed.ite hs.semChWrite (Formed.ite hs.tgMatrixWrite (Formed.ite hs.tgMatrixWrite hs.plainWrite))

protected theorem Formed.tripAgain {m : Nat} (hs : Formed s) : Formed (tripAgain s m) := hs.forN (fun _ _ h => h.tripLevel)

protected theorem Formed.tripFilterTick (hs : Formed s) : Formed (tripFilterTick s) :=
  hs.foldl (fun _ _ h => (Formed.ite h.tripCount h))

protected theorem Formed.cvpWrite {d : RegDesc} {q : Req} {a : Nat} {v : Word} (hs : Formed s) : Formed (cvpWrite s d q a v) := by
  unfold cvpWrite
  extract_lets t
  have ht : Formed t := hs.plainWrite
  refine Formed.ite ?_ ?_
  · exact Formed.ite hs.tgClear.respond hs.respond
  · exact Formed.ite ht.tripAgain (Formed.ite ht.tripFilterTick (Formed.ite ht.driveSync (Formed.ite ht.safeSync ht)))

protected theorem Formed.phsLockv {g : Nat} (hs : Formed s) : Formed (phsLockv s g) := hs.foldl (fun _ _ h => h.slotLockv)

protected theorem Formed.phsRegWrite {d : RegDesc} {g a : Nat} {may : Bool} {v : Word} (hs : Formed s) :
    Formed (phsRegWrite s d g a may v) :=
  Formed.ite (Formed.ite hs hs.phsLockv) hs.regPut

protected theorem Formed.slotctlWrite {n : Nat} {may : Bool} {v : Word} (hs : Formed s) : Formed (slotctlWrite s n may v) := by
  unfold slotctlWrite
  extract_lets t t1 t2 t3
  have ht : Formed t := hs.wf
  have ht1 : Formed t1 := Formed.ite ht.wf ht
  have ht2 : Formed t2 := Formed.ite ht1.adoptWrite ht1
  have ht3 : Formed t3 := Formed.ite ht2.bswapWrite ht2
  exact Formed.ite ht3 (Formed.ite (Formed.ite ht3 ht3.slotEnWrite) (Formed.ite ht3.slotDisable ht3))

protected theorem Formed.slotLocked {n a : Nat} {may : Bool} {v : Word} (hs : Formed s) : Formed (slotLocked s n a may v) :=
  Formed.ite (Formed.ite hs.slotLockv hs) hs.regPut

protected theorem Formed.hoctlWrite {n : Nat} {may : Bool} {v : Word} (hs : Formed s) : Formed (hoctlWrite s n may v) :=
  Formed.ite hs.wr.horeqWrite hs.wr

protected theorem Formed.adtcfgWrite {n : Nat} {may : Bool} {v : Word} (hs : Formed s) : Formed (adtcfgWrite s n may v) :=
  Formed.ite (hs.regPut.foldl (fun _ _ h => (Formed.ite h.adtPreset h))) hs.regPut

protected theorem Formed.slotActivate {n : Nat} (hs : Formed s) : Formed (slotActivate s n) :=
  Formed.ite hs.wb.setSlot.setPhase hs.wb.setSlot

protected theorem Formed.slotphsWrite {n : Nat} {may : Bool} {v : Word} (hs : Formed s) : Formed (slotphsWrite s n may v) := by
  unfold slotphsWrite
  extract_lets _ t t1
  have ht : Formed t := Formed.ite hs hs.slotActivate
  have ht1 : Formed t1 := ht.regPut
  exact Formed.ite hs (Formed.ite hs.slotLockv ht1.phsSync.phsSync)

protected theorem Formed.phsEnable {g : Nat} (hs : Formed s) : Formed (phsEnable s g) :=
  ((hs.foldl (fun _ _ h => h.slotActivate)).mk).phsSync

protected theorem Formed.phsctlWrite {g : Nat} {may : Bool} {v : Word} (hs : Formed s) : Formed (phsctlWrite s g may v) :=
  Formed.ite hs (Formed.ite hs.phsLockv (Formed.ite hs.regPut.phsEnable hs.regPut))

protected theorem Formed.pneSourceNamed {n : Nat} (hs : Formed s) : Formed (pneSourceNamed s n) := Formed.ite hs.onPne hs

protected theorem Formed.sourceNamed {a : Nat} {kind src : Fld} (hs : Formed s) : Formed (sourceNamed s a kind src) :=
  Formed.ite hs.pneSourceNamed hs

protected theorem Formed.accordWrite {d : RegDesc} {ix : List Nat} {q : Req} {a : Nat} {v : Word} (hs : Formed s) :
    Formed (accordWrite s d ix q a v) := by
  unfold accordWrite
  extract_lets _ _ _ done t
  have hdone : ∀ u0, Formed u0 → Formed (done u0) := fun _ h => h.respond
  have ht : Formed t := hs.phsRegWrite
  refine Formed.ite ?_ ?_
  · exact hdone _ hs.slotctlWrite
  · refine Formed.ite ?_ ?_
    · exact hdone _ hs.slotLocked
    · refine Formed.ite ?_ ?_
      · exact hdone _ (Formed.ite hs.tmplWrite hs)
      · refine Formed.ite ?_ ?_
        · exact hdone _ hs.hoctlWrite
        · refine Formed.ite ?_ ?_
          · exact hdone _ hs.adtcfgWrite
          · refine Formed.ite ?_ ?_
            · exact hdone _ (Formed.ite hs.adtWindowWrite hs)
            · refine Formed.ite ?_ ?_
              · exact hdone _ hs.slotphsWrite
              · refine Formed.ite ?_ ?_
                · exact hdone _ hs.phsctlWrite
                · refine Formed.ite ?_ ?_
                  · exact hdone _ (Formed.ite ht.sourceNamed ht)
                  · refine Formed.ite ?_ ?_
                    · exact hdone _ hs.phsRegWrite
                    · refine Formed.ite ?_ ?_
                      · exact hdone _ (Formed.ite hs.phsWindowWrite hs)
                      · exact Formed.ite (Formed.ite hs.plainWrite.sourceNamed hs.plainWrite) hs.plainWrite

protected theorem Formed.cellLockv {c : Nat} (hs : Formed s) : Formed (cellLockv s c) := hs.wb

protected theorem Formed.ccfgWrite {c : Nat} {may : Bool} {v : Word} (hs : Formed s) : Formed (ccfgWrite s c may v) := by
  unfold ccfgWrite
  extract_lets _ _ t t1 _ t2 t3 t4
  have ht : Formed t := hs.wf
  have ht1 : Formed t1 := Formed.ite ht.wf ht
  have ht2 : Formed t2 := Formed.ite ht1 (Formed.ite (Formed.ite ht1 ht1.cellLockv) (ht1.foldl (fun _ _ h => h.wf)))
  have ht3 : Formed t3 := Formed.ite ht2 (Formed.ite (Formed.ite ht2 ht2.cellEnable) (Formed.ite ht2.cellDisable ht2))
  have ht4 : Formed t4 := Formed.ite ht3.sspRtrq ht3
  exact Formed.ite ht4.sspArmrq ht4

protected theorem Formed.predictorWrite {d : RegDesc} {ix : List Nat} {q : Req} {a : Nat} {v : Word} (hs : Formed s) :
    Formed (predictorWrite s d ix q a v) := by
  unfold predictorWrite
  extract_lets _ _
  refine Formed.ite ?_ ?_
  · exact hs.ccfgWrite.respond
  · refine Formed.ite ?_ ?_
    · exact Formed.ite ((Formed.ite hs.cellLockv hs).respond) hs.plainWrite
    · exact Formed.ite (Formed.ite hs.plainWrite.sourceNamed hs.plainWrite) hs.plainWrite

protected theorem Formed.imgErr (hs : Formed s) : Formed (imgErr s) := hs.wb

protected theorem Formed.pushOps {l : List JOp} (hs : Formed s) : Formed (pushOps s l) := hs.onJne

protected theorem Formed.mqSubmit {m op : Nat} {page npg buf : Nat} {wait : Bool} (hs : Formed s) :
    Formed (mqSubmit s m op page npg buf wait) :=
  hs.onJne.pushOps

protected theorem Formed.infoStep (hs : Formed s) : ∀ t ∈ infoStep s, Formed t := by
  unfold infoStep
  extract_lets _
  split
  · exact mem_none_all
  · split
    · exact mem_none_all
    · extract_lets t
      have ht : Formed t := hs.onJne
      exact mem_some_all (Formed.ite ht.mqSubmit ht)

protected theorem Formed.startBurst {b : JBurst} (hs : Formed s) : Formed (startBurst s b) :=
  Formed.ite hs.onJne.hmpReq.stagedFirst hs.onJne.hmpReq

protected theorem Formed.scriptBurst {write : Bool} {a n : Nat} {ws : List Word} (hs : Formed s) :
    Formed (scriptBurst s write a n ws) :=
  hs.startBurst

protected theorem Formed.scriptWrites {a : Nat} {ws : List Word} (hs : Formed s) : Formed (scriptWrites s a ws) :=
  hs.foldl (fun _ _ h => h.scriptBurst)

protected theorem Formed.endScript (hs : Formed s) : Formed (endScript s) := hs.onJne

protected theorem Formed.setMqRing {m : Nat} {r : MqRing} (hs : Formed s) : Formed (setMqRing s m r) := hs.onJne

protected theorem Formed.mqSync {m : Nat} (hs : Formed s) : Formed (mqSync s m) := hs.wf

protected theorem Formed.mqDoorbell {m tag : Nat} {op page : Nat} (hs : Formed s) : Formed (mqDoorbell s m tag op page) :=
  hs.setMqRing.onJne.mqSync.startBurst

protected theorem Formed.copyWordStep {c : Nat} (hs : Formed s) : Formed (copyWordStep s c) := Formed.ite hs.onJne.pushOps hs

protected theorem Formed.ringsStart (hs : Formed s) : Formed (ringsStart s) := hs.onJne.forN (fun _ _ h => h.mqSync)

protected theorem Formed.dropBursts (hs : Formed s) : Formed (dropBursts s) := hs.hmpDrop.onJne

protected theorem Formed.jneFault (hs : Formed s) : Formed (jneFault s) := by
  unfold jneFault
  extract_lets _ t t1
  have ht : Formed t := hs.cmdEnd.dropBursts.onJne
  have ht1 : Formed t1 := by
    unfold t1
    refine Formed.foldl ht fun u x h => ?_
    split
    · exact h.jneAnswer
    · exact h
  exact ht1.jneEnter.refuseAll

protected theorem Formed.recFault {reason : Nat} (hs : Formed s) : Formed (recFault s reason) := hs.wf.jneFault

protected theorem Formed.sbShow {b : Superblock} (hs : Formed s) : Formed (sbShow s b) := by
  unfold sbShow
  extract_lets t t1 t2
  have ht : Formed t := hs.onJne
  have ht1 : Formed t1 := ht.forN (fun _ _ h => h.wf.wf.wf.wf.wf)
  have ht2 : Formed t2 := ht1.wf
  exact Formed.ite ht2 ht2.wb

protected theorem Formed.evalCopies (hs : Formed s) : Formed (evalCopies s) := by
  unfold evalCopies
  extract_lets _ s1 _
  have hs1 : Formed s1 := hs.jneEnter.ringsStart
  split
  · exact hs.endScript.jneEnter.ringsStart
  · refine Formed.ite ?_ ?_
    · exact hs1.recFault
    · refine Formed.ite ?_ ?_
      · exact hs1.recFault
      · exact Formed.ite hs1.recFault (((hs1.wf.wf.sbShow.forN (fun _ _ h => (Formed.ite h.wb h))).onJne).pushOps)

protected theorem Formed.recLenStep (hs : Formed s) : Formed (recLenStep s) := Formed.ite hs.pushOps hs.onJne.pushOps

protected theorem Formed.noteSeals {ws : List (List Word)} (hs : Formed s) : Formed (noteSeals s ws) :=
  hs.foldl (fun _ _ h => (Formed.ite h h.onJne))

protected theorem Formed.recBodyDone (hs : Formed s) : Formed (recBodyDone s) := by
  unfold recBodyDone
  extract_lets _ _ _ _ _ _ _ _ t
  have ht : Formed t := hs.noteSeals.onJne
  refine Formed.ite ?_ ?_
  · exact hs.pushOps
  · refine Formed.ite ?_ ?_
    · exact hs.onJne.pushOps
    · exact Formed.ite hs.pushOps (Formed.ite ht.wf.pushOps (Formed.ite hs.pushOps hs.onJne.pushOps))

protected theorem Formed.recEndDone (hs : Formed s) : Formed (recEndDone s) := hs.onJne.pushOps

protected theorem Formed.pinTableDone {n : Nat} {pin : Bool} (hs : Formed s) : Formed (pinTableDone s n pin) := by
  unfold pinTableDone
  extract_lets _ _ i
  clear_value i
  split
  · exact hs.pushOps
  · exact hs

protected theorem Formed.percsnSync (hs : Formed s) : Formed (percsnSync s) := hs.wf

protected theorem Formed.fmtCsnStep (hs : Formed s) : Formed (fmtCsnStep s) := hs.wf.wf.percsnSync

protected theorem Formed.fmtSuperStep (hs : Formed s) : Formed (fmtSuperStep s) := hs.onJne.pushOps

protected theorem Formed.pneApplied {csn : Nat} (hs : Formed s) : Formed (pneApplied s csn) := by
  unfold pneApplied
  extract_lets _ t
  have ht : Formed t := by
    unfold t
    refine Formed.foldl hs fun u x h => ?_
    split
    · exact h.entPut
    · exact h
  exact ht.onPne

protected theorem Formed.markDried {n : Nat} (hs : Formed s) : Formed (markDried s n) := hs.onJne.pneApplied

protected theorem Formed.dirDrop {m slot : Nat} (hs : Formed s) : Formed (dirDrop s m slot) := hs.onJne

protected theorem Formed.publishedStep {p : JPub} (hs : Formed s) : Formed (publishedStep s p) := by
  unfold publishedStep
  extract_lets _ t t1 trim src _
  have ht : Formed t := hs.wf.wf
  have ht1 : Formed t1 := ht.sbShow
  have htrim : ∀ u0 x1 x2, Formed u0 → Formed (trim u0 x1 x2) := fun _ _ _ h => h.pushOps
  have hsrc : Formed src := ht1.wb.onJne
  split
  · exact ht1.onJne
  · exact ht1.onJne
  · exact ht1.markDried
  · exact ht1
  · exact ht1
  · split
    · extract_lets t2
      have ht2 : Formed t2 := ht1.ownRecord
      exact htrim _ _ _ ht2.dirDrop
    · exact ht1
  · split
    · exact htrim _ _ _ ht1.wb.dirDrop
    · exact ht1
  · exact ht1.ownRecord.wf.wb.onJne
  · extract_lets t2 t3
    have ht2 : Formed t2 := ht1.ownRecord.wf.wb
    have ht3 : Formed t3 := ht2.onJne
    split
    · exact Formed.ite ht3 (htrim _ _ _ ht3.dirDrop)
    · exact ht3
  · exact hsrc.mk.pneRestart

protected theorem Formed.placeStep (hs : Formed s) : Formed (placeStep s) := by
  unfold placeStep
  extract_lets t _ _ _ _ _ _ _ _ t1 _ t2
  have ht : Formed t := hs.onJne
  have ht1 : Formed t1 := Formed.ite ht ht.wb.inc
  have ht2 : Formed t2 := Formed.ite ht1.wb ht1
  refine Formed.ite ?_ ?_
  · exact ht
  · refine Formed.ite ?_ ?_
    · split
      · exact Formed.ite ht2.pushOps ht2
      · exact ht2
    · refine Formed.ite ?_ ?_
      · split
        · exact ht2.pushOps
        · exact ht2
      · exact ht2

protected theorem Formed.batchBegin (hs : Formed s) : Formed (batchBegin s) := by
  unfold batchBegin
  extract_lets _
  split
  · exact hs.onJne.pushOps
  · exact hs
  · split
    · exact hs.pushOps
    · exact Formed.ite hs hs.wb

protected theorem Formed.batchPartStep (hs : Formed s) : Formed (batchPartStep s) := by
  unfold batchPartStep
  split
  · exact hs.endScript
  · extract_lets _ _ _ _ _ _ t
    have ht : Formed t := hs.onJne
    exact Formed.ite ht.pushOps ht.pushOps

protected theorem Formed.batchWroteStep {last : Bool} (hs : Formed s) : Formed (batchWroteStep s last) :=
  Formed.ite hs.pushOps hs.pushOps

protected theorem Formed.sealStep {o pages : Nat} (hs : Formed s) : Formed (sealStep s o pages) := by
  unfold sealStep
  split
  · exact hs
  · extract_lets t
    have ht : Formed t := hs.onJne
    exact ht.pushOps

protected theorem Formed.openSegStep {carry : Bool} {o : Nat} (hs : Formed s) : Formed (openSegStep s carry o) := by
  unfold openSegStep
  split
  · refine Formed.ite ?_ ?_
    · exact hs.endScript
    · split
      · exact hs.onJne
      · exact Formed.ite hs.endScript hs.endScript.wb
  · extract_lets _ _ _ _ t
    have ht : Formed t := hs.onJne
    exact ht.pushOps

protected theorem Formed.setPages {g : Segment} {n : Nat} (hs : Formed s) : Formed (setPages s g n) := hs.onJne

protected theorem Formed.reclaimBegin (hs : Formed s) : Formed (reclaimBegin s) := by
  unfold reclaimBegin
  split
  · exact hs.pushOps
  · split
    · exact hs
    · refine Formed.ite ?_ ?_
      · split
        · exact hs.setPages.pushOps
        · exact Formed.ite hs.setPages.pushOps hs.pushOps
      · exact Formed.ite hs.onJne.pushOps (Formed.ite hs.onJne.pushOps hs)

protected theorem Formed.mediumErr {m status : Nat} {op page : Nat} (hs : Formed s) : Formed (mediumErr s m status op page) :=
  hs.ownRecord

protected theorem Formed.dirAdd {g : Segment} (hs : Formed s) : Formed (dirAdd s g) := hs.onJne

protected theorem Formed.hdrGotStep {m slot : Nat} {page tries : Nat} (hs : Formed s) :
    Formed (hdrGotStep s m slot page tries) := by
  unfold hdrGotStep
  refine Formed.ite ?_ ?_
  · exact hs
  · exact Formed.ite hs.pushOps (Formed.ite hs.pushOps (Formed.ite hs.wb.mediumErr.pushOps hs.wb.mediumErr.dirAdd))

protected theorem Formed.hdrDone {m slot page : Nat} (hs : Formed s) : Formed (hdrDone s m slot page) :=
  Formed.ite hs.wb.dirAdd (Formed.ite hs.dirAdd hs.wb.dirAdd)

protected theorem Formed.dirFillStep (hs : Formed s) : Formed (dirFillStep s) := by
  unfold dirFillStep
  split
  · exact hs.pushOps
  · exact hs

protected theorem Formed.scanStep {m i : Nat} (hs : Formed s) : Formed (scanStep s m i) := by
  unfold scanStep
  split
  · exact hs.onJne
  · extract_lets _ _ _
    split
    · exact hs.pushOps
    · extract_lets t
      have ht : Formed t := hs.onJne
      exact ht.pushOps

protected theorem Formed.scanEndStep {m i : Nat} (hs : Formed s) : Formed (scanEndStep s m i) := hs.noteSeals.onJne.pushOps

protected theorem Formed.srcNextStep {page : Nat} (hs : Formed s) : Formed (srcNextStep s page) := by
  unfold srcNextStep
  split
  · exact hs.endScript
  · exact Formed.ite hs hs.pushOps

protected theorem Formed.srcDoneStep {page n tries : Nat} (hs : Formed s) : Formed (srcDoneStep s page n tries) := by
  unfold srcDoneStep
  split
  · exact hs.endScript
  · exact Formed.ite hs.endScript (Formed.ite hs.pushOps (Formed.ite hs.pushOps hs.wb.mediumErr.onJne.pushOps))

protected theorem Formed.srcWordsStep {page n : Nat} (hs : Formed s) : Formed (srcWordsStep s page n) := by
  unfold srcWordsStep
  split
  · exact hs.endScript
  · extract_lets _
    exact hs.onJne.pushOps

protected theorem Formed.carryStep (hs : Formed s) : Formed (carryStep s) := by
  unfold carryStep
  split
  · extract_lets _ _ t _ _
    have ht : Formed t := hs.foldl (fun _ _ h => h.wb.mediumErr)
    exact ht.onJne.pushOps
  · exact hs.endScript

protected theorem Formed.carryPagesStep (hs : Formed s) : Formed (carryPagesStep s) := by
  unfold carryPagesStep
  split
  · extract_lets _
    exact Formed.ite hs.pushOps hs.pushOps
  · exact hs.endScript

protected theorem Formed.segCmdStep (hs : Formed s) : Formed (segCmdStep s) := by
  unfold segCmdStep
  extract_lets _ _ fin _
  have hfin : ∀ u0 x1, Formed u0 → Formed (fin u0 x1) := fun _ _ h => h.wf.wb.onJne
  refine Formed.ite ?_ ?_
  · refine Formed.ite ?_ ?_
    · exact hfin _ _ hs
    · exact Formed.ite (Formed.ite hs.pushOps (hfin _ _ hs)) (Formed.ite (hfin _ _ hs) hs.pushOps)
  · exact Formed.ite hs.pushOps (hfin _ _ hs)

protected theorem Formed.jneAct {a : JAct} (hs : Formed s) : Formed (jneAct s a) := by
  unfold jneAct
  extract_lets t
  have ht : Formed t := by
    unfold t
    split
    · exact hs.copyWordStep
    · exact hs.onJne
    · exact hs.evalCopies
    · exact hs.pushOps
    · exact hs.recLenStep
    · exact hs.recBodyDone
    · exact hs.recEndDone
    · exact hs.pushOps
    · exact hs.pinTableDone
    · exact Formed.ite hs hs.wb
    · exact hs.fmtCsnStep
    · exact hs.fmtSuperStep
    · extract_lets _
      exact hs.onJne.pushOps
    · exact hs.publishedStep
    · exact hs.placeStep
    · exact hs.batchBegin
    · exact hs.batchPartStep
    · exact hs.batchWroteStep
    · exact hs.sealStep
    · exact hs.openSegStep
    · exact hs.reclaimBegin
    · exact hs.hdrGotStep
    · exact hs.hdrDone
    · exact hs.dirFillStep
    · exact hs.scanStep
    · exact hs.scanEndStep
    · exact hs.srcNextStep
    · exact hs.srcDoneStep
    · exact hs.srcWordsStep
    · exact hs.carryStep
    · exact hs.carryPagesStep
    · exact hs.onJne.pushOps
    · exact hs.segCmdStep
    · exact hs.onJne
  split
  · exact ht
  · exact ht.onJne

protected theorem Formed.scriptStep (hs : Formed s) : ∀ t ∈ scriptStep s, Formed t := by
  unfold scriptStep
  split
  · split
    · exact mem_some_all hs.pushOps
    · exact mem_none_all
  · extract_lets t
    have ht : Formed t := hs.onJne
    split
    · split
      · exact mem_some_all ht
      · exact mem_some_all ((Formed.ite ht ht.pushOps).scriptWrites)
    · split
      · exact mem_some_all ht
      · exact mem_some_all ((Formed.ite ht ht.pushOps).scriptWrites)
    · split
      · exact mem_some_all ht
      · exact mem_some_all ((Formed.ite ht ht.pushOps).scriptBurst)
    · split
      · exact mem_some_all (Formed.ite ht.endScript ht.onJne)
      · split
        · exact mem_none_all
        · exact mem_some_all ht.mqSubmit
    · split
      · exact mem_some_all ht
      · split
        · exact mem_none_all
        · exact mem_some_all ht.mqSubmit
    · split
      · exact mem_none_all
      · exact mem_some_all ht.mqDoorbell
    · split
      · exact mem_none_all
      · exact mem_some_all ht
    · exact mem_some_all ht.onJne
    · split
      · exact mem_some_all ht
      · exact mem_none_all
    · exact mem_some_all ht.jneAct

protected theorem Formed.jneStep (hs : Formed s) : ∀ t ∈ jneStep s, Formed t := by
  unfold jneStep
  split
  · exact mem_none_all
  · split
    next t heq => exact mem_some_all (Formed.of_some hs.infoStep heq)
    · exact hs.scriptStep

protected theorem Formed.jneRun {f : Nat} (hs : Formed s) : Formed (jneRun f s) := by
  induction f generalizing s with
  | zero => exact hs
  | succ f ih =>
    unfold jneRun
    split
    next t heq => exact ih (hs.jneStep t heq)
    · exact hs

protected theorem Formed.jneOpen (hs : Formed s) : Formed (jneOpen s) :=
  Formed.ite (Formed.ite hs.wb.wb hs.wb.wb.imgErr) hs.wf.onJne.pushOps.jneRun

protected theorem Formed.jneCheckOff (hs : Formed s) : Formed (jneCheckOff s) := Formed.ite hs.jneGoOff hs

protected theorem Formed.jneCtrlWrite {q : Req} {v : Word} (hs : Formed s) : Formed (jneCtrlWrite s q v) := by
  unfold jneCtrlWrite
  refine Formed.ite ?_ ?_
  · exact hs.respond
  · extract_lets _ _ t t1 u
    have ht : Formed t := hs.wf.wf
    have ht1 : Formed t1 := ht.wb
    have hu : Formed u := ht1.onJne.refuseAll
    exact (Formed.ite (Formed.ite ht1.jneOpen ht1.onJne) (Formed.ite ((Formed.ite hu.endScript hu).jneCheckOff) ht1)).respond

protected theorem Formed.setU {n : Nat} (hs : Formed s) : Formed (setU s n) := hs.wf.maxTo.psafeSync

protected theorem Formed.jneCmdWrite {q : Req} {v : Word} (hs : Formed s) : Formed (jneCmdWrite s q v) := by
  unfold jneCmdWrite
  refine Formed.ite ?_ ?_
  · exact hs.respond
  · refine Formed.ite ?_ ?_
    · exact hs.respond
    · exact Formed.ite hs.wb.respond ((((hs.jneEnter.onJne.setU.forN (fun _ _ h => h.wb.wf)).onJne).jneRun).respond)

protected theorem Formed.jneLayoutWrite {q : Req} {a : Nat} {v : Word} (hs : Formed s) : Formed (jneLayoutWrite s q a v) :=
  Formed.ite hs.respond (Formed.ite hs.wb.respond hs.regPut.respond)

protected theorem Formed.holdupWrite {v : Word} (hs : Formed s) : Formed (holdupWrite s v) := hs.onJne.wr

protected theorem Formed.jneMbctlWrite {q : Req} {r : Nat} {v : Word} (hs : Formed s) : Formed (jneMbctlWrite s q r v) := by
  unfold jneMbctlWrite
  extract_lets _ _ _ _ _ t _
  have ht : Formed t := hs.wf.wf
  exact Formed.ite hs.respond (Formed.ite hs.respond ((Formed.ite ht (Formed.ite ht.wf ht.wb.raiseRec)).respond))

protected theorem Formed.mboxWrite {d : RegDesc} {q : Req} {r a sts : Nat} {busy : Fld} {v : Word} (hs : Formed s) :
    Formed (mboxWrite s d q r a sts busy v) :=
  Formed.ite hs.respond hs.plainWrite

protected theorem Formed.mqcfgWrite {q : Req} {m : Nat} {v : Word} (hs : Formed s) : Formed (mqcfgWrite s q m v) :=
  Formed.ite hs.respond (((Formed.ite hs.wb hs.wf).wb).respond)

protected theorem Formed.mqAsk {m : Nat} (hs : Formed s) : Formed (mqAsk s m) :=
  Formed.ite hs (Formed.ite hs.setMqRing hs.setMqRing.hmpReq)

protected theorem Formed.segcmdWrite {q : Req} {v : Word} (hs : Formed s) : Formed (segcmdWrite s q v) := by
  unfold segcmdWrite
  extract_lets _ _ _ t
  have ht : Formed t := hs.wf
  exact Formed.ite hs.respond (Formed.ite ht.respond (Formed.ite ht.wf.respond ht.wb.onJne.jneRun.respond))

protected theorem Formed.merrWrite {m : Nat} {v : Word} (hs : Formed s) : Formed (merrWrite s m v) :=
  Formed.ite hs.clearBit.onJne hs

protected theorem Formed.journalWrite {d : RegDesc} {ix : List Nat} {q : Req} {a : Nat} {v : Word} (hs : Formed s) :
    Formed (journalWrite s d ix q a v) := by
  unfold journalWrite
  extract_lets _
  refine Formed.ite ?_ ?_
  · exact hs.jneCtrlWrite
  · refine Formed.ite ?_ ?_
    · exact hs.jneCmdWrite
    · refine Formed.ite ?_ ?_
      · exact hs.jneLayoutWrite
      · refine Formed.ite ?_ ?_
        · exact Formed.ite hs.holdupWrite.respond hs.respond
        · refine Formed.ite ?_ ?_
          · exact hs.jneMbctlWrite
          · refine Formed.ite ?_ ?_
            · exact hs.mboxWrite
            · refine Formed.ite ?_ ?_
              · exact hs.mqcfgWrite
              · refine Formed.ite ?_ ?_
                · exact hs.mqAsk.respond
                · exact Formed.ite hs.segcmdWrite (Formed.ite hs.plcwinWrite (Formed.ite hs.merrWrite.respond hs.plainWrite))

protected theorem Formed.entCheck {a : Nat} (hs : Formed s) : Formed (entCheck s a) := hs.ownCheck.ownCheck

protected theorem Formed.writeImage {a : Nat} (hs : Formed s) : Formed (writeImage s a) := hs.entCheck.hmpReq

protected theorem Formed.saveLoose (hs : Formed s) : Formed (saveLoose s) := hs.foldl (fun _ _ h => (Formed.ite h.writeImage h))

protected theorem Formed.ackEarly {d : PneDue} (hs : Formed s) : Formed (ackEarly s d) := by
  unfold ackEarly
  split
  · exact hs
  · extract_lets op
    clear_value op
    split
    · exact hs.dropJop.pneFinish
    · exact hs.dropJop

protected theorem Formed.pneEnable (hs : Formed s) : Formed (pneEnable s) := hs.wb.onPne.pneClear

protected theorem Formed.pneReenable {v : Word} (hs : Formed s) : Formed (pneReenable s v) :=
  (((hs.saveLoose.pneReadsDrop.foldl (fun _ _ h => h.ackEarly)).wf).wf).pneEnable

protected theorem Formed.pneCcfgWrite {q : Req} {v : Word} (hs : Formed s) : Formed (pneCcfgWrite s q v) := by
  unfold pneCcfgWrite
  refine Formed.ite ?_ ?_
  · exact hs.respond
  · extract_lets _ _ t t1
    have ht : Formed t := hs.wf.wf
    have ht1 : Formed t1 := ht.wb.wb.wb
    refine Formed.ite ?_ ?_
    · exact hs.respond
    · exact Formed.ite ht1.onPne.respond (Formed.ite ((Formed.ite hs.pneReenable ht.pneEnable).respond) ht.respond)

protected theorem Formed.pneMbpntWrite {q : Req} {r : Nat} {v : Word} (hs : Formed s) : Formed (pneMbpntWrite s q r v) := by
  unfold pneMbpntWrite
  extract_lets _ _ _ _ t _ _
  have ht : Formed t := hs.wf
  exact Formed.ite hs.respond (Formed.ite hs.respond (Formed.ite ht.respond ht.wb.pneSubmit.respond))

protected theorem Formed.pointWrite {d : RegDesc} {ix : List Nat} {q : Req} {a : Nat} {v : Word} (hs : Formed s) :
    Formed (pointWrite s d ix q a v) := by
  unfold pointWrite
  extract_lets _
  refine Formed.ite ?_ ?_
  · exact hs.pneCcfgWrite
  · refine Formed.ite ?_ ?_
    · exact Formed.ite hs.respond hs.plainWrite
    · exact Formed.ite hs.pneMbpntWrite (Formed.ite hs.mboxWrite hs.plainWrite)

protected theorem Formed.wacCtrlWrite {q : Req} {v : Word} (hs : Formed s) : Formed (wacCtrlWrite s q v) := by
  unfold wacCtrlWrite
  refine Formed.ite ?_ ?_
  · exact hs.respond
  · extract_lets _ _ _ t t1 t2 u
    have ht : Formed t := Formed.ite hs hs.wf.onWac
    have ht1 : Formed t1 := Formed.ite (Formed.ite ht ht.wb) ht.wf.wf
    have ht2 : Formed t2 := ht1.wb
    have hu : Formed u := ht2.clearWords
    exact (Formed.ite hu.wb.onWac (Formed.ite (Formed.ite ht2.onWac ht2) ht2)).respond

protected theorem Formed.wacBaseWrite {q : Req} {v : Word} (hs : Formed s) : Formed (wacBaseWrite s q v) :=
  Formed.ite hs.respond (Formed.ite hs.wb.respond hs.wr.respond)

protected theorem Formed.ckClose (hs : Formed s) : Formed (ckClose s) := Formed.ite hs.onWac.raiseRec hs

protected theorem Formed.ckStart (hs : Formed s) : Formed (ckStart s) := Formed.ite hs hs.wb.onWac.wacPump.ckClose

protected theorem Formed.resetBegin (hs : Formed s) : Formed (resetBegin s) := by
  unfold resetBegin
  split
  · exact Formed.ite hs (((hs.forN (fun _ _ h => h.setWacSt)).onWac).raiseRec)
  · exact hs

protected theorem Formed.wacCmdWrite {q : Req} {v : Word} (hs : Formed s) : Formed (wacCmdWrite s q v) := by
  unfold wacCmdWrite
  extract_lets _ _ _ t
  have ht : Formed t := hs.wf
  refine Formed.ite ?_ ?_
  · exact hs.respond
  · exact (Formed.ite ht (Formed.ite (Formed.ite ht.ckStart ht) (Formed.ite ht.wb.onWac.resetBegin ht))).respond

protected theorem Formed.wearWrite {d : RegDesc} {q : Req} {a : Nat} {v : Word} (hs : Formed s) :
    Formed (wearWrite s d q a v) := by
  unfold wearWrite
  exact Formed.ite hs.wacCtrlWrite (Formed.ite hs.wacBaseWrite (Formed.ite hs.wacCmdWrite hs.plainWrite))

protected theorem Formed.mlkCtrlWrite {q : Req} {v : Word} (hs : Formed s) : Formed (mlkCtrlWrite s q v) := by
  unfold mlkCtrlWrite
  refine Formed.ite ?_ ?_
  · exact hs.respond
  · extract_lets _ _ t _ t1 t2 t3 u
    have ht : Formed t := hs.wf
    have ht1 : Formed t1 := ht.wb
    have ht2 : Formed t2 := Formed.ite ht1.onMlk ht1
    have ht3 : Formed t3 := Formed.ite (Formed.ite ht2 ht2.wb) ht2.wf
    have hu : Formed u := ht3.wb
    exact (Formed.ite (Formed.ite hu hu.roleOff) (Formed.ite ht3 (Formed.ite ht3.wb ht3.wb))).respond

protected theorem Formed.bcStart {elig : Bool} (hs : Formed s) : Formed (bcStart s elig) :=
  Formed.ite hs.wb.wb hs.wb.wb.wf.onMlk

protected theorem Formed.bccmdWrite {q : Req} {v : Word} (hs : Formed s) : Formed (bccmdWrite s q v) := by
  unfold bccmdWrite
  extract_lets _ _ _ t
  have ht : Formed t := hs.wb
  exact Formed.ite ht.respond ((Formed.ite ht.bcStart (Formed.ite ht.wb.onMlk ht)).respond)

protected theorem Formed.mlkLayoutWrite {q : Req} {a : Nat} {v : Word} (hs : Formed s) : Formed (mlkLayoutWrite s q a v) :=
  Formed.ite hs.respond (Formed.ite hs.wb.respond hs.regPut.respond)

protected theorem Formed.mirrorWrite {d : RegDesc} {q : Req} {a : Nat} {v : Word} (hs : Formed s) :
    Formed (mirrorWrite s d q a v) := by
  unfold mirrorWrite
  exact Formed.ite hs.mlkCtrlWrite (Formed.ite hs.bccmdWrite (Formed.ite hs.mlkLayoutWrite hs.plainWrite))

protected theorem Formed.onRlk {f : Rlk → Rlk} (hs : Formed s) : Formed (onRlk s f) := hs.mk

protected theorem Formed.rlkCtrlWrite {q : Req} {v : Word} (hs : Formed s) : Formed (rlkCtrlWrite s q v) := by
  unfold rlkCtrlWrite
  refine Formed.ite ?_ ?_
  · exact hs.respond
  · extract_lets _ _ t t1 t2 t3
    have ht : Formed t := Formed.ite (Formed.ite hs.wr hs.wr.wb) hs.regPut
    have ht1 : Formed t1 := Formed.ite ht.wf ht
    have ht2 : Formed t2 := Formed.ite ht1.onRlk ht1
    have ht3 : Formed t3 := Formed.ite ht2 ht2.roleOff
    exact (Formed.ite ht3 ht3.setSend).respond

protected theorem Formed.rlkCfgWrite {q : Req} {a : Nat} {v : Word} (hs : Formed s) : Formed (rlkCfgWrite s q a v) :=
  Formed.ite hs.respond (Formed.ite hs.wb.respond hs.regPut.respond)

protected theorem Formed.ringWrite2 {q : Req} {k : Nat} {v : Word} (hs : Formed s) : Formed (ringWrite2 s q k v) := by
  unfold ringWrite2
  refine Formed.ite ?_ ?_
  · exact hs.respond
  · extract_lets _ t
    have ht : Formed t := hs.regPut
    exact Formed.ite hs.wb.respond ((Formed.ite ht (Formed.ite ht.wb ht.wb)).respond)

protected theorem Formed.quorumSync (hs : Formed s) : Formed (quorumSync s) := hs.wb

protected theorem Formed.ncfgSync (hs : Formed s) : Formed (ncfgSync s) := hs.wf.quorumSync

protected theorem Formed.umapWrite {q : Req} {u : Nat} {v : Word} (hs : Formed s) : Formed (umapWrite s q u v) := by
  unfold umapWrite
  exact Formed.ite hs.respond (Formed.ite hs.respond (Formed.ite hs.wb.respond hs.regPut.ncfgSync.respond))

protected theorem Formed.rackWrite {d : RegDesc} {ix : List Nat} {q : Req} {a : Nat} {v : Word} (hs : Formed s) :
    Formed (rackWrite s d ix q a v) := by
  unfold rackWrite
  extract_lets _
  refine Formed.ite ?_ ?_
  · exact hs.rlkCtrlWrite
  · exact Formed.ite hs.rlkCfgWrite (Formed.ite hs.ringWrite2 (Formed.ite hs.umapWrite hs.plainWrite))

protected theorem Formed.cptCtrlWrite {q : Req} {v : Word} (hs : Formed s) : Formed (cptCtrlWrite s q v) :=
  Formed.ite hs.respond ((((((Formed.ite hs.svenClear hs.wb).wb).wb).wf).wf).respond)

protected theorem Formed.cptCfgWrite {q : Req} {a : Nat} {v : Word} (hs : Formed s) : Formed (cptCfgWrite s q a v) :=
  Formed.ite hs.respond (Formed.ite hs.wb.respond hs.regPut.respond)

protected theorem Formed.cptAsk {a : CptAsk} (hs : Formed s) : Formed (cptAsk s a) := hs.onCpt

protected theorem Formed.doorbellWrite {q : Req} {r : Nat} {v : Word} (hs : Formed s) : Formed (doorbellWrite s q r v) :=
  (Formed.ite hs.cptAsk hs).respond

protected theorem Formed.cptTakeWrite {q : Req} {v : Word} (hs : Formed s) : Formed (cptTakeWrite s q v) :=
  Formed.ite hs.respond ((Formed.ite hs.unqueue.setBufState hs).respond)

protected theorem Formed.replyShown {status detail len : Nat} (hs : Formed s) : Formed (replyShown s status detail len) :=
  hs.wf.wf.wf

protected theorem Formed.cptReplyBuf {b status : Nat} {detail len : Nat} (hs : Formed s) :
    Formed (cptReplyBuf s b status detail len) := by
  unfold cptReplyBuf
  extract_lets s1 t _
  have hs1 : Formed s1 := Formed.ite hs.replyShown hs
  have ht : Formed t := hs1.wb.inc.unitStrobe
  exact Formed.ite hs1.cptFinish (Formed.ite (Formed.ite ht.setBuf ht.setBufState) hs1)

protected theorem Formed.cptReplyWrite {q : Req} {v : Word} (hs : Formed s) : Formed (cptReplyWrite s q v) :=
  Formed.ite hs.respond hs.cptReplyBuf.respond

protected theorem Formed.queueIn {b : Nat} (hs : Formed s) : Formed (queueIn s b) := hs.onCpt

protected theorem Formed.cptSubmitBuf {b : Nat} (hs : Formed s) : Formed (cptSubmitBuf s b) := by
  unfold cptSubmitBuf
  extract_lets _ _ _ s1 _ t
  have hs1 : Formed s1 := hs.bufChecks
  have ht : Formed t := hs1.wf.setBuf
  refine Formed.ite ?_ ?_
  · exact ht.cptFinish
  · split
    · exact ht.cptFinish
    · refine Formed.ite ?_ ?_
      · exact ht.cptFinish
      · exact Formed.ite ht.cptFinish (Formed.ite ht.cptFinish ht.queueIn.setBufState.unitStrobe)

protected theorem Formed.cptSubv {r : Nat} (hs : Formed s) : Formed (cptSubv s r) := hs.wb

protected theorem Formed.cptSubmitWrite {q : Req} {r : Nat} {v : Word} (hs : Formed s) : Formed (cptSubmitWrite s q r v) :=
  (Formed.ite hs (Formed.ite hs.cptSubmitBuf hs.cptSubv)).respond

protected theorem Formed.cptFreeWrite {q : Req} {r : Nat} {v : Word} (hs : Formed s) : Formed (cptFreeWrite s q r v) :=
  (Formed.ite hs (Formed.ite hs.setBufState hs.cptSubv)).respond

protected theorem Formed.commandWrite {d : RegDesc} {ix : List Nat} {q : Req} {a : Nat} {v : Word} (hs : Formed s) :
    Formed (commandWrite s d ix q a v) := by
  unfold commandWrite
  extract_lets _
  refine Formed.ite ?_ ?_
  · exact hs.cptCtrlWrite
  · refine Formed.ite ?_ ?_
    · exact hs.cptCfgWrite
    · refine Formed.ite ?_ ?_
      · exact hs.doorbellWrite
      · refine Formed.ite ?_ ?_
        · exact hs.doorbellWrite
        · refine Formed.ite ?_ ?_
          · exact hs.cptTakeWrite
          · exact Formed.ite hs.cptReplyWrite (Formed.ite hs.cptSubmitWrite (Formed.ite hs.cptFreeWrite hs.plainWrite))

protected theorem Formed.levelCheck (hs : Formed s) : Formed (levelCheck s) := Formed.ite hs.resumeAll.haltEnd hs

protected theorem Formed.dbgCtrlWrite {q : Req} {v : Word} (hs : Formed s) : Formed (dbgCtrlWrite s q v) := by
  unfold dbgCtrlWrite
  extract_lets t t1
  have ht : Formed t := Formed.ite hs.wb hs
  have ht1 : Formed t1 := Formed.ite ht.wb ht
  exact Formed.ite ht1.wf.levelCheck.respond ht1.respond

protected theorem Formed.dbgKeyWrite {w : Nat} {v : Word} (hs : Formed s) : Formed (dbgKeyWrite s w v) :=
  (Formed.ite hs hs.onDbg).respond

protected theorem Formed.vtoutWrite {v : Word} (hs : Formed s) : Formed (vtoutWrite s v) := by
  unfold vtoutWrite
  refine Formed.respond ?_
  split
  · exact hs.wb
  · exact hs.onDbg

protected theorem Formed.stopWrite {k : Nat} (hs : Formed s) : Formed (stopWrite s k) :=
  Formed.ite hs (Formed.ite hs.coreStop hs.onDbg)

protected theorem Formed.stepWrite {k : Nat} (hs : Formed s) : Formed (stepWrite s k) := Formed.ite hs.coreResume.setCore hs

protected theorem Formed.dbgCorectlWrite {q : Req} {k : Nat} {v : Word} (hs : Formed s) : Formed (dbgCorectlWrite s q k v) := by
  unfold dbgCorectlWrite
  extract_lets _ t t1 t2 t3 t4
  have ht : Formed t := Formed.ite hs.clearBit hs
  have ht1 : Formed t1 := Formed.ite ht.wf.wf.wb ht
  have ht2 : Formed t2 := Formed.ite ht1.stopWrite ht1
  have ht3 : Formed t3 := Formed.ite ht2.stepWrite ht2
  have ht4 : Formed t4 := Formed.ite ht3.coreResume ht3
  exact ht4.respond

protected theorem Formed.cdatWrite {q : Req} {k : Nat} {v : Word} (hs : Formed s) : Formed (cdatWrite s q k v) := by
  unfold cdatWrite
  extract_lets c n c1
  refine Formed.ite hs.respond (Formed.ite hs.respond ?_)
  split
  · exact hs.setCore.respond
  · split
    next t heq => exact (SrRes.of_eq hs.writeSr heq : Formed t).respond
    · exact hs.respond
  · exact hs.setCore.respond
  · exact hs.respond

protected theorem Formed.trctlWrite {q : Req} {v : Word} (hs : Formed s) : Formed (trctlWrite s q v) := by
  unfold trctlWrite
  exact Formed.ite hs.respond ((Formed.ite hs.regPut.wb (Formed.ite hs.regPut.wb hs.regPut)).respond)

protected theorem Formed.trmarkWrite {v : Word} (hs : Formed s) : Formed (trmarkWrite s v) := hs.raiseTrace.respond

protected theorem Formed.debugWrite {d : RegDesc} {ix : List Nat} {q : Req} {a : Nat} {v : Word} (hs : Formed s) :
    Formed (debugWrite s d ix q a v) := by
  unfold debugWrite
  extract_lets _
  refine Formed.ite ?_ ?_
  · exact hs.dbgCtrlWrite
  · refine Formed.ite ?_ ?_
    · exact hs.dbgKeyWrite
    · refine Formed.ite ?_ ?_
      · exact hs.vtoutWrite
      · refine Formed.ite ?_ ?_
        · exact hs.dbgCorectlWrite
        · exact Formed.ite hs.cdatWrite (Formed.ite hs.trctlWrite (Formed.ite hs.trmarkWrite hs.plainWrite))

protected theorem Formed.regWrite {q : Req} {a : Nat} {v : Word} (hs : Formed s) : Formed (regWrite s q a v) := by
  unfold regWrite
  split
  · exact hs.respond
  · split
    · exact hs.respond
    · refine Formed.ite ?_ ?_
      · exact hs.respond
      · split
        · exact hs.platformWrite
        · exact hs.intcWrite
        · exact hs.memsysWrite
        · exact hs.matrixWrite
        · exact hs.cvpWrite
        · exact hs.accordWrite
        · exact hs.predictorWrite
        · exact hs.journalWrite
        · exact hs.pointWrite
        · exact hs.wearWrite
        · exact hs.mirrorWrite
        · exact hs.rackWrite
        · exact hs.commandWrite
        · exact hs.debugWrite

protected theorem Formed.icWrite {q : Req} {port a : Nat} {v : Word} {m : Meet} {auto : Bool} (hs : Formed s) :
    Formed (icWrite s q port a v m auto).2 := by
  unfold icWrite
  split
  · extract_lets t
    have ht : Formed t := hs.regWrite
    exact ht.mk
  · exact hs
  · exact hs
  · exact hs
  · exact Formed.ite_of Prod.snd hs.takeGrant hs.arrayWrite

protected theorem Formed.coreWrite {k : Nat} {r : MemReq} {m : Meet} (hs : Formed s) : Formed (coreWrite s k r m) := by
  unfold coreWrite
  extract_lets _ x y t
  have hx : Formed x.2 := hs.icWrite
  have hy : Formed y.2 := hx.icWrite
  have ht : Formed t := Formed.ite hy.tagWr hy
  exact Formed.ite hx.setHead (Formed.ite hx.popHead.postedPut ht.popHead.postedPut)

protected theorem Formed.vtinRead (hs : Formed s) : Formed (vtinRead s).2 := hs.onDbg

protected theorem Formed.cptAllocRead {q : Req} {r sink : Nat} (hs : Formed s) : ∀ t ∈ cptAllocRead s q r sink, Formed t := by
  unfold cptAllocRead
  split
  · exact mem_none_all
  · exact mem_some_all hs.cptAsk

protected theorem Formed.clearRc {d : RegDesc} {a : Nat} (hs : Formed s) : Formed (clearRc s d a) := Formed.ite hs hs.clearTo

protected theorem Formed.logSeen {d : RegDesc} {ix : List Nat} (hs : Formed s) : Formed (logSeen s d ix) :=
  Formed.ite hs.mk (Formed.ite hs.mk (Formed.ite hs.mk hs))

protected theorem Formed.regRead {q : Req} {a : Nat} {peek : Bool} {sink : Nat} (hs : Formed s) :
    Formed (regRead s q a peek sink).1 := by
  unfold regRead
  split
  · exact hs.respond
  · split
    · exact hs.respond
    · split
      · exact hs.respond
      · split
        · exact hs.claimRead
        · split
          · exact hs.jtsecRead.respond
          · split
            · exact (Formed.ite hs hs.vtinRead).respond
            · split
              · split
                next t heq2 => exact Formed.of_some hs.cptAllocRead heq2
                · exact hs.respond
              · exact (Formed.ite hs hs.clearRc.logSeen).respond

protected theorem Formed.strike {a : Nat} {u : Upset} (hs : Formed s) : Formed (strike s a u) := by
  unfold strike
  split
  · exact hs
  · exact Formed.ite hs.setUpset.tagWr hs
  · exact hs.setUpset
  · split
    · exact hs.setUpset
    · exact Formed.ite hs.setUpset hs.setUpset
    · exact hs

protected theorem Formed.icRead {q : Req} {port sink a : Nat} {peek : Bool} {m : Meet} {u : Upset} {auto tags : Bool}
    (hs : Formed s) :
    Formed (icRead s q port sink a peek m u auto tags).2.2.1 := by
  unfold icRead
  split
  · extract_lets r src
    have hr : Formed r.1 := hs.regRead
    have hsrc : Formed src := hr
    exact hsrc.mk
  · exact hs
  · exact hs
  · exact hs
  · exact Formed.ite_of (fun p => Prod.fst (Prod.snd (Prod.snd (p)))) hs.takeGrant.freshWord hs.strike.arrayRead

protected theorem Formed.coreRead {k : Nat} {r : MemReq} {m : Meet} {u : Upset} (hs : Formed s) :
    Formed (coreRead s k r m u) := by
  unfold coreRead
  extract_lets _ _ x y _
  have hx : Formed x.2.2.1 := hs.icRead
  have hy : Formed y.2.2.1 := hx.icRead
  exact Formed.ite hx.setHead (Formed.ite hx.popHead (Formed.ite hx.popHead.arrive hy.popHead.arrive))

protected theorem Formed.coreAct {k : Nat} {m : Meet} {u : Upset} {waited : Nat} (hs : Formed s) :
    Formed (coreAct s k m u waited) := by
  unfold coreAct
  split
  · exact hs
  · refine Formed.ite ?_ ?_
    · exact hs
    · refine Formed.ite ?_ ?_
      · exact Formed.ite hs.setHead hs
      · split
        · exact hs.coreOut.hmpDeliver
        · exact hs.coreOut.hmpDeliver
        · exact Formed.ite hs.waitMark (Formed.ite hs.icGrant.spend.coreWrite hs.icGrant.coreRead)

protected theorem Formed.execMemAccess {k : Fin 10} {m : Meet} {u : Upset} {waited : BitVec 16} (hs : Formed s) :
    FormedOut (execMemAccess k m u waited s) :=
  hs.onlyIf hs.coreAct

protected theorem Formed.retrySpent {k : Nat} (hs : Formed s) : Formed (retrySpent s k) := by
  unfold retrySpent
  split
  · exact Formed.ite hs.spend hs
  · exact hs

protected theorem Formed.execMemRetry {k : Fin 10} {m : Meet} {u : Upset} (hs : Formed s) : FormedOut (execMemRetry k m u s) :=
  hs.onlyIf hs.inc.retrySpent.coreAct

protected theorem Formed.scrubTake {i : Nat} (hs : Formed s) : Formed (scrubTake s i) := Formed.ite hs.mk.grantNote hs.mk

protected theorem Formed.scrubWord {i a : Nat} (hs : Formed s) : Formed (scrubWord s i a) := by
  unfold scrubWord
  extract_lets t
  have ht : Formed t := Formed.ite hs.countCe.eccLog.tagWr.setUpset hs
  split
  · exact ht.countCe.eccLog.setUpset
  · exact ht.countUe.eccLog
  · exact ht

protected theorem Formed.scrubVisit {i a : Nat} (hs : Formed s) : Formed (scrubVisit s i a) := hs.scrubWord.mk

protected theorem Formed.passEnd {i : Nat} (hs : Formed s) : Formed (passEnd s i) := hs.mk

protected theorem Formed.scrubAdvance {i a : Nat} (hs : Formed s) : Formed (scrubAdvance s i a) :=
  Formed.ite hs.mk (Formed.ite hs.mk hs.mk.passEnd)

protected theorem Formed.execScrub {i : Fin 88} {u : Upset} {busy : Bool} (hs : Formed s) : FormedOut (execScrub i u busy s) :=
  hs.onlyIf ((Formed.ite hs.strike.scrubTake hs.strike.scrubTake.scrubVisit).scrubAdvance)

protected theorem Formed.scrubFastAll (hs : Formed s) : Formed (scrubFastAll s) :=
  hs.forN (fun _ _ h => (Formed.ite h.wb.wb.mk (Formed.ite h.wb.mk h)))

protected theorem Formed.scrubFast (hs : Formed s) : Formed (scrubFast s) := hs.scrubFastAll.mk

protected theorem Formed.activate (hs : Formed s) : Formed (activate s) := by
  unfold activate
  refine Formed.ite ?_ ?_
  · exact hs
  · split
    · exact hs
    · extract_lets t _
      have ht : Formed t := hs.foldl (fun _ _ h => h.wr)
      exact ht.mk

protected theorem Formed.demoteStep {st plane : Nat} (hs : Formed s) : Formed (demoteStep st plane s) := by
  unfold demoteStep
  extract_lets _
  refine Formed.ite ?_ ?_
  · split
    · exact hs.wb.wb
    · exact hs
  · exact hs

protected theorem Formed.demoteAll (hs : Formed s) : Formed (demoteAll s) :=
  hs.foldl (fun _ _ h => (h.forN (fun _ _ h1 => h1.demoteStep)))

protected theorem Formed.loadCredits (hs : Formed s) : Formed (loadCredits s) := hs.mk

protected theorem Formed.frameStart (hs : Formed s) : Formed (frameStart s) := hs.scrubFast.activate.demoteAll.loadCredits

protected theorem Formed.execFrameStart (hs : Formed s) : FormedOut (execFrameStart s) := hs.onlyIf hs.frameStart

protected theorem Formed.execResvCommit (hs : Formed s) : FormedOut (execResvCommit s) := hs.resvCommit.respond.ok

protected theorem Formed.execResvAdmissionDone (hs : Formed s) : FormedOut (execResvAdmissionDone s) := by
  unfold execResvAdmissionDone
  split
  · exact hs.ok
  · extract_lets t t1 t2 _
    have ht : Formed t := hs.wb.wb
    have ht1 : Formed t1 := ht.wf
    have ht2 : Formed t2 := Formed.ite ht1.wf.wf.wf.wf.wb ht1
    exact ht2.mk.ok

protected theorem Formed.execBankRetire {q : Req} {st : Fin 16} {v : BitVec 4} (hs : Formed s) :
    FormedOut (execBankRetire q st v s) :=
  hs.retireWrite.ok

protected theorem Formed.pneMailbox {q : Req} {r n kind : Nat} (hs : Formed s) : FormedOut (pneMailbox q r n kind s) :=
  FormedOut.ite hs.pneMbpntWrite.ok hs.respond.ok

protected theorem Formed.execPneRead {q : Req} {r : Fin 12} {n : BitVec 25} (hs : Formed s) : FormedOut (execPneRead q r n s) :=
  hs.pneMailbox

protected theorem Formed.execPneWrite {q : Req} {r : Fin 12} {n : BitVec 25} (hs : Formed s) : FormedOut (execPneWrite q r n s) :=
  hs.pneMailbox

protected theorem Formed.execPneDefine {q : Req} {r : Fin 12} {n : BitVec 25} (hs : Formed s) :
    FormedOut (execPneDefine q r n s) :=
  hs.pneMailbox

protected theorem Formed.execPneDelete {q : Req} {r : Fin 12} {n : BitVec 25} (hs : Formed s) :
    FormedOut (execPneDelete q r n s) :=
  hs.pneMailbox

protected theorem Formed.execPnePin {q : Req} {r : Fin 12} {n : BitVec 25} (hs : Formed s) : FormedOut (execPnePin q r n s) :=
  hs.pneMailbox

protected theorem Formed.execPneUnpin {q : Req} {r : Fin 12} {n : BitVec 25} (hs : Formed s) : FormedOut (execPneUnpin q r n s) :=
  hs.pneMailbox

protected theorem Formed.execPneDeclare {q : Req} {r : Fin 12} {n : BitVec 25} (hs : Formed s) :
    FormedOut (execPneDeclare q r n s) :=
  hs.pneMailbox

protected theorem Formed.execPneWopReserved {q : Req} {r : Fin 12} {n : BitVec 25} (hs : Formed s) :
    FormedOut (execPneWopReserved q r n s) :=
  hs.pneMailbox

protected theorem Formed.startPneFill {n : Nat} (hs : Formed s) : Formed (startPneFill s n) := Formed.ite hs hs.inc.mk.hmpReq

protected theorem Formed.opFill {op : PneOp} (hs : Formed s) : Formed (opFill s op) := Formed.ite hs hs.startPneFill

protected theorem Formed.runDeclare {op : PneOp} (hs : Formed s) : Formed (runDeclare s op) :=
  Formed.ite hs.pneFinish hs.pneJournal

protected theorem Formed.checkRestored {u : Nat} (hs : Formed s) : Formed (checkRestored s u) :=
  Formed.ite hs.setUnit.pneJournal hs

protected theorem Formed.takeTag {u : Nat} (hs : Formed s) : Formed (takeTag s u).2 := hs.mk

protected theorem Formed.rlkDeliver {u lidx : Nat} {v : Word} (hs : Formed s) : ∀ t ∈ rlkDeliver s u lidx v, Formed t := by
  unfold rlkDeliver
  split
  · exact mem_none_all
  · split
    · exact mem_some_all hs
    · split
      · extract_lets t _
        have ht : Formed t.2 := hs.takeTag
        split
        · exact mem_some_all ht.setSend
        · exact mem_some_all ht.setSend
      · split
        · extract_lets t
          have ht : Formed t.2 := hs.takeTag
          exact mem_some_all ht.setSend
        · exact mem_none_all

protected theorem Formed.sendQueued {n a : Nat} (hs : Formed s) : ∀ t ∈ sendQueued s n a, Formed t := by
  unfold sendQueued
  extract_lets _ _
  split
  · exact mem_some_all hs.setUnit.checkRestored
  · exact hs.rlkDeliver

protected theorem Formed.syncPin {n m : Nat} (hs : Formed s) : Formed (syncPin s n m) := hs.setPins

protected theorem Formed.queueDelivery {n : Nat} {v : Word} {m : Nat} (hs : Formed s) : Formed (queueDelivery s n v m) :=
  Formed.ite hs.onPne hs

protected theorem Formed.looseEffect {op : PneOp} {a : Nat} {v : Word} {m : Nat} (hs : Formed s) :
    Formed (looseEffect s op a v m) :=
  hs.entPut.entPut.entStore.syncPin.queueDelivery.pneFinish

protected theorem Formed.pneRun {op : PneOp} {a : Nat} (hs : Formed s) : Formed (pneRun s op a) := by
  unfold pneRun
  extract_lets r _ _ t
  clear_value r
  have ht : Formed t := hs.entCheck
  refine Formed.ite ?_ ?_
  · exact Formed.getD hs.sendQueued hs
  · split
    · exact ht.pneFinish
    · extract_lets _
      exact Formed.ite ht.pneFinish (Formed.ite ht.looseEffect (Formed.ite ht.pneFinish ht.pneJournal))

protected theorem Formed.runOp {op : PneOp} (hs : Formed s) : Formed (runOp s op) := by
  unfold runOp
  refine Formed.ite ?_ ?_
  · exact hs.runDeclare
  · split
    · exact hs.pneRun
    · exact hs

protected theorem Formed.pneAdmit {op : PneOp} (hs : Formed s) : Formed (pneAdmit s op) := by
  unfold pneAdmit
  refine Formed.ite ?_ ?_
  · exact Formed.ite hs hs.pneFinish
  · split
    · exact hs.pneFinish
    · exact Formed.ite hs.opFill.onPne hs.runOp

protected theorem Formed.execPneAdmission (hs : Formed s) : FormedOut (execPneAdmission s) := by
  unfold execPneAdmission
  extract_lets t
  have ht : Formed t := hs.pneFlushUnsent
  split
  · exact ht.ok
  · exact FormedOut.ite ht.onPne.pneAdmit.ok ht.ok

protected theorem Formed.changedPair {d : Deliv} (hs : Formed s) : Formed (changedPair s d).2 := by
  unfold changedPair
  extract_lets _
  refine Formed.ite_of Prod.snd ?_ ?_
  · exact hs
  · split
    · exact hs
    · exact hs.startPneFill

protected theorem Formed.requeue {n : Nat} (hs : Formed s) : Formed (requeue s n) := Formed.ite hs hs.setUnit.onPne

protected theorem Formed.deliverRack {n : Nat} {v : Word} {m : Nat} (hs : Formed s) : ∀ t ∈ deliverRack s n v m, Formed t := by
  unfold deliverRack
  split
  · exact mem_some_all hs
  · extract_lets _
    split
    · exact mem_some_all hs.requeue
    · exact hs.rlkDeliver

protected theorem Formed.deliverRefs {n : Nat} {v : Word} (hs : Formed s) : Formed (deliverRefs s n v) := by
  unfold deliverRefs
  extract_lets t t1
  have ht : Formed t := hs.foldl (fun _ _ h => (Formed.ite h.mk h))
  have ht1 : Formed t1 := ht.foldl (fun _ _ h => (Formed.ite h.mk h))
  exact ht1.foldl (fun _ _ h => h.mk)

protected theorem Formed.calLoad {c : Nat} {g o : Word} (hs : Formed s) : Formed (calLoad s c g o) := Formed.ite hs.wb.mk hs

protected theorem Formed.pairOf {c : Nat} (hs : Formed s) : Formed (pairOf s c).2 := by
  unfold pairOf
  extract_lets _
  split
  · exact hs
  · exact hs.startPneFill
  · exact hs.startPneFill
  · exact hs.startPneFill.startPneFill

protected theorem Formed.deliverAsked (hs : Formed s) : Formed (deliverAsked s) := by
  unfold deliverAsked
  split
  · split
    · exact hs.deliverRefs.onPne
    · exact hs.startPneFill
  · split
    next pr t heq1 => exact ((Formed.of_snd hs.pairOf heq1).calLoad).onPne
    next t heq1 => exact Formed.of_snd hs.pairOf heq1
  · exact hs

protected theorem Formed.deliverHead (hs : Formed s) : Formed (deliverHead s) := by
  unfold deliverHead
  split
  · split
    next t heq1 => exact Formed.of_snd hs.changedPair heq1
    next pr t heq1 =>
      split
      · exact Formed.of_snd hs.changedPair heq1
      next t heq2 =>
        extract_lets t1 t2
        have ht1 : Formed t1 := (Formed.of_some ((Formed.of_snd hs.changedPair heq1).deliverRack) heq2).deliverRefs
        have ht2 : Formed t2 := Formed.ite ht1.calLoad ht1
        exact ht2.onPne
  · exact Formed.ite hs.deliverAsked hs

protected theorem Formed.evictEntry {a : Nat} (hs : Formed s) : Formed (evictEntry s a) := Formed.ite hs.writeImage hs

protected theorem Formed.putEntry {a n : Nat} {v : Word} {m age : Nat} (hs : Formed s) : Formed (putEntry s a n v m age) :=
  hs.evictEntry.entStore.entStore

protected theorem Formed.wayFor {n : Nat} (hs : Formed s) : ∀ t ∈ wayFor s n, Formed t.2 := by
  unfold wayFor
  split
  · exact mem_some_all hs
  · intro t ht
    obtain ⟨a, -, rfl⟩ := Option.mem_map.1 ht
    exact hs.putEntry

protected theorem Formed.entEffect {a n : Nat} {v : Word} {m csn : Nat} {value : Bool} (hs : Formed s) :
    Formed (entEffect s a n v m csn value) :=
  hs.entStore.putEntry.entPut.entPut.onPne.syncPin

protected theorem Formed.setOstate {u o : Nat} (hs : Formed s) : Formed (setOstate s u o) := Formed.ite hs hs.wf.setUnit

protected theorem Formed.reclassify {u : Nat} (hs : Formed s) : Formed (reclassify s u) := Formed.ite hs.setOstate hs

protected theorem Formed.declareUnit {u ds : Nat} {dm ser : Nat} (hs : Formed s) : Formed (declareUnit s u ds dm ser) :=
  hs.wf.wf.wf.setUnit.reclassify

protected theorem Formed.rlkDropUnit {u : Nat} (hs : Formed s) : Formed (rlkDropUnit s u) := hs.setSend

protected theorem Formed.setUstate {u st cause : Nat} (hs : Formed s) : Formed (setUstate s u st cause) := by
  unfold setUstate
  extract_lets _ t t1 t2 t3 t4 t5 t6 t7
  have ht : Formed t := hs.wf
  have ht1 : Formed t1 := ht.wf.countConf
  have ht2 : Formed t2 := ht1.wb
  have ht3 : Formed t3 := Formed.ite ht2.wb ht2
  have ht4 : Formed t4 := Formed.ite ht3.endRestore ht3.dropRestore
  have ht5 : Formed t5 := Formed.ite ht4 ht4.rlkDropUnit
  have ht6 : Formed t6 := ht5.unitRecord
  have ht7 : Formed t7 := Formed.ite ht6.raiseEv ht6
  exact Formed.ite ht (Formed.ite ht5 (Formed.ite ht7 ht7.beginScan))

protected theorem Formed.acceptUnit {u new : Nat} {mine : Bool} (hs : Formed s) : Formed (acceptUnit s u new mine) :=
  Formed.ite hs.wf.reclassify.setUnit.wb.setUstate.onPne hs.wf.reclassify.setUnit

protected theorem Formed.pneEffect {d : PneDue} {quiet : Bool} (hs : Formed s) : Formed (pneEffect s d quiet).2 := by
  unfold pneEffect
  extract_lets _ _ _ _ _ _ _ _ _
  split
  · refine Formed.ite_of Prod.snd ?_ ?_
    · exact hs
    · split
      · exact hs
      next a t heq1 =>
        extract_lets t1
        have ht1 : Formed t1 := (Formed.of_mem hs.wayFor heq1).entEffect
        exact Formed.ite ht1 ht1.queueDelivery
  · refine Formed.ite_of Prod.snd ?_ ?_
    · exact hs
    · split
      · exact hs
      next a t heq1 =>
        extract_lets t1
        have ht1 : Formed t1 := (Formed.of_mem hs.wayFor heq1).entEffect
        exact Formed.ite ht1 ht1.queueDelivery
  · refine Formed.ite_of Prod.snd ?_ ?_
    · exact hs
    · split
      · exact hs
      next a t heq1 =>
        extract_lets t1
        have ht1 : Formed t1 := (Formed.of_mem hs.wayFor heq1).entEffect
        exact Formed.ite ht1 ht1.queueDelivery
  · split
    · extract_lets _ t
      have ht : Formed t := hs.entEffect
      exact Formed.ite_of Prod.snd hs (Formed.ite ht ht.queueDelivery)
    · exact hs.startPneFill
  · split
    · extract_lets _ t
      have ht : Formed t := hs.entEffect
      exact Formed.ite_of Prod.snd hs (Formed.ite ht ht.queueDelivery)
    · exact hs.startPneFill
  · exact hs.declareUnit
  · exact hs.setUnit
  · exact hs.acceptUnit
  · exact hs

protected theorem Formed.waitCount {d : PneDue} (hs : Formed s) : Formed (waitCount s d) := Formed.ite hs.inc hs

protected theorem Formed.drainDue {f : Nat} (hs : Formed s) : Formed (drainDue f s) := by
  induction f generalizing s with
  | zero => exact hs
  | succ f ih =>
    unfold drainDue
    split
    · exact hs
    next d r _ =>
      extract_lets op t
      clear_value op
      have ht : Formed t := by
        unfold t
        split
        · exact hs.dropJop
        · exact hs
      split
      next u heq => exact (Formed.of_snd ht.pneEffect heq).mk.waitCount
      next u heq =>
        extract_lets u1
        have hu : Formed u1 := (Formed.of_snd ht.pneEffect heq).onPne
        refine ih ?_
        split
        · exact hu.pneFinish
        · exact hu

protected theorem Formed.drainCur {before l : List PneOp} (hs : Formed s) : Formed (drainCur s before l) := by
  induction l generalizing s before with
  | nil => exact hs.onPne
  | cons op r ih => exact Formed.ite (ih hs.opFill) (ih hs.runOp)

protected theorem Formed.runCur (hs : Formed s) : Formed (runCur s) := Formed.ite hs.drainCur hs

protected theorem Formed.execPointDelivery (hs : Formed s) : FormedOut (execPointDelivery s) :=
  hs.onlyIf hs.deliverHead.drainDue.runCur

protected theorem Formed.fillFailed {n : Nat} (hs : Formed s) : Formed (fillFailed s n) := by
  unfold fillFailed
  extract_lets t t1 t2 _
  have ht : Formed t := hs.imgErr
  have ht1 : Formed t1 := by
    unfold t1
    split
    · exact Formed.ite ht.deliverRefs.onPne ht
    · exact ht
  have ht2 : Formed t2 := ht1.onPne
  exact ht2.onPne.foldl (fun _ _ h => h.pneFinish)

protected theorem Formed.fillArrived {n a : Nat} {v : Word} {m : Nat} (hs : Formed s) : Formed (fillArrived s n a v m) :=
  hs.putEntry.onPne.runCur.drainDue

protected theorem Formed.execCacheFill (hs : Formed s) : FormedOut (execCacheFill s) := by
  unfold execCacheFill
  split
  · exact hs.ok
  · split
    · exact hs.ok
    · extract_lets _ u u1
      have hu : Formed u := hs.mk
      have hu1 : Formed u1 := hu.onPne
      refine FormedOut.ite ?_ ?_
      · exact hu1.fillFailed.ok
      · split
        · exact hu1.ok
        · exact hu1.fillArrived.ok
        · exact FormedOut.ite hs.ok hs.inc.onPne.ok

protected theorem Formed.execAgeTick (hs : Formed s) : FormedOut (execAgeTick s) :=
  hs.onlyIf ((hs.foldl (fun _ _ h => h.ownCheck.entPut)).mk)

protected theorem Formed.scanFound {u pass i : Nat} {v : Word} {m : Nat} (hs : Formed s) :
    ∀ t ∈ scanFound s u pass i v m, Formed t := by
  unfold scanFound
  extract_lets _
  split
  · exact mem_some_all hs
  · split
    · exact hs.rlkDeliver
    · split
      · exact mem_some_all hs
      · exact mem_some_all hs.requeue

protected theorem Formed.scanNext {u pass i : Nat} (hs : Formed s) : Formed (scanNext s u pass i) :=
  Formed.ite hs.setUnit.checkRestored hs.setUnit

protected theorem Formed.execPointScan {u : Fin 1024} (hs : Formed s) : FormedOut (execPointScan u s) := by
  unfold execPointScan
  extract_lets _
  split
  · exact hs.ok
  · extract_lets _
    refine FormedOut.ite ?_ ?_
    · exact hs.ok
    · split
      · refine Formed.ok ?_
        split
        next t heq2 => exact (Formed.ite ((Formed.of_some hs.entCheck.scanFound heq2).hmpDrop) (Formed.of_some hs.entCheck.scanFound heq2)).scanNext
        · exact hs
      · refine FormedOut.ite ?_ ?_
        · exact hs.setUnit.hmpReq.ok
        · split
          · exact hs.ok
          next r t heq2 =>
            refine FormedOut.ite ?_ ?_
            · exact (((Formed.of_mem hs.hmpTake heq2).imgErr).scanNext).ok
            · refine Formed.ok ?_
              split
              next t heq3 => exact (Formed.of_some ((Formed.of_mem hs.hmpTake heq2).scanFound) heq3).scanNext
              · exact hs

protected theorem Formed.execPneCacheEnable {q : Req} {size : BitVec 2} {base : BitVec 4} (hs : Formed s) :
    FormedOut (execPneCacheEnable q size base s) :=
  FormedOut.ite hs.pneCcfgWrite.ok hs.respond.ok

protected theorem Formed.execPneCacheDisable {q : Req} (hs : Formed s) : FormedOut (execPneCacheDisable q s) :=
  FormedOut.ite hs.pneCcfgWrite.ok hs.respond.ok

protected theorem Formed.execPneDisableDone (hs : Formed s) : FormedOut (execPneDisableDone s) :=
  hs.onlyIf hs.saveLoose.pneReadsDrop.clearCache.setPins.onPne

protected theorem Formed.execPneReady (hs : Formed s) : FormedOut (execPneReady s) :=
  hs.onlyIf ((((hs.wb.onPne.foldl (fun _ _ h => h.setOstate)).drainDue).runCur).pneReload)

protected theorem Formed.execRestoreTimeout {u : Fin 1024} (hs : Formed s) : FormedOut (execRestoreTimeout u s) :=
  hs.onlyIf hs.setUstate.setUnit

protected theorem Formed.execJneOpen {q : Req} {mirmode ackmode : Bool} (hs : Formed s) :
    FormedOut (execJneOpen q mirmode ackmode s) :=
  FormedOut.ite hs.jneCtrlWrite.ok hs.respond.ok

protected theorem Formed.execJneClose {q : Req} (hs : Formed s) : FormedOut (execJneClose q s) :=
  FormedOut.ite hs.jneCtrlWrite.ok hs.respond.ok

protected theorem Formed.execRecoveryComplete (hs : Formed s) : FormedOut (execRecoveryComplete s) :=
  FormedOut.ite hs.wf.wf.onJne.percsnSync.ownRecord.jneEnter.ok hs.ok

protected theorem Formed.execJneFormat {q : Req} {key : BitVec 16} (hs : Formed s) : FormedOut (execJneFormat q key s) :=
  FormedOut.ite hs.jneCmdWrite.ok hs.respond.ok

protected theorem Formed.execFormatComplete (hs : Formed s) : FormedOut (execFormatComplete s) :=
  FormedOut.ite hs.onJne.jneEnter.ok hs.ok

protected theorem Formed.purgeRequests (hs : Formed s) : Formed (purgeRequests s) := by
  unfold purgeRequests
  extract_lets _ _ t
  have ht : Formed t := hs.mk
  exact ht.foldl (fun _ _ h => ((Formed.ite ((Formed.ite h.inc h).wb) (Formed.ite h.inc h)).onJne).jneAnswer)

protected theorem Formed.purgeOwn (hs : Formed s) : Formed (purgeOwn s) :=
  Formed.ite hs (Formed.ite hs.onJne ((Formed.ite hs.wb hs).onJne))

protected theorem Formed.purgeMirrored (hs : Formed s) : Formed (purgeMirrored s) :=
  Formed.ite hs (((Formed.ite hs.wb hs).mk).onJne)

protected theorem Formed.countStall {key : Nat × Nat} {r : Nat} (hs : Formed s) : Formed (countStall s key r) :=
  Formed.ite hs hs.wb.inc.onJne

protected theorem Formed.flagStalls (hs : Formed s) : Formed (flagStalls s) := by
  unfold flagStalls
  extract_lets _ _ _ t
  have ht : Formed t := (hs.foldl (fun _ _ h => h.countStall)).onJne
  split
  · exact ht.wf
  · exact ht

protected theorem Formed.ringWrite {off csn : Nat} {ws : List Word} (hs : Formed s) : Formed (ringWrite s off csn ws) :=
  Formed.foldl_snd hs (fun _ _ h => h.startBurst)

protected theorem Formed.padsWrite {c : Commit} (hs : Formed s) : Formed (padsWrite s c) :=
  hs.onJne.foldl (fun _ _ h => h.ringWrite)

protected theorem Formed.commitWrite {c : Commit} (hs : Formed s) : Formed (commitWrite s c) :=
  (hs.foldl (fun _ _ h => h.ringWrite.onJne)).onJne

protected theorem Formed.persistNext {f : Nat} (hs : Formed s) : Formed (persistNext f s) := by
  induction f generalizing s with
  | zero => exact hs
  | succ f ih =>
    unfold persistNext
    split
    · exact Formed.ite hs (Formed.ite hs.padsWrite (Formed.ite hs (ih hs.commitWrite)))
    · exact hs

protected theorem Formed.admitMirrored {ws : List (List Word)} (hs : Formed s) : Formed (admitMirrored s ws) :=
  hs.wf.onJne.setU.percsnSync.persistNext

protected theorem Formed.admitLocal {src : Nat} {req : Option Nat} {recs : List (Nat × List Word)} {staged : Bool}
    (hs : Formed s) :
    Formed (admitLocal s src req recs staged) :=
  hs.wf.onJne.setU.percsnSync.persistNext

protected theorem Formed.admitRequest {r : RecReq} (hs : Formed s) : Formed (admitRequest s r) := hs.mk.onJne.admitLocal

protected theorem Formed.admitProducer (hs : Formed s) : Formed (admitProducer s) := by
  unfold admitProducer
  split
  · exact hs.admitRequest
  · exact hs

protected theorem Formed.jneAdmitOne (hs : Formed s) : Formed (jneAdmitOne s) := by
  unfold jneAdmitOne
  extract_lets t
  have ht : Formed t := hs.flagStalls
  split
  · exact Formed.ite ht.onJne.admitMirrored ht
  · exact Formed.ite ht.onJne.admitLocal ht.admitProducer
  · exact ht.admitProducer

protected theorem Formed.execJneAdmit (hs : Formed s) : FormedOut (execJneAdmit s) := by
  unfold execJneAdmit
  extract_lets t
  have ht : Formed t := hs.purgeRequests.purgeOwn.purgeMirrored
  exact ht.onlyIf ht.jneAdmitOne

protected theorem Formed.execPaceRefill (hs : Formed s) : FormedOut (execPaceRefill s) := hs.onlyIf hs.onJne

protected theorem Formed.burstFailed {b : JBurst} (hs : Formed s) : Formed (burstFailed s b) :=
  Formed.ite (Formed.ite hs hs.onJne) (Formed.ite hs.inc.startBurst hs.wb.jneFault)

protected theorem Formed.wordsPersisted {csn n : Nat} (hs : Formed s) : Formed (wordsPersisted s csn n) :=
  Formed.ite hs.persistNext hs.onJne.setU.percsnSync.jneCheckOff

protected theorem Formed.burstDone {b : JBurst} {x2 : HmpTx} (hs : Formed s) : Formed (burstDone s b x2) :=
  Formed.ite hs.onJne.burstFailed (Formed.ite hs.onJne.wordsPersisted hs.onJne.onJne)

protected theorem Formed.execHeadBurstResponse (hs : Formed s) : FormedOut (execHeadBurstResponse s) := by
  unfold execHeadBurstResponse
  split
  · exact hs.ok
  next x t heq =>
    split
    · exact (((Formed.of_mem hs.hmpTake heq).burstDone).jneRun).ok
    · exact (Formed.of_mem hs.hmpTake heq).ok

protected theorem Formed.execHeadBurstTimeout (hs : Formed s) : FormedOut (execHeadBurstTimeout s) := by
  unfold execHeadBurstTimeout
  extract_lets old
  clear_value old
  split
  · exact hs.ok
  · split
    · exact hs.ok
    · extract_lets t
      have ht : Formed t := hs.hmpDrop.onJne
      exact ht.burstFailed.jneRun.ok

protected theorem Formed.pneAcked {kind : Nat} {body : List Word} {csn : Nat} {jid : Option Nat} {ack : Nat} (hs : Formed s) :
    Formed (pneAcked s kind body csn jid ack) :=
  Formed.ite hs.onPne.drainDue (Formed.ite (Formed.ite hs.ackEarly.onPne hs.ackEarly) hs)

protected theorem Formed.wacReplaced {u old new : Nat} (hs : Formed s) : Formed (wacReplaced s u old new) :=
  Formed.ite hs.onWac.resetBegin hs

protected theorem Formed.wacTakeReplaced (hs : Formed s) : Formed (wacTakeReplaced s) :=
  hs.onPne.foldl (fun _ _ h => h.wacReplaced)

protected theorem Formed.ackOldest (hs : Formed s) : Formed (ackOldest s) := by
  unfold ackOldest
  split
  · exact hs
  · refine Formed.ite ?_ ?_
    · exact hs
    · extract_lets _ t t1 t2 t3 _
      have ht : Formed t := hs.onJne
      have ht1 : Formed t1 := ht.wf
      have ht2 : Formed t2 := Formed.ite ht1.inc ht1
      have ht3 : Formed t3 := by
        unfold t3
        split
        · exact Formed.ite ht2 ht2.jneAnswer
        · exact ht2
      exact (ht3.foldl (fun _ _ h => (Formed.ite h.pneAcked h))).wacTakeReplaced

protected theorem Formed.execJournalAck (hs : Formed s) : FormedOut (execJournalAck s) := hs.onlyIf hs.ackOldest

protected theorem Formed.execPfail (hs : Formed s) : FormedOut (execPfail s) := by
  unfold execPfail
  refine FormedOut.ite ?_ ?_
  · exact hs.ok
  · extract_lets _ t t1 t2 t3
    have ht : Formed t := hs.mk
    have ht1 : Formed t1 := Formed.ite ht.mk ht
    have ht2 : Formed t2 := ht1.semFire.tripSync
    have ht3 : Formed t3 := ht2.onJne
    exact (Formed.ite ht3.jneCloseNow ht3).ok

protected theorem Formed.execPfailRearm (hs : Formed s) : FormedOut (execPfailRearm s) := by
  unfold execPfailRearm
  split
  · exact FormedOut.ite hs.ownRecord.ownRecord.onJne.jneEnter.ok hs.ok
  · exact hs.ok

protected theorem Formed.execHoldupWrite {q : Req} {v : Word} (hs : Formed s) : FormedOut (execHoldupWrite q v s) :=
  FormedOut.ite hs.holdupWrite.respond.ok hs.respond.ok

protected theorem Formed.execJneMbGo {q : Req} {r : Fin 12} {kind : BitVec 8} {len : BitVec 10} (hs : Formed s) :
    FormedOut (execJneMbGo q r kind len s) :=
  FormedOut.ite hs.jneMbctlWrite.ok hs.respond.ok

protected theorem Formed.readBody {a n : Nat} {l : List Word} (hs : Formed s) : Formed (readBody s a n l).2 := by
  induction n generalizing s a l with
  | zero => exact hs
  | succ n ih =>
    unfold readBody
    extract_lets r
    have hr : Formed r.2.2 := hs.arrayRead
    split
    · exact ih hr
    · exact hr

protected theorem Formed.bodyRead {r : Nat} {c : Commit} (hs : Formed s) : Formed (bodyRead s r c) := by
  unfold bodyRead
  extract_lets _ _ b _ _
  have hb : Formed b.2 := hs.readBody
  clear_value b
  split
  · extract_lets _ _
    exact hb.onJne.persistNext
  · extract_lets t1 t2
    have ht1 : Formed t1 := hb.jneAnswer
    have ht2 : Formed t2 := ht1.setU
    exact ht2.onJne.persistNext

protected theorem Formed.execMbBodyRead {r : Fin 12} (hs : Formed s) : FormedOut (execMbBodyRead r s) := by
  unfold execMbBodyRead
  split
  · exact hs.onlyIf hs.bodyRead
  · exact hs.ok

protected theorem Formed.execMqheadWrite {m : Fin 16} (hs : Formed s) : FormedOut (execMqheadWrite m s) :=
  FormedOut.ite hs.mqAsk.respond.ok hs.respond.ok

protected theorem Formed.execMqPoll (hs : Formed s) : FormedOut (execMqPoll s) :=
  hs.onlyIf (hs.onJne.forN (fun _ _ h => h.mqAsk))

protected theorem Formed.infoResult {m page : Nat} {v : Word} (hs : Formed s) : Formed (infoResult s m page v) :=
  Formed.ite (Formed.ite hs.wf hs) (Formed.ite hs.wf.wf.wb hs.wf.wf)

protected theorem Formed.mediumFail {m status : Nat} {op page : Nat} (hs : Formed s) : Formed (mediumFail s m status op page) :=
  Formed.ite hs.wb.mediumErr.onJne.endScript.pushOps hs.wb.mediumErr.onJne

protected theorem Formed.mqConsumed {m : Nat} {w0 v : Word} (hs : Formed s) : Formed (mqConsumed s m w0 v) := by
  unfold mqConsumed
  extract_lets _ _ t
  have ht : Formed t := Formed.ite hs hs.wb.wf.wf
  split
  · exact ht
  · extract_lets t1
    have ht1 : Formed t1 := ht.onJne.mqSync
    exact Formed.ite (Formed.ite ht1.infoResult ht1) (Formed.ite ht1.mediumFail ht1)

protected theorem Formed.execMqCompletion {m : Fin 16} (hs : Formed s) : FormedOut (execMqCompletion m s) := by
  unfold execMqCompletion
  split
  · exact hs.ok
  next x t heq =>
    extract_lets _ t1 _ t2
    have ht1 : Formed t1 := (Formed.of_mem hs.hmpTake heq).setMqRing
    have ht2 : Formed t2 := ht1.setMqRing
    exact FormedOut.ite ((Formed.ite ht1.mqAsk ht1).ok) ht2.mqConsumed.jneRun.mqAsk.ok

protected theorem Formed.execMerrReadmit {m : Fin 16} (hs : Formed s) : FormedOut (execMerrReadmit m s) :=
  FormedOut.ite hs.merrWrite.respond.ok hs.respond.ok

protected theorem Formed.execDrydownBatch (hs : Formed s) : FormedOut (execDrydownBatch s) :=
  FormedOut.ite hs.onJne.pushOps.jneRun.ok hs.ok

protected theorem Formed.execSegPin {q : Req} {seq : BitVec 36} (hs : Formed s) : FormedOut (execSegPin q seq s) :=
  FormedOut.ite hs.segcmdWrite.ok hs.respond.ok

protected theorem Formed.execSegUnpin {q : Req} {seq : BitVec 36} (hs : Formed s) : FormedOut (execSegUnpin q seq s) :=
  FormedOut.ite hs.segcmdWrite.ok hs.respond.ok

protected theorem Formed.execInfoPoll (hs : Formed s) : FormedOut (execInfoPoll s) := hs.onlyIf hs.onJne.jneRun

protected theorem Formed.execWacEnable {q : Req} {nsw : BitVec 15} {uper ckper : BitVec 16} (hs : Formed s) :
    FormedOut (execWacEnable q nsw uper ckper s) :=
  FormedOut.ite hs.wacCtrlWrite.ok hs.respond.ok

protected theorem Formed.execWacDisable {q : Req} (hs : Formed s) : FormedOut (execWacDisable q s) :=
  FormedOut.ite hs.wacCtrlWrite.ok hs.respond.ok

protected theorem Formed.wacCollect (hs : Formed s) : Formed (wacCollect s) := hs.onPne.onWac

protected theorem Formed.wacRead {n : Nat} (hs : Formed s) : Formed (wacRead s n).2 := by
  unfold wacRead
  split
  · exact hs
  · exact Formed.ite_of Prod.snd hs hs.pneSubmit.onWac

protected theorem Formed.wacStart {t : Nat} (hs : Formed s) : Formed (wacStart s t) := ((Formed.ite hs.wacRead hs).wacRead).onWac

protected theorem Formed.wacReads {t : Nat} (hs : Formed s) : Formed (wacReads s t) := hs.ownChecks.ownChecks

protected theorem Formed.setCtl {t : Nat} {f : Fld} {v : Nat} (hs : Formed s) : Formed (setCtl s t f v) := hs.setWacSt

protected theorem Formed.wacPole {t i : Nat} {p : Int} (hs : Formed s) : Formed (wacPole s t i p) := hs.setWacSt

protected theorem Formed.wacIndex {t : Nat} {u w : Int} (hs : Formed s) : Formed (wacIndex s t u w).2 := by
  unfold wacIndex
  extract_lets _ _ _ f b f1 m
  have hf : Formed f.2 := hs.freshWord
  have hb : Formed b.2 := Formed.ite_of Prod.snd hs hf
  have hf1 : Formed f1.2 := hb.freshWord
  have hm : Formed m.2 := Formed.ite_of Prod.snd hb hf1
  exact hm

protected theorem Formed.setSlotKD {t i : Nat} {k d : Nat} (hs : Formed s) : Formed (setSlotKD s t i k d) := hs.setWacSt

protected theorem Formed.wacFlush {t k n : Nat} (hs : Formed s) : Formed (wacFlush s t k n) := hs.wb.inc.onWac.wacPump

protected theorem Formed.wacAdd {t k n : Nat} (hs : Formed s) : Formed (wacAdd s t k n) := by
  unfold wacAdd
  split
  · exact Formed.ite hs.setSlotKD hs.wacFlush
  · split
    · exact hs.setSlotKD
    · exact hs.wacFlush

protected theorem Formed.wacCount {t : Nat} {u w : Int} {n : Nat} (hs : Formed s) : Formed (wacCount s t u w n) :=
  Formed.ite hs.wacIndex.wacAdd.inc hs.wacIndex.wacAdd

protected theorem Formed.fourPoint {t f : Nat} {l : List Int} (hs : Formed s) : Formed (fourPoint t f l s).2 := by
  induction f generalizing s l with
  | zero => exact hs
  | succ f ih =>
    match l with
    | d :: c :: b :: a :: r =>
      unfold fourPoint
      split
      · exact ih hs.wacCount
      · exact hs
    | [] | [_] | [_, _] | [_, _, _] => exact hs

protected theorem Formed.setStack {t : Nat} {l : List Int} (hs : Formed s) : Formed (setStack s t l) :=
  (hs.foldl (fun _ _ h => h.setWacSt)).setCtl

protected theorem Formed.wacPush {t : Nat} {v : Int} (hs : Formed s) : Formed (wacPush s t v) :=
  ((Formed.ite_of Prod.snd hs.wacCount hs).fourPoint).setStack

protected theorem Formed.wacReversal {t : Nat} {x2 : Int} (hs : Formed s) : Formed (wacReversal s t x2) := by
  unfold wacReversal
  extract_lets _ _ _ setE _ _
  have hsetE : ∀ u0, Formed u0 → Formed (setE u0) := fun _ h => h.setWacSt
  split
  · refine Formed.ite ?_ ?_
    · exact (hsetE _ hs).setCtl
    · exact Formed.ite (hsetE _ hs.wacPush.setCtl) (Formed.ite (hsetE _ hs.wacPush.setCtl) hs)
  · exact Formed.ite (hsetE _ hs) (Formed.ite (hsetE _ hs.wacPush.setCtl) hs)
  · exact Formed.ite (hsetE _ hs) (Formed.ite (hsetE _ hs.wacPush.setCtl) hs)

protected theorem Formed.wacBeats {t : Nat} (hs : Formed s) : Formed (wacBeats s t) := hs.forN (fun _ _ h => h.beat)

protected theorem Formed.wacUpdate {t : Nat} {src : Option (Nat × Word)} {tr : Nat × Word} (hs : Formed s) :
    Formed (wacUpdate s t src tr) := by
  unfold wacUpdate
  extract_lets u q u1 _ u2 u3 u4 _ _ u5 _ u6
  have hu : Formed u := hs.wacReads.setCtl
  have hq : Formed q.2.2 := by
    unfold q
    split
    · exact hu
    · extract_lets _
      exact hu.setWacSt
    · exact hu.setCtl
    · exact hu.setCtl
  have hu1 : Formed u1 := hq
  have hu2 : Formed u2 := Formed.ite hu1.onWac hu1
  have hu3 : Formed u3 := Formed.ite hu2.wb.inc hu2
  have hu4 : Formed u4 := hu3.forN (fun _ _ h => h.wacPole)
  have hu5 : Formed u5 := hu4.setWacSt
  have hu6 : Formed u6 := Formed.ite hu5.wb.wf hu5
  exact hu6.wacReversal.wacBeats

protected theorem Formed.wacRun {f : Nat} (hs : Formed s) : Formed (wacRun f s) := by
  induction f generalizing s with
  | zero => exact hs
  | succ f ih =>
    unfold wacRun
    split
    · exact hs
    · refine Formed.ite hs.wf.onWac ?_
      split
      · exact Formed.ite (ih hs.onWac) hs.wacStart
      · split
        · exact ih hs.wacUpdate.onWac
        · exact hs

protected theorem Formed.execWacRound (hs : Formed s) : FormedOut (execWacRound s) := by
  unfold execWacRound
  extract_lets t t1
  have ht : Formed t := hs.wacCollect
  have ht1 : Formed t1 := ht.onWac
  exact FormedOut.ite (FormedOut.ite ht1.wb.inc.wacRun.ok ht1.onWac.wacRun.ok) (hs.onlyIf ht.wacRun)

protected theorem Formed.execWacCheckpoint (hs : Formed s) : FormedOut (execWacCheckpoint s) := hs.onlyIf hs.onWac.ckStart

protected theorem Formed.execWacCkpt {q : Req} (hs : Formed s) : FormedOut (execWacCkpt q s) :=
  FormedOut.ite hs.wacCmdWrite.ok hs.respond.ok

protected theorem Formed.execWacReset {q : Req} {t : Fin 16384} (hs : Formed s) : FormedOut (execWacReset q t s) :=
  FormedOut.ite hs.wacCmdWrite.ok hs.respond.ok

protected theorem Formed.resetEnd (hs : Formed s) : Formed (resetEnd s) := by
  unfold resetEnd
  split
  · exact Formed.ite ((Formed.ite hs.onWac.wb hs.onWac).resetBegin) hs
  · exact hs

protected theorem Formed.wacDrop (hs : Formed s) : Formed (wacDrop s) := hs.onWac.wacPump.resetEnd

protected theorem Formed.wacSecond {x1 : WacWrite} {d : PneDone} (hs : Formed s) : Formed (wacSecond s x1 d) := by
  unfold wacSecond
  extract_lets _ go
  have hgo : ∀ x0 x1, Formed (go x0 x1) := fun _ _ => hs.pneSubmit.onWac
  exact Formed.ite (Formed.ite (hgo _ _ ) hs.wacDrop) (Formed.ite (hgo _ _ ) (hgo _ _ ))

protected theorem Formed.wacFailed {x1 : WacWrite} (hs : Formed s) : Formed (wacFailed s x1) :=
  (Formed.ite hs.wb.onWac hs.wb).wacDrop

protected theorem Formed.wacWritten {x1 : WacWrite} {csn : Nat} (hs : Formed s) : Formed (wacWritten s x1 csn) := by
  unfold wacWritten
  split
  · exact hs.wacDrop
  · extract_lets _ u _
    have hu : Formed u := Formed.ite hs.setSlotKD hs
    exact hu.onWac.wacDrop

protected theorem Formed.execCounterWriteDone (hs : Formed s) : FormedOut (execCounterWriteDone s) := by
  unfold execCounterWriteDone
  split
  · extract_lets u
    have hu : Formed u := hs.onPne
    exact ((Formed.ite (Formed.ite hu.wacSecond hu.wacFailed) (Formed.ite hu.wacWritten hu.wacFailed)).ckClose).ok
  · exact hs.ok

protected theorem Formed.execRlkEnable {q : Req} {v : Word} (hs : Formed s) : FormedOut (execRlkEnable q v s) :=
  FormedOut.ite hs.rlkCtrlWrite.ok hs.respond.ok

protected theorem Formed.execRingEnable {q : Req} {k : Fin 4} {v : Word} (hs : Formed s) : FormedOut (execRingEnable q k v s) :=
  FormedOut.ite hs.ringWrite2.ok hs.respond.ok

protected theorem Formed.readInTime {l : List SendEnt} (hs : Formed s) : Formed (readInTime s l).2 := by
  induction l generalizing s with
  | nil => exact hs
  | cons e r ih => exact ih hs.freshBit

protected theorem Formed.lateItems {n : Nat} (hs : Formed s) : Formed (lateItems s n) := Formed.ite hs hs.wb.inc

protected theorem Formed.formFrame {k : Nat} {stamp : Word} {late : List (Fin 1024)} (hs : Formed s) :
    Formed (formFrame s k stamp late) := by
  unfold formFrame
  extract_lets r
  have hr : Formed r.2 := Formed.foldl_snd hs (fun _ _ h => ((Formed.ite_of Prod.snd h.readInTime h).setSend).lateItems)
  exact hr.onRlk

protected theorem Formed.execRlkCycleStart {late : List (Fin 1024)} (hs : Formed s) : FormedOut (execRlkCycleStart late s) :=
  FormedOut.ite hs.ok (((hs.onRlk.foldl (fun _ _ h => h.formFrame)).semFire).ok)

protected theorem Formed.queueReport {r : RlkReport} (hs : Formed s) : Formed (queueReport s r) :=
  Formed.ite hs (Formed.ite hs.onRlk hs.wb.inc)

protected theorem Formed.pneEchoed {u lidx : Nat} (hs : Formed s) : Formed (pneEchoed s u lidx) :=
  Formed.ite hs.setUnit.checkRestored hs

protected theorem Formed.itemEffect {u : Nat} {i : Word × Word} (hs : Formed s) : Formed (itemEffect s u i) := by
  unfold itemEffect
  extract_lets _ ent
  clear_value ent
  split
  · exact hs.queueReport
  · exact Formed.ite hs.setSend.pneEchoed hs
  · exact hs.setSend.wb
  · exact hs

protected theorem Formed.execUplinkSlot {k : Fin 4} {pos : BitVec 8} {ws : List Word} (hs : Formed s) :
    FormedOut (execUplinkSlot k pos ws s) := by
  unfold execUplinkSlot
  extract_lets _ _ t _ _
  have ht : Formed t := hs.onRlk
  refine FormedOut.ite ?_ ?_
  · exact hs.ok
  · exact FormedOut.ite ht.ok (FormedOut.ite ((ht.onRlk.foldl (fun _ _ h => h.itemEffect)).ok) ht.wb.inc.ok)

protected theorem Formed.execReportHandoff (hs : Formed s) : FormedOut (execReportHandoff s) := by
  unfold execReportHandoff
  split
  · exact hs.ok
  · exact FormedOut.ite hs.ok (((Formed.ite hs.onRlk.onMlk hs.onRlk).pneSubmit).ok)

protected theorem Formed.frameBad {k : Nat} (hs : Formed s) : Formed (frameBad s k) := hs.wb.onRlk

protected theorem Formed.execFrameReturn {k : Fin 4} {hdr : List Word} {ends aborted : Bool} (hs : Formed s) :
    FormedOut (execFrameReturn k hdr ends aborted s) := by
  unfold execFrameReturn
  extract_lets _ t _ _
  have ht : Formed t := hs.onRlk
  exact FormedOut.ite hs.ok (FormedOut.ite ht.frameBad.ok (FormedOut.ite ht.onRlk.wf.ok ht.ok))

protected theorem Formed.ringEndCheck {k : Nat} (hs : Formed s) : Formed (ringEndCheck s k) :=
  Formed.ite hs (Formed.ite hs.inc.wb (Formed.ite hs.inc hs.inc.wb))

protected theorem Formed.ustsEnd {u : Nat} (hs : Formed s) : Formed (ustsEnd s u) := by
  unfold ustsEnd
  extract_lets _
  split
  · extract_lets t
    have ht : Formed t := hs.wf.wb.wf
    exact ht.wf.wf
  · exact hs.inc.wb

protected theorem Formed.retransmit (hs : Formed s) : Formed (retransmit s) := Formed.ite hs.setSend hs.setSend.inc

protected theorem Formed.peerCount {ups : List Uplink} (hs : Formed s) : Formed (peerCount s ups) :=
  (Formed.ite hs.onRlk.wf.inc hs.onRlk.wf.wf).wb

protected theorem Formed.quorumCount {ups : List Uplink} (hs : Formed s) : Formed (quorumCount s ups) :=
  hs.wf.wf.quorumSync.wf.onRlk

protected theorem Formed.restoreCycle {u : Nat} (hs : Formed s) : Formed (restoreCycle s u) := Formed.ite hs.setUnit hs

protected theorem Formed.unitReport {u : Nat} {r : Option (Nat × Nat)} (hs : Formed s) : Formed (unitReport s u r) := by
  unfold unitReport
  extract_lets _ t t1
  have ht : Formed t := hs.setUnit
  have ht1 : Formed t1 := hs.setUnit
  split
  · extract_lets t2
    have ht2 : Formed t2 := ht.wf.wf
    exact ht2.setOstate
  · exact Formed.ite ht1.setOstate ht1

protected theorem Formed.evalUnit {u : Nat} (hs : Formed s) : Formed (evalUnit s u) := Formed.ite hs.setUnit.setUstate hs

protected theorem Formed.pneCycleEnd {rs : List (Nat × Option (Nat × Nat))} (hs : Formed s) : Formed (pneCycleEnd s rs) := by
  unfold pneCycleEnd
  refine Formed.ite ?_ ?_
  · extract_lets t t1
    have ht : Formed t := hs.foldl (fun _ _ h => h.restoreCycle)
    have ht1 : Formed t1 := ht.foldl (fun _ _ h => h.unitReport)
    exact ht1.foldl (fun _ _ h => h.evalUnit)
  · exact hs

protected theorem Formed.dropIdle (hs : Formed s) : Formed (dropIdle s) := hs.setSend

protected theorem Formed.roleCycle (hs : Formed s) : Formed (roleCycle s) := hs.onMlk

protected theorem Formed.msNote (hs : Formed s) : Formed (msNote s) := hs.onMlk

protected theorem Formed.enterClaiming (hs : Formed s) : Formed (enterClaiming s) := Formed.ite hs.wb hs.enterRole.epochWrite

protected theorem Formed.claimFailed (hs : Formed s) : Formed (claimFailed s) := hs.enterRole.epochWrite.wb

protected theorem Formed.roleStep {ce : Bool} (hs : Formed s) : Formed (roleStep s ce) := by
  unfold roleStep
  extract_lets _ flag _
  have hflag : ∀ u0 x1, Formed u0 → Formed (flag u0 x1) := fun _ _ h => h.wb
  split
  · exact Formed.ite hs.enterRole (Formed.ite (hflag _ _ hs.enterRole) (Formed.ite hs.enterClaiming hs))
  · refine Formed.ite ?_ ?_
    · exact Formed.ite (hflag _ _ hs.enterClaiming) hs.enterClaiming
    · exact Formed.ite (hflag _ _ hs.enterRole) (Formed.ite (hflag _ _ hs.enterRole) (Formed.ite hs.enterRole hs))
  · refine Formed.ite ?_ ?_
    · exact Formed.ite (hflag _ _ hs.enterClaiming) hs.enterClaiming
    · exact Formed.ite (hflag _ _ hs.enterRole) (Formed.ite hs.enterRole hs)
  · exact Formed.ite hs.enterRole (Formed.ite hs.enterRole (Formed.ite hs.enterClaiming hs))
  · exact Formed.ite (hflag _ _ hs.enterRole) (Formed.ite hs.claimFailed hs)
  · exact Formed.ite (hflag _ _ hs.enterRole) hs
  · exact hs

protected theorem Formed.startResync (hs : Formed s) : Formed (startResync s) := hs.wb.wf.inc.onJne.onMlk

protected theorem Formed.mirrorEval (hs : Formed s) : Formed (mirrorEval s) := by
  unfold mirrorEval
  refine Formed.ite ?_ ?_
  · exact hs.mirrorStale
  · exact Formed.ite hs (Formed.ite (Formed.ite hs.resyncOff hs) (Formed.ite hs.startResync hs))

protected theorem Formed.roleEval {ce : Bool} (hs : Formed s) : Formed (roleEval s ce) := by
  unfold roleEval
  exact Formed.ite hs.roleOff ((Formed.ite hs.onMlk.msNote.wb.enterRole hs.onMlk.msNote.wb.roleStep).mirrorEval)

protected theorem Formed.cycleEnd (hs : Formed s) : Formed (cycleEnd s) := by
  unfold cycleEnd
  extract_lets t _ _ t1 t2 t3 t4
  have ht : Formed t := hs.foldl (fun _ _ h => h.ringEndCheck)
  have ht1 : Formed t1 := ht.foldl (fun _ _ h => h.ustsEnd)
  have ht2 : Formed t2 := ht1.retransmit.peerCount.quorumCount
  have ht3 : Formed t3 := Formed.ite ht2.pneCycleEnd ht2
  have ht4 : Formed t4 := ht3.dropIdle.onRlk
  exact Formed.ite ht4.roleCycle.roleEval ht4

protected theorem Formed.execRlkCycleEnd (hs : Formed s) : FormedOut (execRlkCycleEnd s) := by
  unfold execRlkCycleEnd
  split
  · exact hs.onlyIf hs.cycleEnd
  · exact hs.ok

protected theorem Formed.execLockLost {l : Fin 6} (hs : Formed s) : FormedOut (execLockLost l s) := by
  unfold execLockLost
  extract_lets _ t t1
  have ht : Formed t := hs.wb.wb
  have ht1 : Formed t1 := ht.wb
  exact FormedOut.ite ((Formed.ite (Formed.ite ht1.frameBad ht1) ht1.wb).ok) hs.ok

protected theorem Formed.setLaneBer {l : Nat} {b : Nat × Nat} (hs : Formed s) : Formed (setLaneBer s l b) :=
  Formed.ite hs.onRlk hs.onMlk

protected theorem Formed.berRoll {l : Nat} (hs : Formed s) : Formed (berRoll s l) :=
  Formed.ite hs ((Formed.ite hs.wb hs).setLaneBer)

protected theorem Formed.execHiber {l : Fin 6} {n : BitVec 16} (hs : Formed s) : FormedOut (execHiber l n s) := by
  unfold execHiber
  extract_lets _ t t1 _ u
  have ht : Formed t := hs.inc
  have ht1 : Formed t1 := ht.berRoll
  have hu : Formed u := ht1.setLaneBer
  exact FormedOut.ite ((Formed.ite ht1 (Formed.ite hu.wb hu)).ok) hs.ok

protected theorem Formed.execMlkEnable {q : Req} {v : Word} (hs : Formed s) : FormedOut (execMlkEnable q v s) :=
  FormedOut.ite hs.mlkCtrlWrite.ok hs.respond.ok

protected theorem Formed.execMlkArmedWrite {q : Req} {v : Word} (hs : Formed s) : FormedOut (execMlkArmedWrite q v s) :=
  FormedOut.ite hs.mlkCtrlWrite.ok hs.respond.ok

protected theorem Formed.lastCrc (hs : Formed s) : Formed (lastCrc s).2 := by
  unfold lastCrc
  refine Formed.ite_of Prod.snd ?_ ?_
  · exact hs
  · split
    · exact hs
    · exact hs.freshWord

protected theorem Formed.mlkSend {lane type : Nat} {body : List Word} (hs : Formed s) : Formed (mlkSend s lane type body) :=
  hs.onMlk

protected theorem Formed.imageFrame (hs : Formed s) : Formed (imageFrame s) := Formed.ite hs.mlkSend hs.mlkSend.inc

protected theorem Formed.intervalStart (hs : Formed s) : Formed (intervalStart s) := by
  unfold intervalStart
  extract_lets t t1 t2 t3 c t4
  have ht : Formed t := Formed.ite hs.wf hs.inc
  have ht1 : Formed t1 := ht.onMlk
  have ht2 : Formed t2 := ht1.semFire
  have ht3 : Formed t3 := Formed.ite ht2 ht2.roleEval
  have hc : Formed c.2 := ht3.lastCrc
  have ht4 : Formed t4 := hc.mlkSend
  exact Formed.ite ht3 (Formed.ite ht4.imageFrame ht4)

protected theorem Formed.execMirrorIntervalStart (hs : Formed s) : FormedOut (execMirrorIntervalStart s) :=
  hs.onlyIf (Formed.ite hs.intervalStart hs.onMlk)

protected theorem Formed.resyncAgain (hs : Formed s) : Formed (resyncAgain s) :=
  Formed.ite hs.resyncOff.mirrorEval hs.mirrorStale

protected theorem Formed.heartbeat {b : List Word} (hs : Formed s) : Formed (heartbeat s b) :=
  Formed.ite hs.wr.wf.wf.wb.wb.onMlk.resyncAgain hs.wr.wf.wf.wb.wb.onMlk

protected theorem Formed.mlkRecv {type : Nat} {ws : List Word} {f : State → List Word → State} (hs : Formed s)
    (hf : ∀ u0 x1, Formed u0 → Formed (f u0 x1)) :
    Formed (mlkRecv s type ws f) :=
  Formed.ite hs (Formed.ite hs.inc (Formed.ite hs (hf _ _ hs)))

protected theorem Formed.execHeartbeat {ws : List Word} (hs : Formed s) : FormedOut (execHeartbeat ws s) :=
  (hs.mlkRecv (fun _ _ h => h.heartbeat)).ok

protected theorem Formed.mlkStore {otype a : Nat} {v : Word} (hs : Formed s) : Formed (mlkStore s otype a v).2 := by
  unfold mlkStore
  split
  · exact hs.hmpReq
  · exact hs.hmpReq
  · exact hs.icWrite

protected theorem Formed.mlkStoreList {a : Nat} {l : List Word} (hs : Formed s) : Formed (mlkStoreList s a l) := by
  induction l generalizing s a with
  | nil => exact hs
  | cons x r ih => exact ih hs.mlkStore

protected theorem Formed.imageTake {n ns : Nat} {ws : List Word} (hs : Formed s) : Formed (imageTake s n ns ws) :=
  Formed.ite hs.mlkStoreList.mlkStoreList.onMlk.setRxImg hs.mlkStoreList.mlkStoreList.onMlk

protected theorem Formed.imageEntries {f : Nat} {l : List Word} (hs : Formed s) : Formed (imageEntries f s l) := by
  induction f generalizing s l with
  | zero => exact hs
  | succ f ih =>
    cases l with
    | nil => exact hs
    | cons d r => exact Formed.ite hs (ih hs.imageTake)

protected theorem Formed.onStandby {f : State → List Word → State} {b : List Word} (hs : Formed s)
    (hf : ∀ u0 x1, Formed u0 → Formed (f u0 x1)) :
    Formed (onStandby f s b) :=
  Formed.ite hs (hf _ _ hs)

protected theorem Formed.execImage {ws : List Word} (hs : Formed s) : FormedOut (execImage ws s) :=
  (hs.mlkRecv (fun _ _ h => (h.onStandby (fun _ _ h1 => h1.imageEntries)))).ok

protected theorem Formed.commitTake {b : List Word} (hs : Formed s) : Formed (commitTake s b) :=
  Formed.ite hs.onJne.onMlk hs.onMlk

protected theorem Formed.execCommit {ws : List Word} (hs : Formed s) : FormedOut (execCommit ws s) :=
  (hs.mlkRecv (fun _ _ h => (h.onStandby (fun _ _ h1 => h1.commitTake)))).ok

protected theorem Formed.mirrorLive (hs : Formed s) : Formed (mirrorLive s) :=
  Formed.ite hs.resyncOff.onMlk.setLive.ownRecord hs

protected theorem Formed.ackTake {b : List Word} (hs : Formed s) : Formed (ackTake s b) :=
  Formed.ite hs ((Formed.ite hs.onMlk.onJne.onJne hs.onMlk.onJne).mirrorLive)

protected theorem Formed.execAck {ws : List Word} (hs : Formed s) : FormedOut (execAck ws s) :=
  (hs.mlkRecv (fun _ _ h => h.ackTake)).ok

protected theorem Formed.execReport {ws : List Word} (hs : Formed s) : FormedOut (execReport ws s) := by
  unfold execReport
  exact (hs.mlkRecv (fun _ _ h => (h.onStandby (fun _ _ h1 => (h1.foldl (fun _ _ h1 => h1.pneSubmit)))))).ok

protected theorem Formed.rxBegin {gen : Nat} (hs : Formed s) : Formed (rxBegin s gen) := Formed.ite hs hs.onMlk.wb

protected theorem Formed.bulkTake {b : List Word} (hs : Formed s) : Formed (bulkTake s b) :=
  Formed.ite hs.rxBegin hs.rxBegin.onMlk.mlkStoreList

protected theorem Formed.execBulk {ws : List Word} (hs : Formed s) : FormedOut (execBulk ws s) :=
  (hs.mlkRecv (fun _ _ h => (h.onStandby (fun _ _ h1 => h1.bulkTake)))).ok

protected theorem Formed.genFlip {d : MlkDone} (hs : Formed s) : Formed (genFlip s d) := hs.wf.wb.wb.wb.onMlk

protected theorem Formed.bulkEnd {b : List Word} (hs : Formed s) : Formed (bulkEnd s b) :=
  Formed.ite (Formed.ite hs.rxBegin.onMlk.wb.onMlk hs.rxBegin.onMlk.wb.genFlip) hs.rxBegin

protected theorem Formed.execBulkend {ws : List Word} (hs : Formed s) : FormedOut (execBulkend ws s) :=
  (hs.mlkRecv (fun _ _ h => (h.onStandby (fun _ _ h1 => h1.bulkEnd)))).ok

protected theorem Formed.execGenInstallDone (hs : Formed s) : FormedOut (execGenInstallDone s) := by
  unfold execGenInstallDone
  refine FormedOut.ite ?_ ?_
  · extract_lets t
    have ht : Formed t := hs.wb
    split
    · exact ht.onMlk.genFlip.ok
    · exact ht.ok
  · exact hs.ok

protected theorem Formed.resyncBegin {c0 : Nat} (hs : Formed s) : Formed (resyncBegin s c0) := by
  unfold resyncBegin
  refine Formed.ite ?_ ?_
  · exact hs.onMlk
  · extract_lets t t1 t2 t3 t4 t5
    have ht : Formed t := hs.cmdEnd.dropBursts.onJne
    have ht1 : Formed t1 := ht.wf.wf
    have ht2 : Formed t2 := ht1.setU.percsnSync
    have ht3 : Formed t3 := Formed.ite ht2.wb ht2
    have ht4 : Formed t4 := ht3.pushOps
    have ht5 : Formed t5 := ht4.wb.wf
    exact ht5.onMlk.jneRun

protected theorem Formed.execRstart {ws : List Word} (hs : Formed s) : FormedOut (execRstart ws s) :=
  (hs.mlkRecv (fun _ _ h => (h.onStandby (fun _ _ h1 => h1.resyncBegin)))).ok

protected theorem Formed.mlkHostWrite {a : Nat} {ws : List Word} (hs : Formed s) : Formed (mlkHostWrite s a ws) :=
  Formed.foldl_snd hs (fun _ _ h => h.hmpReq)

protected theorem Formed.pageTake {b : List Word} (hs : Formed s) : Formed (pageTake s b) :=
  Formed.ite hs (Formed.ite hs.onMlk.mlkHostWrite hs.onMlk)

protected theorem Formed.execImgpage {ws : List Word} (hs : Formed s) : FormedOut (execImgpage ws s) :=
  (hs.mlkRecv (fun _ _ h => (h.onStandby (fun _ _ h1 => h1.pageTake)))).ok

protected theorem Formed.resyncEnd {b : List Word} (hs : Formed s) : Formed (resyncEnd s b) :=
  Formed.ite hs (Formed.ite hs.onJne.wb.jneRun hs.onMlk)

protected theorem Formed.execRsdone {ws : List Word} (hs : Formed s) : FormedOut (execRsdone ws s) :=
  (hs.mlkRecv (fun _ _ h => (h.onStandby (fun _ _ h1 => h1.resyncEnd)))).ok

protected theorem Formed.execBcStart {q : Req} {elig : Bool} (hs : Formed s) : FormedOut (execBcStart q elig s) :=
  FormedOut.ite hs.bccmdWrite.ok hs.respond.ok

protected theorem Formed.execBcAbort {q : Req} {elig : Bool} (hs : Formed s) : FormedOut (execBcAbort q elig s) :=
  FormedOut.ite hs.bccmdWrite.ok hs.respond.ok

protected theorem Formed.execAckTimeout (hs : Formed s) : FormedOut (execAckTimeout s) := hs.onlyIf hs.mirrorStale.onMlk

protected theorem Formed.execCptAlloc {q : Req} {r : Fin 12} (hs : Formed s) : FormedOut (execCptAlloc q r s) := by
  unfold execCptAlloc
  refine FormedOut.ite ?_ ?_
  · exact hs.respond.ok
  · split
    next t heq => exact (Formed.of_some hs.cptAllocRead heq).ok
    · exact hs.respond.ok

protected theorem Formed.execCptSubmit {q : Req} {r : Fin 12} {b : Fin 64} (hs : Formed s) : FormedOut (execCptSubmit q r b s) :=
  FormedOut.ite hs.cptSubmitWrite.ok hs.respond.ok

protected theorem Formed.execCptFree {q : Req} {r : Fin 12} {b : Fin 64} (hs : Formed s) : FormedOut (execCptFree q r b s) :=
  FormedOut.ite hs.cptFreeWrite.ok hs.respond.ok

protected theorem Formed.execCptHdb {q : Req} {a : BitVec 40} (hs : Formed s) : FormedOut (execCptHdb q a s) :=
  FormedOut.ite hs.doorbellWrite.ok hs.respond.ok

protected theorem Formed.execCptPdb {q : Req} {a : BitVec 40} (hs : Formed s) : FormedOut (execCptPdb q a s) :=
  FormedOut.ite hs.doorbellWrite.ok hs.respond.ok

protected theorem Formed.ownStoreList {a port : Nat} {l : List Word} (hs : Formed s) : Formed (ownStoreList s a port l) := by
  induction l generalizing s a with
  | nil => exact hs
  | cons x r ih => exact ih hs.ownStore

protected theorem Formed.bufStoreList {b i : Nat} {ws : List Word} (hs : Formed s) : Formed (bufStoreList s b i ws) :=
  hs.ownStoreList

protected theorem Formed.fetchNext {f : CptFetch} (hs : Formed s) : Formed (fetchNext s f) := hs.hmpReq

protected theorem Formed.execCptPacketFetch (hs : Formed s) : FormedOut (execCptPacketFetch s) := by
  unfold execCptPacketFetch
  split
  · exact hs.ok
  next x t heq =>
    split
    · exact (Formed.of_mem hs.hmpTake heq).ok
    · extract_lets drop _ _ t1 _ _ _ _
      have hdrop : ∀ u0, Formed u0 → Formed (drop u0) := fun _ h => h.onCpt
      have ht1 : Formed t1 := (Formed.of_mem hs.hmpTake heq).bufStoreList
      refine FormedOut.ite ?_ ?_
      · exact (((hdrop _ (Formed.of_mem hs.hmpTake heq)).setBuf).cptFinish).ok
      · exact FormedOut.ite (((hdrop _ ht1).cptSubmitBuf).ok) ht1.onCpt.fetchNext.ok

protected theorem Formed.noticeStart (hs : Formed s) : Formed (noticeStart s) := by
  unfold noticeStart
  split
  · exact Formed.ite hs.onCpt.copyStart hs
  · exact hs

protected theorem Formed.copyEnd {b : Nat} (hs : Formed s) : Formed (copyEnd s b) := Formed.ite hs.onCpt hs.onCpt.setBufState

protected theorem Formed.execCptReplyCopy (hs : Formed s) : FormedOut (execCptReplyCopy s) := by
  unfold execCptReplyCopy
  split
  · exact hs.ok
  next x t heq =>
    refine FormedOut.ite ?_ ?_
    · split
      · refine FormedOut.ite ?_ ?_
        · exact (((Formed.of_mem hs.hmpTake heq).onCpt).noticeStart).ok
        · exact (((Formed.of_mem hs.hmpTake heq).onCpt).hmpReq).ok
      · exact (Formed.of_mem hs.hmpTake heq).ok
    · split
      · exact (Formed.of_mem hs.hmpTake heq).ok
      · extract_lets _ _ u
        have hu : Formed u := (Formed.of_mem hs.hmpTake heq).onCpt
        exact FormedOut.ite ((((Formed.of_mem hs.hmpTake heq).hmpDrop).copyEnd).ok) ((Formed.ite hu.hmpReq hu).ok)

protected theorem Formed.execCptTake {q : Req} {b : Fin 64} (hs : Formed s) : FormedOut (execCptTake q b s) :=
  FormedOut.ite hs.cptTakeWrite.ok hs.respond.ok

protected theorem Formed.execCptReply {q : Req} {b : Fin 64} {status : BitVec 4} {detail len : BitVec 8} (hs : Formed s) :
    FormedOut (execCptReply q b status detail len s) :=
  FormedOut.ite hs.cptReplyWrite.ok hs.respond.ok

protected theorem Formed.execCptDeadline {b : Fin 64} (hs : Formed s) : FormedOut (execCptDeadline b s) :=
  hs.onlyIf hs.cptTimeout

protected theorem Formed.evLost (hs : Formed s) : Formed (evLost s) := hs.wb.inc.unitStrobe.onCpt

protected theorem Formed.evWrite {e : CptEvent} (hs : Formed s) : Formed (evWrite s e) := hs.onCpt.hmpReq

protected theorem Formed.evStart {f : Nat} (hs : Formed s) : Formed (evStart f s) := by
  induction f generalizing s with
  | zero => exact hs
  | succ f ih =>
    unfold evStart
    refine Formed.ite hs ?_
    split
    · exact hs
    · exact Formed.ite (ih hs.onCpt.evLost) (Formed.ite hs.onCpt.evWrite hs.onCpt.evWrite)

protected theorem Formed.execEventRingWrite (hs : Formed s) : FormedOut (execEventRingWrite s) := by
  unfold execEventRingWrite
  split
  next x t e heq _ =>
    extract_lets _ t1 t2
    have ht1 : Formed t1 := (Formed.of_mem hs.hmpTake heq).wf
    have ht2 : Formed t2 := Formed.ite ht1.hmpReq ht1
    refine FormedOut.ite ?_ ?_
    · exact ((Formed.of_mem hs.hmpTake heq).hmpReq).ok
    · exact FormedOut.ite ((((Formed.of_mem hs.hmpTake heq).onCpt).hmpReq).ok) ht2.onCpt.evStart.ok
  · exact (Formed.ite hs.evStart hs).ok

protected theorem Formed.setRun {r : CptRun} (hs : Formed s) : Formed (setRun s r) := hs.onCpt

protected theorem Formed.itemDone {r : CptRun} {ws : List Word} {good : Bool} (hs : Formed s) : Formed (itemDone s r ws good) :=
  hs.setRun

protected theorem Formed.runPointDone {r : CptRun} {d : PneDone} (hs : Formed s) : Formed (runPointDone s r d) :=
  Formed.ite hs.onPne.itemDone hs.onPne.itemDone

protected theorem Formed.runEnd {r : CptRun} {status detail : Nat} {ws : List Word} (hs : Formed s) :
    Formed (runEnd s r status detail ws) :=
  hs.bufStoreList.onCpt.cptReplyBuf

protected theorem Formed.runRecordDone {r : CptRun} {d : Nat × Nat × Nat} (hs : Formed s) : Formed (runRecordDone s r d) :=
  Formed.ite hs.onJne.runEnd hs.onJne.runEnd

protected theorem Formed.runRecord {r : CptRun} {kind : Nat} {body : List Word} (hs : Formed s) :
    Formed (runRecord s r kind body) :=
  hs.setRun.onCpt.raiseRec

protected theorem Formed.timeSetDone {r : CptRun} (hs : Formed s) : Formed (timeSetDone s r) :=
  Formed.ite hs.runRecord hs.runEnd

protected theorem Formed.svRead {a : Nat} (hs : Formed s) : Formed (svRead s a).2 := hs.regRead.mk

protected theorem Formed.svReadList {l : List Nat} (hs : Formed s) : Formed (svReadList s l).2 := by
  induction l generalizing s with
  | nil => exact hs
  | cons a r ih => exact ih hs.svRead

protected theorem Formed.runTimeGet {r : CptRun} (hs : Formed s) : Formed (runTimeGet s r) := hs.jtsecRead.runEnd

protected theorem Formed.runTimeSet {r : CptRun} (hs : Formed s) : Formed (runTimeSet s r) :=
  Formed.ite hs.jtnsWrite.jtsecWrite.runEnd hs.jtnsWrite.jtsecWrite.setRun

protected theorem Formed.runAppend {r : CptRun} (hs : Formed s) : Formed (runAppend s r) := Formed.ite hs.runEnd hs.runRecord

protected theorem Formed.runSingle {r : CptRun} (hs : Formed s) : Formed (runSingle s r) := by
  unfold runSingle
  extract_lets regs
  have hregs : ∀ l f, Formed (regs l f) := by
    intro l f
    unfold regs
    extract_lets x
    have hx : Formed x.2 := hs.svReadList
    exact Formed.ite hx.runEnd hx.runEnd
  clear_value regs
  split
  · exact hs.runEnd
  · exact hregs _ _
  · exact hs.runTimeGet
  · exact hs.runTimeSet
  · exact hregs _ _
  · exact hs.runAppend
  · exact hregs _ _
  · exact hs.runEnd

protected theorem Formed.svWrite {a : Nat} {v : Word} (hs : Formed s) : Formed (svWrite s a v).2 := hs.regWrite.mk

protected theorem Formed.runPoint {r : CptRun} {kind n : Nat} {v aux : Word} (hs : Formed s) :
    Formed (runPoint s r kind n v aux) :=
  Formed.ite hs.setRun.onCpt.pneSubmit hs.setRun.onCpt.pneReport

protected theorem Formed.runItem {r : CptRun} (hs : Formed s) : Formed (runItem s r) := by
  unfold runItem
  extract_lets _ _ _ _ x _ x1 x2
  have hx : Formed x.2 := hs.svReadList
  have hx1 : Formed x1.2 := hs.svRead
  have hx2 : Formed x2.2 := hs.svWrite
  split
  · exact hs.runPoint
  · exact hs.runPoint
  · exact hs.runPoint
  · exact hs.runPoint
  · exact hs.runPoint
  · exact hs.runPoint
  · exact hs.runPoint
  · exact hx.itemDone
  · exact Formed.ite hx1.itemDone hs.itemDone
  · exact Formed.ite hx2.itemDone hs.itemDone
  · exact hs

protected theorem Formed.runStep (hs : Formed s) : ∀ t ∈ runStep s, Formed t := by
  unfold runStep
  split
  · exact mem_none_all
  · extract_lets _
    split
    · split
      · exact mem_some_all hs.runPointDone
      · exact mem_some_all hs.runRecordDone
      · exact mem_none_all
    · split
      · split
        · exact mem_none_all
        · exact mem_some_all hs.timeSetDone
      · split
        · exact mem_some_all hs.runSingle
        · split
          · exact mem_some_all hs.runItem
          · exact mem_some_all hs.runEnd

protected theorem Formed.runAll {f : Nat} (hs : Formed s) : Formed (runAll f s) := by
  induction f generalizing s with
  | zero => exact hs
  | succ f ih =>
    unfold runAll
    split
    next t heq => exact ih (hs.runStep t heq)
    · exact hs

protected theorem Formed.interpret {opc : Nat} (hs : Formed s) : Formed (interpret s opc) := by
  unfold interpret
  refine Formed.ite ?_ ?_
  · exact hs
  · extract_lets go
    have hgo : ∀ u0 x1, Formed u0 → Formed (go u0 x1) := fun _ _ h => h.bufChecks.setRun.runAll
    split
    · exact Formed.ite (hgo _ _ hs) hs
    · split
      · exact Formed.ite (hgo _ _ hs.unqueue.setBufState) hs
      · exact hs

protected theorem Formed.execCptNop (hs : Formed s) : FormedOut (execCptNop s) := hs.interpret.ok

protected theorem Formed.execVersion (hs : Formed s) : FormedOut (execVersion s) := hs.interpret.ok

protected theorem Formed.execPtRead (hs : Formed s) : FormedOut (execPtRead s) := hs.interpret.ok

protected theorem Formed.execPtWrite (hs : Formed s) : FormedOut (execPtWrite s) := hs.interpret.ok

protected theorem Formed.execPtDefine (hs : Formed s) : FormedOut (execPtDefine s) := hs.interpret.ok

protected theorem Formed.execPtDelete (hs : Formed s) : FormedOut (execPtDelete s) := hs.interpret.ok

protected theorem Formed.execPtPin (hs : Formed s) : FormedOut (execPtPin s) := hs.interpret.ok

protected theorem Formed.execPtUnpin (hs : Formed s) : FormedOut (execPtUnpin s) := hs.interpret.ok

protected theorem Formed.execUnitDeclare (hs : Formed s) : FormedOut (execUnitDeclare s) := hs.interpret.ok

protected theorem Formed.execUnitRead (hs : Formed s) : FormedOut (execUnitRead s) := hs.interpret.ok

protected theorem Formed.execTimeGet (hs : Formed s) : FormedOut (execTimeGet s) := hs.interpret.ok

protected theorem Formed.execTimeSet (hs : Formed s) : FormedOut (execTimeSet s) := hs.interpret.ok

protected theorem Formed.execJnlStatus (hs : Formed s) : FormedOut (execJnlStatus s) := hs.interpret.ok

protected theorem Formed.execJnlAppend (hs : Formed s) : FormedOut (execJnlAppend s) := hs.interpret.ok

protected theorem Formed.execRoleGet (hs : Formed s) : FormedOut (execRoleGet s) := hs.interpret.ok

protected theorem Formed.execRegRead (hs : Formed s) : FormedOut (execRegRead s) := hs.interpret.ok

protected theorem Formed.execRegWrite (hs : Formed s) : FormedOut (execRegWrite s) := hs.interpret.ok

protected theorem Formed.bootUp (hs : Formed s) : Formed (bootUp s) :=
  hs.onPctl.foldl (fun _ _ h => (Formed.ite h.setPdState (Formed.ite h.setPdRun h)))

protected theorem Formed.execPllLock (hs : Formed s) : FormedOut (execPllLock s) := by
  unfold execPllLock
  exact FormedOut.ite hs.ok (FormedOut.ite hs.mk.bootUp.ok (FormedOut.ite hs.mk.onPctl.warmCause.ok hs.ok))

protected theorem Formed.execPllLockTimeout (hs : Formed s) : FormedOut (execPllLockTimeout s) := hs.onlyIf hs.wb.inc

protected theorem Formed.clocksStop (hs : Formed s) : Formed (clocksStop s) := hs.mk

protected theorem Formed.tripBypass (hs : Formed s) : Formed (tripBypass s) := hs.foldl (fun _ _ h => h.tripCount)

protected theorem Formed.execLossOfLock (hs : Formed s) : FormedOut (execLossOfLock s) :=
  hs.onlyIf hs.clocksStop.onPctl.wb.tripBypass.safeSync

protected theorem Formed.execPdOn {q : Req} {d : Fin 56} (hs : Formed s) : FormedOut (execPdOn q d s) := hs.pdWrite.ok

protected theorem Formed.execPdRetain {q : Req} {d : Fin 56} (hs : Formed s) : FormedOut (execPdRetain q d s) := hs.pdWrite.ok

protected theorem Formed.execPdOff {q : Req} {d : Fin 56} (hs : Formed s) : FormedOut (execPdOff q d s) := hs.pdWrite.ok

protected theorem Formed.execPdReset {q : Req} {d : Fin 56} (hs : Formed s) : FormedOut (execPdReset q d s) := hs.pdWrite.ok

protected theorem Formed.execPdHold {q : Req} {d : Fin 56} (hs : Formed s) : FormedOut (execPdHold q d s) := hs.pdWrite.ok

protected theorem Formed.execPdFreset {q : Req} {d : Fin 56} (hs : Formed s) : FormedOut (execPdFreset q d s) := hs.pdWrite.ok

protected theorem Formed.execPdFoff {q : Req} {d : Fin 56} (hs : Formed s) : FormedOut (execPdFoff q d s) := hs.pdWrite.ok

protected theorem Formed.pdUp {d : Nat} (hs : Formed s) : Formed (pdUp s d) := hs.setPdState.pdComplete

protected theorem Formed.pdClock {d : Nat} (hs : Formed s) : Formed (pdClock s d) := Formed.ite hs.arraysClear.mk.setPdRun hs.pdUp

protected theorem Formed.execPdackRise {d : Fin 56} (hs : Formed s) : FormedOut (execPdackRise d s) :=
  hs.onlyIf (Formed.ite hs.wb (Formed.ite hs.wb.setPdRun.powerDown hs.wb.setPdRun.pdClock))

protected theorem Formed.pdGone {d : Nat} (hs : Formed s) : Formed (pdGone s d) := hs.setPdState.pdComplete

protected theorem Formed.execPdackFall {d : Fin 56} (hs : Formed s) : FormedOut (execPdackFall d s) :=
  hs.onlyIf (Formed.ite hs.wb.pdGone hs.wb)

protected theorem Formed.pdFault {d : Nat} (hs : Formed s) : Formed (pdFault s d) := hs.wb.wb

protected theorem Formed.opFails {d : Nat} (hs : Formed s) : Formed (opFails s d) := Formed.ite hs hs.setPdRun

protected theorem Formed.execPdackTimeout {d : Fin 56} (hs : Formed s) : FormedOut (execPdackTimeout d s) :=
  FormedOut.ite hs.pdFault.opFails.powerDown.ok (FormedOut.ite hs.pdFault.setPdRun.ok hs.ok)

protected theorem Formed.pdTake {d : Nat} (hs : Formed s) : Formed (pdTake s d) := hs.forcedOutcome.opFails.powerDown

protected theorem Formed.pdForceOff {d : Nat} (hs : Formed s) : Formed (pdForceOff s d) :=
  Formed.ite hs (Formed.ite ((Formed.ite hs.pdFence hs).setPdRun) hs.pdTake)

protected theorem Formed.execSupplyFault {d : Fin 56} (hs : Formed s) : FormedOut (execSupplyFault d s) :=
  hs.onlyIf (hs.wb.pdFault.pdForceOff.foldl (fun _ _ h => h.pdForceOff))

protected theorem Formed.execDrainComplete {d : Fin 56} (hs : Formed s) : FormedOut (execDrainComplete d s) :=
  hs.onlyIf hs.pdPerform

protected theorem Formed.execDrainTimeout {d : Fin 56} (hs : Formed s) : FormedOut (execDrainTimeout d s) :=
  hs.onlyIf hs.wb.wb.pdForce

protected theorem Formed.execCoreRun {q : Req} {k : Fin 10} {rootok lockact : Bool} (hs : Formed s) :
    FormedOut (execCoreRun q k rootok lockact s) :=
  hs.corectlWrite.ok

protected theorem Formed.execPowerOnReset (hs : Formed s) : FormedOut (execPowerOnReset s) := hs.onlyIf hs.onPctl.driveSync

protected theorem Formed.execSysrst (hs : Formed s) : FormedOut (execSysrst s) := hs.onlyIf hs.onPctl.warmCause

protected theorem Formed.execSwrst {q : Req} (hs : Formed s) : FormedOut (execSwrst q s) := hs.pctlCtrlWrite.ok

protected theorem Formed.seqEnd (hs : Formed s) : Formed (seqEnd s) := by
  unfold seqEnd
  extract_lets t
  have ht : Formed t := hs.onPctl
  split
  · exact ht.warmCause
  · exact ht.driveSync

protected theorem Formed.fillWords {a : Nat} {ws : List Word} (hs : Formed s) : Formed (fillWords s a ws) :=
  hs.foldl (fun _ _ h => h.storeFresh.memWr.tagWr)

protected theorem Formed.execBootFill (hs : Formed s) : FormedOut (execBootFill s) :=
  hs.onlyIf (Formed.ite hs.wf.wf.seqEnd hs.wf.fillWords.mk.onPctl)

protected theorem Formed.execBootFillDone (hs : Formed s) : FormedOut (execBootFillDone s) := by
  unfold execBootFillDone
  split
  · exact hs.ok
  · extract_lets _ t u
    have ht : Formed t := hs.mk.onPctl
    have hu : Formed u := ht.wf.wf
    exact hs.onlyIf (Formed.ite hu.wb.runWrite.seqEnd ht.wf.seqEnd)

protected theorem Formed.manEnd {img : Nat} (hs : Formed s) : Formed (manEnd s img) := hs.wf.onPctl

protected theorem Formed.manRelease {m : Manifest} (hs : Formed s) : Formed (manRelease s m) :=
  Formed.ite hs.onPctl (Formed.ite (Formed.ite hs.pdRequest hs) hs.wf.wb.runWrite.onPctl)

protected theorem Formed.manCopy {a : Nat} {ws : List Word} (hs : Formed s) : Formed (manCopy s a ws) :=
  Formed.ite (hs.forN (fun _ _ h => h.hmpReq)) (hs.foldl (fun _ _ h => h.arrayWrite))

protected theorem Formed.manBack {a : Nat} {ws : List Word} (hs : Formed s) : Formed (manBack s a ws).2 :=
  Formed.ite_of Prod.snd hs (Formed.foldl_snd hs (fun _ _ h => h.arrayRead))

protected theorem Formed.manEntry {m : Manifest} {ws : List Word} (hs : Formed s) : Formed (manEntry s m ws) := by
  unfold manEntry
  extract_lets _ _ _ r
  have hr : Formed r.2 := hs.manCopy.manBack
  refine Formed.ite ?_ ?_
  · split
    · exact Formed.ite hs.pdRequest hs
    · exact hs
  · exact Formed.ite hs (Formed.ite hr.onPctl hr.wf.manEnd)

protected theorem Formed.execManifestLoad {ws : List Word} (hs : Formed s) : FormedOut (execManifestLoad ws s) := by
  unfold execManifestLoad
  refine FormedOut.ite ?_ ?_
  · exact hs.ok
  · split
    · exact FormedOut.ite hs.ok (FormedOut.ite hs.manEnd.ok hs.onPctl.ok)
    · exact FormedOut.ite ((Formed.ite hs.manRelease hs.manEntry).ok) (FormedOut.ite hs.onPctl.ok hs.manEnd.ok)

protected theorem Formed.execBlevelWrite {q : Req} {sel : BitVec 2} (hs : Formed s) : FormedOut (execBlevelWrite q sel s) :=
  hs.blevelWrite.ok

protected theorem Formed.dpAnswer {st : Nat} {w : Word} (hs : Formed s) : Formed (dpAnswer s st w) := hs.onDbg

protected theorem Formed.dpPower {v : Word} (hs : Formed s) : Formed (dpPower s v) :=
  Formed.ite ((Formed.ite hs.pdRequest hs).pdRequest) (Formed.ite hs.pdRequest hs)

protected theorem Formed.dpAbort {v : Word} (hs : Formed s) : Formed (dpAbort s v) := hs.onDbg

protected theorem Formed.dpChal (hs : Formed s) : Formed (dpChal s) := Formed.ite hs hs.jtsecRead.onDbg

protected theorem Formed.dpCheck {req : Nat} (hs : Formed s) : Formed (dpCheck s req) := hs.onDbg

protected theorem Formed.dpDrop (hs : Formed s) : Formed (dpDrop s) := hs.onDbg.levelCheck

protected theorem Formed.dpAuth {v : Word} (hs : Formed s) : Formed (dpAuth s v) := by
  unfold dpAuth
  split
  · exact hs.dpChal
  · exact hs.dpCheck
  · exact hs.dpDrop
  · exact hs

protected theorem Formed.dpHalt (hs : Formed s) : Formed (dpHalt s) :=
  Formed.ite hs (Formed.ite hs.onDbg.unitStrobe hs.onDbg.driveSync)

protected theorem Formed.dpResume (hs : Formed s) : Formed (dpResume s) := Formed.ite hs.haltEnd hs

protected theorem Formed.dpStep {n : Nat} (hs : Formed s) : Formed (dpStep s n) := Formed.ite hs hs.mk.onDbg

protected theorem Formed.dpHaltWrite {v : Word} (hs : Formed s) : Formed (dpHaltWrite s v) := by
  unfold dpHaltWrite
  split
  · exact hs.dpHalt
  · exact hs.dpResume
  · exact hs.dpStep
  · exact hs

protected theorem Formed.dpMaddrWrite {v : Word} (hs : Formed s) : Formed (dpMaddrWrite s v) :=
  Formed.ite hs.dpAnswer hs.onDbg.dpAnswer

protected theorem Formed.dpMdataWrite {v : Word} (hs : Formed s) : Formed (dpMdataWrite s v) :=
  Formed.ite hs.dpAnswer hs.onDbg.dpAnswer

protected theorem Formed.dpVtWrite {v : Word} (hs : Formed s) : Formed (dpVtWrite s v) := by
  unfold dpVtWrite
  split
  · exact hs.dpAnswer
  · exact hs.onDbg.unitStrobe.dpAnswer

protected theorem Formed.dpWrite {idx : Nat} {v : Word} (hs : Formed s) : Formed (dpWrite s idx v) := by
  unfold dpWrite
  split
  · exact (Formed.ite hs.onDbg hs).dpAnswer
  · refine Formed.ite ?_ ?_
    · exact hs.dpPower.dpAnswer
    · refine Formed.ite ?_ ?_
      · exact hs.dpAbort.dpAnswer
      · refine Formed.ite ?_ ?_
        · exact hs.dpAuth.dpAnswer
        · refine Formed.ite ?_ ?_
          · exact hs.onDbg.dpAnswer
          · refine Formed.ite ?_ ?_
            · exact hs.dpHaltWrite.dpAnswer
            · exact Formed.ite hs.dpMaddrWrite (Formed.ite hs.dpMdataWrite (Formed.ite hs.dpVtWrite hs.dpAnswer))

protected theorem Formed.dpMdataRead (hs : Formed s) : Formed (dpMdataRead s) := by
  unfold dpMdataRead
  split
  · exact hs.onDbg.dpAnswer
  · extract_lets _ _
    exact hs.onDbg.dpAnswer
  · exact hs.dpAnswer

protected theorem Formed.dpVtRead (hs : Formed s) : Formed (dpVtRead s) := by
  unfold dpVtRead
  split
  · exact hs.onDbg.unitStrobe.dpAnswer
  · exact hs.dpAnswer

protected theorem Formed.dpRead {idx : Nat} (hs : Formed s) : Formed (dpRead s idx) := by
  unfold dpRead
  split
  · exact (Formed.ite hs.onDbg hs).dpAnswer
  · refine Formed.ite ?_ ?_
    · exact hs.dpAnswer
    · refine Formed.ite ?_ ?_
      · extract_lets r
        have hr : Formed r.2 := hs.freshWord
        exact hr.dpAnswer
      · refine Formed.ite ?_ ?_
        · exact hs.dpAnswer
        · refine Formed.ite ?_ ?_
          · exact hs.dpAnswer
          · refine Formed.ite ?_ ?_
            · exact hs.dpAnswer
            · exact Formed.ite hs.dpMdataRead (Formed.ite hs.dpAnswer (Formed.ite hs.dpVtRead hs.dpAnswer))

protected theorem Formed.execStuxTransaction {h : BitVec 12} {d : Word} {c : BitVec 8} (hs : Formed s) :
    FormedOut (execStuxTransaction h d c s) := by
  unfold execStuxTransaction
  extract_lets _ t
  have ht : Formed t := hs.dpWrite
  refine FormedOut.ite ?_ ?_
  · exact hs.onDbg.dpAnswer.ok
  · exact FormedOut.ite hs.dpRead.ok (FormedOut.ite hs.dpWrite.ok ((Formed.ite hs.onDbg.dpAnswer ht).ok))

protected theorem Formed.execStuxResync (hs : Formed s) : FormedOut (execStuxResync s) := hs.onDbg.ok

protected theorem Formed.execDpPwrreq (hs : Formed s) : FormedOut (execDpPwrreq s) := hs.dpWrite.ok

protected theorem Formed.execDpTrpwr (hs : Formed s) : FormedOut (execDpTrpwr s) := hs.dpWrite.ok

protected theorem Formed.execDpAbort {v : Word} (hs : Formed s) : FormedOut (execDpAbort v s) := hs.dpWrite.ok

protected theorem Formed.execDpChal (hs : Formed s) : FormedOut (execDpChal s) := hs.dpWrite.ok

protected theorem Formed.execDpCheck {req : BitVec 2} (hs : Formed s) : FormedOut (execDpCheck req s) := hs.dpWrite.ok

protected theorem Formed.execAuthCheckDone (hs : Formed s) : FormedOut (execAuthCheckDone s) := by
  unfold execAuthCheckDone
  split
  · exact hs.ok
  · extract_lets _ _ t
    have ht : Formed t := hs.onDbg.unitStrobe
    exact hs.onlyIf (Formed.ite ht.onDbg.levelCheck ht.onDbg)

protected theorem Formed.execDpDrop (hs : Formed s) : FormedOut (execDpDrop s) := hs.dpWrite.ok

protected theorem Formed.execAuthLockoutExpiry (hs : Formed s) : FormedOut (execAuthLockoutExpiry s) := by
  unfold execAuthLockoutExpiry
  split
  · exact hs.ok
  · exact hs.onlyIf hs.onDbg

protected theorem Formed.execDbgcapChange {v : BitVec 2} (hs : Formed s) : FormedOut (execDbgcapChange v s) :=
  hs.onDbg.levelCheck.ok

protected theorem Formed.execDpHalt (hs : Formed s) : FormedOut (execDpHalt s) := hs.dpWrite.ok

protected theorem Formed.coresHalt (hs : Formed s) : Formed (coresHalt s) :=
  hs.forN (fun _ _ h => (Formed.ite h (Formed.ite h.intcCoreLost.svenClear h.intcCoreLost)))

protected theorem Formed.execHaltWaitEnd (hs : Formed s) : FormedOut (execHaltWaitEnd s) := by
  unfold execHaltWaitEnd
  split
  · exact hs.ok
  · exact hs.onlyIf hs.coresHalt.clocksStop.mk.onDbg.tripBypass

protected theorem Formed.execDpResume (hs : Formed s) : FormedOut (execDpResume s) := hs.dpWrite.ok

protected theorem Formed.execDpStep {n : BitVec 16} (hs : Formed s) : FormedOut (execDpStep n s) := hs.dpWrite.ok

protected theorem Formed.execStepEnd (hs : Formed s) : FormedOut (execStepEnd s) := hs.onlyIf hs.clocksStop.onDbg.tripBypass

protected theorem Formed.execDpMaddrWrite {v : Word} (hs : Formed s) : FormedOut (execDpMaddrWrite v s) := hs.dpWrite.ok

protected theorem Formed.execDpMdataRead (hs : Formed s) : FormedOut (execDpMdataRead s) := hs.dpRead.ok

protected theorem Formed.execDpMdataWrite {v : Word} (hs : Formed s) : FormedOut (execDpMdataWrite v s) := hs.dpWrite.ok

protected theorem Formed.dpComplete {code : Nat} {w : Word} {write : Bool} (hs : Formed s) : Formed (dpComplete s code w write) :=
  hs.onDbg

protected theorem Formed.retryMark {port a : Nat} (hs : Formed s) : Formed (retryMark s port a) := hs.mk

protected theorem Formed.execDpAccessDone {m : Meet} {u : Upset} (hs : Formed s) : FormedOut (execDpAccessDone m u s) := by
  unfold execDpAccessDone
  extract_lets _ _ _ _ t r r1
  have ht : Formed t := hs.icGrant
  have hr : Formed r.2 := ht.icWrite
  have hr1 : Formed r1.2.2.1 := ht.icRead
  refine FormedOut.ite ?_ ?_
  · exact hs.ok
  · refine FormedOut.ite ?_ ?_
    · refine FormedOut.ite ?_ ?_
      · exact hs.dpComplete.ok
      · split
        next x t heq => exact ((Formed.of_mem hs.hmpTake heq).dpComplete).ok
        · exact FormedOut.ite hs.ok hs.hmpReq.ok
    · refine FormedOut.ite ?_ ?_
      · exact hs.waitMark.ok
      · refine FormedOut.ite ?_ ?_
        · exact FormedOut.ite hr.inc.retryMark.ok hr.dpComplete.ok
        · exact FormedOut.ite hr1.inc.retryMark.ok (FormedOut.ite hr1.dpComplete.ok hr1.onDbg.ok)

protected theorem Formed.execDpVtRead (hs : Formed s) : FormedOut (execDpVtRead s) := hs.dpRead.ok

protected theorem Formed.execDpVtWrite {v : Word} (hs : Formed s) : FormedOut (execDpVtWrite v s) := hs.dpWrite.ok

protected theorem Formed.execVtoutWrite {v : Word} (hs : Formed s) : FormedOut (execVtoutWrite v s) :=
  FormedOut.ite hs.vtoutWrite.ok hs.respond.ok

protected theorem Formed.execVtinRead (hs : Formed s) : FormedOut (execVtinRead s) :=
  FormedOut.ite hs.vtinRead.respond.ok hs.respond.ok

protected theorem Formed.execDbgKeyWrite {w : Fin 6} {v : Word} (hs : Formed s) : FormedOut (execDbgKeyWrite w v s) :=
  hs.dbgKeyWrite.ok

protected theorem Formed.execKeylock {q : Req} (hs : Formed s) : FormedOut (execKeylock q s) := hs.dbgCtrlWrite.ok

protected theorem Formed.execDbgStop {q : Req} {k : Fin 10} (hs : Formed s) : FormedOut (execDbgStop q k s) :=
  FormedOut.ite hs.dbgCorectlWrite.ok hs.respond.ok

protected theorem Formed.execDbgCoreStep {q : Req} {k : Fin 10} (hs : Formed s) : FormedOut (execDbgCoreStep q k s) :=
  FormedOut.ite hs.dbgCorectlWrite.ok hs.respond.ok

protected theorem Formed.execDbgCoreResume {q : Req} {k : Fin 10} (hs : Formed s) : FormedOut (execDbgCoreResume q k s) :=
  FormedOut.ite hs.dbgCorectlWrite.ok hs.respond.ok

protected theorem Formed.execBreakpoint {k : Fin 10} (hs : Formed s) : FormedOut (execBreakpoint k s) := hs.onlyIf hs.coreStop

protected theorem Formed.ringPut {w0 : Word} {kind src data : Nat} (hs : Formed s) : Formed (ringPut s w0 kind src data) :=
  Formed.ite hs.wr.wr.wf.wb hs.wr.wr.wf

protected theorem Formed.execTraceWrite (hs : Formed s) : FormedOut (execTraceWrite s) := by
  unfold execTraceWrite
  split
  · exact hs.ok
  · exact FormedOut.ite hs.ok (FormedOut.ite hs.mk.ringPut.ok hs.mk.ringPut.ok)

protected theorem Formed.execTrmarkWrite {v : Word} (hs : Formed s) : FormedOut (execTrmarkWrite v s) :=
  FormedOut.ite hs.trmarkWrite.ok hs.respond.ok

protected theorem Formed.hspFinish {x1 : HspTx} (hs : Formed s) : Formed (hspFinish s x1) := hs.mk

protected theorem Formed.hspBeat {write : Bool} {a : Nat} {v : Word} {m : Meet} {u : Upset} (hs : Formed s) :
    Formed (hspBeat s write a v m u).2 :=
  Formed.ite_of Prod.snd hs.icGrant.icWrite hs.icGrant.icRead

protected theorem Formed.hspBeats {x : HspTx} {l : List (Word × Meet × Upset)} (hs : Formed s) : Formed (hspBeats s x l) := by
  induction l generalizing s x with
  | nil => exact hs.hspFinish
  | cons b r ih =>
    unfold hspBeats
    extract_lets go
    have hgo : ∀ y, Formed y.2 → Formed (go y) := fun _ h => ih h
    split
    · exact hgo _ hs
    · split
      · exact hgo _ hs
      · exact Formed.ite hs.mk (Formed.ite hs.waitMark.mk (hgo _ hs.hspBeat))

protected theorem Formed.hspServe (hs : Formed s) : Formed (hspServe s) := by
  unfold hspServe
  split
  · exact hs
  · exact Formed.ite hs.hspBeats hs

protected theorem Formed.execHspRequest {write : Bool} {addr : BitVec 28} {len : Fin 8} {data : List (BitVec 64)}
    {up : List (Meet × Upset)} (hs : Formed s) :
    FormedOut (execHspRequest write addr len data up s) :=
  (Formed.ite hs.mk.hspServe hs.mk).ok

protected theorem Formed.hmpComplete {x1 : HmpTx} (hs : Formed s) : Formed (hmpComplete s x1) := hs.mk.hmpIssue

protected theorem Formed.hmpBeats {x1 : HmpTx} {l : List (Nat × Word)} (hs : Formed s) : Formed (hmpBeats s x1 l) :=
  Formed.ite hs.hmpComplete.hmpDeliver hs.mk

protected theorem Formed.hmpLate {tag : Nat} (hs : Formed s) : Formed (hmpLate s tag) := hs.mk.hmpIssue

protected theorem Formed.execHmpResponse {tag : Fin 32} {code : BitVec 3} {data : BitVec 64} (hs : Formed s) :
    FormedOut (execHmpResponse tag code data s) := by
  unfold execHmpResponse
  refine FormedOut.ite ?_ ?_
  · exact hs.ok
  · split
    · exact hs.hmpBeats.ok
    · exact hs.hmpLate.ok

protected theorem Formed.execHmpTimeout {tag : Fin 32} (hs : Formed s) : FormedOut (execHmpTimeout tag s) := by
  unfold execHmpTimeout
  split
  · exact hs.mk.ok
  · extract_lets _ _ t
    have ht : Formed t := hs.mk
    exact hs.onlyIf ht.hmpBeats

protected theorem Formed.execRegisterWrite {q : Req} {a : BitVec 40} {v : Word} (hs : Formed s) :
    FormedOut (execRegisterWrite q a v s) :=
  hs.regWrite.ok

protected theorem Formed.insBad {p0 p1 : Nat} : (insBad p0 p1).Keeps := ⟨(fun _ _ _ h => h), (fun _ _ h => h)⟩

protected theorem Formed.execIllegalOpcode {k : Fin 10} {p0 p1 : BitVec 16} (hs : Formed s) :
    FormedOut (execIllegalOpcode k p0 p1 s) :=
  hs.onlyIf (hs.atBoundary (fun _ h => (h.issue Formed.insBad)))

protected theorem Formed.execTripInputInactive {i : Fin 64} (hs : Formed s) : FormedOut (execTripInputInactive i s) :=
  hs.setTripPin.tripLevel.ok

protected theorem Formed.execPfailDeassert (hs : Formed s) : FormedOut (execPfailDeassert s) := hs.onlyIf hs.mk.onJne.tripSync

protected theorem Formed.execSysrstRelease (hs : Formed s) : FormedOut (execSysrstRelease s) := hs.onPctl.ok

protected theorem Formed.State_reset : Formed State.reset := Memory.wf_reset

protected theorem Formed.pinSync (hs : Formed s) : Formed (pinSync s) := by
  unfold pinSync
  extract_lets t _
  have ht : Formed t := hs.wb
  exact (ht.mk.forN (fun _ _ h => h.tripLevel)).driveSync

protected theorem Formed.powerOn (_ : Formed s) : Formed (powerOn s) := by
  unfold powerOn
  extract_lets src _ _ _ _ t t1
  have hsrc : Formed src := Formed.State_reset
  have ht : Formed t := hsrc.mk
  have ht1 : Formed t1 := ht.forN (fun _ _ h => (Formed.ite h.wb h))
  exact ht1.pinSync

protected theorem Formed.execPorstAssert (hs : Formed s) : FormedOut (execPorstAssert s) := hs.powerOn.ok

protected theorem Formed.execTestMode (hs : Formed s) : FormedOut (execTestMode s) := hs.powerOn.onPctl.ok

protected theorem Formed.execBlockLock {l : Fin 6} (hs : Formed s) : FormedOut (execBlockLock l s) := hs.onlyIf hs.wb.setLaneBer

protected theorem Formed.execHiberClear {l : Fin 6} (hs : Formed s) : FormedOut (execHiberClear l s) := hs.onlyIf hs.berRoll

protected theorem Formed.l2Stop {k : Nat} (hs : Formed s) : Formed (l2Stop s k) := hs.onSvc.srw.srw

protected theorem Formed.execL2CleaningDone {k : Fin 2} (hs : Formed s) : FormedOut (execL2CleaningDone k s) :=
  hs.onlyIf hs.offersHome.l2WriteAll.l2Stop

protected theorem Formed.execDbgCdatWrite {q : Req} {k : Fin 10} {v : Word} (hs : Formed s) :
    FormedOut (execDbgCdatWrite q k v s) :=
  FormedOut.ite hs.cdatWrite.ok hs.respond.ok

protected theorem Formed.execDbgGrantWrite {q : Req} {g : BitVec 2} (hs : Formed s) : FormedOut (execDbgGrantWrite q g s) :=
  hs.dbgCtrlWrite.ok

protected theorem Formed.exec {i : Instr} (hs : Formed s) : FormedOut (exec i s) := by
  unfold exec
  split
  · exact hs.execSampleCapture
  · exact hs.execEdgeWordLeave
  · exact hs.execAppliedReport
  · exact hs.execAppliedReportTimeout
  · exact hs.execTagArmCycle
  · exact hs.execTripInput
  · exact hs.execTglatchClear
  · exact hs.execDriveGntRise
  · exact hs.execDriveGntFall
  · exact hs.execSwnodeHigh
  · exact hs.execSwnodeWindowExpiry
  · exact hs.execSlotEnable
  · exact hs.execSlotDisable
  · exact hs.execPrimePoint
  · exact hs.execLawTrigger
  · exact hs.execLawNop
  · exact hs.execLawClr
  · exact hs.execLawLda
  · exact hs.execLawMac
  · exact hs.execLawMsu
  · exact hs.execLawMacs
  · exact hs.execLawAdds
  · exact hs.execLawSubs
  · exact hs.execLawMacc
  · exact hs.execLawAsh
  · exact hs.execLawSt
  · exact hs.execLawStl
  · exact hs.execLawOut
  · exact hs.execLawMov
  · exact hs.execLawBar
  · exact hs.execLawEnd
  · exact hs.execSlotAdopt
  · exact hs.execBswap
  · exact hs.execHoreq
  · exact hs.execManualModeWrite
  · exact hs.execCbmodeWrite
  · exact hs.execCoefWrite
  · exact hs.execTemplateWrite
  · exact hs.execPolicyWindowWrite
  · exact hs.execPhaseGroupUpdate
  · exact hs.execSspCellEnable
  · exact hs.execSspCellDisable
  · exact hs.execSspTrigger
  · exact hs.execSspDispatch
  · exact hs.execSspRtrq
  · exact hs.execSspArmrq
  · exact hs.execJtnsWrite
  · exact hs.execJtsecWrite
  · exact hs.execJtsecRead
  · exact hs.execCadenceTick
  · exact hs.execCgEnable
  · exact hs.execDeadlineMiss
  · exact hs.execDmGap
  · exact hs.execPctlDmdone
  · exact hs.execDmMissClear
  · exact hs.execDmEnable
  · exact hs.execSemEvent
  · exact hs.execSemChcfgWrite
  · exact hs.execSemSwev
  · exact hs.execSemTglock
  · exact hs.execSemTgmatrixWrite
  · exact hs.execIntcSourceEvent
  · exact hs.execIntcSelect
  · exact hs.execIntcClaim
  · exact hs.execIntcEoi
  · exact hs.execIntcMset
  · exact hs.execHoldoffExpiry
  · exact hs.execIntcSrcWrite
  · exact hs.execIntcPholdWrite
  · exact hs.execInterruptEntry
  · exact hs.execAsyncFault
  · exact hs.execLoadResponse
  · exact hs.execPostedStoreResponse
  · exact hs.execWaitEnd
  · exact hs.execFenceComplete
  · exact hs.execNop
  · exact hs.execDup
  · exact hs.execDrop
  · exact hs.execSwap
  · exact hs.execOver
  · exact hs.execRot
  · exact hs.execNip
  · exact hs.execTuck
  · exact hs.execAdd
  · exact hs.execSub
  · exact hs.execNeg
  · exact hs.execAbs
  · exact hs.execAnd
  · exact hs.execOr
  · exact hs.execXor
  · exact hs.execNot
  · exact hs.execAndn
  · exact hs.execMin
  · exact hs.execMax
  · exact hs.execMinu
  · exact hs.execMaxu
  · exact hs.execAddsat
  · exact hs.execSubsat
  · exact hs.execMul
  · exact hs.execMulu
  · exact hs.execMac
  · exact hs.execMsu
  · exact hs.execClracc
  · exact hs.execRdph
  · exact hs.execRdpl
  · exact hs.execRdacc0
  · exact hs.execRdacc1
  · exact hs.execRdacc2
  · exact hs.execLdl
  · exact hs.execPutl
  · exact hs.execTeel
  · exact hs.execPick
  · exact hs.execLit
  · exact hs.execAddi
  · exact hs.execLit16
  · exact hs.execLitx16
  · exact hs.execAddi16
  · exact hs.execAndi16
  · exact hs.execOri16
  · exact hs.execXori16
  · exact hs.execShl
  · exact hs.execShr
  · exact hs.execSar
  · exact hs.execRol
  · exact hs.execShlv
  · exact hs.execShrv
  · exact hs.execSarv
  · exact hs.execRolv
  · exact hs.execExtu
  · exact hs.execExts
  · exact hs.execIns
  · exact hs.execRndacc
  · exact hs.execRndaccs
  · exact hs.execWracc
  · exact hs.execCmp
  · exact hs.execCmpi
  · exact hs.execTstp
  · exact hs.execPand
  · exact hs.execPor
  · exact hs.execPxor
  · exact hs.execPnot
  · exact hs.execRdp
  · exact hs.execGrd
  · exact hs.execLdw
  · exact hs.execStw
  · exact hs.execLdwx
  · exact hs.execStwx
  · exact hs.execLdwd
  · exact hs.execStwd
  · exact hs.execLdwxd
  · exact hs.execStwxd
  · exact hs.execBchk
  · exact hs.execBchkr
  · exact hs.execBr
  · exact hs.execBrl
  · exact hs.execCall
  · exact hs.execCalll
  · exact hs.execCallf
  · exact hs.execCallfl
  · exact hs.execRet
  · exact hs.execRetf
  · exact hs.execJmpi
  · exact hs.execCalli
  · exact hs.execCallfi
  · exact hs.execLoop
  · exact hs.execLexit
  · exact hs.execTor
  · exact hs.execFromr
  · exact hs.execRfetch
  · exact hs.execDiv
  · exact hs.execDivu
  · exact hs.execScall
  · exact hs.execSret
  · exact hs.execEret
  · exact hs.execFence
  · exact hs.execWait
  · exact hs.execEvpoll
  · exact hs.execRdsr
  · exact hs.execWrsr
  · exact hs.execBmove
  · exact hs.execSavel
  · exact hs.execSaveu
  · exact hs.execRestl
  · exact hs.execRestu
  · exact hs.execTmov
  · exact hs.execTget
  · exact hs.execTclr
  · exact hs.execTnarrow
  · exact hs.execTld
  · exact hs.execTst
  · exact hs.execTgete
  · exact hs.execTgetct
  · exact hs.execTroot
  · exact hs.execTseal
  · exact hs.execTunseal
  · exact hs.execTsete
  · exact hs.execTsetct
  · exact hs.execBkdatRead
  · exact hs.execBkdatWrite
  · exact hs.execDetmWrite
  · exact hs.execDetmActive
  · exact hs.execRootlockWrite
  · exact hs.execScinAbandon
  · exact hs.execMaskWrite
  · exact hs.execSvcClean
  · exact hs.execSvcInv
  · exact hs.execSvcCleaninv
  · exact hs.execSvcIcinv
  · exact hs.execSvcAllclean
  · exact hs.execSvcAllcleaninv
  · exact hs.execSvcAllinv
  · exact hs.execSvcOpDone
  · exact hs.execTlbRead
  · exact hs.execTlbWrite
  · exact hs.execTlbProbe
  · exact hs.execTlbInvall
  · exact hs.execTlbInvasid
  · exact hs.execCurasidWrite
  · exact hs.execDcacheDisable
  · exact hs.execDcacheCleanDone
  · exact hs.execL2Enable
  · exact hs.execL2Disable
  · exact hs.execWayDisable
  · exact hs.execLineFill
  · exact hs.execWcBufferTimeout
  · exact hs.execMemAccess
  · exact hs.execMemRetry
  · exact hs.execScrub
  · exact hs.execFrameStart
  · exact hs.execResvCommit
  · exact hs.execResvAdmissionDone
  · exact hs.execBankRetire
  · exact hs.execPneRead
  · exact hs.execPneWrite
  · exact hs.execPneDefine
  · exact hs.execPneDelete
  · exact hs.execPnePin
  · exact hs.execPneUnpin
  · exact hs.execPneDeclare
  · exact hs.execPneWopReserved
  · exact hs.execPneAdmission
  · exact hs.execPointDelivery
  · exact hs.execCacheFill
  · exact hs.execAgeTick
  · exact hs.execPointScan
  · exact hs.execPneCacheEnable
  · exact hs.execPneCacheDisable
  · exact hs.execPneDisableDone
  · exact hs.execPneReady
  · exact hs.execRestoreTimeout
  · exact hs.execJneOpen
  · exact hs.execJneClose
  · exact hs.execRecoveryComplete
  · exact hs.execJneFormat
  · exact hs.execFormatComplete
  · exact hs.execJneAdmit
  · exact hs.execPaceRefill
  · exact hs.execHeadBurstResponse
  · exact hs.execHeadBurstTimeout
  · exact hs.execJournalAck
  · exact hs.execPfail
  · exact hs.execPfailRearm
  · exact hs.execHoldupWrite
  · exact hs.execJneMbGo
  · exact hs.execMbBodyRead
  · exact hs.execMqheadWrite
  · exact hs.execMqPoll
  · exact hs.execMqCompletion
  · exact hs.execMerrReadmit
  · exact hs.execDrydownBatch
  · exact hs.execSegPin
  · exact hs.execSegUnpin
  · exact hs.execInfoPoll
  · exact hs.execWacEnable
  · exact hs.execWacDisable
  · exact hs.execWacRound
  · exact hs.execWacCheckpoint
  · exact hs.execWacCkpt
  · exact hs.execWacReset
  · exact hs.execCounterWriteDone
  · exact hs.execRlkEnable
  · exact hs.execRingEnable
  · exact hs.execRlkCycleStart
  · exact hs.execUplinkSlot
  · exact hs.execReportHandoff
  · exact hs.execFrameReturn
  · exact hs.execRlkCycleEnd
  · exact hs.execLockLost
  · exact hs.execHiber
  · exact hs.execMlkEnable
  · exact hs.execMlkArmedWrite
  · exact hs.execMirrorIntervalStart
  · exact hs.execHeartbeat
  · exact hs.execImage
  · exact hs.execCommit
  · exact hs.execAck
  · exact hs.execReport
  · exact hs.execBulk
  · exact hs.execBulkend
  · exact hs.execGenInstallDone
  · exact hs.execRstart
  · exact hs.execImgpage
  · exact hs.execRsdone
  · exact hs.execBcStart
  · exact hs.execBcAbort
  · exact hs.execAckTimeout
  · exact hs.execCptAlloc
  · exact hs.execCptSubmit
  · exact hs.execCptFree
  · exact hs.execCptHdb
  · exact hs.execCptPdb
  · exact hs.execCptPacketFetch
  · exact hs.execCptReplyCopy
  · exact hs.execCptTake
  · exact hs.execCptReply
  · exact hs.execCptDeadline
  · exact hs.execEventRingWrite
  · exact hs.execCptNop
  · exact hs.execVersion
  · exact hs.execPtRead
  · exact hs.execPtWrite
  · exact hs.execPtDefine
  · exact hs.execPtDelete
  · exact hs.execPtPin
  · exact hs.execPtUnpin
  · exact hs.execUnitDeclare
  · exact hs.execUnitRead
  · exact hs.execTimeGet
  · exact hs.execTimeSet
  · exact hs.execJnlStatus
  · exact hs.execJnlAppend
  · exact hs.execRoleGet
  · exact hs.execRegRead
  · exact hs.execRegWrite
  · exact hs.execPllLock
  · exact hs.execPllLockTimeout
  · exact hs.execLossOfLock
  · exact hs.execPdOn
  · exact hs.execPdRetain
  · exact hs.execPdOff
  · exact hs.execPdReset
  · exact hs.execPdHold
  · exact hs.execPdFreset
  · exact hs.execPdFoff
  · exact hs.execPdackRise
  · exact hs.execPdackFall
  · exact hs.execPdackTimeout
  · exact hs.execSupplyFault
  · exact hs.execDrainComplete
  · exact hs.execDrainTimeout
  · exact hs.execCoreRun
  · exact hs.execPowerOnReset
  · exact hs.execSysrst
  · exact hs.execSwrst
  · exact hs.execBootFill
  · exact hs.execBootFillDone
  · exact hs.execManifestLoad
  · exact hs.execBlevelWrite
  · exact hs.execStuxTransaction
  · exact hs.execStuxResync
  · exact hs.execDpPwrreq
  · exact hs.execDpTrpwr
  · exact hs.execDpAbort
  · exact hs.execDpChal
  · exact hs.execDpCheck
  · exact hs.execAuthCheckDone
  · exact hs.execDpDrop
  · exact hs.execAuthLockoutExpiry
  · exact hs.execDbgcapChange
  · exact hs.execDpHalt
  · exact hs.execHaltWaitEnd
  · exact hs.execDpResume
  · exact hs.execDpStep
  · exact hs.execStepEnd
  · exact hs.execDpMaddrWrite
  · exact hs.execDpMdataRead
  · exact hs.execDpMdataWrite
  · exact hs.execDpAccessDone
  · exact hs.execDpVtRead
  · exact hs.execDpVtWrite
  · exact hs.execVtoutWrite
  · exact hs.execVtinRead
  · exact hs.execDbgKeyWrite
  · exact hs.execKeylock
  · exact hs.execDbgStop
  · exact hs.execDbgCoreStep
  · exact hs.execDbgCoreResume
  · exact hs.execBreakpoint
  · exact hs.execTraceWrite
  · exact hs.execTrmarkWrite
  · exact hs.execHspRequest
  · exact hs.execHmpResponse
  · exact hs.execHmpTimeout
  · exact hs.execRegisterWrite
  · exact hs.execIllegalOpcode
  · exact hs.execTripInputInactive
  · exact hs.execPfailDeassert
  · exact hs.execSysrstRelease
  · exact hs.execPorstAssert
  · exact hs.execTestMode
  · exact hs.execBlockLock
  · exact hs.execHiberClear
  · exact hs.execL2CleaningDone
  · exact hs.execDbgCdatWrite
  · exact hs.execDbgGrantWrite

protected theorem Formed.cycleOver (hs : Formed s) : Formed (cycleOver s) := hs.mk

protected theorem Formed.clearDone (hs : Formed s) : Formed (clearDone s) := hs.foldl (fun _ _ h => h.mk.pdUp)

protected theorem Formed.uFree (hs : Formed s) : Formed (uFree s) :=
  Formed.ite hs (hs.foldl (fun _ _ h => (Formed.ite h.pdTake h.pdForce)))

protected theorem Formed.tornDone (hs : Formed s) : Formed (tornDone s) := hs.foldl (fun _ _ h => h.pdPerform)

protected theorem Formed.manDrop (hs : Formed s) : Formed (manDrop s) := hs.mk

protected theorem Formed.pdReqStep (hs : Formed s) : Formed (pdReqStep s) := by
  unfold pdReqStep
  split
  · exact hs
  · exact Formed.ite hs.wb.setPdState.wakeRegs.setPdRun (Formed.ite hs.wb.setPdRun hs.wb.pdGone)

protected theorem Formed.coreRelease {k : Nat} (hs : Formed s) : Formed (coreRelease s k) := Formed.ite hs.setCore hs

protected theorem Formed.coresGo (hs : Formed s) : Formed (coresGo s) := hs.onPctl.foldl (fun _ _ h => h.coreRelease)

protected theorem Formed.sysRegs (hs : Formed s) : Formed (sysRegs s) := hs.mk

protected theorem Formed.sysState (hs : Formed s) : Formed (sysState s) := hs.mk

protected theorem Formed.warmDown (hs : Formed s) : Formed (warmDown s) := by
  unfold warmDown
  extract_lets t t1
  have ht : Formed t := by
    unfold t
    exact hs.forN (fun _ _ h => (Formed.ite h.setPdRun.wb.setPdRun (Formed.ite h.setPdRun.wb (Formed.ite h.setPdRun.wb.setPdState.setPdRun h.setPdRun.wb.powerDown))))
  have ht1 : Formed t1 := ht.sysRegs.sysState.pinSync
  exact ht1.wf.onPctl

protected theorem Formed.seqStep (hs : Formed s) : Formed (seqStep s) := by
  unfold seqStep
  split
  · exact Formed.ite hs (Formed.ite hs.warmDown (hs.foldl (fun _ _ h => h.setPdRun.pdFence)))
  · exact Formed.ite hs.bootUp hs
  · refine Formed.ite ?_ ?_
    · split
      · exact hs.seqEnd
      · exact hs.onPctl
    · exact hs
  · exact hs

protected theorem Formed.pctlTick (hs : Formed s) : Formed (pctlTick s) := by
  unfold pctlTick
  refine Formed.ite ?_ ?_
  · exact hs
  · extract_lets t
    have ht : Formed t := hs.clearDone.uFree.tornDone.manDrop
    exact Formed.ite ht ht.pdReqStep.coresGo.seqStep

protected theorem Formed.jtAdvance (hs : Formed s) : Formed (jtAdvance s) := by
  unfold jtAdvance
  extract_lets _ _
  split
  · exact hs.mk
  · exact Formed.ite hs.mk hs.mk

protected theorem Formed.pulseTick (hs : Formed s) : Formed (pulseTick s) := Formed.ite hs hs.mk.tripSync

protected theorem Formed.hspTick (hs : Formed s) : Formed (hspTick s) := Formed.ite hs (hs.forN (fun _ _ h => h.hspServe))

protected theorem Formed.takePairs {n a : Nat} (hs : Formed s) : Formed (takePairs s n a) :=
  (((hs.foldl (fun _ _ h => h.wf)).wb).wb).mk

protected theorem Formed.slotGive {n : Nat} {ws : List EdgeWord} {ys : List Word} {p : Nat} (hs : Formed s) :
    Formed (slotGive s n ws ys p) :=
  Formed.ite hs.slotHand hs.slotHand.setSlot

protected theorem Formed.holdGive {h : HoldHand} (hs : Formed s) : Formed (holdGive s h) := Formed.ite hs.slotGive hs

protected theorem Formed.handOver {h : SlotHand} (hs : Formed s) : Formed (handOver s h) :=
  Formed.ite hs.wf.maxTo ((Formed.ite hs.wf.maxTo.setSlot hs.wf.maxTo.slotGive).dmEndSlot)

protected theorem Formed.handTick (hs : Formed s) : Formed (handTick s) := by
  unfold handTick
  refine Formed.ite ?_ ?_
  · exact hs
  · extract_lets _ _ _ _ t t1 give
    have ht : Formed t := hs.mk
    have ht1 : Formed t1 := by
      unfold t1
      refine Formed.foldl ht fun u x h => ?_
      split
      · exact h.takePairs
      · exact h
    have hgive : ∀ u0 x1, Formed u0 → Formed (give u0 x1) := by
      intro _ _ h
      unfold give
      exact (h.foldl (fun _ _ h1 => h1.holdGive)).foldl (fun _ _ h1 => h1.handOver)
    exact ht1.foldl (fun _ _ h => (hgive _ _ h))

protected theorem Formed.earlyArmTick (hs : Formed s) : Formed (earlyArmTick s) := hs.foldl (fun _ _ h => h.tagArm)

protected theorem Formed.cvpArm {tag : Nat} (hs : Formed s) : Formed (cvpArm s tag) := hs.mk

protected theorem Formed.cvpRetract {tag rq : Nat} (hs : Formed s) : Formed (cvpRetract s tag rq) :=
  Formed.ite hs (Formed.ite hs.wb.inc.wf.wf.wf.semFire hs.mk)

protected theorem Formed.dmEndCell {c : Nat} (hs : Formed s) : Formed (dmEndCell s c) := hs.foldl (fun _ _ h => h.dmEnd)

protected theorem Formed.postGone {tag : Nat} (hs : Formed s) : Formed (postGone s tag) := hs.mk

protected theorem Formed.sspStrobe {r : SspReq} (hs : Formed s) : Formed (sspStrobe s r) := by
  unfold sspStrobe
  refine Formed.ite ?_ ?_
  · exact hs.cvpArm
  · extract_lets t t1 t2 _
    have ht : Formed t := hs.cvpRetract
    have ht1 : Formed t1 := ht.wb.inc.dmEndCell
    have ht2 : Formed t2 := ht.postGone
    exact Formed.ite (Formed.ite ht1.cvpArm ht1) ht2.mk

protected theorem Formed.sspResult {run : SspRun} (hs : Formed s) : Formed (sspResult s run) := by
  unfold sspResult
  extract_lets _ t t1 _
  have ht : Formed t := hs.cellFlag.cellFlag
  have ht1 : Formed t1 := Formed.ite ht ht.wb
  split
  · extract_lets t2 t3 _
    have ht2 : Formed t2 := ht1.wf.wf
    have ht3 : Formed t3 := ht2.wr.wr
    exact Formed.ite ht3 ht3.setCell
  · exact ht1

protected theorem Formed.sspKnown {run : SspRun} (hs : Formed s) : Formed (sspKnown s run) := hs.mk.sspResult.cellUnhold

protected theorem Formed.sspRequest {r : SspReq} (hs : Formed s) : Formed (sspRequest s r) := (Formed.ite hs.inc hs).mk

protected theorem Formed.cellRequests {c : Nat} (hs : Formed s) : Formed (cellRequests s c) := by
  unfold cellRequests
  extract_lets _ t t1 t2
  have ht : Formed t := hs.wb.wb
  have ht1 : Formed t1 := ht.setCell
  have ht2 : Formed t2 := by
    unfold t2
    split
    · exact Formed.ite ht1 ht1.sspRequest
    · exact ht1
  split
  · exact ht2.sspRequest
  · exact ht2

protected theorem Formed.sspLatency {run : SspRun} (hs : Formed s) : Formed (sspLatency s run) := hs.wf.maxTo

protected theorem Formed.sspRefine {x1 : Posting} {run : SspRun} {cand : Nat} (hs : Formed s) :
    Formed (sspRefine s x1 run cand) :=
  Formed.ite hs.inc.dmEndCell hs.sspRequest

protected theorem Formed.sspPost {c p cand : Nat} {tr : DmStart} (hs : Formed s) : Formed (sspPost s c p cand tr) := by
  unfold sspPost
  split
  next t heq => exact (Formed.of_some hs.makePosting heq).dmEndCell
  · exact hs.sspNopost

protected theorem Formed.sspSend {run : SspRun} {cand : Nat} (hs : Formed s) : Formed (sspSend s run cand) := by
  unfold sspSend
  extract_lets _ _ _
  refine Formed.ite ?_ ?_
  · exact hs
  · refine Formed.ite ?_ ?_
    · exact hs.setCell.dmEndCell
    · split
      · exact hs.sspRefine
      · exact hs.sspPost

protected theorem Formed.sspComplete {run : SspRun} (hs : Formed s) : Formed (sspComplete s run) := by
  unfold sspComplete
  extract_lets _ t t1
  have ht : Formed t := hs.mk
  have ht1 : Formed t1 := ht.sspLatency
  refine Formed.ite ?_ ?_
  · exact ht1
  · split
    · exact ht1.sspSend
    · exact ht1.wb.sspNopost

protected theorem Formed.sspReplace {r : SspRepl} (hs : Formed s) : Formed (sspReplace s r) := Formed.ite hs.mk hs.mk.sspPost

protected theorem Formed.cellHandover {c : Nat} (hs : Formed s) : Formed (cellHandover s c) := by
  unfold cellHandover
  extract_lets _ _ s1 t
  have hs1 : Formed s1 := hs.mk.foldl (fun _ _ h => h.postOut)
  have ht : Formed t := hs1.foldl (fun _ _ h => h.sspComplete)
  exact ht.foldl (fun _ _ h => h.sspReplace)

protected theorem Formed.sspTick (hs : Formed s) : Formed (sspTick s) := by
  unfold sspTick
  extract_lets s1 _ t t1 t2 t3
  have hs1 : Formed s1 := hs.earlyArmTick
  have ht : Formed t := hs1.mk.foldl (fun _ _ h => h.sspStrobe)
  have ht1 : Formed t1 := ht.foldl (fun _ _ h => h.sspKnown)
  have ht2 : Formed t2 := Formed.ite ht1 ht1.busySync
  have ht3 : Formed t3 := ht2.foldl (fun _ _ h => h.cellRequests)
  exact Formed.ite hs1 (ht3.foldl (fun _ _ h => h.cellHandover))

protected theorem Formed.tableWord {i : Nat} {w : Word} (hs : Formed s) : Formed (tableWord s i w) := by
  unfold tableWord
  generalize i - 4096 = j
  refine Formed.ite (Formed.ite hs.onPne hs) (Formed.ite hs ?_)
  split
  · exact Formed.ite hs.wf.wf hs.wf.wf.setUnit
  · exact hs.wf
  · exact hs.wf
  · exact hs

protected theorem Formed.tableStep (hs : Formed s) : Formed (tableStep s) := by
  unfold tableStep
  extract_lets ask
  have hask : ∀ u0, Formed u0 → Formed (ask u0) := fun _ h => h.hmpReq
  split
  · exact hs
  next x t heq =>
    refine Formed.ite ?_ ?_
    · exact hask _ ((Formed.of_mem hs.hmpTake heq).imgErr)
    · extract_lets t1 t2
      have ht1 : Formed t1 := (Formed.of_mem hs.hmpTake heq).foldl (fun _ _ h => h.tableWord)
      have ht2 : Formed t2 := ht1.onPne
      exact Formed.ite (hask _ ht2) ht2.onPne

protected theorem Formed.enterStep {f : Nat} (hs : Formed s) : Formed (enterStep f s) := by
  induction f generalizing s with
  | zero => exact hs
  | succ f ih =>
    unfold enterStep
    split
    · exact hs.setPins.onPne.foldl fun _ _ h => Formed.ite h h.startPneFill
    · split
      next heq => exact (Formed.of_snd hs.pneEffect heq).onPne.waitCount
      next heq => exact ih (Formed.of_snd hs.pneEffect heq).onPne

protected theorem Formed.pneTick (hs : Formed s) : Formed (pneTick s) := by
  unfold pneTick
  refine Formed.ite ?_ ?_
  · exact hs
  · split
    · exact Formed.ite hs.wb.onPne hs
    · exact Formed.ite hs (Formed.ite hs.imgErr hs.onPne.hmpReq)
    · exact hs.tableStep
    · exact hs.enterStep
    · exact hs.foldl (fun _ _ h => (Formed.ite h h.startPneFill))
    · exact hs.pneFlushUnsent

protected theorem Formed.wacTick (hs : Formed s) : Formed (wacTick s) := by
  unfold wacTick
  refine Formed.ite ?_ ?_
  · exact hs
  · refine Formed.ite ?_ ?_
    · exact hs.wb
    · extract_lets _ t t1
      have ht : Formed t := Formed.ite hs.wb.onWac (Formed.ite hs.wb hs)
      have ht1 : Formed t1 := ht.wacCollect.wacRun
      exact Formed.ite ht1.onWac.ckStart ht1

protected theorem Formed.jneReopen (hs : Formed s) : Formed (jneReopen s) := Formed.ite hs.onJne.jneEnter hs.onJne

protected theorem Formed.jneTick (hs : Formed s) : Formed (jneTick s) :=
  Formed.ite ((Formed.ite hs.jneReopen hs).jneRun) (Formed.ite hs.jneReopen hs)

protected theorem Formed.l2InitStep {k : Nat} (hs : Formed s) : Formed (l2InitStep s k) :=
  Formed.ite hs (Formed.ite hs.l2TagPut.onSvc.srw hs.l2TagPut.onSvc)

protected theorem Formed.l2Put {k : Nat} {x2 : Line} {d : Bool} (hs : Formed s) : Formed (l2Put s k x2 d) := by
  unfold l2Put
  extract_lets _
  split
  next e t heq => exact ((Formed.of_snd hs.putPairs heq).wbError).l2TagPut
  next t heq => exact (Formed.of_snd hs.putPairs heq).l2TagPut

protected theorem Formed.l2Accept {k : Nat} {x2 : Line} (hs : Formed s) : Formed (l2Accept s k x2) := by
  unfold l2Accept
  extract_lets _
  split
  next w t heq =>
    extract_lets _
    refine Formed.ite ?_ ?_
    · exact (Formed.ite ((Formed.of_snd hs.l2Look heq).l2Home) (Formed.of_snd hs.l2Look heq)).l2Put
    · exact Formed.ite ((Formed.of_snd hs.l2Look heq).cntDecline) ((Formed.of_snd hs.l2Look heq).l2Put)

protected theorem Formed.offerStep {k : Nat} (hs : Formed s) : Formed (offerStep s k) := by
  unfold offerStep
  split
  · exact hs
  · exact hs.onSvc.l2Accept

protected theorem Formed.wayStep {k : Nat} (hs : Formed s) : Formed (wayStep s k) := by
  unfold wayStep
  split
  · exact hs
  · split
    · exact Formed.ite hs.onSvc.evictLine hs
    · exact hs.onSvc.srw

protected theorem Formed.freeAccess (hs : Formed s) : Formed (freeAccess s).2.2 := hs.freshBit.freshWord

protected theorem Formed.specFetch {k : Nat} (hs : Formed s) : Formed (specFetch s k) := by
  unfold specFetch
  split
  next go va t heq =>
  have ht : Formed t := Formed.of_snd_snd hs.freeAccess heq
  split
  · exact ht
  · extract_lets line
    refine Formed.ite ht ?_
    split
    · exact ht.iTouch
    · exact Formed.ite ht ht.cntImiss.startFill

protected theorem Formed.specLoad {k : Nat} (hs : Formed s) : Formed (specLoad s k) := by
  unfold specLoad
  split
  next go r u heq =>
  have hu : Formed u := Formed.of_snd_snd hs.freeAccess heq
  split
  next o t heq =>
  have ht : Formed t := Formed.of_snd hu.freshWord heq
  split
  · exact ht
  · extract_lets line
    refine Formed.ite ht ?_
    split
    · exact ht.dTouch
    · exact Formed.ite ht ht.cntDmiss.startFill

protected theorem Formed.speculate {k : Nat} (hs : Formed s) : Formed (speculate s k) := by
  unfold speculate
  extract_lets _ _ b
  have hb : Formed b.2 := hs.freshBit
  split
  · refine Formed.ite ?_ ?_
    · exact hs
    · split
      · exact Formed.ite hs (hb.specFetch.onSvc.forN (fun _ _ h => h.specLoad))
  · exact hs

protected theorem Formed.svcStep {k : Nat} (hs : Formed s) : Formed (svcStep s k) := by
  unfold svcStep
  refine Formed.ite ?_ ?_
  · exact hs
  · extract_lets t t1
    have ht : Formed t := hs.l2InitStep.l2InitStep.offerStep
    have ht1 : Formed t1 := ht.wayStep.prefetchNext
    exact Formed.ite ht1.svcDrain ht1.speculate

protected theorem Formed.svcTick (hs : Formed s) : Formed (svcTick s) := hs.svcStep.svcStep

protected theorem Formed.instRej (hs : Formed s) : Formed (instRej s) := hs.wb.inc

protected theorem Formed.mlkFetch {id a : Nat} (hs : Formed s) : Formed (mlkFetch s id a).2 := by
  unfold mlkFetch
  split
  · split
    next x t heq1 => exact Formed.ite_of Prod.snd (Formed.of_mem hs.hmpTake heq1) ((Formed.of_mem hs.hmpTake heq1).freshWord)
    · exact Formed.ite hs hs.hmpReq
  · split
    next x t heq1 => exact Formed.ite_of Prod.snd (Formed.of_mem hs.hmpTake heq1) ((Formed.of_mem hs.hmpTake heq1).freshWord)
    · exact Formed.ite hs hs.hmpReq
  · extract_lets r
    have hr : Formed r.2.2.1 := hs.icRead
    exact Formed.ite_of Prod.snd hr hr.freshWord

protected theorem Formed.instWrite {p : Word × Word} {v : Word} (hs : Formed s) : Formed (instWrite s p v) := by
  unfold instWrite
  extract_lets _ u r t _
  have hu : Formed u := hs.regWrite
  have hr : Formed r.2 := Formed.ite_of Prod.snd hs.mlkStore hu.mk
  have ht : Formed t := Formed.ite hr.instRej hr
  exact Formed.ite ht ht.onMlk

protected theorem Formed.instStep (hs : Formed s) : Formed (instStep s) := by
  unfold instStep
  split
  · exact hs
  · extract_lets _
    refine Formed.ite ?_ ?_
    · exact hs.instRej.onMlk
    · split
      next v t heq1 => exact (Formed.of_snd hs.mlkFetch heq1).instWrite
      next t heq1 => exact Formed.of_snd hs.mlkFetch heq1

protected theorem Formed.pageRead (hs : Formed s) : Formed (pageRead s) := by
  unfold pageRead
  refine Formed.ite ?_ ?_
  · exact hs
  · split
    next x t heq => exact Formed.ite ((Formed.of_mem hs.hmpTake heq).onMlk) ((Formed.of_mem hs.hmpTake heq).resyncAgain)
    · exact Formed.ite hs hs.hmpReq

protected theorem Formed.bulkRead (hs : Formed s) : Formed (bulkRead s) := by
  unfold bulkRead
  refine Formed.ite ?_ ?_
  · exact hs
  · split
    · exact hs
    · split
      next t heq1 => exact Formed.of_snd hs.mlkFetch heq1
      next v t heq1 =>
        extract_lets _
        exact (Formed.of_snd hs.mlkFetch heq1).onMlk

protected theorem Formed.sendCommit {c : Commit} (hs : Formed s) : Formed (sendCommit s c) := hs.mlkSend.onJne.onMlk

protected theorem Formed.sendResync (hs : Formed s) : ∀ t ∈ sendResync s, Formed t := by
  unfold sendResync
  split
  · exact mem_none_all
  · extract_lets _
    split
    · exact mem_some_all hs.mlkSend.onMlk
    · split
      · exact mem_some_all hs.mlkSend.onMlk.onJne.mirrorLive
      · split
        · exact mem_some_all hs.mlkSend.onMlk
        · exact mem_none_all

protected theorem Formed.sendBulk (hs : Formed s) : ∀ t ∈ sendBulk s, Formed t := by
  unfold sendBulk
  split
  · exact mem_none_all
  · extract_lets _ _ _ _ _
    split
    · exact mem_some_all hs.mlkSend.onMlk
    · split
      · exact mem_some_all hs.mlkSend.wb
      · exact mem_none_all

protected theorem Formed.lane1Next (hs : Formed s) : Formed (lane1Next s) := by
  unfold lane1Next
  refine Formed.ite ?_ ?_
  · exact hs
  · refine Formed.ite ?_ ?_
    · exact Formed.ite hs.mlkSend.onMlk hs
    · refine Formed.ite ?_ ?_
      · exact hs.resyncAgain
      · refine Formed.ite ?_ ?_
        · split
          · exact hs.sendCommit
          · exact hs
        · refine Formed.ite ?_ ?_
          · extract_lets _
            exact hs.mlkSend.onMlk
          · split
            next t heq => exact Formed.of_some hs.sendResync heq
            · exact Formed.getD hs.sendBulk hs

protected theorem Formed.mlkTick (hs : Formed s) : Formed (mlkTick s) := by
  unfold mlkTick
  refine Formed.ite ?_ ?_
  · exact hs
  · extract_lets _ t t1 t2
    have ht : Formed t := hs.mk
    have ht1 : Formed t1 := ht.instStep
    have ht2 : Formed t2 := ht1.mirrorLive.pageRead.bulkRead
    exact Formed.ite ht1 (Formed.ite ht2.lane1Next ht2)

protected theorem Formed.drvFollow (hs : Formed s) : Formed (drvFollow s) := Formed.ite hs hs.mk.driveSync

protected theorem Formed.evQueue {e : EvReq} (hs : Formed s) : Formed (evQueue s e) :=
  Formed.ite hs (Formed.ite hs.evLost hs.onCpt)

protected theorem Formed.evTake (hs : Formed s) : Formed (evTake s) := Formed.ite hs.mk (hs.mk.foldl (fun _ _ h => h.evQueue))

protected theorem Formed.cptTick_hmpDropDone (hs : Formed s) : Formed (cptTick.hmpDropDone s) := hs.mk

protected theorem Formed.cptNotice {area status hint : Nat} (hs : Formed s) : Formed (cptNotice s area status hint) :=
  Formed.ite hs.wb.inc.unitStrobe hs.onCpt.noticeStart

protected theorem Formed.cptResult {a : CptAsk} {res b : Nat} (hs : Formed s) : Formed (cptResult s a res b) := by
  unfold cptResult
  extract_lets _ u t _
  have hu : Formed u := hs.inc
  have ht : Formed t := Formed.ite hs.wf.wf.setBuf.setBufState (Formed.ite hu.wb.unitStrobe hu)
  split
  · exact Formed.ite ht.onCpt.fetchNext (Formed.ite ht.cptNotice ht.cptNotice)
  · exact ht.allocAnswer

protected theorem Formed.allocGroup (hs : Formed s) : Formed (allocGroup s) := by
  unfold allocGroup
  extract_lets _
  refine Formed.foldl_snd hs.onCpt fun u x h => ?_
  extract_lets t
  have ht : Formed t := h
  refine Formed.ite_of Prod.snd ?_ ?_
  · exact ht.cptResult
  · split
    · exact ht.onCpt
    · exact ht.cptResult

protected theorem Formed.grantDue (hs : Formed s) : Formed (grantDue s) := hs.foldl (fun _ _ h => h.onCpt.cptResult)

protected theorem Formed.cptTick (hs : Formed s) : Formed (cptTick s) :=
  Formed.ite hs.evTake hs.evTake.cptTick_hmpDropDone.allocGroup.grantDue.evStart

protected theorem Formed.cptRunTick (hs : Formed s) : Formed (cptRunTick s) := Formed.ite hs.runAll hs

protected theorem Formed.debugStops {k : Nat} (hs : Formed s) : Formed (debugStops s k) :=
  Formed.ite hs (Formed.ite hs.coreStop (Formed.ite hs.coreStop hs))

protected theorem Formed.unitsTick (hs : Formed s) : Formed (unitsTick s) := by
  unfold unitsTick
  extract_lets s1 s2 s3 s4 s5 s6 s7
  have hs1 : Formed s1 := hs.tripFilterTick.pulseTick.hspTick.handTick
  have hs2 : Formed s2 := hs1.sspTick
  have hs3 : Formed s3 := hs2.pneTick.wacTick
  have hs4 : Formed s4 := hs3.jneTick
  have hs5 : Formed s5 := hs4.svcTick.hmpDeliver
  have hs6 : Formed s6 := hs5.mlkTick.drvFollow
  have hs7 : Formed s7 := hs6.cptTick.cptRunTick
  exact hs7.pctlTick.forN (fun _ _ h => h.debugStops)

protected theorem Formed.tick (hs : Formed s) : Formed (tick s) :=
  Formed.ite hs.cycleOver.pctlTick (Formed.ite hs hs.cycleOver.mk.jtAdvance.unitsTick)

protected theorem Formed.step (hs : Formed s) : FormedOut (step s) := by
  unfold step
  split
  · exact FormedOut.next hs.tick
  · exact hs.mk.exec

end Formed

/-- Settles O3: a step is a command of `exec` or a `tick`, and each of the two keeps the form. -/
theorem memoryKeepsItsForm : Obligations.MemoryKeepsItsForm :=
  fun _ _ hs ht => Formed.step hs _ ht

end Sys2Proof.Machine

/-! The step, and the stack, literal, arithmetic, shift and bit-field instructions (R194 to R200). -/

namespace Sys2Proof.Machine

set_option Elab.async false

/-- Settles O1: the step is defined so. -/
theorem stepRunsFront : Obligations.StepRunsFront := by
  intro s c rest h
  simp [step, h]

/-! Instructions that replace operands by words. -/

/-- A short form that replaces its operands by words, the first deepest. -/
theorem stackIns_result {s : State} {k : Nat} {c : Instr} {ws : List Word} {opc opd n p : Nat} {cls : IClass}
    {f : Bank → List Word} (r : List Word) (h : Issues s k 1 ws) (hn : n ≤ ws.length) (hp : ws.length - n + p ≤ 32)
    (he : exec c s = runIns k (stackIns (sh opc opd) n p cls f) s) (hr : f (bankOf (fetched s k 1) k) = r) :
    StackResult c s k 1 (r.reverse ++ ws.drop n) :=
  hr ▸ stack_result s k (stackIns (sh opc opd) n p cls f) c ws n f h rfl (fun _ _ hg => nomatch hg) hn hp he
    (fun _ _ => ⟨1, rfl⟩)

/-- A long form that replaces its operands by words, the first deepest. -/
theorem stackInsL_result {s : State} {k : Nat} {ps : Fin 8} {sn bad : Bool} {c : Instr} {ws : List Word} {opc ext n p : Nat}
    {cls : IClass} {f : Bank → List Word} (r : List Word) (h : IssuesLong s k ps sn ws) (hbad : bad = false)
    (hn : n ≤ ws.length) (hp : ws.length - n + p ≤ 32)
    (he : exec c s = runIns k (stackInsL opc ps sn ext n p cls bad f) s) (hr : f (bankOf (fetched s k 2) k) = r) :
    StackResult c s k 2 (r.reverse ++ ws.drop n) := by
  obtain ⟨hissues, hguard, hpass⟩ := h
  refine hr ▸ stack_result s k (stackInsL opc ps sn ext n p cls bad f) c ws n f hissues ?_ ?_ hn hp he (fun _ _ => ⟨1, rfl⟩)
  · simp [stackInsL, hbad, hguard]
  · rintro _ _ ⟨⟩
    exact hpass

theorem Issues.length_le {s : State} {k n : Nat} {ws : List Word} (h : Issues s k n ws) : ws.length ≤ 32 := h.2.2

/-- TOS of a core that issues. -/
theorem Issues.tos {s : State} {k n : Nat} {a : Word} {ws : List Word} (h : Issues s k n (a :: ws)) :
    (bankOf (fetched s k n) k).peek 0 = a := h.peek 0 a rfl

/-- NOS of a core that issues. -/
theorem Issues.nos {s : State} {k n : Nat} {a b : Word} {ws : List Word} (h : Issues s k n (b :: a :: ws)) :
    (bankOf (fetched s k n) k).peek 1 = a := h.peek 1 a rfl

/-- A short form that replaces TOS. -/
theorem unary_result {s : State} {k : Nat} {c : Instr} {a : Word} {ws : List Word} {opc opd : Nat} {cls : IClass}
    {f : Bank → Word} {r : Word} (h : Issues s k 1 (a :: ws))
    (he : exec c s = runIns k (stackIns (sh opc opd) 1 1 cls (fun b => [f b])) s) (hr : f (bankOf (fetched s k 1) k) = r) :
    StackResult c s k 1 (r :: ws) :=
  stackIns_result [r] h (by simp) (by have := h.length_le; simp at this ⊢; omega) he (by rw [hr])

/-- A short form that replaces TOS and NOS by one word. -/
theorem binary_result {s : State} {k : Nat} {c : Instr} {a b : Word} {ws : List Word} {opc opd : Nat} {cls : IClass}
    {op : Word → Word → Word} {r : Word} (h : Issues s k 1 (b :: a :: ws))
    (he : exec c s = runIns k (stackIns (sh opc opd) 2 1 cls (fun x => [op (x.peek 1) (x.peek 0)])) s) (hr : op a b = r) :
    StackResult c s k 1 (r :: ws) :=
  stackIns_result [r] h (by simp) (by have := h.length_le; simp at this ⊢; omega) he (by rw [h.tos, h.nos, hr])

/-- A short form that pushes a word. -/
theorem push_result {s : State} {k : Nat} {c : Instr} {ws : List Word} {opc opd : Nat} {cls : IClass}
    {f : Bank → Word} {r : Word} (h : Issues s k 1 ws) (hws : ws.length < 32)
    (he : exec c s = runIns k (stackIns (sh opc opd) 0 1 cls (fun b => [f b])) s) (hr : f (bankOf (fetched s k 1) k) = r) :
    StackResult c s k 1 (r :: ws) :=
  stackIns_result [r] h (Nat.zero_le _) hws he (by rw [hr])

/-- A long form that replaces TOS. -/
theorem unaryLong_result {s : State} {k : Nat} {ps : Fin 8} {sn : Bool} {c : Instr} {a : Word} {ws : List Word}
    {opc ext : Nat} {bad : Bool} {op : Word → Word} {r : Word} (h : IssuesLong s k ps sn (a :: ws)) (hbad : bad = false)
    (he : exec c s = runIns k (stackInsL opc ps sn ext 1 1 .a bad (fun b => [op (b.peek 0)])) s) (hr : op a = r) :
    StackResult c s k 2 (r :: ws) :=
  stackInsL_result [r] h hbad (by simp) (by have := h.1.length_le; simp at this ⊢; omega) he (by rw [h.1.tos, hr])

/-! Words and integers. -/

theorem ofInt_toInt_add (a b : Word) : a + b = BitVec.ofInt 48 (a.toInt + b.toInt) := by
  rw [BitVec.ofInt_add, BitVec.ofInt_toInt, BitVec.ofInt_toInt]

theorem signExtend_eq_ofInt {n : Nat} (v : BitVec n) : v.signExtend 48 = BitVec.ofInt 48 v.toInt := rfl

/-- Adding a sign-extended immediate. -/
theorem add_signExtend {n : Nat} (hn : n ≤ 48) (a : Word) (v : BitVec n) :
    a + v.signExtend 48 = BitVec.ofInt 48 (a.toInt + v.toInt) := by
  rw [ofInt_toInt_add, BitVec.toInt_signExtend_of_le hn]

theorem zeroExtend_eq_ofNat (v : BitVec 16) : v.zeroExtend 48 = BitVec.ofNat 48 v.toNat := by
  apply BitVec.eq_of_toNat_eq; simp

/-- Shifting a word up and putting 16 bits in. -/
theorem shift_add_zeroExtend (a : Word) (v : BitVec 16) :
    (a <<< 16) + v.zeroExtend 48 = BitVec.ofNat 48 (a.toNat * 2 ^ 16 + v.toNat) := by
  apply BitVec.eq_of_toNat_eq
  simp [BitVec.toNat_add, BitVec.toNat_shiftLeft, Nat.shiftLeft_eq]

/-! Stack group and literals. -/

theorem stackGroup_results (s : State) (k : Fin 10) (a b c : Word) (ws : List Word) :
    (Issues s k 1 ws → StackResult (.nop k) s k 1 ws) ∧
    (Issues s k 1 (a :: ws) → ws.length < 31 → StackResult (.dup k) s k 1 (a :: a :: ws)) ∧
    (Issues s k 1 (a :: ws) → StackResult (.drop k) s k 1 ws) ∧
    (Issues s k 1 (b :: a :: ws) → StackResult (.swap k) s k 1 (a :: b :: ws)) ∧
    (Issues s k 1 (b :: a :: ws) → ws.length < 30 → StackResult (.over k) s k 1 (a :: b :: a :: ws)) ∧
    (Issues s k 1 (c :: b :: a :: ws) → StackResult (.rot k) s k 1 (a :: c :: b :: ws)) ∧
    (Issues s k 1 (b :: a :: ws) → StackResult (.nip k) s k 1 (b :: ws)) ∧
    (Issues s k 1 (b :: a :: ws) → ws.length < 30 → StackResult (.tuck k) s k 1 (b :: a :: b :: ws)) := by
  refine ⟨fun h => ?_, fun h hl => ?_, fun h => ?_, fun h => ?_, fun h hl => ?_, fun h => ?_, fun h => ?_, fun h hl => ?_⟩
  · exact stackIns_result (n := 0) (p := 0) [] h (Nat.zero_le _) h.length_le rfl rfl
  · exact stackIns_result (n := 1) (p := 2) [a, a] h (by simp) (by have := h.length_le; simp at this ⊢; omega) rfl (by rw [h.tos])
  · exact stackIns_result (n := 1) (p := 0) [] h (by simp) (by have := h.length_le; simp at this ⊢; omega) rfl rfl
  · exact stackIns_result (n := 2) (p := 2) [b, a] h (by simp) (by have := h.length_le; simp at this ⊢; omega) rfl (by rw [h.tos, h.nos])
  · exact stackIns_result (n := 2) (p := 3) [a, b, a] h (by simp) (by have := h.length_le; simp at this ⊢; omega) rfl (by rw [h.tos, h.nos])
  · exact stackIns_result (n := 3) (p := 3) [b, c, a] h (by simp) (by have := h.length_le; simp at this ⊢; omega) rfl (by rw [h.tos, h.nos, h.peek 2 a rfl])
  · exact stackIns_result (n := 2) (p := 1) [b] h (by simp) (by have := h.length_le; simp at this ⊢; omega) rfl (by rw [h.tos])
  · exact stackIns_result (n := 2) (p := 3) [b, a, b] h (by simp) (by have := h.length_le; simp at this ⊢; omega) rfl (by rw [h.tos, h.nos])

/-- Settles O4, instruction by instruction: the words that each pushes, from the entries it pops. -/
theorem stackAndLiterals : Obligations.StackAndLiterals := by
  refine ⟨stackGroup_results, fun s k a ws v w ps sn => ⟨fun h hl => ?_, fun h => ?_, fun h hl => ?_, fun h => ⟨?_, ?_, ?_, ?_, ?_⟩⟩⟩
  · exact push_result h hl rfl (signExtend_eq_ofInt v)
  · exact unary_result h rfl (by rw [h.tos, add_signExtend (by decide)])
  · exact stackInsL_result [_] h rfl (Nat.zero_le _) hl rfl rfl
  · exact unaryLong_result (op := fun x => (x <<< 16) + w.zeroExtend 48) h rfl rfl (shift_add_zeroExtend a w)
  · exact unaryLong_result (op := (· + w.signExtend 48)) h rfl rfl (add_signExtend (by decide) a w)
  · exact unaryLong_result (op := (· &&& w.zeroExtend 48)) h rfl rfl (congrArg (a &&& ·) (zeroExtend_eq_ofNat w))
  · exact unaryLong_result (op := (· ||| w.zeroExtend 48)) h rfl rfl (congrArg (a ||| ·) (zeroExtend_eq_ofNat w))
  · exact unaryLong_result (op := (· ^^^ w.zeroExtend 48)) h rfl rfl (congrArg (a ^^^ ·) (zeroExtend_eq_ofNat w))

/-! Arithmetic on words, as on integers. -/

theorem neg_eq_ofInt (a : Word) : -a = BitVec.ofInt 48 (-a.toInt) := by
  rw [BitVec.ofInt_neg, BitVec.ofInt_toInt]

theorem sub_eq_ofInt (a b : Word) : a - b = BitVec.ofInt 48 (a.toInt - b.toInt) := by
  rw [Int.sub_eq_add_neg, BitVec.ofInt_add, BitVec.ofInt_neg, BitVec.ofInt_toInt, BitVec.ofInt_toInt, BitVec.sub_eq_add_neg]

theorem abs_eq_ofInt (a : Word) : (if a.toInt < 0 then -a else a) = BitVec.ofInt 48 a.toInt.natAbs := by
  split
  · rw [neg_eq_ofInt]; congr 1; omega
  · rw [show (a.toInt.natAbs : Int) = a.toInt by omega, BitVec.ofInt_toInt]

theorem min_eq_ofInt (a b : Word) : (if a.toInt < b.toInt then a else b) = BitVec.ofInt 48 (min a.toInt b.toInt) := by
  split
  · rw [min_eq_left (by omega), BitVec.ofInt_toInt]
  · rw [min_eq_right (by omega), BitVec.ofInt_toInt]

theorem max_eq_ofInt (a b : Word) : (if a.toInt < b.toInt then b else a) = BitVec.ofInt 48 (max a.toInt b.toInt) := by
  split
  · rw [max_eq_right (by omega), BitVec.ofInt_toInt]
  · rw [max_eq_left (by omega), BitVec.ofInt_toInt]

theorem minu_eq_ofNat (a b : Word) : (if a.toNat < b.toNat then a else b) = BitVec.ofNat 48 (min a.toNat b.toNat) := by
  split
  · rw [min_eq_left (by omega), BitVec.ofNat_toNat, BitVec.setWidth_eq]
  · rw [min_eq_right (by omega), BitVec.ofNat_toNat, BitVec.setWidth_eq]

theorem maxu_eq_ofNat (a b : Word) : (if a.toNat < b.toNat then b else a) = BitVec.ofNat 48 (max a.toNat b.toNat) := by
  split
  · rw [max_eq_right (by omega), BitVec.ofNat_toNat, BitVec.setWidth_eq]
  · rw [max_eq_left (by omega), BitVec.ofNat_toNat, BitVec.setWidth_eq]

/-- Saturation is clamping to the range of n bits. -/
theorem satInt_fst (n : Nat) (i : Int) : (satInt n i).1 = if i < intMin n then intMin n else if intMax n < i then intMax n else i := by
  unfold satInt
  split
  · rfl
  · split <;> rfl

/-- The saturation of R195. -/
theorem satWord_eq (i : Int) : satWord i = BitVec.ofInt 48 (max (-2 ^ 47) (min (2 ^ 47 - 1) i)) := by
  rw [satWord, wordOfInt, satInt_fst]
  congr 1
  simp only [intMin, intMax]
  split_ifs <;> omega

/-- An arithmetic shift divides, rounding down (R196). -/
theorem sarW_eq_ofInt (a : Word) (n : Nat) : sarW a n = BitVec.ofInt 48 (a.toInt / 2 ^ n) := by
  rw [sarW, BitVec.sshiftRight_eq, Int.shiftRight_eq_div_pow, Int.natCast_pow]; rfl

/-- A word shifted by 48 or more keeps its sign alone. -/
theorem toInt_div_two_pow_48 (a : Word) : a.toInt / 2 ^ 48 = if a.toInt < 0 then -1 else 0 := by
  have hlo := BitVec.le_toInt a
  have hhi := BitVec.toInt_lt (x := a)
  split <;> omega

theorem sarvW_eq_ofInt (a : Word) (n : Nat) :
    (if n < 48 then sarW a n else if a.toInt < 0 then -1 else 0) = BitVec.ofInt 48 (a.toInt / 2 ^ min n 48) := by
  by_cases h : n < 48
  · rw [if_pos h, sarW_eq_ofInt, min_eq_left (by omega)]
  · rw [if_neg h, min_eq_right (by omega), toInt_div_two_pow_48]
    split <;> rfl

/-! Bits of fields (R200). -/

theorem testBit_bits (a : Word) (pos len i : Nat) : (bits a pos len).testBit i = (decide (i < len) && a.getLsbD (pos + i)) := by
  rw [bits, Nat.testBit_mod_two_pow, Nat.testBit_div_two_pow, Nat.add_comm, BitVec.getLsbD]

theorem bits_lt (a : Word) (pos len : Nat) : bits a pos len < 2 ^ len := Nat.mod_lt _ (Nat.two_pow_pos len)

/-- The bits of a word after a field was set. -/
theorem Fld.getLsbD_put (f : Fld) (h : f.fits = true) (w : Word) (v i : Nat) :
    (f.put w v).getLsbD i = if f.lo ≤ i ∧ i ≤ f.hi then v.testBit (i - f.lo) else w.getLsbD i := by
  have hlohi : f.lo ≤ f.hi := by
    simp only [Fld.fits, Bool.and_eq_true, decide_eq_true_eq] at h
    exact h.1
  have hput := (f.put_toNat h w v).1
  have hmid : 2 ^ f.lo * (v % f.span) + w.toNat % 2 ^ f.lo < 2 ^ (f.hi + 1) := by
    have hs : 2 ^ (f.hi + 1) = 2 ^ f.lo * f.span := by rw [Fld.span, ← Nat.pow_add]; congr 1; omega
    have hv : v % f.span < f.span := Nat.mod_lt _ (Nat.two_pow_pos _)
    have hr : w.toNat % 2 ^ f.lo < 2 ^ f.lo := Nat.mod_lt _ (Nat.two_pow_pos _)
    calc 2 ^ f.lo * (v % f.span) + w.toNat % 2 ^ f.lo
        < 2 ^ f.lo * (v % f.span + 1) := by rw [Nat.mul_succ]; omega
      _ ≤ 2 ^ (f.hi + 1) := hs ▸ Nat.mul_le_mul_left _ hv
  rw [Nat.mul_comm _ (2 ^ (f.hi + 1)), Nat.mul_comm _ (2 ^ f.lo), Nat.add_assoc] at hput
  rw [BitVec.getLsbD, hput, Nat.testBit_two_pow_mul_add _ hmid,
    Nat.testBit_two_pow_mul_add _ (Nat.mod_lt _ (Nat.two_pow_pos _)), Nat.testBit_div_two_pow, Nat.testBit_mod_two_pow,
    Fld.span, Nat.testBit_mod_two_pow, BitVec.getLsbD]
  rcases Nat.lt_or_ge i f.lo with hi | hi
  · rw [if_pos (by omega), if_pos hi, if_neg (by omega), decide_eq_true hi, Bool.true_and]
  · rcases Nat.lt_or_ge i (f.hi + 1) with hj | hj
    · rw [if_pos hj, if_neg (by omega), if_pos (by omega), decide_eq_true (by omega), Bool.true_and]
    · rw [if_neg (by omega), if_neg (by omega), Nat.sub_add_cancel hj]

theorem getLsbD_extu (a : Word) (pos len i : Nat) (hi : i < 48) :
    (BitVec.ofNat 48 (bits a pos len)).getLsbD i = (decide (i < len) && a.getLsbD (pos + i)) := by
  rw [BitVec.getLsbD_ofNat, testBit_bits, decide_eq_true hi, Bool.true_and]

/-- An n-bit number read as two's complement and widened to a word. -/
theorem wordOfInt_sgnOf {n v : Nat} (hn : 0 < n) (hv : v < 2 ^ n) :
    wordOfInt (sgnOf n v) = (BitVec.ofNat n v).signExtend 48 := by
  obtain ⟨m, rfl⟩ : ∃ m, n = m + 1 := ⟨n - 1, by omega⟩
  rw [signExtend_eq_ofInt, wordOfInt, sgnOf, BitVec.toInt_eq_toNat_cond, BitVec.toNat_ofNat, Nat.mod_eq_of_lt hv,
    Nat.add_sub_cancel, Nat.pow_succ]
  congr 1
  split <;> split <;> omega

theorem getLsbD_exts (a : Word) {pos n i : Nat} (hi : i < 48) :
    (wordOfInt (sgnOf (n + 1) (bits a pos (n + 1)))).getLsbD i = a.getLsbD (pos + min i n) := by
  rw [wordOfInt_sgnOf (Nat.succ_pos n) (bits_lt _ _ _), BitVec.getLsbD_signExtend, decide_eq_true hi, Bool.true_and,
    BitVec.msb_eq_getLsbD_last, BitVec.getLsbD_ofNat, BitVec.getLsbD_ofNat, testBit_bits, testBit_bits]
  rcases Nat.lt_or_ge i (n + 1) with h | h
  · simp [h, min_eq_left (Nat.le_of_lt_succ h)]
  · simp [min_eq_right (by omega : n ≤ i), Nat.not_lt.2 h]

theorem getLsbD_ins (a v : Word) {pos n : Nat} (h : pos + n < 48) (i : Nat) :
    ((Fld.mk (pos + n) pos).put a v.toNat).getLsbD i =
      if pos ≤ i ∧ i ≤ pos + n then v.getLsbD (i - pos) else a.getLsbD i :=
  Fld.getLsbD_put ⟨pos + n, pos⟩ (by simp [Fld.fits, h]) a v.toNat i

/-! The instructions. -/

theorem not_bfBad {pos len1 : Fin 64} (h : pos.val + len1.val < 48) : bfBad pos len1 = false := by
  simp [bfBad]; omega

/-- A shift by an immediate below 48. -/
theorem shift_result {s : State} {k : Nat} {c : Instr} {a : Word} {ws : List Word} {opc : Nat} {n : Fin 64}
    {op : Word → Nat → Word} {r : Word} (h : Issues s k 1 (a :: ws)) (hn : n.val < 48)
    (he : exec c s = runIns k (shiftIns opc n op) s) (hr : op a n.val = r) : StackResult c s k 1 (r :: ws) := by
  have hs := stack_result s k (shiftIns opc n op) c (a :: ws) 1 (fun b => [op (b.peek 0) n.val]) h
    (decide_eq_false (by omega)) (fun _ _ hg => nomatch hg) (by simp [shiftIns, stackIns])
    (by have := h.length_le; simp [shiftIns, stackIns] at this ⊢; omega) he (fun _ _ => ⟨1, rfl⟩)
  change StackResult c s k 1 ([op ((bankOf (fetched s k 1) k).peek 0) n.val].reverse ++ (a :: ws).drop 1) at hs
  rw [h.tos, hr] at hs
  exact hs

theorem shifts_results (s : State) (k : Fin 10) (a b : Word) (n : Fin 64) (ws : List Word) :
    (Issues s k 1 (a :: ws) → n.val < 48 →
      StackResult (.shl k n) s k 1 (a <<< n.val :: ws) ∧
      StackResult (.shr k n) s k 1 (a >>> n.val :: ws) ∧
      StackResult (.sar k n) s k 1 (BitVec.ofInt 48 (a.toInt / 2 ^ n.val) :: ws) ∧
      StackResult (.rol k n) s k 1 (a.rotateLeft n.val :: ws)) ∧
    (Issues s k 1 (b :: a :: ws) →
      StackResult (.shlv k) s k 1 ((if b.toNat < 48 then a <<< b.toNat else 0) :: ws) ∧
      StackResult (.shrv k) s k 1 ((if b.toNat < 48 then a >>> b.toNat else 0) :: ws) ∧
      StackResult (.sarv k) s k 1 (BitVec.ofInt 48 (a.toInt / 2 ^ min b.toNat 48) :: ws) ∧
      StackResult (.rolv k) s k 1 (a.rotateLeft (b.toNat % 48) :: ws)) := by
  refine ⟨fun h hn => ⟨?_, ?_, ?_, ?_⟩, fun h => ⟨?_, ?_, ?_, ?_⟩⟩
  · exact shift_result (op := shlW) h hn rfl rfl
  · exact shift_result (op := shrW) h hn rfl rfl
  · exact shift_result (op := sarW) h hn rfl (sarW_eq_ofInt a n)
  · exact shift_result (op := rolW) h hn rfl (by rw [rolW, Nat.mod_eq_of_lt hn])
  · exact binary_result (op := fun a b => if b.toNat < 48 then shlW a b.toNat else 0) h rfl rfl
  · exact binary_result (op := fun a b => if b.toNat < 48 then shrW a b.toNat else 0) h rfl rfl
  · exact binary_result (op := fun a b => if b.toNat < 48 then sarW a b.toNat else if a.toInt < 0 then -1 else 0) h rfl
      (sarvW_eq_ofInt a b.toNat)
  · exact binary_result (op := fun a b => rolW a b.toNat) h rfl rfl

theorem arithmetic_results (s : State) (k : Fin 10) (a b : Word) (ws : List Word) :
    (Issues s k 1 (b :: a :: ws) →
      StackResult (.add k) s k 1 (BitVec.ofInt 48 (a.toInt + b.toInt) :: ws) ∧
      StackResult (.sub k) s k 1 (BitVec.ofInt 48 (a.toInt - b.toInt) :: ws) ∧
      StackResult (.and k) s k 1 ((a &&& b) :: ws) ∧
      StackResult (.or k) s k 1 ((a ||| b) :: ws) ∧
      StackResult (.xor k) s k 1 ((a ^^^ b) :: ws) ∧
      StackResult (.andn k) s k 1 ((a &&& ~~~b) :: ws) ∧
      StackResult (.min k) s k 1 (BitVec.ofInt 48 (min a.toInt b.toInt) :: ws) ∧
      StackResult (.max k) s k 1 (BitVec.ofInt 48 (max a.toInt b.toInt) :: ws) ∧
      StackResult (.minu k) s k 1 (BitVec.ofNat 48 (min a.toNat b.toNat) :: ws) ∧
      StackResult (.maxu k) s k 1 (BitVec.ofNat 48 (max a.toNat b.toNat) :: ws) ∧
      StackResult (.addsat k) s k 1 (BitVec.ofInt 48 (max (-2 ^ 47) (min (2 ^ 47 - 1) (a.toInt + b.toInt))) :: ws) ∧
      StackResult (.subsat k) s k 1 (BitVec.ofInt 48 (max (-2 ^ 47) (min (2 ^ 47 - 1) (a.toInt - b.toInt))) :: ws)) ∧
    (Issues s k 1 (a :: ws) →
      StackResult (.neg k) s k 1 (BitVec.ofInt 48 (-a.toInt) :: ws) ∧
      StackResult (.abs k) s k 1 (BitVec.ofInt 48 a.toInt.natAbs :: ws) ∧
      StackResult (.not k) s k 1 (~~~a :: ws)) := by
  refine ⟨fun h => ⟨?_, ?_, ?_, ?_, ?_, ?_, ?_, ?_, ?_, ?_, ?_, ?_⟩, fun h => ⟨?_, ?_, ?_⟩⟩
  · exact binary_result (op := (· + ·)) h rfl (ofInt_toInt_add a b)
  · exact binary_result (op := (· - ·)) h rfl (sub_eq_ofInt a b)
  · exact binary_result (op := (· &&& ·)) h rfl rfl
  · exact binary_result (op := (· ||| ·)) h rfl rfl
  · exact binary_result (op := (· ^^^ ·)) h rfl rfl
  · exact binary_result (op := fun a b => a &&& ~~~b) h rfl rfl
  · exact binary_result (op := fun a b => if a.toInt < b.toInt then a else b) h rfl (min_eq_ofInt a b)
  · exact binary_result (op := fun a b => if a.toInt < b.toInt then b else a) h rfl (max_eq_ofInt a b)
  · exact binary_result (op := fun a b => if a.toNat < b.toNat then a else b) h rfl (minu_eq_ofNat a b)
  · exact binary_result (op := fun a b => if a.toNat < b.toNat then b else a) h rfl (maxu_eq_ofNat a b)
  · exact binary_result (op := fun a b => satWord (a.toInt + b.toInt)) h rfl (satWord_eq _)
  · exact binary_result (op := fun a b => satWord (a.toInt - b.toInt)) h rfl (satWord_eq _)
  · exact unary_result (f := fun b => -b.peek 0) h rfl (by rw [h.tos, neg_eq_ofInt])
  · exact unary_result (f := fun b => if (b.peek 0).toInt < 0 then -b.peek 0 else b.peek 0) h rfl (by rw [h.tos, abs_eq_ofInt])
  · exact unary_result (f := fun b => ~~~b.peek 0) h rfl (by rw [h.tos])

theorem ins_result {s : State} {k : Fin 10} {a v : Word} {ws : List Word} {ps : Fin 8} {sn : Bool} {pos len1 : Fin 64}
    (hfit : pos.val + len1.val < 48) (h : IssuesLong s k ps sn (v :: a :: ws)) :
    StackResult (.ins k ps sn pos len1) s k 2 ((Fld.mk (pos.val + len1.val) pos.val).put a v.toNat :: ws) :=
  stackInsL_result (n := 2) (p := 1) [_] h (not_bfBad hfit) (by simp) (by have := h.1.length_le; simp at this ⊢; omega) rfl
    (by rw [h.1.tos, h.1.nos])

/-- Settles O5: the word that each instruction pushes, as the integer or the bits that the rules give it. -/
theorem arithmeticAndBits : Obligations.ArithmeticAndBits := by
  refine ⟨arithmetic_results, shifts_results, fun s k a v ws ps sn pos len1 hfit => ⟨fun h => ⟨?_, ?_⟩, fun h => ?_⟩⟩
  · refine ⟨_, unaryLong_result (op := fun x => BitVec.ofNat 48 (bits x pos.val (len1.val + 1))) h (not_bfBad hfit) rfl rfl,
      fun i hi => ?_⟩
    rw [getLsbD_extu _ _ _ _ hi, decide_eq_decide.2 Nat.lt_succ_iff]
  · exact ⟨_, unaryLong_result (op := fun x => wordOfInt (sgnOf (len1.val + 1) (bits x pos.val (len1.val + 1)))) h
      (not_bfBad hfit) rfl rfl, fun i hi => getLsbD_exts a hi⟩
  · exact ⟨_, ins_result hfit h, fun i _ => getLsbD_ins a v hfit i⟩

end Sys2Proof.Machine

/-! The state right after power-on reset. -/

namespace Sys2Proof.Machine

set_option Elab.async false

/-- A property of all numbers below a * b, row by row. -/
theorem forall_lt_of_rows {P : Nat → Prop} {a b : Nat} (hb : 0 < b) (h : ∀ q < a, ∀ r < b, P (b * q + r)) :
    ∀ n < a * b, P n := fun n hn => by
  have hrow := h (n / b) (Nat.div_lt_of_lt_mul (Nat.mul_comm a b ▸ hn)) (n % b) (Nat.mod_lt n hb)
  rwa [Nat.div_add_mod] at hrow

theorem rf_reset_cvpSafests : ∀ n < 8, rf State.reset (cvpSafests n) cvpSafestsSAFE = 0xFFFFFFFF := by decide

/-- Every switch pair is safe after reset (R34). -/
theorem rnSafe_reset (p : Nat) (hp : p < 256) : rnSafe State.reset p = true := by
  have hbit : (2 ^ 32 - 1).testBit (p % 32) = true := by
    rw [Nat.testBit_two_pow_sub_one]
    exact decide_eq_true (Nat.mod_lt p (by decide))
  rw [rnSafe, rbit, rf_reset_cvpSafests _ (by omega)]
  exact hbit

theorem reset_dm : ∀ m < 16 * 16, rf State.reset (dmCfg m) dmCfgREACT = 1 ∧ rf State.reset (dmCfg m) dmCfgOWNER = 8 ∧
    rf State.reset (dmBud m) dmBudBUDGET = 0x10 := forall_lt_of_rows (by decide) (by decide)

theorem reset_semChcfg : ∀ n < 16 * 16, rf State.reset (semChcfg n) semChcfgOWNER = 0xF :=
  forall_lt_of_rows (by decide) (by decide)

theorem reset_intcSrc : ∀ n < 32 * 16, rf State.reset (intcSrc n) intcSrcSVCCORE = 0xF :=
  forall_lt_of_rows (by decide) (by decide)

theorem reset_ae : ∀ n < 8, ∀ j < 16, rf State.reset (aeHocfg n j) aeHocfgHON = 0x10 ∧
    rf State.reset (aeAdtcfg n j) aeAdtcfgMARGIN = 2 := by decide

/-- Settles O2: each value by evaluation, the long ranges row by row. -/
theorem resetValues : Obligations.ResetValues :=
  ⟨rfl, rfl, rfl, rfl, by decide, by decide, rnSafe_reset, by decide, by decide, by decide, rf_reset_cvpSafests, reset_ae,
    by decide, by decide, by decide, reset_dm, reset_semChcfg, reset_intcSrc, by decide, by decide, by decide, by decide,
    by decide, by decide, by decide, by decide, by decide, by decide, by decide, by decide, by decide, by decide, by decide⟩

end Sys2Proof.Machine

namespace Sys2Proof.Machine

set_option Elab.async false

/-! Instructions whose guard fails, and GRD (R188, R189). -/

/-- The machine after an instruction of `len` parcels has completed in state x: PC and issue bookkeeping moved on. -/
def completed (x : State) (k len e : Nat) (p : Option Prev) : State :=
  onDbg (setCore x k { coreOf x k with pc := pcAdd (coreOf x k).pc len, cyc := e, prev := p })
    (fun d => { d with skip := d.skip.erase k })

theorem coreOf_completed_same (x : State) (k len e : Nat) (p : Option Prev) :
    coreOf (completed x k len e p) k = { coreOf x k with pc := pcAdd (coreOf x k).pc len, cyc := e, prev := p } :=
  coreOf_setCore_same _ _ _

theorem coreOf_completed_other (x : State) {j k : Nat} (len e : Nat) (p : Option Prev) (h : j ≠ k) :
    coreOf (completed x k len e p) j = coreOf x j := coreOf_setCore_other _ _ h

theorem completed_sameBut (x : State) (k len e : Nat) (p : Option Prev) : SameBut [.cores, .dbg] x (completed x k len e p) :=
  ((setCore_sameBut x k _).mono (by simp)).trans ((onDbg_sameBut _ _).mono (by simp))

/-- A completion changes core k's PC and issue bookkeeping alone. -/
theorem coreIs_completed {l : List Part} {u x : State} {k : Nat} (len e : Nat) (p : Option Prev)
    (hpc : (coreOf x k).pc = (coreOf u k).pc) (ho : ∀ j, j ≠ k → coreOf x j = coreOf u j)
    (hx : SameBut (.cores :: .dbg :: l) u x) (hd : x.dbg = u.dbg) :
    CoreIs l u (completed x k len e p) k (pcAdd (coreOf u k).pc len) (coreOf x k) := by
  refine ⟨?_, fun m => ?_, fun j hj => ?_, hx.trans ((completed_sameBut x k len e p).mono (by simp)), ?_⟩
  · rw [coreOf_completed_same, hpc]
  · rw [coreOf_completed_same]; rfl
  · rw [coreOf_completed_other x len e p hj, ho j hj]
  · rw [← hd]; rfl

theorem SameBut.refl (l : List Part) (s : State) : SameBut l s s := by
  intro p _; cases p <;> simp [Part.same]

/-- The command of an instruction whose guard fails takes its skip path on the state after its fetch (R188). -/
theorem runIns_skip {s : State} {k : Nat} {i : Ins} {ws : List Word} {ps : Nat} {sn : Bool} (h : Issues s k i.parcels.length ws)
    (hi : i.illegal = false) (hg : i.guard = some (ps, sn))
    (hf : guardPass (bankOf (fetched s k i.parcels.length) k) ps sn = false) :
    runIns k i s = .next (finish (fetched s k i.parcels.length) k (issueCycle s k i) (pairsNow (coreOf s k) i) i
      (i.skip (fetched s k i.parcels.length) k)) := by
  rw [runIns_issuable s k i h.1]
  simp only [bankOf] at hf
  simp [checkAndRun, hi, guardsPass, hg, hf]

/-- An instruction whose guard fails completes in a state x that differs from the fetched one in the parts of `l` alone. -/
theorem skipped_coreIs {l : List Part} {s : State} {k : Nat} {i : Ins} {c : Instr} {ws : List Word} {ps : Nat} {sn : Bool} {x : State}
    {cost : Nat} (h : Issues s k i.parcels.length ws) (hi : i.illegal = false) (hg : i.guard = some (ps, sn))
    (hf : guardPass (bankOf (fetched s k i.parcels.length) k) ps sn = false) (he : exec c s = runIns k i s)
    (hskip : i.skip (fetched s k i.parcels.length) k = .done x cost)
    (hc : coreOf x = coreOf (fetched s k i.parcels.length)) (hl : coreLive x k = true)
    (hx : SameBut (.cores :: .dbg :: l) (fetched s k i.parcels.length) x) (hd : x.dbg = (fetched s k i.parcels.length).dbg) :
    Runs c s (fun t => CoreIs l (fetched s k i.parcels.length) t k
      (pcAdd (coreOf (fetched s k i.parcels.length) k).pc i.parcels.length) (coreOf (fetched s k i.parcels.length) k)) := by
  have hready := h.ready
  obtain ⟨-, -, -, -, -, hwp, -⟩ := (coreReady_iff _ k).1 hready
  obtain ⟨e, p, hfin⟩ := finish_done_eq (fetched s k i.parcels.length) x k (issueCycle s k i) (pairsNow (coreOf s k) i) i cost
    (by rw [hc]; exact Core.between_of_ready _ k hready) hl (by rw [hd]; exact hwp)
  have hrun : runIns k i s = .next (completed x k i.parcels.length e p) := by
    rw [runIns_skip h hi hg hf, hskip, hfin]; rfl
  have hres := coreIs_completed (l := l) (u := fetched s k i.parcels.length) (x := x) (k := k) i.parcels.length e p (by rw [hc])
    (fun j _ => by rw [hc]) hx hd
  rw [hc] at hres
  exact ⟨_, he.trans hrun, hres⟩

/-- The bank in use is as it was where the core is. -/
theorem CoreIs.operands_eq {l : List Part} {u t : State} {k : Nat} {pc : Word} (h : CoreIs l u t k pc (coreOf u k)) :
    operands t k = operands u k := by
  obtain ⟨hcore, hbank, -⟩ := h
  have hlvl : (coreOf t k).lvl = (coreOf u k).lvl := by rw [hcore]
  rw [operands, operands, bankOf, bankOf, Core.cur, Core.cur, hbank, hlvl]

/-- Writing a bank back with its own stack changes no bank. -/
theorem Core.bank_withCur_self (c : Core) (m : Nat) :
    (c.withCur (fun b => { b with ost := c.cur.ost, osp := c.cur.osp })).bank m = c.bank m := by
  by_cases h : m = c.lvl
  · subst h; exact Core.bank_setBank_same c c.lvl _
  · exact Core.bank_setBank_other c _ h

/-- A core that is as it was has the operands that it had. -/
theorem stackResult_of_steps {c : Instr} {s : State} {k n : Nat} {ws : List Word} (h : Issues s k n ws)
    (hr : Runs c s (fun t => Steps (fetched s k n) t k n (coreOf (fetched s k n) k))) : StackResult c s k n ws := by
  obtain ⟨t, ht, hres⟩ := hr
  obtain ⟨hcore, hbank, hrest⟩ := id hres
  refine ⟨t, ht, ?_, (coreOf (fetched s k n) k).cur.ost, (coreOf (fetched s k n) k).cur.osp, hcore, fun m => ?_, hrest⟩
  · rw [hres.operands_eq, h.2.1]
  · rw [hbank, Core.bank_withCur_self]

/-- A long form whose guard fails, and whose skip path changes nothing, moves the PC on alone (R188). -/
theorem skip_result {s : State} {k : Nat} (i : Ins) {c : Instr} {ws : List Word} {ps : Fin 8} {sn : Bool} (h : Issues s k 2 ws)
    (hf : guardPass (bankOf (fetched s k 2) k) ps.val sn = false) (hn : i.parcels.length = 2) (hg : i.guard = lgGuard ps sn)
    (he : exec c s = runIns k i s) (hi : i.illegal = false) (hskip : ∀ u, ∃ cost, i.skip u k = .done u cost) :
    StackResult c s k 2 ws := by
  refine stackResult_of_steps h ?_
  obtain ⟨cost, hs⟩ := hskip (fetched s k i.parcels.length)
  rw [← hn] at h hf
  obtain ⟨hlive, -⟩ := (coreReady_iff _ k).1 h.ready
  obtain ⟨t, ht, hres⟩ := skipped_coreIs (l := []) h hi hg hf he hs rfl hlive (SameBut.refl _ _) rfl
  rw [hn] at hres
  exact ⟨t, ht, hres⟩

/-- Drawing the free value of a prediction changes the free values alone. -/
theorem predicted_sameBut (s : State) : SameBut [.cores, .dbg, .free] s (predicted s).2 := by
  intro p hp; cases p <;> simp [Part.same, predicted, freshBit, fresh] at hp ⊢

/-- A conditional transfer that is not taken leaves all but the free values as it was (R228, R229). -/
theorem notTaken_done (fixed back : Bool) (s : State) (k : Nat) : ∃ x cost, notTaken fixed back s k = .done x cost ∧
    coreOf x = coreOf s ∧ coreLive x k = coreLive s k ∧ SameBut [.cores, .dbg, .free] s x ∧ x.dbg = s.dbg := by
  unfold notTaken
  dsimp only
  split
  · exact ⟨_, _, rfl, rfl, rfl, predicted_sameBut s, rfl⟩
  · exact ⟨_, _, rfl, rfl, rfl, SameBut.refl _ _, rfl⟩

/-- A relative transfer in long form whose guard fails. -/
theorem brlIns_skipped {s : State} {k opc : Nat} {c : Instr} {ws : List Word} {ps : Fin 8} {sn : Bool} {off : BitVec 16}
    {fr : Frames} (h : Issues s k 2 ws) (hb : badGuard ps sn = false)
    (hf : guardPass (bankOf (fetched s k 2) k) ps.val sn = false) (he : exec c s = runIns k (brlIns opc ps sn off fr) s) :
    Runs c s (fun t => operands t k = ws ∧
      CoreIs [.free] (fetched s k 2) t k (pcAdd (coreOf (fetched s k 2) k).pc 2) (coreOf (fetched s k 2) k)) := by
  obtain ⟨x, cost, hs, hcore, hlive, hx, hd⟩ := notTaken_done false (decide (off.toInt ≤ 0)) (fetched s k 2) k
  obtain ⟨hl, -⟩ := (coreReady_iff _ k).1 h.ready
  obtain ⟨t, ht, hres⟩ := skipped_coreIs (l := [.free]) (i := brlIns opc ps sn off fr) h hb rfl hf he hs hcore
    (hlive.trans hl) hx hd
  exact ⟨t, ht, hres.operands_eq.trans h.2.1, hres⟩

/-- What comes before an instruction lets it go on (R178). -/
theorem atBoundary_ready {s : State} {k : Nat} (pairs : Core → Bool) (go : State → State) (ends : Bool)
    (h : coreReady s k = true) : atBoundary k pairs s go ends = go s := by
  obtain ⟨h1, h2, h3, h4, h5, h6, h7, -, h9, -, -, -, -, -, -, -, h17, -⟩ := (coreReady_iff s k).1 h
  have ha : asyncDue s k = false := by simp [asyncDue, h3]
  have hw : wpSeen s k = false := h6
  have hp : passOpen s k = s := by simp [passOpen, h2]
  have ho : entryOver s k = s := by simp [entryOver, h17]
  simp only [atBoundary, hp, h1, h2, takeAsyncs_none s k h4, ha, h5, hw, h7, h9, h17]
  simp [ho]

/-- A core that was ready, after a GRD. -/
def Core.covered (c : Core) (cnt ps : Nat) (sn : Bool) : Core :=
  { c with pc := pcAdd c.pc 1, gps := ps, gsn := sn, grem := cnt + 1, gpc := some c.pc }

/-- A GRD that may issue covers the instructions after it. -/
theorem issueGrd_ready {s : State} {k : Nat} (cnt ps : Nat) (sn : Bool) (h : issuable s k 1 = true) :
    issueGrd k cnt ps sn s =
      onDbg (setCore (fetched s k 1) k ((coreOf (fetched s k 1) k).covered cnt ps sn))
        (fun d => { d with skip := d.skip.erase k }) := by
  simp only [issuable, Bool.and_eq_true] at h
  obtain ⟨⟨-, hfetch⟩, hready⟩ := h
  obtain ⟨-, -, -, -, -, -, -, -, -, hgrem, -, hbegun, hgot, hlend, -⟩ := (coreReady_iff _ k).1 hready
  have hwrap : (coreOf (fetched s k 1) k).wrapBad = false := by simp [Core.wrapBad, hlend]
  simp only [Core.unbegun, Bool.and_eq_true, beq_iff_eq, Option.isNone_iff_eq_none, List.isEmpty_iff] at hbegun
  obtain ⟨⟨hstep, hhdr⟩, hhold⟩ := hbegun
  have hguarded : (coreOf (fetched s k 1) k).guarded cnt ps sn = (coreOf (fetched s k 1) k).covered cnt ps sn := by
    simp [Core.guarded, Core.covered, Core.advance, Core.settled, hlend, hstep, hhdr, hhold, hgot]
  simp only [issueGrd, fetchIns_atHand s k 1 _ hfetch]
  simp [hgrem, hwrap, hguarded]

/-- R189: GRD. -/
theorem grd_result {s : State} {k : Fin 10} (cnt : Fin 4) (sn : Bool) (ps : Fin 8) (h : issuable s k 1 = true) :
    Runs (.grd k cnt sn ps) s (fun t =>
      Steps (fetched s k 1) t k 1 { coreOf (fetched s k 1) k with
        gps := ps.val, gsn := sn, grem := cnt.val + 1, gpc := some (coreOf (fetched s k 1) k).pc } ∧
      (coreOf t k).cyc = (coreOf (fetched s k 1) k).cyc) := by
  have hready : coreReady s k = true := by
    simp only [issuable, Bool.and_eq_true] at h
    exact h.1.1
  have he : exec (.grd k cnt sn ps) s = .next (issueGrd k cnt ps sn s) :=
    congrArg Host.Outcome.next (atBoundary_ready Core.openPair _ false hready)
  rw [issueGrd_ready cnt ps sn h] at he
  generalize fetched s k 1 = u at he ⊢
  generalize hd : (coreOf u k).covered cnt ps sn = d at he
  have hcore : coreOf (onDbg (setCore u k d) (fun d => { d with skip := d.skip.erase k })) k = d := coreOf_setCore_same _ _ _
  refine ⟨_, he, ⟨?_, fun m => ?_, fun j hj => coreOf_setCore_other _ _ hj, ?_, rfl⟩, ?_⟩
  · rw [hcore, ← hd]; rfl
  · rw [hcore, ← hd]; rfl
  · exact ((setCore_sameBut u k d).mono (by simp)).trans ((onDbg_sameBut _ _).mono (by simp))
  · rw [hcore, ← hd]; rfl

/-- Settles O6: a failing guard takes the skip path of its instruction, and GRD sets the coverage. -/
theorem guards : Obligations.Guards := by
  refine ⟨fun s k ws ps d sn endLong w t q r cc pos len1 n steps l h hb hf hcc hfit hw => ?_, fun s k ws ps sn w h hb hf => ?_,
    fun s k cnt sn ps h => grd_result cnt sn ps h⟩
  · have hskip : ∀ {c : Instr} (i : Ins), i.parcels.length = 2 → i.guard = lgGuard ps sn → exec c s = runIns k i s →
        i.illegal = false → (∀ u, ∃ cost, i.skip u k = .done u cost) → StackResult c s k 2 ws :=
      fun i hn hg he hi hs => skip_result i h hf hn hg he hi hs
    have hbf : (bfBad pos len1 || badGuard ps sn) = false := by rw [not_bfBad hfit, hb]; rfl
    simp only [List.forall_mem_cons]
    refine ⟨?_, ?_, ?_, ?_, ?_, ?_, ?_, ?_, ?_, ?_, ?_, ?_, ?_, ?_, ?_, ?_, ?_, ?_, ?_, ?_, ?_, ?_, ?_, ?_, ?_, ?_, ?_, fun _ hc => nomatch hc⟩
    · exact hskip (insLit16 ps sn w) rfl rfl rfl hb (fun _ => ⟨_, rfl⟩)
    · exact hskip (insLitx16 ps sn w) rfl rfl rfl hb (fun _ => ⟨_, rfl⟩)
    · exact hskip (insAddi16 ps sn w) rfl rfl rfl hb (fun _ => ⟨_, rfl⟩)
    · exact hskip (insAndi16 ps sn w) rfl rfl rfl hb (fun _ => ⟨_, rfl⟩)
    · exact hskip (insOri16 ps sn w) rfl rfl rfl hb (fun _ => ⟨_, rfl⟩)
    · exact hskip (insXori16 ps sn w) rfl rfl rfl hb (fun _ => ⟨_, rfl⟩)
    · exact hskip (insExtu ps sn pos len1) rfl rfl rfl hbf (fun _ => ⟨_, rfl⟩)
    · exact hskip (insExts ps sn pos len1) rfl rfl rfl hbf (fun _ => ⟨_, rfl⟩)
    · exact hskip (insIns ps sn pos len1) rfl rfl rfl hbf (fun _ => ⟨_, rfl⟩)
    · exact hskip (insRndaccs ps sn pos d) rfl rfl rfl hb (fun _ => ⟨_, rfl⟩)
    · exact hskip (insCmpi ps sn cc d w) rfl rfl rfl (by rw [insCmpi, hb, decide_eq_false (by omega)]; rfl) (fun _ => ⟨_, rfl⟩)
    · exact hskip (insLdwd ps sn t w) rfl rfl rfl hb (fun _ => ⟨_, rfl⟩)
    · exact hskip (insStwd ps sn t w) rfl rfl rfl hb (fun _ => ⟨_, rfl⟩)
    · exact hskip (insLdwxd ps sn t w) rfl rfl rfl hb (fun _ => ⟨_, rfl⟩)
    · exact hskip (insStwxd ps sn t w) rfl rfl rfl hb (fun _ => ⟨_, rfl⟩)
    · exact hskip (insLoop ps sn w endLong) rfl rfl rfl (by rw [insLoop, hb, decide_eq_false (by omega)]; rfl) (fun _ => ⟨_, rfl⟩)
    · exact hskip (insRdsr ps sn t n) rfl rfl rfl hb (fun _ => ⟨_, rfl⟩)
    · exact hskip (insWrsr ps sn t n) rfl rfl rfl hb (fun _ => ⟨_, rfl⟩)
    · exact hskip (insBmove ps sn t q steps) rfl rfl rfl hb (fun _ => ⟨_, rfl⟩)
    · exact hskip (insSavel ps sn t steps) rfl rfl rfl hb (fun _ => ⟨_, rfl⟩)
    · exact hskip (insSaveu ps sn t steps) rfl rfl rfl hb (fun _ => ⟨_, rfl⟩)
    · exact hskip (insRestl ps sn t steps) rfl rfl rfl hb (fun _ => ⟨_, rfl⟩)
    · exact hskip (insRestu ps sn t steps) rfl rfl rfl hb (fun _ => ⟨_, rfl⟩)
    · exact hskip (insTseal ps sn t q r) rfl rfl rfl hb (fun _ => ⟨_, rfl⟩)
    · exact hskip (insTunseal ps sn t q r) rfl rfl rfl hb (fun _ => ⟨_, rfl⟩)
    · exact hskip (insTsete ps sn cc q r) rfl rfl rfl (by rw [insTsete, hb, decide_eq_false (by omega)]; rfl) (fun _ => ⟨_, rfl⟩)
    · exact hskip (insTsetct ps sn l q r) rfl rfl rfl hb (fun _ => ⟨_, rfl⟩)
  · simp only [List.forall_mem_cons]
    exact ⟨brlIns_skipped h hb hf rfl, brlIns_skipped h hb hf rfl, brlIns_skipped h hb hf rfl, fun _ hc => nomatch hc⟩

end Sys2Proof.Machine

/-! The multiplier and the accumulator (R175, R204 to R206). -/

namespace Sys2Proof.Machine

set_option Elab.async false

/-! An instruction whose body completes. -/

/-- An instruction whose body, run in its issue cycle, completes in a state x that is as it was but for the parts of `l`,
with core k between instructions. -/
theorem done_result {l : List Part} {s : State} {k : Nat} (i : Ins) {c : Instr} {ws : List Word} {x : State} {cost : Nat}
    (h : Issues s k i.parcels.length ws) (hi : i.illegal = false)
    (hg : ∀ p sn, i.guard = some (p, sn) → guardPass (bankOf (fetched s k i.parcels.length) k) p sn = true)
    (hc : i.c ≤ ws.length) (hp : ws.length - i.c + i.p ≤ 32) (he : exec c s = runIns k i s)
    (hbody : i.body (issued s k i.parcels.length) k (issueCycle s k i) = .done x cost)
    (hb : (coreOf x k).between = true) (hl : coreLive x k = true)
    (hpc : (coreOf x k).pc = (coreOf (fetched s k i.parcels.length) k).pc)
    (ho : ∀ j, j ≠ k → coreOf x j = coreOf (fetched s k i.parcels.length) j)
    (hx : SameBut (.cores :: .dbg :: l) (fetched s k i.parcels.length) x) (hd : x.dbg = (fetched s k i.parcels.length).dbg) :
    Runs c s (fun t => (∃ e p, t = completed x k i.parcels.length e p) ∧
      CoreIs l (fetched s k i.parcels.length) t k
        (pcAdd (coreOf (fetched s k i.parcels.length) k).pc i.parcels.length) (coreOf x k)) := by
  obtain ⟨-, -, -, -, -, hwp, -⟩ := (coreReady_iff _ k).1 h.ready
  obtain ⟨e, p, hfin⟩ := finish_done_eq (fetched s k i.parcels.length) x k (issueCycle s k i) (pairsNow (coreOf s k) i) i cost
    hb hl (by rw [hd]; exact hwp)
  refine ⟨completed x k i.parcels.length e p, ?_, ⟨e, p, rfl⟩, coreIs_completed _ e p hpc ho hx hd⟩
  rw [he, runIns_body s k i ws h hi hg hc hp, hbody, hfin]; rfl

/-- State x is u but for core k, which is c. -/
structure OnlyCore (u x : State) (k : Nat) (c : Core) : Prop where
  core : coreOf x k = c
  others : ∀ j, j ≠ k → coreOf x j = coreOf u j
  parts : SameBut [.cores] u x

theorem OnlyCore.setCore {u x : State} {k : Nat} {c : Core} (h : OnlyCore u x k c) (d : Core) :
    OnlyCore u (setCore x k d) k d :=
  ⟨coreOf_setCore_same _ _ _, fun j hj => (coreOf_setCore_other _ _ hj).trans (h.others j hj), h.parts.trans (setCore_sameBut _ _ _)⟩

theorem OnlyCore.onBank {u x : State} {k : Nat} {c : Core} (h : OnlyCore u x k c) (f : Bank → Bank) :
    OnlyCore u (onBank x k f) k (c.withCur f) := by
  rw [Machine.onBank, h.core]
  exact h.setCore _

/-- An operation that is launched is the core's only one in flight where there was none. -/
theorem OnlyCore.launch {u x : State} {k : Nat} {c : Core} (h : OnlyCore u x k c) (hl : c.lands = []) (now d : Nat) (op : LandOp) :
    OnlyCore u (launch x k now d op) k { c with lands := [⟨c.lvl, now + d, op⟩] } := by
  rw [Machine.launch, h.core, hl]
  exact h.setCore _

theorem onlyCore_issued (s : State) (k n : Nat) : OnlyCore (fetched s k n) (issued s k n) k (coreOf (fetched s k n) k) :=
  ⟨coreOf_issued _ _ _ _, fun _ _ => coreOf_issued _ _ _ _, issued_sameBut _ _ _⟩

/-- Parts on which every register depends. -/
theorem SameBut.rd_eq {l : List Part} {s t : State} (h : SameBut l s t) (hr : Part.regs ∉ l) (hp : Part.par ∉ l) (hl : Part.lvl ∉ l)
    (a : Nat) : rd t a = rd s a := by
  have hregs : t.regs = s.regs ∧ t.sets = s.sets := h .regs hr
  have hpar : t.par = s.par := h .par hp
  have hlvl : t.lvl = s.lvl := h .lvl hl
  rw [rd, hregs.1, hpar, hlvl, rd]

theorem OnlyCore.coreLive_eq {u x : State} {k : Nat} {c : Core} (h : OnlyCore u x k c) (hr : c.run = (coreOf u k).run)
    (hl : c.locked = (coreOf u k).locked) (hs : c.stopped = (coreOf u k).stopped) : coreLive x k = coreLive u k := by
  have hrun : x.running = u.running := h.parts .running (by simp)
  have hrd : ∀ a, rd x a = rd u a := h.parts.rd_eq (by simp) (by simp) (by simp)
  simp only [coreLive, h.core, hrun, hr, hl, hs, pdOn, rf, hrd]

/-- An instruction whose body completes with core k's record made `f` of it, and nothing else changed. -/
theorem core_result_at {s : State} {k : Nat} (i : Ins) {c : Instr} {ws : List Word} {x : State} {f : Core → Core} {cost : Nat}
    (h : Issues s k i.parcels.length ws) (hi : i.illegal = false)
    (hg : ∀ p sn, i.guard = some (p, sn) → guardPass (bankOf (fetched s k i.parcels.length) k) p sn = true)
    (hc : i.c ≤ ws.length) (hp : ws.length - i.c + i.p ≤ 32) (he : exec c s = runIns k i s)
    (hbody : i.body (issued s k i.parcels.length) k (issueCycle s k i) = .done x cost)
    (hx : OnlyCore (fetched s k i.parcels.length) x k (f (coreOf (fetched s k i.parcels.length) k)))
    (hb : (f (coreOf (fetched s k i.parcels.length) k)).between = true)
    (hpc : (f (coreOf (fetched s k i.parcels.length) k)).pc = (coreOf (fetched s k i.parcels.length) k).pc)
    (hr : (f (coreOf (fetched s k i.parcels.length) k)).run = (coreOf (fetched s k i.parcels.length) k).run)
    (hl : (f (coreOf (fetched s k i.parcels.length) k)).locked = (coreOf (fetched s k i.parcels.length) k).locked)
    (hs : (f (coreOf (fetched s k i.parcels.length) k)).stopped = (coreOf (fetched s k i.parcels.length) k).stopped) :
    CoreResult c s k i.parcels.length f := by
  obtain ⟨hlive, -⟩ := (coreReady_iff _ k).1 h.ready
  obtain ⟨t, ht, -, hres⟩ := done_result (l := []) i h hi hg hc hp he hbody (by rw [hx.core]; exact hb)
    ((hx.coreLive_eq hr hl hs).trans hlive) (by rw [hx.core]; exact hpc) hx.others (hx.parts.mono (by simp))
    (hx.parts .dbg (by simp))
  rw [hx.core] at hres
  exact ⟨t, ht, hres⟩

/-- An instruction that pops its operands and starts an operation (R175). -/
theorem launch_result {s : State} {k : Nat} (i : Ins) {c : Instr} {ws : List Word} {d : Nat} (op : LandOp)
    (hn : i.parcels.length = 1) (h : Issues s k 1 ws) (hi : i.illegal = false) (hg : i.guard = none) (hc : i.c ≤ ws.length)
    (hp : i.p = 0) (he : exec c s = runIns k i s)
    (hbody : ∀ now, i.body (issued s k 1) k now = fin1 (launch (onBank (issued s k 1) k (fun b => b.drop i.c)) k now d op)) :
    CoreResult c s k 1 (fun c => { c.withCur (fun b => b.drop i.c) with lands := [⟨c.lvl, issueCycle s k i + d, op⟩] }) := by
  have hlen := h.length_le
  rw [← hn] at h ⊢
  rw [← hn] at hbody
  have hready := h.ready
  obtain ⟨-, -, -, -, -, -, -, -, -, -, -, -, -, -, hlands, -⟩ := (coreReady_iff _ k).1 hready
  exact core_result_at (f := fun c => { c.withCur (fun b => b.drop i.c) with lands := [⟨c.lvl, issueCycle s k i + d, op⟩] })
    i h hi (fun p sn hs => by rw [hg] at hs; exact nomatch hs) hc (by omega) he (hbody _)
    (((onlyCore_issued s k _).onBank (fun b => b.drop i.c)).launch hlands _ d op)
    (between_withCur _ k (fun b => b.drop i.c) hready rfl rfl) rfl rfl rfl rfl

/-- The only operation in flight lands when it is due. -/
theorem landUpTo_single {c : Core} {l due : Nat} {op : LandOp} (h : c.lands = [⟨l, due, op⟩]) (m : Nat) :
    (c.landUpTo m).bank l = if due ≤ m then (c.bank l).land op else c.bank l := by
  simp only [Core.landUpTo, h, List.foldl_cons, List.foldl_nil]
  split
  · exact Core.bank_setBank_same c l _
  · rfl

/-! What lands. -/

theorem high_ofInt (i : Int) : ((BitVec.ofInt 96 i) >>> 48).setWidth 48 = BitVec.ofInt 48 (i / 2 ^ 48) := by
  apply BitVec.eq_of_toNat_eq
  simp only [BitVec.toNat_setWidth, BitVec.toNat_ushiftRight, BitVec.toNat_ofInt, Nat.shiftRight_eq_div_pow]
  omega

theorem low_ofInt (i : Int) : (BitVec.ofInt 96 i).setWidth 48 = BitVec.ofInt 48 i := by
  apply BitVec.eq_of_toNat_eq
  simp only [BitVec.toNat_setWidth, BitVec.toNat_ofInt]
  omega

/-- A product goes to PH:PL (R204). -/
theorem land_product (b : Bank) (i : Int) :
    b.land (product i) = { b with ph := BitVec.ofInt 48 (i / 2 ^ 48), pl := BitVec.ofInt 48 i } := by
  rw [product, Bank.land, high_ofInt, low_ofInt]

/-- The accumulator after a sum, modulo 2^112, with its overflow (R205). -/
def Bank.accumulate (b : Bank) (x : Int) : Bank :=
  { b with acc := BitVec.ofInt 112 (b.acc.toInt + x),
           accOvf := b.accOvf || (b.acc.toInt + x < -2 ^ 111 || 2 ^ 111 ≤ b.acc.toInt + x) }

theorem toInt_ofInt_112 {x : Int} (h1 : -2 ^ 111 ≤ x) (h2 : x < 2 ^ 111) : (BitVec.ofInt 112 x).toInt = x :=
  BitVec.toInt_ofInt_eq_self (by decide) h1 h2

/-- A sum overflows ACC where its value is out of range. -/
theorem overflow_iff (t : Int) : (t != (BitVec.ofInt 112 t).toInt) = (decide (t < -2 ^ 111) || decide (2 ^ 111 ≤ t)) := by
  have hlo := BitVec.le_toInt (BitVec.ofInt 112 t)
  have hhi := BitVec.toInt_lt (x := BitVec.ofInt 112 t)
  rw [← Bool.decide_or]
  by_cases h : t < -2 ^ 111 ∨ 2 ^ 111 ≤ t
  · rw [decide_eq_true h, bne_iff_ne]
    omega
  · rw [decide_eq_false h, toInt_ofInt_112 (by omega) (by omega), bne_self_eq_false]

theorem land_add (b : Bank) {x : Int} (h1 : -2 ^ 111 ≤ x) (h2 : x < 2 ^ 111) :
    b.land (.add (BitVec.ofInt 112 x)) = b.accumulate x := by
  simp only [Bank.land, toInt_ofInt_112 h1 h2, overflow_iff, Bank.accumulate]

/-- A signed product of words is small beside ACC. -/
theorem smul_bounds (a b : Word) : -2 ^ 94 ≤ smul a b ∧ smul a b ≤ 2 ^ 94 := by
  have ha := BitVec.le_toInt a
  have ha' := BitVec.toInt_lt (x := a)
  have hb := BitVec.le_toInt b
  have hb' := BitVec.toInt_lt (x := b)
  rw [← abs_le, smul, abs_mul]
  calc |a.toInt| * |b.toInt| ≤ 2 ^ 47 * 2 ^ 47 :=
        mul_le_mul (abs_le.2 ⟨by omega, by omega⟩) (abs_le.2 ⟨by omega, by omega⟩) (abs_nonneg _) (by positivity)
    _ = 2 ^ 94 := by norm_num

/-! The instructions that start an operation. -/

/-- Command c starts, on core k, an operation that makes the bank `f` of it d cycles after its issue, popping `pops`
operands (R175). -/
def Lands (c : Instr) (s : State) (k pops d : Nat) (f : Bank → Bank) : Prop := ∃ now op,
  (now = (coreOf (fetched s k 1) k).cyc ∨ ∃ p, (coreOf (fetched s k 1) k).prev = some p ∧ now = p.cyc) ∧
  CoreResult c s k 1 (fun c => { c.withCur (fun b => b.drop pops) with lands := [⟨c.lvl, now + d, op⟩] }) ∧
  (∀ b : Bank, b.land op = f b) ∧
  (∀ c1 : Core, c1.lands = [⟨(coreOf (fetched s k 1) k).lvl, now + d, op⟩] → ∀ m,
    (c1.landUpTo m).bank (coreOf (fetched s k 1) k).lvl =
      if now + d ≤ m then f (c1.bank (coreOf (fetched s k 1) k).lvl) else c1.bank (coreOf (fetched s k 1) k).lvl)

theorem lands_of_launch {s : State} {k : Nat} (i : Ins) {c : Instr} {ws : List Word} {d n : Nat} {f : Bank → Bank} (op : LandOp)
    (hn : i.parcels.length = 1) (h : Issues s k 1 ws) (hi : i.illegal = false) (hg : i.guard = none) (hcn : i.c = n)
    (hc : n ≤ ws.length) (hp : i.p = 0) (he : exec c s = runIns k i s)
    (hbody : ∀ now, i.body (issued s k 1) k now = fin1 (launch (onBank (issued s k 1) k (fun b => b.drop n)) k now d op))
    (hop : ∀ b : Bank, b.land op = f b) : Lands c s k n d f := by
  subst hcn
  refine ⟨issueCycle s k i, op, ?_, launch_result i op hn h hi hg hc hp he hbody, hop, fun c1 hl m => ?_⟩
  · have hcyc := issueCycle_cases s k i
    rwa [hn] at hcyc
  · rw [landUpTo_single hl, hop]

theorem mulIns_lands {s : State} {k : Nat} {c : Instr} {a b : Word} {ws : List Word} {fn d : Nat} {mul : Word → Word → Int}
    {g : Int → LandOp} {f : Bank → Bank} (h : Issues s k 1 (b :: a :: ws)) (he : exec c s = runIns k (mulIns fn d mul g) s)
    (hop : ∀ x : Bank, x.land (g (mul a b)) = f x) : Lands c s k 2 d f := by
  refine lands_of_launch (mulIns fn d mul g) (g (mul a b)) rfl h rfl rfl rfl (by simp) rfl he (fun now => ?_) hop
  rw [← h.tos, ← h.nos, ← bankOf_issued s k 1 k]
  rfl

theorem multiply_lands (s : State) (k : Fin 10) (a b : Word) (ws : List Word) (h : Issues s k 1 (b :: a :: ws)) :
    Lands (.mul k) s k 2 3 (fun x => { x with ph := BitVec.ofInt 48 (a.toInt * b.toInt / 2 ^ 48), pl := BitVec.ofInt 48 (a.toInt * b.toInt) }) ∧
    Lands (.mulu k) s k 2 3 (fun x => { x with ph := BitVec.ofNat 48 (a.toNat * b.toNat / 2 ^ 48), pl := BitVec.ofNat 48 (a.toNat * b.toNat) }) ∧
    Lands (.mac k) s k 2 4 (fun x => x.accumulate (a.toInt * b.toInt)) ∧
    Lands (.msu k) s k 2 4 (fun x => x.accumulate (-(a.toInt * b.toInt))) := by
  obtain ⟨hlo, hhi⟩ := smul_bounds a b
  refine ⟨mulIns_lands h rfl fun x => land_product x _, mulIns_lands h rfl fun x => ?_,
    mulIns_lands h rfl fun x => land_add x (by omega) (by omega), mulIns_lands h rfl fun x => land_add x (by omega) (by omega)⟩
  rw [land_product, umul]
  rfl

theorem wracc_lands (s : State) (k : Fin 10) (a : Word) (ws : List Word) (n : Fin 64) (h : Issues s k 1 (a :: ws)) :
    Lands (.wracc k n) s k 1 4 (fun x => { x with acc := BitVec.ofInt 112 (a.toInt * 2 ^ n.val) }) := by
  refine lands_of_launch (insWracc n) (.set (BitVec.ofInt 112 (a.toInt * 2 ^ n.val))) rfl h rfl rfl rfl (by simp) rfl rfl
    (fun now => ?_) (fun _ => rfl)
  rw [← h.tos, ← bankOf_issued s k 1 k]
  simp [insWracc]

/-- Writing the bank in use back as it is changes no bank. -/
theorem Core.bank_withCur_drop_zero (c : Core) (m : Nat) : (c.withCur (fun b => b.drop 0)).bank m = c.bank m := by
  by_cases h : m = c.lvl
  · subst h; exact Core.bank_setBank_same c c.lvl _
  · exact Core.bank_setBank_other c _ h

theorem clracc_lands (s : State) (k : Fin 10) (ws : List Word) (h : Issues s k 1 ws) :
    Lands (.clracc k) s k 0 4 (fun x => { x with acc := 0 }) := by
  have hready := h.ready
  obtain ⟨-, -, -, -, -, -, -, -, -, -, -, -, -, -, hlands, -⟩ := (coreReady_iff _ _).1 hready
  refine ⟨issueCycle s k insClracc, .set 0, issueCycle_cases s k insClracc, ?_, fun _ => rfl, fun c1 hl m => landUpTo_single hl m⟩
  obtain ⟨t, ht, hcore, hbank, hrest⟩ := core_result_at (c := .clracc k) (f := fun c => { c with lands := [⟨c.lvl, issueCycle s k insClracc + 4, .set 0⟩] })
    insClracc h rfl (fun _ _ hg => nomatch hg) (Nat.zero_le _) h.length_le rfl rfl ((onlyCore_issued s k 1).launch hlands _ 4 _)
    (Core.between_of_ready _ _ hready) rfl rfl rfl rfl
  exact ⟨t, ht, hcore, fun m => (hbank m).trans (Core.bank_withCur_drop_zero _ m).symm, hrest⟩

/-! Reads of the accumulator, and rounding (R206). -/

theorem acc_part (a : Acc) (n : Nat) : (a >>> n).setWidth 48 = BitVec.ofNat 48 (a.toNat / 2 ^ n) := by
  apply BitVec.eq_of_toNat_eq
  simp [BitVec.toNat_ushiftRight, Nat.shiftRight_eq_div_pow]

theorem rndAcc_fst (a : Acc) (n : Nat) :
    (rndAcc a n).1 = BitVec.ofInt 48 (max (-2 ^ 47) (min (2 ^ 47 - 1) (rne a.toInt n))) :=
  satWord_eq (rne a.toInt n)

theorem satInt_snd (n : Nat) (i : Int) : (satInt n i).2 = (decide (i < intMin n) || decide (intMax n < i)) := by
  unfold satInt
  split
  · simp [*]
  · split <;> simp [*]

theorem rndAcc_snd (a : Acc) (n : Nat) : (rndAcc a n).2 = decide (rne a.toInt n < -2 ^ 47 ∨ 2 ^ 47 ≤ rne a.toInt n) := by
  rw [rndAcc, satInt_snd, ← Bool.decide_or, decide_eq_decide]
  simp only [intMin, intMax]
  omega

/-- A word pushed and a predicate written change the stack and the predicates alone. -/
theorem Bank.setPred_push (b : Bank) (w : Word) (d : Nat) (v : Bool) :
    (b.push w).setPred d v = { b with preds := (b.setPred d v).preds, ost := (b.push w).ost, osp := b.osp + 1 } := by
  simp only [Bank.setPred]
  split <;> rfl

theorem Bank.stack_setPred_push (b : Bank) (w : Word) (d : Nat) (v : Bool) : ((b.push w).setPred d v).stack = w :: b.stack := by
  rw [← Bank.stack_push, Bank.setPred_push]
  rfl

theorem Bank.pred_push (b : Bank) (w : Word) (i : Nat) : (b.push w).pred i = b.pred i := rfl

theorem rndaccs_result (s : State) (k : Fin 10) (ws : List Word) (n : Fin 64) (ps d : Fin 8) (sn : Bool) (hws : ws.length < 32)
    (h : IssuesLong s k ps sn ws) :
    Runs (.rndaccs k ps sn n d) s (fun t =>
      operands t k = (rndAcc (bankOf (fetched s k 2) k).acc n).1 :: ws ∧
      (∀ i < 8, (bankOf t k).pred i = if i = 0 then true else if i = d.val then (rndAcc (bankOf (fetched s k 2) k).acc n).2
        else (bankOf (fetched s k 2) k).pred i) ∧
      ∃ m x o, Steps (fetched s k 2) t k 2 ((coreOf (fetched s k 2) k).withCur (fun b => { b with preds := m, ost := x, osp := o }))) := by
  obtain ⟨hissues, hbad, hpass⟩ := h
  obtain ⟨t, ht, hs⟩ := bank_result s k (insRndaccs ps sn n d) (.rndaccs k ps sn n d) ws
    (fun b => (b.push (rndAcc b.acc n.val).1).setPred d.val (rndAcc b.acc n.val).2) hissues hbad
    (by rintro _ _ ⟨⟩; exact hpass) (Nat.zero_le _) hws rfl (fun _ => ⟨1, rfl⟩) (by rw [Bank.setPred_push]) (by rw [Bank.setPred_push])
  change Steps (fetched s k 2) t k 2 _ at hs
  refine ⟨t, ht, ?_, fun i _ => ?_, ?_⟩
  · rw [operands, hs.bankOf, Bank.stack_setPred_push, ← operands, hissues.2.1]
  · rw [hs.bankOf, Bank.pred_setPred, Bank.pred_push]
  · simp only [Core.withCur, Bank.setPred_push] at hs
    exact ⟨_, _, _, hs⟩

/-- Settles O9: what each operation lands, and when; what the reads push; the rounding. -/
theorem multiplyAccumulate : Obligations.MultiplyAccumulate := by
  refine ⟨fun s k a b ws n => ⟨multiply_lands s k a b ws, clracc_lands s k ws, wracc_lands s k a ws n⟩,
    fun s k ws n ps d sn => ?_⟩
  intro b hws
  refine ⟨fun h => ⟨?_, ?_, ?_, ?_, ?_, ?_⟩, fun h => ?_⟩
  · exact push_result h hws rfl rfl
  · exact push_result h hws rfl rfl
  · exact push_result h hws rfl (BitVec.ofNat_toNat 48 b.acc).symm
  · exact push_result h hws rfl (acc_part b.acc 48)
  · exact push_result h hws rfl (acc_part b.acc 96)
  · exact push_result h hws rfl (rndAcc_fst b.acc n)
  · have hr := rndaccs_result s k ws n ps d sn hws h
    rwa [rndAcc_fst, rndAcc_snd] at hr

end Sys2Proof.Machine

/-! An access of a core's own scratchpad while its domain is being cleared (R181, R207, R276). -/

namespace Sys2Proof.Machine

set_option Elab.async false

/-- Core 0 with its next instruction's word at hand and token 0 for the first words of its data scratchpad. -/
def clearingCore : Core :=
  { Core.woken 0 with
    run := true, pc := pcMk 0x180000 0, fbuf := [0x180000], ct := [(3, Tok.mk4 0x180000 16 4 0)],
    banks := [(3, { Bank.zero with toks := [(0, Tok.mk4 0x100000 16 1 0)] })] }

/-- A running block whose core 0 is about to issue, and whose domain 8, core 0's scratchpads, is ON and being cleared. -/
def clearingState : State :=
  let s := setCore { State.reset with running := true, msys := { State.reset.msys with clearing := [(8, 0)] } } 0 clearingCore
  wf (wf s (pctlPd 0) pctlPdSTATE 2) (pctlPd 8) pctlPdSTATE 2

theorem clearingState_issues : Issues clearingState 0 1 [] := ⟨by decide, by decide, by decide⟩

theorem clearingState_tokenCheck :
    tokenCheck ((bankOf (fetched clearingState 0 1) 0).tok 0) 0 [0] 0 1 = .ok 0x100000 := by rfl

theorem clearingState_spWord : spWord (fetched clearingState 0 1) 0 0x100000 = true := by decide

/-- The load waits for the clearing, so it does not push its word. -/
theorem clearingState_ldw (t : State) (h : exec (.ldw 0 0 0) clearingState = .next t) : operands t 0 = [] := by
  have he : exec (.ldw 0 0 0) clearingState =
      .next (atBoundary 0 (fun c => pairsNow c (insLdw 0 0)) clearingState (issue 0 (insLdw 0 0))) := rfl
  rw [he] at h
  obtain ⟨⟩ := h
  decide

/-- Refutes O11: the statement does not ask that the word's domain is past its clearing (R276). Core 0's LDW of a word of its own
data scratchpad that answers, is whole and meets no watchpoint waits while the domain is being cleared. -/
theorem not_tokensAndOwnMemory : ¬ Obligations.TokensAndOwnMemory := by
  rintro ⟨-, hmem⟩
  obtain ⟨hldw, -⟩ := hmem clearingState 0 [] 0 0 0 0 0 0 false 0x100000
  obtain ⟨t, ht, hops, -⟩ := hldw clearingState_issues (by decide) ⟨clearingState_tokenCheck, clearingState_spWord⟩
  rw [show ((0 : Fin 10) : Nat) = 0 from rfl, clearingState_ldw t ht] at hops
  exact nomatch hops

end Sys2Proof.Machine

/-! Control transfers and hardware loops (R172, R173, R212 to R216). -/

namespace Sys2Proof.Machine

set_option Elab.async false

/-! Program counters (R163, R212). -/

theorem pcWord_pcMk {w slot : Nat} (hw : w < 2 ^ 40) (hs : slot < 4) : pcWord (pcMk w slot) = w := by
  rw [pcWord, pcMk, BitVec.toNat_ofNat]
  omega

theorem pcSlot_pcMk {w slot : Nat} (hs : slot < 4) : pcSlot (pcMk w slot) = slot := by
  rw [pcSlot, pcMk, BitVec.toNat_ofNat]
  omega

theorem pcParcel_pcMk {w slot : Nat} (hw : w < 2 ^ 40) (hs : slot < 4) : pcParcel (pcMk w slot) = 3 * w + slot := by
  rw [pcParcel, pcWord_pcMk hw hs, pcSlot_pcMk hs]

/-- The parcel number that a relative target has. -/
def parcelAdd (pc : Word) (n : Int) : Nat := (((pcParcel pc : Int) + n) % (3 * 2 ^ 40 : Nat)).toNat

theorem parcelAdd_lt (pc : Word) (n : Int) : parcelAdd pc n < 3 * 2 ^ 40 := by
  rw [parcelAdd]; omega

theorem pcAdd_eq (pc : Word) (n : Int) : pcAdd pc n = pcMk (parcelAdd pc n / 3) (parcelAdd pc n % 3) := by
  have h := parcelAdd_lt pc n
  rw [pcAdd, pcOfParcel, ← parcelAdd]
  rw [Nat.mod_eq_of_lt h]

theorem pcWord_pcAdd (pc : Word) (n : Int) : pcWord (pcAdd pc n) = parcelAdd pc n / 3 := by
  have := parcelAdd_lt pc n
  rw [pcAdd_eq, pcWord_pcMk (by omega) (by omega)]

theorem pcSlot_pcAdd (pc : Word) (n : Int) : pcSlot (pcAdd pc n) = parcelAdd pc n % 3 := by
  have := parcelAdd_lt pc n
  rw [pcAdd_eq, pcSlot_pcMk (by omega)]

/-- A relative target never has slot 3. -/
theorem pcSlot_pcAdd_ne (pc : Word) (n : Int) : pcSlot (pcAdd pc n) ≠ 3 := by
  rw [pcSlot_pcAdd]; omega

/-- A target up to a loop's length ahead is another PC. -/
theorem pcAdd_ne_self {pc : Word} {n : Nat} (h0 : 0 < n) (h1 : n < 2 ^ 16) : pcAdd pc n ≠ pc := by
  intro h
  have hp : pcParcel (pcAdd pc n) = pcParcel pc := by rw [h]
  have hlt := parcelAdd_lt pc n
  have hword : pcWord pc < 2 ^ 40 := Nat.mod_lt _ (by decide)
  have hslot : pcSlot pc < 4 := Nat.mod_lt _ (by decide)
  rw [pcParcel, pcWord_pcAdd, pcSlot_pcAdd, parcelAdd, pcParcel] at hp
  omega

/-! An instruction that transfers control. -/

/-- A trace event changes the signals alone, or counts its loss (R522). -/
theorem raiseTrace_frame (s : State) (kind src data : Nat) :
    SameBut [.sig, .regs] s (raiseTrace s kind src data) ∧ RegsBut [dbgTrptr] s (raiseTrace s kind src data) ∧
    (raiseTrace s kind src data).sig = { s.sig with
      traces := (raiseTrace s kind src data).sig.traces, tlost := (raiseTrace s kind src data).sig.tlost } := by
  unfold raiseTrace
  split
  · exact ⟨SameBut.refl _ _, fun _ _ => rfl, rfl⟩
  · split
    · refine ⟨fun p hp => ?_, fun _ _ => rfl, rfl⟩
      cases p <;> simp [Part.same] at hp ⊢
    · refine ⟨fun p hp => ?_, regsBut_wf s dbgTrptr dbgTrptrLOST _, rfl⟩
      cases p <;> simp [Part.same] at hp ⊢


/-- The machine after a transfer of core k to `pc` in state x. -/
def jumped (x : State) (k : Nat) (pc : Word) (e : Nat) (p : Option Prev) : State :=
  onDbg (raiseTrace (setCore x k { coreOf x k with pc := pc, cyc := e, prev := p }) 1 k (pc.toNat % 2 ^ 36))
    (fun d => { d with skip := d.skip.erase k })

/-- Whether core k lives rests on its record, its domain and whether the block runs. -/
theorem coreLive_congr {s t : State} {k : Nat} (hrun : t.running = s.running) (hpd : pdOn t (coreDomain k) = pdOn s (coreDomain k))
    (hc : (coreOf t k).run = (coreOf s k).run ∧ (coreOf t k).locked = (coreOf s k).locked ∧ (coreOf t k).stopped = (coreOf s k).stopped) :
    coreLive t k = coreLive s k := by
  simp only [coreLive, hrun, hpd, hc]

theorem RegsBut.pdOn_eq {l : List Nat} {s t : State} (h : RegsBut l s t) (d : Nat) (hd : pctlPd d ∉ l) : pdOn t d = pdOn s d := by
  rw [pdOn, h.rf_eq hd, pdOn]

theorem coreOf_jumped_same (x : State) (k : Nat) (pc : Word) (e : Nat) (p : Option Prev) :
    coreOf (jumped x k pc e p) k = { coreOf x k with pc := pc, cyc := e, prev := p } := by
  have h := (raiseTrace_frame (setCore x k { coreOf x k with pc := pc, cyc := e, prev := p }) 1 k (pc.toNat % 2 ^ 36)).1 .cores (by simp)
  simp only [Part.same] at h
  rw [jumped, coreOf, onDbg, h]
  exact coreOf_setCore_same _ _ _

theorem coreOf_jumped_other (x : State) {j k : Nat} (pc : Word) (e : Nat) (p : Option Prev) (hj : j ≠ k) :
    coreOf (jumped x k pc e p) j = coreOf x j := by
  have h := (raiseTrace_frame (setCore x k { coreOf x k with pc := pc, cyc := e, prev := p }) 1 k (pc.toNat % 2 ^ 36)).1 .cores (by simp)
  simp only [Part.same] at h
  rw [jumped, coreOf, onDbg, h]
  exact coreOf_setCore_other _ _ hj

theorem jumped_sameBut (x : State) (k : Nat) (pc : Word) (e : Nat) (p : Option Prev) :
    SameBut [.cores, .dbg, .sig, .regs] x (jumped x k pc e p) :=
  ((setCore_sameBut x k _).mono (by simp)).trans
    (((raiseTrace_frame _ 1 k _).1.mono (by simp)).trans ((onDbg_sameBut _ _).mono (by simp)))

/-- A transfer from a core between instructions. -/
theorem finish_jump_eq {u x : State} {k now cost : Nat} {paired : Bool} {i : Ins} {pc : Word} (hk : k < 10) (hb : (coreOf x k).between = true)
    (hl : coreLive x k = true) (hw : x.dbg.wps.contains k = false) :
    ∃ e p, finish u k now paired i (.jump x pc cost) = jumped x k pc e p := by
  simp only [Core.between, Core.unbegun, Bool.and_eq_true, beq_iff_eq, Option.isNone_iff_eq_none, Bool.not_eq_true', List.isEmpty_iff,
    and_assoc] at hb
  obtain ⟨-, hgrem, hgpc, hstep, hhdr, hhold, hgot, -, hdbg⟩ := hb
  refine ⟨max (coreOf x k).cyc (now + cost), some (prevOf (coreOf u k) i now cost paired true), ?_⟩
  have hcore : { (coreOf x k).settled with
      pc := pc, grem := 0, gpc := none, cyc := max (coreOf x k).settled.cyc (now + cost),
      prev := some (prevOf (coreOf u k) i now cost paired true) } =
      { coreOf x k with pc := pc, cyc := max (coreOf x k).cyc (now + cost), prev := some (prevOf (coreOf u k) i now cost paired true) } := by
    simp [Core.settled, hgrem, hgpc, hstep, hhdr, hhold, hgot]
  simp only [finish, hcore]
  have hlive := coreLive_congr (s := x) (t := jumped x k pc (max (coreOf x k).cyc (now + cost)) (some (prevOf (coreOf u k) i now cost paired true)))
    (k := k) (jumped_sameBut x k pc _ _ .running (by simp))
    ((raiseTrace_frame _ 1 k _).2.1.pdOn_eq _ (by simp only [dbgTrptr, pctlPd, coreDomain, List.mem_singleton]; split <;> omega)) (by rw [coreOf_jumped_same]; exact ⟨rfl, rfl, rfl⟩)
  have hdbgeq : ∀ y : State, (raiseTrace y 1 k (pc.toNat % 2 ^ 36)).dbg = y.dbg := fun y => (raiseTrace_frame y 1 k _).1 .dbg (by simp)
  refine settle_ready _ k (hlive.trans hl) ?_ ?_
  · rw [hdbgeq]; exact hw
  · have hcores := (raiseTrace_frame (setCore x k { coreOf x k with pc := pc, cyc := max (coreOf x k).cyc (now + cost), prev := some (prevOf (coreOf u k) i now cost paired true) }) 1 k (pc.toNat % 2 ^ 36)).1 .cores (by simp)
    simp only [Part.same] at hcores
    rw [coreOf, hcores]
    exact (congrArg Core.dbgStep (coreOf_setCore_same _ _ _)).trans hdbg

/-- What a transfer leaves, whatever the state x differs in beside core k and the free values. -/
theorem jumped_of_jumped {u x : State} {k : Nat} {pc : Word} {e : Nat} {p : Option Prev} (ho : ∀ j, j ≠ k → coreOf x j = coreOf u j)
    (hx : SameBut [.cores, .free] u x) : Jumped u (jumped x k pc e p) k pc (coreOf x k) := by
  have hx' : SameBut [.cores, .dbg, .sig, .regs, .free] u x := hx.mono (by simp)
  have hj : SameBut [.cores, .dbg, .sig, .regs, .free] x (jumped x k pc e p) := (jumped_sameBut x k pc e p).mono (by simp)
  have hrd : ∀ a, rd x a = rd u a := hx.rd_eq (by simp) (by simp) (by simp)
  have hdbg : x.dbg = u.dbg := hx .dbg (by simp)
  have hsig : x.sig = u.sig := hx .sig (by simp)
  have htr := raiseTrace_frame (setCore x k { coreOf x k with pc := pc, cyc := e, prev := p }) 1 k (pc.toNat % 2 ^ 36)
  refine ⟨⟨?_, fun m => ?_, fun j hj => ?_, hx'.trans hj, ?_⟩, fun a ha => ?_, ?_⟩
  · rw [coreOf_jumped_same]
  · rw [coreOf_jumped_same]; rfl
  · rw [coreOf_jumped_other x pc e p hj, ho j hj]
  · have hd : (raiseTrace (setCore x k { coreOf x k with pc := pc, cyc := e, prev := p }) 1 k (pc.toNat % 2 ^ 36)).dbg = x.dbg :=
      htr.1 .dbg (by simp)
    simp only [jumped, onDbg, hd, hdbg]
  · rw [← hrd]; exact htr.2.1 a ha
  · rw [← hsig]; exact htr.2.2

/-- An instruction whose body, run in its issue cycle, transfers control. -/
theorem jump_result {s : State} {k : Nat} (i : Ins) {c : Instr} {ws : List Word} {x : State} {pc : Word} {cost : Nat} (hk : k < 10)
    (h : Issues s k i.parcels.length ws) (hi : i.illegal = false)
    (hg : ∀ p sn, i.guard = some (p, sn) → guardPass (bankOf (fetched s k i.parcels.length) k) p sn = true)
    (hc : i.c ≤ ws.length) (hp : ws.length - i.c + i.p ≤ 32) (he : exec c s = runIns k i s)
    (hbody : i.body (issued s k i.parcels.length) k (issueCycle s k i) = .jump x pc cost)
    (hb : (coreOf x k).between = true)
    (hrun : (coreOf x k).run = (coreOf (fetched s k i.parcels.length) k).run ∧
      (coreOf x k).locked = (coreOf (fetched s k i.parcels.length) k).locked ∧
      (coreOf x k).stopped = (coreOf (fetched s k i.parcels.length) k).stopped)
    (ho : ∀ j, j ≠ k → coreOf x j = coreOf (fetched s k i.parcels.length) j)
    (hx : SameBut [.cores, .free] (fetched s k i.parcels.length) x) :
    Runs c s (fun t => Jumped (fetched s k i.parcels.length) t k pc (coreOf x k)) := by
  obtain ⟨hlive, -, -, -, -, hwp, -⟩ := (coreReady_iff _ k).1 h.ready
  have hl : coreLive x k = true := by
    have hrd : ∀ a, rd x a = rd (fetched s k i.parcels.length) a := hx.rd_eq (by simp) (by simp) (by simp)
    rw [coreLive_congr (hx .running (by simp)) (by simp only [pdOn, rf, hrd]) hrun]
    exact hlive
  obtain ⟨e, p, hfin⟩ := finish_jump_eq (u := fetched s k i.parcels.length) (x := x) (k := k) (now := issueCycle s k i)
    (cost := cost) (paired := pairsNow (coreOf s k) i) (i := i) (pc := pc) hk hb hl (by rw [hx .dbg (by simp)]; exact hwp)
  exact ⟨_, by rw [he, runIns_body s k i ws h hi hg hc hp, hbody, hfin], jumped_of_jumped ho hx⟩

/-- The cost of a transfer that is taken may use a free value (R227 to R229). -/
theorem takenCost_frame (s : State) (k : Nat) (fixed cond back : Bool) :
    coreOf (takenCost s k fixed cond back).2 = coreOf s ∧ SameBut [.free] s (takenCost s k fixed cond back).2 := by
  unfold takenCost
  dsimp only
  split
  · refine ⟨rfl, fun p hp => ?_⟩
    cases p <;> simp [Part.same, predicted, freshBit, fresh] at hp ⊢
  · split <;> exact ⟨rfl, SameBut.refl _ _⟩

theorem framesDo_loops (b : Bank) (c : Nat) (ret : Word) (fr : Frames) :
    (framesDo (b.drop c) ret fr).ld = b.ld ∧ (framesDo (b.drop c) ret fr).lend = b.lend := by
  cases fr <;> exact ⟨rfl, rfl⟩

/-- A transfer that meets no fault changes core k's bank, and perhaps the free values. -/
theorem transfer_jump {u v : State} {k len c : Nat} {g : Option (Nat × Bool)} {fixed : Bool} {fr : Frames} {tgt : Core → Word}
    {back : Core → Bool} (now : Nat) (hv : OnlyCore u v k (coreOf u k)) (hff : framesFault (coreOf u k).cur fr = none)
    (hslot : pcSlot (tgt (coreOf u k)) ≠ 3) : ∃ x cost, transfer len c g fixed fr tgt back v k now = .jump x (tgt (coreOf u k)) cost ∧
      coreOf x k = (coreOf u k).withCur (fun b => framesDo (b.drop c) (pcAdd (coreOf u k).pc len) fr) ∧
      (∀ j, j ≠ k → coreOf x j = coreOf u j) ∧ SameBut [.cores, .free] u x := by
  obtain ⟨hcost, hfree⟩ := takenCost_frame v k fixed (conditional (coreOf u k) g) (back (coreOf u k))
  refine ⟨onBank (takenCost v k fixed (conditional (coreOf u k) g) (back (coreOf u k))).2 k
      (fun b => framesDo (b.drop c) (pcAdd (coreOf u k).pc len) fr),
    (takenCost v k fixed (conditional (coreOf u k) g) (back (coreOf u k))).1, ?_, ?_, fun j hj => ?_, ?_⟩
  · simp only [transfer, hv.core, hff]
    rw [if_neg hslot]
  · rw [onBank, coreOf_setCore_same, hcost, hv.core]
  · rw [onBank, coreOf_setCore_other _ _ hj, hcost, hv.others j hj]
  · exact (hv.parts.mono (by simp)).trans ((hfree.mono (by simp)).trans ((setCore_sameBut _ _ _).mono (by simp)))

/-- An instruction that transfers control to a target, popping `c` operands (R214). -/
theorem transfer_result {s : State} {k len c : Nat} (i : Ins) {cmd : Instr} {ws : List Word} {g : Option (Nat × Bool)} {fixed : Bool}
    {fr : Frames} {tgt : Core → Word} {back : Core → Bool} (hk : k < 10) (hn : i.parcels.length = len) (h : Issues s k len ws)
    (hi : i.illegal = false) (hg : ∀ p sn, i.guard = some (p, sn) → guardPass (bankOf (fetched s k len) k) p sn = true)
    (hc : i.c ≤ ws.length) (hp : i.p = 0) (he : exec cmd s = runIns k i s) (hbody : i.body = transfer len c g fixed fr tgt back)
    (hff : framesFault (coreOf (fetched s k len) k).cur fr = none) (hslot : pcSlot (tgt (coreOf (fetched s k len) k)) ≠ 3) :
    JumpResult cmd s k len (tgt (coreOf (fetched s k len) k))
      (fun d => d.withCur (fun b => framesDo (b.drop c) (pcAdd (coreOf (fetched s k len) k).pc len) fr)) := by
  have hlen := h.length_le
  subst hn
  obtain ⟨x, cost, hjump, hcore, ho, hx⟩ := transfer_jump (g := g) (fixed := fixed) (back := back) (len := i.parcels.length) (c := c)
    (issueCycle s k i) (onlyCore_issued s k i.parcels.length) hff hslot
  rw [← hbody] at hjump
  have hloops := framesDo_loops (bankOf (fetched s k i.parcels.length) k) c
    (pcAdd (coreOf (fetched s k i.parcels.length) k).pc i.parcels.length) fr
  have hres := jump_result i hk h hi hg hc (by omega) he hjump
    (by rw [hcore]; exact between_withCur _ k _ h.ready hloops.1 hloops.2) (by rw [hcore]; exact ⟨rfl, rfl, rfl⟩) ho hx
  rw [hcore] at hres
  exact hres

/-- A core record of the same banks, and the same beside them, does as well. -/
theorem Jumped.congr {u t : State} {k : Nat} {pc : Word} {c d : Core} (h : Jumped u t k pc c) (hcd : c = { d with banks := c.banks })
    (hbank : ∀ m, c.bank m = d.bank m) : Jumped u t k pc d := by
  obtain ⟨⟨hcore, hbanks, hrest⟩, htail⟩ := h
  refine ⟨⟨?_, fun m => (hbanks m).trans (hbank m), hrest⟩, htail⟩
  rw [hcd] at hcore
  exact hcore

theorem Core.bank_withCur (c : Core) (f : Bank → Bank) (m : Nat) : (c.withCur f).bank m = if m = c.lvl then f c.cur else c.bank m := by
  by_cases h : m = c.lvl
  · subst h; rw [if_pos rfl]; exact Core.bank_setBank_same c c.lvl _
  · rw [if_neg h]; exact Core.bank_setBank_other c _ h

/-- Two changes of the bank in use are one. -/
theorem Core.bank_withCur_withCur (c : Core) (f g : Bank → Bank) (m : Nat) :
    ((c.withCur f).withCur g).bank m = (c.withCur (fun b => g (f b))).bank m := by
  have hlvl : (c.withCur f).lvl = c.lvl := rfl
  rw [Core.bank_withCur, Core.bank_withCur, Core.bank_withCur, hlvl, Core.cur_withCur]
  split <;> rfl


/-! The transfers. -/

/-- What a call does to a core: its return PC, and a frame for CALLF and its like (R166, R167). -/
def Core.called (ret : Word) (frame : Nat) (c : Core) : Core :=
  c.withCur (fun b => { b with rst := tset 0 b.rst b.rsp ret, rsp := b.rsp + 1, fd := b.fd + frame })

/-- What a return does to a core. -/
def Core.returned (frame : Nat) (c : Core) : Core := c.withCur (fun b => { b with rsp := b.rsp - 1, fd := b.fd - frame })

/-- What a transfer does to the core when it pops no operands. -/
theorem JumpResult.plain {c : Instr} {s : State} {k n : Nat} {pc : Word}
    {ret : Word} (h : JumpResult c s k n pc (fun d => d.withCur (fun b => framesDo (b.drop 0) ret .plain))) : JumpResult c s k n pc id := by
  obtain ⟨t, ht, hj⟩ := h
  exact ⟨t, ht, hj.congr rfl (fun m => Core.bank_withCur_drop_zero _ m)⟩

/-- A transfer that pops an operand, then calls. -/
theorem JumpResult.popsCalled {c : Instr} {s : State} {k n frame : Nat} {pc ret : Word}
    (h : JumpResult c s k n pc (fun d => d.withCur (fun b =>
      { b with osp := b.osp - 1, rst := tset 0 b.rst b.rsp ret, rsp := b.rsp + 1, fd := b.fd + frame }))) :
    JumpResult c s k n pc (fun d => (d.withCur (fun b => { b with osp := b.osp - 1 })).called ret frame) := by
  obtain ⟨t, ht, hj⟩ := h
  refine ⟨t, ht, hj.congr ?_ (fun m => ?_)⟩
  · simp only [Core.called, Core.withCur, Core.setBank]
  · exact (Core.bank_withCur_withCur (coreOf (fetched s k n) k) (fun b => { b with osp := b.osp - 1 })
      (fun b => { b with rst := tset 0 b.rst b.rsp ret, rsp := b.rsp + 1, fd := b.fd + frame }) m).symm

theorem framesFault_call {b : Bank} (h : b.rsp < 32) : framesFault b .call = none := by
  rw [framesFault, if_neg (by omega)]

theorem framesFault_callF {b : Bank} (h : b.rsp < 32) (hf : b.fd < 15) : framesFault b .callF = none := by
  rw [framesFault, if_neg (by omega), if_neg (by omega)]

theorem framesFault_ret {b : Bank} (h : 0 < b.rsp) : framesFault b .ret = none := by
  rw [framesFault, if_neg (by omega)]

theorem framesFault_retF {b : Bank} (h : 0 < b.rsp) (hf : 0 < b.fd) : framesFault b .retF = none := by
  rw [framesFault, if_neg (by omega), if_neg (by omega)]

/-- A relative transfer in short form. -/
theorem brIns_result {s : State} {k : Fin 10} {c : Instr} {ws : List Word} {opc : Nat} {off : BitVec 9} {fr : Frames}
    (h : Issues s k 1 ws) (he : exec c s = runIns k (brIns opc off fr) s)
    (hff : framesFault (coreOf (fetched s k 1) k).cur fr = none) :
    JumpResult c s k 1 (pcAdd (coreOf (fetched s k 1) k).pc off.toInt)
      (fun d => d.withCur (fun b => framesDo (b.drop 0) (pcAdd (coreOf (fetched s k 1) k).pc 1) fr)) :=
  transfer_result (len := 1) (c := 0) (g := none) (fixed := false) (back := fun _ => decide (off.toInt ≤ 0)) (tgt := fun c => pcAdd c.pc off.toInt) (brIns opc off fr) k.isLt rfl h rfl (fun _ _ hg => nomatch hg) (Nat.zero_le _) rfl he rfl hff (pcSlot_pcAdd_ne _ _)

/-- A relative transfer in long form. -/
theorem brlIns_result {s : State} {k : Fin 10} {c : Instr} {ws : List Word} {opc : Nat} {ps : Fin 8} {sn : Bool} {off : BitVec 16}
    {fr : Frames} (h : IssuesLong s k ps sn ws) (he : exec c s = runIns k (brlIns opc ps sn off fr) s)
    (hff : framesFault (coreOf (fetched s k 2) k).cur fr = none) :
    JumpResult c s k 2 (pcAdd (coreOf (fetched s k 2) k).pc off.toInt)
      (fun d => d.withCur (fun b => framesDo (b.drop 0) (pcAdd (coreOf (fetched s k 2) k).pc 2) fr)) := by
  obtain ⟨hissues, hbad, hpass⟩ := h
  exact transfer_result (len := 2) (c := 0) (g := lgGuard ps sn) (fixed := false) (back := fun _ => decide (off.toInt ≤ 0)) (tgt := fun c => pcAdd c.pc off.toInt) (brlIns opc ps sn off fr) k.isLt rfl hissues hbad (by rintro _ _ ⟨⟩; exact hpass) (Nat.zero_le _) rfl he rfl
    hff (pcSlot_pcAdd_ne _ _)

/-- A return. -/
theorem retIns_result {s : State} {k : Fin 10} {c : Instr} {ws : List Word} {f : Nat} {fr : Frames} (h : Issues s k 1 ws)
    (he : exec c s = runIns k (retIns f fr) s) (hff : framesFault (coreOf (fetched s k 1) k).cur fr = none)
    (hslot : pcSlot (pcOfWord (coreOf (fetched s k 1) k).cur.rtop) ≠ 3) :
    JumpResult c s k 1 (pcOfWord (coreOf (fetched s k 1) k).cur.rtop)
      (fun d => d.withCur (fun b => framesDo (b.drop 0) (pcAdd (coreOf (fetched s k 1) k).pc 1) fr)) :=
  transfer_result (len := 1) (c := 0) (g := none) (fixed := false) (back := backTo (fun c => pcOfWord c.cur.rtop)) (tgt := fun c => pcOfWord c.cur.rtop) (retIns f fr) k.isLt rfl h rfl (fun _ _ hg => nomatch hg) (Nat.zero_le _) rfl he rfl hff hslot

/-- A transfer to a PC from the operand stack. -/
theorem jmpIns_result {s : State} {k : Fin 10} {c : Instr} {a : Word} {ws : List Word} {f : Nat} {fr : Frames}
    (h : Issues s k 1 (a :: ws)) (he : exec c s = runIns k (jmpIns f fr) s)
    (hff : framesFault (coreOf (fetched s k 1) k).cur fr = none) (hslot : pcSlot (pcOfWord a) ≠ 3) :
    JumpResult c s k 1 (pcOfWord a) (fun d => d.withCur (fun b => framesDo (b.drop 1) (pcAdd (coreOf (fetched s k 1) k).pc 1) fr)) := by
  have htos : (coreOf (fetched s k 1) k).cur.peek 0 = a := h.tos
  have hres := transfer_result (len := 1) (c := 1) (g := none) (fixed := true) (back := fun _ => false) (tgt := fun c => pcOfWord (c.cur.peek 0)) (jmpIns f fr) (cmd := c) k.isLt rfl h rfl (fun _ _ hg => nomatch hg) (by simp [jmpIns]) rfl he rfl hff
    (by rw [htos]; exact hslot)
  rwa [htos] at hres


theorem transfers (s : State) (k : Fin 10) (ws : List Word) (off : BitVec 9) (h : Issues s k 1 ws) :
    let c1 := coreOf (fetched s k 1) k
    JumpResult (.br k off) s k 1 (pcAdd c1.pc off.toInt) id ∧
    (c1.cur.rsp < 32 → JumpResult (.call k off) s k 1 (pcAdd c1.pc off.toInt) (Core.called (pcAdd c1.pc 1) 0)) ∧
    (c1.cur.rsp < 32 → c1.cur.fd < 15 → JumpResult (.callf k off) s k 1 (pcAdd c1.pc off.toInt) (Core.called (pcAdd c1.pc 1) 1)) ∧
    (0 < c1.cur.rsp → pcSlot (pcOfWord c1.cur.rtop) ≠ 3 → JumpResult (.ret k) s k 1 (pcOfWord c1.cur.rtop) (Core.returned 0)) ∧
    (0 < c1.cur.rsp → 0 < c1.cur.fd → pcSlot (pcOfWord c1.cur.rtop) ≠ 3 →
      JumpResult (.retf k) s k 1 (pcOfWord c1.cur.rtop) (Core.returned 1)) := by
  refine ⟨?_, fun hr => ?_, fun hr hf => ?_, fun hr hs => ?_, fun hr hf hs => ?_⟩
  · exact (brIns_result (fr := .plain) h rfl rfl).plain
  · exact brIns_result (fr := .call) h rfl (framesFault_call hr)
  · exact brIns_result (fr := .callF) h rfl (framesFault_callF hr hf)
  · exact retIns_result (fr := .ret) h rfl (framesFault_ret hr) hs
  · exact retIns_result (fr := .retF) h rfl (framesFault_retF hr hf) hs

theorem longTransfers (s : State) (k : Fin 10) (ws : List Word) (off : BitVec 16) (ps : Fin 8) (sn : Bool) (h : IssuesLong s k ps sn ws) :
    let c2 := coreOf (fetched s k 2) k
    JumpResult (.brl k ps sn off) s k 2 (pcAdd c2.pc off.toInt) id ∧
    (c2.cur.rsp < 32 → JumpResult (.calll k ps sn off) s k 2 (pcAdd c2.pc off.toInt) (Core.called (pcAdd c2.pc 2) 0)) ∧
    (c2.cur.rsp < 32 → c2.cur.fd < 15 →
      JumpResult (.callfl k ps sn off) s k 2 (pcAdd c2.pc off.toInt) (Core.called (pcAdd c2.pc 2) 1)) := by
  refine ⟨?_, fun hr => ?_, fun hr hf => ?_⟩
  · exact (brlIns_result (fr := .plain) h rfl rfl).plain
  · exact brlIns_result (fr := .call) h rfl (framesFault_call hr)
  · exact brlIns_result (fr := .callF) h rfl (framesFault_callF hr hf)

theorem indirectTransfers (s : State) (k : Fin 10) (a : Word) (ws : List Word) (h : Issues s k 1 (a :: ws)) (hs : pcSlot (pcOfWord a) ≠ 3) :
    let c1 := coreOf (fetched s k 1) k
    let pops (c : Core) : Core := c.withCur (fun b => { b with osp := b.osp - 1 })
    JumpResult (.jmpi k) s k 1 (pcOfWord a) pops ∧
    (c1.cur.rsp < 32 → JumpResult (.calli k) s k 1 (pcOfWord a) (fun c => (pops c).called (pcAdd c1.pc 1) 0)) ∧
    (c1.cur.rsp < 32 → c1.cur.fd < 15 → JumpResult (.callfi k) s k 1 (pcOfWord a) (fun c => (pops c).called (pcAdd c1.pc 1) 1)) := by
  refine ⟨?_, fun hr => JumpResult.popsCalled ?_, fun hr hf => JumpResult.popsCalled ?_⟩
  · exact jmpIns_result (fr := .plain) h rfl rfl hs
  · exact jmpIns_result (fr := .call) h rfl (framesFault_call hr) hs
  · exact jmpIns_result (fr := .callF) h rfl (framesFault_callF hr hf) hs

/-! Hardware loops. -/

theorem insLoop_legal {ps : Fin 8} {sn : Bool} {e : BitVec 16} {long : Bool} (hbad : badGuard ps sn = false) (he : 2 ≤ e.toNat) :
    (insLoop ps sn e long).illegal = false := by
  rw [insLoop, hbad, decide_eq_false (by omega)]
  rfl

/-- A core that was ready is between instructions after its bank changed, where it stands at no loop's end. -/
theorem between_withCur_of_atLend {s : State} {k : Nat} (f : Bank → Bank) (h : coreReady s k = true)
    (hat : ((coreOf s k).withCur f).atLend = false) : ((coreOf s k).withCur f).between = true := by
  obtain ⟨-, hwait, -, -, -, -, -, hstep, -, hgrem, hgpc, hbegun, hgot, -⟩ := (coreReady_iff _ k).1 h
  simp only [Core.between, hat]
  simp only [Core.withCur, Core.setBank]
  simp only [Core.unbegun] at hbegun ⊢
  simp [hwait, hstep, hgrem, hgpc, hbegun, hgot]

theorem loop_opens (s : State) (k : Fin 10) (ws : List Word) (a : Word) (e : BitVec 16) (long : Bool) (ps : Fin 8) (sn : Bool)
    (h : IssuesLong s k ps sn (a :: ws)) (he : 2 ≤ e.toNat) (ha : a ≠ 0) (hld : (coreOf (fetched s k 2) k).cur.ld < 3) :
    CoreResult (.loop k ps sn e long) s k 2 (fun c => c.withCur (fun b => { b with
      osp := b.osp - 1, lbeg := tset 0 b.lbeg b.ld (pcAdd (coreOf (fetched s k 2) k).pc 2),
      lend := tset 0 b.lend b.ld (pcAdd (coreOf (fetched s k 2) k).pc e.toNat), lcnt := tset 0 b.lcnt b.ld a, ld := b.ld + 1 })) := by
  obtain ⟨hissues, hbad, hpass⟩ := h
  have hready := hissues.ready
  have htos : (coreOf (fetched s k 2) k).cur.peek 0 = a := hissues.tos
  have hlen := hissues.length_le
  have hbody : (insLoop ps sn e long).body (issued s k 2) k (issueCycle s k (insLoop ps sn e long)) =
      .done (onBank (issued s k 2) k (fun b => { (b.drop 1).setLoop b.ld (pcAdd (coreOf (fetched s k 2) k).pc 2)
        (pcAdd (coreOf (fetched s k 2) k).pc e.toNat) a with ld := b.ld + 1 })) 1 := by
    simp only [insLoop, coreOf_issued, htos, beq_iff_eq]
    rw [if_neg ha, if_neg (by omega)]
  have hat : ((coreOf (fetched s k 2) k).withCur (fun b => { (b.drop 1).setLoop b.ld (pcAdd (coreOf (fetched s k 2) k).pc 2)
      (pcAdd (coreOf (fetched s k 2) k).pc e.toNat) a with ld := b.ld + 1 })).atLend = false := by
    have hne : pcAdd (coreOf (fetched s k 2) k).pc e.toNat ≠ (coreOf (fetched s k 2) k).pc := pcAdd_ne_self (by omega) e.isLt
    simp only [Core.atLend, Core.cur_withCur, Bank.le, Bank.setLoop, Nat.add_sub_cancel, tget_tset_same]
    rw [show ∀ f, ((coreOf (fetched s k 2) k).withCur f).pc = (coreOf (fetched s k 2) k).pc from fun _ => rfl, beq_false_of_ne hne]
    exact Bool.and_false _
  exact core_result_at (insLoop ps sn e long) hissues (insLoop_legal hbad he) (by rintro _ _ ⟨⟩; exact hpass) (by simp [insLoop])
    (by simp only [insLoop, List.length_cons] at hlen ⊢; omega) rfl hbody ((onlyCore_issued s k 2).onBank _)
    (between_withCur_of_atLend _ hready hat) rfl rfl rfl rfl

theorem loop_skips (s : State) (k : Fin 10) (ws : List Word) (e : BitVec 16) (long : Bool) (ps : Fin 8) (sn : Bool)
    (h : IssuesLong s k ps sn (0 :: ws)) (he : 2 ≤ e.toNat) :
    JumpResult (.loop k ps sn e long) s k 2 (pcAdd (pcAdd (coreOf (fetched s k 2) k).pc e.toNat) (if long then 2 else 1))
      (fun c => c.withCur (fun b => { b with osp := b.osp - 1 })) := by
  obtain ⟨hissues, hbad, hpass⟩ := h
  have htos : (coreOf (fetched s k 2) k).cur.peek 0 = 0 := hissues.tos
  have hlen := hissues.length_le
  have hbody : (insLoop ps sn e long).body (issued s k 2) k (issueCycle s k (insLoop ps sn e long)) =
      .jump (onBank (issued s k 2) k (fun b => b.drop 1))
        (pcAdd (pcAdd (coreOf (fetched s k 2) k).pc e.toNat) (if long then 2 else 1)) 3 := by
    simp only [insLoop, coreOf_issued, htos]
    cases long <;> rfl
  have hx := (onlyCore_issued s k 2).onBank (fun b => b.drop 1)
  have hres := jump_result (insLoop ps sn e long) (c := .loop k ps sn e long) k.isLt hissues (insLoop_legal hbad he)
    (by rintro _ _ ⟨⟩; exact hpass) (by simp [insLoop]) (by simp only [insLoop, List.length_cons] at hlen ⊢; omega) rfl hbody
    (by rw [hx.core]; exact between_withCur _ _ _ hissues.ready rfl rfl) (by rw [hx.core]; exact ⟨rfl, rfl, rfl⟩) hx.others
    (hx.parts.mono (by simp))
  rw [hx.core] at hres
  exact hres

/-- What LEXIT makes of a bank: its innermost loop, if any, is over. -/
def Bank.exitLoop (b : Bank) : Bank := if b.ld = 0 then b else { b with lcnt := tset 0 b.lcnt (b.ld - 1) 0, ld := b.ld - 1 }

theorem lexit_result (s : State) (k : Fin 10) (ws : List Word) (h : Issues s k 1 ws)
    (hend : 2 ≤ (bankOf (fetched s k 1) k).ld →
      (bankOf (fetched s k 1) k).le ((bankOf (fetched s k 1) k).ld - 2) ≠ (coreOf (fetched s k 1) k).pc) :
    CoreResult (.lexit k) s k 1 (fun c => if c.cur.ld = 0 then c.withCur id else
      c.withCur (fun b => { b with lcnt := tset 0 b.lcnt (b.ld - 1) 0, ld := b.ld - 1 })) := by
  have hf : (fun c : Core => if c.cur.ld = 0 then c.withCur id else
      c.withCur (fun b => { b with lcnt := tset 0 b.lcnt (b.ld - 1) 0, ld := b.ld - 1 })) = fun c => c.withCur Bank.exitLoop := by
    funext c
    simp only [Core.withCur, Bank.exitLoop]
    split <;> rfl
  rw [hf]
  have hat : ((coreOf (fetched s k 1) k).withCur Bank.exitLoop).atLend = false := by
    rw [Core.atLend, Core.cur_withCur, Bank.exitLoop]
    change 2 ≤ (coreOf (fetched s k 1) k).cur.ld → (coreOf (fetched s k 1) k).cur.le _ ≠ _ at hend
    split
    · next h0 => simp [h0]
    · next h0 =>
      simp only [Bank.le]
      by_cases h1 : (coreOf (fetched s k 1) k).cur.ld - 1 = 0
      · simp [h1]
      · have hne := hend (by omega)
        rw [show (coreOf (fetched s k 1) k).cur.ld - 1 - 1 = (coreOf (fetched s k 1) k).cur.ld - 2 by omega]
        exact Bool.and_eq_false_iff.2 (.inr (beq_false_of_ne hne))
  exact core_result_at insLexit h rfl (fun _ _ hg => nomatch hg) (Nat.zero_le _) h.length_le rfl rfl
    ((onlyCore_issued s k 1).onBank Bank.exitLoop) (between_withCur_of_atLend _ h.ready hat) rfl rfl rfl rfl

/-- R173: completing the instruction at a loop's end. -/
theorem advance_atLend (c : Core) (len : Nat) (hld : c.cur.ld ≠ 0) (hend : c.cur.le (c.cur.ld - 1) = c.pc) :
    (1 < (c.cur.lc (c.cur.ld - 1)).toNat → (c.advance len).pc = c.cur.lb (c.cur.ld - 1) ∧
      (c.advance len).cur = { c.cur with lcnt := tset 0 c.cur.lcnt (c.cur.ld - 1) (c.cur.lc (c.cur.ld - 1) - 1) }) ∧
    ((c.cur.lc (c.cur.ld - 1)).toNat ≤ 1 → (c.advance len).pc = pcAdd c.pc len ∧
      (c.advance len).cur = { c.cur with lcnt := tset 0 c.cur.lcnt (c.cur.ld - 1) 0, ld := c.cur.ld - 1 }) ∧
    (c.advance len).grem = 0 := by
  have hat : c.atLend = true := by simp [Core.atLend, hld, hend]
  simp only [Core.advance, hat, if_true]
  by_cases h : 1 < (c.cur.lc (c.cur.ld - 1)).toNat
  · have hag : ({ c with grem := c.grem - 1, gpc := none } : Core).again = true := decide_eq_true h
    simp only [Core.wrap, hag, if_true]
    exact ⟨fun _ => ⟨rfl, Core.cur_withCur c (fun b => { b with lcnt := tset 0 b.lcnt (c.cur.ld - 1) (b.lc (c.cur.ld - 1) - 1) })⟩,
      fun hn => absurd h (by omega), trivial⟩
  · have hag : ({ c with grem := c.grem - 1, gpc := none } : Core).again = false := decide_eq_false h
    simp only [Core.wrap, hag]
    exact ⟨fun hn => absurd hn h,
      fun _ => ⟨rfl, Core.cur_withCur c (fun b => { b with lcnt := tset 0 b.lcnt (c.cur.ld - 1) 0, ld := c.cur.ld - 1 })⟩, rfl⟩

/-- R212: the numbers of a relative target. -/
theorem relative_target {w slot : Nat} (off : Int) (hw : w < 2 ^ 40) (hs : slot < 3) :
    pcParcel (pcMk w slot) = 3 * w + slot ∧
    pcWord (pcAdd (pcMk w slot) off) = ((3 * w + slot + off) % (3 * 2 ^ 40)).toNat / 3 ∧
    pcSlot (pcAdd (pcMk w slot) off) = ((3 * w + slot + off) % (3 * 2 ^ 40)).toNat % 3 := by
  have hp := pcParcel_pcMk hw (show slot < 4 by omega)
  have hn : parcelAdd (pcMk w slot) off = ((3 * w + slot + off) % (3 * 2 ^ 40)).toNat := by
    rw [parcelAdd, hp]
    norm_num
  rw [pcWord_pcAdd, pcSlot_pcAdd, hn]
  exact ⟨hp, rfl, rfl⟩

/-- Settles O14: relative targets, each transfer with what it does to the return stack, and the loops. -/
theorem controlTransfers : Obligations.ControlTransfers :=
  ⟨fun _ _ off hw hs => relative_target off hw hs,
    fun s k ws a off woff ps sn => ⟨transfers s k ws off, longTransfers s k ws woff ps sn, indirectTransfers s k a ws⟩,
    fun s k ws a e long ps sn => ⟨loop_opens s k ws a e long ps sn, loop_skips s k ws e long ps sn, lexit_result s k ws,
      advance_atLend⟩⟩

end Sys2Proof.Machine

/-! ERET gives up accepted reads of instructions that it does not go back to (R179, R252). -/

namespace Sys2Proof.Machine

set_option Elab.async false

/-- Core 0 in level IL with its next instruction's word at hand, and an accepted read that a stop in level FL left. -/
def eretStateCore : Core :=
  { Core.woken 0 with
    lvl := 1, run := true, pc := pcMk 0x180000 0, fbuf := [0x180000], ct := [(1, Tok.mk4 0x180000 16 4 0)],
    kept := [⟨2, 0, 0, 0, none⟩] }

/-- A running block whose core 0 is about to issue an ERET to level TL. -/
def eretState : State :=
  wf (setCore { State.reset with running := true } 0 eretStateCore) (pctlPd 0) pctlPdSTATE 2

theorem eretState_issues : Issues eretState 0 1 [] := ⟨by decide, by decide, by decide⟩

theorem eretState_kept (t : State) (h : exec (.eret 0) eretState = .next t) : (coreOf t (0 : Fin 10)).kept = [] := by
  have he : exec (.eret 0) eretState = .next (atBoundary 0 (fun c => pairsNow c insEret) eretState (issue 0 insEret)) := rfl
  rw [he] at h
  obtain ⟨⟩ := h
  decide

/-- Refutes O15: ERET's clause says that the reads which stops left to instructions are as before. From level IL, with an accepted
read of level FL, ERET gives that read up (R252). -/
theorem not_levels : ¬ Obligations.Levels := by
  rintro ⟨hcalls, -⟩
  obtain ⟨-, -, heret⟩ := hcalls eretState 0 [] 0 eretState_issues
  obtain ⟨t, ht, ⟨hcore, -⟩, -⟩ := heret (by decide) (by decide) (by decide) (by decide)
  have hkept := congrArg Core.kept hcore
  dsimp only at hkept
  rw [eretState_kept t ht] at hkept
  exact absurd hkept (by decide)

end Sys2Proof.Machine

/-! Event polls, waits and FENCE (R220, R221). -/

namespace Sys2Proof.Machine

set_option Elab.async false

/-! An instruction that waits. -/

/-- The core record of an instruction that waits, as it was but for the cycle it has reached and its issue bookkeeping. -/
theorem finish_wait_eq {u x : State} {k now : Nat} {paired : Bool} {i : Ins} (hw : (coreOf x k).wait ≠ .none) :
    ∃ e p, finish u k now paired i (.wait x) = setCore x k { coreOf x k with cyc := e, prev := p } := by
  have hne : ((coreOf x k).wait == .none) = false := beq_false_of_ne hw
  simp only [finish, hne, Bool.and_false, Bool.false_and, Bool.false_eq_true, if_false]
  exact ⟨_, _, rfl⟩

/-- An instruction whose body, run in its issue cycle, waits with core k's record as d. -/
theorem wait_result {s : State} {k : Nat} (i : Ins) {c : Instr} {ws : List Word} {x : State} {d : Core}
    (h : Issues s k i.parcels.length ws) (hi : i.illegal = false)
    (hg : ∀ p sn, i.guard = some (p, sn) → guardPass (bankOf (fetched s k i.parcels.length) k) p sn = true)
    (hc : i.c ≤ ws.length) (hp : ws.length - i.c + i.p ≤ 32) (he : exec c s = runIns k i s)
    (hbody : i.body (issued s k i.parcels.length) k (issueCycle s k i) = .wait x)
    (hx : OnlyCore (fetched s k i.parcels.length) x k d) (hw : d.wait ≠ .none)
    (hpc : d.pc = (coreOf (fetched s k i.parcels.length) k).pc) :
    Runs c s (fun t => CoreIs [] (fetched s k i.parcels.length) t k (coreOf (fetched s k i.parcels.length) k).pc d) := by
  obtain ⟨e, p, hfin⟩ := finish_wait_eq (u := fetched s k i.parcels.length) (now := issueCycle s k i)
    (paired := pairsNow (coreOf s k) i) (i := i) (x := x) (k := k) (by rw [hx.core]; exact hw)
  have hrun : exec c s = .next (setCore x k { coreOf x k with cyc := e, prev := p }) := by
    rw [he, runIns_body s k i ws h hi hg hc hp, hbody, hfin]
  have hy := hx.setCore { coreOf x k with cyc := e, prev := p }
  refine ⟨_, hrun, ?_, fun m => ?_, hy.others, hy.parts.mono (by simp), ?_⟩
  · rw [hy.core, hx.core, ← hpc]
  · rw [hy.core, hx.core]; rfl
  · have hd := hy.parts .dbg (by simp)
    simp only [Part.same] at hd
    rw [hd]

/-! A wait that ends. -/

/-- What `waitsIn` says, item by item. -/
theorem waitsIn_iff (s : State) (k : Nat) (w : CoreWait) : waitsIn s k w = true ↔
    coreLive s k = true ∧ (coreOf s k).wait = w ∧ ({ coreOf s k with wait := .none } : Core).between = true ∧
    s.dbg.wps.contains k = false := by
  simp only [waitsIn, Bool.and_eq_true, beq_iff_eq, Bool.not_eq_true', and_assoc]

/-- The end of core k's wait: the instruction completes on what `f` makes of the core. -/
theorem waitDone_coreIs {s x : State} {k n : Nat} {w : CoreWait} {f : State → State} {d : Core} (h : waitsIn s k w = true)
    (hf : f s = x) (hx : OnlyCore s x k d) (hb : ({ d with wait := .none } : Core).between = true)
    (hpc : d.pc = (coreOf s k).pc) (hr : d.run = (coreOf s k).run) (hl : d.locked = (coreOf s k).locked)
    (hs : d.stopped = (coreOf s k).stopped) :
    CoreIs [] s (waitDone s k 1 n f) k (pcAdd (coreOf s k).pc 1) { d with wait := .none } := by
  subst hf
  obtain ⟨hlive, -, -, hwp⟩ := (waitsIn_iff s k w).1 h
  simp only [Core.between, Core.unbegun, Bool.and_eq_true, beq_iff_eq, Option.isNone_iff_eq_none, Bool.not_eq_true', List.isEmpty_iff,
    and_assoc] at hb
  obtain ⟨-, hgrem, hgpc, hstep, hhdr, hhold, hgot, hlend, hdbg⟩ := hb
  have hlend' : d.atLend = false := hlend
  have hwrap : d.wrapBad = false := by simp [Core.wrapBad, hlend']
  generalize hcy : max d.cyc ((((coreOf s k).prev.map (·.cyc)).getD (coreOf s k).cyc) + n) = cy
  generalize hpv : (coreOf s k).prev.map (fun p => { p with cost := n }) = pv
  have hcore : ({ (d.advance 1).settled with cyc := cy, prev := pv, wait := .none } : Core) =
      { d with pc := pcAdd d.pc 1, cyc := cy, prev := pv, wait := .none } := by
    simp [Core.advance, Core.settled, hlend', hgrem, hgpc, hstep, hhdr, hhold, hgot]
  have hy := hx.setCore { d with pc := pcAdd d.pc 1, cyc := cy, prev := pv, wait := .none }
  have hdone : waitDone s k 1 n f = onDbg (setCore (f s) k { d with pc := pcAdd d.pc 1, cyc := cy, prev := pv, wait := .none })
      (fun d => { d with skip := d.skip.erase k }) := by
    have hcomplete : complete s (f s) k 1 ((((coreOf s k).prev.map (·.cyc)).getD (coreOf s k).cyc) + n)
        ((coreOf s k).prev.map (fun p => { p with cost := n })) =
        setCore (f s) k { d with pc := pcAdd d.pc 1, cyc := cy, prev := pv, wait := .none } := by
      simp only [complete, hx.core, hwrap, hcy, hpv, hcore, Bool.false_eq_true, if_false]
    have hd : (setCore (f s) k { d with pc := pcAdd d.pc 1, cyc := cy, prev := pv, wait := .none }).dbg = s.dbg := hy.parts .dbg (by simp)
    simp only [waitDone, hcomplete]
    exact settle_ready _ k ((hy.coreLive_eq hr hl hs).trans hlive) (by rw [hd]; exact hwp) (by rw [hy.core]; exact hdbg)
  have hd : (setCore (f s) k { d with pc := pcAdd d.pc 1, cyc := cy, prev := pv, wait := .none }).dbg = s.dbg := hy.parts .dbg (by simp)
  have hcore' : coreOf (onDbg (setCore (f s) k { d with pc := pcAdd d.pc 1, cyc := cy, prev := pv, wait := .none })
      (fun d => { d with skip := d.skip.erase k })) k = { d with pc := pcAdd d.pc 1, cyc := cy, prev := pv, wait := .none } := hy.core
  rw [hdone]
  refine ⟨?_, fun m => ?_, hy.others, (hy.parts.mono (by simp)).trans ((onDbg_sameBut _ _).mono (by simp)), ?_⟩
  · rw [hcore', hpc]
  · rw [hcore']; rfl
  · simp only [onDbg, hd]


/-! The commands. -/

/-- What an event poll with mask m makes of a core: it pushes the flags of the mask and clears them (R220). -/
def Core.polled (m : Nat) (c : Core) : Core :=
  { c.withCur (fun b => { b with ost := tset 0 b.ost b.osp (BitVec.ofNat 48 (c.ef &&& m)), osp := b.osp + 1 }) with
    ef := c.ef - (c.ef &&& m) }

theorem OnlyCore.evpoll {u x : State} {k : Nat} {c : Core} (h : OnlyCore u x k c) (m : Nat) : OnlyCore u (evpoll x k m) k (c.polled m) := by
  simp only [Machine.evpoll, h.core]
  exact h.setCore _

/-- A poll leaves a core's loops alone. -/
theorem Core.polled_atLend (c : Core) (m : Nat) : (c.polled m).atLend = c.atLend := by
  have hcur : (c.polled m).cur = { c.cur with
      ost := tset 0 c.cur.ost c.cur.osp (BitVec.ofNat 48 (c.ef &&& m)), osp := c.cur.osp + 1 } := Core.bank_setBank_same c c.lvl _
  rw [Core.atLend, hcur, Core.atLend]
  rfl

theorem Core.between_polled {c : Core} (h : c.between = true) (m : Nat) : (c.polled m).between = true := by
  have hat := c.polled_atLend m
  simp only [Core.between, hat] at h ⊢
  exact h

theorem evpoll_result {s : State} {k : Fin 10} {c : Instr} {ws : List Word} {m : Nat} (i : Ins) (hn : i.parcels.length = 1)
    (h : Issues s k 1 ws) (hws : ws.length < 32) (hi : i.illegal = false) (hg : i.guard = none) (hc : i.c = 0) (hp : i.p = 1)
    (he : exec c s = runIns k i s)
    (hbody : ∀ now, i.body (issued s k 1) k now = fin1 (evpoll (issued s k 1) k m)) : CoreResult c s k 1 (Core.polled m) := by
  rw [← hn] at h hbody ⊢
  exact core_result_at i h hi (fun _ _ hs => by rw [hg] at hs; exact nomatch hs) (by omega) (by omega) he (hbody _)
    ((onlyCore_issued s k _).evpoll m) (Core.between_polled (Core.between_of_ready _ _ h.ready) m) rfl rfl rfl rfl

theorem wait_at_once {s : State} {k : Fin 10} {ws : List Word} {m : Fin 16} (h : Issues s k 1 ws) (hws : ws.length < 32)
    (hev : (coreOf (fetched s k 1) k).ef &&& m.val ≠ 0) : CoreResult (.wait k m) s k 1 (Core.polled m.val) :=
  evpoll_result (insWait m) rfl h hws rfl rfl rfl rfl rfl (fun now => by
    simp only [insWait, coreOf_issued, bne_iff_ne]
    rw [if_pos hev])

theorem wait_begins {s : State} {k : Fin 10} {ws : List Word} {m : Fin 16} (h : Issues s k 1 ws) (hws : ws.length < 32)
    (hev : (coreOf (fetched s k 1) k).ef &&& m.val = 0) :
    Runs (.wait k m) s (fun t => CoreIs [] (fetched s k 1) t k (coreOf (fetched s k 1) k).pc
      { coreOf (fetched s k 1) k with wait := .event m.val 1 false }) := by
  have hbody : (insWait m).body (issued s k 1) k (issueCycle s k (insWait m)) =
      .wait (setCore (issued s k 1) k { coreOf (fetched s k 1) k with wait := .event m.val 1 false }) := by
    simp only [insWait, coreOf_issued, bne_iff_ne]
    rw [if_neg (not_not.2 hev)]
  exact wait_result (insWait m) h rfl (fun _ _ hg => nomatch hg) (Nat.zero_le _) hws rfl hbody ((onlyCore_issued s k 1).setCore _)
    (fun hw => nomatch hw) rfl

theorem waitEnd_completes {s : State} {k : Fin 10} {m : Nat} {skipped : Bool} (cycles : BitVec 16)
    (h : waitsIn s k (.event m 1 skipped) = true) (hev : (coreOf s k).ef &&& m ≠ 0) :
    Runs (.waitEnd k cycles) s (fun t => CoreIs [] s t k (pcAdd (coreOf s k).pc 1)
      { (if skipped then coreOf s k else (coreOf s k).polled m) with wait := .none }) := by
  obtain ⟨hlive, hwait, hbetween, -⟩ := (waitsIn_iff s k _).1 h
  have he : exec (.waitEnd k cycles) s =
      .next (waitDone s k 1 (1 + cycles.toNat) (fun s => if skipped then s else evpoll s k m)) := by
    change execWaitEnd k cycles s = _
    simp only [execWaitEnd, hwait, hlive, onlyIf, Bool.true_and, bne_iff_ne]
    rw [if_pos hev]
  refine ⟨_, he, ?_⟩
  have hx : OnlyCore s s k (coreOf s k) := ⟨rfl, fun _ _ => rfl, SameBut.refl _ _⟩
  cases skipped
  · exact waitDone_coreIs h rfl (hx.evpoll m) (Core.between_polled hbetween m) rfl rfl rfl rfl
  · exact waitDone_coreIs h rfl hx hbetween rfl rfl rfl rfl

/-- A write-combining buffer that is empty is not emitted. -/
theorem wcEmit_none {s : State} {k : Nat} (h : (svcOf s k).wcb = none) : wcEmit s k = s := by
  simp only [wcEmit, h]

theorem svcOf_issued (s : State) (k n : Nat) (j : Nat) : svcOf (issued s k n) j = svcOf (fetched s k n) j := rfl

theorem wcEmit_issued {s : State} {k n : Nat} (h : (svcOf (fetched s k n) k).wcb = none) : wcEmit (issued s k n) k = issued s k n :=
  wcEmit_none (by rw [svcOf_issued, h])

theorem fenceClear_issued (s : State) (k n : Nat) : fenceClear (issued s k n) k = fenceClear (fetched s k n) k := by
  simp only [fenceClear, postedDone, coreOf_issued, svcOf_issued]

/-- Nothing asynchronous waits for a core that is ready. -/
theorem asyncWaits_issued {s : State} {k n : Nat} {ws : List Word} (h : Issues s k n ws) : asyncWaits (issued s k n) k = false := by
  obtain ⟨-, -, hasyncs, hsig, -⟩ := (coreReady_iff _ k).1 h.ready
  have hs : (issued s k n).sig = (fetched s k n).sig := (issued_sameBut s k n) .sig (by simp)
  simp [asyncWaits, coreOf_issued, hasyncs, hs, hsig]

theorem fence_at_once {s : State} {k : Fin 10} {ws : List Word} (h : Issues s k 1 ws) (hwcb : (svcOf (fetched s k 1) k).wcb = none)
    (hclear : fenceClear (fetched s k 1) k = true) : CoreResult (.fence k) s k 1 id := by
  have hbody : insFence.body (issued s k 1) k (issueCycle s k insFence) = fin1 (issued s k 1) := by
    simp only [insFence, wcEmit_issued hwcb, fenceClear_issued, hclear, asyncWaits_issued h]
    rfl
  exact core_result_at insFence h rfl (fun _ _ hg => nomatch hg) (Nat.zero_le _) h.length_le rfl hbody (onlyCore_issued s k 1)
    (Core.between_of_ready _ _ h.ready) rfl rfl rfl rfl

theorem fence_begins {s : State} {k : Fin 10} {ws : List Word} (h : Issues s k 1 ws) (hwcb : (svcOf (fetched s k 1) k).wcb = none)
    (hclear : fenceClear (fetched s k 1) k = false) :
    Runs (.fence k) s (fun t => CoreIs [] (fetched s k 1) t k (coreOf (fetched s k 1) k).pc
      { coreOf (fetched s k 1) k with wait := .fence false }) := by
  have hbody : insFence.body (issued s k 1) k (issueCycle s k insFence) =
      .wait (setCore (issued s k 1) k { coreOf (fetched s k 1) k with wait := .fence false }) := by
    simp only [insFence, wcEmit_issued hwcb, fenceClear_issued, hclear, coreOf_issued]
    rfl
  exact wait_result insFence h rfl (fun _ _ hg => nomatch hg) (Nat.zero_le _) h.length_le rfl hbody ((onlyCore_issued s k 1).setCore _)
    (fun hw => nomatch hw) rfl

theorem fenceComplete_completes {s : State} {k : Fin 10} {skipped : Bool} (cycles : BitVec 16) (h : waitsIn s k (.fence skipped) = true)
    (hclear : (if skipped then postedDone s k else fenceClear s k) = true) (hasyncs : (coreOf s k).asyncs = [])
    (hsig : s.sig.asyncs.any (fun x => x.1 == k.val) = false) :
    Runs (.fenceComplete k cycles) s (fun t => CoreIs [] s t k (pcAdd (coreOf s k).pc 1) { coreOf s k with wait := .none }) := by
  obtain ⟨hlive, hwait, hbetween, -⟩ := (waitsIn_iff s k _).1 h
  have hdue : asyncDue s k = false := by simp [asyncDue, hasyncs]
  have he : exec (.fenceComplete k cycles) s = .next (waitDone s k 1 (1 + cycles.toNat) id) := by
    change execFenceComplete k cycles s = _
    simp only [execFenceComplete, takeAsyncs_none s k hsig, hwait, hlive, onlyIf, hclear, hdue]
    rfl
  exact ⟨_, he, waitDone_coreIs h rfl ⟨rfl, fun _ _ => rfl, SameBut.refl _ _⟩ hbetween rfl rfl rfl rfl⟩

/-- Settles O16: what completes at once, what waits, and what ends a wait. -/
theorem waitsAndFences : Obligations.WaitsAndFences :=
  fun _ _ _ m cycles => ⟨fun h hws => ⟨evpoll_result (insEvpoll m) rfl h hws rfl rfl rfl rfl rfl (fun _ => rfl), wait_at_once h hws,
      wait_begins h hws⟩,
    fun _ h => waitEnd_completes cycles h, fun h hwcb => ⟨fence_at_once h hwcb, fence_begins h hwcb⟩,
    fun _ h => fenceComplete_completes cycles h⟩

end Sys2Proof.Machine

/-! Token accesses and saves of a core's own scratchpad while its domain is being cleared (R181, R223, R240, R276). -/

namespace Sys2Proof.Machine

set_option Elab.async false

/-- Core 0 with `fb` fetched, a level-3 bank of one operand 0, and token 0 for the first words of its data scratchpad. -/
def clearingCoreWith (fb : Nat) (len perm : Nat) : Core :=
  { clearingCore with
    fbuf := [fb], banks := [(3, { Bank.zero with osp := 1, toks := [(0, Tok.mk4 0x100000 len perm 0)] })] }

/-- The block of `clearingState` with such a core. -/
def clearingStateWith (fb : Nat) (len perm : Nat) : State := setCore clearingState 0 (clearingCoreWith fb len perm)

/-- The block whose core 0 is about to issue LDTOK while domain 8 is being cleared. -/
abbrev clearingLoad : State := clearingStateWith 0x180000 16 1

theorem clearingLoad_issues : Issues clearingLoad 0 1 [0] := ⟨by decide, by decide, by decide⟩

theorem clearingLoad_spWord (a : Nat) (ha : a = 0x100000 ∨ a = 0x100001) : spWord (fetched clearingLoad 0 1) 0 a = true := by
  obtain rfl | rfl := ha <;> decide

theorem clearingLoad_tokenCheck :
    tokenCheck ((bankOf (fetched clearingLoad 0 1) 0).tok 0) 0 [0] (0 : Word).toInt 2 = .ok 0x100000 := by rfl

/-- The load waits for the clearing, so its PC stays. -/
theorem clearingLoad_tld (t : State) (h : exec (.tld 0 0 0) clearingLoad = .next t) :
    (coreOf t 0).pc = pcMk 0x180000 0 := by
  have he : exec (.tld 0 0 0) clearingLoad =
      .next (atBoundary 0 (fun c => pairsNow c (insTld 0 0)) clearingLoad (issue 0 (insTld 0 0))) := rfl
  rw [he] at h
  obtain ⟨⟩ := h
  decide

/-- Refutes O19: the statement does not ask that the words' domain is past its clearing (R276). Core 0's LDTOK of two words of its own
data scratchpad that answer, are whole and meet no watchpoint waits while the domain is being cleared. -/
theorem not_tokenMoves : ¬ Obligations.TokenMoves := by
  rintro ⟨hmoves, -⟩
  obtain ⟨hload, -⟩ := hmoves clearingLoad 0 [] 0 0 0 0 0x100000 clearingLoad_issues
    (clearingLoad_spWord _ (.inl rfl)) (clearingLoad_spWord _ (.inr rfl)) (by decide)
  obtain ⟨t, ht, -, hcore, -⟩ := hload clearingLoad_tokenCheck
  have hpc : (coreOf t 0).pc = pcAdd (coreOf (fetched clearingLoad 0 1) 0).pc 1 := congrArg Core.pc hcore
  rw [clearingLoad_tld t ht] at hpc
  revert hpc
  decide

/-- The block whose core 0 is about to begin SAVEL while domain 8 is being cleared. -/
abbrev clearingSave : State := clearingStateWith 0x180000 80 2

theorem clearingSave_resumes : Resumes clearingSave 0 0 false [0] :=
  ⟨by decide, by decide, by decide, by decide, by decide, by decide, by decide⟩

theorem clearingSave_saveCheck : saveCheck ((bankOf (fetched clearingSave 0 2) 0).tok 0) 0 false [1] = none := by decide

/-- The save's first store waits for the clearing, so the save stays at its first step. -/
theorem clearingSave_savel (t : State) (h : exec (.savel 0 0 false 0 0) clearingSave = .next t) : (coreOf t 0).step = 0 := by
  have he : exec (.savel 0 0 false 0 0) clearingSave =
      .next (atBoundary 0 (fun c => pairsNow c (insSavel 0 false 0 0)) clearingSave (issue 0 (insSavel 0 false 0 0))) := rfl
  rw [he] at h
  obtain ⟨⟩ := h
  decide

/-- Refutes O20: the statement does not ask that the word's domain is past its clearing (R276). The first store of core 0's SAVEL into its
own data scratchpad waits while the domain is being cleared. -/
theorem not_saveAndRestore : ¬ Obligations.SaveAndRestore := by
  rintro ⟨hsaves, -⟩
  obtain ⟨hsavel, -⟩ := hsaves clearingSave 0 [] 0 0 0 false 0x100000 0 clearingSave_resumes (by decide) (by decide) (by decide)
  obtain ⟨hstep, -⟩ := hsavel clearingSave_saveCheck
  obtain ⟨t, ht, -, hnext, -⟩ := hstep (by decide)
  have hstay : (coreOf t 0).step = 0 := clearingSave_savel t ht
  exact absurd (hstay.symm.trans hnext) (by decide)

end Sys2Proof.Machine

/-! Token registers (R237, R239, R241, R243 to R246). -/

namespace Sys2Proof.Machine

set_option Elab.async false

/-- Token register d of the bank in use is set and operands are popped. -/
def Core.tokSet (c : Core) (d pops : Nat) (t : Tok) : Core :=
  c.withCur (fun b => { b with toks := tset Tok.zero b.toks d t, osp := b.osp - pops })

/-- An instruction that pops its operands and sets a token register. -/
theorem tokSet_result {s : State} {k : Nat} (i : Ins) {c : Instr} {ws : List Word} (d : Nat) (t : Tok) (h : Issues s k i.parcels.length ws)
    (hi : i.illegal = false) (hg : ∀ p sn, i.guard = some (p, sn) → guardPass (bankOf (fetched s k i.parcels.length) k) p sn = true)
    (hc : i.c ≤ ws.length) (hp : i.p = 0) (he : exec c s = runIns k i s)
    (hbody : ∀ now, i.body (issued s k i.parcels.length) k now =
      fin1 (onBank (issued s k i.parcels.length) k (fun b => (b.drop i.c).setTok d t))) :
    CoreResult c s k i.parcels.length (fun c => c.tokSet d i.c t) := by
  have hlen := h.length_le
  exact bank_result s k i c ws (fun b => (b.drop i.c).setTok d t) h hi hg hc (by omega) he (fun now => ⟨1, hbody now⟩) rfl rfl

/-- The same of a short form. -/
theorem tokSetShort_result {s : State} {k : Nat} (i : Ins) {c : Instr} {ws : List Word} {d n : Nat} {t : Tok} (h : Issues s k 1 ws)
    (hn : i.parcels.length = 1) (hi : i.illegal = false) (hg : i.guard = none) (hcn : i.c = n) (hc : n ≤ ws.length) (hp : i.p = 0)
    (he : exec c s = runIns k i s)
    (hbody : ∀ now, i.body (issued s k 1) k now = fin1 (onBank (issued s k 1) k (fun b => (b.drop n).setTok d t))) :
    CoreResult c s k 1 (fun c => c.tokSet d n t) := by
  subst hcn
  rw [← hn] at h hbody ⊢
  exact tokSet_result i d t h hi (fun p sn hs => by rw [hg] at hs; exact nomatch hs) hc hp he hbody

/-! Copies of tokens (R243, R244). -/

theorem tokenCopies (s : State) (k : Fin 10) (ws : List Word) (d q : Fin 16) (h : Issues s k 1 ws) :
    CoreResult (.tmov k d q) s k 1 (fun c => c.tokSet d 0 ((coreOf (fetched s k 1) k).cur.tok q.val)) ∧
    CoreResult (.tclr k d) s k 1 (fun c => c.tokSet d 0 Tok.zero) ∧
    CoreResult (.tgetct k d) s k 1 (fun c => c.tokSet d 0 ((coreOf (fetched s k 1) k).code (coreOf (fetched s k 1) k).lvl)) := by
  refine ⟨tokSetShort_result (insTmov d q) h rfl rfl rfl rfl (Nat.zero_le _) rfl rfl (fun now => ?_),
    tokSetShort_result (insTclr d) h rfl rfl rfl rfl (Nat.zero_le _) rfl rfl (fun _ => rfl),
    tokSetShort_result (insTgetct d) h rfl rfl rfl rfl (Nat.zero_le _) rfl rfl (fun now => ?_)⟩
  · rw [← coreOf_issued s k 1 k]; rfl
  · rw [← coreOf_issued s k 1 k]; rfl

theorem tgete_result (s : State) (k : Fin 10) (ws : List Word) (d n : Fin 16) (hn : n.val < 9) (h : Issues s k 1 ws) :
    CoreResult (.tgete k d n) s k 1 (fun c => c.tokSet d 0 ((coreOf (fetched s k 1) k).ecp n.val)) := by
  refine tokSetShort_result (insTgete d n) h rfl ?_ rfl rfl (Nat.zero_le _) rfl rfl (fun now => ?_)
  · simpa [insTgete] using hn
  · rw [← coreOf_issued s k 1 k]; rfl

theorem tget_result (s : State) (k : Fin 10) (ws : List Word) (q : Fin 16) (f : Fin 8) (hf : f.val < 5) (h : Issues s k 1 ws)
    (hlen : ws.length < 32) :
    StackResult (.tget k q f) s k 1 (tokField ((coreOf (fetched s k 1) k).cur.tok q.val) f.val :: ws) := by
  refine stack_result s k (insTget q f) (.tget k q f) ws 0 (fun b => [tokField (b.tok q.val) f.val]) h ?_ (fun _ _ hg => nomatch hg)
    (Nat.zero_le _) hlen rfl (fun _ _ => ⟨1, rfl⟩)
  simpa [insTget] using hf

theorem tokField_eq (t : Tok) (f : Fin 8) (hf : f.val < 5) :
    tokField t f.val = [t.w0, BitVec.ofNat 48 t.len, BitVec.ofNat 48 t.perm, BitVec.ofNat 48 t.otype, if t.tag then 1 else 0].getD f.val 0 := by
  match f, hf with
  | 0, _ | 1, _ | 2, _ | 3, _ => rfl
  | 4, _ =>
    show BitVec.ofNat 48 (b2n t.tag) = if t.tag then 1 else 0
    cases t.tag <;> rfl

/-! Narrowed and root tokens (R239, R245). -/

theorem Tok.sealed_eq_false {t : Tok} (h : t.otype < 0x40) : t.sealed = false := by
  rw [Tok.sealed, decide_eq_false]
  omega

theorem toNat_toInt_of_nonneg {w : Word} (h : 0 ≤ w.toInt) : w.toInt.toNat = w.toNat := by
  have hlt := w.isLt
  rw [BitVec.toInt_eq_toNat_cond] at h ⊢
  by_cases hw : 2 * w.toNat < 2 ^ 48
  · rw [if_pos hw]; omega
  · rw [if_neg hw] at h; omega

/-- A token of a range within T's, of some of its rights, sealed as T where `keep`. -/
def Tok.narrowed (T : Tok) (off len m : Word) : Tok :=
  ⟨BitVec.ofNat 48 (T.base + off.toNat),
    BitVec.ofNat 48 ((if m.getLsbD 8 then T.otype else 0) * 2 ^ 40 + (T.perm &&& (m.toNat % 256)) * 2 ^ 32 + len.toNat % 2 ^ 32), true⟩

theorem Tok.perm_lt (T : Tok) : T.perm < 256 := Nat.mod_lt _ (by omega)

theorem Tok.otype_lt (T : Tok) : T.otype < 256 := by
  have := T.w1.isLt
  rw [Tok.otype]
  omega

theorem mk4_narrowed (T : Tok) (off len m : Word) :
    Tok.mk4 ((T.base + off.toNat) % 2 ^ 48) len.toNat (T.perm &&& (m.toNat % 256)) (if m.toNat.testBit 8 then T.otype else 0) =
      T.narrowed off len m := by
  have hbase : BitVec.ofNat 48 ((T.base + off.toNat) % 2 ^ 48) = BitVec.ofNat 48 (T.base + off.toNat) := BitVec.eq_of_toNat_eq (by simp)
  have hperm : (T.perm &&& (m.toNat % 256)) % 256 = T.perm &&& (m.toNat % 256) :=
    Nat.mod_eq_of_lt (Nat.lt_of_le_of_lt Nat.and_le_left T.perm_lt)
  have hty : (if m.toNat.testBit 8 then T.otype else 0) % 256 = if m.toNat.testBit 8 then T.otype else 0 := by
    have := T.otype_lt
    split <;> omega
  rw [Tok.mk4, hbase, hperm, hty, ← BitVec.getLsbD, Tok.narrowed]

/-- TNARROW of a range within the token's. -/
theorem narrowBody_narrowed {x : State} {k now : Nat} {T : Tok} {off len m : Word} (d q : Nat) (hT : (bankOf x k).tok q = T)
    (h2 : (bankOf x k).peek 2 = off) (h1 : (bankOf x k).peek 1 = len) (h0 : (bankOf x k).peek 0 = m) (htag : T.tag = true)
    (ho : T.otype < 0x40) (hoff : 0 ≤ off.toInt) (hlen : len ≠ 0) (hmax : len.toNat ≤ 2 ^ 32) (hfit : off.toNat + len.toNat ≤ T.len)
    (hwhole : T.otype = 0x22 → m.getLsbD 8 = true → off = 0 ∧ len.toNat = T.len) :
    narrowBody d q x k now = fin1 (onBank x k (fun b => (b.drop 3).setTok d (T.narrowed off len m))) := by
  have hnat := toNat_toInt_of_nonneg hoff
  have hlen0 : len.toNat ≠ 0 := fun h => hlen (BitVec.eq_of_toNat_eq h)
  have hkeep : (decide (T.otype = 0x22) && m.toNat.testBit 8 && !(decide (off.toInt = 0) && decide (len.toNat = T.len))) = false := by
    by_cases hk : T.otype = 0x22 ∧ m.toNat.testBit 8 = true
    · obtain ⟨rfl, hl⟩ := hwhole hk.1 hk.2
      simp [hl]
    · simp only [not_and, Bool.not_eq_true] at hk
      by_cases h22 : T.otype = 0x22
      · simp [hk h22]
      · simp [h22]
  have hrange : (decide (off.toInt < 0) || decide (len.toNat = 0) || decide (2 ^ 32 < len.toNat) ||
      decide ((T.len : Int) < off.toInt + len.toNat)) = false := by
    simp only [Bool.or_eq_false_iff, decide_eq_false_iff_not]
    omega
  simp only [narrowBody, hT, h2, h1, h0, htag, Tok.sealed_eq_false ho, hrange, hkeep, hnat, mk4_narrowed, Bool.not_true,
    Bool.or_false, Bool.false_eq_true, if_false]

theorem tnarrow_result (s : State) (k : Fin 10) (ws : List Word) (off len m : Word) (d q : Fin 16)
    (h : Issues s k 1 (m :: len :: off :: ws)) {T : Tok} (hT : (coreOf (fetched s k 1) k).cur.tok q.val = T) (htag : T.tag = true)
    (ho : T.otype < 0x40) (hoff : 0 ≤ off.toInt) (hlen : len ≠ 0) (hmax : len.toNat ≤ 2 ^ 32) (hfit : off.toNat + len.toNat ≤ T.len)
    (hwhole : T.otype = 0x22 → m.getLsbD 8 = true → off = 0 ∧ len.toNat = T.len) :
    CoreResult (.tnarrow k d q) s k 1 (fun c => c.tokSet d 3 (T.narrowed off len m)) := by
  refine tokSetShort_result (insTnarrow d q) h rfl rfl rfl rfl (by simp) rfl rfl (fun now => ?_)
  have hbank := bankOf_issued s k 1 k
  exact narrowBody_narrowed (now := now) d.val q.val (by rw [hbank]; exact hT) (by rw [hbank]; exact h.peek 2 off rfl) (by rw [hbank]; exact h.nos)
    (by rw [hbank]; exact h.tos) htag ho hoff hlen hmax hfit hwhole

/-- TROOT of a kind and number that name a root token. -/
theorem troot_result (s : State) (k : Fin 10) (ws : List Word) (i : Word) (d : Fin 16) (kind : Fin 4) (t : Tok) (hk : kind.val ≠ 3)
    (h : Issues s k 1 (i :: ws)) (hlock : (coreOf (fetched s k 1) k).rootLock = false) (ht : rootTok kind.val i.toNat = some t) :
    CoreResult (.troot k d kind) s k 1 (fun c => c.tokSet d 1 t) := by
  refine tokSetShort_result (insTroot d kind) h rfl ?_ rfl rfl (by simp) rfl rfl (fun now => ?_)
  · simpa [insTroot] using hk
  · have htos : (coreOf (issued s k 1) k).cur.peek 0 = i := by rw [coreOf_issued]; exact h.tos
    have hlock' : (coreOf (issued s k 1) k).rootLock = false := by rw [coreOf_issued]; exact hlock
    simp only [insTroot, htos, hlock', ht, Bool.false_eq_true, if_false]

theorem rootTok_memory {i : Nat} (h : i ≤ 255) : rootTok 0 i = some ⟨BitVec.ofNat 48 (i * 2 ^ 32), 0x009F00000000, true⟩ := by
  simp [rootTok, h, Tok.mk4]

theorem rootTok_system {i : Nat} (h : i = 0x20 ∨ i = 0x21) :
    rootTok 1 i = some ⟨0, BitVec.ofNat 48 (i * 2 ^ 40 + 0x8300000001), true⟩ := by
  obtain rfl | rfl := h <;> rfl

theorem rootTok_key {i : Word} (h1 : 0x40 ≤ i.toNat) (h2 : i.toNat ≤ 0xFF) : rootTok 2 i.toNat = some ⟨i, 0x22E000000001, true⟩ := by
  simp [rootTok, h1, h2, Tok.mk4]

/-! Writes of code and entry tokens (R246). -/

theorem keyFault_none {K : Tok} {key : Nat} (htag : K.tag = true) (ho : K.otype = 0x20) : keyFault K key = none := by
  simp [keyFault, htag, ho]

theorem lgGuard_pass {s : State} {k n : Nat} {ps : Fin 8} {sn : Bool} (h : guardPass (bankOf (fetched s k n) k) ps.val sn = true)
    (p : Nat) (q : Bool) (hs : lgGuard ps sn = some (p, q)) : guardPass (bankOf (fetched s k n) k) p q = true := by
  obtain ⟨rfl, rfl⟩ := Prod.mk.inj (Option.some.inj hs)
  exact h

/-- A long form that takes no operands and changes its core's record, but none of the fields a core's issue looks at. -/
theorem coreLong_result {s : State} {k : Nat} (i : Ins) {c : Instr} {ws : List Word} {ps : Fin 8} {sn : Bool} {f : Core → Core}
    (h : IssuesLong s k ps sn ws) (hn : i.parcels.length = 2) (hi : i.illegal = false) (hg : i.guard = lgGuard ps sn)
    (hc : i.c = 0) (hp : i.p = 0) (he : exec c s = runIns k i s)
    (hbody : ∀ now, i.body (issued s k 2) k now = fin1 (setCore (issued s k 2) k (f (coreOf (issued s k 2) k))))
    (hf : (f (coreOf (fetched s k 2) k)).between = true)
    (h1 : (f (coreOf (fetched s k 2) k)).run = (coreOf (fetched s k 2) k).run)
    (h2 : (f (coreOf (fetched s k 2) k)).locked = (coreOf (fetched s k 2) k).locked)
    (h3 : (f (coreOf (fetched s k 2) k)).stopped = (coreOf (fetched s k 2) k).stopped)
    (h4 : (f (coreOf (fetched s k 2) k)).pc = (coreOf (fetched s k 2) k).pc) : CoreResult c s k 2 f := by
  obtain ⟨hissues, -, hpass⟩ := h
  have hlen := hissues.length_le
  rw [← hn] at hissues hbody hpass hf h1 h2 h3 h4 ⊢
  exact core_result s k i c ws f hissues hi (fun p q hs => lgGuard_pass hpass p q (hg ▸ hs)) (by omega) (by omega) he
    (fun now => ⟨1, by rw [hbody, coreOf_issued]; rfl⟩) hf h1 h2 h3 h4

theorem tsetct_result (s : State) (k : Fin 10) (ws : List Word) (l : Fin 4) (q key : Fin 16) (ps : Fin 8) (sn : Bool)
    (h : IssuesLong s k ps sn ws) {c : Core} (hcore : coreOf (fetched s k 2) k = c) (hl : l.val < c.lvl)
    (hkey : (c.cur.tok key.val).tag = true) (hkt : (c.cur.tok key.val).otype = 0x20) (htag : (c.cur.tok q.val).tag = true)
    (ho : (c.cur.tok q.val).otype < 0x40) :
    CoreResult (.tsetct k ps sn l q key) s k 2 (fun x => { x with ct := tset Tok.zero x.ct l.val (c.cur.tok q.val) }) := by
  have hbetween := Core.between_of_ready _ _ h.1.ready
  refine coreLong_result (insTsetct ps sn l q key) h rfl h.2.1 rfl rfl rfl rfl (fun now => ?_) hbetween rfl rfl rfl rfl
  have hissued : coreOf (issued s k 2) k = c := (coreOf_issued _ _ _ _).trans hcore
  simp only [insTsetct, setctBody, hissued, keyFault_none hkey hkt, htag, Tok.sealed_eq_false ho, not_le.2 hl]
  rfl

/-- The checks of TSETE pass: the key writes entries, and the token is an entry token. -/
theorem seteBody_passes {x : State} {k now n q key : Nat} {par : List Nat} {c : Core} (hcore : coreOf x k = c)
    (hkey : (c.cur.tok key).tag = true) (hkt : (c.cur.tok key).otype = 0x20) (hq : n < 8 → q ≤ 14)
    (htag : (c.cur.tok q).tag = true) (ho : (c.cur.tok q).otype = 0xFF)
    (hd : n < 8 → (c.cur.tok (q + 1)).tag = false ∨ (c.cur.tok (q + 1)).otype = 0xFF) :
    seteBody n q key par x k now = fin1 (setCore x k { c with
      ec := tset Tok.zero c.ec n (c.cur.tok q), ed := if n < 8 then tset Tok.zero c.ed n (c.cur.tok (q + 1)) else c.ed }) := by
  by_cases hn : n < 8
  · have hq14 := hq hn
    have hdata : ((c.cur.tok (q + 1)).tag && (c.cur.tok (q + 1)).otype != 0xFF) = false := by
      obtain h | h := hd hn <;> simp [h]
    simp [seteBody, hcore, keyFault_none hkey hkt, hn, not_lt.2 hq14, htag, ho, hdata]
  · simp [seteBody, hcore, keyFault_none hkey hkt, hn, htag, ho]

theorem tsete_result (s : State) (k : Fin 10) (ws : List Word) (n q key : Fin 16) (ps : Fin 8) (sn : Bool)
    (h : IssuesLong s k ps sn ws) {c : Core} (hcore : coreOf (fetched s k 2) k = c) (hn : n.val < 9)
    (hkey : (c.cur.tok key.val).tag = true) (hkt : (c.cur.tok key.val).otype = 0x20) (hq : n.val < 8 → q.val ≤ 14)
    (htag : (c.cur.tok q.val).tag = true) (ho : (c.cur.tok q.val).otype = 0xFF)
    (hd : n.val < 8 → (c.cur.tok (q.val + 1)).tag = false ∨ (c.cur.tok (q.val + 1)).otype = 0xFF) :
    CoreResult (.tsete k ps sn n q key) s k 2 (fun x => { x with
      ec := tset Tok.zero x.ec n.val (c.cur.tok q.val),
      ed := if n.val < 8 then tset Tok.zero x.ed n.val (c.cur.tok (q.val + 1)) else x.ed }) := by
  have hbetween := Core.between_of_ready _ _ h.1.ready
  have hlegal : (badGuard ps sn || 9 ≤ n.val) = false := by simp [h.2.1]; omega
  refine coreLong_result (insTsete ps sn n q key) h rfl hlegal rfl rfl rfl rfl (fun now => ?_) hbetween rfl rfl rfl rfl
  have hissued : coreOf (issued s k 2) k = c := (coreOf_issued _ _ _ _).trans hcore
  rw [hissued]
  exact seteBody_passes (now := now) hissued hkey hkt hq htag ho hd

/-! Sealing (R241). -/

/-- The checks of TSEAL (bit 5) and TUNSEAL (bit 6) pass. -/
theorem sealBody_passes {x : State} {k now d q key bit : Nat} {T K : Tok} (hT : (bankOf x k).tok q = T) (hK : (bankOf x k).tok key = K)
    (htag : T.tag = true) (hkey : K.tag = true) (hkt : K.otype = 0x22) (hmay : K.may bit = true)
    (ho : T.otype = if bit = 5 then 0 else K.base % 256) :
    sealBody d q key bit x k now = fin1 (setTokR x k d (T.retype (if bit = 5 then K.base % 256 else 0))) := by
  have hs : K.sealed = false := Tok.sealed_eq_false (by omega)
  simp [sealBody, hT, hK, htag, hkey, hkt, hmay, hs, ← ho]

theorem Tok.retype_of_unsealed {t : Tok} (h : t.otype = 0) (n : Nat) :
    t.retype (n % 256) = ⟨t.w0, BitVec.ofNat 48 (t.w1.toNat + n % 256 * 2 ^ 40), t.tag⟩ := by
  have hw : t.w1.toNat % 2 ^ 40 = t.w1.toNat := Nat.mod_eq_of_lt (by rw [Tok.otype] at h; omega)
  rw [Tok.retype, hw, Nat.mod_mod]

theorem Tok.retype_zero (t : Tok) : t.retype 0 = ⟨t.w0, BitVec.ofNat 48 (t.w1.toNat % 2 ^ 40), t.tag⟩ := rfl

theorem Tok.retype_retype (t : Tok) (m : Nat) (h : t.otype = 0) : (t.retype (m % 256)).retype 0 = t := by
  have hw : t.w1.toNat < 2 ^ 40 := by rw [Tok.otype] at h; omega
  have hsum : (BitVec.ofNat 48 (t.w1.toNat + m % 256 * 2 ^ 40)).toNat % 2 ^ 40 = t.w1.toNat := by
    rw [BitVec.toNat_ofNat]; omega
  rw [Tok.retype_of_unsealed h, Tok.retype_zero, hsum, BitVec.ofNat_toNat, BitVec.setWidth_eq]

theorem seal_result {s : State} {k : Fin 10} {ws : List Word} {d q key : Fin 16} {ps : Fin 8} {sn : Bool} {bit : Nat} {c : Instr}
    (i : Ins) (h : IssuesLong s k ps sn ws) (he : exec c s = runIns k i s) (hn : i.parcels.length = 2)
    (hi : i.illegal = badGuard ps sn) (hg : i.guard = lgGuard ps sn) (hc : i.c = 0) (hp : i.p = 0)
    (hbody : i.body = sealBody d.val q.val key.val bit) {T K : Tok} (hT : (bankOf (fetched s k 2) k).tok q.val = T)
    (hK : (bankOf (fetched s k 2) k).tok key.val = K) (htag : T.tag = true) (hkey : K.tag = true) (hkt : K.otype = 0x22)
    (hmay : K.may bit = true) (ho : T.otype = if bit = 5 then 0 else K.base % 256) :
    CoreResult c s k 2 (fun c => c.withCur (fun b => { b with toks := tset Tok.zero b.toks d.val (T.retype (if bit = 5 then K.base % 256 else 0)) })) := by
  have hready := h.1.ready
  refine coreLong_result i h hn (hi.trans h.2.1) hg hc hp he (fun now => ?_) (between_withCur _ k _ hready rfl rfl) rfl rfl rfl rfl
  have hbank := bankOf_issued s k 2 k
  rw [hbody]
  exact sealBody_passes (by rw [hbank]; exact hT) (by rw [hbank]; exact hK) htag hkey hkt hmay ho

/-- Settles O18: each token instruction's own lemma. -/
theorem tokenRegisters : Obligations.TokenRegisters := by
  refine ⟨fun s k ws off len m i d q n key f l ps sn => ⟨fun h => ?_, fun h htag ho hoff hlen hmax hfit hwhole => ?_,
    fun h hlock => ?_, fun h hl hkey hkt htag ho => ?_, fun h hkey hkt htag ho => ?_⟩, fun s k ws d q key ps sn h => ?_⟩
  · obtain ⟨hmov, hclr, hgetct⟩ := tokenCopies s k ws d q h
    exact ⟨hmov, hclr, fun hn => tgete_result s k ws d n hn h, hgetct,
      fun hf hws => tokField_eq _ f hf ▸ tget_result s k ws q f hf h hws⟩
  · exact tnarrow_result s k ws off len m d q h rfl htag ho hoff hlen hmax hfit hwhole
  · exact ⟨fun hi => troot_result s k ws i d 0 _ (by decide) h hlock (rootTok_memory hi),
      fun hi => troot_result s k ws i d 1 _ (by decide) h hlock (rootTok_system hi),
      fun h1 h2 => troot_result s k ws i d 2 _ (by decide) h hlock (rootTok_key h1 h2)⟩
  · exact tsetct_result s k ws l q key ps sn h rfl hl hkey hkt htag ho
  · refine ⟨?_, fun hn hq hd => ?_⟩
    · exact tsete_result s k ws 8 q key ps sn h rfl (by decide) hkey hkt (by simp) htag ho (by simp)
    · have hres := tsete_result s k ws n q key ps sn h rfl (by omega) hkey hkt (by omega) htag ho (fun _ => hd)
      simpa only [hn, if_true] using hres
  · intro b T K sets htag hkey hkt
    refine ⟨fun hmay ho => ?_, fun hmay ho => ?_, fun ho => T.retype_retype _ ho⟩
    · have hres := seal_result (bit := 5) (c := .tseal k ps sn d q key) (insTseal ps sn d q key) h rfl rfl rfl rfl rfl rfl rfl rfl rfl htag hkey hkt hmay ho
      rw [if_pos rfl, Tok.retype_of_unsealed ho, htag] at hres
      exact hres
    · have hres := seal_result (bit := 6) (c := .tunseal k ps sn d q key) (insTunseal ps sn d q key) h rfl rfl rfl rfl rfl rfl rfl rfl rfl htag hkey hkt hmay ho
      rw [if_neg (by decide), Tok.retype_zero, htag] at hres
      exact hres

end Sys2Proof.Machine

/-! Register writes and what they leave alone; policy windows (R82). -/

namespace Sys2Proof.Machine

set_option Elab.async false

/-! What the writes of registers, of the response and of the event matrix change. -/

theorem wr_sameBut (s : State) (a : Nat) (v : Word) : SameBut [.regs] s (wr s a v) := by
  intro p hp; cases p <;> simp [Part.same] at hp ⊢

theorem wf_sameBut (s : State) (a : Nat) (f : Fld) (v : Nat) : SameBut [.regs] s (wf s a f v) := wr_sameBut s a _

theorem wb_sameBut (s : State) (a : Nat) (f : Fld) (b : Bool) : SameBut [.regs] s (wb s a f b) := by
  intro p hp; cases p <;> simp [Part.same] at hp ⊢

theorem inc_sameBut (s : State) (a : Nat) (f : Fld) (n : Nat) : SameBut [.regs] s (inc s a f n) := by
  intro p hp; cases p <;> simp [Part.same] at hp ⊢

theorem wbit_sameBut (s : State) (a : Nat) (f : Fld) (i : Nat) (b : Bool) : SameBut [.regs] s (wbit s a f i b) := by
  intro p hp; cases p <;> simp [Part.same] at hp ⊢

theorem semFire_sameBut (s : State) (p : Nat) : SameBut [.sem] s (semFire s p) := by
  intro p hp; cases p <;> simp [Part.same, semFire] at hp ⊢

/-- One more change, within the parts that have changed so far. -/
theorem SameBut.and {l m : List Part} {s t u : State} (h : SameBut l s t) (g : SameBut m t u) (hm : ∀ p ∈ m, p ∈ l := by decide) :
    SameBut l s u := h.trans (g.mono hm)

theorem RegsBut.refl (l : List Nat) (s : State) : RegsBut l s s := fun _ _ => rfl

/-- One more change, of a register that is named already. -/
theorem RegsBut.and {l m : List Nat} {s t u : State} (h : RegsBut l s t) (g : RegsBut m t u) (hm : ∀ a ∈ m, a ∈ l := by simp) :
    RegsBut l s u := fun a ha => (g a (fun hc => ha (hm a hc))).trans (h a ha)

theorem rd_respond (s : State) (c : Nat) (d : Word) (a : Nat) : rd (respond s c d) a = rd s a := rfl

theorem rf_respond (s : State) (c : Nat) (d : Word) (a : Nat) (f : Fld) : rf (respond s c d) a f = rf s a f := rfl

theorem regsBut_respond (s : State) (c : Nat) (d : Word) : RegsBut [] s (respond s c d) := fun _ _ => rfl

theorem regsBut_semFire (s : State) (p : Nat) : RegsBut [] s (semFire s p) := fun _ _ => rfl

theorem rf_semFire (s : State) (p a : Nat) (f : Fld) : rf (semFire s p) a f = rf s a f := rfl

theorem Fld.get_lt (f : Fld) (w : Word) : f.get w < f.span := Nat.mod_lt _ (Nat.two_pow_pos _)

/-- Four fields of one register, set one after another, that do not overlap. -/
theorem rf_four_wf (s : State) (a : Nat) {f g h k : Fld} (v x y z : Nat) (hf : f.fits = true) (hg : g.fits = true) (hh : h.fits = true)
    (hk : k.fits = true) (h1 : f.hi < g.lo) (h2 : g.hi < h.lo) (h3 : h.hi < k.lo) :
    rf (wf (wf (wf (wf s a f v) a g x) a h y) a k z) a f = v % f.span ∧
    rf (wf (wf (wf (wf s a f v) a g x) a h y) a k z) a g = x % g.span ∧
    rf (wf (wf (wf (wf s a f v) a g x) a h y) a k z) a h = y % h.span ∧
    rf (wf (wf (wf (wf s a f v) a g x) a h y) a k z) a k = z % k.span := by
  have fits_le : ∀ {e : Fld}, e.fits = true → e.lo ≤ e.hi := fun he => by
    simp only [Fld.fits, Bool.and_eq_true, decide_eq_true_eq] at he; exact he.1
  have lg := fits_le hg
  have lh := fits_le hh
  rw [rf_wf_apart _ a k f z hk hf (.inr (by omega)), rf_wf_apart _ a h f y hh hf (.inr (by omega)),
    rf_wf_apart _ a g f x hg hf (.inr (by omega)), rf_wf_same _ a f v hf,
    rf_wf_apart _ a k g z hk hg (.inr (by omega)), rf_wf_apart _ a h g y hh hg (.inr (by omega)), rf_wf_same _ a g x hg,
    rf_wf_apart _ a k h z hk hh (.inr (by omega)), rf_wf_same _ a h y hh, rf_wf_same _ a k z hk]
  exact ⟨rfl, rfl, rfl, rfl⟩

/-! Policy windows. -/

/-- A window register with its bounds and the window in effect (R82). -/
def windowSet (s : State) (a : Nat) (f g h k : Fld) (mn mx fl : Nat) : State :=
  wf (wf (wf (wf s a f mn) a g mx) a h (effWindow mn mx fl).1) a k (effWindow mn mx fl).2

theorem effWindow_eq (mn mx fl : Nat) : effWindow mn mx fl = (min (max mn fl) (max mx fl), max mx fl) := by
  simp only [effWindow, Prod.mk.injEq, and_true]
  split <;> omega

theorem windowSet_sameBut (s : State) (a : Nat) (f g h k : Fld) (mn mx fl : Nat) :
    SameBut [.regs] s (windowSet s a f g h k mn mx fl) :=
  (((wf_sameBut s a f mn).and (wf_sameBut _ a g mx)).and (wf_sameBut _ a h _)).and (wf_sameBut _ a k _)

theorem regsBut_windowSet (s : State) (a : Nat) (f g h k : Fld) (mn mx fl : Nat) : RegsBut [a] s (windowSet s a f g h k mn mx fl) :=
  (((regsBut_wf s a f mn).and (regsBut_wf _ a g mx)).and (regsBut_wf _ a h _)).and (regsBut_wf _ a k _)

/-- Four fields of a register that hold a window, as wide as its bounds. -/
structure WindowFlds (f g h k : Fld) (n : Nat) : Prop where
  fits : f.fits = true ∧ g.fits = true ∧ h.fits = true ∧ k.fits = true
  apart : f.hi < g.lo ∧ g.hi < h.lo ∧ h.hi < k.lo
  spans : f.span = n ∧ g.span = n ∧ h.span = n ∧ k.span = n

/-- What the fields of a window read: its bounds, and the window raised to the floor. -/
theorem rf_windowSet (s : State) (a : Nat) {f g h k : Fld} {n mn mx fl : Nat} (w : WindowFlds f g h k n) (h1 : mn < n) (h2 : mx < n) (h3 : fl < n) :
    rf (windowSet s a f g h k mn mx fl) a f = mn ∧ rf (windowSet s a f g h k mn mx fl) a g = mx ∧
    rf (windowSet s a f g h k mn mx fl) a h = min (max mn fl) (max mx fl) ∧ rf (windowSet s a f g h k mn mx fl) a k = max mx fl := by
  obtain ⟨⟨pf, pg, ph, pk⟩, ⟨q1, q2, q3⟩, ⟨rf', rg, rh, rk⟩⟩ := w
  obtain ⟨e1, e2, e3, e4⟩ := rf_four_wf s a mn mx (effWindow mn mx fl).1 (effWindow mn mx fl).2 pf pg ph pk q1 q2 q3
  rw [windowSet, e1, e2, e3, e4, effWindow_eq, rf', rg, rh, rk, Nat.mod_eq_of_lt h1, Nat.mod_eq_of_lt h2, Nat.mod_eq_of_lt (by omega),
    Nat.mod_eq_of_lt (by omega)]
  exact ⟨rfl, rfl, rfl, rfl⟩

theorem adtWindow_flds : WindowFlds aeAdtwinDTMIN aeAdtwinDTMAX aeAdtwinELO aeAdtwinEHI 512 := ⟨by decide, by decide, by decide⟩
theorem phsWindow_flds : WindowFlds aePhswinNMIN aePhswinNMAX aePhswinELO aePhswinEHI 128 := ⟨by decide, by decide, by decide⟩
theorem plcWindow_flds : WindowFlds jnePlcwinNMIN jnePlcwinNMAX jnePlcwinELO jnePlcwinEHI 32 := ⟨by decide, by decide, by decide⟩

/-- A flag that is set, with its event where it was clear (R82). -/
theorem adaptFlag_sets (s : State) (e a : Nat) {f : Fld} (hf : f.fits = true) : rb (adaptFlag s e a f) a f = true := by
  unfold adaptFlag
  split
  · assumption
  · exact rb_wb_same s a f true hf

theorem adaptFlag_sameBut (s : State) (e a : Nat) (f : Fld) : SameBut [.regs, .sem] s (adaptFlag s e a f) := by
  unfold adaptFlag
  split
  · exact SameBut.refl _ _
  · exact ((wb_sameBut s a f true).mono (by simp)).and (semFire_sameBut _ _)

theorem regsBut_adaptFlag (s : State) (e a : Nat) (f : Fld) : RegsBut [a] s (adaptFlag s e a f) := by
  unfold adaptFlag
  split
  · exact RegsBut.refl _ _
  · exact (regsBut_wb s a f true).and (regsBut_semFire _ _)

/-- The registers that a window write changes, and what else it may change, where `fl` sets its flag. -/
theorem window_write {s : State} {fl : State → State} {a b : Nat} {f g h k e : Fld} {n mn mx floor : Nat} {l : List Part}
    (w : WindowFlds f g h k n) (hab : a ≠ b) (h1 : mn < n) (h2 : mx < n) (h3 : floor < n) (hl : .regs ∈ l)
    (hsame : ∀ t, SameBut l t (fl t)) (hregs : ∀ t, RegsBut [b] t (fl t)) (hflag : ∀ t, rb (fl t) b e = true) :
    let t := windowSet s a f g h k mn mx floor
    let u := respond (if mn < floor || mx < floor then fl t else t) 0
    (rf u a f = mn ∧ rf u a g = mx ∧ rf u a h = min (max mn floor) (max mx floor) ∧ rf u a k = max mx floor) ∧
    (mn < floor ∨ mx < floor → rb u b e = true) ∧ RegsBut [a, b] s u ∧ SameBut (.resp :: l) s u := by
  intro t u
  have hstep : RegsBut [b] t u ∧ SameBut (.resp :: l) t u := by
    by_cases hc : (mn < floor || mx < floor) = true
    · rw [show u = respond (fl t) 0 by simp only [u, hc, if_true]]
      exact ⟨(hregs t).and (regsBut_respond _ 0 0),
        ((hsame t).mono (by simp +contextual)).and (respond_sameBut _ 0 0) (by simp)⟩
    · rw [show u = respond t 0 by simp only [u, hc]; rfl]
      exact ⟨(RegsBut.refl _ _).and (regsBut_respond _ 0 0), (respond_sameBut _ 0 0).mono (by simp)⟩
  have hat : ∀ x : Fld, rf u a x = rf t a x := hstep.1.rf_eq (by simpa using hab)
  refine ⟨?_, fun hc => ?_, ((regsBut_windowSet s a f g h k mn mx floor).mono (by simp)).and hstep.1,
    ((windowSet_sameBut s a f g h k mn mx floor).mono (by simp [hl])).and hstep.2 (by simp)⟩
  · rw [hat, hat, hat, hat]
    exact rf_windowSet s a w h1 h2 h3
  · rw [show u = respond (fl t) 0 by simp only [u, Bool.or_eq_true, decide_eq_true_eq, hc, if_true]]
    exact hflag t

theorem adtWindow_exec {s : State} {q : Req} {i : Fin 128} (v : Word) (hon : pdOn s (18 + engOf i.val) = true)
    (hq : holdsType s q otAccord = true) : exec (.policyWindowWrite q 0 i v) s = .next (respond (adtWindowWrite s i.val v) 0) := by
  show execPolicyWindowWrite q 0 i v s = _
  simp [execPolicyWindowWrite, hon, hq, ok]

theorem phsWindow_exec {s : State} {q : Req} (i : Fin 128) (v : Word) (hon : pdOn s 18 = true) (hq : holdsType s q otAccord = true) :
    exec (.policyWindowWrite q 1 i v) s = .next (respond (phsWindowWrite s (i.val % 4) v) 0) := by
  show execPolicyWindowWrite q 1 i v s = _
  simp [execPolicyWindowWrite, hon, hq, ok]

theorem plcWindow_exec {s : State} {q : Req} (i : Fin 128) (v : Word) (hon : pdOn s 44 = true) :
    exec (.policyWindowWrite q 2 i v) s = .next (plcwinWrite s q v) := by
  show execPolicyWindowWrite q 2 i v s = _
  simp [execPolicyWindowWrite, hon, ok]

theorem plcwinWrite_eq {s : State} {q : Req} (v : Word) (hq : holdsType s q 7 = true) :
    plcwinWrite s q v =
      respond (if min 16 (jnePlcwinNMIN.get v) < s.par.plc || min 16 (jnePlcwinNMAX.get v) < s.par.plc then
        wb (windowSet s jnePlcwin jnePlcwinNMIN jnePlcwinNMAX jnePlcwinELO jnePlcwinEHI (min 16 (jnePlcwinNMIN.get v))
          (min 16 (jnePlcwinNMAX.get v)) s.par.plc) jnePlcsts jnePlcstsWINDOWCLIPPED true
        else windowSet s jnePlcwin jnePlcwinNMIN jnePlcwinNMAX jnePlcwinELO jnePlcwinEHI (min 16 (jnePlcwinNMIN.get v))
          (min 16 (jnePlcwinNMAX.get v)) s.par.plc) 0 := by
  rw [plcwinWrite, if_neg (by rw [otJournal, hq]; decide)]
  rfl

/-- Settles O45, window by window: the four fields, then the flag of a bound below the floor. -/
theorem policyWindows : Obligations.PolicyWindows := by
  intro s q i v shows dt ph pl clip
  have hadt : slotAdtwin i.val ≠ slotAdtcfg i.val := by simp only [slotAdtwin, slotAdtcfg, aeAdtwin, aeAdtcfg, engOf, locOf]; omega
  have hphs : aePhswin (i.val % 4) ≠ aePhssts (i.val % 4) := by simp only [aePhswin, aePhssts]; omega
  refine ⟨fun hon hq hfl => ?_, fun hon hq hfl => ?_, fun hon hq hfl => ?_⟩
  · obtain ⟨hshow, hclip, hregs, hsame⟩ := window_write (s := s) (floor := s.par.adt) adtWindow_flds hadt
      (Fld.get_lt aeAdtwinDTMIN v) (Fld.get_lt aeAdtwinDTMAX v) hfl (by simp) (fun t => adaptFlag_sameBut t (engOf i.val) _ aeAdtcfgWINDOWCLIPPED)
      (fun t => regsBut_adaptFlag t _ _ _) (fun t => adaptFlag_sets t _ _ (by decide))
    exact ⟨_, adtWindow_exec v hon hq, rfl, hshow, hclip, hregs, hsame.mono (by simp)⟩
  · obtain ⟨hshow, hclip, hregs, hsame⟩ := window_write (s := s) (floor := s.par.phs (i.val % 4)) phsWindow_flds hphs
      (Fld.get_lt aePhswinNMIN v) (Fld.get_lt aePhswinNMAX v) hfl (by simp) (fun t => adaptFlag_sameBut t 0 _ aePhsstsWINDOWCLIPPED)
      (fun t => regsBut_adaptFlag t _ _ _) (fun t => adaptFlag_sets t _ _ (by decide))
    exact ⟨_, phsWindow_exec i v hon hq, rfl, hshow, hclip, hregs, hsame.mono (by simp)⟩
  · obtain ⟨hshow, hclip, hregs, hsame⟩ := window_write (s := s) (a := jnePlcwin) (b := jnePlcsts) (floor := s.par.plc) plcWindow_flds (by decide)
      (mn := min 16 (jnePlcwinNMIN.get v)) (mx := min 16 (jnePlcwinNMAX.get v)) (by omega) (by omega) (by omega) (l := [.regs]) (by simp)
      (fun t => wb_sameBut t _ jnePlcstsWINDOWCLIPPED true) (fun t => regsBut_wb t _ _ _) (fun t => rb_wb_same t _ _ _ (by decide))
    rw [← plcwinWrite_eq v hq] at hshow hclip hregs hsame
    exact ⟨_, plcWindow_exec i v hon, by rw [plcwinWrite_eq v hq]; rfl, hshow, hclip, hregs, hsame.mono (by simp)⟩

end Sys2Proof.Machine

/-! Journal time and the cadence generators (R112 to R114). -/

namespace Sys2Proof.Machine

set_option Elab.async false

/-! Clearing a flag by a write, and monitors of a subject that has none. -/

/-- A flag that the hardware has not set in this PORT cycle is cleared (R10). -/
theorem clearBit_of_quiet {s : State} {a : Nat} {f : Fld} (h : setsAt s a (f.put 0 1) = []) : clearBit s a f = wf s a f 0 := by
  rw [clearBit, h]
  rfl

theorem dmStartAll_none {s : State} {kind subj : Nat} (st : DmStart) (h : monsOf s kind subj = []) : dmStartAll s kind subj st = s := by
  rw [dmStartAll, h]
  rfl

theorem dmResumeAll_none {s : State} {kind subj : Nat} (h : monsOf s kind subj = []) : dmResumeAll s kind subj = s := by
  rw [dmResumeAll, h]
  simp

/-- The monitors of a subject are read from their configurations alone. -/
theorem RegsBut.monsOf_eq {l : List Nat} {s t : State} (h : RegsBut l s t) (hl : ∀ m < 256, dmCfg m ∉ l) (kind subj : Nat) :
    monsOf t kind subj = monsOf s kind subj := by
  refine List.filter_congr fun m hm => ?_
  have hcfg := h.rf_eq (hl m (List.mem_range.1 hm))
  simp only [rb, monSubj, hcfg]

theorem freshBit_sameBut (s : State) : SameBut [.free] s (freshBit s).2 := by
  intro p hp; cases p <;> simp [Part.same, freshBit, fresh] at hp ⊢

theorem regsBut_freshBit (s : State) : RegsBut [] s (freshBit s).2 := fun _ _ => rfl

theorem sets_sameBut (s : State) (l : List HwSet) : SameBut [.regs] s { s with sets := l } := by
  intro p hp; cases p <;> simp [Part.same] at hp ⊢

/-- A write that clears bits chooses freely where the hardware sets one in the same PORT cycle (R10). -/
theorem clearTo_sameBut (s : State) (a : Nat) (l : List HwSet) (w : Word) : SameBut [.regs, .free] s (clearTo s a l w) := by
  have hfresh : ∀ v, SameBut [.regs, .free] s (wr (freshBit s).2 a v) := fun v =>
    ((freshBit_sameBut s).mono (by simp)).and (wr_sameBut _ a v)
  unfold clearTo
  split
  · exact (wr_sameBut s a w).mono (by simp)
  · split
    · exact hfresh _
    · exact (hfresh w).and (sets_sameBut _ _)

theorem regsBut_wr (s : State) (a : Nat) (v : Word) : RegsBut [a] s (wr s a v) := fun _ hc => rd_wr_other s v (by simpa using hc)

theorem regsBut_clearTo (s : State) (a : Nat) (l : List HwSet) (w : Word) : RegsBut [a] s (clearTo s a l w) := by
  unfold clearTo
  split
  · exact regsBut_wr s a w
  · split
    · exact fun _ hc => rd_wr_other (freshBit s).2 _ (by simpa using hc)
    · exact fun _ hc => rd_wr_other (freshBit s).2 w (by simpa using hc)

/-! The units' time. -/

/-- A change of the deadline monitors' state. -/
theorem dm_sameBut (s : State) (d : Dm) : SameBut [.dm] s { s with dm := d } := by
  intro p hp; cases p <;> simp [Part.same] at hp ⊢

theorem regsAre_wf (s : State) (a : Nat) (f : Fld) (v : Nat) : RegsAre [withFld s a f v] s (wf s a f v) :=
  ⟨fun p hp => by rw [List.mem_singleton.1 hp]; exact rd_wr_same s a _, regsBut_wf s a f v⟩

/-- Registers that have been set stay so while no register changes. -/
theorem RegsAre.and {l : List (Nat × Word)} {s t u : State} (h : RegsAre l s t) (g : RegsBut [] t u) : RegsAre l s u :=
  ⟨fun p hp => (g p.1 (by simp)).trans (h.1 p hp), h.2.and g⟩

theorem regsAre_nil {s t : State} (h : RegsBut [] s t) : RegsAre [] s t := ⟨fun _ hp => (nomatch hp), h⟩

/-- Journal time's staging, before JTBACK is cleared (R112). -/
def jtStaged (s : State) (v : Word) : State :=
  { s with dm := { s.dm with setNs := min (v.toNat % 2 ^ 32) 999999999, setStep := bitOf v 47 } }

theorem jtnsWrite_exec {s : State} {q : Req} (v : Word) (hq : holdsType s q 13 = true) :
    exec (.jtnsWrite q v) s =
      .next (respond (if v.getLsbD 46 then clearBit (jtStaged s v) pctlJtns pctlJtnsJTBACK else jtStaged s v) 0) := by
  show execJtnsWrite q v s = _
  rw [execJtnsWrite, hq]
  rfl

theorem jtStaged_sameBut (s : State) (v : Word) : SameBut [.dm] s (jtStaged s v) := dm_sameBut s _

/-- JTNS_WRITE where no bit that it clears is being set (R10, R112). -/
theorem jtnsWrite_quiet {s : State} {q : Req} {v : Word} (hq : holdsType s q 13 = true)
    (h : ¬ (v.getLsbD 46 = true ∧ setsAt s pctlJtns (pctlJtnsJTBACK.put 0 1) ≠ [])) :
    Runs (.jtnsWrite q v) s (fun t => (t.resp = ⟨0, 0⟩ ∧ t.dm = (jtStaged s v).dm) ∧ SameBut [.regs, .dm, .resp] s t ∧
      RegsAre (if v.getLsbD 46 then [withFld s pctlJtns pctlJtnsJTBACK 0] else []) s t) := by
  have hsame := jtStaged_sameBut s v
  cases hv : v.getLsbD 46
  · refine ⟨_, jtnsWrite_exec v hq, ?_⟩
    simp only [hv, Bool.false_eq_true, if_false]
    exact ⟨⟨rfl, rfl⟩, (hsame.mono (by simp)).and (respond_sameBut _ _ _), regsAre_nil (fun _ _ => rfl)⟩
  · have hsets : setsAt (jtStaged s v) pctlJtns (pctlJtnsJTBACK.put 0 1) = [] := by
      by_contra hne
      exact h ⟨hv, hne⟩
    refine ⟨_, jtnsWrite_exec v hq, ?_⟩
    simp only [hv, if_true]
    rw [clearBit_of_quiet hsets]
    exact ⟨⟨rfl, rfl⟩, ((hsame.mono (by simp)).and (wf_sameBut _ _ _ _)).and (respond_sameBut _ _ _),
      (regsAre_wf (jtStaged s v) _ _ _).and (regsBut_respond _ _ _)⟩

theorem jtnsWrite_met {s : State} {q : Req} {v : Word} (hq : holdsType s q 13 = true) (hv : v.getLsbD 46 = true) :
    Runs (.jtnsWrite q v) s (fun t => (t.resp = ⟨0, 0⟩ ∧ t.dm = (jtStaged s v).dm) ∧ SameBut [.regs, .dm, .resp, .free] s t ∧
      RegsBut [pctlJtns] s t) := by
  have hsame : SameBut [.regs, .free] (jtStaged s v) (clearBit (jtStaged s v) pctlJtns pctlJtnsJTBACK) := clearTo_sameBut _ _ _ _
  have hregs : RegsBut [pctlJtns] (jtStaged s v) (clearBit (jtStaged s v) pctlJtns pctlJtnsJTBACK) := regsBut_clearTo _ _ _ _
  refine ⟨_, jtnsWrite_exec v hq, ?_⟩
  simp only [hv, if_true]
  exact ⟨⟨rfl, hsame .dm (by simp)⟩, (((jtStaged_sameBut s v).mono (by simp)).and hsame).and (respond_sameBut _ _ _),
    hregs.and (regsBut_respond _ _ _)⟩

theorem jtsecWrite_exec {s : State} {q : Req} (v : Word) (hq : holdsType s q 13 = true) :
    exec (.jtsecWrite q v) s = .next (respond (jtsecWrite s v) 0) := by
  show execJtsecWrite q v s = _
  rw [execJtsecWrite, hq]
  rfl

/-- Journal time is set: the time is not back, or the step was announced (R112). -/
theorem jtsecWrite_sets {s : State} {v : Word}
    (h : ¬ (v.toNat < s.dm.jtSec ∨ v.toNat = s.dm.jtSec ∧ s.dm.setNs * 2 ^ 32 < s.dm.jtNs) ∨ s.dm.setStep = true) :
    jtsecWrite s v = { s with dm := { s.dm with setStep := false, jtSet := some (v.toNat, s.dm.setNs * 2 ^ 32) } } := by
  have hnot : ((decide (v.toNat < s.dm.jtSec) || (v.toNat == s.dm.jtSec && decide (s.dm.setNs * 2 ^ 32 < s.dm.jtNs))) && !s.dm.setStep) = false := by
    obtain hnb | hs := h
    · simp only [← Bool.not_eq_true, Bool.and_eq_true, Bool.or_eq_true, decide_eq_true_eq, beq_iff_eq]
      exact fun hb => hnb hb.1
    · simp [hs]
  simp only [jtsecWrite, hnot]
  rfl

/-- A time that is back is refused where no step was announced (R112). -/
theorem jtsecWrite_refused {s : State} {v : Word}
    (h : v.toNat < s.dm.jtSec ∨ v.toNat = s.dm.jtSec ∧ s.dm.setNs * 2 ^ 32 < s.dm.jtNs) (hstep : s.dm.setStep = false) :
    jtsecWrite s v = wb s pctlJtns pctlJtnsJTBACK true := by
  have hyes : ((decide (v.toNat < s.dm.jtSec) || (v.toNat == s.dm.jtSec && decide (s.dm.setNs * 2 ^ 32 < s.dm.jtNs))) && !s.dm.setStep) = true := by
    simpa [hstep] using h
  have hsame : { s with dm := { s.dm with setStep := false } } = s := by rw [← hstep]
  simp only [jtsecWrite, hyes, hsame, if_true]

theorem jtsecRead_exec (s : State) : exec .jtsecRead s = .next (respond (jtsecRead s).2 0 (jtsecRead s).1) := rfl

/-! Cadence generators. -/

theorem cgEnable_exec {s : State} {q : Req} {g : Fin 16} (hq : holdsType s q 13 = true) (hen : rb s (pctlCgctl g.val) pctlCgctlEN = false) :
    exec (.cgEnable q g) s = .next (respond (cgEnable s g.val) 0) := by
  show execCgEnable q g s = _
  simp [execCgEnable, hq, hen, ok]

/-- A cadence generator has ticked in this PORT cycle. -/
def cgTicked (s : State) (g : Nat) : State := { s with dm := { s.dm with ticked := tset 0 s.dm.ticked g (s.port + 1) } }

theorem cgDue_of_ticked {s t : State} {g : Nat} (hport : t.port = s.port) (hdm : t.dm = (cgTicked s g).dm) : cgDue t g = false := by
  have hlast : tget 0 t.dm.ticked g = t.port + 1 := by rw [hdm, hport]; exact tget_tset_same ..
  rw [cgDue, hlast]
  simp

theorem pctlCgctl_ne_dmCfg (g : Fin 16) (m : Nat) : dmCfg m ∉ [pctlCgctl g.val] := by
  simp only [List.mem_singleton, dmCfg, pctlCgctl]
  omega

theorem pctlPd_notMem_cgctl (g : Fin 16) {d : Nat} (hd : d < 56) : pctlPd d ∉ [pctlCgctl g.val] := by
  simp only [List.mem_singleton, pctlPd, pctlCgctl]
  omega

/-- CG_ENABLE of a generator that no monitor follows (R114). -/
theorem cgEnable_eq {s : State} {g : Fin 16} (h : monsOf s 3 g.val = []) :
    cgEnable s g.val = cgTicked (wb s (pctlCgctl g.val) pctlCgctlEN true) g.val := by
  have hregs : RegsBut [pctlCgctl g.val] s (cgTicked (wb s (pctlCgctl g.val) pctlCgctlEN true) g.val) := regsBut_wb s _ _ true
  exact dmResumeAll_none ((hregs.monsOf_eq (fun m _ => pctlCgctl_ne_dmCfg g m) 3 g.val).trans h)

theorem cgEnable_result {s : State} {q : Req} {g : Fin 16} (hq : holdsType s q 13 = true)
    (hen : rb s (pctlCgctl g.val) pctlCgctlEN = false) (h : monsOf s 3 g.val = []) :
    Runs (.cgEnable q g) s (fun t => t.resp = ⟨0, 0⟩ ∧ cgDue t g.val = false ∧
      RegsAre [withFld s (pctlCgctl g.val) pctlCgctlEN 1] s t ∧ SameBut [.regs, .dm, .resp] s t) := by
  refine ⟨_, cgEnable_exec hq hen, rfl, ?_, ?_, ?_⟩ <;> rw [cgEnable_eq h]
  · exact cgDue_of_ticked (s := wb s (pctlCgctl g.val) pctlCgctlEN true) rfl rfl
  · exact (regsAre_wf s _ _ _).and (fun _ _ => rfl)
  · exact (((wb_sameBut s _ _ true).mono (by simp)).and (dm_sameBut _ _)).and (respond_sameBut _ _ _)

/-- A field that is put back as it is. -/
theorem Fld.put_get (f : Fld) (w : Word) : f.put w (f.get w) = w := by
  have hle : f.get w <<< f.lo ≤ w.toNat := by
    have hdiv : f.get w ≤ w.toNat / 2 ^ f.lo := by
      rw [Fld.get, Nat.shiftRight_eq_div_pow]
      exact Nat.mod_le _ _
    rw [Nat.shiftLeft_eq]
    calc f.get w * 2 ^ f.lo ≤ w.toNat / 2 ^ f.lo * 2 ^ f.lo := Nat.mul_le_mul_right _ hdiv
      _ ≤ w.toNat := Nat.div_mul_le_self _ _
  rw [Fld.put, Nat.mod_eq_of_lt (Fld.get_lt f w), Nat.sub_add_cancel hle, BitVec.ofNat_toNat, BitVec.setWidth_eq]

/-- Setting a bit of a register that is set already changes no register. -/
theorem regsBut_wb_set {s : State} {a : Nat} {f : Fld} (hf : f.span = 2) (h : rb s a f = true) : RegsBut [] s (wb s a f true) := by
  have hlt := Fld.get_lt f (rd s a)
  have hone : f.get (rd s a) = 1 := by
    simp only [rb, rf, bne_iff_ne] at h
    omega
  have hput : f.put (rd s a) (b2n true) = rd s a := by
    have := Fld.put_get f (rd s a)
    rwa [hone] at this
  intro c _
  rw [rd_wb, wf, hput, rd_wr]
  split
  · next hc => rw [hc]
  · rfl

/-- The registers after a tick: TICK is set, or, where it was set already, the miss is counted (R114). -/
def cgCounted (s : State) (g : Nat) : State :=
  let t := cgTicked s g
  wb (if rb t (pctlCgctl g) pctlCgctlTICK then inc t (pctlCgctl g) pctlCgctlMISSED else t) (pctlCgctl g) pctlCgctlTICK true

theorem cadenceTick_exec {s : State} {g : Fin 16} (hdue : cgDue s g.val = true) :
    exec (.cadenceTick g) s = .next (dmStartAll (semFire (cgCounted s g.val) (0x010 + g.val)) 3 g.val ⟨s.port, s.port, 0⟩) := by
  show execCadenceTick g s = _
  rw [execCadenceTick, hdue]
  rfl

theorem cgCounted_sameBut (s : State) (g : Nat) : SameBut [.regs, .dm] s (cgCounted s g) := by
  have htick : SameBut [.regs, .dm] s (cgTicked s g) := (dm_sameBut s _).mono (by simp)
  unfold cgCounted
  refine SameBut.and ?_ (wb_sameBut _ _ _ true)
  split
  · exact htick.and (inc_sameBut _ _ _ _)
  · exact htick

theorem regsAre_cgCounted (s : State) (g : Nat) :
    RegsAre [if rb s (pctlCgctl g) pctlCgctlTICK then counted s (pctlCgctl g) pctlCgctlMISSED else withFld s (pctlCgctl g) pctlCgctlTICK 1] s
      (cgCounted s g) := by
  have hrb : rb (cgTicked s g) (pctlCgctl g) pctlCgctlTICK = rb s (pctlCgctl g) pctlCgctlTICK := rfl
  cases h : rb s (pctlCgctl g) pctlCgctlTICK
  · rw [cgCounted, hrb, h]
    exact regsAre_wf (cgTicked s g) _ _ _
  · have hset : rb (inc (cgTicked s g) (pctlCgctl g) pctlCgctlMISSED) (pctlCgctl g) pctlCgctlTICK = true := by
      rw [← h]
      exact congrArg (· != 0) (rf_wf_apart (cgTicked s g) (pctlCgctl g) _ _ _ (by decide) (by decide) (.inr (by decide)))
    rw [cgCounted, hrb, h, if_pos rfl, if_pos rfl]
    exact RegsAre.and (regsAre_wf (cgTicked s g) _ _ _) (regsBut_wb_set (by decide) hset)

/-- Whether a producer can fire rests on the event matrix and the power of its domain. -/
theorem canFire_congr {s t : State} {p : Nat} (hpd : ∀ d < 56, pdOn t d = pdOn s d) (hdom : ∀ d, producerDomain p = some d → d < 56)
    (hsem : t.sem = s.sem) (hport : t.port = s.port) : canFire t p = canFire s p := by
  have h50 := hpd 50 (by decide)
  unfold canFire
  cases hd : producerDomain p with
  | none => simp only [hsem, hport, h50]
  | some d => simp only [hsem, hport, h50, hpd d (hdom d hd)]

theorem semFire_sem_congr {s t : State} {p : Nat} (hfire : canFire t p = canFire s p) (hsem : t.sem = s.sem) (hport : t.port = s.port) :
    (semFire t p).sem = (semFire s p).sem := by
  simp only [semFire, hfire, hsem, hport]

theorem producerDomain_cadence (g : Fin 16) : producerDomain (0x010 + g.val) = none := by
  revert g
  decide

/-- CADENCE_TICK of a generator that no monitor follows (R114). -/
theorem cadenceTick_result {s : State} {g : Fin 16} (hdue : cgDue s g.val = true) (h : monsOf s 3 g.val = []) :
    Runs (.cadenceTick g) s (fun t => Fires [0x010 + g.val] s t ∧ cgDue t g.val = false ∧ SameBut [.regs, .dm, .sem] s t ∧
      RegsAre [if rb s (pctlCgctl g.val) pctlCgctlTICK then counted s (pctlCgctl g.val) pctlCgctlMISSED
        else withFld s (pctlCgctl g.val) pctlCgctlTICK 1] s t) := by
  have hregs := regsAre_cgCounted s g.val
  have hbut : RegsBut [pctlCgctl g.val] s (cgCounted s g.val) := hregs.2.mono (by split <;> simp [counted, withFld])
  have hsame := cgCounted_sameBut s g.val
  have hport : (cgCounted s g.val).port = s.port := hsame .port (by simp)
  have hsem : (cgCounted s g.val).sem = s.sem := hsame .sem (by simp)
  have hmons : monsOf (semFire (cgCounted s g.val) (0x010 + g.val)) 3 g.val = [] :=
    (hbut.and (regsBut_semFire _ _)).monsOf_eq (fun m _ => pctlCgctl_ne_dmCfg g m) 3 g.val |>.trans h
  have hfire : canFire (cgCounted s g.val) (0x010 + g.val) = canFire s (0x010 + g.val) :=
    canFire_congr (fun d hd => hbut.pdOn_eq d (pctlPd_notMem_cgctl g hd)) (by simp [producerDomain_cadence]) hsem hport
  refine ⟨_, cadenceTick_exec hdue, ?_, ?_, ?_, ?_⟩ <;> rw [dmStartAll_none _ hmons]
  · exact semFire_sem_congr hfire hsem hport
  · have hdm : (cgCounted s g.val).dm = (cgTicked s g.val).dm := by
      simp only [cgCounted, wb_dm]
      split <;> rfl
    exact cgDue_of_ticked (s := s) hport hdm
  · exact (hsame.mono (by simp)).and (semFire_sameBut _ _)
  · exact hregs.and (regsBut_semFire _ _)

/-- Settles O34, command by command. -/
theorem timeAndCadence : Obligations.TimeAndCadence := by
  intro s q g v ns back staged met
  refine ⟨fun hq => ⟨?_, ?_, fun hback => ?_, fun hback hstep => ?_, fun hen hm => cgEnable_result hq hen hm⟩,
    ⟨_, jtsecRead_exec s, rfl, rfl, ?_⟩, fun hdue hm => cadenceTick_result hdue hm⟩
  · exact fun hmet => jtnsWrite_quiet hq hmet
  · exact fun hmet => jtnsWrite_met hq hmet.1
  · refine ⟨_, jtsecWrite_exec v hq, ?_⟩
    have hset : jtsecWrite s v = { s with dm := { s.dm with setStep := false, jtSet := some (v.toNat, ns) } } := jtsecWrite_sets hback
    rw [hset]
    exact ⟨rfl, rfl, ((dm_sameBut s _).mono (by simp)).and (respond_sameBut _ _ _)⟩
  · refine ⟨_, jtsecWrite_exec v hq, ?_⟩
    rw [jtsecWrite_refused hback hstep]
    exact ⟨rfl, rfl, (regsAre_wf s _ _ _).and (fun _ _ => rfl), ((wb_sameBut s _ _ true).mono (by simp)).and (respond_sameBut _ _ _)⟩
  · exact ((dm_sameBut s _).mono (by simp)).and (respond_sameBut _ _ _)

end Sys2Proof.Machine

/-! The arithmetic steps of a law (R53 to R57). -/

namespace Sys2Proof.Machine

set_option Elab.async false

/-! Reads of an engine's local RAM that holds no upset (R272). -/

theorem eccCheck_whole {s : State} {i a port : Nat} (h : upsetAt s (upsetKey a) = .none) : eccCheck s i a port false = (false, s) := by
  simp [eccCheck, h]

theorem ramCheck_whole {s : State} {n off : Nat} (h : RamWhole s (engOf n)) : ramCheck s n off = s :=
  congrArg Prod.snd (eccCheck_whole (h _))

theorem ramChecks_whole {s : State} {n : Nat} (h : RamWhole s (engOf n)) (l : List Nat) : ramChecks s n l = s := by
  induction l with
  | nil => rfl
  | cons o l ih =>
    have hstep : ramChecks s n (o :: l) = ramChecks (ramCheck s n o) n l := rfl
    rw [hstep, ramCheck_whole h, ih]

theorem ramRd_whole {s : State} {n : Nat} (h : RamWhole s (engOf n)) (off : Nat) :
    ramRd s n off = memRd s (ramAddr (engOf n) (off % 0x2000)) := by
  rw [ramRd, h]
  rfl

/-! Slots. -/

@[simp] theorem slotOf_setSlot_same (s : State) (n : Nat) (x : Slot) : slotOf (setSlot s n x) n = x := tget_tset_same ..

theorem slotOf_setSlot_other (s : State) {m n : Nat} (x : Slot) (h : m ≠ n) : slotOf (setSlot s n x) m = slotOf s m :=
  tget_tset_other _ _ _ _ h

theorem setSlot_sameBut (s : State) (n : Nat) (x : Slot) : SameBut [.ae] s (setSlot s n x) := by
  intro p hp; cases p <;> simp [Part.same, setSlot] at hp ⊢

theorem regsBut_setSlot (s : State) (n : Nat) (x : Slot) : RegsBut [] s (setSlot s n x) := fun _ _ => rfl

/-- State t is s but for slot n, which is x, and registers. -/
structure SlotIs (s t : State) (n : Nat) (x : Slot) : Prop where
  slot : slotOf t n = x
  others : ∀ m, m ≠ n → slotOf t m = slotOf s m
  engine : t.ae = { s.ae with slots := t.ae.slots }
  parts : SameBut [.ae, .regs] s t

theorem slotIs_setSlot {s t : State} {n : Nat} {y : Slot} (h : SlotIs s t n y) (x : Slot) : SlotIs s (setSlot t n x) n x where
  slot := slotOf_setSlot_same t n x
  others m hm := (slotOf_setSlot_other t x hm).trans (h.others m hm)
  engine := by
    have hae := h.engine
    show { t.ae with slots := tset Slot.off t.ae.slots n x } = _
    rw [hae]
    rfl
  parts := h.parts.and (setSlot_sameBut t n x)

theorem SlotIs.refl (s : State) (n : Nat) : SlotIs s s n (slotOf s n) := ⟨rfl, fun _ _ => rfl, rfl, SameBut.refl _ _⟩

/-! Steps of a law. -/

/-- A slot after a step that only goes on. -/
def Slot.next (x : Slot) : Slot := { x with pc := x.pc + 1, began := none }

theorem lawNext_slotIs (s : State) (n : Nat) : SlotIs s (lawNext s n) n (slotOf s n).next := slotIs_setSlot (SlotIs.refl s n) _

/-- A step of a slot whose engine's RAM is whole. -/
theorem lawStep_whole {s : State} {n op : Nat} {w : Word} {f : State → Word → State} (hw : lawStepWord s n op = some w)
    (h : RamWhole s (engOf n)) : lawStep s n op f = .next (f (lawNext s n) w) := by
  simp only [lawStep, hw, ramChecks_whole h]
  rfl

theorem accOf_lawNext (s : State) (n : Nat) : accOf (lawNext s n) n = accOf s n := by
  rw [accOf, (lawNext_slotIs s n).slot]
  rfl

theorem coef_lawNext (s : State) (n b : Nat) : coef (lawNext s n) n b = coef s n b := rfl

theorem sigInt_lawNext (s : State) (n a : Nat) : sigInt (lawNext s n) n a = sigInt s n a := by
  have hslot := (lawNext_slotIs s n).slot
  unfold sigInt sigRd
  rw [hslot]
  rfl

/-- The flags a step sets are registers. -/
theorem slotFlag_slotIs {s t : State} {n : Nat} {x : Slot} (h : SlotIs s t n x) (f : Fld) (b : Bool) : SlotIs s (slotFlag t n f b) n x := by
  unfold slotFlag
  split
  · exact ⟨h.slot, h.others, h.engine, h.parts.and (wb_sameBut t _ f true)⟩
  · exact h

theorem satInt_eq (v : Int) : satInt 112 v = (min (max v (-2 ^ 111)) (2 ^ 111 - 1), !decide (-2 ^ 111 ≤ v ∧ v < 2 ^ 111)) := by
  have hmin : intMin 112 = -2 ^ 111 := by decide
  have hmax : intMax 112 = 2 ^ 111 - 1 := by decide
  simp only [satInt, hmin, hmax]
  split
  · simp only [Prod.mk.injEq]
    constructor
    · omega
    · simp; omega
  · split
    · simp only [Prod.mk.injEq]
      constructor
      · omega
      · simp; omega
    · simp only [Prod.mk.injEq]
      constructor
      · omega
      · simp; omega

/-- A step that gives ACC the value `v`: exact where it fits 112 bits, else the limit, with SAT (R54). -/
theorem setAcc_slotIs (s : State) (n : Nat) (v : Int) :
    SlotIs s (setAcc (lawNext s n) n v) n { (slotOf s n).next with acc := BitVec.ofInt 112 (min (max v (-2 ^ 111)) (2 ^ 111 - 1)) } := by
  have hnext := lawNext_slotIs s n
  rw [setAcc, satInt_eq]
  have hset := slotIs_setSlot (slotFlag_slotIs hnext aeSlotstsSAT (!decide (-2 ^ 111 ≤ v ∧ v < 2 ^ 111)))
    { slotOf (lawNext s n) n with acc := BitVec.ofInt 112 (min (max v (-2 ^ 111)) (2 ^ 111 - 1)) }
  rwa [hnext.slot] at hset ⊢

theorem regsAre_setAcc (s : State) (n : Nat) (v : Int) :
    RegsAre (if -2 ^ 111 ≤ v ∧ v < 2 ^ 111 then [] else [withFld s (slotSts n) aeSlotstsSAT 1]) s (setAcc (lawNext s n) n v) := by
  rw [setAcc, satInt_eq]
  by_cases h : -2 ^ 111 ≤ v ∧ v < 2 ^ 111
  · rw [if_pos h, slotFlag, decide_eq_true h]
    exact regsAre_nil (fun _ _ => rfl)
  · rw [if_neg h, slotFlag, decide_eq_false h]
    exact (regsAre_wf (lawNext s n) _ _ _).and (fun _ _ => rfl)

/-- What a step of a law that gives ACC the value `v` leaves. -/
def Accumulates (s : State) (n : Nat) (v : Int) (t : State) : Prop :=
  slotOf t n = { slotOf s n with
    pc := (slotOf s n).pc + 1, began := none, acc := BitVec.ofInt 112 (min (max v (-2 ^ 111)) (2 ^ 111 - 1)) } ∧
  (∀ m, m ≠ n → slotOf t m = slotOf s m) ∧ t.ae = { s.ae with slots := t.ae.slots } ∧ SameBut [.ae, .regs] s t ∧
  RegsAre (if -2 ^ 111 ≤ v ∧ v < 2 ^ 111 then [] else [withFld s (slotSts n) aeSlotstsSAT 1]) s t

theorem accStep_result {s : State} {n op : Nat} {w : Word} {c : Instr} {g : State → Word → Int} {v : Int}
    (he : exec c s = lawStep s n op (fun t w => setAcc t n (g t w))) (hg : g (lawNext s n) w = v)
    (hw : lawStepWord s n op = some w) (h : RamWhole s (engOf n)) : Runs c s (Accumulates s n v) := by
  obtain ⟨hslot, hothers, hengine, hparts⟩ := setAcc_slotIs s n v
  refine ⟨setAcc (lawNext s n) n v, ?_, hslot, hothers, hengine, hparts, regsAre_setAcc s n v⟩
  rw [he, lawStep_whole hw h, hg]

theorem nop_result {s : State} {n : Fin 128} {w : Word} (hw : lawStepWord s n.val 0x00 = some w) (h : RamWhole s (engOf n.val)) :
    Runs (.lawNop n) s (fun t => slotOf t n.val = { slotOf s n.val with pc := (slotOf s n.val).pc + 1, began := none } ∧
      (∀ m, m ≠ n.val → slotOf t m = slotOf s m) ∧ t.ae = { s.ae with slots := t.ae.slots } ∧ SameBut [.ae] s t) := by
  obtain ⟨hslot, hothers, hengine, -⟩ := lawNext_slotIs s n.val
  exact ⟨lawNext s n.val, lawStep_whole (f := fun t _ => t) hw h, hslot, hothers, hengine, setSlot_sameBut s n.val _⟩

theorem ashInt_eq (v : Int) (k : Nat) : ashInt v k = if k < 32 then v * 2 ^ k else v / 2 ^ (64 - k) := by
  rw [ashInt, Nat.cast_pow]
  rfl

/-- Settles O27, step by step: the value that each gives ACC. -/
theorem lawArithmetic : Obligations.LawArithmetic := by
  intro s n w acc a b gives
  have ha := sigInt_lawNext s n.val (stA.get w)
  have hb := coef_lawNext s n.val (stB.get w)
  have hacc := accOf_lawNext s n.val
  refine ⟨fun hw h => nop_result hw h, fun hw h => accStep_result (g := fun _ _ => 0) rfl rfl hw h,
    fun hw h => accStep_result (g := fun t w => alInt (sigInt t n.val (stA.get w))) rfl ?_ hw h,
    fun hw h => accStep_result (g := fun t w => accOf t n.val + sigInt t n.val (stA.get w) * coef t n.val (stB.get w)) rfl ?_ hw h,
    fun hw h => accStep_result (g := fun t w => accOf t n.val - sigInt t n.val (stA.get w) * coef t n.val (stB.get w)) rfl ?_ hw h,
    fun hw h => accStep_result (g := fun t w =>
      accOf t n.val + sigInt t n.val (stA.get w) * sigInt t n.val (stB.get w) * 2 ^ 8) rfl ?_ hw h,
    fun hw h => accStep_result (g := fun t w => accOf t n.val + alInt (sigInt t n.val (stA.get w))) rfl ?_ hw h,
    fun hw h => accStep_result (g := fun t w => accOf t n.val - alInt (sigInt t n.val (stA.get w))) rfl ?_ hw h,
    fun hw h => accStep_result (g := fun t w => accOf t n.val + coef t n.val (stB.get w) * 2 ^ 32) rfl ?_ hw h,
    fun hw h => accStep_result (g := fun t w => ashInt (accOf t n.val) (stSH.get w)) rfl ?_ hw h⟩
  · simp only [ha]; rfl
  · simp only [ha, hb, hacc]; rfl
  · simp only [ha, hb, hacc]; rfl
  · simp only [ha, hacc, sigInt_lawNext s n.val (stB.get w)]; rfl
  · simp only [ha, hacc]; rfl
  · simp only [ha, hacc]; rfl
  · simp only [hb, hacc]; rfl
  · simp only [hacc, ashInt_eq]; rfl

end Sys2Proof.Machine

/-! Phase groups (R85, R86). -/

namespace Sys2Proof.Machine

set_option Elab.async false

/-! The slots of lowest and of highest rank. -/

theorem lowestRank_eq_none {s : State} {l : List Nat} (h : lowestRank s l = none) : l = [] := by
  cases l with
  | nil => rfl
  | cons n r =>
    simp only [lowestRank] at h
    split at h
    · split at h <;> exact nomatch h
    · exact nomatch h

theorem highestRank_eq_none {s : State} {l : List Nat} (h : highestRank s l = none) : l = [] := by
  cases l with
  | nil => rfl
  | cons n r =>
    simp only [highestRank] at h
    split at h
    · split at h <;> exact nomatch h
    · exact nomatch h

/-- Of slots in rising order the first of lowest rank (R86). -/
theorem lowestRank_spec {s : State} {l : List Nat} (hl : l.Pairwise (· < ·)) {k : Nat} (h : lowestRank s l = some k) :
    k ∈ l ∧ ∀ j ∈ l, rankOf s k < rankOf s j ∨ (rankOf s k = rankOf s j ∧ k ≤ j) := by
  induction l generalizing k with
  | nil => exact nomatch h
  | cons n r ih =>
    obtain ⟨hn, hr⟩ := List.pairwise_cons.1 hl
    simp only [lowestRank] at h
    cases hm : lowestRank s r with
    | none =>
      rw [hm] at h
      cases h
      rw [lowestRank_eq_none hm]
      simp
    | some m =>
      obtain ⟨hmem, hleast⟩ := ih hr hm
      have hlt := hn m hmem
      rw [hm] at h
      simp only at h
      split at h
      next hle =>
        cases h
        refine ⟨List.mem_cons_self, fun j hj => ?_⟩
        obtain rfl | hj := List.mem_cons.1 hj
        · exact .inr ⟨rfl, Nat.le_refl _⟩
        · have := hleast j hj
          have := hn j hj
          omega
      next hgt =>
        cases h
        refine ⟨List.mem_cons_of_mem _ hmem, fun j hj => ?_⟩
        obtain rfl | hj := List.mem_cons.1 hj
        · exact .inl (by omega)
        · exact hleast j hj

/-- Of slots in rising order the last of highest rank (R86). -/
theorem highestRank_spec {s : State} {l : List Nat} (hl : l.Pairwise (· < ·)) {k : Nat} (h : highestRank s l = some k) :
    k ∈ l ∧ ∀ j ∈ l, rankOf s j < rankOf s k ∨ (rankOf s j = rankOf s k ∧ j ≤ k) := by
  induction l generalizing k with
  | nil => exact nomatch h
  | cons n r ih =>
    obtain ⟨hn, hr⟩ := List.pairwise_cons.1 hl
    simp only [highestRank] at h
    cases hm : highestRank s r with
    | none =>
      rw [hm] at h
      cases h
      rw [highestRank_eq_none hm]
      simp
    | some m =>
      obtain ⟨hmem, hmost⟩ := ih hr hm
      have hlt := hn m hmem
      rw [hm] at h
      simp only at h
      split at h
      next hgt =>
        cases h
        refine ⟨List.mem_cons_self, fun j hj => ?_⟩
        obtain rfl | hj := List.mem_cons.1 hj
        · exact .inr ⟨rfl, Nat.le_refl _⟩
        · have := hmost j hj
          omega
      next hle =>
        cases h
        refine ⟨List.mem_cons_of_mem _ hmem, fun j hj => ?_⟩
        obtain rfl | hj := List.mem_cons.1 hj
        · omega
        · exact hmost j hj

theorem phsMembers_sorted (s : State) (g : Nat) : (phsMembers s g).Pairwise (· < ·) := List.pairwise_lt_range.filter _

/-- A list with one element more that passes. -/
theorem length_filter_add_one {l : List Nat} (hl : l.Nodup) {p q : Nat → Bool} {k : Nat} (hk : k ∈ l) (hp : p k = false) (hq : q k = true)
    (h : ∀ j ∈ l, j ≠ k → q j = p j) : (l.filter q).length = (l.filter p).length + 1 := by
  have hperm := List.perm_cons_erase hk
  have hrest : (l.erase k).countP q = (l.erase k).countP p :=
    List.countP_congr fun j hj => by rw [h j (List.mem_of_mem_erase hj) (fun hjk => (hl.not_mem_erase (hjk ▸ hj)))]
  rw [← List.countP_eq_length_filter, ← List.countP_eq_length_filter, hperm.countP_eq, hperm.countP_eq p,
    List.countP_cons_of_pos hq, List.countP_cons_of_neg (by simp [hp]), hrest]

/-! An update of a group, part by part. -/

/-- Members that the load asks for (R85). -/
def phsNeed (s : State) (g : Nat) (load : Word) : Nat :=
  if sint load ≤ 0 then rf s (aePhsctl g) aePhsctlSPARE
  else if sint (rd s (aePhscap g)) ≤ 0 then (phsMembers s g).length
  else ((sint load + sint (rd s (aePhscap g)) - 1) / sint (rd s (aePhscap g))).toNat + rf s (aePhsctl g) aePhsctlSPARE

/-- The same within the policy window (R85). -/
def phsLimit (s : State) (g : Nat) (load : Word) : Nat :=
  min (max (phsNeed s g load) (rf s (aePhswin g) aePhswinELO)) (rf s (aePhswin g) aePhswinEHI)

/-- A window that limits the group is flagged and counted (R85). -/
def phsClamp (s : State) (g : Nat) (load : Word) : State :=
  if phsLimit s g load != phsNeed s g load then
    inc (adaptFlag s 0 (aePhssts g) aePhsstsPOLICYCLAMPED) (aePhssts g) aePhsstsCLAMPS else s

/-- The number of updates in a row that found too many members active. -/
def phsLow (s : State) (g v : Nat) : State := { s with ae := { s.ae with lows := tset 0 s.ae.lows g v } }

/-- The members that are active (R86). -/
def phsActive (s : State) (g : Nat) : List Nat := (phsMembers s g).filter (fun n => !slotShed s n)

/-- The change of the group that an update makes to the state `t` (R86). -/
def phsMove (s t : State) (g target : Nat) : State :=
  if (phsActive s g).length < target then
    match lowestRank s ((phsMembers s g).filter (slotShed s)) with
    | some k => phsLow (slotUnpark t g k) g 0
    | none => phsLow t g 0
  else if target < (phsActive s g).length then
    if max 1 (rf s (aePhsctl g) aePhsctlDWELL) ≤ tget 0 s.ae.lows g + 1 then
      match highestRank s (phsActive s g) with
      | some k => phsLow (setSlot t k { slotOf t k with parking := true }) g 0
      | none => phsLow t g 0
    else phsLow t g (tget 0 s.ae.lows g + 1)
  else phsLow t g 0

theorem phsUpdate_eq (s : State) (g : Nat) (load : Word) :
    phsUpdate s g load = phsSync (phsMove s (phsClamp s g load) g (min (phsLimit s g load) (phsMembers s g).length)) g := rfl

/-- State t is u but for the slots, and but for the registers of phase group g's status and of slot k. -/
structure PhsSame (u t : State) (g : Nat) : Prop where
  regs : RegsBut [aePhssts g] u t
  slots : t.ae.slots = u.ae.slots
  lows : t.ae.lows = u.ae.lows

theorem PhsSame.slotOf {u t : State} {g : Nat} (h : PhsSame u t g) (n : Nat) : slotOf t n = slotOf u n := by
  rw [Machine.slotOf, h.slots]
  rfl

theorem regsBut_inc (s : State) (a : Nat) (f : Fld) (n : Nat) : RegsBut [a] s (inc s a f n) := regsBut_wf s a f _

theorem phsClamp_same (s : State) (g : Nat) (load : Word) : PhsSame s (phsClamp s g load) g := by
  have hflag := adaptFlag_sameBut s 0 (aePhssts g) aePhsstsPOLICYCLAMPED
  have hae : (adaptFlag s 0 (aePhssts g) aePhsstsPOLICYCLAMPED).ae = s.ae := hflag .ae (by simp)
  unfold phsClamp
  split
  · exact ⟨(regsBut_adaptFlag s 0 _ _).and (regsBut_inc _ _ _ _), congrArg Ae.slots hae, congrArg Ae.lows hae⟩
  · exact ⟨RegsBut.refl _ _, rfl, rfl⟩

theorem phsSync_same (t : State) (g : Nat) : PhsSame t (phsSync t g) g :=
  ⟨(regsBut_wf t _ _ _).and (regsBut_wf _ _ _ _), rfl, rfl⟩

/-! Registers of slots and of groups stand apart. -/

theorem slotPhs_notMem_aePhssts (n : Nat) {g : Nat} (hg : g < 4) : slotPhs n ∉ [aePhssts g] := by
  simp only [List.mem_singleton, slotPhs, aeSlotphs, aePhssts, engOf, locOf]
  omega

theorem slotPhs_ne_slotSts (n m : Nat) : slotPhs n ≠ slotSts m := by
  simp only [slotPhs, aeSlotphs, slotSts, aeSlotsts, engOf, locOf]
  omega

theorem slotPhs_inj {n m : Nat} (h : n ≠ m) : slotPhs n ≠ slotPhs m := by
  simp only [slotPhs, aeSlotphs, engOf, locOf]
  omega

/-! The members and the active ones of a group after a change. -/

/-- Slots whose place in the groups is the same have the same members. -/
theorem phsMembers_congr {s t : State} {g : Nat}
    (h : ∀ n, rf t (slotPhs n) aeSlotphsMEM = rf s (slotPhs n) aeSlotphsMEM ∧ rf t (slotPhs n) aeSlotphsGRP = rf s (slotPhs n) aeSlotphsGRP) :
    phsMembers t g = phsMembers s g := by
  refine List.filter_congr fun n _ => ?_
  obtain ⟨hmem, hgrp⟩ := h n
  simp only [phsMember, rb, hmem, hgrp]

theorem PhsSame.rf_slotPhs {u t : State} {g : Nat} (h : PhsSame u t g) (hg : g < 4) (n : Nat) (f : Fld) :
    rf t (slotPhs n) f = rf u (slotPhs n) f := h.regs.rf_eq (slotPhs_notMem_aePhssts n hg) f

theorem PhsSame.members {u t : State} {g : Nat} (h : PhsSame u t g) (hg : g < 4) : phsMembers t g = phsMembers u g :=
  phsMembers_congr fun n => ⟨h.rf_slotPhs hg n _, h.rf_slotPhs hg n _⟩

theorem PhsSame.shed {u t : State} {g : Nat} (h : PhsSame u t g) (hg : g < 4) (n : Nat) : slotShed t n = slotShed u n := by
  simp only [slotShed, rb, h.rf_slotPhs hg, h.slotOf]

theorem PhsSame.active {u t : State} {g : Nat} (h : PhsSame u t g) (hg : g < 4) : phsActive t g = phsActive u g := by
  simp only [phsActive, h.members hg, h.shed hg]

theorem length_phsMembers (s : State) (g : Nat) : (phsMembers s g).length ≤ 128 := by
  have := List.length_filter_le (phsMember s g) (List.range 128)
  rwa [List.length_range] at this

theorem length_phsActive (s : State) (g : Nat) : (phsActive s g).length ≤ (phsMembers s g).length := List.length_filter_le _ _

/-- ACTIVE shows the number of the group's active members (R86). -/
theorem rf_phsSync_active (t : State) {g : Nat} : rf (phsSync t g) (aePhssts g) aePhsstsACTIVE = (phsActive t g).length := by
  have hle := length_phsActive t g
  have h128 := length_phsMembers t g
  have hsync : rf (phsSync t g) (aePhssts g) aePhsstsACTIVE = (phsActive t g).length % aePhsstsACTIVE.span := rf_wf_same _ _ _ _ (by decide)
  rw [hsync]
  exact Nat.mod_eq_of_lt (Nat.lt_of_le_of_lt (hle.trans h128) (by decide))

/-- A member that was shed is active, the others are as they were. -/
theorem length_phsActive_add {s t : State} {g k : Nat} (hmem : phsMembers t g = phsMembers s g) (hk : k ∈ phsMembers s g)
    (hs : slotShed s k = true) (ht : slotShed t k = false) (h : ∀ j, j ≠ k → slotShed t j = slotShed s j) :
    (phsActive t g).length = (phsActive s g).length + 1 := by
  rw [phsActive, hmem]
  exact length_filter_add_one ((phsMembers_sorted s g).imp Nat.ne_of_lt) hk (by simp [hs]) (by simp [ht]) (fun j _ hj => by rw [h j hj])

/-! What unparking and parking do to the slots. -/

/-- The changes of the registers that unparking a slot makes. -/
theorem slotUnpark_regs (t : State) (g k : Nat) : RegsBut [slotPhs k, slotSts k] t (slotUnpark t g k) := by
  have hflag : RegsBut [slotPhs k, slotSts k] t (wb t (slotPhs k) aeSlotphsPARKED false) := (regsBut_wb t _ _ false).mono (by simp)
  unfold slotUnpark
  extract_lets x was u v
  split
  · exact (hflag.and (regsBut_setSlot u k _)).and (regsBut_wf v _ _ _)
  · exact hflag.and (regsBut_setSlot u k _)

theorem rf_slotUnpark (t : State) (g k : Nat) (f : Fld) : rf (slotUnpark t g k) (slotPhs k) f = rf (wf t (slotPhs k) aeSlotphsPARKED 0) (slotPhs k) f := by
  unfold slotUnpark
  extract_lets x was u v
  split
  · exact rf_wf_other v _ f _ (slotPhs_ne_slotSts k k)
  · rfl

theorem slotOf_slotUnpark_same (t : State) (g k : Nat) :
    (slotOf (slotUnpark t g k) k).parking = false ∧ (slotOf (slotUnpark t g k) k).unpark = some (rd t (aePhspre g)) := by
  unfold slotUnpark
  extract_lets x was u v
  have hv : (slotOf v k).parking = false ∧ (slotOf v k).unpark = some (rd t (aePhspre g)) := by
    rw [slotOf_setSlot_same]
    exact ⟨rfl, rfl⟩
  split
  · exact hv
  · exact hv

theorem slotOf_slotUnpark_other (t : State) (g : Nat) {j k : Nat} (h : j ≠ k) : slotOf (slotUnpark t g k) j = slotOf t j := by
  unfold slotUnpark
  extract_lets x was u v
  have hv : slotOf v j = slotOf t j := slotOf_setSlot_other u _ h
  split
  · exact hv
  · exact hv

theorem slotShed_slotUnpark_same (t : State) (g k : Nat) : slotShed (slotUnpark t g k) k = false := by
  have hflag : rf (slotUnpark t g k) (slotPhs k) aeSlotphsPARKED = 0 := (rf_slotUnpark t g k _).trans (rf_wf_same t _ _ _ (by decide))
  rw [slotShed, (slotOf_slotUnpark_same t g k).1, rb, hflag]
  rfl

theorem slotShed_slotUnpark_other (t : State) (g : Nat) {j k : Nat} (h : j ≠ k) : slotShed (slotUnpark t g k) j = slotShed t j := by
  have hreg : rf (slotUnpark t g k) (slotPhs j) aeSlotphsPARKED = rf t (slotPhs j) aeSlotphsPARKED :=
    (slotUnpark_regs t g k).rf_eq (by simp [slotPhs_inj h, slotPhs_ne_slotSts]) _
  rw [slotShed, slotShed, slotOf_slotUnpark_other t g h, rb, rb, hreg]

theorem phsMembers_slotUnpark (t : State) (g k : Nat) : phsMembers (slotUnpark t g k) g = phsMembers t g := by
  have hfield : ∀ n, ∀ f : Fld, f.fits = true → (10 < f.lo ∨ f.hi < 10) → rf (slotUnpark t g k) (slotPhs n) f = rf t (slotPhs n) f := fun n f hf hap => by
    by_cases hn : n = k
    · rw [hn, rf_slotUnpark]
      exact rf_wf_apart t _ _ f _ (by decide) hf hap
    · exact (slotUnpark_regs t g k).rf_eq (by simp [slotPhs_inj hn, slotPhs_ne_slotSts]) f
  exact phsMembers_congr fun n => ⟨hfield n _ (by decide) (by decide), hfield n _ (by decide) (by decide)⟩

/-- A member is chosen for parking (R86). -/
def choosePark (t : State) (k : Nat) : State := setSlot t k { slotOf t k with parking := true }

theorem slotShed_choosePark_same (t : State) (k : Nat) : slotShed (choosePark t k) k = true := by
  rw [slotShed, choosePark, slotOf_setSlot_same, Bool.or_true]

theorem slotShed_choosePark_other (t : State) {j k : Nat} (h : j ≠ k) : slotShed (choosePark t k) j = slotShed t j := by
  rw [slotShed, slotShed, choosePark, slotOf_setSlot_other t _ h]
  rfl

/-! An update. -/

/-- What an update of a group leaves, of the state `t` that it brought about: what is shown of it, and how often the group has
been found with too many members active. -/
theorem phsSync_shows (t : State) {g : Nat} (hg : g < 4) (v : Nat) :
    (∀ n, slotOf (phsSync (phsLow t g v) g) n = slotOf t n) ∧ (∀ n, slotShed (phsSync (phsLow t g v) g) n = slotShed t n) ∧
    rf (phsSync (phsLow t g v) g) (aePhssts g) aePhsstsACTIVE = (phsActive t g).length ∧
    tget 0 (phsSync (phsLow t g v) g).ae.lows g = v := by
  have hsync := phsSync_same (phsLow t g v) g
  refine ⟨fun n => (hsync.slotOf n).trans rfl, fun n => (hsync.shed hg n).trans rfl, rf_phsSync_active _, ?_⟩
  rw [hsync.lows]
  exact tget_tset_same ..

/-- Too few members active: the parked one of lowest rank comes back (R86). -/
theorem phsUpdate_unparks {s : State} {g : Nat} (hg : g < 4) {load : Word}
    (h : (phsActive s g).length < min (phsLimit s g load) (phsMembers s g).length) :
    ∃ k ∈ phsMembers s g, slotShed s k = true ∧
      (∀ j ∈ phsMembers s g, slotShed s j = true → rankOf s k < rankOf s j ∨ (rankOf s k = rankOf s j ∧ k ≤ j)) ∧
      slotShed (phsUpdate s g load) k = false ∧ (slotOf (phsUpdate s g load) k).unpark = some (rd s (aePhspre g)) ∧
      (∀ j, j ≠ k → slotOf (phsUpdate s g load) j = slotOf s j) ∧
      rf (phsUpdate s g load) (aePhssts g) aePhsstsACTIVE = (phsActive s g).length + 1 ∧ tget 0 (phsUpdate s g load).ae.lows g = 0 := by
  cases hk : lowestRank s ((phsMembers s g).filter (slotShed s)) with
  | none =>
    have hnone := List.filter_eq_nil_iff.1 (lowestRank_eq_none hk)
    have hall : phsActive s g = phsMembers s g := List.filter_eq_self.2 fun n hn => by simp [hnone n hn]
    rw [hall] at h
    omega
  | some k =>
    obtain ⟨hmem, hleast⟩ := lowestRank_spec ((phsMembers_sorted s g).filter _) hk
    obtain ⟨hk1, hk2⟩ := List.mem_filter.1 hmem
    have hc := phsClamp_same s g load
    have hupd : phsUpdate s g load = phsSync (phsLow (slotUnpark (phsClamp s g load) g k) g 0) g := by
      rw [phsUpdate_eq, phsMove, if_pos h, hk]
    obtain ⟨hslots, hshed, hact, hlow⟩ := phsSync_shows (slotUnpark (phsClamp s g load) g k) hg 0
    have hpre : rd (phsClamp s g load) (aePhspre g) = rd s (aePhspre g) := hc.regs _ (by simp [aePhspre, aePhssts])
    refine ⟨k, hk1, hk2, fun j hj hjs => hleast j (List.mem_filter.2 ⟨hj, hjs⟩), ?_, ?_, fun j hj => ?_, ?_, ?_⟩ <;> rw [hupd]
    · rw [hshed, slotShed_slotUnpark_same]
    · rw [hslots, (slotOf_slotUnpark_same _ g k).2, hpre]
    · rw [hslots, slotOf_slotUnpark_other _ g hj, hc.slotOf]
    · rw [hact]
      exact length_phsActive_add ((phsMembers_slotUnpark _ g k).trans (hc.members hg)) hk1 hk2 (slotShed_slotUnpark_same _ g k)
        (fun j hj => (slotShed_slotUnpark_other _ g hj).trans (hc.shed hg j))
    · exact hlow

/-- Too many members active for long enough: the active one of highest rank is chosen for parking (R86). -/
theorem phsUpdate_parks {s : State} {g : Nat} (hg : g < 4) {load : Word}
    (h : min (phsLimit s g load) (phsMembers s g).length < (phsActive s g).length)
    (hdwell : max 1 (rf s (aePhsctl g) aePhsctlDWELL) ≤ tget 0 s.ae.lows g + 1) :
    ∃ k ∈ phsActive s g, (∀ j ∈ phsActive s g, rankOf s j < rankOf s k ∨ (rankOf s j = rankOf s k ∧ j ≤ k)) ∧
      slotOf (phsUpdate s g load) k = { slotOf s k with parking := true } ∧
      (∀ j, j ≠ k → slotOf (phsUpdate s g load) j = slotOf s j) ∧
      rf (phsUpdate s g load) (aePhssts g) aePhsstsACTIVE = (phsActive s g).length - 1 ∧ tget 0 (phsUpdate s g load).ae.lows g = 0 := by
  cases hk : highestRank s (phsActive s g) with
  | none =>
    rw [highestRank_eq_none hk] at h
    exact absurd h (Nat.not_lt_zero _)
  | some k =>
    obtain ⟨hmem, hmost⟩ := highestRank_spec ((phsMembers_sorted s g).filter _) hk
    obtain ⟨hk1, hk2⟩ := List.mem_filter.1 hmem
    have hshed : slotShed s k = false := by simpa using hk2
    have hc := phsClamp_same s g load
    have hupd : phsUpdate s g load = phsSync (phsLow (choosePark (phsClamp s g load) k) g 0) g := by
      rw [phsUpdate_eq, phsMove, if_neg (by omega), if_pos h, if_pos hdwell, hk]
      rfl
    obtain ⟨hslots, -, hact, hlow⟩ := phsSync_shows (choosePark (phsClamp s g load) k) hg 0
    refine ⟨k, hmem, hmost, ?_, fun j hj => ?_, ?_, ?_⟩ <;> rw [hupd]
    · rw [hslots, choosePark, slotOf_setSlot_same, hc.slotOf]
    · rw [hslots, choosePark, slotOf_setSlot_other _ _ hj, hc.slotOf]
    · have hadd : (phsActive s g).length = (phsActive (choosePark (phsClamp s g load) k) g).length + 1 :=
        length_phsActive_add (hc.members hg).symm ((hc.members hg).symm ▸ hk1 : k ∈ phsMembers (choosePark (phsClamp s g load) k) g)
          (slotShed_choosePark_same _ k) hshed (fun j hj => ((slotShed_choosePark_other _ hj).trans (hc.shed hg j)).symm)
      rw [hact]
      omega
    · exact hlow

/-- An update that changes no slot, but may note that too many members are active (R86). -/
theorem phsUpdate_waits {s : State} {g : Nat} (hg : g < 4) {load : Word} {v : Nat}
    (h : phsMove s (phsClamp s g load) g (min (phsLimit s g load) (phsMembers s g).length) = phsLow (phsClamp s g load) g v) :
    (∀ j, slotOf (phsUpdate s g load) j = slotOf s j) ∧ tget 0 (phsUpdate s g load).ae.lows g = v := by
  obtain ⟨hslots, -, -, hlow⟩ := phsSync_shows (phsClamp s g load) hg v
  rw [phsUpdate_eq, h]
  exact ⟨fun j => (hslots j).trans ((phsClamp_same s g load).slotOf j), hlow⟩

/-- Too many members active, but not for long enough (R86). -/
theorem phsUpdate_notes {s : State} {g : Nat} (hg : g < 4) {load : Word}
    (h : min (phsLimit s g load) (phsMembers s g).length < (phsActive s g).length)
    (hdwell : tget 0 s.ae.lows g + 1 < max 1 (rf s (aePhsctl g) aePhsctlDWELL)) :
    (∀ j, slotOf (phsUpdate s g load) j = slotOf s j) ∧ tget 0 (phsUpdate s g load).ae.lows g = tget 0 s.ae.lows g + 1 :=
  phsUpdate_waits hg (by rw [phsMove, if_neg (by omega), if_pos h, if_neg (Nat.not_le.2 hdwell)])

/-- As many members active as are asked for (R86). -/
theorem phsUpdate_rests {s : State} {g : Nat} (hg : g < 4) {load : Word}
    (h : (phsActive s g).length = min (phsLimit s g load) (phsMembers s g).length) :
    (∀ j, slotOf (phsUpdate s g load) j = slotOf s j) ∧ tget 0 (phsUpdate s g load).ae.lows g = 0 :=
  phsUpdate_waits hg (by rw [phsMove, if_neg (by omega), if_neg (by omega)])

/-- The state without a load that was taken. -/
def phsTaken (s : State) (p : Nat × Word) : State := { s with ae := { s.ae with loads := s.ae.loads.erase p } }

theorem phaseGroupUpdate_exec {s : State} {g : Fin 4} {i : Nat} {l : Word}
    (h : s.ae.loads.find? (fun p => p.1 == g.val) = some (i, l)) (hpd : pdOn s 18 = true) :
    exec (.phaseGroupUpdate g) s = .next (if rb s (aePhsctl g.val) aePhsctlEN && !rb s (aePhsctl g.val) aePhsctlFREEZE then
      phsUpdate (phsTaken s (i, l)) g.val l else phsTaken s (i, l)) := by
  show execPhaseGroupUpdate g s = _
  rw [execPhaseGroupUpdate, h, hpd]
  rfl

theorem phsTaken_sameBut (s : State) (p : Nat × Word) : SameBut [.ae] s (phsTaken s p) := by
  intro q hq; cases q <;> simp [Part.same, phsTaken] at hq ⊢

/-- Settles O30, by how the number of active members compares with the target. -/
theorem phaseGroups : Obligations.PhaseGroups := by
  intro s g i l ctl ms act cap need target low hload hpd
  have hexec := phaseGroupUpdate_exec hload hpd
  have hg := g.isLt
  refine ⟨fun hoff => ?_, fun hen hfr => ?_⟩
  · refine ⟨phsTaken s (i, l), ?_, rfl, phsTaken_sameBut s _⟩
    rw [hexec]
    obtain h | h := hoff <;> simp [ctl] at h <;> simp [h]
  · have hrun : exec (.phaseGroupUpdate g) s = .next (phsUpdate (phsTaken s (i, l)) g.val l) := by
      simp only [ctl] at hen hfr
      rw [hexec, hen, hfr]
      rfl
    have hunparks := phsUpdate_unparks (s := phsTaken s (i, l)) (load := l) hg
    have hparks := phsUpdate_parks (s := phsTaken s (i, l)) (load := l) hg
    have hnotes := phsUpdate_notes (s := phsTaken s (i, l)) (load := l) hg
    have hrests := phsUpdate_rests (s := phsTaken s (i, l)) (load := l) hg
    exact ⟨fun h => ⟨_, hrun, hunparks h⟩, fun h hd => ⟨_, hrun, hparks h hd⟩, fun h hd => ⟨_, hrun, hnotes h hd⟩,
      fun h => ⟨_, hrun, hrests h⟩⟩

end Sys2Proof.Machine

/-! Postings of the predictor: retraction and arming (R28, R29, R101 to R104). -/

namespace Sys2Proof.Machine

set_option Elab.async false

/-! The earliest unarmed posting of a cell. -/

/-- One step of the search for the earliest posting. -/
def earlier (b : Option Posting) (x : Posting) : Option Posting :=
  match b with
  | some y => if x.p < y.p then some x else b
  | none => some x

theorem earlier_foldl (l : List Posting) (b : Option Posting) {y : Posting} (h : l.foldl earlier b = some y) :
    (y ∈ l ∨ b = some y) ∧ (∀ z ∈ l, y.p ≤ z.p) ∧ ∀ z, b = some z → y.p ≤ z.p := by
  induction l generalizing b with
  | nil =>
    obtain rfl : b = some y := h
    simp
  | cons x l ih =>
    obtain ⟨hmem, hleast, hbest⟩ := ih (earlier b x) h
    cases b with
    | none =>
      have hx : y.p ≤ x.p := hbest x rfl
      refine ⟨.inl ?_, fun z hz => ?_, fun z hz => nomatch hz⟩
      · obtain hm | hm := hmem
        · exact List.mem_cons_of_mem _ hm
        · cases hm; exact List.mem_cons_self
      · obtain rfl | hz := List.mem_cons.1 hz
        · exact hx
        · exact hleast z hz
    | some w =>
      simp only [earlier] at hmem hbest
      split at hbest
      · next hlt =>
        have hx : y.p ≤ x.p := hbest x rfl
        rw [if_pos hlt] at hmem
        refine ⟨.inl ?_, fun z hz => ?_, fun z hz => ?_⟩
        · obtain hm | hm := hmem
          · exact List.mem_cons_of_mem _ hm
          · cases hm; exact List.mem_cons_self
        · obtain rfl | hz := List.mem_cons.1 hz
          · exact hx
          · exact hleast z hz
        · cases hz; omega
      · next hge =>
        have hw : y.p ≤ w.p := hbest w rfl
        rw [if_neg hge] at hmem
        refine ⟨?_, fun z hz => ?_, fun z hz => ?_⟩
        · obtain hm | hm := hmem
          · exact .inl (List.mem_cons_of_mem _ hm)
          · exact .inr hm
        · obtain rfl | hz := List.mem_cons.1 hz
          · omega
          · exact hleast z hz
        · cases hz; exact hw

theorem earliestPost_eq (s : State) (c : Nat) :
    earliestPost s c = ((cellPosts s c).filter (fun x => !postArmed s x)).foldl earlier none := rfl

theorem earliestPost_spec {s : State} {c : Nat} {y : Posting} (h : earliestPost s c = some y) :
    y ∈ cellPosts s c ∧ postArmed s y = false ∧ ∀ z ∈ cellPosts s c, postArmed s z = false → y.p ≤ z.p := by
  rw [earliestPost_eq] at h
  obtain ⟨hmem, hleast, -⟩ := earlier_foldl _ _ h
  obtain hmem | hno := hmem
  · obtain ⟨hpost, harm⟩ := List.mem_filter.1 hmem
    exact ⟨hpost, by simpa using harm, fun z hz hzarm => hleast z (List.mem_filter.2 ⟨hz, by simp [hzarm]⟩)⟩
  · exact nomatch hno

theorem RegsBut.rb_eq {l : List Nat} {s t : State} (h : RegsBut l s t) {a : Nat} (ha : a ∉ l) (f : Fld) : rb t a f = rb s a f :=
  congrArg (· != 0) (h.rf_eq ha f)

/-! Requests of a cell (R102, R103). -/

theorem setCell_sameBut (s : State) (c : Nat) (x : Cell) : SameBut [.ssp] s (setCell s c x) := by
  intro p hp; cases p <;> simp [Part.same, setCell] at hp ⊢

theorem cellOf_setCell_same (s : State) (c : Nat) (x : Cell) : cellOf (setCell s c x) c = x := tget_tset_same ..

theorem cellOf_setCell_other (s : State) {b c : Nat} (x : Cell) (h : b ≠ c) : cellOf (setCell s c x) b = cellOf s b :=
  tget_tset_other _ _ _ _ h

/-- A request of a cell: a flag of CCFG is set and the cell's record changed. -/
theorem cellAsks {s : State} {c : Nat} {f : Fld} {x : Cell} {cmd : Instr}
    (he : exec cmd s = .next (respond (setCell (wb s (sspCcfg c) f true) c x) 0)) :
    Runs cmd s (fun t => (t.resp = ⟨0, 0⟩ ∧ t.ssp = { s.ssp with cells := t.ssp.cells } ∧ (∀ j, j ≠ c → cellOf t j = cellOf s j) ∧
      SameBut [.ssp, .regs, .resp] s t) ∧ cellOf t c = x ∧ RegsAre [withFld s (sspCcfg c) f 1] s t) :=
  ⟨_, he, ⟨rfl, rfl, fun _ hj => cellOf_setCell_other _ x hj,
    (((wb_sameBut s _ f true).mono (by simp)).and (setCell_sameBut _ c x)).and (respond_sameBut _ _ _)⟩,
    cellOf_setCell_same _ c x, (regsAre_wf s _ f _).and (fun _ _ => rfl)⟩

theorem sspRtrq_exec {s : State} (c : Fin 8) (hpd : pdOn s 26 = true) : exec (.sspRtrq c) s = .next (respond (sspRtrq s c.val) 0) := by
  show execSspRtrq c s = _
  rw [execSspRtrq, hpd]
  rfl

theorem sspArmrq_exec {s : State} (c : Fin 8) (hpd : pdOn s 26 = true) : exec (.sspArmrq c) s = .next (respond (sspArmrq s c.val) 0) := by
  show execSspArmrq c s = _
  rw [execSspArmrq, hpd]
  rfl

theorem sspRtrq_of_some {s : State} {c : Nat} {x : Posting} (h : earliestPost s c = some x) :
    sspRtrq s c = setCell (wb s (sspCcfg c) sspCcfgRTRQ true) c { cellOf s c with rtrq := some x.tag } := by
  rw [sspRtrq, h]

theorem sspArmrq_of_some {s : State} {c : Nat} {x : Posting} (h : earliestPost s c = some x) :
    sspArmrq s c = setCell (wb s (sspCcfg c) sspCcfgARMRQ true) c { cellOf s c with armrq := some x.tag } := by
  rw [sspArmrq, h]

/-- A cell with no unarmed posting asks for nothing. -/
theorem cellAsks_nothing {s : State} {cmd : Instr} (he : exec cmd s = .next (respond s 0)) :
    Runs cmd s (fun t => t.resp = ⟨0, 0⟩ ∧ SameBut [.resp] s t) := ⟨_, he, rfl, respond_sameBut s _ _⟩

/-! The port acts on a request (R28, R29, R104). -/

/-- Of entries that are set to one value, each holds it. -/
theorem tget_foldl_tset {l : List LaneTag} (v : Nat × Nat) (o : List (Nat × (Nat × Nat))) {x : LaneTag} (hx : x ∈ l ∨ tget (0, 0) o x.lane = v) :
    tget (0, 0) (l.foldl (fun o t => tset (0, 0) o t.lane v) o) x.lane = v := by
  induction l generalizing o with
  | nil => simpa using hx
  | cons y l ih =>
    refine ih (tset (0, 0) o y.lane v) ?_
    by_cases hl : x.lane = y.lane
    · exact .inr (by rw [hl]; exact tget_tset_same ..)
    · obtain hx | hx := hx
      · obtain rfl | hx := List.mem_cons.1 hx
        · exact absurd rfl hl
        · exact .inl hx
      · exact .inr ((tget_tset_other _ _ _ _ hl).trans hx)

theorem cvp_sameBut (s : State) (c : Cvp) : SameBut [.cvp] s { s with cvp := c } := by
  intro p hp; cases p <;> simp [Part.same] at hp ⊢

theorem ssp_sameBut (s : State) (x : Ssp) : SameBut [.ssp] s { s with ssp := x } := by
  intro p hp; cases p <;> simp [Part.same] at hp ⊢

/-- A retraction in time is strobed on every lane that carries its tag (R29). -/
theorem cvpRetract_early {s : State} {tag rq : Nat} (hany : s.cvp.tags.any (fun l => l.tag == tag) = true) (h : retractLate s tag rq = false) :
    cvpRetract s tag rq = { s with cvp := { s.cvp with
      tags := s.cvp.tags.map (fun t => if t.tag == tag then { t with gone := true } else t),
      retrOut := (s.cvp.tags.filter (fun t => t.tag == tag)).foldl (fun o t => tset (0, 0) o t.lane (tag, s.port + 1)) s.cvp.retrOut } } := by
  have hne : (s.cvp.tags.filter (fun t => t.tag == tag)).isEmpty = false := by
    obtain ⟨l, hl, htag⟩ := List.any_eq_true.1 hany
    exact List.isEmpty_eq_false_iff_exists_mem.2 ⟨l, List.mem_filter.2 ⟨hl, htag⟩⟩
  rw [retractLate] at h
  simp only [cvpRetract, hne, h, Bool.false_eq_true, if_false]

/-- The record of a retraction that comes too late (R29). -/
def lateRecorded (s : State) (tag rq : Nat) : State :=
  let arm := ((s.cvp.tags.filter (fun t => t.tag == tag)).head?.map (fun t => t.arm)).getD 0
  let t := inc (wb s cvpEvsts cvpEvstsLATERETRACT true) cvpEvcnt cvpEvcntLATE
  wf (wf (wf t cvpLaterec cvpLaterecTAG tag) cvpLaterec cvpLaterecREQCYC (rq % 65536)) cvpLaterec cvpLaterecARMCYC (arm % 65536)

theorem cvpRetract_late {s : State} {tag rq : Nat} (hany : s.cvp.tags.any (fun l => l.tag == tag) = true) (h : retractLate s tag rq = true) :
    cvpRetract s tag rq = semFire (lateRecorded s tag rq) 0x098 := by
  have hne : (s.cvp.tags.filter (fun t => t.tag == tag)).isEmpty = false := by
    obtain ⟨l, hl, htag⟩ := List.any_eq_true.1 hany
    exact List.isEmpty_eq_false_iff_exists_mem.2 ⟨l, List.mem_filter.2 ⟨hl, htag⟩⟩
  rw [retractLate] at h
  simp only [cvpRetract, hne, h, Bool.false_eq_true, if_false, if_true]
  rfl

theorem lateRecorded_sameBut (s : State) (tag rq : Nat) : SameBut [.regs] s (lateRecorded s tag rq) :=
  ((((wb_sameBut s _ _ true).and (inc_sameBut _ _ _ _)).and (wf_sameBut _ _ _ _)).and (wf_sameBut _ _ _ _)).and (wf_sameBut _ _ _ _)

theorem regsBut_lateRecorded (s : State) (tag rq : Nat) : RegsBut [cvpEvsts, cvpEvcnt, cvpLaterec] s (lateRecorded s tag rq) :=
  (((((regsBut_wb s _ _ true).mono (by simp)).and (regsBut_inc _ _ _ _)).and (regsBut_wf _ _ _ _)).and (regsBut_wf _ _ _ _)).and
    (regsBut_wf _ _ _ _)

theorem lateRecorded_shows (s : State) (tag rq : Nat) : rb (lateRecorded s tag rq) cvpEvsts cvpEvstsLATERETRACT = true ∧
    rf (lateRecorded s tag rq) cvpLaterec cvpLaterecTAG = tag % 32 ∧ rf (lateRecorded s tag rq) cvpLaterec cvpLaterecREQCYC = rq % 65536 := by
  refine ⟨?_, ?_, ?_⟩
  · have hrest : RegsBut [cvpEvcnt, cvpLaterec] (wb s cvpEvsts cvpEvstsLATERETRACT true) (lateRecorded s tag rq) :=
      ((((regsBut_inc _ _ _ _).mono (by simp)).and (regsBut_wf _ _ _ _)).and (regsBut_wf _ _ _ _)).and (regsBut_wf _ _ _ _)
    rw [hrest.rb_eq (by decide), rb_wb_same s _ _ true (by decide)]
  · rw [lateRecorded, rf_wf_apart _ _ _ _ _ (by decide) (by decide) (.inl (by decide)), rf_wf_apart _ _ _ _ _ (by decide) (by decide) (.inl (by decide)),
      rf_wf_same _ _ _ _ (by decide)]
    rfl
  · rw [lateRecorded, rf_wf_apart _ _ _ _ _ (by decide) (by decide) (.inl (by decide)), rf_wf_same _ _ _ _ (by decide)]
    exact Nat.mod_mod _ _

theorem dmEndCell_none {s : State} {c : Nat} (h : monsOf s 2 c = []) : dmEndCell s c = s := by
  rw [dmEndCell, h]
  rfl

/-- Registers of a cell's predictor lie above those of the port, the monitors and the domains. -/
theorem notMem_cellRegs (c : Nat) {a : Nat} (ha : a < 0x40060000) : a ∉ [sspCsts c, sspCcnt c] := by
  simp only [List.mem_cons, List.not_mem_nil, or_false, sspCsts, sspCcnt]
  omega

/-- What the cell is told of a retraction that comes too late (R29, R102). -/
def lateTold (s : State) (tag rq c : Nat) : State :=
  inc (wb (semFire (lateRecorded s tag rq) 0x098) (sspCsts c) sspCstsLATERETRACT true) (sspCcnt c) sspCcntLATE

theorem lateTold_cell (s : State) (tag rq c : Nat) : RegsBut [sspCsts c, sspCcnt c] (lateRecorded s tag rq) (lateTold s tag rq c) :=
  (((regsBut_semFire _ _).mono (by simp)).and (regsBut_wb _ _ _ true)).and (regsBut_inc _ _ _ _)

theorem lateTold_sameBut (s : State) (tag rq c : Nat) : SameBut [.sem, .regs] s (lateTold s tag rq c) :=
  ((((lateRecorded_sameBut s tag rq).mono (by simp)).and (semFire_sameBut _ _)).and (wb_sameBut _ _ _ true)).and (inc_sameBut _ _ _ _)

theorem regsBut_lateTold (s : State) (tag rq c : Nat) : RegsBut [sspCsts c, sspCcnt c, cvpEvsts, cvpEvcnt, cvpLaterec] s (lateTold s tag rq c) :=
  ((regsBut_lateRecorded s tag rq).mono (by simp +contextual)).and (lateTold_cell s tag rq c)

theorem lateTold_flag (s : State) (tag rq c : Nat) : rb (lateTold s tag rq c) (sspCsts c) sspCstsLATERETRACT = true := by
  have hne : sspCsts c ∉ [sspCcnt c] := by
    simp only [List.mem_singleton, sspCsts, sspCcnt]
    omega
  have hinc : RegsBut [sspCcnt c] _ (lateTold s tag rq c) := regsBut_inc _ _ _ _
  rw [hinc.rb_eq hne, rb_wb_same _ _ _ true (by decide)]

theorem canFire_lateRecorded (s : State) (tag rq : Nat) : canFire (lateRecorded s tag rq) 0x098 = canFire s 0x098 := by
  have hsame := lateRecorded_sameBut s tag rq
  refine canFire_congr (fun d hd => (regsBut_lateRecorded s tag rq).pdOn_eq d ?_) (fun d hd => ?_) (hsame .sem (by simp)) (hsame .port (by simp))
  · simp only [List.mem_cons, List.not_mem_nil, or_false, pctlPd, cvpEvsts, cvpEvcnt, cvpLaterec]
    omega
  · have hdom : producerDomain 0x098 = some 52 := by decide
    cases hdom.symm.trans hd
    decide

theorem sspStrobe_late {s : State} {r : SspReq} (hany : s.cvp.tags.any (fun l => l.tag == r.tag) = true) (hmon : monsOf s 2 r.cell = [])
    (hretr : r.retr = true) (harm : r.arm = false) (hlate : retractLate s r.tag r.cyc = true) :
    sspStrobe s r = lateTold s r.tag r.cyc r.cell := by
  have hmon' : monsOf (lateTold s r.tag r.cyc r.cell) 2 r.cell = [] := by
    refine ((regsBut_lateTold s r.tag r.cyc r.cell).monsOf_eq (fun m hm => ?_) 2 r.cell).trans hmon
    simp only [List.mem_cons, List.not_mem_nil, or_false, dmCfg, sspCsts, sspCcnt, cvpEvsts, cvpEvcnt, cvpLaterec]
    omega
  rw [sspStrobe, hretr, hlate, harm, cvpRetract_late hany hlate]
  exact dmEndCell_none hmon'

theorem lateTold_result {s : State} (tag rq c : Nat) :
    let t := lateTold s tag rq c
    t.cvp = s.cvp ∧ rb t (sspCsts c) sspCstsLATERETRACT = true ∧ rb t cvpEvsts cvpEvstsLATERETRACT = true ∧
      rf t cvpLaterec cvpLaterecTAG = tag % 32 ∧ rf t cvpLaterec cvpLaterecREQCYC = rq % 65536 ∧ Fires [0x098] s t ∧
      RegsBut [sspCsts c, sspCcnt c, cvpEvsts, cvpEvcnt, cvpLaterec] s t ∧ SameBut [.sem, .regs] s t := by
  intro t
  have hcell := lateTold_cell s tag rq c
  have hsame := lateTold_sameBut s tag rq c
  have hrec := lateRecorded_sameBut s tag rq
  obtain ⟨hflag, htag, hreq⟩ := lateRecorded_shows s tag rq
  refine ⟨hsame .cvp (by simp), lateTold_flag s tag rq c, ?_, ?_, ?_, ?_, regsBut_lateTold s tag rq c, hsame⟩
  · rw [hcell.rb_eq (notMem_cellRegs c (by decide)), hflag]
  · rw [hcell.rf_eq (notMem_cellRegs c (by decide)), htag]
  · rw [hcell.rf_eq (notMem_cellRegs c (by decide)), hreq]
  · exact semFire_sem_congr (canFire_lateRecorded s tag rq) (hrec .sem (by simp)) (hrec .port (by simp))

/-- A retraction in time: its tag goes, its postings go, and its replacement waits (R29, R102). -/
theorem sspStrobe_early {s : State} {r : SspReq} (hany : s.cvp.tags.any (fun l => l.tag == r.tag) = true)
    (hretr : r.retr = true) (hlate : retractLate s r.tag r.cyc = false) :
    (sspStrobe s r).cvp.tags = s.cvp.tags.map (fun l => if l.tag == r.tag then { l with gone := true } else l) ∧
    (∀ l ∈ s.cvp.tags, l.tag = r.tag → tget (0, 0) (sspStrobe s r).cvp.retrOut l.lane = (r.tag, s.port + 1)) ∧
    (∀ y ∈ (sspStrobe s r).ssp.posts, y.tag = r.tag → y.gone = true) ∧ (sspStrobe s r).ssp.repls = s.ssp.repls ++ r.repl.toList ∧
    SameBut [.cvp, .ssp] s (sspStrobe s r) := by
  rw [sspStrobe, hretr, hlate, cvpRetract_early hany hlate]
  refine ⟨rfl, fun l hl htag => ?_, fun y hy htag => ?_, rfl, ?_⟩
  · exact tget_foldl_tset (r.tag, s.port + 1) s.cvp.retrOut (.inl (List.mem_filter.2 ⟨hl, by simp [htag]⟩))
  · obtain ⟨x, -, rfl⟩ := List.mem_map.1 hy
    split at htag
    · next hx => rw [if_pos hx]
    · next hx => exact absurd (by simpa using htag) hx
  · exact (((cvp_sameBut s _).mono (by simp)).and (ssp_sameBut _ _)).and (ssp_sameBut _ _)

/-- An early arm is strobed on every lane that carries its tag and has not armed (R30). -/
theorem sspStrobe_arms {s : State} {r : SspReq} (hretr : r.retr = false) :
    (∀ l ∈ s.cvp.tags, l.tag = r.tag → l.armed = false → l.gone = false → tget (0, 0) (sspStrobe s r).cvp.armOut l.lane = (r.tag, s.port + 1)) ∧
    (sspStrobe s r).cvp.tags = s.cvp.tags.map (fun l => if l.tag == r.tag && !l.armed && !l.gone then { l with early := true } else l) ∧
    SameBut [.cvp] s (sspStrobe s r) := by
  rw [sspStrobe, hretr]
  refine ⟨fun l hl htag harm hgone => ?_, rfl, cvp_sameBut s _⟩
  exact tget_foldl_tset (r.tag, s.port + 1) s.cvp.armOut (.inl (List.mem_filter.2 ⟨hl, by simp [htag, harm, hgone]⟩))

/-! The arm cycle of a tag (R28, R101). -/

/-- A tag's entry that arms. -/
def LaneTag.arms (l : LaneTag) (g : Nat) : LaneTag :=
  if l.tag == g && !l.armed && !l.gone then { l with armed := true, early := false, words := [] } else l

theorem expectWord_sameBut (s : State) (w : EdgeWord) (g : Option Nat) (sent : Nat) : SameBut [.cvp] s (expectWord s w g sent) := cvp_sameBut s _

theorem SameBut.foldl {α : Type} {l : List Part} {f : State → α → State} (xs : List α) (s : State) (h : ∀ t x, SameBut l t (f t x)) :
    SameBut l s (xs.foldl f s) := by
  induction xs generalizing s with
  | nil => exact SameBut.refl _ _
  | cons x xs ih => exact (h s x).trans (ih (f s x))

/-- Words that take effect leave the tags alone. -/
theorem tags_foldl_expectWord (g : Option Nat) (ws : List (EdgeWord × Nat)) (s : State) :
    (ws.foldl (fun v w => expectWord v w.1 g w.2) s).cvp.tags = s.cvp.tags := by
  induction ws generalizing s with
  | nil => rfl
  | cons w ws ih => exact ih _

theorem tagArm_tags (s : State) (g : Nat) : (tagArm s g false).cvp.tags = s.cvp.tags.map (fun l => l.arms g) := by
  have hfold : ∀ (ls : List LaneTag) (t : State),
      (ls.foldl (fun u l => l.words.foldl (fun v w => expectWord v w.1 (some g) w.2) u) t).cvp.tags = t.cvp.tags := fun ls => by
    induction ls with
    | nil => exact fun _ => rfl
    | cons l ls ih => exact fun t => (ih _).trans (tags_foldl_expectWord _ _ _)
  exact hfold _ _

theorem tagArm_sameBut (s : State) (g : Nat) : SameBut [.cvp] s (tagArm s g false) :=
  (cvp_sameBut s _).trans (SameBut.foldl _ _ fun _ _ => SameBut.foldl _ _ fun u w => expectWord_sameBut u w.1 _ w.2)

/-- The tags of the port after an arm cycle, before those out of use are released. -/
def tagsArmed (s : State) (g : Nat) : State :=
  { tagArm s g false with cvp := { (tagArm s g false).cvp with
    tags := (tagArm s g false).cvp.tags.map (fun l => if l.tag == g then { l with early := false } else l) } }

theorem tagsArmed_sameBut (s : State) (g : Nat) : SameBut [.cvp] s (tagsArmed s g) := (tagArm_sameBut s g).trans (cvp_sameBut _ _)

theorem tagsArmed_spec (s : State) (g : Nat) : ∀ l ∈ (tagsArmed s g).cvp.tags, l.tag = g → l.early = false ∧ (l.armed = true ∨ l.gone = true) := by
  intro l hl htag
  have hl' : l ∈ ((tagArm s g false).cvp.tags.map (fun l => if l.tag == g then { l with early := false } else l)) := hl
  rw [tagArm_tags, List.map_map] at hl'
  obtain ⟨x, -, rfl⟩ := List.mem_map.1 hl'
  have hx : x.arms g = x ∧ (x.tag = g → x.armed = true ∨ x.gone = true) ∨ x.arms g = { x with armed := true, early := false, words := [] } := by
    unfold LaneTag.arms
    split
    · exact .inr rfl
    · next h => exact .inl ⟨rfl, fun hg => by simpa [hg, or_iff_not_imp_left] using h⟩
  by_cases hg : (x.arms g).tag = g
  · simp only [Function.comp, hg, BEq.rfl, if_true]
    obtain ⟨hsame, harm⟩ | hnew := hx
    · rw [hsame] at hg ⊢
      exact ⟨trivial, harm hg⟩
    · rw [hnew]
      exact ⟨trivial, .inl rfl⟩
  · simp only [Function.comp, beq_eq_false_iff_ne.2 hg] at htag
    exact absurd htag hg

/-- Events fired in states that agree in registers, event matrix and time. -/
theorem foldl_semFire_congr (l : List Nat) {s t : State} (hrd : ∀ a, rd t a = rd s a) (hsem : t.sem = s.sem) (hport : t.port = s.port) :
    (l.foldl semFire t).sem = (l.foldl semFire s).sem := by
  induction l generalizing s t with
  | nil => exact hsem
  | cons p l ih =>
    have hpd : ∀ d, pdOn t d = pdOn s d := fun d => by simp only [pdOn, rf, hrd]
    have hfire : canFire t p = canFire s p := by
      simp only [canFire, hpd, hsem, hport]
    exact ih (fun a => hrd a) (semFire_sem_congr hfire hsem hport) hport

/-- The state after an arm cycle, before the tags out of use are released. -/
def tagsFired (s : State) (g : Nat) : State :=
  ((s.ssp.posts.filter (fun x => x.tag == g && !x.gone)).map (fun x => x.cell)).foldl (fun t c => semFire t (0x090 + c)) (tagsArmed s g)

theorem tagsFired_sameBut (s : State) (g : Nat) : SameBut [.sem] (tagsArmed s g) (tagsFired s g) :=
  SameBut.foldl _ _ fun t _ => semFire_sameBut t _

theorem tagsFired_fires (s : State) (g : Nat) :
    Fires (((s.ssp.posts.filter (fun y => y.tag == g && !y.gone)).map (fun y => y.cell)).map (fun c => 0x090 + c)) s (tagsFired s g) := by
  have hsame := tagsArmed_sameBut s g
  have hcongr := foldl_semFire_congr (((s.ssp.posts.filter (fun y => y.tag == g && !y.gone)).map (fun y => y.cell)).map (fun c => 0x090 + c))
    (hsame.rd_eq (by simp) (by simp) (by simp)) (hsame .sem (by simp)) (hsame .port (by simp))
  rw [Fires, ← hcongr]
  simp only [tagsFired, List.foldl_map]

theorem postsSync_sameBut (s : State) : SameBut [.ssp] s (postsSync s) := ssp_sameBut s _

theorem tagRelease_sameBut (s : State) : SameBut [.cvp, .ssp] s (tagRelease s) :=
  ((cvp_sameBut s _).mono (by simp)).and (postsSync_sameBut _)

/-- Tags that are released leave; the others stay as they are. -/
theorem mem_tags_tagRelease {s : State} {l : LaneTag} (h : l ∈ (tagRelease s).cvp.tags) : l ∈ s.cvp.tags := (List.mem_filter.1 h).1

theorem mem_posts_tagRelease {s : State} {y : Posting} (h : y ∈ (tagRelease s).ssp.posts) : y ∈ s.ssp.posts := (List.mem_filter.1 h).1

/-- A tag whose words have not all left goes with its postings (R101). -/
def tagVoided (s : State) (g : Nat) : State :=
  { s with cvp := { s.cvp with tags := s.cvp.tags.filter (fun l => l.tag != g) }, ssp := { s.ssp with posts := s.ssp.posts.filter (fun x => x.tag != g) } }

theorem tagVoided_sameBut (s : State) (g : Nat) : SameBut [.cvp, .ssp] s (tagVoided s g) :=
  ((cvp_sameBut s _).mono (by simp)).and (ssp_sameBut { s with cvp := { s.cvp with tags := s.cvp.tags.filter (fun l => l.tag != g) } } _)

theorem tagArmCycle_exec {s : State} {g : Fin 32} (hrun : s.running = true) (hdue : armDue s g.val = true) :
    exec (.tagArmCycle g) s = .next (tagRelease (if s.ssp.posts.any (fun x => x.tag == g.val && !x.left) then tagVoided (tagsFired s g.val) g.val
      else tagsFired s g.val)) := by
  show execTagArmCycle g s = _
  simp only [execTagArmCycle, onlyIf, hrun, hdue]
  rfl

theorem tagArmCycle_arms {s : State} {g : Fin 32} (hrun : s.running = true) (hdue : armDue s g.val = true)
    (hleft : s.ssp.posts.any (fun x => x.tag == g.val && !x.left) = false) :
    Runs (.tagArmCycle g) s (fun t => (∀ l ∈ t.cvp.tags, l.tag = g.val → l.early = false ∧ (l.armed = true ∨ l.gone = true)) ∧
      Fires (((s.ssp.posts.filter (fun y => y.tag == g.val && !y.gone)).map (fun y => y.cell)).map (fun c => 0x090 + c)) s t ∧
      SameBut [.cvp, .ssp, .sem] s t) := by
  refine ⟨tagRelease (tagsFired s g.val), by rw [tagArmCycle_exec hrun hdue, hleft]; rfl, fun l hl => ?_, tagsFired_fires s g.val, ?_⟩
  · have hcvp : (tagsFired s g.val).cvp = (tagsArmed s g.val).cvp := tagsFired_sameBut s g.val .cvp (by simp)
    exact tagsArmed_spec s g.val l (hcvp ▸ mem_tags_tagRelease hl)
  · exact (((tagsArmed_sameBut s g.val).mono (by simp)).and (tagsFired_sameBut s g.val)).and (tagRelease_sameBut _)

theorem tagArmCycle_voids {s : State} {g : Fin 32} (hrun : s.running = true) (hdue : armDue s g.val = true)
    (hleft : s.ssp.posts.any (fun x => x.tag == g.val && !x.left) = true) :
    Runs (.tagArmCycle g) s (fun t => (∀ l ∈ t.cvp.tags, l.tag ≠ g.val) ∧ (∀ y ∈ t.ssp.posts, y.tag ≠ g.val) ∧
      Fires (((s.ssp.posts.filter (fun y => y.tag == g.val && !y.gone)).map (fun y => y.cell)).map (fun c => 0x090 + c)) s t ∧
      SameBut [.cvp, .ssp, .sem] s t) := by
  refine ⟨tagRelease (tagVoided (tagsFired s g.val) g.val), by rw [tagArmCycle_exec hrun hdue, hleft]; rfl, fun l hl => ?_, fun y hy => ?_,
    tagsFired_fires s g.val, ?_⟩
  · have hl' : l ∈ (tagsFired s g.val).cvp.tags.filter (fun l => l.tag != g.val) := mem_tags_tagRelease hl
    simpa using (List.mem_filter.1 hl').2
  · have hy' : y ∈ (tagsFired s g.val).ssp.posts.filter (fun x => x.tag != g.val) := mem_posts_tagRelease hy
    simpa using (List.mem_filter.1 hy').2
  · exact ((((tagsArmed_sameBut s g.val).mono (by simp)).and (tagsFired_sameBut s g.val)).and (tagVoided_sameBut _ _)).and (tagRelease_sameBut _)

/-- Settles O32, clause by clause. -/
theorem predictorPostings : Obligations.PredictorPostings := by
  intro s c g x cells same
  refine ⟨fun hpd hx => ⟨cellAsks ?_, cellAsks ?_⟩, fun hpd hx => ⟨cellAsks_nothing ?_, cellAsks_nothing ?_⟩, fun y hy => earliestPost_spec hy,
    fun r hany hmon => ⟨fun hretr hlate => sspStrobe_early hany hretr hlate, fun hretr harm hlate => ?_, fun hretr => sspStrobe_arms hretr⟩,
    fun hrun hdue => ⟨fun hleft => tagArmCycle_arms hrun hdue hleft, fun hleft => tagArmCycle_voids hrun hdue hleft⟩⟩
  · rw [sspRtrq_exec c hpd, sspRtrq_of_some hx]
  · rw [sspArmrq_exec c hpd, sspArmrq_of_some hx]
  · rw [sspRtrq_exec c hpd, sspRtrq, hx]
  · rw [sspArmrq_exec c hpd, sspArmrq, hx]
  · have hres := lateTold_result (s := s) r.tag r.cyc r.cell
    rwa [← sspStrobe_late hany hmon hretr harm hlate] at hres

end Sys2Proof.Machine

/-! A round of the wear accountant that starts while the update of a switch is still noted (R383, R384). -/

namespace Sys2Proof.Machine

set_option Elab.async false

/-- The command runs on the state, and what it answers meets the test. -/
def runMeets (c : Instr) (s : State) (p : State → Bool) : Bool :=
  match exec c s with
  | .next t => p t
  | _ => false

theorem Runs.meets {c : Instr} {s : State} {P : State → Prop} {p : State → Bool} (h : Runs c s P) (hp : runMeets c s p = true) :
    ∃ t, P t ∧ p t = true := by
  obtain ⟨t, ht, hP⟩ := h
  refine ⟨t, hP, ?_⟩
  rwa [runMeets, ht] at hp

/-- An ACTIVE running block with the wear accountant enabled for one switch, whose configuration word 0 does not track it; no round
is in progress, but the update of a switch that waits for an input point is noted. -/
def notedUpdateState : State :=
  let s := { State.reset with running := true, wac := { State.reset.wac with round := none, rounded := 0, upd := some (2 <<< 25, 0, 0) } }
  let s := wf (wf s (pctlPd 46) pctlPdSTATE 2) (pctlPd 28) pctlPdSTATE 2
  let s := wf (wb s wacSts wacStsACTIVE true) mlkRole mlkRoleROLE 5
  wf (wb s wacCtrl wacCtrlEN true) wacCtrl wacCtrlNSW 1

theorem notedUpdateState_untracked :
    ∀ i < wacNsw notedUpdateState, bitOf (wacCfg notedUpdateState i 0) 47 = false := by decide

/-- The round stays at switch 0, which waits for the noted update's input point. -/
theorem notedUpdateState_round : runMeets .wacRound notedUpdateState (fun t => t.wac.round == some (0, 0)) = true := by decide

/-- Refutes O41: its round clause asks that no switch is tracked, but not that no update is noted. With one noted, a round that starts
waits for that update's input point and does not end. -/
theorem not_wearAccounting : ¬ Obligations.WearAccounting := by
  intro h
  obtain ⟨-, hrounds, -⟩ := h notedUpdateState ⟨1, 0⟩ 0 0 0 0 ⟨0, 0, 0, 0, 0, 0, 0⟩ ⟨0, 0, 0, none, false, 0⟩ []
  obtain ⟨hstart, -⟩ := hrounds (by decide) (by decide) (by decide) ⟨by decide, by decide⟩ notedUpdateState_untracked
  obtain ⟨t, ⟨hround, -⟩, hmet⟩ := (hstart (by decide)).meets notedUpdateState_round
  rw [hround] at hmet
  exact absurd hmet (by decide)

end Sys2Proof.Machine

/-! A visit of the scrubber whose position is past the end of its array (R274). -/

namespace Sys2Proof.Machine

set_option Elab.async false

/-- A running block with its scrubber enabled, whose position in array 79, core 7's instruction scratchpad, is past its end: it
names the first word of engine 0's local RAM, which is ON. -/
def strayScrubState : State :=
  let s := { State.reset with running := true, msys := { State.reset.msys with pos := [(79, 0x48000)] } }
  wf (wb s memCtrl memCtrlSCRUBEN true) (pctlPd 18) pctlPdSTATE 2

theorem strayScrubState_next : scrubNext strayScrubState 79 = 0x200000 := by decide

/-- A local RAM's words have no tags, so no tag upset strikes and none is counted. -/
theorem strayScrubState_uncounted :
    runMeets (.scrub 79 .tag false) strayScrubState (fun t => !rb t memSts memStsECCCE) = true := by decide

/-- Refutes O38: the visit clauses do not ask that the scrubber's position lies in its array. Where array 79's names a word of a local
RAM, an upset of its tag copies strikes nothing, and ECCCE is not set. -/
theorem not_scrubbingAndFrames : ¬ Obligations.ScrubbingAndFrames := by
  rintro ⟨hscrub, -⟩
  obtain ⟨-, hvisit, -⟩ := hscrub strayScrubState 79 0 .none ⟨1, 0⟩ 0 0
  obtain ⟨-, -, -, htag, -⟩ := hvisit (by decide) (by decide) (by decide) (by decide) (by decide) (by decide) (by decide)
  obtain ⟨t, ⟨-, -, hce, -⟩, hmet⟩ := (htag (by decide)).meets strayScrubState_uncounted
  rw [hce] at hmet
  exact absurd hmet (by decide)

end Sys2Proof.Machine

/-! An admission whose list of waiting commits names one commit twice (R342). -/

namespace Sys2Proof.Machine

set_option Elab.async false

/-- A request of the PNE for an empty record. -/
def stalledRec : RecReq := ⟨1, 0, 1, []⟩

/-- An ACTIVE running block with the journal OPEN, and a request that waits for budget; the list of what waits names it twice. -/
def doubleWaitState : State :=
  let s := { State.reset with
    running := true
    sig := { State.reset.sig with recs := [stalledRec] }
    jne := { State.reset.jne with bucket := 1, bAt := 1, oldB := 10, waits := [(1, 0), (1, 0)] } }
  let s := wf (wf s (pctlPd 44) pctlPdSTATE 2) mlkRole mlkRoleROLE 5
  wf (wf s jneSts jneStsSTATE 3) jneU jneUU 6

theorem doubleWaitState_refusal : refusal doubleWaitState stalledRec = none := by decide

theorem doubleWaitState_stalls : stallReason doubleWaitState false [5] = some 1 := by decide

theorem doubleWaitState_waits :
    runMeets .jneAdmit doubleWaitState (fun t => t.jne.waits == [(1, 0), (1, 0)]) = true := by decide

/-- Refutes O42: a commit that begins to wait need not be the list's only entry. Where the list named it twice, it still does. -/
theorem not_journalCommits : ¬ Obligations.JournalCommits := by
  intro h
  obtain ⟨hadmit, -⟩ := h doubleWaitState ⟨1, 0⟩ 0 0 0 0 stalledRec
    ⟨0, 0, none, 0, 0, [], [], 0, false, none, 0, 0, 0, false, false, false, false⟩ [] 0 0
  obtain ⟨-, hstall, -⟩ := hadmit (by decide) (by decide) (by decide) (by decide) (by decide) rfl rfl rfl
  obtain ⟨t, ⟨-, -, -, hjne, -⟩, hmet⟩ :=
    (hstall doubleWaitState_refusal (by decide) doubleWaitState_stalls (by decide)).meets doubleWaitState_waits
  rw [hjne] at hmet
  exact absurd hmet (by decide)

end Sys2Proof.Machine

/-! A commutation word whose pair number names no pair of the block (R24, R35). -/

namespace Sys2Proof.Machine

set_option Elab.async false

/-- A DIRECT word for pair 32 · 0x90169 + 24: the word of safe bits at that index is the register DBG_TRPTR. -/
def strayWord : EdgeWord := ⟨.direct, 32 * 0x90169 + 24, 1, 0, 0, 20, 0⟩

/-- The word at the head of a lane's queue; it releases no pair. -/
def strayEntry : QEntry := ⟨strayWord, .slot 0, 0, false⟩

/-- A driving block that traces what leaves on lane 0 with its trace queue full, and the word ready to leave there. -/
def strayWordState : State :=
  let s := { State.reset with running := true, port := 10 }
  let s := { s with
    pctl := { s.pctl with porst := false, seq := 0 }
    cvp := { s.cvp with gnt := true, queues := [(0, [strayEntry])] }
    sig := { s.sig with traces := List.replicate 16 ⟨4, 0xFF, 0, 0⟩ } }
  let s := wf (wb (wf s (pctlPd 52) pctlPdSTATE 2) cvpDrive cvpDriveREQ true) cvpLaneen cvpLaneenEGEN 0xFFFF
  let s := wf (wb (wf s (pctlPd 55) pctlPdSTATE 2) dbgTrctl dbgTrctlRUN true) dbgTrctl dbgTrctlCLS 1
  wf s dbgTrctl dbgTrctlLANEMASK 1

/-- The entry that the full trace queue loses is counted in the bit that stands for the pair's safe output. -/
theorem strayWordState_leaves :
    runMeets (.edgeWordLeave 0) strayWordState (fun t => rnSafe t strayWord.pair) = true := by decide

/-- Refutes O24: nothing limits the pair number of a queued word. One beyond the block's 256 pairs has its safe bit in another register,
here the count of lost trace entries, which changes as the word leaves although the word releases nothing. -/
theorem not_samplesAndWords : ¬ Obligations.SamplesAndWords := by
  intro h
  obtain ⟨hdirect, -⟩ := (h.2 strayWordState 0 strayEntry [] (by decide) (by decide)).1 (.inr (by decide))
  obtain ⟨t, ⟨-, -, -, hsafe, -⟩, hmet⟩ :=
    (hdirect rfl (by decide) (by decide) (by decide)).meets strayWordState_leaves
  exact absurd (hsafe.symm.trans hmet) (by decide)

end Sys2Proof.Machine

/-! The shared operations of a power domain: its state register, its run, its memories and its unit (R473 to R478). -/

namespace Sys2Proof.Machine

set_option Elab.async false

/-! Registers of a domain. -/

theorem SameBut.memRd_eq {l : List Part} {s t : State} (h : SameBut l s t) (hl : .mem ∉ l) (j : Nat) : memRd t j = memRd s j := by
  have hm : t.mem = s.mem := h .mem hl
  rw [memRd, memRd, hm]

theorem rb_wf_apart (s : State) (a : Nat) (f g : Fld) (v : Nat) (hf : f.fits = true) (hg : g.fits = true) (h : f.hi < g.lo ∨ g.hi < f.lo) :
    rb (wf s a f v) a g = rb s a g := by
  simp [rb, rf_wf_apart _ _ _ _ _ hf hg h]

theorem pctlSts_ne_pctlPd {d : Nat} (hd : d < 56) : pctlSts ≠ pctlPd d := by simp only [pctlSts, pctlPd]; omega

theorem pctlPd_notMem_sts {d : Nat} (hd : d < 56) : pctlPd d ∉ [pctlSts] := by
  simpa using (pctlSts_ne_pctlPd hd).symm

theorem pctlPd_inj {d e : Nat} (h : d ≠ e) : pctlPd d ≠ pctlPd e := by simp only [pctlPd]; omega

theorem pctl_sameBut (s : State) (p : Pctl) : SameBut [.pctl] s { s with pctl := p } := by
  intro p hp; cases p <;> simp [Part.same] at hp ⊢

theorem msys_sameBut (s : State) (m : MemSys) : SameBut [.msys] s { s with msys := m } := by
  intro p hp; cases p <;> simp [Part.same] at hp ⊢

theorem setPdRun_sameBut (s : State) (d : Nat) (r : PdRun) : SameBut [.pctl] s (setPdRun s d r) := pctl_sameBut s _

theorem regsBut_setPdRun (s : State) (d : Nat) (r : PdRun) : RegsBut [] s (setPdRun s d r) := fun _ _ => rfl

theorem pdState_setPdRun (s : State) (d e : Nat) (r : PdRun) : pdState (setPdRun s d r) e = pdState s e := rfl

theorem rb_setPdRun (s : State) (d : Nat) (r : PdRun) (a : Nat) (f : Fld) : rb (setPdRun s d r) a f = rb s a f := rfl

theorem rf_setPdRun (s : State) (d : Nat) (r : PdRun) (a : Nat) (f : Fld) : rf (setPdRun s d r) a f = rf s a f := rfl

/-- The state with other host ports. -/
def withPorts (s : State) (p : Ports) : State := { s with ports := p }

theorem withPorts_sameBut (s : State) (p : Ports) : SameBut [.ports] s (withPorts s p) := by
  intro p hp; cases p <;> simp [Part.same, withPorts] at hp ⊢

theorem regsBut_withPorts (s : State) (p : Ports) : RegsBut [] s (withPorts s p) := fun _ _ => rfl

theorem rb_respond (s : State) (c : Nat) (w : Word) (a : Nat) (f : Fld) : rb (respond s c w) a f = rb s a f := rfl

theorem memRd_respond (s : State) (c : Nat) (w : Word) (j : Nat) : memRd (respond s c w) j = memRd s j := rfl

theorem memRd_withPorts (s : State) (p : Ports) (j : Nat) : memRd (withPorts s p) j = memRd s j := rfl

theorem pdState_respond (s : State) (c : Nat) (w : Word) (d : Nat) : pdState (respond s c w) d = pdState s d := rfl

theorem pdRun_respond (s : State) (c : Nat) (w : Word) (d : Nat) : pdRun (respond s c w) d = pdRun s d := rfl

theorem pdRun_setPdRun_same (s : State) (d : Nat) (r : PdRun) : pdRun (setPdRun s d r) d = r := tget_tset_same ..

/-- STATE holds a state number. -/
theorem pdState_wf (s : State) (d : Nat) {v : Nat} (hv : v < 8) : pdState (wf s (pctlPd d) pctlPdSTATE v) d = v :=
  (rf_wf_same _ _ _ _ rfl).trans (Nat.mod_eq_of_lt hv)

/-- What another field of a domain's register and the status register leave in STATE. -/
theorem pdState_wf_apart (s : State) (d : Nat) {f : Fld} (v : Nat) (hf : f.fits = true) (h : f.hi < 45) :
    pdState (wf s (pctlPd d) f v) d = pdState s d := rf_wf_apart _ _ _ _ _ hf rfl (.inl h)

theorem pdState_wb_apart (s : State) (d : Nat) {f : Fld} (b : Bool) (hf : f.fits = true) (h : f.hi < 45) :
    pdState (wb s (pctlPd d) f b) d = pdState s d := pdState_wf_apart s d _ hf h

theorem pdState_wb_sts (s : State) {d : Nat} (hd : d < 56) (f : Fld) (b : Bool) : pdState (wb s pctlSts f b) d = pdState s d :=
  (regsBut_wb s pctlSts f b).rf_eq (pctlPd_notMem_sts hd) _

/-! The end of an operation (R476). -/

/-- The operation of domain d has ended as it should, in state x. -/
def PdEnded (d x : Nat) (t : State) : Prop :=
  pdState t d = x ∧ pdRun t d = PdRun.idle ∧ rb t (pctlPd d) pctlPdBUSY = false ∧ rf t (pctlPd d) pctlPdLAST = 0 ∧ rb t pctlSts pctlStsPDDONE = true

theorem pdEnded_respond {d x : Nat} {s : State} (h : PdEnded d x s) (c : Nat) (w : Word) : PdEnded d x (respond s c w) := h

theorem pdComplete_eq {s : State} {d : Nat} (h0 : (pdRun s d).op ≠ 0) (h8 : (pdRun s d).op < 8) :
    pdComplete s d = wb (wf (setPdRun (wb s (pctlPd d) pctlPdBUSY false) d PdRun.idle) (pctlPd d) pctlPdLAST 0) pctlSts pctlStsPDDONE true := by
  have : ((pdRun s d).op = 0 || 8 ≤ (pdRun s d).op) = false := by simp; omega
  simp only [pdComplete, this, Bool.false_eq_true, if_false]

theorem pdComplete_ended {s : State} {d : Nat} (hd : d < 56) (h0 : (pdRun s d).op ≠ 0) (h8 : (pdRun s d).op < 8) :
    PdEnded d (pdState s d) (pdComplete s d) := by
  rw [pdComplete_eq h0 h8]
  refine ⟨?_, pdRun_setPdRun_same _ _ _, ?_, ?_, rb_wb_same _ _ _ _ rfl⟩
  · rw [pdState_wb_sts _ hd, pdState_wf_apart _ _ _ rfl (by decide)]
    exact pdState_wb_apart s d false rfl (by decide)
  · rw [(regsBut_wb _ pctlSts pctlStsPDDONE true).rb_eq (pctlPd_notMem_sts hd)]
    exact (rb_wf_apart _ _ _ _ _ rfl rfl (by decide)).trans (rb_wb_same s _ _ _ rfl)
  · rw [(regsBut_wb _ pctlSts pctlStsPDDONE true).rf_eq (pctlPd_notMem_sts hd)]
    exact rf_wf_same _ _ _ _ rfl

theorem pdComplete_sameBut {s : State} {d : Nat} (h0 : (pdRun s d).op ≠ 0) (h8 : (pdRun s d).op < 8) :
    SameBut [.regs, .pctl] s (pdComplete s d) := by
  rw [pdComplete_eq h0 h8]
  exact (((wb_sameBut s _ _ _).mono (by decide)).and (setPdRun_sameBut _ _ _)).and (wf_sameBut _ _ _ _) |>.and (wb_sameBut _ _ _ _)

theorem regsBut_pdComplete {s : State} {d : Nat} (h0 : (pdRun s d).op ≠ 0) (h8 : (pdRun s d).op < 8) :
    RegsBut [pctlPd d, pctlSts] s (pdComplete s d) := by
  rw [pdComplete_eq h0 h8]
  have hrun (t : State) : RegsBut [] t (setPdRun t d PdRun.idle) := fun _ _ => rfl
  exact ((((regsBut_wb s _ _ _).mono (by simp)).and (hrun _)).and (regsBut_wf _ _ _ _)).and (regsBut_wb _ _ _ _)

theorem rb_ack_pdComplete {s : State} {d : Nat} (hd : d < 56) (h0 : (pdRun s d).op ≠ 0) (h8 : (pdRun s d).op < 8) :
    rb (pdComplete s d) (pctlPd d) pctlPdACK = rb s (pctlPd d) pctlPdACK := by
  rw [pdComplete_eq h0 h8, (regsBut_wb _ pctlSts pctlStsPDDONE true).rb_eq (pctlPd_notMem_sts hd)]
  exact (rb_wf_apart _ _ _ _ _ rfl rfl (by decide)).trans (rb_wb_apart s _ _ _ _ rfl rfl (by decide))

/-! Changes of state. -/

theorem setPdState_awake {s : State} {d v : Nat} (hon : pdOn s d = false) (h51 : ¬ (d = 51 ∧ v = 2)) (h52 : ¬ (d = 52 ∨ d = 47)) :
    setPdState s d v = wf s (pctlPd d) pctlPdSTATE v := by
  simp only [setPdState, hon, Bool.false_and, Bool.false_eq_true, if_false, ← Bool.decide_and, ← Bool.decide_or, decide_eq_true_eq, h51, h52]

/-- Neither the unit's loss nor its leaving ON changes anything beside a memory domain's contents. -/
theorem memDomain_cases {d : Nat} (h : memDomain d = true) : 8 ≤ d ∧ d < 16 ∨ 28 ≤ d ∧ d < 44 := by
  simpa [memDomain] using h

theorem leaveOn_mem {d : Nat} (h : memDomain d = true) (s : State) : leaveOn s d = s := by
  obtain ⟨h1, h2⟩ | ⟨h1, h2⟩ := memDomain_cases h <;> interval_cases d <;> rfl

theorem unitLost_mem {d : Nat} (h : memDomain d = true) (s : State) : unitLost s d = s := by
  obtain ⟨h1, h2⟩ | ⟨h1, h2⟩ := memDomain_cases h <;> interval_cases d <;> rfl

theorem drainBegin_mem {d : Nat} (h : memDomain d = true) (s : State) : drainBegin s d = s := by
  obtain ⟨h1, h2⟩ | ⟨h1, h2⟩ := memDomain_cases h <;> interval_cases d <;> rfl

theorem setPdState_mem {d : Nat} (h : memDomain d = true) (s : State) (v : Nat) : setPdState s d v = wf s (pctlPd d) pctlPdSTATE v := by
  have hd := memDomain_cases h
  have h51 : ¬ (d = 51 ∧ v = 2) := by omega
  have h52 : ¬ (d = 52 ∨ d = 47) := by omega
  simp only [setPdState, leaveOn_mem h, ite_self, ← Bool.decide_and, ← Bool.decide_or, decide_eq_true_eq, h51, h52, if_false]

/-! Contents of a memory domain (R276). -/

theorem tget_filter_range {α : Type} (e : α) (l : List (Nat × α)) (lo hi a : Nat) :
    tget e (l.filter (fun p => !(lo ≤ p.1 && p.1 < hi))) a = if lo ≤ a ∧ a < hi then e else tget e l a := by
  induction l with
  | nil => simp [tget]
  | cons p r ih =>
    obtain ⟨k, v⟩ := p
    by_cases hk : lo ≤ k ∧ k < hi
    · rw [List.filter_cons_of_neg (by simp [hk]), ih]
      by_cases ha : a = k
      · rw [if_pos (ha ▸ hk), if_pos (ha ▸ hk)]
      · rw [tget, if_neg ha]
    · rw [List.filter_cons_of_pos (by simp; omega), tget, tget, ih]
      by_cases ha : a = k
      · rw [if_pos ha, if_pos ha, if_neg (ha ▸ hk)]
      · rw [if_neg ha, if_neg ha]

theorem memRd_memClear (s : State) (lo hi a : Nat) : memRd (memClear s lo hi) a = if lo ≤ a ∧ a < hi then 0 else memRd s a :=
  tget_filter_range 0 s.mem lo hi a

/-- One array of a memory domain is lost. -/
def arrayClear (s : State) (r : Nat × Nat) : State :=
  { memClear s r.1 r.2 with msys := { s.msys with
      upsets := s.msys.upsets.filter (fun p => !((r.1 ≤ p.1 && p.1 < r.2) || (2 ^ 40 + r.1 / 2 ≤ p.1 && p.1 < 2 ^ 40 + r.2 / 2))),
      queue := s.msys.queue.filter (fun a => !(r.1 ≤ a && a < r.2)) } }

theorem arraysClear_eq (s : State) (d : Nat) : arraysClear s d = (pdArrays d).foldl arrayClear s := rfl

theorem arrayClear_sameBut (s : State) (r : Nat × Nat) : SameBut [.mem, .tags, .msys] s (arrayClear s r) := by
  intro p hp; cases p <;> simp [Part.same, arrayClear] at hp ⊢

theorem arraysClear_sameBut (s : State) (d : Nat) : SameBut [.mem, .tags, .msys] s (arraysClear s d) :=
  SameBut.foldl (pdArrays d) s arrayClear_sameBut

theorem memRd_foldl_arrayClear (l : List (Nat × Nat)) (s : State) (j : Nat) :
    memRd (l.foldl arrayClear s) j = if l.any (fun p => decide (p.1 ≤ j) && decide (j < p.2)) then 0 else memRd s j := by
  induction l generalizing s with
  | nil => rfl
  | cons r rs ih =>
    have hr : memRd (arrayClear s r) j = if r.1 ≤ j ∧ j < r.2 then 0 else memRd s j := memRd_memClear s r.1 r.2 j
    rw [List.foldl_cons, ih, hr, List.any_cons]
    by_cases h : r.1 ≤ j ∧ j < r.2 <;> by_cases g : rs.any (fun p => decide (p.1 ≤ j) && decide (j < p.2)) = true <;> simp [h, g]

/-- Every word of the domain's arrays reads 0, and every other word as before. -/
theorem memRd_arraysClear (s : State) (d j : Nat) :
    memRd (arraysClear s d) j = if (pdArrays d).any (fun p => decide (p.1 ≤ j) && decide (j < p.2)) then 0 else memRd s j :=
  memRd_foldl_arrayClear (pdArrays d) s j


theorem pdRun_congr {s t : State} (h : t.pctl = s.pctl) (d : Nat) : pdRun t d = pdRun s d := by rw [pdRun, pdRun, h]

theorem pdRun_withPorts (s : State) (p : Ports) (d : Nat) : pdRun (withPorts s p) d = pdRun s d := rfl

theorem pdState_congr {l : List Nat} {s t : State} (h : RegsBut l s t) {d : Nat} (hd : pctlPd d ∉ l) : pdState t d = pdState s d :=
  h.rf_eq hd _

theorem regsBut_of_sameBut {l : List Part} {s t : State} (h : SameBut l s t) (hr : .regs ∉ l) (hp : .par ∉ l) (hl : .lvl ∉ l) : RegsBut [] s t := by
  have h1 : t.regs = s.regs := (h .regs hr).1
  have h2 : t.par = s.par := h .par hp
  have h3 : t.lvl = s.lvl := h .lvl hl
  intro a _
  rw [rd, rd, h1, h2, h3]

/-! Powering down (R473, R478). -/

/-- No clearing of domain d is under way any more. -/
def clearingEnds (s : State) (d : Nat) : State :=
  { s with msys := { s.msys with clearing := s.msys.clearing.filter (fun p => p.1 != d) } }

theorem powerDown_mem {d : Nat} (h : memDomain d = true) (s : State) :
    powerDown s d = setPdRun (clearingEnds (arraysClear (wf s (pctlPd d) pctlPdSTATE 6) d) d) d { pdRun s d with ph := 5, fop := 0 } := by
  have hrun : pdRun (clearingEnds (arraysClear (wf s (pctlPd d) pctlPdSTATE 6) d) d) d = pdRun s d :=
    pdRun_congr (arraysClear_sameBut (wf s (pctlPd d) pctlPdSTATE 6) d .pctl (by decide)) d
  rw [← hrun]
  simp only [powerDown, setPdState_mem h, unitLost_mem h, h, if_true]
  rfl

/-- Every word of the domain's arrays reads 0, and every other word as before. -/
def PdCleared (d : Nat) (s t : State) : Prop :=
  ∀ j, memRd t j = if (pdArrays d).any (fun p => decide (p.1 ≤ j) && decide (j < p.2)) then 0 else memRd s j

theorem powerDown_mem_cleared {d : Nat} (h : memDomain d = true) (s : State) : PdCleared d s (powerDown s d) := by
  rw [powerDown_mem h]
  exact memRd_arraysClear (wf s (pctlPd d) pctlPdSTATE 6) d

theorem powerDown_mem_sameBut {d : Nat} (h : memDomain d = true) (s : State) :
    SameBut [.regs, .pctl, .mem, .tags, .msys] s (powerDown s d) := by
  rw [powerDown_mem h]
  exact ((((wf_sameBut s _ _ _).mono (by decide)).and (arraysClear_sameBut _ d)).and (msys_sameBut _ _)).and (setPdRun_sameBut _ _ _)

theorem regsBut_powerDown_mem {d : Nat} (h : memDomain d = true) (s : State) : RegsBut [pctlPd d] s (powerDown s d) := by
  rw [powerDown_mem h]
  have hclear := regsBut_of_sameBut (arraysClear_sameBut (wf s (pctlPd d) pctlPdSTATE 6) d) (by decide) (by decide) (by decide)
  have hrun (t : State) (r : PdRun) : RegsBut [] (arraysClear t d) (setPdRun (clearingEnds (arraysClear t d) d) d r) := fun _ _ => rfl
  exact ((regsBut_wf s _ _ _).and hclear).and (hrun _ _)

/-- A field of the domain's register beside STATE stays. -/
theorem rd_powerDown_mem {d : Nat} (h : memDomain d = true) (s : State) :
    rd (powerDown s d) (pctlPd d) = rd (wf s (pctlPd d) pctlPdSTATE 6) (pctlPd d) := by
  rw [powerDown_mem h]
  have hclear := regsBut_of_sameBut (arraysClear_sameBut (wf s (pctlPd d) pctlPdSTATE 6) d) (by decide) (by decide) (by decide)
  exact hclear (pctlPd d) (by simp)

theorem rb_powerDown_mem {d : Nat} (h : memDomain d = true) (s : State) {f : Fld} (hf : f.fits = true) (hlo : f.hi < 45) :
    rb (powerDown s d) (pctlPd d) f = rb s (pctlPd d) f := by
  have := rb_wf_apart s (pctlPd d) pctlPdSTATE f 6 rfl hf (.inr hlo)
  rw [← this, rb, rf, rd_powerDown_mem h]
  rfl

theorem pdState_powerDown_mem {d : Nat} (h : memDomain d = true) (s : State) : pdState (powerDown s d) d = 6 := by
  rw [pdState, rf, rd_powerDown_mem h]
  exact pdState_wf s d (by decide)

theorem pdRun_powerDown_mem {d : Nat} (h : memDomain d = true) (s : State) :
    pdRun (powerDown s d) d = { pdRun s d with ph := 5, fop := 0 } := by
  rw [powerDown_mem h]
  exact pdRun_setPdRun_same ..

/-! Forced outcomes (R282, R478). -/

/-- Without a transaction on its way, a forced outcome changes only the host ports, and tears nothing. -/
theorem forcedOutcome_quiet {s : State} {d : Nat} (hout : s.ports.out = []) (h26 : d ≠ 26) (h27 : d ≠ 27) (h54 : d ≠ 54) :
    ∃ p, forcedOutcome s d = withPorts s p ∧ p.torn = s.ports.torn := by
  have htorn : tornBursts s d = s := by simp [tornBursts, hout]
  unfold forcedOutcome
  split
  · contradiction
  · contradiction
  · contradiction
  · rw [htorn, hout]
    exact ⟨_, rfl, List.append_nil _⟩

theorem pdForce_quiet {s : State} {d : Nat} (hout : s.ports.out = []) (htorn : ∀ y ∈ s.ports.torn, y.2.1 ≠ d)
    (h26 : d ≠ 26) (h27 : d ≠ 27) (h54 : d ≠ 54) : ∃ p, pdForce s d = pdPerform (withPorts s p) d := by
  obtain ⟨p, hp, hpt⟩ := forcedOutcome_quiet hout h26 h27 h54
  refine ⟨p, ?_⟩
  have : ((withPorts s p).ports.torn.any (fun p => p.2.1 == d)) = false := by
    simpa [withPorts, hpt] using htorn
  simp only [pdForce, hp, this, Bool.false_eq_true, if_false]

/-! The WAKE reset of a memory domain (R474). -/

theorem pdReset_mem {d : Nat} (h : memDomain d = true) (s : State) :
    pdReset s d = { s with regs := s.regs.filter (fun p => !wakesWith d p.1) } := by
  have hd := memDomain_cases h
  have h51 : d ≠ 51 := by omega
  have h52 : d ≠ 52 := by omega
  have h18 : ¬ (18 ≤ d ∧ d ≤ 25) := by omega
  have h26 : ¬ (18 ≤ d ∧ d ≤ 26) := by omega
  simp only [pdReset, unitLost_mem h, wakeRegs, cvpHalf, h51, h52, if_false, List.foldl_nil, ← Bool.decide_and, decide_eq_true_eq, h18, h26]

theorem tget_filter_of_pos {α : Type} (e : α) (l : List (Nat × α)) (p : Nat → Bool) {a : Nat} (ha : p a = true) :
    tget e (l.filter (fun x => p x.1)) a = tget e l a := by
  induction l with
  | nil => rfl
  | cons x r ih =>
    obtain ⟨k, v⟩ := x
    by_cases hk : p k = true
    · rw [List.filter_cons_of_pos (p := fun x : Nat × α => p x.1) hk, tget, tget, ih]
    · have hak : a ≠ k := fun hc => hk (hc ▸ ha)
      rw [List.filter_cons_of_neg (p := fun x : Nat × α => p x.1) hk, ih, tget, if_neg hak]

/-- A register that does not reset with the domain keeps its value. -/
theorem rd_pdReset_mem {d : Nat} (h : memDomain d = true) (s : State) {a : Nat} (ha : wakesWith d a = false) : rd (pdReset s d) a = rd s a := by
  rw [pdReset_mem h]
  exact tget_filter_of_pos _ _ (fun a => !wakesWith d a) (by simp [ha])

theorem pdReset_mem_sameBut {d : Nat} (h : memDomain d = true) (s : State) : SameBut [.regs] s (pdReset s d) := by
  rw [pdReset_mem h]
  intro p hp; cases p <;> simp [Part.same] at hp ⊢

end Sys2Proof.Machine

/-! Requests for power domains, drains and their end (R351, R474 to R478). -/

namespace Sys2Proof.Machine

set_option Elab.async false

/-- The operations of a domain with their numbers (R474). -/
noncomputable def pdOps (q : Req) (d : Fin 56) : List (Instr × Nat) :=
  [(.pdOn q d, 1), (.pdRetain q d, 2), (.pdOff q d, 3), (.pdReset q d, 4), (.pdHold q d, 5), (.pdFreset q d, 6), (.pdFoff q d, 7)]

theorem pdOps_number {q : Req} {d : Fin 56} {p : Instr × Nat} (hp : p ∈ pdOps q d) : 0 < p.2 ∧ p.2 < 8 := by
  simp only [pdOps, List.mem_cons, List.not_mem_nil, or_false] at hp
  obtain rfl | rfl | rfl | rfl | rfl | rfl | rfl := hp <;> simp

theorem pdWrite_op {s : State} {q : Req} (hq : holdsType s q otPctl = true) (d : Nat) {v : Word}
    (hdto : pctlPdDTO.get v = 0) (hfault : pctlPdFAULT.get v = 0) :
    pdWrite s q d v = respond (pdRequest s d (pctlPdOP.get v)) 0 := by
  simp only [pdWrite, hdto, hfault, hq, if_true, if_neg (by decide : ¬ 0 = 1)]

theorem pdOps_exec {s : State} {q : Req} {d : Fin 56} (hq : holdsType s q otPctl = true) {p : Instr × Nat} (hp : p ∈ pdOps q d) :
    exec p.1 s = .next (respond (pdRequest s d.val p.2) 0) := by
  simp only [pdOps, List.mem_cons, List.not_mem_nil, or_false] at hp
  have hw (v : Word) (h : v = 1 ∨ v = 2 ∨ v = 3 ∨ v = 4 ∨ v = 5 ∨ v = 6 ∨ v = 7) :
      ok (pdWrite s q d.val v) = .next (respond (pdRequest s d.val v.toNat) 0) := by
    obtain rfl | rfl | rfl | rfl | rfl | rfl | rfl := h <;> exact congrArg ok (pdWrite_op hq d.val (by decide) (by decide))
  obtain rfl | rfl | rfl | rfl | rfl | rfl | rfl := hp
  · exact hw 1 (by simp)
  · exact hw 2 (by simp)
  · exact hw 3 (by simp)
  · exact hw 4 (by simp)
  · exact hw 5 (by simp)
  · exact hw 6 (by simp)
  · exact hw 7 (by simp)

/-- What a request for an idle domain outside resets comes to (R475, R476). -/
theorem pdRequest_idle {s : State} {d op : Nat} (hrun : pdRun s d = PdRun.idle) (hseq : s.pctl.seq = 0) (hop : 0 < op) :
    pdRequest s d op = if op = 2 ∧ memDomain d = false then pdRefuse s d 3
      else if opIdle op (pdState s d) then wb (wf s (pctlPd d) pctlPdLAST 0) pctlSts pctlStsPDDONE true
      else if depRefuses s d op then pdRefuse s d 1 else pdStart s d op := by
  have hph : (pdRun s d).ph = 0 := by rw [hrun]; rfl
  have hop' : op ≠ 0 := by omega
  simp [pdRequest, hseq, hph, hop']

theorem pdRefuse_sameBut (s : State) (d code : Nat) : SameBut [.regs] s (pdRefuse s d code) :=
  (wf_sameBut s _ _ _).and (wb_sameBut _ _ _ _)

theorem regsBut_pdRefuse (s : State) (d code : Nat) : RegsBut [pctlPd d, pctlSts] s (pdRefuse s d code) :=
  ((regsBut_wf s _ _ _).mono (by simp)).and (regsBut_wb _ _ _ _)

theorem rf_last_pdRefuse (s : State) {d code : Nat} (hd : d < 56) (hc : code < 4) : rf (pdRefuse s d code) (pctlPd d) pctlPdLAST = code := by
  rw [pdRefuse, (regsBut_wb _ pctlSts pctlStsPDREF true).rf_eq (pctlPd_notMem_sts hd), rf_wf_same _ _ _ _ rfl]
  exact Nat.mod_eq_of_lt hc

theorem pdState_pdRefuse (s : State) {d : Nat} (hd : d < 56) (code : Nat) : pdState (pdRefuse s d code) d = pdState s d := by
  rw [pdRefuse, pdState_wb_sts _ hd, pdState_wf_apart _ _ _ rfl (by decide)]

/-- The domain's operation as it starts: BUSY, no result yet. -/
def pdStarted (s : State) (d op : Nat) : State :=
  setPdRun (wb (wf s (pctlPd d) pctlPdLAST 0) (pctlPd d) pctlPdBUSY true) d { pdRun s d with op := op }

theorem pdState_pdStarted (s : State) (d op : Nat) : pdState (pdStarted s d op) d = pdState s d := by
  rw [pdStarted, pdState_setPdRun, pdState_wb_apart _ _ _ rfl (by decide), pdState_wf_apart s _ _ rfl (by decide)]

theorem pdRun_pdStarted (s : State) (d op : Nat) : pdRun (pdStarted s d op) d = { pdRun s d with op := op } := pdRun_setPdRun_same ..

theorem pdStarted_sameBut (s : State) (d op : Nat) : SameBut [.regs, .pctl] s (pdStarted s d op) :=
  (((wf_sameBut s _ _ _).mono (by decide)).and (wb_sameBut _ _ _ _)).and (setPdRun_sameBut _ _ _)

theorem regsBut_pdStarted (s : State) (d op : Nat) : RegsBut [pctlPd d] s (pdStarted s d op) :=
  ((regsBut_wf s _ _ _).and (regsBut_wb _ _ _ _)).and (regsBut_setPdRun _ _ _)

theorem rb_busy_pdStarted (s : State) (d op : Nat) : rb (pdStarted s d op) (pctlPd d) pctlPdBUSY = true := by
  rw [pdStarted, rb_setPdRun, rb_wb_same _ _ _ _ rfl]

theorem rf_last_pdStarted (s : State) (d op : Nat) : rf (pdStarted s d op) (pctlPd d) pctlPdLAST = 0 := by
  rw [pdStarted, rf_setPdRun, rf_wb, rf_wf_apart _ _ _ _ _ rfl rfl (by decide)]
  exact rf_wf_same s _ _ _ rfl

theorem pdStarted_eq (s : State) (d op : Nat) : pdStarted s d op =
    setPdRun (wb (wf s (pctlPd d) pctlPdLAST 0) (pctlPd d) pctlPdBUSY true) d { pdRun s d with op := op } := rfl

theorem pdStart_off {s : State} {d op : Nat} (hst : pdState s d = 0) :
    pdStart s d op = setPdRun (pdStarted s d op) d { pdRun s d with op := op, ph := 1 } := by
  have hrun := pdRun_pdStarted s d op
  have hst' := (pdState_pdStarted s d op).trans hst
  simp only [pdStart, ← pdStarted_eq, hst', hrun]

theorem pdStart_on {s : State} {d op : Nat} (hst : pdState s d = 2) (hop : op ≤ 5) :
    pdStart s d op = pdFence (pdStarted s d op) d := by
  have hst' := (pdState_pdStarted s d op).trans hst
  have hno : (op = 6 || op = 7) = false := by simp; omega
  simp only [pdStart, ← pdStarted_eq, hst', hno, Bool.false_eq_true, if_false]

theorem pdWaitsU_mem {d : Nat} (h : memDomain d = true) (s : State) : pdWaitsU s d = false := by
  have hd := memDomain_cases h
  have h44 : (d == 44) = false := by simp; omega
  have h54 : (d == 54) = false := by simp; omega
  simp [pdWaitsU, h44, h54]

theorem pdStart_forced {s : State} {d op : Nat} (hst : pdState s d = 2) (hmem : memDomain d = true) (hop : op = 6 ∨ op = 7) :
    pdStart s d op = pdForce (pdStarted s d op) d := by
  have hst' := (pdState_pdStarted s d op).trans hst
  have hyes : (op = 6 || op = 7) = true := by simpa using hop
  simp only [pdStart, ← pdStarted_eq, hst', hyes, if_true, pdWaitsU_mem hmem, Bool.false_eq_true, if_false]

theorem pdFence_mem {d : Nat} (h : memDomain d = true) (s : State) :
    pdFence s d = setPdRun (wf s (pctlPd d) pctlPdSTATE 3) d { pdRun s d with ph := 4, at_ := s.port } := by
  simp only [pdFence, setPdState_mem h, drainBegin_mem h]
  rfl

/-! What a request comes to. -/

section
variable {s : State} {q : Req} {d : Fin 56} {p : Instr × Nat}

theorem pdOp_refused (hrun : pdRun s d.val = PdRun.idle) (hseq : s.pctl.seq = 0) (hq : holdsType s q otPctl = true)
    (hp : p ∈ pdOps q d) (h2 : p.2 = 2) (hmem : memDomain d.val = false) :
    Runs p.1 s (fun t => t.resp = ⟨0, 0⟩ ∧ rf t (pctlPd d.val) pctlPdLAST = 3 ∧ rb t pctlSts pctlStsPDREF = true ∧
      RegsBut [pctlPd d.val, pctlSts] s t ∧ SameBut [.regs, .resp] s t) := by
  refine ⟨_, pdOps_exec hq hp, ?_⟩
  rw [pdRequest_idle hrun hseq (pdOps_number hp).1, if_pos ⟨h2, hmem⟩]
  refine ⟨rfl, ?_⟩
  rw [rf_respond, rb_respond]
  exact ⟨rf_last_pdRefuse s d.isLt (by decide), rb_wb_same _ _ _ _ rfl, (regsBut_pdRefuse s _ _).and (regsBut_respond _ _ _),
    ((pdRefuse_sameBut s _ _).mono (by decide)).and (respond_sameBut _ _ _)⟩

theorem pdOp_exec (hrun : pdRun s d.val = PdRun.idle) (hseq : s.pctl.seq = 0) (hq : holdsType s q otPctl = true)
    (hp : p ∈ pdOps q d) (hmem : p.2 ≠ 2 ∨ memDomain d.val = true) :
    exec p.1 s = .next (respond (if opIdle p.2 (pdState s d.val) then wb (wf s (pctlPd d.val) pctlPdLAST 0) pctlSts pctlStsPDDONE true
      else if depRefuses s d.val p.2 then pdRefuse s d.val 1 else pdStart s d.val p.2) 0) := by
  have hneg : ¬ (p.2 = 2 ∧ memDomain d.val = false) := fun ⟨h2, hf⟩ => by simp [h2, hf] at hmem
  rw [pdOps_exec hq hp, pdRequest_idle hrun hseq (pdOps_number hp).1, if_neg hneg]

theorem pdOp_nothing (hex : exec p.1 s = .next (respond (wb (wf s (pctlPd d.val) pctlPdLAST 0) pctlSts pctlStsPDDONE true) 0)) :
    Runs p.1 s (fun t => t.resp = ⟨0, 0⟩ ∧ rf t (pctlPd d.val) pctlPdLAST = 0 ∧ rb t pctlSts pctlStsPDDONE = true ∧
      pdState t d.val = pdState s d.val ∧ RegsBut [pctlPd d.val, pctlSts] s t ∧ SameBut [.regs, .resp] s t) := by
  refine ⟨_, hex, rfl, ?_⟩
  rw [rf_respond, rb_respond, pdState_respond]
  refine ⟨?_, rb_wb_same _ _ _ _ rfl, ?_, ?_, ?_⟩
  · rw [(regsBut_wb _ pctlSts pctlStsPDDONE true).rf_eq (pctlPd_notMem_sts d.isLt)]
    exact rf_wf_same _ _ _ _ rfl
  · exact (pdState_wb_sts _ d.isLt _ _).trans (pdState_wf_apart s _ _ rfl (by decide))
  · exact (((regsBut_wf s _ _ _).mono (by simp)).and (regsBut_wb _ _ _ _)).and (regsBut_respond _ _ _)
  · exact (((wf_sameBut s _ _ _).mono (by decide)).and (wb_sameBut _ _ _ _)).and (respond_sameBut _ _ _)

theorem pdOp_dependent (hex : exec p.1 s = .next (respond (pdRefuse s d.val 1) 0)) :
    Runs p.1 s (fun t => t.resp = ⟨0, 0⟩ ∧ rf t (pctlPd d.val) pctlPdLAST = 1 ∧ rb t pctlSts pctlStsPDREF = true ∧
      pdState t d.val = pdState s d.val ∧ RegsBut [pctlPd d.val, pctlSts] s t ∧ SameBut [.regs, .resp] s t) := by
  refine ⟨_, hex, rfl, ?_⟩
  rw [rf_respond, rb_respond, pdState_respond]
  exact ⟨rf_last_pdRefuse s d.isLt (by decide), rb_wb_same _ _ _ _ rfl, pdState_pdRefuse s d.isLt _,
    (regsBut_pdRefuse s _ _).and (regsBut_respond _ _ _), ((pdRefuse_sameBut s _ _).mono (by decide)).and (respond_sameBut _ _ _)⟩

theorem pdOp_off (hex : exec p.1 s = .next (respond (pdStart s d.val p.2) 0)) (hrun : pdRun s d.val = PdRun.idle) (hst : pdState s d.val = 0) :
    Runs p.1 s (fun t => t.resp = ⟨0, 0⟩ ∧ pdState t d.val = 0 ∧ pdRun t d.val = ⟨p.2, 1, 0, 0⟩ ∧ rb t (pctlPd d.val) pctlPdBUSY = true ∧
      rf t (pctlPd d.val) pctlPdLAST = 0 ∧ RegsBut [pctlPd d.val] s t ∧ SameBut [.regs, .pctl, .resp] s t) := by
  refine ⟨_, hex, rfl, ?_⟩
  rw [pdStart_off hst, rf_respond, rb_respond, pdState_respond, pdRun_respond, rb_setPdRun, rf_setPdRun, pdState_setPdRun]
  refine ⟨(pdState_pdStarted s _ _).trans hst, ?_, rb_busy_pdStarted s _ _, rf_last_pdStarted s _ _,
    ((regsBut_pdStarted s _ _).and (regsBut_setPdRun _ _ _)).and (regsBut_respond _ _ _),
    (((pdStarted_sameBut s _ _).mono (by decide)).and (setPdRun_sameBut _ _ _)).and (respond_sameBut _ _ _)⟩
  rw [hrun]
  exact pdRun_setPdRun_same ..

theorem pdOp_drains (hex : exec p.1 s = .next (respond (pdStart s d.val p.2) 0)) (hrun : pdRun s d.val = PdRun.idle) (hst : pdState s d.val = 2)
    (hmem : memDomain d.val = true) (hop : p.2 ≤ 5) :
    Runs p.1 s (fun t => t.resp = ⟨0, 0⟩ ∧ pdState t d.val = 3 ∧ pdRun t d.val = ⟨p.2, 4, s.port, 0⟩ ∧ rb t (pctlPd d.val) pctlPdBUSY = true ∧
      (∀ j, memRd t j = memRd s j) ∧ RegsBut [pctlPd d.val] s t ∧ SameBut [.regs, .pctl, .resp] s t) := by
  refine ⟨_, hex, rfl, ?_⟩
  have hport : (pdStarted s d.val p.2).port = s.port := pdStarted_sameBut s _ _ .port (by decide)
  rw [pdStart_on hst hop, pdFence_mem hmem, pdRun_pdStarted, hrun, hport]
  have hsame : SameBut [.regs, .pctl, .resp] s (respond (setPdRun (wf (pdStarted s d.val p.2) (pctlPd d.val) pctlPdSTATE 3) d.val ⟨p.2, 4, s.port, 0⟩) 0) :=
    ((((pdStarted_sameBut s _ _).mono (by decide)).and (wf_sameBut _ _ _ _)).and (setPdRun_sameBut _ _ _)).and (respond_sameBut _ _ _)
  refine ⟨?_, ?_, ?_, hsame.memRd_eq (by decide),
    (((regsBut_pdStarted s _ _).and (regsBut_wf _ _ _ _)).and (regsBut_setPdRun _ _ _)).and (regsBut_respond _ _ _), hsame⟩
  · exact pdState_wf (pdStarted s d.val p.2) _ (by decide)
  · exact pdRun_setPdRun_same ..
  · exact (rb_wf_apart (pdStarted s d.val p.2) _ _ _ _ rfl rfl (by decide)).trans (rb_busy_pdStarted s _ _)

end

/-- Domain d is reset as a wake from OFF does and is ON again (R474). -/
theorem pdPerform_reset {s : State} {d : Nat} (hd : d < 56) (hmem : memDomain d = true) (hop : (pdRun s d).op = 4 ∨ (pdRun s d).op = 6) :
    PdEnded d 2 (pdPerform s d) ∧ (∀ a, wakesWith d a = false → a ≠ pctlPd d → a ≠ pctlSts → rd (pdPerform s d) a = rd s a) ∧
      SameBut [.regs, .pctl] s (pdPerform s d) := by
  have heq : pdPerform s d = pdComplete (wf (pdReset (wf s (pctlPd d) pctlPdSTATE 4) d) (pctlPd d) pctlPdSTATE 2) d := by
    unfold pdPerform
    obtain h | h := hop <;> simp only [h, setPdState_mem hmem]
  have hreset := pdReset_mem_sameBut hmem (wf s (pctlPd d) pctlPdSTATE 4)
  have hrun : pdRun (wf (pdReset (wf s (pctlPd d) pctlPdSTATE 4) d) (pctlPd d) pctlPdSTATE 2) d = pdRun s d :=
    pdRun_congr (hreset .pctl (by decide)) d
  have h0 : (pdRun (wf (pdReset (wf s (pctlPd d) pctlPdSTATE 4) d) (pctlPd d) pctlPdSTATE 2) d).op ≠ 0 := by rw [hrun]; omega
  have h8 : (pdRun (wf (pdReset (wf s (pctlPd d) pctlPdSTATE 4) d) (pctlPd d) pctlPdSTATE 2) d).op < 8 := by rw [hrun]; omega
  rw [heq]
  refine ⟨?_, fun a hwake hpd hsts => ?_, ?_⟩
  · have hend := pdComplete_ended hd h0 h8
    rwa [pdState_wf _ _ (by decide)] at hend
  · rw [regsBut_pdComplete h0 h8 a (by simp [hpd, hsts]), rd_wf_other _ _ _ hpd, rd_pdReset_mem hmem _ hwake, rd_wf_other _ _ _ hpd]
  · exact ((((wf_sameBut s _ _ _).mono (by decide)).and hreset).and (wf_sameBut _ _ _ _)).and (pdComplete_sameBut h0 h8)

theorem pdPerform_off {s : State} {d : Nat} (hop : (pdRun s d).op = 3 ∨ (pdRun s d).op = 7) : pdPerform s d = powerDown s d := by
  unfold pdPerform
  obtain h | h := hop <;> simp only [h]

theorem pdPerform_retain {s : State} {d : Nat} (hd : d < 56) (hmem : memDomain d = true) (hop : (pdRun s d).op = 2) :
    PdEnded d 5 (pdPerform s d) ∧ RegsBut [pctlPd d, pctlSts] s (pdPerform s d) ∧ SameBut [.regs, .pctl] s (pdPerform s d) := by
  have heq : pdPerform s d = pdComplete (wf s (pctlPd d) pctlPdSTATE 5) d := by
    unfold pdPerform
    simp only [hop, setPdState_mem hmem]
  have h0 : (pdRun (wf s (pctlPd d) pctlPdSTATE 5) d).op ≠ 0 := by
    show (pdRun s d).op ≠ 0
    omega
  have h8 : (pdRun (wf s (pctlPd d) pctlPdSTATE 5) d).op < 8 := by
    show (pdRun s d).op < 8
    omega
  rw [heq]
  refine ⟨?_, ((regsBut_wf s _ _ _).mono (by simp)).and (regsBut_pdComplete h0 h8),
    ((wf_sameBut s _ _ _).mono (by decide)).and (pdComplete_sameBut h0 h8)⟩
  have hend := pdComplete_ended hd h0 h8
  rwa [pdState_wf _ _ (by decide)] at hend

theorem unitDrained_mem {s : State} {d : Nat} (hmem : memDomain d = true) (h : pdHmp s d = false) : unitDrained s d = true := by
  have hw := pdWaitsU_mem hmem s
  obtain ⟨h1, h2⟩ | ⟨h1, h2⟩ := memDomain_cases hmem <;> interval_cases d <;> simp [unitDrained, hw, h, coreOfPd]


/-! Forced requests and drains of memory domains. -/

section
variable {s : State} {q : Req} {d : Fin 56} {p : Instr × Nat}

theorem pdOp_forced (hex : exec p.1 s = .next (respond (pdStart s d.val p.2) 0)) (hst : pdState s d.val = 2) (hmem : memDomain d.val = true)
    (hop : p.2 = 6 ∨ p.2 = 7) (hout : s.ports.out = []) (htorn : ∀ y ∈ s.ports.torn, y.2.1 ≠ d.val) :
    ∃ x, exec p.1 s = .next (respond (pdPerform (withPorts (pdStarted s d.val p.2) x) d.val) 0) := by
  have hd := memDomain_cases hmem
  have hports : (pdStarted s d.val p.2).ports = s.ports := pdStarted_sameBut s _ _ .ports (by decide)
  obtain ⟨x, hx⟩ := pdForce_quiet (s := pdStarted s d.val p.2) (d := d.val) (by rw [hports, hout]) (by rwa [hports])
    (by omega) (by omega) (by omega)
  exact ⟨x, by rw [hex, pdStart_forced hst hmem hop, hx]⟩

theorem pdOp_resets (hex : exec p.1 s = .next (respond (pdStart s d.val p.2) 0)) (hst : pdState s d.val = 2) (hmem : memDomain d.val = true)
    (hout : s.ports.out = []) (htorn : ∀ y ∈ s.ports.torn, y.2.1 ≠ d.val) (hop : p.2 = 6) :
    Runs p.1 s (fun t => PdEnded d.val 2 t ∧ (∀ j, memRd t j = memRd s j) ∧
      (∀ a, wakesWith d.val a = false → a ≠ pctlPd d.val → a ≠ pctlSts → rd t a = rd s a) ∧ SameBut [.regs, .pctl, .ports, .resp] s t) := by
  obtain ⟨x, hx⟩ := pdOp_forced hex hst hmem (.inl hop) hout htorn
  obtain ⟨hend, hregs, hsame⟩ := pdPerform_reset (s := (withPorts (pdStarted s d.val p.2) x)) d.isLt hmem (.inr (by
    rw [pdRun_withPorts, pdRun_pdStarted]
    exact hop))
  have hall : SameBut [.regs, .pctl, .ports, .resp] s (respond (pdPerform (withPorts (pdStarted s d.val p.2) x) d.val) 0) :=
    ((((pdStarted_sameBut s _ _).mono (by decide)).and (withPorts_sameBut _ x)).and hsame).and (respond_sameBut _ _ _)
  refine ⟨_, hx, pdEnded_respond hend _ _, hall.memRd_eq (by decide), fun a hwake hpd hsts => ?_, hall⟩
  rw [rd_respond, hregs a hwake hpd hsts, regsBut_withPorts _ _ a (by simp), regsBut_pdStarted s d.val p.2 a (by simpa using hpd)]

theorem pdOp_forcedOff (hex : exec p.1 s = .next (respond (pdStart s d.val p.2) 0)) (hrun : pdRun s d.val = PdRun.idle) (hst : pdState s d.val = 2)
    (hmem : memDomain d.val = true) (hout : s.ports.out = []) (htorn : ∀ y ∈ s.ports.torn, y.2.1 ≠ d.val) (hop : p.2 = 7) :
    Runs p.1 s (fun t => pdState t d.val = 6 ∧ pdRun t d.val = ⟨7, 5, 0, 0⟩ ∧ PdCleared d.val s t ∧ RegsBut [pctlPd d.val, pctlSts] s t ∧
      SameBut [.regs, .pctl, .ports, .mem, .tags, .msys, .resp] s t) := by
  obtain ⟨x, hx⟩ := pdOp_forced hex hst hmem (.inr hop) hout htorn
  have hstart : pdRun (withPorts (pdStarted s d.val p.2) x) d.val = { PdRun.idle with op := 7 } := by
    rw [pdRun_withPorts, pdRun_pdStarted, hrun, hop]
  rw [pdPerform_off (.inr (by rw [hstart]))] at hx
  have hrd : RegsBut [pctlPd d.val] s (withPorts (pdStarted s d.val p.2) x) :=
    (regsBut_pdStarted s _ _).and (regsBut_withPorts _ _)
  refine ⟨_, hx, ?_, ?_, ?_, ?_, ?_⟩
  · rw [pdState_respond, pdState_powerDown_mem hmem]
  · rw [pdRun_respond, pdRun_powerDown_mem hmem, hstart]
    rfl
  · intro j
    have hj : memRd (pdStarted s d.val p.2) j = memRd s j := (pdStarted_sameBut s _ _).memRd_eq (by decide) j
    rw [← hj, memRd_respond, powerDown_mem_cleared hmem (withPorts (pdStarted s d.val p.2) x) j, memRd_withPorts]
  · exact ((hrd.and (regsBut_powerDown_mem hmem _)).and (regsBut_respond _ _ _)).mono (by simp)
  · exact ((((pdStarted_sameBut s _ _).mono (by decide)).and (withPorts_sameBut _ x)).and (powerDown_mem_sameBut hmem _)).and (respond_sameBut _ _ _)

theorem drainComplete_exec (hph : (pdRun s d.val).ph = 4) (hmem : memDomain d.val = true) (hhmp : pdHmp s d.val = false) :
    exec (.drainComplete d) s = .next (pdPerform s d.val) := by
  show execDrainComplete d s = _
  rw [execDrainComplete, hph, unitDrained_mem hmem hhmp]
  rfl

end

/-- The reset of an engine's unit beside its registers: its slots are gone (R43). -/
theorem aeReset_slots (s : State) (e : Nat) : ∀ p ∈ (aeReset s e).ae.slots, p.1 / 16 ≠ e := by
  intro p hp
  simpa using (List.mem_filter.1 hp).2

theorem aeReset_sameBut (s : State) (e : Nat) : SameBut [.mem, .tags, .msys, .ae] s (aeReset s e) := by
  have hae (t : State) (a : Ae) : SameBut [.ae] t { t with ae := a } := by
    intro p hp; cases p <;> simp [Part.same] at hp ⊢
  exact ((arraysClear_sameBut s _).mono (by decide)).and (hae _ _)

theorem unitLost_engine {d : Nat} (h1 : 18 ≤ d) (h2 : d < 26) (s : State) : unitLost s d = aeReset s (d - 18) := by
  interval_cases d <;> rfl

theorem powerDown_engine {s : State} {d : Nat} (h1 : 18 ≤ d) (h2 : d < 26) (hst : pdState s d = 3) :
    powerDown s d = setPdRun (clearingEnds (aeReset (wf s (pctlPd d) pctlPdSTATE 6) (d - 18)) d) d { pdRun s d with ph := 5, fop := 0 } := by
  have hmem : memDomain d = false := by interval_cases d <;> rfl
  have hon : pdOn s d = false := by
    show (pdState s d == 2) = false
    rw [hst]
    rfl
  have hrun : pdRun (clearingEnds (aeReset (wf s (pctlPd d) pctlPdSTATE 6) (d - 18)) d) d = pdRun s d :=
    pdRun_congr (aeReset_sameBut (wf s (pctlPd d) pctlPdSTATE 6) (d - 18) .pctl (by decide)) d
  rw [← hrun]
  simp only [powerDown, setPdState_awake hon (v := 6) (by omega) (by omega), unitLost_engine h1 h2, hmem, Bool.false_eq_true, if_false]
  rfl

theorem clearingEnds_sameBut (s : State) (d : Nat) : SameBut [.msys] s (clearingEnds s d) := msys_sameBut s _

/-- An engine's domain that is powered down: its slots are gone, and of the registers only STATE changes. -/
theorem powerDown_engine_result {s : State} {d : Nat} (h1 : 18 ≤ d) (h2 : d < 26) (hst : pdState s d = 3) :
    (∀ p ∈ (powerDown s d).ae.slots, p.1 / 16 ≠ d - 18) ∧ pdRun (powerDown s d) d = { pdRun s d with ph := 5, fop := 0 } ∧
      RegsBut [] (wf s (pctlPd d) pctlPdSTATE 6) (powerDown s d) ∧ SameBut [.regs, .pctl, .mem, .tags, .msys, .ae] s (powerDown s d) := by
  have hlost := aeReset_sameBut (wf s (pctlPd d) pctlPdSTATE 6) (d - 18)
  have hslots := aeReset_slots (wf s (pctlPd d) pctlPdSTATE 6) (d - 18)
  rw [powerDown_engine h1 h2 hst]
  generalize aeReset (wf s (pctlPd d) pctlPdSTATE 6) (d - 18) = x at hlost hslots ⊢
  have hclear := clearingEnds_sameBut x d
  refine ⟨hslots, pdRun_setPdRun_same .., ?_, ?_⟩
  · exact ((regsBut_of_sameBut hlost (by decide) (by decide) (by decide)).and
      (regsBut_of_sameBut hclear (by decide) (by decide) (by decide))).and (regsBut_setPdRun _ _ _)
  · exact ((((wf_sameBut s _ _ _).mono (by decide)).and hlost).and hclear).and (setPdRun_sameBut _ _ _)

/-- DTO and DRAINTO are set (R477). -/
def drainLate (s : State) (d : Nat) : State := wb (wb s (pctlPd d) pctlPdDTO true) pctlSts pctlStsDRAINTO true

theorem drainLate_sameBut (s : State) (d : Nat) : SameBut [.regs] s (drainLate s d) := (wb_sameBut s _ _ _).and (wb_sameBut _ _ _ _)

theorem regsBut_drainLate (s : State) (d : Nat) : RegsBut [pctlPd d, pctlSts] s (drainLate s d) :=
  ((regsBut_wb s _ _ _).mono (by simp)).and (regsBut_wb _ _ _ _)

theorem pdState_drainLate (s : State) {d : Nat} (hd : d < 56) : pdState (drainLate s d) d = pdState s d := by
  rw [drainLate, pdState_wb_sts _ hd, pdState_wb_apart s _ _ rfl (by decide)]

theorem rb_dto_drainLate (s : State) {d : Nat} (hd : d < 56) : rb (drainLate s d) (pctlPd d) pctlPdDTO = true := by
  rw [drainLate, (regsBut_wb _ pctlSts pctlStsDRAINTO true).rb_eq (pctlPd_notMem_sts hd), rb_wb_same _ _ _ _ rfl]

theorem pdRun_drainLate (s : State) (d : Nat) : pdRun (drainLate s d) d = pdRun s d :=
  pdRun_congr (drainLate_sameBut s d .pctl (by decide)) d

theorem drainTimeout_exec {s : State} {d : Fin 56} (hph : (pdRun s d.val).ph = 4) (h1 : 18 ≤ d.val) (h2 : d.val < 26)
    (hlate : (pdRun s d.val).at_ + 3000 ≤ s.port) (hbusy : unitDrained s d.val = false) :
    exec (.drainTimeout d) s = .next (pdForce (drainLate s d.val) d.val) := by
  have h44 : (d.val == 44) = false := by simp; omega
  have h54 : (d.val == 54) = false := by simp; omega
  show execDrainTimeout d s = _
  simp only [execDrainTimeout, hph, hbusy, decide_eq_true hlate, pdWaitsU, h44, h54]
  rfl

theorem drainTimeout_engine {s : State} {d : Fin 56} (hph : (pdRun s d.val).ph = 4) (hop : (pdRun s d.val).op = 3) (hst : pdState s d.val = 3)
    (h1 : 18 ≤ d.val) (h2 : d.val < 26) (hlate : (pdRun s d.val).at_ + 3000 ≤ s.port) (hbusy : unitDrained s d.val = false)
    (hout : s.ports.out = []) (htorn : ∀ y ∈ s.ports.torn, y.2.1 ≠ d.val) :
    Runs (.drainTimeout d) s (fun t => rb t (pctlPd d.val) pctlPdDTO = true ∧ rb t pctlSts pctlStsDRAINTO = true ∧ pdState t d.val = 6 ∧
      (pdRun t d.val).ph = 5 ∧ (∀ p ∈ t.ae.slots, p.1 / 16 ≠ d.val - 18) ∧ RegsBut [pctlPd d.val, pctlSts] s t ∧
      SameBut [.regs, .pctl, .ports, .mem, .tags, .msys, .ae] s t) := by
  have hex := drainTimeout_exec hph h1 h2 hlate hbusy
  have hports : (drainLate s d.val).ports = s.ports := drainLate_sameBut s _ .ports (by decide)
  obtain ⟨x, hx⟩ := pdForce_quiet (s := drainLate s d.val) (d := d.val) (by rw [hports, hout]) (by rwa [hports]) (by omega) (by omega) (by omega)
  have hstu : pdState (withPorts (drainLate s d.val) x) d.val = 3 := (pdState_drainLate s d.isLt).trans hst
  have hrun : pdRun (withPorts (drainLate s d.val) x) d.val = pdRun s d.val := pdRun_drainLate s d.val
  rw [hx, pdPerform_off (.inl (by rw [hrun, hop]))] at hex
  obtain ⟨hslots, hdown, hregs, hsame⟩ := powerDown_engine_result h1 h2 hstu
  have hlateRegs : RegsBut [pctlPd d.val, pctlSts] s (withPorts (drainLate s d.val) x) := (regsBut_drainLate s _).and (regsBut_withPorts _ _)
  have hlateSame : SameBut [.regs, .pctl, .ports, .mem, .tags, .msys, .ae] s (withPorts (drainLate s d.val) x) :=
    ((drainLate_sameBut s _).mono (by decide)).and (withPorts_sameBut _ _)
  refine ⟨_, hex, ?_, ?_, ?_, ?_, hslots, ?_, hlateSame.and hsame⟩
  · rw [hregs.rb_eq (by simp), rb_wf_apart _ _ _ _ _ rfl rfl (by decide), (regsBut_withPorts _ _).rb_eq (by simp), rb_dto_drainLate s d.isLt]
  · have hne := pctlSts_ne_pctlPd d.isLt
    rw [hregs.rb_eq (by simp), (regsBut_wf _ _ _ _).rb_eq (by simpa using hne), (regsBut_withPorts _ _).rb_eq (by simp), drainLate,
      rb_wb_same _ _ _ _ rfl]
  · rw [pdState_congr hregs (by simp), pdState_wf _ _ (by decide)]
  · rw [hdown]
  · exact (hlateRegs.and (regsBut_wf _ _ _ _)).and hregs

/-- Settles O52: a request is refused, has nothing to do or starts; drains of memory domains end in what they were for; an engine whose
drain takes too long is taken down. -/
theorem powerRequests : Obligations.PowerRequests := by
  intro s q d
  refine ⟨fun ⟨hrun, hseq, hq⟩ p hp => ⟨fun h2 hmem => pdOp_refused hrun hseq hq hp h2 hmem, fun hmay => ?_⟩, fun hph hst hmem hhmp => ?_,
    fun hph hop hst h1 h2 hlate hbusy hout htorn => drainTimeout_engine hph hop hst h1 h2 hlate hbusy hout htorn⟩
  · have hex := pdOp_exec hrun hseq hq hp hmay
    refine ⟨fun hidle => ?_, fun hidle hdep => ?_, fun hidle hdep => ?_⟩
    · rw [hidle, if_pos rfl] at hex
      exact pdOp_nothing hex
    · rw [hidle, hdep, if_neg (by decide), if_pos rfl] at hex
      exact pdOp_dependent hex
    · rw [hidle, hdep, if_neg (by decide), if_neg (by decide)] at hex
      exact ⟨fun hst => pdOp_off hex hrun hst, fun hst hmem hop => pdOp_drains hex hrun hst hmem hop, fun hst hmem hout htorn =>
        ⟨fun hop => pdOp_resets hex hst hmem hout htorn hop, fun hop => pdOp_forcedOff hex hrun hst hmem hout htorn hop⟩⟩
  · have hex := drainComplete_exec hph hmem hhmp
    refine ⟨fun hop => ⟨_, hex, pdPerform_retain d.isLt hmem hop⟩, fun hop => ?_, fun hop => ⟨_, hex, pdPerform_reset d.isLt hmem (.inl hop)⟩⟩
    rw [pdPerform_off (.inl hop)] at hex
    exact ⟨_, hex, pdState_powerDown_mem hmem s, pdRun_powerDown_mem hmem s, powerDown_mem_cleared hmem s,
      (regsBut_powerDown_mem hmem s).mono (by simp), powerDown_mem_sameBut hmem s⟩

end Sys2Proof.Machine

/-! The supply's acknowledgment, its edges that do not come, and its loss (R276, R473, R475). -/

namespace Sys2Proof.Machine

set_option Elab.async false

theorem notMem_pctlPd_sts {d : Nat} {a : Nat} (hpd : a ≠ pctlPd d) (hsts : a ≠ pctlSts) : a ∉ [pctlPd d, pctlSts] := by simp [hpd, hsts]

theorem regsAre_wb (s : State) (a : Nat) (f : Fld) (b : Bool) : RegsAre [withFld s a f (b2n b)] s (wb s a f b) :=
  regsAre_wf s a f (b2n b)

/-! The acknowledgment rises. -/

theorem pdackRise_idle {s : State} {d : Fin 56} (hack : rb s (pctlPd d.val) pctlPdACK = false)
    (h : rb s (pctlPd d.val) pctlPdREQ = false ∨ (pdRun s d.val).ph ≠ 2) :
    exec (.pdackRise d) s = .next (wb s (pctlPd d.val) pctlPdACK true) := by
  have hidle : (!rb s (pctlPd d.val) pctlPdREQ || decide ((pdRun s d.val).ph ≠ 2)) = true := by simpa using h
  show execPdackRise d s = _
  simp only [execPdackRise, hack, hidle]
  rfl

theorem pdackRise_powers {s : State} {d : Fin 56} (hack : rb s (pctlPd d.val) pctlPdACK = false)
    (hreq : rb s (pctlPd d.val) pctlPdREQ = true) (hph : (pdRun s d.val).ph = 2) (hfop : (pdRun s d.val).fop = 0) :
    exec (.pdackRise d) s = .next (pdClock (setPdRun (wb s (pctlPd d.val) pctlPdACK true) d.val (pdRun s d.val)) d.val) := by
  have hrun : ({ pdRun s d.val with op := if (pdRun s d.val).fop = 6 then 6 else (pdRun s d.val).op, fop := 0 } : PdRun) = pdRun s d.val := by
    rw [hfop, if_neg (by decide), ← hfop]
  have hwait : (!rb s (pctlPd d.val) pctlPdREQ || decide ((pdRun s d.val).ph ≠ 2)) = false := by simp [hreq, hph]
  have h7 : (pdRun s d.val).fop ≠ 7 := by omega
  show execPdackRise d s = _
  simp only [execPdackRise, hrun, hwait, h7, hack, if_false, Bool.false_eq_true]
  rfl

/-- The operation of a domain ends in state v. -/
theorem pdComplete_state {u : State} {d v : Nat} (hd : d < 56) (hv : v < 8) (h0 : (pdRun u d).op ≠ 0) (h8 : (pdRun u d).op < 8) :
    PdEnded d v (pdComplete (wf u (pctlPd d) pctlPdSTATE v) d) ∧
      rb (pdComplete (wf u (pctlPd d) pctlPdSTATE v) d) (pctlPd d) pctlPdACK = rb u (pctlPd d) pctlPdACK ∧
      RegsBut [pctlPd d, pctlSts] u (pdComplete (wf u (pctlPd d) pctlPdSTATE v) d) ∧
      SameBut [.regs, .pctl] u (pdComplete (wf u (pctlPd d) pctlPdSTATE v) d) := by
  have hrun : pdRun (wf u (pctlPd d) pctlPdSTATE v) d = pdRun u d := rfl
  rw [← hrun] at h0 h8
  have hend := pdComplete_ended hd h0 h8
  rw [pdState_wf _ _ hv] at hend
  refine ⟨hend, ?_, ((regsBut_wf u _ _ _).mono (by simp)).and (regsBut_pdComplete h0 h8),
    ((wf_sameBut u _ _ _).mono (by decide)).and (pdComplete_sameBut h0 h8)⟩
  rw [rb_ack_pdComplete hd h0 h8, rb_wf_apart _ _ _ _ _ rfl rfl (by decide)]

/-- The arrays of domain d start to be cleared (R276). -/
def clearingBegins (s : State) (d : Nat) : State :=
  { s with msys := { s.msys with clearing := (d, 2 * s.port + 16384) :: s.msys.clearing } }

theorem pdClock_mem {d : Nat} (h : memDomain d = true) (s : State) :
    pdClock s d = setPdRun (clearingBegins (arraysClear s d) d) d { pdRun s d with ph := 3 } := by
  have hsame := arraysClear_sameBut s d
  have hrun : pdRun (arraysClear s d) d = pdRun s d := pdRun_congr (hsame .pctl (by decide)) d
  have hport : (arraysClear s d).port = s.port := hsame .port (by decide)
  rw [← hrun]
  simp only [pdClock, h, if_true, clearingBegins, hport]
  rfl

theorem pdackRise_clears {s : State} {d : Fin 56} (hack : rb s (pctlPd d.val) pctlPdACK = false)
    (hreq : rb s (pctlPd d.val) pctlPdREQ = true) (hph : (pdRun s d.val).ph = 2) (hfop : (pdRun s d.val).fop = 0) (hmem : memDomain d.val = true) :
    Runs (.pdackRise d) s (fun t => rb t (pctlPd d.val) pctlPdACK = true ∧ pdRun t d.val = { pdRun s d.val with ph := 3 } ∧
      (d.val, 2 * s.port + 16384) ∈ t.msys.clearing ∧ RegsBut [pctlPd d.val] s t ∧ SameBut [.regs, .pctl, .mem, .tags, .msys] s t) := by
  have hex := pdackRise_powers hack hreq hph hfop
  rw [pdClock_mem hmem, pdRun_setPdRun_same] at hex
  have hu : SameBut [.regs, .pctl, .mem, .tags, .msys] s (setPdRun (wb s (pctlPd d.val) pctlPdACK true) d.val (pdRun s d.val)) :=
    ((wb_sameBut s _ _ _).mono (by decide)).and (setPdRun_sameBut _ _ _)
  have hur : RegsBut [pctlPd d.val] s (setPdRun (wb s (pctlPd d.val) pctlPdACK true) d.val (pdRun s d.val)) :=
    (regsBut_wb s _ _ _).and (regsBut_setPdRun _ _ _)
  have hua : rb (setPdRun (wb s (pctlPd d.val) pctlPdACK true) d.val (pdRun s d.val)) (pctlPd d.val) pctlPdACK = true :=
    (rb_setPdRun _ _ _ _ _).trans (rb_wb_same s _ _ _ rfl)
  generalize setPdRun (wb s (pctlPd d.val) pctlPdACK true) d.val (pdRun s d.val) = u at hex hu hur hua
  have hclear := arraysClear_sameBut u d.val
  have hport : (arraysClear u d.val).port = s.port := (hclear .port (by decide)).trans (hu .port (by decide))
  have hclearRegs := regsBut_of_sameBut hclear (by decide) (by decide) (by decide)
  generalize arraysClear u d.val = x at hex hclear hport hclearRegs
  have hbegin : SameBut [.msys] x (clearingBegins x d.val) := msys_sameBut x _
  have hregs := ((hclearRegs.and (regsBut_of_sameBut hbegin (by decide) (by decide) (by decide))).and (regsBut_setPdRun _ d.val { pdRun s d.val with ph := 3 }))
  refine ⟨_, hex, (hregs.rb_eq (by simp) _).trans hua, pdRun_setPdRun_same .., ?_, hur.and hregs, ((hu.and hclear).and hbegin).and (setPdRun_sameBut _ _ _)⟩
  rw [← hport]
  exact List.mem_cons_self

theorem pdackRise_wakes {s : State} {d : Fin 56} (hack : rb s (pctlPd d.val) pctlPdACK = false)
    (hreq : rb s (pctlPd d.val) pctlPdREQ = true) (hph : (pdRun s d.val).ph = 2) (hfop : (pdRun s d.val).fop = 0) (hmem : memDomain d.val = false)
    (h47 : d.val ≠ 47) (h51 : d.val ≠ 51) (h52 : d.val ≠ 52) (hop : (pdRun s d.val).op = 1) (hst : pdState s d.val = 1) :
    Runs (.pdackRise d) s (fun t => rb t (pctlPd d.val) pctlPdACK = true ∧ PdEnded d.val 2 t ∧ RegsBut [pctlPd d.val, pctlSts] s t ∧
      SameBut [.regs, .pctl] s t) := by
  have hex := pdackRise_powers hack hreq hph hfop
  have hu : SameBut [.regs, .pctl] s (setPdRun (wb s (pctlPd d.val) pctlPdACK true) d.val (pdRun s d.val)) :=
    ((wb_sameBut s _ _ _).mono (by decide)).and (setPdRun_sameBut _ _ _)
  have hur : RegsBut [pctlPd d.val, pctlSts] s (setPdRun (wb s (pctlPd d.val) pctlPdACK true) d.val (pdRun s d.val)) :=
    ((regsBut_wb s _ _ _).and (regsBut_setPdRun _ _ _)).mono (by simp)
  have hua : rb (setPdRun (wb s (pctlPd d.val) pctlPdACK true) d.val (pdRun s d.val)) (pctlPd d.val) pctlPdACK = true :=
    (rb_setPdRun _ _ _ _ _).trans (rb_wb_same s _ _ _ rfl)
  have hust : pdState (setPdRun (wb s (pctlPd d.val) pctlPdACK true) d.val (pdRun s d.val)) d.val = 1 :=
    (pdState_setPdRun _ _ _ _).trans ((pdState_wb_apart s _ _ rfl (by decide)).trans hst)
  have hurun : (pdRun (setPdRun (wb s (pctlPd d.val) pctlPdACK true) d.val (pdRun s d.val)) d.val).op = 1 := by rw [pdRun_setPdRun_same, hop]
  generalize setPdRun (wb s (pctlPd d.val) pctlPdACK true) d.val (pdRun s d.val) = u at hex hu hur hua hust hurun
  have hon : pdOn u d.val = false := by
    show (pdState u d.val == 2) = false
    rw [hust]
    rfl
  have heq : pdClock u d.val = pdComplete (wf u (pctlPd d.val) pctlPdSTATE 2) d.val := by
    rw [← setPdState_awake hon (by omega) (by omega)]
    simp only [pdClock, hmem, pdUp, hurun]
    rfl
  obtain ⟨hend, hacks, hregs, hsame⟩ := pdComplete_state (v := 2) d.isLt (by decide) (by omega) (by omega : (pdRun u d.val).op < 8)
  rw [heq] at hex
  exact ⟨_, hex, hacks.trans hua, hend, hur.and hregs, hu.and hsame⟩

/-! The acknowledgment falls. -/

theorem pdackFall_exec {s : State} {d : Fin 56} (hreq : rb s (pctlPd d.val) pctlPdREQ = false) (hack : rb s (pctlPd d.val) pctlPdACK = true) :
    exec (.pdackFall d) s = .next (if (pdRun s d.val).ph = 6 then pdGone (wb s (pctlPd d.val) pctlPdACK false) d.val
      else wb s (pctlPd d.val) pctlPdACK false) := by
  show execPdackFall d s = _
  rw [execPdackFall, hreq, hack]
  rfl

theorem pdackFall_off {s : State} {d : Fin 56} (hreq : rb s (pctlPd d.val) pctlPdREQ = false) (hack : rb s (pctlPd d.val) pctlPdACK = true)
    (hph : (pdRun s d.val).ph = 6) (hop : (pdRun s d.val).op = 3) (hst : pdState s d.val = 6) (h47 : d.val ≠ 47) (h52 : d.val ≠ 52) :
    Runs (.pdackFall d) s (fun t => rb t (pctlPd d.val) pctlPdACK = false ∧ PdEnded d.val 0 t ∧ RegsBut [pctlPd d.val, pctlSts] s t ∧
      SameBut [.regs, .pctl] s t) := by
  have hex := pdackFall_exec hreq hack
  rw [if_pos hph] at hex
  have hu : SameBut [.regs, .pctl] s (wb s (pctlPd d.val) pctlPdACK false) := (wb_sameBut s _ _ _).mono (by decide)
  have hur : RegsBut [pctlPd d.val, pctlSts] s (wb s (pctlPd d.val) pctlPdACK false) := (regsBut_wb s _ _ _).mono (by simp)
  have hua : rb (wb s (pctlPd d.val) pctlPdACK false) (pctlPd d.val) pctlPdACK = false := rb_wb_same s _ _ _ rfl
  have hust : pdState (wb s (pctlPd d.val) pctlPdACK false) d.val = 6 := (pdState_wb_apart s _ _ rfl (by decide)).trans hst
  have hurun : (pdRun (wb s (pctlPd d.val) pctlPdACK false) d.val).op = 3 := hop
  generalize wb s (pctlPd d.val) pctlPdACK false = u at hex hu hur hua hust hurun
  have hon : pdOn u d.val = false := by
    show (pdState u d.val == 2) = false
    rw [hust]
    rfl
  obtain ⟨hend, hacks, hregs, hsame⟩ := pdComplete_state (v := 0) d.isLt (by decide) (by omega) (by omega : (pdRun u d.val).op < 8)
  rw [pdGone, setPdState_awake hon (by omega) (by omega)] at hex
  exact ⟨_, hex, hacks.trans hua, hend, hur.and hregs, hu.and hsame⟩

/-! Faults. -/

/-- FAULT and PDFAULT are set. -/
def PdFaulted (d : Nat) (t : State) : Prop := rb t (pctlPd d) pctlPdFAULT = true ∧ rb t pctlSts pctlStsPDFAULT = true

theorem pdFaulted_setPdRun {d : Nat} {s : State} (h : PdFaulted d s) (e : Nat) (r : PdRun) : PdFaulted d (setPdRun s e r) := h

theorem pdFault_sameBut (s : State) (d : Nat) : SameBut [.regs] s (pdFault s d) := (wb_sameBut s _ _ _).and (wb_sameBut _ _ _ _)

theorem regsBut_pdFault (s : State) (d : Nat) : RegsBut [pctlPd d, pctlSts] s (pdFault s d) :=
  ((regsBut_wb s _ _ _).mono (by simp)).and (regsBut_wb _ _ _ _)

theorem pdFaulted_pdFault (s : State) {d : Nat} (hd : d < 56) : PdFaulted d (pdFault s d) :=
  ⟨((regsBut_wb _ pctlSts pctlStsPDFAULT true).rb_eq (pctlPd_notMem_sts hd) _).trans (rb_wb_same _ _ _ _ rfl), rb_wb_same _ _ _ _ rfl⟩

theorem pdState_pdFault (s : State) {d : Nat} (hd : d < 56) : pdState (pdFault s d) d = pdState s d := by
  rw [pdFault, pdState_wb_sts _ hd, pdState_wb_apart s _ _ rfl (by decide)]

theorem rb_ack_pdFault (s : State) {d : Nat} (hd : d < 56) : rb (pdFault s d) (pctlPd d) pctlPdACK = rb s (pctlPd d) pctlPdACK := by
  rw [pdFault, (regsBut_wb _ pctlSts pctlStsPDFAULT true).rb_eq (pctlPd_notMem_sts hd), rb_wb_apart _ _ _ _ _ rfl rfl (by decide)]

theorem pdRun_pdFault (s : State) (d : Nat) : pdRun (pdFault s d) d = pdRun s d := pdRun_congr (pdFault_sameBut s d .pctl (by decide)) d

/-- A fault stays with a memory domain that is powered down. -/
theorem pdFaulted_powerDown {d : Nat} (hd : d < 56) (hmem : memDomain d = true) {s : State} (h : PdFaulted d s) : PdFaulted d (powerDown s d) := by
  have hne : pctlSts ∉ [pctlPd d] := by simpa using pctlSts_ne_pctlPd hd
  exact ⟨(rb_powerDown_mem hmem s rfl (by decide)).trans h.1, ((regsBut_powerDown_mem hmem s).rb_eq hne _).trans h.2⟩

theorem opFails_eq {s : State} {d : Nat} (h : (pdRun s d).op ≠ 0) : opFails s d = setPdRun s d { pdRun s d with op := 9 } := by
  simp only [opFails, h, if_false]

theorem opFails_sameBut (s : State) (d : Nat) : SameBut [.pctl] s (opFails s d) := by
  by_cases h : (pdRun s d).op = 0
  · simp only [opFails, h, if_true]
    exact SameBut.refl _ _
  · rw [opFails_eq h]
    exact setPdRun_sameBut _ _ _

/-- An edge of the acknowledgment that has not come within PDTO (R473). -/
def ackLate (s : State) (d : Nat) : Prop := s.running = true ∧ (pdRun s d).at_ + 300 * max 1 (rf s pctlCtrl pctlCtrlPDTO) ≤ s.port

theorem pdackTimeout_exec {s : State} {d : Fin 56} (hlate : ackLate s d.val) :
    exec (.pdackTimeout d) s = .next (if (pdRun s d.val).ph = 2 then powerDown (opFails (pdFault s d.val) d.val) d.val
      else if (pdRun s d.val).ph = 6 ∧ (pdRun s d.val).fop = 0 then setPdRun (pdFault s d.val) d.val { pdRun s d.val with fop := 1 } else s) := by
  have hl : (!s.running || decide ((pdRun s d.val).at_ + 300 * max 1 (rf s pctlCtrl pctlCtrlPDTO) ≤ s.port)) = true := by
    simp [hlate.2]
  show execPdackTimeout d s = _
  simp only [execPdackTimeout, hl, Bool.and_true, Bool.and_eq_true, decide_eq_true_eq]
  split_ifs <;> rfl

theorem pdackTimeout_rise {s : State} {d : Fin 56} (hlate : ackLate s d.val) (hph : (pdRun s d.val).ph = 2) (hop : (pdRun s d.val).op ≠ 0)
    (hmem : memDomain d.val = true) :
    Runs (.pdackTimeout d) s (fun t => PdFaulted d.val t ∧ pdState t d.val = 6 ∧ pdRun t d.val = ⟨9, 5, (pdRun s d.val).at_, 0⟩ ∧
      RegsBut [pctlPd d.val, pctlSts] s t ∧ SameBut [.regs, .pctl, .mem, .tags, .msys] s t) := by
  have hex := pdackTimeout_exec hlate
  rw [if_pos hph] at hex
  have hrun := pdRun_pdFault s d.val
  have hfails : opFails (pdFault s d.val) d.val = setPdRun (pdFault s d.val) d.val { pdRun s d.val with op := 9 } := by
    rw [opFails_eq (by rwa [hrun]), hrun]
  have hfault : PdFaulted d.val (setPdRun (pdFault s d.val) d.val { pdRun s d.val with op := 9 }) :=
    pdFaulted_setPdRun (pdFaulted_pdFault s d.isLt) _ _
  rw [hfails] at hex
  refine ⟨_, hex, pdFaulted_powerDown d.isLt hmem hfault, pdState_powerDown_mem hmem _, ?_, ?_, ?_⟩
  · rw [pdRun_powerDown_mem hmem, pdRun_setPdRun_same]
  · exact ((regsBut_pdFault s _).and (regsBut_setPdRun _ _ _)).and (regsBut_powerDown_mem hmem _)
  · exact (((pdFault_sameBut s _).mono (by decide)).and (setPdRun_sameBut _ _ _)).and (powerDown_mem_sameBut hmem _)

theorem pdackTimeout_fall {s : State} {d : Fin 56} (hlate : ackLate s d.val) (hph : (pdRun s d.val).ph = 6) (hfop : (pdRun s d.val).fop = 0) :
    Runs (.pdackTimeout d) s (fun t => PdFaulted d.val t ∧ pdRun t d.val = { pdRun s d.val with fop := 1 } ∧ pdState t d.val = pdState s d.val ∧
      RegsBut [pctlPd d.val, pctlSts] s t ∧ SameBut [.regs, .pctl] s t) := by
  have hex := pdackTimeout_exec hlate
  rw [if_neg (by omega), if_pos ⟨hph, hfop⟩] at hex
  exact ⟨_, hex, pdFaulted_setPdRun (pdFaulted_pdFault s d.isLt) _ _, pdRun_setPdRun_same ..,
    (pdState_setPdRun _ _ _ _).trans (pdState_pdFault s d.isLt),
    (regsBut_pdFault s _).and (regsBut_setPdRun _ _ _), ((pdFault_sameBut s _).mono (by decide)).and (setPdRun_sameBut _ _ _)⟩

/-! The supply of a memory domain is lost. -/

theorem pdDependants_stripe {n : Nat} (h1 : 28 ≤ n) (h2 : n < 44) : pdDependants n = [] := by
  interval_cases n <;> decide

/-- The supply's acknowledgment is gone, and that is flagged. -/
def supplyLost (s : State) (d : Nat) : State := pdFault (wb s (pctlPd d) pctlPdACK false) d

theorem supplyFault_exec {s : State} {d : Fin 56} (hreq : rb s (pctlPd d.val) pctlPdREQ = true) (hack : rb s (pctlPd d.val) pctlPdACK = true)
    (h1 : 28 ≤ d.val) (h2 : d.val < 44) (hst : pdState s d.val = 2) :
    exec (.supplyFault d) s = .next (pdTake (supplyLost s d.val) d.val) := by
  have hst' : pdState (supplyLost s d.val) d.val = 2 := by
    rw [supplyLost, pdState_pdFault _ d.isLt, pdState_wb_apart s _ _ rfl (by decide), hst]
  have h44 : d.val ≠ 44 := by omega
  show execSupplyFault d s = _
  simp only [execSupplyFault, hreq, hack, pdDependants_stripe h1 h2, List.foldl_nil]
  show ok (pdForceOff (supplyLost s d.val) d.val) = _
  simp only [pdForceOff, hst', h44]
  rfl

theorem supplyFault_stripe {s : State} {d : Fin 56} (hreq : rb s (pctlPd d.val) pctlPdREQ = true) (hack : rb s (pctlPd d.val) pctlPdACK = true)
    (h1 : 28 ≤ d.val) (h2 : d.val < 44) (hst : pdState s d.val = 2) (hout : s.ports.out = []) :
    Runs (.supplyFault d) s (fun t => PdFaulted d.val t ∧ rb t (pctlPd d.val) pctlPdACK = false ∧ pdState t d.val = 6 ∧ (pdRun t d.val).ph = 5 ∧
      (∀ j, (d.val - 28) * 0x10000 ≤ j → j < (d.val - 27) * 0x10000 → memRd t j = 0) ∧ RegsBut [pctlPd d.val, pctlSts] s t ∧
      SameBut [.regs, .pctl, .ports, .mem, .tags, .msys] s t) := by
  have hmem : memDomain d.val = true := by simp [memDomain, h1, h2]
  have hex := supplyFault_exec hreq hack h1 h2 hst
  have hu : SameBut [.regs, .pctl, .ports, .mem, .tags, .msys] s (supplyLost s d.val) :=
    ((wb_sameBut s _ _ _).mono (by decide)).and (pdFault_sameBut _ _)
  have hur : RegsBut [pctlPd d.val, pctlSts] s (supplyLost s d.val) := ((regsBut_wb s _ _ _).mono (by simp)).and (regsBut_pdFault _ _)
  have hfault : PdFaulted d.val (supplyLost s d.val) := pdFaulted_pdFault _ d.isLt
  have hua : rb (supplyLost s d.val) (pctlPd d.val) pctlPdACK = false := (rb_ack_pdFault _ d.isLt).trans (rb_wb_same s _ _ _ rfl)
  have huout : (supplyLost s d.val).ports.out = [] := hout
  generalize supplyLost s d.val = u at hex hu hur hfault hua huout
  obtain ⟨x, hx, -⟩ := forcedOutcome_quiet huout (by omega : d.val ≠ 26) (by omega : d.val ≠ 27) (by omega : d.val ≠ 54)
  have hfails := opFails_sameBut (withPorts u x) d.val
  have hfailsRegs := (regsBut_withPorts u x).and (regsBut_of_sameBut hfails (by decide) (by decide) (by decide))
  rw [pdTake, hx] at hex
  generalize opFails (withPorts u x) d.val = y at hex hfails hfailsRegs
  have hyfault : PdFaulted d.val y :=
    ⟨(hfailsRegs.rb_eq (by simp) _).trans hfault.1, (hfailsRegs.rb_eq (by simp) _).trans hfault.2⟩
  refine ⟨_, hex, pdFaulted_powerDown d.isLt hmem hyfault, ?_, pdState_powerDown_mem hmem y, ?_, fun j hlo hhi => ?_, ?_, ?_⟩
  · rw [rb_powerDown_mem hmem y rfl (by decide), hfailsRegs.rb_eq (by simp), hua]
  · rw [pdRun_powerDown_mem hmem y]
  · have hneg : ¬ (8 ≤ d.val ∧ d.val < 16) := by omega
    have hin : (pdArrays d.val).any (fun p => decide (p.1 ≤ j) && decide (j < p.2)) = true := by
      simp only [pdArrays, ← Bool.decide_and, decide_eq_true_eq, if_neg hneg, if_pos (And.intro h1 h2), List.any_cons]
      simp [hlo, hhi]
    rw [powerDown_mem_cleared hmem y j, hin, if_pos rfl]
  · exact (hur.and hfailsRegs).and (regsBut_powerDown_mem hmem y)
  · exact ((hu.and (withPorts_sameBut u x)).and hfails).and (powerDown_mem_sameBut hmem y)

/-- Settles O53: what an edge of the supply's acknowledgment, one that does not come, and the loss of a supply do. -/
theorem supplyHandshake : Obligations.SupplyHandshake := by
  intro s d
  refine ⟨fun hack => ⟨fun h => ⟨_, pdackRise_idle hack h, regsAre_wb s _ _ true, wb_sameBut s _ _ _⟩, fun hreq hph hfop =>
      ⟨fun hmem => pdackRise_clears hack hreq hph hfop hmem, fun hmem h47 h51 h52 hop hst =>
        pdackRise_wakes hack hreq hph hfop hmem h47 h51 h52 hop hst⟩⟩, fun hreq hack => ⟨fun hph => ?_, fun hph hop hst h47 h52 =>
      pdackFall_off hreq hack hph hop hst h47 h52⟩, fun hrun hlate => ⟨fun hph hop _ hmem => pdackTimeout_rise ⟨hrun, hlate⟩ hph hop hmem,
      fun hph hfop => pdackTimeout_fall ⟨hrun, hlate⟩ hph hfop⟩, fun hreq hack h1 h2 hst hout => supplyFault_stripe hreq hack h1 h2 hst hout⟩
  have hex := pdackFall_exec hreq hack
  rw [if_neg hph] at hex
  exact ⟨_, hex, regsAre_wb s _ _ false, wb_sameBut s _ _ _⟩

end Sys2Proof.Machine

/-! What following the safe sources and the drive request changes, and which pairs are safe afterwards (R33, R35, R39). -/

namespace Sys2Proof.Machine

set_option Elab.async false

/-- The registers that show the safe pairs. -/
def safeRegs : List Nat := (List.range 8).map cvpSafests

theorem mem_safeRegs {w : Nat} (hw : w < 8) : cvpSafests w ∈ safeRegs := List.mem_map_of_mem (List.mem_range.2 hw)

theorem notMem_safeRegs {a : Nat} (h : a < 0x40040098 ∨ 0x400400A0 ≤ a) : a ∉ safeRegs := by
  simp only [safeRegs, List.mem_map, List.mem_range, cvpSafests, not_exists, not_and]
  omega

/-- What following the safe sources keeps: all but the safe pairs shown and the words that a source withdraws. -/
structure KeepsPort (s t : State) : Prop where
  regs : RegsBut safeRegs s t
  parts : SameBut [.cvp, .regs, .sig] s t
  sig : t.sig = { s.sig with traces := t.sig.traces }
  cvp : t.cvp = { s.cvp with queues := t.cvp.queues, sentAt := t.cvp.sentAt, released := t.cvp.released, expects := t.cvp.expects,
                             swn := t.cvp.swn, tags := t.cvp.tags }

theorem KeepsPort.refl (s : State) : KeepsPort s s := ⟨RegsBut.refl _ s, SameBut.refl _ s, rfl, rfl⟩

theorem KeepsPort.trans {s t u : State} (h : KeepsPort s t) (k : KeepsPort t u) : KeepsPort s u where
  regs := h.regs.and k.regs (fun _ ha => ha)
  parts := h.parts.trans k.parts
  sig := by rw [k.sig, h.sig]
  cvp := by rw [k.cvp, h.cvp]

theorem KeepsPort.foldl {α : Type} {f : State → α → State} (l : List α) (h : ∀ t, ∀ x ∈ l, KeepsPort t (f t x)) (s : State) :
    KeepsPort s (l.foldl f s) :=
  List.foldlRecOn l f (.refl s) (fun t ht x hx => ht.trans (h t x hx))

theorem keepsPort_unrelease (s : State) (k : Nat) (w : EdgeWord) : KeepsPort s (unrelease s k w) :=
  ⟨fun _ _ => rfl, (withdraw_sameBut s _ _).mono (by simp), rfl, rfl⟩

theorem keepsPort_queues (s : State) (q : List (Nat × List QEntry)) : KeepsPort s { s with cvp := { s.cvp with queues := q } } :=
  ⟨fun _ _ => rfl, (cvp_sameBut s _).mono (by simp), rfl, rfl⟩

theorem keepsPort_safests (s : State) {w : Nat} (hw : w < 8) (v : Nat) : KeepsPort s (wf s (cvpSafests w) cvpSafestsSAFE v) :=
  ⟨(regsBut_wf s _ _ _).mono (by simpa using mem_safeRegs hw), (wf_sameBut s _ _ _).mono (by simp), rfl, rfl⟩

/-- The words whose pair a source has made safe in this cycle have not left (R35). -/
def withdrawn (s : State) : State :=
  (s.cvp.released.filter (fun p => tget 0 s.cvp.sentAt p.1 == s.port + 1 &&
    (((List.range 8).map (safeWord s)).getD (p.2.pair / 32) 0).testBit (p.2.pair % 32))).foldl (fun t p => unrelease t p.1 p.2) s

/-- The pairs with a source of R33 are shown safe. -/
def marked (m : List Nat) (t : State) (w : Nat) : State :=
  wf t (cvpSafests w) cvpSafestsSAFE (rf t (cvpSafests w) cvpSafestsSAFE ||| m.getD w 0)

/-- A word of a safe pair releases it no longer. -/
def unreleasing (m : List Nat) (t : State) : State :=
  { t with cvp := { t.cvp with queues := t.cvp.queues.map (fun q => (q.1, q.2.map (fun e =>
      { e with rel := e.rel && !((m.getD (e.word.pair / 32) 0).testBit (e.word.pair % 32)) }))) } }

theorem rf_unreleasing (m : List Nat) (t : State) (a : Nat) (f : Fld) : rf (unreleasing m t) a f = rf t a f := rfl

theorem safeSync_eq (s : State) : safeSync s =
    unreleasing ((List.range 8).map (safeWord s)) ((List.range 8).foldl (marked ((List.range 8).map (safeWord s))) (withdrawn s)) := rfl

theorem keepsPort_withdrawn (s : State) : KeepsPort s (withdrawn s) := KeepsPort.foldl _ (fun t p _ => keepsPort_unrelease t p.1 p.2) s

theorem keepsPort_safeSync (s : State) : KeepsPort s (safeSync s) :=
  (keepsPort_withdrawn s).trans
    ((KeepsPort.foldl _ (fun t _ hw => keepsPort_safests t (List.mem_range.mp hw) _) _).trans (keepsPort_queues _ _))

theorem testBit_ones {i : Nat} (hi : i < 32) : (0xFFFFFFFF : Nat).testBit i = true := by
  have := Nat.testBit_two_pow_sub_one 32 i
  simpa [hi] using this

/-- The safe pairs of one word after the marking. -/
theorem rf_foldl_marked (m : List Nat) (l : List Nat) (hl : l.Nodup) (t : State) (w : Nat) :
    rf (l.foldl (marked m) t) (cvpSafests w) cvpSafestsSAFE =
      if w ∈ l then (rf t (cvpSafests w) cvpSafestsSAFE ||| m.getD w 0) % cvpSafestsSAFE.span else rf t (cvpSafests w) cvpSafestsSAFE := by
  induction l generalizing t with
  | nil => simp
  | cons x xs ih =>
    obtain ⟨hx, hxs⟩ := List.nodup_cons.1 hl
    rw [List.foldl_cons, ih hxs]
    by_cases h : w = x
    · subst h
      rw [if_neg hx, if_pos List.mem_cons_self, marked, rf_wf_same _ _ _ _ rfl]
    · have hne : cvpSafests w ≠ cvpSafests x := by simp only [cvpSafests]; omega
      have hmem : w ∈ x :: xs ↔ w ∈ xs := by simp [h]
      simp only [hmem, marked, rf_wf_other _ _ _ _ hne]

/-- A pair is safe that was, and one that has a source. -/
theorem rnSafe_safeSync (s : State) {p : Nat} (hp : p < 256) : rnSafe (safeSync s) p = (rnSafe s p || pairSource s p) := by
  have hw : p / 32 < 8 := by omega
  have hm : ((List.range 8).map (safeWord s)).getD (p / 32) 0 = safeWord s (p / 32) := by
    simp [List.getD, hw]
  have hkeep : rf (withdrawn s) (cvpSafests (p / 32)) cvpSafestsSAFE = rf s (cvpSafests (p / 32)) cvpSafestsSAFE := by
    have hk : ∀ (l : List (Nat × EdgeWord)) (t : State), RegsBut [] t (l.foldl (fun t p => unrelease t p.1 p.2) t) := by
      intro l
      induction l with
      | nil => exact fun t => RegsBut.refl _ t
      | cons x xs ih => exact fun t => RegsBut.and (fun _ _ => rfl) (ih (unrelease t x.1 x.2))
    exact (hk _ s).rf_eq (by simp) _
  have hspan : cvpSafestsSAFE.span = 2 ^ 32 := rfl
  have hlt : p % 32 < 32 := Nat.mod_lt _ (by decide)
  have hmarks := rf_foldl_marked ((List.range 8).map (safeWord s)) (List.range 8) List.nodup_range (withdrawn s) (p / 32)
  rw [if_pos (List.mem_range.2 hw), hm, hkeep, hspan] at hmarks
  rw [rnSafe, rbit, safeSync_eq, rf_unreleasing, hmarks, Nat.testBit_mod_two_pow, Nat.testBit_or, decide_eq_true hlt, Bool.true_and, rnSafe, rbit,
    pairSource]

theorem pairSource_of_allSafe {s : State} (h : allSafe s = true) (p : Nat) : pairSource s p = true := by
  simp only [pairSource, safeWord, h, if_true]
  exact testBit_ones (Nat.mod_lt _ (by decide))

theorem rnSafe_safeSync_of_allSafe {s : State} (h : allSafe s = true) : ∀ p < 256, rnSafe (safeSync s) p = true := fun p hp => by
  rw [rnSafe_safeSync s hp, pairSource_of_allSafe h, Bool.or_true]

/-! The drive request (R39). -/

/-- The drive request is to be high. -/
def driveWant (s : State) : Bool := rb s cvpDrive cvpDriveREQEN && s.drvWant && pdOn s 52 && !s.dbg.src && s.pctl.seq == 0

/-- CVP_DRIVE as the request changes. -/
def driveLevels (s : State) : State :=
  wb (wb s cvpDrive cvpDriveREQ (driveWant s)) cvpDrive cvpDriveDRIVING
    (driveWant s && rb (wb s cvpDrive cvpDriveREQ (driveWant s)) cvpDrive cvpDriveGNT)

/-- The same with the report of a grant that stands while the request falls. -/
def driveShown (s : State) : State :=
  if rb s cvpDrive cvpDriveREQ && !driveWant s && rb (driveLevels s) cvpDrive cvpDriveGNT then wb (driveLevels s) cvpEvsts cvpEvstsGNTUNREQUESTED true
  else driveLevels s

theorem driveSync_eq (s : State) : driveSync s = safeSync (driveShown s) := rfl

theorem driveLevels_sameBut (s : State) : SameBut [.regs] s (driveLevels s) := (wb_sameBut s _ _ _).and (wb_sameBut _ _ _ _)

theorem regsBut_driveLevels (s : State) : RegsBut [cvpDrive] s (driveLevels s) := (regsBut_wb s _ _ _).and (regsBut_wb _ _ _ _)

theorem rb_req_driveLevels (s : State) : rb (driveLevels s) cvpDrive cvpDriveREQ = driveWant s := by
  rw [driveLevels, rb_wb_apart _ _ _ _ _ rfl rfl (by decide), rb_wb_same _ _ _ _ rfl]

theorem driveShown_sameBut (s : State) : SameBut [.regs] s (driveShown s) := by
  unfold driveShown
  split
  · exact (driveLevels_sameBut s).and (wb_sameBut _ _ _ _)
  · exact driveLevels_sameBut s

theorem regsBut_driveShown (s : State) : RegsBut [cvpDrive, cvpEvsts] s (driveShown s) := by
  unfold driveShown
  split
  · exact ((regsBut_driveLevels s).mono (by simp)).and (regsBut_wb _ _ _ _)
  · exact (regsBut_driveLevels s).mono (by simp)

theorem rb_req_driveShown (s : State) : rb (driveShown s) cvpDrive cvpDriveREQ = driveWant s := by
  unfold driveShown
  split
  · rw [rb_wb_other _ _ _ _ (by decide), rb_req_driveLevels]
  · exact rb_req_driveLevels s

theorem allSafe_of_unrequested {s : State} (h : rb s cvpDrive cvpDriveREQ = false) : allSafe s = true := by
  simp [allSafe, h]

/-- The registers that following the drive request writes. -/
def driveRegs : List Nat := cvpDrive :: cvpEvsts :: safeRegs

theorem regsBut_driveSync (s : State) : RegsBut driveRegs s (driveSync s) :=
  ((regsBut_driveShown s).mono (by simp [driveRegs])).and (keepsPort_safeSync _).regs (fun _ h => List.mem_cons_of_mem _ (List.mem_cons_of_mem _ h))

theorem driveSync_sameBut (s : State) : SameBut [.cvp, .regs, .sig] s (driveSync s) :=
  ((driveShown_sameBut s).mono (by decide)).and (keepsPort_safeSync _).parts

theorem sig_driveSync (s : State) : (driveSync s).sig = { s.sig with traces := (driveSync s).sig.traces } := by
  have h := (keepsPort_safeSync (driveShown s)).sig
  have hs : (driveShown s).sig = s.sig := driveShown_sameBut s .sig (by decide)
  rwa [hs] at h

theorem notMem_driveRegs {a : Nat} (h : a < 0x40040002 ∨ 0x400400A0 ≤ a) : a ∉ driveRegs := by
  have h1 : a ≠ cvpDrive := by simp only [cvpDrive]; omega
  have h2 : a ≠ cvpEvsts := by simp only [cvpEvsts]; omega
  have h3 : a ∉ safeRegs := notMem_safeRegs (by omega)
  simp [driveRegs, h1, h2, h3]

/-- With the drive request low every pair is safe. -/
theorem rnSafe_driveSync {s : State} (h : driveWant s = false) : ∀ p < 256, rnSafe (driveSync s) p = true := by
  rw [driveSync_eq]
  exact rnSafe_safeSync_of_allSafe (allSafe_of_unrequested ((rb_req_driveShown s).trans h))

end Sys2Proof.Machine

/-! Resets, the PLL, the test pin, the behaviour level and the release of cores (R470, R471, R479, R481, R482, R486, R508). -/

namespace Sys2Proof.Machine

set_option Elab.async false

/-! The trip inputs as a reset or a stop of PORT takes them (R36). -/

/-- The registers that taking the level of a trip input writes. -/
def tripRegs : List Nat := cvpTriplive0 :: cvpTriplive1 :: cvpTriplat0 :: cvpTriplat1 :: groupRegs

theorem tripLiveAddr_mem (i : Nat) : tripLiveAddr i ∈ tripRegs := by
  unfold tripLiveAddr
  split <;> simp [tripRegs]

theorem tripLatAddr_mem (i : Nat) : tripLatAddr i ∈ tripRegs := by
  unfold tripLatAddr
  split <;> simp [tripRegs]

/-- What taking the level of trip inputs keeps. -/
def KeepsLevels (s t : State) : Prop := RegsBut tripRegs s t ∧ SameBut [.cvp, .regs, .sem, .sig] s t

theorem KeepsLevels.refl (s : State) : KeepsLevels s s := ⟨RegsBut.refl _ s, SameBut.refl _ s⟩

theorem KeepsLevels.trans {s t u : State} (h : KeepsLevels s t) (k : KeepsLevels t u) : KeepsLevels s u :=
  ⟨h.1.and k.1 (fun _ ha => ha), h.2.trans k.2⟩

theorem KeepsLevels.foldl {α : Type} {f : State → α → State} (l : List α) (h : ∀ t x, KeepsLevels t (f t x)) (s : State) :
    KeepsLevels s (l.foldl f s) :=
  List.foldlRecOn l f (.refl s) (fun t ht x _ => ht.trans (h t x))

theorem keepsLevels_cvp (s : State) (c : Cvp) : KeepsLevels s { s with cvp := c } := ⟨fun _ _ => rfl, (cvp_sameBut s c).mono (by simp)⟩

theorem keepsLevels_tripSync (s : State) : KeepsLevels s (tripSync s) :=
  ⟨(keepsTrips_tripSync s).regs.mono (fun _ h => by simp [tripRegs, h]), (keepsTrips_tripSync s).parts⟩

theorem keepsLevels_tripShow (s : State) (i : Nat) : KeepsLevels s (tripShow s i) :=
  ⟨(regsBut_tripShow s i).mono (by simp [tripLiveAddr_mem, tripLatAddr_mem]), (tripShow_sameBut s i).mono (by simp)⟩

theorem keepsLevels_tripCount (s : State) (i : Nat) : KeepsLevels s (tripCount s i) := by
  unfold tripCount
  split
  · exact .refl s
  · exact (keepsLevels_cvp s _).trans (keepsLevels_tripSync _)

theorem keepsLevels_tripUncount (s : State) (i : Nat) : KeepsLevels s (tripUncount s i) := by
  have hbit (t : State) : KeepsLevels t (wbit t (tripLiveAddr i) cvpTriplive0LIVE (i % 32) false) :=
    ⟨(regsBut_wbit t _ _ _ _).mono (by simp [tripLiveAddr_mem]), (port_sameBut t _ _ _ _).mono (by simp)⟩
  exact (keepsLevels_cvp s _).trans ((hbit _).trans (keepsLevels_tripSync _))

theorem keepsLevels_tripLevel (s : State) (i : Nat) : KeepsLevels s (tripLevel s i) := by
  have hshow := keepsLevels_tripShow s i
  unfold tripLevel
  split
  · dsimp only
    split
    · exact hshow
    · split
      · exact hshow.trans (keepsLevels_tripCount _ i)
      · split
        · exact hshow
        · exact hshow.trans (keepsLevels_cvp _ _)
  · exact keepsLevels_tripUncount s i

/-- What the bypassed filter keeps, and that no input that counts stops to (R36). -/
structure KeepsCounts (s t : State) : Prop where
  regs : RegsBut groupRegs s t
  parts : SameBut [.cvp, .regs, .sem, .sig] s t
  sig : t.sig = { s.sig with traces := t.sig.traces }
  live : ∀ i, s.cvp.tripLive.getLsbD i = true → t.cvp.tripLive.getLsbD i = true

theorem KeepsCounts.refl (s : State) : KeepsCounts s s := ⟨RegsBut.refl _ s, SameBut.refl _ s, rfl, fun _ h => h⟩

theorem KeepsCounts.trans {s t u : State} (h : KeepsCounts s t) (k : KeepsCounts t u) : KeepsCounts s u where
  regs := h.regs.and k.regs (fun _ ha => ha)
  parts := h.parts.trans k.parts
  sig := by rw [k.sig, h.sig]
  live i hi := k.live i (h.live i hi)

theorem keepsCounts_tripCount (s : State) (i : Nat) : KeepsCounts s (tripCount s i) := by
  cases h : s.cvp.tripLive.getLsbD i
  · have hk := keepsTrips_tripSync (pastFilter s i)
    have hpast : KeepsCounts s (pastFilter s i) :=
      ⟨fun _ _ => rfl, (cvp_sameBut s _).mono (by simp), rfl, fun j hj => by simp [pastFilter, hj]⟩
    rw [tripCount_eq h]
    exact hpast.trans ⟨hk.regs, hk.parts, hk.sig, fun j hj => by rw [hk.tripLive]; exact hj⟩
  · rw [tripCount, h, if_pos rfl]
    exact .refl s

theorem tripLive_tripCount (s : State) {i : Nat} (hi : i < 64) : (tripCount s i).cvp.tripLive.getLsbD i = true := by
  cases h : s.cvp.tripLive.getLsbD i
  · rw [tripCount_eq h, (keepsTrips_tripSync _).tripLive]
    rw [pastFilter, BitVec.getLsbD_or, BitVec.getLsbD_ofNat, Nat.one_shiftLeft, Nat.testBit_two_pow_self, decide_eq_true hi, Bool.true_and, Bool.or_true]
  · rw [tripCount, h, if_pos rfl, h]

theorem keepsCounts_foldl (l : List (Nat × Nat)) (s : State) : KeepsCounts s (l.foldl (fun t p => tripCount t p.1) s) :=
  List.foldlRecOn l _ (.refl s) (fun t ht p _ => ht.trans (keepsCounts_tripCount t p.1))

theorem keepsCounts_tripBypass (s : State) : KeepsCounts s (tripBypass s) := keepsCounts_foldl _ s

/-- Every input that the filter held counts. -/
theorem tripLive_tripBypass (s : State) : ∀ p ∈ s.cvp.tripWait, p.1 < 64 → (tripBypass s).cvp.tripLive.getLsbD p.1 = true := by
  have key : ∀ (l : List (Nat × Nat)) (t : State), ∀ p ∈ l, p.1 < 64 → (l.foldl (fun t p => tripCount t p.1) t).cvp.tripLive.getLsbD p.1 = true := by
    intro l
    induction l with
    | nil => exact fun _ p hp => absurd hp List.not_mem_nil
    | cons x xs ih =>
      intro t p hp h64
      rcases List.mem_cons.1 hp with rfl | hp
      · exact (keepsCounts_foldl xs _).live _ (tripLive_tripCount t h64)
      · exact ih _ p hp h64
  exact key _ s

/-! Power-on reset and the test pin (R481, R482, R508). -/

/-- The reset value of a register whose fields all have the constant 0. -/
def zeroReset (a : Nat) : Bool :=
  (regFind a).any (fun r => r.1.fields.all (fun f => f.rst == .val 0))

theorem reset_of_zeros (d : RegDesc) (h : d.fields.all (fun f => f.rst == .val 0) = true) (p : Params) (lvl : Nat) (ix : List Nat) :
    d.reset p lvl ix = 0 := by
  have key : ∀ l : List FldDesc, l.all (fun f => f.rst == .val 0) = true → l.foldl (fun n f => n + rstValue p lvl ix f.rst <<< f.lo) 0 = 0 := by
    intro l
    induction l with
    | nil => exact fun _ => rfl
    | cons f fs ih =>
      intro h
      obtain ⟨hf, hfs⟩ : f.rst = .val 0 ∧ fs.all (fun f => f.rst == .val 0) = true := by simpa using h
      simp only [List.foldl_cons, hf, rstValue, Nat.zero_shiftLeft, Nat.add_zero]
      exact ih hfs
  rw [RegDesc.reset, key _ h]
  rfl

theorem regDefault_of_zeroReset {a : Nat} (h : zeroReset a = true) (p : Params) (lvl : Nat) : regDefault p lvl a = 0 := by
  unfold zeroReset at h
  unfold regDefault
  cases hr : regFind a with
  | none => rfl
  | some r => exact reset_of_zeros r.1 (by simpa [hr] using h) p lvl r.2

theorem zeroReset_pctlPd : ∀ d < 56, zeroReset (pctlPd d) = true := by decide

/-- The block before its pins are looked at (R482). -/
def powerBase (s : State) : State :=
  { State.reset with
    pending := s.pending, free := s.free, par := s.par, lvl := s.par.blevel.toNat,
    jne := { Jne.zero with dir := s.jne.dir }, sem := { State.reset.sem with pfail := s.sem.pfail },
    cvp := { State.reset.cvp with tripPin := s.cvp.tripPin, gnt := s.cvp.gnt },
    pctl := { State.reset.pctl with sysPin := s.pctl.sysPin, rom := s.pctl.rom }, dbg := Dbg.zero s.dbg.cap }

/-- The supply's acknowledgment of a domain stands through a power-on reset. -/
def ackStands (s u : State) (d : Nat) : State := if rb s (pctlPd d) pctlPdACK then wb u (pctlPd d) pctlPdACK true else u

/-- The drive grant is shown, and the trip inputs are looked at afresh. -/
def untripped (s : State) : State :=
  { wb s cvpDrive cvpDriveGNT s.cvp.gnt with
    cvp := { (wb s cvpDrive cvpDriveGNT s.cvp.gnt).cvp with tripLive := 0, tripWait := [] } }

theorem powerOn_eq (s : State) : powerOn s = pinSync ((List.range 56).foldl (ackStands s) (powerBase s)) := rfl

theorem pinSync_eq (s : State) : pinSync s = driveSync ((List.range 64).foldl tripLevel (untripped s)) := rfl

/-- The registers that the pins' levels change. -/
def pinRegs : List Nat := tripRegs ++ driveRegs

theorem pinRegs_unit : ∀ a ∈ pinRegs, regUnit a = some 4 := by decide

theorem regsBut_pinSync (s : State) : RegsBut pinRegs s (pinSync s) := by
  have hbase : RegsBut pinRegs s (untripped s) := (regsBut_wb s cvpDrive cvpDriveGNT s.cvp.gnt).mono (by simp [pinRegs, driveRegs])
  have hlevels := (KeepsLevels.foldl (List.range 64) keepsLevels_tripLevel (untripped s)).1
  rw [pinSync_eq]
  exact (hbase.and hlevels (fun _ h => List.mem_append_left _ h)).and (regsBut_driveSync _) (fun _ h => List.mem_append_right _ h)

theorem untripped_sameBut (s : State) : SameBut [.cvp, .regs] s (untripped s) :=
  ((wb_sameBut s cvpDrive cvpDriveGNT s.cvp.gnt).mono (by decide)).and (cvp_sameBut _ _)

theorem pinSync_sameBut (s : State) : SameBut [.cvp, .regs, .sem, .sig] s (pinSync s) := by
  have hlevels := (KeepsLevels.foldl (List.range 64) keepsLevels_tripLevel (untripped s)).2
  rw [pinSync_eq]
  exact ((untripped_sameBut s).mono (by decide)).trans (hlevels.trans ((driveSync_sameBut _).mono (by decide)))

/-- What the standing acknowledgments keep. -/
def AcksOnly (s t : State) : Prop :=
  SameBut [.regs] s t ∧ (∀ a, (∀ d < 56, a ≠ pctlPd d) → rd t a = rd s a) ∧ ∀ e, pdState t e = pdState s e

theorem pdState_wb_ack (s : State) (d e : Nat) (b : Bool) : pdState (wb s (pctlPd d) pctlPdACK b) e = pdState s e := by
  by_cases h : d = e
  · subst h
    exact pdState_wb_apart s d b rfl (by decide)
  · exact pdState_congr (regsBut_wb s (pctlPd d) pctlPdACK b) (by simpa using fun he => pctlPd_inj h he.symm)

theorem acksOnly_ackStands (s u : State) {d : Nat} (hd : d < 56) : AcksOnly u (ackStands s u d) := by
  unfold ackStands
  split
  · exact ⟨wb_sameBut u _ _ _, fun a ha => regsBut_wb u _ _ _ a (by simpa using ha d hd), fun e => pdState_wb_ack u d e true⟩
  · exact ⟨SameBut.refl _ u, fun _ _ => rfl, fun _ => rfl⟩

theorem acksOnly_powerBase (s : State) : AcksOnly (powerBase s) ((List.range 56).foldl (ackStands s) (powerBase s)) :=
  List.foldlRecOn (List.range 56) (ackStands s) (motive := AcksOnly (powerBase s)) ⟨SameBut.refl _ _, fun _ _ => rfl, fun _ => rfl⟩
    (fun u ⟨hu, hr, hp⟩ d hd =>
      have ⟨ku, kr, kp⟩ := acksOnly_ackStands s u (List.mem_range.1 hd)
      ⟨hu.and ku, fun a ha => (kr a ha).trans (hr a ha), fun e => (kp e).trans (hp e)⟩)

theorem powerOn_sameBut (s : State) : SameBut [.cvp, .regs, .sem, .sig] (powerBase s) (powerOn s) := by
  rw [powerOn_eq]
  exact ((acksOnly_powerBase s).1.mono (by decide)).trans (pinSync_sameBut _)

theorem rd_powerOn (s : State) {a : Nat} (hunit : regUnit a ≠ some 4) (hpd : ∀ d < 56, a ≠ pctlPd d) :
    rd (powerOn s) a = regDefault s.par s.par.blevel.toNat a := by
  rw [powerOn_eq, regsBut_pinSync _ a (fun h => hunit (pinRegs_unit a h)), (acksOnly_powerBase s).2.1 a hpd]
  rfl

theorem pctlPd_notMem_pinRegs {d : Nat} (hd : d < 56) : pctlPd d ∉ pinRegs := fun h => by
  have hu := pinRegs_unit _ h
  have : pctlPd d / 0x10000 = 0x4000 := by simp only [pctlPd]; omega
  simp [regUnit, this] at hu

theorem pdState_powerOn (s : State) {d : Nat} (hd : d < 56) : pdState (powerOn s) d = 0 := by
  have hdef : rd (powerBase s) (pctlPd d) = 0 := regDefault_of_zeroReset (zeroReset_pctlPd d hd) _ _
  rw [powerOn_eq, pdState_congr (regsBut_pinSync _) (pctlPd_notMem_pinRegs hd), (acksOnly_powerBase s).2.2, pdState, rf, hdef]
  rfl


theorem execTestMode_eq (s : State) : exec .testMode s = .next (onPctl (powerOn s) (fun p => { p with porst := false, test := true })) := rfl

theorem rd_onPctl (s : State) (f : Pctl → Pctl) (a : Nat) : rd (onPctl s f) a = rd s a := rfl

theorem regsBut_onPctl (s : State) (f : Pctl → Pctl) : RegsBut [] s (onPctl s f) := fun _ _ => rfl

theorem pdState_onPctl (s : State) (f : Pctl → Pctl) (d : Nat) : pdState (onPctl s f) d = pdState s d := rfl

/-- What both resets from nothing leave. -/
def PoweredOn (s t : State) : Prop :=
  t.mem = [] ∧ t.tags = [] ∧ t.cores = [] ∧ t.running = false ∧ t.port = 0 ∧ t.par = s.par ∧
    t.lvl = s.par.blevel.toNat ∧ t.pending = s.pending ∧
    ∀ a, regUnit a ≠ some 4 → (∀ d < 56, a ≠ pctlPd d) → rd t a = regDefault s.par s.par.blevel.toNat a

theorem poweredOn_of_sameBut {s t : State} (h : SameBut [.cvp, .regs, .sem, .sig, .pctl] (powerBase s) t)
    (hr : ∀ a, regUnit a ≠ some 4 → (∀ d < 56, a ≠ pctlPd d) → rd t a = regDefault s.par s.par.blevel.toNat a) : PoweredOn s t :=
  ⟨h .mem (by decide), h .tags (by decide), h .cores (by decide), h .running (by decide), h .port (by decide), h .par (by decide),
    h .lvl (by decide), h .pending (by decide), hr⟩

theorem poweredOn_powerOn (s : State) : PoweredOn s (powerOn s) :=
  poweredOn_of_sameBut ((powerOn_sameBut s).mono (by decide)) (fun _ => rd_powerOn s)

theorem poweredOn_testMode (s : State) : PoweredOn s (onPctl (powerOn s) (fun p => { p with porst := false, test := true })) :=
  poweredOn_of_sameBut (((powerOn_sameBut s).mono (by decide)).and (pctl_sameBut _ _))
    (fun a hu hd => (rd_onPctl _ _ a).trans (rd_powerOn s hu hd))

theorem pctl_powerOn (s : State) : (powerOn s).pctl = (powerBase s).pctl := powerOn_sameBut s .pctl (by decide)

theorem powerOnReset_exec {s : State} (h : s.pctl.porst = true) :
    exec .powerOnReset s = .next (driveSync (onPctl s (fun p => { p with porst := false, pll := true, seq := 1, cause := 0 }))) := by
  show execPowerOnReset s = _
  rw [execPowerOnReset, onlyIf, if_pos h]

/-! Warm resets (R481). -/

/-- No other sequence runs, and no domain has to be fenced or left. -/
def ResetStill (s : State) : Prop :=
  s.pctl.porst = false ∧ s.pctl.lol = false ∧ s.pctl.seq = 0 ∧ s.dbg.src = false ∧ s.halted = false ∧
    ∀ d < 56, memDomain d = false → pdState s d ≠ 2 ∧ pdState s d ≠ 3 ∧ pdState s d ≠ 4

/-- What a warm reset does to a domain. -/
def warmDomain (t : State) (d : Nat) : State :=
  if memDomain d then t
  else
    let st := pdState t d
    let u := wb (setPdRun t d { pdRun t d with op := 0, fop := 0 }) (pctlPd d) pctlPdBUSY false
    if st = 2 then pdFence u d
    else if st = 4 then setPdRun u d { pdRun u d with ph := 8 }
    else if st = 3 then u else t

/-- The block with its debug halt ended, before the drive request follows. -/
def unhalted (s : State) : State :=
  onDbg { s with halted := false, running := s.running || (s.halted && s.pctl.pll && !s.pctl.lol) }
    (fun d => { d with src := false, wait := none, stepTo := none })

/-- A warm reset has begun. -/
def resetBegun (s : State) (c : Nat) : State :=
  driveSync (onPctl (driveSync (unhalted s)) (fun p => { p with seq := 2, cause := c, man := none }))

theorem warmCause_eq {s : State} (h : ResetStill s) (c : Nat) : warmCause s c = (List.range 56).foldl warmDomain (resetBegun s c) := by
  obtain ⟨hpo, hlol, hseq, -, -, -⟩ := h
  unfold warmCause
  rw [hpo, hlol, hseq]
  rfl

theorem warmDomain_rest {t : State} {d : Nat} (h : memDomain d = false → pdState t d ≠ 2 ∧ pdState t d ≠ 3 ∧ pdState t d ≠ 4) :
    warmDomain t d = t := by
  unfold warmDomain
  split
  · rfl
  · obtain ⟨h2, h3, h4⟩ := h (by simpa using ‹¬ memDomain d = true›)
    dsimp only
    rw [if_neg h2, if_neg h4, if_neg h3]

theorem unhalted_sameBut (s : State) : SameBut [.halted, .running, .dbg] s (unhalted s) := by
  intro p hp; cases p <;> simp [Part.same, unhalted, onDbg] at hp ⊢

theorem resetBegun_sameBut (s : State) (c : Nat) : SameBut [.halted, .running, .dbg, .cvp, .regs, .sig, .pctl] s (resetBegun s c) :=
  (((unhalted_sameBut s).mono (by decide)).and (driveSync_sameBut _)).trans
    (((pctl_sameBut _ _).mono (by decide)).trans ((driveSync_sameBut _).mono (by decide)))

theorem pctl_resetBegun (s : State) (c : Nat) : (resetBegun s c).pctl = { s.pctl with seq := 2, cause := c, man := none } := by
  have h1 : (driveSync (unhalted s)).pctl = s.pctl := driveSync_sameBut _ .pctl (by decide)
  rw [resetBegun, driveSync_sameBut _ .pctl (by decide), onPctl, h1]

theorem running_resetBegun {s : State} (h : s.halted = false) (c : Nat) : (resetBegun s c).running = s.running := by
  have h1 : (driveSync (unhalted s)).running = (unhalted s).running := driveSync_sameBut _ .running (by decide)
  rw [resetBegun, driveSync_sameBut _ .running (by decide), onPctl, h1]
  simp [unhalted, onDbg, h]

theorem regsBut_unhalted (s : State) : RegsBut [] s (unhalted s) := fun _ _ => rfl

theorem regsBut_resetBegun (s : State) (c : Nat) : RegsBut driveRegs s (resetBegun s c) := by
  have h1 := (regsBut_unhalted s).trans (regsBut_driveSync (unhalted s))
  have h2 := h1.and (regsBut_onPctl _ (fun p => { p with seq := 2, cause := c, man := none })) (by simp)
  exact h2.and (regsBut_driveSync _) (by simp)

theorem pctlPd_notMem_driveRegs {d : Nat} (hd : d < 56) : pctlPd d ∉ driveRegs := fun h =>
  pctlPd_notMem_pinRegs hd (List.mem_append_right _ h)

theorem rnSafe_resetBegun (s : State) (c : Nat) : ∀ p < 256, rnSafe (resetBegun s c) p = true :=
  rnSafe_driveSync (by simp [driveWant, onPctl])

theorem foldl_fixed {α β : Type} {f : β → α → β} {b : β} (l : List α) (h : ∀ x ∈ l, f b x = b) : l.foldl f b = b :=
  List.foldlRecOn l f (motive := (· = b)) rfl (fun _ hc x hx => hc ▸ h x hx)

theorem warmCause_still {s : State} (h : ResetStill s) (c : Nat) : warmCause s c = resetBegun s c := by
  rw [warmCause_eq h]
  refine foldl_fixed _ (fun d hd => warmDomain_rest (fun hmem => ?_))
  have hd := List.mem_range.1 hd
  rw [pdState_congr (regsBut_resetBegun s c) (pctlPd_notMem_driveRegs hd)]
  exact h.2.2.2.2.2 d hd hmem

/-- What the beginning of a warm reset of cause c leaves. -/
def ResetBegun (c : Nat) (s t : State) : Prop :=
  t.pctl.seq = 2 ∧ t.pctl.cause = c ∧ t.mem = s.mem ∧ t.cores = s.cores ∧ t.running = s.running ∧ ∀ p < 256, rnSafe t p = true

theorem resetBegun_warmCause {s : State} (h : ResetStill s) (c : Nat) : ResetBegun c s (warmCause s c) := by
  have hs := resetBegun_sameBut s c
  rw [warmCause_still h]
  refine ⟨?_, ?_, hs .mem (by decide), hs .cores (by decide), running_resetBegun h.2.2.2.2.1 c, rnSafe_resetBegun s c⟩ <;> rw [pctl_resetBegun]

theorem sysrst_exec {s : State} (h : s.pctl.sysPin = false) :
    exec .sysrst s = .next (warmCause (onPctl s (fun p => { p with sysPin := true })) 1) := by
  show execSysrst s = _
  rw [execSysrst, onlyIf, h]
  rfl

theorem swrst_get (w : Word) : pctlCtrlSWRST.get (pctlCtrlSWRST.put w 1) = 1 := (Fld.get_put _ rfl _ _).trans rfl

theorem swrst_exec {s : State} {q : Req} (hq : holdsType s q otPctl = true) :
    ∃ v, exec (.swrst q) s = .next (respond (warmCause (wf s pctlCtrl pctlCtrlPDTO v) 2) 0) := by
  refine ⟨pctlCtrlPDTO.get (pctlCtrlSWRST.put (rd s pctlCtrl) 1), ?_⟩
  show execSwrst q s = _
  rw [execSwrst, pctlCtrlWrite, hq, swrst_get]
  rfl

theorem resetStill_sysPin {s : State} (h : ResetStill s) : ResetStill (onPctl s (fun p => { p with sysPin := true })) := h

theorem resetStill_pdto {s : State} (h : ResetStill s) (v : Nat) : ResetStill (wf s pctlCtrl pctlCtrlPDTO v) := by
  obtain ⟨h1, h2, h3, h4, h5, h6⟩ := h
  refine ⟨h1, h2, h3, h4, h5, fun d hd hmem => ?_⟩
  rw [pdState_congr (regsBut_wf s pctlCtrl pctlCtrlPDTO v) (by simp [pctlCtrl, pctlPd]; omega)]
  exact h6 d hd hmem

/-! The PLL (R470, R471). -/

/-- PORT runs from 0 on, and the boot set is next (R481). -/
def clockUp (s : State) : State := onPctl { s with running := true, port := 0 } (fun p => { p with seq := 4 })

theorem clockUp_sameBut (s : State) : SameBut [.running, .port, .pctl] s (clockUp s) := by
  intro p hp; cases p <;> simp [Part.same, clockUp, onPctl] at hp ⊢

theorem pdState_clockUp (s : State) (d : Nat) : pdState (clockUp s) d = pdState s d := rfl

/-- A domain of the boot set is to come up. -/
def bootWakes (t : State) (d : Nat) : State := setPdRun t d { PdRun.idle with ph := 1 }

/-- Step 4 of a reset for one domain. -/
def bootDomain (t : State) (d : Nat) : State :=
  if pdState t d = 5 then setPdState t d 2 else if pdState t d = 0 then bootWakes t d else t

theorem pllLock_exec {s : State} (hpll : s.pctl.pll = true) (hrun : s.running = false) (hseq : s.pctl.seq = 1) :
    exec .pllLock s = .next (bootSet.foldl bootDomain (clockUp s)) := by
  show execPllLock s = _
  rw [execPllLock, hpll, hrun, hseq]
  rfl

theorem bootDomain_off {t : State} {d : Nat} (h : pdState t d = 0) : bootDomain t d = bootWakes t d := by
  rw [bootDomain, h]
  rfl

theorem foldl_bootDomain_off (l : List Nat) (t : State) (h : ∀ d ∈ l, pdState t d = 0) : l.foldl bootDomain t = l.foldl bootWakes t := by
  induction l generalizing t with
  | nil => rfl
  | cons d l ih =>
    rw [List.foldl_cons, List.foldl_cons, bootDomain_off (h d List.mem_cons_self)]
    exact ih _ (fun e he => (pdState_setPdRun t d e _).trans (h e (List.mem_cons_of_mem _ he)))

theorem pdRun_bootWakes (t : State) (e d : Nat) : pdRun (bootWakes t e) d = if d = e then { PdRun.idle with ph := 1 } else pdRun t d :=
  tget_tset ..

theorem pdRun_foldl_bootWakes (l : List Nat) (t : State) {d : Nat} (h : d ∈ l ∨ (pdRun t d).ph = 1) : (pdRun (l.foldl bootWakes t) d).ph = 1 := by
  induction l generalizing t with
  | nil => simpa using h
  | cons e l ih =>
    refine ih _ ?_
    rw [pdRun_bootWakes]
    by_cases he : d = e
    · exact .inr (by rw [if_pos he])
    · rw [if_neg he]
      exact h.imp_left (fun hm => (List.mem_cons.1 hm).resolve_left he)

theorem foldl_bootWakes_sameBut (l : List Nat) (t : State) : SameBut [.pctl] t (l.foldl bootWakes t) :=
  SameBut.foldl l t (fun u d => setPdRun_sameBut u d _)

theorem seq_foldl_bootWakes (l : List Nat) (t : State) : (l.foldl bootWakes t).pctl.seq = t.pctl.seq := by
  induction l generalizing t with
  | nil => rfl
  | cons d l ih => exact ih _

theorem pllLock_result {s : State} (hpll : s.pctl.pll = true) (hrun : s.running = false) (hseq : s.pctl.seq = 1)
    (h : ∀ d ∈ bootSet, pdState s d = 0) :
    Runs .pllLock s (fun t => t.running = true ∧ t.port = 0 ∧ t.pctl.seq = 4 ∧ (∀ d ∈ bootSet, (pdRun t d).ph = 1) ∧
      SameBut [.running, .port, .pctl] s t) := by
  refine ⟨_, pllLock_exec hpll hrun hseq, ?_⟩
  have hb := foldl_bootWakes_sameBut bootSet (clockUp s)
  rw [foldl_bootDomain_off _ _ (fun d hd => (pdState_clockUp s d).trans (h d hd))]
  exact ⟨hb .running (by decide), hb .port (by decide), seq_foldl_bootWakes _ _, fun d hd => pdRun_foldl_bootWakes _ _ (.inl hd),
    (clockUp_sameBut s).trans (hb.mono (by decide))⟩

theorem satAdd_lt (top v n : Nat) : satAdd top v n < top + 1 := by
  unfold satAdd
  split <;> omega

theorem rf_wb_apart (s : State) (a : Nat) {f g : Fld} (b : Bool) (hf : f.fits = true) (hg : g.fits = true) (h : f.hi < g.lo ∨ g.hi < f.lo) :
    rf (wb s a f b) a g = rf s a g :=
  rf_wf_apart s a f g _ hf hg h

theorem rf_inc_same (s : State) (a : Nat) {f : Fld} (n : Nat) (hf : f.fits = true) :
    rf (inc s a f n) a f = satAdd (f.span - 1) (rf s a f) n := by
  have hspan : 0 < f.span := Nat.two_pow_pos _
  have hlt : satAdd (f.span - 1) (rf s a f) n < f.span := lt_of_lt_of_eq (satAdd_lt _ _ _) (by omega)
  exact (rf_wf_same s a f _ hf).trans (Nat.mod_eq_of_lt hlt)

theorem rb_inc_apart (s : State) (a : Nat) {f g : Fld} (n : Nat) (hf : f.fits = true) (hg : g.fits = true) (h : f.hi < g.lo ∨ g.hi < f.lo) :
    rb (inc s a f n) a g = rb s a g :=
  rb_wf_apart s a f g _ hf hg h

theorem pllLockTimeout_result {s : State} (hpll : s.pctl.pll = true) (hrun : s.running = false) (h : s.pctl.seq = 1 ∨ s.pctl.lol = true) :
    Runs .pllLockTimeout s (fun t => rb t pctlSts pctlStsPLLERR = true ∧
      rf t pctlSts pctlStsPLLRETRY = satAdd (pctlStsPLLRETRY.span - 1) (rf s pctlSts pctlStsPLLRETRY) 1 ∧ RegsBut [pctlSts] s t ∧ SameBut [.regs] s t) := by
  have hex : exec .pllLockTimeout s = .next (inc (wb s pctlSts pctlStsPLLERR true) pctlSts pctlStsPLLRETRY) := by
    show execPllLockTimeout s = _
    rw [execPllLockTimeout, onlyIf, if_pos (by simp [hpll, hrun, h])]
  refine ⟨_, hex, ?_, ?_, (regsBut_wb s _ _ _).and (regsBut_inc _ _ _ 1), (wb_sameBut s _ _ _).and (inc_sameBut _ _ _ 1)⟩
  · rw [rb_inc_apart _ _ 1 rfl rfl (by decide), rb_wb_same _ _ _ _ rfl]
  · rw [rf_inc_same _ _ 1 rfl, rf_wb_apart _ _ _ rfl rfl (by decide)]

/-- PORT stands, and the loss of lock is noted. -/
def clockLost (s : State) : State := wb (onPctl (clocksStop s) (fun p => { p with lol := true })) pctlSts pctlStsPLLERR true

theorem lossOfLock_exec {s : State} (hpll : s.pctl.pll = true) (hlol : s.pctl.lol = false) (hrun : s.running = true) :
    exec .lossOfLock s = .next (safeSync (tripBypass (clockLost s))) := by
  show execLossOfLock s = _
  rw [execLossOfLock, onlyIf, if_pos (by simp [hpll, hlol, hrun])]
  rfl

theorem clockLost_sameBut (s : State) : SameBut [.running, .drvWant, .mlk, .pctl, .regs] s (clockLost s) := by
  intro p hp; cases p <;> simp [Part.same, clockLost, onPctl, clocksStop] at hp ⊢

theorem regsBut_clockLost (s : State) : RegsBut [pctlSts] s (clockLost s) := regsBut_wb (onPctl (clocksStop s) _) _ _ _

/-- What a loss of lock leaves. -/
def LockLost (s t : State) : Prop :=
  t.running = false ∧ t.drvWant = false ∧ t.mlk = { s.mlk with quEnd := false } ∧ t.pctl = { s.pctl with lol := true } ∧
    rb t pctlSts pctlStsPLLERR = true ∧ (∀ p < 256, rnSafe t p = true) ∧ (∀ p ∈ s.cvp.tripWait, p.1 < 64 → t.cvp.tripLive.getLsbD p.1 = true) ∧
    t.sig = { s.sig with traces := t.sig.traces } ∧ RegsBut (pctlSts :: cvpTglatch :: (List.range 8).map cvpSafests) s t ∧
    SameBut [.running, .drvWant, .mlk, .pctl, .regs, .cvp, .sem, .sig] s t

theorem lockLost_parts (s : State) : SameBut [.cvp, .regs, .sem, .sig] (clockLost s) (safeSync (tripBypass (clockLost s))) :=
  (keepsCounts_tripBypass _).parts.trans ((keepsPort_safeSync _).parts.mono (by decide))

theorem lockLost_regs (s : State) : RegsBut groupRegs (clockLost s) (safeSync (tripBypass (clockLost s))) :=
  (keepsCounts_tripBypass _).regs.and (keepsPort_safeSync _).regs (fun _ h => List.mem_cons_of_mem _ h)

theorem lossOfLock_lost (s : State) : LockLost s (safeSync (tripBypass (clockLost s))) := by
  have hparts := lockLost_parts s
  have hregs := lockLost_regs s
  have hcounts := keepsCounts_tripBypass (clockLost s)
  have hsafe := keepsPort_safeSync (tripBypass (clockLost s))
  have hlol : allSafe (tripBypass (clockLost s)) = true := by
    have hp : (tripBypass (clockLost s)).pctl = (clockLost s).pctl := hcounts.parts .pctl (by decide)
    have hl : (clockLost s).pctl.lol = true := rfl
    simp [allSafe, hp, hl]
  have herr : rb (clockLost s) pctlSts pctlStsPLLERR = true := rb_wb_same _ _ _ _ rfl
  refine ⟨hparts .running (by decide), hparts .drvWant (by decide), hparts .mlk (by decide), hparts .pctl (by decide), ?_,
    rnSafe_safeSync_of_allSafe hlol, fun p hp h64 => ?_, ?_, ?_, ((clockLost_sameBut s).mono (by decide)).trans (hparts.mono (by decide))⟩
  · rw [hregs.rb_eq (by decide), herr]
  · rw [hsafe.cvp]
    exact tripLive_tripBypass (clockLost s) p hp h64
  · rw [hsafe.sig, hcounts.sig]
    rfl
  · exact ((regsBut_clockLost s).mono (by simp)).and hregs (fun _ h => List.mem_cons_of_mem _ h)

/-! The behaviour level and the release of cores (R479, R486). -/

theorem b2n_true : b2n true = 1 := rfl

theorem blevelSel_get (sel : BitVec 2) : pctlBlevelSEL.get (sel.setWidth 48) = sel.toNat := by
  revert sel
  decide

theorem blevelWrite_exec {s : State} {q : Req} (sel : BitVec 2) (hq : holdsType s q otPctl = true) :
    exec (.blevelWrite q sel) s = .next (respond
      (if sel.toNat = 0 then wb s pctlBlevel pctlBlevelBLVLV true else wf s pctlBlevel pctlBlevelSEL sel.toNat) 0) := by
  have hlv : pctlBlevelBLVLV.get (sel.setWidth 48) = 0 := by
    revert sel
    decide
  show execBlevelWrite q sel s = _
  rw [execBlevelWrite, blevelWrite, hlv, blevelSel_get]
  by_cases h : sel.toNat = 0 <;> simp [ok, hq, h]

theorem coreRun_bits (la ro : Bool) :
    pctlCorectlLOCKACT.get (BitVec.ofNat 48 (4 * b2n la + 2 * b2n ro + 1)) = b2n la ∧
    pctlCorectlROOTOK.get (BitVec.ofNat 48 (4 * b2n la + 2 * b2n ro + 1)) = b2n ro ∧
    pctlCorectlRUN.get (BitVec.ofNat 48 (4 * b2n la + 2 * b2n ro + 1)) = 1 := by
  revert la ro
  decide

/-- A core's permissions, as the release of the core writes them. -/
def corePermits (s : State) (k : Nat) (ro la : Bool) : State :=
  wb (wb s (pctlCorectl k) pctlCorectlLOCKACT la) (pctlCorectl k) pctlCorectlROOTOK ro

theorem coreRun_exec {s : State} {q : Req} (k : Fin 10) (ro la : Bool) (hq : holdsType s q otPctl = true) :
    exec (.coreRun q k ro la) s = .next (respond (runWrite (corePermits s k.val ro la) k.val) 0) := by
  obtain ⟨hla, hro, hrun⟩ := coreRun_bits la ro
  have hb (b : Bool) : (b2n b == 1) = b := by revert b; decide
  show execCoreRun q k ro la s = _
  rw [execCoreRun, corectlWrite, hq, hla, hro, hrun, hb, hb]
  rfl

theorem corePermits_sameBut (s : State) (k : Nat) (ro la : Bool) : SameBut [.regs] s (corePermits s k ro la) :=
  (wb_sameBut s _ _ _).and (wb_sameBut _ _ _ _)

theorem regsBut_corePermits (s : State) (k : Nat) (ro la : Bool) : RegsBut [pctlCorectl k] s (corePermits s k ro la) :=
  (regsBut_wb s _ _ _).and (regsBut_wb _ _ _ _)

theorem rb_corePermits (s : State) (k : Nat) (ro la : Bool) :
    rb (corePermits s k ro la) (pctlCorectl k) pctlCorectlLOCKACT = la ∧ rb (corePermits s k ro la) (pctlCorectl k) pctlCorectlROOTOK = ro ∧
    rb (corePermits s k ro la) (pctlCorectl k) pctlCorectlRUN = rb s (pctlCorectl k) pctlCorectlRUN := by
  refine ⟨?_, rb_wb_same _ _ _ _ rfl, ?_⟩
  · rw [corePermits, rb_wb_apart _ _ _ _ _ rfl rfl (by decide), rb_wb_same _ _ _ _ rfl]
  · rw [corePermits, rb_wb_apart _ _ _ _ _ rfl rfl (by decide), rb_wb_apart _ _ _ _ _ rfl rfl (by decide)]

theorem pctlCorectl_ne_pctlPd {k : Nat} (hk : k < 10) (d : Nat) : pctlPd d ≠ pctlCorectl k := by simp only [pctlPd, pctlCorectl]; omega

theorem pdOn_corePermits (s : State) {k : Nat} (hk : k < 10) (ro la : Bool) (d : Nat) : pdOn (corePermits s k ro la) d = pdOn s d :=
  (regsBut_corePermits s k ro la).pdOn_eq d (by simpa using pctlCorectl_ne_pctlPd hk d)

/-- A core is to run. -/
def coreGoes (s : State) (k : Nat) : State :=
  onPctl (wb s (pctlCorectl k) pctlCorectlRUN true) (fun p => { p with go := p.go ++ [k] })

theorem runWrite_go {s : State} {k : Nat} (hon : pdOn s (coreDomain k) = true) (hrun : rb s (pctlCorectl k) pctlCorectlRUN = false) :
    runWrite s k = coreGoes s k := by
  rw [runWrite, hon, hrun]
  rfl

theorem rb_coreGoes (s : State) (k a : Nat) (f : Fld) : rb (coreGoes s k) a f = rb (wb s (pctlCorectl k) pctlCorectlRUN true) a f := rfl

theorem pctl_coreGoes (s : State) (k : Nat) : (coreGoes s k).pctl = { s.pctl with go := s.pctl.go ++ [k] } := rfl

theorem coreGoes_sameBut (s : State) (k : Nat) : SameBut [.regs, .pctl] s (coreGoes s k) :=
  ((wb_sameBut s _ _ _).mono (by decide)).and (pctl_sameBut _ _)

theorem regsBut_coreGoes (s : State) (k : Nat) : RegsBut [pctlCorectl k] s (coreGoes s k) :=
  (regsBut_wb s _ _ _).and (regsBut_onPctl _ _)

theorem pctl_respond (s : State) (c : Nat) (w : Word) : (respond s c w).pctl = s.pctl := rfl

theorem runWrite_refused {s : State} {k : Nat} (hon : pdOn s (coreDomain k) = false) : runWrite s k = wb s pctlSts pctlStsPDREF true := by
  rw [runWrite, hon]
  rfl

/-- A core that is released runs from the next cycle of its clock on. -/
theorem coreRun_result {s : State} {q : Req} {k : Fin 10} {ro la : Bool} (hq : holdsType s q otPctl = true)
    (hon : pdOn s (coreDomain k.val) = true) (hrun : rb s (pctlCorectl k.val) pctlCorectlRUN = false) :
    Runs (.coreRun q k ro la) s (fun t => t.resp = ⟨0, 0⟩ ∧
      rb t (pctlCorectl k.val) pctlCorectlRUN = true ∧ rb t (pctlCorectl k.val) pctlCorectlROOTOK = ro ∧
      rb t (pctlCorectl k.val) pctlCorectlLOCKACT = la ∧
      t.pctl = { s.pctl with go := s.pctl.go ++ [k.val] } ∧ RegsBut [pctlCorectl k.val] s t ∧ SameBut [.regs, .pctl, .resp] s t) := by
  obtain ⟨hla, hro, hr⟩ := rb_corePermits s k.val ro la
  refine ⟨_, coreRun_exec k ro la hq, ?_⟩
  rw [runWrite_go ((pdOn_corePermits s k.isLt ro la _).trans hon) (hr.trans hrun)]
  have hpctl : (corePermits s k.val ro la).pctl = s.pctl := corePermits_sameBut s k.val ro la .pctl (by decide)
  refine ⟨rfl, ?_, ?_, ?_, ?_, ?_, ?_⟩
  · rw [rb_respond, rb_coreGoes, rb_wb_same _ _ _ _ rfl]
  · rw [rb_respond, rb_coreGoes, rb_wb_apart _ _ _ _ _ rfl rfl (by decide), hro]
  · rw [rb_respond, rb_coreGoes, rb_wb_apart _ _ _ _ _ rfl rfl (by decide), hla]
  · rw [pctl_respond, pctl_coreGoes, hpctl]
  · exact ((regsBut_corePermits s k.val ro la).and (regsBut_coreGoes _ _)).and (regsBut_respond _ _ _)
  · exact (((corePermits_sameBut s k.val ro la).mono (by decide)).trans ((coreGoes_sameBut _ _).mono (by decide))).trans
      ((respond_sameBut _ _ _).mono (by decide))

/-- A core in a domain that is not ON is not released (R479). -/
theorem coreRun_refused {s : State} {q : Req} {k : Fin 10} {ro la : Bool} (hq : holdsType s q otPctl = true)
    (hon : pdOn s (coreDomain k.val) = false) :
    Runs (.coreRun q k ro la) s (fun t => t.resp = ⟨0, 0⟩ ∧ rb t pctlSts pctlStsPDREF = true ∧
      rb t (pctlCorectl k.val) pctlCorectlRUN = rb s (pctlCorectl k.val) pctlCorectlRUN ∧ RegsBut [pctlCorectl k.val, pctlSts] s t ∧
      SameBut [.regs, .resp] s t) := by
  have hne : pctlCorectl k.val ≠ pctlSts := by have := k.isLt; simp only [pctlCorectl, pctlSts]; omega
  refine ⟨_, coreRun_exec k ro la hq, ?_⟩
  rw [runWrite_refused ((pdOn_corePermits s k.isLt ro la _).trans hon)]
  refine ⟨rfl, ?_, ?_, ?_, ?_⟩
  · rw [rb_respond, rb_wb_same _ _ _ _ rfl]
  · rw [rb_respond, rb_wb_other _ _ _ _ hne]
    exact (rb_corePermits s k.val ro la).2.2
  · exact (((regsBut_corePermits s k.val ro la).mono (by simp)).and (regsBut_wb _ _ _ _)).and (regsBut_respond _ _ _)
  · exact (((corePermits_sameBut s k.val ro la).and (wb_sameBut _ _ _ _)).mono (by decide)).and (respond_sameBut _ _ _)

theorem powerOnReset_result {s : State} (h : s.pctl.porst = true) :
    Runs .powerOnReset s (fun t => t.pctl = { s.pctl with porst := false, pll := true, seq := 1, cause := 0 } ∧
      t.sig = { s.sig with traces := t.sig.traces } ∧ RegsBut driveRegs s t ∧ SameBut [.pctl, .regs, .cvp, .sig] s t) :=
  ⟨_, powerOnReset_exec h, driveSync_sameBut _ .pctl (by decide), sig_driveSync _, (regsBut_onPctl s _).trans (regsBut_driveSync _),
    ((pctl_sameBut s _).mono (by decide)).and (driveSync_sameBut _)⟩

/-- Settles O54: a reset's drive request is low, and with it every pair is safe; the rest is read off the commands' equations. -/
theorem resetsAndClocks : Obligations.ResetsAndClocks := by
  unfold Obligations.ResetsAndClocks
  intro s q k ro la sel
  refine ⟨powerOnReset_result, ?_, ?_, ?_, ?_, ?_, fun hpll => ⟨?_, ?_, ?_⟩, ?_, ?_, fun hq => ⟨coreRun_result hq, coreRun_refused hq⟩⟩
  · exact ⟨_, rfl, poweredOn_powerOn s, by rw [pctl_powerOn]; rfl, fun d hd => pdState_powerOn s hd⟩
  · exact ⟨_, execTestMode_eq s, poweredOn_testMode s, rfl, rfl⟩
  · exact ⟨_, rfl, rfl, pctl_sameBut s _⟩
  · exact fun hpin hstill => ⟨_, sysrst_exec hpin, by rw [warmCause_still (resetStill_sysPin hstill), pctl_resetBegun]; rfl,
      resetBegun_warmCause (resetStill_sysPin hstill) 1⟩
  · intro hq hstill
    obtain ⟨v, hv⟩ := swrst_exec hq
    exact ⟨_, hv, rfl, resetBegun_warmCause (resetStill_pdto hstill v) 2⟩
  · exact fun hrun hseq hoff => pllLock_result hpll hrun hseq (fun d hd => (hoff d hd).1)
  · exact pllLockTimeout_result hpll
  · exact fun hlol hrun => ⟨_, lossOfLock_exec hpll hlol hrun, lossOfLock_lost s⟩
  · intro hsel hq
    refine ⟨_, blevelWrite_exec sel hq, rfl, ?_⟩
    have hne : sel.toNat ≠ 0 := fun h => hsel (BitVec.eq_of_toNat_eq h)
    rw [if_neg hne]
    exact ⟨(regsAre_wf s _ _ _).and (regsBut_respond _ _ _), rfl, ((wf_sameBut s _ _ _).mono (by decide)).and (respond_sameBut _ _ _)⟩
  · intro hq
    refine ⟨_, blevelWrite_exec 0 hq, rfl, ?_⟩
    rw [if_pos (by rfl), ← b2n_true]
    exact ⟨(regsAre_wb s _ _ _).and (regsBut_respond _ _ _), ((wb_sameBut s _ _ _).mono (by decide)).and (respond_sameBut _ _ _)⟩

end Sys2Proof.Machine

/-! Accesses of hardware masters to the block's memories: what a beat leaves, and what words that answer and hold no upset give and
take (R267 to R273, R278, R284). -/

namespace Sys2Proof.Machine

set_option Elab.async false

theorem fresh_sameBut (s : State) : SameBut [.free] s (fresh s).2 := by
  intro p hp; cases p <;> simp [Part.same, fresh] at hp ⊢

theorem mem_sameBut (s : State) (m : List (Nat × Word)) : SameBut [.mem] s { s with mem := m } := by
  intro p hp; cases p <;> simp [Part.same] at hp ⊢

theorem tags_sameBut (s : State) (m : List (Nat × Bool)) : SameBut [.tags] s { s with tags := m } := by
  intro p hp; cases p <;> simp [Part.same] at hp ⊢

theorem maxTo_sameBut (s : State) (a : Nat) (f : Fld) (v : Nat) : SameBut [.regs] s (maxTo s a f v) := by
  intro p hp; cases p <;> simp [Part.same] at hp ⊢

theorem regsBut_maxTo (s : State) (a : Nat) (f : Fld) (v : Nat) : RegsBut [a] s (maxTo s a f v) := regsBut_wf s a f _

theorem rf_inc_apart (s : State) (a : Nat) {f g : Fld} (n : Nat) (hf : f.fits = true) (hg : g.fits = true) (h : f.hi < g.lo ∨ g.hi < f.lo) :
    rf (inc s a f n) a g = rf s a g :=
  rf_wf_apart s a f g _ hf hg h

theorem rf_maxTo_apart (s : State) (a : Nat) {f g : Fld} (v : Nat) (hf : f.fits = true) (hg : g.fits = true) (h : f.hi < g.lo ∨ g.hi < f.lo) :
    rf (maxTo s a f v) a g = rf s a g :=
  rf_wf_apart s a f g _ hf hg h

theorem rf_le_maxTo (s : State) (a : Nat) {f : Fld} (v : Nat) (hf : f.fits = true) : rf s a f ≤ rf (maxTo s a f v) a f := by
  have hspan : 0 < f.span := Nat.two_pow_pos _
  have hlt : rf s a f < f.span := Fld.get_lt _ _
  have hmax : max (rf s a f) (min v (f.span - 1)) < f.span := by omega
  have heq : rf (maxTo s a f v) a f = max (rf s a f) (min v (f.span - 1)) :=
    (rf_wf_same s a f _ hf).trans (Nat.mod_eq_of_lt hmax)
  omega

/-! A beat (R267 to R270, R278, R284). -/

/-- What beats of a hardware master through port p leave: that they have acted, the grants and credit they took, their waits and their
retries. -/
structure Beaten (p : Nat) (u t : State) : Prop where
  msys : t.msys = { u.msys with acts := t.msys.acts, credit := t.msys.credit, grants := t.msys.grants }
  regs : RegsBut [memArb p] u t
  prio : rf t (memArb p) memArbPRIO = rf u (memArb p) memArbPRIO
  wait : rf u (memArb p) memArbWAITMAX ≤ rf t (memArb p) memArbWAITMAX
  parts : SameBut [.msys, .regs, .free] u t

theorem Beaten.refl (p : Nat) (s : State) : Beaten p s s := ⟨rfl, RegsBut.refl _ s, rfl, le_refl _, SameBut.refl _ s⟩

theorem Beaten.trans {p : Nat} {s t u : State} (h : Beaten p s t) (k : Beaten p t u) : Beaten p s u where
  msys := by rw [k.msys, h.msys]
  regs := h.regs.and k.regs
  prio := k.prio.trans h.prio
  wait := h.wait.trans k.wait
  parts := h.parts.trans k.parts

theorem beaten_fresh (p : Nat) (s : State) : Beaten p s (fresh s).2 :=
  ⟨rfl, fun _ _ => rfl, rfl, le_refl _, (fresh_sameBut s).mono (by decide)⟩

theorem beaten_acts (p : Nat) (s : State) (l : List ArrayAct) : Beaten p s { s with msys := { s.msys with acts := l } } :=
  ⟨rfl, fun _ _ => rfl, rfl, le_refl _, (msys_sameBut s _).mono (by decide)⟩

theorem beaten_credit (p : Nat) (s : State) (l : List (Nat × Nat)) : Beaten p s { s with msys := { s.msys with credit := l } } :=
  ⟨rfl, fun _ _ => rfl, rfl, le_refl _, (msys_sameBut s _).mono (by decide)⟩

theorem beaten_grantNote (p : Nat) (s : State) (b n : Nat) : Beaten p s (grantNote s b n) :=
  ⟨rfl, fun _ _ => rfl, rfl, le_refl _, (msys_sameBut s _).mono (by decide)⟩

theorem beaten_waited (p : Nat) (s : State) (v : Nat) : Beaten p s (maxTo s (memArb p) memArbWAITMAX v) :=
  ⟨rfl, regsBut_maxTo s _ _ _, rf_maxTo_apart _ _ _ rfl rfl (by decide), rf_le_maxTo _ _ _ rfl, (maxTo_sameBut s _ _ _).mono (by decide)⟩

theorem beaten_busy (p : Nat) (s : State) : Beaten p s (inc s (memArb p) memArbBUSYCNT) :=
  ⟨rfl, regsBut_inc s _ _ 1, rf_inc_apart _ _ _ rfl rfl (by decide), le_of_eq (rf_inc_apart _ _ _ rfl rfl (by decide)).symm,
    (inc_sameBut s _ _ 1).mono (by decide)⟩

theorem beaten_unitWait (s : State) (p a : Nat) : Beaten p s (unitWait s p a) := by
  unfold unitWait
  split
  · exact (beaten_fresh p s).trans (beaten_waited p _ _)
  · exact .refl p s

theorem beaten_takeGrant (s : State) (p a : Nat) : Beaten p s (takeGrant s p a) := by
  have hg (b : Nat) : Beaten p s (if tget 0 s.msys.grants b < 2 then grantNote s b 1 else s) := by
    split
    · exact beaten_grantNote p s b 1
    · exact .refl p s
  unfold takeGrant
  split
  · exact (hg _).trans (beaten_credit p _ _)
  · exact .refl p s

/-- A port that no core uses for its own scratchpads. -/
def unitPort (p : Nat) : Prop := p < 10 ∨ 18 ≤ p

theorem targetOf_sp {a n : Nat} (h : targetOf a = .dataSp n ∨ targetOf a = .instSp n) : n < 8 := by
  unfold targetOf at h
  split at h
  · simp at h
  · split at h
    · simp only [Target.dataSp.injEq, reduceCtorEq, or_false] at h
      omega
    · split at h
      · simp only [Target.instSp.injEq, reduceCtorEq, false_or] at h
        omega
      · repeat' split at h
        all_goals simp at h

theorem ownRetry_unit (s : State) (a : Nat) {p : Nat} (hp : unitPort p) : ownRetry s a p = s := by
  unfold ownRetry
  split
  · next n h =>
    have := targetOf_sp (.inl h)
    rw [if_neg (by unfold unitPort at hp; omega)]
  · next n h =>
    have := targetOf_sp (.inr h)
    rw [if_neg (by unfold unitPort at hp; omega)]
  · rfl

theorem beaten_meetOne (s : State) (a : Nat) {p : Nat} (hp : unitPort p) (w : Bool) : Beaten p s (meetOne s a p w) := by
  unfold meetOne
  dsimp only
  split
  · split
    · rw [ownRetry_unit _ _ hp]
      exact (beaten_fresh p s).trans (beaten_busy p _)
    · exact beaten_fresh p s
  · exact .refl p s

/-- A beat leaves only its traces. -/
theorem beaten_beat (s : State) (a : Nat) {p : Nat} (hp : unitPort p) (w auto : Bool) : Beaten p s (beat s a p w auto) := by
  have hgrant := (beaten_unitWait s p a).trans (beaten_takeGrant (unitWait s p a) p a)
  unfold beat
  dsimp only
  split
  · exact (hgrant.trans (beaten_meetOne _ a hp w)).trans (beaten_acts p _ _)
  · exact hgrant.trans (beaten_acts p _ _)

theorem Beaten.upsetAt_eq {p : Nat} {s t : State} (h : Beaten p s t) (i : Nat) : upsetAt t i = upsetAt s i := by
  rw [upsetAt, h.msys]
  rfl

theorem Beaten.memRd_eq {p : Nat} {s t : State} (h : Beaten p s t) (i : Nat) : memRd t i = memRd s i := h.parts.memRd_eq (by decide) i

theorem Beaten.clearing_eq {p : Nat} {s t : State} (h : Beaten p s t) : t.msys.clearing = s.msys.clearing := by rw [h.msys]

theorem Beaten.beats {p : Nat} {s t : State} (h : Beaten p s t) : Beats p s t :=
  ⟨by rw [h.msys], h.upsetAt_eq, h.prio, h.wait⟩

theorem Beaten.storeBeats {p : Nat} {s t : State} (h : Beaten p s t) : StoreBeats p s t :=
  ⟨by rw [h.msys], h.regs, h.prio, h.wait⟩

/-! Whether a word answers. -/

theorem targetOf_shared {a st b : Nat} (h : targetOf a = .shared st b) : st < 16 := by
  unfold targetOf at h
  split at h
  · simp only [Target.shared.injEq] at h
    omega
  · repeat' split at h
    all_goals simp at h

theorem targetOf_aeRam {a e : Nat} (h : targetOf a = .aeRam e) : 0x200000 ≤ a ∧ e < 8 := by
  unfold targetOf at h
  split at h
  · simp at h
  · split at h
    · simp at h
    · split at h
      · simp at h
      · split at h
        · simp at h
        · split at h
          · simp only [Target.aeRam.injEq] at h
            omega
          · repeat' split at h
            all_goals simp at h

theorem targetOf_domain_lt {a d : Nat} (h : (targetOf a).domain = some d) : d < 56 := by
  unfold Target.domain at h
  split at h
  · next st b ht =>
    have := targetOf_shared ht
    simp only [Option.some.injEq] at h
    omega
  · next n ht =>
    have := targetOf_sp (.inl ht)
    simp only [Option.some.injEq] at h
    omega
  · next n ht =>
    have := targetOf_sp (.inr ht)
    simp only [Option.some.injEq] at h
    omega
  · next n ht =>
    have := (targetOf_aeRam ht).2
    simp only [Option.some.injEq] at h
    omega
  · simp at h

theorem arrayCode_congr {l : List Nat} {s t : State} (h : RegsBut l s t) (hpd : ∀ d < 56, pctlPd d ∉ l) (hr : ∀ b < 16, memRetire b ∉ l)
    (a : Nat) : arrayCode t a = arrayCode s a := by
  have hon (d : Nat) (hd : d < 56) : pdOn t d = pdOn s d := h.pdOn_eq d (hpd d hd)
  unfold arrayCode
  split
  · next st b ht =>
    have hst := targetOf_shared ht
    rw [hon _ (by omega), retired, retired, h.rf_eq (hr st hst)]
  · split
    · next d hd => rw [hon d (targetOf_domain_lt hd)]
    · rfl

theorem arrayAnswer_congr {l : List Nat} {s t : State} (h : RegsBut l s t) (hpd : ∀ d < 56, pctlPd d ∉ l) (hr : ∀ b < 16, memRetire b ∉ l)
    (hc : t.msys.clearing = s.msys.clearing) (a : Nat) : arrayAnswer t a = arrayAnswer s a := by
  rw [arrayAnswer, arrayAnswer, beingCleared, beingCleared, hc, arrayCode_congr h hpd hr]

theorem memArb_ne_pctlPd {p d : Nat} (hd : d < 56) : pctlPd d ∉ [memArb p] := by
  simp only [List.mem_singleton, pctlPd, memArb]
  omega

theorem memArb_ne_memRetire {p b : Nat} (hp : p < 0x100) : memRetire b ∉ [memArb p] := by
  simp only [List.mem_singleton, memRetire, memArb]
  omega

theorem Beaten.arrayAnswer_eq {p : Nat} {s t : State} (h : Beaten p s t) (hp : p < 0x100) (a : Nat) : arrayAnswer t a = arrayAnswer s a :=
  arrayAnswer_congr h.regs (fun _ hd => memArb_ne_pctlPd hd) (fun _ _ => memArb_ne_memRetire hp) h.clearing_eq a

theorem Beaten.arrayCode_eq {p : Nat} {s t : State} (h : Beaten p s t) (hp : p < 0x100) (a : Nat) : arrayCode t a = arrayCode s a :=
  arrayCode_congr h.regs (fun _ hd => memArb_ne_pctlPd hd) (fun _ _ => memArb_ne_memRetire hp) a

theorem arrayAnswer_of_code {s : State} {a : Nat} (h : arrayCode s a = 0) : arrayAnswer s a = 0 := by
  rw [arrayAnswer, h, ite_self]

/-! Reads of whole words (R273). -/

/-- The word at a answers and holds no upset. -/
def wordWhole (s : State) (a : Nat) : Prop :=
  a < 0x200000 ∧ arrayCode s a = 0 ∧ upsetAt s (upsetKey a) = .none ∧ upsetAt s (tagUpsetKey a) = .none

theorem wordsWhole_iff {s : State} {a n : Nat} : WordsWhole s a n ↔ ∀ j < n, wordWhole s (a + j) := Iff.rfl

theorem Beaten.wordWhole {p : Nat} {s t : State} (h : Beaten p s t) (hp : p < 0x100) {a : Nat} (hw : wordWhole s a) : wordWhole t a := by
  obtain ⟨ha, hc, hu, ht⟩ := hw
  exact ⟨ha, (h.arrayCode_eq hp a).trans hc, (h.upsetAt_eq _).trans hu, (h.upsetAt_eq _).trans ht⟩

theorem eccCheck_of_whole {s : State} {a : Nat} (hu : upsetAt s (upsetKey a) = .none) (ht : upsetAt s (tagUpsetKey a) = .none) (i p : Nat)
    (tags : Bool) : eccCheck s i a p tags = (false, s) := by
  have hnt : ¬ ((tags && decide (upsetAt s (tagUpsetKey a) = .tag) && (targetOf a).tagged) = true) := by simp [ht]
  unfold eccCheck
  dsimp only
  rw [if_neg hnt, hu]

theorem arrayOwn_whole {s : State} {a : Nat} (hw : wordWhole s a) {p : Nat} (hp : unitPort p) (auto tags : Bool) :
    arrayOwn s a p auto tags = (0, memRd s a, beat s a p false auto) := by
  obtain ⟨-, hc, hu, ht⟩ := hw
  have hb := beaten_beat s a hp false auto
  unfold arrayOwn
  dsimp only
  rw [arrayAnswer_of_code hc, if_neg (by simp), eccCheck_of_whole ((hb.upsetAt_eq _).trans hu) ((hb.upsetAt_eq _).trans ht), if_neg (by simp),
    hb.memRd_eq]

theorem noData_whole {s : State} {a : Nat} (hw : wordWhole s a) : noData s a = false := by
  obtain ⟨-, hc, hu, -⟩ := hw
  rw [noData, arrayAnswer_of_code hc, hu]
  rfl

theorem ownWord_whole {s : State} {a : Nat} (hw : wordWhole s a) : ownWord s a = memRd s a := by
  rw [ownWord, noData_whole hw]
  rfl

theorem beaten_ownCheck {s : State} {a : Nat} (hw : wordWhole s a) {p : Nat} (hp : unitPort p) : Beaten p s (ownCheck s a p) := by
  unfold ownCheck
  dsimp only
  rw [arrayOwn_whole hw hp, noData_whole hw]
  exact beaten_beat s a hp false true

/-- Checks of whole words leave only their traces. -/
theorem beaten_ownChecks {s : State} {a n : Nat} (hw : ∀ j < n, wordWhole s (a + j)) {p : Nat} (hp : unitPort p) (hp' : p < 0x100) :
    Beaten p s (ownChecks s a n p) :=
  List.foldlRecOn (List.range n) _ (motive := Beaten p s) (.refl p s) (fun _ ht i hi =>
    ht.trans (beaten_ownCheck (ht.wordWhole hp' (hw i (List.mem_range.1 hi))) hp))

theorem ownWords_whole {s : State} {a n : Nat} (hw : ∀ j < n, wordWhole s (a + j)) :
    ownWords s a n = (List.range n).map (fun i => memRd s (a + i)) :=
  List.map_congr_left (fun i hi => ownWord_whole (hw i (List.mem_range.1 hi)))

/-! Stores (R210, R272, R273). -/

/-- A word as a store leaves it, with fresh check bits and its pair's tag clear. -/
def putWord (t : State) (a : Nat) (v : Word) : State := tagWr (memWr (storeFresh t a) a v) (a / 2 * 2) false

theorem memRd_putWord (t : State) (a : Nat) (v : Word) (b : Nat) : memRd (putWord t a v) b = if b = a then v else memRd t b := by
  rw [putWord, memRd_tagWr, memRd_memWr]
  rfl

theorem tagRd_putWord (t : State) (a : Nat) (v : Word) (b : Nat) : tagRd (putWord t a v) b = if b = a / 2 * 2 then false else tagRd t b := by
  rw [putWord, tagRd_tagWr, tagRd_memWr]
  rfl

theorem putWord_sameBut (t : State) (a : Nat) (v : Word) : SameBut [.mem, .tags, .msys] t (putWord t a v) := by
  intro p hp; cases p <;> simp [Part.same, putWord, storeFresh, setUpset] at hp ⊢



theorem msys_putWord (t : State) (a : Nat) (v : Word) :
    (putWord t a v).msys = { t.msys with upsets := (putWord t a v).msys.upsets } := rfl

/-- Storing does not add an upset: those of the word and its pair are cleared, others stay. -/
theorem upsetAt_putWord (t : State) (a : Nat) (v : Word) (i : Nat) :
    upsetAt (putWord t a v) i = if i = tagUpsetKey a ∨ i = upsetKey a then .none else upsetAt t i := by
  have h : upsetAt (putWord t a v) i = tget Upset.none (tset Upset.none (tset Upset.none t.msys.upsets (upsetKey a) .none) (tagUpsetKey a) .none) i :=
    rfl
  rw [h, tget_tset, tget_tset]
  by_cases h1 : i = tagUpsetKey a <;> by_cases h2 : i = upsetKey a <;> simp [h1, h2, upsetAt]

theorem wordWhole_putWord {t : State} {a b : Nat} {v : Word} (h : wordWhole t b) : wordWhole (putWord t a v) b := by
  obtain ⟨hb, hc, hu, ht⟩ := h
  exact ⟨hb, hc, by rw [upsetAt_putWord, hu, ite_self], by rw [upsetAt_putWord, ht, ite_self]⟩

/-- What stores of a hardware master through port p leave beside the words. -/
structure StoreBeaten (p : Nat) (u t : State) : Prop where
  msys : t.msys = { u.msys with acts := t.msys.acts, credit := t.msys.credit, grants := t.msys.grants, upsets := t.msys.upsets }
  regs : RegsBut [memArb p] u t
  prio : rf t (memArb p) memArbPRIO = rf u (memArb p) memArbPRIO
  wait : rf u (memArb p) memArbWAITMAX ≤ rf t (memArb p) memArbWAITMAX
  parts : SameBut [.msys, .regs, .free, .mem, .tags] u t

theorem StoreBeaten.refl (p : Nat) (s : State) : StoreBeaten p s s := ⟨rfl, RegsBut.refl _ s, rfl, le_refl _, SameBut.refl _ s⟩

theorem StoreBeaten.trans {p : Nat} {s t u : State} (h : StoreBeaten p s t) (k : StoreBeaten p t u) : StoreBeaten p s u where
  msys := by rw [k.msys, h.msys]
  regs := h.regs.and k.regs
  prio := k.prio.trans h.prio
  wait := h.wait.trans k.wait
  parts := h.parts.trans k.parts

theorem Beaten.stored {p : Nat} {s t : State} (h : Beaten p s t) : StoreBeaten p s t :=
  ⟨by rw [h.msys], h.regs, h.prio, h.wait, h.parts.mono (by decide)⟩

theorem storeBeaten_putWord (p : Nat) (t : State) (a : Nat) (v : Word) : StoreBeaten p t (putWord t a v) :=
  ⟨rfl, fun _ _ => rfl, rfl, le_refl _, (putWord_sameBut t a v).mono (by decide)⟩

theorem StoreBeaten.storeBeats {p : Nat} {s t : State} (h : StoreBeaten p s t) : StoreBeats p s t := ⟨h.msys, h.regs, h.prio, h.wait⟩

theorem StoreBeaten.clearing_eq {p : Nat} {s t : State} (h : StoreBeaten p s t) : t.msys.clearing = s.msys.clearing := by rw [h.msys]

theorem StoreBeaten.arrayAnswer_eq {p : Nat} {s t : State} (h : StoreBeaten p s t) (hp : p < 0x100) (a : Nat) : arrayAnswer t a = arrayAnswer s a :=
  arrayAnswer_congr h.regs (fun _ hd => memArb_ne_pctlPd hd) (fun _ _ => memArb_ne_memRetire hp) h.clearing_eq a

theorem StoreBeaten.arrayCode_eq {p : Nat} {s t : State} (h : StoreBeaten p s t) (hp : p < 0x100) (a : Nat) : arrayCode t a = arrayCode s a :=
  arrayCode_congr h.regs (fun _ hd => memArb_ne_pctlPd hd) (fun _ _ => memArb_ne_memRetire hp) a

theorem targetOf_ne_aeRam {a : Nat} (ha : a < 0x200000) (e : Nat) : targetOf a ≠ .aeRam e := fun h => by
  have := (targetOf_aeRam h).1
  omega

theorem arrayWrite_refused {s : State} {a : Nat} (h : arrayAnswer s a ≠ 0) (p : Nat) (v : Word) (auto : Bool) :
    arrayWrite s a p v auto = (arrayAnswer s a, s) := by
  unfold arrayWrite
  dsimp only
  rw [if_pos h]

theorem arrayWrite_answered {s : State} {a : Nat} (ha : a < 0x200000) (h : arrayAnswer s a = 0) (p : Nat) (v : Word) (auto : Bool) :
    arrayWrite s a p v auto = (0, putWord (beat s a p true auto) a v) := by
  unfold arrayWrite
  dsimp only
  rw [h, if_neg (by simp)]
  split
  · next e he => exact absurd he (targetOf_ne_aeRam ha e)
  · rfl

theorem storeBeaten_arrayWrite {s : State} {a : Nat} (ha : a < 0x200000) {p : Nat} (hp : unitPort p) (v : Word) (auto : Bool) :
    StoreBeaten p s (arrayWrite s a p v auto).2 := by
  by_cases h : arrayAnswer s a = 0
  · rw [arrayWrite_answered ha h]
    exact (beaten_beat s a hp true auto).stored.trans (storeBeaten_putWord p _ a v)
  · rw [arrayWrite_refused h]
    exact .refl p s

theorem storeBeaten_ownStore {s : State} {a : Nat} (ha : a < 0x200000) {p : Nat} (hp : unitPort p) (v : Word) : StoreBeaten p s (ownStore s a p v) :=
  storeBeaten_arrayWrite ha hp v true

theorem memRd_ownStore {s : State} {a : Nat} (ha : a < 0x200000) (h : arrayCode s a = 0) {p : Nat} (hp : unitPort p) (v : Word) (b : Nat) :
    memRd (ownStore s a p v) b = if b = a then v else memRd s b := by
  rw [ownStore, arrayWrite_answered ha (arrayAnswer_of_code h), memRd_putWord, (beaten_beat s a hp true true).memRd_eq]

theorem wordWhole_ownStore {s : State} {a b : Nat} (ha : a < 0x200000) {p : Nat} (hp : unitPort p) (hp' : p < 0x100) {v : Word} (h : wordWhole s b) :
    wordWhole (ownStore s a p v) b := by
  by_cases hc : arrayAnswer s a = 0
  · rw [ownStore, arrayWrite_answered ha hc]
    exact wordWhole_putWord ((beaten_beat s a hp true true).wordWhole hp' h)
  · rw [ownStore, arrayWrite_refused hc]
    exact h

/-- Stores to whole words keep every upset as it was: there was none to clear. -/
theorem upsetAt_ownStore {s : State} {a : Nat} (hw : wordWhole s a) {p : Nat} (hp : unitPort p) (v : Word) (i : Nat) :
    upsetAt (ownStore s a p v) i = upsetAt s i := by
  obtain ⟨ha, hc, hu, ht⟩ := hw
  rw [ownStore, arrayWrite_answered ha (arrayAnswer_of_code hc), upsetAt_putWord, (beaten_beat s a hp true true).upsetAt_eq]
  by_cases h : i = tagUpsetKey a ∨ i = upsetKey a
  · rw [if_pos h]
    rcases h with rfl | rfl
    · exact ht.symm
    · exact hu.symm
  · rw [if_neg h]

end Sys2Proof.Machine

/-! What the command port's work on its buffers leaves alone, wherever its pool lies: registers outside the memory system, the engines
and the command port itself, and the parts of the block that it does not reach. -/

namespace Sys2Proof.Machine

set_option Elab.async false

/-! Requests on the host master port (R496). -/

theorem ports_sameBut (s : State) (p : Ports) : SameBut [.ports] s { s with ports := p } := withPorts_sameBut s p

theorem hmpIssueOne_sameBut (s : State) : SameBut [.ports] s (hmpIssueOne s) := by
  unfold hmpIssueOne
  split
  · exact ports_sameBut s _
  · exact SameBut.refl _ s

theorem hmpIssue_sameBut (s : State) : SameBut [.ports] s (hmpIssue s) := by
  unfold hmpIssue
  split
  · exact SameBut.foldl (List.range 32) s (fun t _ => hmpIssueOne_sameBut t)
  · exact SameBut.refl _ s

theorem hmpReq_sameBut (s : State) (use : HmpUse) (w : Bool) (a n : Nat) (d : List Word) (p v : Bool) :
    SameBut [.ports] s (hmpReq s use w a n d p v) := by
  unfold hmpReq
  dsimp only
  split
  · exact (ports_sameBut s _).and (hmpIssue_sameBut _)
  · exact ports_sameBut s _

/-! Registers by unit. -/

/-- The registers outside some 64 Ki regions of the register space hold the same. -/
def RegsOut (us : List Nat) (s t : State) : Prop := ∀ a, a / 0x10000 ∉ us → rd t a = rd s a

theorem RegsOut.of_regsBut {us l : List Nat} {s t : State} (h : RegsBut l s t) (hl : ∀ a ∈ l, a / 0x10000 ∈ us) : RegsOut us s t :=
  fun a ha => h a (fun hm => ha (hl a hm))

theorem RegsOut.rf_eq {us : List Nat} {s t : State} (h : RegsOut us s t) {a : Nat} (ha : a / 0x10000 ∉ us) (f : Fld) : rf t a f = rf s a f := by
  rw [rf, rf, h a ha]

theorem RegsOut.rb_eq {us : List Nat} {s t : State} (h : RegsOut us s t) {a : Nat} (ha : a / 0x10000 ∉ us) (f : Fld) : rb t a f = rb s a f := by
  rw [rb, rb, h.rf_eq ha]

/-- The regions that the command port's work may write: the memory system's, the engines' (a buffer may lie in their local RAM) and
its own. -/
def cptUnits : List Nat := [0x4002, 0x4005, 0x400C]

/-- What the command port's work on its buffers keeps. -/
structure KeepsCpt (s t : State) : Prop where
  regs : RegsOut cptUnits s t
  parts : SameBut [.regs, .mem, .tags, .msys, .free, .ae, .cpt, .intc, .ports] s t
  intc : t.intc = { s.intc with strobes := t.intc.strobes }

theorem KeepsCpt.refl (s : State) : KeepsCpt s s := ⟨fun _ _ => rfl, SameBut.refl _ s, rfl⟩

theorem KeepsCpt.trans {s t u : State} (h : KeepsCpt s t) (k : KeepsCpt t u) : KeepsCpt s u where
  regs a ha := (k.regs a ha).trans (h.regs a ha)
  parts := h.parts.trans k.parts
  intc := by rw [k.intc, h.intc]

theorem KeepsCpt.foldl {α : Type} {f : State → α → State} (l : List α) (h : ∀ t, ∀ x ∈ l, KeepsCpt t (f t x)) (s : State) : KeepsCpt s (l.foldl f s) :=
  List.foldlRecOn l f (.refl s) (fun t ht x hx => ht.trans (h t x hx))

theorem strobes_of_eq {s t : State} (h : t.intc = s.intc) : t.intc = { s.intc with strobes := t.intc.strobes } := by rw [h]

/-- A change of registers of those regions. -/
theorem keepsCpt_regs {l : List Nat} {s t : State} (h : RegsBut l s t) (hs : SameBut [.regs] s t) (hl : ∀ a ∈ l, a / 0x10000 ∈ cptUnits) : KeepsCpt s t :=
  ⟨.of_regsBut h hl, hs.mono (by decide), strobes_of_eq (hs .intc (by decide))⟩

theorem keepsCpt_wf (s : State) {a : Nat} (f : Fld) (v : Nat) (h : a / 0x10000 ∈ cptUnits) : KeepsCpt s (wf s a f v) :=
  keepsCpt_regs (regsBut_wf s a f v) (wf_sameBut s a f v) (by simpa using h)

theorem keepsCpt_wb (s : State) {a : Nat} (f : Fld) (v : Bool) (h : a / 0x10000 ∈ cptUnits) : KeepsCpt s (wb s a f v) :=
  keepsCpt_regs (regsBut_wb s a f v) (wb_sameBut s a f v) (by simpa using h)

theorem keepsCpt_wr (s : State) {a : Nat} (w : Word) (h : a / 0x10000 ∈ cptUnits) : KeepsCpt s (wr s a w) :=
  keepsCpt_regs (regsBut_wr s a w) (wr_sameBut s a w) (by simpa using h)

theorem keepsCpt_inc (s : State) {a : Nat} (f : Fld) (n : Nat) (h : a / 0x10000 ∈ cptUnits) : KeepsCpt s (inc s a f n) :=
  keepsCpt_regs (regsBut_inc s a f n) (inc_sameBut s a f n) (by simpa using h)

theorem keepsCpt_maxTo (s : State) {a : Nat} (f : Fld) (n : Nat) (h : a / 0x10000 ∈ cptUnits) : KeepsCpt s (maxTo s a f n) :=
  keepsCpt_regs (regsBut_maxTo s a f n) (maxTo_sameBut s a f n) (by simpa using h)

/-- A change of parts alone. -/
theorem keepsCpt_parts {l : List Part} {s t : State} (h : SameBut l s t)
    (hl : ∀ p ∈ l, p ∈ [Part.mem, .tags, .msys, .free, .ae, .cpt, .ports]) : KeepsCpt s t := by
  have hm : SameBut [.mem, .tags, .msys, .free, .ae, .cpt, .ports] s t := h.mono hl
  exact ⟨fun a _ => regsBut_of_sameBut hm (by decide) (by decide) (by decide) a (by simp), hm.mono (by decide), strobes_of_eq (hm .intc (by decide))⟩

theorem keepsCpt_strobe (s : State) (d n : Nat) : KeepsCpt s (unitStrobe s d n) := by
  unfold unitStrobe
  split
  · exact ⟨fun _ _ => rfl, fun p hp => by cases p <;> simp [Part.same, strobe] at hp ⊢, rfl⟩
  · exact .refl s

theorem keepsCpt_beaten {p : Nat} (hp : p < 0x100) {s t : State} (h : Beaten p s t) : KeepsCpt s t :=
  ⟨.of_regsBut h.regs (by
    simp only [List.mem_cons, List.not_mem_nil, or_false, forall_eq, memArb, cptUnits]
    omega), h.parts.mono (by decide), strobes_of_eq (h.parts .intc (by decide))⟩

/-! Checked reads and stores at any address. -/

theorem keepsCpt_eccLog (s : State) (k b a p : Nat) : KeepsCpt s (eccLog s k b a p) := by
  have hptr : memLogptr / 0x10000 ∈ cptUnits := by decide
  have hent (i w : Nat) (hi : i < 8) (hw : w < 2) : memEcclog i w / 0x10000 ∈ cptUnits := by
    have : memEcclog i w / 0x10000 = 0x4002 := by simp only [memEcclog]; omega
    simp [this, cptUnits]
  have hi : rf s memLogptr memLogptrECCWR < 8 := Fld.get_lt memLogptrECCWR _
  have hlost (u : State) (c : Bool) : KeepsCpt u (if c then inc u memLogptr memLogptrECCLOST else u) := by
    split
    · exact keepsCpt_inc u _ 1 hptr
    · exact .refl u
  have hms (u : State) (m : MemSys) : KeepsCpt u { u with msys := m } := keepsCpt_parts (msys_sameBut u m) (by decide)
  exact (((hlost s _).trans (keepsCpt_wr _ _ (hent _ 0 hi (by decide)))).trans (keepsCpt_wr _ _ (hent _ 1 hi (by decide)))).trans
    ((keepsCpt_wf _ _ _ hptr).trans (hms _ _))

theorem memBank_unit {i : Nat} (hi : i < 64) : memBank (i / 4) (i % 4) / 0x10000 ∈ cptUnits := by
  have : memBank (i / 4) (i % 4) / 0x10000 = 0x4002 := by simp only [memBank]; omega
  simp [this, cptUnits]

theorem memSpecc_unit {i : Nat} (hi : i < 88) : memSpecc (i - 64) / 0x10000 ∈ cptUnits := by
  have : memSpecc (i - 64) / 0x10000 = 0x4002 := by simp only [memSpecc]; omega
  simp [this, cptUnits]

theorem memRetire_unit {i : Nat} (hi : i < 64) : memRetire (i / 4) / 0x10000 ∈ cptUnits := by
  have : memRetire (i / 4) / 0x10000 = 0x4002 := by simp only [memRetire]; omega
  simp [this, cptUnits]

theorem keepsCpt_msys (u : State) (m : MemSys) : KeepsCpt u { u with msys := m } := keepsCpt_parts (msys_sameBut u m) (by decide)

theorem keepsCpt_countCe (s : State) {i : Nat} (hi : i < 88) : KeepsCpt s (countCe s i) := by
  have hcount : KeepsCpt s (if i < 64 then inc s (memBank (i / 4) (i % 4)) memBankCECNT else inc s (memSpecc (i - 64)) memSpeccCECNT) := by
    split
    · next h => exact keepsCpt_inc s _ 1 (memBank_unit h)
    · exact keepsCpt_inc s _ 1 (memSpecc_unit hi)
  exact (hcount.trans (keepsCpt_wb _ _ _ (by decide))).trans (keepsCpt_msys _ _)

theorem keepsCpt_retireBank (s : State) {i : Nat} (hi : i < 64) (b : Nat) : KeepsCpt s (retireBank s (i / 4) b) := by
  unfold retireBank
  split
  · exact .refl s
  · exact (keepsCpt_wf s _ _ (memRetire_unit hi)).trans (keepsCpt_wb _ _ _ (by decide))

theorem keepsCpt_countUe (s : State) {i : Nat} (hi : i < 88) : KeepsCpt s (countUe s i) := by
  unfold countUe
  split
  · next h =>
    have hcount := (keepsCpt_inc s memBankUECNT 1 (memBank_unit h)).trans (keepsCpt_wb _ memStsECCUE true (by decide : memSts / 0x10000 ∈ cptUnits))
    dsimp only
    split
    · exact hcount.trans (keepsCpt_retireBank _ h _)
    · exact hcount
  · exact (keepsCpt_inc s _ 1 (memSpecc_unit hi)).trans (keepsCpt_wb _ _ _ (by decide))

theorem keepsCpt_queueScrub (s : State) (a : Nat) : KeepsCpt s (queueScrub s a) := by
  unfold queueScrub
  split
  · exact .refl s
  · exact keepsCpt_msys s _

theorem keepsCpt_eccCheck (s : State) {i : Nat} (hi : i < 88) (a p : Nat) (tags : Bool) : KeepsCpt s (eccCheck s i a p tags).2 := by
  have hlog (u v : State) (huv : KeepsCpt u v) (k b : Nat) : KeepsCpt u (queueScrub (eccLog v k b a p) a) :=
    (huv.trans (keepsCpt_eccLog v k b a p)).trans (keepsCpt_queueScrub _ a)
  have htag : KeepsCpt s (if tags && upsetAt s (tagUpsetKey a) = .tag && (targetOf a).tagged then
      queueScrub (eccLog (countCe s i) 1 0 a p) a else s) := by
    split
    · exact hlog s _ (keepsCpt_countCe s hi) 1 0
    · exact .refl s
  unfold eccCheck
  dsimp only
  split
  · exact htag.trans (hlog _ _ (keepsCpt_countCe _ hi) 0 _)
  · exact htag.trans ((keepsCpt_countUe _ hi).trans (keepsCpt_eccLog _ 2 0 a p))
  · exact htag

theorem array_lt (a : Nat) : (targetOf a).array.getD 0 < 88 := by
  unfold Target.array
  split
  · next st b h =>
    have h1 := targetOf_shared h
    have h2 : b < 4 := by
      unfold targetOf at h
      split at h
      · simp only [Target.shared.injEq] at h
        omega
      · repeat' split at h
        all_goals simp at h
    simp only [Option.getD_some]
    omega
  · next n h =>
    have := targetOf_sp (.inl h)
    simp only [Option.getD_some]
    omega
  · next n h =>
    have := targetOf_sp (.inr h)
    simp only [Option.getD_some]
    omega
  · next n h =>
    have := (targetOf_aeRam h).2
    simp only [Option.getD_some]
    omega
  · simp

theorem keepsCpt_ownCheck (s : State) (a : Nat) {p : Nat} (hp : unitPort p) (hp' : p < 0x100) : KeepsCpt s (ownCheck s a p) := by
  have hown : KeepsCpt s (arrayOwn s a p).2.2 := by
    have hbeat := keepsCpt_beaten hp' (beaten_beat s a hp false true)
    unfold arrayOwn
    dsimp only
    split
    · exact .refl s
    · split
      · exact hbeat.trans (keepsCpt_eccCheck _ (array_lt a) a p true)
      · exact hbeat.trans (keepsCpt_eccCheck _ (array_lt a) a p true)
  unfold ownCheck
  dsimp only
  split
  · exact hown.trans (keepsCpt_parts (fresh_sameBut _) (by decide))
  · exact hown

theorem keepsCpt_ownChecks (s : State) (a n : Nat) {p : Nat} (hp : unitPort p) (hp' : p < 0x100) : KeepsCpt s (ownChecks s a n p) :=
  KeepsCpt.foldl (List.range n) (fun t i _ => keepsCpt_ownCheck t (a + i) hp hp') s

theorem keepsCpt_slotLockv (s : State) {n : Nat} (hn : n < 128) : KeepsCpt s (slotLockv s n) := by
  have : slotSts n / 0x10000 = 0x4005 := by simp only [slotSts, aeSlotsts, engOf, locOf]; omega
  exact keepsCpt_wb s _ _ (by simp [this, cptUnits])

theorem aeCqsts_unit {e : Nat} (he : e < 8) : aeCqsts e / 0x10000 ∈ cptUnits := by
  have : aeCqsts e / 0x10000 = 0x4005 := by simp only [aeCqsts]; omega
  simp [this, cptUnits]

theorem keepsCpt_coefEnter (s : State) {e : Nat} (he : e < 8) (off : Nat) (v : Word) : KeepsCpt s (coefEnter s e off v).2 := by
  have hset (q : List (Nat × Word)) : KeepsCpt s (setCoefQ s e q) := by
    have hae : SameBut [.ae] s { s with ae := { s.ae with coefq := tset [] s.ae.coefq e q } } := by
      intro p hp; cases p <;> simp [Part.same] at hp ⊢
    exact (keepsCpt_parts hae (by decide)).trans (keepsCpt_wf _ _ _ (aeCqsts_unit he))
  unfold coefEnter
  dsimp only
  split
  · exact hset _
  · split
    · exact keepsCpt_inc s _ 1 (aeCqsts_unit he)
    · exact hset _

theorem keepsCpt_ramWr (s : State) (n off : Nat) (v : Word) : KeepsCpt s (ramWr s n off v) := by
  have hmem : KeepsCpt s (memWr s (ramAddr (engOf n) (off % 0x2000)) v) := keepsCpt_parts (mem_sameBut s _) (by decide)
  unfold ramWr
  dsimp only
  split
  · exact hmem
  · exact hmem.trans (keepsCpt_msys _ _)

theorem liveSlots_lt {s : State} {e n : Nat} (he : e < 8) (h : n ∈ liveSlots s e) : n < 128 := by
  obtain ⟨h, -⟩ := List.mem_filter.1 h
  obtain ⟨j, hj, rfl⟩ := List.mem_map.1 h
  have := List.mem_range.1 hj
  omega

theorem keepsCpt_aeRamWrite (s : State) {e : Nat} (he : e < 8) (off : Nat) (v : Word) : KeepsCpt s (aeRamWrite s e off v).2 := by
  unfold aeRamWrite
  split
  · exact keepsCpt_slotLockv s (by omega)
  · split
    · next n l hl =>
      refine KeepsCpt.foldl _ (fun t m hm => keepsCpt_slotLockv t (liveSlots_lt (s := s) he ?_)) s
      exact List.mem_of_mem_filter (hl ▸ hm)
    · split
      · next n hn =>
        split
        · exact keepsCpt_slotLockv s (liveSlots_lt he (List.mem_of_find?_eq_some hn))
        · exact keepsCpt_coefEnter s he off v
      · exact keepsCpt_ramWr s _ _ v

theorem keepsCpt_ownStore (s : State) (a : Nat) {p : Nat} (hp : unitPort p) (hp' : p < 0x100) (v : Word) : KeepsCpt s (ownStore s a p v) := by
  have hbeat := keepsCpt_beaten hp' (beaten_beat s a hp true true)
  unfold ownStore arrayWrite
  dsimp only
  split
  · exact .refl s
  · split
    · next e he => exact hbeat.trans (keepsCpt_aeRamWrite _ (targetOf_aeRam he).2 _ _)
    · exact hbeat.trans (keepsCpt_parts (putWord_sameBut _ a v) (by decide))

/-! The command port's buffers. -/

theorem cpt_sameBut (s : State) (c : Cpt) : SameBut [.cpt] s { s with cpt := c } := by
  intro p hp; cases p <;> simp [Part.same] at hp ⊢

theorem keepsCpt_cpt (s : State) (c : Cpt) : KeepsCpt s { s with cpt := c } := keepsCpt_parts (cpt_sameBut s c) (by decide)

theorem cptRq_unit {r : Nat} (hr : r < 13) : cptRq r / 0x10000 ∈ cptUnits := by
  have : cptRq r / 0x10000 = 0x400C := by simp only [cptRq]; omega
  simp [this, cptUnits]

theorem cptBuf_unit {b : Nat} (hb : b < 64) : cptBuf b / 0x10000 ∈ cptUnits := by
  have : cptBuf b / 0x10000 = 0x400C := by simp only [cptBuf]; omega
  simp [this, cptUnits]

theorem keepsCpt_cptSync (s : State) : KeepsCpt s (cptSync s) := by
  have hq : cptQhead / 0x10000 ∈ cptUnits := by decide
  have hheld : KeepsCpt s (forN 13 (wf s cptSts cptStsFREEG (freeGeneral s).length) (fun t r => wf t (cptRq r) cptRqHELD (heldBy t r))) :=
    (keepsCpt_wf s _ _ (by decide)).trans (KeepsCpt.foldl (List.range 13) (fun t _ hr => keepsCpt_wf t _ _ (cptRq_unit (List.mem_range.1 hr))) _)
  unfold cptSync
  dsimp only
  split
  · exact hheld.trans (((keepsCpt_wb _ _ _ hq).trans (keepsCpt_wf _ _ _ hq)).trans (keepsCpt_wf _ _ _ hq))
  · exact hheld.trans (keepsCpt_wr _ _ hq)

theorem keepsCpt_setBufState (s : State) {b : Nat} (hb : b < 64) (st : Nat) : KeepsCpt s (setBufState s b st) := by
  unfold setBufState
  split
  · exact ((keepsCpt_wr s _ (cptBuf_unit hb)).trans (keepsCpt_cpt _ _)).trans (keepsCpt_cptSync _)
  · exact (keepsCpt_wf s _ _ (cptBuf_unit hb)).trans (keepsCpt_cptSync _)

theorem keepsCpt_unqueue (s : State) (b : Nat) : KeepsCpt s (unqueue s b) := (keepsCpt_cpt s _).trans (keepsCpt_cptSync _)

theorem unitPort_cpt : unitPort 25 := .inr (by decide)

theorem keepsCpt_copyStart (s : State) (use : HmpUse) (c : CptCopy) : KeepsCpt s (copyStart s use c) := by
  unfold copyStart
  exact List.foldlRecOn (chunks 8 (c.words.length + 1) (c.words.drop 1)) _ (motive := fun a : Nat × State => KeepsCpt s a.2) (.refl s)
    (fun a ha l _ => ha.trans (keepsCpt_parts (hmpReq_sameBut a.2 use true a.1 l.length l false true) (by decide)))

theorem keepsCpt_bufStore (s : State) (b i : Nat) (w : Word) : KeepsCpt s (bufStore s b i w) := keepsCpt_ownStore s _ unitPort_cpt (by decide) w

theorem keepsCpt_cptReplyTo (s : State) (b status detail len : Nat) : KeepsCpt s (cptReplyTo s b status detail len) := by
  have hsts : cptSts / 0x10000 ∈ cptUnits := by decide
  have hnote (u : State) : KeepsCpt u (if status = 5 then inc (wb u cptSts cptStsTIMEOUT true) cptCnt cptCntTIMEOUTS
      else if status = 2 || status = 3 then wb u cptSts cptStsBADPKT true else u) := by
    split
    · exact (keepsCpt_wb u _ _ hsts).trans (keepsCpt_inc _ _ 1 (by decide))
    · split
      · exact keepsCpt_wb u _ _ hsts
      · exact .refl u
  have hstored (w0 w1 : Word) := ((keepsCpt_bufStore s b 0 w0).trans (keepsCpt_bufStore _ b 1 w1)).trans (hnote _)
  unfold cptReplyTo
  dsimp only
  split
  · exact ((hstored _ _).trans (keepsCpt_ownChecks _ _ _ unitPort_cpt (by decide))).trans ((keepsCpt_cpt _ _).trans (keepsCpt_copyStart _ _ _))
  · exact (hstored _ _).trans (keepsCpt_strobe _ 49 _)

theorem keepsCpt_cptFinish (s : State) {b : Nat} (hb : b < 64) (status detail len : Nat) : KeepsCpt s (cptFinish s b status detail len) :=
  ((keepsCpt_unqueue s b).trans (keepsCpt_setBufState _ hb 4)).trans (keepsCpt_cptReplyTo _ b status detail len)

/-- What becomes of a buffer as the interpreter stops (R463). -/
def svenBuf (t : State) (b : Nat) : State :=
  if bufState t b = 2 then cptFinish t b 6 0 0
  else if bufState t b = 3 then
    let u := cptReplyTo (setBufState t b 4) b 5 0 0
    if (bufOf u b).area.isSome then u else setBufState u b 0
  else t

theorem keepsCpt_svenBuf (t : State) {b : Nat} (hb : b < 64) : KeepsCpt t (svenBuf t b) := by
  have hreply := (keepsCpt_setBufState t hb 4).trans (keepsCpt_cptReplyTo _ b 5 0 0)
  unfold svenBuf
  split
  · exact keepsCpt_cptFinish t hb 6 0 0
  · split
    · dsimp only
      split
      · exact hreply
      · exact hreply.trans (keepsCpt_setBufState _ hb 0)
    · exact .refl t

theorem svenClear_eq (s : State) : svenClear s = if !rb s cptCtrl cptCtrlSVEN then s
    else onCpt ((List.range 64).foldl svenBuf (wb s cptCtrl cptCtrlSVEN false)) (fun c => { c with run := none }) := rfl

/-- The interpreter's end reaches no further than the command port and the memories. -/
theorem keepsCpt_svenClear (s : State) : KeepsCpt s (svenClear s) := by
  rw [svenClear_eq]
  split
  · exact .refl s
  · exact ((keepsCpt_wb s _ _ (by decide)).trans
      (KeepsCpt.foldl (List.range 64) (fun t _ hb => keepsCpt_svenBuf t (List.mem_range.1 hb)) _)).trans (keepsCpt_cpt _ _)

end Sys2Proof.Machine

/-! The debug port: its wire, authentication, levels, and the halting of the block (R509 to R519). -/

namespace Sys2Proof.Machine

set_option Elab.async false

/-! Parts and registers that changes of the debug port leave alone. -/

theorem regsBut_onDbg (s : State) (f : Dbg → Dbg) : RegsBut [] s (onDbg s f) := fun _ _ => rfl

theorem rf_onDbg (s : State) (f : Dbg → Dbg) (a : Nat) (g : Fld) : rf (onDbg s f) a g = rf s a g := rfl

theorem rb_onDbg (s : State) (f : Dbg → Dbg) (a : Nat) (g : Fld) : rb (onDbg s f) a g = rb s a g := rfl

theorem dbg_onDbg (s : State) (f : Dbg → Dbg) : (onDbg s f).dbg = f s.dbg := rfl

theorem dbgGrant_onDbg (s : State) (f : Dbg → Dbg) : dbgGrant (onDbg s f) = dbgGrant s := rfl

theorem dpAnswer_sameBut (s : State) (c : Nat) (w : Word) : SameBut [.dbg] s (dpAnswer s c w) := onDbg_sameBut s _

theorem regsBut_dpAnswer (s : State) (c : Nat) (w : Word) : RegsBut [] s (dpAnswer s c w) := fun _ _ => rfl

theorem rnSafe_dpAnswer (s : State) (c : Nat) (w : Word) (p : Nat) : rnSafe (dpAnswer s c w) p = rnSafe s p := rfl

theorem dbg_dpAnswer (s : State) (c : Nat) (w : Word) : (dpAnswer s c w).dbg = { s.dbg with sts := c, data := w } := rfl

theorem unitStrobe_sameBut (s : State) (d n : Nat) : SameBut [.intc] s (unitStrobe s d n) := by
  unfold unitStrobe
  split
  · intro p hp; cases p <;> simp [Part.same, strobe] at hp ⊢
  · exact SameBut.refl _ s

theorem intc_unitStrobe (s : State) (d n : Nat) :
    (unitStrobe s d n).intc = { s.intc with strobes := s.intc.strobes ++ (if pdOn s d then [n] else []) } := by
  unfold unitStrobe
  split
  · rfl
  · rw [List.append_nil]

theorem regsBut_unitStrobe (s : State) (d n : Nat) : RegsBut [] s (unitStrobe s d n) :=
  regsBut_of_sameBut (unitStrobe_sameBut s d n) (by decide) (by decide) (by decide)

theorem pdOn_onDbg (s : State) (d : Nat) (f : Dbg → Dbg) : pdOn (onDbg s f) d = pdOn s d := rfl

/-! The level (R514). -/

/-- Registers of the cores' debug control. -/
def corectlRegs : List Nat := (List.range 10).map dbgCorectl

/-- What resuming stopped cores changes. -/
structure KeepsResume (s t : State) : Prop where
  regs : RegsBut corectlRegs s t
  parts : SameBut [.cores, .regs, .dbg] s t
  dbg : t.dbg = { s.dbg with stops := t.dbg.stops, skip := t.dbg.skip }

theorem KeepsResume.trans {s t u : State} (h : KeepsResume s t) (k : KeepsResume t u) : KeepsResume s u where
  regs := h.regs.and k.regs (fun _ h => h)
  parts := h.parts.trans k.parts
  dbg := by rw [k.dbg, h.dbg]

theorem regsBut_setCore (s : State) (k : Nat) (c : Core) : RegsBut [] s (setCore s k c) := fun _ _ => rfl

/-- The core's stop ends. -/
def unstopped (s : State) (k : Nat) : State :=
  wb (setCore s k { coreOf s k with stopped := false, dbgStep := false }) (dbgCorectl k) dbgCorectlSTOPPED false

theorem unstopped_sameBut (s : State) (k : Nat) : SameBut [.cores, .regs] s (unstopped s k) :=
  ((setCore_sameBut s k _).mono (by decide)).and (wb_sameBut _ _ _ _)

theorem regsBut_unstopped (s : State) (k : Nat) : RegsBut [dbgCorectl k] s (unstopped s k) :=
  ((regsBut_setCore s k _).mono (by simp)).and (regsBut_wb _ _ _ _)

theorem coreResume_eq (s : State) (k : Nat) : coreResume s k =
    onDbg (if (coreOf s k).stopped then unstopped s k else s) (fun d => { d with stops := d.stops.erase k, skip := k :: d.skip.erase k }) := rfl

theorem keepsResume_coreResume (s : State) {k : Nat} (hk : k < 10) : KeepsResume s (coreResume s k) := by
  have hmem : dbgCorectl k ∈ corectlRegs := List.mem_map_of_mem (List.mem_range.2 hk)
  have hstop : RegsBut corectlRegs s (if (coreOf s k).stopped then unstopped s k else s) ∧
      SameBut [.cores, .regs] s (if (coreOf s k).stopped then unstopped s k else s) := by
    split
    · exact ⟨(regsBut_unstopped s k).mono (by simpa using hmem), unstopped_sameBut s k⟩
    · exact ⟨RegsBut.refl _ s, SameBut.refl _ s⟩
  rw [coreResume_eq]
  generalize (if (coreOf s k).stopped then unstopped s k else s) = u at hstop
  obtain ⟨hr, hp⟩ := hstop
  have hd : u.dbg = s.dbg := hp .dbg (by decide)
  exact ⟨hr.and (regsBut_onDbg u _), (hp.mono (by decide)).and (onDbg_sameBut u _), by rw [dbg_onDbg, hd]⟩

theorem keepsResume_resumeAll (s : State) : KeepsResume s (resumeAll s) :=
  List.foldlRecOn (List.range 10) coreResume (motive := KeepsResume s) ⟨RegsBut.refl _ s, SameBut.refl _ s, rfl⟩
    (fun t ht _ hk => ht.trans (keepsResume_coreResume t (List.mem_range.1 hk)))

theorem haltEnd_eq (s : State) : haltEnd s = driveSync (unhalted s) := rfl

theorem dbg_haltEnd (s : State) : (haltEnd s).dbg = { s.dbg with src := false, wait := none, stepTo := none } :=
  driveSync_sameBut (unhalted s) .dbg (by decide)

theorem halted_haltEnd (s : State) : (haltEnd s).halted = false := driveSync_sameBut (unhalted s) .halted (by decide)

theorem running_haltEnd (s : State) : (haltEnd s).running = (s.running || (s.halted && s.pctl.pll && !s.pctl.lol)) :=
  driveSync_sameBut (unhalted s) .running (by decide)

theorem sig_haltEnd (s : State) : (haltEnd s).sig = { s.sig with traces := (haltEnd s).sig.traces } := sig_driveSync (unhalted s)

theorem regsBut_haltEnd (s : State) : RegsBut driveRegs s (haltEnd s) :=
  ((regsBut_unhalted s).mono (fun _ h => (nomatch h))).and (regsBut_driveSync _) (fun _ h => h)

theorem haltEnd_sameBut (s : State) : SameBut [.dbg, .halted, .running, .regs, .cvp, .sig] s (haltEnd s) :=
  ((unhalted_sameBut s).mono (by decide)).and (driveSync_sameBut _)

theorem levelCheck_full {s : State} (h : 2 ≤ dbgLevel s) : levelCheck s = s := by
  rw [levelCheck, if_neg (by omega)]

theorem levelCheck_low {s : State} (h : dbgLevel s < 2) : levelCheck s = haltEnd (resumeAll s) := by
  rw [levelCheck, if_pos h]

/-- Below FULL no halt goes on; what was granted and authenticated stays as it is. -/
theorem levelCheck_low_result {s : State} (h : dbgLevel s < 2) :
    (levelCheck s).halted = false ∧ (levelCheck s).dbg.src = false ∧ (levelCheck s).dbg.auth = s.dbg.auth ∧ (levelCheck s).dbg.cap = s.dbg.cap ∧
    ∀ f, rf (levelCheck s) dbgCtrl f = rf s dbgCtrl f := by
  have hr := keepsResume_resumeAll s
  rw [levelCheck_low h]
  refine ⟨halted_haltEnd _, ?_, ?_, ?_, fun f => ?_⟩
  · rw [dbg_haltEnd]
  · rw [dbg_haltEnd, hr.dbg]
  · rw [dbg_haltEnd, hr.dbg]
  · rw [(regsBut_haltEnd _).rf_eq (by decide), hr.regs.rf_eq (by decide)]

theorem dbgLevel_eq (s : State) : dbgLevel s = min (max s.dbg.auth (dbgGrant s)) (dbgCap s) := rfl

theorem dbgCap_of_two {s : State} (h : s.dbg.cap = 2) : dbgCap s = 2 := by rw [dbgCap, h]; rfl

theorem dbgCap_low {s : State} {c : BitVec 2} (h : s.dbg.cap = c.toNat) (hc : c ≠ 2) : dbgCap s < 2 := by
  have key : ∀ c : BitVec 2, c ≠ 2 → (if c.toNat = 3 then 0 else c.toNat) < 2 := by decide
  rw [dbgCap, h]
  exact key c hc

/-! Registers of the port. -/

theorem dpWrite_open {s : State} {idx : Nat} (h : dpGate s idx true = none) (v : Word) : dpWrite s idx v =
    if idx = 1 then dpAnswer (dpPower s v) dpReady
    else if idx = 3 then dpAnswer (dpAbort s v) dpReady
    else if idx = 7 then dpAnswer (dpAuth s v) dpReady
    else if 8 ≤ idx && idx ≤ 0xD then
      dpAnswer (onDbg s (fun d => { d with resp := (idx - 8, v) :: d.resp.filter (fun p => p.1 != idx - 8) })) dpReady
    else if idx = 0x10 then dpAnswer (dpHaltWrite s v) dpReady
    else if idx = 0x18 then dpMaddrWrite s v
    else if idx = 0x19 then dpMdataWrite s v
    else if idx = 0x1C then dpVtWrite s v
    else dpAnswer s dpReady := by
  unfold dpWrite
  rw [h]

theorem dpGate_power {s : State} (h : s.dbg.wchk = false ∧ s.dbg.memerr = false) : dpGate s 1 true = none := by
  simp [dpGate, dpListed, dpGated, dpLevel, h.1, h.2]

theorem dpGate_abort (s : State) : dpGate s 3 true = none := by simp [dpGate, dpListed, dpGated, dpLevel]

theorem dpGate_stat (s : State) : dpGate s 2 false = none := by simp [dpGate, dpListed, dpGated, dpLevel]

theorem dpRead_stat (s : State) : dpRead s 2 = dpAnswer s dpReady (dpStat s) := by
  unfold dpRead
  rw [dpGate_stat]
  rfl

theorem dpMaddrWrite_idle {s : State} (h : accBusy s = false) (v : Word) :
    dpMaddrWrite s v = dpAnswer (onDbg s (fun d => { d with maddr := v, acc := 0 })) dpReady := by
  rw [dpMaddrWrite, h]
  rfl

theorem dpWrite_maddr {s : State} (h : dpGate s 0x18 true = none) (hb : accBusy s = false) (v : Word) :
    dpWrite s 0x18 v = dpAnswer (onDbg s (fun d => { d with maddr := v, acc := 0 })) dpReady := by
  rw [dpWrite_open h, ← dpMaddrWrite_idle hb]
  rfl

/-- A result of a write in which only the port itself changes. -/
theorem dpWrite_port {i : Instr} {s : State} {idx : Nat} {v : Word} {f : Dbg → Dbg} (hex : exec i s = .next (dpWrite s idx v))
    (h : dpWrite s idx v = dpAnswer (onDbg s f) dpReady) :
    Runs i s (fun t => t.dbg = { f s.dbg with sts := 0xC, data := 0 } ∧ SameBut [.dbg] s t) :=
  ⟨_, hex, by rw [h, dbg_dpAnswer, dbg_onDbg]; rfl, by rw [h]; exact (onDbg_sameBut s f).and (dpAnswer_sameBut _ _ _)⟩

/-! The wire (R510, R511). -/

theorem stux_lost {s : State} {h : BitVec 12} {w : Word} {c : BitVec 8} (hs : s.dbg.sync = false ∨ stuxOk h = false) :
    Runs (.stuxTransaction h w c) s (fun t => t.dbg = { s.dbg with sync := false, sts := 0xF, data := 0 } ∧ SameBut [.dbg] s t) := by
  have hex : exec (.stuxTransaction h w c) s = .next (dpAnswer (onDbg s (fun x => { x with sync := false })) 0xF) := by
    show execStuxTransaction h w c s = _
    rw [execStuxTransaction, if_pos (by rcases hs with hs | hs <;> simp [hs])]
    rfl
  exact ⟨_, hex, rfl, (onDbg_sameBut s _).and (dpAnswer_sameBut _ _ _)⟩

theorem stux_exec {s : State} {h : BitVec 12} {w : Word} {c : BitVec 8} (hs : s.dbg.sync = true) (hok : stuxOk h = true) :
    exec (.stuxTransaction h w c) s = .next (
      if !h.getLsbD 7 then dpRead s (h.toNat / 2 % 64)
      else if crc8 w = c.toNat then dpWrite s (h.toNat / 2 % 64) w
      else if (dpWrite s (h.toNat / 2 % 64) w).dbg.sts = dpReady then dpAnswer (onDbg s (fun x => { x with wchk := true })) dpReady
      else dpWrite s (h.toNat / 2 % 64) w) := by
  show execStuxTransaction h w c s = _
  rw [execStuxTransaction, if_neg (by simp [hs, hok])]
  dsimp only [ok]
  split
  · rfl
  · split <;> rfl

theorem stux_stat {s : State} {h : BitVec 12} {w : Word} {c : BitVec 8} (hs : s.dbg.sync = true) (hok : stuxOk h = true)
    (hi : h.toNat / 2 % 64 = 2) (hr : h.getLsbD 7 = false) :
    Runs (.stuxTransaction h w c) s (fun t => t.dbg = { s.dbg with sts := 0xC, data := dpStat s } ∧ SameBut [.dbg] s t) := by
  refine ⟨_, stux_exec hs hok, ?_⟩
  rw [hr, if_pos (by rfl), hi, dpRead_stat]
  exact ⟨rfl, dpAnswer_sameBut s _ _⟩

theorem stux_maddr {s : State} {h : BitVec 12} {w : Word} {c : BitVec 8} (hs : s.dbg.sync = true) (hok : stuxOk h = true)
    (hi : h.toNat / 2 % 64 = 0x18) (hr : h.getLsbD 7 = true) (hg : dpGate s 0x18 true = none) (hb : accBusy s = false) :
    (crc8 w = c.toNat → Runs (.stuxTransaction h w c) s (fun t => t.dbg = { s.dbg with maddr := w, acc := 0, sts := 0xC, data := 0 } ∧
      SameBut [.dbg] s t)) ∧
    (crc8 w ≠ c.toNat → Runs (.stuxTransaction h w c) s (fun t => t.dbg = { s.dbg with wchk := true, sts := 0xC, data := 0 } ∧
      SameBut [.dbg] s t)) := by
  have hw := dpWrite_maddr hg hb w
  have hread : ¬ ((!h.getLsbD 7) = true) := by simp [hr]
  refine ⟨fun hcrc => ⟨_, stux_exec hs hok, ?_⟩, fun hcrc => ⟨_, stux_exec hs hok, ?_⟩⟩
  · rw [if_neg hread, if_pos hcrc, hi, hw]
    exact ⟨rfl, (onDbg_sameBut s _).and (dpAnswer_sameBut _ _ _)⟩
  · rw [if_neg hread, if_neg hcrc, hi, hw, if_pos (by rfl)]
    exact ⟨rfl, (onDbg_sameBut s _).and (dpAnswer_sameBut _ _ _)⟩

/-! Power requests (R512). -/

theorem dpPower_result {i : Instr} {s : State} {d : Nat} {v : Word} (hex : exec i s = .next (dpWrite s 1 v))
    (hv : dpPower s v = pdRequest s d 1) (hsticky : s.dbg.wchk = false ∧ s.dbg.memerr = false) (hseq : s.pctl.seq = 0)
    (hrun : pdRun s d = PdRun.idle) (hst : pdState s d = 0) (hdep : depRefuses s d 1 = false) :
    Runs i s (fun t => (t.dbg.sts = 0xC ∧ t.dbg.data = 0) ∧ pdRun t d = ⟨1, 1, 0, 0⟩ ∧ rb t (pctlPd d) pctlPdBUSY = true ∧
      RegsBut [pctlPd d] s t ∧ SameBut [.regs, .pctl, .dbg] s t) := by
  have hw : dpWrite s 1 v = dpAnswer (setPdRun (pdStarted s d 1) d { pdRun s d with op := 1, ph := 1 }) dpReady := by
    rw [dpWrite_open (dpGate_power hsticky), if_pos rfl, hv, pdRequest_idle hrun hseq (by decide), if_neg (by simp), hst, if_neg (by decide),
      hdep, if_neg (by simp), pdStart_off hst]
  refine ⟨_, hex, ?_⟩
  rw [hw, hrun]
  refine ⟨⟨rfl, rfl⟩, ?_, ?_, ((regsBut_pdStarted s d 1).and (regsBut_setPdRun _ _ _)).and (regsBut_dpAnswer _ _ _),
    (((pdStarted_sameBut s d 1).and (setPdRun_sameBut _ _ _)).mono (by decide)).and (dpAnswer_sameBut _ _ _)⟩
  · exact (pdRun_congr (dpAnswer_sameBut _ dpReady 0 .pctl (by decide)) d).trans (pdRun_setPdRun_same _ d _)
  · rw [(regsBut_dpAnswer _ dpReady 0).rb_eq (by simp), rb_setPdRun]
    exact rb_busy_pdStarted s d 1

theorem dpPower_port (s : State) : dpPower s 1 = pdRequest s 53 1 := by
  unfold dpPower
  dsimp only
  rw [if_neg (by decide), if_pos (by decide)]

theorem dpPower_trace (s : State) : dpPower s 2 = pdRequest s 55 1 := by
  unfold dpPower
  dsimp only
  rw [if_pos (by decide), if_neg (by decide)]

/-! Authentication (R515). -/

theorem dpWrite_auth {s : State} (h : dpGate s 7 true = none) (v : Word) : dpWrite s 7 v = dpAnswer (dpAuth s v) dpReady := by
  rw [dpWrite_open h]
  rfl

theorem dpChal_new {s : State} (h : s.dbg.lock = none) : dpChal s =
    onDbg (jtsecRead s).2 (fun d => { d with chalCnt := d.chalCnt + 1, chal := [d.chalCnt + 1, btime s, (jtsecRead s).1], chalOk := true }) := by
  rw [dpChal, h]
  rfl

theorem jtsecRead_sameBut (s : State) : SameBut [.dm] s (jtsecRead s).2 := dm_sameBut s _

theorem dpChal_result {s : State} (h : dpGate s 7 true = none) (hl : s.dbg.lock = none) :
    Runs .dpChal s (fun t => (t.dbg.sts = 0xC ∧ t.dbg.data = 0) ∧ t.dbg.chalOk = true ∧ t.dbg.chalCnt = s.dbg.chalCnt + 1 ∧
      t.dbg.chal = [s.dbg.chalCnt + 1, btime s, BitVec.ofNat 48 s.dm.jtSec] ∧ SameBut [.dbg, .dm] s t) := by
  have hex : exec .dpChal s = .next (dpAnswer (dpAuth s 1) dpReady) := by rw [← dpWrite_auth h]; rfl
  refine ⟨_, hex, ?_⟩
  have hauth : dpAuth s 1 = dpChal s := rfl
  rw [hauth, dpChal_new hl]
  exact ⟨⟨rfl, rfl⟩, rfl, rfl, rfl, (((jtsecRead_sameBut s).mono (by decide)).and (onDbg_sameBut _ _)).and (dpAnswer_sameBut _ _ _)⟩

theorem dpChal_locked {s : State} {p : Nat} (h : dpGate s 7 true = none) (hl : s.dbg.lock = some p) :
    Runs .dpChal s (fun t => t.dbg = { s.dbg with sts := 0xC, data := 0 } ∧ SameBut [.dbg] s t) := by
  have hex : exec .dpChal s = .next (dpAnswer (dpAuth s 1) dpReady) := by rw [← dpWrite_auth h]; rfl
  have hauth : dpAuth s 1 = s := by
    show dpChal s = s
    rw [dpChal, hl]
    rfl
  refine ⟨_, hex, ?_⟩
  rw [hauth]
  exact ⟨rfl, dpAnswer_sameBut s _ _⟩

theorem dpCheck_auth (s : State) (req : BitVec 2) : dpAuth s (BitVec.ofNat 48 (req.toNat * 4 + 2)) = dpCheck s req.toNat := by
  have key : ∀ r : BitVec 2, (BitVec.ofNat 48 (r.toNat * 4 + 2)).toNat % 4 = 2 ∧ (BitVec.ofNat 48 (r.toNat * 4 + 2)).toNat / 4 % 4 = r.toNat := by decide
  obtain ⟨h1, h2⟩ := key req
  unfold dpAuth
  rw [h1, h2]
  rfl

theorem dpCheck_result {s : State} (h : dpGate s 7 true = none) (req : BitVec 2) :
    Runs (.dpCheck req) s (fun t => t.dbg = { s.dbg with check := some (req.toNat, s.port), sts := 0xC, data := 0 } ∧ SameBut [.dbg] s t) :=
  dpWrite_port (f := fun d => { d with check := some (req.toNat, s.port) }) rfl (by rw [dpWrite_auth h, dpCheck_auth]; rfl)

theorem dpDrop_exec {s : State} (h : dpGate s 7 true = none) :
    exec .dpDrop s = .next (dpAnswer (levelCheck (onDbg s (fun d => { d with auth := 0 }))) dpReady) := by
  have hw := dpWrite_auth h 3
  show Host.Outcome.next (dpWrite s 7 3) = _
  rw [hw]
  rfl

theorem dpDrop_full {s : State} (h : dpGate s 7 true = none) (hg : dbgGrant s = 2) (hc : dbgCap s = 2) :
    Runs .dpDrop s (fun t => t.dbg = { s.dbg with auth := 0, sts := 0xC, data := 0 } ∧ SameBut [.dbg] s t) := by
  have hlvl : 2 ≤ dbgLevel (onDbg s (fun d => { d with auth := 0 })) := by
    have hcap : dbgCap (onDbg s (fun d => { d with auth := 0 })) = 2 := hc
    rw [dbgLevel_eq, dbgGrant_onDbg, hg, hcap]
    simp
  refine ⟨_, dpDrop_exec h, ?_⟩
  rw [levelCheck_full hlvl]
  exact ⟨rfl, (onDbg_sameBut s _).and (dpAnswer_sameBut _ _ _)⟩

theorem dpDrop_low {s : State} (h : dpGate s 7 true = none) (hg : dbgGrant s < 2) :
    Runs .dpDrop s (fun t => (t.dbg.sts = 0xC ∧ t.dbg.data = 0) ∧ t.dbg.auth = 0 ∧ t.halted = false ∧ t.dbg.src = false) := by
  have hlvl : dbgLevel (onDbg s (fun d => { d with auth := 0 })) < 2 := by
    rw [dbgLevel_eq, dbgGrant_onDbg, dbg_onDbg]
    simp only [Nat.zero_max]
    omega
  obtain ⟨hhalt, hsrc, hauth, -, -⟩ := levelCheck_low_result hlvl
  refine ⟨_, dpDrop_exec h, ?_⟩
  rw [dbg_onDbg] at hauth
  generalize levelCheck (onDbg s (fun d => { d with auth := 0 })) = u at hhalt hsrc hauth
  exact ⟨⟨rfl, rfl⟩, hauth, hhalt, hsrc⟩

/-- The response words that the debugger has written. -/
def respWords (s : State) : List Word := (List.range 6).map (fun j => (s.dbg.resp.find? (fun x => x.1 == j)).elim (0 : Word) (·.2))

/-- The check finds the response that the challenge asks for. -/
def checkGood (s : State) (p : Nat) : Prop := (p = 1 ∨ p = 2) ∧ keyOk s = true ∧ s.dbg.chalOk = true ∧ respWords s = authExpected s p

/-- The check ends, and its interrupt is raised. -/
def checkEnded (s : State) : State := unitStrobe (onDbg s (fun d => { d with check := none, chalOk := false })) 53 483

theorem authCheckDone_exec {s : State} {p p0 : Nat} (hc : s.dbg.check = some (p, p0)) (hrun : s.running = true) :
    (checkGood s p → exec .authCheckDone s = .next (levelCheck (onDbg (checkEnded s) (fun d => { d with auth := p })))) ∧
    (¬ checkGood s p → exec .authCheckDone s = .next (onDbg (checkEnded s) (fun d => { d with fails := min 255 (d.fails + 1), lock := some s.port }))) := by
  have hgood : checkGood s p ↔ ((p == 1 || p == 2) && keyOk s && s.dbg.chalOk && respWords s == authExpected s p) = true := by
    simp [checkGood, and_assoc]
  have hex : exec .authCheckDone s = .next (if (p == 1 || p == 2) && keyOk s && s.dbg.chalOk && respWords s == authExpected s p then
      levelCheck (onDbg (checkEnded s) (fun d => { d with auth := p }))
      else onDbg (checkEnded s) (fun d => { d with fails := min 255 (d.fails + 1), lock := some s.port })) := by
    show execAuthCheckDone s = _
    rw [execAuthCheckDone, hc]
    dsimp only
    rw [onlyIf, hrun, if_pos rfl]
    rfl
  refine ⟨fun h => ?_, fun h => ?_⟩
  · rw [hex, if_pos (hgood.1 h)]
  · rw [hex, if_neg (fun hb => h (hgood.2 hb))]

theorem checkEnded_sameBut (s : State) : SameBut [.dbg, .intc] s (checkEnded s) :=
  ((onDbg_sameBut s _).mono (by decide)).and (unitStrobe_sameBut _ _ _)

theorem dbg_checkEnded (s : State) : (checkEnded s).dbg = { s.dbg with check := none, chalOk := false } := unitStrobe_sameBut _ 53 483 .dbg (by decide)

theorem intc_checkEnded (s : State) : (checkEnded s).intc = { s.intc with strobes := s.intc.strobes ++ (if pdOn s 53 then [483] else []) } :=
  intc_unitStrobe _ 53 483

theorem intc_onDbg (s : State) (f : Dbg → Dbg) : (onDbg s f).intc = s.intc := rfl

theorem authCheckDone_good {s : State} {p p0 : Nat} (hc : s.dbg.check = some (p, p0)) (hrun : s.running = true) (hg : checkGood s p) (hp : p = 2)
    (hcap : dbgCap s = 2) :
    Runs .authCheckDone s (fun t => t.dbg = { s.dbg with check := none, chalOk := false, auth := p } ∧
      t.intc = { s.intc with strobes := s.intc.strobes ++ (if pdOn s 53 then [483] else []) } ∧ SameBut [.dbg, .intc] s t) := by
  have hlvl : 2 ≤ dbgLevel (onDbg (checkEnded s) (fun d => { d with auth := p })) := by
    have hcap' : dbgCap (onDbg (checkEnded s) (fun d => { d with auth := p })) = 2 := by
      rw [dbgCap, dbg_onDbg, dbg_checkEnded]
      exact hcap
    rw [dbgLevel_eq, dbg_onDbg, hcap']
    subst hp
    exact le_min (le_max_left _ _) (le_refl _)
  refine ⟨_, (authCheckDone_exec hc hrun).1 hg, ?_⟩
  rw [levelCheck_full hlvl]
  exact ⟨by rw [dbg_onDbg, dbg_checkEnded], by rw [intc_onDbg, intc_checkEnded], (checkEnded_sameBut s).and (onDbg_sameBut _ _)⟩

theorem authCheckDone_bad {s : State} {p p0 : Nat} (hc : s.dbg.check = some (p, p0)) (hrun : s.running = true) (hg : ¬ checkGood s p) :
    Runs .authCheckDone s (fun t => t.dbg = { s.dbg with
        check := none, chalOk := false, fails := min 255 (s.dbg.fails + 1), lock := some s.port } ∧
      t.intc = { s.intc with strobes := s.intc.strobes ++ (if pdOn s 53 then [483] else []) } ∧ SameBut [.dbg, .intc] s t) :=
  ⟨_, (authCheckDone_exec hc hrun).2 hg, by rw [dbg_onDbg, dbg_checkEnded], by rw [intc_onDbg, intc_checkEnded],
    (checkEnded_sameBut s).and (onDbg_sameBut _ _)⟩

theorem authLockoutExpiry_result {s : State} {p : Nat} (hl : s.dbg.lock = some p) (hp : p + 12 * 2 ^ 20 ≤ s.port) :
    Runs .authLockoutExpiry s (fun t => t.dbg = { s.dbg with lock := none } ∧ SameBut [.dbg] s t) := by
  have hex : exec .authLockoutExpiry s = .next (onDbg s (fun d => { d with lock := none })) := by
    show execAuthLockoutExpiry s = _
    rw [execAuthLockoutExpiry, hl]
    dsimp only
    rw [onlyIf, if_pos (by simp; omega)]
  exact ⟨_, hex, rfl, onDbg_sameBut s _⟩

/-! Levels and keys (R514, R516). -/

theorem dbgcapChange_exec (s : State) (c : BitVec 2) :
    exec (.dbgcapChange c) s = .next (levelCheck (onDbg s (fun d => { d with cap := c.toNat }))) := rfl

theorem dbgcapChange_full {s : State} (h : 2 ≤ max s.dbg.auth (dbgGrant s)) :
    Runs (.dbgcapChange 2) s (fun t => t.dbg = { s.dbg with cap := 2 } ∧ SameBut [.dbg] s t) := by
  have hlvl : 2 ≤ dbgLevel (onDbg s (fun d => { d with cap := (2 : BitVec 2).toNat })) := by
    rw [dbgLevel_eq, dbgGrant_onDbg, dbg_onDbg, dbgCap_of_two (by rfl)]
    exact le_min h (le_refl _)
  refine ⟨_, dbgcapChange_exec s 2, ?_⟩
  rw [levelCheck_full hlvl]
  exact ⟨rfl, onDbg_sameBut s _⟩

theorem dbgcapChange_low {s : State} {c : BitVec 2} (h : c ≠ 2) :
    Runs (.dbgcapChange c) s (fun t => t.dbg.cap = c.toNat ∧ t.halted = false ∧ t.dbg.src = false) := by
  have hlvl : dbgLevel (onDbg s (fun d => { d with cap := c.toNat })) < 2 := by
    have := dbgCap_low (s := onDbg s (fun d => { d with cap := c.toNat })) rfl h
    rw [dbgLevel_eq]
    omega
  obtain ⟨hhalt, hsrc, -, hcap, -⟩ := levelCheck_low_result hlvl
  exact ⟨_, dbgcapChange_exec s c, hcap, hhalt, hsrc⟩

/-- DBG_CTRL after what a write stores beside GRANT. -/
def ctrlStored (s : State) (q : Req) (v : Word) : State :=
  let t := if q.who = 10 then wb s dbgCtrl dbgCtrlCONSENT (dbgCtrlCONSENT.get v == 1) else s
  if dbgCtrlKEYLOCK.get v = 1 then wb t dbgCtrl dbgCtrlKEYLOCK true else t

theorem dbgCtrlWrite_may {s : State} {q : Req} (hq : holdsType s q otDebug = true) (v : Word) :
    dbgCtrlWrite s q v = respond (levelCheck (wf (ctrlStored s q v) dbgCtrl dbgCtrlGRANT (dbgCtrlGRANT.get v))) 0 := by
  unfold dbgCtrlWrite
  dsimp only
  rw [if_pos hq]
  rfl

theorem ctrlStored_sameBut (s : State) (q : Req) (v : Word) : SameBut [.regs] s (ctrlStored s q v) := by
  have hconsent : SameBut [.regs] s (if q.who = 10 then wb s dbgCtrl dbgCtrlCONSENT (dbgCtrlCONSENT.get v == 1) else s) := by
    split
    · exact wb_sameBut s _ _ _
    · exact SameBut.refl _ s
  unfold ctrlStored
  dsimp only
  split
  · exact hconsent.and (wb_sameBut _ _ _ _)
  · exact hconsent

theorem regsBut_ctrlStored (s : State) (q : Req) (v : Word) : RegsBut [dbgCtrl] s (ctrlStored s q v) := by
  have hconsent : RegsBut [dbgCtrl] s (if q.who = 10 then wb s dbgCtrl dbgCtrlCONSENT (dbgCtrlCONSENT.get v == 1) else s) := by
    split
    · exact regsBut_wb s _ _ _
    · exact RegsBut.refl _ s
  unfold ctrlStored
  dsimp only
  split
  · exact hconsent.and (regsBut_wb _ _ _ _)
  · exact hconsent

theorem rb_keylock_ctrlStored (s : State) (q : Req) {v : Word} (h : dbgCtrlKEYLOCK.get v = 1) : rb (ctrlStored s q v) dbgCtrl dbgCtrlKEYLOCK = true := by
  unfold ctrlStored
  dsimp only
  rw [if_pos h]
  exact rb_wb_same _ _ _ _ rfl

/-- DBG_CTRL as a write leaves it, before the level is followed. -/
def ctrlWritten (s : State) (q : Req) (v : Word) : State := wf (ctrlStored s q v) dbgCtrl dbgCtrlGRANT (dbgCtrlGRANT.get v)

theorem ctrlWritten_sameBut (s : State) (q : Req) (v : Word) : SameBut [.regs] s (ctrlWritten s q v) := (ctrlStored_sameBut s q v).and (wf_sameBut _ _ _ _)

theorem regsBut_ctrlWritten (s : State) (q : Req) (v : Word) : RegsBut [dbgCtrl] s (ctrlWritten s q v) :=
  (regsBut_ctrlStored s q v).and (regsBut_wf _ _ _ _)

theorem rf_grant_ctrlWritten (s : State) (q : Req) (v : Word) : rf (ctrlWritten s q v) dbgCtrl dbgCtrlGRANT = dbgCtrlGRANT.get v := by
  rw [ctrlWritten, rf_wf_same _ _ _ _ rfl]
  exact Nat.mod_eq_of_lt (Fld.get_lt _ _)

theorem dbg_ctrlWritten (s : State) (q : Req) (v : Word) : (ctrlWritten s q v).dbg = s.dbg := ctrlWritten_sameBut s q v .dbg (by decide)

theorem dbgLevel_ctrlWritten (s : State) (q : Req) (v : Word) :
    dbgLevel (ctrlWritten s q v) = min (max s.dbg.auth (if dbgCtrlGRANT.get v = 3 then 0 else dbgCtrlGRANT.get v)) (dbgCap s) := by
  rw [dbgLevel_eq, dbgGrant, rf_grant_ctrlWritten, dbgCap, dbg_ctrlWritten]
  rfl

theorem grant_get (w : Word) (g : BitVec 2) : dbgCtrlGRANT.get (dbgCtrlGRANT.put w g.toNat) = g.toNat :=
  (Fld.get_put _ rfl _ _).trans (Nat.mod_eq_of_lt g.isLt)

theorem dbgGrantWrite_exec {s : State} {q : Req} (hq : holdsType s q otDebug = true) (g : BitVec 2) :
    exec (.dbgGrantWrite q g) s = .next (respond (levelCheck (ctrlWritten s q (dbgCtrlGRANT.put (rd s dbgCtrl) g.toNat))) 0) := by
  show execDbgGrantWrite q g s = _
  rw [execDbgGrantWrite, dbgCtrlWrite_may hq]
  rfl

theorem dbgGrantWrite_full {s : State} {q : Req} (hq : holdsType s q otDebug = true) (hc : dbgCap s = 2) :
    Runs (.dbgGrantWrite q 2) s (fun t => t.resp = ⟨0, 0⟩ ∧ rf t dbgCtrl dbgCtrlGRANT = 2 ∧ RegsBut [dbgCtrl] s t ∧ SameBut [.regs, .resp] s t) := by
  have hget := grant_get (rd s dbgCtrl) 2
  refine ⟨_, dbgGrantWrite_exec hq 2, ?_⟩
  generalize dbgCtrlGRANT.put (rd s dbgCtrl) (2 : BitVec 2).toNat = v at hget
  have hlvl : 2 ≤ dbgLevel (ctrlWritten s q v) := by
    rw [dbgLevel_ctrlWritten, hget, hc]
    exact le_min (le_max_right _ _) (le_refl _)
  rw [levelCheck_full hlvl]
  refine ⟨rfl, ?_, (regsBut_ctrlWritten s q v).and (regsBut_respond _ _ _), ((ctrlWritten_sameBut s q v).mono (by decide)).and (respond_sameBut _ _ _)⟩
  rw [rf_respond, rf_grant_ctrlWritten, hget]
  rfl

theorem dbgGrantWrite_low {s : State} {q : Req} {g : BitVec 2} (hq : holdsType s q otDebug = true) (hg : g.toNat ≠ 2) (ha : s.dbg.auth < 2) :
    Runs (.dbgGrantWrite q g) s (fun t => t.resp = ⟨0, 0⟩ ∧ rf t dbgCtrl dbgCtrlGRANT = g.toNat ∧ t.halted = false ∧ t.dbg.src = false) := by
  have hget := grant_get (rd s dbgCtrl) g
  refine ⟨_, dbgGrantWrite_exec hq g, ?_⟩
  generalize dbgCtrlGRANT.put (rd s dbgCtrl) g.toNat = v at hget
  have hlow : (if g.toNat = 3 then 0 else g.toNat) < 2 := by
    have := g.isLt
    split <;> omega
  have hlvl : dbgLevel (ctrlWritten s q v) < 2 := by
    rw [dbgLevel_ctrlWritten, hget]
    exact lt_of_le_of_lt (min_le_left _ _) (max_lt ha hlow)
  obtain ⟨hhalt, hsrc, -, -, hrf⟩ := levelCheck_low_result hlvl
  have hgrant := (hrf dbgCtrlGRANT).trans ((rf_grant_ctrlWritten s q v).trans hget)
  generalize levelCheck (ctrlWritten s q v) = u at hhalt hsrc hgrant
  exact ⟨rfl, (rf_respond u 0 0 _ _).trans hgrant, hhalt, hsrc⟩

theorem keylock_result {s : State} {q : Req} (hq : holdsType s q otDebug = true) (hl : dbgLevel s = 2) :
    Runs (.keylock q) s (fun t => t.resp = ⟨0, 0⟩ ∧ rb t dbgCtrl dbgCtrlKEYLOCK = true ∧ RegsBut [dbgCtrl] s t ∧ SameBut [.regs, .resp] s t) := by
  have hkey : dbgCtrlKEYLOCK.get (dbgCtrlKEYLOCK.put (rd s dbgCtrl) 1) = 1 := (Fld.get_put _ rfl _ _).trans rfl
  have hgrant : dbgCtrlGRANT.get (dbgCtrlKEYLOCK.put (rd s dbgCtrl) 1) = rf s dbgCtrl dbgCtrlGRANT := Fld.get_put_apart _ _ rfl rfl (by decide) _ _
  have hex : exec (.keylock q) s = .next (respond (levelCheck (ctrlWritten s q (dbgCtrlKEYLOCK.put (rd s dbgCtrl) 1))) 0) := by
    show execKeylock q s = _
    rw [execKeylock, dbgCtrlWrite_may hq]
    rfl
  refine ⟨_, hex, ?_⟩
  generalize dbgCtrlKEYLOCK.put (rd s dbgCtrl) 1 = v at hkey hgrant
  have hlvl : dbgLevel (ctrlWritten s q v) = dbgLevel s := by
    rw [dbgLevel_ctrlWritten, hgrant]
    rfl
  rw [levelCheck_full (hlvl.trans hl).ge]
  refine ⟨rfl, ?_, (regsBut_ctrlWritten s q v).and (regsBut_respond _ _ _), ((ctrlWritten_sameBut s q v).mono (by decide)).and (respond_sameBut _ _ _)⟩
  rw [rb_respond, ctrlWritten, rb_wf_apart _ _ _ _ _ rfl rfl (by decide), rb_keylock_ctrlStored s q hkey]

theorem dbgKeyWrite_open {s : State} {k : Fin 6} {v : Word} (h : rb s dbgCtrl dbgCtrlKEYLOCK = false) :
    Runs (.dbgKeyWrite k v) s (fun t => t.resp = ⟨0, 0⟩ ∧ (k.val, v) ∈ t.dbg.key ∧ SameBut [.dbg, .resp] s t) := by
  have hex : exec (.dbgKeyWrite k v) s =
      .next (respond (onDbg s (fun d => { d with key := (k.val, v) :: d.key.filter (fun p => p.1 != k.val) })) 0) := by
    show execDbgKeyWrite k v s = _
    rw [execDbgKeyWrite, dbgKeyWrite, h]
    rfl
  exact ⟨_, hex, rfl, List.mem_cons_self, ((onDbg_sameBut s _).mono (by decide)).and (respond_sameBut _ _ _)⟩

theorem dbgKeyWrite_locked {s : State} {k : Fin 6} {v : Word} (h : rb s dbgCtrl dbgCtrlKEYLOCK = true) :
    Runs (.dbgKeyWrite k v) s (fun t => t.resp = ⟨0, 0⟩ ∧ SameBut [.resp] s t) := by
  have hex : exec (.dbgKeyWrite k v) s = .next (respond s 0) := by
    show execDbgKeyWrite k v s = _
    rw [execDbgKeyWrite, dbgKeyWrite, h]
    rfl
  exact ⟨_, hex, rfl, respond_sameBut s _ _⟩

/-! Halting (R518, R519). -/

theorem dpWrite_halt {s : State} (h : dpGate s 0x10 true = none) (v : Word) : dpWrite s 0x10 v = dpAnswer (dpHaltWrite s v) dpReady := by
  rw [dpWrite_open h]
  rfl

theorem dpHalt_exec {s : State} (h : dpGate s 0x10 true = none) : exec .dpHalt s = .next (dpAnswer (dpHalt s) dpReady) := by
  show Host.Outcome.next (dpWrite s 0x10 1) = _
  rw [dpWrite_halt h]
  rfl

theorem dpResume_exec {s : State} (h : dpGate s 0x10 true = none) (hh : s.halted = true) : exec .dpResume s = .next (dpAnswer (haltEnd s) dpReady) := by
  have hr : dpResume s = haltEnd s := by rw [dpResume, if_pos hh]
  show Host.Outcome.next (dpWrite s 0x10 2) = _
  rw [dpWrite_halt h, ← hr]
  rfl

theorem dpHalt_refused {s : State} (h : dpGate s 0x10 true = none) (hh : s.halted = false) (hs : s.dbg.src = false) (hrun : s.running = true)
    (hlive : cvpLive s = true) (hc : rb s dbgCtrl dbgCtrlCONSENT = false) :
    Runs .dpHalt s (fun t => t.dbg = { s.dbg with hrefused := true, sts := 0xC, data := 0 } ∧
      t.intc = { s.intc with strobes := s.intc.strobes ++ (if pdOn s 53 then [483] else []) } ∧ SameBut [.dbg, .intc] s t) := by
  have hu : dpHalt s = unitStrobe (onDbg s (fun d => { d with hrefused := true })) 53 483 := by
    unfold dpHalt
    rw [hh, hs, hrun, hlive, hc]
    rfl
  have hdbg : (dpHalt s).dbg = { s.dbg with hrefused := true } := by rw [hu]; exact unitStrobe_sameBut _ 53 483 .dbg (by decide)
  have hintc : (dpHalt s).intc = { s.intc with strobes := s.intc.strobes ++ (if pdOn s 53 then [483] else []) } := by rw [hu]; exact intc_unitStrobe _ 53 483
  have hparts : SameBut [.dbg, .intc] s (dpHalt s) := by
    rw [hu]
    exact ((onDbg_sameBut s _).mono (by decide)).and (unitStrobe_sameBut _ _ _)
  refine ⟨_, dpHalt_exec h, ?_, ?_, hparts.and (dpAnswer_sameBut _ _ _)⟩
  · rw [dbg_dpAnswer, hdbg]
    rfl
  · rw [dpAnswer, intc_onDbg, hintc]

/-- The debug-halt source of R33 becomes active, and the halt waits for the reports of the pairs that were not safe. -/
def haltAsked (s : State) : State :=
  onDbg s (fun d => { d with src := true, wait := some (s.port, (List.range 256).filter (fun p => !rnSafe s p)) })

theorem dpHalt_result {s : State} (h : dpGate s 0x10 true = none) (hh : s.halted = false) (hs : s.dbg.src = false) (hrun : s.running = true)
    (hlive : cvpLive s = false ∨ rb s dbgCtrl dbgCtrlCONSENT = true) :
    Runs .dpHalt s (fun t => (t.dbg.sts = 0xC ∧ t.dbg.data = 0) ∧ t.dbg.src = true ∧
      t.dbg.wait = some (s.port, (List.range 256).filter (fun i => !rnSafe s i)) ∧ (∀ i < 256, rnSafe t i = true) ∧
      t.sig = { s.sig with traces := t.sig.traces } ∧ RegsBut driveRegs s t ∧ SameBut [.dbg, .regs, .cvp, .sig] s t) := by
  have hu : dpHalt s = driveSync (haltAsked s) := by
    unfold dpHalt
    rw [hh, hs, hrun, if_neg (by simp), if_neg (by rcases hlive with hl | hl <;> simp [hl])]
    rfl
  have hsafe : ∀ i < 256, rnSafe (driveSync (haltAsked s)) i = true := rnSafe_driveSync (by simp [driveWant, haltAsked, dbg_onDbg])
  have hdbg : (driveSync (haltAsked s)).dbg = (haltAsked s).dbg := driveSync_sameBut _ .dbg (by decide)
  have hsig := sig_driveSync (haltAsked s)
  have hregs := ((regsBut_onDbg s _).mono (fun _ h => (nomatch h))).and (regsBut_driveSync (haltAsked s)) (fun _ h => h)
  have hparts : SameBut [.dbg, .regs, .cvp, .sig] s (driveSync (haltAsked s)) :=
    ((onDbg_sameBut s _).mono (by decide)).and (driveSync_sameBut (haltAsked s))
  refine ⟨_, dpHalt_exec h, ?_⟩
  rw [hu]
  generalize driveSync (haltAsked s) = u at hsafe hdbg hsig hregs hparts
  refine ⟨⟨rfl, rfl⟩, ?_, ?_, hsafe, hsig, hregs.and (regsBut_dpAnswer u _ _), hparts.and (dpAnswer_sameBut u _ _)⟩
  · rw [dbg_dpAnswer, hdbg]
    rfl
  · rw [dbg_dpAnswer, hdbg]
    rfl

theorem dpResume_result {s : State} (h : dpGate s 0x10 true = none) (hh : s.halted = true) :
    Runs .dpResume s (fun t => (t.dbg.sts = 0xC ∧ t.dbg.data = 0) ∧ t.halted = false ∧ t.dbg.src = false ∧
      t.running = (s.running || (s.pctl.pll && !s.pctl.lol)) ∧ t.sig = { s.sig with traces := t.sig.traces } ∧ RegsBut driveRegs s t ∧
      SameBut [.dbg, .halted, .running, .regs, .cvp, .sig] s t) := by
  have hhalt := halted_haltEnd s
  have hdbg := dbg_haltEnd s
  have hrun := running_haltEnd s
  have hsig := sig_haltEnd s
  have hregs := regsBut_haltEnd s
  have hparts := haltEnd_sameBut s
  refine ⟨_, dpResume_exec h hh, ?_⟩
  generalize haltEnd s = u at hhalt hdbg hrun hsig hregs hparts
  refine ⟨⟨rfl, rfl⟩, hhalt, ?_, ?_, hsig, hregs.and (regsBut_dpAnswer u _ _), hparts.and (dpAnswer_sameBut u _ _)⟩
  · rw [dbg_dpAnswer, hdbg]
  · rw [hh, Bool.true_and] at hrun
    exact hrun

theorem dpStep_result {s : State} (h : dpGate s 0x10 true = none) (hh : s.halted = true) (hrun : s.running = false) (hl : s.pctl.lol = false)
    (n : BitVec 16) :
    Runs (.dpStep n) s (fun t => t.running = true ∧
      t.dbg = { s.dbg with stepTo := some (s.port + (max 1 n.toNat + 3) / 4 * 4), sts := 0xC, data := 0 } ∧ SameBut [.dbg, .running] s t) := by
  have hn := n.isLt
  have h3 : (BitVec.ofNat 48 (n.toNat * 4 + 3)).toNat = n.toNat * 4 + 3 := by
    rw [BitVec.toNat_ofNat]
    exact Nat.mod_eq_of_lt (by omega)
  have hw : dpHaltWrite s (BitVec.ofNat 48 (n.toNat * 4 + 3)) = dpStep s n.toNat := by
    unfold dpHaltWrite
    rw [h3, show (n.toNat * 4 + 3) % 4 = 3 by omega, show (n.toNat * 4 + 3) / 4 % 65536 = n.toNat by omega]
    rfl
  have hs : dpStep s n.toNat = onDbg { s with running := true } (fun d => { d with stepTo := some (s.port + (max 1 n.toNat + 3) / 4 * 4) }) := by
    rw [dpStep, hh, hrun, hl]
    rfl
  have hex : exec (.dpStep n) s = .next (dpAnswer
      (onDbg { s with running := true } (fun d => { d with stepTo := some (s.port + (max 1 n.toNat + 3) / 4 * 4) })) dpReady) := by
    show Host.Outcome.next (dpWrite s 0x10 (BitVec.ofNat 48 (n.toNat * 4 + 3))) = _
    rw [dpWrite_halt h, hw, hs]
  refine ⟨_, hex, rfl, rfl, ?_⟩
  intro p hp; cases p <;> simp [Part.same, dpAnswer, onDbg] at hp ⊢

/-! The running cores halt with the block (R159, R463, R518). -/

/-- The regions of registers that the halting of the cores may write. -/
def haltUnits : List Nat := 0x4001 :: cptUnits

/-- What the halting of the cores keeps: it begins no service and offers nothing. -/
structure KeepsHalt (s t : State) : Prop where
  regs : RegsOut haltUnits s t
  parts : SameBut [.regs, .mem, .tags, .msys, .free, .ae, .cpt, .intc, .ports] s t
  offered : ∀ j, j ∈ t.intc.offered → j ∈ s.intc.offered
  service : ∀ n < 512, ∀ j, inService t n j = true → inService s n j = true

theorem KeepsHalt.refl (s : State) : KeepsHalt s s := ⟨fun _ _ => rfl, SameBut.refl _ s, fun _ h => h, fun _ _ _ h => h⟩

theorem KeepsHalt.trans {s t u : State} (h : KeepsHalt s t) (k : KeepsHalt t u) : KeepsHalt s u where
  regs a ha := (k.regs a ha).trans (h.regs a ha)
  parts := h.parts.trans k.parts
  offered j hj := h.offered j (k.offered j hj)
  service n hn j hj := h.service n hn j (k.service n hn j hj)

theorem inService_of_regsOut {us : List Nat} {s t : State} (h : RegsOut us s t) {n : Nat} (hn : intcSrc n / 0x10000 ∉ us) (j : Nat) :
    inService t n j = inService s n j := by
  rw [inService, inService, h.rb_eq hn, h.rf_eq hn]

theorem keepsHalt_svenClear (s : State) : KeepsHalt s (svenClear s) := by
  have h := keepsCpt_svenClear s
  refine ⟨fun a ha => h.regs a (fun hm => ha (List.mem_cons_of_mem _ hm)), h.parts, fun j hj => by rw [h.intc] at hj; exact hj, fun n hn j hj => ?_⟩
  rwa [inService_of_regsOut h.regs] at hj
  have : intcSrc n / 0x10000 = 0x4001 := by simp only [intcSrc]; omega
  simp [this, cptUnits]

theorem intcSrc_unit {n : Nat} (hn : n < 512) : intcSrc n / 0x10000 ∈ haltUnits := by
  have : intcSrc n / 0x10000 = 0x4001 := by simp only [intcSrc]; omega
  simp [this, haltUnits]

theorem keepsHalt_leaveService (s : State) {n : Nat} (hn : n < 512) : KeepsHalt s (leaveService s n) := by
  refine ⟨.of_regsBut (regsBut_leaveService s n) (by simpa using intcSrc_unit hn), (leaveService_sameBut s n).mono (by decide), fun _ h => h,
    fun m _ j hj => ?_⟩
  by_cases h : m = n
  · rw [h, inService_leaveService_same] at hj
    simp at hj
  · rwa [inService_leaveService_other s h] at hj

theorem withdrawal_sameBut (s : State) (k : Nat) : SameBut [.regs, .intc] s (withdraw s k) := by
  unfold withdraw
  split
  · intro p hp; cases p <;> simp [Part.same] at hp ⊢
  · exact SameBut.refl _ s

theorem regsBut_withdrawal (s : State) (k : Nat) : RegsBut [intcCorests k] s (withdraw s k) := by
  unfold withdraw
  split
  · exact regsBut_wb s _ _ _
  · exact RegsBut.refl _ s

theorem offered_withdraw (s : State) (k j : Nat) : j ∈ (withdraw s k).intc.offered ↔ j ∈ s.intc.offered ∧ j ≠ k := by
  unfold withdraw
  split
  · simp [List.mem_filter]
  · next h =>
    have hk : k ∉ s.intc.offered := by simpa using h
    exact ⟨fun hj => ⟨hj, fun e => hk (e ▸ hj)⟩, fun hj => hj.1⟩

theorem keepsHalt_withdraw (s : State) {k : Nat} (hk : k < 10) : KeepsHalt s (withdraw s k) := by
  have hunit : intcCorests k / 0x10000 = 0x4001 := by simp only [intcCorests]; omega
  refine ⟨.of_regsBut (regsBut_withdrawal s k) (by simp [hunit, haltUnits]), (withdrawal_sameBut s k).mono (by decide),
    fun j hj => ((offered_withdraw s k j).1 hj).1, fun n hn j hj => ?_⟩
  have hne : intcSrc n ∉ [intcCorests k] := by simp only [List.mem_singleton, intcSrc, intcCorests]; omega
  rwa [(regsBut_withdrawal s k).inService_eq hne] at hj

theorem mem_servedBy {s : State} {k n : Nat} : n ∈ servedBy s k ↔ n < 512 ∧ inService s n k = true := by simp [servedBy]

/-- A core that is lost is offered nothing and serves nothing (R159). -/
theorem keepsHalt_intcCoreLost (s : State) {k : Nat} (hk : k < 10) :
    KeepsHalt s (intcCoreLost s k) ∧ k ∉ (intcCoreLost s k).intc.offered ∧ servedBy (intcCoreLost s k) k = [] := by
  have hserve (l : List Nat) : ∀ u, (∀ n ∈ l, n < 512) → KeepsHalt u (l.foldl leaveService u) ∧ ∀ n ∈ l, inService (l.foldl leaveService u) n k = false := by
    induction l with
    | nil => exact fun u _ => ⟨.refl u, fun n hn => absurd hn List.not_mem_nil⟩
    | cons n l ih =>
      intro u hl
      have hn := hl n List.mem_cons_self
      obtain ⟨hkeep, hout⟩ := ih (leaveService u n) (fun m hm => hl m (List.mem_cons_of_mem _ hm))
      refine ⟨(keepsHalt_leaveService u hn).trans hkeep, fun m hm => ?_⟩
      rcases List.mem_cons.1 hm with rfl | hm
      · exact Bool.eq_false_iff.2 (fun hc => by
          have := hkeep.service m hn k hc
          rw [inService_leaveService_same] at this
          simp at this)
      · exact hout m hm
  have hw := keepsHalt_withdraw s hk
  obtain ⟨hkeep, hout⟩ := hserve (servedBy s k) (withdraw s k) (fun n hn => (mem_servedBy.1 hn).1)
  rw [intcCoreLost]
  refine ⟨hw.trans hkeep, fun hm => ((offered_withdraw s k k).1 (hkeep.offered k hm)).2 rfl, ?_⟩
  refine List.eq_nil_iff_forall_not_mem.2 (fun n hn => ?_)
  obtain ⟨hlt, hin⟩ := mem_servedBy.1 hn
  have hs := (hw.trans hkeep).service n hlt k hin
  have hno := hout n (mem_servedBy.2 ⟨hlt, hs⟩)
  rw [hin] at hno
  simp at hno

/-- A core that runs in s halts. -/
def haltCore (s t : State) (k : Nat) : State :=
  if !coreLive s k then t
  else
    let u := intcCoreLost t k
    if k = 8 && pdLive u 49 then svenClear u else u

theorem coresHalt_eq (s : State) : coresHalt s = (List.range 10).foldl (haltCore s) s := rfl

theorem haltCore_of_idle {s t : State} {k : Nat} (h : coreLive s k = false) : haltCore s t k = t := by
  rw [haltCore, h]
  rfl

theorem keepsHalt_haltCore (s t : State) {k : Nat} (hk : k < 10) :
    KeepsHalt t (haltCore s t k) ∧ (coreLive s k = true → k ∉ (haltCore s t k).intc.offered ∧ servedBy (haltCore s t k) k = []) := by
  obtain ⟨hkeep, hoff, hserv⟩ := keepsHalt_intcCoreLost t hk
  unfold haltCore
  dsimp only
  split
  · next h => exact ⟨.refl t, fun hl => by simp [hl] at h⟩
  · split
    · have hclear := keepsHalt_svenClear (intcCoreLost t k)
      refine ⟨hkeep.trans hclear, fun _ => ⟨fun hm => hoff (hclear.offered k hm), List.eq_nil_iff_forall_not_mem.2 (fun n hn => ?_)⟩⟩
      obtain ⟨hlt, hin⟩ := mem_servedBy.1 hn
      have : n ∈ servedBy (intcCoreLost t k) k := mem_servedBy.2 ⟨hlt, hclear.service n hlt k hin⟩
      rw [hserv] at this
      exact List.not_mem_nil this
    · exact ⟨hkeep, fun _ => ⟨hoff, hserv⟩⟩

/-- What is quiet for core k stays quiet. -/
theorem KeepsHalt.quiet {s t : State} (h : KeepsHalt s t) {k : Nat} (hq : k ∉ s.intc.offered ∧ servedBy s k = []) :
    k ∉ t.intc.offered ∧ servedBy t k = [] := by
  refine ⟨fun hm => hq.1 (h.offered k hm), List.eq_nil_iff_forall_not_mem.2 (fun n hn => ?_)⟩
  obtain ⟨hlt, hin⟩ := mem_servedBy.1 hn
  have : n ∈ servedBy s k := mem_servedBy.2 ⟨hlt, h.service n hlt k hin⟩
  rw [hq.2] at this
  exact List.not_mem_nil this

theorem keepsHalt_foldl (l : List Nat) (s u : State) (hl : ∀ k ∈ l, k < 10) :
    KeepsHalt u (l.foldl (haltCore s) u) ∧
      ∀ k ∈ l, coreLive s k = true → k ∉ (l.foldl (haltCore s) u).intc.offered ∧ servedBy (l.foldl (haltCore s) u) k = [] := by
  induction l generalizing u with
  | nil => exact ⟨.refl u, fun k hk => absurd hk List.not_mem_nil⟩
  | cons j l ih =>
    obtain ⟨hkeep, hquiet⟩ := keepsHalt_haltCore s u (hl j List.mem_cons_self)
    obtain ⟨hrest, hrestq⟩ := ih (haltCore s u j) (fun k hk => hl k (List.mem_cons_of_mem _ hk))
    refine ⟨hkeep.trans hrest, fun k hk hlive => ?_⟩
    rcases List.mem_cons.1 hk with rfl | hm
    · exact hrest.quiet (hquiet hlive)
    · exact hrestq k hm hlive

theorem coresHalt_of_idle {s : State} (h : ∀ j < 10, coreLive s j = false) : coresHalt s = s :=
  (coresHalt_eq s).trans (foldl_fixed (List.range 10) (fun k hk => haltCore_of_idle (h k (List.mem_range.1 hk))))

/-- The clocks have stopped, and the block is halted. -/
def haltStands (s u : State) (ps : List Nat) : State :=
  onDbg { clocksStop u with halted := true } (fun d => { d with wait := none, hnoack := s.dbg.hnoack || !ps.isEmpty })

theorem haltStands_sameBut (s u : State) (ps : List Nat) : SameBut [.running, .halted, .drvWant, .mlk, .dbg] u (haltStands s u ps) := by
  intro p hp; cases p <;> simp [Part.same, haltStands, onDbg, clocksStop] at hp ⊢

theorem haltWaitEnd_exec {s : State} {p : Nat} {ps : List Nat} (hw : s.dbg.wait = some (p, ps)) (hrun : s.running = true) (h4 : s.port % 4 = 0)
    (hp : p < s.port) (hps : ps = [] ∨ p + 32 ≤ s.port) : exec .haltWaitEnd s = .next (tripBypass (haltStands s (coresHalt s) ps)) := by
  have hdbg : (coresHalt s).dbg = s.dbg := by
    rw [coresHalt_eq]
    exact (keepsHalt_foldl (List.range 10) s s (fun _ h => List.mem_range.1 h)).1.parts .dbg (by decide)
  have hdue : haltDue s = true := by
    rw [haltDue, hw]
    rcases hps with rfl | hps
    · simp [h4, hp]
    · simp [h4, hp, hps]
  show execHaltWaitEnd s = _
  rw [execHaltWaitEnd, hw]
  dsimp only
  rw [onlyIf, hrun, hdue, if_pos (by rfl), haltStands, onDbg, onDbg, clocksStop, hdbg]

theorem tripBypass_of_none {s : State} (h : s.cvp.tripWait = []) : tripBypass s = s := by
  rw [tripBypass, h]
  rfl

theorem intcSrc_notMem_groupRegs {n : Nat} : intcSrc n ∉ groupRegs ∨ 512 ≤ n := by
  by_cases h : n < 512
  · refine .inl (fun hm => ?_)
    have hu : ∀ a ∈ groupRegs, a / 0x10000 = 0x4004 := by decide
    have := hu _ hm
    simp only [intcSrc] at this
    omega
  · exact .inr (by omega)

theorem haltWaitEnd_result {s : State} {p : Nat} {ps : List Nat} (hw : s.dbg.wait = some (p, ps)) (hrun : s.running = true) (h4 : s.port % 4 = 0)
    (hp : p < s.port) (hps : ps = [] ∨ p + 32 ≤ s.port) :
    Runs .haltWaitEnd s (fun t => t.running = false ∧ t.halted = true ∧ t.drvWant = false ∧ t.mlk = { s.mlk with quEnd := false } ∧
      t.dbg = { s.dbg with wait := none, hnoack := s.dbg.hnoack || !ps.isEmpty } ∧
      (∀ i ∈ s.cvp.tripWait, i.1 < 64 → t.cvp.tripLive.getLsbD i.1 = true) ∧
      (∀ j < 10, coreLive s j = true → j ∉ t.intc.offered ∧ servedBy t j = []) ∧
      ((∀ j < 10, coreLive s j = false) → s.cvp.tripWait = [] → SameBut [.running, .halted, .drvWant, .mlk, .dbg] s t)) := by
  obtain ⟨hkeep, hquiet⟩ := keepsHalt_foldl (List.range 10) s s (fun _ h => List.mem_range.1 h)
  rw [← coresHalt_eq] at hkeep hquiet
  have hmlk : (coresHalt s).mlk = s.mlk := hkeep.parts .mlk (by decide)
  have hdbg : (coresHalt s).dbg = s.dbg := hkeep.parts .dbg (by decide)
  have hcvp : (coresHalt s).cvp = s.cvp := hkeep.parts .cvp (by decide)
  have hidle := @coresHalt_of_idle s
  refine ⟨_, haltWaitEnd_exec hw hrun h4 hp hps, ?_⟩
  generalize coresHalt s = u at hkeep hquiet hmlk hdbg hcvp hidle
  have hstand := haltStands_sameBut s u ps
  have hcounts := keepsCounts_tripBypass (haltStands s u ps)
  have hlive := tripLive_tripBypass (haltStands s u ps)
  have hwait : (haltStands s u ps).cvp.tripWait = s.cvp.tripWait := by rw [hstand .cvp (by decide), hcvp]
  have hbypass := @tripBypass_of_none (haltStands s u ps)
  rw [hwait] at hlive hbypass
  refine ⟨hcounts.parts .running (by decide), hcounts.parts .halted (by decide), hcounts.parts .drvWant (by decide), ?_, ?_, hlive, fun j hj hl => ?_, ?_⟩
  · rw [hcounts.parts .mlk (by decide), haltStands, onDbg, clocksStop, hmlk]
  · rw [hcounts.parts .dbg (by decide), haltStands, onDbg, clocksStop, hdbg]
  · obtain ⟨hoff, hserv⟩ := hquiet j (List.mem_range.2 hj) hl
    have hintc : (tripBypass (haltStands s u ps)).intc = u.intc := (hcounts.parts .intc (by decide)).trans (hstand .intc (by decide))
    refine ⟨by rw [hintc]; exact hoff, List.eq_nil_iff_forall_not_mem.2 (fun n hn => ?_)⟩
    obtain ⟨hlt, hin⟩ := mem_servedBy.1 hn
    have hsrc : intcSrc n ∉ groupRegs := intcSrc_notMem_groupRegs.resolve_right (by omega)
    have hregs : RegsBut [] u (haltStands s u ps) := regsBut_of_sameBut hstand (by decide) (by decide) (by decide)
    rw [hcounts.regs.inService_eq hsrc, hregs.inService_eq (by simp)] at hin
    have : n ∈ servedBy u j := mem_servedBy.2 ⟨hlt, hin⟩
    rw [hserv] at this
    exact List.not_mem_nil this
  · intro hnone hempty
    rw [hbypass hempty]
    have := hidle hnone
    subst this
    exact hstand

/-- The clocks have stopped after a step. -/
def stepStands (s : State) : State := onDbg (clocksStop s) (fun d => { d with stepTo := none })

theorem stepStands_sameBut (s : State) : SameBut [.running, .drvWant, .mlk, .dbg] s (stepStands s) := by
  intro p hp; cases p <;> simp [Part.same, stepStands, onDbg, clocksStop] at hp ⊢

theorem stepEnd_result {s : State} {p : Nat} (hrun : s.running = true) (hh : s.halted = true) (hstep : s.dbg.stepTo = some p) (hp : p ≤ s.port) :
    Runs .stepEnd s (fun t => t.running = false ∧ t.drvWant = false ∧ t.mlk = { s.mlk with quEnd := false } ∧
      t.dbg = { s.dbg with stepTo := none } ∧ (∀ i ∈ s.cvp.tripWait, i.1 < 64 → t.cvp.tripLive.getLsbD i.1 = true) ∧
      t.sig = { s.sig with traces := t.sig.traces } ∧ RegsBut groupRegs s t ∧
      SameBut [.running, .drvWant, .mlk, .dbg, .regs, .cvp, .sem, .sig] s t) := by
  have hex : exec .stepEnd s = .next (tripBypass (stepStands s)) := by
    show execStepEnd s = _
    rw [execStepEnd, onlyIf, if_pos (by simp [hrun, hh, stepDue, hstep, hp])]
    rfl
  have hcounts := keepsCounts_tripBypass (stepStands s)
  have hregs : RegsBut [] s (stepStands s) := regsBut_of_sameBut (stepStands_sameBut s) (by decide) (by decide) (by decide)
  exact ⟨_, hex, hcounts.parts .running (by decide), hcounts.parts .drvWant (by decide), hcounts.parts .mlk (by decide),
    hcounts.parts .dbg (by decide), tripLive_tripBypass (stepStands s), hcounts.sig, (hregs.mono (by simp)).and hcounts.regs (fun _ h => h),
    ((stepStands_sameBut s).mono (by decide)).trans (hcounts.parts.mono (by decide))⟩

/-- Settles O56: each command by its equation; a halt of the cores by what the loss of a core clears and no later one restores. -/
theorem debugPort : Obligations.DebugPort := by
  unfold Obligations.DebugPort
  intro s q h w v c cap g req k n p p0 ps
  refine ⟨stux_lost, stux_stat, stux_maddr, ?_, fun hst => ⟨dpPower_result rfl (dpPower_port s) hst, dpPower_result rfl (dpPower_trace s) hst⟩, ?_,
    fun hg => ⟨dpChal_result hg, dpChal_locked hg, dpCheck_result hg req, dpDrop_full hg, dpDrop_low hg⟩,
    fun hc hrun => ⟨authCheckDone_good hc hrun, authCheckDone_bad hc hrun⟩, authLockoutExpiry_result, dbgcapChange_full, dbgcapChange_low,
    fun hq => ⟨dbgGrantWrite_full hq, dbgGrantWrite_low hq, keylock_result hq⟩, dbgKeyWrite_open, dbgKeyWrite_locked,
    fun hg => ⟨fun hh hs hrun => ⟨dpHalt_refused hg hh hs hrun, dpHalt_result hg hh hs hrun⟩, dpResume_result hg,
      fun hh hrun hl => dpStep_result hg hh hrun hl n⟩,
    haltWaitEnd_result, stepEnd_result⟩
  · exact ⟨_, rfl, rfl, onDbg_sameBut s _⟩
  · refine dpWrite_port (f := fun d => { d with
      hrefused := d.hrefused && !bitOf v 6, hnoack := d.hnoack && !bitOf v 7, wchk := d.wchk && !bitOf v 8, memerr := d.memerr && !bitOf v 9 }) rfl ?_
    rw [dpWrite_open (dpGate_abort s)]
    rfl

end Sys2Proof.Machine

/-! The debug unit: accesses of the debug port to memory, its terminal, stopped cores and the trace (R513, R517, R520 to R522). -/

namespace Sys2Proof.Machine

set_option Elab.async false

/-! Beats that an operand describes (R269). -/

/-- A port that reports to no requester waits unseen. -/
theorem unitWait_requester (s : State) {p : Nat} (hp : (portReq p).isNone = false) (a : Nat) : unitWait s p a = s := by
  rw [unitWait, hp]
  rfl

theorem takeGrant_sameBut (s : State) (p a : Nat) : SameBut [.msys] s (takeGrant s p a) := by
  have hg (b : Nat) : SameBut [.msys] s (if tget 0 s.msys.grants b < 2 then grantNote s b 1 else s) := by
    split
    · exact msys_sameBut s _
    · exact SameBut.refl _ s
  unfold takeGrant
  split
  · exact (hg _).and (msys_sameBut _ _)
  · exact SameBut.refl _ s

/-- A beat of a requester leaves nothing but its traces in the memory system. -/
theorem beat_sameBut (s : State) {p : Nat} (hp : (portReq p).isNone = false) (a : Nat) (w : Bool) : SameBut [.msys] s (beat s a p w false) := by
  have hgrant := takeGrant_sameBut s p a
  unfold beat
  rw [unitWait_requester s hp]
  exact hgrant.and (msys_sameBut _ _)

/-- A request that is granted waits no longer; how long it has waited is recorded (R284). -/
theorem icGrant_sameBut (s : State) (p a n : Nat) : SameBut [.regs, .msys] s (icGrant s p a n) :=
  ((maxTo_sameBut s _ _ _).mono (by decide)).and (msys_sameBut _ _)

theorem regsBut_icGrant (s : State) (p a n : Nat) : RegsBut [memArb p] s (icGrant s p a n) := regsBut_maxTo s _ _ _

theorem upsetAt_icGrant (s : State) (p a n i : Nat) : upsetAt (icGrant s p a n) i = upsetAt s i := rfl

theorem clearing_icGrant (s : State) (p a n : Nat) : (icGrant s p a n).msys.clearing = s.msys.clearing := rfl

theorem arrayCode_icGrant (s : State) {p : Nat} (hp : p < 0x100) (b n a : Nat) : arrayCode (icGrant s p b n) a = arrayCode s a :=
  arrayCode_congr (regsBut_icGrant s p b n) (fun _ hd => memArb_ne_pctlPd hd) (fun _ _ => memArb_ne_memRetire hp) a

/-! Words whose contents are undefined to a port (R291, R315, R412, R451). -/

/-- A word of a region that a unit keeps to itself. -/
def hiddenWord (s : State) (a p : Nat) : Bool := inL2 s 8 a || inL2 s 9 a || inPneRegion s a || inRlkTable s a || cptHidden s a p

theorem targetOf_low {a : Nat} (ha : a < 0x100000) : targetOf a = .shared (a / 0x10000) (a % 4) := by rw [targetOf, if_pos ha]

theorem arrayWord_shared {s : State} {a : Nat} (ha : a < 0x100000) (p : Nat) :
    arrayWord s a p = if hiddenWord s a p then freshWord s else (memRd s a, s) := by
  unfold arrayWord hiddenWord
  rw [targetOf_low ha]

theorem hiddenWord_of_seen {s : State} {a p : Nat} (ha : a < 0x100000) (h : arrayWord s a p = (memRd s a, s)) : hiddenWord s a p = false := by
  rw [arrayWord_shared ha] at h
  by_cases hh : hiddenWord s a p = true
  · rw [if_pos hh] at h
    have hfree : s.free + 1 = s.free := congrArg (fun r : Word × State => r.2.free) h
    omega
  · simpa using hh

theorem arrayWord_seen {s : State} {a p : Nat} (ha : a < 0x100000) (h : hiddenWord s a p = false) : arrayWord s a p = (memRd s a, s) := by
  rw [arrayWord_shared ha, h]
  rfl

/-- What decides whether a word is hidden: registers of the point engine, the rack link, the command port and their domains. -/
theorem hiddenWord_congr {l : List Nat} {ps : List Part} {s t : State} (hr : RegsBut l s t) (hs : SameBut ps s t)
    (hl : ∀ a ∈ l, a / 0x10000 = 0x4002) (hsvc : .svc ∉ ps) (hpne : .pne ∉ ps) (a p : Nat) : hiddenWord t a p = hiddenWord s a p := by
  have hsv : t.svc = s.svc := hs .svc hsvc
  have hpn : t.pne = s.pne := hs .pne hpne
  have hout {b : Nat} (hb : b / 0x10000 ≠ 0x4002) : b ∉ l := fun hm => hb (hl b hm)
  have hon (d : Nat) (hd : d < 56) : pdOn t d = pdOn s d := hr.pdOn_eq d (hout (by simp only [pctlPd]; omega))
  have hrf (b : Nat) (hb : b / 0x10000 ≠ 0x4002) (f : Fld) : rf t b f = rf s b f := hr.rf_eq (hout hb) f
  have hrb (b : Nat) (hb : b / 0x10000 ≠ 0x4002) (f : Fld) : rb t b f = rb s b f := hr.rb_eq (hout hb) f
  have hl2 (k : Nat) : inL2 t k a = inL2 s k a := by rw [inL2, inL2, hsv]
  have hpr : inPneRegion t a = inPneRegion s a := by rw [inPneRegion, inPneRegion, hpn, hon 45 (by decide)]
  have hrt : inRlkTable t a = inRlkTable s a := by
    rw [inRlkTable, inRlkTable, hon 48 (by decide), hrf _ (by decide), hrf _ (by decide), hrb _ (by decide)]
  have hcp : cptHidden t a p = cptHidden s a p := by
    have hbuf (b : Nat) (hb : b < 64) (f : Fld) : rf t (cptBuf b) f = rf s (cptBuf b) f := hrf _ (by simp only [cptBuf]; omega) f
    unfold cptHidden
    rw [hon 49 (by decide), hrf _ (by decide), hrb _ (by decide)]
    dsimp only
    by_cases hc : (!(pdOn s 49 && rb s cptCtrl cptCtrlEN && decide (rf s cptPool cptPoolBASE / 16384 * 16384 ≤ a) &&
        decide (a < rf s cptPool cptPoolBASE / 16384 * 16384 + 16384)) || decide (p = 25)) = true
    · rw [if_pos hc, if_pos hc]
    · have hb : (a - rf s cptPool cptPoolBASE / 16384 * 16384) / 256 < 64 := by
        simp only [Bool.or_eq_true, Bool.not_eq_true', decide_eq_true_eq, not_or, Bool.not_eq_false, Bool.and_eq_true] at hc
        omega
      rw [if_neg hc, if_neg hc, hbuf _ hb, hbuf _ hb]
  rw [hiddenWord, hiddenWord, hl2, hl2, hpr, hrt, hcp]

/-- A read of a whole shared-memory word that its port may see, by a requester. -/
theorem arrayRead_seen {s : State} {a p : Nat} (ha : a < 0x100000) (hc : arrayCode s a = 0) (hu : upsetAt s (upsetKey a) = .none)
    (ht : upsetAt s (tagUpsetKey a) = .none) (hseen : hiddenWord s a p = false) (hp : unitPort p) (hreq : (portReq p).isNone = false) (tags : Bool) :
    arrayRead s a p false tags = (0, memRd s a, beat s a p false false) := by
  have hb := beat_sameBut s hreq a false
  have hregs : RegsBut [] s (beat s a p false false) := regsBut_of_sameBut hb (by decide) (by decide) (by decide)
  have hseen' : hiddenWord (beat s a p false false) a p = false :=
    (hiddenWord_congr hregs hb (fun _ h => (nomatch h)) (by decide) (by decide) a p).trans hseen
  unfold arrayRead
  dsimp only
  rw [arrayOwn_whole ⟨by omega, hc, hu, ht⟩ hp, if_neg (by simp), arrayWord_seen ha hseen', hb.memRd_eq (by decide)]

/-! Accesses of the debug port to shared memory (R517). -/

theorem icRead_shared {s : State} {a : Nat} (ha : a < 0x100000) (q : Req) (p k : Nat) (peek auto tags : Bool) :
    icRead s q p k a peek .none .none auto tags =
      ((arrayRead s a p auto tags).1, (arrayRead s a p auto tags).2.1, (arrayRead s a p auto tags).2.2, true) := by
  unfold icRead
  rw [targetOf_low ha]
  simp only [meetsBusy, show ((Meet.none == Meet.write) = false) from rfl, Bool.false_and, Bool.and_false, Bool.false_eq_true, if_false]
  rfl

theorem icWrite_shared {s : State} {a : Nat} (ha : a < 0x100000) (q : Req) (p : Nat) (v : Word) (auto : Bool) :
    icWrite s q p a v .none auto = arrayWrite s a p v auto := by
  unfold icWrite
  rw [targetOf_low ha]
  simp only [meetsBusy, show ((Meet.none == Meet.write) = false) from rfl, Bool.false_and, Bool.and_false, Bool.false_eq_true, if_false]

/-- The address of the debug port's access. -/
def dpAddr (s : State) : Nat := s.dbg.maddr.toNat % 2 ^ 40

/-- An access of the debug port to a shared-memory word is in progress, and nothing but its bank port may hold it up. -/
def dpAccess (s : State) : Prop :=
  s.running = true ∧ pdOn s 53 = true ∧ dpAddr s < 0x100000 ∧ clearingAt s (dpAddr s) = false ∧ arrayCode s (dpAddr s) = 0

theorem dpAccessDone_waits {s : State} (h : dpAccess s) (hg : grantable s 27 (dpAddr s) (debugRetries s (dpAddr s)) = false)
    (hacc : s.dbg.acc = 1 ∨ s.dbg.acc = 2) : Runs (.dpAccessDone .none .none) s (fun t => SameBut [.msys] s t) := by
  obtain ⟨hrun, hon, ha, hclear, -⟩ := h
  have hex : exec (.dpAccessDone .none .none) s = .next (waitMark s 27 (dpAddr s)) := by
    show execDpAccessDone .none .none s = _
    unfold execDpAccessDone
    dsimp only
    rw [← dpAddr, targetOf_low ha, hg, hrun, hon, hclear]
    rcases hacc with hacc | hacc <;> rw [hacc] <;> rfl
  refine ⟨_, hex, ?_⟩
  unfold waitMark
  split
  · exact SameBut.refl _ s
  · exact msys_sameBut s _

/-- The state in which the granted access acts. -/
def dpGranted (s : State) : State := icGrant s 27 (dpAddr s) 0

theorem dpAccessDone_reads {s : State} (h : dpAccess s) (hg : grantable s 27 (dpAddr s) (debugRetries s (dpAddr s)) = true) (hacc : s.dbg.acc = 1)
    (hread : arrayRead (dpGranted s) (dpAddr s) 27 false true = (0, memRd s (dpAddr s), beat (dpGranted s) (dpAddr s) 27 false false)) :
    exec (.dpAccessDone .none .none) s = .next (dpComplete (beat (dpGranted s) (dpAddr s) 27 false false) 0 (memRd s (dpAddr s)) false) := by
  obtain ⟨hrun, hon, ha, hclear, -⟩ := h
  have hr := fun (q : Req) (k : Nat) (peek : Bool) => icRead_shared ha (s := dpGranted s) q 27 k peek false true
  rw [hread] at hr
  show execDpAccessDone .none .none s = _
  unfold execDpAccessDone
  dsimp only
  rw [← dpAddr, ← dpGranted, hr, targetOf_low ha, hg, hrun, hon, hclear, hacc]
  rfl

theorem dpAccessDone_writes {s : State} (h : dpAccess s) (hg : grantable s 27 (dpAddr s) (debugRetries s (dpAddr s)) = true) (hacc : s.dbg.acc = 2)
    {u : State} (hwrite : arrayWrite (dpGranted s) (dpAddr s) 27 s.dbg.accW false = (0, u)) :
    exec (.dpAccessDone .none .none) s = .next (dpComplete u 0 0 true) := by
  obtain ⟨hrun, hon, ha, hclear, -⟩ := h
  have hw := fun (q : Req) => icWrite_shared ha (s := dpGranted s) q 27 s.dbg.accW false
  rw [hwrite] at hw
  show execDpAccessDone .none .none s = _
  unfold execDpAccessDone
  dsimp only
  rw [← dpAddr, ← dpGranted, hw, targetOf_low ha, hg, hrun, hon, hclear, hacc]
  rfl

theorem dpComplete_sameBut (s : State) (c : Nat) (w : Word) (b : Bool) : SameBut [.dbg] s (dpComplete s c w b) := onDbg_sameBut s _

theorem dbg_dpComplete_read (s : State) (w : Word) :
    (dpComplete s 0 w false).dbg = { s.dbg with rcode := 0, memerr := s.dbg.memerr || (0 : Nat) != 0, accW := w, acc := 3 } := rfl

theorem dbg_dpComplete_write (s : State) (w : Word) :
    (dpComplete s 0 w true).dbg = { s.dbg with rcode := 0, memerr := s.dbg.memerr || (0 : Nat) != 0, accW := w, acc := 0 } := rfl

theorem memerr_kept (b : Bool) : (b || (0 : Nat) != 0) = b := by simp

theorem regsBut_dpComplete (s : State) (c : Nat) (w : Word) (b : Bool) : RegsBut [] s (dpComplete s c w b) := fun _ _ => rfl

theorem unitPort_debug : unitPort 27 := .inr (by decide)

theorem dpGranted_sameBut (s : State) : SameBut [.regs, .msys] s (dpGranted s) := icGrant_sameBut s _ _ _

theorem regsBut_dpGranted (s : State) : RegsBut [memArb 27] s (dpGranted s) := regsBut_icGrant s _ _ _

theorem memArb_unit {p : Nat} (hp : p < 0x100) : ∀ a ∈ [memArb p], a / 0x10000 = 0x4002 := by
  simp only [List.mem_singleton, forall_eq, memArb]
  omega

theorem dpAccessDone_read_result {s : State} (h : dpAccess s) (hg : grantable s 27 (dpAddr s) (debugRetries s (dpAddr s)) = true)
    (hacc : s.dbg.acc = 1) (hu : upsetAt s (upsetKey (dpAddr s)) = .none) (ht : upsetAt s (tagUpsetKey (dpAddr s)) = .none)
    (hseen : arrayWord s (dpAddr s) 27 = (memRd s (dpAddr s), s)) :
    Runs (.dpAccessDone .none .none) s (fun t => t.dbg = { s.dbg with rcode := 0, accW := memRd s (dpAddr s), acc := 3 } ∧
      (∀ j, memRd t j = memRd s j) ∧ RegsBut [memArb 27] s t ∧ SameBut [.dbg, .msys, .regs] s t) := by
  have ha := h.2.2.1
  have hcode : arrayCode (dpGranted s) (dpAddr s) = 0 := (arrayCode_icGrant s (by decide) _ 0 _).trans h.2.2.2.2
  have hvis : hiddenWord (dpGranted s) (dpAddr s) 27 = false :=
    (hiddenWord_congr (regsBut_dpGranted s) (dpGranted_sameBut s) (memArb_unit (by decide)) (by decide) (by decide) _ _).trans (hiddenWord_of_seen ha hseen)
  have hmem (j : Nat) : memRd (dpGranted s) j = memRd s j := (dpGranted_sameBut s).memRd_eq (by decide) j
  have hread := arrayRead_seen ha hcode hu ht hvis unitPort_debug (by decide) true
  rw [hmem] at hread
  have hbeat := beat_sameBut (dpGranted s) (p := 27) (by decide) (dpAddr s) false
  have hregs : RegsBut [] (dpGranted s) (beat (dpGranted s) (dpAddr s) 27 false false) :=
    regsBut_of_sameBut hbeat (by decide) (by decide) (by decide)
  have hparts := (dpGranted_sameBut s).and (hbeat.mono (by decide : ∀ p ∈ [Part.msys], p ∈ [Part.regs, .msys]))
  refine ⟨_, dpAccessDone_reads h hg hacc hread, ?_⟩
  generalize beat (dpGranted s) (dpAddr s) 27 false false = u at hbeat hregs hparts
  have hdbg : u.dbg = s.dbg := hparts .dbg (by decide)
  refine ⟨?_, fun j => ?_, ((regsBut_dpGranted s).and hregs).and (regsBut_dpComplete _ _ _ _),
    (hparts.mono (by decide)).and (dpComplete_sameBut _ _ _ _)⟩
  · rw [dbg_dpComplete_read, memerr_kept, hdbg]
  · rw [(dpComplete_sameBut u _ _ _).memRd_eq (by decide), hparts.memRd_eq (by decide)]

theorem dpAccessDone_write_result {s : State} (h : dpAccess s) (hg : grantable s 27 (dpAddr s) (debugRetries s (dpAddr s)) = true)
    (hacc : s.dbg.acc = 2) :
    Runs (.dpAccessDone .none .none) s (fun t => t.dbg = { s.dbg with rcode := 0, accW := 0, acc := 0 } ∧
      (∀ j, memRd t j = if j = dpAddr s then s.dbg.accW else memRd s j) ∧ (∀ j, tagRd t j = if j = dpAddr s / 2 * 2 then false else tagRd s j) ∧
      RegsBut [memArb 27] s t ∧ SameBut [.dbg, .msys, .regs, .mem, .tags] s t) := by
  have ha := h.2.2.1
  have hcode : arrayCode (dpGranted s) (dpAddr s) = 0 := (arrayCode_icGrant s (by decide) _ 0 _).trans h.2.2.2.2
  have hwrite := arrayWrite_answered (by omega) (arrayAnswer_of_code hcode) 27 s.dbg.accW false
  have hbeat := beat_sameBut (dpGranted s) (p := 27) (by decide) (dpAddr s) true
  have hregs : RegsBut [] (dpGranted s) (beat (dpGranted s) (dpAddr s) 27 true false) :=
    regsBut_of_sameBut hbeat (by decide) (by decide) (by decide)
  have hparts := (dpGranted_sameBut s).and (hbeat.mono (by decide : ∀ p ∈ [Part.msys], p ∈ [Part.regs, .msys]))
  refine ⟨_, dpAccessDone_writes h hg hacc hwrite, ?_⟩
  generalize beat (dpGranted s) (dpAddr s) 27 true false = u at hbeat hregs hparts
  have hput := putWord_sameBut u (dpAddr s) s.dbg.accW
  have hpreg := regsBut_of_sameBut hput (by decide) (by decide) (by decide)
  have hmem (j : Nat) : memRd (putWord u (dpAddr s) s.dbg.accW) j = if j = dpAddr s then s.dbg.accW else memRd s j := by
    rw [memRd_putWord, hparts.memRd_eq (by decide)]
  have htag (j : Nat) : tagRd (putWord u (dpAddr s) s.dbg.accW) j = if j = dpAddr s / 2 * 2 then false else tagRd s j := by
    rw [tagRd_putWord, tagRd, tagRd, hparts .tags (by decide)]
  have hdbg : (putWord u (dpAddr s) s.dbg.accW).dbg = s.dbg := (hput .dbg (by decide)).trans (hparts .dbg (by decide))
  generalize putWord u (dpAddr s) s.dbg.accW = x at hput hpreg hmem htag hdbg
  have hdone := dpComplete_sameBut x 0 0 true
  refine ⟨?_, fun j => ?_, fun j => ?_, (((regsBut_dpGranted s).and hregs).and hpreg).and (regsBut_dpComplete _ _ _ _),
    ((hparts.mono (by decide)).trans (hput.mono (by decide))).trans (hdone.mono (by decide))⟩
  · rw [dbg_dpComplete_write, memerr_kept, hdbg]
  · rw [hdone.memRd_eq (by decide), hmem]
  · rw [tagRd, hdone .tags (by decide), ← tagRd, htag]

/-! The port's registers for memory and the terminal (R513, R517, R521). -/

theorem dpWrite_mdata {s : State} (h : dpGate s 0x19 true = none) (v : Word) : dpWrite s 0x19 v = dpMdataWrite s v := by
  rw [dpWrite_open h]
  rfl

theorem dpMdataWrite_result {s : State} {v : Word} (h : dpGate s 0x19 true = none) :
    (accBusy s = false → Runs (.dpMdataWrite v) s (fun t => t.dbg = { s.dbg with acc := 2, accW := v, sts := 0xC, data := 0 } ∧ SameBut [.dbg] s t)) ∧
    (accBusy s = true → Runs (.dpMdataWrite v) s (fun t => t.dbg = { s.dbg with sts := 0x6, data := 0 } ∧ SameBut [.dbg] s t)) := by
  have hex : exec (.dpMdataWrite v) s = .next (dpMdataWrite s v) := by
    rw [← dpWrite_mdata h]
    rfl
  refine ⟨fun hb => ⟨_, hex, ?_⟩, fun hb => ⟨_, hex, ?_⟩⟩
  · rw [dpMdataWrite, hb]
    exact ⟨rfl, (onDbg_sameBut s _).and (dpAnswer_sameBut _ _ _)⟩
  · rw [dpMdataWrite, hb]
    exact ⟨rfl, dpAnswer_sameBut s _ _⟩

theorem dpRead_mdata {s : State} (h : dpGate s 0x19 false = none) : dpRead s 0x19 = dpMdataRead s := by
  unfold dpRead
  rw [h]
  rfl

theorem dpMdataRead_exec {s : State} (h : dpGate s 0x19 false = none) : exec .dpMdataRead s = .next (dpMdataRead s) := by
  rw [← dpRead_mdata h]
  rfl

theorem dpMdataRead_starts {s : State} (h : dpGate s 0x19 false = none) (ha : s.dbg.acc = 0) :
    Runs .dpMdataRead s (fun t => t.dbg = { s.dbg with acc := 1, sts := 0x6, data := 0 } ∧ SameBut [.dbg] s t) := by
  refine ⟨_, dpMdataRead_exec h, ?_⟩
  rw [dpMdataRead, ha]
  exact ⟨rfl, (onDbg_sameBut s _).and (dpAnswer_sameBut _ _ _)⟩

theorem dpMdataRead_takes {s : State} (h : dpGate s 0x19 false = none) (ha : s.dbg.acc = 3) :
    Runs .dpMdataRead s (fun t => t.dbg = { s.dbg with
      acc := 0, sts := 0xC, data := s.dbg.accW
      maddr := if bitOf s.dbg.maddr 40 then BitVec.ofNat 48 (s.dbg.maddr.toNat / 2 ^ 40 * 2 ^ 40 + (dpAddr s + 1) % 2 ^ 40) else s.dbg.maddr } ∧
      SameBut [.dbg] s t) := by
  refine ⟨_, dpMdataRead_exec h, ?_⟩
  rw [dpMdataRead, ha]
  exact ⟨rfl, (onDbg_sameBut s _).and (dpAnswer_sameBut _ _ _)⟩

theorem pdOn_of_gate {s : State} {w : Bool} (h : dpGate s 0x1C w = none) : pdOn s 53 = true := by
  unfold dpGate at h
  by_contra hon
  rw [Bool.not_eq_true] at hon
  simp only [dpListed, dpGated, hon, Bool.not_false, Bool.true_or] at h
  split at h
  · simp at h
  · split at h <;> simp at h

theorem dpRead_vt {s : State} (h : dpGate s 0x1C false = none) : dpRead s 0x1C = dpVtRead s := by
  unfold dpRead
  rw [h]
  rfl

theorem dpVtRead_exec {s : State} (h : dpGate s 0x1C false = none) : exec .dpVtRead s = .next (dpVtRead s) := by
  rw [← dpRead_vt h]
  rfl

theorem dpWrite_vt {s : State} (h : dpGate s 0x1C true = none) (v : Word) : dpWrite s 0x1C v = dpVtWrite s v := by
  rw [dpWrite_open h]
  rfl

theorem dpVtWrite_exec {s : State} (h : dpGate s 0x1C true = none) (v : Word) : exec (.dpVtWrite v) s = .next (dpVtWrite s v) := by
  rw [← dpWrite_vt h]
  rfl

/-- The port changes, answers, and raises an interrupt. -/
theorem answered_strobe {s : State} (hon : pdOn s 53 = true) (f : Dbg → Dbg) (n : Nat) (w : Word) :
    (dpAnswer (unitStrobe (onDbg s f) 53 n) dpReady w).dbg = { f s.dbg with sts := 0xC, data := w } ∧
    (dpAnswer (unitStrobe (onDbg s f) 53 n) dpReady w).intc = { s.intc with strobes := s.intc.strobes ++ [n] } ∧
    SameBut [.dbg, .intc] s (dpAnswer (unitStrobe (onDbg s f) 53 n) dpReady w) := by
  have hs := unitStrobe_sameBut (onDbg s f) 53 n
  have hi := intc_unitStrobe (onDbg s f) 53 n
  rw [pdOn_onDbg, hon, if_pos rfl] at hi
  have hd : (unitStrobe (onDbg s f) 53 n).dbg = f s.dbg := hs .dbg (by decide)
  refine ⟨?_, ?_, (((onDbg_sameBut s f).mono (by decide)).and hs).and (dpAnswer_sameBut _ _ _)⟩
  · rw [dbg_dpAnswer, hd]
    rfl
  · rw [dpAnswer, intc_onDbg, hi, intc_onDbg]

theorem dpVtRead_result {s : State} (h : dpGate s 0x1C false = none) :
    (∀ w, s.dbg.vtOut = some w → Runs .dpVtRead s (fun t => t.dbg = { s.dbg with vtOut := none, sts := 0xC, data := w } ∧
      t.intc = { s.intc with strobes := s.intc.strobes ++ [481] } ∧ SameBut [.dbg, .intc] s t)) ∧
    (s.dbg.vtOut = none → Runs .dpVtRead s (fun t => t.dbg = { s.dbg with sts := 0x6, data := 0 } ∧ SameBut [.dbg] s t)) := by
  refine ⟨fun w hw => ⟨_, dpVtRead_exec h, ?_⟩, fun hn => ⟨_, dpVtRead_exec h, ?_⟩⟩
  · rw [dpVtRead, hw]
    exact answered_strobe (pdOn_of_gate h) (fun d => { d with vtOut := none }) 481 w
  · rw [dpVtRead, hn]
    exact ⟨rfl, dpAnswer_sameBut s _ _⟩

theorem dpVtWrite_result {s : State} (h : dpGate s 0x1C true = none) (v : Word) :
    (s.dbg.vtIn = none → Runs (.dpVtWrite v) s (fun t => t.dbg = { s.dbg with vtIn := some v, sts := 0xC, data := 0 } ∧
      t.intc = { s.intc with strobes := s.intc.strobes ++ [480] } ∧ SameBut [.dbg, .intc] s t)) ∧
    (∀ w, s.dbg.vtIn = some w → Runs (.dpVtWrite v) s (fun t => t.dbg = { s.dbg with sts := 0x6, data := 0 } ∧ SameBut [.dbg] s t)) := by
  refine ⟨fun hn => ⟨_, dpVtWrite_exec h v, ?_⟩, fun w hw => ⟨_, dpVtWrite_exec h v, ?_⟩⟩
  · rw [dpVtWrite, hn]
    exact answered_strobe (pdOn_of_gate h) (fun d => { d with vtIn := some v }) 480 0
  · rw [dpVtWrite, hw]
    exact ⟨rfl, dpAnswer_sameBut s _ _⟩

/-! The terminal's registers (R521). -/

theorem vtoutWrite_result {s : State} (hon : pdOn s 53 = true) (v : Word) :
    (s.dbg.vtOut = none → Runs (.vtoutWrite v) s (fun t => t.resp = ⟨0, 0⟩ ∧ t.dbg = { s.dbg with vtOut := some v } ∧ SameBut [.dbg, .resp] s t)) ∧
    (∀ w, s.dbg.vtOut = some w → Runs (.vtoutWrite v) s (fun t => t.resp = ⟨0, 0⟩ ∧ RegsAre [withFld s dbgSts dbgStsVTOVF 1] s t ∧
      SameBut [.regs, .resp] s t)) := by
  have hex : exec (.vtoutWrite v) s = .next (vtoutWrite s v) := by
    show execVtoutWrite v s = _
    rw [execVtoutWrite, if_pos hon]
    rfl
  refine ⟨fun hn => ⟨_, hex, ?_⟩, fun w hw => ⟨_, hex, ?_⟩⟩
  · rw [vtoutWrite, hn]
    exact ⟨rfl, rfl, ((onDbg_sameBut s _).mono (by decide)).and (respond_sameBut _ _ _)⟩
  · rw [vtoutWrite, hw, ← b2n_true]
    exact ⟨rfl, (regsAre_wb s _ _ _).and (regsBut_respond _ _ _), ((wb_sameBut s _ _ _).mono (by decide)).and (respond_sameBut _ _ _)⟩

theorem vtinRead_result {s : State} (hon : pdOn s 53 = true) :
    Runs .vtinRead s (fun t => t.resp = ⟨0, s.dbg.vtIn.getD 0⟩ ∧ t.dbg = { s.dbg with vtIn := none } ∧ SameBut [.dbg, .resp] s t) := by
  have hex : exec .vtinRead s = .next (respond (onDbg s (fun d => { d with vtIn := none })) 0 (s.dbg.vtIn.getD 0)) := by
    show execVtinRead s = _
    rw [execVtinRead, if_pos hon]
    rfl
  exact ⟨_, hex, rfl, rfl, ((onDbg_sameBut s _).mono (by decide)).and (respond_sameBut _ _ _)⟩

/-! Stopping a core (R520). -/

/-- What a stop of core k leaves: it is stopped where it would go on, for a reason that is shown. -/
def Stopped (k reason : Nat) (s t : State) : Prop :=
  (coreOf t k).stopped = true ∧ (coreOf t k).pc = (coreOf (coreYield s k) k).pc ∧ rb t (dbgCorectl k) dbgCorectlSTOPPED = true ∧
    rf t (dbgCorectl k) dbgCorectlREASON = reason ∧ ∀ j, j ≠ k → coreOf t j = coreOf s j

/-- What a stop changes apart from what the loss of the core to the interrupt controller and the interpreter does. -/
def stopShown (s : State) (k reason : Nat) : State :=
  let s := coreYield s k
  let t := setCore s k { coreOf s k with stopped := true, dbgStep := false }
  let t := wb (wf (wb t (dbgCorectl k) dbgCorectlSTOPPED true) (dbgCorectl k) dbgCorectlREASON reason) (dbgCorectl k) dbgCorectlCSTOP true
  let t := wf t (dbgCsel k) dbgCselCSTEP (coreOf s k).step
  unitStrobe (onDbg t (fun d => { d with stops := d.stops.erase k, wps := d.wps.erase k })) 53 482

/-- The loss of core k to the interrupt controller and, with SV0, to the interpreter. -/
def stopLost (u : State) (k : Nat) : State :=
  let t := intcCoreLost u k
  if k = 8 && pdLive t 49 then svenClear t else t

theorem coreStop_eq (s : State) (k reason : Nat) : coreStop s k reason = stopLost (stopShown s k reason) k := rfl

theorem keepsHalt_stopLost (u : State) {k : Nat} (hk : k < 10) : KeepsHalt u (stopLost u k) := by
  have h := (keepsHalt_intcCoreLost u hk).1
  unfold stopLost
  dsimp only
  split
  · exact h.trans (keepsHalt_svenClear _)
  · exact h

/-- The core's debug registers as a stop leaves them. -/
def stopRegs (u : State) (k reason step : Nat) : State :=
  wf (wb (wf (wb u (dbgCorectl k) dbgCorectlSTOPPED true) (dbgCorectl k) dbgCorectlREASON reason) (dbgCorectl k) dbgCorectlCSTOP true)
    (dbgCsel k) dbgCselCSTEP step

theorem stopRegs_sameBut (u : State) (k reason step : Nat) : SameBut [.regs] u (stopRegs u k reason step) :=
  (((wb_sameBut u _ _ _).and (wf_sameBut _ _ _ _)).and (wb_sameBut _ _ _ _)).and (wf_sameBut _ _ _ _)

theorem dbgCorectl_ne_dbgCsel {k : Nat} (hk : k < 10) (j : Nat) : dbgCorectl k ∉ [dbgCsel j] := by
  simp only [List.mem_singleton, dbgCorectl, dbgCsel]
  omega

theorem rb_stopRegs (u : State) {k : Nat} (hk : k < 10) (reason step : Nat) :
    rb (stopRegs u k reason step) (dbgCorectl k) dbgCorectlSTOPPED = true := by
  rw [stopRegs, (regsBut_wf _ _ _ _).rb_eq (dbgCorectl_ne_dbgCsel hk k), rb_wb_apart _ _ _ _ _ rfl rfl (by decide),
    rb_wf_apart _ _ _ _ _ rfl rfl (by decide), rb_wb_same _ _ _ _ rfl]

theorem rf_stopRegs (u : State) {k reason : Nat} (hk : k < 10) (hr : reason < 8) (step : Nat) :
    rf (stopRegs u k reason step) (dbgCorectl k) dbgCorectlREASON = reason := by
  rw [stopRegs, (regsBut_wf _ _ _ _).rf_eq (dbgCorectl_ne_dbgCsel hk k), rf_wb_apart _ _ _ rfl rfl (by decide), rf_wf_same _ _ _ _ rfl]
  exact Nat.mod_eq_of_lt hr

/-- The yielded core, stopped. -/
def stopCore (s : State) (k : Nat) : Core := { coreOf (coreYield s k) k with stopped := true, dbgStep := false }

theorem stopShown_eq (s : State) (k reason : Nat) : stopShown s k reason =
    unitStrobe (onDbg (stopRegs (setCore (coreYield s k) k (stopCore s k)) k reason (coreOf (coreYield s k) k).step)
      (fun d => { d with stops := d.stops.erase k, wps := d.wps.erase k })) 53 482 := rfl

theorem coreYield_other (s : State) {j k : Nat} (h : j ≠ k) : coreOf (coreYield s k) j = coreOf s j := coreOf_setCore_other _ _ h

theorem coreOf_congr {l : List Part} {s t : State} (h : SameBut l s t) (hl : .cores ∉ l) (k : Nat) : coreOf t k = coreOf s k := by
  rw [coreOf, coreOf, h .cores hl]

theorem corectl_unit {k : Nat} (hk : k < 10) : dbgCorectl k / 0x10000 ∉ haltUnits := by
  have : dbgCorectl k / 0x10000 = 0x400D := by simp only [dbgCorectl]; omega
  simp [this, haltUnits, cptUnits]

theorem coreStop_stopped (s : State) {k reason : Nat} (hk : k < 10) (hr : reason < 8) : Stopped k reason s (coreStop s k reason) := by
  have hlost := keepsHalt_stopLost (stopShown s k reason) hk
  have hregs (u : State) (f : Dbg → Dbg) : SameBut [.regs, .dbg, .intc] u (unitStrobe (onDbg u f) 53 482) :=
    ((onDbg_sameBut u f).mono (by decide)).and (unitStrobe_sameBut _ _ _)
  have hshow (u : State) (f : Dbg → Dbg) : RegsBut [] u (unitStrobe (onDbg u f) 53 482) := (regsBut_onDbg u f).and (regsBut_unitStrobe _ _ _)
  have hcore (j : Nat) : coreOf (coreStop s k reason) j = coreOf (setCore (coreYield s k) k (stopCore s k)) j := by
    rw [coreStop_eq, coreOf_congr hlost.parts (by decide), stopShown_eq, coreOf_congr (hregs _ _) (by decide),
      coreOf_congr (stopRegs_sameBut _ _ _ _) (by decide)]
  have hrf (f : Fld) : rf (coreStop s k reason) (dbgCorectl k) f =
      rf (stopRegs (setCore (coreYield s k) k (stopCore s k)) k reason (coreOf (coreYield s k) k).step) (dbgCorectl k) f := by
    rw [coreStop_eq, hlost.regs.rf_eq (corectl_unit hk), stopShown_eq, (hshow _ _).rf_eq (by simp)]
  refine ⟨?_, ?_, ?_, ?_, fun j hj => ?_⟩
  · rw [hcore, coreOf_setCore_same]
    rfl
  · rw [hcore, coreOf_setCore_same]
    rfl
  · rw [rb, hrf, ← rb, rb_stopRegs _ hk]
  · rw [hrf, rf_stopRegs _ hk hr]
  · rw [hcore, coreOf_setCore_other _ _ hj, coreYield_other s hj]

theorem breakpoint_result {s : State} {k : Fin 10} (hl : coreLive s k.val = true) (hw : (coreOf s k.val).wait = .none)
    (hy : coreMayYield s k.val = true) (hb : bpHit s k.val = true) : Runs (.breakpoint k) s (Stopped k.val 2 s) := by
  have hex : exec (.breakpoint k) s = .next (coreStop s k.val 2) := by
    show execBreakpoint k s = _
    rw [execBreakpoint, onlyIf, hl, hw, hy, hb]
    rfl
  exact ⟨_, hex, coreStop_stopped s k.isLt (by decide)⟩

/-! Core control (R520). -/

/-- The fields that a write of DBG_CORECTL stores. -/
def corectlStored (s : State) (k : Nat) (v : Word) : State :=
  wb (wf (wf (if dbgCorectlCSTOP.get v = 1 then clearBit s (dbgCorectl k) dbgCorectlCSTOP else s) (dbgCorectl k) dbgCorectlWPEN (dbgCorectlWPEN.get v))
    (dbgCorectl k) dbgCorectlBPEN (dbgCorectlBPEN.get v)) (dbgCorectl k) dbgCorectlMASKSTEP (dbgCorectlMASKSTEP.get v == 1)

/-- What a write of DBG_CORECTL asks of the core. -/
def corectlActs (t : State) (k : Nat) (v : Word) : State :=
  let t := if dbgCorectlSTOP.get v = 1 then stopWrite t k else t
  let t := if dbgCorectlSTEP.get v = 1 then stepWrite t k else t
  if dbgCorectlRESUME.get v = 1 then coreResume t k else t

theorem dbgCorectlWrite_may {s : State} {q : Req} (hq : holdsType s q otDebug = true) (k : Nat) (v : Word) :
    dbgCorectlWrite s q k v = respond (corectlActs (corectlStored s k v) k v) 0 := by
  unfold dbgCorectlWrite
  dsimp only
  rw [hq]
  rfl

theorem corectlStored_sameBut (s : State) (k : Nat) {v : Word} (h : dbgCorectlCSTOP.get v = 0) : SameBut [.regs] s (corectlStored s k v) := by
  rw [corectlStored, h, if_neg (by decide)]
  exact ((wf_sameBut s _ _ _).and (wf_sameBut _ _ _ _)).and (wb_sameBut _ _ _ _)

theorem regsBut_corectlStored (s : State) (k : Nat) {v : Word} (h : dbgCorectlCSTOP.get v = 0) : RegsBut [dbgCorectl k] s (corectlStored s k v) := by
  rw [corectlStored, h, if_neg (by decide)]
  exact ((regsBut_wf s _ _ _).and (regsBut_wf _ _ _ _)).and (regsBut_wb _ _ _ _)

theorem corectlBit_get (s : State) (k : Nat) {f g : Fld} (hf : f.fits = true) (hg : g.fits = true) (hcs : dbgCorectlCSTOP.hi < g.lo ∨ g.hi < dbgCorectlCSTOP.lo)
    (hfg : f.hi < g.lo ∨ g.hi < f.lo) : g.get (corectlBit s k f) = rf s (dbgCorectl k) g := by
  rw [corectlBit, Fld.get_put_apart _ _ hf hg hfg, Fld.get_put_apart _ _ rfl hg hcs]
  rfl

theorem corectlBit_set (s : State) (k : Nat) {f : Fld} (hf : f.fits = true) (h1 : f.span = 2) : f.get (corectlBit s k f) = 1 := by
  rw [corectlBit, Fld.get_put _ hf, h1]

theorem corectlBit_cstop (s : State) (k : Nat) {f : Fld} (hf : f.fits = true) (h : f.hi < dbgCorectlCSTOP.lo ∨ dbgCorectlCSTOP.hi < f.lo) :
    dbgCorectlCSTOP.get (corectlBit s k f) = 0 := by
  rw [corectlBit, Fld.get_put_apart _ _ hf rfl h, Fld.get_put _ rfl]
  rfl

/-- None of the command bits of DBG_CORECTL is stored. -/
theorem corectl_commands {s : State} {k : Nat} (h : (rd s (dbgCorectl k)).toNat % 8 = 0) :
    rf s (dbgCorectl k) dbgCorectlSTOP = 0 ∧ rf s (dbgCorectl k) dbgCorectlSTEP = 0 ∧ rf s (dbgCorectl k) dbgCorectlRESUME = 0 := by
  simp only [rf, Fld.get, dbgCorectlSTOP, dbgCorectlSTEP, dbgCorectlRESUME, Fld.span, Nat.shiftRight_eq_div_pow]
  omega

section
variable {s : State} {q : Req} {k : Fin 10} (hon : pdOn s 53 = true) (hq : holdsType s q otDebug = true)
  (h0 : (rd s (dbgCorectl k.val)).toNat % 8 = 0)
include hon hq h0

theorem dbgStop_exec : exec (.dbgStop q k) s =
    .next (respond (stopWrite (corectlStored s k.val (corectlBit s k.val dbgCorectlSTOP)) k.val) 0) := by
  obtain ⟨-, hstep, hresume⟩ := corectl_commands h0
  show execDbgStop q k s = _
  rw [execDbgStop, if_pos hon, dbgCorectlWrite_may hq, corectlActs, corectlBit_set _ _ rfl rfl, corectlBit_get _ _ rfl rfl (by decide) (by decide),
    corectlBit_get _ _ rfl rfl (by decide) (by decide), hstep, hresume]
  rfl

theorem dbgCoreStep_exec : exec (.dbgCoreStep q k) s =
    .next (respond (stepWrite (corectlStored s k.val (corectlBit s k.val dbgCorectlSTEP)) k.val) 0) := by
  obtain ⟨hstop, -, hresume⟩ := corectl_commands h0
  show execDbgCoreStep q k s = _
  rw [execDbgCoreStep, if_pos hon, dbgCorectlWrite_may hq, corectlActs, corectlBit_set _ _ rfl rfl, corectlBit_get _ _ rfl rfl (by decide) (by decide),
    corectlBit_get _ _ rfl rfl (by decide) (by decide), hstop, hresume]
  rfl

theorem dbgCoreResume_exec : exec (.dbgCoreResume q k) s =
    .next (respond (coreResume (corectlStored s k.val (corectlBit s k.val dbgCorectlRESUME)) k.val) 0) := by
  obtain ⟨hstop, hstep, -⟩ := corectl_commands h0
  show execDbgCoreResume q k s = _
  rw [execDbgCoreResume, if_pos hon, dbgCorectlWrite_may hq, corectlActs, corectlBit_set _ _ rfl rfl, corectlBit_get _ _ rfl rfl (by decide) (by decide),
    corectlBit_get _ _ rfl rfl (by decide) (by decide), hstop, hstep]
  rfl

end

theorem coreMayYield_congr {s t : State} {k : Nat} (h : coreOf t k = coreOf s k) : coreMayYield t k = coreMayYield s k := by
  simp only [coreMayYield, leavesBehind, h]

theorem coreOf_coreYield_congr {s t : State} {k : Nat} (h : coreOf t k = coreOf s k) : coreOf (coreYield t k) k = coreOf (coreYield s k) k := by
  rw [coreYield, coreYield, coreOf_setCore_same, coreOf_setCore_same, h]

theorem coreOf_respond (s : State) (c : Nat) (w : Word) (k : Nat) : coreOf (respond s c w) k = coreOf s k := rfl

theorem corectl_ne_pctlPd (k d : Nat) : pctlPd d ∉ [dbgCorectl k] ∨ 56 ≤ d := by
  simp only [List.mem_singleton, pctlPd, dbgCorectl]
  omega

/-- A core that runs between two instructions stops at once. -/
theorem dbgStop_stops {s : State} {q : Req} {k : Fin 10} (hon : pdOn s 53 = true) (hq : holdsType s q otDebug = true)
    (h0 : (rd s (dbgCorectl k.val)).toNat % 8 = 0) (hst : (coreOf s k.val).stopped = false) (hl : coreLive s k.val = true)
    (hy : coreMayYield s k.val = true) (hp : (coreOf s k.val).openPair = false) :
    Runs (.dbgStop q k) s (fun t => t.resp = ⟨0, 0⟩ ∧ Stopped k.val 1 s t) := by
  have hcs : dbgCorectlCSTOP.get (corectlBit s k.val dbgCorectlSTOP) = 0 := corectlBit_cstop _ _ rfl (by decide)
  have hs := corectlStored_sameBut s k.val hcs
  have hr := regsBut_corectlStored s k.val hcs
  refine ⟨_, dbgStop_exec hon hq h0, rfl, ?_⟩
  generalize corectlStored s k.val (corectlBit s k.val dbgCorectlSTOP) = u at hs hr
  have hcore (j : Nat) : coreOf u j = coreOf s j := coreOf_congr hs (by decide) j
  have hd : coreDomain k.val < 56 := by have := k.isLt; unfold coreDomain; split <;> omega
  have hlive : coreLive u k.val = true := by
    rw [← hl, coreLive, coreLive, hcore, hs .running (by decide), hr.pdOn_eq _ ((corectl_ne_pctlPd _ _).resolve_right (by omega))]
  have hstop : stopWrite u k.val = coreStop u k.val 1 := by
    rw [stopWrite, hcore, hst, hlive, coreMayYield_congr (hcore k.val), hy, hp]
    rfl
  obtain ⟨h1, h2, h3, h4, h5⟩ := coreStop_stopped u k.isLt (reason := 1) (by decide)
  rw [hstop]
  exact ⟨by rwa [coreOf_respond], by rw [coreOf_respond, h2, coreOf_coreYield_congr (hcore k.val)], by rwa [rb_respond], by rwa [rf_respond],
    fun j hj => by rw [coreOf_respond, h5 j hj, hcore]⟩

/-- Another core stops at its next boundary. -/
theorem dbgStop_notes {s : State} {q : Req} {k : Fin 10} (hon : pdOn s 53 = true) (hq : holdsType s q otDebug = true)
    (h0 : (rd s (dbgCorectl k.val)).toNat % 8 = 0) (hst : (coreOf s k.val).stopped = false)
    (h : coreLive s k.val = false ∨ coreMayYield s k.val = false ∨ (coreOf s k.val).openPair = true) :
    Runs (.dbgStop q k) s (fun t => t.resp = ⟨0, 0⟩ ∧ k.val ∈ t.dbg.stops ∧ RegsBut [dbgCorectl k.val] s t ∧ SameBut [.dbg, .resp, .regs] s t) := by
  have hcs : dbgCorectlCSTOP.get (corectlBit s k.val dbgCorectlSTOP) = 0 := corectlBit_cstop _ _ rfl (by decide)
  have hs := corectlStored_sameBut s k.val hcs
  have hr := regsBut_corectlStored s k.val hcs
  refine ⟨_, dbgStop_exec hon hq h0, rfl, ?_⟩
  generalize corectlStored s k.val (corectlBit s k.val dbgCorectlSTOP) = u at hs hr
  have hcore : coreOf u k.val = coreOf s k.val := coreOf_congr hs (by decide) _
  have hd : coreDomain k.val < 56 := by have := k.isLt; unfold coreDomain; split <;> omega
  have hlive : coreLive u k.val = coreLive s k.val := by
    rw [coreLive, coreLive, hcore, hs .running (by decide), hr.pdOn_eq _ ((corectl_ne_pctlPd _ _).resolve_right (by omega))]
  have hnote : stopWrite u k.val = onDbg u (fun d => { d with stops := k.val :: d.stops.erase k.val }) := by
    have hno : (coreLive s k.val && coreMayYield s k.val && !(coreOf s k.val).openPair) = false := by
      rcases h with h | h | h <;> simp [h]
    rw [stopWrite, hcore, hst, hlive, coreMayYield_congr hcore, hno]
    rfl
  rw [hnote]
  exact ⟨List.mem_cons_self, (hr.and (regsBut_onDbg u _)).and (regsBut_respond _ _ _),
    ((hs.mono (by decide)).and (onDbg_sameBut u _)).trans ((respond_sameBut _ _ _).mono (by decide))⟩

/-- A stopped core goes on: alone or for one instruction. -/
def Resumed (k : Nat) (step : Bool) (s t : State) : Prop :=
  coreOf t k = { coreOf s k with stopped := false, dbgStep := step } ∧ rb t (dbgCorectl k) dbgCorectlSTOPPED = false ∧
    (∀ j, j ≠ k → coreOf t j = coreOf s j) ∧ RegsBut [dbgCorectl k] s t ∧ SameBut [.cores, .dbg, .resp, .regs] s t

theorem coreResume_resumed {s u : State} {k : Nat} (hst : (coreOf s k).stopped = true) (hs : SameBut [.regs] s u) (hr : RegsBut [dbgCorectl k] s u) :
    Resumed k false s (coreResume u k) := by
  have hcore (j : Nat) : coreOf u j = coreOf s j := coreOf_congr hs (by decide) j
  rw [coreResume_eq, hcore, if_pos hst]
  refine ⟨?_, ?_, fun j hj => ?_, (hr.and (regsBut_unstopped u k)).and (regsBut_onDbg _ _), ?_⟩
  · rw [coreOf_congr (onDbg_sameBut _ _) (by decide), unstopped, coreOf_congr (wb_sameBut _ _ _ _) (by decide), coreOf_setCore_same, hcore]
  · rw [rb_onDbg, unstopped, rb_wb_same _ _ _ _ rfl]
  · rw [coreOf_congr (onDbg_sameBut _ _) (by decide), unstopped, coreOf_congr (wb_sameBut _ _ _ _) (by decide), coreOf_setCore_other _ _ hj, hcore]
  · exact ((hs.mono (by decide)).trans ((unstopped_sameBut u k).mono (by decide))).trans ((onDbg_sameBut _ _).mono (by decide))

theorem Resumed.respond {k : Nat} {b : Bool} {s t : State} (h : Resumed k b s t) (c : Nat) (w : Word) : Resumed k b s (respond t c w) := by
  obtain ⟨h1, h2, h3, h4, h5⟩ := h
  exact ⟨h1, h2, h3, h4.and (regsBut_respond _ _ _), h5.trans ((respond_sameBut _ _ _).mono (by decide))⟩

theorem dbgCoreResume_result {s : State} {q : Req} {k : Fin 10} (hon : pdOn s 53 = true) (hq : holdsType s q otDebug = true)
    (h0 : (rd s (dbgCorectl k.val)).toNat % 8 = 0) (hst : (coreOf s k.val).stopped = true) :
    Runs (.dbgCoreResume q k) s (fun t => t.resp = ⟨0, 0⟩ ∧ Resumed k.val false s t) := by
  have hcs : dbgCorectlCSTOP.get (corectlBit s k.val dbgCorectlRESUME) = 0 := corectlBit_cstop _ _ rfl (by decide)
  exact ⟨_, dbgCoreResume_exec hon hq h0, rfl, (coreResume_resumed hst (corectlStored_sameBut s k.val hcs) (regsBut_corectlStored s k.val hcs)).respond _ _⟩

theorem dbgCoreStep_result {s : State} {q : Req} {k : Fin 10} (hon : pdOn s 53 = true) (hq : holdsType s q otDebug = true)
    (h0 : (rd s (dbgCorectl k.val)).toNat % 8 = 0) (hst : (coreOf s k.val).stopped = true) :
    Runs (.dbgCoreStep q k) s (fun t => t.resp = ⟨0, 0⟩ ∧ Resumed k.val true s t) := by
  have hcs : dbgCorectlCSTOP.get (corectlBit s k.val dbgCorectlSTEP) = 0 := corectlBit_cstop _ _ rfl (by decide)
  have hs := corectlStored_sameBut s k.val hcs
  obtain ⟨h1, h2, h3, h4, h5⟩ := coreResume_resumed hst hs (regsBut_corectlStored s k.val hcs)
  have hstep : stepWrite (corectlStored s k.val (corectlBit s k.val dbgCorectlSTEP)) k.val =
      setCore (coreResume (corectlStored s k.val (corectlBit s k.val dbgCorectlSTEP)) k.val) k.val
        { coreOf (coreResume (corectlStored s k.val (corectlBit s k.val dbgCorectlSTEP)) k.val) k.val with dbgStep := true } := by
    rw [stepWrite, coreOf_congr hs (by decide), if_pos hst]
  refine ⟨_, dbgCoreStep_exec hon hq h0, rfl, Resumed.respond ?_ _ _⟩
  rw [hstep]
  generalize coreResume (corectlStored s k.val (corectlBit s k.val dbgCorectlSTEP)) k.val = u at h1 h2 h3 h4 h5
  exact ⟨by rw [coreOf_setCore_same, h1], h2, fun j hj => by rw [coreOf_setCore_other _ _ hj, h3 j hj], h4.and (regsBut_setCore u _ _),
    h5.and (setCore_sameBut u _ _)⟩

/-! What a stopped core holds (R520). -/

theorem dbgCdatWrite_exec {s : State} {q : Req} (k : Fin 10) (v : Word) (hon : pdOn s 53 = true) :
    exec (.dbgCdatWrite q k v) s = .next (cdatWrite s q k.val v) := by
  show execDbgCdatWrite q k v s = _
  rw [execDbgCdatWrite, if_pos hon]
  rfl

theorem cdatWrite_core {s : State} {k : Nat} {c : Core} {t : State} (h : t = respond (setCore s k c) 0) :
    t.resp = ⟨0, 0⟩ ∧ coreOf t k = c ∧ (∀ j, j ≠ k → coreOf t j = coreOf s j) ∧ SameBut [.cores, .resp] s t := by
  subst h
  exact ⟨rfl, (coreOf_respond _ _ _ _).trans (coreOf_setCore_same s k c), fun j hj => (coreOf_respond _ _ _ _).trans (coreOf_setCore_other s c hj),
    ((setCore_sameBut s k c).mono (by decide)).and (respond_sameBut _ _ _)⟩

theorem dbgCdatWrite_pc {s : State} {q : Req} {k : Fin 10} {v : Word} (hon : pdOn s 53 = true) (hq : holdsType s q otDebug = true)
    (hst : (coreOf s k.val).stopped = true) (hsp : rf s (dbgCsel k.val) dbgCselSPACE = 2) :
    Runs (.dbgCdatWrite q k v) s (fun t => t.resp = ⟨0, 0⟩ ∧ coreOf t k.val = { coreOf s k.val with pc := pcOfWord v } ∧
      (∀ j, j ≠ k.val → coreOf t j = coreOf s j) ∧ SameBut [.cores, .resp] s t) := by
  refine ⟨_, dbgCdatWrite_exec k v hon, cdatWrite_core ?_⟩
  unfold cdatWrite
  dsimp only
  rw [if_neg (by simp [hq]), if_neg (by simp [hst]), hsp]
  rfl

theorem dbgCdatWrite_item {s : State} {q : Req} {k : Fin 10} {v : Word} (hon : pdOn s 53 = true) (hq : holdsType s q otDebug = true)
    (hst : (coreOf s k.val).stopped = true) (hsp : rf s (dbgCsel k.val) dbgCselSPACE = 0) :
    Runs (.dbgCdatWrite q k v) s (fun t => t.resp = ⟨0, 0⟩ ∧
      (coreOf t k.val).bank (rf s (dbgCsel k.val) dbgCselSEL / 512) =
        ((coreOf s k.val).landAll.bank (rf s (dbgCsel k.val) dbgCselSEL / 512)).setItem (rf s (dbgCsel k.val) dbgCselSEL % 512) v ∧
      (∀ j, j ≠ k.val → coreOf t j = coreOf s j) ∧ SameBut [.cores, .resp] s t) := by
  have hw : cdatWrite s q k.val v = respond (setCore s k.val ((coreOf s k.val).landAll.setBank (rf s (dbgCsel k.val) dbgCselSEL / 512)
      (((coreOf s k.val).landAll.bank (rf s (dbgCsel k.val) dbgCselSEL / 512)).setItem (rf s (dbgCsel k.val) dbgCselSEL % 512) v))) 0 := by
    rw [cdatWrite, hq, hst, hsp]
    rfl
  obtain ⟨h1, h2, h3, h4⟩ := cdatWrite_core hw
  exact ⟨_, dbgCdatWrite_exec k v hon, h1, by rw [h2, Core.bank_setBank_same], h3, h4⟩

/-! The trace (R522). -/

theorem trmarkWrite_result {s : State} {v : Word} (hon : pdOn s 55 = true) (ht : traceOn s 4 0xFF = true) (hn : s.sig.traces.length < 16) :
    Runs (.trmarkWrite v) s (fun t => t.resp = ⟨0, 0⟩ ∧ t.sig = { s.sig with traces := s.sig.traces ++ [⟨4, 0xFF, v.toNat % 2 ^ 36, btime s⟩] } ∧
      SameBut [.sig, .resp] s t) := by
  have hex : exec (.trmarkWrite v) s =
      .next (respond { s with sig := { s.sig with traces := s.sig.traces ++ [⟨4, 0xFF, v.toNat % 2 ^ 36, btime s⟩] } } 0) := by
    show execTrmarkWrite v s = _
    rw [execTrmarkWrite, if_pos hon, trmarkWrite, raiseTrace, ht, if_neg (by simp), if_pos hn]
    rfl
  refine ⟨_, hex, rfl, rfl, ?_⟩
  intro p hp; cases p <;> simp [Part.same, respond] at hp ⊢

/-- The trace ring with an entry's two words, and its pointer moved on. -/
def ringWords (u : State) (i : Nat) (w0 w1 : Word) : State := wf (wr (wr u (dbgTrbuf i 0) w0) (dbgTrbuf i 1) w1) dbgTrptr dbgTrptrWR ((i + 1) % 4096)

theorem ringPut_eq (u : State) (w0 : Word) (kind src data : Nat) : ringPut u w0 kind src data =
    if rf u dbgTrptr dbgTrptrWR = 4095 && rb (ringWords u (rf u dbgTrptr dbgTrptrWR) w0
        (BitVec.ofNat 48 (kind * 2 ^ 44 + src % 256 * 2 ^ 36 + data % 2 ^ 36))) dbgTrctl dbgTrctlMODE then
      wb (ringWords u (rf u dbgTrptr dbgTrptrWR) w0 (BitVec.ofNat 48 (kind * 2 ^ 44 + src % 256 * 2 ^ 36 + data % 2 ^ 36))) dbgTrctl dbgTrctlRUN false
    else ringWords u (rf u dbgTrptr dbgTrptrWR) w0 (BitVec.ofNat 48 (kind * 2 ^ 44 + src % 256 * 2 ^ 36 + data % 2 ^ 36)) := rfl

theorem ringWords_sameBut (u : State) (i : Nat) (w0 w1 : Word) : SameBut [.regs] u (ringWords u i w0 w1) :=
  ((wr_sameBut u _ _).and (wr_sameBut _ _ _)).and (wf_sameBut _ _ _ _)

/-- What an entry written into the ring leaves. -/
def RingPut (u : State) (i : Nat) (w0 w1 : Word) (t : State) : Prop :=
  rd t (dbgTrbuf i 0) = w0 ∧ rf t dbgTrptr dbgTrptrWR = (i + 1) % 4096 ∧ rd t (dbgTrbuf i 1) = w1 ∧
    RegsBut [dbgTrbuf i 0, dbgTrbuf i 1, dbgTrptr, dbgTrctl] u t ∧ SameBut [.regs] u t

theorem trbuf_ne_trptr {i : Nat} (j : Nat) : dbgTrbuf i j ≠ dbgTrptr ∧ dbgTrbuf i j ≠ dbgTrctl := by
  simp only [dbgTrbuf, dbgTrptr, dbgTrctl]
  omega

theorem ringPut_ringWords (u : State) (i : Nat) (w0 w1 : Word) : RingPut u i w0 w1 (ringWords u i w0 w1) := by
  have h01 : dbgTrbuf i 0 ≠ dbgTrbuf i 1 := by simp only [dbgTrbuf]; omega
  refine ⟨?_, ?_, ?_, ?_, ringWords_sameBut u i w0 w1⟩
  · rw [ringWords, rd_wf_other _ _ _ (trbuf_ne_trptr 0).1, rd_wr_other _ _ h01, rd_wr_same]
  · rw [ringWords, rf_wf_same _ _ _ _ rfl]
    exact Nat.mod_eq_of_lt (Nat.mod_lt _ (by decide))
  · rw [ringWords, rd_wf_other _ _ _ (trbuf_ne_trptr 1).1, rd_wr_same]
  · have hw0 := (regsBut_wr u (dbgTrbuf i 0) w0).mono (m := [dbgTrbuf i 0, dbgTrbuf i 1, dbgTrptr, dbgTrctl]) (by simp)
    exact (hw0.and (regsBut_wr _ (dbgTrbuf i 1) w1)).and (regsBut_wf _ dbgTrptr _ _)

theorem RingPut.stop {u t : State} {i : Nat} {w0 w1 : Word} (h : RingPut u i w0 w1 t) : RingPut u i w0 w1 (wb t dbgTrctl dbgTrctlRUN false) := by
  obtain ⟨h1, h2, h3, h4, h5⟩ := h
  have hr := regsBut_wb t dbgTrctl dbgTrctlRUN false
  exact ⟨(hr _ (by simpa using (trbuf_ne_trptr 0).2)).trans h1, (hr.rf_eq (by decide) _).trans h2,
    (hr _ (by simpa using (trbuf_ne_trptr 1).2)).trans h3, h4.and hr, h5.and (wb_sameBut _ _ _ _)⟩

theorem ringPut_result (u : State) (w0 : Word) (kind src data : Nat) :
    RingPut u (rf u dbgTrptr dbgTrptrWR) w0 (BitVec.ofNat 48 (kind * 2 ^ 44 + src % 256 * 2 ^ 36 + data % 2 ^ 36)) (ringPut u w0 kind src data) := by
  rw [ringPut_eq]
  split
  · exact (ringPut_ringWords u _ w0 _).stop
  · exact ringPut_ringWords u _ w0 _

theorem sig_sameBut (s : State) (g : Sig) : SameBut [.sig] s { s with sig := g } := by
  intro p hp; cases p <;> simp [Part.same] at hp ⊢

theorem traceWrite_result {s : State} {e : TraceEv} {r : List TraceEv} (hs : s.sig.traces = e :: r) (hon : pdOn s 55 = true) (hrun : s.running = true)
    (hlost : s.sig.tlost = 0) :
    Runs .traceWrite s (fun t => t.sig = { s.sig with traces := r } ∧ rd t (dbgTrbuf (rf s dbgTrptr dbgTrptrWR) 0) = e.at_ ∧
      rf t dbgTrptr dbgTrptrWR = (rf s dbgTrptr dbgTrptrWR + 1) % 4096 ∧
      rd t (dbgTrbuf (rf s dbgTrptr dbgTrptrWR) 1) = BitVec.ofNat 48 (e.kind * 2 ^ 44 + e.src % 256 * 2 ^ 36 + e.data % 2 ^ 36) ∧
      RegsBut [dbgTrbuf (rf s dbgTrptr dbgTrptrWR) 0, dbgTrbuf (rf s dbgTrptr dbgTrptrWR) 1, dbgTrptr, dbgTrctl] s t ∧ SameBut [.sig, .regs] s t) := by
  have hex : exec .traceWrite s = .next (ringPut { s with sig := { s.sig with traces := r } } e.at_ e.kind e.src e.data) := by
    show execTraceWrite s = _
    rw [execTraceWrite, hs]
    simp only [hon, hrun, hlost]
    rfl
  obtain ⟨h1, h2, h3, h4, h5⟩ := ringPut_result { s with sig := { s.sig with traces := r } } e.at_ e.kind e.src e.data
  exact ⟨_, hex, h5 .sig (by decide), h1, h2, h3, h4, ((sig_sameBut s _).mono (by decide)).and h5⟩

/-- Settles O57: each command by its equation, the state in which its access or write acts being named. -/
theorem debugUnit : Obligations.DebugUnit := by
  unfold Obligations.DebugUnit
  intro s q v w k
  refine ⟨fun hg hb => ⟨_, (by rw [← dpWrite_maddr hg hb]; rfl : exec (.dpMaddrWrite v) s = .next _), rfl, (onDbg_sameBut s _).and (dpAnswer_sameBut _ _ _)⟩,
    dpMdataWrite_result, fun hg => ⟨dpMdataRead_starts hg, dpMdataRead_takes hg⟩, ?_,
    fun hg => ⟨(dpVtRead_result hg).1 w, (dpVtRead_result hg).2⟩, fun hg => ⟨(dpVtWrite_result hg v).1, (dpVtWrite_result hg v).2 w⟩,
    fun hon => ⟨(vtoutWrite_result hon v).1, (vtoutWrite_result hon v).2 w, vtinRead_result hon, fun hq => ⟨fun h0 => ⟨dbgStop_stops hon hq h0,
      dbgStop_notes hon hq h0, fun hst => ⟨dbgCoreStep_result hon hq h0 hst, dbgCoreResume_result hon hq h0 hst⟩⟩,
      dbgCdatWrite_pc hon hq, dbgCdatWrite_item hon hq⟩⟩,
    breakpoint_result, trmarkWrite_result, fun e r => traceWrite_result⟩
  intro hrun hon ha hclear hcode
  exact ⟨dpAccessDone_waits ⟨hrun, hon, ha, hclear, hcode⟩, fun hg => ⟨dpAccessDone_read_result ⟨hrun, hon, ha, hclear, hcode⟩ hg,
    dpAccessDone_write_result ⟨hrun, hon, ha, hclear, hcode⟩ hg⟩⟩

end Sys2Proof.Machine

/-! Writes of registers without behaviour of their own, and the host ports (R10, R11, R236, R264, R265, R494 to R498). -/

namespace Sys2Proof.Machine

set_option Elab.async false

/-! Registers (R10, R11, R236). -/

theorem registerWrite_exec (q : Req) (a : BitVec 40) (v : Word) (s : State) : exec (.registerWrite q a v) s = .next (regWrite s q a.toNat v) := rfl

theorem regWrite_outside {s : State} {a : Nat} (h : regUnit a = none) (q : Req) (v : Word) : regWrite s q a v = respond s 4 := by
  unfold regWrite
  rw [h]

theorem regWrite_unlisted {s : State} {a u : Nat} (h : regUnit a = some u) (hf : regFind a = none) (q : Req) (v : Word) :
    regWrite s q a v = respond s 0 := by
  unfold regWrite
  rw [h, hf]

theorem regWrite_gone {s : State} {a u : Nat} {d : RegDesc} {ix : List Nat} (h : regUnit a = some u) (hf : regFind a = some (d, ix))
    (hon : areaOn s ix d.area = false) (q : Req) (v : Word) : regWrite s q a v = respond s 3 := by
  unfold regWrite
  rw [h, hf]
  dsimp only
  rw [hon]
  rfl

theorem intcWrite_plain {s : State} {d : RegDesc} (h : d.base ∉ actingRegs 1) (ix : List Nat) (q : Req) (a : Nat) (v : Word) :
    intcWrite s d ix q a v = plainWrite s d q a v := by
  simp only [actingRegs, List.mem_cons, List.not_mem_nil, or_false, not_or] at h
  obtain ⟨h1, h2, h3, h4⟩ := h
  rw [intcWrite, if_neg h1, if_neg h2, if_neg h3, if_neg h4]

theorem wearWrite_plain {s : State} {d : RegDesc} (h : d.base ∉ actingRegs 9) (q : Req) (a : Nat) (v : Word) :
    wearWrite s d q a v = plainWrite s d q a v := by
  simp only [actingRegs, List.mem_cons, List.not_mem_nil, or_false, not_or] at h
  obtain ⟨h1, h2, h3⟩ := h
  rw [wearWrite, if_neg h1, if_neg h2, if_neg h3]

theorem mirrorWrite_plain {s : State} {d : RegDesc} (h : d.base ∉ actingRegs 10) (q : Req) (a : Nat) (v : Word) :
    mirrorWrite s d q a v = plainWrite s d q a v := by
  simp only [actingRegs, List.mem_cons, List.not_mem_nil, or_false, not_or] at h
  obtain ⟨h1, h2, h3, h4, h5, h6⟩ := h
  rw [mirrorWrite, if_neg h1, if_neg h2, if_neg (by simp [h3, h4, h5, h6])]

theorem rackWrite_plain {s : State} {d : RegDesc} (h : d.base ∉ actingRegs 11) (ix : List Nat) (q : Req) (a : Nat) (v : Word) :
    rackWrite s d ix q a v = plainWrite s d q a v := by
  simp only [actingRegs, List.mem_cons, List.not_mem_nil, or_false, not_or] at h
  obtain ⟨h1, h2, h3, h4, h5⟩ := h
  rw [rackWrite, if_neg h1, if_neg (by simp [h2, h3]), if_neg h4, if_neg h5]

theorem regWrite_plain {s : State} {a u : Nat} {d : RegDesc} {ix : List Nat} (h : regUnit a = some u) (hf : regFind a = some (d, ix))
    (hon : areaOn s ix d.area = true) (hu : u ∈ [1, 9, 10, 11]) (hd : d.base ∉ actingRegs u) (q : Req) (v : Word) :
    regWrite s q a v = plainWrite s d q a v := by
  unfold regWrite
  rw [h, hf]
  dsimp only
  rw [if_neg (by simp [hon])]
  simp only [List.mem_cons, List.not_mem_nil, or_false] at hu
  rcases hu with rfl | rfl | rfl | rfl
  · exact intcWrite_plain hd ix q a v
  · exact wearWrite_plain hd q a v
  · exact mirrorWrite_plain hd q a v
  · exact rackWrite_plain hd ix q a v

theorem regPut_eq {s : State} {a : Nat} {d : RegDesc} {ix : List Nat} (hf : regFind a = some (d, ix)) (may : Bool) (v : Word) :
    regPut s a may v = clearTo s a (setsAt s a (d.clears v)) (regMerge d (rd s a) v may) := by
  unfold regPut
  rw [hf]

/-- A write that clears bits leaves the value written, or that value with what the hardware sets in the cycle (R10). -/
theorem rd_clearTo (s : State) (a : Nat) (l : List HwSet) (w : Word) :
    rd (clearTo s a l w) a = w ∨ rd (clearTo s a l w) a = l.foldl HwSet.apply w := by
  unfold clearTo
  split
  · exact .inl (rd_wr_same s a w)
  · split
    · exact .inr (rd_wr_same (freshBit s).2 a _)
    · exact .inl (rd_wr_same (freshBit s).2 a w)

theorem registerWrite_plain {s : State} {q : Req} {a : BitVec 40} {v : Word} {u : Nat} {d : RegDesc} {ix : List Nat} (h : regUnit a.toNat = some u)
    (hf : regFind a.toNat = some (d, ix)) (hon : areaOn s ix d.area = true) (hu : u ∈ [1, 9, 10, 11]) (hd : d.base ∉ actingRegs u) :
    (setsAt s a.toNat (d.clears v) = [] → Runs (.registerWrite q a v) s (fun t => t.resp = ⟨denied d (holdsType s q d.otype), 0⟩ ∧
      RegsAre [(a.toNat, regMerge d (rd s a.toNat) v (holdsType s q d.otype))] s t ∧ SameBut [.regs, .resp] s t)) ∧
    (setsAt s a.toNat (d.clears v) ≠ [] → Runs (.registerWrite q a v) s (fun t => t.resp = ⟨denied d (holdsType s q d.otype), 0⟩ ∧
      (rd t a.toNat = regMerge d (rd s a.toNat) v (holdsType s q d.otype) ∨
        rd t a.toNat = (setsAt s a.toNat (d.clears v)).foldl HwSet.apply (regMerge d (rd s a.toNat) v (holdsType s q d.otype))) ∧
      RegsBut [a.toNat] s t ∧ SameBut [.regs, .free, .resp] s t)) := by
  have hex : exec (.registerWrite q a v) s = .next (respond (clearTo s a.toNat (setsAt s a.toNat (d.clears v))
      (regMerge d (rd s a.toNat) v (holdsType s q d.otype))) (denied d (holdsType s q d.otype))) := by
    rw [registerWrite_exec, regWrite_plain h hf hon hu hd, plainWrite, regPut_eq hf]
  refine ⟨fun he => ⟨_, hex, rfl, ?_⟩, fun _ => ⟨_, hex, rfl, rd_clearTo s _ _ _, (regsBut_clearTo s _ _ _).and (regsBut_respond _ _ _),
    ((clearTo_sameBut s _ _ _).mono (by decide)).and (respond_sameBut _ _ _)⟩⟩
  have hw (w : Word) : clearTo s a.toNat [] w = wr s a.toNat w := rfl
  rw [he, hw]
  exact ⟨RegsAre.and ⟨fun p hp => by rw [List.mem_singleton.1 hp]; exact rd_wr_same s _ _, regsBut_wr s _ _⟩ (regsBut_respond _ _ _),
    ((wr_sameBut s _ _).mono (by decide)).and (respond_sameBut _ _ _)⟩

/-! The host slave port (R494 to R496). -/

/-- A transaction of one beat stands in the port's queue. -/
def hspAsked (s : State) (x : HspTx) : State := withPorts s { s.ports with hspq := [x] }

theorem hspAsked_sameBut (s : State) (x : HspTx) : SameBut [.ports] s (hspAsked s x) := withPorts_sameBut s _

theorem hostOpen_hspAsked (s : State) (x : HspTx) : hostOpen (hspAsked s x) = hostOpen s := rfl

theorem clearingAt_hspAsked (s : State) (x : HspTx) (a : Nat) : clearingAt (hspAsked s x) a = clearingAt s a := rfl

theorem waitingAll_hspAsked (s : State) (x : HspTx) {f : Waiter × Bool → Bool} (hf : ∀ y, y.1.port = 26 → f y = true) (l : List Waiter) :
    (l.filterMap (fun w => (waiterStands (hspAsked s x) w).map (fun r => (w, r)))).all f =
      (l.filterMap (fun w => (waiterStands s w).map (fun r => (w, r)))).all f := by
  induction l with
  | nil => rfl
  | cons w l ih =>
    by_cases h26 : w.port = 26
    · rw [List.filterMap_cons, List.filterMap_cons]
      cases waiterStands (hspAsked s x) w <;> cases waiterStands s w <;> simp [hf (w, _) h26, ih]
    · have hstand : waiterStands (hspAsked s x) w = waiterStands s w := by
        unfold waiterStands
        simp only [h26, if_false]
        rfl
      rw [List.filterMap_cons, List.filterMap_cons, hstand]
      cases waiterStands s w with
      | none => exact ih
      | some r => simp [ih]

theorem rivalsAll_hspAsked (s : State) (x : HspTx) {f : Waiter × Bool → Bool} (hf : ∀ y, y.1.port = 26 → f y = true) :
    (rivals (hspAsked s x)).all f = (rivals s).all f := by
  unfold rivals
  rw [List.all_append, List.all_append]
  exact congrArg₂ (· && ·) (waitingAll_hspAsked s x hf s.msys.waiting) rfl

/-- What the bank ports' arbiters see of other ports does not depend on the host slave port's queue. -/
theorem grantable_hspAsked (s : State) (x : HspTx) (a : Nat) : grantable (hspAsked s x) 26 a false = grantable s 26 a false := by
  have hrank (p b : Nat) (r : Bool) (n : Nat) : grantRank (hspAsked s x) p b r n = grantRank s p b r n := rfl
  unfold grantable
  split
  · rfl
  · rw [rivalsAll_hspAsked s x (fun y hy => by simp [hy])]
    rfl

/-- The transaction of one beat that the command asks for. -/
def hspOne (write : Bool) (addr : BitVec 28) (b : BitVec 64) : HspTx :=
  ⟨write, if addr.toNat % 8 = 0 then some (addr.toNat / 8) else none, [(beatWord b, .none, .none)], [], false⟩

theorem hspRequest_exec {s : State} (hq : s.ports.hspq = []) (hrun : s.running = true) (hopen : hostOpen s = true) (write : Bool) (addr : BitVec 28)
    (b : BitVec 64) : exec (.hspRequest write addr 0 [b] []) s =
      .next (hspBeats (hspAsked s (hspOne write addr b)) (hspOne write addr b) [(beatWord b, .none, .none)]) := by
  have hserve : hspServe (hspAsked s (hspOne write addr b)) =
      hspBeats (hspAsked s (hspOne write addr b)) (hspOne write addr b) [(beatWord b, .none, .none)] := by
    show (if s.running && hostOpen s then _ else _) = _
    rw [hrun, hopen]
    rfl
  show ok (if s.ports.hspq.isEmpty then _ else _) = _
  rw [hq, if_pos (by rfl), ← hserve]
  rfl

/-- Where a transaction of one beat ends. -/
def hspEnd (u : State) (code : Nat) (w : Word) : State := withPorts u { u.ports with hspq := u.ports.hspq.drop 1, hsp := [(code, beatOf w)] }

theorem hspEnd_sameBut (u : State) (c : Nat) (w : Word) : SameBut [.ports] u (hspEnd u c w) := withPorts_sameBut u _

theorem ports_hspEnd {s u : State} {x : HspTx} (hq : s.ports.hspq = []) (hu : u.ports = (hspAsked s x).ports) (c : Nat) (w : Word) :
    (hspEnd u c w).ports = { s.ports with hsp := [(c, beatOf w)] } := by
  show { u.ports with hspq := u.ports.hspq.drop 1, hsp := [(c, beatOf w)] } = _
  rw [hu]
  exact congrArg (fun q => { s.ports with hspq := q, hsp := [(c, beatOf w)] }) hq.symm

theorem hspRequest_misaligned {s : State} (hq : s.ports.hspq = []) (hrun : s.running = true) (hopen : hostOpen s = true) {addr : BitVec 28}
    (hal : addr.toNat % 8 ≠ 0) (b : BitVec 64) :
    Runs (.hspRequest false addr 0 [b] []) s (fun t => t.ports = { s.ports with hsp := [(4, 0)] } ∧ SameBut [.ports] s t) := by
  have hex : exec (.hspRequest false addr 0 [b] []) s = .next (hspEnd (hspAsked s (hspOne false addr b)) 4 0) := by
    rw [hspRequest_exec hq hrun hopen, hspOne, if_neg hal]
    rfl
  exact ⟨_, hex, ports_hspEnd (x := hspOne false addr b) hq rfl 4 0,
    ((hspAsked_sameBut s _).mono (by decide)).and (hspEnd_sameBut _ _ _)⟩

/-- An aligned beat on a word of shared memory that no clearing holds up. -/
theorem hspBeats_here {u : State} {x : HspTx} {b : Word} {a : Nat} (hx : x.at_ = some a) (hgot : x.got = []) (ha : a < 0x100000)
    (hclear : clearingAt u a = false) : hspBeats u x [(b, .none, .none)] =
      if !grantable u 26 a false then withPorts (waitMark u 26 a) { (waitMark u 26 a).ports with hspq := { x with acc := true } :: (waitMark u 26 a).ports.hspq.drop 1 }
      else hspEnd (hspBeat u x.write a b .none .none).2 (hspBeat u x.write a b .none .none).1.1 (hspBeat u x.write a b .none .none).1.2 := by
  have hw : hspWord a = some a := by rw [hspWord, if_pos ha]
  unfold hspBeats
  rw [hx]
  dsimp only
  rw [hw]
  dsimp only
  rw [hclear, hgot]
  unfold hspBeats
  unfold hspFinish
  simp only [List.isEmpty_nil, if_true, Bool.false_eq_true, if_false]
  rfl

theorem waitMark_sameBut (s : State) (p a : Nat) : SameBut [.msys] s (waitMark s p a) := by
  unfold waitMark
  split
  · exact SameBut.refl _ s
  · exact msys_sameBut s _

theorem hspRequest_waits {s : State} (hq : s.ports.hspq = []) (hrun : s.running = true) (hopen : hostOpen s = true) {addr : BitVec 28}
    (hal : addr.toNat % 8 = 0) (ha : addr.toNat / 8 < 0x100000) (hclear : clearingAt s (addr.toNat / 8) = false)
    (hg : grantable s 26 (addr.toNat / 8) false = false) (b : BitVec 64) : Runs (.hspRequest true addr 0 [b] []) s (fun t =>
      (∃ y, y.acc = true ∧ t.ports = { s.ports with hspq := [y] }) ∧ SameBut [.ports, .msys] s t) := by
  refine ⟨_, hspRequest_exec hq hrun hopen true addr b, ?_⟩
  have hx : (hspOne true addr b).at_ = some (addr.toNat / 8) := if_pos hal
  rw [hspBeats_here hx rfl ha ((clearingAt_hspAsked s _ _).trans hclear), grantable_hspAsked, hg, if_pos (by rfl)]
  have hmark := waitMark_sameBut (hspAsked s (hspOne true addr b)) 26 (addr.toNat / 8)
  have hports : (waitMark (hspAsked s (hspOne true addr b)) 26 (addr.toNat / 8)).ports = (hspAsked s (hspOne true addr b)).ports := hmark .ports (by decide)
  generalize waitMark (hspAsked s (hspOne true addr b)) 26 (addr.toNat / 8) = u at hmark hports
  exact ⟨⟨{ hspOne true addr b with acc := true }, rfl,
      congrArg (fun p : Ports => { p with hspq := { hspOne true addr b with acc := true } :: p.hspq.drop 1 }) hports⟩,
    (((hspAsked_sameBut s (hspOne true addr b)).mono (by decide : ∀ p ∈ [Part.ports], p ∈ [Part.ports, .msys])).and hmark).and (withPorts_sameBut u _)⟩

/-- A granted beat acts on the state in which its wait was recorded. -/
def hspGranted (s : State) (a : Nat) (x : HspTx) : State := icGrant (hspAsked s x) 26 a 0

theorem hspGranted_sameBut (s : State) (a : Nat) (x : HspTx) : SameBut [.ports, .regs, .msys] s (hspGranted s a x) :=
  ((hspAsked_sameBut s x).mono (by decide)).and (icGrant_sameBut _ _ _ _)

theorem regsBut_hspGranted (s : State) (a : Nat) (x : HspTx) : RegsBut [memArb 26] s (hspGranted s a x) := regsBut_icGrant _ _ _ _

theorem arrayCode_hspGranted (s : State) (a : Nat) (x : HspTx) : arrayCode (hspGranted s a x) a = arrayCode s a :=
  (arrayCode_icGrant (hspAsked s x) (by decide) _ 0 _).trans
    (arrayCode_congr (l := []) (fun _ _ => rfl) (fun _ _ => List.not_mem_nil) (fun _ _ => List.not_mem_nil) a)

theorem unitPort_host : unitPort 26 := .inr (by decide)

theorem hspRequest_write {s : State} (hq : s.ports.hspq = []) (hrun : s.running = true) (hopen : hostOpen s = true) {addr : BitVec 28}
    (hal : addr.toNat % 8 = 0) (ha : addr.toNat / 8 < 0x100000) (hclear : clearingAt s (addr.toNat / 8) = false)
    (hcode : arrayCode s (addr.toNat / 8) = 0) (hg : grantable s 26 (addr.toNat / 8) false = true) (b : BitVec 64) :
    Runs (.hspRequest true addr 0 [b] []) s (fun t => t.ports = { s.ports with hsp := [(0, 0)] } ∧
      (∀ j, memRd t j = if j = addr.toNat / 8 then beatWord b else memRd s j) ∧
      (∀ j, tagRd t j = if j = addr.toNat / 8 / 2 * 2 then false else tagRd s j) ∧
      RegsBut [memArb 26] s t ∧ SameBut [.ports, .mem, .tags, .msys, .regs] s t) := by
  refine ⟨_, hspRequest_exec hq hrun hopen true addr b, ?_⟩
  have hx : (hspOne true addr b).at_ = some (addr.toNat / 8) := if_pos hal
  rw [hspBeats_here hx rfl ha ((clearingAt_hspAsked s _ _).trans hclear), grantable_hspAsked, hg, if_neg (by decide)]
  generalize addr.toNat / 8 = w at ha hcode hx ⊢
  have hbeat : hspBeat (hspAsked s (hspOne true addr b)) true w (beatWord b) .none .none =
      ((0, 0), putWord (beat (hspGranted s w (hspOne true addr b)) w 26 true false) w (beatWord b)) := by
    unfold hspBeat
    dsimp only
    rw [← hspGranted, icWrite_shared ha,
      arrayWrite_answered (by omega) (arrayAnswer_of_code ((arrayCode_hspGranted s w _).trans hcode))]
    rfl
  rw [show (hspOne true addr b).write = true from rfl, hbeat]
  have hpre := hspGranted_sameBut s w (hspOne true addr b)
  have hgr := regsBut_hspGranted s w (hspOne true addr b)
  have hports : (hspGranted s w (hspOne true addr b)).ports = (hspAsked s (hspOne true addr b)).ports := rfl
  generalize hspGranted s w (hspOne true addr b) = v at hpre hgr hports
  have hacc := beat_sameBut v (p := 26) (by decide) w true
  have hregs := regsBut_of_sameBut hacc (by decide) (by decide) (by decide)
  have hparts := hpre.and (hacc.mono (by decide : ∀ p ∈ [Part.msys], p ∈ [Part.ports, .regs, .msys]))
  have hports' := (hacc .ports (by decide)).trans hports
  generalize beat v w 26 true false = u at hacc hregs hparts hports'
  have hput := putWord_sameBut u w (beatWord b)
  have hpreg := regsBut_of_sameBut hput (by decide) (by decide) (by decide)
  have hend := hspEnd_sameBut (putWord u w (beatWord b)) 0 0
  refine ⟨ports_hspEnd hq ((hput .ports (by decide)).trans hports') 0 0, fun j => ?_, fun j => ?_,
    ((hgr.and hregs).and hpreg).and (regsBut_of_sameBut hend (by decide) (by decide) (by decide)),
    ((hparts.mono (by decide)).trans (hput.mono (by decide))).trans (hend.mono (by decide))⟩
  · rw [hend.memRd_eq (by decide), memRd_putWord, hparts.memRd_eq (by decide)]
  · rw [tagRd, hend .tags (by decide), ← tagRd, tagRd_putWord, tagRd, tagRd, hparts .tags (by decide)]

theorem hspRequest_read {s : State} (hq : s.ports.hspq = []) (hrun : s.running = true) (hopen : hostOpen s = true) {addr : BitVec 28}
    (hal : addr.toNat % 8 = 0) (ha : addr.toNat / 8 < 0x100000) (hclear : clearingAt s (addr.toNat / 8) = false)
    (hcode : arrayCode s (addr.toNat / 8) = 0) (hg : grantable s 26 (addr.toNat / 8) false = true)
    (hu : upsetAt s (upsetKey (addr.toNat / 8)) = .none) (ht : upsetAt s (tagUpsetKey (addr.toNat / 8)) = .none)
    (hseen : arrayWord s (addr.toNat / 8) 26 = (memRd s (addr.toNat / 8), s)) (b : BitVec 64) :
    Runs (.hspRequest false addr 0 [b] []) s (fun t => t.ports = { s.ports with hsp := [(0, beatOf (memRd s (addr.toNat / 8)))] } ∧
      RegsBut [memArb 26] s t ∧ SameBut [.ports, .msys, .regs] s t) := by
  refine ⟨_, hspRequest_exec hq hrun hopen false addr b, ?_⟩
  have hx : (hspOne false addr b).at_ = some (addr.toNat / 8) := if_pos hal
  rw [hspBeats_here hx rfl ha ((clearingAt_hspAsked s _ _).trans hclear), grantable_hspAsked, hg, if_neg (by decide)]
  generalize addr.toNat / 8 = w at ha hcode hx hu ht hseen ⊢
  have hpre := hspGranted_sameBut s w (hspOne false addr b)
  have hgr := regsBut_hspGranted s w (hspOne false addr b)
  have hvis : hiddenWord (hspGranted s w (hspOne false addr b)) w 26 = false :=
    (hiddenWord_congr hgr hpre (memArb_unit (by decide)) (by decide) (by decide) _ _).trans (hiddenWord_of_seen ha hseen)
  have hread := arrayRead_seen (s := hspGranted s w (hspOne false addr b)) ha ((arrayCode_hspGranted s w _).trans hcode) hu ht hvis unitPort_host
    (by decide) true
  have hbeat : hspBeat (hspAsked s (hspOne false addr b)) false w (beatWord b) .none .none =
      ((0, memRd s w), beat (hspGranted s w (hspOne false addr b)) w 26 false false) := by
    unfold hspBeat
    dsimp only
    rw [← hspGranted, icRead_shared ha, hread, hpre.memRd_eq (by decide)]
    rfl
  rw [show (hspOne false addr b).write = false from rfl, hbeat]
  have hports : (hspGranted s w (hspOne false addr b)).ports = (hspAsked s (hspOne false addr b)).ports := rfl
  generalize hspGranted s w (hspOne false addr b) = v at hpre hgr hports
  have hacc := beat_sameBut v (p := 26) (by decide) w false
  have hregs := regsBut_of_sameBut hacc (by decide) (by decide) (by decide)
  have hparts := hpre.and (hacc.mono (by decide : ∀ p ∈ [Part.msys], p ∈ [Part.ports, .regs, .msys]))
  have hports' := (hacc .ports (by decide)).trans hports
  generalize beat v w 26 false false = u at hacc hregs hparts hports'
  have hend := hspEnd_sameBut u 0 (memRd s w)
  exact ⟨ports_hspEnd hq hports' 0 _, (hgr.and hregs).and (regsBut_of_sameBut hend (by decide) (by decide) (by decide)),
    (hparts.mono (by decide)).trans (hend.mono (by decide))⟩

/-! The host master port (R496, R498). -/

/-- Nothing waits at the port, so nothing is issued. -/
theorem hmpIssueOne_still {s : State} (h : s.ports.wait = []) : hmpIssueOne s = s := by
  unfold hmpIssueOne
  rw [h]

theorem hmpIssue_still {s : State} (h : s.ports.wait = []) : hmpIssue s = s := by
  unfold hmpIssue forN
  split
  · exact foldl_fixed _ (fun _ _ => hmpIssueOne_still h)
  · rfl

/-- Every completed transaction is one of a hardware unit, which takes it itself. -/
def unitsOnly (l : List HmpTx) : Prop := ∀ y ∈ l, ∃ c e, y.use = .unit c e

theorem hmpDeliver_units {s : State} (h : unitsOnly s.ports.done) : hmpDeliver s = s := by
  have hkeep (p : HmpTx → Bool) (hp : ∀ c e y, y.use = .unit c e → p y = false) :
      s.ports.done.filter (fun y => !p y) = s.ports.done ∧ s.ports.done.filter p = [] := by
    have hno (y : HmpTx) (hy : y ∈ s.ports.done) : p y = false := by
      obtain ⟨c, e, hu⟩ := h y hy
      exact hp c e y hu
    exact ⟨List.filter_eq_self.2 (fun y hy => by rw [hno y hy]; rfl), List.filter_eq_nil_iff.2 (fun y hy => by rw [hno y hy]; decide)⟩
  unfold hmpDeliver
  dsimp only
  rw [(hkeep _ (fun c e y hu => by rw [hu])).1, (hkeep _ (fun c e y hu => by rw [hu])).2]
  rfl

/-- The beats of the one outstanding transaction of a unit. -/
theorem hmpBeats_unit {s : State} {x : HmpTx} {p i : Nat} (hout : s.ports.out = [x]) (hwait : s.ports.wait = []) (huse : x.use = .unit p i)
    (hdone : unitsOnly s.ports.done) (l : List (Nat × Word)) : hmpBeats s x l =
      if x.beats.length + l.length = x.len then withPorts s { s.ports with out := [], done := s.ports.done ++ [{ x with beats := x.beats ++ l }] }
      else withPorts s { s.ports with out := [{ x with beats := x.beats ++ l }] } := by
  unfold hmpBeats
  dsimp only
  rw [List.length_append]
  split
  · unfold hmpComplete
    rw [hout, List.filter_cons_of_neg (by simp), List.filter_nil, hmpIssue_still (by exact hwait), hmpDeliver_units]
    · rfl
    · intro y hy
      rcases List.mem_append.1 hy with hy | hy
      · exact hdone y hy
      · rw [List.mem_singleton.1 hy]
        exact ⟨p, i, huse⟩
  · rw [hout, List.map_cons, if_pos (by simp)]
    rfl

theorem hmpCode_eq (c : Nat) : hmpCode c = if c = 0 ∨ c = 5 then c else 4 := by
  unfold hmpCode
  congr 1
  simp

/-- The one outstanding transaction is that of a unit with the command's tag. -/
def hmpOnly (s : State) (x : HmpTx) (tag : Nat) : Prop :=
  s.ports.out = [x] ∧ s.ports.wait = [] ∧ x.tag = tag ∧ (∃ p i, x.use = .unit p i) ∧ unitsOnly s.ports.done

theorem hmpResponse_result {s : State} {x : HmpTx} {tag : Fin 32} (h : hmpOnly s x tag.val) (hlive : pdLive s 54 = true) (hrun : s.running = true)
    (code : BitVec 3) (b : BitVec 64) : exec (.hmpResponse tag code b) s =
      .next (if x.beats.length + 1 = x.len then
        withPorts s { s.ports with out := [], done := s.ports.done ++ [{ x with beats := x.beats ++ [(hmpCode code.toNat, beatWord b)] }] }
      else withPorts s { s.ports with out := [{ x with beats := x.beats ++ [(hmpCode code.toNat, beatWord b)] }] }) := by
  obtain ⟨hout, hwait, htag, ⟨p, i, huse⟩, hdone⟩ := h
  have hfind : [x].find? (fun y => y.tag == tag.val) = some x := List.find?_cons_of_pos (by simp [htag])
  show execHmpResponse tag code b s = _
  unfold execHmpResponse
  rw [hlive, hrun, if_neg (by decide), hout, hfind]
  exact congrArg ok (hmpBeats_unit hout hwait huse hdone _)

theorem hmpTimeout_result {s : State} {x : HmpTx} {tag : Fin 32} (h : hmpOnly s x tag.val) (hlen : x.beats.length < x.len)
    (hlate : x.at_ + 300000 ≤ s.port) : exec (.hmpTimeout tag) s = .next (withPorts s { s.ports with
      out := [], late := s.ports.late ++ [(tag.val, x.len - x.beats.length)],
      done := s.ports.done ++ [{ x with beats := x.beats ++ List.replicate (x.len - x.beats.length) (4, 0) }] }) := by
  obtain ⟨hout, hwait, htag, ⟨p, i, huse⟩, hdone⟩ := h
  have hfind : [x].find? (fun y => y.tag == tag.val) = some x := List.find?_cons_of_pos (by simp [htag])
  show execHmpTimeout tag s = _
  unfold execHmpTimeout
  rw [hout, hfind]
  dsimp only
  rw [onlyIf, if_pos (by simp [hlate])]
  refine congrArg ok ((hmpBeats_unit (p := p) (i := i) ?_ ?_ huse ?_ _).trans ?_)
  · exact hout
  · exact hwait
  · exact hdone
  · rw [List.length_replicate, if_pos (by omega)]
    rfl

/-- A beat of a transaction that was given up is discarded, and the last one frees its tag (R282, R498). -/
theorem hmpResponse_late {s : State} {tag : Fin 32} {n : Nat} (hout : s.ports.out = []) (hwait : s.ports.wait = [])
    (hlate : s.ports.late = [(tag.val, n)]) (hlive : pdLive s 54 = true) (hrun : s.running = true) (code : BitVec 3) (b : BitVec 64) :
    exec (.hmpResponse tag code b) s = .next (withPorts s { s.ports with
      late := if n ≤ 1 then [] else [(tag.val, n - 1)], torn := s.ports.torn.filter (fun y => decide (1 < n) && y.1 == tag.val) }) := by
  have hleft : ((s.ports.late.map (fun p => if p.1 == tag.val then (p.1, p.2 - 1) else p)).filter (fun p => p.2 != 0)) =
      if n ≤ 1 then [] else [(tag.val, n - 1)] := by
    rw [hlate]
    by_cases hn : n ≤ 1
    · simp [hn]
    · simp [hn, show n - 1 ≠ 0 by omega]
  have hany (y : Nat × Nat × Nat) : (if n ≤ 1 then [] else [(tag.val, n - 1)]).any (fun q => q.1 == y.1) = (decide (1 < n) && y.1 == tag.val) := by
    by_cases hn : n ≤ 1
    · simp [hn]
    · simp [hn, show 1 < n by omega, Bool.beq_comm]
  show execHmpResponse tag code b s = _
  unfold execHmpResponse
  rw [hlive, hrun, if_neg (by decide), hout]
  refine congrArg ok ?_
  unfold hmpLate
  dsimp only
  rw [hleft, hmpIssue_still (by exact hwait)]
  simp only [hany]
  rfl

/-- Settles O58: a register write by the code its address, area and access give it, the slave port's one beat as misaligned, waiting or granted,
and the master port with nothing waiting for a tag. -/
theorem hostPortsAndRegisters : Obligations.HostPortsAndRegisters := by
  unfold Obligations.HostPortsAndRegisters
  intro s q a v b u d ix addr tag code x p i n
  dsimp only
  refine ⟨fun h => ⟨_, (registerWrite_exec q a v s).trans (congrArg ok (regWrite_outside h q v)), rfl, respond_sameBut _ _ _⟩,
    fun h hf => ⟨_, (registerWrite_exec q a v s).trans (congrArg ok (regWrite_unlisted h hf q v)), rfl, respond_sameBut _ _ _⟩,
    fun h hf => ⟨fun hon => ⟨_, (registerWrite_exec q a v s).trans (congrArg ok (regWrite_gone h hf hon q v)), rfl, respond_sameBut _ _ _⟩,
      fun hon hu hd => registerWrite_plain h hf hon hu hd⟩,
    fun hq hrun hopen => ⟨fun hal => hspRequest_misaligned hq hrun hopen hal b,
      fun hal ⟨ha, hclear, _⟩ hg => hspRequest_waits hq hrun hopen hal ha hclear hg b,
      fun hal ⟨ha, hclear, hcode⟩ hg => ⟨hspRequest_write hq hrun hopen hal ha hclear hcode hg b,
        fun hu ht hseen => hspRequest_read hq hrun hopen hal ha hclear hcode hg hu ht hseen b⟩⟩,
    fun hlive hrun => ⟨fun hout hwait htag huse hdone => ?_,
      fun hout hwait hlate => ⟨_, hmpResponse_late hout hwait hlate hlive hrun code b, rfl, withPorts_sameBut _ _⟩⟩⟩
  have honly : hmpOnly s x tag.val := ⟨hout, hwait, htag, ⟨p, i, huse⟩, hdone⟩
  have hresp := hmpResponse_result honly hlive hrun code b
  rw [hmpCode_eq] at hresp
  refine ⟨fun hl => ⟨_, hresp.trans (by rw [if_pos hl]), rfl, withPorts_sameBut _ _⟩,
    fun hl => ⟨_, hresp.trans (by rw [if_neg hl]), rfl, withPorts_sameBut _ _⟩,
    fun hl hat => ⟨_, hmpTimeout_result honly hl hat, rfl, withPorts_sameBut _ _⟩⟩

end Sys2Proof.Machine

/-! The boot ROM and the manifest (R483, R485). -/

namespace Sys2Proof.Machine

set_option Elab.async false

/-! Words stored one after another. -/

theorem zip_range_succ {α : Type} (ws : List α) {n : Nat} (h : n < ws.length) :
    (List.range (n + 1)).zip (ws.take (n + 1)) = (List.range n).zip (ws.take n) ++ [(n, ws[n])] := by
  rw [List.range_succ, List.take_add_one, List.getElem?_eq_getElem h,
    List.zip_append (by rw [List.length_range, List.length_take, Nat.min_eq_left h.le])]
  rfl

/-- What holds at first and after each word holds after all of them. -/
theorem foldl_words {σ α : Type} {f : σ → Nat × α → σ} {ws : List α} {s : σ} (P : Nat → σ → Prop) (h0 : P 0 s)
    (hstep : ∀ n (h : n < ws.length) t, P n t → P (n + 1) (f t (n, ws[n]))) : P ws.length (((List.range ws.length).zip ws).foldl f s) := by
  have hn : ∀ n ≤ ws.length, P n (((List.range n).zip (ws.take n)).foldl f s) := by
    intro n
    induction n with
    | zero => exact fun _ => h0
    | succ n ih =>
      intro hn
      rw [zip_range_succ ws hn, List.foldl_append]
      exact hstep n hn _ (ih (Nat.le_of_succ_le hn))
  have h := hn ws.length le_rfl
  rwa [List.take_length] at h

/-- The first n of the words stand from address a on, and nothing else has changed. -/
def WordsStored (a : Nat) (ws : List Word) (u : State) (n : Nat) (t : State) : Prop :=
  ∀ j, memRd t j = if a ≤ j ∧ j < a + n then ws.getD (j - a) 0 else memRd u j

theorem WordsStored.zero (a : Nat) (ws : List Word) (u : State) : WordsStored a ws u 0 u := fun j => by rw [if_neg (by omega)]

theorem WordsStored.succ {a n : Nat} {ws : List Word} {u t t' : State} (h : WordsStored a ws u n t) (hn : n < ws.length)
    (hm : ∀ j, memRd t' j = if j = a + n then ws[n] else memRd t j) : WordsStored a ws u (n + 1) t' := by
  intro j
  rw [hm, h j]
  by_cases hj : j = a + n
  · rw [if_pos hj, if_pos (by omega), hj, Nat.add_sub_cancel_left, List.getD_eq_getElem _ _ hn]
  · rw [if_neg hj]
    by_cases hl : a ≤ j ∧ j < a + n
    · rw [if_pos hl, if_pos (by omega)]
    · rw [if_neg hl, if_neg (by omega)]

/-! The boot fill (R483). -/

theorem fillWords_stored (s : State) (a : Nat) (ws : List Word) :
    WordsStored a ws s ws.length (fillWords s a ws) ∧ SameBut [.mem, .tags, .msys] s (fillWords s a ws) ∧
      (fillWords s a ws).msys = { s.msys with upsets := (fillWords s a ws).msys.upsets } :=
  foldl_words (fun n t => WordsStored a ws s n t ∧ SameBut [.mem, .tags, .msys] s t ∧ t.msys = { s.msys with upsets := t.msys.upsets })
    ⟨.zero a ws s, SameBut.refl _ s, rfl⟩
    (fun n hn t ⟨hst, hparts, hmsys⟩ => ⟨hst.succ hn (fun j => memRd_putWord t (a + n) ws[n] j), hparts.and (putWord_sameBut t (a + n) ws[n]), by
      show (putWord t (a + n) ws[n]).msys = _
      rw [msys_putWord, hmsys]
      rfl⟩)

theorem romImage_length (s : State) : (romImage s).length = romLen s := by rw [romImage, List.length_map, List.length_range]

theorem romImage_getD (s : State) {i : Nat} (hi : i < romLen s) : (romImage s).getD i 0 = romWord s (8 + i) := by
  rw [List.getD_eq_getElem _ _ (by rw [romImage_length]; exact hi)]
  simp [romImage]

/-- The state after the image has been stored and its check begun. -/
def filling (s : State) (e : Nat) : State :=
  onPctl { s with msys := { s.msys with clearing := (28, e) :: s.msys.clearing.filter (fun p => p.1 != 28) } } (fun p => { p with fill := some e })

theorem filling_sameBut (s : State) (e : Nat) : SameBut [.msys, .pctl] s (filling s e) :=
  ((msys_sameBut s _).mono (by decide)).and (pctl_sameBut _ _)

theorem bootFill_ok {s : State} (hrun : s.running = true) (hseq : s.pctl.seq = 5) (hfill : s.pctl.fill = none) (hon : pdOn s 28 = true)
    (hrom : romOk s = true) : Runs .bootFill s (fun t => rf t pctlRststs pctlRststsBOOT = 0 ∧
      (∀ i, memRd t i = if i < romLen s then romWord s (8 + i) else memRd s i) ∧
      t.pctl = { s.pctl with fill := some (2 * s.port + 66 * shaCount (6 * romLen s)) } ∧ RegsBut [pctlRststs] s t ∧
      SameBut [.regs, .mem, .tags, .msys, .pctl] s t) := by
  have hex : exec .bootFill s = .next (filling (fillWords (wf s pctlRststs pctlRststsBOOT 0) 0 (romImage s))
      (2 * s.port + 66 * shaCount (6 * romLen s))) := by
    show execBootFill s = _
    unfold execBootFill
    rw [onlyIf, hrun, hseq, hfill, hon, if_pos (by rfl), hrom, if_neg (by decide)]
    rfl
  refine ⟨_, hex, ?_⟩
  generalize 2 * s.port + 66 * shaCount (6 * romLen s) = e
  have h0 := wf_sameBut s pctlRststs pctlRststsBOOT 0
  have hb : rf (wf s pctlRststs pctlRststsBOOT 0) pctlRststs pctlRststsBOOT = 0 := rf_wf_same _ _ _ _ (by decide)
  have hr := regsBut_wf s pctlRststs pctlRststsBOOT 0
  generalize wf s pctlRststs pctlRststsBOOT 0 = u at h0 hb hr
  obtain ⟨hst, hparts, -⟩ := fillWords_stored u 0 (romImage s)
  generalize fillWords u 0 (romImage s) = v at hst hparts
  have hv := regsBut_of_sameBut hparts (by decide) (by decide) (by decide)
  have hf := filling_sameBut v e
  have hw : RegsBut [] v (filling v e) := fun _ _ => rfl
  have hpctl : v.pctl = s.pctl := (hparts .pctl (by decide)).trans (h0 .pctl (by decide))
  refine ⟨?_, fun i => ?_, ?_, (hr.and hv).and hw, ((h0.mono (by decide)).trans (hparts.mono (by decide))).trans (hf.mono (by decide))⟩
  · rw [hw.rf_eq (by decide), hv.rf_eq (by decide), hb]
  · rw [hf.memRd_eq (by decide), hst i, romImage_length, h0.memRd_eq (by decide)]
    by_cases hi : i < romLen s
    · rw [if_pos (by omega), if_pos hi, Nat.sub_zero, romImage_getD s hi]
    · rw [if_neg (by omega), if_neg hi]
  · show { v.pctl with fill := some e } = _
    rw [hpctl]

/-- Where the boot sequence ends with no reset behind it. -/
theorem seqEnd_quiet {s : State} (h : s.pctl.next = none) : seqEnd s = driveSync (onPctl s (fun p => { p with seq := 0, cause := 0, next := none })) := by
  unfold seqEnd
  rw [h]

theorem seqEnd_result {s : State} (h : s.pctl.next = none) : (seqEnd s).pctl = { s.pctl with seq := 0, cause := 0 } ∧
    (seqEnd s).sig = { s.sig with traces := (seqEnd s).sig.traces } ∧ RegsBut driveRegs s (seqEnd s) ∧ SameBut [.regs, .pctl, .cvp, .sig] s (seqEnd s) := by
  rw [seqEnd_quiet h]
  refine ⟨?_, sig_driveSync _, (regsBut_onPctl s _).trans (regsBut_driveSync _), ((pctl_sameBut s _).mono (by decide)).and (driveSync_sameBut _)⟩
  rw [driveSync_sameBut _ .pctl (by decide)]
  exact congrArg (fun n => { s.pctl with seq := 0, cause := 0, next := n }) h.symm

theorem bootFill_bad {s : State} (hrun : s.running = true) (hseq : s.pctl.seq = 5) (hnext : s.pctl.next = none) (hfill : s.pctl.fill = none)
    (hon : pdOn s 28 = true) (hrom : romOk s = false) : Runs .bootFill s (fun t => rf t pctlRststs pctlRststsBOOT = 2 ∧
      t.pctl = { s.pctl with seq := 0, cause := 0 } ∧ t.mem = s.mem ∧ t.sig = { s.sig with traces := t.sig.traces } ∧
      RegsBut (pctlRststs :: driveRegs) s t ∧ SameBut [.regs, .pctl, .cvp, .sig] s t) := by
  have hex : exec .bootFill s = .next (seqEnd (wf (wf s pctlRststs pctlRststsBOOT 0) pctlRststs pctlRststsBOOT 2)) := by
    show execBootFill s = _
    unfold execBootFill
    rw [onlyIf, hrun, hseq, hfill, hon, if_pos (by rfl), hrom]
    rfl
  refine ⟨_, hex, ?_⟩
  have h0 := (wf_sameBut s pctlRststs pctlRststsBOOT 0).and (wf_sameBut _ pctlRststs pctlRststsBOOT 2)
  have hr := (regsBut_wf s pctlRststs pctlRststsBOOT 0).and (regsBut_wf _ pctlRststs pctlRststsBOOT 2)
  have hb : rf (wf (wf s pctlRststs pctlRststsBOOT 0) pctlRststs pctlRststsBOOT 2) pctlRststs pctlRststsBOOT = 2 := rf_wf_same _ _ _ _ (by decide)
  generalize wf (wf s pctlRststs pctlRststsBOOT 0) pctlRststs pctlRststsBOOT 2 = u at h0 hr hb
  have hpctl : u.pctl = s.pctl := h0 .pctl (by decide)
  obtain ⟨hp, hsig, hregs, hparts⟩ := seqEnd_result (s := u) (by rw [hpctl]; exact hnext)
  refine ⟨?_, by rw [hp, hpctl], (hparts .mem (by decide)).trans (h0 .mem (by decide)), by rw [hsig, h0 .sig (by decide)],
    (hr.mono (by simp)).and hregs (fun _ h => List.mem_cons_of_mem _ h), (h0.mono (by decide)).trans hparts⟩
  rw [hregs.rf_eq (notMem_driveRegs (.inl (by decide))), hb]

/-- The check of the boot image is over. -/
def fillEnd (s : State) : State :=
  onPctl { s with msys := { s.msys with clearing := s.msys.clearing.filter (fun p => p.1 != 28) } } (fun p => { p with fill := none })

theorem fillEnd_sameBut (s : State) : SameBut [.msys, .pctl] s (fillEnd s) := ((msys_sameBut s _).mono (by decide)).and (pctl_sameBut _ _)

theorem regsBut_fillEnd (s : State) : RegsBut [] s (fillEnd s) := fun _ _ => rfl

/-- SV0 as the boot leaves it before its release. -/
def bootEntry (s : State) : State :=
  wb (wf (wf (fillEnd s) pctlRststs pctlRststsBOOT 1) (pctlRstvec 8) pctlRstvecADDR (romEntry s)) (pctlCorectl 8) pctlCorectlROOTOK true

theorem bootFillDone_exec {s : State} {e : Nat} (hrun : s.running = true) (hseq : s.pctl.seq = 5) (hfill : s.pctl.fill = some e)
    (he : e ≤ 2 * s.port) : exec .bootFillDone s = .next (if wordsDigest (romImage s) = (List.range 6).map (fun i => romWord s (2 + i)) then
      seqEnd (runWrite (bootEntry s) 8) else seqEnd (wf (fillEnd s) pctlRststs pctlRststsBOOT 2)) := by
  show execBootFillDone s = _
  unfold execBootFillDone
  rw [hfill]
  dsimp only
  rw [onlyIf, if_pos (by simp [hrun, hseq, he])]
  rfl

theorem regsBut_bootEntry (s : State) : RegsBut [pctlRststs, pctlRstvec 8, pctlCorectl 8] s (bootEntry s) := by
  have h := (((regsBut_fillEnd s).mono (m := [pctlRststs, pctlRstvec 8, pctlCorectl 8]) (by simp)).and
    (regsBut_wf _ pctlRststs pctlRststsBOOT 1)).and (regsBut_wf _ (pctlRstvec 8) pctlRstvecADDR (romEntry s))
  exact h.and (regsBut_wb _ (pctlCorectl 8) pctlCorectlROOTOK true)

theorem bootEntry_sameBut (s : State) : SameBut [.regs, .msys, .pctl] s (bootEntry s) :=
  ((((fillEnd_sameBut s).mono (by decide)).and (wf_sameBut _ pctlRststs pctlRststsBOOT 1)).and
    (wf_sameBut _ (pctlRstvec 8) pctlRstvecADDR (romEntry s))).and (wb_sameBut _ _ _ _)

theorem pctl_bootEntry (s : State) : (bootEntry s).pctl = { s.pctl with fill := none } := rfl

theorem romEntry_lt (s : State) : romEntry s < 2 ^ 16 := Fld.get_lt _ _

theorem bootFillDone_good {s : State} {e : Nat} (hrun : s.running = true) (hseq : s.pctl.seq = 5) (hnext : s.pctl.next = none)
    (hfill : s.pctl.fill = some e) (he : e ≤ 2 * s.port)
    (hgood : wordsDigest (romImage s) = (List.range 6).map (fun i => romWord s (2 + i))) (hon : pdOn s 16 = true)
    (hstop : rb s (pctlCorectl 8) pctlCorectlRUN = false) : Runs .bootFillDone s (fun t =>
      rf t pctlRststs pctlRststsBOOT = 1 ∧ rf t (pctlRstvec 8) pctlRstvecADDR = romEntry s ∧ rb t (pctlCorectl 8) pctlCorectlRUN = true ∧
      rb t (pctlCorectl 8) pctlCorectlROOTOK = true ∧ t.pctl = { s.pctl with fill := none, seq := 0, cause := 0, go := s.pctl.go ++ [8] } ∧
      t.sig = { s.sig with traces := t.sig.traces } ∧ RegsBut (pctlRststs :: pctlRstvec 8 :: pctlCorectl 8 :: driveRegs) s t ∧
      SameBut [.regs, .pctl, .cvp, .msys, .sig] s t) := by
  refine ⟨_, (bootFillDone_exec hrun hseq hfill he).trans (congrArg ok (if_pos hgood)), ?_⟩
  have hregs := regsBut_bootEntry s
  have hparts := bootEntry_sameBut s
  have hpctl := pctl_bootEntry s
  have hboot : rf (bootEntry s) pctlRststs pctlRststsBOOT = 1 := by
    rw [bootEntry, (regsBut_wb _ _ _ _).rf_eq (by decide), (regsBut_wf _ _ _ _).rf_eq (by decide)]
    exact rf_wf_same _ _ _ _ (by decide)
  have hvec : rf (bootEntry s) (pctlRstvec 8) pctlRstvecADDR = romEntry s := by
    rw [bootEntry, (regsBut_wb _ _ _ _).rf_eq (by decide), rf_wf_same _ _ _ _ (by decide)]
    exact Nat.mod_eq_of_lt ((romEntry_lt s).trans_le (by decide))
  have hroot : rb (bootEntry s) (pctlCorectl 8) pctlCorectlROOTOK = true := rb_wb_same _ _ _ _ rfl
  have hrunb : rb (bootEntry s) (pctlCorectl 8) pctlCorectlRUN = false := by
    rw [bootEntry, rb_wb_apart _ _ _ _ _ rfl rfl (by decide), (regsBut_wf _ _ _ _).rb_eq (by decide), (regsBut_wf _ _ _ _).rb_eq (by decide),
      (regsBut_fillEnd s).rb_eq (by simp)]
    exact hstop
  generalize bootEntry s = u at hregs hparts hpctl hboot hvec hroot hrunb
  have hon' : pdOn u (coreDomain 8) = true := (hregs.pdOn_eq 16 (by decide)).trans hon
  rw [runWrite_go hon' hrunb]
  have hgo := regsBut_coreGoes u 8
  have hgop := coreGoes_sameBut u 8
  have hgopctl := pctl_coreGoes u 8
  have hrunt : rb (coreGoes u 8) (pctlCorectl 8) pctlCorectlRUN = true := (rb_coreGoes u 8 _ _).trans (rb_wb_same _ _ _ _ rfl)
  have hroott : rb (coreGoes u 8) (pctlCorectl 8) pctlCorectlROOTOK = true :=
    (rb_coreGoes u 8 _ _).trans ((rb_wb_apart _ _ _ _ _ rfl rfl (by decide)).trans hroot)
  generalize coreGoes u 8 = v at hgo hgop hgopctl hrunt hroott
  have hnextv : v.pctl.next = none := by rw [hgopctl, hpctl]; exact hnext
  obtain ⟨hp, hsig, hr, hq⟩ := seqEnd_result hnextv
  generalize seqEnd v = t at hp hsig hr hq
  have hpctlne : ∀ a, a < 0x40040002 → a ∉ driveRegs := fun a ha => notMem_driveRegs (.inl ha)
  refine ⟨?_, ?_, ?_, ?_, ?_, ?_, ?_, ?_⟩
  · rw [hr.rf_eq (hpctlne _ (by decide)), hgo.rf_eq (by decide), hboot]
  · rw [hr.rf_eq (hpctlne _ (by decide)), hgo.rf_eq (by decide), hvec]
  · rw [hr.rb_eq (hpctlne _ (by decide)), hrunt]
  · rw [hr.rb_eq (hpctlne _ (by decide)), hroott]
  · rw [hp, hgopctl, hpctl]
  · rw [hsig, hgop .sig (by decide), hparts .sig (by decide)]
  · exact ((hregs.and hgo (by simp)).mono (m := pctlRststs :: pctlRstvec 8 :: pctlCorectl 8 :: driveRegs) (by simp)).and hr
      (fun _ h => List.mem_cons_of_mem _ (List.mem_cons_of_mem _ (List.mem_cons_of_mem _ h)))
  · exact ((hparts.mono (by decide)).trans (hgop.mono (by decide))).trans (hq.mono (by decide))

theorem bootFillDone_bad {s : State} {e : Nat} (hrun : s.running = true) (hseq : s.pctl.seq = 5) (hnext : s.pctl.next = none)
    (hfill : s.pctl.fill = some e) (he : e ≤ 2 * s.port)
    (hbad : ¬ wordsDigest (romImage s) = (List.range 6).map (fun i => romWord s (2 + i))) : Runs .bootFillDone s (fun t =>
      rf t pctlRststs pctlRststsBOOT = 2 ∧ t.pctl = { s.pctl with fill := none, seq := 0, cause := 0 } ∧
      t.sig = { s.sig with traces := t.sig.traces } ∧ RegsBut (pctlRststs :: driveRegs) s t ∧ SameBut [.regs, .pctl, .cvp, .msys, .sig] s t) := by
  refine ⟨_, (bootFillDone_exec hrun hseq hfill he).trans (congrArg ok (if_neg hbad)), ?_⟩
  have hregs := ((regsBut_fillEnd s).mono (m := [pctlRststs]) (by simp)).and (regsBut_wf (fillEnd s) pctlRststs pctlRststsBOOT 2)
  have hparts := ((fillEnd_sameBut s).mono (m := [.regs, .msys, .pctl]) (by decide)).and (wf_sameBut (fillEnd s) pctlRststs pctlRststsBOOT 2)
  have hboot : rf (wf (fillEnd s) pctlRststs pctlRststsBOOT 2) pctlRststs pctlRststsBOOT = 2 := rf_wf_same _ _ _ _ (by decide)
  have hpctl : (wf (fillEnd s) pctlRststs pctlRststsBOOT 2).pctl = { s.pctl with fill := none } := rfl
  generalize wf (fillEnd s) pctlRststs pctlRststsBOOT 2 = u at hregs hparts hboot hpctl
  obtain ⟨hp, hsig, hr, hq⟩ := seqEnd_result (s := u) (by rw [hpctl]; exact hnext)
  refine ⟨?_, by rw [hp, hpctl], by rw [hsig, hparts .sig (by decide)], (hregs.mono (by simp)).and hr (fun _ h => List.mem_cons_of_mem _ h),
    (hparts.mono (by decide)).trans (hq.mono (by decide))⟩
  rw [hr.rf_eq (notMem_driveRegs (.inl (by decide))), hboot]

/-! The manifest (R485). -/

/-- A load of the manifest may take a step. -/
def loading (s : State) : Prop := coreLive s 8 = true ∧ rf s pctlRststs pctlRststsBOOT = 1 ∧ rb s pctlBootsrc pctlBootsrcEN = true

theorem loading.guard {s : State} (h : loading s) :
    (!(coreLive s 8 && rf s pctlRststs pctlRststsBOOT == 1 && rb s pctlBootsrc pctlBootsrcEN)) = false := by
  obtain ⟨h1, h2, h3⟩ := h
  simp [h1, h2, h3]

theorem manifestLoad_first {s : State} {ws : List Word} (h : loading s) (hman : s.pctl.man = none) (hlen : ws.length = 10 * manCount ws + 1) :
    exec (.manifestLoad ws) s = .next (if anchorWords s ≠ List.replicate 6 0 && anchorWords s ≠ wordsDigest ws then manEnd s 3
      else onPctl s (fun p => { p with man := some ⟨ws, 0, false⟩ })) := by
  show execManifestLoad ws s = _
  unfold execManifestLoad
  rw [h.guard, if_neg (by decide), hman]
  dsimp only
  rw [if_neg (not_not.2 hlen)]
  split <;> rfl

theorem manEnd_result (s : State) (i : Nat) :
    (manEnd s i).pctl.man = none ∧ RegsAre [withFld s pctlRststs pctlRststsIMG i] s (manEnd s i) ∧ SameBut [.regs, .pctl] s (manEnd s i) :=
  ⟨rfl, RegsAre.and (regsAre_wf s pctlRststs pctlRststsIMG i) (regsBut_onPctl _ _), ((wf_sameBut s _ _ _).mono (by decide)).and (pctl_sameBut _ _)⟩

theorem manifestLoad_step {s : State} {m : Manifest} (h : loading s) (hman : s.pctl.man = some m) (ws : List Word) :
    exec (.manifestLoad ws) s = if m.i < manCount m.words then ok (if m.go then manRelease s m else manEntry s m ws)
      else if !m.go then ok (onPctl s (fun p => { p with man := some { m with i := 0, go := true } }))
      else ok (manEnd s (if anchorWords s = List.replicate 6 0 then 2 else 1)) := by
  show execManifestLoad ws s = _
  unfold execManifestLoad
  rw [h.guard, if_neg (by decide), hman]

/-! One entry's image: it is stored, read back and compared (R485). -/

/-- A word of shared memory that a port writes and reads back. -/
def reachable (p : Nat) (s : State) (a : Nat) : Prop := a < 0x100000 ∧ arrayCode s a = 0 ∧ hiddenWord s a p = false

theorem reachable.of_stored {p a : Nat} {s t : State} (h : reachable p s a) (hp : p < 0x100) (ht : StoreBeaten p s t) : reachable p t a := by
  obtain ⟨ha, hc, hv⟩ := h
  exact ⟨ha, (ht.arrayCode_eq hp a).trans hc, (hiddenWord_congr ht.regs ht.parts (memArb_unit hp) (by decide) (by decide) a p).trans hv⟩

theorem arrayRead_reachable {p a : Nat} {s : State} (h : reachable p s a) (hp : unitPort p) (hp' : p < 0x100)
    (hu : upsetAt s (upsetKey a) = .none) (ht : upsetAt s (tagUpsetKey a) = .none) (auto tags : Bool) :
    arrayRead s a p auto tags = (0, memRd s a, beat s a p false auto) := by
  obtain ⟨ha, hc, hv⟩ := h
  have hb := beaten_beat s a hp false auto
  have hv' : hiddenWord (beat s a p false auto) a p = false :=
    (hiddenWord_congr hb.regs hb.parts (memArb_unit hp') (by decide) (by decide) a p).trans hv
  unfold arrayRead
  dsimp only
  rw [arrayOwn_whole ⟨by omega, hc, hu, ht⟩ hp, if_neg (by simp), arrayWord_seen ha hv', hb.memRd_eq]

/-- Words that were stored have no upset of their own or of their pair's tag. -/
def Fresh (a n : Nat) (t : State) : Prop := ∀ i < n, upsetAt t (upsetKey (a + i)) = .none ∧ upsetAt t (tagUpsetKey (a + i)) = .none

theorem Fresh.putWord {a n : Nat} {t : State} (h : Fresh a n t) (v : Word) : Fresh a (n + 1) (putWord t (a + n) v) := by
  intro i hi
  rw [upsetAt_putWord, upsetAt_putWord]
  by_cases hin : i = n
  · subst hin
    simp
  · obtain ⟨hu, ht⟩ := h i (by omega)
    rw [hu, ht, ite_self, ite_self]
    exact ⟨rfl, rfl⟩

theorem Fresh.beaten {p a n : Nat} {s t : State} (h : Fresh a n s) (hb : Beaten p s t) : Fresh a n t := fun i hi => by
  rw [hb.upsetAt_eq, hb.upsetAt_eq]
  exact h i hi

theorem targetOf_inside {a : Nat} (ha : a < 0x100000) : ¬ ((targetOf a == .host || targetOf a == .persist) = true) := by
  rw [targetOf_low ha]
  generalize a / 0x10000 = i
  generalize a % 4 = j
  exact fun h => nomatch h

theorem manCopy_stored {s : State} {a : Nat} {ws : List Word} (ha : a < 0x100000) (hw : ∀ i < ws.length, reachable 23 s (a + i)) :
    WordsStored a ws s ws.length (manCopy s a ws) ∧ Fresh a ws.length (manCopy s a ws) ∧ StoreBeaten 23 s (manCopy s a ws) := by
  rw [manCopy, if_neg (targetOf_inside ha)]
  refine foldl_words (fun n t => WordsStored a ws s n t ∧ Fresh a n t ∧ StoreBeaten 23 s t)
    ⟨.zero a ws s, fun i hi => absurd hi (by omega), .refl 23 s⟩ (fun n hn t ⟨hst, hfr, hb⟩ => ?_)
  obtain ⟨han, hc, -⟩ := (hw n hn).of_stored (by decide) hb
  have hbeat := beaten_beat t (a + n) (p := 23) (.inr (by decide)) true true
  show WordsStored a ws s (n + 1) (arrayWrite t (a + n) 23 ws[n] true).2 ∧ Fresh a (n + 1) (arrayWrite t (a + n) 23 ws[n] true).2 ∧
    StoreBeaten 23 s (arrayWrite t (a + n) 23 ws[n] true).2
  rw [arrayWrite_answered (by omega) (arrayAnswer_of_code hc)]
  refine ⟨hst.succ hn (fun j => ?_), (hfr.beaten hbeat).putWord ws[n], (hb.trans hbeat.stored).trans (storeBeaten_putWord 23 _ _ _)⟩
  show memRd (putWord _ _ _) j = _
  rw [memRd_putWord, hbeat.memRd_eq]

theorem manBack_read {s : State} {a : Nat} {ws : List Word} (ha : a < 0x100000) (hw : ∀ i < ws.length, reachable 23 s (a + i))
    (hfr : Fresh a ws.length s) : (manBack s a ws).1 = (List.range ws.length).map (fun i => memRd s (a + i)) ∧ Beaten 23 s (manBack s a ws).2 := by
  rw [manBack, if_neg (targetOf_inside ha)]
  have hn : ∀ n ≤ ws.length, ((List.range n).foldl (fun (r : List Word × State) i =>
      let x := arrayRead r.2 (a + i) (corePort 8)
      (r.1 ++ [x.2.1], x.2.2)) ([], s)).1 = (List.range n).map (fun i => memRd s (a + i)) ∧
      Beaten 23 s ((List.range n).foldl (fun (r : List Word × State) i =>
        let x := arrayRead r.2 (a + i) (corePort 8)
        (r.1 ++ [x.2.1], x.2.2)) ([], s)).2 := by
    intro n
    induction n with
    | zero => exact fun _ => ⟨rfl, .refl 23 s⟩
    | succ n ih =>
      intro hle
      obtain ⟨hl, hb⟩ := ih (by omega)
      rw [List.range_succ, List.foldl_append, List.map_append]
      generalize (List.range n).foldl _ _ = r at hl hb ⊢
      obtain ⟨hu, ht⟩ := hfr.beaten hb n (by omega)
      have hread := arrayRead_reachable ((hw n (by omega)).of_stored (by decide) hb.stored) (.inr (by decide)) (by decide) hu ht true true
      show r.1 ++ [(arrayRead r.2 (a + n) 23 true true).2.1] = _ ∧ Beaten 23 s (arrayRead r.2 (a + n) 23 true true).2.2
      rw [hread, hl, hb.memRd_eq]
      exact ⟨rfl, hb.trans (beaten_beat r.2 (a + n) (.inr (by decide)) false true)⟩
  exact hn _ le_rfl

/-- What the entry that a manifest stands at says of its image. -/
def entryLen (m : Manifest) : Nat := (Fld.mk 31 0).get (manWord m 0)

def entryAt (m : Manifest) : Nat := (Fld.mk 39 0).get (manWord m 2)

theorem manEntry_matching {s : State} {m : Manifest} {ws : List Word} (hlen : ws.length = entryLen m)
    (hup : ∀ d, (targetOf (entryAt m)).domain = some d → pdOn s d = true) {r : List Word × State}
    (hr : manBack (manCopy s (entryAt m) ws) (entryAt m) ws = r) (hd : wordsDigest r.1 = (List.range 6).map (fun i => manWord m (4 + i))) :
    manEntry s m ws = onPctl r.2 (fun p => { p with man := some { m with i := m.i + 1 } }) := by
  unfold manEntry
  dsimp only
  rw [← entryLen, ← entryAt, hr, if_pos hd, if_neg (not_not.2 hlen)]
  cases h : (targetOf (entryAt m)).domain with
  | none => exact if_neg (by simp)
  | some d =>
    exact if_neg (by simp [hup d h])

theorem map_getD_range (ws : List Word) : (List.range ws.length).map (fun i => ws.getD i 0) = ws := by
  apply List.ext_getElem (by simp)
  intro i h1 h2
  simp [List.getElem?_eq_getElem h2]

theorem manEntry_result {s : State} {m : Manifest} {ws : List Word} (hlen : ws.length = entryLen m) (hend : entryAt m + entryLen m ≤ 0x100000)
    (hpos : 0 < entryLen m) (hw : ∀ i < entryLen m, arrayCode s (entryAt m + i) = 0 ∧
      arrayWord s (entryAt m + i) 23 = (memRd s (entryAt m + i), s))
    (hd : wordsDigest ws = (List.range 6).map (fun i => manWord m (4 + i))) :
    (∀ i < entryLen m, memRd (manEntry s m ws) (entryAt m + i) = ws.getD i 0) ∧
    (∀ j, j < entryAt m ∨ entryAt m + entryLen m ≤ j → memRd (manEntry s m ws) j = memRd s j) ∧
    (manEntry s m ws).pctl = { s.pctl with man := some { m with i := m.i + 1 } } ∧ StoreBeats 23 s (manEntry s m ws) ∧
    SameBut [.mem, .tags, .msys, .regs, .free, .pctl] s (manEntry s m ws) := by
  have ha : entryAt m < 0x100000 := by omega
  have hreach (i : Nat) (hi : i < ws.length) : reachable 23 s (entryAt m + i) := by
    obtain ⟨hc, hv⟩ := hw i (by omega)
    exact ⟨by omega, hc, hiddenWord_of_seen (by omega) hv⟩
  have hup (d : Nat) (h : (targetOf (entryAt m)).domain = some d) : pdOn s d = true := by
    have hc := (hw 0 hpos).1
    rw [Nat.add_zero, arrayCode, targetOf_low ha] at hc
    rw [targetOf_low ha] at h
    obtain rfl := Option.some.inj h
    by_contra hoff
    rw [Bool.not_eq_true] at hoff
    simp [hoff] at hc
  obtain ⟨hst, hfr, hb⟩ := manCopy_stored ha hreach
  obtain ⟨hback, hb2⟩ := manBack_read ha (fun i hi => (hreach i hi).of_stored (by decide) hb) hfr
  have hwords : (manBack (manCopy s (entryAt m) ws) (entryAt m) ws).1 = ws := by
    rw [hback]
    refine (List.map_congr_left (fun i hi => ?_)).trans (map_getD_range ws)
    have hi' := List.mem_range.1 hi
    rw [hst, if_pos (by omega), Nat.add_sub_cancel_left]
  rw [manEntry_matching hlen hup rfl (by rw [hwords]; exact hd)]
  generalize manBack (manCopy s (entryAt m) ws) (entryAt m) ws = r at hb2
  have hall := hb.trans hb2.stored
  have hmem (j : Nat) : memRd (onPctl r.2 (fun p => { p with man := some { m with i := m.i + 1 } })) j = memRd (manCopy s (entryAt m) ws) j :=
    hb2.memRd_eq j
  refine ⟨fun i hi => ?_, fun j hj => ?_, ?_, hall.storeBeats, (hall.parts.mono (by decide)).and (pctl_sameBut _ _)⟩
  · rw [hmem, hst, if_pos (by omega), Nat.add_sub_cancel_left]
  · rw [hmem, hst, if_neg (by omega)]
  · exact congrArg (fun p : Pctl => { p with man := some { m with i := m.i + 1 } }) (hall.parts .pctl (by decide))

/-- Settles O55: the image is stored word by word and SV0's entry written if it is right; a manifest's entry is stored and read back unchanged. -/
theorem boot : Obligations.Boot := by
  unfold Obligations.Boot
  intro s ws m e
  refine ⟨fun hrun hseq hnext => ⟨fun hfill hon => ⟨fun hrom => bootFill_ok hrun hseq hfill hon hrom,
      fun hrom => bootFill_bad hrun hseq hnext hfill hon hrom⟩,
    fun hfill he => ⟨fun hgood hon hstop => bootFillDone_good hrun hseq hnext hfill he hgood hon hstop,
      fun hbad => bootFillDone_bad hrun hseq hnext hfill he hbad⟩⟩,
    fun hload => ⟨fun hman hlen => ⟨fun hok => ?_, fun hset hbad => ?_⟩,
      fun hman hi hgo hlen hend hpos hw hd => ?_,
      fun hman hi => ⟨fun hgo => ?_, fun hgo => ?_⟩⟩⟩
  · refine ⟨_, (manifestLoad_first hload hman hlen).trans (congrArg ok (if_neg ?_)), rfl, pctl_sameBut s _⟩
    rcases hok with hok | hok <;> simp [hok]
  · have hend := manEnd_result s 3
    exact ⟨_, (manifestLoad_first hload hman hlen).trans (congrArg ok (if_pos (by rw [decide_eq_true hset, decide_eq_true hbad]; rfl))), hend.2.1, hend.1, hend.2.2⟩
  · refine ⟨_, (manifestLoad_step hload hman ws).trans ((if_pos hi).trans (congrArg ok (if_neg (by simp [hgo])))), ?_⟩
    exact manEntry_result hlen hend hpos hw hd
  · exact ⟨_, (manifestLoad_step hload hman ws).trans ((if_neg (Nat.not_lt.2 hi)).trans (if_pos (by simp [hgo]))), rfl, pctl_sameBut s _⟩
  · have hend := manEnd_result s (if anchorWords s = List.replicate 6 0 then 2 else 1)
    exact ⟨_, (manifestLoad_step hload hman ws).trans ((if_neg (Nat.not_lt.2 hi)).trans (if_neg (by simp [hgo]))), hend⟩

end Sys2Proof.Machine

/-! The converter port: reports of the host, drive grants and switch-node times (R28, R31, R32, R34, R38, R39, R77, R101, R107). -/

namespace Sys2Proof.Machine

set_option Elab.async false

/-! Several registers set one after another, and a producer that fires after them. -/

theorem RegsAre.wr {l : List (Nat × Word)} {s t : State} {a : Nat} {v : Word} (h : RegsAre l s t) (ha : a ∉ l.map Prod.fst) :
    RegsAre ((a, v) :: l) s (wr t a v) := by
  refine ⟨fun p hp => ?_, (h.2.mono (m := a :: l.map Prod.fst) (fun _ hb => List.mem_cons_of_mem _ hb)).and (regsBut_wr t a v)⟩
  rcases List.mem_cons.1 hp with rfl | hp
  · exact rd_wr_same t a v
  · rw [rd_wr_other t v (fun hc => ha (by rw [← hc]; exact List.mem_map_of_mem hp))]
    exact h.1 p hp

theorem RegsAre.wf {l : List (Nat × Word)} {s t : State} {a : Nat} (h : RegsAre l s t) (ha : a ∉ l.map Prod.fst) (f : Fld) (v : Nat) :
    RegsAre (withFld s a f v :: l) s (wf t a f v) := by
  have hw : RegsAre ((a, f.put (rd t a) v) :: l) s (Machine.wf t a f v) := h.wr ha
  rw [h.2 a ha] at hw
  exact hw

theorem RegsAre.wbit {l : List (Nat × Word)} {s t : State} {a : Nat} (h : RegsAre l s t) (ha : a ∉ l.map Prod.fst) (f : Fld) (i : Nat) (b : Bool) :
    RegsAre (withBit s a f i b :: l) s (wbit t a f i b) := by
  have hw : RegsAre ((a, setBit (rd t a) (f.lo + i) b) :: l) s (Machine.wbit t a f i b) := h.wr ha
  rw [h.2 a ha] at hw
  exact hw

/-- The order in which registers are named does not matter. -/
theorem RegsAre.of_mem {l m : List (Nat × Word)} {s t : State} (h : RegsAre l s t) (hm : ∀ p, p ∈ m ↔ p ∈ l) : RegsAre m s t :=
  ⟨fun p hp => h.1 p ((hm p).1 hp), h.2.mono (fun a ha => by
    obtain ⟨p, hp, rfl⟩ := List.mem_map.1 ha
    exact List.mem_map_of_mem ((hm p).2 hp))⟩

theorem fires_of_semFire {l : List Nat} {s t : State} {p : Nat} (hr : RegsBut l s t) (hl : ∀ d < 56, pctlPd d ∉ l)
    (hp : ∀ d, producerDomain p = some d → d < 56) (hsem : t.sem = s.sem) (hport : t.port = s.port) : Fires [p] s (semFire t p) :=
  semFire_sem_congr (canFire_congr (fun d hd => hr.pdOn_eq d (hl d hd)) hp hsem hport) hsem hport

/-! Reports of the host (R28, R31, R32, R34, R101). -/

section
variable {s : State} {k : Fin 16} {d : BitVec 32}

/-- The pair and the tag that a report names. -/
def reportPair (k : Fin 16) (d : BitVec 32) : Nat := (d.toNat >>> 25) % 32 % 16 * 16 + k.val

def reportTag (d : BitVec 32) : Nat := (d.toNat >>> 25) % 32

theorem appliedReport_executed (hon : pdOn s 52 = true) (hrun : s.running = true) (hn : d.toNat >>> 30 = 0) :
    exec (.appliedReport k d) s =
      .next (extendBounds (reportExecuted s k.val (reportPair k d) ((d.toNat >>> 23) % 4) (d.toNat % 65536)) k.val) := by
  show execAppliedReport k d s = _
  unfold execAppliedReport
  rw [onlyIf, hon, hrun, hn]
  rfl

theorem appliedReport_armed (hon : pdOn s 52 = true) (hrun : s.running = true) (hn : d.toNat >>> 30 = 1) :
    exec (.appliedReport k d) s = .next (extendBounds (reportArmed s k.val (reportTag d)) k.val) := by
  show execAppliedReport k d s = _
  unfold execAppliedReport
  rw [onlyIf, hon, hrun, hn]
  rfl

theorem appliedReport_retracted (hon : pdOn s 52 = true) (hrun : s.running = true) (hn : d.toNat >>> 30 = 2) :
    exec (.appliedReport k d) s = .next (extendBounds (reportRetracted s k.val (reportTag d)) k.val) := by
  show execAppliedReport k d s = _
  unfold execAppliedReport
  rw [onlyIf, hon, hrun, hn]
  rfl

theorem appliedReport_safe (hon : pdOn s 52 = true) (hrun : s.running = true) (hn : d.toNat >>> 30 = 3) :
    exec (.appliedReport k d) s =
      .next (extendBounds (reportSafe s (reportPair k d) ((d.toNat >>> 23) % 4) (d.toNat % 65536) (d.toNat.testBit 22)) k.val) := by
  show execAppliedReport k d s = _
  unfold execAppliedReport
  rw [onlyIf, hon, hrun, hn]
  rfl

end

/-- A commutation that is still expected on lane k gains a cycle. -/
def extended (s : State) (k : Nat) (e : Expect) : Expect :=
  if laneOf e.pair == k && e.cyc < s.port then { e with extra := e.extra + 1 } else e

theorem extended_pair (s : State) (k : Nat) (e : Expect) : (extended s k e).pair = e.pair := by unfold extended; split <;> rfl

theorem extended_cyc (s : State) (k : Nat) (e : Expect) : (extended s k e).cyc = e.cyc := by unfold extended; split <;> rfl

theorem extended_s (s : State) (k : Nat) (e : Expect) : (extended s k e).s = e.s := by unfold extended; split <;> rfl

theorem extended_sent (s : State) (k : Nat) (e : Expect) : (extended s k e).sent = e.sent := by unfold extended; split <;> rfl

theorem extended_injective (s : State) (k : Nat) : Function.Injective (extended s k) := by
  intro a b h
  have hp : a.pair = b.pair := by rw [← extended_pair s k a, h, extended_pair]
  have hc : a.cyc = b.cyc := by rw [← extended_cyc s k a, h, extended_cyc]
  unfold extended at h
  rw [hp, hc] at h
  split at h
  · cases a; cases b; simp_all
  · exact h

theorem extendBounds_sameBut (s : State) (k : Nat) : SameBut [.cvp] s (extendBounds s k) := cvp_sameBut s _

theorem expects_extendBounds (s : State) (k : Nat) : (extendBounds s k).cvp.expects = s.cvp.expects.map (extended s k) := rfl

theorem tags_extendBounds (s : State) (k : Nat) : (extendBounds s k).cvp.tags = s.cvp.tags := rfl

/-- A change that leaves the time alone leaves alone what the extension adds. -/
theorem expects_extendBounds_of (s : State) {t : State} (hport : t.port = s.port) (k : Nat) :
    (extendBounds t k).cvp.expects = t.cvp.expects.map (extended s k) := by
  have h : extended t k = extended s k := funext fun e => by unfold extended; rw [hport]
  rw [expects_extendBounds, h]

theorem expects_tagRelease (s : State) : (tagRelease s).cvp.expects = s.cvp.expects := rfl

theorem setApplied_sameBut (s : State) (p v : Nat) : SameBut [.regs] s (setApplied s p v) := wf_sameBut s _ _ _

theorem mismatch_sameBut (s : State) (k : Nat) : SameBut [.regs] s (mismatch s k) := (wb_sameBut s _ _ _).and (wbit_sameBut _ _ _ _ _)

/-- The flag and the lane's bit of a mismatch (R32). -/
theorem regsAre_mismatch (s : State) (k : Nat) :
    RegsAre [withFld s cvpEvsts cvpEvstsAPPLIEDMISMATCH 1, withBit s cvpLnsts cvpLnstsEGERR k true] s (mismatch s k) :=
  ((regsAre_wf s cvpEvsts cvpEvstsAPPLIEDMISMATCH 1).wbit (show cvpLnsts ∉ [cvpEvsts] by decide) cvpLnstsEGERR k true).of_mem (by simp [or_comm])


theorem cvpApplied_notMem {p : Nat} (hp : p < 256) : cvpApplied (p / 16) ∉ [cvpEvsts, cvpLnsts] := by
  simp only [cvpApplied, cvpEvsts, cvpLnsts, List.mem_cons, List.not_mem_nil, or_false, not_or]
  omega

theorem reportPair_lt (k : Fin 16) (d : BitVec 32) : reportPair k d < 256 := by
  unfold reportPair
  omega

/-- The state that a pair was last reported in (R32), before the tags that it frees leave. -/
def appliedPair (s : State) (p v : Nat) : Nat × Word := withFld s (cvpApplied (p / 16)) ⟨2 * (p % 16) + 1, 2 * (p % 16)⟩ v

theorem regsBut_tagRelease (s : State) : RegsBut [] s (tagRelease s) := fun _ _ => rfl

theorem regsBut_extendBounds (s : State) (k : Nat) : RegsBut [] s (extendBounds s k) := fun _ _ => rfl

/-- How every report of a pair's state ends: the state is shown, and the lane's bounds gain a cycle. -/
def reportEnds (t : State) (k p v : Nat) : State := extendBounds (tagRelease (setApplied t p v)) k

theorem reportEnds_sameBut (t : State) (k p v : Nat) : SameBut [.cvp, .ssp, .regs] t (reportEnds t k p v) :=
  (((setApplied_sameBut t p v).mono (by decide)).trans ((tagRelease_sameBut _).mono (by decide))).and (extendBounds_sameBut _ k)

theorem regsAre_reportEnds {l : List (Nat × Word)} {s t : State} (h : RegsAre l s t) {p : Nat} (hp : cvpApplied (p / 16) ∉ l.map Prod.fst) (k v : Nat) :
    RegsAre (appliedPair s p v :: l) s (reportEnds t k p v) :=
  ((h.wf hp ⟨2 * (p % 16) + 1, 2 * (p % 16)⟩ v).and (regsBut_tagRelease _)).and (regsBut_extendBounds _ k)

theorem expects_reportEnds (s : State) {t : State} (hport : t.port = s.port) (k p v : Nat) :
    (reportEnds t k p v).cvp.expects = t.cvp.expects.map (extended s k) :=
  expects_extendBounds_of s ((tagRelease_sameBut _ .port (by decide)).trans ((setApplied_sameBut t p v .port (by decide)).trans hport)) k

/-- The commutation that a report of KIND 0 meets (R32). -/
theorem expects_found {s : State} {k p c : Nat} {e : Expect}
    (h : (extendBounds s k).cvp.expects.find? (fun x => x.pair == p && x.cyc % 65536 == c && x.cyc ≤ s.port) = some e) :
    ∃ x, s.cvp.expects.find? (fun x => x.pair == p && x.cyc % 65536 == c && x.cyc ≤ s.port) = some x ∧ extended s k x = e := by
  rw [expects_extendBounds, List.find?_map] at h
  have hfun : ((fun x : Expect => x.pair == p && x.cyc % 65536 == c && decide (x.cyc ≤ s.port)) ∘ extended s k) =
      fun x => x.pair == p && x.cyc % 65536 == c && decide (x.cyc ≤ s.port) := funext fun x => by
    simp only [Function.comp, extended_pair, extended_cyc]
  rw [hfun] at h
  obtain ⟨x, hx, he⟩ := Option.map_eq_some_iff.1 h
  exact ⟨x, hx, he⟩

/-- The commutation has been executed. -/
def executed (s : State) (x : Expect) : State := { s with cvp := { s.cvp with expects := s.cvp.expects.erase x } }

theorem executed_sameBut (s : State) (x : Expect) : SameBut [.cvp] s (executed s x) := cvp_sameBut s _

theorem reportExecuted_found {s : State} {k p v c : Nat} {x : Expect}
    (h : s.cvp.expects.find? (fun x => x.pair == p && x.cyc % 65536 == c && x.cyc ≤ s.port) = some x) :
    reportExecuted s k p v c = tagRelease (setApplied (if x.s == v then executed s x else mismatch (executed s x) k) p v) := by
  unfold reportExecuted
  dsimp only
  rw [h]
  rfl

theorem expects_mismatch (s : State) (k : Nat) : (mismatch s k).cvp.expects = s.cvp.expects := rfl

theorem map_erase_extended (s : State) (k : Nat) (l : List Expect) (x : Expect) :
    (l.erase x).map (extended s k) = (l.map (extended s k)).erase (extended s k x) := List.map_erase (extended_injective s k) l

theorem appliedReport_found {s : State} {k : Fin 16} {d : BitVec 32} {e : Expect} (hon : pdOn s 52 = true) (hrun : s.running = true)
    (hn : d.toNat >>> 30 = 0)
    (h : (extendBounds s k.val).cvp.expects.find? (fun x => x.pair == reportPair k d && x.cyc % 65536 == d.toNat % 65536 && x.cyc ≤ s.port) = some e) :
    (e.s = (d.toNat >>> 23) % 4 → Runs (.appliedReport k d) s (fun t => t.cvp.expects = (extendBounds s k.val).cvp.expects.erase e ∧
      SameBut [.cvp, .ssp, .regs] s t ∧ RegsAre [appliedPair s (reportPair k d) ((d.toNat >>> 23) % 4)] s t)) ∧
    (e.s ≠ (d.toNat >>> 23) % 4 → Runs (.appliedReport k d) s (fun t => t.cvp.expects = (extendBounds s k.val).cvp.expects.erase e ∧
      SameBut [.cvp, .ssp, .regs] s t ∧ RegsAre [appliedPair s (reportPair k d) ((d.toNat >>> 23) % 4),
        withFld s cvpEvsts cvpEvstsAPPLIEDMISMATCH 1, withBit s cvpLnsts cvpLnstsEGERR k.val true] s t)) := by
  obtain ⟨x, hx, rfl⟩ := expects_found h
  have hex := appliedReport_executed (k := k) hon hrun hn
  rw [reportExecuted_found hx] at hex
  have hbase := executed_sameBut s x
  have hregs : RegsBut [] s (executed s x) := fun _ _ => rfl
  have hexp : ((executed s x).cvp.expects).map (extended s k.val) = (extendBounds s k.val).cvp.expects.erase (extended s k.val x) :=
    map_erase_extended s k.val s.cvp.expects x
  rw [extended_s]
  have hap := cvpApplied_notMem (reportPair_lt k d)
  refine ⟨fun hv => ⟨_, hex, ?_, ?_, ?_⟩, fun hv => ⟨_, hex, ?_, ?_, ?_⟩⟩
  · rw [if_pos (by simpa using hv)]
    exact (expects_reportEnds (t := executed s x) s rfl k.val _ _).trans hexp
  · rw [if_pos (by simpa using hv)]
    exact (hbase.mono (by decide)).and (reportEnds_sameBut _ k.val _ _)
  · rw [if_pos (by simpa using hv)]
    exact regsAre_reportEnds (regsAre_nil hregs) List.not_mem_nil k.val _
  · rw [if_neg (by simpa using hv)]
    exact (expects_reportEnds (t := mismatch (executed s x) k.val) s rfl k.val _ _).trans hexp
  · rw [if_neg (by simpa using hv)]
    exact ((hbase.mono (by decide)).and ((mismatch_sameBut _ k.val).mono (by decide : ∀ p ∈ [Part.regs], p ∈ [Part.cvp, .ssp, .regs]))).and (reportEnds_sameBut _ k.val _ _)
  · rw [if_neg (by simpa using hv)]
    exact regsAre_reportEnds (regsAre_mismatch (executed s x) k.val) hap k.val _

/-- The tag has armed, and lane k has reported it. -/
def armedOn (s : State) (k g : Nat) : State :=
  { tagArm s g false with cvp := { (tagArm s g false).cvp with
    tags := (tagArm s g false).cvp.tags.map (fun l => if l.lane == k && l.tag == g then { l with rep := true } else l) } }

theorem armedOn_sameBut (s : State) (k g : Nat) : SameBut [.cvp] s (armedOn s k g) := (tagArm_sameBut s g).and (cvp_sameBut _ _)

/-- A report of KIND 1 on a tag that waits on every lane (R28, R101). -/
theorem appliedReport_arms {s : State} {k : Fin 16} {d : BitVec 32} (hon : pdOn s 52 = true) (hrun : s.running = true)
    (hn : d.toNat >>> 30 = 1) (hsome : (laneTag s k.val (reportTag d)).isSome = true)
    (hwait : ∀ l ∈ s.cvp.tags, l.tag = reportTag d → l.gone = false ∧ l.armed = false) :
    Runs (.appliedReport k d) s (fun t => SameBut [.cvp, .ssp] s t ∧
      ∀ l ∈ t.cvp.tags, l.tag = reportTag d → l.armed = true ∧ (l.lane = k.val → l.rep = true)) := by
  refine ⟨_, appliedReport_armed hon hrun hn, ?_⟩
  generalize reportTag d = g at hsome hwait ⊢
  obtain ⟨l0, hl0⟩ := Option.isSome_iff_exists.1 hsome
  have hl0m := List.mem_of_find?_eq_some hl0
  have hl0t : l0.tag = g := by
    have := List.find?_some hl0
    simp only [Bool.and_eq_true, beq_iff_eq] at this
    exact this.2
  have hna : l0.armed = false := (hwait l0 hl0m hl0t).2
  have harm : reportArmed s k.val g = tagRelease (armedOn s k.val g) := by
    unfold reportArmed
    rw [hl0]
    dsimp only
    rw [hna]
    rfl
  rw [harm]
  refine ⟨(((armedOn_sameBut s k.val g).mono (by decide)).and (tagRelease_sameBut _)).and (extendBounds_sameBut _ k.val),
    fun l hl htag => ?_⟩
  have hl' : l ∈ (tagArm s g false).cvp.tags.map (fun l => if l.lane == k.val && l.tag == g then { l with rep := true } else l) :=
    mem_tags_tagRelease hl
  rw [tagArm_tags, List.map_map] at hl'
  obtain ⟨x, hx, rfl⟩ := List.mem_map.1 hl'
  simp only [Function.comp] at htag ⊢
  have htx : x.tag = g := by
    unfold LaneTag.arms at htag
    split at htag <;> split at htag <;> exact htag
  obtain ⟨hgone, harmed⟩ := hwait x hx htx
  have hxa : x.arms g = { x with armed := true, early := false, words := [] } := by
    unfold LaneTag.arms
    rw [if_pos (by simp [htx, hgone, harmed])]
  rw [hxa]
  split
  · exact ⟨rfl, fun _ => rfl⟩
  · next hne =>
    refine ⟨rfl, fun hlane => absurd ?_ hne⟩
    simp only at hlane
    simp [htx, hlane]

theorem appliedReport_retracts {s : State} {k : Fin 16} {d : BitVec 32} (hon : pdOn s 52 = true) (hrun : s.running = true)
    (hn : d.toNat >>> 30 = 2) : Runs (.appliedReport k d) s (fun t => SameBut [.cvp, .ssp] s t ∧
      t.cvp.tags = s.cvp.tags.filter (fun l => !(l.lane == k.val && l.tag == reportTag d))) :=
  ⟨_, appliedReport_retracted hon hrun hn,
    (((cvp_sameBut s _).mono (by decide)).trans ((postsSync_sameBut _).mono (by decide))).and (extendBounds_sameBut _ k.val), rfl⟩

/-- What the host discarded when the pair became safe (R34). -/
def discarded (s : State) (p at_ : Nat) : State :=
  { s with
    cvp := { s.cvp with
      expects := s.cvp.expects.filter (fun e => !(e.pair == p && e.sent ≤ at_))
      swn := s.cvp.swn.filter (fun q => q.1 / 2 != p ||
        (s.cvp.expects.filter (fun e => !(e.pair == p && e.sent ≤ at_))).any (fun e => e.pair == p && e.cyc * 128 + e.fine == q.2))
      tags := s.cvp.tags.map (fun l => { l with words := l.words.filter (fun w => !(w.1.pair == p && w.2 ≤ at_)) }) }
    dbg := { s.dbg with wait := s.dbg.wait.map (fun w => (w.1, w.2.filter (· != p))) } }

theorem discarded_sameBut (s : State) (p at_ : Nat) : SameBut [.cvp, .dbg] s (discarded s p at_) := by
  intro q hq; cases q <;> simp [Part.same, discarded] at hq ⊢

theorem reportSafe_eq (s : State) (p v c : Nat) (ent : Bool) :
    reportSafe s p v c ent = tagRelease (setApplied (if ent then discarded s p ((extendTsc s.port c).getD 0) else s) p v) := by
  cases ent <;> rfl

theorem appliedReport_enters {s : State} {k : Fin 16} {d : BitVec 32} (hon : pdOn s 52 = true) (hrun : s.running = true)
    (hn : d.toNat >>> 30 = 3) : Runs (.appliedReport k d) s (fun t => SameBut [.cvp, .ssp, .dbg, .regs] s t ∧
      RegsAre [appliedPair s (reportPair k d) ((d.toNat >>> 23) % 4)] s t ∧
      t.cvp.expects = if d.getLsbD 22 then
          (extendBounds s k.val).cvp.expects.filter (fun x => !(x.pair == reportPair k d && x.sent ≤ (extendTsc s.port (d.toNat % 65536)).getD 0))
        else (extendBounds s k.val).cvp.expects) := by
  have hex := appliedReport_safe (k := k) hon hrun hn
  rw [reportSafe_eq] at hex
  refine ⟨_, hex, ?_⟩
  have hbit : d.getLsbD 22 = d.toNat.testBit 22 := rfl
  rw [hbit]
  cases d.toNat.testBit 22 with
  | false => exact ⟨(reportEnds_sameBut s k.val _ _).mono (by decide), regsAre_reportEnds (regsAre_nil (RegsBut.refl _ s)) List.not_mem_nil k.val _,
      expects_reportEnds s rfl k.val _ _⟩
  | true =>
    have hd := discarded_sameBut s (reportPair k d) ((extendTsc s.port (d.toNat % 65536)).getD 0)
    refine ⟨(hd.mono (by decide)).and ((reportEnds_sameBut _ k.val _ _).mono (by decide : ∀ p ∈ [Part.cvp, .ssp, .regs], p ∈ [Part.cvp, .ssp, .dbg, .regs])),
      regsAre_reportEnds (regsAre_nil (fun _ _ => rfl)) List.not_mem_nil k.val _, (expects_reportEnds s ?_ k.val _ _).trans ?_⟩
    · exact hd .port (by decide)
    · rw [if_pos rfl, expects_extendBounds, List.filter_map]
      refine congrArg (List.map (extended s k.val)) (List.filter_congr (fun x _ => ?_))
      simp only [Function.comp, extended_pair, extended_sent]

/-- Overdue commutations are marked once (R32). -/
theorem appliedReportTimeout_result {s : State} {k : Fin 16} (h : s.cvp.expects.any (overdue s k.val) = true) :
    Runs (.appliedReportTimeout k) s (fun t =>
      t.cvp.expects = s.cvp.expects.map (fun x => if overdue s k.val x then { x with late := true } else x) ∧
      t.cvp.tags = s.cvp.tags ∧ SameBut [.cvp, .regs] s t ∧
      RegsAre [withFld s cvpEvsts cvpEvstsAPPLIEDMISMATCH 1, withBit s cvpLnsts cvpLnstsEGERR k.val true] s t) := by
  have hex : exec (.appliedReportTimeout k) s = .next (mismatch { s with cvp := { s.cvp with
      expects := s.cvp.expects.map (fun e => if overdue s k.val e then { e with late := true } else e) } } k.val) := by
    show execAppliedReportTimeout k s = _
    rw [execAppliedReportTimeout, onlyIf, h]
    rfl
  refine ⟨_, hex, rfl, rfl, ((cvp_sameBut s _).mono (by decide)).and (mismatch_sameBut _ k.val), ?_⟩
  exact regsAre_mismatch { s with cvp := _ } k.val


/-! The drive grant (R39, R77, R107). -/

/-- The grant as the port sees it. -/
def granted (s : State) (b : Bool) : State := wb { s with cvp := { s.cvp with gnt := b } } cvpDrive cvpDriveGNT b

theorem granted_sameBut (s : State) (b : Bool) : SameBut [.cvp, .regs] s (granted s b) :=
  ((cvp_sameBut s _).mono (by decide)).and (wb_sameBut _ _ _ _)

theorem regsBut_granted (s : State) (b : Bool) : RegsBut [cvpDrive] s (granted s b) := regsBut_wb { s with cvp := _ } _ _ _

theorem rb_granted_apart (s : State) (b : Bool) {f : Fld} (hf : f.fits = true) (h : cvpDriveGNT.hi < f.lo ∨ f.hi < cvpDriveGNT.lo) :
    rb (granted s b) cvpDrive f = rb s cvpDrive f := rb_wb_apart { s with cvp := _ } _ _ _ _ rfl hf h

/-- The state of the port as its safe pairs are followed. -/
theorem safeSync_result {s u : State} {l : List Nat} {ps : List Part} (hr : RegsBut l s u) (hp : SameBut ps s u) (hsig : u.sig = s.sig)
    (hcvp : .cvp ∈ ps) (hregs : .regs ∈ ps) : RegsBut (l ++ safeRegs) s (safeSync u) ∧ SameBut (.sig :: ps) s (safeSync u) ∧
      (safeSync u).sig = { s.sig with traces := (safeSync u).sig.traces } ∧ (safeSync u).cvp.gnt = u.cvp.gnt := by
  have hk := keepsPort_safeSync u
  refine ⟨hr.trans hk.regs, (hp.mono (fun _ h => List.mem_cons_of_mem _ h)).and hk.parts (fun p hm => ?_), by rw [hk.sig, hsig], by rw [hk.cvp]⟩
  simp only [List.mem_cons, List.not_mem_nil, or_false] at hm ⊢
  rcases hm with rfl | rfl | rfl <;> simp [hcvp, hregs]

/-- A grant that nobody asked for (R39). -/
theorem driveGntRise_unrequested {s : State} (hg : s.cvp.gnt = false) (hreq : rb s cvpDrive cvpDriveREQ = false) :
    Runs .driveGntRise s (fun t => t.cvp.gnt = true ∧ rb t cvpDrive cvpDriveGNT = true ∧ rb t cvpEvsts cvpEvstsGNTUNREQUESTED = true ∧
      (∀ p < 256, rnSafe t p = true) ∧ RegsBut (cvpDrive :: cvpEvsts :: safeRegs) s t ∧
      t.sig = { s.sig with traces := t.sig.traces } ∧ SameBut [.cvp, .regs, .sig] s t) := by
  have hreq' : rb (granted s true) cvpDrive cvpDriveREQ = false := (rb_granted_apart s true rfl (by decide)).trans hreq
  have hex : exec .driveGntRise s = .next (safeSync (wb (granted s true) cvpEvsts cvpEvstsGNTUNREQUESTED true)) := by
    show execDriveGntRise s = _
    unfold execDriveGntRise
    dsimp only
    rw [← granted, hreq', onlyIf, hg]
    rfl
  refine ⟨_, hex, ?_⟩
  have hr := (regsBut_granted s true).trans (regsBut_wb (granted s true) cvpEvsts cvpEvstsGNTUNREQUESTED true)
  have hp := (granted_sameBut s true).and (wb_sameBut _ cvpEvsts cvpEvstsGNTUNREQUESTED true)
  have hgnt : rb (wb (granted s true) cvpEvsts cvpEvstsGNTUNREQUESTED true) cvpDrive cvpDriveGNT = true := by
    rw [rb_wb_other _ _ _ _ (by decide)]
    exact rb_wb_same _ _ _ _ rfl
  have hflag : rb (wb (granted s true) cvpEvsts cvpEvstsGNTUNREQUESTED true) cvpEvsts cvpEvstsGNTUNREQUESTED = true := rb_wb_same _ _ _ _ rfl
  have hcvp : (wb (granted s true) cvpEvsts cvpEvstsGNTUNREQUESTED true).cvp.gnt = true := rfl
  have hoff : rb (wb (granted s true) cvpEvsts cvpEvstsGNTUNREQUESTED true) cvpDrive cvpDriveREQ = false := by
    rw [rb_wb_other _ _ _ _ (by decide), hreq']
  generalize wb (granted s true) cvpEvsts cvpEvstsGNTUNREQUESTED true = u at hr hp hgnt hflag hcvp hoff
  obtain ⟨hregs, hparts, hsig, hg'⟩ := safeSync_result hr hp (hp .sig (by decide)) (by decide) (by decide)
  have hk := (keepsPort_safeSync u).regs
  exact ⟨hg'.trans hcvp, (hk.rb_eq (notMem_safeRegs (by decide)) _).trans hgnt, (hk.rb_eq (notMem_safeRegs (by decide)) _).trans hflag,
    rnSafe_safeSync_of_allSafe (allSafe_of_unrequested hoff), hregs, hsig, hparts.mono (by decide)⟩

/-- The grant has fallen. -/
def lost (s : State) : State := wb (granted s false) cvpDrive cvpDriveDRIVING false

theorem lost_sameBut (s : State) : SameBut [.cvp, .regs] s (lost s) := (granted_sameBut s false).and (wb_sameBut _ _ _ _)

theorem regsBut_lost (s : State) : RegsBut [cvpDrive] s (lost s) := (regsBut_granted s false).and (regsBut_wb _ _ _ _)

theorem rb_lost (s : State) : rb (lost s) cvpDrive cvpDriveREQ = rb s cvpDrive cvpDriveREQ ∧ rb (lost s) cvpDrive cvpDriveGNT = false ∧
    rb (lost s) cvpDrive cvpDriveDRIVING = false := by
  refine ⟨?_, ?_, rb_wb_same _ _ _ _ rfl⟩
  · rw [lost, rb_wb_apart _ _ _ _ _ rfl rfl (by decide), rb_granted_apart _ _ rfl (by decide)]
  · rw [lost, rb_wb_apart _ _ _ _ _ rfl rfl (by decide)]
    exact rb_wb_same _ _ _ _ rfl

/-- A grant that falls while it is asked for is reported (R39). -/
def lostShown (s : State) : State :=
  if rb s cvpDrive cvpDriveREQ then semFire (wb (lost s) cvpEvsts cvpEvstsGNTLOST true) 0x099 else lost s

theorem cvpDrive_pd {l : List Nat} (hl : ∀ a ∈ l, 0x40040000 ≤ a) (d : Nat) (hd : d < 56) : pctlPd d ∉ l := fun h => by
  have := hl _ h
  simp only [pctlPd] at this
  omega

theorem lostShown_spec (s : State) : RegsBut [cvpDrive, cvpEvsts] s (lostShown s) ∧ SameBut [.cvp, .regs, .sem] s (lostShown s) ∧
    (lostShown s).cvp.gnt = false ∧ rb (lostShown s) cvpDrive cvpDriveGNT = false ∧ rb (lostShown s) cvpDrive cvpDriveDRIVING = false ∧
    rb (lostShown s) cvpEvsts cvpEvstsGNTLOST = (rb s cvpEvsts cvpEvstsGNTLOST || rb s cvpDrive cvpDriveREQ) ∧
    Fires (if rb s cvpDrive cvpDriveREQ then [0x099] else []) s (lostShown s) := by
  obtain ⟨-, hgnt, hdrv⟩ := rb_lost s
  have hr := regsBut_lost s
  have hp := lost_sameBut s
  unfold lostShown
  cases rb s cvpDrive cvpDriveREQ with
  | false => exact ⟨hr.mono (by simp), hp.mono (by decide), rfl, hgnt, hdrv, by rw [Bool.or_false]; exact hr.rb_eq (by decide) _, hp .sem (by decide)⟩
  | true =>
    have hr2 := (hr.mono (m := [cvpDrive, cvpEvsts]) (by simp)).and (regsBut_wb (lost s) cvpEvsts cvpEvstsGNTLOST true)
    have hp2 := hp.and (wb_sameBut (lost s) cvpEvsts cvpEvstsGNTLOST true)
    simp only [reduceIte]
    refine ⟨hr2.and (regsBut_semFire _ _), (hp2.mono (by decide)).and (semFire_sameBut _ _), rfl, ?_, ?_, ?_,
      fires_of_semFire hr2 (fun d hd => cvpDrive_pd (by decide) d hd) (by decide) (hp2 .sem (by decide)) (hp2 .port (by decide))⟩
    · exact (rb_wb_other (lost s) _ _ _ (by decide)).trans hgnt
    · exact (rb_wb_other (lost s) _ _ _ (by decide)).trans hdrv
    · rw [Bool.or_true]
      exact rb_wb_same (lost s) _ _ _ rfl

theorem driveGntFall_result {s : State} (hg : s.cvp.gnt = true) : Runs .driveGntFall s (fun t =>
    t.cvp.gnt = false ∧ rb t cvpDrive cvpDriveGNT = false ∧ rb t cvpDrive cvpDriveDRIVING = false ∧ (∀ p < 256, rnSafe t p = true) ∧
    rb t cvpEvsts cvpEvstsGNTLOST = (rb s cvpEvsts cvpEvstsGNTLOST || rb s cvpDrive cvpDriveREQ) ∧
    Fires (if rb s cvpDrive cvpDriveREQ then [0x099] else []) s t ∧ RegsBut (cvpDrive :: cvpEvsts :: safeRegs) s t ∧
    t.sig = { s.sig with traces := t.sig.traces } ∧ SameBut [.cvp, .regs, .sem, .sig] s t) := by
  have hex : exec .driveGntFall s = .next (safeSync (lostShown s)) := by
    show onlyIf s.cvp.gnt s (safeSync (if rb (lost s) cvpDrive cvpDriveREQ then semFire (wb (lost s) cvpEvsts cvpEvstsGNTLOST true) 0x099 else lost s)) = _
    rw [(rb_lost s).1, onlyIf, if_pos hg, ← lostShown]
  refine ⟨_, hex, ?_⟩
  obtain ⟨hr, hp, hgnt, hg1, hd1, hl1, hf⟩ := lostShown_spec s
  generalize lostShown s = u at hr hp hgnt hg1 hd1 hl1 hf
  obtain ⟨hregs, hparts, hsig, hg'⟩ := safeSync_result hr hp (hp .sig (by decide)) (by decide) (by decide)
  have hk := (keepsPort_safeSync u).regs
  have hsafe : allSafe u = true := by simp [allSafe, hgnt]
  have hsem : (safeSync u).sem = u.sem := (keepsPort_safeSync u).parts .sem (by decide)
  exact ⟨hg'.trans hgnt, (hk.rb_eq (notMem_safeRegs (by decide)) _).trans hg1, (hk.rb_eq (notMem_safeRegs (by decide)) _).trans hd1,
    rnSafe_safeSync_of_allSafe hsafe, (hk.rb_eq (notMem_safeRegs (by decide)) _).trans hl1, hsem.trans hf, hregs, hsig, hparts.mono (by decide)⟩

/-! The hand-overs and the bases that a grant asks for (R77, R107). -/

/-- One slot of the requests for a hand-over. -/
def grantHandover (t : State) (n : Nat) : State :=
  if rb t (slotCtl n) aeSlotctlEN && !rb t (slotHoctl n) aeHoctlHOREQ && !(ownedPairs t 1 n).isEmpty then
    setSlot (wb t (slotHoctl n) aeHoctlHOREQ true) n { slotOf t n with noTake := true }
  else t

theorem grantHandovers_eq (s : State) : grantHandovers s = (List.range 128).foldl grantHandover s := rfl

theorem grantHandover_sameBut (t : State) (n : Nat) : SameBut [.regs, .ae] t (grantHandover t n) := by
  unfold grantHandover
  split
  · exact ((wb_sameBut t _ _ _).mono (by decide)).and (setSlot_sameBut _ _ _)
  · exact SameBut.refl _ t

theorem regsBut_grantHandover (t : State) (n : Nat) : RegsBut [slotHoctl n] t (grantHandover t n) := by
  unfold grantHandover
  split
  · exact (regsBut_wb t _ _ _).and (regsBut_setSlot _ _ _)
  · exact RegsBut.refl _ t

theorem rb_grantHandover (t : State) (n : Nat) : rb (grantHandover t n) (slotHoctl n) aeHoctlHOREQ =
    (rb t (slotHoctl n) aeHoctlHOREQ || (rb t (slotCtl n) aeSlotctlEN && !(ownedPairs t 1 n).isEmpty)) := by
  unfold grantHandover
  cases hq : rb t (slotHoctl n) aeHoctlHOREQ <;> cases he : rb t (slotCtl n) aeSlotctlEN <;> cases ho : (ownedPairs t 1 n).isEmpty <;>
    simp [hq]
  exact rb_wb_same t _ _ _ rfl

theorem slotHoctl_injective {m n : Nat} (hm : m < 128) (hn : n < 128) (h : slotHoctl m = slotHoctl n) : m = n := by
  simp only [slotHoctl, aeHoctl, engOf, locOf] at h
  omega

theorem slotCtl_ne_slotHoctl {m n : Nat} : slotCtl m ≠ slotHoctl n := by
  simp only [slotCtl, aeSlotctl, slotHoctl, aeHoctl, engOf, locOf]
  omega

theorem ownedPairs_congr {l : List Nat} {s t : State} (h : RegsBut l s t) (hl : ∀ p < 256, cvpPaircfg p ∉ l) (own i : Nat) :
    ownedPairs t own i = ownedPairs s own i :=
  List.filter_congr (fun p hp => by unfold owns; rw [h.rf_eq (hl p (List.mem_range.1 hp)), h.rf_eq (hl p (List.mem_range.1 hp))])

/-- The requests of the slots up to n. -/
theorem grantHandovers_prefix (s : State) {n : Nat} (hn : n ≤ 128) :
    let t := (List.range n).foldl grantHandover s
    RegsBut ((List.range 128).map slotHoctl) s t ∧ SameBut [.regs, .ae] s t ∧ ∀ m < 128, rb t (slotHoctl m) aeHoctlHOREQ =
      (rb s (slotHoctl m) aeHoctlHOREQ || (decide (m < n) && (rb s (slotCtl m) aeSlotctlEN && !(ownedPairs s 1 m).isEmpty))) := by
  induction n with
  | zero => exact ⟨RegsBut.refl _ s, SameBut.refl _ s, fun m _ => by simp⟩
  | succ n ih =>
    obtain ⟨hr, hp, hq⟩ := ih (by omega)
    rw [List.range_succ, List.foldl_append]
    generalize (List.range n).foldl grantHandover s = t at hr hp hq
    have hmem : slotHoctl n ∈ (List.range 128).map slotHoctl := List.mem_map_of_mem (List.mem_range.2 (by omega))
    refine ⟨hr.and (regsBut_grantHandover t n) (by simpa using hmem), hp.and (grantHandover_sameBut t n), fun m hm => ?_⟩
    have hnot (a : Nat) (ha : ∀ i, a ≠ slotHoctl i) : a ∉ (List.range 128).map slotHoctl := fun h => by
      obtain ⟨i, -, hi⟩ := List.mem_map.1 h
      exact ha i hi.symm
    show rb (grantHandover t n) (slotHoctl m) aeHoctlHOREQ = _
    by_cases hmn : m = n
    · subst hmn
      rw [rb_grantHandover, hq m hm, hr.rb_eq (hnot _ (fun _ => slotCtl_ne_slotHoctl)),
        ownedPairs_congr hr (fun p hp' => hnot _ (fun i => by simp only [cvpPaircfg, slotHoctl, aeHoctl]; omega))]
      simp
    · have hne : slotHoctl m ∉ [slotHoctl n] := fun h => hmn (slotHoctl_injective hm (by omega) (List.mem_singleton.1 h))
      rw [(regsBut_grantHandover t n).rb_eq hne, hq m hm]
      have : decide (m < n + 1) = decide (m < n) := by simp; omega
      rw [this]

/-- One cell of the rebasing. -/
def rebased (t : State) (c : Nat) : State :=
  { t with ssp := { t.ssp with cells := tset Cell.off t.ssp.cells c { tget Cell.off t.ssp.cells c with regnt := true } } }

theorem grantRebase_eq (s : State) : grantRebase s = (List.range 8).foldl rebased s := rfl

theorem grantRebase_spec (s : State) (n : Nat) :
    let t := (List.range n).foldl rebased s
    SameBut [.ssp] s t ∧ t.ssp = { s.ssp with cells := t.ssp.cells } ∧
      ∀ c, cellOf t c = if c < n then { cellOf s c with regnt := true } else cellOf s c := by
  induction n with
  | zero => exact ⟨SameBut.refl _ s, rfl, fun c => rfl⟩
  | succ n ih =>
    obtain ⟨hp, hx, hc⟩ := ih
    rw [List.range_succ, List.foldl_append]
    generalize (List.range n).foldl rebased s = t at hp hx hc
    refine ⟨hp.and (ssp_sameBut t _), ?_, fun c => ?_⟩
    · show (rebased t n).ssp = { s.ssp with cells := (rebased t n).ssp.cells }
      exact (show (rebased t n).ssp = { t.ssp with cells := (rebased t n).ssp.cells } from rfl).trans (by rw [hx])
    · have hcell : cellOf (rebased t n) c = if c = n then { cellOf t n with regnt := true } else cellOf t c := tget_tset _ _ _ _ _
      show cellOf (rebased t n) c = _
      rw [hcell]
      by_cases h : c = n
      · subst h
        rw [if_pos rfl, hc, if_neg (by omega), if_pos (by omega)]
      · rw [if_neg h, hc]
        have : c < n + 1 ↔ c < n := by omega
        simp only [this]

/-- The port drives, and GNT_RISE has fired (R39). -/
def driving (s : State) : State := semFire (wb (granted s true) cvpDrive cvpDriveDRIVING true) 0x09A

theorem driving_spec (s : State) : RegsBut [cvpDrive] s (driving s) ∧ SameBut [.cvp, .regs, .sem] s (driving s) ∧ (driving s).cvp.gnt = true ∧
    rb (driving s) cvpDrive cvpDriveGNT = true ∧ rb (driving s) cvpDrive cvpDriveDRIVING = true ∧ Fires [0x09A] s (driving s) := by
  have hr := (regsBut_granted s true).and (regsBut_wb (granted s true) cvpDrive cvpDriveDRIVING true)
  have hp := (granted_sameBut s true).and (wb_sameBut _ cvpDrive cvpDriveDRIVING true)
  refine ⟨hr.and (regsBut_semFire _ _), (hp.mono (by decide)).and (semFire_sameBut _ _), rfl, ?_, ?_,
    fires_of_semFire hr (fun d hd => cvpDrive_pd (by decide) d hd) (by decide) (hp .sem (by decide)) (hp .port (by decide))⟩
  · exact (rb_wb_apart (granted s true) _ _ _ _ rfl rfl (by decide)).trans (rb_wb_same { s with cvp := _ } _ _ _ rfl)
  · exact rb_wb_same (granted s true) _ _ _ rfl

theorem driveGntRise_requested {s : State} (hg : s.cvp.gnt = false) (hreq : rb s cvpDrive cvpDriveREQ = true) :
    Runs .driveGntRise s (fun t => t.cvp.gnt = true ∧ rb t cvpDrive cvpDriveGNT = true ∧ rb t cvpDrive cvpDriveDRIVING = true ∧ Fires [0x09A] s t ∧
      (∀ n < 128, rb t (slotHoctl n) aeHoctlHOREQ = (rb s (slotHoctl n) aeHoctlHOREQ ||
        (rb s (slotCtl n) aeSlotctlEN && !(ownedPairs s 1 n).isEmpty))) ∧
      (∀ c, cellOf t c = if c < 8 then { cellOf s c with regnt := true } else cellOf s c) ∧ t.ssp = { s.ssp with cells := t.ssp.cells } ∧
      RegsBut (cvpDrive :: safeRegs ++ (List.range 128).map slotHoctl) s t ∧ t.sig = { s.sig with traces := t.sig.traces } ∧
      SameBut [.cvp, .regs, .sem, .ae, .sig, .ssp] s t) := by
  have hreq' : rb (granted s true) cvpDrive cvpDriveREQ = true := (rb_granted_apart s true rfl (by decide)).trans hreq
  have hex : exec .driveGntRise s = .next (safeSync (grantRebase (grantHandovers (driving s)))) := by
    show execDriveGntRise s = _
    unfold execDriveGntRise
    dsimp only
    rw [← granted, if_pos hreq', onlyIf, if_pos (by simp [hg]), ← driving]
  refine ⟨_, hex, ?_⟩
  obtain ⟨hr, hp, hgnt, hg1, hd1, hf⟩ := driving_spec s
  generalize driving s = u at hr hp hgnt hg1 hd1 hf
  rw [grantHandovers_eq, grantRebase_eq]
  obtain ⟨hr2, hp2, hq⟩ := grantHandovers_prefix u le_rfl
  generalize (List.range 128).foldl grantHandover u = v at hr2 hp2 hq
  obtain ⟨hp3, hssp, hcell⟩ := grantRebase_spec v 8
  generalize (List.range 8).foldl rebased v = w at hp3 hssp hcell
  have hr3 : RegsBut [] v w := regsBut_of_sameBut hp3 (by decide) (by decide) (by decide)
  have hparts := ((hp.mono (m := [.cvp, .regs, .sem, .ae, .ssp]) (by decide)).and hp2).and hp3
  have hregs := (hr.trans hr2).and hr3
  have hnot {a : Nat} (ha : ∀ i, a ≠ slotHoctl i) : a ∉ (List.range 128).map slotHoctl := fun h => by
    obtain ⟨i, -, hi⟩ := List.mem_map.1 h
    exact ha i hi.symm
  have hdrive : cvpDrive ∉ (List.range 128).map slotHoctl := hnot (fun i => by simp only [cvpDrive, slotHoctl, aeHoctl]; omega)
  have hho (n : Nat) : slotHoctl n ∉ [cvpDrive] := by
    simp only [cvpDrive, slotHoctl, aeHoctl, List.mem_singleton]
    omega
  have hctl (n : Nat) : slotCtl n ∉ [cvpDrive] := by
    simp only [cvpDrive, slotCtl, aeSlotctl, List.mem_singleton]
    omega
  have hk := keepsPort_safeSync w
  obtain ⟨hall, hsame, hsig, hg'⟩ := safeSync_result hregs hparts (hparts .sig (by decide)) (by decide) (by decide)
  have hsafe (n : Nat) : slotHoctl n ∉ safeRegs := notMem_safeRegs (.inr (by simp only [slotHoctl, aeHoctl]; omega))
  have hcvp : w.cvp.gnt = true := by rw [hp3 .cvp (by decide), hp2 .cvp (by decide), hgnt]
  have hsspw : w.ssp = { s.ssp with cells := w.ssp.cells } := by rw [hssp, hp2 .ssp (by decide), hp .ssp (by decide)]
  have hsspt : (safeSync w).ssp = w.ssp := hk.parts .ssp (by decide)
  have hsem : w.sem = u.sem := (hp3 .sem (by decide)).trans (hp2 .sem (by decide))
  have hcells : v.ssp = s.ssp := (hp2 .ssp (by decide)).trans (hp .ssp (by decide))
  refine ⟨hg'.trans hcvp, ?_, ?_, (hk.parts .sem (by decide)).trans (hsem.trans hf), fun n hn => ?_, fun c => ?_, ?_, ?_, hsig, hsame.mono (by decide)⟩
  · rw [hk.regs.rb_eq (notMem_safeRegs (by decide)), hr3.rb_eq (by simp), hr2.rb_eq hdrive, hg1]
  · rw [hk.regs.rb_eq (notMem_safeRegs (by decide)), hr3.rb_eq (by simp), hr2.rb_eq hdrive, hd1]
  · rw [hk.regs.rb_eq (hsafe n), hr3.rb_eq (by simp), hq n hn, hr.rb_eq (hho n), hr.rb_eq (hctl n), decide_eq_true hn, Bool.true_and,
      ownedPairs_congr hr (fun p _ => by simp only [cvpDrive, cvpPaircfg, List.mem_singleton]; omega)]
  · rw [cellOf, hsspt, ← cellOf, hcell, cellOf, hcells, ← cellOf]
  · rw [hsspt]
    exact hsspw
  · refine hall.mono (fun a ha => ?_)
    simp only [List.mem_append, List.mem_cons, List.not_mem_nil, or_false] at ha ⊢
    tauto

/-! Switch-node times (R38). -/

/-- The measurement has left the list of those outstanding. -/
def swnTaken (s : State) (m : Nat × Nat) : State := { s with cvp := { s.cvp with swn := s.cvp.swn.erase m } }

theorem swnTaken_sameBut (s : State) (m : Nat × Nat) : SameBut [.cvp] s (swnTaken s m) := cvp_sameBut s _

/-- A measurement is counted for its output (R83). -/
def swnNoted (t : State) (o : Nat) : State :=
  { t with cvp := { t.cvp with swnNo := t.cvp.swnNo + 1, swnCnt := tset 0 t.cvp.swnCnt o (t.cvp.swnNo + 1) } }

theorem swnResult_eq (s : State) (o d : Nat) :
    swnResult s o d = swnNoted (wb (wf s (cvpSwndly o) cvpSwndlyDLY d) (cvpSwndly o) cvpSwndlyVALID true) o := rfl

theorem regsBut_swnNoted (t : State) (o : Nat) : RegsBut [] t (swnNoted t o) := fun _ _ => rfl

theorem swnResult_spec (s : State) (o d : Nat) :
    RegsBut [cvpSwndly o] s (swnResult s o d) ∧ SameBut [.cvp, .regs] s (swnResult s o d) ∧
    rb (swnResult s o d) (cvpSwndly o) cvpSwndlyVALID = true ∧ rf (swnResult s o d) (cvpSwndly o) cvpSwndlyDLY = d % 2 ^ 13 ∧
    (swnResult s o d).cvp = { s.cvp with swnNo := s.cvp.swnNo + 1, swnCnt := tset 0 s.cvp.swnCnt o (s.cvp.swnNo + 1) } := by
  rw [swnResult_eq]
  have hr := (regsBut_wf s (cvpSwndly o) cvpSwndlyDLY d).and (regsBut_wb (wf s (cvpSwndly o) cvpSwndlyDLY d) (cvpSwndly o) cvpSwndlyVALID true)
  have hp := (wf_sameBut s (cvpSwndly o) cvpSwndlyDLY d).and (wb_sameBut _ (cvpSwndly o) cvpSwndlyVALID true)
  have hv := rb_wb_same (wf s (cvpSwndly o) cvpSwndlyDLY d) (cvpSwndly o) cvpSwndlyVALID true rfl
  have hd := (rf_wb_apart (wf s (cvpSwndly o) cvpSwndlyDLY d) (cvpSwndly o) (f := cvpSwndlyVALID) (g := cvpSwndlyDLY) true rfl rfl (by decide)).trans
    (rf_wf_same s (cvpSwndly o) cvpSwndlyDLY d rfl)
  generalize wb (wf s (cvpSwndly o) cvpSwndlyDLY d) (cvpSwndly o) cvpSwndlyVALID true = t at hr hp hv hd
  have hn := regsBut_swnNoted t o
  refine ⟨hr.and hn, (hp.mono (by decide)).and (cvp_sameBut t _), (hn.rb_eq (by simp) _).trans hv, (hn.rf_eq (by simp) _).trans hd, ?_⟩
  rw [← hp .cvp (by decide)]
  rfl

theorem swnNone_spec (s : State) {o : Nat} :
    RegsBut [cvpSwndly o, cvpEvsts] s (swnNone s o) ∧ SameBut [.cvp, .regs, .sem] s (swnNone s o) ∧
    rb (swnNone s o) (cvpSwndly o) cvpSwndlyVALID = true ∧ rf (swnNone s o) (cvpSwndly o) cvpSwndlyDLY = 0x1FFF ∧
    rb (swnNone s o) cvpEvsts cvpEvstsNOZVS = true ∧ Fires [0x09B] s (swnNone s o) ∧
    (swnNone s o).cvp = { s.cvp with swnNo := s.cvp.swnNo + 1, swnCnt := tset 0 s.cvp.swnCnt o (s.cvp.swnNo + 1) } := by
  obtain ⟨hr, hp, hv, hd, hc⟩ := swnResult_spec s o 0x1FFF
  unfold swnNone
  generalize swnResult s o 0x1FFF = t at hr hp hv hd hc
  have hne : cvpSwndly o ∉ [cvpEvsts] := by
    simp only [cvpSwndly, cvpEvsts, List.mem_singleton]
    omega
  have hr2 := (hr.mono (m := [cvpSwndly o, cvpEvsts]) (by simp)).and (regsBut_wb t cvpEvsts cvpEvstsNOZVS true)
  have hp2 := hp.and (wb_sameBut t cvpEvsts cvpEvstsNOZVS true)
  have hset : rb (wb t cvpEvsts cvpEvstsNOZVS true) cvpEvsts cvpEvstsNOZVS = true := rb_wb_same t _ _ _ rfl
  have hkeep := regsBut_wb t cvpEvsts cvpEvstsNOZVS true
  have hcv : (wb t cvpEvsts cvpEvstsNOZVS true).cvp = t.cvp := rfl
  generalize wb t cvpEvsts cvpEvstsNOZVS true = u at hr2 hp2 hset hkeep hcv
  have hfire := regsBut_semFire u 0x09B
  refine ⟨hr2.and hfire, (hp2.mono (by decide)).and (semFire_sameBut _ _), ?_, ?_, (hfire.rb_eq (by simp) _).trans hset,
    fires_of_semFire hr2 (fun d hd' => cvpDrive_pd (by simp [cvpSwndly, cvpEvsts]; omega) d hd') (by decide) (hp2 .sem (by decide)) (hp2 .port (by decide)),
    hcv.trans hc⟩
  · exact (hfire.rb_eq (by simp) _).trans ((hkeep.rb_eq hne _).trans hv)
  · exact (hfire.rf_eq (by simp) _).trans ((hkeep.rf_eq hne _).trans hd)

/-- The measured time is a whole number of units, rounded either way. -/
theorem swnUnits_spec (s : State) (d : Nat) : SameBut [.free] s (swnUnits s d).2 ∧ ((swnUnits s d).1 = d / 16 ∨ (swnUnits s d).1 = (d + 15) / 16) := by
  unfold swnUnits
  split
  · exact ⟨SameBut.refl _ s, .inl rfl⟩
  · refine ⟨freshBit_sameBut s, ?_⟩
    cases (freshBit s).1
    · exact .inl (Nat.add_zero _)
    · refine .inr ?_
      show d / 16 + 1 = _
      omega

theorem swnodeHigh_exec {s : State} {o : Fin 512} {fine : BitVec 7} {m : Nat × Nat} (h : swnFirst s o.val = some m) (hon : pdOn s 52 = true)
    (hrun : s.running = true) (hm : m.2 ≤ s.port * 128 + fine.toNat) : exec (.swnodeHigh o fine) s =
      .next (if s.port * 128 + fine.toNat - m.2 ≤ 16 * rf s cvpSwnwin cvpSwnwinWIN then
        swnResult (swnUnits (swnTaken s m) (s.port * 128 + fine.toNat - m.2)).2 o.val (swnUnits (swnTaken s m) (s.port * 128 + fine.toNat - m.2)).1
      else swnNone (swnTaken s m) o.val) := by
  show execSwnodeHigh o fine s = _
  unfold execSwnodeHigh
  rw [h]
  dsimp only
  rw [onlyIf, if_pos (by simp [hon, hrun, hm])]
  rfl

theorem swnodeHigh_result {s : State} {o : Fin 512} {fine : BitVec 7} {m : Nat × Nat} (h : swnFirst s o.val = some m) (hon : pdOn s 52 = true)
    (hrun : s.running = true) (hm : m.2 ≤ s.port * 128 + fine.toNat) : Runs (.swnodeHigh o fine) s (fun t =>
      (t.cvp.swn = s.cvp.swn.erase m ∧ rb t (cvpSwndly o.val) cvpSwndlyVALID = true ∧ t.cvp.swnNo = s.cvp.swnNo + 1 ∧
        tget 0 t.cvp.swnCnt o.val = s.cvp.swnNo + 1) ∧ SameBut [.cvp, .regs, .sem, .free] s t ∧
      ∃ u, (u = (s.port * 128 + fine.toNat - m.2) / 16 ∨ u = (s.port * 128 + fine.toNat - m.2 + 15) / 16) ∧
        if s.port * 128 + fine.toNat - m.2 ≤ 16 * rf s cvpSwnwin cvpSwnwinWIN then
          rf t (cvpSwndly o.val) cvpSwndlyDLY = u ∧ RegsBut [cvpSwndly o.val] s t ∧ t.sem = s.sem
        else rf t (cvpSwndly o.val) cvpSwndlyDLY = 0x1FFF ∧ rb t cvpEvsts cvpEvstsNOZVS = true ∧ Fires [0x09B] s t ∧
          RegsBut [cvpSwndly o.val, cvpEvsts] s t) := by
  refine ⟨_, swnodeHigh_exec h hon hrun hm, ?_⟩
  generalize s.port * 128 + fine.toNat - m.2 = d
  have ht := swnTaken_sameBut s m
  have htr : RegsBut [] s (swnTaken s m) := fun _ _ => rfl
  have htc : (swnTaken s m).cvp = { s.cvp with swn := s.cvp.swn.erase m } := rfl
  obtain ⟨hfree, hunits⟩ := swnUnits_spec (swnTaken s m) d
  have hfr := regsBut_of_sameBut hfree (by decide) (by decide) (by decide)
  have hfc : (swnUnits (swnTaken s m) d).2.cvp = (swnTaken s m).cvp := hfree .cvp (by decide)
  by_cases hw : d ≤ 16 * rf s cvpSwnwin cvpSwnwinWIN
  · rw [if_pos hw]
    have hwin : rf s cvpSwnwin cvpSwnwinWIN < 2 ^ 13 := Fld.get_lt cvpSwnwinWIN (rd s cvpSwnwin)
    generalize (swnUnits (swnTaken s m) d).2 = u at hfree hfr hfc
    obtain ⟨hr, hp, hv, hd, hc⟩ := swnResult_spec u o.val (swnUnits (swnTaken s m) d).1
    have hsem : (swnResult u o.val (swnUnits (swnTaken s m) d).1).sem = s.sem :=
      (hp .sem (by decide)).trans ((hfree .sem (by decide)).trans (ht .sem (by decide)))
    refine ⟨⟨?_, hv, ?_, ?_⟩, ((ht.mono (by decide)).trans (hfree.mono (by decide))).trans (hp.mono (by decide)), _, hunits, ?_⟩
    · rw [hc, hfc, htc]
    · rw [hc, hfc, htc]
    · rw [hc, hfc, htc]
      exact tget_tset_same _ _ _ _
    · rw [if_pos hw, hd]
      refine ⟨Nat.mod_eq_of_lt ?_, ((htr.and hfr).mono (by simp)).and hr, hsem⟩
      rcases hunits with h | h <;> omega
  · rw [if_neg hw]
    obtain ⟨hr, hp, hv, hd, hz, hf, hc⟩ := swnNone_spec (swnTaken s m) (o := o.val)
    refine ⟨⟨?_, hv, ?_, ?_⟩, (ht.mono (by decide)).trans (hp.mono (by decide)), d / 16, .inl rfl, ?_⟩
    · rw [hc, htc]
    · rw [hc, htc]
    · rw [hc, htc]
      exact tget_tset_same _ _ _ _
    · rw [if_neg hw]
      exact ⟨hd, hz, hf, (htr.mono (by simp)).and hr⟩

theorem swnodeWindowExpiry_result {s : State} {o : Fin 512} {m : Nat × Nat} (h : swnFirst s o.val = some m) (hon : pdOn s 52 = true)
    (hrun : s.running = true) (hm : m.2 + 16 * rf s cvpSwnwin cvpSwnwinWIN < s.port * 128 + 128) : Runs (.swnodeWindowExpiry o) s (fun t =>
      (t.cvp.swn = s.cvp.swn.erase m ∧ rb t (cvpSwndly o.val) cvpSwndlyVALID = true ∧ t.cvp.swnNo = s.cvp.swnNo + 1 ∧
        tget 0 t.cvp.swnCnt o.val = s.cvp.swnNo + 1) ∧
      (rf t (cvpSwndly o.val) cvpSwndlyDLY = 0x1FFF ∧ rb t cvpEvsts cvpEvstsNOZVS = true ∧ Fires [0x09B] s t ∧
        RegsBut [cvpSwndly o.val, cvpEvsts] s t) ∧ SameBut [.cvp, .regs, .sem] s t) := by
  have hex : exec (.swnodeWindowExpiry o) s = .next (swnNone (swnTaken s m) o.val) := by
    show execSwnodeWindowExpiry o s = _
    unfold execSwnodeWindowExpiry
    rw [h]
    dsimp only
    rw [onlyIf, if_pos (by simp [hon, hrun, hm])]
    rfl
  refine ⟨_, hex, ?_⟩
  have ht := swnTaken_sameBut s m
  have htr : RegsBut [] s (swnTaken s m) := fun _ _ => rfl
  have htc : (swnTaken s m).cvp = { s.cvp with swn := s.cvp.swn.erase m } := rfl
  obtain ⟨hr, hp, hv, hd, hz, hf, hc⟩ := swnNone_spec (swnTaken s m) (o := o.val)
  refine ⟨⟨?_, hv, ?_, ?_⟩, ⟨hd, hz, hf, (htr.mono (by simp)).and hr⟩, (ht.mono (by decide)).trans (hp.mono (by decide))⟩
  · rw [hc, htc]
  · rw [hc, htc]
  · rw [hc, htc]
    exact tget_tset_same _ _ _ _

/-- Settles O25: each report and grant is its change of the port, and then the tags or the safe pairs that follow from it. -/
theorem readback : Obligations.Readback := by
  unfold Obligations.Readback
  refine ⟨fun s k d e => ⟨fun hon hrun => ⟨fun hn hfind => appliedReport_found hon hrun hn hfind,
      fun hn hsome hwait => appliedReport_arms hon hrun hn hsome hwait, fun hn => appliedReport_retracts hon hrun hn,
      fun hn => appliedReport_enters hon hrun hn⟩, fun h => appliedReportTimeout_result h⟩,
    fun s => ⟨fun hg => ⟨fun hreq => driveGntRise_requested hg hreq, fun hreq => driveGntRise_unrequested hg hreq⟩,
      fun hg => driveGntFall_result hg⟩,
    fun s o fine m h hon hrun => ⟨fun hm => swnodeHigh_result h hon hrun hm, fun hm => swnodeWindowExpiry_result h hon hrun hm⟩⟩

end Sys2Proof.Machine

/-! The rack link's uplinks and reports, and the lanes of both links (R399, R405, R411 to R414, R421). -/

namespace Sys2Proof.Machine

set_option Elab.async false

/-! Changes of one part of the state. -/

theorem rlk_sameBut (s : State) (x : Rlk) : SameBut [.rlk] s { s with rlk := x } := by
  intro p hp; cases p <;> simp [Part.same] at hp ⊢

theorem mlk_sameBut (s : State) (x : Mlk) : SameBut [.mlk] s { s with mlk := x } := by
  intro p hp; cases p <;> simp [Part.same] at hp ⊢

theorem pne_sameBut (s : State) (x : Pne) : SameBut [.pne] s { s with pne := x } := by
  intro p hp; cases p <;> simp [Part.same] at hp ⊢

theorem jne_sameBut (s : State) (x : Jne) : SameBut [.jne] s { s with jne := x } := by
  intro p hp; cases p <;> simp [Part.same] at hp ⊢

theorem intc_sameBut (s : State) (x : Intc) : SameBut [.intc] s { s with intc := x } := by
  intro p hp; cases p <;> simp [Part.same] at hp ⊢

theorem sem_sameBut (s : State) (x : Sem) : SameBut [.sem] s { s with sem := x } := by
  intro p hp; cases p <;> simp [Part.same] at hp ⊢

theorem pdLive_of_on {s : State} {d : Nat} (h : pdOn s d = true) : pdLive s d = true := by rw [pdLive, h, Bool.true_or]

/-- A counter counts as `counted` says. -/
theorem regsAre_inc (s : State) (a : Nat) (f : Fld) : RegsAre [counted s a f] s (inc s a f) := regsAre_wf s a f _

theorem RegsAre.inc {l : List (Nat × Word)} {s t : State} {a : Nat} (h : RegsAre l s t) (ha : a ∉ l.map Prod.fst) (f : Fld) :
    RegsAre (counted s a f :: l) s (inc t a f) := by
  have hw : RegsAre (withFld s a f (satAdd (f.span - 1) (rf t a f) 1) :: l) s (Machine.inc t a f) := h.wf ha f _
  rw [h.2.rf_eq ha] at hw
  exact hw

/-! Uplink slots (R405, R411, R413, R414). -/

section
variable {s : State} {k : Fin 4} {pos : BitVec 8} {ws : List Word}

/-- The slot is one that the frame in progress has not yet brought. -/
def awaited (s : State) (k : Fin 4) (pos : BitVec 8) : Prop :=
  pdLive s 48 = true ∧ s.running = true ∧ frameOpen s k.val = true ∧ pos.toNat < ringNpos s k.val ∧
    s.rlk.seen.contains (k.val, pos.toNat) = false ∧ unitAt s k.val pos.toNat ≠ 0

/-- The slot has come. -/
def slotSeen (s : State) (k : Fin 4) (pos : BitVec 8) : State :=
  onRlk s (fun r => { r with seen := r.seen ++ [(k.val, pos.toNat)], began := k.val :: r.began })

/-- What a valid slot says of its unit. -/
def uplinkOf (u k : Nat) (ws : List Word) : Uplink :=
  ⟨u, k, (ws.getD 0 0).toNat % 2 ^ 16, (ws.getD 1 0).toNat % 2 ^ 40, (ws.getD 2 0).toNat % 2 ^ 32, (⟨36, 35⟩ : Fld).get (ws.getD 0 0),
    bitOf (ws.getD 0 0) 34, ws.getD 4 0⟩

/-- A valid slot has been taken down. -/
def slotTaken (s : State) (k : Fin 4) (pos : BitVec 8) (ws : List Word) : State :=
  onRlk (slotSeen s k pos) (fun r => { r with ups := r.ups ++ [uplinkOf (unitAt s k.val pos.toNat) k.val ws] })

theorem uplinkSlot_exec (h : awaited s k pos) (ws : List Word) : exec (.uplinkSlot k pos ws) s =
    if slotValid s k.val (unitAt s k.val pos.toNat) ws then
      ok ((slotItems (upNitem.get (ws.getD 0 0)) (ws.drop 5)).foldl (fun t i => itemEffect t (unitAt s k.val pos.toNat) i) (slotTaken s k pos ws))
    else ok (inc (wb (slotSeen s k pos) rlkSts rlkStsSLOTERR true) (rlkRcnt k.val) rlkRcntSLOTERR) := by
  obtain ⟨hlive, hrun, hopen, hpos, hseen, hu⟩ := h
  show execUplinkSlot k pos ws s = _
  unfold execUplinkSlot
  dsimp only
  rw [hlive, hrun, hopen, hseen, decide_eq_true hpos, if_neg (by decide), if_neg hu]
  rfl

theorem slotTaken_sameBut : SameBut [.rlk] s (slotTaken s k pos ws) := (rlk_sameBut s _).and (rlk_sameBut _ _)

theorem uplinkSlot_invalid (h : awaited s k pos) (hv : slotValid s k.val (unitAt s k.val pos.toNat) ws = false) :
    Runs (.uplinkSlot k pos ws) s (fun t =>
      t.rlk = { s.rlk with seen := s.rlk.seen ++ [(k.val, pos.toNat)], began := k.val :: s.rlk.began } ∧
      RegsAre [withFld s rlkSts rlkStsSLOTERR 1, counted s (rlkRcnt k.val) rlkRcntSLOTERR] s t ∧ SameBut [.rlk, .regs] s t) := by
  refine ⟨_, (uplinkSlot_exec h ws).trans (by rw [hv]; rfl), rfl, ?_,
    (((rlk_sameBut s _).mono (by decide)).and (wb_sameBut _ rlkSts rlkStsSLOTERR true)).and (inc_sameBut _ (rlkRcnt k.val) rlkRcntSLOTERR 1)⟩
  have hne : rlkRcnt k.val ∉ [rlkSts] := by
    simp only [rlkRcnt, rlkSts, List.mem_singleton]
    omega
  have hseen : RegsAre [] s (slotSeen s k pos) := regsAre_nil (fun _ _ => rfl)
  exact ((hseen.wf (a := rlkSts) List.not_mem_nil rlkStsSLOTERR 1).inc hne rlkRcntSLOTERR).of_mem (by simp [or_comm])

theorem uplinkSlot_valid (h : awaited s k pos) (hv : slotValid s k.val (unitAt s k.val pos.toNat) ws = true) :
    exec (.uplinkSlot k pos ws) s = .next ((slotItems (upNitem.get (ws.getD 0 0)) (ws.drop 5)).foldl
      (fun t i => itemEffect t (unitAt s k.val pos.toNat) i) (slotTaken s k pos ws)) := by
  rw [uplinkSlot_exec h, if_pos hv]
  rfl

theorem uplinkSlot_empty (h : awaited s k pos) (hv : slotValid s k.val (unitAt s k.val pos.toNat) ws = true)
    (hn : upNitem.get (ws.getD 0 0) = 0) : exec (.uplinkSlot k pos ws) s = .next (slotTaken s k pos ws) := by
  rw [uplinkSlot_valid h hv, hn]
  rfl

theorem drop_five {ws : List Word} (h : 7 ≤ ws.length) : ∃ r, ws.drop 5 = ws.getD 5 0 :: ws.getD 6 0 :: r := by
  obtain ⟨a, b, c, d, e, f, g, r, rfl⟩ : ∃ a b c d e f g r, ws = a :: b :: c :: d :: e :: f :: g :: r := by
    match ws, h with
    | a :: b :: c :: d :: e :: f :: g :: r, _ => exact ⟨a, b, c, d, e, f, g, r, rfl⟩
  exact ⟨r, rfl⟩

theorem uplinkSlot_item (h : awaited s k pos) (hv : slotValid s k.val (unitAt s k.val pos.toNat) ws = true)
    (hn : upNitem.get (ws.getD 0 0) = 1) (hl : 7 ≤ ws.length) :
    exec (.uplinkSlot k pos ws) s = .next (itemEffect (slotTaken s k pos ws) (unitAt s k.val pos.toNat) (ws.getD 5 0, ws.getD 6 0)) := by
  obtain ⟨r, hr⟩ := drop_five hl
  rw [uplinkSlot_valid h hv, hn, hr]
  rfl

/-- The entry of the send list that an item answers. -/
def answered (s : State) (u : Nat) (w : Word) : Option SendEnt :=
  s.rlk.send.find? (fun e => e.unit == u && e.lidx == itLidx.get w && e.tag == itTag.get w)

theorem itemEffect_report (t : State) (u : Nat) {w v : Word} (h : itOp.get w = 2) :
    itemEffect t u (w, v) = queueReport t ⟨u * 2 ^ 15 + itLidx.get w, v, b2n (itQual.get w != 0)⟩ := by
  unfold itemEffect
  rw [h]
  rfl

theorem itemEffect_echo {t : State} {u : Nat} {w v : Word} {e : SendEnt} (h : itOp.get w = 3) (he : answered t u w = some e)
    (hne : e.val ≠ v) : itemEffect t u (w, v) = t := by
  unfold itemEffect
  dsimp only
  rw [← answered, h, he]
  exact if_neg hne

theorem itemEffect_reject {t : State} {u : Nat} {w v : Word} {e : SendEnt} (h : itOp.get w = 4) (he : answered t u w = some e) :
    itemEffect t u (w, v) = wb (setSend t (t.rlk.send.erase e)) rlkSts rlkStsREJECT true := by
  unfold itemEffect
  dsimp only
  rw [← answered, h, he]
  rfl

theorem b2n_ne (n : Nat) : b2n (n != 0) = if n = 0 then 0 else 1 := by
  cases n <;> rfl

theorem queueReport_room {t : State} (hh : rlkHolds t = true) (hl : t.rlk.reps.length < 4096) (r : RlkReport) :
    queueReport t r = onRlk t (fun x => { x with reps := x.reps ++ [r] }) := by
  rw [queueReport, hh, if_neg (by decide), if_pos hl]

end

/-! Reports to the point engine (R412). -/

theorem reportHandoff_result {s : State} {r : RlkReport} {l : List RlkReport} (hlive : pdLive s 48 = true) (hrun : s.running = true)
    (hreps : s.rlk.reps = r :: l) (hsolo : s.jne.live = false) : Runs .reportHandoff s (fun t =>
      t.rlk = { s.rlk with reps := l } ∧ t.pne = { s.pne with ops := s.pne.ops ++ [⟨1, 0, 1, r.pnum, r.val, 0, r.qual, 2 * s.port⟩] } ∧
      SameBut [.rlk, .pne] s t) := by
  have hex : exec .reportHandoff s = .next (pneSubmit (onRlk s (fun x => { x with reps := l })) ⟨1, 0, 1, r.pnum, r.val, 0, r.qual, 2 * s.port⟩) := by
    show execReportHandoff s = _
    unfold execReportHandoff
    rw [hreps]
    dsimp only
    rw [hlive, hrun, hsolo]
    rfl
  exact ⟨_, hex, rfl, rfl, ((rlk_sameBut s _).mono (by decide)).and (pne_sameBut _ _)⟩

/-! Lanes (R399, R421). -/

/-- The register in which a lane's invalid headers are counted. -/
def laneCnt (l : Nat) : Nat := if l < 4 then rlkRcnt l else mlkLane (l - 4)

theorem setLaneBer_sameBut (s : State) (l : Nat) (b : Nat × Nat) : SameBut [.rlk, .mlk] s (setLaneBer s l b) := by
  unfold setLaneBer
  split
  · exact (rlk_sameBut s _).mono (by decide)
  · exact (mlk_sameBut s _).mono (by decide)

theorem regsBut_setLaneBer (s : State) (l : Nat) (b : Nat × Nat) : RegsBut [] s (setLaneBer s l b) :=
  regsBut_of_sameBut (setLaneBer_sameBut s l b) (by decide) (by decide) (by decide)

theorem laneBer_setLaneBer (s : State) (l : Nat) (b : Nat × Nat) : laneBer (setLaneBer s l b) l = b := by
  unfold laneBer setLaneBer
  split
  · exact tget_tset_same _ _ _ _
  · exact tget_tset_same _ _ _ _

theorem laneBer_congr {ps : List Part} {s t : State} (h : SameBut ps s t) (hr : .rlk ∉ ps) (hm : .mlk ∉ ps) (l : Nat) : laneBer t l = laneBer s l := by
  rw [laneBer, laneBer, h .rlk hr, h .mlk hm]

theorem laneLive_of_on {s : State} {l : Nat} (h : pdOn s (if l < 4 then 48 else 47) = true) : laneLive s l = true := by
  unfold laneLive
  split
  · next hl =>
    rw [if_pos hl] at h
    exact pdLive_of_on h
  · next hl => rwa [if_neg hl] at h

theorem laneLock_fits (l : Nat) : (laneLock l).fits = true := by unfold laneLock laneFld; split <;> rfl

theorem laneHiber_fits (l : Nat) : (laneHiber l).fits = true := by unfold laneHiber laneFld; split <;> rfl

theorem laneLost_fits (l : Nat) : (laneFld l rlkRstsLOCKLOST mlkLaneLOCKLOST).fits = true := by unfold laneFld; split <;> rfl

theorem laneHeaders_fits (l : Nat) : (laneFld l rlkRcntSHERR mlkLaneSHERR).fits = true := by unfold laneFld; split <;> rfl

theorem laneHiber_below_lock (l : Nat) : (laneHiber l).hi < (laneLock l).lo := by unfold laneHiber laneLock laneFld; split <;> decide

theorem laneLost_below_hiber (l : Nat) : (laneFld l rlkRstsLOCKLOST mlkLaneLOCKLOST).hi < (laneHiber l).lo := by
  unfold laneHiber laneFld; split <;> decide

/-- The counter of headers stands in another register than the lane's flags, or below them. -/
theorem laneCnt_apart (l : Nat) : laneCnt l ≠ laneReg l ∨ (laneFld l rlkRcntSHERR mlkLaneSHERR).hi < (laneHiber l).lo := by
  unfold laneCnt laneReg laneHiber laneFld
  split
  · exact .inl (by simp only [rlkRcnt, rlkRsts]; omega)
  · exact .inr (by decide)

theorem blockLock_result {s : State} {ln : Fin 6} (hon : pdOn s (if ln.val < 4 then 48 else 47) = true) : Runs (.blockLock ln) s (fun t =>
    RegsAre [withFld s (laneReg ln.val) (laneLock ln.val) 1] s t ∧ laneBer t ln.val = (s.port, 0) ∧ SameBut [.regs, .rlk, .mlk] s t) := by
  have hex : exec (.blockLock ln) s = .next (setLaneBer (wb s (laneReg ln.val) (laneLock ln.val) true) ln.val (s.port, 0)) := by
    show execBlockLock ln s = _
    rw [execBlockLock, onlyIf, if_pos (laneLive_of_on hon)]
  exact ⟨_, hex, (regsAre_wb s _ _ true).and (regsBut_setLaneBer _ _ _), laneBer_setLaneBer _ _ _,
    ((wb_sameBut s _ _ _).mono (by decide)).and (setLaneBer_sameBut _ _ _)⟩

theorem hiberClear_exec {s : State} {ln : Fin 6} (hon : pdOn s (if ln.val < 4 then 48 else 47) = true) :
    exec (.hiberClear ln) s = .next (berRoll s ln.val) := by
  show execHiberClear ln s = _
  rw [execHiberClear, onlyIf, if_pos (laneLive_of_on hon)]

/-- Within the monitor's window nothing changes. -/
theorem berRoll_within {s : State} {l : Nat} (h : (s.port - (laneBer s l).1) / berWindow = 0) : berRoll s l = s := by
  unfold berRoll
  dsimp only
  rw [if_pos h]

theorem berRoll_next {s : State} {l : Nat} (h : (s.port - (laneBer s l).1) / berWindow ≠ 0) : berRoll s l =
    setLaneBer (if 2 ≤ (s.port - (laneBer s l).1) / berWindow || (laneBer s l).2 < berLimit then wb s (laneReg l) (laneHiber l) false else s) l
      ((laneBer s l).1 + berWindow * ((s.port - (laneBer s l).1) / berWindow), 0) := by
  unfold berRoll
  dsimp only
  rw [if_neg h]

theorem hiberClear_falls {s : State} {ln : Fin 6} (hon : pdOn s (if ln.val < 4 then 48 else 47) = true)
    (h : 2 ≤ (s.port - (laneBer s ln.val).1) / berWindow ∨ (s.port - (laneBer s ln.val).1) / berWindow = 1 ∧ (laneBer s ln.val).2 < berLimit) :
    Runs (.hiberClear ln) s (fun t => RegsAre [withFld s (laneReg ln.val) (laneHiber ln.val) 0] s t ∧ SameBut [.regs, .rlk, .mlk] s t) := by
  refine ⟨_, hiberClear_exec hon, ?_⟩
  have hc : (decide (2 ≤ (s.port - (laneBer s ln.val).1) / berWindow) || decide ((laneBer s ln.val).2 < berLimit)) = true := by
    rcases h with h | ⟨-, h⟩ <;> simp [h]
  rw [berRoll_next (by omega), if_pos hc]
  exact ⟨(regsAre_wb s _ _ false).and (regsBut_setLaneBer _ _ _), ((wb_sameBut s _ _ _).mono (by decide)).and (setLaneBer_sameBut _ _ _)⟩

theorem hiberClear_stays {s : State} {ln : Fin 6} (hon : pdOn s (if ln.val < 4 then 48 else 47) = true)
    (h : (s.port - (laneBer s ln.val).1) / berWindow = 0 ∨ (s.port - (laneBer s ln.val).1) / berWindow = 1 ∧ berLimit ≤ (laneBer s ln.val).2) :
    Runs (.hiberClear ln) s (fun t => SameBut [.rlk, .mlk] s t) := by
  refine ⟨_, hiberClear_exec hon, ?_⟩
  rcases h with h | ⟨h1, h2⟩
  · rw [berRoll_within h]
    exact SameBut.refl _ s
  · have hc : ¬ (decide (2 ≤ (s.port - (laneBer s ln.val).1) / berWindow) || decide ((laneBer s ln.val).2 < berLimit)) = true := by
      simp [h1, Nat.not_lt.2 h2]
    rw [berRoll_next (by omega), if_neg hc]
    exact setLaneBer_sameBut _ _ _

/-- The lane's state after more invalid headers within the window. -/
def hiberCounted (s : State) (l n : Nat) : State := inc s (laneCnt l) (laneFld l rlkRcntSHERR mlkLaneSHERR) n

theorem hiberCounted_sameBut (s : State) (l n : Nat) : SameBut [.regs] s (hiberCounted s l n) := inc_sameBut s _ _ n

theorem rb_hiberCounted (s : State) (l n : Nat) : rb (hiberCounted s l n) (laneReg l) (laneLock l) = rb s (laneReg l) (laneLock l) ∧
    rb (hiberCounted s l n) (laneReg l) (laneHiber l) = rb s (laneReg l) (laneHiber l) := by
  rcases laneCnt_apart l with h | h
  · have hne : laneReg l ∉ [laneCnt l] := by simpa using h.symm
    exact ⟨(regsBut_inc s _ _ n).rb_eq hne _, (regsBut_inc s _ _ n).rb_eq hne _⟩
  · by_cases hc : laneCnt l = laneReg l
    · have hl := laneHiber_below_lock l
      have hw := laneHiber_fits l
      simp only [Fld.fits, Bool.and_eq_true, decide_eq_true_eq] at hw
      unfold hiberCounted
      rw [hc]
      exact ⟨rb_inc_apart s _ n (laneHeaders_fits l) (laneLock_fits l) (.inl (by omega)),
        rb_inc_apart s _ n (laneHeaders_fits l) (laneHiber_fits l) (.inl h)⟩
    · have hne : laneReg l ∉ [laneCnt l] := by simpa using Ne.symm hc
      exact ⟨(regsBut_inc s _ _ n).rb_eq hne _, (regsBut_inc s _ _ n).rb_eq hne _⟩

theorem hiber_exec {s : State} {ln : Fin 6} (n : BitVec 16) (hon : pdOn s (if ln.val < 4 then 48 else 47) = true)
    (hlock : rb s (laneReg ln.val) (laneLock ln.val) = true) (hw : (s.port - (laneBer s ln.val).1) / berWindow = 0) :
    exec (.hiber ln n) s = .next (if berLimit ≤ (laneBer s ln.val).2 + n.toNat then
      wb (setLaneBer (hiberCounted s ln.val n.toNat) ln.val ((laneBer s ln.val).1, (laneBer s ln.val).2 + n.toNat)) (laneReg ln.val) (laneHiber ln.val) true
      else setLaneBer (hiberCounted s ln.val n.toNat) ln.val ((laneBer s ln.val).1, (laneBer s ln.val).2 + n.toNat)) := by
  have hb : laneBer (hiberCounted s ln.val n.toNat) ln.val = laneBer s ln.val := laneBer_congr (hiberCounted_sameBut s _ _) (by decide) (by decide) _
  have hroll : berRoll (hiberCounted s ln.val n.toNat) ln.val = hiberCounted s ln.val n.toNat := by
    refine berRoll_within ?_
    rw [hb]
    exact hw
  show execHiber ln n s = _
  unfold execHiber
  dsimp only
  rw [if_pos (laneLive_of_on hon)]
  rw [show inc s (if ln.val < 4 then rlkRcnt ln.val else mlkLane (ln.val - 4)) (laneFld ln.val rlkRcntSHERR mlkLaneSHERR) n.toNat =
    hiberCounted s ln.val n.toNat from rfl, hroll, (rb_hiberCounted s ln.val n.toNat).1, hlock, hb, if_neg (by decide)]
  rfl

theorem hiber_result {s : State} {ln : Fin 6} (n : BitVec 16) (hon : pdOn s (if ln.val < 4 then 48 else 47) = true)
    (hlock : rb s (laneReg ln.val) (laneLock ln.val) = true) (hw : (s.port - (laneBer s ln.val).1) / berWindow = 0) :
    Runs (.hiber ln n) s (fun t =>
      rb t (laneReg ln.val) (laneHiber ln.val) = (rb s (laneReg ln.val) (laneHiber ln.val) || decide (berLimit ≤ (laneBer s ln.val).2 + n.toNat)) ∧
      laneBer t ln.val = ((laneBer s ln.val).1, (laneBer s ln.val).2 + n.toNat) ∧
      rf t (laneCnt ln.val) (laneFld ln.val rlkRcntSHERR mlkLaneSHERR) =
        satAdd ((laneFld ln.val rlkRcntSHERR mlkLaneSHERR).span - 1) (rf s (laneCnt ln.val) (laneFld ln.val rlkRcntSHERR mlkLaneSHERR)) n.toNat ∧
      RegsBut [laneReg ln.val, laneCnt ln.val] s t ∧ SameBut [.regs, .rlk, .mlk] s t) := by
  refine ⟨_, hiber_exec n hon hlock hw, ?_⟩
  have hp := hiberCounted_sameBut s ln.val n.toNat
  have hr : RegsBut [laneCnt ln.val] s (hiberCounted s ln.val n.toNat) := regsBut_inc s _ _ _
  have hhib := (rb_hiberCounted s ln.val n.toNat).2
  have hcnt : rf (hiberCounted s ln.val n.toNat) (laneCnt ln.val) (laneFld ln.val rlkRcntSHERR mlkLaneSHERR) = _ :=
    rf_inc_same s _ n.toNat (laneHeaders_fits ln.val)
  generalize hiberCounted s ln.val n.toNat = t at hp hr hhib hcnt
  generalize (laneBer s ln.val) = b
  have hp2 := (hp.mono (m := [.regs, .rlk, .mlk]) (by decide)).and (setLaneBer_sameBut t ln.val (b.1, b.2 + n.toNat))
  have hr2 := regsBut_setLaneBer t ln.val (b.1, b.2 + n.toNat)
  have hb2 := laneBer_setLaneBer t ln.val (b.1, b.2 + n.toNat)
  generalize setLaneBer t ln.val (b.1, b.2 + n.toNat) = u at hp2 hr2 hb2
  by_cases hl : berLimit ≤ b.2 + n.toNat
  · rw [if_pos hl, decide_eq_true hl, Bool.or_true]
    have hkeep := regsBut_wb u (laneReg ln.val) (laneHiber ln.val) true
    refine ⟨rb_wb_same u _ _ _ (laneHiber_fits _), (laneBer_congr (wb_sameBut u _ _ _) (by decide) (by decide) _).trans hb2, ?_,
      ((hr.and hr2).mono (by simp)).and hkeep, hp2.and (wb_sameBut u _ _ _)⟩
    rw [← hcnt, ← hr2.rf_eq (by simp)]
    rcases laneCnt_apart ln.val with h | h
    · exact hkeep.rf_eq (by simpa using h) _
    · by_cases hc : laneCnt ln.val = laneReg ln.val
      · rw [hc]
        exact rf_wb_apart u _ true (laneHiber_fits _) (laneHeaders_fits _) (.inr h)
      · exact hkeep.rf_eq (by simpa using hc) _
  · rw [if_neg hl, decide_eq_false hl, Bool.or_false]
    exact ⟨(hr2.rb_eq (by simp) _).trans hhib, hb2, (hr2.rf_eq (by simp) _).trans hcnt, (hr.and hr2).mono (by simp), hp2⟩

/-- The lane has lost its block lock. -/
def laneLost (s : State) (l : Nat) : State :=
  wb (wb (wb s (laneReg l) (laneLock l) false) (laneReg l) (laneHiber l) false) (laneReg l) (laneFld l rlkRstsLOCKLOST mlkLaneLOCKLOST) true

theorem laneLost_sameBut (s : State) (l : Nat) : SameBut [.regs] s (laneLost s l) :=
  ((wb_sameBut s _ _ _).and (wb_sameBut _ _ _ _)).and (wb_sameBut _ _ _ _)

theorem regsBut_laneLost (s : State) (l : Nat) : RegsBut [laneReg l] s (laneLost s l) :=
  ((regsBut_wb s _ _ _).and (regsBut_wb _ _ _ _)).and (regsBut_wb _ _ _ _)

theorem rb_laneLost (s : State) (l : Nat) : rb (laneLost s l) (laneReg l) (laneLock l) = false ∧ rb (laneLost s l) (laneReg l) (laneHiber l) = false ∧
    rb (laneLost s l) (laneReg l) (laneFld l rlkRstsLOCKLOST mlkLaneLOCKLOST) = true := by
  have h1 := laneHiber_below_lock l
  have h2 := laneLost_below_hiber l
  have hf := laneHiber_fits l
  have hf' := hf
  simp only [Fld.fits, Bool.and_eq_true, decide_eq_true_eq] at hf'
  refine ⟨?_, ?_, rb_wb_same _ _ _ _ (laneLost_fits l)⟩
  · rw [laneLost, rb_wb_apart _ _ _ _ _ (laneLost_fits l) (laneLock_fits l) (.inl (by omega)), rb_wb_apart _ _ _ _ _ hf (laneLock_fits l) (.inl h1),
      rb_wb_same _ _ _ _ (laneLock_fits l)]
  · rw [laneLost, rb_wb_apart _ _ _ _ _ (laneLost_fits l) hf (.inl h2), rb_wb_same _ _ _ _ hf]

/-- What a lost lane of the rack link, or of the mirror link, does to its link. -/
def lostFrame (t : State) (l : Nat) : State :=
  if l < 4 then (if frameOpen t l && t.rlk.began.contains l then frameBad t l else t) else wb t mlkSts mlkStsLANEERR true

theorem lockLost_exec {s : State} {ln : Fin 6} (hon : pdOn s (if ln.val < 4 then 48 else 47) = true)
    (hlock : rb s (laneReg ln.val) (laneLock ln.val) = true) : exec (.lockLost ln) s = .next (lostFrame (laneLost s ln.val) ln.val) := by
  show execLockLost ln s = _
  unfold execLockLost
  dsimp only
  rw [if_pos (by rw [laneLive_of_on hon, hlock]; rfl)]
  rfl

theorem lostFrame_spec {s : State} {l : Nat} :
    let t := lostFrame (laneLost s l) l
    rb t (laneReg l) (laneLock l) = false ∧ rb t (laneReg l) (laneHiber l) = false ∧ rb t (laneReg l) (laneFld l rlkRstsLOCKLOST mlkLaneLOCKLOST) = true ∧
    (l < 4 → frameOpen s l = true → (l ∈ s.rlk.began → l ∈ t.rlk.bad ∧ rb t (laneReg l) rlkRstsFRAMEERR = true) ∧ (l ∉ s.rlk.began → t.rlk = s.rlk)) ∧
    RegsBut (laneReg l :: if l < 4 then [] else [mlkSts]) s t ∧ SameBut [.regs, .rlk] s t := by
  obtain ⟨hlock, hhib, hlost⟩ := rb_laneLost s l
  have hr := regsBut_laneLost s l
  have hp := laneLost_sameBut s l
  have hrlk : (laneLost s l).rlk = s.rlk := hp .rlk (by decide)
  have hopen : frameOpen (laneLost s l) l = frameOpen s l := by unfold frameOpen; rw [hrlk]
  generalize laneLost s l = t at hlock hhib hlost hr hp hrlk hopen
  unfold lostFrame
  by_cases hl : l < 4
  · have hreg : laneReg l = rlkRsts l := if_pos hl
    rw [if_pos hl, if_pos hl]
    by_cases hb : (frameOpen t l && t.rlk.began.contains l) = true
    · rw [if_pos hb]
      have hkeep : RegsBut [rlkRsts l] t (frameBad t l) := regsBut_wb t _ _ _
      have hpart : SameBut [.regs, .rlk] t (frameBad t l) := ((wb_sameBut t _ _ _).mono (by decide)).and (rlk_sameBut _ _)
      have hflag (f : Fld) (hf : f.fits = true) (ha : rlkRstsFRAMEERR.hi < f.lo ∨ f.hi < rlkRstsFRAMEERR.lo) :
          rb (frameBad t l) (laneReg l) f = rb t (laneReg l) f := by
        rw [hreg]
        exact rb_wb_apart t _ _ _ true rfl hf ha
      have herr : rb (frameBad t l) (laneReg l) rlkRstsFRAMEERR = true := by
        rw [hreg]
        exact rb_wb_same t _ _ true rfl
      have hfl : laneLock l = rlkRstsLOCK ∧ laneHiber l = rlkRstsHIBER ∧ laneFld l rlkRstsLOCKLOST mlkLaneLOCKLOST = rlkRstsLOCKLOST :=
        ⟨if_pos hl, if_pos hl, if_pos hl⟩
      refine ⟨(hflag _ (laneLock_fits l) (.inl (by rw [hfl.1]; decide))).trans hlock,
        (hflag _ (laneHiber_fits l) (.inl (by rw [hfl.2.1]; decide))).trans hhib,
        (hflag _ (laneLost_fits l) (.inl (by rw [hfl.2.2]; decide))).trans hlost, fun _ _ => ⟨fun _ => ⟨List.mem_cons_self, herr⟩, fun hn => ?_⟩,
        hr.and (hreg ▸ hkeep), (hp.mono (by decide)).and hpart⟩
      rw [Bool.and_eq_true, List.contains_iff_mem, hrlk] at hb
      exact absurd hb.2 hn
    · rw [if_neg hb]
      refine ⟨hlock, hhib, hlost, fun _ ho => ⟨fun hm => absurd ?_ hb, fun _ => hrlk⟩, hr, hp.mono (by decide)⟩
      rw [hopen, ho, hrlk, Bool.true_and, List.contains_iff_mem]
      exact hm
  · have hne : laneReg l ∉ [mlkSts] := by
      rw [laneReg, if_neg hl]
      simp only [mlkLane, mlkSts, List.mem_singleton]
      omega
    rw [if_neg hl, if_neg hl]
    have hkeep := regsBut_wb t mlkSts mlkStsLANEERR true
    exact ⟨(hkeep.rb_eq hne _).trans hlock, (hkeep.rb_eq hne _).trans hhib, (hkeep.rb_eq hne _).trans hlost, fun h => absurd h hl,
      (hr.mono (by simp)).and hkeep, (hp.mono (by decide)).and ((wb_sameBut t _ _ _).mono (by decide : ∀ p ∈ [Part.regs], p ∈ [Part.regs, .rlk]))⟩

theorem laneCnt_eq (l : Nat) : (if l < 4 then rlkRcnt l else laneReg l) = laneCnt l := by
  unfold laneCnt laneReg
  split <;> rfl

theorem rlkHolds_congr {s t : State} (h : RegsBut [] s t) (hl : t.rlk.lat = s.rlk.lat) : rlkHolds t = rlkHolds s := by
  have he : epochNow t = epochNow s := by rw [epochNow, h.rb_eq List.not_mem_nil, hl, h rlkEpoch List.not_mem_nil, epochNow]
  rw [rlkHolds, h.pdOn_eq 48 List.not_mem_nil, he, rlkHolds]

theorem rlk_slotTaken (s : State) (k : Fin 4) (pos : BitVec 8) (ws : List Word) : (slotTaken s k pos ws).rlk = { s.rlk with
    seen := s.rlk.seen ++ [(k.val, pos.toNat)], began := k.val :: s.rlk.began, ups := s.rlk.ups ++ [uplinkOf (unitAt s k.val pos.toNat) k.val ws] } :=
  rfl

section
variable {s : State} {k : Fin 4} {pos : BitVec 8} {ws : List Word} (h : awaited s k pos)
  (hv : slotValid s k.val (unitAt s k.val pos.toNat) ws = true) (hn : upNitem.get (ws.getD 0 0) = 1) (hl : 7 ≤ ws.length)
include h hv hn hl

theorem uplinkSlot_report (hop : itOp.get (ws.getD 5 0) = 2) (hh : rlkHolds s = true) (hroom : s.rlk.reps.length < 4096) :
    exec (.uplinkSlot k pos ws) s = .next (onRlk (slotTaken s k pos ws) (fun x => { x with reps := x.reps ++
      [⟨unitAt s k.val pos.toNat * 2 ^ 15 + itLidx.get (ws.getD 5 0), ws.getD 6 0, if itQual.get (ws.getD 5 0) = 0 then 0 else 1⟩] })) := by
  have hh' : rlkHolds (slotTaken s k pos ws) = true := (rlkHolds_congr (fun _ _ => rfl) rfl).trans hh
  have hroom' : (slotTaken s k pos ws).rlk.reps.length < 4096 := by rw [rlk_slotTaken]; exact hroom
  rw [uplinkSlot_item h hv hn hl, itemEffect_report _ _ hop, queueReport_room hh' hroom', b2n_ne]

theorem uplinkSlot_unechoed {e : SendEnt} (hop : itOp.get (ws.getD 5 0) = 3)
    (he : answered s (unitAt s k.val pos.toNat) (ws.getD 5 0) = some e) (hne : e.val ≠ ws.getD 6 0) :
    exec (.uplinkSlot k pos ws) s = .next (slotTaken s k pos ws) := by
  have he' : answered (slotTaken s k pos ws) (unitAt s k.val pos.toNat) (ws.getD 5 0) = some e := by
    rw [answered, rlk_slotTaken]
    exact he
  rw [uplinkSlot_item h hv hn hl, itemEffect_echo hop he' hne]

theorem uplinkSlot_rejected {e : SendEnt} (hop : itOp.get (ws.getD 5 0) = 4)
    (he : answered s (unitAt s k.val pos.toNat) (ws.getD 5 0) = some e) :
    exec (.uplinkSlot k pos ws) s = .next (wb (setSend (slotTaken s k pos ws) (s.rlk.send.erase e)) rlkSts rlkStsREJECT true) := by
  have he' : answered (slotTaken s k pos ws) (unitAt s k.val pos.toNat) (ws.getD 5 0) = some e := by
    rw [answered, rlk_slotTaken]
    exact he
  rw [uplinkSlot_item h hv hn hl, itemEffect_reject hop he', rlk_slotTaken]

end

/-- Settles O47: a slot's frame comes first, then its one item's effect; a lane's flags and its header count never share a field. -/
theorem uplinksAndLanes : Obligations.UplinksAndLanes := by
  unfold Obligations.UplinksAndLanes
  intro s k pos ws r l ln n e
  refine ⟨fun hlive hrun hopen hpos hseen hu => ?_, fun hlive hrun hreps hsolo => reportHandoff_result hlive hrun hreps hsolo,
    fun hon => ⟨blockLock_result hon, fun h => hiberClear_falls hon h, fun h => hiberClear_stays hon h,
      fun hlock hw => by rw [laneCnt_eq ln.val]; exact hiber_result n hon hlock hw, fun hlock => ⟨_, lockLost_exec hon hlock, lostFrame_spec⟩⟩⟩
  have haw : awaited s k pos := ⟨hlive, hrun, hopen, hpos, hseen, hu⟩
  have htaken := slotTaken_sameBut (s := s) (k := k) (pos := pos) (ws := ws)
  refine ⟨fun hv => uplinkSlot_invalid haw hv, fun hv => ⟨fun hn => ⟨_, uplinkSlot_empty haw hv hn, rfl, htaken⟩,
    fun hn hl => ⟨fun hop hh hroom => ⟨_, uplinkSlot_report haw hv hn hl hop hh hroom, rfl, htaken.and (rlk_sameBut _ _)⟩,
      fun hop hent hne => ⟨_, uplinkSlot_unechoed haw hv hn hl hop hent hne, rfl, htaken⟩,
      fun hop hent => ⟨_, uplinkSlot_rejected haw hv hn hl hop hent, rfl, ?_, ?_⟩⟩⟩⟩
  · exact regsAre_wf (setSend (slotTaken s k pos ws) (s.rlk.send.erase e)) rlkSts rlkStsREJECT 1
  · exact ((htaken.and (rlk_sameBut _ _)).mono (by decide)).and (wb_sameBut _ _ _ _)

end Sys2Proof.Machine

/-! Interrupt sources, their presentation and their claims (R142 to R149, R151, R153, R156, R157). -/

namespace Sys2Proof.Machine

set_option Elab.async false

/-! What a write by the access codes leaves in each field (R11). -/

/-- The field of a register that a description names. -/
def FldDesc.fld (f : FldDesc) : Fld := ⟨f.hi, f.lo⟩

/-- Fields that do not overlap. -/
abbrev FldDesc.apart (f g : FldDesc) : Prop := f.hi < g.lo ∨ g.hi < f.lo

theorem accWrite_lt {n x y : Nat} (c : Acc11) (may : Bool) (hx : x < 2 ^ n) (hy : y < 2 ^ n) : accWrite c may x y < 2 ^ n := by
  cases c <;> cases may <;> first | exact hx | exact hy | exact (Nat.sub_le _ _).trans_lt hx | exact Nat.or_lt_two_pow hx hy

/-- A field of a merged word: what the access code makes of the field before and of the field written. -/
theorem get_foldl_merge (old v : Word) (may : Bool) {l : List FldDesc} (hl : l.Pairwise FldDesc.apart) (hfit : ∀ f ∈ l, f.fld.fits = true) (w : Word)
    (hw : ∀ f ∈ l, f.fld.get w = f.fld.get old) {f : FldDesc} (hf : f ∈ l) :
    f.fld.get (l.foldl (fun w f => f.fld.put w (accWrite f.acc may (f.fld.get old) (f.fld.get v))) w) =
      accWrite f.acc may (f.fld.get old) (f.fld.get v) := by
  have hkeep : ∀ (m : List FldDesc), (∀ g ∈ m, FldDesc.apart f g ∧ g.fld.fits = true) → ∀ u : Word,
      f.fld.get (m.foldl (fun w f => f.fld.put w (accWrite f.acc may (f.fld.get old) (f.fld.get v))) u) = f.fld.get u := by
    intro m
    induction m with
    | nil => exact fun _ _ => rfl
    | cons g m ih =>
      intro hm u
      obtain ⟨hap, hg⟩ := hm g List.mem_cons_self
      rw [List.foldl_cons, ih (fun x hx => hm x (List.mem_cons_of_mem _ hx))]
      exact Fld.get_put_apart g.fld f.fld hg (hfit f hf) (Or.symm hap) _ _
  induction l generalizing w with
  | nil => exact nomatch hf
  | cons g l ih =>
    obtain ⟨hg, hl'⟩ := List.pairwise_cons.1 hl
    have hgfit := hfit g List.mem_cons_self
    rw [List.foldl_cons]
    rcases List.mem_cons.1 hf with rfl | hf'
    · rw [hkeep l (fun x hx => ⟨hg x hx, hfit x (List.mem_cons_of_mem _ hx)⟩), Fld.get_put _ hgfit]
      exact Nat.mod_eq_of_lt (accWrite_lt _ _ (Fld.get_lt _ _) (Fld.get_lt _ _))
    · refine ih hl' (fun x hx => hfit x (List.mem_cons_of_mem _ hx)) _ (fun x hx => ?_) hf'
      rw [Fld.get_put_apart _ _ hgfit (hfit x (List.mem_cons_of_mem _ hx)) (hg x hx)]
      exact hw x (List.mem_cons_of_mem _ hx)

theorem get_regMerge {d : RegDesc} (hl : d.fields.Pairwise FldDesc.apart) (hfit : ∀ f ∈ d.fields, f.fld.fits = true) (old v : Word) (may : Bool)
    {f : FldDesc} (hf : f ∈ d.fields) : f.fld.get (regMerge d old v may) = accWrite f.acc may (f.fld.get old) (f.fld.get v) :=
  get_foldl_merge old v may hl hfit old (fun _ _ => rfl) hf

/-! The register of a source (R143, R148). -/

/-- How INTC_SRC[n] is listed. -/
def srcDesc : RegDesc := (regTableIntc.find? (fun d => d.base == intcSrc 0)).getD ⟨"", 0, [], .por, .aon, 0, []⟩

theorem regFind_intcSrc (n : Fin 512) : regFind (intcSrc n.val) = some (srcDesc, [n.val]) := by
  revert n
  decide +kernel

theorem srcDesc_apart : srcDesc.fields.Pairwise FldDesc.apart := by decide +kernel

theorem srcDesc_fits : ∀ f ∈ srcDesc.fields, f.fld.fits = true := by decide +kernel

theorem srcDesc_clears (v : Word) : srcDesc.clears v = intcSrcOVF.put 0 (intcSrcOVF.get v) := rfl

/-- What a write makes of the register of a source. -/
theorem get_srcMerge (old v : Word) : (∀ f ∈ [intcSrcLVL, intcSrcPRIO, intcSrcTGT], f.get (regMerge srcDesc old v true) = f.get v) ∧
    intcSrcOVF.get (regMerge srcDesc old v true) = intcSrcOVF.get old - (intcSrcOVF.get old &&& intcSrcOVF.get v) ∧
    intcSrcCNT.get (regMerge srcDesc old v true) = intcSrcCNT.get old := by
  have h {f : FldDesc} (hf : f ∈ srcDesc.fields) := get_regMerge srcDesc_apart srcDesc_fits old v true hf
  refine ⟨fun f hf => ?_, h (f := ⟨41, 41, .w1c, .val 0x0⟩) (by decide +kernel), h (f := ⟨39, 32, .ro, .val 0x0⟩) (by decide +kernel)⟩
  simp only [List.mem_cons, List.not_mem_nil, or_false] at hf
  rcases hf with rfl | rfl | rfl
  · exact h (f := ⟨29, 29, .rwt, .escLvl⟩) (by decide +kernel)
  · exact h (f := ⟨27, 24, .rwt, .escPrio⟩) (by decide +kernel)
  · exact h (f := ⟨9, 0, .rwt, .escTgt⟩) (by decide +kernel)

theorem get_ovf (v : Word) : intcSrcOVF.get v = b2n (v.getLsbD 41) := by
  have h : v.getLsbD 41 = v.toNat.testBit 41 := rfl
  have hv : intcSrcOVF.get v = v.toNat >>> 41 % 2 := rfl
  rw [hv, h, Nat.testBit_eq_decide_div_mod_eq, Nat.shiftRight_eq_div_pow]
  rcases Nat.mod_two_eq_zero_or_one (v.toNat / 2 ^ 41) with h0 | h0 <;> rw [h0] <;> rfl

/-! Counting (R143, R144). -/

theorem srcTally_sameBut (s : State) (n e c : Nat) : SameBut [.regs] s (srcTally s n e c) := by
  unfold srcTally
  dsimp only
  split
  · exact (wf_sameBut s _ _ _).and (wb_sameBut _ _ _ _)
  · exact wf_sameBut s _ _ _

theorem regsBut_srcTally (s : State) (n e c : Nat) : RegsBut [intcSrc n] s (srcTally s n e c) := by
  unfold srcTally
  dsimp only
  split
  · exact (regsBut_wf s _ _ _).and (regsBut_wb _ _ _ _)
  · exact regsBut_wf s _ _ _

theorem rf_srcTally (s : State) (n e c : Nat) : rf (srcTally s n e c) (intcSrc n) intcSrcCNT = min 255 (rf s (intcSrc n) intcSrcCNT - c + e) := by
  have h : rf (wf s (intcSrc n) intcSrcCNT (min 255 (rf s (intcSrc n) intcSrcCNT - c + e))) (intcSrc n) intcSrcCNT =
      min 255 (rf s (intcSrc n) intcSrcCNT - c + e) :=
    (rf_wf_same s _ _ _ rfl).trans (Nat.mod_eq_of_lt (lt_of_le_of_lt (Nat.min_le_left _ _) (by decide)))
  unfold srcTally
  dsimp only
  split
  · exact (rf_wb_apart _ _ true rfl rfl (by decide)).trans h
  · exact h

theorem rb_srcTally (s : State) (n e c : Nat) : rb (srcTally s n e c) (intcSrc n) intcSrcOVF =
    (rb s (intcSrc n) intcSrcOVF || decide (255 < rf s (intcSrc n) intcSrcCNT - c + e)) := by
  have h (v : Nat) : rb (wf s (intcSrc n) intcSrcCNT v) (intcSrc n) intcSrcOVF = rb s (intcSrc n) intcSrcOVF :=
    rb_wf_apart s _ _ _ _ rfl rfl (by decide)
  unfold srcTally
  dsimp only
  split
  · next hv => rw [rb_wb_same _ _ _ _ rfl, decide_eq_true hv, Bool.or_true]
  · next hv => rw [h, decide_eq_false hv, Bool.or_false]

/-- Another flag of the register than the overrun. -/
theorem rb_srcTally_apart (s : State) (n e c : Nat) {f : Fld} (hf : f.fits = true) (h1 : intcSrcCNT.hi < f.lo ∨ f.hi < intcSrcCNT.lo)
    (h2 : intcSrcOVF.hi < f.lo ∨ f.hi < intcSrcOVF.lo) : rb (srcTally s n e c) (intcSrc n) f = rb s (intcSrc n) f := by
  unfold srcTally
  dsimp only
  split
  · exact (rb_wb_apart _ _ _ _ true rfl hf h2).trans (rb_wf_apart s _ _ _ _ rfl hf h1)
  · exact rb_wf_apart s _ _ _ _ rfl hf h1

theorem intcSourceEvent_count {s : State} {n : Fin 512} (hrun : s.running = true) (hc : srcCount n.val = true)
    (hs : s.intc.strobes.contains n.val = true) : Runs (.intcSourceEvent n) s (fun t =>
      t.intc = { s.intc with strobes := s.intc.strobes.erase n.val } ∧ rf t (intcSrc n.val) intcSrcCNT = min 255 (rf s (intcSrc n.val) intcSrcCNT + 1) ∧
      rb t (intcSrc n.val) intcSrcOVF = (rb s (intcSrc n.val) intcSrcOVF || rf s (intcSrc n.val) intcSrcCNT == 255) ∧
      RegsBut [intcSrc n.val] s t ∧ SameBut [.regs, .intc] s t) := by
  have hex : exec (.intcSourceEvent n) s = .next (srcTally { s with intc := { s.intc with strobes := s.intc.strobes.erase n.val } } n.val 1 0) := by
    show execIntcSourceEvent n s = _
    rw [execIntcSourceEvent, onlyIf, if_pos hrun, hc, if_pos rfl, srcStrobe, if_pos hs]
  refine ⟨_, hex, ?_⟩
  have hp := intc_sameBut s { s.intc with strobes := s.intc.strobes.erase n.val }
  have hr := regsBut_of_sameBut hp (by decide) (by decide) (by decide)
  have hi : ({ s with intc := { s.intc with strobes := s.intc.strobes.erase n.val } } : State).intc =
    { s.intc with strobes := s.intc.strobes.erase n.val } := rfl
  generalize ({ s with intc := { s.intc with strobes := s.intc.strobes.erase n.val } } : State) = u at hp hr hi
  have hcnt : rf u (intcSrc n.val) intcSrcCNT = rf s (intcSrc n.val) intcSrcCNT := hr.rf_eq List.not_mem_nil _
  have hlt : rf s (intcSrc n.val) intcSrcCNT < 256 := Fld.get_lt intcSrcCNT _
  refine ⟨(srcTally_sameBut u _ _ _ .intc (by decide)).trans hi, ?_, ?_, (hr.mono (by simp)).and (regsBut_srcTally u _ _ _),
    (hp.mono (by decide)).and (srcTally_sameBut u _ _ _)⟩
  · rw [rf_srcTally, hcnt]
    rfl
  · rw [rb_srcTally, hcnt, hr.rb_eq List.not_mem_nil]
    refine congrArg (rb s (intcSrc n.val) intcSrcOVF || ·) ?_
    rw [Bool.eq_iff_iff, decide_eq_true_eq, beq_iff_eq]
    omega

theorem intcSourceEvent_level {s : State} {n : Fin 512} (hrun : s.running = true) (hc : srcCount n.val = false) :
    Runs (.intcSourceEvent n) s (fun t => rb t (intcSrc n.val) intcSrcACTIVE = srcLevel s n.val ∧
      rf t (intcSrc n.val) intcSrcCNT = (if srcLevel s n.val && !rb s (intcSrc n.val) intcSrcACTIVE then
        min 255 (rf s (intcSrc n.val) intcSrcCNT + 1) else rf s (intcSrc n.val) intcSrcCNT) ∧
      RegsBut [intcSrc n.val] s t ∧ SameBut [.regs] s t) := by
  have hex : exec (.intcSourceEvent n) s = .next (srcSync s n.val) := by
    show execIntcSourceEvent n s = _
    rw [execIntcSourceEvent, onlyIf, if_pos hrun, hc, if_neg Bool.false_ne_true]
  refine ⟨_, hex, ?_⟩
  unfold srcSync
  dsimp only
  have hr := regsBut_wb s (intcSrc n.val) intcSrcACTIVE (srcLevel s n.val)
  have hp := wb_sameBut s (intcSrc n.val) intcSrcACTIVE (srcLevel s n.val)
  have ha := rb_wb_same s (intcSrc n.val) intcSrcACTIVE (srcLevel s n.val) rfl
  have hcnt := rf_wb_apart s (intcSrc n.val) (f := intcSrcACTIVE) (g := intcSrcCNT) (srcLevel s n.val) rfl rfl (by decide)
  generalize wb s (intcSrc n.val) intcSrcACTIVE (srcLevel s n.val) = u at hr hp ha hcnt
  split
  · refine ⟨(rb_srcTally_apart u _ _ _ rfl (by decide) (by decide)).trans ha, ?_, hr.and (regsBut_srcTally u _ _ _), hp.and (srcTally_sameBut u _ _ _)⟩
    rw [rf_srcTally, hcnt]
    rfl
  · exact ⟨ha, hcnt, hr, hp⟩

theorem holdoffExpiry_result {s : State} {h : Fin 32} (hrun : s.running = true) (he : tget 0 s.intc.holdEnd h.val ≠ 0)
    (hle : tget 0 s.intc.holdEnd h.val ≤ 2 * s.port) : Runs (.holdoffExpiry h) s (fun t =>
      tget 0 t.intc.holdEnd h.val = 0 ∧ (∀ j, j ≠ h.val → tget 0 t.intc.holdEnd j = tget 0 s.intc.holdEnd j) ∧ SameBut [.intc] s t) := by
  have hex : exec (.holdoffExpiry h) s = .next { s with intc := { s.intc with holdEnd := tset 0 s.intc.holdEnd h.val 0 } } := by
    show execHoldoffExpiry h s = _
    unfold execHoldoffExpiry
    dsimp only
    rw [onlyIf, if_pos (by simp [hrun, he, hle])]
  exact ⟨_, hex, tget_tset_same _ _ _ _, fun j hj => tget_tset_other _ _ _ _ hj, intc_sameBut s _⟩

/-! Selection (R149, R156). -/

theorem selView_still {s : State} (h : ∀ o ∈ s.intc.late, o.cyc + 1 < s.port) : selView s = s := by
  unfold selView
  rw [List.filter_eq_nil_iff.2 (fun o ho => by have := h o ho; simp; omega)]
  rfl

/-- One step of the selection: a source that is accepted stands against the best so far. -/
def selStep (v : State) (k : Nat) (b : Option Nat) (n : Nat) : Option Nat :=
  if accepts v k n then
    match b with
    | none => some n
    | some m => if selRank v m < selRank v n then some n else b
  else b

/-- The first of the accepted sources of highest rank among the first n. -/
def Selected (v : State) (k n : Nat) (b : Option Nat) : Prop :=
  (b = none → ∀ j < n, accepts v k j = false) ∧
  ∀ m, b = some m → m < n ∧ accepts v k m = true ∧ ∀ j < n, accepts v k j = true → selRank v j < selRank v m ∨ selRank v j = selRank v m ∧ m ≤ j

theorem Selected.step {v : State} {k n : Nat} {b : Option Nat} (h : Selected v k n b) : Selected v k (n + 1) (selStep v k b n) := by
  obtain ⟨hnone, hsome⟩ := h
  unfold selStep
  by_cases ha : accepts v k n = true
  · rw [if_pos ha]
    cases b with
    | none =>
      refine ⟨fun hc => (nomatch hc), fun m hm => ?_⟩
      obtain rfl := Option.some.inj hm
      refine ⟨Nat.lt_succ_self _, ha, fun j hj haj => ?_⟩
      by_cases hjn : j = n
      · exact .inr ⟨by rw [hjn], by omega⟩
      · rw [hnone rfl j (by omega)] at haj
        exact nomatch haj
    | some b =>
      obtain ⟨hbn, hab, hbest⟩ := hsome b rfl
      dsimp only
      split
      · next hlt =>
        refine ⟨fun hc => (nomatch hc), fun m hm => ?_⟩
        obtain rfl := Option.some.inj hm
        refine ⟨Nat.lt_succ_self _, ha, fun j hj haj => ?_⟩
        by_cases hjn : j = n
        · exact .inr ⟨by rw [hjn], by omega⟩
        · rcases hbest j (by omega) haj with h1 | ⟨h1, -⟩ <;> exact .inl (by omega)
      · next hge =>
        refine ⟨fun hc => (nomatch hc), fun m hm => ?_⟩
        obtain rfl := Option.some.inj hm
        refine ⟨by omega, hab, fun j hj haj => ?_⟩
        by_cases hjn : j = n
        · subst hjn
          rcases Nat.lt_or_eq_of_le (Nat.not_lt.1 hge) with h1 | h1
          · exact .inl h1
          · exact .inr ⟨h1, by omega⟩
        · exact hbest j (by omega) haj
  · rw [if_neg ha]
    have hoff : accepts v k n = false := by simpa using ha
    refine ⟨fun hb j hj => ?_, fun m hm => ?_⟩
    · by_cases hjn : j = n
      · rw [hjn, hoff]
      · exact hnone hb j (by omega)
    · obtain ⟨hmn, ham, hbest⟩ := hsome m hm
      refine ⟨by omega, ham, fun j hj haj => ?_⟩
      by_cases hjn : j = n
      · rw [hjn, hoff] at haj
        exact nomatch haj
      · exact hbest j (by omega) haj

theorem selectFor_selected (v : State) (k : Nat) : Selected v k 512 (selectFor v k) := by
  have h (n : Nat) : Selected v k n ((List.range n).foldl (selStep v k) none) := by
    induction n with
    | zero => exact ⟨fun _ j hj => absurd hj (by omega), fun m hm => (nomatch hm)⟩
    | succ n ih =>
      rw [List.range_succ, List.foldl_append]
      exact ih.step
  exact h 512

theorem intcSelect_exec (k : Fin 10) (s : State) : exec (.intcSelect k) s =
    match (if mayPresent s k.val then selectFor (selView s) k.val else none) with
    | none => .next { s with free := (selView s).free }
    | some n => .next (present { s with free := (selView s).free } k.val n (srcCl (selView s) n)) := rfl

theorem free_sameBut (s : State) (n : Nat) : SameBut [.free] s { s with free := n } := by
  intro p hp; cases p <;> simp [Part.same] at hp ⊢

theorem intcSelect_none {s : State} {k : Fin 10} (h : mayPresent s k.val = false ∨ ∀ j < 512, accepts (selView s) k.val j = false) :
    Runs (.intcSelect k) s (fun t => SameBut [.free] s t) := by
  have hnone : (if mayPresent s k.val then selectFor (selView s) k.val else none) = none := by
    rcases h with h | h
    · rw [h]
      rfl
    · split
      · cases hs : selectFor (selView s) k.val with
        | none => rfl
        | some m =>
          obtain ⟨hm, ha, -⟩ := (selectFor_selected (selView s) k.val).2 m hs
          rw [h m hm] at ha
          exact nomatch ha
      · rfl
  refine ⟨{ s with free := (selView s).free }, ?_, free_sameBut s _⟩
  rw [intcSelect_exec, hnone]

theorem present_sameBut (s : State) (k n : Nat) (cl : Bool) : SameBut [.regs, .intc] s (present s k n cl) :=
  (((wf_sameBut s _ _ _).and (wb_sameBut _ _ _ _)).mono (by decide)).and (intc_sameBut _ _)

theorem regsBut_present (s : State) (k n : Nat) (cl : Bool) : RegsBut [intcCorests k] s (present s k n cl) :=
  (regsBut_wf s (intcCorests k) intcCorestsPRES n).and (regsBut_wb (wf s (intcCorests k) intcCorestsPRES n) (intcCorests k) intcCorestsPVALID true)

theorem intc_present (s : State) (k n : Nat) (cl : Bool) : (present s k n cl).intc = { s.intc with
    offered := s.intc.offered ++ [k], shown := tset 0 s.intc.shown k (b2n cl), spared := tset 0 s.intc.spared k 0 } := rfl

theorem rf_present (s : State) {k n : Nat} (hn : n < 512) (cl : Bool) : rf (present s k n cl) (intcCorests k) intcCorestsPRES = n ∧
    rb (present s k n cl) (intcCorests k) intcCorestsPVALID = true := by
  have h1 : rf (wb (wf s (intcCorests k) intcCorestsPRES n) (intcCorests k) intcCorestsPVALID true) (intcCorests k) intcCorestsPRES = n :=
    (rf_wb_apart _ _ true rfl rfl (by decide)).trans ((rf_wf_same s _ _ _ rfl).trans (Nat.mod_eq_of_lt hn))
  exact ⟨h1, rb_wb_same (wf s (intcCorests k) intcCorestsPRES n) (intcCorests k) intcCorestsPVALID true rfl⟩

theorem intcSelect_some {s : State} {k : Fin 10} {n : Fin 512} (hmay : mayPresent s k.val = true) (ha : accepts (selView s) k.val n.val = true) :
    Runs (.intcSelect k) s (fun t => ∃ m < 512, accepts (selView s) k.val m = true ∧
      (∀ j < 512, accepts (selView s) k.val j = true → selRank (selView s) j < selRank (selView s) m ∨
        (selRank (selView s) j = selRank (selView s) m ∧ m ≤ j)) ∧
      rf t (intcCorests k.val) intcCorestsPRES = m ∧ rb t (intcCorests k.val) intcCorestsPVALID = true ∧
      t.intc = { s.intc with
        offered := s.intc.offered ++ [k.val], shown := tset 0 s.intc.shown k.val (b2n (srcCl (selView s) m)),
        spared := tset 0 s.intc.spared k.val 0 } ∧ RegsBut [intcCorests k.val] s t ∧ SameBut [.regs, .intc, .free] s t) := by
  obtain ⟨hnone, hsome⟩ := selectFor_selected (selView s) k.val
  cases hs : selectFor (selView s) k.val with
  | none =>
    rw [hnone hs n.val n.isLt] at ha
    exact nomatch ha
  | some m =>
    obtain ⟨hm, ham, hbest⟩ := hsome m hs
    have hex : exec (.intcSelect k) s = .next (present { s with free := (selView s).free } k.val m (srcCl (selView s) m)) := by
      rw [intcSelect_exec, hmay, if_pos rfl, hs]
    refine ⟨_, hex, m, hm, ham, hbest, ?_⟩
    have hfree := free_sameBut s (selView s).free
    generalize srcCl (selView s) m = cl
    have hi : ({ s with free := (selView s).free } : State).intc = s.intc := rfl
    have hr : RegsBut [] s { s with free := (selView s).free } := fun _ _ => rfl
    generalize ({ s with free := (selView s).free } : State) = u at hfree hi hr
    obtain ⟨hpres, hval⟩ := rf_present u (k := k.val) hm cl
    exact ⟨hpres, hval, by rw [intc_present, hi], (hr.mono (by simp)).and (regsBut_present u _ _ _), (hfree.mono (by decide)).and (present_sameBut u _ _ _)⟩

/-! Writes of a source's settings and of PHOLD (R147, R148, R156, R157). -/

/-- What the write of a source's settings leaves before presentations are looked at. -/
def srcPut (s : State) (n : Nat) (v : Word) : State :=
  clearTo s (intcSrc n) (setsAt s (intcSrc n) (srcDesc.clears v)) (regMerge srcDesc (rd s (intcSrc n)) v true)

/-- The write is remembered, since selection may still see the settings before it. -/
def srcNoted (s t : State) (n : Nat) : State :=
  { t with intc := { t.intc with late := (t.intc.late.filter (fun o => s.port ≤ o.cyc + 1)) ++ [⟨n, s.port, rd s (intcSrc n)⟩] } }

/-- What the write does to the presentation of one core. -/
def srcMeets (s : State) (n : Nat) (u : State) (k : Nat) : State :=
  let w := if presented u n k && ((srcPrio u n == 0 && srcPrio s n != 0) || ((srcTgt s n).testBit k && !(srcTgt u n).testBit k)) then
    mayWithdraw u k else u
  if srcPrio u n == 0 && rf u (intcCorests k) intcCorestsPRES == n then spare w k (srcPrio s n) else w

theorem intcSrcWrite_exec {s : State} {q : Req} {n : Fin 512} (hq : holdsType s q 5 = true) (hn : n.val ≠ 447) (v : Word) :
    exec (.intcSrcWrite q n v) s = .next (respond ((List.range 10).foldl (srcMeets s n.val) (srcNoted s (srcPut s n.val v) n.val)) 0) := by
  have hput : regPut s (intcSrc n.val) true v = srcPut s n.val v := by
    rw [regPut_eq (regFind_intcSrc n)]
    rfl
  show ok (srcWrite s q n.val v) = _
  unfold srcWrite
  dsimp only
  rw [if_neg hn, hq, hput]
  rfl

theorem spare_sameBut (s : State) (k p : Nat) : SameBut [.intc] s (spare s k p) := by
  unfold spare
  split
  · exact intc_sameBut s _
  · exact SameBut.refl _ s

theorem mayWithdraw_sameBut (s : State) (k : Nat) : SameBut [.regs, .intc, .free] s (mayWithdraw s k) := by
  have hfree : SameBut [.regs, .intc, .free] s (freshBit s).2 := (freshBit_sameBut s).mono (by decide)
  unfold mayWithdraw
  dsimp only
  split
  · exact hfree.trans ((withdrawal_sameBut _ k).mono (by decide))
  · exact hfree

theorem regsBut_mayWithdraw (s : State) (k : Nat) : RegsBut [intcCorests k] s (mayWithdraw s k) := by
  have hfree : RegsBut [intcCorests k] s (freshBit s).2 := (regsBut_freshBit s).mono (by simp)
  unfold mayWithdraw
  dsimp only
  split
  · exact hfree.and (regsBut_withdrawal _ k)
  · exact hfree

theorem regsBut_spare (s : State) (k p : Nat) : RegsBut [] s (spare s k p) :=
  regsBut_of_sameBut (spare_sameBut s k p) (by decide) (by decide) (by decide)

theorem srcMeets_sameBut (s : State) (n : Nat) (u : State) (k : Nat) : SameBut [.regs, .intc, .free] u (srcMeets s n u k) := by
  have hw (c : Bool) : SameBut [.regs, .intc, .free] u (if c then mayWithdraw u k else u) := by
    cases c
    · exact SameBut.refl _ u
    · exact mayWithdraw_sameBut u k
  unfold srcMeets
  dsimp only
  split
  · exact (hw _).and (spare_sameBut _ _ _)
  · exact hw _

theorem regsBut_srcMeets (s : State) (n : Nat) (u : State) (k : Nat) : RegsBut [intcCorests k] u (srcMeets s n u k) := by
  have hw (c : Bool) : RegsBut [intcCorests k] u (if c then mayWithdraw u k else u) := by
    cases c
    · exact RegsBut.refl _ u
    · exact regsBut_mayWithdraw u k
  unfold srcMeets
  dsimp only
  split
  · exact (hw _).and (regsBut_spare _ _ _)
  · exact hw _

theorem srcPut_sameBut (s : State) (n : Nat) (v : Word) : SameBut [.regs, .free] s (srcPut s n v) := clearTo_sameBut s _ _ _

theorem regsBut_srcPut (s : State) (n : Nat) (v : Word) : RegsBut [intcSrc n] s (srcPut s n v) := regsBut_clearTo s _ _ _

theorem srcNoted_sameBut (s t : State) (n : Nat) : SameBut [.intc] t (srcNoted s t n) := intc_sameBut t _

theorem regsBut_srcNoted (s t : State) (n : Nat) : RegsBut [] t (srcNoted s t n) := fun _ _ => rfl

/-- Whatever the write meets, only the source's and the cores' registers change. -/
theorem intcSrcWrite_frame {s : State} {q : Req} {n : Fin 512} (hq : holdsType s q 5 = true) (hn : n.val ≠ 447) (v : Word) :
    Runs (.intcSrcWrite q n v) s (fun t => t.resp = ⟨0, 0⟩ ∧
      RegsBut (intcSrc n.val :: (List.range 10).map intcCorests) s t ∧ SameBut [.regs, .intc, .resp, .free] s t) := by
  refine ⟨_, intcSrcWrite_exec hq hn v, rfl, ?_, ?_⟩
  · have hr : RegsBut (intcSrc n.val :: (List.range 10).map intcCorests) s (srcNoted s (srcPut s n.val v) n.val) :=
      ((regsBut_srcPut s n.val v).and (regsBut_srcNoted s _ _)).mono (by simp)
    refine (List.foldlRecOn (List.range 10) (srcMeets s n.val) hr (fun u hu k hk =>
      hu.and (regsBut_srcMeets s n.val u k) (fun a ha => ?_))).and (regsBut_respond _ _ _)
    rw [List.mem_singleton.1 ha]
    exact List.mem_cons_of_mem _ (List.mem_map_of_mem hk)
  · have hp : SameBut [.regs, .intc, .resp, .free] s (srcNoted s (srcPut s n.val v) n.val) :=
      ((srcPut_sameBut s n.val v).mono (by decide)).and (srcNoted_sameBut s _ _)
    exact (List.foldlRecOn (List.range 10) (srcMeets s n.val) hp (fun u hu k _ => hu.and (srcMeets_sameBut s n.val u k))).and (respond_sameBut _ _ _)

/-- Where no presentation of the source is outstanding, only what a claim may return after the write is noted. -/
def SrcQuiet (u t : State) : Prop := SameBut [.intc] u t ∧ t.intc = { u.intc with spared := t.intc.spared }

theorem SrcQuiet.meets {s u t : State} {n k : Nat} (h : SrcQuiet u t) (hq : presented u n k = false) : SrcQuiet u (srcMeets s n t k) := by
  obtain ⟨hp, hi⟩ := h
  have hr := regsBut_of_sameBut hp (by decide) (by decide) (by decide)
  have hpr : presented t n k = false := by
    have ho : t.intc.offered = u.intc.offered := by rw [hi]
    rw [presented, ho, hr.rf_eq List.not_mem_nil]
    exact hq
  have hw : srcMeets s n t k = t ∨ srcMeets s n t k = spare t k (srcPrio s n) := by
    unfold srcMeets
    dsimp only
    rw [hpr, Bool.false_and, if_neg Bool.false_ne_true]
    split
    · exact .inr rfl
    · exact .inl rfl
  rcases hw with hw | hw <;> rw [hw]
  · exact ⟨hp, hi⟩
  · refine ⟨hp.and (spare_sameBut t _ _), ?_⟩
    unfold spare
    split
    · exact congrArg (fun i : Intc => { i with spared := tset 0 t.intc.spared k (srcPrio s n) }) hi
    · exact hi

theorem setsAt_none {s : State} {a : Nat} : setsAt s a 0 = [] := by
  unfold setsAt
  exact List.filter_eq_nil_iff.2 (fun x _ => by simp)

/-- A write that clears nothing the hardware has just set stores the merged word. -/
theorem srcPut_still {s : State} {n : Nat} {v : Word} (h : v.getLsbD 41 = false ∨ setsAt s (intcSrc n) (intcSrcOVF.put 0 1) = []) :
    srcPut s n v = wr s (intcSrc n) (regMerge srcDesc (rd s (intcSrc n)) v true) := by
  have hsets : setsAt s (intcSrc n) (srcDesc.clears v) = [] := by
    rw [srcDesc_clears, get_ovf]
    cases hv : v.getLsbD 41 with
    | false => exact setsAt_none
    | true =>
      rw [hv] at h
      rcases h with h | h
      · exact nomatch h
      · exact h
  rw [srcPut, hsets]
  rfl

theorem b2n_sub_and (a b : Bool) : b2n a - (b2n a &&& b2n b) = b2n (a && !b) := by cases a <;> cases b <;> rfl

theorem rb_eq_of_get {s : State} {a : Nat} {f : Fld} {b : Bool} (h : f.get (rd s a) = b2n b) : rb s a f = b := by
  show (f.get (rd s a) != 0) = b
  rw [h]
  cases b <;> rfl

theorem intcSrcWrite_quiet {s : State} {q : Req} {n : Fin 512} (hq : holdsType s q 5 = true) (hn : n.val ≠ 447)
    (hquiet : ∀ k < 10, presented s n.val k = false) {v : Word}
    (hv : v.getLsbD 41 = false ∨ setsAt s (intcSrc n.val) (intcSrcOVF.put 0 1) = []) :
    Runs (.intcSrcWrite q n v) s (fun t => t.resp = ⟨0, 0⟩ ∧ (∀ f ∈ [intcSrcLVL, intcSrcPRIO, intcSrcTGT], rf t (intcSrc n.val) f = f.get v) ∧
      rb t (intcSrc n.val) intcSrcOVF = (rb s (intcSrc n.val) intcSrcOVF && !v.getLsbD 41) ∧
      rf t (intcSrc n.val) intcSrcCNT = rf s (intcSrc n.val) intcSrcCNT ∧ ⟨n.val, s.port, rd s (intcSrc n.val)⟩ ∈ t.intc.late ∧
      t.intc = { s.intc with late := t.intc.late, spared := t.intc.spared } ∧ RegsBut [intcSrc n.val] s t ∧ SameBut [.regs, .intc, .resp] s t) := by
  have hex := intcSrcWrite_exec hq hn v
  rw [srcPut_still hv] at hex
  refine ⟨_, hex, rfl, ?_⟩
  obtain ⟨hset, hovf, hcnt⟩ := get_srcMerge (rd s (intcSrc n.val)) v
  generalize regMerge srcDesc (rd s (intcSrc n.val)) v true = w at hset hovf hcnt
  have h0 := wr_sameBut s (intcSrc n.val) w
  have hr0 := regsBut_wr s (intcSrc n.val) w
  have hrd := rd_wr_same s (intcSrc n.val) w
  have hi0 : (wr s (intcSrc n.val) w).intc = s.intc := rfl
  generalize wr s (intcSrc n.val) w = u at h0 hr0 hrd hi0
  have h1 := srcNoted_sameBut s u n.val
  have hr1 := regsBut_srcNoted s u n.val
  have hi1 : (srcNoted s u n.val).intc =
      { s.intc with late := s.intc.late.filter (fun o => s.port ≤ o.cyc + 1) ++ [⟨n.val, s.port, rd s (intcSrc n.val)⟩] } := by
    rw [← hi0]
    rfl
  generalize srcNoted s u n.val = x at h1 hr1 hi1
  have hxq : ∀ k < 10, presented x n.val k = false := fun k hk => by
    have hne : intcCorests k ∉ [intcSrc n.val] := by
      simp only [intcCorests, intcSrc, List.mem_singleton]
      omega
    rw [presented, hi1, hr1.rf_eq List.not_mem_nil, hr0.rf_eq hne]
    exact hquiet k hk
  obtain ⟨h2, hi2⟩ : SrcQuiet x ((List.range 10).foldl (srcMeets s n.val) x) :=
    List.foldlRecOn (List.range 10) (srcMeets s n.val) ⟨SameBut.refl _ x, rfl⟩ (fun t ht k hk => ht.meets (hxq k (List.mem_range.1 hk)))
  generalize (List.range 10).foldl (srcMeets s n.val) x = t at h2 hi2
  have hr2 := regsBut_of_sameBut h2 (by decide) (by decide) (by decide)
  have hrdt : rd (respond t 0) (intcSrc n.val) = w := by
    rw [rd_respond, hr2 _ List.not_mem_nil, hr1 _ List.not_mem_nil, hrd]
  have hit : (respond t 0).intc = t.intc := rfl
  have hold : rb s (intcSrc n.val) intcSrcOVF = (rd s (intcSrc n.val)).getLsbD 41 := rb_eq_of_get (get_ovf _)
  refine ⟨fun f hf => ?_, rb_eq_of_get ?_, ?_, ?_, ?_, (hr0.and (hr1.and hr2)).and (regsBut_respond _ _ _), ?_⟩
  · rw [rf, hrdt]
    exact hset f hf
  · rw [hrdt, hovf, get_ovf, get_ovf, b2n_sub_and, hold]
  · rw [rf, hrdt, hcnt, rf]
  · rw [hit, hi2, hi1]
    simp
  · rw [hit, hi2, hi1]
  · exact (((h0.mono (by decide)).and h1).and h2).and (respond_sameBut _ _ _)

/-- What a rise of PHOLD does to the presentation of one core. -/
def pholdHides (u : State) (k : Nat) : State :=
  let n := rf u (intcCorests k) intcCorestsPRES
  if u.intc.offered.contains k && !srcMsg n && !srcCl u n then mayWithdraw u k else u

theorem pholdHides_none {u : State} (h : u.intc.offered = []) (k : Nat) : pholdHides u k = u := by
  unfold pholdHides
  rw [h]
  rfl

theorem intcPholdWrite_result {s : State} {q : Req} (hq : holdsType s q 5 = true) {b : Bool}
    (h : s.intc.offered = [] ∨ b = false ∨ rb s intcCtrl intcCtrlPHOLD = true) : Runs (.intcPholdWrite q b) s (fun t =>
      t.resp = ⟨0, 0⟩ ∧ RegsAre [withFld s intcCtrl intcCtrlPHOLD (b2n b)] s t ∧ SameBut [.regs, .resp] s t) := by
  have hhide : (if b && !rb s intcCtrl intcCtrlPHOLD then (List.range 10).foldl pholdHides (wb s intcCtrl intcCtrlPHOLD b)
      else wb s intcCtrl intcCtrlPHOLD b) = wb s intcCtrl intcCtrlPHOLD b := by
    split
    · next hc =>
      refine foldl_fixed _ (fun k _ => pholdHides_none ?_ k)
      rcases h with h | h | h
      · exact h
      · rw [h] at hc
        exact nomatch hc
      · rw [h, Bool.not_true, Bool.and_false] at hc
        exact nomatch hc
    · rfl
  have hex : exec (.intcPholdWrite q b) s = .next (respond (wb s intcCtrl intcCtrlPHOLD b) 0) := by
    show ok (pholdWrite s q b) = _
    unfold pholdWrite
    rw [hq, if_neg (by decide)]
    exact congrArg (fun x => ok (respond x 0)) hhide
  exact ⟨_, hex, rfl, (regsAre_wb s _ _ b).and (regsBut_respond _ _ _), ((wb_sameBut s _ _ _).mono (by decide)).and (respond_sameBut _ _ _)⟩

/-! Claims and messages (R144, R146, R151, R153). -/

/-- The source is in service to the core, and one of its events is taken. -/
def claimed (s : State) (k n : Nat) : State :=
  srcTally (wf (wb s (intcSrc n) intcSrcINSVC true) (intcSrc n) intcSrcSVCCORE k) n 0 1

theorem claimed_spec (s : State) {k n : Nat} (hk : k < 10) : RegsBut [intcSrc n] s (claimed s k n) ∧ SameBut [.regs] s (claimed s k n) ∧
    inService (claimed s k n) n k = true ∧ rf (claimed s k n) (intcSrc n) intcSrcCNT = rf s (intcSrc n) intcSrcCNT - 1 := by
  have hr := (regsBut_wb s (intcSrc n) intcSrcINSVC true).and (regsBut_wf (wb s (intcSrc n) intcSrcINSVC true) (intcSrc n) intcSrcSVCCORE k)
  have hp := (wb_sameBut s (intcSrc n) intcSrcINSVC true).and (wf_sameBut _ (intcSrc n) intcSrcSVCCORE k)
  have hsvc : rb (wf (wb s (intcSrc n) intcSrcINSVC true) (intcSrc n) intcSrcSVCCORE k) (intcSrc n) intcSrcINSVC = true :=
    (rb_wf_apart _ _ _ _ _ rfl rfl (by decide)).trans (rb_wb_same s _ _ _ rfl)
  have hcore : rf (wf (wb s (intcSrc n) intcSrcINSVC true) (intcSrc n) intcSrcSVCCORE k) (intcSrc n) intcSrcSVCCORE = k :=
    (rf_wf_same _ _ _ _ rfl).trans (Nat.mod_eq_of_lt (hk.trans_le (by decide)))
  have hcnt : rf (wf (wb s (intcSrc n) intcSrcINSVC true) (intcSrc n) intcSrcSVCCORE k) (intcSrc n) intcSrcCNT = rf s (intcSrc n) intcSrcCNT :=
    (rf_wf_apart _ _ _ _ _ rfl rfl (by decide)).trans (rf_wb_apart s _ true rfl rfl (by decide))
  unfold claimed
  generalize wf (wb s (intcSrc n) intcSrcINSVC true) (intcSrc n) intcSrcSVCCORE k = u at hr hp hsvc hcore hcnt
  have hlt : rf s (intcSrc n) intcSrcCNT < 256 := Fld.get_lt intcSrcCNT _
  have hstill : srcTally u n 0 1 = wf u (intcSrc n) intcSrcCNT (min 255 (rf u (intcSrc n) intcSrcCNT - 1 + 0)) := by
    unfold srcTally
    dsimp only
    rw [if_neg (by rw [hcnt]; omega)]
  refine ⟨hr.and (regsBut_srcTally u n 0 1), hp.and (srcTally_sameBut u n 0 1), ?_, ?_⟩
  · rw [hstill, inService, rb_wf_apart _ _ _ _ _ rfl rfl (by decide), rf_wf_apart _ _ _ _ _ rfl rfl (by decide), hsvc, hcore]
    simp
  · rw [rf_srcTally, hcnt]
    omega

/-- The hold-off of a source's group starts again unless the source is presented as CL (R153). -/
def holdNext (s : State) (n : Nat) : Nat :=
  if rf s (intcGhold (n / 16)) intcGholdHOLDOFF = 0 then 0 else 2 * s.port + 60 * rf s (intcGhold (n / 16)) intcGholdHOLDOFF

/-- The claimed source's settings are latched, and the hold-off restarts. -/
def claimLatched (t : State) (n p : Nat) (cl : Bool) : State :=
  if cl then { t with intc := { t.intc with latched := tset 0 t.intc.latched n p } }
  else holdRestart { t with intc := { t.intc with latched := tset 0 t.intc.latched n p } } n

theorem claimSource_eq (s : State) (k n : Nat) : claimSource s k n =
    claimLatched (claimed s k n) n (claimPrio s k + if shownCl s k then 16 else 0) (shownCl s k) := by
  unfold claimSource claimLatched
  dsimp only
  rw [← claimed]

theorem claimLatched_spec (t : State) (n p : Nat) (cl : Bool) : SameBut [.intc] t (claimLatched t n p cl) ∧
    tget 0 (claimLatched t n p cl).intc.holdEnd (n / 16) = (if cl then tget 0 t.intc.holdEnd (n / 16) else holdNext t n) := by
  cases cl with
  | true => exact ⟨intc_sameBut t _, rfl⟩
  | false => exact ⟨(intc_sameBut t _).and (intc_sameBut _ _), tget_tset_same _ _ _ _⟩

/-- What the core's claim sees of the presented source. -/
def presSource (s : State) (k : Nat) : Nat := rf s (intcCorests k) intcCorestsPRES

theorem intcClaim_exec {s : State} {q : Req} {k : Fin 10} (hq : q.who.val = k.val) : exec (.intcClaim q k) s =
    .next (if claimable s k.val then
      respond (claimSource (wb s (intcCorests k.val) intcCorestsPVALID false) k.val (presSource s k.val)) 0
        (BitVec.ofNat 48 (claimPrio s k.val * 2 ^ 10 + presSource s k.val))
    else respond (inc (wb s (intcCorests k.val) intcCorestsPVALID false) (intcCorests k.val) intcCorestsSPUR) 0 0x200) := by
  show ok (claimRead s q.who.val k.val) = _
  unfold claimRead
  rw [if_neg (by simp [hq])]
  rfl

theorem intcClaim_takes {s : State} {q : Req} {k : Fin 10} {n : Fin 512} (hq : q.who.val = k.val) (hn : presSource s k.val = n.val)
    (hc : claimable s k.val = true) : Runs (.intcClaim q k) s (fun t => t.resp = ⟨0, BitVec.ofNat 48 (claimPrio s k.val * 2 ^ 10 + n.val)⟩ ∧
      inService t n.val k.val = true ∧ rf t (intcSrc n.val) intcSrcCNT = rf s (intcSrc n.val) intcSrcCNT - 1 ∧
      rb t (intcCorests k.val) intcCorestsPVALID = false ∧
      tget 0 t.intc.holdEnd (n.val / 16) = (if tget 0 s.intc.shown k.val = 1 then tget 0 s.intc.holdEnd (n.val / 16) else holdNext s n.val) ∧
      RegsBut [intcSrc n.val, intcCorests k.val] s t ∧ SameBut [.regs, .intc, .resp] s t) := by
  refine ⟨_, (intcClaim_exec hq).trans (congrArg ok (if_pos hc)), ?_⟩
  rw [hn]
  generalize BitVec.ofNat 48 (claimPrio s k.val * 2 ^ 10 + n.val) = w
  have hne : intcCorests k.val ∉ [intcSrc n.val] := by
    simp only [intcCorests, intcSrc, List.mem_singleton]
    omega
  have hne' : intcSrc n.val ∉ [intcCorests k.val] := by simpa using fun h => hne (by simp [h])
  have hr0 := regsBut_wb s (intcCorests k.val) intcCorestsPVALID false
  have hp0 := wb_sameBut s (intcCorests k.val) intcCorestsPVALID false
  have hval := rb_wb_same s (intcCorests k.val) intcCorestsPVALID false rfl
  generalize wb s (intcCorests k.val) intcCorestsPVALID false = u at hr0 hp0 hval
  have hshown : shownCl u k.val = shownCl s k.val := by rw [shownCl, hp0 .intc (by decide), shownCl]
  rw [claimSource_eq, hshown]
  generalize claimPrio u k.val + (if shownCl s k.val then 16 else 0) = p
  obtain ⟨hr1, hp1, hsvc, hcnt⟩ := claimed_spec u (n := n.val) k.isLt
  have hi : (claimed u k.val n.val).intc = s.intc := (hp1 .intc (by decide)).trans (hp0 .intc (by decide))
  generalize claimed u k.val n.val = v at hr1 hp1 hsvc hcnt hi
  obtain ⟨hp2, hhold⟩ := claimLatched_spec v n.val p (shownCl s k.val)
  have hr2 := regsBut_of_sameBut hp2 (by decide) (by decide) (by decide)
  generalize claimLatched v n.val p (shownCl s k.val) = x at hp2 hhold hr2
  have hall : RegsBut [intcSrc n.val, intcCorests k.val] s x := ((hr0.mono (by simp)).and hr1).and hr2
  have hx : RegsBut [] x (respond x 0 w) := regsBut_respond _ _ _
  have hgh : intcGhold (n.val / 16) ∉ [intcSrc n.val, intcCorests k.val] := by
    simp only [intcGhold, intcSrc, intcCorests, List.mem_cons, List.not_mem_nil, or_false, not_or]
    omega
  have hnext : holdNext v n.val = holdNext s n.val := by
    have hport : v.port = s.port := (hp1 .port (by decide)).trans (hp0 .port (by decide))
    have hgv : rf v (intcGhold (n.val / 16)) intcGholdHOLDOFF = rf s (intcGhold (n.val / 16)) intcGholdHOLDOFF :=
      ((hr0.mono (m := [intcSrc n.val, intcCorests k.val]) (by simp)).and hr1).rf_eq hgh _
    rw [holdNext, holdNext, hport, hgv]
  refine ⟨rfl, ?_, ?_, ?_, ?_, hall.and hx, (((hp0.and hp1).mono (by decide)).and hp2).and (respond_sameBut _ _ _)⟩
  · rw [inService, hx.rb_eq (by simp), hx.rf_eq (by simp), hr2.rb_eq (by simp), hr2.rf_eq (by simp)]
    exact hsvc
  · rw [hx.rf_eq (by simp), hr2.rf_eq (by simp), hcnt, hr0.rf_eq hne']
  · rw [hx.rb_eq (by simp), hr2.rb_eq (by simp), hr1.rb_eq hne, hval]
  · show tget 0 x.intc.holdEnd (n.val / 16) = _
    rw [hhold, hi, hnext, shownCl]
    simp only [beq_iff_eq]

theorem satAdd_eq_min (top v n : Nat) : satAdd top v n = min top (v + n) := by
  unfold satAdd
  split <;> omega

theorem intcClaim_spurious {s : State} {q : Req} {k : Fin 10} (hq : q.who.val = k.val) (hc : claimable s k.val = false) :
    Runs (.intcClaim q k) s (fun t => t.resp = ⟨0, 0x200⟩ ∧ rb t (intcCorests k.val) intcCorestsPVALID = false ∧
      rf t (intcCorests k.val) intcCorestsSPUR = min 255 (rf s (intcCorests k.val) intcCorestsSPUR + 1) ∧
      RegsBut [intcCorests k.val] s t ∧ SameBut [.regs, .resp] s t) := by
  refine ⟨_, (intcClaim_exec hq).trans (congrArg ok (if_neg (by rw [hc]; decide))), rfl, ?_⟩
  have hr0 := regsBut_wb s (intcCorests k.val) intcCorestsPVALID false
  have hp0 := wb_sameBut s (intcCorests k.val) intcCorestsPVALID false
  have hval := rb_wb_same s (intcCorests k.val) intcCorestsPVALID false rfl
  have hspur := rf_wb_apart s (intcCorests k.val) (f := intcCorestsPVALID) (g := intcCorestsSPUR) false rfl rfl (by decide)
  generalize wb s (intcCorests k.val) intcCorestsPVALID false = u at hr0 hp0 hval hspur
  have hx := regsBut_respond (inc u (intcCorests k.val) intcCorestsSPUR) 0 0x200
  refine ⟨?_, ?_, (hr0.and (regsBut_inc u _ _ 1)).and hx, ((hp0.and (inc_sameBut u _ _ 1)).mono (by decide)).and (respond_sameBut _ _ _)⟩
  · rw [hx.rb_eq (by simp), rb_inc_apart u _ 1 rfl rfl (by decide), hval]
  · rw [hx.rf_eq (by simp), rf_inc_same u _ 1 rfl, hspur, satAdd_eq_min]
    rfl

theorem intcClaim_foreign {s : State} {q : Req} {k : Fin 10} (hq : q.who.val ≠ k.val) :
    Runs (.intcClaim q k) s (fun t => t.resp = ⟨0, 0x200⟩ ∧ SameBut [.resp] s t) := by
  refine ⟨respond s 0 0x200, ?_, rfl, respond_sameBut _ _ _⟩
  show ok (claimRead s q.who.val k.val) = _
  unfold claimRead
  rw [if_pos (by simp [hq])]
  rfl

theorem intcMset_message {s : State} {n : Fin 512} (h : 448 ≤ n.val) : Runs (.intcMset n) s (fun t =>
    t.resp = ⟨0, 0⟩ ∧ t.intc = { s.intc with strobes := s.intc.strobes ++ [n.val] } ∧ SameBut [.intc, .resp] s t) := by
  refine ⟨respond (strobe s n.val) 0, ?_, rfl, rfl, ((intc_sameBut s _).mono (by decide)).and (respond_sameBut _ _ _)⟩
  show ok (msetWrite s n.val) = _
  rw [msetWrite, if_pos (by simp [srcMsg, h])]
  rfl

theorem intcMset_refused {s : State} {n : Fin 512} (h : n.val < 448) : Runs (.intcMset n) s (fun t =>
    t.resp = ⟨0, 0⟩ ∧ RegsAre [withFld s intcSts intcStsMSETV 1] s t ∧ SameBut [.regs, .resp] s t) := by
  refine ⟨respond (wb s intcSts intcStsMSETV true) 0, ?_, rfl, (regsAre_wb s _ _ true).and (regsBut_respond _ _ _),
    ((wb_sameBut s _ _ _).mono (by decide)).and (respond_sameBut _ _ _)⟩
  show ok (msetWrite s n.val) = _
  rw [msetWrite, if_neg (by simp [srcMsg, h])]
  rfl

/-- Settles O36: a count, the first source of highest rank, a field of the merged word, or a source entering service. -/
theorem interrupts : Obligations.Interrupts := by
  unfold Obligations.Interrupts
  refine ⟨fun s q k n h v b => ⟨fun hrun => ⟨fun hc hs => intcSourceEvent_count hrun hc hs, fun hc => intcSourceEvent_level hrun hc,
      fun he hle => holdoffExpiry_result hrun he hle⟩, fun hl => selView_still hl, fun hn => intcSelect_none hn,
      fun hmay ha => intcSelect_some hmay ha, fun hq hn hquiet hv => intcSrcWrite_quiet hq hn hquiet hv,
      fun hq hn => intcSrcWrite_frame hq hn v, fun hq hb => intcPholdWrite_result hq hb⟩,
    fun s q k n => ⟨fun hq hn => ⟨fun hh => ?_, fun hh => intcClaim_spurious hq hh⟩, fun hq => intcClaim_foreign hq,
      fun hn => intcMset_message hn, fun hn => intcMset_refused hn⟩⟩
  exact intcClaim_takes hq hn hh

end Sys2Proof.Machine

/-! The event matrix: delivery of events and its settings (R128 to R139). -/

namespace Sys2Proof.Machine

set_option Elab.async false

/-! One producer event and the channel that selects it (R128, R132). -/

theorem ae_sameBut (s : State) (x : Ae) : SameBut [.ae] s { s with ae := x } := by
  intro p hp
  cases p <;> first | rfl | exact ⟨rfl, rfl⟩ | exact absurd (List.mem_singleton.2 rfl) hp

/-- The oldest event has left the queue of those that have fired. -/
def afterFired (s : State) (r : List Nat) : State := { s with sem := { s.sem with fired := r } }

/-- Channel c notes when its latest event entered the matrix. -/
def latest (t : State) (c now : Nat) : State := { t with sem := { t.sem with last := tset 0 t.sem.last c now } }

theorem afterFired_sameBut (s : State) (r : List Nat) : SameBut [.sem] s (afterFired s r) := sem_sameBut s _

theorem regsBut_afterFired (s : State) (r : List Nat) : RegsBut [] s (afterFired s r) := fun _ _ => rfl

theorem latest_sameBut (s : State) (c now : Nat) : SameBut [.sem] s (latest s c now) := sem_sameBut s _

theorem regsBut_latest (s : State) (c now : Nat) : RegsBut [] s (latest s c now) := fun _ _ => rfl

theorem semEvent_exec {s : State} {p : Nat} {r : List Nat} (half : Bool) (hf : s.sem.fired = p :: r) :
    exec (.semEvent half) s = .next (if pdOn s 50 then semRouteAll (afterFired s r) p half else afterFired s r) := by
  show execSemEvent half s = _
  rw [execSemEvent, hf]
  rfl

/-- A fold in which one element alone changes something. -/
theorem foldl_hit {α β : Type} {f : β → α → β} {b : β} {l : List α} {c : α} (hn : l.Nodup) (hc : c ∈ l) (hb : ∀ d ∈ l, d ≠ c → f b d = b)
    (ha : ∀ d ∈ l, d ≠ c → f (f b c) d = f b c) : l.foldl f b = f b c := by
  obtain ⟨l1, l2, rfl⟩ := List.append_of_mem hc
  obtain ⟨-, h2, hd⟩ := List.nodup_append.1 hn
  have h1 (d : α) (h : d ∈ l1) : d ≠ c := hd d h c List.mem_cons_self
  have h3 (d : α) (h : d ∈ l2) : d ≠ c := fun he => (List.nodup_cons.1 h2).1 (he ▸ h)
  rw [List.foldl_append, foldl_fixed l1 (fun d h => hb d (List.mem_append_left _ h) (h1 d h)), List.foldl_cons,
    foldl_fixed l2 (fun d h => ha d (List.mem_append_right _ (List.mem_cons_of_mem _ h)) (h3 d h))]

/-- Channel d is enabled and selects producer p. -/
def selects (s : State) (p d : Nat) : Bool := rb s (semChcfg d) semChcfgEN && rf s (semChcfg d) semChcfgPSEL == p

theorem selects_congr {l : List Nat} {s t : State} (h : RegsBut l s t) {d : Nat} (hd : semChcfg d ∉ l) (p : Nat) : selects t p d = selects s p d := by
  rw [selects, h.rb_eq hd, h.rf_eq hd, selects]

theorem semRouteAll_none {s : State} {p : Nat} (half : Bool) (h : ∀ d < 256, selects s p d = false) : semRouteAll s p half = s :=
  foldl_fixed _ (fun d hd => if_neg (by rw [show (_ && _) = selects s p d from rfl, h d (List.mem_range.1 hd)]; exact Bool.false_ne_true))

theorem semRouteAll_only {l : List Nat} {s : State} {p c : Nat} (half : Bool) (hc : c < 256) (h : ∀ d < 256, selects s p d = (d == c))
    (hl : RegsBut l s (semRoute s c p half)) (hd : ∀ d < 256, semChcfg d ∉ l) : semRouteAll s p half = semRoute s c p half := by
  have hstep (t : State) (d : Nat) : (if rb t (semChcfg d) semChcfgEN && rf t (semChcfg d) semChcfgPSEL == p then semRoute t d p half else t) =
    if selects t p d then semRoute t d p half else t := rfl
  have hhit : (if selects s p c then semRoute s c p half else s) = semRoute s c p half := if_pos (by rw [h c hc, beq_self_eq_true])
  unfold semRouteAll forN
  simp only [hstep]
  rw [foldl_hit List.nodup_range (List.mem_range.2 hc), hhit]
  · intro d hdr hne
    exact if_neg (by rw [h d (List.mem_range.1 hdr)]; simpa using hne)
  · intro d hdr hne
    rw [hhit]
    exact if_neg (by rw [selects_congr hl (hd d (List.mem_range.1 hdr)), h d (List.mem_range.1 hdr)]; simpa using hne)

/-- The registers that routing an event of channel c may change. -/
def routeRegs (c : Nat) : List Nat := [semChsts c, dbgTrctl, dbgTrptr]

theorem semChcfg_notMem_routeRegs {c d : Nat} (hd : d < 256) : semChcfg d ∉ routeRegs c := by
  simp only [routeRegs, List.mem_cons, List.not_mem_nil, or_false, semChcfg, semChsts, dbgTrctl, dbgTrptr]
  omega

theorem semRoute_merges {s : State} {c : Nat} (p : Nat) (half : Bool)
    (h : (fabricConsumer (rf s (semChcfg c) semChcfgCONS) && tget 0 s.sem.last c == semNow s half) = true) :
    semRoute s c p half = inc s (semChsts c) semChstsMERGE := if_pos h

theorem semRoute_delivers {s : State} {c : Nat} (p : Nat) (half : Bool)
    (h : (fabricConsumer (rf s (semChcfg c) semChcfgCONS) && tget 0 s.sem.last c == semNow s half) = false) :
    semRoute s c p half = latest (semDeliver s c (rf s (semChcfg c) semChcfgCONS) p half) c (semNow s half) :=
  if_neg (by rw [h]; exact Bool.false_ne_true)

/-! What reaches a consumer (R129, R131, R135). -/

theorem semArrival_frees (s : State) (p : Nat) (half : Bool) : SameBut [.free] s (semArrival s p half).2 := by
  unfold semArrival
  split
  · exact SameBut.refl _ s
  · split
    · exact SameBut.refl _ s
    · split
      · exact freshBit_sameBut s
      · exact SameBut.refl _ s

theorem semArrival_time (s : State) (p : Nat) (half : Bool) :
    (half = false ∨ (softProducer p = false ∧ coreClocked p = false) → (semArrival s p half).1 = s.port) ∧
    (half = true → softProducer p = true → (semArrival s p half).1 = s.port + 1) ∧
    ((semArrival s p half).1 = s.port ∨ (semArrival s p half).1 = s.port + 1) := by
  unfold semArrival
  cases half <;> cases softProducer p <;> cases coreClocked p <;> simp
  cases (freshBit s).1 <;> simp [b2n]

theorem testBit_natBit (v i : Nat) : (natBit v i true).testBit i = true := by
  unfold natBit
  split
  · next h =>
    rw [if_pos rfl, Nat.sub_add_cancel (Nat.ge_two_pow_of_testBit h)]
    exact h
  · next h => rw [if_pos rfl, Nat.sub_zero, Nat.add_comm, Nat.testBit_two_pow_add_eq, Bool.not_eq_true _ |>.mp h]; rfl

theorem raiseTrace_sameBut (s : State) (k x d : Nat) : SameBut [.regs, .sig] s (raiseTrace s k x d) := by
  unfold raiseTrace
  split
  · exact SameBut.refl _ s
  · split
    · exact (sig_sameBut s _).mono (by decide)
    · exact ((inc_sameBut s dbgTrptr dbgTrptrLOST 1).mono (by decide)).and ((sig_sameBut _ _).mono (by decide) : SameBut [.regs, .sig] _ _)

theorem regsBut_raiseTrace (s : State) (k x d : Nat) : RegsBut [dbgTrptr] s (raiseTrace s k x d) := by
  unfold raiseTrace
  split
  · exact fun _ _ => rfl
  · split
    · exact fun _ _ => rfl
    · exact (regsBut_inc s dbgTrptr dbgTrptrLOST 1).and (fun _ _ => rfl : RegsBut [] _ _)

/-- Frames of the two ways in which a trigger writes RUN. -/
theorem wbIf_sameBut (s : State) (c : Prop) [Decidable c] (a : Nat) (f : Fld) (b : Bool) : SameBut [.regs] s (if c then wb s a f b else s) := by
  split
  · exact wb_sameBut s a f b
  · exact SameBut.refl _ s

theorem regsBut_wbIf (s : State) (c : Prop) [Decidable c] (a : Nat) (f : Fld) (b : Bool) : RegsBut [a] s (if c then wb s a f b else s) := by
  split
  · exact regsBut_wb s a f b
  · exact fun _ _ => rfl

theorem traceTrigger_sameBut (s : State) (n : Nat) : SameBut [.regs, .sig] s (traceTrigger s n) := by
  unfold traceTrigger
  dsimp only
  split
  · have h1 := wbIf_sameBut s ((rf s dbgTrctl dbgTrctlSTART == n + 1) = true) dbgTrctl dbgTrctlRUN true
    generalize (if rf s dbgTrctl dbgTrctlSTART == n + 1 then wb s dbgTrctl dbgTrctlRUN true else s) = u at h1
    have h2 := raiseTrace_sameBut u 4 n 0
    generalize raiseTrace u 4 n 0 = w at h2
    exact ((h1.mono (by decide)).and h2).and (wbIf_sameBut w _ _ _ _)
  · exact SameBut.refl _ s

theorem regsBut_traceTrigger (s : State) (n : Nat) : RegsBut [dbgTrctl, dbgTrptr] s (traceTrigger s n) := by
  unfold traceTrigger
  dsimp only
  split
  · have h1 := regsBut_wbIf s ((rf s dbgTrctl dbgTrctlSTART == n + 1) = true) dbgTrctl dbgTrctlRUN true
    generalize (if rf s dbgTrctl dbgTrctlSTART == n + 1 then wb s dbgTrctl dbgTrctlRUN true else s) = u at h1
    have h2 := regsBut_raiseTrace u 4 n 0
    generalize raiseTrace u 4 n 0 = w at h2
    exact ((h1.mono (by simp)).and h2).and (regsBut_wbIf w _ _ _ _)
  · exact fun _ _ => rfl

theorem semDeliver_trigger {s : State} {c cons : Nat} (p : Nat) (half : Bool) (hc : cons < 0x80)
    (ha : (pdOn s (18 + cons / 16) && rf s (slotSrc cons) aeSlotsrcTRIG == 1 && rf s (slotSrc cons) aeSlotsrcSECH == c) = true) :
    semDeliver s c cons p half = semCount { (semArrival s p half).2 with
      ae := { (semArrival s p half).2.ae with trigs := (semArrival s p half).2.ae.trigs ++ [(cons, .event (semArrival s p half).1)] } } c := by
  rw [semDeliver, if_pos hc]
  exact if_pos ha

theorem semDeliver_refused {s : State} {c cons : Nat} (p : Nat) (half : Bool) (hc : cons < 0x80)
    (ha : (pdOn s (18 + cons / 16) && rf s (slotSrc cons) aeSlotsrcTRIG == 1 && rf s (slotSrc cons) aeSlotsrcSECH == c) = false) :
    semDeliver s c cons p half = semDrop s c := by
  rw [semDeliver, if_pos hc]
  exact if_neg (by rw [engOf, ha]; exact Bool.false_ne_true)

theorem semDeliver_strobe (s : State) {c cons : Nat} (p : Nat) (half : Bool) (h1 : 0x80 ≤ cons) (h2 : cons < 0xC0) :
    semDeliver s c cons p half = semCount (strobe s (256 + (cons - 0x80))) c := by
  rw [semDeliver, if_neg (by omega), if_pos h2]

theorem semDeliver_flag (s : State) {c cons : Nat} (p : Nat) (half : Bool) (h1 : 0xC0 ≤ cons) (h2 : cons < 0xE8) :
    semDeliver s c cons p half = (if pdOn s (coreDomain ((cons - 0xC0) / 4)) then
      semCount (setEventFlag s ((cons - 0xC0) / 4) ((cons - 0xC0) % 4)) c else semDrop s c) := by
  rw [semDeliver, if_neg (by omega), if_neg (by omega), if_pos h2]

theorem semDeliver_trace (s : State) {c cons : Nat} (p : Nat) (half : Bool) (h1 : 0xE8 ≤ cons) (h2 : cons < 0xEC) :
    semDeliver s c cons p half = (if pdOn s 55 then semCount (traceTrigger s (cons - 0xE8)) c else semDrop s c) := by
  rw [semDeliver, if_neg (by omega), if_neg (by omega), if_neg (by omega), if_pos h2]

theorem semDeliver_nothing (s : State) {c cons : Nat} (p : Nat) (half : Bool) (h : 0xEC ≤ cons) : semDeliver s c cons p half = s := by
  rw [semDeliver, if_neg (by omega), if_neg (by omega), if_neg (by omega), if_neg (by omega)]

theorem regsBut_routeRegs_sts {c : Nat} {s t : State} (h : RegsBut [semChsts c] s t) : RegsBut (routeRegs c) s t := h.mono (by simp [routeRegs])

/-- One channel alone selects the producer, and no event of it merges. -/
structure OneChannel (s : State) (half : Bool) (p c : Nat) (r : List Nat) : Prop where
  fired : s.sem.fired = p :: r
  on : pdOn s 50 = true
  bound : c < 256
  only : ∀ d < 256, selects s p d = (d == c)

/-- What the matrix keeps of itself when an event is delivered. -/
def Taken (s t : State) (r : List Nat) : Prop := t.sem = { s.sem with fired := r, last := t.sem.last }

section
variable {s : State} {half : Bool} {p c : Nat} {r : List Nat} (h : OneChannel s half p c r)
include h

theorem OneChannel.exec_eq (hr : RegsBut (routeRegs c) (afterFired s r) (semRoute (afterFired s r) c p half)) :
    exec (.semEvent half) s = .next (semRoute (afterFired s r) c p half) := by
  rw [semEvent_exec half h.fired, if_pos h.on, semRouteAll_only (s := afterFired s r) half h.bound h.only hr (fun d hd => semChcfg_notMem_routeRegs hd)]

theorem OneChannel.merged (hm : (fabricConsumer (rf s (semChcfg c) semChcfgCONS) && tget 0 s.sem.last c == 2 * s.port + b2n half + 1) = true) :
    Runs (.semEvent half) s (fun t => Taken s t r ∧ RegsAre [counted s (semChsts c) semChstsMERGE] s t ∧ SameBut [.sem, .regs] s t) := by
  have he : semRoute (afterFired s r) c p half = inc (afterFired s r) (semChsts c) semChstsMERGE := semRoute_merges p half hm
  refine ⟨_, h.exec_eq (by rw [he]; exact regsBut_routeRegs_sts (regsBut_inc _ _ _ 1)), ?_⟩
  rw [he]
  exact ⟨rfl, (regsAre_nil (regsBut_afterFired s r)).inc List.not_mem_nil _, ((afterFired_sameBut s r).mono (by decide)).and (inc_sameBut _ _ _ 1)⟩

variable (hm : (fabricConsumer (rf s (semChcfg c) semChcfgCONS) && tget 0 s.sem.last c == 2 * s.port + b2n half + 1) = false)
include hm

/-- The frame of every delivery: what reaches the consumer, then the channel's note of it. -/
theorem OneChannel.delivered {d : State} {l : List Part} (hd : semDeliver (afterFired s r) c (rf s (semChcfg c) semChcfgCONS) p half = d)
    (hr : RegsBut (routeRegs c) (afterFired s r) d) (hp : SameBut l (afterFired s r) d) (hs : .sem ∉ l) :
    exec (.semEvent half) s = .next (latest d c (2 * s.port + b2n half + 1)) ∧ Taken s (latest d c (2 * s.port + b2n half + 1)) r ∧
      SameBut (.sem :: l) s (latest d c (2 * s.port + b2n half + 1)) := by
  have he : semRoute (afterFired s r) c p half = latest d c (2 * s.port + b2n half + 1) := (semRoute_delivers (s := afterFired s r) p half hm).trans (by
    rw [show rf (afterFired s r) (semChcfg c) semChcfgCONS = rf s (semChcfg c) semChcfgCONS from rfl, hd]
    rfl)
  refine ⟨he ▸ h.exec_eq (he ▸ hr.and (regsBut_latest d c _) (fun _ hx => (nomatch hx))), ?_, ?_⟩
  · have hds : d.sem = { s.sem with fired := r } := hp .sem hs
    show ({ d.sem with last := tset 0 d.sem.last c (2 * s.port + b2n half + 1) } : Sem) =
      { s.sem with fired := r, last := tset 0 d.sem.last c (2 * s.port + b2n half + 1) }
    rw [hds]
  · exact (((afterFired_sameBut s r).mono (by simp)).and hp (fun x hx => List.mem_cons_of_mem _ hx)).and (latest_sameBut d c _) (by simp)

/-- An event that only counts: dropped, or delivered to a part of the state by u. -/
theorem OneChannel.counts {u : State} {l : List Part} {f : Fld}
    (hd : semDeliver (afterFired s r) c (rf s (semChcfg c) semChcfgCONS) p half = inc u (semChsts c) f)
    (hr : RegsBut [] (afterFired s r) u) (hp : SameBut l (afterFired s r) u) (hs : .sem ∉ l) :
    exec (.semEvent half) s = .next (latest (inc u (semChsts c) f) c (2 * s.port + b2n half + 1)) ∧
      Taken s (latest (inc u (semChsts c) f) c (2 * s.port + b2n half + 1)) r ∧
      RegsAre [counted s (semChsts c) f] s (latest (inc u (semChsts c) f) c (2 * s.port + b2n half + 1)) ∧
      SameBut (.sem :: .regs :: l) s (latest (inc u (semChsts c) f) c (2 * s.port + b2n half + 1)) := by
  obtain ⟨hex, htaken, hsame⟩ := h.delivered hm hd (l := .regs :: l) ((hr.mono (fun _ hx => (nomatch hx))).and (regsBut_routeRegs_sts (regsBut_inc u _ f 1)) (fun _ hx => hx))
    ((hp.mono (fun x hx => List.mem_cons_of_mem _ hx)).and (inc_sameBut u _ f 1) (by simp)) (by simpa using hs)
  exact ⟨hex, htaken, ((regsAre_nil ((regsBut_afterFired s r).and hr)).inc List.not_mem_nil f).and (regsBut_latest _ _ _), hsame⟩

theorem OneChannel.dropped (hd : semDeliver (afterFired s r) c (rf s (semChcfg c) semChcfgCONS) p half = semDrop (afterFired s r) c) :
    Runs (.semEvent half) s (fun t => Taken s t r ∧ RegsAre [counted s (semChsts c) semChstsDROP] s t ∧ SameBut [.sem, .regs] s t) := by
  obtain ⟨hex, hrest⟩ := h.counts hm (f := semChstsDROP) (l := []) hd (RegsBut.refl _ _) (SameBut.refl _ _) List.not_mem_nil
  exact ⟨_, hex, hrest⟩

theorem OneChannel.trigger (hc : rf s (semChcfg c) semChcfgCONS < 0x80)
    (ha : (pdOn s (18 + rf s (semChcfg c) semChcfgCONS / 16) && rf s (slotSrc (rf s (semChcfg c) semChcfgCONS)) aeSlotsrcTRIG == 1 &&
      rf s (slotSrc (rf s (semChcfg c) semChcfgCONS)) aeSlotsrcSECH == c) = true) :
    Runs (.semEvent half) s (fun t => Taken s t r ∧
      (∃ at_, t.ae = { s.ae with trigs := s.ae.trigs ++ [(rf s (semChcfg c) semChcfgCONS, .event at_)] } ∧
        (half = false ∨ (softProducer p = false ∧ coreClocked p = false) → at_ = s.port) ∧
        (half = true → softProducer p = true → at_ = s.port + 1) ∧ (at_ = s.port ∨ at_ = s.port + 1)) ∧
      RegsAre [counted s (semChsts c) semChstsCNT] s t ∧ SameBut [.sem, .regs, .ae, .free] s t) := by
  have hfree := semArrival_frees (afterFired s r) p half
  have htime := semArrival_time (afterFired s r) p half
  have hd := semDeliver_trigger (s := afterFired s r) p half hc ha
  generalize semArrival (afterFired s r) p half = m at hfree htime hd
  have hae : m.2.ae = s.ae := hfree .ae (by decide)
  have hreg : RegsBut [] (afterFired s r) m.2 := regsBut_of_sameBut hfree (by decide) (by decide) (by decide)
  obtain ⟨hex, htaken, hregs, hsame⟩ := h.counts hm (f := semChstsCNT) (l := [.ae, .free]) hd
    (hreg.and (fun _ _ => rfl : RegsBut [] _ _)) ((hfree.mono (by decide)).and (ae_sameBut m.2 _) (by decide)) (by decide)
  refine ⟨_, hex, htaken, ⟨m.1, ?_, htime⟩, hregs, hsame⟩
  show ({ m.2.ae with trigs := _ } : Ae) = _
  rw [hae]

theorem OneChannel.strobed (h1 : 0x80 ≤ rf s (semChcfg c) semChcfgCONS) (h2 : rf s (semChcfg c) semChcfgCONS < 0xC0) :
    Runs (.semEvent half) s (fun t => Taken s t r ∧
      t.intc = { s.intc with strobes := s.intc.strobes ++ [256 + (rf s (semChcfg c) semChcfgCONS - 0x80)] } ∧
      RegsAre [counted s (semChsts c) semChstsCNT] s t ∧ SameBut [.sem, .regs, .intc] s t) := by
  obtain ⟨hex, htaken, hregs, hsame⟩ := h.counts hm (f := semChstsCNT) (l := [.intc]) (semDeliver_strobe _ p half h1 h2)
    (fun _ _ => rfl) (intc_sameBut _ _) (by decide)
  exact ⟨_, hex, htaken, rfl, hregs, hsame⟩

theorem OneChannel.flagged (h1 : 0xC0 ≤ rf s (semChcfg c) semChcfgCONS) (h2 : rf s (semChcfg c) semChcfgCONS < 0xE8)
    (hon : pdOn s (coreDomain ((rf s (semChcfg c) semChcfgCONS - 0xC0) / 4)) = true) :
    Runs (.semEvent half) s (fun t => Taken s t r ∧
      (coreOf t ((rf s (semChcfg c) semChcfgCONS - 0xC0) / 4)).ef.testBit ((rf s (semChcfg c) semChcfgCONS - 0xC0) % 4) = true ∧
      (∀ j, j ≠ (rf s (semChcfg c) semChcfgCONS - 0xC0) / 4 → coreOf t j = coreOf s j) ∧
      RegsAre [counted s (semChsts c) semChstsCNT] s t ∧ SameBut [.sem, .regs, .cores] s t) := by
  obtain ⟨hex, htaken, hregs, hsame⟩ := h.counts hm (f := semChstsCNT) (l := [.cores]) ((semDeliver_flag _ p half h1 h2).trans (if_pos hon))
    (regsBut_setCore _ _ _) (setCore_sameBut _ _ _) (by decide)
  refine ⟨_, hex, htaken, ?_, fun j hj => coreOf_setCore_other _ _ hj, hregs, hsame⟩
  show (coreOf (setCore _ _ _) _).ef.testBit _ = true
  rw [coreOf_setCore_same]
  exact testBit_natBit _ _

theorem OneChannel.traced (h1 : 0xE8 ≤ rf s (semChcfg c) semChcfgCONS) (h2 : rf s (semChcfg c) semChcfgCONS < 0xEC) (hon : pdOn s 55 = true) :
    Runs (.semEvent half) s (fun t => Taken s t r ∧ rd t (semChsts c) = (counted s (semChsts c) semChstsCNT).2 ∧
      RegsBut [semChsts c, dbgTrctl, dbgTrptr] s t ∧ SameBut [.sem, .regs, .sig] s t) := by
  have hd := (semDeliver_trace (afterFired s r) (c := c) p half h1 h2).trans (if_pos hon)
  have hr := regsBut_traceTrigger (afterFired s r) (rf s (semChcfg c) semChcfgCONS - 0xE8)
  have hp := traceTrigger_sameBut (afterFired s r) (rf s (semChcfg c) semChcfgCONS - 0xE8)
  generalize traceTrigger (afterFired s r) (rf s (semChcfg c) semChcfgCONS - 0xE8) = u at hd hr hp
  have hne : semChsts c ∉ [dbgTrctl, dbgTrptr] := by
    have := h.bound
    simp only [List.mem_cons, List.not_mem_nil, or_false, semChsts, dbgTrctl, dbgTrptr]
    omega
  have hroute : RegsBut (routeRegs c) (afterFired s r) (inc u (semChsts c) semChstsCNT) :=
    (hr.mono (by simp [routeRegs])).and (regsBut_routeRegs_sts (regsBut_inc u _ _ 1)) (fun _ hx => hx)
  obtain ⟨hex, htaken, hsame⟩ := h.delivered hm hd hroute (hp.and (inc_sameBut u _ _ 1)) (by decide)
  refine ⟨_, hex, htaken, ?_, hroute, hsame⟩
  refine ((regsAre_inc u (semChsts c) semChstsCNT).1 _ List.mem_cons_self).trans ?_
  have hrd : rd u (semChsts c) = rd s (semChsts c) := hr _ hne
  show semChstsCNT.put (rd u (semChsts c)) (satAdd _ (semChstsCNT.get (rd u (semChsts c))) 1) = _
  rw [hrd]
  rfl

theorem OneChannel.ignored (hc : 0xEC ≤ rf s (semChcfg c) semChcfgCONS) : Runs (.semEvent half) s (fun t => Taken s t r ∧ SameBut [.sem] s t) := by
  obtain ⟨hex, hrest⟩ := h.delivered hm (l := []) (semDeliver_nothing _ p half hc) (RegsBut.refl _ _) (SameBut.refl _ _) List.not_mem_nil
  exact ⟨_, hex, hrest⟩

end

/-- Software fires producers (R128). -/
theorem semSwev_result {s : State} (v : BitVec 32) (hon : pdOn s 50 = true) : Runs (.semSwev v) s (fun t => t.resp = ⟨0, 0⟩ ∧
    Fires (((List.range 32).filter (fun k => v.toNat.testBit k)).map (fun k => 0x0C0 + k)) s t ∧ SameBut [.sem, .resp] s t) := by
  have hex : exec (.semSwev v) s = .next (respond ((((List.range 32).filter (fun k => v.toNat.testBit k)).map (fun k => 0x0C0 + k)).foldl semFire s) 0) := by
    show ok (swevWrite s v.toNat) = _
    rw [swevWrite, hon, Bool.not_true, if_neg Bool.false_ne_true, forN, List.foldl_map, List.foldl_filter]
    rfl
  exact ⟨_, hex, rfl, rfl, ((SameBut.foldl (l := [.sem, .resp]) _ s (fun t x => (semFire_sameBut t x).mono (by decide))).and (respond_sameBut _ _ _))⟩

/-! A write of a channel (R130, R132, R136, R137). -/

/-- The flags that a channel write may set whatever its binding. -/
def chFlags : List Fld := [semStsOWNV, semStsLOCKV, semStsSECV]

theorem chFlags_apart : ∀ f ∈ chFlags, ∀ g ∈ chFlags, f.fits = true ∧ g.fits = true ∧ (f = g ∨ f ≠ g ∧ (g.hi < f.lo ∨ f.hi < g.lo)) := by decide

theorem semChRefusals_flags (s : State) (q : Req) (n : Nat) (v : Word) : ∀ f ∈ semChRefusals s q n v, f ∈ chFlags := by
  intro f hf
  unfold semChRefusals at hf
  dsimp only at hf
  rw [List.mem_append, List.mem_append] at hf
  rcases hf with (hf | hf) | hf
  · split at hf
    · exact nomatch hf
    · exact List.mem_singleton.1 hf ▸ by decide
  · split at hf
    · exact List.mem_singleton.1 hf ▸ by decide
    · exact nomatch hf
  · split at hf
    · exact List.mem_singleton.1 hf ▸ by decide
    · exact nomatch hf

/-- Each rule that the write breaks has its own flag. -/
theorem mem_refusals (a b c : Bool) (l : List Fld)
    (hl : l = (if a then [] else [semStsOWNV]) ++ (if b then [semStsLOCKV] else []) ++ (if c then [semStsSECV] else [])) :
    (semStsOWNV ∈ l ↔ ¬a = true) ∧ (semStsLOCKV ∈ l ↔ b = true) ∧ (semStsSECV ∈ l ↔ c = true) := by
  subst hl
  revert a b c
  decide

theorem ownv_mem_refusals (s : State) (q : Req) (n : Nat) (v : Word) : semStsOWNV ∈ semChRefusals s q n v ↔
    ¬(holdsType s q 4 = true ∧ q.who.val < 12 ∧ (rf s (semChcfg n) semChcfgOWNER = q.who.val ∨
      (12 ≤ rf s (semChcfg n) semChcfgOWNER ∧ semChcfgOWNER.get v = q.who.val))) := by
  refine (mem_refusals _ _ _ _ rfl).1.trans (not_congr ?_)
  simp only [namesWho, ownerNone, Bool.and_eq_true, Bool.or_eq_true, beq_iff_eq, decide_eq_true_eq]
  refine and_congr_right fun _ => ⟨fun h => ?_, fun ⟨hlt, h⟩ => ?_⟩
  · rcases h with ⟨he, hlt⟩ | ⟨hno, he, hlt⟩
    · exact ⟨he ▸ hlt, .inl he⟩
    · exact ⟨he ▸ hlt, .inr ⟨hno, he⟩⟩
  · rcases h with he | ⟨hno, he⟩
    · exact .inl ⟨he, he ▸ hlt⟩
    · exact .inr ⟨hno, he, he ▸ hlt⟩

theorem lockv_mem_refusals (s : State) (q : Req) (n : Nat) (v : Word) : semStsLOCKV ∈ semChRefusals s q n v ↔ 2 ≤ rf s (semChcfg n) semChcfgSEC := by
  refine (mem_refusals _ _ _ _ rfl).2.1.trans ?_
  rw [beq_iff_eq, secActs]
  omega

theorem secv_mem_refusals (s : State) (q : Req) (n : Nat) (v : Word) : semStsSECV ∈ semChRefusals s q n v ↔
    min (semChcfgSEC.get v) 2 < min (rf s (semChcfg n) semChcfgSEC) 2 ∨
      ((1 ≤ rf s (semChcfg n) semChcfgSEC ∨ 1 ≤ semChcfgSEC.get v) ∧ softProducer (semChcfgPSEL.get v) = true) := by
  refine (mem_refusals _ _ _ _ rfl).2.2.trans ?_
  rw [Bool.or_eq_true, Bool.and_eq_true, decide_eq_true_eq, decide_eq_true_eq]
  refine or_congr Iff.rfl (and_congr_left fun _ => ?_)
  rw [secActs, secActs]
  omega

theorem semFlags_sameBut (s : State) (l : List Fld) : SameBut [.regs] s (semFlags s l) := SameBut.foldl _ s (fun t f => wb_sameBut t _ f _)

theorem regsBut_semFlags (s : State) (l : List Fld) : RegsBut [semSts] s (semFlags s l) :=
  List.foldlRecOn l _ (motive := RegsBut [semSts] s) (RegsBut.refl _ s) (fun t h f _ => h.and (regsBut_wb t semSts f true) (fun _ hx => hx))

theorem rb_semFlags {l : List Fld} (hl : ∀ g ∈ l, g ∈ chFlags) (s : State) {f : Fld} (hf : f ∈ chFlags) :
    rb (semFlags s l) semSts f = (rb s semSts f || l.contains f) := by
  induction l generalizing s with
  | nil => exact (Bool.or_false _).symm
  | cons g l ih =>
    obtain ⟨hff, hgf, hap⟩ := chFlags_apart f hf g (hl g List.mem_cons_self)
    have hfold : semFlags s (g :: l) = semFlags (wb s semSts g true) l := rfl
    rw [hfold, ih (fun x hx => hl x (List.mem_cons_of_mem _ hx)), List.contains_cons]
    rcases hap with rfl | ⟨hne, hap⟩
    · rw [rb_wb_same _ _ _ _ hff, beq_self_eq_true, Bool.true_or, Bool.or_true]
    · rw [rb_wb_apart s semSts g f true hgf hff hap, beq_eq_false_iff_ne.2 hne, Bool.false_or]

theorem semChcfgWrite_exec {s : State} (q : Req) (n : Fin 256) (v : Word) (hon : pdOn s 50 = true) : exec (.semChcfgWrite q n v) s = .next
    (if semChRefusals s q n.val v = [] then
      if semBound s n.val v then
        if (semRival s n.val v).isSome && (freshBit s).1 then
          respond (semFlags (semChPut (semUnbind (freshBit s).2 ((semRival s n.val v).getD default).2.1 ((semRival s n.val v).getD default).2.2) n.val v)
            [semStsCONSV]) 0
        else respond (semFlags (if (semRival s n.val v).isSome then (freshBit s).2 else s) [semStsCONSV]) 0
      else respond (semChPut s n.val v) 0
    else respond (semFlags s (semChRefusals s q n.val v)) (if holdsType s q 4 then 0 else 2)) := by
  show ok (semChWrite s q n.val v) = _
  rw [semChWrite, hon, Bool.not_true, if_neg Bool.false_ne_true]
  cases hl : semChRefusals s q n.val v with
  | cons f l => rfl
  | nil =>
    rw [if_pos rfl]
    cases hr : semRival s n.val v with
    | none => rfl
    | some b =>
      dsimp only
      cases hb : (freshBit s).1 <;> rfl

theorem semChcfgWrite_refused {s : State} (q : Req) (n : Fin 256) (v : Word) (hon : pdOn s 50 = true) (h : semChRefusals s q n.val v ≠ []) :
    Runs (.semChcfgWrite q n v) s (fun t => t.resp = ⟨if holdsType s q 4 then 0 else 2, 0⟩ ∧
      (∀ f ∈ chFlags, rb t semSts f = (rb s semSts f || (semChRefusals s q n.val v).contains f)) ∧
      RegsBut [semSts] s t ∧ SameBut [.regs, .resp] s t) := by
  refine ⟨_, (semChcfgWrite_exec q n v hon).trans (congrArg _ (if_neg h)), rfl, fun f hf => rb_semFlags (semChRefusals_flags s q n.val v) s hf,
    (regsBut_semFlags s _).and (regsBut_respond _ _ _), ?_⟩
  exact ((semFlags_sameBut s _).mono (by decide)).and (respond_sameBut _ _ _)

/-! The binding of a channel (R130). -/

/-- How SEM_CHCFG[n] is listed. -/
def chDesc : RegDesc := (regTableSem.find? (fun d => d.base == semChcfg 0)).getD ⟨"", 0, [], .por, .aon, 0, []⟩

theorem regFind_semChcfg (n : Fin 256) : regFind (semChcfg n.val) = some (chDesc, [n.val]) := by
  revert n
  decide +kernel

/-- A register without flags that a write of ones clears takes the merged word. -/
theorem regPut_plain {s : State} {a : Nat} {d : RegDesc} {ix : List Nat} (hf : regFind a = some (d, ix)) {v : Word} (hc : d.clears v = 0) :
    regPut s a true v = wr s a (regMerge d (rd s a) v true) := by
  rw [regPut_eq hf, hc, setsAt_none]
  rfl

/-- The fields of a channel. -/
def chFields : List Fld := [semChcfgEN, semChcfgSEC, semChcfgOWNER, semChcfgPSEL, semChcfgCONS]

theorem chDesc_fields : chDesc.fields.Pairwise FldDesc.apart ∧ (∀ f ∈ chDesc.fields, f.fld.fits = true) ∧
    ∀ g ∈ chFields, ∃ f ∈ chDesc.fields, f.fld = g ∧ f.acc = .rwt := by decide +kernel

theorem get_chMerge (old v : Word) {f : Fld} (hf : f ∈ chFields) : f.get (regMerge chDesc old v true) = f.get v := by
  obtain ⟨hl, hfit, hin⟩ := chDesc_fields
  obtain ⟨d, hd, rfl, hacc⟩ := hin f hf
  rw [get_regMerge hl hfit old v true hd, hacc]
  rfl

/-- The channel register after a write of v. -/
def chWritten (s : State) (n : Nat) (v : Word) : State := wr s (semChcfg n) (regMerge chDesc (rd s (semChcfg n)) v true)

theorem regPut_semChcfg (s : State) (n : Fin 256) (v : Word) : regPut s (semChcfg n.val) true v = chWritten s n.val v := regPut_plain (regFind_semChcfg n) rfl

theorem rf_chWritten (s : State) (n : Nat) (v : Word) {f : Fld} (hf : f ∈ chFields) : rf (chWritten s n v) (semChcfg n) f = f.get v := by
  rw [rf, chWritten, rd_wr_same]
  exact get_chMerge _ v hf

theorem setCons_sameBut (s : State) (i : Nat) (b : Option Nat) : SameBut [.regs] s (setCons s i b) := by
  cases b with
  | none => exact wr_sameBut s _ _
  | some c => exact (wb_sameBut s (semCons i) semConsVALID true).and (wf_sameBut _ _ _ _)

theorem regsBut_setCons (s : State) (i : Nat) (b : Option Nat) : RegsBut [semCons i] s (setCons s i b) := by
  cases b with
  | none => exact regsBut_wr s _ _
  | some c => exact (regsBut_wb s (semCons i) semConsVALID true).and (regsBut_wf _ _ _ _)

theorem setCons_some (s : State) (i : Nat) {c : Nat} (hc : c < 256) :
    rb (setCons s i (some c)) (semCons i) semConsVALID = true ∧ rf (setCons s i (some c)) (semCons i) semConsCH = c :=
  ⟨(rb_wf_apart _ _ _ _ _ rfl rfl (by decide)).trans (rb_wb_same _ _ _ _ rfl), (rf_wf_same _ _ _ _ rfl).trans (Nat.mod_eq_of_lt hc)⟩

theorem semCons_ne {i j : Nat} (h : i ≠ j) : semCons i ≠ semCons j := fun he => h (by simpa only [semCons, Nat.add_left_cancel_iff] using he)

theorem semCons_ne_chcfg (n i : Nat) (hn : n < 256) : semCons i ≠ semChcfg n := by
  simp only [semCons, semChcfg, ne_eq]
  omega

/-- The former binding is undone, then the channel is written. -/
def chMoved (s : State) (n : Nat) (v : Word) : State :=
  chWritten (if rb s (semChcfg n) semChcfgEN then setCons s (rf s (semChcfg n) semChcfgCONS) none else s) n v

theorem chMoved_sameBut (s : State) (n : Nat) (v : Word) : SameBut [.regs] s (chMoved s n v) := by
  unfold chMoved
  split
  · exact (setCons_sameBut s _ none).and (wr_sameBut _ _ _)
  · exact wr_sameBut s _ _

theorem regsBut_chMoved (s : State) (n : Nat) (v : Word) : RegsBut [semChcfg n, semCons (rf s (semChcfg n) semChcfgCONS)] s (chMoved s n v) := by
  unfold chMoved
  split
  · exact ((regsBut_setCons s _ none).mono (by simp)).and (regsBut_wr _ _ _)
  · exact (regsBut_wr s _ _).mono (by simp)

theorem rf_chMoved (s : State) (n : Nat) (v : Word) {f : Fld} (hf : f ∈ chFields) : rf (chMoved s n v) (semChcfg n) f = f.get v := by
  unfold chMoved
  exact rf_chWritten _ n v hf

theorem rd_chMoved_old {s : State} {n : Nat} (hn : n < 256) (v : Word) (h : rb s (semChcfg n) semChcfgEN = true) :
    rd (chMoved s n v) (semCons (rf s (semChcfg n) semChcfgCONS)) = 0 := by
  unfold chMoved
  rw [if_pos h, chWritten, rd_wr_other _ _ (semCons_ne_chcfg n _ hn)]
  exact rd_wr_same s _ _

/-- The bindings that the matrix remembers for this cycle. -/
def bindsTo (t : State) (l : List (Nat × Nat × Word)) : State := { t with sem := { t.sem with binds := l } }

theorem semChPut_eq (s : State) (n : Fin 256) (v : Word) : ∃ l, semChPut s n.val v = if semChcfgEN.get v == 1 then
    bindsTo (setCons (chMoved s n.val v) (semChcfgCONS.get v) (some n.val)) l else chMoved s n.val v := by
  have hput : semChPut s n.val v = if rb (chMoved s n.val v) (semChcfg n.val) semChcfgEN then
      bindsTo (setCons (chMoved s n.val v) (rf (chMoved s n.val v) (semChcfg n.val) semChcfgCONS) (some n.val))
        ((setCons (chMoved s n.val v) (rf (chMoved s n.val v) (semChcfg n.val) semChcfgCONS) (some n.val)).sem.binds.filter (fun b => b.2.1 != n.val) ++
          (if rb s (semChcfg n.val) semChcfgEN && rf (chMoved s n.val v) (semChcfg n.val) semChcfgCONS == rf s (semChcfg n.val) semChcfgCONS then []
            else [(rf (chMoved s n.val v) (semChcfg n.val) semChcfgCONS, n.val, rd s (semChcfg n.val))]))
      else chMoved s n.val v := by
    unfold semChPut
    dsimp only
    rw [regPut_semChcfg]
    rfl
  have hen : (semChcfgEN.get v == 1) = (semChcfgEN.get v != 0) := by
    rcases Nat.lt_succ_iff_lt_or_eq.1 (Fld.get_lt semChcfgEN v : semChcfgEN.get v < 2) with h | h
    · rw [Nat.lt_one_iff.1 h]
      rfl
    · rw [h]
      rfl
  rw [hput, hen, rb, rf_chMoved s n.val v (by decide), rf_chMoved s n.val v (by decide)]
  exact ⟨_, rfl⟩

theorem semChPut_sameBut (s : State) (n : Fin 256) (v : Word) : SameBut [.regs, .sem] s (semChPut s n.val v) := by
  obtain ⟨l, hl⟩ := semChPut_eq s n v
  have hm : SameBut [.regs, .sem] s (chMoved s n.val v) := (chMoved_sameBut s n.val v).mono (by decide)
  rw [hl]
  split
  · exact (hm.and (setCons_sameBut _ _ _)).and (sem_sameBut _ _)
  · exact hm

theorem semUnbind_sameBut (s : State) (n : Nat) (was : Word) : SameBut [.regs, .sem] s (semUnbind s n was) := by
  have h1 : SameBut [.regs] s (wr (setCons s (rf s (semChcfg n) semChcfgCONS) none) (semChcfg n) was) :=
    (setCons_sameBut s _ _).and (wr_sameBut _ _ _)
  unfold semUnbind
  dsimp only
  generalize wr (setCons s (rf s (semChcfg n) semChcfgCONS) none) (semChcfg n) was = u at h1
  have h2 : SameBut [.regs] u (if rb u (semChcfg n) semChcfgEN then setCons u (rf u (semChcfg n) semChcfgCONS) (some n) else u) := by
    split
    · exact setCons_sameBut u _ _
    · exact SameBut.refl _ u
  generalize (if rb u (semChcfg n) semChcfgEN then setCons u (rf u (semChcfg n) semChcfgCONS) (some n) else u) = w at h2
  exact ((h1.and h2).mono (by decide)).and (sem_sameBut w _)

theorem semChcfgWrite_bound {s : State} (q : Req) (n : Fin 256) (v : Word) (hon : pdOn s 50 = true) (h : semChRefusals s q n.val v = [])
    (hb : semBound s n.val v = true) : Runs (.semChcfgWrite q n v) s (fun t => t.resp = ⟨0, 0⟩ ∧
      rb t semSts semStsCONSV = true ∧ SameBut [.regs, .resp, .sem, .free] s t ∧
      (semRival s n.val v = none → RegsAre [withFld s semSts semStsCONSV 1] s t ∧ SameBut [.regs, .resp] s t)) := by
  have hex := semChcfgWrite_exec q n v hon
  rw [if_pos h, if_pos hb] at hex
  have hflag (t : State) : rb (respond (semFlags t [semStsCONSV]) 0) semSts semStsCONSV = true := rb_wb_same t semSts semStsCONSV true rfl
  have hend {t : State} (ht : SameBut [.regs, .resp, .sem, .free] s t) : SameBut [.regs, .resp, .sem, .free] s (respond (semFlags t [semStsCONSV]) 0) :=
    (ht.and (semFlags_sameBut t _)).and (respond_sameBut _ _ _)
  have hfree : SameBut [.regs, .resp, .sem, .free] s (freshBit s).2 := (freshBit_sameBut s).mono (by decide)
  split at hex
  · next hc =>
    rw [Bool.and_eq_true] at hc
    refine ⟨_, hex, rfl, hflag _, hend ((hfree.and (semUnbind_sameBut _ _ _)).and (semChPut_sameBut _ n v)), fun hn => ?_⟩
    rw [hn] at hc
    exact nomatch hc.1
  · refine ⟨_, hex, rfl, hflag _, hend ?_, fun hn => ?_⟩
    · split
      · exact hfree
      · exact SameBut.refl _ s
    · rw [hn]
      exact ⟨(regsAre_wb s semSts semStsCONSV true).and (regsBut_respond _ _ _), ((semFlags_sameBut s _).mono (by decide)).and (respond_sameBut _ _ _)⟩

theorem semChcfgWrite_free {s : State} (q : Req) (n : Fin 256) (v : Word) (hon : pdOn s 50 = true) (h : semChRefusals s q n.val v = [])
    (hb : semBound s n.val v = false) : Runs (.semChcfgWrite q n v) s (fun t => t.resp = ⟨0, 0⟩ ∧ t.sem = { s.sem with binds := t.sem.binds } ∧
      (∀ f ∈ chFields, rf t (semChcfg n.val) f = f.get v) ∧
      ((semChcfgEN.get v == 1) = true → rb t (semCons (semChcfgCONS.get v)) semConsVALID = true ∧ rf t (semCons (semChcfgCONS.get v)) semConsCH = n.val) ∧
      (rb s (semChcfg n.val) semChcfgEN = true → (semChcfgEN.get v == 1) = false ∨ semChcfgCONS.get v ≠ rf s (semChcfg n.val) semChcfgCONS →
        rd t (semCons (rf s (semChcfg n.val) semChcfgCONS)) = 0) ∧
      RegsBut [semChcfg n.val, semCons (rf s (semChcfg n.val) semChcfgCONS), semCons (semChcfgCONS.get v)] s t ∧ SameBut [.regs, .resp, .sem] s t) := by
  have hex := semChcfgWrite_exec q n v hon
  rw [if_pos h, hb, if_neg Bool.false_ne_true] at hex
  have hparts : SameBut [.regs, .resp, .sem] s (respond (semChPut s n.val v) 0) := ((semChPut_sameBut s n v).mono (by decide)).and (respond_sameBut _ _ _)
  refine ⟨_, hex, rfl, ?_⟩
  obtain ⟨l, hl⟩ := semChPut_eq s n v
  have hsem : (chMoved s n.val v).sem = s.sem := chMoved_sameBut s n.val v .sem (by decide)
  have hregs := (regsBut_chMoved s n.val v).mono (m := [semChcfg n.val, semCons (rf s (semChcfg n.val) semChcfgCONS), semCons (semChcfgCONS.get v)]) (by simp)
  have hfld {f : Fld} (hf : f ∈ chFields) := rf_chMoved s n.val v hf
  have hold := rd_chMoved_old (s := s) n.isLt v
  rw [hl] at hparts ⊢
  generalize chMoved s n.val v = u at hsem hregs hfld hold hparts
  split at hparts
  · next hen =>
    rw [if_pos hen]
    obtain ⟨hvalid, hch⟩ := setCons_some u (semChcfgCONS.get v) n.isLt
    have hset := regsBut_setCons u (semChcfgCONS.get v) (some n.val)
    have husem : (setCons u (semChcfgCONS.get v) (some n.val)).sem = u.sem := setCons_sameBut u _ _ .sem (by decide)
    refine ⟨?_, fun f hf => (hset.rf_eq (by simpa using (semCons_ne_chcfg n.val _ n.isLt).symm) f).trans (hfld hf), fun _ => ⟨hvalid, hch⟩,
      fun hen' hne => (hset _ ?_).trans (hold hen'), (hregs.and hset).and (fun _ _ => rfl : RegsBut [] _ _), hparts⟩
    · show ({ (setCons u _ _).sem with binds := l } : Sem) = { s.sem with binds := l }
      rw [husem, hsem]
    · rcases hne with hne | hne
      · rw [hen] at hne
        exact nomatch hne
      · exact fun hm => semCons_ne hne.symm (List.mem_singleton.1 hm)
  · next hen =>
    rw [if_neg hen]
    refine ⟨?_, fun f hf => hfld hf, fun hc => absurd hc hen, fun hen' _ => hold hen', hregs.and (regsBut_respond _ _ _) (fun _ hx => (nomatch hx)), hparts⟩
    show u.sem = { s.sem with binds := u.sem.binds }
    rw [hsem]

/-! Trip groups: their freezing and their terms (R138, R139). -/

theorem semTglock_result {s : State} (q : Req) (b : BitVec 16) (hq : holdsType s q 4 = true) : Runs (.semTglock q b) s (fun t => t.resp = ⟨0, 0⟩ ∧
    (∀ i < 16, rbit t semTglock semTglockLOCK i = (rbit s semTglock semTglockLOCK i || b.getLsbD i)) ∧
    RegsBut [semTglock] s t ∧ SameBut [.regs, .resp] s t) := by
  have hex : exec (.semTglock q b) s = .next (respond (wf s semTglock semTglockLOCK (rf s semTglock semTglockLOCK ||| b.toNat)) 0) := by
    show ok (tglockWrite s q b.toNat) = _
    rw [tglockWrite, if_pos hq]
    rfl
  refine ⟨_, hex, rfl, fun i _ => ?_, (regsBut_wf s _ _ _).and (regsBut_respond _ _ _), ((wf_sameBut s _ _ _).mono (by decide)).and (respond_sameBut _ _ _)⟩
  have hlt : rf s semTglock semTglockLOCK ||| b.toNat < semTglockLOCK.span := Nat.or_lt_two_pow (Fld.get_lt semTglockLOCK _) b.isLt
  show (rf (wf s _ _ _) _ _).testBit i = _
  rw [rf_wf_same _ _ _ _ rfl, Nat.mod_eq_of_lt hlt, Nat.testBit_or]
  rfl

/-- The conditions of the monitors and of power failure that group inputs follow. -/
def KeepsInputs (s t : State) : Prop := t.sem.pfail = s.sem.pfail ∧ t.sem.pulse = s.sem.pulse

theorem keepsInputs_tripSync (s : State) : KeepsInputs s (tripSync s) := by
  have hstep (t : State) (g : Nat) : KeepsInputs t (followGroup s t g) := by
    unfold followGroup tgLatch
    dsimp only
    split
    · split
      · exact ⟨rfl, rfl⟩
      · unfold semFire
        dsimp only
        split <;> exact ⟨rfl, rfl⟩
    · exact ⟨rfl, rfl⟩
  have hfold : KeepsInputs s ((List.range 16).foldl (followGroup s) s) :=
    List.foldlRecOn _ _ (motive := KeepsInputs s) ⟨rfl, rfl⟩ (fun t ht g _ => ⟨(hstep t g).1.trans ht.1, (hstep t g).2.trans ht.2⟩)
  have hsafe : (tripSync s).sem = ((List.range 16).foldl (followGroup s) s).sem := by
    rw [tripSync_eq]
    exact (keepsPort_safeSync _).parts .sem (by decide)
  exact ⟨(congrArg Sem.pfail hsafe).trans hfold.1, (congrArg Sem.pulse hsafe).trans hfold.2⟩

theorem semTg_notMem_groupRegs {a : Nat} (h : a < cvpTglatch) : a ∉ groupRegs := by
  simp only [groupRegs, List.mem_cons, List.mem_map, List.mem_range, not_or, not_exists, not_and]
  refine ⟨by omega, fun w _ he => ?_⟩
  simp only [cvpSafests, cvpTglatch] at he h
  omega

/-- Following the group inputs does not change them. -/
theorem groupInput_tripSync (s : State) {g : Nat} (hg : g < 16) : groupInput (tripSync s) g = groupInput s g := by
  have hk := keepsTrips_tripSync s
  obtain ⟨hpfail, hpulse⟩ := keepsInputs_tripSync s
  have hport : (tripSync s).port = s.port := hk.parts .port (by decide)
  have htgen (w : Nat) (hw : w < 2) : rf (tripSync s) (semTgen g w) semTgenEN = rf s (semTgen g w) semTgenEN :=
    hk.regs.rf_eq (semTg_notMem_groupRegs (by simp only [semTgen, cvpTglatch]; omega)) _
  have htgpr (f : Fld) : rf (tripSync s) (semTgpr g) f = rf s (semTgpr g) f :=
    hk.regs.rf_eq (semTg_notMem_groupRegs (by simp only [semTgpr, cvpTglatch]; omega)) f
  simp only [groupInput, dmPulse, rb, rbit, htgen 0 (by decide), htgen 1 (by decide), htgpr, hk.tripLive, hpfail, hpulse, hport]

/-- The register of trip terms that a write names. -/
def termReg (g w : Nat) : Nat := if w < 2 then semTgen g w else semTgpr g

/-- The terms that such a register has. -/
def termMask (w : Nat) : Word := if w < 2 then 0xFFFFFFFF else 0x1FFFF

/-- How SEM_TGEN[g][w] and SEM_TGPR[g] are listed. -/
def termDesc (w : Nat) : RegDesc := (regTableSem.find? (fun d => d.base == if w < 2 then semTgen 0 0 else semTgpr 0)).getD ⟨"", 0, [], .por, .aon, 0, []⟩

theorem regFind_termReg (g : Fin 16) (w : Fin 3) : regFind (termReg g.val w.val) = some (termDesc w.val, if w.val < 2 then [g.val, w.val] else [g.val]) := by
  revert g w
  decide +kernel

theorem termDesc_fields (w : Fin 3) : (termDesc w.val).fields.Pairwise FldDesc.apart ∧ (∀ f ∈ (termDesc w.val).fields, f.fld.fits = true) ∧
    (∀ f ∈ (termDesc w.val).fields, f.acc = .rwt) ∧ (termDesc w.val).clears 0 = 0 := by
  revert w
  decide +kernel

theorem termDesc_clears (w : Fin 3) (v : Word) : (termDesc w.val).clears v = 0 := by
  revert w
  rw [Fin.forall_fin_succ, Fin.forall_fin_two]
  exact ⟨rfl, rfl, rfl⟩

/-- The terms of a word, field by field. -/
theorem term_bits (a b : Word) (w : Fin 3) (h : ∀ f ∈ (termDesc w.val).fields, f.fld.get a = f.fld.get b) : a &&& termMask w.val = b &&& termMask w.val := by
  revert w
  rw [Fin.forall_fin_succ, Fin.forall_fin_two]
  have hand (x : Word) (k : Nat) (m : Word) (hm : m.toNat = 2 ^ k - 1) : (x &&& m).toNat = x.toNat % 2 ^ k := by
    rw [BitVec.toNat_and, hm, Nat.and_two_pow_sub_one_eq_mod]
  have hwide (h : semTgenEN.get a = semTgenEN.get b) : a &&& 0xFFFFFFFF = b &&& 0xFFFFFFFF := by
    refine BitVec.eq_of_toNat_eq ?_
    rw [hand a 32 _ rfl, hand b 32 _ rfl]
    exact h
  refine ⟨fun h => hwide (h ⟨31, 0, .rwt, .val 0x0⟩ (by decide +kernel)), fun h => hwide (h ⟨31, 0, .rwt, .val 0x0⟩ (by decide +kernel)), fun h => ?_⟩
  have h1 : a.toNat >>> 16 % 2 = b.toNat >>> 16 % 2 := h ⟨16, 16, .rwt, .val 0x0⟩ (by decide +kernel)
  have h0 : a.toNat % 2 ^ 16 = b.toNat % 2 ^ 16 := h ⟨15, 0, .rwt, .val 0x0⟩ (by decide +kernel)
  refine BitVec.eq_of_toNat_eq ((hand a 17 0x1FFFF rfl).trans ((?_ : _ = _).trans (hand b 17 0x1FFFF rfl).symm))
  rw [Nat.shiftRight_eq_div_pow, Nat.shiftRight_eq_div_pow] at h1
  omega

/-- The terms written. -/
def termsWritten (s : State) (g w : Nat) (v : Word) : State := wr s (termReg g w) (regMerge (termDesc w) (rd s (termReg g w)) v true)

theorem rd_termsWritten (s : State) (g : Nat) (w : Fin 3) (v : Word) : rd (termsWritten s g w.val v) (termReg g w.val) &&& termMask w.val = v &&& termMask w.val := by
  obtain ⟨hl, hfit, hacc, -⟩ := termDesc_fields w
  refine term_bits _ _ w (fun f hf => ?_)
  rw [termsWritten, rd_wr_same, get_regMerge hl hfit _ v true hf, hacc f hf]
  rfl

theorem termReg_lt (g : Fin 16) (w : Nat) : termReg g.val w < cvpTglatch := by
  have := g.isLt
  unfold termReg
  split
  · simp only [semTgen, cvpTglatch]; omega
  · simp only [semTgpr, cvpTglatch]; omega

theorem semTgmatrix_written {s : State} (q : Req) (g : Fin 16) (w : Fin 3) (v : Word) (hq : holdsType s q 4 = true)
    (hl : rbit s semTglock semTglockLOCK g.val = false) : Runs (.semTgmatrixWrite q g w v) s (fun t => t.resp = ⟨0, 0⟩ ∧
      rd t (termReg g.val w.val) &&& termMask w.val = v &&& termMask w.val ∧
      (∀ i < 16, groupInput t i = true → rbit t cvpTglatch cvpTglatchTGLAT i = true) ∧
      (∀ i < 16, rbit s cvpTglatch cvpTglatchTGLAT i = true → rbit t cvpTglatch cvpTglatchTGLAT i = true) ∧
      RegsBut (termReg g.val w.val :: cvpTglatch :: (List.range 8).map cvpSafests) s t ∧
      t.sig = { s.sig with traces := t.sig.traces } ∧ SameBut [.regs, .resp, .cvp, .sem, .sig] s t) := by
  have hl' : (rf s semTglock semTglockLOCK).testBit g.val = false := hl
  have hput : regPut s (if w.val < 2 then semTgen g.val w.val else semTgpr g.val) true v = termsWritten s g.val w.val v :=
    regPut_plain (regFind_termReg g w) (termDesc_clears w v)
  have hex : exec (.semTgmatrixWrite q g w v) s = .next (respond (tripSync (termsWritten s g.val w.val v)) 0) := by
    show ok (tgMatrixWrite s q g.val w.val v) = _
    rw [tgMatrixWrite, hl', if_neg Bool.false_ne_true, if_pos hq, hput]
    rfl
  have hterms := rd_termsWritten s g.val w v
  have hregs : RegsBut [termReg g.val w.val] s (termsWritten s g.val w.val v) := regsBut_wr s _ _
  have hparts : SameBut [.regs] s (termsWritten s g.val w.val v) := wr_sameBut s _ _
  have hsig : (termsWritten s g.val w.val v).sig = s.sig := rfl
  refine ⟨_, hex, rfl, ?_⟩
  generalize termsWritten s g.val w.val v = u at hterms hregs hparts hsig
  have hk := keepsTrips_tripSync u
  have hne : cvpTglatch ∉ [termReg g.val w.val] := fun h => absurd (List.mem_singleton.1 h) (Nat.ne_of_gt (termReg_lt g w.val))
  have hin {i : Nat} (hi : i < 16) (h : groupInput (tripSync u) i = true) : rbit (tripSync u) cvpTglatch cvpTglatchTGLAT i = true :=
    rbit_tripSync_of_groupInput u hi ((groupInput_tripSync u hi).symm.trans h)
  have hsig' : (tripSync u).sig = { s.sig with traces := (tripSync u).sig.traces } := hk.sig.trans (by rw [hsig])
  have hrd := hk.regs _ (semTg_notMem_groupRegs (termReg_lt g w.val))
  have hlat {i : Nat} (hi : i < 16) (h : rbit s cvpTglatch cvpTglatchTGLAT i = true) := hk.latches i hi ((hregs.rbit_eq hne _ i).trans h)
  have hkr := hk.regs
  have hkp := hk.parts
  clear hk
  generalize tripSync u = x at hin hsig' hrd hlat hkr hkp
  refine ⟨?_, fun i hi h => hin hi h, fun i hi h => hlat hi h, ?_, hsig', ?_⟩
  · exact (congrArg (· &&& termMask w.val) hrd).trans hterms
  · exact ((hregs.mono (by simp)).and hkr (fun x hx => List.mem_cons_of_mem _ hx)).and (regsBut_respond _ _ _)
      (fun _ hx => (nomatch hx))
  · exact ((hparts.mono (by decide) : SameBut [.regs, .resp, .cvp, .sem, .sig] s u).and hkp).and (respond_sameBut _ _ _)

theorem semTgmatrix_frozen {s : State} (q : Req) (g : Fin 16) (w : Fin 3) (v : Word) (hq : holdsType s q 4 = true)
    (hl : rbit s semTglock semTglockLOCK g.val = true) (hon : pdOn s 50 = true) : Runs (.semTgmatrixWrite q g w v) s (fun t => t.resp = ⟨0, 0⟩ ∧
      RegsAre [withFld s semSts semStsTGLOCKV 1] s t ∧ SameBut [.regs, .resp] s t) := by
  have hl' : (rf s semTglock semTglockLOCK).testBit g.val = true := hl
  have hex : exec (.semTgmatrixWrite q g w v) s = .next (respond (wb s semSts semStsTGLOCKV true) 0) := by
    show ok (tgMatrixWrite s q g.val w.val v) = _
    rw [tgMatrixWrite, if_pos hl', if_pos hon, if_pos hq]
    rfl
  exact ⟨_, hex, rfl, (regsAre_wb s semSts semStsTGLOCKV true).and (regsBut_respond _ _ _), ((wb_sameBut s _ _ _).mono (by decide)).and (respond_sameBut _ _ _)⟩

/-- Settles O35: one channel alone selects the producer, so the matrix routes its event once; a channel write changes its own register and the two bindings. -/
theorem eventMatrix : Obligations.EventMatrix := by
  unfold Obligations.EventMatrix
  refine ⟨fun s half p c r v => ⟨fun hf => ⟨fun hnone => ?_, fun hon honly => ?_⟩, fun hon => semSwev_result v hon⟩, fun s q n g w v b => ⟨fun hon => ?_,
    fun hq => semTglock_result q b hq, fun hq hl => semTgmatrix_written q g w v hq hl, fun hq hl hon => semTgmatrix_frozen q g w v hq hl hon⟩⟩
  · refine ⟨afterFired s r, (semEvent_exec half hf).trans (congrArg _ ?_), rfl, afterFired_sameBut s r⟩
    split
    · next hon =>
      rcases hnone with hoff | hnone
      · rw [hon] at hoff
        exact nomatch hoff
      · exact semRouteAll_none half hnone
    · rfl
  · have h : OneChannel s half p c r := ⟨hf, hon, honly.1, honly.2⟩
    refine ⟨fun hm => h.merged hm, fun hm => ⟨fun hc ha => h.trigger hm hc ha, fun hc ha => h.dropped hm (semDeliver_refused p half hc ha),
      fun h1 h2 => h.strobed hm h1 h2, fun h1 h2 => ⟨fun hk => h.flagged hm h1 h2 hk, fun hk => h.dropped hm ?_⟩, fun h1 h2 hk => h.dropped hm ?_,
      fun h1 h2 hk => h.traced hm h1 h2 hk, fun hc => h.ignored hm hc⟩⟩
    · exact (semDeliver_flag _ p half h1 h2).trans (if_neg (by rw [show pdOn (afterFired s r) _ = pdOn s _ from rfl, hk]; exact Bool.false_ne_true))
    · exact (semDeliver_trace _ p half h1 h2).trans (if_neg (by rw [show pdOn (afterFired s r) _ = pdOn s _ from rfl, hk]; exact Bool.false_ne_true))
  · exact ⟨fun h => semChcfgWrite_refused q n v hon h, ownv_mem_refusals s q n.val v, lockv_mem_refusals s q n.val v, secv_mem_refusals s q n.val v,
      fun h hb => semChcfgWrite_bound q n v hon h hb, fun h hb => semChcfgWrite_free q n v hon h hb⟩

end Sys2Proof.Machine

/-! The rack link: enabling, cycles and quorum (R402, R407, R408, R410, R411, R413, R416, R420). -/

namespace Sys2Proof.Machine

set_option Elab.async false

/-! Enabling (R407, R408). -/

theorem Fld.put_put (f : Fld) (h : f.fits = true) (w : Word) (a b : Nat) : f.put (f.put w a) b = f.put w b := by
  refine BitVec.eq_of_getLsbD_eq fun i _ => ?_
  rw [Fld.getLsbD_put f h, Fld.getLsbD_put f h, Fld.getLsbD_put f h]
  split <;> rfl

/-- A field that a supervisor writes holds what was written. -/
theorem get_plainMerge {d : RegDesc} (hd : d.fields.Pairwise FldDesc.apart ∧ ∀ f ∈ d.fields, f.fld.fits = true) {g : Fld}
    (hg : ∃ f ∈ d.fields, f.fld = g ∧ f.acc = .rwt) (old v : Word) : g.get (regMerge d old v true) = g.get v := by
  obtain ⟨f, hf, rfl, hacc⟩ := hg
  rw [get_regMerge hd.1 hd.2 old v true hf, hacc]
  rfl

/-- How RLK_CTRL and RLK_RING[k] are listed. -/
def rlkDesc (a : Nat) : RegDesc := (regTableRlk.find? (fun d => d.base == a)).getD ⟨"", 0, [], .por, .aon, 0, []⟩

theorem regFind_rlkCtrl : regFind rlkCtrl = some (rlkDesc rlkCtrl, []) := by decide +kernel

theorem regFind_rlkRing (k : Fin 4) : regFind (rlkRing k.val) = some (rlkDesc (rlkRing 0), [k.val]) := by
  revert k
  decide +kernel

theorem rlkDesc_fields : ∀ a ∈ [rlkCtrl, rlkRing 0], (rlkDesc a).fields.Pairwise FldDesc.apart ∧ ∀ f ∈ (rlkDesc a).fields, f.fld.fits = true := by
  decide +kernel

theorem rlkCtrl_fields : ∀ g ∈ [rlkCtrlEN, rlkCtrlSIDE, rlkCtrlLIMPN, rlkCtrlRTXN, rlkCtrlPER], ∃ f ∈ (rlkDesc rlkCtrl).fields, f.fld = g ∧ f.acc = .rwt := by
  decide +kernel

theorem rlkRing_fields : ∀ g ∈ [rlkRingEN, rlkRingNPOSM1, rlkRingDW, rlkRingUW], ∃ f ∈ (rlkDesc (rlkRing 0)).fields, f.fld = g ∧ f.acc = .rwt := by
  decide +kernel

/-- RLK_CTRL written. -/
def linkPut (s : State) (v : Word) : State := wr s rlkCtrl (regMerge (rlkDesc rlkCtrl) (rd s rlkCtrl) v true)

/-- The link as it is enabled: no epoch seen yet, and RLK_EPOCH as it stands in effect. -/
def linkOn (s : State) (v : Word) : State := onRlk (wf (linkPut s v) rlkMaxep rlkMaxepMAXSEEN 0) (fun r => { r with lat := rd s rlkEpoch })

theorem linkOn_spec (s : State) (v : Word) : (∀ f ∈ [rlkCtrlEN, rlkCtrlSIDE, rlkCtrlLIMPN, rlkCtrlRTXN, rlkCtrlPER], rf (linkOn s v) rlkCtrl f = f.get v) ∧
    rf (linkOn s v) rlkMaxep rlkMaxepMAXSEEN = 0 ∧ (linkOn s v).rlk = { s.rlk with lat := rd s rlkEpoch } ∧
    RegsBut [rlkCtrl, rlkMaxep] s (linkOn s v) ∧ SameBut [.regs, .rlk] s (linkOn s v) := by
  have hfld {f : Fld} (hf : f ∈ [rlkCtrlEN, rlkCtrlSIDE, rlkCtrlLIMPN, rlkCtrlRTXN, rlkCtrlPER]) : rf (linkPut s v) rlkCtrl f = f.get v := by
    rw [rf, linkPut, rd_wr_same]
    exact get_plainMerge (rlkDesc_fields _ (by decide)) (rlkCtrl_fields f hf) _ v
  have hr : RegsBut [rlkCtrl] s (linkPut s v) := regsBut_wr s _ _
  have hp : SameBut [.regs] s (linkPut s v) := wr_sameBut s _ _
  unfold linkOn
  generalize linkPut s v = u at hfld hr hp
  have hm := regsBut_wf u rlkMaxep rlkMaxepMAXSEEN 0
  have hz := rf_wf_same u rlkMaxep rlkMaxepMAXSEEN 0 rfl
  have hpm := wf_sameBut u rlkMaxep rlkMaxepMAXSEEN 0
  generalize wf u rlkMaxep rlkMaxepMAXSEEN 0 = w at hm hz hpm
  have hrlk : w.rlk = s.rlk := (hp.and hpm) .rlk (by decide)
  refine ⟨fun f hf => (hm.rf_eq (by decide) f).trans (hfld hf), hz, ?_, ((hr.mono (by simp)).and hm).and (fun _ _ => rfl : RegsBut [] _ _),
    ((hp.and hpm).mono (by decide)).and (rlk_sameBut w _)⟩
  show ({ w.rlk with lat := _ } : Rlk) = _
  rw [hrlk]

theorem roleSettled {t : State} (ht : roleOf t = 0) : (if roleRuns t || !pdOn t 47 then t else roleOff t) = t := by
  split
  · rfl
  · exact if_pos ht

theorem rlkEnable_exec {s : State} {q : Req} {v : Word} (hon : pdOn s 48 = true) (hq : holdsType s q otRack = true)
    (hen : rb s rlkCtrl rlkCtrlEN = false) (hrole : roleOf s = 0) (hv : rlkCtrlEN.get v = 1) :
    exec (.rlkEnable q v) s = .next (respond (linkOn s v) 0) := by
  have hw : regPut s rlkCtrl true v = linkPut s v := regPut_plain regFind_rlkCtrl rfl
  have hrole' : roleOf (linkOn s v) = 0 := ((linkOn_spec s v).2.2.2.1.rf_eq (by decide : mlkRole ∉ [rlkCtrl, rlkMaxep]) mlkRoleROLE).trans hrole
  have hone : (rlkCtrlEN.get v == 1) = true := by rw [hv]; rfl
  have hgo : rlkCtrlWrite s q v = respond (if (rlkCtrlEN.get v == 1) || rb (linkOn s v) rlkEpoch rlkEpochHOLD then
      (if roleRuns (linkOn s v) || !pdOn (linkOn s v) 47 then linkOn s v else roleOff (linkOn s v)) else
      setSend (if roleRuns (linkOn s v) || !pdOn (linkOn s v) 47 then linkOn s v else roleOff (linkOn s v)) []) 0 := by
    unfold rlkCtrlWrite
    simp only [hq, hone, hen, hw, Bool.not_true, Bool.not_false, Bool.and_self, Bool.true_or, Bool.false_eq_true, reduceIte]
    rfl
  show execRlkEnable q v s = _
  rw [execRlkEnable, if_pos hon, hgo, roleSettled hrole', hone, Bool.true_or, if_pos rfl]
  rfl

theorem rlkEnable_result {s : State} {q : Req} {v : Word} (hon : pdOn s 48 = true) (hq : holdsType s q otRack = true)
    (hen : rb s rlkCtrl rlkCtrlEN = false) (hrole : roleOf s = 0) (hv : rlkCtrlEN.get v = 1) : Runs (.rlkEnable q v) s (fun t => t.resp = ⟨0, 0⟩ ∧
      rb t rlkCtrl rlkCtrlEN = true ∧ (∀ f ∈ [rlkCtrlSIDE, rlkCtrlLIMPN, rlkCtrlRTXN, rlkCtrlPER], rf t rlkCtrl f = f.get v) ∧
      rf t rlkMaxep rlkMaxepMAXSEEN = 0 ∧ t.rlk = { s.rlk with lat := rd s rlkEpoch } ∧ RegsBut [rlkCtrl, rlkMaxep] s t ∧ SameBut [.regs, .rlk, .resp] s t) := by
  refine ⟨_, rlkEnable_exec hon hq hen hrole hv, rfl, ?_⟩
  obtain ⟨hfld, hmax, hrlk, hr, hp⟩ := linkOn_spec s v
  generalize linkOn s v = u at hfld hmax hrlk hr hp
  refine ⟨?_, fun f hf => hfld f (List.mem_cons_of_mem _ hf), hmax, hrlk, hr.and (regsBut_respond _ _ _) (fun _ hx => (nomatch hx)),
    (hp.mono (by decide)).and (respond_sameBut _ _ _)⟩
  show (rf u rlkCtrl rlkCtrlEN != 0) = true
  rw [hfld _ (by decide), hv]
  rfl

/-- The ring's register written with EN 0. -/
def ringSetup (s : State) (k : Nat) (v : Word) : State := regPut s (rlkRing k) true (rlkRingEN.put v 0)

theorem ringSetup_eq (s : State) (k : Fin 4) (v : Word) : ringSetup s k.val v =
    wr s (rlkRing k.val) (regMerge (rlkDesc (rlkRing 0)) (rd s (rlkRing k.val)) (rlkRingEN.put v 0) true) := regPut_plain (regFind_rlkRing k) rfl

theorem ringEnable_exec {s : State} {q : Req} (k : Fin 4) (v : Word) (hon : pdOn s 48 = true) (hq : holdsType s q otRack = true) :
    exec (.ringEnable q k v) s = .next (respond (if rb s (rlkRing k.val) rlkRingEN then wb s rlkSts rlkStsCFGV true
      else if ringOk (ringSetup s k.val v) k.val then wb (ringSetup s k.val v) (rlkRing k.val) rlkRingEN true
      else wb (ringSetup s k.val v) rlkSts rlkStsCFGERR true) 0) := by
  have hone : (rlkRingEN.get (rlkRingEN.put v 1) == 1) = true := by rw [Fld.get_put _ rfl]; rfl
  show execRingEnable q k v s = _
  rw [execRingEnable, if_pos hon, ringWrite2, hq, Bool.not_true, if_neg Bool.false_ne_true, hone, Fld.put_put _ rfl, ← ringSetup]
  dsimp only
  split <;> rfl

theorem rf_ringSetup (s : State) (k : Fin 4) (v : Word) {f : Fld} (hf : f ∈ [rlkRingEN, rlkRingNPOSM1, rlkRingDW, rlkRingUW]) :
    rf (ringSetup s k.val v) (rlkRing k.val) f = f.get (rlkRingEN.put v 0) := by
  rw [ringSetup_eq, rf, rd_wr_same]
  exact get_plainMerge (rlkDesc_fields _ (by decide)) (rlkRing_fields f hf) _ _

theorem ringSetup_frame (s : State) (k : Fin 4) (v : Word) : RegsBut [rlkRing k.val] s (ringSetup s k.val v) ∧ SameBut [.regs] s (ringSetup s k.val v) := by
  rw [ringSetup_eq]
  exact ⟨regsBut_wr _ _ _, wr_sameBut _ _ _⟩

theorem ringEnable_refused {s : State} {q : Req} (k : Fin 4) (v : Word) (hon : pdOn s 48 = true) (hq : holdsType s q otRack = true)
    (hen : rb s (rlkRing k.val) rlkRingEN = true) : Runs (.ringEnable q k v) s (fun t => t.resp = ⟨0, 0⟩ ∧ RegsAre [withFld s rlkSts rlkStsCFGV 1] s t ∧
      SameBut [.regs, .resp] s t) := by
  refine ⟨_, (ringEnable_exec k v hon hq).trans (by rw [hen, if_pos rfl]), rfl, (regsAre_wb s rlkSts rlkStsCFGV true).and (regsBut_respond _ _ _),
    ((wb_sameBut s _ _ _).mono (by decide)).and (respond_sameBut _ _ _)⟩

theorem ringEnable_enabled {s : State} {q : Req} (k : Fin 4) (v : Word) (hon : pdOn s 48 = true) (hq : holdsType s q otRack = true)
    (hen : rb s (rlkRing k.val) rlkRingEN = false) (hok : ringOk (ringSetup s k.val v) k.val = true) :
    Runs (.ringEnable q k v) s (fun t => t.resp = ⟨0, 0⟩ ∧ rb t (rlkRing k.val) rlkRingEN = true ∧
      (∀ f ∈ [rlkRingNPOSM1, rlkRingDW, rlkRingUW], rf t (rlkRing k.val) f = f.get v) ∧ RegsBut [rlkRing k.val] s t ∧ SameBut [.regs, .resp] s t) := by
  refine ⟨_, (ringEnable_exec k v hon hq).trans (by rw [hen, if_neg Bool.false_ne_true, hok, if_pos rfl]), rfl, ?_⟩
  have hfld {f : Fld} (hf : f ∈ [rlkRingEN, rlkRingNPOSM1, rlkRingDW, rlkRingUW]) := rf_ringSetup s k v hf
  obtain ⟨hr, hp⟩ := ringSetup_frame s k v
  generalize ringSetup s k.val v = u at hfld hr hp
  have hap : ∀ f ∈ [rlkRingNPOSM1, rlkRingDW, rlkRingUW], f.fits = true ∧ (rlkRingEN.hi < f.lo ∨ f.hi < rlkRingEN.lo) := by decide
  refine ⟨rb_wb_same u _ _ true rfl, fun f hf => ?_, (hr.and (regsBut_wb u _ _ _)).and (regsBut_respond _ _ _) (fun _ hx => (nomatch hx)),
    ((hp.and (wb_sameBut u _ _ _)).mono (by decide)).and (respond_sameBut _ _ _)⟩
  obtain ⟨hfit, happ⟩ := hap f hf
  calc rf (wb u (rlkRing k.val) rlkRingEN true) (rlkRing k.val) f
      = rf u (rlkRing k.val) f := rf_wb_apart u _ true rfl hfit happ
    _ = f.get (rlkRingEN.put v 0) := hfld (List.mem_cons_of_mem _ hf)
    _ = f.get v := Fld.get_put_apart rlkRingEN f rfl hfit happ v 0

theorem ringEnable_failed {s : State} {q : Req} (k : Fin 4) (v : Word) (hon : pdOn s 48 = true) (hq : holdsType s q otRack = true)
    (hen : rb s (rlkRing k.val) rlkRingEN = false) (hok : ringOk (ringSetup s k.val v) k.val = false) :
    Runs (.ringEnable q k v) s (fun t => t.resp = ⟨0, 0⟩ ∧ rb t (rlkRing k.val) rlkRingEN = false ∧
      rb t rlkSts rlkStsCFGERR = true ∧ RegsBut [rlkRing k.val, rlkSts] s t ∧ SameBut [.regs, .resp] s t) := by
  refine ⟨_, (ringEnable_exec k v hon hq).trans (by rw [hen, if_neg Bool.false_ne_true, hok, if_neg Bool.false_ne_true]), rfl, ?_⟩
  have hoff : rb (ringSetup s k.val v) (rlkRing k.val) rlkRingEN = false := by
    rw [rb, rf_ringSetup s k v (by decide), Fld.get_put _ rfl]
    rfl
  obtain ⟨hr, hp⟩ := ringSetup_frame s k v
  generalize ringSetup s k.val v = u at hoff hr hp
  have hne : rlkRing k.val ∉ [rlkSts] := by
    simp only [rlkRing, rlkSts, List.mem_singleton]
    omega
  exact ⟨((regsBut_wb u rlkSts rlkStsCFGERR true).rb_eq hne _).trans hoff, rb_wb_same u _ _ true rfl,
    ((hr.mono (by simp)).and (regsBut_wb u _ _ _)).and (regsBut_respond _ _ _) (fun _ hx => (nomatch hx)),
    ((hp.and (wb_sameBut u _ _ _)).mono (by decide)).and (respond_sameBut _ _ _)⟩

/-! A cycle's frames (R401 to R407). -/

/-- `t` is `s` but for the send table and the frames of the link. -/
structure KeepsLink (s t : State) : Prop where
  parts : SameBut [.rlk] s t
  rlk : t.rlk = { s.rlk with send := t.rlk.send, frames := t.rlk.frames }
  empty : s.rlk.send = [] → t.rlk.send = []

theorem KeepsLink.refl (s : State) : KeepsLink s s := ⟨SameBut.refl _ s, rfl, fun h => h⟩

theorem KeepsLink.trans {s t u : State} (h : KeepsLink s t) (k : KeepsLink t u) : KeepsLink s u :=
  ⟨h.parts.and k.parts, by rw [k.rlk, h.rlk], fun he => k.empty (h.empty he)⟩

theorem KeepsLink.regs {s t : State} (h : KeepsLink s t) : RegsBut [] s t := regsBut_of_sameBut h.parts (by decide) (by decide) (by decide)

theorem ringDw_congr {s t : State} (h : RegsBut [] s t) (k : Nat) : ringDw t k = ringDw s k := h.rf_eq List.not_mem_nil _

theorem ringUw_congr {s t : State} (h : RegsBut [] s t) (k : Nat) : ringUw t k = ringUw s k := h.rf_eq List.not_mem_nil _

theorem ringNpos_congr {s t : State} (h : RegsBut [] s t) (k : Nat) : ringNpos t k = ringNpos s k := by
  rw [ringNpos, h.rf_eq List.not_mem_nil, ringNpos]

theorem ringW_congr {s t : State} (h : RegsBut [] s t) (k : Nat) : ringW t k = ringW s k := by
  rw [ringW, ringNpos_congr h, ringDw_congr h, ringUw_congr h, ringW]

theorem frameHeader_congr {s t : State} (h : RegsBut [] s t) (k : Nat) (stamp : Word) : frameHeader t k stamp = frameHeader s k stamp := by
  have hper : rlkPer t = rlkPer s := by rw [rlkPer, h.rf_eq List.not_mem_nil, rlkPer]
  rw [frameHeader, ringNpos_congr h, ringDw_congr h, ringUw_congr h, hper, h.rf_eq List.not_mem_nil, h.rf_eq List.not_mem_nil, frameHeader]

theorem frameHeader_length (s : State) (k : Nat) (stamp : Word) : (frameHeader s k stamp).length = 4 := rfl

theorem slotEntries_length (s : State) (k u : Nat) : (slotEntries s k u).length ≤ (ringDw s k - 3) / 2 := by
  unfold slotEntries
  dsimp only
  split
  · exact Nat.zero_le _
  · exact List.length_take_le _ _

theorem downSlot_length {s : State} {k : Nat} (u : Nat) (stamp : Word) {es : List SendEnt} (h3 : 3 ≤ ringDw s k) (hes : es.length ≤ (ringDw s k - 3) / 2) :
    (downSlot s k u stamp es).length = ringDw s k := by
  have hitems : (es.flatMap (fun e => itemWords 1 e.tag 0 e.lidx e.val)).length = 2 * es.length := by
    rw [List.length_flatMap]
    show (es.map (fun _ => 2)).sum = _
    rw [List.map_const', List.sum_replicate, smul_eq_mul, Nat.mul_comm]
  rw [downSlot, sealed, List.length_append, List.length_append, List.length_append, List.length_replicate, hitems]
  simp only [List.length_cons, List.length_nil]
  omega

theorem upFill_length {s : State} {k : Nat} (u : Nat) (stamp : Word) (h : 6 ≤ ringUw s k) : (upFill s k u stamp).length = ringUw s k := by
  rw [upFill, sealed, List.length_append, List.length_cons, List.length_replicate, List.length_singleton]
  omega

/-- The entries of a slot become SENT in the cycle of `o`, the state in which the frame was begun. -/
def slotSent (o t : State) (k p : Nat) : State :=
  setSend t (t.rlk.send.map (fun e => if (slotEntries t k (unitAt o k p)).contains e then { e with sent := some o.rlk.cyc, retx := false } else e))

/-- What the slots of one position add to the frame, where shared memory delivers every entry in time. -/
def slotStep (o : State) (k : Nat) (stamp : Word) : List Word × State → Nat → List Word × State := fun a p =>
  (a.1 ++ downSlot (slotSent o a.2 k p) k (unitAt o k p) stamp (slotEntries a.2 k (unitAt o k p)) ++
    upFill (slotSent o a.2 k p) k (unitAt o k p) stamp, slotSent o a.2 k p)

theorem keepsLink_slotSent (o t : State) (k p : Nat) : KeepsLink t (slotSent o t k p) :=
  ⟨rlk_sameBut t _, rfl, fun h => by rw [slotSent, setSend, h]; rfl⟩

/-- A frame as far as it is formed: its header, then the slots of n positions. -/
structure FrameUpTo (s : State) (k : Nat) (stamp : Word) (n : Nat) (a : List Word × State) : Prop where
  keeps : KeepsLink s a.2
  frames : a.2.rlk.frames = s.rlk.frames
  header : a.1.take 4 = frameHeader s k stamp
  length : a.1.length = 4 + n * (ringDw s k + ringUw s k)

theorem frameUpTo_foldl {s : State} {k : Nat} (o : State) (stamp : Word) (h3 : 3 ≤ ringDw s k) (h6 : 6 ≤ ringUw s k) (n : Nat) :
    FrameUpTo s k stamp n ((List.range n).foldl (slotStep o k stamp) (frameHeader s k stamp, s)) := by
  induction n with
  | zero => exact ⟨KeepsLink.refl s, rfl, rfl, by rw [Nat.zero_mul]; rfl⟩
  | succ n ih =>
    rw [List.range_succ, List.foldl_concat]
    generalize (List.range n).foldl (slotStep o k stamp) (frameHeader s k stamp, s) = a at ih
    obtain ⟨hk, hf, hh, hl⟩ := ih
    have hk' := hk.trans (keepsLink_slotSent o a.2 k n)
    have hdown := downSlot_length (s := slotSent o a.2 k n) (k := k) (unitAt o k n) stamp (es := slotEntries a.2 k (unitAt o k n))
      (by rw [ringDw_congr hk'.regs]; exact h3) (by rw [ringDw_congr hk'.regs, ← ringDw_congr hk.regs]; exact slotEntries_length _ _ _)
    have hup := upFill_length (s := slotSent o a.2 k n) (k := k) (unitAt o k n) stamp (by rw [ringUw_congr hk'.regs]; exact h6)
    rw [ringDw_congr hk'.regs] at hdown
    rw [ringUw_congr hk'.regs] at hup
    refine ⟨hk', hf, ?_, ?_⟩
    · rw [slotStep, List.append_assoc, List.take_append_of_le_length (by omega)]
      exact hh
    · rw [slotStep, List.length_append, List.length_append, hdown, hup, hl, Nat.add_mul]
      omega

/-- The frame that ring k gets. -/
def frameMade (s : State) (k : Nat) (stamp : Word) : List Word × State :=
  (List.range (ringNpos s k)).foldl (slotStep s k stamp) (frameHeader s k stamp, s)

theorem formFrame_eq (s : State) (k : Nat) (stamp : Word) : formFrame s k stamp [] =
    onRlk (frameMade s k stamp).2 (fun x => { x with frames := x.frames ++ [(k, (frameMade s k stamp).1)] }) := by
  have hlate (t : State) : lateItems t 0 = t := if_pos rfl
  unfold formFrame frameMade slotStep slotSent
  simp only [List.any_nil, Bool.false_eq_true, reduceIte, Nat.sub_self, hlate]

theorem formFrame_spec {s : State} {k : Nat} (stamp : Word) (h3 : 3 ≤ ringDw s k) (h6 : 6 ≤ ringUw s k) :
    KeepsLink s (formFrame s k stamp []) ∧ ∃ f : List Word, (formFrame s k stamp []).rlk.frames = s.rlk.frames ++ [(k, f)] ∧
      f.take 4 = frameHeader s k stamp ∧ f.length = ringW s k := by
  obtain ⟨hk, hf, hh, hl⟩ := frameUpTo_foldl s stamp h3 h6 (ringNpos s k)
  rw [← frameMade] at hk hf hh hl
  rw [formFrame_eq]
  refine ⟨hk.trans ⟨rlk_sameBut _ _, rfl, fun h => h⟩, _, ?_, hh, hl⟩
  show (frameMade s k stamp).2.rlk.frames ++ _ = _
  rw [hf]

/-- The frames of several rings. -/
theorem framesFormed {stamp : Word} (l : List Nat) (s : State) (h : ∀ j ∈ l, 3 ≤ ringDw s j ∧ 6 ≤ ringUw s j) :
    KeepsLink s (l.foldl (fun t k => formFrame t k stamp []) s) ∧
    ∃ fs : List (Nat × List Word), (l.foldl (fun t k => formFrame t k stamp []) s).rlk.frames = s.rlk.frames ++ fs ∧ fs.map Prod.fst = l ∧
      ∀ p ∈ fs, p.2.take 4 = frameHeader s p.1 stamp ∧ p.2.length = ringW s p.1 := by
  induction l generalizing s with
  | nil => exact ⟨KeepsLink.refl s, [], (List.append_nil _).symm, rfl, fun _ hp => (nomatch hp)⟩
  | cons k l ih =>
    obtain ⟨hk, f, hf, hh, hl⟩ := formFrame_spec stamp (h k List.mem_cons_self).1 (h k List.mem_cons_self).2
    rw [List.foldl_cons]
    generalize formFrame s k stamp [] = u at hk hf
    obtain ⟨hku, fs, hfs, hmap, hall⟩ := ih u (fun j hj => by
      rw [ringDw_congr hk.regs, ringUw_congr hk.regs]
      exact h j (List.mem_cons_of_mem _ hj))
    refine ⟨hk.trans hku, (k, f) :: fs, by rw [hfs, hf, List.append_assoc]; rfl, by rw [List.map_cons, hmap], fun p hp => ?_⟩
    rcases List.mem_cons.1 hp with rfl | hp
    · exact ⟨hh, hl⟩
    · rw [← frameHeader_congr hk.regs, ← ringW_congr hk.regs]
      exact hall p hp

/-- The rings that are enabled. -/
def ringsOn (s : State) : List Nat := (List.range 4).filter (fun k => rb s (rlkRing k) rlkRingEN)

/-- A new cycle, before its frames are formed. -/
def cycleOpened (s : State) : State := onRlk s (fun r => { r with
  cyc := r.cyc + 1, start := some s.port, lat := rd s rlkEpoch, frames := [], began := [], bad := [], counts := [], ups := [], seen := [],
  live := ringsOn s, send := if rlkEpochHOLD.get (rd s rlkEpoch) = 0 then [] else r.send })

theorem cycleStart_exec {s : State} (hon : pdOn s 48 = true) (hrun : s.running = true) (hen : rb s rlkCtrl rlkCtrlEN = true) (hst : s.rlk.start = none)
    (hep : s.rlk.epAt ≠ s.port + 1) (ht : ((btime s).toNat + rlkPer s - rf s rlkPhase rlkPhasePHASE % rlkPer s) % rlkPer s = 0) :
    exec (.rlkCycleStart []) s = .next (semFire ((ringsOn s).foldl (fun t k => formFrame t k (btime s) []) (cycleOpened s)) 0x002) := by
  show execRlkCycleStart [] s = _
  unfold execRlkCycleStart
  simp only [hon, hrun, hen, hst, ht, Option.isNone_none, beq_self_eq_true, Bool.and_self, Bool.not_true, Bool.false_eq_true, reduceIte, if_neg hep]
  rfl

theorem cycleStart_result {s : State} (hon : pdOn s 48 = true) (hrun : s.running = true) (hen : rb s rlkCtrl rlkCtrlEN = true) (hst : s.rlk.start = none)
    (hep : s.rlk.epAt ≠ s.port + 1) (ht : ((btime s).toNat + rlkPer s - rf s rlkPhase rlkPhasePHASE % rlkPer s) % rlkPer s = 0)
    (hw : ∀ j ∈ ringsOn s, 3 ≤ ringDw s j ∧ 6 ≤ ringUw s j) : Runs (.rlkCycleStart []) s (fun t =>
      t.rlk.start = some s.port ∧ t.rlk.cyc = s.rlk.cyc + 1 ∧ t.rlk.lat = rd s rlkEpoch ∧ t.rlk.live = ringsOn s ∧
      (rlkEpochHOLD.get (rd s rlkEpoch) = 0 → t.rlk.send = []) ∧ t.rlk.frames.map Prod.fst = ringsOn s ∧
      (∀ p ∈ t.rlk.frames, p.2.take 4 = frameHeader s p.1 (btime s) ∧ p.2.length = ringW s p.1) ∧ Fires [0x002] s t ∧ SameBut [.rlk, .sem] s t) := by
  refine ⟨_, cycleStart_exec hon hrun hen hst hep ht, ?_⟩
  have hr : RegsBut [] s (cycleOpened s) := fun _ _ => rfl
  have hp : SameBut [.rlk] s (cycleOpened s) := rlk_sameBut s _
  obtain ⟨hk, fs, hfs, hmap, hall⟩ := framesFormed (stamp := btime s) (ringsOn s) (cycleOpened s) (fun j hj => hw j hj)
  have hrlk : (cycleOpened s).rlk.start = some s.port ∧ (cycleOpened s).rlk.cyc = s.rlk.cyc + 1 ∧ (cycleOpened s).rlk.lat = rd s rlkEpoch ∧
      (cycleOpened s).rlk.live = ringsOn s ∧ (cycleOpened s).rlk.frames = [] ∧
      (cycleOpened s).rlk.send = if rlkEpochHOLD.get (rd s rlkEpoch) = 0 then [] else s.rlk.send := ⟨rfl, rfl, rfl, rfl, rfl, rfl⟩
  generalize cycleOpened s = u at hr hp hk hfs hall hrlk
  generalize (ringsOn s).foldl (fun t k => formFrame t k (btime s) []) u = w at hk hfs
  obtain ⟨hstart, hcyc, hlat, hlive, hframes, hsend⟩ := hrlk
  have hfs' : w.rlk.frames = fs := by rw [hfs, hframes, List.nil_append]
  have hsw : SameBut [.rlk] s w := hp.and hk.parts
  refine ⟨?_, ?_, ?_, ?_, fun h0 => hk.empty (hsend.trans (if_pos h0)), ?_, ?_,
    fires_of_semFire (l := []) (regsBut_of_sameBut hsw (by decide) (by decide) (by decide)) (fun _ _ => List.not_mem_nil)
      (fun d hd => by obtain rfl := Option.some.inj hd; decide) (hsw .sem (by decide)) (hsw .port (by decide)),
    (hsw.mono (by decide)).and ((semFire_sameBut w _).mono (by decide) : SameBut [.rlk, .sem] _ _)⟩
  · show w.rlk.start = _
    rw [hk.rlk, ← hstart]
  · show w.rlk.cyc = _
    rw [hk.rlk, ← hcyc]
  · show w.rlk.lat = _
    rw [hk.rlk, ← hlat]
  · show w.rlk.live = _
    rw [hk.rlk, ← hlive]
  · show w.rlk.frames.map Prod.fst = _
    rw [hfs', hmap]
  · show ∀ p ∈ w.rlk.frames, _
    rw [hfs']
    exact fun p hp => ⟨(hall p hp).1.trans (frameHeader_congr hr _ _), (hall p hp).2.trans (ringW_congr hr _)⟩

/-! Frames that come back (R410). -/

/-- Ring k's frame has begun to come back. -/
def frameBegun (s : State) (k : Nat) : State := onRlk s (fun r => { r with began := k :: r.began })

section
variable {s : State} {k : Fin 4} {hdr : List Word} {c : Nat} (hlive : pdLive s 48 = true) (hrun : s.running = true) (hst : s.rlk.start = some c)
  (hopen : frameOpen s k.val = true)
include hlive hrun hopen

theorem frameReturn_aborted : Runs (.frameReturn k hdr true true) s (fun t => k.val ∈ t.rlk.bad ∧
    RegsAre [withFld s (rlkRsts k.val) rlkRstsFRAMEERR 1] s t ∧ SameBut [.rlk, .regs] s t) := by
  have hex : exec (.frameReturn k hdr true true) s = .next (frameBad (frameBegun s k.val) k.val) := by
    show execFrameReturn k hdr true true s = _
    unfold execFrameReturn
    simp only [hlive, hrun, hopen, Bool.and_self, Bool.not_true, Bool.false_eq_true, reduceIte]
    rfl
  refine ⟨_, hex, List.mem_cons_self, (regsAre_wb (frameBegun s k.val) _ rlkRstsFRAMEERR true).and (fun _ _ => rfl), ?_⟩
  exact (((rlk_sameBut s _).mono (by decide) : SameBut [.rlk, .regs] s (frameBegun s k.val)).and (wb_sameBut _ _ _ _)).and (rlk_sameBut _ _)

include hst

theorem frameReturn_counts (hh : (s.rlk.frames.find? (fun p => p.1 == k.val)).map (fun p => p.2.take 4) = some hdr) (ht : s.port - c + 32 ≤ rlkPer s) :
    Runs (.frameReturn k hdr true false) s (fun t => k.val ∈ t.rlk.counts ∧
      RegsAre [withFld s (rlkRsts k.val) rlkRstsRTT (s.port - c)] s t ∧ SameBut [.rlk, .regs] s t) := by
  have hex : exec (.frameReturn k hdr true false) s = .next (wf (onRlk (frameBegun s k.val) (fun r => { r with counts := k.val :: r.counts }))
      (rlkRsts k.val) rlkRstsRTT (s.port - c)) := by
    show execFrameReturn k hdr true false s = _
    unfold execFrameReturn
    simp only [hlive, hrun, hopen, hh, hst, ht, Option.getD_some, Bool.and_self, Bool.not_true, Bool.false_eq_true, reduceIte, ne_eq, not_true_eq_false, decide_true]
    rfl
  refine ⟨_, hex, List.mem_cons_self, regsAre_wf (onRlk (frameBegun s k.val) (fun r => { r with counts := k.val :: r.counts })) _ rlkRstsRTT _, ?_⟩
  exact (((rlk_sameBut s _).mono (by decide) : SameBut [.rlk, .regs] s (frameBegun s k.val)).and (rlk_sameBut _ _)).and (wf_sameBut _ _ _ _)

end

/-! The end of a cycle (R410, R411, R413, R416, R420). -/

/-- The registers that a ring's check writes. -/
def ringRegs : List Nat := (List.range 4).map rlkRcnt ++ (List.range 4).map rlkRsts

theorem rcnt_mem {j : Nat} (hj : j < 4) : rlkRcnt j ∈ ringRegs := List.mem_append_left _ (List.mem_map_of_mem (List.mem_range.2 hj))

theorem rsts_mem {j : Nat} (hj : j < 4) : rlkRsts j ∈ ringRegs := List.mem_append_right _ (List.mem_map_of_mem (List.mem_range.2 hj))

/-- What the flags of ring j say of its frame. -/
def RingSaid (s t : State) (j : Nat) : Prop := j ∉ s.rlk.counts →
  (j ∉ s.rlk.began → rb t (rlkRsts j) rlkRstsNOFRAME = true) ∧ (j ∈ s.rlk.began → j ∉ s.rlk.bad → rb t (rlkRsts j) rlkRstsLATE = true)

/-- `t` keeps all but registers of `l`, and no flag of a ring that was set is clear. -/
structure KeepsFlags (s t : State) : Prop where
  regs : RegsBut ringRegs s t
  parts : SameBut [.regs] s t
  flags : ∀ j, ∀ f ∈ [rlkRstsNOFRAME, rlkRstsLATE], rb s (rlkRsts j) f = true → rb t (rlkRsts j) f = true

theorem KeepsFlags.refl (s : State) : KeepsFlags s s := ⟨RegsBut.refl _ s, SameBut.refl _ s, fun _ _ _ h => h⟩

theorem KeepsFlags.trans {s t u : State} (h : KeepsFlags s t) (k : KeepsFlags t u) : KeepsFlags s u :=
  ⟨h.regs.and k.regs (fun _ ha => ha), h.parts.and k.parts, fun j f hf hs => k.flags j f hf (h.flags j f hf hs)⟩

theorem rcnt_ne_rsts (i j : Nat) : rlkRsts j ≠ rlkRcnt i := by
  simp only [rlkRsts, rlkRcnt, ne_eq]
  omega

theorem keepsFlags_badcyc (s : State) {k : Nat} (hk : k < 4) : KeepsFlags s (inc s (rlkRcnt k) rlkRcntBADCYC) :=
  ⟨(regsBut_inc s _ _ 1).mono (fun a ha => List.mem_singleton.1 ha ▸ rcnt_mem hk), inc_sameBut s _ _ 1,
    fun j f _ hs => ((regsBut_inc s _ _ 1).rb_eq (by simpa using rcnt_ne_rsts k j) f).trans hs⟩

theorem keepsFlags_flag (s : State) {k : Nat} (hk : k < 4) {f : Fld} (hf : f ∈ [rlkRstsNOFRAME, rlkRstsLATE]) : KeepsFlags s (wb s (rlkRsts k) f true) := by
  refine ⟨(regsBut_wb s _ f true).mono (fun a ha => List.mem_singleton.1 ha ▸ rsts_mem hk), wb_sameBut s _ f true, fun j g hg hs => ?_⟩
  by_cases hj : j = k
  · subst hj
    obtain ⟨hff, hgf, hap⟩ := (by decide : ∀ f ∈ [rlkRstsNOFRAME, rlkRstsLATE], ∀ g ∈ [rlkRstsNOFRAME, rlkRstsLATE],
      f.fits = true ∧ g.fits = true ∧ (f = g ∨ f.hi < g.lo ∨ g.hi < f.lo)) f hf g hg
    rcases hap with rfl | hap
    · exact rb_wb_same s _ f true hff
    · exact (rb_wb_apart s _ f g true hff hgf hap).trans hs
  · refine ((regsBut_wb s _ f true).rb_eq (fun hm => hj ?_) g).trans hs
    have := List.mem_singleton.1 hm
    simp only [rlkRsts] at this
    omega

theorem ringEndCheck_spec (s : State) {k : Nat} (hk : k < 4) : KeepsFlags s (ringEndCheck s k) ∧ RingSaid s (ringEndCheck s k) k := by
  have h1 := keepsFlags_badcyc s hk
  unfold ringEndCheck RingSaid
  dsimp only
  by_cases hc : k ∈ s.rlk.counts
  · rw [if_pos (List.contains_iff_mem.2 hc)]
    exact ⟨KeepsFlags.refl s, fun h => absurd hc h⟩
  · rw [if_neg (fun h => hc (List.contains_iff_mem.1 h))]
    generalize inc s (rlkRcnt k) rlkRcntBADCYC = u at h1
    split
    · next hb =>
      refine ⟨h1.trans (keepsFlags_flag u hk (by decide)), fun _ => ⟨fun _ => rb_wb_same u _ _ true rfl, fun hm => ?_⟩⟩
      rw [List.contains_iff_mem.2 hm] at hb
      exact nomatch hb
    · next hb =>
      have hm : k ∈ s.rlk.began := by simpa using hb
      split
      · next hbad => exact ⟨h1, fun _ => ⟨fun hn => absurd hm hn, fun _ hn => absurd (List.contains_iff_mem.1 hbad) hn⟩⟩
      · exact ⟨h1.trans (keepsFlags_flag u hk (by decide)), fun _ => ⟨fun hn => absurd hm hn, fun _ _ => rb_wb_same u _ _ true rfl⟩⟩

theorem ringEndChecks_spec (l : List Nat) (s : State) (h : ∀ j ∈ l, j < 4) :
    KeepsFlags s (l.foldl ringEndCheck s) ∧ ∀ j ∈ l, RingSaid s (l.foldl ringEndCheck s) j := by
  induction l generalizing s with
  | nil => exact ⟨KeepsFlags.refl s, fun _ hj => (nomatch hj)⟩
  | cons k l ih =>
    obtain ⟨hk, hsaid⟩ := ringEndCheck_spec s (h k List.mem_cons_self)
    rw [List.foldl_cons]
    generalize ringEndCheck s k = u at hk hsaid
    obtain ⟨hl, hall⟩ := ih u (fun j hj => h j (List.mem_cons_of_mem _ hj))
    have hrlk : u.rlk = s.rlk := hk.parts .rlk (by decide)
    refine ⟨hk.trans hl, fun j hj => ?_⟩
    rcases List.mem_cons.1 hj with rfl | hj
    · exact fun hc => ⟨fun hb => hl.flags j _ (by decide) ((hsaid hc).1 hb), fun hb hn => hl.flags j _ (by decide) ((hsaid hc).2 hb hn)⟩
    · have := hall j hj
      rw [RingSaid, hrlk] at this
      exact this

/-- The register of a unit at the end of a cycle: valid with no miss, or not valid. -/
def UnitSaid (s t : State) (w : Nat) : Prop := (validUp s w = none → rb t (rlkUsts w) rlkUstsVALID = false) ∧
  ∀ x, validUp s w = some x → rb t (rlkUsts w) rlkUstsVALID = true ∧ rf t (rlkUsts w) rlkUstsMISS = 0

theorem ustsEnd_spec (s : State) (w : Nat) : RegsBut [rlkUsts w] s (ustsEnd s w) ∧ SameBut [.regs] s (ustsEnd s w) ∧ UnitSaid s (ustsEnd s w) w := by
  unfold ustsEnd UnitSaid
  dsimp only
  cases hv : validUp s w with
  | none =>
    refine ⟨(regsBut_inc s _ rlkUstsMISS 1).and (regsBut_wb _ _ _ _), (inc_sameBut s _ rlkUstsMISS 1).and (wb_sameBut _ _ _ _), fun _ => rb_wb_same _ _ _ _ rfl,
      fun x hx => (nomatch hx)⟩
  | some x =>
    have hr := (regsBut_wf s (rlkUsts w) rlkUstsMISS 0).and (regsBut_wb _ (rlkUsts w) rlkUstsVALID true)
    have hp := (wf_sameBut s (rlkUsts w) rlkUstsMISS 0).and (wb_sameBut _ (rlkUsts w) rlkUstsVALID true)
    have hvalid := rb_wb_same (wf s (rlkUsts w) rlkUstsMISS 0) (rlkUsts w) rlkUstsVALID true rfl
    have hmiss : rf (wb (wf s (rlkUsts w) rlkUstsMISS 0) (rlkUsts w) rlkUstsVALID true) (rlkUsts w) rlkUstsMISS = 0 :=
      (rf_wb_apart _ _ true rfl rfl (by decide)).trans (rf_wf_same s _ _ _ rfl)
    dsimp only
    generalize wb (wf s (rlkUsts w) rlkUstsMISS 0) (rlkUsts w) rlkUstsVALID true = u at hr hp hvalid hmiss
    refine ⟨((hr.and (regsBut_wf u _ _ _)).and (regsBut_wf _ _ _ _)).and (regsBut_wf _ _ _ _), ((hp.and (wf_sameBut u _ _ _)).and (wf_sameBut _ _ _ _)).and (wf_sameBut _ _ _ _),
      fun hn => (nomatch hn), fun _ _ => ⟨?_, ?_⟩⟩
    · rw [rb_wf_apart _ _ _ _ _ rfl rfl (by decide), rb_wf_apart _ _ _ _ _ rfl rfl (by decide), rb_wf_apart _ _ _ _ _ rfl rfl (by decide), hvalid]
    · rw [rf_wf_apart _ _ _ _ _ rfl rfl (by decide), rf_wf_apart _ _ _ _ _ rfl rfl (by decide), rf_wf_apart _ _ _ _ _ rfl rfl (by decide), hmiss]

theorem validUp_congr {s t : State} (h : t.rlk = s.rlk) (w : Nat) : validUp t w = validUp s w := by rw [validUp, h, validUp]

theorem ustsEnds_spec {l : List Nat} (hn : l.Nodup) (s : State) : RegsBut (l.map rlkUsts) s (l.foldl ustsEnd s) ∧ SameBut [.regs] s (l.foldl ustsEnd s) ∧
    ∀ w ∈ l, UnitSaid s (l.foldl ustsEnd s) w := by
  induction l generalizing s with
  | nil => exact ⟨RegsBut.refl _ s, SameBut.refl _ s, fun _ hw => (nomatch hw)⟩
  | cons k l ih =>
    obtain ⟨hkl, hl⟩ := List.nodup_cons.1 hn
    obtain ⟨hr, hp, hsaid⟩ := ustsEnd_spec s k
    rw [List.foldl_cons]
    generalize ustsEnd s k = u at hr hp hsaid
    obtain ⟨hr', hp', hall⟩ := ih hl u
    have hrlk : u.rlk = s.rlk := hp .rlk (by decide)
    refine ⟨(hr.mono (by simp)).and hr' (fun a ha => List.mem_cons_of_mem _ ha), hp.and hp', fun w hw => ?_⟩
    rcases List.mem_cons.1 hw with rfl | hw
    · have hne : rlkUsts w ∉ l.map rlkUsts := fun hm => by
        obtain ⟨x, hx, he⟩ := List.mem_map.1 hm
        exact hkl (Nat.add_left_cancel he ▸ hx)
      exact ⟨fun h => (hr'.rb_eq hne _).trans (hsaid.1 h), fun x hx => ⟨(hr'.rb_eq hne _).trans (hsaid.2 x hx).1, (hr'.rf_eq hne _).trans (hsaid.2 x hx).2⟩⟩
    · have := hall w hw
      rw [UnitSaid, validUp_congr hrlk] at this
      exact this

theorem retransmit_spec (s : State) : RegsBut [rlkCnt] s (retransmit s) ∧ SameBut [.rlk, .regs] s (retransmit s) ∧ (retransmit s).rlk.lat = s.rlk.lat := by
  unfold retransmit
  dsimp only
  split
  · exact ⟨fun _ _ => rfl, (rlk_sameBut s _).mono (by decide), rfl⟩
  · exact ⟨regsBut_inc (setSend s _) _ _ _, ((rlk_sameBut s _).mono (by decide) : SameBut [.rlk, .regs] s (setSend s _)).and (inc_sameBut _ _ _ _), rfl⟩

theorem peerCount_spec (s : State) (ups : List Uplink) : RegsBut [rlkPeer, rlkSts] s (peerCount s ups) ∧ SameBut [.rlk, .regs] s (peerCount s ups) ∧
    (peerCount s ups).rlk.lat = s.rlk.lat := by
  have hsilent (t : State) (c : Prop) [Decidable c] : RegsBut [rlkPeer] t (if c then inc t rlkPeer rlkPeerSILENT else wf t rlkPeer rlkPeerSILENT 0) ∧
      SameBut [.regs] t (if c then inc t rlkPeer rlkPeerSILENT else wf t rlkPeer rlkPeerSILENT 0) := by
    split
    · exact ⟨regsBut_inc t _ _ 1, inc_sameBut t _ _ 1⟩
    · exact ⟨regsBut_wf t _ _ _, wf_sameBut t _ _ _⟩
  unfold peerCount
  dsimp only
  generalize (ups.filter (fun x => s.rlk.echop.any (fun p => p.1 == x.unit && p.2 != x.echop))).length = n
  have h1 : RegsBut [] s (onRlk s (fun r => { r with echop := r.echop.filter (fun p => !ups.any (fun x => x.unit == p.1)) ++ ups.map (fun x => (x.unit, x.echop)) })) :=
    fun _ _ => rfl
  have h2 : SameBut [.rlk] s (onRlk s (fun r => { r with echop := r.echop.filter (fun p => !ups.any (fun x => x.unit == p.1)) ++ ups.map (fun x => (x.unit, x.echop)) })) :=
    rlk_sameBut s _
  have h3 : (onRlk s (fun r => { r with echop := r.echop.filter (fun p => !ups.any (fun x => x.unit == p.1)) ++ ups.map (fun x => (x.unit, x.echop)) })).rlk.lat =
    s.rlk.lat := rfl
  generalize onRlk s (fun r => { r with echop := r.echop.filter (fun p => !ups.any (fun x => x.unit == p.1)) ++ ups.map (fun x => (x.unit, x.echop)) }) = u at h1 h2 h3
  have hr := regsBut_wf u rlkPeer rlkPeerPLIVE n
  have hp := wf_sameBut u rlkPeer rlkPeerPLIVE n
  generalize wf u rlkPeer rlkPeerPLIVE n = w at hr hp
  obtain ⟨hr', hp'⟩ := hsilent w (n = 0)
  generalize (if n = 0 then inc w rlkPeer rlkPeerSILENT else wf w rlkPeer rlkPeerSILENT 0) = x at hr' hp'
  have hend : SameBut [.regs] u (wb x rlkSts rlkStsPEERSILENT (3 ≤ rf x rlkPeer rlkPeerSILENT)) := (hp.and hp').and (wb_sameBut _ _ _ _)
  refine ⟨?_, (h2.mono (by decide)).and hend, (congrArg Rlk.lat (hend .rlk (by decide))).trans h3⟩
  exact (((h1.mono (fun _ hx => (nomatch hx))).and (hr.mono (by simp)) (fun _ hx => hx)).and hr').and (regsBut_wb x _ _ _)

/-- Who acknowledged the block's epoch, of the valid uplinks. -/
def acked (s : State) (ups : List Uplink) : Nat :=
  (ups.filter (fun x => x.aepoch == rlkEpochEPOCH.get s.rlk.lat && x.aholder == rf s rlkCtrl rlkCtrlSIDE)).length

/-- The counts of liveness. -/
def authCounted (s : State) (acc n : Nat) : State := wf (wf s rlkAuth rlkAuthACC acc) rlkAuth rlkAuthLIVE n

theorem authCounted_spec {s : State} {acc n : Nat} (ha : acc < 1024) (hn : n < 1024) : rf (authCounted s acc n) rlkAuth rlkAuthACC = acc ∧
    rf (authCounted s acc n) rlkAuth rlkAuthLIVE = n ∧ rf (authCounted s acc n) rlkAuth rlkAuthNCFG = rf s rlkAuth rlkAuthNCFG ∧
    RegsBut [rlkAuth] s (authCounted s acc n) ∧ SameBut [.regs] s (authCounted s acc n) := by
  unfold authCounted
  refine ⟨?_, (rf_wf_same _ _ _ _ rfl).trans (Nat.mod_eq_of_lt hn), ?_, (regsBut_wf s _ _ _).and (regsBut_wf _ _ _ _), (wf_sameBut s _ _ _).and (wf_sameBut _ _ _ _)⟩
  · rw [rf_wf_apart _ _ _ _ _ rfl rfl (by decide), rf_wf_same _ _ _ _ rfl]
    exact Nat.mod_eq_of_lt ha
  · rw [rf_wf_apart _ _ _ _ _ rfl rfl (by decide), rf_wf_apart _ _ _ _ _ rfl rfl (by decide)]

theorem quorumCount_spec {s : State} {ups : List Uplink} (hn : ups.length < 1024) : rf (quorumCount s ups) rlkAuth rlkAuthACC = acked s ups ∧
    rf (quorumCount s ups) rlkAuth rlkAuthLIVE = ups.length ∧
    (rb (quorumCount s ups) rlkSts rlkStsQUORUM = true ↔ rf s rlkAuth rlkAuthNCFG ≠ 0 ∧ rf s rlkAuth rlkAuthNCFG < 2 * acked s ups) ∧
    RegsBut [rlkAuth, rlkSts, rlkMaxep] s (quorumCount s ups) ∧ SameBut [.rlk, .regs] s (quorumCount s ups) := by
  obtain ⟨hacc, hlive, hncfg, hr, hp⟩ := authCounted_spec (s := s) (acc := acked s ups) (n := ups.length) ((List.length_filter_le _ _).trans_lt hn) hn
  unfold quorumCount
  dsimp only
  rw [show wf (wf s rlkAuth rlkAuthACC (ups.filter _).length) rlkAuth rlkAuthLIVE ups.length = authCounted s (acked s ups) ups.length from rfl]
  generalize authCounted s (acked s ups) ups.length = u at hacc hlive hncfg hr hp
  have hq := rb_wb_same u rlkSts rlkStsQUORUM (rf u rlkAuth rlkAuthNCFG != 0 && rf u rlkAuth rlkAuthNCFG < 2 * rf u rlkAuth rlkAuthACC) rfl
  have hqr := regsBut_wb u rlkSts rlkStsQUORUM (rf u rlkAuth rlkAuthNCFG != 0 && rf u rlkAuth rlkAuthNCFG < 2 * rf u rlkAuth rlkAuthACC)
  have hqp := wb_sameBut u rlkSts rlkStsQUORUM (rf u rlkAuth rlkAuthNCFG != 0 && rf u rlkAuth rlkAuthNCFG < 2 * rf u rlkAuth rlkAuthACC)
  rw [← quorumSync] at hq hqr hqp
  rw [hncfg, hacc] at hq
  generalize quorumSync u = w at hq hqr hqp
  generalize ups.foldl (fun m x => max m x.aepoch) (rf s rlkMaxep rlkMaxepMAXSEEN) = top
  have hmr := regsBut_wf w rlkMaxep rlkMaxepMAXSEEN top
  have hmp := wf_sameBut w rlkMaxep rlkMaxepMAXSEEN top
  generalize wf w rlkMaxep rlkMaxepMAXSEEN top = x at hmr hmp
  have hwx : RegsBut [rlkSts, rlkMaxep] u x := (hqr.mono (by simp)).and hmr
  refine ⟨(hwx.rf_eq (by decide) _).trans hacc, (hwx.rf_eq (by decide) _).trans hlive, ?_,
    ((hr.mono (by simp)).and hwx).and (fun _ _ => rfl : RegsBut [] _ _), ((hp.and hqp).and hmp |>.mono (by decide)).and ((rlk_sameBut x _).mono (by decide) : SameBut [.rlk, .regs] _ _)⟩
  show rb x rlkSts rlkStsQUORUM = true ↔ _
  rw [hmr.rb_eq (by decide), hq, Bool.and_eq_true, bne_iff_ne, decide_eq_true_eq]

theorem placed_congr {l : List Nat} {s t : State} (h : RegsBut l s t) (hl : ∀ u < 1024, rlkUmap u ∉ l) : placed t = placed s :=
  List.filter_congr (fun u hu => h.rb_eq (hl u (List.mem_range.1 (List.mem_of_mem_drop hu))) _)

theorem placed_lt {s : State} {w : Nat} (h : w ∈ placed s) : w < 1024 := List.mem_range.1 (List.mem_of_mem_drop (List.mem_filter.1 h).1)

theorem placed_nodup (s : State) : (placed s).Nodup := (List.nodup_range.sublist (List.drop_sublist 1 _)).filter _

theorem placed_length (s : State) : (placed s).length < 1024 :=
  (List.length_filter_le _ _).trans_lt (by rw [List.length_drop, List.length_range]; decide)

theorem cycleEnd_exec {s : State} {c : Nat} (hlive : pdLive s 48 = true) (hrun : s.running = true) (hst : s.rlk.start = some c)
    (hc : c + rlkPer s ≤ s.port + 32) : exec .rlkCycleEnd s = .next (cycleEnd s) := by
  show execRlkCycleEnd s = _
  rw [execRlkCycleEnd, hst]
  dsimp only
  rw [onlyIf, if_pos (by simp [hlive, hrun, hc])]

/-- The units' registers follow their uplinks, then the counts are made. -/
def unitsCounted (t : State) (us : List Nat) (ups : List Uplink) : State := quorumCount (peerCount (retransmit (us.foldl ustsEnd t)) ups) ups

theorem cycleEnd_eq {s : State} (h45 : pdOn (unitsCounted (s.rlk.live.foldl ringEndCheck s) (placed (s.rlk.live.foldl ringEndCheck s))
      ((placed (s.rlk.live.foldl ringEndCheck s)).filterMap (validUp (s.rlk.live.foldl ringEndCheck s)))) 45 = false)
    (h47 : pdOn (unitsCounted (s.rlk.live.foldl ringEndCheck s) (placed (s.rlk.live.foldl ringEndCheck s))
      ((placed (s.rlk.live.foldl ringEndCheck s)).filterMap (validUp (s.rlk.live.foldl ringEndCheck s)))) 47 = false) :
    cycleEnd s = onRlk (dropIdle (unitsCounted (s.rlk.live.foldl ringEndCheck s) (placed (s.rlk.live.foldl ringEndCheck s))
      ((placed (s.rlk.live.foldl ringEndCheck s)).filterMap (validUp (s.rlk.live.foldl ringEndCheck s))))) (fun r => { r with start := none, frames := [] }) := by
  unfold cycleEnd
  dsimp only
  rw [← unitsCounted]
  generalize unitsCounted (s.rlk.live.foldl ringEndCheck s) (placed (s.rlk.live.foldl ringEndCheck s))
    ((placed (s.rlk.live.foldl ringEndCheck s)).filterMap (validUp (s.rlk.live.foldl ringEndCheck s))) = u at h45 h47
  have h47' : pdOn (onRlk (dropIdle u) (fun r => { r with start := none, frames := [] })) 47 = false := h47
  rw [h45, if_neg Bool.false_ne_true, h47', if_neg Bool.false_ne_true]

/-- The registers of the units. -/
def unitRegs : List Nat := (List.range 1024).map rlkUsts

/-- The registers that the counts write. -/
def countRegs : List Nat := [rlkCnt, rlkPeer, rlkSts, rlkAuth, rlkMaxep]

theorem unitsCounted_spec {t : State} {us : List Nat} {ups : List Uplink} (hnd : us.Nodup) (hlt : ∀ w ∈ us, w < 1024) (hn : ups.length < 1024) :
    rf (unitsCounted t us ups) rlkAuth rlkAuthACC = acked t ups ∧ rf (unitsCounted t us ups) rlkAuth rlkAuthLIVE = ups.length ∧
    (rb (unitsCounted t us ups) rlkSts rlkStsQUORUM = true ↔ rf t rlkAuth rlkAuthNCFG ≠ 0 ∧ rf t rlkAuth rlkAuthNCFG < 2 * acked t ups) ∧
    (∀ w ∈ us, UnitSaid t (unitsCounted t us ups) w) ∧ RegsBut (countRegs ++ unitRegs) t (unitsCounted t us ups) ∧
    SameBut [.rlk, .regs] t (unitsCounted t us ups) := by
  obtain ⟨hur, hup, hsaid⟩ := ustsEnds_spec hnd t
  have hur' : RegsBut unitRegs t (us.foldl ustsEnd t) := hur.mono (fun a ha => by
    obtain ⟨w, hw, rfl⟩ := List.mem_map.1 ha
    exact List.mem_map_of_mem (List.mem_range.2 (hlt w hw)))
  unfold unitsCounted
  generalize us.foldl ustsEnd t = u at hur' hup hsaid
  obtain ⟨hr1, hp1, hl1⟩ := retransmit_spec u
  generalize retransmit u = v at hr1 hp1 hl1
  obtain ⟨hr2, hp2, hl2⟩ := peerCount_spec v ups
  generalize peerCount v ups = w at hr2 hp2 hl2
  obtain ⟨hacc, hlive, hq, hr3, hp3⟩ := quorumCount_spec (s := w) hn
  generalize quorumCount w ups = x at hacc hlive hq hr3 hp3
  have huw : RegsBut [rlkCnt, rlkPeer, rlkSts] u w := (hr1.mono (by simp)).and hr2
  have hux : RegsBut countRegs u x := (huw.mono (by simp [countRegs])).and hr3 (by simp [countRegs])
  have hunit {a : Nat} (ha : a < 0x400B0800) : a ∉ unitRegs := fun h => by
    obtain ⟨i, -, rfl⟩ := List.mem_map.1 h
    simp only [rlkUsts] at ha
    omega
  have hack : acked w ups = acked t ups := by
    have hrlk : u.rlk = t.rlk := hup .rlk (by decide)
    rw [acked, hl2, hl1, hrlk, huw.rf_eq (by decide), hur'.rf_eq (hunit (by decide)), acked]
  have hcfg : rf w rlkAuth rlkAuthNCFG = rf t rlkAuth rlkAuthNCFG := (huw.rf_eq (by decide) _).trans (hur'.rf_eq (hunit (by decide)) _)
  have hkeep (i : Nat) : rlkUsts i ∉ countRegs := by
    simp only [countRegs, rlkUsts, rlkCnt, rlkPeer, rlkSts, rlkAuth, rlkMaxep, List.mem_cons, List.not_mem_nil, or_false]
    omega
  rw [hcfg, hack] at hq
  refine ⟨hacc.trans hack, hlive, hq, fun i hi => ⟨fun h => (hux.rb_eq (hkeep i) _).trans ((hsaid i hi).1 h), fun y hy =>
    ⟨(hux.rb_eq (hkeep i) _).trans ((hsaid i hi).2 y hy).1, (hux.rf_eq (hkeep i) _).trans ((hsaid i hi).2 y hy).2⟩⟩,
    (hur'.mono (fun a ha => List.mem_append_right _ ha)).and hux (fun a ha => List.mem_append_left _ ha), ?_⟩
  exact (((hup.mono (by decide) : SameBut [.rlk, .regs] t u).and hp1).and hp2).and hp3

theorem cycleEnd_result {s : State} {c : Nat} (hlive : pdLive s 48 = true) (hrun : s.running = true) (hst : s.rlk.start = some c)
    (hc : c + rlkPer s ≤ s.port + 32) (h45 : pdOn s 45 = false) (h47 : pdOn s 47 = false) (hl : ∀ j ∈ s.rlk.live, j < 4) :
    Runs .rlkCycleEnd s (fun t => t.rlk.start = none ∧ t.rlk.frames = [] ∧ (∀ j ∈ s.rlk.live, RingSaid s t j) ∧ (∀ w ∈ placed s, UnitSaid s t w) ∧
      rf t rlkAuth rlkAuthACC = acked s ((placed s).filterMap (validUp s)) ∧ rf t rlkAuth rlkAuthLIVE = ((placed s).filterMap (validUp s)).length ∧
      (rb t rlkSts rlkStsQUORUM = true ↔ rf s rlkAuth rlkAuthNCFG ≠ 0 ∧ rf s rlkAuth rlkAuthNCFG < 2 * acked s ((placed s).filterMap (validUp s))) ∧
      RegsBut (countRegs ++ ringRegs ++ unitRegs) s t ∧ SameBut [.rlk, .regs] s t) := by
  refine ⟨_, cycleEnd_exec hlive hrun hst hc, ?_⟩
  have heq := cycleEnd_eq (s := s)
  obtain ⟨hk, hrings⟩ := ringEndChecks_spec s.rlk.live s hl
  generalize s.rlk.live.foldl ringEndCheck s = u at heq hk hrings
  have hring {a : Nat} (ha : a < 0x400B0010 ∨ 0x400B0400 ≤ a) : a ∉ ringRegs := fun h => by
    rcases List.mem_append.1 h with h | h <;> obtain ⟨i, hi, rfl⟩ := List.mem_map.1 h <;> have := List.mem_range.1 hi <;>
      simp only [rlkRcnt, rlkRsts] at ha <;> omega
  have hrlk : u.rlk = s.rlk := hk.parts .rlk (by decide)
  have hplaced : placed u = placed s := placed_congr hk.regs (fun w _ => hring (.inr (by simp only [rlkUmap]; omega)))
  have hvalid : validUp u = validUp s := funext (validUp_congr hrlk)
  have hack (ups : List Uplink) : acked u ups = acked s ups := by
    rw [acked, hrlk, hk.regs.rf_eq (hring (.inl (by decide))), acked]
  obtain ⟨hacc, hlv, hq, hsaid, hr, hp⟩ := unitsCounted_spec (t := u) (us := placed s) (ups := (placed s).filterMap (validUp s)) (placed_nodup s)
    (fun w hw => placed_lt hw) ((List.length_filterMap_le _ _).trans_lt (placed_length s))
  rw [hplaced, hvalid] at heq
  rw [hack] at hacc hq
  rw [hk.regs.rf_eq (hring (.inl (by decide)))] at hq
  generalize unitsCounted u (placed s) ((placed s).filterMap (validUp s)) = w at heq hacc hlv hq hsaid hr hp
  have hlow {a : Nat} (ha : a < 0x400B0000 ∨ 0x400B0009 ≤ a ∧ a < 0x400B0800) : a ∉ countRegs ++ unitRegs := fun h => by
    rcases List.mem_append.1 h with h | h
    · simp only [countRegs, List.mem_cons, List.not_mem_nil, or_false, rlkCnt, rlkPeer, rlkSts, rlkAuth, rlkMaxep] at h
      omega
    · obtain ⟨i, -, rfl⟩ := List.mem_map.1 h
      simp only [rlkUsts] at ha
      omega
  have hpd (d : Nat) (hd : pctlPd d < 0x400B0000) (hs : pdOn s d = false) : pdOn w d = false :=
    ((hr.pdOn_eq d (hlow (.inl hd))).trans (hk.regs.pdOn_eq d (hring (.inl (by omega))))).trans hs
  rw [heq (hpd 45 (by decide) h45) (hpd 47 (by decide) h47)]
  refine ⟨rfl, rfl, fun j hj hn => ⟨fun hb => ?_, fun hb hbad => ?_⟩, fun x hx => ?_, hacc, hlv, hq, ?_, ?_⟩
  · exact (hr.rb_eq (hlow (.inr (by have := hl j hj; simp only [rlkRsts]; omega))) _).trans ((hrings j hj hn).1 hb)
  · exact (hr.rb_eq (hlow (.inr (by have := hl j hj; simp only [rlkRsts]; omega))) _).trans ((hrings j hj hn).2 hb hbad)
  · have := hsaid x hx
    rw [UnitSaid, hvalid] at this
    exact this
  · exact ((hk.regs.mono (fun a ha => List.mem_append_left _ (List.mem_append_right _ ha))).and hr (fun a ha => by
      rcases List.mem_append.1 ha with ha | ha
      · exact List.mem_append_left _ (List.mem_append_left _ ha)
      · exact List.mem_append_right _ ha)).and (fun _ _ => rfl : RegsBut [] _ _) (fun _ hx => (nomatch hx))
  · exact (((hk.parts.mono (by decide) : SameBut [.rlk, .regs] s u).and hp).and (rlk_sameBut w _)).and (rlk_sameBut _ _)

/-- Settles O46: of what the end of a cycle writes, the rings' flags, the units' registers and the counts are apart. -/
theorem rackCycles : Obligations.RackCycles := by
  unfold Obligations.RackCycles
  intro s q k v hdr c
  refine ⟨fun hon hq => ⟨fun hen hrole hv => rlkEnable_result hon hq hen hrole hv, fun hen => ringEnable_refused k v hon hq hen,
    fun hen => ⟨fun hok => ringEnable_enabled k v hon hq hen hok, fun hok => ringEnable_failed k v hon hq hen hok⟩⟩,
    fun hon hrun hen hst hep ht hw => cycleStart_result hon hrun hen hst hep ht hw,
    fun hlive hrun hst hopen => ⟨frameReturn_aborted hlive hrun hopen, fun hh ht => frameReturn_counts hlive hrun hst hopen hh ht⟩,
    fun hlive hrun hst hc h45 h47 hl => cycleEnd_result hlive hrun hst hc h45 h47 hl⟩

end Sys2Proof.Machine

/-! The journal: opening, closing, formatting, recovery and power failure (R332, R333, R348, R350, R356, R376, R377). -/

namespace Sys2Proof.Machine

set_option Elab.async false

/-! States of the journal (R341, R349). -/

theorem rf_psafeSync_state (s : State) : jneState (psafeSync s) = jneState s := rf_wb_apart s jneSts _ rfl rfl (by decide)

theorem psafeSync_frame (s : State) : RegsBut [jneSts] s (psafeSync s) ∧ SameBut [.regs] s (psafeSync s) := ⟨regsBut_wb s _ _ _, wb_sameBut s _ _ _⟩

/-- A state that the point engine does not start anew for, or a point engine that has no power. -/
def NoRestart (s : State) (st : Nat) : Prop := pdOn s 45 = false ∨ st = 3 ∨ st = 4 ∨ st = 5

/-- What entering a state leaves. -/
structure InState (s t : State) (st : Nat) : Prop where
  state : jneState t = st
  regs : RegsBut [jneSts] s t
  parts : SameBut [.regs, .sig] s t
  sig : t.sig = { s.sig with evs := t.sig.evs }

theorem jneEnter_inState {s : State} {st : Nat} (hst : st < 8) (h : NoRestart s st) : InState s (jneEnter s st) st := by
  unfold jneEnter
  dsimp only
  by_cases ho : jneState s = st
  · rw [if_pos ho]
    exact ⟨ho, RegsBut.refl _ s, SameBut.refl _ s, rfl⟩
  rw [if_neg ho]
  obtain ⟨hr, hp⟩ := psafeSync_frame (wf s jneSts jneStsSTATE st)
  have hs := rf_psafeSync_state (wf s jneSts jneStsSTATE st)
  have hr1 : RegsBut [jneSts] s (psafeSync (wf s jneSts jneStsSTATE st)) := (regsBut_wf s _ _ _).and hr
  have hp1 : SameBut [.regs] s (psafeSync (wf s jneSts jneStsSTATE st)) := (wf_sameBut s _ _ _).and hp
  have hs1 : jneState (psafeSync (wf s jneSts jneStsSTATE st)) = st := hs.trans ((rf_wf_same s _ _ _ rfl).trans (Nat.mod_eq_of_lt hst))
  generalize psafeSync (wf s jneSts jneStsSTATE st) = u at hr1 hp1 hs1
  have hu : RegsBut [jneSts] s (if st = 3 then wb u jneSts jneStsOPENED true else u) ∧ SameBut [.regs] s (if st = 3 then wb u jneSts jneStsOPENED true else u) ∧
      jneState (if st = 3 then wb u jneSts jneStsOPENED true else u) = st := by
    split
    · exact ⟨hr1.and (regsBut_wb u _ _ _), hp1.and (wb_sameBut u _ _ _), (rf_wb_apart u jneSts true rfl rfl (by decide)).trans hs1⟩
    · exact ⟨hr1, hp1, hs1⟩
  generalize (if st = 3 then wb u jneSts jneStsOPENED true else u) = w at hu
  obtain ⟨hr2, hp2, hs2⟩ := hu
  have hev : InState s (raiseEv w 0x05 [BitVec.ofNat 48 (jneState s + 8 * st), rd w jneNextcsn]) st := by
    refine ⟨hs2, hr2.and (fun _ _ => rfl : RegsBut [] _ _) (fun _ hx => (nomatch hx)), (hp2.mono (by decide)).and ((sig_sameBut w _).mono (by decide) : SameBut [.regs, .sig] _ _), ?_⟩
    have hsig : w.sig = s.sig := hp2 .sig (by decide)
    have hev : (raiseEv w 0x05 [BitVec.ofNat 48 (jneState s + 8 * st), rd w jneNextcsn]).sig =
        { w.sig with evs := (raiseEv w 0x05 [BitVec.ofNat 48 (jneState s + 8 * st), rd w jneNextcsn]).sig.evs } := rfl
    rw [hsig] at hev
    exact hev
  generalize raiseEv w 0x05 [BitVec.ofNat 48 (jneState s + 8 * st), rd w jneNextcsn] = x at hev
  split
  · next hc =>
    rcases h with h | rfl | rfl | rfl
    · rw [pneRestart, hev.regs.pdOn_eq 45 (by decide), h, Bool.false_and, Bool.false_and, if_neg Bool.false_ne_true]
      exact hev
    · exact absurd hc (by decide)
    · exact absurd hc (by decide)
    · exact absurd hc (by decide)
  · exact hev

/-- CLOSED while power fails or the block shuts down, else OPEN. -/
def readyState (s : State) : Nat := if s.sem.pfail || s.jne.shut then 4 else 3

theorem readyState_cases (s : State) : readyState s = 3 ∨ readyState s = 4 := by
  unfold readyState
  split
  · exact .inr rfl
  · exact .inl rfl

theorem enterReady (s : State) {t : State} : InState t (jneEnter t (readyState s)) (readyState s) := by
  refine jneEnter_inState ?_ (.inr ((readyState_cases s).imp_right .inl))
  rcases readyState_cases s with h | h <;> rw [h] <;> decide

theorem InState.jne {s t : State} {st : Nat} (h : InState s t st) : t.jne = s.jne := h.parts .jne (by decide)

theorem regsBut_onJne (s : State) (f : Jne → Jne) : RegsBut [] s (onJne s f) := fun _ _ => rfl

theorem onJne_sameBut (s : State) (f : Jne → Jne) : SameBut [.jne] s (onJne s f) := jne_sameBut s _

/-! Recovery and format end (R333, R376). -/

theorem ownRecord_frame (s : State) (k : Nat) (b : List Nat) : RegsBut [] s (ownRecord s k b) ∧ SameBut [.jne] s (ownRecord s k b) :=
  ⟨regsBut_onJne s _, onJne_sameBut s _⟩

theorem percsnSync_frame (s : State) : RegsBut [jnePercsn] s (percsnSync s) ∧ SameBut [.regs] s (percsnSync s) := ⟨regsBut_wf s _ _ _, wf_sameBut s _ _ _⟩

theorem recoveryComplete_result {s : State} (hl : pdLive s 44 = true) (he : s.jne.ended = 1) (h1 : 1 ≤ s.jne.rcsn) (h48 : s.jne.rcsn < 2 ^ 48) :
    Runs .recoveryComplete s (fun t => rf t jneNextcsn jneNextcsnCSN = s.jne.rcsn ∧ rf t jneAckcsn jneAckcsnCSN = s.jne.rcsn - 1 ∧ jneState t = readyState s ∧
      t.jne.ownq = s.jne.ownq ++ [(0x37, [s.jne.sb.applied, s.jne.rcsn - 1, rf s jneRecsts jneRecstsCOPY].map (BitVec.ofNat 48))] ∧ t.jne.ended = 0 ∧
      RegsBut [jneNextcsn, jneAckcsn, jnePercsn, jneSts] s t ∧ SameBut [.regs, .jne, .sig] s t) := by
  have hex : exec .recoveryComplete s = .next (jneEnter (ownRecord (percsnSync (onJne (wf (wf s jneNextcsn jneNextcsnCSN (s.jne.rcsn - 1 + 1)) jneAckcsn jneAckcsnCSN
      (s.jne.rcsn - 1)) (fun j => { j with ended := 0 }))) 0x37 [s.jne.sb.applied, s.jne.rcsn - 1, rf s jneRecsts jneRecstsCOPY]) (readyState s)) := by
    show execRecoveryComplete s = _
    unfold execRecoveryComplete
    dsimp only
    rw [if_pos (by simp [hl, he])]
    rfl
  refine ⟨_, hex, ?_⟩
  rw [Nat.sub_add_cancel h1]
  have hnext := rf_wf_same s jneNextcsn jneNextcsnCSN s.jne.rcsn rfl
  have hr := (regsBut_wf s jneNextcsn jneNextcsnCSN s.jne.rcsn)
  have hp := (wf_sameBut s jneNextcsn jneNextcsnCSN s.jne.rcsn)
  generalize wf s jneNextcsn jneNextcsnCSN s.jne.rcsn = u at hnext hr hp
  have hack := rf_wf_same u jneAckcsn jneAckcsnCSN (s.jne.rcsn - 1) rfl
  have hru := regsBut_wf u jneAckcsn jneAckcsnCSN (s.jne.rcsn - 1)
  have hpu := wf_sameBut u jneAckcsn jneAckcsnCSN (s.jne.rcsn - 1)
  generalize wf u jneAckcsn jneAckcsnCSN (s.jne.rcsn - 1) = w at hack hru hpu
  have hjne : w.jne = s.jne := (hp.and hpu) .jne (by decide)
  obtain ⟨hrp, hpp⟩ := percsnSync_frame (onJne w (fun j => { j with ended := 0 }))
  have hjx : (percsnSync (onJne w (fun j => { j with ended := 0 }))).jne = { s.jne with ended := 0 } := by
    rw [hpp .jne (by decide)]
    show ({ w.jne with ended := 0 } : Jne) = _
    rw [hjne]
  have hrx : RegsBut [jnePercsn] w (percsnSync (onJne w (fun j => { j with ended := 0 }))) := hrp
  have hpx : SameBut [.regs, .jne] w (percsnSync (onJne w (fun j => { j with ended := 0 }))) :=
    ((onJne_sameBut w _).mono (by decide) : SameBut [.regs, .jne] w _).and hpp
  generalize percsnSync (onJne w (fun j => { j with ended := 0 })) = x at hjx hrx hpx
  have hent := enterReady s (t := ownRecord x 0x37 [s.jne.sb.applied, s.jne.rcsn - 1, rf s jneRecsts jneRecstsCOPY])
  have hwt : RegsBut [jnePercsn, jneSts] w (jneEnter (ownRecord x 0x37 [s.jne.sb.applied, s.jne.rcsn - 1, rf s jneRecsts jneRecstsCOPY]) (readyState s)) :=
    (hrx.mono (by simp)).and hent.regs
  refine ⟨?_, ?_, hent.state, ?_, ?_, ?_, ?_⟩
  · exact ((hwt.rf_eq (by decide) _).trans (hru.rf_eq (by decide) _)).trans (hnext.trans (Nat.mod_eq_of_lt h48))
  · exact (hwt.rf_eq (by decide) _).trans (hack.trans (Nat.mod_eq_of_lt ((Nat.sub_le _ _).trans_lt h48)))
  · rw [hent.jne]
    show x.jne.ownq ++ _ = _
    rw [hjx]
  · rw [hent.jne]
    show x.jne.ended = 0
    rw [hjx]
  · exact ((hr.mono (by simp) : RegsBut [jneNextcsn, jneAckcsn, jnePercsn, jneSts] s u).and hru).and hwt
  · exact (((hp.mono (by decide) : SameBut [.regs, .jne, .sig] s u).and hpu).and hpx).and ((onJne_sameBut x _).mono (by decide) : SameBut [.regs, .jne, .sig] _ _) |>.and hent.parts

theorem formatComplete_result {s : State} (hl : pdLive s 44 = true) (he : s.jne.ended = 2) : Runs .formatComplete s (fun t => jneState t = readyState s ∧
    t.jne = { s.jne with ended := 0 } ∧ RegsBut [jneSts] s t ∧ SameBut [.regs, .jne, .sig] s t) := by
  have hex : exec .formatComplete s = .next (jneEnter (onJne s (fun j => { j with ended := 0 })) (readyState s)) := by
    show execFormatComplete s = _
    rw [execFormatComplete, if_pos (by simp [hl, he])]
    rfl
  have hent := enterReady s (t := onJne s (fun j => { j with ended := 0 }))
  exact ⟨_, hex, hent.state, hent.jne, hent.regs, ((onJne_sameBut s _).mono (by decide) : SameBut [.regs, .jne, .sig] s _).and hent.parts⟩

/-! Steps of the running activity (R331). -/

/-- A burst of the JNE's own, with no commit. -/
def ownBurst (s : State) (w : Bool) (a n : Nat) (ws : List Word) : JBurst := ⟨s.jne.nextId, w, a, n, ws, 0, 0, true⟩

theorem stagedFirst_frame (s : State) : RegsBut [] s (stagedFirst s) ∧ SameBut [.ports] s (stagedFirst s) := ⟨fun _ _ => rfl, ports_sameBut s _⟩

theorem scriptBurst_spec {s : State} (hb : s.jne.bursts = []) (w : Bool) (a n : Nat) (ws : List Word) :
    (scriptBurst s w a n ws).jne = { s.jne with nextId := s.jne.nextId + 1, bursts := [ownBurst s w a n ws] } ∧
    RegsBut [] s (scriptBurst s w a n ws) ∧ SameBut [.jne, .ports] s (scriptBurst s w a n ws) := by
  unfold scriptBurst startBurst
  dsimp only
  have hu : (onJne s (fun j => { j with nextId := s.jne.nextId + 1, bursts := j.bursts ++ [⟨s.jne.nextId, w, a, n, ws, 0, 0, true⟩] })).jne =
      { s.jne with nextId := s.jne.nextId + 1, bursts := [ownBurst s w a n ws] } := by
    show ({ s.jne with nextId := _, bursts := s.jne.bursts ++ _ } : Jne) = _
    rw [hb]
    rfl
  have hp := onJne_sameBut s (fun j => { j with nextId := s.jne.nextId + 1, bursts := j.bursts ++ [⟨s.jne.nextId, w, a, n, ws, 0, 0, true⟩] })
  generalize onJne s (fun j => { j with nextId := s.jne.nextId + 1, bursts := j.bursts ++ [⟨s.jne.nextId, w, a, n, ws, 0, 0, true⟩] }) = u at hu hp
  have hq := hmpReq_sameBut u (.unit 20 (32 + s.jne.nextId)) w a n ws (w && persBase ≤ a) true
  generalize hmpReq u (.unit 20 (32 + s.jne.nextId)) w a n ws (w && persBase ≤ a) true = x at hq
  have hx : SameBut [.jne, .ports] s x := (hp.mono (by decide)).and hq
  have hj : x.jne = u.jne := hq .jne (by decide)
  split
  · have hst := (stagedFirst_frame x).2
    have hall : SameBut [.jne, .ports] s (stagedFirst x) := hx.and hst
    exact ⟨((hst .jne (by decide)).trans hj).trans hu, regsBut_of_sameBut hall (by decide) (by decide) (by decide), hall⟩
  · exact ⟨hj.trans hu, regsBut_of_sameBut hx (by decide) (by decide) (by decide), hx⟩

theorem jneRun_done {s : State} (h : jneStep s = none) (f : Nat) : jneRun f s = s := by
  cases f with
  | zero => rfl
  | succ f => rw [jneRun, h]

theorem jneRun_step {s t : State} (h : jneStep s = some t) (f : Nat) : jneRun (f + 1) s = jneRun f t := by rw [jneRun, h]

theorem jneStep_waits {s : State} {b : JBurst} (h : s.jne.bursts = [b]) (hb : b.own = true) : jneStep s = none := by
  rw [jneStep, h]
  exact if_pos (by simp [hb])

theorem jneStep_script {s : State} (h : s.jne.bursts = []) (hi : infoStep s = none) : jneStep s = scriptStep s := by
  rw [jneStep, h, List.any_nil, if_neg Bool.false_ne_true, hi]

/-! Opening (R332). -/

theorem layoutOk_congr {l : List Nat} {s t : State} (h : RegsBut l s t) (hl : ∀ a ∈ [jneHlog, jneHead, pneImgbase], a ∉ l) : layoutOk t = layoutOk s := by
  have hbase : ringBase t = ringBase s := by rw [ringBase, h.rf_eq (hl _ (by simp)), ringBase]
  have hsize : ringSize t = ringSize s := by rw [ringSize, h.rf_eq (hl _ (by simp)), ringSize]
  have himg : imgAddr t = imgAddr s := by rw [imgAddr, h.rf_eq (hl _ (by simp)), imgAddr]
  have hhead : rf t jneHead jneHeadHSIZE = rf s jneHead jneHeadHSIZE := h.rf_eq (hl _ (by simp)) _
  unfold layoutOk ringEnd
  dsimp only
  rw [hbase, hsize, himg, hhead]

/-- The modes and EN of JNE_CTRL as a write leaves them. -/
def ctrlSet (s : State) (m a : Nat) (en : Bool) : State := wb (wf (wf s jneCtrl jneCtrlMIRMODE m) jneCtrl jneCtrlACKMODE a) jneCtrl jneCtrlEN en

theorem ctrlSet_spec (s : State) (m a : Nat) (en : Bool) : rb (ctrlSet s m a en) jneCtrl jneCtrlEN = en ∧
    rf (ctrlSet s m a en) jneCtrl jneCtrlMIRMODE = m % 2 ∧ rf (ctrlSet s m a en) jneCtrl jneCtrlACKMODE = a % 2 ∧
    RegsBut [jneCtrl] s (ctrlSet s m a en) ∧ SameBut [.regs] s (ctrlSet s m a en) := by
  unfold ctrlSet
  refine ⟨rb_wb_same _ _ _ en rfl, ?_, ?_, ((regsBut_wf s _ _ _).and (regsBut_wf _ _ _ _)).and (regsBut_wb _ _ _ _),
    ((wf_sameBut s _ _ _).and (wf_sameBut _ _ _ _)).and (wb_sameBut _ _ _ _)⟩
  · rw [rf_wb_apart _ _ en rfl rfl (by decide), rf_wf_apart _ _ _ _ _ rfl rfl (by decide), rf_wf_same _ _ _ _ rfl]
    rfl
  · rw [rf_wb_apart _ _ en rfl rfl (by decide), rf_wf_same _ _ _ _ rfl]
    rfl

/-- The word that a write of JNE_CTRL with EN 1 gives. -/
def openWord (mm am : Bool) : Word := BitVec.ofNat 48 (4 * b2n mm + 2 * b2n am + 1)

theorem openWord_fields (mm am : Bool) : jneCtrlEN.get (openWord mm am) = 1 ∧ jneCtrlMIRMODE.get (openWord mm am) = b2n mm ∧
    jneCtrlACKMODE.get (openWord mm am) = b2n am := by
  revert mm am
  decide

theorem jneOpen_exec {s : State} {q : Req} (mm am : Bool) (hon : pdOn s 44 = true) (hq : holdsType s q 7 = true) (hen : rb s jneCtrl jneCtrlEN = false)
    (hst : jneState s = 0) (hscr : s.jne.script = []) : exec (.jneOpen q mm am) s = .next (respond (jneOpen (ctrlSet s (b2n mm) (b2n am) true)) 0) := by
  obtain ⟨h1, h2, h3⟩ := openWord_fields mm am
  obtain ⟨-, -, -, hr, hp⟩ := ctrlSet_spec s (b2n mm) (b2n am) true
  have hst' : jneState (ctrlSet s (b2n mm) (b2n am) true) = 0 := (hr.rf_eq (by decide) _).trans hst
  have hscr' : (ctrlSet s (b2n mm) (b2n am) true).jne.script = [] := (congrArg Jne.script (hp .jne (by decide))).trans hscr
  have hgo : jneCtrlWrite s q (openWord mm am) = respond (if jneState (ctrlSet s (b2n mm) (b2n am) true) = 0 && (ctrlSet s (b2n mm) (b2n am) true).jne.script.isEmpty
      then jneOpen (ctrlSet s (b2n mm) (b2n am) true) else onJne (ctrlSet s (b2n mm) (b2n am) true) (fun j => { j with closing := false })) 0 := by
    unfold jneCtrlWrite
    simp only [otJournal, hq, h1, h2, h3, hen, Bool.not_true, Bool.not_false, beq_self_eq_true, Bool.and_self, Bool.false_eq_true, reduceIte]
    rfl
  show execJneOpen q mm am s = _
  rw [execJneOpen, if_pos hon, ← openWord, hgo, hst', hscr', if_pos (by simp)]
  rfl

section
variable {s : State} {q : Req} (mm am : Bool) (hon : pdOn s 44 = true) (hq : holdsType s q 7 = true) (hen : rb s jneCtrl jneCtrlEN = false)
  (hst : jneState s = 0) (hscr : s.jne.script = [])
include hon hq hen hst hscr

theorem jneOpen_refused (hlay : layoutOk s = false) : Runs (.jneOpen q mm am) s (fun t => t.resp = ⟨0, 0⟩ ∧ rb t jneCtrl jneCtrlEN = false ∧
    rb t jneSts jneStsLAYOUT = true ∧ jneState t = 0 ∧ RegsBut [jneCtrl, jneSts, pneSts] s t ∧ SameBut [.regs, .resp] s t) := by
  refine ⟨_, jneOpen_exec mm am hon hq hen hst hscr, rfl, ?_⟩
  obtain ⟨-, -, -, hr, hp⟩ := ctrlSet_spec s (b2n mm) (b2n am) true
  generalize ctrlSet s (b2n mm) (b2n am) true = u at hr hp
  have hlay' : layoutOk u = false := (layoutOk_congr hr (by decide)).trans hlay
  unfold jneOpen
  dsimp only
  rw [hlay', Bool.not_false, if_pos rfl]
  have he := rb_wb_same u jneCtrl jneCtrlEN false rfl
  have hru : RegsBut [jneCtrl, jneSts, pneSts] s (wb u jneCtrl jneCtrlEN false) := (hr.and (regsBut_wb u _ _ _)).mono (by simp)
  have hpu : SameBut [.regs] s (wb u jneCtrl jneCtrlEN false) := hp.and (wb_sameBut u _ _ _)
  have hsu : jneState (wb u jneCtrl jneCtrlEN false) = 0 := ((hr.and (regsBut_wb u _ _ _)).rf_eq (by decide) _).trans hst
  generalize wb u jneCtrl jneCtrlEN false = w at he hru hpu hsu
  have hlw := rb_wb_same w jneSts jneStsLAYOUT true rfl
  have hrw := regsBut_wb w jneSts jneStsLAYOUT true
  have hew : rb (wb w jneSts jneStsLAYOUT true) jneCtrl jneCtrlEN = false := (hrw.rb_eq (by decide) _).trans he
  have hsw : jneState (wb w jneSts jneStsLAYOUT true) = 0 := (rf_wb_apart w jneSts true rfl rfl (by decide)).trans hsu
  have hpw : SameBut [.regs] s (wb w jneSts jneStsLAYOUT true) := hpu.and (wb_sameBut w _ _ _)
  have hrx := hru.and hrw
  generalize wb w jneSts jneStsLAYOUT true = x at hlw hew hsw hpw hrx
  split
  · exact ⟨hew, hlw, hsw, hrx.and (regsBut_respond _ _ _) (fun _ hx => (nomatch hx)), (hpw.mono (by decide)).and (respond_sameBut _ _ _)⟩
  · have hi := regsBut_wb x pneSts pneStsIMGERR true
    exact ⟨(hi.rb_eq (by decide) _).trans hew, (hi.rb_eq (by decide) _).trans hlw, (hi.rf_eq (by decide) _).trans hsw,
      (hrx.and hi).and (regsBut_respond _ _ _) (fun _ hx => (nomatch hx)), ((hpw.and (wb_sameBut x _ _ _)).mono (by decide)).and (respond_sameBut _ _ _)⟩

/-- The reads of both copies of the superblock, and their evaluation. -/
def openOps : List JOp := [.rd persBase 1, .act (.copyWord 0), .rd (persBase + 0x8000) 1, .act (.copyWord 1), .act .evalCopies]

omit hon hq hen in
theorem jneOpen_reads (hlay : layoutOk s = true) (hb : s.jne.bursts = []) :
    (jneOpen s).jne.bursts = [ownBurst s false persBase 1 []] ∧ rf (jneOpen s) jneRecsts jneRecstsFREASON = 0 ∧
    RegsBut [jneRecsts] s (jneOpen s) ∧ SameBut [.regs, .jne, .ports] s (jneOpen s) := by
  unfold jneOpen
  dsimp only
  rw [hlay, Bool.not_true, if_neg Bool.false_ne_true]
  have hf := rf_wf_same s jneRecsts jneRecstsFREASON 0 rfl
  have hr := regsBut_wf s jneRecsts jneRecstsFREASON 0
  have hp := wf_sameBut s jneRecsts jneRecstsFREASON 0
  generalize wf s jneRecsts jneRecstsFREASON 0 = u at hf hr hp
  have hjne : u.jne = s.jne := hp .jne (by decide)
  have hsu : jneState u = 0 := (hr.rf_eq (by decide) _).trans hst
  have hx : (pushOps (onJne u (fun j => { j with copies := [], buf := [], ended := 0, closing := false, infoAt := s.port, polled := s.port })) openOps).jne =
      { s.jne with copies := [], buf := [], ended := 0, closing := false, infoAt := s.port, polled := s.port, script := openOps } := by
    show ({ u.jne with copies := [], buf := [], ended := 0, closing := false, infoAt := s.port, polled := s.port, script := openOps ++ u.jne.script } : Jne) = _
    rw [hjne, hscr, List.append_nil]
  have hpx : SameBut [.jne] u (pushOps (onJne u (fun j => { j with copies := [], buf := [], ended := 0, closing := false, infoAt := s.port, polled := s.port })) openOps) :=
    (onJne_sameBut u _).and (onJne_sameBut _ _)
  rw [← openOps]
  generalize pushOps (onJne u (fun j => { j with copies := [], buf := [], ended := 0, closing := false, infoAt := s.port, polled := s.port })) openOps = x at hx hpx
  have hrx : RegsBut [] u x := regsBut_of_sameBut hpx (by decide) (by decide) (by decide)
  have hinfo : infoStep x = none := by
    have hruns : infoRuns x = false := by
      have hs0 : jneState x = 0 := (hrx.rf_eq List.not_mem_nil _).trans hsu
      rw [infoRuns, hs0]
      rfl
    rw [infoStep, hruns]
    rfl
  have hb0 : x.jne.bursts = [] := by rw [hx]; exact hb
  have hstep : jneStep x = some (scriptBurst (onJne x (fun j => { j with script := openOps.tail })) false persBase 1 []) := by
    rw [jneStep_script hb0 hinfo, scriptStep, hx]
    rfl
  obtain ⟨hj, hr', hp'⟩ := scriptBurst_spec (s := onJne x (fun j => { j with script := openOps.tail })) hb0 false persBase 1 []
  have hid : (onJne x (fun j => { j with script := openOps.tail })).jne.nextId = s.jne.nextId := by
    show x.jne.nextId = _
    rw [hx]
  have hown : ownBurst (onJne x (fun j => { j with script := openOps.tail })) false persBase 1 [] = ownBurst s false persBase 1 [] := by
    rw [ownBurst, hid, ownBurst]
  have hbursts : (scriptBurst (onJne x (fun j => { j with script := openOps.tail })) false persBase 1 []).jne.bursts = [ownBurst s false persBase 1 []] := by
    rw [hj, ← hown]
  rw [jneRun_step hstep, jneRun_done (jneStep_waits hbursts rfl)]
  have hxs : RegsBut [] x (scriptBurst (onJne x (fun j => { j with script := openOps.tail })) false persBase 1 []) := hr'
  have hall : RegsBut [] u (scriptBurst (onJne x (fun j => { j with script := openOps.tail })) false persBase 1 []) := hrx.and hxs
  refine ⟨hbursts, (hall.rf_eq List.not_mem_nil _).trans hf, hr.and hall (fun _ h => (nomatch h)), ?_⟩
  exact (((hp.mono (by decide) : SameBut [.regs, .jne, .ports] s u).and hpx).and (onJne_sameBut x _)).and hp'

theorem jneOpen_opens (hlay : layoutOk s = true) (hb : s.jne.bursts = []) : Runs (.jneOpen q mm am) s (fun t => t.resp = ⟨0, 0⟩ ∧
    rb t jneCtrl jneCtrlEN = true ∧ rb t jneCtrl jneCtrlMIRMODE = mm ∧ rb t jneCtrl jneCtrlACKMODE = am ∧ jneState t = 0 ∧
    t.jne.bursts = [ownBurst s false persBase 1 []] ∧ rf t jneRecsts jneRecstsFREASON = 0 ∧ RegsBut [jneCtrl, jneRecsts] s t ∧
    SameBut [.regs, .jne, .ports, .resp] s t) := by
  refine ⟨_, jneOpen_exec mm am hon hq hen hst hscr, rfl, ?_⟩
  obtain ⟨he, hm, ha, hr, hp⟩ := ctrlSet_spec s (b2n mm) (b2n am) true
  generalize ctrlSet s (b2n mm) (b2n am) true = u at he hm ha hr hp
  have hjne : u.jne = s.jne := hp .jne (by decide)
  have hsu : jneState u = 0 := (hr.rf_eq (by decide) _).trans hst
  obtain ⟨hbursts, hfr, hro, hpo⟩ := jneOpen_reads (s := u) hsu (by rw [hjne]; exact hscr) ((layoutOk_congr hr (by decide)).trans hlay) (by rw [hjne]; exact hb)
  have hown : ownBurst u false persBase 1 [] = ownBurst s false persBase 1 [] := by rw [ownBurst, hjne, ownBurst]
  rw [hown] at hbursts
  generalize jneOpen u = x at hbursts hfr hro hpo
  have hbit (b : Bool) : (b2n b % 2 != 0) = b := by cases b <;> rfl
  refine ⟨(hro.rb_eq (by decide) _).trans he, (hro.rb_eq (by decide) _).trans ?_, (hro.rb_eq (by decide) _).trans ?_, (hro.rf_eq (by decide) _).trans hsu, hbursts, hfr,
    ((hr.mono (by simp)).and hro).and (regsBut_respond _ _ _) (fun _ hx => (nomatch hx)), ?_⟩
  · rw [rb, hm, hbit]
  · rw [rb, ha, hbit]
  · exact ((hp.mono (by decide) : SameBut [.regs, .jne, .ports, .resp] s u).and hpo).and (respond_sameBut _ _ _)

end

/-! Closing (R356). -/

theorem jneState_eq {l : List Nat} {s t : State} (h : RegsBut l s t) (hl : jneSts ∉ l) : jneState t = jneState s := h.rf_eq hl _

theorem jneUnp_eq {l : List Nat} {s t : State} (h : RegsBut l s t) (hl : jneU ∉ l) : jneUnp t = jneUnp s := h.rf_eq hl _

/-- Nothing waits for admission any more. -/
def waitless (j : Jne) : Jne := { j with ownq := [], mirq := [], stalled := [], waits := [] }

theorem refuseAll_idle {s : State} (h : s.sig.recs = []) (st : Nat) : refuseAll s st = onJne s waitless := by
  have hsig : ({ s.sig with recs := [] } : Sig) = s.sig := by
    calc ({ s.sig with recs := [] } : Sig) = { s.sig with recs := s.sig.recs } := by rw [h]
      _ = s.sig := rfl
  unfold refuseAll
  rw [h, hsig]
  rfl

/-- What a write of EN with 0 does first. -/
def closeBegun (s : State) : State :=
  onJne (onJne (ctrlSet s (rf s jneCtrl jneCtrlMIRMODE) (rf s jneCtrl jneCtrlACKMODE) false) (fun j => { j with closing := true })) waitless

theorem closeBegun_spec (s : State) : rb (closeBegun s) jneCtrl jneCtrlEN = false ∧
    (closeBegun s).jne = { s.jne with closing := true, ownq := [], mirq := [], stalled := [], waits := [] } ∧ RegsBut [jneCtrl] s (closeBegun s) ∧
    SameBut [.regs, .jne] s (closeBegun s) := by
  obtain ⟨he, -, -, hr, hp⟩ := ctrlSet_spec s (rf s jneCtrl jneCtrlMIRMODE) (rf s jneCtrl jneCtrlACKMODE) false
  unfold closeBegun
  generalize ctrlSet s (rf s jneCtrl jneCtrlMIRMODE) (rf s jneCtrl jneCtrlACKMODE) false = u at he hr hp
  have hjne : u.jne = s.jne := hp .jne (by decide)
  refine ⟨he, ?_, hr.and (fun _ _ => rfl : RegsBut [] _ _) (fun _ hx => (nomatch hx)),
    ((hp.mono (by decide) : SameBut [.regs, .jne] s u).and (onJne_sameBut u _)).and (onJne_sameBut _ _)⟩
  show waitless { u.jne with closing := true } = _
  rw [hjne]
  rfl

/-- The word that a write of JNE_CTRL with EN 0 gives. -/
def closeWord (s : State) : Word := rd s jneCtrl &&& maskOf 47 1

theorem closeWord_fields (s : State) : (jneCtrlEN.get (closeWord s) == 1) = false ∧ jneCtrlMIRMODE.get (closeWord s) = rf s jneCtrl jneCtrlMIRMODE ∧
    jneCtrlACKMODE.get (closeWord s) = rf s jneCtrl jneCtrlACKMODE := by
  have hbit (f : Fld) (hf : f.hi < 48) : ∀ j, (f.get (closeWord s)).testBit j =
      (decide (j < f.hi + 1 - f.lo) && ((rd s jneCtrl).getLsbD (f.lo + j) && (maskOf 47 1).getLsbD (f.lo + j))) := fun j => by
    rw [Fld.testBit_get, closeWord, BitVec.getLsbD_and]
  have hz : jneCtrlEN.get (closeWord s) = 0 := by
    refine Nat.eq_of_testBit_eq fun j => ?_
    rw [hbit _ (by decide), Nat.zero_testBit]
    rcases j with _ | j
    · exact (congrArg _ (Bool.and_false _)).trans (Bool.and_false _)
    · rfl
  refine ⟨by rw [hz]; rfl, ?_, ?_⟩ <;>
    (refine Nat.eq_of_testBit_eq fun j => ?_
     rw [hbit _ (by decide), rf, Fld.testBit_get]
     rcases j with _ | j
     · exact congrArg _ (Bool.and_true _)
     · rfl)

theorem jneClose_exec {s : State} {q : Req} (hon : pdOn s 44 = true) (hq : holdsType s q 7 = true) (hen : rb s jneCtrl jneCtrlEN = true)
    (hrec : s.sig.recs = []) (hst : jneState s ≠ 0) : exec (.jneClose q) s = .next (respond (jneCheckOff (closeBegun s)) 0) := by
  obtain ⟨h1, h2, h3⟩ := closeWord_fields s
  obtain ⟨-, -, hr, hp⟩ := closeBegun_spec s
  have hst' : jneState (closeBegun s) ≠ 0 := fun h0 => hst ((jneState_eq hr (by decide)).symm.trans h0)
  have hrec' : (onJne (ctrlSet s (rf s jneCtrl jneCtrlMIRMODE) (rf s jneCtrl jneCtrlACKMODE) false) (fun j => { j with closing := true })).sig.recs = [] := by
    show (ctrlSet s (rf s jneCtrl jneCtrlMIRMODE) (rf s jneCtrl jneCtrlACKMODE) false).sig.recs = []
    rw [(ctrlSet_spec s (rf s jneCtrl jneCtrlMIRMODE) (rf s jneCtrl jneCtrlACKMODE) false).2.2.2.2 .sig (by decide)]
    exact hrec
  have hgo : jneCtrlWrite s q (closeWord s) = respond (jneCheckOff (if jneState (closeBegun s) = 0 then endScript (closeBegun s) else closeBegun s)) 0 := by
    unfold jneCtrlWrite
    simp only [otJournal, hq, h1, h2, h3, hen, Bool.not_true, Bool.not_false, Bool.and_self, Bool.false_eq_true, reduceIte]
    rw [← ctrlSet, refuseAll_idle hrec', ← closeBegun]
  show execJneClose q s = _
  rw [execJneClose, if_pos hon, ← closeWord, hgo, if_neg hst']
  rfl

theorem cmdEnd_frame (s : State) : RegsBut [jneSegcmd] s (cmdEnd s) ∧ SameBut [.regs, .jne] s (cmdEnd s) ∧ (cmdEnd s).jne = { s.jne with cmd := (cmdEnd s).jne.cmd } := by
  unfold cmdEnd
  split
  · have hr := (regsBut_wf s jneSegcmd jneSegcmdSTATUS 1).and (regsBut_wb _ jneSegcmd jneSegcmdBUSY false)
    have hp := (wf_sameBut s jneSegcmd jneSegcmdSTATUS 1).and (wb_sameBut _ jneSegcmd jneSegcmdBUSY false)
    generalize wb (wf s jneSegcmd jneSegcmdSTATUS 1) jneSegcmd jneSegcmdBUSY false = u at hr hp
    refine ⟨hr.and (regsBut_onJne u _) (fun _ hx => (nomatch hx)), (hp.mono (by decide)).and (onJne_sameBut u _), ?_⟩
    have hjne : u.jne = s.jne := hp .jne (by decide)
    show ({ u.jne with cmd := 0 } : Jne) = { s.jne with cmd := 0 }
    rw [hjne]
  · exact ⟨RegsBut.refl _ s, SameBut.refl _ s, rfl⟩

theorem hmpDrop_frame (s : State) (p : HmpUse → Bool) : RegsBut [] s (hmpDrop s p) ∧ SameBut [.ports] s (hmpDrop s p) := ⟨fun _ _ => rfl, ports_sameBut s _⟩

/-- The journal's state when it is OFF: what outlives it. -/
def offJne (j : Jne) : Jne := { Jne.zero with
  dir := j.dir, seals := j.seals, scanned := j.scanned, sb := j.sb, live := j.live, bucket := j.bucket, paced := j.paced, oldB := j.oldB, bAt := j.bAt,
  lastAdm := j.lastAdm, nextId := j.nextId, shut := j.shut, pfAt := j.pfAt, pfLow := j.pfLow, cptDone := j.cptDone }

/-- The JNE's transactions. -/
def ofJne : HmpUse → Bool
  | .unit 20 _ => true
  | _ => false

theorem jneGoOff_eq {s : State} (hrec : s.sig.recs = []) (hlog : s.jne.log = []) : jneGoOff s = jneEnter (onJne (hmpDrop (onJne (cmdEnd s) waitless) ofJne) offJne) 0 := by
  have hrec' : (cmdEnd s).sig.recs = [] := by rw [(cmdEnd_frame s).2.1 .sig (by decide)]; exact hrec
  unfold jneGoOff
  rw [hlog, List.filter_nil]
  dsimp only [List.foldl_nil]
  rw [refuseAll_idle hrec']
  rfl

theorem jneGoOff_spec {s : State} (hrec : s.sig.recs = []) (hlog : s.jne.log = []) (h45 : pdOn s 45 = false) : jneState (jneGoOff s) = 0 ∧
    (jneGoOff s).jne = offJne (waitless (cmdEnd s).jne) ∧ RegsBut [jneSts, jneSegcmd] s (jneGoOff s) ∧ SameBut [.regs, .jne, .ports, .sig] s (jneGoOff s) := by
  rw [jneGoOff_eq hrec hlog]
  obtain ⟨hr, hp, -⟩ := cmdEnd_frame s
  generalize cmdEnd s = u at hr hp
  have hw : SameBut [.jne, .ports] u (onJne (hmpDrop (onJne u waitless) ofJne) offJne) :=
    (((onJne_sameBut u _).mono (by decide) : SameBut [.jne, .ports] u _).and (hmpDrop_frame _ _).2).and (onJne_sameBut _ _)
  have hj : (onJne (hmpDrop (onJne u waitless) ofJne) offJne).jne = offJne (waitless u.jne) := rfl
  generalize onJne (hmpDrop (onJne u waitless) ofJne) offJne = w at hw hj
  have hrw : RegsBut [jneSegcmd] s w := hr.and (regsBut_of_sameBut hw (by decide) (by decide) (by decide)) (fun _ hx => (nomatch hx))
  have hent : InState w (jneEnter w 0) 0 := jneEnter_inState (by decide) (.inl ((hrw.pdOn_eq 45 (by decide)).trans h45))
  exact ⟨hent.state, hent.jne.trans hj, (hrw.mono (by simp)).and hent.regs,
    (((hp.mono (by decide) : SameBut [.regs, .jne, .ports, .sig] s u).and hw).and hent.parts)⟩

section
variable {s : State} {q : Req} (hon : pdOn s 44 = true) (hq : holdsType s q 7 = true) (hen : rb s jneCtrl jneCtrlEN = true)
  (hrec : s.sig.recs = []) (hst : jneState s ≠ 0)
include hon hq hen hrec hst

theorem jneClose_waits (hu : jneUnp s ≠ 0) : Runs (.jneClose q) s (fun t => t.resp = ⟨0, 0⟩ ∧ rb t jneCtrl jneCtrlEN = false ∧ jneState t = jneState s ∧
    t.jne = { s.jne with closing := true, ownq := [], mirq := [], stalled := [], waits := [] } ∧ RegsBut [jneCtrl] s t ∧ SameBut [.regs, .jne, .resp] s t) := by
  refine ⟨_, jneClose_exec hon hq hen hrec hst, rfl, ?_⟩
  obtain ⟨he, hj, hr, hp⟩ := closeBegun_spec s
  generalize closeBegun s = u at he hj hr hp
  have hu' : jneUnp u ≠ 0 := fun h0 => hu ((jneUnp_eq hr (by decide)).symm.trans h0)
  rw [jneCheckOff, if_neg (by simp [hu'])]
  exact ⟨he, hr.rf_eq (by decide) _, hj, hr.and (regsBut_respond _ _ _) (fun _ hx => (nomatch hx)), (hp.mono (by decide)).and (respond_sameBut _ _ _)⟩

theorem jneClose_goesOff (hu : jneUnp s = 0) (hlog : s.jne.log = []) (h45 : pdOn s 45 = false) : Runs (.jneClose q) s (fun t => t.resp = ⟨0, 0⟩ ∧
    rb t jneCtrl jneCtrlEN = false ∧ jneState t = 0 ∧ t.jne.script = [] ∧ t.jne.bursts = [] ∧ t.jne.sb = s.jne.sb ∧
    RegsBut [jneCtrl, jneSts, jneSegcmd] s t ∧ SameBut [.regs, .jne, .ports, .sig, .resp] s t) := by
  refine ⟨_, jneClose_exec hon hq hen hrec hst, rfl, ?_⟩
  obtain ⟨he, hj, hr, hp⟩ := closeBegun_spec s
  generalize closeBegun s = u at he hj hr hp
  have hu' : jneUnp u = 0 := (jneUnp_eq hr (by decide)).trans hu
  have hrec' : u.sig.recs = [] := by rw [hp .sig (by decide)]; exact hrec
  obtain ⟨hs, hjo, hro, hpo⟩ := jneGoOff_spec hrec' (by rw [hj]; exact hlog) ((hr.pdOn_eq 45 (by decide)).trans h45)
  have hsb : (cmdEnd u).jne.sb = s.jne.sb := by
    rw [(cmdEnd_frame u).2.2, hj]
  rw [jneCheckOff, if_pos (by simp [hu', hj])]
  generalize jneGoOff u = w at hs hjo hro hpo
  refine ⟨(hro.rb_eq (by decide) _).trans he, hs, ?_, ?_, ?_, ((hr.mono (by simp)).and hro).and (regsBut_respond _ _ _) (fun _ hx => (nomatch hx)), ?_⟩
  · show w.jne.script = []
    rw [hjo]
    rfl
  · show w.jne.bursts = []
    rw [hjo]
    rfl
  · show w.jne.sb = _
    rw [hjo]
    exact hsb
  · exact ((hp.mono (by decide) : SameBut [.regs, .jne, .ports, .sig, .resp] s u).and hpo).and (respond_sameBut _ _ _)

end

/-! The end of a format's CSN step (R333, R377). -/

/-- The response that has come is taken. -/
def respTaken (s : State) (x : HmpTx) : State := { s with ports := { s.ports with done := s.ports.done.erase x } }

theorem find?_one {α : Type} {p : α → Bool} {a : α} (h : p a = true) : [a].find? p = some a := List.find?_cons_of_pos h

theorem hmpTake_one {s : State} {p : HmpUse → Bool} {x : HmpTx} (hd : s.ports.done = [x]) (hp : p x.use = true) : hmpTake s p = some (x, respTaken s x) := by
  have hf : s.ports.done.find? (fun y => p y.use) = some x := by rw [hd]; exact find?_one hp
  rw [hmpTake, hf]
  rfl

theorem persistNext_empty {s : State} (h : s.jne.log = []) (f : Nat) : persistNext f s = s := by
  cases f with
  | zero => rfl
  | succ f => rw [persistNext, h, List.find?_nil]

/-- A response to the only burst, a write of no commit. -/
theorem burstDone_write {s : State} {x : HmpTx} {b : JBurst} (hb : s.jne.bursts = [b]) (hc : x.code = 0) (hw : b.write = true) (hcsn : b.csn = 0)
    (hlog : s.jne.log = []) : burstDone s b x = onJne s (fun j => { j with bursts := [] }) := by
  have hf : s.jne.bursts.filter (fun y => y.id != b.id) = [] := by rw [hb, List.filter_cons_of_neg (by simp), List.filter_nil]
  have hu : onJne s (fun j => { j with bursts := j.bursts.filter (fun y => y.id != b.id) }) = onJne s (fun j => { j with bursts := [] }) := by
    rw [onJne, hf, onJne]
  have hlog' : (onJne s (fun j => { j with bursts := [] })).jne.log = [] := hlog
  unfold burstDone
  dsimp only
  rw [hu]
  generalize onJne s (fun j => { j with bursts := [] }) = u at hlog'
  rw [if_neg (by simp [hc]), if_pos hw, wordsPersisted, if_pos hcsn, persistNext_empty hlog']

theorem infoStep_none {s : State} (h : s.jne.infoq = []) : infoStep s = none := by
  rw [infoStep, h, List.find?_nil]
  exact ite_self none

theorem scriptStep_act {s : State} {a : JAct} {r : List JOp} (h : s.jne.script = .act a :: r) :
    scriptStep s = some (jneAct (onJne s (fun j => { j with script := r })) a) := by rw [scriptStep, h]

theorem scriptStep_idle {s : State} (h : s.jne.script = []) (hc : s.jne.cmd = 0) : scriptStep s = none := by
  rw [scriptStep, h]
  dsimp only
  rw [if_neg (by simp [hc])]

theorem fmtCsnStep_spec {s : State} (hlog : s.jne.log = []) : rf (fmtCsnStep s) jneNextcsn jneNextcsnCSN = 1 ∧ rf (fmtCsnStep s) jneAckcsn jneAckcsnCSN = 0 ∧
    rf (fmtCsnStep s) jnePercsn jnePercsnCSN = 0 ∧ RegsBut [jneNextcsn, jneAckcsn, jnePercsn] s (fmtCsnStep s) ∧ SameBut [.regs] s (fmtCsnStep s) := by
  unfold fmtCsnStep
  have hn := rf_wf_same s jneNextcsn jneNextcsnCSN 1 rfl
  have hr := regsBut_wf s jneNextcsn jneNextcsnCSN 1
  have hp := wf_sameBut s jneNextcsn jneNextcsnCSN 1
  generalize wf s jneNextcsn jneNextcsnCSN 1 = u at hn hr hp
  have ha := rf_wf_same u jneAckcsn jneAckcsnCSN 0 rfl
  have hra := regsBut_wf u jneAckcsn jneAckcsnCSN 0
  have hpa := hp.and (wf_sameBut u jneAckcsn jneAckcsnCSN 0)
  generalize wf u jneAckcsn jneAckcsnCSN 0 = w at ha hra hpa
  have hnw : rf w jneNextcsn jneNextcsnCSN = 1 := (hra.rf_eq (by decide) _).trans hn
  have hlw : w.jne.log = [] := by rw [hpa .jne (by decide)]; exact hlog
  have hper : percsnSync w = wf w jnePercsn jnePercsnCSN 0 := by rw [percsnSync, hlw, List.find?_nil, hnw]
  have hrp := regsBut_wf w jnePercsn jnePercsnCSN 0
  rw [hper]
  exact ⟨(hrp.rf_eq (by decide) _).trans hnw, (hrp.rf_eq (by decide) _).trans ha, rf_wf_same w _ _ 0 rfl,
    ((hr.mono (by simp)).and hra).and hrp, hpa.and (wf_sameBut w _ _ _)⟩

theorem fmtCsn_result {s : State} {x : HmpTx} {b : JBurst} (hd : s.ports.done = [x]) (hb : s.jne.bursts = [b]) (hu : x.use = .unit 20 (32 + b.id))
    (hc : x.code = 0) (hw : b.write = true) (hcsn : b.csn = 0) (hlog : s.jne.log = []) (hscr : s.jne.script = [.act .fmtCsn]) (hinfo : s.jne.infoq = [])
    (hcmd : s.jne.cmd = 0) : Runs .headBurstResponse s (fun t =>
      rf t jneNextcsn jneNextcsnCSN = 1 ∧ rf t jneAckcsn jneAckcsnCSN = 0 ∧ rf t jnePercsn jnePercsnCSN = 0 ∧ jneState t = jneState s ∧
      t.jne.script = [] ∧ RegsBut [jneNextcsn, jneAckcsn, jnePercsn] s t ∧ SameBut [.regs, .jne, .ports] s t) := by
  have htake : execHeadBurstResponse s = ok (jneRun 64 (burstDone (respTaken s x) b x)) := by
    rw [execHeadBurstResponse, hmpTake_one hd ?_]
    · dsimp only
      rw [hb, find?_one (by rw [hu]; exact beq_self_eq_true _)]
    · rw [hu]
      exact decide_eq_true (Nat.le_add_right 32 b.id)
  rw [burstDone_write (s := respTaken s x) hb hc hw hcsn hlog] at htake
  have hvb : (onJne (respTaken s x) (fun j => { j with bursts := [] })).jne.bursts = [] := rfl
  have hvs : (onJne (respTaken s x) (fun j => { j with bursts := [] })).jne.script = [.act .fmtCsn] := hscr
  have hvi : (onJne (respTaken s x) (fun j => { j with bursts := [] })).jne.infoq = [] := hinfo
  have hvc : (onJne (respTaken s x) (fun j => { j with bursts := [] })).jne.cmd = 0 := hcmd
  have hvl : (onJne (respTaken s x) (fun j => { j with bursts := [] })).jne.log = [] := hlog
  have hvp : SameBut [.jne, .ports] s (onJne (respTaken s x) (fun j => { j with bursts := [] })) :=
    ((ports_sameBut s _).mono (by decide) : SameBut [.jne, .ports] s (respTaken s x)).and (onJne_sameBut _ _)
  generalize onJne (respTaken s x) (fun j => { j with bursts := [] }) = v at htake hvb hvs hvi hvc hvl hvp
  have hstep : jneStep v = some (onJne (fmtCsnStep (onJne v (fun j => { j with script := [] }))) (fun j => { j with buf := [] })) := by
    rw [jneStep_script hvb (infoStep_none hvi), scriptStep_act hvs]
    rfl
  obtain ⟨hnext, hack, hper, hr, hp⟩ := fmtCsnStep_spec (s := onJne v (fun j => { j with script := [] })) hvl
  generalize fmtCsnStep (onJne v (fun j => { j with script := [] })) = w at hstep hnext hack hper hr hp
  have hwj : w.jne = { v.jne with script := [] } := hp .jne (by decide)
  have hend : jneStep (onJne w (fun j => { j with buf := [] })) = none := by
    have hj : (onJne w (fun j => { j with buf := [] })).jne = { v.jne with script := [], buf := [] } := by
      show ({ w.jne with buf := [] } : Jne) = _
      rw [hwj]
    rw [jneStep_script (by rw [hj]; exact hvb) (infoStep_none (by rw [hj]; exact hvi)), scriptStep_idle (by rw [hj]) (by rw [hj]; exact hvc)]
  rw [jneRun_step hstep, jneRun_done hend] at htake
  have hvr : RegsBut [] s v := regsBut_of_sameBut hvp (by decide) (by decide) (by decide)
  have hrv : RegsBut [jneNextcsn, jneAckcsn, jnePercsn] v w := hr
  have hrs : RegsBut [jneNextcsn, jneAckcsn, jnePercsn] s w := (hvr.mono (fun _ hx => (nomatch hx))).and hrv (fun _ hx => hx)
  refine ⟨_, htake, hnext, hack, hper, jneState_eq hrs (by decide), ?_, hrs.and (regsBut_onJne w _) (fun _ hx => (nomatch hx)), ?_⟩
  · show w.jne.script = []
    rw [hwj]
  · exact ((((hvp.mono (by decide) : SameBut [.regs, .jne, .ports] s v).and (onJne_sameBut v _)).and hp)).and (onJne_sameBut w _)

/-! Power failure (R348, R350). -/

theorem pfailRearm_result {s : State} {p : Nat} (hlow : s.jne.pfLow = some p) (hl : pdLive s 44 = true) (hst : jneState s = 4) (hpf : s.sem.pfail = false)
    (hshut : s.jne.shut = false) (hp : p + 3000000 ≤ s.port) : Runs .pfailRearm s (fun t => jneState t = 3 ∧
      t.jne.ownq = s.jne.ownq ++ [(0x12, [1, s.jne.pfAt.toNat].map (BitVec.ofNat 48)), (0x12, [2, (btime s).toNat].map (BitVec.ofNat 48))] ∧
      t.jne.pfLow = none ∧ RegsBut [jneSts] s t ∧ SameBut [.regs, .jne, .sig] s t) := by
  have hex : exec .pfailRearm s = .next (jneEnter (onJne (ownRecord (ownRecord s 0x12 [1, s.jne.pfAt.toNat]) 0x12 [2, (btime s).toNat])
      (fun j => { j with pfLow := none })) 3) := by
    show execPfailRearm s = _
    rw [execPfailRearm, hlow]
    dsimp only
    rw [if_pos (by simp [hl, hst, hpf, hshut, hp])]
    rfl
  refine ⟨_, hex, ?_⟩
  have hw : SameBut [.jne] s (onJne (ownRecord (ownRecord s 0x12 [1, s.jne.pfAt.toNat]) 0x12 [2, (btime s).toNat]) (fun j => { j with pfLow := none })) :=
    ((onJne_sameBut s _).and (onJne_sameBut _ _)).and (onJne_sameBut _ _)
  have hr : RegsBut [] s (onJne (ownRecord (ownRecord s 0x12 [1, s.jne.pfAt.toNat]) 0x12 [2, (btime s).toNat]) (fun j => { j with pfLow := none })) :=
    fun _ _ => rfl
  have ho : (onJne (ownRecord (ownRecord s 0x12 [1, s.jne.pfAt.toNat]) 0x12 [2, (btime s).toNat]) (fun j => { j with pfLow := none })).jne.ownq =
      s.jne.ownq ++ [(0x12, [1, s.jne.pfAt.toNat].map (BitVec.ofNat 48)), (0x12, [2, (btime s).toNat].map (BitVec.ofNat 48))] :=
    List.append_assoc s.jne.ownq _ _
  have hn : (onJne (ownRecord (ownRecord s 0x12 [1, s.jne.pfAt.toNat]) 0x12 [2, (btime s).toNat]) (fun j => { j with pfLow := none })).jne.pfLow = none := rfl
  generalize onJne (ownRecord (ownRecord s 0x12 [1, s.jne.pfAt.toNat]) 0x12 [2, (btime s).toNat]) (fun j => { j with pfLow := none }) = u at hw hr ho hn
  have hent : InState u (jneEnter u 3) 3 := jneEnter_inState (by decide) (.inr (.inl rfl))
  exact ⟨hent.state, by rw [hent.jne, ho], by rw [hent.jne, hn], (hr.mono (fun _ hx => (nomatch hx))).and hent.regs (fun _ hx => hx), (hw.mono (by decide)).and hent.parts⟩

theorem pfailDeassert_result {s : State} (hpf : s.sem.pfail = true) : Runs .pfailDeassert s (fun t => t.sem.pfail = false ∧
    t.jne = { s.jne with pfLow := some s.port } ∧ jneState t = jneState s ∧ t.sig = { s.sig with traces := t.sig.traces } ∧
    RegsBut (cvpTglatch :: (List.range 8).map cvpSafests) s t ∧ SameBut [.regs, .sem, .sig, .jne, .cvp] s t) := by
  have hex : exec .pfailDeassert s = .next (tripSync (onJne { s with sem := { s.sem with pfail := false } } (fun j => { j with pfLow := some s.port }))) := by
    show execPfailDeassert s = _
    rw [execPfailDeassert, onlyIf, if_pos hpf]
  refine ⟨_, hex, ?_⟩
  have hu : SameBut [.sem, .jne] s (onJne { s with sem := { s.sem with pfail := false } } (fun j => { j with pfLow := some s.port })) :=
    ((sem_sameBut s _).mono (by decide) : SameBut [.sem, .jne] s _).and (onJne_sameBut _ _)
  have hj : (onJne { s with sem := { s.sem with pfail := false } } (fun j => { j with pfLow := some s.port })).jne = { s.jne with pfLow := some s.port } := rfl
  have hf : (onJne { s with sem := { s.sem with pfail := false } } (fun j => { j with pfLow := some s.port })).sem.pfail = false := rfl
  generalize onJne { s with sem := { s.sem with pfail := false } } (fun j => { j with pfLow := some s.port }) = u at hu hj hf
  have hk := keepsTrips_tripSync u
  have hr : RegsBut groupRegs s (tripSync u) :=
    ((regsBut_of_sameBut hu (by decide) (by decide) (by decide)).mono (fun _ hx => (nomatch hx))).and hk.regs (fun _ hx => hx)
  have hsig : u.sig = s.sig := hu .sig (by decide)
  refine ⟨(keepsInputs_tripSync u).1.trans hf, (hk.parts .jne (by decide)).trans hj, jneState_eq hr (by decide), ?_, hr,
    (hu.mono (by decide) : SameBut [.regs, .sem, .sig, .jne, .cvp] s u).and hk.parts⟩
  rw [← hsig]
  exact hk.sig

/-- Admission closes, where no deadline record waits (R348, R351). -/
theorem jneCloseNow_spec {s : State} (hrec : s.sig.recs = []) : jneState (jneCloseNow s) = (if jneState s = 3 then 4 else jneState s) ∧
    RegsBut [jneSts] s (jneCloseNow s) ∧ SameBut [.regs, .jne, .sig, .ports] s (jneCloseNow s) ∧
    (jneCloseNow s).sig = { s.sig with evs := (jneCloseNow s).sig.evs } ∧ (jneCloseNow s).jne.pfAt = s.jne.pfAt := by
  unfold jneCloseNow
  split
  · have hd : SameBut [.jne, .ports] s (dropOwn s) := ((hmpDrop_frame s _).2.mono (by decide) : SameBut [.jne, .ports] s _).and (onJne_sameBut _ _)
    have hpf : (dropOwn s).jne.pfAt = s.jne.pfAt := rfl
    generalize dropOwn s = u at hd hpf
    have hent : InState u (jneEnter u 4) 4 := jneEnter_inState (by decide) (.inr (.inr (.inl rfl)))
    generalize jneEnter u 4 = w at hent
    have hsig : w.sig = { s.sig with evs := w.sig.evs } := hent.sig.trans (by rw [hd .sig (by decide)])
    have hrw : w.sig.recs = [] := by rw [hsig]; exact hrec
    rw [refuseAll_idle hrw]
    have hsu : SameBut [.regs, .jne, .sig, .ports] s w := (hd.mono (by decide) : SameBut [.regs, .jne, .sig, .ports] s u).and hent.parts
    refine ⟨hent.state, ?_, (hsu.and (onJne_sameBut w _)).and (stagedFirst_frame _).2, hsig, ?_⟩
    · exact ((regsBut_of_sameBut hd (by decide) (by decide) (by decide)).mono (fun _ hx => (nomatch hx)) : RegsBut [jneSts] s u).and hent.regs
    · show w.jne.pfAt = _
      rw [hent.jne, hpf]
  · rw [refuseAll_idle hrec]
    exact ⟨rfl, (regsBut_onJne s _).mono (fun _ hx => (nomatch hx)), (onJne_sameBut s _).mono (by decide), rfl, rfl⟩

theorem fired_semFire (s : State) (q : Nat) {p : Nat} (h : p ∈ s.sem.fired) : p ∈ (semFire s q).sem.fired := by
  unfold semFire
  dsimp only
  split
  · exact List.mem_append_left _ h
  · exact h

/-- Following the group inputs takes no event back. -/
theorem fired_tripSync (s : State) {p : Nat} (h : p ∈ s.sem.fired) : p ∈ (tripSync s).sem.fired := by
  have hstep (t : State) (g : Nat) (ht : p ∈ t.sem.fired) : p ∈ (followGroup s t g).sem.fired := by
    unfold followGroup tgLatch
    dsimp only
    split
    · split
      · exact ht
      · exact fired_semFire _ _ ht
    · exact ht
  have hfold : p ∈ ((List.range 16).foldl (followGroup s) s).sem.fired :=
    List.foldlRecOn _ _ (motive := fun t => p ∈ t.sem.fired) h (fun t ht g _ => hstep t g ht)
  have hsafe : (tripSync s).sem = ((List.range 16).foldl (followGroup s) s).sem := by
    rw [tripSync_eq]
    exact (keepsPort_safeSync _).parts .sem (by decide)
  rw [hsafe]
  exact hfold

/-- RN_PFAIL is registered. -/
def pfailSet (s : State) : State := { s with sem := { s.sem with pfail := true } }

/-- A halted block runs again. -/
def pfailSeen (s : State) : State := if s.halted && s.pctl.pll then { pfailSet s with running := true } else pfailSet s

theorem running_sameBut (s : State) (b : Bool) : SameBut [.running] s { s with running := b } := by
  intro p hp
  cases p <;> first | rfl | exact ⟨rfl, rfl⟩ | exact absurd (List.mem_singleton.2 rfl) hp

theorem pfailSeen_spec (s : State) : (pfailSeen s).sem = { s.sem with pfail := true } ∧ RegsBut [] s (pfailSeen s) ∧ SameBut [.sem, .running] s (pfailSeen s) ∧
    canFire (pfailSeen s) 0x001 = canFire s 0x001 := by
  have hp : SameBut [.sem] s (pfailSet s) := sem_sameBut s _
  have hr : RegsBut [] s (pfailSet s) := fun _ _ => rfl
  have hs : (pfailSet s).sem = { s.sem with pfail := true } := rfl
  have hc : canFire (pfailSet s) 0x001 = canFire s 0x001 := rfl
  unfold pfailSeen
  generalize pfailSet s = u at hp hr hs hc
  split
  · exact ⟨hs, hr, (hp.mono (by decide)).and ((running_sameBut u true).mono (by decide) : SameBut [.sem, .running] u _), hc⟩
  · exact ⟨hs, hr, hp.mono (by decide), hc⟩

theorem pfail_exec {s : State} (hpf : s.sem.pfail = false) : exec .pfail s = .next
    (if pdLive s 44 then
      jneCloseNow (onJne (tripSync (semFire (pfailSeen s) 0x001)) (fun j => { j with pfAt := btime s, pfLow := none }))
    else onJne (tripSync (semFire (pfailSeen s) 0x001)) (fun j => { j with pfAt := btime s, pfLow := none })) := by
  show execPfail s = _
  rw [execPfail, hpf, if_neg Bool.false_ne_true]
  unfold pfailSeen pfailSet
  dsimp only
  rfl

theorem pfail_result {s : State} (hpf : s.sem.pfail = false) (hrec : s.sig.recs = []) : Runs .pfail s (fun t => t.sem.pfail = true ∧
    (canFire s 0x001 = true → 0x001 ∈ t.sem.fired) ∧ t.jne.pfAt = btime s ∧ t.sig = { s.sig with traces := t.sig.traces, evs := t.sig.evs } ∧
    jneState t = (if pdLive s 44 && jneState s == 3 then 4 else jneState s) ∧
    (∀ g < 16, rb s (semTgpr g) semTgprPFAIL = true → rbit t cvpTglatch cvpTglatchTGLAT g = true) ∧
    RegsBut (jneSts :: cvpTglatch :: (List.range 8).map cvpSafests) s t ∧ SameBut [.regs, .sem, .running, .jne, .sig, .ports, .cvp] s t) := by
  refine ⟨_, pfail_exec hpf, ?_⟩
  obtain ⟨hsem, hr, hp, hcan⟩ := pfailSeen_spec s
  generalize pfailSeen s = u at hsem hr hp hcan
  have hf : canFire s 0x001 = true → 0x001 ∈ (semFire u 0x001).sem.fired := fun hc => by
    have he : (semFire u 0x001).sem.fired = u.sem.fired ++ [0x001] := by
      unfold semFire
      dsimp only
      rw [if_pos (hcan.trans hc)]
    rw [he]
    exact List.mem_append_right _ List.mem_cons_self
  have hpfu : (semFire u 0x001).sem.pfail = true := by
    have hk : (semFire u 0x001).sem.pfail = u.sem.pfail := by
      unfold semFire
      dsimp only
      split <;> rfl
    rw [hk, hsem]
  have hru : RegsBut [] s (semFire u 0x001) := hr
  have hpu : SameBut [.sem, .running] s (semFire u 0x001) := hp.and (semFire_sameBut u _)
  generalize semFire u 0x001 = v at hf hpfu hru hpu
  have hk := keepsTrips_tripSync v
  have hpfv : (tripSync v).sem.pfail = true := (keepsInputs_tripSync v).1.trans hpfu
  have hfv : canFire s 0x001 = true → 0x001 ∈ (tripSync v).sem.fired := fun hc => fired_tripSync v (hf hc)
  have hgroup : ∀ g < 16, rb s (semTgpr g) semTgprPFAIL = true → rbit (tripSync v) cvpTglatch cvpTglatchTGLAT g = true := fun g hg hen => by
    refine rbit_tripSync_of_groupInput v hg ?_
    have hen' : rb v (semTgpr g) semTgprPFAIL = true := (hru.rb_eq List.not_mem_nil _).trans hen
    simp [groupInput, hpfu, hen']
  have hsig : (tripSync v).sig = { s.sig with traces := (tripSync v).sig.traces } := hk.sig.trans (by rw [hpu .sig (by decide)])
  have hrt : RegsBut groupRegs s (tripSync v) := (hru.mono (fun _ hx => (nomatch hx))).and hk.regs (fun _ hx => hx)
  have hpt : SameBut [.regs, .sem, .running, .jne, .sig, .ports, .cvp] s (tripSync v) :=
    (hpu.mono (by decide) : SameBut [.regs, .sem, .running, .jne, .sig, .ports, .cvp] s v).and hk.parts
  generalize tripSync v = w at hpfv hfv hgroup hsig hrt hpt
  have hw := onJne_sameBut w (fun j => { j with pfAt := btime s, pfLow := none })
  have hat : (onJne w (fun j => { j with pfAt := btime s, pfLow := none })).jne.pfAt = btime s := rfl
  generalize onJne w (fun j => { j with pfAt := btime s, pfLow := none }) = x at hw hat
  have hwr : RegsBut [] w x := regsBut_of_sameBut hw (by decide) (by decide) (by decide)
  have hrx : RegsBut groupRegs s x := hrt.and hwr (fun _ hx => (nomatch hx))
  have hpx := hpt.and hw
  have hsx : x.sig = w.sig := hw .sig (by decide)
  have hxs : x.sem = w.sem := hw .sem (by decide)
  have hgx : ∀ g < 16, rb s (semTgpr g) semTgprPFAIL = true → rbit x cvpTglatch cvpTglatchTGLAT g = true :=
    fun g hg hen => (hwr.rbit_eq List.not_mem_nil _ g).trans (hgroup g hg hen)
  have hstate : jneState x = jneState s := jneState_eq hrx (by decide)
  have hsigx : x.sig = { s.sig with traces := x.sig.traces } := by rw [hsx]; exact hsig
  split
  · next h44 =>
    obtain ⟨hst, hrc, hpc, hsc, hac⟩ := jneCloseNow_spec (s := x) (by rw [hsigx]; exact hrec)
    generalize jneCloseNow x = y at hst hrc hpc hsc hac
    have hys : y.sem = w.sem := (hpc .sem (by decide)).trans hxs
    refine ⟨by rw [hys]; exact hpfv, fun hc => by rw [hys]; exact hfv hc, hac.trans hat, ?_, ?_, fun g hg hen => ?_, ?_, hpx.and hpc⟩
    · rw [hsc, hsigx]
    · rw [hst, hstate, h44, Bool.true_and]
      simp only [beq_iff_eq]
    · exact (hrc.rbit_eq (by decide) _ g).trans (hgx g hg hen)
    · exact (hrx.mono (fun _ hx => List.mem_cons_of_mem _ hx)).and hrc (fun _ hx => List.mem_singleton.1 hx ▸ List.mem_cons_self)
  · next h44 =>
    have h44' : pdLive s 44 = false := by simpa using h44
    refine ⟨by rw [hxs]; exact hpfv, fun hc => by rw [hxs]; exact hfv hc, hat, ?_, ?_, hgx, hrx.mono (fun _ hx => List.mem_cons_of_mem _ hx), hpx⟩
    · rw [hsigx]
    · rw [hstate, h44', Bool.false_and, if_neg Bool.false_ne_true]

/-! Formatting (R333). -/

theorem setU_spec {s : State} {n : Nat} (hn : n < 65536) : jneUnp (setU s n) = n ∧ jneState (setU s n) = jneState s ∧
    RegsBut [jneSts, jneU, jneBudget] s (setU s n) ∧ SameBut [.regs] s (setU s n) := by
  unfold setU
  have hu := rf_wf_same s jneU jneUU n rfl
  have hr := regsBut_wf s jneU jneUU n
  have hp := wf_sameBut s jneU jneUU n
  generalize wf s jneU jneUU n = u at hu hr hp
  have hrm := regsBut_maxTo u jneBudget jneBudgetMAXU n
  have hpm := maxTo_sameBut u jneBudget jneBudgetMAXU n
  generalize maxTo u jneBudget jneBudgetMAXU n = w at hrm hpm
  obtain ⟨hrp, hpp⟩ := psafeSync_frame w
  have hrw : RegsBut [jneU, jneBudget] s w := (hr.mono (by simp)).and hrm
  refine ⟨?_, (rf_psafeSync_state w).trans (jneState_eq hrw (by decide)), (hrw.mono (by simp)).and hrp, (hp.and hpm).and hpp⟩
  exact (hrp.rf_eq (by decide) _).trans ((hrm.rf_eq (by decide) _).trans (hu.trans (Nat.mod_eq_of_lt hn)))

/-- The registers of the media units. -/
def wearRegs : List Nat := (List.range 16).map jneMwear

/-- The capacity of media unit m is unknown again. -/
def wearForget (t : State) (m : Nat) : State := wf (wb t (jneMwear m) jneMwearMERR false) (jneMwear m) jneMwearCAP 0

/-- The capacities of all media units are. -/
def wearReset (s : State) : State := (List.range 16).foldl wearForget s

theorem wearForget_frame (t : State) (m : Nat) : RegsBut [jneMwear m] t (wearForget t m) ∧ SameBut [.regs] t (wearForget t m) :=
  ⟨(regsBut_wb t (jneMwear m) jneMwearMERR false).and (regsBut_wf _ _ jneMwearCAP 0), (wb_sameBut t _ _ _).and (wf_sameBut _ _ _ _)⟩

theorem wearReset_frame (s : State) : RegsBut wearRegs s (wearReset s) ∧ SameBut [.regs] s (wearReset s) := by
  refine ⟨List.foldlRecOn (List.range 16) _ (motive := RegsBut wearRegs s) (RegsBut.refl _ s) (fun t ht m hm => ht.and (wearForget_frame t m).1 (fun a ha => ?_)),
    SameBut.foldl _ s (fun t m => (wearForget_frame t m).2)⟩
  exact List.mem_singleton.1 ha ▸ List.mem_map_of_mem hm

theorem formatWord_fields (key : BitVec 16) : jneCmdOP.get (BitVec.ofNat 48 (key.toNat * 16 + 1)) = 1 ∧
    jneCmdKEY.get (BitVec.ofNat 48 (key.toNat * 16 + 1)) = key.toNat := by
  have hk := key.isLt
  simp only [jneCmdOP, jneCmdKEY, Fld.get, Fld.span, BitVec.toNat_ofNat, Nat.shiftRight_eq_div_pow]
  omega

theorem jneFormat_exec {s : State} {q : Req} (key : BitVec 16) (hon : pdOn s 44 = true) (hq : holdsType s q 7 = true) :
    exec (.jneFormat q key) s = .next (jneCmdWrite s q (BitVec.ofNat 48 (key.toNat * 16 + 1))) ∧
    (¬(!holdsType s q otJournal) = true) := by
  refine ⟨?_, by simp [otJournal, hq]⟩
  show execJneFormat q key s = _
  rw [execJneFormat, if_pos hon]
  rfl

theorem jneFormat_badKey {s : State} {q : Req} {key : BitVec 16} (hon : pdOn s 44 = true) (hq : holdsType s q 7 = true) (hkey : key ≠ 0xF0A7) :
    Runs (.jneFormat q key) s (fun t => t.resp = ⟨0, 0⟩ ∧ SameBut [.resp] s t) := by
  obtain ⟨hex, hq'⟩ := jneFormat_exec key hon hq
  obtain ⟨-, hk⟩ := formatWord_fields key
  have hne : key.toNat ≠ 0xF0A7 := fun h => hkey (BitVec.eq_of_toNat_eq h)
  rw [jneCmdWrite, if_neg hq', if_pos (by simp [hk, hne])] at hex
  exact ⟨_, hex, rfl, respond_sameBut s _ _⟩

theorem jneFormat_refused {s : State} {q : Req} (hon : pdOn s 44 = true) (hq : holdsType s q 7 = true) (h1 : jneState s ≠ 1) (h5 : jneState s ≠ 5) :
    Runs (.jneFormat q 0xF0A7) s (fun t => t.resp = ⟨0, 0⟩ ∧ RegsAre [withFld s jneSts jneStsFMTREF 1] s t ∧ SameBut [.regs, .resp] s t) := by
  obtain ⟨hex, hq'⟩ := jneFormat_exec 0xF0A7 hon hq
  obtain ⟨hop, hk⟩ := formatWord_fields 0xF0A7
  rw [jneCmdWrite, if_neg hq', if_neg (by simp only [hop, hk]; decide), if_pos (by simp [h1, h5])] at hex
  exact ⟨_, hex, rfl, (regsAre_wb s jneSts jneStsFMTREF true).and (regsBut_respond _ _ _), ((wb_sameBut s _ _ _).mono (by decide)).and (respond_sameBut _ _ _)⟩

/-- What a format forgets of the journal. -/
def formatted (j : Jne) : Jne := { j with
  log := [], ownq := [], mirq := [], sb := Superblock.zero, buf := [], ended := 0, dir := [], seals := [], scanned := false, padCsn := 0 }

/-- The journal as a format leaves it before its first access. -/
def formatBegun (s : State) : State := wearReset (setU (onJne (jneEnter s 6) formatted) 0)

/-- The accesses of a format after its first. -/
def formatRest (t : State) : List JOp :=
  [.wr (persBase + 0x8000) [0], .zero (persBase + ringBase t) (ringSize t), .zero (imgAddr t) (2 ^ 26 + 8192), .act .fmtCsn] ++
    ((List.range 16).filter (mqOn t)).flatMap (fun m => [JOp.sub m 4 0 1 0, .act (.infoDone m 0), .sub m 4 1 1 0, .act (.infoDone m 1)]) ++ [.act .fmtSuper]

theorem formatBegun_spec {s : State} (h45 : pdOn s 45 = false) : jneState (formatBegun s) = 6 ∧ jneUnp (formatBegun s) = 0 ∧ (formatBegun s).jne = formatted s.jne ∧
    RegsBut (jneSts :: jneU :: jneBudget :: wearRegs) s (formatBegun s) ∧ SameBut [.regs, .jne, .sig] s (formatBegun s) := by
  have hent : InState s (jneEnter s 6) 6 := jneEnter_inState (by decide) (.inl h45)
  unfold formatBegun
  generalize jneEnter s 6 = u at hent
  obtain ⟨hun, hst, hru, hpu⟩ := setU_spec (s := onJne u formatted) (n := 0) (by decide)
  have hj : (setU (onJne u formatted) 0).jne = formatted s.jne := by
    rw [hpu .jne (by decide)]
    show formatted u.jne = _
    rw [hent.jne]
  have hsw : jneState (setU (onJne u formatted) 0) = 6 := hst.trans hent.state
  have hrw : RegsBut [jneSts, jneU, jneBudget] u (setU (onJne u formatted) 0) := hru
  have hpw : SameBut [.regs, .jne] u (setU (onJne u formatted) 0) := ((onJne_sameBut u _).mono (by decide) : SameBut [.regs, .jne] u _).and hpu
  generalize setU (onJne u formatted) 0 = w at hun hj hsw hrw hpw
  obtain ⟨hrx, hpx⟩ := wearReset_frame w
  have hlow {a : Nat} (ha : a < 0x40070300) : a ∉ wearRegs := fun h => by
    obtain ⟨m, -, rfl⟩ := List.mem_map.1 h
    simp only [jneMwear] at ha
    omega
  refine ⟨(jneState_eq hrx (hlow (by decide))).trans hsw, (jneUnp_eq hrx (hlow (by decide))).trans hun, (hpx .jne (by decide)).trans hj, ?_, ?_⟩
  · exact ((hent.regs.mono (by simp) : RegsBut (jneSts :: jneU :: jneBudget :: wearRegs) s u).and hrw).and hrx
      (fun _ hx => List.mem_cons_of_mem _ (List.mem_cons_of_mem _ (List.mem_cons_of_mem _ hx)))
  · exact ((hent.parts.mono (by decide) : SameBut [.regs, .jne, .sig] s u).and hpw).and hpx

theorem scriptWrites_one (s : State) (a : Nat) (w : Word) : scriptWrites s a [w] = scriptBurst s true a 1 [w] := by
  have h1 : ([w].length + 7) / 8 = 1 := by rw [List.length_singleton]
  unfold scriptWrites
  rw [h1, List.range_one, List.foldl_cons, List.foldl_nil]
  rfl

theorem jneFormat_result {s : State} {q : Req} (hon : pdOn s 44 = true) (hq : holdsType s q 7 = true) (hst : jneState s = 1 ∨ jneState s = 5)
    (h45 : pdOn s 45 = false) (hscr : s.jne.script = []) (hb : s.jne.bursts = []) (hinfo : s.jne.infoq = []) :
    Runs (.jneFormat q 0xF0A7) s (fun t => t.resp = ⟨0, 0⟩ ∧ jneState t = 6 ∧ jneUnp t = 0 ∧ t.jne.log = [] ∧
      t.jne.bursts = [ownBurst s true persBase 1 [0]] ∧ RegsBut (jneSts :: jneU :: jneBudget :: wearRegs) s t ∧
      SameBut [.regs, .jne, .ports, .sig, .resp] s t) := by
  obtain ⟨hex, hq'⟩ := jneFormat_exec 0xF0A7 hon hq
  obtain ⟨hop, hk⟩ := formatWord_fields 0xF0A7
  have hgo : exec (.jneFormat q 0xF0A7) s = .next (respond (jneRun 64 (onJne (formatBegun s) (fun j => { j with
      script := j.script ++ .wr persBase [0] :: formatRest (formatBegun s) }))) 0) := by
    rw [hex, jneCmdWrite, if_neg hq', if_neg (by simp only [hop, hk]; decide), if_neg (by rcases hst with h | h <;> simp [h])]
    rfl
  refine ⟨_, hgo, rfl, ?_⟩
  obtain ⟨hs6, hu0, hj, hr, hp⟩ := formatBegun_spec h45
  generalize formatBegun s = u at hs6 hu0 hj hr hp
  have hxj : (onJne u (fun j => { j with script := j.script ++ .wr persBase [0] :: formatRest u })).jne =
      { formatted s.jne with script := .wr persBase [0] :: formatRest u } := by
    show ({ u.jne with script := u.jne.script ++ _ } : Jne) = _
    rw [hj, show (formatted s.jne).script = s.jne.script from rfl, hscr, List.nil_append]
  have hxp := onJne_sameBut u (fun j => { j with script := j.script ++ .wr persBase [0] :: formatRest u })
  generalize onJne u (fun j => { j with script := j.script ++ .wr persBase [0] :: formatRest u }) = x at hxj hxp
  have hbx : x.jne.bursts = [] := by rw [hxj]; exact hb
  have hstep : jneStep x = some (scriptBurst (onJne x (fun j => { j with script := formatRest u })) true persBase 1 [0]) := by
    rw [jneStep_script hbx (infoStep_none (by rw [hxj]; exact hinfo)), scriptStep, hxj]
    rfl
  obtain ⟨hsj, hsr, hsp⟩ := scriptBurst_spec (s := onJne x (fun j => { j with script := formatRest u })) hbx true persBase 1 [0]
  have hid : (onJne x (fun j => { j with script := formatRest u })).jne.nextId = s.jne.nextId := by
    show x.jne.nextId = _
    rw [hxj]
    rfl
  have hown : ownBurst (onJne x (fun j => { j with script := formatRest u })) true persBase 1 [0] = ownBurst s true persBase 1 [0] := by
    rw [ownBurst, hid, ownBurst]
  rw [hown] at hsj
  have hsp' : SameBut [.jne, .ports] x (scriptBurst (onJne x (fun j => { j with script := formatRest u })) true persBase 1 [0]) :=
    ((onJne_sameBut x _).mono (by decide) : SameBut [.jne, .ports] x _).and hsp
  have hlog : (onJne x (fun j => { j with script := formatRest u })).jne.log = [] := by
    show x.jne.log = []
    rw [hxj]
    rfl
  generalize scriptBurst (onJne x (fun j => { j with script := formatRest u })) true persBase 1 [0] = y at hstep hsj hsp'
  rw [jneRun_step hstep, jneRun_done (jneStep_waits (by rw [hsj]) rfl)]
  have hall : SameBut [.jne, .ports] u y := (hxp.mono (by decide)).and hsp'
  have hrall : RegsBut [] u y := regsBut_of_sameBut hall (by decide) (by decide) (by decide)
  refine ⟨(jneState_eq hrall List.not_mem_nil).trans hs6, (jneUnp_eq hrall List.not_mem_nil).trans hu0, ?_, ?_,
    (hr.and hrall (fun _ hx => (nomatch hx))).and (regsBut_respond _ _ _) (fun _ hx => (nomatch hx)), ?_⟩
  · show y.jne.log = []
    rw [hsj]
    exact hlog
  · show y.jne.bursts = _
    rw [hsj]
  · exact ((hp.mono (by decide) : SameBut [.regs, .jne, .ports, .sig, .resp] s u).and hall).and (respond_sameBut _ _ _)

/-- Settles O43: every step of the journal here writes registers of its own, and the first burst of an activity is what it waits for. -/
theorem journalStates : Obligations.JournalStates := by
  unfold Obligations.JournalStates
  intro s q mm am key p x b
  refine ⟨fun hon hq => ⟨fun hen hst hscr hb => ⟨fun hlay => jneOpen_opens mm am hon hq hen hst hscr hlay hb, fun hlay => jneOpen_refused mm am hon hq hen hst hscr hlay⟩,
    fun hen hrec hst => ⟨fun hu => jneClose_waits hon hq hen hrec hst hu, fun hu hlog h45 => jneClose_goesOff hon hq hen hrec hst hu hlog h45⟩,
    fun hst h45 hscr hb hinfo => jneFormat_result hon hq hst h45 hscr hb hinfo, fun h1 h5 => jneFormat_refused hon hq h1 h5,
    fun hkey => jneFormat_badKey hon hq hkey⟩,
    fun hl he h1 h48 => recoveryComplete_result hl he h1 h48,
    fun hd hb hu hc hw hcsn hlog hscr hinfo hcmd => fmtCsn_result hd hb hu hc hw hcsn hlog hscr hinfo hcmd,
    fun hl he => formatComplete_result hl he, fun hpf hrec => pfail_result hpf hrec, fun hpf => pfailDeassert_result hpf,
    fun hlow hl hst hpf hshut hp => pfailRearm_result hlow hl hst hpf hshut hp⟩

end Sys2Proof.Machine

/-! Deadline monitors: misses, ends in time, clearing and enabling (R115, R116, R118, R121 to R127). -/

namespace Sys2Proof.Machine

set_option Elab.async false

/-! A monitor's hidden state. -/

theorem monOf_setMon (s : State) (m : Nat) (x : Mon) : monOf (setMon s m x) m = x := tget_tset_same _ _ _ _

theorem setMon_sameBut (s : State) (m : Nat) (x : Mon) : SameBut [.dm] s (setMon s m x) := dm_sameBut s _

theorem regsBut_setMon (s : State) (m : Nat) (x : Mon) : RegsBut [] s (setMon s m x) := fun _ _ => rfl

theorem monOf_congr {s t : State} (h : t.dm = s.dm) (m : Nat) : monOf t m = monOf s m := by rw [monOf, h, monOf]

/-! The record of a miss (R125, R126). -/

/-- Word 1 of the record. -/
def missWord (s : State) (m reason react : Nat) : Word := BitVec.ofNat 48 (m * 2 ^ 40 + rf s (dmCfg m) dmCfgKIND * 2 ^ 38 +
  rf s (dmCfg m) dmCfgSUBJ * 2 ^ 31 + reason * 2 ^ 28 + react * 2 ^ 26)

theorem missRecord_eq (s : State) (m reason react start : Nat) :
    missRecord s m reason react start = [btime s, missWord s m reason react, BitVec.ofNat 48 start, 0] := by
  simp only [missRecord, missWord, Nat.shiftLeft_eq]

/-- The registers of entry i of the log, and of monitor m's last record. -/
def recordRegs (i m : Nat) : List Nat := (List.range 4).map (pctlDmlog i) ++ (List.range 4).map (pctlDmlast m)

theorem log_ne_last (i m j k : Nat) (hi : i < 64) (hj : j < 4) : pctlDmlog i j ≠ pctlDmlast m k := by
  simp only [pctlDmlog, pctlDmlast, ne_eq]
  omega

/-- Word w of a record goes to both. -/
def recordPut (i m : Nat) (mr : List Word) (t : State) (w : Nat) : State := wr (wr t (pctlDmlog i w) (mr.getD w 0)) (pctlDmlast m w) (mr.getD w 0)

/-- The words below n are written. -/
structure RecordedTo (s t : State) (i m n : Nat) (mr : List Word) : Prop where
  words : ∀ j < n, rd t (pctlDmlog i j) = mr.getD j 0 ∧ rd t (pctlDmlast m j) = mr.getD j 0
  regs : RegsBut (recordRegs i m) s t
  parts : SameBut [.regs] s t

theorem recordedTo_foldl (s : State) {i : Nat} (hi : i < 64) (m : Nat) (mr : List Word) {n : Nat} (hn : n ≤ 4) :
    RecordedTo s ((List.range n).foldl (recordPut i m mr) s) i m n mr := by
  induction n with
  | zero => exact ⟨fun j hj => absurd hj (Nat.not_lt_zero j), RegsBut.refl _ s, SameBut.refl _ s⟩
  | succ n ih =>
    rw [List.range_succ, List.foldl_concat]
    obtain ⟨hw, hr, hp⟩ := ih (Nat.le_of_succ_le hn)
    generalize (List.range n).foldl (recordPut i m mr) s = u at hw hr hp
    have hput : RegsBut [pctlDmlog i n, pctlDmlast m n] u (recordPut i m mr u n) := ((regsBut_wr u _ _).mono (by simp)).and (regsBut_wr _ _ _)
    refine ⟨fun j hj => ?_, hr.and hput (fun a ha => ?_), hp.and ((wr_sameBut u _ _).and (wr_sameBut _ _ _))⟩
    · rcases Nat.lt_succ_iff_lt_or_eq.1 hj with hlt | rfl
      · have h1 : pctlDmlog i j ∉ [pctlDmlog i n, pctlDmlast m n] := by
          simp only [List.mem_cons, List.not_mem_nil, or_false, pctlDmlog, pctlDmlast]
          omega
        have h2 : pctlDmlast m j ∉ [pctlDmlog i n, pctlDmlast m n] := by
          simp only [List.mem_cons, List.not_mem_nil, or_false, pctlDmlog, pctlDmlast]
          omega
        exact ⟨(hput _ h1).trans (hw j hlt).1, (hput _ h2).trans (hw j hlt).2⟩
      · exact ⟨(rd_wr_other _ _ (log_ne_last i m j j hi (by omega))).trans (rd_wr_same _ _ _), rd_wr_same _ _ _⟩
    · have hmem : n ∈ List.range 4 := List.mem_range.2 hn
      rcases List.mem_cons.1 ha with rfl | ha
      · exact List.mem_append_left _ (List.mem_map_of_mem hmem)
      · exact List.mem_singleton.1 ha ▸ List.mem_append_right _ (List.mem_map_of_mem hmem)

/-- The log's pointer after a record: an entry that was not read is lost. -/
def lostCounted (s : State) : State :=
  if s.dm.unread.contains (rf s pctlDmlogptr pctlDmlogptrWR) then inc s pctlDmlogptr pctlDmlogptrLOST else s

theorem lostCounted_frame (s : State) : RegsBut [pctlDmlogptr] s (lostCounted s) ∧ SameBut [.regs] s (lostCounted s) := by
  unfold lostCounted
  split
  · exact ⟨regsBut_inc s _ _ 1, inc_sameBut s _ _ 1⟩
  · exact ⟨RegsBut.refl _ s, SameBut.refl _ s⟩

theorem missLog_spec (s : State) {m : Nat} (hm : m < 256) (mr : List Word) :
    (∀ j < 4, rd (missLog s m mr) (pctlDmlog (rf s pctlDmlogptr pctlDmlogptrWR) j) = mr.getD j 0 ∧ rd (missLog s m mr) (pctlDmlast m j) = mr.getD j 0) ∧
    rf (missLog s m mr) pctlDmlogptr pctlDmlogptrWR = (rf s pctlDmlogptr pctlDmlogptrWR + 1) % 64 ∧
    (∃ n, monOf (missLog s m mr) m = { monOf s m with lastNo := n }) ∧
    RegsBut (pctlDmlogptr :: recordRegs (rf s pctlDmlogptr pctlDmlogptrWR) m) s (missLog s m mr) ∧ SameBut [.regs, .dm] s (missLog s m mr) := by
  have hi : rf s pctlDmlogptr pctlDmlogptrWR < 64 := Fld.get_lt pctlDmlogptrWR _
  obtain ⟨hr0, hp0⟩ := lostCounted_frame s
  unfold missLog
  dsimp only
  rw [← lostCounted]
  generalize lostCounted s = u at hr0 hp0
  generalize rf s pctlDmlogptr pctlDmlogptrWR = i at hi
  obtain ⟨hw, hr1, hp1⟩ := recordedTo_foldl u hi m mr (le_refl 4)
  rw [show (List.range 4).foldl (fun t w => wr (wr t (pctlDmlog i w) (mr.getD w 0)) (pctlDmlast m w) (mr.getD w 0)) u =
    (List.range 4).foldl (recordPut i m mr) u from rfl]
  generalize (List.range 4).foldl (recordPut i m mr) u = v at hw hr1 hp1
  have hr2 := regsBut_wf v pctlDmlogptr pctlDmlogptrWR ((i + 1) % 64)
  have hp2 := wf_sameBut v pctlDmlogptr pctlDmlogptrWR ((i + 1) % 64)
  have hwr : rf (wf v pctlDmlogptr pctlDmlogptrWR ((i + 1) % 64)) pctlDmlogptr pctlDmlogptrWR = (i + 1) % 64 :=
    (rf_wf_same v _ _ _ rfl).trans (Nat.mod_eq_of_lt (Nat.mod_lt _ (by decide)))
  generalize wf v pctlDmlogptr pctlDmlogptrWR ((i + 1) % 64) = w at hr2 hp2 hwr
  have hlog (j : Nat) (hj : j < 4) : pctlDmlog i j ∉ [pctlDmlogptr] ∧ pctlDmlast m j ∉ [pctlDmlogptr] := by
    simp only [List.mem_singleton, pctlDmlog, pctlDmlast, pctlDmlogptr]
    omega
  have hsw : SameBut [.regs] s w := (hp0.and hp1).and hp2
  refine ⟨fun j hj => ⟨(hr2 _ (hlog j hj).1).trans (hw j hj).1, (hr2 _ (hlog j hj).2).trans (hw j hj).2⟩, hwr, ⟨w.dm.logNo + 1, ?_⟩, ?_,
    (hsw.mono (by decide) : SameBut [.regs, .dm] s w).and ((dm_sameBut w _).mono (by decide) : SameBut [.regs, .dm] w _)⟩
  · refine (monOf_setMon w m { monOf w m with lastNo := w.dm.logNo + 1 }).trans ?_
    rw [monOf_congr (hsw .dm (by decide))]
  · exact ((hr0.mono (by simp)).and hr1 (fun _ hx => List.mem_cons_of_mem _ hx)).and hr2

/-! The reaction (R121, R122). -/

/-- The reaction of a miss where HOLD forms no edges. -/
def reactOf (s : State) (m : Nat) : Nat :=
  if rf s (dmCfg m) dmCfgREACT = 0 then (if rf s (dmSts m) dmStsHOLDRUN < rf s (dmCfg m) dmCfgHOLDMAX then 0 else 1)
  else if rf s (dmCfg m) dmCfgREACT = 1 then 1 else 2

/-- HOLD forms no edges: it is not the reaction, it has run out, or its subject has none. -/
def NoEdges (s : State) (m : Nat) : Prop := rf s (dmCfg m) dmCfgREACT ≠ 0 ∨ rf s (dmCfg m) dmCfgHOLDMAX ≤ rf s (dmSts m) dmStsHOLDRUN ∨
  rf s (dmCfg m) dmCfgKIND = 0 ∨ rf s (dmCfg m) dmCfgKIND = 3

/-- HOLDRUN after a miss. -/
def holdAfter (s : State) (m : Nat) : Nat :=
  if reactOf s m = 0 then min 7 (rf s (dmSts m) dmStsHOLDRUN + 1) else rf s (dmSts m) dmStsHOLDRUN

/-- What the reaction itself leaves. -/
structure Reacted (s t : State) (m : Nat) : Prop where
  hold : rf t (dmSts m) dmStsHOLDRUN = holdAfter s m
  apart : ∀ f : Fld, f.fits = true → dmStsHOLDRUN.hi < f.lo ∨ f.hi < dmStsHOLDRUN.lo → rf t (dmSts m) f = rf s (dmSts m) f
  regs : RegsBut [dmSts m] s t
  parts : SameBut [.regs] s t

theorem holdAction_none {s : State} {m : Nat} (st : DmStart) (gap : Bool) (h : rf s (dmCfg m) dmCfgKIND = 0 ∨ rf s (dmCfg m) dmCfgKIND = 3) :
    holdAction s m st gap = some s := by
  rw [holdAction]
  rcases h with h | h <;> rw [h] <;> rfl

theorem missReact_spec {s : State} {m : Nat} (st : DmStart) (gap : Bool) (h : NoEdges s m) :
    (missReact s m st gap).1 = reactOf s m ∧ Reacted s (missReact s m st gap).2 m := by
  have hself (h0 : reactOf s m ≠ 0) : Reacted s s m :=
    ⟨by rw [holdAfter, if_neg h0], fun _ _ _ => rfl, RegsBut.refl _ s, SameBut.refl _ s⟩
  have hreact : reactOf s m = if rf s (dmCfg m) dmCfgREACT = 0 then (if rf s (dmSts m) dmStsHOLDRUN < rf s (dmCfg m) dmCfgHOLDMAX then 0 else 1)
    else if rf s (dmCfg m) dmCfgREACT = 1 then 1 else 2 := rfl
  unfold missReact
  dsimp only
  split
  · next hr =>
    rw [if_pos hr] at hreact
    by_cases hle : rf s (dmCfg m) dmCfgHOLDMAX ≤ rf s (dmSts m) dmStsHOLDRUN
    · rw [if_neg (Nat.not_lt.2 hle)] at hreact
      rw [if_pos hle]
      exact ⟨hreact.symm, hself (by rw [hreact]; decide)⟩
    · rw [if_pos (Nat.not_le.1 hle)] at hreact
      have hkind : rf s (dmCfg m) dmCfgKIND = 0 ∨ rf s (dmCfg m) dmCfgKIND = 3 := by
        rcases h with h | h | h
        · exact absurd hr h
        · exact absurd h hle
        · exact h
      rw [if_neg hle, holdAction_none st gap hkind]
      refine ⟨hreact.symm, ?_, fun f hf hap => rf_wf_apart s _ _ _ _ rfl hf hap, regsBut_wf s _ _ _, wf_sameBut s _ _ _⟩
      rw [holdAfter, if_pos hreact]
      exact (rf_wf_same s _ _ _ rfl).trans (Nat.mod_eq_of_lt (lt_of_le_of_lt (Nat.min_le_left _ _) (by decide)))
  · next hr =>
    rw [if_neg (by rw [hr]; decide), if_pos hr] at hreact
    exact ⟨hreact.symm, hself (by rw [hreact]; decide)⟩
  · next h0 h1 =>
    rw [if_neg h0, if_neg h1] at hreact
    exact ⟨hreact.symm, hself (by rw [hreact]; decide)⟩

/-! A miss is booked: the record, the counts and the flags (R125, R126). -/

/-- The registers that the booking of a miss of monitor m in entry i writes. -/
def bookRegs (i m : Nat) : List Nat := dmSts m :: pctlDmlogptr :: dbgTrptr :: recordRegs i m

theorem dmSts_notMem_record {m i k : Nat} (hm : m < 256) : dmSts m ∉ pctlDmlogptr :: recordRegs i k := by
  simp only [recordRegs, List.mem_cons, List.mem_append, List.mem_map, List.mem_range, not_or, not_exists, not_and, dmSts, pctlDmlogptr, pctlDmlog, pctlDmlast]
  refine ⟨by omega, fun x hx => by omega, fun x hx => by omega⟩

/-- The signals but the trace. -/
def quietSig (g : Sig) : List (Nat × Nat × Word) × List RecReq × List EvReq := (g.asyncs, g.recs, g.evs)

theorem raiseTrace_quiet (s : State) (k x d : Nat) : quietSig (raiseTrace s k x d).sig = quietSig s.sig := by
  unfold raiseTrace
  split
  · rfl
  · split <;> rfl

/-- `t` is `s` with the miss booked. -/
structure Booked (s t : State) (m : Nat) (mr : List Word) : Prop where
  words : ∀ j < 4, rd t (pctlDmlog (rf s pctlDmlogptr pctlDmlogptrWR) j) = mr.getD j 0 ∧ rd t (pctlDmlast m j) = mr.getD j 0
  ptr : rf t pctlDmlogptr pctlDmlogptrWR = (rf s pctlDmlogptr pctlDmlogptrWR + 1) % 64
  miss : rb t (dmSts m) dmStsMISS = true
  misses : rf t (dmSts m) dmStsMISSES = min 4095 (rf s (dmSts m) dmStsMISSES + 1)
  apart : ∀ f ∈ [dmStsSAFEACT, dmStsHOLDRUN], rf t (dmSts m) f = rf s (dmSts m) f
  mon : ∃ n, monOf t m = { monOf s m with lastNo := n }
  sig : quietSig t.sig = quietSig s.sig
  regs : RegsBut (bookRegs (rf s pctlDmlogptr pctlDmlogptrWR) m) s t
  parts : SameBut [.regs, .dm, .sig] s t

/-- The booking. -/
def missBooked (s : State) (m : Nat) (mr : List Word) (d : Nat) : State :=
  wb (inc (raiseTrace (missLog s m mr) 3 m d) (dmSts m) dmStsMISSES) (dmSts m) dmStsMISS true

theorem missBooked_spec (s : State) {m : Nat} (hm : m < 256) (mr : List Word) (d : Nat) : Booked s (missBooked s m mr d) m mr := by
  obtain ⟨hw, hp, hmon, hr, hparts⟩ := missLog_spec s hm mr
  unfold missBooked
  generalize hi : rf s pctlDmlogptr pctlDmlogptrWR = i at hw hp hr
  have hsig0 : quietSig (missLog s m mr).sig = quietSig s.sig := congrArg quietSig (hparts .sig (by decide))
  generalize missLog s m mr = u at hw hp hmon hr hparts hsig0
  have htr := regsBut_raiseTrace u 3 m d
  have htp := raiseTrace_sameBut u 3 m d
  have hts := (raiseTrace_quiet u 3 m d).trans hsig0
  generalize raiseTrace u 3 m d = v at htr htp hts
  have hlog {j : Nat} (hj : j < 4) : pctlDmlog i j ∉ [dbgTrptr] ∧ pctlDmlast m j ∉ [dbgTrptr] ∧ pctlDmlog i j ∉ [dmSts m] ∧ pctlDmlast m j ∉ [dmSts m] := by
    have hi' : i < 64 := hi ▸ Fld.get_lt pctlDmlogptrWR _
    simp only [List.mem_singleton, pctlDmlog, pctlDmlast, dbgTrptr, dmSts]
    omega
  have hsts : dmSts m ∉ [dbgTrptr] := by simp only [List.mem_singleton, dmSts, dbgTrptr]; omega
  have hstv (f : Fld) : rf v (dmSts m) f = rf s (dmSts m) f := (htr.rf_eq hsts f).trans (hr.rf_eq (dmSts_notMem_record hm) f)
  have hrx : RegsBut [dmSts m] v (wb (inc v (dmSts m) dmStsMISSES) (dmSts m) dmStsMISS true) := (regsBut_inc v _ _ 1).and (regsBut_wb _ _ _ _)
  have hpx : SameBut [.regs] v (wb (inc v (dmSts m) dmStsMISSES) (dmSts m) dmStsMISS true) := (inc_sameBut v _ _ 1).and (wb_sameBut _ _ _ _)
  have hptr : pctlDmlogptr ∉ [dmSts m] := by simp only [List.mem_singleton, dmSts, pctlDmlogptr]; omega
  have hall : SameBut [.regs, .dm, .sig] s v := (hparts.mono (by decide)).and htp
  refine ⟨fun j hj => ?_, ?_, rb_wb_same _ _ _ true rfl, ?_, fun f hf => ?_, ?_, ?_, ?_, hall.and hpx⟩
  · obtain ⟨h1, h2, h3, h4⟩ := hlog hj
    rw [hi]
    exact ⟨((hrx _ h3).trans (htr _ h1)).trans (hw j hj).1, ((hrx _ h4).trans (htr _ h2)).trans (hw j hj).2⟩
  · rw [hi]
    exact ((hrx.rf_eq hptr _).trans (htr.rf_eq (by decide) _)).trans hp
  · rw [rf_wb_apart _ _ true rfl rfl (by decide), rf_inc_same v _ 1 rfl, satAdd_eq_min, hstv]
    rfl
  · obtain ⟨hfit, h1, h2⟩ := (by decide : ∀ f ∈ [dmStsSAFEACT, dmStsHOLDRUN], f.fits = true ∧ (dmStsMISSES.hi < f.lo ∨ f.hi < dmStsMISSES.lo) ∧
      (dmStsMISS.hi < f.lo ∨ f.hi < dmStsMISS.lo)) f hf
    rw [rf_wb_apart _ _ true rfl hfit h2, rf_inc_apart v _ 1 rfl hfit h1, hstv]
  · obtain ⟨n, hn⟩ := hmon
    exact ⟨n, (monOf_congr ((htp.and hpx) .dm (by decide)) m).trans hn⟩
  · exact (congrArg quietSig (hpx .sig (by decide))).trans hts
  · rw [hi]
    refine ((hr.mono (fun a ha => ?_)).and htr (by simp [bookRegs])).and hrx (by simp [bookRegs])
    simp only [bookRegs, List.mem_cons] at ha ⊢
    tauto

/-! What a miss raises (R121, R128, R138). -/

/-- The fault of the owner. -/
def ownerFaulted (s t : State) (m : Nat) (w1 : Word) : State :=
  if rf s (dmCfg m) dmCfgOWNER < 8 then raiseAsync t (rf s (dmCfg m) dmCfgOWNER) codeDeadlineMiss w1 else t

theorem ownerFaulted_spec (s t : State) (m : Nat) (w1 : Word) :
    (ownerFaulted s t m w1).sig = { t.sig with asyncs := t.sig.asyncs ++ (if rf s (dmCfg m) dmCfgOWNER < 8 then [(rf s (dmCfg m) dmCfgOWNER, 0x3B, w1)] else []) } ∧
    RegsBut [] t (ownerFaulted s t m w1) ∧ SameBut [.sig] t (ownerFaulted s t m w1) := by
  unfold ownerFaulted
  split
  · exact ⟨rfl, fun _ _ => rfl, sig_sameBut t _⟩
  · exact ⟨by rw [List.append_nil], RegsBut.refl _ t, SameBut.refl _ t⟩

/-- The producer event and its pulse on the trip groups. -/
def missFired (t : State) (q : Nat) : State := dmMissPulse (semFire t (0x020 + q)) q

theorem missFired_sameBut (t : State) (q : Nat) : SameBut [.sem] t (missFired t q) := (semFire_sameBut t _).and (sem_sameBut _ _)

theorem producerDomain_miss {q : Nat} (hq : q < 16) : producerDomain (0x020 + q) = none := by
  revert q
  decide +kernel

theorem missFired_sem {l : List Nat} {s t : State} {q : Nat} (hq : q < 16) (hr : RegsBut l s t) (hl : ∀ d < 56, pctlPd d ∉ l) (hsem : t.sem = s.sem)
    (hport : t.port = s.port) : (missFired t q).sem = { (semFire s (0x020 + q)).sem with
      pulse := if s.sem.pulse.contains (q, s.port + 2) then s.sem.pulse else s.sem.pulse ++ [(q, s.port + 2)] } := by
  have hfire : (semFire t (0x020 + q)).sem = (semFire s (0x020 + q)).sem :=
    fires_of_semFire hr hl (fun d hd => by rw [producerDomain_miss hq] at hd; exact nomatch hd) hsem hport
  have hpulse (u : State) : (semFire u (0x020 + q)).sem.pulse = u.sem.pulse := by
    unfold semFire
    dsimp only
    split <;> rfl
  have hp : (semFire t (0x020 + q)).port = s.port := hport
  show ({ (semFire t (0x020 + q)).sem with pulse := if (semFire t (0x020 + q)).sem.pulse.contains (q, (semFire t (0x020 + q)).port + 2) then
    (semFire t (0x020 + q)).sem.pulse else (semFire t (0x020 + q)).sem.pulse ++ [(q, (semFire t (0x020 + q)).port + 2)] } : Sem) = _
  rw [hfire, hp, hpulse s]

theorem escalate_spec (s : State) (mr : List Word) : (escalate s mr).intc.strobes = s.intc.strobes ++ [447] ∧ (escalate s mr).sig.evs = s.sig.evs ++ [⟨1, mr⟩] ∧
    (escalate s mr).sig.asyncs = s.sig.asyncs ∧ RegsBut [jneCnt] s (escalate s mr) ∧ SameBut [.regs, .sig, .intc] s (escalate s mr) := by
  have hp : SameBut [.regs, .sig, .intc] s (raiseEv (strobe s 447) evDeadlineEscalated mr) :=
    ((intc_sameBut s _).mono (by decide) : SameBut [.regs, .sig, .intc] s (strobe s 447)).and (sig_sameBut _ _)
  have hi : (raiseEv (strobe s 447) evDeadlineEscalated mr).intc.strobes = s.intc.strobes ++ [447] := rfl
  have he : (raiseEv (strobe s 447) evDeadlineEscalated mr).sig.evs = s.sig.evs ++ [⟨1, mr⟩] := rfl
  have ha : (raiseEv (strobe s 447) evDeadlineEscalated mr).sig.asyncs = s.sig.asyncs := rfl
  have hr : RegsBut [] s (raiseEv (strobe s 447) evDeadlineEscalated mr) := fun _ _ => rfl
  unfold escalate
  generalize raiseEv (strobe s 447) evDeadlineEscalated mr = u at hp hi he ha hr
  unfold raiseRec
  split
  · exact ⟨hi, he, ha, (hr.mono (fun _ hx => (nomatch hx))).and (regsBut_inc u _ _ 1) (fun _ hx => hx), hp.and (inc_sameBut u _ _ 1)⟩
  · exact ⟨hi, he, ha, (hr.mono (fun _ hx => (nomatch hx))).and (fun _ _ => rfl : RegsBut [] u _) (fun _ hx => (nomatch hx)), hp.and (sig_sameBut u _)⟩

/-! The safe condition of a monitor (R33, R123). -/

theorem testBit_foldl_or {α : Type} (f : α → Nat) (l : List α) (acc i : Nat) :
    (l.foldl (fun acc x => acc ||| f x) acc).testBit i = (acc.testBit i || l.any (fun x => (f x).testBit i)) := by
  induction l generalizing acc with
  | nil => exact (Bool.or_false _).symm
  | cons x l ih => rw [List.foldl_cons, ih, Nat.testBit_or, List.any_cons, Bool.or_assoc]

theorem testBit_ownWord32 {s : State} {own i w j : Nat} (hj : j < 32) (h : owns s own i (32 * w + j) = true) : (ownWord32 s own i w).testBit j = true := by
  have he : ownWord32 s own i w = (List.range 32).foldl (fun acc j => acc ||| (if owns s own i (32 * w + j) then 1 <<< j else 0)) 0 := by
    refine List.foldl_ext _ _ _ (fun acc x _ => ?_)
    split
    · rfl
    · rw [Nat.or_zero]
  rw [he, testBit_foldl_or, Bool.or_eq_true]
  refine .inr (List.any_eq_true.2 ⟨j, List.mem_range.2 hj, ?_⟩)
  rw [if_pos h, Nat.one_shiftLeft, Nat.testBit_two_pow_self]

theorem pairSource_of_held {s : State} {m p : Nat} (hm : m < 256) (hs : rb s (dmSts m) dmStsSAFEACT = true)
    (hb : (monSafeWord s (p / 32) m).testBit (p % 32) = true) : pairSource s p = true := by
  rw [pairSource, safeWord]
  split
  · exact testBit_ones (Nat.mod_lt _ (by decide))
  · rw [Nat.testBit_or, testBit_foldl_or, Bool.or_eq_true, Bool.or_eq_true]
    exact .inr (.inr (List.any_eq_true.2 ⟨m, List.mem_filter.2 ⟨List.mem_range.2 hm, hs⟩, hb⟩))

theorem monSafeWord_owned {s : State} {m p who : Nat} (hk : rf s (dmCfg m) dmCfgKIND = 1 ∨ rf s (dmCfg m) dmCfgKIND = 2)
    (hwho : who = if rf s (dmCfg m) dmCfgKIND = 2 then rf s (dmCfg m) dmCfgSUBJ % 8 else rf s (dmCfg m) dmCfgSUBJ)
    (ho : owns s (rf s (dmCfg m) dmCfgKIND) who p = true) : (monSafeWord s (p / 32) m).testBit (p % 32) = true := by
  have hp : 32 * (p / 32) + p % 32 = p := Nat.div_add_mod p 32
  have hlt : p % 32 < 32 := Nat.mod_lt _ (by decide)
  rcases hk with hk | hk
  · rw [hk, if_neg (by decide)] at hwho
    rw [hk] at ho
    have hsub : monSubj s m = who := by
      rw [monSubj, hk, hwho]
      rfl
    rw [monSafeWord, hk]
    show (ownWord32 s 1 (monSubj s m) (p / 32)).testBit (p % 32) = true
    rw [hsub]
    exact testBit_ownWord32 hlt (by rw [hp]; exact ho)
  · rw [hk, if_pos rfl] at hwho
    rw [hk] at ho
    have hsub : monSubj s m = who := by
      rw [monSubj, hk, hwho]
      rfl
    rw [monSafeWord, hk]
    show (ownWord32 s 2 (monSubj s m) (p / 32)).testBit (p % 32) = true
    rw [hsub]
    exact testBit_ownWord32 hlt (by rw [hp]; exact ho)

theorem monSafeWord_task {s : State} {m : Nat} (w : Nat) (hk : rf s (dmCfg m) dmCfgKIND = 3) :
    monSafeWord s w m = rf s (cvpTgmask (rf s (dmCfg m) dmCfgTGRP) w) cvpTgmaskMASK := by
  rw [monSafeWord, hk]
  rfl

/-! A miss as a whole. -/

/-- The subject that owns pairs. -/
def ownerOf (s : State) (m : Nat) : Nat :=
  if rf s (dmCfg m) dmCfgKIND = 2 then rf s (dmCfg m) dmCfgSUBJ % 8 else rf s (dmCfg m) dmCfgSUBJ

/-- The record that a miss shows. -/
def missShown (s : State) (m reason start : Nat) : List Word := [btime s, missWord s m reason (reactOf s m), BitVec.ofNat 48 start, 0]

/-- The registers that a miss may change. -/
def missRegs (s : State) (m : Nat) : List Nat := [dmSts m, pctlDmlogptr, dbgTrptr, jneCnt] ++ safeRegs ++
  (List.range 4).map (pctlDmlog (rf s pctlDmlogptr pctlDmlogptrWR)) ++ (List.range 4).map (pctlDmlast m)

/-- What a miss of monitor m leaves, as the obligation says it. -/
def Misses (s : State) (m reason start : Nat) (t : State) : Prop :=
  (∀ j < 4, rd t (pctlDmlog (rf s pctlDmlogptr pctlDmlogptrWR) j) = (missShown s m reason start).getD j 0 ∧
    rd t (pctlDmlast m j) = (missShown s m reason start).getD j 0) ∧
  rf t pctlDmlogptr pctlDmlogptrWR = (rf s pctlDmlogptr pctlDmlogptrWR + 1) % 64 ∧ rb t (dmSts m) dmStsMISS = true ∧
  rf t (dmSts m) dmStsMISSES = min 4095 (rf s (dmSts m) dmStsMISSES + 1) ∧
  rb t (dmSts m) dmStsSAFEACT = (rb s (dmSts m) dmStsSAFEACT || reactOf s m != 0 || (monOf s m).relAt == s.port + 1) ∧
  rf t (dmSts m) dmStsHOLDRUN = holdAfter s m ∧
  (∀ p < 256, reactOf s m ≠ 0 → rf s (dmCfg m) dmCfgKIND = 1 ∨ rf s (dmCfg m) dmCfgKIND = 2 → owns s (rf s (dmCfg m) dmCfgKIND) (ownerOf s m) p = true → rnSafe t p = true) ∧
  (∀ p < 256, reactOf s m ≠ 0 → rf s (dmCfg m) dmCfgKIND = 3 →
    rbit s (cvpTgmask (rf s (dmCfg m) dmCfgTGRP) (p / 32)) cvpTgmaskMASK (p % 32) = true → rnSafe t p = true) ∧
  t.sig.asyncs = s.sig.asyncs ++ (if rf s (dmCfg m) dmCfgOWNER < 8 then [(rf s (dmCfg m) dmCfgOWNER, 0x3B, missWord s m reason (reactOf s m))] else []) ∧
  t.intc.strobes = s.intc.strobes ++ (if reactOf s m = 2 then [447] else []) ∧
  t.sig.evs = s.sig.evs ++ (if reactOf s m = 2 then [⟨1, missShown s m reason start⟩] else []) ∧
  t.sem = { (semFire s (0x020 + m / 16)).sem with
    pulse := if s.sem.pulse.contains (m / 16, s.port + 2) then s.sem.pulse else s.sem.pulse ++ [(m / 16, s.port + 2)] } ∧
  RegsBut (missRegs s m) s t ∧ SameBut [.regs, .dm, .sig, .sem, .intc, .cvp] s t

/-- The registers of a miss before the safe pairs follow. -/
def raisedRegs (s : State) (m : Nat) : List Nat := jneCnt :: bookRegs (rf s pctlDmlogptr pctlDmlogptrWR) m

theorem raisedRegs_sub (s : State) (m : Nat) : ∀ a ∈ raisedRegs s m, a ∈ missRegs s m := by
  intro a ha
  simp only [raisedRegs, bookRegs, recordRegs, missRegs, List.mem_cons, List.mem_append, List.not_mem_nil, or_false] at ha ⊢
  tauto

theorem notMem_raisedRegs {s : State} {m a : Nat} (hm : m < 256) (h : a < 0x40000206 ∨ 0x40010000 ≤ a) (h2 : a < 0x40070000) : a ∉ raisedRegs s m := by
  have hi : rf s pctlDmlogptr pctlDmlogptrWR < 64 := Fld.get_lt pctlDmlogptrWR _
  simp only [raisedRegs, bookRegs, recordRegs, List.mem_cons, List.mem_append, List.mem_map, List.mem_range, not_or, not_exists, not_and, jneCnt, dmSts,
    pctlDmlogptr, dbgTrptr, pctlDmlog, pctlDmlast] at hi ⊢
  refine ⟨by omega, by omega, by omega, by omega, fun x hx => by omega, fun x hx => by omega⟩

theorem dmCfg_notMem_raisedRegs {s : State} {m k : Nat} (hm : m < 256) (hk : k < 256) : dmCfg k ∉ raisedRegs s m := by
  simp only [raisedRegs, bookRegs, recordRegs, List.mem_cons, List.mem_append, List.mem_map, List.mem_range, not_or, not_exists, not_and, jneCnt, dmSts,
    pctlDmlogptr, dbgTrptr, pctlDmlog, pctlDmlast, dmCfg]
  refine ⟨by omega, by omega, by omega, by omega, fun x hx => by omega, fun x hx => by omega⟩

/-- The state of a miss before the safe pairs follow it. -/
structure Raised (s t : State) (m reason start : Nat) : Prop where
  words : ∀ j < 4, rd t (pctlDmlog (rf s pctlDmlogptr pctlDmlogptrWR) j) = (missShown s m reason start).getD j 0 ∧
    rd t (pctlDmlast m j) = (missShown s m reason start).getD j 0
  ptr : rf t pctlDmlogptr pctlDmlogptrWR = (rf s pctlDmlogptr pctlDmlogptrWR + 1) % 64
  miss : rb t (dmSts m) dmStsMISS = true
  misses : rf t (dmSts m) dmStsMISSES = min 4095 (rf s (dmSts m) dmStsMISSES + 1)
  safe : rb t (dmSts m) dmStsSAFEACT = rb s (dmSts m) dmStsSAFEACT
  hold : rf t (dmSts m) dmStsHOLDRUN = holdAfter s m
  asyncs : t.sig.asyncs = s.sig.asyncs ++ (if rf s (dmCfg m) dmCfgOWNER < 8 then [(rf s (dmCfg m) dmCfgOWNER, 0x3B, missWord s m reason (reactOf s m))] else [])
  strobes : t.intc.strobes = s.intc.strobes ++ (if reactOf s m = 2 then [447] else [])
  evs : t.sig.evs = s.sig.evs ++ (if reactOf s m = 2 then [⟨1, missShown s m reason start⟩] else [])
  sem : t.sem = { (semFire s (0x020 + m / 16)).sem with
    pulse := if s.sem.pulse.contains (m / 16, s.port + 2) then s.sem.pulse else s.sem.pulse ++ [(m / 16, s.port + 2)] }
  mon : ∃ n, monOf t m = { monOf s m with lastNo := n, ontime := 0, missAt := s.port + 1 }
  regs : RegsBut (raisedRegs s m) s t
  parts : SameBut [.regs, .dm, .sig, .sem, .intc] s t

/-- All that a miss does before the safe pairs follow. -/
def missRaised (s : State) (m reason : Nat) (st : DmStart) : State :=
  (fun u : State => if (missReact s m st (reason == 3)).1 = 2 then escalate u (missRecord s m reason (missReact s m st (reason == 3)).1 st.at_) else u)
    (missFired (ownerFaulted s (setMon (missBooked (missReact s m st (reason == 3)).2 m (missRecord s m reason (missReact s m st (reason == 3)).1 st.at_)
        (8 * (missReact s m st (reason == 3)).1 + reason)) m
      { monOf (missBooked (missReact s m st (reason == 3)).2 m (missRecord s m reason (missReact s m st (reason == 3)).1 st.at_)
        (8 * (missReact s m st (reason == 3)).1 + reason)) m with ontime := 0, missAt := s.port + 1 }) m
      ((missRecord s m reason (missReact s m st (reason == 3)).1 st.at_).getD 1 0)) (m / 16))

/-- The release of the safe condition lies in the cycle of the miss. -/
def missBack (s : State) (m reason : Nat) (st : DmStart) : Bool :=
  (monOf (missBooked (missReact s m st (reason == 3)).2 m (missRecord s m reason (missReact s m st (reason == 3)).1 st.at_)
    (8 * (missReact s m st (reason == 3)).1 + reason)) m).relAt == s.port + 1

theorem dmMiss_eq (s : State) (m reason : Nat) (st : DmStart) : dmMiss s m reason st =
    if (missReact s m st (reason == 3)).1 = 0 && !missBack s m reason st then safeSync (missRaised s m reason st)
    else safeSync (wb (missRaised s m reason st) (dmSts m) dmStsSAFEACT true) := rfl

theorem missRaised_spec {s : State} {m : Nat} (hm : m < 256) (reason : Nat) (st : DmStart) (h : NoEdges s m) :
    Raised s (missRaised s m reason st) m reason st.at_ ∧ missBack s m reason st = ((monOf s m).relAt == s.port + 1) := by
  obtain ⟨h1, hhold, hap, hr1, hp1⟩ := missReact_spec st (reason == 3) h
  unfold missRaised missBack
  rw [h1]
  generalize (missReact s m st (reason == 3)).2 = u at hhold hap hr1 hp1
  rw [missRecord_eq]
  rw [show [btime s, missWord s m reason (reactOf s m), BitVec.ofNat 48 st.at_, 0] = missShown s m reason st.at_ from rfl]
  obtain ⟨hw, hptr, hmiss, hmisses, hbap, ⟨n, hmon⟩, hsig, hr2, hp2⟩ := missBooked_spec u hm (missShown s m reason st.at_) (8 * reactOf s m + reason)
  generalize missBooked u m (missShown s m reason st.at_) (8 * reactOf s m + reason) = v at hw hptr hmiss hmisses hbap hmon hsig hr2 hp2
  have hpu : pctlDmlogptr ∉ [dmSts m] := by simp only [List.mem_singleton, dmSts, pctlDmlogptr]; omega
  have hup : rf u pctlDmlogptr pctlDmlogptrWR = rf s pctlDmlogptr pctlDmlogptrWR := hr1.rf_eq hpu _
  rw [hup] at hw hptr hr2
  have hmon' : monOf v m = { monOf s m with lastNo := n } := by rw [hmon, monOf_congr (hp1 .dm (by decide))]
  have hsv : SameBut [.regs, .dm, .sig] s v := (hp1.mono (by decide) : SameBut [.regs, .dm, .sig] s u).and hp2
  have hrv : RegsBut (bookRegs (rf s pctlDmlogptr pctlDmlogptrWR) m) s v := (hr1.mono (by simp [bookRegs])).and hr2 (fun _ hx => hx)
  have hsigv : quietSig v.sig = quietSig s.sig := hsig.trans (congrArg quietSig (hp1 .sig (by decide)))
  have hqa : v.sig.asyncs = s.sig.asyncs := congrArg Prod.fst hsigv
  have hqe : v.sig.evs = s.sig.evs := congrArg (fun p => p.2.2) hsigv
  have hmissesv : rf v (dmSts m) dmStsMISSES = min 4095 (rf s (dmSts m) dmStsMISSES + 1) := by
    rw [hmisses, hap _ rfl (by decide)]
  have hholdv : rf v (dmSts m) dmStsHOLDRUN = holdAfter s m := (hbap _ (by simp)).trans hhold
  have hsafev : rb v (dmSts m) dmStsSAFEACT = rb s (dmSts m) dmStsSAFEACT := by
    rw [rb, hbap _ (by simp), hap _ rfl (by decide), rb]
  refine ⟨?_, by rw [hmon']⟩
  have hmw : monOf (setMon v m { monOf v m with ontime := 0, missAt := s.port + 1 }) m = { monOf s m with lastNo := n, ontime := 0, missAt := s.port + 1 } := by
    rw [monOf_setMon, hmon']
  have hrw := regsBut_setMon v m { monOf v m with ontime := 0, missAt := s.port + 1 }
  have hpw := setMon_sameBut v m { monOf v m with ontime := 0, missAt := s.port + 1 }
  generalize setMon v m { monOf v m with ontime := 0, missAt := s.port + 1 } = w at hmw hrw hpw
  obtain ⟨hsigx, hrx, hpx⟩ := ownerFaulted_spec s w m ((missShown s m reason st.at_).getD 1 0)
  generalize ownerFaulted s w m ((missShown s m reason st.at_).getD 1 0) = x at hsigx hrx hpx
  have hvx : RegsBut [] v x := hrw.and hrx (fun _ hx => hx)
  have hpvx : SameBut [.dm, .sig] v x := (hpw.mono (by decide) : SameBut [.dm, .sig] v w).and hpx
  have hrsx : RegsBut (bookRegs (rf s pctlDmlogptr pctlDmlogptrWR) m) s x := hrv.and hvx (fun _ hx => (nomatch hx))
  have hpsx : SameBut [.regs, .dm, .sig] s x := hsv.and hpvx
  have hq : m / 16 < 16 := Nat.div_lt_of_lt_mul hm
  have hpd (d : Nat) (hd : d < 56) : pctlPd d ∉ bookRegs (rf s pctlDmlogptr pctlDmlogptrWR) m := by
    intro hmem
    refine notMem_raisedRegs (s := s) (m := m) hm ?_ ?_ (List.mem_cons_of_mem _ hmem)
    · simp only [pctlPd]; omega
    · simp only [pctlPd]; omega
  have hsemy := missFired_sem hq hrsx hpd (hpsx .sem (by decide)) (hpsx .port (by decide))
  have hpy := missFired_sameBut x (m / 16)
  have hry : RegsBut [] x (missFired x (m / 16)) := fun _ _ => rfl
  generalize missFired x (m / 16) = y at hsemy hpy hry
  have hasy : y.sig.asyncs = s.sig.asyncs ++ (if rf s (dmCfg m) dmCfgOWNER < 8 then [(rf s (dmCfg m) dmCfgOWNER, 0x3B, missWord s m reason (reactOf s m))] else []) := by
    rw [hpy .sig (by decide), hsigx, hpw .sig (by decide)]
    exact congrArg (· ++ _) hqa
  have hevy : y.sig.evs = s.sig.evs := by
    rw [hpy .sig (by decide), hsigx, hpw .sig (by decide)]
    exact hqe
  have hiy : y.intc.strobes = s.intc.strobes := by
    rw [hpy .intc (by decide), hpsx .intc (by decide)]
  have hvy : RegsBut [] v y := hvx.and hry (fun _ hx => hx)
  have hsy : SameBut [.regs, .dm, .sig, .sem] s y := (hpsx.mono (by decide)).and hpy
  have hmony : monOf y m = { monOf s m with lastNo := n, ontime := 0, missAt := s.port + 1 } := by
    rw [monOf_congr (hpy .dm (by decide)), monOf_congr (hpx .dm (by decide)), hmw]
  have hrd (a : Nat) : rd y a = rd v a := hvy a (List.not_mem_nil)
  have hrf (a : Nat) (f : Fld) : rf y a f = rf v a f := hvy.rf_eq List.not_mem_nil f
  have hrsy : RegsBut (raisedRegs s m) s y := (hrv.mono (fun _ hx => List.mem_cons_of_mem _ hx)).and hvy (fun _ hx => (nomatch hx))
  have hY : Raised s y m reason st.at_ ∨ reactOf s m = 2 := by
    by_cases h2 : reactOf s m = 2
    · exact .inr h2
    refine .inl ⟨fun j hj => ?_, ?_, ?_, ?_, ?_, ?_, hasy, ?_, ?_, hsemy, ⟨n, hmony⟩, hrsy, hsy.mono (by decide)⟩
    · rw [hrd, hrd]; exact hw j hj
    · rw [hrf, hptr]
    · rw [rb, hrf]; exact hmiss
    · rw [hrf, hmissesv]
    · rw [rb, hrf]; exact hsafev
    · rw [hrf, hholdv]
    · rw [if_neg h2, List.append_nil, hiy]
    · rw [if_neg h2, List.append_nil, hevy]
  dsimp only
  split
  · next h2 =>
    obtain ⟨his, hes, has, hre, hpe⟩ := escalate_spec y (missShown s m reason st.at_)
    generalize escalate y (missShown s m reason st.at_) = z at his hes has hre hpe
    have hlog {j : Nat} (hj : j < 4) : pctlDmlog (rf s pctlDmlogptr pctlDmlogptrWR) j ∉ [jneCnt] ∧ pctlDmlast m j ∉ [jneCnt] := by
      have hi : rf s pctlDmlogptr pctlDmlogptrWR < 64 := Fld.get_lt pctlDmlogptrWR _
      simp only [List.mem_singleton, pctlDmlog, pctlDmlast, jneCnt]
      omega
    have hst : dmSts m ∉ [jneCnt] := by simp only [List.mem_singleton, dmSts, jneCnt]; omega
    refine ⟨fun j hj => ?_, ?_, ?_, ?_, ?_, ?_, has.trans hasy, ?_, ?_, (hpe .sem (by decide)).trans hsemy,
      ⟨n, (monOf_congr (hpe .dm (by decide)) m).trans hmony⟩, hrsy.and hre (by simp [raisedRegs]),
      (hsy.mono (by decide) : SameBut [.regs, .dm, .sig, .sem, .intc] s y).and hpe⟩
    · rw [hre _ (hlog hj).1, hre _ (hlog hj).2, hrd, hrd]; exact hw j hj
    · rw [hre.rf_eq (by decide), hrf, hptr]
    · rw [rb, hre.rf_eq hst, hrf]; exact hmiss
    · rw [hre.rf_eq hst, hrf, hmissesv]
    · rw [rb, hre.rf_eq hst, hrf]; exact hsafev
    · rw [hre.rf_eq hst, hrf, hholdv]
    · rw [if_pos h2, his, hiy]
    · rw [if_pos h2, hes, hevy]
  · next h2 => exact hY.resolve_right h2

/-! The safe pairs of a miss. -/

/-- The pairs that the reaction makes safe. -/
theorem pairSource_of_miss {s t : State} {m p : Nat} (hm : m < 256) (hp : p < 256) (hr : RegsBut (raisedRegs s m) s t) (hs : rb t (dmSts m) dmStsSAFEACT = true)
    (h : ((rf s (dmCfg m) dmCfgKIND = 1 ∨ rf s (dmCfg m) dmCfgKIND = 2) ∧ owns s (rf s (dmCfg m) dmCfgKIND) (ownerOf s m) p = true) ∨
      (rf s (dmCfg m) dmCfgKIND = 3 ∧ rbit s (cvpTgmask (rf s (dmCfg m) dmCfgTGRP) (p / 32)) cvpTgmaskMASK (p % 32) = true)) : pairSource t p = true := by
  refine pairSource_of_held hm hs ?_
  have hcfg (f : Fld) : rf t (dmCfg m) f = rf s (dmCfg m) f := hr.rf_eq (dmCfg_notMem_raisedRegs hm hm) f
  have hpair (f : Fld) : rf t (cvpPaircfg p) f = rf s (cvpPaircfg p) f :=
    hr.rf_eq (notMem_raisedRegs hm (.inr (by simp only [cvpPaircfg]; omega)) (by simp only [cvpPaircfg]; omega)) f
  rcases h with ⟨hk, ho⟩ | ⟨hk, hb⟩
  · rw [← hcfg] at hk
    refine monSafeWord_owned hk (by rw [hcfg, hcfg]) ?_
    rw [owns, hpair, hpair, hcfg]
    exact ho
  · rw [monSafeWord_task _ ((hcfg _).trans hk), hcfg]
    have hg : rf s (dmCfg m) dmCfgTGRP < 16 := Fld.get_lt dmCfgTGRP _
    rw [hr.rf_eq (notMem_raisedRegs hm (.inr (by simp only [cvpTgmask]; omega)) (by simp only [cvpTgmask]; omega))]
    exact hb

/-- A miss whose safe pairs have followed. -/
theorem misses_of_raised {s t u : State} {m reason start : Nat} (hm : m < 256) (h : Raised s t m reason start) (hr : RegsBut [dmSts m] t u)
    (hsafe : rb u (dmSts m) dmStsSAFEACT = (rb s (dmSts m) dmStsSAFEACT || reactOf s m != 0 || (monOf s m).relAt == s.port + 1))
    (hap : ∀ f ∈ [dmStsMISS, dmStsMISSES, dmStsHOLDRUN], rf u (dmSts m) f = rf t (dmSts m) f) (hp : SameBut [.regs] t u) :
    Misses s m reason start (safeSync u) ∧ ∃ n, monOf (safeSync u) m = { monOf s m with lastNo := n, ontime := 0, missAt := s.port + 1 } := by
  obtain ⟨hw, hptr, hmiss, hmisses, -, hhold, has, his, hes, hsem, ⟨n, hmon⟩, hrt, hpt⟩ := h
  have hsts : dmSts m ∉ safeRegs := notMem_safeRegs (.inl (by simp only [dmSts]; omega))
  have hsu : RegsBut (raisedRegs s m) s u := hrt.and hr (by simp [raisedRegs, bookRegs])
  have hst (f : Fld) : rf (safeSync u) (dmSts m) f = rf u (dmSts m) f := (keepsPort_safeSync u).regs.rf_eq hsts f
  have hlog {j : Nat} (hj : j < 4) : (pctlDmlog (rf s pctlDmlogptr pctlDmlogptrWR) j ∉ [dmSts m] ∧ pctlDmlog (rf s pctlDmlogptr pctlDmlogptrWR) j ∉ safeRegs) ∧
      pctlDmlast m j ∉ [dmSts m] ∧ pctlDmlast m j ∉ safeRegs := by
    have hi : rf s pctlDmlogptr pctlDmlogptrWR < 64 := Fld.get_lt pctlDmlogptrWR _
    refine ⟨⟨?_, notMem_safeRegs (.inl ?_)⟩, ?_, notMem_safeRegs (.inl ?_)⟩ <;>
    simp only [List.mem_singleton, pctlDmlog, pctlDmlast, dmSts] <;> omega
  have hp' : pctlDmlogptr ∉ [dmSts m] := by simp only [List.mem_singleton, dmSts, pctlDmlogptr]; omega
  have hsource (p : Nat) (hpl : p < 256) (hre : reactOf s m ≠ 0)
      (h : ((rf s (dmCfg m) dmCfgKIND = 1 ∨ rf s (dmCfg m) dmCfgKIND = 2) ∧ owns s (rf s (dmCfg m) dmCfgKIND) (ownerOf s m) p = true) ∨
        (rf s (dmCfg m) dmCfgKIND = 3 ∧ rbit s (cvpTgmask (rf s (dmCfg m) dmCfgTGRP) (p / 32)) cvpTgmaskMASK (p % 32) = true)) : rnSafe (safeSync u) p = true := by
    have hact : rb u (dmSts m) dmStsSAFEACT = true := by
      rw [hsafe, bne_iff_ne.2 hre, Bool.or_true, Bool.true_or]
    rw [rnSafe_safeSync u hpl, pairSource_of_miss hm hpl hsu hact h, Bool.or_true]
  have hsig : (safeSync u).sig = { t.sig with traces := (safeSync u).sig.traces } := by
    rw [← hp .sig (by decide)]
    exact (keepsPort_safeSync u).sig
  have hall : SameBut [.cvp, .regs, .sig] t (safeSync u) := (hp.mono (by decide)).and (keepsPort_safeSync u).parts
  refine ⟨⟨fun j hj => ?_, ?_, ?_, ?_, ?_, ?_, fun p hpl hre hk ho => hsource p hpl hre (.inl ⟨hk, ho⟩), fun p hpl hre hk hb => hsource p hpl hre (.inr ⟨hk, hb⟩),
    ?_, ?_, ?_, ?_, ?_, (hpt.mono (by decide) : SameBut [.regs, .dm, .sig, .sem, .intc, .cvp] s t).and hall⟩, n, ?_⟩
  · obtain ⟨⟨h1, h2⟩, h3, h4⟩ := hlog hj
    rw [(keepsPort_safeSync u).regs _ h2, (keepsPort_safeSync u).regs _ h4, hr _ h1, hr _ h3]
    exact hw j hj
  · rw [(keepsPort_safeSync u).regs.rf_eq (notMem_safeRegs (by decide)), hr.rf_eq hp', hptr]
  · rw [rb, hst, hap _ (by simp)]; exact hmiss
  · rw [hst, hap _ (by simp), hmisses]
  · rw [rb, hst]; exact hsafe
  · rw [hst, hap _ (by simp), hhold]
  · rw [hsig]; exact has
  · rw [hall .intc (by decide)]; exact his
  · rw [hsig]; exact hes
  · rw [hall .sem (by decide)]; exact hsem
  · refine ((hsu.mono (raisedRegs_sub s m)).and (keepsPort_safeSync u).regs (fun a ha => ?_))
    simp only [missRegs, List.mem_append]
    exact .inl (.inl (.inr ha))
  · rw [monOf_congr (hall .dm (by decide)), hmon]

theorem dmMiss_misses {s : State} {m : Nat} (hm : m < 256) (reason : Nat) (st : DmStart) (h : NoEdges s m) :
    Misses s m reason st.at_ (dmMiss s m reason st) ∧
    ∃ n, monOf (dmMiss s m reason st) m = { monOf s m with lastNo := n, ontime := 0, missAt := s.port + 1 } := by
  obtain ⟨hR, hback⟩ := missRaised_spec hm reason st h
  rw [dmMiss_eq, (missReact_spec st (reason == 3) h).1, hback]
  generalize missRaised s m reason st = t at hR
  split
  · next hc =>
    rw [Bool.and_eq_true, decide_eq_true_eq, Bool.not_eq_true'] at hc
    refine misses_of_raised hm hR (RegsBut.refl _ t) ?_ (fun _ _ => rfl) (SameBut.refl _ t)
    rw [hR.safe, hc.1, hc.2]
    simp
  · next hc =>
    refine misses_of_raised hm hR (regsBut_wb t _ _ _) ?_ (fun f hf => ?_) (wb_sameBut t _ _ _)
    · rw [rb_wb_same t _ _ true rfl, eq_comm, Bool.or_assoc, Bool.or_eq_true]
      refine .inr ?_
      by_cases h0 : reactOf s m = 0
      · rw [decide_eq_true h0, Bool.true_and, Bool.not_eq_true', Bool.not_eq_false] at hc
        rw [hc, Bool.or_true]
      · rw [bne_iff_ne.2 h0, Bool.true_or]
    · obtain ⟨hfit, h2⟩ := (by decide : ∀ f ∈ [dmStsMISS, dmStsMISSES, dmStsHOLDRUN], f.fits = true ∧ (dmStsSAFEACT.hi < f.lo ∨ f.hi < dmStsSAFEACT.lo)) f hf
      exact rf_wb_apart t _ true rfl hfit h2

/-- What comes after the miss leaves it as it is. -/
theorem Misses.after {s t u : State} {m reason start : Nat} (hm : m < 256) (h : Misses s m reason start t) (hr : RegsBut [dmSts m] t u)
    (hap : ∀ f ∈ [dmStsMISS, dmStsMISSES, dmStsHOLDRUN, dmStsSAFEACT], rf u (dmSts m) f = rf t (dmSts m) f) (hp : SameBut [.regs, .dm] t u) :
    Misses s m reason start u := by
  obtain ⟨hw, hptr, hmiss, hmisses, hsafe, hhold, hs1, hs2, has, his, hes, hsem, hrt, hpt⟩ := h
  have hlog {j : Nat} (hj : j < 4) : pctlDmlog (rf s pctlDmlogptr pctlDmlogptrWR) j ∉ [dmSts m] ∧ pctlDmlast m j ∉ [dmSts m] := by
    have hi : rf s pctlDmlogptr pctlDmlogptrWR < 64 := Fld.get_lt pctlDmlogptrWR _
    simp only [List.mem_singleton, pctlDmlog, pctlDmlast, dmSts]
    omega
  have hp' : pctlDmlogptr ∉ [dmSts m] := by simp only [List.mem_singleton, dmSts, pctlDmlogptr]; omega
  have hsafep {p : Nat} (hpl : p < 256) : rnSafe u p = rnSafe t p := by
    have hc : cvpSafests (p / 32) ∉ [dmSts m] := by simp only [List.mem_singleton, dmSts, cvpSafests]; omega
    rw [rnSafe, rbit, hr.rf_eq hc]
    rfl
  refine ⟨fun j hj => ?_, ?_, ?_, ?_, ?_, ?_, fun p hpl a b c => ?_, fun p hpl a b c => ?_, ?_, ?_, ?_, ?_, hrt.and hr (by simp [missRegs]), 
    hpt.and (hp.mono (by decide) : SameBut [.regs, .dm, .sig, .sem, .intc, .cvp] t u)⟩
  · rw [hr _ (hlog hj).1, hr _ (hlog hj).2]; exact hw j hj
  · rw [hr.rf_eq hp', hptr]
  · rw [rb, hap _ (by simp)]; exact hmiss
  · rw [hap _ (by simp), hmisses]
  · rw [rb, hap _ (by simp)]; exact hsafe
  · rw [hap _ (by simp), hhold]
  · rw [hsafep hpl]; exact hs1 p hpl a b c
  · rw [hsafep hpl]; exact hs2 p hpl a b c
  · rw [hp .sig (by decide)]; exact has
  · rw [hp .intc (by decide)]; exact his
  · rw [hp .sig (by decide)]; exact hes
  · rw [hp .sem (by decide)]; exact hsem

/-- A miss of a state that differs in the monitor's own timers. -/
theorem Misses.of_setMon {s t : State} {m reason start : Nat} {x : Mon} (hx : x.relAt = (monOf s m).relAt) (h : Misses (setMon s m x) m reason start t) :
    Misses s m reason start t := by
  unfold Misses at h
  rw [monOf_setMon, hx] at h
  obtain ⟨hw, hptr, hmiss, hmisses, hsafe, hhold, hs1, hs2, has, his, hes, hsem, hrt, hpt⟩ := h
  exact ⟨hw, hptr, hmiss, hmisses, hsafe, hhold, hs1, hs2, has, his, hes, hsem, hrt,
    ((setMon_sameBut s m x).mono (by decide) : SameBut [.regs, .dm, .sig, .sem, .intc, .cvp] s (setMon s m x)).and hpt⟩

/-! Misses that are detected, and gaps (R115, R116, R118, R127). -/

/-- The record that a detected miss is shown in. -/
def missedCheck (s t : State) (c : DmCheck) : DmCheck := { c with missed := true, logged := some (rf s pctlDmlogptr pctlDmlogptrWR, t.dm.logNo) }

theorem dmDetect_misses {s : State} {m : Nat} {c : DmCheck} (hm : m < 256) (h : NoEdges s m) : Misses s m 0 c.start.at_ (dmDetect s m c) ∧
    (∃ e, (monOf (dmDetect s m c) m).chk = some { c with missed := true, logged := e }) ∧ (monOf (dmDetect s m c) m).pend = (monOf s m).pend := by
  obtain ⟨h1, n, hmon⟩ := dmMiss_misses hm 0 c.start h
  rw [show dmDetect s m c = setMon (dmMiss s m 0 c.start) m { monOf (dmMiss s m 0 c.start) m with chk := some (missedCheck s (dmMiss s m 0 c.start) c) } from rfl]
  generalize dmMiss s m 0 c.start = t at h1 hmon
  rw [monOf_setMon, hmon]
  exact ⟨h1.after hm ((regsBut_setMon t m _).mono (fun _ hx => (nomatch hx))) (fun _ _ => rfl) ((setMon_sameBut t m _).mono (by decide)), ⟨_, rfl⟩, rfl⟩

theorem dmLose_missed {t : State} {m : Nat} {c : DmCheck} (hc : (monOf t m).chk = some c) (hm : c.missed = true) (hp : (monOf t m).pend = none) :
    (monOf (dmLose t m) m).chk = none ∧ rb (dmLose t m) (dmSts m) dmStsSUSP = true ∧
    (∀ f ∈ [dmStsMISS, dmStsMISSES, dmStsHOLDRUN, dmStsSAFEACT], rf (dmLose t m) (dmSts m) f = rf t (dmSts m) f) ∧
    RegsBut [dmSts m] t (dmLose t m) ∧ SameBut [.regs, .dm] t (dmLose t m) := by
  have hmon := monOf_setMon t m { monOf t m with chk := none }
  have hr1 := regsBut_setMon t m { monOf t m with chk := none }
  have hp1 := setMon_sameBut t m { monOf t m with chk := none }
  have he : dmLose t m = dmSuspend (setMon t m { monOf t m with chk := none }) m := by
    have hnext : dmNext (setMon t m { monOf t m with chk := none }) m = setMon t m { monOf t m with chk := none } := by
      rw [dmNext, hmon, hp]
    simp only [dmLose, hnext, hmon, hc, hm, Option.map_some, Option.map_none, Option.getD_some, Option.getD_none, Bool.not_true, Bool.false_eq_true, reduceIte]
  rw [he]
  generalize setMon t m { monOf t m with chk := none } = u at hmon hr1 hp1
  unfold dmSuspend
  have hmon2 := monOf_setMon u m { monOf u m with chk := none, pend := none, gapFrom := none }
  have hr2 := regsBut_setMon u m { monOf u m with chk := none, pend := none, gapFrom := none }
  have hp2 := setMon_sameBut u m { monOf u m with chk := none, pend := none, gapFrom := none }
  generalize setMon u m { monOf u m with chk := none, pend := none, gapFrom := none } = v at hmon2 hr2 hp2
  have hrv : RegsBut [] t v := hr1.and hr2 (fun _ hx => hx)
  refine ⟨?_, rb_wb_same v _ _ true rfl, fun f hf => ?_, (hrv.mono (fun _ hx => (nomatch hx))).and (regsBut_wb v _ _ _) (fun _ hx => hx),
    (((hp1.and hp2).mono (by decide) : SameBut [.regs, .dm] t v)).and (wb_sameBut v _ _ _)⟩
  · rw [monOf_congr ((wb_sameBut v _ _ _) .dm (by decide)), hmon2]
  · obtain ⟨hfit, h2⟩ := (by decide : ∀ f ∈ [dmStsMISS, dmStsMISSES, dmStsHOLDRUN, dmStsSAFEACT], f.fits = true ∧ (dmStsSUSP.hi < f.lo ∨ f.hi < dmStsSUSP.lo)) f hf
    rw [rf_wb_apart v _ true rfl hfit h2, hrv.rf_eq List.not_mem_nil]

theorem deadlineMiss_exec {s : State} {m : Fin 256} {c : DmCheck} (hrun : s.running = true) (hc : (monOf s m.val).chk = some c) (hm : c.missed = false)
    (hd : c.dl < s.port) : exec (.deadlineMiss m) s = .next (if subjOff s m.val then dmLose (dmDetect s m.val c) m.val else dmDetect s m.val c) := by
  show execDeadlineMiss m s = _
  rw [execDeadlineMiss, hc]
  show onlyIf (s.running && !c.missed && c.dl < s.port) s _ = _
  rw [onlyIf, if_pos (by simp [hrun, hm, hd])]

theorem gapDue_of {s : State} {m f : Nat} (hg : (monOf s m).gapFrom = some f) (h0 : (monOf s m).gapLen ≠ 0) (h : f + (monOf s m).gapLen < s.port) :
    gapDue s m = true := by
  rw [gapDue, hg]
  show (_ && _) = true
  simp [h0, h]

theorem dmGap_exec {s : State} {m : Fin 256} {f : Nat} (hrun : s.running = true) (hg : (monOf s m.val).gapFrom = some f) (h0 : (monOf s m.val).gapLen ≠ 0)
    (h : f + (monOf s m.val).gapLen < s.port) :
    exec (.dmGap m) s = .next (dmMiss (setMon s m.val ((monOf s m.val).gapRun s m.val s.port)) m.val 3 ⟨f, f, 0⟩) := by
  show execDmGap m s = _
  rw [execDmGap, onlyIf, hrun, gapDue_of hg h0 h, hg]
  rfl

/-! Ends in time, and misses that are cleared (R123, R124). -/

theorem dmEnd_onTime {s : State} {m : Nat} {c : DmCheck} (hc : (monOf s m).chk = some c) (hp : (monOf s m).pend = none) (hm : c.missed = false) (hd : s.port ≤ c.dl)
    (ha : rb s (dmSts m) dmStsSAFEACT = false) : dmEnd s m = setMon (wf s (dmSts m) dmStsHOLDRUN 0) m { monOf s m with chk := none } := by
  have ht : dmOnTime s m = setMon (wf s (dmSts m) dmStsHOLDRUN 0) m { monOf s m with chk := none } := by
    rw [dmOnTime]
    dsimp only
    rw [ha, Bool.false_and, if_neg (by decide)]
  rw [dmEnd, hc]
  show (if (!c.missed && decide (s.port ≤ c.dl)) = true then dmNext (dmOnTime s m) m else _) = _
  rw [if_pos (by simp [hm, hd]), ht, dmNext, monOf_setMon, hp]

/-- PCTL_DMDONE ends the task's check: it is of a task, and written by its owner. -/
def DoneGood (s : State) (q : Req) (m : Nat) : Prop :=
  rf s (dmCfg m) dmCfgKIND = 3 ∧ rf s (dmCfg m) dmCfgOWNER < 8 ∧ rf s (dmCfg m) dmCfgOWNER = q.who.val ∧ (monOf s m).chk.isSome

theorem dmdone_exec (s : State) (q : Req) (m : Fin 256) :
    (DoneGood s q m.val → exec (.pctlDmdone q m) s = .next (respond (dmEnd s m.val) 0)) ∧
    (¬ DoneGood s q m.val → exec (.pctlDmdone q m) s = .next (respond (wb s (dmSts m.val) dmStsDONEV true) 0)) := by
  show (_ → ok (dmdoneWrite s q m.val) = _) ∧ (_ → ok (dmdoneWrite s q m.val) = _)
  rw [dmdoneWrite]
  have hiff : (rf s (dmCfg m.val) dmCfgKIND == 3 && rf s (dmCfg m.val) dmCfgOWNER < 8 && rf s (dmCfg m.val) dmCfgOWNER == q.who.val &&
      (monOf s m.val).chk.isSome) = true ↔ DoneGood s q m.val := by
    simp only [DoneGood, Bool.and_eq_true, beq_iff_eq, decide_eq_true_eq, and_assoc]
  exact ⟨fun h => by rw [if_pos (hiff.2 h), ok], fun h => by rw [if_neg (fun hh => h (hiff.1 hh)), ok]⟩

theorem dmdone_onTime {s : State} {q : Req} {m : Fin 256} {c : DmCheck} (hg : DoneGood s q m.val) (hc : (monOf s m.val).chk = some c)
    (hp : (monOf s m.val).pend = none) (hm : c.missed = false) (hd : s.port ≤ c.dl) (ha : rb s (dmSts m.val) dmStsSAFEACT = false) :
    Runs (.pctlDmdone q m) s (fun t => t.resp = ⟨0, 0⟩ ∧ (monOf t m.val).chk = none ∧
      RegsAre [withFld s (dmSts m.val) dmStsHOLDRUN 0] s t ∧ SameBut [.regs, .dm, .resp] s t) := by
  refine ⟨_, (dmdone_exec s q m).1 hg, rfl, ?_, ?_, ?_⟩
  · rw [dmEnd_onTime hc hp hm hd ha]
    exact congrArg Mon.chk (monOf_setMon (wf s (dmSts m.val) dmStsHOLDRUN 0) m.val { monOf s m.val with chk := none })
  · rw [dmEnd_onTime hc hp hm hd ha]
    exact (regsAre_wf s _ _ 0).and (regsBut_setMon (wf s (dmSts m.val) dmStsHOLDRUN 0) m.val { monOf s m.val with chk := none })
  · rw [dmEnd_onTime hc hp hm hd ha]
    have hp : SameBut [.regs, .dm, .resp] s (wf s (dmSts m.val) dmStsHOLDRUN 0) := (wf_sameBut s _ _ 0).mono (by decide)
    exact (hp.and (setMon_sameBut _ _ _)).and (respond_sameBut _ _ _)

theorem dmdone_invalid {s : State} {q : Req} {m : Fin 256} (h : ¬ DoneGood s q m.val) : Runs (.pctlDmdone q m) s (fun t => t.resp = ⟨0, 0⟩ ∧
    RegsAre [withFld s (dmSts m.val) dmStsDONEV 1] s t ∧ SameBut [.regs, .resp] s t) :=
  ⟨_, (dmdone_exec s q m).2 h, rfl, regsAre_wf s _ _ 1,
    ((wb_sameBut s _ _ _).mono (by decide) : SameBut [.regs, .resp] s _).and (respond_sameBut _ _ _)⟩

theorem dmRelease_spec (s : State) (m : Nat) :
    rb (dmRelease s m) (dmSts m) dmStsMISS = rb s (dmSts m) dmStsMISS ∧
    rb (dmRelease s m) (dmSts m) dmStsSAFEACT = (rb s (dmSts m) dmStsSAFEACT && (monOf s m).missAt == s.port + 1) ∧
    monOf (dmRelease s m) m = (if rb s (dmSts m) dmStsSAFEACT then { monOf s m with relAt := s.port + 1 } else monOf s m) ∧
    RegsBut [dmSts m] s (dmRelease s m) ∧ SameBut [.regs, .dm] s (dmRelease s m) := by
  unfold dmRelease
  dsimp only
  by_cases ha : rb s (dmSts m) dmStsSAFEACT = true
  · rw [if_pos ha, if_pos ha, ha, Bool.true_and]
    by_cases hb : (monOf s m).missAt = s.port + 1
    · rw [if_pos hb]
      exact ⟨rfl, by rw [hb, beq_self_eq_true]; exact ha, monOf_setMon _ _ _, (regsBut_setMon s m _).mono (fun _ hx => (nomatch hx)),
        (setMon_sameBut s m _).mono (by decide)⟩
    · rw [if_neg hb]
      refine ⟨rb_wb_apart s _ _ _ false rfl rfl (by decide), ?_, monOf_setMon _ _ _, (regsBut_wb s _ _ _).and (regsBut_setMon _ m _) (fun _ hx => (nomatch hx)),
        ((wb_sameBut s _ _ _).mono (by decide) : SameBut [.regs, .dm] s _).and (setMon_sameBut _ m _)⟩
      rw [beq_eq_false_iff_ne.2 hb]
      exact rb_wb_same s _ _ false rfl
  · rw [Bool.not_eq_true] at ha
    simp only [ha, reduceIte, Bool.false_eq_true, Bool.false_and]
    exact ⟨trivial, trivial, trivial, RegsBut.refl _ s, SameBut.refl _ s⟩

theorem dmMissClear_spec {s : State} {m : Fin 256} (h : setsAt s (dmSts m.val) (dmStsMISS.put 0 1) = []) :
    Runs (.dmMissClear m) s (fun t => t.resp = ⟨0, 0⟩ ∧ rb t (dmSts m.val) dmStsMISS = false ∧
      rb t (dmSts m.val) dmStsSAFEACT = (rb s (dmSts m.val) dmStsSAFEACT && (monOf s m.val).missAt == s.port + 1) ∧
      monOf t m.val = (if rb s (dmSts m.val) dmStsSAFEACT then { monOf s m.val with relAt := s.port + 1 } else monOf s m.val) ∧
      RegsBut [dmSts m.val] s t ∧ SameBut [.regs, .dm, .resp] s t) := by
  refine ⟨respond (dmRelease (wf s (dmSts m.val) dmStsMISS 0) m.val) 0, ?_, rfl, ?_⟩
  · rw [← clearBit_of_quiet h]
    rfl
  have hmiss : rb (wf s (dmSts m.val) dmStsMISS 0) (dmSts m.val) dmStsMISS = false := rb_wb_same s _ _ false rfl
  have hact : rb (wf s (dmSts m.val) dmStsMISS 0) (dmSts m.val) dmStsSAFEACT = rb s (dmSts m.val) dmStsSAFEACT := rb_wb_apart s _ _ _ false rfl rfl (by decide)
  have hr := regsBut_wf s (dmSts m.val) dmStsMISS 0
  have hp := wf_sameBut s (dmSts m.val) dmStsMISS 0
  generalize wf s (dmSts m.val) dmStsMISS 0 = u at hmiss hact hr hp
  obtain ⟨h1, h2, h3, hr2, hp2⟩ := dmRelease_spec u m.val
  rw [hact, monOf_congr (hp .dm (by decide))] at h2 h3
  rw [hp .port (by decide)] at h2 h3
  exact ⟨h1.trans hmiss, h2, h3, hr.and hr2, ((hp.mono (by decide) : SameBut [.regs, .dm] s u).and hp2).mono (by decide) |>.and (respond_sameBut _ _ _)⟩

theorem dmMissClear_frame (s : State) (m : Fin 256) : Runs (.dmMissClear m) s (fun t => t.resp = ⟨0, 0⟩ ∧
    (monOf t m.val = monOf s m.val ∨ monOf t m.val = { monOf s m.val with relAt := s.port + 1 }) ∧
    RegsBut [dmSts m.val] s t ∧ SameBut [.regs, .dm, .resp, .free] s t) := by
  refine ⟨respond (dmRelease (clearBit s (dmSts m.val) dmStsMISS) m.val) 0, rfl, rfl, ?_⟩
  have hr := regsBut_clearTo s (dmSts m.val) (setsAt s (dmSts m.val) (dmStsMISS.put 0 1)) (dmStsMISS.put (rd s (dmSts m.val)) 0)
  have hp := clearTo_sameBut s (dmSts m.val) (setsAt s (dmSts m.val) (dmStsMISS.put 0 1)) (dmStsMISS.put (rd s (dmSts m.val)) 0)
  rw [← clearBit] at hr hp
  generalize clearBit s (dmSts m.val) dmStsMISS = u at hr hp
  obtain ⟨-, -, h3, hr2, hp2⟩ := dmRelease_spec u m.val
  rw [monOf_congr (hp .dm (by decide)), hp .port (by decide)] at h3
  refine ⟨?_, hr.and hr2, ((hp.mono (by decide) : SameBut [.regs, .dm, .free] s u).and (hp2.mono (by decide) : SameBut [.regs, .dm, .free] u _)).mono (by decide) |>.and (respond_sameBut _ _ _)⟩
  show monOf (dmRelease u m.val) m.val = _ ∨ monOf (dmRelease u m.val) m.val = _
  rw [h3]
  split
  · exact .inr rfl
  · exact .inl rfl

/-! Enabling a monitor (R118). -/

theorem monSubj_congr {s t : State} {m : Nat} (h : ∀ f ∈ [dmCfgKIND, dmCfgSUBJ], rf t (dmCfg m) f = rf s (dmCfg m) f) : monSubj t m = monSubj s m := by
  rw [monSubj, h _ (by simp), h _ (by simp), monSubj]

theorem monSubj_lt (s : State) (m : Nat) : monSubj s m < 128 ∧ (rf s (dmCfg m) dmCfgKIND = 2 → monSubj s m < 8) ∧ (rf s (dmCfg m) dmCfgKIND = 3 → monSubj s m < 16) := by
  have hs : rf s (dmCfg m) dmCfgSUBJ < 128 := Fld.get_lt dmCfgSUBJ _
  unfold monSubj
  split
  · next hk => exact ⟨by omega, fun _ => Nat.mod_lt _ (by decide), fun h => by rw [hk] at h; exact absurd h (by decide)⟩
  · next hk => exact ⟨by omega, fun h => by rw [hk] at h; exact absurd h (by decide), fun _ => Nat.mod_lt _ (by decide)⟩
  · next h2 h3 => exact ⟨hs, fun h => absurd h h2, fun h => absurd h h3⟩

theorem subjOff_congr {l : List Nat} {s t : State} {m : Nat} (hr : RegsBut l s t) (hl : ∀ a ∈ l, 0x40000400 ≤ a ∧ a < 0x40000700)
    (h : ∀ f ∈ [dmCfgKIND, dmCfgSUBJ], rf t (dmCfg m) f = rf s (dmCfg m) f) : subjOff t m = subjOff s m := by
  have hn {a : Nat} (ha : a < 0x40000400 ∨ 0x40000700 ≤ a) : a ∉ l := fun hm => by have := hl a hm; omega
  obtain ⟨hlt, h2, h3⟩ := monSubj_lt s m
  have hact : isActive t = isActive s := by rw [isActive, hr.rf_eq (hn (.inr (by decide))), isActive]
  have hsub := monSubj_congr h
  rw [subjOff, hsub, h _ (by simp), hact, subjOff]
  split
  · rw [rb, rb, hr.rf_eq (hn (.inr (by simp only [slotCtl, aeSlotctl]; omega))), hr.rf_eq (hn (.inr (by simp only [slotPhs, aeSlotphs]; omega)))]
    rfl
  · rw [rb, hr.rf_eq (hn (.inr (by simp only [sspCcfg]; omega)))]
    rfl
  · next hk =>
    rw [rb, hr.rf_eq (hn (.inl (by simp only [pctlCgctl]; have := h3 hk; omega)))]
    rfl
  · rfl

/-- A monitor that is enabled: before its subject counts. -/
def monEnabled (s : State) (m : Nat) : State := wf (wb s (dmCfg m) dmCfgEN true) (dmSts m) dmStsHOLDRUN 0

theorem dmEnable_exec {s : State} {q : Req} {m : Fin 256} (hq : holdsType s q 13 = true) (he : rb s (dmCfg m.val) dmCfgEN = false) :
    exec (.dmEnable q m) s = .next (respond (if subjOff (monEnabled s m.val) m.val then dmSuspend (monEnabled s m.val) m.val
      else dmResume (monEnabled s m.val) m.val) 0) := by
  show execDmEnable q m s = _
  rw [execDmEnable, hq, he]
  rfl

theorem monEnabled_spec (s : State) {m : Nat} (hm : m < 256) : rd (monEnabled s m) (dmCfg m) = (withFld s (dmCfg m) dmCfgEN 1).2 ∧
    rf (monEnabled s m) (dmSts m) dmStsHOLDRUN = 0 ∧ subjOff (monEnabled s m) m = subjOff s m ∧
    RegsBut [dmCfg m, dmSts m] s (monEnabled s m) ∧ SameBut [.regs] s (monEnabled s m) := by
  have hne : dmCfg m ≠ dmSts m := by simp only [dmCfg, dmSts]; omega
  have hr : RegsBut [dmCfg m, dmSts m] s (monEnabled s m) := ((regsBut_wb s _ _ _).mono (by simp)).and (regsBut_wf _ _ _ _)
  refine ⟨(rd_wf_other _ _ _ hne).trans (rd_wr_same s _ (dmCfgEN.put (rd s (dmCfg m)) 1)), rf_wf_same _ _ _ 0 rfl, ?_, hr, (wb_sameBut s _ _ _).and (wf_sameBut _ _ _ _)⟩
  refine subjOff_congr hr (by simp only [List.mem_cons, List.not_mem_nil, or_false, dmCfg, dmSts]; omega) (fun f hf => ?_)
  obtain ⟨hfit, h2⟩ := (by decide : ∀ f ∈ [dmCfgKIND, dmCfgSUBJ], f.fits = true ∧ (dmCfgEN.hi < f.lo ∨ f.hi < dmCfgEN.lo)) f hf
  rw [monEnabled, rf_wf_other _ _ _ _ hne, rf_wb_apart s _ true rfl hfit h2]

theorem dmSuspend_spec (s : State) (m : Nat) : rd (dmSuspend s m) (dmCfg m) = rd s (dmCfg m) ∧ rb (dmSuspend s m) (dmSts m) dmStsSUSP = true ∧
    rf (dmSuspend s m) (dmSts m) dmStsHOLDRUN = rf s (dmSts m) dmStsHOLDRUN ∧ (monOf (dmSuspend s m) m).gapFrom = none ∧
    RegsBut [dmSts m] s (dmSuspend s m) ∧ SameBut [.regs, .dm] s (dmSuspend s m) := by
  have hne : dmCfg m ≠ dmSts m := by simp only [dmCfg, dmSts]; omega
  have hmon := monOf_setMon s m { monOf s m with chk := none, pend := none, gapFrom := none }
  have hr := regsBut_setMon s m { monOf s m with chk := none, pend := none, gapFrom := none }
  have hp := setMon_sameBut s m { monOf s m with chk := none, pend := none, gapFrom := none }
  unfold dmSuspend
  generalize setMon s m { monOf s m with chk := none, pend := none, gapFrom := none } = u at hmon hr hp
  refine ⟨(rd_wf_other _ _ _ hne).trans (hr _ List.not_mem_nil), rb_wb_same u _ _ true rfl, (rf_wb_apart u _ true rfl rfl (by decide)).trans (hr.rf_eq List.not_mem_nil _), ?_,
    (hr.mono (fun _ hx => (nomatch hx))).and (regsBut_wb u _ _ _) (fun _ hx => hx), (hp.mono (by decide) : SameBut [.regs, .dm] s u).and (wb_sameBut u _ _ _)⟩
  rw [monOf_congr ((wb_sameBut u _ _ _) .dm (by decide)), hmon]

theorem dmResume_spec (s : State) (m : Nat) : rd (dmResume s m) (dmCfg m) = rd s (dmCfg m) ∧ rb (dmResume s m) (dmSts m) dmStsSUSP = false ∧
    rf (dmResume s m) (dmSts m) dmStsHOLDRUN = 0 ∧ (monOf (dmResume s m) m).gapFrom = some s.port ∧ (monOf (dmResume s m) m).gapLen = rf s (dmBud m) dmBudGAP ∧
    RegsBut [dmSts m] s (dmResume s m) ∧ SameBut [.regs, .dm] s (dmResume s m) := by
  have hne : dmCfg m ≠ dmSts m := by simp only [dmCfg, dmSts]; omega
  have hmon := monOf_setMon s m ((monOf s m).gapRun s m s.port)
  have hr := regsBut_setMon s m ((monOf s m).gapRun s m s.port)
  have hp := setMon_sameBut s m ((monOf s m).gapRun s m s.port)
  unfold dmResume
  generalize setMon s m ((monOf s m).gapRun s m s.port) = u at hmon hr hp
  have hp2 : SameBut [.regs] u (wf (wb u (dmSts m) dmStsSUSP false) (dmSts m) dmStsHOLDRUN 0) := (wb_sameBut u _ _ _).and (wf_sameBut _ _ _ _)
  have hdm := hp2 .dm (by decide)
  refine ⟨((rd_wf_other _ _ _ hne).trans (rd_wf_other _ _ _ hne)).trans (hr _ List.not_mem_nil), ?_, rf_wf_same _ _ _ 0 rfl, ?_, ?_,
    (hr.mono (fun _ hx => (nomatch hx))).and ((regsBut_wb u _ _ _).and (regsBut_wf _ _ _ _)) (fun _ hx => hx), (hp.mono (by decide) : SameBut [.regs, .dm] s u).and hp2⟩
  · rw [rb, rf_wf_apart _ _ _ _ _ rfl rfl (by decide)]
    exact rb_wb_same u _ _ false rfl
  · rw [monOf_congr hdm, hmon]
    rfl
  · rw [monOf_congr hdm, hmon]
    rfl

theorem dmEnable_spec {s : State} {q : Req} {m : Fin 256} (hq : holdsType s q 13 = true) (he : rb s (dmCfg m.val) dmCfgEN = false) :
    Runs (.dmEnable q m) s (fun t => t.resp = ⟨0, 0⟩ ∧ rd t (dmCfg m.val) = (withFld s (dmCfg m.val) dmCfgEN 1).2 ∧
      rb t (dmSts m.val) dmStsSUSP = subjOff s m.val ∧ rf t (dmSts m.val) dmStsHOLDRUN = 0 ∧
      (monOf t m.val).gapFrom = (if subjOff s m.val then none else some s.port) ∧
      (subjOff s m.val = false → (monOf t m.val).gapLen = rf s (dmBud m.val) dmBudGAP) ∧
      RegsBut [dmCfg m.val, dmSts m.val] s t ∧ SameBut [.regs, .dm, .resp] s t) := by
  refine ⟨_, dmEnable_exec hq he, rfl, ?_⟩
  obtain ⟨h1, h2, h3, hr, hp⟩ := monEnabled_spec s m.isLt
  have hbud : rf (monEnabled s m.val) (dmBud m.val) dmBudGAP = rf s (dmBud m.val) dmBudGAP := by
    refine hr.rf_eq ?_ _
    simp only [List.mem_cons, List.not_mem_nil, or_false, dmBud, dmCfg, dmSts]
    omega
  have hport := hp .port (by decide)
  rw [h3]
  generalize monEnabled s m.val = u at h1 h2 hr hp hbud hport
  by_cases hoff : subjOff s m.val = true
  · simp only [hoff, reduceIte]
    obtain ⟨g1, g2, g3, g4, gr, gp⟩ := dmSuspend_spec u m.val
    exact ⟨g1.trans h1, g2, g3.trans h2, g4, fun h => absurd h (by simp), hr.and gr, (((hp.mono (by decide) : SameBut [.regs, .dm] s u).and gp).mono (by decide)).and (respond_sameBut _ _ _)⟩
  · rw [Bool.not_eq_true] at hoff
    simp only [hoff, reduceIte, Bool.false_eq_true]
    obtain ⟨g1, g2, g3, g4, g5, gr, gp⟩ := dmResume_spec u m.val
    exact ⟨g1.trans h1, g2, g3, g4.trans (congrArg some hport), fun _ => g5.trans hbud, hr.and gr,
      (((hp.mono (by decide) : SameBut [.regs, .dm] s u).and gp).mono (by decide)).and (respond_sameBut _ _ _)⟩

/-- Settles O33: a miss is its record, its counts, its owner's fault and its reaction, and then the safe pairs that follow; what
comes after it (the check's mark, the suspension) touches none of that. -/
theorem deadlines : Obligations.Deadlines := by
  unfold Obligations.Deadlines
  intro s m q c f
  refine ⟨fun hrun hc hm hd hno hsub => ⟨_, deadlineMiss_exec hrun hc hm hd, ?_⟩, fun hrun hg h0 h hno => ⟨_, dmGap_exec hrun hg h0 h, ?_⟩,
    fun hc hp hk ho hw hm hd ha => dmdone_onTime ⟨hk, ho, hw, by rw [hc]; rfl⟩ hc hp hm hd ha, fun h => dmdone_invalid ?_,
    dmMissClear_spec, fun _ => dmMissClear_frame s m, dmEnable_spec⟩
  · obtain ⟨hmiss, ⟨e, hchk⟩, hpend⟩ := dmDetect_misses (c := c) m.isLt hno
    generalize dmDetect s m.val c = t at hmiss hchk hpend
    by_cases hoff : subjOff s m.val = true
    · rw [if_pos hoff]
      have hnone : (monOf s m.val).pend = none := hsub.resolve_left (by simp [hoff])
      obtain ⟨g1, g2, g3, gr, gp⟩ := dmLose_missed hchk rfl (hpend.trans hnone)
      exact ⟨hmiss.after m.isLt gr g3 gp, fun h => absurd h (by simp [hoff]), fun _ _ => ⟨g1, g2⟩⟩
    · rw [if_neg hoff]
      exact ⟨hmiss, fun _ => ⟨e, hchk⟩, fun h => absurd h hoff⟩
  · obtain ⟨hmiss, n, hmon⟩ := dmMiss_misses (s := setMon s m.val ((monOf s m.val).gapRun s m.val s.port)) m.isLt 3 ⟨f, f, 0⟩ hno
    rw [hmon, monOf_setMon]
    exact ⟨Misses.of_setMon (x := (monOf s m.val).gapRun s m.val s.port) rfl hmiss, rfl, rfl, rfl⟩
  · rintro ⟨hk, ho, hw, hs⟩
    rcases h with h | h | h | h
    · exact h hk
    · exact absurd ho (Nat.not_lt.2 h)
    · exact h hw
    · rw [h] at hs
      exact absurd hs (by decide)

end Sys2Proof.Machine

/-! Storage queues of the journal (R331, R334, R361, R364, R372, R375). -/

namespace Sys2Proof.Machine

set_option Elab.async false

/-! Steps of the running activity. -/

theorem jneStep_idle {s : State} (h : s.jne.script = []) (hc : s.jne.cmd = 0) (hi : s.jne.infoq = []) : jneStep s = none := by
  rw [jneStep]
  split
  · rfl
  · rw [infoStep_none hi]
    exact scriptStep_idle h hc

/-- A burst of the activity's own holds the activity. -/
theorem jneStep_own {s : State} (h : s.jne.bursts ≠ []) (ho : ∀ b ∈ s.jne.bursts, b.own = true) : jneStep s = none := by
  rw [jneStep]
  refine if_pos ?_
  obtain ⟨b, l, hb⟩ := List.exists_cons_of_ne_nil h
  rw [hb, List.any_cons, ho b (by simp [hb]), Bool.true_or]

theorem hmpReq_quiet (s : State) (use : HmpUse) (w : Bool) (a n : Nat) (d : List Word) (p v : Bool) :
    RegsBut [] s (hmpReq s use w a n d p v) := regsBut_of_sameBut (hmpReq_sameBut s use w a n d p v) (by decide) (by decide) (by decide)

/-- The journal with one more burst. -/
def burstAdded (j : Jne) (b : JBurst) : Jne := { j with nextId := j.nextId + 1, bursts := j.bursts ++ [{ b with id := j.nextId }] }

theorem startBurst_spec (s : State) (b : JBurst) : (startBurst s b).jne = burstAdded s.jne b ∧ RegsBut [] s (startBurst s b) ∧
    SameBut [.jne, .ports] s (startBurst s b) := by
  unfold startBurst
  dsimp only
  have hj : (onJne s (fun j => { j with nextId := s.jne.nextId + 1, bursts := j.bursts ++ [{ b with id := s.jne.nextId }] })).jne = burstAdded s.jne b := rfl
  have hp := onJne_sameBut s (fun j => { j with nextId := s.jne.nextId + 1, bursts := j.bursts ++ [{ b with id := s.jne.nextId }] })
  generalize onJne s (fun j => { j with nextId := s.jne.nextId + 1, bursts := j.bursts ++ [{ b with id := s.jne.nextId }] }) = u at hj hp
  have hq := hmpReq_sameBut u (.unit 20 (32 + s.jne.nextId)) b.write b.addr b.len b.data (b.write && persBase ≤ b.addr) true
  generalize hmpReq u (.unit 20 (32 + s.jne.nextId)) b.write b.addr b.len b.data (b.write && persBase ≤ b.addr) true = x at hq
  have hx : SameBut [.jne, .ports] s x := (hp.mono (by decide)).and hq
  have hjx : x.jne = burstAdded s.jne b := (hq .jne (by decide)).trans hj
  split
  · have hst := (stagedFirst_frame x).2
    have hall : SameBut [.jne, .ports] s (stagedFirst x) := hx.and hst
    exact ⟨(hst .jne (by decide)).trans hjx, regsBut_of_sameBut hall (by decide) (by decide) (by decide), hall⟩
  · exact ⟨hjx, regsBut_of_sameBut hx (by decide) (by decide) (by decide), hx⟩

/-- Bursts have been started, all of the activity's own; the rest of the journal is as it was. -/
structure OwnBursts (s t : State) (bs : List JBurst) : Prop where
  jne : t.jne = { s.jne with nextId := t.jne.nextId, bursts := s.jne.bursts ++ bs }
  own : ∀ b ∈ bs, b.own = true
  regs : RegsBut [] s t
  parts : SameBut [.jne, .ports] s t

theorem scriptBurst_own (s : State) (w : Bool) (a n : Nat) (ws : List Word) : OwnBursts s (scriptBurst s w a n ws) [ownBurst s w a n ws] := by
  obtain ⟨hj, hr, hp⟩ := startBurst_spec s ⟨0, w, a, n, ws, 0, 0, true⟩
  rw [← scriptBurst] at hj
  refine ⟨?_, by simp [ownBurst], hr, hp⟩
  rw [hj]
  rfl

theorem OwnBursts.trans {s t u : State} {a b : List JBurst} (h : OwnBursts s t a) (g : OwnBursts t u b) : OwnBursts s u (a ++ b) := by
  refine ⟨?_, fun x hx => (List.mem_append.1 hx).elim (h.own x) (g.own x), h.regs.and g.regs (fun _ hx => hx), h.parts.and g.parts⟩
  rw [g.jne, h.jne]
  simp only [List.append_assoc]

theorem ownBursts_foldl {α : Type} {f : State → α → State} {g : State → α → JBurst} (hf : ∀ t x, OwnBursts t (f t x) [g t x]) (l : List α) (s : State) :
    ∃ bs, bs.length = l.length ∧ OwnBursts s (l.foldl f s) bs := by
  induction l generalizing s with
  | nil => exact ⟨[], rfl, by rw [List.append_nil]; rfl, fun _ hx => (nomatch hx), RegsBut.refl _ s, SameBut.refl _ s⟩
  | cons x l ih =>
    obtain ⟨bs, hl, h⟩ := ih (f s x)
    exact ⟨g s x :: bs, by rw [List.length_cons, hl, List.length_cons], (hf s x).trans h⟩

/-- The write of words a step of the activity makes. -/
theorem scriptWrites_own (s : State) (a : Nat) {ws : List Word} (h : ws ≠ []) : ∃ bs, bs ≠ [] ∧ OwnBursts s (scriptWrites s a ws) bs := by
  obtain ⟨bs, hl, ho⟩ := ownBursts_foldl (f := fun t i => scriptBurst t true (a + 8 * i) ((ws.drop (8 * i)).take 8).length ((ws.drop (8 * i)).take 8))
    (g := fun t i => ownBurst t true (a + 8 * i) ((ws.drop (8 * i)).take 8).length ((ws.drop (8 * i)).take 8)) (fun t i => scriptBurst_own t _ _ _ _)
    (List.range ((ws.length + 7) / 8)) s
  refine ⟨bs, fun hb => ?_, ho⟩
  have h0 : ws.length ≠ 0 := fun hz => h (List.eq_nil_of_length_eq_zero hz)
  rw [hb, List.length_nil, List.length_range] at hl
  omega

/-- The rest of the writes of an operation. -/
def writesRest (a : Nat) (ws : List Word) (r : List JOp) : List JOp := if ws.length ≤ 64 then r else .wr (a + 64) (ws.drop 64) :: r

theorem scriptStep_wr {s : State} {a : Nat} {ws : List Word} {r : List JOp} (hs : s.jne.script = .wr a ws :: r) (h : ws ≠ []) :
    ∃ bs, bs ≠ [] ∧ ∃ t, scriptStep s = some t ∧ OwnBursts (onJne s (fun j => { j with script := writesRest a ws r })) t bs := by
  have h0 : ws.isEmpty = false := by simpa using h
  have ht : ws.take 64 ≠ [] := by simpa using h
  by_cases hl : ws.length ≤ 64
  · obtain ⟨bs, hb, ho⟩ := scriptWrites_own (onJne s (fun j => { j with script := r })) a ht
    refine ⟨bs, hb, _, ?_, by rw [writesRest, if_pos hl]; exact ho⟩
    rw [scriptStep, hs]
    dsimp only
    rw [h0, if_neg Bool.false_ne_true, if_pos hl]
  · obtain ⟨bs, hb, ho⟩ := scriptWrites_own (pushOps (onJne s (fun j => { j with script := r })) [.wr (a + 64) (ws.drop 64)]) a ht
    refine ⟨bs, hb, _, ?_, by rw [writesRest, if_neg hl]; exact ho⟩
    rw [scriptStep, hs]
    dsimp only
    rw [h0, if_neg Bool.false_ne_true, if_neg hl]

/-- A write holds the activity until its bursts have been answered. -/
theorem jneRun_wr {s : State} {a : Nat} {ws : List Word} {r : List JOp} (hs : s.jne.script = .wr a ws :: r) (h : ws ≠ []) (hb : s.jne.bursts = [])
    (hi : infoStep s = none) (f : Nat) :
    ∃ bs, bs ≠ [] ∧ OwnBursts (onJne s (fun j => { j with script := writesRest a ws r })) (jneRun (f + 1) s) bs := by
  obtain ⟨bs, hne, t, hst, ho⟩ := scriptStep_wr hs h
  have hbt : t.jne.bursts = bs := by
    have := congrArg Jne.bursts ho.jne
    rw [this]
    show s.jne.bursts ++ bs = bs
    rw [hb, List.nil_append]
  refine ⟨bs, hne, ?_⟩
  rw [jneRun_step ((jneStep_script hb hi).trans hst), jneRun_done (jneStep_own (by rw [hbt]; exact hne) (by rw [hbt]; exact ho.own))]
  exact ho

/-! Head-tier bursts (R334). -/

section Bursts

variable {s : State} {x : HmpTx} {b : JBurst}

/-- The burst is answered, and nothing else runs. -/
structure Answered (s : State) (x : HmpTx) (b : JBurst) : Prop where
  done : s.ports.done = [x]
  burst : s.jne.bursts = [b]
  use : x.use = .unit 20 (32 + b.id)
  script : s.jne.script = []
  cmd : s.jne.cmd = 0
  infoq : s.jne.infoq = []

/-- The state in which the burst is no more. -/
def burstOut (s : State) : State := onJne s (fun j => { j with bursts := [] })

theorem filter_burst (h : s.jne.bursts = [b]) : s.jne.bursts.filter (fun y => y.id != b.id) = [] := by
  rw [h]
  simp

theorem headBurst_exec (h : Answered s x b) : exec .headBurstResponse s = .next (jneRun 64 (burstDone (respTaken s x) b x)) := by
  show execHeadBurstResponse s = _
  rw [execHeadBurstResponse, hmpTake_one h.done (by rw [h.use]; exact decide_eq_true (by omega))]
  dsimp only
  rw [h.burst, find?_one (by rw [h.use]; exact beq_self_eq_true _)]
  rfl

theorem burstDone_eq (h : Answered s x b) : burstDone (respTaken s x) b x = if x.code ≠ 0 then burstFailed (burstOut (respTaken s x)) b
    else if b.write then wordsPersisted (burstOut (respTaken s x)) b.csn b.len
    else onJne (burstOut (respTaken s x)) (fun j => { j with buf := j.buf ++ (List.range b.len).map x.word }) := by
  have he : onJne (respTaken s x) (fun j => { j with bursts := j.bursts.filter (fun y => y.id != b.id) }) = burstOut (respTaken s x) := by
    show ({ respTaken s x with jne := { s.jne with bursts := s.jne.bursts.filter (fun y => y.id != b.id) } } : State) = _
    rw [filter_burst h.burst]
    rfl
  rw [burstDone, he]

/-- The commits of the log after some of one's words have been persisted. -/
def logPersisted (s : State) (b : JBurst) : List Commit := s.jne.log.map (fun d => if d.csn = b.csn then { d with left := d.left - b.len, perAt := s.port } else d)

theorem headBurst_persisted (h : Answered s x b) (hc : x.code = 0) (hw : b.write = true) (hcsn : b.csn ≠ 0) (hcl : s.jne.closing = false) :
    Runs .headBurstResponse s (fun t => jneUnp t = jneUnp s - b.len ∧ t.ports = { s.ports with done := [] } ∧
      t.jne = { s.jne with bursts := [], log := logPersisted s b } ∧ RegsBut [jneU, jneBudget, jneSts, jnePercsn] s t ∧
      SameBut [.regs, .jne, .ports] s t) := by
  have hun : jneUnp s < 65536 := Fld.get_lt jneUU _
  refine ⟨_, headBurst_exec h, ?_⟩
  rw [burstDone_eq h, if_neg (by simp [hc]), if_pos hw, wordsPersisted, if_neg hcsn]
  dsimp only
  have hju : (onJne (burstOut (respTaken s x)) (fun j => { j with log := j.log.map (fun c => if c.csn = b.csn then { c with left := c.left - b.len, perAt := (burstOut (respTaken s x)).port } else c) })).jne =
      { s.jne with bursts := [], log := logPersisted s b } := rfl
  have hpo : (onJne (burstOut (respTaken s x)) (fun j => { j with log := j.log.map (fun c => if c.csn = b.csn then { c with left := c.left - b.len, perAt := (burstOut (respTaken s x)).port } else c) })).ports =
      { s.ports with done := [] } := by
    show ({ s.ports with done := s.ports.done.erase x } : Ports) = _
    rw [h.done, List.erase_cons_head]
  have hu : SameBut [.jne, .ports] s (onJne (burstOut (respTaken s x)) (fun j => { j with log := j.log.map (fun c => if c.csn = b.csn then { c with left := c.left - b.len, perAt := (burstOut (respTaken s x)).port } else c) })) :=
    ((ports_sameBut s _).mono (by decide) : SameBut [.jne, .ports] s (respTaken s x)).and ((onJne_sameBut _ _).and (onJne_sameBut _ _))
  generalize onJne (burstOut (respTaken s x)) (fun j => { j with log := j.log.map (fun c => if c.csn = b.csn then { c with left := c.left - b.len, perAt := (burstOut (respTaken s x)).port } else c) }) = u at hju hpo hu
  have hru : RegsBut [] s u := regsBut_of_sameBut hu (by decide) (by decide) (by decide)
  rw [jneUnp_eq hru (by simp)]
  obtain ⟨h1, -, hr1, hp1⟩ := setU_spec (s := u) (n := jneUnp s - b.len) (by omega)
  generalize setU u (jneUnp s - b.len) = v at h1 hr1 hp1
  obtain ⟨hr2, hp2⟩ := percsnSync_frame v
  have hu2 : jneUnp (percsnSync v) = jneUnp s - b.len := (jneUnp_eq hr2 (by decide)).trans h1
  generalize percsnSync v = w at hr2 hp2 hu2
  have hjw : w.jne = { s.jne with bursts := [], log := logPersisted s b } := (hp2 .jne (by decide)).trans ((hp1 .jne (by decide)).trans hju)
  have hoff : jneCheckOff w = w := by
    rw [jneCheckOff, hjw]
    exact if_neg (by simp [hcl])
  rw [hoff, jneRun_done (jneStep_idle (by rw [hjw]; exact h.script) (by rw [hjw]; exact h.cmd) (by rw [hjw]; exact h.infoq))]
  refine ⟨hu2, (hp2 .ports (by decide)).trans ((hp1 .ports (by decide)).trans hpo), hjw, ?_, ?_⟩
  · exact ((hru.mono (fun _ hx => (nomatch hx))).and (hr1.mono (by simp)) (fun _ hx => hx)).and hr2
  · exact ((hu.mono (by decide) : SameBut [.regs, .jne, .ports] s u).and hp1).and hp2

theorem headBurst_read (h : Answered s x b) (hc : x.code = 0) (hw : b.write = false) :
    Runs .headBurstResponse s (fun t => t.ports = { s.ports with done := [] } ∧
      t.jne = { s.jne with bursts := [], buf := s.jne.buf ++ (List.range b.len).map x.word } ∧ SameBut [.jne, .ports] s t) := by
  refine ⟨_, headBurst_exec h, ?_⟩
  rw [burstDone_eq h, if_neg (by simp [hc]), if_neg (by simp [hw])]
  have hidle : jneStep (onJne (burstOut (respTaken s x)) (fun j => { j with buf := j.buf ++ (List.range b.len).map x.word })) = none :=
    jneStep_idle h.script h.cmd h.infoq
  rw [jneRun_done hidle]
  refine ⟨?_, rfl, ((ports_sameBut s _).mono (by decide) : SameBut [.jne, .ports] s (respTaken s x)).and ((onJne_sameBut _ _).and (onJne_sameBut _ _))⟩
  show ({ s.ports with done := s.ports.done.erase x } : Ports) = _
  rw [h.done, List.erase_cons_head]

/-- A burst that failed is tried again. -/
theorem burstFailed_again {u : State} (hb : u.jne.bursts = []) (hs : u.jne.script = []) (hc : u.jne.cmd = 0) (hi : u.jne.infoq = []) (ha : persBase ≤ b.addr)
    (ht : b.tries < 3) (hu : SameBut [.jne, .ports] s u) (hid : u.jne.nextId = s.jne.nextId) :
    (jneRun 64 (burstFailed u b)).jne.bursts = [{ b with id := s.jne.nextId, tries := b.tries + 1 }] ∧
    RegsAre [counted s jneCnt jneCntHRETRY] s (jneRun 64 (burstFailed u b)) ∧ SameBut [.regs, .jne, .ports] s (jneRun 64 (burstFailed u b)) := by
  rw [burstFailed, if_neg (Nat.not_lt.2 ha), if_pos ht]
  have hru : RegsBut [] s u := regsBut_of_sameBut hu (by decide) (by decide) (by decide)
  have hri : RegsAre [counted s jneCnt jneCntHRETRY] s (inc u jneCnt jneCntHRETRY) := (regsAre_nil hru).inc (by simp) jneCntHRETRY
  have hpi : SameBut [.regs, .jne, .ports] s (inc u jneCnt jneCntHRETRY) := (hu.mono (by decide)).and (inc_sameBut u _ _ 1)
  have hji : (inc u jneCnt jneCntHRETRY).jne = u.jne := (inc_sameBut u _ _ 1) .jne (by decide)
  generalize inc u jneCnt jneCntHRETRY = v at hri hpi hji
  obtain ⟨hj, hr, hp⟩ := startBurst_spec v { b with tries := b.tries + 1 }
  generalize startBurst v { b with tries := b.tries + 1 } = w at hj hr hp
  rw [hji] at hj
  rw [jneRun_done (jneStep_idle (by rw [hj]; exact hs) (by rw [hj]; exact hc) (by rw [hj]; exact hi))]
  refine ⟨?_, hri.and hr, hpi.and (hp.mono (by decide) : SameBut [.regs, .jne, .ports] v w)⟩
  rw [hj]
  show u.jne.bursts ++ [{ b with id := u.jne.nextId, tries := b.tries + 1 }] = _
  rw [hb, hid, List.nil_append]

theorem headBurst_again (h : Answered s x b) (hc : x.code ≠ 0) (ha : persBase ≤ b.addr) (ht : b.tries < 3) :
    Runs .headBurstResponse s (fun t => t.jne.bursts = [{ b with id := s.jne.nextId, tries := b.tries + 1 }] ∧
      RegsAre [counted s jneCnt jneCntHRETRY] s t ∧ SameBut [.regs, .jne, .ports] s t) := by
  refine ⟨_, headBurst_exec h, ?_⟩
  rw [burstDone_eq h, if_pos hc]
  exact burstFailed_again rfl h.script h.cmd h.infoq ha ht
    (((ports_sameBut s _).mono (by decide) : SameBut [.jne, .ports] s (respTaken s x)).and (onJne_sameBut _ _)) rfl

theorem dropBursts_frame (s : State) : (dropBursts s).jne = { s.jne with script := [], bursts := s.jne.bursts.filter (fun b => b.bell) } ∧
    RegsBut [] s (dropBursts s) ∧ SameBut [.jne, .ports] s (dropBursts s) :=
  ⟨rfl, fun _ _ => rfl, ((ports_sameBut s _).mono (by decide) : SameBut [.jne, .ports] s _).and (onJne_sameBut _ _)⟩

theorem jneFault_eq {s : State} (hlog : s.jne.log = []) (hrec : s.sig.recs = []) : jneFault s =
    onJne (jneEnter (onJne (dropBursts (cmdEnd s)) (fun j => { j with ended := 0, log := j.log.map (fun c => { c with acked := true }) })) 5) waitless := by
  unfold jneFault
  rw [hlog, List.filter_nil]
  dsimp only [List.foldl_nil]
  refine refuseAll_idle ?_ 3
  have hs := (cmdEnd_frame s).2.1 .sig (by decide)
  have hd := (dropBursts_frame (cmdEnd s)).2.2 .sig (by decide)
  have hent : InState _ (jneEnter (onJne (dropBursts (cmdEnd s)) (fun j => { j with ended := 0, log := j.log.map (fun c => { c with acked := true }) })) 5) 5 :=
    jneEnter_inState (by decide) (.inr (.inr (.inr rfl)))
  rw [hent.sig]
  exact (congrArg Sig.recs (hd.trans hs)).trans hrec

theorem hosterr_psafeSync (s : State) : rb (psafeSync s) jneSts jneStsHOSTERR = rb s jneSts jneStsHOSTERR := rb_wb_apart s _ _ _ _ rfl rfl (by decide)

theorem hosterr_jneEnter (s : State) : rb (jneEnter s 5) jneSts jneStsHOSTERR = rb s jneSts jneStsHOSTERR := by
  unfold jneEnter
  dsimp only
  by_cases ho : jneState s = 5
  · rw [if_pos ho]
  · rw [if_neg ho, if_neg (by decide), if_neg (by decide)]
    refine Eq.trans ?_ ((hosterr_psafeSync (wf s jneSts jneStsSTATE 5)).trans (rb_wf_apart s jneSts jneStsSTATE jneStsHOSTERR 5 rfl rfl (by decide)))
    rfl

theorem jneFault_spec {s : State} (hlog : s.jne.log = []) (hrec : s.sig.recs = []) (hb : s.jne.bursts = []) : jneState (jneFault s) = 5 ∧
    rb (jneFault s) jneSts jneStsHOSTERR = rb s jneSts jneStsHOSTERR ∧ (jneFault s).jne.bursts = [] ∧
    (jneFault s).jne.script = [] ∧ ((jneFault s).jne.cmd = 0 ∨ (jneFault s).jne.cmd = s.jne.cmd) ∧ (jneFault s).jne.infoq = s.jne.infoq ∧
    RegsBut [jneSts, jneSegcmd] s (jneFault s) ∧ SameBut [.regs, .jne, .ports, .sig] s (jneFault s) := by
  rw [jneFault_eq hlog hrec]
  obtain ⟨hr, hp, hj⟩ := cmdEnd_frame s
  have hcmd : (cmdEnd s).jne.cmd = 0 ∨ (cmdEnd s).jne.cmd = s.jne.cmd := by
    unfold cmdEnd
    split
    · exact .inl rfl
    · exact .inr rfl
  generalize cmdEnd s = u at hr hp hj hcmd
  obtain ⟨hdj, hdr, hdp⟩ := dropBursts_frame u
  generalize dropBursts u = v at hdj hdr hdp
  have hvj : v.jne = { s.jne with cmd := u.jne.cmd, script := [], bursts := [] } := by
    rw [hdj, hj]
    show ({ s.jne with cmd := _, script := [], bursts := s.jne.bursts.filter _ } : Jne) = _
    rw [hb, List.filter_nil]
  have hrw := regsBut_onJne v (fun j => { j with ended := 0, log := j.log.map (fun c => { c with acked := true }) })
  have hpw := onJne_sameBut v (fun j => { j with ended := 0, log := j.log.map (fun c => { c with acked := true }) })
  have hjw : (onJne v (fun j => { j with ended := 0, log := j.log.map (fun c => { c with acked := true }) })).jne =
    { v.jne with ended := 0, log := v.jne.log.map (fun c => { c with acked := true }) } := rfl
  generalize onJne v (fun j => { j with ended := 0, log := j.log.map (fun c => { c with acked := true }) }) = w at hrw hpw hjw
  have hsw : RegsBut [jneSegcmd] s w := hr.and (hdr.and hrw (fun _ hx => hx)) (fun _ hx => (nomatch hx))
  have hpsw : SameBut [.regs, .jne, .ports] s w := (hp.mono (by decide) : SameBut [.regs, .jne, .ports] s u).and (hdp.and hpw)
  have hent : InState w (jneEnter w 5) 5 := jneEnter_inState (by decide) (.inr (.inr (.inr rfl)))
  have hflag := (hosterr_jneEnter w).trans (hsw.rb_eq (by decide) jneStsHOSTERR)
  generalize jneEnter w 5 = x at hent hflag
  have hjx : x.jne = { v.jne with ended := 0, log := v.jne.log.map (fun c => { c with acked := true }) } := hent.jne.trans hjw
  refine ⟨hent.state, hflag, ?_, ?_, ?_, ?_, ((hsw.mono (by simp) : RegsBut [jneSts, jneSegcmd] s w).and hent.regs).and (regsBut_onJne x _) (fun _ hx => (nomatch hx)),
    ((hpsw.mono (by decide) : SameBut [.regs, .jne, .ports, .sig] s w).and hent.parts).and (onJne_sameBut x _)⟩
  · show x.jne.bursts = []
    rw [hjx, hvj]
  · show x.jne.script = []
    rw [hjx, hvj]
  · show x.jne.cmd = 0 ∨ x.jne.cmd = s.jne.cmd
    rw [hjx, hvj]
    exact hcmd
  · show x.jne.infoq = s.jne.infoq
    rw [hjx, hvj]

theorem headBurst_givenUp (h : Answered s x b) (hc : x.code ≠ 0) (ha : persBase ≤ b.addr) (ht : 3 ≤ b.tries) (hlog : s.jne.log = []) (hrec : s.sig.recs = []) :
    Runs .headBurstResponse s (fun t => jneState t = 5 ∧ rb t jneSts jneStsHOSTERR = true ∧ t.jne.bursts = [] ∧
      RegsBut [jneSts, jneSegcmd] s t ∧ SameBut [.regs, .jne, .ports, .sig] s t) := by
  refine ⟨_, headBurst_exec h, ?_⟩
  rw [burstDone_eq h, if_pos hc, burstFailed, if_neg (Nat.not_lt.2 ha), if_neg (Nat.not_lt.2 ht)]
  have hu : SameBut [.jne, .ports] s (burstOut (respTaken s x)) :=
    ((ports_sameBut s _).mono (by decide) : SameBut [.jne, .ports] s (respTaken s x)).and (onJne_sameBut _ _)
  have hj : (burstOut (respTaken s x)).jne = { s.jne with bursts := [] } := rfl
  generalize burstOut (respTaken s x) = u at hu hj
  have hr : RegsBut [jneSts] s (wb u jneSts jneStsHOSTERR true) :=
    ((regsBut_of_sameBut hu (by decide) (by decide) (by decide)).mono (fun _ hx => (nomatch hx)) : RegsBut [jneSts] s u).and (regsBut_wb u _ _ _)
  have hp : SameBut [.regs, .jne, .ports] s (wb u jneSts jneStsHOSTERR true) := (hu.mono (by decide)).and (wb_sameBut u _ _ _)
  have hf : rb (wb u jneSts jneStsHOSTERR true) jneSts jneStsHOSTERR = true := rb_wb_same u _ _ true rfl
  have hjv : (wb u jneSts jneStsHOSTERR true).jne = { s.jne with bursts := [] } := ((wb_sameBut u _ _ _) .jne (by decide)).trans hj
  generalize wb u jneSts jneStsHOSTERR true = v at hr hp hf hjv
  obtain ⟨h1, h2, h3, h4, h5, h6, h7, h8⟩ := jneFault_spec (s := v) (by rw [hjv]; exact hlog) (by rw [hp .sig (by decide)]; exact hrec) (by rw [hjv])
  rw [hjv] at h5 h6
  rw [jneRun_done (jneStep_idle h4 (h5.elim id (fun h' => h'.trans h.cmd)) (h6.trans h.infoq))]
  exact ⟨h1, h2.trans hf, h3, (hr.mono (by simp) : RegsBut [jneSts, jneSegcmd] s v).and h7, (hp.mono (by decide) : SameBut [.regs, .jne, .ports, .sig] s v).and h8⟩

theorem headTimeout_again (ho : s.ports.out = [x]) (hb : s.jne.bursts = [b]) (hu : x.use = .unit 20 (32 + b.id)) (hat : x.at_ + 300000 ≤ s.port)
    (ha : persBase ≤ b.addr) (ht : b.tries < 3) (hs : s.jne.script = []) (hc : s.jne.cmd = 0) (hi : s.jne.infoq = []) :
    Runs .headBurstTimeout s (fun t => t.jne.bursts = [{ b with id := s.jne.nextId, tries := b.tries + 1 }] ∧
      RegsAre [counted s jneCnt jneCntHRETRY] s t ∧ SameBut [.regs, .jne, .ports] s t) := by
  refine ⟨jneRun 64 (burstFailed (burstOut (hmpDrop s (fun h => h == x.use))) b), ?_, ?_⟩
  · show execHeadBurstTimeout s = _
    rw [execHeadBurstTimeout, ho, find?_one (by rw [hb]; simp [hat, ha, hu])]
    dsimp only
    rw [hb, find?_one (by rw [hu]; exact beq_self_eq_true _)]
    dsimp only
    have he : onJne (hmpDrop s (fun h => h == x.use)) (fun j => { j with bursts := j.bursts.filter (fun y => y.id != b.id) }) = burstOut (hmpDrop s (fun h => h == x.use)) := by
      show ({ hmpDrop s (fun h => h == x.use) with jne := { s.jne with bursts := s.jne.bursts.filter (fun y => y.id != b.id) } } : State) = _
      rw [filter_burst hb]
      rfl
    rw [he]
    rfl
  · exact burstFailed_again rfl hs hc hi ha ht (((ports_sameBut s _).mono (by decide) : SameBut [.jne, .ports] s (hmpDrop s (fun h => h == x.use))).and (onJne_sameBut _ _)) rfl

end Bursts

/-! Storage queues (R361, R364). -/

/-- The poll of a ring that is asked for. -/
def askedRing (z : MqRing) : MqRing := if z.asked then { z with again := true } else { z with asked := true }

theorem mqRing_setMqRing (s : State) (m : Nat) (r : MqRing) : mqRing (setMqRing s m r) m = r := tget_tset_same _ _ _ _

theorem mqRing_setMqRing_other (s : State) {m j : Nat} (r : MqRing) (h : j ≠ m) : mqRing (setMqRing s m r) j = mqRing s j := tget_tset_other _ _ _ _ h

theorem mqRing_congr {s t : State} (h : t.jne.rings = s.jne.rings) (m : Nat) : mqRing t m = mqRing s m := by rw [mqRing, h, mqRing]

/-- What asking a ring leaves. -/
structure AsksRing (s t : State) (m : Nat) : Prop where
  ring : mqRing t m = if jneState s ≠ 0 ∧ mqOn s m = true then askedRing (mqRing s m) else mqRing s m
  others : ∀ j, j ≠ m → mqRing t j = mqRing s j
  jne : t.jne = { s.jne with rings := t.jne.rings }
  regs : RegsBut [] s t
  parts : SameBut [.jne, .ports] s t

theorem mqAsk_spec (s : State) (m : Nat) : AsksRing s (mqAsk s m) m := by
  unfold mqAsk
  dsimp only
  by_cases h : jneState s ≠ 0 ∧ mqOn s m = true
  · obtain ⟨h0, hon⟩ := h
    rw [if_neg (by simp [h0, hon])]
    by_cases ha : (mqRing s m).asked = true
    · rw [if_pos ha]
      refine ⟨?_, fun j hj => mqRing_setMqRing_other s _ hj, rfl, regsBut_onJne s _, (onJne_sameBut s _).mono (by decide)⟩
      rw [mqRing_setMqRing, if_pos ⟨h0, hon⟩, askedRing, if_pos ha]
    · rw [if_neg ha]
      have hq := hmpReq_sameBut (setMqRing s m { mqRing s m with asked := true }) (.unit 20 m) false (rf s (jneMqcq m) jneMqcqADDR + 2 * (mqRing s m).comp) 2 [] false true
      generalize hmpReq (setMqRing s m { mqRing s m with asked := true }) (.unit 20 m) false (rf s (jneMqcq m) jneMqcqADDR + 2 * (mqRing s m).comp) 2 [] false true = t at hq
      have hj : t.jne = (setMqRing s m { mqRing s m with asked := true }).jne := hq .jne (by decide)
      have hall : SameBut [.jne, .ports] s t := ((onJne_sameBut s _).mono (by decide) : SameBut [.jne, .ports] s (setMqRing s m _)).and hq
      refine ⟨?_, fun j hne => ?_, ?_, regsBut_of_sameBut hall (by decide) (by decide) (by decide), hall⟩
      · rw [mqRing_congr (congrArg Jne.rings hj), mqRing_setMqRing, if_pos ⟨h0, hon⟩, askedRing, if_neg ha]
      · rw [mqRing_congr (congrArg Jne.rings hj), mqRing_setMqRing_other s _ hne]
      · rw [hj]
        rfl
  · have hc : (jneState s = 0 || !mqOn s m) = true := by
      rw [not_and, Bool.not_eq_true] at h
      by_cases h0 : jneState s = 0
      · simp [h0]
      · simp [h h0]
    rw [if_pos hc]
    exact ⟨by rw [if_neg h], fun _ _ => rfl, rfl, RegsBut.refl _ s, SameBut.refl _ s⟩

theorem AsksRing.on {s t : State} {m : Nat} (h : AsksRing s t m) (j : Nat) : mqOn t j = mqOn s j := h.regs.rb_eq List.not_mem_nil _

theorem AsksRing.state {s t : State} {m : Nat} (h : AsksRing s t m) : jneState t = jneState s := jneState_eq h.regs List.not_mem_nil

theorem mqheadWrite_result {s : State} {m : Fin 16} (hon : pdOn s 44 = true) (hm : mqOn s m.val = true) (hst : jneState s ≠ 0) :
    Runs (.mqheadWrite m) s (fun t => t.resp = ⟨0, 0⟩ ∧ mqRing t m.val = askedRing (mqRing s m.val) ∧
      (∀ j, j ≠ m.val → mqRing t j = mqRing s j) ∧ SameBut [.jne, .ports, .resp] s t) := by
  obtain ⟨h1, h2, -, -, h5⟩ := mqAsk_spec s m.val
  rw [if_pos ⟨hst, hm⟩] at h1
  exact ⟨_, if_pos hon, rfl, h1, h2, (h5.mono (by decide) : SameBut [.jne, .ports, .resp] s _).and (respond_sameBut _ _ _)⟩

/-- The rings below n have been asked. -/
structure AskedTo (s t : State) (n : Nat) : Prop where
  below : ∀ j < n, mqRing t j = if mqOn s j = true then askedRing (mqRing s j) else mqRing s j
  above : ∀ j, n ≤ j → mqRing t j = mqRing s j
  polled : t.jne.polled = s.jne.polled
  regs : RegsBut [] s t
  parts : SameBut [.jne, .ports] s t

theorem askedTo_foldl {s : State} (hst : jneState s ≠ 0) (n : Nat) : AskedTo s ((List.range n).foldl mqAsk s) n := by
  induction n with
  | zero => exact ⟨fun j hj => absurd hj (Nat.not_lt_zero j), fun _ _ => rfl, rfl, RegsBut.refl _ s, SameBut.refl _ s⟩
  | succ n ih =>
    rw [List.range_succ, List.foldl_concat]
    obtain ⟨hb, ha, hpol, hr, hp⟩ := ih
    generalize (List.range n).foldl mqAsk s = t at hb ha hpol hr hp
    obtain ⟨h1, h2, h3, h4, h5⟩ := mqAsk_spec t n
    have hon : mqOn t n = mqOn s n := hr.rb_eq List.not_mem_nil _
    have hst' : jneState t ≠ 0 := by rw [jneState_eq hr List.not_mem_nil]; exact hst
    refine ⟨fun j hj => ?_, fun j hj => (h2 j (by omega)).trans (ha j (by omega)), ?_, hr.and h4 (fun _ hx => hx), hp.and h5⟩
    · rcases Nat.lt_succ_iff_lt_or_eq.1 hj with hlt | rfl
      · exact (h2 j (by omega)).trans (hb j hlt)
      · rw [h1, ha _ (le_refl _), hon]
        simp only [ne_eq, hst', not_false_eq_true, true_and]
    · rw [h3]
      exact hpol

theorem mqPoll_result {s : State} (hon : pdOn s 44 = true) (hrun : s.running = true) (hdue : s.jne.polled + 30000 ≤ s.port) (hst : jneState s ≠ 0) :
    Runs .mqPoll s (fun t => t.jne.polled = s.port ∧ (∀ j < 16, mqRing t j = if mqOn s j = true then askedRing (mqRing s j) else mqRing s j) ∧
      SameBut [.jne, .ports] s t) := by
  obtain ⟨hb, -, hpol, -, hp⟩ := askedTo_foldl (s := onJne s (fun j => { j with polled := s.port })) hst 16
  refine ⟨_, ?_, hpol, hb, ((onJne_sameBut s _).mono (by decide) : SameBut [.jne, .ports] s (onJne s (fun j => { j with polled := s.port }))).and hp⟩
  show execMqPoll s = _
  rw [execMqPoll, onlyIf, if_pos (by simp [hon, hrun, hdue])]
  rfl

/-! Completions (R361). -/

section Completions

variable {s : State} {m : Fin 16} {x : HmpTx}

/-- A ring's poll is answered, and nothing else runs. -/
structure Polled (s : State) (m : Fin 16) (x : HmpTx) : Prop where
  done : s.ports.done.find? (fun z => z.use == HmpUse.unit 20 m.val) = some x
  code : x.code = 0
  script : s.jne.script = []
  cmd : s.jne.cmd = 0
  infoq : s.jne.infoq = []

theorem mqCompletion_take (h : Polled s m x) : hmpTake s (fun h => h == HmpUse.unit 20 m.val) = some (x, respTaken s x) := by
  rw [hmpTake, h.done]
  rfl

/-- The state in which the poll's answer is taken and the ring is as given. -/
def ringTaken (s : State) (x : HmpTx) (m : Nat) (r : MqRing) : State := setMqRing (respTaken s x) m r

theorem ringTaken_frame (s : State) (x : HmpTx) (m : Nat) (r : MqRing) : mqRing (ringTaken s x m r) m = r ∧
    (ringTaken s x m r).jne = { s.jne with rings := (ringTaken s x m r).jne.rings } ∧ (ringTaken s x m r).ports = { s.ports with done := s.ports.done.erase x } ∧
    RegsBut [] s (ringTaken s x m r) ∧ SameBut [.jne, .ports] s (ringTaken s x m r) :=
  ⟨mqRing_setMqRing _ _ _, rfl, rfl, fun _ _ => rfl, ((ports_sameBut s _).mono (by decide) : SameBut [.jne, .ports] s (respTaken s x)).and (onJne_sameBut _ _)⟩

theorem mqCompletion_stale (h : Polled s m x) (hp : bitOf (x.word 0) 47 ≠ (mqRing s m.val).phase) : exec (.mqCompletion m) s = .next
    (if (mqRing s m.val).again then mqAsk (ringTaken s x m.val { mqRing s m.val with asked := false, again := false }) m.val
      else ringTaken s x m.val { mqRing s m.val with asked := false, again := false }) := by
  show execMqCompletion m s = _
  rw [execMqCompletion, mqCompletion_take h]
  dsimp only
  rw [show mqRing (respTaken s x) m.val = mqRing s m.val from rfl, if_pos (by simp [hp])]
  rfl

theorem mqCompletion_asksAgain (h : Polled s m x) (hp : bitOf (x.word 0) 47 ≠ (mqRing s m.val).phase) (ha : (mqRing s m.val).again = true)
    (hm : mqOn s m.val = true) (hst : jneState s ≠ 0) : Runs (.mqCompletion m) s (fun t =>
      mqRing t m.val = { mqRing s m.val with asked := true, again := false } ∧ t.jne.subs = s.jne.subs ∧ SameBut [.jne, .ports] s t) := by
  refine ⟨_, mqCompletion_stale h hp, ?_⟩
  rw [if_pos ha]
  obtain ⟨h1, h2, -, h4, h5⟩ := ringTaken_frame s x m.val { mqRing s m.val with asked := false, again := false }
  generalize ringTaken s x m.val { mqRing s m.val with asked := false, again := false } = t at h1 h2 h4 h5
  obtain ⟨g1, -, g3, -, g5⟩ := mqAsk_spec t m.val
  rw [if_pos ⟨by rw [jneState_eq h4 List.not_mem_nil]; exact hst, (h4.rb_eq List.not_mem_nil _).trans hm⟩, h1] at g1
  refine ⟨g1, ?_, h5.and g5⟩
  rw [g3, h2]

theorem mqCompletion_none (h : Polled s m x) (hp : bitOf (x.word 0) 47 ≠ (mqRing s m.val).phase) (ha : (mqRing s m.val).again = false) :
    Runs (.mqCompletion m) s (fun t => mqRing t m.val = { mqRing s m.val with asked := false } ∧
      t.ports = { s.ports with done := s.ports.done.erase x } ∧ t.jne.subs = s.jne.subs ∧ SameBut [.jne, .ports] s t) := by
  refine ⟨_, mqCompletion_stale h hp, ?_⟩
  rw [if_neg (by simp [ha])]
  obtain ⟨h1, h2, h3, -, h5⟩ := ringTaken_frame s x m.val { mqRing s m.val with asked := false, again := false }
  generalize ringTaken s x m.val { mqRing s m.val with asked := false, again := false } = t at h1 h2 h3 h5
  refine ⟨h1.trans (by rw [← ha]), h3, ?_, h5⟩
  rw [h2]

/-- A submission that ends well, where it is no INFO: it leaves the queue, and its result is the activity's. -/
theorem mqConsumed_ok {t : State} {y : MqSub} {w0 v : Word} {k : Nat} (hst : (⟨39, 32⟩ : Fld).get w0 = 0)
    (hy : t.jne.subs.find? (fun z => z.m == k && z.tag == w0.toNat % 2 ^ 16) = some y) (hop : y.op ≠ 4) :
    mqConsumed t k w0 v = mqSync (onJne t (fun j => { j with subs := j.subs.erase y, mqSt := 0, mqVal := v })) k := by
  rw [mqConsumed]
  dsimp only
  rw [if_pos hst, hy]
  dsimp only
  rw [if_neg hop, hst]
  rfl

/-- The ring after one of its completions is taken. -/
def nextComp (s : State) (m : Nat) : MqRing :=
  ⟨(mqRing s m).sub, if (mqRing s m).comp + 1 = mqEntries s m then 0 else (mqRing s m).comp + 1,
    if (mqRing s m).comp + 1 = mqEntries s m then !(mqRing s m).phase else (mqRing s m).phase, false, false⟩

theorem mqSync_frame (s : State) (m : Nat) : mqOn (mqSync s m) m = mqOn s m ∧ RegsBut [jneMqcfg m] s (mqSync s m) ∧ SameBut [.regs] s (mqSync s m) :=
  ⟨rb_wf_apart s (jneMqcfg m) jneMqcfgOUTST jneMqcfgEN _ rfl rfl (by decide), regsBut_wf s _ _ _, wf_sameBut s _ _ _⟩

theorem mqCompletion_taken {y : MqSub} (h : Polled s m x) (hp : bitOf (x.word 0) 47 = (mqRing s m.val).phase) (hst0 : (⟨39, 32⟩ : Fld).get (x.word 0) = 0)
    (hy : s.jne.subs.find? (fun z => z.m == m.val && z.tag == (x.word 0).toNat % 2 ^ 16) = some y) (hop : y.op ≠ 4) (hm : mqOn s m.val = true)
    (hst : jneState s ≠ 0) : Runs (.mqCompletion m) s (fun t => t.jne.subs = s.jne.subs.erase y ∧ t.jne.mqSt = 0 ∧ t.jne.mqVal = x.word 1 ∧
      mqRing t m.val = { nextComp s m.val with asked := true } ∧ RegsBut [jneMqcfg m.val] s t ∧ SameBut [.regs, .jne, .ports] s t) := by
  refine ⟨mqAsk (jneRun 64 (mqConsumed (setMqRing (ringTaken s x m.val { mqRing s m.val with asked := false, again := false }) m.val (nextComp s m.val)) m.val
    (x.word 0) (x.word 1))) m.val, ?_, ?_⟩
  · show execMqCompletion m s = _
    rw [execMqCompletion, mqCompletion_take h]
    dsimp only
    rw [show mqRing (respTaken s x) m.val = mqRing s m.val from rfl, if_neg (by simp [hp, h.code])]
    rfl
  obtain ⟨-, h2, -, h4, h5⟩ := ringTaken_frame s x m.val { mqRing s m.val with asked := false, again := false }
  generalize ringTaken s x m.val { mqRing s m.val with asked := false, again := false } = t at h2 h4 h5
  have hring := mqRing_setMqRing t m.val (nextComp s m.val)
  have hju : (setMqRing t m.val (nextComp s m.val)).jne = { s.jne with rings := (setMqRing t m.val (nextComp s m.val)).jne.rings } := by
    refine Eq.trans (b := { t.jne with rings := (setMqRing t m.val (nextComp s m.val)).jne.rings }) rfl ?_
    rw [h2]
  have hru : RegsBut [] s (setMqRing t m.val (nextComp s m.val)) := h4
  have hpu : SameBut [.jne, .ports] s (setMqRing t m.val (nextComp s m.val)) := h5.and (onJne_sameBut t _)
  generalize setMqRing t m.val (nextComp s m.val) = u at hring hju hru hpu
  rw [mqConsumed_ok hst0 (by rw [hju]; exact hy) hop]
  have hjv : (onJne u (fun j => { j with subs := j.subs.erase y, mqSt := 0, mqVal := x.word 1 })).jne =
    { u.jne with subs := u.jne.subs.erase y, mqSt := 0, mqVal := x.word 1 } := rfl
  have hrv := regsBut_onJne u (fun j => { j with subs := j.subs.erase y, mqSt := 0, mqVal := x.word 1 })
  have hpv := onJne_sameBut u (fun j => { j with subs := j.subs.erase y, mqSt := 0, mqVal := x.word 1 })
  generalize onJne u (fun j => { j with subs := j.subs.erase y, mqSt := 0, mqVal := x.word 1 }) = v at hjv hrv hpv
  obtain ⟨hon, hrw, hpw⟩ := mqSync_frame v m.val
  generalize mqSync v m.val = w at hon hrw hpw
  have hjw : w.jne = { u.jne with subs := u.jne.subs.erase y, mqSt := 0, mqVal := x.word 1 } := (hpw .jne (by decide)).trans hjv
  rw [jneRun_done (jneStep_idle (by rw [hjw, hju]; exact h.script) (by rw [hjw, hju]; exact h.cmd) (by rw [hjw, hju]; exact h.infoq))]
  have hrsw : RegsBut [jneMqcfg m.val] s w := ((hru.and hrv (fun _ hx => hx)).mono (fun _ hx => (nomatch hx))).and hrw (fun _ hx => hx)
  have honw : mqOn w m.val = true := hon.trans (((hru.and hrv (fun _ hx => hx)).rb_eq List.not_mem_nil _).trans hm)
  have hstw : jneState w ≠ 0 := by
    rw [jneState_eq hrsw (by simp only [List.mem_singleton, jneSts, jneMqcfg]; omega)]
    exact hst
  obtain ⟨g1, -, g3, g4, g5⟩ := mqAsk_spec w m.val
  rw [if_pos ⟨hstw, honw⟩, mqRing_congr (by rw [hjw] : w.jne.rings = u.jne.rings), hring] at g1
  refine ⟨?_, ?_, ?_, g1, hrsw.and g4 (fun _ hx => (nomatch hx)), ((hpu.and hpv).mono (by decide) : SameBut [.regs, .jne, .ports] s v).and ((hpw.mono (by decide) : SameBut [.regs, .jne, .ports] v w).and g5)⟩
  · rw [g3, hjw, hju]
  · rw [g3, hjw]
  · rw [g3, hjw]

end Completions

/-! Readmission (R375). -/

/-- The unit to be readmitted. -/
def readmitted (m : Nat) (j : Jne) : Jne := { j with readmit := m :: j.readmit.filter (fun x => x != m) }

theorem merrReadmit_exec {s : State} {m : Fin 16} (hon : pdOn s 44 = true) (he : rb s (jneMwear m.val) jneMwearMERR = true) :
    exec (.merrReadmit m) s = .next (respond (onJne (clearBit s (jneMwear m.val) jneMwearMERR) (readmitted m.val)) 0) := by
  show execMerrReadmit m s = _
  rw [execMerrReadmit, if_pos hon, merrWrite, if_pos (by rw [he]; decide)]
  rfl

theorem merrReadmit_quiet {s : State} {m : Fin 16} (hon : pdOn s 44 = true) (he : rb s (jneMwear m.val) jneMwearMERR = true)
    (h : setsAt s (jneMwear m.val) (jneMwearMERR.put 0 1) = []) : Runs (.merrReadmit m) s (fun t => t.resp = ⟨0, 0⟩ ∧
      RegsAre [withFld s (jneMwear m.val) jneMwearMERR 0] s t ∧ m.val ∈ t.jne.readmit ∧ SameBut [.regs, .jne, .resp] s t) := by
  refine ⟨_, merrReadmit_exec hon he, rfl, ?_, List.mem_cons_self, ?_⟩
  · rw [clearBit_of_quiet h]
    exact (regsAre_wf s _ _ 0).and (fun _ _ => rfl)
  · rw [clearBit_of_quiet h]
    exact (((wf_sameBut s _ _ 0).mono (by decide) : SameBut [.regs, .jne, .resp] s _).and (onJne_sameBut _ _)).and (respond_sameBut _ _ _)

theorem merrReadmit_frame {s : State} {m : Fin 16} (hon : pdOn s 44 = true) (he : rb s (jneMwear m.val) jneMwearMERR = true) :
    Runs (.merrReadmit m) s (fun t => t.resp = ⟨0, 0⟩ ∧ RegsBut [jneMwear m.val] s t ∧ m.val ∈ t.jne.readmit ∧ SameBut [.regs, .jne, .resp, .free] s t) :=
  ⟨_, merrReadmit_exec hon he, rfl, (regsBut_clearTo s _ _ _).and (fun _ _ => rfl : RegsBut [] _ _) (fun _ hx => (nomatch hx)), List.mem_cons_self,
    (((clearTo_sameBut s _ _ _).mono (by decide) : SameBut [.regs, .jne, .resp, .free] s _).and (onJne_sameBut _ _)).and (respond_sameBut _ _ _)⟩

/-! The periodic INFO (R361). -/

theorem scriptWrites_small (s : State) (a : Nat) {ws : List Word} (h : ws ≠ []) (hl : ws.length ≤ 8) : scriptWrites s a ws = scriptBurst s true a ws.length ws := by
  have h0 : ws.length ≠ 0 := fun hz => h (List.eq_nil_of_length_eq_zero hz)
  have h1 : (ws.length + 7) / 8 = 1 := by omega
  unfold scriptWrites
  rw [h1, List.range_one, List.foldl_cons, List.foldl_nil]
  dsimp only
  rw [Nat.mul_zero, List.drop_zero, List.take_of_length_le hl, Nat.add_zero]

/-- The entry of an INFO in the submission ring. -/
def infoEntry (s : State) : List Word := [BitVec.ofNat 48 (4 * 2 ^ 40 + s.jne.nextTag % 2 ^ 16), BitVec.ofNat 48 1, 0, BitVec.ofNat 48 1]

/-- The INFOs of the queues that are on are asked for. -/
def infoAsked (s : State) : State :=
  onJne s (fun j => { j with infoAt := s.port, infoq := j.infoq ++ ((List.range 16).filter (mqOn s)).map (fun m => (m, 1)) })

theorem infoAsked_first {s : State} {m : Nat} (hi : s.jne.infoq = []) (hf : (List.range 16).find? (mqOn s) = some m) :
    ∃ r, (infoAsked s).jne.infoq = (m, 1) :: r := by
  have hh : ((List.range 16).filter (mqOn s)).head? = some m := by rw [List.head?_filter, hf]
  obtain ⟨r, hr⟩ := List.head?_eq_some_iff.1 hh
  refine ⟨r.map (fun m => (m, 1)), ?_⟩
  show s.jne.infoq ++ ((List.range 16).filter (mqOn s)).map (fun m => (m, 1)) = _
  rw [hi, hr]
  rfl

theorem infoStep_submits {t : State} {m : Nat} {r : List (Nat × Nat)} (hruns : infoRuns t = true) (hs : t.jne.script = []) (hq : t.jne.infoq = (m, 1) :: r)
    (hon : mqOn t m = true) (hf : mqFailed t m = false) (hr : mqRoom t m = true) :
    infoStep t = some (mqSubmit (onJne t (fun j => { j with infoq := j.infoq.erase (m, 1) })) m 4 1 1 0 false) := by
  have hserves : mqServes t m 4 = true := by rw [mqServes, hon, hf]; rfl
  unfold infoStep
  rw [hs, hruns, hq, List.find?_cons_of_pos (by rw [hr, Bool.or_true])]
  dsimp only
  rw [if_neg (by decide), if_pos hserves]

/-- The state in which the first INFO has been submitted. -/
def infoSubmitted (s : State) (m : Nat) : State := mqSubmit (onJne (infoAsked s) (fun j => { j with infoq := j.infoq.erase (m, 1) })) m 4 1 1 0 false

/-- Where the INFO's entry goes. -/
def infoSlot (s : State) (m : Nat) : Nat := rf s (jneMqsq m) jneMqsqADDR + 4 * (mqRing s m).sub

theorem mqSubmit_script (u : State) (m op page npg buf : Nat) : (mqSubmit u m op page npg buf false).jne.script =
    .wr (rf u (jneMqsq m) jneMqsqADDR + 4 * (mqRing u m).sub)
      [BitVec.ofNat 48 (op * 2 ^ 40 + u.jne.nextTag % 2 ^ 16), BitVec.ofNat 48 page, BitVec.ofNat 48 buf, BitVec.ofNat 48 npg] ::
      .ring m (u.jne.nextTag % 2 ^ 16) op page :: u.jne.script := rfl

theorem mqSubmit_bursts (u : State) (m op page npg buf : Nat) : (mqSubmit u m op page npg buf false).jne.bursts = u.jne.bursts := rfl

theorem mqSubmit_sameBut (u : State) (m op page npg buf : Nat) (w : Bool) : SameBut [.jne] u (mqSubmit u m op page npg buf w) :=
  (onJne_sameBut u (fun j => { j with nextTag := j.nextTag + 1 })).and (onJne_sameBut _ _)

theorem infoSubmitted_frame (s : State) (m : Nat) : (infoSubmitted s m).jne.script =
      .wr (infoSlot s m) (infoEntry s) :: .ring m (s.jne.nextTag % 2 ^ 16) 4 1 :: s.jne.script ∧ (infoSubmitted s m).jne.infoAt = s.port ∧
    (infoSubmitted s m).jne.bursts = s.jne.bursts ∧ SameBut [.jne] s (infoSubmitted s m) := by
  refine ⟨?_, rfl, (mqSubmit_bursts _ m 4 1 1 0).trans rfl,
    ((onJne_sameBut s _).and (onJne_sameBut (infoAsked s) _)).and (mqSubmit_sameBut _ m 4 1 1 0 false)⟩
  rw [infoSubmitted, mqSubmit_script]
  have hring : (mqRing (onJne (infoAsked s) (fun j => { j with infoq := j.infoq.erase (m, 1) })) m) = mqRing s m := mqRing_congr rfl m
  have htag : (onJne (infoAsked s) (fun j => { j with infoq := j.infoq.erase (m, 1) })).jne.nextTag = s.jne.nextTag := rfl
  have hscr : (onJne (infoAsked s) (fun j => { j with infoq := j.infoq.erase (m, 1) })).jne.script = s.jne.script := rfl
  have hsq : rf (onJne (infoAsked s) (fun j => { j with infoq := j.infoq.erase (m, 1) })) (jneMqsq m) jneMqsqADDR = rf s (jneMqsq m) jneMqsqADDR := rfl
  rw [hring, htag, hscr, hsq]
  rfl

theorem infoPoll_result {s : State} {m : Fin 16} (hon : pdOn s 44 = true) (hrun : s.running = true) (hruns : infoRuns s = true)
    (hp : rf s jnePlccfg jnePlccfgINFOPER ≠ 0) (hdue : s.jne.infoAt + rf s jnePlccfg jnePlccfgINFOPER * 300000000 ≤ s.port) (hs : s.jne.script = [])
    (hi : s.jne.infoq = []) (hb : s.jne.bursts = []) (hfind : (List.range 16).find? (mqOn s) = some m.val) (hfail : mqFailed s m.val = false)
    (hroom : mqRoom s m.val = true) : Runs .infoPoll s (fun t => t.jne.infoAt = s.port ∧
      t.jne.script = [.ring m.val (s.jne.nextTag % 2 ^ 16) 4 1] ∧ t.jne.bursts.map (fun z => (z.write, z.addr, z.data)) =
        [(true, infoSlot s m.val, infoEntry s)] ∧ SameBut [.jne, .ports] s t) := by
  refine ⟨jneRun 64 (infoAsked s), ?_, ?_⟩
  · show execInfoPoll s = _
    rw [execInfoPoll, onlyIf, if_pos (by simp [hon, hrun, hruns, hp, hdue])]
    rfl
  have hmon : mqOn s m.val = true := List.find?_some hfind
  obtain ⟨r, hq⟩ := infoAsked_first hi hfind
  have hstep := infoStep_submits (t := infoAsked s) hruns hs hq hmon hfail hroom
  have hjs : jneStep (infoAsked s) = some (infoSubmitted s m.val) := by
    rw [jneStep, show (infoAsked s).jne.bursts = [] from hb, List.any_nil, if_neg Bool.false_ne_true, hstep]
    rfl
  rw [jneRun_step hjs]
  obtain ⟨hscr, hat, hbu, hpu⟩ := infoSubmitted_frame s m.val
  rw [hs] at hscr
  rw [hb] at hbu
  generalize infoSubmitted s m.val = u at hscr hat hbu hpu
  have hnone : infoStep u = none := by
    unfold infoStep
    rw [hscr]
    dsimp only
    rw [Bool.not_false, Bool.or_true, if_pos rfl]
  have hws : scriptStep u = some (scriptBurst (onJne u (fun j => { j with script := [.ring m.val (s.jne.nextTag % 2 ^ 16) 4 1] })) true
      (infoSlot s m.val) 4 (infoEntry s)) := by
    rw [scriptStep, hscr]
    exact congrArg some (scriptWrites_small _ _ (by simp [infoEntry]) (by simp [infoEntry]))
  rw [jneRun_step ((jneStep_script hbu hnone).trans hws)]
  have hv := scriptBurst_own (onJne u (fun j => { j with script := [.ring m.val (s.jne.nextTag % 2 ^ 16) 4 1] })) true
    (infoSlot s m.val) 4 (infoEntry s)
  have hpv : SameBut [.jne] s _ := hpu.and (onJne_sameBut u (fun j => { j with script := [.ring m.val (s.jne.nextTag % 2 ^ 16) 4 1] }))
  have hjv : (onJne u (fun j => { j with script := [.ring m.val (s.jne.nextTag % 2 ^ 16) 4 1] })).jne = { u.jne with script := [.ring m.val (s.jne.nextTag % 2 ^ 16) 4 1] } := rfl
  generalize onJne u (fun j => { j with script := [.ring m.val (s.jne.nextTag % 2 ^ 16) 4 1] }) = v at hv hpv hjv
  generalize scriptBurst v true (infoSlot s m.val) 4 (infoEntry s) = w at hv
  have hjw := hv.jne
  have hbw : w.jne.bursts = [ownBurst v true (infoSlot s m.val) 4 (infoEntry s)] := by
    have hbv : v.jne.bursts = [] := by rw [hjv]; exact hbu
    rw [congrArg Jne.bursts hjw, hbv]
    rfl
  rw [jneRun_done (jneStep_own (by rw [hbw]; simp) (by rw [hbw]; exact hv.own))]
  refine ⟨?_, ?_, by rw [hbw]; rfl, (hpv.mono (by decide) : SameBut [.jne, .ports] s v).and hv.parts⟩
  · rw [congrArg Jne.infoAt hjw, hjv]
    exact hat
  · rw [congrArg Jne.script hjw, hjv]

/-! Segment commands (R372). -/

/-- A segment command with its number is under way. -/
def segAsked (s : State) (op seq : Nat) : State := onJne (wb (wf s jneSegcmd jneSegcmdSEQ seq) jneSegcmd jneSegcmdBUSY true) (fun j => { j with cmd := op })

theorem segWord_fields {op seq : Nat} (ho : op < 4) (hs : seq < 2 ^ 36) : jneSegcmdOP.get (BitVec.ofNat 48 (op * 2 ^ 46 + seq)) = op ∧
    jneSegcmdSEQ.get (BitVec.ofNat 48 (op * 2 ^ 46 + seq)) = seq := by
  simp only [jneSegcmdOP, jneSegcmdSEQ, Fld.get, Fld.span, BitVec.toNat_ofNat, Nat.shiftRight_eq_div_pow]
  omega

theorem segcmdWrite_eq {s : State} {q : Req} {op seq : Nat} (hop : op = 1 ∨ op = 2) (hseq : seq < 2 ^ 36) (hq : holdsType s q 7 = true)
    (hb : rb s jneSegcmd jneSegcmdBUSY = false) (hst : jneState s = 3) :
    segcmdWrite s q (BitVec.ofNat 48 (op * 2 ^ 46 + seq)) = respond (jneRun 64 (segAsked s op seq)) 0 := by
  obtain ⟨h1, h2⟩ := segWord_fields (op := op) (seq := seq) (by omega) hseq
  have hst' : jneState (wf s jneSegcmd jneSegcmdSEQ seq) = 3 := (jneState_eq (regsBut_wf s jneSegcmd jneSegcmdSEQ seq) (by decide)).trans hst
  rw [segcmdWrite]
  dsimp only
  rw [h1, h2, hb, if_neg Bool.false_ne_true, show holdsType s q otJournal = true from hq, if_neg (by simp; omega), if_neg (by simp [hst'])]
  rfl

/-- A segment command is about to be carried out. -/
structure SegCmd (s v : State) (op seq : Nat) : Prop where
  jne : v.jne = { s.jne with cmd := op }
  num : rf v jneSegcmd jneSegcmdSEQ = seq
  busy : rb v jneSegcmd jneSegcmdBUSY = true
  regs : RegsBut [jneSegcmd] s v
  parts : SameBut [.regs, .jne] s v

section Seg

variable {s : State} {op seq : Nat} (hop : op = 1 ∨ op = 2) (hseq : seq < 2 ^ 36) (hdry : dryRuns s = true) (hs : s.jne.script = []) (hb : s.jne.bursts = [])
  (hi : s.jne.infoq = [])
include hop hseq hdry hs hb hi

theorem segAsked_runs : ∃ v, SegCmd s v op seq ∧ jneRun 64 (segAsked s op seq) = jneRun 62 (onJne (segCmdStep v) (fun j => { j with buf := [] })) := by
  have hseqv : rf (wb (wf s jneSegcmd jneSegcmdSEQ seq) jneSegcmd jneSegcmdBUSY true) jneSegcmd jneSegcmdSEQ = seq :=
    (rf_wb_apart _ _ true rfl rfl (by decide)).trans ((rf_wf_same s _ _ _ rfl).trans (Nat.mod_eq_of_lt hseq))
  have hbusy : rb (wb (wf s jneSegcmd jneSegcmdSEQ seq) jneSegcmd jneSegcmdBUSY true) jneSegcmd jneSegcmdBUSY = true := rb_wb_same _ _ _ true rfl
  have hr : RegsBut [jneSegcmd] s (wb (wf s jneSegcmd jneSegcmdSEQ seq) jneSegcmd jneSegcmdBUSY true) := (regsBut_wf s _ _ _).and (regsBut_wb _ _ _ _)
  have hp : SameBut [.regs] s (wb (wf s jneSegcmd jneSegcmdSEQ seq) jneSegcmd jneSegcmdBUSY true) := (wf_sameBut s _ _ _).and (wb_sameBut _ _ _ _)
  unfold segAsked
  generalize wb (wf s jneSegcmd jneSegcmdSEQ seq) jneSegcmd jneSegcmdBUSY true = u at hseqv hbusy hr hp
  have hju : u.jne = s.jne := hp .jne (by decide)
  have hj : (onJne u (fun j => { j with cmd := op })).jne = { s.jne with cmd := op } := by rw [← hju]; rfl
  have hsame : SameBut [.jne] u (onJne u (fun j => { j with cmd := op })) := onJne_sameBut u _
  have hregs : RegsBut [] u (onJne u (fun j => { j with cmd := op })) := regsBut_onJne u _
  generalize onJne u (fun j => { j with cmd := op }) = w at hj hsame hregs
  have hw : SegCmd s w op seq := ⟨hj, (hregs.rf_eq List.not_mem_nil _).trans hseqv, (hregs.rb_eq List.not_mem_nil _).trans hbusy,
    hr.and hregs (fun _ hx => (nomatch hx)), (hp.mono (by decide) : SameBut [.regs, .jne] s u).and hsame⟩
  have hsw : w.jne.script = [] := by rw [hj]; exact hs
  have hstep : scriptStep w = some (pushOps w [.act .segCmd]) := by
    have hdw : dryRuns w = true := by
      rw [dryRuns, hw.regs.pdOn_eq 44 (by decide), hw.parts .running (by decide), jneState_eq hw.regs (by decide), hw.parts .sem (by decide), hj]
      exact hdry
    rw [scriptStep, hsw]
    dsimp only
    have hcmd : w.jne.cmd = op := by rw [hj]
    rw [hdw, hcmd]
    exact if_pos (by rcases hop with rfl | rfl <;> decide)
  have hnone (t : State) (ht : t.jne.infoq = w.jne.infoq) : infoStep t = none := infoStep_none (by rw [ht, hj]; exact hi)
  have hbw : w.jne.bursts = [] := by rw [hj]; exact hb
  refine ⟨onJne (pushOps w [.act .segCmd]) (fun j => { j with script := [] }), ⟨?_, hw.num, hw.busy, hw.regs, hw.parts.and ((onJne_sameBut w _).and (onJne_sameBut _ _)  : SameBut [.jne] w _)⟩, ?_⟩
  · show ({ w.jne with script := [] } : Jne) = _
    rw [hj, ← hs]
  · rw [jneRun_step ((jneStep_script hbw (hnone w rfl)).trans hstep)]
    have hpush : (pushOps w [.act .segCmd]).jne.script = .act .segCmd :: [] := by
      show [JOp.act .segCmd] ++ w.jne.script = _
      rw [hsw]
      rfl
    rw [jneRun_step ((jneStep_script (s := pushOps w [.act .segCmd]) hbw (hnone (pushOps w [.act .segCmd]) rfl)).trans (scriptStep_act hpush))]
    rfl

end Seg

/-- A segment command ends with its status. -/
def segFin (t : State) (st : Nat) : State := onJne (wb (wf t jneSegcmd jneSegcmdSTATUS st) jneSegcmd jneSegcmdBUSY false) (fun j => { j with cmd := 0 })

/-- The segment is pinned. -/
def isPinned (s : State) (seq : Nat) : Bool := s.jne.sb.pinned.any (fun p => p.2.2 == seq)

/-- What segment commands see of the journal is as it was. -/
structure SameSegs (s v : State) : Prop where
  sb : v.jne.sb = s.jne.sb
  dir : v.jne.dir = s.jne.dir
  regs : RegsBut [jneSegcmd] s v

theorem SegCmd.segs {s v : State} {op seq : Nat} (h : SegCmd s v op seq) : SameSegs s v := ⟨by rw [h.jne], by rw [h.jne], h.regs⟩

section Congr

variable {s v : State} (h : SameSegs s v)
include h

theorem SameSegs.unit : sbUnit v = sbUnit s := by
  funext m
  have hcap : rf v (jneMwear m) jneMwearCAP = rf s (jneMwear m) jneMwearCAP :=
    h.regs.rf_eq (by simp only [List.mem_singleton, jneMwear, jneSegcmd]; omega) _
  rw [sbUnit, h.sb, hcap, sbUnit]

theorem SameSegs.place (seq : Nat) : segPlace v seq = segPlace s seq := by
  rw [segPlace, h.sb, h.dir, h.unit, segPlace]

theorem SameSegs.unknown : unknownSlot v = unknownSlot s := by
  have hon : mqOn v = mqOn s := funext fun m => h.regs.rb_eq (by simp only [List.mem_singleton, jneMqcfg, jneSegcmd]; omega) _
  have hdir : dirAt v = dirAt s := by
    funext m slot
    rw [dirAt, h.dir, dirAt]
  rw [unknownSlot, hon, h.unit, hdir, unknownSlot]

theorem SameSegs.pinned (seq : Nat) : isPinned v seq = isPinned s seq := by rw [isPinned, h.sb, isPinned]

theorem SameSegs.next_pin (seq : Nat) : nextSb v (.pin seq) = nextSb s (.pin seq) := by
  simp only [nextSb, h.sb, h.unit, h.place]

theorem SameSegs.next_unpin (seq : Nat) : nextSb v (.unpin seq) = nextSb s (.unpin seq) := by
  simp only [nextSb, h.sb, h.unit]

end Congr

/-- What a segment command does once it is its turn. -/
theorem segCmdStep_pin {v : State} {seq : Nat} (hc : v.jne.cmd = 1) (hn : rf v jneSegcmd jneSegcmdSEQ = seq) : segCmdStep v =
    if isPinned v seq then segFin v 0
    else if (segPlace v seq).isNone then (if (unknownSlot v).isSome then pushOps v [.act .dirFill, .act .segCmd] else segFin v 1)
    else if 32 ≤ v.jne.sb.pinned.length then segFin v 2
    else pushOps v [.act (.publish (.pin seq))] := by
  rw [segCmdStep]
  dsimp only
  rw [if_pos hc, hn]
  rfl

theorem segCmdStep_unpin {v : State} {seq : Nat} (hc : v.jne.cmd = 2) (hn : rf v jneSegcmd jneSegcmdSEQ = seq) : segCmdStep v =
    if isPinned v seq then pushOps v [.act (.publish (.unpin seq))] else segFin v 1 := by
  rw [segCmdStep]
  dsimp only
  rw [if_neg (by rw [hc]; decide), hn]
  rfl

/-- A segment command that ends at once. -/
def SegDone (s : State) (st seq : Nat) (t : State) : Prop := t.resp = ⟨0, 0⟩ ∧ rb t jneSegcmd jneSegcmdBUSY = false ∧
  rf t jneSegcmd jneSegcmdSTATUS = st ∧ rf t jneSegcmd jneSegcmdSEQ = seq ∧ t.jne.sb = s.jne.sb ∧ RegsBut [jneSegcmd] s t ∧
  SameBut [.regs, .jne, .resp] s t

/-- A segment command that has a superblock published. -/
def SegPublishes (s : State) (p : JPub) (t : State) : Prop := t.resp = ⟨0, 0⟩ ∧ t.jne.cmd ≠ 0 ∧ rb t jneSegcmd jneSegcmdBUSY = true ∧
  t.jne.nsb = nextSb s p ∧ t.jne.bursts ≠ [] ∧ RegsBut [jneSegcmd] s t ∧ SameBut [.regs, .jne, .ports, .resp] s t

theorem segFin_done {s v : State} {op seq st : Nat} (h : SegCmd s v op seq) (hst : st < 4) (hs : s.jne.script = []) (hi : s.jne.infoq = []) :
    SegDone s st seq (respond (jneRun 62 (onJne (segFin v st) (fun j => { j with buf := [] }))) 0) := by
  have hbusy : rb (wb (wf v jneSegcmd jneSegcmdSTATUS st) jneSegcmd jneSegcmdBUSY false) jneSegcmd jneSegcmdBUSY = false := rb_wb_same _ _ _ false rfl
  have hstat : rf (wb (wf v jneSegcmd jneSegcmdSTATUS st) jneSegcmd jneSegcmdBUSY false) jneSegcmd jneSegcmdSTATUS = st :=
    (rf_wb_apart _ _ false rfl rfl (by decide)).trans ((rf_wf_same v _ _ _ rfl).trans (Nat.mod_eq_of_lt hst))
  have hnum : rf (wb (wf v jneSegcmd jneSegcmdSTATUS st) jneSegcmd jneSegcmdBUSY false) jneSegcmd jneSegcmdSEQ = seq :=
    (rf_wb_apart _ _ false rfl rfl (by decide)).trans ((rf_wf_apart v _ _ _ _ rfl rfl (by decide)).trans h.num)
  have hr : RegsBut [jneSegcmd] v (wb (wf v jneSegcmd jneSegcmdSTATUS st) jneSegcmd jneSegcmdBUSY false) := (regsBut_wf v _ _ _).and (regsBut_wb _ _ _ _)
  have hp : SameBut [.regs] v (wb (wf v jneSegcmd jneSegcmdSTATUS st) jneSegcmd jneSegcmdBUSY false) := (wf_sameBut v _ _ _).and (wb_sameBut _ _ _ _)
  unfold segFin
  generalize wb (wf v jneSegcmd jneSegcmdSTATUS st) jneSegcmd jneSegcmdBUSY false = u at hbusy hstat hnum hr hp
  have hju : u.jne = { s.jne with cmd := op } := (hp .jne (by decide)).trans h.jne
  have hjw : (onJne (onJne u (fun j => { j with cmd := 0 })) (fun j => { j with buf := [] })).jne = { s.jne with cmd := 0, buf := [] } := by
    refine Eq.trans (b := { u.jne with cmd := 0, buf := [] }) rfl ?_
    rw [hju]
  have hrw : RegsBut [] u (onJne (onJne u (fun j => { j with cmd := 0 })) (fun j => { j with buf := [] })) := fun _ _ => rfl
  have hpw : SameBut [.jne] u (onJne (onJne u (fun j => { j with cmd := 0 })) (fun j => { j with buf := [] })) := (onJne_sameBut u _).and (onJne_sameBut _ _)
  generalize onJne (onJne u (fun j => { j with cmd := 0 })) (fun j => { j with buf := [] }) = w at hjw hrw hpw
  rw [jneRun_done (jneStep_idle (by rw [hjw]; exact hs) (by rw [hjw]) (by rw [hjw]; exact hi))]
  refine ⟨rfl, (hrw.rb_eq List.not_mem_nil _).trans hbusy, (hrw.rf_eq List.not_mem_nil _).trans hstat, (hrw.rf_eq List.not_mem_nil _).trans hnum, ?_,
    (h.regs.and hr).and hrw (fun _ hx => (nomatch hx)), ?_⟩
  · show w.jne.sb = _
    rw [hjw]
  · exact (((h.parts.and hp).mono (by decide) : SameBut [.regs, .jne, .resp] s u).and hpw).and (respond_sameBut _ _ _)

/-- A superblock is about to be written. -/
theorem jneAct_publish (v : State) (p : JPub) : (jneAct v (.publish p)).jne = { v.jne with
    nsb := nextSb v p, script := sbWriteOps (onJne v (fun j => { j with nsb := nextSb v p })) (nextSb v p) p ++ v.jne.script, buf := [] } := rfl

theorem sbWords_ne_nil (s : State) (b : Superblock) : sbWords s b ≠ [] := by
  rw [sbWords]
  dsimp only
  rw [sealed]
  exact List.append_ne_nil_of_right_ne_nil _ (List.cons_ne_nil _ _)

/-- A superblock is about to be written: the activity waits for its first words. -/
structure Publishing (u t : State) (b : Superblock) : Prop where
  nsb : t.jne.nsb = b
  bursts : t.jne.bursts ≠ []
  cmd : t.jne.cmd = u.jne.cmd
  regs : RegsBut [] u t
  parts : SameBut [.jne, .ports] u t

theorem jneRun_publish {u : State} {p : JPub} {b : Superblock} (hs : u.jne.script = [.act (.publish p)]) (hb : u.jne.bursts = []) (hi : u.jne.infoq = [])
    (hn : ∀ w, w.jne.sb = u.jne.sb → w.jne.dir = u.jne.dir → RegsBut [] u w → nextSb w p = b) (f : Nat) : Publishing u (jneRun (f + 2) u) b := by
  rw [jneRun_step ((jneStep_script hb (infoStep_none hi)).trans (scriptStep_act hs))]
  have hjz : (onJne u (fun j => { j with script := [] })).jne = { u.jne with script := [] } := rfl
  have hrz := regsBut_onJne u (fun j => { j with script := [] })
  have hpz := onJne_sameBut u (fun j => { j with script := [] })
  generalize onJne u (fun j => { j with script := [] }) = z at hjz hrz hpz
  have hjw : (jneAct z (.publish p)).jne = { u.jne with
      buf := [], nsb := b, script := sbWriteOps (onJne z (fun j => { j with nsb := b })) b p } := by
    have hz0 : z.jne.script = [] := by rw [hjz]
    rw [jneAct_publish, hn z (by rw [hjz]) (by rw [hjz]) hrz, hz0, List.append_nil, hjz]
  have hrw : RegsBut [] u (jneAct z (.publish p)) := hrz.and (fun _ _ => rfl : RegsBut [] z _) (fun _ hx => hx)
  have hpw : SameBut [.jne] u (jneAct z (.publish p)) := hpz.and (((onJne_sameBut z _).and (onJne_sameBut _ _)).and (onJne_sameBut _ _))
  generalize onJne z (fun j => { j with nsb := b }) = x at hjw
  generalize jneAct z (.publish p) = w at hjw hrw hpw
  have hsw : w.jne.script = .wr (persBase + 0x8000 * (b.gen % 2)) (sbWords x b) :: [.act (.published p)] := by rw [hjw]; rfl
  obtain ⟨bs, hne, ho⟩ := jneRun_wr hsw (sbWords_ne_nil x _) (by rw [hjw]; exact hb) (infoStep_none (by rw [hjw]; exact hi)) f
  generalize jneRun (f + 1) w = y at ho
  have hjy := ho.jne
  refine ⟨?_, ?_, ?_, hrw.and ho.regs (fun _ hx => hx),
    (hpw.mono (by decide) : SameBut [.jne, .ports] u w).and (((onJne_sameBut w _).mono (by decide) : SameBut [.jne, .ports] w _).and ho.parts)⟩
  · rw [congrArg Jne.nsb hjy]
    show w.jne.nsb = b
    rw [hjw]
  · rw [congrArg Jne.bursts hjy]
    exact List.append_ne_nil_of_right_ne_nil _ hne
  · rw [congrArg Jne.cmd hjy]
    show w.jne.cmd = u.jne.cmd
    rw [hjw]

theorem segPublish_begins {s v : State} {op seq : Nat} {p : JPub} (h : SegCmd s v op seq) (hop : op = 1 ∨ op = 2) (hs : s.jne.script = []) (hb : s.jne.bursts = [])
    (hi : s.jne.infoq = []) (hn : ∀ w, SameSegs s w → nextSb w p = nextSb s p) :
    SegPublishes s p (respond (jneRun 62 (onJne (pushOps v [.act (.publish p)]) (fun j => { j with buf := [] }))) 0) := by
  have hju : (onJne (pushOps v [.act (.publish p)]) (fun j => { j with buf := [] })).jne = { s.jne with cmd := op, buf := [], script := [.act (.publish p)] } := by
    show ({ v.jne with script := [JOp.act (.publish p)] ++ v.jne.script, buf := [] } : Jne) = _
    rw [h.jne, hs]
    rfl
  have hru : RegsBut [jneSegcmd] s (onJne (pushOps v [.act (.publish p)]) (fun j => { j with buf := [] })) := h.regs
  have hbu : rb (onJne (pushOps v [.act (.publish p)]) (fun j => { j with buf := [] })) jneSegcmd jneSegcmdBUSY = true := h.busy
  have hpu := h.parts.and ((onJne_sameBut v (fun j => { j with script := [.act (.publish p)] ++ j.script })).and (onJne_sameBut _ (fun j => { j with buf := [] })))
  rw [← pushOps] at hpu
  generalize onJne (pushOps v [.act (.publish p)]) (fun j => { j with buf := [] }) = u at hju hru hbu hpu
  obtain ⟨h1, h2, h3, h4, h5⟩ := jneRun_publish (u := u) (p := p) (b := nextSb s p) (by rw [hju]) (by rw [hju]; exact hb) (by rw [hju]; exact hi)
    (fun w hw hd hr => hn w ⟨hw.trans (by rw [hju]), hd.trans (by rw [hju]), hru.and hr (fun _ hx => (nomatch hx))⟩) 60
  generalize jneRun (60 + 2) u = y at h1 h2 h3 h4 h5
  refine ⟨rfl, ?_, (h4.rb_eq List.not_mem_nil _).trans hbu, h1, h2, hru.and h4 (fun _ hx => (nomatch hx)),
    ((hpu.mono (by decide) : SameBut [.regs, .jne, .ports, .resp] s u).and h5).and (respond_sameBut _ _ _)⟩
  show y.jne.cmd ≠ 0
  rw [h3, hju]
  show op ≠ 0
  omega

section SegResults

variable {s : State} {q : Req} {seq : BitVec 36} (hon : pdOn s 44 = true) (hq : holdsType s q 7 = true) (hbusy : rb s jneSegcmd jneSegcmdBUSY = false)
  (hst : jneState s = 3) (hdry : dryRuns s = true) (hs : s.jne.script = []) (hb : s.jne.bursts = []) (hi : s.jne.infoq = [])
include hon hq hbusy hst hdry hs hb hi

/-- A pin is carried out in the state that its number is written in. -/
theorem segPin_exec : ∃ v, SegCmd s v 1 seq.toNat ∧
    exec (.segPin q seq) s = .next (respond (jneRun 62 (onJne (segCmdStep v) (fun j => { j with buf := [] }))) 0) := by
  obtain ⟨v, hv, hrun⟩ := segAsked_runs (.inl rfl) seq.isLt hdry hs hb hi
  refine ⟨v, hv, ?_⟩
  show execSegPin q seq s = _
  rw [execSegPin, if_pos hon, show 2 ^ 46 + seq.toNat = 1 * 2 ^ 46 + seq.toNat by omega, segcmdWrite_eq (.inl rfl) seq.isLt hq hbusy hst, hrun]
  rfl

theorem segUnpin_exec : ∃ v, SegCmd s v 2 seq.toNat ∧
    exec (.segUnpin q seq) s = .next (respond (jneRun 62 (onJne (segCmdStep v) (fun j => { j with buf := [] }))) 0) := by
  obtain ⟨v, hv, hrun⟩ := segAsked_runs (.inr rfl) seq.isLt hdry hs hb hi
  refine ⟨v, hv, ?_⟩
  show execSegUnpin q seq s = _
  rw [execSegUnpin, if_pos hon, segcmdWrite_eq (.inr rfl) seq.isLt hq hbusy hst, hrun]
  rfl

theorem segPin_result : (isPinned s seq.toNat = true → Runs (.segPin q seq) s (SegDone s 0 seq.toNat)) ∧
    (isPinned s seq.toNat = false → (segPlace s seq.toNat).isSome = false → unknownSlot s = none → Runs (.segPin q seq) s (SegDone s 1 seq.toNat)) ∧
    (isPinned s seq.toNat = false → (segPlace s seq.toNat).isSome = true → 32 ≤ s.jne.sb.pinned.length → Runs (.segPin q seq) s (SegDone s 2 seq.toNat)) ∧
    (isPinned s seq.toNat = false → (segPlace s seq.toNat).isSome = true → s.jne.sb.pinned.length < 32 →
      Runs (.segPin q seq) s (SegPublishes s (.pin seq.toNat))) := by
  obtain ⟨v, hv, hex⟩ := segPin_exec (q := q) (seq := seq) hon hq hbusy hst hdry hs hb hi
  have hstep := segCmdStep_pin (v := v) (by rw [hv.jne]) hv.num
  rw [hv.segs.pinned, hv.segs.place, hv.segs.unknown, hv.segs.sb] at hstep
  refine ⟨fun hp => ⟨_, hex, ?_⟩, fun hp hl hu => ⟨_, hex, ?_⟩, fun hp hl hn => ⟨_, hex, ?_⟩, fun hp hl hn => ⟨_, hex, ?_⟩⟩
  · rw [hstep, if_pos hp]
    exact segFin_done hv (by decide) hs hi
  · rw [hstep, if_neg (by simp [hp]), if_pos (by rw [Option.isSome_eq_false_iff] at hl; exact hl), if_neg (by simp [hu])]
    exact segFin_done hv (by decide) hs hi
  · rw [hstep, if_neg (by simp [hp]), if_neg (by simpa using Option.isSome_iff_ne_none.1 hl), if_pos hn]
    exact segFin_done hv (by decide) hs hi
  · rw [hstep, if_neg (by simp [hp]), if_neg (by simpa using Option.isSome_iff_ne_none.1 hl), if_neg (Nat.not_le.2 hn)]
    exact segPublish_begins hv (.inl rfl) hs hb hi (fun w hw => hw.next_pin _)

theorem segUnpin_result : (isPinned s seq.toNat = false → Runs (.segUnpin q seq) s (SegDone s 1 seq.toNat)) ∧
    (isPinned s seq.toNat = true → Runs (.segUnpin q seq) s (SegPublishes s (.unpin seq.toNat))) := by
  obtain ⟨v, hv, hex⟩ := segUnpin_exec (q := q) (seq := seq) hon hq hbusy hst hdry hs hb hi
  have hstep := segCmdStep_unpin (v := v) (by rw [hv.jne]) hv.num
  rw [hv.segs.pinned] at hstep
  refine ⟨fun hp => ⟨_, hex, ?_⟩, fun hp => ⟨_, hex, ?_⟩⟩
  · rw [hstep, if_neg (by simp [hp])]
    exact segFin_done hv (by decide) hs hi
  · rw [hstep, if_pos hp]
    exact segPublish_begins hv (.inr rfl) hs hb hi (fun w hw => hw.next_unpin _)

end SegResults

/-! A batch of drydown (R361, R365). -/

theorem padWords_ne_nil (n : Nat) : padWords n ≠ [] := by
  have hpad (k : Nat) : padRecord k ≠ [] := by
    rw [padRecord, recordWords, sealed]
    exact List.append_ne_nil_of_right_ne_nil _ (List.cons_ne_nil _ _)
  rw [padWords]
  split
  · exact hpad n
  · exact List.append_ne_nil_of_right_ne_nil _ (hpad _)

theorem padded_ne_nil {l : List Word} (h : l ≠ []) : padded l ≠ [] := by
  rw [padded]
  split
  · exact h
  · exact List.append_ne_nil_of_left_ne_nil h _

theorem pagesOf_ne_nil (seq f p : Nat) {l : List Word} (h : l ≠ []) : (pagesOf seq (f + 1) p l).flatten ≠ [] ∧ (pagesOf seq (f + 1) p l).isEmpty = false := by
  have h0 : l.isEmpty = false := by simpa using h
  rw [pagesOf, h0, if_neg Bool.false_ne_true]
  exact ⟨List.append_ne_nil_of_left_ne_nil (List.cons_ne_nil _ _) _, rfl⟩

/-- Part of a batch: what is written of it into a segment with room for some pages. -/
def batchWords (recs : List (List Word)) (room : Nat) : List Word :=
  if pagesFor (totalWords recs) ≤ room then padded recs.flatten
  else if 511 * room = (fillTo (511 * room) recs).1.flatten.length then (fillTo (511 * room) recs).1.flatten
  else (fillTo (511 * room) recs).1.flatten ++ padWords (511 * room - (fillTo (511 * room) recs).1.flatten.length)

theorem batchWords_ne_nil {recs : List (List Word)} {room : Nat} (h : recs.flatten ≠ []) (hr : 0 < room) : batchWords recs room ≠ [] := by
  rw [batchWords]
  split
  · exact padded_ne_nil h
  · split
    · next heq =>
      intro hnil
      rw [hnil, List.length_nil] at heq
      omega
    · exact List.append_ne_nil_of_right_ne_nil _ (padWords_ne_nil _)

/-- A step of the activity that changes only the journal's own state. -/
structure JneStep (s t : State) (j : Jne) : Prop where
  jne : t.jne = j
  regs : RegsBut [] s t
  parts : SameBut [.jne] s t

theorem onJne_step (s : State) (f : Jne → Jne) : JneStep s (onJne s f) (f s.jne) := ⟨rfl, regsBut_onJne s f, onJne_sameBut s f⟩

theorem JneStep.trans {s t u : State} {j k : Jne} (h : JneStep s t j) (g : JneStep t u k) : JneStep s u k :=
  ⟨g.jne, h.regs.and g.regs (fun _ hx => hx), h.parts.and g.parts⟩

theorem JneStep.of_eq {s t : State} {j k : Jne} (h : JneStep s t j) (he : j = k) : JneStep s t k := he ▸ h

/-- An act of the running activity. -/
theorem jneRun_act {u : State} {a : JAct} {r : List JOp} (hs : u.jne.script = .act a :: r) (hb : u.jne.bursts = []) (hi : u.jne.infoq = []) (f : Nat) :
    jneRun (f + 1) u = jneRun f (jneAct (onJne u (fun j => { j with script := r })) a) :=
  jneRun_step ((jneStep_script hb (infoStep_none hi)).trans (scriptStep_act hs)) f

/-- An act leaves no words read. -/
def bufEmptied (t : State) : State := onJne t (fun j => { j with buf := [] })

theorem jneAct_place_eq (z : State) : jneAct z .place = bufEmptied (placeStep z) := rfl

theorem jneAct_batch_eq (z : State) : jneAct z .batch = bufEmptied (batchBegin z) := rfl

theorem jneAct_batchPart_eq (z : State) : jneAct z .batchPart = bufEmptied (batchPartStep z) := rfl

theorem jneAct_place {z : State} (h : rb z jnePlccfg jnePlccfgFREEZE = true) : JneStep z (jneAct z .place) { z.jne with readmit := [], buf := [] } := by
  have he : jneAct z .place = bufEmptied (onJne z (fun j => { j with readmit := [] })) := by
    rw [jneAct_place_eq, placeStep]
    exact congrArg bufEmptied (if_pos h)
  rw [he]
  exact (onJne_step z _).trans (onJne_step _ _)

/-- The batch that is due. -/
def batchOf (s : State) : List Commit := takeBatch (batchPg s) 0 (dryable s)

theorem jneAct_batch {z : State} {c : Commit} {o : SegOpen} (hc : (batchOf z).getLast? = some c) (ho : nextLog z = some o) :
    JneStep z (jneAct z .batch) { z.jne with
      bLast := c.csn, bRecs := ((batchOf z).map (fun d => d.words)).flatten, bSeg := o.o, bPages := 0, bNext := o.o + 1,
      script := .act .batchPart :: z.jne.script, buf := [] } := by
  have he : jneAct z .batch = bufEmptied (pushOps (onJne z (fun j => { j with
      bLast := c.csn, bRecs := ((batchOf z).map (fun d => d.words)).flatten, bSeg := o.o, bPages := 0, bNext := o.o + 1 })) [.act .batchPart]) := by
    rw [jneAct_batch_eq, batchBegin]
    rw [← batchOf, hc, ho]
  rw [he]
  exact ((onJne_step z _).trans (onJne_step _ _)).trans (onJne_step _ _)

theorem jneAct_batchPart {z : State} {o : SegOpen} (ho : openAt z.jne.sb z.jne.bSeg = some o) (hcur : o.cur < 4096) (hr : z.jne.bRecs.flatten ≠ []) :
    ∃ recs n ws r, ws ≠ [] ∧ JneStep z (jneAct z .batchPart) { z.jne with
      bRecs := recs, bPages := n, script := .wr (dryWrite z) ws :: r, buf := [] } := by
  obtain ⟨hfl, hne⟩ := pagesOf_ne_nil o.seq 4096 o.cur (batchWords_ne_nil hr (room := 4096 - o.cur) (by omega))
  refine ⟨if pagesFor (totalWords z.jne.bRecs) ≤ 4096 - o.cur then [] else (fillTo (511 * (4096 - o.cur)) z.jne.bRecs).2,
    (pagesOf o.seq 4097 o.cur (batchWords z.jne.bRecs (4096 - o.cur))).length, (pagesOf o.seq 4097 o.cur (batchWords z.jne.bRecs (4096 - o.cur))).flatten,
    .sub o.unit 2 (4096 * o.slot + o.cur) (pagesOf o.seq 4097 o.cur (batchWords z.jne.bRecs (4096 - o.cur))).length (dryWrite z) ::
      .act (.batchWrote (decide (pagesFor (totalWords z.jne.bRecs) ≤ 4096 - o.cur))) :: z.jne.script, hfl, ?_⟩
  have he : jneAct z .batchPart = bufEmptied (pushOps (onJne z (fun j => { j with
      bRecs := if pagesFor (totalWords z.jne.bRecs) ≤ 4096 - o.cur then [] else (fillTo (511 * (4096 - o.cur)) z.jne.bRecs).2,
      bPages := (pagesOf o.seq 4097 o.cur (batchWords z.jne.bRecs (4096 - o.cur))).length }))
      [.wr (dryWrite z) (pagesOf o.seq 4097 o.cur (batchWords z.jne.bRecs (4096 - o.cur))).flatten,
        .sub o.unit 2 (4096 * o.slot + o.cur) (pagesOf o.seq 4097 o.cur (batchWords z.jne.bRecs (4096 - o.cur))).length (dryWrite z),
        .act (.batchWrote (decide (pagesFor (totalWords z.jne.bRecs) ≤ 4096 - o.cur)))]) := by
    rw [jneAct_batchPart_eq, batchPartStep, ho]
    exact congrArg bufEmptied (if_neg (fun h => Bool.false_ne_true (hne.symm.trans h)))
  rw [he]
  exact ((onJne_step z _).trans (onJne_step _ _)).trans (onJne_step _ _)

theorem pushed_step {s t : State} {j : Jne} (h : JneStep s t j) (hj : j.script = []) (l : List JOp) : JneStep s (pushOps t l) { j with script := l } := by
  refine (h.trans (onJne_step t _)).of_eq ?_
  rw [h.jne, hj, List.append_nil]

/-- What the choice of a batch depends on. -/
theorem batchOf_congr {s z : State} (hr : RegsBut [] s z) (hl : z.jne.log = s.jne.log) (hk : z.jne.keep = s.jne.keep) : batchOf z = batchOf s := by
  have hrf (a : Nat) (f : Fld) : rf z a f = rf s a f := hr.rf_eq List.not_mem_nil f
  have hpg : batchPg z = batchPg s := by rw [batchPg, hrf, batchPg]
  have hd : dryable z = dryable s := by rw [dryable, hl, hrf, hk, dryable]
  rw [batchOf, hpg, hd, batchOf]

theorem batchRecs_ne_nil {l : List Commit} {c : Commit} (hc : l.getLast? = some c) (h : l.all (fun d => d.words.flatten.length == d.size && d.size != 0) = true) :
    (l.map (fun d => d.words)).flatten.flatten ≠ [] := by
  have hmem := List.mem_of_getLast? hc
  have hw := List.all_eq_true.1 h c hmem
  rw [Bool.and_eq_true, beq_iff_eq, bne_iff_ne] at hw
  have hne : c.words.flatten ≠ [] := fun hnil => hw.2 (by rw [← hw.1, hnil, List.length_nil])
  obtain ⟨w, hwm⟩ := List.exists_mem_of_ne_nil _ hne
  obtain ⟨r, hr, hwr⟩ := List.mem_flatten.1 hwm
  exact List.ne_nil_of_mem (List.mem_flatten.2 ⟨r, List.mem_flatten.2 ⟨c.words, List.mem_map_of_mem hmem, hr⟩, hwr⟩)

theorem drydownBatch_exec {s : State} (hdry : dryRuns s = true) (hs : s.jne.script = []) (hb : s.jne.bursts = [])
    (hall : s.jne.sb.opens.all (fun z => !mqFailed s z.unit) = true) (hshort : shortOfSlots s = false) (hdue : batchDue s = true) :
    exec .drydownBatch s = .next (jneRun 64 (pushOps (onJne s (fun j => { j with bRecs := [] })) [.act .place, .act .batch])) := by
  have hfil : s.jne.sb.opens.filter (fun x => mqFailed s x.unit) = [] := by
    refine List.filter_eq_nil_iff.2 (fun x hx => ?_)
    have := List.all_eq_true.1 hall x hx
    simpa using this
  show execDrydownBatch s = _
  rw [execDrydownBatch, if_pos (by simp [hdry, hs, hb])]
  dsimp only
  rw [hfil, hshort, if_pos hdue, Bool.false_and, Bool.false_and, Bool.or_false, if_neg Bool.false_ne_true]
  rfl

theorem drydownBatch_result {s : State} {c : Commit} {o : SegOpen} (hdry : dryRuns s = true) (hs : s.jne.script = []) (hb : s.jne.bursts = [])
    (hi : s.jne.infoq = []) (hfr : rb s jnePlccfg jnePlccfgFREEZE = true) (hall : s.jne.sb.opens.all (fun z => !mqFailed s z.unit) = true)
    (hshort : shortOfSlots s = false) (hdue : batchDue s = true) (hc : (batchOf s).getLast? = some c) (hlog : nextLog s = some o)
    (ho : openAt s.jne.sb o.o = some o) (hcur : o.cur < 4096)
    (hw : (batchOf s).all (fun d => d.words.flatten.length == d.size && d.size != 0) = true) :
    Runs .drydownBatch s (fun t => t.jne.bLast = c.csn ∧ t.jne.bSeg = o.o ∧ t.jne.bNext = o.o + 1 ∧ t.jne.bursts ≠ [] ∧ t.jne.sb = s.jne.sb ∧
      RegsBut [jnePlcsts] s t ∧ SameBut [.regs, .jne, .ports] s t) := by
  refine ⟨_, drydownBatch_exec hdry hs hb hall hshort hdue, ?_⟩
  have h0 : JneStep s (pushOps (onJne s (fun j => { j with bRecs := [] })) [.act .place, .act .batch])
      { s.jne with bRecs := [], script := [.act .place, .act .batch] } :=
    pushed_step (onJne_step s (fun j => { j with bRecs := [] })) hs _
  generalize pushOps (onJne s (fun j => { j with bRecs := [] })) [.act .place, .act .batch] = u at h0
  rw [jneRun_act (a := .place) (r := [.act .batch]) (by rw [h0.jne]) (by rw [h0.jne]; exact hb) (by rw [h0.jne]; exact hi) 63]
  have h1 : JneStep s (onJne u (fun j => { j with script := [.act .batch] })) { s.jne with bRecs := [], script := [.act .batch] } :=
    (h0.trans (onJne_step u _)).of_eq (by rw [h0.jne])
  generalize onJne u (fun j => { j with script := [.act .batch] }) = z1 at h1
  have h2 : JneStep s (jneAct z1 .place) { s.jne with bRecs := [], script := [.act .batch], readmit := [], buf := [] } :=
    (h1.trans (jneAct_place ((h1.regs.rb_eq List.not_mem_nil _).trans hfr))).of_eq (by rw [h1.jne])
  generalize jneAct z1 .place = v1 at h2
  rw [jneRun_act (a := .batch) (r := []) (by rw [h2.jne]) (by rw [h2.jne]; exact hb) (by rw [h2.jne]; exact hi) 62]
  have h3 : JneStep s (onJne v1 (fun j => { j with script := [] })) { s.jne with bRecs := [], script := [], readmit := [], buf := [] } :=
    (h2.trans (onJne_step v1 _)).of_eq (by rw [h2.jne])
  generalize onJne v1 (fun j => { j with script := [] }) = z2 at h3
  have hbat : batchOf z2 = batchOf s := batchOf_congr h3.regs (by rw [h3.jne]) (by rw [h3.jne])
  have hnl : nextLog z2 = nextLog s := by rw [nextLog, h3.jne, nextLog]
  have h4 : JneStep s (jneAct z2 .batch) { s.jne with
      bLast := c.csn, bRecs := ((batchOf s).map (fun d => d.words)).flatten, bSeg := o.o, bPages := 0, bNext := o.o + 1,
      script := [.act .batchPart], readmit := [], buf := [] } :=
    (h3.trans (jneAct_batch (by rw [hbat]; exact hc) (hnl.trans hlog))).of_eq (by rw [h3.jne, hbat])
  generalize jneAct z2 .batch = v2 at h4
  rw [jneRun_act (a := .batchPart) (r := []) (by rw [h4.jne]) (by rw [h4.jne]; exact hb) (by rw [h4.jne]; exact hi) 61]
  have h5 : JneStep s (onJne v2 (fun j => { j with script := [] })) { s.jne with
      bLast := c.csn, bRecs := ((batchOf s).map (fun d => d.words)).flatten, bSeg := o.o, bPages := 0, bNext := o.o + 1, script := [], readmit := [], buf := [] } :=
    (h4.trans (onJne_step v2 _)).of_eq (by rw [h4.jne])
  generalize onJne v2 (fun j => { j with script := [] }) = z3 at h5
  obtain ⟨recs, n, ws, r, hne, h6⟩ := jneAct_batchPart (z := z3) (o := o) (by rw [h5.jne]; exact ho) hcur (by rw [h5.jne]; exact batchRecs_ne_nil hc hw)
  generalize jneAct z3 .batchPart = v3 at h6
  rw [h5.jne] at h6
  have h7 := h5.trans h6
  obtain ⟨bs, hbs, hown⟩ := jneRun_wr (s := v3) (a := dryWrite z3) (r := r) (by rw [h7.jne]) hne (by rw [h7.jne]; exact hb)
    (infoStep_none (by rw [h7.jne]; exact hi)) 60
  have h8 : JneStep s (onJne v3 (fun j => { j with script := writesRest (dryWrite z3) ws r })) { s.jne with
      bLast := c.csn, bRecs := recs, bSeg := o.o, bPages := n, bNext := o.o + 1, script := writesRest (dryWrite z3) ws r, readmit := [], buf := [] } :=
    (h7.trans (onJne_step v3 _)).of_eq (by rw [h7.jne])
  generalize onJne v3 (fun j => { j with script := writesRest (dryWrite z3) ws r }) = x at h8 hown
  generalize jneRun (60 + 1) v3 = y at hown
  have hjy := hown.jne
  rw [h8.jne] at hjy
  refine ⟨?_, ?_, ?_, ?_, ?_, (h8.regs.and hown.regs (fun _ hx => hx)).mono (fun _ hx => (nomatch hx)),
    (h8.parts.mono (by decide) : SameBut [.regs, .jne, .ports] s x).and hown.parts⟩
  · rw [hjy]
  · rw [hjy]
  · rw [hjy]
  · rw [hjy]
    exact List.append_ne_nil_of_right_ne_nil _ hbs
  · rw [hjy]

/-- Settles O44, clause by clause: what a burst's answer, a queue's poll and completion, a batch of drydown and a segment command leave. -/
theorem storageQueues : Obligations.StorageQueues := by
  unfold Obligations.StorageQueues
  intro s q m x b y c o seq
  refine ⟨fun hd hb hu hid => ?_, fun ho hb hu hat ha ht hid => headTimeout_again ho hb hu hat ha ht hid.1 hid.2.1 hid.2.2, mqheadWrite_result, mqPoll_result,
    fun hd hc hid => ?_, fun hon he => ⟨merrReadmit_quiet hon he, fun _ => merrReadmit_frame hon he⟩,
    fun hon hrun hruns hp hdue hid hb hfind hf hr => infoPoll_result hon hrun hruns hp hdue hid.1 hid.2.2 hb hfind hf hr,
    fun hdry hs hb hi hfr hall hsh hdue hc hl ho hcur hw => drydownBatch_result hdry hs hb hi hfr hall hsh hdue hc hl ho hcur hw,
    fun hon hq hbusy hst hdry hs hb hi => ?_⟩
  · have ha : Answered s x b := ⟨hd, hb, hu, hid.1, hid.2.1, hid.2.2⟩
    exact ⟨fun hc hw hcsn hcl => headBurst_persisted ha hc hw hcsn hcl, fun hc hw => headBurst_read ha hc hw, fun hc hp ht => headBurst_again ha hc hp ht,
      fun hc hp ht hl hr => headBurst_givenUp ha hc hp ht hl hr⟩
  · have hp : Polled s m x := ⟨hd, hc, hid.1, hid.2.1, hid.2.2⟩
    exact ⟨mqCompletion_asksAgain hp, mqCompletion_none hp, mqCompletion_taken hp⟩
  · obtain ⟨h1, h2, h3, h4⟩ := segPin_result (q := q) (seq := seq) hon hq hbusy hst hdry hs hb hi
    obtain ⟨h5, h6⟩ := segUnpin_result (q := q) (seq := seq) hon hq hbusy hst hdry hs hb hi
    exact ⟨h1, h2, h3, h4, h5, h6⟩

end Sys2Proof.Machine

/-! Mirrored commits, resynchronisation and copies at the standby (R344, R352, R353, R439 to R441, R444). -/

namespace Sys2Proof.Machine

set_option Elab.async false

/-! Frames that are heard. -/

theorem onMlk_sameBut (s : State) (f : Mlk → Mlk) : SameBut [.mlk] s (onMlk s f) := mlk_sameBut s _

theorem regsBut_onMlk (s : State) (f : Mlk → Mlk) : RegsBut [] s (onMlk s f) := fun _ _ => rfl

/-- A good frame of its type arrives at a link that is exchanged with its partner. -/
structure Arrives (s : State) (type : Nat) (ws : List Word) : Prop where
  hears : mlkHears s = true
  good : frameOk s ws = true
  type : frType.get (ws.headD 0) = type

theorem mlkRecv_arrives {s : State} {type : Nat} {ws : List Word} (h : Arrives s type ws) (hc : type = 1 ∨ mlkCompat s = true) (f : State → List Word → State) :
    mlkRecv s type ws f = f s (frameBody ws) := by
  rw [mlkRecv, if_neg (by simp [h.hears]), if_neg (by simp [h.good]), if_neg]
  simp only [h.type, ne_eq, not_true_eq_false, decide_false, Bool.false_or, Bool.and_eq_true, decide_eq_true_eq, Bool.not_eq_true', not_and, Bool.not_eq_false]
  exact fun h1 => hc.resolve_left h1

theorem mlkRecv_standby {s : State} {type : Nat} {ws : List Word} (h : Arrives s type ws) (hc : mlkCompat s = true) (hr : roleOf s ≠ 5)
    (f : State → List Word → State) : mlkRecv s type ws (onStandby f) = f s (frameBody ws) := by
  rw [mlkRecv_arrives h (.inr hc), onStandby, if_neg hr]

/-- RSREQ is raised. -/
def rsAsked (s : State) : State := onMlk s (fun m => { m with rsreq := true })

theorem rsAsked_asks (s : State) : (rsAsked s).mlk = { s.mlk with rsreq := true } ∧ SameBut [.mlk] s (rsAsked s) := ⟨rfl, onMlk_sameBut s _⟩

section Frames

variable {s : State} {ws : List Word}

/-! Commits (R352, R439). -/

theorem commit_taken (h : Arrives s 3 ws) (hc : mlkCompat s = true) (hr : roleOf s ≠ 5)
    (hn : recCsn (frameBody ws) = rf s jneNextcsn jneNextcsnCSN + s.jne.mirq.length) (hon : pdOn s 44 = true) (hst : jneState s = 3)
    (hcl : s.jne.closing = false) (hok : (splitRecords (frameBody ws).length (frameBody ws)).all recordOk = true) :
    Runs (.commit ws) s (fun t => t.jne = { s.jne with mirq := s.jne.mirq ++ [splitRecords (frameBody ws).length (frameBody ws)] } ∧
      t.mlk = { s.mlk with rsreq := s.mlk.rsreq && s.mlk.rs } ∧ SameBut [.jne, .mlk] s t) := by
  refine ⟨onMlk (onJne s (fun j => { j with mirq := j.mirq ++ [splitRecords (frameBody ws).length (frameBody ws)] })) (fun m => { m with rsreq := m.rsreq && m.rs }),
    ?_, rfl, rfl, ((onJne_sameBut s _).mono (by decide) : SameBut [.jne, .mlk] s _).and (onMlk_sameBut _ _)⟩
  show ok (mlkRecv s 3 ws (onStandby commitTake)) = _
  rw [mlkRecv_standby h hc hr, commitTake, if_pos (by simp only [hn, hon, hst, hcl, hok]; rfl)]
  rfl

theorem commit_asks (h : Arrives s 3 ws) (hc : mlkCompat s = true) (hr : roleOf s ≠ 5)
    (hn : recCsn (frameBody ws) ≠ rf s jneNextcsn jneNextcsnCSN + s.jne.mirq.length ∨ s.jne.closing = true) :
    exec (.commit ws) s = .next (rsAsked s) := by
  show ok (mlkRecv s 3 ws (onStandby commitTake)) = _
  rw [mlkRecv_standby h hc hr, commitTake, if_neg]
  · rfl
  · rcases hn with hn | hn <;> simp [hn]

/-! Acknowledgments (R344, R353, R440). -/

theorem mirrorLive_off {t : State} (h : rb t mlkRole mlkRoleRESYNC = false) : mirrorLive t = t := by
  rw [mirrorLive, h, Bool.false_and, Bool.false_and, Bool.false_and]
  rfl

/-- The acknowledgment is noted. -/
def ackNoted (s : State) (n : Nat) : State :=
  onJne (onMlk s (fun m => { m with ackd := max m.ackd n, sentAt := m.sentAt.filter (fun p => n < p.1) }))
    (fun j => { j with log := j.log.map (fun c => if c.csn ≤ n then { c with mirrored := true } else c) })

/-- The record of the change to STALE names the first commit that is not acknowledged. -/
def staleFollowed (s t : State) : State := onJne t (fun j => { j with
  ownq := j.ownq.map (fun p => if staleHeld s p.1 then (p.1, [BitVec.ofNat 48 (t.mlk.ackd + 1)]) else p) })

theorem ack_exec (h : Arrives s 4 ws) (hc : mlkCompat s = true) (hr : roleOf s = 5) (hrs : rb s mlkRole mlkRoleRESYNC = false) :
    exec (.ack ws) s = .next (if s.jne.live = true ∨ (s.jne.staleAt == s.port / 4 + 1) = true then
      (if (s.jne.staleAt == s.port / 4 + 1) = true then staleFollowed s (ackNoted s ((frameBody ws).getD 0 0).toNat) else ackNoted s ((frameBody ws).getD 0 0).toNat)
      else s) := by
  show ok (mlkRecv s 4 ws ackTake) = _
  rw [mlkRecv_arrives h (.inr hc), ackTake]
  dsimp only
  rw [hrs]
  by_cases hl : s.jne.live = true ∨ (s.jne.staleAt == s.port / 4 + 1) = true
  · rw [if_pos hl, if_neg (by rcases hl with hl | hl <;> simp [hr, hl])]
    split
    · exact congrArg ok (mirrorLive_off hrs)
    · exact congrArg ok (mirrorLive_off hrs)
  · rw [if_neg hl, if_pos]
    · rfl
    · rw [not_or, Bool.not_eq_true, Bool.not_eq_true] at hl
      simp [hl]

theorem ack_noted (h : Arrives s 4 ws) (hc : mlkCompat s = true) (hr : roleOf s = 5) (hrs : rb s mlkRole mlkRoleRESYNC = false)
    (hl : s.jne.live = true ∨ (s.jne.staleAt == s.port / 4 + 1) = true) : Runs (.ack ws) s (fun t =>
      t.mlk = { s.mlk with
        ackd := max s.mlk.ackd ((frameBody ws).getD 0 0).toNat
        sentAt := s.mlk.sentAt.filter (fun p => ((frameBody ws).getD 0 0).toNat < p.1) } ∧
      t.jne = { s.jne with
        log := s.jne.log.map (fun c => if c.csn ≤ ((frameBody ws).getD 0 0).toNat then { c with mirrored := true } else c)
        ownq := s.jne.ownq.map (fun p => if (s.jne.staleAt == s.port / 4 + 1) && p.1 == 0x13 then
          (p.1, [BitVec.ofNat 48 (max s.mlk.ackd ((frameBody ws).getD 0 0).toNat + 1)]) else p) } ∧
      SameBut [.jne, .mlk] s t) := by
  refine ⟨_, ack_exec h hc hr hrs, ?_⟩
  rw [if_pos hl]
  generalize ((frameBody ws).getD 0 0).toNat = n
  have hm : (ackNoted s n).mlk = { s.mlk with ackd := max s.mlk.ackd n, sentAt := s.mlk.sentAt.filter (fun p => n < p.1) } := rfl
  have hj : (ackNoted s n).jne = { s.jne with log := s.jne.log.map (fun c => if c.csn ≤ n then { c with mirrored := true } else c) } := rfl
  have hp : SameBut [.jne, .mlk] s (ackNoted s n) := ((onMlk_sameBut s _).mono (by decide) : SameBut [.jne, .mlk] s _).and (onJne_sameBut _ _)
  generalize ackNoted s n = t at hm hj hp
  split
  · next hlate =>
    have hq : (fun p : Nat × List Word => if staleHeld s p.1 then (p.1, [BitVec.ofNat 48 (t.mlk.ackd + 1)]) else p) =
        (fun p => if (s.jne.staleAt == s.port / 4 + 1) && p.1 == 0x13 then (p.1, [BitVec.ofNat 48 (max s.mlk.ackd n + 1)]) else p) := by
      funext p
      rw [staleHeld, Bool.and_comm, hm]
    refine ⟨hm, ?_, hp.and (onJne_sameBut t _)⟩
    show ({ t.jne with ownq := t.jne.ownq.map (fun p : Nat × List Word => if staleHeld s p.1 then (p.1, [BitVec.ofNat 48 (t.mlk.ackd + 1)]) else p) } : Jne) = _
    rw [hq, hj]
  · next hlate =>
    rw [Bool.not_eq_true] at hlate
    refine ⟨hm, ?_, hp⟩
    rw [hj, hlate]
    simp only [Bool.false_and, Bool.false_eq_true, reduceIte, List.map_id']

theorem ack_late (h : Arrives s 4 ws) (hc : mlkCompat s = true) (hr : roleOf s = 5) (hrs : rb s mlkRole mlkRoleRESYNC = false)
    (hl : s.jne.live = false) (hlate : (s.jne.staleAt == s.port / 4 + 1) = false) : Runs (.ack ws) s (fun t => SameBut [] s t) := by
  refine ⟨_, ack_exec h hc hr hrs, ?_⟩
  rw [if_neg (by simp [hl, hlate])]
  exact SameBut.refl _ s

/-! The mirror becomes STALE (R353, R440). -/

theorem resyncOff_spec (s : State) : RegsBut [mlkRole] s (resyncOff s) ∧ SameBut [.regs, .mlk, .jne] s (resyncOff s) ∧
    (resyncOff s).mlk = { s.mlk with words := [] } ∧ (resyncOff s).jne = { s.jne with keep := none } := by
  have hp := wb_sameBut s mlkRole mlkRoleRESYNC false
  have hr := regsBut_wb s mlkRole mlkRoleRESYNC false
  unfold resyncOff
  generalize wb s mlkRole mlkRoleRESYNC false = u at hp hr
  refine ⟨hr, ((hp.mono (by decide) : SameBut [.regs, .mlk, .jne] s u).and (onMlk_sameBut u _)).and (onJne_sameBut _ _), ?_, ?_⟩
  · show ({ u.mlk with words := [] } : Mlk) = _
    rw [hp .mlk (by decide)]
  · show ({ u.jne with keep := none } : Jne) = _
    rw [hp .jne (by decide)]

theorem setLive_spec (s : State) (b : Bool) : RegsBut [mlkRole, jneSts] s (setLive s b) ∧ SameBut [.regs, .jne] s (setLive s b) ∧
    (setLive s b).jne = { s.jne with live := b } ∧ rb (setLive s b) mlkRole mlkRoleLIVE = b ∧ rb (setLive s b) jneSts jneStsMIRLIVE = b := by
  have hp := onJne_sameBut s (fun j => { j with live := b })
  have hr := regsBut_onJne s (fun j => { j with live := b })
  have hj : (onJne s (fun j => { j with live := b })).jne = { s.jne with live := b } := rfl
  unfold setLive
  generalize onJne s (fun j => { j with live := b }) = u at hp hr hj
  have hpx : SameBut [.regs] u (wb (wb u jneSts jneStsMIRLIVE b) mlkRole mlkRoleLIVE b) := (wb_sameBut u _ _ _).and (wb_sameBut _ _ _ _)
  refine ⟨(hr.mono (fun _ hx => (nomatch hx))).and (((regsBut_wb u jneSts _ _).mono (by simp) : RegsBut [mlkRole, jneSts] u _).and (regsBut_wb _ _ _ _)) (fun _ hx => hx),
    (hp.mono (by decide) : SameBut [.regs, .jne] s u).and hpx, (hpx .jne (by decide)).trans hj, rb_wb_same _ _ _ b rfl, ?_⟩
  rw [rb_wb_other _ _ _ _ (by decide)]
  exact rb_wb_same u _ _ b rfl

theorem mirrorStale_live (hl : s.jne.live = true) : (mirrorStale s).jne = { s.jne with
      keep := none, live := false, ownq := s.jne.ownq ++ [(0x13, [BitVec.ofNat 48 (s.mlk.ackd + 1)])], staleAt := s.port / 4 + 1 } ∧
    (mirrorStale s).mlk = { s.mlk with words := [], fwd := [] } ∧ rb (mirrorStale s) mlkRole mlkRoleLIVE = false ∧
    rb (mirrorStale s) jneSts jneStsMIRLIVE = false ∧ rb (mirrorStale s) jneSts jneStsDEGRADED = true ∧
    RegsBut [mlkRole, jneSts] s (mirrorStale s) ∧ SameBut [.regs, .jne, .mlk] s (mirrorStale s) := by
  obtain ⟨hr1, hp1, hm1, hj1⟩ := resyncOff_spec s
  unfold mirrorStale
  dsimp only
  rw [if_pos hl]
  generalize resyncOff s = u at hr1 hp1 hm1 hj1
  have hm2 : (onMlk u (fun m => { m with fwd := [] })).mlk = { s.mlk with words := [], fwd := [] } := by
    show ({ u.mlk with fwd := [] } : Mlk) = _
    rw [hm1]
  have hj2 : (onMlk u (fun m => { m with fwd := [] })).jne = { s.jne with keep := none } := hj1
  have hr2 := hr1.and (regsBut_onMlk u (fun m => { m with fwd := [] })) (fun _ hx => (nomatch hx))
  have hp2 := hp1.and (onMlk_sameBut u (fun m => { m with fwd := [] }))
  generalize onMlk u (fun m => { m with fwd := [] }) = v at hm2 hj2 hr2 hp2
  obtain ⟨hr3, hp3, hj3, hl3, hs3⟩ := setLive_spec v false
  generalize setLive v false = w at hr3 hp3 hj3 hl3 hs3
  have hr4 := regsBut_wb w jneSts jneStsDEGRADED true
  have hp4 := wb_sameBut w jneSts jneStsDEGRADED true
  have hd4 : rb (wb w jneSts jneStsDEGRADED true) jneSts jneStsDEGRADED = true := rb_wb_same w _ _ true rfl
  have hs4 : rb (wb w jneSts jneStsDEGRADED true) jneSts jneStsMIRLIVE = false := (rb_wb_apart w _ _ _ true rfl rfl (by decide)).trans hs3
  have hl4 : rb (wb w jneSts jneStsDEGRADED true) mlkRole mlkRoleLIVE = false := (rb_wb_other w _ _ _ (by decide)).trans hl3
  generalize wb w jneSts jneStsDEGRADED true = x at hr4 hp4 hd4 hs4 hl4
  have hjx : x.jne = { s.jne with keep := none, live := false } := by rw [hp4 .jne (by decide), hj3, hj2]
  have hpx : SameBut [.regs, .jne, .mlk] s x := ((hp2.mono (by decide) : SameBut [.regs, .jne, .mlk] s v).and hp3).and hp4
  refine ⟨?_, ?_, hl4, hs4, hd4, ?_, (hpx.and (onJne_sameBut x _)).and (onJne_sameBut _ _)⟩
  · show ({ x.jne with ownq := x.jne.ownq ++ [(0x13, [s.mlk.ackd + 1].map (BitVec.ofNat 48))], staleAt := s.port / 4 + 1 } : Jne) = _
    rw [hjx]
    rfl
  · show x.mlk = _
    rw [hp4 .mlk (by decide), hp3 .mlk (by decide), hm2]
  · exact ((hr2.mono (by simp) : RegsBut [mlkRole, jneSts] s v).and hr3).and hr4

theorem ackTimeout_result (hlive : mlkLive s = true) (hl : s.jne.live = true)
    (hd : s.mlk.sentAt.any (fun p => p.2 + max 1 (rf s mlkCtrl mlkCtrlACKTO) ≤ s.mlk.iseq) = true) :
    Runs .ackTimeout s (fun t => t.jne.live = false ∧ rb t mlkRole mlkRoleLIVE = false ∧ rb t jneSts jneStsMIRLIVE = false ∧
      rb t jneSts jneStsDEGRADED = true ∧ t.jne.ownq = s.jne.ownq ++ [(0x13, [BitVec.ofNat 48 (s.mlk.ackd + 1)])] ∧ t.mlk.sentAt = [] ∧ t.mlk.fwd = [] ∧
      RegsBut [mlkRole, jneSts] s t ∧ SameBut [.regs, .jne, .mlk] s t) := by
  refine ⟨onMlk (mirrorStale s) (fun m => { m with sentAt := [] }), ?_, ?_⟩
  · show execAckTimeout s = _
    rw [execAckTimeout, onlyIf, if_pos (by rw [hlive, hd]; rfl)]
  obtain ⟨h1, h2, h3, h4, h5, h6, h7⟩ := mirrorStale_live hl
  generalize mirrorStale s = t at h1 h2 h3 h4 h5 h6 h7
  refine ⟨?_, h3, h4, h5, ?_, rfl, ?_, h6.and (regsBut_onMlk t _) (fun _ hx => (nomatch hx)), h7.and (onMlk_sameBut t _)⟩
  · show t.jne.live = false
    rw [h1]
  · show t.jne.ownq = _
    rw [h1]
  · show t.mlk.fwd = []
    rw [h2]

end Frames

section Frames

variable {s : State} {ws : List Word}

/-! Resynchronisation: pages (R441). -/

theorem hmpReqs_sameBut (a : Nat) (l : List (List Word)) (s : State) :
    SameBut [.ports] s (l.foldl (fun (p : Nat × State) c => (p.1 + c.length, hmpReq p.2 (.unit 18 3) true p.1 c.length c true true)) (a, s)).2 := by
  induction l generalizing a s with
  | nil => exact SameBut.refl _ s
  | cons c l ih => exact (hmpReq_sameBut s (.unit 18 3) true a c.length c true true).and (ih _ _)

theorem mlkHostWrite_sameBut (s : State) (a : Nat) (ws : List Word) : SameBut [.ports] s (mlkHostWrite s a ws) := hmpReqs_sameBut a _ s

theorem imgpage_taken (h : Arrives s 9 ws) (hc : mlkCompat s = true) (hr : roleOf s ≠ 5) (hrs : s.mlk.rs = true)
    (hn : ((frameBody ws).getD 0 0).toNat = 512 * s.mlk.rsPage) (hl : (frameBody ws).length = 513) :
    Runs (.imgpage ws) s (fun t => t.mlk = { s.mlk with rsPage := s.mlk.rsPage + 1 } ∧ SameBut [.mlk, .ports] s t) := by
  refine ⟨mlkHostWrite (onMlk s (fun m => { m with rsPage := m.rsPage + 1 })) (imgAddr s + 512 * s.mlk.rsPage) ((frameBody ws).drop 1), ?_, ?_⟩
  · show ok (mlkRecv s 9 ws (onStandby pageTake)) = _
    rw [mlkRecv_standby h hc hr, pageTake, if_neg (by simp [hrs]), if_pos (by rw [hn, hl]; simp)]
    rfl
  have hp := mlkHostWrite_sameBut (onMlk s (fun m => { m with rsPage := m.rsPage + 1 })) (imgAddr s + 512 * s.mlk.rsPage) ((frameBody ws).drop 1)
  exact ⟨hp .mlk (by decide), ((onMlk_sameBut s _).mono (by decide) : SameBut [.mlk, .ports] s _).and hp⟩

theorem imgpage_asks (h : Arrives s 9 ws) (hc : mlkCompat s = true) (hr : roleOf s ≠ 5) (hrs : s.mlk.rs = true)
    (hn : ((frameBody ws).getD 0 0).toNat ≠ 512 * s.mlk.rsPage) : exec (.imgpage ws) s = .next (rsAsked s) := by
  show ok (mlkRecv s 9 ws (onStandby pageTake)) = _
  rw [mlkRecv_standby h hc hr, pageTake, if_neg (by simp [hrs]), if_neg (by simp only [hn, decide_false, Bool.false_and]; decide)]
  rfl

/-! Resynchronisation: its end (R441). -/

theorem rsdone_asks (h : Arrives s 10 ws) (hc : mlkCompat s = true) (hr : roleOf s ≠ 5) (hrs : s.mlk.rs = true) (hn : s.mlk.rsPage ≠ imgPages) :
    exec (.rsdone ws) s = .next (rsAsked s) := by
  show ok (mlkRecv s 10 ws (onStandby resyncEnd)) = _
  rw [mlkRecv_standby h hc hr, resyncEnd, if_neg (by simp [hrs]), if_neg (by simp only [hn, decide_false, Bool.false_and]; decide)]
  rfl

theorem sbUnits_congr {l : List Nat} {s v : State} (hj : v.jne.sb = s.jne.sb) (hr : RegsBut l s v) (hl : ∀ m < 16, jneMwear m ∉ l) :
    (List.range 16).map (sbUnit v) = (List.range 16).map (sbUnit s) := by
  refine List.map_congr_left (fun m hm => ?_)
  rw [sbUnit, hj, hr.rf_eq (hl m (List.mem_range.1 hm)) jneMwearCAP, sbUnit]

theorem nextSb_resynced {s v : State} (hj : v.jne.sb = s.jne.sb) (hr : RegsBut [mlkRole] s v) (n : Nat) : nextSb v (.resynced n) = nextSb s (.resynced n) := by
  have hu := sbUnits_congr hj hr (fun m hm => by simp only [List.mem_singleton, jneMwear, mlkRole]; omega)
  have hb : ringBase v = ringBase s := by rw [ringBase, hr.rf_eq (by decide), ringBase]
  simp only [nextSb, hj, hu, hb]

theorem rsdone_publishes (h : Arrives s 10 ws) (hc : mlkCompat s = true) (hr : roleOf s ≠ 5) (hrs : s.mlk.rs = true) (hp : s.mlk.rsPage = imgPages)
    (hn : ((frameBody ws).getD 0 0).toNat = s.mlk.rsC0) (ho : ((frameBody ws).getD 1 0).toNat = imgPages) (hq : s.mlk.rsreq = false)
    (hs : s.jne.script = []) (hb : s.jne.bursts = []) (hi : s.jne.infoq = []) : Runs (.rsdone ws) s (fun t =>
      rb t mlkRole mlkRoleRESYNC = false ∧ t.jne.nsb = nextSb s (.resynced ((frameBody ws).getD 0 0).toNat) ∧ t.jne.bursts ≠ [] ∧
      RegsBut [mlkRole] s t ∧ SameBut [.regs, .jne, .ports] s t) := by
  rw [hn]
  refine ⟨jneRun 64 (wb (onJne s (fun j => { j with script := j.script ++ [.act (.publish (.resynced s.mlk.rsC0))] })) mlkRole mlkRoleRESYNC false), ?_, ?_⟩
  · show ok (mlkRecv s 10 ws (onStandby resyncEnd)) = _
    rw [mlkRecv_standby h hc hr, resyncEnd, if_neg (by simp [hrs]), if_pos (by rw [hp, hn, ho, hq]; simp)]
    rfl
  generalize s.mlk.rsC0 = n
  have hju : (wb (onJne s (fun j => { j with script := j.script ++ [.act (.publish (.resynced n))] })) mlkRole mlkRoleRESYNC false).jne =
      { s.jne with script := [.act (.publish (.resynced n))] } := by
    rw [(wb_sameBut (onJne s (fun j => { j with script := j.script ++ [.act (.publish (.resynced n))] })) mlkRole mlkRoleRESYNC false) .jne (by decide)]
    show ({ s.jne with script := s.jne.script ++ [.act (.publish (.resynced n))] } : Jne) = _
    rw [hs]
    rfl
  have hru : RegsBut [mlkRole] s (wb (onJne s (fun j => { j with script := j.script ++ [.act (.publish (.resynced n))] })) mlkRole mlkRoleRESYNC false) :=
    ((regsBut_onJne s _).mono (fun _ hx => (nomatch hx))).and (regsBut_wb _ _ _ _) (fun _ hx => hx)
  have hpu : SameBut [.regs, .jne] s (wb (onJne s (fun j => { j with script := j.script ++ [.act (.publish (.resynced n))] })) mlkRole mlkRoleRESYNC false) :=
    ((onJne_sameBut s _).mono (by decide) : SameBut [.regs, .jne] s _).and (wb_sameBut _ _ _ _)
  have hfu : rb (wb (onJne s (fun j => { j with script := j.script ++ [.act (.publish (.resynced n))] })) mlkRole mlkRoleRESYNC false) mlkRole mlkRoleRESYNC = false :=
    rb_wb_same _ _ _ false rfl
  generalize wb (onJne s (fun j => { j with script := j.script ++ [.act (.publish (.resynced n))] })) mlkRole mlkRoleRESYNC false = u at hju hru hpu hfu
  obtain ⟨h1, h2, -, h4, h5⟩ := jneRun_publish (u := u) (b := nextSb s (.resynced n)) (by rw [hju]) (by rw [hju]; exact hb) (by rw [hju]; exact hi)
    (fun w hw _ hrw => nextSb_resynced (hw.trans (by rw [hju])) (hru.and hrw (fun _ hx => (nomatch hx))) n) 62
  exact ⟨(h4.rb_eq List.not_mem_nil _).trans hfu, h1, h2, hru.and h4 (fun _ hx => (nomatch hx)), (hpu.mono (by decide) : SameBut [.regs, .jne, .ports] s u).and h5⟩

end Frames

section Frames

variable {s : State} {ws : List Word}

/-! Resynchronisation: its start (R441). -/

theorem rstart_asks (h : Arrives s 8 ws) (hc : mlkCompat s = true) (hr : roleOf s ≠ 5) (hst : jneState s ≠ 3) : exec (.rstart ws) s = .next (rsAsked s) := by
  show ok (mlkRecv s 8 ws (onStandby (fun t b => resyncBegin t (b.getD 0 0).toNat))) = _
  rw [mlkRecv_standby h hc hr, resyncBegin, if_pos (by simp [hst])]
  rfl

/-- The journal of a standby that begins again. -/
def rejoined (s : State) (c0 : Nat) (j : Jne) : Jne := { j with
  log := [], mirq := [], ownq := [], stalled := [], waits := [], padCsn := 0, buf := [], wpos := ringBase s, used := 0, held := true,
  zeroing := true, keep := none, dryCsn := c0 }

/-- The journal's registers of a standby that begins again. -/
def rejoinedCsns (t : State) (c0 : Nat) : State := percsnSync (setU (wf (wf t jneNextcsn jneNextcsnCSN (c0 + 1)) jneAckcsn jneAckcsnCSN c0) 0)

/-- The point engine is not READY. -/
def pointsUnready (t : State) : State := if pdOn t 45 then wb t pneSts pneStsREADY false else t

/-- The standby's own resynchronisation is under way. -/
def resyncNoted (t : State) (c0 : Nat) : State :=
  onMlk (wf (wb t mlkRole mlkRoleRESYNC true) mlkJsync mlkJsyncCSN c0) (fun m => { m with rs := true, rsC0 := c0, rsPage := 0, rsreq := false, ackSent := c0 })

/-- The writes that a resynchronisation begins with. -/
def resyncOps (t : State) : List JOp :=
  [.wr persBase [0], .wr (persBase + 0x8000) [0]] ++ zeroRing t (ringBase t) (min 33792 (ringSize t)) ++ [.act .zeroed]

theorem resyncBegin_eq {s : State} (c0 : Nat) (hon : pdOn s 44 = true) (hst : jneState s = 3) : resyncBegin s c0 =
    jneRun 64 (resyncNoted (pushOps (pointsUnready (rejoinedCsns (onJne (dropBursts (cmdEnd s)) (rejoined s c0)) c0))
      (resyncOps (pointsUnready (rejoinedCsns (onJne (dropBursts (cmdEnd s)) (rejoined s c0)) c0)))) c0) := by
  rw [resyncBegin, if_neg (by simp [hon, hst])]
  rfl

theorem rejoinedCsns_spec {t : State} {c0 : Nat} (hc : c0 + 1 < 2 ^ 48) : rf (rejoinedCsns t c0) jneNextcsn jneNextcsnCSN = c0 + 1 ∧
    rf (rejoinedCsns t c0) jneAckcsn jneAckcsnCSN = c0 ∧ jneUnp (rejoinedCsns t c0) = 0 ∧
    RegsBut [jneNextcsn, jneAckcsn, jnePercsn, jneU, jneBudget, jneSts] t (rejoinedCsns t c0) ∧ SameBut [.regs] t (rejoinedCsns t c0) := by
  have h1 : rf (wf (wf t jneNextcsn jneNextcsnCSN (c0 + 1)) jneAckcsn jneAckcsnCSN c0) jneNextcsn jneNextcsnCSN = c0 + 1 :=
    (rf_wf_other _ _ _ _ (by decide)).trans ((rf_wf_same t _ _ _ rfl).trans (Nat.mod_eq_of_lt hc))
  have h2 : rf (wf (wf t jneNextcsn jneNextcsnCSN (c0 + 1)) jneAckcsn jneAckcsnCSN c0) jneAckcsn jneAckcsnCSN = c0 :=
    (rf_wf_same _ _ _ _ rfl).trans (Nat.mod_eq_of_lt (Nat.lt_of_succ_lt hc))
  have hr : RegsBut [jneNextcsn, jneAckcsn] t (wf (wf t jneNextcsn jneNextcsnCSN (c0 + 1)) jneAckcsn jneAckcsnCSN c0) :=
    ((regsBut_wf t _ _ _).mono (by simp)).and (regsBut_wf _ _ _ _)
  have hp : SameBut [.regs] t (wf (wf t jneNextcsn jneNextcsnCSN (c0 + 1)) jneAckcsn jneAckcsnCSN c0) := (wf_sameBut t _ _ _).and (wf_sameBut _ _ _ _)
  unfold rejoinedCsns
  generalize wf (wf t jneNextcsn jneNextcsnCSN (c0 + 1)) jneAckcsn jneAckcsnCSN c0 = u at h1 h2 hr hp
  obtain ⟨hu, -, hr1, hp1⟩ := setU_spec (s := u) (n := 0) (by decide)
  generalize setU u 0 = v at hu hr1 hp1
  obtain ⟨hr2, hp2⟩ := percsnSync_frame v
  refine ⟨(hr2.rf_eq (by decide) _).trans ((hr1.rf_eq (by decide) _).trans h1), (hr2.rf_eq (by decide) _).trans ((hr1.rf_eq (by decide) _).trans h2),
    (jneUnp_eq hr2 (by decide)).trans hu, ?_, (hp.and hp1).and hp2⟩
  exact ((hr.mono (by simp) : RegsBut [jneNextcsn, jneAckcsn, jnePercsn, jneU, jneBudget, jneSts] t u).and (hr1.mono (by simp)) (fun _ hx => hx)).and hr2

theorem pointsUnready_frame (t : State) : RegsBut [pneSts] t (pointsUnready t) ∧ SameBut [.regs] t (pointsUnready t) := by
  unfold pointsUnready
  split
  · exact ⟨regsBut_wb t _ _ _, wb_sameBut t _ _ _⟩
  · exact ⟨RegsBut.refl _ t, SameBut.refl _ t⟩

theorem resyncNoted_spec {t : State} {c0 : Nat} (hc : c0 < 2 ^ 48) : rb (resyncNoted t c0) mlkRole mlkRoleRESYNC = true ∧
    rf (resyncNoted t c0) mlkJsync mlkJsyncCSN = c0 ∧
    (resyncNoted t c0).mlk = { t.mlk with rs := true, rsC0 := c0, rsPage := 0, rsreq := false, ackSent := c0 } ∧
    (resyncNoted t c0).jne = t.jne ∧ RegsBut [mlkRole, mlkJsync] t (resyncNoted t c0) ∧ SameBut [.regs, .mlk] t (resyncNoted t c0) := by
  have h1 : rb (wf (wb t mlkRole mlkRoleRESYNC true) mlkJsync mlkJsyncCSN c0) mlkRole mlkRoleRESYNC = true := by
    rw [rb, rf_wf_other _ _ _ _ (by decide)]
    exact rb_wb_same t _ _ true rfl
  have h2 : rf (wf (wb t mlkRole mlkRoleRESYNC true) mlkJsync mlkJsyncCSN c0) mlkJsync mlkJsyncCSN = c0 :=
    (rf_wf_same _ _ _ _ rfl).trans (Nat.mod_eq_of_lt hc)
  have hr : RegsBut [mlkRole, mlkJsync] t (wf (wb t mlkRole mlkRoleRESYNC true) mlkJsync mlkJsyncCSN c0) :=
    ((regsBut_wb t _ _ _).mono (by simp)).and (regsBut_wf _ _ _ _)
  have hp : SameBut [.regs] t (wf (wb t mlkRole mlkRoleRESYNC true) mlkJsync mlkJsyncCSN c0) := (wb_sameBut t _ _ _).and (wf_sameBut _ _ _ _)
  unfold resyncNoted
  generalize wf (wb t mlkRole mlkRoleRESYNC true) mlkJsync mlkJsyncCSN c0 = u at h1 h2 hr hp
  refine ⟨h1, h2, ?_, hp .jne (by decide), hr, (hp.mono (by decide) : SameBut [.regs, .mlk] t u).and (onMlk_sameBut u _)⟩
  show ({ u.mlk with rs := true, rsC0 := c0, rsPage := 0, rsreq := false, ackSent := c0 } : Mlk) = _
  rw [hp .mlk (by decide)]

/-- The first write of the activity's script is its first burst, whatever doorbells are still out. -/
theorem jneRun_firstWrite {u : State} {a : Nat} {w : Word} {r : List JOp} (hs : u.jne.script = .wr a [w] :: r) (hb : ∀ b ∈ u.jne.bursts, b.own = false) (f : Nat) :
    OwnBursts (onJne u (fun j => { j with script := r })) (jneRun (f + 1) u) [ownBurst u true a 1 [w]] := by
  have hnone : infoStep u = none := by
    unfold infoStep
    rw [hs]
    dsimp only
    rw [Bool.not_false, Bool.or_true, if_pos rfl]
  have hstep : scriptStep u = some (scriptBurst (onJne u (fun j => { j with script := r })) true a 1 [w]) := by
    rw [scriptStep, hs]
    exact congrArg some (scriptWrites_one _ a w)
  have hno : u.jne.bursts.any (fun b => b.own) = false := List.any_eq_false.2 (fun b hm => by simp [hb b hm])
  have hjs : jneStep u = some (scriptBurst (onJne u (fun j => { j with script := r })) true a 1 [w]) := by
    rw [jneStep, hno, if_neg Bool.false_ne_true, hnone]
    exact hstep
  have ho := scriptBurst_own (onJne u (fun j => { j with script := r })) true a 1 [w]
  rw [jneRun_step hjs]
  generalize scriptBurst (onJne u (fun j => { j with script := r })) true a 1 [w] = t at ho
  have hbt : t.jne.bursts = u.jne.bursts ++ [ownBurst u true a 1 [w]] := congrArg Jne.bursts ho.jne
  have hown : jneStep t = none := by
    rw [jneStep]
    refine if_pos ?_
    rw [hbt, List.any_append]
    exact Bool.or_eq_true_iff.2 (.inr rfl)
  rw [jneRun_done hown]
  exact ho

theorem rstart_begins (h : Arrives s 8 ws) (hc : mlkCompat s = true) (hr : roleOf s ≠ 5) (hon : pdOn s 44 = true) (hst : jneState s = 3)
    (hn : ((frameBody ws).getD 0 0).toNat + 1 < 2 ^ 48) : Runs (.rstart ws) s (fun t =>
      rf t jneNextcsn jneNextcsnCSN = ((frameBody ws).getD 0 0).toNat + 1 ∧
      rf t jneAckcsn jneAckcsnCSN = ((frameBody ws).getD 0 0).toNat ∧ jneUnp t = 0 ∧ rb t mlkRole mlkRoleRESYNC = true ∧
      rf t mlkJsync mlkJsyncCSN = ((frameBody ws).getD 0 0).toNat ∧
      t.jne.log = [] ∧ t.jne.held = true ∧ t.jne.zeroing = true ∧ (t.jne.bursts.filter (fun x => !x.bell)).map (fun x => (x.write, x.addr, x.data)) = [(true, persBase, [0])] ∧
      t.mlk = { s.mlk with rs := true, rsC0 := ((frameBody ws).getD 0 0).toNat, rsPage := 0, rsreq := false, ackSent := ((frameBody ws).getD 0 0).toNat } ∧
      RegsBut [jneNextcsn, jneAckcsn, jnePercsn, jneU, jneBudget, jneSts, jneSegcmd, pneSts, mlkRole, mlkJsync] s t ∧
      SameBut [.regs, .jne, .mlk, .ports] s t) := by
  refine ⟨resyncBegin s ((frameBody ws).getD 0 0).toNat, ?_, ?_⟩
  · show ok (mlkRecv s 8 ws (onStandby (fun t b => resyncBegin t (b.getD 0 0).toNat))) = _
    rw [mlkRecv_standby h hc hr]
    rfl
  generalize ((frameBody ws).getD 0 0).toNat = c0 at hn
  rw [resyncBegin_eq c0 hon hst]
  obtain ⟨hr0, hp0, hj0⟩ := cmdEnd_frame s
  generalize cmdEnd s = u at hr0 hp0 hj0
  obtain ⟨hj1, hr1, hp1⟩ := dropBursts_frame u
  generalize dropBursts u = v at hj1 hr1 hp1
  have hj2 : (onJne v (rejoined s c0)).jne = rejoined s c0 v.jne := rfl
  have hr2 := hr1.and (regsBut_onJne v (rejoined s c0)) (fun _ hx => hx)
  have hp2 := hp1.and (onJne_sameBut v (rejoined s c0))
  generalize onJne v (rejoined s c0) = w at hj2 hr2 hp2
  obtain ⟨h3a, h3b, h3c, hr3, hp3⟩ := rejoinedCsns_spec (t := w) hn
  generalize rejoinedCsns w c0 = x at h3a h3b h3c hr3 hp3
  obtain ⟨hr4, hp4⟩ := pointsUnready_frame x
  have h4a := (hr4.rf_eq (by decide) jneNextcsnCSN).trans h3a
  have h4b := (hr4.rf_eq (by decide) jneAckcsnCSN).trans h3b
  have h4c := (jneUnp_eq hr4 (by decide)).trans h3c
  generalize pointsUnready x = y at hr4 hp4 h4a h4b h4c
  have hjy : y.jne = rejoined s c0 v.jne := (hp4 .jne (by decide)).trans ((hp3 .jne (by decide)).trans hj2)
  have hsy : y.jne.script = [] := by rw [hjy, hj1]; rfl
  have hby : ∀ b ∈ y.jne.bursts, b.bell = true := by
    rw [hjy, hj1]
    exact fun b hb => (List.mem_filter.1 hb).2
  have hny : y.jne.log = [] ∧ y.jne.held = true ∧ y.jne.zeroing = true := by
    rw [hjy]
    exact ⟨rfl, rfl, rfl⟩
  have hop : ∃ r, resyncOps y = .wr persBase [0] :: r := ⟨_, rfl⟩
  obtain ⟨r, hops⟩ := hop
  rw [hops]
  have hjp : (pushOps y (.wr persBase [0] :: r)).jne = { y.jne with script := .wr persBase [0] :: r } := by
    show ({ y.jne with script := (.wr persBase [0] :: r) ++ y.jne.script } : Jne) = _
    rw [hsy, List.append_nil]
  have hrp : RegsBut [] y (pushOps y (.wr persBase [0] :: r)) := fun _ _ => rfl
  have hpp : SameBut [.jne] y (pushOps y (.wr persBase [0] :: r)) := onJne_sameBut y _
  generalize pushOps y (.wr persBase [0] :: r) = p at hjp hrp hpp
  obtain ⟨h5a, h5b, h5m, h5j, hr5, hp5⟩ := resyncNoted_spec (t := p) (c0 := c0) (by omega)
  have h5c := (hr5.rf_eq (by decide) jneNextcsnCSN).trans ((hrp.rf_eq List.not_mem_nil _).trans h4a)
  have h5d := (hr5.rf_eq (by decide) jneAckcsnCSN).trans ((hrp.rf_eq List.not_mem_nil _).trans h4b)
  have h5e := (jneUnp_eq hr5 (by decide)).trans ((jneUnp_eq hrp List.not_mem_nil).trans h4c)
  generalize resyncNoted p c0 = z at h5a h5b h5m h5j hr5 hp5 h5c h5d h5e
  have hjz : z.jne = { y.jne with script := .wr persBase [0] :: r } := h5j.trans hjp
  have hown := jneRun_firstWrite (u := z) (a := persBase) (w := 0) (r := r) (by rw [hjz]) (by
    rw [hjz]
    intro b hb
    have hbell := hby b hb
    rw [JBurst.bell, Bool.and_eq_true, Bool.and_eq_true, Bool.not_eq_true'] at hbell
    exact hbell.1.1) 63
  have hjo := hown.jne
  have hro : RegsBut [] z (jneRun (63 + 1) z) := (regsBut_onJne z _).and hown.regs (fun _ hx => hx)
  have hpo : SameBut [.jne, .ports] z (jneRun (63 + 1) z) := ((onJne_sameBut z _).mono (by decide) : SameBut [.jne, .ports] z _).and hown.parts
  generalize jneRun (63 + 1) z = t at hjo hro hpo
  have hjx : (onJne z (fun j => { j with script := r })).jne = { y.jne with script := r } := by
    refine Eq.trans (b := { z.jne with script := r }) rfl ?_
    rw [hjz]
  rw [hjx] at hjo
  obtain ⟨n1, n2, n3⟩ := hny
  refine ⟨(hro.rf_eq List.not_mem_nil _).trans h5c, (hro.rf_eq List.not_mem_nil _).trans h5d, (jneUnp_eq hro List.not_mem_nil).trans h5e,
    (hro.rb_eq List.not_mem_nil _).trans h5a, (hro.rf_eq List.not_mem_nil _).trans h5b, ?_, ?_, ?_, ?_, ?_, ?_, ?_⟩
  · rw [hjo]; exact n1
  · rw [hjo]; exact n2
  · rw [hjo]; exact n3
  · rw [hjo]
    show ((y.jne.bursts ++ [ownBurst z true persBase 1 [0]]).filter (fun x => !x.bell)).map _ = _
    rw [List.filter_append, List.filter_eq_nil_iff.2 (fun b hb => by simp [hby b hb])]
    rfl
  · have hmp : p.mlk = s.mlk := by
      rw [hpp .mlk (by decide), hp4 .mlk (by decide), hp3 .mlk (by decide), hp2 .mlk (by decide), hp0 .mlk (by decide)]
    rw [hpo .mlk (by decide), h5m, hmp]
  · have h1 : RegsBut [jneNextcsn, jneAckcsn, jnePercsn, jneU, jneBudget, jneSts, jneSegcmd, pneSts, mlkRole, mlkJsync] s w :=
      (hr0.mono (by simp)).and hr2 (fun _ hx => (nomatch hx))
    have h2 : RegsBut [jneNextcsn, jneAckcsn, jnePercsn, jneU, jneBudget, jneSts, jneSegcmd, pneSts, mlkRole, mlkJsync] s y := (h1.and hr3).and hr4
    exact ((h2.and hrp (fun _ hx => (nomatch hx))).and hr5).and hro (fun _ hx => (nomatch hx))
  · have h1 : SameBut [.regs, .jne, .mlk, .ports] s w := (hp0.mono (by decide) : SameBut [.regs, .jne, .mlk, .ports] s u).and hp2
    exact ((((h1.and hp3).and hp4).and hpp).and hp5).and hpo

/-! Bulk copies (R444). -/

theorem mlkStore_shared (t : State) {a : Nat} (ha : a < 0x100000) (v : Word) : (mlkStore t 0 a v).2 = ownStore t a 18 v := by
  rw [mlkStore, targetOf_low ha]
  exact congrArg Prod.snd (icWrite_shared ha _ 18 v true)

/-- Words stored through the mirror link's port. -/
structure LinkStored (a : Nat) (l : List Word) (u t : State) : Prop where
  words : ∀ c, memRd t c = if a ≤ c ∧ c < a + l.length then l.getD (c - a) 0 else memRd u c
  beats : StoreBeaten 18 u t

theorem mlkStoreList_stored (l : List Word) {t : State} {a : Nat} (ha : a + l.length ≤ 0x100000) (hc : ∀ i < l.length, arrayCode t (a + i) = 0) :
    LinkStored a l t (mlkStoreList t a l) := by
  induction l generalizing t a with
  | nil => exact ⟨fun c => by rw [if_neg (by simp only [List.length_nil]; omega)]; rfl, StoreBeaten.refl 18 t⟩
  | cons w l ih =>
    rw [List.length_cons] at ha hc
    have hlow : a < 0x100000 := by omega
    have hport : unitPort 18 := .inr (le_refl 18)
    rw [mlkStoreList, mlkStore_shared t hlow]
    have hmem := memRd_ownStore (s := t) (a := a) (by omega) (hc 0 (Nat.succ_pos _)) hport w
    have hb := storeBeaten_ownStore (s := t) (a := a) (by omega) hport w
    generalize ownStore t a 18 w = u at hmem hb
    obtain ⟨h1, h2⟩ := ih (t := u) (a := a + 1) (by omega) (fun i hi => by
      rw [hb.arrayCode_eq (by decide), show a + 1 + i = a + (i + 1) by omega]
      exact hc (i + 1) (by omega))
    refine ⟨fun c => ?_, hb.trans h2⟩
    rw [h1 c, hmem c, List.length_cons]
    by_cases hca : c = a
    · rw [if_neg (by omega), if_pos hca, if_pos (by omega), hca, Nat.sub_self]
      rfl
    · by_cases hin : a + 1 ≤ c ∧ c < a + 1 + l.length
      · rw [if_pos hin, if_pos (by omega), show c - a = (c - (a + 1)) + 1 by omega]
        rfl
      · rw [if_neg hin, if_neg hca, if_neg (by omega)]

theorem rxBegin_same {t : State} {gen : Nat} (h : t.mlk.rxGen = gen) : rxBegin t gen = t := if_pos h

theorem bulk_taken (h : Arrives s 6 ws) (hc : mlkCompat s = true) (hr : roleOf s ≠ 5) {d : List Word} (hd : (frameBody ws).drop 2 = d) {off : Nat}
    (ho : ((frameBody ws).getD 1 0).toNat = off) (hg : s.mlk.rxGen = ((frameBody ws).getD 0 0).toNat % 2 ^ 32) (hoff : off = s.mlk.rxOff)
    (hdone : s.mlk.rxDone = none) (hfit : off + d.length ≤ rf s mlkBchalf mlkBchalfVALUE) (hin : rxHalf s + off + d.length ≤ 0x100000)
    (hcode : ∀ i < d.length, arrayCode s (rxHalf s + off + i) = 0) : Runs (.bulk ws) s (fun t =>
      (∀ c, memRd t c = if rxHalf s + off ≤ c ∧ c < rxHalf s + off + d.length then d.getD (c - (rxHalf s + off)) 0 else memRd s c) ∧
      t.mlk = { s.mlk with rxOff := off + d.length, rxCrc := d.foldl crcWord s.mlk.rxCrc } ∧ StoreBeats 18 s t ∧
      SameBut [.mem, .tags, .msys, .regs, .free, .mlk] s t) := by
  refine ⟨mlkStoreList (onMlk s (fun m => { m with rxOff := m.rxOff + d.length, rxCrc := d.foldl crcWord m.rxCrc })) (rxHalf s + off) d, ?_, ?_⟩
  · show ok (mlkRecv s 6 ws (onStandby bulkTake)) = _
    rw [mlkRecv_standby h hc hr, bulkTake]
    rw [rxBegin_same hg, hd, ho, if_neg (by simp [hoff, hdone]; omega)]
    rfl
  have hm : (onMlk s (fun m => { m with rxOff := m.rxOff + d.length, rxCrc := d.foldl crcWord m.rxCrc })).mlk =
      { s.mlk with rxOff := off + d.length, rxCrc := d.foldl crcWord s.mlk.rxCrc } := by rw [hoff]; rfl
  have hmem (c : Nat) : memRd (onMlk s (fun m => { m with rxOff := m.rxOff + d.length, rxCrc := d.foldl crcWord m.rxCrc })) c = memRd s c := rfl
  have hco (c : Nat) : arrayCode (onMlk s (fun m => { m with rxOff := m.rxOff + d.length, rxCrc := d.foldl crcWord m.rxCrc })) c = arrayCode s c := rfl
  have hp := onMlk_sameBut s (fun m => { m with rxOff := m.rxOff + d.length, rxCrc := d.foldl crcWord m.rxCrc })
  have hr0 := regsBut_onMlk s (fun m => { m with rxOff := m.rxOff + d.length, rxCrc := d.foldl crcWord m.rxCrc })
  generalize onMlk s (fun m => { m with rxOff := m.rxOff + d.length, rxCrc := d.foldl crcWord m.rxCrc }) = u at hm hmem hco hp hr0
  obtain ⟨h1, h2⟩ := mlkStoreList_stored d (t := u) hin (fun i hi => (hco _).trans (hcode i hi))
  generalize mlkStoreList u (rxHalf s + off) d = t at h1 h2
  refine ⟨fun c => by rw [h1 c, hmem], (h2.parts .mlk (by decide)).trans hm, ?_, (hp.mono (by decide) : SameBut [.mem, .tags, .msys, .regs, .free, .mlk] s u).and h2.parts⟩
  obtain ⟨g1, g2, g3, g4⟩ := h2.storeBeats
  refine ⟨by rw [g1, hp .msys (by decide)], (hr0.mono (fun _ hx => (nomatch hx))).and g2 (fun _ hx => hx), g3.trans (hr0.rf_eq List.not_mem_nil _), ?_⟩
  rw [← hr0.rf_eq List.not_mem_nil]
  exact g4

/-- A generation that is complete. -/
def rxCompleted (s : State) : State := wb (onMlk s (fun m => { m with rxGen := 0, rxOff := 0 })) mlkRole mlkRoleCOPYRX false

theorem rxCompleted_spec (s : State) : (rxCompleted s).mlk = { s.mlk with rxGen := 0, rxOff := 0 } ∧ rb (rxCompleted s) mlkRole mlkRoleCOPYRX = false ∧
    RegsAre [withFld s mlkRole mlkRoleCOPYRX 0] s (rxCompleted s) ∧ RegsBut [mlkRole] s (rxCompleted s) ∧ SameBut [.regs, .mlk] s (rxCompleted s) := by
  have hp := onMlk_sameBut s (fun m => { m with rxGen := 0, rxOff := 0 })
  have hm : (onMlk s (fun m => { m with rxGen := 0, rxOff := 0 })).mlk = { s.mlk with rxGen := 0, rxOff := 0 } := rfl
  have hw : withFld (onMlk s (fun m => { m with rxGen := 0, rxOff := 0 })) mlkRole mlkRoleCOPYRX 0 = withFld s mlkRole mlkRoleCOPYRX 0 := rfl
  have hr := regsBut_onMlk s (fun m => { m with rxGen := 0, rxOff := 0 })
  have ha : RegsAre [withFld s mlkRole mlkRoleCOPYRX 0] s (rxCompleted s) := regsAre_wf s mlkRole mlkRoleCOPYRX 0
  unfold rxCompleted at ha ⊢
  generalize onMlk s (fun m => { m with rxGen := 0, rxOff := 0 }) = u at hp hm hw hr ha
  exact ⟨((wb_sameBut u _ _ _) .mlk (by decide)).trans hm, rb_wb_same u _ _ false rfl, ha, (hr.mono (fun _ hx => (nomatch hx))).and (regsBut_wb u _ _ _) (fun _ hx => hx),
    (hp.mono (by decide) : SameBut [.regs, .mlk] s u).and (wb_sameBut u _ _ _)⟩

/-- The current generation is marked so. -/
def genMarked (s : State) (d : MlkDone) : State :=
  wb (wb (wb (wf s mlkGen mlkGenCURGEN d.gen) mlkGen mlkGenCURELIG d.elig) mlkGen mlkGenINSTALLING true) mlkSts mlkStsGENDONE true

theorem genMarked_spec (s : State) (d : MlkDone) : rf (genMarked s d) mlkGen mlkGenCURGEN = d.gen % mlkGenCURGEN.span ∧
    rb (genMarked s d) mlkGen mlkGenCURELIG = d.elig ∧ rb (genMarked s d) mlkGen mlkGenINSTALLING = true ∧ rb (genMarked s d) mlkSts mlkStsGENDONE = true ∧
    RegsBut [mlkGen, mlkSts] s (genMarked s d) ∧ SameBut [.regs] s (genMarked s d) := by
  unfold genMarked
  have h1 := rf_wf_same s mlkGen mlkGenCURGEN d.gen rfl
  have hr1 := regsBut_wf s mlkGen mlkGenCURGEN d.gen
  have hp1 := wf_sameBut s mlkGen mlkGenCURGEN d.gen
  generalize wf s mlkGen mlkGenCURGEN d.gen = t at h1 hr1 hp1
  have h2 := rb_wb_same t mlkGen mlkGenCURELIG d.elig rfl
  have h2g := (rf_wb_apart t mlkGen d.elig (f := mlkGenCURELIG) (g := mlkGenCURGEN) rfl rfl (by decide)).trans h1
  have hr2 := hr1.and (regsBut_wb t mlkGen mlkGenCURELIG d.elig)
  have hp2 := hp1.and (wb_sameBut t mlkGen mlkGenCURELIG d.elig)
  generalize wb t mlkGen mlkGenCURELIG d.elig = u at h2 h2g hr2 hp2
  have h3 := rb_wb_same u mlkGen mlkGenINSTALLING true rfl
  have h3e := (rb_wb_apart u mlkGen mlkGenINSTALLING mlkGenCURELIG true rfl rfl (by decide)).trans h2
  have h3g := (rf_wb_apart u mlkGen true (f := mlkGenINSTALLING) (g := mlkGenCURGEN) rfl rfl (by decide)).trans h2g
  have hr3 := hr2.and (regsBut_wb u mlkGen mlkGenINSTALLING true)
  have hp3 := hp2.and (wb_sameBut u mlkGen mlkGenINSTALLING true)
  generalize wb u mlkGen mlkGenINSTALLING true = v at h3 h3e h3g hr3 hp3
  have hr4 := regsBut_wb v mlkSts mlkStsGENDONE true
  exact ⟨(hr4.rf_eq (by decide) _).trans h3g, (hr4.rb_eq (by decide) _).trans h3e, (hr4.rb_eq (by decide) _).trans h3, rb_wb_same v _ _ true rfl,
    (hr3.mono (by simp)).and hr4, hp3.and (wb_sameBut v _ _ _)⟩

theorem genFlip_spec (s : State) (d : MlkDone) : rf (genFlip s d) mlkGen mlkGenCURGEN = d.gen % mlkGenCURGEN.span ∧
    rb (genFlip s d) mlkGen mlkGenCURELIG = d.elig ∧ rb (genFlip s d) mlkGen mlkGenINSTALLING = true ∧ rb (genFlip s d) mlkSts mlkStsGENDONE = true ∧
    (genFlip s d).mlk.inst = tablePairs d.tbl ∧ (genFlip s d).mlk.rxGen = s.mlk.rxGen ∧ RegsBut [mlkGen, mlkSts] s (genFlip s d) ∧
    SameBut [.regs, .mlk] s (genFlip s d) := by
  obtain ⟨h1, h2, h3, h4, hr, hp⟩ := genMarked_spec s d
  rw [show genFlip s d = onMlk (genMarked s d) (fun m => { m with
    curHi := rf s mlkGen mlkGenCURGEN != 0 && !s.mlk.curHi, inst := tablePairs d.tbl, instW := 0, instOff := 0 }) from rfl]
  generalize genMarked s d = u at h1 h2 h3 h4 hr hp
  have hgen : u.mlk.rxGen = s.mlk.rxGen := by rw [hp .mlk (by decide)]
  exact ⟨h1, h2, h3, h4, rfl, hgen, hr, (hp.mono (by decide) : SameBut [.regs, .mlk] s u).and (onMlk_sameBut u _)⟩

section BulkEnd

variable (h : Arrives s 7 ws) (hc : mlkCompat s = true) (hr : roleOf s ≠ 5) (hg : s.mlk.rxGen = ((frameBody ws).getD 0 0).toNat % 2 ^ 32)
  (h0 : ((frameBody ws).getD 0 0).toNat % 2 ^ 32 ≠ 0) (hoff : ((frameBody ws).getD 2 0).toNat = s.mlk.rxOff) (hdone : s.mlk.rxDone = none)
  (hcrc : ((frameBody ws).drop 4).foldl crcWord s.mlk.rxCrc ^^^ 0xFFFFFFFF = ((frameBody ws).getD 3 0).toNat % 2 ^ 32)
include h hc hr hg h0 hoff hdone hcrc

/-- The generation that a BULKEND completes. -/
def bulkDone (ws : List Word) : MlkDone := ⟨((frameBody ws).getD 0 0).toNat % 2 ^ 32, bitOf ((frameBody ws).getD 1 0) 47, (frameBody ws).drop 4⟩

theorem bulkend_exec : exec (.bulkend ws) s = .next (if rb (rxCompleted s) mlkGen mlkGenINSTALLING then
    onMlk (rxCompleted s) (fun m => { m with rxDone := some (bulkDone ws) }) else genFlip (rxCompleted s) (bulkDone ws)) := by
  show ok (mlkRecv s 7 ws (onStandby bulkEnd)) = _
  rw [mlkRecv_standby h hc hr, bulkEnd]
  dsimp only
  rw [rxBegin_same hg, if_pos (by rw [hoff, hcrc, hdone]; simp only [Option.isNone_none, ne_eq, h0, not_false_eq_true, decide_true, Bool.and_true])]
  rfl

theorem bulkend_flips (hi : rb s mlkGen mlkGenINSTALLING = false) : Runs (.bulkend ws) s (fun t =>
    rf t mlkGen mlkGenCURGEN = ((frameBody ws).getD 0 0).toNat % 2 ^ 32 ∧
    rb t mlkGen mlkGenCURELIG = bitOf ((frameBody ws).getD 1 0) 47 ∧ rb t mlkGen mlkGenINSTALLING = true ∧ rb t mlkSts mlkStsGENDONE = true ∧
    rb t mlkRole mlkRoleCOPYRX = false ∧ t.mlk.rxGen = 0 ∧ t.mlk.inst = tablePairs ((frameBody ws).drop 4) ∧ RegsBut [mlkGen, mlkSts, mlkRole] s t ∧
    SameBut [.regs, .mlk] s t) := by
  refine ⟨_, bulkend_exec h hc hr hg h0 hoff hdone hcrc, ?_⟩
  obtain ⟨hm, hcp, -, hrb, hp⟩ := rxCompleted_spec s
  rw [hrb.rb_eq (by decide), hi, if_neg Bool.false_ne_true]
  generalize rxCompleted s = u at hm hcp hrb hp
  obtain ⟨f1, f2, f3, f4, f5, f6, f7, f8⟩ := genFlip_spec u (bulkDone ws)
  exact ⟨f1.trans (Nat.mod_eq_of_lt (Nat.mod_lt _ (by decide))), f2, f3, f4, (f7.rb_eq (by decide) _).trans hcp, f6.trans (by rw [hm]), f5,
    ((hrb.mono (by simp) : RegsBut [mlkGen, mlkSts, mlkRole] s u).and (f7.mono (by simp)) (fun _ hx => hx)), hp.and f8⟩

theorem bulkend_waits (hi : rb s mlkGen mlkGenINSTALLING = true) : Runs (.bulkend ws) s (fun t =>
    t.mlk = { s.mlk with rxGen := 0, rxOff := 0, rxDone := some (bulkDone ws) } ∧
    RegsAre [withFld s mlkRole mlkRoleCOPYRX 0] s t ∧ SameBut [.regs, .mlk] s t) := by
  refine ⟨_, bulkend_exec h hc hr hg h0 hoff hdone hcrc, ?_⟩
  obtain ⟨hm, -, ha, hrb, hp⟩ := rxCompleted_spec s
  rw [hrb.rb_eq (by decide), if_pos hi]
  generalize rxCompleted s = u at hm ha hrb hp
  refine ⟨?_, ha.and (regsBut_onMlk u _), hp.and (onMlk_sameBut u _)⟩
  show ({ u.mlk with rxDone := some (bulkDone ws) } : Mlk) = _
  rw [hm]

end BulkEnd

theorem genInstallDone_result (hl : pdLive s 47 = true) (hrun : s.running = true) (hi : rb s mlkGen mlkGenINSTALLING = true) (hin : s.mlk.inst = [])
    (hd : s.mlk.rxDone = none) : Runs .genInstallDone s (fun t => RegsAre [withFld s mlkGen mlkGenINSTALLING 0] s t ∧ SameBut [.regs] s t) := by
  refine ⟨wb s mlkGen mlkGenINSTALLING false, ?_, regsAre_wf s _ _ 0, wb_sameBut s _ _ _⟩
  show execGenInstallDone s = _
  rw [execGenInstallDone, if_pos (by simp [hl, hrun, hi, hin])]
  dsimp only
  rw [(wb_sameBut s mlkGen mlkGenINSTALLING false) .mlk (by decide), hd]
  rfl

end Frames

/-- Settles O49, clause by clause: what each of the partner's frames leaves at the standby, or an acknowledgment and its absence at the
active side. -/
theorem mirroredState : Obligations.MirroredState := by
  unfold Obligations.MirroredState
  intro s ws
  refine ⟨fun ⟨⟨hh, hf, ht, hc⟩, hr⟩ => ⟨fun ⟨hn, hon, hst, hcl, hok⟩ => commit_taken ⟨hh, hf, ht⟩ hc hr hn hon hst hcl hok,
      fun hn => ⟨_, commit_asks ⟨hh, hf, ht⟩ hc hr hn, rsAsked_asks s⟩⟩,
    fun ⟨hh, hf, ht, hc⟩ hr hrs => ⟨ack_noted ⟨hh, hf, ht⟩ hc hr hrs, ack_late ⟨hh, hf, ht⟩ hc hr hrs⟩,
    ackTimeout_result,
    fun ⟨⟨hh, hf, ht, hc⟩, hr⟩ => ⟨rstart_begins ⟨hh, hf, ht⟩ hc hr, fun hst => ⟨_, rstart_asks ⟨hh, hf, ht⟩ hc hr hst, rsAsked_asks s⟩⟩,
    fun ⟨⟨hh, hf, ht, hc⟩, hr⟩ hrs => ⟨imgpage_taken ⟨hh, hf, ht⟩ hc hr hrs, fun hn => ⟨_, imgpage_asks ⟨hh, hf, ht⟩ hc hr hrs hn, rsAsked_asks s⟩⟩,
    fun ⟨⟨hh, hf, ht, hc⟩, hr⟩ hrs => ⟨fun hp hn ho hq hs hb hi _ => rsdone_publishes ⟨hh, hf, ht⟩ hc hr hrs hp hn ho hq hs hb hi,
      fun hn => ⟨_, rsdone_asks ⟨hh, hf, ht⟩ hc hr hrs hn, rsAsked_asks s⟩⟩,
    fun ⟨⟨hh, hf, ht, hc⟩, hr⟩ hg hoff hd hfit hin hcode => bulk_taken ⟨hh, hf, ht⟩ hc hr rfl rfl hg hoff hd hfit hin hcode,
    fun ⟨⟨hh, hf, ht, hc⟩, hr⟩ hg h0 hoff hd hcrc => ⟨bulkend_flips ⟨hh, hf, ht⟩ hc hr hg h0 hoff hd hcrc, bulkend_waits ⟨hh, hf, ht⟩ hc hr hg h0 hoff hd hcrc⟩,
    genInstallDone_result⟩

end Sys2Proof.Machine

/-! Mirror link: enabling, intervals, frames and copies (R427, R428, R432 to R435, R437, R442, R443, R449). -/

namespace Sys2Proof.Machine

set_option Elab.async false

/-! Frames that fail their checks (R432). -/

theorem mlkRecv_bad {s : State} {type : Nat} {ws : List Word} (hh : mlkHears s = true) (hf : frameOk s ws = false) (f : State → List Word → State) :
    mlkRecv s type ws f = inc s mlkCnt mlkCntFRERR := by
  rw [mlkRecv, if_neg (by simp [hh]), if_pos (by simp [hf])]

theorem mirrorFrames_bad {s : State} {ws : List Word} (hh : mlkHears s = true) (hf : frameOk s ws = false) :
    ∀ c ∈ [Instr.heartbeat ws, .image ws, .commit ws, .ack ws, .report ws, .bulk ws, .bulkend ws, .rstart ws, .imgpage ws, .rsdone ws],
    Runs c s (fun t => RegsAre [counted s mlkCnt mlkCntFRERR] s t ∧ SameBut [.regs] s t) := by
  intro c hc
  have hrecv : ∃ type f, exec c s = ok (mlkRecv s type ws f) := by
    simp only [List.mem_cons, List.not_mem_nil, or_false] at hc
    rcases hc with rfl | rfl | rfl | rfl | rfl | rfl | rfl | rfl | rfl | rfl <;> exact ⟨_, _, rfl⟩
  obtain ⟨type, f, he⟩ := hrecv
  refine ⟨inc s mlkCnt mlkCntFRERR, ?_, regsAre_inc s _ _, inc_sameBut s _ _ 1⟩
  rw [he, mlkRecv_bad hh hf]
  rfl

/-! MLK_CTRL (R428, R449). -/

theorem Fld.get_setBit_apart {f : Fld} {i : Nat} (hi : i < 48) (h : f.hi < i ∨ i < f.lo) (v : Word) (b : Bool) : f.get (setBit v i b) = f.get v := by
  refine Nat.eq_of_testBit_eq (fun j => ?_)
  rw [Fld.testBit_get, Fld.testBit_get, getLsbD_setBit v hi]
  by_cases hj : j < f.hi + 1 - f.lo
  · rw [if_neg (by omega)]
  · rw [decide_eq_false hj, Bool.false_and, Bool.false_and]

theorem Fld.get_setBit_same {i : Nat} (hi : i < 48) (v : Word) : (⟨i, i⟩ : Fld).get (setBit v i true) = 1 := by
  refine Nat.eq_of_testBit_eq (fun j => ?_)
  rw [Fld.testBit_get, getLsbD_setBit v hi]
  cases j with
  | zero => rw [if_pos (Nat.add_zero i), decide_eq_true (by dsimp only; omega)]; rfl
  | succ j => rw [decide_eq_false (by dsimp only; omega), Bool.false_and, Nat.testBit_succ, Nat.div_eq_of_lt (by decide), Nat.zero_testBit]

theorem Fld.get_bit {i : Nat} {v : Word} (h : bitOf v i = true) : (⟨i, i⟩ : Fld).get v = 1 := by
  refine Nat.eq_of_testBit_eq (fun j => ?_)
  rw [Fld.testBit_get]
  cases j with
  | zero => rw [show v.getLsbD (i + 0) = true from h, decide_eq_true (by dsimp only; omega)]; rfl
  | succ j => rw [decide_eq_false (by dsimp only; omega), Bool.false_and, Nat.testBit_succ, Nat.div_eq_of_lt (by decide), Nat.zero_testBit]

theorem rf_wb_same (s : State) (a : Nat) {f : Fld} (b : Bool) (hf : f.fits = true) (h1 : f.span = 2) : rf (wb s a f b) a f = b2n b := by
  refine (rf_wf_same s a f (b2n b) hf).trans (Nat.mod_eq_of_lt ?_)
  rw [h1]
  cases b <;> decide

/-- MLK_CTRL's ARMED and ACKTO are written. -/
def armWritten (s : State) (v : Word) : State :=
  if mlkCtrlARMED.get v == 1 then onMlk (wb (wf s mlkCtrl mlkCtrlACKTO (mlkCtrlACKTO.get v)) mlkCtrl mlkCtrlARMED (mlkCtrlARMED.get v == 1)) (fun m => { m with armedSince := true })
  else wb (wf s mlkCtrl mlkCtrlACKTO (mlkCtrlACKTO.get v)) mlkCtrl mlkCtrlARMED (mlkCtrlARMED.get v == 1)

theorem armWritten_spec (s : State) (v : Word) : rf (armWritten s v) mlkCtrl mlkCtrlARMED = mlkCtrlARMED.get v ∧
    rf (armWritten s v) mlkCtrl mlkCtrlACKTO = mlkCtrlACKTO.get v ∧ (∀ f ∈ [mlkCtrlEN, mlkCtrlMIVL], rf (armWritten s v) mlkCtrl f = rf s mlkCtrl f) ∧
    (mlkCtrlARMED.get v = 1 → (armWritten s v).mlk = { s.mlk with armedSince := true }) ∧ RegsBut [mlkCtrl] s (armWritten s v) ∧
    SameBut [.regs, .mlk] s (armWritten s v) := by
  have h1 : rf (wb (wf s mlkCtrl mlkCtrlACKTO (mlkCtrlACKTO.get v)) mlkCtrl mlkCtrlARMED (mlkCtrlARMED.get v == 1)) mlkCtrl mlkCtrlARMED = mlkCtrlARMED.get v := by
    have hlt : mlkCtrlARMED.get v < 2 := Fld.get_lt _ _
    rw [rf_wb_same _ _ _ rfl rfl]
    by_cases hv : mlkCtrlARMED.get v = 1
    · rw [hv]; rfl
    · rw [show mlkCtrlARMED.get v = 0 by omega]; rfl
  have h2 : rf (wb (wf s mlkCtrl mlkCtrlACKTO (mlkCtrlACKTO.get v)) mlkCtrl mlkCtrlARMED (mlkCtrlARMED.get v == 1)) mlkCtrl mlkCtrlACKTO = mlkCtrlACKTO.get v :=
    (rf_wb_apart _ _ _ rfl rfl (by decide)).trans ((rf_wf_same s _ _ _ rfl).trans (Nat.mod_eq_of_lt (Fld.get_lt _ _)))
  have h3 : ∀ f ∈ [mlkCtrlEN, mlkCtrlMIVL], rf (wb (wf s mlkCtrl mlkCtrlACKTO (mlkCtrlACKTO.get v)) mlkCtrl mlkCtrlARMED (mlkCtrlARMED.get v == 1)) mlkCtrl f =
      rf s mlkCtrl f := by
    intro f hf
    obtain ⟨hfit, ha, hb⟩ := (by decide : ∀ f ∈ [mlkCtrlEN, mlkCtrlMIVL], f.fits = true ∧ (mlkCtrlARMED.hi < f.lo ∨ f.hi < mlkCtrlARMED.lo) ∧
      (mlkCtrlACKTO.hi < f.lo ∨ f.hi < mlkCtrlACKTO.lo)) f hf
    rw [rf_wb_apart _ _ _ rfl hfit ha, rf_wf_apart _ _ _ _ _ rfl hfit hb]
  have hr : RegsBut [mlkCtrl] s (wb (wf s mlkCtrl mlkCtrlACKTO (mlkCtrlACKTO.get v)) mlkCtrl mlkCtrlARMED (mlkCtrlARMED.get v == 1)) :=
    (regsBut_wf s _ _ _).and (regsBut_wb _ _ _ _)
  have hp : SameBut [.regs] s (wb (wf s mlkCtrl mlkCtrlACKTO (mlkCtrlACKTO.get v)) mlkCtrl mlkCtrlARMED (mlkCtrlARMED.get v == 1)) :=
    (wf_sameBut s _ _ _).and (wb_sameBut _ _ _ _)
  unfold armWritten
  generalize wb (wf s mlkCtrl mlkCtrlACKTO (mlkCtrlACKTO.get v)) mlkCtrl mlkCtrlARMED (mlkCtrlARMED.get v == 1) = u at h1 h2 h3 hr hp
  split
  · refine ⟨h1, h2, h3, fun _ => ?_, hr, (hp.mono (by decide) : SameBut [.regs, .mlk] s u).and (onMlk_sameBut u _)⟩
    show ({ u.mlk with armedSince := true } : Mlk) = _
    rw [hp .mlk (by decide)]
  · next hn => exact ⟨h1, h2, h3, fun h => absurd (beq_iff_eq.2 h) hn, hr, hp.mono (by decide)⟩

theorem mlkEnOk_congr {s t : State} (h : RegsBut [mlkCtrl] s t) (mi : Nat) : mlkEnOk t mi = mlkEnOk s mi := by
  have hs (n : Nat) (hn : n < 128) (f : Fld) : rf t (mlkSlotsel n) f = rf s (mlkSlotsel n) f :=
    h.rf_eq (by simp only [List.mem_singleton, mlkSlotsel, mlkCtrl]; omega) f
  have hf : (List.range 128).filter (fun n => rb t (mlkSlotsel n) mlkSlotselEN) = (List.range 128).filter (fun n => rb s (mlkSlotsel n) mlkSlotselEN) :=
    List.filter_congr (fun n hn => by rw [rb, hs n (List.mem_range.1 hn), rb])
  have hns : ((List.range 128).filter (fun n => rb s (mlkSlotsel n) mlkSlotselEN)).foldl (fun k n => k + slotNs t n + 13) 0 =
      ((List.range 128).filter (fun n => rb s (mlkSlotsel n) mlkSlotselEN)).foldl (fun k n => k + slotNs s n + 13) 0 :=
    List.foldl_ext _ _ _ (fun k n hn => by rw [slotNs, hs n (List.mem_range.1 (List.mem_filter.1 hn).1), slotNs])
  rw [mlkEnOk, hf, hns, mlkEnOk]

section Ctrl

variable {s : State} {q : Req} {v : Word}

/-- A write of MLK_CTRL with EN 0 before it and 1 in it. -/
theorem mlkCtrlWrite_enables (hq : holdsType s q otMirror = true) (hen : rb s mlkCtrl mlkCtrlEN = false) (h1 : mlkCtrlEN.get v = 1) : mlkCtrlWrite s q v =
    respond (if mlkEnOk (wf (armWritten s v) mlkCtrl mlkCtrlMIVL (mlkCtrlMIVL.get v)) (mlkCtrlMIVL.get v) then
      wb (wf (armWritten s v) mlkCtrl mlkCtrlMIVL (mlkCtrlMIVL.get v)) mlkCtrl mlkCtrlEN true
    else wb (wf (armWritten s v) mlkCtrl mlkCtrlMIVL (mlkCtrlMIVL.get v)) mlkSts mlkStsCFGERR true) 0 := by
  rw [mlkCtrlWrite, if_neg (by simp [hq])]
  dsimp only
  rw [hen, if_neg Bool.false_ne_true, if_neg Bool.false_ne_true, if_neg (by rw [h1]; decide)]
  rfl

/-- A write of MLK_CTRL with EN 1 before it and in it, which leaves MIVL as it is. -/
theorem mlkCtrlWrite_arms (hq : holdsType s q otMirror = true) (hen : rb s mlkCtrl mlkCtrlEN = true) (h1 : mlkCtrlEN.get v = 1)
    (hmi : mlkCtrlMIVL.get v = rf s mlkCtrl mlkCtrlMIVL) : mlkCtrlWrite s q v = respond (armWritten s v) 0 := by
  rw [mlkCtrlWrite, if_neg (by simp [hq])]
  dsimp only
  rw [hen, if_pos rfl, if_pos hmi, if_neg (by rw [h1]; decide), if_pos rfl]
  rfl

theorem enableWord_fields (v : Word) : mlkCtrlEN.get (setBit v 47 true) = 1 ∧
    ∀ f ∈ [mlkCtrlARMED, mlkCtrlMIVL, mlkCtrlACKTO], f.get (setBit v 47 true) = f.get v :=
  ⟨Fld.get_setBit_same (by decide) v, fun f hf => Fld.get_setBit_apart (by decide)
    ((by decide : ∀ f ∈ [mlkCtrlARMED, mlkCtrlMIVL, mlkCtrlACKTO], f.hi < 47 ∨ 47 < f.lo) f hf) v true⟩

/-- MLK_CTRL before EN is looked at. -/
theorem ctrlWritten_spec (s : State) (v : Word) : (∀ f ∈ [mlkCtrlARMED, mlkCtrlMIVL, mlkCtrlACKTO],
      rf (wf (armWritten s v) mlkCtrl mlkCtrlMIVL (mlkCtrlMIVL.get v)) mlkCtrl f = f.get v) ∧
    rf (wf (armWritten s v) mlkCtrl mlkCtrlMIVL (mlkCtrlMIVL.get v)) mlkCtrl mlkCtrlEN = rf s mlkCtrl mlkCtrlEN ∧
    RegsBut [mlkCtrl] s (wf (armWritten s v) mlkCtrl mlkCtrlMIVL (mlkCtrlMIVL.get v)) ∧
    SameBut [.regs, .mlk] s (wf (armWritten s v) mlkCtrl mlkCtrlMIVL (mlkCtrlMIVL.get v)) := by
  obtain ⟨h1, h2, h3, -, hr, hp⟩ := armWritten_spec s v
  generalize armWritten s v = t at h1 h2 h3 hr hp
  refine ⟨fun f hf => ?_, ?_, hr.and (regsBut_wf t _ _ _), hp.and (wf_sameBut t _ _ _)⟩
  · simp only [List.mem_cons, List.not_mem_nil, or_false] at hf
    rcases hf with rfl | rfl | rfl
    · exact (rf_wf_apart t _ _ _ _ rfl rfl (by decide)).trans h1
    · exact (rf_wf_same t _ _ _ rfl).trans (Nat.mod_eq_of_lt (Fld.get_lt _ _))
    · exact (rf_wf_apart t _ _ _ _ rfl rfl (by decide)).trans h2
  · exact (rf_wf_apart t _ _ _ _ rfl rfl (by decide)).trans (h3 _ (by simp))

theorem mlkEnable_exec (hon : pdOn s 47 = true) (hq : holdsType s q otMirror = true) (hen : rb s mlkCtrl mlkCtrlEN = false) :
    exec (.mlkEnable q v) s = .next (respond (if mlkEnOk s (mlkCtrlMIVL.get v) then
      wb (wf (armWritten s (setBit v 47 true)) mlkCtrl mlkCtrlMIVL (mlkCtrlMIVL.get (setBit v 47 true))) mlkCtrl mlkCtrlEN true
    else wb (wf (armWritten s (setBit v 47 true)) mlkCtrl mlkCtrlMIVL (mlkCtrlMIVL.get (setBit v 47 true))) mlkSts mlkStsCFGERR true) 0) := by
  obtain ⟨h1, h2⟩ := enableWord_fields v
  show execMlkEnable q v s = _
  rw [execMlkEnable, if_pos hon, mlkCtrlWrite_enables hq hen h1, mlkEnOk_congr (ctrlWritten_spec s (setBit v 47 true)).2.2.1, h2 mlkCtrlMIVL (by simp)]
  rfl

theorem mlkEnable_done (hon : pdOn s 47 = true) (hq : holdsType s q otMirror = true) (hen : rb s mlkCtrl mlkCtrlEN = false)
    (hok : mlkEnOk s (mlkCtrlMIVL.get v) = true) : Runs (.mlkEnable q v) s (fun t => t.resp = ⟨0, 0⟩ ∧ rb t mlkCtrl mlkCtrlEN = true ∧
      (∀ f ∈ [mlkCtrlARMED, mlkCtrlMIVL, mlkCtrlACKTO], rf t mlkCtrl f = f.get v) ∧ RegsBut [mlkCtrl] s t ∧ SameBut [.regs, .mlk, .resp] s t) := by
  refine ⟨_, mlkEnable_exec hon hq hen, rfl, ?_⟩
  rw [if_pos hok]
  obtain ⟨h1, -, hr, hp⟩ := ctrlWritten_spec s (setBit v 47 true)
  generalize wf (armWritten s (setBit v 47 true)) mlkCtrl mlkCtrlMIVL (mlkCtrlMIVL.get (setBit v 47 true)) = t at h1 hr hp
  refine ⟨((regsBut_respond _ 0 0).rb_eq List.not_mem_nil _).trans (rb_wb_same t _ _ true rfl), fun f hf => ?_, (hr.and (regsBut_wb t _ _ _)).and (regsBut_respond _ _ _) (fun _ hx => (nomatch hx)),
    (hp.mono (by decide) : SameBut [.regs, .mlk, .resp] s t).and ((wb_sameBut t _ _ _).mono (by decide) : SameBut [.regs, .resp] t _) |>.and (respond_sameBut _ _ _)⟩
  obtain ⟨hfit, hap⟩ := (by decide : ∀ f ∈ [mlkCtrlARMED, mlkCtrlMIVL, mlkCtrlACKTO], f.fits = true ∧ (mlkCtrlEN.hi < f.lo ∨ f.hi < mlkCtrlEN.lo)) f hf
  exact ((regsBut_respond _ 0 0).rf_eq List.not_mem_nil f).trans ((rf_wb_apart t mlkCtrl (f := mlkCtrlEN) (g := f) true rfl hfit hap).trans
    ((h1 f hf).trans ((enableWord_fields v).2 f hf)))

theorem mlkEnable_refused (hon : pdOn s 47 = true) (hq : holdsType s q otMirror = true) (hen : rb s mlkCtrl mlkCtrlEN = false)
    (hok : mlkEnOk s (mlkCtrlMIVL.get v) = false) : Runs (.mlkEnable q v) s (fun t => t.resp = ⟨0, 0⟩ ∧ rb t mlkCtrl mlkCtrlEN = false ∧
      rb t mlkSts mlkStsCFGERR = true ∧ RegsBut [mlkCtrl, mlkSts] s t ∧ SameBut [.regs, .mlk, .resp] s t) := by
  refine ⟨_, mlkEnable_exec hon hq hen, rfl, ?_⟩
  rw [if_neg (by simp [hok])]
  obtain ⟨-, h2, hr, hp⟩ := ctrlWritten_spec s (setBit v 47 true)
  generalize wf (armWritten s (setBit v 47 true)) mlkCtrl mlkCtrlMIVL (mlkCtrlMIVL.get (setBit v 47 true)) = t at h2 hr hp
  refine ⟨?_, rb_wb_same t _ _ true rfl, ((hr.mono (by simp)).and (regsBut_wb t _ _ _)).and (regsBut_respond _ _ _) (fun _ hx => (nomatch hx)),
    (hp.mono (by decide) : SameBut [.regs, .mlk, .resp] s t).and (wb_sameBut t _ _ _) |>.and (respond_sameBut _ _ _)⟩
  refine (rb_wb_other t _ _ _ (by decide)).trans ?_
  rw [rb, h2, ← rb]
  exact hen

theorem mlkArmedWrite_result (hon : pdOn s 47 = true) (hq : holdsType s q otMirror = true) (hen : rb s mlkCtrl mlkCtrlEN = true) (hb : bitOf v 47 = true)
    (hmi : mlkCtrlMIVL.get v = rf s mlkCtrl mlkCtrlMIVL) : Runs (.mlkArmedWrite q v) s (fun t => t.resp = ⟨0, 0⟩ ∧ rb t mlkCtrl mlkCtrlARMED = true ∧
      rb t mlkCtrl mlkCtrlEN = true ∧ t.mlk = { s.mlk with armedSince := true } ∧ rf t mlkCtrl mlkCtrlMIVL = mlkCtrlMIVL.get v ∧ RegsBut [mlkCtrl] s t ∧
      SameBut [.regs, .mlk, .resp] s t) := by
  have ha : mlkCtrlARMED.get (setBit v 46 true) = 1 := Fld.get_setBit_same (by decide) v
  have hm : mlkCtrlMIVL.get (setBit v 46 true) = mlkCtrlMIVL.get v := Fld.get_setBit_apart (by decide) (.inl (by decide)) v true
  have he : mlkCtrlEN.get (setBit v 46 true) = 1 := (Fld.get_setBit_apart (by decide) (.inr (by decide)) v true).trans (Fld.get_bit hb)
  refine ⟨respond (armWritten s (setBit v 46 true)) 0, ?_, rfl, ?_⟩
  · show execMlkArmedWrite q v s = _
    rw [execMlkArmedWrite, if_pos hon, mlkCtrlWrite_arms hq hen he (hm.trans hmi)]
    rfl
  obtain ⟨h1, -, h3, h4, hr, hp⟩ := armWritten_spec s (setBit v 46 true)
  generalize armWritten s (setBit v 46 true) = t at h1 h3 h4 hr hp
  refine ⟨?_, ?_, h4 ha, (h3 _ (by simp)).trans hmi.symm, hr, (hp.mono (by decide) : SameBut [.regs, .mlk, .resp] s t).and (respond_sameBut _ _ _)⟩
  · show rb t _ _ = true
    rw [rb, h1, ha]
    rfl
  · show rb t _ _ = true
    rw [rb, h3 _ (by simp), ← rb]
    exact hen

end Ctrl

/-! MLK_BCCMD (R443). -/

section Copies

variable {s : State} {q : Req} {elig : Bool}

theorem copyWord_fields (op : Nat) (elig : Bool) (hop : op < 4) : mlkBccmdOP.get (BitVec.ofNat 48 (op * 2 ^ 46 + b2n elig * 2 ^ 45)) = op ∧
    (mlkBccmdELIG.get (BitVec.ofNat 48 (op * 2 ^ 46 + b2n elig * 2 ^ 45)) == 1) = elig := by
  have hb : b2n elig < 2 := by cases elig <;> decide
  have h1 : mlkBccmdOP.get (BitVec.ofNat 48 (op * 2 ^ 46 + b2n elig * 2 ^ 45)) = op := by
    simp only [mlkBccmdOP, Fld.get, Fld.span, BitVec.toNat_ofNat, Nat.shiftRight_eq_div_pow]
    omega
  have h2 : mlkBccmdELIG.get (BitVec.ofNat 48 (op * 2 ^ 46 + b2n elig * 2 ^ 45)) = b2n elig := by
    simp only [mlkBccmdELIG, Fld.get, Fld.span, BitVec.toNat_ofNat, Nat.shiftRight_eq_div_pow]
    omega
  rw [h2]
  exact ⟨h1, by cases elig <;> rfl⟩

theorem bccmdWrite_may (op : Nat) (hop : op < 4) (hq : holdsType s q otMirror = true) :
    bccmdWrite s q (BitVec.ofNat 48 (op * 2 ^ 46 + b2n elig * 2 ^ 45)) = respond (if op = 1 then bcStart (wb s mlkBccmd mlkBccmdELIG elig) elig
      else if op = 2 then onMlk (wb (wb s mlkBccmd mlkBccmdELIG elig) mlkBccmd mlkBccmdBUSY false) (fun m => { m with bcWords := [] })
      else wb s mlkBccmd mlkBccmdELIG elig) 0 := by
  obtain ⟨h1, h2⟩ := copyWord_fields op elig hop
  rw [bccmdWrite, h1, h2, if_neg (by simp [hq])]

/-- The command register before a generation is looked at. -/
def copyAsked (s : State) (elig : Bool) : State := wb (wb s mlkBccmd mlkBccmdELIG elig) mlkBccmd mlkBccmdBUSY false

theorem copyAsked_spec (s : State) (elig : Bool) : rb (copyAsked s elig) mlkBccmd mlkBccmdELIG = elig ∧ rb (copyAsked s elig) mlkBccmd mlkBccmdBUSY = false ∧
    rf (copyAsked s elig) mlkBccmd mlkBccmdGEN = rf s mlkBccmd mlkBccmdGEN ∧ RegsBut [mlkBccmd] s (copyAsked s elig) ∧ SameBut [.regs] s (copyAsked s elig) :=
  ⟨(rb_wb_apart _ _ _ _ false rfl rfl (by decide)).trans (rb_wb_same s _ _ elig rfl), rb_wb_same _ _ _ false rfl,
    (rf_wb_apart _ _ false rfl rfl (by decide)).trans (rf_wb_apart s _ elig rfl rfl (by decide)), (regsBut_wb s _ _ _).and (regsBut_wb _ _ _ _),
    (wb_sameBut s _ _ _).and (wb_sameBut _ _ _ _)⟩

/-- The words of the copy table's entries. -/
def copyWords (s : State) : Nat := (bcTable s).foldl (fun k p => k + entLen p) 0

theorem copyWords_congr {s t : State} (h : RegsBut [mlkBccmd] s t) : copyWords t = copyWords s := by
  have htab : bcTable t = bcTable s := by
    rw [bcTable, bcTable]
    refine congrArg (List.filter _) (List.map_congr_left (fun e he => ?_))
    have hlt := List.mem_range.1 he
    rw [h _ (by simp only [List.mem_singleton, mlkBctbl0, mlkBccmd]; omega), h _ (by simp only [List.mem_singleton, mlkBctbl1, mlkBccmd]; omega)]
  rw [copyWords, htab, copyWords]

/-- The number of a new generation. -/
def nextGen (s : State) : Nat := max (max (rf s mlkBccmd mlkBccmdGEN) (rf s mlkGen mlkGenCURGEN)) (hbField s 3 ⟨31, 0⟩) + 1

theorem bcStart_eq (s : State) (elig : Bool) : bcStart (wb s mlkBccmd mlkBccmdELIG elig) elig =
    if rf (copyAsked s elig) mlkBchalf mlkBchalfVALUE < copyWords (copyAsked s elig) || roleOf (copyAsked s elig) ≠ 5 || !evHB (copyAsked s elig) then
      wb (copyAsked s elig) mlkSts mlkStsBCERR true
    else onMlk (wf (wb (copyAsked s elig) mlkBccmd mlkBccmdBUSY true) mlkBccmd mlkBccmdGEN (nextGen (copyAsked s elig)))
      (fun m => { m with bcEnt := 0, bcWord := 0, bcOff := 0, bcCrc := 0xFFFFFFFF, bcElig := elig, bcWords := [] }) := rfl

theorem copyAsked_checks (s : State) (elig : Bool) : rf (copyAsked s elig) mlkBchalf mlkBchalfVALUE = rf s mlkBchalf mlkBchalfVALUE ∧
    copyWords (copyAsked s elig) = copyWords s ∧ roleOf (copyAsked s elig) = roleOf s ∧ evHB (copyAsked s elig) = evHB s ∧ nextGen (copyAsked s elig) = nextGen s := by
  obtain ⟨-, -, hg, hr, hp⟩ := copyAsked_spec s elig
  have hmlk := hp .mlk (by decide)
  refine ⟨hr.rf_eq (by decide) _, copyWords_congr hr, hr.rf_eq (by decide) _, ?_, ?_⟩
  · rw [evHB, hmlk, evHB]
  · rw [nextGen, hg, hr.rf_eq (by decide), hbField, hmlk, nextGen, hbField]

theorem bcStart_exec (hon : pdOn s 47 = true) (hq : holdsType s q otMirror = true) :
    exec (.bcStart q elig) s = .next (respond (bcStart (wb s mlkBccmd mlkBccmdELIG elig) elig) 0) := by
  show execBcStart q elig s = _
  rw [execBcStart, if_pos hon, show 2 ^ 46 + b2n elig * 2 ^ 45 = 1 * 2 ^ 46 + b2n elig * 2 ^ 45 by omega, bccmdWrite_may 1 (by decide) hq, if_pos rfl]
  rfl

theorem bcStart_starts (hon : pdOn s 47 = true) (hq : holdsType s q otMirror = true) (hfit : copyWords s ≤ rf s mlkBchalf mlkBchalfVALUE) (hr : roleOf s = 5)
    (hhb : evHB s = true) (hgen : nextGen s < 2 ^ 32) : Runs (.bcStart q elig) s (fun t => t.resp = ⟨0, 0⟩ ∧
      rb t mlkBccmd mlkBccmdBUSY = true ∧ rf t mlkBccmd mlkBccmdGEN = nextGen s ∧ rb t mlkBccmd mlkBccmdELIG = elig ∧
      t.mlk = { s.mlk with bcEnt := 0, bcWord := 0, bcOff := 0, bcCrc := 0xFFFFFFFF, bcElig := elig, bcWords := [] } ∧
      RegsBut [mlkBccmd] s t ∧ SameBut [.regs, .mlk, .resp] s t) := by
  refine ⟨_, bcStart_exec hon hq, rfl, ?_⟩
  obtain ⟨c1, c2, c3, c4, c5⟩ := copyAsked_checks s elig
  rw [bcStart_eq, c1, c2, c3, c4, c5, if_neg (by simp [hr, hhb]; omega)]
  obtain ⟨he, -, -, hrb, hp⟩ := copyAsked_spec s elig
  generalize copyAsked s elig = u at he hrb hp
  generalize nextGen s = g at hgen
  have h1 : rf (wf (wb u mlkBccmd mlkBccmdBUSY true) mlkBccmd mlkBccmdGEN g) mlkBccmd mlkBccmdGEN = g :=
    (rf_wf_same _ _ _ _ rfl).trans (Nat.mod_eq_of_lt hgen)
  have h2 : rb (wf (wb u mlkBccmd mlkBccmdBUSY true) mlkBccmd mlkBccmdGEN g) mlkBccmd mlkBccmdBUSY = true :=
    (rb_wf_apart _ _ _ _ _ rfl rfl (by decide)).trans (rb_wb_same u _ _ true rfl)
  have h3 : rb (wf (wb u mlkBccmd mlkBccmdBUSY true) mlkBccmd mlkBccmdGEN g) mlkBccmd mlkBccmdELIG = elig :=
    (rb_wf_apart _ _ _ _ _ rfl rfl (by decide)).trans ((rb_wb_apart u _ _ _ true rfl rfl (by decide)).trans he)
  have hr1 := hrb.and ((regsBut_wb u mlkBccmd mlkBccmdBUSY true).and (regsBut_wf _ mlkBccmd mlkBccmdGEN g))
  have hp1 := hp.and ((wb_sameBut u mlkBccmd mlkBccmdBUSY true).and (wf_sameBut _ mlkBccmd mlkBccmdGEN g))
  generalize wf (wb u mlkBccmd mlkBccmdBUSY true) mlkBccmd mlkBccmdGEN g = w at h1 h2 h3 hr1 hp1
  have hq0 : RegsBut [] w (respond (onMlk w (fun m => { m with bcEnt := 0, bcWord := 0, bcOff := 0, bcCrc := 0xFFFFFFFF, bcElig := elig, bcWords := [] })) 0) :=
    (regsBut_onMlk w _).and (regsBut_respond _ 0 0) (fun _ hx => hx)
  refine ⟨(hq0.rb_eq List.not_mem_nil _).trans h2, (hq0.rf_eq List.not_mem_nil _).trans h1, (hq0.rb_eq List.not_mem_nil _).trans h3, ?_, hr1.and hq0 (fun _ hx => (nomatch hx)), ((hp1.mono (by decide) : SameBut [.regs, .mlk, .resp] s w).and (onMlk_sameBut w _)).and (respond_sameBut _ _ _)⟩
  show ({ w.mlk with bcEnt := 0, bcWord := 0, bcOff := 0, bcCrc := 0xFFFFFFFF, bcElig := elig, bcWords := [] } : Mlk) = _
  rw [hp1 .mlk (by decide)]

theorem bcStart_refused (hon : pdOn s 47 = true) (hq : holdsType s q otMirror = true)
    (h : rf s mlkBchalf mlkBchalfVALUE < copyWords s ∨ roleOf s ≠ 5 ∨ evHB s = false) : Runs (.bcStart q elig) s (fun t => t.resp = ⟨0, 0⟩ ∧
      rb t mlkBccmd mlkBccmdBUSY = false ∧ rb t mlkSts mlkStsBCERR = true ∧ RegsBut [mlkBccmd, mlkSts] s t ∧ SameBut [.regs, .resp] s t) := by
  refine ⟨_, bcStart_exec hon hq, rfl, ?_⟩
  obtain ⟨c1, c2, c3, c4, c5⟩ := copyAsked_checks s elig
  rw [bcStart_eq, c1, c2, c3, c4, c5, if_pos (by rcases h with h | h | h <;> simp [h])]
  obtain ⟨-, hb, -, hrb, hp⟩ := copyAsked_spec s elig
  generalize copyAsked s elig = u at hb hrb hp
  exact ⟨(rb_wb_other u _ _ _ (by decide)).trans hb, rb_wb_same u _ _ true rfl, (hrb.mono (by simp)).and (regsBut_wb u _ _ _),
    ((hp.and (wb_sameBut u _ _ _)).mono (by decide) : SameBut [.regs, .resp] s _).and (respond_sameBut _ _ _)⟩

theorem bcAbort_result (hon : pdOn s 47 = true) (hq : holdsType s q otMirror = true) : Runs (.bcAbort q elig) s (fun t => t.resp = ⟨0, 0⟩ ∧
    rb t mlkBccmd mlkBccmdBUSY = false ∧ t.mlk = { s.mlk with bcWords := [] } ∧ RegsBut [mlkBccmd] s t ∧ SameBut [.regs, .mlk, .resp] s t) := by
  refine ⟨respond (onMlk (copyAsked s elig) (fun m => { m with bcWords := [] })) 0, ?_, rfl, ?_⟩
  · show execBcAbort q elig s = _
    rw [execBcAbort, if_pos hon, bccmdWrite_may 2 (by decide) hq, if_neg (by decide), if_pos rfl]
    rfl
  obtain ⟨-, hb, -, hrb, hp⟩ := copyAsked_spec s elig
  generalize copyAsked s elig = u at hb hrb hp
  refine ⟨hb, ?_, hrb, ((hp.mono (by decide) : SameBut [.regs, .mlk, .resp] s u).and (onMlk_sameBut u _)).and (respond_sameBut _ _ _)⟩
  show ({ u.mlk with bcWords := [] } : Mlk) = _
  rw [hp .mlk (by decide)]

end Copies

/-! The start of an interval (R433, R434). -/

section Interval

variable {s t : State}

/-- The number of intervals without a heartbeat, at the start of one. -/
def silenceCounted (s : State) : State := if s.mlk.heard then wf s mlkRole mlkRoleMSIL 0 else inc s mlkRole mlkRoleMSIL

theorem silenceCounted_spec (s : State) :
    RegsAre [withFld s mlkRole mlkRoleMSIL (if s.mlk.heard then 0 else satAdd (mlkRoleMSIL.span - 1) (rf s mlkRole mlkRoleMSIL) 1)] s (silenceCounted s) ∧
    SameBut [.regs] s (silenceCounted s) ∧
    ∀ f ∈ [mlkRoleROLE, mlkRoleCOPYRX, mlkRolePV], rf (silenceCounted s) mlkRole f = rf s mlkRole f := by
  have hf : ∀ f ∈ [mlkRoleROLE, mlkRoleCOPYRX, mlkRolePV], f.fits = true ∧ (mlkRoleMSIL.hi < f.lo ∨ f.hi < mlkRoleMSIL.lo) := by decide
  unfold silenceCounted
  split
  · exact ⟨regsAre_wf s _ _ _, wf_sameBut s _ _ _, fun f h => rf_wf_apart s _ _ _ _ rfl (hf f h).1 (hf f h).2⟩
  · exact ⟨regsAre_inc s _ _, inc_sameBut s _ _ 1, fun f h => rf_inc_apart s _ 1 rfl (hf f h).1 (hf f h).2⟩

/-- What the mirror link notes at the start of an interval. -/
def mlkStarted (s : State) : Mlk :=
  { s.mlk with iseq := s.mlk.iseq + 1, last := s.port + 1, sent := [], heard := false, hbAge := s.mlk.hbAge.map (· + 1) }

/-- The state before an interval's heartbeat. -/
structure IntervalNoted (s t : State) : Prop where
  regs : RegsAre [withFld s mlkRole mlkRoleMSIL (if s.mlk.heard then 0 else satAdd (mlkRoleMSIL.span - 1) (rf s mlkRole mlkRoleMSIL) 1)] s t
  role : ∀ f ∈ [mlkRoleROLE, mlkRoleCOPYRX, mlkRolePV], rf t mlkRole f = rf s mlkRole f
  mlk : t.mlk = mlkStarted s
  fires : Fires [0x003] s t
  same : SameBut [.regs, .mlk, .sem] s t

theorem intervalNoted (s : State) : IntervalNoted s (semFire (onMlk (silenceCounted s) (fun m => { m with
    iseq := m.iseq + 1, last := s.port + 1, sent := [], heard := false, hbAge := m.hbAge.map (· + 1) })) 0x003) := by
  obtain ⟨hr, hp, hf⟩ := silenceCounted_spec s
  generalize silenceCounted s = u at hr hp hf
  have hm := hp .mlk (by decide)
  refine ⟨hr, hf, ?_, fires_of_semFire (l := [mlkRole]) hr.2 (by decide) (by decide) (hp .sem (by decide)) (hp .port (by decide)),
    (((hp.mono (by decide) : SameBut [.regs, .mlk, .sem] s u).and (onMlk_sameBut u _)).and (semFire_sameBut _ _))⟩
  show ({ u.mlk with iseq := u.mlk.iseq + 1, last := s.port + 1, sent := [], heard := false, hbAge := u.mlk.hbAge.map (· + 1) } : Mlk) = _
  rw [hm]
  rfl

theorem IntervalNoted.but (h : IntervalNoted s t) : RegsBut [mlkRole] s t := h.regs.2

theorem IntervalNoted.roleOf (h : IntervalNoted s t) : roleOf t = roleOf s := h.role _ (by simp)

theorem IntervalNoted.frameVer (h : IntervalNoted s t) : frameVer t = frameVer s := by rw [Machine.frameVer, h.role _ (by simp), Machine.frameVer]

theorem IntervalNoted.hbBody (h : IntervalNoted s t) (crc : Nat) : hbBody t crc = hbBody s crc := by
  have hb {a : Nat} (ha : a ∉ [mlkRole]) (f : Fld) : rb t a f = rb s a f := h.but.rb_eq ha f
  have hf {a : Nat} (ha : a ∉ [mlkRole]) (f : Fld) : rf t a f = rf s a f := h.but.rf_eq ha f
  have hc : rb t mlkRole mlkRoleCOPYRX = rb s mlkRole mlkRoleCOPYRX := by rw [rb, h.role _ (by simp), rb]
  have h1 : t.mlk.rsreq = s.mlk.rsreq := by rw [h.mlk]; rfl
  have h2 : t.mlk.bcElig = s.mlk.bcElig := by rw [h.mlk]; rfl
  rw [Machine.hbBody, h.roleOf, hf (by decide), hc, h1, h.same .lvl (by decide), hf (by decide), hf (by decide), hf (by decide), h2, hb (by decide), hf (by decide),
    hf (by decide), hf (by decide), hf (by decide), hf (by decide), Machine.hbBody]

theorem IntervalNoted.mlkFrame (h : IntervalNoted s t) (type : Nat) (body : List Word) :
    mlkFrame t type body = mlkFrame { s with mlk := { s.mlk with iseq := s.mlk.iseq + 1 } } type body := by
  have h1 : t.mlk.iseq = s.mlk.iseq + 1 := by rw [h.mlk]; rfl
  rw [Machine.mlkFrame, h.frameVer, h.but.rf_eq (by decide), h1]
  rfl

theorem intervalStart_result (hon : pdLive s 47 = true) (hrun : s.running = true) (hen : rb s mlkCtrl mlkCtrlEN = true) (hl : s.mlk.last ≠ s.port + 1)
    (ht : (btime s).toNat % mivl s = 0) (he : s.mlk.evalAt = s.port + 1) (h0 : roleOf s ≠ 0) (h5 : roleOf s ≠ 5) (hv : frameVer s = 2) :
    Runs .mirrorIntervalStart s (fun t => t.mlk = { s.mlk with
        iseq := s.mlk.iseq + 1, last := s.port + 1, heard := false, hbAge := s.mlk.hbAge.map (· + 1), sent := [⟨0, mlkFrame { s with mlk := { s.mlk with iseq := s.mlk.iseq + 1 } } 1 (hbBody s 0)⟩] } ∧
      Fires [0x003] s t ∧ RegsAre [withFld s mlkRole mlkRoleMSIL (if s.mlk.heard then 0 else satAdd (mlkRoleMSIL.span - 1) (rf s mlkRole mlkRoleMSIL) 1)] s t ∧
      SameBut [.regs, .mlk, .sem] s t) := by
  have hi := intervalNoted s
  have hexec : exec .mirrorIntervalStart s = .next (intervalStart s) := by
    show execMirrorIntervalStart s = _
    rw [execMirrorIntervalStart, hon, hrun, hen, ht, bne_iff_ne.2 hl]
    rfl
  refine ⟨_, hexec, ?_⟩
  have hmade : intervalStart s = mlkSend (semFire (onMlk (silenceCounted s) (fun m => { m with
      iseq := m.iseq + 1, last := s.port + 1, sent := [], heard := false, hbAge := m.hbAge.map (· + 1) })) 0x003) 0 1 (hbBody s 0) := by
    rw [intervalStart]
    dsimp only
    rw [← silenceCounted]
    generalize semFire (onMlk (silenceCounted s) _) 0x003 = t at hi
    have hev : t.mlk.evalAt = t.port + 1 := by rw [hi.mlk, hi.same .port (by decide)]; exact he
    have hno : (if (t.mlk.evalAt = t.port + 1 || cycleEndsNow t) = true then t else roleEval t false) = t := if_pos (by simp [hev])
    have hcrc : lastCrc t = (0, t) := by rw [lastCrc, hi.frameVer, if_pos (by simp [hv])]
    rw [hno, hi.roleOf, if_neg h0, hcrc, hi.hbBody]
    exact if_neg (by simp [show roleOf (mlkSend t 0 1 (hbBody s 0)) = roleOf s from hi.roleOf, h5])
  rw [hmade]
  generalize semFire (onMlk (silenceCounted s) _) 0x003 = t at hi
  refine ⟨?_, hi.fires, hi.regs, hi.same.and (onMlk_sameBut t _)⟩
  show ({ t.mlk with sent := t.mlk.sent ++ [⟨0, mlkFrame t 1 (hbBody s 0)⟩], lane1 := t.mlk.lane1 } : Mlk) = _
  rw [hi.mlkFrame, hi.mlk]
  rfl

theorem intervalStart_off (hon : pdLive s 47 = true) (hrun : s.running = true) (hen : rb s mlkCtrl mlkCtrlEN = false) (hl : s.mlk.last ≠ s.port + 1)
    (ht : (btime s).toNat % mivl s = 0) : Runs .mirrorIntervalStart s (fun t =>
      t.mlk = { s.mlk with last := s.port + 1, hbAge := s.mlk.hbAge.map (· + 1) } ∧ SameBut [.mlk] s t) := by
  refine ⟨onMlk s (fun m => { m with last := s.port + 1, hbAge := m.hbAge.map (· + 1) }), ?_, rfl, onMlk_sameBut s _⟩
  show execMirrorIntervalStart s = _
  rw [execMirrorIntervalStart, hon, hrun, hen, ht, bne_iff_ne.2 hl]
  rfl

end Interval

/-! Heartbeats (R435, R437). -/

section Heartbeats

variable {s : State} {ws : List Word}

/-- The sender of the heartbeat with this body agrees with this block. -/
def hbGood (s : State) (b : List Word) : Bool :=
  decide (max 2 ((⟨39, 36⟩ : Fld).get (b.getD 0 0)) ≤ min 3 ((⟨35, 32⟩ : Fld).get (b.getD 0 0))) && (⟨41, 40⟩ : Fld).get (b.getD 0 0) == s.lvl &&
    (⟨15, 0⟩ : Fld).get (b.getD 0 0) == rf s mlkCtrl mlkCtrlMIVL && (⟨18, 0⟩ : Fld).get (b.getD 2 0) == rf s rlkCtrl rlkCtrlPER

theorem hbGood_of {s : State} {b : List Word} (h1 : max 2 ((⟨39, 36⟩ : Fld).get (b.getD 0 0)) ≤ min 3 ((⟨35, 32⟩ : Fld).get (b.getD 0 0)))
    (h2 : (⟨41, 40⟩ : Fld).get (b.getD 0 0) = s.lvl) (h3 : (⟨15, 0⟩ : Fld).get (b.getD 0 0) = rf s mlkCtrl mlkCtrlMIVL)
    (h4 : (⟨18, 0⟩ : Fld).get (b.getD 2 0) = rf s rlkCtrl rlkCtrlPER) : hbGood s b = true := by
  rw [hbGood, h2, h3, h4, decide_eq_true h1, beq_self_eq_true, beq_self_eq_true, beq_self_eq_true]
  rfl

/-- What a heartbeat says of its sender. -/
def peerNoted (s : State) (w : Word) (good : Bool) : State :=
  wb (wb (wf (wf (wr s mlkPeer w) mlkRole mlkRolePROLE ((⟨47, 45⟩ : Fld).get w)) mlkRole mlkRolePV (min 3 ((⟨35, 32⟩ : Fld).get w)))
    mlkSts mlkStsINCOMPAT (!good)) mlkRole mlkRoleHB good

theorem peerNoted_spec (s : State) (w : Word) (good : Bool) : rd (peerNoted s w good) mlkPeer = w ∧
    rf (peerNoted s w good) mlkRole mlkRolePROLE = (⟨47, 45⟩ : Fld).get w ∧ rf (peerNoted s w good) mlkRole mlkRolePV = min 3 ((⟨35, 32⟩ : Fld).get w) ∧
    rb (peerNoted s w good) mlkRole mlkRoleHB = good ∧ rb (peerNoted s w good) mlkSts mlkStsINCOMPAT = !good ∧
    RegsBut [mlkPeer, mlkRole, mlkSts] s (peerNoted s w good) ∧ SameBut [.regs] s (peerNoted s w good) := by
  unfold peerNoted
  have h1 := rd_wr_same s mlkPeer w
  have hr1 : RegsBut [mlkPeer, mlkRole, mlkSts] s (wr s mlkPeer w) := (regsBut_wr s mlkPeer w).mono (by simp)
  have hp1 := wr_sameBut s mlkPeer w
  generalize wr s mlkPeer w = t at h1 hr1 hp1
  have h2 := (rf_wf_same t mlkRole mlkRolePROLE ((⟨47, 45⟩ : Fld).get w) rfl).trans (Nat.mod_eq_of_lt (Fld.get_lt _ _))
  have h2w := (rd_wf_other t (a := mlkRole) mlkRolePROLE ((⟨47, 45⟩ : Fld).get w) (b := mlkPeer) (by decide)).trans h1
  have hr2 := hr1.and (regsBut_wf t mlkRole mlkRolePROLE ((⟨47, 45⟩ : Fld).get w))
  have hp2 := hp1.and (wf_sameBut t mlkRole mlkRolePROLE ((⟨47, 45⟩ : Fld).get w))
  generalize wf t mlkRole mlkRolePROLE ((⟨47, 45⟩ : Fld).get w) = u at h2 h2w hr2 hp2
  have h3 := (rf_wf_same u mlkRole mlkRolePV (min 3 ((⟨35, 32⟩ : Fld).get w)) rfl).trans
    (Nat.mod_eq_of_lt (show min 3 ((⟨35, 32⟩ : Fld).get w) < 16 by omega))
  have h3p := (rf_wf_apart u mlkRole mlkRolePV mlkRolePROLE (min 3 ((⟨35, 32⟩ : Fld).get w)) rfl rfl (by decide)).trans h2
  have h3w := (rd_wf_other u (a := mlkRole) mlkRolePV (min 3 ((⟨35, 32⟩ : Fld).get w)) (b := mlkPeer) (by decide)).trans h2w
  have hr3 := hr2.and (regsBut_wf u mlkRole mlkRolePV (min 3 ((⟨35, 32⟩ : Fld).get w)))
  have hp3 := hp2.and (wf_sameBut u mlkRole mlkRolePV (min 3 ((⟨35, 32⟩ : Fld).get w)))
  generalize wf u mlkRole mlkRolePV (min 3 ((⟨35, 32⟩ : Fld).get w)) = x at h3 h3p h3w hr3 hp3
  have h4 := rb_wb_same x mlkSts mlkStsINCOMPAT (!good) rfl
  have hr4 := regsBut_wb x mlkSts mlkStsINCOMPAT (!good)
  have h4v := (hr4.rf_eq (a := mlkRole) (by decide) mlkRolePV).trans h3
  have h4p := (hr4.rf_eq (a := mlkRole) (by decide) mlkRolePROLE).trans h3p
  have h4w := (hr4 mlkPeer (by decide)).trans h3w
  have hp4 := hp3.and (wb_sameBut x mlkSts mlkStsINCOMPAT (!good))
  have hr4' := hr3.and hr4
  generalize wb x mlkSts mlkStsINCOMPAT (!good) = y at h4 h4v h4p h4w hp4 hr4'
  have hr5 := regsBut_wb y mlkRole mlkRoleHB good
  exact ⟨(hr5 mlkPeer (by decide)).trans h4w, (rf_wb_apart y mlkRole good (f := mlkRoleHB) (g := mlkRolePROLE) rfl rfl (by decide)).trans h4p,
    (rf_wb_apart y mlkRole good (f := mlkRoleHB) (g := mlkRolePV) rfl rfl (by decide)).trans h4v, rb_wb_same y _ _ good rfl, (hr5.rb_eq (by decide) _).trans h4,
    hr4'.and hr5, hp4.and (wb_sameBut y _ _ _)⟩

/-- A heartbeat that asks for no resynchronisation. -/
theorem heartbeat_calm (s : State) (b : List Word) (h : hbGood s b = false ∨ (⟨42, 42⟩ : Fld).get (b.getD 0 0) = 0) :
    heartbeat s b = onMlk (peerNoted s (b.getD 0 0) (hbGood s b)) (fun m => { m with
      heard := true, hbAge := if hbGood s b then some 0 else none, hb := if hbGood s b then b else m.hb }) := by
  rw [heartbeat]
  dsimp only
  rw [← hbGood]
  refine if_neg ?_
  rcases h with h | h
  · rw [h]
    simp
  · rw [h]
    simp

theorem heartbeat_result (ha : Arrives s 1 ws) {good : Bool} (hg : hbGood s (frameBody ws) = good)
    (hc : good = false ∨ (⟨42, 42⟩ : Fld).get ((frameBody ws).getD 0 0) = 0) : Runs (.heartbeat ws) s (fun t =>
      rd t mlkPeer = (frameBody ws).getD 0 0 ∧ rf t mlkRole mlkRolePROLE = (⟨47, 45⟩ : Fld).get ((frameBody ws).getD 0 0) ∧
      rf t mlkRole mlkRolePV = min 3 ((⟨35, 32⟩ : Fld).get ((frameBody ws).getD 0 0)) ∧ rb t mlkRole mlkRoleHB = good ∧ rb t mlkSts mlkStsINCOMPAT = (!good) ∧
      t.mlk = { s.mlk with heard := true, hbAge := if good then some 0 else none, hb := if good then frameBody ws else s.mlk.hb } ∧
      RegsBut [mlkPeer, mlkRole, mlkSts] s t ∧ SameBut [.regs, .mlk] s t) := by
  subst hg
  obtain ⟨h1, h2, h3, h4, h5, hr, hp⟩ := peerNoted_spec s ((frameBody ws).getD 0 0) (hbGood s (frameBody ws))
  refine ⟨_, show ok (mlkRecv s 1 ws heartbeat) = _ by rw [mlkRecv_arrives ha (.inl rfl), heartbeat_calm s _ hc]; rfl, ?_⟩
  generalize peerNoted s ((frameBody ws).getD 0 0) (hbGood s (frameBody ws)) = t at h1 h2 h3 h4 h5 hr hp
  refine ⟨h1, h2, h3, h4, h5, ?_, hr, (hp.mono (by decide) : SameBut [.regs, .mlk] s t).and (onMlk_sameBut t _)⟩
  show ({ t.mlk with heard := true, hbAge := if hbGood s (frameBody ws) then some 0 else none, hb := if hbGood s (frameBody ws) then frameBody ws else t.mlk.hb } : Mlk) = _
  rw [hp .mlk (by decide)]

theorem heartbeat_apart (ha : Arrives s 1 ws) (hl : (⟨41, 40⟩ : Fld).get ((frameBody ws).getD 0 0) ≠ s.lvl) : Runs (.heartbeat ws) s (fun t =>
    rb t mlkRole mlkRoleHB = false ∧ rb t mlkSts mlkStsINCOMPAT = true ∧ t.mlk = { s.mlk with heard := true, hbAge := none } ∧
    RegsBut [mlkPeer, mlkRole, mlkSts] s t ∧ SameBut [.regs, .mlk] s t) := by
  obtain ⟨t, he, -, -, -, h4, h5, hm, hr, hp⟩ := heartbeat_result ha (good := false) (by rw [hbGood, beq_eq_false_iff_ne.2 hl]; simp) (.inl rfl)
  exact ⟨t, he, h4, h5, hm, hr, hp⟩

end Heartbeats

/-! Images and reports (R437, R442). -/

theorem LinkStored.and {a n : Nat} {l m : List Word} {s t u : State} (h : LinkStored a l s t) (hl : l.length ≤ n) (g : LinkStored (a + n) m t u) :
    (∀ i < l.length, memRd u (a + i) = l.getD i 0) ∧ (∀ i < m.length, memRd u (a + n + i) = m.getD i 0) ∧
    (∀ c, c < a ∨ a + n + m.length ≤ c → memRd u c = memRd s c) ∧ StoreBeaten 18 s u := by
  refine ⟨fun i hi => ?_, fun i hi => ?_, fun c hc => ?_, h.beats.trans g.beats⟩
  · rw [g.words, if_neg (by omega), h.words, if_pos (by omega), Nat.add_sub_cancel_left]
  · rw [g.words, if_pos (by omega), Nat.add_sub_cancel_left]
  · rw [g.words, if_neg (by omega), h.words, if_neg (by omega)]

section Images

variable {s : State} {ws r : List Word} {d x : Word}

theorem slotLive_of_beaten {t : State} (h : StoreBeaten 18 s t) (n : Nat) : slotLive t n = slotLive s n := by
  rw [slotLive, phaseOf, h.regs.rf_eq (by simp only [List.mem_singleton, slotSts, aeSlotsts, memArb]; omega), slotLive, phaseOf]

theorem image_result (ha : Arrives s 2 ws) (hc : mlkCompat s = true) (hr : roleOf s ≠ 5) (hb : frameBody ws = d :: r)
    (hlen : r.length = min 32 ((⟨13, 8⟩ : Fld).get d) + 12) (hin : rf s mlkIbuf mlkIbufVALUE + 64 * (d.toNat % 128) + 64 ≤ 0x100000)
    (hs : slotLive s (d.toNat % 128) = false) (hcode : ∀ i < 64, arrayCode s (rf s mlkIbuf mlkIbufVALUE + 64 * (d.toNat % 128) + i) = 0) :
    Runs (.image ws) s (fun t => (∀ i < min 32 ((⟨13, 8⟩ : Fld).get d), memRd t (rf s mlkIbuf mlkIbufVALUE + 64 * (d.toNat % 128) + i) = r.getD i 0) ∧
      (∀ i < 12, memRd t (rf s mlkIbuf mlkIbufVALUE + 64 * (d.toNat % 128) + 0x20 + i) = r.getD (min 32 ((⟨13, 8⟩ : Fld).get d) + i) 0) ∧
      (∀ c, c < rf s mlkIbuf mlkIbufVALUE + 64 * (d.toNat % 128) ∨ rf s mlkIbuf mlkIbufVALUE + 64 * (d.toNat % 128) + 64 ≤ c → memRd t c = memRd s c) ∧
      t.mlk = { s.mlk with got := s.mlk.got.filter (fun p => p.1 != d.toNat % 128) ++ [(d.toNat % 128, min 32 ((⟨13, 8⟩ : Fld).get d))] } ∧
      StoreBeats 18 s t ∧ SameBut [.mem, .tags, .msys, .regs, .free, .mlk] s t) := by
  have hn : (⟨6, 0⟩ : Fld).get d = d.toNat % 128 := by simp [Fld.get, Fld.span]
  generalize d.toNat % 128 = n at hn hin hs hcode
  have hns : min 32 ((⟨13, 8⟩ : Fld).get d) ≤ 32 := Nat.min_le_left _ _
  have hexec : exec (.image ws) s = .next (imageTake s n (min 32 ((⟨13, 8⟩ : Fld).get d)) r) := by
    show ok (mlkRecv s 2 ws (onStandby (fun t b => imageEntries 128 t b))) = _
    rw [mlkRecv_standby ha hc hr, hb, imageEntries, hn, if_neg (by omega), ← hlen, List.take_length, List.drop_length]
    rfl
  generalize min 32 ((⟨13, 8⟩ : Fld).get d) = ns at hlen hns hexec
  generalize hA : rf s mlkIbuf mlkIbufVALUE + 64 * n = a at hin hcode
  have hl1 : (r.take ns).length = ns := by rw [List.length_take]; omega
  have hl2 : (r.drop ns).length = 12 := by rw [List.length_drop]; omega
  have h1 := mlkStoreList_stored (r.take ns) (t := s) (a := a) (by omega) (fun i hi => hcode i (by omega))
  have h2 := mlkStoreList_stored (r.drop ns) (t := mlkStoreList s a (r.take ns)) (a := a + 0x20) (by omega) (fun i hi => by
    rw [h1.beats.arrayCode_eq (by decide), Nat.add_assoc]
    exact hcode _ (by omega))
  have hst := h1.and (by omega) h2
  refine ⟨_, hexec, ?_⟩
  have htake : imageTake s n ns r = onMlk (mlkStoreList (mlkStoreList s a (r.take ns)) (a + 0x20) (r.drop ns)) (fun m => { m with
      got := m.got.filter (fun p => p.1 != n) ++ [(n, ns)] }) := by
    rw [imageTake, hA]
    refine if_neg (show ¬ slotLive (mlkStoreList (mlkStoreList s a (r.take ns)) (a + 0x20) (r.drop ns)) n = true from ?_)
    rw [slotLive_of_beaten hst.2.2.2, hs]
    exact Bool.false_ne_true
  rw [htake]
  generalize mlkStoreList (mlkStoreList s a (r.take ns)) (a + 0x20) (r.drop ns) = w at hst
  obtain ⟨m1, m2, m3, hbeat⟩ := hst
  rw [hl1] at m1
  rw [hl2] at m2 m3
  refine ⟨fun i hi => (m1 i hi).trans ?_, fun i hi => (m2 i hi).trans ?_, fun c hc => m3 c (by omega), ?_, ?_, ?_⟩
  · simp [hi]
  · simp
  · show ({ w.mlk with got := w.mlk.got.filter (fun p => p.1 != n) ++ [(n, ns)] } : Mlk) = _
    rw [hbeat.parts .mlk (by decide)]
  · exact hbeat.storeBeats
  · exact (hbeat.parts.mono (by decide) : SameBut [.mem, .tags, .msys, .regs, .free, .mlk] s w).and (onMlk_sameBut w _)

theorem report_result (ha : Arrives s 5 ws) (hc : mlkCompat s = true) (hr : roleOf s ≠ 5) (hb : frameBody ws = [d, x]) : Runs (.report ws) s (fun t =>
    t.pne = { s.pne with ops := s.pne.ops ++ [⟨1, 0, 1, d.toNat % 2 ^ 25, x, 0, (⟨31, 28⟩ : Fld).get d, 2 * s.port⟩] } ∧ SameBut [.pne] s t) := by
  refine ⟨pneSubmit s ⟨1, 0, 1, d.toNat % 2 ^ 25, x, 0, (⟨31, 28⟩ : Fld).get d, 2 * s.port⟩, ?_, rfl, pne_sameBut s _⟩
  show ok (mlkRecv s 5 ws (onStandby _)) = _
  rw [mlkRecv_standby ha hc hr, hb]
  rfl

end Images

/-- Settles O48: each clause is the result lemma of its command. -/
theorem mirrorLink : Obligations.MirrorLink := by
  unfold Obligations.MirrorLink
  intro s q v ws d x r elig
  exact ⟨fun hon hq => ⟨fun hen => ⟨mlkEnable_done hon hq hen, mlkEnable_refused hon hq hen⟩, mlkArmedWrite_result hon hq, bcStart_starts hon hq,
      bcStart_refused hon hq, bcAbort_result hon hq⟩,
    intervalStart_result, intervalStart_off, mirrorFrames_bad,
    fun ⟨hh, hf, ht⟩ h1 h2 h3 h4 h5 => heartbeat_result ⟨hh, hf, ht⟩ (good := true) (hbGood_of h1 h2 h3 h4) (.inr h5),
    fun ⟨hh, hf, ht⟩ h1 => heartbeat_apart ⟨hh, hf, ht⟩ h1,
    fun ⟨hh, hf, ht⟩ => image_result ⟨hh, hf, ht⟩, fun ⟨hh, hf, ht⟩ => report_result ⟨hh, hf, ht⟩⟩

end Sys2Proof.Machine

/-! Supervisor writes: what a write of a system register leaves, and the rules of a core's system registers (R218, R236). -/

namespace Sys2Proof.Machine

set_option Elab.async false

/-! System registers. -/

theorem Core.sr_setSr (c : Core) (n m : Nat) (v : Word) : (c.setSr n v).sr m = if m = n then v else c.sr m := by
  simp only [Core.sr, Core.setSr, tget_tset]

theorem coreOf_srw (s : State) (k n : Nat) (f : Fld) (v : Nat) : coreOf (srw s k n f v) k = (coreOf s k).setSr n (f.put ((coreOf s k).sr n) v) :=
  coreOf_setCore_same s k _

theorem sr_srw_same (s : State) (k n : Nat) (f : Fld) (v : Nat) : (coreOf (srw s k n f v) k).sr n = f.put ((coreOf s k).sr n) v := by
  rw [coreOf_srw, Core.sr_setSr, if_pos rfl]

theorem sr_srw_other (s : State) (k : Nat) {n m : Nat} (f : Fld) (v : Nat) (h : m ≠ n) : (coreOf (srw s k n f v) k).sr m = (coreOf s k).sr m := by
  rw [coreOf_srw, Core.sr_setSr, if_neg h]

theorem srf_srw_same (s : State) (k n : Nat) {f : Fld} (v : Nat) (hf : f.fits = true) : srf (srw s k n f v) k n f = v % f.span := by
  rw [srf, sr_srw_same, Fld.get_put f hf]

theorem srf_srw_apart (s : State) (k n : Nat) {f g : Fld} (v : Nat) (hf : f.fits = true) (hg : g.fits = true) (h : f.hi < g.lo ∨ g.hi < f.lo) :
    srf (srw s k n f v) k n g = srf s k n g := by
  rw [srf, sr_srw_same, Fld.get_put_apart f g hf hg h, srf]

theorem srf_srw_other (s : State) (k : Nat) {n m : Nat} (f g : Fld) (v : Nat) (h : m ≠ n) : srf (srw s k n f v) k m g = srf s k m g := by
  rw [srf, sr_srw_other s k f v h, srf]

theorem srw_sameBut (s : State) (k n : Nat) (f : Fld) (v : Nat) : SameBut [.cores] s (srw s k n f v) := setCore_sameBut s k _

theorem svcOf_srw (s : State) (k n : Nat) (f : Fld) (v j : Nat) : svcOf (srw s k n f v) j = svcOf s j := rfl

theorem svcOf_setCore (s : State) (k : Nat) (c : Core) (j : Nat) : svcOf (setCore s k c) j = svcOf s j := rfl

theorem svcOf_onSvc_same (s : State) (k : Nat) (f : Svc → Svc) : svcOf (onSvc s k f) k = f (svcOf s k) := tget_tset_same _ _ _ _

theorem svcOf_onSvc_other (s : State) {k j : Nat} (f : Svc → Svc) (h : j ≠ k) : svcOf (onSvc s k f) j = svcOf s j := tget_tset_other _ _ _ _ h

theorem svc_sameBut (s : State) (k : Nat) (f : Svc → Svc) : SameBut [.svc] s (onSvc s k f) := by
  intro p hp; cases p <;> simp [Part.same, onSvc, setSvc] at hp ⊢

/-! What a supervisor's commands leave alone of the cores. -/

/-- Core k's system registers may have changed, and nothing else of the cores or of what their issue looks at. -/
structure SvKept (k : Nat) (s t : State) : Prop where
  regs : RegsOut cptUnits s t
  dbg : t.dbg = s.dbg
  running : t.running = s.running
  others : ∀ j, j ≠ k → coreOf t j = coreOf s j
  core : coreOf t k = { coreOf s k with sreg := (coreOf t k).sreg }

theorem SvKept.refl (k : Nat) (s : State) : SvKept k s s := ⟨fun _ _ => rfl, rfl, rfl, fun _ _ => rfl, rfl⟩

theorem SvKept.trans {k : Nat} {s t u : State} (h : SvKept k s t) (g : SvKept k t u) : SvKept k s u where
  regs a ha := (g.regs a ha).trans (h.regs a ha)
  dbg := g.dbg.trans h.dbg
  running := g.running.trans h.running
  others j hj := (g.others j hj).trans (h.others j hj)
  core := by rw [g.core, h.core]

/-- A change of parts that are not the cores', the registers' or the debug unit's. -/
theorem svKept_parts {l : List Part} {k : Nat} {s t : State} (h : SameBut l s t) (hl : ∀ p ∈ [Part.cores, .regs, .par, .lvl, .dbg, .running], p ∉ l) : SvKept k s t := by
  have hc : t.cores = s.cores := h .cores (hl .cores (by decide))
  have hcore (j : Nat) : coreOf t j = coreOf s j := by rw [coreOf, coreOf, hc]
  have hregs (a : Nat) : rd t a = rd s a := h.rd_eq (hl .regs (by decide)) (hl .par (by decide)) (hl .lvl (by decide)) a
  exact ⟨fun a _ => hregs a, h .dbg (hl .dbg (by decide)), h .running (hl .running (by decide)), fun j _ => hcore j, by rw [hcore]⟩

theorem svKept_cpt {k : Nat} {s t : State} (h : KeepsCpt s t) : SvKept k s t := by
  have hc : t.cores = s.cores := h.parts .cores (by decide)
  have hcore (j : Nat) : coreOf t j = coreOf s j := by rw [coreOf, coreOf, hc]
  exact ⟨h.regs, h.parts .dbg (by decide), h.parts .running (by decide), fun j _ => hcore j, by rw [hcore]⟩

theorem svKept_setSr (s : State) (k n : Nat) (v : Word) : SvKept k s (setCore s k ((coreOf s k).setSr n v)) :=
  ⟨fun _ _ => rfl, rfl, rfl, fun _ hj => coreOf_setCore_other s _ hj, by rw [coreOf_setCore_same]; rfl⟩

theorem svKept_srw (s : State) (k n : Nat) (f : Fld) (v : Nat) : SvKept k s (srw s k n f v) := svKept_setSr s k n _

theorem svKept_onSvc (s : State) (k j : Nat) (f : Svc → Svc) : SvKept k s (onSvc s j f) := svKept_parts (svc_sameBut s j f) (by decide)

theorem SvKept.pdOn_eq {k : Nat} {s t : State} (h : SvKept k s t) {d : Nat} (hd : d < 56) : pdOn t d = pdOn s d := by
  rw [pdOn, pdOn, h.regs.rf_eq (by simp only [pctlPd, cptUnits, List.mem_cons, List.not_mem_nil, or_false]; omega)]

theorem SvKept.coreLive_eq {k : Nat} {s t : State} (h : SvKept k s t) (hk : k < 10) : coreLive t k = coreLive s k :=
  coreLive_congr h.running (h.pdOn_eq (by unfold coreDomain; split <;> omega)) (by rw [h.core]; exact ⟨rfl, rfl, rfl⟩)

/-! A write of a system register that is made (R218). -/

/-- State y follows x, in which a write of a system register was made, after the instruction. -/
structure SrWritten (k : Nat) (ws : List Word) (u x y : State) : Prop where
  operands : operands y k = ws
  pc : (coreOf y k).pc = pcAdd (coreOf u k).pc 2
  srs : ∀ n, (coreOf y k).sr n = (coreOf x k).sr n
  same : SameBut [.cores, .dbg] x y

theorem SrWritten.srf_eq {k : Nat} {ws : List Word} {u x y : State} (h : SrWritten k ws u x y) (n : Nat) (f : Fld) : srf y k n f = srf x k n f := by
  rw [srf, h.srs, srf]

theorem SrWritten.svcOf_eq {k : Nat} {ws : List Word} {u x y : State} (h : SrWritten k ws u x y) (j : Nat) : svcOf y j = svcOf x j := by
  rw [svcOf, h.same .svc (by decide), svcOf]

theorem svKept_setCore_self (s : State) (k : Nat) : SvKept k s (setCore s k (coreOf s k)) :=
  ⟨fun _ _ => rfl, rfl, rfl, fun _ hj => coreOf_setCore_other s _ hj, by rw [coreOf_setCore_same]⟩

theorem issued_kept (s : State) (k n : Nat) : SvKept k (fetched s k n) (issued s k n) := svKept_setCore_self (fetched s k n) k

theorem wrsr_completes {s x : State} {k : Nat} {ps : Fin 8} {sn : Bool} {t : Fin 16} {n : BitVec 9} {v : Word} {ws : List Word} {c : Instr} (hk : k < 10)
    (h : IssuesLong s k ps sn (v :: ws)) (hn : n.toNat ≠ 4) (he : exec c s = runIns k (insWrsr ps sn t n) s)
    (hw : writeSr (issued s k 2) k n.toNat ((bankOf (fetched s k 2) k).tok t.val) v = .ok x) (hx : SvKept k (fetched s k 2) x) :
    Runs c s (SrWritten k ws (fetched s k 2) x) := by
  obtain ⟨hissues, hbad, hpass⟩ := h
  have htos : (bankOf (fetched s k 2) k).peek 0 = v := hissues.tos
  have hready := hissues.ready
  obtain ⟨hlive, -, -, -, -, hwp, -⟩ := (coreReady_iff _ k).1 hready
  have hlen := hissues.length_le
  have hcur : (coreOf x k).cur = bankOf (fetched s k 2) k := by rw [hx.core]; rfl
  have hbody : (insWrsr ps sn t n).body (issued s k 2) k (issueCycle s k (insWrsr ps sn t n)) = .done (onBank x k (fun b => b.drop 1)) 2 := by
    show wrsrBody t.val n.toNat (issued s k 2) k _ = _
    rw [wrsrBody, if_neg hn]
    dsimp only
    rw [bankOf_issued, htos, hw]
  have hb : (coreOf (onBank x k (fun b => b.drop 1)) k).between = true := by
    rw [onBank, coreOf_setCore_same, hx.core]
    exact between_withCur (fetched s k 2) k (fun b => b.drop 1) hready rfl rfl
  have hl : coreLive (onBank x k (fun b => b.drop 1)) k = true := by
    refine (coreLive_setCore x k _ ((hx.coreLive_eq hk).trans hlive) rfl rfl rfl)
  obtain ⟨e, p, hfin⟩ := finish_done_eq (fetched s k 2) (onBank x k (fun b => b.drop 1)) k (issueCycle s k (insWrsr ps sn t n))
    (pairsNow (coreOf s k) (insWrsr ps sn t n)) (insWrsr ps sn t n) 2 hb hl (by rw [show (onBank x k (fun b => b.drop 1)).dbg = x.dbg from rfl, hx.dbg]; exact hwp)
  refine ⟨completed (onBank x k (fun b => b.drop 1)) k 2 e p, ?_, ?_⟩
  · rw [he, runIns_body s k (insWrsr ps sn t n) (v :: ws) hissues hbad (fun p q hs => lgGuard_pass hpass p q hs) (by exact Nat.succ_le_succ (Nat.zero_le _))
      (by show (v :: ws).length - 1 + 0 ≤ 32; omega)]
    show Host.Outcome.next (finish (fetched s k 2) k _ _ _ ((insWrsr ps sn t n).body (issued s k 2) k _)) = _
    rw [hbody, hfin]
    rfl
  have hcore : coreOf (completed (onBank x k (fun b => b.drop 1)) k 2 e p) k =
      { (coreOf x k).withCur (fun b => b.drop 1) with pc := pcAdd (coreOf x k).pc 2, cyc := e, prev := p } := by
    rw [coreOf_completed_same, onBank, coreOf_setCore_same]
    rfl
  refine ⟨?_, ?_, fun m => ?_, ?_⟩
  · rw [operands, bankOf, hcore]
    show (((coreOf x k).withCur (fun b => b.drop 1)).cur).stack = ws
    rw [Core.cur_withCur, hcur, Bank.stack_drop, show (bankOf (fetched s k 2) k).stack = v :: ws from hissues.2.1]
    rfl
  · rw [hcore, hx.core]
  · rw [hcore]
    rfl
  · exact ((setCore_sameBut x k _).mono (by decide) : SameBut [.cores, .dbg] x _).trans (completed_sameBut _ k 2 e p)

/-! A supervisor's registers, written with a token that controls the core. -/

section Writes

variable {s : State} {k : Nat} {T : Tok}

theorem isSv_of_le (h : 8 ≤ k) : isSv k = true := decide_eq_true h

theorem coreControl_of (h1 : T.tag = true) (h2 : T.otype = 0x20) : coreControl T = true := by rw [coreControl, h1, h2]; rfl

theorem writeSr_l2cfg (hk : isSv k = true) (hT : coreControl T = true) (v : Word) : writeSr s k srL2cfg T v = .ok (l2cfgWrite s k v) := by
  simp [writeSr, hk, hT, srL2cfg, srSts]

theorem writeSr_cmop (hk : isSv k = true) (hT : coreControl T = true) (v : Word) : writeSr s k srCmop T v = cmopWrite s k ((Fld.mk 2 0).get v) := by
  simp [writeSr, hk, hT, srCmop, srL2cfg, srSts]

theorem writeSr_tlbcmd (hk : isSv k = true) (hT : coreControl T = true) (v : Word) : writeSr s k srTlbcmd T v = tlbcmdWrite s k v := by
  simp [writeSr, hk, hT, srTlbcmd, srCmop, srL2cfg, srSts]

/-- The state with a register written under its mask. -/
def srMerged (s : State) (k n : Nat) (v : Word) : State := setCore s k ((coreOf s k).setSr n (srMerge ((coreOf s k).sr n) v (srWritable k n).1))

theorem writeSr_tlbctl (hk : isSv k = true) (hT : coreControl T = true) (hq : (coreOf s k).reqs = []) (v : Word) :
    writeSr s k srTlbctl T v = .ok (dropPrefetches (srMerged s k srTlbctl v) k) := by
  simp [writeSr, hk, hT, hq, srTlbctl, srTlbcmd, srCmop, srL2cfg, srSts, srCtrl, srMerged]

theorem writeSr_wayen (hk : isSv k = true) (hT : coreControl T = true) (v : Word) :
    writeSr s k srWayen T v = .ok (waySync (srMerged s k srWayen v) k) := by
  simp [writeSr, hk, hT, srWayen, srTlbctl, srTlbcmd, srCmop, srL2cfg, srSts, srCtrl, srMerged]

theorem writeSr_ctrl (hk : isSv k = true) (hT : coreControl T = true) (v : Word) : writeSr s k srCtrl T v =
    .ok (cacheSync (if (svcOf (srMerged s k srCtrl v) k).stream then streamEnd (srMerged s k srCtrl v) k else srMerged s k srCtrl v) k) := by
  simp [writeSr, hk, hT, srTlbctl, srTlbcmd, srCmop, srL2cfg, srSts, srCtrl, srMerged]
  rfl

end Writes

theorem Fld.get_srMerge {f : Fld} {m : Word} (h : ∀ j < f.hi + 1 - f.lo, m.getLsbD (f.lo + j) = true) (old v : Word) : f.get (srMerge old v m) = f.get v := by
  refine Nat.eq_of_testBit_eq (fun j => ?_)
  rw [Fld.testBit_get, Fld.testBit_get]
  by_cases hj : j < f.hi + 1 - f.lo
  · simp [srMerge, h j hj]
  · rw [decide_eq_false hj, Bool.false_and, Bool.false_and]

theorem Fld.get_srMerge_kept {f : Fld} {m : Word} (hf : f.hi < 48) (h : ∀ j < f.hi + 1 - f.lo, m.getLsbD (f.lo + j) = false) (old v : Word) :
    f.get (srMerge old v m) = f.get old := by
  refine Nat.eq_of_testBit_eq (fun j => ?_)
  rw [Fld.testBit_get, Fld.testBit_get]
  by_cases hj : j < f.hi + 1 - f.lo
  · simp only [srMerge, BitVec.getLsbD_or, BitVec.getLsbD_and, BitVec.getLsbD_not, h j hj, Bool.and_false, Bool.or_false, Bool.not_false, Bool.and_true]
    rw [decide_eq_true (show f.lo + j < 48 by omega), Bool.and_true]
  · rw [decide_eq_false hj, Bool.false_and, Bool.false_and]

theorem srMerged_kept (s : State) (k n : Nat) (v : Word) : SvKept k s (srMerged s k n v) := svKept_setSr s k n _

theorem srMerged_sameBut (s : State) (k n : Nat) (v : Word) : SameBut [.cores] s (srMerged s k n v) := setCore_sameBut s k _

theorem srf_srMerged (s : State) (k n : Nat) (v : Word) (f : Fld) :
    srf (srMerged s k n v) k n f = f.get (srMerge ((coreOf s k).sr n) v (srWritable k n).1) := by
  rw [srf, srMerged, coreOf_setCore_same, Core.sr_setSr, if_pos rfl]

theorem sr_srMerged_other (s : State) (k : Nat) {n m : Nat} (v : Word) (h : m ≠ n) : (coreOf (srMerged s k n v) k).sr m = (coreOf s k).sr m := by
  rw [srMerged, coreOf_setCore_same, Core.sr_setSr, if_neg h]

/-! The TLB (R302 to R305). -/

theorem tlbEntry_setTlb (s : State) (k i : Nat) (hi lo : Word) (j : Nat) : tlbEntry (setTlb s k i hi lo) k j = if j = i then (hi, lo) else tlbEntry s k j := by
  have h : svcOf (setTlb s k i hi lo) k = { svcOf s k with tlb := tset (0, 0) (svcOf s k).tlb i (hi, lo) } := tget_tset_same _ _ _ _
  rw [tlbEntry, h, tlbEntry, tget_tset]

theorem setTlb_sameBut (s : State) (k i : Nat) (hi lo : Word) : SameBut [.svc] s (setTlb s k i hi lo) :=
  svc_sameBut s k (fun v => { v with tlb := tset (0, 0) v.tlb i (hi, lo) })

theorem tlbV_cleared (w : Word) : tlbV (setBit w 7 false) = false := by rw [tlbV, bitOf, getLsbD_setBit w (by decide), if_pos rfl]

/-- A step of an invalidation. -/
def tlbInvOne (k : Nat) (p : Word → Bool) (t : State) (e : Nat) : State :=
  if p (tlbEntry t k e).1 then setTlb t k e (setBit (tlbEntry t k e).1 7 false) (tlbEntry t k e).2 else t

theorem tlbInvOne_sameBut (k : Nat) (p : Word → Bool) (t : State) (e : Nat) : SameBut [.svc] t (tlbInvOne k p t e) := by
  unfold tlbInvOne
  split
  · exact setTlb_sameBut t k e _ _
  · exact SameBut.refl _ t

/-- An entry after an invalidation of the entries that satisfy p. -/
def tlbCleared (p : Word → Bool) (x : Word × Word) : Word × Word := if p x.1 then (setBit x.1 7 false, x.2) else x

theorem tlbEntry_invOne (k : Nat) (p : Word → Bool) (t : State) (e j : Nat) : tlbEntry (tlbInvOne k p t e) k j =
    if j = e then tlbCleared p (tlbEntry t k j) else tlbEntry t k j := by
  unfold tlbInvOne tlbCleared
  by_cases hj : j = e
  · subst hj
    rw [if_pos rfl]
    split
    · rw [tlbEntry_setTlb, if_pos rfl]
    · rfl
  · rw [if_neg hj]
    split
    · rw [tlbEntry_setTlb, if_neg hj]
    · rfl

theorem tlbEntry_invFold (k : Nat) (p : Word → Bool) (s : State) (n j : Nat) : tlbEntry ((List.range n).foldl (tlbInvOne k p) s) k j =
    if j < n then tlbCleared p (tlbEntry s k j) else tlbEntry s k j := by
  induction n with
  | zero => rfl
  | succ n ih =>
    rw [List.range_succ, List.foldl_append]
    show tlbEntry (tlbInvOne k p _ n) k j = _
    rw [tlbEntry_invOne, ih]
    by_cases hj : j = n
    · rw [if_pos hj, if_neg (by omega), if_pos (by omega)]
    · rw [if_neg hj]
      exact if_congr (by omega) rfl rfl

theorem tlbEntry_tlbInv (s : State) (k : Nat) (p : Word → Bool) {j : Nat} (hj : j < 64) : tlbEntry (tlbInv s k p) k j = tlbCleared p (tlbEntry s k j) :=
  (tlbEntry_invFold k p s 64 j).trans (if_pos hj)

theorem tlbInv_sameBut (s : State) (k : Nat) (p : Word → Bool) : SameBut [.svc] s (tlbInv s k p) :=
  SameBut.foldl (List.range 64) s (fun t e => tlbInvOne_sameBut k p t e)

theorem tlbV_tlbInv (s : State) (k : Nat) (p : Word → Bool) {j : Nat} (hj : j < 64) :
    tlbV (tlbEntry (tlbInv s k p) k j).1 = (tlbV (tlbEntry s k j).1 && !p (tlbEntry s k j).1) := by
  rw [tlbEntry_tlbInv s k p hj, tlbCleared]
  split
  · next hp => rw [tlbV_cleared, hp, Bool.not_true, Bool.and_false]
  · next hp => rw [Bool.eq_false_iff.2 hp, Bool.not_false, Bool.and_true]

/-- TLBCMD's answer. -/
def tlbAnswered (s : State) (k i r : Nat) : State := srw (srw s k srTlbcmd ⟨19, 16⟩ r) k srTlbcmd ⟨13, 8⟩ i

theorem tlbAnswered_status (s : State) (k i r : Nat) : srf (tlbAnswered s k i r) k srTlbcmd ⟨19, 16⟩ = r % 16 :=
  (srf_srw_apart _ k srTlbcmd i rfl rfl (by decide)).trans (srf_srw_same s k srTlbcmd r rfl)

theorem tlbAnswered_sr (s : State) (k i r : Nat) {n : Nat} (h : n ≠ srTlbcmd) : (coreOf (tlbAnswered s k i r) k).sr n = (coreOf s k).sr n :=
  (sr_srw_other _ k _ _ h).trans (sr_srw_other s k _ _ h)

theorem tlbAnswered_kept (s : State) (k i r : Nat) : SvKept k s (tlbAnswered s k i r) := (svKept_srw s k _ _ _).trans (svKept_srw _ k _ _ _)

theorem tlbAnswered_sameBut (s : State) (k i r : Nat) : SameBut [.cores] s (tlbAnswered s k i r) := (srw_sameBut s k _ _ _).trans (srw_sameBut _ k _ _ _)

theorem tlbEntry_answered (s : State) (k i r j : Nat) : tlbEntry (tlbAnswered s k i r) k j = tlbEntry s k j := rfl

theorem tlbEntry_congr {s t : State} {k : Nat} (h : svcOf t k = svcOf s k) (j : Nat) : tlbEntry t k j = tlbEntry s k j := by rw [tlbEntry, h, tlbEntry]

theorem tlbRefusal_congr {s t : State} {k : Nat} (h : ∀ j, tlbEntry t k j = tlbEntry s k j) (i : Nat) (hi lo : Word) :
    tlbRefusal t k i hi lo = tlbRefusal s k i hi lo := by simp only [tlbRefusal, h]

theorem tlbEntry_issued (s : State) (k n j e : Nat) : tlbEntry (issued s k n) j e = tlbEntry (fetched s k n) j e := tlbEntry_congr (svcOf_issued s k n j) e

theorem tlbRefusal_issued (s : State) (k n j i : Nat) (hi lo : Word) : tlbRefusal (issued s k n) j i hi lo = tlbRefusal (fetched s k n) j i hi lo :=
  tlbRefusal_congr (tlbEntry_issued s k n j) i hi lo

theorem tlbOp_eq (v : Word) : (Fld.mk 2 0).get v = v.toNat % 8 := by simp [Fld.get, Fld.span]

theorem tlbIndex_eq (v : Word) : (Fld.mk 13 8).get v = v.toNat / 2 ^ 8 % 64 := by simp [Fld.get, Fld.span, Nat.shiftRight_eq_div_pow]

theorem tlbcmdWrite_keeps {s : State} {k : Nat} {v : Word} {op : Nat} (hop : v.toNat % 8 = op)
    (h : op = 1 ∨ op = 3 ∨ op = 2 ∧ tlbV ((coreOf s k).sr srTlbhi) = true) :
    tlbcmdWrite s k v = .ok (tlbCommand s k op (v.toNat / 2 ^ 8 % 64)) := by
  rw [tlbcmdWrite, tlbOp_eq, tlbIndex_eq, hop]
  rcases h with rfl | rfl | ⟨rfl, h⟩
  · rfl
  · rfl
  · rw [h]
    rfl

theorem tlbcmdWrite_clears {s : State} {k : Nat} {v : Word} {op : Nat} (hop : v.toNat % 8 = op) (hq : (coreOf s k).reqs = [])
    (h : op = 4 ∨ op = 5 ∨ op = 2 ∧ tlbV ((coreOf s k).sr srTlbhi) = false) :
    tlbcmdWrite s k v = .ok (tlbCommand (dropPrefetches s k) k op (v.toNat / 2 ^ 8 % 64)) := by
  rw [tlbcmdWrite, tlbOp_eq, tlbIndex_eq, hop, hq]
  rcases h with rfl | rfl | ⟨rfl, h⟩
  · rfl
  · rfl
  · rw [h]
    rfl

theorem svcOf_dropPrefetches_same (s : State) (k : Nat) : svcOf (dropPrefetches s k) k = { svcOf s k with pfq := [] } := svcOf_onSvc_same s k _

theorem svcOf_dropPrefetches_other (s : State) {k j : Nat} (h : j ≠ k) : svcOf (dropPrefetches s k) j = svcOf s j := svcOf_onSvc_other s _ h

theorem tlbEntry_dropPrefetches (s : State) (k j : Nat) : tlbEntry (dropPrefetches s k) k j = tlbEntry s k j := by
  rw [tlbEntry, dropPrefetches, svcOf_onSvc_same, tlbEntry]

theorem tlbFind_lt {s : State} {k asid va e : Nat} (h : tlbFind s k asid va = some e) : e < 64 := List.mem_range.1 (List.mem_of_find?_eq_some h)

theorem tlbRefusal_lt (s : State) (k i : Nat) (hi lo : Word) : tlbRefusal s k i hi lo < 16 := by
  unfold tlbRefusal
  dsimp only
  repeat' split
  all_goals omega

theorem tlbRead_regs (s : State) (k i : Nat) : (coreOf (tlbCommand s k 1 i) k).sr srTlbhi = (tlbEntry s k i).1 ∧
    (coreOf (tlbCommand s k 1 i) k).sr srTlblo = (tlbEntry s k i).2 ∧ srf (tlbCommand s k 1 i) k srTlbcmd ⟨19, 16⟩ = 0 ∧
    SvKept k s (tlbCommand s k 1 i) ∧ SameBut [.cores] s (tlbCommand s k 1 i) := by
  have he : tlbCommand s k 1 i = tlbAnswered (setCore s k (((coreOf s k).setSr srTlbhi (tlbEntry s k i).1).setSr srTlblo (tlbEntry s k i).2)) k i 0 := rfl
  rw [he]
  refine ⟨?_, ?_, tlbAnswered_status _ k i 0, SvKept.trans ?_ (tlbAnswered_kept _ k i 0), (setCore_sameBut s k _).trans (tlbAnswered_sameBut _ k i 0)⟩
  · rw [tlbAnswered_sr _ k i 0 (by decide), coreOf_setCore_same, Core.sr_setSr, if_neg (by decide), Core.sr_setSr, if_pos rfl]
  · rw [tlbAnswered_sr _ k i 0 (by decide), coreOf_setCore_same, Core.sr_setSr, if_pos rfl]
  · exact ⟨fun _ _ => rfl, rfl, rfl, fun _ hj => coreOf_setCore_other s _ hj, by rw [coreOf_setCore_same]; rfl⟩

theorem tlbWrite_regs (s : State) (k i : Nat) {hi lo : Word} {r : Nat} (hhi : (coreOf s k).sr srTlbhi = hi) (hlo : (coreOf s k).sr srTlblo = lo)
    (hr : r = if tlbV hi then tlbRefusal s k i hi lo else 0) :
    (∀ j, tlbEntry (tlbCommand s k 2 i) k j = if j = i ∧ r = 0 then (hi, lo) else tlbEntry s k j) ∧ srf (tlbCommand s k 2 i) k srTlbcmd ⟨19, 16⟩ = r ∧
    SvKept k s (tlbCommand s k 2 i) ∧ SameBut [.cores, .svc] s (tlbCommand s k 2 i) := by
  have he : tlbCommand s k 2 i = tlbAnswered (if r = 0 then setTlb s k i hi lo else s) k i r := by
    rw [hr, ← hhi, ← hlo]
    rfl
  have hlt : r < 16 := by
    rw [hr]
    split
    · exact tlbRefusal_lt s k i hi lo
    · decide
  have hpart : SameBut [.svc] s (if r = 0 then setTlb s k i hi lo else s) := by
    split
    · exact setTlb_sameBut s k i hi lo
    · exact SameBut.refl _ s
  rw [he]
  refine ⟨fun j => ?_, (tlbAnswered_status _ k i r).trans (Nat.mod_eq_of_lt hlt), (svKept_parts hpart (by decide)).trans (tlbAnswered_kept _ k i r),
    (hpart.mono (by decide)).trans ((tlbAnswered_sameBut _ k i r).mono (by decide))⟩
  rw [tlbEntry_answered]
  by_cases h0 : r = 0
  · rw [if_pos h0, tlbEntry_setTlb]
    exact if_congr (by simp [h0]) rfl rfl
  · rw [if_neg h0, if_neg (fun h => h0 h.2)]

theorem tlbProbe_found {s : State} {k e : Nat} (i : Nat)
    (h : tlbFind s k (tlbAsid ((coreOf s k).sr srTlbhi)) (((coreOf s k).sr srTlbhi).toNat / 2 ^ 12 * 2 ^ 12) = some e) :
    tlbCommand s k 3 i = srw (tlbAnswered s k i 0) k srTlbcmd ⟨13, 8⟩ e := by
  rw [tlbCommand]
  dsimp only
  rw [h]
  rfl

theorem tlbProbe_missed {s : State} {k : Nat} (i : Nat)
    (h : tlbFind s k (tlbAsid ((coreOf s k).sr srTlbhi)) (((coreOf s k).sr srTlbhi).toNat / 2 ^ 12 * 2 ^ 12) = none) :
    tlbCommand s k 3 i = tlbAnswered s k i 5 := by
  rw [tlbCommand]
  dsimp only
  rw [h]
  rfl

theorem tlbProbe_regs (s : State) (k i : Nat) {r : Option Nat}
    (h : tlbFind s k (tlbAsid ((coreOf s k).sr srTlbhi)) (((coreOf s k).sr srTlbhi).toNat / 2 ^ 12 * 2 ^ 12) = r) :
    srf (tlbCommand s k 3 i) k srTlbcmd ⟨19, 16⟩ = (if r = none then 5 else 0) ∧ (∀ e, r = some e → srf (tlbCommand s k 3 i) k srTlbcmd ⟨13, 8⟩ = e) ∧
    SvKept k s (tlbCommand s k 3 i) ∧ SameBut [.cores] s (tlbCommand s k 3 i) := by
  cases r with
  | none =>
    rw [tlbProbe_missed i h]
    exact ⟨tlbAnswered_status s k i 5, fun _ he => (nomatch he), tlbAnswered_kept s k i 5, tlbAnswered_sameBut s k i 5⟩
  | some e =>
    rw [tlbProbe_found i h]
    refine ⟨(srf_srw_apart _ k srTlbcmd e rfl rfl (by decide)).trans (tlbAnswered_status s k i 0), fun e' he => ?_,
      (tlbAnswered_kept s k i 0).trans (svKept_srw _ k _ _ _), (tlbAnswered_sameBut s k i 0).trans (srw_sameBut _ k _ _ _)⟩
    cases he
    exact (srf_srw_same _ k srTlbcmd e rfl).trans (Nat.mod_eq_of_lt (tlbFind_lt h))

/-- TLBINVALL (op 4) and TLBINVASID (op 5). -/
theorem tlbInv_regs {s x : State} {k i : Nat} {p : Word → Bool} (hx : x = tlbAnswered (tlbInv s k p) k i 0) :
    (∀ e < 64, tlbV (tlbEntry x k e).1 = (tlbV (tlbEntry s k e).1 && !p (tlbEntry s k e).1)) ∧ srf x k srTlbcmd ⟨19, 16⟩ = 0 ∧
    SvKept k s x ∧ SameBut [.cores, .svc] s x := by
  subst hx
  have hpart := tlbInv_sameBut s k p
  refine ⟨fun e he => ?_, tlbAnswered_status _ k i 0, (svKept_parts hpart (by decide)).trans (tlbAnswered_kept _ k i 0),
    (hpart.mono (by decide)).trans ((tlbAnswered_sameBut _ k i 0).mono (by decide))⟩
  rw [tlbEntry_answered, tlbV_tlbInv s k p he]

theorem dropPrefetches_kept (s : State) (k : Nat) : SvKept k s (dropPrefetches s k) := svKept_onSvc s k k _

theorem dropPrefetches_sameBut (s : State) (k : Nat) : SameBut [.svc] s (dropPrefetches s k) := svc_sameBut s k _

/-- Supervisor k issues a write of v with a token that controls the core. -/
structure SvWrites (s : State) (k : Fin 2) (ps : Fin 8) (sn : Bool) (t : Fin 16) (v : Word) (ws : List Word) : Prop where
  issues : IssuesLong s (8 + k.val) ps sn (v :: ws)
  top : (bankOf s (8 + k.val)).peek 0 = v
  tag : ((bankOf (fetched s (8 + k.val) 2) (8 + k.val)).tok t.val).tag = true
  otype : ((bankOf (fetched s (8 + k.val) 2) (8 + k.val)).tok t.val).otype = 0x20

section Tlb

variable {s : State} {k : Fin 2} {ps : Fin 8} {sn : Bool} {t : Fin 16} {v : Word} {ws : List Word}

theorem SvWrites.control (h : SvWrites s k ps sn t v ws) : coreControl ((bankOf (fetched s (8 + k.val) 2) (8 + k.val)).tok t.val) = true :=
  coreControl_of h.tag h.otype

theorem SvWrites.completes (h : SvWrites s k ps sn t v ws) {n : BitVec 9} {c : Instr} {f : Word → Bool} {x : State}
    (he : exec c s = wrsrWhen (8 + k.val) ps sn t n f s) (hf : f v = true) (hn : n.toNat ≠ 4)
    (hw : writeSr (issued s (8 + k.val) 2) (8 + k.val) n.toNat ((bankOf (fetched s (8 + k.val) 2) (8 + k.val)).tok t.val) v = .ok x)
    (hx : SvKept (8 + k.val) (issued s (8 + k.val) 2) x) : Runs c s (SrWritten (8 + k.val) ws (fetched s (8 + k.val) 2) x) := by
  refine wrsr_completes (by omega) h.issues hn (he.trans ?_) hw ((issued_kept s _ 2).trans hx)
  rw [wrsrWhen, whenTop, h.top, if_pos hf]

theorem SvWrites.tlbcmd (h : SvWrites s k ps sn t v ws) {c : Instr} {f : Word → Bool} {x : State}
    (he : exec c s = wrsrWhen (8 + k.val) ps sn t 0x52 f s) (hf : f v = true)
    (hw : tlbcmdWrite (issued s (8 + k.val) 2) (8 + k.val) v = .ok x) (hx : SvKept (8 + k.val) (issued s (8 + k.val) 2) x) :
    Runs c s (SrWritten (8 + k.val) ws (fetched s (8 + k.val) 2) x) :=
  h.completes he hf (by decide) ((writeSr_tlbcmd (isSv_of_le (Nat.le_add_right 8 _)) h.control v).trans hw) hx

theorem SrWritten.sameBut {k : Nat} {ws : List Word} {s x y : State} {l : List Part} (h : SrWritten k ws (fetched s k 2) x y)
    (hx : SameBut l (issued s k 2) x) : SameBut (.cores :: .dbg :: l) (fetched s k 2) y :=
  (((issued_sameBut s k 2).mono (by simp)).trans (hx.mono (by simp_all))).trans (h.same.mono (by simp))

theorem SrWritten.entry {k : Nat} {ws : List Word} {u x y : State} (h : SrWritten k ws u x y) (j : Nat) : tlbEntry y k j = tlbEntry x k j :=
  tlbEntry_congr (h.svcOf_eq k) j

theorem tlbRead_result (h : SvWrites s k ps sn t v ws) (hop : v.toNat % 8 = 1) : Runs (.tlbRead k ps sn t) s (fun y =>
    operands y (8 + k.val) = ws ∧ (coreOf y (8 + k.val)).pc = pcAdd (coreOf (fetched s (8 + k.val) 2) (8 + k.val)).pc 2 ∧
    srf y (8 + k.val) srTlbcmd ⟨19, 16⟩ = 0 ∧
    (coreOf y (8 + k.val)).sr srTlbhi = (tlbEntry (fetched s (8 + k.val) 2) (8 + k.val) (v.toNat / 2 ^ 8 % 64)).1 ∧
    (coreOf y (8 + k.val)).sr srTlblo = (tlbEntry (fetched s (8 + k.val) 2) (8 + k.val) (v.toNat / 2 ^ 8 % 64)).2 ∧
    SameBut [.cores, .dbg] (fetched s (8 + k.val) 2) y) := by
  obtain ⟨h1, h2, h3, hk, hs⟩ := tlbRead_regs (issued s (8 + k.val) 2) (8 + k.val) (v.toNat / 2 ^ 8 % 64)
  rw [tlbEntry_issued] at h1 h2
  obtain ⟨y, he, hy⟩ := h.tlbcmd (c := .tlbRead k ps sn t) (f := fun w => (Fld.mk 2 0).get w == 1) rfl (beq_iff_eq.2 ((tlbOp_eq v).trans hop)) (tlbcmdWrite_keeps hop (.inl rfl)) hk
  exact ⟨y, he, hy.operands, hy.pc, (hy.srf_eq _ _).trans h3, (hy.srs _).trans h1, (hy.srs _).trans h2, (hy.sameBut hs).mono (by decide)⟩

theorem tlbWrite_result (h : SvWrites s k ps sn t v ws) (hop : v.toNat % 8 = 2) {hi lo : Word} {r : Nat}
    (hhi : (coreOf (fetched s (8 + k.val) 2) (8 + k.val)).sr srTlbhi = hi) (hlo : (coreOf (fetched s (8 + k.val) 2) (8 + k.val)).sr srTlblo = lo)
    (hq : tlbV hi = false → (coreOf (fetched s (8 + k.val) 2) (8 + k.val)).reqs = [])
    (hr : r = if tlbV hi then tlbRefusal (fetched s (8 + k.val) 2) (8 + k.val) (v.toNat / 2 ^ 8 % 64) hi lo else 0) :
    Runs (.tlbWrite k ps sn t) s (fun y =>
      operands y (8 + k.val) = ws ∧ (coreOf y (8 + k.val)).pc = pcAdd (coreOf (fetched s (8 + k.val) 2) (8 + k.val)).pc 2 ∧
      srf y (8 + k.val) srTlbcmd ⟨19, 16⟩ = r ∧
      (∀ j, tlbEntry y (8 + k.val) j = if j = v.toNat / 2 ^ 8 % 64 ∧ r = 0 then (hi, lo) else tlbEntry (fetched s (8 + k.val) 2) (8 + k.val) j) ∧
      SameBut [.cores, .dbg, .svc] (fetched s (8 + k.val) 2) y) := by
  have hhi' : (coreOf (issued s (8 + k.val) 2) (8 + k.val)).sr srTlbhi = hi := by rw [coreOf_issued]; exact hhi
  have hlo' : (coreOf (issued s (8 + k.val) 2) (8 + k.val)).sr srTlblo = lo := by rw [coreOf_issued]; exact hlo
  have hent := tlbEntry_issued s (8 + k.val) 2 (8 + k.val)
  rw [← tlbRefusal_issued s _ 2] at hr
  simp only [← hent]
  cases hv : tlbV hi with
  | true =>
    obtain ⟨h1, h2, hk, hs⟩ := tlbWrite_regs (issued s (8 + k.val) 2) (8 + k.val) (v.toNat / 2 ^ 8 % 64) hhi' hlo' hr
    obtain ⟨y, he, hy⟩ := h.tlbcmd (c := .tlbWrite k ps sn t) (f := fun w => (Fld.mk 2 0).get w == 2) rfl (beq_iff_eq.2 ((tlbOp_eq v).trans hop))
      (tlbcmdWrite_keeps hop (.inr (.inr ⟨rfl, by rw [hhi', hv]⟩))) hk
    exact ⟨y, he, hy.operands, hy.pc, (hy.srf_eq _ _).trans h2, fun j => (hy.entry j).trans (h1 j), (hy.sameBut hs).mono (by decide)⟩
  | false =>
    have hdrop := tlbEntry_dropPrefetches (issued s (8 + k.val) 2) (8 + k.val)
    obtain ⟨h1, h2, hk, hs⟩ := tlbWrite_regs (dropPrefetches (issued s (8 + k.val) 2) (8 + k.val)) (8 + k.val) (v.toNat / 2 ^ 8 % 64) (r := r) hhi' hlo'
      (by rw [hr, hv]; rfl)
    obtain ⟨y, he, hy⟩ := h.tlbcmd (c := .tlbWrite k ps sn t) (f := fun w => (Fld.mk 2 0).get w == 2) rfl (beq_iff_eq.2 ((tlbOp_eq v).trans hop))
      (tlbcmdWrite_clears hop (by rw [coreOf_issued]; exact hq hv) (.inr (.inr ⟨rfl, by rw [hhi', hv]⟩))) ((dropPrefetches_kept _ _).trans hk)
    refine ⟨y, he, hy.operands, hy.pc, (hy.srf_eq _ _).trans h2, fun j => (hy.entry j).trans ((h1 j).trans ?_),
      (hy.sameBut (((dropPrefetches_sameBut _ _).mono (by decide)).trans hs)).mono (by decide)⟩
    rw [hdrop]

theorem tlbProbe_result (h : SvWrites s k ps sn t v ws) (hop : v.toNat % 8 = 3) {hi : Word} {r : Option Nat}
    (hhi : (coreOf (fetched s (8 + k.val) 2) (8 + k.val)).sr srTlbhi = hi)
    (hr : tlbFind (fetched s (8 + k.val) 2) (8 + k.val) (tlbAsid hi) (hi.toNat / 2 ^ 12 * 2 ^ 12) = r) : Runs (.tlbProbe k ps sn t) s (fun y =>
      operands y (8 + k.val) = ws ∧ (coreOf y (8 + k.val)).pc = pcAdd (coreOf (fetched s (8 + k.val) 2) (8 + k.val)).pc 2 ∧
      srf y (8 + k.val) srTlbcmd ⟨19, 16⟩ = (if r = none then 5 else 0) ∧ (∀ e, r = some e → srf y (8 + k.val) srTlbcmd ⟨13, 8⟩ = e) ∧
      SameBut [.cores, .dbg] (fetched s (8 + k.val) 2) y) := by
  obtain ⟨h1, h2, hk, hs⟩ := tlbProbe_regs (issued s (8 + k.val) 2) (8 + k.val) (v.toNat / 2 ^ 8 % 64) (r := r) (by
    rw [coreOf_issued, hhi]
    exact hr)
  obtain ⟨y, he, hy⟩ := h.tlbcmd (c := .tlbProbe k ps sn t) (f := fun w => (Fld.mk 2 0).get w == 3) rfl (beq_iff_eq.2 ((tlbOp_eq v).trans hop)) (tlbcmdWrite_keeps hop (.inr (.inl rfl))) hk
  exact ⟨y, he, hy.operands, hy.pc, (hy.srf_eq _ _).trans h1, fun e h => (hy.srf_eq _ _).trans (h2 e h), (hy.sameBut hs).mono (by decide)⟩

/-- TLBINVALL and TLBINVASID: the entries that satisfy p are invalid. -/
theorem tlbClear_result (h : SvWrites s k ps sn t v ws) {op : Nat} (hop : v.toNat % 8 = op) (h45 : op = 4 ∨ op = 5) {c : Instr} {f : Word → Bool}
    {p : Word → Bool} (hc : exec c s = wrsrWhen (8 + k.val) ps sn t 0x52 f s) (hf : f v = true)
    (hp : tlbCommand (dropPrefetches (issued s (8 + k.val) 2) (8 + k.val)) (8 + k.val) op (v.toNat / 2 ^ 8 % 64) =
      tlbAnswered (tlbInv (dropPrefetches (issued s (8 + k.val) 2) (8 + k.val)) (8 + k.val) p) (8 + k.val) (v.toNat / 2 ^ 8 % 64) 0)
    (hq : (coreOf (fetched s (8 + k.val) 2) (8 + k.val)).reqs = []) : Runs c s (fun y =>
      operands y (8 + k.val) = ws ∧ (coreOf y (8 + k.val)).pc = pcAdd (coreOf (fetched s (8 + k.val) 2) (8 + k.val)).pc 2 ∧
      srf y (8 + k.val) srTlbcmd ⟨19, 16⟩ = 0 ∧ (∀ e < 64, tlbV (tlbEntry y (8 + k.val) e).1 =
        (tlbV (tlbEntry (fetched s (8 + k.val) 2) (8 + k.val) e).1 && !p (tlbEntry (fetched s (8 + k.val) 2) (8 + k.val) e).1)) ∧
      SameBut [.cores, .dbg, .svc] (fetched s (8 + k.val) 2) y) := by
  have hent := tlbEntry_dropPrefetches (issued s (8 + k.val) 2) (8 + k.val)
  obtain ⟨h1, h2, hk, hs⟩ := tlbInv_regs hp
  obtain ⟨y, he, hy⟩ := h.tlbcmd hc hf (tlbcmdWrite_clears hop (by rw [coreOf_issued]; exact hq) (h45.imp_right .inl)) ((dropPrefetches_kept _ _).trans hk)
  refine ⟨y, he, hy.operands, hy.pc, (hy.srf_eq _ _).trans h2, fun e he => ?_,
    (hy.sameBut (((dropPrefetches_sameBut _ _).mono (by decide)).trans hs)).mono (by decide)⟩
  rw [hy.entry, h1 e he, hent, tlbEntry_issued]

theorem curasid_result (h : SvWrites s k ps sn t v ws) (hq : (coreOf (fetched s (8 + k.val) 2) (8 + k.val)).reqs = []) :
    Runs (.curasidWrite k ps sn t) s (fun y =>
      operands y (8 + k.val) = ws ∧ (coreOf y (8 + k.val)).pc = pcAdd (coreOf (fetched s (8 + k.val) 2) (8 + k.val)).pc 2 ∧
      SameBut [.cores, .dbg, .svc] (fetched s (8 + k.val) 2) y ∧
      svcOf y (8 + k.val) = { svcOf (fetched s (8 + k.val) 2) (8 + k.val) with pfq := [] } ∧
      (∀ j, j ≠ 8 + k.val → svcOf y j = svcOf (fetched s (8 + k.val) 2) j) ∧
      srf y (8 + k.val) srTlbctl ⟨5, 0⟩ = v.toNat % 64 ∧ srf y (8 + k.val) srTlbctl ⟨11, 8⟩ = v.toNat / 2 ^ 8 % 16) := by
  have hk := srMerged_kept (issued s (8 + k.val) 2) (8 + k.val) srTlbctl v
  have hs := srMerged_sameBut (issued s (8 + k.val) 2) (8 + k.val) srTlbctl v
  have hf (f : Fld) := srf_srMerged (issued s (8 + k.val) 2) (8 + k.val) srTlbctl v f
  have hw := writeSr_tlbctl (s := issued s (8 + k.val) 2) (isSv_of_le (Nat.le_add_right 8 k.val)) h.control (by rw [coreOf_issued]; exact hq) v
  obtain ⟨y, he, hy⟩ := wrsr_completes (c := .curasidWrite k ps sn t) (n := 0x53) (by omega) h.issues (by decide) rfl hw
    (((issued_kept s _ 2).trans hk).trans (dropPrefetches_kept _ _))
  have hm : (srWritable (8 + k.val) srTlbctl).1 = maskOf 11 8 ||| maskOf 5 0 := by
    have : isSv (8 + k.val) = true := isSv_of_le (Nat.le_add_right 8 k.val)
    simp [srWritable, this, srTlbctl, srTlbcmd, srTlbhi, srTlblo, srL2cfg, srCmop, srCmaddr, srWayen, srCtrl]
  have hsv (j : Nat) : svcOf (srMerged (issued s (8 + k.val) 2) (8 + k.val) srTlbctl v) j = svcOf (fetched s (8 + k.val) 2) j :=
    (svcOf_setCore _ _ _ _).trans (svcOf_issued s _ 2 _)
  refine ⟨y, he, hy.operands, hy.pc, (hy.sameBut (l := [.cores, .svc]) ((hs.mono (by decide)).trans ((dropPrefetches_sameBut _ _).mono (by decide)))).mono (by decide),
    ?_, fun j hj => ?_, ?_, ?_⟩
  · rw [hy.svcOf_eq, svcOf_dropPrefetches_same, hsv]
  · rw [hy.svcOf_eq, svcOf_dropPrefetches_other _ hj, hsv]
  · rw [hy.srf_eq]
    refine (hf ⟨5, 0⟩).trans ?_
    rw [hm, Fld.get_srMerge (by decide)]
    simp [Fld.get, Fld.span]
  · rw [hy.srf_eq]
    refine (hf ⟨11, 8⟩).trans ?_
    rw [hm, Fld.get_srMerge (by decide)]
    simp [Fld.get, Fld.span, Nat.shiftRight_eq_div_pow]

end Tlb

/-! Lines written home, and the second level (R292 to R295). -/

/-- What writing lines home keeps: of core k, all but its status, error and count registers; of its caches, all but what is under way
to the host and the write-combining buffer. -/
structure Homed (k : Nat) (s t : State) : Prop where
  kept : SvKept k s t
  srs : ∀ n, n ∉ [srSts, srErr, srCnt0, srCnt1] → (coreOf t k).sr n = (coreOf s k).sr n
  svc : svcOf t k = { svcOf s k with wbq := (svcOf t k).wbq, wbn := (svcOf t k).wbn, wcb := (svcOf t k).wcb }

theorem Homed.refl (k : Nat) (s : State) : Homed k s s := ⟨.refl k s, fun _ _ => rfl, rfl⟩

theorem Homed.trans {k : Nat} {s t u : State} (h : Homed k s t) (g : Homed k t u) : Homed k s u :=
  ⟨h.kept.trans g.kept, fun n hn => (g.srs n hn).trans (h.srs n hn), by rw [g.svc, h.svc]⟩

theorem Homed.foldl {α : Type} {k : Nat} {f : State → α → State} (l : List α) (h : ∀ t x, Homed k t (f t x)) (s : State) : Homed k s (l.foldl f s) :=
  List.foldlRecOn l f (.refl k s) (fun t ht x _ => ht.trans (h t x))

theorem homed_cpt {k : Nat} {s t : State} (h : KeepsCpt s t) : Homed k s t := by
  have hc : t.cores = s.cores := h.parts .cores (by decide)
  have hv : svcOf t k = svcOf s k := by rw [svcOf, h.parts .svc (by decide), svcOf]
  exact ⟨svKept_cpt h, fun n _ => by rw [coreOf, hc, coreOf], by rw [hv]⟩

theorem homed_parts {l : List Part} {k : Nat} {s t : State} (h : SameBut l s t) (hl : ∀ p ∈ [Part.cores, .regs, .par, .lvl, .dbg, .running, .svc], p ∉ l) :
    Homed k s t := by
  have hc : t.cores = s.cores := h .cores (hl .cores (by decide))
  have hv : svcOf t k = svcOf s k := by rw [svcOf, h .svc (hl .svc (by decide)), svcOf]
  exact ⟨svKept_parts h (fun p hp => hl p (by simp only [List.mem_cons] at hp ⊢; tauto)), fun n _ => by rw [coreOf, hc, coreOf], by rw [hv]⟩

theorem homed_srw (s : State) (k : Nat) {n : Nat} (f : Fld) (v : Nat) (h : n ∈ [srSts, srErr, srCnt0, srCnt1]) : Homed k s (srw s k n f v) :=
  ⟨svKept_srw s k n f v, fun _ hm => sr_srw_other s k f v (fun e => hm (e ▸ h)), rfl⟩

theorem homed_cntUe (s : State) (k : Nat) : Homed k s (cntUe s k) := homed_srw s k _ _ (by decide)

theorem homed_cntCe (s : State) (k : Nat) : Homed k s (cntCe s k) := homed_srw s k _ _ (by decide)

theorem homed_wbError (s : State) (k pa : Nat) : Homed k s (wbError s k pa) := by
  have hsig (u : State) (v : Word) : Homed k u (raiseAsync u k 0x38 v) :=
    homed_parts (l := [.sig]) (by intro p hp; cases p <;> simp [Part.same, raiseAsync] at hp ⊢) (by decide)
  exact ((homed_srw s k _ _ (by decide)).trans (homed_srw _ k _ _ (by decide))).trans (hsig _ _)

theorem homed_lineOut (s : State) (k : Nat) (x : Line) : Homed k s (lineOut s k x).2 := by
  unfold lineOut
  split
  · exact homed_cntUe s k
  · exact Homed.foldl _ (fun t _ => homed_cntCe t k) s

theorem homed_hostWrite (s : State) (k a : Nat) (ws : List Word) (held : Option Line) (maint : Bool) : Homed k s (hostWrite s k a ws held maint) := by
  have hset : Homed k s (onSvc s k (fun v => { v with wbq := v.wbq ++ [⟨v.wbn, a / 8, held, maint⟩], wbn := v.wbn + 1 })) :=
    ⟨svKept_onSvc s k k _, fun _ _ => rfl, by rw [svcOf_onSvc_same]⟩
  exact hset.trans (homed_parts (hmpReq_sameBut _ _ _ _ _ _ _ _) (by decide))

theorem keepsCpt_arrayOwn (s : State) (a : Nat) {p : Nat} (hp : unitPort p) (hp' : p < 0x100) (tags : Bool) : KeepsCpt s (arrayOwn s a p true tags).2.2 := by
  have hbeat := keepsCpt_beaten hp' (beaten_beat s a hp false true)
  unfold arrayOwn
  dsimp only
  split
  · exact .refl s
  · split
    · exact hbeat.trans (keepsCpt_eccCheck _ (array_lt a) a p tags)
    · exact hbeat.trans (keepsCpt_eccCheck _ (array_lt a) a p tags)

theorem keepsCpt_arrayWrite (s : State) (a : Nat) {p : Nat} (hp : unitPort p) (hp' : p < 0x100) (v : Word) : KeepsCpt s (arrayWrite s a p v).2 :=
  keepsCpt_ownStore s a hp hp' v

theorem keepsCpt_tagWr (s : State) (a : Nat) (b : Bool) : KeepsCpt s (tagWr s a b) :=
  keepsCpt_parts (l := [.tags]) (by intro p hp; cases p <;> simp [Part.same, tagWr] at hp ⊢) (by decide)

theorem keepsCpt_arrayWritePair (s : State) (a : Nat) {p : Nat} (hp : unitPort p) (hp' : p < 0x100) (t : Tok) : KeepsCpt s (arrayWritePair s a p t).2 := by
  have h1 := keepsCpt_arrayWrite s a hp hp' t.w0
  have h2 := h1.trans (keepsCpt_arrayWrite (arrayWrite s a p t.w0).2 (a + 1) hp hp' t.w1)
  unfold arrayWritePair
  dsimp only
  split
  · exact h1
  · split
    · exact h2
    · dsimp only
      split
      · exact h2.trans (keepsCpt_tagWr _ _ _)
      · exact h2

section Home

variable {k : Nat}

theorem corePort_unit (hk : isSv k = true) (hk' : k < 10) : unitPort (corePort k) ∧ corePort k < 0x100 := by
  have : 8 ≤ k := of_decide_eq_true hk
  rw [corePort, if_neg (by omega)]
  exact ⟨.inr (by omega), by omega⟩

variable (hk : isSv k = true) (hk' : k < 10)

include hk hk'

theorem homed_putPairs (s : State) (a : Nat) (x : Line) : Homed k s (putPairs s k a x).2 := by
  obtain ⟨hu, hp⟩ := corePort_unit hk hk'
  unfold putPairs
  exact List.foldlRecOn (List.range 4) _ (motive := fun acc : Option Nat × State => Homed k s acc.2) (.refl k s)
    (fun acc h i _ => h.trans (homed_cpt (keepsCpt_arrayWritePair acc.2 (a + 2 * i) hu hp _)))

theorem homed_writeHome (s : State) (x : Line) (maint : Bool) : Homed k s (writeHome s k x maint) := by
  have hout := homed_lineOut s k x
  unfold writeHome
  split
  · next t he => rw [he] at hout; exact hout
  · next y t he =>
    rw [he] at hout
    dsimp only
    split
    · exact hout.trans (homed_hostWrite _ _ _ _ _ _)
    · have hput := homed_putPairs hk hk' t (8 * y.line) y
      split
      · next e u hu => rw [hu] at hput; exact (hout.trans hput).trans (homed_wbError _ _ _)
      · next u hu => rw [hu] at hput; exact hout.trans hput

theorem homed_l2Look (s : State) (i : Nat) : Homed k s (l2Look s k i).2 := by
  obtain ⟨hu, hp⟩ := corePort_unit hk hk'
  exact homed_cpt (keepsCpt_arrayOwn s _ hu hp true)

theorem homed_l2TagPut (s : State) (i : Nat) (w : Word) : Homed k s (l2TagPut s k i w) := by
  obtain ⟨hu, hp⟩ := corePort_unit hk hk'
  have h := homed_cpt (k := k) (keepsCpt_arrayWrite s (l2Tag s k i) hu hp w)
  unfold l2TagPut
  dsimp only
  split
  · exact h
  · exact h.trans (homed_wbError _ _ _)

theorem homed_readLine (s : State) (a i line : Nat) (dirty : Bool) : Homed k s (readLine s k a i line true dirty).2.2 := by
  obtain ⟨hu, hp⟩ := corePort_unit hk hk'
  unfold readLine
  exact List.foldlRecOn (List.range 8) _ (motive := fun acc : List (Nat × (Nat × Word)) × State => Homed k s acc.2) (.refl k s)
    (fun acc h j _ => h.trans (homed_cpt (keepsCpt_arrayOwn acc.2 _ hu hp _)))

theorem homed_l2Home (s : State) (i : Nat) (t : Word) (maint : Bool) : Homed k s (l2Home s k i t maint) := by
  have h := homed_readLine hk hk' s (l2Data s k i) 0 (t.toNat % 2 ^ 37) true
  unfold l2Home
  dsimp only
  split
  · exact h.trans (homed_wbError _ _ _)
  · exact h.trans (homed_writeHome hk hk' _ _ _)

theorem homed_wcEmit (s : State) : Homed k s (wcEmit s k) := by
  obtain ⟨hu, hp⟩ := corePort_unit hk hk'
  have hset (u : State) : Homed k u (onSvc u k (fun v => { v with wcb := none })) :=
    ⟨svKept_onSvc u k k _, fun _ _ => rfl, by rw [svcOf_onSvc_same]⟩
  unfold wcEmit
  split
  · exact .refl k s
  · dsimp only
    split
    · exact (hset s).trans (Homed.foldl _ (fun t _ => homed_hostWrite t k _ _ _ _) _)
    · refine ((hset s).trans (Homed.foldl _ (fun t p => ?_) _)).trans (Homed.foldl _ (fun t p => ?_) _)
      · have h (a : Nat) := homed_cpt (k := k) (keepsCpt_arrayWrite t a hu hp p.2)
        split
        · exact h _
        · exact (h _).trans (homed_wbError _ _ _)
      · split
        · exact homed_cpt (keepsCpt_tagWr t _ _)
        · exact .refl k t

end Home

/-! Cleaning and invalidating a line (R294, R305). -/

/-- The data cache's part of a cleaning. -/
def cleanHeld (s : State) (k line : Nat) : State := match findWay (svcOf s k).dc 8 line with
  | some w =>
    if (dLine s k line w).dirty then
      setDLine (writeHome s k (dLine s k line w) true) k line w
        (if (dLine s k line w).bad lineKeys then Line.none_ else { (dLine s k line w).fixed lineKeys with dirty := false })
    else s
  | none => s

/-- The waiting write-backs' part of a cleaning. -/
def cleanOffer (t : State) (k line : Nat) : State := match (svcOf t k).offers.find? (fun x => x.line == line && x.dirty) with
  | some x => onSvc (writeHome t k x true) k (fun v => { v with offers := v.offers.map (fun y => if y == x then { y with dirty := false } else y) })
  | none => t

/-- The second level's part of a cleaning. -/
def cleanL2 (t : State) (k line : Nat) : State :=
  if l2Live t k then
    if tagHolds (l2Look t k (l2Entry t k line)).1 line && tagDirty (l2Look t k (l2Entry t k line)).1 then
      l2TagPut (l2Home (l2Look t k (l2Entry t k line)).2 k (l2Entry t k line) (l2Look t k (l2Entry t k line)).1 true) k (l2Entry t k line)
        (l2TagWord true false line)
    else (l2Look t k (l2Entry t k line)).2
  else t

theorem cleanLine_eq (s : State) (k line : Nat) : cleanLine s k line = cleanL2 (cleanOffer (cleanHeld s k line) k line) k line := rfl

/-- The data cache's part of an invalidation. -/
def dropHeld (s : State) (k line : Nat) : State := match findWay (svcOf s k).dc 8 line with
  | some w => setDLine s k line w Line.none_
  | none => s

/-- The instruction cache's part of an invalidation. -/
def dropFetched (s : State) (k line : Nat) : State := match findWay (svcOf s k).ic 4 line with
  | some w => setILine s k line w Line.none_
  | none => s

/-- The second level's part of an invalidation. -/
def dropL2 (t : State) (k line : Nat) : State :=
  if l2Live t k then
    if tagHolds (l2Look t k (l2Entry t k line)).1 line then
      l2TagPut (l2Look t k (l2Entry t k line)).2 k (l2Entry t k line) (l2TagWord false false line)
    else (l2Look t k (l2Entry t k line)).2
  else t

theorem icInvLine_eq (s : State) (k line : Nat) : icInvLine s k line =
    onSvc (dropFetched s k line) k (fun v => { v with side := v.side.filter (fun x => x.line != line) }) := rfl

theorem invLine_eq (s : State) (k line : Nat) : invLine s k line =
    dropL2 (onSvc (icInvLine (dropHeld s k line) k line) k (fun v => { v with
      offers := v.offers.filter (fun x => x.line != line),
      wbq := v.wbq.map (fun e => if e.line == line then { e with held := none } else e) })) k line := rfl

theorem dLine_setDLine (s : State) (k line w : Nat) (x : Line) (v : Nat) :
    dLine (setDLine s k line w x) k line v = if wayKey line v = wayKey line w then x else dLine s k line v := by
  have h : svcOf (setDLine s k line w x) k = { svcOf s k with dc := tset Line.none_ (svcOf s k).dc (wayKey line w) x } := tget_tset_same _ _ _ _
  rw [dLine, h, dLine, tget_tset]

theorem findWay_eq_of {l m : List (Nat × Line)} {ways line : Nat}
    (h : ∀ w, (tget Line.none_ m (wayKey line w)).words = (tget Line.none_ l (wayKey line w)).words ∧
      (tget Line.none_ m (wayKey line w)).line = (tget Line.none_ l (wayKey line w)).line) : findWay m ways line = findWay l ways line := by
  simp only [findWay, h]

theorem dLine_congr {s t : State} {k : Nat} (h : (svcOf t k).dc = (svcOf s k).dc) (line w : Nat) : dLine t k line w = dLine s k line w := by
  rw [dLine, h, dLine]

theorem Homed.dc {k : Nat} {s t : State} (h : Homed k s t) : (svcOf t k).dc = (svcOf s k).dc := by rw [h.svc]

theorem svKept_setSvc (s : State) (k : Nat) (v : Svc) : SvKept k s (setSvc s k v) := svKept_onSvc s k k (fun _ => v)

/-- What a cleaning of a line does to the way that holds it. -/
theorem cleanHeld_way {s : State} {k line w : Nat} (hk : isSv k = true) (hk' : k < 10) (hw : findWay (svcOf s k).dc 8 line = some w) :
    SvKept k s (cleanHeld s k line) ∧ (dLine (cleanHeld s k line) k line w).dirty = false ∧
    (dLine (cleanHeld s k line) k line w = Line.none_ ∨ findWay (svcOf (cleanHeld s k line) k).dc 8 line = some w) := by
  rw [cleanHeld, hw]
  dsimp only
  split
  · next hd =>
    have hhome := homed_writeHome hk hk' s (dLine s k line w) true
    generalize writeHome s k (dLine s k line w) true = u at hhome
    refine ⟨hhome.kept.trans (svKept_setSvc u k _), ?_, ?_⟩
    · rw [dLine_setDLine, if_pos rfl]
      split <;> rfl
    · rw [dLine_setDLine, if_pos rfl]
      split
      · exact .inl rfl
      · refine .inr (Eq.trans (findWay_eq_of (fun v => ?_)) hw)
        have hdl := dLine_setDLine u k line w ({ (dLine s k line w).fixed lineKeys with dirty := false }) v
        rw [dLine] at hdl
        rw [hdl]
        split
        · next he => rw [he]; exact ⟨rfl, rfl⟩
        · rw [dLine_congr hhome.dc]; exact ⟨rfl, rfl⟩
  · next hd => exact ⟨.refl k s, Bool.eq_false_iff.2 hd, .inr hw⟩

theorem cleanHeld_kept {s : State} {k line : Nat} (hk : isSv k = true) (hk' : k < 10) : SvKept k s (cleanHeld s k line) := by
  cases hw : findWay (svcOf s k).dc 8 line with
  | none => rw [cleanHeld, hw]; exact .refl k s
  | some w => exact (cleanHeld_way hk hk' hw).1

theorem cleanRest_kept {s : State} {k line : Nat} (hk : isSv k = true) (hk' : k < 10) : SvKept k s (cleanL2 (cleanOffer s k line) k line) ∧
    (svcOf (cleanL2 (cleanOffer s k line) k line) k).dc = (svcOf s k).dc := by
  have h1 : SvKept k s (cleanOffer s k line) ∧ (svcOf (cleanOffer s k line) k).dc = (svcOf s k).dc := by
    unfold cleanOffer
    split
    · next x _ =>
      have hhome := homed_writeHome hk hk' s x true
      exact ⟨hhome.kept.trans (svKept_onSvc _ k k _), by rw [svcOf_onSvc_same]; exact hhome.dc⟩
    · exact ⟨.refl k s, rfl⟩
  have h2 (t : State) : Homed k t (cleanL2 t k line) := by
    unfold cleanL2
    split
    · have hlook := homed_l2Look hk hk' t (l2Entry t k line)
      split
      · exact (hlook.trans (homed_l2Home hk hk' _ _ _ _)).trans (homed_l2TagPut hk hk' _ _ _)
      · exact hlook
    · exact .refl k t
  exact ⟨h1.1.trans (h2 _).kept, (h2 _).dc.trans h1.2⟩

theorem cleanLine_kept {s : State} {k line : Nat} (hk : isSv k = true) (hk' : k < 10) : SvKept k s (cleanLine s k line) := by
  rw [cleanLine_eq]
  exact (cleanHeld_kept hk hk').trans (cleanRest_kept hk hk').1

theorem cleanLine_way {s : State} {k line w : Nat} (hk : isSv k = true) (hk' : k < 10) (hw : findWay (svcOf s k).dc 8 line = some w) :
    (dLine (cleanLine s k line) k line w).dirty = false ∧
    (dLine (cleanLine s k line) k line w = Line.none_ ∨ findWay (svcOf (cleanLine s k line) k).dc 8 line = some w) := by
  obtain ⟨-, h1, h2⟩ := cleanHeld_way hk hk' hw
  obtain ⟨-, hdc⟩ := cleanRest_kept (s := cleanHeld s k line) (line := line) hk hk'
  rw [cleanLine_eq, dLine_congr hdc, hdc]
  exact ⟨h1, h2⟩

theorem dropHeld_kept (s : State) (k line : Nat) : SvKept k s (dropHeld s k line) := by
  unfold dropHeld
  split
  · exact svKept_setSvc s k _
  · exact .refl k s

theorem dLine_dropHeld {s : State} {k line w : Nat} (h : dLine s k line w = Line.none_ ∨ findWay (svcOf s k).dc 8 line = some w) :
    dLine (dropHeld s k line) k line w = Line.none_ := by
  unfold dropHeld
  split
  · next v hv =>
    rw [dLine_setDLine]
    split
    · rfl
    · next hne =>
      refine h.resolve_right (fun hw => hne ?_)
      rw [hw] at hv
      rw [Option.some.inj hv]
  · next hv => exact h.resolve_right (fun hw => by rw [hw] at hv; exact absurd hv (by simp))

theorem dropFetched_kept (s : State) (k line : Nat) : SvKept k s (dropFetched s k line) ∧ (svcOf (dropFetched s k line) k).dc = (svcOf s k).dc := by
  unfold dropFetched
  split
  · exact ⟨svKept_setSvc s k _, by rw [setILine, svcOf, setSvc, tget_tset_same]⟩
  · exact ⟨.refl k s, rfl⟩

theorem icInvLine_spec (s : State) (k line : Nat) : SvKept k s (icInvLine s k line) ∧ (svcOf (icInvLine s k line) k).dc = (svcOf s k).dc ∧
    (∀ x ∈ (svcOf (icInvLine s k line) k).side, x.line ≠ line) ∧
    ∀ w, findWay (svcOf s k).ic 4 line = some w → tget Line.none_ (svcOf (icInvLine s k line) k).ic (wayKey line w) = Line.none_ := by
  obtain ⟨hk, hdc⟩ := dropFetched_kept s k line
  rw [icInvLine_eq, svcOf_onSvc_same]
  refine ⟨hk.trans (svKept_onSvc _ k k _), hdc, fun x hx => ?_, fun w hw => ?_⟩
  · exact bne_iff_ne.1 (List.mem_filter.1 hx).2
  · show tget Line.none_ (svcOf (dropFetched s k line) k).ic _ = _
    rw [dropFetched, hw]
    show tget Line.none_ (svcOf (setILine s k line w Line.none_) k).ic _ = _
    rw [setILine, svcOf, setSvc, tget_tset_same, tget_tset_same]

theorem homed_dropL2 {s : State} {k line : Nat} (hk : isSv k = true) (hk' : k < 10) : Homed k s (dropL2 s k line) := by
  have hlook := homed_l2Look hk hk' s (l2Entry s k line)
  unfold dropL2
  split
  · split
    · exact hlook.trans (homed_l2TagPut hk hk' _ _ _)
    · exact hlook
  · exact .refl k s

/-- A line is in no part of a supervisor's first level. -/
theorem invLine_spec {s : State} {k line : Nat} (hk : isSv k = true) (hk' : k < 10) : SvKept k s (invLine s k line) ∧
    (∀ w, dLine s k line w = Line.none_ ∨ findWay (svcOf s k).dc 8 line = some w → dLine (invLine s k line) k line w = Line.none_) ∧
    (∀ x ∈ (svcOf (invLine s k line) k).offers, x.line ≠ line) ∧ ∀ x ∈ (svcOf (invLine s k line) k).side, x.line ≠ line := by
  obtain ⟨h1, hdc, hside, -⟩ := icInvLine_spec (dropHeld s k line) k line
  have hsv := svcOf_onSvc_same (icInvLine (dropHeld s k line) k line) k (fun v => { v with
      offers := v.offers.filter (fun x => x.line != line),
      wbq := v.wbq.map (fun e => if e.line == line then { e with held := none } else e) })
  have hkept := ((dropHeld_kept s k line).trans h1).trans (svKept_onSvc (icInvLine (dropHeld s k line) k line) k k (fun v => { v with
      offers := v.offers.filter (fun x => x.line != line),
      wbq := v.wbq.map (fun e => if e.line == line then { e with held := none } else e) }))
  rw [invLine_eq]
  generalize onSvc (icInvLine (dropHeld s k line) k line) k _ = u at hsv hkept
  have hl2 := homed_dropL2 (s := u) (line := line) hk hk'
  refine ⟨hkept.trans hl2.kept, fun w hw => ?_, fun x hx => ?_, fun x hx => ?_⟩
  · have hdrop : (svcOf u k).dc = (svcOf (dropHeld s k line) k).dc := by rw [hsv]; exact hdc
    rw [dLine_congr hl2.dc, dLine_congr hdrop]
    exact dLine_dropHeld hw
  · rw [hl2.svc, hsv] at hx
    exact bne_iff_ne.1 (List.mem_filter.1 hx).2
  · rw [hl2.svc, hsv] at hx
    exact hside x hx

/-! CMOP (R294, R305). -/

theorem translate_issued (s : State) (k n j va perm : Nat) : translate (issued s k n) j va perm = translate (fetched s k n) j va perm := by
  have hf : tlbFind (issued s k n) j = tlbFind (fetched s k n) j := rfl
  have he : tlbEntry (issued s k n) j = tlbEntry (fetched s k n) j := rfl
  simp only [translate, srf, coreOf_issued, hf, he]

theorem srf_issued (s : State) (k n j m : Nat) (f : Fld) : srf (issued s k n) j m f = srf (fetched s k n) j m f := by rw [srf, coreOf_issued, srf]

/-- The permission that a line command needs. -/
def cmopNeeds (op : Nat) : Nat := if op = 1 then 0 else if op = 4 then 2 else 1

/-- What a line command does to its line. -/
def cmopDone (t : State) (k op line : Nat) : State :=
  if op = 1 then cleanLine t k line else if op = 2 then invLine t k line
  else if op = 3 then invLine (cleanLine t k line) k line else icInvLine t k line

theorem svcOf_cmopSet (s : State) (k op : Nat) : svcOf (srw (issued s k 2) k srCmop ⟨2, 0⟩ op) k = svcOf (fetched s k 2) k := by
  rw [svcOf_srw, svcOf_issued]

theorem cmopWrite_line {s : State} {k op : Nat} {tr : Trans} (hidle : srf s k srSts ⟨5, 5⟩ = 0) (h0 : op ≠ 0) (h5 : op < 5)
    (ht : translate s k ((coreOf s k).sr srCmaddr).toNat (cmopNeeds op) = .ok tr) (hf : fillOf s k (tr.pa / 8) = none) :
    cmopWrite s k op = .ok (cmopDone (srw s k srCmop ⟨2, 0⟩ op) k op (tr.pa / 8)) := by
  rw [cmopNeeds] at ht
  rw [cmopWrite, hidle, if_neg (by decide), if_neg h0, if_pos h5]
  dsimp only
  rw [ht]
  dsimp only
  rw [hf]
  rfl

theorem cmopWrite_all {s : State} {k op : Nat} (hidle : srf s k srSts ⟨5, 5⟩ = 0) (h5 : 5 ≤ op) :
    cmopWrite s k op = .ok (bgStart (srw s k srCmop ⟨2, 0⟩ op) k op) := by
  rw [cmopWrite, hidle, if_neg (by decide), if_neg (by omega), if_neg (by omega)]

section Maintenance

variable {s : State} {k : Fin 2} {ps : Fin 8} {sn : Bool} {t : Fin 16} {v : Word} {ws : List Word}

theorem SvWrites.cmop (h : SvWrites s k ps sn t v ws) {c : Instr} {op : Nat} {x : State} (hop : v.toNat % 8 = op)
    (he : exec c s = wrsrWhen (8 + k.val) ps sn t 0x44 (fun w => (Fld.mk 2 0).get w == op) s)
    (hw : cmopWrite (issued s (8 + k.val) 2) (8 + k.val) op = .ok x) (hx : SvKept (8 + k.val) (issued s (8 + k.val) 2) x) :
    Runs c s (SrWritten (8 + k.val) ws (fetched s (8 + k.val) 2) x) := by
  have hv : (Fld.mk 2 0).get v = op := (tlbOp_eq v).trans hop
  refine h.completes he (beq_iff_eq.2 hv) (by decide) ((writeSr_cmop (isSv_of_le (Nat.le_add_right 8 _)) h.control v).trans ?_) hx
  rw [hv]
  exact hw

theorem cmopDone_clean (t : State) (k line : Nat) : cmopDone t k 1 line = cleanLine t k line := if_pos rfl

theorem cmopDone_inv (t : State) (k line : Nat) : cmopDone t k 2 line = invLine t k line := by rw [cmopDone, if_neg (by decide), if_pos rfl]

theorem cmopDone_cleaninv (t : State) (k line : Nat) : cmopDone t k 3 line = invLine (cleanLine t k line) k line := by
  rw [cmopDone, if_neg (by decide), if_neg (by decide), if_pos rfl]

theorem cmopDone_icinv (t : State) (k line : Nat) : cmopDone t k 4 line = icInvLine t k line := by
  rw [cmopDone, if_neg (by decide), if_neg (by decide), if_neg (by decide)]

theorem cmopDone_kept {s : State} {k : Nat} (hk : isSv k = true) (hk' : k < 10) (op line : Nat) : SvKept k s (cmopDone s k op line) := by
  unfold cmopDone
  split
  · exact cleanLine_kept hk hk'
  · split
    · exact (invLine_spec hk hk').1
    · split
      · exact (cleanLine_kept hk hk').trans (invLine_spec hk hk').1
      · exact (icInvLine_spec s k line).1

/-- A line command on a line that translates. -/
theorem lineCommand_result (h : SvWrites s k ps sn t v ws) {c : Instr} {op : Nat} {tr : Trans} (hop : v.toNat % 8 = op) (h0 : op ≠ 0) (h5 : op < 5)
    (he : exec c s = wrsrWhen (8 + k.val) ps sn t 0x44 (fun w => (Fld.mk 2 0).get w == op) s)
    (hidle : srf (fetched s (8 + k.val) 2) (8 + k.val) srSts ⟨5, 5⟩ = 0)
    (ht : translate (fetched s (8 + k.val) 2) (8 + k.val) ((coreOf (fetched s (8 + k.val) 2) (8 + k.val)).sr srCmaddr).toNat (cmopNeeds op) = .ok tr)
    (hf : fillOf (fetched s (8 + k.val) 2) (8 + k.val) (tr.pa / 8) = none) :
    Runs c s (SrWritten (8 + k.val) ws (fetched s (8 + k.val) 2)
      (cmopDone (srw (issued s (8 + k.val) 2) (8 + k.val) srCmop ⟨2, 0⟩ op) (8 + k.val) op (tr.pa / 8))) :=
  h.cmop hop he (cmopWrite_line (by rw [srf_issued]; exact hidle) h0 h5 (by rw [translate_issued, coreOf_issued]; exact ht) hf)
    ((svKept_srw _ _ _ _ _).trans (cmopDone_kept (isSv_of_le (Nat.le_add_right 8 _)) (by omega) op _))

/-- A command on all lines begins. -/
theorem allCommand_result (h : SvWrites s k ps sn t v ws) {c : Instr} {op : Nat} (hop : v.toNat % 8 = op) (h5 : 5 ≤ op)
    (he : exec c s = wrsrWhen (8 + k.val) ps sn t 0x44 (fun w => (Fld.mk 2 0).get w == op) s)
    (hidle : srf (fetched s (8 + k.val) 2) (8 + k.val) srSts ⟨5, 5⟩ = 0) : Runs c s (fun y =>
      (operands y (8 + k.val) = ws ∧ (coreOf y (8 + k.val)).pc = pcAdd (coreOf (fetched s (8 + k.val) 2) (8 + k.val)).pc 2) ∧
      srf y (8 + k.val) srSts ⟨5, 5⟩ = 1 ∧ (svcOf y (8 + k.val)).bgop = v.toNat % 8) := by
  obtain ⟨y, hy, hw⟩ := h.cmop hop he (cmopWrite_all (by rw [srf_issued]; exact hidle) h5)
    ((svKept_srw _ _ _ _ _).trans ((svKept_onSvc _ _ _ _).trans (svKept_srw _ _ _ _ _)))
  refine ⟨y, hy, ⟨hw.operands, hw.pc⟩, (hw.srf_eq _ _).trans (srf_srw_same _ _ _ _ rfl), ?_⟩
  rw [hw.svcOf_eq, bgStart, svcOf_srw, svcOf_onSvc_same, hop]

end Maintenance

/-! The data cache is disabled (R291). -/

section Disable

theorem cacheSync_off {s : State} {k : Nat} (h : srf s k srCtrl ⟨0, 0⟩ = 0) : cacheSync s k =
    (if srf s k srCtrl ⟨1, 1⟩ == 1 && !(coreOf s k).detm then
      srw (onSvc (if (svcOf s k).dUse then srw s k srSts ⟨0, 0⟩ 1 else s) k (fun w => { w with iUse := true })) k srSts ⟨3, 3⟩ 0
    else srw (onSvc (if (svcOf s k).dUse then srw s k srSts ⟨0, 0⟩ 1 else s) k (fun w => { w with iUse := false, ic := [] })) k srSts ⟨3, 3⟩ 1) := by
  rw [cacheSync, h]
  rfl

/-- What a supervisor's caches are after its data cache was disabled. -/
theorem cacheSync_off_spec {s : State} {k : Nat} (h : srf s k srCtrl ⟨0, 0⟩ = 0) : SvKept k s (cacheSync s k) ∧
    srf (cacheSync s k) k srCtrl ⟨0, 0⟩ = 0 ∧ (svcOf (cacheSync s k) k).dUse = (svcOf s k).dUse ∧ (svcOf (cacheSync s k) k).dc = (svcOf s k).dc ∧
    ((svcOf s k).dUse = true → srf (cacheSync s k) k srSts ⟨0, 0⟩ = 1) ∧ SameBut [.cores, .svc] s (cacheSync s k) := by
  have hd : SvKept k s (if (svcOf s k).dUse then srw s k srSts ⟨0, 0⟩ 1 else s) ∧ srf (if (svcOf s k).dUse then srw s k srSts ⟨0, 0⟩ 1 else s) k srCtrl ⟨0, 0⟩ = 0 ∧
      svcOf (if (svcOf s k).dUse then srw s k srSts ⟨0, 0⟩ 1 else s) k = svcOf s k ∧
      ((svcOf s k).dUse = true → srf (if (svcOf s k).dUse then srw s k srSts ⟨0, 0⟩ 1 else s) k srSts ⟨0, 0⟩ = 1) ∧
      SameBut [.cores, .svc] s (if (svcOf s k).dUse then srw s k srSts ⟨0, 0⟩ 1 else s) := by
    split
    · exact ⟨svKept_srw s k _ _ _, (srf_srw_other s k _ _ _ (by decide)).trans h, rfl, fun _ => srf_srw_same s k _ _ rfl, (srw_sameBut s k _ _ _).mono (by decide)⟩
    · next hn => exact ⟨.refl k s, h, rfl, fun hu => absurd hu hn, SameBut.refl _ s⟩
  obtain ⟨h1, h2, h3, h4, h5⟩ := hd
  rw [cacheSync_off h]
  generalize (if (svcOf s k).dUse then srw s k srSts ⟨0, 0⟩ 1 else s) = u at h1 h2 h3 h4 h5
  have hstep (f : Svc → Svc) (n : Nat) (hf : (f (svcOf u k)).dUse = (svcOf u k).dUse ∧ (f (svcOf u k)).dc = (svcOf u k).dc) :
      SvKept k s (srw (onSvc u k f) k srSts ⟨3, 3⟩ n) ∧ srf (srw (onSvc u k f) k srSts ⟨3, 3⟩ n) k srCtrl ⟨0, 0⟩ = 0 ∧
      (svcOf (srw (onSvc u k f) k srSts ⟨3, 3⟩ n) k).dUse = (svcOf s k).dUse ∧ (svcOf (srw (onSvc u k f) k srSts ⟨3, 3⟩ n) k).dc = (svcOf s k).dc ∧
      ((svcOf s k).dUse = true → srf (srw (onSvc u k f) k srSts ⟨3, 3⟩ n) k srSts ⟨0, 0⟩ = 1) ∧ SameBut [.cores, .svc] s (srw (onSvc u k f) k srSts ⟨3, 3⟩ n) :=
    ⟨(h1.trans (svKept_onSvc u k k f)).trans (svKept_srw _ k _ _ _), (srf_srw_other _ k _ _ _ (by decide)).trans h2,
      by rw [svcOf_srw, svcOf_onSvc_same, hf.1, h3], by rw [svcOf_srw, svcOf_onSvc_same, hf.2, h3],
      fun hu => (srf_srw_apart _ k srSts n rfl rfl (by decide)).trans (h4 hu),
      h5.trans (((svc_sameBut u k f).mono (by decide)).trans ((srw_sameBut _ k _ _ _).mono (by decide)))⟩
  split
  · exact hstep _ _ ⟨rfl, rfl⟩
  · exact hstep _ _ ⟨rfl, rfl⟩

theorem streamEnd_spec {s : State} {k : Nat} (hk : isSv k = true) (hk' : k < 10) : SvKept k s (streamEnd s k) ∧
    srf (streamEnd s k) k srCtrl ⟨0, 0⟩ = srf s k srCtrl ⟨0, 0⟩ ∧ (svcOf (streamEnd s k) k).dUse = (svcOf s k).dUse := by
  have h := homed_wcEmit hk hk' s
  unfold streamEnd
  refine ⟨(h.kept.trans (svKept_onSvc _ k k _)).trans (svKept_srw _ k _ _ _), ?_, ?_⟩
  · rw [srf_srw_other _ k _ _ _ (by decide), srf, srf, show coreOf (onSvc (wcEmit s k) k _) k = coreOf (wcEmit s k) k from rfl, h.srs _ (by decide)]
  · rw [svcOf_srw, svcOf_onSvc_same, h.svc]

variable {s : State} {k : Fin 2} {ps : Fin 8} {sn : Bool} {t : Fin 16} {v : Word} {ws : List Word}

theorem srWritable_sv {k : Nat} (hk : isSv k = true) : (srWritable k srCtrl).1 = 0xF3B ∧ (srWritable k srWayen).1 = 0xF00FF := by
  simp [srWritable, hk, srWayen, srCtrl]

theorem Fld.get_bit0 {v : Word} (h : v.getLsbD 0 = false) : (⟨0, 0⟩ : Fld).get v = 0 := by
  have h2 : v.toNat % 2 = 0 := by
    have : v.toNat.testBit 0 = false := h
    rw [Nat.testBit_zero] at this
    simpa using this
  simp [Fld.get, Fld.span, h2]

theorem dcacheDisable_result (h : SvWrites s k ps sn t v ws) (h0 : v.getLsbD 0 = false) : Runs (.dcacheDisable k ps sn t) s (fun y =>
    (operands y (8 + k.val) = ws ∧ (coreOf y (8 + k.val)).pc = pcAdd (coreOf (fetched s (8 + k.val) 2) (8 + k.val)).pc 2) ∧
    srf y (8 + k.val) srCtrl ⟨0, 0⟩ = 0 ∧ (svcOf y (8 + k.val)).dUse = (svcOf (fetched s (8 + k.val) 2) (8 + k.val)).dUse ∧
    ((svcOf (fetched s (8 + k.val) 2) (8 + k.val)).dUse = true → srf y (8 + k.val) srSts ⟨0, 0⟩ = 1) ∧
    ((svcOf (fetched s (8 + k.val) 2) (8 + k.val)).stream = false →
      (svcOf y (8 + k.val)).dc = (svcOf (fetched s (8 + k.val) 2) (8 + k.val)).dc ∧ ∀ b, memRd y b = memRd (fetched s (8 + k.val) 2) b)) := by
  have hk : isSv (8 + k.val) = true := isSv_of_le (Nat.le_add_right 8 _)
  have hw := writeSr_ctrl (s := issued s (8 + k.val) 2) hk h.control v
  have hm := srMerged_kept (issued s (8 + k.val) 2) (8 + k.val) srCtrl v
  have hs := srMerged_sameBut (issued s (8 + k.val) 2) (8 + k.val) srCtrl v
  have hc : srf (srMerged (issued s (8 + k.val) 2) (8 + k.val) srCtrl v) (8 + k.val) srCtrl ⟨0, 0⟩ = 0 := by
    rw [srf_srMerged, (srWritable_sv hk).1, Fld.get_srMerge (by decide), Fld.get_bit0 h0]
  have hv : svcOf (srMerged (issued s (8 + k.val) 2) (8 + k.val) srCtrl v) (8 + k.val) = svcOf (fetched s (8 + k.val) 2) (8 + k.val) :=
    (svcOf_setCore _ _ _ _).trans (svcOf_issued s _ 2 _)
  generalize srMerged (issued s (8 + k.val) 2) (8 + k.val) srCtrl v = m at hw hm hs hc hv
  have hend : SvKept (8 + k.val) m (if (svcOf m (8 + k.val)).stream then streamEnd m (8 + k.val) else m) ∧
      srf (if (svcOf m (8 + k.val)).stream then streamEnd m (8 + k.val) else m) (8 + k.val) srCtrl ⟨0, 0⟩ = 0 ∧
      (svcOf (if (svcOf m (8 + k.val)).stream then streamEnd m (8 + k.val) else m) (8 + k.val)).dUse = (svcOf m (8 + k.val)).dUse := by
    obtain ⟨h1, h2, h3⟩ := streamEnd_spec (s := m) hk (by omega)
    split
    · exact ⟨h1, h2.trans hc, h3⟩
    · exact ⟨.refl _ m, hc, rfl⟩
  have hcalm : (svcOf (fetched s (8 + k.val) 2) (8 + k.val)).stream = false →
      (if (svcOf m (8 + k.val)).stream then streamEnd m (8 + k.val) else m) = m := fun hq => by rw [hv, hq]; rfl
  generalize (if (svcOf m (8 + k.val)).stream then streamEnd m (8 + k.val) else m) = z at hw hend hcalm
  obtain ⟨e1, e2, e3⟩ := hend
  obtain ⟨c1, c2, c3, c4, c5, c6⟩ := cacheSync_off_spec e2
  obtain ⟨y, he, hy⟩ := h.completes (c := .dcacheDisable k ps sn t) (f := fun w => !bitOf w 0) (n := 0x40) rfl (by rw [bitOf, h0]; rfl) (by decide) hw
    ((hm.trans e1).trans c1)
  refine ⟨y, he, ⟨hy.operands, hy.pc⟩, (hy.srf_eq _ _).trans c2, ?_, fun hu => (hy.srf_eq _ _).trans (c5 ?_), fun hq => ⟨?_, fun b => ?_⟩⟩
  · rw [hy.svcOf_eq, c3, e3, hv]
  · rw [e3, hv, hu]
  · rw [hy.svcOf_eq, c4, hcalm hq, hv]
  · have hmem := (hy.sameBut (l := [.cores, .svc]) ((hs.mono (by decide)).trans (hcalm hq ▸ c6))) .mem (by decide)
    rw [memRd, hmem, memRd]

end Disable

/-! The second-level region (R296). -/

section Region

/-- L2CFG with a region's place, and its size where it is not enabled, written. -/
def l2Placed (s : State) (k : Nat) (v : Word) : State :=
  if srf s k srL2cfg ⟨8, 8⟩ == 1 then srw s k srL2cfg ⟨3, 0⟩ ((Fld.mk 3 0).get v)
  else srw (srw s k srL2cfg ⟨3, 0⟩ ((Fld.mk 3 0).get v)) k srL2cfg ⟨5, 4⟩ ((Fld.mk 5 4).get v)

/-- The region of a word written to L2CFG lies in the second level. -/
def l2Fits (v : Word) : Prop := v.toNat % 16 % 2 ^ (v.toNat / 2 ^ 4 % 4) = 0 ∧ v.toNat % 16 + 2 ^ (v.toNat / 2 ^ 4 % 4) ≤ 16

theorem l2Placed_spec (s : State) (k : Nat) (v : Word) : srf (l2Placed s k v) k srL2cfg ⟨8, 8⟩ = srf s k srL2cfg ⟨8, 8⟩ ∧
    srf (l2Placed s k v) k srL2cfg ⟨3, 0⟩ = v.toNat % 16 ∧
    (srf s k srL2cfg ⟨8, 8⟩ ≠ 1 → srf (l2Placed s k v) k srL2cfg ⟨5, 4⟩ = v.toNat / 2 ^ 4 % 4) ∧
    (∀ f, srf (l2Placed s k v) k srSts f = srf s k srSts f) ∧ svcOf (l2Placed s k v) k = svcOf s k ∧ SvKept k s (l2Placed s k v) ∧
    SameBut [.cores] s (l2Placed s k v) := by
  have hlo : (Fld.mk 3 0).get v % (⟨3, 0⟩ : Fld).span = v.toNat % 16 := by simp [Fld.get, Fld.span]
  have hhi : (Fld.mk 5 4).get v % (⟨5, 4⟩ : Fld).span = v.toNat / 2 ^ 4 % 4 := by simp [Fld.get, Fld.span, Nat.shiftRight_eq_div_pow]
  unfold l2Placed
  split
  · next hen =>
    exact ⟨srf_srw_apart s k _ _ rfl rfl (by decide), (srf_srw_same s k _ _ rfl).trans hlo, fun hn => absurd (beq_iff_eq.1 hen) hn,
      fun f => srf_srw_other s k _ _ _ (by decide), rfl, svKept_srw s k _ _ _, srw_sameBut s k _ _ _⟩
  · exact ⟨(srf_srw_apart _ k _ _ rfl rfl (by decide)).trans (srf_srw_apart s k _ _ rfl rfl (by decide)),
      (srf_srw_apart _ k _ _ rfl rfl (by decide)).trans ((srf_srw_same s k _ _ rfl).trans hlo), fun _ => (srf_srw_same _ k _ _ rfl).trans hhi,
      fun f => (srf_srw_other _ k _ _ _ (by decide)).trans (srf_srw_other s k _ _ _ (by decide)), rfl, (svKept_srw s k _ _ _).trans (svKept_srw _ k _ _ _),
      (srw_sameBut s k _ _ _).trans (srw_sameBut _ k _ _ _)⟩

/-- A write that asks for a region that is not enabled. -/
theorem l2cfgWrite_enables {s : State} {k : Nat} {v : Word} (hv : v.getLsbD 8 = true) (hen : srf s k srL2cfg ⟨8, 8⟩ = 0) : l2cfgWrite s k v =
    if !decide (srf (l2Placed s k v) k srL2cfg ⟨3, 0⟩ % 2 ^ srf (l2Placed s k v) k srL2cfg ⟨5, 4⟩ = 0) ||
        !decide (srf (l2Placed s k v) k srL2cfg ⟨3, 0⟩ + 2 ^ srf (l2Placed s k v) k srL2cfg ⟨5, 4⟩ ≤ 16) then l2Placed s k v
    else if srf (l2Placed s k v) k srSts ⟨6, 6⟩ == 1 then srw (srw (l2Placed s k v) k srL2cfg ⟨8, 8⟩ 1) k srSts ⟨6, 6⟩ 0
    else l2Start (srw (l2Placed s k v) k srL2cfg ⟨8, 8⟩ 1) k := by
  rw [l2cfgWrite, l2Placed, bitOf, hv, hen, ← Bool.not_and]
  rfl

/-- A write that leaves a region's enable as it is. -/
theorem l2cfgWrite_stays {s : State} {k : Nat} {v : Word} (h : v.getLsbD 8 = (srf s k srL2cfg ⟨8, 8⟩ == 1)) : l2cfgWrite s k v = l2Placed s k v := by
  rw [l2cfgWrite, l2Placed, bitOf, h]
  cases srf s k srL2cfg ⟨8, 8⟩ == 1 <;> rfl

/-- A write that takes a region's enable away. -/
theorem l2cfgWrite_disables {s : State} {k : Nat} {v : Word} (hv : v.getLsbD 8 = false) (hen : srf s k srL2cfg ⟨8, 8⟩ = 1) :
    l2cfgWrite s k v = srw (srw (l2Placed s k v) k srL2cfg ⟨8, 8⟩ 0) k srSts ⟨6, 6⟩ 1 := by
  rw [l2cfgWrite, l2Placed, bitOf, hv, hen]
  rfl

theorem l2Start_spec {s : State} {k b n : Nat} (hb : srf s k srL2cfg ⟨3, 0⟩ = b) (hn : 2 ^ srf s k srL2cfg ⟨5, 4⟩ = n) :
    svcOf (l2Start s k) k = { svcOf s k with l2on := true, l2reg := (b * 0x10000, n), l2left := 7168 * n } ∧
    srf (l2Start s k) k srSts ⟨7, 7⟩ = 1 ∧ srf (l2Start s k) k srL2cfg ⟨8, 8⟩ = srf s k srL2cfg ⟨8, 8⟩ ∧ SvKept k s (l2Start s k) := by
  have he : l2Start s k = srw (onSvc s k (fun v => { v with l2on := true, l2reg := (b * 0x10000, n), l2left := 7168 * n })) k srSts ⟨7, 7⟩ 1 := by
    rw [l2Start, hb, hn]
  rw [he]
  exact ⟨by rw [svcOf_srw, svcOf_onSvc_same], srf_srw_same _ k _ _ rfl, srf_srw_other _ k _ _ _ (by decide),
    (svKept_onSvc s k k _).trans (svKept_srw _ k _ _ _)⟩

theorem bit_eq_zero {s : State} {k n : Nat} {i : Nat} (h : srf s k n ⟨i, i⟩ ≠ 1) : srf s k n ⟨i, i⟩ = 0 := by
  have hlt := Fld.get_lt ⟨i, i⟩ ((coreOf s k).sr n)
  have : (⟨i, i⟩ : Fld).span = 2 := by simp [Fld.span]
  rw [srf] at h ⊢
  omega

variable {s : State} {k : Fin 2} {ps : Fin 8} {sn : Bool} {t : Fin 16} {v : Word} {ws : List Word}

theorem SvWrites.l2cfg (h : SvWrites s k ps sn t v ws) {c : Instr} {f : Word → Bool} {x : State} (he : exec c s = wrsrWhen (8 + k.val) ps sn t 0x45 f s)
    (hf : f v = true) (hw : l2cfgWrite (issued s (8 + k.val) 2) (8 + k.val) v = x) (hx : SvKept (8 + k.val) (issued s (8 + k.val) 2) x) :
    Runs c s (SrWritten (8 + k.val) ws (fetched s (8 + k.val) 2) x) :=
  h.completes he hf (by decide) ((writeSr_l2cfg (isSv_of_le (Nat.le_add_right 8 _)) h.control v).trans (by rw [hw])) hx

/-- The region is enabled anew. -/
theorem l2Enable_starts (h : SvWrites s k ps sn t v ws) (hv : v.getLsbD 8 = true) (hen : srf (fetched s (8 + k.val) 2) (8 + k.val) srL2cfg ⟨8, 8⟩ = 0)
    (hc : srf (fetched s (8 + k.val) 2) (8 + k.val) srSts ⟨6, 6⟩ = 0) (hfit : l2Fits v) : Runs (.l2Enable k ps sn t) s (fun y =>
      (operands y (8 + k.val) = ws ∧ (coreOf y (8 + k.val)).pc = pcAdd (coreOf (fetched s (8 + k.val) 2) (8 + k.val)).pc 2) ∧
      srf y (8 + k.val) srL2cfg ⟨8, 8⟩ = 1 ∧ srf y (8 + k.val) srSts ⟨7, 7⟩ = 1 ∧ (svcOf y (8 + k.val)).l2on = true ∧
      (svcOf y (8 + k.val)).l2reg = (v.toNat % 16 * 0x10000, 2 ^ (v.toNat / 2 ^ 4 % 4)) ∧
      (svcOf y (8 + k.val)).l2left = 7168 * 2 ^ (v.toNat / 2 ^ 4 % 4) ∧ l2Lines y (8 + k.val) = []) := by
  rw [← srf_issued] at hen hc
  obtain ⟨p1, p2, p3, p4, p5, p6, -⟩ := l2Placed_spec (issued s (8 + k.val) 2) (8 + k.val) v
  have p3' := p3 (by rw [hen]; decide)
  have hw := l2cfgWrite_enables hv hen
  rw [p2, p3', p4, hc, decide_eq_true hfit.1, decide_eq_true hfit.2, if_neg (by decide), if_neg (by decide)] at hw
  generalize l2Placed (issued s (8 + k.val) 2) (8 + k.val) v = u at p1 p2 p3' p5 p6 hw
  obtain ⟨q1, q2, q3, q4⟩ := l2Start_spec (s := srw u (8 + k.val) srL2cfg ⟨8, 8⟩ 1) (k := 8 + k.val)
    ((srf_srw_apart u _ _ 1 rfl rfl (by decide)).trans p2) (congrArg (2 ^ ·) ((srf_srw_apart u _ _ 1 rfl rfl (by decide)).trans p3'))
  obtain ⟨y, he, hy⟩ := h.l2cfg (c := .l2Enable k ps sn t) (f := fun w => bitOf w 8) rfl hv hw ((p6.trans (svKept_srw u _ _ _ _)).trans q4)
  have hsv := (hy.svcOf_eq (8 + k.val)).trans q1
  refine ⟨y, he, ⟨hy.operands, hy.pc⟩, (hy.srf_eq _ _).trans (q3.trans (srf_srw_same u _ _ 1 rfl)), (hy.srf_eq _ _).trans q2, by rw [hsv], by rw [hsv], by rw [hsv], ?_⟩
  have hlive : l2Live y (8 + k.val) = false := by
    rw [l2Live, hsv]
    exact beq_eq_false_iff_ne.2 (Nat.mul_ne_zero (by decide) (Nat.two_pow_pos _).ne')
  rw [l2Lines, hlive]
  rfl

/-- The region is one that the second level does not have. -/
theorem l2Enable_refused (h : SvWrites s k ps sn t v ws) (hv : v.getLsbD 8 = true) (hen : srf (fetched s (8 + k.val) 2) (8 + k.val) srL2cfg ⟨8, 8⟩ = 0)
    (hfit : ¬ l2Fits v) : Runs (.l2Enable k ps sn t) s (fun y => operands y (8 + k.val) = ws ∧ srf y (8 + k.val) srL2cfg ⟨8, 8⟩ = 0 ∧
      SameBut [.cores, .dbg] (fetched s (8 + k.val) 2) y) := by
  rw [← srf_issued] at hen
  obtain ⟨p1, p2, p3, -, -, p6, p7⟩ := l2Placed_spec (issued s (8 + k.val) 2) (8 + k.val) v
  have hw := l2cfgWrite_enables hv hen
  rw [p2, p3 (by rw [hen]; decide), if_pos (by
    rw [← Bool.not_and, ← Bool.decide_and, Bool.not_eq_true', decide_eq_false_iff_not]
    exact hfit)] at hw
  obtain ⟨y, he, hy⟩ := h.l2cfg (c := .l2Enable k ps sn t) (f := fun w => bitOf w 8) rfl hv hw p6
  exact ⟨y, he, hy.operands, (hy.srf_eq _ _).trans (p1.trans hen), (hy.sameBut p7).mono (by decide)⟩

/-- The region is enabled while it is being cleaned. -/
theorem l2Enable_cancels (h : SvWrites s k ps sn t v ws) (hv : v.getLsbD 8 = true) (hen : srf (fetched s (8 + k.val) 2) (8 + k.val) srL2cfg ⟨8, 8⟩ = 0)
    (hc : srf (fetched s (8 + k.val) 2) (8 + k.val) srSts ⟨6, 6⟩ = 1) (hfit : l2Fits v) : Runs (.l2Enable k ps sn t) s (fun y =>
      (operands y (8 + k.val) = ws ∧ (coreOf y (8 + k.val)).pc = pcAdd (coreOf (fetched s (8 + k.val) 2) (8 + k.val)).pc 2) ∧
      srf y (8 + k.val) srL2cfg ⟨8, 8⟩ = 1 ∧ srf y (8 + k.val) srSts ⟨6, 6⟩ = 0 ∧ SameBut [.cores, .dbg] (fetched s (8 + k.val) 2) y) := by
  rw [← srf_issued] at hen hc
  obtain ⟨p1, p2, p3, p4, p5, p6, p7⟩ := l2Placed_spec (issued s (8 + k.val) 2) (8 + k.val) v
  have hw := l2cfgWrite_enables hv hen
  rw [p2, p3 (by rw [hen]; decide), p4, hc, decide_eq_true hfit.1, decide_eq_true hfit.2, if_neg (by decide), if_pos (beq_self_eq_true 1)] at hw
  obtain ⟨y, he, hy⟩ := h.l2cfg (c := .l2Enable k ps sn t) (f := fun w => bitOf w 8) rfl hv hw
    ((p6.trans (svKept_srw _ _ _ _ _)).trans (svKept_srw _ _ _ _ _))
  exact ⟨y, he, ⟨hy.operands, hy.pc⟩, (hy.srf_eq _ _).trans ((srf_srw_other _ _ _ _ _ (by decide)).trans (srf_srw_same _ _ _ 1 rfl)),
    (hy.srf_eq _ _).trans (srf_srw_same _ _ _ 0 rfl), (hy.sameBut ((p7.trans (srw_sameBut _ _ _ _ _)).trans (srw_sameBut _ _ _ _ _))).mono (by decide)⟩

/-- The region's enable stays as it is. -/
theorem l2cfg_stays (h : SvWrites s k ps sn t v ws) {c : Instr} {f : Word → Bool} (hc : exec c s = wrsrWhen (8 + k.val) ps sn t 0x45 f s) (hf : f v = true)
    (hv : v.getLsbD 8 = (srf (fetched s (8 + k.val) 2) (8 + k.val) srL2cfg ⟨8, 8⟩ == 1)) : Runs c s (fun y =>
      (operands y (8 + k.val) = ws ∧ (coreOf y (8 + k.val)).pc = pcAdd (coreOf (fetched s (8 + k.val) 2) (8 + k.val)).pc 2) ∧
      srf y (8 + k.val) srL2cfg ⟨8, 8⟩ = srf (fetched s (8 + k.val) 2) (8 + k.val) srL2cfg ⟨8, 8⟩) := by
  rw [← srf_issued s _ 2] at hv ⊢
  obtain ⟨p1, -, -, -, -, p6, -⟩ := l2Placed_spec (issued s (8 + k.val) 2) (8 + k.val) v
  obtain ⟨y, he, hy⟩ := h.l2cfg hc hf (l2cfgWrite_stays hv) p6
  exact ⟨y, he, ⟨hy.operands, hy.pc⟩, (hy.srf_eq _ _).trans p1⟩

/-- The region's enable is taken away. -/
theorem l2Disable_cleans (h : SvWrites s k ps sn t v ws) (hv : v.getLsbD 8 = false) (hen : srf (fetched s (8 + k.val) 2) (8 + k.val) srL2cfg ⟨8, 8⟩ = 1) :
    Runs (.l2Disable k ps sn t) s (fun y =>
      (operands y (8 + k.val) = ws ∧ (coreOf y (8 + k.val)).pc = pcAdd (coreOf (fetched s (8 + k.val) 2) (8 + k.val)).pc 2) ∧
      srf y (8 + k.val) srL2cfg ⟨8, 8⟩ = 0 ∧ srf y (8 + k.val) srSts ⟨6, 6⟩ = 1 ∧
      (svcOf y (8 + k.val)).l2on = (svcOf (fetched s (8 + k.val) 2) (8 + k.val)).l2on ∧ ∀ b, memRd y b = memRd (fetched s (8 + k.val) 2) b) := by
  rw [← srf_issued] at hen
  obtain ⟨-, -, -, -, p5, p6, p7⟩ := l2Placed_spec (issued s (8 + k.val) 2) (8 + k.val) v
  obtain ⟨y, he, hy⟩ := h.l2cfg (c := .l2Disable k ps sn t) (f := fun w => !bitOf w 8) rfl (by rw [bitOf, hv]; rfl) (l2cfgWrite_disables hv hen)
    ((p6.trans (svKept_srw _ _ _ _ _)).trans (svKept_srw _ _ _ _ _))
  refine ⟨y, he, ⟨hy.operands, hy.pc⟩, (hy.srf_eq _ _).trans ((srf_srw_other _ _ _ _ _ (by decide)).trans (srf_srw_same _ _ _ 0 rfl)),
    (hy.srf_eq _ _).trans (srf_srw_same _ _ _ 1 rfl), ?_, fun b => ?_⟩
  · rw [hy.svcOf_eq, svcOf_srw, svcOf_srw, p5]
    rfl
  · have hmem := (hy.sameBut ((p7.trans (srw_sameBut _ _ _ _ _)).trans (srw_sameBut _ _ _ _ _))) .mem (by decide)
    rw [memRd, hmem, memRd]

end Region

/-! Ways (R297). -/

section Ways

/-- The ways' registers and the instruction cache after WAYEN was written. -/
theorem waySync_spec {s : State} {k d i p : Nat} (hd : srf s k srWayen ⟨7, 0⟩ = d) (hi : srf s k srWayen ⟨19, 16⟩ = i) (hp : srf s k srWayen ⟨15, 8⟩ = p) :
    srf (waySync s k) k srWayen ⟨7, 0⟩ = d ∧ srf (waySync s k) k srWayen ⟨15, 8⟩ = p ||| d ∧ srf (waySync s k) k srWayen ⟨19, 16⟩ = i ∧
    srf (waySync s k) k srWayen ⟨27, 24⟩ = i ∧ svcOf (waySync s k) k = { svcOf s k with ic := (svcOf s k).ic.filter (fun p => i.testBit (p.1 / 128)) } ∧
    SvKept k s (waySync s k) ∧ SameBut [.cores, .svc] s (waySync s k) := by
  have he : waySync s k = srw (srw (onSvc s k (fun v => { v with ic := v.ic.filter (fun p => i.testBit (p.1 / 128)) })) k srWayen ⟨15, 8⟩ (p ||| d)) k srWayen ⟨27, 24⟩ i := by
    rw [waySync, hd, hi, hp]
  have hlt (f : Fld) : srf s k srWayen f < f.span := Fld.get_lt f _
  have hd' : d < 2 ^ 8 := hd ▸ hlt ⟨7, 0⟩
  have hp' : p < 2 ^ 8 := hp ▸ hlt ⟨15, 8⟩
  have hi' : i < 2 ^ 4 := hi ▸ hlt ⟨19, 16⟩
  rw [he]
  have h0 (f : Fld) : srf (onSvc s k (fun v => { v with ic := v.ic.filter (fun p => i.testBit (p.1 / 128)) })) k srWayen f = srf s k srWayen f := rfl
  have hv := svcOf_onSvc_same s k (fun v => { v with ic := v.ic.filter (fun p => i.testBit (p.1 / 128)) })
  have hk := svKept_onSvc s k k (fun v => { v with ic := v.ic.filter (fun p => i.testBit (p.1 / 128)) })
  have hs := svc_sameBut s k (fun v => { v with ic := v.ic.filter (fun p => i.testBit (p.1 / 128)) })
  generalize onSvc s k (fun v => { v with ic := v.ic.filter (fun p => i.testBit (p.1 / 128)) }) = u at h0 hv hk hs
  have hap {f : Fld} (hf : f.fits = true) (h1 : f.hi < 8 ∨ 15 < f.lo) (h2 : f.hi < 24 ∨ 27 < f.lo) :
      srf (srw (srw u k srWayen ⟨15, 8⟩ (p ||| d)) k srWayen ⟨27, 24⟩ i) k srWayen f = srf s k srWayen f :=
    (srf_srw_apart _ k _ _ rfl hf h2.symm).trans ((srf_srw_apart u k _ _ rfl hf h1.symm).trans (h0 f))
  refine ⟨(hap rfl (by decide) (by decide)).trans hd, ?_, (hap rfl (by decide) (by decide)).trans hi, ?_, hv, (hk.trans (svKept_srw u k _ _ _)).trans (svKept_srw _ k _ _ _),
    (hs.mono (by decide)).trans (((srw_sameBut u k _ _ _).trans (srw_sameBut _ k _ _ _)).mono (by decide))⟩
  · exact (srf_srw_apart _ k _ _ rfl rfl (by decide)).trans ((srf_srw_same u k _ _ rfl).trans (Nat.mod_eq_of_lt (Nat.or_lt_two_pow hp' hd')))
  · exact (srf_srw_same _ k _ _ rfl).trans (Nat.mod_eq_of_lt hi')

variable {s : State} {k : Fin 2} {ps : Fin 8} {sn : Bool} {t : Fin 16} {v : Word} {ws : List Word}

theorem wayDisable_result (h : SvWrites s k ps sn t v ws) (hv : (coreOf s (8 + k.val)).sr srWayen &&& ~~~v &&& 0xF00FF ≠ 0) :
    Runs (.wayDisable k ps sn t) s (fun y =>
      (operands y (8 + k.val) = ws ∧ (coreOf y (8 + k.val)).pc = pcAdd (coreOf (fetched s (8 + k.val) 2) (8 + k.val)).pc 2) ∧
      srf y (8 + k.val) srWayen ⟨7, 0⟩ = v.toNat % 256 ∧
      srf y (8 + k.val) srWayen ⟨15, 8⟩ = srf (fetched s (8 + k.val) 2) (8 + k.val) srWayen ⟨15, 8⟩ ||| v.toNat % 256 ∧
      (svcOf y (8 + k.val)).dc = (svcOf (fetched s (8 + k.val) 2) (8 + k.val)).dc ∧
      srf y (8 + k.val) srWayen ⟨19, 16⟩ = v.toNat / 2 ^ 16 % 16 ∧ srf y (8 + k.val) srWayen ⟨27, 24⟩ = v.toNat / 2 ^ 16 % 16 ∧
      (∀ p ∈ (svcOf y (8 + k.val)).ic, (v.toNat / 2 ^ 16 % 16).testBit (p.1 / 128) = true) ∧
      ∀ b, memRd y b = memRd (fetched s (8 + k.val) 2) b) := by
  have hk : isSv (8 + k.val) = true := isSv_of_le (Nat.le_add_right 8 _)
  have hw := writeSr_wayen (s := issued s (8 + k.val) 2) hk h.control v
  have hm := srMerged_kept (issued s (8 + k.val) 2) (8 + k.val) srWayen v
  have hs := srMerged_sameBut (issued s (8 + k.val) 2) (8 + k.val) srWayen v
  have hf (f : Fld) := srf_srMerged (issued s (8 + k.val) 2) (8 + k.val) srWayen v f
  have hv' : svcOf (srMerged (issued s (8 + k.val) 2) (8 + k.val) srWayen v) (8 + k.val) = svcOf (fetched s (8 + k.val) 2) (8 + k.val) :=
    (svcOf_setCore _ _ _ _).trans (svcOf_issued s _ 2 _)
  rw [(srWritable_sv hk).2, coreOf_issued] at hf
  generalize srMerged (issued s (8 + k.val) 2) (8 + k.val) srWayen v = m at hw hm hs hf hv'
  obtain ⟨w1, w2, w3, w4, w5, w6, w7⟩ := waySync_spec (s := m) (k := 8 + k.val) (d := v.toNat % 256) (i := v.toNat / 2 ^ 16 % 16)
    (p := srf (fetched s (8 + k.val) 2) (8 + k.val) srWayen ⟨15, 8⟩)
    (by rw [hf, Fld.get_srMerge (by decide)]; simp [Fld.get, Fld.span])
    (by rw [hf, Fld.get_srMerge (by decide)]; simp [Fld.get, Fld.span, Nat.shiftRight_eq_div_pow])
    (by rw [hf, Fld.get_srMerge_kept (by decide) (by decide), srf])
  obtain ⟨y, he, hy⟩ := h.completes (c := .wayDisable k ps sn t) (n := 0x42)
    (f := fun w => (coreOf s (8 + k.val)).sr srWayen &&& ~~~w &&& 0xF00FF != 0) rfl (bne_iff_ne.2 hv) (by decide) hw (hm.trans w6)
  refine ⟨y, he, ⟨hy.operands, hy.pc⟩, (hy.srf_eq _ _).trans w1, (hy.srf_eq _ _).trans w2, ?_, (hy.srf_eq _ _).trans w3, (hy.srf_eq _ _).trans w4,
    fun p hp => ?_, fun b => ?_⟩
  · rw [hy.svcOf_eq, w5, hv']
  · rw [hy.svcOf_eq, w5] at hp
    exact (List.mem_filter.1 hp).2
  · have hmem := (hy.sameBut (l := [.cores, .svc]) ((hs.mono (by decide)).trans w7)) .mem (by decide)
    rw [memRd, hmem, memRd]

end Ways

/-! Cleanings that end, and deterministic mode (R181, R291, R296). -/

section Ends

variable {s : State} {k : Fin 2}

theorem dcacheCleanDone_result (h : dCleaning s (8 + k.val) = true) (hf : (svcOf s (8 + k.val)).fills = []) : Runs (.dcacheCleanDone k) s (fun y =>
    (svcOf y (8 + k.val)).dc = [] ∧ (svcOf y (8 + k.val)).dUse = false ∧ srf y (8 + k.val) srSts ⟨0, 0⟩ = 0 ∧ srf y (8 + k.val) srSts ⟨2, 2⟩ = 1) := by
  refine ⟨dcacheStop s (8 + k.val), ?_, ?_⟩
  · show execDcacheCleanDone k s = _
    rw [execDcacheCleanDone, h, hf]
    rfl
  unfold dcacheStop
  generalize (if l2Live (offersHome (dWriteAll (wcEmit s (8 + k.val)) (8 + k.val)) (8 + k.val)) (8 + k.val) then _ else _) = u
  refine ⟨by rw [svcOf_srw, svcOf_srw, svcOf_onSvc_same], by rw [svcOf_srw, svcOf_srw, svcOf_onSvc_same], srf_srw_same _ _ _ 0 rfl,
    (srf_srw_apart _ _ _ 0 rfl rfl (by decide)).trans (srf_srw_same _ _ _ 1 rfl)⟩

theorem l2CleaningDone_result (h : srf s (8 + k.val) srSts ⟨6, 6⟩ = 1) : Runs (.l2CleaningDone k) s (fun y =>
    (svcOf y (8 + k.val)).l2on = false ∧ srf y (8 + k.val) srSts ⟨6, 6⟩ = 0) := by
  refine ⟨l2Stop (l2WriteAll (offersHome s (8 + k.val)) (8 + k.val)) (8 + k.val), ?_, ?_⟩
  · show execL2CleaningDone k s = _
    rw [execL2CleaningDone, h]
    rfl
  rw [l2Stop]
  exact ⟨by rw [svcOf_srw, svcOf_srw, svcOf_onSvc_same], (srf_srw_apart _ _ _ 0 rfl rfl (by decide)).trans (srf_srw_same _ _ _ 0 rfl)⟩

theorem detmActive_result (h : (coreOf s (8 + k.val)).detm = true) (ha : (coreOf s (8 + k.val)).detmAct = false)
    (hd : (svcOf s (8 + k.val)).dUse = false) (hi : (svcOf s (8 + k.val)).iUse = false) : Runs (.detmActive k) s (fun y =>
      coreOf y (8 + k.val) = { coreOf s (8 + k.val) with detmAct := true } ∧ SameBut [.cores] s y ∧ ∀ j, j ≠ 8 + k.val → coreOf y j = coreOf s j) := by
  refine ⟨setCore s (8 + k.val) { coreOf s (8 + k.val) with detmAct := true }, ?_, coreOf_setCore_same s _ _, setCore_sameBut s _ _,
    fun j hj => coreOf_setCore_other s _ hj⟩
  show execDetmActive k s = _
  rw [execDetmActive, h, ha, hd, hi]
  rfl

end Ends

/-! Line commands, TLBINVASID and the region's enable, each with what it promises. -/

section Promises

variable {s : State} {k : Fin 2} {ps : Fin 8} {sn : Bool} {t : Fin 16} {v : Word} {ws : List Word} {tr : Trans}

/-- No way that held a line holds it, no write-back of it waits, and no prefetch of it is held. -/
def LineGone (u y : State) (c line : Nat) : Prop :=
  (∀ w, findWay (svcOf u c).dc 8 line = some w → dLine y c line w = Line.none_) ∧ (∀ x ∈ (svcOf y c).offers, x.line ≠ line) ∧
    ∀ x ∈ (svcOf y c).side, x.line ≠ line

theorem LineGone.of_written {k line : Nat} {ws : List Word} {u m x y : State} (h : SrWritten k ws u x y) (hv : svcOf m k = svcOf u k)
    (hg : LineGone m x k line) : LineGone u y k line := by
  obtain ⟨h1, h2, h3⟩ := hg
  have hsv := h.svcOf_eq k
  refine ⟨fun w hw => ?_, by rw [hsv]; exact h2, by rw [hsv]; exact h3⟩
  rw [dLine_congr (congrArg Svc.dc hsv)]
  exact h1 w (by rw [hv]; exact hw)

theorem svcClean_result (h : SvWrites s k ps sn t v ws) (hop : v.toNat % 8 = 1) (hidle : srf (fetched s (8 + k.val) 2) (8 + k.val) srSts ⟨5, 5⟩ = 0)
    (ht : translate (fetched s (8 + k.val) 2) (8 + k.val) ((coreOf (fetched s (8 + k.val) 2) (8 + k.val)).sr srCmaddr).toNat 0 = .ok tr)
    (hf : fillOf (fetched s (8 + k.val) 2) (8 + k.val) (tr.pa / 8) = none) : Runs (.svcClean k ps sn t) s (fun y =>
      (operands y (8 + k.val) = ws ∧ (coreOf y (8 + k.val)).pc = pcAdd (coreOf (fetched s (8 + k.val) 2) (8 + k.val)).pc 2) ∧
      ∀ w, findWay (svcOf (fetched s (8 + k.val) 2) (8 + k.val)).dc 8 (tr.pa / 8) = some w → (dLine y (8 + k.val) (tr.pa / 8) w).dirty = false) := by
  obtain ⟨y, he, hy⟩ := lineCommand_result h hop (by decide) (by decide) (op := 1) (c := .svcClean k ps sn t) rfl hidle ht hf
  rw [cmopDone_clean] at hy
  have hv := svcOf_cmopSet s (8 + k.val) 1
  generalize srw (issued s (8 + k.val) 2) (8 + k.val) srCmop ⟨2, 0⟩ 1 = m at hy hv
  refine ⟨y, he, ⟨hy.operands, hy.pc⟩, fun w hw => ?_⟩
  rw [dLine_congr (congrArg Svc.dc (hy.svcOf_eq _))]
  exact (cleanLine_way (isSv_of_le (Nat.le_add_right 8 _)) (by omega) (hv ▸ hw)).1

theorem svcInv_result (h : SvWrites s k ps sn t v ws) (hop : v.toNat % 8 = 2) (hidle : srf (fetched s (8 + k.val) 2) (8 + k.val) srSts ⟨5, 5⟩ = 0)
    (ht : translate (fetched s (8 + k.val) 2) (8 + k.val) ((coreOf (fetched s (8 + k.val) 2) (8 + k.val)).sr srCmaddr).toNat 1 = .ok tr)
    (hf : fillOf (fetched s (8 + k.val) 2) (8 + k.val) (tr.pa / 8) = none) : Runs (.svcInv k ps sn t) s (fun y =>
      (operands y (8 + k.val) = ws ∧ (coreOf y (8 + k.val)).pc = pcAdd (coreOf (fetched s (8 + k.val) 2) (8 + k.val)).pc 2) ∧
      LineGone (fetched s (8 + k.val) 2) y (8 + k.val) (tr.pa / 8)) := by
  have hk : isSv (8 + k.val) = true := isSv_of_le (Nat.le_add_right 8 _)
  obtain ⟨y, he, hy⟩ := lineCommand_result h hop (by decide) (by decide) (op := 2) (c := .svcInv k ps sn t) rfl hidle ht hf
  rw [cmopDone_inv] at hy
  have hv := svcOf_cmopSet s (8 + k.val) 2
  generalize srw (issued s (8 + k.val) 2) (8 + k.val) srCmop ⟨2, 0⟩ 2 = m at hy hv
  have hinv := (invLine_spec (s := m) (line := tr.pa / 8) hk (by omega)).2
  exact ⟨y, he, ⟨hy.operands, hy.pc⟩, LineGone.of_written hy hv
    ⟨fun w hw => hinv.1 w (.inr hw), hinv.2⟩⟩

theorem svcCleaninv_result (h : SvWrites s k ps sn t v ws) (hop : v.toNat % 8 = 3) (hidle : srf (fetched s (8 + k.val) 2) (8 + k.val) srSts ⟨5, 5⟩ = 0)
    (ht : translate (fetched s (8 + k.val) 2) (8 + k.val) ((coreOf (fetched s (8 + k.val) 2) (8 + k.val)).sr srCmaddr).toNat 1 = .ok tr)
    (hf : fillOf (fetched s (8 + k.val) 2) (8 + k.val) (tr.pa / 8) = none) : Runs (.svcCleaninv k ps sn t) s (fun y =>
      (operands y (8 + k.val) = ws ∧ (coreOf y (8 + k.val)).pc = pcAdd (coreOf (fetched s (8 + k.val) 2) (8 + k.val)).pc 2) ∧
      LineGone (fetched s (8 + k.val) 2) y (8 + k.val) (tr.pa / 8)) := by
  have hk : isSv (8 + k.val) = true := isSv_of_le (Nat.le_add_right 8 _)
  obtain ⟨y, he, hy⟩ := lineCommand_result h hop (by decide) (by decide) (op := 3) (c := .svcCleaninv k ps sn t) rfl hidle ht hf
  rw [cmopDone_cleaninv] at hy
  have hv := svcOf_cmopSet s (8 + k.val) 3
  generalize srw (issued s (8 + k.val) 2) (8 + k.val) srCmop ⟨2, 0⟩ 3 = m at hy hv
  have hinv := (invLine_spec (s := cleanLine m (8 + k.val) (tr.pa / 8)) (line := tr.pa / 8) hk (by omega)).2
  exact ⟨y, he, ⟨hy.operands, hy.pc⟩, LineGone.of_written hy hv
    ⟨fun w hw => hinv.1 w (cleanLine_way hk (by omega) hw).2, hinv.2⟩⟩

theorem svcIcinv_result (h : SvWrites s k ps sn t v ws) (hop : v.toNat % 8 = 4) (hidle : srf (fetched s (8 + k.val) 2) (8 + k.val) srSts ⟨5, 5⟩ = 0)
    (ht : translate (fetched s (8 + k.val) 2) (8 + k.val) ((coreOf (fetched s (8 + k.val) 2) (8 + k.val)).sr srCmaddr).toNat 2 = .ok tr)
    (hf : fillOf (fetched s (8 + k.val) 2) (8 + k.val) (tr.pa / 8) = none) : Runs (.svcIcinv k ps sn t) s (fun y =>
      (operands y (8 + k.val) = ws ∧ (coreOf y (8 + k.val)).pc = pcAdd (coreOf (fetched s (8 + k.val) 2) (8 + k.val)).pc 2) ∧
      (∀ w, findWay (svcOf (fetched s (8 + k.val) 2) (8 + k.val)).ic 4 (tr.pa / 8) = some w →
        tget Line.none_ (svcOf y (8 + k.val)).ic (wayKey (tr.pa / 8) w) = Line.none_) ∧
      ∀ x ∈ (svcOf y (8 + k.val)).side, x.line ≠ tr.pa / 8) := by
  obtain ⟨y, he, hy⟩ := lineCommand_result h hop (by decide) (by decide) (op := 4) (c := .svcIcinv k ps sn t) rfl hidle ht hf
  rw [cmopDone_icinv] at hy
  have hv := svcOf_cmopSet s (8 + k.val) 4
  generalize srw (issued s (8 + k.val) 2) (8 + k.val) srCmop ⟨2, 0⟩ 4 = m at hy hv
  obtain ⟨-, -, h1, h2⟩ := icInvLine_spec m (8 + k.val) (tr.pa / 8)
  rw [hv] at h2
  have hsv := hy.svcOf_eq (8 + k.val)
  exact ⟨y, he, ⟨hy.operands, hy.pc⟩, fun w hw => by rw [hsv]; exact h2 w hw, by rw [hsv]; exact h1⟩

theorem tlbInvasid_result (h : SvWrites s k ps sn t v ws) (hop : v.toNat % 8 = 5) (hq : (coreOf (fetched s (8 + k.val) 2) (8 + k.val)).reqs = []) :
    Runs (.tlbInvasid k ps sn t) s (fun y =>
      (operands y (8 + k.val) = ws ∧ (coreOf y (8 + k.val)).pc = pcAdd (coreOf (fetched s (8 + k.val) 2) (8 + k.val)).pc 2) ∧
      srf y (8 + k.val) srTlbcmd ⟨19, 16⟩ = 0 ∧
      (∀ e < 64, tlbV (tlbEntry y (8 + k.val) e).1 = (tlbV (tlbEntry (fetched s (8 + k.val) 2) (8 + k.val) e).1 &&
        (tlbG (tlbEntry (fetched s (8 + k.val) 2) (8 + k.val) e).1 ||
          tlbAsid (tlbEntry (fetched s (8 + k.val) 2) (8 + k.val) e).1 != tlbAsid ((coreOf (fetched s (8 + k.val) 2) (8 + k.val)).sr srTlbhi)))) ∧
      SameBut [.cores, .dbg, .svc] (fetched s (8 + k.val) 2) y) := by
  obtain ⟨y, he, h1, hpc, h2, h3, h4⟩ := tlbClear_result h hop (.inr rfl) (c := .tlbInvasid k ps sn t) (f := fun w => (Fld.mk 2 0).get w == 5) rfl
    (beq_iff_eq.2 ((tlbOp_eq v).trans hop)) rfl hq
  refine ⟨y, he, ⟨h1, hpc⟩, h2, fun e hlt => (h3 e hlt).trans ?_, h4⟩
  have hhi : (coreOf (dropPrefetches (issued s (8 + k.val) 2) (8 + k.val)) (8 + k.val)).sr srTlbhi =
      (coreOf (fetched s (8 + k.val) 2) (8 + k.val)).sr srTlbhi := by
    show (coreOf (issued s (8 + k.val) 2) (8 + k.val)).sr srTlbhi = _
    rw [coreOf_issued]
  rw [hhi, Bool.not_and, Bool.not_not]
  rfl

theorem l2Enable_result (h : SvWrites s k ps sn t v ws) (hv : v.getLsbD 8 = true)
    (hen : srf (fetched s (8 + k.val) 2) (8 + k.val) srL2cfg ⟨8, 8⟩ = 1 ∨ l2Fits v) : Runs (.l2Enable k ps sn t) s (fun y =>
      (operands y (8 + k.val) = ws ∧ (coreOf y (8 + k.val)).pc = pcAdd (coreOf (fetched s (8 + k.val) 2) (8 + k.val)).pc 2) ∧
      srf y (8 + k.val) srL2cfg ⟨8, 8⟩ = 1) := by
  by_cases h1 : srf (fetched s (8 + k.val) 2) (8 + k.val) srL2cfg ⟨8, 8⟩ = 1
  · obtain ⟨y, he, hd, hy⟩ := l2cfg_stays h (c := .l2Enable k ps sn t) (f := fun w => bitOf w 8) rfl hv (by rw [hv, h1]; rfl)
    exact ⟨y, he, hd, hy.trans h1⟩
  · have h0 := bit_eq_zero h1
    by_cases hc : srf (fetched s (8 + k.val) 2) (8 + k.val) srSts ⟨6, 6⟩ = 1
    · obtain ⟨y, he, hd, hy, -⟩ := l2Enable_cancels h hv h0 hc (hen.resolve_left h1)
      exact ⟨y, he, hd, hy⟩
    · obtain ⟨y, he, hd, hy, -⟩ := l2Enable_starts h hv h0 (bit_eq_zero hc) (hen.resolve_left h1)
      exact ⟨y, he, hd, hy⟩

theorem l2Disable_result (h : SvWrites s k ps sn t v ws) (hv : v.getLsbD 8 = false) : Runs (.l2Disable k ps sn t) s (fun y =>
    (operands y (8 + k.val) = ws ∧ (coreOf y (8 + k.val)).pc = pcAdd (coreOf (fetched s (8 + k.val) 2) (8 + k.val)).pc 2) ∧
    srf y (8 + k.val) srL2cfg ⟨8, 8⟩ = 0 ∧
    (srf (fetched s (8 + k.val) 2) (8 + k.val) srL2cfg ⟨8, 8⟩ = 1 → srf y (8 + k.val) srSts ⟨6, 6⟩ = 1)) := by
  by_cases h1 : srf (fetched s (8 + k.val) 2) (8 + k.val) srL2cfg ⟨8, 8⟩ = 1
  · obtain ⟨y, he, hd, hy, hs, -⟩ := l2Disable_cleans h hv h1
    exact ⟨y, he, hd, hy, fun _ => hs⟩
  · have h0 := bit_eq_zero h1
    obtain ⟨y, he, hd, hy⟩ := l2cfg_stays h (c := .l2Disable k ps sn t) (f := fun w => !bitOf w 8) rfl (by rw [bitOf, hv]; rfl) (by rw [hv, h0]; rfl)
    exact ⟨y, he, hd, hy.trans h0, fun hn => absurd hn h1⟩

end Promises

/-- Settles O23: each clause is the result lemma of its command. -/
theorem translationAndControl : Obligations.TranslationAndControl := by
  unfold Obligations.TranslationAndControl
  refine ⟨fun s k ws v ps sn t i hi htop htag hot hq hidx => ?_, fun s k ws v ps sn t => ⟨fun hi htop htag hot => ?_,
    dcacheCleanDone_result, l2CleaningDone_result, detmActive_result⟩⟩
  · have h : SvWrites s k ps sn t v ws := ⟨hi, htop, htag, hot⟩
    subst hidx
    refine ⟨fun hop => ?_, fun hop hr => ?_, fun hop => ?_, fun hop => ?_, fun hop => ?_, ?_⟩
    · obtain ⟨y, he, h1, -, h2, h3, h4, h5⟩ := tlbRead_result h hop
      exact ⟨y, he, h1, h3, h4, h2, h5⟩
    · have hr' : 0 = if tlbV ((coreOf (fetched s (8 + k.val) 2) (8 + k.val)).sr srTlbhi) then tlbRefusal (fetched s (8 + k.val) 2) (8 + k.val) (v.toNat / 2 ^ 8 % 64)
          ((coreOf (fetched s (8 + k.val) 2) (8 + k.val)).sr srTlbhi) ((coreOf (fetched s (8 + k.val) 2) (8 + k.val)).sr srTlblo) else 0 := by
        rcases hr with hr | hr
        · rw [hr]; rfl
        · rw [hr, ite_self]
      obtain ⟨y, he, h1, -, h2, h3, h4⟩ := tlbWrite_result h hop rfl rfl (fun _ => hq) hr'
      exact ⟨y, he, h1, (h3 _).trans (if_pos ⟨rfl, rfl⟩), fun j hj => (h3 j).trans (if_neg (fun e => hj e.1)), h2, h4⟩
    · obtain ⟨y, he, h1, -, h2, h3, h4⟩ := tlbProbe_result h hop rfl rfl
      exact ⟨y, he, h1, h4, fun e hf => ⟨h2.trans (if_neg (by rw [hf]; exact Option.some_ne_none e)), h3 e hf⟩, fun hf => h2.trans (if_pos hf)⟩
    · obtain ⟨y, he, h1, -, -, h3, h4⟩ := tlbClear_result h hop (.inl rfl) (c := .tlbInvall k ps sn t) (f := fun w => (Fld.mk 2 0).get w == 4) rfl
        (beq_iff_eq.2 ((tlbOp_eq v).trans hop)) (p := fun _ => true) rfl hq
      exact ⟨y, he, h1, h4, fun e hlt => (h3 e hlt).trans (Bool.and_false _)⟩
    · obtain ⟨y, he, ⟨h1, -⟩, -, h3, h4⟩ := tlbInvasid_result h hop hq
      exact ⟨y, he, h1, h4, h3⟩
    · obtain ⟨y, he, h1, -, h2, h3, h4, h5, h6⟩ := curasid_result h hq
      exact ⟨y, he, h1, h2, h3, h4, h5, h6⟩
  · have h : SvWrites s k ps sn t v ws := ⟨hi, htop, htag, hot⟩
    refine ⟨fun h0 hu _ hst => ?_, fun h8 hen => ⟨fun hc hfit => ?_, l2Enable_refused h h8 hen, fun hc hfit => ?_⟩, fun h8 hen => ?_, fun hv => ?_⟩
    · obtain ⟨y, he, ⟨h1, -⟩, -, h3, h4, h5⟩ := dcacheDisable_result h h0
      exact ⟨y, he, h1, h4 hu, (h5 hst).1, h3.trans hu, (h5 hst).2⟩
    · obtain ⟨y, he, ⟨h1, -⟩, h2⟩ := l2Enable_starts h h8 hen hc hfit
      exact ⟨y, he, h1, h2⟩
    · obtain ⟨y, he, ⟨h1, -⟩, h2⟩ := l2Enable_cancels h h8 hen hc hfit
      exact ⟨y, he, h1, h2⟩
    · obtain ⟨y, he, ⟨h1, -⟩, h2⟩ := l2Disable_cleans h h8 hen
      exact ⟨y, he, h1, h2⟩
    · obtain ⟨y, he, ⟨h1, -⟩, h2⟩ := wayDisable_result h hv
      exact ⟨y, he, h1, h2⟩

/-- Settles O59: each clause is the result lemma of its command. -/
theorem supervisorWritesComplete : Obligations.SupervisorWritesComplete := by
  unfold Obligations.SupervisorWritesComplete
  intro s k ps sn t ws v tr
  refine fun hi htop htag hot => ?_
  have h : SvWrites s k ps sn t v ws := ⟨hi, htop, htag, hot⟩
  refine ⟨fun hop hfree htr => svcClean_result h hop hfree.1 htr hfree.2, fun hop hfree htr => svcInv_result h hop hfree.1 htr hfree.2,
    fun hop hfree htr => svcCleaninv_result h hop hfree.1 htr hfree.2, fun hop hfree htr => svcIcinv_result h hop hfree.1 htr hfree.2,
    fun hop => allCommand_result (op := 5) h hop (by decide) (c := .svcAllclean k ps sn t) rfl,
    fun hop => allCommand_result (op := 6) h hop (by decide) (c := .svcAllcleaninv k ps sn t) rfl,
    fun hop => allCommand_result (op := 7) h hop (by decide) (c := .svcAllinv k ps sn t) rfl,
    fun hop => ?_, fun hop hq => ?_, fun hop => ?_, fun hop hq => ?_, fun hop hq => ?_, fun hq => ?_,
    fun h0 => ?_, fun h8 hen => ?_, fun h8 => ?_, fun hv => ?_⟩
  · obtain ⟨y, he, h1, hpc, h2, h3, h4, -⟩ := tlbRead_result h hop
    exact ⟨y, he, ⟨h1, hpc⟩, h2, h3, h4⟩
  · obtain ⟨y, he, h1, hpc, h2, h3, -⟩ := tlbWrite_result h hop rfl rfl hq rfl
    refine ⟨y, he, ⟨h1, hpc⟩, h2, (h3 _).trans (if_congr ?_ rfl rfl)⟩
    exact ⟨fun hr => h2.trans hr.2, fun hr => ⟨rfl, h2.symm.trans hr⟩⟩
  · obtain ⟨y, he, h1, hpc, h2, h3, -⟩ := tlbProbe_result h hop rfl rfl
    refine ⟨y, he, ⟨h1, hpc⟩, ⟨fun hr => ?_, fun hn => h2.trans (if_pos hn)⟩, fun e hf => ⟨h2.trans (if_neg (by rw [hf]; exact Option.some_ne_none e)), h3 e hf⟩⟩
    by_contra hn
    exact absurd (h2.symm.trans hr) (by rw [if_neg hn]; decide)
  · obtain ⟨y, he, h1, hpc, h2, h3, -⟩ := tlbClear_result h hop (.inl rfl) (c := .tlbInvall k ps sn t) (f := fun w => (Fld.mk 2 0).get w == 4) rfl
      (beq_iff_eq.2 ((tlbOp_eq v).trans hop)) (p := fun _ => true) rfl hq
    exact ⟨y, he, ⟨h1, hpc⟩, h2, fun e hlt => (h3 e hlt).trans (Bool.and_false _)⟩
  · obtain ⟨y, he, h1, h2, h3, -⟩ := tlbInvasid_result h hop hq
    refine ⟨y, he, h1, h2, fun e hlt hg ha => (h3 e hlt).trans ?_⟩
    rw [hg, ha, bne_self_eq_false, Bool.or_self, Bool.and_false]
  · obtain ⟨y, he, h1, hpc, -, -, -, h5, h6⟩ := curasid_result h hq
    exact ⟨y, he, ⟨h1, hpc⟩, h5, h6⟩
  · obtain ⟨y, he, h1, h2, h3, h4, -⟩ := dcacheDisable_result h h0
    exact ⟨y, he, h1, h2, h3, h4⟩
  · exact l2Enable_result h h8 hen
  · exact l2Disable_result h h8
  · obtain ⟨y, he, h1, h2, -, -, h3, -⟩ := wayDisable_result h hv
    exact ⟨y, he, h1, h2, h3⟩

end Sys2Proof.Machine

/-! Commands on a law slot (R49, R56, R67, R70, R71, R75, R79 to R81). -/

namespace Sys2Proof.Machine

set_option Elab.async false

/-! The registers of a slot, in one engine. -/

theorem aeWrite_exec {s u : State} {c : Instr} {q : Req} {n : Nat} (f : State → State) (he : exec c s = aeWrite q n s f)
    (hon : pdOn s (18 + engOf n) = true) (hq : holdsType s q 2 = true) (hu : f s = u) : exec c s = .next (respond u 0) := by
  rw [he, aeWrite, hon, if_neg (by decide), show otAccord = 2 from rfl, hq, if_neg (by decide), hu]
  rfl

theorem aeWriteOpen_exec {s u : State} {c : Instr} {n : Nat} (f : State → State) (he : exec c s = aeWriteOpen n s f)
    (hon : pdOn s (18 + engOf n) = true) (hu : f s = u) : exec c s = .next (respond u 0) := by
  rw [he, aeWriteOpen, hon, if_neg (by decide), hu]
  rfl

theorem regsAre_wr (s : State) (a : Nat) (v : Word) : RegsAre [(a, v)] s (wr s a v) :=
  ⟨fun p hp => by rw [List.mem_singleton.1 hp]; exact rd_wr_same s a v, regsBut_wr s a v⟩

/-- A command that writes registers of an engine and does nothing else. -/
theorem slotRegs_result {c : Instr} {s u : State} {l : List (Nat × Word)} (he : exec c s = .next (respond u 0)) (hr : RegsAre l s u)
    (hp : SameBut [.regs] s u) : Runs c s (fun t => t.resp = ⟨0, 0⟩ ∧ RegsAre l s t ∧ SameBut [.regs, .resp] s t) :=
  ⟨_, he, rfl, hr.and (regsBut_respond u 0 0), (hp.mono (by decide) : SameBut [.regs, .resp] s u).and (respond_sameBut u 0 0)⟩

section Simple

variable {s : State} {q : Req} {n : Fin 128}

theorem manualModeWrite_result (b : Bool) (hon : pdOn s (18 + engOf n.val) = true) (hq : holdsType s q 2 = true) :
    Runs (.manualModeWrite q n b) s (fun t => t.resp = ⟨0, 0⟩ ∧ RegsAre [withFld s (slotHoctl n.val) aeHoctlMAN (b2n b)] s t ∧ SameBut [.regs, .resp] s t) :=
  slotRegs_result (aeWrite_exec (fun s => wb s (slotHoctl n.val) aeHoctlMAN b) rfl hon hq rfl) (regsAre_wb s _ _ b) (wb_sameBut s _ _ b)

theorem cbmodeWrite_result (b : Bool) (hon : pdOn s (18 + engOf n.val) = true) (hq : holdsType s q 2 = true) :
    Runs (.cbmodeWrite q n b) s (fun t => t.resp = ⟨0, 0⟩ ∧ RegsAre [withFld s (slotCtl n.val) aeSlotctlCBMODE (b2n b)] s t ∧ SameBut [.regs, .resp] s t) :=
  slotRegs_result (aeWrite_exec (fun s => wb s (slotCtl n.val) aeSlotctlCBMODE b) rfl hon hq rfl) (regsAre_wb s _ _ b) (wb_sameBut s _ _ b)

theorem slotAdopt_result (hon : pdOn s (18 + engOf n.val) = true) :
    Runs (.slotAdopt n) s (fun t => t.resp = ⟨0, 0⟩ ∧ RegsAre [withFld s (slotCtl n.val) aeSlotctlADOPT 1] s t ∧ SameBut [.regs, .resp] s t) :=
  slotRegs_result (aeWriteOpen_exec (fun s => adoptWrite s n.val) rfl hon rfl) (regsAre_wb s _ _ true) (wb_sameBut s _ _ true)

theorem bswap_live (hon : pdOn s (18 + engOf n.val) = true) (hl : slotLive s n.val = true) :
    Runs (.bswap n) s (fun t => t.resp = ⟨0, 0⟩ ∧ RegsAre [withFld s (slotCtl n.val) aeSlotctlBSWAP 1] s t ∧ SameBut [.regs, .resp] s t) := by
  refine slotRegs_result (aeWriteOpen_exec (fun s => bswapWrite s n.val) rfl hon ?_) (regsAre_wb s _ _ true) (wb_sameBut s _ _ true)
  exact if_pos hl

theorem bswap_idle (hon : pdOn s (18 + engOf n.val) = true) (hl : slotLive s n.val = false) :
    Runs (.bswap n) s (fun t => rb t (slotCtl n.val) aeSlotctlBANK = !rb s (slotCtl n.val) aeSlotctlBANK ∧ rb t (slotCtl n.val) aeSlotctlBSWAP = false ∧
      RegsBut [slotCtl n.val] s t ∧ SameBut [.regs, .resp] s t) := by
  refine ⟨respond (bankToggle s n.val) 0, aeWriteOpen_exec (fun s => bswapWrite s n.val) rfl hon (if_neg (by simp [hl])), ?_⟩
  unfold bankToggle
  have h1 := rb_wb_same s (slotCtl n.val) aeSlotctlBANK (!rb s (slotCtl n.val) aeSlotctlBANK) rfl
  have hr := regsBut_wb s (slotCtl n.val) aeSlotctlBANK (!rb s (slotCtl n.val) aeSlotctlBANK)
  have hp := wb_sameBut s (slotCtl n.val) aeSlotctlBANK (!rb s (slotCtl n.val) aeSlotctlBANK)
  generalize wb s (slotCtl n.val) aeSlotctlBANK (!rb s (slotCtl n.val) aeSlotctlBANK) = u at h1 hr hp
  have h2 := (rb_wb_apart u (slotCtl n.val) aeSlotctlBSWAP aeSlotctlBANK false rfl rfl (by decide)).trans h1
  have h3 := rb_wb_same u (slotCtl n.val) aeSlotctlBSWAP false rfl
  have hr2 := hr.and (regsBut_wb u (slotCtl n.val) aeSlotctlBSWAP false)
  have hp2 := hp.and (wb_sameBut u (slotCtl n.val) aeSlotctlBSWAP false)
  generalize wb u (slotCtl n.val) aeSlotctlBSWAP false = w at h2 h3 hr2 hp2
  exact ⟨((regsBut_respond w 0 0).rb_eq List.not_mem_nil _).trans h2, ((regsBut_respond w 0 0).rb_eq List.not_mem_nil _).trans h3,
    hr2.and (regsBut_respond w 0 0) (fun _ hx => (nomatch hx)), (hp2.mono (by decide) : SameBut [.regs, .resp] s w).and (respond_sameBut w 0 0)⟩

theorem horeq_result (hon : pdOn s (18 + engOf n.val) = true) (hh : rb s (slotHoctl n.val) aeHoctlHOREQ = false) : Runs (.horeq n) s (fun t =>
    RegsAre [withFld s (slotHoctl n.val) aeHoctlHOREQ 1] s t ∧ slotOf t n.val = { slotOf s n.val with noTake := false } ∧
    SameBut [.regs, .ae, .resp] s t) := by
  refine ⟨respond (setSlot (wb s (slotHoctl n.val) aeHoctlHOREQ true) n.val { slotOf s n.val with noTake := false }) 0,
    aeWriteOpen_exec (fun s => horeqWrite s n.val) rfl hon (if_neg (by simp [hh])), ?_⟩
  have ha := regsAre_wb s (slotHoctl n.val) aeHoctlHOREQ true
  have hp := wb_sameBut s (slotHoctl n.val) aeHoctlHOREQ true
  generalize wb s (slotHoctl n.val) aeHoctlHOREQ true = u at ha hp
  exact ⟨(ha.and (regsBut_setSlot u _ _)).and (regsBut_respond _ 0 0), slotOf_setSlot_same u _ _,
    ((hp.mono (by decide) : SameBut [.regs, .ae, .resp] s u).and (setSlot_sameBut u _ _)).and (respond_sameBut _ 0 0)⟩

end Simple

/-! Writes of a template (R67, R70). -/

/-- How AE_TMPL is listed. -/
def tmplDesc : RegDesc := (regTableAe.find? (fun d => d.base == aeTmpl 0 0 0)).getD ⟨"", 0, [], .por, .aon, 0, []⟩

theorem regFind_tmpl (n : Fin 128) (e : Fin 8) : regFind (tmplAddr n.val e.val) = some (tmplDesc, [engOf n.val, locOf n.val, e.val]) := by
  revert n e
  decide +kernel

/-- Words that agree in fields that cover a word are the same. -/
theorem Fld.word_ext {l : List Fld} (hc : ∀ i < 48, ∃ f ∈ l, f.lo ≤ i ∧ i ≤ f.hi) {v w : Word} (h : ∀ f ∈ l, f.get v = f.get w) : v = w := by
  refine BitVec.eq_of_getLsbD_eq (fun i hi => ?_)
  obtain ⟨f, hf, h1, h2⟩ := hc i hi
  have hb (x : Word) : x.getLsbD i = (f.get x).testBit (i - f.lo) := by
    rw [Fld.testBit_get, decide_eq_true (by omega), Bool.true_and, Nat.add_sub_cancel' h1]
  rw [hb v, hb w, h f hf]

theorem tmplDesc_fields : tmplDesc.fields.Pairwise FldDesc.apart ∧ (∀ f ∈ tmplDesc.fields, f.fld.fits = true) ∧ (∀ f ∈ tmplDesc.fields, f.acc = .rwt) ∧
    ∀ i < 48, ∃ f ∈ tmplDesc.fields.map FldDesc.fld, f.lo ≤ i ∧ i ≤ f.hi := by decide +kernel

theorem regMerge_tmpl (old v : Word) : regMerge tmplDesc old v true = v := by
  obtain ⟨hl, hfit, hacc, hcov⟩ := tmplDesc_fields
  refine Fld.word_ext hcov (fun g hg => ?_)
  obtain ⟨f, hf, rfl⟩ := List.mem_map.1 hg
  rw [get_regMerge hl hfit old v true hf, hacc f hf]
  rfl

theorem regPut_tmpl (s : State) (n : Fin 128) (e : Fin 8) (v : Word) : regPut s (tmplAddr n.val e.val) true v = wr s (tmplAddr n.val e.val) v := by
  rw [regPut_plain (regFind_tmpl n e) rfl, regMerge_tmpl]

section Templates

variable {s : State} {q : Req} {n : Fin 128} {e : Fin 8} {v : Word}

theorem tmplAddr_ne (n e : Nat) (he : e < 8) : slotSts n ≠ tmplAddr n e ∧ slotAdtcfg n ≠ tmplAddr n e ∧ adtAddr n e ≠ tmplAddr n e := by
  simp only [slotSts, aeSlotsts, tmplAddr, aeTmpl, slotAdtcfg, aeAdtcfg, adtAddr, aeAdtval, engOf, locOf]
  omega

/-- A slot and its templates' settings after a template was written. -/
theorem tmplWritten_looks (s : State) (n : Fin 128) (e : Fin 8) (v : Word) : slotLive (wr s (tmplAddr n.val e.val) v) n.val = slotLive s n.val ∧
    tmplAdapts (wr s (tmplAddr n.val e.val) v) n.val e.val = (rbit s (slotAdtcfg n.val) aeAdtcfgADTEN e.val && (aeTmplS.get v == 1 || aeTmplS.get v == 2)) := by
  obtain ⟨h1, h2, -⟩ := tmplAddr_ne n.val e.val e.isLt
  have hr := regsBut_wr s (tmplAddr n.val e.val) v
  refine ⟨?_, ?_⟩
  · rw [slotLive, phaseOf, hr.rf_eq (by simpa using h1), slotLive, phaseOf]
  · rw [tmplAdapts, hr.rbit_eq (by simpa using h2), rf, rd_wr_same]

theorem templateWrite_plain (hon : pdOn s (18 + engOf n.val) = true) (hq : holdsType s q 2 = true)
    (h : slotLive s n.val = false ∨ rbit s (slotAdtcfg n.val) aeAdtcfgADTEN e.val = false ∨ aeTmplS.get v = 0 ∨ aeTmplS.get v = 3) :
    Runs (.templateWrite q n e v) s (fun t => t.resp = ⟨0, 0⟩ ∧ RegsAre [(tmplAddr n.val e.val, v)] s t ∧ SameBut [.regs, .resp] s t) := by
  obtain ⟨hl, ha⟩ := tmplWritten_looks s n e v
  refine slotRegs_result (u := wr s (tmplAddr n.val e.val) v) (aeWrite_exec (fun s => tmplWrite s n.val e.val true v) rfl hon hq ?_) (regsAre_wr s _ v) (wr_sameBut s _ v)
  rw [tmplWrite, regPut_tmpl, hl, ha, if_neg (by rcases h with h | h | h | h <;> simp [h])]

theorem templateWrite_adapts (hon : pdOn s (18 + engOf n.val) = true) (hq : holdsType s q 2 = true) (hlive : slotLive s n.val = true)
    (hen : rbit s (slotAdtcfg n.val) aeAdtcfgADTEN e.val = true) (hs : aeTmplS.get v = 1 ∨ aeTmplS.get v = 2) :
    Runs (.templateWrite q n e v) s (fun t => t.resp = ⟨0, 0⟩ ∧ RegsAre [(tmplAddr n.val e.val, v), withFld s (adtAddr n.val e.val) aeAdtvalDT
      (min (max (aeTmplDT.get v) (slotOf s n.val).winLo) (slotOf s n.val).winHi)] s t ∧ SameBut [.regs, .resp] s t) := by
  obtain ⟨hl, ha⟩ := tmplWritten_looks s n e v
  obtain ⟨-, -, hne⟩ := tmplAddr_ne n.val e.val e.isLt
  have hd : rf (wr s (tmplAddr n.val e.val) v) (tmplAddr n.val e.val) aeTmplDT = aeTmplDT.get v := by rw [rf, rd_wr_same]
  refine slotRegs_result (u := wf (wr s (tmplAddr n.val e.val) v) (adtAddr n.val e.val) aeAdtvalDT
    (min (max (aeTmplDT.get v) (slotOf s n.val).winLo) (slotOf s n.val).winHi)) (aeWrite_exec (fun s => tmplWrite s n.val e.val true v) rfl hon hq ?_)
    ((regsAre_wr s _ v).wf (by simpa using hne) _ _ |>.of_mem (by simp [or_comm])) ((wr_sameBut s _ v).and (wf_sameBut _ _ _ _))
  rw [tmplWrite, regPut_tmpl, hl, ha, hlive, hen, if_pos (by rcases hs with hs | hs <;> simp [hs]), adtPreset, hd]
  rfl

end Templates

/-! Coefficients (R56). -/

section Coefficients

variable {s : State} {n w : Fin 128} {v : Word} {off : Nat}

theorem coefWrite_exec {r : Nat × State} (hoff : (cBase s n.val + w.val) % 0x2000 = off) (hon : pdOn s (18 + engOf n.val) = true)
    (hr : aeRamWrite s (engOf n.val) off v = r) : exec (.coefWrite n w v) s = .next (respond r.2 r.1) := by
  show execCoefWrite n w v s = _
  rw [execCoefWrite, hon, if_neg (by decide), hoff, hr]
  rfl

theorem coefWrite_state (hoff : (cBase s n.val + w.val) % 0x2000 = off) (hon : pdOn s (18 + engOf n.val) = true) (h : 0x1C00 ≤ off) :
    Runs (.coefWrite n w v) s (fun t => t.resp = ⟨0, 0⟩ ∧
      RegsAre [withFld s (slotSts (16 * engOf n.val + (off - 0x1C00) / 64 % 16)) aeSlotstsLOCKV 1] s t ∧ SameBut [.regs, .resp] s t) :=
  slotRegs_result (coefWrite_exec hoff hon (if_pos h)) (regsAre_wb s _ _ true) (wb_sameBut s _ _ true)

theorem slotLockv_foldl (l : List Nat) (s : State) : (∀ m, m ∈ l ∨ rb s (slotSts m) aeSlotstsLOCKV = true → rb (l.foldl slotLockv s) (slotSts m) aeSlotstsLOCKV = true) ∧
    RegsBut (l.map slotSts) s (l.foldl slotLockv s) ∧ SameBut [.regs] s (l.foldl slotLockv s) := by
  induction l generalizing s with
  | nil => exact ⟨fun m h => h.resolve_left List.not_mem_nil, RegsBut.refl _ s, SameBut.refl _ s⟩
  | cons k l ih =>
    obtain ⟨h1, h2, h3⟩ := ih (slotLockv s k)
    rw [List.foldl_cons]
    have hk : RegsBut ((k :: l).map slotSts) s (slotLockv s k) := (regsBut_wb s (slotSts k) aeSlotstsLOCKV true).mono (by simp)
    have hl : RegsBut ((k :: l).map slotSts) (slotLockv s k) (l.foldl slotLockv (slotLockv s k)) := h2.mono (fun a ha => List.mem_cons_of_mem _ ha)
    refine ⟨fun m h => ?_, hk.and hl (fun _ hx => hx), (wb_sameBut s _ _ true).trans h3⟩
    by_cases hm : slotSts m = slotSts k
    · exact h1 m (.inr (by rw [slotLockv, hm]; exact rb_wb_same s _ _ true rfl))
    · refine h1 m (h.imp (fun h => (List.mem_cons.1 h).resolve_left (fun e => hm (e ▸ rfl))) (fun h => ?_))
      exact (rb_wb_other s _ _ true hm).trans h

theorem coefWrite_locked (hoff : (cBase s n.val + w.val) % 0x2000 = off) (hon : pdOn s (18 + engOf n.val) = true) (h : off < 0x1C00)
    (hex : ∃ m ∈ liveSlots s (engOf n.val), inProgram s m off = true) : Runs (.coefWrite n w v) s (fun t => t.resp = ⟨0, 0⟩ ∧
      (∀ m ∈ liveSlots s (engOf n.val), inProgram s m off = true → rb t (slotSts m) aeSlotstsLOCKV = true) ∧
      RegsBut (((liveSlots s (engOf n.val)).filter (fun m => inProgram s m off)).map slotSts) s t ∧ SameBut [.regs, .resp] s t) := by
  have hr : aeRamWrite s (engOf n.val) off v = (0, ((liveSlots s (engOf n.val)).filter (fun m => inProgram s m off)).foldl slotLockv s) := by
    rw [aeRamWrite, if_neg (by omega)]
    obtain ⟨m, hm, hp⟩ := hex
    have hmem : m ∈ (liveSlots s (engOf n.val)).filter (fun m => inProgram s m off) := List.mem_filter.2 ⟨hm, hp⟩
    cases hl : (liveSlots s (engOf n.val)).filter (fun m => inProgram s m off) with
    | nil => rw [hl] at hmem; exact absurd hmem List.not_mem_nil
    | cons k l => rfl
  obtain ⟨h1, h2, h3⟩ := slotLockv_foldl ((liveSlots s (engOf n.val)).filter (fun m => inProgram s m off)) s
  exact ⟨_, coefWrite_exec hoff hon hr, rfl, fun m hm hp => h1 m (.inl (List.mem_filter.2 ⟨hm, hp⟩)), h2.and (regsBut_respond _ 0 0) (fun _ hx => (nomatch hx)),
    (h3.mono (by decide) : SameBut [.regs, .resp] s _).and (respond_sameBut _ 0 0)⟩

theorem aeRamWrite_open (h : off < 0x1C00) {e : Nat} (hp : (liveSlots s e).find? (fun m => inProgram s m off) = none) : aeRamWrite s e off v =
    ((liveSlots s e).find? (fun m => inActiveBank s m off)).elim (0, ramWr s (16 * e) off v)
      (fun m => if (slotOf s m).cbMode then (0, slotLockv s m) else coefEnter s e off v) := by
  have hl : (liveSlots s e).filter (fun m => inProgram s m off) = [] := by
    rw [List.filter_eq_nil_iff]
    exact List.find?_eq_none.1 hp
  rw [aeRamWrite, if_neg (by omega), hl]
  dsimp only
  cases (liveSlots s e).find? (fun m => inActiveBank s m off) <;> rfl

theorem ramWr_whole {s : State} {n : Nat} (h : RamWhole s (engOf n)) (off : Nat) (v : Word) :
    ramWr s n off v = memWr s (ramAddr (engOf n) (off % 0x2000)) v := by
  rw [ramWr, h]
  rfl

theorem memWr_sameBut (s : State) (a : Nat) (v : Word) : SameBut [.mem] s (memWr s a v) := mem_sameBut s _

theorem coefWrite_stored (hoff : (cBase s n.val + w.val) % 0x2000 = off) (hon : pdOn s (18 + engOf n.val) = true) (hw : RamWhole s (engOf n.val))
    (h : off < 0x1C00) (hp : (liveSlots s (engOf n.val)).find? (fun m => inProgram s m off) = none)
    (ha : (liveSlots s (engOf n.val)).find? (fun m => inActiveBank s m off) = none) : Runs (.coefWrite n w v) s (fun t =>
      (∀ a, memRd t a = if a = ramAddr (engOf n.val) off then v else memRd s a) ∧ SameBut [.mem, .resp] s t) := by
  have he : engOf (16 * engOf n.val) = engOf n.val := by simp only [engOf]; omega
  have hr : aeRamWrite s (engOf n.val) off v = (0, memWr s (ramAddr (engOf n.val) off) v) := by
    rw [aeRamWrite_open h hp, ha]
    show (0, ramWr s (16 * engOf n.val) off v) = _
    rw [ramWr_whole (by rw [he]; exact hw), he, Nat.mod_eq_of_lt (by omega)]
  exact ⟨_, coefWrite_exec hoff hon hr, fun a => memRd_memWr s _ a v,
    ((memWr_sameBut s _ v).mono (by decide) : SameBut [.mem, .resp] s _).and (respond_sameBut _ 0 0)⟩

theorem coefQ_setCoefQ (s : State) (e : Nat) (q : List (Nat × Word)) : coefQ (setCoefQ s e q) e = q := tget_tset_same [] s.ae.coefq e q

theorem setCoefQ_regs (s : State) (e : Nat) (q : List (Nat × Word)) : RegsAre [withFld s (aeCqsts e) aeCqstsUSED q.length] s (setCoefQ s e q) :=
  regsAre_wf { s with ae := { s.ae with coefq := tset [] s.ae.coefq e q } } (aeCqsts e) aeCqstsUSED q.length

theorem setCoefQ_sameBut (s : State) (e : Nat) (q : List (Nat × Word)) : SameBut [.regs, .ae] s (setCoefQ s e q) := by
  have hae : SameBut [.ae] s { s with ae := { s.ae with coefq := tset [] s.ae.coefq e q } } := by
    intro p hp; cases p <;> simp [Part.same] at hp ⊢
  exact (hae.mono (by decide) : SameBut [.regs, .ae] s _).and (wf_sameBut _ _ _ _)

theorem coefWrite_queued (hoff : (cBase s n.val + w.val) % 0x2000 = off) (hon : pdOn s (18 + engOf n.val) = true)
    (h : off < 0x1C00) (hp : (liveSlots s (engOf n.val)).find? (fun m => inProgram s m off) = none) {m : Nat}
    (ha : (liveSlots s (engOf n.val)).find? (fun m => inActiveBank s m off) = some m) (hc : (slotOf s m).cbMode = false)
    (hq : (coefQ s (engOf n.val)).any (fun p => p.1 == off) = false) :
    ((coefQ s (engOf n.val)).length < 16 → Runs (.coefWrite n w v) s (fun t => t.resp = ⟨0, 0⟩ ∧ coefQ t (engOf n.val) = coefQ s (engOf n.val) ++ [(off, v)] ∧
      RegsAre [withFld s (aeCqsts (engOf n.val)) aeCqstsUSED ((coefQ s (engOf n.val)).length + 1)] s t ∧ SameBut [.regs, .ae, .resp] s t)) ∧
    (16 ≤ (coefQ s (engOf n.val)).length → Runs (.coefWrite n w v) s (fun t => t.resp = ⟨1, 0⟩ ∧ coefQ t (engOf n.val) = coefQ s (engOf n.val) ∧
      RegsAre [counted s (aeCqsts (engOf n.val)) aeCqstsFULL] s t ∧ SameBut [.regs, .resp] s t)) := by
  have hr : aeRamWrite s (engOf n.val) off v = if 16 ≤ (coefQ s (engOf n.val)).length then (1, inc s (aeCqsts (engOf n.val)) aeCqstsFULL)
      else (0, setCoefQ s (engOf n.val) (coefQ s (engOf n.val) ++ [(off, v)])) := by
    rw [aeRamWrite_open h hp, ha, Option.elim_some, hc, if_neg (by decide), coefEnter, hq, if_neg (by decide)]
  refine ⟨fun hlen => ?_, fun hlen => ?_⟩
  · rw [if_neg (by omega)] at hr
    have hregs := setCoefQ_regs s (engOf n.val) (coefQ s (engOf n.val) ++ [(off, v)])
    rw [List.length_append, List.length_singleton] at hregs
    exact ⟨_, coefWrite_exec hoff hon hr, rfl, coefQ_setCoefQ s _ _, hregs.and (regsBut_respond _ 0 0),
      ((setCoefQ_sameBut s _ _).mono (by decide) : SameBut [.regs, .ae, .resp] s _).and (respond_sameBut _ 0 0)⟩
  · rw [if_pos hlen] at hr
    exact ⟨_, coefWrite_exec hoff hon hr, rfl, rfl, (regsAre_inc s _ _).and (regsBut_respond _ 1 0),
      ((inc_sameBut s _ _ 1).mono (by decide) : SameBut [.regs, .resp] s _).and (respond_sameBut _ 1 0)⟩

end Coefficients

/-! A program that is refused (R49). -/

section Refusal

theorem stepTest_lt {w : Word} {c : ScanSt} {r : Nat} (h : stepTest w c = some r) : r < 16 := by
  unfold stepTest at h
  dsimp only at h
  repeat' split at h
  all_goals first | (cases h; omega) | cases h

theorem scanProg_lt {word : Nat → Word} {pbase r j : Nat} (fuel i : Nat) (c : ScanSt) (h : scanProg word pbase fuel i c = some (r, j)) : r < 16 := by
  induction fuel generalizing i c with
  | zero => cases h; decide
  | succ fuel ih =>
    rw [scanProg] at h
    dsimp only at h
    split at h
    · cases h; decide
    · split at h
      · next hr => cases h; exact stepTest_lt hr
      · split at h
        · repeat' split at h
          all_goals first | (cases h; omega) | cases h
        · exact ih _ _ h

theorem progCheck_lt {s : State} {n r i : Nat} (h : progCheck s n = some (r, i)) : r < 16 := by
  unfold progCheck at h
  dsimp only at h
  split at h
  · cases h; decide
  · exact scanProg_lt _ _ _ h

/-- A form error is recorded. -/
def formNoted (s : State) (n r i : Nat) : State :=
  wf (wf (wf s (aeFormerr (engOf n)) aeFormerrSLOT (locOf n)) (aeFormerr (engOf n)) aeFormerrSTEP i) (aeFormerr (engOf n)) aeFormerrREASON r

theorem formNoted_spec (s : State) (n : Nat) {r i : Nat} (hr : r < 16) (hi : i < 64) :
    rf (formNoted s n r i) (aeFormerr (engOf n)) aeFormerrSLOT = locOf n ∧ rf (formNoted s n r i) (aeFormerr (engOf n)) aeFormerrSTEP = i ∧
    rf (formNoted s n r i) (aeFormerr (engOf n)) aeFormerrREASON = r ∧ RegsBut [aeFormerr (engOf n)] s (formNoted s n r i) ∧
    SameBut [.regs] s (formNoted s n r i) := by
  have hl : locOf n < 16 := Nat.mod_lt _ (by decide)
  refine ⟨?_, ?_, ?_, ((regsBut_wf s _ _ _).and (regsBut_wf _ _ _ _)).and (regsBut_wf _ _ _ _), ((wf_sameBut s _ _ _).and (wf_sameBut _ _ _ _)).and (wf_sameBut _ _ _ _)⟩
  · exact (rf_wf_apart _ _ _ _ _ rfl rfl (by decide)).trans ((rf_wf_apart _ _ _ _ _ rfl rfl (by decide)).trans
      ((rf_wf_same _ _ _ _ rfl).trans (Nat.mod_eq_of_lt hl)))
  · exact (rf_wf_apart _ _ _ _ _ rfl rfl (by decide)).trans ((rf_wf_same _ _ _ _ rfl).trans (Nat.mod_eq_of_lt hi))
  · exact (rf_wf_same _ _ _ _ rfl).trans (Nat.mod_eq_of_lt hr)

variable {s : State} {q : Req} {n : Fin 128} {r i : Nat}

theorem slotEnable_refused (hon : pdOn s (18 + engOf n.val) = true) (hq : holdsType s q 2 = true) (hen : rb s (slotCtl n.val) aeSlotctlEN = false)
    (hl : slotLive s n.val = false) (hp : progCheck s n.val = some (r, i)) (hi : i < 64) : Runs (.slotEnable q n) s (fun t =>
      rb t (slotCtl n.val) aeSlotctlEN = false ∧ rb t (slotSts n.val) aeSlotstsFORM = true ∧
      rf t (aeFormerr (engOf n.val)) aeFormerrSLOT = locOf n.val ∧ rf t (aeFormerr (engOf n.val)) aeFormerrSTEP = i ∧
      rf t (aeFormerr (engOf n.val)) aeFormerrREASON = r ∧ RegsBut [slotCtl n.val, slotSts n.val, aeFormerr (engOf n.val)] s t ∧ SameBut [.regs, .resp] s t) := by
  obtain ⟨h1, h2, h3, hr, hs⟩ := formNoted_spec s n.val (progCheck_lt hp) hi
  refine ⟨respond (wb (wb (formNoted s n.val r i) (slotCtl n.val) aeSlotctlEN false) (slotSts n.val) aeSlotstsFORM true) 0,
    aeWrite_exec (fun s => if rb s (slotCtl n.val) aeSlotctlEN then s else slotEnWrite s n.val) rfl hon hq ?_, ?_⟩
  · rw [hen, if_neg (by decide), slotEnWrite, hl, if_neg (by decide), slotEnable, hp]
    rfl
  have hne : slotCtl n.val ≠ slotSts n.val ∧ aeFormerr (engOf n.val) ≠ slotCtl n.val ∧ aeFormerr (engOf n.val) ≠ slotSts n.val := by
    simp only [slotCtl, aeSlotctl, slotSts, aeSlotsts, aeFormerr, engOf, locOf]
    omega
  generalize formNoted s n.val r i = u at h1 h2 h3 hr hs
  have c1 := rb_wb_same u (slotCtl n.val) aeSlotctlEN false rfl
  have cr := regsBut_wb u (slotCtl n.val) aeSlotctlEN false
  have cs := hs.and (wb_sameBut u (slotCtl n.val) aeSlotctlEN false)
  generalize wb u (slotCtl n.val) aeSlotctlEN false = w at c1 cr cs
  have d1 := rb_wb_same w (slotSts n.val) aeSlotstsFORM true rfl
  have dr := regsBut_wb w (slotSts n.val) aeSlotstsFORM true
  have ds := cs.and (wb_sameBut w (slotSts n.val) aeSlotstsFORM true)
  generalize wb w (slotSts n.val) aeSlotstsFORM true = x at d1 dr ds
  have hb := regsBut_respond x 0 0
  have hform (f : Fld) : rf (respond x 0) (aeFormerr (engOf n.val)) f = rf u (aeFormerr (engOf n.val)) f :=
    (hb.rf_eq List.not_mem_nil f).trans ((dr.rf_eq (by simpa using hne.2.2) f).trans (cr.rf_eq (by simpa using hne.2.1) f))
  refine ⟨(hb.rb_eq List.not_mem_nil _).trans ((dr.rb_eq (by simpa using hne.1) _).trans c1), (hb.rb_eq List.not_mem_nil _).trans d1,
    (hform _).trans h1, (hform _).trans h2, (hform _).trans h3, ?_, (ds.mono (by decide) : SameBut [.regs, .resp] s x).and (respond_sameBut x 0 0)⟩
  exact (((hr.trans cr).trans dr).trans hb).mono (by simp)

end Refusal

/-! A slot is enabled and disabled (R49, R79, R81). -/

section Enables

variable {s t : State} {n : Nat}

theorem coefCommit_none (h : (coefQ s (engOf n)).all (fun p => !inCoefArea s n p.1) = true) : coefCommit s n = s := by
  have hf : (coefQ s (engOf n)).filter (fun p => inCoefArea s n p.1) = [] := by
    rw [List.filter_eq_nil_iff]
    intro p hp
    have := List.all_eq_true.1 h p hp
    simpa using this
  rw [coefCommit, hf]
  rfl

theorem inCoefArea_congr {l : List Nat} (hr : RegsBut l s t) (hl : slotBase n ∉ l) (off : Nat) : inCoefArea t n off = inCoefArea s n off := by
  rw [inCoefArea, cBase, hr.rf_eq hl, inCoefArea, cBase]

/-- Nothing that waits for a slot's coefficients waits in another state either. -/
theorem coefIdle_congr {l : List Nat} (hr : RegsBut l s t) (hl : slotBase n ∉ l) (hae : t.ae = s.ae)
    (h : (coefQ s (engOf n)).all (fun p => !inCoefArea s n p.1) = true) : (coefQ t (engOf n)).all (fun p => !inCoefArea t n p.1) = true := by
  have hq : coefQ t (engOf n) = coefQ s (engOf n) := by rw [coefQ, hae, coefQ]
  simp only [inCoefArea_congr hr hl, hq]
  exact h

/-- The slot of an enable that starts at its prime point. -/
def slotPrimed (s : State) (n : Nat) : Slot :=
  { Slot.off with
    acc := (slotOf s n).acc, atPrime := true, parking := (slotOf s n).parking, parkAt := (slotOf s n).parkAt,
    noTake := (slotOf s n).noTake, meas := (slotOf s n).meas, cbMode := rb s (slotCtl n) aeSlotctlCBMODE }

/-- A slot that is enabled, before its templates are set. -/
def slotReset (s : State) (n : Nat) : State :=
  winLatch (wf (ramWr (setSlot s n (slotPrimed s n)) n (sBase s n + 0x31) 0) (aeSlotseq (engOf n) (locOf n)) aeSlotseqSEQ 0) n

/-- The templates of a slot are set. -/
def tmplsPreset (s : State) (n : Nat) : State := (List.range 8).foldl (fun t e => if tmplAdapts t n e then adtPreset t n e else t) s

theorem slotStart_eq (hp : rb s (slotPhs n) aeSlotphsPARKED = false) (hc : coefCommit (wb s (slotCtl n) aeSlotctlEN true) n = wb s (slotCtl n) aeSlotctlEN true) :
    slotStart s n = setPhase (tmplsPreset (slotReset (wb s (slotCtl n) aeSlotctlEN true) n) n) n 1 := by
  rw [slotStart, hp, hc]
  rfl

theorem tmplsPreset_kept (s : State) (n : Nat) : RegsBut ((List.range 8).map (adtAddr n)) s (tmplsPreset s n) ∧ SameBut [.regs] s (tmplsPreset s n) := by
  unfold tmplsPreset
  refine List.foldlRecOn (List.range 8) _ (motive := fun t => RegsBut ((List.range 8).map (adtAddr n)) s t ∧ SameBut [.regs] s t) ⟨RegsBut.refl _ s, SameBut.refl _ s⟩
    (fun t ⟨h1, h2⟩ e he => ?_)
  split
  · exact ⟨h1.and (regsBut_wf t _ _ _) (fun a ha => by rw [List.mem_singleton.1 ha]; exact List.mem_map_of_mem he), h2.trans (wf_sameBut t _ _ _)⟩
  · exact ⟨h1, h2⟩

theorem slotReset_spec (h : RamWhole s (engOf n)) : (slotOf (slotReset s n) n).atPrime = true ∧ (slotOf (slotReset s n) n).first = true ∧
    rf (slotReset s n) (aeSlotseq (engOf n) (locOf n)) aeSlotseqSEQ = 0 ∧
    (∀ a, memRd (slotReset s n) a = if a = ramAddr (engOf n) ((sBase s n + 0x31) % 0x2000) then 0 else memRd s a) ∧
    RegsBut [aeSlotseq (engOf n) (locOf n)] s (slotReset s n) ∧ SameBut [.regs, .mem, .ae] s (slotReset s n) := by
  have hram : ramWr (setSlot s n (slotPrimed s n)) n (sBase s n + 0x31) 0 =
      memWr (setSlot s n (slotPrimed s n)) (ramAddr (engOf n) ((sBase s n + 0x31) % 0x2000)) 0 := ramWr_whole (s := setSlot s n (slotPrimed s n)) (fun off => h off) _ _
  rw [slotReset, hram]
  have hm (a : Nat) := memRd_memWr (setSlot s n (slotPrimed s n)) (ramAddr (engOf n) ((sBase s n + 0x31) % 0x2000)) a 0
  have hs : slotOf (memWr (setSlot s n (slotPrimed s n)) (ramAddr (engOf n) ((sBase s n + 0x31) % 0x2000)) 0) n = slotPrimed s n := slotOf_setSlot_same s n _
  have hr : RegsBut [] s (memWr (setSlot s n (slotPrimed s n)) (ramAddr (engOf n) ((sBase s n + 0x31) % 0x2000)) 0) := fun _ _ => rfl
  have hp : SameBut [.regs, .mem, .ae] s (memWr (setSlot s n (slotPrimed s n)) (ramAddr (engOf n) ((sBase s n + 0x31) % 0x2000)) 0) :=
    ((setSlot_sameBut s n _).mono (by decide)).trans ((memWr_sameBut _ _ _).mono (by decide))
  have hmem (a : Nat) : memRd (setSlot s n (slotPrimed s n)) a = memRd s a := rfl
  simp only [hmem] at hm
  generalize memWr (setSlot s n (slotPrimed s n)) (ramAddr (engOf n) ((sBase s n + 0x31) % 0x2000)) 0 = u at hm hs hr hp
  have hq := rf_wf_same u (aeSlotseq (engOf n) (locOf n)) aeSlotseqSEQ 0 rfl
  have hm2 (a : Nat) : memRd (wf u (aeSlotseq (engOf n) (locOf n)) aeSlotseqSEQ 0) a = memRd u a := rfl
  have hs2 : slotOf (wf u (aeSlotseq (engOf n) (locOf n)) aeSlotseqSEQ 0) n = slotOf u n := rfl
  have hr2 : RegsBut [aeSlotseq (engOf n) (locOf n)] s (wf u (aeSlotseq (engOf n) (locOf n)) aeSlotseqSEQ 0) := (hr.trans (regsBut_wf u _ _ _)).mono (by simp)
  have hp2 := hp.and (wf_sameBut u (aeSlotseq (engOf n) (locOf n)) aeSlotseqSEQ 0)
  generalize wf u (aeSlotseq (engOf n) (locOf n)) aeSlotseqSEQ 0 = w at hq hm2 hs2 hr2 hp2
  have hw : slotOf (winLatch w n) n = { slotPrimed s n with winLo := rf w (slotAdtwin n) aeAdtwinELO, winHi := rf w (slotAdtwin n) aeAdtwinEHI } := by
    rw [winLatch, slotOf_setSlot_same, hs2, hs]
  refine ⟨by rw [hw]; rfl, by rw [hw]; rfl, hq, fun a => ?_, hr2, hp2.and (setSlot_sameBut w n _)⟩
  exact (hm2 a).trans (hm a)

theorem slotRegs_ne (n : Nat) : slotBase n ≠ slotCtl n ∧ slotBase n ≠ slotSts n ∧ slotCtl n ≠ slotSts n ∧ aeSlotseq (engOf n) (locOf n) ≠ slotSts n ∧
    aeSlotseq (engOf n) (locOf n) ≠ slotCtl n ∧ slotHoctl n ≠ slotSts n ∧ slotHosts n ≠ slotSts n ∧ slotHoctl n ≠ slotCtl n ∧ slotHosts n ≠ slotCtl n ∧
    slotHosts n ≠ slotHoctl n := by
  simp only [slotBase, aeSlotbase, slotCtl, aeSlotctl, slotSts, aeSlotsts, aeSlotseq, slotHoctl, aeHoctl, slotHosts, aeHosts, engOf, locOf]
  omega

theorem adtAddr_other (n : Nat) : slotCtl n ∉ (List.range 8).map (adtAddr n) ∧ aeSlotseq (engOf n) (locOf n) ∉ (List.range 8).map (adtAddr n) := by
  refine ⟨fun h => ?_, fun h => ?_⟩
  all_goals
    obtain ⟨e, he, h⟩ := List.mem_map.1 h
    simp only [slotCtl, aeSlotctl, adtAddr, aeAdtval, aeSlotseq, engOf, locOf, List.mem_range] at h he
    omega

variable {q : Req} {n : Fin 128}

theorem slotEnable_starts (hon : pdOn s (18 + engOf n.val) = true) (hw : RamWhole s (engOf n.val)) (hq : holdsType s q 2 = true)
    (hen : rb s (slotCtl n.val) aeSlotctlEN = false) (hl : slotLive s n.val = false) (hp : progCheck s n.val = none)
    (hpark : rb s (slotPhs n.val) aeSlotphsPARKED = false) (hc : (coefQ s (engOf n.val)).all (fun p => !inCoefArea s n.val p.1) = true) :
    Runs (.slotEnable q n) s (fun t => rb t (slotCtl n.val) aeSlotctlEN = true ∧ phaseOf t n.val = 1 ∧
      rf t (aeSlotseq (engOf n.val) (locOf n.val)) aeSlotseqSEQ = 0 ∧ (slotOf t n.val).atPrime = true ∧ (slotOf t n.val).first = true ∧
      (∀ a, memRd t a = if a = ramAddr (engOf n.val) ((sBase s n.val + 0x31) % 0x2000) then 0 else memRd s a) ∧
      RegsBut ([slotCtl n.val, slotSts n.val, aeSlotseq (engOf n.val) (locOf n.val)] ++ (List.range 8).map (adtAddr n.val)) s t ∧
      SameBut [.regs, .mem, .ae, .resp] s t) := by
  obtain ⟨d1, d2, d3, d4, d5, -⟩ := slotRegs_ne n.val
  obtain ⟨a1, a2⟩ := adtAddr_other n.val
  have hr0 := regsBut_wb s (slotCtl n.val) aeSlotctlEN true
  have hp0 := wb_sameBut s (slotCtl n.val) aeSlotctlEN true
  have h0 := rb_wb_same s (slotCtl n.val) aeSlotctlEN true rfl
  have hexec : exec (.slotEnable q n) s =
      .next (respond (setPhase (tmplsPreset (slotReset (wb s (slotCtl n.val) aeSlotctlEN true) n.val) n.val) n.val 1) 0) := by
    refine aeWrite_exec (fun s => if rb s (slotCtl n.val) aeSlotctlEN then s else slotEnWrite s n.val) rfl hon hq ?_
    rw [hen, if_neg (by decide), slotEnWrite, hl, if_neg (by decide), slotEnable, hp]
    exact slotStart_eq hpark (coefCommit_none (coefIdle_congr hr0 (by simpa using d1) (hp0 .ae (by decide)) hc))
  have hsb : sBase (wb s (slotCtl n.val) aeSlotctlEN true) n.val = sBase s n.val := hr0.rf_eq (by simpa using d1) _
  have hmem0 (a : Nat) : memRd (wb s (slotCtl n.val) aeSlotctlEN true) a = memRd s a := rfl
  have hw0 : RamWhole (wb s (slotCtl n.val) aeSlotctlEN true) (engOf n.val) := fun off => hw off
  refine ⟨_, hexec, ?_⟩
  generalize wb s (slotCtl n.val) aeSlotctlEN true = u at hr0 hp0 h0 hsb hmem0 hw0
  obtain ⟨r1, r2, r3, r4, r5, r6⟩ := slotReset_spec hw0
  rw [hsb] at r4
  simp only [hmem0] at r4
  generalize slotReset u n.val = w at r1 r2 r3 r4 r5 r6
  obtain ⟨p1, p2⟩ := tmplsPreset_kept w n.val
  have hslot : slotOf (tmplsPreset w n.val) n.val = slotOf w n.val := by rw [slotOf, p2 .ae (by decide), slotOf]
  have hmem (a : Nat) : memRd (tmplsPreset w n.val) a = memRd w a := by rw [memRd, p2 .mem (by decide), memRd]
  generalize tmplsPreset w n.val = x at p1 p2 hslot hmem
  have hph := rf_wf_same x (slotSts n.val) aeSlotstsPHASE 1 rfl
  have hr := regsBut_wf x (slotSts n.val) aeSlotstsPHASE 1
  have hs := wf_sameBut x (slotSts n.val) aeSlotstsPHASE 1
  have hslot' : slotOf (setPhase x n.val 1) n.val = slotOf x n.val := rfl
  have hmem' (a : Nat) : memRd (setPhase x n.val 1) a = memRd x a := rfl
  rw [← setPhase] at hph hr hs
  generalize setPhase x n.val 1 = y at hph hr hs hslot' hmem'
  have hb := regsBut_respond y 0 0
  refine ⟨(hb.rb_eq List.not_mem_nil _).trans ((hr.rb_eq (by simpa using d3) _).trans ((p1.rb_eq a1 _).trans ((r5.rb_eq (by simpa using d5.symm) _).trans h0))),
    (hb.rf_eq List.not_mem_nil _).trans hph, (hb.rf_eq List.not_mem_nil _).trans ((hr.rf_eq (by simpa using d4) _).trans ((p1.rf_eq a2 _).trans r3)),
    ?_, ?_, fun a => ?_, ?_, ?_⟩
  · show (slotOf y n.val).atPrime = true
    rw [hslot', hslot, r1]
  · show (slotOf y n.val).first = true
    rw [hslot', hslot, r2]
  · show memRd y a = _
    rw [hmem', hmem, r4]
  · exact ((((hr0.trans r5).trans p1).trans hr).trans hb).mono (by simp only [List.mem_append, List.mem_cons, List.not_mem_nil, or_false]; tauto)
  · exact ((((hp0.mono (by decide) : SameBut [.regs, .mem, .ae, .resp] s u).and r6).and p2).and hs).and (respond_sameBut y 0 0)

/-- A slot's program is stopped. -/
def slotHushed (s : State) (n : Nat) : State :=
  wb (wf (wb (setPhase s n 0) (slotHoctl n) aeHoctlHOREQ false) (slotHosts n) aeHostsLEFT 0) (slotHosts n) aeHostsHOACT false

theorem slotHushed_spec (s : State) (n : Nat) : phaseOf (slotHushed s n) n = 0 ∧ rb (slotHushed s n) (slotHoctl n) aeHoctlHOREQ = false ∧
    rf (slotHushed s n) (slotHosts n) aeHostsLEFT = 0 ∧
    RegsBut [slotSts n, slotHoctl n, slotHosts n] s (slotHushed s n) ∧ SameBut [.regs] s (slotHushed s n) := by
  obtain ⟨-, -, -, -, -, d6, d7, -, -, d10⟩ := slotRegs_ne n
  unfold slotHushed setPhase
  have h1 := rf_wf_same s (slotSts n) aeSlotstsPHASE 0 rfl
  have r1 := regsBut_wf s (slotSts n) aeSlotstsPHASE 0
  have p1 := wf_sameBut s (slotSts n) aeSlotstsPHASE 0
  generalize wf s (slotSts n) aeSlotstsPHASE 0 = t at h1 r1 p1
  have h2 := rb_wb_same t (slotHoctl n) aeHoctlHOREQ false rfl
  have r2 := regsBut_wb t (slotHoctl n) aeHoctlHOREQ false
  have p2 := p1.and (wb_sameBut t (slotHoctl n) aeHoctlHOREQ false)
  generalize wb t (slotHoctl n) aeHoctlHOREQ false = u at h2 r2 p2
  have h3 := rf_wf_same u (slotHosts n) aeHostsLEFT 0 rfl
  have r3 := regsBut_wf u (slotHosts n) aeHostsLEFT 0
  have p3 := p2.and (wf_sameBut u (slotHosts n) aeHostsLEFT 0)
  generalize wf u (slotHosts n) aeHostsLEFT 0 = w at h3 r3 p3
  have r4 := regsBut_wb w (slotHosts n) aeHostsHOACT false
  exact ⟨(r4.rf_eq (by simpa using d7.symm) _).trans ((r3.rf_eq (by simpa using d7.symm) _).trans ((r2.rf_eq (by simpa using d6.symm) _).trans h1)),
    (r4.rb_eq (by simpa using d10.symm) _).trans ((r3.rb_eq (by simpa using d10.symm) _).trans h2),
    (rf_wb_apart w _ false rfl rfl (by decide)).trans h3, (((r1.trans r2).trans r3).trans r4).mono (by simp), p3.and (wb_sameBut w _ _ _)⟩

/-- A slot that is stopped. -/
def slotIdle (x : Slot) : Slot := { x with held := none, stopping := false, again := false, atPrime := false, unpark := none, noTake := false }

theorem slotStop_eq {s : State} {n : Nat} (hc : (coefQ s (engOf n)).all (fun p => !inCoefArea s n p.1) = true) : slotStop s n =
    setSlot { slotHushed s n with ae := { (slotHushed s n).ae with trigs := (slotHushed s n).ae.trigs.filter (fun p => p.1 != n) } } n
      (slotIdle (slotOf (slotHushed s n) n)) := by
  obtain ⟨-, d2, -⟩ := slotRegs_ne n
  have hcc := coefCommit_none (coefIdle_congr (t := setPhase s n 0) (regsBut_wf s (slotSts n) aeSlotstsPHASE 0) (by simpa using d2) rfl hc)
  rw [slotStop, show phDisabled = 0 from rfl, hcc]
  rfl

theorem slotStop_spec {s : State} {n : Nat} (hc : (coefQ s (engOf n)).all (fun p => !inCoefArea s n p.1) = true) : phaseOf (slotStop s n) n = 0 ∧
    rb (slotStop s n) (slotHoctl n) aeHoctlHOREQ = false ∧ rf (slotStop s n) (slotHosts n) aeHostsLEFT = 0 ∧ (slotOf (slotStop s n) n).held = none ∧
    (slotOf (slotStop s n) n).atPrime = false ∧ RegsBut [slotSts n, slotHoctl n, slotHosts n] s (slotStop s n) ∧ SameBut [.regs, .ae] s (slotStop s n) := by
  obtain ⟨h1, h2, h3, hr, hp⟩ := slotHushed_spec s n
  rw [slotStop_eq hc]
  generalize slotHushed s n = u at h1 h2 h3 hr hp
  have hae : SameBut [.ae] u { u with ae := { u.ae with trigs := u.ae.trigs.filter (fun p => p.1 != n) } } := by
    intro p hp; cases p <;> simp [Part.same] at hp ⊢
  refine ⟨h1, h2, h3, ?_, ?_, hr, ((hp.mono (by decide) : SameBut [.regs, .ae] s u).and hae).and (setSlot_sameBut _ n _)⟩
  · rw [slotOf_setSlot_same]
    rfl
  · rw [slotOf_setSlot_same]
    rfl

theorem dmSuspendAll_none {s t : State} {n : Nat} (hr : RegsBut [slotCtl n] s t) (h : monsOf s 1 n = []) : dmSuspendAll t 1 n = t := by
  rw [dmSuspendAll, hr.monsOf_eq (fun m hm => by simp only [List.mem_singleton, dmCfg, slotCtl, aeSlotctl, engOf, locOf]; omega), h]
  rfl

theorem slotDisable_exec (hon : pdOn s (18 + engOf n.val) = true) (hq : holdsType s q 2 = true) (hen : rb s (slotCtl n.val) aeSlotctlEN = true)
    (hm : monsOf s 1 n.val = []) : exec (.slotDisable q n) s = .next (respond
      (if phaseOf s n.val = 0 then wb s (slotCtl n.val) aeSlotctlEN false
      else if phaseOf s n.val = 2 then slotStop (wb s (slotCtl n.val) aeSlotctlEN false) n.val
      else setSlot (wb s (slotCtl n.val) aeSlotctlEN false) n.val { slotOf s n.val with stopping := true, again := false }) 0) := by
  refine aeWrite_exec (fun s => if rb s (slotCtl n.val) aeSlotctlEN then slotDisable s n.val else s) rfl hon hq ?_
  rw [hen, if_pos rfl, slotDisable, dmSuspendAll_none (regsBut_wb s _ _ _) hm]
  rfl

theorem slotDisable_armed (hon : pdOn s (18 + engOf n.val) = true) (hq : holdsType s q 2 = true) (hen : rb s (slotCtl n.val) aeSlotctlEN = true)
    (hm : monsOf s 1 n.val = []) (hph : phaseOf s n.val = 2) (hc : (coefQ s (engOf n.val)).all (fun p => !inCoefArea s n.val p.1) = true) :
    Runs (.slotDisable q n) s (fun t => rb t (slotCtl n.val) aeSlotctlEN = false ∧ phaseOf t n.val = 0 ∧ rb t (slotHoctl n.val) aeHoctlHOREQ = false ∧
      (slotOf t n.val).held = none ∧ RegsBut [slotCtl n.val, slotSts n.val, slotHoctl n.val, slotHosts n.val] s t ∧ SameBut [.regs, .ae, .resp] s t) := by
  obtain ⟨d1, -, d3, -, -, -, -, d8, d9, -⟩ := slotRegs_ne n.val
  have hexec := slotDisable_exec hon hq hen hm
  rw [hph, if_neg (by decide), if_pos rfl] at hexec
  refine ⟨_, hexec, ?_⟩
  have h0 := rb_wb_same s (slotCtl n.val) aeSlotctlEN false rfl
  have hr0 := regsBut_wb s (slotCtl n.val) aeSlotctlEN false
  have hp0 := wb_sameBut s (slotCtl n.val) aeSlotctlEN false
  generalize wb s (slotCtl n.val) aeSlotctlEN false = u at h0 hr0 hp0
  obtain ⟨h1, h2, -, h4, -, hr, hp⟩ := slotStop_spec (coefIdle_congr hr0 (by simpa using d1) (hp0 .ae (by decide)) hc)
  generalize slotStop u n.val = w at h1 h2 h4 hr hp
  have hb := regsBut_respond w 0 0
  refine ⟨(hb.rb_eq List.not_mem_nil _).trans ((hr.rb_eq (by simp [d3, d8.symm, d9.symm]) _).trans h0), (hb.rf_eq List.not_mem_nil _).trans h1,
    (hb.rb_eq List.not_mem_nil _).trans h2, h4, ((hr0.trans hr).trans hb).mono (by simp), ?_⟩
  exact ((hp0.mono (by decide) : SameBut [.regs, .ae, .resp] s u).and hp).and (respond_sameBut w 0 0)

theorem slotDisable_running (hon : pdOn s (18 + engOf n.val) = true) (hq : holdsType s q 2 = true) (hen : rb s (slotCtl n.val) aeSlotctlEN = true)
    (hm : monsOf s 1 n.val = []) (hph : phaseOf s n.val = 1) : Runs (.slotDisable q n) s (fun t =>
      slotOf t n.val = { slotOf s n.val with stopping := true, again := false } ∧ RegsAre [withFld s (slotCtl n.val) aeSlotctlEN 0] s t ∧
      SameBut [.regs, .ae, .resp] s t) := by
  have hexec := slotDisable_exec hon hq hen hm
  rw [hph, if_neg (by decide), if_neg (by decide)] at hexec
  refine ⟨_, hexec, ?_⟩
  have ha := regsAre_wb s (slotCtl n.val) aeSlotctlEN false
  have hp0 := wb_sameBut s (slotCtl n.val) aeSlotctlEN false
  generalize wb s (slotCtl n.val) aeSlotctlEN false = u at ha hp0
  exact ⟨slotOf_setSlot_same u _ _, (ha.and (regsBut_setSlot u _ _)).and (regsBut_respond _ 0 0),
    ((hp0.mono (by decide) : SameBut [.regs, .ae, .resp] s u).and (setSlot_sameBut u _ _)).and (respond_sameBut _ 0 0)⟩

end Enables

/-- Settles O29: each clause is the result lemma of its command. -/
theorem slotCommands : Obligations.SlotCommands := by
  unfold Obligations.SlotCommands
  intro s q n w e v r i b g off regs hon hw
  exact ⟨fun hq => ⟨fun hen hl => ⟨slotEnable_starts hon hw hq hen hl, slotEnable_refused hon hq hen hl⟩,
      fun hen hm => ⟨slotDisable_armed hon hq hen hm, slotDisable_running hon hq hen hm⟩,
      manualModeWrite_result b hon hq, cbmodeWrite_result b hon hq, templateWrite_plain hon hq, templateWrite_adapts hon hq⟩,
    slotAdopt_result hon, bswap_live hon, bswap_idle hon, horeq_result hon, coefWrite_state rfl hon, coefWrite_locked rfl hon,
    fun h hp => ⟨coefWrite_stored rfl hon hw h hp, fun m ha hc hq => coefWrite_queued rfl hon h hp ha hc hq⟩⟩

end Sys2Proof.Machine
